-- ==== Sys2Proof/Word.lean ====
section
/-! DEFINITION. The word types of the model: what the manual treats as bits. -/

namespace Sys2Proof

/-- A byte (R15: eight bits, bit 0 the least significant). -/
abbrev Byte := BitVec 8

/-- A 32-bit lane, accumulator, token or FP32 value. -/
abbrev W32 := BitVec 32

/-- A scratchpad row: 512 bytes, byte 0 in the lowest bits (R182, R15). -/
abbrev Row := BitVec 4096

/-- A quarter of a row: 128 bytes (Table 8-1). -/
abbrev Quarter := BitVec 1024

end Sys2Proof
end

