-- ==== Sys2Proof/Syntax.lean ====
section
/-! DEFINITION. The commands of the block: one constructor of `Instr` for each row of the table of
operations and events, with the operands it has. A Jexeri command carries the command entry as firmware
takes it; a step of a core carries the core and the bay cycle; a happening carries the unit, what was
read there and the wall time in nanoseconds. -/

namespace Sys2Proof

/-! ## Units -/

/-- A site (x,y) of the substrate: 16 columns, 14 rows (Table 0-5). -/
structure SiteId where
  x : Fin 16
  y : Fin 14
  deriving DecidableEq, Repr

/-- A core [cx,cy] in panel coordinates (R23, R24). -/
structure CoreId where
  cx : Fin 128
  cy : Fin 80
  deriving DecidableEq, Repr

/-- An HBM stack ordinal (Table 1-2). -/
abbrev StackId := Fin 32
/-- A weight-store die ordinal (Table 1-2). -/
abbrev StoreDieId := Fin 16
/-- A link die ordinal (Table 1-2). -/
abbrev LinkDieId := Fin 12
/-- A link number (Table 1-2). -/
abbrev LinkId := Fin 48
/-- A firmware processor index (Table 16-1). -/
abbrev ProcId := Fin 224
/-- A bay handle (R289). -/
abbrev BayId := Fin 512

/-- A side of a router (R218). -/
inductive Side where
  | n | e | s | w
  deriving DecidableEq, Repr

/-- A port of a service router (Table 15-15e, HOP_DOWN). -/
inductive HopSide where
  | n | e | s | w | localPort | diag
  deriving DecidableEq, Repr

/-- A voltage domain (Table 17-2). -/
inductive Domain where
  | logic | array | link | memif
  deriving DecidableEq, Repr

/-- A hot spot: one of a site, or one of the two of the coolant manifolds (Table 18-3, R523). -/
inductive HotSpot where
  | site (p : SiteId) (h : Fin 8)
  | coolant (h : Fin 2)
  deriving DecidableEq, Repr

/-- What LIMIT_LONG names (Table 17-11). -/
inductive LimitUnit where
  | quadrant (n : Fin 4)
  | panel
  | die (p : SiteId)
  deriving DecidableEq, Repr

/-- A management segment (R559). -/
inductive Segm where
  | a | b
  deriving DecidableEq, Repr

/-- The mode of a segment (R561, R562). -/
inductive SegMode where
  | plca | csma | down
  deriving DecidableEq, Repr

/-! ## Jexeri -/

/-- A command entry of 64 bytes (Table 15-9). -/
structure CmdEntry where
  opcode : BitVec 16
  flags : BitVec 8
  part : BitVec 8
  cmdId : BitVec 32
  payloadAddr : BitVec 64
  payloadLen : BitVec 32
  rsv : BitVec 32
  inlineData : List Byte
  deriving DecidableEq, Repr

/-- The way a command came in: the admin mailbox, a queue pair, or a Jexeri-M frame with the payload
that follows the entry in it (R435, R438, R571). -/
inductive Via where
  | mailbox
  | queue (qid : Fin 64)
  | mgmt (sender seq : BitVec 64) (body : List Byte)
  deriving DecidableEq, Repr

/-- A command as firmware takes it, at a wall time in ns. -/
structure Cmd where
  time : Nat
  via : Via
  entry : CmdEntry
  deriving DecidableEq, Repr

/-! ## Packets, flits and frames -/

/-- A service-fabric packet: the header of Table 11-4 and its bytes. -/
structure Packet where
  dest : BitVec 56
  srcX : BitVec 4
  srcY : BitVec 4
  srcUnit : BitVec 8
  opcode : BitVec 4
  fw : Bool
  part : BitVec 3
  len : Nat
  tag : BitVec 12
  status : BitVec 4
  data : List Byte
  deriving DecidableEq, Repr

/-- What the codes of the store find in the words an access reads: the byte offsets, within the unit, of
the words that were corrected and of those that cannot be (Table 19-1). -/
structure EccFinding where
  corrected : List Nat
  uncorrectable : List Nat
  deriving DecidableEq, Repr

/-- A flit on a hop of the service fabric (Table 11-3). -/
structure HopFlit where
  sideband : BitVec 160
  payload : BitVec 512
  deriving DecidableEq, Repr

/-- A purlin segment (Table 13-10). -/
structure Segment where
  purlin : BitVec 8
  kind : BitVec 8
  transfer : BitVec 16
  len : Nat
  region : BitVec 16
  seq : BitVec 32
  offset : BitVec 64
  payload : List Byte
  deriving DecidableEq, Repr

/-- A link flit of 256 bytes (Table 14-2), with what the lanes' codes found as it came: the symbols that each lane corrected,
and the lanes with an uncorrectable codeword (R392). -/
structure LinkFlit where
  bytes : List Byte
  corrected : List (Fin 4 × Nat)
  dead : List (Fin 4)
  deriving DecidableEq, Repr

/-- What a training found: the lanes of the test set that passed at both ends, and the peer (R397, R400). -/
structure TrainResult where
  pass : BitVec 4
  peerPanel : BitVec 16
  peerLink : BitVec 8
  deriving DecidableEq, Repr

/-- Why an active link retrains on its own (R398). -/
inductive RetrainCause where
  | replays
  | lostLock (lane : Fin 4)
  | uncorrectable (lane : Fin 4)
  deriving DecidableEq, Repr

/-- What the final burst of a KIND 4 descriptor carries beside its WRITE (R406). -/
structure RankExtra where
  last : Bool
  rset : Bool
  rslot : BitVec 6
  deriving DecidableEq, Repr

/-- A link packet (Table 14-5) with its payload. -/
structure LinkPacket where
  destPanel : BitVec 16
  srcPanel : BitVec 16
  job : BitVec 16
  kind : BitVec 8
  flags : BitVec 8
  dcx : BitVec 8
  dcy : BitVec 8
  rslot : BitVec 8
  contrib : BitVec 8
  hops : BitVec 8
  status : BitVec 8
  offset : BitVec 32
  tag : BitVec 32
  payload : List Byte
  deriving DecidableEq, Repr

/-- A CXL.mem access: an HDM offset, a length, and the bytes of a write (R422). -/
structure HdmAccess where
  off : Nat
  len : Nat
  wr : Option (List Byte)
  deriving DecidableEq, Repr

/-- A BAR2 access: an offset, a length, and the bytes of a write (R431). -/
structure BarAccess where
  off : Nat
  len : Nat
  wr : Option (List Byte)
  deriving DecidableEq, Repr

/-- A doorbell write with SQ_WR: the tail, and with CQ_WR the head (Table 15-13). -/
structure SqBell where
  tail : BitVec 12
  head : Option (BitVec 12)
  deriving DecidableEq, Repr

/-- A BAR0 write: an offset, a width in bytes and a value (R427). -/
structure RegWrite where
  off : Nat
  size : Nat
  value : BitVec 64
  deriving DecidableEq, Repr

/-- What causes a host-port reset (R449). -/
inductive PortResetCause where
  | perst | cxlReset | linkDown
  deriving DecidableEq, Repr

/-- The mode and width the host port trained to (Table 15-2). -/
structure LinkMode where
  code : Fin 3
  width : Nat
  deriving DecidableEq, Repr

/-- Where a received frame is sent to (Table 20-1, step 2). -/
inductive FrameDst where
  | own | allNodes | solicited | other
  deriving DecidableEq, Repr

/-- What a received frame holds, as steps 3 and 4 of Table 20-1 read it. -/
inductive FrameBody where
  | solicitation (target : BitVec 128)
  | udp (port hopLimit : Nat) (datagram : List Byte)
  | other
  deriving DecidableEq, Repr

/-- A frame received on a management segment. -/
structure Frame where
  fcsOk : Bool
  dst : FrameDst
  linkLocal : Bool
  src : BitVec 128
  body : FrameBody
  deriving DecidableEq, Repr

/-! ## Outcomes and readings that the world supplies -/

/-- What identity validation's reach and self-test find at a die: whether it answers, whether it passes,
its good cores, its capacity in MiB and the usable lanes (R27, R48, R480). -/
structure SelfTest where
  answers : Bool
  pass : Bool
  coreGood : BitVec 64
  capacity : BitVec 32
  deriving DecidableEq, Repr

/-- The outcome of a bring-up step at one site. -/
structure SiteOutcome where
  p : SiteId
  r : SelfTest
  deriving DecidableEq, Repr

/-- The self-test of the two management dies (R474) and their secure boot results are read from these. -/
structure MgmtSelfTest where
  pass4 : Bool
  pass9 : Bool
  slotId : BitVec 5
  deriving DecidableEq, Repr

/-- The tick averages of one site (R492, Table 17-9). -/
structure SitePower where
  p : SiteId
  cur : List Nat
  branch : Nat
  vminLogic : Nat
  vminArray : Nat
  deriving DecidableEq, Repr

/-- The tick averages of the panel (R492, Table 17-8). -/
structure PowerReadings where
  inputMv : Nat
  inputMa : Nat
  quadMa : List Nat
  auxMw : Nat
  sites : List SitePower
  deriving DecidableEq, Repr

/-- One tick's measure of a path: output voltage and sensor average in mV, current in mA (R500). -/
structure PathReading where
  vout : Nat
  vavg : Nat
  cur : Nat
  deriving DecidableEq, Repr

/-- The 100 ms averages of the two flow sensors in mL/min, and the 1 s average input power in W (R515, R519). -/
structure FlowReading where
  dp : Nat
  th : Nat
  watts : Nat
  deriving DecidableEq, Repr

/-- What the switch controller reads, in mV, and how long PRSNT_A# has read low, in ns (R585). -/
structure SwitchReadings where
  bulk : Nat
  sense : Nat
  blade : Nat
  presentNs : Nat
  deriving DecidableEq, Repr

/-! ## The commands -/

/-- The commands of the block, one constructor for each row of the table of operations and events. -/
inductive Instr where
  /-- FLOORPLAN_GET (R43). Writes the 14,400-byte floor plan record of one generation to a host buffer and returns GENERATION in the detail. -/
  | floorplanGet (c : Cmd)
  /-- SITE_FENCE (R45). Fences a good or partial compute, HBM, link or weight-store site with reason HOST_FENCE and records the fence in the persistent list. -/
  | siteFence (c : Cmd)
  /-- SITE_UNFENCE (R46). Takes a fenced or reserve die to good or partial and records the unfence; unfencing a reserve die is sistering. -/
  | siteUnfence (c : Cmd)
  /-- SITE_UNFENCE_DEFAULT (R47). With FLAGS bit 0 set, restores the factory default of every site in one record step and clears all host fence entries. -/
  | siteUnfenceDefault (c : Cmd)
  /-- SITE_RETEST (R48). Accepts a failed, unowned, powered site for identity validation and self-test. -/
  | siteRetest (c : Cmd)
  /-- SITE_RETEST_COMPLETE (R48). When the retest ends, within 2 s, sets the site good, partial or failed, updates the persistent list and completes with the new STATE and REASON. -/
  | siteRetestComplete (p : SiteId) (r : SelfTest) (time : Nat)
  /-- MATRIX_STEP (R120). Issues a matrix operation into the matrix engine's 4-entry operation queue. -/
  | matrixStep (k : CoreId) (t : Nat)
  /-- MATRIX_STEP_START (R128). A queued MATRIX_STEP starts on a free engine and occupies it for max(N·occ, 32) cycles, reading its operand rows step by step. -/
  | matrixStepStart (k : CoreId) (t : Nat)
  /-- OPERAND_RELEASE (R126). In the cycle after the last occupied cycle, a consumed A or B slot becomes empty. -/
  | operandRelease (k : CoreId) (t : Nat)
  /-- BANK_COMPLETE (R129). In each addition cycle the chunk sums are added to the bank, and the last one makes the bank complete and sets OVF or NANC as needed. -/
  | bankComplete (k : CoreId) (t : Nat)
  /-- TILE_IN_QUEUE (R131). After the 32-cycle drain, the tile enters the tile queue. -/
  | tileInQueue (k : CoreId) (t : Nat)
  /-- VECTOR_CHAIN (R68). Issues a fused chain into the vector engine's 4-entry operation queue. -/
  | vectorChain (k : CoreId) (t : Nat)
  /-- VECTOR_CHAIN_START (R160). A queued chain starts: it reads its VL, then processes one beat per cycle and writes output rows F cycles later. -/
  | vectorChainStart (k : CoreId) (t : Nat)
  /-- VECTOR_INPUT_CONSUME (R163). At t0 + B, the chain's consumed input slots become empty. -/
  | vectorInputConsume (k : CoreId) (t : Nat)
  /-- VECTOR_OUTPUT_FULL (R163). At t0 + F + B, the chain's output slots become full. -/
  | vectorOutputFull (k : CoreId) (t : Nat)
  /-- SCAN_CALL (R167). Issues a scan call into the scan unit's 2-entry operation queue. -/
  | scanCall (k : CoreId) (t : Nat)
  /-- SCAN_CALL_START (R177). A queued scan call starts, reads its step counter and runs chunked recurrences, reading and writing rows at fixed cycles. -/
  | scanCallStart (k : CoreId) (t : Nat)
  /-- SCAN_INPUT_EMPTY (R178). At t0 + W, the call's A and B slots become empty. -/
  | scanInputEmpty (k : CoreId) (t : Nat)
  /-- SCAN_OUTPUT_FULL (R178). At t0 + L + W, the output slot, and the state slot when T ≥ 1, become full. -/
  | scanOutputFull (k : CoreId) (t : Nat)
  /-- ACCESS_ENQ (R195). Reads COUNT access descriptors from the scratchpad and queues them in its reserved entries. -/
  | accessEnq (k : CoreId) (t : Nat)
  /-- DESCRIPTOR_START (R202). The head descriptor is checked and starts once its WAIT tag holds, then issues bursts as burst slots free. -/
  | descriptorStart (k : CoreId) (time : Nat)
  /-- BURST_RESPONSE (R203). A burst's data or acknowledgement returns, its rows are written, and its burst slot frees. -/
  | burstResponse (k : CoreId) (tag : BitVec 12) (time : Nat)
  /-- DESCRIPTOR_COMPLETE (R204). Once every row is done and earlier descriptors have completed, the descriptor takes its TAG action and releases its entry. -/
  | descriptorComplete (k : CoreId) (time : Nat)
  /-- REMOTE_SCRATCHPAD_WRITE (R206). A remote write lands in a core's rows, waiting while an RSET target slot is full, and then sets that slot full after its last row. -/
  | remoteScratchpadWrite (k : CoreId) (time : Nat)
  /-- SEND (R70). Drives slot rows into the router injection port on consecutive row cycles. -/
  | send (k : CoreId) (t : Nat)
  /-- SEND_TAG_EMPTY (R70). A SEND with TAG = 1 empties its slot in the cycle after it drives its last item. -/
  | sendTagEmpty (k : CoreId) (t : Nat)
  /-- RECEIVE (R222). Captures rows from the ejection port and writes each one 3 cycles after capture. -/
  | receive (k : CoreId) (t : Nat)
  /-- RECEIVE_TAG_FULL (R70). A RECEIVE with TAG = 1 sets its slot full 1 cycle after its last row is due. -/
  | receiveTagFull (k : CoreId) (t : Nat)
  /-- CLOAD (R71). Loads an immediate into a counter and clears its dynamic property. -/
  | cload (k : CoreId) (t : Nat)
  /-- CSTEP (R72). Adds a signed delta to a counter, saturating at 0 and at 65,535. -/
  | cstep (k : CoreId) (t : Nat)
  /-- CLOOP (R73). Latches a trip count and runs a loop body, padded with shim iterations to MAX, or forever. -/
  | cloop (k : CoreId) (t : Nat)
  /-- CTEST (R71). Shims the next SKIP operations according to the counter value. -/
  | ctest (k : CoreId) (t : Nat)
  /-- PRODUCE (R224). Builds a token with the current epoch and offers it at KINJ at issue + 2 or issue + 4. -/
  | produce (k : CoreId) (t : Nat)
  /-- CONSUME (R82). Removes the head token of a queue into a counter or discards it; an empty queue loads 0. -/
  | consume (k : CoreId) (t : Nat)
  /-- PEG_PAGE (R85). Selects the router peg page that becomes active at the next period boundary. -/
  | pegPage (k : CoreId) (t : Nat)
  /-- EPOCH_MARK (R83). Increments the core epoch, discards old-epoch tokens, and writes mark entries into outgoing crossings. -/
  | epochMark (k : CoreId) (t : Nat)
  /-- CHECK_AHEAD (R61). The lookahead evaluates an operation's condition H cycles before issue, reserves descriptor entries and requests a hold if unmet. -/
  | checkAhead (k : CoreId) (t : Nat)
  /-- PEG_ENTRY (R230). A router runs one peg entry: it routes items on three layers and fires adders and steering units. -/
  | pegEntry (k : CoreId) (t : Nat)
  /-- PEG_CHECK (R260). The peg lookahead claims an accepted entry or a credit for a crossing peg H cycles ahead, and requests a hold if none is left. -/
  | pegCheck (k : CoreId) (t : Nat)
  /-- CROSSING_ENTRY (R243). An entry becomes visible at the head of a crossing and is discarded, taken as a mark, or accepted. -/
  | crossingEntry (k : CoreId) (side : Side) (time : Nat)
  /-- CREDIT_RETURN (R266). A returned crossing credit reaches the sender's checks. -/
  | creditReturn (k : CoreId) (side : Side) (time : Nat)
  /-- BAY_FREEZE (R258). The bay freezes after cycle c + 6 for an unmet hold condition or a host hold. -/
  | bayFreeze (b : BayId) (time : Nat)
  /-- BAY_RESUME (R259). When the last hold condition is met, the head runs the next cycle within 6 oscillator periods. -/
  | bayResume (b : BayId) (time : Nat)
  /-- BANK_HOLD (R262). A planned bank hold freezes the bay after cycle c + 2 for the excess periods and counts BANK_HOLDS. -/
  | bankHold (k : CoreId) (t : Nat)
  /-- DROOP (R256). A core's droop report reaches the head, which stretches the next period by the level's amount. -/
  | droop (k : CoreId) (t : Nat) (level : Fin 4)
  /-- BAY_LOAD (R290). Runs the load checks in order and, on success, loads the image into the core set as a new bay in state loaded. -/
  | bayLoad (c : Cmd)
  /-- BAY_START (R252). Seeds the stochastic generators, sets the operating point and runs cycle 0 of a loaded bay. -/
  | bayStart (c : Cmd)
  /-- BAY_HOLD (R252). Adds the host hold condition to a bay. -/
  | bayHold (c : Cmd)
  /-- BAY_RELEASE (R252). Removes the host hold condition from a held bay. -/
  | bayRelease (c : Cmd)
  /-- BAY_STOP (R268). Stops a bay through input stop, drain and epoch increment. -/
  | bayStop (c : Cmd)
  /-- BAY_RECONFIGURE (R268). Stops a bay and loads a new image with the incremented epoch onto the same core set. -/
  | bayReconfigure (c : Cmd)
  /-- BAY_SET_POINT (R255). Accepts a change of the bay's operating point, raising the rail first when needed. -/
  | baySetPoint (c : Cmd)
  /-- RAIL_RAISED (R254). The die rail reaches the new voltage, and the point-change command is delivered to the head. -/
  | railRaised (b : BayId) (time : Nat)
  /-- POINT_STOP (R255). After the 6th cycle from the command, the bay freezes and the head oscillator stops to relock. -/
  | pointStop (b : BayId) (time : Nat)
  /-- RELOCK_END (R255). After 1.5 µs the oscillator runs at the new frequency, cycle n + 1 runs and the command completes. -/
  | relockEnd (b : BayId) (time : Nat)
  /-- BAY_STATUS (R274). Writes the bay status header and per-core records to a host buffer. -/
  | bayStatus (c : Cmd)
  /-- TIME_EXCHANGE (R273). Samples cycle count, tick and frozen time and writes the time record. -/
  | timeExchange (c : Cmd)
  /-- BAY_REMOVE (R293). Frees a loaded or stopped bay's handle and cores and makes its peers' crossings pending. -/
  | bayRemove (c : Cmd)
  /-- LOAD_REPORT_GET (R294). Writes the last 16 load reports of the partition to a host buffer. -/
  | loadReportGet (c : Cmd)
  /-- HAZARD_GET (R297). Writes and clears a debug bay's trap records. -/
  | hazardGet (c : Cmd)
  /-- STOP_CYCLE (R268). At the stop cycle, issue stops, holds are dropped, crossings close and the bay enters draining. -/
  | stopCycle (b : BayId) (time : Nat)
  /-- DRAIN_COMPLETE (R268). 256 cycles after all engines are idle, the clock stops, the epoch increments, stale tokens are discarded and the bay is stopped or reloaded. -/
  | drainComplete (b : BayId) (time : Nat)
  /-- DRAIN_OVERRUN (R268). When the drain bound expires, the bay is stopped where it stands and a drain-overrun event is raised. -/
  | drainOverrun (b : BayId) (time : Nat)
  /-- FAULT_HOLD (R269). A fault freezes the bay after the 6th cycle in a fault hold that never resumes, and the bay-fault event is raised. -/
  | faultHold (b : BayId) (time : Nat)
  /-- BAY_HELD_LONG (R275). After 100 ms held without a break, the bay-held-long event is raised. -/
  | bayHeldLong (b : BayId) (time : Nat)
  /-- BAY_DONE (R275). When every core has finished under R58, the bay enters done and the bay-done event is raised. -/
  | bayDone (b : BayId) (time : Nat)
  /-- SERVICE_READ (R302). A READ packet arrives at its destination unit and is answered with DATA or an ERROR. -/
  | serviceRead (q : Packet) (f : EccFinding) (time : Nat)
  /-- SERVICE_WRITE (R302). A WRITE packet arrives at its destination unit, is checked, written and acknowledged. -/
  | serviceWrite (q : Packet) (f : EccFinding) (time : Nat)
  /-- CTRL_PACKET (R302). A one-way CTRL packet arrives at a firmware unit. -/
  | ctrlPacket (q : Packet) (time : Nat)
  /-- SERVICE_RESPONSE (R304). A DATA, ACK or ERROR response arrives at its requester's reserved space. -/
  | serviceResponse (q : Packet) (time : Nat)
  /-- REQUEST_EXPIRED (R311). With no response 10 ms after a request left, the source router delivers ERROR EXPIRED. -/
  | requestExpired (p : SiteId) (u : BitVec 8) (tag : BitVec 12) (time : Nat)
  /-- HOP_REPLAY (R312). A flit with a bad hop CRC is discarded with its successors, and a replay is requested. -/
  | hopReplay (p : SiteId) (side : HopSide) (f : HopFlit) (time : Nat)
  /-- HOP_RETRAIN (R313). A hop that replays the same flit 8 times retrains. -/
  | hopRetrain (p : SiteId) (side : HopSide) (ok : Bool) (time : Nat)
  /-- ROUTE_REWRITE (R307). Within 1 ms of a change in working routers, firmware rewrites every router's route tables. -/
  | routeRewrite (time : Nat)
  /-- CONGESTION_SAMPLE (R321). Every 64 fabric cycles, each router samples input-port fill into bins and counts credit waits. -/
  | congestionSample (p : SiteId) (fills : List Nat) (waits : List (List Bool)) (time : Nat)
  /-- CONGESTION_WINDOW_END (R321). At each tick boundary, the congestion window closes and is kept among the last 16. -/
  | congestionWindowEnd (time : Nat)
  /-- PARTITION_CREATE (R318). Creates an empty partition with its DEBUG and INJECT flags. -/
  | partitionCreate (c : Cmd)
  /-- PARTITION_DESTROY (R318). Destroys an existing partition that owns no site. -/
  | partitionDestroy (c : Cmd)
  /-- PARTITION_ADD (R319). Gives a site to a partition and prepares the unit, clearing die buffers, HBM or rank tables. -/
  | partitionAdd (c : Cmd)
  /-- PARTITION_REMOVE (R320). Removes a site from its partition when no bay, window or table uses it. -/
  | partitionRemove (c : Cmd)
  /-- WINDOW_SET (R330). Sets an interleave window of a partition over a set of its stacks. -/
  | windowSet (c : Cmd)
  /-- WINDOW_CLEAR (R330). With CLEAR set, unsets an interleave window. -/
  | windowClear (c : Cmd)
  /-- MEM_SCRUB_SET (R328). Sets the patrol scrub period of one stack or of every stack. -/
  | memScrubSet (c : Cmd)
  /-- FABRIC_MAP_GET (R322). Writes a panel-wide congestion map window to a host buffer. -/
  | fabricMapGet (c : Cmd)
  /-- PATROL_SCRUB (R328). The scrubber reads each word once per period, writes corrected words back and reports uncorrectable ones. -/
  | patrolScrub (st : StackId) (word : Nat) (f : EccFinding) (time : Nat)
  /-- ROW_RETIRE (R544). At the scrubber's next visit, a failing DRAM row is moved into a spare row. -/
  | rowRetire (st : StackId) (row : Nat) (time : Nat)
  /-- EMB_TABLE_CREATE (R335). Defines an embedding table on a stack at epoch 0 with rebuild state IDLE. -/
  | embTableCreate (c : Cmd)
  /-- EMB_TABLE_DESTROY (R336). Removes an unused embedding table. -/
  | embTableDestroy (c : Cmd)
  /-- REQUEST_PORT_WRITE (R338). A WRITE to the request port queues its 64-byte lookup requests and is acknowledged. -/
  | requestPortWrite (q : Packet) (time : Nat)
  /-- LOOKUP_START (R339). The engine starts the next queued lookup request, checks it and reads its indices and rows. -/
  | lookupStart (st : StackId) (f : EccFinding) (time : Nat)
  /-- LOOKUP_RESULT (R342). The pooled result record is written, and the RSET action is performed when requested. -/
  | lookupResult (st : StackId) (order : List Nat) (time : Nat)
  /-- EMB_BATCH_OPEN (R348). Opens a batch that pins every table of the partition at its current epoch. -/
  | embBatchOpen (c : Cmd)
  /-- EMB_BATCH_CLOSE (R351). Accepts the close of an open batch. -/
  | embBatchClose (c : Cmd)
  /-- EMB_BATCH_RELEASE (R351). Once the batch's requests have written their results, the pins are released and the handle freed. -/
  | embBatchRelease (part : Fin 8) (batch : Nat) (time : Nat)
  /-- EMB_REBUILD_START (R353). Starts a rebuild of a table's idle copy. -/
  | embRebuildStart (c : Cmd)
  /-- REBUILD_ROW_WRITE (R352). The rebuild writes the next idle-copy row within its bandwidth share. -/
  | rebuildRowWrite (st : StackId) (tab : Fin 64) (f : EccFinding) (time : Nat)
  /-- REBUILD_STARVED (R354). A running rebuild that writes no row for 1 s raises a starved event. -/
  | rebuildStarved (st : StackId) (tab : Fin 64) (time : Nat)
  /-- EMB_REBUILD_PAUSE (R355). Pauses a running rebuild. -/
  | embRebuildPause (c : Cmd)
  /-- EMB_REBUILD_RESUME (R355). Resumes a paused rebuild. -/
  | embRebuildResume (c : Cmd)
  /-- EMB_REBUILD_SHARE (R355). Changes the rebuild's bandwidth share from the next window. -/
  | embRebuildShare (c : Cmd)
  /-- EMB_REBUILD_ABORT (R355). Aborts a rebuild to IDLE and leaves the idle copy partly written. -/
  | embRebuildAbort (c : Cmd)
  /-- EMB_COMMIT (R356). Increments the epoch of a COMPLETE table, which makes the rebuilt copy current. -/
  | embCommit (c : Cmd)
  /-- EMB_TABLE_STATUS (R357). Writes a table's status record. -/
  | embTableStatus (c : Cmd)
  /-- INFLATE_READ (R366). A READ to the inflate unit returns blocks of a page, decoded when the page is CODED. -/
  | inflateRead (q : Packet) (f : EccFinding) (time : Nat)
  /-- PAGE_SWEEP (R360). Every 7 days the die reads each written page and checks its CRC. -/
  | pageSweep (w : StoreDieId) (page : Nat) (time : Nat)
  /-- WSTORE_INSTALL_BEGIN (R369). Puts the panel into installation mode. -/
  | wstoreInstallBegin (c : Cmd)
  /-- WSTORE_INSTALL_END (R371). Ends installation mode. -/
  | wstoreInstallEnd (c : Cmd)
  /-- WSTORE_WRITE (R372). Checks a signed weight image and starts the dies writing its pages. -/
  | wstoreWrite (c : Cmd)
  /-- PAGE_WRITE (R374). One page write, 819 µs, changes data and record together, then is checked by read-back and the open-image marker is updated. -/
  | pageWrite (w : StoreDieId) (time : Nat)
  /-- WSTORE_STATUS (R376). Writes a weight-store die record and page records. -/
  | wstoreStatus (c : Cmd)
  /-- WSET_STAGE (R380). Creates a STAGED generation of regions in a model slot. -/
  | wsetStage (c : Cmd)
  /-- WSET_SWITCH (R381). Makes the STAGED generation CURRENT and retires or releases the former one. -/
  | wsetSwitch (c : Cmd)
  /-- WSET_DISCARD (R382). Releases the slot's STAGED generation. -/
  | wsetDiscard (c : Cmd)
  /-- WSET_DISCARD_CURRENT (R382). With FLAGS bit 0 set, takes the CURRENT generation out of that state. -/
  | wsetDiscardCurrent (c : Cmd)
  /-- WSET_BATCH_OPEN (R383). Pins every slot's CURRENT generation and writes the generation numbers. -/
  | wsetBatchOpen (c : Cmd)
  /-- WSET_BATCH_CLOSE (R383). Releases a weight batch's pins. -/
  | wsetBatchClose (c : Cmd)
  /-- WSET_GET (R385). Writes a generation's head and region entries. -/
  | wsetGet (c : Cmd)
  /-- PURLIN_SET (R387). Configures a purlin's role, target and next rank. -/
  | purlinSet (c : Cmd)
  /-- PURLIN_SEND (R388). The head reads its source and sends purlin segments, writing each locally. -/
  | purlinSend (c : Cmd)
  /-- SEGMENT_RECEIVE (R390). A panel takes a purlin segment, checks and writes it, and forwards it or stops the transfer. -/
  | segmentReceive (part : Fin 8) (seg : Segment) (time : Nat)
  /-- LINK_FLIT_RECEIVE (R394). A link flit is checked and accepted, or discarded with a replay request. -/
  | linkFlitReceive (l : LinkId) (f : LinkFlit) (time : Nat)
  /-- LINK_TRAINING (R397). A link training ends, setting the width from the lanes that passed or failing. -/
  | linkTraining (l : LinkId) (r : TrainResult) (time : Nat)
  /-- LINK_RETRAIN (R398). A link retrains on its own after repeated replay, lost lock or uncorrectable codewords. -/
  | linkRetrain (l : LinkId) (cause : RetrainCause) (time : Nat)
  /-- LINK_PANEL_ID_SET (R402). Sets the panel's PANEL_ID. -/
  | linkPanelIdSet (c : Cmd)
  /-- PARTITION_LINK_SET (R405). Sets a partition's JOB and RANK_BASE. -/
  | partitionLinkSet (c : Cmd)
  /-- RANK_TABLE_SET (R405). Writes rank-table entries to every copy. -/
  | rankTableSet (c : Cmd)
  /-- TRANSIT_SET (R410). Writes transit-table entries. -/
  | transitSet (c : Cmd)
  /-- LINK_CTRL (R398). Retrains a link up to MAX_WIDTH with all four lanes tested. -/
  | linkCtrl (c : Cmd)
  /-- LINK_STATUS (R416). Writes link status records. -/
  | linkStatus (c : Cmd)
  /-- LINK_EGRESS_WRITE (R407). The egress link die turns a rank WRITE into a link packet and sends it. -/
  | linkEgressWrite (q : Packet) (x : RankExtra) (time : Nat)
  /-- LINK_ACK_ARRIVAL (R407). The destination's ACK packet returns, and the source is answered with its status. -/
  | linkAckArrival (l : LinkId) (q : LinkPacket) (time : Nat)
  /-- LINK_ACK_EXPIRED (R407). With no ACK 8 ms after the WRITE, the source is answered with EXPIRED. -/
  | linkAckExpired (l : LinkId) (tag : BitVec 32) (time : Nat)
  /-- LINK_PACKET_ARRIVAL (R408). A link packet for this panel is delivered by JOB to a scratchpad, a reduction home or a purlin. -/
  | linkPacketArrival (l : LinkId) (q : LinkPacket) (time : Nat)
  /-- REDUCTION_ADD (R413). The reduction home adds an incoming row into the target row and counts contributions toward a set-full. -/
  | reductionAdd (h : LinkDieId) (time : Nat)
  /-- HDM_ACCESS (R422). A CXL.mem access is carried to the stack of its HDM slot, or completed with an error under R423. -/
  | hdmAccess (a : HdmAccess) (f : EccFinding) (time : Nat)
  /-- BIAS_SET (R425). Sets host or device bias on a range of HDM pages. -/
  | biasSet (c : Cmd)
  /-- HOST_WINDOW_SET (R426). Sets a host window of a partition with its directions. -/
  | hostWindowSet (c : Cmd)
  /-- HOST_WINDOW_CLEAR (R426). With CLEAR set, unsets a host window. -/
  | hostWindowClear (c : Cmd)
  /-- APERTURE_ACCESS (R431). A BAR2 access is split into service packets, or handled as an access to a closed aperture. -/
  | apertureAccess (a : BarAccess) (f : EccFinding) (time : Nat)
  /-- COMMIT (R430). Writing 0x0000_C0DE commits the shadowed aperture fields together, or rejects them with a reason. -/
  | commit (v : BitVec 32) (time : Nat)
  /-- GO (R435). Writing 1 to GO starts the command in the admin mailbox. -/
  | go (v : BitVec 64) (time : Nat)
  /-- DONE (R435). Writing 1 clears the mailbox DONE bit. -/
  | done (v : BitVec 64) (time : Nat)
  /-- SQ_TAIL (R436). A doorbell write with SQ_WR sets a submission queue's tail; one with CQ_WR too carries a head. -/
  | sqTail (qid : Fin 64) (tail : SqBell) (time : Nat)
  /-- CQ_HEAD (R436). A doorbell write with CQ_WR frees completion-queue entries; one with neither bit carries no head. -/
  | cqHead (qid : Fin 64) (head : Option (BitVec 12)) (time : Nat)
  /-- DB_ERRORS (R428). Reading DB_ERRORS returns and clears the count of ignored doorbell writes. -/
  | dbErrors (time : Nat)
  /-- HDM_ERRORS (R428). Reading HDM_ERRORS returns and clears the count of failed CXL.mem accesses. -/
  | hdmErrors (time : Nat)
  /-- AP_ERRORS (R429). Reading AP_ERRORS returns and clears the count of aperture error completions. -/
  | apErrors (time : Nat)
  /-- REGISTER_WRITE (R427). A write to any other BAR0 register stores a shadow or RW value, or is ignored. -/
  | registerWrite (a : RegWrite) (time : Nat)
  /-- COMMAND_TAKE (R438). Firmware takes the next command from a queue in turn and runs the common checks. -/
  | commandTake (time : Nat)
  /-- PAYLOAD_TIMEOUT (R441). A payload or buffer access with no host answer within 50 ms completes the command with TIMEOUT. -/
  | payloadTimeout (c : Cmd)
  /-- QUEUE_CREATE (R436). Creates a submission and completion queue pair. -/
  | queueCreate (c : Cmd)
  /-- QUEUE_DELETE (R437). Deletes a queue pair. -/
  | queueDelete (c : Cmd)
  /-- VERSION (R442). Agrees the Jexeri version or refuses. -/
  | version (c : Cmd)
  /-- IDENTIFY (R444). Writes the capability block. -/
  | identify (c : Cmd)
  /-- TOKEN_SEND (R445). Delivers a host token to a core's token queue at once when there is room. -/
  | tokenSend (c : Cmd)
  /-- TOKEN_SEND_DELIVER (R445). A waiting host token enters its queue when room appears. -/
  | tokenSendDeliver (k : CoreId) (tq : Fin 4) (time : Nat)
  /-- TOKEN_SEND_TIMEOUT (R445). When WAIT_MS passes without room, the command completes with BUSY. -/
  | tokenSendTimeout (k : CoreId) (tq : Fin 4) (time : Nat)
  /-- EVENT_QUEUE_SET (R446). Sets the event queue. -/
  | eventQueueSet (c : Cmd)
  /-- EVENT_QUEUE_CLEAR (R446). With the FLAGS bit set, clears the event queue. -/
  | eventQueueClear (c : Cmd)
  /-- EVENT_ACK (R446). Reports the host's event-queue read position. -/
  | eventAck (c : Cmd)
  /-- HOST_PORT_RESET (R449). PERST#, CXL Reset or a port link-down deletes queues, clears windows and version, closes the aperture and resets bias. -/
  | hostPortReset (cause : PortResetCause) (time : Nat)
  /-- PERST_DEASSERT (R590). After PERST# deasserts, configuration space answers within 100 ms. -/
  | perstDeassert (mode : LinkMode) (time : Nat)
  /-- PREPARE_REMOVAL (R451). Stops bays and transfers, ends installation, powers sites down and parks the panel. -/
  | prepareRemoval (c : Cmd)
  /-- WATCHDOG_EXPIRY (R458). An unserviced watchdog restarts its processor alone, or holds it after the third counted restart. -/
  | watchdogExpiry (n : ProcId) (time : Nat)
  /-- FW_RESTART (R457). A restarting processor reloads and checks its code and runs again, reporting latched events. -/
  | fwRestart (n : ProcId) (time : Nat)
  /-- FW_WAIT_EXPIRED (R460). A command waiting on a restarting processor completes with FAULT after its restart bound plus 1 s. -/
  | fwWaitExpired (id : BitVec 32) (time : Nat)
  /-- FW_PROC_RESTART (R464). Restarts a processor, or releases a held one. -/
  | fwProcRestart (c : Cmd)
  /-- FW_STATUS (R465). Writes the firmware status header and processor records. -/
  | fwStatus (c : Cmd)
  /-- FW_BUNDLE_STAGE (R466). Verifies a bundle and writes it to the inactive bank. -/
  | fwBundleStage (c : Cmd)
  /-- FW_BUNDLE_APPLY (R468). Exchanges the banks and restarts processors in order onto the new bundle. -/
  | fwBundleApply (c : Cmd)
  /-- MICROCODE_LOAD (R471). A core's loader fetches and checks the microcode and loads it, retrying up to three times. -/
  | microcodeLoad (k : CoreId) (time : Nat)
  /-- KING_POST_LOSS_TRIP (R476). After 1 s with no heartbeat, the second management die powers off every site and serves only discover and cold reset. -/
  | kingPostLossTrip (time : Nat)
  /-- POWER_GOOD (R485). After 100 ms of input in range, power is good and bring-up begins with slot ID, secure boot and king post choice. -/
  | powerGood (m : MgmtSelfTest) (time : Nat)
  /-- BRINGUP_STEP (R477). A bring-up step finishes and the next one begins, updating BRINGUP. -/
  | bringupStep (r : List SiteOutcome) (time : Nat)
  /-- BRINGUP_DEADLINE (R477). A step's deadline expires and its unfinished units are failed or marked down. -/
  | bringupDeadline (r : List SiteOutcome) (time : Nat)
  /-- RESET_CORE (R479). Resets one core outside any running bay. -/
  | resetCore (c : Cmd)
  /-- RESET_DIE (R480). Puts a die into reset and restarts its supervisor and self-test. -/
  | resetDie (c : Cmd)
  /-- DIE_RESET_COMPLETE (R480). The die is cleared by role and takes good, partial or failed, and the reset completes. -/
  | dieResetComplete (p : SiteId) (r : SelfTest) (time : Nat)
  /-- RESET_PARTITION (R481). Stops a partition's inputs and starts its drain. -/
  | resetPartition (c : Cmd)
  /-- PARTITION_RESET_DISCARD (R481). At 10 ms or drain end, unfinished work is discarded and the partition's bays, batches and cores are reset. -/
  | partitionResetDiscard (part : Fin 8) (time : Nat)
  /-- RESET_PANEL_WARM (R482). Stops every bay, resets every die, zeroes stacks and re-runs bring-up from step 3. -/
  | resetPanelWarm (c : Cmd)
  /-- RESET_PANEL_COLD (R483). Completes OK and restarts the panel from power good within 10 ms. -/
  | resetPanelCold (c : Cmd)
  /-- SITE_ON (R502). Powers a site on after the headroom rule allows it. -/
  | siteOn (c : Cmd)
  /-- POWER_ON_BEGIN (R504). A waiting power-on begins its ramp once the quadrant headroom condition holds. -/
  | powerOnBegin (n : Fin 4) (time : Nat)
  /-- POWER_ON_TIMEOUT (R504). A power-on not begun 20 ms after it was taken completes with NO_HEADROOM. -/
  | powerOnTimeout (n : Fin 4) (time : Nat)
  /-- SITE_ON_COMPLETE (R507). After the ramp and die restart, the site is on and the command completes. -/
  | siteOnComplete (p : SiteId) (r : SelfTest) (time : Nat)
  /-- SITE_OFF (R502). Powers a site's domains off and opens its eFuse. -/
  | siteOff (c : Cmd)
  /-- SELF_REFRESH_ENTER (R508). Puts a stack into self-refresh and powers MEMIF off. -/
  | selfRefreshEnter (c : Cmd)
  /-- SELF_REFRESH_EXIT (R502). Takes a stack out of self-refresh. -/
  | selfRefreshExit (c : Cmd)
  /-- LANES (R509). Sets a link's powered-lane mask, retraining when an active lane is unpowered. -/
  | lanes (c : Cmd)
  /-- QUADRANT_ON (R502). Closes a tripped quadrant eFuse with every site left off. -/
  | quadrantOn (c : Cmd)
  /-- POWER_STATUS (R512). Writes the power status header and site records. -/
  | powerStatus (c : Cmd)
  /-- CEILING_SET (R511). Sets or removes a host current or power ceiling. -/
  | ceilingSet (c : Cmd)
  /-- POWER_TICK (R492). At each tick, domain and branch currents are averaged for reporting. -/
  | powerTick (r : PowerReadings) (time : Nat)
  /-- INPUT_TRIP (R486). Under- or overvoltage for 1 ms opens all quadrant eFuses, and the cause is recorded. -/
  | inputTrip (isOver : Bool) (mv : Nat) (time : Nat)
  /-- INPUT_RANGE (R485). The input leaves or returns to the operating range, and INPUT_RANGE is raised. -/
  | inputRange (mv : Nat) (time : Nat)
  /-- PHASE_LOST (R497). A failed regulator phase is disconnected and limits are lowered. -/
  | phaseLost (p : SiteId) (d : Domain) (phase : Fin 16) (time : Nat)
  /-- DOMAIN_DARK (R497). A domain that cannot carry its minimum powers its site off with reason SUPPLY. -/
  | domainDark (p : SiteId) (d : Domain) (mv : Nat) (time : Nat)
  /-- SITE_TRIP (R497). A site eFuse trips and the die fails with reason SITE_EFUSE. -/
  | siteTrip (p : SiteId) (overload : Bool) (peak : Nat) (time : Nat)
  /-- QUADRANT_TRIP (R497). A quadrant eFuse trips and every site of the quadrant fails in one record change. -/
  | quadrantTrip (n : Fin 4) (overload : Bool) (peak : Nat) (time : Nat)
  /-- SENSOR_RETIRED (R491). A voltage sensor reading low for 100 ms is retired. -/
  | sensorRetired (p : SiteId) (d : Domain) (sensor : Fin 64) (mv : Nat) (time : Nat)
  /-- PATH_ESTIMATE (R500). Each tick, each domain's path resistance is estimated against its baseline. -/
  | pathEstimate (p : SiteId) (d : Domain) (r : PathReading) (time : Nat)
  /-- LIMITER_DEMAND (R494). A die limiter starts or ends its stretch demand. -/
  | limiterDemand (p : SiteId) (logic : Nat) (array : Nat) (time : Nat)
  /-- QUADRANT_LIMIT (R495). The quadrant limit signal is asserted or released. -/
  | quadrantLimit (n : Fin 4) (cur : Nat) (time : Nat)
  /-- PANEL_LIMIT (R495). The panel limit signal is asserted or released. -/
  | panelLimit (watts : Nat) (time : Nat)
  /-- LIMIT_LONG (R513). A limit asserted for 100 consecutive ticks, and each further 1,000, raises LIMIT_LONG. -/
  | limitLong (u : LimitUnit) (time : Nat)
  /-- BOOST_CONDITION_LOST (R253). An F2100 condition lapses under a boosted bay; the bay keeps its point and the event is raised. -/
  | boostConditionLost (b : BayId) (time : Nat)
  /-- FLOW_SAMPLE (R516). Every 250 µs both flow sensors are sampled and checked for retirement. -/
  | flowSample (dp : Int) (th : Int) (time : Nat)
  /-- FLOW_PERIOD (R519). At each 100 ms period, the flow states low and critical are raised or cleared. -/
  | flowPeriod (r : FlowReading) (time : Nat)
  /-- FLOW_STOP_CLEARED (R521). After 5 s of flow at 10 L/min or more, the stop latch clears. -/
  | flowStopCleared (time : Nat)
  /-- FLOW_DISAGREE (R518). Sensors that disagree by more than 10% for 10 s raise FLOW_SENSOR. -/
  | flowDisagree (time : Nat)
  /-- DIODE_SAMPLE (R529). Every 250 µs the hot-spot diodes are sampled, checked for retirement and against hard limits. -/
  | diodeSample (h : HotSpot) (d0 : Int) (d1 : Int) (time : Nat)
  /-- DIODE_DISAGREE (R524). Diodes differing by more than 4 °C for 1 s open a disagreement episode. -/
  | diodeDisagree (h : HotSpot) (time : Nat)
  /-- COOLANT_TEMP (R534). An inlet temperature state is raised or cleared after its hold time. -/
  | coolantTemp (inlet : Int) (time : Nat)
  /-- STRAIN_HIGH (R533). Keystone strain beyond ±500 microstrain for 1 s raises STRAIN_HIGH. -/
  | strainHigh (p : SiteId) (strain : Option Int) (time : Nat)
  /-- COOLING_STATUS (R535). Writes the cooling status header and site records. -/
  | coolingStatus (c : Cmd)
  /-- STATUS_POLL (R542). Every 10 ms the die supervisor polls its cores, adds their RC counters to its totals and declares non-answering cores hard-failed. -/
  | statusPoll (k : CoreId) (answered : Bool) (time : Nat)
  /-- ERROR_LOG_GET (R548). Writes records from the volatile or persistent log. -/
  | errorLogGet (c : Cmd)
  /-- WEAR_GET (R553). Writes the wear header and part records. -/
  | wearGet (c : Cmd)
  /-- WEAR_DECAY (R551). Every powered hour, scores decay and are saved, and wear states change. -/
  | wearDecay (time : Nat)
  /-- INJECT (R555). Arms an injection point at a target. -/
  | inject (c : Cmd)
  /-- INJECT_CANCEL (R555). With CANCEL set, disarms the injections of a point at a target. -/
  | injectCancel (c : Cmd)
  /-- INJECT_EXPIRY (R556). 600 s after arming, an injection is disarmed. -/
  | injectExpiry (time : Nat)
  /-- DISCOVER (R569). A DISCOVER frame is answered, within the rate limit, with a signed discover answer. -/
  | discover (seg : Segm) (f : Frame) (time : Nat)
  /-- COMMAND (R567). A signed Jexeri-M COMMAND frame is filtered, judged for replay and executed. -/
  | command (seg : Segm) (f : Frame) (time : Nat)
  /-- MGMT_SEGMENT (R561). A segment changes between PLCA, CSMA/CD or down. -/
  | mgmtSegment (seg : Segm) (mode : SegMode) (time : Nat)
  /-- MGMT_DROPS (R565). Each 60 s in which a drop counter changed raises MGMT_DROPS. -/
  | mgmtDrops (seg : Segm) (time : Nat)
  /-- MGMT_KEY_SET_MANAGEMENT (R575). Sets or clears the management key. -/
  | mgmtKeySetManagement (c : Cmd)
  /-- MGMT_KEY_SET_WEIGHT (R575). Sets or clears a weight key slot. -/
  | mgmtKeySetWeight (c : Cmd)
  /-- ATTEST_QUOTE (R582). Writes a signed quote of the measurement, with the log when asked. -/
  | attestQuote (c : Cmd)
  /-- CERT_GET (R580). Writes the four identity certificates. -/
  | certGet (c : Cmd)
  /-- INPUT_SWITCH_CLOSE (R585). Once precharge, presence and blade voltage all hold, the input switch closes. -/
  | inputSwitchClose (r : SwitchReadings) (time : Nat)
  /-- PRESENCE_LOST (R586). PRSNT_A# high for 10 µs opens the input switch, a surprise removal. -/
  | presenceLost (time : Nat)
  /-- PROCESSOR_FAULT (R458). A firmware processor takes a fault it cannot handle, such as an uncorrectable error in management-die memory, and the watchdog hardware restarts it alone as a counted restart. -/
  | processorFault (n : ProcId) (time : Nat)
  /-- SCHEDULED_SCRUB (R326). Within 1 s of a read that corrected a stack word, the controller scrubs that 2 KiB unit and writes the corrected data back. -/
  | scheduledScrub (st : StackId) (unit : Nat) (f : EccFinding) (time : Nat)
  /-- LINK_BUFFER_SAMPLE (R416). Once every 64 flit times, each link die samples the fill of its request-channel receive buffer into the BINS of the link status record. -/
  | linkBufferSample (l : LinkId) (fill : Nat) (time : Nat)
  /-- ALERT_REPEAT (R564). 100 ms after each send of an ALERT, the panel sends it again with the same SEQ on each segment, up to three sends in all. -/
  | alertRepeat (time : Nat)
  /-- NEIGHBOR_SOLICITATION (R563). A received IPv6 Neighbor Solicitation for the panel's own address is answered, and other received frames that fail the receive filter are dropped and counted. -/
  | neighborSolicitation (seg : Segm) (f : Frame) (time : Nat)
  /-- CXL_L2_CHANGE (R589). The CXL link enters or leaves L2, and the panel asserts WAKE# while in L2 with an event pending, or releases it when the link leaves L2. -/
  | cxlL2Change (enter : Bool) (time : Nat)
  deriving DecidableEq, Repr

end Sys2Proof
end

