-- ==== Sys2Proof/Decode.lean ====
section
/-! DEFINITION. The decoder of the table's words. -/

namespace Sys2Proof

/-- The command that a word spells by the bits of the table. The table of operations and events gives no
row any bits (every row's list of fields is empty), so no word spells a command. -/
def decodeTableWord (_nbits _w : Nat) : Option Instr := none

end Sys2Proof
end

