-- ==== Sys2Proof/Config.lean ====
section
/-! DEFINITION. What the spec leaves open: constants with no body, so that no proof can see their values. -/

namespace Sys2Proof

/-- Fresh free values, by their index (log entry 2). -/
opaque Config.freeValue : Nat → Nat

/-- Which of the values that R152 or R169 allows a function gives for its operands: the function's number and the
operands' bits (log entry 12). -/
opaque Config.funcChoice : Nat → W32 → W32 → Nat

/-- The first 512 bits of SHAKE256 of FIPS 202, which the spec names and does not define, of an input; byte 0 lowest
(log entry 13). -/
opaque Config.shake256 : List Byte → BitVec 512

/-- Verification of an Ed448 signature of RFC 8032, which the spec names and does not define: the context, the public
key, the message and the signature (log entry 13). -/
opaque Config.ed448Verify : List Byte → List Byte → List Byte → List Byte → Bool

/-- Whether 57 bytes are a valid Ed448 point of RFC 8032 (log entry 13). -/
opaque Config.ed448Point : List Byte → Bool

/-- An Ed448 signature of RFC 8032 by a device key: the key's number, the context and the message (log entry 13). -/
opaque Config.ed448Sign : Nat → List Byte → List Byte → List Byte

/-- How many voltage sensors a domain of a role has, other than a compute die's (log entry 34). -/
opaque Config.sensorsOf : Nat → Nat → Nat

/-- The pressure drop across the plate in mbar at a flow in mL/min (log entry 35). -/
opaque Config.pressureDrop : Nat → Nat

/-- The public key of the identity key of a management die: 0 for (15,4), 1 for (15,9) (log entry 13). -/
opaque Config.identityKey : Nat → List Byte

end Sys2Proof
end

