-- ==== Sys2Proof/Machine/Maps.lean ====
section
/-! DEFINITION. Sparse data: lists of (key, value) pairs with strictly rising keys. -/

namespace Sys2Proof.Machine

variable {α : Type}

/-- The value listed under a key. -/
def mapGet? : List (Nat × α) → Nat → Option α
  | [], _ => none
  | (j, v) :: m, k => if j = k then some v else mapGet? m k

/-- The value under a key, or what an unlisted key stands for. -/
def mapGetD (m : List (Nat × α)) (k : Nat) (d : α) : α := (mapGet? m k).getD d

/-- Lists a value under a key, in its place. -/
def mapPut : List (Nat × α) → Nat → α → List (Nat × α)
  | [], k, v => [(k, v)]
  | (j, w) :: m, k, v =>
    if k < j then (k, v) :: (j, w) :: m
    else if k = j then (k, v) :: m
    else (j, w) :: mapPut m k v

/-- Unlists a key. -/
def mapDel : List (Nat × α) → Nat → List (Nat × α)
  | [], _ => []
  | (j, w) :: m, k => if j = k then mapDel m k else (j, w) :: mapDel m k

/-- Stores a value under a key, keeping the canonical form: a value that an unlisted key stands for is not
listed. -/
def mapSet [DecidableEq α] (d : α) (m : List (Nat × α)) (k : Nat) (v : α) : List (Nat × α) :=
  if v = d then mapDel m k else mapPut m k v

/-- The keys rise strictly. -/
def keysRise : List (Nat × α) → Bool
  | [] => true
  | [_] => true
  | (j, _) :: (k, w) :: m => decide (j < k) && keysRise ((k, w) :: m)

/-- The canonical form: strictly rising keys and no entry equal to what an unlisted key stands for. -/
def mapCanonical [DecidableEq α] (d : α) (m : List (Nat × α)) : Bool :=
  keysRise m && m.all (fun p => decide (p.2 ≠ d))

/-- Unlists the keys of a range. -/
def mapDelRange (m : List (Nat × α)) (lo n : Nat) : List (Nat × α) :=
  m.filter (fun p => !(decide (lo ≤ p.1) && decide (p.1 < lo + n)))

/-- Applies a function at one index of a list; a list shorter than the index is left as it is. -/
def modAt (l : List α) (i : Nat) (f : α → α) : List α := l.modify i f

/-- A list of `n` copies. -/
def copies (n : Nat) (a : α) : List α := List.replicate n a

end Sys2Proof.Machine
end

