-- ==== Sys2Proof/Machine/Bits.lean ====
section
/-! DEFINITION. Bit fields, byte order, saturation, and the cyclic redundancy checks (R15). -/

namespace Sys2Proof.Machine

/-- Bits [hi:lo] of a number (R15: bit 0 is the least significant). -/
def fld (v hi lo : Nat) : Nat := v / 2 ^ lo % 2 ^ (hi + 1 - lo)

/-- Bit `i` of a number. -/
def bitAt (v i : Nat) : Bool := v / 2 ^ i % 2 == 1

/-- A number for a truth value. -/
def b2n (b : Bool) : Nat := if b then 1 else 0

/-- The number with bits [hi:lo] replaced. -/
def setFld (v hi lo x : Nat) : Nat :=
  v / 2 ^ (hi + 1) * 2 ^ (hi + 1) + x % 2 ^ (hi + 1 - lo) * 2 ^ lo + v % 2 ^ lo

/-- A two's complement number of `w` bits. -/
def signed (w v : Nat) : Int :=
  if v % 2 ^ w < 2 ^ (w - 1) then (v % 2 ^ w : Nat) else (v % 2 ^ w : Nat) - (2 ^ w : Nat)

/-- The two's complement bits of an integer. -/
def twos (w : Nat) (i : Int) : Nat := (i % (2 ^ w : Nat)).toNat

/-- A counter that saturates at its largest value. -/
def satInc (max v : Nat) (n : Nat := 1) : Nat := min max (v + n)

/-- The number that bytes hold, little-endian (R15). -/
def leNat : List Byte → Nat
  | [] => 0
  | b :: bs => b.toNat + 256 * leNat bs

/-- The `n` bytes of a number, little-endian (R15). -/
def natLe : Nat → Nat → List Byte
  | 0, _ => []
  | n + 1, v => BitVec.ofNat 8 v :: natLe n (v / 256)

/-- The number in the `n` bytes at an offset; bytes past the end read as zero. -/
def leAt (bs : List Byte) (off n : Nat) : Nat := leNat ((bs.drop off).take n)

/-- `n` bytes at an offset, filled with zeros past the end. -/
def bytesAt (bs : List Byte) (off n : Nat) : List Byte :=
  let t := (bs.drop off).take n
  t ++ List.replicate (n - t.length) 0

/-- A list of bytes with those at an offset replaced. -/
def putBytes (bs : List Byte) (off : Nat) (new : List Byte) : List Byte :=
  bs.take off ++ new ++ bs.drop (off + new.length)

/-- Whether all bytes are zero. -/
def allZero (bs : List Byte) : Bool := bs.all (fun b => b == 0)

/-- The first `n` bytes, filled with zeros. -/
def padTo (n : Nat) (bs : List Byte) : List Byte := bytesAt bs 0 n

/-! ## Rows and lanes -/

/-- A row from its bytes, the first lowest. -/
def rowOfBytes (bs : List Byte) : Row := BitVec.ofNat 4096 (leNat bs)

/-- The bytes of a row. -/
def rowBytes (r : Row) : List Byte := natLe 512 r.toNat

/-- The 32-bit lane of a row. -/
def rowLane (r : Row) (i : Nat) : W32 := r.extractLsb' (32 * i) 32

/-- The unsigned element of `w` bits at bit `lo` of a row. -/
def rowBits (r : Row) (lo w : Nat) : Nat := fld r.toNat (lo + w - 1) lo

/-- A number packed from elements of `w` bits, the first lowest (R95). -/
def packElems (w : Nat) : List Nat → Nat
  | [] => 0
  | e :: es => e % 2 ^ w + 2 ^ w * packElems w es

/-- A row packed from elements of `w` bits. -/
def rowOfElems (w : Nat) (es : List Nat) : Row := BitVec.ofNat 4096 (packElems w es)

/-- A row with bits [lo+w-1:lo] replaced. -/
def rowSetBits (r : Row) (lo w x : Nat) : Row := BitVec.ofNat 4096 (setFld r.toNat (lo + w - 1) lo x)

/-- The quarter of a row (R16). -/
def rowQuarter (r : Row) (q : Nat) : Quarter := r.extractLsb' (1024 * q) 1024

/-- A row with one quarter replaced. -/
def rowSetQuarter (r : Row) (q : Nat) (x : Quarter) : Row := rowSetBits r (1024 * q) 1024 x.toNat

/-! ## Cyclic redundancy checks -/

/-- The reverse of the low `n` bits. -/
def revBits : Nat → Nat → Nat
  | 0, _ => 0
  | n + 1, v => v % 2 * 2 ^ n + revBits n (v / 2)

/-- One bit of a reflected check. -/
def crcBitRefl (poly c : Nat) : Nat := if c % 2 = 1 then (c / 2).xor poly else c / 2

/-- One byte of a reflected check. -/
def crcByteRefl (poly c : Nat) (b : Byte) : Nat :=
  (List.range 8).foldl (fun c _ => crcBitRefl poly c) (c.xor b.toNat)

/-- One bit of a check of width `w` taken from the most significant end. -/
def crcBitMsb (w poly c : Nat) : Nat :=
  if c / 2 ^ (w - 1) % 2 = 1 then (c * 2 % 2 ^ w).xor poly else c * 2 % 2 ^ w

/-- One byte of a check of width `w` taken from the most significant end. -/
def crcByteMsb (w poly c : Nat) (b : Byte) : Nat :=
  (List.range 8).foldl (fun c _ => crcBitMsb w poly c) (c.xor (b.toNat * 2 ^ (w - 8)))

/-- CRC-32 with the IEEE 802.3 polynomial, in that standard's bit order (PRESUMED, log entry 11). -/
def crc32 (bs : List Byte) : Nat :=
  (bs.foldl (crcByteRefl 0xEDB88320) 0xFFFFFFFF).xor 0xFFFFFFFF

/-- The CRC-16 of a hop (R312), most significant bit first (DESIGN CHOICE, log entry 11). -/
def crc16 (bs : List Byte) : Nat := bs.foldl (crcByteMsb 16 0x1021) 0xFFFF

/-- The CRC-8 of scheduled-fabric items (R538), most significant bit first (DESIGN CHOICE, log entry 11). -/
def crc8 (bs : List Byte) : Nat := bs.foldl (crcByteMsb 8 0x07) 0

end Sys2Proof.Machine
end

