-- ==== Sys2Proof/Machine/Fp.lean ====
section
/-! DEFINITION. Number formats: exact values, encodings, rounding, conversion, block scales, stochastic
draws (Number Formats and Accumulation, R88 to R119). -/

namespace Sys2Proof.Machine

/-- An exact value: a NaN, an infinity, or (-1)^neg · m · 2^e. -/
inductive FVal where
  | nan
  | inf (neg : Bool)
  | fin (neg : Bool) (m : Nat) (e : Int)
  deriving DecidableEq, Repr

/-- The sticky numeric flags of Table 3-8. -/
structure NumFlags where
  ovf : Bool := false
  nanc : Bool := false
  sat : Bool := false
  deriving DecidableEq, Repr

/-- Flags set by either of two operations. -/
def flagsOr (a b : NumFlags) : NumFlags := ⟨a.ovf || b.ovf, a.nanc || b.nanc, a.sat || b.sat⟩

/-- No flag. -/
def noFlags : NumFlags := {}

/-- The formats of Table 3-1. -/
inductive Fm where
  | fp32 | bf16 | fp16 | e4m3 | e5m2 | int8 | int32
  | mxE4M3 | mxE5M2 | mxE2M3 | mxE3M2 | mxE2M1 | mxInt8 | dp4 | e8m0 | dp4w
  deriving DecidableEq, Repr

/-- The format of a code (Table 3-1); a reserved code names none. -/
def fmOfCode : Nat → Option Fm
  | 0x01 => some .fp32 | 0x02 => some .bf16 | 0x03 => some .fp16 | 0x04 => some .e4m3
  | 0x05 => some .e5m2 | 0x06 => some .int8 | 0x07 => some .int32 | 0x08 => some .mxE4M3
  | 0x09 => some .mxE5M2 | 0x0A => some .mxE2M3 | 0x0B => some .mxE3M2 | 0x0C => some .mxE2M1
  | 0x0D => some .mxInt8 | 0x0E => some .dp4 | 0x0F => some .e8m0 | 0x10 => some .dp4w
  | _ => none

/-- The bits of an element (Table 3-1). -/
def fmBits : Fm → Nat
  | .fp32 | .int32 => 32
  | .bf16 | .fp16 | .dp4w => 16
  | .e4m3 | .e5m2 | .int8 | .mxE4M3 | .mxE5M2 | .mxInt8 | .e8m0 => 8
  | .mxE2M3 | .mxE3M2 => 6
  | .mxE2M1 | .dp4 => 4

/-- The blocked formats: codes 0x08 to 0x0E. -/
def fmBlocked : Fm → Bool
  | .mxE4M3 | .mxE5M2 | .mxE2M3 | .mxE3M2 | .mxE2M1 | .mxInt8 | .dp4 => true
  | _ => false

/-- The elements of a 512-byte row (Table 3-4). -/
def fmPerRow : Fm → Nat
  | .fp32 | .int32 => 128
  | .bf16 | .fp16 | .dp4w => 256
  | .e4m3 | .e5m2 | .int8 | .mxE4M3 | .mxE5M2 | .mxInt8 | .e8m0 => 512
  | .mxE2M3 | .mxE3M2 => 672
  | .mxE2M1 | .dp4 => 1024

/-- The blocks of a row (Table 3-4); 0 for an unblocked format. -/
def fmBlocksPerRow (f : Fm) : Nat := if fmBlocked f then fmPerRow f / 32 else 0

/-- How a float format spends its top exponent: as IEEE 754 does, for one NaN only, or for numbers. -/
inductive TopExp where
  | ieee | nanOnly | numbers
  deriving DecidableEq, Repr

/-- A float layout of Table 3-2: exponent bits, mantissa bits, bias, top exponent. -/
structure FLayout where
  eb : Nat
  mb : Nat
  bias : Nat
  top : TopExp
  deriving DecidableEq, Repr

/-- The layout of a format's element, where it is a float (Table 3-2). -/
def fmLayout : Fm → Option FLayout
  | .fp32 => some ⟨8, 23, 127, .ieee⟩
  | .bf16 => some ⟨8, 7, 127, .ieee⟩
  | .fp16 => some ⟨5, 10, 15, .ieee⟩
  | .e4m3 | .mxE4M3 => some ⟨4, 3, 7, .nanOnly⟩
  | .e5m2 | .mxE5M2 => some ⟨5, 2, 15, .ieee⟩
  | .mxE2M3 => some ⟨2, 3, 1, .numbers⟩
  | .mxE3M2 => some ⟨3, 2, 3, .numbers⟩
  | .mxE2M1 | .dp4 => some ⟨2, 1, 1, .numbers⟩
  | .int8 | .int32 | .mxInt8 | .e8m0 | .dp4w => none

/-- The exponent of the smallest subnormal. -/
def layQmin (l : FLayout) : Int := 1 - (l.bias : Int) - l.mb

/-- The largest finite magnitude, as mantissa and exponent. -/
def layMax (l : FLayout) : Nat × Int :=
  match l.top with
  | .ieee => (2 ^ (l.mb + 1) - 1, (2 ^ l.eb - 2 : Int) - l.bias - l.mb)
  | .nanOnly => (2 ^ (l.mb + 1) - 2, (2 ^ l.eb - 1 : Int) - l.bias - l.mb)
  | .numbers => (2 ^ (l.mb + 1) - 1, (2 ^ l.eb - 1 : Int) - l.bias - l.mb)

/-- The value of the bits of a float (R89). -/
def layDecode (l : FLayout) (b : Nat) : FVal :=
  let sg := bitAt b (l.eb + l.mb)
  let ex := fld b (l.eb + l.mb - 1) l.mb
  let mn := b % 2 ^ l.mb
  let top := 2 ^ l.eb - 1
  if ex = top ∧ l.top = .ieee then (if mn = 0 then .inf sg else .nan)
  else if ex = top ∧ l.top = .nanOnly ∧ mn = 2 ^ l.mb - 1 then .nan
  else if ex = 0 then .fin sg mn (layQmin l)
  else .fin sg (2 ^ l.mb + mn) ((ex : Int) - l.bias - l.mb)

/-- The canonical quiet NaN of a layout (R90). -/
def layNan (l : FLayout) : Nat :=
  match l.top with
  | .nanOnly => (2 ^ l.eb - 1) * 2 ^ l.mb + (2 ^ l.mb - 1)
  | _ => (2 ^ l.eb - 1) * 2 ^ l.mb + 2 ^ (l.mb - 1)

/-- A magnitude moved to a smaller exponent is exact; to a larger one it drops bits. -/
def magAt (m : Nat) (e q : Int) : Nat :=
  if q ≤ e then m * 2 ^ (e - q).toNat else m / 2 ^ (q - e).toNat

/-- The bits of a float whose value the layout represents. -/
def layEncodeFin (l : FLayout) (neg : Bool) (m : Nat) (e : Int) : Nat :=
  let s := b2n neg * 2 ^ (l.eb + l.mb)
  if m = 0 then s
  else
    let tp : Int := (Nat.log2 m : Int) + e
    if tp < 1 - (l.bias : Int) then s + magAt m e (layQmin l)
    else s + (tp + l.bias).toNat * 2 ^ l.mb + (magAt m e (tp - l.mb) - 2 ^ l.mb)

/-! ## Rounding -/

/-- Rounding modes (Table 3-5). SR carries its draw. -/
inductive RMode where
  | rne
  | rtz
  | sr (draw : Nat)
  deriving DecidableEq, Repr

/-- Whether the magnitude rounds up, from the quotient, the remainder and the divisor (Table 3-5, R108). -/
def roundsUp (md : RMode) (lo rem den : Nat) : Bool :=
  match md with
  | .rne => decide (2 * rem > den) || (decide (2 * rem = den) && decide (lo % 2 = 1))
  | .rtz => false
  | .sr draw => decide (draw < rem * 2 ^ 32 / den)

/-- m · 2^e rounded to a multiple of 2^q. -/
def roundToUnit (md : RMode) (m : Nat) (e q : Int) : Nat :=
  if q ≤ e then m * 2 ^ (e - q).toNat
  else
    let den := 2 ^ (q - e).toNat
    let lo := m / den
    if roundsUp md lo (m % den) den then lo + 1 else lo

/-- m · 2^e rounded to `p` bits with an unbounded exponent above and the unit 2^qmin below (R100). -/
def roundMag (md : RMode) (p : Nat) (qmin : Int) (m : Nat) (e : Int) : Nat × Int :=
  if m = 0 then (0, qmin)
  else
    let q := max qmin ((Nat.log2 m : Int) + e - (p - 1 : Nat))
    (roundToUnit md m e q, q)

/-- Whether m · 2^e exceeds m' · 2^e'. -/
def magGt (m : Nat) (e : Int) (m' : Nat) (e' : Int) : Bool :=
  let q := min e e'
  decide (m * 2 ^ (e - q).toNat > m' * 2 ^ (e' - q).toNat)

/-- A value converted to a float layout: the bits and the flags (R100, Table 3-6). -/
def layRound (l : FLayout) (md : RMode) (v : FVal) : Nat × NumFlags :=
  let sgn (n : Bool) : Nat := b2n n * 2 ^ (l.eb + l.mb)
  let mx := layMax l
  let maxBits (n : Bool) := layEncodeFin l n mx.1 mx.2
  let infBits (n : Bool) := sgn n + (2 ^ l.eb - 1) * 2 ^ l.mb
  match v with
  | .nan => (layNan l, noFlags)
  | .inf n =>
    match l.top with
    | .ieee => (infBits n, noFlags)
    | _ => (maxBits n, { sat := true })
  | .fin n m e =>
    let r := roundMag md (l.mb + 1) (layQmin l) m e
    if magGt r.1 r.2 mx.1 mx.2 then
      match l.top, decide (l = ⟨5, 2, 15, .ieee⟩), md with
      | .ieee, false, .rtz => (maxBits n, { ovf := true })
      | .ieee, false, _ => (infBits n, { ovf := true })
      | _, _, _ => (maxBits n, { sat := true })
    else (layEncodeFin l n r.1 r.2, noFlags)

/-- A value rounded to an integer of `w` bits, two's complement (Table 3-6). -/
def intRound (w : Nat) (md : RMode) (v : FVal) : Nat × NumFlags :=
  let lim (n : Bool) : Nat := if n then 2 ^ (w - 1) else 2 ^ (w - 1) - 1
  match v with
  | .nan => (0, { sat := true })
  | .inf n => (lim n, { sat := true })
  | .fin n m e =>
    let r : Nat := roundToUnit md m e 0
    let i : Int := if n then -(r : Int) else r
    if i < -(2 ^ (w - 1) : Nat) ∨ i > (2 ^ (w - 1) : Nat) - 1 then (lim n, { sat := true })
    else (twos w i, noFlags)

/-- The exponent of the power of two that a positive value rounds to (Table 3-5, the E8M0 case). -/
def pow2Round (md : RMode) (m : Nat) (e : Int) : Int :=
  let k : Int := (Nat.log2 m : Int) + e
  let den := 2 ^ Nat.log2 m
  let up := match md with
    | .rne => decide (2 * (m - den) > den) || (decide (2 * (m - den) = den) && decide ((k + 127) % 2 = 1))
    | .rtz => false
    | .sr draw => decide (draw < (m - den) * 2 ^ 32 / den)
  if up then k + 1 else k

/-- A value converted to an E8M0 byte (Table 3-6, R602). -/
def e8m0Round (md : RMode) (v : FVal) : Nat × NumFlags :=
  match v with
  | .nan => (0xFF, noFlags)
  | .inf _ => (0xFF, { nanc := true })
  | .fin n m e =>
    if m = 0 ∨ n then (0xFF, { nanc := true })
    else
      let k := pow2Round md m e
      if k > 127 then (0xFE, { sat := true })
      else if (Nat.log2 m : Int) + e < -127 then (0x00, noFlags)
      else ((k + 127).toNat, noFlags)

/-- The value of the bits of one element, without its block's scale (Table 3-2, R91). -/
def fmDecode (f : Fm) (b : Nat) : FVal :=
  match fmLayout f with
  | some l => layDecode l b
  | none =>
    match f with
    | .int8 => let i := signed 8 b; .fin (decide (i < 0)) i.natAbs 0
    | .int32 => let i := signed 32 b; .fin (decide (i < 0)) i.natAbs 0
    | .mxInt8 => let i := signed 8 b; .fin (decide (i < 0)) i.natAbs (-6)
    | .e8m0 => if b % 256 = 0xFF then .nan else .fin false 1 ((b % 256 : Nat) - 127 : Int)
    | _ => .fin false b 0

/-- A value by the exponent of a block's scale (Table 3-3). -/
def scaleBy (v : FVal) (x : Int) : FVal :=
  match v with
  | .fin n m e => .fin n m (e + x)
  | w => w

/-- The value of element `n` of a block whose scale entry is `sc` (Table 3-3, R92, R93): the E8M0 byte is in
bits [7:0]; for DP4 the fine shifts are above it. -/
def blockElem (f : Fm) (sc n b : Nat) : FVal :=
  if sc % 256 = 0xFF then .nan
  else
    let fine : Nat := if f = .dp4 then fld sc (2 * (n / 8) + 9) (2 * (n / 8) + 8) else 0
    scaleBy (fmDecode f b) ((sc % 256 : Nat) - 127 + (fine : Int))

/-! ## Arithmetic on exact values -/

/-- A signed mantissa. -/
def sgnMag (n : Bool) (m : Nat) : Int := if n then -(m : Int) else m

/-- The exact sum (IEEE 754 signs of zero under RNE and RTZ) and whether a NaN arose from no NaN. -/
def fAdd (a b : FVal) : FVal × Bool :=
  match a, b with
  | .nan, _ => (.nan, false)
  | _, .nan => (.nan, false)
  | .inf x, .inf y => if x = y then (.inf x, false) else (.nan, true)
  | .inf x, _ => (.inf x, false)
  | _, .inf y => (.inf y, false)
  | .fin n m e, .fin n' m' e' =>
    let q := min e e'
    let s := sgnMag n (m * 2 ^ (e - q).toNat) + sgnMag n' (m' * 2 ^ (e' - q).toNat)
    if s = 0 then (.fin (n && n') 0 q, false) else (.fin (decide (s < 0)) s.natAbs q, false)

/-- The exact product, and whether a NaN arose from no NaN. -/
def fMul (a b : FVal) : FVal × Bool :=
  match a, b with
  | .nan, _ => (.nan, false)
  | _, .nan => (.nan, false)
  | .inf x, .inf y => (.inf (x != y), false)
  | .inf x, .fin n m _ => if m = 0 then (.nan, true) else (.inf (x != n), false)
  | .fin n m _, .inf x => if m = 0 then (.nan, true) else (.inf (x != n), false)
  | .fin n m e, .fin n' m' e' => (.fin (n != n') (m * m') (e + e'), false)

/-- The value with the other sign. -/
def fNeg : FVal → FVal
  | .nan => .nan
  | .inf n => .inf (!n)
  | .fin n m e => .fin (!n) m e

/-- Whether a value is a zero. -/
def fIsZero : FVal → Bool
  | .fin _ m _ => m == 0
  | _ => false

/-- a < b, for values that are no NaN. -/
def fLt (a b : FVal) : Bool :=
  match a, b with
  | .nan, _ => false
  | _, .nan => false
  | .inf x, .inf y => x && !y
  | .inf x, .fin .. => x
  | .fin .., .inf y => !y
  | .fin n m e, .fin n' m' e' =>
    let q := min e e'
    decide (sgnMag n (m * 2 ^ (e - q).toNat) < sgnMag n' (m' * 2 ^ (e' - q).toNat))

/-- a = b, for values that are no NaN. -/
def fEq (a b : FVal) : Bool :=
  match a, b with
  | .nan, _ => false
  | _, .nan => false
  | _, _ => !fLt a b && !fLt b a

/-- The quotient of finite values to more bits than any target holds, the last bit telling a remainder. -/
def fDivExt (n : Bool) (m : Nat) (e : Int) (n' : Bool) (m' : Nat) (e' : Int) : FVal :=
  let k := Nat.log2 m' + 40
  let q := m * 2 ^ k / m'
  .fin (n != n') (2 * q + b2n (decide (m * 2 ^ k % m' ≠ 0))) (e - e' - k - 1)

/-- The square root of a positive value to more bits than any target holds, the last bit telling a
remainder. -/
def fSqrtExt (m : Nat) (e : Int) : FVal :=
  let k : Nat := 64 + (if (e % 2 = 0) then 0 else 1)
  let x := m * 2 ^ k
  let r := Nat.sqrt x
  .fin false (2 * r + b2n (decide (r * r ≠ x))) ((e - k) / 2 - 1)

/-- The FP32 layout. -/
def lay32 : FLayout := ⟨8, 23, 127, .ieee⟩
/-- The BF16 layout. -/
def lay16b : FLayout := ⟨8, 7, 127, .ieee⟩

/-- The value of an FP32 number. -/
def f32 (w : W32) : FVal := layDecode lay32 w.toNat

/-- A value rounded to FP32. -/
def toF32 (md : RMode) (v : FVal) : W32 × NumFlags :=
  let r := layRound lay32 md v
  (BitVec.ofNat 32 r.1, r.2)

/-- A rounded result with the NANC flag of its operation. -/
def withNanc (nanc : Bool) (r : W32 × NumFlags) : W32 × NumFlags := (r.1, flagsOr r.2 { nanc := nanc })

/-- The IEEE binary32 sum under a mode. -/
def f32Add (md : RMode) (a b : W32) : W32 × NumFlags :=
  let s := fAdd (f32 a) (f32 b); withNanc s.2 (toF32 md s.1)

/-- The binary32 product under a mode. -/
def f32Mul (md : RMode) (a b : W32) : W32 × NumFlags :=
  let s := fMul (f32 a) (f32 b); withNanc s.2 (toF32 md s.1)

/-- The fused a·b + c under a mode, rounded once; NANC needs that no operand is a NaN (Table 3-8). -/
def f32Fma (md : RMode) (a b c : W32) : W32 × NumFlags :=
  let p := fMul (f32 a) (f32 b)
  let s := fAdd p.1 (f32 c)
  withNanc ((p.2 && f32 c != .nan) || s.2) (toF32 md s.1)

/-- A partial sum of in-network addition or link reduction: FP32 lanes, or BF16 lanes (R116). -/
def netAdd (bf : Bool) (a b : Nat) : Nat :=
  if bf then (layRound lay16b .rne (fAdd (layDecode lay16b a) (layDecode lay16b b)).1).1
  else (layRound lay32 .rne (fAdd (layDecode lay32 a) (layDecode lay32 b)).1).1

/-! ## Conversions (R99, R100, R602) -/

/-- A value converted by value to a target format (blocked targets: the element alone). -/
def cvtVal (f : Fm) (md : RMode) (v : FVal) : Nat × NumFlags :=
  match fmLayout f with
  | some l => layRound l md v
  | none =>
    match f with
    | .int8 => intRound 8 md v
    | .int32 => intRound 32 md v
    | .e8m0 => e8m0Round md v
    | _ => intRound 8 md v

/-- A raw encoding converted to a scale-stream format: clamped to its width (R602). -/
def cvtRaw (w : Nat) (i : Int) : Nat × NumFlags :=
  if i < 0 then (0, { sat := true })
  else if i > (2 ^ w : Nat) - 1 then (2 ^ w - 1, { sat := true })
  else (i.toNat, noFlags)

/-- An element rounded for a block, with magnitudes above the element's largest finite clamped to it and no flag (R101,
R102, R103); for MXINT8 that is 127 (Table 3-2). -/
def blockRound (f : Fm) (md : RMode) (v : FVal) : Nat :=
  match fmLayout f with
  | some l =>
    match v with
    | .fin n m e =>
      let mx := layMax l
      let r := roundMag md (l.mb + 1) (layQmin l) m e
      if magGt r.1 r.2 mx.1 mx.2 then layEncodeFin l n mx.1 mx.2 else layEncodeFin l n r.1 r.2
    | _ => 0
  | none =>
    match v with
    | .fin n m e =>
      let r := roundToUnit md m e (-6)
      twos 8 (sgnMag n (min r 127))
    | _ => 0

/-- The floor of the base-2 logarithm of a magnitude that is not zero. -/
def fLog2 : FVal → Int
  | .fin _ m e => (Nat.log2 m : Int) + e
  | _ => 0

/-- Whether a value is finite. -/
def fIsFin : FVal → Bool
  | .fin .. => true
  | _ => false

/-- The largest of the base-2 exponents of the non-zero values. -/
def maxLog2 (vs : List FVal) : Option Int :=
  vs.foldl (fun a v => if fIsZero v then a else some (match a with | none => fLog2 v | some x => max x (fLog2 v))) none

/-- The exponent of the target element's largest normal power of two (R101). -/
def blockEmax : Fm → Int
  | .mxE4M3 => 8 | .mxE5M2 => 15 | .mxE2M3 => 2 | .mxE3M2 => 4 | .mxE2M1 => 2 | _ => 0

/-- One block of 32 values quantised: the elements, the scale entry and the flags. `md` gives the rounding mode
of each element (R101 for the MX formats, R102 for DP4, R103). -/
def quantBlock (f : Fm) (md : Nat → RMode) (vs : List FVal) : List Nat × Nat × NumFlags :=
  if vs.any (fun v => !fIsFin v) then
    (vs.map (fun _ => 0), 0xFF, { nanc := !vs.any (fun v => v == .nan) })
  else
    match maxLog2 vs with
    | none => (vs.map (fun _ => 0), 0x00, noFlags)
    | some top =>
      if f = .dp4 then
        let eg : List (Option Int) :=
          (List.range 4).map (fun g => (maxLog2 ((vs.drop (8 * g)).take 8)).map (· - 2))
        let bigE : Int := top - 2
        let minE : Int := (eg.filterMap id).foldl min bigE
        let s0 := max (bigE - 3) minE
        let s := max (-127) (min 127 s0)
        let fg : List Nat := eg.map (fun o => match o with | none => 0 | some x => (min 3 (max 0 (x - s))).toNat)
        let sc := (s + 127).toNat + packElems 2 fg * 256
        ((List.range vs.length).map (fun n =>
            blockRound f (md n) (scaleBy (vs.getD n .nan) (-(s + (fg.getD (n / 8) 0 : Nat))))),
          sc, { sat := decide (s0 > 127) })
      else
        let s0 := top - blockEmax f
        let s := max (-127) (min 127 s0)
        ((List.range vs.length).map (fun n => blockRound f (md n) (scaleBy (vs.getD n .nan) (-s))),
          (s + 127).toNat, { sat := decide (s0 > 127) })

/-! ## Stochastic generators (R105, R106) -/

/-- The initial state of a lane's generator at bay start. -/
def srSeed (seed : BitVec 64) (cx cy lane : Nat) : W32 :=
  let lo := BitVec.ofNat 32 seed.toNat
  let hi := BitVec.ofNat 32 (seed.toNat / 2 ^ 32)
  let s := lo ^^^ hi.rotateLeft 16 ^^^ BitVec.ofNat 32 (cx * 2 ^ 24 + cy * 2 ^ 16 + lane * 2 ^ 8)
  let s := s * 0x9E3779B9#32
  if s = 0 then 0x6C8E9CF5#32 else s

/-- One draw: the new state, which is also the draw. -/
def srDraw (s : W32) : W32 :=
  let s := s ^^^ (s <<< 13)
  let s := s ^^^ (s >>> 17)
  s ^^^ (s <<< 5)

/-- The mode of a code with a draw at hand (Table 3-5). -/
def rmodeOf (code draw : Nat) : RMode :=
  if code = 1 then .rtz else if code = 2 then .sr draw else .rne

/-! ## The matrix engine's chunk sums (R111 to R114) -/

/-- Whether the products of a tile-step hold a zero by an infinity, or infinities of opposite signs: both set NANC,
whatever the other elements are (R114). -/
def stepNanc (ps : List (FVal × Bool)) : Bool :=
  ps.any (fun p => p.2) || (ps.any (fun p => p.1 == .inf true) && ps.any (fun p => p.1 == .inf false))

/-- The exact sum of the products of one tile-step, with the NANC flag (R111, R114). An exact zero is +0. -/
def chunkSum (as bs : List FVal) : FVal × Bool :=
  let ps := (as.zip bs).map (fun p => fMul p.1 p.2)
  if ps.any (fun p => p.1 == .nan) || stepNanc ps then (.nan, stepNanc ps)
  else if ps.any (fun p => p.1 == .inf true) then (.inf true, false)
  else if ps.any (fun p => p.1 == .inf false) then (.inf false, false)
  else
    let s := ps.foldl (fun a p => (fAdd a p.1).1) (.fin false 0 0)
    ((match s with | .fin n m e => .fin (n && m != 0) m e | w => w), false)

/-- One tile-step of the 8-bit and 4-bit classes added to an accumulator: the chunk sum is rounded once and then
added (R111, R113, R114). -/
def accChunk (acc : W32) (as bs : List FVal) : W32 × NumFlags :=
  let c := chunkSum as bs
  let r := withNanc c.2 (toF32 .rne c.1)
  let a := f32Add .rne acc r.1
  (a.1, flagsOr r.2 a.2)

/-- One tile-step of the 16-bit class: each exact product is added in turn and the sum rounded once (R112, R114). -/
def accSerial (acc : W32) (as bs : List FVal) : W32 × NumFlags :=
  let ps := (as.zip bs).map (fun p => fMul p.1 p.2)
  ps.foldl (fun st pr =>
    let s := fAdd (f32 st.1) pr.1
    let r := withNanc s.2 (toF32 .rne s.1)
    (r.1, flagsOr st.2 r.2)) (acc, { nanc := stepNanc ps })

end Sys2Proof.Machine
end

