-- ==== Sys2Proof/Machine/CoreState.lean ====
section
/-! DEFINITION. What a core and its router hold (The Core and Its Sequencer, Matrix Engine and Tile Queue,
Vector Engine and Fused Chains, Scan Unit, Scratchpad and Access Engine, The Scheduled Fabric). -/

namespace Sys2Proof.Machine

/-! ## Stamps

Within a core, what happens in bay cycle c is seen by tests and reads from cycle c + 1 (R61, R161, R191,
R225). So a token, a tile, a row write or a tag action is kept with its stamp c + 1, and a test in cycle c sees
it when its stamp is at most c. -/

/-- A slot's tag (R191): the tag before and after the actions of the last cycle that had one. -/
structure TagCell where
  old : Bool
  cur : Bool
  stamp : Nat
  sawFull : Bool
  sawEmpty : Bool
  deriving DecidableEq, Repr

/-- The units that access rows. -/
inductive RowUnit where
  | mx | vx | sc | recv | send | seq | access
  deriving DecidableEq, Repr

/-- A row write with its stamp and unit; `op` numbers the engine operation that writes it, 0 for none. -/
structure RowWrite where
  stamp : Nat
  row : Nat
  data : Row
  unit : RowUnit
  op : Nat
  deriving DecidableEq, Repr

/-- The rows that a MATRIX_STEP or a chain in progress reads, and the cycles in which another unit may not write them
(R125, R162). -/
structure ReadWin where
  unit : RowUnit
  op : Nat
  rows : List Nat
  first : Nat
  last : Nat
  deriving DecidableEq, Repr

/-- Scheduled accesses to a bank in a cycle, counted by the lookahead (R184 to R186, R262). -/
structure BankAccess where
  bank : Nat
  cycle : Nat
  count : Nat
  /-- The store index of the operation. -/
  idx : Nat
  deriving DecidableEq, Repr

/-! ## The sequencer -/

/-- A loop-stack entry (R73 to R76): body indices, timeline iterations left after this one, executing
iterations left with this one. -/
structure LoopFrame where
  first : Nat
  stop : Nat
  left : Nat
  exec : Nat
  forever : Bool
  deriving DecidableEq, Repr

/-- A walk of the operation store (R54, R55, R63): the index and cycle of the next operation, the loop stack,
the ends of the skipped regions around it, and for each engine the start cycles still to come and the first
cycle in which it is free. -/
structure Walker where
  idx : Nat
  due : Nat
  loops : List LoopFrame
  skips : List Nat
  mxStarts : List Nat
  mxFree : Nat
  vxStarts : List Nat
  vxFree : Nat
  scStarts : List Nat
  scFree : Nat
  finished : Bool
  deriving DecidableEq, Repr

/-- What a CLOOP or a CTEST decided: the trip count, or whether the region is skipped. -/
inductive WalkChoice where
  | none
  | trips (t : Nat)
  | skip (b : Bool)
  deriving DecidableEq, Repr

/-- What the lookahead made of an operation whose issue is still to come (R63, R64, R66): whether it took it as
a shim, the descriptor entries it reserved, the crossings on which it claimed a credit for a mark, and its
resolution of a CLOOP or CTEST. -/
structure AheadRec where
  idx : Nat
  due : Nat
  shim : Bool
  reserved : Nat
  claims : List Side
  choice : WalkChoice
  deriving DecidableEq, Repr

/-- A token in a queue with its stamp (Table 2-7). -/
structure Token where
  stamp : Nat
  word : W32
  deriving DecidableEq, Repr

/-- An operation waiting in an engine's queue with its start cycle (R55). -/
structure EngineOp where
  idx : Nat
  word : BitVec 128
  start : Nat
  shim : Bool
  deriving DecidableEq, Repr

/-- Which tag action is due (R126, R163, R178, R70). -/
inductive TagKind where
  | operandRelease | vectorIn | vectorOut | scanIn | scanOut | sendEmpty | receiveFull
  deriving DecidableEq, Repr

/-- A tag action due in a cycle: the slots that become empty and those that become full. -/
structure TagAct where
  kind : TagKind
  cycle : Nat
  empties : List Nat
  fulls : List Nat
  deriving DecidableEq, Repr

/-- A MATRIX_STEP that has started and whose additions are not all done (R128 to R131): the rows that it reads, A first, and
those of them that a unit wrote while it read them, by their place in that list (R125). -/
structure MxRun where
  op : Nat
  idx : Nat
  word : BitVec 128
  t0 : Nat
  occ : Nat
  lat : Nat
  done : Nat
  aRows : List Row
  bRows : List Row
  mixes : List (Nat × Row)
  deriving DecidableEq, Repr

/-- A finished tile on its way to the tile queue, with its in-queue cycle (R131); a row still to be read is the bank's. -/
structure TileMove where
  idx : Nat
  cycle : Nat
  bank : Nat
  rows : List Row
  deriving DecidableEq, Repr

/-- A SCAN_CALL that has started: its effective step count, its latency, and for each step and group in the order of the
reads the rows of A and B, and for the first step the state row (R167 to R177). -/
structure ScanRun where
  op : Nat
  word : BitVec 128
  t0 : Nat
  steps : Nat
  lat : Nat
  ins : List (Row × Row × Row)
  deriving DecidableEq, Repr

/-- Numeric flags that an operation sets in a cycle (R115); operation 0 stands for none. -/
structure FlagDue where
  cycle : Nat
  flags : NumFlags
  op : Nat
  deriving DecidableEq, Repr

/-- A tile in queue with its stamp, and the cycle in which a chain removes it (R133, R134). -/
structure Tile where
  stamp : Nat
  gone : Option Nat
  rows : List Row
  deriving DecidableEq, Repr

/-! ## The router -/

/-- An item of the fabric (R215): a row, a quarter or a token. An idle item is `none` where an item stands. -/
inductive Item where
  | row (d : Row)
  | quarter (d : Quarter)
  | token (w : W32)
  deriving DecidableEq, Repr

/-- The layers (Table 8-1). -/
inductive Layer where
  | row | transit | token
  deriving DecidableEq, Repr

/-- An item that arrives on a side input in a cycle (R221). -/
structure Arrival where
  cycle : Nat
  layer : Layer
  side : Side
  item : Item
  deriving DecidableEq, Repr

/-- A SEND in progress: its first row cycle, and the read of its rows (R222, R604). -/
structure SendRun where
  layer : Layer
  first : Nat
  base : Nat
  rows : Nat
  extra : Nat
  /-- A later SEND of the layer has begun to drive (R223). -/
  cut : Bool
  deriving DecidableEq, Repr

/-- A RECEIVE in progress: its first row cycle and the quarters captured of its current row (R222). -/
structure RecvRun where
  layer : Layer
  first : Nat
  base : Nat
  rows : Nat
  extra : Nat
  /-- A later RECEIVE of the layer has begun to capture (R223). -/
  cut : Bool
  gotAny : Bool
  part : Row
  deriving DecidableEq, Repr

/-- A token to offer at KINJ in a cycle (R224): its VALUE, or the row, the 16-bit word and the cycle in which a
scratchpad source is read. Its issue cycle orders the offers of one cycle. -/
structure TokenOffer where
  cycle : Nat
  issue : Nat
  value : Nat
  scratch : Option (Nat × Nat × Nat)
  deriving DecidableEq, Repr

/-- A row in a steering data queue: its stamp and the merge input it came by (R234). -/
structure SteerRow where
  stamp : Nat
  fromB : Bool
  data : Row
  deriving DecidableEq, Repr

/-- A steering unit: its queues, and its outputs of a cycle (R234, R235). -/
structure Steer where
  tokens : List Token
  rows : List SteerRow
  outCycle : Nat
  out0 : Option Row
  out1 : Option Row
  deriving DecidableEq, Repr

/-- An adder's output of a cycle (R232). -/
structure AdderOut where
  cycle : Nat
  item : Option Item
  deriving DecidableEq, Repr

/-- A peg page (R227): VALID, period P, and entries 0 to P − 1. -/
structure PegPage where
  valid : Bool
  period : Nat
  entries : List (BitVec 128)
  deriving DecidableEq, Repr

/-- A position in the peg pages: the cycle it is at, the page, the entry, the pages to come with the issue cycles of
their PEG_PAGEs, oldest first, and the entry of the cycle before (R85, R228, R229). -/
structure PegWalk where
  cycle : Nat
  page : Nat
  entry : Nat
  next : List (Nat × Nat)
  last : BitVec 128
  deriving DecidableEq, Repr

/-- What the peg lookahead claimed for the peg entry of a cycle (R260): a take, a take into the latch for a turn,
which is made in the cycle before (R240), or a drive. -/
inductive ClaimKind where
  | take | turn | drive
  deriving DecidableEq, Repr

/-- A claim for the peg entry of a cycle. -/
structure PegClaim where
  cycle : Nat
  side : Side
  kind : ClaimKind
  deriving DecidableEq, Repr

/-! ## The access engine -/

/-- A started descriptor (R202 to R204): its 64 bytes, its number, the next byte of the remote stream to issue (for the
inflate unit, the next block), the rows that a FILL has written, the period of its last row, the entry of a rank, and whether
it has met an error. -/
structure DescRun where
  id : Nat
  raw : List Byte
  next : Nat
  rowsDone : List Nat
  landed : Nat
  rank : Nat
  failed : Bool
  deriving DecidableEq, Repr

/-- A burst slot in use (R203): the descriptor, the part of its remote stream, and whether the response has
come. -/
structure Burst where
  tag : BitVec 12
  desc : Nat
  off : Nat
  len : Nat
  answered : Bool
  status : Nat
  data : List Byte
  deriving DecidableEq, Repr

/-- A remote write that waits at the core (R206). -/
structure RemoteWrite where
  q : Packet
  rset : Bool
  last : Bool
  rslot : Nat
  deriving DecidableEq, Repr

/-! ## Status -/

/-- The counters and flags of SEQ_STATUS, MX_STATUS, VX_STATUS, SC_STATUS, AX_STATUS and RT_STATUS (Tables
2-8, 4-3, 5-5, 6-3, 7-8, 8-6) that are not read from other state. -/
structure CoreStatus where
  staleTokens : Nat
  tokenMiss : Nat
  tqDrop : Nat
  faultCause : Nat
  clip : Bool
  ctrOverflow : Bool
  ctrUnderflow : Bool
  tileOverrun : Nat
  tileUnderrun : Nat
  tilesOut : Nat
  chains : Nat
  vlClamps : Nat
  flags : NumFlags
  calls : Nat
  stepsClamps : Nat
  axFault : Nat
  tagWrong : Nat
  tagClash : Nat
  bankHolds : Nat
  descDone : Nat
  steerMiss : Nat
  steerDrop : Nat
  redMiss : Nat
  lost : Nat
  staleIn : Nat
  xkindMiss : Nat
  deriving DecidableEq, Repr

/-- What a load puts into a core (Table 2-1, R189, R149, R227). -/
structure CoreImage where
  stream : List (BitVec 128)
  slots : List (BitVec 64)
  chainTable : List (List Byte)
  pages : List PegPage
  page0 : Nat
  deriving DecidableEq, Repr

/-- The sequencer's own state. -/
structure SeqState where
  issue : Walker
  ahead : Walker
  recs : List AheadRec
  counters : List (BitVec 16)
  dynamic : List Bool
  /-- A counter value that becomes visible in a later cycle (Table 2-6, TOKEN CONSUME). -/
  counterWrites : List (Nat × Nat × BitVec 16 × Bool)
  queues : List (List Token)
  epoch : BitVec 4
  /-- Marks that have issued: the cycle in which the epoch takes effect, the epoch, and the sides whose outgoing
  crossings will have a mark entry (R83, R242). -/
  marks : List (Nat × BitVec 4 × List Side)
  deriving DecidableEq, Repr

/-- The matrix engine, the vector engine and the scan unit. -/
structure EngineState where
  mxQueue : List EngineOp
  mxRuns : List MxRun
  banks : List (List Row)
  drains : List TileMove
  tiles : List Tile
  vxQueue : List EngineOp
  srState : List W32
  flagsDue : List FlagDue
  scQueue : List EngineOp
  scRuns : List ScanRun
  tagActs : List TagAct
  readWins : List ReadWin
  mxIdle : Nat
  vxIdle : Nat
  scIdle : Nat
  vxBusy : Nat
  scBusy : Nat
  /-- The number of the next engine operation. -/
  nextOp : Nat
  deriving DecidableEq, Repr

/-- The access engine. -/
structure AccessState where
  queue : List (List Byte)
  reserved : Nat
  started : List DescRun
  bursts : List Burst
  remote : List RemoteWrite
  nextDesc : Nat
  nextTag : Nat
  /-- The bay's cycle count when the engine last came to rest (R58, R268). -/
  idleAt : Nat
  /-- The first period of the head oscillator in which the engine has not yet placed a row (R204). -/
  portNext : Nat
  deriving DecidableEq, Repr

/-- The router. -/
structure RouterState where
  run : PegWalk
  ahead : PegWalk
  claims : List PegClaim
  arrivals : List Arrival
  /-- The latches (R221): the items that arrived in the cycle before, and whether each was taken there. -/
  latches : List (Arrival × Bool)
  sends : List SendRun
  recvs : List RecvRun
  offers : List TokenOffer
  sw : Steer
  mg : Steer
  rsum : AdderOut
  tsum : AdderOut
  deriving DecidableEq, Repr

/-- A core (Table 2-1) with what the die supervisor keeps about it. -/
structure Core where
  image : CoreImage
  seq : SeqState
  eng : EngineState
  ax : AccessState
  rt : RouterState
  st : CoreStatus
  tags : List TagCell
  rows : List (Nat × Row)
  writes : List RowWrite
  /-- Words that cannot be corrected, by byte offset / 8 in the core's own rows (R539), and the rows that reported
  one since their last retest (R542). -/
  badWords : List Nat
  suspects : List Nat
  /-- The die supervisor's running totals, in the order of Table 9-12. -/
  totals : List Nat
  /-- The microcode held (R471, R472); 0 for none. -/
  microcode : Nat
  /-- Scheduled accesses to the core's banks that the lookahead has counted, the accesses that each bank has
  waiting at the end of the last cycle looked at, and the next cycle to look at (R262). -/
  bank : List BankAccess
  bankLoad : List Nat
  bankNext : Nat
  /-- The cycles looked at in which scheduled accesses need both ports of a bank: the cycle, the bank and how many wait
  (R187). -/
  bankBusy : List (Nat × Nat × Nat)
  /-- The cycle at which the core froze for a fault (R269). -/
  frozeAt : Option Nat
  deriving DecidableEq, Repr

/-! ## The empty core -/

/-- A walk before any load. -/
def walkerZero : Walker := ⟨0, 0, [], [], [], 0, [], 0, [], 0, true⟩

/-- A steering unit with empty queues and no output. -/
def steerZero : Steer := ⟨[], [], 0, none, none⟩

/-- Status registers at their reset column: every field 0. -/
def statusZero : CoreStatus :=
  ⟨0, 0, 0, 0, false, false, false, 0, 0, 0, 0, 0, noFlags, 0, 0, 0, 0, 0, 0, 0, 0, 0, 0, 0, 0, 0⟩

/-- A peg page that is not loaded. -/
def pageZero : PegPage := ⟨false, 0, []⟩

/-- A core after its reset: operation store, slots, chain table and peg pages empty, rows zero (R480), the
counters and registers at their reset column. The generators' state before a first BAY_START is a DESIGN
CHOICE (log entry 8). -/
def coreZero : Core where
  image := ⟨[], copies 64 0, copies 32 [], copies 8 pageZero, 0⟩
  seq := ⟨walkerZero, walkerZero, [], copies 8 0, copies 8 false, [], copies 4 [], 0, []⟩
  eng := ⟨[], [], [copies 32 0, copies 32 0], [], [], [], copies 128 0, [], [], [], [], [], 0, 0, 0, 0, 0, 1⟩
  ax := ⟨[], 0, [], [], [], 1, 0, 0, 0⟩
  rt := ⟨⟨0, 0, 0, [], 0⟩, ⟨0, 0, 0, [], 0⟩, [], [], [], [], [], [], steerZero, steerZero, ⟨0, none⟩, ⟨0, none⟩⟩
  st := statusZero
  tags := copies 64 ⟨false, false, 0, false, false⟩
  rows := []
  writes := []
  badWords := []
  suspects := []
  totals := copies 19 0
  microcode := 0
  bank := []
  bankLoad := copies 16 0
  bankNext := 0
  bankBusy := []
  frozeAt := none

end Sys2Proof.Machine
end

