-- ==== Sys2Proof/Machine/BayState.lean ====
section
/-! DEFINITION. What the panel holds of its floor plan, bays and crossings (Panel Floor Plan, Dies and
Identity; Bays, Forwarded Clocks, Holds and Crossings; The Compiler Contract). -/

namespace Sys2Proof.Machine

/-! ## Floor plan -/

/-- The identity fuse block of a die (Table 1-4). -/
structure DieFuse where
  assyLot : BitVec 32
  dieSerial : BitVec 64
  panelSerial : BitVec 64
  stepping : BitVec 8
  primarySel : Bool
  embEnable : Bool
  reserveDesig : Bool
  variant : BitVec 8
  siteY : BitVec 4
  siteX : BitVec 4
  role : BitVec 4
  deriving DecidableEq, Repr

/-- Site states (Table 1-8). -/
inductive SiteState where
  | good | partialUse | failed | fenced | reserve | absent
  deriving DecidableEq, Repr

/-- A floor plan site entry (Table 1-7), less what the place and the fuses give. -/
structure SiteEntry where
  role : Nat
  state : SiteState
  reason : Nat
  part : Nat
  coreGood : BitVec 64
  capacity : BitVec 32
  lanes : BitVec 32
  entryGen : BitVec 32
  deriving DecidableEq, Repr

/-- A host entry of the persistent fence list (R36). -/
inductive HostFence where
  | fence | unfence
  deriving DecidableEq, Repr

/-- The floor plan record that firmware keeps (R30, R41), and the retests that run (R48). -/
structure FloorPlan where
  built : Bool
  changeTick : Nat
  entries : List SiteEntry
  retests : List (Nat × Cmd)
  /-- The king post is (15,9) (R52). -/
  kingAlt : Bool
  deriving DecidableEq, Repr

/-! ## Bays -/

/-- Bay states (Table 9-1). -/
inductive BayMode where
  | loaded | running | held | pointChange | done | draining | stopped | faultHold
  deriving DecidableEq, Repr

/-- A hold condition that is not met (R258). -/
inductive HoldCond where
  /-- A check-ahead condition of the operation at a store index of a core (R62). -/
  | check (core idx : Nat)
  /-- Descriptor-queue entries of a core for the operation that issues in a cycle (R66). -/
  | accessQueue (core due : Nat)
  /-- An entry for the take of a peg entry's cycle, or for its turn (R260, R240). -/
  | xdata (core : Nat) (side : Side) (cycle : Nat) (turn : Bool)
  /-- A credit for the drive of a peg entry's cycle (R260). -/
  | xcredit (core : Nat) (side : Side) (cycle : Nat)
  /-- A credit for the mark of an EPOCH_MARK issued in a cycle (R260). -/
  | markCredit (core : Nat) (side : Side) (cycle : Nat)
  /-- BAY_HOLD, or a trap (R258, R295). -/
  | host
  /-- The HOST condition of a bank stall's trap: the bay is frozen already (R295). -/
  | trap
  deriving DecidableEq, Repr

/-- A planned BANK hold (R262): the bay freezes after a cycle for a number of oscillator periods. -/
structure BankHoldPlan where
  freeze : Nat
  periods : Nat
  core : Nat
  bank : Nat
  idx : Nat
  deriving DecidableEq, Repr

/-- The stages of a pending point change (R254, R255, R606). -/
inductive PointStage where
  | railRising | atHead | stopped
  /-- A loaded bay's oscillator relocks; nothing stops (R255). -/
  | relocking
  deriving DecidableEq, Repr

/-- A pending BAY_SET_POINT. -/
structure PointChange where
  target : Nat
  stage : PointStage
  freeze : Nat
  wasHeld : Bool
  /-- When the present stage began, in ns. -/
  since : Nat
  cmd : Cmd
  deriving DecidableEq, Repr

/-- A stop or reconfiguration in progress (R268), with its command; PREPARE_REMOVAL and a partition reset stop a bay
with none of its own. A stop cycle of `none` waits for a mark. -/
structure StopReq where
  cmd : Option Cmd
  atMark : Bool
  notBefore : Nat
  stopCycle : Option Nat
  since : Nat
  /-- The host address and length of the image of a reconfiguration; its load is not made when cleared (R451). -/
  image : Option (Nat × Nat)
  deriving DecidableEq, Repr

/-- A trap record (Table 10-11). -/
structure Trap where
  cls : Nat
  core : Nat
  sub : Nat
  index : Nat
  page : Nat
  cycle : Nat
  detail : Nat
  deriving DecidableEq, Repr

/-- A bay (Tables 9-1, 9-11, 10-3). -/
structure Bay where
  part : Nat
  cx0 : Nat
  cy0 : Nat
  w : Nat
  ht : Nat
  contract : Nat
  drainBound : Nat
  hazard : Bool
  mode : BayMode
  point : Nat
  /-- The cycle count of R272. -/
  count : Nat
  /-- The cycle after which the bay freezes for its conditions. -/
  freezeDue : Option Nat
  conds : List HoldCond
  bankPlans : List BankHoldPlan
  bankHeld : Option BankHoldPlan
  /-- When the present freeze began, in ns. -/
  frozenAt : Option Nat
  frozenNs : Nat
  /-- Periods of the oscillator in which no cycle ran, and since when it has run without a cycle, in ns (R204, R266). -/
  idlePeriods : Nat
  idleSince : Option Nat
  heldLong : Bool
  holds : Nat
  stretches : Nat
  fault : Nat
  faultCore : Option Nat
  /-- The cycle after which a fault freezes the bay (R269). -/
  faultDue : Option Nat
  faultCycle : Option Nat
  overrun : Bool
  boostLost : Bool
  /-- The conditions for F2100 whose present lapse has been reported: the coolant's, the headroom's (R253). -/
  boostTold : Bool × Bool
  /-- BUILD_GEN of the image (Table 10-3). -/
  buildGen : Nat
  seed : BitVec 64
  change : Option PointChange
  stop : Option StopReq
  /-- Droop levels sensed, by the cycle that they stretch (R256). -/
  droops : List (Nat × Nat)
  traps : List Trap
  trapsLost : Nat
  /-- The image's crossing descriptors (Table 9-7). -/
  xdescs : List (List Byte)
  deriving DecidableEq, Repr

/-- The kind of a crossing entry (R240). -/
inductive XKind where
  | data | token | mark
  deriving DecidableEq, Repr

/-- The way of an entry or a credit to the other end of its crossing (R266): the periods that had ended at the near end with
the cycle that sent it, and once the extra latency is over, the first period of the far end to begin after that. -/
structure XTrip where
  sent : Nat
  seen : Option Nat
  deriving DecidableEq, Repr

/-- A crossing entry (R240, R265): valid bit, 128 bytes of payload, crossing epoch, and its way across. -/
structure XEntry where
  kind : XKind
  valid : Bool
  payload : Quarter
  xepoch : BitVec 4
  trip : XTrip
  deriving DecidableEq, Repr

/-- Whether a crossing passes entries (R264, R268). -/
inductive XState where
  | pending | opened | closed
  deriving DecidableEq, Repr

/-- A crossing (R240 to R244, R260 to R267), by its receiving core and side. -/
structure Crossing where
  sender : Nat
  sendSide : Side
  recv : Nat
  recvSide : Side
  budget : Nat
  state : XState
  /-- The sender's and the receiver's bay declare it (R263). -/
  outDecl : Bool
  inDecl : Bool
  sendXe : BitVec 4
  acceptXe : BitVec 4
  /-- Entries on their way to the receiver's view (R266). -/
  flight : List XEntry
  /-- Accepted entries, oldest first (R243), with the stamp in receiver cycles. -/
  accepted : List XEntry
  /-- Entries removed whose credits are on their way back (R266). -/
  returning : List XTrip
  /-- Entries and credits that the lookaheads have claimed (R260). -/
  takeClaims : Nat
  driveClaims : Nat
  deriving DecidableEq, Repr

end Sys2Proof.Machine
end

