-- ==== Sys2Proof/Machine/Places.lean ====
section
/-! DEFINITION. The places of the substrate: roles, ordinals, quadrants, core coordinates, side kinds (R18 to
R24, R218, R219). Sites are numbered 16·y + x, cores 128·cy + cx. -/

namespace Sys2Proof.Machine

/-- Site number (R26, R30). -/
def siteNo (p : SiteId) : Nat := 16 * p.y.val + p.x.val
/-- Column of a site. -/
def siteX (i : Nat) : Nat := i % 16
/-- Row of a site. -/
def siteY (i : Nat) : Nat := i / 16
/-- Core number. -/
def coreNo (k : CoreId) : Nat := 128 * k.cy.val + k.cx.val
/-- Column of a core. -/
def coreX (k : Nat) : Nat := k % 128
/-- Row of a core. -/
def coreY (k : Nat) : Nat := k / 128
/-- The number of the core [cx,cy]. -/
def coreAt (cx cy : Nat) : Nat := 128 * cy + cx

/-- Service rows (R18). -/
def isServiceRow (y : Nat) : Bool := y == 0 || y == 4 || y == 9 || y == 13

/-- The role code of a site's place (R19, Tables 1-1, 1-5). -/
def placeRole (i : Nat) : Nat :=
  let x := siteX i
  let y := siteY i
  if !isServiceRow y then 1
  else if x % 2 = 0 then 2
  else if x % 4 = 1 then 4
  else if x = 15 then (if y = 4 ∨ y = 9 then 5 else 6)
  else 3

/-- The service-row index of a row (Table 1-2). -/
def rowIndex (y : Nat) : Nat := if y = 0 then 0 else if y = 4 then 1 else if y = 9 then 2 else 3
/-- The site row of a service-row index. -/
def rowOfIndex (r : Nat) : Nat := if r = 0 then 0 else if r = 1 then 4 else if r = 2 then 9 else 13

/-- Stack ordinal of a site (R21). -/
def stackOfSite (i : Nat) : Nat := 8 * rowIndex (siteY i) + siteX i / 2
/-- Weight-store die ordinal of a site (R21). -/
def wstoreOfSite (i : Nat) : Nat := 4 * rowIndex (siteY i) + (siteX i - 1) / 4
/-- Link die ordinal of a site (R21). -/
def linkDieOfSite (i : Nat) : Nat := 3 * rowIndex (siteY i) + (siteX i - 3) / 4
/-- Site of a stack. -/
def siteOfStack (s : Nat) : Nat := 16 * rowOfIndex (s / 8) + 2 * (s % 8)
/-- Site of a weight-store die. -/
def siteOfWstore (w : Nat) : Nat := 16 * rowOfIndex (w / 4) + 4 * (w % 4) + 1
/-- Site of a link die. -/
def siteOfLinkDie (k : Nat) : Nat := 16 * rowOfIndex (k / 3) + 4 * (k % 3) + 3

/-- The quadrant of a site (R22). -/
def quadrantOf (i : Nat) : Nat := (if siteX i ≥ 8 then 1 else 0) + (if siteY i ≥ 7 then 2 else 0)

/-- The site row of a compute-row index (Table 1-3). -/
def siteRowOf (k : Nat) : Nat := if k < 3 then k + 1 else if k < 7 then k + 2 else k + 3

/-- The compute-row index of a site row (Table 1-3). -/
def computeRowOf (y : Nat) : Nat := if y < 4 then y - 1 else if y < 9 then y - 2 else y - 3

/-- The site of a core (R23). -/
def siteOfCore (k : Nat) : Nat := 16 * siteRowOf (coreY k / 8) + coreX k / 8

/-- The core's bit in its die's CORE_GOOD (Table 1-7). -/
def coreBit (k : Nat) : Nat := 8 * (coreY k % 8) + coreX k % 8

/-- The core of a compute site at a bit of CORE_GOOD. -/
def coreOfBit (site b : Nat) : Nat :=
  coreAt (8 * siteX site + b % 8) (8 * computeRowOf (siteY site) + b / 8)

/-- The band of a core row (R24). -/
def bandOf (cy : Nat) : Nat := if cy < 24 then 0 else if cy < 56 then 1 else 2

/-- The side across (R221). -/
def opposite : Side → Side
  | .n => .s | .e => .w | .s => .n | .w => .e

/-- Whether two sides lie on one axis. -/
def sameAxis (a b : Side) : Bool := a == b || a == opposite b

/-- The core across a side, where the panel has one; across a service row it is the first or last core of the
adjacent band (Table 9-7). -/
def facing (k : Nat) (d : Side) : Option Nat :=
  let x := coreX k
  let y := coreY k
  match d with
  | .n => if y = 0 then none else some (coreAt x (y - 1))
  | .s => if y = 79 then none else some (coreAt x (y + 1))
  | .w => if x = 0 then none else some (coreAt (x - 1) y)
  | .e => if x = 127 then none else some (coreAt (x + 1) y)

/-- The extra latency between facing cores (Table 8-2): 24 across a service row, 4 across a die seam, 0 on one
die. -/
def extraLatency (a b : Nat) : Nat :=
  if bandOf (coreY a) ≠ bandOf (coreY b) then 24
  else if siteOfCore a ≠ siteOfCore b then 4
  else 0

/-- The side of a code 0 to 3 (N, E, S, W). -/
def sideOfCode (n : Nat) : Side := if n = 0 then .n else if n = 1 then .e else if n = 2 then .s else .w
/-- The code of a side. -/
def sideCode : Side → Nat
  | .n => 0 | .e => 1 | .s => 2 | .w => 3

/-- The four sides. -/
def allSides : List Side := [.n, .e, .s, .w]

/-- A site's state code (Table 1-8). -/
def siteStateCode : SiteState → Nat
  | .good => 0 | .partialUse => 1 | .failed => 2 | .fenced => 3 | .reserve => 4 | .absent => 5

/-- A bay's state code (Table 9-1). -/
def bayModeCode : BayMode → Nat
  | .loaded => 1 | .running => 2 | .held => 3 | .pointChange => 4 | .done => 5 | .draining => 6
  | .stopped => 7 | .faultHold => 8

end Sys2Proof.Machine
end

