-- ==== Sys2Proof/Machine/HostState.lean ====
section
/-! DEFINITION. What the panel holds of its host port, command protocol, events and partitions (Host
Attachment and the Jexeri Command Protocol; Service Fabric and Stacked Memory). -/

namespace Sys2Proof.Machine

/-- A command in progress: the submission-queue head after it was taken (Table 15-10), the output that its RESPONSE will
carry (R571), and whether its completion is to be discarded because its queue or the mailbox command has been deleted
(R437, R449). -/
structure Taken where
  cmd : Cmd
  sqHead : Nat
  out : List Byte
  mute : Bool
  deriving DecidableEq, Repr

/-- A completion (Table 15-10). -/
structure Completion where
  cmdId : Nat
  status : Nat
  sqHead : Nat
  detail : Nat
  deriving DecidableEq, Repr

/-- A queue pair (R436 to R438). -/
structure QueuePair where
  bind : Nat
  vector : Nat
  sqDepth : Nat
  cqDepth : Nat
  sqBase : Nat
  cqBase : Nat
  sqHead : Nat
  sqTail : Nat
  cqHead : Nat
  cqTail : Nat
  phase : Bool
  /-- Completions that wait for a free entry (R438). -/
  waiting : List Completion
  deriving DecidableEq, Repr

/-- The fields that a commit takes into effect together (Table 15-7: AP_BASE, ENABLE, AP_PART, SIZE_LOG2). -/
structure Aperture where
  base : Nat
  enable : Bool
  part : Nat
  sizeLog2 : Nat
  deriving DecidableEq, Repr

/-- A host token that waits for room (R445). -/
structure WaitingToken where
  core : Nat
  tq : Nat
  word : W32
  due : Nat
  cmd : Cmd
  deriving DecidableEq, Repr

/-- An event record (Table 15-15d) before it has its SEQ. -/
structure EventRec where
  code : Nat
  unit : Nat
  tick : Nat
  more : Bool
  part : Nat
  x : Nat
  y : Nat
  cx : Nat
  cy : Nat
  aux : Nat
  arg : Nat
  deriving DecidableEq, Repr

/-- The event queue (R446, R447). -/
structure EventQueue where
  set : Bool
  base : Nat
  depth : Nat
  tail : Nat
  hostHead : Nat
  phase : Bool
  /-- SEQ of the next record. -/
  seq : Nat
  /-- Events discarded and not yet reported. -/
  lost : Nat
  deriving DecidableEq, Repr

/-- A host window (R426). -/
structure HostWindow where
  read : Bool
  write : Bool
  base : Nat
  length : Nat
  deriving DecidableEq, Repr

/-- The host port (Tables 15-6, 15-7, 15-11). -/
structure HostPort where
  bringup : Nat
  removalReady : Bool
  parked : Bool
  /-- PREPARE_REMOVAL in progress (R451). -/
  removing : Option Cmd
  dbErrors : Nat
  hdmErrors : Nat
  apErrors : Nat
  shadow : Aperture
  active : Aperture
  reason : Nat
  rejected : Bool
  mbCmd : List Byte
  mbCpl : List Byte
  mbData : List Byte
  mbBusy : Bool
  mbDone : Bool
  /-- When GO started the command in the mailbox (R460). -/
  mbSince : Nat
  queues : List (Nat × QueuePair)
  /-- The queue whose turn is next (R438). -/
  turn : Nat
  /-- The agreed minor version (R442). -/
  agreed : Option Nat
  /-- HDM pages in host bias (R424). -/
  hostBias : List (Nat × Nat)
  linkMode : Nat
  linkWidth : Nat
  cxlMem : Bool
  perst : Bool
  inL2 : Bool
  wake : Bool
  tokens : List WaitingToken
  /-- The tag of the next WRITE that the aperture posts. -/
  apTag : Nat
  /-- HDM offset and status of each uncorrectable CXL.mem error logged by the CXL RAS capability (R423). -/
  rasLog : List (Nat × Nat)
  /-- How often each MSI-X vector has been signalled, the vectors whose mask bit is set, and those whose pending bit is set
  (R433). -/
  msix : List (Nat × Nat)
  msixMask : List Nat
  msixPend : List Nat
  /-- What the last read of a register, of HDM or of the aperture returned. -/
  readData : List Byte
  deriving DecidableEq, Repr

/-- No aperture. -/
def apertureZero : Aperture := ⟨0, false, 0, 0⟩

/-- The host port at its reset column (Tables 15-6, 15-7, 15-11). -/
def hostZero : HostPort where
  bringup := 0
  removalReady := false
  parked := false
  removing := none
  dbErrors := 0
  hdmErrors := 0
  apErrors := 0
  shadow := apertureZero
  active := apertureZero
  reason := 0
  rejected := false
  mbCmd := copies 64 0
  mbCpl := copies 16 0
  mbData := copies 3840 0
  mbBusy := false
  mbDone := false
  mbSince := 0
  queues := []
  turn := 0
  agreed := none
  hostBias := []
  linkMode := 0
  linkWidth := 0
  cxlMem := false
  perst := false
  inL2 := false
  wake := false
  tokens := []
  apTag := 0
  rasLog := []
  msix := []
  msixMask := []
  msixPend := []
  readData := []

/-- The event queue at a boot: not set, and the first record will take SEQ 1 (Table 15-15d). -/
def eventsZero : EventQueue := ⟨false, 0, 0, 0, 0, true, 1, 0⟩

/-- A load report (Table 10-9). -/
structure LoadReport where
  cmdId : Nat
  status : Nat
  loadFault : Nat
  offset : Nat
  cx : Nat
  cy : Nat
  bay : Nat
  contract : Nat
  epoch : Nat
  generation : Nat
  tick : Nat
  deriving DecidableEq, Repr

end Sys2Proof.Machine
end

