-- ==== Sys2Proof/Machine/MemState.lean ====
section
/-! DEFINITION. What the panel holds of its service fabric, its memories, its embedding engines, its weight store
and weight sets, its links and its partitions (Service Fabric and Stacked Memory; Embedding Engine; Weight Store and
Weight Sets; Panel Links and Multi-Panel Systems). -/

namespace Sys2Proof.Machine

/-! ## The service fabric -/

/-- What a request carries beside its packet: the host address of a packet to the host port (R426); the rank entry that its
access engine read, by which its packet for the link is made too (R405, R406); or a link packet that one link die passes to
another, for a panel further on (R410) or to the reduction home (R412). -/
inductive Cargo where
  | nothing
  | hostAddr (a : Nat)
  | rankEntry (e : Nat)
  | transit (q : LinkPacket)
  | reduction (l : Nat) (q : LinkPacket)
  deriving DecidableEq, Repr

/-- A request on its way, with what the final burst of a DRAIN carries beside it (R206, R406). -/
structure Flight where
  q : Packet
  x : Option RankExtra
  cargo : Cargo
  deriving DecidableEq, Repr

/-- A request that waits for its answer, and when it left, in ns (R311). -/
structure Await where
  q : Packet
  sent : Nat
  deriving DecidableEq, Repr

/-- An input port of a service router, with the sender at the other end of its hop (R312, R313). -/
structure Hop where
  /-- Replays of the same flit in a row. -/
  replays : Nat
  training : Bool
  /-- Failed retrains in a row. -/
  fails : Nat
  down : Bool
  /-- The SEQ of the next flit to be accepted, and whether a replay from it is asked for. -/
  expect : Nat
  resend : Bool
  /-- The replay buffer: flits sent and not acknowledged, at most 8. -/
  buffer : List HopFlit
  /-- The headers of the packets of which a first flit and no last has come, by 2 · CLASS + VC. -/
  headers : List (Nat × Nat)
  deriving DecidableEq, Repr

/-- What a port counts in a window (Table 11-10). -/
structure PortCount where
  bins : List Nat
  stall : List Nat
  flits : Nat
  retries : Nat
  deriving DecidableEq, Repr

/-- A completed window (R321): ports by 6 · site + side, drops by site. -/
structure CongWindow where
  tick : Nat
  generation : Nat
  routers : List Nat
  ports : List (Nat × PortCount)
  drops : List (Nat × Nat)
  deriving DecidableEq, Repr

/-- The route tables as firmware last wrote them (R307): the sites with a working router, and the hops that are down. -/
structure RouteTable where
  works : List Nat
  down : List Nat
  deriving DecidableEq, Repr

/-- The service fabric. -/
structure FabricState where
  flight : List Flight
  answers : List Packet
  awaits : List Await
  routes : RouteTable
  hops : List (Nat × Hop)
  ports : List (Nat × PortCount)
  drops : List (Nat × Nat)
  /-- The tick of the window that runs. -/
  window : Nat
  windows : List CongWindow
  deriving DecidableEq, Repr

/-! ## Memories -/

/-- A stack's controller and scrubber (R326 to R328, R540, R544). -/
structure StackState where
  /-- PERIOD_H. -/
  period : Nat
  /-- When the present scrub period began, in ns. -/
  since : Nat
  /-- The words that the patrol has read in this period. -/
  patrolled : List Nat
  spares : Nat
  exhausted : Bool
  /-- Words that cannot be corrected, by offset / 64. -/
  bad : List Nat
  /-- Corrected words with the time of their last correction. -/
  corrected : List (Nat × Nat)
  /-- Words whose correction has scored since their unit was last written back. -/
  scored : List Nat
  /-- 2 KiB units that are scheduled for scrubbing, with the time of the read. -/
  scrubs : List (Nat × Nat)
  /-- DRAM rows that the next visit retires. -/
  retiring : List Nat
  retired : List Nat
  deriving DecidableEq, Repr

/-- A die buffer (R208, R543). -/
structure BufferState where
  spares : Nat
  exhausted : Bool
  /-- Words that cannot be corrected, by offset / 8. -/
  bad : List Nat
  /-- Blocks of 2 KiB that reported an uncorrectable error. -/
  suspects : List Nat
  deriving DecidableEq, Repr

/-! ## Embedding engines -/

/-- Rebuild states (Table 12-8). -/
inductive RebuildPhase where
  | idle | running | paused | complete | failed
  deriving DecidableEq, Repr

/-- The source of a rebuild (Table 12-7). -/
structure RebuildSrc where
  fmt : Nat
  first : Nat
  count : Nat
  stride : Nat
  addr : Nat
  host : Bool
  deriving DecidableEq, Repr

/-- A table (R333, Tables 12-1 and 12-9). -/
structure EmbTable where
  part : Nat
  fmt : Nat
  elems : Nat
  rebuildable : Bool
  rows : Nat
  stride : Nat
  baseA : Nat
  baseB : Nat
  epoch : Nat
  phase : RebuildPhase
  share : Nat
  src : RebuildSrc
  rowsDone : Nat
  failRow : Nat
  /-- When the rebuild last wrote a row or began to run, in ns. -/
  lastRow : Nat
  resErrors : Nat
  requests : Nat
  rowsRead : Nat
  notOk : Nat
  deriving DecidableEq, Repr

/-- A lookup request in an engine's queue: its 64 bytes, its sender, and whether its batch was open when it arrived. -/
structure EmbRequest where
  raw : List Byte
  srcX : Nat
  srcY : Nat
  srcUnit : Nat
  live : Bool
  deriving DecidableEq, Repr

/-- A started request: RSTATUS, the copy's epoch, the indices out of range, the elements of its result, its rows and its
weights. -/
structure EmbRun where
  req : EmbRequest
  status : Nat
  epoch : Nat
  bad : Nat
  elems : Nat
  rows : List (List W32)
  weights : List W32
  deriving DecidableEq, Repr

/-- A result whose writes are not all answered, with their tags. -/
structure EmbResult where
  run : EmbRun
  tags : List Nat
  deriving DecidableEq, Repr

/-- An engine (R339). -/
structure EmbEngine where
  tables : List (Nat × EmbTable)
  queue : List EmbRequest
  runs : List EmbRun
  results : List EmbResult
  tag : Nat
  deriving DecidableEq, Repr

/-- An open batch (R348): pins by 64 · stack + table with their epochs, and the EMB_BATCH_CLOSE that waits. -/
structure EmbBatch where
  pins : List (Nat × Nat)
  closing : Option Cmd
  deriving DecidableEq, Repr

/-! ## The weight store -/

/-- A page record (Table 13-1). -/
structure PageRec where
  pfmt : Nat
  elemFmt : Nat
  nblk : Nat
  used : Nat
  crc : Nat
  writes : Nat
  imageSeq : Nat
  /-- The model's own: the first index of the free values that the bytes past USED read as (log entry 30). -/
  free : Nat
  deriving DecidableEq, Repr

/-- What a weight-store die keeps through a power loss (R358 to R375); the array's bytes stand with the panel's. -/
structure StoreDie where
  pages : List (Nat × PageRec)
  pageWrites : Nat
  /-- The open-image marker: its IMAGE_SEQ. -/
  marker : Option Nat
  /-- The marker was set at boot (INCOMPLETE). -/
  incomplete : Bool
  crcErrors : Nat
  corrected : Nat
  uncorrectable : Nat
  /-- Words that cannot be corrected, by offset / 64. -/
  bad : List Nat
  /-- The pages that have been swept, each with its last sweep (R360). -/
  swept : List (Nat × Nat)
  deriving DecidableEq, Repr

/-- A directory entry of a weight image (Table 13-5) with its index. -/
structure ImageEntry where
  index : Nat
  ws : Nat
  pfmt : Nat
  elemFmt : Nat
  page : Nat
  nblk : Nat
  used : Nat
  dataOff : Nat
  digest : List Byte
  deriving DecidableEq, Repr

/-- Where the bytes of an image come from: host memory, or the stream of a purlin by partition and number. -/
inductive ImageSource where
  | host (addr : Nat) (cmd : Cmd)
  | purlin (part num : Nat)
  deriving DecidableEq, Repr

/-- An image being written (R373): the entries still to write, the entries that failed, and the dies that write no
further page. -/
structure InstallRun where
  src : ImageSource
  seq : Nat
  npages : Nat
  todo : List ImageEntry
  failed : List Nat
  stopped : List Nat
  /-- The kind and the index of the signer, and the digest of header and directory (Table 20-12). -/
  signer : Nat × Nat
  digest : List Byte
  deriving DecidableEq, Repr

/-- A region (Table 13-7). -/
structure Region where
  kind : Nat
  unit : Nat
  start : Nat
  length : Nat
  label : Nat
  deriving DecidableEq, Repr

/-- Generation states (Table 13-8). -/
inductive GenPhase where
  | staged | current | retired
  deriving DecidableEq, Repr

/-- A generation. -/
structure Generation where
  num : Nat
  phase : GenPhase
  regions : List Region
  deriving DecidableEq, Repr

/-- A model slot (R378): its generations and the number of the next one. -/
structure ModelSlot where
  gens : List Generation
  next : Nat
  deriving DecidableEq, Repr

/-! ## Purlins -/

/-- What the head of a purlin sends (R388): whether SRC_ADDR is a host address, the region, the length, the source and the
offset in the region. -/
structure PurlinSrc where
  host : Bool
  region : Nat
  len : Nat
  src : Nat
  dst : Nat
  deriving DecidableEq, Repr

/-- A transfer of a purlin (R388 to R390). -/
structure PurlinRun where
  /-- The SEQ of the next segment, and the bytes written so far. -/
  seq : Nat
  bytes : Nat
  /-- The head's PURLIN_SEND, and what it sends. -/
  cmd : Option Cmd
  src : Option PurlinSrc
  /-- TARGET 1: the bytes of the image so far. -/
  image : List Byte
  deriving DecidableEq, Repr

/-- A purlin (Table 13-9). -/
structure Purlin where
  role : Nat
  target : Nat
  slot : Nat
  transfer : Nat
  nextRank : Nat
  gen : Nat
  run : Option PurlinRun
  /-- Segments discarded for another configuration (R389). -/
  strays : Nat
  deriving DecidableEq, Repr

/-! ## Partitions -/

/-- An interleave window (R329). -/
structure StackWindow where
  mask : Nat
  base : Nat
  perStack : Nat
  deriving DecidableEq, Repr

/-- A rank table entry as RANK_TABLE_SET last wrote it, and the number of that write (R403, R405). -/
structure RankWrite where
  value : Nat
  stamp : Nat
  deriving DecidableEq, Repr

/-- A partition (R314 to R320, R402, R426). -/
structure Partition where
  present : Bool
  debug : Bool
  inject : Bool
  hostWindows : List (Option HostWindow)
  loadReports : List LoadReport
  windows : List (Option StackWindow)
  job : Nat
  rankBase : Nat
  /-- The rank table by entry: the eight bytes of an entry, little-endian; an unlisted entry is zero. -/
  ranks : List (Nat × RankWrite)
  /-- The number of the next RANK_TABLE_SET, and for a die added to the partition the first one that its copy holds
  (R403). -/
  rankNext : Nat
  rankSince : List (Nat × Nat)
  embBatches : List (Nat × EmbBatch)
  slots : List (Nat × ModelSlot)
  /-- Open weight batches: the generation pinned of each slot, 0 for none. -/
  wsetBatches : List (Nat × List Nat)
  purlins : List Purlin
  /-- Segments discarded because they name a purlin that a partition does not have (R389). -/
  strays : Nat
  deriving DecidableEq, Repr

/-! ## Links -/

/-- Link states (Table 14-6); an absent link follows from its site. -/
inductive LinkPhase where
  | down | training | up
  deriving DecidableEq, Repr

/-- A WRITE that was forwarded and whose ACK has not returned (R407). -/
structure LinkAwait where
  tag : Nat
  q : Packet
  since : Nat
  deriving DecidableEq, Repr

/-- A data flit in a replay buffer (R394): its SEQ, its FIRST_PKT and its PAYLOAD. -/
structure SentFlit where
  seq : Nat
  first : Nat
  payload : List Byte
  deriving DecidableEq, Repr

/-- What a link packet that crosses the service fabric is on its way to: its core (R408), its reduction home (R412), or the
link on which it leaves the panel (R410). -/
inductive LinkUse where
  | target | home | transit
  deriving DecidableEq, Repr

/-- A completed window of a link (R416). -/
structure LinkWindow where
  tick : Nat
  bins : List Nat
  deriving DecidableEq, Repr

/-- A link (R391 to R401, Table 14-6). -/
structure Link where
  phase : LinkPhase
  mask : Nat
  /-- 0 down, 1 x1, 2 x2, 3 x4 (Table 1-7). -/
  width : Nat
  /-- The widest code that the last LINK_CTRL allows. -/
  maxWidth : Nat
  testSet : Nat
  fails : Nat
  /-- The width of the last training that succeeded, and whether one has. -/
  lastWidth : Nat
  trained : Bool
  /-- A training has ended since the die's last reset: a further one is a retrain (Table 14-6). -/
  tried : Bool
  /-- The training under way is one of a LANES operation, which scores no wear (R509). -/
  exempt : Bool
  cmd : Option Cmd
  peerPanel : Nat
  peerLink : Nat
  /-- The next SEQ to send, the replay buffer with the data flits not yet acknowledged, oldest first, and the next SEQ
  expected (R394). -/
  txNext : Nat
  unacked : List SentFlit
  rxNext : Nat
  /-- Bytes of packets that are in no flit yet, and where packets begin among them (R393, R395). -/
  txBytes : List Byte
  txHeads : List Nat
  /-- The bytes of the packet that is partly received, and the receive buffers' whole packets, oldest first (R394, R396). -/
  rxBytes : List Byte
  received : List LinkPacket
  /-- Flits of the request and of the response buffer freed since the last report (R396). -/
  freedReq : Nat
  freedResp : Nat
  replays : Nat
  /-- Credits for the far end's request and response buffers. -/
  reqCredits : Nat
  respCredits : Nat
  /-- Packets sent and waiting for credits or a retrain, oldest first. -/
  egress : List LinkPacket
  awaits : List LinkAwait
  /-- Packets that cross the service fabric, by the tag of their service write. -/
  inbound : List (Nat × LinkUse × LinkPacket)
  nextTag : Nat
  bins : List Nat
  windows : List LinkWindow
  flitsTx : Nat
  flitsRx : Nat
  crcRetries : Nat
  retrains : Nat
  degrades : Nat
  fecUncorr : Nat
  fecCorr : List Nat
  /-- Uncorrectable codewords of each lane in a tick, and the tick. -/
  fecTick : Nat
  fecLane : List Nat
  drops : Nat
  reduced : Nat
  deriving DecidableEq, Repr

/-- A WRITE that waits at a reduction home (R413): the link it came by, the rows added, and the first status other than OK
that its target rows gave. -/
structure HomeRow where
  q : LinkPacket
  inLink : Nat
  done : Nat
  bad : Nat
  deriving DecidableEq, Repr

/-- The links and the panel's place among panels (R402, R403, R410, R412 to R414). -/
structure LinkState where
  panelId : Nat
  /-- Transit entries other than 0xFF. -/
  transit : List (Nat × Nat)
  links : List (Nat × Link)
  /-- Rows that wait at each home. -/
  homes : List (Nat × List HomeRow)
  /-- Contribution counters by home, core and slot: (4096 · 1024 · home + 64 · core + slot, count). -/
  counters : List (Nat × Nat)
  /-- The packets that have left on the links, newest last. -/
  sent : List (Nat × LinkPacket)
  /-- The flits that have left on the links, newest last, but for idle flits that report nothing (R393). -/
  wire : List (Nat × List Byte)
  deriving DecidableEq, Repr

/-! ## The empty state -/

/-- A port that has counted nothing. -/
def portZero : PortCount := ⟨copies 8 0, copies 4 0, 0, 0⟩
/-- A hop that works and has carried nothing: its first SEQ is 0 (DESIGN CHOICE, log entry 150). -/
def hopZero : Hop := ⟨0, false, 0, false, 0, false, [], []⟩
/-- The fabric with nothing on it. -/
def fabricZero : FabricState := ⟨[], [], [], ⟨[], []⟩, [], [], [], 0, []⟩
/-- A stack with the default scrub period of 24 hours. -/
def stackZero : StackState := ⟨24, 0, [], 0, false, [], [], [], [], [], []⟩
/-- A die buffer with no block replaced. -/
def bufferZero : BufferState := ⟨0, false, [], []⟩
/-- An engine with no table. -/
def engineZero : EmbEngine := ⟨[], [], [], [], 0⟩
/-- A page that has never been written. -/
def pageUnwritten : PageRec := ⟨0, 0, 0, 0, 0, 0, 0, 0⟩
/-- A weight-store die as shipped. -/
def storeZero : StoreDie := ⟨[], 0, none, false, 0, 0, 0, [], []⟩
/-- A model slot with no generation. -/
def slotZero : ModelSlot := ⟨[], 1⟩
/-- An idle purlin. -/
def purlinZero : Purlin := ⟨0, 0, 0, 0, 0, 0, none, 0⟩
/-- A partition that does not exist. -/
def partitionZero : Partition where
  present := false
  debug := false
  inject := false
  hostWindows := copies 16 none
  loadReports := []
  windows := copies 64 none
  job := 0
  rankBase := 0
  ranks := []
  rankNext := 1
  rankSince := []
  embBatches := []
  slots := []
  wsetBatches := []
  purlins := copies 8 purlinZero
  strays := 0
/-- A link that is down. -/
def linkZero : Link where
  phase := .down
  mask := 0
  width := 0
  maxWidth := 3
  testSet := 15
  fails := 0
  lastWidth := 0
  trained := false
  tried := false
  exempt := false
  cmd := none
  peerPanel := 0xFFFF
  peerLink := 0xFF
  txNext := 0
  unacked := []
  rxNext := 0
  txBytes := []
  txHeads := []
  rxBytes := []
  received := []
  freedReq := 0
  freedResp := 0
  replays := 0
  reqCredits := 1024
  respCredits := 64
  egress := []
  awaits := []
  inbound := []
  nextTag := 0
  bins := copies 8 0
  windows := []
  flitsTx := 0
  flitsRx := 0
  crcRetries := 0
  retrains := 0
  degrades := 0
  fecUncorr := 0
  fecCorr := copies 4 0
  fecTick := 0
  fecLane := copies 4 0
  drops := 0
  reduced := 0
/-- The links of a panel with no PANEL_ID (R402). -/
def linksZero : LinkState := ⟨0xFFFF, [], [], [], [], [], []⟩

end Sys2Proof.Machine
end

