-- ==== Sys2Proof/Machine/PanelState.lean ====
section
/-! DEFINITION. What the panel holds of its power, its firmware processors, its errors, its wear and its
injections (Power Delivery and Power States; Firmware Processors, Bring-up and Reset; Errors, Containment, Wear
and Injection). -/

namespace Sys2Proof.Machine

/-! ## Power -/

/-- The power state of a site with an eFuse (PSTATE of Table 17-9; absent and auxiliary follow from the place). -/
inductive PwrMode where
  | off | ramping | on | selfRefresh | tripped | dark
  deriving DecidableEq, Repr

/-- The estimate of a domain's path (R500, R501): R_RATIO in thousandths, the run of valid estimates above and
at or below 1.25 times the baseline, and whether the path is degraded. -/
structure PathState where
  ratio : Nat
  above : Nat
  below : Nat
  degraded : Bool
  deriving DecidableEq, Repr

/-- A signal of a limiter (R494, R495, R513): whether it is asserted and since when, whether it was in the present tick and
in the last one reported, and how often LIMIT_LONG was raised in the present run. -/
structure Signal where
  on : Bool
  since : Nat
  inTick : Bool
  shown : Bool
  raised : Nat
  deriving DecidableEq, Repr

/-- The power of a site (Table 17-9). -/
structure SitePwr where
  mode : PwrMode
  /-- When the site's last ramp began, in ns. -/
  rampAt : Nat
  /-- The POWER_SET that acts on the site. -/
  acting : Option Cmd
  /-- The die is in reset: R480 runs, from a SITE_ON, a RESET or a panel reset. -/
  inReset : Bool
  /-- The RESET command that put it there. -/
  resetBy : Option Cmd
  /-- Working phases of LOGIC, ARRAY and LINK or MEMIF; `none` stands for all of the role's. -/
  phases : List (Option Nat)
  /-- Currents of the domains 0 to 3 in mA. -/
  cur : List Nat
  branch : Nat
  vminLogic : Nat
  vminArray : Nat
  ceilHost : Option Nat
  /-- Conditions 1 and 2 of R494. -/
  overLogic : Bool
  overArray : Bool
  /-- When the limiter's last demand ended, in ns. -/
  lastDemand : Option Nat
  demand : Signal
  paths : List PathState
  /-- Retired sensors: domain and number. -/
  retired : List (Nat × Nat)
  /-- Powered-lane masks, four bits a link position; a link die. -/
  lanePwr : Nat
  losses : Nat
  /-- When the site's router last went dark, in ns (R307). -/
  darkAt : Option Nat
  deriving DecidableEq, Repr

/-- A power-on that waits for headroom (R504). -/
structure PowerOnWait where
  cmd : Cmd
  op : Nat
  site : Nat
  /-- LANES: POS + 4 · MASK. -/
  arg : Nat
  inrush : Nat
  deriving DecidableEq, Repr

/-- A quadrant (R487, R495, R504). -/
structure QuadPwr where
  closed : Bool
  ma : Nat
  /-- Averages over 10 µs that are on record for the last 10 ms: time in ns and mA. -/
  peaks : List (Nat × Nat)
  limit : Signal
  waiting : List PowerOnWait
  deriving DecidableEq, Repr

/-- Whether the input lies in the operating range, below or above it (R485). -/
inductive InputRange where
  | normal | low | high
  deriving DecidableEq, Repr

/-- The panel's power. -/
structure PowerState where
  good : Bool
  range : InputRange
  inputMv : Nat
  inputMa : Nat
  auxMw : Nat
  ceil : Option Nat
  limit : Signal
  /-- The tick that the averages are of. -/
  tick : Nat
  quads : List QuadPwr
  sites : List (Nat × SitePwr)
  /-- The input switch is closed (R585). -/
  switchClosed : Bool
  deriving DecidableEq, Repr

/-- A signal that is not asserted. -/
def signalOff : Signal := ⟨false, 0, false, false, 0⟩

/-- A path with no estimate yet. -/
def pathZero : PathState := ⟨0, 0, 0, false⟩

/-- A site that is off. -/
def sitePwrOff : SitePwr where
  mode := .off
  rampAt := 0
  acting := none
  inReset := false
  resetBy := none
  phases := copies 3 none
  cur := copies 4 0
  branch := 0
  vminLogic := 0
  vminArray := 0
  ceilHost := none
  overLogic := false
  overArray := false
  lastDemand := none
  demand := signalOff
  paths := copies 4 pathZero
  retired := []
  lanePwr := 0xFFFF
  losses := 0
  darkAt := none

/-- A quadrant with its eFuse closed and no current on record. -/
def quadZero : QuadPwr := ⟨true, 0, [], signalOff, []⟩

/-- The panel's power before power good. -/
def powerZero : PowerState :=
  ⟨false, .normal, 0, 0, 0, none, signalOff, 0, copies 4 quadZero, [], false⟩

/-! ## Firmware processors -/

/-- Whether a processor runs (Table 16-5; absent, site off, site failed and standby follow from the site). -/
inductive ProcRun where
  | stopped | starting | running | held
  deriving DecidableEq, Repr

/-- A firmware processor (R455 to R465). -/
structure Proc where
  run : ProcRun
  /-- LAST_CAUSE of Table 16-5. -/
  cause : Nat
  /-- Times in ns of its counted restarts. -/
  counted : List Nat
  restarts : Nat
  lastTick : Nat
  version : Nat
  /-- When the present restart began, in ns. -/
  since : Nat
  /-- The FW_PROC_RESTART that waits for it. -/
  waitedBy : Option Cmd
  deriving DecidableEq, Repr

/-- A bank of a management die (R466): its bytes up to BUNDLE_LEN, and whether it holds a valid bundle. -/
structure Bank where
  valid : Bool
  bytes : List Byte
  deriving DecidableEq, Repr

/-- APPLY_STATE of Table 16-4. -/
inductive ApplyState where
  | idle | running | stopped
  deriving DecidableEq, Repr

/-- A panel-wide or partition-wide RESET in progress (R479). -/
structure ResetRun where
  scope : Nat
  cmd : Cmd
  since : Nat
  cut : Bool
  removed : Nat
  deriving DecidableEq, Repr

/-- A command that waits for a processor that restarts, since a time in ns, with its payload (R460). -/
structure ProcWait where
  proc : Nat
  since : Nat
  cmd : Cmd
  pay : List Byte
  deriving DecidableEq, Repr

/-- The firmware (Tables 16-4 and 16-5). -/
structure FwState where
  procs : List (Nat × Proc)
  apply : ApplyState
  /-- The processor that the apply restarts, and its command. -/
  applyAt : Option Nat
  applyCmd : Option Cmd
  /-- The FW_BUNDLE_STAGE that writes the inactive banks, and the bundle that it writes (R466). -/
  stage : Option (Cmd × List Byte)
  reset : Option ResetRun
  /-- Events that wait for their processor to run (R459). -/
  latched : List (Nat × List EventRec)
  /-- Commands that wait for a processor that restarts (R460), with their payloads. -/
  waiting : List ProcWait
  /-- Accepted Jexeri-M commands that firmware has not taken, in arrival order, each with whether its MAJOR is 2 (R438,
  R570, R572). -/
  commands : List (Cmd × Bool)
  /-- The king-post-loss trip has been applied (R476). -/
  kingLost : Bool
  /-- Neither management die passed its self-test (R475). -/
  noKing : Bool
  /-- Bring-up runs (R477), and when its present step must end, in ns. -/
  booting : Bool
  stepDue : Nat
  /-- What counts deadlines of the steps: the power good of a boot, or for a warm reset the time that stands for it, in
  ns; the sum of it and a deadline is the step's end. -/
  stepBase : Int
  /-- A panel cold reset has completed and is to begin (R483). -/
  cold : Bool
  /-- The management dies that fell back to their other bank, to be reported once the panel is ready (R578). -/
  fallbacks : List Nat
  /-- The die at (15,9) has become king post in this boot, to be reported once the panel is ready (R474). -/
  takeover : Bool
  deriving DecidableEq, Repr

/-- A processor that has not started. -/
def procZero : Proc := ⟨.stopped, 0, [], 0, 0, 0, 0, none⟩

/-- The firmware before power good. -/
def fwZero : FwState := ⟨[], .idle, none, none, none, none, [], [], [], false, false, false, 0, 0, false, [], false⟩

/-! ## Errors and wear -/

/-- A log record (Table 19-3) less its SEQ. -/
structure LogRec where
  tick : Nat
  cls : Nat
  injected : Bool
  part : Nat
  unit : Nat
  x : Nat
  y : Nat
  cx : Nat
  cy : Nat
  addr : Nat
  count : Nat
  bay : Nat
  status : Nat
  detail : Nat
  boot : Nat
  deriving DecidableEq, Repr

/-- A log: the records held, newest first, and the SEQ of the next one. -/
structure ErrLog where
  recs : List LogRec
  next : Nat
  deriving DecidableEq, Repr

/-- A wear part (Table 19-6), less what the place gives. -/
structure WearPart where
  state : Nat
  score : Nat
  peak : Nat
  counts : List Nat
  lastTick : Nat
  life : Nat
  deriving DecidableEq, Repr

/-- An armed injection (Table 19-7). -/
structure Injection where
  point : Nat
  x : Nat
  y : Nat
  sub : Nat
  sub2 : Nat
  addr : Nat
  left : Nat
  value : Int
  fired : Nat
  /-- When it was armed, in ns. -/
  armed : Nat
  part : Nat
  deriving DecidableEq, Repr

/-- The volatile log, the wear scores and the hourly steps of this boot (R551), the armed injections, and the status polls
in a row that a core has not answered (R542). -/
structure ErrState where
  log : ErrLog
  wear : List (Nat × WearPart)
  steps : Nat
  armed : List Injection
  missed : List (Nat × Nat)
  deriving DecidableEq, Repr

/-- A part with no score. -/
def wearZero : WearPart := ⟨0, 0, 0, copies 6 0, 0, 0⟩

/-- No error on record. -/
def errZero : ErrState := ⟨⟨[], 1⟩, [], 0, [], []⟩

end Sys2Proof.Machine
end

