-- ==== Sys2Proof/Machine/SecState.lean ====
section
/-! DEFINITION. What the panel holds of its management segments, its keys, its security fuses and its measurement
(Management Network, Identity and Attestation). -/

namespace Sys2Proof.Machine

/-- The SHAKE256 digest of 512 bits (log entry 13). -/
def shakeDigest (bs : List Byte) : List Byte := natLe 64 (Config.shake256 bs).toNat

/-- The security fuses (Table 20-7): the digests of the roots' public keys, the roots revoked, the 64 counters. -/
structure SecFuses where
  roots : List (List Byte)
  revoked : Nat
  counters : List Nat
  deriving DecidableEq, Repr

/-- The keys that the boot store holds (Table 20-6): the management key and the weight keys; no bytes for none. -/
structure KeyStore where
  mgmt : List Byte
  weights : List (List Byte)
  deriving DecidableEq, Repr

/-- The counters of Table 20-1. -/
structure DropCount where
  fcsBad : Nat
  foreign : Nat
  unauth : Nat
  dup : Nat
  replay : Nat
  deriving DecidableEq, Repr

/-- A management segment (R561, R565, R569): its mode, its counters, what MGMT_DROPS last reported and when its present
60 s began, and the times of the discover answers of the last second, in ns. -/
structure SegState where
  mode : SegMode
  drops : DropCount
  reported : DropCount
  since : Nat
  answers : List Nat
  deriving DecidableEq, Repr

/-- An entry of the sender table (R567): LAST, the frame accepted at it and when, and the times of the DENIED answers of
the last second. Its HWM lies in the boot store. -/
structure Sender where
  id : Nat
  last : Nat
  frame : List Byte
  time : Nat
  denied : List Nat
  deriving DecidableEq, Repr

/-- A frame that the panel has sent on a segment. -/
structure SentFrame where
  seg : Segm
  bytes : List Byte
  deriving DecidableEq, Repr

/-- An ALERT that is to be sent again (R564): the frame, how often, and when next. -/
structure AlertRun where
  bytes : List Byte
  left : Nat
  due : Nat
  deriving DecidableEq, Repr

/-- The management network service (R559 to R574). -/
structure MgmtState where
  slotId : Nat
  segs : List SegState
  senders : List Sender
  /-- The senders that SENDER_TABLE_FULL has named in this boot. -/
  turnedAway : List Nat
  /-- SEQ of the next frame that the panel sends. -/
  seq : Nat
  sent : List SentFrame
  alerts : List AlertRun
  deriving DecidableEq, Repr

/-- The measurement log (R581): the entries that are kept, how many have been folded into M, and M. -/
structure MeasureLog where
  entries : List (List Byte)
  count : Nat
  m : List Byte
  deriving DecidableEq, Repr

/-- No key set. -/
def keysZero : KeyStore := ⟨[], copies 4 []⟩
/-- No frame dropped. -/
def dropsZero : DropCount := ⟨0, 0, 0, 0, 0⟩
/-- A segment before a beacon is heard. -/
def segZero : SegState := ⟨.csma, dropsZero, dropsZero, 0, []⟩
/-- The management network at power good. -/
def mgmtZero : MgmtState := ⟨0, copies 2 segZero, [], [], 0, [], []⟩
/-- No happening measured. -/
def measureZero : MeasureLog := ⟨[], 0, copies 64 0⟩

end Sys2Proof.Machine
end

