-- ==== Sys2Proof/Machine/CoolState.lean ====
section
/-! DEFINITION. What the panel holds of its coolant and its temperatures (Coolant and Temperature). -/

namespace Sys2Proof.Machine

/-- A flow sensor (R516): its last sample and its 100 ms average in mL/min, and whether it is retired. -/
structure FlowSensor where
  last : Option Int
  avg : Nat
  retired : Bool
  deriving DecidableEq, Repr

/-- A condition with hold times: whether it is raised, and since when it has asked to change, in ns. -/
structure Held where
  raised : Bool
  since : Option Nat
  deriving DecidableEq, Repr

/-- A running average: the sum and the number of the samples of the present period, the period's number, and the last
whole period's average. -/
structure Mean where
  sum : Int
  n : Nat
  period : Nat
  last : Option Int
  deriving DecidableEq, Repr

/-- A hot spot (R524 to R529), in 0.1 °C: the last sample and the retirement of each diode, consecutive samples at or above
the hard limit, the disagreement episode and whether its event is raised, the averages over 100 ms and 1 s, and the
warning. -/
structure HotState where
  last : List (Option Int)
  retired : List Bool
  hard : Nat
  /-- When the readings began to differ by more than 4 °C, or in an open episode to agree within 2 °C. -/
  since : Option Nat
  episode : Bool
  mean : Mean
  slow : Mean
  warn : Held
  /-- Whether the loss of both diodes has been reported. -/
  lost : Bool
  /-- The offset that injections have brought each diode to (R556). -/
  offset : List Int
  deriving DecidableEq, Repr

/-- The coolant and the temperatures. -/
structure CoolState where
  /-- The inlet temperature of R534 in 0.1 °C, none when unknown. -/
  inlet : Option Int
  /-- The inlet states of Table 18-4, in its order. -/
  inletStates : List Held
  dp : FlowSensor
  th : FlowSensor
  /-- P of R515 in W. -/
  watts : Nat
  /-- Consecutive samples that meet conditions 1 and 2 of R520. -/
  slow : Nat
  dry : Nat
  /-- The disagreement of the flow sensors (R518). -/
  differ : Held
  /-- Periods in a row below the threshold of the states low and critical, and at or above their clearing values. -/
  lowRun : Nat
  lowClear : Nat
  critRun : Nat
  critClear : Nat
  low : Bool
  critical : Bool
  /-- The stop latch (R521), and since when the flow has been at 10 L/min or more, in ns. -/
  stopped : Bool
  flowing : Option Nat
  /-- Hot spots by 8 · site + number; the coolant's two follow the sites. -/
  hot : List (Nat × HotState)
  /-- Strain of the keystones in microstrain, and their episodes, by site. -/
  strain : List (Nat × Int)
  strained : List (Nat × Held)
  /-- Keystones whose strain the king post cannot read (R29), by site. -/
  blind : List Nat
  /-- The tick of the last samples. -/
  tick : Nat
  deriving DecidableEq, Repr

/-- A sensor with no sample. -/
def flowZero : FlowSensor := ⟨none, 0, false⟩
/-- A condition not raised. -/
def heldOff : Held := ⟨false, none⟩
/-- An average with no sample. -/
def meanZero : Mean := ⟨0, 0, 0, none⟩
/-- A hot spot with no sample. -/
def hotZero : HotState :=
  ⟨copies 2 none, copies 2 false, 0, none, false, meanZero, meanZero, heldOff, false, copies 2 0⟩
/-- The coolant before the first sample: no reading of the inlet yet. -/
def coolZero : CoolState where
  inlet := none
  inletStates := copies 3 heldOff
  dp := flowZero
  th := flowZero
  watts := 0
  slow := 0
  dry := 0
  differ := heldOff
  lowRun := 0
  lowClear := 0
  critRun := 0
  critClear := 0
  low := false
  critical := false
  stopped := false
  flowing := none
  hot := []
  strain := []
  strained := []
  blind := []
  tick := 0

end Sys2Proof.Machine
end

