-- ==== Sys2Proof/Machine/State.lean ====
section
/-! DEFINITION. The state of the panel, the reasons a step can stop, and the state right after reset. -/

namespace Sys2Proof.Machine

/-- Why the machine stops with a fault. -/
inductive Fault where
  /-- A command's operand is no command of its kind (WellFormed.lean). Raised by every meaning before it
  acts. Safe: the panel never receives such an operand. -/
  | illFormed
  deriving DecidableEq, Repr

/-- Why a command has no meaning. -/
inductive Refusal where
  /-- The command of this mnemonic is not modelled. Raised by `exec` alone. Safe: nothing is claimed of it. -/
  | notModelled (mnemonic : String)
  deriving DecidableEq, Repr

/-- What is fused for life (Tables 1-4 and 20-7, R26). -/
structure Fuses where
  dies : List DieFuse
  popMap4 : List Bool
  popMap9 : List Bool
  deriving DecidableEq, Repr

/-- The non-volatile boot store. -/
structure BootStore where
  /-- GENERATION (R39). -/
  generation : BitVec 32
  /-- Host entries of the persistent fence list (R36). -/
  hostFences : List (Nat × HostFence)
  /-- Failure entries of the persistent fence list, with their reasons (R37). -/
  failures : List (Nat × Nat)
  /-- Boot count of the panel (Table 19-3). -/
  bootCount : Nat
  /-- The persistent log (R547). -/
  plog : ErrLog
  /-- The scores as last written, and the hours of powered time (R551). -/
  wear : List (Nat × WearPart)
  hours : Nat
  /-- The cause of an input trip, whether by overvoltage, with its tick (R486). -/
  tripCause : Option (Bool × Nat)
  /-- Baselines of the paths in nΩ, by 4 · site + domain (R500). -/
  baselines : List (Nat × Nat)
  /-- The active and the inactive bank of the management dies (15,4) and (15,9) (R466). -/
  banks : List (Bank × Bank)
  /-- The management dies whose inactive bank fails read-back when it is written (R466). -/
  bankBad : List Nat
  /-- The weight-store dies by ordinal (R358 to R375). -/
  store : List (Nat × StoreDie)
  /-- The bytes of the weight-store arrays, by service address. -/
  storeMem : List Host.Cell
  secFuses : SecFuses
  keys : KeyStore
  /-- HWM of each entry of the sender table (R567). -/
  hwm : List (Nat × Nat)
  deriving DecidableEq, Repr

/-- The panel. -/
structure State where
  /-- Commands that wait, first in, first out. -/
  pending : List Instr
  /-- The model's own: the index of the next free value (log entry 2). -/
  freeCtr : Nat
  /-- Wall time in ns since the king post's power-on; a tick is 1,000,000 ns (Table 0-5). -/
  now : Nat
  fuses : Fuses
  boot : BootStore
  fp : FloorPlan
  host : HostPort
  /-- Commands taken and not yet completed (R438). -/
  inProgress : List Taken
  mgmt : MgmtState
  measure : MeasureLog
  ev : EventQueue
  parts : List Partition
  pwr : PowerState
  fw : FwState
  err : ErrState
  cool : CoolState
  /-- Installation mode (R369), and the images being written (R373). -/
  install : Bool
  installs : List InstallRun
  fab : FabricState
  /-- Stacks by ordinal, die buffers by site, embedding engines by stack. -/
  hbms : List (Nat × StackState)
  bufs : List (Nat × BufferState)
  engines : List (Nat × EmbEngine)
  links : LinkState
  /-- The bytes of the stacks and the die buffers, by service address. -/
  mem : List Host.Cell
  bays : List (Nat × Bay)
  cores : List (Nat × Core)
  xings : List Crossing
  hostMem : List Host.Cell
  /-- The model's own: ranges of host memory that do not answer (true) or answer with an error (log entry 3). -/
  hostFail : List (Nat × Nat × Bool)
  deriving DecidableEq, Repr

/-! ## Reset -/

/-- The sites that a variant has (R7 to R9, R28): B and C have no weight-store die, and C no HBM and no link die in rows 0
and 13, which leaves it stacks 8 to 23 and links 12 to 35. -/
def variantHas (v i : Nat) : Bool :=
  !(placeRole i == 4 && v != 1) && !(v == 3 && (placeRole i == 2 || placeRole i == 3) && (siteY i == 0 || siteY i == 13))

/-- The fuses of a die of a panel of a variant, of stepping B0 (log entry 4). -/
def variantDie (v i : Nat) : DieFuse where
  assyLot := 1
  dieSerial := BitVec.ofNat 64 (0x1000 + i)
  panelSerial := 0x9120
  stepping := 0xB0
  primarySel := i == 79
  embEnable := placeRole i == 2 && v != 3
  reserveDesig := placeRole i == 1 && siteY i == 12
  variant := BitVec.ofNat 8 v
  siteY := BitVec.ofNat 4 (siteY i)
  siteX := BitVec.ofNat 4 (siteX i)
  role := if placeRole i = 6 then 0 else BitVec.ofNat 4 (placeRole i)

/-- The fuses of a panel of a variant: its dies and its population map. -/
def variantFuses (v : Nat) : Fuses where
  dies := (List.range 224).map (variantDie v)
  popMap4 := (List.range 224).map (variantHas v)
  popMap9 := (List.range 224).map (variantHas v)

/-- A die of the reference panel, an LZP-9120-A (log entry 4). -/
def refDie (i : Nat) : DieFuse := variantDie 1 i

/-- The fuses of the reference panel (log entry 4). -/
def refFuses : Fuses := variantFuses 1

/-- A site's entry before the record is first built (log entry 6). -/
def siteUnbuilt (i : Nat) : SiteEntry := ⟨placeRole i, .absent, 0, 0xFF, 0, 0, 0, 0⟩

/-- The bundle that the reference panel is shipped with: version 1, seven empty components, and a signature block of root 0
with an empty key (log entry 4). -/
def refBundle : List Byte :=
  natLe 4 0x46575A4C ++ natLe 2 1 ++ natLe 2 7 ++ natLe 8 1 ++ natLe 8 1 ++ natLe 4 944 ++ natLe 4 736 ++ natLe 1 0
    ++ natLe 1 0 ++ natLe 2 0 ++ copies 28 0
    ++ (List.range 7).flatMap (fun j =>
        natLe 1 (j + 1) ++ copies 3 0 ++ natLe 4 0 ++ natLe 4 64 ++ copies 4 0 ++ natLe 8 1 ++ copies 8 0 ++ shakeDigest [])
    ++ natLe 4 0x47535A4C ++ natLe 2 1 ++ natLe 1 1 ++ copies 201 0

/-- The boot store as shipped (log entry 5). -/
def bootZero : BootStore where
  generation := 1
  hostFences := []
  failures := []
  bootCount := 0
  plog := ⟨[], 1⟩
  wear := []
  hours := 0
  tripCause := none
  baselines := []
  banks := copies 2 (⟨true, refBundle⟩, ⟨false, []⟩)
  bankBad := []
  store := []
  storeMem := []
  secFuses := ⟨copies 2 (shakeDigest (copies 57 0)), 0, copies 64 0⟩
  keys := keysZero
  hwm := []

/-- A panel with the given fuses and boot store at power good, before its bring-up begins. -/
def State.ofFuses (f : Fuses) (b : BootStore) : State where
  pending := []
  freeCtr := 0
  now := 0
  fuses := f
  boot := b
  fp := ⟨false, 0, (List.range 224).map siteUnbuilt, [], false⟩
  host := hostZero
  inProgress := []
  mgmt := mgmtZero
  measure := measureZero
  ev := eventsZero
  parts := copies 8 partitionZero
  pwr := powerZero
  fw := fwZero
  err := errZero
  cool := coolZero
  install := false
  installs := []
  fab := fabricZero
  hbms := []
  bufs := []
  engines := []
  links := linksZero
  mem := []
  bays := []
  cores := []
  xings := []
  hostMem := []
  hostFail := []

/-- The panel right after reset. -/
def State.reset : State := State.ofFuses refFuses bootZero

end Sys2Proof.Machine
end

