-- ==== Sys2Proof/Machine/Operands.lean ====
section
/-! DEFINITION. The fields of operation words, slot descriptors, chain-table entries, peg entries and access
descriptors (Tables 2-2 to 2-5, 7-1, 5-1 to 5-3, 8-3, 7-4). -/

namespace Sys2Proof.Machine

/-- Bits [hi:lo] of an operation word or peg entry. -/
def ofld (w : BitVec 128) (hi lo : Nat) : Nat := fld w.toNat hi lo

/-! ## Operation header (Table 2-2) -/

/-- CLASS. -/
def opClass (w : BitVec 128) : Nat := ofld w 127 124
/-- SUBOP. -/
def opSub (w : BitVec 128) : Nat := ofld w 123 120
/-- CHK. -/
def opChk (w : BitVec 128) : Bool := ofld w 119 119 == 1
/-- CHK_KIND. -/
def opChkKind (w : BitVec 128) : Nat := ofld w 118 117
/-- CHK_INDEX. -/
def opChkIndex (w : BitVec 128) : Nat := ofld w 116 111
/-- GAP. -/
def opGap (w : BitVec 128) : Nat := ofld w 107 96

/-- What a word is (Table 2-3 and the SUBOPs). -/
inductive OpKind where
  | matrixStep | vectorChain | scanCall | accessEnq | send | receive
  | cload | cstep | cloop | ctest | produce | consume | pegPage | epochMark
  deriving DecidableEq, Repr

/-- The operation of a word; a reserved class or SUBOP is none. -/
def opKind (w : BitVec 128) : Option OpKind :=
  match opClass w, opSub w with
  | 1, 0 => some .matrixStep
  | 2, 0 => some .vectorChain
  | 3, 0 => some .scanCall
  | 4, 0 => some .accessEnq
  | 5, 0 => some .send
  | 5, 1 => some .receive
  | 6, 0 => some .cload
  | 6, 1 => some .cstep
  | 6, 2 => some .cloop
  | 6, 3 => some .ctest
  | 7, 0 => some .produce
  | 7, 1 => some .consume
  | 8, 0 => some .pegPage
  | 9, 0 => some .epochMark
  | _, _ => none

/-! ## MATRIX_STEP (Table 2-4) -/

def mxASlot (w : BitVec 128) : Nat := ofld w 95 90
def mxBSlot (w : BitVec 128) : Nat := ofld w 89 84
def mxFmtA (w : BitVec 128) : Nat := ofld w 83 79
def mxFmtB (w : BitVec 128) : Nat := ofld w 78 74
def mxKsteps (w : BitVec 128) : Nat := ofld w 73 58
def mxBank (w : BitVec 128) : Nat := ofld w 57 57
def mxAccZero (w : BitVec 128) : Bool := ofld w 56 56 == 1
def mxDrain (w : BitVec 128) : Bool := ofld w 55 55 == 1
def mxAOff (w : BitVec 128) : Nat := ofld w 54 45
def mxBOff (w : BitVec 128) : Nat := ofld w 44 35
def mxAConsume (w : BitVec 128) : Bool := ofld w 34 34 == 1
def mxBConsume (w : BitVec 128) : Bool := ofld w 33 33 == 1

/-- The formats of the 8-bit class that pair with each other and with the 4-bit ones (Table 3-7). -/
def mx8 : Fm → Bool
  | .mxE4M3 | .mxE5M2 | .mxE2M3 | .mxE3M2 | .mxInt8 => true
  | _ => false
/-- MXFP4 and DP4. -/
def mx4 : Fm → Bool
  | .mxE2M1 | .dp4 => true
  | _ => false
/-- Plain FP8. -/
def plain8 : Fm → Bool
  | .e4m3 | .e5m2 => true
  | _ => false

/-- The occupancy of a tile-step for an operand pair, none for a pair the engine does not accept (Table 3-7). -/
def pairOcc (a b : Fm) : Option Nat :=
  if (mx8 a && (mx8 b || mx4 b)) || (mx4 a && mx8 b) then some 64
  else if plain8 a && plain8 b then some 64
  else if a == .int8 && b == .int8 then some 64
  else if mx4 a && mx4 b then some 32
  else if (a == .bf16 && b == .bf16) || (a == .fp16 && b == .fp16) then some 128
  else none

/-- The occupancy of a word's pair; 64 stands for a pair that no load lets in. -/
def mxOcc (w : BitVec 128) : Nat :=
  match fmOfCode (mxFmtA w), fmOfCode (mxFmtB w) with
  | some a, some b => (pairOcc a b).getD 64
  | _, _ => 64

/-- The element rows that an operand of N tile-steps occupies (Table 4-1). -/
def mxElemRows (f : Fm) (n : Nat) : Nat :=
  if fmBlocked f then (64 * n + fmBlocksPerRow f - 1) / fmBlocksPerRow f
  else (64 * n * 32 + fmPerRow f - 1) / fmPerRow f

/-- The scale rows that an operand of N tile-steps occupies (Table 4-1). -/
def mxScaleRows (f : Fm) (n : Nat) : Nat :=
  if f = .dp4 then (n + 3) / 4 else if fmBlocked f then (n + 7) / 8 else 0

/-! ## VECTOR_CHAIN (Table 2-5) -/

def vxChain (w : BitVec 128) : Nat := ofld w 95 91
def vxInEn (w : BitVec 128) (n : Nat) : Bool := ofld w (88 + n) (88 + n) == 1
def vxInSlot (w : BitVec 128) (n : Nat) : Nat := ofld w (75 + 6 * n) (70 + 6 * n)
def vxOutEn (w : BitVec 128) (n : Nat) : Bool := ofld w (68 + n) (68 + n) == 1
def vxOutSlot (w : BitVec 128) (n : Nat) : Nat := ofld w (61 + 6 * n) (56 + 6 * n)
def vxFromTq (w : BitVec 128) : Bool := ofld w 55 55 == 1
def vxVlSrc (w : BitVec 128) : Bool := ofld w 54 54 == 1
def vxVlCtr (w : BitVec 128) : Nat := ofld w 53 51
def vxVl (w : BitVec 128) : Nat := ofld w 50 35
def vxInConsume (w : BitVec 128) (n : Nat) : Bool := ofld w (32 + n) (32 + n) == 1

/-- The VL bound (R157, R158, R134). -/
def vxBound (w : BitVec 128) : Nat := if vxFromTq w then min (vxVl w) 4096 else vxVl w

/-- The beats of a chain for its bound: B = max(1, ceil(bound / 128)). -/
def vxBeats (w : BitVec 128) : Nat := max 1 ((vxBound w + 127) / 128)

/-! ## SCAN_CALL -/

def scMode (w : BitVec 128) : Nat := ofld w 95 93
def scASlot (w : BitVec 128) : Nat := ofld w 92 87
def scBSlot (w : BitVec 128) : Nat := ofld w 86 81
def scStateSlot (w : BitVec 128) : Nat := ofld w 80 75
def scOutSlot (w : BitVec 128) : Nat := ofld w 74 69
def scSteps (w : BitVec 128) : Nat := ofld w 68 56
def scStepsSrc (w : BitVec 128) : Bool := ofld w 55 55 == 1
def scStepsCtr (w : BitVec 128) : Nat := ofld w 54 52
def scChgrp (w : BitVec 128) : Nat := ofld w 51 48

/-- Q = Tb·G (R177). -/
def scQ (w : BitVec 128) : Nat := scSteps w * scChgrp w
/-- W = max(Q, 1) (R177). -/
def scW (w : BitVec 128) : Nat := max (scQ w) 1

/-! ## ACCESS_ENQ, SEND_RECV, COUNTER, TOKEN, PEG_PAGE, EPOCH_MARK -/

def aeSlot (w : BitVec 128) : Nat := ofld w 95 90
def aeRow (w : BitVec 128) : Nat := ofld w 89 80
def aePos (w : BitVec 128) : Nat := ofld w 79 77
def aeCount (w : BitVec 128) : Nat := ofld w 76 73

def srSlot (w : BitVec 128) : Nat := ofld w 95 90
def srRowOff (w : BitVec 128) : Nat := ofld w 89 80
def srRows (w : BitVec 128) : Nat := ofld w 79 69
def srTransit (w : BitVec 128) : Bool := ofld w 68 68 == 1
def srTag (w : BitVec 128) : Bool := ofld w 67 67 == 1
/-- Cycles per row on a layer (R222). -/
def srStride (w : BitVec 128) : Nat := if srTransit w then 4 else 1

def coCtr (w : BitVec 128) : Nat := ofld w 95 93
def coImm (w : BitVec 128) : BitVec 16 := w.extractLsb' 77 16
def coDelta (w : BitVec 128) : Int := signed 16 (ofld w 92 77)
def coBody (w : BitVec 128) : Nat := ofld w 92 82
def coMax (w : BitVec 128) : Nat := ofld w 81 66
def coForever (w : BitVec 128) : Bool := ofld w 65 65 == 1
def coCond (w : BitVec 128) : Nat := ofld w 92 92
def coSkip (w : BitVec 128) : Nat := ofld w 91 81

def tkSrc (w : BitVec 128) : Nat := ofld w 95 94
def tkImm (w : BitVec 128) : Nat := ofld w 93 78
def tkCtr (w : BitVec 128) : Nat := ofld w 77 75
def tkSlot (w : BitVec 128) : Nat := ofld w 74 69
def tkRowOff (w : BitVec 128) : Nat := ofld w 68 59
def tkWord (w : BitVec 128) : Nat := ofld w 58 51
def tkTq (w : BitVec 128) : Nat := ofld w 95 94
def tkDiscard (w : BitVec 128) : Bool := ofld w 93 93 == 1
def tkConsCtr (w : BitVec 128) : Nat := ofld w 92 90

def ppPage (w : BitVec 128) : Nat := ofld w 95 93
def emNotify (w : BitVec 128) : Bool := ofld w 95 95 == 1

/-! ## Tokens (Table 2-7) -/

/-- EPOCH of a token word. -/
def tokEpoch (w : W32) : BitVec 4 := w.extractLsb' 28 4
/-- VALUE of a token word. -/
def tokValue (w : W32) : BitVec 16 := w.extractLsb' 0 16
/-- A token word. -/
def tokWord (e : BitVec 4) (v : Nat) : W32 := BitVec.ofNat 32 (e.toNat * 2 ^ 28 + v % 65536)

/-! ## Slot descriptors (Table 7-1) -/

def slotValid (d : BitVec 64) : Bool := fld d.toNat 47 47 == 1
def slotTag (d : BitVec 64) : Bool := fld d.toNat 46 46 == 1
def slotRows (d : BitVec 64) : Nat := fld d.toNat 45 32
def slotBase (d : BitVec 64) : Nat := fld d.toNat 12 0

/-- The descriptor of a slot of a core. -/
def slotDesc (c : Core) (n : Nat) : BitVec 64 := c.image.slots.getD n 0
/-- The first row of a slot of a core. -/
def slotBaseOf (c : Core) (n : Nat) : Nat := slotBase (slotDesc c n)

/-! ## Chain-table entries (Tables 5-1 to 5-3) -/

def ceNstages (e : List Byte) : Nat := leAt e 0 1
def ceNin (e : List Byte) : Nat := leAt e 1 1
def ceNout (e : List Byte) : Nat := leAt e 2 1
def ceScalar (e : List Byte) (n : Nat) : Bool := bitAt (leAt e 3 1) n
def ceInFmt (e : List Byte) (n : Nat) : Nat := leAt e (4 + n) 1
def ceOutFmt (e : List Byte) (n : Nat) : Nat := leAt e (8 + n) 1
def ceOutSrc (e : List Byte) (n : Nat) : Nat := leAt e (10 + n) 1
def ceImm (e : List Byte) (n : Nat) : W32 := BitVec.ofNat 32 (leAt e (16 + 4 * n) 4)
def ceStage (e : List Byte) (i : Nat) : Nat := leAt e (32 + 8 * i) 8

def sgOp (g : Nat) : Nat := fld g 63 58
def sgSrcA (g : Nat) : Nat := fld g 57 54
def sgSrcB (g : Nat) : Nat := fld g 53 50
def sgSrcC (g : Nat) : Nat := fld g 49 46
def sgRnd (g : Nat) : Nat := fld g 45 44
def sgFmt (g : Nat) : Nat := fld g 43 39
def sgImm (g : Nat) : Nat := fld g 38 37
def sgParam (g : Nat) : Nat := fld g 36 30

/-- The chain-table entry that a chain names. -/
def chainEntry (c : Core) (w : BitVec 128) : List Byte := c.image.chainTable.getD (vxChain w) []

/-- The rows that the elements of a stream of V elements occupy (R142, R143). -/
def streamElemRows (f : Fm) (v : Nat) : Nat :=
  if fmBlocked f then ((v + 31) / 32 + fmBlocksPerRow f - 1) / fmBlocksPerRow f
  else (v + fmPerRow f - 1) / fmPerRow f

/-- The rows that the scales of a stream of V elements occupy (R143). -/
def streamScaleRows (f : Fm) (v : Nat) : Nat :=
  if f = .dp4 then ((v + 31) / 32 + 255) / 256
  else if fmBlocked f then ((v + 31) / 32 + 511) / 512 else 0

/-! ## Peg entries (Table 8-3) -/

def pegRowOut (e : BitVec 128) : Side → Nat
  | .n => ofld e 127 124 | .e => ofld e 123 120 | .s => ofld e 119 116 | .w => ofld e 115 112
def pegRowEj (e : BitVec 128) : Nat := ofld e 111 108
def pegSwData (e : BitVec 128) : Nat := ofld e 107 104
def pegMgA (e : BitVec 128) : Nat := ofld e 103 100
def pegMgB (e : BitVec 128) : Nat := ofld e 99 96
def pegRaddA (e : BitVec 128) : Nat := ofld e 95 92
def pegRaddB (e : BitVec 128) : Nat := ofld e 91 88
def pegRaddFmt (e : BitVec 128) : Nat := ofld e 87 86
def pegTrOut (e : BitVec 128) : Side → Nat
  | .n => ofld e 85 82 | .e => ofld e 81 78 | .s => ofld e 77 74 | .w => ofld e 73 70
def pegTrEj (e : BitVec 128) : Nat := ofld e 69 66
def pegTaddA (e : BitVec 128) : Nat := ofld e 65 62
def pegTaddB (e : BitVec 128) : Nat := ofld e 61 58
def pegTaddFmt (e : BitVec 128) : Nat := ofld e 57 56
def pegTkOut (e : BitVec 128) : Side → Nat
  | .n => ofld e 55 53 | .e => ofld e 52 50 | .s => ofld e 49 47 | .w => ofld e 46 44
def pegTkQ (e : BitVec 128) (n : Nat) : Nat := ofld e (43 - 3 * n) (41 - 3 * n)
def pegSwToken (e : BitVec 128) : Nat := ofld e 31 29
def pegMgToken (e : BitVec 128) : Nat := ofld e 28 26
def pegFireSw (e : BitVec 128) : Bool := ofld e 25 25 == 1
def pegFireMg (e : BitVec 128) : Bool := ofld e 24 24 == 1

/-- The entry of a page at an index; an entry that is not loaded is all zeros. -/
def pegEntryAt (c : Core) (page i : Nat) : BitVec 128 :=
  ((c.image.pages.getD page pageZero).entries.getD i 0)
/-- The period of a page, 1 where none is loaded. -/
def pegPeriod (c : Core) (page : Nat) : Nat := max 1 (c.image.pages.getD page pageZero).period

/-! ## Access descriptors (Table 7-4) -/

def dsOp (d : List Byte) : Nat := leAt d 0x00 1
def dsFlags (d : List Byte) : Nat := leAt d 0x01 1
def dsWait (d : List Byte) : Bool := bitAt (dsFlags d) 0
def dsTag (d : List Byte) : Bool := bitAt (dsFlags d) 1
def dsSlotByte (d : List Byte) : Nat := leAt d 0x02 1
def dsSlot (d : List Byte) : Nat := dsSlotByte d % 64
def dsKind (d : List Byte) : Nat := leAt d 0x03 1
def dsRowOff (d : List Byte) : Nat := leAt d 0x04 2
def dsRows (d : List Byte) : Nat := leAt d 0x06 2
def dsAddr (d : List Byte) : Nat := leAt d 0x08 8
def dsN0 (d : List Byte) : Nat := leAt d 0x10 4
def dsN1 (d : List Byte) : Nat := leAt d 0x14 2
def dsN2 (d : List Byte) : Nat := leAt d 0x16 2
def dsN3 (d : List Byte) : Nat := leAt d 0x18 2
def dsConv (d : List Byte) : Nat := leAt d 0x1A 2
def dsS1 (d : List Byte) : Int := signed 64 (leAt d 0x20 8)
def dsS2 (d : List Byte) : Int := signed 64 (leAt d 0x28 8)
def dsS3 (d : List Byte) : Int := signed 64 (leAt d 0x30 8)
def dsRslotByte (d : List Byte) : Nat := leAt d 0x38 1

/-- T, the bytes of the remote stream (R196). -/
def dsT (d : List Byte) : Nat := dsN0 d * dsN1 d * dsN2 d * dsN3 d

/-- The remote address of byte `o` of the remote stream (R196). -/
def dsByteAddr (d : List Byte) (o : Nat) : Int :=
  let b := o % dsN0 d
  let r := o / dsN0 d
  (dsAddr d : Int) + ((r / dsN1 d / dsN2 d : Nat) : Int) * dsS3 d + ((r / dsN1 d % dsN2 d : Nat) : Int) * dsS2 d
    + ((r % dsN1 d : Nat) : Int) * dsS1 d + (b : Int)

/-- The bytes of an element of a format that access conversion accepts (R199), 0 for any other. -/
def convSize (code : Nat) : Nat :=
  match fmOfCode code with
  | some .fp32 | some .int32 => 4
  | some .bf16 | some .fp16 => 2
  | some .e4m3 | some .e5m2 | some .int8 => 1
  | _ => 0

/-- The format code of the side read. -/
def dsConvRead (d : List Byte) : Nat := fld (dsConv d) 4 0
/-- The format code of the side written. -/
def dsConvWrite (d : List Byte) : Nat := fld (dsConv d) 9 5
/-- The rounding mode. -/
def dsConvRnd (d : List Byte) : Nat := fld (dsConv d) 11 10
/-- The remote side's element size (R197). -/
def dsRemSize (d : List Byte) : Nat :=
  if dsConv d = 0 then 1 else if dsOp d = 1 then convSize (dsConvRead d) else convSize (dsConvWrite d)
/-- The slot side's element size (R197). -/
def dsSlotSize (d : List Byte) : Nat :=
  if dsConv d = 0 then 1 else if dsOp d = 1 then convSize (dsConvWrite d) else convSize (dsConvRead d)
/-- U, the bytes of the slot stream (R197). -/
def dsU (d : List Byte) : Nat := if dsConv d = 0 then dsT d else dsT d / dsRemSize d * dsSlotSize d
/-- The rows of the slot stream (R197). -/
def dsURows (d : List Byte) : Nat := (dsU d + 511) / 512

end Sys2Proof.Machine
end

