-- ==== Sys2Proof/Machine/Frames.lean ====
section
/-! DEFINITION. Jexeri-M frames that the panel sends (R559, R564, R566, R571; Tables 20-2 and 20-3). -/

namespace Sys2Proof.Machine

/-- Whether the die at (15,9) drives the segments: as king post, or after the king-post-loss trip of the one at (15,4)
(R559). -/
def mgmtAlt (s : State) : Bool := s.fp.kingAlt != s.fw.kingLost

/-- The fuses of the king post. -/
def kingFuses (s : State) : DieFuse :=
  let i := if s.fp.kingAlt then 159 else 79
  s.fuses.dies.getD i (refDie i)

/-- The context of a panel frame's signature: LZ-JXM-P. -/
def ctxPanel : List Byte := [0x4C, 0x5A, 0x2D, 0x4A, 0x58, 0x4D, 0x2D, 0x50]

/-- A signature by the identity key of the die that drives the segments. -/
def identitySign (s : State) (ctx msg : List Byte) : List Byte := padTo 114 (Config.ed448Sign (b2n (mgmtAlt s)) ctx msg)

/-- The header of a panel frame (Table 20-2). -/
def frameHeader (s : State) (typ off total len : Nat) : List Byte :=
  natLe 4 0x4D4A5A4C ++ natLe 1 2 ++ natLe 1 typ ++ natLe 2 0 ++ natLe 8 (kingFuses s).panelSerial.toNat
    ++ natLe 8 s.mgmt.seq ++ natLe 8 0 ++ natLe 4 off ++ natLe 4 total ++ natLe 2 len ++ copies 6 0

/-- The bytes of a panel frame: header, body and signature. -/
def frameBytes (s : State) (typ off total : Nat) (body : List Byte) : List Byte :=
  let m := frameHeader s typ off total body.length ++ body
  m ++ identitySign s ctxPanel m

/-- Whether a segment can be sent on. -/
def segUp (s : State) (n : Nat) : Bool := (s.mgmt.segs.getD n segZero).mode != .down

/-- Bytes are sent on each segment that is not down. -/
def sendBytes (bs : List Byte) (s : State) : State :=
  let a := if segUp s 0 then [⟨.a, bs⟩] else []
  let b := if segUp s 1 then [⟨.b, bs⟩] else []
  { s with mgmt := { s.mgmt with sent := s.mgmt.sent ++ a ++ b } }

/-- A frame of the panel's own is sent, and takes the next SEQ. -/
def sendFrame (typ off total : Nat) (body : List Byte) (s : State) : State :=
  let s := sendBytes (frameBytes s typ off total body) s
  { s with mgmt := { s.mgmt with seq := s.mgmt.seq + 1 } }

/-- The fragments of an output from an offset on: at most 1,024 bytes each. -/
def sendFragments (cpl out : List Byte) : Nat → Nat → State → State
  | 0, _, s => s
  | n + 1, k, s =>
    sendFragments cpl out n (k + 1) (sendFrame 4 (1024 * k) out.length (cpl ++ (out.drop (1024 * k)).take 1024) s)

/-- A RESPONSE: a completion entry and its output in fragments, one where there is no output (R571). -/
def sendResponse (cpl out : List Byte) (s : State) : State := sendFragments cpl out (max 1 ((out.length + 1023) / 1024)) 0 s

end Sys2Proof.Machine
end

