-- ==== Sys2Proof/Machine/Ops.lean ====
section
/-! DEFINITION. The shared operations over memory, host memory, events, completions and free values. -/

namespace Sys2Proof.Machine

/-- What a meaning answers. -/
abbrev Out := Host.Outcome State Fault Refusal

/-! ## Free values and time -/

/-- A free value, and the state with the next one's index (log entry 2). -/
def takeFree (s : State) : Nat × State := (Config.freeValue s.freeCtr, { s with freeCtr := s.freeCtr + 1 })

/-- The state at a wall time; time does not run back. -/
def atTime (t : Nat) (s : State) : State := { s with now := max s.now t }

/-- The tick (Table 0-5). -/
def tickOf (s : State) : Nat := s.now / 1000000

/-! ## Byte memories -/

/-- A byte of a memory; an unlisted one reads zero. -/
def memByte (m : List Host.Cell) (a : Nat) : Byte := mapGetD m a 0

/-- A memory with one byte written. -/
def memPut (m : List Host.Cell) (a : Nat) (b : Byte) : List Host.Cell := mapSet 0 m a b

/-- The bytes from an address on. -/
def memRead (m : List Host.Cell) (a : Nat) : Nat → List Byte
  | 0 => []
  | n + 1 => memByte m a :: memRead m (a + 1) n

/-- A memory with bytes written from an address on. -/
def memWrite (m : List Host.Cell) (a : Nat) : List Byte → List Host.Cell
  | [] => m
  | b :: bs => memWrite (memPut m a b) (a + 1) bs

/-- A memory with a range cleared. -/
def memClear (m : List Host.Cell) (a n : Nat) : List Host.Cell := mapDelRange m a n

/-- The canonical form: addresses rise, and no listed byte is zero. -/
def memWf (m : List Host.Cell) : Bool := mapCanonical 0 m

/-! ## Host memory (R441) -/

/-- How host memory answers an access: none that it answers, some true that it does not, some false that it
answers with an error. -/
def hostAnswer (s : State) (a n : Nat) : Option Bool :=
  ((s.hostFail.find? (fun r => decide (r.1 < a + n) && decide (a < r.1 + r.2.1)))).map (fun r => r.2.2)

/-- The bytes of host memory. -/
def hostRead (s : State) (a n : Nat) : List Byte := memRead s.hostMem a n

/-- Host memory with bytes written. -/
def hostWrite (a : Nat) (bs : List Byte) (s : State) : State := { s with hostMem := memWrite s.hostMem a bs }

/-- A vector signalled; one whose mask bit is set becomes pending instead (R433). -/
def signalVector (v : Nat) (s : State) : State :=
  if s.host.msixMask.contains v then
    { s with host := { s.host with msixPend := if s.host.msixPend.contains v then s.host.msixPend else s.host.msixPend ++ [v] } }
  else { s with host := { s.host with msix := mapPut s.host.msix v (mapGetD s.host.msix v 0 + 1) } }

/-! ## Events (R446, R447) -/

/-- An event record with no field used (Table 15-15d). -/
def evBlank (code : Nat) : EventRec := ⟨code, 0, 0, false, 0xFF, 0xFF, 0xFF, 0xFF, 0xFF, 0, 0⟩

/-- The 32 bytes of an event record. -/
def evBytes (seq : Nat) (phase : Bool) (e : EventRec) : List Byte :=
  natLe 4 seq ++ natLe 2 e.unit ++ natLe 2 e.code ++ natLe 8 e.tick
    ++ natLe 1 (b2n phase + 2 * b2n e.more) ++ natLe 1 e.part
    ++ natLe 1 e.x ++ natLe 1 e.y ++ natLe 1 e.cx ++ natLe 1 e.cy ++ natLe 2 e.aux ++ natLe 8 e.arg

/-- Whether the event queue has room for `n` records. -/
def evRoom (q : EventQueue) (n : Nat) : Bool :=
  q.set && decide ((q.tail + q.depth - q.hostHead) % q.depth + n ≤ q.depth - 1)

/-- One record posted in a queue with room: its bytes, the tail, the phase and SEQ advance, vector 1 is
signalled. -/
def evPost (e : EventRec) (s : State) : State :=
  let q := s.ev
  let s := hostWrite (q.base + 32 * q.tail) (evBytes q.seq q.phase e) s
  let wrap := decide (q.tail + 1 ≥ q.depth)
  signalVector 1 { s with ev := { q with
    tail := if wrap then 0 else q.tail + 1
    phase := if wrap then !q.phase else q.phase
    seq := q.seq + 1 } }

/-- The EVENTS_LOST record, as soon as space returns (R447). -/
def evFlushLost (s : State) : State :=
  if s.ev.lost > 0 && evRoom s.ev 1 then
    let s' := evPost { evBlank 0x0002 with tick := tickOf s, arg := s.ev.lost } s
    { s' with ev := { s'.ev with lost := 0 } }
  else s

/-- An event of several records: every record but the last has MORE set (R447). -/
def withMore : List EventRec → List EventRec
  | [] => []
  | [e] => [{ e with more := false }]
  | e :: es => { e with more := true } :: withMore es

/-- An event raised, with all its records: posted whole, or discarded whole and counted once (R446, R447). While the link is in
L2 an event pending asserts WAKE# (R589). -/
def raiseEvent (es : List EventRec) (s : State) : State :=
  let s := if s.host.inL2 then { s with host := { s.host with wake := true } } else s
  if s.ev.lost = 0 && evRoom s.ev es.length then es.foldl (fun s e => evPost e s) s
  else { s with ev := { s.ev with lost := s.ev.lost + 1 } }

/-! ## Status codes (Table 15-15) -/

def stOk : Nat := 0x0000
def stBusy : Nat := 0x0001
def stNotReady : Nat := 0x0002
def stBadOpcode : Nat := 0x0003
def stBadLength : Nat := 0x0004
def stBadField : Nat := 0x0005
def stDenied : Nat := 0x0006
def stNoMemory : Nat := 0x0007
def stNoHeadroom : Nat := 0x0008
def stTimeout : Nat := 0x0009
def stFloorplanStale : Nat := 0x000A
def stContractMismatch : Nat := 0x000B
def stVersionRefused : Nat := 0x000C
def stFwRestarted : Nat := 0x000D
def stUnitAbsent : Nat := 0x000E
def stFault : Nat := 0x000F
def stStaleEpoch : Nat := 0x0010

/-! ## Completions (Table 15-10, R435, R437, R438, R571) -/

/-- The 16 bytes of a completion entry. -/
def cplBytes (cmdId status sqHead : Nat) (phase : Bool) (detail : Nat) : List Byte :=
  natLe 4 cmdId ++ natLe 2 status ++ natLe 2 (sqHead % 4096 + 32768 * b2n phase) ++ natLe 8 detail

/-- Whether a completion queue has a free entry. -/
def cqRoom (q : QueuePair) : Bool := decide ((q.cqTail + q.cqDepth - q.cqHead) % q.cqDepth + 1 < q.cqDepth)

/-- A completion written into a completion queue with room. -/
def cqPost (qid : Nat) (x : Completion) (q : QueuePair) (s : State) : State :=
  let s := hostWrite (q.cqBase + 16 * q.cqTail) (cplBytes x.cmdId x.status x.sqHead q.phase x.detail) s
  let wrap := decide (q.cqTail + 1 ≥ q.cqDepth)
  let q' := { q with
    cqTail := if wrap then 0 else q.cqTail + 1
    phase := if wrap then !q.phase else q.phase }
  signalVector q.vector { s with host := { s.host with queues := mapPut s.host.queues qid q' } }

/-- The command's entry among those in progress. -/
def takenOf (c : Cmd) (s : State) : Option Taken := s.inProgress.find? (fun t => t.cmd == c)

/-- Whether a command has been taken and is not yet completed. -/
def isInProgress (c : Cmd) (s : State) : Bool := (takenOf c s).isSome

/-- A completion goes the way its command came. A completion whose queue no longer exists is discarded
(R437). -/
def deliverCompletion (c : Cmd) (x : Completion) (out : List Byte) (s : State) : State :=
  match c.via with
  | .mailbox =>
    signalVector 0 { s with host := { s.host with
      mbCpl := cplBytes x.cmdId x.status 0 false x.detail
      mbBusy := false, mbDone := true } }
  | .queue qid =>
    match mapGet? s.host.queues qid.val with
    | none => s
    | some q =>
      if q.waiting.isEmpty && cqRoom q then cqPost qid.val x q s
      else { s with host := { s.host with
        queues := mapPut s.host.queues qid.val { q with waiting := q.waiting ++ [x] } } }
  | .mgmt .. => sendResponse (cplBytes x.cmdId x.status 0 false x.detail) out s

/-- A command completes with a status and a detail: it is no longer in progress. Nothing is sent for one that
has already completed. -/
def complete (c : Cmd) (status detail : Nat) (s : State) : State :=
  match takenOf c s with
  | none => s
  | some t =>
    let s := { s with inProgress := s.inProgress.erase t }
    if t.mute then s else deliverCompletion c ⟨c.entry.cmdId.toNat, status, t.sqHead, detail⟩ t.out s

/-- The same where there is a command. -/
def completeOpt (c : Option Cmd) (status detail : Nat) (s : State) : State :=
  match c with
  | none => s
  | some c => complete c status detail s

/-- The output of a Jexeri-M command, kept for its RESPONSE. -/
def setOut (c : Cmd) (bs : List Byte) (s : State) : State :=
  { s with inProgress := s.inProgress.map (fun t => if t.cmd == c then { t with out := bs } else t) }

/-! ## Command flags and output buffers (Table 15-9, R441) -/

/-- INLINE. -/
def isInline (c : Cmd) : Bool := bitAt c.entry.flags.toNat 0
/-- MBDATA. -/
def isMbData (c : Cmd) : Bool := bitAt c.entry.flags.toNat 1
/-- Whether a command came over Jexeri-M. -/
def isMgmt (c : Cmd) : Bool := match c.via with | .mgmt .. => true | _ => false

/-- Bytes written into a host buffer at an address by firmware, with the status of R441. -/
def writeHostBuf (c : Cmd) (a : Nat) (bs : List Byte) (s : State) : Nat × State :=
  if isMgmt c then (stOk, setOut c bs s)
  else if bs.isEmpty then (stOk, s)
  else
    match hostAnswer s a bs.length with
    | some true => (stTimeout, s)
    | some false => (stFault, s)
    | none => (stOk, hostWrite a bs s)

/-- Bytes written into the output buffer that the command's pointer describes (R434, R435). -/
def writeOwnBuf (c : Cmd) (bs : List Byte) (s : State) : Nat × State :=
  if isMbData c then
    (stOk, { s with host := { s.host with mbData := putBytes s.host.mbData c.entry.payloadAddr.toNat bs } })
  else writeHostBuf c c.entry.payloadAddr.toNat bs s

/-- The command completes after its output buffer is written; a buffer that fails gives its own status and the
other effects stand (R441). -/
def completeWithOwnBuf (c : Cmd) (bs : List Byte) (detail : Nat) (s : State) : State :=
  let r := writeOwnBuf c bs s
  complete c r.1 (if r.1 = stOk then detail else 0) r.2

/-- The same for a buffer that the payload names. -/
def completeWithBuf (c : Cmd) (a : Nat) (bs : List Byte) (detail : Nat) (s : State) : State :=
  let r := writeHostBuf c a bs s
  complete c r.1 (if r.1 = stOk then detail else 0) r.2

end Sys2Proof.Machine
end

