-- ==== Sys2Proof/Machine/Functions.lean ====
section
/-! DEFINITION. The functions of R152 and R169. The exact value is computed in fixed point with 512 fraction
bits, far beyond the unit of FP32; the result is any FP32 number within the units that the rule allows, chosen
by a free function of the operands (log entry 12). -/

namespace Sys2Proof.Machine

/-- Fraction bits of the fixed point. -/
def fxBits : Nat := 512
/-- One in fixed point. -/
def fxOne : Int := (2 ^ fxBits : Nat)
/-- A product in fixed point. -/
def fxMul (a b : Int) : Int := a * b / fxOne
/-- A quotient in fixed point. -/
def fxDiv (a b : Int) : Int := if b = 0 then 0 else a * fxOne / b

/-- A finite value in fixed point. -/
def fxOf : FVal → Int
  | .fin n m e =>
    let s := e + (fxBits : Int)
    let v : Nat := if s ≥ 0 then m * 2 ^ s.toNat else m / 2 ^ (-s).toNat
    sgnMag n v
  | _ => 0

/-- The sum of the terms x^k / k! from a term on, for `n` terms. -/
def fxExpTerms (x : Int) : Nat → Nat → Int → Int
  | 0, _, _ => 0
  | n + 1, k, t => t + fxExpTerms x n (k + 1) (fxMul t x / ((k + 1 : Nat) : Int))

/-- The sum of the terms z^(2k+1) / (2k+1), for `n` terms. -/
def fxAtanhTerms (z2 : Int) : Nat → Nat → Int → Int
  | 0, _, _ => 0
  | n + 1, k, p => p / ((2 * k + 1 : Nat) : Int) + fxAtanhTerms z2 n (k + 1) (fxMul p z2)

/-- The natural logarithm of a number from 1 to 2. -/
def fxLnSmall (x : Int) : Int :=
  let z := fxDiv (x - fxOne) (x + fxOne)
  2 * fxAtanhTerms (fxMul z z) 180 0 z

/-- ln 2. -/
def fxLn2 : Int := fxLnSmall (2 * fxOne)

/-- The natural logarithm of a positive number. -/
def fxLn (x : Int) : Int :=
  let k : Int := (Nat.log2 x.toNat : Int) - fxBits
  let m : Int := if k ≥ 0 then x / ((2 ^ k.toNat : Nat) : Int) else x * ((2 ^ (-k).toNat : Nat) : Int)
  fxLnSmall m + k * fxLn2

/-- The exponential; its argument lies between −200 and 200. -/
def fxExp (x : Int) : Int :=
  let k := x / fxLn2
  let r := x - k * fxLn2
  let e := fxExpTerms r 110 0 fxOne
  if k ≥ 0 then e * ((2 ^ k.toNat : Nat) : Int) else e / ((2 ^ (-k).toNat : Nat) : Int)

/-- The sum of (−1)^k z^(2k+1) / (k! (2k+1)), for `n` terms. -/
def fxErfTerms (z2 : Int) : Nat → Nat → Int → Int
  | 0, _, _ => 0
  | n + 1, k, t => t / ((2 * k + 1 : Nat) : Int) + fxErfTerms z2 n (k + 1) (-(fxMul t z2) / ((k + 1 : Nat) : Int))

/-- The square root in fixed point. -/
def fxSqrt (x : Int) : Int := (Nat.sqrt (x * fxOne).toNat : Int)

/-- π, by Machin's formula. -/
def fxPi : Int :=
  let at' (q : Nat) : Int :=
    let z := fxOne / (q : Int)
    fxAtanhTerms (-(fxMul z z)) 220 0 z
  4 * (4 * at' 5 - at' 239)

/-- The error function; its argument lies between −16 and 16. -/
def fxErf (z : Int) : Int := fxDiv (2 * fxErfTerms (fxMul z z) 900 0 z) (fxSqrt fxPi)

/-- Largest finite FP32 in fixed point. -/
def fxMaxF32 : Int := fxOf (.fin false (2 ^ 24 - 1) 104)

/-- The FP32 results that lie within `n` units in the last place of a value that is not zero (R152): the unit is
that of the value's binade. The magnitudes, in units, with the unit's exponent. -/
def ulpCandidates (n : Nat) (v : Int) : List Nat × Int :=
  let a := v.natAbs
  let top : Int := (Nat.log2 a : Int) - fxBits
  let q : Int := max (-149) (top - 23)
  let unit : Nat := 2 ^ (q + fxBits).toNat
  let lo := a / unit
  let ks := (List.range (2 * n + 2)).map (fun d => lo + 1 + n - d)
  (ks.filter (fun k => decide (k * unit ≤ a + n * unit) && decide (a ≤ k * unit + n * unit)), q)

/-- An FP32 result within `n` units of a value, chosen by the free function; beyond the range it is an infinity
with OVF (R152). -/
def fxResult (n : Nat) (choice : Nat) (v : Int) : W32 × NumFlags :=
  if v = 0 then (0, noFlags)
  else
    let neg := decide (v < 0)
    let r := toF32 .rne (.fin neg v.natAbs (-(fxBits : Int)))
    if r.2.ovf then r
    else
      let c := ulpCandidates n v
      let ks : List Nat := c.1.filter (fun (k : Nat) => decide (((k * 2 ^ (c.2 + fxBits).toNat : Nat) : Int) ≤ fxMaxF32))
      match ks with
      | [] => r
      | _ => toF32 .rne (.fin neg (ks.getD (choice % ks.length) 0) c.2)

/-- The canonical NaN of FP32. -/
def nan32 : W32 := 0x7FC00000#32
/-- An infinity of FP32. -/
def inf32 (neg : Bool) : W32 := if neg then 0xFF800000#32 else 0x7F800000#32
/-- A zero of FP32. -/
def zero32 (neg : Bool) : W32 := if neg then 0x80000000#32 else 0#32
/-- One in FP32, with a sign. -/
def one32 (neg : Bool) : W32 := if neg then 0xBF800000#32 else 0x3F800000#32
/-- A NaN that arose from no NaN. -/
def nanMade : W32 × NumFlags := (nan32, { nanc := true })

/-- Largest argument whose exponential is computed; beyond it the result overflows or underflows. -/
def fxBig : Int := 200 * fxOne

/-- e^A (R152). -/
def fExp (a : W32) : W32 × NumFlags :=
  match f32 a with
  | .nan => (nan32, noFlags)
  | .inf n => (if n then zero32 false else inf32 false, noFlags)
  | v =>
    if fIsZero v then (one32 false, noFlags)
    else if fxOf v > fxBig ∨ fLt (.fin false 200 0) v then (inf32 false, { ovf := true })
    else if fLt v (.fin true 200 0) then fxResult 1 (Config.funcChoice 0x0A a 0) 1
    else fxResult 1 (Config.funcChoice 0x0A a 0) (fxExp (fxOf v))

/-- ln A (R152). -/
def fLog (a : W32) : W32 × NumFlags :=
  match f32 a with
  | .nan => (nan32, noFlags)
  | .inf n => if n then nanMade else (inf32 false, noFlags)
  | .fin n m e =>
    if m = 0 then (inf32 true, noFlags)
    else if n then nanMade
    else fxResult 1 (Config.funcChoice 0x0B a 0) (fxLn (fxOf (.fin n m e)))

/-- 1 / A (R152). -/
def fRcp (a : W32) : W32 × NumFlags :=
  match f32 a with
  | .nan => (nan32, noFlags)
  | .inf n => (zero32 n, noFlags)
  | .fin n m e =>
    if m = 0 then (inf32 n, noFlags)
    else fxResult 1 (Config.funcChoice 0x0C a 0) (fxDiv fxOne (fxOf (.fin n m e)))

/-- 1 / √A (R152). -/
def fRsqrt (a : W32) : W32 × NumFlags :=
  match f32 a with
  | .nan => (nan32, noFlags)
  | .inf n => if n then nanMade else (zero32 false, noFlags)
  | .fin n m e =>
    if m = 0 then (inf32 n, noFlags)
    else if n then nanMade
    else fxResult 1 (Config.funcChoice 0x0D a 0) (fxDiv fxOne (fxSqrt (fxOf (.fin n m e))))

/-- √A, correctly rounded (Table 5-4). -/
def fSqrt (a : W32) : W32 × NumFlags :=
  match f32 a with
  | .nan => (nan32, noFlags)
  | .inf n => if n then nanMade else (inf32 false, noFlags)
  | .fin n m e =>
    if m = 0 then (zero32 n, noFlags)
    else if n then nanMade
    else toF32 .rne (fSqrtExt m e)

/-- tanh A (R152). -/
def fTanh (a : W32) : W32 × NumFlags :=
  match f32 a with
  | .nan => (nan32, noFlags)
  | .inf n => (one32 n, noFlags)
  | .fin n m e =>
    if m = 0 then (zero32 n, noFlags)
    else
      let x := fxOf (.fin false m e)
      let t := if x > 90 * fxOne then fxOne - 1
        else let w := fxExp (-(2 * x)); fxDiv (fxOne - w) (fxOne + w)
      fxResult 2 (Config.funcChoice 0x0F a 0) (if n then -t else t)

/-- 1 / (1 + e^−A) (R152). -/
def fSigm (a : W32) : W32 × NumFlags :=
  match f32 a with
  | .nan => (nan32, noFlags)
  | .inf n => (if n then zero32 false else one32 false, noFlags)
  | v =>
    let x := fxOf v
    let y := if x > 190 * fxOne then fxOne - 1
      else if x < -(190 * fxOne) then 1
      else fxDiv fxOne (fxOne + fxExp (-x))
    fxResult 2 (Config.funcChoice 0x10 a 0) y

/-- A × ½ × (1 + erf(A / √2)) (R152). -/
def fGelu (a : W32) : W32 × NumFlags :=
  match f32 a with
  | .nan => (nan32, noFlags)
  | .inf n => (if n then zero32 true else inf32 false, noFlags)
  | .fin n m e =>
    if m = 0 then (zero32 n, noFlags)
    else
      let x := fxOf (.fin n m e)
      let y := if x > 16 * fxOne then x
        else if x < -(16 * fxOne) then -1
        else fxMul x (fxOne + fxErf (fxDiv x (fxSqrt (2 * fxOne)))) / 2
      if y = 0 then (zero32 n, noFlags) else fxResult 2 (Config.funcChoice 0x11 a 0) y

/-- FMIN and FMAX (R153): the canonical NaN for a NaN operand, −0 below +0. -/
def fMinMax (wantMax : Bool) (a b : W32) : W32 :=
  match f32 a, f32 b with
  | .nan, _ => nan32
  | _, .nan => nan32
  | va, vb =>
    let aLess := fLt va vb || (!fLt vb va && bitAt a.toNat 31 && !bitAt b.toNat 31)
    if wantMax then (if aLess then b else a) else (if aLess then a else b)

/-- lse(p, q) = max(p, q) + ln(1 + e^−|p − q|) (R169, R170). -/
def fLse (p q : W32) : W32 × NumFlags :=
  match f32 p, f32 q with
  | .nan, _ => (nan32, noFlags)
  | _, .nan => (nan32, noFlags)
  | .inf x, .inf y => (inf32 (x && y), noFlags)
  | .inf x, vq => if !x then (inf32 false, noFlags) else fxResult 2 (Config.funcChoice 0x40 p q) (fxOf vq)
  | vp, .inf y => if !y then (inf32 false, noFlags) else fxResult 2 (Config.funcChoice 0x40 p q) (fxOf vp)
  | vp, vq =>
    let x := fxOf vp
    let y := fxOf vq
    let hi := max x y
    let d := hi - min x y
    let t := if d > 190 * fxOne then 1 else fxLn (fxOne + fxExp (-d))
    fxResult 2 (Config.funcChoice 0x40 p q) (hi + t)

end Sys2Proof.Machine
end

