-- ==== Sys2Proof/Machine/ScanSteps.lean ====
section
/-! DEFINITION. The steps of a scan call, lane by lane and row by row (R167 to R170). -/

namespace Sys2Proof.Machine

/-- The operator of MODE 1 to 4 (R168, R169). -/
def scanOp (mode : Nat) (a b : W32) : W32 × NumFlags :=
  match mode with
  | 1 => f32Add .rne a b
  | 2 => (fMinMax true a b, noFlags)
  | 3 => (fMinMax false a b, noFlags)
  | _ => fLse a b

/-- What one channel carries from step to step: the value carried into the chunk, P and Q, and the last output. -/
structure ScanAcc where
  h : W32
  p : W32
  q : W32
  last : W32
  deriving DecidableEq, Repr

/-- One step of a channel (R168): `j` is the step within its chunk. -/
def scanStep (mode j : Nat) (a : ScanAcc) (x y : W32) : ScanAcc × NumFlags :=
  if mode = 0 then
    let p := if j = 0 then (x, noFlags) else f32Mul .rne x a.p
    let q := if j = 0 then (y, noFlags) else f32Fma .rne x a.q y
    let o := f32Fma .rne p.1 a.h q.1
    (⟨if j = 15 then o.1 else a.h, p.1, q.1, o.1⟩, flagsOr (flagsOr p.2 q.2) o.2)
  else
    let q := if j = 0 then (y, noFlags) else scanOp mode a.q y
    let o := scanOp mode a.h q.1
    (⟨if j = 15 then o.1 else a.h, a.p, q.1, o.1⟩, flagsOr q.2 o.2)

/-- The lanes of a group before the first step, from its state row. -/
def scanLanes (h : Row) : List ScanAcc := (List.range 128).map (fun l => ⟨rowLane h l, 0, 0, rowLane h l⟩)

/-- One step of a group: its lanes, its output row, and the flags; `j` is the step within its chunk. -/
def scanRow (mode j : Nat) (accs : List ScanAcc) (a b : Row) : List ScanAcc × Row × NumFlags :=
  let rs := (List.range 128).map (fun l => scanStep mode j (accs.getD l ⟨0, 0, 0, 0⟩) (rowLane a l) (rowLane b l))
  (rs.map (fun r => r.1), rowOfElems 32 (rs.map (fun r => r.1.last.toNat)), rs.foldl (fun f r => flagsOr f r.2) noFlags)

end Sys2Proof.Machine
end

