-- ==== Sys2Proof/Machine/CoreOps.lean ====
section
/-! DEFINITION. The shared operations over cores and bays: rows, tags, counters, the walk of the operation
store, cycles, holds, faults and traps. -/

namespace Sys2Proof.Machine

/-! ## Cores and bays -/

/-- A core; an unlisted one is as its reset leaves it. -/
def coreOf (s : State) (k : Nat) : Core := mapGetD s.cores k coreZero

/-- The state with a core replaced. -/
def setCore (k : Nat) (c : Core) (s : State) : State := { s with cores := mapSet coreZero s.cores k c }

/-- The state with a core changed. -/
def modCore (k : Nat) (f : Core → Core) (s : State) : State := setCore k (f (coreOf s k)) s

/-- Whether a core lies in a bay's core set (R249). -/
def inBay (b : Bay) (k : Nat) : Bool :=
  decide (b.cx0 ≤ coreX k) && decide (coreX k < b.cx0 + b.w) && decide (b.cy0 ≤ coreY k)
    && decide (coreY k < b.cy0 + b.ht)

/-- The cores of a bay, in order of cy and then cx. -/
def bayCores (b : Bay) : List Nat :=
  (List.range b.ht).flatMap (fun j => (List.range b.w).map (fun i => coreAt (b.cx0 + i) (b.cy0 + j)))

/-- The head core (R250). -/
def bayHead (b : Bay) : Nat := coreAt b.cx0 b.cy0

/-- The loaded bay that a core belongs to. -/
def bayOfCore (s : State) (k : Nat) : Option (Nat × Bay) := s.bays.find? (fun p => inBay p.2 k)

/-- A loaded bay by its handle. -/
def bayOf (s : State) (i : Nat) : Option Bay := mapGet? s.bays i

/-- The state with a bay replaced. -/
def setBay (i : Nat) (b : Bay) (s : State) : State := { s with bays := mapPut s.bays i b }

/-- The state with a bay changed, where it is loaded. -/
def modBay (i : Nat) (f : Bay → Bay) (s : State) : State :=
  match bayOf s i with
  | none => s
  | some b => setBay i (f b) s

/-- Whether a bay runs in deep mode (R210). -/
def isDeep (b : Bay) : Bool := b.contract == 7

/-- The bay of a core runs in deep mode. -/
def coreDeep (s : State) (k : Nat) : Bool :=
  match bayOfCore s k with
  | some (_, b) => isDeep b
  | none => false

/-- Whether a core is the lead core of its deep block (R210). -/
def isLead (k : Nat) : Bool := coreX k % 2 == 0 && coreY k % 4 == 0

/-- The matrix pipeline latency of a contract level (Table 2-6). -/
def latMatrix (contract : Nat) : Nat := if contract = 1 then 18 else 22
/-- The scan call latency of a contract level (Table 2-6). -/
def latScan (contract : Nat) : Nat := if contract = 1 then 12 else 14
/-- The hold horizon H (R61). -/
def horizon : Nat := 24

/-! ## Rows -/

/-- The core and local row that hold a row of a core; rows from 1,024 on are deep rows (R211). -/
def rowPlace (k d : Nat) : Nat × Nat :=
  let n := d / 1024
  (coreAt (coreX k + n % 2) (coreY k + n / 2), d % 1024)

/-- The write of a local row that a read in cycle `t` sees: the one with the latest stamp up to `t`, of several with that
stamp the last (R161). -/
def lastWrite (ws : List RowWrite) (r t : Nat) : Option RowWrite :=
  ws.foldl (fun (best : Option RowWrite) w =>
      if w.row = r ∧ w.stamp ≤ t then
        (match best with
          | none => some w
          | some b => if b.stamp ≤ w.stamp then some w else some b)
      else best) none

/-- A local row as a read in cycle `t` sees it (R161): the write that it sees, else the settled contents. -/
def coreRowAt (c : Core) (r t : Nat) : Row :=
  match lastWrite c.writes r t with
  | some w => w.data
  | none => mapGetD c.rows r 0

/-- A row of a core as a read in cycle `t` sees it. -/
def rowAt (s : State) (k d t : Nat) : Row :=
  let p := rowPlace k d
  coreRowAt (coreOf s p.1) p.2 t

/-- Settles the writes that every read to come sees. -/
def settleCore (t : Nat) (c : Core) : Core :=
  let old := c.writes.filter (fun w => decide (w.stamp + 16 ≤ t))
  { c with
    rows := old.foldl (fun m w => mapSet 0 m w.row (coreRowAt c w.row (t - 16))) c.rows
    writes := c.writes.filter (fun w => !decide (w.stamp + 16 ≤ t)) }

/-- The rows that the access engine has placed in cycles to come land before cycle `t`: it goes on while no cycle runs
(R207). -/
def landRows (t : Nat) (p : RowWrite → Bool) (c : Core) : Core :=
  { c with writes := c.writes.map (fun w => if w.unit = .access ∧ p w then { w with stamp := min w.stamp t } else w) }

/-- Settles every write with a stamp up to `t` and the access engine's, and drops the others: the bay will run no later
cycle. -/
def freezeWrites (t : Nat) (c : Core) : Core :=
  let c := landRows t (fun _ => true) c
  let old := c.writes.filter (fun w => decide (w.stamp ≤ t))
  { c with
    rows := old.foldl (fun m w => mapSet 0 m w.row (coreRowAt c w.row t)) c.rows
    writes := [] }

/-- The bank of a row (R183). -/
def bankOfRow (r : Nat) : Nat := (r % 16).xor ((r / 16 % 16).xor (r / 256 % 4 * 4))

/-- The core whose operations read a core's rows: itself, or the lead core of its deep block (R211). -/
def readerOf (s : State) (k : Nat) : Nat :=
  if coreDeep s k then coreAt (coreX k / 2 * 2) (coreY k / 4 * 4) else k

/-- The cores whose rows a core's operations may write: itself, or its deep block (R211). -/
def blockCores (s : State) (k : Nat) : List Nat :=
  if coreDeep s k then (List.range 8).map (fun n => (rowPlace k (1024 * n)).1) else [k]

/-! ### Writes under a read (R125, R162) -/

/-- A chain's results become free values, for a row it read was written meanwhile (R162): the rows it still has to write.
The flags that it has computed stay (DESIGN CHOICE, log entry 144). -/
def taintWrites (op : Nat) : List RowWrite → Nat → List RowWrite × Nat
  | [], n => ([], n)
  | w :: ws, n =>
    if w.op = op then
      let r := taintWrites op ws (n + 1)
      ({ w with data := BitVec.ofNat 4096 (Config.freeValue n) } :: r.1, r.2)
    else
      let r := taintWrites op ws n
      (w :: r.1, r.2)

/-- A chain of a core is tainted. -/
def taintOp (k op : Nat) (s : State) : State :=
  (blockCores s k).foldl (fun s k' =>
    let c := coreOf s k'
    let r := taintWrites op c.writes s.freeCtr
    setCore k' { c with writes := r.1 } { s with freeCtr := r.2 }) s

/-- The places in a list of a core's rows at which a local row stands. -/
def placesOf (k : Nat) (rows : List Nat) (p : Nat × Nat) : List Nat :=
  (List.range rows.length).filter (fun i => decide (rowPlace k (rows.getD i 0) = p))

/-- A MATRIX_STEP reads a mix of the old and the new contents of a row that is written while it reads it (R125). -/
def mixRun (k op : Nat) (rows : List Nat) (p : Nat × Nat) (data : Row) (s : State) : State :=
  modCore k (fun c => { c with eng := { c.eng with
    mxRuns := c.eng.mxRuns.map (fun m =>
      if m.op = op then { m with mixes := m.mixes ++ (placesOf k rows p).map (fun i => (i, data)) } else m) } }) s

/-- Whether a write of a local row by a unit falls into what an operation of core `k` must find unchanged. -/
def winHit (k : Nat) (w : ReadWin) (u : RowUnit) (p : Nat × Nat) (stamp : Nat) : Bool :=
  w.unit != u && !(placesOf k w.rows p).isEmpty && decide (w.first + 1 ≤ stamp) && decide (stamp ≤ w.last + 1)

/-- What a write does to an operation whose window it falls into. -/
def spoilOp (k : Nat) (p : Nat × Nat) (data : Row) (s : State) (w : ReadWin) : State :=
  if w.unit = .mx then mixRun k w.op w.rows p data s else taintOp k w.op s

/-- A local row takes contents that are seen from cycle `stamp` on; an operation of another unit that reads the row meanwhile
is spoilt. -/
def storeRow (p : Nat × Nat) (stamp : Nat) (data : Row) (u : RowUnit) (op : Nat) (s : State) : State :=
  let k := readerOf s p.1
  let hits := (coreOf s k).eng.readWins.filter (fun w => winHit k w u p stamp)
  let s := modCore p.1 (fun c => { c with
    writes := c.writes ++ [⟨stamp, p.2, data, u, op⟩]
    badWords := c.badWords.filter (fun w => w / 64 != p.2) }) s
  hits.foldl (spoilOp k p data) s

/-- An operation begins to read rows: its window is kept, and it is spoilt at once by a write already due that falls into
it. -/
def openWin (k : Nat) (w : ReadWin) (s : State) : State :=
  let s := modCore k (fun c =>
    let live := c.eng.readWins.filter (fun v => decide (w.first ≤ v.last))
    { c with eng := { c.eng with readWins := live ++ [w] } }) s
  (blockCores s k).foldl (fun s j =>
    ((coreOf s j).writes.filter (fun x => winHit k w x.unit (j, x.row) x.stamp)).foldl
      (fun s x => spoilOp k (j, x.row) x.data s w) s) s

/-! ### What a scan call reads and writes (R161, R167 to R177)

A call reads its rows cycle by cycle and sees each as written before that cycle, whoever wrote it (R180). Its results are
planned when it starts, and planned again when a row that it is still to read is written. -/

/-- The flags of a core that are set in a cycle to come by an operation (R115). -/
def setFlagsAt (t : Nat) (f : NumFlags) (op : Nat) (c : Core) : Core :=
  if f = noFlags then c
  else { c with eng := { c.eng with flagsDue := c.eng.flagsDue ++ [⟨t, f, op⟩] } }

/-- A row that a call writes: its number, its cycle, its contents, and the flags set with it. -/
abbrev ScanWrite := Nat × Nat × Row × NumFlags

/-- What a call has read and written: the lanes of each group, the rows read, the rows written. -/
structure ScanEval where
  accs : List (List ScanAcc)
  ins : List (Row × Row × Row)
  outs : List ScanWrite
  deriving DecidableEq, Repr

/-- A row as a read of a call in cycle `t` sees it: a row of its own that it wrote before, unless another write came after
that. -/
def scanSees (s : State) (k : Nat) (own : List ScanWrite) (d t : Nat) : Row :=
  let p := rowPlace k d
  let c := coreOf s p.1
  match (own.filter (fun w => w.1 == d && decide (w.2.1 < t))).getLast? with
  | none => coreRowAt c p.2 t
  | some w =>
    match lastWrite c.writes p.2 t with
    | some x => if w.2.1 + 1 < x.stamp then x.data else w.2.2.1
    | none => w.2.2.1

/-- The reads of step and group number `i` and what they give. A read before cycle `since` stands as it was made. -/
def scanRead (s : State) (k since : Nat) (run : ScanRun) (e : ScanEval) (i : Nat) : Row × Row × Row :=
  let o := run.word
  let c := coreOf s k
  let t := run.t0 + i
  let sees (slot off : Nat) : Row := scanSees s k e.outs (slotBaseOf c slot + off) t
  if t < since then run.ins.getD i (0, 0, 0)
  else (if scMode o = 0 then sees (scASlot o) i else 0, sees (scBSlot o) i,
    if i < scChgrp o then sees (scStateSlot o) i else 0)

/-- Step and group number `i` of a call: its output row, and after the last step of the group its state row (R168, R177). -/
def scanPoint (s : State) (k since : Nat) (run : ScanRun) (e : ScanEval) (i : Nat) : ScanEval :=
  let o := run.word
  let c := coreOf s k
  let g := i % scChgrp o
  let n := i / scChgrp o
  let x := scanRead s k since run e i
  let r := scanRow (scMode o) (n % 16) (if n = 0 then scanLanes x.2.2 else e.accs.getD g []) x.1 x.2.1
  let out : ScanWrite := (slotBaseOf c (scOutSlot o) + i, run.t0 + run.lat + i, r.2.1, r.2.2)
  let state : ScanWrite := (slotBaseOf c (scStateSlot o) + g, run.t0 + run.lat + scQ o - scChgrp o + g, r.2.1, noFlags)
  ⟨e.accs.set g r.1, e.ins ++ [x], e.outs ++ (if n + 1 = run.steps then [out, state] else [out])⟩

/-- A call evaluated over all its steps. -/
def scanEval (s : State) (k since : Nat) (run : ScanRun) : ScanEval :=
  (List.range (run.steps * scChgrp run.word)).foldl (scanPoint s k since run) ⟨copies 15 [], [], []⟩

/-- The rows of a call that are seen from a cycle after `since` are due, with their flags. -/
def putScan (k op since : Nat) (outs : List ScanWrite) (s : State) : State :=
  outs.foldl (fun s x =>
    if since ≤ x.2.1 then
      modCore k (setFlagsAt x.2.1 x.2.2.2 op) (storeRow (rowPlace k x.1) (x.2.1 + 1) x.2.2.1 .sc op s)
    else s) s

/-- A call is planned again: what it had planned from cycle `since` on gives way to what its reads give now. -/
def replanScan (k since : Nat) (s : State) (run : ScanRun) : State :=
  let s := (blockCores s k).foldl (fun s j => modCore j (fun c => { c with
    writes := c.writes.filter (fun w => !(w.unit == .sc && w.op == run.op && decide (since < w.stamp))) }) s) s
  let s := modCore k (fun c => { c with eng := { c.eng with
    flagsDue := c.eng.flagsDue.filter (fun f => !(f.op == run.op && decide (since ≤ f.cycle))) } }) s
  let e := scanEval s k since run
  let s := modCore k (fun c => { c with eng := { c.eng with
    scRuns := c.eng.scRuns.map (fun r => if r.op == run.op then { r with ins := e.ins } else r) } }) s
  putScan k run.op since e.outs s

/-- Whether a call is still to read a row in a cycle from `since` on. -/
def scanAwaits (k since : Nat) (c : Core) (p : Nat × Nat) (run : ScanRun) : Bool :=
  let o := run.word
  (List.range (run.steps * scChgrp o)).any (fun i => decide (since ≤ run.t0 + i)
    && (decide (rowPlace k (slotBaseOf c (scBSlot o) + i) = p)
      || scMode o == 0 && decide (rowPlace k (slotBaseOf c (scASlot o) + i) = p)
      || decide (i < scChgrp o) && decide (rowPlace k (slotBaseOf c (scStateSlot o) + i) = p)))

/-- The calls that are to be planned again when a row is seen from cycle `stamp` on: none where no other operation's call is
still to read it, else all that have reads to come. -/
def scansHit (k : Nat) (c : Core) (p : Nat × Nat) (stamp op : Nat) : List ScanRun :=
  if c.eng.scRuns.any (fun r => r.op != op && scanAwaits k stamp c p r) then
    c.eng.scRuns.filter (fun r => decide (stamp < r.t0 + r.steps * scChgrp r.word))
  else []

/-- A row of a core written by a unit: seen from cycle `stamp` on. An operation of another unit that reads the row meanwhile
is spoilt, and a scan call that is still to read it is planned again. -/
def putRow (k d stamp : Nat) (data : Row) (u : RowUnit) (op : Nat) (s : State) : State :=
  let p := rowPlace k d
  let s := storeRow p stamp data u op s
  let r := readerOf s p.1
  (scansHit r (coreOf s r) p stamp op).foldl (replanScan r stamp) s

/-! ## Tags (R191) -/

/-- A slot's tag as a test in cycle `t` sees it. -/
def tagAt (c : Core) (n t : Nat) : Bool :=
  let g := c.tags.getD n ⟨false, false, 0, false, false⟩
  if g.stamp ≤ t then g.cur else g.old

/-- A tag action on a cell: within one cycle, full wins. -/
def tagCellAct (full : Bool) (stamp : Nat) (g : TagCell) : TagCell :=
  if g.stamp = stamp then
    let f := g.sawFull || full
    { g with cur := f, sawFull := f, sawEmpty := g.sawEmpty || !full }
  else { old := g.cur, cur := full, stamp := stamp, sawFull := full, sawEmpty := !full }

/-- Whether an action makes its cell see both actions in one cycle, for the first time. -/
def tagClashes (full : Bool) (stamp : Nat) (g : TagCell) : Bool :=
  decide (g.stamp = stamp) && !(g.sawFull && g.sawEmpty) && (if full then g.sawEmpty else g.sawFull)

/-- A tag action in the cycle before `stamp` (R191): a clash counts. -/
def tagAct (n : Nat) (full : Bool) (stamp : Nat) (c : Core) : Core :=
  let g := c.tags.getD n ⟨false, false, 0, false, false⟩
  let c' := { c with tags := modAt c.tags n (tagCellAct full stamp) }
  if tagClashes full stamp g then
    { c' with st := { c'.st with tagClash := satInc 255 c'.st.tagClash } }
  else c'

/-- A tag action of the access port while no cycle runs: it comes in a period of its own, after the actions of the last cycle
that ran (R191, R207). -/
def tagActAlone (n : Nat) (full : Bool) (stamp : Nat) (c : Core) : Core :=
  { c with tags := modAt c.tags n (fun g => ⟨g.cur, full, stamp, full, !full⟩) }

/-! ## Counters (R71, Table 2-6) -/

/-- A counter and its dynamic property, as cycle `t` sees them. -/
def counterAt (c : Core) (i t : Nat) : BitVec 16 × Bool :=
  match c.seq.counterWrites.foldl (fun (best : Option (Nat × Nat × BitVec 16 × Bool)) w =>
      if w.2.1 = i ∧ w.1 ≤ t then
        (match best with
          | none => some w
          | some b => if b.1 ≤ w.1 then some w else some b)
      else best) none with
  | some w => w.2.2
  | none => (c.seq.counters.getD i 0, c.seq.dynamic.getD i false)

/-- A counter takes a value, visible from cycle `stamp` on. -/
def putCounter (i stamp : Nat) (v : BitVec 16) (dyn : Bool) (c : Core) : Core :=
  { c with seq := { c.seq with counterWrites := c.seq.counterWrites ++ [(stamp, i, v, dyn)] } }

/-- Settles the counter writes that every cycle to come sees. -/
def settleCounters (t : Nat) (c : Core) : Core :=
  let old := c.seq.counterWrites.filter (fun w => decide (w.1 ≤ t))
  { c with seq := { c.seq with
    counters := old.foldl (fun l w => l.set w.2.1 (counterAt c w.2.1 t).1) c.seq.counters
    dynamic := old.foldl (fun l w => l.set w.2.1 (counterAt c w.2.1 t).2) c.seq.dynamic
    counterWrites := c.seq.counterWrites.filter (fun w => !decide (w.1 ≤ t)) } }

/-- The core's epoch as cycle `t` sees it (R83). -/
def epochAt (c : Core) (t : Nat) : BitVec 4 :=
  c.seq.marks.foldl (fun e m => if m.1 ≤ t then m.2.1 else e) c.seq.epoch

/-! ## Tokens of an old epoch (R83, R238) -/

/-- The tokens of the old epoch leave a queue. -/
def dropOld (e : BitVec 4) (q : List Token) : List Token := q.filter (fun x => tokEpoch x.word != e)

/-- The tokens of the old epoch in some queues. -/
def countOld (e : BitVec 4) (qs : List (List Token)) : Nat :=
  qs.foldl (fun n q => n + (q.filter (fun x => tokEpoch x.word == e)).length) 0

/-- Every token of the old epoch in the core's queues and in its steering units is discarded and counted. -/
def markTokens (e : BitVec 4) (c : Core) : Core :=
  let n := countOld e c.seq.queues
  let m := countOld e [c.rt.sw.tokens, c.rt.mg.tokens]
  { c with
    seq := { c.seq with queues := c.seq.queues.map (dropOld e) }
    rt := { c.rt with
      sw := { c.rt.sw with tokens := dropOld e c.rt.sw.tokens }
      mg := { c.rt.mg with tokens := dropOld e c.rt.mg.tokens } }
    st := { c.st with
      staleTokens := satInc 4095 c.st.staleTokens n
      staleIn := satInc 255 c.st.staleIn m } }

/-- The mark that takes effect with cycle `t`, where one does: the tokens of the epoch before it go as the cycle begins (R83,
R238). -/
def settleMarks (t : Nat) (c : Core) : Core :=
  match c.seq.marks.find? (fun m => m.1 == t) with
  | some m => markTokens (m.2.1 - 1) c
  | none => c

/-! ## Holds, faults, traps -/

/-- A hold condition that is not met in a check cycle (R258): the bay freezes after cycle c + 6, or joins the
hold already due. -/
def requestHold (cond : HoldCond) (c : Nat) (b : Bay) : Bay :=
  { b with
    conds := if b.conds.contains cond then b.conds else b.conds ++ [cond]
    freezeDue := some (b.freezeDue.getD (c + 6)) }

/-- A fault in cycle `c` (R269): the bay freezes after the 6th cycle from it. The first fault stands. -/
def faultBay (code k c : Nat) (b : Bay) : Bay :=
  if b.faultDue.isSome || b.mode == .faultHold || b.mode == .stopped then b
  else { b with fault := code, faultCore := some k, faultDue := some (c + 6) }

/-- FAULT_CAUSE is set: a cause holds until the next image load (Table 2-8). -/
def setCause (cause : Nat) (st : CoreStatus) : CoreStatus :=
  if st.faultCause = 0 then { st with faultCause := cause } else st

/-- The bay of a core takes a fault. -/
def faultCoreBay (code k c : Nat) (s : State) : State :=
  match bayOfCore s k with
  | none => s
  | some (i, b) => setBay i (faultBay code k c b) s

/-- The bay of a core awaits a condition no longer: what its check did not find was there when it was needed. -/
def dropCond (k : Nat) (cond : HoldCond) (s : State) : State :=
  match bayOfCore s k with
  | some (i, b) => setBay i { b with conds := b.conds.filter (fun c => c != cond) } s
  | none => s

/-- A trap record is written and the HOST condition added (R295, R296). -/
def trapBay (tr : Trap) (b : Bay) : Bay :=
  let b := if b.traps.length < 16 then { b with traps := b.traps ++ [tr] }
    else { b with trapsLost := b.trapsLost + 1 }
  if b.mode == .draining then b else requestHold .host tr.cycle b

/-- A position with the switch that is due at a period boundary made: of the PEG_PAGEs issued before it the latest
takes effect (R85, R228). -/
def pegResolve (w : PegWalk) : PegWalk :=
  if w.entry = 0 then
    match (w.next.filter (fun p => decide (p.2 < w.cycle))).getLast? with
    | some p => { w with page := p.1, next := w.next.filter (fun p => decide (w.cycle ≤ p.2)) }
    | none => w
  else w

/-- The active peg page in cycle `t`, whose peg entry may have run or be still to run. -/
def pageIn (c : Core) (t : Nat) : Nat := if c.rt.run.cycle = t then (pegResolve c.rt.run).page else c.rt.run.page

/-- An event of Table 10-10 on a core: counted in production, trapped where the hazard detector is enabled. -/
def noteEvent (k cls sub index cycle detail : Nat) (count : CoreStatus → CoreStatus) (s : State) : State :=
  match bayOfCore s k with
  | some (i, b) =>
    if b.hazard then
      setBay i (trapBay ⟨cls, k, sub, index, pageIn (coreOf s k) cycle, cycle, detail⟩ b) s
    else modCore k (fun c => { c with st := count c.st }) s
  | none => modCore k (fun c => { c with st := count c.st }) s

/-- Whether the counters that stop at a stop cycle still count (R268). -/
def stillCounts (s : State) (k : Nat) : Bool :=
  match bayOfCore s k with
  | some (_, b) => b.mode != .draining
  | none => false

/-- A scheduled unit tests a tag in cycle `t` (R192): a wrong tag is counted or trapped, and the unit goes on. -/
def expectTag (k slot : Nat) (full : Bool) (index t : Nat) (s : State) : State :=
  if tagAt (coreOf s k) slot t = full then s
  else noteEvent k 2 (b2n full) index t slot (fun c => { c with tagWrong := satInc 4095 c.tagWrong }) s

/-- The sticky flags as seen when cycles below `t` have run. -/
def flagsAt (c : Core) (t : Nat) : NumFlags :=
  c.eng.flagsDue.foldl (fun a p => if p.cycle < t then flagsOr a p.flags else a) c.st.flags

/-- Settles the flags of cycles that have run. -/
def settleFlags (t : Nat) (c : Core) : Core :=
  { c with
    st := { c.st with flags := flagsAt c t }
    eng := { c.eng with flagsDue := c.eng.flagsDue.filter (fun p => !decide (p.cycle < t)) } }

/-! ## The walk of the operation store (R53 to R55, R73 to R78) -/

/-- The operation word at a store index. -/
def opAt (c : Core) (i : Nat) : BitVec 128 := c.image.stream.getD i 0

/-- Whether the walk stands in a shimmed region (R78). -/
def walkShim (w : Walker) : Bool :=
  !w.skips.isEmpty || w.loops.any (fun f => !f.forever && f.exec == 0)

/-- The issue cycle that an engine's queue of `cap` entries allows from cycle `t` on (R55). -/
def queueStall (starts : List Nat) (cap t : Nat) : Nat :=
  let l := starts.filter (fun x => decide (t < x))
  if l.length < cap then t else l.getD (l.length - cap) t

/-- The issue cycle of the operation at the walk's index, from the first cycle after the operation before it
(R54, R55). -/
def walkDue (c : Core) (base : Nat) (w : Walker) : Walker :=
  if w.idx ≥ c.image.stream.length then { w with finished := true, due := base }
  else
    let o := opAt c w.idx
    let t := base + opGap o
    let t := match opKind o with
      | some .matrixStep => queueStall w.mxStarts 4 t
      | some .vectorChain => queueStall w.vxStarts 4 t
      | some .scanCall => queueStall w.scStarts 2 t
      | _ => t
    { w with due := t }

/-- The engine's timeline after the operation issues: its start and the first free cycle (R55, R128, R160,
R177). -/
def walkEngine (o : BitVec 128) (w : Walker) : Walker :=
  match opKind o with
  | some .matrixStep =>
    let st := max (w.due + 1) w.mxFree
    { w with mxStarts := w.mxStarts.filter (fun x => decide (w.due < x)) ++ [st]
             mxFree := st + max (mxKsteps o * mxOcc o) 32 }
  | some .vectorChain =>
    let st := max (w.due + 1) w.vxFree
    { w with vxStarts := w.vxStarts.filter (fun x => decide (w.due < x)) ++ [st]
             vxFree := st + vxBeats o }
  | some .scanCall =>
    let st := max (w.due + 1) w.scFree
    { w with scStarts := w.scStarts.filter (fun x => decide (w.due < x)) ++ [st]
             scFree := st + scW o }
  | _ => w

/-- The start cycle that the operation at the walk's index takes on its engine (R55). -/
def walkStart (o : BitVec 128) (w : Walker) : Nat :=
  match opKind o with
  | some .matrixStep => max (w.due + 1) w.mxFree
  | some .vectorChain => max (w.due + 1) w.vxFree
  | some .scanCall => max (w.due + 1) w.scFree
  | _ => w.due

/-- Loop ends at the walk's index: a back-edge or the loop's last iteration (R77). -/
def walkLoops : Nat → Walker → Walker
  | 0, w => w
  | n + 1, w =>
    match w.loops with
    | [] => w
    | f :: fs =>
      if f.stop ≠ w.idx then w
      else if f.forever then { w with idx := f.first }
      else if f.left > 0 then
        { w with idx := f.first, loops := { f with left := f.left - 1, exec := f.exec - 1 } :: fs }
      else walkLoops n { w with loops := fs }

/-- The walk after the operation at its index (R54, R73 to R77). -/
def walkNext (c : Core) (ch : WalkChoice) (w : Walker) : Walker :=
  let o := opAt c w.idx
  let base := w.due + 1
  let w := walkEngine o w
  let w := match opKind o, ch with
    | some .cloop, .trips t =>
      let first := w.idx + 1
      let stop := first + coBody o
      if coForever o then { w with idx := first, loops := ⟨first, stop, 0, 1, true⟩ :: w.loops }
      else if coMax o = 0 then
        (if t = 0 then { w with idx := stop }
         else { w with idx := first, loops := ⟨first, stop, t - 1, t, false⟩ :: w.loops })
      else { w with idx := first, loops := ⟨first, stop, coMax o - 1, t, false⟩ :: w.loops }
    | some .ctest, .skip true =>
      { w with idx := w.idx + 1, skips := (w.idx + 1 + coSkip o) :: w.skips }
    | _, _ => { w with idx := w.idx + 1 }
  let w := { w with skips := w.skips.filter (fun e => decide (w.idx < e)) }
  walkDue c base (walkLoops 7 w)

/-- The decision of a CLOOP or CTEST from a counter value (R71, R73 to R75). With FOREVER the counter is ignored (R76). -/
def walkChoose (o : BitVec 128) (v : Nat) : WalkChoice :=
  match opKind o with
  | some .cloop => .trips (if coForever o then 1 else if coMax o = 0 then v else min v (coMax o))
  | some .ctest => .skip (if coCond o = 0 then v == 0 else v != 0)
  | _ => WalkChoice.none

/-- The walk at the start of a stream (R54). -/
def walkStart0 (c : Core) : Walker := walkDue c 0 { walkerZero with finished := false }

/-! ## Crossings -/

/-- The crossing that enters a core on a side. -/
def xingIn (s : State) (k : Nat) (d : Side) : Option Crossing :=
  s.xings.find? (fun x => x.recv == k && x.recvSide == d && x.inDecl)

/-- The crossing that leaves a core on a side. -/
def xingOut (s : State) (k : Nat) (d : Side) : Option Crossing :=
  s.xings.find? (fun x => x.sender == k && x.sendSide == d && x.outDecl)

/-- The state with the crossings into a core on a side changed. -/
def modXingIn (k : Nat) (d : Side) (f : Crossing → Crossing) (s : State) : State :=
  { s with xings := s.xings.map (fun x => if x.recv == k && x.recvSide == d then f x else x) }

/-- The state with the crossings out of a core on a side changed. -/
def modXingOut (k : Nat) (d : Side) (f : Crossing → Crossing) (s : State) : State :=
  { s with xings := s.xings.map (fun x => if x.sender == k && x.sendSide == d then f x else x) }

/-- Credits of a crossing that no check has claimed (R260). -/
def xingCredits (x : Crossing) : Nat :=
  if x.state = .opened then x.budget - x.flight.length - x.accepted.length - x.returning.length - x.driveClaims else 0

/-- Accepted entries of a crossing that no check has claimed (R260). -/
def xingEntries (x : Crossing) : Nat :=
  if x.state = .opened then x.accepted.length - x.takeClaims else 0

/-! ## Check-ahead conditions (R61, R127, R176, R261) -/

/-- The entries that a CHK_KIND 3 check needs (R261). -/
def chkEntries (o : BitVec 128) : Nat :=
  if opKind o = some .receive ∧ srTransit o then 4 * srRows o else 1

/-- Whether the condition of a check-ahead operation holds as cycle `t` sees it. `count` gives the entries of a
crossing that count. -/
def chkMet (s : State) (k : Nat) (o : BitVec 128) (t : Nat) (count : Crossing → Nat) : Bool :=
  let c := coreOf s k
  let full (n : Nat) : Bool := tagAt c n t
  match opKind o with
  | some .matrixStep => full (mxASlot o) && full (mxBSlot o)
  | some .scanCall =>
    let ins := (scMode o != 0 || full (scASlot o)) && full (scBSlot o) && full (scStateSlot o)
    if opChkKind o = 1 then !full (scOutSlot o)
    else if opChkIndex o = scOutSlot o ∧ scOutSlot o ≠ scBSlot o then ins && !full (scOutSlot o)
    else ins
  | _ =>
    match opChkKind o with
    | 0 => full (opChkIndex o)
    | 1 => !full (opChkIndex o)
    | 2 => (c.seq.queues.getD (opChkIndex o) []).any (fun tk => decide (tk.stamp ≤ t))
    | _ =>
      match xingIn s k (sideOfCode (opChkIndex o)) with
      | none => false
      | some x => decide (chkEntries o ≤ count x)

/-- Descriptor-queue entries that are free (R66, Table 7-7). -/
def descFree (c : Core) : Nat := 256 - c.ax.reserved - c.ax.queue.length - c.ax.started.length

/-- Whether a hold condition is met now; all that is done so far is seen (R259). -/
def condMet (s : State) (b : Bay) : HoldCond → Bool
  | .check k idx => chkMet s k (opAt (coreOf s k) idx) b.count xingEntries
  | .accessQueue k due =>
    (match (coreOf s k).seq.recs.find? (fun r => r.due == due) with
    | none => true
    | some r => decide (aeCount (opAt (coreOf s k) r.idx) ≤ descFree (coreOf s k)))
  | .xdata k d _ _ => match xingIn s k d with | some x => decide (0 < xingEntries x) | none => false
  | .xcredit k d _ => match xingOut s k d with | some x => decide (0 < xingCredits x) | none => false
  | .markCredit k d _ => match xingOut s k d with | some x => decide (0 < xingCredits x) | none => false
  | .host => false
  | .trap => false

/-! ## Scheduled accesses (R184 to R186, R188, R262, R604) -/

/-- An access by the operation at a store index is counted to the bank of a row in a cycle. -/
def countAccess (idx d cycle : Nat) (l : List BankAccess) : List BankAccess :=
  l ++ [⟨bankOfRow (d % 1024), cycle, 1, idx⟩]

/-- The operation that a stall of a bank in a cycle is laid to: of those with an access there, the last that the lookahead
counted (DESIGN CHOICE, log entry 147). -/
def stallIndex (c : Core) (bank cycle : Nat) : Nat :=
  match (c.bank.filter (fun a => a.bank = bank ∧ a.cycle = cycle)).getLast? with
  | some a => a.idx
  | none => 0

/-- Accesses of a bank in a cycle. -/
def accessesIn (c : Core) (bank cycle : Nat) : Nat :=
  c.bank.foldl (fun n a => if a.bank = bank ∧ a.cycle = cycle then n + a.count else n) 0

/-- The periods of the BANK hold that accesses waiting beyond 2 cycles need (R262). -/
def holdPeriods (load : Nat) : Nat := (load - 6 + 1) / 2

/-- Looks at the accesses of one bank in one cycle: the load left for the next cycle and the periods of the hold
planned, 0 for none (R262). -/
def planBank (before n : Nat) : Nat × Nat :=
  let load := before + n
  let p := holdPeriods load
  (load - 2 - 2 * p, p)

/-! ## The periods of the head oscillator (R204, R266) -/

/-- The frequency of an operating point in MHz (Table 9-4). -/
def pointMhz (p : Nat) : Nat := [600, 600, 1100, 1500, 1900, 2100].getD p 2100

/-- Oscillator periods of a point that have passed since a time. -/
def periodsSince (s : State) (t0 p : Nat) : Nat := (s.now - t0) * pointMhz p / 1000

/-- Whether a bay runs cycles. -/
def cyclesRun (b : Bay) : Bool := b.mode == .running || b.mode == .draining

/-- The periods of a bay's oscillator in which no cycle ran. -/
def idleNow (s : State) (b : Bay) : Nat :=
  b.idlePeriods + (match b.idleSince with | some t => periodsSince s t b.point | none => 0)

/-- The periods of a bay's oscillator up to the one in progress: while cycles run the last cycle that has begun is the last
of them, and while none runs one more is in progress. -/
def begunPeriods (s : State) (b : Bay) : Nat := b.count + idleNow s b

/-- The number of the period in progress; periods count from 0. -/
def periodNow (s : State) (b : Bay) : Nat := begunPeriods s b - b2n (cyclesRun b)

/-- The oscillator runs on without cycles. -/
def beginIdle (s : State) (b : Bay) : Bay := { b with idleSince := some (b.idleSince.getD s.now) }
/-- The oscillator stops, or cycles run again. -/
def endIdle (s : State) (b : Bay) : Bay := { b with idlePeriods := idleNow s b, idleSince := none }

/-! ### Ports of a bank that no scheduled access needs (R187) -/

/-- Whether scheduled accesses need both ports of a bank in a cycle. -/
def portTaken (c : Core) (bank t : Nat) : Bool := c.bankBusy.any (fun x => x.1 == t && x.2.1 == bank)

/-- The first cycle from `t` on in which a bank has a port free. -/
def freeCycle (c : Core) (bank : Nat) : Nat → Nat → Nat
  | 0, t => t
  | n + 1, t => if portTaken c bank t then freeCycle c bank n (t + 1) else t

/-- A scheduled access that was counted to a bank in a cycle is not made: it needs no port there, nor in the cycles to which
it would have been left over (R604). -/
def unplan (bank : Nat) : Nat → Nat → Core → Core
  | 0, _, c => c
  | n + 1, t, c =>
    match c.bankBusy.find? (fun x => x.1 == t && x.2.1 == bank) with
    | none => c
    | some x =>
      let c' := { c with bankBusy := c.bankBusy.filterMap (fun y =>
        if y = x then (if x.2.2 ≤ 2 then none else some (t, bank, x.2.2 - 1)) else some y) }
      if 3 ≤ x.2.2 then unplan bank n (t + 1) c' else c'

/-- A row of a RECEIVE that is not written makes no access in its cycle (R604). -/
def skipAccess (k d t : Nat) (s : State) : State :=
  let p := rowPlace k d
  modCore p.1 (fun c => unplan (bankOfRow p.2) c.bankBusy.length t c) s

/-- When the access engine of a core moves its next row: the period, and the cycle from which a write there is seen. It moves
one row in a period, in a cycle in which the row's bank has a port free; while no cycle runs every port is (R187, R204). -/
def placeSlot (s : State) (k : Nat) (pl : Nat × Nat) : Nat × Nat :=
  match bayOfCore s k with
  | none => (0, 0)
  | some (_, b) =>
    let p := max (coreOf s k).ax.portNext (periodNow s b)
    if cyclesRun b then
      let c := coreOf s pl.1
      let t := freeCycle c (bankOfRow pl.2) c.bankBusy.length (p - b.idlePeriods)
      (t + b.idlePeriods, t + 1)
    else (p, b.count)

/-- The same for a row by its number. -/
def rowSlot (s : State) (k d : Nat) : Nat × Nat := placeSlot s k (rowPlace k d)

/-- The access engine of a core has placed a row in a period. -/
def usePort (k p : Nat) (s : State) : State := modCore k (fun c => { c with ax := { c.ax with portNext := p + 1 } }) s

/-- Whether remote accesses to some rows of a core find a port of their banks free in the cycle in progress. -/
def portsFree (s : State) (k : Nat) (rows : List Nat) : Bool :=
  match bayOfCore s k with
  | none => true
  | some (_, b) => !cyclesRun b || rows.all (fun d =>
      let p := rowPlace k d
      !portTaken (coreOf s p.1) (bankOfRow p.2) (b.count - 1))

/-- A row that the engine has placed in a cycle gives way to the scheduled accesses that turn out to need the port. -/
def yieldRow (k : Nat) (w : RowWrite) (s : State) : State :=
  let e := readerOf s k
  let p := placeSlot s e (k, w.row)
  let s := modCore k (fun c => { c with
    writes := c.writes.map (fun x => if x = w then { x with stamp := p.2 } else x) }) s
  modCore e (fun c => { c with ax := { c.ax with
    portNext := p.1 + 1
    started := c.ax.started.map (fun x => if x.id = w.op then { x with landed := max x.landed p.1 } else x) } }) s

/-- The rows of a core that the engine has placed in cycles from `t` on whose ports scheduled accesses need. -/
def lateRows (c : Core) (t : Nat) : List RowWrite :=
  c.writes.filter (fun w => w.unit == .access && decide (t < w.stamp) && portTaken c (bankOfRow w.row) (w.stamp - 1))

/-- Every one of them gives way. -/
def yieldRows (b : Bay) (t : Nat) (s : State) : State :=
  (bayCores b).foldl (fun s k => (lateRows (coreOf s k) t).foldl (fun s w => yieldRow k w s) s) s

/-! ### The way across a crossing (R266) -/

/-- The periods of a bay that have ended. -/
def endedPeriods (s : State) (b : Bay) : Nat := periodNow s b

/-- The first period of a bay to begin from now on. -/
def nextPeriod (s : State) (b : Bay) : Nat := periodNow s b + 1

/-- An entry or a credit that has come over the extra latency `x` meets the far end's next period. -/
def noteTrip (s : State) (x : Nat) (near far : Bay) (r : XTrip) : XTrip :=
  if r.seen.isNone ∧ r.sent + x ≤ endedPeriods s near then { r with seen := some (nextPeriod s far) } else r

/-- What is on its way across a crossing. -/
def noteCrossing (s : State) (x : Crossing) : Crossing :=
  match bayOfCore s x.sender, bayOfCore s x.recv with
  | some (_, a), some (_, b) =>
    let e := extraLatency x.sender x.recv
    { x with
      flight := x.flight.map (fun y => { y with trip := noteTrip s e a b y.trip })
      returning := x.returning.map (noteTrip s e b a) }
  | _, _ => x

/-- What is on its way across the crossings. -/
def noteTrips (s : State) : State := { s with xings := s.xings.map (noteCrossing s) }

/-- What a core sends over a crossing now sets out with the end of the period in progress. -/
def tripFrom (s : State) (k : Nat) : XTrip :=
  match bayOfCore s k with
  | some (_, b) => ⟨periodNow s b + 1, none⟩
  | none => ⟨0, none⟩

/-- Whether what has come across is visible to a bay by its 4th period, which may be the next. -/
def tripsIn (s : State) (b : Bay) : Bool :=
  let ok (r : XTrip) : Bool := match r.seen with | some p => decide (nextPeriod s b < p + 3) | none => true
  s.xings.all (fun x => x.state != .opened
    || ((!inBay b x.recv || x.flight.all (fun e => ok e.trip)) && (!inBay b x.sender || x.returning.all ok)))

/-! ## Cycles (R57, R226, R258, R272) -/

/-- Everything that is due in a core before cycle `t` is done, so that cycle `t` can begin. Issue and checks
have stopped in a draining bay (R268). -/
def coreQuiet (s : State) (draining : Bool) (t k : Nat) : Bool :=
  let c := coreOf s k
  let hasX := s.xings.any (fun x => (x.recv == k && x.inDecl) || (x.sender == k && x.outDecl))
  decide (t ≤ c.rt.run.cycle)
  && (draining || c.seq.issue.finished || decide (t ≤ c.seq.issue.due))
  && (draining || c.seq.ahead.finished || decide (t + horizon ≤ c.seq.ahead.due) || decide (t = 0))
  && (draining || !hasX || decide (t = 0) || decide (t + horizon ≤ c.rt.ahead.cycle))
  && c.eng.mxQueue.all (fun o => decide (t ≤ o.start))
  && c.eng.vxQueue.all (fun o => decide (t ≤ o.start))
  && c.eng.scQueue.all (fun o => decide (t ≤ o.start))
  && c.eng.tagActs.all (fun a => decide (t ≤ a.cycle))
  && c.eng.mxRuns.all (fun m => decide (t ≤ m.t0 + (m.done + 1) * m.occ - 1 + m.lat))
  && c.eng.drains.all (fun d => decide (t ≤ d.cycle))

/-- Whether the bay may run cycle `t` under the freezes that are due (R255, R258, R262, R268, R269). -/
def mayRun (b : Bay) (t : Nat) : Bool :=
  (match b.freezeDue with | some n => decide (t ≤ n) | none => true)
  && (match b.faultDue with | some n => decide (t ≤ n) | none => true)
  && b.bankPlans.all (fun p => decide (t ≤ p.freeze))
  && (match b.change with
      | some p => (match p.stage with | .atHead => decide (t ≤ p.freeze) | _ => true)
      | none => true)
  && (match b.stop with
      | some q => b.mode == .draining || (match q.stopCycle with | some n => decide (t < n) | none => true)
      | none => true)

/-- Plans the BANK holds for the accesses of one cycle of a core (R262). -/
def planCycle (k cycle : Nat) (c : Core) (b : Bay) : Core × Bay :=
  let r := (List.range 16).map (fun n => planBank (c.bankLoad.getD n 0) (accessesIn c n cycle))
  let plans := (List.range 16).filterMap (fun n =>
    let p := (r.getD n (0, 0)).2
    if p > 0 then some (⟨cycle + 2, p, k, n, stallIndex c n cycle⟩ : BankHoldPlan) else none)
  let busy := (List.range 16).filterMap (fun n =>
    let load := c.bankLoad.getD n 0 + accessesIn c n cycle
    if 2 ≤ load then some (cycle, n, load) else none)
  ({ c with bankLoad := r.map (fun x => x.1), bankNext := cycle + 1
            bankBusy := c.bankBusy ++ busy
            bank := c.bank.filter (fun a => decide (cycle < a.cycle)) },
   { b with bankPlans := b.bankPlans ++ plans })

/-- Plans the BANK holds of a core up to cycle `last`. -/
def planUpTo (k last : Nat) : Nat → Core → Bay → Core × Bay
  | 0, c, b => (c, b)
  | n + 1, c, b =>
    if c.bankNext ≤ last then
      let r := planCycle k c.bankNext c b
      planUpTo k last n r.1 r.2
    else (c, b)

/-- The power of a site. -/
def pwrOf (s : State) (i : Nat) : SitePwr := mapGetD s.pwr.sites i sitePwrOff

/-- The limiter of a compute die demands the stretch of R257 (R494). -/
def limiterOn (s : State) (i : Nat) : Bool :=
  (pwrOf s i).overLogic || (pwrOf s i).overArray || (s.pwr.quads.getD (quadrantOf i) quadZero).limit.on || s.pwr.limit.on

/-- The compute dies that a bay touches. -/
def baySites (b : Bay) : List Nat := ((bayCores b).map siteOfCore).eraseDups

/-- A limiter demands under the bay (R257). -/
def bayLimited (s : State) (b : Bay) : Bool := (baySites b).any (limiterOn s)

/-- Cycle `t` begins in a bay: the count advances, what is past is settled, and the lookahead's plans for the cycle H after the
last one are made (R262, R272). A cycle that a droop or a limiter stretches counts in STRETCHES (R256, R257). -/
def openCycle (i : Nat) (b : Bay) (t : Nat) (s : State) : State :=
  let slow := b.droops.any (fun x => x.1 == t) || bayLimited s b
  let b := { b with
    count := t + 1
    stretches := if slow then b.stretches + 1 else b.stretches
    droops := b.droops.filter (fun x => decide (t < x.1)) }
  let r := (bayCores b).foldl (fun (p : State × Bay) k =>
    let c := settleMarks t (settleFlags t (settleCounters t (settleCore t (coreOf p.1 k))))
    let c := { c with bankBusy := c.bankBusy.filter (fun x => decide (t ≤ x.1)) }
    let q := if t = 0 ∨ b.mode == .draining then (c, p.2) else planUpTo k (t - 1 + horizon) (horizon + 1) c p.2
    (setCore k q.1 p.1, q.2)) (s, b)
  noteTrips (yieldRows r.2 t (setBay i r.2 r.1))

/-- A core acts in cycle `t` of its bay: the cycle now running, or the next one, which then begins. -/
def enterCycle (k t : Nat) (s : State) : Option (Nat × Bay × State) :=
  match bayOfCore s k with
  | none => none
  | some (i, b) =>
    if !(b.mode == .running || b.mode == .draining) then none
    else if t + 1 = b.count then some (i, b, s)
    else if t = b.count && mayRun b t && (bayCores b).all (coreQuiet s (b.mode == .draining) t)
        && tripsIn (noteTrips s) b then
      let s := openCycle i b t (noteTrips s)
      match bayOf s i with
      | some b' => some (i, b', s)
      | none => none
    else none

end Sys2Proof.Machine
end

