-- ==== Sys2Proof/Machine/Commands.lean ====
section
/-! DEFINITION. How firmware takes a Jexeri command: the common checks of Table 15-14 and the fetch of the payload (R434,
R435, R438 to R441, R570, R571). -/

namespace Sys2Proof.Machine

/-- What follows a command's entry: nothing, a payload, or an output buffer that its pointer describes (R434). -/
inductive PayForm where
  | nothing | payload | buffer
  deriving DecidableEq, Repr

/-- What the common checks need to know of an opcode: the form of its payload, where the payload carries PART, whether it
acts within the partition of its entry (R439), and whether it may come over Jexeri-M (Table 20-5). -/
structure OpInfo where
  form : PayForm
  partOff : Option Nat
  inPart : Bool
  mgmt : Bool
  deriving DecidableEq, Repr

/-- The opcodes of Table 15-16. -/
def opInfo (op : Nat) : Option OpInfo :=
  match op with
  | 0x0001 => some ⟨.buffer, none, false, true⟩
  | 0x0002 => some ⟨.payload, none, false, false⟩
  | 0x0003 => some ⟨.payload, none, false, false⟩
  | 0x0004 => some ⟨.payload, none, false, false⟩
  | 0x0005 => some ⟨.payload, none, false, false⟩
  | 0x0006 => some ⟨.payload, none, false, false⟩
  | 0x0007 => some ⟨.payload, some 0, false, false⟩
  | 0x0008 => some ⟨.payload, none, false, false⟩
  | 0x0009 => some ⟨.payload, none, true, false⟩
  | 0x000A => some ⟨.nothing, none, false, true⟩
  | 0x0100 => some ⟨.buffer, none, false, true⟩
  | 0x0101 => some ⟨.payload, none, false, false⟩
  | 0x0102 => some ⟨.payload, none, false, false⟩
  | 0x0103 => some ⟨.payload, none, false, false⟩
  | 0x0200 => some ⟨.payload, none, true, false⟩
  | 0x0201 => some ⟨.payload, none, true, false⟩
  | 0x0202 => some ⟨.payload, none, true, false⟩
  | 0x0203 => some ⟨.payload, none, true, false⟩
  | 0x0204 => some ⟨.payload, none, true, false⟩
  | 0x0205 => some ⟨.payload, none, true, false⟩
  | 0x0206 => some ⟨.payload, none, true, false⟩
  | 0x0207 => some ⟨.payload, none, true, false⟩
  | 0x0208 => some ⟨.payload, none, true, false⟩
  | 0x0209 => some ⟨.payload, none, true, false⟩
  | 0x020A => some ⟨.buffer, none, true, false⟩
  | 0x020B => some ⟨.payload, none, true, false⟩
  | 0x0300 => some ⟨.payload, some 0, false, false⟩
  | 0x0301 => some ⟨.payload, some 0, false, false⟩
  | 0x0302 => some ⟨.payload, some 0, false, false⟩
  | 0x0303 => some ⟨.payload, some 0, false, false⟩
  | 0x0304 => some ⟨.payload, some 0, false, false⟩
  | 0x0305 => some ⟨.payload, none, false, false⟩
  | 0x0306 => some ⟨.payload, none, false, false⟩
  | 0x0400 => some ⟨.payload, some 2, false, false⟩
  | 0x0401 => some ⟨.payload, none, true, false⟩
  | 0x0402 => some ⟨.payload, some 0, false, false⟩
  | 0x0403 => some ⟨.payload, some 0, false, false⟩
  | 0x0404 => some ⟨.payload, none, true, false⟩
  | 0x0405 => some ⟨.payload, none, true, false⟩
  | 0x0406 => some ⟨.payload, none, true, false⟩
  | 0x0407 => some ⟨.payload, none, true, false⟩
  | 0x0500 => some ⟨.nothing, none, false, false⟩
  | 0x0501 => some ⟨.nothing, none, false, false⟩
  | 0x0502 => some ⟨.payload, none, false, false⟩
  | 0x0503 => some ⟨.payload, none, false, false⟩
  | 0x0504 => some ⟨.payload, some 0, false, false⟩
  | 0x0505 => some ⟨.payload, some 0, false, false⟩
  | 0x0506 => some ⟨.payload, some 0, false, false⟩
  | 0x0507 => some ⟨.payload, some 0, false, false⟩
  | 0x0508 => some ⟨.payload, some 0, false, false⟩
  | 0x0509 => some ⟨.payload, some 0, false, false⟩
  | 0x050A => some ⟨.payload, some 0, false, false⟩
  | 0x050B => some ⟨.payload, some 0, false, false⟩
  | 0x0600 => some ⟨.payload, none, false, false⟩
  | 0x0601 => some ⟨.payload, some 0, false, false⟩
  | 0x0602 => some ⟨.payload, some 0, false, false⟩
  | 0x0603 => some ⟨.payload, none, false, false⟩
  | 0x0604 => some ⟨.payload, none, false, false⟩
  | 0x0605 => some ⟨.payload, none, false, true⟩
  | 0x0700 => some ⟨.payload, none, false, false⟩
  | 0x0701 => some ⟨.payload, none, false, false⟩
  | 0x0702 => some ⟨.payload, none, false, true⟩
  | 0x0703 => some ⟨.payload, none, false, true⟩
  | 0x0704 => some ⟨.payload, none, false, true⟩
  | 0x0800 => some ⟨.payload, none, false, true⟩
  | 0x0801 => some ⟨.payload, none, false, true⟩
  | 0x0802 => some ⟨.payload, none, false, true⟩
  | 0x0900 => some ⟨.payload, none, false, true⟩
  | 0x0A00 => some ⟨.payload, none, false, true⟩
  | 0x0A01 => some ⟨.payload, none, false, true⟩
  | 0x0A02 => some ⟨.payload, none, false, false⟩
  | 0x0B00 => some ⟨.payload, none, false, false⟩
  | 0x0B01 => some ⟨.payload, none, false, true⟩
  | 0x0B02 => some ⟨.buffer, none, false, true⟩
  | _ => none

/-! ## The fields of an entry -/

def cmdOp (c : Cmd) : Nat := c.entry.opcode.toNat
def cmdPart (c : Cmd) : Nat := c.entry.part.toNat
def cmdLen (c : Cmd) : Nat := c.entry.payloadLen.toNat
def cmdAddr (c : Cmd) : Nat := c.entry.payloadAddr.toNat

/-- The entry's 40 inline bytes. -/
def cmdInline (c : Cmd) : List Byte := bytesAt c.entry.inlineData 0 40

/-- A command entry from its 64 bytes (Table 15-9). -/
def entryOfBytes (bs : List Byte) : CmdEntry where
  opcode := BitVec.ofNat 16 (leAt bs 0 2)
  flags := BitVec.ofNat 8 (leAt bs 2 1)
  part := BitVec.ofNat 8 (leAt bs 3 1)
  cmdId := BitVec.ofNat 32 (leAt bs 4 4)
  payloadAddr := BitVec.ofNat 64 (leAt bs 8 8)
  payloadLen := BitVec.ofNat 32 (leAt bs 0x10 4)
  rsv := BitVec.ofNat 32 (leAt bs 0x14 4)
  inlineData := bytesAt bs 0x18 40

/-! ## The common checks (Table 15-14) -/

/-- Check 2: version agreement (R442), which does not apply to Jexeri-M (R570). -/
def versionOk (c : Cmd) (s : State) : Bool :=
  isMgmt c || s.host.agreed.isSome || cmdOp c == 1 || cmdOp c == 2 || (0x700 ≤ cmdOp c && cmdOp c ≤ 0x702)

/-- Check 3: reserved fields, FLAGS and the range of PART. -/
def entryOk (c : Cmd) : Bool :=
  c.entry.rsv == 0 && fld c.entry.flags.toNat 7 2 == 0 && (decide (cmdPart c < 8) || cmdPart c == 0xFF)
    && (isInline c || allZero (cmdInline c)) && (!isMbData c || (match c.via with | .mailbox => true | _ => false))

/-- Check 4: queue binding, a partition where one is needed, and the opcodes and PART of Jexeri-M. -/
def bindingStatus (c : Cmd) (i : OpInfo) (s : State) : Nat :=
  let bound : Nat := match c.via with
    | .queue q => (match mapGet? s.host.queues q.val with | some p => p.bind | none => 0xFF)
    | _ => 0xFF
  if isMgmt c && !i.mgmt then stDenied
  else if isMgmt c && cmdPart c != 0xFF then stBadField
  else if bound != 0xFF && cmdPart c != bound then stDenied
  else if i.inPart && cmdPart c == 0xFF then stBadField
  else stOk

/-- Check 5: readiness (R421), the refusals of PREPARE_REMOVAL (R451) and the parked panel (R452). -/
def readyOk (c : Cmd) (s : State) : Bool :=
  let op := cmdOp c
  (decide (6 ≤ s.host.bringup) || decide (op < 0x100) || (0x700 ≤ op && op < 0x800) || (op == 0x100 && s.fp.built))
    && (s.host.removing.isNone || op == 1)
    && (!s.host.parked || op == 1 || (0x700 ≤ op && op ≤ 0x704))

/-- Check 6: the payload's form (R434, R435, R571). -/
def formStatus (c : Cmd) (i : OpInfo) : Nat :=
  if isMgmt c then
    if isInline c || isMbData c || cmdAddr c != 0 then stBadField
    else
      match i.form with
      | .nothing => if cmdLen c = 0 then stOk else stBadLength
      | .payload => if cmdLen c = 0 then stBadLength else stOk
      | .buffer => if 65536 < cmdLen c then stBadLength else stOk
  else if isInline c && isMbData c then stBadField
  else if isInline c && i.form == .buffer then stBadField
  else if i.form == .nothing then (if cmdLen c = 0 ∧ cmdAddr c = 0 then stOk else stBadLength)
  else if isInline c then
    if cmdLen c = 0 ∨ 40 < cmdLen c then stBadLength else if cmdAddr c ≠ 0 then stBadField else stOk
  else if cmdLen c = 0 ∧ i.form = .payload then stBadLength
  else if isMbData c && decide (3840 < cmdAddr c + cmdLen c) then stBadLength
  else stOk

/-- Check 7: the payload, read from where its form says (R441). -/
def fetchPayload (c : Cmd) (i : OpInfo) (s : State) : Nat × List Byte :=
  if i.form ≠ .payload then (stOk, [])
  else
    match c.via with
    | .mgmt _ _ body => (stOk, bytesAt body 0 (cmdLen c))
    | _ =>
      if isInline c then (stOk, (cmdInline c).take (cmdLen c))
      else if isMbData c then (stOk, bytesAt s.host.mbData (cmdAddr c) (cmdLen c))
      else
        match hostAnswer s (cmdAddr c) (cmdLen c) with
        | some true => (stTimeout, [])
        | some false => (stFault, [])
        | none => (stOk, hostRead s (cmdAddr c) (cmdLen c))

/-- Check 8: the payload's PART (R439). A payload that is too short to carry one is left to the command's own
checks. -/
def partOk (c : Cmd) (i : OpInfo) (pay : List Byte) : Bool :=
  match i.partOff with
  | none => true
  | some o => cmdPart c == 0xFF || decide (pay.length ≤ o) || leAt pay o 1 == cmdPart c

/-- A partition is in reset (R481). -/
def partInReset (s : State) (part : Nat) : Bool :=
  match s.fw.reset with
  | some r => r.scope == 2 && cmdPart r.cmd == part
  | none => false

/-- A RESET of panel cold scope. -/
def isColdReset (c : Cmd) (pay : List Byte) : Bool := cmdOp c == 0x0704 && leAt pay 0 1 == 4

/-- A command names a partition that is in reset, and is no RESET of panel cold scope (R481). -/
def namesReset (c : Cmd) (i : OpInfo) (pay : List Byte) (s : State) : Bool :=
  (partInReset s (cmdPart c) || (match i.partOff with | some o => partInReset s (leAt pay o 1) | none => false))
    && !isColdReset c pay

/-- The common checks in their order: the status of the first that fails, else OK with the payload. -/
def commonChecks (c : Cmd) (s : State) : Nat × List Byte :=
  match opInfo (cmdOp c) with
  | none => (stBadOpcode, [])
  | some i =>
    if !versionOk c s then (stVersionRefused, [])
    else if !entryOk c then (stBadField, [])
    else if bindingStatus c i s ≠ stOk then (bindingStatus c i s, [])
    else if !readyOk c s then (stNotReady, [])
    else if formStatus c i ≠ stOk then (formStatus c i, [])
    else
      let p := fetchPayload c i s
      if p.1 ≠ stOk then (p.1, [])
      else if !partOk c i p.2 then (stBadField, [])
      else if namesReset c i p.2 s then (stBusy, [])
      else p

/-! ## Taking a command (R435, R438) -/

/-- Whether the king post's panel controller runs (R456): it takes and runs every command. -/
def firmwareRuns (s : State) : Bool := (mapGetD s.fw.procs (b2n s.fp.kingAlt) procZero).run == .running

/-- Whether firmware can take a command: the king post's panel controller runs, fewer than 1,024 are in progress, the mailbox
is free, and a queue exists and its completion queue is not full (R435, R438, R456). -/
def canTake (c : Cmd) (s : State) : Bool :=
  firmwareRuns s && decide (s.inProgress.length < 1024) && !isInProgress c s
    && (match c.via with
      | .mailbox => !s.host.mbBusy
      | .queue q => (match mapGet? s.host.queues q.val with
        | some p => p.waiting.isEmpty && cqRoom p
        | none => false)
      | .mgmt .. => true)

/-- The command is taken: time comes to its time, it is in progress, and a mailbox command makes the mailbox busy. -/
def takeCmd (c : Cmd) (s : State) : State :=
  let head := match c.via with
    | .queue q => (match mapGet? s.host.queues q.val with | some p => p.sqHead | none => 0)
    | _ => 0
  let s := atTime c.time s
  let s := match c.via with
    | .mailbox => { s with host := { s.host with mbBusy := true } }
    | _ => s
  { s with inProgress := s.inProgress ++ [⟨c, head, [], false⟩] }

/-- A command that has been taken runs: the common checks, then its own operation on the payload. -/
def runTaken (c : Cmd) (body : Cmd → List Byte → State → State) (s : State) : State :=
  let r := commonChecks c s
  if r.1 ≠ stOk then complete c r.1 0 s else body c r.2 s

/-- A row of the table that is a command: firmware takes it and runs it. -/
def runRow (c : Cmd) (op : Nat) (body : Cmd → List Byte → State → State) (s : State) : Out :=
  if cmdOp c ≠ op then .fault .illFormed
  else if !canTake c s then .next s
  else .next (runTaken c body (takeCmd c s))

/-- The command in the admin mailbox. -/
def mailCmd (time : Nat) (s : State) : Cmd := ⟨time, .mailbox, entryOfBytes s.host.mbCmd⟩

/-- Whether the mailbox has started a command that firmware has not yet taken. -/
def mailWaits (s : State) : Bool :=
  s.host.mbBusy && !s.inProgress.any (fun t => t.cmd.via == .mailbox && !t.mute)

/-! ## Shared parts of commands' own checks -/

/-- An output buffer that the payload names: over Jexeri-M its address must be zero and its length is the output limit
(R571). -/
def bufStatus (c : Cmd) (addr len need : Nat) : Nat :=
  if isMgmt c && addr != 0 then stBadField
  else if isMgmt c && decide (65536 < len) then stBadLength
  else if len < need then stBadLength
  else stOk

/-- The command fails with a status and changes nothing. -/
def failCmd (c : Cmd) (status : Nat) (s : State) : State := complete c status 0 s

/-- The first failing check of a list decides the status; OK where none fails. -/
def firstFail : List (Bool × Nat) → Nat
  | [] => stOk
  | (bad, st) :: l => if bad then st else firstFail l

/-- The command's own checks, and its effect where none fails. -/
def checked (c : Cmd) (checks : List (Bool × Nat)) (eff : State → State) (s : State) : State :=
  let st := firstFail checks
  if st ≠ stOk then failCmd c st s else eff s

/-- Whether the bytes at an offset are all zero. -/
def zeroAt (pay : List Byte) (off n : Nat) : Bool := leAt pay off n == 0

end Sys2Proof.Machine
end

