-- ==== Sys2Proof/Machine/ErrOps.lean ====
section
/-! DEFINITION. Firmware processors as the source of events, the error logs, the wear scores and the firing of
injections (R455 to R461, R540, R546 to R558). -/

namespace Sys2Proof.Machine

/-! ## Processors (Table 16-1) -/

/-- The site of the king post (R52). -/
def kingSite (s : State) : Nat := if s.fp.kingAlt then 159 else 79
/-- The site of the second management die. -/
def otherMgmt (s : State) : Nat := if s.fp.kingAlt then 79 else 159
/-- The index of the king post's panel controller. -/
def kingPc (s : State) : Nat := b2n s.fp.kingAlt
/-- The index of the king post's power and thermal controller. -/
def kingPtc (s : State) : Nat := 2 + b2n s.fp.kingAlt

/-- The sites with a die supervisor, in order. -/
def supervisorSites : List Nat :=
  (List.range 224).filter (fun i => placeRole i == 1 || placeRole i == 2 || placeRole i == 4)

/-- The index of the processor of a site: its die supervisor, its link controller or its panel controller. -/
def procOfSite (i : Nat) : Option Nat :=
  if placeRole i = 3 then some (4 + linkDieOfSite i)
  else if i = 79 then some 0
  else if i = 159 then some 1
  else (supervisorSites.findIdx? (fun j => j == i)).map (fun m => 16 + m)

/-- The site of a processor. -/
def siteOfProc (n : Nat) : Nat :=
  if n < 4 then (if n % 2 = 0 then 79 else 159)
  else if n < 16 then siteOfLinkDie (n - 4)
  else supervisorSites.getD (n - 16) 0

/-- A processor. -/
def procOf (s : State) (n : Nat) : Proc := mapGetD s.fw.procs n procZero

/-- The state with a processor changed. -/
def modProc (n : Nat) (f : Proc → Proc) (s : State) : State :=
  { s with fw := { s.fw with procs := mapSet procZero s.fw.procs n (f (procOf s n)) } }

/-- Whether a processor runs. -/
def procRuns (s : State) (n : Nat) : Bool := (procOf s n).run == .running
/-- Whether a processor is held in its safe state (R461). -/
def procHeld (s : State) (n : Nat) : Bool := (procOf s n).run == .held
/-- Whether a processor restarts. -/
def procStarts (s : State) (n : Nat) : Bool := (procOf s n).run == .starting

/-- SERVICE: some processor is held (R461), or neither management die passed its self-test (R475). -/
def serviceBit (s : State) : Bool := s.fw.noKing || s.fw.procs.any (fun p => p.2.run == .held)

/-- A command's operation that needs a processor: it waits while the processor restarts, and fails with FAULT while it is
held (R460, R462). -/
def needProc (n : Nat) (c : Cmd) (pay : List Byte) (eff : State → State) (s : State) : State :=
  if procHeld s n then complete c stFault 0 s
  else if procStarts s n then { s with fw := { s.fw with waiting := s.fw.waiting ++ [⟨n, s.now, c, pay⟩] } }
  else eff s

/-- The same for an operation that needs several processors. -/
def needProcs (l : List Nat) (c : Cmd) (pay : List Byte) (eff : State → State) (s : State) : State :=
  if l.any (procHeld s) then complete c stFault 0 s
  else
    match l.find? (procStarts s) with
    | some n => needProc n c pay eff s
    | none => eff s

/-! ## Events -/

/-- The processor that reports an event beside the panel controller (R459). -/
def eventProc (s : State) (e : EventRec) : Option Nat :=
  let cls := e.code / 256
  if cls = 8 ∨ cls = 9 then some (kingPtc s)
  else if cls = 2 then
    (match mapGet? s.bays e.unit with
    | some b => procOfSite (siteOfCore (coreAt b.cx0 b.cy0))
    | none => none)
  else if cls = 3 ∧ e.x < 16 then procOfSite (16 * e.y + e.x)
  else if cls = 6 then some (4 + e.unit / 4)
  else none

/-- An event is raised. A processor that restarts reports it once it runs again (R459). -/
def raise (es : List EventRec) (s : State) : State :=
  let es := withMore (es.map (fun e => { e with tick := tickOf s }))
  let late (n : Nat) : State := { s with fw := { s.fw with latched := s.fw.latched ++ [(n, es)] } }
  match es with
  | [] => s
  | e :: _ =>
    match eventProc s e with
    | some n => if procStarts s n then late n else if procStarts s (kingPc s) then late (kingPc s) else raiseEvent es s
    | none => if procStarts s (kingPc s) then late (kingPc s) else raiseEvent es s

/-- One record is raised. -/
def raise1 (e : EventRec) (s : State) : State := raise [e] s

/-- Events that wait for a processor are reported, in the order in which they arose (R459). -/
def flushLatched (n : Nat) (s : State) : State :=
  let mine := s.fw.latched.filter (fun x => x.1 == n)
  mine.foldl (fun s x =>
    if procStarts s (kingPc s) then { s with fw := { s.fw with latched := s.fw.latched ++ [(kingPc s, x.2)] } }
    else raiseEvent x.2 s) { s with fw := { s.fw with latched := s.fw.latched.filter (fun x => x.1 != n) } }

/-- An event record with a site. -/
def evSite (code unit site aux arg : Nat) : EventRec :=
  { evBlank code with unit := unit, x := siteX site, y := siteY site, aux := aux, arg := arg }

/-- An event record with no place. -/
def evPlain (code unit aux arg : Nat) : EventRec := { evBlank code with unit := unit, aux := aux, arg := arg }

/-- An event record about a bay. -/
def evBay (code bay part aux arg : Nat) : EventRec :=
  { evBlank code with unit := bay, part := part, aux := aux, arg := arg }

/-! ## Logs (R540, R546, R547) -/

/-- A log record with no field used. -/
def logBlank (cls : Nat) : LogRec := ⟨0, cls, false, 0xFF, 0xFF, 0xFF, 0xFF, 0xFF, 0xFF, 0, 1, 0xFFFF, 0, 0, 0⟩

/-- Whether records of a class are also written to the persistent log (R547). -/
def isPersistentClass (cls : Nat) : Bool := cls == 2 || cls == 9 || cls == 10 || cls == 12

/-- Records that one record of a tick aggregates (R540, R546). -/
def sameRecord (a b : LogRec) : Bool :=
  decide (a.tick = b.tick ∧ a.cls = b.cls ∧ a.injected = b.injected ∧ a.unit = b.unit ∧ a.x = b.x ∧ a.y = b.y
    ∧ a.cx = b.cx ∧ a.cy = b.cy ∧ a.addr = b.addr ∧ a.status = b.status)

/-- The classes whose happenings of one tick are aggregated: corrected and uncorrectable words, hop and link
replays. -/
def aggregates (cls : Nat) : Bool := cls == 1 || cls == 2 || cls == 4 || cls == 5

/-- A log with a record added; it keeps the newest `cap`. -/
def logPut (cap : Nat) (r : LogRec) (l : ErrLog) : ErrLog := ⟨(r :: l.recs).take cap, l.next + 1⟩

/-- A log with a happening counted in the record of its tick, where it holds one. -/
def logCount (r : LogRec) (l : ErrLog) : ErrLog :=
  { l with recs := l.recs.map (fun x => if sameRecord x r then { x with count := min 0xFFFFFFFF (x.count + r.count) } else x) }

/-- Whether a record of the same tick holds the happening already. -/
def logHas (r : LogRec) (l : ErrLog) : Bool :=
  aggregates r.cls && (l.recs.takeWhile (fun x => x.tick == r.tick)).any (fun x => sameRecord x r)

/-- A log record as the panel completes it: the tick and the boot count. -/
def logStamp (r : LogRec) (s : State) : LogRec := { r with tick := tickOf s, boot := s.boot.bootCount }

/-- Whether a happening is already on record for this tick. -/
def alreadyLogged (r : LogRec) (s : State) : Bool := logHas (logStamp r s) s.err.log

/-- A happening is logged. -/
def logAdd (r : LogRec) (s : State) : State :=
  let r := logStamp r s
  let put (cap : Nat) (l : ErrLog) : ErrLog := if logHas r l then logCount r l else logPut cap r l
  let s := { s with err := { s.err with log := put 262144 s.err.log } }
  if isPersistentClass r.cls then { s with boot := { s.boot with plog := put 4096 s.boot.plog } } else s

/-- The bytes of a log record (Table 19-3). -/
def logBytes (seq : Nat) (r : LogRec) : List Byte :=
  natLe 8 seq ++ natLe 8 r.tick ++ natLe 1 r.cls
    ++ natLe 1 (b2n r.injected + 2 * b2n (isPersistentClass r.cls)) ++ natLe 1 r.part ++ natLe 1 r.unit
    ++ natLe 1 r.x ++ natLe 1 r.y ++ natLe 1 r.cx ++ natLe 1 r.cy ++ natLe 8 r.addr ++ natLe 4 r.count
    ++ natLe 2 r.bay ++ natLe 2 r.status ++ natLe 8 r.detail ++ natLe 4 r.boot ++ copies 12 0

/-- A failure record (class 9) with the reason of a site. -/
def logFailure (site reason : Nat) (inj : Bool) : LogRec :=
  { logBlank 9 with injected := inj, x := siteX site, y := siteY site, status := reason }

/-! ## Wear (R549 to R552) -/

/-- A wear part. -/
def wearOf (s : State) (n : Nat) : WearPart := mapGetD s.err.wear n wearZero

/-- The wear state that a score gives from the state before (R552). -/
def wearNext (old score : Nat) : Nat :=
  if 100000 ≤ score then 2
  else if old = 2 ∧ 80000 ≤ score then 2
  else if 10000 ≤ score then 1
  else if 8000 ≤ score ∧ old ≠ 0 then 1
  else 0

/-- Each change of a part's wear state is raised and logged. -/
def wearChange (n old : Nat) (s : State) : State :=
  let p := wearOf s n
  if p.state = old then s
  else
    let s := raise1 (evPlain 0x0A00 n (256 * p.state + old) p.score) s
    logAdd { logBlank 12 with addr := n, detail := p.score, status := 0x0A00 } s

/-- The state with a part's scores replaced. -/
def putWear (n : Nat) (p : WearPart) (s : State) : State :=
  { s with err := { s.err with wear := mapSet wearZero s.err.wear n p } }

/-- Points in hundredths are added to a part for a happening of a kind, 0 to 5 in the order of COUNTS. -/
def addWear (n kind points : Nat) (s : State) : State :=
  let p := wearOf s n
  let score := min 0xFFFFFFFF (p.score + points)
  let p' : WearPart := { p with
    score := score
    peak := max p.peak score
    counts := modAt p.counts kind (fun c => min 0xFFFFFFFF (c + 1))
    lastTick := tickOf s
    life := p.life + points
    state := wearNext p.state score }
  wearChange n p.state (putWear n p' s)

/-- Points are added unless an injection caused the happening (R550). -/
def scoreWear (inj : Bool) (n kind points : Nat) (s : State) : State := if inj then s else addWear n kind points s

/-! ## Injections (R554 to R557) -/

/-- An armed injection, and its firing. -/
def injOf (s : State) (f : Injection → Bool) : Option Injection := s.err.armed.find? f

/-- INJECT_DONE of an injection that is disarmed. -/
def injDone (j : Injection) (s : State) : State :=
  raise1 { evBlank 0x0A04 with unit := j.point, x := j.x, y := j.y, aux := min 0xFFFF j.fired, arg := j.addr } s

/-- An injection fires once; after its last firing it is disarmed. -/
def fireInj (j : Injection) (s : State) : State :=
  let j' : Injection := { j with left := j.left - 1, fired := j.fired + 1 }
  let s := logAdd { logBlank 13 with injected := true, x := j.x, y := j.y, addr := j.addr, status := j.point } s
  if j'.left = 0 then injDone j' { s with err := { s.err with armed := s.err.armed.erase j } }
  else { s with err := { s.err with armed := s.err.armed.map (fun i => if i == j then j' else i) } }

/-- The detector of a point examines a target: whether an injection fires there, and the state after it. -/
def examine (point : Nat) (f : Injection → Bool) (s : State) : Bool × State :=
  match injOf s (fun j => j.point == point && f j) with
  | none => (false, s)
  | some j => (true, fireInj j s)

/-- As `examine`, with the injection that fires. -/
def examineInj (point : Nat) (f : Injection → Bool) (s : State) : Option Injection × State :=
  match injOf s (fun j => j.point == point && f j) with
  | none => (none, s)
  | some j => (some j, fireInj j s)

/-- The offset that the injections of a sensor point give to a reading, and the state after their firing. -/
def examineValue (point : Nat) (f : Injection → Bool) (s : State) : Int × State :=
  match injOf s (fun j => j.point == point && f j) with
  | none => (0, s)
  | some j => (j.value, fireInj j s)

/-- The injections that a condition names are disarmed (R556). -/
def disarm (f : Injection → Bool) (s : State) : State :=
  let gone := s.err.armed.filter f
  gone.foldl (fun s j => injDone j s) { s with err := { s.err with armed := s.err.armed.filter (fun j => !f j) } }

/-- The site that an injection aims at (Table 19-8): none for the flow sensors, the coolant and the points of the panel. -/
def injSite (j : Injection) : Option Nat :=
  if j.point = 19 then some (siteOfProc j.addr)
  else if j.point = 23 ∨ 27 ≤ j.point ∨ 15 < j.x then none
  else some (16 * j.y + j.x)

/-- Whether an injection aims at a site. -/
def aimsAt (site : Nat) (j : Injection) : Bool := injSite j == some site

end Sys2Proof.Machine
end

