-- ==== Sys2Proof/Machine/Sites.lean ====
section
/-! DEFINITION. The floor plan record and its changes (R25 to R52, R538 to R545). -/

namespace Sys2Proof.Machine

/-! ## Sites -/

/-- The fuses of a site's die. -/
def fuseOf (s : State) (i : Nat) : DieFuse := s.fuses.dies.getD i (refDie i)
/-- The fuses of the king post. -/
def kingFuse (s : State) : DieFuse := fuseOf s (kingSite s)
/-- The population map that governs (R26). -/
def popMap (s : State) : List Bool := if s.fp.kingAlt then s.fuses.popMap9 else s.fuses.popMap4
/-- The variant code of the panel (Table 0-2). -/
def variantOf (s : State) : Nat := (kingFuse s).variant.toNat
/-- The entry of a site. -/
def entryAt (s : State) (i : Nat) : SiteEntry := s.fp.entries.getD i (siteUnbuilt i)
/-- Whether a site holds a die with a site eFuse (R487). -/
def isDieSite (i : Nat) : Bool := 1 ≤ placeRole i && placeRole i ≤ 4
/-- Whether a state lets bays, partitions and memory commands use the unit (Table 1-8). -/
def usableState (x : SiteState) : Bool := x == .good || x == .partialUse
/-- Whether a site is in state good or partial. -/
def siteUsable (s : State) (i : Nat) : Bool := usableState (entryAt s i).state
/-- Whether a site is absent. -/
def siteAbsent (s : State) (i : Nat) : Bool := (entryAt s i).state == .absent
/-- Whether a core is good on a die in state good or partial (R32). -/
def coreUsable (s : State) (k : Nat) : Bool :=
  let e := entryAt s (siteOfCore k)
  usableState e.state && bitAt e.coreGood.toNat (coreBit k)
/-- The state with the power of a site changed. -/
def modPwr (i : Nat) (f : SitePwr → SitePwr) (s : State) : State :=
  { s with pwr := { s.pwr with sites := mapSet sitePwrOff s.pwr.sites i (f (pwrOf s i)) } }
/-- Whether a site is powered: management dies and keystones by the auxiliary rail (R488), others when they are on or
in self-refresh. -/
def sitePowered (s : State) (i : Nat) : Bool :=
  if isDieSite i then
    (match (pwrOf s i).mode with | .on => true | .selfRefresh => true | _ => false)
  else s.pwr.good
/-- Whether the site's die is in die reset (R309). -/
def siteInReset (s : State) (i : Nat) : Bool := (pwrOf s i).inReset

/-- All 64 cores good. -/
def allCores : BitVec 64 := BitVec.allOnes 64

/-- Width code of a LANES byte (Table 1-7). -/
def laneWidth (b : Nat) : Nat := fld b 5 4

/-- Whether a unit holds its full complement (Table 1-8). -/
def isWhole (e : SiteEntry) : Bool :=
  if e.role = 1 then e.coreGood == allCores
  else if e.role = 2 then e.capacity == 65536
  else if e.role = 4 then e.capacity == 16384
  else if e.role = 3 then (List.range 4).all (fun n => laneWidth (fld e.lanes.toNat (8 * n + 7) (8 * n)) == 3)
  else true

/-- Good when whole, partial otherwise. -/
def inServiceState (e : SiteEntry) : SiteState := if isWhole e then .good else .partialUse

/-- An entry in service. -/
def entryInService (e : SiteEntry) : SiteEntry := { e with state := inServiceState e, reason := 0 }
/-- An entry with a state and a reason. -/
def entrySet (st : SiteState) (reason : Nat) (e : SiteEntry) : SiteEntry := { e with state := st, reason := reason }

/-- The default state of R35 for a compute die that passed its self-test; other dies are good or partial. -/
def entryDefault (reserved : Bool) (e : SiteEntry) : SiteEntry :=
  if e.role = 1 then
    if e.coreGood = 0 then entrySet .failed 6 e
    else if e.coreGood = allCores then entrySet (if reserved then .reserve else .good) 0 e
    else entrySet .fenced 12 e
  else entryInService e

/-- The state with a site's entry changed. -/
def modEntry (i : Nat) (f : SiteEntry → SiteEntry) (s : State) : State :=
  { s with fp := { s.fp with entries := modAt s.fp.entries i f } }

/-! ## The header (Table 1-6) -/

/-- Set bits of a 64-bit number. -/
def popCount (w v : Nat) : Nat := ((List.range w).filter (fun i => bitAt v i)).length

/-- Entries that a condition names. -/
def countEntries (s : State) (f : SiteEntry → Bool) : Nat := (s.fp.entries.filter f).length

/-- FULL_GOOD. -/
def fullGood (s : State) : Nat :=
  countEntries s (fun e => e.role == 1 && e.coreGood == allCores
    && (e.state == .good || e.state == .reserve || e.state == .fenced))
/-- IN_USE. -/
def inUse (s : State) : Nat := countEntries s (fun e => e.role == 1 && usableState e.state)
/-- RESERVE. -/
def reserveCount (s : State) : Nat := countEntries s (fun e => e.role == 1 && e.state == .reserve)
/-- STACKS. -/
def stackCount (s : State) : Nat := countEntries s (fun e => e.role == 2 && usableState e.state)
/-- WSTORE. -/
def wstoreCount (s : State) : Nat := countEntries s (fun e => e.role == 4 && usableState e.state)
/-- LINKS: links with active width x1 or wider. -/
def linkCount (s : State) : Nat :=
  s.fp.entries.foldl (fun n e =>
    n + ((List.range 4).filter (fun j => decide (0 < laneWidth (fld e.lanes.toNat (8 * j + 7) (8 * j))))).length) 0
/-- USABLE_CORES. -/
def usableCores (s : State) : Nat :=
  s.fp.entries.foldl (fun n e => if e.role = 1 ∧ usableState e.state then n + popCount 64 e.coreGood.toNat else n) 0
/-- Below rated (R38). -/
def belowRated (s : State) : Bool :=
  decide (fullGood s < 144) || decide (stackCount s < (if variantOf s = 3 then 16 else 32))
/-- The fence list differs from the factory default, which holds nothing (DEDUCED, log entry 16). -/
def fencesDiffer (s : State) : Bool := !s.boot.hostFences.isEmpty
/-- STATUS of the header. -/
def recordStatus (s : State) : Nat := b2n (belowRated s) + 2 * b2n (fencesDiffer s) + 4 * b2n s.fp.kingAlt

/-- FLAGS of an entry (Table 1-7). -/
def entryFlags (s : State) (i : Nat) (e : SiteEntry) : Nat :=
  if e.role = 5 then b2n (i == kingSite s)
  else if e.role = 2 then 2 * b2n (fuseOf s i).embEnable
  else if e.role = 1 then 4 * b2n (fuseOf s i).reserveDesig
  else 0

/-- The 64 bytes of a site entry (Table 1-7). -/
def entryBytes (s : State) (i : Nat) (e : SiteEntry) : List Byte :=
  let f := fuseOf s i
  let bare := e.role == 6 || e.state == .absent
  natLe 1 (siteX i) ++ natLe 1 (siteY i) ++ natLe 1 e.role ++ natLe 1 (siteStateCode e.state) ++ natLe 1 e.reason
    ++ natLe 1 (quadrantOf i) ++ natLe 1 e.part ++ natLe 1 (entryFlags s i e) ++ natLe 8 e.coreGood.toNat
    ++ natLe 4 e.capacity.toNat ++ natLe 4 e.lanes.toNat
    ++ natLe 8 (if bare then 0 else f.dieSerial.toNat) ++ natLe 4 (if bare then 0 else f.assyLot.toNat)
    ++ natLe 4 e.entryGen.toNat ++ copies 24 0

/-- The header with a CRC field (Table 1-6). -/
def recordHeader (s : State) (crc : Nat) : List Byte :=
  natLe 2 1 ++ natLe 2 64 ++ natLe 4 s.boot.generation.toNat ++ natLe 2 224 ++ natLe 1 (variantOf s)
    ++ natLe 1 (kingFuse s).stepping.toNat ++ natLe 2 (fullGood s) ++ natLe 2 (inUse s) ++ natLe 2 (reserveCount s)
    ++ natLe 1 (stackCount s) ++ natLe 1 (linkCount s) ++ natLe 1 (wstoreCount s) ++ natLe 1 (recordStatus s)
    ++ copies 2 0 ++ natLe 8 (kingFuse s).panelSerial.toNat ++ natLe 8 s.fp.changeTick ++ natLe 4 (usableCores s)
    ++ copies 16 0 ++ natLe 4 crc

/-- The 14,400 bytes of the record (R30, R42). -/
def recordBytes (s : State) : List Byte :=
  let body := (s.fp.entries.zipIdx).flatMap (fun p => entryBytes s p.2 p.1)
  recordHeader s (crc32 (recordHeader s 0 ++ body)) ++ body

/-! ## Changes of the record (R39 to R41, R545) -/

/-- The next GENERATION: never 0 (R39). -/
def nextGeneration (g : BitVec 32) : BitVec 32 := if g + 1 = 0 then 1 else g + 1

/-- The sites whose entries differ. -/
def changedSites (a b : List SiteEntry) : List Nat :=
  ((a.zip b).zipIdx).filterMap (fun p => if p.1.1 = p.1.2 then none else some p.2)

/-- FLOORPLAN_CHANGED: one record for each changed site, or one for the header alone (R41). -/
def planChanged (sites : List Nat) (s : State) : List EventRec :=
  let g := s.boot.generation.toNat
  if sites.isEmpty then [evPlain 0x0100 0 0 g]
  else sites.map (fun i =>
    let e := entryAt s i
    { evSite 0x0100 0 i (256 * siteStateCode e.state + e.reason) g with part := e.part })

/-- What follows an increment: the events of R41 and R545. -/
def announceChange (sites : List Nat) (below reserves : Bool) (s : State) : State :=
  let g := s.boot.generation.toNat
  let s := raise (planChanged sites s) s
  let s := if below = belowRated s then s
    else raise1 (evPlain 0x0A01 0 (b2n below) (fullGood s + 2 ^ 16 * stackCount s + 2 ^ 32 * g)) s
  if reserves && reserveCount s == 0 then raise1 (evPlain 0x0A02 0 0 g) s else s

/-- One firmware action on the record (R39, R40): where it changes something, GENERATION increments once, the changed
entries carry it, and its events are raised. Before the record is built nothing is recorded. -/
def recordChange (f : State → State) (s : State) : State :=
  let t := f s
  if !s.fp.built then t
  else
    let sites := changedSites s.fp.entries t.fp.entries
    if sites.isEmpty && recordStatus s == recordStatus t then t
    else
      let g := nextGeneration s.boot.generation
      let t := { t with
        boot := { t.boot with generation := g }
        fp := { t.fp with
          changeTick := tickOf t
          entries := t.fp.entries.zipIdx.map (fun p =>
            if sites.contains p.2 then { p.1 with entryGen := g } else p.1) } }
      announceChange sites (belowRated s) (decide (0 < reserveCount s)) t

/-- Several changes of the record that one firmware action makes: one step, with one increment and one event (R40). -/
def oneChange (f : State → State) (s : State) : State :=
  recordChange (fun s =>
    let t := f { s with fp := { s.fp with built := false } }
    { t with fp := { t.fp with built := s.fp.built } }) s

/-! ## The persistent fence list (R36, R37) -/

/-- The host's last fence or unfence of a site. -/
def recordFence (i : Nat) (f : HostFence) (s : State) : State :=
  { s with boot := { s.boot with hostFences := mapPut s.boot.hostFences i f } }
/-- A failure with a reason of 6 to 10 persists (R37). -/
def recordFailure (i reason : Nat) (s : State) : State :=
  if 6 ≤ reason ∧ reason ≤ 10 then { s with boot := { s.boot with failures := mapPut s.boot.failures i reason } } else s
/-- A persistent failure entry is removed. -/
def dropFailure (i : Nat) (s : State) : State :=
  { s with boot := { s.boot with failures := mapDel s.boot.failures i } }

/-! ## Identity validation (R27) and self-test -/

/-- The reason for which a die that answers fails validation, 0 for none. -/
def identityReason (s : State) (i : Nat) : Nat :=
  let f := fuseOf s i
  if f.role.toNat ≠ placeRole i then 1
  else if f.siteX.toNat ≠ siteX i ∨ f.siteY.toNat ≠ siteY i then 2
  else if f.panelSerial ≠ (kingFuse s).panelSerial then 3
  else if f.stepping ≠ (kingFuse s).stepping then 4
  else 0

/-- The reason for which validation and self-test fail a die, 0 for none. -/
def testReason (s : State) (i : Nat) (r : SelfTest) : Nat :=
  if !r.answers then 5
  else if identityReason s i ≠ 0 then identityReason s i
  else if !r.pass then 6
  else if placeRole i = 1 ∧ r.coreGood = 0 then 6
  else 0

/-- The LANES byte of a link (Table 1-7). -/
def laneByte (x : Link) : Nat := x.mask % 16 + 16 * x.width

/-- The LANES bytes of the four links of a link die (R401). -/
def siteLanes (s : State) (i : Nat) : BitVec 32 :=
  BitVec.ofNat 32 ((List.range 4).foldl (fun v n =>
    v + laneByte (mapGetD s.links.links (4 * linkDieOfSite i + n) linkZero) * 256 ^ n) 0)

/-- What a self-test finds goes into the entry: good cores and capacity by role. The LANES of a link die are those of its links
(R401). -/
def entryContents (s : State) (i : Nat) (r : SelfTest) (e : SiteEntry) : SiteEntry :=
  { e with
    coreGood := if e.role = 1 then r.coreGood else 0
    capacity := if e.role = 2 ∨ e.role = 4 then r.capacity else 0
    lanes := if e.role = 3 then siteLanes s i else 0 }

/-! ## Failure after start-up (R49) -/

/-- LANES of a link die that fails or is reset read 0 (R401). -/
def entryDark (e : SiteEntry) : SiteEntry := if e.role = 3 then { e with lanes := 0 } else e

/-- A die fails with a reason; what is known of it stays, but the links of a link die are down. An absent or a failed die stays
as it is. -/
def failEntry (i reason : Nat) (s : State) : State :=
  let e := entryAt s i
  if e.state = .absent ∨ e.state = .failed then s
  else recordFailure i reason (modEntry i (fun e => entryDark (entrySet .failed reason e)) s)

/-- A compute die's entry after a core of it failed (R49). -/
def entryLoseCore (b : Nat) (e : SiteEntry) : SiteEntry :=
  let g := e.coreGood &&& ~~~((1 : BitVec 64) <<< b)
  let e' := { e with coreGood := g }
  if e.state = .absent ∨ e.state = .failed then e'
  else if g = 0 then entrySet .failed 7 e'
  else
    match e.state with
    | .reserve => entrySet .fenced 12 e'
    | .good => entrySet .partialUse 0 e'
    | _ => e'

/-- A core fails: its CORE_GOOD bit clears, the counts are recounted, and a failure is logged (R49). -/
def failCore (k : Nat) (inj : Bool) (s : State) : State :=
  let i := siteOfCore k
  if !bitAt (entryAt s i).coreGood.toNat (coreBit k) then s
  else
    let s := recordChange (fun s =>
      let s := modEntry i (entryLoseCore (coreBit k)) s
      let e := entryAt s i
      if e.state = .failed ∧ e.reason = 7 then recordFailure i 7 s else s) s
    logAdd { logFailure i 7 inj with cx := coreX k, cy := coreY k } s

/-- A fault of a bay from outside its cycles, at the cycle that now runs. -/
def faultNow (code k : Nat) (b : Bay) : Bay := faultBay code k (b.count - 1) b

/-- The bays whose core set lies partly on a site. -/
def baysOnSite (s : State) (i : Nat) : List Nat :=
  (s.bays.filter (fun p => (bayCores p.2).any (fun k => siteOfCore k == i))).map (fun p => p.1)

/-- Every bay with cores on a lost die takes a fault (R50, R497). -/
def faultDie (code i : Nat) (s : State) : State :=
  (baysOnSite s i).foldl (fun s n => modBay n (fun b =>
    match (bayCores b).find? (fun k => siteOfCore k == i) with
    | some k => faultNow code k b
    | none => b) s) s

end Sys2Proof.Machine
end

