-- ==== Sys2Proof/Machine/CoreErrors.lean ====
section
/-! DEFINITION. Errors that the codes of a core's stores and paths find, and their report (R537 to R540, R550, R556,
R557). -/

namespace Sys2Proof.Machine

/-- The bay and the partition of a core, for a log record. -/
def logCore (k : Nat) (s : State) (r : LogRec) : LogRec :=
  let r := { r with x := siteX (siteOfCore k), y := siteY (siteOfCore k), cx := coreX k, cy := coreY k }
  match bayOfCore s k with
  | some (i, b) => { r with bay := i, part := b.part }
  | none => r

/-- A happening on a unit of a site is logged; UNCORRECTABLE is raised once per word and unit in a tick (R540). An embedding
source adds a record with its RES_ADDR (R345, Table 15-15e). -/
def reportUncorrectable (r : LogRec) (s : State) (res : Option Nat := none) : State :=
  let seen := alreadyLogged r s
  let s := logAdd r s
  let e := { evBlank 0x0301 with unit := r.unit, x := r.x, y := r.y, part := r.part, arg := r.addr }
  if seen then s else raise (e :: (match res with | some a => [{ e with arg := a }] | none => [])) s

/-- A corrected word of a site's memory: its log record, and one point for the first correction of the word in the tick
(R540, R546, Table 19-5). -/
def reportCorrected (site : Nat) (r : LogRec) (s : State) : State :=
  let r := { r with cls := 1 }
  if alreadyLogged r s then logAdd r s else scoreWear r.injected site 0 100 (logAdd r s)

/-- The core would use data that cannot be corrected: its bay takes fault 4 in cycle `t` (R269, R539). -/
def coreError (k t cls unit off : Nat) (inj : Bool) (s : State) : State :=
  let s := faultCoreBay 4 k t (modCore k (fun c => { c with st := setCause 3 c.st }) s)
  reportUncorrectable (logCore k s { logBlank cls with injected := inj, unit := unit, addr := off }) s

/-- Whether an injection aims at a core. -/
def aimsCore (k : Nat) (j : Injection) : Bool := aimsAt (siteOfCore k) j && j.sub == coreBit k

/-- The parity of a configuration store or queue of a core is examined (CFG_PARITY): 0 operation store, 1 slot table,
2 chain table, 3 peg table, 4 token queues, 5 steering queues. -/
def examineParity (k t store : Nat) (s : State) : State :=
  let r := examine 6 (fun j => aimsCore k j && j.sub2 == store) s
  if r.1 then coreError k t 2 0xFF 0 true r.2 else s

/-- The accumulator banks and the tile queue are examined (ACC_UE): 0 and 1 the banks, 2 to 5 the entries of the
queue. -/
def examineAcc (k t place : Nat) (s : State) : State :=
  let r := examine 5 (fun j => aimsCore k j && j.addr == place) s
  if r.1 then coreError k t 2 0xFF place true r.2 else s

/-- The CRC of the items that a core takes locally on a layer is examined (SF_CRC). -/
def examineItem (k t layer : Nat) (s : State) : State :=
  let r := examine 7 (fun j => aimsCore k j && j.sub2 == layer) s
  if r.1 then coreError k t 3 0xFF 0 true r.2 else s

/-- The CRC of an entry at the head of a crossing is examined (XING_CRC). -/
def examineXing (k t side : Nat) (s : State) : State :=
  let r := examine 8 (fun j => aimsCore k j && j.sub2 == side) s
  if r.1 then coreError k t 3 0xFF 0 true r.2 else s

/-- A row that reported an uncorrectable error will be retested (R542). -/
def suspectRow (k r : Nat) (s : State) : State :=
  modCore k (fun c => { c with suspects := if c.suspects.contains r then c.suspects else c.suspects ++ [r] }) s

/-- Whether a read of some rows of a core would meet a word that cannot be corrected. -/
def rowsBad (s : State) (k : Nat) (rows : List Nat) : Bool :=
  rows.any (fun d =>
    let q := rowPlace k d
    (coreOf s q.1).badWords.any (fun w => w / 64 == q.2)
      || (examineInj 2 (fun j => aimsCore q.1 j && j.addr / 512 == q.2) s).1.isSome)

/-- One row of a core is read in cycle `t` by core `k`: a word that cannot be corrected stops the bay, and an armed
SP_CE or SP_UE there fires. -/
def examineRow (k d t : Nat) (s : State) : State :=
  let q := rowPlace k d
  let aimed (j : Injection) : Bool := aimsCore q.1 j && j.addr / 512 == q.2
  let ce := examineInj 1 aimed s
  let s := match ce.1 with
    | some j => reportCorrected (siteOfCore q.1)
        (logCore q.1 ce.2 { logBlank 1 with injected := true, unit := coreBit q.1, addr := j.addr }) ce.2
    | none => s
  let ue := examineInj 2 aimed s
  let s := ue.2
  match (coreOf s q.1).badWords.find? (fun w => w / 64 == q.2) with
  | some w =>
    coreError k t 2 (coreBit q.1) (8 * w) false (suspectRow q.1 q.2 s)
  | none =>
    match ue.1 with
    | some j => coreError k t 2 (coreBit q.1) j.addr true (suspectRow q.1 q.2 s)
    | none => s

/-- Scheduled reads of rows: each row with its cycle (R537, R539). -/
def checkReads (k : Nat) (reads : List (Nat × Nat)) (s : State) : State :=
  reads.foldl (fun s p => examineRow k p.1 p.2 s) s

end Sys2Proof.Machine
end

