-- ==== Sys2Proof/Machine/Flags.lean ====
section
/-! DEFINITION. The status registers of a core and what the die supervisor does with them (Tables 2-8, 4-3,
5-5, 6-3, 7-3, 7-8, 8-6; R87, R139, R166, R181, R194, R214, R248). -/

namespace Sys2Proof.Machine

/-- The matrix engine is idle in cycle `t`, and so the vector engine and the scan unit (R58). -/
def enginesIdle (c : Core) (t : Nat) : Bool :=
  c.eng.mxQueue.isEmpty && c.eng.vxQueue.isEmpty && c.eng.scQueue.isEmpty
    && decide (c.eng.mxIdle ≤ t) && decide (c.eng.vxIdle ≤ t) && decide (c.eng.scIdle ≤ t)

/-- The access engine is idle (R58). -/
def accessIdle (c : Core) : Bool := c.ax.queue.isEmpty && c.ax.started.isEmpty && c.ax.bursts.isEmpty

/-- The access engine is idle for a drain (R268). -/
def accessDrained (c : Core) : Bool := c.ax.started.isEmpty && c.ax.bursts.isEmpty

/-- The core has finished its stream (R58). -/
def coreDone (c : Core) (t : Nat) : Bool := c.seq.issue.finished && enginesIdle c t && accessIdle c

/-- STATE of SEQ_STATUS (Table 2-8). A bay that drains or changes its point has no code of its own there
(DEDUCED, log entry 14). -/
def seqStateCode (s : State) (k : Nat) : Nat :=
  match bayOfCore s k with
  | none => 0
  | some (_, b) =>
    match b.mode with
    | .loaded => 1
    | .running => if coreDone (coreOf s k) b.count then 4 else 2
    | .draining => 2
    | .held => 3
    | .pointChange => 3
    | .done => 4
    | .faultHold => 5
    | .stopped => 6

/-- SEQ_STATUS (Table 2-8) of a core whose bay has run the cycles below `t`. -/
def seqStatus (c : Core) (stateCode t : Nat) : BitVec 64 :=
  BitVec.ofNat 64 (c.st.staleTokens * 2 ^ 52 + c.st.tokenMiss * 2 ^ 40 + c.st.tqDrop * 2 ^ 32
    + (epochAt c t).toNat * 2 ^ 28 + c.seq.issue.loops.length * 2 ^ 24 + c.seq.issue.idx % 2048 * 2 ^ 13
    + c.st.faultCause * 2 ^ 8 + b2n c.st.clip * 2 ^ 7 + b2n c.st.ctrOverflow * 2 ^ 6
    + b2n c.st.ctrUnderflow * 2 ^ 5 + stateCode)

/-- BANKn_STATE (Table 4-3): accumulating between start and bank-complete cycle, draining for the 32 cycles
after. A bank that drains one operation while the next on it accumulates reads 1 (DESIGN CHOICE, log entry 139). -/
def bankState (c : Core) (n : Nat) : Nat :=
  if c.eng.mxRuns.any (fun m => mxBank m.word == n) then 1
  else if c.eng.drains.any (fun d => d.bank == n) then 2 else 0

/-- The tiles in queue when cycles below `t` have run (R133, R135). -/
def tilesAt (c : Core) (t : Nat) : List Tile :=
  c.eng.tiles.filter (fun x => match x.gone with | some g => decide (t ≤ g) | none => true)

/-- MX_STATUS (Table 4-3). -/
def mxStatus (c : Core) (t : Nat) : BitVec 64 :=
  BitVec.ofNat 64 (c.st.tileOverrun * 2 ^ 36 + c.st.tileUnderrun * 2 ^ 24 + (tilesAt c t).length * 2 ^ 20
    + bankState c 1 * 2 ^ 18 + bankState c 0 * 2 ^ 16 + c.st.tilesOut)

/-- BUSY of a unit whose last busy cycle is `last`, 0 where nothing has started since the load: an operation starts in cycle 1
at the earliest (R54, R55). -/
def isBusy (last t : Nat) : Bool := decide (0 < last) && decide (t ≤ last)

/-- VX_STATUS (Table 5-5). -/
def vxStatus (c : Core) (t : Nat) : BitVec 64 :=
  let f := flagsAt c t
  BitVec.ofNat 64 (c.st.chains * 2 ^ 24 + c.st.vlClamps * 2 ^ 12 + c.eng.vxQueue.length * 2 ^ 4
    + b2n (isBusy c.eng.vxBusy t) * 2 ^ 3 + b2n f.sat * 4 + b2n f.nanc * 2 + b2n f.ovf)

/-- SC_STATUS (Table 6-3). -/
def scStatus (c : Core) (t : Nat) : BitVec 64 :=
  BitVec.ofNat 64 (c.st.calls * 2 ^ 24 + c.st.stepsClamps * 2 ^ 12 + c.eng.scQueue.length * 2 ^ 4
    + b2n (isBusy c.eng.scBusy t) * 2 ^ 3)

/-- The head descriptor waits on its tag (R202). -/
def axWaiting (c : Core) (t : Nat) : Bool :=
  match c.ax.queue with
  | [] => false
  | d :: _ => dsWait d && (if dsOp d = 1 then tagAt c (dsSlot d) t else !tagAt c (dsSlot d) t)

/-- AX_STATUS (Table 7-8). -/
def axStatus (c : Core) (t : Nat) : BitVec 64 :=
  BitVec.ofNat 64 (c.st.axFault * 2 ^ 60 + c.st.tagWrong * 2 ^ 48 + c.st.tagClash * 2 ^ 40
    + c.st.bankHolds * 2 ^ 32 + c.st.descDone * 2 ^ 16 + (256 - descFree c) * 2 ^ 7
    + c.ax.bursts.length * 2 ^ 2 + b2n (axWaiting c t) * 2)

/-- SLOT_TAGS (Table 7-3). -/
def slotTags (c : Core) (t : Nat) : BitVec 64 :=
  BitVec.ofNat 64 (packElems 1 ((List.range 64).map (fun n => b2n (slotValid (slotDesc c n) && tagAt c n t))))

/-- RT_STATUS (Table 8-6). -/
def rtStatus (c : Core) : BitVec 64 :=
  BitVec.ofNat 64 (c.st.steerMiss * 2 ^ 52 + c.st.steerDrop * 2 ^ 44 + c.st.redMiss * 2 ^ 32
    + c.st.lost * 2 ^ 20 + c.st.staleIn * 2 ^ 12 + c.st.xkindMiss * 2 ^ 4 + c.rt.run.page % 8 * 2)

/-- The RC counters, in the order of Table 9-12. -/
def rcCounters (c : CoreStatus) : List Nat :=
  [c.staleTokens, c.tokenMiss, c.tqDrop, c.tileOverrun, c.tileUnderrun, c.tilesOut, c.chains, c.vlClamps, c.calls,
    c.stepsClamps, c.tagWrong, c.tagClash, c.bankHolds, c.descDone, c.steerDrop, c.redMiss, c.lost, c.staleIn,
    c.xkindMiss]

/-- The status after a read: RC counters clear; the sticky fields and STEER_MISS stay. -/
def rcClear (c : CoreStatus) : CoreStatus :=
  { c with staleTokens := 0, tokenMiss := 0, tqDrop := 0, tileOverrun := 0, tileUnderrun := 0, tilesOut := 0,
           chains := 0, vlClamps := 0, calls := 0, stepsClamps := 0, tagWrong := 0, tagClash := 0,
           bankHolds := 0, descDone := 0, steerDrop := 0, redMiss := 0, lost := 0, staleIn := 0, xkindMiss := 0 }

/-- The die supervisor reads a core's registers: each RC counter is added to its 64-bit total and clears. -/
def supervisorRead (c : Core) : Core :=
  { c with totals := (c.totals.zip (rcCounters c.st)).map (fun p => (p.1 + p.2) % 2 ^ 64), st := rcClear c.st }

end Sys2Proof.Machine
end

