-- ==== Sys2Proof/Machine/BayOps.lean ====
section
/-! DEFINITION. The shared operations of bays: limits and headroom, holds and their end, crossings, the stop of a bay,
and the form of the bay commands (R249 to R275, R493 to R496). -/

namespace Sys2Proof.Machine

/-! ## Power of a die (R489, R493, R496) -/

/-- The phases of a domain of a role: 0 LOGIC, 1 ARRAY, 2 LINK or MEMIF (Table 17-2). -/
def domainPhases (role : Nat) : Nat → Nat
  | 0 => if role = 1 then 16 else 4
  | 1 => if role = 2 then 6 else if role = 3 then 0 else 4
  | _ => if role = 3 then 8 else if role = 2 then 4 else 0

/-- The working phases of a domain as a mask. -/
def phaseMask (s : State) (i n : Nat) : Nat :=
  ((pwrOf s i).phases.getD n none).getD (2 ^ domainPhases (placeRole i) n - 1)

/-- The number of working phases of a domain. -/
def workingPhases (s : State) (i n : Nat) : Nat := popCount 16 (phaseMask s i n)

/-- The effective logic ceiling in 0.1 A (R493). -/
def effCeiling (s : State) (i : Nat) : Nat :=
  min (min 1400 (100 * workingPhases s i 0)) (match (pwrOf s i).ceilHost with | some a => 10 * a | none => 1400)

/-- The array limit in 0.1 A (R493). -/
def arrayLimit (s : State) (i : Nat) : Nat := min 300 (100 * workingPhases s i 1)

/-- The highest 10 µs average of a quadrant in the last 10 ms, in mA (R504). -/
def quadPeak (s : State) (n : Nat) : Nat :=
  ((s.pwr.quads.getD n quadZero).peaks.filter (fun p => decide (s.now ≤ p.1 + 10000000))).foldl
    (fun m p => max m p.2) 0

/-- F2100 headroom of a compute die (R496). -/
def hasHeadroom (s : State) (i : Nat) : Bool :=
  effCeiling s i == 1400 && arrayLimit s i == 300 && !limiterOn s i
    && (match (pwrOf s i).lastDemand with | some t => decide (t + 100000000 < s.now) | none => true)
    && decide (quadPeak s (quadrantOf i) < 140000)

/-- The coolant inlet exceeds 30 °C (R253). -/
def inletTooWarm (s : State) : Bool := (match s.cool.inlet with | some x => decide (300 < x) | none => true)

/-- The checks of R253 for a requested point. -/
def pointChecks (s : State) (b : Bay) (p : Nat) : List (Bool × Nat) :=
  [(b.hazard && decide (3 < p), stDenied), (p == 5 && inletTooWarm s, stDenied),
   (p == 5 && !(baySites b).all (hasHeadroom s), stNoHeadroom)]

/-- The point whose voltage a bay holds its dies' rails at: its own, or that of a pending change for which they have been
raised. -/
def heldPoint (b : Bay) : Nat :=
  match b.change with
  | some p => if p.stage = .railRising then b.point else max b.point p.target
  | none => b.point

/-- The point whose voltage a die's rail has: the highest among the bays that touch the die, F600 where none does
(R254). -/
def railPoint (s : State) (i : Nat) : Nat :=
  s.bays.foldl (fun m p => if (baySites p.2).contains i then max m (heldPoint p.2) else m) 1

/-- Whether a point raises the rail of a die under the bay. -/
def raisesRail (s : State) (b : Bay) (p : Nat) : Bool := (baySites b).any (fun i => decide (railPoint s i < p))

/-- Whether a bay has reached F2100 and runs at it (R253, R534). -/
def boosted (b : Bay) : Bool := b.point == 5 && b.mode != .loaded && b.mode != .stopped

/-- A bay none of whose conditions for F2100 has lapsed may report the next lapse (R253). -/
def settleBoost (s : State) : State :=
  { s with bays := s.bays.map (fun p => (p.1, { p.2 with
    boostTold := (p.2.boostTold.1 && inletTooWarm s, p.2.boostTold.2 && !(baySites p.2).all (hasHeadroom s)) })) }

/-- Every die under a bay is powered (R506). -/
def bayPowered (s : State) (b : Bay) : Bool := (baySites b).all (sitePowered s)

/-! ## Frozen time (R273) -/

/-- The bay is frozen from now on, and its oscillator runs on. -/
def beginFreeze (s : State) (b : Bay) : Bay := { beginIdle s b with frozenAt := some (b.frozenAt.getD s.now) }
/-- The frozen time up to now. -/
def frozenNow (s : State) (b : Bay) : Nat :=
  b.frozenNs + (match b.frozenAt with | some t => s.now - t | none => 0)
/-- The bay runs from now on. -/
def endFreeze (s : State) (b : Bay) : Bay :=
  { endIdle s b with frozenNs := frozenNow s b, frozenAt := none, heldLong := false }

/-- Whether everything due before cycle `t` is done in a bay. -/
def bayQuiet (s : State) (b : Bay) (t : Nat) : Bool := (bayCores b).all (coreQuiet s (b.mode == .draining) t)

/-- A bay's cores changed. -/
def modCores (b : Bay) (f : Core → Core) (s : State) : State := (bayCores b).foldl (fun s k => modCore k f s) s

/-- The rows that the access engines had placed in cycles to come have moved up by the periods in which no cycle ran
(R204). -/
def wakeRows (i : Nat) (s : State) : State :=
  match bayOf s i with
  | none => s
  | some b =>
    let d := idleNow s b - b.idlePeriods
    modCores b (fun c => { c with
      writes := c.writes.map (fun w => if w.unit = .access then { w with stamp := max (min w.stamp b.count) (w.stamp - d) } else w) }) s

/-! ## Holds (R258 to R262) -/

/-- A held bay takes no condition but HOST; one that runs freezes after the 6th cycle. -/
def addHost (b : Bay) : Bay :=
  if b.mode == .held then { b with conds := if b.conds.contains .host then b.conds else b.conds ++ [.host] }
  else requestHold .host (b.count - 1) b

/-- Whether a core's cycle `t` is still to run. -/
def cycleAhead (s : State) (k t : Nat) : Bool :=
  match bayOfCore s k with
  | some (_, b) => decide (b.count ≤ t)
  | none => false

/-- A condition that is met claims what its check would have claimed (R259); there is nothing to claim for a peg entry or
a mark that has run meanwhile. -/
def claimCond (cond : HoldCond) (s : State) : State :=
  match cond with
  | .accessQueue k due =>
    modCore k (fun c =>
      let n := match c.seq.recs.find? (fun r => r.due == due) with | some r => aeCount (opAt c r.idx) | none => 0
      { c with
        seq := { c.seq with recs := c.seq.recs.map (fun r => if r.due == due then { r with reserved := n } else r) }
        ax := { c.ax with reserved := c.ax.reserved + n } }) s
  | .xdata k d t turn =>
    if !cycleAhead s k (if turn then t - 1 else t) then s
    else
      let s := modXingIn k d (fun x => { x with takeClaims := x.takeClaims + 1 }) s
      modCore k (fun c => { c with rt := { c.rt with
        claims := c.rt.claims ++ [⟨t, d, if turn then .turn else .take⟩] } }) s
  | .xcredit k d t =>
    if !cycleAhead s k t then s
    else
      let s := modXingOut k d (fun x => { x with driveClaims := x.driveClaims + 1 }) s
      modCore k (fun c => { c with rt := { c.rt with claims := c.rt.claims ++ [⟨t, d, .drive⟩] } }) s
  | .markCredit k d t =>
    if !cycleAhead s k t then s
    else
      let s := modXingOut k d (fun x => { x with driveClaims := x.driveClaims + 1 }) s
      modCore k (fun c => { c with seq := { c.seq with
        recs := c.seq.recs.map (fun r => if r.due == t then { r with claims := r.claims ++ [d] } else r) } }) s
  | _ => s

/-- Evaluates the conditions in order, each met one with its claim: those that are not met, and the state with the claims
of the others. -/
def evalConds (i : Nat) : List HoldCond → State → List HoldCond × State
  | [], s => ([], s)
  | c :: cs, s =>
    match bayOf s i with
    | none => ([], s)
    | some b =>
      if condMet s b c then evalConds i cs (claimCond c s)
      else
        let r := evalConds i cs s
        (c :: r.1, r.2)

/-- The conditions that keep a frozen bay: those of a hold that is due now, and the HOST condition of a bank stall's
trap. -/
def holdsNow (b : Bay) : List HoldCond :=
  match b.freezeDue with
  | some n => if b.count ≤ n then b.conds.filter (fun c => c == .trap) else b.conds
  | none => b.conds

/-- A frozen bay sees its conditions: each that is met claims what it checked, and stays met (R259). -/
def settleHold (i : Nat) (s : State) : State :=
  match bayOf s i with
  | none => s
  | some b =>
    if b.mode != .held then s
    else
      let now := holdsNow b
      let r := evalConds i now s
      modBay i (fun b => { b with conds := b.conds.filter (fun c => !now.contains c || r.1.contains c) }) r.2

/-- Every frozen bay sees its conditions. -/
def settleHolds (s : State) : State := s.bays.foldl (fun s p => settleHold p.1 s) s

/-- The periods of a bank hold have passed. -/
def bankOver (s : State) (b : Bay) : Bool :=
  match b.bankHeld, b.frozenAt with
  | some p, some t => decide (p.periods ≤ periodsSince s t b.point)
  | _, _ => true

/-- HOLD_NOW of Table 9-11: unmet conditions by cause. -/
def holdNowBits (s : State) (i : Nat) (b : Bay) : Nat :=
  let unmet := (evalConds i b.conds s).1
  let has (f : HoldCond → Bool) : Nat := b2n (unmet.any f)
  has (fun c => match c with | .check _ _ => true | _ => false)
    + 2 * has (fun c => match c with | .accessQueue _ _ => true | _ => false)
    + 4 * b2n (b.bankHeld.isSome && !bankOver s b)
    + 8 * has (fun c => match c with | .xdata _ _ _ _ => true | _ => false)
    + 16 * has (fun c => match c with | .xcredit _ _ _ => true | .markCredit _ _ _ => true | _ => false)
    + 32 * has (fun c => match c with | .host => true | .trap => true | _ => false)
    + 64 * b2n (b.mode == .pointChange)

/-! ## Crossings (R244, R263 to R268) -/

/-- The state with every crossing that a condition names changed. -/
def modXings (p : Crossing → Bool) (f : Crossing → Crossing) (s : State) : State :=
  { s with xings := s.xings.map (fun x => if p x then f x else x) }

/-- Whether a crossing ends in a bay. -/
def touchesBay (b : Bay) (x : Crossing) : Bool := inBay b x.sender || inBay b x.recv

/-- The crossings of a bay are closed (R268): the bay's own claims end with its checks. -/
def closeXings (b : Bay) (s : State) : State :=
  modXings (touchesBay b) (fun x => { x with
    state := .closed
    driveClaims := if inBay b x.sender then 0 else x.driveClaims
    takeClaims := if inBay b x.recv then 0 else x.takeClaims }) s

/-- Whether an end of a crossing has a loaded bay whose crossings are not closed by a stop. -/
def endOpen (s : State) (k : Nat) : Bool :=
  match bayOfCore s k with
  | some (_, b) => b.mode != .draining && b.mode != .stopped
  | none => false

/-- A crossing is emptied and reopened with both XE values set (R244). -/
def reopenXing (x : Crossing) : Crossing :=
  { x with state := .opened, sendXe := x.acceptXe + 1, acceptXe := x.acceptXe + 1,
           flight := [], accepted := [], returning := [] }

/-- The entries of a crossing that its reopening discards. -/
def staleEntries (x : Crossing) : Nat := x.flight.length + x.accepted.length

/-- Entries discarded at a reopening count in STALE_IN of the receiving router. -/
def countStale (k n : Nat) (s : State) : State :=
  modCore k (fun c => { c with st := { c.st with staleIn := satInc 255 c.st.staleIn n } }) s

/-- Every crossing of a bay that both ends declare, and that no stop closes, opens (R244, R264). -/
def openXings (b : Bay) (s : State) : State :=
  let ok (x : Crossing) : Bool :=
    touchesBay b x && x.outDecl && x.inDecl && endOpen s x.sender && endOpen s x.recv
  let s' := (s.xings.filter ok).foldl (fun s x => countStale x.recv (staleEntries x) s) s
  modXings ok reopenXing s'

/-- A bay's declarations are withdrawn: what its peers declared toward it is pending (R264, R293). -/
def dropXings (b : Bay) (s : State) : State :=
  modXings (touchesBay b) (fun x => { x with
    state := .pending
    outDecl := x.outDecl && !inBay b x.sender
    inDecl := x.inDecl && !inBay b x.recv
    driveClaims := if inBay b x.sender then 0 else x.driveClaims
    takeClaims := if inBay b x.recv then 0 else x.takeClaims }) s

/-! ## The end of a stop and the end of a point change -/

/-- A pending point change completes with a status and is dropped (R606); its rail falls back with it. -/
def dropChange (i status : Nat) (s : State) : State :=
  match bayOf s i with
  | none => s
  | some b =>
    match b.change with
    | none => s
    | some p => complete p.cmd status 0 (setBay i { b with change := none } s)

/-- Step 3 of R268: the clock stops, every core takes the head's epoch plus 1, and the tokens left in token queues are
discarded and counted. -/
def stopEpoch (i : Nat) (s : State) : State :=
  match bayOf s i with
  | none => s
  | some b =>
    let e := epochAt (coreOf s (bayHead b)) b.count + 1
    let s := modCores b (fun c =>
      let c := freezeWrites b.count (settleMarks b.count (settleFlags b.count (settleCounters b.count c)))
      let n := c.seq.queues.foldl (fun n q => n + q.length) 0
      { c with
        seq := { c.seq with queues := copies 4 [], epoch := e, marks := [] }
        st := { c.st with staleTokens := satInc 4095 c.st.staleTokens n } }) s
    setBay i { endFreeze s b with
      mode := .stopped, conds := [], freezeDue := none, bankPlans := [], bankHeld := none, faultDue := none, stop := none } s

/-- The epoch of a bay's head core. -/
def headEpoch (s : State) (b : Bay) : Nat := (epochAt (coreOf s (bayHead b)) b.count).toNat

/-- Bursts and descriptors of a bay's cores that are abandoned. -/
def abandonAccess (b : Bay) (s : State) : State :=
  modCores b (fun c => { c with ax := { c.ax with started := [], bursts := [], idleAt := b.count } }) s

/-- What a stop given to a bay in each state becomes: its stop cycle, where it has one. -/
def stopCycleOf (b : Bay) (atMark : Bool) : Option Nat :=
  match b.mode with
  | .running => if atMark then none else some (b.count - 1 + 6)
  | .held => if atMark then none else some b.count
  | _ => none

/-- A stop or reconfiguration is refused while another is under way, but for one that waits for its mark and gives way to
one without AT_MARK (R268). -/
def stopBlocked (b : Bay) (atMark : Bool) : Bool :=
  match b.stop with
  | none => false
  | some q => atMark || !(q.atMark && q.stopCycle.isNone)

/-- A stop begins; one that waits for its mark completes with BUSY. -/
def beginStop (i : Nat) (b : Bay) (c : Option Cmd) (atMark : Bool) (image : Option (Nat × Nat)) (s : State) : State :=
  let s := match b.stop with | some q => completeOpt q.cmd stBusy 0 s | none => s
  setBay i { b with stop := some ⟨c, atMark, b.count - 1 + 5, stopCycleOf b atMark, s.now, image⟩ } s

/-- Whether bays of a partition are stopped without a command of their own: the panel prepares for its removal (R451), or
the partition is in reset (R481). -/
def stopsBays (s : State) (part : Nat) : Bool :=
  s.host.removing.isSome || partInReset s part

/-- A bay that must stop begins to, in each state that has a stop (R451, R481). -/
def autoStop (i : Nat) (s : State) : State :=
  match bayOf s i with
  | none => s
  | some b =>
    if stopsBays s b.part && !stopBlocked b false && [BayMode.running, .held, .done, .faultHold].contains b.mode then
      beginStop i b none false none s
    else s

/-- A bay enters fault hold (R269, R541): the hold, the plans and a stop in progress end, and each core records the cycle at
which it froze. Cores to which a lost part forwarded the clock freeze with the others (DESIGN CHOICE, log entry 138: R269 lets
them freeze earlier). -/
def enterFaultHold (i : Nat) (s : State) : State :=
  match bayOf s i with
  | none => s
  | some b =>
    let last := if b.mode == .loaded then 2 ^ 64 - 1 else b.count - 1
    let drained := b.mode == .draining
    let s := modCores b (fun c => { freezeWrites b.count (settleMarks b.count c) with frozeAt := some last }) s
    let s := setBay i { beginFreeze s b with
      mode := .faultHold, conds := [], freezeDue := none, bankPlans := [], bankHeld := none, faultDue := none
      faultCycle := some last
      stop := if drained then none else b.stop } s
    let s := match b.stop with
      | some q => if drained then completeOpt q.cmd stFault 0 s else s
      | none => s
    let s := dropChange i stFault s
    let k := b.faultCore.getD (bayHead b)
    autoStop i (raise1 { evBay 0x0201 i b.part b.fault last with cx := coreX k, cy := coreY k } s)

/-! ## The form of the bay commands (Table 9-3, R252) -/

def payBay (pay : List Byte) : Nat := leAt pay 0 2
def payPoint (pay : List Byte) : Nat := leAt pay 2 1
def payFlags (pay : List Byte) : Nat := leAt pay 3 1
def payArg (pay : List Byte) : Nat := leAt pay 8 8
def payArgLen (pay : List Byte) : Nat := leAt pay 0x10 4

/-- Which fields of Table 9-3 a command uses. -/
structure BayForm where
  point : Bool
  flag : Bool
  arg : Bool
  len : Bool
  deriving DecidableEq, Repr

/-- The checks of the payload's form: unused fields are zero, a used POINT is 1 to 5. -/
def bayFormChecks (f : BayForm) (pay : List Byte) : List (Bool × Nat) :=
  [(decide (pay.length ≠ 24), stBadLength),
   (!zeroAt pay 4 4 || !zeroAt pay 0x14 4
      || (if f.point then decide (payPoint pay = 0) || decide (5 < payPoint pay) else decide (payPoint pay ≠ 0))
      || decide (1 < payFlags pay) || (!f.flag && decide (payFlags pay ≠ 0))
      || (!f.arg && decide (payArg pay ≠ 0)) || (!f.len && decide (payArgLen pay ≠ 0)), stBadField)]

/-- The supervisors of a bay's dies. -/
def baySupervisors (b : Bay) : List Nat := (baySites b).filterMap procOfSite

/-- A bay command: its payload's form, its bay and partition, its state, its own checks, and its effect once the
supervisors of its dies run (R252, R460, R462). -/
def bayRun (f : BayForm) (states : List BayMode) (extra : Nat → Bay → State → List (Bool × Nat))
    (eff : Nat → Bay → State → State) (c : Cmd) (pay : List Byte) (s : State) : State :=
  checked c (bayFormChecks f pay) (fun s =>
    match bayOf s (payBay pay) with
    | none => failCmd c stBadField s
    | some b =>
      if b.part ≠ cmdPart c then failCmd c stDenied s
      else checked c ((!states.contains b.mode, stBusy) :: extra (payBay pay) b s)
        (needProcs (baySupervisors b) c pay (eff (payBay pay) b)) s) s

/-- Every state. -/
def anyMode : List BayMode :=
  [.loaded, .running, .held, .pointChange, .done, .draining, .stopped, .faultHold]

end Sys2Proof.Machine
end

