-- ==== Sys2Proof/Machine/Bay.lean ====
section
/-! DEFINITION. Bays: the bay commands but for loading, holds, point changes, stops and faults (R249 to R275, R293 to
R297). -/

namespace Sys2Proof.Machine

/-- A happening at a bay: it takes place when the bay is loaded and it is due there; else nothing changes (log entry 1). -/
def bayEvent (b : BayId) (time : Nat) (due : Bay → State → Bool) (eff : Bay → State → State) (s : State) : Out :=
  match bayOf s b.val with
  | none => .next s
  | some x =>
    let t := atTime time s
    if due x t then .next (eff x t) else .next s

/-! ## Holds -/

/-- BAY_FREEZE: every core has completed the cycle after which the bay freezes (R258). -/
def freezeIsDue (b : Bay) (s : State) : Bool :=
  b.mode == .running && b.freezeDue == some (b.count - 1) && decide (0 < b.count) && bayQuiet s b b.count

/-- BAY_FREEZE. -/
def execBayFreeze (b : BayId) (time : Nat) (s : State) : Out :=
  bayEvent b time freezeIsDue (fun x s =>
    settleHold b.val (setBay b.val { beginFreeze s x with mode := .held, holds := x.holds + 1 } s)) s

/-- BAY_RESUME is due when every condition of the present hold is met, the bank hold is over, and no other freeze or
fault stands at this cycle (R259, R262). -/
def resumeIsDue (i : Nat) (b : Bay) (s : State) : Bool :=
  b.mode == .held && bankOver s b && b.bankPlans.all (fun p => decide (b.count ≤ p.freeze))
    && (match b.faultDue with | some n => decide (b.count ≤ n) | none => true)
    && (evalConds i (holdsNow b) s).1.isEmpty

/-- The bay resumes: each met check has claimed what it checked (R259). -/
def resumeBay (i : Nat) (b : Bay) (s : State) : State :=
  let now := holdsNow b
  let s := wakeRows i (evalConds i now s).2
  modBay i (fun b => { endFreeze s b with
    mode := .running
    conds := b.conds.filter (fun c => !now.contains c)
    freezeDue := (match b.freezeDue with | some n => if b.count ≤ n then some n else none | none => none)
    bankHeld := none }) s

/-- BAY_RESUME. -/
def execBayResume (b : BayId) (time : Nat) (s : State) : Out :=
  bayEvent b time (resumeIsDue b.val) (resumeBay b.val) s

/-- The longer of the bank holds that stand. -/
def longerHold (a : Option BankHoldPlan) (p : BankHoldPlan) : Option BankHoldPlan :=
  match a with
  | some q => if p.periods ≤ q.periods then some q else some p
  | none => some p

/-- A bank stall counts in BANK_HOLDS, or traps with a HOST condition that outlasts the hold (R186, R295). -/
def bankStall (i : Nat) (p : BankHoldPlan) (s : State) : State :=
  match bayOf s i with
  | none => s
  | some b =>
    if b.hazard then
      let c := coreOf s p.core
      let tr : Trap := ⟨6, p.core, p.bank, p.idx, pageIn c p.freeze, p.freeze, p.periods⟩
      let b := if b.traps.length < 16 then { b with traps := b.traps ++ [tr] } else { b with trapsLost := b.trapsLost + 1 }
      setBay i { b with conds := if b.conds.contains .trap then b.conds else b.conds ++ [.trap] } s
    else modCore p.core (fun c => { c with st := { c.st with bankHolds := satInc 255 c.st.bankHolds } }) s

/-- BANK_HOLD: the bay freezes after the cycle of a plan of the core, for the periods of the plan (R262). -/
def execBankHold (k : CoreId) (t : Nat) (s : State) : Out :=
  match bayOfCore s (coreNo k) with
  | none => .next s
  | some (i, b) =>
    let mine := b.bankPlans.filter (fun p => p.core == coreNo k && p.freeze == t)
    if mine.isEmpty || !(b.mode == .running || b.mode == .held) || t + 1 ≠ b.count
        || (b.mode == .running && !bayQuiet s b b.count) then .next s
    else
      let b' := { beginFreeze s b with
        mode := .held
        holds := if b.mode == .running then b.holds + 1 else b.holds
        bankPlans := b.bankPlans.filter (fun p => !(p.core == coreNo k && p.freeze == t))
        bankHeld := mine.foldl longerHold b.bankHeld }
      .next (settleHold i (mine.foldl (fun s p => bankStall i p s) (setBay i b' s)))

/-- DROOP: a level sensed in cycle `t` lengthens the period of cycle `t` + 3 (R256). -/
def execDroop (k : CoreId) (t : Nat) (level : Fin 4) (s : State) : Out :=
  match bayOfCore s (coreNo k) with
  | none => .next s
  | some (i, b) =>
    if level.val = 0 ∨ !(b.mode == .running || b.mode == .draining) ∨ t + 1 ≠ b.count then .next s
    else
      let old := b.droops.foldl (fun m x => if x.1 = t + 3 then max m x.2 else m) 0
      .next (setBay i { b with
        droops := b.droops.filter (fun x => x.1 != t + 3) ++ [(t + 3, max old level.val)] } s)

/-- BAY_HOLD (R252, R258). -/
def doBayHold (c : Cmd) (pay : List Byte) (s : State) : State :=
  bayRun ⟨false, false, false, false⟩ [.running, .held] (fun _ _ _ => [])
    (fun i b s => complete c stOk 0 (setBay i (addHost b) s)) c pay s

/-- BAY_HOLD. -/
def execBayHold (c : Cmd) (s : State) : Out := runRow c 0x0202 doBayHold s

/-- BAY_RELEASE (R252, R297). -/
def doBayRelease (c : Cmd) (pay : List Byte) (s : State) : State :=
  bayRun ⟨false, false, false, false⟩ [.held] (fun _ _ _ => [])
    (fun i b s => complete c stOk 0
      (setBay i { b with conds := b.conds.filter (fun x => x != .host && x != .trap) } s)) c pay s

/-- BAY_RELEASE. -/
def execBayRelease (c : Cmd) (s : State) : Out := runRow c 0x0203 doBayRelease s

/-- BAY_HELD_LONG: held for 100 ms without a break (R275). -/
def execBayHeldLong (b : BayId) (time : Nat) (s : State) : Out :=
  bayEvent b time
    (fun x s => x.mode == .held && !x.heldLong
      && (match x.frozenAt with | some t => decide (t + 100000000 ≤ s.now) | none => false))
    (fun x s => raise1 (evBay 0x0202 b.val x.part (holdNowBits s b.val x) (x.count - 1))
      (setBay b.val { x with heldLong := true } s)) s

/-! ## Start -/

/-- A core as its bay starts: generators seeded, the walks and the router at cycle 0 (R54, R105, R228). -/
def coreStart (seed : BitVec 64) (k : Nat) (c : Core) : Core :=
  { c with
    seq := { c.seq with issue := walkStart0 c, ahead := walkStart0 c, recs := [] }
    eng := { c.eng with srState := (List.range 128).map (srSeed seed (coreX k) (coreY k)) }
    rt := { c.rt with run := ⟨0, c.image.page0, 0, [], 0⟩, ahead := ⟨0, c.image.page0, 0, [], 0⟩ } }

/-- BAY_START: the bay runs from cycle 0 on at its point (R252, R253, R370, R506). A BAY_SET_POINT that is still pending is
carried on: one whose oscillator relocks completes when the relock ends, and leaves the point that BAY_START has set (DESIGN
CHOICE, log entry 146). -/
def doBayStart (c : Cmd) (pay : List Byte) (s : State) : State :=
  bayRun ⟨true, false, true, false⟩ [.loaded]
    (fun _ b s => [(s.install, stBusy), (!bayPowered s b, stNotReady)] ++ pointChecks s b (payPoint pay))
    (fun i b s =>
      let s := (bayCores b).foldl (fun s k => modCore k (coreStart (BitVec.ofNat 64 (payArg pay)) k) s) s
      let s := modBay i (fun b => { b with
        mode := .running, point := payPoint pay, seed := BitVec.ofNat 64 (payArg pay), count := 0
        frozenNs := 0, frozenAt := none, idlePeriods := idleNow s b, idleSince := none
        boostLost := false, boostTold := (false, false) }) s
      complete c stOk 0 s) c pay s

/-- BAY_START. -/
def execBayStart (c : Cmd) (s : State) : Out := runRow c 0x0201 doBayStart s

/-- BOOST_CONDITION_LOST: a condition for F2100 has lapsed under a bay at F2100; each lapse of each is reported once (R253,
R496, R534). -/
def execBoostConditionLost (b : BayId) (time : Nat) (s : State) : Out :=
  bayEvent b time
    (fun x s => boosted x && ((inletTooWarm s && !x.boostTold.1) || (!(baySites x).all (hasHeadroom s) && !x.boostTold.2)))
    (fun x s =>
      let warm := inletTooWarm s && !x.boostTold.1
      raise1 (evBay 0x0205 b.val x.part (b2n !warm) 0)
        (setBay b.val { x with
          boostLost := true
          boostTold := if warm then (true, x.boostTold.2) else (x.boostTold.1, true) } s)) s

/-! ## Point changes (R254, R255, R606) -/

/-- The cycle after which a bay freezes for a point change that reaches its head now (R255). -/
def pointFreeze (b : Bay) : Nat := if b.mode == .held then b.count - 1 else b.count - 1 + 6

/-- The stage that follows when the rail stands at the new voltage: on a loaded bay nothing stops. -/
def railUp (b : Bay) : PointStage := if b.mode == .loaded then .relocking else .atHead

/-- BAY_SET_POINT: accepted, the rail first where it must rise. -/
def doBaySetPoint (c : Cmd) (pay : List Byte) (s : State) : State :=
  bayRun ⟨true, false, false, false⟩ [.loaded, .running, .held]
    (fun _ b s => (b.change.isSome, stBusy) :: pointChecks s b (payPoint pay))
    (fun i b s =>
      let stage := if raisesRail s b (payPoint pay) then .railRising else railUp b
      setBay i { b with change := some ⟨payPoint pay, stage, pointFreeze b, b.mode == .held, s.now, c⟩ } s)
    c pay s

/-- BAY_SET_POINT. -/
def execBaySetPoint (c : Cmd) (s : State) : Out := runRow c 0x0206 doBaySetPoint s

/-- A bay with its pending point change altered. -/
def withChange (b : Bay) (f : PointChange → PointChange) : Bay := { b with change := b.change.map f }

/-- A pending point change stands at a stage. -/
def changeAt (b : Bay) (st : PointStage) : Bool := match b.change with | some p => p.stage == st | none => false

/-- RAIL_RAISED: the command reaches the head (R254). -/
def execRailRaised (b : BayId) (time : Nat) (s : State) : Out :=
  bayEvent b time (fun x _ => changeAt x .railRising)
    (fun x s => setBay b.val
      (withChange x (fun p => { p with stage := railUp x, freeze := pointFreeze x, since := s.now })) s) s

/-- POINT_STOP: the bay stands at the cycle of the change, and its oscillator stops (R255). -/
def execPointStop (b : BayId) (time : Nat) (s : State) : Out :=
  bayEvent b time
    (fun x s => changeAt x .atHead
      && (x.mode == .held || (x.mode == .running && bayQuiet s x x.count
        && (match x.change with | some p => decide (p.freeze + 1 = x.count) | none => false))))
    (fun x s => setBay b.val { endIdle s (beginFreeze s (withChange x (fun p =>
      { p with stage := .stopped, freeze := x.count - 1, wasHeld := x.mode == .held, since := s.now }))) with
        mode := .pointChange } s) s

/-- The mode after the stop of a change: a bay with a hold that is due is held, and any other runs. -/
def modeAfterRelock (b : Bay) (p : PointChange) : BayMode :=
  if p.wasHeld || (match b.freezeDue with | some n => decide (n < b.count) | none => false) then .held else .running

/-- The relock after a stop ends: the point is the new one, and the bay goes on; a fault of the meantime takes it to fault
hold (R255, R606). -/
def relockStopped (i : Nat) (x : Bay) (p : PointChange) (s : State) : State :=
  let x := { x with point := p.target, boostLost := false, boostTold := (false, false) }
  if x.faultDue.isSome then enterFaultHold i (setBay i x s)
  else
    let m := modeAfterRelock x p
    let x := if m == .running then endFreeze s x else beginIdle s x
    let x := { x with mode := m, change := none, holds := if m == .held && !p.wasHeld then x.holds + 1 else x.holds }
    autoStop i (complete p.cmd stOk 0 (settleHold i (setBay i x s)))

/-- The relock of a loaded bay's oscillator ends: where the bay is loaded still, BAY_START has not set a point. -/
def relockLoaded (i : Nat) (x : Bay) (p : PointChange) (s : State) : State :=
  complete p.cmd stOk 0 (setBay i { x with change := none, point := if x.mode == .loaded then p.target else x.point } s)

/-- RELOCK_END: 1.5 µs after the oscillator began to relock. -/
def execRelockEnd (b : BayId) (time : Nat) (s : State) : Out :=
  bayEvent b time
    (fun x s => ((changeAt x .stopped && x.mode == .pointChange) || changeAt x .relocking)
      && (match x.change with | some p => decide (p.since + 1500 ≤ s.now) | none => false))
    (fun x s =>
      match x.change with
      | none => s
      | some p => if p.stage = .stopped then relockStopped b.val x p s else relockLoaded b.val x p s) s

/-! ## Stops (R268) -/

/-- BAY_STOP. -/
def doBayStop (c : Cmd) (pay : List Byte) (s : State) : State :=
  let atMark := bitAt (payFlags pay) 0
  bayRun ⟨false, true, false, false⟩ [.running, .held, .done, .faultHold]
    (fun _ b _ => [(stopBlocked b atMark, stBusy)])
    (fun i b s => beginStop i b (some c) atMark none s) c pay s

/-- BAY_STOP. -/
def execBayStop (c : Cmd) (s : State) : Out := runRow c 0x0204 doBayStop s

/-- A core from its stop cycle on: no claim, no reservation, no check (R268). -/
def coreStopped (c : Core) : Core :=
  { c with
    seq := { c.seq with recs := [] }
    ax := { c.ax with reserved := 0 }
    rt := { c.rt with claims := [] }
    bank := []
    bankLoad := copies 16 0 }

/-- STOP_CYCLE: inputs stop, holds are dropped, crossings close, and the bay drains (R268). A held bay drains from the
cycle after the one in which it froze. -/
def execStopCycle (b : BayId) (time : Nat) (s : State) : Out :=
  bayEvent b time
    (fun x s =>
      match x.stop with
      | none => false
      | some q =>
        match q.stopCycle with
        | none => false
        | some n => (x.mode == .running && decide (n = x.count) && bayQuiet s x n)
            || (x.mode == .held && (!q.atMark || decide (n = x.count))))
    (fun x s =>
      let s := dropChange b.val stBusy s
      let s := wakeRows b.val (closeXings x (modCores x coreStopped s))
      modBay b.val (fun x => { endFreeze s x with
        mode := .draining, conds := [], freezeDue := none, bankPlans := [], bankHeld := none
        stop := x.stop.map (fun q => { q with stopCycle := some x.count, since := s.now }) }) s) s

/-- BAY_DONE: every core has finished its stream (R58, R275). A bay with a fault runs on to its freeze (R269). -/
def execBayDone (b : BayId) (time : Nat) (s : State) : Out :=
  bayEvent b time
    (fun x s => x.mode == .running && x.faultDue.isNone && decide (0 < x.count) && bayQuiet s x x.count
      && (bayCores x).all (fun k => coreDone (coreOf s k) x.count))
    (fun x s =>
      let s := dropChange b.val stBusy s
      let s := modCores x (fun c => freezeWrites x.count (settleMarks x.count c)) s
      let s := modBay b.val (fun x => { beginFreeze s x with
        mode := .done, conds := [], freezeDue := none, bankPlans := [] }) s
      raise1 (evBay 0x0203 b.val x.part 0 (x.count - 1)) s) s

/-! ## Faults (R269, R541, R606) -/

/-- FAULT_HOLD: the bay freezes after the 6th cycle from a fault; a bay that runs no cycle, and one that has lost a core
or a die, freezes where it stands. -/
def execFaultHold (b : BayId) (time : Nat) (s : State) : Out :=
  bayEvent b time
    (fun x s =>
      match x.faultDue with
      | none => false
      | some n =>
        match x.mode with
        | .running => decide (5 ≤ x.fault) || (decide (n < x.count) && bayQuiet s x x.count)
        | .draining => decide (5 ≤ x.fault) || (decide (n < x.count) && bayQuiet s x x.count)
        | .held => true
        | .loaded => true
        | .done => true
        | _ => false)
    (fun _ s => enterFaultHold b.val s) s

/-! ## Status -/

/-- The status header (Table 9-11). -/
def bayHeader (s : State) (i : Nat) (b : Bay) : List Byte :=
  natLe 2 i ++ natLe 1 (bayModeCode b.mode) ++ natLe 1 b.point ++ natLe 1 (headEpoch s b)
    ++ natLe 1 (holdNowBits s i b) ++ natLe 1 b.cx0 ++ natLe 1 b.cy0 ++ natLe 1 b.w ++ natLe 1 b.ht
    ++ natLe 1 b.fault ++ natLe 1 (b2n b.overrun + 2 * b2n b.boostLost + 4 * b2n b.hazard)
    ++ natLe 1 (if b.fault = 0 then 0 else coreX (b.faultCore.getD 0))
    ++ natLe 1 (if b.fault = 0 then 0 else coreY (b.faultCore.getD 0)) ++ copies 2 0
    ++ natLe 8 b.count ++ natLe 8 (frozenNow s b) ++ natLe 8 (b.faultCycle.getD 0) ++ natLe 4 b.holds
    ++ natLe 4 b.stretches
    ++ natLe 4 ((s.xings.filter (fun x => x.state != .opened
        && ((inBay b x.sender && x.outDecl) || (inBay b x.recv && x.inDecl)))).length)
    ++ copies 12 0

/-- The record of a core (Table 9-12). -/
def coreRecord (s : State) (t k : Nat) : List Byte :=
  let c := coreOf s k
  let f := flagsAt c t
  natLe 1 (coreX k) ++ natLe 1 (coreY k) ++ natLe 1 (seqStateCode s k) ++ natLe 1 c.st.faultCause
    ++ natLe 1 c.st.axFault
    ++ natLe 1 (b2n f.ovf + 2 * b2n f.nanc + 4 * b2n f.sat + 8 * b2n c.st.clip + 16 * b2n c.st.ctrOverflow
        + 32 * b2n c.st.ctrUnderflow)
    ++ natLe 2 c.st.steerMiss ++ natLe 1 (c.rt.run.page % 8) ++ copies 7 0 ++ c.totals.flatMap (natLe 8) ++ copies 24 0

/-- BAY_STATUS: the supervisors read their cores, and the header and the records go to the buffer (R87, R274). -/
def doBayStatus (c : Cmd) (pay : List Byte) (s : State) : State :=
  bayRun ⟨false, false, true, true⟩ anyMode
    (fun _ b _ => [(decide (payArgLen pay < 64 + 192 * b.w * b.ht), stBadLength)])
    (fun i b s =>
      let s := modCores b supervisorRead s
      completeWithBuf c (payArg pay) (bayHeader s i b ++ (bayCores b).flatMap (coreRecord s b.count)) 0 s) c pay s

/-- BAY_STATUS. -/
def execBayStatus (c : Cmd) (s : State) : Out := runRow c 0x0207 doBayStatus s

/-- The time record (Table 9-10). -/
def timeRecord (s : State) (b : Bay) : List Byte :=
  natLe 8 b.count ++ natLe 8 (tickOf s) ++ natLe 8 (frozenNow s b) ++ natLe 1 (bayModeCode b.mode) ++ natLe 1 b.point
    ++ copies 6 0

/-- TIME_EXCHANGE (R273). -/
def doTimeExchange (c : Cmd) (pay : List Byte) (s : State) : State :=
  bayRun ⟨false, false, true, true⟩ anyMode (fun _ _ _ => [(decide (payArgLen pay < 32), stBadLength)])
    (fun _ b s => completeWithBuf c (payArg pay) (timeRecord s b) 0 s) c pay s

/-- TIME_EXCHANGE. -/
def execTimeExchange (c : Cmd) (s : State) : Out := runRow c 0x0208 doTimeExchange s

/-- A bay's handle and cores are freed (R293). -/
def removeBay (i : Nat) (b : Bay) (s : State) : State :=
  let s := dropChange i stBusy s
  let s := dropXings b (modCores b (freezeWrites b.count) s)
  { s with bays := mapDel s.bays i }

/-- BAY_REMOVE. -/
def doBayRemove (c : Cmd) (pay : List Byte) (s : State) : State :=
  bayRun ⟨false, false, false, false⟩ [.loaded, .stopped] (fun _ _ _ => [])
    (fun i b s => complete c stOk 0 (removeBay i b s)) c pay s

/-- BAY_REMOVE. -/
def execBayRemove (c : Cmd) (s : State) : Out := runRow c 0x0209 doBayRemove s

/-- A partition. -/
def partOf (s : State) (n : Nat) : Partition := s.parts.getD n partitionZero

/-- The 32 bytes of a load report (Table 10-9). -/
def reportBytes (stepping : Nat) (r : LoadReport) : List Byte :=
  natLe 4 r.cmdId ++ natLe 2 r.status ++ natLe 1 r.loadFault ++ copies 1 0 ++ natLe 4 r.offset ++ natLe 1 r.cx
    ++ natLe 1 r.cy ++ natLe 2 r.bay ++ natLe 1 stepping ++ natLe 1 r.contract ++ natLe 1 r.epoch ++ copies 1 0
    ++ natLe 4 r.generation ++ natLe 8 r.tick

/-- LOAD_REPORT_GET: the last 16 reports of the partition, newest first (R294). -/
def doLoadReportGet (c : Cmd) (_pay : List Byte) (s : State) : State :=
  checked c [(decide (cmdLen c < 512), stBadLength)]
    (fun s => completeWithOwnBuf c
      (padTo 512 ((partOf s (cmdPart c)).loadReports.flatMap (reportBytes (kingFuse s).stepping.toNat))) 0 s) s

/-- LOAD_REPORT_GET. -/
def execLoadReportGet (c : Cmd) (s : State) : Out := runRow c 0x020A doLoadReportGet s

/-- A trap record (Table 10-11). -/
def trapBytes (t : Trap) : List Byte :=
  natLe 1 t.cls ++ natLe 1 (coreX t.core) ++ natLe 1 (coreY t.core) ++ natLe 1 t.sub ++ natLe 2 t.index
    ++ natLe 1 t.page ++ copies 1 0 ++ natLe 8 t.cycle ++ natLe 8 t.detail ++ copies 8 0

/-- A trap in its place in order of CYCLE. -/
def trapInsert (t : Trap) : List Trap → List Trap
  | [] => [t]
  | u :: us => if t.cycle < u.cycle then t :: u :: us else u :: trapInsert t us

/-- HAZARD_GET: the trap records in order of CYCLE, which are then cleared (R297). -/
def doHazardGet (c : Cmd) (pay : List Byte) (s : State) : State :=
  bayRun ⟨false, false, true, true⟩ anyMode
    (fun _ b _ => [(decide (payArgLen pay < 528), stBadLength), (!b.hazard, stDenied)])
    (fun i b s =>
      let ts := b.traps.foldl (fun l t => trapInsert t l) []
      let out := natLe 2 ts.length ++ copies 2 0 ++ natLe 4 b.trapsLost ++ copies 8 0 ++ ts.flatMap trapBytes
      completeWithBuf c (payArg pay) out 0 (setBay i { b with traps := [], trapsLost := 0 } s)) c pay s

/-- HAZARD_GET. -/
def execHazardGet (c : Cmd) (s : State) : Out := runRow c 0x020B doHazardGet s

end Sys2Proof.Machine
end

