-- ==== Sys2Proof/Machine/FabricOps.lean ====
section
/-! DEFINITION. The shared operations of the service fabric: addresses, routes, packets and answers (R299 to R316). -/

namespace Sys2Proof.Machine

/-! ## Service addresses (Table 11-1) -/

/-- SITE_Y. -/
def addrY (a : Nat) : Nat := fld a 51 48
/-- The site of an address. -/
def addrSite (a : Nat) : Nat := 16 * addrY a + fld a 55 52
/-- UNIT. -/
def addrUnit (a : Nat) : Nat := fld a 47 40
/-- OFFSET. -/
def addrOff (a : Nat) : Nat := fld a 39 0
/-- The service address of an offset in a unit of a site. -/
def addrOf (site unit off : Nat) : Nat := siteX site * 2 ^ 52 + siteY site * 2 ^ 48 + unit * 2 ^ 40 + off
/-- The address of an offset in a core's scratchpad. -/
def coreAddr (k off : Nat) : Nat := addrOf (siteOfCore k) (coreBit k) off
/-- The address of a stack offset. -/
def stackAddr (n off : Nat) : Nat := addrOf (siteOfStack n) 0 off
/-- The address of an offset in a weight-store array. -/
def storeAddr (w off : Nat) : Nat := addrOf (siteOfWstore w) 0 off

/-- Whether an address names a core's scratchpad unit. -/
def isCoreAddr (a : Nat) : Bool := addrY a < 14 && placeRole (addrSite a) == 1 && decide (addrUnit a < 64)

/-! ## Routers and routes (R305 to R307) -/

/-- Whether a site has a working router (R306). -/
def siteWorks (s : State) (i : Nat) : Bool := placeRole i != 6 && !siteAbsent s i && sitePowered s i

/-- The hops of a move along a row: the sites entered with their input ports. -/
def hopsX (y a b : Nat) : List (Nat × Nat) :=
  if a ≤ b then (List.range (b - a)).map (fun n => (16 * y + a + n + 1, 3))
  else (List.range (a - b)).map (fun n => (16 * y + a - n - 1, 1))

/-- The hops of a move along a column. -/
def hopsY (x a b : Nat) : List (Nat × Nat) :=
  if a ≤ b then (List.range (b - a)).map (fun n => (16 * (a + n + 1) + x, 0))
  else (List.range (a - b)).map (fun n => (16 * (a - n - 1) + x, 2))

/-- The compute die at the far end of the diagonal port of a stack in rows 0 and 13 (R20, R305). -/
def diagOf (i : Nat) : Option Nat :=
  if placeRole i ≠ 2 then none
  else if siteY i = 0 then some (16 + siteX i + 1)
  else if siteY i = 13 then some (16 * 12 + siteX i + 1)
  else none

/-- The XY route and the YX route: each with its turn site. -/
def routesOf (a b : Nat) : List (Nat × List (Nat × Nat)) :=
  [(16 * siteY a + siteX b, hopsX (siteY a) (siteX a) (siteX b) ++ hopsY (siteX b) (siteY a) (siteY b)),
   (16 * siteY b + siteX a, hopsY (siteX a) (siteY a) (siteY b) ++ hopsX (siteY b) (siteX a) (siteX b))]

/-- The route from a site to another by the route tables: its turn site and its hops (R307, R313). -/
def routeOf (t : RouteTable) (a b : Nat) : Option (Nat × List (Nat × Nat)) :=
  if a = b then some (a, [])
  else if diagOf a = some b ∨ diagOf b = some a then some (a, [(b, 5)])
  else (routesOf a b).find? (fun r =>
    (r.1 == a || r.1 == b || t.works.contains r.1) && r.2.all (fun h => !t.down.contains (6 * h.1 + h.2)))

/-- The virtual channel of a route: 0 the XY route, 1 the YX route (R307). -/
def vcOf (t : RouteTable) (a b : Nat) : Nat :=
  match routeOf t a b, (routesOf a b).head? with
  | some r, some xy => if a = b ∨ diagOf a = some b ∨ diagOf b = some a ∨ r = xy then 0 else 1
  | _, _ => 0

/-- Firmware writes the route tables of every router (R307). -/
def rewriteRoutes (s : State) : State :=
  { s with fab := { s.fab with routes :=
    ⟨(List.range 224).filter (siteWorks s), (s.fab.hops.filter (fun p => p.2.down)).map (fun p => p.1)⟩ } }

/-! ## Packets -/

/-- The source site of a packet. -/
def srcSite (q : Packet) : Nat := 16 * q.srcY.toNat + q.srcX.toNat
/-- The source unit of a packet. -/
def srcUnitOf (q : Packet) : Nat := q.srcUnit.toNat
/-- The destination of a packet. -/
def destOf (q : Packet) : Nat := q.dest.toNat
/-- OPCODE. -/
def opcodeOf (q : Packet) : Nat := q.opcode.toNat

/-- The owner of a site. -/
def ownerOf (s : State) (i : Nat) : Nat := (entryAt s i).part

/-- A request as its source router stamps it (R315). `fw` is asked for by a firmware sender and by the host port. -/
def mkRequest (s : State) (site unit dest opcode len tag : Nat) (fw : Bool) (data : List Byte) : Packet where
  dest := BitVec.ofNat 56 dest
  srcX := BitVec.ofNat 4 (siteX site)
  srcY := BitVec.ofNat 4 (siteY site)
  srcUnit := BitVec.ofNat 8 unit
  opcode := BitVec.ofNat 4 opcode
  fw := fw || placeRole site == 5
  part := BitVec.ofNat 3 (if fw || placeRole site == 5 then 0 else ownerOf s site)
  len := len
  tag := BitVec.ofNat 12 tag
  status := 0
  data := data

/-- The answer to a request: DATA, ACK or ERROR (Table 11-5). -/
def answerPacket (q : Packet) (status : Nat) (data : List Byte) : Packet where
  dest := BitVec.ofNat 56 (addrOf (srcSite q) (srcUnitOf q) (addrOff (destOf q)))
  srcX := BitVec.ofNat 4 (siteX (addrSite (destOf q)))
  srcY := BitVec.ofNat 4 (siteY (addrSite (destOf q)))
  srcUnit := BitVec.ofNat 8 (addrUnit (destOf q))
  opcode := if status = 0 ∨ status = 5 then (if opcodeOf q = 1 then 3 else 4) else 5
  fw := q.fw
  part := q.part
  len := q.len
  tag := q.tag
  status := BitVec.ofNat 4 status
  data := if status = 0 ∨ status = 5 then data else []

/-- A request is answered: its answer is on its way. -/
def answer (q : Packet) (status : Nat) (data : List Byte) (s : State) : State :=
  { s with fab := { s.fab with answers := s.fab.answers ++ [answerPacket q status data] } }

/-- The bytes of its first flit that a packet does not use (R302); the blocks of a DATA packet of an inflate unit begin with
the flit (R367). -/
def flitLead (q : Packet) : Nat :=
  if opcodeOf q = 6 ∨ (opcodeOf q = 3 ∧ placeRole (srcSite q) = 4 ∧ srcUnitOf q = 1) then 0 else addrOff (destOf q) % 64

/-- The flits of a packet (Table 11-5). -/
def flitsOf (q : Packet) : Nat :=
  let o := opcodeOf q
  if o = 2 ∨ o = 3 ∨ o = 6 then (flitLead q + q.len + 63) / 64 else 1

/-- Whether a unit of a site is a host port. -/
def isHostPort (site unit : Nat) : Bool := placeRole site == 5 && unit == 3

/-- The class of a packet (Tables 11-3 and 11-5): 0 memory request, 1 memory response, 2 control, 3 host. -/
def classOf (q : Packet) : Nat :=
  let o := opcodeOf q
  if o = 6 then 2
  else if 3 ≤ o ∧ o ≤ 5 then 1
  else if isHostPort (srcSite q) (srcUnitOf q) || isHostPort (addrSite (destOf q)) (addrUnit (destOf q)) then 3
  else 0

/-- Whether two packets share a source unit, a destination unit and a class (R308). -/
def sameStream (p q : Packet) : Bool :=
  srcSite p == srcSite q && p.srcUnit == q.srcUnit && addrSite (destOf p) == addrSite (destOf q)
    && addrUnit (destOf p) == addrUnit (destOf q) && classOf p == classOf q

/-- Whether a packet is the next of its stream to arrive: no other was sent before it (R308). A packet that is on no list
comes from a sender that the model does not hold, and waits for none. -/
def isNextOf (sent : List Packet) (q : Packet) : Bool :=
  match sent.find? (sameStream q) with
  | some p => p == q || !sent.contains q
  | none => true

/-- A port that counts in the running window. -/
def modPort (site side : Nat) (f : PortCount → PortCount) (s : State) : State :=
  let k := 6 * site + side
  { s with fab := { s.fab with ports := mapSet portZero s.fab.ports k (f (mapGetD s.fab.ports k portZero)) } }

/-- The flits of a packet enter the input ports on its route (Table 11-10). -/
def countFlits (q : Packet) (s : State) : State :=
  let a := srcSite q
  match routeOf s.fab.routes a (addrSite (destOf q)) with
  | none => s
  | some r => (((a, 4) :: r.2).filter (fun h => siteWorks s h.1)).foldl
      (fun s h => modPort h.1 h.2 (fun p => { p with flits := p.flits + flitsOf q }) s) s

/-- A packet dropped at a site counts in DROPS (R311, R316). -/
def countDrop (site : Nat) (s : State) : State :=
  { s with fab := { s.fab with drops := mapPut s.fab.drops site (mapGetD s.fab.drops site 0 + 1) } }

/-- A request leaves its source: it is on its way and its requester waits. The source router answers at once what it
cannot send (R300, R307). -/
def sendRequest (f : Flight) (s : State) : State :=
  let q := f.q
  let s := { s with fab := { s.fab with awaits := s.fab.awaits ++ [⟨q, s.now⟩] } }
  if 14 ≤ addrY (destOf q) then answer q 4 [] s
  else if (routeOf s.fab.routes (srcSite q) (addrSite (destOf q))).isNone then answer q 7 [] s
  else { s with fab := { s.fab with flight := s.fab.flight ++ [f] } }

/-! ## Arrival at a die (R306 to R316, R608) -/

/-- Whether a packet would turn in a router that has gone dark since the tables were written (R307). -/
def turnLost (s : State) (q : Packet) : Bool :=
  let a := srcSite q
  let b := addrSite (destOf q)
  match routeOf s.fab.routes a b with
  | none => false
  | some r => r.1 != a && r.1 != b && !siteWorks s r.1

/-- When a request that waits for its answer left. -/
def sentAt (s : State) (q : Packet) : Option Nat := (s.fab.awaits.find? (fun a => a.q == q)).map (fun a => a.sent)

/-- Whether a router on the way of a packet has gone dark since a request left. -/
def routeDarkened (s : State) (q : Packet) (since : Nat) : Bool :=
  match routeOf s.fab.routes (srcSite q) (addrSite (destOf q)) with
  | none => false
  | some r => r.2.any (fun h => match (pwrOf s h.1).darkAt with | some t => decide (since ≤ t) | none => false)

/-- Whether a packet is lost: it would turn in a dark router, or it was in a router that went dark (R307). Where it was then
the spec does not say: a free value (log entry 151). -/
def packetLost (s : State) (q : Packet) (since : Option Nat) : Bool × State :=
  if turnLost s q then (true, s)
  else
    match since with
    | some t => if routeDarkened s q t then let r := takeFree s; (r.1 % 2 == 1, r.2) else (false, s)
    | none => (false, s)

/-- Whether a hop on the way of a packet retrains: its traffic waits (R313). -/
def routeTrains (s : State) (q : Packet) : Bool :=
  match routeOf s.fab.routes (srcSite q) (addrSite (destOf q)) with
  | none => false
  | some r => r.2.any (fun h => (mapGetD s.fab.hops (6 * h.1 + h.2) hopZero).training)

/-- The status that ends a request before it reaches its unit. -/
def arrivalStatus (s : State) (q : Packet) : Option Nat :=
  let a := destOf q
  let i := addrSite a
  if 14 ≤ addrY a then some 4
  else if siteAbsent s i then some 1
  else if placeRole i = 6 then some 7
  else if !siteWorks s i then
    (if (entryAt s i).state == .failed || (pwrOf s i).mode == .tripped then some 7 else some 9)
  else if (routeOf s.fab.routes (srcSite q) i).isNone then some 7
  else if !q.fw && placeRole i != 5 && ownerOf s i != q.part.toNat then some 3
  else if siteInReset s i then some 2
  else if (entryAt s i).state == .failed && addrUnit a != 0xF0 && addrUnit a != 0xF1 then some 1
  else none

/-- A packet that the router of its destination drops (R316): counted and logged. -/
def dropPacket (q : Packet) (s : State) : State :=
  let i := addrSite (destOf q)
  countDrop i (logAdd { logBlank 9 with
    part := q.part.toNat, unit := addrUnit (destOf q), x := siteX i, y := siteY i, addr := addrOff (destOf q), status := 3
    detail := srcSite q * 256 + srcUnitOf q } s)

/-- Whether a READ or WRITE breaks R302. -/
def badRange (q : Packet) : Bool :=
  let o := addrOff (destOf q)
  q.len == 0 || decide (2048 < q.len) || decide (o / 2048 ≠ (o + q.len - 1) / 2048)
    || (opcodeOf q != 1 && opcodeOf q != 2)

/-- What an arriving request meets. -/
inductive Served where
  /-- It waits under credit flow: nothing happens now. -/
  | wait
  /-- It is answered with a status and data. -/
  | reply (status : Nat) (data : List Byte)
  /-- Its unit answers later, or nothing answers it. -/
  | held
  deriving DecidableEq, Repr

/-- The request as it is on its way, or as an unmodelled sender has sent it. -/
def flightOf (s : State) (q : Packet) : Flight := (s.fab.flight.find? (fun f => f.q == q)).getD ⟨q, none, .nothing⟩

/-- The request is no longer on its way; a sender outside the model's requesters waits for its answer from now on. -/
def landFlight (q : Packet) (s : State) : State :=
  if s.fab.flight.any (fun f => f.q == q) then
    { s with fab := { s.fab with flight := s.fab.flight.erase (flightOf s q) } }
  else { s with fab := { s.fab with awaits := s.fab.awaits ++ [⟨q, s.now⟩] } }

end Sys2Proof.Machine
end

