-- ==== Sys2Proof/Machine/MemOps.lean ====
section
/-! DEFINITION. The memories behind the service fabric: their bytes, their codes, and what an access finds (R182, R208,
R323 to R327, R358, R359, R537 to R540, R556). -/

namespace Sys2Proof.Machine

/-- A memory: a core's scratchpad, a die buffer by its site, a stack, a weight-store array. -/
inductive MemKind where
  | core (k : Nat)
  | buffer (site : Nat)
  | stack (n : Nat)
  | array (w : Nat)
  deriving DecidableEq, Repr

/-- The site of a memory. -/
def memSite : MemKind → Nat
  | .core k => siteOfCore k
  | .buffer i => i
  | .stack n => siteOfStack n
  | .array w => siteOfWstore w

/-- The unit code of a memory (Table 11-2). -/
def memUnit : MemKind → Nat
  | .core k => coreBit k
  | .buffer _ => 0x40
  | _ => 0

/-- The bytes that one code word covers (Table 19-1). -/
def memWord : MemKind → Nat
  | .core _ => 8
  | .buffer _ => 8
  | _ => 64

/-- The memory of a unit of a site, where the unit is one. -/
def memKindOf (site unit : Nat) : Option MemKind :=
  if placeRole site = 1 ∧ unit < 64 then some (.core (coreOfBit site unit))
  else if placeRole site = 1 ∧ unit = 64 then some (.buffer site)
  else if placeRole site = 2 ∧ unit = 0 then some (.stack (stackOfSite site))
  else if placeRole site = 4 ∧ unit = 0 then some (.array (wstoreOfSite site))
  else none

/-- The size of a memory (Table 11-2, R213, R323); a donor core's scratchpad has none. -/
def memSize (s : State) : MemKind → Nat
  | .core k => if coreDeep s k then (if isLead k then 0x400000 else 0) else 0x80000
  | .buffer _ => 0x2000000
  | .stack n => (entryAt s (siteOfStack n)).capacity.toNat * 0x100000
  | .array _ => 0x400000000

/-! ## Rows of a core outside its operations -/

/-- The cycle as of which the access port of a core sees it: between the cycles of its bay (R187). -/
def portCycle (s : State) (k : Nat) : Nat := match bayOfCore s k with | some (_, b) => b.count | none => 0

/-- Whether a core's bay still runs cycles or will. -/
def bayLive (s : State) (k : Nat) : Bool :=
  match bayOfCore s k with
  | some (_, b) => b.mode != .stopped && b.mode != .faultHold
  | none => false

/-- A row as the access port reads it. -/
def portRow (s : State) (k d : Nat) : Row := rowAt s k d (portCycle s k)

/-- A row written by the access engine for a descriptor, seen from cycle `stamp` on. -/
def putEngineRow (k d stamp : Nat) (data : Row) (op : Nat) (s : State) : State :=
  if bayLive s k then putRow k d stamp data .access op s
  else
    let p := rowPlace k d
    modCore p.1 (fun c => { c with
      rows := mapSet 0 c.rows p.2 data
      badWords := c.badWords.filter (fun w => w / 64 != p.2) }) s

/-- A row written by a remote access, or by firmware. -/
def putPortRow (k d : Nat) (data : Row) (s : State) : State := putEngineRow k d (portCycle s k) data 0 s

/-! ## Bytes -/

/-- The bytes of a core's rows from an offset on. -/
def coreBytes (s : State) (k off n : Nat) : List Byte :=
  let first := off / 512
  let rows := (List.range ((off + n + 511) / 512 - first)).flatMap (fun i => rowBytes (portRow s k (first + i)))
  (rows.drop (off % 512)).take n

/-- A byte of a weight-store array: of a written page, the bytes past USED are free (log entry 30). -/
def storeByte (s : State) (w off : Nat) : Byte :=
  let r := mapGetD (mapGetD s.boot.store w storeZero).pages (off / 65536) pageUnwritten
  if r.pfmt ≠ 0 ∧ r.used ≤ off % 65536 then BitVec.ofNat 8 (Config.freeValue (r.free + off % 65536))
  else memByte s.boot.storeMem (storeAddr w off)

/-- The bytes of a memory. -/
def memBytes (s : State) (m : MemKind) (off n : Nat) : List Byte :=
  match m with
  | .core k => coreBytes s k off n
  | .array w => (List.range n).map (fun i => storeByte s w (off + i))
  | m => memRead s.mem (addrOf (memSite m) (memUnit m) off) n

/-- The words of a core's rows that cannot be corrected, by byte offset / 8 in its rows (R211). -/
def coreWordHome (k w : Nat) : Nat × Nat := let p := rowPlace k (w / 64); (p.1, 64 * p.2 + w % 64)

/-- Whether a word cannot be corrected. -/
def isBad (s : State) (m : MemKind) (w : Nat) : Bool :=
  match m with
  | .core k => let h := coreWordHome k w; (coreOf s h.1).badWords.contains h.2
  | .buffer i => (mapGetD s.bufs i bufferZero).bad.contains w
  | .stack n => (mapGetD s.hbms n stackZero).bad.contains w
  | .array n => (mapGetD s.boot.store n storeZero).bad.contains w

/-- A list with a value once, or without it. -/
def listMark (b : Bool) (w : Nat) (l : List Nat) : List Nat :=
  if b then (if l.contains w then l else l ++ [w]) else l.filter (fun x => x != w)

/-- A stack changed. -/
def modStack (n : Nat) (f : StackState → StackState) (s : State) : State :=
  { s with hbms := mapSet stackZero s.hbms n (f (mapGetD s.hbms n stackZero)) }
/-- A die buffer changed. -/
def modBuf (i : Nat) (f : BufferState → BufferState) (s : State) : State :=
  { s with bufs := mapSet bufferZero s.bufs i (f (mapGetD s.bufs i bufferZero)) }
/-- A weight-store die changed. -/
def modStore (w : Nat) (f : StoreDie → StoreDie) (s : State) : State :=
  { s with boot := { s.boot with store := mapSet storeZero s.boot.store w (f (mapGetD s.boot.store w storeZero)) } }
/-- A weight-store die. -/
def storeOf (s : State) (w : Nat) : StoreDie := mapGetD s.boot.store w storeZero

/-- Marks a word as one that cannot be corrected, or as one that is whole again. -/
def markBad (m : MemKind) (w : Nat) (b : Bool) (s : State) : State :=
  match m with
  | .core k =>
    let h := coreWordHome k w
    modCore h.1 (fun c => { c with
      badWords := listMark b h.2 c.badWords
      suspects := if b then listMark true (h.2 / 64) c.suspects else c.suspects }) s
  | .buffer i => modBuf i (fun d => { d with
      bad := listMark b w d.bad, suspects := if b then listMark true (w / 256) d.suspects else d.suspects }) s
  | .stack n => modStack n (fun d => { d with bad := listMark b w d.bad }) s
  | .array n => modStore n (fun d => { d with bad := listMark b w d.bad }) s

/-! ## What the codes find (R326, R359, R540, R544) -/

/-- The injection points of a memory: corrected and uncorrectable (Table 19-8). -/
def memPoints : MemKind → Nat × Nat
  | .core _ => (1, 2)
  | .buffer _ => (3, 4)
  | .stack _ => (11, 12)
  | .array _ => (13, 14)

/-- Whether an injection aims at a word. -/
def aimsWord (m : MemKind) (w : Nat) (j : Injection) : Bool :=
  match m with
  | .core k => let h := coreWordHome k w; aimsCore h.1 j && j.addr / 8 == h.2
  | m => aimsAt (memSite m) j && j.addr / memWord m == w

/-- The log record of a word. -/
def wordRecord (m : MemKind) (w : Nat) (inj : Bool) (s : State) : LogRec :=
  let r := { logBlank 2 with injected := inj, unit := memUnit m, addr := w * memWord m }
  match m with
  | .core k => logCore k s r
  | m => { r with x := siteX (memSite m), y := siteY (memSite m), part := ownerOf s (memSite m) }

/-- A DRAM row: the model takes a row to be a 2 KiB unit of stack offset (DESIGN CHOICE, log entry 17). -/
def dramRow (w : Nat) : Nat := w / 32

/-- A stack after a corrected word: its unit is scheduled for scrubbing, and a row with four such words in 24 hours is
due for retirement (R326, R544). -/
def stackCorrected (now w : Nat) (d : StackState) : StackState :=
  let recent := d.corrected.filter (fun p => decide (now < p.2 + 86400000000000))
  let cs := mapPut recent w now
  let many := decide (4 ≤ (cs.filter (fun p => dramRow p.1 == dramRow w)).length)
  { d with
    corrected := cs
    scrubs := if (mapGet? d.scrubs (dramRow w)).isSome then d.scrubs else mapPut d.scrubs (dramRow w) now
    retiring := if many && !d.retired.contains (dramRow w) then listMark true (dramRow w) d.retiring else d.retiring }

/-- A corrected word is counted, logged and scored (R326, R359, R540, R550). -/
def wordCorrected (m : MemKind) (w : Nat) (inj : Bool) (s : State) : State :=
  let r := wordRecord m w inj s
  match m with
  | .stack n =>
    let fresh := !(mapGetD s.hbms n stackZero).scored.contains w
    let s := logAdd { r with cls := 1 } s
    let s := if fresh then scoreWear inj (memSite m) 0 100 s else s
    modStack n (fun d => { stackCorrected s.now w d with scored := if inj then d.scored else listMark true w d.scored }) s
  | .array n => reportCorrected (memSite m) r (modStore n (fun d => { d with corrected := d.corrected + 1 }) s)
  | m => reportCorrected (memSite m) r s

/-- A word that cannot be corrected is counted and reported (R540, R544). -/
def wordUncorrectable (m : MemKind) (w : Nat) (inj : Bool) (s : State) (res : Option Nat := none) : State :=
  let s := reportUncorrectable (wordRecord m w inj s) s res
  match m with
  | .stack n => modStack n (fun d => { d with
      retiring := if d.retired.contains (dramRow w) then d.retiring else listMark true (dramRow w) d.retiring }) s
  | .array n => modStore n (fun d => { d with uncorrectable := d.uncorrectable + 1 }) s
  | .buffer i => modBuf i (fun d => { d with suspects := listMark true (w / 256) d.suspects }) s
  | .core k =>
    let h := coreWordHome k w
    modCore h.1 (fun c => { c with suspects := listMark true (h.2 / 64) c.suspects }) s

/-- One word is read: whether it cannot be corrected, and the state after the report; `res` is RES_ADDR of the lookup that
reads it. -/
def examineWord (m : MemKind) (f : EccFinding) (w : Nat) (s : State) (res : Option Nat := none) : Bool × State :=
  let here (o : Nat) : Bool := o / memWord m == w
  let s := if f.uncorrectable.any here then markBad m w true s else s
  let ue := examine (memPoints m).2 (aimsWord m w) s
  let ce := examine (memPoints m).1 (aimsWord m w) ue.2
  let s := ce.2
  if isBad s m w then (true, wordUncorrectable m w false s res)
  else if ue.1 then (true, wordUncorrectable m w true s res)
  else if f.corrected.any here then (false, wordCorrected m w false s)
  else if ce.1 then (false, wordCorrected m w true s)
  else (false, s)

/-- The words that a range touches. -/
def wordsOf (m : MemKind) (off n : Nat) : List Nat :=
  let a := off / memWord m
  if n = 0 then [] else (List.range ((off + n - 1) / memWord m - a + 1)).map (fun i => a + i)

/-- The words of a range are read: those that cannot be corrected. -/
def examineWords (m : MemKind) (f : EccFinding) (ws : List Nat) (s : State) (res : Option Nat := none) : List Nat × State :=
  ws.foldl (fun r w => let x := examineWord m f w r.2 res; (if x.1 then r.1 ++ [w] else r.1, x.2)) ([], s)

/-- A range is read: whether a word cannot be corrected, the bytes as read, and the state after it. -/
def readMem (m : MemKind) (off n : Nat) (f : EccFinding) (s : State) (res : Option Nat := none) : Bool × List Byte × State :=
  let r := examineWords m f (wordsOf m off n) s res
  (!r.1.isEmpty, memBytes s m off n, r.2)

/-! ## Writes -/

/-- Bytes of a core's rows replaced, row by row. -/
def putCoreBytes (k off : Nat) (bs : List Byte) (s : State) : State :=
  let first := off / 512
  (List.range ((off + bs.length + 511) / 512 - first)).foldl (fun t i =>
    let d := first + i
    let old := rowBytes (portRow s k d)
    let lo := max off (512 * d)
    let hi := min (off + bs.length) (512 * d + 512)
    putPortRow k d (rowOfBytes (putBytes old (lo - 512 * d) ((bs.drop (lo - off)).take (hi - lo)))) t) s

/-- Bytes of a memory replaced, whatever its codes hold. -/
def putMem (m : MemKind) (off : Nat) (bs : List Byte) (s : State) : State :=
  match m with
  | .core k => putCoreBytes k off bs s
  | .array w => { s with boot := { s.boot with storeMem := memWrite s.boot.storeMem (storeAddr w off) bs } }
  | m => { s with mem := memWrite s.mem (addrOf (memSite m) (memUnit m) off) bs }

/-- Whether a range covers a word whole. -/
def coversWord (m : MemKind) (off n w : Nat) : Bool :=
  decide (off ≤ w * memWord m) && decide ((w + 1) * memWord m ≤ off + n)

/-- A range is written. A word that it covers in part is read first; where that word cannot be corrected, it is left
unchanged (R327). A word written whole is whole again (R540). Whether a word was left, and the state after it. -/
def writeMem (m : MemKind) (off : Nat) (bs : List Byte) (f : EccFinding) (s : State) : Bool × State :=
  let ws := wordsOf m off bs.length
  let parts := ws.filter (fun w => !coversWord m off bs.length w)
  let r := examineWords m f parts s
  let kept := parts.filter (isBad r.2 m)
  let w0 := memWord m
  let old := memBytes s m off bs.length
  let new := (bs.zip old).zipIdx.map (fun p => if r.1.contains ((off + p.2) / w0) then p.1.2 else p.1.1)
  let s := putMem m off new r.2
  let s := (ws.filter (coversWord m off bs.length)).foldl (fun s w => markBad m w false s) s
  (!r.1.isEmpty, kept.foldl (fun s w => markBad m w true s) s)

end Sys2Proof.Machine
end

