-- ==== Sys2Proof/Machine/StoreOps.lean ====
section
/-! DEFINITION. The weight store's page formats, the inflate unit, and the conversion on arrival (R358 to R368). -/

namespace Sys2Proof.Machine

/-! ## Page formats (R363 to R365, Table 13-2) -/

/-- The bytes of a block's scale: 1, or 2 for DP4; 0 for a format that is not blocked. -/
def scaleBytes (code : Nat) : Nat := if code = 0x0E then 2 else if 0x08 ≤ code ∧ code ≤ 0x0D then 1 else 0

/-- Bb. -/
def blockBytes (code : Nat) : Nat :=
  if code = 0x08 ∨ code = 0x09 ∨ code = 0x0D then 33
  else if code = 0x0A ∨ code = 0x0B then 25
  else if code = 0x0C then 17
  else if code = 0x0E then 18
  else 0

/-- The largest NBLK of a BLOCKED page. -/
def blockedMax (code : Nat) : Nat :=
  if code = 0x08 ∨ code = 0x09 ∨ code = 0x0D then 1985
  else if code = 0x0A ∨ code = 0x0B then 2621
  else if code = 0x0C then 3855
  else if code = 0x0E then 3640
  else 0

/-- The largest NBLK of a CODED page. -/
def codedMax (code : Nat) : Nat := if code = 0x0C ∨ code = 0x0E then 4096 else 0

/-- Blocks of a full inflate burst. -/
def burstBlocks (code : Nat) : Nat :=
  if code = 0x08 ∨ code = 0x09 ∨ code = 0x0D then 62
  else if code = 0x0A ∨ code = 0x0B then 81
  else if code = 0x0C then 120
  else if code = 0x0E then 113
  else 1

/-- The code length of an element encoding (R364). -/
def codeLen (page : List Byte) (sym : Nat) : Nat :=
  let b := leAt page (sym / 2) 1
  if sym % 2 = 0 then b % 16 else b / 16

/-- The canonical codewords of a length: element encodings with their codewords, and the next code (R364). -/
def codesOfLen (page : List Byte) (len code : Nat) : List (Nat × Nat × Nat) × Nat :=
  (List.range 16).foldl (fun r sym =>
    if codeLen page sym = len then (r.1 ++ [(len, r.2 % 2 ^ len, sym)], r.2 + 1) else r) ([], code)

/-- The canonical codewords: length, codeword, element encoding (R364). -/
def codebook (page : List Byte) : List (Nat × Nat × Nat) :=
  ((List.range 15).foldl (fun r n =>
    let x := codesOfLen page (n + 1) r.2
    (r.1 ++ x.1, 2 * x.2)) ([], 0)).1

/-- Whether the code lengths are valid (R365). -/
def codeValid (page : List Byte) : Bool :=
  let ls := ((List.range 16).map (codeLen page)).filter (fun l => l != 0)
  ls == [1] || ls.foldl (fun n l => n + 2 ^ (15 - l)) 0 == 2 ^ 15

/-- The bits of bytes, the most significant of each byte first. -/
def bitsOf (bs : List Byte) : List Bool :=
  bs.flatMap (fun b => (List.range 8).map (fun i => bitAt b.toNat (7 - i)))

/-- Decodes up to `n` element encodings from a bitstream; each bit is taken into the code at hand. What is left of the
stream, the code at hand and the encodings. -/
def decodeBits (book : List (Nat × Nat × Nat)) : List Bool → Nat → Nat → Nat → List Nat → List Nat × List Bool
  | bits, 0, _, _, out => (out, bits)
  | [], _ + 1, _, _, out => (out, [])
  | b :: bits, n + 1, len, code, out =>
    let code := 2 * code + b2n b
    match book.find? (fun x => x.1 == len + 1 && x.2.1 == code) with
    | some x => decodeBits book bits n 0 0 (out ++ [x.2.2])
    | none => decodeBits book bits (n + 1) (len + 1) code out

/-- The element encodings of a CODED page and the bits after them. -/
def codedElems (code nblk : Nat) (page : List Byte) : List Nat × List Bool :=
  decodeBits (codebook page) (bitsOf (page.drop (8 + scaleBytes code * nblk))) (32 * nblk) 0 0 []

/-- Whether the USED bytes of a CODED page meet R364 and R365. -/
def codedOk (code nblk : Nat) (used : List Byte) : Bool :=
  let r := codedElems code nblk used
  codeValid used && decide (8 + scaleBytes code * nblk ≤ used.length) && r.1.length == 32 * nblk
    && decide (r.2.length < 8) && r.2.all (fun b => !b)

/-- The scale of a block and its 32 element encodings, in a BLOCKED block's bytes (R363). -/
def splitBlock (code : Nat) (f : Fm) (bs : List Byte) : Nat × List Nat :=
  let c := scaleBytes code
  let v := leNat (bs.drop c)
  (leAt bs 0 c, (List.range 32).map (fun i => fld v (fmBits f * i + fmBits f - 1) (fmBits f * i)))

/-- The bytes of a block from its scale and its element encodings. -/
def joinBlock (code : Nat) (f : Fm) (scale : Nat) (es : List Nat) : List Byte :=
  natLe (scaleBytes code) scale ++ natLe (blockBytes code - scaleBytes code) (packElems (fmBits f) es)

/-! ## The inflate unit (R366) -/

/-- A page record of a die. -/
def pageOf (s : State) (w p : Nat) : PageRec := mapGetD (storeOf s w).pages p pageUnwritten

/-- A page holds blocks. -/
def pageBlocks (r : PageRec) : Bool := r.pfmt == 2 || r.pfmt == 3

/-- Whether the inflate unit answers a READ of blocks with BAD_REQUEST. -/
def inflateBad (r : PageRec) (f len : Nat) : Bool :=
  !pageBlocks r || decide (blockBytes r.elemFmt = 0) || len % blockBytes r.elemFmt != 0 || decide (len = 0)
    || decide (r.nblk < f + len / blockBytes r.elemFmt) || decide (2048 < len)

/-- The raw bytes that blocks `f` to `f + k − 1` of a page are read from: those of the blocks, or the page's USED
bytes when it is CODED. -/
def inflateSpan (r : PageRec) (f k : Nat) : Nat × Nat :=
  if r.pfmt = 2 then (f * blockBytes r.elemFmt, k * blockBytes r.elemFmt) else (0, r.used)

/-- Blocks of a page in the BLOCKED layout, from the bytes of the span. -/
def inflateBlocks (r : PageRec) (f k : Nat) (raw : List Byte) : List Byte :=
  if r.pfmt = 2 then raw
  else
    match fmOfCode r.elemFmt with
    | none => []
    | some m =>
      let es := (codedElems r.elemFmt r.nblk raw).1
      (List.range k).flatMap (fun i =>
        let b := f + i
        joinBlock r.elemFmt m (leAt raw (8 + scaleBytes r.elemFmt * b) (scaleBytes r.elemFmt))
          ((es.drop (32 * b)).take 32))

/-! ## Conversion on arrival (R367, R368, Table 13-3) -/

/-- Whether Table 13-3 has a pair of formats. -/
def arrivalPair (stored written : Nat) : Bool :=
  decide (0x08 ≤ stored ∧ stored ≤ 0x0E)
    && (stored == written || (written == 0x08 && decide (0x0A ≤ stored) && stored != 0x0D)
      || decide (1 ≤ written ∧ written ≤ 5))

/-- Whether the written format is blocked. -/
def isBlockedCode (code : Nat) : Bool := decide (0x08 ≤ code ∧ code ≤ 0x0E)

/-- The fine shift of a DP4 element from its scale word (R93). -/
def fineShift (stored scale n : Nat) : Int := if stored = 0x0E then (fld scale (9 + 2 * (n / 8)) (8 + 2 * (n / 8)) : Nat) else 0

/-- A block as it is written in a blocked format: its elements and its scale entry. -/
def arriveBlocked (stored written : Nat) (sc : Nat) (es : List Nat) : List Nat × Nat :=
  if stored = written then (es, sc)
  else
    match fmOfCode stored with
    | none => (es, sc)
    | some m =>
      (es.zipIdx.map (fun p => blockRound .mxE4M3 .rne (scaleBy (fmDecode m p.1) (fineShift stored sc p.2))), sc % 256)

/-- A block as it is written in an unblocked format. -/
def arriveFlat (stored written rnd : Nat) (sc : Nat) (es : List Nat) : List Nat :=
  match fmOfCode stored, fmOfCode written with
  | some m, some w => es.zipIdx.map (fun p => (cvtVal w (rmodeOf rnd 0) (blockElem m sc p.2 p.1)).1)
  | _, _ => es

end Sys2Proof.Machine
end

