-- ==== Sys2Proof/Machine/LinkFlits.lean ====
section
/-! DEFINITION. The link layer: link packets as bytes, link flits, the replay buffer, and the receive buffers (R393 to R396,
Tables 14-2 and 14-5). -/

namespace Sys2Proof.Machine

/-! ## Links -/

/-- The site of a link's die. -/
def linkSite (l : Nat) : Nat := siteOfLinkDie (l / 4)
/-- A link. -/
def linkOf (s : State) (l : Nat) : Link := mapGetD s.links.links l linkZero
/-- A link changed. -/
def modLink (l : Nat) (f : Link → Link) (s : State) : State :=
  { s with links := { s.links with links := mapSet linkZero s.links.links l (f (linkOf s l)) } }
/-- Whether a link is absent (R391). -/
def linkAbsent (s : State) (l : Nat) : Bool := siteAbsent s (linkSite l)
/-- Whether a link is up. -/
def linkUp (s : State) (l : Nat) : Bool := (linkOf s l).phase == .up

/-! ## Link packets as bytes (Table 14-5) -/

/-- The bytes of a link packet. -/
def linkPacketBytes (q : LinkPacket) : List Byte :=
  natLe 2 q.destPanel.toNat ++ natLe 2 q.srcPanel.toNat ++ natLe 2 q.job.toNat ++ natLe 1 q.kind.toNat
    ++ natLe 1 q.flags.toNat ++ natLe 1 q.dcx.toNat ++ natLe 1 q.dcy.toNat ++ natLe 1 q.rslot.toNat ++ natLe 1 q.contrib.toNat
    ++ natLe 2 q.payload.length ++ natLe 1 q.hops.toNat ++ natLe 1 q.status.toNat ++ natLe 4 q.offset.toNat
    ++ natLe 4 q.tag.toNat ++ copies 8 0 ++ q.payload

/-- The link packet that a header and LEN bytes of payload make. -/
def linkPacketOf (bs : List Byte) : LinkPacket where
  destPanel := BitVec.ofNat 16 (leAt bs 0 2)
  srcPanel := BitVec.ofNat 16 (leAt bs 2 2)
  job := BitVec.ofNat 16 (leAt bs 4 2)
  kind := BitVec.ofNat 8 (leAt bs 6 1)
  flags := BitVec.ofNat 8 (leAt bs 7 1)
  dcx := BitVec.ofNat 8 (leAt bs 8 1)
  dcy := BitVec.ofNat 8 (leAt bs 9 1)
  rslot := BitVec.ofNat 8 (leAt bs 0xA 1)
  contrib := BitVec.ofNat 8 (leAt bs 0xB 1)
  hops := BitVec.ofNat 8 (leAt bs 0xE 1)
  status := BitVec.ofNat 8 (leAt bs 0xF 1)
  offset := BitVec.ofNat 32 (leAt bs 0x10 4)
  tag := BitVec.ofNat 32 (leAt bs 0x14 4)
  payload := bytesAt bs 32 (leAt bs 0xC 2)

/-- The flits of credit that a packet takes: those that its bytes would fill alone (DESIGN CHOICE, log entry 18). -/
def linkFlits (q : LinkPacket) : Nat := (32 + q.payload.length + 239) / 240

/-- Whether a packet travels on the response channel. -/
def onResponse (q : LinkPacket) : Bool := bitAt q.flags.toNat 4

/-- The packets at the front of some bytes that begin with a header, and the bytes of the one after them, which is not whole
yet. TYPE 0 is no packet: the rest of the flit is fill (log entry 18). -/
def cutPackets : Nat → List Byte → List LinkPacket × List Byte
  | 0, bs => ([], bs)
  | n + 1, bs =>
    if bs.length < 32 then ([], bs)
    else if leAt bs 6 1 = 0 then ([], [])
    else if bs.length < 32 + leAt bs 0xC 2 then ([], bs)
    else
      let r := cutPackets n (bs.drop (32 + leAt bs 0xC 2))
      (linkPacketOf bs :: r.1, r.2)

/-! ## Flits (Table 14-2) -/

/-- The fields of a flit. -/
def flSeq (f : LinkFlit) : Nat := leAt f.bytes 0 2
def flAck (f : LinkFlit) : Nat := leAt f.bytes 2 2
def flKind (f : LinkFlit) : Nat := leAt f.bytes 4 1
def flFirst (f : LinkFlit) : Nat := leAt f.bytes 5 1
def flCredits (f : LinkFlit) : Nat := leAt f.bytes 6 2
def flPayload (f : LinkFlit) : List Byte := bytesAt f.bytes 8 240

/-- Whether a flit's CRC holds. -/
def flitOk (f : LinkFlit) : Bool := crc32 (f.bytes.take 0xFC) == leAt f.bytes 0xFC 4

/-- The bytes of a flit. -/
def linkFlitBytes (seq ack kind first credits : Nat) (payload : List Byte) : List Byte :=
  let body := natLe 2 seq ++ natLe 2 ack ++ natLe 1 kind ++ natLe 1 first ++ natLe 2 credits ++ padTo 240 payload ++ copies 4 0
  body ++ natLe 4 (crc32 body)

/-- A flit leaves on a link: it carries the SEQ of the last data flit received in order, and reports the flits freed. -/
def sendFlit (l kind seq first : Nat) (payload : List Byte) (s : State) : State :=
  let x := linkOf s l
  let q := min 1023 x.freedReq
  let p := min 63 x.freedResp
  let s := modLink l (fun x => { x with freedReq := x.freedReq - q, freedResp := x.freedResp - p }) s
  { s with links := { s.links with
    wire := s.links.wire ++ [(l, linkFlitBytes seq ((x.rxNext + 65535) % 65536) kind first (q + 1024 * p) payload)] } }

/-- An idle flit. -/
def sendIdle (l : Nat) (s : State) : State := sendFlit l 0 0 0xFF [] s

/-- A replay request: the SEQ that it asks for is the one after its ACK_SEQ (DEDUCED, log entry 153). -/
def askReplay (l : Nat) (s : State) : State := sendFlit l 2 0 0xFF [] s

/-- The largest count of FLITS_TX and FLITS_RX. -/
def flitsMax : Nat := 2 ^ 64 - 1

/-- A data flit leaves: FLITS_TX counts it. -/
def sendData (l : Nat) (f : SentFlit) (s : State) : State :=
  sendFlit l 1 f.seq f.first f.payload (modLink l (fun x => { x with flitsTx := satInc flitsMax x.flitsTx }) s)

/-- The next data flit of a link: up to 240 of the bytes that wait. -/
def nextFlit (x : Link) : SentFlit := ⟨x.txNext, ((x.txHeads.find? (fun h => decide (h < 240))).getD 0xFF), x.txBytes.take 240⟩

/-- A link that has put its next flit into the replay buffer. -/
def afterFlit (x : Link) : Link :=
  { x with
    txNext := (x.txNext + 1) % 65536
    unacked := x.unacked ++ [nextFlit x]
    txBytes := x.txBytes.drop 240
    txHeads := (x.txHeads.filter (fun h => decide (240 ≤ h))).map (fun h => h - 240) }

/-- Flits leave while there are bytes to send and the replay buffer has room (R395); a last flit that the bytes do not fill is
filled with zeros (log entry 18). -/
def sendFlits (l : Nat) : Nat → State → State
  | 0, s => s
  | n + 1, s =>
    let x := linkOf s l
    if x.txBytes.isEmpty || decide (1024 ≤ x.unacked.length) then s
    else sendFlits l n (sendData l (nextFlit x) (modLink l afterFlit s))

/-- Every flit of the replay buffer is sent again (R394, R399). -/
def resend (l : Nat) (s : State) : State := (linkOf s l).unacked.foldl (fun s f => sendData l f s) s

/-! ## Receiving -/

/-- A link after ACK_SEQ and CREDITS of a flit that passed. -/
def takeAck (f : LinkFlit) (x : Link) : Link :=
  let n := (flAck f + 1 + 65536 - (x.txNext + 65536 - x.unacked.length) % 65536) % 65536
  { x with
    unacked := if n ≤ x.unacked.length then x.unacked.drop n else x.unacked
    reqCredits := min 1024 (x.reqCredits + fld (flCredits f) 9 0)
    respCredits := min 64 (x.respCredits + fld (flCredits f) 15 10) }

/-- The bytes of an accepted flit join those of the packet that is partly received; FIRST_PKT tells where that one ends. -/
def takePayload (f : LinkFlit) (x : Link) : Link :=
  let cut := if flFirst f < 240 then flFirst f else 240
  let a := cutPackets 9 (x.rxBytes ++ (flPayload f).take cut)
  let b := cutPackets 9 ((flPayload f).drop cut)
  { x with received := x.received ++ a.1 ++ b.1, rxBytes := if cut = 240 then a.2 else b.2 }

/-- Whether a data flit is the one expected (R394). -/
def flitExpected (f : LinkFlit) (x : Link) : Bool := flKind f == 1 && flSeq f == x.rxNext

/-- A link after a flit that passed: a data flit in order is accepted, and any other data flit is discarded. -/
def takeFlit (f : LinkFlit) (x : Link) : Link :=
  let x := takeAck f x
  if flitExpected f x then
    takePayload f { x with rxNext := (x.rxNext + 1) % 65536, flitsRx := satInc flitsMax x.flitsRx, replays := 0 }
  else x

/-- Whether a packet is the next of its channel in the receive buffer. One of which no flit has come, from a far end that the
model does not hold, waits for none (log entry 154). -/
def nextReceived (x : Link) (q : LinkPacket) : Bool :=
  match x.received.find? (fun p => onResponse p == onResponse q) with
  | some p => p == q || !x.received.contains q
  | none => true

/-- A packet leaves the receive buffer, and its flits are freed (R396). -/
def freeReceived (q : LinkPacket) (x : Link) : Link :=
  if !x.received.contains q then x
  else { x with
    received := x.received.erase q
    freedReq := if onResponse q then x.freedReq else x.freedReq + linkFlits q
    freedResp := if onResponse q then x.freedResp + linkFlits q else x.freedResp }

/-- The flits of the request buffer in use. -/
def requestFill (x : Link) : Nat := ((x.received.filter (fun q => !onResponse q)).map linkFlits).foldl (fun a b => a + b) 0

end Sys2Proof.Machine
end

