-- ==== Sys2Proof/Machine/LinkOps.lean ====
section
/-! DEFINITION. The shared operations of the panel's links: lanes, sending, going down, the egress of rank WRITEs (R391 to
R410). -/

namespace Sys2Proof.Machine

/-- The LANES bytes of a link die's entry follow its links, and with them its state (R401, Table 1-8). -/
def lanesToEntry (l : Nat) (s : State) : State :=
  let i := linkSite l
  modEntry i (fun e =>
    let e := { e with lanes := siteLanes s i }
    if usableState e.state then entryInService e else e) s

/-- The record follows a change of a link's lanes (R401). -/
def recordLanes (l : Nat) (s : State) : State := recordChange (lanesToEntry l) s

/-! ## Sending (R393 to R396) -/

/-- Whether a link can take a packet now: it is up, the panel has a PANEL_ID, and it holds credits for all of the packet's
flits (R396, R402). -/
def canSend (s : State) (x : Link) (q : LinkPacket) : Bool :=
  x.phase == .up && s.links.panelId != 0xFFFF
    && decide (linkFlits q ≤ (if onResponse q then x.respCredits else x.reqCredits))

/-- A packet is placed on a link: its bytes follow those that wait, with no gap (R393). -/
def putOnLink (l : Nat) (q : LinkPacket) (s : State) : State :=
  let n := linkFlits q
  let s := modLink l (fun x => { x with
    txBytes := x.txBytes ++ linkPacketBytes q
    txHeads := x.txHeads ++ [x.txBytes.length]
    reqCredits := if onResponse q then x.reqCredits else x.reqCredits - n
    respCredits := if onResponse q then x.respCredits - n else x.respCredits }) s
  { s with links := { s.links with sent := s.links.sent ++ [(l, q)] } }

/-- The packets that wait for a link leave in order: responses and requests do not wait for each other (R396). The packets
still waiting, and the state. -/
def sendWaiting (l : Nat) : List LinkPacket → Bool → Bool → State → List LinkPacket × State
  | [], _, _, s => ([], s)
  | q :: qs, reqStuck, respStuck, s =>
    let stuck := if onResponse q then respStuck else reqStuck
    if !stuck && canSend s (linkOf s l) q then sendWaiting l qs reqStuck respStuck (putOnLink l q s)
    else
      let r := sendWaiting l qs (reqStuck || !onResponse q) (respStuck || onResponse q) s
      (q :: r.1, r.2)

/-- What waits for a link is sent as far as it can be: packets are placed, and flits leave. -/
def flushLink (l : Nat) (s : State) : State :=
  let r := sendWaiting l (linkOf s l).egress false false s
  let s := modLink l (fun x => { x with egress := r.1 }) r.2
  if linkUp s l then sendFlits l (1 + (linkOf s l).txBytes.length / 240) s else s

/-- A packet is given to a link. -/
def sendOnLink (l : Nat) (q : LinkPacket) (s : State) : State :=
  flushLink l (modLink l (fun x => { x with egress := x.egress ++ [q] }) s)

/-- A packet with no field used. -/
def linkPacketZero : LinkPacket := ⟨0, 0, 0, 0, 0, 0, 0, 0, 0, 0, 0, 0, 0, []⟩

/-- The ACK packet of a WRITE (R407, R408). -/
def ackPacket (s : State) (q : LinkPacket) (status : Nat) : LinkPacket :=
  { linkPacketZero with
    destPanel := q.srcPanel, srcPanel := BitVec.ofNat 16 s.links.panelId, job := q.job, kind := 2, flags := 16
    tag := q.tag, status := BitVec.ofNat 8 status }

/-- A WRITE that came by a link is answered with an ACK packet, which leaves by the same link (log entry 19). -/
def ackLink (l : Nat) (q : LinkPacket) (status : Nat) (s : State) : State :=
  if q.kind = 1 then sendOnLink l (ackPacket s q status) s else s

/-- A packet dropped at a link die (R408, R410): counted, and a WRITE is answered. -/
def dropOnLink (l : Nat) (q : LinkPacket) (status : Nat) (s : State) : State :=
  ackLink l q status (modLink l (fun x => { x with drops := satInc 0xFFFFFFFF x.drops }) s)

/-! ## A link that goes down (R400) -/

/-- The partitions and purlins that a condition names are changed. -/
def modPart (n : Nat) (f : Partition → Partition) (s : State) : State := { s with parts := modAt s.parts n f }

/-- The link is down: what it had not acknowledged is lost, a packet partly received is discarded, and every request forwarded
on it is answered with TARGET_LOST. Both ends begin again with SEQ 0 and all credits (DESIGN CHOICE, log entry 155). -/
def takeLinkDown (l : Nat) (s : State) : State :=
  let x := linkOf s l
  let s := modLink l (fun x => { x with
    phase := .down, mask := 0, width := 0, egress := [], awaits := [], replays := 0, fails := 0
    txNext := 0, unacked := [], rxNext := 0, txBytes := [], txHeads := [], rxBytes := [], freedReq := 0, freedResp := 0
    reqCredits := 1024, respCredits := 64 }) s
  x.awaits.foldl (fun s a => answer a.q 7 [] s) s

/-- A link goes down at run time: its record and its event (R400, R401). -/
def linkDown (l : Nat) (s : State) : State :=
  if (linkOf s l).phase = .down then s
  else
    let s := recordLanes l (takeLinkDown l s)
    let s := raise1 (evPlain 0x0601 l 0 (linkOf s l).retrains) s
    match (linkOf s l).cmd with
    | some c => complete c stOk 0 (modLink l (fun x => { x with cmd := none }) s)
    | none => s

/-! ## Ranks (R403, R406, R407) -/

/-- The entry of a rank in the copy of a partition's table that a die holds; 0 where it is not held. -/
def rankEntry (p : Partition) (site rank : Nat) : Nat :=
  if p.rankBase ≤ rank ∧ rank < p.rankBase + 65536 then
    let w := mapGetD p.ranks (rank - p.rankBase) ⟨0, 0⟩
    if mapGetD p.rankSince site 0 ≤ w.stamp then w.value else 0
  else 0

/-- The entry of a rank as firmware last wrote it. -/
def rankWritten (p : Partition) (rank : Nat) : Nat :=
  if p.rankBase ≤ rank ∧ rank < p.rankBase + 65536 then (mapGetD p.ranks (rank - p.rankBase) ⟨0, 0⟩).value else 0

/-- Whether a rank entry is valid. -/
def rankValid (e : Nat) : Bool := bitAt e 40

/-- The packet of a rank WRITE (Table 14-5). -/
def rankPacket (s : State) (p : Partition) (e tag : Nat) (q : Packet) (x : RankExtra) : LinkPacket :=
  { linkPacketZero with
    destPanel := BitVec.ofNat 16 (fld e 15 0)
    srcPanel := BitVec.ofNat 16 s.links.panelId
    job := BitVec.ofNat 16 p.job
    kind := 1
    flags := BitVec.ofNat 8 (b2n x.last + 2 * b2n x.rset + 4 * fld e 42 41)
    dcx := BitVec.ofNat 8 (fld e 23 16)
    dcy := BitVec.ofNat 8 (fld e 31 24)
    rslot := if x.rset then BitVec.ofNat 8 x.rslot.toNat else 0
    contrib := BitVec.ofNat 8 (fld e 55 48)
    offset := BitVec.ofNat 32 (fld (destOf q) 19 0)
    tag := BitVec.ofNat 32 tag
    payload := q.data }

/-- The entry by which a rank WRITE becomes a link packet: the one that its access engine read, so that the link and the
header come from one entry (R405), or the link die's own for another sender. -/
def writeEntry (p : Partition) (l : Nat) (f : Flight) : Nat :=
  match f.cargo with
  | .rankEntry e => e
  | _ => rankEntry p (linkSite l) (fld (destOf f.q) 39 20)

/-- A rank WRITE at its egress link (R407): it is forwarded and its source waits for the ACK, or the link is down and it
is answered at once (R400). A partition with JOB 0, or a rank that the die's copy does not hold, sends nothing, and the
WRITE expires (R402). -/
def egressWrite (l : Nat) (f : Flight) (x : RankExtra) (s : State) : State :=
  let q := f.q
  let k := linkOf s l
  if k.phase = .down then answer q 7 [] s
  else
    let tag := k.nextTag
    let s := modLink l (fun k => { k with nextTag := (tag + 1) % 2 ^ 32, awaits := k.awaits ++ [⟨tag, q, s.now⟩] }) s
    let p := partOf s (ownerOf s (linkSite l))
    let e := writeEntry p l f
    if p.job = 0 ∨ !rankValid e then s else sendOnLink l (rankPacket s p e tag q x) s

end Sys2Proof.Machine
end

