-- ==== Sys2Proof/Machine/ServiceOps.lean ====
section
/-! DEFINITION. What a READ, a WRITE or a CTRL packet meets at the unit of its destination (R300, R302, R310, R316, R323 to
R327, R338, R361, R366, R407, R426, R608). -/

namespace Sys2Proof.Machine

/-! ## Units that are no memory -/

/-- The 32 bytes of an identity fuse block (Table 1-4). -/
def fuseBytes (f : DieFuse) : List Byte :=
  natLe 1 f.role.toNat ++ natLe 1 (f.siteX.toNat + 16 * f.siteY.toNat) ++ copies 2 0 ++ natLe 1 f.variant.toNat
    ++ natLe 1 (b2n f.reserveDesig + 2 * b2n f.embEnable + 4 * b2n f.primarySel) ++ natLe 1 f.stepping.toNat
    ++ copies 1 0 ++ natLe 8 f.panelSerial.toNat ++ natLe 8 f.dieSerial.toNat ++ natLe 4 f.assyLot.toNat ++ copies 4 0

/-- The boot store of a management die: its active bank (R466, R471). -/
def bootBytes (s : State) (site off n : Nat) : List Byte :=
  bytesAt ((s.boot.banks.getD (if site = 159 then 1 else 0) (⟨false, []⟩, ⟨false, []⟩)).1.bytes) off n

/-- Whether a stack's engine is fused off (R332). -/
def engineAbsent (s : State) (n : Nat) : Bool := !(fuseOf s (siteOfStack n)).embEnable || variantOf s == 3
/-- An engine. -/
def engineOf (s : State) (n : Nat) : EmbEngine := mapGetD s.engines n engineZero
/-- An engine changed. -/
def modEngine (n : Nat) (f : EmbEngine → EmbEngine) (s : State) : State :=
  { s with engines := mapSet engineZero s.engines n (f (engineOf s n)) }

/-- Whether a range of host memory lies in one window of a partition that allows the direction (R426). -/
def hostWindowOk (s : State) (part addr n : Nat) (wr : Bool) : Bool :=
  (partOf s part).hostWindows.any (fun w =>
    match w with
    | some h => (if wr then h.write else h.read) && decide (h.base ≤ addr) && decide (addr + n ≤ h.base + h.length)
    | none => false)

/-- A status that the spec does not fix, for a host address that answers with an error: one of Table 11-6 other than OK
(log entry 20). -/
def freeStatus (s : State) : Nat × State := let r := takeFree s; (1 + r.1 % 9, r.2)

/-- A packet to the host port is carried to host memory (R426). -/
def serveHost (f : Flight) (s : State) : Served × State :=
  let q := f.q
  let a := match f.cargo with | .hostAddr a => a | _ => addrOff (destOf q)
  let wr := opcodeOf q == 2
  if !q.fw && !hostWindowOk s q.part.toNat a q.len wr then (.reply 3 [], s)
  else
    match hostAnswer s a q.len with
    | some true => (.held, s)
    | some false => let r := freeStatus s; (.reply r.1 [], r.2)
    | none => if wr then (.reply 0 [], hostWrite a q.data s) else (.reply 0 (hostRead s a q.len), s)

/-- Whether a stack is in self-refresh (R328, R508). -/
def selfRefreshing (s : State) (n : Nat) : Bool := (pwrOf s (siteOfStack n)).mode == .selfRefresh

/-- The units a role lists that take messages only (Table 11-2). -/
def isControlUnit (role unit : Nat) : Bool :=
  unit == 0xF1 || (role == 5 && decide (unit ≤ 1))

/-! ## READ -/

/-- A READ at the inflate unit (R366): the blocks, through the page's record. -/
def serveInflate (w off len : Nat) (f : EccFinding) (s : State) : Served × State :=
  let p := off / 65536
  let r := pageOf s w p
  let b := off % 65536
  if inflateBad r b len then (.reply 6 [], s)
  else
    let k := len / blockBytes r.elemFmt
    let sp := inflateSpan r b k
    let x := readMem (.array w) (65536 * p + sp.1) sp.2 f s
    (.reply (if x.1 then 5 else 0) (inflateBlocks r b k x.2.1), x.2.2)

/-- The rows of a core that a range covers. -/
def spanRows (off n : Nat) : List Nat := (List.range ((off + n + 511) / 512 - off / 512)).map (fun i => off / 512 + i)

/-- The bursts that a stack holds outstanding: those whose answers have not arrived yet (DESIGN CHOICE, log entry 152). -/
def outstanding (s : State) (n : Nat) : Nat :=
  (s.fab.answers.filter (fun a => srcSite a == siteOfStack n && a.srcUnit == 0)).length

/-- The pseudo-channel that serves a 2 KiB unit of stack offset (R324); units are served in arrival order, and so are those
of one channel. -/
def pseudoChannel (o : Nat) : Nat := ((fld o 16 11).xor (fld o 22 17)).xor (fld o 28 23)

/-- A READ of a memory. A core whose access port holds a remote write waits (R206), and so does one for a free port of its
banks (R187). -/
def serveMemRead (m : MemKind) (off len : Nat) (f : EccFinding) (s : State) (res : Option Nat := none) : Served × State :=
  if memSize s m < off + len then (.reply 4 [], s)
  else
    match m with
    | .core k =>
      if (coreOf s k).ax.remote.isEmpty && portsFree s k (spanRows off len) then
        let r := readMem m off len f s res
        (.reply (if r.1 then 5 else 0) r.2.1, r.2.2)
      else (.wait, s)
    | _ =>
      let r := readMem m off len f s res
      (.reply (if r.1 then 5 else 0) r.2.1, r.2.2)

/-- Every request to a stack in self-refresh is answered with POWERED_DOWN (R328). -/
def stackSleeps (s : State) (m : MemKind) : Bool := match m with | .stack n => selfRefreshing s n | _ => false

/-- A stack holds 1,024 bursts, and a further one waits (R325). -/
def stackFull (s : State) (m : MemKind) : Bool := match m with | .stack n => decide (1024 ≤ outstanding s n) | _ => false

/-- A READ at its unit; `res` is RES_ADDR of the lookup that reads. -/
def serveRead (f : Flight) (e : EccFinding) (s : State) (res : Option Nat := none) : Served × State :=
  let q := f.q
  let a := destOf q
  let i := addrSite a
  let u := addrUnit a
  let o := addrOff a
  let role := placeRole i
  match memKindOf i u with
  | some m =>
    if stackSleeps s m then (.reply 9 [], s)
    else if badRange q then (.reply 6 [], s)
    else if stackFull s m then (.wait, s)
    else serveMemRead m o q.len e s res
  | none =>
    if u = 0xF0 then
      (if badRange q then (.reply 6 [], s)
       else if 32 < o + q.len then (.reply 4 [], s)
       else (.reply 0 (bytesAt (fuseBytes (fuseOf s i)) o q.len), s))
    else if isControlUnit role u then (.reply 6 [], s)
    else if role = 2 ∧ u = 1 then (.reply (if engineAbsent s (stackOfSite i) then 1 else 6) [], s)
    else if role = 4 ∧ u = 1 then
      (if badRange { q with dest := BitVec.ofNat 56 0 } then (.reply 6 [], s)
       else if 0x400000000 ≤ o then (.reply 4 [], s)
       else serveInflate (wstoreOfSite i) o q.len e s)
    else if role = 3 ∧ u < 4 then (.reply 6 [], s)
    else if role = 5 ∧ u = 2 then
      (if badRange q then (.reply 6 [], s)
       else if 0x1000000 < o + q.len then (.reply 4 [], s)
       else (.reply 0 (bootBytes s i o q.len), s))
    else if role = 5 ∧ u = 3 then
      (if i ≠ kingSite s then (.reply 1 [], s) else if badRange q then (.reply 6 [], s) else serveHost f s)
    else (.reply 4 [], s)

/-! ## WRITE -/

/-- BATCH of a lookup request. -/
def rqBatch (raw : List Byte) : Nat := leAt raw 4 2

/-- Whether a request that reaches an engine now names no batch or an open one (R348, R351). -/
def batchLive (s : State) (n : Nat) (raw : List Byte) : Bool :=
  rqBatch raw == 0xFFFF
    || (match mapGet? (partOf s (ownerOf s (siteOfStack n))).embBatches (rqBatch raw) with
      | some b => b.closing.isNone
      | none => false)

/-- The requests in a packet of 64-byte units, in address order (R338). -/
def splitRequests (s : State) (n : Nat) (q : Packet) : List EmbRequest :=
  (List.range (q.len / 64)).map (fun i =>
    let raw := bytesAt q.data (64 * i) 64
    ⟨raw, q.srcX.toNat, q.srcY.toNat, q.srcUnit.toNat, batchLive s n raw⟩)

/-- A WRITE to an engine's request port (R338, R339). -/
def servePort (n : Nat) (q : Packet) (s : State) : Served × State :=
  let o := addrOff (destOf q)
  if engineAbsent s n then (.reply 1 [], s)
  else if badRange q || decide (0x100000 < o + q.len) || o % 64 != 0 || q.len % 64 != 0 then (.reply 6 [], s)
  else if 4096 < (engineOf s n).queue.length + q.len / 64 then (.wait, s)
  else (.reply 0 [], modEngine n (fun x => { x with queue := x.queue ++ splitRequests s n q }) s)

/-- A WRITE to a memory. A write to a core waits at the core's access port (R206). -/
def serveMemWrite (m : MemKind) (f : Flight) (e : EccFinding) (s : State) : Served × State :=
  let q := f.q
  let o := addrOff (destOf q)
  if memSize s m < o + q.len then (.reply 4 [], s)
  else
    match m with
    | .core k =>
      let x := f.x.getD ⟨false, false, 0⟩
      (.held, modCore k (fun c => { c with ax := { c.ax with
        remote := c.ax.remote ++ [⟨q, x.rset, x.last, x.rslot.toNat⟩] } }) s)
    | .array _ => (.reply 6 [], s)
    | _ => let r := writeMem m o q.data e s; (.reply (if r.1 then 5 else 0) [], r.2)

/-- A WRITE at a link unit: a packet from another link die leaves on the link (R410) or waits to be added at its reduction
home (R412), and any other WRITE is one to a rank (R407). -/
def serveLink (k u : Nat) (f : Flight) (x : RankExtra) (s : State) : Served × State :=
  match f.cargo with
  | .transit p => if (linkOf s (4 * k + u)).phase = .down then (.reply 7 [], s) else (.reply 0 [], sendOnLink (4 * k + u) p s)
  | .reduction l p =>
    let hs := mapPut s.links.homes k (mapGetD s.links.homes k [] ++ [⟨p, l, 0, 0⟩])
    (.reply 0 [], { s with links := { s.links with homes := hs } })
  | _ => if badRange f.q then (.reply 6 [], s) else (.held, egressWrite (4 * k + u) f (f.x.getD x) s)

/-- A WRITE at its unit; `x` is what a rank WRITE carries beside it. -/
def serveWrite (f : Flight) (x : RankExtra) (e : EccFinding) (s : State) : Served × State :=
  let q := f.q
  let a := destOf q
  let i := addrSite a
  let u := addrUnit a
  let role := placeRole i
  match memKindOf i u with
  | some (.array _) => (.reply 6 [], s)
  | some m =>
    if stackSleeps s m then (.reply 9 [], s)
    else if badRange q then (.reply 6 [], s)
    else if stackFull s m then (.wait, s)
    else serveMemWrite m f e s
  | none =>
    if u = 0xF0 ∨ isControlUnit role u then (.reply 6 [], s)
    else if role = 2 ∧ u = 1 then servePort (stackOfSite i) q s
    else if role = 4 ∧ u = 1 then (.reply 6 [], s)
    else if role = 3 ∧ u < 4 then serveLink (linkDieOfSite i) u f x s
    else if role = 5 ∧ u = 2 then (.reply 6 [], s)
    else if role = 5 ∧ u = 3 then
      (if i ≠ kingSite s then (.reply 1 [], s) else if badRange q then (.reply 6 [], s) else serveHost f s)
    else (.reply 4 [], s)

/-! ## Arrival -/

/-- While its partition is in reset, a WRITE of a core to a link egress and one to a lookup request port are not taken
(R481). -/
def waitsForReset (q : Packet) (s : State) : Bool :=
  let role := placeRole (addrSite (destOf q))
  let u := addrUnit (destOf q)
  opcodeOf q == 2 && !q.fw && partInReset s q.part.toNat && ((role == 3 && decide (u < 4)) || (role == 2 && u == 1))

/-- What a request meets at its destination. -/
def serve (f : Flight) (x : RankExtra) (e : EccFinding) (s : State) (res : Option Nat := none) : Served × State :=
  match arrivalStatus s f.q with
  | some st => (.reply st [], if st = 3 then dropPacket f.q s else s)
  | none =>
    if waitsForReset f.q s then (.wait, s)
    else if opcodeOf f.q = 1 then serveRead f e s res
    else if opcodeOf f.q = 2 then serveWrite f x e s
    else (.reply 6 [], s)

/-- A request arrives: it waits for those sent before it on its stream (R308), for a hop that retrains (R313) or for its unit
(R302), or it is answered, or its unit holds it, or it is lost (R307). A destination that names no site is answered by the
source router, and the packet goes nowhere (R300). -/
def arrive (q : Packet) (x : RankExtra) (e : EccFinding) (s : State) : State :=
  let f := flightOf s q
  if 14 ≤ addrY (destOf q) then answer q 4 [] (landFlight q s)
  else if !isNextOf (s.fab.flight.map (fun f => f.q)) q || routeTrains s q then s
  else
    let l := packetLost s q (sentAt s q)
    if l.1 then landFlight q l.2
    else
      let r := serve f x e l.2
      match r.1 with
      | .wait => s
      | .held => countFlits q (landFlight q r.2)
      | .reply st data => answer q st data (countFlits q (landFlight q r.2))

/-- What `accessNow` gives in place of a status of Table 11-6 for an access that has to wait: its happening is not due. -/
def notYet : Nat := 16

/-- An access that one unit makes and finishes within one happening: its status, its data and the state after it. One that
waits for its unit has no status yet (R206, R325). -/
def accessNow (f : Flight) (e : EccFinding) (s : State) (res : Option Nat := none) : Nat × List Byte × State :=
  if 14 ≤ addrY (destOf f.q) then (4, [], s)
  else
    let r := serve f ⟨false, false, 0⟩ e s res
    match r.1 with
    | .reply st data => (st, data, r.2)
    | .wait => (notYet, [], s)
    | .held => (8, [], r.2)

/-- A range of service addresses, or of host memory through the host port, cut at multiples of 2 KiB. -/
def rangeCuts : Nat → Nat → Nat → List (Nat × Nat)
  | 0, _, _ => []
  | f + 1, a, n =>
    if n = 0 then []
    else
      let k := min n (2048 - a % 2048)
      (a, k) :: rangeCuts f (a + k) (n - k)

/-- The flight of a request to a service address, or to a host address. -/
def flightTo (s : State) (site unit a opcode len tag : Nat) (fw host : Bool) (data : List Byte) : Flight :=
  if host then ⟨mkRequest s site unit (addrOf (kingSite s) 3 (a % 2 ^ 40)) opcode len tag fw data, none, .hostAddr a⟩
  else ⟨mkRequest s site unit a opcode len tag fw data, none, .nothing⟩

/-- A range read within one happening by flights of a form: the first status other than OK, where there is one, its
address, the bytes, and the state. -/
def readVia (mk : State → Nat → Nat → Flight) (e : EccFinding) (a n : Nat) (s : State) (res : Option Nat := none) :
    Nat × Nat × List Byte × State :=
  (rangeCuts (n / 2048 + 2) a n).foldl (fun (r : Nat × Nat × List Byte × State) c =>
    let x := accessNow (mk r.2.2.2 c.1 c.2) e r.2.2.2 res
    (if r.1 = 0 then x.1 else r.1, if r.1 = 0 ∧ x.1 ≠ 0 then c.1 else r.2.1, r.2.2.1 ++ x.2.1, x.2.2)) (0, a, [], s)

/-- A range read within one happening by a unit of a site. -/
def readNow (site unit : Nat) (fw host : Bool) (e : EccFinding) (a n : Nat) (s : State) (res : Option Nat := none) :
    Nat × Nat × List Byte × State :=
  readVia (fun s b k => flightTo s site unit b 1 k 0 fw host []) e a n s res

/-- A range written within one happening: the first status other than OK, and the state. -/
def writeNow (site unit : Nat) (fw : Bool) (a : Nat) (bs : List Byte) (s : State) : Nat × State :=
  (rangeCuts (bs.length / 2048 + 2) a bs.length).foldl (fun (r : Nat × State) c =>
    let x := accessNow (flightTo r.2 site unit c.1 2 c.2 0 fw false ((bs.drop (c.1 - a)).take c.2)) ⟨[], []⟩ r.2
    (if r.1 = 0 then x.1 else r.1, x.2.2)) (0, s)

end Sys2Proof.Machine
end

