-- ==== Sys2Proof/Machine/Access.lean ====
section
/-! DEFINITION. The access engine: the checks of a descriptor, its bursts, its rows and its completion, and remote writes
that land (R195 to R207, R367, R368, R406). -/

namespace Sys2Proof.Machine

/-! ## The remote and the slot stream -/

/-- The blocks of a KIND 3 descriptor, or the bytes of the remote stream: what the engine issues. -/
def dsLen (d : List Byte) : Nat := if dsKind d = 3 then dsN0 d else dsT d

/-- Blocks of a row of elements in the written format of a KIND 3 descriptor (R368). -/
def arriveBpr (d : List Byte) : Nat :=
  match fmOfCode (dsConvWrite d) with
  | some f => fmPerRow f / 32
  | none => 1

/-- The element rows of a KIND 3 descriptor. -/
def arriveElemRows (d : List Byte) : Nat := (dsN0 d + arriveBpr d - 1) / arriveBpr d

/-- The scale rows of a KIND 3 descriptor. -/
def arriveScaleRows (d : List Byte) : Nat :=
  if isBlockedCode (dsConvWrite d) then (scaleBytes (dsConvWrite d) * dsN0 d + 511) / 512 else 0

/-- The rows of the slot stream (R197, R368). -/
def dsNeed (d : List Byte) : Nat :=
  if dsKind d = 3 then arriveElemRows d + arriveScaleRows d else dsURows d

/-- Whether the remote side is a core's scratchpad (R200). -/
def dsToCore (d : List Byte) : Bool := dsKind d == 4 || (dsKind d == 0 && isCoreAddr (dsAddr d))

/-- The role of the site that ADDR names. -/
def dsRole (d : List Byte) : Nat := if 14 ≤ addrY (dsAddr d) then 6 else placeRole (addrSite (dsAddr d))

/-! ## The checks of the start stage (Table 7-6) -/

/-- A conversion that R199 has, or none. -/
def convOk (d : List Byte) : Bool :=
  dsConv d == 0 || (convSize (dsConvRead d) != 0 && convSize (dsConvWrite d) != 0 && decide (dsConvRnd d ≤ 1)
    && fld (dsConv d) 15 12 == 0)

/-- The reserved bits of ADDR that a kind leaves zero (Table 7-5). -/
def addrBitsOk (d : List Byte) : Bool :=
  if dsKind d = 0 ∨ dsKind d = 3 then fld (dsAddr d) 63 56 == 0
  else if dsKind d = 1 then fld (dsAddr d) 63 62 == 0
  else if dsKind d = 4 then fld (dsAddr d) 63 30 == 0
  else true

/-- Runs are single and strides zero. -/
def oneRun (d : List Byte) : Bool :=
  dsN1 d == 1 && dsN2 d == 1 && dsN3 d == 1 && dsS1 d == 0 && dsS2 d == 0 && dsS3 d == 0

/-- Access fault 1, DESC_FIELD. -/
def fieldFault (c : Core) (d : List Byte) : Bool :=
  let bad (b : Bool) : Bool := !b
  let fill := dsOp d == 1
  let drain := dsOp d == 2
  bad (fill || drain) || decide (3 < dsFlags d) || decide (63 < dsSlotByte d) || decide (4 < dsKind d)
    || !zeroAt d 0x1C 4 || !zeroAt d 0x39 7 || bad (addrBitsOk d)
    || (drain && (dsKind d == 3 || (dsKind d == 0 && dsRole d == 4))) || (fill && dsKind d == 4)
    || decide (16777216 < dsN0 d)
    || (if dsKind d = 3 then
          bad (oneRun d) || bad (arrivalPair (dsConvRead d) (dsConvWrite d)) || decide (1 < dsConvRnd d)
            || fld (dsConv d) 15 12 != 0 || dsRole d != 4 || addrUnit (dsAddr d) != 1
        else bad (convOk d) || dsT d % (max 1 (dsRemSize d)) != 0)
    || (dsToCore d && (dsN0 d % 512 != 0 || dsS1 d % 512 != 0 || dsS2 d % 512 != 0 || dsS3 d % 512 != 0
          || (dsKind d == 0 && addrOff (dsAddr d) % 512 != 0)))
    || (dsKind d == 4 && bad (oneRun d))
    || (dsRslotByte d != 0 && (bad (drain && dsToCore d) || bitAt (dsRslotByte d) 6))
    || bad (slotValid (slotDesc c (dsSlot d)))
    || (dsRows d == 0 && dsNeed d != 0)

/-- Access fault 2, SLOT_BOUND. -/
def boundFault (c : Core) (d : List Byte) : Bool :=
  decide (slotRows (slotDesc c (dsSlot d)) < dsRowOff d + dsRows d) || decide (dsRows d < dsNeed d)

/-- The first byte and the last of every run of the remote stream. -/
def runEnds (d : List Byte) : List (Int × Int) :=
  if dsT d = 0 then []
  else (List.range (dsN1 d * dsN2 d * dsN3 d)).map (fun r =>
    (dsByteAddr d (r * dsN0 d), dsByteAddr d (r * dsN0 d + dsN0 d - 1)))

/-- Whether an address lies at a site that a partition owns. -/
def ownedAddr (s : State) (part : Nat) (a : Int) : Bool :=
  decide (0 ≤ a) && decide (a < 2 ^ 56) && decide (addrY a.toNat < 14) && ownerOf s (addrSite a.toNat) == part

/-- The interleave window of a KIND 1 descriptor. -/
def dsWindow (s : State) (part : Nat) (d : List Byte) : Option StackWindow :=
  (partOf s part).windows.getD (fld (dsAddr d) 61 56) none

/-- The stacks of a window in order (R329). -/
def windowStacks (w : StackWindow) : List Nat := (List.range 32).filter (fun n => bitAt w.mask n)

/-- The offset of a byte of a KIND 1 or KIND 2 descriptor in its window or in host memory: KIND 1 addresses carry the
window number above bit 55. -/
def dsPlainAddr (d : List Byte) (a : Int) : Int := if dsKind d = 1 then a - (fld (dsAddr d) 61 56 * 2 ^ 56 : Nat) else a

/-- The burst of a run that starts at an address: it ends at the run's end or at the next multiple of 2 KiB (R203). -/
def burstLen (a : Int) (left : Nat) : Nat := min left (2048 - (a % 2048).toNat)

/-- Whether every burst of a run of host addresses lies in one window that allows its direction (R426). -/
def hostRunOk (s : State) (part : Nat) (wr : Bool) : Nat → Int → Nat → Bool
  | 0, _, _ => true
  | n + 1, a, left =>
    if left = 0 then true
    else
      let k := burstLen a left
      decide (0 ≤ a) && decide (a + k ≤ 2 ^ 64) && hostWindowOk s part a.toNat k wr && hostRunOk s part wr n (a + k) (left - k)

/-- The entry of a descriptor's rank in its die's copy (R406). -/
def dsRankEntry (s : State) (k part : Nat) (d : List Byte) : Nat :=
  rankEntry (partOf s part) (siteOfCore k) (fld (dsAddr d) 19 0)

/-- Access fault 3, PARTITION. -/
def partitionFault (s : State) (k part : Nat) (d : List Byte) : Bool :=
  if dsLen d = 0 then false
  else if dsKind d = 0 then (runEnds d).any (fun r => !ownedAddr s part r.1 || !ownedAddr s part r.2)
  else if dsKind d = 1 then
    (match dsWindow s part d with
    | none => true
    | some w =>
      let size : Int := ((windowStacks w).length * w.perStack : Nat)
      (runEnds d).any (fun r =>
        decide (dsPlainAddr d r.1 < 0) || decide (size ≤ dsPlainAddr d r.2)))
  else if dsKind d = 2 then
    (runEnds d).any (fun r => !hostRunOk s part (dsOp d == 2) (dsN0 d / 2048 + 2) r.1 (dsN0 d))
  else if dsKind d = 3 then !ownedAddr s part (dsAddr d)
  else !rankValid (dsRankEntry s k part d)

/-- The first access fault that the start stage finds, 0 for none. -/
def startFault (s : State) (k part : Nat) (d : List Byte) : Nat :=
  let c := coreOf s k
  if fieldFault c d then 1 else if boundFault c d then 2 else if partitionFault s k part d then 3 else 0

/-- The bay of a core takes an access fault, and AX_STATUS keeps its cause (R201). -/
def accessFault (k code : Nat) (s : State) : State :=
  let s := modCore k (fun c => { c with st := { c.st with axFault := if c.st.axFault = 0 then code else c.st.axFault } }) s
  match bayOfCore s k with
  | none => s
  | some (i, b) => setBay i (faultNow 3 k b) s

/-! ## Bursts (R203, R329, R367) -/

/-- What the engine issues next for a descriptor: its place and length in the stream, and the packet's flight, or the
status with which the inflate unit answers a page record. -/
inductive BurstPlan where
  | send (len : Nat) (f : Flight)
  | refused (len status : Nat)
  deriving DecidableEq, Repr

/-- The page and the block at which block `j` of a run stands (R367). -/
def blockPlace (s : State) (w : Nat) : Nat → Nat → Nat → Nat → Nat × Nat
  | 0, p, f, _ => (p, f)
  | n + 1, p, f, j =>
    let avail := (pageOf s w p).nblk - f
    if j < avail ∨ avail = 0 then (p, f + j) else blockPlace s w n (p + 1) 0 (j - avail)

/-- The next burst of a KIND 3 descriptor. -/
def planInflate (s : State) (k : Nat) (x : DescRun) (tag : Nat) : BurstPlan :=
  let d := x.raw
  let w := wstoreOfSite (addrSite (dsAddr d))
  let o := addrOff (dsAddr d)
  let pl := blockPlace s w 262144 (o / 65536) (o % 65536) x.next
  let r := pageOf s w pl.1
  if 262144 ≤ pl.1 then .refused 0 4
  else if !pageBlocks r || r.elemFmt != dsConvRead d || decide (r.nblk ≤ pl.2) then .refused 0 6
  else
    let n := min (burstBlocks r.elemFmt) (min (r.nblk - pl.2) (dsN0 d - x.next))
    .send n ⟨mkRequest s (siteOfCore k) (coreBit k) (addrOf (addrSite (dsAddr d)) 1 (65536 * pl.1 + pl.2)) 1
      (n * blockBytes r.elemFmt) tag false [], none, .nothing⟩

/-- The destination of a burst at a remote address: the service address, and what goes beside it. -/
def burstDest (s : State) (part : Nat) (x : DescRun) (a : Int) : Nat × Cargo :=
  let d := x.raw
  if dsKind d = 1 then
    (match dsWindow s part d with
    | none => (0, .nothing)
    | some w =>
      let o := (dsPlainAddr d a).toNat
      let st := windowStacks w
      let c := o / 2048
      (stackAddr (st.getD (c % max 1 st.length) 0) (w.base + c / max 1 st.length * 2048 + o % 2048), .nothing))
  else if dsKind d = 2 then (addrOf (kingSite s) 3 (a.toNat % 2 ^ 40), .hostAddr a.toNat)
  else if dsKind d = 4 then
    let l := fld x.rank 39 32
    (addrOf (linkSite l) (l % 4) (fld (dsAddr d) 19 0 * 2 ^ 20 + a.toNat % 2 ^ 20), .rankEntry x.rank)
  else (a.toNat, .nothing)

/-- The address of a byte of the stream as bursts are cut by it: for KIND 4 the byte offset in the target scratchpad. -/
def streamAddr (d : List Byte) (o : Nat) : Int :=
  if dsKind d = 4 then ((512 * fld (dsAddr d) 29 20 + o : Nat) : Int) else dsByteAddr d o

/-- The bytes left in the run of byte `o`. -/
def runLeft (d : List Byte) (o : Nat) : Nat := dsN0 d - o % max 1 (dsN0 d)

/-- What the final burst of a DRAIN with RSET carries (R206, R406). -/
def burstExtra (d : List Byte) (o n : Nat) : Option RankExtra :=
  if dsOp d = 2 && dsToCore d then
    some ⟨o + n == dsT d, bitAt (dsRslotByte d) 7, BitVec.ofNat 6 (dsRslotByte d)⟩
  else none

/-- Elements of `r` bytes converted to elements of `l` bytes (R199). -/
def convertElems (d : List Byte) (bs : List Byte) : List Byte :=
  if dsConv d = 0 then bs
  else
    match fmOfCode (dsConvRead d), fmOfCode (dsConvWrite d) with
    | some f, some g =>
      let r := convSize (dsConvRead d)
      let l := convSize (dsConvWrite d)
      (List.range (bs.length / max 1 r)).flatMap (fun n =>
        natLe l (cvtVal g (rmodeOf (dsConvRnd d) 0) (fmDecode f (leAt bs (r * n) r))).1)
    | _, _ => bs

/-- The elements of the remote stream that bytes `o` to `o + n − 1` touch: first and number. -/
def elemSpan (d : List Byte) (o n : Nat) : Nat × Nat :=
  let r := max 1 (dsRemSize d)
  (o / r, (o + n + r - 1) / r - o / r)

/-- The rows of the core that a DRAIN burst reads. -/
def drainRows (s : State) (k : Nat) (d : List Byte) (o n : Nat) : List Nat :=
  let e := elemSpan d o n
  let l := max 1 (dsSlotSize d)
  let a := e.1 * l / 512
  (List.range ((e.1 * l + e.2 * l + 511) / 512 - a)).map (fun i =>
    slotBaseOf (coreOf s k) (dsSlot d) + dsRowOff d + a + i)

/-- The rows that a DRAIN burst reads, each with the cycle that reads it: one in a period (R204). -/
def drainReads (k : Nat) : List Nat → State → List (Nat × Nat)
  | [], _ => []
  | d :: ds, s =>
    let p := rowSlot s k d
    (d, p.2) :: drainReads k ds (usePort k p.1 s)

/-- The engine has placed its reads. -/
def placeReads (k : Nat) (rows : List Nat) (s : State) : State :=
  rows.foldl (fun s d => usePort k (rowSlot s k d).1 s) s

/-- The data of a DRAIN burst, as its rows hold them when they are read (R205). -/
def drainData (s : State) (k : Nat) (d : List Byte) (o n : Nat) : List Byte :=
  let e := elemSpan d o n
  let l := max 1 (dsSlotSize d)
  let r := max 1 (dsRemSize d)
  let rows := (drainReads k (drainRows s k d o n) s).flatMap (fun p => rowBytes (rowAt s k p.1 p.2))
  ((convertElems d ((rows.drop (e.1 * l % 512)).take (e.2 * l))).drop (o - e.1 * r)).take n

/-- The next burst of a descriptor. -/
def planBurst (s : State) (k part : Nat) (x : DescRun) (tag : Nat) : BurstPlan :=
  let d := x.raw
  if dsKind d = 3 then planInflate s k x tag
  else
    let a := streamAddr d x.next
    let n := burstLen a (runLeft d x.next)
    let dest := burstDest s part x a
    let op := if dsOp d = 1 then 1 else 2
    .send n ⟨mkRequest s (siteOfCore k) (coreBit k) dest.1 op n tag false
      (if dsOp d = 1 then [] else drainData s k d x.next n), burstExtra d x.next n, dest.2⟩

/-- A started descriptor replaced. -/
def modRun (k id : Nat) (f : DescRun → DescRun) (s : State) : State :=
  modCore k (fun c => { c with ax := { c.ax with
    started := c.ax.started.map (fun x => if x.id = id then f x else x) } }) s

/-- Bursts issue while burst slots are free and a started descriptor has some left (R202, R203). The rows that a DRAIN reads
are examined; a row that cannot be read leaves the descriptor incomplete. -/
def issueBursts (k part : Nat) : Nat → State → State
  | 0, s => s
  | n + 1, s =>
    let c := coreOf s k
    if 16 ≤ c.ax.bursts.length then s
    else
      match c.ax.started.find? (fun x => !x.failed && decide (x.next < dsLen x.raw)) with
      | none => s
      | some x =>
        let tag := c.ax.nextTag
        let take (len : Nat) (b : Burst) (s : State) : State :=
          modRun k x.id (fun y => { y with next := y.next + len })
            (modCore k (fun c => { c with ax := { c.ax with
              bursts := c.ax.bursts ++ [b], nextTag := (tag + 1) % 4096 } }) s)
        match planBurst s k part x tag with
        | .refused len st =>
          issueBursts k part n (modRun k x.id (fun y => { y with failed := true })
            (take len ⟨BitVec.ofNat 12 tag, x.id, x.next, len, true, st, []⟩ s))
        | .send len f =>
          let rows := if dsOp x.raw = 2 then drainRows s k x.raw x.next len else []
          let t := placeReads k rows (checkReads k (rows.map (fun d => (d, portCycle s k))) s)
          if rowsBad s k rows then
            issueBursts k part n (modRun k x.id (fun y => { y with failed := true }) t)
          else
            issueBursts k part n (sendRequest f
              (take len ⟨BitVec.ofNat 12 tag, x.id, x.next, len, false, 0, []⟩ t))

/-! ## Starting (R202) -/

/-- Whether the access engine of a bay moves data (R204, R207). -/
def engineRuns (b : Bay) : Bool :=
  b.mode != .stopped && (match b.change with | some p => p.stage != .stopped | none => true)

/-- Whether the access engine starts descriptors (R207, R268). -/
def engineStarts (b : Bay) : Bool :=
  engineRuns b && b.mode != .draining && b.mode != .faultHold && b.faultDue.isNone

/-- Whether the slot of a descriptor has the tag that its WAIT awaits (R202). -/
def waitMet (s : State) (k : Nat) (d : List Byte) : Bool :=
  let full := tagAt (coreOf s k) (dsSlot d) (portCycle s k)
  !dsWait d || (if dsOp d = 1 then !full else full)

/-- DESCRIPTOR_START: the head descriptor is checked, waits for its tag, starts and issues bursts. -/
def execDescriptorStart (k : CoreId) (time : Nat) (s : State) : Out :=
  let n := coreNo k
  match bayOfCore s n, (coreOf s n).ax.queue with
  | some (_, b), d :: rest =>
    let s0 := s
    let s := atTime time s
    if !engineStarts b then .next s0
    else
      let f := startFault s n b.part d
      if f ≠ 0 then .next (accessFault n f s)
      else if !waitMet s n d then .next s0
      else
        let s := modCore n (fun c => { c with ax := { c.ax with
          queue := rest
          started := c.ax.started ++ [⟨c.ax.nextDesc, d, 0, [], 0, dsRankEntry s n b.part d, false⟩]
          nextDesc := c.ax.nextDesc + 1 } }) s
        .next (issueBursts n b.part 16 s)
  | _, _ => .next s

/-! ## Responses (R203, R204, R539) -/

/-- A burst found by its tag. -/
def burstOf (c : Core) (tag : BitVec 12) : Option Burst := c.ax.bursts.find? (fun b => b.tag == tag)

/-- The byte of the remote stream at a place, where a burst in use has brought it. -/
def arrivedByte (c : Core) (id o : Nat) : Option Byte :=
  (c.ax.bursts.find? (fun b => b.desc = id && b.answered && b.status = 0 && decide (b.off ≤ o) && decide (o < b.off + b.len))).map
    (fun b => b.data.getD (o - b.off) 0)

/-- The bytes of the remote stream in a range, once all have arrived. -/
def arrivedBytes (c : Core) (id o n : Nat) : Option (List Byte) :=
  (List.range n).mapM (fun i => arrivedByte c id (o + i))

/-- The block of a KIND 3 run, once it has arrived. -/
def arrivedBlock (c : Core) (id code j : Nat) : Option (List Byte) :=
  (c.ax.bursts.find? (fun b => b.desc = id && b.answered && b.status = 0 && decide (b.off ≤ j) && decide (j < b.off + b.len))).map
    (fun b => bytesAt b.data ((j - b.off) * blockBytes code) (blockBytes code))

/-- The remote bytes that row `r` of the slot stream needs: first and number. -/
def rowNeeds (d : List Byte) (r : Nat) : Nat × Nat :=
  let l := max 1 (dsSlotSize d)
  let m := max 1 (dsRemSize d)
  let lo := 512 * r
  let hi := min (512 * r + 512) (dsU d)
  (lo / l * m, (hi - lo) / l * m)

/-- The blocks that row `r` of a KIND 3 descriptor needs: first and number. -/
def blockNeeds (d : List Byte) (r : Nat) : Nat × Nat :=
  let bpr := arriveBpr d
  if r < arriveElemRows d then (bpr * r, min (bpr * (r + 1)) (dsN0 d) - bpr * r)
  else
    let per := 512 / max 1 (scaleBytes (dsConvWrite d))
    let q := r - arriveElemRows d
    (per * q, min (per * (q + 1)) (dsN0 d) - per * q)

/-- The row of a KIND 3 descriptor from the blocks it needs. -/
def arriveRow (d : List Byte) (r : Nat) (blocks : List (List Byte)) : Row :=
  let st := dsConvRead d
  let wr := dsConvWrite d
  match fmOfCode st, fmOfCode wr with
  | some f, some g =>
    let bs := blocks.map (splitBlock st f)
    if isBlockedCode wr then
      let out := bs.map (fun b => arriveBlocked st wr b.1 b.2)
      if r < arriveElemRows d then rowOfElems (fmBits g) (out.flatMap (fun o => o.1))
      else rowOfBytes (out.flatMap (fun o => natLe (scaleBytes wr) o.2))
    else rowOfElems (fmBits g) (bs.flatMap (fun b => arriveFlat st wr (dsConvRnd d) b.1 b.2))
  | _, _ => 0

/-- The contents of row `r` of a FILL, once all its bytes have arrived (R203). -/
def fillRow (c : Core) (x : DescRun) (r : Nat) : Option Row :=
  let d := x.raw
  if dsKind d = 3 then
    let n := blockNeeds d r
    ((List.range n.2).mapM (fun i => arrivedBlock c x.id (dsConvRead d) (n.1 + i))).map (arriveRow d r)
  else
    let n := rowNeeds d r
    (arrivedBytes c x.id n.1 n.2).map (fun bs => rowOfBytes (convertElems d bs))

/-- The rows of a FILL that hold bytes of a burst. -/
def burstRows (d : List Byte) (b : Burst) : List Nat :=
  if dsKind d = 3 then
    (List.range (dsNeed d)).filter (fun r =>
      let n := blockNeeds d r; decide (n.1 < b.off + b.len) && decide (b.off < n.1 + n.2))
  else
    let l := max 1 (dsSlotSize d)
    let m := max 1 (dsRemSize d)
    let lo := b.off / m * l / 512
    let hi := ((b.off + b.len + m - 1) / m * l + 511) / 512
    (List.range (hi - lo)).map (fun i => lo + i)

/-- The rows of a FILL that a burst has completed are written, one in a period (R204). -/
def writeFillRows (k : Nat) (x : DescRun) (rows : List Nat) (s : State) : State :=
  rows.foldl (fun s r =>
    match (coreOf s k).ax.started.find? (fun y => y.id = x.id) with
    | none => s
    | some y =>
      if y.rowsDone.contains r then s
      else
        match fillRow (coreOf s k) y r with
        | none => s
        | some data =>
          let d := slotBaseOf (coreOf s k) (dsSlot x.raw) + dsRowOff x.raw + r
          let p := rowSlot s k d
          modRun k x.id (fun y => { y with rowsDone := y.rowsDone ++ [r], landed := max y.landed p.1 })
            (usePort k p.1 (putEngineRow k d p.2 data x.id s))) s

/-- Bursts whose rows are all written free their slots. -/
def freeBursts (k : Nat) (s : State) : State :=
  modCore k (fun c => { c with ax := { c.ax with
    bursts := c.ax.bursts.filter (fun b =>
      match c.ax.started.find? (fun y => y.id = b.desc) with
      | none => true
      | some y => !(b.answered && b.status == 0 && dsOp y.raw == 1 && (burstRows y.raw b).all y.rowsDone.contains)) } }) s

/-- The time at which an engine comes to rest (R58, R268). -/
def noteRest (k : Nat) (s : State) : State :=
  if accessDrained (coreOf s k) then modCore k (fun c => { c with ax := { c.ax with idleAt := portCycle s k } }) s else s

/-- A burst ends its slot. -/
def dropBurst (k : Nat) (b : Burst) (s : State) : State :=
  modCore k (fun c => { c with ax := { c.ax with bursts := c.ax.bursts.erase b } }) s

/-- What an answered burst does: rows are written, or it is acknowledged, or it faults. -/
def takeBurst (k : Nat) (b : Burst) (x : DescRun) (s : State) : State :=
  if b.status ≠ 0 then
    accessFault k (if b.status = 5 then 5 else 4) (modRun k x.id (fun y => { y with failed := true }) (dropBurst k b s))
  else if dsOp x.raw = 2 then dropBurst k b s
  else freeBursts k (writeFillRows k x (burstRows x.raw b) s)

/-- BURST_RESPONSE: the answer of a burst is taken from its buffer. -/
def execBurstResponse (k : CoreId) (tag : BitVec 12) (time : Nat) (s : State) : Out :=
  let n := coreNo k
  match bayOfCore s n, burstOf (coreOf s n) tag with
  | some (_, b), some u =>
    if !engineRuns b || !u.answered then .next s
    else
      match (coreOf s n).ax.started.find? (fun y => y.id = u.desc) with
      | none => .next (noteRest n (dropBurst n u (atTime time s)))
      | some x => .next (noteRest n (issueBursts n b.part 16 (takeBurst n u x (atTime time s))))
  | _, _ => .next s

/-- Whether a started descriptor has moved all its data by a period (R204). -/
def descDone (c : Core) (p : Nat) (x : DescRun) : Bool :=
  !x.failed && decide (dsLen x.raw ≤ x.next) && c.ax.bursts.all (fun b => b.desc != x.id) && decide (x.landed ≤ p)

/-- A tag action of the access port: in a cycle of its bay, or in a period of its own where no cycle runs (R191, R207). -/
def portTag (k slot : Nat) (full : Bool) (s : State) : State :=
  let alone := match bayOfCore s k with | some (_, b) => !cyclesRun b | none => true
  let t := portCycle s k
  modCore k (if alone then tagActAlone slot full t else tagAct slot full t) s

/-- The rows of a descriptor whose periods have passed while no cycle ran have landed before the next cycle. -/
def landDesc (k id : Nat) (s : State) : State :=
  match bayOfCore s k with
  | some (_, b) =>
    if cyclesRun b then s
    else (blockCores s k).foldl (fun s j => modCore j (landRows b.count (fun w => w.op == id)) s) s
  | none => s

/-- DESCRIPTOR_COMPLETE: the oldest started descriptor has moved all its data; it takes its TAG action and releases its
entry. -/
def execDescriptorComplete (k : CoreId) (time : Nat) (s : State) : Out :=
  let n := coreNo k
  match bayOfCore s n, (coreOf s n).ax.started with
  | some (_, b), x :: rest =>
    let s' := atTime time s
    if !engineRuns b || !descDone (coreOf s n) (periodNow s' b) x then .next s
    else
      let s := landDesc n x.id s'
      let s := if dsTag x.raw then portTag n (dsSlot x.raw) (dsOp x.raw == 1) s else s
      .next (settleHolds (noteRest n (modCore n (fun c => { c with
        ax := { c.ax with started := rest }
        st := { c.st with descDone := satInc 65535 c.st.descDone } }) s)))
  | _, _ => .next s

/-! ## Remote writes (R206) -/

/-- Whether a core can take a write with RSET into a slot: it belongs to a loaded bay and the slot is valid. -/
def rsetOk (s : State) (k slot : Nat) : Bool :=
  (bayOfCore s k).isSome && slotValid (slotDesc (coreOf s k) slot)

/-- Whether the access port of a core moves data now (R207). -/
def portOpen (s : State) (k : Nat) : Bool :=
  match bayOfCore s k with
  | some (_, b) => (match b.change with | some p => p.stage != .stopped | none => true)
  | none => true

/-- REMOTE_SCRATCHPAD_WRITE: the oldest remote write at a core lands, in a cycle in which its banks have a port free
(R187). -/
def execRemoteScratchpadWrite (k : CoreId) (time : Nat) (s : State) : Out :=
  let n := coreNo k
  match (coreOf s n).ax.remote with
  | [] => .next s
  | w :: rest =>
    let s0 := s
    let s := modCore n (fun c => { c with ax := { c.ax with remote := rest } }) (atTime time s)
    if !portOpen s n || !portsFree s n (spanRows (addrOff (destOf w.q)) w.q.len) then .next s0
    else if w.rset && !rsetOk s n w.rslot then .next (answer w.q 4 [] s)
    else if w.rset && tagAt (coreOf s n) w.rslot (portCycle s n) then .next s0
    else
      let r := writeMem (.core n) (addrOff (destOf w.q)) w.q.data ⟨[], []⟩ s
      let s := if w.rset && w.last then settleHolds (portTag n w.rslot true r.2) else r.2
      .next (answer w.q (if r.1 then 5 else 0) [] s)

end Sys2Proof.Machine
end

