-- ==== Sys2Proof/Machine/Bundle.lean ====
section
/-! DEFINITION. Firmware bundles as the banks hold them (Tables 16-6 and 16-7), and the microcode of the cores (R471 to
R473). -/

namespace Sys2Proof.Machine

/-- The banks of the king post: the active and the inactive one (R466). -/
def kingBanks (s : State) : Bank × Bank := s.boot.banks.getD (b2n s.fp.kingAlt) (⟨false, []⟩, ⟨false, []⟩)

def bnVersion (b : List Byte) : Nat := leAt b 0x08 8
def bnCompat (b : List Byte) : Nat := leAt b 0x10 8
def bnLen (b : List Byte) : Nat := leAt b 0x18 4
def bnSigOff (b : List Byte) : Nat := leAt b 0x1C 4
def bnRbCounter (b : List Byte) : Nat := leAt b 0x20 1
def bnRbValue (b : List Byte) : Nat := leAt b 0x22 2

/-- The directory entry `j` of a bundle. -/
def bnEntry (b : List Byte) (j : Nat) : List Byte := bytesAt b (64 + 96 * j) 96

/-- The directory entry of a kind; zeros where the bundle holds none. -/
def bnComponent (b : List Byte) (kind : Nat) : List Byte :=
  (((List.range 7).map (bnEntry b)).find? (fun e => leAt e 0 1 == kind)).getD (copies 96 0)

/-- The bytes of a component. -/
def bnBytes (b : List Byte) (e : List Byte) : List Byte := bytesAt b (leAt e 8 4) (leAt e 4 4)

/-- Whether a component's digest is that of its entry. -/
def digestOk (b : List Byte) (e : List Byte) : Bool := shakeDigest (bnBytes b e) == bytesAt e 0x20 64

/-- Each bundle's COMPAT_MIN is at or below the other's VERSION. -/
def bundlesCompatible (a b : List Byte) : Bool :=
  decide (bnCompat a ≤ bnVersion b) && decide (bnCompat b ≤ bnVersion a)

/-- The version of the active bundle. -/
def activeVersion (s : State) : Nat := bnVersion (kingBanks s).1.bytes

/-! ## Microcode -/

/-- The microcode of the active bank, as `Core.microcode` names it: 1 more than its digest's number. -/
def activeMicro (s : State) : Nat := 1 + leNat (bytesAt (bnComponent (kingBanks s).1.bytes 7) 0x20 64)

/-- One attempt of a core's loader: whether the digest fails, whether an injection alone made it fail, and the state
after. -/
def microAttempt (k : Nat) (s : State) : Bool × Bool × State :=
  let b := (kingBanks s).1.bytes
  let good := digestOk b (bnComponent b 7)
  let j := examine 20 (aimsCore k) s
  (!good || j.1, good && j.1, j.2)

/-- The attempts that are left, and whether every failure so far was injected. The first load and three repeats may
fail before the core does (R471, Table 19-8). -/
def microTries (k : Nat) : Nat → Bool → State → State
  | 0, inj, s => failCore k inj s
  | n + 1, inj, s =>
    let r := microAttempt k s
    if r.1 then microTries k n (inj && r.2.1) r.2.2
    else modCore k (fun c => { c with microcode := activeMicro s }) r.2.2

/-- A core's loader loads the microcode of the active bank; a core that cannot fails. -/
def loadMicro (k : Nat) (s : State) : State := microTries k 4 true s

/-- MICROCODE_LOAD (R471): a core that has left reset, or whose load firmware asks for, loads its microcode. -/
def execMicrocodeLoad (k : CoreId) (time : Nat) (s : State) : Out :=
  let n := coreNo k
  let i := siteOfCore n
  if !sitePowered s i || !bitAt (entryAt s i).coreGood.toNat (coreBit n) || (bayOfCore s n).isSome
      || (coreOf s n).microcode == activeMicro s then .next s
  else .next (loadMicro n (atTime time s))

end Sys2Proof.Machine
end

