-- ==== Sys2Proof/Machine/Issue.lean ====
section
/-! DEFINITION. Issue of an operation and the actions of the engines that several families share (R53 to R66,
R78, R191, R192). -/

namespace Sys2Proof.Machine

/-- The choice that the issue stage makes at a CLOOP or CTEST (R64, R71, R73). -/
def issueChoice (c : Core) (o : BitVec 128) (t : Nat) : WalkChoice :=
  match opKind o with
  | some .cloop => walkChoose o (counterAt c (coCtr o) t).1.toNat
  | some .ctest => walkChoose o (counterAt c (coCtr o) t).1.toNat
  | _ => .none

/-- The lookahead's walk rebuilt behind a decision that it had resolved otherwise (R64): where the operations
that follow are the same, it keeps its own later resolutions. -/
def rewalk (c : Core) : List AheadRec → Walker → Walker
  | [], w => w
  | r :: rs, w => rewalk c rs (walkNext c r.choice w)

/-- What the lookahead made of an operation at an index, if anything. -/
def recAt (idx : Nat) (recs : List AheadRec) : Option AheadRec := recs.find? (fun r => r.idx == idx)

/-- The lookahead's walk moved on past every operation whose check cycle has passed. One that the lookahead has looked at
keeps its record, with the cycle in which it issues now; any other has had no check. The records that are left belong to
operations that do not run (R64). -/
def skipPast (c : Core) (t : Nat) : Nat → Walker → List AheadRec → List AheadRec → Walker × List AheadRec × List AheadRec
  | 0, w, old, rs => (w, rs, old)
  | n + 1, w, old, rs =>
    if w.finished ∨ t + horizon < w.due then (w, rs, old)
    else
      match recAt w.idx old with
      | some r => skipPast c t n (walkNext c r.choice w) (old.erase r) (rs ++ [{ r with due := w.due }])
      | none =>
        let ch := issueChoice c (opAt c w.idx) t
        skipPast c t n (walkNext c ch w) old (rs ++ [⟨w.idx, w.due, true, 0, [], ch⟩])

/-- What the lookahead reserved and claimed for an operation that the issue stage shims is released (R64,
R66). -/
def releaseAhead (k : Nat) (r : AheadRec) (s : State) : State :=
  let s := modCore k (fun c => { c with ax := { c.ax with reserved := c.ax.reserved - r.reserved } }) s
  r.claims.foldl (fun s d => modXingOut k d (fun x => { x with driveClaims := x.driveClaims - 1 }) s) s

/-! ## The pages of the peg lookahead (R85, R228, R229) -/

/-- The position after the entry of a resolved position has run. -/
def pegNext (c : Core) (w : PegWalk) : PegWalk :=
  { w with cycle := w.cycle + 1
           entry := if w.entry + 1 ≥ pegPeriod c w.page then 0 else w.entry + 1
           last := pegEntryAt c w.page w.entry }

/-- The position `n` cycles on. -/
def pegRun (c : Core) : Nat → PegWalk → PegWalk
  | 0, w => w
  | n + 1, w => pegRun c n (pegNext c (pegResolve w))

/-- The page switches that the lookahead of the sequencer has resolved for operations still to issue. -/
def aheadPages (c : Core) (recs : List AheadRec) : List (Nat × Nat) :=
  (recs.filter (fun r => !r.shim && opKind (opAt c r.idx) == some .pegPage)).map
    (fun r => (ppPage (opAt c r.idx), r.due))

/-- The peg lookahead follows the issue stage where the two differ, given what the lookahead made of the operations still to
issue (R229). -/
def pegFollow (recs : List AheadRec) (c : Core) : Core :=
  let start := { c.rt.run with next := c.rt.run.next ++ aheadPages c recs }
  { c with rt := { c.rt with ahead := pegRun c (c.rt.ahead.cycle - c.rt.run.cycle) start } }

/-- The same while the operation at the front of the records issues. -/
def pegResync (k : Nat) (s : State) : State := modCore k (fun c => pegFollow c.seq.recs.tail c) s

/-- The issue stage goes on with a walk that the lookahead did not foresee: the operations that both run keep what the
lookahead made of them, what it made of the others is released, and the peg lookahead follows (R64, R229). -/
def leaveWalk (k t : Nat) (w : Walker) (s : State) : State :=
  let c := coreOf s k
  let p := skipPast c t (horizon + 2) w c.seq.recs.tail []
  let s := p.2.2.foldl (fun s r => releaseAhead k r s) s
  modCore k (fun c => pegFollow p.2.1 { c with seq := { c.seq with issue := w, ahead := p.1, recs := p.2.1 } }) s

/-- The issue stage passes the operation at its index: the walk moves on, and a resolution of the lookahead
that differs gives way (R64). -/
def issueAdvance (k t : Nat) (s : State) : State :=
  let c := coreOf s k
  let w := c.seq.issue
  let o := opAt c w.idx
  let ch := issueChoice c o t
  let w' := walkNext c ch w
  match c.seq.recs with
  | [] => setCore k { c with seq := { c.seq with issue := w', ahead := w' } } s
  | r :: rest =>
    if r.choice = ch then setCore k { c with seq := { c.seq with issue := w', recs := rest } } s
    else if opKind o = some OpKind.cloop ∧ coMax o = 0 then leaveWalk k t w' s
    else setCore k { c with seq := { c.seq with issue := w', ahead := rewalk c rest w', recs := rest } } s

/-- The operation that a core issues in cycle `t`, if it is of the given kind: the word, whether it is a shim,
and what the lookahead made of it. The lookahead has passed it by then (R61, R63). Issue stops in a draining bay
(R268). -/
def issueEnter (k t : Nat) (kind : OpKind) (s : State) : Option (BitVec 128 × Bool × AheadRec × State) :=
  match enterCycle k t s with
  | none => none
  | some (_, b, s) =>
    let c := coreOf s k
    let w := c.seq.issue
    let o := opAt c w.idx
    match c.seq.recs with
    | [] => none
    | r :: _ =>
      if b.mode == .running && !w.finished && w.due == t && opKind o == some kind
          && r.idx == w.idx && r.due == t then
        some (o, walkShim w, r, s)
      else none

/-- A check-ahead operation reaches its issue cycle and its condition does not hold (R65). -/
def checkLate (k t : Nat) (s : State) : State :=
  faultCoreBay 1 k t (modCore k (fun c => { c with st := setCause 1 c.st }) s)

/-- Whether operations of a kind name slots. -/
def namesSlots (kind : OpKind) : Bool :=
  kind == .matrixStep || kind == .vectorChain || kind == .scanCall || kind == .accessEnq || kind == .send
    || kind == .receive

/-- The stores that an operation is read from are examined; one issued as a shim meets no error (R541). -/
def examineOp (k t : Nat) (kind : OpKind) (s : State) : State :=
  let s := examineParity k t 0 s
  if namesSlots kind then examineParity k t 1 s else s

/-- The operation issues: as a shim it has only its timeline (R78), a check-ahead operation whose condition does
not hold puts the bay into fault hold (R65), and any other has its effect. An operation that is not due leaves
the state as it is (log entry 1). -/
def issueRun (k t : Nat) (kind : OpKind) (shimEff : BitVec 128 → State → State)
    (eff : BitVec 128 → AheadRec → State → State) (s : State) : Out :=
  match issueEnter k t kind s with
  | none => .next s
  | some (o, shim, r, s) =>
    if shim then
      let s := if r.shim then s else releaseAhead k r s
      .next (issueAdvance k t (shimEff o s))
    else if opChk o && !chkMet s k o t (fun x => x.accepted.length) then
      .next (issueAdvance k t (checkLate k t s))
    else .next (issueAdvance k t (eff o r (examineOp k t kind s)))

/-- A shim with nothing but its timeline. -/
def noShim (_ : BitVec 128) (s : State) : State := s

/-! ## Tag actions of scheduled units -/

/-- The tag actions of a kind due in cycle `t` take place (R191, R192): each set-empty by a consume expects the
slot full, and each set-full expects it empty where `expectEmpty` says so. -/
def runTagActs (kind : TagKind) (k t : Nat) (expectEmpty : Nat → Bool) (s : State) : Out :=
  match enterCycle k t s with
  | none => .next s
  | some (_, _, s') =>
    let due := (coreOf s' k).eng.tagActs.filter (fun a => a.kind == kind && a.cycle == t)
    if due.isEmpty then .next s
    else
      let s := due.foldl (fun s a =>
        let s := a.empties.foldl (fun s n => modCore k (tagAct n false (t + 1)) (expectTag k n true 0 t s)) s
        a.fulls.foldl (fun s n =>
          let s := if expectEmpty n then expectTag k n false 0 t s else s
          modCore k (tagAct n true (t + 1)) s) s) s'
      .next (modCore k (fun c => { c with eng := { c.eng with
        tagActs := c.eng.tagActs.filter (fun a => !(a.kind == kind && a.cycle == t)) } }) s)

/-- A tag action is planned. -/
def planTags (a : TagAct) (c : Core) : Core :=
  if a.empties.isEmpty && a.fulls.isEmpty then c
  else { c with eng := { c.eng with tagActs := c.eng.tagActs ++ [a] } }

/-- Whether any of the rows is a deep row beyond the lead core (R212). -/
def deepTerm (rows : List Nat) : Nat := if rows.any (fun d => decide (1024 ≤ d)) then 6 else 0

/-- The rows of a slot from an offset on. -/
def slotSpan (c : Core) (slot off n : Nat) : List Nat :=
  (List.range n).map (fun i => slotBaseOf c slot + off + i)

/-- The effective VL of a chain that starts in cycle `t` (R157, R158). -/
def vxEff (c : Core) (o : BitVec 128) (t : Nat) : Nat :=
  if vxVlSrc o then min (counterAt c (vxVlCtr o) t).1.toNat (vxBound o) else vxBound o

/-- A fresh operation number of a core's engines. -/
def freshOp (k : Nat) (s : State) : Nat × State :=
  let n := (coreOf s k).eng.nextOp
  (n, modCore k (fun c => { c with eng := { c.eng with nextOp := n + 1 } }) s)

end Sys2Proof.Machine
end

