-- ==== Sys2Proof/Machine/Sequencer.lean ====
section
/-! DEFINITION. The sequencer's own operations: ACCESS_ENQ, SEND, RECEIVE, the counter and token operations, PEG_PAGE
and EPOCH_MARK (The Core and Its Sequencer). -/

namespace Sys2Proof.Machine

/-! ## ACCESS_ENQ (R66, R195, R604) -/

/-- The rows that hold the descriptors an ACCESS_ENQ names. -/
def enqRows (c : Core) (o : BitVec 128) : List Nat :=
  slotSpan c (aeSlot o) (aeRow o) ((aePos o + aeCount o + 7) / 8)

/-- The descriptors that an ACCESS_ENQ names, as cycle `t` reads them. -/
def enqDescs (s : State) (k t : Nat) (o : BitVec 128) : List (List Byte) :=
  let bytes := (enqRows (coreOf s k) o).flatMap (fun d => rowBytes (rowAt s k d t))
  (List.range (aeCount o)).map (fun i => bytesAt bytes (64 * (aePos o + i)) 64)

/-- ACCESS_ENQ queues its descriptors in the entries that the lookahead reserved. An ACCESS_ENQ that the lookahead took
for a shim reserves its entries now, and without room it puts the bay into fault hold (R64). -/
def execAccessEnq (k : CoreId) (t : Nat) (s : State) : Out :=
  issueRun (coreNo k) t .accessEnq noShim (fun o r s =>
    let c := coreOf s (coreNo k)
    if r.reserved = 0 ∧ descFree c < aeCount o then checkLate (coreNo k) t s
    else
      let ds := enqDescs s (coreNo k) t o
      let s := checkReads (coreNo k) ((enqRows c o).map (fun d => (d, t))) s
      modCore (coreNo k) (fun c => { c with ax := { c.ax with
        reserved := c.ax.reserved - r.reserved, queue := c.ax.queue ++ ds } }) s) s

/-! ## SEND and RECEIVE (R70, R222, R223, R604) -/

/-- The layer of a SEND or a RECEIVE. -/
def srLayer (o : BitVec 128) : Layer := if srTransit o then .transit else .row

/-- The rows of a SEND or a RECEIVE. -/
def srSpan (c : Core) (o : BitVec 128) : List Nat := slotSpan c (srSlot o) (srRowOff o) (srRows o)

/-- SEND reads its rows from its issue cycle on and drives them from its first row cycle on; with TAG its slot becomes
empty in the cycle after its last item. -/
def execSend (k : CoreId) (t : Nat) (s : State) : Out :=
  issueRun (coreNo k) t .send noShim (fun o r s =>
    let c := coreOf s (coreNo k)
    let rows := srSpan c o
    let deep := deepTerm rows
    let first := t + 2 + deep
    let s := expectTag (coreNo k) (srSlot o) true r.idx t s
    let s := checkReads (coreNo k) ((List.range (srRows o)).map (fun n => (rows.getD n 0, t + n * srStride o))) s
    modCore (coreNo k) (fun c =>
      let c := { c with rt := { c.rt with
        sends := c.rt.sends ++ [⟨srLayer o, first, slotBaseOf c (srSlot o) + srRowOff o, srRows o, deep, false⟩] } }
      if srTag o then planTags ⟨.sendEmpty, first + srRows o * srStride o, [srSlot o], []⟩ c else c) s) s

/-- A SEND with TAG empties its slot (R70, R192). -/
def execSendTagEmpty (k : CoreId) (t : Nat) (s : State) : Out :=
  runTagActs .sendEmpty (coreNo k) t (fun _ => false) s

/-- RECEIVE captures rows from its first row cycle on and writes each of them 3 cycles after its capture; with TAG its
slot becomes full 1 cycle after the last write is due. -/
def execReceive (k : CoreId) (t : Nat) (s : State) : Out :=
  issueRun (coreNo k) t .receive noShim (fun o _ s =>
    let deep := deepTerm (srSpan (coreOf s (coreNo k)) o)
    let first := t + 2
    modCore (coreNo k) (fun c =>
      let c := { c with rt := { c.rt with
        recvs := c.rt.recvs ++
          [⟨srLayer o, first, slotBaseOf c (srSlot o) + srRowOff o, srRows o, deep, false, false, 0⟩] } }
      if srTag o then
        planTags ⟨.receiveFull, first + srRows o * srStride o - 1 + 3 + deep + 1, [], [srSlot o]⟩ c
      else c) s) s

/-- A RECEIVE with TAG sets its slot full (R70, R192). -/
def execReceiveTagFull (k : CoreId) (t : Nat) (s : State) : Out :=
  runTagActs .receiveFull (coreNo k) t (fun _ => true) s

/-! ## Counters (R71 to R78) -/

/-- A counter operation has its effect in a shimmed region too (R78). -/
def counterRun (k t : Nat) (kind : OpKind) (eff : BitVec 128 → State → State) (s : State) : Out :=
  issueRun k t kind eff (fun o _ s => eff o s) s

/-- CLOAD: the counter takes the immediate and is no longer dynamic (R71). -/
def execCload (k : CoreId) (t : Nat) (s : State) : Out :=
  counterRun (coreNo k) t .cload (fun o s =>
    modCore (coreNo k) (putCounter (coCtr o) (t + 1) (coImm o) false) s) s

/-- CSTEP: the counter plus the signed delta, saturating at 0 and 65,535 (R72). -/
def execCstep (k : CoreId) (t : Nat) (s : State) : Out :=
  counterRun (coreNo k) t .cstep (fun o s =>
    let c := coreOf s (coreNo k)
    let v := counterAt c (coCtr o) t
    let x := (v.1.toNat : Int) + coDelta o
    let s := modCore (coreNo k) (putCounter (coCtr o) (t + 1) (BitVec.ofNat 16 (min x.toNat 65535)) v.2) s
    if x < 0 then
      let s := modCore (coreNo k) (fun c => { c with st := { c.st with ctrUnderflow := true } }) s
      noteEvent (coreNo k) 7 (coCtr o) c.seq.issue.idx t (twos 64 (coDelta o)) (fun st => st) s
    else if x > 65535 then modCore (coreNo k) (fun c => { c with st := { c.st with ctrOverflow := true } }) s
    else s) s

/-- An unpadded CLOOP on a dynamic counter (R74). -/
def isDynUnpadded (c : Core) (o : BitVec 128) (t : Nat) : Bool :=
  !coForever o && coMax o == 0 && (counterAt c (coCtr o) t).2

/-- CLOOP: the walk enters the loop with the trip count latched (R73 to R77). An unpadded loop on a dynamic counter
puts the bay into fault hold and does nothing else (R74); it does so before a CHK of the same operation is judged (DESIGN
CHOICE, log entry 136). -/
def execCloop (k : CoreId) (t : Nat) (s : State) : Out :=
  match issueEnter (coreNo k) t .cloop s with
  | none => .next s
  | some (o, _, _, s') =>
    let c := coreOf s' (coreNo k)
    if isDynUnpadded c o t then
      let s := faultCoreBay 2 (coreNo k) t
        (modCore (coreNo k) (fun c => { c with st := setCause 2 c.st }) s')
      .next (leaveWalk (coreNo k) t (walkNext c .none c.seq.issue) s)
    else
      counterRun (coreNo k) t .cloop (fun o s =>
        modCore (coreNo k) (fun c =>
          if !coForever o && coMax o != 0 && decide (coMax o < (counterAt c (coCtr o) t).1.toNat) then
            { c with st := { c.st with clip := true } }
          else c) s) s

/-- CTEST: the walk shims the next SKIP operations when the condition holds (R71). -/
def execCtest (k : CoreId) (t : Nat) (s : State) : Out := counterRun (coreNo k) t .ctest (fun _ s => s) s

/-! ## Tokens (R80 to R82, R224) -/

/-- The cycle of a token's offer, its VALUE, and its source in the scratchpad: the row, the word and the cycle of the
read (R224, R604). -/
def produceOffer (c : Core) (o : BitVec 128) (t : Nat) : TokenOffer :=
  match tkSrc o with
  | 0 => ⟨t + 2, t, tkImm o, none⟩
  | 1 => ⟨t + 2, t, (counterAt c (tkCtr o) t).1.toNat, none⟩
  | _ => ⟨t + 4, t, 0, some (slotBaseOf c (tkSlot o) + tkRowOff o, tkWord o, t + 1)⟩

/-- PRODUCE: a token is offered at KINJ in its cycle. -/
def execProduce (k : CoreId) (t : Nat) (s : State) : Out :=
  issueRun (coreNo k) t .produce noShim (fun o _ s =>
    let x := produceOffer (coreOf s (coreNo k)) o t
    let s := match x.scratch with
      | some (d, _, u) => checkReads (coreNo k) [(d, u)] s
      | none => s
    modCore (coreNo k) (fun c => { c with rt := { c.rt with offers := c.rt.offers ++ [x] } }) s) s

/-- CONSUME: the head token leaves its queue into a counter, or is discarded. An empty queue loads 0 and counts
TOKEN_MISS; a token that arrives in this cycle is not visible (R82). -/
def execConsume (k : CoreId) (t : Nat) (s : State) : Out :=
  issueRun (coreNo k) t .consume noShim (fun o _ s =>
    let c := coreOf s (coreNo k)
    let load (v : Nat) (s : State) : State :=
      if tkDiscard o then s
      else modCore (coreNo k) (putCounter (tkConsCtr o) (t + 2) (BitVec.ofNat 16 v) true) s
    let s := examineParity (coreNo k) t 4 s
    match (c.seq.queues.getD (tkTq o) []).find? (fun x => decide (x.stamp ≤ t)) with
    | some x =>
      load (tokValue x.word).toNat (modCore (coreNo k) (fun c => { c with seq := { c.seq with
        queues := modAt c.seq.queues (tkTq o) (fun q => q.erase x) } }) s)
    | none =>
      load 0 (noteEvent (coreNo k) 4 2 c.rt.run.entry t 0
        (fun st => { st with tokenMiss := satInc 4095 st.tokenMiss }) s)) s

/-! ## PEG_PAGE (R85, R228, R229) -/

/-- PEG_PAGE: its page becomes active at the first period boundary after its cycle. -/
def execPegPage (k : CoreId) (t : Nat) (s : State) : Out :=
  issueRun (coreNo k) t .pegPage
    (fun _ s =>
      match (coreOf s (coreNo k)).seq.recs with
      | r :: _ => if r.shim then s else pegResync (coreNo k) s
      | [] => s)
    (fun o r s =>
      let s := modCore (coreNo k) (fun c => { c with rt := { c.rt with
        run := { c.rt.run with next := c.rt.run.next ++ [(ppPage o, t)] } } }) s
      if r.shim then pegResync (coreNo k) s else s) s

/-! ## EPOCH_MARK (R83, R238, R242) -/

/-- The sides with an outgoing crossing. -/
def xingSides (s : State) (k : Nat) : List Side := allSides.filter (fun d => (xingOut s k d).isSome)

/-- A mark that no check has claimed a credit for claims one now; without one the bay enters fault hold (R64; log entry
37). -/
def claimMarks (k t : Nat) : List Side → List Side → State → List Side × State
  | [], _, s => ([], s)
  | d :: ds, held, s =>
    if held.contains d then
      let r := claimMarks k t ds held s
      (d :: r.1, r.2)
    else
      match xingOut s k d with
      | some x =>
        if 0 < xingCredits x then
          let r := claimMarks k t ds held
            (modXingOut k d (fun x => { x with driveClaims := x.driveClaims + 1 }) (dropCond k (.markCredit k d t) s))
          (d :: r.1, r.2)
        else claimMarks k t ds held (checkLate k t s)
      | none => claimMarks k t ds held s

/-- An AT_MARK stop takes the cycle after the first mark that the head issues (R268). -/
def markStop (k t : Nat) (s : State) : State :=
  match bayOfCore s k with
  | none => s
  | some (i, b) =>
    match b.stop with
    | some q =>
      if k = bayHead b ∧ q.atMark ∧ q.stopCycle.isNone ∧ q.notBefore ≤ t then
        setBay i { b with stop := some { q with stopCycle := some (t + 1) } } s
      else s
    | none => s

/-- EPOCH_MARK: the epoch plus one from the next cycle on, in which the tokens of the old one are gone. In a shimmed region it
does nothing (DESIGN CHOICE, log entry 135). -/
def execEpochMark (k : CoreId) (t : Nat) (s : State) : Out :=
  issueRun (coreNo k) t .epochMark noShim (fun o r s =>
    let c := coreOf s (coreNo k)
    let e := epochAt c t
    let cl := claimMarks (coreNo k) t (xingSides s (coreNo k)) r.claims s
    let s := modCore (coreNo k) (fun c =>
      { c with seq := { c.seq with marks := c.seq.marks ++ [(t + 1, e + 1, cl.1)] } }) cl.2
    let s := markStop (coreNo k) t s
    match bayOfCore s (coreNo k) with
    | some (i, b) =>
      if emNotify o && decide (coreNo k = bayHead b) then
        raise1 (evBay 0x0200 i b.part (e + 1).toNat t) s
      else s
    | none => s) s

end Sys2Proof.Machine
end

