-- ==== Sys2Proof/Machine/Fabric.lean ====
section
/-! DEFINITION. The scheduled fabric: what a router does in one cycle, and what happens at a crossing's ends (The
Scheduled Fabric, R215 to R248; R260 to R267). -/

namespace Sys2Proof.Machine

/-! ## Peg entries (R221, R230, R231) -/

/-- The source code of a side output of a layer. -/
def pegOut (e : BitVec 128) : Layer → Side → Nat
  | .row, d => pegRowOut e d
  | .transit, d => pegTrOut e d
  | .token, d => pegTkOut e d

/-- The source codes of the local destinations of a layer. -/
def pegLocals (e : BitVec 128) : Layer → List Nat
  | .row => [pegRowEj e, pegSwData e, pegMgA e, pegMgB e, pegRaddA e, pegRaddB e]
  | .transit => [pegTrEj e, pegTaddA e, pegTaddB e]
  | .token => [pegTkQ e 0, pegTkQ e 1, pegTkQ e 2, pegTkQ e 3, pegSwToken e, pegMgToken e]

/-- The source code of a side input. -/
def sideSrc (d : Side) : Nat := sideCode d + 1

/-- An entry takes a side input in the cycle of its arrival. -/
def takesDirect (e : BitVec 128) (l : Layer) (d : Side) : Bool :=
  pegOut e l (opposite d) == sideSrc d || (pegLocals e l).contains (sideSrc d)

/-- An entry takes a side input from its latch (R221). -/
def takesTurn (e : BitVec 128) (l : Layer) (d : Side) : Bool :=
  allSides.any (fun o => !sameAxis o d && pegOut e l o == sideSrc d)

/-- An entry takes a crossing port in the cycle of its arrival. -/
def portDirect (e : BitVec 128) (d : Side) : Bool := takesDirect e .transit d || takesDirect e .token d

/-- An entry turns an item of a crossing port whose removal in the cycle before is no direct take of that cycle's
entry (R240). -/
def portTurn (last e : BitVec 128) (d : Side) : Bool :=
  !portDirect last d && (takesTurn e .transit d || takesTurn e .token d)

/-- An entry drives a crossing port. -/
def portDrive (e : BitVec 128) (d : Side) : Bool := pegOut e .transit d != 0 || pegOut e .token d != 0

/-! ## Items in a cycle -/

/-- The code of a layer in trap records (Table 10-10). -/
def layerCode : Layer → Nat
  | .row => 0
  | .transit => 1
  | .token => 2

/-- An event of the router that stops counting at a stop cycle (R268). -/
def fabricEvent (k cls sub index t detail : Nat) (count : CoreStatus → CoreStatus) (s : State) : State :=
  if stillCounts s k then noteEvent k cls sub index t detail count s else s

/-- A valid item is lost (R217, R223, R224). -/
def lostItem (k index t : Nat) (l : Layer) (src : Nat) (s : State) : State :=
  fabricEvent k 1 (layerCode l) index t src (fun c => { c with lost := satInc 4095 c.lost }) s

/-- The item of a SEND in a cycle (R222): a row, or a quarter. -/
def sendItem (s : State) (k t : Nat) (r : SendRun) : Option Item :=
  let m := t - r.first
  if t < r.first then none
  else
    let t0 := r.first - 2 - r.extra
    match r.layer with
    | .transit =>
      if m < 4 * r.rows then some (.quarter (rowQuarter (rowAt s k (r.base + m / 4) (t0 + 4 * (m / 4))) (m % 4)))
      else none
    | _ => if m < r.rows then some (.row (rowAt s k (r.base + m) (t0 + m))) else none

/-- The cycle of a SEND's last item. -/
def sendLast (r : SendRun) : Nat := r.first + (if r.layer = .transit then 4 else 1) * r.rows - 1

/-- SENDs are cut by a later one on the same layer whose row cycles have begun (R223). -/
def cutSends (t : Nat) : List SendRun → List SendRun
  | [] => []
  | r :: rs =>
    { r with cut := r.cut || rs.any (fun x => x.layer == r.layer && decide (x.first ≤ t)) } :: cutSends t rs

/-- The same for RECEIVEs. -/
def cutRecvs (t : Nat) : List RecvRun → List RecvRun
  | [] => []
  | r :: rs =>
    { r with cut := r.cut || rs.any (fun x => x.layer == r.layer && decide (x.first ≤ t)) } :: cutRecvs t rs

/-- The token word of an offer (R224, R239). -/
def offerWord (s : State) (k : Nat) (epoch : BitVec 4) (x : TokenOffer) : W32 :=
  match x.scratch with
  | none => tokWord epoch x.value
  | some (d, w, u) => tokWord epoch (rowBits (rowAt s k d u) (16 * w) 16)

/-- What a layer's local source offers in a cycle (Table 8-4). -/
def localItem (c : Core) (inj tinj kinj : Option Item) (t : Nat) (l : Layer) (code : Nat) : Option Item :=
  match l, code with
  | .row, 5 => inj
  | .row, 6 => if c.rt.sw.outCycle = t then c.rt.sw.out0.map .row else none
  | .row, 7 => if c.rt.sw.outCycle = t then c.rt.sw.out1.map .row else none
  | .row, 8 => if c.rt.mg.outCycle = t then c.rt.mg.out0.map .row else none
  | .row, 9 => if c.rt.rsum.cycle = t then c.rt.rsum.item else none
  | .transit, 5 => tinj
  | .transit, 6 => if c.rt.tsum.cycle = t then c.rt.tsum.item else none
  | .token, 5 => kinj
  | _, _ => none

/-- What the router sees in a cycle: the items that arrive, those in the latches, and its local sources. -/
structure PegView where
  arr : List Arrival
  lat : List (Arrival × Bool)
  inj : Option Item
  tinj : Option Item
  kinj : Option Item
  deriving DecidableEq, Repr

/-- The item that arrives on a side of a layer. -/
def viewArr (v : PegView) (l : Layer) (d : Side) : Option Item :=
  (v.arr.find? (fun a => a.layer == l && a.side == d)).map (fun a => a.item)

/-- The item in the latch of a side of a layer. -/
def viewLat (v : PegView) (l : Layer) (d : Side) : Option Item :=
  (v.lat.find? (fun a => a.1.layer == l && a.1.side == d)).map (fun a => a.1.item)

/-- What a local destination takes. -/
def takeLocal (c : Core) (v : PegView) (t : Nat) (l : Layer) (code : Nat) : Option Item :=
  if 1 ≤ code ∧ code ≤ 4 then viewArr v l (sideOfCode (code - 1))
  else localItem c v.inj v.tinj v.kinj t l code

/-- What a side output takes (R221). -/
def takeOut (c : Core) (v : PegView) (t : Nat) (l : Layer) (o : Side) (code : Nat) : Option Item :=
  if 1 ≤ code ∧ code ≤ 4 then
    let d := sideOfCode (code - 1)
    if d = opposite o then viewArr v l d else if d = o then none else viewLat v l d
  else localItem c v.inj v.tinj v.kinj t l code

/-! ## Takes from crossings (R240, R243, R245, R265) -/

/-- Whether the lookahead holds a claim. -/
def hasClaim (c : Core) (cycle : Nat) (d : Side) (kind : ClaimKind) : Bool :=
  c.rt.claims.contains ⟨cycle, d, kind⟩

/-- A claim is used up. -/
def useClaim (k cycle : Nat) (d : Side) (kind : ClaimKind) (s : State) : State :=
  if hasClaim (coreOf s k) cycle d kind then
    let s := modCore k (fun c => { c with rt := { c.rt with claims := c.rt.claims.erase ⟨cycle, d, kind⟩ } }) s
    match kind with
    | .drive => modXingOut k d (fun x => { x with driveClaims := x.driveClaims - 1 }) s
    | _ => modXingIn k d (fun x => { x with takeClaims := x.takeClaims - 1 }) s
  else s

/-- What a layer makes of an entry that it takes: an entry of the other kind is discarded and counted. -/
def entryItem (k index t : Nat) (epoch : BitVec 4) (l : Layer) (d : Side) (e : XEntry) (s : State) :
    Option Item × State :=
  let miss := fabricEvent k 1 (layerCode l) index t (sideSrc d)
    (fun c => { c with xkindMiss := satInc 255 c.xkindMiss }) s
  match e.kind, l with
  | .data, .transit => (if e.valid then some (.quarter e.payload) else none, s)
  | .token, .token =>
    (if e.valid then some (.token (tokWord epoch (fld e.payload.toNat 15 0))) else none, s)
  | _, _ => (none, miss)

/-- One entry is taken from a crossing port in cycle `t`, with the claim made for it or without one: a closed port gives
nothing (R268), and where nothing is left unclaimed the bay enters fault hold (R64). So it does where the check was made in
cycle 0 and is not met by then (DEDUCED, log entry 37). -/
def takeEntry (k index t claimCycle : Nat) (kind : ClaimKind) (epoch : BitVec 4) (l : Layer) (d : Side) (s : State) :
    Option Item × State :=
  match xingIn s k d with
  | none => (none, s)
  | some x =>
    let claimed := hasClaim (coreOf s k) claimCycle d kind
    let s1 := useClaim k claimCycle d kind s
    if x.state = .closed ∨ (x.state = .pending ∧ claimed) then (none, s1)
    else if x.state = .opened ∧ (claimed || decide (x.takeClaims < x.accepted.length)) then
      match x.accepted with
      | [] => (none, checkLate k t s1)
      | e :: es =>
        entryItem k index t epoch l d e
          (modXingIn k d (fun x => { x with accepted := es, returning := x.returning ++ [tripFrom s k] })
            (dropCond k (.xdata k d claimCycle (kind == .turn)) s1))
    else (none, checkLate k t s1)

/-- The layer on which an entry takes a crossing port. -/
def directLayer (e : BitVec 128) (d : Side) : Layer := if takesDirect e .transit d then .transit else .token

/-- The takes of cycle `t` from the crossing ports: those of its own entry, and those of the next entry's turns, which go
into the latches. -/
def takePorts (k index t : Nat) (epoch : BitVec 4) (e next : BitVec 128) :
    List Side → State → List Arrival × List (Arrival × Bool) × State
  | [], s => ([], [], s)
  | d :: ds, s =>
    if (xingIn s k d).isNone then takePorts k index t epoch e next ds s
    else if portDirect e d then
      let l := directLayer e d
      let r := takeEntry k index t t .take epoch l d s
      let q := takePorts k index t epoch e next ds r.2
      match r.1 with
      | some it => (⟨t, l, d, it⟩ :: q.1, q.2)
      | none => q
    else if takesTurn next .transit d || takesTurn next .token d then
      let l := if takesTurn next .transit d then Layer.transit else Layer.token
      let r := takeEntry k index t (t + 1) .turn epoch l d s
      let q := takePorts k index t epoch e next ds r.2
      match r.1 with
      | some it => (q.1, (⟨t, l, d, it⟩, true) :: q.2.1, q.2.2)
      | none => q
    else takePorts k index t epoch e next ds s

/-! ## Drives (R221, R239 to R242, R265) -/

/-- An entry is written into an outgoing crossing, with the claim made for it or with a credit that none has claimed;
a closed crossing takes nothing (R268), and without a credit the bay enters fault hold (R64; log entry 37). -/
def driveEntry (k t : Nat) (d : Side) (kind : XKind) (valid : Bool) (payload : Quarter) (s : State) : State :=
  match xingOut s k d with
  | none => s
  | some x =>
    let claimed := hasClaim (coreOf s k) t d .drive
    let s1 := useClaim k t d .drive s
    if x.state = .closed ∨ (x.state = .pending ∧ claimed) then s1
    else if x.state = .opened ∧ (claimed || decide (0 < xingCredits x)) then
      modXingOut k d (fun x => { x with flight := x.flight ++ [⟨kind, valid, payload, x.sendXe, tripFrom s k⟩] })
        (dropCond k (.xcredit k d t) s1)
    else checkLate k t s1

/-- The marks of an epoch that takes effect in cycle `t` are written ahead of any entry of that cycle (R242). -/
def writeMark (k : Nat) (d : Side) (s : State) : State :=
  modXingOut k d (fun x =>
    let x := { x with driveClaims := x.driveClaims - 1 }
    if x.state = .opened then
      { x with flight := x.flight ++ [⟨.mark, true, 0, x.sendXe, tripFrom s k⟩], sendXe := x.sendXe + 1 }
    else x) s

/-- The epoch of cycle `t` takes effect, with its marks. -/
def settleEpoch (k t : Nat) (s : State) : State :=
  let ms := (coreOf s k).seq.marks.filter (fun m => decide (m.1 ≤ t))
  let s := ms.foldl (fun s m => m.2.2.foldl (fun s d => writeMark k d s) s) s
  modCore k (fun c => { c with seq := { c.seq with
    epoch := epochAt c t, marks := c.seq.marks.filter (fun m => decide (t < m.1)) } }) s

/-- An item driven on a side output arrives at the facing core (Table 8-2, R221), or enters a crossing. -/
def driveOut (k t : Nat) (b : Bay) (epoch : BitVec 4) (l : Layer) (o : Side) (code : Nat) (it : Option Item)
    (s : State) : State :=
  if code = 0 then s
  else if (xingOut s k o).isSome then
    match l, it with
    | .transit, some (.quarter q) => driveEntry k t o .data true q s
    | .transit, _ => driveEntry k t o .data false 0 s
    | .token, some (.token w) =>
      if tokEpoch w = epoch then driveEntry k t o .token true (BitVec.ofNat 1024 w.toNat) s
      else
        driveEntry k t o .token false 0
          (modCore k (fun c => { c with st := { c.st with staleIn := satInc 255 c.st.staleIn } }) s)
    | .token, _ => driveEntry k t o .token false 0 s
    | .row, _ => s
  else
    match facing k o, it with
    | some f, some x =>
      if inBay b f && !(l == .row && siteOfCore f != siteOfCore k) then
        modCore f (fun c => { c with rt := { c.rt with
          arrivals := c.rt.arrivals ++ [⟨t + 1 + extraLatency k f, l, opposite o, x⟩] } }) s
      else s
    | _, _ => s

/-! ## Local destinations -/

/-- RECEIVE captures (R222): a row is written 3 cycles after the capture of its last item; an idle row is not. -/
def captureRow (k t : Nat) (r : RecvRun) (it : Option Item) (s : State) : RecvRun × State :=
  let m := t - r.first
  if t < r.first ∨ r.cut then (r, s)
  else
    match r.layer with
    | .transit =>
      if 4 * r.rows ≤ m then (r, s)
      else
        let r1 := match it with
          | some (.quarter q) => { r with part := rowSetQuarter r.part (m % 4) q, gotAny := true }
          | _ => r
        if m % 4 = 3 then
          ({ r1 with part := 0, gotAny := false },
            if r1.gotAny then putRow k (r.base + m / 4) (t + 3 + r.extra + 1) r1.part .recv 0 s
            else skipAccess k (r.base + m / 4) (t + 3 + r.extra) s)
        else (r1, s)
    | _ =>
      if r.rows ≤ m then (r, s)
      else
        match it with
        | some (.row d) => (r, putRow k (r.base + m) (t + 3 + r.extra + 1) d .recv 0 s)
        | _ => (r, skipAccess k (r.base + m) (t + 3 + r.extra) s)

/-- The cycle of a RECEIVE's last item. -/
def recvLast (r : RecvRun) : Nat := r.first + (if r.layer = .transit then 4 else 1) * r.rows - 1

/-- Every RECEIVE captures what its layer's ejection takes. -/
def captureAll (k t : Nat) (row transit : Option Item) : List RecvRun → State → List RecvRun × State
  | [], s => ([], s)
  | r :: rs, s =>
    let x := captureRow k t r (if r.layer = .transit then transit else row) s
    let q := captureAll k t row transit rs x.2
    (if r.cut ∨ recvLast r ≤ t then q.1 else x.1 :: q.1, q.2)

/-- Two rows or two quarters added element by element (R116, R232). -/
def addBits (bf : Bool) (total : Nat) (a b : Nat) : Nat :=
  let w := if bf then 16 else 32
  packElems w ((List.range (total / w)).map (fun i =>
    netAdd bf (fld a (w * i + w - 1) (w * i)) (fld b (w * i + w - 1) (w * i))))

/-- An adder's output (R232, R233): 0 off, 1 FP32, 2 BF16. -/
def adderItem (fmt : Nat) (a b : Option Item) : Option Item :=
  match a, b with
  | some (.row x), some (.row y) => some (.row (BitVec.ofNat 4096 (addBits (fmt == 2) 4096 x.toNat y.toNat)))
  | some (.quarter x), some (.quarter y) =>
    some (.quarter (BitVec.ofNat 1024 (addBits (fmt == 2) 1024 x.toNat y.toNat)))
  | some x, none => some x
  | none, some y => some y
  | _, _ => none

/-- An adder with one valid operand counts RED_MISS (R233). -/
def adderMiss (k index t sub : Nat) (fmt : Nat) (a b : Option Item) (s : State) : State :=
  if fmt = 0 ∨ a.isSome = b.isSome then s
  else
    fabricEvent k 5 sub index t (if a.isSome then 1 else 2) (fun c => { c with redMiss := satInc 4095 c.redMiss }) s

/-- A unit fires (R235): the unit after it, and what was missing, 0 a token, 1 a row. -/
def fireSteer (merge : Bool) (t : Nat) (u : Steer) : Steer × Option Nat :=
  let idle := { u with outCycle := t + 1, out0 := none, out1 := none }
  match u.tokens with
  | [] => (idle, some 0)
  | tk :: tks =>
    if t < tk.stamp then (idle, some 0)
    else
      let sel := bitAt (tokValue tk.word).toNat 0
      match u.rows.find? (fun r => decide (r.stamp ≤ t) && (!merge || r.fromB == sel)) with
      | none => (idle, some 1)
      | some r =>
        let rest := u.rows.erase r
        if merge then ({ u with tokens := tks, rows := rest, outCycle := t + 1, out0 := some r.data, out1 := none }, none)
        else ({ u with tokens := tks, rows := rest, outCycle := t + 1
                       out0 := if sel then none else some r.data
                       out1 := if sel then some r.data else none }, none)

/-- A row arrives at a steering data queue (R237). -/
def steerRow (t : Nat) (fromB : Bool) (it : Option Item) (u : Steer) : Steer × Bool :=
  match it with
  | some (.row d) =>
    if u.rows.length < 16 then ({ u with rows := u.rows ++ [⟨t + 1, fromB, d⟩] }, false) else (u, true)
  | _ => (u, false)

/-- A token arrives at a steering token queue: entered, stale (R238), or dropped (R237). One that finds the queue full in the
cycle before a new epoch counts as dropped (DESIGN CHOICE, log entry 137). -/
def steerToken (t : Nat) (epoch : BitVec 4) (it : Option Item) (u : Steer) : Steer × Bool × Bool :=
  match it with
  | some (.token w) =>
    if tokEpoch w ≠ epoch then (u, true, false)
    else if u.tokens.length < 16 then ({ u with tokens := u.tokens ++ [⟨t + 1, w⟩] }, false, false)
    else (u, false, true)
  | _ => (u, false, false)

/-- STEER_DROP and STALE_IN of one unit. -/
def steerCounts (k index t sub : Nat) (drops stale : Nat) (s : State) : State :=
  let s := modCore k (fun c => { c with st := { c.st with staleIn := satInc 255 c.st.staleIn stale } }) s
  (List.range drops).foldl (fun s _ =>
    fabricEvent k 4 sub index t 2 (fun c => { c with steerDrop := satInc 255 c.steerDrop }) s) s

/-- One steering unit in one cycle: its firing first, then the items that arrive (R235 to R238). -/
def runSteer (k index t : Nat) (merge fire : Bool) (epoch : BitVec 4) (a b tok : Option Item)
    (u : Steer) (s : State) : Steer × State :=
  let f := if fire then fireSteer merge t u else (u, none)
  let s := match f.2 with
    | some m => fabricEvent k 4 (b2n merge) index t m (fun c => { c with steerMiss := satInc 4095 c.steerMiss }) s
    | none => s
  let ra := steerRow t false a f.1
  let rb := steerRow t true b ra.1
  let tk := steerToken t epoch tok rb.1
  (tk.1, steerCounts k index t (b2n merge) (b2n ra.2 + b2n rb.2 + b2n tk.2.2) (b2n tk.2.1) s)

/-- A token that a peg delivers to a core token queue (R80, R81). One that finds the queue full in the issue cycle of an
EPOCH_MARK counts TQ_DROP, for the new epoch begins with the next cycle (DESIGN CHOICE, log entry 137). -/
def deliverToken (q t : Nat) (epoch : BitVec 4) (it : Option Item) (c : Core) : Core :=
  match it with
  | some (.token w) =>
    if tokEpoch w ≠ epoch then { c with st := { c.st with staleTokens := satInc 4095 c.st.staleTokens } }
    else if (c.seq.queues.getD q []).length < 16 then
      { c with seq := { c.seq with queues := modAt c.seq.queues q (fun l => l ++ [⟨t + 1, w⟩]) } }
    else { c with st := { c.st with tqDrop := satInc 255 c.st.tqDrop } }
  | _ => c

/-! ## A cycle of a router -/

/-- The local sources of a layer. -/
def localCodes : Layer → List Nat
  | .row => [5, 6, 7, 8, 9]
  | .transit => [5, 6]
  | .token => [5]

/-- Whether any destination of a layer names a source. -/
def namesSource (e : BitVec 128) (l : Layer) (code : Nat) : Bool :=
  (pegLocals e l).contains code || allSides.any (fun o => pegOut e l o == code)

/-- The items that no destination takes in the cycles they may be taken in: local sources in this one, side inputs in this
one and the next (R217, R221). -/
def losses (c : Core) (v : PegView) (t : Nat) (e : BitVec 128) : List (Layer × Nat) :=
  ([Layer.row, Layer.transit, Layer.token].flatMap (fun l =>
    ((localCodes l).filter (fun n => (localItem c v.inj v.tinj v.kinj t l n).isSome && !namesSource e l n)).map
      (fun n => (l, n))))
  ++ ((v.lat.filter (fun a => !a.2 && !takesTurn e a.1.layer a.1.side)).map (fun a => (a.1.layer, sideSrc a.1.side)))

/-- The items of a layer's SENDs in a cycle: the one that is offered, and how many are lost (R223). -/
def injection (s : State) (k t : Nat) (transit : Bool) (l : List SendRun) : Option Item × Nat :=
  let l := l.filter (fun r => (r.layer == .transit) == transit)
  ((l.find? (fun r => !r.cut && (sendItem s k t r).isSome)).bind (sendItem s k t),
   (l.filter (fun r => r.cut && (sendItem s k t r).isSome)).length)

/-- The router runs its entry of cycle `t` (R216, R221 to R245). -/
def pegEntryRun (k t : Nat) (b : Bay) (s : State) : State :=
  let s := examineParity k t 3 (settleEpoch k t s)
  let s := modCore k (fun c => { c with rt := { c.rt with
    run := pegResolve c.rt.run, sends := cutSends t c.rt.sends, recvs := cutRecvs t c.rt.recvs } }) s
  let c := coreOf s k
  let w := c.rt.run
  let index := w.entry
  let e := pegEntryAt c w.page w.entry
  let nw := pegResolve (pegNext c w)
  let next := pegEntryAt c nw.page nw.entry
  let epoch := epochAt c t
  -- sources
  let inj := injection s k t false c.rt.sends
  let tinj := injection s k t true c.rt.sends
  let offers := c.rt.offers.filter (fun x => x.cycle == t)
  let kinj := (offers.foldl (fun (m : Option TokenOffer) x =>
    match m with
    | some y => if x.issue < y.issue then some x else some y
    | none => some x) none).map (fun x => Item.token (offerWord s k epoch x))
  let ports := takePorts k index t epoch e next allSides s
  let arr := c.rt.arrivals.filter (fun a => a.cycle == t) ++ ports.1
  let v : PegView := ⟨arr, c.rt.latches, inj.1, tinj.1, kinj⟩
  let s := ports.2.2
  -- items lost to R223 and R224
  let s := (List.range inj.2).foldl (fun s _ => lostItem k index t .row 5 s) s
  let s := (List.range tinj.2).foldl (fun s _ => lostItem k index t .transit 5 s) s
  let s := (List.range (offers.length - 1)).foldl (fun s _ => lostItem k index t .token 5 s) s
  -- side outputs
  let s := [Layer.row, Layer.transit, Layer.token].foldl (fun s l =>
    allSides.foldl (fun s o =>
      driveOut k t b epoch l o (pegOut e l o) (takeOut c v t l o (pegOut e l o)) s) s) s
  -- local destinations
  let loc (l : Layer) (n : Nat) : Option Item := takeLocal c v t l n
  let cap := captureAll k t (loc .row (pegRowEj e)) (loc .transit (pegTrEj e)) c.rt.recvs s
  let s := cap.2
  let sw := runSteer k index t false (pegFireSw e) epoch (loc .row (pegSwData e)) none
    (loc .token (pegSwToken e)) c.rt.sw s
  let mg := runSteer k index t true (pegFireMg e) epoch (loc .row (pegMgA e)) (loc .row (pegMgB e))
    (loc .token (pegMgToken e)) c.rt.mg sw.2
  let ra := loc .row (pegRaddA e)
  let rb := loc .row (pegRaddB e)
  let ta := loc .transit (pegTaddA e)
  let tb := loc .transit (pegTaddB e)
  let s := adderMiss k index t 0 (pegRaddFmt e) ra rb mg.2
  let s := adderMiss k index t 1 (pegTaddFmt e) ta tb s
  let s := (losses c v t e).foldl (fun s x => lostItem k index t x.1 x.2 s) s
  let s := [Layer.row, Layer.transit, Layer.token].foldl (fun s l =>
    if (pegLocals e l).any (fun n => (loc l n).isSome) then examineItem k t (layerCode l) s else s) s
  let s := if pegFireSw e || pegFireMg e then examineParity k t 5 s else s
  modCore k (fun c' =>
    let c' := (List.range 4).foldl (fun c' q => deliverToken q t epoch (loc .token (pegTkQ e q)) c') c'
    { c' with rt := { c'.rt with
      run := pegNext c w
      arrivals := c'.rt.arrivals.filter (fun a => decide (t < a.cycle))
      latches := arr.map (fun a => (a, takesDirect e a.layer a.side)) ++ ports.2.1
      sends := c'.rt.sends.filter (fun r => decide (t < sendLast r))
      recvs := cap.1
      offers := c'.rt.offers.filter (fun x => decide (t < x.cycle))
      sw := sw.1
      mg := mg.1
      rsum := ⟨t + 1, if pegRaddFmt e = 0 then none else adderItem (pegRaddFmt e) ra rb⟩
      tsum := ⟨t + 1, if pegTaddFmt e = 0 then none else adderItem (pegTaddFmt e) ta tb⟩ } }) s

/-- The claims made for the entry of cycle `t` that it has not used are released (R64). -/
def releaseClaims (k t : Nat) (s : State) : State :=
  ((coreOf s k).rt.claims.filter (fun x => decide (x.cycle ≤ t))).foldl
    (fun s x => useClaim k x.cycle x.side x.kind s) s

/-- Whether the issue stage of a core is done with cycle `t`: its operations of that cycle come before the router's
entry (log entry 15). -/
def issueDone (b : Bay) (c : Core) (t : Nat) : Bool :=
  b.mode == .draining || c.seq.issue.finished || decide (t < c.seq.issue.due)

/-- A router runs one peg entry (R230). -/
def execPegEntry (k : CoreId) (t : Nat) (s : State) : Out :=
  match enterCycle (coreNo k) t s with
  | none => .next s
  | some (_, b, s') =>
    let c := coreOf s' (coreNo k)
    if c.rt.run.cycle = t ∧ issueDone b c t then .next (releaseClaims (coreNo k) t (pegEntryRun (coreNo k) t b s'))
    else .next s

/-! ## The peg lookahead (R229, R260) -/

/-- One check of the peg lookahead: the claim, or the condition that is not met. -/
def pegClaim (k t cycle : Nat) (i : Nat) (d : Side) (kind : ClaimKind) (s : State) : State :=
  let free := match kind with
    | .drive => (match xingOut s k d with | some x => xingCredits x | none => 0)
    | _ => (match xingIn s k d with | some x => xingEntries x | none => 0)
  if 0 < free then
    let s := modCore k (fun c => { c with rt := { c.rt with claims := c.rt.claims ++ [⟨cycle, d, kind⟩] } }) s
    match kind with
    | .drive => modXingOut k d (fun x => { x with driveClaims := x.driveClaims + 1 }) s
    | _ => modXingIn k d (fun x => { x with takeClaims := x.takeClaims + 1 }) s
  else
    let cond := match kind with
      | .drive => HoldCond.xcredit k d cycle
      | .take => HoldCond.xdata k d cycle false
      | .turn => HoldCond.xdata k d cycle true
    modBay i (requestHold cond t) s

/-- The checks of one peg entry (R240, R260). In cycle 0 no latch holds an item, so no turn takes one (R605). -/
def pegChecks (k t i : Nat) (w : PegWalk) (e : BitVec 128) (s : State) : State :=
  allSides.foldl (fun s d =>
    let s := if (xingIn s k d).isSome && portDirect e d then pegClaim k t w.cycle i d .take s else s
    let s := if (xingIn s k d).isSome && decide (0 < w.cycle) && portTurn w.last e d then
      pegClaim k t w.cycle i d .turn s else s
    if (xingOut s k d).isSome && portDrive e d then pegClaim k t w.cycle i d .drive s else s) s

/-- The lookahead looks at the entries up to that of cycle `t` + H. -/
def pegLook (k t i : Nat) : Nat → State → State
  | 0, s => s
  | n + 1, s =>
    let c := coreOf s k
    let w := pegResolve c.rt.ahead
    if t + horizon < w.cycle then s
    else
      let s := pegChecks k t i w (pegEntryAt c w.page w.entry) s
      pegLook k t i n (modCore k (fun c => { c with rt := { c.rt with ahead := pegNext c w } }) s)

/-- The peg lookahead makes its checks of cycle `t`, after the sequencer's lookahead has made its own (log entry 15). -/
def execPegCheck (k : CoreId) (t : Nat) (s : State) : Out :=
  match enterCycle (coreNo k) t s with
  | none => .next s
  | some (i, b, s') =>
    let c := coreOf s' (coreNo k)
    if b.mode == .running && decide (c.rt.ahead.cycle ≤ t + horizon)
        && (c.seq.ahead.finished || decide (t + horizon < c.seq.ahead.due)) then
      .next (pegLook (coreNo k) t i (horizon + 1) s')
    else .next s

/-! ## The two ends of a crossing (R243, R266) -/

/-- Whether the ends of crossings of a core's bay run (R255): they pause during the stop of a frequency change. -/
def endRuns (s : State) (k : Nat) : Bool :=
  match bayOfCore s k with
  | some (_, b) => b.mode != .pointChange
  | none => false

/-- Whether what has come across to a core becomes visible now: in the 3rd period to begin after it has come over the extra
latency, or in the 4th; which, the command says (DESIGN CHOICE, log entry 63). While the bay runs cycles the 3rd may be the
next to begin. -/
def tripDue (s : State) (k : Nat) (r : XTrip) : Bool :=
  match bayOfCore s k, r.seen with
  | some (_, b), some p =>
    decide (p + 2 ≤ periodNow s b) || (cyclesRun b && decide (p + 2 ≤ nextPeriod s b) && bayQuiet s b b.count)
  | _, _ => false

/-- An entry that becomes visible at the receiving end is examined (R243); one that is removed there gives its credit
back. -/
def examineEntry (r : XTrip) (x : Crossing) : Crossing × Nat :=
  match x.flight with
  | [] => (x, 0)
  | e :: es =>
    let x := { x with flight := es }
    if e.xepoch ≠ x.acceptXe then ({ x with returning := x.returning ++ [r] }, 1)
    else if e.kind = .mark then ({ x with returning := x.returning ++ [r], acceptXe := x.acceptXe + 1 }, 0)
    else ({ x with accepted := x.accepted ++ [e] }, 0)

/-- The oldest entry on its way to a core becomes visible at the end on that side (R243, R266). -/
def execCrossingEntry (k : CoreId) (side : Side) (time : Nat) (s : State) : Out :=
  let n := coreNo k
  let s' := noteTrips (atTime time s)
  match (xingIn s' n side).bind (fun x => x.flight.head?.map (fun e => (x, e))) with
  | none => .next s
  | some (x, e) =>
    if !endRuns s' n || !tripDue s' n e.trip then .next s
    else
      let r := examineEntry (tripFrom s' n) x
      let s := modXingIn n side (fun _ => r.1) s'
      let s := modCore n (fun c => { c with st := { c.st with staleIn := satInc 255 c.st.staleIn r.2 } }) s
      let t := match bayOfCore s n with | some (_, b) => b.count - 1 | none => 0
      .next (settleHolds (examineXing n t (sideCode side) s))

/-- A credit returns to the sending end on a side of a core (R266). -/
def execCreditReturn (k : CoreId) (side : Side) (time : Nat) (s : State) : Out :=
  let n := coreNo k
  let s' := noteTrips (atTime time s)
  match (xingOut s' n side).bind (fun x => x.returning.head?) with
  | none => .next s
  | some r =>
    if !endRuns s' n || !tripDue s' n r then .next s
    else .next (settleHolds (modXingOut n side (fun x => { x with returning := x.returning.tail }) s'))

end Sys2Proof.Machine
end

