-- ==== Sys2Proof/Machine/Flits.lean ====
section
/-! DEFINITION. Packets as flits: the header, the sideband, the place of each byte, and what a hop does with the flits that
reach it (R301 to R303, R312, R313). -/

namespace Sys2Proof.Machine

/-! ## The header and the sideband (Tables 11-3, 11-4) -/

/-- The 128 bits of a packet's header (Table 11-4). -/
def headerOf (q : Packet) : Nat :=
  q.dest.toNat * 2 ^ 72 + q.srcX.toNat * 2 ^ 68 + q.srcY.toNat * 2 ^ 64 + q.srcUnit.toNat * 2 ^ 56
    + q.opcode.toNat * 2 ^ 52 + b2n q.fw * 2 ^ 51 + q.part.toNat * 2 ^ 48 + q.len % 2 ^ 12 * 2 ^ 36
    + q.tag.toNat * 2 ^ 24 + q.status.toNat * 2 ^ 20

/-- A packet from the 128 bits of its header, with its bytes (Table 11-4). -/
def packetOf (h : Nat) (data : List Byte) : Packet where
  dest := BitVec.ofNat 56 (fld h 127 72)
  srcX := BitVec.ofNat 4 (fld h 71 68)
  srcY := BitVec.ofNat 4 (fld h 67 64)
  srcUnit := BitVec.ofNat 8 (fld h 63 56)
  opcode := BitVec.ofNat 4 (fld h 55 52)
  fw := bitAt h 51
  part := BitVec.ofNat 3 (fld h 50 48)
  len := fld h 47 36
  tag := BitVec.ofNat 12 (fld h 35 24)
  status := BitVec.ofNat 4 (fld h 23 20)
  data := data

/-- The fields of a sideband beside its header (Table 11-3). -/
structure Sideband where
  seq : Nat
  cls : Nat
  vc : Nat
  last : Bool
  first : Bool
  header : Nat
  deriving DecidableEq, Repr

/-- Bits [143:0] of a sideband. -/
def sidebandBits (b : Sideband) : Nat :=
  b.seq % 8 * 2 ^ 141 + b.cls % 4 * 2 ^ 139 + b.vc % 2 * 2 ^ 138 + b2n b.last * 2 ^ 137 + b2n b.first * 2 ^ 136
    + b.header % 2 ^ 128

/-- The fields of a flit's sideband. -/
def sidebandOf (f : HopFlit) : Sideband :=
  let x := f.sideband.toNat
  ⟨fld x 143 141, fld x 140 139, fld x 138 138, bitAt x 137, bitAt x 136, fld x 127 0⟩

/-- The CRC that a flit should carry (R312). -/
def flitCrc (f : HopFlit) : Nat := crc16 (natLe 64 f.payload.toNat ++ natLe 18 (f.sideband.toNat % 2 ^ 144))

/-- Whether a flit carries the CRC that it should. -/
def flitGood (f : HopFlit) : Bool := fld f.sideband.toNat 159 144 == flitCrc f

/-- A flit with its CRC. -/
def sealFlit (b : Sideband) (payload : List Byte) : HopFlit :=
  let f : HopFlit := ⟨BitVec.ofNat 160 (sidebandBits b), BitVec.ofNat 512 (leAt payload 0 64)⟩
  { f with sideband := BitVec.ofNat 160 (flitCrc f * 2 ^ 144 + sidebandBits b) }

/-! ## The flits of a packet (R301 to R303) -/

/-- The payloads of a packet's flits: byte `a + m` lies in flit ((a mod 64) + m) div 64 at position (a + m) mod 64, and the
bytes beside them are not used. -/
def flitPayloads (q : Packet) : List (List Byte) :=
  let all := padTo (64 * flitsOf q) (copies (flitLead q) 0 ++ q.data)
  (List.range (flitsOf q)).map (fun n => bytesAt all (64 * n) 64)

/-- The flits of a packet on a hop, the first with a sequence number: the header rides in the first (R301). -/
def packetFlits (vc seq : Nat) (q : Packet) : List HopFlit :=
  (flitPayloads q).zipIdx.map (fun p => sealFlit
    ⟨(seq + p.2) % 8, classOf q, vc, p.2 + 1 == flitsOf q, p.2 == 0, if p.2 = 0 then headerOf q else 0⟩ p.1)

/-- The bytes of a packet from the payloads of its flits: LEN bytes from the place of its first (R302). -/
def flitData (q : Packet) (payloads : List (List Byte)) : List Byte := (payloads.flatten.drop (flitLead q)).take q.len

/-! ## Replay on a hop (R312, R313) -/

/-- A flit of a stream of packets: its class and virtual channel, on which packets are not interleaved (R303). -/
def flitKey (b : Sideband) : Nat := 2 * b.cls + b.vc

/-- The header of the packet that a flit belongs to. -/
def flitHeader (h : Hop) (f : HopFlit) : Option Nat :=
  let b := sidebandOf f
  if b.first then some b.header else mapGet? h.headers (flitKey b)

/-- The sender of a hop keeps the last 8 flits that it has sent and that are not acknowledged. -/
def keepFlit (f : HopFlit) (h : Hop) : Hop :=
  if h.buffer.contains f then h else { h with buffer := (h.buffer ++ [f]).drop (h.buffer.length - 7) }

/-- A flit in its turn is delivered and acknowledged by its SEQ: the sender keeps it no longer. -/
def acceptFlit (f : HopFlit) (h : Hop) : Hop :=
  let b := sidebandOf f
  let hs := if b.first then mapPut h.headers (flitKey b) b.header else h.headers
  { h with
    replays := 0
    resend := false
    expect := (h.expect + 1) % 8
    buffer := h.buffer.filter (fun g => (sidebandOf g).seq != b.seq)
    headers := if b.last then mapDel hs (flitKey b) else hs }

/-- The packets that lose a flit with a hop: they do not arrive, and their requesters receive EXPIRED (R313). -/
def loseFlits (h : Hop) (s : State) : State :=
  let hs := h.buffer.filterMap (flitHeader h)
  { s with fab := { s.fab with
    flight := s.fab.flight.filter (fun f => !hs.contains (headerOf f.q))
    answers := s.fab.answers.filter (fun q => !hs.contains (headerOf q)) } }

end Sys2Proof.Machine
end

