-- ==== Sys2Proof/Machine/FabricEvents.lean ====
section
/-! DEFINITION. The service fabric's happenings: arrivals, answers, expiry, hop retry, routes and congestion maps (R299 to
R313, R321, R322). -/

namespace Sys2Proof.Machine

/-! ## Arrivals (R302) -/

/-- No burst beside a rank WRITE's own. -/
def noExtra : RankExtra := ⟨false, false, 0⟩

/-- A packet whose bytes are as many as LEN says. -/
def dataFits (q : Packet) : Bool := q.data.length == q.len

/-- SERVICE_READ. A reserved opcode arrives here too and is answered with BAD_REQUEST. -/
def execServiceRead (q : Packet) (f : EccFinding) (time : Nat) (s : State) : Out :=
  if 2 ≤ opcodeOf q ∧ opcodeOf q ≤ 6 then .fault .illFormed else .next (arrive q noExtra f (atTime time s))

/-- SERVICE_WRITE. -/
def execServiceWrite (q : Packet) (f : EccFinding) (time : Nat) (s : State) : Out :=
  if opcodeOf q ≠ 2 || !dataFits q then .fault .illFormed else .next (arrive q noExtra f (atTime time s))

/-- REQUEST_PORT_WRITE (R338, R339). -/
def execRequestPortWrite (q : Packet) (time : Nat) (s : State) : Out :=
  if opcodeOf q ≠ 2 || !dataFits q then .fault .illFormed else .next (arrive q noExtra ⟨[], []⟩ (atTime time s))

/-- INFLATE_READ (R366). -/
def execInflateRead (q : Packet) (f : EccFinding) (time : Nat) (s : State) : Out :=
  if opcodeOf q ≠ 1 then .fault .illFormed else .next (arrive q noExtra f (atTime time s))

/-- LINK_EGRESS_WRITE (R406, R407). -/
def execLinkEgressWrite (q : Packet) (x : RankExtra) (time : Nat) (s : State) : Out :=
  if opcodeOf q ≠ 2 || !dataFits q then .fault .illFormed else .next (arrive q x ⟨[], []⟩ (atTime time s))

/-- CTRL_PACKET: a message reaches a firmware unit; what firmware builds on messages is its own (R302). A dropped one gets
no answer (R316). -/
def execCtrlPacket (q : Packet) (time : Nat) (s : State) : Out :=
  if opcodeOf q ≠ 6 || !dataFits q then .fault .illFormed
  else
    let s := atTime time s
    match arrivalStatus s q with
    | none => .next (countFlits q s)
    | some st => .next (if st = 3 then dropPacket q s else s)

/-! ## Answers (R304, R311) -/

/-- Whether a request waits for an answer that comes from a site to a unit with a tag. -/
def awaits (from' site unit tag : Nat) (a : Await) : Bool :=
  srcSite a.q == site && srcUnitOf a.q == unit && a.q.tag.toNat == tag && addrSite (destOf a.q) == from'

/-- An answer reaches a burst slot of a core (R203). -/
def answerBurst (k tag status : Nat) (data : List Byte) (s : State) : State :=
  modCore k (fun c => { c with ax := { c.ax with bursts := c.ax.bursts.map (fun b =>
    if b.tag.toNat == tag && !b.answered then { b with answered := true, status := status, data := data } else b) } }) s

/-- TABLE, RES_ADDR of a request. -/
def rqTable (raw : List Byte) : Nat := leAt raw 0 1
def rqRes (raw : List Byte) : Nat := leAt raw 0x18 8

/-- A result write answered with an error counts and is reported (R345). -/
def resultError (n : Nat) (r : EmbRun) (status : Nat) (s : State) : State :=
  let t := rqTable r.req.raw
  let a := rqRes r.req.raw % 2 ^ 56
  let s := modEngine n (fun x => { x with tables := x.tables.map (fun p =>
    if p.1 = t then (p.1, { p.2 with resErrors := satInc 0xFFFFFFFF p.2.resErrors }) else p) }) s
  raise1 { evPlain 0x0403 n t (a + status * 2 ^ 56) with x := fld a 55 52, y := addrY a } s

/-- An answer reaches an embedding engine: a result's write is done. -/
def answerResult (n tag status : Nat) (s : State) : State :=
  match (engineOf s n).results.find? (fun r => r.tags.contains tag) with
  | none => s
  | some r =>
    let r' : EmbResult := { r with tags := r.tags.erase tag }
    let s := modEngine n (fun x => { x with results :=
      if r'.tags.isEmpty then x.results.erase r else x.results.map (fun y => if y == r then r' else y) }) s
    if status = 0 ∨ status = 5 then s else resultError n r.run status s

/-- The status that an ACK packet carries: a target that does not answer gives TARGET_LOST (R408). -/
def ackStatus (status : Nat) : Nat := if status = 8 then 7 else status

/-- An answer reaches a link unit: the write of a packet that came over the link is done (R408). A packet that a reduction home
or another link die has taken is its to answer; one that it could not take is answered here (R410, R412). -/
def answerLink (l tag status : Nat) (s : State) : State :=
  match (linkOf s l).inbound.find? (fun p => p.1 == tag) with
  | none => s
  | some p =>
    let s := modLink l (fun x => { x with inbound := x.inbound.erase p }) s
    match p.2.1 with
    | .target => ackLink l p.2.2 (ackStatus status) s
    | .home => if status = 0 then s else ackLink l p.2.2 (ackStatus status) s
    | .transit => if status = 0 then s else dropOnLink l p.2.2 7 s

/-- An aperture access answered with an error completion counts in AP_ERRORS (R431). -/
def apError (s : State) : State := { s with host := { s.host with apErrors := satInc 0xFFFFFFFF s.host.apErrors } }

/-- An answer is taken by its requester; the host port's are those of writes that the aperture has posted. -/
def deliverAnswer (site unit tag status : Nat) (data : List Byte) (s : State) : State :=
  let role := placeRole site
  if role = 1 ∧ unit < 64 then answerBurst (coreOfBit site unit) tag status data s
  else if role = 2 ∧ unit = 1 then answerResult (stackOfSite site) tag status s
  else if role = 3 ∧ unit < 4 then answerLink (4 * linkDieOfSite site + unit) tag status s
  else if role = 5 ∧ unit = 3 ∧ status ≠ 0 then apError s
  else s

/-- SERVICE_RESPONSE: an answer on its way arrives, in the order of its stream (R308) and after a hop has retrained (R313);
one that is lost, or has no route, does not arrive (R307), and one that comes after the deadline is discarded and counted. -/
def execServiceResponse (q : Packet) (time : Nat) (s : State) : Out :=
  let site := addrSite (destOf q)
  let unit := addrUnit (destOf q)
  if opcodeOf q < 3 ∨ 5 < opcodeOf q then .fault .illFormed
  else if !s.fab.answers.contains q || !isNextOf s.fab.answers q || routeTrains s q then .next s
  else
    let a := s.fab.awaits.find? (awaits (srcSite q) site unit q.tag.toNat)
    let l := packetLost (atTime time s) q (a.map (fun x => x.sent))
    let s := { l.2 with fab := { l.2.fab with answers := l.2.fab.answers.erase q } }
    if l.1 || (srcSite q < 224 && (routeOf s.fab.routes (srcSite q) site).isNone) then .next s
    else
      let s := countFlits q s
      match a with
      | none => .next (countDrop site s)
      | some a =>
        .next (deliverAnswer site unit q.tag.toNat q.status.toNat q.data
          { s with fab := { s.fab with awaits := s.fab.awaits.erase a } })

/-- REQUEST_EXPIRED: 10 ms after a request left, its source router delivers EXPIRED (R311). -/
def execRequestExpired (p : SiteId) (u : BitVec 8) (tag : BitVec 12) (time : Nat) (s : State) : Out :=
  let t := atTime time s
  let site := siteNo p
  match t.fab.awaits.find? (fun a => srcSite a.q == site && a.q.srcUnit == u && a.q.tag == tag
      && decide (a.sent + 10000000 ≤ t.now)) with
  | none => .next s
  | some a =>
    .next (deliverAnswer site u.toNat tag.toNat 8 [] { t with fab := { t.fab with awaits := t.fab.awaits.erase a } })

/-! ## Hop retry (R312, R313) -/

/-- The number of a router's port (HOP_DOWN). -/
def hopSideNo : HopSide → Nat
  | .n => 0 | .e => 1 | .s => 2 | .w => 3 | .localPort => 4 | .diag => 5

/-- A hop. -/
def hopOf (s : State) (k : Nat) : Hop := mapGetD s.fab.hops k hopZero
/-- A hop changed. -/
def setHop (k : Nat) (h : Hop) (s : State) : State :=
  { s with fab := { s.fab with hops := mapSet hopZero s.fab.hops k h } }

/-- A replay on a port: counted, logged and scored (R312, R550); the eighth of one flit begins a retrain. -/
def hopReplayed (i side : Nat) (inj : Bool) (f : HopFlit) (s : State) : State :=
  let h := keepFlit f (hopOf s (6 * i + side))
  let s := modPort i side (fun p => { p with retries := satInc 65535 p.retries }) s
  let s := logAdd { logBlank 4 with injected := inj, part := ownerOf s i, x := siteX i, y := siteY i, addr := side } s
  let s := scoreWear inj i 1 5 s
  setHop (6 * i + side) { h with replays := h.replays + 1, resend := true, training := decide (8 ≤ h.replays + 1) } s

/-- HOP_REPLAY: a flit reaches an input. The next in SEQ is delivered; one whose CRC fails is discarded and asked for again,
and so are those after it, until it has come. -/
def execHopReplay (p : SiteId) (side : HopSide) (f : HopFlit) (time : Nat) (s : State) : Out :=
  let i := siteNo p
  let n := hopSideNo side
  let h := hopOf s (6 * i + n)
  if !siteWorks s i || h.training || h.down then .next s
  else
    let r := examine 9 (fun j => aimsAt i j && j.sub == n) (atTime time s)
    if !flitGood f then .next (hopReplayed i n false f r.2)
    else if r.1 then .next (hopReplayed i n true f r.2)
    else if (sidebandOf f).seq = h.expect then .next (setHop (6 * i + n) (acceptFlit f h) r.2)
    else .next (setHop (6 * i + n) (if h.resend then keepFlit f h else h) r.2)

/-- A hop that is down: what its sender still holds is lost, and HOP_DOWN is raised (R313). -/
def hopLost (i n : Nat) (s : State) : State :=
  let s := loseFlits (hopOf s (6 * i + n)) s
  raise1 (evSite 0x0300 0 i n 0) (setHop (6 * i + n) { hopZero with fails := 3, down := true } s)

/-- HOP_RETRAIN: a retrain ends; after three failures in a row the hop is down (R313). -/
def execHopRetrain (p : SiteId) (side : HopSide) (ok : Bool) (time : Nat) (s : State) : Out :=
  let i := siteNo p
  let n := hopSideNo side
  let h := hopOf s (6 * i + n)
  if !h.training then .next s
  else
    let r := examine 10 (fun j => aimsAt i j && j.sub == n) (atTime time s)
    let inj := r.1
    let s := logAdd { logBlank 6 with injected := inj, part := ownerOf s i, x := siteX i, y := siteY i, addr := n } r.2
    let s := scoreWear inj i 2 2000 s
    if ok && !inj then .next (setHop (6 * i + n) { h with replays := 0, training := false, fails := 0 } s)
    else if h.fails + 1 < 3 then .next (setHop (6 * i + n) { h with fails := h.fails + 1 } s)
    else .next (hopLost i n s)

/-- ROUTE_REWRITE (R307). -/
def execRouteRewrite (time : Nat) (s : State) : Out := .next (rewriteRoutes (atTime time s))

/-! ## Congestion maps (R321, R322) -/

/-- The bin of a fill (R321). -/
def fillBin (n : Nat) : Nat :=
  if n = 0 then 0 else if n ≤ 2 then 1 else if n ≤ 4 then 2 else if n ≤ 8 then 3 else if n ≤ 16 then 4
  else if n ≤ 32 then 5 else if n ≤ 64 then 6 else 7

/-- The form of a sample: the fill of six ports, at most 128 flits each, and their four classes' waits. -/
def sampleFormOk (fills : List Nat) (waits : List (List Bool)) : Bool :=
  fills.length == 6 && waits.length == 6 && waits.all (fun w => w.length == 4) && fills.all (fun n => decide (n ≤ 128))

/-- Whether a port of a site's router is there (R305, R322): a side that faces a site, LOCAL, and DIAG at both ends of a
diagonal port. -/
def portThere (i n : Nat) : Bool :=
  match n with
  | 0 => decide (0 < siteY i)
  | 1 => decide (siteX i < 15)
  | 2 => decide (siteY i < 13)
  | 3 => decide (0 < siteX i)
  | 4 => true
  | _ => (diagOf i).isSome || (List.range 224).any (fun j => diagOf j == some i)

/-- CONGESTION_SAMPLE: each input port's fill and its waits for credit by class. -/
def execCongestionSample (p : SiteId) (fills : List Nat) (waits : List (List Bool)) (time : Nat) (s : State) : Out :=
  let i := siteNo p
  if !sampleFormOk fills waits then
    .fault .illFormed
  else if !siteWorks s i then .next s
  else .next (((List.range 6).filter (portThere i)).foldl (fun s n =>
    modPort i n (fun c => { c with
      bins := modAt c.bins (fillBin (fills.getD n 0)) (satInc 0xFFFFFFFF)
      stall := (c.stall.zip (waits.getD n [])).map (fun x => satInc 65535 x.1 (b2n x.2)) }) s) (atTime time s))

/-- A link's window closes with the routers' (R416). -/
def closeLinkWindow (tick : Nat) (x : Link) : Link :=
  { x with windows := (⟨tick, x.bins⟩ :: x.windows).take 17, bins := copies 8 0 }

/-- CONGESTION_WINDOW_END: at a tick boundary the window closes. The last 16 are kept beside the one that is not yet
available. -/
def execCongestionWindowEnd (time : Nat) (s : State) : Out :=
  let t := atTime time s
  if tickOf t ≤ s.fab.window then .next s
  else
    let w : CongWindow := ⟨t.fab.window, t.boot.generation.toNat, (List.range 224).filter (siteWorks t), t.fab.ports, t.fab.drops⟩
    .next { t with
      fab := { t.fab with windows := (w :: t.fab.windows).take 17, window := tickOf t, ports := [], drops := [] }
      links := { t.links with links := t.links.links.map (fun p => (p.1, closeLinkWindow w.tick p.2)) } }

/-- The windows that are available: those that ended a tick ago or more. -/
def windowsReady (s : State) : List CongWindow := s.fab.windows.filter (fun w => decide (w.tick + 2 ≤ tickOf s))

/-- The 48 bytes of a port record. -/
def portBytes (p : PortCount) : List Byte :=
  p.bins.flatMap (natLe 4) ++ p.stall.flatMap (natLe 2) ++ natLe 4 p.flits ++ natLe 2 p.retries ++ copies 2 0

/-- The 304 bytes of a site record (Table 11-10). -/
def mapSiteBytes (w : CongWindow) (i : Nat) : List Byte :=
  natLe 1 (siteX i) ++ natLe 1 (siteY i) ++ natLe 1 (b2n (w.routers.contains i)) ++ copies 1 0
    ++ natLe 4 (mapGetD w.drops i 0) ++ copies 8 0
    ++ (List.range 6).flatMap (fun n => portBytes (mapGetD w.ports (6 * i + n) portZero))

/-- The 68,160 bytes of a map. -/
def mapBytes (w : CongWindow) : List Byte :=
  natLe 2 1 ++ copies 6 0 ++ natLe 8 w.tick ++ natLe 4 w.generation ++ copies 44 0
    ++ (List.range 224).flatMap (mapSiteBytes w)

/-- FABRIC_MAP_GET. A window that is not held is blank (log entry 27). -/
def doFabricMapGet (c : Cmd) (pay : List Byte) (s : State) : State :=
  checked c [(decide (pay.length ≠ 16), stBadLength), (decide (leAt pay 4 4 < 68160), stBadLength),
      (decide (15 < leAt pay 0 1) || !zeroAt pay 1 3, stBadField)]
    (fun s => completeWithBuf c (leAt pay 8 8)
      (mapBytes ((windowsReady s).getD (leAt pay 0 1) ⟨0, 0, [], [], []⟩)) 0 s) s

/-- FABRIC_MAP_GET. -/
def execFabricMapGet (c : Cmd) (s : State) : Out := runRow c 0x0306 doFabricMapGet s

end Sys2Proof.Machine
end

