-- ==== Sys2Proof/Machine/FloorPlan.lean ====
section
/-! DEFINITION. The floor plan commands (R43 to R48, R601). -/

namespace Sys2Proof.Machine

/-! ## FLOORPLAN_GET (R43) -/

/-- FLOORPLAN_GET: the record into the buffer of the entry, GENERATION in the detail. -/
def doFloorplanGet (c : Cmd) (_pay : List Byte) (s : State) : State :=
  checked c [(decide (cmdLen c < 14400), stBadLength)]
    (fun s => completeWithOwnBuf c (recordBytes s) s.boot.generation.toNat s) s

/-- FLOORPLAN_GET. -/
def execFloorplanGet (c : Cmd) (s : State) : Out := runRow c 0x0100 doFloorplanGet s

/-! ## SITE_FENCE, SITE_UNFENCE, SITE_RETEST (R44 to R48, R601) -/

/-- The site that a payload of Table 1-10 names. -/
def paySite (pay : List Byte) : Nat := 16 * leAt pay 1 1 + leAt pay 0 1

/-- Checks 1 and 2 of R601 less the site checks: the length, the reserved byte and the reserved bits of FLAGS. -/
def siteFormChecks (flagMask : Nat) (pay : List Byte) : List (Bool × Nat) :=
  [(decide (pay.length ≠ 8), stBadLength),
   (!zeroAt pay 3 1 || decide (leAt pay 2 1 % (flagMask + 1) ≠ leAt pay 2 1), stBadField)]

/-- The site checks of R601: coordinates and role, absence. -/
def sitePlaceChecks (pay : List Byte) (s : State) : List (Bool × Nat) :=
  [(decide (15 < leAt pay 0 1) || decide (13 < leAt pay 1 1), stBadField),
   (!isDieSite (paySite pay), stBadField),
   (siteAbsent s (paySite pay), stUnitAbsent)]

/-- Check 4 of R601: EXPECT_GEN. -/
def genCheck (pay : List Byte) (s : State) : Bool × Nat :=
  (decide (leAt pay 4 4 ≠ 0) && decide (leAt pay 4 4 ≠ s.boot.generation.toNat), stFloorplanStale)

/-- SITE_FENCE (R45): a good or partial site becomes fenced with reason HOST_FENCE, and the fence is recorded. -/
def doSiteFence (c : Cmd) (pay : List Byte) (s : State) : State :=
  let i := paySite pay
  checked c (siteFormChecks 0 pay ++ sitePlaceChecks pay s ++ [genCheck pay s, ((entryAt s i).part != 0xFF, stBusy)])
    (fun s =>
      let s := if siteUsable s i then
          recordChange (fun s => recordFence i .fence (modEntry i (entrySet .fenced 11) s)) s
        else s
      complete c stOk 0 s) s

/-- SITE_FENCE. -/
def execSiteFence (c : Cmd) (s : State) : Out := runRow c 0x0101 doSiteFence s

/-- SITE_UNFENCE without FLAGS bit 0 (R46): a fenced or reserve die comes into service, and the unfence is recorded. -/
def doUnfenceOne (c : Cmd) (pay : List Byte) (s : State) : State :=
  let i := paySite pay
  checked c (siteFormChecks 1 pay ++ sitePlaceChecks pay s
      ++ [genCheck pay s, ((entryAt s i).state == .failed, stDenied)])
    (fun s =>
      let s := if siteUsable s i then s
        else recordChange (fun s => recordFence i .unfence (modEntry i entryInService s)) s
      complete c stOk 0 s) s

/-- A site's entry as R47 restores it. -/
def entryRestored (s : State) (i : Nat) (e : SiteEntry) : SiteEntry :=
  if e.state = .failed ∨ e.state = .absent then e
  else if e.role = 1 then entryDefault (fuseOf s i).reserveDesig e
  else if isDieSite i ∧ e.state = .fenced ∧ e.reason = 11 then entryInService e
  else e

/-- Whether R47 would take a site that a partition owns out of use. -/
def restoreBlocked (s : State) : Bool :=
  s.fp.entries.zipIdx.any (fun p =>
    let e := entryRestored s p.2 p.1
    p.1.part != 0xFF && e.state != p.1.state && (e.state == .fenced || e.state == .reserve))

/-- SITE_UNFENCE with FLAGS bit 0 (R47): the factory default in one step; host entries are cleared. -/
def doUnfenceDefault (c : Cmd) (pay : List Byte) (s : State) : State :=
  checked c (siteFormChecks 1 pay ++ [genCheck pay s, (restoreBlocked s, stBusy)])
    (fun s => complete c stOk 0 (recordChange (fun s =>
      { s with
        fp := { s.fp with entries := s.fp.entries.zipIdx.map (fun p => entryRestored s p.2 p.1) }
        boot := { s.boot with hostFences := [] } }) s)) s

/-- SITE_UNFENCE of either form. -/
def doSiteUnfence (c : Cmd) (pay : List Byte) (s : State) : State :=
  if bitAt (leAt pay 2 1) 0 then doUnfenceDefault c pay s else doUnfenceOne c pay s

/-- SITE_UNFENCE. -/
def execSiteUnfence (c : Cmd) (s : State) : Out := runRow c 0x0102 doSiteUnfence s

/-- SITE_UNFENCE_DEFAULT. -/
def execSiteUnfenceDefault (c : Cmd) (s : State) : Out := runRow c 0x0102 doSiteUnfence s

/-- SITE_RETEST (R48): the retest of a failed, unowned, powered site begins, once the processor of its die runs (R462). -/
def doSiteRetest (c : Cmd) (pay : List Byte) (s : State) : State :=
  let i := paySite pay
  checked c (siteFormChecks 0 pay ++ sitePlaceChecks pay s
      ++ [genCheck pay s,
          ((entryAt s i).state != .failed || (entryAt s i).part != 0xFF, stDenied),
          (!sitePowered s i, stNotReady),
          ((mapGet? s.fp.retests i).isSome, stBusy)])
    (needProcs (procOfSite i).toList c pay
      (fun s => { s with fp := { s.fp with retests := mapPut s.fp.retests i c } })) s

/-- SITE_RETEST. -/
def execSiteRetest (c : Cmd) (s : State) : Out := runRow c 0x0103 doSiteRetest s

/-- The outcome of a retest goes into the record and the persistent list (R48). -/
def retestOutcome (i : Nat) (r : SelfTest) (s : State) : State :=
  let why := testReason s i r
  let s := recordChange (fun s =>
    if why = 0 then dropFailure i (modEntry i (fun e => entryInService (entryContents s i r e)) s)
    else if why = 6 then recordFailure i 6 (modEntry i (fun e => entryDark (entrySet .failed 6 (entryContents s i r e))) s)
    else dropFailure i (modEntry i (fun e => entryDark (entrySet .failed why e)) s)) s
  if why = 0 then s else logAdd (logFailure i why false) s

/-- SITE_RETEST_COMPLETE (R48): the new STATE and REASON complete the command. -/
def execSiteRetestComplete (p : SiteId) (r : SelfTest) (time : Nat) (s : State) : Out :=
  let i := siteNo p
  match mapGet? s.fp.retests i with
  | none => .next s
  | some c =>
    let s := atTime time s
    let s := { s with fp := { s.fp with retests := mapDel s.fp.retests i } }
    let s := retestOutcome i r s
    let e := entryAt s i
    .next (complete c stOk (siteStateCode e.state + 256 * e.reason) s)

end Sys2Proof.Machine
end

