-- ==== Sys2Proof/Machine/Partitions.lean ====
section
/-! DEFINITION. Partitions, interleave windows, and the scrubbers of the stacks (R314 to R331, R540, R544). -/

namespace Sys2Proof.Machine

/-- Whether a partition exists. -/
def partExists (s : State) (n : Nat) : Bool := decide (n < 8) && (partOf s n).present

/-! ## Partitions -/

/-- The form of Table 11-8 (R317). -/
def partForm (flagMax : Nat) (site : Bool) (pay : List Byte) : List (Bool × Nat) :=
  [(decide (pay.length ≠ 8), stBadLength),
   (decide (7 < leAt pay 0 1) || decide (flagMax < leAt pay 1 1)
      || (if site then decide (15 < leAt pay 2 1) || decide (13 < leAt pay 3 1) else !zeroAt pay 2 6), stBadField)]

/-- The site that the payload names. -/
def partSite (pay : List Byte) : Nat := 16 * leAt pay 3 1 + leAt pay 2 1

/-- PARTITION_CREATE (R318). -/
def doPartitionCreate (c : Cmd) (pay : List Byte) (s : State) : State :=
  checked c (partForm 3 false pay ++ [(partExists s (leAt pay 0 1), stBusy)])
    (fun s => complete c stOk 0 (modPart (leAt pay 0 1) (fun _ => { partitionZero with
      present := true, debug := bitAt (leAt pay 1 1) 0, inject := bitAt (leAt pay 1 1) 1 }) s)) s

/-- PARTITION_CREATE. -/
def execPartitionCreate (c : Cmd) (s : State) : Out := runRow c 0x0300 doPartitionCreate s

/-- Whether a partition owns a site. -/
def ownsAny (s : State) (n : Nat) : Bool := s.fp.entries.any (fun e => e.part == n)

/-- PARTITION_DESTROY (R318). -/
def doPartitionDestroy (c : Cmd) (pay : List Byte) (s : State) : State :=
  checked c (partForm 0 false pay ++ [(!partExists s (leAt pay 0 1), stBadField), (ownsAny s (leAt pay 0 1), stBusy)])
    (fun s => complete c stOk 0 (modPart (leAt pay 0 1) (fun _ => partitionZero) s)) s

/-- PARTITION_DESTROY. -/
def execPartitionDestroy (c : Cmd) (s : State) : Out := runRow c 0x0301 doPartitionDestroy s

/-- A memory behind a unit of a site cleared to zero: every word is whole (R208, R319). -/
def clearBuffer (i : Nat) (s : State) : State :=
  modBuf i (fun d => { d with bad := [] }) { s with mem := memClear s.mem (addrOf i 0x40 0) 0x2000000 }

/-- A stack written to zero. -/
def clearStack (n : Nat) (s : State) : State :=
  modStack n (fun d => { d with bad := [] }) { s with mem := memClear s.mem (stackAddr n 0) (2 ^ 40) }

/-- A unit is prepared for the partition that it was given to (R319, R403). -/
def prepareUnit (part i : Nat) (s : State) : State :=
  if placeRole i = 1 then
    clearBuffer i (modPart part (fun p => { p with rankSince := mapPut p.rankSince i p.rankNext }) s)
  else if placeRole i = 2 then clearStack (stackOfSite i) s
  else if placeRole i = 3 then modPart part (fun p => { p with rankSince := mapPut p.rankSince i p.rankNext }) s
  else s

/-- A site's PARTITION changed. -/
def setOwner (i part : Nat) (s : State) : State := recordChange (modEntry i (fun e => { e with part := part })) s

/-- PARTITION_ADD (R319). -/
def doPartitionAdd (c : Cmd) (pay : List Byte) (s : State) : State :=
  let part := leAt pay 0 1
  let i := partSite pay
  let e := entryAt s i
  checked c (partForm 0 true pay
      ++ [(!partExists s part, stBadField), (!isDieSite i, stBadField), (siteAbsent s i, stUnitAbsent),
          (!usableState e.state, stDenied), (e.part != 0xFF && e.part != part, stBusy), genCheck pay s])
    (fun s => if e.part = part then complete c stOk 0 s
      else complete c stOk 0 (prepareUnit part i (setOwner i part s))) s

/-- PARTITION_ADD. -/
def execPartitionAdd (c : Cmd) (s : State) : Out := runRow c 0x0302 doPartitionAdd s

/-- The regions of a partition's generations. -/
def partRegions (p : Partition) : List Region := p.slots.flatMap (fun m => m.2.gens.flatMap (fun g => g.regions))

/-- The site of a region's unit. -/
def regionSite (r : Region) : Nat := if r.kind = 1 then siteOfStack r.unit else siteOfWstore r.unit

/-- Whether a unit is in use under R320: a bay, a window, a table, a region, or an entry of the rank table that leaves by the
link die (log entry 28). -/
def unitInUse (s : State) (part i : Nat) : Bool :=
  let p := partOf s part
  (baysOnSite s i).any (fun n =>
      match bayOf s n with
      | some b => b.part == part && b.mode != .stopped && b.mode != .faultHold
      | none => false)
    || (placeRole i == 2 && (p.windows.any (fun w => match w with | some w => bitAt w.mask (stackOfSite i) | none => false)
        || !(engineOf s (stackOfSite i)).tables.isEmpty))
    || (partRegions p).any (fun r => regionSite r == i)
    || (placeRole i == 3 && p.ranks.any (fun r => rankValid r.2.value && linkSite (fld r.2.value 39 32) == i))

/-- PARTITION_REMOVE (R320). An absent HBM, link or weight-store site, which no partition owns, is answered with UNIT_ABSENT
as R11 says, not with R320's BAD_FIELD (DESIGN CHOICE, log entry 148). -/
def doPartitionRemove (c : Cmd) (pay : List Byte) (s : State) : State :=
  let part := leAt pay 0 1
  let i := partSite pay
  checked c (partForm 0 true pay
      ++ [(siteAbsent s i && 2 ≤ placeRole i && placeRole i ≤ 4, stUnitAbsent),
          ((entryAt s i).part != part, stBadField), genCheck pay s, (unitInUse s part i, stBusy)])
    (fun s => complete c stOk 0 (setOwner i 0xFF s)) s

/-- PARTITION_REMOVE. -/
def execPartitionRemove (c : Cmd) (s : State) : Out := runRow c 0x0303 doPartitionRemove s

/-! ## Interleave windows (R329 to R331) -/

/-- WINDOW_SET of either form. -/
def doWindowSet (c : Cmd) (pay : List Byte) (s : State) : State :=
  let part := leAt pay 0 1
  let w := leAt pay 1 1
  let clear := leAt pay 2 1 == 1
  let mask := leAt pay 4 4
  let base := leAt pay 8 8
  let per := leAt pay 0x10 8
  let hbms := (List.range 32).filter (bitAt mask)
  checked c
    [(decide (pay.length ≠ 24), stBadLength),
     (!partExists s part || decide (63 < w) || decide (1 < leAt pay 2 1) || !zeroAt pay 3 1
        || (if clear then !zeroAt pay 4 20
            else decide (mask = 0) || decide (per = 0) || base % 2048 != 0 || per % 2048 != 0), stBadField),
     (hbms.any (fun n => siteAbsent s (siteOfStack n)), stUnitAbsent),
     (hbms.any (fun n => ownerOf s (siteOfStack n) != part), stDenied),
     (hbms.any (fun n => decide (memSize s (.stack n) < base + per)), stBadField)]
    (fun s => complete c stOk 0 (modPart part (fun p => { p with
      windows := p.windows.set w (if clear then none else some ⟨mask, base, per⟩) }) s)) s

/-- WINDOW_SET. -/
def execWindowSet (c : Cmd) (s : State) : Out := runRow c 0x0304 doWindowSet s
/-- WINDOW_SET with CLEAR. -/
def execWindowClear (c : Cmd) (s : State) : Out := runRow c 0x0304 doWindowSet s

/-! ## Scrubbing and spare rows (R326, R328, R544) -/

/-- MEM_SCRUB_SET. -/
def doMemScrubSet (c : Cmd) (pay : List Byte) (s : State) : State :=
  let n := leAt pay 0 1
  let h := leAt pay 2 2
  let all := (List.range 32).filter (fun n => !siteAbsent s (siteOfStack n))
  checked c
    [(decide (pay.length ≠ 8), stBadLength),
     (decide (h = 0) || decide (168 < h) || (decide (31 < n) && n != 0xFF) || !zeroAt pay 1 1 || !zeroAt pay 4 4, stBadField),
     (n != 0xFF && siteAbsent s (siteOfStack n), stUnitAbsent)]
    (fun s => complete c stOk 0
      ((if n = 0xFF then all else [n]).foldl (fun s m => modStack m (fun d => { d with period := h }) s) s)) s

/-- MEM_SCRUB_SET. -/
def execMemScrubSet (c : Cmd) (s : State) : Out := runRow c 0x0305 doMemScrubSet s

/-- Whether the scrubber of a stack works: the die is on and its units serve (R608), whatever its site may be used for. -/
def scrubs (s : State) (n : Nat) : Bool :=
  let i := siteOfStack n
  let e := (entryAt s i).state
  e != .absent && e != .failed && (pwrOf s i).mode == .on && !siteInReset s i

/-- The length of a scrub period in ns. -/
def scrubPeriod (d : StackState) : Nat := d.period * 3600000000000

/-- The patrol has read a word; with the end of a period the next begins (R328). -/
def patrolNoted (now w : Nat) (d : StackState) : StackState :=
  if d.since + scrubPeriod d ≤ now then { d with since := now, patrolled := [w] }
  else { d with patrolled := d.patrolled ++ [w] }

/-- Whether the patrol is still to read a word in this period. -/
def patrolDue (now w : Nat) (d : StackState) : Bool :=
  decide (d.since + scrubPeriod d ≤ now) || !d.patrolled.contains w

/-- A stack leaves self-refresh: its scrub period restarts (R328). -/
def restartPatrol (n : Nat) (s : State) : State := modStack n (fun d => { d with since := s.now, patrolled := [] }) s

/-- One word read and, where it could be corrected, written back: it is no longer due to be scrubbed by itself. -/
def scrubWord (n w : Nat) (f : EccFinding) (s : State) : State :=
  let due := mapGet? (mapGetD s.hbms n stackZero).scrubs (w / 32)
  let r := examineWord (.stack n) f w s
  modStack n (fun d => { d with
    scored := d.scored.filter (fun x => x != w)
    scrubs := if due.isNone then mapDel d.scrubs (w / 32) else d.scrubs }) r.2

/-- PATROL_SCRUB: a word is read, once in a scrub period (R328). -/
def execPatrolScrub (st : StackId) (word : Nat) (f : EccFinding) (time : Nat) (s : State) : Out :=
  let n := st.val
  let t := atTime time s
  if !scrubs s n || decide (memSize s (.stack n) ≤ 64 * word) || !patrolDue t.now word (mapGetD s.hbms n stackZero) then .next s
  else .next (modStack n (patrolNoted t.now word) (scrubWord n word f t))

/-- SCHEDULED_SCRUB (R326): the unit is read and its corrected data written back. -/
def execScheduledScrub (st : StackId) (unit : Nat) (f : EccFinding) (time : Nat) (s : State) : Out :=
  let n := st.val
  if !scrubs s n || (mapGet? (mapGetD s.hbms n stackZero).scrubs unit).isNone then .next s
  else
    let s := (List.range 32).foldl (fun s j => scrubWord n (32 * unit + j) f s) (atTime time s)
    .next (modStack n (fun d => { d with scrubs := mapDel d.scrubs unit }) s)

/-- A DRAM row moves into a spare; with the last one used, SPARES_EXHAUSTED is raised (R544). -/
def retireRow (n row : Nat) (s : State) : State :=
  let d := mapGetD s.hbms n stackZero
  if d.spares ≥ 4096 then modStack n (fun d => { d with retiring := listMark false row d.retiring }) s
  else
    let s := modStack n (fun d => { d with
      spares := d.spares + 1
      exhausted := decide (4096 ≤ d.spares + 1)
      retiring := listMark false row d.retiring
      retired := listMark true row d.retired
      corrected := d.corrected.filter (fun p => dramRow p.1 != row) }) s
    if d.spares + 1 < 4096 then s
    else raise1 (evSite 0x0A03 n (siteOfStack n) 0 4096) s

/-- ROW_RETIRE: the scrubber visits a row that is due for retirement. -/
def execRowRetire (st : StackId) (row : Nat) (time : Nat) (s : State) : Out :=
  if !scrubs s st.val || !(mapGetD s.hbms st.val stackZero).retiring.contains row then .next s
  else .next (retireRow st.val row (atTime time s))

end Sys2Proof.Machine
end

