-- ==== Sys2Proof/Machine/Embedding.lean ====
section
/-! DEFINITION. The embedding engines: tables, lookups, batches and rebuilds (R332 to R357). -/

namespace Sys2Proof.Machine

/-! ## Tables (R333 to R336, R357) -/

/-- The bytes of an element of a table format, 0 for a format that no table has. -/
def embSize (fmt : Nat) : Nat := if fmt = 1 then 4 else if fmt = 2 then 2 else if fmt = 4 ∨ fmt = 5 then 1 else 0

/-- A table of a stack. -/
def tableOf (s : State) (n t : Nat) : Option EmbTable := mapGet? (engineOf s n).tables t
/-- A table changed. -/
def modTable (n t : Nat) (f : EmbTable → EmbTable) (s : State) : State :=
  modEngine n (fun x => { x with tables := x.tables.map (fun p => if p.1 = t then (p.1, f p.2) else p) }) s

/-- The base of the copy that serves an epoch. -/
def copyBase (x : EmbTable) (epoch : Nat) : Nat := if epoch % 2 = 0 then x.baseA else x.baseB
/-- The ranges of stack memory that a table occupies: base and length. -/
def tableSpans (x : EmbTable) : List (Nat × Nat) :=
  (x.baseA, x.rows * x.stride) :: (if x.rebuildable then [(x.baseB, x.rows * x.stride)] else [])
/-- Whether two ranges overlap. -/
def spansMeet (a b : Nat × Nat) : Bool := decide (a.1 < b.1 + b.2) && decide (b.1 < a.1 + a.2)

/-- The table that a payload of Table 12-1 defines. -/
def tableFromPay (pay : List Byte) : EmbTable where
  part := leAt pay 2 1
  fmt := leAt pay 3 1
  elems := leAt pay 4 2
  rebuildable := bitAt (leAt pay 6 1) 0
  rows := leAt pay 8 4
  stride := leAt pay 0xC 4
  baseA := leAt pay 0x10 8
  baseB := leAt pay 0x18 8
  epoch := 0
  phase := .idle
  share := 15
  src := ⟨0, 0, 0, 0, 0, false⟩
  rowsDone := 0
  failRow := 0xFFFFFFFF
  lastRow := 0
  resErrors := 0
  requests := 0
  rowsRead := 0
  notOk := 0

/-- Check 6 of R335. -/
def tableBad (s : State) (n : Nat) (x : EmbTable) : Bool :=
  let size := embSize x.fmt
  let spans := tableSpans x
  decide (size = 0) || decide (x.elems < 64) || decide (1024 < x.elems) || x.elems % 64 != 0 || decide (x.rows = 0)
    || decide (x.stride = 0) || x.stride % 64 != 0 || decide (x.stride < x.elems * size)
    || x.baseA % 64 != 0 || x.baseB % 64 != 0 || (!x.rebuildable && x.baseB != 0)
    || spans.any (fun p => decide (memSize s (.stack n) < p.1 + p.2))
    || (x.rebuildable && spansMeet (x.baseA, x.rows * x.stride) (x.baseB, x.rows * x.stride))
    || (engineOf s n).tables.any (fun p => (tableSpans p.2).any (fun a => spans.any (spansMeet a)))

/-- Whether a stack and its engine are there for the commands of the chapter (R332). -/
def embAbsent (s : State) (n : Nat) : Bool := siteAbsent s (siteOfStack n) || engineAbsent s n

/-- A command that runs while the supervisor of a stack's base die does. -/
def onStack (n : Nat) (c : Cmd) (pay : List Byte) (eff : State → State) (s : State) : State :=
  needProc ((procOfSite (siteOfStack n)).getD 0) c pay eff s

/-- EMB_TABLE_CREATE (R335). -/
def doEmbTableCreate (c : Cmd) (pay : List Byte) (s : State) : State :=
  let n := leAt pay 0 1
  let t := leAt pay 1 1
  let x := tableFromPay pay
  checked c
    [(decide (pay.length ≠ 32), stBadLength),
     (decide (31 < n) || decide (63 < t) || decide (1 < leAt pay 6 1) || !zeroAt pay 7 1, stBadField),
     (embAbsent s n, stUnitAbsent),
     (decide (7 < x.part) || ownerOf s (siteOfStack n) != x.part, stDenied),
     ((tableOf s n t).isSome, stBusy), (tableBad s n x, stBadField)]
    (onStack n c pay (fun s =>
      complete c stOk 0 (modEngine n (fun e => { e with tables := mapPut e.tables t x }) s))) s

/-- EMB_TABLE_CREATE. -/
def execEmbTableCreate (c : Cmd) (s : State) : Out := runRow c 0x0400 doEmbTableCreate s

/-- The form of a payload that names a table by STACK and TABLE, with the checks that every such command makes: the form,
the engine, the table and its partition. -/
def tableForm (s : State) (c : Cmd) (len : Nat) (extra : Bool) (pay : List Byte) : List (Bool × Nat) :=
  let n := leAt pay 0 1
  [(decide (pay.length ≠ len), stBadLength),
   (decide (31 < n) || decide (63 < leAt pay 1 1) || extra, stBadField),
   (embAbsent s n, stUnitAbsent),
   ((tableOf s n (leAt pay 1 1)).isNone, stBadField),
   ((match tableOf s n (leAt pay 1 1) with
      | some x => cmdPart c != 0xFF && x.part != cmdPart c
      | none => false), stDenied)]

/-- The table that a payload names. -/
def payTable (s : State) (pay : List Byte) : EmbTable :=
  (tableOf s (leAt pay 0 1) (leAt pay 1 1)).getD (tableFromPay [])

/-- Whether a request of an engine names a table. -/
def usesTable (t : Nat) (x : EmbEngine) : Bool :=
  x.queue.any (fun r => rqTable r.raw == t) || x.runs.any (fun r => rqTable r.req.raw == t)
    || x.results.any (fun r => rqTable r.run.req.raw == t)

/-- The epochs at which open batches pin a table. -/
def pinEpochs (s : State) (n t : Nat) : List Nat :=
  s.parts.flatMap (fun p => p.embBatches.filterMap (fun b => mapGet? b.2.pins (64 * n + t)))

/-- EMB_TABLE_DESTROY (R336). -/
def doEmbTableDestroy (c : Cmd) (pay : List Byte) (s : State) : State :=
  let n := leAt pay 0 1
  let t := leAt pay 1 1
  checked c (tableForm s c 8 (!zeroAt pay 2 6) pay
      ++ [(!(pinEpochs s n t).isEmpty || usesTable t (engineOf s n) || (payTable s pay).phase != .idle, stBusy)])
    (onStack n c pay (fun s =>
      complete c stOk 0 (modEngine n (fun e => { e with tables := mapDel e.tables t }) s))) s

/-- EMB_TABLE_DESTROY. -/
def execEmbTableDestroy (c : Cmd) (s : State) : Out := runRow c 0x0401 doEmbTableDestroy s

/-- A rebuild state's code (Table 12-9). -/
def rebuildCode : RebuildPhase → Nat
  | .idle => 0 | .running => 1 | .paused => 2 | .complete => 3 | .failed => 4

/-- The 64 bytes of a table's status (Table 12-9). -/
def tableBytes (s : State) (n t : Nat) (x : EmbTable) : List Byte :=
  let pins (idle : Bool) : Nat := ((pinEpochs s n t).filter (fun e => (e % 2 != x.epoch % 2) == idle)).length
  natLe 1 n ++ natLe 1 t ++ natLe 1 (rebuildCode x.phase) ++ natLe 1 x.share ++ natLe 4 x.epoch ++ natLe 4 x.rowsDone
    ++ natLe 4 x.failRow ++ natLe 2 (pins false) ++ natLe 2 (pins true) ++ natLe 4 x.resErrors ++ natLe 8 x.requests
    ++ natLe 8 x.rowsRead ++ natLe 8 x.notOk ++ copies 16 0

/-- EMB_TABLE_STATUS (R357). -/
def doEmbTableStatus (c : Cmd) (pay : List Byte) (s : State) : State :=
  let n := leAt pay 0 1
  checked c ((decide (pay.length ≠ 16), stBadLength) :: (decide (leAt pay 4 4 < 64), stBadLength)
      :: tableForm s c 16 (!zeroAt pay 2 2) pay)
    (onStack n c pay (fun s =>
      completeWithBuf c (leAt pay 8 8) (tableBytes s n (leAt pay 1 1) (payTable s pay)) 0 s)) s

/-- EMB_TABLE_STATUS. -/
def execEmbTableStatus (c : Cmd) (s : State) : Out := runRow c 0x0407 doEmbTableStatus s

/-! ## Lookups (R338 to R346) -/

/-- The fields of a request (Table 12-2). -/
def rqPool (raw : List Byte) : Nat := leAt raw 1 1
def rqRset (raw : List Byte) : Bool := bitAt (leAt raw 2 1) 0
def rqBf16 (raw : List Byte) : Bool := bitAt (leAt raw 2 1) 1
def rqNidx (raw : List Byte) : Nat := leAt raw 6 2
def rqIdx (raw : List Byte) : Nat := leAt raw 8 8
def rqWgt (raw : List Byte) : Nat := leAt raw 0x10 8

/-- An address that R340 allows: stack memory, a die buffer or a scratchpad, at a multiple of its alignment. -/
def embAddrOk (a : Nat) : Bool :=
  fld a 63 56 == 0 && decide (addrY a < 14)
    && (match memKindOf (addrSite a) (addrUnit a) with
      | some (.core _) => a % 512 == 0
      | some (.buffer _) => a % 64 == 0
      | some (.stack _) => a % 64 == 0
      | _ => false)

/-- RSTATUS 5: the request breaks its form (Table 12-5, R341). -/
def requestBad (raw : List Byte) : Bool :=
  let none' := rqNidx raw == 0
  decide (3 < rqPool raw) || decide (3 < leAt raw 2 1) || decide (63 < leAt raw 3 1) || decide (4096 < rqNidx raw)
    || !zeroAt raw 0x24 28 || !embAddrOk (rqRes raw) || (!none' && !embAddrOk (rqIdx raw))
    || (!none' && (if rqPool raw = 2 then !embAddrOk (rqWgt raw) else rqWgt raw != 0))
    || (rqRset raw && !isCoreAddr (rqRes raw))

/-- RSTATUS as the engine finds it before it reads anything (R343). -/
def requestStatus (s : State) (n : Nat) (r : EmbRequest) : Nat :=
  if requestBad r.raw then 5
  else if (tableOf s n (rqTable r.raw)).isNone then 2
  else if !r.live then 3
  else if rqBatch r.raw = 0xFFFF then 0
  else
    match mapGet? (partOf s (ownerOf s (siteOfStack n))).embBatches (rqBatch r.raw) with
    | some b => if (mapGet? b.pins (64 * n + rqTable r.raw)).isNone then 4 else 0
    | none => 3

/-- The epoch whose copy a request reads (R350). -/
def requestEpoch (s : State) (n : Nat) (x : EmbTable) (r : EmbRequest) : Nat :=
  match mapGet? (partOf s (ownerOf s (siteOfStack n))).embBatches (rqBatch r.raw) with
  | some b => if rqBatch r.raw = 0xFFFF then x.epoch else mapGetD b.pins (64 * n + rqTable r.raw) x.epoch
  | none => x.epoch

/-- Bytes of 32-bit words. -/
def words32 (bs : List Byte) (n : Nat) : List Nat := (List.range n).map (fun i => leAt bs (4 * i) 4)

/-- The finding of a happening as it concerns the memory at an address. -/
def findingAt (n : Nat) (f : EccFinding) (a : Nat) : EccFinding :=
  if addrSite a = siteOfStack n ∧ addrUnit a = 0 then f else ⟨[], []⟩

/-- A read of the engine for a request. -/
def embRead (n : Nat) (r : EmbRequest) (f : EccFinding) (a len : Nat) (s : State) : Nat × Nat × List Byte × State :=
  readNow (siteOfStack n) 1 false false (findingAt n f a) a len s (some (rqRes r.raw % 2 ^ 56))

/-- The request read what cannot be corrected, and the read has been reported with RES_ADDR: no result, and the bay of the
result core takes fault 4 (R345). -/
def deadRequest (r : EmbRequest) (s : State) : State :=
  let res := rqRes r.raw % 2 ^ 56
  if isCoreAddr res then
    let k := coreOfBit (addrSite res) (addrUnit res)
    match bayOfCore s k with
    | some (i, b) => setBay i (faultNow 4 k b) s
    | none => s
  else s

/-- The value of an element of a table format in FP32 (R346). -/
def embElem (fmt v : Nat) : W32 :=
  match fmOfCode fmt with
  | some f => if fmt = 1 then BitVec.ofNat 32 v else (toF32 .rne (fmDecode f v)).1
  | none => 0

/-- The elements of a row in FP32. -/
def embRow (fmt elems : Nat) (bs : List Byte) : List W32 :=
  (List.range elems).map (fun i => embElem fmt (leAt bs (embSize fmt * i) (embSize fmt)))

/-- Rows read in order of the indices: those read, whether a word of one cannot be corrected, and the state. -/
def readRows (n : Nat) (x : EmbTable) (base : Nat) (f : EccFinding) (res : Nat) :
    List Nat → State → List (List W32) × Bool × State
  | [], s => ([], false, s)
  | i :: is, s =>
    let len := x.elems * embSize x.fmt
    let w := readMem (.stack n) (base + i * x.stride) len f s (some res)
    let r := readRows n x base f res is w.2.2
    (embRow x.fmt x.elems w.2.1 :: r.1, w.1 || r.2.1, r.2.2)

/-- A request joins those that run. -/
def addRun (n : Nat) (r : EmbRun) (s : State) : State := modEngine n (fun e => { e with runs := e.runs ++ [r] }) s

/-- A request whose indices are read and in range reads its weights and rows, where no read has to wait. -/
def startRows (n : Nat) (x : EmbTable) (r : EmbRequest) (f : EccFinding) (epoch : Nat) (idx : List Nat) (s : State) :
    Option State :=
  let ws := if rqPool r.raw = 2 then embRead n r f (rqWgt r.raw) (4 * rqNidx r.raw) s else (0, 0, [], s)
  if ws.1 = notYet then none
  else if ws.1 = 5 then some (deadRequest r ws.2.2.2)
  else if ws.1 ≠ 0 then some (addRun n ⟨r, 6, 0, 0, x.elems, [], []⟩ ws.2.2.2)
  else
    let rows := readRows n x (copyBase x epoch) f (rqRes r.raw % 2 ^ 56) idx ws.2.2.2
    if rows.2.1 then some (deadRequest r rows.2.2)
    else some (addRun n ⟨r, 0, epoch, 0, x.elems, rows.1, (words32 ws.2.2.1 (rqNidx r.raw)).map (BitVec.ofNat 32)⟩ rows.2.2)

/-- A request starts: its checks, its indices, its weights and its rows (R339, R343, R350); it does not start yet while a
read of it has to wait. Of a table that is not defined the result's length is a free one (log entry 29). -/
def startLookup (n : Nat) (r : EmbRequest) (f : EccFinding) (s : State) : Option State :=
  let st := requestStatus s n r
  match tableOf s n (rqTable r.raw) with
  | none =>
    let z := takeFree s
    some (addRun n ⟨r, st, 0, 0, 64 * (1 + z.1 % 16), [], []⟩ z.2)
  | some x =>
    if st ≠ 0 then some (addRun n ⟨r, st, 0, 0, x.elems, [], []⟩ s)
    else
      let epoch := requestEpoch s n x r
      if rqNidx r.raw = 0 then some (addRun n ⟨r, 0, epoch, 0, x.elems, [], []⟩ s)
      else
        let ix := embRead n r f (rqIdx r.raw) (4 * rqNidx r.raw) s
        let idx := words32 ix.2.2.1 (rqNidx r.raw)
        let out := (idx.filter (fun i => decide (x.rows ≤ i))).length
        if ix.1 = notYet then none
        else if ix.1 = 5 then some (deadRequest r ix.2.2.2)
        else if ix.1 ≠ 0 then some (addRun n ⟨r, 6, 0, 0, x.elems, [], []⟩ ix.2.2.2)
        else if out ≠ 0 then some (addRun n ⟨r, 1, 0, out, x.elems, [], []⟩ ix.2.2.2)
        else startRows n x r f epoch idx ix.2.2.2

/-- LOOKUP_START. -/
def execLookupStart (st : StackId) (f : EccFinding) (time : Nat) (s : State) : Out :=
  match (engineOf s st.val).queue with
  | [] => .next s
  | r :: rest =>
    if !scrubs s st.val then .next s
    else .next ((startLookup st.val r f (modEngine st.val (fun e => { e with queue := rest }) (atTime time s))).getD s)

/-- The quotient of a sum by a count, rounded once. -/
def divCount (a : W32) (n : Nat) : W32 :=
  match f32 a with
  | .fin neg m e => if m = 0 then a else (toF32 .rne (fDivExt neg m e false n 0)).1
  | v => (toF32 .rne v).1

/-- A value with a NaN made the canonical one, which is all that leaves the engine (R90). -/
def canonical (a : W32) : W32 := match f32 a with | .nan => nan32 | _ => a

/-- Rows pooled in their order (R346). -/
def poolRows (pool : Nat) (elems : Nat) (rows : List (List W32 × W32)) : List W32 :=
  match rows with
  | [] => copies elems 0
  | first :: rest =>
    if pool = 3 then rest.foldl (fun acc r => acc.zipWith (fMinMax true) r.1) (first.1.map canonical)
    else
      let add (acc : List W32) (r : List W32 × W32) : List W32 :=
        acc.zipWith (fun a x => if pool = 2 then (f32Fma .rne r.2 x a).1 else (f32Add .rne a x).1) r.1
      let sum := rows.foldl add (copies elems 0)
      if pool = 1 then sum.map (fun a => divCount a rows.length) else sum

/-- Whether a value is infinite or NaN. -/
def isNonFinite (a : W32) : Bool := match f32 a with | .fin .. => false | _ => true

/-- The result record (R342, Table 12-3). -/
def resultBytes (r : EmbRun) (order : List Nat) : List Byte :=
  let raw := r.req.raw
  let rows := order.map (fun i => (r.rows.getD i [], r.weights.getD i 0))
  let vec := if r.status = 0 then poolRows (rqPool raw) r.elems rows else copies r.elems 0
  let out := if rqBf16 raw then vec.map (fun a => BitVec.ofNat 32 (layRound lay16b .rne (f32 a)).1) else vec
  let nonfin := if rqBf16 raw then out.any (fun a => isNonFinite (a <<< 16)) else out.any isNonFinite
  let body := out.flatMap (fun a => natLe (if rqBf16 raw then 2 else 4) a.toNat)
    ++ natLe 1 r.status ++ natLe 1 (b2n (rqNidx raw == 0) + 2 * b2n nonfin) ++ natLe 2 (rqNidx raw)
    ++ natLe 4 (if r.status = 0 then r.epoch else 0) ++ natLe 4 (leAt raw 0x20 4) ++ natLe 4 r.bad
  let unit := if isCoreAddr (rqRes raw % 2 ^ 56) then 512 else 64
  padTo ((body.length + unit - 1) / unit * unit) body

/-- The counters of a table count a request that has its result. -/
def countRequest (n : Nat) (r : EmbRun) (s : State) : State :=
  modTable n (rqTable r.req.raw) (fun x => { x with
    requests := x.requests + 1
    rowsRead := x.rowsRead + r.rows.length
    notOk := if r.status = 0 then x.notOk else x.notOk + 1 }) s

/-- The writes of a result leave the engine: the last one carries LAST, and all carry RSET (R344). -/
def sendResult (n : Nat) (r : EmbRun) (bs : List Byte) (s : State) : State :=
  let a := rqRes r.req.raw % 2 ^ 56
  let cuts := rangeCuts (bs.length / 2048 + 2) a bs.length
  let tag0 := (engineOf s n).tag
  let s := modEngine n (fun e => { e with
    tag := (tag0 + cuts.length) % 4096
    results := e.results ++ [⟨r, (List.range cuts.length).map (fun i => (tag0 + i) % 4096)⟩] }) s
  cuts.zipIdx.foldl (fun s c =>
    let x : RankExtra := ⟨c.2 + 1 == cuts.length, rqRset r.req.raw, BitVec.ofNat 6 (leAt r.req.raw 3 1)⟩
    let q := mkRequest s (siteOfStack n) 1 c.1.1 2 c.1.2 ((tag0 + c.2) % 4096) false ((bs.drop (c.1.1 - a)).take c.1.2)
    sendRequest ⟨q, if isCoreAddr a then some x else none, .nothing⟩ s) s

/-- Whether a list orders the numbers below `n`. -/
def isOrder (n : Nat) (l : List Nat) : Bool := l.length == n && (List.range n).all (fun i => l.contains i)

/-- LOOKUP_RESULT: the oldest request that runs is pooled, in the order in which its rows returned, and its record
leaves. -/
def execLookupResult (st : StackId) (order : List Nat) (time : Nat) (s : State) : Out :=
  match (engineOf s st.val).runs with
  | [] => .next s
  | r :: rest =>
    if !isOrder r.rows.length order || !scrubs s st.val then .next s
    else
      let s := modEngine st.val (fun e => { e with runs := rest }) (atTime time s)
      .next (sendResult st.val r (resultBytes r order) (countRequest st.val r s))

/-! ## Batches (R348 to R351) -/

/-- The lowest number below `n` that no entry has. -/
def lowestFree {α : Type} (n : Nat) (m : List (Nat × α)) : Option Nat :=
  (List.range n).find? (fun i => (mapGet? m i).isNone)

/-- The pins that a batch opened now takes: every table of the partition at its epoch. -/
def pinsNow (s : State) (part : Nat) : List (Nat × Nat) :=
  s.engines.flatMap (fun e => (e.2.tables.filter (fun t => t.2.part == part)).map (fun t => (64 * e.1 + t.1, t.2.epoch)))

/-- The partition whose batches or epochs a waiting command concerns, where it is an EMB_BATCH_OPEN or an EMB_COMMIT. -/
def orderedPart (s : State) (w : ProcWait) : Option Nat :=
  if cmdOp w.cmd = 0x0402 then some (leAt w.pay 0 1)
  else if cmdOp w.cmd = 0x0406 then some (payTable s w.pay).part
  else none

/-- EMB_BATCH_OPEN and EMB_COMMIT of one partition run in the order in which they were taken: one that is taken behind another
that waits, waits with it (R349). -/
def inOrder (part : Nat) (c : Cmd) (pay : List Byte) (eff : State → State) (s : State) : State :=
  match s.fw.waiting.find? (fun w => orderedPart s w == some part) with
  | some w => { s with fw := { s.fw with waiting := s.fw.waiting ++ [⟨w.proc, s.now, c, pay⟩] } }
  | none => eff s

/-- The supervisors that set pins in the engines of a partition: those of its powered stacks (log entry 156). -/
def pinProcs (s : State) (part : Nat) : List Nat :=
  (List.range 32).filterMap (fun n =>
    let i := siteOfStack n
    if ownerOf s i = part ∧ sitePowered s i ∧ !embAbsent s n then procOfSite i else none)

/-- A command that every engine of a partition takes part in waits while a supervisor of one restarts or its die is in reset,
and fails while one is held (R348, R460, R462). -/
def onEngines (part : Nat) (c : Cmd) (pay : List Byte) (eff : State → State) (s : State) : State :=
  needProcs (pinProcs s part) c pay eff s

/-- EMB_BATCH_OPEN (R348, R349). -/
def doEmbBatchOpen (c : Cmd) (pay : List Byte) (s : State) : State :=
  let part := leAt pay 0 1
  checked c
    [(decide (pay.length ≠ 8), stBadLength), (!zeroAt pay 1 7 || !partExists s part, stBadField),
     ((lowestFree 1024 (partOf s part).embBatches).isNone, stNoMemory)]
    (inOrder part c pay (onEngines part c pay (fun s =>
      match lowestFree 1024 (partOf s part).embBatches with
      | none => failCmd c stNoMemory s
      | some h => complete c stOk h (modPart part (fun p => { p with
          embBatches := mapPut p.embBatches h ⟨pinsNow s part, none⟩ }) s)))) s

/-- EMB_BATCH_OPEN. -/
def execEmbBatchOpen (c : Cmd) (s : State) : Out := runRow c 0x0402 doEmbBatchOpen s

/-- Whether a batch is open and no close waits for it. -/
def batchOpen (s : State) (part h : Nat) : Bool :=
  match mapGet? (partOf s part).embBatches h with
  | some b => b.closing.isNone
  | none => false

/-- EMB_BATCH_CLOSE: accepted, and complete once the batch's requests are (R351). -/
def doEmbBatchClose (c : Cmd) (pay : List Byte) (s : State) : State :=
  let part := leAt pay 0 1
  let h := leAt pay 2 2
  checked c
    [(decide (pay.length ≠ 8), stBadLength),
     (!zeroAt pay 1 1 || !zeroAt pay 4 4 || !partExists s part || !batchOpen s part h, stBadField)]
    (modPart part (fun p => { p with
      embBatches := p.embBatches.map (fun b => if b.1 = h then (h, { b.2 with closing := some c }) else b) })) s

/-- EMB_BATCH_CLOSE. -/
def execEmbBatchClose (c : Cmd) (s : State) : Out := runRow c 0x0403 doEmbBatchClose s

/-- Whether a request that reached its engine while the batch was open has not written its result. -/
def batchBusy (s : State) (part h : Nat) : Bool :=
  let named (r : EmbRequest) : Bool := r.live && rqBatch r.raw == h
  s.engines.any (fun e => ownerOf s (siteOfStack e.1) == part
    && (e.2.queue.any named || e.2.runs.any (fun r => named r.req) || e.2.results.any (fun r => named r.run.req)))

/-- EMB_BATCH_RELEASE. -/
def execEmbBatchRelease (part : Fin 8) (batch : Nat) (time : Nat) (s : State) : Out :=
  match mapGet? (partOf s part.val).embBatches batch with
  | none => .next s
  | some b =>
    match b.closing with
    | none => .next s
    | some c =>
      if batchBusy s part.val batch then .next s
      else .next (complete c stOk 0 (modPart part.val (fun p => { p with embBatches := mapDel p.embBatches batch })
        (atTime time s)))

/-! ## Rebuilds (R352 to R356) -/

/-- SHARE as a rebuild takes it. -/
def shareOf (v : Nat) : Nat := if v = 0 then 15 else v

/-- The source that a payload of Table 12-7 names. -/
def srcFromPay (x : EmbTable) (pay : List Byte) : RebuildSrc :=
  ⟨if leAt pay 3 1 = 0 then x.fmt else leAt pay 3 1, leAt pay 4 4, leAt pay 8 4, leAt pay 0xC 4, leAt pay 0x10 8,
    bitAt (leAt pay 0x18 1) 0⟩

/-- Whether a field of Table 12-7 is out of range. -/
def rebuildBad (x : EmbTable) (pay : List Byte) : Bool :=
  let r := srcFromPay x pay
  !x.rebuildable || decide (100 < leAt pay 2 1) || decide (embSize r.fmt = 0) || decide (x.rows < r.first + r.count)
    || (r.count != 0 && (r.stride % 64 != 0 || decide (r.stride < x.elems * embSize r.fmt) || r.addr % 64 != 0
        || (!r.host && fld r.addr 63 56 != 0)))

/-- EMB_REBUILD_START (R353). -/
def doEmbRebuildStart (c : Cmd) (pay : List Byte) (s : State) : State :=
  let n := leAt pay 0 1
  let t := leAt pay 1 1
  let x := payTable s pay
  checked c (tableForm s c 32 (decide (1 < leAt pay 0x18 1) || !zeroAt pay 0x19 7) pay
      ++ [(rebuildBad x pay, stBadField), (x.phase != .idle, stBusy),
          ((pinEpochs s n t).any (fun e => e % 2 != x.epoch % 2), stStaleEpoch)])
    (onStack n c pay (fun s => complete c stOk 0 (modTable n t (fun x => { x with
      phase := .running, share := shareOf (leAt pay 2 1), src := srcFromPay x pay, rowsDone := 0
      failRow := 0xFFFFFFFF, lastRow := s.now }) s))) s

/-- EMB_REBUILD_START. -/
def execEmbRebuildStart (c : Cmd) (s : State) : Out := runRow c 0x0404 doEmbRebuildStart s

/-- Whether an OP of EMB_REBUILD_CTRL is allowed in a state (Table 12-8). -/
def rebuildAllows (op : Nat) (p : RebuildPhase) : Bool :=
  match op with
  | 0 => p == .running
  | 1 => p == .paused
  | 2 => p == .running || p == .paused
  | _ => p != .idle

/-- A table after an OP. -/
def rebuildApply (op share now : Nat) (x : EmbTable) : EmbTable :=
  match op with
  | 0 => { x with phase := .paused }
  | 1 => { x with phase := .running, lastRow := now }
  | 2 => { x with share := shareOf share }
  | _ => { x with phase := .idle }

/-- EMB_REBUILD_CTRL (R355). -/
def doEmbRebuildCtrl (c : Cmd) (pay : List Byte) (s : State) : State :=
  let n := leAt pay 0 1
  let op := leAt pay 2 1
  let share := leAt pay 3 1
  checked c (tableForm s c 8 (decide (3 < op) || decide (100 < share) || (op != 2 && share != 0) || !zeroAt pay 4 4) pay
      ++ [(!rebuildAllows op (payTable s pay).phase, stBusy)])
    (onStack n c pay (fun s => complete c stOk 0 (modTable n (leAt pay 1 1) (rebuildApply op share s.now) s))) s

/-- EMB_REBUILD_CTRL with OP 0. -/
def execEmbRebuildPause (c : Cmd) (s : State) : Out := runRow c 0x0405 doEmbRebuildCtrl s
/-- EMB_REBUILD_CTRL with OP 1. -/
def execEmbRebuildResume (c : Cmd) (s : State) : Out := runRow c 0x0405 doEmbRebuildCtrl s
/-- EMB_REBUILD_CTRL with OP 2. -/
def execEmbRebuildShare (c : Cmd) (s : State) : Out := runRow c 0x0405 doEmbRebuildCtrl s
/-- EMB_REBUILD_CTRL with OP 3. -/
def execEmbRebuildAbort (c : Cmd) (s : State) : Out := runRow c 0x0405 doEmbRebuildCtrl s

/-- EMB_COMMIT (R356). -/
def doEmbCommit (c : Cmd) (pay : List Byte) (s : State) : State :=
  let x := payTable s pay
  let e := (x.epoch + 1) % 2 ^ 32
  checked c (tableForm s c 8 (!zeroAt pay 2 6) pay ++ [(!x.rebuildable, stBadField), (x.phase != .complete, stBusy)])
    (inOrder x.part c pay (onStack (leAt pay 0 1) c pay (fun s => complete c stOk e
      (modTable (leAt pay 0 1) (leAt pay 1 1) (fun x => { x with epoch := e, phase := .idle }) s)))) s

/-- EMB_COMMIT. -/
def execEmbCommit (c : Cmd) (s : State) : Out := runRow c 0x0406 doEmbCommit s

/-- A rebuild fails at a row (R354). -/
def rebuildFails (n t : Nat) (s : State) : State :=
  match tableOf s n t with
  | none => s
  | some x =>
    raise1 { evPlain 0x0401 n t x.rowsDone with part := x.part }
      (modTable n t (fun x => { x with phase := .failed, failRow := x.rowsDone }) s)

/-- The bytes of row `i` as a rebuild writes it, with the status of the read of its source. -/
def rebuildRow (n : Nat) (x : EmbTable) (i : Nat) (f : EccFinding) (s : State) : Nat × List Byte × State :=
  let len := x.elems * embSize x.fmt
  if x.src.first ≤ i ∧ i < x.src.first + x.src.count then
    let a := x.src.addr + (i - x.src.first) * x.src.stride
    let r := readNow (siteOfStack n) 1 false x.src.host (findingAt n f a) a (x.elems * embSize x.src.fmt) s
    let bs := match fmOfCode x.src.fmt, fmOfCode x.fmt with
      | some u, some v => (List.range x.elems).flatMap (fun j =>
          natLe (embSize x.fmt) (cvtVal v .rne (fmDecode u (leAt r.2.2.1 (embSize x.src.fmt * j) (embSize x.src.fmt)))).1)
      | _, _ => []
    (r.1, bs, r.2.2.2)
  else
    let r := readMem (.stack n) (copyBase x x.epoch + i * x.stride) len f s
    (if r.1 then 5 else 0, r.2.1, r.2.2)

/-- Requests without a batch that read the idle copy and have not finished (R353). -/
def idleReaders (x : EmbTable) (t : Nat) (e : EmbEngine) : Bool :=
  let reads (r : EmbRun) : Bool :=
    rqTable r.req.raw == t && rqBatch r.req.raw == 0xFFFF && r.status == 0 && r.epoch % 2 != x.epoch % 2
  e.runs.any reads || e.results.any (fun r => reads r.run)

/-- REBUILD_ROW_WRITE: the next row of the idle copy is written, once its source can be read, or the rebuild fails; with the
last row it is complete (R352, R354). -/
def execRebuildRowWrite (st : StackId) (tab : Fin 64) (f : EccFinding) (time : Nat) (s : State) : Out :=
  let n := st.val
  match tableOf s n tab.val with
  | none => .next s
  | some x =>
    if x.phase ≠ .running || !scrubs s n || (x.rowsDone == 0 && idleReaders x tab.val (engineOf s n)) then .next s
    else
      let r := rebuildRow n x x.rowsDone f (atTime time s)
      if r.1 = notYet then .next s
      else if r.1 ≠ 0 then .next (rebuildFails n tab.val r.2.2)
      else
        let w := writeMem (.stack n) (copyBase x (x.epoch + 1) + x.rowsDone * x.stride) r.2.1 f r.2.2
        let s := modTable n tab.val (fun x => { x with rowsDone := x.rowsDone + 1, lastRow := w.2.now }) w.2
        if x.rowsDone + 1 < x.rows then .next s
        else .next (raise1 { evPlain 0x0400 n tab.val ((x.epoch + 1) % 2 ^ 32) with part := x.part }
          (modTable n tab.val (fun x => { x with phase := .complete }) s))

/-- REBUILD_STARVED: a running rebuild has written no row for 1 s (R354). -/
def execRebuildStarved (st : StackId) (tab : Fin 64) (time : Nat) (s : State) : Out :=
  let t := atTime time s
  match tableOf s st.val tab.val with
  | none => .next s
  | some x =>
    if x.phase ≠ .running || decide (t.now < x.lastRow + 1000000000) then .next s
    else .next (raise1 { evPlain 0x0402 st.val tab.val x.rowsDone with part := x.part }
      (modTable st.val tab.val (fun x => { x with lastRow := t.now }) t))

end Sys2Proof.Machine
end

