-- ==== Sys2Proof/Machine/MgmtOps.lean ====
section
/-! DEFINITION. Alerts and the measurement log (R574, R581). -/

namespace Sys2Proof.Machine

/-! ## Alerts (R564, R574) -/

/-- An ALERT that carries an event record is sent, and will be sent twice more, 100 ms apart. -/
def sendAlert (e : EventRec) (s : State) : State :=
  let body := evBytes s.ev.seq s.ev.phase { e with tick := tickOf s }
  let bs := frameBytes s 5 0 0 body
  let s := sendFrame 5 0 0 body s
  { s with mgmt := { s.mgmt with alerts := s.mgmt.alerts ++ [⟨bs, 2, s.now + 100000000⟩] } }

/-- An event for which an ALERT is sent besides. -/
def raiseCritical (e : EventRec) (s : State) : State := raise1 e (sendAlert e s)

/-! ## Measurement (R581) -/

/-- A measured happening: its entry is folded into M, and kept while the log has room. -/
def measure (kind : Nat) (arg digest : List Byte) (s : State) : State :=
  let l := s.measure
  let e := natLe 4 l.count ++ natLe 1 kind ++ copies 3 0 ++ natLe 8 (tickOf s) ++ padTo 16 arg ++ padTo 64 digest
  let keep := decide (l.entries.length < 65536)
  let s := { s with measure := {
    entries := if keep then l.entries ++ [e] else l.entries
    count := l.count + 1
    m := shakeDigest (l.m ++ e) } }
  if l.count = 65536 then raise1 (evPlain 0x0B06 0 0 (l.count + 1)) s else s

/-- The bytes of the security fuses (Table 20-7): the least significant first. -/
def fuseBytesSec (x : SecFuses) : List Byte :=
  padTo 64 (x.roots.getD 0 []) ++ padTo 64 (x.roots.getD 1 []) ++ natLe 8 x.revoked
    ++ x.counters.flatMap (fun n => natLe 32 (2 ^ n - 1))

end Sys2Proof.Machine
end

