-- ==== Sys2Proof/Machine/Signature.lean ====
section
/-! DEFINITION. Signature blocks of firmware bundles and weight images (Table 20-9, R576). -/

namespace Sys2Proof.Machine

/-- The context of a bundle's signature: LZ-FWB. -/
def ctxBundle : List Byte := [0x4C, 0x5A, 0x2D, 0x46, 0x57, 0x42]
/-- The context of a weight image's signature: LZ-WIM. -/
def ctxImage : List Byte := [0x4C, 0x5A, 0x2D, 0x57, 0x49, 0x4D]

/-- Whether a block of 208 bytes meets Table 20-9. -/
def blockOk (b : List Byte) (weight : Bool) : Bool :=
  let kind := leAt b 6 1
  leAt b 0 4 == 0x47535A4C && leAt b 4 2 == 1 && (kind == 1 || (kind == 2 && weight))
    && decide (leAt b 7 1 < (if kind = 1 then 2 else 4)) && decide (leAt b 8 1 < (if weight then 1 else 2))
    && zeroBytes b 9 7 && zeroBytes b 0x49 7 && zeroBytes b 0xC2 14
where
  /-- Whether bytes are zero. -/
  zeroBytes (b : List Byte) (off n : Nat) : Bool := leAt b off n == 0

/-- Whether the key of a block may sign: an unrevoked vendor root, or for a weight image the weight key of its slot. -/
def signerOk (s : State) (b : List Byte) : Bool :=
  let n := leAt b 7 1
  let key := bytesAt b 0x10 57
  if leAt b 6 1 = 1 then
    shakeDigest key == s.boot.secFuses.roots.getD n [] && !bitAt s.boot.secFuses.revoked n
  else s.boot.keys.weights.getD n [] == key

/-- Whether the signature of a bundle or image verifies: its bytes, its length and SIG_OFF (R576). -/
def signatureOk (s : State) (weight : Bool) (bs : List Byte) (len sigOff : Nat) : Bool :=
  let b := bytesAt bs sigOff 208
  len == sigOff + 208 && blockOk b weight && signerOk s b
    && Config.ed448Verify (if weight then ctxImage else ctxBundle) (bytesAt b 0x10 57) (bytesAt bs 0 sigOff)
      (bytesAt b 0x50 114)

end Sys2Proof.Machine
end

