-- ==== Sys2Proof/Machine/WeightStore.lean ====
section
/-! DEFINITION. The weight store: sweeps, installation mode, weight images and their page writes, and weight sets (R358 to
R386). -/

namespace Sys2Proof.Machine

/-- Every weight-store die is absent. -/
def noStore (s : State) : Bool := (List.range 16).all (fun w => siteAbsent s (siteOfWstore w))

/-- Whether a weight-store die serves. -/
def storeServes (s : State) (w : Nat) : Bool :=
  let i := siteOfWstore w
  siteUsable s i && (pwrOf s i).mode == .on && !siteInReset s i

/-! ## Sweeps (R360) -/

/-- Whether a page is due to be swept: 7 days have passed since its last sweep. -/
def sweepDue (d : StoreDie) (page now : Nat) : Bool :=
  match mapGet? d.swept page with
  | some t => decide (t + 604800000000000 ≤ now)
  | none => true

/-- PAGE_SWEEP: a written page is read and its CRC checked, once every 7 days. -/
def execPageSweep (w : StoreDieId) (page : Nat) (time : Nat) (s : State) : Out :=
  let n := w.val
  let r := pageOf s n page
  let t := atTime time s
  if !storeServes s n || decide (262144 ≤ page) || r.pfmt == 0 || !sweepDue (storeOf s n) page t.now then .next s
  else
    let x := readMem (.array n) (65536 * page) r.used ⟨[], []⟩ (modStore n (fun d => { d with swept := mapPut d.swept page t.now }) t)
    let j := examine 15 (fun j => aimsAt (siteOfWstore n) j && j.addr == page) x.2.2
    let real := x.1 || crc32 x.2.1 != r.crc
    if !real && !j.1 then .next j.2
    else
      let i := siteOfWstore n
      let s := modStore n (fun d => { d with crcErrors := satInc 0xFFFFFFFF d.crcErrors }) j.2
      let s := logAdd { logBlank 2 with
        injected := !real, part := ownerOf s i, unit := 0, x := siteX i, y := siteY i, addr := page, status := 0x0500
        detail := page } s
      .next (raise1 (evPlain 0x0500 n 0 page) s)

/-! ## Installation mode (R369 to R371) -/

/-- A purlin's transfer is active. -/
def purlinBusy (p : Purlin) : Bool := p.run.isSome
/-- Some purlin transfer is active. -/
def purlinActive (s : State) : Bool := s.parts.any (fun p => p.purlins.any purlinBusy)
/-- Some purlin transfer into the weight store is active. -/
def storePurlinActive (s : State) : Bool := s.parts.any (fun p => p.purlins.any (fun u => purlinBusy u && u.target == 1))

/-- WSTORE_INSTALL_BEGIN (R369). -/
def doInstallBegin (c : Cmd) (_pay : List Byte) (s : State) : State :=
  let busy := s.bays.any (fun p =>
    [BayMode.running, .held, .pointChange, .draining, .done].contains p.2.mode) || purlinActive s
  checked c [(noStore s, stUnitAbsent), (!s.install && busy, stBusy)]
    (fun s => complete c stOk 0 { s with install := true }) s

/-- WSTORE_INSTALL_BEGIN. -/
def execWstoreInstallBegin (c : Cmd) (s : State) : Out := runRow c 0x0500 doInstallBegin s

/-- WSTORE_INSTALL_END (R371). -/
def doInstallEnd (c : Cmd) (_pay : List Byte) (s : State) : State :=
  checked c [(noStore s, stUnitAbsent), (!s.installs.isEmpty || storePurlinActive s, stBusy)]
    (fun s => complete c stOk 0 { s with install := false }) s

/-- WSTORE_INSTALL_END. -/
def execWstoreInstallEnd (c : Cmd) (s : State) : Out := runRow c 0x0501 doInstallEnd s

/-! ## Weight images (Tables 13-4, 13-5, R372) -/

/-- NPAGES of an image. -/
def imagePages (bs : List Byte) : Nat := leAt bs 0x10 4
/-- SIG_OFF of an image. -/
def imageSig (bs : List Byte) : Nat := leAt bs 0x18 4

/-- Whether the header of an image of a length meets Table 13-4. -/
def imageHeaderOk (bs : List Byte) (len : Nat) : Bool :=
  leAt bs 0 4 == 0x57495A4C && leAt bs 4 2 == 1 && zeroAt bs 6 2 && decide (1 ≤ imagePages bs) && decide (imagePages bs ≤ 4096)
    && leAt bs 0x14 4 == len && decide (64 + 96 * imagePages bs ≤ imageSig bs) && decide (imageSig bs < len)
    && zeroAt bs 0x1C 36

/-- The bytes of the directory entry `n`. -/
def imageEntryBytes (bs : List Byte) (n : Nat) : List Byte := bytesAt bs (64 + 96 * n) 96

/-- The directory entry `n`. -/
def imageEntry (bs : List Byte) (n : Nat) : ImageEntry :=
  let e := imageEntryBytes bs n
  ⟨n, leAt e 0 1, leAt e 1 1, leAt e 2 1, leAt e 4 4, leAt e 8 2, leAt e 0xC 4, leAt e 0x10 8, bytesAt e 0x20 64⟩

/-- The directory. -/
def imageDir (bs : List Byte) : List ImageEntry := (List.range (imagePages bs)).map (imageEntry bs)

/-- Whether a page's PFMT, ELEM_FMT and NBLK are allowed (Tables 13-1, 13-2). -/
def pageFormOk (pfmt elemFmt nblk : Nat) : Bool :=
  match pfmt with
  | 1 => elemFmt == 0 && nblk == 0
  | 2 => decide (1 ≤ nblk) && decide (nblk ≤ blockedMax elemFmt)
  | 3 => decide (1 ≤ nblk) && decide (nblk ≤ codedMax elemFmt)
  | _ => false

/-- Whether a directory entry meets Table 13-5. -/
def imageEntryOk (bs : List Byte) (n : Nat) : Bool :=
  let e := imageEntryBytes bs n
  let x := imageEntry bs n
  decide (x.ws < 16) && zeroAt e 3 1 && decide (x.page < 262144) && zeroAt e 0xA 2 && decide (1 ≤ x.used)
    && decide (x.used ≤ 65536) && decide (x.dataOff + x.used ≤ imageSig bs) && zeroAt e 0x18 8
    && pageFormOk x.pfmt x.elemFmt x.nblk

/-- Two entries of a directory name the same die and page. -/
def dirRepeats : List ImageEntry → Bool
  | [] => false
  | e :: es => es.any (fun x => x.ws == e.ws && x.page == e.page) || dirRepeats es

/-- Checks 3 to 5 of R372. -/
def imageChecks (s : State) (bs : List Byte) (len : Nat) : List (Bool × Nat) :=
  [(!imageHeaderOk bs len, stBadField),
   (!(List.range (imagePages bs)).all (imageEntryOk bs) || dirRepeats (imageDir bs), stBadField),
   ((imageDir bs).any (fun e => siteAbsent s (siteOfWstore e.ws)), stUnitAbsent),
   (!signatureOk s true bs len (imageSig bs), stDenied)]

/-- The run that writes an image's pages. -/
def imageRun (src : ImageSource) (bs : List Byte) : InstallRun :=
  let b := bytesAt bs (imageSig bs) 208
  ⟨src, leAt bs 8 8, imagePages bs, imageDir bs, [], [], (leAt b 6 1, leAt b 7 1),
    shakeDigest (bytesAt bs 0 (64 + 96 * imagePages bs))⟩

/-- WSTORE_WRITE (R372): the image is checked, and the dies begin. -/
def doWstoreWrite (c : Cmd) (pay : List Byte) (s : State) : State :=
  let a := leAt pay 0 8
  let len := leAt pay 8 4
  checked c [(decide (pay.length ≠ 16) || decide (len < 64), stBadLength), (noStore s, stUnitAbsent),
      (!zeroAt pay 0xC 4, stBadField), (!s.install, stDenied)]
    (fun s =>
      match hostAnswer s a len with
      | some slow => failCmd c (if slow then stTimeout else stFault) s
      | none =>
        let bs := hostRead s a len
        checked c (imageChecks s bs len)
          (fun s => { s with installs := s.installs ++ [imageRun (.host a c) bs] }) s) s

/-- WSTORE_WRITE. -/
def execWstoreWrite (c : Cmd) (s : State) : Out := runRow c 0x0502 doWstoreWrite s

/-! ## Page writes (R373 to R375) -/

/-- The bytes of an entry's page in the image, where its source gives them. -/
def entryBytesOf (s : State) (src : ImageSource) (e : ImageEntry) : Option (List Byte) :=
  match src with
  | .host a _ => if (hostAnswer s (a + e.dataOff) e.used).isSome then none else some (hostRead s (a + e.dataOff) e.used)
  | .purlin part num =>
    match ((partOf s part).purlins.getD num purlinZero).run with
    | some r => some (bytesAt r.image e.dataOff e.used)
    | none => none

/-- What R373 checks of a page before it is written. -/
def pageGood (e : ImageEntry) (bs : List Byte) : Bool :=
  shakeDigest bs == e.digest
    && (match e.pfmt with
      | 2 => e.used == e.nblk * blockBytes e.elemFmt
      | 3 => codedOk e.elemFmt e.nblk bs
      | _ => true)

/-- A page's data and record changed together (R374). -/
def putPage (w : Nat) (e : ImageEntry) (seq : Nat) (bs : List Byte) (s : State) : State :=
  let old := pageOf s w e.page
  let a := storeAddr w (65536 * e.page)
  let s := { s with
    freeCtr := s.freeCtr + 65536
    boot := { s.boot with storeMem := memWrite (memClear s.boot.storeMem a 65536) a bs } }
  modStore w (fun d => { d with
    pages := mapPut d.pages e.page ⟨e.pfmt, e.elemFmt, e.nblk, e.used, crc32 bs, satInc 0xFFFFFFFF old.writes, seq, s.freeCtr - 65536⟩
    bad := d.bad.filter (fun b => b / 1024 != e.page) }) s

/-- The endurance thresholds (R375). -/
def fullRewrites (n : Nat) : Nat := 262144 * n

/-- A page write counts, and the die tells when it passes an endurance threshold. -/
def countPageWrite (w : Nat) (s : State) : State :=
  let n := (storeOf s w).pageWrites + 1
  let s := modStore w (fun d => { d with pageWrites := n }) s
  if n = fullRewrites 2700 + 1 then raise1 (evPlain 0x0502 w 0 n) s
  else if n = fullRewrites 3000 + 1 then raise1 (evPlain 0x0502 w 1 n) s
  else s

/-- The page that stood before a write whose read-back failed stands again (R373). -/
def keepPage (w : Nat) (old s : State) : State :=
  let d := { storeOf s w with pages := (storeOf old w).pages, bad := (storeOf old w).bad }
  { s with boot := { s.boot with storeMem := old.boot.storeMem, store := mapSet storeZero s.boot.store w d } }

/-- One page of an image is checked, written and read back: whether it stands, and the state. -/
def writePage (w seq : Nat) (src : ImageSource) (e : ImageEntry) (s : State) : Bool × State :=
  match entryBytesOf s src e with
  | none => (false, s)
  | some bs =>
    if !storeServes s w || !pageGood e bs then (false, s)
    else
      let r := readMem (.array w) (65536 * e.page) e.used ⟨[], []⟩ (countPageWrite w (putPage w e seq bs s))
      if r.1 then
        (false, keepPage w s r.2.2)
      else (true, r.2.2)

/-- A run after a page of a die: the entry is done; a die whose page failed writes no further one. -/
def runAfterPage (w : Nat) (e : ImageEntry) (ok : Bool) (x : InstallRun) : InstallRun :=
  if ok then { x with todo := x.todo.erase e }
  else { x with
    todo := x.todo.filter (fun y => y.ws != w), failed := x.failed ++ [e.index], stopped := x.stopped ++ [w] }

/-- The smallest of some numbers. -/
def leastOf (l : List Nat) : Nat := l.foldl min (l.headD 0)

/-- An image that has ended with a status is measured (R581). -/
def measureImage (x : InstallRun) (status : Nat) (s : State) : State :=
  measure 7 (natLe 8 x.seq ++ natLe 4 x.npages ++ natLe 2 status ++ natLe 1 x.signer.1 ++ natLe 1 x.signer.2) x.digest s

/-- The end of an image on every die: the command completes, or the purlin's transfer is left to end (R373). -/
def endInstall (x : InstallRun) (s : State) : State :=
  let s := { s with installs := s.installs.erase x }
  let s := measureImage x (if x.failed.isEmpty then stOk else stFault) s
  match x.src with
  | .host _ c =>
    if x.failed.isEmpty then complete c stOk x.npages s else complete c stFault (leastOf x.failed) s
  | .purlin _ _ => s

/-- The images that the panel controller reads from host memory are written no further: it restarts or is held, their commands
end with its others, and every page stands (R373). -/
def dropHostImages (status : Nat) (s : State) : State :=
  let host (x : InstallRun) : Bool := match x.src with | .host .. => true | .purlin .. => false
  (s.installs.filter host).foldl (fun s x => measureImage x status s)
    { s with installs := s.installs.filter (fun x => !host x) }

/-- The open-image marker is set before a die's first page of an image and cleared after its last (R374). -/
def clearMarker (w : Nat) (s : State) : State := modStore w (fun d => { d with marker := none, incomplete := false }) s

/-- What a page write leaves of its run: the run, where it goes on, and the state. -/
def installPage (w : Nat) (x : InstallRun) (e : ImageEntry) (s : State) : Option InstallRun × State :=
  let s := modStore w (fun d => { d with marker := some x.seq }) s
  let r := writePage w x.seq x.src e s
  let y := runAfterPage w e r.1 x
  let s := if r.1 && !y.todo.any (fun z => z.ws == w) then clearMarker w r.2 else r.2
  let s := { s with installs := s.installs.map (fun z => if z == x then y else z) }
  if y.todo.isEmpty then (some y, s) else (none, s)

/-! ## Weight-store status (R376) -/

/-- The 32 bytes of a page record (Table 13-1). -/
def pageBytes (r : PageRec) : List Byte :=
  natLe 1 r.pfmt ++ natLe 1 r.elemFmt ++ natLe 2 r.nblk ++ natLe 4 r.used ++ natLe 4 r.crc ++ natLe 4 r.writes
    ++ natLe 8 r.imageSeq ++ copies 8 0

/-- The 64 bytes of a die record (Table 13-6). -/
def storeBytes (s : State) (w : Nat) : List Byte :=
  let d := storeOf s w
  natLe 1 w ++ natLe 1 (b2n d.incomplete + 2 * b2n (decide (fullRewrites 2700 < d.pageWrites))
      + 4 * b2n (decide (fullRewrites 3000 < d.pageWrites)) + 8 * b2n s.install) ++ copies 6 0
    ++ natLe 8 (d.marker.getD 0) ++ natLe 8 d.pageWrites ++ natLe 4 (d.pages.filter (fun p => p.2.pfmt != 0)).length
    ++ natLe 4 d.crcErrors ++ natLe 8 d.corrected ++ natLe 8 d.uncorrectable ++ copies 16 0

/-- WSTORE_STATUS. -/
def doWstoreStatus (c : Cmd) (pay : List Byte) (s : State) : State :=
  let w := leAt pay 0 1
  let first := leAt pay 4 4
  let n := leAt pay 8 4
  checked c
    [(decide (pay.length ≠ 24) || decide (leAt pay 0xC 4 < 64 + 32 * n), stBadLength),
     (decide (15 < w) || decide (4096 < n) || decide (262144 < first + n) || !zeroAt pay 1 3, stBadField),
     (siteAbsent s (siteOfWstore w), stUnitAbsent)]
    (fun s => completeWithBuf c (leAt pay 0x10 8)
      (storeBytes s w ++ (List.range n).flatMap (fun i => pageBytes (pageOf s w (first + i)))) 0 s) s

/-- WSTORE_STATUS. -/
def execWstoreStatus (c : Cmd) (s : State) : Out := runRow c 0x0503 doWstoreStatus s

/-! ## Weight sets (R377 to R386) -/

/-- A model slot of a partition. -/
def slotOf (p : Partition) (n : Nat) : ModelSlot := mapGetD p.slots n slotZero
/-- A model slot changed. -/
def modSlot (part n : Nat) (f : ModelSlot → ModelSlot) (s : State) : State :=
  modPart part (fun p => { p with slots := mapSet slotZero p.slots n (f (slotOf p n)) }) s

/-- The pin count of a generation. -/
def pinCount (p : Partition) (slot gen : Nat) : Nat :=
  (p.wsetBatches.filter (fun b => b.2.getD slot 0 == gen && gen != 0)).length

/-- The generation of a slot in a state. -/
def genIn (m : ModelSlot) (ph : GenPhase) : Option Generation := m.gens.find? (fun g => g.phase == ph)
/-- The number of the generation in a state, 0 for none. -/
def genNum (m : ModelSlot) (ph : GenPhase) : Nat := match genIn m ph with | some g => g.num | none => 0

/-- A generation is held (R378). -/
def genHeld (p : Partition) (slot : Nat) (g : Generation) : Bool :=
  g.phase == .current || (g.phase == .retired && decide (0 < pinCount p slot g.num))

/-- Generations of a slot that are neither held nor staged are released (R379). -/
def settleSlot (part slot : Nat) (s : State) : State :=
  let p := partOf s part
  let gone := (slotOf p slot).gens.filter (fun g => g.phase != .staged && !genHeld p slot g)
  let s := modSlot part slot (fun m => { m with gens := m.gens.filter (fun g => !gone.contains g) }) s
  gone.foldl (fun s g => raise1 { evPlain 0x0503 slot 0 g.num with part := part } s) s

/-- Every slot is settled. -/
def settleSlots (part : Nat) (s : State) : State := (List.range 64).foldl (fun s n => settleSlot part n s) s

/-- Two regions of stack memory overlap. -/
def regionsMeet (a b : Region) : Bool :=
  a.kind == 1 && b.kind == 1 && a.unit == b.unit && spansMeet (a.start, a.length) (b.start, b.length)

/-- The regions of the held generations of a partition. -/
def heldRegions (p : Partition) : List Region :=
  p.slots.flatMap (fun m => (m.2.gens.filter (genHeld p m.1)).flatMap (fun g => g.regions))

/-- A region from its 32 bytes. -/
def regionOf (b : List Byte) : Region := ⟨leAt b 0 1, leAt b 1 1, leAt b 8 8, leAt b 0x10 8, leAt b 0x18 8⟩
/-- The 32 bytes of a region. -/
def regionBytes (r : Region) : List Byte :=
  natLe 1 r.kind ++ natLe 1 r.unit ++ copies 6 0 ++ natLe 8 r.start ++ natLe 8 r.length ++ natLe 8 r.label

/-- Whether a region meets Table 13-7 and lies in its unit, as far as the unit is present. -/
def regionOk (s : State) (b : List Byte) : Bool :=
  let r := regionOf b
  let form := zeroAt b 2 6 && decide (0 < r.length)
  if r.kind = 1 then
    form && decide (r.unit < 32) && r.start % 2048 == 0 && r.length % 2048 == 0
      && (siteAbsent s (siteOfStack r.unit) || decide (r.start + r.length ≤ memSize s (.stack r.unit)))
  else if r.kind = 2 then
    form && decide (r.unit < 16) && decide (r.start + r.length ≤ 262144)
      && (siteAbsent s (siteOfWstore r.unit) || (List.range r.length).all (fun i => pageBlocks (pageOf s r.unit (r.start + i))))
  else false

/-- Two regions of a list overlap. -/
def listOverlaps : List Region → Bool
  | [] => false
  | r :: rs => rs.any (regionsMeet r) || listOverlaps rs

/-- The regions of a partition's generations in number. -/
def regionTotal (p : Partition) : Nat := (partRegions p).length

/-- The number after a generation's (R378). -/
def nextGen (n : Nat) : Nat := if 0xFFFFFFFF ≤ n then 1 else n + 1

/-- WSET_STAGE (R380). -/
def doWsetStage (c : Cmd) (pay : List Byte) (s : State) : State :=
  let part := leAt pay 0 1
  let slot := leAt pay 1 1
  let n := leAt pay 2 2
  let a := leAt pay 8 8
  checked c [(decide (pay.length ≠ 24) || decide (leAt pay 0x10 4 < 32 * n), stBadLength),
      (!partExists s part || decide (63 < slot) || decide (n = 0) || decide (256 < n) || !zeroAt pay 4 4 || !zeroAt pay 0x14 4, stBadField)]
    (fun s =>
      match hostAnswer s a (32 * n) with
      | some slow => failCmd c (if slow then stTimeout else stFault) s
      | none =>
        let raw := (List.range n).map (fun i => hostRead s (a + 32 * i) 32)
        let rs := raw.map regionOf
        let m := slotOf (partOf s part) slot
        checked c [(!raw.all (regionOk s) || listOverlaps rs, stBadField),
            (rs.any (fun r => siteAbsent s (regionSite r)), stUnitAbsent),
            (rs.any (fun r => ownerOf s (regionSite r) != part), stDenied),
            ((genIn m .staged).isSome, stBusy), (decide (4096 < regionTotal (partOf s part) + n), stNoMemory)]
          (fun s => complete c stOk m.next
            (modSlot part slot (fun m => { gens := m.gens ++ [⟨m.next, .staged, rs⟩], next := nextGen m.next }) s)) s) s

/-- WSET_STAGE. -/
def execWsetStage (c : Cmd) (s : State) : Out := runRow c 0x0504 doWsetStage s

/-- The phase of a generation changed. -/
def setPhase (num : Nat) (ph : GenPhase) (m : ModelSlot) : ModelSlot :=
  { m with gens := m.gens.map (fun g => if g.num = num then { g with phase := ph } else g) }

/-- The CURRENT generation of a slot leaves that state, to RETIRED or released (Table 13-8). -/
def retireCurrent (m : ModelSlot) : ModelSlot :=
  { m with gens := m.gens.map (fun g => if g.phase = .current then { g with phase := .retired } else g) }

/-- The form of a payload that names a slot. -/
def slotForm (s : State) (len : Nat) (extra : Bool) (pay : List Byte) : List (Bool × Nat) :=
  [(decide (pay.length ≠ len), stBadLength),
   (!partExists s (leAt pay 0 1) || decide (63 < leAt pay 1 1) || extra, stBadField)]

/-- WSET_SWITCH (R381). -/
def doWsetSwitch (c : Cmd) (pay : List Byte) (s : State) : State :=
  let part := leAt pay 0 1
  let slot := leAt pay 1 1
  let g := leAt pay 4 4
  let m := slotOf (partOf s part) slot
  let rs := match genIn m .staged with | some x => x.regions | none => []
  checked c (slotForm s 8 (!zeroAt pay 2 2) pay
      ++ [((genIn m .staged).isNone || genNum m .staged != g, stBadField),
          (rs.any (fun r => (heldRegions (partOf s part)).any (regionsMeet r)), stNoMemory)])
    (fun s => complete c stOk (genNum m .current)
      (settleSlot part slot (modSlot part slot (fun m => setPhase g .current (retireCurrent m)) s))) s

/-- WSET_SWITCH. -/
def execWsetSwitch (c : Cmd) (s : State) : Out := runRow c 0x0505 doWsetSwitch s

/-- A purlin transfer targets a generation. -/
def purlinTargets (p : Partition) (slot gen : Nat) : Bool :=
  p.purlins.any (fun u => purlinBusy u && u.target == 0 && u.slot == slot && u.gen == gen)

/-- A staged generation released. -/
def dropStaged (part slot : Nat) (s : State) : State :=
  let n := genNum (slotOf (partOf s part) slot) .staged
  raise1 { evPlain 0x0503 slot 0 n with part := part }
    (modSlot part slot (fun m => { m with gens := m.gens.filter (fun g => g.phase != .staged) }) s)

/-- WSET_DISCARD of either form (R382). -/
def doWsetDiscard (c : Cmd) (pay : List Byte) (s : State) : State :=
  let part := leAt pay 0 1
  let slot := leAt pay 1 1
  let cur := bitAt (leAt pay 2 1) 0
  let m := slotOf (partOf s part) slot
  checked c (slotForm s 8 (decide (1 < leAt pay 2 1) || !zeroAt pay 3 5) pay
      ++ [((genIn m (if cur then .current else .staged)).isNone, stBadField),
          (!cur && purlinTargets (partOf s part) slot (genNum m .staged), stBusy)])
    (fun s => complete c stOk 0
      (if cur then settleSlot part slot (modSlot part slot retireCurrent s) else dropStaged part slot s)) s

/-- WSET_DISCARD. -/
def execWsetDiscard (c : Cmd) (s : State) : Out := runRow c 0x0506 doWsetDiscard s
/-- WSET_DISCARD with FLAGS bit 0. -/
def execWsetDiscardCurrent (c : Cmd) (s : State) : Out := runRow c 0x0506 doWsetDiscard s

/-- WSET_BATCH_OPEN (R383). -/
def doWsetBatchOpen (c : Cmd) (pay : List Byte) (s : State) : State :=
  let part := leAt pay 0 1
  let p := partOf s part
  checked c [(decide (pay.length ≠ 16), stBadLength), (!partExists s part || !zeroAt pay 1 7, stBadField),
      ((lowestFree 1024 p.wsetBatches).isNone, stNoMemory)]
    (fun s =>
      let h := (lowestFree 1024 p.wsetBatches).getD 0
      let pins := (List.range 64).map (fun n => genNum (slotOf p n) .current)
      completeWithBuf c (leAt pay 8 8) (pins.flatMap (natLe 4)) h
        (modPart part (fun p => { p with wsetBatches := mapPut p.wsetBatches h pins }) s)) s

/-- WSET_BATCH_OPEN. -/
def execWsetBatchOpen (c : Cmd) (s : State) : Out := runRow c 0x0507 doWsetBatchOpen s

/-- WSET_BATCH_CLOSE (R383). -/
def doWsetBatchClose (c : Cmd) (pay : List Byte) (s : State) : State :=
  let part := leAt pay 0 1
  let h := leAt pay 2 2
  checked c [(decide (pay.length ≠ 8), stBadLength),
      (!partExists s part || !zeroAt pay 1 1 || !zeroAt pay 4 4 || (mapGet? (partOf s part).wsetBatches h).isNone, stBadField)]
    (fun s => complete c stOk 0
      (settleSlots part (modPart part (fun p => { p with wsetBatches := mapDel p.wsetBatches h }) s))) s

/-- WSET_BATCH_CLOSE. -/
def execWsetBatchClose (c : Cmd) (s : State) : Out := runRow c 0x0508 doWsetBatchClose s

/-- The code of a generation's state in WSET_GET. -/
def phaseCode : GenPhase → Nat
  | .staged => 1 | .current => 2 | .retired => 3

/-- The generation that WSET_GET names. -/
def getGen (m : ModelSlot) (gen : Nat) : Option Generation :=
  if gen = 0 then genIn m .current else m.gens.find? (fun g => g.num == gen)

/-- WSET_GET (R385). -/
def doWsetGet (c : Cmd) (pay : List Byte) (s : State) : State :=
  let part := leAt pay 0 1
  let slot := leAt pay 1 1
  let p := partOf s part
  let g := (getGen (slotOf p slot) (leAt pay 4 4)).getD ⟨0, .staged, []⟩
  checked c (slotForm s 24 (!zeroAt pay 2 2 || !zeroAt pay 0xC 4) pay
      ++ [((getGen (slotOf p slot) (leAt pay 4 4)).isNone, stBadField),
          (decide (leAt pay 8 4 < 32 + 32 * g.regions.length), stBadLength)])
    (fun s => completeWithBuf c (leAt pay 0x10 8)
      (natLe 4 g.num ++ natLe 1 (phaseCode g.phase) ++ copies 1 0 ++ natLe 2 (pinCount p slot g.num)
        ++ natLe 2 g.regions.length ++ copies 22 0 ++ g.regions.flatMap regionBytes) 0 s) s

/-- WSET_GET. -/
def execWsetGet (c : Cmd) (s : State) : Out := runRow c 0x0509 doWsetGet s

end Sys2Proof.Machine
end

