-- ==== Sys2Proof/Machine/Purlins.lean ====
section
/-! DEFINITION. Purlins: their configuration, the head's send, a receiver's segments, and the page writes that end a
transfer into the weight store (R373, R387 to R390, R415). -/

namespace Sys2Proof.Machine

/-- A purlin of a partition. -/
def purlinOf (s : State) (part n : Nat) : Purlin := (partOf s part).purlins.getD n purlinZero
/-- A purlin changed. -/
def modPurlin (part n : Nat) (f : Purlin → Purlin) (s : State) : State :=
  modPart part (fun p => { p with purlins := modAt p.purlins n f }) s

/-! ## Segments on the links (Table 13-10, R415) -/

/-- The bytes of a segment. -/
def segmentBytes (g : Segment) : List Byte :=
  natLe 1 g.purlin.toNat ++ natLe 1 g.kind.toNat ++ natLe 2 g.transfer.toNat ++ natLe 2 g.len ++ natLe 2 g.region.toNat
    ++ natLe 4 g.seq.toNat ++ natLe 8 g.offset.toNat ++ copies 12 0 ++ g.payload

/-- The segment that bytes hold. -/
def segmentOf (bs : List Byte) : Segment where
  purlin := BitVec.ofNat 8 (leAt bs 0 1)
  kind := BitVec.ofNat 8 (leAt bs 1 1)
  transfer := BitVec.ofNat 16 (leAt bs 2 2)
  len := leAt bs 4 2
  region := BitVec.ofNat 16 (leAt bs 6 2)
  seq := BitVec.ofNat 32 (leAt bs 8 4)
  offset := BitVec.ofNat 64 (leAt bs 0xC 8)
  payload := bs.drop 32

/-- The link on which a purlin's segments leave. -/
def purlinEgress (s : State) (part : Nat) (u : Purlin) : Nat := fld (rankWritten (partOf s part) u.nextRank) 39 32

/-- Whether the link to the next panel can take segments: it is not down, and the partition may send. -/
def purlinLinkOk (s : State) (part : Nat) (u : Purlin) : Bool :=
  rankValid (rankWritten (partOf s part) u.nextRank) && (partOf s part).job != 0
    && (linkOf s (purlinEgress s part u)).phase != .down

/-- A segment is sent to the next panel. -/
def sendSegment (part : Nat) (u : Purlin) (g : Segment) (s : State) : State :=
  let e := rankWritten (partOf s part) u.nextRank
  sendOnLink (purlinEgress s part u)
    { linkPacketZero with
      destPanel := BitVec.ofNat 16 (fld e 15 0), srcPanel := BitVec.ofNat 16 s.links.panelId
      job := BitVec.ofNat 16 (partOf s part).job, kind := 3, payload := segmentBytes g } s

/-- Whether a purlin sends on. -/
def purlinSends (u : Purlin) : Bool := u.role == 1 || u.role == 2

/-! ## The end of a transfer (R390) -/

/-- A purlin that is idle again; it keeps the count of segments that were not its own. -/
def purlinIdle (u : Purlin) : Purlin := { purlinZero with strays := u.strays }

/-- Images that a purlin fills are written no further. -/
def dropInstall (part n : Nat) (s : State) : State :=
  let gone := s.installs.filter (fun x => x.src == .purlin part n)
  gone.foldl (fun s x => measureImage x stFault s) { s with installs := s.installs.filter (fun x => x.src != .purlin part n) }

/-- The head's command completes. -/
def endPurlinCmd (u : Purlin) (status : Nat) (s : State) : State :=
  match u.run with
  | some r => (match r.cmd with | some c => complete c status 0 s | none => s)
  | none => s

/-- A transfer stops at a segment: PURLIN_FAILED, one abort segment to the next panel, and the purlin is idle. -/
def purlinStop (part n seq : Nat) (s : State) : State :=
  let u := purlinOf s part n
  let abort : Segment := ⟨BitVec.ofNat 8 n, 2, BitVec.ofNat 16 u.transfer, 0, 0, BitVec.ofNat 32 seq, 0, []⟩
  let s := raise1 { evPlain 0x0505 n u.transfer seq with part := part } s
  let s := if purlinSends u && purlinLinkOk s part u then sendSegment part u abort s else s
  endPurlinCmd u stFault (dropInstall part n (modPurlin part n purlinIdle s))

/-- A transfer is complete: PURLIN_COMPLETE with its bytes, and the purlin is idle. -/
def purlinDone (part n : Nat) (s : State) : State :=
  let u := purlinOf s part n
  let bytes := match u.run with | some r => r.bytes | none => 0
  endPurlinCmd u stOk (modPurlin part n purlinIdle (raise1 { evPlain 0x0504 n u.transfer bytes with part := part } s))

/-- Every transfer whose next link is down stops. -/
def purlinsOnLink (l : Nat) (s : State) : State :=
  (List.range 8).foldl (fun s part => (List.range 8).foldl (fun s n =>
    let u := purlinOf s part n
    match u.run with
    | some r => if purlinSends u && purlinEgress s part u == l then purlinStop part n r.seq s else s
    | none => s) s) s

/-! ## Writing a segment (R389) -/

/-- The region that a segment names, where it meets R389. -/
def segmentRegion (s : State) (part : Nat) (u : Purlin) (region off len : Nat) : Option Region :=
  let p := partOf s part
  match (slotOf p u.slot).gens.find? (fun g => g.num == u.gen) with
  | none => none
  | some g =>
    match g.regions[region]? with
    | none => none
    | some r =>
      if r.kind = 1 && decide (off + len ≤ r.length) && !(heldRegions p).any (regionsMeet r) then some r else none

/-- A segment written locally: whether it passes its checks and its writes, and the state; none while the write has to wait
(R390). With the last byte of an image the image is checked, as WSTORE_WRITE checks one, and the dies begin. -/
def writeSegment (part n : Nat) (g : Segment) (s : State) : Option (Bool × State) :=
  let u := purlinOf s part n
  let keep (s : State) : State := modPurlin part n (fun u => { u with run := u.run.map (fun r =>
    { r with seq := r.seq + 1, bytes := r.bytes + g.len }) }) s
  if u.target = 0 then
    match segmentRegion s part u g.region.toNat g.offset.toNat g.len with
    | none => some (false, s)
    | some r =>
      let w := writeNow (kingSite s) 0 true (stackAddr r.unit (r.start + g.offset.toNat)) g.payload s
      if w.1 = notYet then none else some (w.1 == 0, keep w.2)
  else
    match u.run with
    | none => some (false, s)
    | some r =>
      let image := r.image ++ g.payload
      if g.region ≠ 0 || g.offset.toNat ≠ r.image.length then some (false, s)
      else
        let s := modPurlin part n (fun u => { u with run := u.run.map (fun r => { r with image := image }) }) (keep s)
        if g.kind = 0 then some (true, s)
        else if firstFail ((!s.install, stDenied) :: imageChecks s image image.length) ≠ stOk then some (false, s)
        else some (true, { s with installs := s.installs ++ [imageRun (.purlin part n) image] })

/-- A segment that a receiver has written and that is the last ends the transfer into stacks; an image goes on with its pages.
-/
def afterSegment (part n : Nat) (g : Segment) (s : State) : State :=
  if g.kind = 1 && (purlinOf s part n).target == 0 then purlinDone part n s else s

/-! ## Receiving (R389, R390) -/

/-- A form of segment that Table 13-10 has. -/
def segmentOk (g : Segment) : Bool :=
  g.payload.length == g.len
    && (if g.kind = 2 then g.len == 0 else decide (g.kind.toNat < 2) && decide (1 ≤ g.len) && decide (g.len ≤ 2048))

/-- Whether the link to the next panel has taken all that it was given: there is room for one segment more (R390, R415). -/
def purlinRoom (s : State) (part : Nat) (u : Purlin) : Bool := (linkOf s (purlinEgress s part u)).egress.isEmpty

/-- A segment reaches a partition: it is taken, forwarded and written, or it stops the transfer, or it is none of a
purlin's and is discarded and counted. It is not taken while there is no room for it. -/
def takeSegment (part : Nat) (g : Segment) (s : State) : Option State :=
  let n := g.purlin.toNat
  let u := purlinOf s part n
  if 8 ≤ n then some (modPart part (fun p => { p with strays := p.strays + 1 }) s)
  else if (u.role ≠ 2 ∧ u.role ≠ 3) || u.transfer != g.transfer.toNat then
    some (modPurlin part n (fun u => { u with strays := u.strays + 1 }) s)
  else
    let s := if u.run.isSome then s else modPurlin part n (fun u => { u with run := some ⟨0, 0, none, none, []⟩ }) s
    let seq := match (purlinOf s part n).run with | some r => r.seq | none => 0
    let ranged := u.target != 0 || (segmentRegion s part u g.region.toNat g.offset.toNat g.len).isSome
    if g.kind = 2 || g.seq.toNat ≠ seq || !segmentOk g || !ranged || (u.role == 2 && !purlinLinkOk s part u) then
      some (purlinStop part n g.seq.toNat s)
    else if u.role == 2 && !purlinRoom s part u then none
    else
      (writeSegment part n g (if u.role = 2 then sendSegment part u g s else s)).map (fun w =>
        if w.1 then afterSegment part n g w.2 else purlinStop part n g.seq.toNat w.2)

/-- SEGMENT_RECEIVE. -/
def execSegmentReceive (part : Fin 8) (seg : Segment) (time : Nat) (s : State) : Out :=
  .next ((takeSegment part.val seg (atTime time s)).getD s)

/-! ## Configuration (R387) -/

/-- PURLIN_SET. -/
def doPurlinSet (c : Cmd) (pay : List Byte) (s : State) : State :=
  let part := leAt pay 0 1
  let n := leAt pay 1 1
  let role := leAt pay 2 1
  let target := leAt pay 3 1
  let slot := leAt pay 4 1
  let rank := leAt pay 8 4
  let gen := leAt pay 0x10 4
  let sends := role == 1 || role == 2
  checked c
    [(decide (pay.length ≠ 24), stBadLength),
     (!partExists s part || decide (7 < n) || decide (3 < role) || decide (1 < target) || decide (63 < slot)
        || (target == 1 && (slot != 0 || gen != 0)) || !zeroAt pay 5 1 || !zeroAt pay 0xC 4 || !zeroAt pay 0x14 4
        || (role == 3 && rank != 0), stBadField),
     (target == 0 && (gen == 0 || genNum (slotOf (partOf s part) slot) .staged != gen), stBadField),
     (sends && !rankValid (rankWritten (partOf s part) rank), stBadField),
     (role != 0 && purlinBusy (purlinOf s part n), stBusy),
     (target == 1 && !s.install, stDenied)]
    (fun s =>
      let u := purlinOf s part n
      let s := endPurlinCmd u stFault (dropInstall part n s)
      complete c stOk 0 (modPurlin part n (fun u =>
        if role = 0 then purlinIdle u
        else ⟨role, target, slot, leAt pay 6 2, rank, gen, none, u.strays⟩) s)) s

/-- PURLIN_SET. -/
def execPurlinSet (c : Cmd) (s : State) : Out := runRow c 0x050A doPurlinSet s

/-! ## Sending (R388) -/

/-- The head's read of its source, in the name of its partition. -/
def readSource (part : Nat) (host : Bool) (a n : Nat) (s : State) : Nat × Nat × List Byte × State :=
  readVia (fun s b k =>
    let f := flightTo s (kingSite s) 0 b 1 k 0 false host []
    { f with q := { f.q with fw := false, part := BitVec.ofNat 3 part } }) ⟨[], []⟩ a n s

/-- The segment `i` of a send, with the bytes read for it. -/
def headSegment (n transfer i : Nat) (x : PurlinSrc) (bs : List Byte) : Segment :=
  let k := min 2048 (x.len - 2048 * i)
  ⟨BitVec.ofNat 8 n, if x.len ≤ 2048 * i + k then 1 else 0, BitVec.ofNat 16 transfer, k, BitVec.ofNat 16 x.region,
    BitVec.ofNat 32 i, BitVec.ofNat 64 (x.dst + 2048 * i), bs⟩

/-- One more segment of a head's send: it is read, written locally and sent, or the transfer stops; none where it has to wait
for its source, its memory, or room on the link (R388 to R390, R415). -/
def headStep (part n : Nat) (u : Purlin) (r : PurlinRun) (x : PurlinSrc) (s : State) : Option State :=
  let rd := readSource part x.host (x.src + 2048 * r.seq) (min 2048 (x.len - 2048 * r.seq)) s
  let g := headSegment n u.transfer r.seq x rd.2.2.1
  if !purlinRoom s part u || rd.1 == notYet then none
  else if rd.1 ≠ 0 || !purlinLinkOk rd.2.2.2 part u then some (purlinStop part n r.seq rd.2.2.2)
  else
    (writeSegment part n g rd.2.2.2).map (fun w =>
      if w.1 then sendSegment part u g w.2 else purlinStop part n r.seq w.2)

/-- The head sends its segments in turn as long as none has to wait. Into stacks the transfer is complete once the link has
taken the last one. -/
def pumpSegments (part n : Nat) : Nat → State → State
  | 0, s => s
  | fuel + 1, s =>
    let u := purlinOf s part n
    match u.run with
    | none => s
    | some r =>
      match r.src with
      | none => s
      | some x =>
        if x.len ≤ 2048 * r.seq then
          (if u.target == 0 && purlinRoom s part u then purlinDone part n s else s)
        else
          match headStep part n u r x s with
          | none => s
          | some t => pumpSegments part n fuel t

/-- A head's send goes on. -/
def pumpPurlin (part n : Nat) (s : State) : State :=
  match (purlinOf s part n).run with
  | some r => (match r.src with | some x => pumpSegments part n (x.len / 2048 + 2) s | none => s)
  | none => s

/-- PURLIN_SEND. The head's segments leave as its link takes them (R415). -/
def doPurlinSend (c : Cmd) (pay : List Byte) (s : State) : State :=
  let part := leAt pay 0 1
  let n := leAt pay 1 1
  let region := leAt pay 4 2
  let len := leAt pay 8 8
  let dst := leAt pay 0x18 8
  let u := purlinOf s part n
  checked c
    [(decide (pay.length ≠ 32), stBadLength),
     (!partExists s part || decide (7 < n) || decide (1 < leAt pay 2 1) || !zeroAt pay 3 1 || !zeroAt pay 6 2, stBadField),
     (u.role != 1, stDenied),
     (decide (len = 0) || (if u.target = 0 then (segmentRegion s part u region dst len).isNone
        else region != 0 || dst != 0), stBadField),
     (purlinBusy u, stBusy)]
    (fun s => pumpPurlin part n (modPurlin part n (fun u => { u with
      run := some ⟨0, 0, some c, some ⟨bitAt (leAt pay 2 1) 0, region, len, leAt pay 0x10 8, dst⟩, []⟩ }) s)) s

/-- PURLIN_SEND. -/
def execPurlinSend (c : Cmd) (s : State) : Out := runRow c 0x050B doPurlinSend s

/-! ## Page writes (R374) -/

/-- The end of an image's pages: its command completes, or the purlin's transfer ends. -/
def finishInstall (x : InstallRun) (s : State) : State :=
  match x.src with
  | .host _ _ => endInstall x s
  | .purlin part n =>
    let s := endInstall x s
    let seq := match (purlinOf s part n).run with | some r => r.seq - 1 | none => 0
    if x.failed.isEmpty then purlinDone part n s else purlinStop part n seq s

/-- PAGE_WRITE: a die writes the next page of the oldest image that has one for it. -/
def execPageWrite (w : StoreDieId) (time : Nat) (s : State) : Out :=
  match s.installs.find? (fun x => x.todo.any (fun e => e.ws == w.val)) with
  | none => .next s
  | some x =>
    match x.todo.find? (fun e => e.ws == w.val) with
    | none => .next s
    | some e =>
      let r := installPage w.val x e (atTime time s)
      match r.1 with
      | some y => .next (finishInstall y r.2)
      | none => .next r.2

end Sys2Proof.Machine
end

