-- ==== Sys2Proof/Machine/Links.lean ====
section
/-! DEFINITION. The panel links: flits, training, link packets, reduction, and the link commands (R391 to R418). -/

namespace Sys2Proof.Machine

/-! ## Lanes and widths (R397, Table 1-7) -/

/-- The lanes that a width code uses: the lowest of the mask. -/
def activeLanes (mask width : Nat) : List Nat :=
  ((List.range 4).filter (bitAt mask)).take (if width = 3 then 4 else width)

/-- The lanes of a link that are powered. -/
def lanesPowered (s : State) (l : Nat) : Nat := fld (pwrOf s (linkSite l)).lanePwr (4 * (l % 4) + 3) (4 * (l % 4))

/-- The bits that two masks share. -/
def maskAnd (a b : Nat) : Nat := a.land b

/-- The width code that passing lanes give, up to a widest code (R397, R398). -/
def widthOf (mask most : Nat) : Nat :=
  let n := popCount 4 mask
  min most (if n = 4 then 3 else if 2 ≤ n then 2 else n)

/-- The wear part of a link (R549). -/
def linkPart (l : Nat) : Nat := 224 + l

/-- A log record of a link. -/
def logLink (l cls : Nat) (inj : Bool) (s : State) : LogRec :=
  let i := linkSite l
  { logBlank cls with injected := inj, part := ownerOf s i, unit := l % 4, x := siteX i, y := siteY i, addr := l }

/-- A link goes down with everything that hangs on it: purlins stop, requests are answered (R390, R400). -/
def linkLost (l : Nat) (s : State) : State := purlinsOnLink l (linkDown l s)

/-- A link begins to train with a test set. -/
def beginTraining (l test most : Nat) (s : State) : State :=
  modLink l (fun x => { x with phase := .training, testSet := test, maxWidth := most, replays := 0 }) s

/-! ## Flits (R393 to R396) -/

/-- A data flit is discarded and asked for again: counted, logged and scored (R394, R550). -/
def linkReplay (l : Nat) (inj : Bool) (s : State) : State :=
  let s := modLink l (fun x => { x with crcRetries := satInc 0xFFFFFFFF x.crcRetries, replays := x.replays + 1 }) s
  scoreWear inj (linkPart l) 1 5 (logAdd (logLink l 5 inj s) s)

/-- Whether an injection aims at a link. -/
def aimsLink (l : Nat) (j : Injection) : Bool := aimsAt (linkSite l) j && j.sub == l % 4

/-- An uncorrectable codeword is counted on a lane (R398). -/
def countCodeword (l lane : Nat) (s : State) : State :=
  let t := tickOf s
  modLink l (fun x => { x with
    fecUncorr := satInc 0xFFFFFFFF x.fecUncorr
    fecTick := t
    fecLane := modAt (if x.fecTick = t then x.fecLane else copies 4 0) lane (fun n => n + 1) }) s

/-- A link retrains on its own: the test set is the lanes in use (R398). -/
def autoRetrain (l : Nat) (s : State) : State := beginTraining l (linkOf s l).mask (linkOf s l).width s

/-- The codes' findings of a flit are counted on its lanes (R392, Table 14-6). -/
def countFec (l : Nat) (f : LinkFlit) (s : State) : State :=
  let s := f.corrected.foldl (fun s c => modLink l (fun x => { x with
    fecCorr := modAt x.fecCorr c.1.val (fun n => satInc 0xFFFFFFFF n c.2) }) s) s
  f.dead.foldl (fun s n => countCodeword l n.val s) s

/-- The segments that a purlin's head has still to send go on (R390, R415). -/
def pumpLink (l : Nat) (s : State) : State :=
  (List.range 8).foldl (fun s part => (List.range 8).foldl (fun s n =>
    if purlinEgress s part (purlinOf s part n) == l then pumpPurlin part n s else s) s) s

/-- What a link does with a flit that passed (R394): what it acknowledges and frees, a replay that it asks for, and a data flit
in order. What waited is sent, and where nothing is, an idle flit acknowledges a data flit (log entry 18). -/
def acceptLinkFlit (l : Nat) (f : LinkFlit) (s : State) : State :=
  let had := s.links.wire.length
  let new := flitExpected f (linkOf s l)
  let s := modLink l (takeFlit f) s
  let s := if flKind f = 2 then resend l s else s
  let s := pumpLink l (flushLink l s)
  if new && s.links.wire.length == had then sendIdle l s else s

/-- A data flit whose CRC fails is discarded, and a replay is asked for (R394). -/
def rejectLinkFlit (l : Nat) (f : LinkFlit) (inj : Bool) (s : State) : State :=
  if flKind f = 1 then askReplay l (linkReplay l inj s) else s

/-- LINK_FLIT_RECEIVE: a flit reaches a link that is up. -/
def execLinkFlitReceive (l : LinkId) (f : LinkFlit) (time : Nat) (s : State) : Out :=
  let n := l.val
  if f.bytes.length ≠ 256 then .fault .illFormed
  else if !linkUp s n then .next s
  else
    let fec := examineInj 16 (aimsLink n) (countFec n f (atTime time s))
    let s := match fec.1 with | some j => countCodeword n j.sub2 fec.2 | none => fec.2
    let lock := examine 18 (fun j => aimsLink n j && bitAt (linkOf s n).mask j.sub2) s
    let crc := if flKind f = 1 then examine 17 (aimsLink n) lock.2 else (false, lock.2)
    let real := !flitOk f || !f.dead.isEmpty
    let s := if real || fec.1.isSome || crc.1 then rejectLinkFlit n f (!real) crc.2 else acceptLinkFlit n f crc.2
    .next (if lock.1 then autoRetrain n s else s)

/-! ## Training (R397 to R401) -/

/-- A link's LANES, 0 while it is down. -/
def lanesNow (s : State) (l : Nat) : Nat := laneByte (linkOf s l)

/-- A LINK_CTRL in progress completes with the new LANES byte. -/
def endLinkCtrl (l : Nat) (s : State) : State :=
  match (linkOf s l).cmd with
  | some c => complete c stOk (lanesNow s l) (modLink l (fun x => { x with cmd := none }) s)
  | none => s

/-- A training ends: one that is not the first since the die's reset leaves its trace in the counts, the log and the wear. -/
def countRetrain (l : Nat) (s : State) : State :=
  let x := linkOf s l
  if !x.tried then modLink l (fun x => { x with tried := true }) s
  else
    let s := modLink l (fun x => { x with retrains := satInc 0xFFFFFFFF x.retrains }) s
    let s := logAdd (logLink l 6 false s) s
    if x.exempt then s else addWear (linkPart l) 2 2000 s

/-- The peer that a training reports, as LINK_UP and PEER_CHANGED carry it. -/
def peerWord (panel link : Nat) : Nat := panel * 256 + link

/-- The events of a training that succeeded: up, narrower, another peer. -/
def trainingEvents (l : Nat) (old new : Link) (s : State) : State :=
  let s := if old.width = 0 then
      raise1 (evPlain 0x0602 l (laneByte new) (peerWord new.peerPanel new.peerLink)) s else s
  let s := if old.trained && decide (new.width < old.lastWidth) then
      raise1 (evPlain 0x0600 l (256 * laneByte old + laneByte new) 0) s else s
  if old.trained && (old.peerPanel != new.peerPanel || old.peerLink != new.peerLink) then
    raise1 (evPlain 0x0603 l 0 (peerWord new.peerPanel new.peerLink + peerWord old.peerPanel old.peerLink * 2 ^ 24)) s
  else s

/-- A training that succeeds: the width from the lanes that passed, the record, the events; the replay buffer is sent again,
and then what waited (R399). -/
def trainedOk (l pass : Nat) (r : TrainResult) (s : State) : State :=
  let old := linkOf s l
  let w := widthOf pass old.maxWidth
  let s := countRetrain l s
  let s := modLink l (fun x => { x with
    phase := .up, mask := pass, width := w, fails := 0, replays := 0, exempt := false, trained := true, lastWidth := w
    degrades := if old.trained && decide (w < old.lastWidth) then satInc 0xFFFFFFFF x.degrades else x.degrades
    peerPanel := r.peerPanel.toNat, peerLink := r.peerLink.toNat }) s
  let s := recordLanes l s
  pumpLink l (flushLink l (resend l (endLinkCtrl l (trainingEvents l old (linkOf s l) s))))

/-- LINK_TRAINING: a training ends; with no lane passing it is repeated, and after three failures the link is down. -/
def execLinkTraining (l : LinkId) (r : TrainResult) (time : Nat) (s : State) : Out :=
  let n := l.val
  let x := linkOf s n
  if x.phase ≠ .training ∨ !siteWorks s (linkSite n) ∨ siteInReset s (linkSite n) then .next s
  else
    let s := atTime time s
    let pass := maskAnd r.pass.toNat (maskAnd x.testSet (lanesPowered s n))
    if pass ≠ 0 then .next (trainedOk n pass r s)
    else
      let s := countRetrain n s
      if x.fails + 1 < 3 then .next (modLink n (fun x => { x with fails := x.fails + 1 }) s)
      else .next (linkLost n s)

/-- Whether a cause of R398 stands in a tick: a flit replayed 8 times in a row, an active lane that has lost lock, or one with
more than 64 uncorrectable codewords. -/
def retrainCause (tick : Nat) (x : Link) : RetrainCause → Bool
  | .replays => decide (8 ≤ x.replays)
  | .lostLock lane => (activeLanes x.mask x.width).contains lane.val
  | .uncorrectable lane =>
    (activeLanes x.mask x.width).contains lane.val && x.fecTick == tick && decide (64 < x.fecLane.getD lane.val 0)

/-- LINK_RETRAIN: an active link retrains on its own (R398). -/
def execLinkRetrain (l : LinkId) (cause : RetrainCause) (time : Nat) (s : State) : Out :=
  let t := atTime time s
  if !linkUp s l.val || !retrainCause (tickOf t) (linkOf s l.val) cause then .next s else .next (autoRetrain l.val t)

/-- LINK_BUFFER_SAMPLE (R416). -/
def execLinkBufferSample (l : LinkId) (fill : Nat) (time : Nat) (s : State) : Out :=
  if 1024 < fill then .fault .illFormed
  else if !linkUp s l.val then .next s
  else
    let b := if fill = 0 then 0 else if fill ≤ 8 then 1 else if fill ≤ 16 then 2 else if fill ≤ 64 then 3
      else if fill ≤ 128 then 4 else if fill ≤ 256 then 5 else if fill ≤ 512 then 6 else 7
    .next (modLink l.val (fun x => { x with bins := modAt x.bins b (satInc 0xFFFFFFFF) }) (atTime time s))

/-! ## Acknowledgements (R407) -/

/-- The link on which a forwarded WRITE waits for an ACK packet that came by a link: that one, or else the first that has
the tag. -/
def awaitLink (s : State) (l tag : Nat) : Option Nat :=
  let has (n : Nat) : Bool := (linkOf s n).awaits.any (fun a => a.tag == tag)
  if has l then some l else (List.range 48).find? has

/-- A WRITE that waits on a link is answered with a status. -/
def answerAwait (l tag status : Nat) (s : State) : State :=
  match (linkOf s l).awaits.find? (fun a => a.tag == tag) with
  | none => s
  | some a => answer a.q status [] (modLink l (fun x => { x with awaits := x.awaits.erase a }) s)

/-- A WRITE that waits on a link is answered with ACK, which carries the STATUS of the ACK packet (R407). -/
def ackAwait (l tag status : Nat) (s : State) : State :=
  match (linkOf s l).awaits.find? (fun a => a.tag == tag) with
  | none => s
  | some a =>
    let s := modLink l (fun x => { x with awaits := x.awaits.erase a }) s
    { s with fab := { s.fab with answers := s.fab.answers ++ [{ answerPacket a.q status [] with opcode := 4 }] } }

/-- An ACK packet for this panel. -/
def takeAckPacket (l : Nat) (q : LinkPacket) (s : State) : State :=
  match awaitLink s l q.tag.toNat with
  | none => s
  | some n => ackAwait n q.tag.toNat (q.status.toNat % 16) s

/-- A packet has been taken from a link's receive buffer: its flits are freed, and an idle flit reports them (R396, log
entry 18). -/
def packetTaken (l : Nat) (q : LinkPacket) (s : State) : State :=
  if (linkOf s l).received.contains q then
    let s := modLink l (freeReceived q) s
    if linkUp s l then sendIdle l s else s
  else s

/-- Whether a packet on a link is for this panel. -/
def forHere (s : State) (q : LinkPacket) : Bool := q.destPanel.toNat == s.links.panelId

/-- LINK_ACK_ARRIVAL. -/
def execLinkAckArrival (l : LinkId) (q : LinkPacket) (time : Nat) (s : State) : Out :=
  if q.kind ≠ 2 then .fault .illFormed
  else if !linkUp s l.val || s.links.panelId == 0xFFFF || !forHere s q || !nextReceived (linkOf s l.val) q then .next s
  else .next (packetTaken l.val q (takeAckPacket l.val q (atTime time s)))

/-- LINK_ACK_EXPIRED: no ACK packet for 8 ms (R407). -/
def execLinkAckExpired (l : LinkId) (tag : BitVec 32) (time : Nat) (s : State) : Out :=
  let t := atTime time s
  if (linkOf s l.val).awaits.any (fun a => a.tag == tag.toNat && decide (a.since + 8000000 ≤ t.now)) then
    .next (answerAwait l.val tag.toNat 8 t)
  else .next s

/-! ## Packets for this panel and for others (R408, R410, R412) -/

/-- The link on which packets for a panel leave, where they can (R410). -/
def transitLink (s : State) (panel : Nat) : Option Nat :=
  let e := mapGetD s.links.transit panel 0xFF
  if e < 48 && !linkAbsent s e && (linkOf s e).phase != .down then some e else none

/-- A packet goes from a link to a unit of a link die over the service fabric, with FW = 1 (R410, R412); it takes one of the
link unit's 4,096 tags, and waits while none is free. -/
def crossFabric (l dest : Nat) (use : LinkUse) (c : Cargo) (q : LinkPacket) (s : State) : Option State :=
  (lowestFree 4096 (linkOf s l).inbound).map (fun tag =>
    let bs := linkPacketBytes q
    sendRequest ⟨mkRequest s (linkSite l) (l % 4) dest 2 bs.length tag true bs, none, c⟩
      (modLink l (fun y => { y with inbound := y.inbound ++ [(tag, use, q)] }) s))

/-- A packet for another panel is forwarded: it crosses the service fabric to the die of the link that it leaves on. -/
def forwardPacket (l : Nat) (q : LinkPacket) (s : State) : Option State :=
  match transitLink s q.destPanel.toNat with
  | none => some (dropOnLink l q 7 s)
  | some e =>
    if 15 < q.hops.toNat + 1 then some (dropOnLink l q 7 s)
    else crossFabric l (addrOf (linkSite e) (e % 4) 0) .transit (.transit { q with hops := q.hops + 1 }) q s

/-- The partition whose JOB a packet carries, for a core's die or, for a SEGMENT, for the panel. -/
def jobPart (s : State) (q : LinkPacket) : Option Nat :=
  let ok (p : Nat) : Bool := (partOf s p).present && (partOf s p).job != 0 && (partOf s p).job == q.job.toNat
  if q.kind = 3 then (List.range 8).find? ok
  else if q.dcx.toNat < 128 ∧ q.dcy.toNat < 80 then
    let p := ownerOf s (siteOfCore (coreAt q.dcx.toNat q.dcy.toNat))
    if p < 8 && ok p then some p else none
  else none

/-- REDUCE of a packet's flags. -/
def lpReduce (q : LinkPacket) : Nat := fld q.flags.toNat 3 2

/-- The reduction home of a core (R412). -/
def reductionHome (k : Nat) : Nat :=
  let cy := coreY k
  let r := if bandOf cy = 0 then 1 else if bandOf cy = 1 then (if cy < 40 then 1 else 2) else 2
  3 * r + coreX k / 43

/-- A WRITE of a link goes to its core as a service WRITE of the link's unit (R408), once one of its tags is free. -/
def writeFromLink (l : Nat) (q : LinkPacket) (s : State) : Option State :=
  (lowestFree 4096 (linkOf s l).inbound).map (fun tag =>
    let k := coreAt q.dcx.toNat q.dcy.toNat
    let x : RankExtra := ⟨bitAt q.flags.toNat 0, bitAt q.flags.toNat 1, BitVec.ofNat 6 q.rslot.toNat⟩
    let p := mkRequest s (linkSite l) (l % 4) (coreAddr k q.offset.toNat) 2 q.payload.length tag false q.payload
    sendRequest ⟨p, some x, .nothing⟩ (modLink l (fun y => { y with inbound := y.inbound ++ [(tag, .target, q)] }) s))

/-- A WRITE that is reduced goes to its home over the service fabric (R412). -/
def writeToHome (l : Nat) (q : LinkPacket) (s : State) : Option State :=
  let i := siteOfLinkDie (reductionHome (coreAt q.dcx.toNat q.dcy.toNat))
  if !siteWorks s i then some (ackLink l q 7 s) else crossFabric l (addrOf i 0 0) .home (.reduction l q) q s

/-- A packet for this panel is delivered (R408); a SEGMENT waits for room, and a WRITE for a tag. -/
def deliverPacket (l : Nat) (q : LinkPacket) (s : State) : Option State :=
  if q.kind = 2 then some (takeAckPacket l q s)
  else
    match jobPart s q with
    | none => some (dropOnLink l q 3 s)
    | some p =>
      if q.kind = 3 then takeSegment p (segmentOf q.payload) s
      else if q.kind ≠ 1 then some (dropOnLink l q 3 s)
      else if partInReset s p then some (ackLink l q 2 s)
      else if lpReduce q = 0 then writeFromLink l q s
      else writeToHome l q s

/-- The next packet of a link is delivered or forwarded; none while it has to wait. -/
def acceptPacket (l : Nat) (q : LinkPacket) (s : State) : Option State :=
  if forHere s q then deliverPacket l q s else forwardPacket l q s

/-- LINK_PACKET_ARRIVAL: the next packet of a channel's receive buffer is delivered or forwarded. -/
def execLinkPacketArrival (l : LinkId) (q : LinkPacket) (time : Nat) (s : State) : Out :=
  let t := atTime time s
  if !linkUp s l.val || s.links.panelId == 0xFFFF || !nextReceived (linkOf s l.val) q then .next s
  else
    match acceptPacket l.val q t with
    | none => .next s
    | some u => .next (packetTaken l.val q u)

/-! ## Reduction (R413, R414) -/

/-- The key of a contribution counter. -/
def counterKey (h k slot : Nat) : Nat := h * 2 ^ 20 + 64 * k + slot
/-- The counters that a home holds. -/
def homeCounters (s : State) (h : Nat) : Nat := (s.links.counters.filter (fun c => c.1 / 2 ^ 20 == h)).length

/-- Whether a WRITE is a contribution: it has RSET and LAST (R414). -/
def contributes (q : LinkPacket) : Bool := bitAt q.flags.toNat 0 && bitAt q.flags.toNat 1

/-- The contributions counted at a home for the core and slot of a WRITE. -/
def counted (s : State) (h k : Nat) (q : LinkPacket) : Nat := mapGetD s.links.counters (counterKey h k (q.rslot.toNat % 64)) 0

/-- Whether a WRITE, once added, lets its home set a slot that the core cannot take: it then writes nothing and is answered
BAD_ADDRESS (R206, R414). -/
def setRefused (s : State) (h k : Nat) (q : LinkPacket) : Bool :=
  contributes q && decide (q.contrib.toNat ≤ counted s h k q + 1) && !rsetOk s k (q.rslot.toNat % 64)

/-- A contribution is counted; the one that fills the count sets the slot full. The status that the WRITE is answered
with. -/
def contribute (h k : Nat) (q : LinkPacket) (s : State) : Nat × State :=
  let slot := q.rslot.toNat % 64
  let key := counterKey h k slot
  let n := counted s h k q
  if setRefused s h k q then (4, s)
  else if n = 0 ∧ q.contrib.toNat > 1 ∧ 4096 ≤ homeCounters s h then (7, s)
  else if n + 1 < q.contrib.toNat then
    (0, { s with links := { s.links with counters := mapPut s.links.counters key (n + 1) } })
  else
    (0, settleHolds (portTag k slot true { s with links := { s.links with counters := mapDel s.links.counters key } }))

/-- The bytes of a row with the next row of a WRITE added. -/
def rowSum (x : HomeRow) (old : List Byte) : List Byte :=
  natLe 512 (addBits (lpReduce x.q == 2) 4096 (leNat old) (leNat (bytesAt x.q.payload (512 * x.done) 512)))

/-- The row a home adds next, read from the core. -/
def readRow (h k : Nat) (x : HomeRow) (s : State) : Nat × Nat × List Byte × State :=
  readNow (siteOfLinkDie h) 0 true false ⟨[], []⟩ (coreAddr k (x.q.offset.toNat + 512 * x.done)) 512 s

/-- The WRITE after one more row, whose read ended with status `st`. -/
def rowAfter (x : HomeRow) (st : Nat) : HomeRow :=
  { x with done := x.done + 1, bad := if x.bad = 0 then st else x.bad }

/-- A row read is added and written back, and counted on all four links of the home's die; a failed read adds nothing. -/
def addRow (h k : Nat) (x : HomeRow) (st : Nat) (old : List Byte) (s : State) : State :=
  if st ≠ 0 then s
  else
    let s := (writeMem (.core k) (x.q.offset.toNat + 512 * x.done) (rowSum x old) ⟨[], []⟩ s).2
    (List.range 4).foldl (fun s n => modLink (4 * h + n) (fun z => { z with reduced := satInc 0xFFFFFFFF z.reduced }) s) s

/-- A WRITE whose rows are all added counts its contribution and is answered. -/
def endReduction (h k : Nat) (x : HomeRow) (s : State) : State :=
  if x.bad ≠ 0 then ackLink x.inLink x.q x.bad s
  else if contributes x.q then
    let r := contribute h k x.q s
    ackLink x.inLink x.q r.1 r.2
  else ackLink x.inLink x.q 0 s

/-- A WRITE with rows left stays at the head of its home's list; one with none left leaves it and is ended. -/
def homeGoesOn (h k : Nat) (y : HomeRow) (rest : List HomeRow) (s : State) : State :=
  let put (l : List HomeRow) : State := { s with links := { s.links with homes := mapSet [] s.links.homes h l } }
  if 512 * y.done < y.q.payload.length then put (y :: rest) else endReduction h k y (put rest)

/-- A WRITE with rows left adds its next one, unless the read of the row has to wait. -/
def addNextRow (n k : Nat) (x : HomeRow) (rest : List HomeRow) (s : State) : Option State :=
  let r := readRow n k x s
  if r.1 = notYet then none else some (homeGoesOn n k (rowAfter x r.1) rest (addRow n k x r.1 r.2.2.1 r.2.2.2))

/-- REDUCTION_ADD: a home adds the next row of the oldest WRITE that waits there. -/
def execReductionAdd (h : LinkDieId) (time : Nat) (s : State) : Out :=
  let n := h.val
  match mapGetD s.links.homes n [] with
  | [] => .next s
  | x :: rest =>
    let k := coreAt x.q.dcx.toNat x.q.dcy.toNat
    if !siteWorks s (siteOfLinkDie n) || siteInReset s (siteOfLinkDie n) || !(coreOf s k).ax.remote.isEmpty then .next s
    else
      let t := atTime time s
      if x.done = 0 && setRefused t n k x.q then
        .next (ackLink x.inLink x.q 4 { t with links := { t.links with homes := mapSet [] t.links.homes n rest } })
      else if 512 * x.done < x.q.payload.length then .next ((addNextRow n k x rest t).getD s)
      else .next (homeGoesOn n k x rest t)

/-! ## Commands (Table 14-4, R404, R405) -/

/-- LINK_PANEL_ID_SET. -/
def doLinkPanelIdSet (c : Cmd) (pay : List Byte) (s : State) : State :=
  let busy := s.bays.any (fun p => [BayMode.running, .held, .pointChange, .draining].contains p.2.mode) || purlinActive s
  checked c [(decide (pay.length ≠ 8), stBadLength), (leAt pay 0 2 == 0xFFFF || !zeroAt pay 2 6, stBadField), (busy, stBusy)]
    (fun s =>
      let s := { s with links := { s.links with panelId := leAt pay 0 2 } }
      complete c stOk 0 ((List.range 48).foldl (fun s l => flushLink l s) s)) s

/-- LINK_PANEL_ID_SET. -/
def execLinkPanelIdSet (c : Cmd) (s : State) : Out := runRow c 0x0600 doLinkPanelIdSet s

/-- PARTITION_LINK_SET. -/
def doPartitionLinkSet (c : Cmd) (pay : List Byte) (s : State) : State :=
  let part := leAt pay 0 1
  checked c [(decide (pay.length ≠ 8), stBadLength),
      (!partExists s part || !zeroAt pay 1 1 || decide (0xFFFFF < leAt pay 4 4), stBadField)]
    (fun s => complete c stOk 0 (modPart part (fun p => { p with job := leAt pay 2 2, rankBase := leAt pay 4 4 }) s)) s

/-- PARTITION_LINK_SET. -/
def execPartitionLinkSet (c : Cmd) (s : State) : Out := runRow c 0x0601 doPartitionLinkSet s

/-- Whether a rank entry meets Table 14-3. -/
def rankEntryOk (e : Nat) : Bool :=
  let reduce := fld e 42 41
  fld e 15 0 != 0xFFFF && decide (fld e 23 16 < 128) && decide (fld e 31 24 < 80) && decide (fld e 39 32 < 48)
    && decide (reduce < 3) && fld e 47 43 == 0 && (decide (fld e 55 48 = 0) == decide (reduce = 0)) && fld e 63 56 == 0

/-- RANK_TABLE_SET. An entry whose EGRESS is on an absent link die fails with UNIT_ABSENT before the die's owner is looked at:
R11 and R391 give that status, and R404 gives DENIED for a die that PART does not own (DESIGN CHOICE, log entry 149). -/
def doRankTableSet (c : Cmd) (pay : List Byte) (s : State) : State :=
  let part := leAt pay 0 1
  let first := leAt pay 4 4
  let n := leAt pay 8 4
  let a := leAt pay 0x10 8
  checked c [(decide (pay.length ≠ 24) || decide (leAt pay 0xC 4 < 8 * n), stBadLength),
      (!partExists s part || !zeroAt pay 1 3 || decide (n = 0) || decide (65536 < first + n), stBadField)]
    (fun s =>
      match hostAnswer s a (8 * n) with
      | some slow => failCmd c (if slow then stTimeout else stFault) s
      | none =>
        let es := (List.range n).map (fun i => leNat (hostRead s (a + 8 * i) 8))
        checked c [(!es.all rankEntryOk, stBadField),
            (es.any (fun e => linkAbsent s (fld e 39 32)), stUnitAbsent),
            (es.any (fun e => ownerOf s (linkSite (fld e 39 32)) != part), stDenied)]
          (fun s => complete c stOk 0 (modPart part (fun p => { p with
            ranks := es.zipIdx.foldl (fun m e => mapSet ⟨0, p.rankNext⟩ m (first + e.2) ⟨e.1, p.rankNext⟩) p.ranks
            rankNext := p.rankNext + 1 }) s)) s) s

/-- RANK_TABLE_SET. -/
def execRankTableSet (c : Cmd) (s : State) : Out := runRow c 0x0602 doRankTableSet s

/-- TRANSIT_SET. -/
def doTransitSet (c : Cmd) (pay : List Byte) (s : State) : State :=
  let first := leAt pay 4 4
  let n := leAt pay 8 4
  let a := leAt pay 0x10 8
  checked c [(decide (pay.length ≠ 24) || decide (leAt pay 0xC 4 < n), stBadLength),
      (!zeroAt pay 0 4 || decide (n = 0) || decide (65536 < first + n), stBadField)]
    (fun s =>
      match hostAnswer s a n with
      | some slow => failCmd c (if slow then stTimeout else stFault) s
      | none =>
        let es := (hostRead s a n).map (fun b => b.toNat)
        checked c [(!es.all (fun e => decide (e < 48) || e == 0xFF), stBadField)]
          (fun s => complete c stOk 0 { s with links := { s.links with
            transit := es.zipIdx.foldl (fun m e => mapSet 0xFF m (first + e.2) e.1) s.links.transit } }) s) s

/-- TRANSIT_SET. -/
def execTransitSet (c : Cmd) (s : State) : Out := runRow c 0x0603 doTransitSet s

/-- LINK_CTRL: the link trains with all its powered lanes, up to MAX_WIDTH; the command completes when the training ends. -/
def doLinkCtrl (c : Cmd) (pay : List Byte) (s : State) : State :=
  let l := leAt pay 0 1
  let w := leAt pay 2 1
  let st := (entryAt s (linkSite l)).state
  checked c [(decide (pay.length ≠ 8), stBadLength),
      (decide (47 < l) || leAt pay 1 1 != 0 || (w != 1 && w != 2 && w != 4) || !zeroAt pay 3 5, stBadField),
      (linkAbsent s l, stUnitAbsent), (st == .failed || st == .fenced, stDenied),
      (!sitePowered s (linkSite l), stNotReady), ((linkOf s l).cmd.isSome, stBusy)]
    (needProc (4 + l / 4) c pay (fun s =>
      modLink l (fun x => { x with cmd := some c, fails := 0 }) (beginTraining l 15 (if w = 4 then 3 else w) s))) s

/-- LINK_CTRL. -/
def execLinkCtrl (c : Cmd) (s : State) : Out := runRow c 0x0604 doLinkCtrl s

/-- A link's state code (Table 14-6). -/
def linkStateCode (s : State) (l : Nat) : Nat :=
  if linkAbsent s l then 0
  else match (linkOf s l).phase with | .down => 1 | .training => 2 | .up => 3

/-- The 128 bytes of a link's record for a window (Table 14-6). -/
def linkBytes (s : State) (age l : Nat) : List Byte :=
  let x := linkOf s l
  let w := ((x.windows.filter (fun w => decide (w.tick + 2 ≤ tickOf s)))[age]?).getD ⟨0, copies 8 0⟩
  natLe 1 l ++ natLe 1 (linkStateCode s l) ++ natLe 1 (laneByte x) ++ copies 1 0 ++ natLe 2 x.peerPanel ++ natLe 1 x.peerLink
    ++ copies 1 0 ++ natLe 8 w.tick ++ w.bins.flatMap (natLe 4) ++ natLe 8 x.flitsTx ++ natLe 8 x.flitsRx
    ++ natLe 4 x.crcRetries ++ natLe 4 x.retrains ++ natLe 4 x.degrades ++ natLe 4 x.fecUncorr ++ x.fecCorr.flatMap (natLe 4)
    ++ natLe 4 x.drops ++ natLe 4 x.reduced ++ copies 24 0

/-- LINK_STATUS. -/
def doLinkStatus (c : Cmd) (pay : List Byte) (s : State) : State :=
  let first := leAt pay 0 1
  let n := leAt pay 1 1
  checked c [(decide (pay.length ≠ 16) || decide (leAt pay 4 4 < 128 * n), stBadLength),
      (decide (n = 0) || decide (48 < n) || decide (48 < first + n) || decide (15 < leAt pay 2 1) || !zeroAt pay 3 1, stBadField)]
    (fun s => completeWithBuf c (leAt pay 8 8) ((List.range n).flatMap (fun i => linkBytes s (leAt pay 2 1) (first + i))) 0 s) s

/-- LINK_STATUS. -/
def execLinkStatus (c : Cmd) (s : State) : Out := runRow c 0x0605 doLinkStatus s

end Sys2Proof.Machine
end

