-- ==== Sys2Proof/Machine/Dies.lean ====
section
/-! DEFINITION. What a die loses when it is reset, loses its power or fails (R49, R50, R357, R401, R480, R497, R507, R556),
and the retests of rows and blocks (R542, R543). -/

namespace Sys2Proof.Machine

/-! ## What a die holds -/

/-- The cores of a compute site. -/
def siteCores (i : Nat) : List Nat := (List.range 64).map (coreOfBit i)

/-- A core as its reset leaves it (R480, Table 16-10): everything cleared, and the numbers of its packets run on. -/
def coreCleared (c : Core) : Core :=
  { coreZero with ax := { coreZero.ax with nextDesc := c.ax.nextDesc, nextTag := c.ax.nextTag } }

/-- A compute die's cores and die buffer are cleared. -/
def clearCompute (i : Nat) (s : State) : State :=
  clearBuffer i ((siteCores i).foldl (fun s k => modCore k coreCleared s) s)

/-- The rebuilds of an engine that run or are paused fail (R357, R481). -/
def failRebuilds (n : Nat) (s : State) : State :=
  (engineOf s n).tables.foldl (fun s t =>
    if t.2.phase == .running || t.2.phase == .paused then rebuildFails n t.1 s else s) s

/-- An embedding engine loses its requests, and its rebuilds fail (R357). -/
def loseEngine (n : Nat) (s : State) : State :=
  failRebuilds n (modEngine n (fun e => { e with queue := [], runs := [], results := [] }) s)

/-- The counters of a link start anew, as its die's reset leaves them (R416); what the last training gave stays known: that one
succeeded, its width and its peer. -/
def linkCleared (x : Link) : Link :=
  { linkZero with
    cmd := x.cmd, peerPanel := x.peerPanel, peerLink := x.peerLink, trained := x.trained, lastWidth := x.lastWidth }

/-- A link of a die that is reset, unpowered or failed: it is down, its LINK_CTRL ends, and its purlins stop
(R390, R401). -/
def loseLink (l : Nat) (s : State) : State :=
  let x := linkOf s l
  let up := x.phase != .down
  let s := takeLinkDown l s
  let s := if up then raise1 (evPlain 0x0601 l 0 x.retrains) s else s
  let s := match x.cmd with | some c => complete c stNotReady 0 s | none => s
  purlinsOnLink l (modLink l (fun x => { linkCleared x with cmd := none }) s)

/-- A link die loses its links, its waiting rows and its counters. -/
def loseLinkDie (k : Nat) (s : State) : State :=
  let s := (List.range 4).foldl (fun s n => loseLink (4 * k + n) s) s
  { s with links := { s.links with
    homes := mapDel s.links.homes k
    counters := s.links.counters.filter (fun c => c.1 / 2 ^ 20 != k) } }

/-- What is lost with a die's reset, by role (R480): a compute die's stores, an engine's requests, a link die's links. -/
def dieContentsReset (i : Nat) (s : State) : State :=
  let s := disarm (aimsAt i) s
  if placeRole i = 1 then clearCompute i s
  else if placeRole i = 2 then loseEngine (stackOfSite i) s
  else if placeRole i = 3 then loseLinkDie (linkDieOfSite i) s
  else s

/-- A stack's contents are lost; what its base die has retired stays retired (R507). -/
def loseStack (n : Nat) (s : State) : State :=
  modStack n (fun d => { d with corrected := [], scored := [], scrubs := [], retiring := [] }) (clearStack n s)

/-- What is lost with a die's power (R507). -/
def dieContentsOff (i : Nat) (s : State) : State :=
  let s := dieContentsReset i s
  if placeRole i = 2 then loseStack (stackOfSite i) s else s

/-! ## Sites that lose their power -/

/-- The processor of a site that loses its power stops; the FW_PROC_RESTART that waits for it ends. -/
def stopProc (i : Nat) (s : State) : State :=
  match procOfSite i with
  | none => s
  | some n =>
    let w := (procOf s n).waitedBy
    completeOpt w stNotReady 0 (modProc n (fun p => { p with run := .stopped, version := 0, waitedBy := none }) s)

/-- Sites are unpowered with a power state each reports, and what they hold is lost. -/
def unpowerSites (m : PwrMode) (is : List Nat) (s : State) : State :=
  is.foldl (fun s i => stopProc i (dieContentsOff i (modPwr i (fun p => { p with
    mode := m, darkAt := some s.now, inReset := false, cur := copies 4 0, branch := 0, overLogic := false, overArray := false, demand := signalOff }) s))) s

/-- A POWER_SET that acts on a site ends with a status. -/
def endActing (i status : Nat) (s : State) : State :=
  match (pwrOf s i).acting with
  | none => s
  | some c => complete c status 0 (modPwr i (fun p => { p with acting := none }) s)

/-- A RESET of die scope in progress on a site ends OK with the state that the die took (R484). -/
def endDieReset (i : Nat) (s : State) : State :=
  match (pwrOf s i).resetBy with
  | none => s
  | some c => complete c stOk (siteStateCode (entryAt s i).state) (modPwr i (fun p => { p with resetBy := none }) s)

/-- The LANES of link dies among the sites read 0 from now on (R401). -/
def recordDark (is : List Nat) (s : State) : State :=
  recordChange (fun s => is.foldl (fun s i => modEntry i entryDark s) s) s

/-- Dies fail with a reason in one record change; each is logged, and the bays on them take fault 6 (R49, R50, R497). -/
def failDies (is : List Nat) (reason : Nat) (inj : Bool) (s : State) : State :=
  let s := recordChange (fun s => is.foldl (fun s i => failEntry i reason s) s) s
  let s := is.foldl (fun s i => logAdd { logFailure i reason inj with part := ownerOf s i } s) s
  is.foldl (fun s i => faultDie 6 i s) s

/-- Sites are lost to a fault of their supply or to a trip (R497): unpowered, failed, with what acts on them ended. -/
def loseSites (m : PwrMode) (is : List Nat) (reason : Nat) (inj : Bool) (s : State) : State :=
  let s := unpowerSites m is s
  let s := failDies is reason inj s
  is.foldl (fun s i => endDieReset i (endActing i stFault s)) s

/-- Sites are powered off by a trip of the whole panel, with no die failed: bays on them take fault 6, and what acts on
them ends with a status (R476, R521, R522). -/
def darkenSites (is : List Nat) (s : State) : State :=
  let s := recordDark is (unpowerSites .off is s)
  let s := is.foldl (fun s i => faultDie 6 i s) s
  is.foldl (fun s i => endDieReset i (endActing i stFault s)) s

/-- A die that keeps its power fails with reason RUNTIME (R49). -/
def failRuntime (i : Nat) (inj : Bool) (s : State) : State :=
  let s := if placeRole i = 3 then loseLinkDie (linkDieOfSite i) s else s
  let s := if placeRole i = 2 then loseEngine (stackOfSite i) s else s
  failDies [i] 7 inj s

/-! ## Retests (R542, R543) -/

/-- Whether a retest finds a failure: the world decides (log entry 2). -/
def retestFails (s : State) : Bool × State := let r := takeFree s; (r.1 % 2 == 1, r.2)

/-- The rows of a core that reported an uncorrectable error are retested: whether one fails. -/
def retestRows (k : Nat) : List Nat → Bool → State → Bool × State
  | [], bad, s => (bad, s)
  | _ :: rs, bad, s =>
    let r := retestFails s
    retestRows k rs (bad || r.1) r.2

/-- A core is retested; one whose row fails is hard-failed (R542). -/
def retestCore (k : Nat) (s : State) : State :=
  let r := retestRows k (coreOf s k).suspects false s
  let s := modCore k (fun c => { c with suspects := [] }) r.2
  if r.1 then failCore k false s else s

/-- A block of a die buffer that failed its retest is replaced by a spare and reads zero; the last spare used is
reported, and without one the die fails (R543). -/
def replaceBlock (i b : Nat) (s : State) : State :=
  let d := mapGetD s.bufs i bufferZero
  if d.spares ≥ 64 then failRuntime i false s
  else
    let s := { s with mem := memClear s.mem (addrOf i 0x40 (2048 * b)) 2048 }
    let s := modBuf i (fun d => { d with
      spares := d.spares + 1, exhausted := decide (d.spares + 1 = 64), bad := d.bad.filter (fun w => w / 256 != b) }) s
    if d.spares + 1 = 64 then raise1 (evSite 0x0A03 0xFFFF i 0 64) s else s

/-- The blocks of a die buffer that reported an uncorrectable error are retested. -/
def retestBuffer (i : Nat) (s : State) : State :=
  let d := mapGetD s.bufs i bufferZero
  d.suspects.foldl (fun s b =>
    let r := retestFails s
    if r.1 then replaceBlock i b r.2 else r.2) (modBuf i (fun d => { d with suspects := [] }) s)

end Sys2Proof.Machine
end

