-- ==== Sys2Proof/Machine/Removal.lean ====
section
/-! DEFINITION. The orderly removal of the panel (R451), and what stops all that runs for it and for resets. -/

namespace Sys2Proof.Machine

/-- The sites with an eFuse, in order. -/
def dieSites : List Nat := (List.range 224).filter isDieSite

/-- The present sites with an eFuse. -/
def presentSites (s : State) : List Nat := dieSites.filter (fun i => !siteAbsent s i)

/-- Every purlin transfer of a partition stops (R390). -/
def stopPurlins (part : Nat) (s : State) : State :=
  (List.range 8).foldl (fun s n =>
    match (purlinOf s part n).run with
    | some r => purlinStop part n r.seq s
    | none => s) s

/-- Every batch of a partition is closed (R351, R383). -/
def closeBatches (part : Nat) (s : State) : State :=
  let s := (partOf s part).embBatches.foldl (fun s b => completeOpt b.2.closing stOk 0 s) s
  settleSlots part (modPart part (fun p => { p with embBatches := [], wsetBatches := [] }) s)

/-- The images that WSTORE_WRITE writes end: NOT_READY, with the first directory entry that is not
written, whether its turn had not come or its page had failed (R451). -/
def endInstalls (s : State) : State :=
  s.installs.foldl (fun s x =>
    let s := measureImage x stNotReady { s with installs := s.installs.erase x }
    match x.src with
    | .host _ c => complete c stNotReady (leastOf (x.todo.map (fun e => e.index) ++ x.failed)) s
    | .purlin _ _ => s) s

/-- The scores go to the boot store (R551). -/
def saveWear (s : State) : State := { s with boot := { s.boot with wear := s.err.wear } }

/-- The panel is ready to be taken out: no removal runs any more, and the processors are parked. -/
def parkForRemoval (s : State) : State :=
  { s with host := { s.host with removing := none, removalReady := true, parked := true } }

/-- Steps 3 and 4 of R451: every purlin transfer stops, and so do the images; installation mode ends. -/
def stopTransfers (s : State) : State :=
  let s := (List.range 8).foldl (fun s n => stopPurlins n s) s
  { endInstalls s with install := false }

/-- Steps 3 to 7 of R451, once every bay has stopped. -/
def endRemoval (s : State) : State :=
  match s.host.removing with
  | none => s
  | some c =>
    if s.bays.any (fun p => p.2.mode != .loaded && p.2.mode != .stopped) then s
    else
      let s := (List.range 8).foldl (fun s n => closeBatches n s) (stopTransfers s)
      let s := unpowerSites .off dieSites s
      complete c stOk 0 (recordDark dieSites (saveWear (parkForRemoval s)))

/-- PREPARE_REMOVAL: new commands are refused and the bays stop; the rest follows the last bay's stop. -/
def doPrepareRemoval (c : Cmd) (_pay : List Byte) (s : State) : State :=
  let s := { s with host := { s.host with removing := some c } }
  endRemoval (s.bays.foldl (fun s p => autoStop p.1 s) s)

/-- PREPARE_REMOVAL. -/
def execPrepareRemoval (c : Cmd) (s : State) : Out := runRow c 0x000A doPrepareRemoval s

end Sys2Proof.Machine
end

