-- ==== Sys2Proof/Machine/Power.lean ====
section
/-! DEFINITION. Power: limits and stretching, faults of the regulators and the distribution, degraded paths, and the power
commands (R485 to R513). -/

namespace Sys2Proof.Machine

/-! ## Domains and quadrants -/

/-- The code of a domain (Table 17-2). -/
def domainCode : Domain → Nat
  | .logic => 0 | .array => 1 | .link => 2 | .memif => 3

/-- The place of a domain among a role's phases: LINK and MEMIF share the third. -/
def domainIndex : Domain → Nat
  | .logic => 0 | .array => 1 | _ => 2

/-- Whether a role has a domain. -/
def hasDomain (role : Nat) : Domain → Bool
  | .logic => true
  | .array => role != 3
  | .link => role == 3
  | .memif => role == 2

/-- The needed phases of a domain (Table 17-2). -/
def neededPhases (role : Nat) : Domain → Nat
  | .logic => if role = 1 then 14 else 3
  | .array => if role = 2 then 5 else 3
  | .link => 6
  | .memif => 3

/-- The least working phases with which a domain stays up (Table 17-3). -/
def leastPhases (role : Nat) (d : Domain) : Nat :=
  if role = 1 then (match d with | .logic => 5 | _ => 1) else neededPhases role d

/-- A quadrant. -/
def quadOf (s : State) (n : Nat) : QuadPwr := s.pwr.quads.getD n quadZero
/-- The state with a quadrant changed. -/
def modQuad (n : Nat) (f : QuadPwr → QuadPwr) (s : State) : State :=
  { s with pwr := { s.pwr with quads := modAt s.pwr.quads n f } }

/-- The power mode of a site. -/
def modeOf (s : State) (i : Nat) : PwrMode := (pwrOf s i).mode
/-- Whether a site's eFuse carries current. -/
def siteLive (s : State) (i : Nat) : Bool := isDieSite i && (sitePowered s i || modeOf s i == .ramping)

/-! ## Signals and demands (R494, R495, R513) -/

/-- A signal that is asserted or released at a time. -/
def setSignal (on : Bool) (now : Nat) (x : Signal) : Signal :=
  if on then { x with on := true, inTick := true, since := if x.on then x.since else now, raised := if x.on then x.raised else 0 }
  else { x with on := false, raised := 0 }

/-- A signal at the end of a tick. -/
def tickSignal (x : Signal) : Signal := { x with shown := x.inTick, inTick := x.on }

/-- A die's demand follows its conditions and the signals that reach it. -/
def settleDemand (i : Nat) (s : State) : State :=
  let on := limiterOn s i && sitePowered s i
  modPwr i (fun p => { p with
    demand := setSignal on s.now p.demand
    lastDemand := if p.demand.on && !on then some s.now else p.lastDemand }) s

/-- The demands of every powered compute die follow. -/
def settleDemands (s : State) : State :=
  (dieSites.filter (fun i => placeRole i == 1 && sitePowered s i)).foldl (fun s i => settleDemand i s) s

/-- The value of a condition at a reading: asserted at the limit, released below a lower value. -/
def hysteresis (was : Bool) (v hi lo : Nat) : Bool := if hi ≤ v then true else if v < lo then false else was

/-- LIMITER_DEMAND (R494): the 10 µs averages of the LOGIC and ARRAY currents of a compute die in mA. -/
def execLimiterDemand (p : SiteId) (logic array time : Nat) (s : State) : Out :=
  let i := siteNo p
  if placeRole i ≠ 1 ∨ !sitePowered s i then .next s
  else
    let s := settleBoost (atTime time s)
    let a := 100 * effCeiling s i
    let b := 100 * arrayLimit s i
    .next (settleDemand i (modPwr i (fun p => { p with
      overLogic := hysteresis p.overLogic logic a (97 * a / 100)
      overArray := hysteresis p.overArray array b (97 * b / 100) }) s))

/-- QUADRANT_LIMIT (R495): a 10 µs average of a quadrant's current in mA, which counts in Ipk for 10 ms (R504). -/
def execQuadrantLimit (n : Fin 4) (cur : Nat) (time : Nat) (s : State) : Out :=
  let s := settleBoost (atTime time s)
  .next (settleDemands (modQuad n.val (fun q => { q with
    peaks := (q.peaks.filter (fun p => decide (s.now ≤ p.1 + 10000000))) ++ [(s.now, cur)]
    limit := setSignal (hysteresis q.limit.on cur 150000 145000) s.now q.limit }) s))

/-- The panel limit in W. -/
def panelCeiling (s : State) : Nat := min 25000 (s.pwr.ceil.getD 25000)

/-- PANEL_LIMIT (R495): the 1 ms average of the input power in W. -/
def execPanelLimit (watts : Nat) (time : Nat) (s : State) : Out :=
  let s := settleBoost (atTime time s)
  let a := panelCeiling s
  .next (settleDemands { s with pwr := { s.pwr with
    limit := setSignal (hysteresis s.pwr.limit.on (100 * watts) (100 * a) (97 * a)) s.now s.pwr.limit } })

/-- Whether LIMIT_LONG is due for a signal: 100 ticks, and every further 1,000. -/
def limitDue (now : Nat) (x : Signal) : Bool := x.on && decide (x.since + 1000000 * (100 + 1000 * x.raised) ≤ now)

/-- LIMIT_LONG's ARG. -/
def limitTicks (now : Nat) (x : Signal) : Nat := (now - x.since) / 1000000

/-- LIMIT_LONG has been raised once more. -/
def limitRaised (x : Signal) : Signal := { x with raised := x.raised + 1 }

/-- LIMIT_LONG (R513). -/
def execLimitLong (u : LimitUnit) (time : Nat) (s : State) : Out :=
  let t := atTime time s
  match u with
  | .quadrant n =>
    let x := (quadOf s n.val).limit
    if !limitDue t.now x then .next s
    else .next (raise1 (evPlain 0x080A n.val 0 (limitTicks t.now x))
      (modQuad n.val (fun q => { q with limit := limitRaised q.limit }) t))
  | .panel =>
    let x := s.pwr.limit
    if !limitDue t.now x then .next s
    else .next (raise1 (evPlain 0x080A 4 0 (limitTicks t.now x)) { t with pwr := { t.pwr with limit := limitRaised x } })
  | .die p =>
    let x := (pwrOf s (siteNo p)).demand
    if !limitDue t.now x then .next s
    else .next (raise1 (evSite 0x080A 5 (siteNo p) 0 (limitTicks t.now x))
      (modPwr (siteNo p) (fun p => { p with demand := limitRaised p.demand }) t))

/-! ## Measurement (R492) -/

/-- A site's averages. -/
def recordSite (r : SitePower) (s : State) : State :=
  if !sitePowered s (siteNo r.p) || !isDieSite (siteNo r.p) then s
  else modPwr (siteNo r.p) (fun p => { p with
    cur := (List.range 4).map (fun n => r.cur.getD n 0), branch := r.branch, vminLogic := r.vminLogic
    vminArray := r.vminArray }) s

/-- POWER_TICK (R492): the averages of a tick, and what its signals were. -/
def execPowerTick (r : PowerReadings) (time : Nat) (s : State) : Out :=
  let s := atTime time s
  let s := { s with pwr := { s.pwr with
    inputMv := r.inputMv, inputMa := r.inputMa, auxMw := r.auxMw, tick := tickOf s
    limit := tickSignal s.pwr.limit
    quads := s.pwr.quads.zipIdx.map (fun q => { q.1 with ma := r.quadMa.getD q.2 0, limit := tickSignal q.1.limit })
    sites := s.pwr.sites.map (fun p => (p.1, { p.2 with demand := tickSignal p.2.demand })) } }
  .next (r.sites.foldl (fun s x => recordSite x s) s)

/-- Where an input voltage lies (Table 17-1). -/
def rangeOf (mv : Nat) : InputRange := if mv < 46000 then .low else if 60000 < mv then .high else .normal

/-- INPUT_RANGE (R485): the input leaves the operating range or returns to it. -/
def execInputRange (mv : Nat) (time : Nat) (s : State) : Out :=
  if rangeOf mv = s.pwr.range then .next s
  else
    let s := atTime time s
    let aux := match rangeOf mv with | .low => 0 | .high => 1 | .normal => 2
    .next (raise1 (evPlain 0x0807 0 aux mv) { s with pwr := { s.pwr with range := rangeOf mv, inputMv := mv } })

/-! ## The loss of the panel's power (R450, R486, R586) -/

/-- The panel after it has lost its power: what is fused and stored stays, and so do the outside world and what has been
sent to it. -/
def powerLost (s : State) : State :=
  let t := State.ofFuses s.fuses s.boot
  { t with
    pending := s.pending, freeCtr := s.freeCtr, hostMem := s.hostMem, hostFail := s.hostFail
    mgmt := { t.mgmt with sent := s.mgmt.sent }
    host := { t.host with perst := s.host.perst }
    pwr := { t.pwr with switchClosed := s.pwr.switchClosed, range := s.pwr.range, inputMv := s.pwr.inputMv } }

/-- INPUT_TRIP (R486): the input lies outside the extended range for 1 ms; its cause is recorded, and all power is lost. -/
def execInputTrip (isOver : Bool) (mv : Nat) (time : Nat) (s : State) : Out :=
  let t := atTime time s
  let j := examine 30 (fun j => j.sub == b2n isOver) t
  if !s.pwr.good || !(j.1 || (if isOver then decide (62000 < mv) else decide (mv < 43000))) then .next s
  else
    let t := logAdd { logBlank 10 with injected := j.1, status := 0x0808, detail := tickOf t } j.2
    let t := { t with boot := { t.boot with tripCause := some (isOver, tickOf t) } }
    .next (powerLost { t with pwr := { t.pwr with inputMv := mv, range := if j.1 then t.pwr.range else rangeOf mv } })

/-! ## Faults (R497 to R499) -/

/-- A die's site goes dark: powered off, failed with reason SUPPLY, and reported (Table 17-3). -/
def darkSite (i : Nat) (d : Domain) (mv : Nat) (inj : Bool) (s : State) : State :=
  loseSites .dark [i] 10 inj (raise1 (evSite 0x0804 0 i (domainCode d) mv) s)

/-- A limit that a lost phase lowers is reported for a compute die. -/
def ceilingLowered (i : Nat) (d : Domain) (old new : Nat) (s : State) : State :=
  if placeRole i = 1 ∧ new < old then raise1 (evSite 0x0803 0 i (domainCode d) new) s else s

/-- The effective limit of a compute die's domain in 0.1 A. -/
def domainLimit (s : State) (i : Nat) : Domain → Nat
  | .logic => effCeiling s i
  | _ => arrayLimit s i

/-- PHASE_LOST (R497, R498): a phase is disconnected, and the others carry the load. -/
def execPhaseLost (p : SiteId) (d : Domain) (phase : Fin 16) (time : Nat) (s : State) : Out :=
  let i := siteNo p
  let k := domainIndex d
  if !siteLive s i || !hasDomain (placeRole i) d || !bitAt (phaseMask s i k) phase.val then .next s
  else
    let s := settleBoost (atTime time s)
    let j := examine 24 (fun j => aimsAt i j && j.sub == domainCode d && j.sub2 == phase.val) s
    let s := j.2
    let old := domainLimit s i d
    let m := phaseMask s i k - 2 ^ phase.val
    let s := modPwr i (fun p => { p with phases := modAt p.phases k (fun _ => some m), losses := satInc 0xFFFFFFFF p.losses }) s
    let n := workingPhases s i k
    let s := raise1 (evSite 0x0802 0 i (256 * domainCode d + phase.val) n) s
    let s := ceilingLowered i d old (domainLimit s i d) s
    let s := logAdd { logBlank 8 with
      injected := j.1, part := ownerOf s i, x := siteX i, y := siteY i, addr := domainCode d, status := 0x0802, detail := n } s
    .next (scoreWear j.1 i 4 20000 s)

/-- Whether a sensor reading is too low for F600 (Table 17-3). -/
def readingDark (d : Domain) (mv : Nat) : Bool :=
  match d with
  | .logic => decide (mv < 520)
  | .array => decide (mv < 670)
  | _ => false

/-- DOMAIN_DARK (R497): a domain with too few phases, or a compute domain whose lowest sensor is too low. -/
def execDomainDark (p : SiteId) (d : Domain) (mv : Nat) (time : Nat) (s : State) : Out :=
  let i := siteNo p
  let few := decide (workingPhases s i (domainIndex d) < leastPhases (placeRole i) d)
  if !siteLive s i || !hasDomain (placeRole i) d || !(few || (placeRole i == 1 && readingDark d mv)) then .next s
  else .next (darkSite i d mv false (atTime time s))

/-- A trip of a site with an event's code is on record for the present tick. -/
def trippedNow (s : State) (i code : Nat) : Bool :=
  s.err.log.recs.any (fun r => r.cls == 10 && r.status == code && r.x == siteX i && r.y == siteY i && r.tick == tickOf s)

/-- The event and the record of a site's eFuse trip. -/
def reportSiteTrip (i : Nat) (overload : Bool) (peak : Nat) (inj : Bool) (s : State) : State :=
  logAdd { logBlank 10 with
    injected := inj, part := ownerOf s i, x := siteX i, y := siteY i, status := 0x0800, detail := peak }
    (raise1 (evSite 0x0800 0 i (b2n overload) peak) s)

/-- A site whose die has met its hard limit and whose eFuse trips in the same tick has failed with reason SITE_EFUSE
(R532). -/
def overrideReason (i : Nat) (s : State) : State :=
  recordChange (fun s => recordFailure i 8 (modEntry i (entrySet .failed 8) s)) (modPwr i (fun p => { p with mode := .tripped }) s)

/-- SITE_TRIP (R497): a site's eFuse trips. -/
def execSiteTrip (p : SiteId) (overload : Bool) (peak : Nat) (time : Nat) (s : State) : Out :=
  let i := siteNo p
  let t := atTime time s
  if siteLive s i then
    let j := examine 26 (aimsAt i) t
    .next (loseSites .tripped [i] 8 j.1 (reportSiteTrip i overload peak j.1 j.2))
  else if trippedNow t i 0x0906 && (entryAt s i).reason == 9 then
    .next (overrideReason i (reportSiteTrip i overload peak false t))
  else .next s

/-- The waiting power-ons of a quadrant end with a status. -/
def endWaiting (n status : Nat) (s : State) : State :=
  (quadOf s n).waiting.foldl (fun s w => complete w.cmd status 0 s) (modQuad n (fun q => { q with waiting := [] }) s)

/-- QUADRANT_TRIP (R497, R499, R510): a quadrant's eFuse trips. -/
def execQuadrantTrip (n : Fin 4) (overload : Bool) (peak : Nat) (time : Nat) (s : State) : Out :=
  if !(quadOf s n.val).closed || !s.pwr.good then .next s
  else
    let j := examine 27 (fun j => j.x == n.val) (atTime time s)
    let s := raiseCritical (evPlain 0x0801 n.val (b2n overload) peak) j.2
    let s := logAdd { logBlank 10 with injected := j.1, addr := n.val, status := 0x0801, detail := peak } s
    let s := endWaiting n.val stFault (modQuad n.val (fun q => { q with closed := false }) s)
    .next (loseSites .tripped ((presentSites s).filter (fun i => quadrantOf i == n.val)) 8 j.1 s)

/-! ## Sensors (R490, R491) -/

/-- The voltage sensors of a domain: 64 and 16 on a compute die; the spec does not count those of other dies (log entry
34). -/
def sensorCount (i : Nat) (d : Domain) : Nat :=
  if placeRole i = 1 then (match d with | .logic => 64 | _ => 16)
  else 1 + Config.sensorsOf (placeRole i) (domainCode d) % 64

/-- SENSOR_RETIRED (R491). -/
def execSensorRetired (p : SiteId) (d : Domain) (sensor : Fin 64) (mv : Nat) (time : Nat) (s : State) : Out :=
  let i := siteNo p
  let c := domainCode d
  if !siteLive s i || !hasDomain (placeRole i) d || !decide (sensor.val < sensorCount i d)
      || (pwrOf s i).retired.contains (c, sensor.val) then .next s
  else
    let j := examineInj 21 (fun j => aimsAt i j && j.sub == c && j.sub2 == sensor.val) (atTime time s)
    let mv := ((mv : Int) + (match j.1 with | some x => x.value | none => 0)).toNat
    let inj := j.1.isSome
    let s := modPwr i (fun p => { p with retired := p.retired ++ [(c, sensor.val)] }) j.2
    let s := raise1 (evSite 0x0809 0 i (256 * c + sensor.val) mv) s
    let s := logAdd { logBlank 7 with
      injected := inj, part := ownerOf s i, x := siteX i, y := siteY i, addr := c, status := 0x0809, detail := mv } s
    let s := scoreWear inj i 3 5000 s
    let gone := ((pwrOf s i).retired.filter (fun x => x.1 == c)).length
    .next (if 2 * (sensorCount i d - gone) < sensorCount i d then darkSite i d mv inj s else s)

/-! ## Paths (R500, R501) -/

/-- The rated maximum current of a domain in mA: 10 A for each needed phase (DEDUCED, log entry 34). -/
def ratedMax (role : Nat) (d : Domain) : Nat := 10000 * neededPhases role d

/-- The baseline of a path in nΩ (log entry 4). -/
def baselineOf (s : State) (i : Nat) (d : Domain) : Nat := mapGetD s.boot.baselines (4 * i + domainCode d) 100000

/-- A path after a valid estimate in thousandths of its baseline. -/
def pathNext (r : Nat) (p : PathState) : PathState :=
  let isOver := decide (1250 < r)
  let p := { p with ratio := r, above := if isOver then p.above + 1 else 0, below := if isOver then 0 else p.below + 1 }
  if !p.degraded && decide (100 ≤ p.above) then { p with degraded := true }
  else if p.degraded && decide (1000 ≤ p.below) then { p with degraded := false }
  else p

/-- What a path's change reports. -/
def pathChange (i : Nat) (d : Domain) (old new : PathState) (inj : Bool) (s : State) : State :=
  if old.degraded = new.degraded then s
  else if new.degraded then scoreWear inj i 5 30000 (raise1 (evSite 0x0805 0 i (domainCode d) new.ratio) s)
  else raise1 (evSite 0x0806 0 i (domainCode d) new.ratio) s

/-- PATH_ESTIMATE (R500): one tick's estimate of a path. -/
def execPathEstimate (p : SiteId) (d : Domain) (r : PathReading) (time : Nat) (s : State) : Out :=
  let i := siteNo p
  if !siteLive s i || !hasDomain (placeRole i) d then .next s
  else
    let s := atTime time s
    let put (f : PathState → PathState) (s : State) : State :=
      modPwr i (fun x => { x with paths := modAt x.paths (domainCode d) f }) s
    if 4 * r.cur < ratedMax (placeRole i) d then .next (put (fun x => { x with ratio := 0 }) s)
    else
      let j := examineInj 25 (fun j => aimsAt i j && j.sub == domainCode d) s
      let e : Int := ((r.vout - r.vavg) * 1000000000000 / (r.cur * baselineOf s i d) : Nat)
        + (match j.1 with | some x => x.value | none => 0)
      let old := (pwrOf s i).paths.getD (domainCode d) pathZero
      let new := pathNext e.toNat old
      .next (pathChange i d old new j.1.isSome (put (fun _ => new) j.2))

/-! ## Power-ons (R504, R507, R522) -/

/-- Power-ons are refused: the input lies outside its range, the coolant has stopped, or its flow is critical or unknown. -/
def powerOnRefused (s : State) : Bool :=
  s.pwr.range != .normal || s.cool.stopped || s.cool.critical || (s.cool.dp.retired && s.cool.th.retired)

/-- The inrush of a site's power-on in A (Table 17-5). -/
def siteInrush (i : Nat) : Nat := if placeRole i = 1 then 8 else if placeRole i = 4 then 2 else 4

/-- A site's domains ramp: 200 µs from the closing of its eFuse (Table 17-5). The mode stays `ramping` until the die's restart
is complete. -/
def rampsNow (s : State) (i : Nat) : Bool :=
  modeOf s i == .ramping && decide (s.now < (pwrOf s i).rampAt + 200000)

/-- The condition of R504. -/
def mayBegin (s : State) (n inrush : Nat) : Bool :=
  !dieSites.any (fun i => quadrantOf i == n && rampsNow s i)
    && decide (quadPeak s n + 1000 * inrush ≤ 150000)

/-- A site's ramp begins: every phase is tested and connected again, and retired sensors and diodes return (R491, R498,
R525). -/
def beginRamp (i : Nat) (s : State) : State :=
  let s := modPwr i (fun p => { p with mode := .ramping, rampAt := s.now, phases := copies 3 none, retired := [] }) s
  { s with cool := { s.cool with hot := mapDelRange s.cool.hot (8 * i) 8 } }

/-- LANES takes effect (R509): a link that loses an active lane retrains with those that stay, or goes down. -/
def applyLanes (c : Cmd) (l mask : Nat) (s : State) : State :=
  let x := linkOf s l
  let pos := l % 4
  let act := activeLanes x.mask x.width
  let lost := x.phase == .up && act.any (fun n => !bitAt mask n)
  let s := modPwr (linkSite l) (fun p => { p with lanePwr := setFld p.lanePwr (4 * pos + 3) (4 * pos) mask }) s
  if !lost then complete c stOk 0 s
  else if mask = 0 then complete c stOk 0 (linkLost l s)
  else
    let test := act.foldl (fun m n => if bitAt mask n then m + 2 ^ n else m) 0
    modLink l (fun x => { x with cmd := some c, exempt := true, fails := 0 }) (beginTraining l test 3 s)

/-- A power-on begins: a site ramps; any other takes effect. -/
def beginPowerOn (n : Nat) (w : PowerOnWait) (s : State) : State :=
  let s := modQuad n (fun q => { q with waiting := q.waiting.erase w }) s
  if w.op = 1 then beginRamp w.site (modPwr w.site (fun p => { p with acting := some w.cmd }) s)
  else if w.op = 4 then
    complete w.cmd stOk 0 (restartPatrol (stackOfSite w.site) (modPwr w.site (fun p => { p with mode := .on }) s))
  else if w.op = 5 then applyLanes w.cmd (4 * linkDieOfSite w.site + w.arg % 4) (w.arg / 4) s
  else
    let s := dieSites.foldl (fun s i =>
      if quadrantOf i = n ∧ modeOf s i = .tripped then modPwr i (fun p => { p with mode := .off }) s else s) s
    complete w.cmd stOk 0 (modQuad n (fun q => { q with closed := true }) s)

/-- The first waiting power-on of a quadrant begins where the condition holds. -/
def tryBegin (n : Nat) (s : State) : State :=
  match (quadOf s n).waiting with
  | [] => s
  | w :: _ => if mayBegin s n w.inrush then beginPowerOn n w s else s

/-- POWER_ON_BEGIN (R504). -/
def execPowerOnBegin (n : Fin 4) (time : Nat) (s : State) : Out := .next (tryBegin n.val (atTime time s))

/-- POWER_ON_TIMEOUT (R504): a power-on that has not begun 20 ms after it was taken. -/
def execPowerOnTimeout (n : Fin 4) (time : Nat) (s : State) : Out :=
  let t := atTime time s
  match (quadOf s n.val).waiting.find? (fun w => decide (w.cmd.time + 20000000 ≤ t.now)) with
  | none => .next s
  | some w => .next (complete w.cmd stNoHeadroom 0 (modQuad n.val (fun q => { q with waiting := q.waiting.erase w }) t))

/-! ## A die that starts (R480, R507) -/

/-- A processor starts with its die: running the active bundle, its hold released (R484); it reports what has waited for it
(R459). -/
def procFromReset (n : Nat) (s : State) : State :=
  let was := procHeld s n
  let w := (procOf s n).waitedBy
  let s := modProc n (fun p => { p with
    run := .running, cause := 5, restarts := satInc 0xFFFFFFFF p.restarts, lastTick := tickOf s
    version := activeVersion s, since := s.now, waitedBy := none }) s
  let s := flushLatched n s
  let s := if was then raise1 (evPlain 0x0702 n 1 0) s else s
  completeOpt w stOk 0 (raise1 (evPlain 0x0700 n 5 0) s)

/-- The cores that a self-test no longer passes. -/
def lostCores (s : State) (i : Nat) (r : SelfTest) : List Nat :=
  if placeRole i = 1 then
    (siteCores i).filter (fun k => bitAt (entryAt s i).coreGood.toNat (coreBit k) && !bitAt r.coreGood.toNat (coreBit k))
  else []

/-- What a returning die's identity and self-test do to its entry: a failed die stays failed; one that passes keeps its
state, less the cores that fail (R37, R480, R507). -/
def dieTested (i : Nat) (r : SelfTest) (s : State) : State :=
  let why := testReason s i r
  if (entryAt s i).state = .failed then s
  else if why ≠ 0 then
    let s := recordChange (fun s => recordFailure i why (modEntry i (entrySet .failed why) s)) s
    logAdd { logFailure i why false with part := ownerOf s i } s
  else oneChange (fun s => (lostCores s i r).foldl (fun s k => failCore k false s) s) s

/-- Every good core of a die loads microcode (R471). -/
def loadCores (i : Nat) (s : State) : State :=
  (siteCores i).foldl (fun s k => if bitAt (entryAt s i).coreGood.toNat (coreBit k) then loadMicro k s else s) s

/-- A link die's links train with every lane, and its tables are loaded again (R401, R480). -/
def startLinks (i : Nat) (s : State) : State :=
  let s := { s with parts := s.parts.map (fun p => { p with rankSince := mapDel p.rankSince i }) }
  (List.range 4).foldl (fun s n => beginTraining (4 * linkDieOfSite i + n) 15 3 s) s

/-- Steps 2 to 4 of R480: the processor runs, the die is tested, and it starts by role. -/
def dieStarts (i : Nat) (r : SelfTest) (s : State) : State :=
  let s := match procOfSite i with | some n => procFromReset n s | none => s
  let s := modPwr i (fun p => { p with inReset := false }) s
  let s := dieTested i r s
  if (entryAt s i).state = .failed then s
  else if placeRole i = 1 then loadCores i s
  else if placeRole i = 3 then startLinks i s
  else s

/-- SITE_ON_COMPLETE (R507): the ramp has ended and the die has started. -/
def execSiteOnComplete (p : SiteId) (r : SelfTest) (time : Nat) (s : State) : Out :=
  let i := siteNo p
  match (pwrOf s i).mode, (pwrOf s i).acting with
  | .ramping, some c =>
    let s := modPwr i (fun p => { p with mode := .on, acting := none }) (atTime time s)
    let s := dieStarts i r s
    .next (complete c stOk (siteStateCode (entryAt s i).state) s)
  | _, _ => .next s

/-! ## POWER_SET (R502 to R510) -/

def psOp (pay : List Byte) : Nat := leAt pay 0 1
def psX (pay : List Byte) : Nat := leAt pay 1 1
def psY (pay : List Byte) : Nat := leAt pay 2 1
def psPos (pay : List Byte) : Nat := leAt pay 3 1
def psMask (pay : List Byte) : Nat := leAt pay 4 1
/-- The site of the payload. -/
def psSite (pay : List Byte) : Nat := 16 * psY pay + psX pay
/-- The quadrant of the payload. -/
def psQuad (pay : List Byte) : Nat := if psOp pay = 6 then psX pay else quadrantOf (psSite pay)

/-- Check 2 of R503. -/
def psBad (c : Cmd) (pay : List Byte) : Bool :=
  let op := psOp pay
  let role := placeRole (psSite pay)
  cmdPart c != 0xFF || op == 0 || decide (6 < op) || !zeroAt pay 5 3
    || (op != 5 && (psPos pay != 0 || psMask pay != 0)) || decide (3 < psPos pay) || decide (15 < psMask pay)
    || (if op = 6 then decide (3 < psX pay) || psY pay != 0
        else decide (15 < psX pay) || decide (13 < psY pay) || !isDieSite (psSite pay)
          || ((op == 3 || op == 4) && role != 2) || (op == 5 && role != 3))

/-- A site changes under an earlier POWER_SET. -/
def siteChanging (s : State) (i : Nat) : Bool :=
  (pwrOf s i).acting.isSome || modeOf s i == .ramping
    || (quadOf s (quadrantOf i)).waiting.any (fun w => w.op != 6 && w.site == i)
    || (placeRole i == 3 && (List.range 4).any (fun n =>
      match (linkOf s (4 * linkDieOfSite i + n)).cmd with | some c => cmdOp c == 0x0800 | none => false))

/-- Whether a bay is running, held, in point change, draining or done. -/
def bayActive (b : Bay) : Bool :=
  [BayMode.running, .held, .pointChange, .draining, .done].contains b.mode

/-- The refusals of R505. -/
def offBusy (s : State) (i : Nat) : Bool :=
  let part := ownerOf s i
  let role := placeRole i
  (role == 1 && s.bays.any (fun p => bayActive p.2 && (baySites p.2).contains i))
    || (role != 1 && part != 0xFF && s.bays.any (fun p => bayActive p.2 && p.2.part == part))
    || ((role == 3 || role == 4) && part != 0xFF && (partOf s part).purlins.any purlinBusy)
    || (role == 4 && s.installs.any (fun x => x.todo.any (fun e => e.ws == wstoreOfSite i)))

/-- The lanes that a LANES operation powers on. -/
def newLanes (s : State) (pay : List Byte) : Nat :=
  let now := lanesPowered s (4 * linkDieOfSite (psSite pay) + psPos pay)
  ((List.range 4).filter (fun n => bitAt (psMask pay) n && !bitAt now n)).length

/-- The operation would change nothing, and completes OK (R503). -/
def psNoChange (s : State) (pay : List Byte) : Bool :=
  let i := psSite pay
  let op := psOp pay
  (op == 1 && sitePowered s i) || (op == 2 && !sitePowered s i && (quadOf s (quadrantOf i)).closed)
    || (op == 3 && modeOf s i == .selfRefresh) || (op == 4 && modeOf s i == .on)

/-- Whether the operation is a power-on. -/
def psPowersOn (s : State) (pay : List Byte) : Bool :=
  let op := psOp pay
  op == 1 || op == 4 || op == 6 || (op == 5 && decide (0 < newLanes s pay))

/-- A power-on waits in its quadrant, and begins at once where it may. -/
def queuePowerOn (c : Cmd) (pay : List Byte) (s : State) : State :=
  let op := psOp pay
  let i := psSite pay
  let a := if op = 1 then siteInrush i else if op = 5 then newLanes s pay else 2
  let n := psQuad pay
  tryBegin n (modQuad n (fun q => { q with waiting := q.waiting ++ [⟨c, op, i, psPos pay + 4 * psMask pay, a⟩] }) s)

/-- The operation, once its checks have passed. -/
def applyPower (c : Cmd) (pay : List Byte) (s : State) : State :=
  let i := psSite pay
  if psPowersOn s pay then queuePowerOn c pay s
  else if psOp pay = 2 then complete c stOk 0 (endDieReset i (recordDark [i] (unpowerSites .off [i] s)))
  else if psOp pay = 3 then complete c stOk 0 (modPwr i (fun p => { p with mode := .selfRefresh }) s)
  else applyLanes c (4 * linkDieOfSite i + psPos pay) (psMask pay) s

/-- POWER_SET: the checks of R503 in their order. -/
def doPowerSet (c : Cmd) (pay : List Byte) (s : State) : State :=
  let op := psOp pay
  let i := psSite pay
  let q := quadOf s (psQuad pay)
  checked c [(decide (pay.length ≠ 8), stBadLength), (psBad c pay, stBadField), (op != 6 && siteAbsent s i, stUnitAbsent)]
    (needProc (kingPtc s) c pay (fun s =>
      checked c [(if op = 6 then q.closed || q.waiting.any (fun w => w.op == 6) else siteChanging s i, stBusy)]
        (fun s =>
          if op ≠ 6 ∧ psNoChange s pay then complete c stOk 0 s
          else checked c
            [((op == 2 || op == 3) && sitePowered s i && offBusy s i, stBusy),
             (op != 6 && ((op != 1 && !sitePowered s i) || !q.closed), stNotReady),
             (psPowersOn s pay && powerOnRefused s, stNoHeadroom)] (applyPower c pay) s) s)) s

/-- SITE_ON. -/
def execSiteOn (c : Cmd) (s : State) : Out := runRow c 0x0800 doPowerSet s
/-- SITE_OFF. -/
def execSiteOff (c : Cmd) (s : State) : Out := runRow c 0x0800 doPowerSet s
/-- SELF_REFRESH_ENTER. -/
def execSelfRefreshEnter (c : Cmd) (s : State) : Out := runRow c 0x0800 doPowerSet s
/-- SELF_REFRESH_EXIT. -/
def execSelfRefreshExit (c : Cmd) (s : State) : Out := runRow c 0x0800 doPowerSet s
/-- LANES. -/
def execLanes (c : Cmd) (s : State) : Out := runRow c 0x0800 doPowerSet s
/-- QUADRANT_ON. -/
def execQuadrantOn (c : Cmd) (s : State) : Out := runRow c 0x0800 doPowerSet s

/-! ## CEILING_SET (R511) -/

/-- CEILING_SET. -/
def doCeilingSet (c : Cmd) (pay : List Byte) (s : State) : State :=
  let scope := leAt pay 0 1
  let x := leAt pay 1 1
  let y := leAt pay 2 1
  let i := 16 * y + x
  let off := bitAt (leAt pay 3 1) 0
  let v := leAt pay 4 4
  let range := if scope = 0 then 45 ≤ v ∧ v ≤ 140 else 2000 ≤ v ∧ v ≤ 25000
  checked c [(decide (pay.length ≠ 8), stBadLength),
      (cmdPart c != 0xFF || decide (1 < scope) || decide (1 < leAt pay 3 1) || (v == 0) != off || (!off && !decide range)
        || (scope == 0 && (decide (15 < x) || decide (13 < y) || placeRole i != 1))
        || (scope == 1 && (x != 0 || y != 0)), stBadField),
      (scope == 0 && siteAbsent s i, stUnitAbsent)]
    (needProc (kingPtc s) c pay (fun s =>
      let u := if off then none else some v
      let s := settleBoost s
      complete c stOk 0 (if scope = 0 then modPwr i (fun p => { p with ceilHost := u }) s
        else { s with pwr := { s.pwr with ceil := u } }))) s

/-- CEILING_SET. -/
def execCeilingSet (c : Cmd) (s : State) : Out := runRow c 0x0802 doCeilingSet s

/-! ## POWER_STATUS (R512) -/

/-- PSTATE. -/
def pstateCode (s : State) (i : Nat) : Nat :=
  if siteAbsent s i then 0
  else if !isDieSite i then 7
  else match modeOf s i with
    | .off => 1 | .ramping => if rampsNow s i then 2 else 3 | .on => 3 | .selfRefresh => 4 | .tripped => 5 | .dark => 6

/-- DOMAINS. -/
def domainsOn (s : State) (i : Nat) : Nat :=
  let all := (if placeRole i = 3 then 5 else 3) + (if placeRole i = 2 then 8 else 0)
  match modeOf s i with
  | .on => all
  | .ramping => if rampsNow s i then 0 else all
  | .selfRefresh => 3
  | _ => 0

/-- The 64 bytes of a site record (Table 17-9). -/
def powerSiteBytes (s : State) (i : Nat) : List Byte :=
  let p := pwrOf s i
  let role := placeRole i
  let head := natLe 1 (siteX i) ++ natLe 1 (siteY i) ++ natLe 1 (pstateCode s i)
  if siteAbsent s i ∨ !isDieSite i then head ++ copies 61 0
  else
    let ratio := p.paths.foldl (fun m x => max m x.ratio) 0
    head ++ natLe 1 (domainsOn s i) ++ natLe 2 (phaseMask s i 0) ++ natLe 1 (phaseMask s i 1) ++ natLe 1 (phaseMask s i 2)
      ++ p.cur.flatMap (natLe 4) ++ natLe 4 p.branch ++ natLe 2 (if role = 1 then effCeiling s i else 0)
      ++ natLe 2 (match p.ceilHost with | some a => 10 * a | none => 0) ++ natLe 2 p.vminLogic ++ natLe 2 p.vminArray
      ++ natLe 2 (min 0xFFFF ratio)
      ++ natLe 1 (b2n p.demand.shown + 2 * b2n (p.paths.any (fun x => x.degraded)) + 4 * b2n (role == 1 && hasHeadroom s i))
      ++ natLe 1 p.retired.length ++ natLe 2 (if role = 3 then p.lanePwr else 0) ++ copies 2 0 ++ natLe 4 p.losses
      ++ copies 16 0

/-- The 64 bytes of the header (Table 17-8). -/
def powerHeader (s : State) : List Byte :=
  let p := s.pwr
  let bits (f : QuadPwr → Bool) : Nat := p.quads.zipIdx.foldl (fun m q => m + (if f q.1 then 2 ^ q.2 else 0)) 0
  natLe 2 1 ++ copies 2 0 ++ natLe 4 p.inputMv ++ natLe 4 p.inputMa ++ natLe 4 (p.ceil.getD 0)
    ++ p.quads.flatMap (fun q => natLe 4 q.ma) ++ (List.range 4).flatMap (fun n => natLe 2 (quadPeak s n / 100))
    ++ natLe 1 (bits (fun q => q.closed) + 16 * bits (fun q => q.limit.shown))
    ++ natLe 1 (b2n p.limit.shown + 2 * b2n (p.range != .normal)) ++ copies 2 0 ++ natLe 4 p.auxMw ++ natLe 8 p.tick
    ++ copies 8 0

/-- The checks of a status command that takes BUF_LEN and BUF_ADDR, with the PART rule of R502. -/
def statusChecks (c : Cmd) (need : Nat) (pay : List Byte) : List (Bool × Nat) :=
  [(decide (pay.length ≠ 16), stBadLength), (cmdPart c != 0xFF || !zeroAt pay 0 4, stBadField),
   (bufStatus c (leAt pay 8 8) (leAt pay 4 4) need != stOk, bufStatus c (leAt pay 8 8) (leAt pay 4 4) need)]

/-- POWER_STATUS. -/
def doPowerStatus (c : Cmd) (pay : List Byte) (s : State) : State :=
  checked c (statusChecks c 14400 pay)
    (needProc (kingPtc s) c pay (fun s =>
      completeWithBuf c (leAt pay 8 8) (powerHeader s ++ (List.range 224).flatMap (powerSiteBytes s)) 0 s)) s

/-- POWER_STATUS. -/
def execPowerStatus (c : Cmd) (s : State) : Out := runRow c 0x0801 doPowerStatus s

end Sys2Proof.Machine
end

