-- ==== Sys2Proof/Machine/Firmware.lean ====
section
/-! DEFINITION. Firmware processors and their watchdogs, firmware bundles and their apply (R455 to R470, R577). -/

namespace Sys2Proof.Machine

/-! ## Processors (Table 16-1, R456, R458, R461) -/

/-- The restart bound of a processor in ns. -/
def restartBound (n : Nat) : Nat :=
  if n < 2 then 1500000000 else if n < 4 then 200000000 else if n < 16 then 500000000 else 1000000000

/-- Counted restarts within the last 600 s. -/
def windowCount (s : State) (n : Nat) : Nat :=
  ((procOf s n).counted.filter (fun t => decide (s.now < t + 600000000000))).length

/-- The processor's site is absent. -/
def procAbsent (s : State) (n : Nat) : Bool := decide (4 ≤ n) && siteAbsent s (siteOfProc n)
/-- The processor's site is unpowered. -/
def procUnpowered (s : State) (n : Nat) : Bool := !sitePowered s (siteOfProc n)
/-- The processor's site has failed. -/
def procFailed (s : State) (n : Nat) : Bool := (entryAt s (siteOfProc n)).state == .failed

/-- A command in progress ends because its processor stops or restarts. -/
def cutCmd (status detail : Nat) (c : Option Cmd) (s : State) : State := completeOpt c status detail s

/-- The power-ons that wait are given up by the controller that evaluates them. -/
def cutWaiting (status : Nat) (s : State) : State := (List.range 4).foldl (fun s n => endWaiting n status s) s

/-- The commands in progress that a die supervisor executes: stops and point changes of bays on its die, and its die's
retest. -/
def cutSupervisor (i status : Nat) (s : State) : State :=
  let s := (baysOnSite s i).foldl (fun s n =>
    match bayOf s n with
    | some b =>
      let s := cutCmd status 1 (b.stop.bind (fun q => q.cmd)) s
      cutCmd status 1 (b.change.map (fun p => p.cmd)) s
    | none => s) s
  let c := mapGet? s.fp.retests i
  cutCmd status 1 c { s with fp := { s.fp with retests := mapDel s.fp.retests i } }

/-- Whether a command waits for a processor to restart. -/
def waitsForProc (s : State) (c : Cmd) : Bool := s.fw.waiting.any (fun w => w.cmd == c)

/-- Whether a command in progress has taken none of its effect: it waits for a processor, or its token waits for room. -/
def notBegun (s : State) (c : Cmd) : Bool := waitsForProc s c || s.host.tokens.any (fun w => w.cmd == c)

/-- What waits for a command that has completed waits no longer. -/
def dropWaits (s : State) : State :=
  { s with
    fw := { s.fw with waiting := s.fw.waiting.filter (fun w => isInProgress w.cmd s), stage := none }
    host := { s.host with tokens := s.host.tokens.filter (fun w => isInProgress w.cmd s) } }

/-- Every command in progress completes with a status: the panel controller that runs them stops or restarts. A stage in
progress leaves the inactive bank invalid (R448, R466). -/
def cutAll (status : Nat) (s : State) : State :=
  dropWaits (s.inProgress.foldl (fun u t => complete t.cmd status (b2n (!notBegun s t.cmd)) u) (dropHostImages status s))

/-- Every command in progress whose execution involves a processor completes with a status; DETAIL bit 0 is set where it
may have taken part of its effect (R448, R460, R462). -/
def cutCommands (n status : Nat) (s : State) : State :=
  if n = kingPc s then cutAll status s
  else if n = kingPtc s then
    let s := cutWaiting status s
    (s.inProgress.filter (fun t => cmdOp t.cmd == 0x0800 && !waitsForProc s t.cmd)).foldl
      (fun s t => complete t.cmd status 1 s) s
  else if n < 4 then s
  else if n < 16 then
    (List.range 4).foldl (fun s j =>
      let l := 4 * (n - 4) + j
      cutCmd status 1 (linkOf s l).cmd (modLink l (fun x => { x with cmd := none }) s)) s
  else cutSupervisor (siteOfProc n) status s

/-- A log record of a processor's restart. -/
def logRestart (n code : Nat) (inj : Bool) (s : State) : State :=
  logAdd { logBlank 11 with
    injected := inj, x := siteX (siteOfProc n), y := siteY (siteOfProc n), addr := n, status := code } s

/-- A processor begins to restart with a cause of Table 16-5; no hardware is reset (R457, R459). -/
def beginRestart (n cause : Nat) (inj : Bool) (s : State) : State :=
  let s := modProc n (fun p => { p with
    run := .starting, cause := cause, restarts := satInc 0xFFFFFFFF p.restarts, lastTick := tickOf s, version := 0
    since := s.now, counted := if cause = 1 ∨ cause = 2 then p.counted ++ [s.now] else p.counted }) s
  logRestart n 0x0700 inj (cutCommands n stFwRestarted s)

/-! ## The apply of a bundle (R468 to R470) -/

/-- The order in which an apply restarts processors, less the last one. -/
def applyOrder (s : State) : List Nat :=
  (List.range 208).map (fun m => m + 16) ++ (List.range 12).map (fun k => k + 4)
    ++ [1 - kingPc s, 5 - kingPtc s, kingPtc s]

/-- A processor that the apply restarts: it runs another version than the active one. -/
def applyTakes (s : State) (n : Nat) : Bool :=
  !procAbsent s n && !procUnpowered s n && !procFailed s n && procRuns s n && (procOf s n).version != activeVersion s

/-- The next processor of the apply after the one that it restarts. -/
def applyNext (s : State) : Option Nat :=
  let l := applyOrder s
  let rest := match s.fw.applyAt with
    | none => l
    | some n => (l.dropWhile (fun m => m != n)).drop 1
  rest.find? (applyTakes s)

/-- The apply goes on: the next processor restarts; after the last one the command completes, and the king post's panel
controller restarts. -/
def goOnApply (s : State) : State :=
  match applyNext s with
  | some n => beginRestart n 4 false { s with fw := { s.fw with applyAt := some n } }
  | none =>
    let v := activeVersion s
    let c := s.fw.applyCmd
    let s := { s with fw := { s.fw with apply := .idle, applyAt := none, applyCmd := none } }
    beginRestart (kingPc s) 4 false (raise1 (evPlain 0x0703 0 0 v) (completeOpt c stOk v s))

/-- The apply stops because the processor that it restarts is held (R469). -/
def stopApply (n : Nat) (s : State) : State :=
  if s.fw.applyAt ≠ some n then s
  else
    let c := s.fw.applyCmd
    let s := { s with fw := { s.fw with apply := .stopped, applyAt := none, applyCmd := none } }
    raise1 (evPlain 0x0704 n 0 (activeVersion s)) (completeOpt c stFault n s)

/-- Commands that wait for a processor complete with a status. -/
def endWaits (n status : Nat) (s : State) : State :=
  (s.fw.waiting.filter (fun w => w.proc == n)).foldl (fun s w => complete w.cmd status 0 s)
    { s with fw := { s.fw with waiting := s.fw.waiting.filter (fun w => w.proc != n) } }

/-- A processor is held in its safe state: it is halted, and its hardware keeps its settings (R461, R462). -/
def holdProc (n : Nat) (inj : Bool) (s : State) : State :=
  let w := (procOf s n).waitedBy
  let s := modProc n (fun p => { p with run := .held, counted := p.counted ++ [s.now], version := 0, waitedBy := none }) s
  let s := endWaits n stFault (completeOpt w stFault 0 (cutCommands n stFault s))
  stopApply n (raise1 (evPlain 0x0701 n 0 (tickOf s)) (logRestart n 0x0701 inj s))

/-- A counted restart, or the hold in its place where it would be the third within 600 s. A watchdog restart of a die
supervisor whose die is in reset is absorbed (R461, R484). -/
def countedRestart (n cause : Nat) (inj : Bool) (s : State) : State :=
  if siteInReset s (siteOfProc n) then s
  else if 2 ≤ windowCount s n then holdProc n inj s
  else beginRestart n cause inj s

/-- Whether the mailbox's command, which its CMD_ID names, has waited for the king post's panel controller for its restart
bound and 1 s more (R460). -/
def mailExpired (id : BitVec 32) (s : State) : Bool :=
  mailWaits s && procStarts s (kingPc s) && (mailCmd s.host.mbSince s).entry.cmdId == id
    && decide (s.host.mbSince + restartBound (kingPc s) + 1000000000 ≤ s.now)

/-- The mailbox's command ends with a status before firmware has taken it. -/
def endMail (time status : Nat) (s : State) : State :=
  let c := mailCmd time s
  complete c status 0 (takeCmd c s)

/-- FW_WAIT_EXPIRED (R460): a command has waited for the restart bound of its processor and 1 s more. -/
def execFwWaitExpired (id : BitVec 32) (time : Nat) (s : State) : Out :=
  let t := atTime time s
  match s.fw.waiting.find? (fun w => w.cmd.entry.cmdId == id
      && decide (w.since + restartBound w.proc + 1000000000 ≤ t.now)) with
  | none => if mailExpired id t then .next (endMail time stFault t) else .next s
  | some w => .next (complete w.cmd stFault 0 { t with fw := { t.fw with waiting := t.fw.waiting.erase w } })

/-- A restarted processor runs again: latched events, its own event, and the FW_PROC_RESTART that waits for it. -/
def procRunsAgain (n : Nat) (s : State) : State :=
  let w := (procOf s n).waitedBy
  let s := modProc n (fun p => { p with run := .running, version := activeVersion s, waitedBy := none }) s
  let s := flushLatched n s
  let s := raise1 (evPlain 0x0700 n (procOf s n).cause (windowCount s n)) s
  completeOpt w stOk 0 s

/-! ## FW_PROC_RESTART (R464) -/

/-- FW_PROC_RESTART. -/
def doFwProcRestart (c : Cmd) (pay : List Byte) (s : State) : State :=
  let n := leAt pay 0 2
  let rel := bitAt (leAt pay 2 1) 0
  checked c [(decide (pay.length ≠ 8), stBadLength),
      (decide (223 < n) || decide (1 < leAt pay 2 1) || !zeroAt pay 3 5, stBadField),
      (procAbsent s n, stUnitAbsent), (procUnpowered s n || procFailed s n || s.host.parked, stNotReady),
      (procStarts s n || (procHeld s n && !rel), stBusy)]
    (fun s =>
      let s := if procHeld s n then raise1 (evPlain 0x0702 n 0 0) s else s
      let s := if rel then modProc n (fun p => { p with counted := [] }) s else s
      if n = kingPc s then beginRestart n 3 false (complete c stOk 0 s)
      else modProc n (fun p => { p with waitedBy := some c }) (beginRestart n 3 false s)) s

/-- FW_PROC_RESTART. -/
def execFwProcRestart (c : Cmd) (s : State) : Out := runRow c 0x0703 doFwProcRestart s

/-! ## FW_STATUS (R465) -/

/-- The component kind of a processor (Table 16-7). -/
def procKind (n : Nat) : Nat :=
  if n < 2 then 1 else if n < 4 then 2 else if n < 16 then 3
  else match placeRole (siteOfProc n) with | 1 => 4 | 2 => 5 | _ => 6

/-- Whether the code that the active bank holds for a processor has the digest of its entry (R457). -/
def procCodeOk (s : State) (n : Nat) : Bool :=
  let b := (kingBanks s).1.bytes
  digestOk b (bnComponent b (procKind n))

/-- STATE of a processor record (Table 16-5). -/
def procState (s : State) (n : Nat) : Nat :=
  if procAbsent s n then 0
  else if procUnpowered s n then 1
  else if procFailed s n then 6
  else match (procOf s n).run with
    | .stopped => 2
    | .starting => 2
    | .held => 5
    | .running => if n < 4 ∧ n ≠ kingPc s ∧ n ≠ kingPtc s then 4 else 3

/-- The 32 bytes of a processor record. -/
def procBytes (s : State) (n : Nat) : List Byte :=
  let p := procOf s n
  let i := siteOfProc n
  natLe 2 n ++ natLe 1 (procKind n) ++ natLe 1 (procState s n) ++ natLe 1 (siteX i) ++ natLe 1 (siteY i)
    ++ natLe 1 (min 0xFF (windowCount s n)) ++ natLe 1 p.cause ++ natLe 8 p.version ++ natLe 4 p.restarts ++ copies 4 0
    ++ natLe 8 p.lastTick

/-- The 64 bytes of the header (Table 16-4). -/
def fwHeader (s : State) : List Byte :=
  let b := kingBanks s
  let next := if s.fw.apply = .running then (applyNext s).getD 0xFFFF else 0xFFFF
  natLe 2 1 ++ natLe 2 224 ++ natLe 1 (match s.fw.apply with | .idle => 0 | .running => 1 | .stopped => 2)
    ++ natLe 1 (b2n b.2.valid + 2 * b2n s.fw.stage.isSome) ++ natLe 2 next ++ natLe 8 (bnVersion b.1.bytes)
    ++ natLe 8 (if b.2.valid then bnVersion b.2.bytes else 0) ++ natLe 1 15 ++ natLe 1 (if s.fp.kingAlt then 9 else 4)
    ++ copies 38 0

/-- FW_STATUS. -/
def doFwStatus (c : Cmd) (pay : List Byte) (s : State) : State :=
  let st := bufStatus c (leAt pay 8 8) (leAt pay 4 4) 7232
  checked c [(decide (pay.length ≠ 16), stBadLength), (!zeroAt pay 0 4, stBadField), (st != stOk, st)]
    (fun s => completeWithBuf c (leAt pay 8 8) (fwHeader s ++ (List.range 224).flatMap (procBytes s)) 0 s) s

/-- FW_STATUS. -/
def execFwStatus (c : Cmd) (s : State) : Out := runRow c 0x0702 doFwStatus s

/-! ## Bundles (R466, R467, R576 to R578) -/

/-- Whether a component entry meets Table 16-7. -/
def entryFormOk (b e : List Byte) : Bool :=
  let k := leAt e 0 1
  decide (1 ≤ k) && decide (k ≤ 7) && zeroAt e 1 3 && zeroAt e 0xC 4 && zeroAt e 0x18 8
    && decide (leAt e 8 4 < bnSigOff b) && decide (leAt e 8 4 + leAt e 4 4 ≤ bnSigOff b)
    && (k != 7 || decide (leAt e 4 4 ≤ 131072))

/-- Whether the header and the directory of a bundle meet Tables 16-6 and 16-7. -/
def bundleFormOk (b : List Byte) : Bool :=
  leAt b 0 4 == 0x46575A4C && leAt b 4 2 == 1 && leAt b 6 2 == 7 && decide (bnLen b ≤ 16777216)
    && decide (736 ≤ bnSigOff b) && decide (bnSigOff b < bnLen b)
    && decide (bnRbCounter b < 64) && zeroAt b 0x21 1 && decide (bnRbValue b ≤ 255) && allZero (bytesAt b 0x24 28)
    && (List.range 7).all (fun j => entryFormOk b (bnEntry b j))
    && (List.range 7).all (fun k => (List.range 7).any (fun j => leAt (bnEntry b j) 0 1 == k + 1))

/-- A fuse counter. -/
def rbCounter (s : State) (k : Nat) : Nat := s.boot.secFuses.counters.getD k 0

/-- Whether a bundle's signature verifies (R576). -/
def bundleSigned (s : State) (b : List Byte) : Bool := signatureOk s false b (bnLen b) (bnSigOff b)

/-- A bundle's fuse counter allows it. -/
def bundleAllowed (s : State) (b : List Byte) : Bool := decide (rbCounter s (bnRbCounter b) ≤ bnRbValue b)

/-- The components' digests hold. -/
def bundleDigestsOk (b : List Byte) : Bool := (List.range 7).all (fun k => digestOk b (bnComponent b (k + 1)))

/-- Fuses change to what the active bundle carries (R577): its counter, and a revocation. -/
def advanceFuses (s : State) : State :=
  let b := (kingBanks s).1.bytes
  let k := bnRbCounter b
  let v := bnRbValue b
  let blk := bytesAt b (bnSigOff b) 208
  let s := if rbCounter s k < v then
      let s := { s with boot := { s.boot with secFuses := { s.boot.secFuses with
        counters := modAt s.boot.secFuses.counters k (fun _ => v) } } }
      let s := measure 6 (natLe 1 k ++ natLe 2 v) (shakeDigest (fuseBytesSec s.boot.secFuses)) s
      raise1 (evPlain 0x0B05 0 k v) s
    else s
  let r := 1 - leAt blk 7 1
  if bitAt (leAt blk 8 1) 0 && leAt blk 6 1 == 1 && !bitAt s.boot.secFuses.revoked r then
    let s := { s with boot := { s.boot with secFuses := { s.boot.secFuses with revoked := s.boot.secFuses.revoked + 2 ^ r } } }
    let s := measure 6 (natLe 1 0xFF ++ natLe 2 r) (shakeDigest (fuseBytesSec s.boot.secFuses)) s
    raise1 (evPlain 0x0B05 0 0xFF r) s
  else s

/-- The dies whose banks a stage writes: both management dies, or the king post alone when the other has failed. -/
def stageDies (s : State) : List Nat :=
  if (entryAt s (otherMgmt s)).state = .failed then [b2n s.fp.kingAlt] else [0, 1]

/-- The inactive banks of dies replaced. -/
def putInactive (l : List Nat) (b : Bank) (s : State) : State :=
  { s with boot := { s.boot with banks := l.foldl (fun l n => modAt l n (fun p => (p.1, b))) s.boot.banks } }

/-- Checks 4 and 5 of R466, and the start of the write: the inactive banks are invalid. -/
def stageBundle (c : Cmd) (b : List Byte) (s : State) : State :=
  checked c [(!bundleSigned s b || !bundleAllowed s b, stDenied), (!bundleDigestsOk b, stFault)]
    (fun s => putInactive (stageDies s) ⟨false, []⟩ { s with fw := { s.fw with stage := some (c, b) } }) s

/-- The write of the inactive banks ends: they hold the bundle, or a bank that fails read-back leaves them invalid and the
command completes with FAULT (R466). -/
def endStage (s : State) : State :=
  match s.fw.stage with
  | none => s
  | some (c, b) =>
    let s := { s with fw := { s.fw with stage := none } }
    if (stageDies s).any (fun n => s.boot.bankBad.contains n) then complete c stFault 0 s
    else complete c stOk (bnVersion b) (putInactive (stageDies s) ⟨true, b⟩ s)

/-- FW_BUNDLE_STAGE (R466). -/
def doFwBundleStage (c : Cmd) (pay : List Byte) (s : State) : State :=
  let a := leAt pay 0 8
  let len := leAt pay 8 4
  checked c [(decide (pay.length ≠ 16) || decide (len < 736) || decide (16777216 < len), stBadLength)]
    (fun s =>
      match hostAnswer s a len with
      | some slow => failCmd c (if slow then stTimeout else stFault) s
      | none =>
        let b := hostRead s a len
        checked c [(bnLen b != len, stBadLength), (s.fw.apply == .running || s.fw.stage.isSome, stBusy),
            (!zeroAt pay 0xC 4 || !bundleFormOk b || !bundlesCompatible b (kingBanks s).1.bytes, stBadField)]
          (fun s => stageBundle c b (advanceFuses s)) s) s

/-- FW_BUNDLE_STAGE. -/
def execFwBundleStage (c : Cmd) (s : State) : Out := runRow c 0x0700 doFwBundleStage s

/-- The digest of a bundle's header and directory (Table 20-12). -/
def bundleDigest (b : List Byte) : List Byte := shakeDigest (bytesAt b 0 736)

/-- FW_BUNDLE_APPLY (R467, R468): the banks are exchanged, and processors restart in order. -/
def doFwBundleApply (c : Cmd) (pay : List Byte) (s : State) : State :=
  let k := kingBanks s
  let b := k.2.bytes
  checked c [(decide (pay.length ≠ 8), stBadLength), (s.fw.apply == .running || s.fw.stage.isSome || s.fw.reset.isSome, stBusy),
      (!k.2.valid || bnVersion b != leAt pay 0 8 || !bundlesCompatible b k.1.bytes, stBadField),
      (!bundleAllowed s b, stDenied)]
    (fun s =>
      let s := { s with boot := { s.boot with banks := s.boot.banks.map (fun p => (p.2, p.1)) } }
      let s := measure 5 (natLe 8 (bnVersion b)) (bundleDigest b) s
      goOnApply { s with fw := { s.fw with apply := .running, applyAt := none, applyCmd := some c } }) s

/-- FW_BUNDLE_APPLY. -/
def execFwBundleApply (c : Cmd) (s : State) : Out := runRow c 0x0701 doFwBundleApply s

end Sys2Proof.Machine
end

