-- ==== Sys2Proof/Machine/BringUp.lean ====
section
/-! DEFINITION. Power good, secure boot, the choice of the king post, and the steps of bring-up (R26 to R29, R35 to R37, R52,
R474 to R478, R578). -/

namespace Sys2Proof.Machine

/-! ## Secure boot (R578) -/

/-- Whether the bundle of a bank lets a management die start. -/
def bankBoots (s : State) (b : Bank) : Bool :=
  b.valid && bundleFormOk b.bytes && bundleSigned s b.bytes && bundleAllowed s b.bytes
    && digestOk b.bytes (bnComponent b.bytes 1) && digestOk b.bytes (bnComponent b.bytes 2)

/-- The boot ROM of a management die (0 or 1): whether a bank passes, after an exchange where only the inactive one
does. -/
def secureBoot (k : Nat) (s : State) : Bool × State :=
  let b := s.boot.banks.getD k (⟨false, []⟩, ⟨false, []⟩)
  if bankBoots s b.1 then (true, s)
  else if bankBoots s b.2 then
    (true, { s with
      boot := { s.boot with banks := modAt s.boot.banks k (fun p => (p.2, p.1)) }
      fw := { s.fw with fallbacks := s.fw.fallbacks ++ [k] } })
  else (false, s)

/-! ## The measured boot (Table 20-12) -/

/-- A key that is read or set: 0 with its digest, or 1 where there is none. -/
def keyFlag (key : List Byte) : Nat := b2n key.isEmpty
/-- The digest of a key. -/
def keyDigest (key : List Byte) : List Byte := if key.isEmpty then [] else shakeDigest key

/-- The happenings of a boot are measured in their order. -/
def measureBoot (s : State) : State :=
  let b := (kingBanks s).1.bytes
  let s := measure 1 (natLe 1 (variantOf s) ++ natLe 1 (kingFuse s).stepping.toNat ++ natLe 2 s.boot.secFuses.revoked
    ++ natLe 4 s.boot.bootCount) (shakeDigest (fuseBytesSec s.boot.secFuses)) s
  let s := measure 2 (natLe 8 (bnVersion b) ++ natLe 1 (leAt b (bnSigOff b + 7) 1)
    ++ natLe 1 (b2n (s.fw.fallbacks.contains (b2n s.fp.kingAlt)))) (bundleDigest b) s
  let s := measure 3 (natLe 1 (keyFlag s.boot.keys.mgmt)) (keyDigest s.boot.keys.mgmt) s
  (List.range 4).foldl (fun s n =>
    let k := s.boot.keys.weights.getD n []
    measure 4 (natLe 1 n ++ natLe 1 (keyFlag k)) (keyDigest k) s) s

/-! ## POWER_GOOD (R474, R475, R485) -/

/-- The management die that the fuses name (R52). -/
def primaryDie (s : State) : Nat := if !(fuseOf s 79).primarySel && (fuseOf s 159).primarySel then 159 else 79

/-- The king post is chosen from the management dies that have passed; a die that has not is failed (R52, R475). -/
def chooseKing (ok4 ok9 : Bool) (s : State) : State :=
  let p := primaryDie s
  let okP := if p = 79 then ok4 else ok9
  let king := if okP then p else if p = 79 then 159 else 79
  let mark (i : Nat) (ok : Bool) : State → State :=
    modEntry i (entrySet (if ok then .good else .failed) (if ok then 0 else 6))
  let s := mark 159 ok9 (mark 79 ok4 s)
  { s with
    fp := { s.fp with kingAlt := king == 159 }
    fw := { s.fw with noKing := !ok4 && !ok9, takeover := !okP && king == 159 && ok9 } }

/-- The mode and width that the host port trains to are the world's (R420, log entry 7). -/
def trainHostPort (s : State) : State :=
  if s.host.perst then s
  else
    let r := takeFree s
    let s := r.2
    { s with host := { s.host with linkMode := 1 + r.1 % 2, linkWidth := [16, 8, 4].getD (r.1 / 2 % 3) 16 } }

/-- The deadline of a bring-up step in ns from power good (Table 16-8). -/
def stepDeadline (n : Nat) : Nat := 1000000000 * [1, 5, 20, 75, 100, 115, 120].getD n 120

/-- BRINGUP takes a step's number, and the step must end by its deadline. -/
def setStep (n : Nat) (s : State) : State :=
  { s with
    host := { s.host with bringup := n }
    fw := { s.fw with stepDue := (s.fw.stepBase + stepDeadline n).toNat } }

/-- What a boot reads from the boot store: the scores, and the floors of the senders (R551, R568). -/
def bootRead (s : State) : State :=
  { s with
    boot := { s.boot with bootCount := s.boot.bootCount + 1 }
    err := { s.err with wear := s.boot.wear.map (fun p => (p.1, { p.2 with lastTick := 0 })) }
    mgmt := { s.mgmt with senders := s.boot.hwm.map (fun p => ⟨p.1, p.2, [], 0, []⟩) } }

/-- POWER_GOOD: a panel that has power, or that a cold reset restarts, begins its bring-up. -/
def execPowerGood (m : MgmtSelfTest) (time : Nat) (s : State) : Out :=
  if !s.fw.cold && (s.pwr.good || !s.pwr.switchClosed || s.pwr.range != .normal) then .next s
  else
    let s := if s.fw.cold then powerLost s else s
    let s := bootRead (atTime time s)
    let s := { s with
      pwr := { s.pwr with good := true }
      mgmt := { s.mgmt with slotId := m.slotId.toNat } }
    let a := secureBoot 0 s
    let b := secureBoot 1 a.2
    let s := chooseKing (m.pass4 && a.1) (m.pass9 && b.1) b.2
    if s.fw.noKing then .next s
    else
      let s := trainHostPort (measureBoot s)
      .next (setStep 0 { s with fw := { s.fw with booting := true, stepBase := s.now } })

/-! ## The steps (R477, Table 16-8) -/

/-- The outcome of a step at a site. -/
def outcomeOf (r : List SiteOutcome) (i : Nat) : Option SelfTest := (r.find? (fun x => siteNo x.p == i)).map (fun x => x.r)

/-- A site is populated (R28). -/
def populated (s : State) (i : Nat) : Bool := (popMap s).getD i false

/-- A die site whose die may still come up in this boot. -/
def stillGood (s : State) (i : Nat) : Bool := (entryAt s i).state != .failed

/-- The sites that a step must finish. -/
def stepUnits (s : State) (n : Nat) : List Nat :=
  if n = 2 then dieSites.filter (fun i => populated s i && (quadOf s (quadrantOf i)).closed && stillGood s i)
  else if n = 3 then dieSites.filter (fun i => populated s i && sitePowered s i && stillGood s i)
  else if n = 4 then dieSites.filter (fun i => placeRole i == 2 && !siteAbsent s i && sitePowered s i && stillGood s i)
  else if n = 5 then dieSites.filter (fun i => placeRole i == 3
    && (List.range 4).any (fun j => (linkOf s (4 * linkDieOfSite i + j)).phase == .training))
  else []

/-- Whether a step has finished at a site. -/
def stepDoneAt (n : Nat) (r : List SiteOutcome) (i : Nat) : Bool := n != 5 && (outcomeOf r i).isSome

/-- Sites are powered, with all their lanes and phases (R478). -/
def powerSites (is : List Nat) (s : State) : State :=
  is.foldl (fun s i => modPwr i (fun p => { p with mode := .on }) s) s

/-- A firmware processor runs the active bundle for the first time in this boot, or again after a panel warm reset
(R482, R483). -/
def startProc (n : Nat) (s : State) : State :=
  if procStarts s n then procFromReset n s
  else modProc n (fun p => { p with run := .running, version := activeVersion s, since := s.now }) s

/-- The entry of a die site as it is built at boot: identity and self-test, then the failures that persist, then the default
state and the fence list (R27, R35 to R37). -/
def entryBuilt (s : State) (r : List SiteOutcome) (i : Nat) : SiteEntry :=
  let e := { siteUnbuilt i with state := (entryAt s i).state, reason := (entryAt s i).reason }
  if !populated s i then siteUnbuilt i
  else if placeRole i = 6 then
    (match outcomeOf r i with
      | some t => if t.answers then entrySet .good 0 e else entrySet .failed 5 e
      | none => entrySet .good 0 e)
  else if e.state = .failed then e
  else if placeRole i = 5 then (if identityReason s i = 0 then e else entrySet .failed (identityReason s i) e)
  else
    match outcomeOf r i with
    | none => entrySet .failed (mapGetD s.boot.failures i 5) e
    | some t =>
      let why := testReason s i t
      if why ≠ 0 then entrySet .failed why e
      else
        let e := entryContents s i t e
        match mapGet? s.boot.failures i with
        | some f => entryDark (entrySet .failed f e)
        | none =>
          match mapGet? s.boot.hostFences i with
          | some .fence => entrySet .fenced 11 e
          | some .unfence => entryInService e
          | none => entryDefault (fuseOf s i).reserveDesig e

/-- POPULATION_MAP_DIFFERS: a record for each bit that differs (R26). -/
def mapsDiffer (s : State) : List EventRec :=
  ((List.range 224).filter (fun i => s.fuses.popMap4.getD i false != s.fuses.popMap9.getD i false)).map
    (fun i => evPlain 0x0101 0 0 i)

/-- The record is built, and GENERATION increments (R39, R41); a self-test failure persists (R37). -/
def buildPlan (r : List SiteOutcome) (s : State) : State :=
  let old := s.fp.entries
  let g := nextGeneration s.boot.generation
  let es := (List.range 224).map (fun i => { entryBuilt s r i with entryGen := g })
  let s := { s with
    boot := { s.boot with generation := g }
    fp := { s.fp with built := true, entries := es, changeTick := tickOf s } }
  let s := dieSites.foldl (fun s i =>
    let e := entryAt s i
    if e.state = .failed ∧ e.reason = 6 then recordFailure i 6 s else s) s
  announceChange (changedSites old es) false false (raise (mapsDiffer s) s)

/-- The dies of a panel start: their processors run, cores load microcode, and images left open are reported (R374,
R471). -/
def startDies (s : State) : State :=
  let is := dieSites.filter (fun i => !siteAbsent s i && sitePowered s i && stillGood s i)
  let s := is.foldl (fun s i =>
    let s := match procOfSite i with | some n => startProc n s | none => s
    let s := modPwr i (fun p => { p with inReset := false }) s
    if placeRole i = 1 then loadCores i s else s) s
  (List.range 16).foldl (fun s w =>
    match (storeOf s w).marker with
    | none => s
    | some q => raise1 (evPlain 0x0501 w 0 q) (modStore w (fun d => { d with incomplete := true }) s)) s

/-- A stack that does not train fails (R477). -/
def trainStacks (r : List SiteOutcome) (s : State) : State :=
  let bad := (stepUnits s 4).filter (fun i => match outcomeOf r i with | some t => !t.pass | none => false)
  let s := recordChange (fun s => bad.foldl (fun s i => failEntry i 6 s) s) s
  bad.foldl (fun s i => logAdd (logFailure i 6 false) s) s

/-- What a step leaves when it ends with outcomes. -/
def endStep (n : Nat) (r : List SiteOutcome) (s : State) : State :=
  if n = 0 then
    let s := startProc (kingPtc s) (startProc (kingPc s) s)
    if (entryAt s (otherMgmt s)).state = .failed then s else startProc (5 - kingPtc s) (startProc (1 - kingPc s) s)
  else if n = 2 then powerSites ((stepUnits s 2).filter (stepDoneAt 2 r)) s
  else if n = 3 then rewriteRoutes (startDies (buildPlan r s))
  else if n = 4 then trainStacks r s
  else s

/-- RESET_DONE of a RESET that completes, and its completion (R482, Table 16-12). -/
def resetDone (c : Cmd) (scope part site detail : Nat) (s : State) : State :=
  let e := if scope = 1 then evSite 0x0707 0 site scope detail else evPlain 0x0707 0 scope detail
  complete c stOk detail (raise1 { e with part := part } s)

/-- The panel is ready (R478): CXL.mem is active, and what the boot has found is reported. -/
def panelReady (s : State) : State :=
  let s := { s with host := { s.host with cxlMem := true }, fw := { s.fw with booting := false } }
  let k := kingSite s
  let s := if s.fw.takeover then raise1 (evSite 0x0705 0 k 0 0) s else s
  let s := s.fw.fallbacks.foldl (fun s d =>
    let b := s.boot.banks.getD d (⟨false, []⟩, ⟨false, []⟩)
    raise1 (evPlain 0x0B04 0 d (bnVersion b.1.bytes)) s) s
  let s := match s.boot.tripCause with
    | none => s
    | some (isOver, t) => raise1 (evPlain 0x0808 0 (b2n isOver) t) { s with boot := { s.boot with tripCause := none } }
  let s := { s with fw := { s.fw with takeover := false, fallbacks := [] } }
  match s.fw.reset with
  | none => s
  | some x =>
    if x.scope = 3 then
      resetDone x.cmd 3 0xFF 0 s.boot.generation.toNat { s with fw := { s.fw with reset := none } }
    else s

/-- The next step begins: the links train in step 5, and at 6 the panel is ready. -/
def beginStep (n : Nat) (s : State) : State :=
  let s := setStep n s
  if n = 5 then
    (dieSites.filter (fun i => placeRole i == 3 && !siteAbsent s i && sitePowered s i && stillGood s i)).foldl
      (fun s i => startLinks i s) s
  else if n = 6 then panelReady s
  else s

/-- BRINGUP_STEP: the present step has finished everywhere, and the next one begins. -/
def execBringupStep (r : List SiteOutcome) (time : Nat) (s : State) : Out :=
  let n := s.host.bringup
  if !s.fw.booting || !(stepUnits s n).all (stepDoneAt n r) then .next s
  else .next (beginStep (n + 1) (endStep n r (atTime time s)))

/-- A site that a step has not finished by its deadline: failed with the reason of the step, or its links down. -/
def missStep (n i : Nat) (s : State) : State :=
  if n = 5 then
    let ls := (List.range 4).filter (fun j => (linkOf s (4 * linkDieOfSite i + j)).phase == .training)
    let s := ls.foldl (fun s j => linkLost (4 * linkDieOfSite i + j) s) s
    raise1 (evSite 0x0706 0 i 5 (ls.foldl (fun m j => m + 2 ^ (4 * linkDieOfSite i + j)) 0)) s
  else
    let f := if n = 2 then takeFree s else (0, s)
    let why := if n = 2 then (if f.1 % 2 = 0 then 8 else 10) else 6
    let s := recordChange (fun s =>
      recordFailure i why (modEntry i (entrySet .failed why) s)) f.2
    raise1 (evSite 0x0706 0 i n 0) (logAdd (logFailure i why false) s)

/-- BRINGUP_DEADLINE: the present step ends at its deadline. -/
def execBringupDeadline (r : List SiteOutcome) (time : Nat) (s : State) : Out :=
  let n := s.host.bringup
  let t := atTime time s
  if !s.fw.booting || decide (t.now < s.fw.stepDue) then .next s
  else if n < 2 then .next (setStep 0 { t with fw := { t.fw with booting := false, noKing := true } })
  else
    let s := oneChange (fun s => ((stepUnits t n).filter (fun i => !stepDoneAt n r i)).foldl (fun s i => missStep n i s) s) t
    .next (beginStep (n + 1) (endStep n r s))

/-! ## The king-post-loss trip (R476) -/

/-- The king and its partner are lost, and the second management die has the segments: what it knows of each sender is the
stored high-water mark. -/
def secondTakes (s : State) : State :=
  { s with
    fw := { s.fw with
      kingLost := true, booting := false, commands := []
      procs := s.fw.procs.filter (fun p => p.1 != kingPc s && p.1 != kingPtc s) }
    mgmt := { s.mgmt with senders := s.mgmt.senders.map (fun x =>
      { x with last := mapGetD s.boot.hwm x.id x.last, frame := [] }) } }

/-- The sites are powered off, all else stops, and the second management die takes the segments (R476, R559, R568,
R573). -/
def kingLossTrip (s : State) : State :=
  let alert := { evBlank 0x0705 with aux := 0x8000, x := siteX (otherMgmt s), y := siteY (otherMgmt s) }
  sendAlert alert (secondTakes (darkenSites dieSites s))

/-- KING_POST_LOSS_TRIP: no heartbeat for 1 s. -/
def execKingPostLossTrip (time : Nat) (s : State) : Out :=
  if !s.pwr.good || s.fw.kingLost || s.fw.noKing || (entryAt s (otherMgmt s)).state == .failed then .next s
  else
    let j := examine 29 (fun _ => true) (atTime time s)
    .next (kingLossTrip j.2)

end Sys2Proof.Machine
end

