-- ==== Sys2Proof/Machine/Connectors.lean ====
section
/-! DEFINITION. The input switch, the presence contact and the sideband of the edge connector (R585 to R589). -/

namespace Sys2Proof.Machine

/-- Two voltages in mV lie within 1 V of each other. -/
def withinVolt (a b : Nat) : Bool := decide (a ≤ b + 1000) && decide (b ≤ a + 1000)

/-- The three conditions for closing the input switch hold together (R585): precharge is complete, PRSNT_A# has read low for
50 ms, and the blade side lies within 1 V of the bulk and in the operating range of Table 17-1. -/
def mayClose (r : SwitchReadings) : Bool :=
  withinVolt r.bulk r.sense && decide (50000000 ≤ r.presentNs) && withinVolt r.blade r.bulk && rangeOf r.blade == .normal

/-- INPUT_SWITCH_CLOSE. -/
def execInputSwitchClose (r : SwitchReadings) (time : Nat) (s : State) : Out :=
  if s.pwr.switchClosed || !mayClose r then .next s
  else
    let t := atTime time s
    .next { t with pwr := { t.pwr with switchClosed := true, inputMv := r.blade, range := .normal } }

/-- PRESENCE_LOST (R586): the input switch opens, and all power is lost (R450). -/
def execPresenceLost (time : Nat) (s : State) : Out :=
  if !s.pwr.switchClosed then .next s
  else
    let t := atTime time s
    .next (powerLost { t with pwr := { t.pwr with switchClosed := false } })

/-- Whether an event is pending for the host: a record that it has not read, or one that was discarded. -/
def eventPending (s : State) : Bool := (s.ev.set && s.ev.tail != s.ev.hostHead) || decide (0 < s.ev.lost)

/-- CXL_L2_CHANGE (R589): in L2 an event pending asserts WAKE#; it is released when the link leaves L2. -/
def execCxlL2Change (enter : Bool) (time : Nat) (s : State) : Out :=
  if !s.pwr.good || s.host.perst || s.host.inL2 == enter then .next s
  else
    let t := atTime time s
    .next { t with host := { t.host with inL2 := enter, wake := enter && eventPending t } }

end Sys2Proof.Machine
end

