-- ==== Sys2Proof/Machine/Cooling.lean ====
section
/-! DEFINITION. Coolant flow, hot spots, strain and inlet temperature (R514 to R536). -/

namespace Sys2Proof.Machine

/-! ## Conditions with hold times -/

/-- A condition at a time: `asks` says whether the reading asks for a change of it. The change is due when it has asked for
`hold` ns without a break. -/
def heldStep (asks : Bool) (hold now : Nat) (h : Held) : Bool × Held :=
  if !asks then (false, { h with since := none })
  else if h.since.getD now + hold ≤ now then (true, ⟨!h.raised, none⟩)
  else (false, { h with since := some (h.since.getD now) })

/-! ## Flow (R515 to R517) -/

/-- Q_req in mL/min at P in W, as a numerator over 25,000 (R515). -/
def flowReq25k (watts : Nat) : Nat := max 250000000 (42000 * watts)
/-- Q_req in mL/min. -/
def flowReq (watts : Nat) : Nat := flowReq25k watts / 25000

/-- Whether a flow in mL/min is below a percentage of Q_req. -/
def flowBelow (flow : Int) (pct watts : Nat) : Bool := decide (flow * 2500000 < ((pct * flowReq25k watts : Nat) : Int))

/-- Both flow sensors are retired. -/
def flowUnknown (s : State) : Bool := s.cool.dp.retired && s.cool.th.retired

/-- The governing one of two readings, where a sensor is in use (R517). -/
def governing (s : State) (dp th : Int) : Option Int :=
  if flowUnknown s then none
  else if s.cool.dp.retired then some th
  else if s.cool.th.retired then some dp
  else some (min dp th)

/-- The governing flow in mL/min, as events report it. -/
def flowArg (s : State) (dp th : Int) : Nat := ((governing s dp th).getD 0).toNat

/-- The last governing flow in mL/min. -/
def lastFlow (s : State) : Nat := flowArg s (s.cool.dp.last.getD 0) (s.cool.th.last.getD 0)

/-- The two readings of FLOW_SENSOR. -/
def flowPair (dp th : Int) : Nat := twos 32 dp * 2 ^ 32 + twos 32 th

/-- FLOW_STATE (Table 18-2). -/
def flowState (s : State) : Nat :=
  if flowUnknown s then 4 else if s.cool.stopped then 3 else if s.cool.critical then 2 else if s.cool.low then 1 else 0

/-- FLOW_SENSOR, its record and its score. -/
def flowSensorEvent (aux arg : Nat) (inj : Bool) (s : State) : State :=
  let s := raise1 (evPlain 0x0904 0 aux arg) s
  let s := logAdd { logBlank 7 with injected := inj, addr := aux, status := 0x0904, detail := arg } s
  scoreWear inj 272 3 5000 s

/-! ## The stop trip (R520 to R522) -/

/-- Every power-on that waits ends with NO_HEADROOM (R522). -/
def refuseWaiting (s : State) : State := (List.range 4).foldl (fun s n => endWaiting n stNoHeadroom s) s

/-- The stop trip with its AUX, and the site of a management die that causes it. -/
def stopTrip (aux : Nat) (site : Option Nat) (inj : Bool) (s : State) : State :=
  if s.cool.stopped then s
  else
    let arg := lastFlow s
    let e := match site with | some i => evSite 0x0902 0 i aux arg | none => evPlain 0x0902 0 aux arg
    let s := { s with cool := { s.cool with
      stopped := true, flowing := none, slow := 0, dry := 0, low := false, critical := false } }
    let s := darkenSites dieSites (refuseWaiting s)
    logAdd { logBlank 10 with injected := inj, x := e.x, y := e.y, status := 0x0902, detail := arg } (raiseCritical e s)

/-! ## FLOW_SAMPLE (R516, R518, R520, R521) -/

/-- Whether a sensor's reading retires it: out of its range, or far from the last one while the other sensor's is not. -/
def flowRetires (r : Int) (me other : FlowSensor) (o : Int) : Bool :=
  !me.retired && (decide (r < 0) || decide (80000 < r)
    || (match me.last, other.last with
      | some a, some b => !other.retired && decide (15000 < (r - a).natAbs) && decide ((o - b).natAbs < 2000)
      | _, _ => false))

/-- A sensor after a sample. -/
def flowTaken (r : Int) (gone : Bool) (x : FlowSensor) : FlowSensor := { x with last := some r, retired := x.retired || gone }

/-- Retirements among the two sensors. -/
def flowRetire (dp th : Int) (inj : Bool) (s : State) : State :=
  let c := s.cool
  let a := flowRetires dp c.dp c.th th
  let b := flowRetires th c.th c.dp dp
  let was := flowUnknown s
  let s := { s with cool := { c with dp := flowTaken dp a c.dp, th := flowTaken th b c.th } }
  let s := if a then flowSensorEvent 1 (flowPair dp th) inj s else s
  let s := if b then flowSensorEvent 2 (flowPair dp th) inj s else s
  if !was && flowUnknown s then refuseWaiting (raise1 (evPlain 0x0904 0 3 (flowPair dp th)) s) else s

/-- Whether two flow readings differ by more than a percentage of the higher one. -/
def flowsDiffer (dp th : Int) (pct : Nat) : Bool := decide (pct * (max dp th) < 100 * ((dp - th).natAbs : Int))

/-- The disagreement of the sensors after a sample: an open episode ends after 10 s of agreement. -/
def flowDifference (dp th : Int) (s : State) : State :=
  let h := s.cool.differ
  let both := !s.cool.dp.retired && !s.cool.th.retired
  let h' :=
    if !both then heldOff
    else if h.raised then (heldStep (!flowsDiffer dp th 5) 10000000000 s.now h).2
    else if flowsDiffer dp th 10 then { h with since := some (h.since.getD s.now) }
    else { h with since := none }
  { s with cool := { s.cool with differ := h' } }

/-- The conditions of R520 and the latch of R521, which no injection but point 28 reaches. -/
def flowTrip (dp th : Int) (s : State) : State :=
  let j := examine 28 (fun _ => true) s
  let s := j.2
  match governing s dp th with
  | none =>
    let s := { s with cool := { s.cool with slow := 0, dry := 0, flowing := none } }
    if j.1 then stopTrip 2 none true s else s
  | some g =>
    let c := s.cool
    let dry := (c.dp.retired || decide (dp < 500)) && (c.th.retired || decide (th < 500))
    let slow := if flowBelow g 20 c.watts then c.slow + 1 else 0
    let s := { s with cool := { c with
      slow := slow, dry := if dry then c.dry + 1 else 0
      flowing := if c.stopped && decide (10000 ≤ g) then some (c.flowing.getD s.now) else none } }
    if j.1 ∨ 2 ≤ s.cool.dry then stopTrip 2 none (j.1 && decide (s.cool.dry < 2)) s
    else if 200 ≤ slow then stopTrip 1 none false s
    else s

/-- FLOW_SAMPLE: both sensors' readings in mL/min. -/
def execFlowSample (dp th : Int) (time : Nat) (s : State) : Out :=
  if !s.pwr.good then .next s
  else
    let s := atTime time s
    let a := if s.cool.dp.retired then (0, s) else examineValue 23 (fun j => j.sub == 0 && j.sub2 == 0) s
    let b := if s.cool.th.retired then (0, a.2) else examineValue 23 (fun j => j.sub == 0 && j.sub2 == 1) a.2
    let s := flowRetire (dp + a.1) (th + b.1) (a.1 != 0 || b.1 != 0) b.2
    let s := flowDifference (dp + a.1) (th + b.1) s
    let s := { s with cool := { s.cool with tick := tickOf s } }
    .next (flowTrip dp th s)

/-- FLOW_DISAGREE: the sensors have differed for 10 s (R518). -/
def execFlowDisagree (time : Nat) (s : State) : Out :=
  let t := atTime time s
  let h := s.cool.differ
  match h.since with
  | none => .next s
  | some a =>
    if h.raised ∨ t.now < a + 10000000000 then .next s
    else
      let t := { t with cool := { t.cool with differ := ⟨true, none⟩ } }
      let inj := t.err.armed.any (fun j => j.point == 23 && j.sub == 0)
      .next (flowSensorEvent 0 (flowPair (t.cool.dp.last.getD 0) (t.cool.th.last.getD 0)) inj t)

/-! ## FLOW_PERIOD (R519) -/

/-- A flow state's periods in a row below its threshold and at or above its clearing value. -/
def flowRuns (g : Int) (watts low clear run ok : Nat) : Nat × Nat :=
  if flowBelow g low watts then (run + 1, 0) else if flowBelow g clear watts then (0, 0) else (0, ok + 1)

/-- The state low is raised or cleared. -/
def setLow (on : Bool) (arg : Nat) (s : State) : State :=
  if s.cool.low = on then s
  else raise1 (evPlain 0x0900 0 (b2n (!on)) arg) { s with cool := { s.cool with low := on } }

/-- The state critical is raised or cleared. -/
def setCritical (on : Bool) (arg : Nat) (s : State) : State :=
  if s.cool.critical = on then s
  else
    let s := { s with cool := { s.cool with critical := on } }
    if on then refuseWaiting (raiseCritical (evPlain 0x0901 0 0 arg) s) else raise1 (evPlain 0x0901 0 1 arg) s

/-- The flow states that the periods have reached. -/
def settleFlow (arg : Nat) (s : State) : State :=
  let c := s.cool
  let s := if 10 ≤ c.critRun then setCritical true arg (setLow true arg s)
    else if 10 ≤ c.critClear then setCritical false arg s else s
  if 10 ≤ c.lowRun then setLow true arg s
  else if 10 ≤ c.lowClear then setLow false arg (setCritical false arg s) else s

/-- FLOW_PERIOD: the averages of 100 ms, and P. -/
def execFlowPeriod (r : FlowReading) (time : Nat) (s : State) : Out :=
  if !s.pwr.good then .next s
  else
    let s := atTime time s
    let a := if s.cool.dp.retired then (0, s) else examineValue 23 (fun j => j.sub == 1 && j.sub2 == 0) s
    let b := if s.cool.th.retired then (0, a.2) else examineValue 23 (fun j => j.sub == 1 && j.sub2 == 1) a.2
    let dp : Int := r.dp + a.1
    let th : Int := r.th + b.1
    let s := b.2
    let c := s.cool
    let s := { s with cool := { c with
      watts := r.watts, dp := { c.dp with avg := dp.toNat }, th := { c.th with avg := th.toNat } } }
    match governing s dp th with
    | none => .next s
    | some g =>
      let lo := flowRuns g r.watts 85 90 c.lowRun c.lowClear
      let cr := flowRuns g r.watts 60 65 c.critRun c.critClear
      let s := { s with cool := { s.cool with lowRun := lo.1, lowClear := lo.2, critRun := cr.1, critClear := cr.2 } }
      .next (if s.cool.stopped then s else settleFlow g.toNat s)

/-- FLOW_STOP_CLEARED: the flow has been at or above 10 L/min for 5 s (R521). -/
def execFlowStopCleared (time : Nat) (s : State) : Out :=
  let t := atTime time s
  match s.cool.flowing with
  | none => .next s
  | some a =>
    if !s.cool.stopped || decide (t.now < a + 5000000000) then .next s
    else
      let arg := lastFlow t
      .next (settleFlow arg (raise1 (evPlain 0x0903 0 0 arg)
        { t with cool := { t.cool with stopped := false, flowing := none } }))

/-! ## Hot spots (R523 to R532) -/

/-- The number of a hot spot: 8 · site + its number, the coolant's after the sites'. -/
def hotKey : HotSpot → Nat
  | .site p h => 8 * siteNo p + h.val
  | .coolant h => 1792 + h.val

/-- The hot spots of a role (Table 18-3). -/
def hotSpots (role : Nat) : Nat := if role = 1 then 8 else if role = 4 then 2 else if role = 6 then 1 else if role = 0 then 0 else 4

/-- The role of a hot spot's site; 0 for the coolant. -/
def hotRole (k : Nat) : Nat := if k < 1792 then placeRole (k / 8) else 0

/-- The warning limit in 0.1 °C, where it has one. -/
def warnLimit (k : Nat) : Option Int :=
  match hotRole k with
  | 1 => some 950
  | 2 => some (if k % 8 < 2 then 950 else 900)
  | 3 => some 850
  | 4 => some 850
  | 5 => some 950
  | 6 => some 800
  | _ => none

/-- The hard limit in 0.1 °C, where it has one. -/
def hardLimit (k : Nat) : Option Int :=
  match hotRole k with
  | 1 => some 1100
  | 2 => some (if k % 8 < 2 then 1100 else 1000)
  | 3 => some 1000
  | 4 => some 1000
  | 5 => some 1100
  | _ => none

/-- A hot spot. -/
def hotOf (s : State) (k : Nat) : HotState := mapGetD s.cool.hot k hotZero
/-- The state with a hot spot changed. -/
def modHot (k : Nat) (f : HotState → HotState) (s : State) : State :=
  { s with cool := { s.cool with hot := mapSet hotZero s.cool.hot k (f (hotOf s k)) } }

/-- Whether a diode of a hot spot is retired. -/
def diodeGone (h : HotState) (d : Nat) : Bool := h.retired.getD d false
/-- Both diodes are retired. -/
def hotLost (h : HotState) : Bool := diodeGone h 0 && diodeGone h 1
/-- How far the limits are lowered (R525). -/
def hotLower (h : HotState) : Int := if diodeGone h 0 || diodeGone h 1 then 50 else 0

/-- The governing reading (R524). -/
def hotReading (h : HotState) : Option Int :=
  match h.last.getD 0 none, h.last.getD 1 none with
  | some a, some b => some (max a b)
  | some a, none => some a
  | none, x => x

/-- The readings of a hot spot are taken (R527). -/
def hotTaken (s : State) (k : Nat) : Bool :=
  if 1792 ≤ k then s.pwr.good
  else
    let i := k / 8
    decide (k % 8 < hotSpots (placeRole i)) && (isDieSite i || !siteAbsent s i || !s.fp.built)
      && (if isDieSite i then siteLive s i else s.pwr.good)

/-- An event about a hot spot. -/
def evHot (code k aux arg : Nat) : EventRec :=
  if k < 1792 then evSite code (k % 8) (k / 8) aux arg else evPlain code (k % 8) aux arg

/-- The wear part that a hot spot's diodes score. -/
def hotPart (k : Nat) : Nat := if k < 1792 then k / 8 else 272

/-- A sensor record of a hot spot. -/
def logHot (k code detail : Nat) (inj : Bool) (s : State) : LogRec :=
  let r := { logBlank 7 with injected := inj, addr := k % 8, status := code, detail := detail }
  if k < 1792 then { r with part := ownerOf s (k / 8), x := siteX (k / 8), y := siteY (k / 8) } else r

/-- Whether an injection of point 22 aims at a diode; those at the coolant name no site (X and Y 0xFF). -/
def aimsDiode (k d : Nat) (j : Injection) : Bool :=
  j.sub == k % 8 && j.sub2 == d && (if k < 1792 then aimsAt (k / 8) j else j.x == 0xFF && j.y == 0xFF)

/-- An offset one step of 1 K nearer to its target (R556). -/
def offsetStep (target now : Int) : Int :=
  if now < target then min target (now + 10) else max target (now - 10)

/-- The offset of a diode at this sample. -/
def diodeOffset (k d : Nat) (s : State) : State :=
  let r := examineValue 22 (aimsDiode k d) s
  modHot k (fun h => { h with offset := modAt h.offset d (offsetStep r.1) }) r.2

/-- Whether an injection moves a hot spot's readings. -/
def hotInjected (h : HotState) : Bool := h.offset.any (fun x => x != 0)

/-- A diode's sample: taken, or the diode is retired (R525). -/
def takeDiode (k d : Nat) (raw : Int) (s : State) : State :=
  if diodeGone (hotOf s k) d then s
  else
    let s := diodeOffset k d s
    let h := hotOf s k
    let x := raw + h.offset.getD d 0
    let jump := match h.last.getD d none with | some a => decide (50 < (x - a).natAbs) | none => false
    if !(jump || decide (x < -200) || decide (1500 < x)) then
      modHot k (fun h => { h with last := modAt h.last d (fun _ => some x) }) s
    else
      let inj := hotInjected h
      let s := modHot k (fun h => { h with
        last := modAt h.last d (fun _ => none), retired := modAt h.retired d (fun _ => true), since := none, episode := false }) s
      let s := raise1 (evHot 0x0908 k d (twos 16 x)) s
      scoreWear inj (hotPart k) 3 5000 (logAdd (logHot k 0x0908 (twos 16 x) inj s) s)

/-- The disagreement of a hot spot's diodes after a sample (R524). -/
def hotDifference (now : Nat) (h : HotState) : HotState :=
  match h.last.getD 0 none, h.last.getD 1 none with
  | some a, some b =>
    let d := (a - b).natAbs
    if h.episode then
      if 20 < d then { h with since := none }
      else if h.since.getD now + 1000000000 ≤ now then { h with since := none, episode := false }
      else { h with since := some (h.since.getD now) }
    else if 40 < d then { h with since := some (h.since.getD now) }
    else { h with since := none }
  | _, _ => { h with since := none }

/-- A reading counted in an average over periods of `len` ns: the average of the period that ended, where one did, and the
average after. -/
def meanTake (len now : Nat) (x : Int) (m : Mean) : Option Int × Mean :=
  if now / len = m.period then (none, { m with sum := m.sum + x, n := m.n + 1 })
  else
    let a := if m.n = 0 then none else some (m.sum / (m.n : Int))
    (a, ⟨x, 1, now / len, match a with | some v => some v | none => m.last⟩)

/-- The warning of a hot spot at the end of a period of 100 ms (R528): raised at once, cleared after 1 s. -/
def hotWarn (k : Nat) (avg : Int) (s : State) : State :=
  let h := hotOf s k
  match warnLimit k with
  | none => s
  | some lim =>
    let lim := lim - hotLower h
    if !h.warn.raised then
      if avg < lim then s
      else raise1 (evHot 0x0905 k 0 (twos 16 avg)) (modHot k (fun h => { h with warn := ⟨true, none⟩ }) s)
    else
      let start := 100000000 * (s.now / 100000000 - 1)
      let since := h.warn.since.getD start
      if lim - 30 ≤ avg then modHot k (fun h => { h with warn := ⟨true, none⟩ }) s
      else if since + 1000000000 ≤ start + 100000000 then
        raise1 (evHot 0x0905 k 1 (twos 16 avg)) (modHot k (fun h => { h with warn := heldOff }) s)
      else modHot k (fun h => { h with warn := ⟨true, some since⟩ }) s

/-- The averages of a hot spot take a reading. -/
def hotAverage (k : Nat) (x : Int) (s : State) : State :=
  let h := hotOf s k
  let a := meanTake 100000000 s.now x h.mean
  let b := meanTake 1000000000 s.now x h.slow
  let s := modHot k (fun h => { h with mean := a.2, slow := b.2 }) s
  match a.1 with
  | some avg => hotWarn k avg s
  | none => s

/-- A site is powered off by its temperature (R526, R529). -/
def thermalTrip (code k arg : Nat) (inj : Bool) (s : State) : State :=
  let i := k / 8
  let e := evHot code k 0 arg
  let s := if code = 0x0906 then raiseCritical e s else raise1 e s
  let s := logAdd { logHot k code arg inj s with cls := 10 } s
  loseSites .off [i] 9 inj s

/-- A keystone is good while its strain and temperature can be read, and failed otherwise (R29). -/
def settleKeystone (i : Nat) (s : State) : State :=
  if placeRole i ≠ 6 ∨ !s.fp.built ∨ siteAbsent s i then s
  else
    let ok := !s.cool.blind.contains i && !(hotOf s (8 * i)).lost
    recordChange (modEntry i (if ok then entrySet .good 0 else entrySet .failed 5)) s

/-- A hot spot whose diodes are both retired (R526). -/
def hotSpotLost (k : Nat) (inj : Bool) (s : State) : State :=
  let s := modHot k (fun h => { h with lost := true }) s
  let role := hotRole k
  if 1 ≤ role ∧ role ≤ 4 then thermalTrip 0x0909 k 0 inj s
  else
    let s := raise1 (evHot 0x0909 k 0 0) s
    if role = 5 then stopTrip 3 (some (k / 8)) inj s else settleKeystone (k / 8) s

/-- The hard limit at a sample: two in a row at or above it trip (R529, R530). -/
def hotHard (k : Nat) (x : Int) (s : State) : State :=
  let h := hotOf s k
  match hardLimit k with
  | none => s
  | some lim =>
    if x < lim - hotLower h then modHot k (fun h => { h with hard := 0 }) s
    else if h.hard = 0 then modHot k (fun h => { h with hard := 1 }) s
    else
      let s := modHot k (fun h => { h with hard := 0 }) s
      if hotRole k = 5 then stopTrip 4 (some (k / 8)) (hotInjected h) s
      else thermalTrip 0x0906 k (twos 16 x) (hotInjected h) s

/-- A site whose eFuse has tripped in the same tick meets its hard limit: the event is raised too, and its reason stays
(R532). -/
def hotAfterTrip (k : Nat) (x : Int) (s : State) : State :=
  match hardLimit k with
  | none => s
  | some lim =>
    let h := hotOf s k
    if x < lim - hotLower h ∨ h.hard = 0 then s
    else
      let s := raiseCritical (evHot 0x0906 k 0 (twos 16 x)) (modHot k (fun h => { h with hard := 0 }) s)
      logAdd { logHot k 0x0906 (twos 16 x) false s with cls := 10 } s

/-- Two readings are taken, and their difference is judged. -/
def diodesTaken (k : Nat) (d0 d1 : Int) (s : State) : State :=
  let s := modHot k (hotDifference s.now) (takeDiode k 1 d1 (takeDiode k 0 d0 s))
  { s with cool := { s.cool with tick := tickOf s } }

/-- A hot spot is judged by its new readings: lost, or its average and its hard limit. -/
def hotJudge (k : Nat) (s : State) : State :=
  let x := hotOf s k
  if hotLost x then (if x.lost then s else hotSpotLost k (hotInjected x) s)
  else
    match hotReading x with
    | none => s
    | some r => hotHard k r (hotAverage k r s)

/-- DIODE_SAMPLE: the two readings of a hot spot in 0.1 °C. -/
def execDiodeSample (h : HotSpot) (d0 d1 : Int) (time : Nat) (s : State) : Out :=
  let k := hotKey h
  let t := atTime time s
  if !hotTaken s k then
    .next (if k < 1792 ∧ trippedNow t (k / 8) 0x0800 then hotAfterTrip k (max d0 d1) t else s)
  else .next (hotJudge k (diodesTaken k d0 d1 t))

/-- DIODE_DISAGREE: the diodes have differed by more than 4 °C for 1 s (R524). -/
def execDiodeDisagree (h : HotSpot) (time : Nat) (s : State) : Out :=
  let k := hotKey h
  let t := atTime time s
  let x := hotOf s k
  match x.since with
  | none => .next s
  | some a =>
    if x.episode ∨ t.now < a + 1000000000 ∨ !hotTaken s k then .next s
    else
      let arg := 65536 * twos 16 ((x.last.getD 0 none).getD 0) + twos 16 ((x.last.getD 1 none).getD 0)
      let inj := hotInjected x
      let t := raise1 (evHot 0x0907 k 0 arg) (modHot k (fun h => { h with episode := true, since := none }) t)
      .next (scoreWear inj (hotPart k) 3 5000 (logAdd (logHot k 0x0907 arg inj t) t))

/-! ## The inlet (R534) -/

/-- Whether a condition of Table 18-4 asks to change at an inlet temperature; an unknown one counts as above 30 °C
(R526). -/
def inletAsks (n : Nat) (raised : Bool) (x : Option Int) : Bool :=
  match x with
  | none => n == 2 && !raised
  | some v =>
    if n = 0 then (if raised then decide (205 ≤ v) else decide (v < 200))
    else if n = 1 then (if raised then decide (v ≤ 395) else decide (400 < v))
    else if raised then decide (v ≤ 295) else decide (300 < v)

/-- One condition of Table 18-4 at the present time. -/
def inletStep (n : Nat) (s : State) : State :=
  let h := s.cool.inletStates.getD n heldOff
  let r := heldStep (inletAsks n h.raised s.cool.inlet) (if n = 2 then 1000000000 else 10000000000) s.now h
  let s := { s with cool := { s.cool with inletStates := s.cool.inletStates.set n r.2 } }
  if !r.1 then s
  else if h.raised then raise1 (evPlain 0x090A 0 3 n) s
  else raise1 (evPlain 0x090A 0 n (match s.cool.inlet with | some v => twos 16 v | none => 0x8000)) s

/-- COOLANT_TEMP: the inlet temperature of R534 in 0.1 °C. -/
def execCoolantTemp (inlet : Int) (time : Nat) (s : State) : Out :=
  if !s.pwr.good then .next s
  else
    let s := atTime time s
    let s := settleBoost { s with cool := { s.cool with inlet := if hotLost (hotOf s 1792) then none else some inlet } }
    .next (inletStep 2 (inletStep 1 (inletStep 0 s)))

/-! ## Keystones (R533) -/

/-- A strain reading of a keystone: STRAIN_HIGH once per episode. -/
def strainTaken (i : Nat) (strain : Int) (s : State) : State :=
  let h := mapGetD s.cool.strained i heldOff
  let asks := if h.raised then decide (strain.natAbs ≤ 400) else decide (500 < strain.natAbs)
  let r := heldStep asks 1000000000 s.now h
  let s := { s with cool := { s.cool with
    strain := mapSet 0 s.cool.strain i strain, strained := mapSet heldOff s.cool.strained i r.2 } }
  if r.1 then raise1 (evSite 0x090B 0 i (b2n h.raised) (twos 64 strain)) s else s

/-- STRAIN_HIGH: a keystone's strain in microstrain, or none where the king post cannot read it (R29). -/
def execStrainHigh (p : SiteId) (strain : Option Int) (time : Nat) (s : State) : Out :=
  let i := siteNo p
  if placeRole i ≠ 6 ∨ !s.pwr.good ∨ (s.fp.built ∧ siteAbsent s i) then .next s
  else
    let s := atTime time s
    let blind := s.cool.blind.filter (fun j => j != i)
    .next (match strain with
      | some x => strainTaken i x (settleKeystone i { s with cool := { s.cool with blind := blind } })
      | none => settleKeystone i { s with cool := { s.cool with blind := blind ++ [i] } })

/-! ## COOLING_STATUS (R535) -/

/-- A temperature as the records hold it. -/
def tempBytes (x : Option Int) : List Byte := natLe 2 (match x with | some v => twos 16 v | none => 0x8000)

/-- The 64 bytes of the header (Table 18-5). -/
def coolHeader (s : State) : List Byte :=
  let c := s.cool
  let avg (x : FlowSensor) : List Byte := natLe 4 (if x.retired then 0xFFFFFFFF else x.avg)
  let outside := match c.inlet with | some v => decide (v < 200) || decide (400 < v) | none => false
  natLe 2 1 ++ natLe 1 (flowState s)
    ++ natLe 1 (b2n c.stopped + 2 * b2n c.dp.retired + 4 * b2n c.th.retired + 8 * b2n c.differ.raised
      + 16 * b2n (inletTooWarm s) + 32 * b2n outside)
    ++ avg c.dp ++ avg c.th ++ natLe 4 (flowReq c.watts) ++ tempBytes c.inlet
    ++ tempBytes (if hotLost (hotOf s 1793) then none else (hotOf s 1793).slow.last)
    ++ natLe 2 (Config.pressureDrop c.dp.avg) ++ copies 2 0 ++ natLe 4 c.watts ++ copies 4 0 ++ natLe 8 c.tick ++ copies 24 0

/-- The hot spots of a site. -/
def siteHots (s : State) (i : Nat) : List HotState := (List.range (hotSpots (placeRole i))).map (fun h => hotOf s (8 * i + h))

/-- TSTATE. -/
def tstate (s : State) (i : Nat) : Nat :=
  if siteAbsent s i then 0
  else if !sitePowered s i then (if (entryAt s i).state == .failed && (entryAt s i).reason == 9 then 4 else 1)
  else if (siteHots s i).any (fun h => h.warn.raised) then 3
  else 2

/-- A bit for each hot spot that meets a condition. -/
def hotBits (f : HotState → Bool) (hs : List HotState) : Nat :=
  hs.zipIdx.foldl (fun m h => m + (if f h.1 then 2 ^ h.2 else 0)) 0

/-- The highest governing reading. -/
def hottest (hs : List HotState) : Option Int :=
  hs.foldl (fun m h => match m, hotReading h with | some a, some b => some (max a b) | none, x => x | m, none => m) none

/-- The 48 bytes of a site record (Table 18-6). -/
def coolSiteBytes (s : State) (i : Nat) : List Byte :=
  let role := placeRole i
  let on := !siteAbsent s i && sitePowered s i
  let hs := if siteAbsent s i then [] else siteHots s i
  let reading (n : Nat) : Option Int := if !on then none else ((hs.getD (n / 2) hotZero).last.getD (n % 2) none)
  natLe 1 (siteX i) ++ natLe 1 (siteY i) ++ natLe 1 (tstate s i)
    ++ natLe 1 (b2n (hs.any (fun h => h.episode)) + 2 * b2n (hs.any (fun h => diodeGone h 0 || diodeGone h 1))
      + 4 * b2n (hs.any hotLost))
    ++ tempBytes (if on then hottest hs else none) ++ natLe 1 (if role = 0 then 0 else hotSpots role)
    ++ natLe 1 (hotBits (fun h => h.episode) hs)
    ++ natLe 2 (hs.zipIdx.foldl (fun m h => m + (b2n (diodeGone h.1 0) + 2 * b2n (diodeGone h.1 1)) * 4 ^ h.2) 0)
    ++ natLe 2 (if role = 6 then twos 16 (mapGetD s.cool.strain i 0) else 0) ++ copies 4 0
    ++ (List.range 16).flatMap (fun n => tempBytes (reading n))

/-- COOLING_STATUS. -/
def doCoolingStatus (c : Cmd) (pay : List Byte) (s : State) : State :=
  checked c (statusChecks c 10816 pay)
    (needProc (kingPtc s) c pay (fun s =>
      completeWithBuf c (leAt pay 8 8) (coolHeader s ++ (List.range 224).flatMap (coolSiteBytes s)) 0 s)) s

/-- COOLING_STATUS. -/
def execCoolingStatus (c : Cmd) (s : State) : Out := runRow c 0x0900 doCoolingStatus s

end Sys2Proof.Machine
end

