-- ==== Sys2Proof/Machine/VectorEngine.lean ====
section
/-! DEFINITION. The vector engine (Vector Engine and Fused Chains, R140 to R166). -/

namespace Sys2Proof.Machine

/-- A lane format (R144, R150). -/
abbrev LaneFm := Fm

/-- The lanes of a beat with their format; a blocked CVT result has one scale entry per block besides. -/
structure Beat where
  fm : LaneFm
  lanes : List W32
  scales : List Nat
  deriving DecidableEq, Repr

/-- A beat of zeros. -/
def beatZero : Beat := ⟨.fp32, copies 128 0, []⟩

/-! ## Widening (R144) -/

/-- An unblocked element widened: the lane's bits. -/
def widenElem (f : Fm) (b : Nat) : W32 :=
  match f with
  | .fp32 | .int32 => BitVec.ofNat 32 b
  | .int8 => BitVec.ofNat 32 (twos 32 (signed 8 b))
  | .e8m0 | .dp4w => BitVec.ofNat 32 b
  | _ => (toF32 .rne (fmDecode f b)).1

/-- The lane format of a widened stream. -/
def widenFm : Fm → LaneFm
  | .int8 | .int32 | .e8m0 | .dp4w => .int32
  | _ => .fp32

/-- Element i of a stream whose rows a function gives, widened, with its flags (R95, R99, R142 to R144).
`bound` places the scale rows. -/
def streamElem (f : Fm) (bound : Nat) (rowOf : Nat → Row) (i : Nat) : W32 × NumFlags :=
  let w := fmBits f
  if fmBlocked f then
    let blk := i / 32
    let bpr := fmBlocksPerRow f
    let row := rowOf (blk / bpr)
    let base := streamElemRows f bound
    let sc := if f = .dp4 then rowBits (rowOf (base + blk / 256)) (16 * (blk % 256)) 16
      else rowBits (rowOf (base + blk / 512)) (8 * (blk % 512)) 8
    toF32 .rne (blockElem f sc (i % 32) (rowBits row (32 * w * (blk % bpr) + w * (i % 32)) w))
  else
    let per := fmPerRow f
    (widenElem f (rowBits (rowOf (i / per)) (w * (i % per)) w), noFlags)

/-- The rows of a stream, from the slot's base, that beat b reads when the effective VL is `eff` (R141, R147). -/
def beatRows (f : Fm) (bound eff b : Nat) : List Nat :=
  let lo := 128 * b
  let hi := min eff (128 * (b + 1))
  if hi ≤ lo then []
  else if fmBlocked f then
    let bpr := fmBlocksPerRow f
    let per := if f = .dp4 then 256 else 512
    let base := streamElemRows f bound
    let r0 := lo / 32 / bpr
    let r1 := (hi - 1) / 32 / bpr
    let q0 := lo / 32 / per
    let q1 := (hi - 1) / 32 / per
    (List.range (r1 + 1 - r0)).map (fun i => r0 + i) ++ (List.range (q1 + 1 - q0)).map (fun i => base + q0 + i)
  else
    let r0 := lo / fmPerRow f
    let r1 := (hi - 1) / fmPerRow f
    (List.range (r1 + 1 - r0)).map (fun i => r0 + i)

/-! ## Stages (Table 5-4) -/

/-- The value that a lane converts by (R602): an E8M0 or DP4 scale word lane as its raw encoding. -/
def laneVal (f : LaneFm) (x : W32) : FVal :=
  match f with
  | .e8m0 | .dp4w => .fin false x.toNat 0
  | _ => fmDecode f x.toNat

/-- A lane converted to an unblocked format (R99, R100, R602). -/
def cvtLane (src dst : LaneFm) (md : RMode) (x : W32) : W32 × NumFlags :=
  let r := match dst, src with
    | .e8m0, .int32 => cvtRaw 8 (signed 32 x.toNat)
    | .e8m0, .e8m0 => cvtRaw 8 x.toNat
    | .e8m0, .dp4w => cvtRaw 8 x.toNat
    | .dp4w, .int32 => cvtRaw 16 (signed 32 x.toNat)
    | .dp4w, _ => cvtRaw 16 x.toNat
    | _, _ => cvtVal dst md (laneVal src x)
  (BitVec.ofNat 32 r.1, r.2)

/-- One or zero as INT32. -/
def boolLane (b : Bool) : W32 := if b then 1 else 0

/-- FCMP (R153). -/
def fCmp (cond : Nat) (a b : W32) : Bool :=
  let x := f32 a
  let y := f32 b
  let un := x == .nan || y == .nan
  match cond with
  | 0 => !un && fEq x y
  | 1 => un || !fEq x y
  | 2 => !un && fLt x y
  | 3 => !un && (fLt x y || fEq x y)
  | 4 => !un && fLt y x
  | 5 => !un && (fLt y x || fEq x y)
  | _ => un

/-- ICMP. -/
def iCmp (cond : Nat) (a b : W32) : Bool :=
  let x := a.toInt
  let y := b.toInt
  match cond with
  | 0 => x == y
  | 1 => x != y
  | 2 => decide (x < y)
  | 3 => decide (x ≤ y)
  | 4 => decide (y < x)
  | _ => decide (y ≤ x)

/-- A stage that works lane by lane: the lane's result with its flags, from the operand lanes. -/
def laneOp (op param : Nat) (md : RMode) (a b c : W32) : W32 × NumFlags :=
  let plain (x : W32) : W32 × NumFlags := (x, noFlags)
  let count : Nat := if bitAt param 6 then b.toNat % 32 else param % 32
  match op with
  | 0x01 => f32Add md a b
  | 0x02 => (match fAdd (f32 a) (fNeg (f32 b)) with | (v, n) => withNanc n (toF32 md v))
  | 0x03 => f32Mul md a b
  | 0x04 => f32Fma md a b c
  | 0x05 => plain (if f32 a == .nan then nan32 else a &&& 0x7FFFFFFF#32)
  | 0x06 => plain (if f32 a == .nan then nan32 else a ^^^ 0x80000000#32)
  | 0x07 => plain (fMinMax false a b)
  | 0x08 => plain (fMinMax true a b)
  | 0x09 => plain (boolLane (fCmp param a b))
  | 0x0A => fExp a
  | 0x0B => fLog a
  | 0x0C => fRcp a
  | 0x0D => fRsqrt a
  | 0x0E => fSqrt a
  | 0x0F => fTanh a
  | 0x10 => fSigm a
  | 0x11 => fGelu a
  | 0x12 => plain (a + b)
  | 0x13 => plain (a - b)
  | 0x14 => plain (a * b)
  | 0x15 => plain (if a.toInt ≤ b.toInt then a else b)
  | 0x16 => plain (if a.toInt ≤ b.toInt then b else a)
  | 0x17 => plain (boolLane (iCmp param a b))
  | 0x18 => plain (a &&& b)
  | 0x19 => plain (a ||| b)
  | 0x1A => plain (a ^^^ b)
  | 0x1B => plain (~~~a)
  | 0x1C => plain (a <<< count)
  | 0x1D => plain (a >>> count)
  | 0x1E => plain (a.sshiftRight count)
  | 0x20 => plain a
  | 0x21 => plain (if a ≠ 0 then b else c)
  | 0x22 => plain a
  | _ => plain a

/-- The operation of RED and RUN on two lanes (R154, R155); a NaN and a signed zero go as in FMIN and FMAX (DESIGN CHOICE,
log entry 142). -/
def redOp (f : LaneFm) (code : Nat) (a b : W32) : W32 × NumFlags :=
  if f = .int32 then
    match code with
    | 0 => (a + b, noFlags)
    | 1 => (if a.toInt ≤ b.toInt then b else a, noFlags)
    | _ => (if a.toInt ≤ b.toInt then a else b, noFlags)
  else
    match code with
    | 0 => f32Add .rne a b
    | 1 => (fMinMax true a b, noFlags)
    | _ => (fMinMax false a b, noFlags)

/-- The identity of RED and RUN (R154). -/
def redIdentity (f : LaneFm) (code : Nat) : W32 :=
  if f = .int32 then (match code with | 0 => 0 | 1 => 0x80000000#32 | _ => 0x7FFFFFFF#32)
  else (match code with | 0 => 0 | 1 => inf32 true | _ => inf32 false)

/-- One level of the fixed tree: pairs 2L with 2L + 1 (R154). -/
def redLevel (f : LaneFm) (code : Nat) : List W32 → List W32 × NumFlags
  | a :: b :: l =>
    let x := redOp f code a b
    let r := redLevel f code l
    (x.1 :: r.1, flagsOr x.2 r.2)
  | l => (l, noFlags)

/-- The tree of `n` levels. -/
def redTree (f : LaneFm) (code : Nat) : Nat → List W32 → W32 × NumFlags
  | 0, l => (l.getD 0 0, noFlags)
  | n + 1, l =>
    let r := redLevel f code l
    let q := redTree f code n r.1
    (q.1, flagsOr r.2 q.2)

/-- RED over groups of G = 2^(code + 3) lanes (R154). -/
def redStage (f : LaneFm) (param : Nat) (active : Nat → Bool) (lanes : List W32) : List W32 × NumFlags :=
  let lg := param % 8 + 3
  let g := 2 ^ lg
  let op := fld param 5 4
  let src := (List.range 128).map (fun l => if active l then lanes.getD l 0 else redIdentity f op)
  let rs := (List.range (128 / g)).map (fun i => redTree f op lg ((src.drop (g * i)).take g))
  ((List.range 128).map (fun l => (rs.getD (l / g) (0, noFlags)).1), rs.foldl (fun a r => flagsOr a r.2) noFlags)

/-- The result format of a stage (Table 5-4, R603). -/
def stageFm (op : Nat) (dst a b c : LaneFm) (bImm : Bool) : LaneFm :=
  if op = 0x26 then dst
  else if op = 0x20 ∨ op = 0x23 ∨ op = 0x24 ∨ op = 0x25 then a
  else if op = 0x21 then (if bImm then c else b)
  else if op = 0x22 then (if a = .fp32 then .int32 else .fp32)
  else if op = 0x09 ∨ (0x12 ≤ op ∧ op ≤ 0x1E) then .int32
  else .fp32

/-- Whether a stage takes draws (R98, R107, R151). -/
def stageSr (g : Nat) : Bool :=
  sgRnd g == 2 && (sgOp g == 0x01 || sgOp g == 0x02 || sgOp g == 0x03 || sgOp g == 0x04 || sgOp g == 0x26)

/-- What runs along with the beats: the generators, and the RUN accumulators of each stage. -/
structure ChainRun where
  sr : List W32
  accs : List (List W32)
  deriving DecidableEq, Repr

/-- An operand of a stage (Table 5-3). -/
def stageSrc (entry : List Byte) (g b code : Nat) (ins results : List Beat) : Beat :=
  if code = 0 then beatZero
  else if code ≤ 3 then ins.getD (code - 1) beatZero
  else if code = 4 then ⟨.fp32, copies 128 (ceImm entry (sgImm g)), []⟩
  else if code = 5 then ⟨.int32, (List.range 128).map (fun l => BitVec.ofNat 32 l), []⟩
  else if code = 6 then ⟨.int32, (List.range 128).map (fun l => BitVec.ofNat 32 (128 * b + l)), []⟩
  else results.getD (code - 8) beatZero

/-- A CVT to a blocked format over the four blocks of a beat: inactive elements count as zero, and a block with no
active element sets no flag (R101 to R104). -/
def quantBeat (dst src : LaneFm) (md : Nat → RMode) (active : Nat → Bool) (lanes : List W32) : Beat × NumFlags :=
  let blocks := (List.range 4).map (fun q =>
    quantBlock dst (fun n => md (32 * q + n)) ((List.range 32).map (fun n =>
      if active (32 * q + n) then laneVal src (lanes.getD (32 * q + n) 0) else .fin false 0 0)))
  (⟨dst, blocks.flatMap (fun x => x.1.map (fun e => BitVec.ofNat 32 e)), blocks.map (fun x => x.2.1)⟩,
   (List.range 4).foldl (fun a q =>
     if active (32 * q) then flagsOr a (blocks.getD q ([], 0, noFlags)).2.2 else a) noFlags)

/-- One stage on a beat: its result, its flags, and the generators and accumulators after it (R150 to R156). -/
def runStage (entry : List Byte) (i b : Nat) (active : Nat → Bool) (ins results : List Beat) (cr : ChainRun) :
    Beat × NumFlags × ChainRun :=
  let g := ceStage entry i
  let op := sgOp g
  let param := sgParam g
  let a := stageSrc entry g b (sgSrcA g) ins results
  let bb := stageSrc entry g b (sgSrcB g) ins results
  let c := stageSrc entry g b (sgSrcC g) ins results
  let dst := (fmOfCode (sgFmt g)).getD .fp32
  let sr := if stageSr g then cr.sr.map srDraw else cr.sr
  let md (l : Nat) : RMode := rmodeOf (sgRnd g) (sr.getD l 0).toNat
  let cr := { cr with sr := sr }
  let fm := stageFm op dst a.fm bb.fm c.fm (sgSrcB g == 4)
  if op = 0x23 then (⟨fm, copies 128 (a.lanes.getD param 0), []⟩, noFlags, cr)
  else if op = 0x24 then
    let r := redStage a.fm param active a.lanes
    (⟨fm, r.1, []⟩, r.2, cr)
  else if op = 0x25 then
    let o := fld param 5 4
    let acc := cr.accs.getD i []
    let acc := if acc.isEmpty then copies 128 (redIdentity a.fm o) else acc
    let rs := (List.range 128).map (fun l =>
      if active l then redOp a.fm o (acc.getD l 0) (a.lanes.getD l 0) else (acc.getD l 0, noFlags))
    (⟨fm, rs.map (fun x => x.1), []⟩, rs.foldl (fun f x => flagsOr f x.2) noFlags,
      { cr with accs := cr.accs.set i (rs.map (fun x => x.1)) })
  else if op = 0x26 ∧ fmBlocked dst then
    let q := quantBeat dst a.fm md active a.lanes
    (q.1, q.2, cr)
  else
    let rs := (List.range 128).map (fun l =>
      if op = 0x26 then cvtLane a.fm dst (md l) (a.lanes.getD l 0)
      else laneOp op param (md l) (a.lanes.getD l 0) (bb.lanes.getD l 0) (c.lanes.getD l 0))
    (⟨fm, rs.map (fun x => x.1), []⟩,
      (List.range 128).foldl (fun f l => if active l then flagsOr f (rs.getD l (0, noFlags)).2 else f) noFlags, cr)

/-- All stages on a beat: the results, and the flags of each stage (R165). -/
def runStages (entry : List Byte) (b : Nat) (active : Nat → Bool) (ins : List Beat) :
    Nat → Nat → List Beat → List NumFlags → ChainRun → List Beat × List NumFlags × ChainRun
  | 0, _, rs, fs, cr => (rs, fs, cr)
  | n + 1, i, rs, fs, cr =>
    let r := runStage entry i b active ins rs cr
    runStages entry b active ins n (i + 1) (rs ++ [r.1]) (fs ++ [r.2.1]) r.2.2

/-! ## A chain (R157 to R165) -/

/-- What a chain reads: for each input stream its format, whether it is scalar, whether it is a tile, and its rows
by index and beat. -/
structure ChainIn where
  fm : Fm
  scalar : Bool
  base : Nat
  tile : Option (List Row)
  underrun : Bool
  deriving DecidableEq, Repr

/-- The input lanes of a beat (R141, R144, R145, R146, R137) with the flags of widening. -/
def beatInput (s : State) (k t0 bound eff b : Nat) (x : ChainIn) : Beat × NumFlags :=
  let fm := widenFm x.fm
  if x.underrun then (⟨.fp32, copies 128 0, []⟩, noFlags)
  else if x.scalar then
    (⟨fm, copies 128 (streamElem x.fm bound (fun r => rowAt s k (x.base + r) t0) 0).1, []⟩, noFlags)
  else
    let rowOf (r : Nat) : Row := match x.tile with
      | some rows => rows.getD r 0
      | none => rowAt s k (x.base + r) (t0 + b)
    let es := (List.range 128).map (fun l =>
      if 128 * b + l < eff then streamElem x.fm bound rowOf (128 * b + l) else (0, noFlags))
    (⟨fm, es.map (fun e => e.1), []⟩, es.foldl (fun f e => flagsOr f e.2) noFlags)

/-- What a chain computes: the results of its output stages beat by beat, the flags with their cycles, and the
generators. -/
structure ChainOut where
  beats : List (List Beat)
  flags : List (Nat × NumFlags)
  cr : ChainRun
  deriving DecidableEq, Repr

/-- Beat by beat, from beat `b` on. -/
def runBeats (s : State) (k t0 bound eff deep : Nat) (entry : List Byte) (ins : List ChainIn) :
    Nat → Nat → ChainRun → ChainOut
  | 0, _, cr => ⟨[], [], cr⟩
  | n + 1, b, cr =>
    let rd := ins.map (beatInput s k t0 bound eff b)
    let wf := rd.foldl (fun f x => flagsOr f x.2) noFlags
    let r := runStages entry b (fun l => decide (128 * b + l < eff)) (rd.map (fun x => x.1)) (ceNstages entry) 0 [] [] cr
    let q := runBeats s k t0 bound eff deep entry ins n (b + 1) r.2.2
    let fl := (t0 + b + 2 + deep, wf) :: (List.range (ceNstages entry)).map (fun i =>
      (t0 + b + 2 + 3 * (i + 1) + deep, r.2.1.getD i noFlags))
    ⟨r.1 :: q.beats, fl.filter (fun x => x.2 != noFlags) ++ q.flags, q.cr⟩

/-- The row writes of an output stream (R142, R143, R147): row offsets, cycles after the first write, and contents.
`elems` and `scales` are the stream's elements and scale entries up to the effective VL. -/
def outWrites (f : Fm) (bound eff : Nat) (elems scales : List Nat) : List (Nat × Nat × Row) :=
  let w := fmBits f
  let nb := (eff + 127) / 128
  let per := fmPerRow f
  let sPer := if f = .dp4 then 256 else 512
  let sW := if f = .dp4 then 16 else 8
  let base := streamElemRows f bound
  (List.range nb).flatMap (fun b =>
    let hi := min eff (128 * (b + 1))
    let r0 := 128 * b / per
    let r1 := (hi - 1) / per
    let es := (List.range (r1 + 1 - r0)).map (fun i =>
      let r := r0 + i
      (r, b, rowOfElems w ((elems.drop (per * r)).take (min per (hi - per * r)))))
    if fmBlocked f then
      let blkHi := min ((eff + 31) / 32) (4 * (b + 1))
      let q := 4 * b / sPer
      es ++ [(base + q, b, rowOfElems sW ((scales.drop (sPer * q)).take (blkHi - sPer * q)))]
    else es)

/-- The elements and the scale entries that a stage's beats give to an output stream. -/
def outElems (eff : Nat) (beats : List Beat) : List Nat × List Nat :=
  ((beats.flatMap (fun b => b.lanes.map (fun x => x.toNat))).take eff,
   (beats.flatMap (fun b => b.scales)).take ((eff + 31) / 32))

/-- VECTOR_CHAIN issues into the operation queue (R55, R68). -/
def execVectorChain (k : CoreId) (t : Nat) (s : State) : Out :=
  let push (shim : Bool) (o : BitVec 128) (s : State) : State := modCore (coreNo k) (fun c =>
    let e : EngineOp := ⟨c.seq.issue.idx, o, walkStart o c.seq.issue, shim⟩
    { c with eng := { c.eng with vxQueue := c.eng.vxQueue ++ [e] } }) s
  issueRun (coreNo k) t .vectorChain (push true) (fun o _ s => push false o s) s

/-- The rows that a chain's streams occupy for its bound, by stream (R142, R143, R145). -/
def chainSpans (c : Core) (o : BitVec 128) (entry : List Byte) : List (List Nat) × List (List Nat) :=
  let bound := vxBound o
  let span (slot : Nat) (f : Fm) (scalar : Bool) : List Nat :=
    slotSpan c slot 0 (if scalar then 1 else streamElemRows f bound + streamScaleRows f bound)
  ((List.range (ceNin entry)).map (fun n =>
      if n = 0 ∧ vxFromTq o then [] else
      span (vxInSlot o n) ((fmOfCode (ceInFmt entry n)).getD .fp32) (ceScalar entry n)),
   (List.range (ceNout entry)).map (fun n =>
      span (vxOutSlot o n) ((fmOfCode (ceOutFmt entry n)).getD .fp32) false))

/-- Whether a chain's own writes fall into rows that it reads in a way that R162 does not allow. -/
def chainOverlap (o : BitVec 128) (entry : List Byte) (ins outs : List (List Nat)) : Bool :=
  (List.range ins.length).any (fun n =>
    (List.range outs.length).any (fun m =>
      let fi := (fmOfCode (ceInFmt entry n)).getD .fp32
      let fo := (fmOfCode (ceOutFmt entry m)).getD .fp32
      let hit := (ins.getD n []).any (fun r => (outs.getD m []).contains r)
      let allowed := vxInSlot o n == vxOutSlot o m && decide (fmBits fo ≤ fmBits fi) && !fmBlocked fi
        && !fmBlocked fo && !ceScalar entry n
      hit && !allowed))

/-- A chain that is no shim starts in cycle `t` (R134, R137, R140 to R166, R192, R212). Where two output streams write a row
in one cycle, stream 1 wins (DESIGN CHOICE, log entry 141). BUSY of a chain that writes no row ends as if every beat of its
bound wrote (DESIGN CHOICE, log entry 143). -/
def chainStart (k t : Nat) (e : EngineOp) (s : State) : State :=
  let o := e.word
  let c := coreOf s k
  let entry := chainEntry c o
  let bound := vxBound o
  let ctr := (counterAt c (vxVlCtr o) t).1.toNat
  let eff := vxEff c o t
  let spans := chainSpans c o entry
  let deep := deepTerm (spans.1.flatten ++ spans.2.flatten)
  let fill := 6 + 3 * ceNstages entry + deep
  let nbound := vxBeats o
  let nb := (eff + 127) / 128
  -- the tile of stream 0 (R134, R137)
  let tile := if vxFromTq o ∧ eff ≥ 1 then (tilesAt c t).find? (fun x => x.gone.isNone && decide (x.stamp ≤ t)) else none
  let under := vxFromTq o && decide (eff ≥ 1) && tile.isNone
  let c1 : Core := { c with
    eng := { c.eng with tiles := match tile with
      | none => c.eng.tiles
      | some x => c.eng.tiles.map (fun y => if y == x then { y with gone := some (t + nb - 1) } else y) }
    st := { c.st with
      chains := satInc 65535 c.st.chains
      vlClamps := if vxVlSrc o ∧ ctr > bound then satInc 4095 c.st.vlClamps else c.st.vlClamps } }
  let s := setCore k c1 s
  let s := if under then
      noteEvent k 3 1 e.idx t (tilesAt c t).length (fun q => { q with tileUnderrun := satInc 4095 q.tileUnderrun }) s
    else s
  -- tag tests (R192)
  let inSlots := ((List.range (ceNin entry)).filter (fun n => !(n == 0 && vxFromTq o))).map (vxInSlot o)
  let s := inSlots.eraseDups.foldl (fun s n => expectTag k n true e.idx t s) s
  -- the beats
  let ins := (List.range (ceNin entry)).map (fun n =>
    let isTile := decide (n = 0) && vxFromTq o
    (⟨(fmOfCode (ceInFmt entry n)).getD .fp32, ceScalar entry n, slotBaseOf c (vxInSlot o n),
      if isTile then tile.map (fun x => x.rows) else none, isTile && under⟩ : ChainIn))
  let out := runBeats s k t bound eff deep entry ins nb 0 ⟨c.eng.srState, copies (ceNstages entry) []⟩
  let reads := (List.range ins.length).flatMap (fun n =>
    let x := ins.getD n ⟨.fp32, false, 0, none, false⟩
    if n = 0 ∧ vxFromTq o ∨ nb = 0 then []
    else if x.scalar then [(x.base, t)]
    else (List.range nb).flatMap (fun b => (beatRows x.fm bound eff b).map (fun r => (x.base + r, t + b))))
  let s := checkReads k reads (examineParity k t 2 s)
  let s := match tile with
    | some x => examineAcc k t (2 + (tilesAt c t).idxOf x) s
    | none => s
  let f := freshOp k s
  let s := modCore k (fun c =>
    let c := { c with eng := { c.eng with
      srState := out.cr.sr
      flagsDue := c.eng.flagsDue ++ out.flags.map (fun x => ⟨x.1, x.2, f.1⟩)
      vxBusy := max c.eng.vxBusy (t + fill + (if ceNout entry = 0 ∨ eff = 0 then nbound else nb) - 1)
      vxIdle := max c.eng.vxIdle (t + fill + nbound + 1) } }
    let c := planTags ⟨.vectorIn, t + nbound + deep,
      (((List.range (ceNin entry)).filter (fun n => vxInConsume o n && !(n == 0 && vxFromTq o))).map
        (vxInSlot o)).eraseDups, []⟩ c
    planTags ⟨.vectorOut, t + fill + nbound, [],
      ((List.range (ceNout entry)).map (vxOutSlot o)).eraseDups⟩ c) f.2
  let s := if reads.isEmpty then s
    else openWin k ⟨.vx, f.1, (reads.map (fun p => p.1)).eraseDups, t, t + nbound - 1⟩ s
  let s := (List.range (ceNout entry)).foldl (fun s m =>
    let fo := (fmOfCode (ceOutFmt entry m)).getD .fp32
    let es := outElems eff (out.beats.map (fun rs => rs.getD (ceOutSrc entry m) beatZero))
    (outWrites fo bound eff es.1 es.2).foldl (fun s w =>
      putRow k (slotBaseOf c (vxOutSlot o m) + w.1) (t + fill + w.2.1 + 1) w.2.2 .vx f.1 s) s) s
  if chainOverlap o entry spans.1 spans.2 then taintOp k f.1 s else s

/-- A queued chain starts on the free engine (R55, R160). A shim occupies the engine and no more (R164). -/
def execVectorChainStart (k : CoreId) (t : Nat) (s : State) : Out :=
  match enterCycle (coreNo k) t s with
  | none => .next s
  | some (_, _, s') =>
    match (coreOf s' (coreNo k)).eng.vxQueue with
    | [] => .next s
    | e :: es =>
      if e.start ≠ t then .next s
      else
        let s := modCore (coreNo k) (fun c => { c with eng := { c.eng with
          vxQueue := es, vxIdle := max c.eng.vxIdle (t + vxBeats e.word) } }) s'
        .next (if e.shim then s else chainStart (coreNo k) t e s)

/-- At t₀ + B the consumed input slots become empty (R163). -/
def execVectorInputConsume (k : CoreId) (t : Nat) (s : State) : Out :=
  runTagActs .vectorIn (coreNo k) t (fun _ => false) s

/-- At t₀ + F + B the output slots become full (R163). -/
def execVectorOutputFull (k : CoreId) (t : Nat) (s : State) : Out :=
  runTagActs .vectorOut (coreNo k) t (fun _ => true) s

end Sys2Proof.Machine
end

