-- ==== Sys2Proof/Machine/ImageForm.lean ====
section
/-! DEFINITION. The form of a bay image: its header, directory and sections, and the rules that operation words,
chain-table entries and peg entries meet by themselves (R59, R76, R77, R149 to R153, R231, R233, R240, R247, R285 to R288,
R602, R603, R605). -/

namespace Sys2Proof.Machine

/-! ## Load errors -/

/-- Why a load fails: its status, load fault, offset in the image and core (Table 10-9). -/
structure LoadErr where
  status : Nat
  fault : Nat
  offset : Nat
  cx : Nat
  cy : Nat
  deriving DecidableEq, Repr

/-- A status that is no load fault. -/
def errStatus (st : Nat) : LoadErr := ⟨st, 0, 0xFFFFFFFF, 0xFF, 0xFF⟩
/-- A load fault at an offset. -/
def errFault (code off : Nat) : LoadErr := ⟨stBadField, code, off, 0xFF, 0xFF⟩
/-- A load fault of a core. -/
def errCore (code off k : Nat) : LoadErr := ⟨stBadField, code, off, coreX k, coreY k⟩
/-- The error, where a condition is broken. -/
def errIf (bad : Bool) (e : LoadErr) : Option LoadErr := if bad then some e else none

/-! ## Header (Table 10-3) -/

def imContract (b : List Byte) : Nat := leAt b 0x06 1
def imEpoch (b : List Byte) : Nat := leAt b 0x07 1
def imDrain (b : List Byte) : Nat := leAt b 0x0C 4
def imCx0 (b : List Byte) : Nat := leAt b 0x10 1
def imCy0 (b : List Byte) : Nat := leAt b 0x11 1
def imW (b : List Byte) : Nat := leAt b 0x12 1
def imHt (b : List Byte) : Nat := leAt b 0x13 1
def imNsect (b : List Byte) : Nat := leAt b 0x14 4
def imDirOff (b : List Byte) : Nat := leAt b 0x18 4

/-- The CRC of an image, with its own field taken as zero. -/
def imCrc (b : List Byte) : Nat := crc32 (putBytes b 0x3C (copies 4 0))

/-- Check 2 of Table 10-7, against the length of the payload (R289). -/
def headerErr (b : List Byte) (len : Nat) : Option LoadErr :=
  [(decide (leAt b 0 4 ≠ 0x49425A4C), 0x00), (decide (leAt b 4 2 ≠ 1), 0x04), (decide (leAt b 8 4 ≠ len), 0x08),
    (decide (leAt b 0x3C 4 ≠ imCrc b), 0x3C), (decide (imDrain b = 0 ∨ 1000 < imDrain b), 0x0C),
    (decide (15 < imEpoch b), 0x07), (!zeroAt b 0x20 28, 0x20)].findSome? (fun x => errIf x.1 (errFault 1 x.2))

/-! ## Directory (Tables 10-4, 10-5) -/

/-- A section, with the offset of its directory entry. -/
structure Sect where
  typ : Nat
  cx : Nat
  cy : Nat
  off : Nat
  len : Nat
  entry : Nat
  deriving DecidableEq, Repr

/-- An image under check, with its core set. -/
structure Img where
  bytes : List Byte
  cx0 : Nat
  cy0 : Nat
  w : Nat
  ht : Nat
  deep : Bool
  sects : List Sect
  deriving DecidableEq, Repr

/-- A core in the core set. -/
def imHas (im : Img) (cx cy : Nat) : Bool :=
  decide (im.cx0 ≤ cx) && decide (cx < im.cx0 + im.w) && decide (im.cy0 ≤ cy) && decide (cy < im.cy0 + im.ht)

/-- The cores of the core set, in order of cy and then cx. -/
def imCores (im : Img) : List Nat :=
  (List.range im.ht).flatMap (fun j => (List.range im.w).map (fun i => coreAt (im.cx0 + i) (im.cy0 + j)))

/-- A directory entry. -/
def sectAt (b : List Byte) (i : Nat) : Sect :=
  let o := imDirOff b + 16 * i
  ⟨leAt b o 1, leAt b (o + 2) 1, leAt b (o + 3) 1, leAt b (o + 4) 4, leAt b (o + 8) 4, o⟩

/-- The sections of a type of a core. -/
def coreSects (im : Img) (t k : Nat) : List Sect :=
  im.sects.filter (fun x => x.typ == t && x.cx == coreX k && x.cy == coreY k)

/-- The bytes of a section. -/
def sectBytes (im : Img) (x : Sect) : List Byte := bytesAt im.bytes x.off x.len

/-- The bytes of the only section of a type of a core, none where it is absent or empty, with its offset. -/
def coreSect (im : Img) (t k : Nat) : List Byte × Nat :=
  match coreSects im t k with
  | x :: _ => (sectBytes im x, x.off)
  | [] => ([], 0xFFFFFFFF)

/-! ## Router tables (Table 10-6) -/

def ptInit (b : List Byte) (o : Nat) : Nat := leAt b o 1
def ptValid (b : List Byte) (o p : Nat) : Bool := bitAt (leAt b (o + 1) 1) p
def ptPeriod (b : List Byte) (o p : Nat) : Nat := leAt b (o + 2 + 2 * p) 2

/-- The entries of the valid pages before a page. -/
def ptBefore (b : List Byte) (o p : Nat) : Nat :=
  ((List.range p).filter (ptValid b o)).foldl (fun n q => n + ptPeriod b o q) 0
/-- The length of a router table. -/
def ptLen (b : List Byte) (o : Nat) : Nat := 32 + 16 * ptBefore b o 8
/-- The offset of an entry of a page. -/
def ptEntryOff (b : List Byte) (o p i : Nat) : Nat := o + 32 + 16 * (ptBefore b o p + i)
/-- The entries of a page. -/
def ptEntries (b : List Byte) (o p : Nat) : List (BitVec 128) :=
  if ptValid b o p then (List.range (ptPeriod b o p)).map (fun i => BitVec.ofNat 128 (leAt b (ptEntryOff b o p i) 16))
  else []

/-- The offsets of `n` router tables, one after another, and the end of the last. -/
def ptOffsets (b : List Byte) : Nat → Nat → List Nat × Nat
  | 0, o => ([], o)
  | n + 1, o => let r := ptOffsets b n (o + ptLen b o); (o :: r.1, r.2)

/-! ## Section rules (R285, R286) -/

/-- Whether a section's LENGTH is one that Table 10-5 gives its type. -/
def lengthOk (im : Img) (x : Sect) : Bool :=
  let n := x.len
  let b := sectBytes im x
  match x.typ with
  | 1 => n % 16 == 0
  | 2 => n == 0 || n == 512
  | 3 => n % 96 == 0 && decide (1 ≤ n / 96) && decide (n / 96 ≤ 32)
  | 4 => n == 0 || (ptOffsets b (if im.deep then 8 else 1) 0).2 == n
  | 5 => n == 0 || (decide (8 ≤ n) && n == 8 + 4 * (leAt b 0 1 + leAt b 1 1))
  | 6 => n == 0 || (decide (8 ≤ n) && n == 8 + 512 * leAt b 2 2)
  | 7 => n % 16 == 0 && decide (n ≤ 16384)
  | _ => false

/-- Two ranges share a byte. -/
def rangesMeet (a n b m : Nat) : Bool := decide (0 < n) && decide (0 < m) && decide (a < b + m) && decide (b < a + n)

/-- Whether a section breaks a rule of R285 or R286, after the sections before it. -/
def sectBad (im : Img) (before : List Sect) (x : Sect) : Bool :=
  let b := im.bytes
  !zeroAt b (x.entry + 1) 1 || !zeroAt b (x.entry + 12) 4 || x.typ == 0 || decide (7 < x.typ) || x.off % 16 != 0
    || decide (b.length < x.off + x.len)
    || (if x.typ = 7 then x.cx != 0xFF || x.cy != 0xFF else !imHas im x.cx x.cy)
    || !lengthOk im x
    || (x.typ != 6 && before.any (fun y => y.typ == x.typ && y.cx == x.cx && y.cy == x.cy))
    || rangesMeet x.off x.len 0 64 || rangesMeet x.off x.len (imDirOff b) (16 * imNsect b)
    || before.any (fun y => rangesMeet x.off x.len y.off y.len)

/-- The first section that breaks a rule. -/
def sectsErr (im : Img) : List Sect → List Sect → Option LoadErr
  | _, [] => none
  | before, x :: xs =>
    if sectBad im before x then some ⟨stBadField, 2, x.entry, x.cx, x.cy⟩ else sectsErr im (before ++ [x]) xs

/-- Whether the directory itself stands in the image as R285 says. -/
def directoryBad (b : List Byte) : Bool :=
  imNsect b == 0 || decide (65536 < imNsect b) || imDirOff b % 16 != 0 || decide (imDirOff b < 64)
    || decide (b.length < imDirOff b + 16 * imNsect b)

/-- Check 9 of Table 10-7. -/
def directoryErr (im : Img) : Option LoadErr :=
  if directoryBad im.bytes then some (errFault 2 0x14) else sectsErr im [] im.sects

/-! ## Operation words (R59, R76, R77) -/

/-- A field of a word is zero. -/
def zf (w : BitVec 128) (hi lo : Nat) : Bool := ofld w hi lo == 0

/-- Whether a word meets R59 by itself. -/
def wordOk (w : BitVec 128) : Bool :=
  zf w 110 108 && (opChk w || (opChkKind w == 0 && opChkIndex w == 0))
    && (decide (opChkKind w < 2) || decide (opChkIndex w < 4))
    && (match opKind w with
      | none => false
      | some .matrixStep => zf w 32 0
      | some .vectorChain => zf w 31 0
      | some .scanCall => zf w 47 0 && decide (scMode w < 5)
      | some .accessEnq => zf w 72 0 && decide (aeCount w ≤ 8)
      | some .send => zf w 66 0 && decide (srRows w ≤ 1024)
      | some .receive => zf w 66 0 && decide (srRows w ≤ 1024)
      | some .cload => zf w 76 0
      | some .cstep => zf w 76 0
      | some .cloop => zf w 64 0
      | some .ctest => zf w 80 0
      | some .produce => zf w 50 0 && decide (tkSrc w < 3)
      | some .consume => zf w 89 0
      | some .pegPage => zf w 92 0
      | some .epochMark => zf w 94 0)

/-- The ends of the loop bodies around an index, innermost first. -/
def openLoops (i : Nat) (ends : List Nat) : List Nat := ends.dropWhile (fun e => decide (e ≤ i))

/-- The first word whose loop or region breaks R77, for a stream of `n` words. -/
def streamBreak (n : Nat) : List (BitVec 128) → Nat → List Nat → Option Nat
  | [], _, _ => none
  | w :: ws, i, ends =>
    let ends := openLoops i ends
    let room := ends.headD n
    match opKind w with
    | some .cloop =>
      if coBody w = 0 ∨ room < i + 1 + coBody w ∨ 6 ≤ ends.length then some i
      else streamBreak n ws (i + 1) ((i + 1 + coBody w) :: ends)
    | some .ctest =>
      if coSkip w = 0 ∨ room < i + 1 + coSkip w then some i else streamBreak n ws (i + 1) ends
    | _ => streamBreak n ws (i + 1) ends

/-- The first word that breaks R59 or R76. -/
def wordBreak : List (BitVec 128) → Nat → List Nat → Option Nat
  | [], _, _ => none
  | w :: ws, i, ends =>
    let ends := openLoops i ends
    if !wordOk w || (opKind w == some .cloop && coForever w && !ends.isEmpty) then some i
    else wordBreak ws (i + 1) (if opKind w == some .cloop then (i + 1 + coBody w) :: ends else ends)

/-- The words of an OPS section. -/
def opWords (b : List Byte) : List (BitVec 128) :=
  (List.range (b.length / 16)).map (fun i => BitVec.ofNat 128 (leAt b (16 * i) 16))

/-! ## Chain-table entries (R149 to R153, R602, R603) -/

/-- The stages that round (R151). -/
def stageRounds (op : Nat) : Bool := op == 1 || op == 2 || op == 3 || op == 4 || op == 0x26

/-- Whether PARAM holds what Table 5-4 and R153 to R155 define for a stage. -/
def paramOk (op p : Nat) : Bool :=
  if op = 0x09 then decide (p ≤ 6)
  else if op = 0x17 then decide (p ≤ 5)
  else if 0x1C ≤ op ∧ op ≤ 0x1E then !bitAt p 5
  else if op = 0x23 then true
  else if op = 0x24 then decide (p % 8 ≤ 4) && !bitAt p 3 && decide (fld p 5 4 ≤ 2) && !bitAt p 6
  else if op = 0x25 then p % 16 == 0 && decide (fld p 5 4 ≤ 2) && !bitAt p 6
  else p == 0

/-- The lane format of an operand source, given the results of the stages before (Table 5-3, R150, R603): none where the
source is none or may not be named. -/
def sourceFm (e : List Byte) (res : List Fm) (code : Nat) (imm : Fm) : Option Fm :=
  if code = 0 ∨ code = 7 then none
  else if code ≤ 3 then
    (if code ≤ ceNin e then (fmOfCode (ceInFmt e (code - 1))).map widenFm else none)
  else if code = 4 then some imm
  else if code ≤ 6 then some .int32
  else (res[code - 8]?).filter (fun f => !fmBlocked f)

/-- A stage takes its first `n` operands and no other. -/
def takesOnly (g n : Nat) : Bool :=
  (decide (1 ≤ n) || sgSrcA g == 0) && (decide (2 ≤ n) || sgSrcB g == 0) && (decide (3 ≤ n) || sgSrcC g == 0)

/-- A stage of `n` operands of one format, with its result's format. -/
def stageOf (e : List Byte) (res : List Fm) (g n : Nat) (f out : Fm) : Option Fm :=
  let ok (code : Nat) : Bool := sourceFm e res code f == some f
  if takesOnly g n && (decide (n < 1) || ok (sgSrcA g)) && (decide (n < 2) || ok (sgSrcB g))
    && (decide (n < 3) || ok (sgSrcC g)) then some out else none

/-- The format of operand A of a stage that takes FP32 or INT32 alone, with its result's format. -/
def stageEither (e : List Byte) (res : List Fm) (g : Nat) (out : Fm → Fm) : Option Fm :=
  match sourceFm e res (sgSrcA g) .fp32 with
  | some .fp32 => if takesOnly g 1 then some (out .fp32) else none
  | some .int32 => if takesOnly g 1 then some (out .int32) else none
  | _ => none

/-- An immediate fits a format. -/
def immFits (e : List Byte) (g : Nat) (f : Fm) : Bool := decide ((ceImm e (sgImm g)).toNat < 2 ^ fmBits f)

/-- SEL: A is INT32, B and C are of one format. -/
def stageSel (e : List Byte) (res : List Fm) (g : Nat) : Option Fm :=
  let bi := sgSrcB g == 4
  let ci := sgSrcC g == 4
  let fb := sourceFm e res (sgSrcB g) (if ci then .fp32 else (sourceFm e res (sgSrcC g) .fp32).getD .fp32)
  let fc := sourceFm e res (sgSrcC g) (if bi then .fp32 else (sourceFm e res (sgSrcB g) .fp32).getD .fp32)
  match sourceFm e res (sgSrcA g) .int32, fb, fc with
  | some .int32, some b, some c => if b = c ∧ (!(bi || ci) || immFits e g b) then some b else none
  | _, _, _ => none

/-- CVT: a lane to any format of the vector engine; to the DP4 scale word from raw encodings alone (R602). -/
def stageCvt (e : List Byte) (res : List Fm) (g : Nat) : Option Fm :=
  match sourceFm e res (sgSrcA g) .fp32, fmOfCode (sgFmt g) with
  | some f, some t =>
    if takesOnly g 1 && (t != .dp4w || f == .int32) then some t else none
  | _, _ => none

/-- The result format of a stage by its OP; none where the stage breaks R150 or Table 5-4. -/
def stageOp (e : List Byte) (res : List Fm) (g : Nat) : Option Fm :=
  let op := sgOp g
  if op = 1 ∨ op = 2 ∨ op = 3 ∨ op = 7 ∨ op = 8 then stageOf e res g 2 .fp32 .fp32
  else if op = 4 then stageOf e res g 3 .fp32 .fp32
  else if op = 5 ∨ op = 6 ∨ (0x0A ≤ op ∧ op ≤ 0x11) then stageOf e res g 1 .fp32 .fp32
  else if op = 9 then stageOf e res g 2 .fp32 .int32
  else if 0x12 ≤ op ∧ op ≤ 0x1A then stageOf e res g 2 .int32 .int32
  else if op = 0x1B then stageOf e res g 1 .int32 .int32
  else if 0x1C ≤ op ∧ op ≤ 0x1E then stageOf e res g (if bitAt (sgParam g) 6 then 2 else 1) .int32 .int32
  else if op = 0x20 then (if takesOnly g 1 then sourceFm e res (sgSrcA g) .fp32 else none)
  else if op = 0x21 then stageSel e res g
  else if op = 0x22 then stageEither e res g (fun f => if f = .fp32 then .int32 else .fp32)
  else if 0x23 ≤ op ∧ op ≤ 0x25 then stageEither e res g id
  else if op = 0x26 then stageCvt e res g
  else none

/-- The result format of a stage that meets Table 5-2 and R149 to R153. -/
def stageResult (e : List Byte) (res : List Fm) (g : Nat) : Option Fm :=
  let op := sgOp g
  if fld g 29 0 = 0 ∧ (if stageRounds op then sgRnd g ≠ 3 else sgRnd g = 0) ∧ (op = 0x26 ∨ sgFmt g = 0)
      ∧ paramOk op (sgParam g) then stageOp e res g else none

/-- The result formats of the stages, in order; none where one breaks a rule. -/
def stageFms (e : List Byte) : List Nat → List Fm → Option (List Fm)
  | [], res => some res
  | g :: gs, res =>
    match stageResult e res g with
    | none => none
    | some f => stageFms e gs (res ++ [f])

/-- Whether a format byte of a used stream names a format of the vector engine. -/
def streamFmOk (v : Nat) : Bool := (fmOfCode v).isSome

/-- Whether a chain-table entry meets R145, R149 to R153, R602 and R603. -/
def chainOk (e : List Byte) : Bool :=
  let n := ceNstages e
  decide (1 ≤ n) && decide (n ≤ 8) && decide (ceNin e ≤ 3) && decide (ceNout e ≤ 2)
    && decide (leAt e 3 1 < 2 ^ ceNin e)
    && (List.range 3).all (fun i => if i < ceNin e then streamFmOk (ceInFmt e i) else ceInFmt e i == 0)
    && (List.range (ceNin e)).all (fun i => !(ceScalar e i && fmBlocked ((fmOfCode (ceInFmt e i)).getD .fp32)))
    && zeroAt e 7 1 && zeroAt e 0xC 4
    && (List.range 8).all (fun i => decide (i < n) || ceStage e i == 0)
    && (match stageFms e ((List.range n).map (ceStage e)) [] with
      | none => false
      | some res => (List.range 2).all (fun i =>
          if i < ceNout e then
            (match fmOfCode (ceOutFmt e i), res[ceOutSrc e i]? with
              | some f, some r => f == r
              | _, _ => false)
          else ceOutFmt e i == 0 && ceOutSrc e i == 0))

/-- The entries of a CHAINS section. -/
def chainEntries (b : List Byte) : List (List Byte) := (List.range (b.length / 96)).map (fun i => bytesAt b (96 * i) 96)

/-! ## Peg entries (R231, R233, R240, R247, R605) -/

/-- What a side of a router is for the image: whether it carries the row layer, whether it is a crossing, and whether it
has an input and an output for the transit and token layers (Table 8-2). -/
structure SideKind where
  lane : Bool
  port : Bool
  hasIn : Bool
  hasOut : Bool
  deriving DecidableEq, Repr

/-- A crossing descriptor (Table 9-7) with its offset. -/
structure XDesc where
  side : Nat
  dir : Nat
  budget : Nat
  cx : Nat
  cy : Nat
  pcx : Nat
  pcy : Nat
  rsvOk : Bool
  off : Nat
  deriving DecidableEq, Repr

/-- A crossing descriptor from its bytes. -/
def xdescOf (b : List Byte) (o : Nat) : XDesc :=
  ⟨leAt b o 1, leAt b (o + 1) 1, leAt b (o + 2) 1, leAt b (o + 4) 1, leAt b (o + 5) 1, leAt b (o + 6) 1,
    leAt b (o + 7) 1, zeroAt b (o + 3) 1 && zeroAt b (o + 8) 8, o⟩

/-- The crossing descriptors of an image. -/
def imXings (im : Img) : List XDesc :=
  (im.sects.filter (fun x => x.typ == 7)).flatMap (fun x =>
    (List.range (x.len / 16)).map (fun i => xdescOf im.bytes (x.off + 16 * i)))

/-- Whether an image declares a crossing of a core on a side in a direction. -/
def declares (xs : List XDesc) (k : Nat) (d : Side) (dir : Nat) : Bool :=
  xs.any (fun x => x.cx == coreX k && x.cy == coreY k && x.side == sideCode d && x.dir == dir)

/-- The kind of a side of a core of the image (R218, R219). -/
def sideKind (im : Img) (xs : List XDesc) (k : Nat) (d : Side) : SideKind :=
  match facing k d with
  | none => ⟨false, false, false, false⟩
  | some j =>
    if imHas im (coreX j) (coreY j) then ⟨siteOfCore j == siteOfCore k, false, true, true⟩
    else
      let i := declares xs k d 1
      let o := declares xs k d 0
      ⟨false, i || o, i, o⟩

/-- The highest source code of a layer that is not reserved (Table 8-4). -/
def topCode : Layer → Nat
  | .row => 9 | .transit => 6 | .token => 5

/-- A layer has an input on a side, or an output. -/
def layerIn (l : Layer) (s : SideKind) : Bool := if l = .row then s.lane else s.hasIn
def layerOut (l : Layer) (s : SideKind) : Bool := if l = .row then s.lane else s.hasOut

/-- A source code of a layer that exists at a router. -/
def codeOk (sk : Side → SideKind) (l : Layer) (c : Nat) : Bool :=
  decide (c ≤ topCode l) && (c == 0 || decide (4 < c) || layerIn l (sk (sideOfCode (c - 1))))

/-- An adder's fields agree with its format (R233). -/
def adderOk (fmt a b : Nat) : Bool := fmt != 3 && (fmt != 0 || (a == 0 && b == 0))

/-- A layer of an entry names a side as a source. -/
def namesSide (e : BitVec 128) (l : Layer) (d : Side) : Bool :=
  allSides.any (fun o => pegOut e l o == sideSrc d) || (pegLocals e l).any (fun c => c == sideSrc d)

/-- The layers. -/
def allLayers : List Layer := [.row, .transit, .token]

/-- Whether an entry meets R233, R240 and R247 by itself. -/
def pegOk (sk : Side → SideKind) (e : BitVec 128) : Bool :=
  ofld e 23 0 == 0 && adderOk (pegRaddFmt e) (pegRaddA e) (pegRaddB e) && adderOk (pegTaddFmt e) (pegTaddA e) (pegTaddB e)
    && allLayers.all (fun l =>
      allSides.all (fun o => pegOut e l o == 0
        || (layerOut l (sk o) && codeOk sk l (pegOut e l o) && pegOut e l o != sideSrc o))
      && (pegLocals e l).all (codeOk sk l))
    && allSides.all (fun d => !(sk d).port
      || (!(pegOut e .transit d != 0 && pegOut e .token d != 0) && !(namesSide e .transit d && namesSide e .token d)))

/-- The side outputs that an item of a source feeds: directly in the cycle of entry `e`, and by a turn in the cycle of
entry `n` after it (R221, R231). -/
def fedSides (e n : BitVec 128) (l : Layer) (code : Nat) : List Side :=
  if code ≤ 4 then
    let d := sideOfCode (code - 1)
    allSides.filter (fun o => (pegOut e l o == code && o == opposite d) || (pegOut n l o == code && !sameAxis o d))
  else allSides.filter (fun o => pegOut e l o == code)

/-- Whether the fan-out of a source in a pair of cycles is one that R231 allows. -/
def fanOk (sk : Side → SideKind) (e n : BitVec 128) (l : Layer) (code : Nat) : Bool :=
  let outs := fedSides e n l code
  let locals := ((pegLocals e l).filter (fun c => c == code)).length
  (match outs with
    | [] => true
    | [_] => true
    | [a, b] => decide (4 < code) && sameAxis a b
    | _ => false)
  && (!outs.any (fun o => (sk o).port) || outs.length + locals == 1)

/-- Whether a pair of consecutive entries meets R231 (R605). -/
def pairOk (sk : Side → SideKind) (e n : BitVec 128) : Bool :=
  allLayers.all (fun l => (List.range (topCode l)).all (fun c => fanOk sk e n l (c + 1)))

/-- The first entry of a page that breaks a rule by itself. -/
def pageBreak (sk : Side → SideKind) (es : List (BitVec 128)) : Option Nat :=
  es.findIdx? (fun e => !pegOk sk e || !pairOk sk e 0 || !pairOk sk 0 e)

end Sys2Proof.Machine
end

