-- ==== Sys2Proof/Machine/Load.lean ====
section
/-! DEFINITION. Loading a bay image: the checks of Table 10-7, the effects of a load, and the commands and happenings that
load (R249, R261, R263, R268, R278, R279, R288 to R294, R370, R472, R542, R543, R607). -/

namespace Sys2Proof.Machine

/-- What a load attempt is given: the command, its image, the partition, HAZARD, EXPECT_GEN, and the bay that is
reconfigured. -/
structure LoadReq where
  cmd : Cmd
  bytes : List Byte
  len : Nat
  part : Nat
  hazard : Bool
  expectGen : Nat
  bay : Option Nat
  deriving DecidableEq, Repr

/-- The image as its header describes it. -/
def imgOf (b : List Byte) : Img :=
  ⟨b, imCx0 b, imCy0 b, imW b, imHt b, imContract b == 7, (List.range (imNsect b)).map (sectAt b)⟩

/-! ## Checks 3 to 8 -/

/-- Whether the panel's stepping accepts a contract level (R278, Table 10-2). -/
def contractOk (s : State) (c : Nat) : Bool :=
  let st := (kingFuse s).stepping.toNat
  (c == 1 && st == 0xA0) || ((c == 2 || c == 7) && (st == 0xA0 || st == 0xB0))

/-- The bay that a load reconfigures. -/
def reqBay (s : State) (r : LoadReq) : Option Bay := r.bay.bind (bayOf s)

/-- Check 5: R249, R210 and the unchanged core set. -/
def shapeBad (s : State) (r : LoadReq) (im : Img) : Bool :=
  im.w == 0 || im.ht == 0 || decide (128 < im.w) || decide (32 < im.ht) || decide (128 < im.cx0 + im.w)
    || decide (80 < im.cy0 + im.ht) || bandOf im.cy0 != bandOf (im.cy0 + im.ht - 1)
    || (im.deep && (im.w % 2 != 0 || im.ht % 4 != 0 || im.cx0 % 2 != 0 || im.cy0 % 4 != 0))
    || (match reqBay s r with
      | some b => b.cx0 != im.cx0 || b.cy0 != im.cy0 || b.w != im.w || b.ht != im.ht
      | none => decide (512 ≤ s.bays.length))
    || s.bays.any (fun p => some p.1 != r.bay && (bayCores p.2).any (fun k => imHas im (coreX k) (coreY k)))

/-- The dies under the core set. -/
def imSites (im : Img) : List Nat := ((imCores im).map siteOfCore).eraseDups

/-- Checks 3 to 8 of Table 10-7 in order. -/
def placeErr (s : State) (r : LoadReq) (im : Img) : Option LoadErr :=
  if !contractOk s (imContract r.bytes) then some (errStatus stContractMismatch)
  else if (match reqBay s r with | some b => headEpoch s b != imEpoch r.bytes | none => false) then
    some (errStatus stStaleEpoch)
  else if shapeBad s r im then some (errFault 3 0x10)
  else if (imSites im).any (fun i => ownerOf s i != r.part) then some (errStatus stDenied)
  else if r.hazard && !(partOf s r.part).debug then some (errStatus stDenied)
  else if r.expectGen != 0 && r.expectGen != s.boot.generation.toNat then some (errStatus stFloorplanStale)
  else
    match (imCores im).find? (fun k => !coreUsable s k) with
    | some k => some ⟨stFloorplanStale, 0, 0xFFFFFFFF, coreX k, coreY k⟩
    | none => errIf ((imSites im).any (fun i => !sitePowered s i)) (errStatus stNotReady)

/-! ## Check 10: the contents of a core's sections, in the order of R607 -/

/-- The operation words of a core. -/
def imWords (im : Img) (k : Nat) : List (BitVec 128) := opWords (coreSect im 1 k).1
/-- The slot descriptors of a core. -/
def imSlots (im : Img) (k : Nat) : List (BitVec 64) :=
  (List.range 64).map (fun n => BitVec.ofNat 64 (leAt (coreSect im 2 k).1 (8 * n) 8))
/-- The chain-table entries of a core. -/
def imChains (im : Img) (k : Nat) : List (List Byte) := chainEntries (coreSect im 3 k).1
/-- The rows that a core's slots may use. -/
def imRowMax (im : Img) : Nat := if im.deep then 8192 else 1024

/-- Step 1: the stream as a whole, then each word. -/
def streamErr (im : Img) (k : Nat) : Option LoadErr :=
  let x := coreSect im 1 k
  let ws := opWords x.1
  let at_ (i : Nat) : LoadErr := errCore 4 (x.2 + 16 * i) k
  if 2048 < ws.length then some (at_ 2048)
  else
    match streamBreak ws.length ws 0 [] with
    | some i => some (at_ i)
    | none => (wordBreak ws 0 []).map at_

/-- A slot descriptor that breaks R190. -/
def slotBad (max : Nat) (d : BitVec 64) : Bool :=
  if slotValid d then
    fld d.toNat 63 48 != 0 || fld d.toNat 31 13 != 0 || slotRows d == 0 || decide (max < slotBase d + slotRows d)
  else d != 0

/-- Step 2: the slots. -/
def slotsErr (im : Img) (k : Nat) : Option LoadErr :=
  ((imSlots im k).findIdx? (slotBad (imRowMax im))).map (fun n => errCore 5 ((coreSect im 2 k).2 + 8 * n) k)

/-- Step 3: the chain table. -/
def chainsErr (im : Img) (k : Nat) : Option LoadErr :=
  ((imChains im k).findIdx? (fun e => !chainOk e)).map (fun n => errCore 6 ((coreSect im 3 k).2 + 96 * n) k)

/-- The rows of a slot; none where it is not defined. -/
def slotRoom (sl : List (BitVec 64)) (n : Nat) : Option Nat :=
  let d := sl.getD n 0
  if slotValid d then some (slotRows d) else none

/-- A slot is defined and holds a number of rows. -/
def slotHolds (sl : List (BitVec 64)) (n need : Nat) : Bool :=
  match slotRoom sl n with | some r => decide (need ≤ r) | none => false

/-- The operands of a MATRIX_STEP (R88, R109, R124, R127, R190). -/
def matrixOk (sl : List (BitVec 64)) (w : BitVec 128) : Bool :=
  match fmOfCode (mxFmtA w), fmOfCode (mxFmtB w) with
  | some a, some b =>
    let n := mxKsteps w
    let rows (f : Fm) (off : Nat) : Nat := if n = 0 then 0 else off + mxElemRows f n + mxScaleRows f n
    (pairOcc a b).isSome && slotHolds sl (mxASlot w) (rows a (mxAOff w)) && slotHolds sl (mxBSlot w) (rows b (mxBOff w))
      && (!opChk w || (opChkKind w == 0 && (opChkIndex w == mxASlot w || opChkIndex w == mxBSlot w)))
  | _, _ => false

/-- The rows that a stream of a chain occupies for the VL bound (R142, R143, R145). -/
def streamNeed (code v : Nat) (scalar : Bool) : Nat :=
  match fmOfCode code with
  | some f => if scalar then 1 else streamElemRows f v + streamScaleRows f v
  | none => 0

/-- The operands of a VECTOR_CHAIN: the load fault, 0 for none (R68, R134, R145, R146, R148, R190). -/
def vectorFault (sl : List (BitVec 64)) (chains : List (List Byte)) (w : BitVec 128) : Nat :=
  match chains[vxChain w]? with
  | none => 5
  | some e =>
    let v := vxBound w
    if !(List.range 3).all (fun n => vxInEn w n == decide (n < ceNin e))
        || !(List.range 2).all (fun n => vxOutEn w n == decide (n < ceNout e)) then 6
    else if vxFromTq w && (decide (4096 < vxVl w) || !vxInEn w 0 || ceInFmt e 0 != 1 || ceScalar e 0) then 5
    else if (List.range 3).any (fun n => ceScalar e n && (match fmOfCode (ceInFmt e n) with
        | some f => fmBlocked f
        | none => false)) then 5
    else if opChk w && decide (opChkKind w < 2) && (slotRoom sl (opChkIndex w)).isNone then 5
    else if !(List.range (ceNin e)).all (fun n => (n == 0 && vxFromTq w)
        || slotHolds sl (vxInSlot w n) (streamNeed (ceInFmt e n) v (ceScalar e n))) then 5
    else if !(List.range (ceNout e)).all (fun n => slotHolds sl (vxOutSlot w n) (streamNeed (ceOutFmt e n) v false)) then 5
    else 0

/-- Whether a scan call's check is one of Table 6-2 (R176). -/
def scanChkOk (w : BitVec 128) : Bool :=
  let i := opChkIndex w
  if opChkKind w = 0 then
    (scMode w == 0 && i == scASlot w) || i == scBSlot w || i == scStateSlot w || (i == scOutSlot w && scOutSlot w != scBSlot w)
  else opChkKind w == 1 && i == scOutSlot w

/-- The operands of a SCAN_CALL (R173, R174, R176, R190). -/
def scanOk (sl : List (BitVec 64)) (w : BitVec 128) : Bool :=
  let m0 := scMode w == 0
  let need := scSteps w * scChgrp w
  scChgrp w != 0 && decide (scSteps w ≤ 4096) && (m0 || scASlot w == 0)
    && (!m0 || slotHolds sl (scASlot w) need) && slotHolds sl (scBSlot w) need && slotHolds sl (scOutSlot w) need
    && slotHolds sl (scStateSlot w) (if scSteps w = 0 then 0 else scChgrp w)
    && scStateSlot w != scBSlot w && scStateSlot w != scOutSlot w
    && (!m0 || (scStateSlot w != scASlot w && scASlot w != scBSlot w && scASlot w != scOutSlot w))
    && (!opChk w || scanChkOk w)

/-- The operands of an operation: the load fault, 0 for none. -/
def operandFault (sl : List (BitVec 64)) (chains : List (List Byte)) (w : BitVec 128) : Nat :=
  let chkSlot := opChk w && decide (opChkKind w < 2) && (slotRoom sl (opChkIndex w)).isNone
  match opKind w with
  | some .matrixStep => if matrixOk sl w then 0 else 5
  | some .vectorChain => vectorFault sl chains w
  | some .scanCall => if scanOk sl w then 0 else 5
  | some .accessEnq =>
    if aeCount w = 0 ∨ chkSlot ∨ !slotHolds sl (aeSlot w) (aeRow w + (aePos w + aeCount w + 7) / 8) then 5 else 0
  | some .send => if srRows w = 0 ∨ chkSlot ∨ !slotHolds sl (srSlot w) (srRowOff w + srRows w) then 5 else 0
  | some .receive => if srRows w = 0 ∨ chkSlot ∨ !slotHolds sl (srSlot w) (srRowOff w + srRows w) then 5 else 0
  | some .produce => if chkSlot ∨ (tkSrc w = 2 ∧ !slotHolds sl (tkSlot w) (tkRowOff w + 1)) then 5 else 0
  | _ => if chkSlot then 5 else 0

/-- Step 4: the operands of each operation, in store order. -/
def operandsErr (im : Img) (k : Nat) : Option LoadErr :=
  let sl := imSlots im k
  let ch := imChains im k
  (imWords im k).zipIdx.findSome? (fun p =>
    let f := operandFault sl ch p.1
    errIf (f != 0) (errCore f ((coreSect im 1 k).2 + 16 * p.2) k))

/-- The cores whose routers a core's PEGS section loads: itself, or its deep block (R288). -/
def imRouters (im : Img) (k : Nat) : List Nat :=
  if im.deep then (List.range 8).map (fun n => (rowPlace k (1024 * n)).1) else [k]

/-- A router table that breaks R227 or Table 10-6: the offset that fails. -/
def tableBreak (b : List Byte) (o : Nat) : Option Nat :=
  if 7 < ptInit b o ∨ !ptValid b o (ptInit b o % 8) then some o
  else
    (((List.range 8).find? (fun p =>
      if ptValid b o p then ptPeriod b o p == 0 || decide (256 < ptPeriod b o p) else ptPeriod b o p != 0)).map
        (fun p => o + 2 + 2 * p)).or
      (if zeroAt b (o + 0x12) 14 then none else some (o + 0x12))

/-- The first entry of a router table that breaks a rule by itself, page by page: its offset. -/
def pagesBreak (sk : Side → SideKind) (b : List Byte) (o : Nat) : Option Nat :=
  ((List.range 8).filter (ptValid b o)).findSome? (fun p =>
    (pageBreak sk (ptEntries b o p)).map (ptEntryOff b o p))

/-- The first entry of a router table that breaks R605 with an entry that can follow it: its offset. -/
def pairsBreak (sk : Side → SideKind) (b : List Byte) (o : Nat) : Option Nat :=
  let ps := (List.range 8).filter (ptValid b o)
  let entry (p i : Nat) : BitVec 128 := (ptEntries b o p).getD i 0
  ps.findSome? (fun p =>
    let n := ptPeriod b o p
    ((List.range n).find? (fun i =>
      !pairOk sk (entry p i) (entry p ((i + 1) % n))
        || (i + 1 == n && ps.any (fun q => q != p && !pairOk sk (entry p i) (entry q 0))))).map (ptEntryOff b o p))

/-- Step 5: the router tables with their pages, then the pages that PEG_PAGEs name, then R605. -/
def pegsErr (im : Img) (xs : List XDesc) (k : Nat) : Option LoadErr :=
  let x := coreSect im 4 k
  let b := x.1
  let tables := if b.isEmpty then [] else (ptOffsets b (imRouters im k).length 0).1.zip (imRouters im k)
  let pageOk (p : Nat) : Bool := if b.isEmpty then p == 0 else ptValid b 0 p
  let at_ (o : Nat) : LoadErr := errCore 7 (x.2 + o) k
  ((tables.findSome? (fun p => (tableBreak b p.1).or (pagesBreak (sideKind im xs p.2) b p.1))).map at_).or
    ((((imWords im k).findIdx? (fun w => opKind w == some .pegPage && !pageOk (ppPage w))).map
        (fun i => errCore 7 ((coreSect im 1 k).2 + 16 * i) k)).or
      ((tables.findSome? (fun p => pairsBreak (sideKind im xs p.2) b p.1)).map at_))

/-- Step 6: the steering tokens (R287). -/
def steerErr (im : Img) (k : Nat) : Option LoadErr :=
  let x := coreSect im 5 k
  let b := x.1
  if b.isEmpty then none
  else if 16 < leAt b 0 1 ∨ 16 < leAt b 1 1 then some (errCore 8 x.2 k)
  else if !zeroAt b 2 6 then some (errCore 8 (x.2 + 2) k)
  else ((List.range (leAt b 0 1 + leAt b 1 1)).find? (fun i =>
    leAt b (8 + 4 * i) 4 / 2 ^ 28 != imEpoch im.bytes || fld (leAt b (8 + 4 * i) 4) 27 16 != 0)).map
      (fun i => errCore 8 (x.2 + 8 + 4 * i) k)

/-- FIRST_ROW and COUNT of a ROWS section that is not empty. -/
def rowsSpan (im : Img) (x : Sect) : Nat × Nat :=
  if x.len = 0 then (0, 0) else (leAt im.bytes x.off 2, leAt im.bytes (x.off + 2) 2)

/-- The offset at which a ROWS section breaks R287, after those before it: its header, or its first row that lies outside the
core's rows or stands in an earlier section too. -/
def rowsBreak (im : Img) (before : List Sect) (x : Sect) : Option Nat :=
  let p := rowsSpan im x
  if x.len = 0 then none
  else if p.2 = 0 ∨ 1024 < p.2 then some x.off
  else if !zeroAt im.bytes (x.off + 4) 4 then some (x.off + 4)
  else
    ((List.range p.2).find? (fun i => decide (imRowMax im ≤ p.1 + i)
      || before.any (fun y =>
        let q := rowsSpan im y
        decide (q.1 ≤ p.1 + i) && decide (p.1 + i < q.1 + q.2)))).map (fun i => x.off + 8 + 512 * i)

/-- Step 7: the ROWS sections (R287). -/
def rowsErr (im : Img) (k : Nat) : List Sect → List Sect → Option LoadErr
  | _, [] => none
  | before, x :: xs =>
    match rowsBreak im before x with
    | some o => some (errCore 9 o k)
    | none => rowsErr im k (before ++ [x]) xs

/-- The donors of a lead core carry no section (R210, R288). -/
def donorsErr (im : Img) (k : Nat) : Option LoadErr :=
  if im.deep then
    ((imRouters im k).drop 1).findSome? (fun j =>
      (im.sects.find? (fun x => x.typ != 7 && x.cx == coreX j && x.cy == coreY j && x.len != 0)).map
        (fun x => errCore 11 x.off j))
  else none

/-- Check 10 of one core. -/
def coreErr (im : Img) (xs : List XDesc) (k : Nat) : Option LoadErr :=
  if im.deep && !isLead k then none
  else (streamErr im k).or ((slotsErr im k).or ((chainsErr im k).or ((operandsErr im k).or ((pegsErr im xs k).or
    ((steerErr im k).or ((rowsErr im k [] (coreSects im 6 k)).or (donorsErr im k)))))))

/-! ## Checks 11 and 12 -/

/-- A crossing descriptor that breaks R263, after those before it. -/
def xdescBad (s : State) (r : LoadReq) (im : Img) (before : List XDesc) (x : XDesc) : Bool :=
  let k := coreAt x.cx x.cy
  let d := sideOfCode x.side
  let out := x.dir == 0
  !x.rsvOk || decide (3 < x.side) || decide (1 < x.dir) || x.budget == 0 || decide (64 < x.budget)
    || !imHas im x.cx x.cy
    || (match facing k d with
      | none => true
      | some j => imHas im (coreX j) (coreY j) || x.pcx != coreX j || x.pcy != coreY j
          || (ownerOf s (siteOfCore j) != 0xFF && ownerOf s (siteOfCore j) != r.part)
          || s.xings.any (fun y =>
            (if out then y.sender == k && y.sendSide == d && y.inDecl else y.recv == k && y.recvSide == d && y.outDecl)
              && y.budget != x.budget))
    || before.any (fun y => y.cx == x.cx && y.cy == x.cy && y.side == x.side && y.dir == x.dir)

/-- The first descriptor that breaks R263. -/
def xdescsErr (s : State) (r : LoadReq) (im : Img) : List XDesc → List XDesc → Option LoadErr
  | _, [] => none
  | before, x :: xs =>
    if xdescBad s r im before x then some ⟨stBadField, 10, x.off, x.cx, x.cy⟩
    else xdescsErr s r im (before ++ [x]) xs

/-- A CHK_KIND 3 check that its crossing's BUDGET can never meet (R261). -/
def budgetErr (im : Img) (xs : List XDesc) (k : Nat) : Option LoadErr :=
  ((imWords im k).findIdx? (fun w => opChk w && opChkKind w == 3
    && xs.any (fun x => x.cx == coreX k && x.cy == coreY k && x.dir == 1 && x.side == opChkIndex w
      && decide (x.budget < chkEntries w)))).map (fun i => errCore 10 ((coreSect im 1 k).2 + 16 * i) k)

/-- Check 11. -/
def crossingsErr (s : State) (r : LoadReq) (im : Img) (xs : List XDesc) : Option LoadErr :=
  (xdescsErr s r im [] xs).or ((imCores im).findSome? (budgetErr im xs))

/-- Where a row of a core stands in the image, where a ROWS section supplies it. -/
def rowInImage (im : Img) (k row : Nat) : Option Nat :=
  (coreSects im 6 k).findSome? (fun x =>
    let p := rowsSpan im x
    if p.1 ≤ row ∧ row < p.1 + p.2 then some (x.off + 8 + 512 * (row - p.1)) else none)

/-- The image offsets of the descriptors that an ACCESS_ENQ names and that the image supplies (R291). -/
def descOffs (im : Img) (k : Nat) (w : BitVec 128) : List Nat :=
  let base := slotBase ((imSlots im k).getD (aeSlot w) 0)
  (List.range (aeCount w)).filterMap (fun n =>
    let p := aePos w + n
    (rowInImage im k (base + aeRow w + p / 8)).map (fun o => o + 64 * (p % 8)))

/-- Check 12 (R291). -/
def accessErr (s : State) (r : LoadReq) (im : Img) (k : Nat) : Option LoadErr :=
  let t := modCore k (fun c => { c with image := { c.image with slots := imSlots im k } }) s
  ((imWords im k).filter (fun w => opKind w == some .accessEnq)).findSome? (fun w =>
    (descOffs im k w).findSome? (fun o =>
      let f := startFault t k r.part (bytesAt im.bytes o 64)
      if f = 0 then none
      else if f = 3 then some ⟨stDenied, 0, o, coreX k, coreY k⟩
      else some (errCore 12 o k)))

/-- Checks 2 to 12 of Table 10-7: the first that fails. -/
def loadErr (s : State) (r : LoadReq) : Option LoadErr :=
  (headerErr r.bytes r.len).or
    (let im := imgOf r.bytes
     let xs := imXings im
     (placeErr s r im).or ((directoryErr im).or (((imCores im).findSome? (coreErr im xs)).or
      ((crossingsErr s r im xs).or ((imCores im).findSome? (accessErr s r im))))))

/-! ## The effects of a load (R292) -/

/-- The pages that a router table loads; page 0 with one idle entry where the image has none (Table 10-5). -/
def imPages (b : List Byte) (o : Nat) : List PegPage × Nat :=
  if b.isEmpty then (⟨true, 1, [0]⟩ :: copies 7 pageZero, 0)
  else ((List.range 8).map (fun p =>
    if ptValid b o p then ⟨true, ptPeriod b o p, ptEntries b o p⟩ else pageZero), ptInit b o % 8)

/-- What the image puts into a core. -/
def imImage (im : Img) (k : Nat) : CoreImage :=
  let lead := (imCores im).find? (fun j => (!im.deep || isLead j) && (imRouters im j).contains k)
  let j := lead.getD k
  let b := (coreSect im 4 j).1
  let n := ((imRouters im j).findIdx? (fun x => x == k)).getD 0
  let pg := imPages b ((ptOffsets b (n + 1) 0).1.getD n 0)
  if im.deep && !isLead k then ⟨[], copies 64 0, copies 32 [], pg.1, pg.2⟩
  else
    let ch := imChains im k
    ⟨imWords im k, imSlots im k, ch ++ copies (32 - ch.length) [], pg.1, pg.2⟩

/-- The steering tokens of a core: the switch's and the merge's. -/
def imSteer (im : Img) (k : Nat) : List Token × List Token :=
  let b := (coreSect im 5 k).1
  let tok (i : Nat) : Token := ⟨0, BitVec.ofNat 32 (leAt b (8 + 4 * i) 4)⟩
  let a := leAt b 0 1
  ((List.range a).map tok, (List.range (leAt b 1 1)).map (fun i => tok (a + i)))

/-- A tag as a slot descriptor sets it. -/
def tagLoaded (d : BitVec 64) : TagCell := ⟨slotTag d, slotTag d, 0, false, false⟩

/-- A core after a load: the image, the epoch, everything else of R292 at rest; its rows, its generators, its microcode
and the numbers of its packets stay. -/
def coreLoaded (im : Img) (k : Nat) (c : Core) : Core :=
  let i := imImage im k
  let st := imSteer im k
  { coreZero with
    image := i
    seq := { coreZero.seq with epoch := BitVec.ofNat 4 (imEpoch im.bytes) }
    eng := { coreZero.eng with srState := c.eng.srState }
    ax := { coreZero.ax with remote := c.ax.remote, nextDesc := c.ax.nextDesc, nextTag := c.ax.nextTag }
    rt := { coreZero.rt with run := ⟨0, i.page0, 0, [], 0⟩, sw := { steerZero with tokens := st.1 }, mg := { steerZero with tokens := st.2 } }
    tags := i.slots.map tagLoaded
    rows := c.rows
    badWords := c.badWords
    suspects := c.suspects
    microcode := c.microcode }

/-- A row that an image supplies is written into the core that holds it. -/
def writeImageRow (k row : Nat) (d : Row) (s : State) : State :=
  let p := rowPlace k row
  modCore p.1 (fun c => { c with
    rows := mapSet 0 c.rows p.2 d, badWords := c.badWords.filter (fun w => w / 64 != p.2) }) s

/-- The rows of a core's ROWS sections. -/
def writeImageRows (im : Img) (k : Nat) (s : State) : State :=
  (coreSects im 6 k).foldl (fun s x =>
    let p := rowsSpan im x
    (List.range p.2).foldl (fun s i =>
      writeImageRow k (p.1 + i) (rowOfBytes (bytesAt im.bytes (x.off + 8 + 512 * i) 512)) s) s) s

/-- A crossing of a declaration, where none was known. -/
def xingNew (x : XDesc) : Option Crossing :=
  let k := coreAt x.cx x.cy
  let d := sideOfCode x.side
  (facing k d).map (fun j =>
    if x.dir = 0 then ⟨k, d, j, opposite d, x.budget, .pending, false, false, 0, 0, [], [], [], 0, 0⟩
    else ⟨j, opposite d, k, d, x.budget, .pending, false, false, 0, 0, [], [], [], 0, 0⟩)

/-- The same crossing: the same ends. -/
def sameXing (a b : Crossing) : Bool :=
  a.sender == b.sender && a.sendSide == b.sendSide && a.recv == b.recv && a.recvSide == b.recvSide

/-- A crossing is declared by one of its ends (R263). -/
def declareXing (x : XDesc) (s : State) : State :=
  match xingNew x with
  | none => s
  | some y =>
    let mark (z : Crossing) : Crossing :=
      if x.dir = 0 then { z with budget := x.budget, outDecl := true } else { z with budget := x.budget, inDecl := true }
    if s.xings.any (sameXing y) then
      { s with xings := s.xings.map (fun z => if sameXing y z then mark z else z) }
    else { s with xings := s.xings ++ [mark y] }

/-- The bay of an image: its handle's old bay, if any, gives what a reconfiguration keeps (R292). -/
def bayLoaded (r : LoadReq) (im : Img) (old : Option Bay) : Bay where
  part := r.part
  cx0 := im.cx0
  cy0 := im.cy0
  w := im.w
  ht := im.ht
  contract := imContract im.bytes
  drainBound := imDrain im.bytes
  hazard := match old with | some b => b.hazard | none => r.hazard
  mode := .loaded
  point := match old with | some b => b.point | none => 1
  count := 0
  freezeDue := none
  conds := []
  bankPlans := []
  bankHeld := none
  frozenAt := none
  frozenNs := 0
  idlePeriods := 0
  idleSince := none
  heldLong := false
  holds := 0
  stretches := 0
  fault := 0
  faultCore := none
  faultDue := none
  faultCycle := none
  overrun := false
  boostLost := false
  boostTold := (false, false)
  buildGen := leAt im.bytes 0x1C 4
  seed := 0
  change := none
  stop := none
  droops := []
  traps := match old with | some b => b.traps | none => []
  trapsLost := match old with | some b => b.trapsLost | none => 0
  xdescs := (imXings im).map (fun x => bytesAt im.bytes x.off 16)

/-- A load that passed its checks takes effect on a bay handle (R244, R263, R264, R292). -/
def applyLoad (i : Nat) (r : LoadReq) (s : State) : State :=
  let im := imgOf r.bytes
  let old := reqBay s r
  let s := match old with | some b => dropXings b (modCores b (freezeWrites b.count) s) | none => s
  let s := (imCores im).foldl (fun s k => modCore k (coreLoaded im k) s) s
  let s := (imCores im).foldl (fun s k => writeImageRows im k s) s
  let b := beginIdle s (bayLoaded r im old)
  settleHolds <| openXings b ((imXings im).foldl (fun s x => declareXing x s) (setBay i b s))

/-! ## Load attempts -/

/-- The report of an attempt (R294). -/
def loadReport (r : LoadReq) (e : LoadErr) (bay : Nat) (s : State) : LoadReport where
  cmdId := r.cmd.entry.cmdId.toNat
  status := e.status
  loadFault := e.fault
  offset := e.offset
  cx := e.cx
  cy := e.cy
  bay := bay
  contract := if (headerErr r.bytes r.len).isNone then imContract r.bytes else 0
  epoch := if (headerErr r.bytes r.len).isNone then imEpoch r.bytes else 0
  generation := s.boot.generation.toNat
  tick := tickOf s

/-- A partition keeps the reports of its last 16 attempts, newest first. -/
def keepReport (r : LoadReq) (e : LoadErr) (bay : Nat) (s : State) : State :=
  modPart r.part (fun p => { p with loadReports := (loadReport r e bay s :: p.loadReports).take 16 }) s

/-- Before the image is written, the rows and blocks that reported errors are retested, and the loaders of cores with
other microcode load the active one (R472, R542, R543). -/
def prepareCores (r : LoadReq) (s : State) : State :=
  let im := imgOf r.bytes
  let s := (imSites im).foldl (fun s i => retestBuffer i s) s
  (imCores im).foldl (fun s k =>
    let s := retestCore k s
    if (coreOf s k).microcode = activeMicro s then s else loadMicro k s) s

/-- A load attempt: its error, or the state with the image loaded on a handle. -/
def tryLoad (i : Nat) (r : LoadReq) (s : State) : Option LoadErr × State :=
  match loadErr s r with
  | some e => (some e, s)
  | none =>
    let s := prepareCores r s
    match (imCores (imgOf r.bytes)).find? (fun k => !coreUsable s k) with
    | some k => (some ⟨stFloorplanStale, 0, 0xFFFFFFFF, coreX k, coreY k⟩, s)
    | none => (none, applyLoad i r s)

/-- An attempt that ends its command: the report is kept; `okDetail` and `badDetail` are the completion details. -/
def finishLoad (i : Nat) (r : LoadReq) (okDetail badDetail : Nat) (s : State) : State :=
  let t := tryLoad i r s
  match t.1 with
  | some e => complete r.cmd e.status badDetail (keepReport r e (r.bay.getD 0xFFFF) t.2)
  | none => complete r.cmd stOk okDetail (keepReport r (errStatus stOk) i t.2)

/-- An attempt whose image cannot be read, or whose payload fails check 1. -/
def refuseLoad (r : LoadReq) (status detail : Nat) (s : State) : State :=
  complete r.cmd status detail (keepReport r (errStatus status) (r.bay.getD 0xFFFF) s)

/-- The image of a load, read from host memory (R441). -/
def readImage (a n : Nat) (s : State) : Nat × List Byte :=
  match hostAnswer s a n with
  | some true => (stTimeout, [])
  | some false => (stFault, [])
  | none => (stOk, hostRead s a n)

/-! ## BAY_LOAD (R289, R290) -/

/-- The lowest free bay handle. -/
def freeHandle (s : State) : Nat := ((List.range 512).find? (fun i => (bayOf s i).isNone)).getD 512

/-- BAY_LOAD. -/
def doBayLoad (c : Cmd) (pay : List Byte) (s : State) : State :=
  let n := leAt pay 8 4
  let req (b : List Byte) : LoadReq := ⟨c, b, n, cmdPart c, bitAt (leAt pay 0xC 1) 0, leAt pay 0x10 4, none⟩
  let st := firstFail [(decide (pay.length ≠ 24) || decide (n < 64), stBadLength),
    (decide (1 < leAt pay 0xC 1) || !zeroAt pay 0xD 3 || !zeroAt pay 0x14 4, stBadField)]
  if st ≠ stOk then refuseLoad (req []) st 0 s
  else
    let x := readImage (leAt pay 0 8) n s
    if x.1 ≠ stOk then refuseLoad (req []) x.1 0 s
    else
      let go (s : State) : State := finishLoad (freeHandle s) (req x.2) (freeHandle s) 0 s
      if (loadErr s (req x.2)).isSome then go s
      else needProcs ((imSites (imgOf x.2)).filterMap procOfSite) c pay go s

/-- BAY_LOAD. -/
def execBayLoad (c : Cmd) (s : State) : Out := runRow c 0x0200 doBayLoad s

/-! ## BAY_RECONFIGURE and the end of a stop (R268) -/

/-- The load step of a reconfiguration, with the bay stopped; the completion carries the new epoch. -/
def reloadStep (i : Nat) (c : Cmd) (a n : Nat) (s : State) : State :=
  match bayOf s i with
  | none => complete c stBadField 0 s
  | some b =>
    let e := headEpoch s b
    let x := readImage a n s
    let r : LoadReq := ⟨c, x.2, n, b.part, false, 0, some i⟩
    if x.1 ≠ stOk then refuseLoad r x.1 e s else finishLoad i r e e s

/-- The states in which a bay is reconfigured. -/
def reconfigModes : List BayMode := [.running, .held, .done, .stopped]

/-- The form of a BAY_RECONFIGURE payload. -/
def reconfigForm : BayForm := ⟨false, true, true, true⟩

/-- A BAY_RECONFIGURE that is taken: a stopped bay loads at once; any other stops first. -/
def startReconfigure (c : Cmd) (pay : List Byte) (s : State) : State :=
  let atMark := bitAt (payFlags pay) 0
  bayRun reconfigForm reconfigModes (fun _ b s => [(s.install, stBusy), (stopBlocked b atMark, stBusy)])
    (fun i b s =>
      if b.mode = .stopped then reloadStep i c (payArg pay) (payArgLen pay) s
      else beginStop i b (some c) atMark (some (payArg pay, payArgLen pay)) s) c pay s

/-- BAY_RECONFIGURE: a payload that fails check 1 of Table 10-7 is a load attempt that leaves a report (R289, R294). -/
def doBayReconfigure (c : Cmd) (pay : List Byte) (s : State) : State :=
  let req (i : Option Nat) : LoadReq := ⟨c, [], payArgLen pay, cmdPart c, false, 0, i⟩
  let st := firstFail (bayFormChecks reconfigForm pay)
  if st ≠ stOk then refuseLoad (req none) st 0 s
  else
    match bayOf s (payBay pay) with
    | some b =>
      if b.part = cmdPart c ∧ reconfigModes.contains b.mode ∧ payArgLen pay < 64 then
        refuseLoad (req (some (payBay pay))) stBadLength 0 s
      else startReconfigure c pay s
    | none => startReconfigure c pay s

/-- BAY_RECONFIGURE. -/
def execBayReconfigure (c : Cmd) (s : State) : Out := runRow c 0x0205 doBayReconfigure s

/-- What follows a bay's stop: the command completes or its load is made. No load is made while
the panel prepares for its removal (R451) or the bay's partition is in reset (R481). -/
def afterStop (i part : Nat) (q : StopReq) (s : State) : State :=
  let e := match bayOf s i with | some b => headEpoch s b | none => 0
  match q.cmd, q.image with
  | some c, some (a, n) =>
    if s.host.removing.isSome then complete c stNotReady e s
    else if stopsBays s part then complete c stBusy e s
    else reloadStep i c a n s
  | c, _ => completeOpt c stOk e s

/-- Step 3 and step 4 of R268: the bay is stopped, and its stop ends; the panel's removal goes on when it was the last. -/
def endStop (i : Nat) (s : State) : State :=
  match bayOf s i with
  | none => s
  | some b =>
    let s := stopEpoch i s
    endRemoval (match b.stop with
      | none => s
      | some q => afterStop i b.part q s)

/-- A bay that has no cycle to drain is stopped at once: its crossings close and what its access engines have started is
abandoned (R268). -/
def stopAtOnce (i : Nat) (s : State) : State :=
  match bayOf s i with
  | none => s
  | some b => endStop i (abandonAccess b (closeXings b (modCores b coreStopped (dropChange i stBusy s))))

/-- The cycle from which the 256 cycles of a drain count: the last engine's idle cycle, the last access engine's rest, and
no cycle before the stop cycle (R58, R268). -/
def drainFrom (s : State) (b : Bay) : Nat :=
  let stop := match b.stop with | some q => q.stopCycle.getD 0 | none => 0
  (bayCores b).foldl (fun m k =>
    let c := coreOf s k
    max m (max (max c.eng.mxIdle c.eng.vxIdle) (max c.eng.scIdle c.ax.idleAt))) stop

/-- DRAIN_COMPLETE is due 256 cycles after the last engine is idle; a done bay and one in fault hold have nothing to drain. -/
def drainIsDone (b : Bay) (s : State) : Bool :=
  b.stop.isSome && (b.mode == .done || b.mode == .faultHold
    || (b.mode == .draining && bayQuiet s b b.count
      && (bayCores b).all (fun k => enginesIdle (coreOf s k) b.count && accessDrained (coreOf s k))
      && decide (drainFrom s b + 256 ≤ b.count)))

/-- DRAIN_COMPLETE. -/
def execDrainComplete (b : BayId) (time : Nat) (s : State) : Out :=
  bayEvent b time drainIsDone
    (fun x s => if x.mode = .draining then endStop b.val s else stopAtOnce b.val s) s

/-- DRAIN_OVERRUN: the drain bound has passed since the stop cycle; the bay is stopped where it stands. -/
def execDrainOverrun (b : BayId) (time : Nat) (s : State) : Out :=
  bayEvent b time
    (fun x s => x.mode == .draining
      && (match x.stop with | some q => decide (q.since + 1000 * x.drainBound ≤ s.now) | none => false))
    (fun x s =>
      let s := raise1 (evBay 0x0204 b.val x.part 0 (x.count - 1)) (setBay b.val { x with overrun := true } s)
      endStop b.val (abandonAccess x s)) s

end Sys2Proof.Machine
end

