-- ==== Sys2Proof/Machine/HostPort.lean ====
section
/-! DEFINITION. The host port: device memory over CXL.mem, the aperture, BAR0, the queues, and the commands of the range
0x00xx (R419 to R449). -/

namespace Sys2Proof.Machine

/-! ## The port -/

/-- Whether the host port answers: the panel has power, PERST# is not asserted, and the king post lives (R449, R476, R590). -/
def portAnswers (s : State) : Bool := s.pwr.good && !s.host.perst && !s.fw.kingLost

/-- An access of the host to a register: nothing comes of it where the port does not answer. -/
def barAccess (time : Nat) (eff : State → State) (s : State) : Out :=
  if portAnswers s then .next (eff (atTime time s)) else .next s

/-- What a read returned. -/
def setReadData (bs : List Byte) (s : State) : State := { s with host := { s.host with readData := bs } }

/-- The data of a read that no unit answers. -/
def allOnesData (n : Nat) : List Byte := copies n (BitVec.allOnes 8)

/-! ## CXL features (R419) -/

/-- The features of Table 15-1. -/
inductive CxlFeature where
  | io | cache | mem | hostManagedMemory | pageBias | ide | sris | hotPlug | cxlReset | functionReset | backInvalidate
  | multiLogicalDevice | portRouting
  deriving DecidableEq, Repr

/-- Whether a feature is supported; one that is not is advertised in no capability structure (R419). -/
def cxlSupported : CxlFeature → Bool
  | .functionReset | .backInvalidate | .multiLogicalDevice | .portRouting => false
  | .io | .cache | .mem | .hostManagedMemory | .pageBias | .ide | .sris | .hotPlug | .cxlReset => true

/-! ## Device memory over CXL.mem (R422, R423) -/

/-- The present stacks in increasing ordinal: slot n of the HDM range is the n-th. -/
def hdmStacks (s : State) : List Nat := (List.range 32).filter (fun n => !siteAbsent s (siteOfStack n))

/-- The size of the HDM range. -/
def hdmSize (s : State) : Nat := 2 ^ 36 * (hdmStacks s).length

/-- The service address of an HDM offset. -/
def hdmAddr (s : State) (off : Nat) : Option Nat := ((hdmStacks s)[off / 2 ^ 36]?).map (fun n => stackAddr n (off % 2 ^ 36))

/-- A CXL.mem access carried to its stack: its status, what it read, and the state after it. -/
def hdmServe (a : HdmAccess) (f : EccFinding) (s : State) : Nat × List Byte × State :=
  if !s.host.cxlMem then (9, [], s)
  else
    match hdmAddr s a.off with
    | none => (4, [], s)
    | some d =>
      accessNow (flightTo s (kingSite s) 3 d (if a.wr.isSome then 2 else 1) a.len 0 true false (a.wr.getD [])) f s

/-- An access that fails: counted, logged by the RAS capability, and reported (R423, R433). -/
def hdmError (off status : Nat) (s : State) : State :=
  let s := { s with host := { s.host with
    hdmErrors := satInc 0xFFFFFFFF s.host.hdmErrors, rasLog := s.host.rasLog ++ [(off, status)] } }
  signalVector 2 (raise1 (evPlain 0x0001 0 status off) s)

/-- The form of a CXL.mem access: it lies in one 2 KiB unit. -/
def hdmFormOk (a : HdmAccess) : Bool :=
  decide (0 < a.len) && decide (a.len ≤ 2048) && a.off / 2048 == (a.off + a.len - 1) / 2048
    && (match a.wr with | some bs => bs.length == a.len | none => true)

/-- HDM_ACCESS. -/
def execHdmAccess (a : HdmAccess) (f : EccFinding) (time : Nat) (s : State) : Out :=
  if !hdmFormOk a then .fault .illFormed
  else
    barAccess time (fun s =>
      let r := hdmServe a f s
      if r.1 = notYet then s
      else
        let s := if r.1 = 0 then r.2.2 else hdmError a.off r.1 r.2.2
        if a.wr.isSome then s
        else setReadData (if r.2.1.isEmpty then allOnesData a.len else r.2.1) s) s

/-! ## Bias (R424, R425) -/

/-- The part of an interval of pages that lies below a page, and the part from a page on. -/
def biasCut (lo hi : Nat) (p : Nat × Nat) : List (Nat × Nat) :=
  let below := min (p.1 + p.2) lo - p.1
  let from' := max p.1 hi
  let above := p.1 + p.2 - from'
  (if below = 0 then [] else [(p.1, below)]) ++ (if above = 0 then [] else [(from', above)])

/-- An interval put in its place. -/
def biasInsert (x : Nat × Nat) : List (Nat × Nat) → List (Nat × Nat)
  | [] => [x]
  | y :: l => if x.1 < y.1 then x :: y :: l else y :: biasInsert x l

/-- Neighbouring intervals joined. -/
def biasJoin : List (Nat × Nat) → List (Nat × Nat)
  | [] => []
  | x :: l =>
    match biasJoin l with
    | [] => [x]
    | y :: m => if x.1 + x.2 = y.1 then (x.1, x.2 + y.2) :: m else x :: y :: m

/-- Host-bias pages, as intervals in order, with a range set to host bias or to device bias. -/
def biasPut (page n : Nat) (host : Bool) (l : List (Nat × Nat)) : List (Nat × Nat) :=
  let rest := l.flatMap (biasCut page (page + n))
  biasJoin (if host then biasInsert (page, n) rest else rest)

/-- Panel writes queued to the pages of a range are completed (R425). -/
def settleWrites (off n : Nat) (s : State) : State :=
  let hits (q : Packet) : Bool :=
    opcodeOf q == 2 && (List.range ((hdmStacks s).length)).any (fun j =>
      let a := stackAddr ((hdmStacks s).getD j 0) 0
      let d := destOf q
      decide (a ≤ d) && decide (d < a + 2 ^ 36) && decide (2 ^ 36 * j + (d - a) < off + n)
        && decide (off < 2 ^ 36 * j + (d - a) + q.len))
  (s.fab.flight.filter (fun f => hits f.q)).foldl (fun s f => arrive f.q (f.x.getD ⟨false, false, 0⟩) ⟨[], []⟩ s) s

/-- BIAS_SET. -/
def doBiasSet (c : Cmd) (pay : List Byte) (s : State) : State :=
  let off := leAt pay 0 8
  let n := leAt pay 8 4
  let dev := leAt pay 0xC 1
  checked c [(decide (pay.length ≠ 16), stBadLength),
      (n == 0 || decide (2 ^ 29 < n) || off % 4096 != 0 || decide (hdmSize s < off + 4096 * n) || decide (1 < dev)
        || !zeroAt pay 0xD 3, stBadField)]
    (fun s =>
      let s := if dev = 0 then settleWrites off (4096 * n) s else s
      complete c stOk 0 { s with host := { s.host with hostBias := biasPut (off / 4096) n (dev == 0) s.host.hostBias } }) s

/-- BIAS_SET. -/
def execBiasSet (c : Cmd) (s : State) : Out := runRow c 0x0008 doBiasSet s

/-! ## Host windows (R426) -/

/-- HOST_WINDOW_SET. -/
def doHostWindowSet (c : Cmd) (pay : List Byte) (s : State) : State :=
  let part := leAt pay 0 1
  let w := leAt pay 1 1
  let fl := leAt pay 2 1
  let base := leAt pay 8 8
  let len := leAt pay 0x10 8
  let clear := bitAt fl 0
  checked c [(decide (pay.length ≠ 24), stBadLength),
      (!partExists s part || decide (15 < w) || decide (7 < fl) || !zeroAt pay 3 5
        || (if clear then fl != 1 || base != 0 || len != 0
            else fld fl 2 1 == 0 || len == 0 || base % 4096 != 0 || len % 4096 != 0 || decide (2 ^ 64 < base + len)),
        stBadField)]
    (fun s =>
      let win := if clear then none else some ⟨bitAt fl 1, bitAt fl 2, base, len⟩
      complete c stOk 0 (modPart part (fun p => { p with hostWindows := p.hostWindows.set w win }) s)) s

/-- HOST_WINDOW_SET. -/
def execHostWindowSet (c : Cmd) (s : State) : Out := runRow c 0x0007 doHostWindowSet s
/-- HOST_WINDOW_SET with CLEAR. -/
def execHostWindowClear (c : Cmd) (s : State) : Out := runRow c 0x0007 doHostWindowSet s

/-! ## The aperture (R429 to R431) -/

/-- An aperture packet: stamped with AP_PART, or with FW where that is 0xF. -/
def apFlight (s : State) (a opcode len : Nat) (data : List Byte) : Flight :=
  let f := flightTo s (kingSite s) 3 a opcode len s.host.apTag true false data
  if s.host.active.part = 15 then f else { f with q := { f.q with fw := false, part := BitVec.ofNat 3 s.host.active.part } }

/-- A range cut at multiples of a size. -/
def cutsAt (size : Nat) : Nat → Nat → Nat → List (Nat × Nat)
  | 0, _, _ => []
  | f + 1, a, n =>
    if n = 0 then []
    else
      let k := min n (size - a % size)
      (a, k) :: cutsAt size f (a + k) (n - k)

/-- The core whose scratchpad an address lies in. -/
def apCore (a : Nat) : Option Nat :=
  match memKindOf (addrSite a) (addrUnit a) with
  | some (.core k) => some k
  | _ => none

/-- The status of an access of several pieces, from that of the pieces so far and of the next: the first that is not OK, but
that a piece has to wait makes the whole access wait. -/
def joinStatus (a b : Nat) : Nat := if b = notYet then notYet else if a = 0 then b else a

/-- A read of the aperture: its status, its data, and the state after it. -/
def apRead (f : EccFinding) (a n : Nat) (s : State) : Nat × List Byte × State :=
  (cutsAt 64 (n / 64 + 2) a n).foldl (fun (r : Nat × List Byte × State) c =>
    let x := accessNow (apFlight r.2.2 c.1 1 c.2 []) f r.2.2
    (joinStatus r.1 x.1, r.2.1 ++ x.2.1, x.2.2)) (0, [], s)

/-- Bytes written into one row of a core, whose access port is open and holds no remote write: a row covered in part is read and
merged, and is left as it is where a word of it cannot be corrected (R431). -/
def apPutRow (f : EccFinding) (k a : Nat) (bs : List Byte) (s : State) : Nat × State :=
  let base := a - a % 512
  if memSize s (.core k) < addrOff base + 512 then (4, s)
  else if bs.length = 512 then let r := writeMem (.core k) (addrOff base) bs f s; (if r.1 then 5 else 0, r.2)
  else
    let r := readMem (.core k) (addrOff base) 512 f s
    if r.1 then (5, r.2.2)
    else
      let w := writeMem (.core k) (addrOff base) (putBytes r.2.1 (a % 512) bs) f r.2.2
      (if w.1 then 5 else 0, w.2)

/-- The same for any core: one that refuses the packet answers it, and a port that holds a remote write or is not open makes it
wait (R206, R207). -/
def apWriteRow (f : EccFinding) (k a : Nat) (bs : List Byte) (s : State) : Nat × State :=
  let q := (apFlight s (a - a % 512) 2 512 []).q
  match arrivalStatus s q with
  | some st => (st, if st = 3 then dropPacket q s else s)
  | none => if !(coreOf s k).ax.remote.isEmpty || !portOpen s k then (notYet, s) else apPutRow f k a bs s

/-- The host port holds a tag until its answer comes, and goes on with the next. -/
def apAwait (q : Packet) (t tag : Nat) (s : State) : State :=
  { s with
    fab := { s.fab with awaits := s.fab.awaits ++ [⟨q, t⟩] }
    host := { s.host with apTag := tag } }

/-- One packet of an aperture write. One that its unit answers later leaves its tag with the host port; one that its unit does
not take yet has to wait (R339). -/
def apWriteOne (f : EccFinding) (a : Nat) (bs : List Byte) (s : State) : Nat × State :=
  let x := apFlight s a 2 bs.length bs
  if 14 ≤ addrY a then (4, s)
  else
    let r := serve x ⟨false, false, 0⟩ f s
    match r.1 with
    | .reply st _ => (st, r.2)
    | .wait => (notYet, r.2)
    | .held => (0, apAwait x.q s.now ((s.host.apTag + 1) % 4096) r.2)

/-- A write of the aperture, in address order: its status, and the state after it. -/
def apWrite (f : EccFinding) (a : Nat) (bs : List Byte) (s : State) : Nat × State :=
  (cutsAt 512 (bs.length / 512 + 2) a bs.length).foldl (fun (r : Nat × State) c =>
    let part := (bs.drop (c.1 - a)).take c.2
    let x := match apCore c.1 with
      | some k => apWriteRow f k c.1 part r.2
      | none => (cutsAt 64 (c.2 / 64 + 2) c.1 c.2).foldl (fun (q : Nat × State) (d : Nat × Nat) =>
          let y := apWriteOne f d.1 ((part.drop (d.1 - c.1)).take d.2) q.2
          (joinStatus q.1 y.1, y.2)) (0, r.2)
    (joinStatus r.1 x.1, x.2)) (0, s)

/-- An aperture access that no unit makes wait: its data, or the error completion that AP_ERRORS counts (R431). -/
def apDone (a : BarAccess) (status : Nat) (data : List Byte) (s : State) : State :=
  let s := if status = 0 then s else apError s
  if a.wr.isSome then s else setReadData (if status = 0 then data else allOnesData a.len) s

/-- An access to an open aperture: it is not due while a piece of it has to wait. -/
def apServe (a : BarAccess) (f : EccFinding) (s : State) : State :=
  let d := s.host.active.base + a.off
  match a.wr with
  | none => let r := apRead f d a.len s; if r.1 = notYet then s else apDone a r.1 r.2.1 r.2.2
  | some bs => let w := apWrite f d bs s; if w.1 = notYet then s else apDone a w.1 [] w.2

/-- Whether an aperture access meets a closed aperture. -/
def apClosed (s : State) (off : Nat) : Bool := !s.host.active.enable || decide (2 ^ s.host.active.sizeLog2 ≤ off)

/-- The form of an access to BAR2: it lies in its 16 GiB. -/
def barFormOk (a : BarAccess) : Bool :=
  decide (0 < a.len) && decide (a.off + a.len ≤ 2 ^ 34) && (match a.wr with | some bs => bs.length == a.len | none => true)

/-- APERTURE_ACCESS. -/
def execApertureAccess (a : BarAccess) (f : EccFinding) (time : Nat) (s : State) : Out :=
  if !barFormOk a then .fault .illFormed
  else
    barAccess time (fun s =>
      if apClosed s a.off then (if a.wr.isSome then s else setReadData (allOnesData a.len) s) else apServe a f s) s

/-- Why a commit is rejected, 0 where it is not (R430). -/
def commitReason (a : Aperture) : Nat :=
  if !a.enable then 0
  else if a.sizeLog2 < 12 ∨ 34 < a.sizeLog2 then 1
  else if a.base % 2 ^ a.sizeLog2 ≠ 0 then 2
  else if 2 ^ 56 < a.base + 2 ^ a.sizeLog2 then 3
  else if 8 ≤ a.part ∧ a.part ≤ 14 then 4
  else 0

/-- The shadow values come into effect together, or the commit is rejected. -/
def commitShadow (s : State) : State :=
  let r := commitReason s.host.shadow
  if r = 0 then { s with host := { s.host with active := s.host.shadow, rejected := false } }
  else { s with host := { s.host with rejected := true, reason := r } }

/-- COMMIT. -/
def execCommit (v : BitVec 32) (time : Nat) (s : State) : Out :=
  barAccess time (fun s => if v = 0xC0DE#32 then commitShadow s else s) s

/-! ## Registers of BAR0 -/

/-- The 8 bytes of a shadow register (Table 15-7). -/
def shadowBytes (a : Aperture) (r : Nat) : List Byte :=
  natLe 8 (if r = 0 then a.base else if r = 1 then 512 * b2n a.enable + 32 * a.part else a.sizeLog2)

/-- The words of the identification block, in order (R428, Table 15-6). -/
def idWords (s : State) : List Nat :=
  [variantOf s * 2 ^ 40 + (kingFuse s).stepping.toNat * 2 ^ 32 + 0x4A585A4C, (kingFuse s).panelSerial.toNat,
   2 * 2 ^ 16 + 2 ^ 11 * b2n s.host.removalReady + 2 ^ 10 * b2n s.install + 2 ^ 9 * b2n s.fp.kingAlt + 2 ^ 8 * b2n (serviceBit s)
    + s.host.bringup, s.host.dbErrors, s.host.hdmErrors]

/-- The words of the shadow-and-commit window registers, in order; COMMIT reads its reset value (R429, R430, Table 15-7). -/
def apertureWords (s : State) : List Nat :=
  (List.range 3).map (fun r => leNat (shadowBytes s.host.shadow r))
    ++ [0, 2 * s.host.reason + b2n s.host.rejected, s.host.active.base,
      2 ^ 10 * s.host.active.sizeLog2 + 2 ^ 9 * b2n s.host.active.enable + 2 ^ 5 * s.host.active.part, s.host.apErrors]

/-- The admin mailbox as it reads; GO reads zero (R435, Table 15-11). -/
def mailboxBytes (s : State) : List Byte :=
  s.host.mbCmd ++ s.host.mbCpl ++ copies 8 0 ++ natLe 8 (b2n s.host.mbBusy + 2 * b2n s.host.mbDone) ++ copies 160 0
    ++ s.host.mbData

/-- A byte of the window onto the panel log ring: record s stands at byte 64·(s mod 262,144) (R432, R546). -/
def logWindowByte (s : State) (o : Nat) : Byte :=
  match s.err.log.recs.zipIdx.find? (fun r => (s.err.log.next - 1 - r.2) % 262144 == o / 64) with
  | some r => (logBytes (s.err.log.next - 1 - r.2) r.1).getD (o % 64) 0
  | none => 0

/-- Whether some partition exists with DEBUG set (R432). -/
def debugOpen (s : State) : Bool := s.parts.any (fun p => p.present && p.debug)

/-- The byte that a read of BAR0 returns at an offset: zero outside the listed blocks, at a doorbell, at GO and at what is
reserved (Tables 15-5, 15-6, 15-7, 15-11, R427 to R432, R435). A host reads the mailbox and its completion here; the read of a
register that clears is a command of its own. -/
def barByte (s : State) (o : Nat) : Byte :=
  if o < 0x1000 then (natLe 8 ((idWords s).getD (o / 8) 0)).getD (o % 8) 0
  else if o < 0x2000 then (mailboxBytes s).getD (o - 0x1000) 0
  else if 0x100000 ≤ o ∧ o < 0x101000 then (natLe 8 ((apertureWords s).getD ((o - 0x100000) / 8) 0)).getD (o % 8) 0
  else if 0x1000000 ≤ o ∧ o < 0x2000000 ∧ debugOpen s then logWindowByte s (o - 0x1000000)
  else 0

/-- What a read of BAR0 returns. -/
def barRead (s : State) (o n : Nat) : List Byte := (List.range n).map (fun i => barByte s (o + i))

/-- A register that a read clears: it is read, and then it is zero. -/
def readAndClear (o : Nat) (clear : State → State) (s : State) : State := clear (setReadData (barRead s o 8) s)

/-- DB_ERRORS. -/
def execDbErrors (time : Nat) (s : State) : Out :=
  barAccess time (readAndClear 0x18 (fun s => { s with host := { s.host with dbErrors := 0 } })) s

/-- HDM_ERRORS. -/
def execHdmErrors (time : Nat) (s : State) : Out :=
  barAccess time (readAndClear 0x20 (fun s => { s with host := { s.host with hdmErrors := 0 } })) s

/-- AP_ERRORS. -/
def execApErrors (time : Nat) (s : State) : Out :=
  barAccess time (readAndClear 0x100038 (fun s => { s with host := { s.host with apErrors := 0 } })) s

/-- A shadow register written; its reserved bits stay zero. -/
def shadowPut (r : Nat) (bs : List Byte) (a : Aperture) : Aperture :=
  let v := leNat bs
  if r = 0 then { a with base := fld v 55 0 }
  else if r = 1 then { a with enable := bitAt v 9, part := fld v 8 5 }
  else { a with sizeLog2 := fld v 5 0 }

/-- The shadow registers after a write of bytes at a BAR0 offset of theirs. -/
def shadowWrite (off : Nat) (bs : List Byte) (z : Aperture) : Aperture :=
  let r := (off - 0x100000) / 8
  shadowPut r (putBytes (shadowBytes z r) (off % 8) bs) z

/-- Whether a write to BAR0 lies wholly between two offsets. -/
def offIn (lo hi : Nat) (a : RegWrite) : Bool := decide (lo ≤ a.off) && decide (a.off + a.size ≤ hi)

/-- The state with the mailbox command's bytes replaced. -/
def setMbCmd (x : List Byte) (s : State) : State := { s with host := { s.host with mbCmd := x } }
/-- The state with the mailbox data area replaced. -/
def setMbData (x : List Byte) (s : State) : State := { s with host := { s.host with mbData := x } }
/-- The state with the shadow registers replaced. -/
def setShadow (x : Aperture) (s : State) : State := { s with host := { s.host with shadow := x } }

/-- A write to a register that holds what is written: the mailbox command, its data, the shadow registers. Others are
ignored (R427, R435). -/
def writeRegister (a : RegWrite) (s : State) : State :=
  let bs := natLe a.size a.value.toNat
  if offIn 0x1000 0x1040 a then
    (if s.host.mbBusy then s else setMbCmd (putBytes s.host.mbCmd (a.off - 0x1000) bs) s)
  else if offIn 0x1100 0x2000 a then
    (if s.host.mbBusy then s else setMbData (putBytes s.host.mbData (a.off - 0x1100) bs) s)
  else if offIn 0x100000 0x100018 a then
    setShadow (shadowWrite a.off bs s.host.shadow) s
  else s

/-- The offsets of the registers whose writes are commands of their own: GO, DONE, the doorbells, COMMIT. -/
def isCommandRegister (off : Nat) : Bool :=
  (decide (0x1050 ≤ off) && decide (off < 0x1060)) || (decide (0x10000 ≤ off) && decide (off < 0x10200))
    || (decide (0x100018 ≤ off) && decide (off < 0x100020))

/-- The form of a write to BAR0 (R427): any width in the mailbox data area, elsewhere 4 or 8 bytes, aligned. -/
def regFormOk (a : RegWrite) : Bool :=
  let inData := offIn 0x1100 0x2000 a
  decide (a.off + a.size ≤ 0x4000000) && !isCommandRegister a.off
    && (if inData then decide (1 ≤ a.size) && decide (a.size ≤ 8)
        else (a.size == 4 || a.size == 8) && a.off % a.size == 0)

/-- REGISTER_WRITE. -/
def execRegisterWrite (a : RegWrite) (time : Nat) (s : State) : Out :=
  if !regFormOk a then .fault .illFormed else barAccess time (writeRegister a) s

/-! ## The mailbox (R435) -/

/-- DONE. -/
def execDone (v : BitVec 64) (time : Nat) (s : State) : Out :=
  barAccess time (fun s => if bitAt v.toNat 1 then { s with host := { s.host with mbDone := false } } else s) s

/-! ## Doorbells (R436, R437) -/

/-- An ignored doorbell write. -/
def badDoorbell (s : State) : State := { s with host := { s.host with dbErrors := satInc 0xFFFFFFFF s.host.dbErrors } }

/-- The state with a queue pair changed. -/
def putQueue (q : Nat) (p : QueuePair) (s : State) : State :=
  { s with host := { s.host with queues := mapPut s.host.queues q p } }

/-- Completions that wait for a queue are written while it has room. -/
def flushWaiting (q : Nat) : Nat → State → State
  | 0, s => s
  | n + 1, s =>
    match mapGet? s.host.queues q with
    | none => s
    | some p =>
      match p.waiting with
      | [] => s
      | x :: l => if cqRoom p then flushWaiting q n (cqPost q x { p with waiting := l } s) else s

/-- Whether a field that a doorbell write carries is below its depth. -/
def bellOk (v : Option (BitVec 12)) (depth : Nat) : Bool :=
  match v with
  | some n => decide (n.toNat < depth)
  | none => true

/-- A doorbell write: the fields whose write bits it sets (Table 15-13) are written together. A write to a queue that does not
exist, or with a value at or above the depth, is ignored and counted once (R436). -/
def doorbell (qid : Nat) (tail head : Option (BitVec 12)) (s : State) : State :=
  match mapGet? s.host.queues qid with
  | none => badDoorbell s
  | some p =>
    if bellOk tail p.sqDepth && bellOk head p.cqDepth then
      let p' := { p with
        sqTail := (tail.map BitVec.toNat).getD p.sqTail
        cqHead := (head.map BitVec.toNat).getD p.cqHead }
      flushWaiting qid p.waiting.length (putQueue qid p' s)
    else badDoorbell s

/-- SQ_TAIL: a doorbell write with SQ_WR, and with CQ_WR where it carries a head. -/
def execSqTail (qid : Fin 64) (w : SqBell) (time : Nat) (s : State) : Out :=
  barAccess time (doorbell qid.val (some w.tail) w.head) s

/-- CQ_HEAD: a doorbell write without SQ_WR, and with CQ_WR where it carries a head. -/
def execCqHead (qid : Fin 64) (head : Option (BitVec 12)) (time : Nat) (s : State) : Out :=
  barAccess time (doorbell qid.val none head) s

/-- QUEUE_CREATE (R436). -/
def doQueueCreate (c : Cmd) (pay : List Byte) (s : State) : State :=
  let qid := leAt pay 0 1
  let bind := leAt pay 1 1
  let vec := leAt pay 2 1
  let sq := leAt pay 4 2
  let cq := leAt pay 6 2
  let sqBase := leAt pay 8 8
  let cqBase := leAt pay 0x10 8
  checked c [(decide (pay.length ≠ 32), stBadLength), ((mapGet? s.host.queues qid).isSome, stBusy),
      (decide (63 < qid) || (bind != 0xFF && !partExists s bind) || decide (vec < 3) || !zeroAt pay 3 1
        || decide (sq < 2) || decide (4096 < sq) || decide (cq < sq) || decide (4096 < cq) || sqBase % 4096 != 0
        || cqBase % 4096 != 0 || !zeroAt pay 0x18 8, stBadField)]
    (fun s => complete c stOk 0 (putQueue qid ⟨bind, vec, sq, cq, sqBase, cqBase, 0, 0, 0, 0, true, []⟩ s)) s

/-- QUEUE_CREATE. -/
def execQueueCreate (c : Cmd) (s : State) : Out := runRow c 0x0003 doQueueCreate s

/-- The commands in progress that a condition names run to their end, and their completions are discarded. -/
def muteTaken (f : Via → Bool) (s : State) : State :=
  { s with inProgress := s.inProgress.map (fun t => if f t.cmd.via then { t with mute := true } else t) }

/-- Whether a command was taken from a queue. -/
def fromQueue (q : Nat) : Via → Bool
  | .queue n => n.val == q
  | _ => false

/-- Whether a command came through the host port. -/
def fromHost : Via → Bool
  | .mgmt .. => false
  | _ => true

/-- QUEUE_DELETE (R437). -/
def doQueueDelete (c : Cmd) (pay : List Byte) (s : State) : State :=
  let qid := leAt pay 0 1
  checked c [(decide (pay.length ≠ 8), stBadLength),
      (!zeroAt pay 1 7 || (mapGet? s.host.queues qid).isNone || fromQueue qid c.via, stBadField)]
    (fun s => complete c stOk 0 (muteTaken (fromQueue qid)
      { s with host := { s.host with queues := mapDel s.host.queues qid } })) s

/-- QUEUE_DELETE. -/
def execQueueDelete (c : Cmd) (s : State) : Out := runRow c 0x0004 doQueueDelete s

/-! ## VERSION and IDENTIFY (R442 to R444) -/

/-- VERSION. -/
def doVersion (c : Cmd) (pay : List Byte) (s : State) : State :=
  let n := leAt pay 0 1
  let majors := (List.range n).map (fun i => leAt pay (2 + 2 * i) 1)
  checked c [(decide (pay.length ≠ 16), stBadLength),
      (n == 0 || decide (7 < n) || !zeroAt pay 1 1 || !allZero (pay.drop (2 + 2 * n)), stBadField)]
    (fun s =>
      if majors.contains 2 then complete c stOk 0x20002 { s with host := { s.host with agreed := some 0 } }
      else complete c stVersionRefused 0x20000 { s with host := { s.host with agreed := none } }) s

/-- VERSION. -/
def execVersion (c : Cmd) (s : State) : Out := runRow c 0x0002 doVersion s

/-- A mask of the numbers below `n` that a condition names. -/
def maskOf (n : Nat) (f : Nat → Bool) : Nat := (List.range n).foldl (fun m i => if f i then m + 2 ^ i else m) 0

/-- FLAGS of the capability block. -/
def capFlags (s : State) : Nat :=
  b2n (belowRated s) + 2 * b2n (serviceBit s) + 4 * b2n s.fp.kingAlt + 8 * b2n s.install + 16 * b2n s.host.parked

/-- The 256-byte capability block (Table 15-15b). -/
def capBytes (s : State) : List Byte :=
  natLe 2 1 ++ natLe 1 (variantOf s) ++ natLe 1 (kingFuse s).stepping.toNat ++ natLe 1 2 ++ natLe 1 0
    ++ natLe 1 s.host.bringup ++ natLe 1 (capFlags s) ++ natLe 8 (kingFuse s).panelSerial.toNat ++ natLe 2 s.links.panelId
    ++ natLe 1 s.host.linkMode ++ natLe 1 s.host.linkWidth ++ natLe 4 s.boot.generation.toNat
    ++ natLe 4 (maskOf 32 (fun n => !siteAbsent s (siteOfStack n))) ++ natLe 4 (maskOf 32 (fun n => !embAbsent s n))
    ++ natLe 8 (maskOf 48 (fun l => !linkAbsent s l)) ++ natLe 2 (maskOf 16 (fun w => !siteAbsent s (siteOfWstore w)))
    ++ natLe 2 (fullGood s) ++ natLe 4 (usableCores s) ++ natLe 8 (hdmSize s)
    ++ natLe 1 (b2n (contractOk s 1) + 2 * b2n (contractOk s 2) + 4 * b2n (contractOk s 7)) ++ natLe 1 64 ++ natLe 2 512
    ++ natLe 2 4096 ++ copies 2 0 ++ natLe 8 (procOf s (kingPc s)).version ++ copies 184 0

/-- IDENTIFY. -/
def doIdentify (c : Cmd) (_pay : List Byte) (s : State) : State :=
  checked c [(decide (cmdLen c < 256), stBadLength)] (fun s => completeWithOwnBuf c (capBytes s) 0 s) s

/-- IDENTIFY. -/
def execIdentify (c : Cmd) (s : State) : Out := runRow c 0x0001 doIdentify s

/-! ## Host tokens (R445) -/

/-- The bay of a partition that a core belongs to, in a state that takes host tokens. -/
def tokenBay (s : State) (k part : Nat) : Bool :=
  match bayOfCore s k with
  | some (_, b) => b.part == part && (b.mode == .loaded || b.mode == .running || b.mode == .held)
  | none => false

/-- Whether a token queue of a core has room. -/
def tokenRoom (s : State) (k q : Nat) : Bool := decide (((coreOf s k).seq.queues.getD q []).length < 16)

/-- A host token arrives at a token queue with room, between the cycles of the bay (R81): the command completes, with 1 in
its detail for a token discarded as stale. -/
def enterToken (c : Cmd) (k q : Nat) (w : W32) (s : State) : State :=
  let t := portCycle s k
  let stale := tokEpoch w != epochAt (coreOf s k) t
  let s := modCore k (fun x =>
    if stale then { x with st := { x.st with staleTokens := satInc 4095 x.st.staleTokens } }
    else { x with seq := { x.seq with queues := modAt x.seq.queues q (fun l => l ++ [⟨t, w⟩]) } }) s
  complete c stOk (b2n stale) s

/-- TOKEN_SEND. -/
def doTokenSend (c : Cmd) (pay : List Byte) (s : State) : State :=
  let x := leAt pay 0 1
  let y := leAt pay 1 1
  let q := leAt pay 2 1
  let ms := leAt pay 6 2
  let k := coreAt x y
  let w := tokWord (BitVec.ofNat 4 (leAt pay 3 1)) (leAt pay 4 2)
  checked c [(decide (pay.length ≠ 16), stBadLength),
      (decide (127 < x) || decide (79 < y) || decide (3 < q) || decide (15 < leAt pay 3 1) || decide (10000 < ms)
        || !zeroAt pay 8 8, stBadField),
      (!tokenBay s k (cmdPart c), stDenied)]
    (fun s =>
      if tokenRoom s k q then enterToken c k q w s
      else if ms = 0 then complete c stBusy 0 s
      else { s with host := { s.host with tokens := s.host.tokens ++ [⟨k, q, w, s.now + 1000000 * ms, c⟩] } }) s

/-- TOKEN_SEND. -/
def execTokenSend (c : Cmd) (s : State) : Out := runRow c 0x0009 doTokenSend s

/-- A host token that waits no longer. -/
def dropToken (w : WaitingToken) (s : State) : State := { s with host := { s.host with tokens := s.host.tokens.erase w } }

/-- TOKEN_SEND_DELIVER: the oldest token that waits for a queue enters it within its time. -/
def execTokenSendDeliver (k : CoreId) (tq : Fin 4) (time : Nat) (s : State) : Out :=
  let n := coreNo k
  let t := atTime time s
  match s.host.tokens.find? (fun w => w.core == n && w.tq == tq.val && decide (t.now ≤ w.due)) with
  | none => .next s
  | some w =>
    if !tokenRoom s n tq.val || !tokenBay s n (cmdPart w.cmd) then .next s
    else .next (enterToken w.cmd n tq.val w.word (dropToken w t))

/-- TOKEN_SEND_TIMEOUT: WAIT_MS of a token that waits for a queue has passed. -/
def execTokenSendTimeout (k : CoreId) (tq : Fin 4) (time : Nat) (s : State) : Out :=
  let t := atTime time s
  match s.host.tokens.find? (fun w => w.core == coreNo k && w.tq == tq.val && decide (w.due ≤ t.now)) with
  | none => .next s
  | some w => .next (complete w.cmd stBusy 0 (dropToken w t))

/-! ## The event queue (R446, R447) -/

/-- EVENT_QUEUE_SET. -/
def doEventQueueSet (c : Cmd) (pay : List Byte) (s : State) : State :=
  let base := leAt pay 0 8
  let depth := leAt pay 8 4
  let clear := bitAt (leAt pay 0xC 1) 0
  checked c [(decide (pay.length ≠ 16), stBadLength),
      (decide (1 < leAt pay 0xC 1) || !zeroAt pay 0xD 3
        || (if clear then base != 0 || depth != 0 else base % 4096 != 0 || decide (depth < 64) || decide (65536 < depth)),
        stBadField)]
    (fun s => complete c stOk 0
      (if clear then { s with ev := { s.ev with set := false } }
       else evFlushLost { s with ev := { s.ev with
        set := true, base := base, depth := depth, tail := 0, hostHead := 0, phase := true } })) s

/-- EVENT_QUEUE_SET. -/
def execEventQueueSet (c : Cmd) (s : State) : Out := runRow c 0x0005 doEventQueueSet s
/-- EVENT_QUEUE_SET with its flag: the queue is cleared. -/
def execEventQueueClear (c : Cmd) (s : State) : Out := runRow c 0x0005 doEventQueueSet s

/-- EVENT_ACK. -/
def doEventAck (c : Cmd) (pay : List Byte) (s : State) : State :=
  let h := leAt pay 0 4
  checked c [(decide (pay.length ≠ 4), stBadLength), (!s.ev.set || decide (s.ev.depth ≤ h), stBadField)]
    (fun s => complete c stOk 0 (evFlushLost { s with ev := { s.ev with hostHead := h } })) s

/-- EVENT_ACK. -/
def execEventAck (c : Cmd) (s : State) : Out := runRow c 0x0006 doEventAck s

/-! ## Host-port resets (R449, R589, R590) -/

/-- The host-port reset. -/
def portReset (s : State) : State :=
  let s := muteTaken fromHost s
  { s with
    ev := { s.ev with set := false }
    parts := s.parts.map (fun p => { p with hostWindows := copies 16 none })
    host := { s.host with
      queues := [], turn := 0, mbBusy := false, mbDone := false, mbCmd := copies 64 0, mbCpl := copies 16 0
      agreed := none, active := { s.host.active with enable := false }, hostBias := [], inL2 := false, wake := false } }

/-- HOST_PORT_RESET. While PERST# is asserted the port stays in it. -/
def execHostPortReset (cause : PortResetCause) (time : Nat) (s : State) : Out :=
  if !s.pwr.good then .next s
  else
    let s := portReset (atTime time s)
    .next (match cause with
      | .perst => { s with host := { s.host with perst := true, linkMode := 0, linkWidth := 0 } }
      | _ => s)

/-- The modes and widths of Table 15-2. -/
def modeFormOk (m : LinkMode) : Bool := m.code != 0 && (m.width == 4 || m.width == 8 || m.width == 16)

/-- PERST_DEASSERT: the port leaves its reset and trains to a mode of Table 15-2 (R420). -/
def execPerstDeassert (mode : LinkMode) (time : Nat) (s : State) : Out :=
  if !modeFormOk mode then .fault .illFormed
  else if !s.host.perst then .next s
  else
    let s := atTime time s
    .next { s with host := { s.host with perst := false, linkMode := mode.code.val, linkWidth := mode.width } }

end Sys2Proof.Machine
end

