-- ==== Sys2Proof/Machine/Matrix.lean ====
section
/-! DEFINITION. The matrix engine and the tile queue (Matrix Engine and Tile Queue, R120 to R139). -/

namespace Sys2Proof.Machine

/-- Vector v of an operand from its element rows and its scale rows (R121 to R123, R95). -/
def operandVector (f : Fm) (elemRows scaleRows : List Row) (v : Nat) : List FVal :=
  let w := fmBits f
  if fmBlocked f then
    let bpr := fmBlocksPerRow f
    let row := elemRows.getD (v / bpr) 0
    let sc := if f = .dp4 then rowBits (scaleRows.getD (v / 256) 0) (16 * (v % 256)) 16
      else rowBits (scaleRows.getD (v / 512) 0) (8 * (v % 512)) 8
    (List.range 32).map (fun j => blockElem f sc j (rowBits row (32 * w * (v % bpr) + w * j) w))
  else
    let per := fmPerRow f / 32
    let row := elemRows.getD (v / per) 0
    (List.range 32).map (fun j => fmDecode f (rowBits row (32 * w * (v % per) + w * j) w))

/-- The 64 vectors of tile-step s of an operand whose rows have been read. -/
def stepVectors (f : Fm) (n s : Nat) (rows : List Row) : List (List FVal) :=
  let e := mxElemRows f n
  (List.range 64).map (fun m => operandVector f (rows.take e) (rows.drop e) (64 * s + m))

/-- The rows of an operand within the core (R122 to R124). -/
def operandRows (c : Core) (slot off : Nat) (f : Fm) (n : Nat) : List Nat :=
  if n = 0 then [] else slotSpan c slot off (mxElemRows f n + mxScaleRows f n)

/-- One lane of the bank after a tile-step (R110 to R114). -/
def stepLane (serial : Bool) (acc : W32) (a b : List FVal) : W32 × NumFlags :=
  if serial then accSerial acc a b else accChunk acc a b

/-- The bank after the additions of a tile-step, with the flags (R129). Lane e = 64·m + n holds C[m][n]
(R133). -/
def bankStep (serial : Bool) (bank : List Row) (av bv : List (List FVal)) : List Row × NumFlags :=
  (List.range 32).foldr (fun r acc =>
    let row := bank.getD r 0
    let lanes := (List.range 128).map (fun l =>
      stepLane serial (rowLane row l) (av.getD (2 * r + l / 64) []) (bv.getD (l % 64) []))
    (rowOfElems 32 (lanes.map (fun x => x.1.toNat)) :: acc.1,
     lanes.foldl (fun f x => flagsOr f x.2) acc.2)) ([], noFlags)

/-- MATRIX_STEP issues into the operation queue (R55, R120). -/
def execMatrixStep (k : CoreId) (t : Nat) (s : State) : Out :=
  let push (shim : Bool) (o : BitVec 128) (s : State) : State := modCore (coreNo k) (fun c =>
    let e : EngineOp := ⟨c.seq.issue.idx, o, walkStart o c.seq.issue, shim⟩
    { c with eng := { c.eng with mxQueue := c.eng.mxQueue ++ [e] } }) s
  issueRun (coreNo k) t .matrixStep (push true) (fun o _ s => push false o s) s

/-- The cycles in which the rows of a tile-step sequence are read (R188): in each step the element rows of A, then
those of B, one per cycle, and then the scale rows, A first. -/
def mxReads (c : Core) (o : BitVec 128) (t0 : Nat) : List (Nat × Nat) :=
  match fmOfCode (mxFmtA o), fmOfCode (mxFmtB o) with
  | some fa, some fb =>
    let n := mxKsteps o
    let occ := mxOcc o
    let perVec (f : Fm) : Nat := if fmBlocked f then fmBlocksPerRow f else fmPerRow f / 32
    let perScale (f : Fm) : Nat := if f = .dp4 then 256 else 512
    let span (lo hi : Nat) : List Nat := (List.range (hi + 1 - lo)).map (fun i => lo + i)
    let elems (slot off : Nat) (f : Fm) (s : Nat) : List Nat :=
      (span (64 * s / perVec f) ((64 * s + 63) / perVec f)).map (fun i => slotBaseOf c slot + off + i)
    let scales (slot off : Nat) (f : Fm) (s : Nat) : List Nat :=
      if fmBlocked f then
        (span (64 * s / perScale f) ((64 * s + 63) / perScale f)).map
          (fun i => slotBaseOf c slot + off + mxElemRows f n + i)
      else []
    (List.range n).flatMap (fun s =>
      let rows := elems (mxASlot o) (mxAOff o) fa s ++ elems (mxBSlot o) (mxBOff o) fb s
        ++ scales (mxASlot o) (mxAOff o) fa s ++ scales (mxBSlot o) (mxBOff o) fb s
      (List.range rows.length).map (fun i => (rows.getD i 0, t0 + s * occ + i)))
  | _, _ => []

/-- A MATRIX_STEP that is no shim starts in cycle `t` (R125 to R130, R188, R192, R212). -/
def matrixStart (k t : Nat) (e : EngineOp) (contract : Nat) (s : State) : State :=
  let o := e.word
  let c := coreOf s k
  let n := mxKsteps o
  let fa := (fmOfCode (mxFmtA o)).getD .fp32
  let fb := (fmOfCode (mxFmtB o)).getD .fp32
  let aR := operandRows c (mxASlot o) (mxAOff o) fa n
  let bR := operandRows c (mxBSlot o) (mxBOff o) fb n
  let deep := deepTerm (aR ++ bR)
  let occ := if n = 0 then 32 else mxOcc o
  let lat := latMatrix contract + deep
  let last := t + max (n * occ) 32 - 1
  let done := t + max n 1 * occ - 1 + lat
  let s := expectTag k (mxASlot o) true e.idx t s
  let s := if mxBSlot o = mxASlot o then s else expectTag k (mxBSlot o) true e.idx t s
  let s := checkReads k (mxReads c o t) s
  let f := freshOp k s
  let s := modCore k (fun c =>
    let run : MxRun := ⟨f.1, e.idx, o, t, occ, lat, 0, aR.map (fun d => rowAt f.2 k d t),
      bR.map (fun d => rowAt f.2 k d t), []⟩
    let empt := ((if mxAConsume o && n ≥ 1 then [mxASlot o] else [])
      ++ (if mxBConsume o && n ≥ 1 then [mxBSlot o] else [])).eraseDups
    let c := { c with eng := { c.eng with
      mxRuns := c.eng.mxRuns ++ [run]
      mxIdle := max c.eng.mxIdle (if mxDrain o then done + 33 else done + 1) } }
    planTags ⟨.operandRelease, last + 1 + deep, empt, []⟩ c) f.2
  if n = 0 then s else openWin k ⟨.mx, f.1, aR ++ bR, t, last⟩ s

/-- A queued MATRIX_STEP starts on the free engine (R55, R128). A shim occupies the engine and no more (R138). -/
def execMatrixStepStart (k : CoreId) (t : Nat) (s : State) : Out :=
  match enterCycle (coreNo k) t s with
  | none => .next s
  | some (_, b, s') =>
    match (coreOf s' (coreNo k)).eng.mxQueue with
    | [] => .next s
    | e :: es =>
      if e.start ≠ t then .next s
      else
        let occupied := max (mxKsteps e.word * mxOcc e.word) 32
        let s := modCore (coreNo k) (fun c => { c with eng := { c.eng with
          mxQueue := es, mxIdle := max c.eng.mxIdle (t + occupied) } }) s'
        .next (if e.shim then s else matrixStart (coreNo k) t e b.contract s)

/-- In the cycle after the last occupied cycle the consumed operand slots become empty (R126). -/
def execOperandRelease (k : CoreId) (t : Nat) (s : State) : Out :=
  runTagActs .operandRelease (coreNo k) t (fun _ => false) s

/-- The addition cycle of the next tile-step of a run (R129). -/
def mxAddCycle (m : MxRun) : Nat := m.t0 + (m.done + 1) * m.occ - 1 + m.lat

/-- The rows that a run reads in its next tile-step: of a row that was written while it was read, an undefined mix of the old
and the new contents, bit by bit (R125, log entry 57). -/
def mixedRows : Nat → List (Nat × Row) → List Row → List Row
  | _, [], rows => rows
  | n, (i, new) :: ms, rows =>
    let mask := BitVec.ofNat 4096 (Config.freeValue n)
    mixedRows (n + 1) ms (rows.modify i (fun old => (old &&& mask) ||| (new &&& ~~~mask)))

/-- A run as its next tile-step finds its operands. -/
def mixedRun (m : MxRun) (n : Nat) : MxRun :=
  let rows := mixedRows n m.mixes (m.aRows ++ m.bRows)
  { m with aRows := rows.take m.aRows.length, bRows := rows.drop m.aRows.length }

/-- The bank and the flags after a run's next addition (R111 to R114, R130). -/
def mxAdd (m : MxRun) (bank : List Row) : List Row × NumFlags :=
  let o := m.word
  let n := mxKsteps o
  let start := if mxAccZero o && m.done = 0 then copies 32 0 else bank
  if n = 0 then (start, noFlags)
  else
    match fmOfCode (mxFmtA o), fmOfCode (mxFmtB o) with
    | some fa, some fb =>
      bankStep (mxOcc o == 128) start (stepVectors fa n m.done m.aRows) (stepVectors fb n m.done m.bRows)
    | _, _ => (start, noFlags)

/-- A drain of a bank that takes new values in cycle `t`: the rows that it has still to read after this cycle are the new
ones (R131, R132). -/
def drainOn (bn t : Nat) (bank : List Row) (d : TileMove) : TileMove :=
  if d.bank = bn then
    { d with rows := (List.range 32).map (fun i => if d.cycle + i ≤ t + 31 then d.rows.getD i 0 else bank.getD i 0) }
  else d

/-- In an addition cycle the chunk sums of a tile-step are added to the bank; the last addition makes the bank
complete, and with DRAIN the tile leaves for the tile queue, row by row in the 32 cycles that follow (R129 to R132). Under KD7
two drains may so overlap, each over its own cycles (DESIGN CHOICE, log entry 140). -/
def execBankComplete (k : CoreId) (t : Nat) (s : State) : Out :=
  match enterCycle (coreNo k) t s with
  | none => .next s
  | some (_, _, s') =>
    let c := coreOf s' (coreNo k)
    match c.eng.mxRuns.find? (fun m => mxAddCycle m == t) with
    | none => .next s
    | some m =>
      let bn := mxBank m.word
      let r := mxAdd (mixedRun m s'.freeCtr) (c.eng.banks.getD bn [])
      let last := decide (m.done + 1 ≥ mxKsteps m.word)
      let s := modCore (coreNo k) (fun c =>
        let runs := if last then c.eng.mxRuns.filter (fun x => x.op != m.op)
          else c.eng.mxRuns.map (fun x => if x.op == m.op then { x with done := x.done + 1 } else x)
        let drains := c.eng.drains.map (drainOn bn t r.1)
          ++ (if last && mxDrain m.word then [⟨m.idx, t + 32, bn, r.1⟩] else [])
        setFlagsAt t r.2 m.op { c with eng := { c.eng with
          mxRuns := runs, drains := drains, banks := c.eng.banks.set bn r.1 } })
        { s' with freeCtr := s'.freeCtr + m.mixes.length }
      .next (examineAcc (coreNo k) t bn s)

/-- Whether a chain that is still to start in cycle `t` removes a tile in that cycle (R134). -/
def removesNow (c : Core) (t : Nat) : Bool :=
  match c.eng.vxQueue with
  | [] => false
  | e :: _ => e.start == t && !e.shim && vxFromTq e.word && decide (1 ≤ vxEff c e.word t) && decide (vxEff c e.word t ≤ 128)
      && c.eng.tiles.any (fun x => x.gone.isNone && decide (x.stamp ≤ t))

/-- After the 32 cycles of its drain the tile is in queue; a tile that finds the queue full is discarded and counted. A
removal of the same cycle counts first, made already or still to be made (R131, R135, R136). -/
def execTileInQueue (k : CoreId) (t : Nat) (s : State) : Out :=
  match enterCycle (coreNo k) t s with
  | none => .next s
  | some (_, _, s') =>
    let c := coreOf s' (coreNo k)
    match c.eng.drains.find? (fun d => d.cycle == t) with
    | none => .next s
    | some d =>
      let s := modCore (coreNo k) (fun c => { c with eng := { c.eng with
        drains := c.eng.drains.filter (fun x => x.cycle != t)
        tiles := tilesAt c (t + 1) } }) s'
      let n := (coreOf s (coreNo k)).eng.tiles.length
      if n - b2n (removesNow c t) ≥ 4 then
        .next (noteEvent (coreNo k) 3 0 d.idx t n (fun c => { c with tileOverrun := satInc 4095 c.tileOverrun }) s)
      else
        .next (modCore (coreNo k) (fun c => { c with
          eng := { c.eng with tiles := c.eng.tiles ++ [⟨t + 1, none, d.rows⟩] }
          st := { c.st with tilesOut := satInc 65535 c.st.tilesOut } }) s)

end Sys2Proof.Machine
end

