-- ==== Sys2Proof/Machine/Scan.lean ====
section
/-! DEFINITION. The scan unit (Scan Unit for Linear Recurrences, R167 to R181). -/

namespace Sys2Proof.Machine

/-- SCAN_CALL issues into the operation queue (R55, R167). -/
def execScanCall (k : CoreId) (t : Nat) (s : State) : Out :=
  let push (shim : Bool) (o : BitVec 128) (s : State) : State := modCore (coreNo k) (fun c =>
    let e : EngineOp := ⟨c.seq.issue.idx, o, walkStart o c.seq.issue, shim⟩
    { c with eng := { c.eng with scQueue := c.eng.scQueue ++ [e] } }) s
  issueRun (coreNo k) t .scanCall (push true) (fun o _ s => push false o s) s

/-- The rows of a call counted to its steps bound (R172, R212). -/
def scanSpan (c : Core) (o : BitVec 128) : List Nat :=
  if scSteps o = 0 then []
  else (if scMode o = 0 then slotSpan c (scASlot o) 0 (scQ o) else []) ++ slotSpan c (scBSlot o) 0 (scQ o)
    ++ slotSpan c (scStateSlot o) 0 (scChgrp o) ++ slotSpan c (scOutSlot o) 0 (scQ o)

/-- The rows that a call of T steps reads, with their cycles (R177). -/
def scanReads (c : Core) (o : BitVec 128) (t0 steps : Nat) : List (Nat × Nat) :=
  if steps = 0 then []
  else
    (List.range (steps * scChgrp o)).flatMap (fun i =>
      (if scMode o = 0 then [(slotBaseOf c (scASlot o) + i, t0 + i)] else [])
        ++ [(slotBaseOf c (scBSlot o) + i, t0 + i)])
    ++ (List.range (scChgrp o)).map (fun g => (slotBaseOf c (scStateSlot o) + g, t0 + g))

/-- The rows that a call writes, with their cycles, contents and flags (R168, R177). -/
def scanWrites (s : State) (k : Nat) (o : BitVec 128) (t0 steps lat : Nat) : List ScanWrite :=
  (scanEval s k 0 ⟨0, o, t0, steps, lat, []⟩).outs

/-- A SCAN_CALL that is no shim starts in cycle `t` (R167 to R180, R192, R212). -/
def scanStart (k t : Nat) (e : EngineOp) (contract : Nat) (s : State) : State :=
  let o := e.word
  let c := coreOf s k
  let ctr := (counterAt c (scStepsCtr o) t).1.toNat
  let steps := if scStepsSrc o then min ctr (scSteps o) else scSteps o
  let deep := deepTerm (scanSpan c o)
  let lat := latScan contract + deep
  let w := scW o
  let ins := (if scMode o = 0 then [scASlot o] else []) ++ [scBSlot o]
  let s := ins.foldl (fun s n => expectTag k n true e.idx t s) s
  let s := expectTag k (scStateSlot o) true e.idx t s
  let reads := scanReads c o t steps
  let s := checkReads k reads s
  let f := freshOp k s
  let s := modCore k (fun c =>
    let c := { c with
      eng := { c.eng with
        scBusy := max c.eng.scBusy (t + lat + w)
        scIdle := max c.eng.scIdle (t + lat + w + 1) }
      st := { c.st with
        calls := satInc 65535 c.st.calls
        stepsClamps := if scStepsSrc o ∧ ctr > scSteps o then satInc 4095 c.st.stepsClamps else c.st.stepsClamps } }
    let c := planTags ⟨.scanIn, t + w + deep, ins, []⟩ c
    planTags ⟨.scanOut, t + lat + w, [], scOutSlot o :: (if steps ≥ 1 then [scStateSlot o] else [])⟩ c) f.2
  if steps = 0 then s
  else
    let run : ScanRun := ⟨f.1, o, t, steps, lat, []⟩
    let e := scanEval s k 0 run
    let s := modCore k (fun c => { c with eng := { c.eng with
      scRuns := c.eng.scRuns.filter (fun r => decide (t < r.t0 + r.steps * scChgrp r.word)) ++ [{ run with ins := e.ins }] } }) s
    putScan k f.1 0 e.outs s

/-- A queued call starts on the free unit (R55, R177). A shim occupies the unit and no more (R180); the unit is
idle after it in cycle t₀ + W (DESIGN CHOICE, log entry 145). -/
def execScanCallStart (k : CoreId) (t : Nat) (s : State) : Out :=
  match enterCycle (coreNo k) t s with
  | none => .next s
  | some (_, b, s') =>
    match (coreOf s' (coreNo k)).eng.scQueue with
    | [] => .next s
    | e :: es =>
      if e.start ≠ t then .next s
      else
        let s := modCore (coreNo k) (fun c => { c with eng := { c.eng with
          scQueue := es, scIdle := max c.eng.scIdle (t + scW e.word) } }) s'
        .next (if e.shim then s else scanStart (coreNo k) t e b.contract s)

/-- At t₀ + W the A and B slots become empty (R178). -/
def execScanInputEmpty (k : CoreId) (t : Nat) (s : State) : Out :=
  runTagActs .scanIn (coreNo k) t (fun _ => false) s

/-- At t₀ + L + W the output slot, and with T ≥ 1 the state slot, become full (R178). Of the two only the output slot is
expected empty (Table 7-2). -/
def execScanOutputFull (k : CoreId) (t : Nat) (s : State) : Out :=
  match enterCycle (coreNo k) t s with
  | none => .next s
  | some (_, _, s') =>
    let outs := ((coreOf s' (coreNo k)).eng.tagActs.filter (fun a => a.kind == .scanOut && a.cycle == t)).filterMap
      (fun a => a.fulls.head?)
    runTagActs .scanOut (coreNo k) t (fun n => outs.contains n) s

end Sys2Proof.Machine
end

