-- ==== Sys2Proof/Machine/Lookahead.lean ====
section
/-! DEFINITION. The lookahead of the sequencer: check-ahead, reservations, and the scheduled accesses that bank holds
follow from (R61 to R66, R184 to R186, R260 to R262). -/

namespace Sys2Proof.Machine

/-- The scheduled accesses of a chain for its VL bound (R160, R262). -/
def chainAccesses (c : Core) (o : BitVec 128) (t0 : Nat) : List (Nat × Nat) :=
  let entry := chainEntry c o
  let bound := vxBound o
  let nb := (bound + 127) / 128
  let spans := chainSpans c o entry
  let fill := 6 + 3 * ceNstages entry + deepTerm (spans.1.flatten ++ spans.2.flatten)
  let ins := (List.range (ceNin entry)).flatMap (fun n =>
    let base := slotBaseOf c (vxInSlot o n)
    let f := (fmOfCode (ceInFmt entry n)).getD .fp32
    if (n = 0 ∧ vxFromTq o) ∨ nb = 0 then []
    else if ceScalar entry n then [(base, t0)]
    else (List.range nb).flatMap (fun b => (beatRows f bound bound b).map (fun r => (base + r, t0 + b))))
  let outs := (List.range (ceNout entry)).flatMap (fun m =>
    (outWrites ((fmOfCode (ceOutFmt entry m)).getD .fp32) bound bound [] []).map (fun w =>
      (slotBaseOf c (vxOutSlot o m) + w.1, t0 + fill + w.2.1)))
  ins ++ outs

/-- The scheduled accesses of a scan call for its steps bound (R177, R262). -/
def scanAccesses (c : Core) (o : BitVec 128) (contract t0 : Nat) : List (Nat × Nat) :=
  let lat := latScan contract + deepTerm (scanSpan c o)
  if scSteps o = 0 then []
  else scanReads c o t0 (scSteps o)
    ++ (List.range (scQ o)).map (fun i => (slotBaseOf c (scOutSlot o) + i, t0 + lat + i))
    ++ (List.range (scChgrp o)).map (fun g => (slotBaseOf c (scStateSlot o) + g, t0 + lat + scQ o - scChgrp o + g))

/-- The scheduled accesses of an operation that issues in cycle `t` and starts on its engine in cycle `t0`: rows with
their cycles (R188, R604). -/
def opAccesses (c : Core) (o : BitVec 128) (contract t t0 : Nat) : List (Nat × Nat) :=
  match opKind o with
  | some .matrixStep => mxReads c o t0
  | some .vectorChain => chainAccesses c o t0
  | some .scanCall => scanAccesses c o contract t0
  | some .accessEnq => (enqRows c o).map (fun d => (d, t))
  | some .send => (List.range (srRows o)).map (fun n => (slotBaseOf c (srSlot o) + srRowOff o + n, t + n * srStride o))
  | some .receive =>
    let deep := deepTerm (srSpan c o)
    (List.range (srRows o)).map (fun n =>
      (slotBaseOf c (srSlot o) + srRowOff o + n, t + 2 + (n + 1) * srStride o + deep))
  | some .produce =>
    match (produceOffer c o t).scratch with
    | some (d, _, u) => [(d, u)]
    | none => []
  | _ => []

/-- Scheduled accesses are counted to the banks of the cores that hold the rows (R211). -/
def countAccesses (k idx : Nat) (l : List (Nat × Nat)) (s : State) : State :=
  l.foldl (fun s a =>
    let p := rowPlace k a.1
    modCore p.1 (fun c => { c with bank := countAccess idx p.2 a.2 c.bank }) s) s

/-- An EPOCH_MARK's check: one credit on every outgoing crossing (R260). -/
def checkMarks (k t due i : Nat) : List Side → State → List Side × State
  | [], s => ([], s)
  | d :: ds, s =>
    match xingOut s k d with
    | none => checkMarks k t due i ds s
    | some x =>
      if 0 < xingCredits x then
        let r := checkMarks k t due i ds (modXingOut k d (fun x => { x with driveClaims := x.driveClaims + 1 }) s)
        (d :: r.1, r.2)
      else checkMarks k t due i ds (modBay i (requestHold (.markCredit k d due) t) s)

/-- The lookahead makes its check of an operation that it takes for executing: the reservation of an ACCESS_ENQ (R66), the
credits of an EPOCH_MARK (R260), the page of a PEG_PAGE (R229), and the condition of a check-ahead operation (R61,
R62). -/
def lookOp (k t i contract : Nat) (w : Walker) (ch : WalkChoice) (s : State) : AheadRec × State :=
  let c := coreOf s k
  let o := opAt c w.idx
  let rc : AheadRec := ⟨w.idx, w.due, false, 0, [], ch⟩
  let s := if opChk o && !chkMet s k o t xingEntries then modBay i (requestHold (.check k w.idx) t) s else s
  let r : AheadRec × State := match opKind o with
    | some .accessEnq =>
      if aeCount o ≤ descFree c then
        ({ rc with reserved := aeCount o },
          modCore k (fun c => { c with ax := { c.ax with reserved := c.ax.reserved + aeCount o } }) s)
      else (rc, modBay i (requestHold (.accessQueue k w.due) t) s)
    | some .epochMark =>
      let m := checkMarks k t w.due i (xingSides s k) s
      ({ rc with claims := m.1 }, m.2)
    | some .pegPage =>
      (rc, modCore k (fun c => { c with rt := { c.rt with
        ahead := { c.rt.ahead with next := c.rt.ahead.next ++ [(ppPage o, w.due)] } } }) s)
    | _ => (rc, s)
  (r.1, countAccesses k w.idx (opAccesses c o contract w.due (walkStart o w)) r.2)

/-- The lookahead looks at the operation whose check cycle is `t`: H cycles before its issue, or cycle 0 (R61, R63). A
shim has no check. -/
def execCheckAhead (k : CoreId) (t : Nat) (s : State) : Out :=
  match enterCycle (coreNo k) t s with
  | none => .next s
  | some (i, b, s') =>
    let c := coreOf s' (coreNo k)
    let w := c.seq.ahead
    if b.mode != .running || w.finished || w.due - horizon != t then .next s
    else
      let ch := issueChoice c (opAt c w.idx) t
      let r : AheadRec × State :=
        if walkShim w then (⟨w.idx, w.due, true, 0, [], ch⟩, s')
        else lookOp (coreNo k) t i b.contract w ch s'
      .next (modCore (coreNo k) (fun c => { c with seq := { c.seq with
        recs := c.seq.recs ++ [r.1], ahead := walkNext c ch w } }) r.2)

end Sys2Proof.Machine
end

