-- ==== Sys2Proof/Machine/Resets.lean ====
section
/-! DEFINITION. The resets of cores, dies, partitions and the panel (R479 to R484). -/

namespace Sys2Proof.Machine

/-! ## The payload (Table 16-9) and the checks of R479 -/

def rsScope (pay : List Byte) : Nat := leAt pay 0 1
def rsX (pay : List Byte) : Nat := leAt pay 2 1
def rsY (pay : List Byte) : Nat := leAt pay 3 1

/-- The core that a RESET of core scope names. -/
def rsCore (pay : List Byte) : Nat := coreAt (rsX pay) (rsY pay)

/-- The site that a RESET of core or die scope concerns. -/
def rsSite (pay : List Byte) : Nat := if rsScope pay = 0 then siteOfCore (rsCore pay) else 16 * rsY pay + rsX pay

/-- A field is out of its range, or PART is not one that the scope takes. -/
def rsBad (c : Cmd) (pay : List Byte) (s : State) : Bool :=
  let x := rsX pay
  let y := rsY pay
  !zeroAt pay 1 1 || !zeroAt pay 4 4
    || (match rsScope pay with
      | 0 => decide (127 < x) || decide (79 < y)
      | 1 => decide (15 < x) || decide (13 < y) || !isDieSite (16 * y + x)
      | 2 => x != 0 || y != 0 || !partExists s (cmdPart c)
      | 3 => x != 0 || y != 0 || cmdPart c != 0xFF
      | 4 => x != 0 || y != 0 || cmdPart c != 0xFF
      | _ => true)

/-- A RESET is in progress (R479). -/
def resetRuns (s : State) : Bool := s.fw.reset.isSome || s.pwr.sites.any (fun p => p.2.resetBy.isSome)

/-- The bays whose core sets touch a die, less the stopped ones. -/
def dieBusy (s : State) (i : Nat) : Bool :=
  (baysOnSite s i).any (fun n => match bayOf s n with | some b => b.mode != .stopped | none => false)

/-- The core lies in a bay that is not stopped. -/
def coreBusy (s : State) (k : Nat) : Bool :=
  match bayOfCore s k with
  | some (_, b) => b.mode != .stopped
  | none => false

/-- The refusals of Table 16-10 for core and die scope. -/
def rsRefused (pay : List Byte) (s : State) : List (Bool × Nat) :=
  let i := rsSite pay
  if 2 ≤ rsScope pay then []
  else [(siteAbsent s i, stUnitAbsent), (!sitePowered s i || siteInReset s i, stNotReady),
    (rsScope pay == 1 && (entryAt s i).state == .failed, stDenied),
    (if rsScope pay = 0 then coreBusy s (rsCore pay) else dieBusy s i, stBusy)]

/-! ## Core and die scope (R480) -/

/-- RESET_DONE of core scope, and the completion. -/
def resetCoreDone (c : Cmd) (k : Nat) (s : State) : State :=
  let e : EventRec := { evSite 0x0707 0 (siteOfCore k) 0 0 with part := cmdPart c, cx := coreX k, cy := coreY k }
  complete c stOk 0 (raise1 e s)

/-- A core is reset: retested, cleared, and its microcode loaded again. -/
def resetOneCore (c : Cmd) (k : Nat) (s : State) : State :=
  resetCoreDone c k (loadMicro k (modCore k coreCleared (retestCore k s)))

/-- A processor whose site is reset starts over; a hold is released, and no restart is counted (R484). -/
def resetProc (n : Nat) (s : State) : State :=
  let was := procHeld s n
  let s := modProc n (fun p => { p with run := .starting, cause := 5, version := 0, since := s.now }) s
  if was then raise1 (evPlain 0x0702 n 1 0) s else s

/-- Step 1 of R480: the die enters reset, and what its reset clears is cleared. -/
def dieEntersReset (c : Option Cmd) (i : Nat) (s : State) : State :=
  let s := modPwr i (fun p => { p with inReset := true, resetBy := c }) s
  let s := dieContentsReset i s
  let s := match procOfSite i with | some n => resetProc n s | none => s
  recordDark [i] s

/-! ## Partition scope (R481) -/

/-- The bays of a partition. -/
def partBays (s : State) (part : Nat) : List (Nat × Bay) := s.bays.filter (fun p => p.2.part == part)

/-- The sites of a partition with a role. -/
def partSites (s : State) (part role : Nat) : List Nat :=
  dieSites.filter (fun i => ownerOf s i == part && placeRole i == role)

/-- Step 1 of R481: the partition's inputs stop. -/
def stopPartInputs (c : Cmd) (s : State) : State :=
  let part := cmdPart c
  let s := { s with fw := { s.fw with reset := some ⟨2, c, s.now, false, 0⟩ } }
  stopPurlins part ((partBays s part).foldl (fun s p => autoStop p.1 s) s)

/-- Step 2 of R481 is done: every bay is at rest, no embedding request is left, no forwarded WRITE awaits its ACK. -/
def partDrained (s : State) (part : Nat) : Bool :=
  (partBays s part).all (fun p => p.2.mode == .stopped || p.2.mode == .loaded)
    && (partSites s part 2).all (fun i =>
      let e := engineOf s (stackOfSite i)
      e.queue.isEmpty && e.runs.isEmpty && e.results.isEmpty)
    && (partSites s part 3).all (fun i =>
      (List.range 4).all (fun n => (linkOf s (4 * linkDieOfSite i + n)).awaits.isEmpty))

/-- Every forwarded WRITE of a link that still waits is answered TARGET_LOST. -/
def loseAwaits (l : Nat) (s : State) : State :=
  (linkOf s l).awaits.foldl (fun s a => answerAwait l a.tag 7 s) s

/-- Step 3 of R481 for a bay: one that still drains is stopped where it stands, and what it was to do is abandoned. -/
def cutBay (i : Nat) (s : State) : State :=
  match bayOf s i with
  | none => s
  | some b => if b.mode = .stopped ∨ b.mode = .loaded then s else endStop i (abandonAccess b (closeXings b (dropChange i stBusy s)))

/-- Step 4 of R481 for a bay. -/
def dropBay (i : Nat) (s : State) : State :=
  match bayOf s i with
  | none => s
  | some b => removeBay i b s

/-- The contribution counters of a partition's cores disappear (R414). -/
def dropCounters (part : Nat) (s : State) : State :=
  { s with links := { s.links with
    counters := s.links.counters.filter (fun c => ownerOf s (siteOfCore (c.1 % 2 ^ 20 / 64)) != part) } }

/-- The cores and the die buffer of a site of the partition are reset. -/
def resetPartDie (i : Nat) (s : State) : State := loadCores i (clearCompute i s)

/-- Steps 3 and 4 of R481. -/
def discardPart (part : Nat) (s : State) : State :=
  let bays := (partBays s part).map (fun p => p.1)
  let s := bays.foldl (fun s i => cutBay i s) s
  let s := (partSites s part 3).foldl (fun s i =>
    (List.range 4).foldl (fun s n => loseAwaits (4 * linkDieOfSite i + n) s) s) s
  let s := (partSites s part 2).foldl (fun s i => loseEngine (stackOfSite i) s) s
  let s := bays.foldl (fun s i => dropBay i s) s
  let s := dropCounters part (closeBatches part s)
  let s := (partSites s part 1).foldl (fun s i => resetPartDie i s) s
  endRemoval (disarm (fun j => j.part == part) s)

/-- PARTITION_RESET_DISCARD: 10 ms have passed, or the drain is done. -/
def execPartitionResetDiscard (part : Fin 8) (time : Nat) (s : State) : Out :=
  let t := atTime time s
  match s.fw.reset with
  | none => .next s
  | some r =>
    let done := partDrained s part.val
    if r.scope ≠ 2 ∨ cmdPart r.cmd ≠ part.val ∨ (!done && decide (t.now < r.since + 10000000)) then .next s
    else
      let n := (partBays s part.val).length
      let t := discardPart part.val t
      .next (resetDone r.cmd 2 part.val 0 (n + 65536 * b2n (!done)) { t with fw := { t.fw with reset := none } })

/-! ## Panel scope (R482, R483) -/

/-- A site's entry while the panel is brought up again: management dies keep theirs. -/
def entryUnbuilt (e : SiteEntry) (i : Nat) : SiteEntry := if e.role = 5 then e else siteUnbuilt i

/-- Every command in progress but one ends with NOT_READY. -/
def endCommands (c : Cmd) (s : State) : State :=
  (s.inProgress.filter (fun t => t.cmd != c)).foldl (fun s t => complete t.cmd stNotReady 0 s) s

/-- What a panel warm reset clears, once its dies have lost theirs. -/
def panelCleared (s : State) : State :=
  { s with
    parts := copies 8 partitionZero
    bays := [], cores := [], xings := [], engines := [], mem := []
    install := false, installs := []
    links := { linksZero with panelId := s.links.panelId, sent := s.links.sent }
    fab := { fabricZero with routes := s.fab.routes, window := s.fab.window, windows := s.fab.windows }
    fp := { s.fp with built := false, retests := [], entries := s.fp.entries.zipIdx.map (fun p => entryUnbuilt p.1 p.2) }
    host := { s.host with cxlMem := false, tokens := [] } }

/-- A site enters the reset of a panel warm reset. -/
def siteWarm (i : Nat) (s : State) : State :=
  let s := modPwr i (fun p => { p with inReset := true, resetBy := none, acting := none }) (dieContentsOff i s)
  match procOfSite i with | some n => resetProc n s | none => s

/-- The counted restarts of every processor but those of the management dies are cleared (R483). -/
def clearCounts (s : State) : State :=
  (s.fw.procs.filter (fun p => decide (4 ≤ p.1))).foldl (fun s p => modProc p.1 (fun q => { q with counted := [] }) s) s

/-- RESET of panel warm scope: everything but the management dies starts over, from step 3 of Table 16-8. The deadlines of the
steps count as though power good had come 20 s ago, when step 2 must have ended. -/
def panelWarm (c : Cmd) (s : State) : State :=
  let s := endCommands c (endInstalls (saveWear s))
  let s := clearCounts ((dieSites.filter (sitePowered s)).foldl (fun s i => siteWarm i s) s)
  let s := panelCleared (disarm (fun _ => true) s)
  let s := { s with pwr := { s.pwr with quads := s.pwr.quads.map (fun (q : QuadPwr) => { q with waiting := [] }) } }
  setStep 3 { s with fw := { s.fw with
    reset := some ⟨3, c, s.now, false, 0⟩, waiting := [], stage := none, booting := true, stepBase := (s.now : Int) - 20000000000 } }

/-- RESET of panel cold scope: it completes, a reset in progress ends, and power good is to come again. -/
def panelCold (c : Cmd) (s : State) : State :=
  let s := saveWear s
  let s := { s with
    fw := { s.fw with reset := none, cold := true }
    pwr := { s.pwr with sites := s.pwr.sites.map (fun p => (p.1, { p.2 with resetBy := none })) } }
  resetDone c 4 0xFF 0 0 s

/-! ## RESET -/

/-- RESET's effect, once its checks have passed. -/
def applyReset (c : Cmd) (pay : List Byte) (s : State) : State :=
  match rsScope pay with
  | 0 => resetOneCore c (rsCore pay) s
  | 1 => dieEntersReset (some c) (rsSite pay) s
  | 2 => stopPartInputs c s
  | 3 => panelWarm c s
  | _ => panelCold c s

/-- The checks of RESET (R479). -/
def resetChecks (c : Cmd) (pay : List Byte) (s : State) : List (Bool × Nat) :=
  let scope := rsScope pay
  let cold := scope == 4
  [(decide (pay.length ≠ 8), stBadLength), (isMgmt c && decide (scope < 3), stDenied), (rsBad c pay s, stBadField),
    (s.fw.kingLost && !cold, stNotReady),
    (decide (scope < 2) && ownerOf s (rsSite pay) != cmdPart c, stDenied), (s.host.parked && !cold, stNotReady),
    (!cold && (resetRuns s || s.fw.apply == .running), stBusy)] ++ rsRefused pay s

/-- RESET (R479). -/
def doReset (c : Cmd) (pay : List Byte) (s : State) : State := checked c (resetChecks c pay s) (applyReset c pay) s

/-- RESET of panel cold scope as the host port's hardware executes it (R463). -/
def doColdReset (c : Cmd) (pay : List Byte) (s : State) : State := checked c (resetChecks c pay s) (panelCold c) s

/-- RESET of core scope. -/
def execResetCore (c : Cmd) (s : State) : Out := runRow c 0x0704 doReset s
/-- RESET of die scope. -/
def execResetDie (c : Cmd) (s : State) : Out := runRow c 0x0704 doReset s
/-- RESET of partition scope. -/
def execResetPartition (c : Cmd) (s : State) : Out := runRow c 0x0704 doReset s
/-- RESET of panel warm scope. -/
def execResetPanelWarm (c : Cmd) (s : State) : Out := runRow c 0x0704 doReset s
/-- RESET of panel cold scope. -/
def execResetPanelCold (c : Cmd) (s : State) : Out := runRow c 0x0704 doReset s

end Sys2Proof.Machine
end

