-- ==== Sys2Proof/Machine/Security.lean ====
section
/-! DEFINITION. The management segments, their receive filter and sender table, the keys, and attestation (R559 to R582). -/

namespace Sys2Proof.Machine

/-! ## Segments (R560 to R565) -/

/-- The number of a segment. -/
def segNo : Segm → Nat
  | .a => 0 | .b => 1

/-- A segment. -/
def segOf (s : State) (g : Segm) : SegState := s.mgmt.segs.getD (segNo g) segZero
/-- The state with a segment changed. -/
def modSeg (g : Segm) (f : SegState → SegState) (s : State) : State :=
  { s with mgmt := { s.mgmt with segs := modAt s.mgmt.segs (segNo g) f } }

/-- The PLCA node ID, 0xFF for none (R560). -/
def plcaNode (s : State) : Nat := if s.mgmt.slotId < 31 then s.mgmt.slotId + 1 else 0xFF

/-- The code of a mode in MGMT_SEGMENT. -/
def segModeCode : SegMode → Nat
  | .plca => 0 | .csma => 1 | .down => 2

/-- MGMT_SEGMENT (R561, R562). -/
def execMgmtSegment (seg : Segm) (mode : SegMode) (time : Nat) (s : State) : Out :=
  if (segOf s seg).mode = mode ∨ (mode = .plca ∧ s.mgmt.slotId = 31) ∨ !s.pwr.good then .next s
  else .next (raise1 (evPlain 0x0B01 (segNo seg) (segModeCode mode) (plcaNode s))
    (modSeg seg (fun g => { g with mode := mode }) (atTime time s)))

/-- How far a counter is past what was last reported, saturating. -/
def dropDiff (new old : Nat) : Nat := min 0xFFFF (new - old)

/-- MGMT_DROPS: the 60 s of a segment have ended (R565). -/
def execMgmtDrops (seg : Segm) (time : Nat) (s : State) : Out :=
  let t := atTime time s
  let g := segOf s seg
  if t.now < g.since + 60000000000 then .next s
  else
    let t := modSeg seg (fun g => { g with
      since := g.since + 60000000000 * ((t.now - g.since) / 60000000000), reported := g.drops }) t
    let a := g.drops
    let b := g.reported
    if a = b then .next t
    else .next (raise1 (evPlain 0x0B02 (segNo seg) (dropDiff a.dup b.dup)
      (dropDiff a.fcsBad b.fcsBad + 2 ^ 16 * dropDiff a.foreign b.foreign + 2 ^ 32 * dropDiff a.unauth b.unauth
        + 2 ^ 48 * dropDiff a.replay b.replay)) t)

/-- ALERT_REPEAT: alerts whose 100 ms have passed are sent again (R564). -/
def execAlertRepeat (time : Nat) (s : State) : Out :=
  let t := atTime time s
  let isDue (x : AlertRun) : Bool := decide (x.due ≤ t.now)
  let s' := (t.mgmt.alerts.filter isDue).foldl (fun s x => sendBytes x.bytes s) t
  let left := t.mgmt.alerts.map (fun x => if isDue x then { x with left := x.left - 1, due := x.due + 100000000 } else x)
  .next { s' with mgmt := { s'.mgmt with alerts := left.filter (fun x => decide (0 < x.left)) } }

/-! ## The panel's addresses (R562) -/

/-- The serial number that the panel's frames carry. -/
def panelSerial (s : State) : Nat := (kingFuse s).panelSerial.toNat

/-- The link-local address of a segment: fe80::/64 and the modified EUI-64 of its MAC address. -/
def panelAddr (s : State) (g : Segm) : BitVec 128 :=
  let low := panelSerial s % 2 ^ 40
  let first := match g with | .a => 0x00 | .b => 0x04
  BitVec.ofNat 128 (0xFE80 * 2 ^ 112 + first * 2 ^ 56 + (low / 2 ^ 24) * 2 ^ 40 + 0xFFFE * 2 ^ 24 + low % 2 ^ 24)

/-- The bytes of an address, most significant first. -/
def addrBytes (a : BitVec 128) : List Byte := (natLe 16 a.toNat).reverse

/-! ## The receive filter (Table 20-1) -/

/-- What the filter makes of a frame. -/
inductive Received where
  /-- It fails step 1, step 3 to 5, or step 6. -/
  | fcsBad | foreign | unauth
  /-- It fails step 2, or is a frame on which the panel has nothing to do. -/
  | ignored
  | solicitation (target : BitVec 128)
  | discover
  /-- A signed COMMAND: its datagram. -/
  | command (d : List Byte)
  deriving DecidableEq, Repr

def jmType (d : List Byte) : Nat := leAt d 5 1
def jmSender (d : List Byte) : Nat := leAt d 8 8
def jmSeq (d : List Byte) : Nat := leAt d 0x10 8
def jmTarget (d : List Byte) : Nat := leAt d 0x18 8
def jmLen (d : List Byte) : Nat := leAt d 0x28 2

/-- The body length that a frame's type asks for (Table 20-3). -/
def jmLenOk (d : List Byte) : Bool :=
  if jmType d = 1 then jmLen d == 0
  else if jmType d = 3 then
    (match opInfo (leAt d 48 2) with
      | none => decide (64 ≤ jmLen d)
      | some i => jmLen d == 64 + (if i.form = .payload then leAt d 0x40 4 else 0))
  else true

/-- Step 4: the header of Table 20-2, and the length of the datagram. -/
def jmHeaderOk (d : List Byte) : Bool :=
  decide (48 ≤ d.length) && leAt d 0 4 == 0x4D4A5A4C && decide (1 ≤ jmType d) && decide (jmType d ≤ 5) && zeroAt d 6 2
    && zeroAt d 0x2A 6 && (jmType d == 4 || zeroAt d 0x20 8)
    && d.length == 48 + jmLen d + (if jmType d = 1 then 0 else 114) && jmLenOk d

/-- The context of a COMMAND's signature: LZ-JXM-C. -/
def ctxCommand : List Byte := [0x4C, 0x5A, 0x2D, 0x4A, 0x58, 0x4D, 0x2D, 0x43]

/-- Step 6: the signature, under the management key. -/
def jmSigned (s : State) (d : List Byte) : Bool :=
  !s.boot.keys.mgmt.isEmpty
    && Config.ed448Verify ctxCommand s.boot.keys.mgmt (bytesAt d 0 (48 + jmLen d)) (bytesAt d (48 + jmLen d) 114)

/-- Steps 4 to 6 for a datagram to port 5812. -/
def filterDatagram (s : State) (d : List Byte) : Received :=
  if !jmHeaderOk d then .foreign
  else if jmType d = 1 then (if jmTarget d = 0 then .discover else .foreign)
  else if jmType d = 3 then
    (if jmTarget d ≠ panelSerial s then .foreign else if jmSigned s d then .command d else .unauth)
  else .ignored

/-- Steps 1 to 6. -/
def filterFrame (s : State) (f : Frame) : Received :=
  if !f.fcsOk then .fcsBad
  else if f.dst = .other then .ignored
  else if !f.linkLocal then .foreign
  else
    match f.body with
    | .solicitation target => .solicitation target
    | .udp port hop d => if port = 5812 ∧ hop = 255 then filterDatagram s d else .foreign
    | .other => .foreign

/-- A frame that fails a step is dropped and counted. -/
def countDropped (g : Segm) (r : Received) (s : State) : State :=
  modSeg g (fun x => { x with drops := (match r with
    | .fcsBad => { x.drops with fcsBad := x.drops.fcsBad + 1 }
    | .foreign => { x.drops with foreign := x.drops.foreign + 1 }
    | .unauth => { x.drops with unauth := x.drops.unauth + 1 }
    | _ => x.drops) }) s

/-- The management firmware that serves the segments runs (R559, R463, R475, R476). -/
def segmentsServed (s : State) : Bool :=
  s.pwr.good && !s.fw.noKing && (if s.fw.kingLost then procRuns s (1 - kingPc s) else firmwareRuns s)

/-- A frame is received on a segment that is up; what passes the filter and is of the row's kind acts. -/
def receiveFrame (g : Segm) (f : Frame) (time : Nat) (act : Received → Option (State → State)) (s : State) : Out :=
  if (segOf s g).mode = .down ∨ !segmentsServed s then .next s
  else
    let r := filterFrame s f
    match r with
    | .fcsBad => .next (countDropped g r (atTime time s))
    | .foreign => .next (countDropped g r (atTime time s))
    | .unauth => .next (countDropped g r (atTime time s))
    | _ =>
      match act r with
      | some h => .next (h (atTime time s))
      | none => .next s

/-! ## NEIGHBOR_SOLICITATION (R563) -/

/-- NEIGHBOR_SOLICITATION: one for the panel's own address is answered on its segment. -/
def execNeighborSolicitation (seg : Segm) (f : Frame) (time : Nat) (s : State) : Out :=
  receiveFrame seg f time (fun r => match r with
    | .solicitation target =>
      if target = panelAddr s seg then
        some (fun s => { s with mgmt := { s.mgmt with sent := s.mgmt.sent ++ [⟨seg, addrBytes target⟩] } })
      else none
    | _ => none) s

/-! ## DISCOVER (R569) -/

/-- The management die that answers: 0 for (15,4), 1 for (15,9). -/
def answeringDie (s : State) : Nat := b2n (mgmtAlt s)

/-- The 96 bytes of a discover answer (Table 20-4). -/
def discoverBody (s : State) : List Byte :=
  let i := if mgmtAlt s then 159 else 79
  natLe 8 (panelSerial s) ++ natLe 8 (fuseOf s i).dieSerial.toNat ++ natLe 1 s.mgmt.slotId ++ natLe 1 (plcaNode s)
    ++ natLe 1 s.host.bringup
    ++ natLe 1 (b2n s.fp.kingAlt + 2 * b2n s.fw.kingLost + 4 * b2n (!s.boot.keys.mgmt.isEmpty) + 8 * b2n s.host.parked)
    ++ natLe 2 s.links.panelId ++ natLe 1 2 ++ natLe 1 0
    ++ shakeDigest (padTo 57 (Config.identityKey (answeringDie s))) ++ copies 8 0

/-- The times within the last second. -/
def lastSecond (now : Nat) (l : List Nat) : List Nat := l.filter (fun t => decide (now < t + 1000000000))

/-- A DISCOVER is answered, four times a second at most. -/
def answerDiscover (g : Segm) (s : State) : State :=
  let ts := lastSecond s.now (segOf s g).answers
  if 4 ≤ ts.length then s
  else sendFrame 2 0 0 (discoverBody s) (modSeg g (fun x => { x with answers := ts ++ [s.now] }) s)

/-- DISCOVER. -/
def execDiscover (seg : Segm) (f : Frame) (time : Nat) (s : State) : Out :=
  receiveFrame seg f time (fun r => if r = .discover then some (answerDiscover seg) else none) s

/-! ## The sequence check of a COMMAND (R567) -/

/-- A sender's entry. -/
def senderOf (s : State) (id : Nat) : Option Sender := s.mgmt.senders.find? (fun x => x.id == id)

/-- The state with a sender's entry changed. -/
def modSender (id : Nat) (f : Sender → Sender) (s : State) : State :=
  { s with mgmt := { s.mgmt with senders := s.mgmt.senders.map (fun x => if x.id == id then f x else x) } }

/-- A sender for which the table has no room. -/
def senderRefused (g : Segm) (id : Nat) (s : State) : State :=
  let s := countDropped g .unauth s
  if s.mgmt.turnedAway.contains id then s
  else raise1 (evPlain 0x0B03 0 0 id) { s with mgmt := { s.mgmt with turnedAway := s.mgmt.turnedAway ++ [id] } }

/-- A sender's first command gives it an entry. -/
def senderAdmitted (id : Nat) (s : State) : State :=
  if (senderOf s id).isSome then s
  else { s with
    mgmt := { s.mgmt with senders := s.mgmt.senders ++ [⟨id, 0, [], 0, []⟩] }
    boot := { s.boot with hwm := mapPut s.boot.hwm id 0 } }

/-- A replay: counted, and answered with DENIED four times a second at most. -/
def senderReplay (g : Segm) (id : Nat) (d : List Byte) (s : State) : State :=
  let s := modSeg g (fun x => { x with drops := { x.drops with replay := x.drops.replay + 1 } }) s
  match senderOf s id with
  | none => s
  | some x =>
    let ts := lastSecond s.now x.denied
    if 4 ≤ ts.length then s
    else sendResponse (cplBytes (leAt d 52 4) stDenied 0 false (x.last + 1)) []
      (modSender id (fun x => { x with denied := ts ++ [s.now] }) s)

/-- The sequence check: whether the command is to be executed. -/
def judgeSender (g : Segm) (d : List Byte) (s : State) : Bool × State :=
  let id := jmSender d
  let q := jmSeq d
  if (senderOf s id).isNone && decide (16 ≤ s.mgmt.senders.length) then (false, senderRefused g id s)
  else
    let s := senderAdmitted id s
    match senderOf s id with
    | none => (false, s)
    | some x =>
      if q = x.last ∧ x.frame = d ∧ s.now ≤ x.time + 1000000000 then
        (false, modSeg g (fun y => { y with drops := { y.drops with dup := y.drops.dup + 1 } }) s)
      else if q ≤ x.last then (false, senderReplay g id d s)
      else
        let s := if q ≤ mapGetD s.boot.hwm id 0 then s
          else { s with boot := { s.boot with hwm := mapPut s.boot.hwm id (min (2 ^ 64 - 1) (q + 2 ^ 20)) } }
        (true, modSender id (fun x => { x with last := q, frame := d, time := s.now }) s)

/-! ## MGMT_KEY_SET (R575) -/

def mkKind (pay : List Byte) : Nat := leAt pay 0 1
def mkSlot (pay : List Byte) : Nat := leAt pay 1 1
def mkClear (pay : List Byte) : Bool := bitAt (leAt pay 2 1) 0
def mkKey (pay : List Byte) : List Byte := bytesAt pay 8 57

/-- A weight image is being written, by WSTORE_WRITE or by a purlin (R575). -/
def imageArrives (s : State) : Bool :=
  !s.installs.isEmpty || s.parts.any (fun p => p.purlins.any (fun u => u.target == 1 && u.run.isSome))

/-- The key is written and measured; a new management key clears the sender table (R568). -/
def setKey (c : Cmd) (pay : List Byte) (s : State) : State :=
  let key := if mkClear pay then [] else mkKey pay
  let dig := if mkClear pay then [] else shakeDigest key
  let k := s.boot.keys
  let s :=
    if mkKind pay = 1 then
      let differs := key != k.mgmt
      measure 3 (natLe 1 (b2n (mkClear pay))) dig { s with
        boot := { s.boot with keys := { k with mgmt := key }, hwm := if differs then [] else s.boot.hwm }
        mgmt := { s.mgmt with senders := if differs then [] else s.mgmt.senders } }
    else
      measure 4 (natLe 1 (mkSlot pay) ++ natLe 1 (b2n (mkClear pay))) dig { s with
        boot := { s.boot with keys := { k with weights := k.weights.set (mkSlot pay) key } } }
  complete c stOk 0 (raise1 (evPlain 0x0B00 (mkKind pay) (mkSlot pay) (leAt dig 0 8)) s)

/-- MGMT_KEY_SET. -/
def doMgmtKeySet (c : Cmd) (pay : List Byte) (s : State) : State :=
  let zero := allZero (mkKey pay)
  checked c [(decide (pay.length ≠ 72), stBadLength),
      ((mkKind pay != 1 && mkKind pay != 2) || decide ((if mkKind pay = 1 then 0 else 3) < mkSlot pay)
        || decide (1 < leAt pay 2 1) || !zeroAt pay 3 5 || !zeroAt pay 0x41 7 || zero != mkClear pay
        || (!zero && !Config.ed448Point (mkKey pay)) || cmdPart c != 0xFF, stBadField),
      (mkKind pay == 2 && imageArrives s, stBusy)] (setKey c pay) s

/-- MGMT_KEY_SET of the management key. -/
def execMgmtKeySetManagement (c : Cmd) (s : State) : Out := runRow c 0x0B00 doMgmtKeySet s
/-- MGMT_KEY_SET of a weight key. -/
def execMgmtKeySetWeight (c : Cmd) (s : State) : Out := runRow c 0x0B00 doMgmtKeySet s

/-! ## Attestation (R579 to R582) -/

/-- The context of a certificate: LZ-CERT. -/
def ctxCert : List Byte := [0x4C, 0x5A, 0x2D, 0x43, 0x45, 0x52, 0x54]
/-- The context of a quote: LZ-QUOTE. -/
def ctxQuote : List Byte := [0x4C, 0x5A, 0x2D, 0x51, 0x55, 0x4F, 0x54, 0x45]

/-- The identity certificate of a management die (0 or 1) by a vendor root (Table 20-10); the roots' keys are numbers 2 and
3 (log entry 13). -/
def certBytes (s : State) (d root : Nat) : List Byte :=
  let i := if d = 0 then 79 else 159
  let m := natLe 4 0x43455A4C ++ natLe 2 1 ++ natLe 1 root ++ copies 1 0 ++ natLe 8 (panelSerial s)
    ++ natLe 8 (fuseOf s i).dieSerial.toNat ++ natLe 1 15 ++ natLe 1 (if d = 0 then 4 else 9) ++ copies 6 0
    ++ padTo 57 (Config.identityKey d) ++ copies 7 0 ++ natLe 4 (kingFuse s).assyLot.toNat ++ copies 12 0
  m ++ padTo 114 (Config.ed448Sign (2 + root) ctxCert m) ++ copies 30 0

/-- CERT_GET (R580). -/
def doCertGet (c : Cmd) (_pay : List Byte) (s : State) : State :=
  checked c [(decide (cmdLen c < 1024), stBadLength)]
    (fun s => completeWithOwnBuf c (certBytes s 0 0 ++ certBytes s 0 1 ++ certBytes s 1 0 ++ certBytes s 1 1) 0 s) s

/-- CERT_GET. -/
def execCertGet (c : Cmd) (s : State) : Out := runRow c 0x0B02 doCertGet s

/-- LOG of an ATTEST_QUOTE. -/
def aqLog (pay : List Byte) : Bool := bitAt (leAt pay 0x40 1) 0

/-- The 320 bytes of a quote (Table 20-14). -/
def quoteBytes (s : State) (pay : List Byte) : List Byte :=
  let l := s.measure
  let m := natLe 2 1
    ++ natLe 1 (b2n s.fp.kingAlt + 2 * b2n (aqLog pay) + 4 * b2n (decide (l.entries.length < l.count)))
    ++ natLe 1 s.boot.secFuses.revoked ++ natLe 4 l.count ++ natLe 8 (panelSerial s) ++ natLe 8 (kingFuse s).dieSerial.toNat
    ++ natLe 4 s.boot.bootCount ++ natLe 4 s.boot.generation.toNat ++ natLe 8 (tickOf s)
    ++ natLe 8 (activeVersion s) ++ bytesAt pay 0 64 ++ padTo 64 l.m ++ copies 16 0
  m ++ padTo 114 (Config.ed448Sign (b2n s.fp.kingAlt) ctxQuote m) ++ copies 14 0

/-- ATTEST_QUOTE (R582). -/
def doAttestQuote (c : Cmd) (pay : List Byte) (s : State) : State :=
  let need := 320 + (if aqLog pay then 96 * s.measure.count else 0)
  let st := bufStatus c (leAt pay 0x48 8) (leAt pay 0x44 4) need
  checked c [(decide (pay.length ≠ 80), stBadLength), (decide (1 < leAt pay 0x40 1) || !zeroAt pay 0x41 3, stBadField),
      (st != stOk, st)]
    (fun s => completeWithBuf c (leAt pay 0x48 8)
      (quoteBytes s pay ++ (if aqLog pay then s.measure.entries.flatten else [])) 0 s) s

/-- ATTEST_QUOTE. -/
def execAttestQuote (c : Cmd) (s : State) : Out := runRow c 0x0B01 doAttestQuote s

end Sys2Proof.Machine
end

