-- ==== Sys2Proof/Machine/Wear.lean ====
section
/-! DEFINITION. Status polls, the error logs, wear and injection (R542, R546 to R557). -/

namespace Sys2Proof.Machine

/-! ## STATUS_POLL (R87, R542) -/

/-- A core is declared hard-failed: its bay loses it. -/
def loseCore (k : Nat) (s : State) : State :=
  let s := failCore k false s
  match bayOfCore s k with
  | some (i, _) => modBay i (faultNow 5 k) s
  | none => s

/-- Whether the supervisor of a core's die polls it. -/
def polled (s : State) (k : Nat) : Bool :=
  let i := siteOfCore k
  sitePowered s i && !siteInReset s i && procRuns s ((procOfSite i).getD 0) && bitAt (entryAt s i).coreGood.toNat (coreBit k)

/-- The state with the polls counted that a core has not answered in a row. -/
def setMissed (n m : Nat) (s : State) : State := { s with err := { s.err with missed := mapSet 0 s.err.missed n m } }

/-- STATUS_POLL: an answer is added to the totals; the second one missing in a row fails the core. -/
def execStatusPoll (k : CoreId) (answered : Bool) (time : Nat) (s : State) : Out :=
  let n := coreNo k
  if !polled s n then .next s
  else
    let s := atTime time s
    if answered then .next (setMissed n 0 (modCore n supervisorRead s))
    else if mapGetD s.err.missed n 0 = 0 then .next (setMissed n 1 s)
    else .next (loseCore n (setMissed n 0 s))

/-! ## ERROR_LOG_GET (R548) -/

/-- The records of a log with their numbers, oldest first. -/
def logNumbered (l : ErrLog) : List (Nat × LogRec) :=
  l.recs.reverse.zipIdx.map (fun p => (l.next - l.recs.length + p.2, p.1))

/-- ERROR_LOG_GET. -/
def doErrorLogGet (c : Cmd) (pay : List Byte) (s : State) : State :=
  let src := leAt pay 0 1
  let n := leAt pay 4 4
  let st := bufStatus c (leAt pay 0x18 8) (leAt pay 0x10 4) (16 + 64 * n)
  checked c [(decide (pay.length ≠ 32), stBadLength),
      (cmdPart c != 0xFF || decide (1 < src) || !zeroAt pay 1 3 || !zeroAt pay 0x14 4 || n == 0
        || decide ((if src = 0 then 262144 else 4096) < n), stBadField), (st != stOk, st)]
    (fun s =>
      let l := if src = 0 then s.err.log else s.boot.plog
      let out := ((logNumbered l).filter (fun p => decide (leAt pay 8 8 ≤ p.1))).take n
      let f := takeFree s
      let s := if l.recs.isEmpty then f.2 else s
      let oldest := if l.recs.isEmpty then f.1 else l.next - l.recs.length
      completeWithBuf c (leAt pay 0x18 8)
        (natLe 4 out.length ++ natLe 8 oldest ++ copies 4 0 ++ out.flatMap (fun p => logBytes p.1 p.2)) 0 s) s

/-- ERROR_LOG_GET. -/
def execErrorLogGet (c : Cmd) (s : State) : Out := runRow c 0x0A00 doErrorLogGet s

/-! ## Wear (R549 to R553) -/

/-- 2^(−1/168) as a number of 1/2^64, rounded down. -/
def decayFactor : Nat := 18370791886079017691

/-- A score after an hour: its product with 2^(−1/168), rounded to the nearest unit (R551). -/
def decayed (v : Nat) : Nat :=
  let e := v * decayFactor / 2 ^ 64
  if 2 * (2 * e + 1) ^ 168 ≤ (2 * v) ^ 168 then e + 1 else e

/-- The hourly step of one part. -/
def decayPart (n : Nat) (s : State) : State :=
  let p := wearOf s n
  let v := decayed p.score
  wearChange n p.state (putWear n { p with score := v, state := wearNext p.state v } s)

/-- WEAR_DECAY: another hour of powered time has passed. -/
def execWearDecay (time : Nat) (s : State) : Out :=
  let t := atTime time s
  if t.now < 3600000000000 * (s.err.steps + 1) ∨ !s.pwr.good then .next s
  else
    let t := (t.err.wear.map (fun p => p.1)).foldl (fun s n => decayPart n s) t
    let t := { t with err := { t.err with steps := t.err.steps + 1 } }
    .next (saveWear { t with boot := { t.boot with hours := t.boot.hours + 1 } })

/-- The site of a part, none for the cold plate. -/
def wearSite (n : Nat) : Option Nat := if n < 224 then some n else if n < 272 then some (linkSite (n - 224)) else none

/-- The 64 bytes of a part record (Table 19-6). -/
def wearBytes (s : State) (n : Nat) : List Byte :=
  let p := wearOf s n
  let i := wearSite n
  natLe 1 (if n < 224 then 0 else if n < 272 then 1 else 2)
    ++ natLe 1 (match i with | some i => siteX i | none => 0xFF) ++ natLe 1 (match i with | some i => siteY i | none => 0xFF)
    ++ natLe 1 (if 224 ≤ n ∧ n < 272 then n - 224 else 0xFF)
    ++ natLe 1 (match i with | some i => if siteAbsent s i then 3 else p.state | none => p.state) ++ copies 3 0
    ++ natLe 4 p.score ++ natLe 4 p.peak ++ p.counts.flatMap (natLe 4) ++ natLe 8 p.lastTick ++ natLe 8 p.life ++ copies 8 0

/-- The 64 bytes of the header. -/
def wearHeader (s : State) : List Byte :=
  let count (v : Nat) : Nat := (s.err.wear.filter (fun p => p.2.state == v)).length
  natLe 2 1 ++ natLe 2 273 ++ natLe 2 (count 1) ++ natLe 2 (count 2) ++ natLe 8 s.boot.hours ++ natLe 8 (tickOf s)
    ++ copies 40 0

/-- WEAR_GET. -/
def doWearGet (c : Cmd) (pay : List Byte) (s : State) : State :=
  checked c (statusChecks c 17536 pay)
    (fun s => completeWithBuf c (leAt pay 8 8) (wearHeader s ++ (List.range 273).flatMap (wearBytes s)) 0 s) s

/-- WEAR_GET. -/
def execWearGet (c : Cmd) (s : State) : Out := runRow c 0x0A01 doWearGet s

/-! ## INJECT (R554 to R557) -/

/-- The injection of a payload (Table 19-7). -/
def injectionOf (c : Cmd) (pay : List Byte) (now : Nat) : Injection where
  point := leAt pay 0 2
  x := leAt pay 4 1
  y := leAt pay 5 1
  sub := leAt pay 6 1
  sub2 := leAt pay 7 1
  addr := leAt pay 8 8
  left := leAt pay 0x10 2
  value := signed 32 (leAt pay 0x14 4)
  fired := 0
  armed := now
  part := cmdPart c

/-- CANCEL. -/
def injCancels (pay : List Byte) : Bool := bitAt (leAt pay 2 1) 0

/-- Whether a point uses VALUE. -/
def injUsesValue (p : Nat) : Bool := p == 21 || p == 22 || p == 23 || p == 25

/-- The injection aims at a hot spot of the coolant. -/
def injAtCoolant (j : Injection) : Bool := j.point == 22 && j.x == 0xFF && j.y == 0xFF

/-- The domain that SUB names. -/
def injDomain (n : Nat) : Domain := if n = 0 then .logic else if n = 1 then .array else if n = 2 then .link else .memif

/-- SUB names a domain of the site. -/
def injDomainOk (i sub : Nat) : Bool := decide (sub < 4) && hasDomain (placeRole i) (injDomain sub)

/-- The target's role, SUB, SUB2 and ADDR are in range for the point (Table 19-8). -/
def injTargetOk (s : State) (j : Injection) : Bool :=
  let i := 16 * j.y + j.x
  let role := placeRole i
  let onSite := decide (j.x < 16) && decide (j.y < 14)
  let core := onSite && role == 1 && decide (j.sub < 64)
  let noAddr := j.addr == 0
  match j.point with
  | 1 => core && j.sub2 == 0 && j.addr % 8 == 0 && decide (j.addr < memSize s (.core (coreOfBit i j.sub)))
  | 2 => core && j.sub2 == 0 && j.addr % 8 == 0 && decide (j.addr < memSize s (.core (coreOfBit i j.sub)))
  | 3 => onSite && role == 1 && j.sub == 0 && j.sub2 == 0 && j.addr % 8 == 0 && decide (j.addr < 0x2000000)
  | 4 => onSite && role == 1 && j.sub == 0 && j.sub2 == 0 && j.addr % 8 == 0 && decide (j.addr < 0x2000000)
  | 5 => core && j.sub2 == 0 && decide (j.addr < 6)
  | 6 => core && decide (j.sub2 < 6) && noAddr
  | 7 => core && decide (j.sub2 < 3) && noAddr
  | 8 => core && decide (j.sub2 < 4) && noAddr
  | 9 => onSite && role != 6 && decide (j.sub < 6) && j.sub2 == 0 && noAddr
  | 10 => onSite && role != 6 && decide (j.sub < 6) && j.sub2 == 0 && noAddr
  | 11 => onSite && role == 2 && j.sub == 0 && j.sub2 == 0 && j.addr % 64 == 0 && decide (j.addr < 2 ^ 36)
  | 12 => onSite && role == 2 && j.sub == 0 && j.sub2 == 0 && j.addr % 64 == 0 && decide (j.addr < 2 ^ 36)
  | 13 => onSite && role == 4 && j.sub == 0 && j.sub2 == 0 && j.addr % 64 == 0 && decide (j.addr < 2 ^ 34)
  | 14 => onSite && role == 4 && j.sub == 0 && j.sub2 == 0 && j.addr % 64 == 0 && decide (j.addr < 2 ^ 34)
  | 15 => onSite && role == 4 && j.sub == 0 && j.sub2 == 0 && decide (j.addr < 262144)
  | 16 => onSite && role == 3 && decide (j.sub < 4) && decide (j.sub2 < 4) && noAddr
  | 17 => onSite && role == 3 && decide (j.sub < 4) && j.sub2 == 0 && noAddr
  | 18 => onSite && role == 3 && decide (j.sub < 4) && decide (j.sub2 < 4) && noAddr
  | 19 => j.x == 0 && j.y == 0 && j.sub == 0 && j.sub2 == 0 && decide (j.addr < 224)
  | 20 => core && j.sub2 == 0 && noAddr
  | 21 => onSite && isDieSite i && injDomainOk i j.sub && decide (j.sub2 < sensorCount i (injDomain j.sub)) && noAddr
  | 22 => decide (j.sub2 < 2) && noAddr
      && (if injAtCoolant j then decide (j.sub < 2) else onSite && decide (j.sub < hotSpots role))
  | 23 => j.x == 0 && j.y == 0 && decide (j.sub < 2) && decide (j.sub2 < 2) && noAddr
  | 24 => onSite && isDieSite i && injDomainOk i j.sub
      && decide (j.sub2 < domainPhases role (domainIndex (injDomain j.sub))) && noAddr
  | 25 => onSite && isDieSite i && injDomainOk i j.sub && j.sub2 == 0 && noAddr
  | 26 => onSite && isDieSite i && j.sub == 0 && j.sub2 == 0 && noAddr
  | 27 => decide (j.x < 4) && j.y == 0 && j.sub == 0 && j.sub2 == 0 && noAddr
  | 28 => j.x == 0 && j.y == 0 && j.sub == 0 && j.sub2 == 0 && noAddr
  | 29 => j.x == 0 && j.y == 0 && j.sub == 0 && j.sub2 == 0 && noAddr
  | 30 => j.x == 0 && j.y == 0 && decide (j.sub < 2) && j.sub2 == 0 && noAddr
  | _ => false

/-- Check 2 of R555. -/
def injBad (s : State) (j : Injection) (pay : List Byte) : Bool :=
  decide (1 < leAt pay 2 1) || !zeroAt pay 3 1 || !zeroAt pay 0x12 2 || !zeroAt pay 0x18 8 || !injTargetOk s j
    || (if injCancels pay then j.left != 0 || j.value != 0
        else j.left == 0 || (j.value == 0) == injUsesValue j.point || (decide (26 ≤ j.point) && j.left != 1))

/-- Whether a point is for installation mode only. -/
def injInstallOnly (j : Injection) : Bool :=
  j.point == 10 || j.point == 23 || decide (27 ≤ j.point) || (j.point == 19 && decide (j.addr < 4)) || injAtCoolant j
    || (j.point == 22 && decide (5 ≤ placeRole (16 * j.y + j.x)))

/-- Check 3 of R555. -/
def injDenied (c : Cmd) (j : Injection) (s : State) : Bool :=
  let part := cmdPart c
  if part = 0xFF then !s.install
  else !(partOf s part).inject || (match injSite j with | some i => ownerOf s i != part | none => true)
    || (injInstallOnly j && !s.install)

/-- Injections at the same target by the same point. -/
def sameTarget (a b : Injection) : Bool :=
  a.point == b.point && a.x == b.x && a.y == b.y && a.sub == b.sub && a.sub2 == b.sub2 && a.addr == b.addr

/-- As many injections are armed as the target may hold (R555). -/
def injFull (j : Injection) (s : State) : Bool :=
  match injSite j with
  | some i => decide (8 ≤ (s.err.armed.filter (fun x => injSite x == some i)).length)
  | none => decide (27 ≤ j.point) && decide (8 ≤ (s.err.armed.filter (fun x => decide (27 ≤ x.point))).length)

/-- INJECT, with and without CANCEL. -/
def doInject (c : Cmd) (pay : List Byte) (s : State) : State :=
  let j := injectionOf c pay s.now
  let site (f : Nat → Bool) : Bool := match injSite j with | some i => f i | none => false
  checked c [(decide (pay.length ≠ 32), stBadLength), (injBad s j pay, stBadField), (injDenied c j s, stDenied),
      (site (siteAbsent s), stUnitAbsent)]
    (fun s =>
      if injCancels pay then
        let gone := (s.err.armed.filter (sameTarget j)).length
        complete c stOk gone { s with err := { s.err with armed := s.err.armed.filter (fun x => !sameTarget j x) } }
      else checked c [(site (fun i => !sitePowered s i), stNotReady), (injFull j s, stNoMemory),
          (s.err.armed.any (sameTarget j), stBusy)]
        (fun s => complete c stOk 0 { s with err := { s.err with armed := s.err.armed ++ [j] } }) s) s

/-- INJECT. -/
def execInject (c : Cmd) (s : State) : Out := runRow c 0x0A02 doInject s
/-- INJECT with CANCEL. -/
def execInjectCancel (c : Cmd) (s : State) : Out := runRow c 0x0A02 doInject s

/-- INJECT_EXPIRY: 600 s after they were armed, injections are disarmed (R556). -/
def execInjectExpiry (time : Nat) (s : State) : Out :=
  let t := atTime time s
  .next (disarm (fun j => decide (j.armed + 600000000000 ≤ t.now)) t)

end Sys2Proof.Machine
end

