-- ==== Sys2Proof/Machine/RunCommand.lean ====
section
/-! DEFINITION. A command by its opcode: those that the mailbox, a queue or a Jexeri-M frame brings, and those that have
waited for a processor (R435, R438, R441, R448, R457, R460, R463, R480, R567, R570). -/

namespace Sys2Proof.Machine

/-- A command's own operation, by its opcode (Table 15-16). -/
def runOpcode (c : Cmd) (pay : List Byte) (s : State) : State :=
  match cmdOp c with
  | 0x0001 => doIdentify c pay s
  | 0x0002 => doVersion c pay s
  | 0x0003 => doQueueCreate c pay s
  | 0x0004 => doQueueDelete c pay s
  | 0x0005 => doEventQueueSet c pay s
  | 0x0006 => doEventAck c pay s
  | 0x0007 => doHostWindowSet c pay s
  | 0x0008 => doBiasSet c pay s
  | 0x0009 => doTokenSend c pay s
  | 0x000A => doPrepareRemoval c pay s
  | 0x0100 => doFloorplanGet c pay s
  | 0x0101 => doSiteFence c pay s
  | 0x0102 => doSiteUnfence c pay s
  | 0x0103 => doSiteRetest c pay s
  | 0x0200 => doBayLoad c pay s
  | 0x0201 => doBayStart c pay s
  | 0x0202 => doBayHold c pay s
  | 0x0203 => doBayRelease c pay s
  | 0x0204 => doBayStop c pay s
  | 0x0205 => doBayReconfigure c pay s
  | 0x0206 => doBaySetPoint c pay s
  | 0x0207 => doBayStatus c pay s
  | 0x0208 => doTimeExchange c pay s
  | 0x0209 => doBayRemove c pay s
  | 0x020A => doLoadReportGet c pay s
  | 0x020B => doHazardGet c pay s
  | 0x0300 => doPartitionCreate c pay s
  | 0x0301 => doPartitionDestroy c pay s
  | 0x0302 => doPartitionAdd c pay s
  | 0x0303 => doPartitionRemove c pay s
  | 0x0304 => doWindowSet c pay s
  | 0x0305 => doMemScrubSet c pay s
  | 0x0306 => doFabricMapGet c pay s
  | 0x0400 => doEmbTableCreate c pay s
  | 0x0401 => doEmbTableDestroy c pay s
  | 0x0402 => doEmbBatchOpen c pay s
  | 0x0403 => doEmbBatchClose c pay s
  | 0x0404 => doEmbRebuildStart c pay s
  | 0x0405 => doEmbRebuildCtrl c pay s
  | 0x0406 => doEmbCommit c pay s
  | 0x0407 => doEmbTableStatus c pay s
  | 0x0500 => doInstallBegin c pay s
  | 0x0501 => doInstallEnd c pay s
  | 0x0502 => doWstoreWrite c pay s
  | 0x0503 => doWstoreStatus c pay s
  | 0x0504 => doWsetStage c pay s
  | 0x0505 => doWsetSwitch c pay s
  | 0x0506 => doWsetDiscard c pay s
  | 0x0507 => doWsetBatchOpen c pay s
  | 0x0508 => doWsetBatchClose c pay s
  | 0x0509 => doWsetGet c pay s
  | 0x050A => doPurlinSet c pay s
  | 0x050B => doPurlinSend c pay s
  | 0x0600 => doLinkPanelIdSet c pay s
  | 0x0601 => doPartitionLinkSet c pay s
  | 0x0602 => doRankTableSet c pay s
  | 0x0603 => doTransitSet c pay s
  | 0x0604 => doLinkCtrl c pay s
  | 0x0605 => doLinkStatus c pay s
  | 0x0700 => doFwBundleStage c pay s
  | 0x0701 => doFwBundleApply c pay s
  | 0x0702 => doFwStatus c pay s
  | 0x0703 => doFwProcRestart c pay s
  | 0x0704 => doReset c pay s
  | 0x0800 => doPowerSet c pay s
  | 0x0801 => doPowerStatus c pay s
  | 0x0802 => doCeilingSet c pay s
  | 0x0900 => doCoolingStatus c pay s
  | 0x0A00 => doErrorLogGet c pay s
  | 0x0A01 => doWearGet c pay s
  | 0x0A02 => doInject c pay s
  | 0x0B00 => doMgmtKeySet c pay s
  | 0x0B01 => doAttestQuote c pay s
  | 0x0B02 => doCertGet c pay s
  | _ => s

/-- A command that has been taken runs. -/
def runAny (c : Cmd) (s : State) : State := runTaken c runOpcode s

/-! ## The mailbox (R435, R463) -/

/-- Firmware takes the mailbox's command and runs it. -/
def takeMail (time : Nat) (s : State) : State := let c := mailCmd time s; runAny c (takeCmd c s)

/-- The two commands that the host-port hardware executes while the king post's panel controller is held. -/
def hardwareRuns (c : Cmd) (s : State) : Bool :=
  match opInfo (cmdOp c) with
  | none => false
  | some i =>
    let pay := (fetchPayload c i s).2
    (cmdOp c == 0x0703 && leAt pay 0 2 == kingPc s && bitAt (leAt pay 2 1) 0) || isColdReset c pay

/-- What the host-port hardware does for either. -/
def hardwareBody (c : Cmd) (pay : List Byte) (s : State) : State :=
  if cmdOp c = 0x0703 then doFwProcRestart c pay s else doColdReset c pay s

/-- The mailbox's command while the panel controller is held (R463). -/
def heldMail (time : Nat) (s : State) : State :=
  let c := mailCmd time s
  let t := takeCmd c s
  if hardwareRuns c s then runTaken c hardwareBody t else complete c stFault 0 t

/-- GO. The mailbox takes nothing before the management dies are ready (R421); a command that firmware cannot take yet
waits. -/
def execGo (v : BitVec 64) (time : Nat) (s : State) : Out :=
  barAccess time (fun s =>
    if !bitAt v.toNat 0 || s.host.mbBusy || s.fw.noKing || s.host.bringup == 0 then s
    else if procHeld s (kingPc s) then heldMail time s
    else if canTake (mailCmd time s) s then takeMail time s
    else { s with host := { s.host with mbBusy := true, mbSince := s.now } }) s

/-! ## WATCHDOG_EXPIRY, PROCESSOR_FAULT (R458, R461, R463) -/

/-- The command that waits in the mailbox when the panel controller becomes held is the host port's to execute (R463). -/
def settleHeldMail (s : State) : State :=
  if procHeld s (kingPc s) && mailWaits s then heldMail s.now s else s

/-- WATCHDOG_EXPIRY (R458): a processor that runs has not serviced its watchdog, or one that restarts does not run within
its bound (R469). -/
def execWatchdogExpiry (n : ProcId) (time : Nat) (s : State) : Out :=
  let t := atTime time s
  let p := procOf s n.val
  if p.run ≠ .running ∧ ¬(p.run = .starting ∧ p.since + restartBound n.val ≤ t.now) then .next s
  else
    let j := examine 19 (fun j => j.addr == n.val) t
    .next (settleHeldMail (countedRestart n.val 1 j.1 j.2))

/-- PROCESSOR_FAULT (R458): a processor takes a fault that it cannot handle. -/
def execProcessorFault (n : ProcId) (time : Nat) (s : State) : Out :=
  let p := procOf s n.val
  if p.run ≠ .running ∧ p.run ≠ .starting then .next s
  else .next (settleHeldMail (countedRestart n.val 2 false (atTime time s)))

/-! ## COMMAND_TAKE (R438) -/

/-- The queues from which firmware may take a command, in turn. -/
def readyQueues (s : State) : List (Nat × QueuePair) :=
  let ok := s.host.queues.filter (fun p => p.2.sqHead != p.2.sqTail && p.2.waiting.isEmpty && cqRoom p.2)
  ok.filter (fun p => decide (s.host.turn ≤ p.1)) ++ ok.filter (fun p => decide (p.1 < s.host.turn))

/-- The next command of a queue is taken and runs. -/
def takeFrom (time q : Nat) (p : QueuePair) (s : State) : State :=
  let a := p.sqBase + 64 * p.sqHead
  if (hostAnswer s a 64).isSome then s
  else
    let c : Cmd := ⟨time, .queue (Fin.ofNat 64 q), entryOfBytes (hostRead s a 64)⟩
    if isInProgress c s then s
    else
      let p' : QueuePair := { p with sqHead := if p.sqHead + 1 ≥ p.sqDepth then 0 else p.sqHead + 1 }
      let s := putQueue q p' { s with host := { s.host with turn := q + 1 } }
      runAny c (takeCmd c s)

/-- Firmware takes a Jexeri-M command and runs it; one whose MAJOR is not 2 completes with VERSION_REFUSED (R570, R572). -/
def takeMgmt (c : Cmd) (major : Bool) (s : State) : State :=
  let t := takeCmd c s
  if major then runAny c t else complete c stVersionRefused 0 t

/-- The state with the accepted Jexeri-M commands replaced. -/
def setCommands (l : List (Cmd × Bool)) (s : State) : State := { s with fw := { s.fw with commands := l } }

/-- The next command is taken: the mailbox's where one waits, else the oldest accepted over Jexeri-M, else the next of the queue
in turn. -/
def takeNext (time : Nat) (s : State) : Out :=
  if mailWaits s then .next (takeMail time (atTime time s))
  else
    match s.fw.commands with
    | x :: l => .next (takeMgmt x.1 x.2 (setCommands l (atTime time s)))
    | [] =>
      match readyQueues s with
      | [] => .next s
      | (q, p) :: _ => .next (takeFrom time q p (atTime time s))

/-- COMMAND_TAKE: the panel controller ends the bundle's stage that it makes (DESIGN CHOICE, log entry 157), else takes the next
command. -/
def execCommandTake (time : Nat) (s : State) : Out :=
  if !firmwareRuns s then .next s
  else if s.fw.stage.isSome then .next (endStage (atTime time s))
  else if 1024 ≤ s.inProgress.length then .next s
  else takeNext time s

/-! ## PAYLOAD_TIMEOUT (R441) -/

/-- The completions that a command's way holds for it after it ran: the mailbox's, the last of its queue, or none. -/
def lastStatus (c : Cmd) (s : State) : Option Nat :=
  match c.via with
  | .mailbox => some (leAt s.host.mbCpl 4 2)
  | .queue q =>
    match mapGet? s.host.queues q.val with
    | none => none
    | some p =>
      match p.waiting.getLast? with
      | some x => some x.status
      | none =>
        let slot := if p.cqTail = 0 then p.cqDepth - 1 else p.cqTail - 1
        some (leAt (hostRead s (p.cqBase + 16 * slot) 16) 4 2)
  | .mgmt .. => none

/-- PAYLOAD_TIMEOUT: a command whose payload or buffer host memory does not answer for 50 ms completes with TIMEOUT. -/
def execPayloadTimeout (c : Cmd) (s : State) : Out :=
  if !canTake c s then .next s
  else
    let t := runAny c (takeCmd c s)
    if !isInProgress c t && lastStatus c t == some stTimeout then .next (atTime (c.time + 50000000) t) else .next s

/-! ## FW_RESTART (R448, R457, R459, R460) -/

/-- The commands that have waited for a processor run. -/
def runWaiting (n : Nat) (s : State) : State :=
  let mine := s.fw.waiting.filter (fun w => w.proc == n)
  mine.foldl (fun s w => runOpcode w.cmd w.pay s)
    { s with fw := { s.fw with waiting := s.fw.waiting.filter (fun w => w.proc != n) } }

/-- FW_RESTART: a processor that restarts, and whose code has the right digest, runs again; an apply that waited for it goes
on. -/
def execFwRestart (n : ProcId) (time : Nat) (s : State) : Out :=
  if !procStarts s n.val || siteInReset s (siteOfProc n.val) || !procCodeOk s n.val then .next s
  else
    let s := runWaiting n.val (procRunsAgain n.val (atTime time s))
    .next (if s.fw.applyAt = some n.val then goOnApply s else s)

/-! ## DIE_RESET_COMPLETE (R480) -/

/-- DIE_RESET_COMPLETE: the die starts by role with its self-test, and the RESET completes with the state that it takes. -/
def execDieResetComplete (p : SiteId) (r : SelfTest) (time : Nat) (s : State) : Out :=
  let i := siteNo p
  match siteInReset s i, (pwrOf s i).resetBy with
  | true, some c =>
    let s := modPwr i (fun p => { p with resetBy := none }) (dieStarts i r (atTime time s))
    let s := resetDone c 1 (cmdPart c) i (siteStateCode (entryAt s i).state) s
    .next (match procOfSite i with | some n => runWaiting n s | none => s)
  | _, _ => .next s

/-! ## COMMAND (R567, R570 to R573) -/

/-- The command that a COMMAND frame carries. -/
def frameCmd (time : Nat) (d : List Byte) : Cmd :=
  ⟨time, .mgmt (BitVec.ofNat 64 (jmSender d)) (BitVec.ofNat 64 (jmSeq d)) (bytesAt d 112 (jmLen d - 64)),
    entryOfBytes (bytesAt d 48 64)⟩

/-- An accepted COMMAND is executed, or waits while firmware takes none (R438, R572). After the king-post-loss trip the second
management die executes it (R573). -/
def runFrame (time : Nat) (d : List Byte) (s : State) : State :=
  let c := frameCmd time d
  let major := leAt d 4 1 == 2
  if s.fw.kingLost && major && !isColdReset c (bytesAt d 112 (jmLen d - 64)) then complete c stNotReady 0 (takeCmd c s)
  else if s.fw.kingLost || (s.fw.commands.isEmpty && decide (s.inProgress.length < 1024)) then takeMgmt c major s
  else setCommands (s.fw.commands ++ [(c, major)]) s

/-- COMMAND: a signed frame is filtered, judged, and executed. -/
def execCommand (seg : Segm) (f : Frame) (time : Nat) (s : State) : Out :=
  receiveFrame seg f time (fun r => match r with
    | .command d => some (fun s =>
        let j := judgeSender seg d s
        if j.1 then runFrame time d j.2 else j.2)
    | _ => none) s

end Sys2Proof.Machine
end

