-- ==== Sys2Proof/Machine/Dispatch.lean ====
section
/-! DEFINITION. Which meaning runs for which command: one arm for each constructor of `Instr`. -/

namespace Sys2Proof.Machine

def exec (i : Instr) (s : State) : Host.Outcome State Fault Refusal :=
  match i with
  | .floorplanGet c => Sys2Proof.Machine.execFloorplanGet c s
  | .siteFence c => Sys2Proof.Machine.execSiteFence c s
  | .siteUnfence c => Sys2Proof.Machine.execSiteUnfence c s
  | .siteUnfenceDefault c => Sys2Proof.Machine.execSiteUnfenceDefault c s
  | .siteRetest c => Sys2Proof.Machine.execSiteRetest c s
  | .siteRetestComplete p r time => Sys2Proof.Machine.execSiteRetestComplete p r time s
  | .matrixStep k t => Sys2Proof.Machine.execMatrixStep k t s
  | .matrixStepStart k t => Sys2Proof.Machine.execMatrixStepStart k t s
  | .operandRelease k t => Sys2Proof.Machine.execOperandRelease k t s
  | .bankComplete k t => Sys2Proof.Machine.execBankComplete k t s
  | .tileInQueue k t => Sys2Proof.Machine.execTileInQueue k t s
  | .vectorChain k t => Sys2Proof.Machine.execVectorChain k t s
  | .vectorChainStart k t => Sys2Proof.Machine.execVectorChainStart k t s
  | .vectorInputConsume k t => Sys2Proof.Machine.execVectorInputConsume k t s
  | .vectorOutputFull k t => Sys2Proof.Machine.execVectorOutputFull k t s
  | .scanCall k t => Sys2Proof.Machine.execScanCall k t s
  | .scanCallStart k t => Sys2Proof.Machine.execScanCallStart k t s
  | .scanInputEmpty k t => Sys2Proof.Machine.execScanInputEmpty k t s
  | .scanOutputFull k t => Sys2Proof.Machine.execScanOutputFull k t s
  | .accessEnq k t => Sys2Proof.Machine.execAccessEnq k t s
  | .descriptorStart k time => Sys2Proof.Machine.execDescriptorStart k time s
  | .burstResponse k tag time => Sys2Proof.Machine.execBurstResponse k tag time s
  | .descriptorComplete k time => Sys2Proof.Machine.execDescriptorComplete k time s
  | .remoteScratchpadWrite k time => Sys2Proof.Machine.execRemoteScratchpadWrite k time s
  | .send k t => Sys2Proof.Machine.execSend k t s
  | .sendTagEmpty k t => Sys2Proof.Machine.execSendTagEmpty k t s
  | .receive k t => Sys2Proof.Machine.execReceive k t s
  | .receiveTagFull k t => Sys2Proof.Machine.execReceiveTagFull k t s
  | .cload k t => Sys2Proof.Machine.execCload k t s
  | .cstep k t => Sys2Proof.Machine.execCstep k t s
  | .cloop k t => Sys2Proof.Machine.execCloop k t s
  | .ctest k t => Sys2Proof.Machine.execCtest k t s
  | .produce k t => Sys2Proof.Machine.execProduce k t s
  | .consume k t => Sys2Proof.Machine.execConsume k t s
  | .pegPage k t => Sys2Proof.Machine.execPegPage k t s
  | .epochMark k t => Sys2Proof.Machine.execEpochMark k t s
  | .checkAhead k t => Sys2Proof.Machine.execCheckAhead k t s
  | .pegEntry k t => Sys2Proof.Machine.execPegEntry k t s
  | .pegCheck k t => Sys2Proof.Machine.execPegCheck k t s
  | .crossingEntry k side time => Sys2Proof.Machine.execCrossingEntry k side time s
  | .creditReturn k side time => Sys2Proof.Machine.execCreditReturn k side time s
  | .bayFreeze b time => Sys2Proof.Machine.execBayFreeze b time s
  | .bayResume b time => Sys2Proof.Machine.execBayResume b time s
  | .bankHold k t => Sys2Proof.Machine.execBankHold k t s
  | .droop k t level => Sys2Proof.Machine.execDroop k t level s
  | .bayLoad c => Sys2Proof.Machine.execBayLoad c s
  | .bayStart c => Sys2Proof.Machine.execBayStart c s
  | .bayHold c => Sys2Proof.Machine.execBayHold c s
  | .bayRelease c => Sys2Proof.Machine.execBayRelease c s
  | .bayStop c => Sys2Proof.Machine.execBayStop c s
  | .bayReconfigure c => Sys2Proof.Machine.execBayReconfigure c s
  | .baySetPoint c => Sys2Proof.Machine.execBaySetPoint c s
  | .railRaised b time => Sys2Proof.Machine.execRailRaised b time s
  | .pointStop b time => Sys2Proof.Machine.execPointStop b time s
  | .relockEnd b time => Sys2Proof.Machine.execRelockEnd b time s
  | .bayStatus c => Sys2Proof.Machine.execBayStatus c s
  | .timeExchange c => Sys2Proof.Machine.execTimeExchange c s
  | .bayRemove c => Sys2Proof.Machine.execBayRemove c s
  | .loadReportGet c => Sys2Proof.Machine.execLoadReportGet c s
  | .hazardGet c => Sys2Proof.Machine.execHazardGet c s
  | .stopCycle b time => Sys2Proof.Machine.execStopCycle b time s
  | .drainComplete b time => Sys2Proof.Machine.execDrainComplete b time s
  | .drainOverrun b time => Sys2Proof.Machine.execDrainOverrun b time s
  | .faultHold b time => Sys2Proof.Machine.execFaultHold b time s
  | .bayHeldLong b time => Sys2Proof.Machine.execBayHeldLong b time s
  | .bayDone b time => Sys2Proof.Machine.execBayDone b time s
  | .serviceRead q f time => Sys2Proof.Machine.execServiceRead q f time s
  | .serviceWrite q f time => Sys2Proof.Machine.execServiceWrite q f time s
  | .ctrlPacket q time => Sys2Proof.Machine.execCtrlPacket q time s
  | .serviceResponse q time => Sys2Proof.Machine.execServiceResponse q time s
  | .requestExpired p u tag time => Sys2Proof.Machine.execRequestExpired p u tag time s
  | .hopReplay p side f time => Sys2Proof.Machine.execHopReplay p side f time s
  | .hopRetrain p side ok time => Sys2Proof.Machine.execHopRetrain p side ok time s
  | .routeRewrite time => Sys2Proof.Machine.execRouteRewrite time s
  | .congestionSample p fills waits time => Sys2Proof.Machine.execCongestionSample p fills waits time s
  | .congestionWindowEnd time => Sys2Proof.Machine.execCongestionWindowEnd time s
  | .partitionCreate c => Sys2Proof.Machine.execPartitionCreate c s
  | .partitionDestroy c => Sys2Proof.Machine.execPartitionDestroy c s
  | .partitionAdd c => Sys2Proof.Machine.execPartitionAdd c s
  | .partitionRemove c => Sys2Proof.Machine.execPartitionRemove c s
  | .windowSet c => Sys2Proof.Machine.execWindowSet c s
  | .windowClear c => Sys2Proof.Machine.execWindowClear c s
  | .memScrubSet c => Sys2Proof.Machine.execMemScrubSet c s
  | .fabricMapGet c => Sys2Proof.Machine.execFabricMapGet c s
  | .patrolScrub st word f time => Sys2Proof.Machine.execPatrolScrub st word f time s
  | .rowRetire st row time => Sys2Proof.Machine.execRowRetire st row time s
  | .embTableCreate c => Sys2Proof.Machine.execEmbTableCreate c s
  | .embTableDestroy c => Sys2Proof.Machine.execEmbTableDestroy c s
  | .requestPortWrite q time => Sys2Proof.Machine.execRequestPortWrite q time s
  | .lookupStart st f time => Sys2Proof.Machine.execLookupStart st f time s
  | .lookupResult st order time => Sys2Proof.Machine.execLookupResult st order time s
  | .embBatchOpen c => Sys2Proof.Machine.execEmbBatchOpen c s
  | .embBatchClose c => Sys2Proof.Machine.execEmbBatchClose c s
  | .embBatchRelease part batch time => Sys2Proof.Machine.execEmbBatchRelease part batch time s
  | .embRebuildStart c => Sys2Proof.Machine.execEmbRebuildStart c s
  | .rebuildRowWrite st tab f time => Sys2Proof.Machine.execRebuildRowWrite st tab f time s
  | .rebuildStarved st tab time => Sys2Proof.Machine.execRebuildStarved st tab time s
  | .embRebuildPause c => Sys2Proof.Machine.execEmbRebuildPause c s
  | .embRebuildResume c => Sys2Proof.Machine.execEmbRebuildResume c s
  | .embRebuildShare c => Sys2Proof.Machine.execEmbRebuildShare c s
  | .embRebuildAbort c => Sys2Proof.Machine.execEmbRebuildAbort c s
  | .embCommit c => Sys2Proof.Machine.execEmbCommit c s
  | .embTableStatus c => Sys2Proof.Machine.execEmbTableStatus c s
  | .inflateRead q f time => Sys2Proof.Machine.execInflateRead q f time s
  | .pageSweep w page time => Sys2Proof.Machine.execPageSweep w page time s
  | .wstoreInstallBegin c => Sys2Proof.Machine.execWstoreInstallBegin c s
  | .wstoreInstallEnd c => Sys2Proof.Machine.execWstoreInstallEnd c s
  | .wstoreWrite c => Sys2Proof.Machine.execWstoreWrite c s
  | .pageWrite w time => Sys2Proof.Machine.execPageWrite w time s
  | .wstoreStatus c => Sys2Proof.Machine.execWstoreStatus c s
  | .wsetStage c => Sys2Proof.Machine.execWsetStage c s
  | .wsetSwitch c => Sys2Proof.Machine.execWsetSwitch c s
  | .wsetDiscard c => Sys2Proof.Machine.execWsetDiscard c s
  | .wsetDiscardCurrent c => Sys2Proof.Machine.execWsetDiscardCurrent c s
  | .wsetBatchOpen c => Sys2Proof.Machine.execWsetBatchOpen c s
  | .wsetBatchClose c => Sys2Proof.Machine.execWsetBatchClose c s
  | .wsetGet c => Sys2Proof.Machine.execWsetGet c s
  | .purlinSet c => Sys2Proof.Machine.execPurlinSet c s
  | .purlinSend c => Sys2Proof.Machine.execPurlinSend c s
  | .segmentReceive part seg time => Sys2Proof.Machine.execSegmentReceive part seg time s
  | .linkFlitReceive l f time => Sys2Proof.Machine.execLinkFlitReceive l f time s
  | .linkTraining l r time => Sys2Proof.Machine.execLinkTraining l r time s
  | .linkRetrain l cause time => Sys2Proof.Machine.execLinkRetrain l cause time s
  | .linkPanelIdSet c => Sys2Proof.Machine.execLinkPanelIdSet c s
  | .partitionLinkSet c => Sys2Proof.Machine.execPartitionLinkSet c s
  | .rankTableSet c => Sys2Proof.Machine.execRankTableSet c s
  | .transitSet c => Sys2Proof.Machine.execTransitSet c s
  | .linkCtrl c => Sys2Proof.Machine.execLinkCtrl c s
  | .linkStatus c => Sys2Proof.Machine.execLinkStatus c s
  | .linkEgressWrite q x time => Sys2Proof.Machine.execLinkEgressWrite q x time s
  | .linkAckArrival l q time => Sys2Proof.Machine.execLinkAckArrival l q time s
  | .linkAckExpired l tag time => Sys2Proof.Machine.execLinkAckExpired l tag time s
  | .linkPacketArrival l q time => Sys2Proof.Machine.execLinkPacketArrival l q time s
  | .reductionAdd h time => Sys2Proof.Machine.execReductionAdd h time s
  | .hdmAccess a f time => Sys2Proof.Machine.execHdmAccess a f time s
  | .biasSet c => Sys2Proof.Machine.execBiasSet c s
  | .hostWindowSet c => Sys2Proof.Machine.execHostWindowSet c s
  | .hostWindowClear c => Sys2Proof.Machine.execHostWindowClear c s
  | .apertureAccess a f time => Sys2Proof.Machine.execApertureAccess a f time s
  | .commit v time => Sys2Proof.Machine.execCommit v time s
  | .go v time => Sys2Proof.Machine.execGo v time s
  | .done v time => Sys2Proof.Machine.execDone v time s
  | .sqTail qid tail time => Sys2Proof.Machine.execSqTail qid tail time s
  | .cqHead qid head time => Sys2Proof.Machine.execCqHead qid head time s
  | .dbErrors time => Sys2Proof.Machine.execDbErrors time s
  | .hdmErrors time => Sys2Proof.Machine.execHdmErrors time s
  | .apErrors time => Sys2Proof.Machine.execApErrors time s
  | .registerWrite a time => Sys2Proof.Machine.execRegisterWrite a time s
  | .commandTake time => Sys2Proof.Machine.execCommandTake time s
  | .payloadTimeout c => Sys2Proof.Machine.execPayloadTimeout c s
  | .queueCreate c => Sys2Proof.Machine.execQueueCreate c s
  | .queueDelete c => Sys2Proof.Machine.execQueueDelete c s
  | .version c => Sys2Proof.Machine.execVersion c s
  | .identify c => Sys2Proof.Machine.execIdentify c s
  | .tokenSend c => Sys2Proof.Machine.execTokenSend c s
  | .tokenSendDeliver k tq time => Sys2Proof.Machine.execTokenSendDeliver k tq time s
  | .tokenSendTimeout k tq time => Sys2Proof.Machine.execTokenSendTimeout k tq time s
  | .eventQueueSet c => Sys2Proof.Machine.execEventQueueSet c s
  | .eventQueueClear c => Sys2Proof.Machine.execEventQueueClear c s
  | .eventAck c => Sys2Proof.Machine.execEventAck c s
  | .hostPortReset cause time => Sys2Proof.Machine.execHostPortReset cause time s
  | .perstDeassert mode time => Sys2Proof.Machine.execPerstDeassert mode time s
  | .prepareRemoval c => Sys2Proof.Machine.execPrepareRemoval c s
  | .watchdogExpiry n time => Sys2Proof.Machine.execWatchdogExpiry n time s
  | .fwRestart n time => Sys2Proof.Machine.execFwRestart n time s
  | .fwWaitExpired id time => Sys2Proof.Machine.execFwWaitExpired id time s
  | .fwProcRestart c => Sys2Proof.Machine.execFwProcRestart c s
  | .fwStatus c => Sys2Proof.Machine.execFwStatus c s
  | .fwBundleStage c => Sys2Proof.Machine.execFwBundleStage c s
  | .fwBundleApply c => Sys2Proof.Machine.execFwBundleApply c s
  | .microcodeLoad k time => Sys2Proof.Machine.execMicrocodeLoad k time s
  | .kingPostLossTrip time => Sys2Proof.Machine.execKingPostLossTrip time s
  | .powerGood m time => Sys2Proof.Machine.execPowerGood m time s
  | .bringupStep r time => Sys2Proof.Machine.execBringupStep r time s
  | .bringupDeadline r time => Sys2Proof.Machine.execBringupDeadline r time s
  | .resetCore c => Sys2Proof.Machine.execResetCore c s
  | .resetDie c => Sys2Proof.Machine.execResetDie c s
  | .dieResetComplete p r time => Sys2Proof.Machine.execDieResetComplete p r time s
  | .resetPartition c => Sys2Proof.Machine.execResetPartition c s
  | .partitionResetDiscard part time => Sys2Proof.Machine.execPartitionResetDiscard part time s
  | .resetPanelWarm c => Sys2Proof.Machine.execResetPanelWarm c s
  | .resetPanelCold c => Sys2Proof.Machine.execResetPanelCold c s
  | .siteOn c => Sys2Proof.Machine.execSiteOn c s
  | .powerOnBegin n time => Sys2Proof.Machine.execPowerOnBegin n time s
  | .powerOnTimeout n time => Sys2Proof.Machine.execPowerOnTimeout n time s
  | .siteOnComplete p r time => Sys2Proof.Machine.execSiteOnComplete p r time s
  | .siteOff c => Sys2Proof.Machine.execSiteOff c s
  | .selfRefreshEnter c => Sys2Proof.Machine.execSelfRefreshEnter c s
  | .selfRefreshExit c => Sys2Proof.Machine.execSelfRefreshExit c s
  | .lanes c => Sys2Proof.Machine.execLanes c s
  | .quadrantOn c => Sys2Proof.Machine.execQuadrantOn c s
  | .powerStatus c => Sys2Proof.Machine.execPowerStatus c s
  | .ceilingSet c => Sys2Proof.Machine.execCeilingSet c s
  | .powerTick r time => Sys2Proof.Machine.execPowerTick r time s
  | .inputTrip isOver mv time => Sys2Proof.Machine.execInputTrip isOver mv time s
  | .inputRange mv time => Sys2Proof.Machine.execInputRange mv time s
  | .phaseLost p d phase time => Sys2Proof.Machine.execPhaseLost p d phase time s
  | .domainDark p d mv time => Sys2Proof.Machine.execDomainDark p d mv time s
  | .siteTrip p overload peak time => Sys2Proof.Machine.execSiteTrip p overload peak time s
  | .quadrantTrip n overload peak time => Sys2Proof.Machine.execQuadrantTrip n overload peak time s
  | .sensorRetired p d sensor mv time => Sys2Proof.Machine.execSensorRetired p d sensor mv time s
  | .pathEstimate p d r time => Sys2Proof.Machine.execPathEstimate p d r time s
  | .limiterDemand p logic array time => Sys2Proof.Machine.execLimiterDemand p logic array time s
  | .quadrantLimit n cur time => Sys2Proof.Machine.execQuadrantLimit n cur time s
  | .panelLimit watts time => Sys2Proof.Machine.execPanelLimit watts time s
  | .limitLong u time => Sys2Proof.Machine.execLimitLong u time s
  | .boostConditionLost b time => Sys2Proof.Machine.execBoostConditionLost b time s
  | .flowSample dp th time => Sys2Proof.Machine.execFlowSample dp th time s
  | .flowPeriod r time => Sys2Proof.Machine.execFlowPeriod r time s
  | .flowStopCleared time => Sys2Proof.Machine.execFlowStopCleared time s
  | .flowDisagree time => Sys2Proof.Machine.execFlowDisagree time s
  | .diodeSample h d0 d1 time => Sys2Proof.Machine.execDiodeSample h d0 d1 time s
  | .diodeDisagree h time => Sys2Proof.Machine.execDiodeDisagree h time s
  | .coolantTemp inlet time => Sys2Proof.Machine.execCoolantTemp inlet time s
  | .strainHigh p strain time => Sys2Proof.Machine.execStrainHigh p strain time s
  | .coolingStatus c => Sys2Proof.Machine.execCoolingStatus c s
  | .statusPoll k answered time => Sys2Proof.Machine.execStatusPoll k answered time s
  | .errorLogGet c => Sys2Proof.Machine.execErrorLogGet c s
  | .wearGet c => Sys2Proof.Machine.execWearGet c s
  | .wearDecay time => Sys2Proof.Machine.execWearDecay time s
  | .inject c => Sys2Proof.Machine.execInject c s
  | .injectCancel c => Sys2Proof.Machine.execInjectCancel c s
  | .injectExpiry time => Sys2Proof.Machine.execInjectExpiry time s
  | .discover seg f time => Sys2Proof.Machine.execDiscover seg f time s
  | .command seg f time => Sys2Proof.Machine.execCommand seg f time s
  | .mgmtSegment seg mode time => Sys2Proof.Machine.execMgmtSegment seg mode time s
  | .mgmtDrops seg time => Sys2Proof.Machine.execMgmtDrops seg time s
  | .mgmtKeySetManagement c => Sys2Proof.Machine.execMgmtKeySetManagement c s
  | .mgmtKeySetWeight c => Sys2Proof.Machine.execMgmtKeySetWeight c s
  | .attestQuote c => Sys2Proof.Machine.execAttestQuote c s
  | .certGet c => Sys2Proof.Machine.execCertGet c s
  | .inputSwitchClose r time => Sys2Proof.Machine.execInputSwitchClose r time s
  | .presenceLost time => Sys2Proof.Machine.execPresenceLost time s
  | .processorFault n time => Sys2Proof.Machine.execProcessorFault n time s
  | .scheduledScrub st unit f time => Sys2Proof.Machine.execScheduledScrub st unit f time s
  | .linkBufferSample l fill time => Sys2Proof.Machine.execLinkBufferSample l fill time s
  | .alertRepeat time => Sys2Proof.Machine.execAlertRepeat time s
  | .neighborSolicitation seg f time => Sys2Proof.Machine.execNeighborSolicitation seg f time s
  | .cxlL2Change enter time => Sys2Proof.Machine.execCxlL2Change enter time s

end Sys2Proof.Machine
end

