-- ==== Sys2Proof/Safety.lean ====
section
/-! DEFINITION. What counts as a safe run, and the terms in which the statements speak of a step: the parts of the state,
what a step leaves alone, and a command that firmware has taken and passed through the common checks. -/

namespace Sys2Proof

/-- The step answers a next state. -/
def Steps (s : Machine.State) : Prop := ∃ t, Machine.step s = .next t

/-- Every one of the first `n` steps answers a next state. -/
def safeFor : Nat → Machine.State → Prop
  | 0, _ => True
  | n + 1, s => ∃ t, Machine.step s = .next t ∧ safeFor n t

/-! ## The parts of the state -/

open Machine

/-- The parts of the state, each under the name of its field; those of the boot store begin with `boot`. `clock` is what
only a loss of power changes: that time does not run back. -/
inductive StatePart where
  | clock | pending | freeCtr | now | fuses | fp | host | inProgress | mgmt | measure | ev | parts | pwr | fw | err | cool | install
  | installs | fab | hbms | bufs | engines | links | mem | bays | cores | xings | hostMem | hostFail
  | bootGeneration | bootFences | bootFailures | bootCount | bootLog | bootWear | bootTrip | bootBaselines | bootBanks
  | bootStore | bootStoreMem | bootSecFuses | bootKeys | bootHwm
  deriving DecidableEq, Repr

/-- A part is the same in two states. -/
@[reducible] def samePart (p : StatePart) (s t : State) : Prop :=
  match p with
  | .clock => s.now ≤ t.now
  | .pending => t.pending = s.pending
  | .freeCtr => t.freeCtr = s.freeCtr
  | .now => t.now = s.now
  | .fuses => t.fuses = s.fuses
  | .fp => t.fp = s.fp
  | .host => t.host = s.host
  | .inProgress => t.inProgress = s.inProgress
  | .mgmt => t.mgmt = s.mgmt
  | .measure => t.measure = s.measure
  | .ev => t.ev = s.ev
  | .parts => t.parts = s.parts
  | .pwr => t.pwr = s.pwr
  | .fw => t.fw = s.fw
  | .err => t.err = s.err
  | .cool => t.cool = s.cool
  | .install => t.install = s.install
  | .installs => t.installs = s.installs
  | .fab => t.fab = s.fab
  | .hbms => t.hbms = s.hbms
  | .bufs => t.bufs = s.bufs
  | .engines => t.engines = s.engines
  | .links => t.links = s.links
  | .mem => t.mem = s.mem
  | .bays => t.bays = s.bays
  | .cores => t.cores = s.cores
  | .xings => t.xings = s.xings
  | .hostMem => t.hostMem = s.hostMem
  | .hostFail => t.hostFail = s.hostFail
  | .bootGeneration => t.boot.generation = s.boot.generation
  | .bootFences => t.boot.hostFences = s.boot.hostFences
  | .bootFailures => t.boot.failures = s.boot.failures
  | .bootCount => t.boot.bootCount = s.boot.bootCount
  | .bootLog => t.boot.plog = s.boot.plog
  | .bootWear => t.boot.wear = s.boot.wear ∧ t.boot.hours = s.boot.hours
  | .bootTrip => t.boot.tripCause = s.boot.tripCause
  | .bootBaselines => t.boot.baselines = s.boot.baselines
  | .bootBanks => t.boot.banks = s.boot.banks ∧ t.boot.bankBad = s.boot.bankBad
  | .bootStore => t.boot.store = s.boot.store
  | .bootStoreMem => t.boot.storeMem = s.boot.storeMem
  | .bootSecFuses => t.boot.secFuses = s.boot.secFuses
  | .bootKeys => t.boot.keys = s.boot.keys
  | .bootHwm => t.boot.hwm = s.boot.hwm

/-- The form that the state's data keeps: every byte memory is canonical, the record has its 224 entries and the panel its 8
partitions and 4 quadrants, and the keys of every table rise. -/
structure Kept (s : State) : Prop where
  mem : memWf s.mem = true
  hostMem : memWf s.hostMem = true
  storeMem : memWf s.boot.storeMem = true
  entries : s.fp.entries.length = 224
  parts : s.parts.length = 8
  quads : s.pwr.quads.length = 4
  cores : keysRise s.cores = true
  bays : keysRise s.bays = true
  sites : keysRise s.pwr.sites = true
  hot : keysRise s.cool.hot = true
  procs : keysRise s.fw.procs = true
  wear : keysRise s.err.wear = true
  bootWear : keysRise s.boot.wear = true
  missed : keysRise s.err.missed = true
  hops : keysRise s.fab.hops = true
  ports : keysRise s.fab.ports = true
  hbms : keysRise s.hbms = true
  bufs : keysRise s.bufs = true
  store : keysRise s.boot.store = true
  engines : keysRise s.engines = true
  links : keysRise s.links.links = true
  queues : keysRise s.host.queues = true
  failures : keysRise s.boot.failures = true
  retests : keysRise s.fp.retests = true

/-- Nothing changes from `s` to `t` outside the parts of `S`. -/
def OnlyChanges (S : List StatePart) (s t : State) : Prop := ∀ p, p ∉ S → samePart p s t

/-! ## Jexeri commands -/

/-- The opcode and the entry of a row that is a Jexeri command (Table 15-16); the other rows are not commands of a host. -/
def jexeri (i : Instr) : Option (Nat × Cmd) :=
  match i with
  | .floorplanGet c => some (0x0100, c)
  | .siteFence c => some (0x0101, c)
  | .siteUnfence c => some (0x0102, c)
  | .siteUnfenceDefault c => some (0x0102, c)
  | .siteRetest c => some (0x0103, c)
  | .siteRetestComplete _ _ _ => none
  | .matrixStep _ _ => none
  | .matrixStepStart _ _ => none
  | .operandRelease _ _ => none
  | .bankComplete _ _ => none
  | .tileInQueue _ _ => none
  | .vectorChain _ _ => none
  | .vectorChainStart _ _ => none
  | .vectorInputConsume _ _ => none
  | .vectorOutputFull _ _ => none
  | .scanCall _ _ => none
  | .scanCallStart _ _ => none
  | .scanInputEmpty _ _ => none
  | .scanOutputFull _ _ => none
  | .accessEnq _ _ => none
  | .descriptorStart _ _ => none
  | .burstResponse _ _ _ => none
  | .descriptorComplete _ _ => none
  | .remoteScratchpadWrite _ _ => none
  | .send _ _ => none
  | .sendTagEmpty _ _ => none
  | .receive _ _ => none
  | .receiveTagFull _ _ => none
  | .cload _ _ => none
  | .cstep _ _ => none
  | .cloop _ _ => none
  | .ctest _ _ => none
  | .produce _ _ => none
  | .consume _ _ => none
  | .pegPage _ _ => none
  | .epochMark _ _ => none
  | .checkAhead _ _ => none
  | .pegEntry _ _ => none
  | .pegCheck _ _ => none
  | .crossingEntry _ _ _ => none
  | .creditReturn _ _ _ => none
  | .bayFreeze _ _ => none
  | .bayResume _ _ => none
  | .bankHold _ _ => none
  | .droop _ _ _ => none
  | .bayLoad c => some (0x0200, c)
  | .bayStart c => some (0x0201, c)
  | .bayHold c => some (0x0202, c)
  | .bayRelease c => some (0x0203, c)
  | .bayStop c => some (0x0204, c)
  | .bayReconfigure c => some (0x0205, c)
  | .baySetPoint c => some (0x0206, c)
  | .railRaised _ _ => none
  | .pointStop _ _ => none
  | .relockEnd _ _ => none
  | .bayStatus c => some (0x0207, c)
  | .timeExchange c => some (0x0208, c)
  | .bayRemove c => some (0x0209, c)
  | .loadReportGet c => some (0x020A, c)
  | .hazardGet c => some (0x020B, c)
  | .stopCycle _ _ => none
  | .drainComplete _ _ => none
  | .drainOverrun _ _ => none
  | .faultHold _ _ => none
  | .bayHeldLong _ _ => none
  | .bayDone _ _ => none
  | .serviceRead _ _ _ => none
  | .serviceWrite _ _ _ => none
  | .ctrlPacket _ _ => none
  | .serviceResponse _ _ => none
  | .requestExpired _ _ _ _ => none
  | .hopReplay _ _ _ _ => none
  | .hopRetrain _ _ _ _ => none
  | .routeRewrite _ => none
  | .congestionSample _ _ _ _ => none
  | .congestionWindowEnd _ => none
  | .partitionCreate c => some (0x0300, c)
  | .partitionDestroy c => some (0x0301, c)
  | .partitionAdd c => some (0x0302, c)
  | .partitionRemove c => some (0x0303, c)
  | .windowSet c => some (0x0304, c)
  | .windowClear c => some (0x0304, c)
  | .memScrubSet c => some (0x0305, c)
  | .fabricMapGet c => some (0x0306, c)
  | .patrolScrub _ _ _ _ => none
  | .rowRetire _ _ _ => none
  | .embTableCreate c => some (0x0400, c)
  | .embTableDestroy c => some (0x0401, c)
  | .requestPortWrite _ _ => none
  | .lookupStart _ _ _ => none
  | .lookupResult _ _ _ => none
  | .embBatchOpen c => some (0x0402, c)
  | .embBatchClose c => some (0x0403, c)
  | .embBatchRelease _ _ _ => none
  | .embRebuildStart c => some (0x0404, c)
  | .rebuildRowWrite _ _ _ _ => none
  | .rebuildStarved _ _ _ => none
  | .embRebuildPause c => some (0x0405, c)
  | .embRebuildResume c => some (0x0405, c)
  | .embRebuildShare c => some (0x0405, c)
  | .embRebuildAbort c => some (0x0405, c)
  | .embCommit c => some (0x0406, c)
  | .embTableStatus c => some (0x0407, c)
  | .inflateRead _ _ _ => none
  | .pageSweep _ _ _ => none
  | .wstoreInstallBegin c => some (0x0500, c)
  | .wstoreInstallEnd c => some (0x0501, c)
  | .wstoreWrite c => some (0x0502, c)
  | .pageWrite _ _ => none
  | .wstoreStatus c => some (0x0503, c)
  | .wsetStage c => some (0x0504, c)
  | .wsetSwitch c => some (0x0505, c)
  | .wsetDiscard c => some (0x0506, c)
  | .wsetDiscardCurrent c => some (0x0506, c)
  | .wsetBatchOpen c => some (0x0507, c)
  | .wsetBatchClose c => some (0x0508, c)
  | .wsetGet c => some (0x0509, c)
  | .purlinSet c => some (0x050A, c)
  | .purlinSend c => some (0x050B, c)
  | .segmentReceive _ _ _ => none
  | .linkFlitReceive _ _ _ => none
  | .linkTraining _ _ _ => none
  | .linkRetrain _ _ _ => none
  | .linkPanelIdSet c => some (0x0600, c)
  | .partitionLinkSet c => some (0x0601, c)
  | .rankTableSet c => some (0x0602, c)
  | .transitSet c => some (0x0603, c)
  | .linkCtrl c => some (0x0604, c)
  | .linkStatus c => some (0x0605, c)
  | .linkEgressWrite _ _ _ => none
  | .linkAckArrival _ _ _ => none
  | .linkAckExpired _ _ _ => none
  | .linkPacketArrival _ _ _ => none
  | .reductionAdd _ _ => none
  | .hdmAccess _ _ _ => none
  | .biasSet c => some (0x0008, c)
  | .hostWindowSet c => some (0x0007, c)
  | .hostWindowClear c => some (0x0007, c)
  | .apertureAccess _ _ _ => none
  | .commit _ _ => none
  | .go _ _ => none
  | .done _ _ => none
  | .sqTail _ _ _ => none
  | .cqHead _ _ _ => none
  | .dbErrors _ => none
  | .hdmErrors _ => none
  | .apErrors _ => none
  | .registerWrite _ _ => none
  | .commandTake _ => none
  | .payloadTimeout _ => none
  | .queueCreate c => some (0x0003, c)
  | .queueDelete c => some (0x0004, c)
  | .version c => some (0x0002, c)
  | .identify c => some (0x0001, c)
  | .tokenSend c => some (0x0009, c)
  | .tokenSendDeliver _ _ _ => none
  | .tokenSendTimeout _ _ _ => none
  | .eventQueueSet c => some (0x0005, c)
  | .eventQueueClear c => some (0x0005, c)
  | .eventAck c => some (0x0006, c)
  | .hostPortReset _ _ => none
  | .perstDeassert _ _ => none
  | .prepareRemoval c => some (0x000A, c)
  | .watchdogExpiry _ _ => none
  | .fwRestart _ _ => none
  | .fwWaitExpired _ _ => none
  | .fwProcRestart c => some (0x0703, c)
  | .fwStatus c => some (0x0702, c)
  | .fwBundleStage c => some (0x0700, c)
  | .fwBundleApply c => some (0x0701, c)
  | .microcodeLoad _ _ => none
  | .kingPostLossTrip _ => none
  | .powerGood _ _ => none
  | .bringupStep _ _ => none
  | .bringupDeadline _ _ => none
  | .resetCore c => some (0x0704, c)
  | .resetDie c => some (0x0704, c)
  | .dieResetComplete _ _ _ => none
  | .resetPartition c => some (0x0704, c)
  | .partitionResetDiscard _ _ => none
  | .resetPanelWarm c => some (0x0704, c)
  | .resetPanelCold c => some (0x0704, c)
  | .siteOn c => some (0x0800, c)
  | .powerOnBegin _ _ => none
  | .powerOnTimeout _ _ => none
  | .siteOnComplete _ _ _ => none
  | .siteOff c => some (0x0800, c)
  | .selfRefreshEnter c => some (0x0800, c)
  | .selfRefreshExit c => some (0x0800, c)
  | .lanes c => some (0x0800, c)
  | .quadrantOn c => some (0x0800, c)
  | .powerStatus c => some (0x0801, c)
  | .ceilingSet c => some (0x0802, c)
  | .powerTick _ _ => none
  | .inputTrip _ _ _ => none
  | .inputRange _ _ => none
  | .phaseLost _ _ _ _ => none
  | .domainDark _ _ _ _ => none
  | .siteTrip _ _ _ _ => none
  | .quadrantTrip _ _ _ _ => none
  | .sensorRetired _ _ _ _ _ => none
  | .pathEstimate _ _ _ _ => none
  | .limiterDemand _ _ _ _ => none
  | .quadrantLimit _ _ _ => none
  | .panelLimit _ _ => none
  | .limitLong _ _ => none
  | .boostConditionLost _ _ => none
  | .flowSample _ _ _ => none
  | .flowPeriod _ _ => none
  | .flowStopCleared _ => none
  | .flowDisagree _ => none
  | .diodeSample _ _ _ _ => none
  | .diodeDisagree _ _ => none
  | .coolantTemp _ _ => none
  | .strainHigh _ _ _ => none
  | .coolingStatus c => some (0x0900, c)
  | .statusPoll _ _ _ => none
  | .errorLogGet c => some (0x0A00, c)
  | .wearGet c => some (0x0A01, c)
  | .wearDecay _ => none
  | .inject c => some (0x0A02, c)
  | .injectCancel c => some (0x0A02, c)
  | .injectExpiry _ => none
  | .discover _ _ _ => none
  | .command _ _ _ => none
  | .mgmtSegment _ _ _ => none
  | .mgmtDrops _ _ => none
  | .mgmtKeySetManagement c => some (0x0B00, c)
  | .mgmtKeySetWeight c => some (0x0B00, c)
  | .attestQuote c => some (0x0B01, c)
  | .certGet c => some (0x0B02, c)
  | .inputSwitchClose _ _ => none
  | .presenceLost _ => none
  | .processorFault _ _ => none
  | .scheduledScrub _ _ _ _ => none
  | .linkBufferSample _ _ _ => none
  | .alertRepeat _ => none
  | .neighborSolicitation _ _ _ => none
  | .cxlL2Change _ _ => none

/-- Firmware can take the command, it has the opcode, and it passes the common checks of Table 15-14 with the payload. -/
def Accepted (op : Nat) (c : Cmd) (pay : List Byte) (s : State) : Prop :=
  cmdOp c = op ∧ canTake c s = true ∧ commonChecks c (takeCmd c s) = (stOk, pay)

/-- Host memory answers an access to an output buffer, where the command has one there: over Jexeri-M the output goes into the
RESPONSE. -/
def BufferAnswers (c : Cmd) (a n : Nat) (s : State) : Prop := isMgmt c = true ∨ hostAnswer s a n = none

/-- The bytes stand where the command's output goes: in host memory, or in the RESPONSE that waits for the completion. -/
def OutputIs (c : Cmd) (a : Nat) (bs : List Byte) (t : State) : Prop :=
  if isMgmt c then (takenOf c t).map (fun x => x.out) = some bs else hostRead t a bs.length = bs

end Sys2Proof
end

