-- ==== Sys2Proof/Changes.lean ====
section
/-! DEFINITION. Which parts of the state each command may change: the frame of every row of the table. -/

namespace Sys2Proof

/-- The parts of the state that a command may change. A command of the host may raise events, which reach the event queue, host
memory and what processors hold back, and may have its own completion written. -/
def mayChange (i : Instr) : List StatePart :=
  match i with
  | .floorplanGet .. | .loadReportGet .. | .fabricMapGet .. | .wstoreStatus .. | .wsetGet .. | .linkStatus ..
    | .queueCreate .. | .queueDelete .. | .version .. | .identify .. | .tokenSendTimeout .. | .fwStatus ..
    | .wearGet .. | .attestQuote .. | .certGet .. =>
    [.now, .host, .inProgress, .mgmt, .hostMem]
  | .siteFence .. | .siteUnfence .. | .siteUnfenceDefault .. =>
    [.now, .fp, .host, .inProgress, .mgmt, .ev, .fw, .hostMem, .bootGeneration, .bootFences]
  | .siteRetestComplete .. =>
    [.now, .fp, .host, .inProgress, .mgmt, .ev, .fw, .err, .hostMem, .bootGeneration, .bootFailures, .bootLog]
  | .matrixStep .. | .vectorChain .. | .scanCall .. | .accessEnq .. | .send .. | .receive .. | .cload ..
    | .cstep .. | .cloop .. | .ctest .. | .produce .. | .consume .. | .pegPage .. | .epochMark .. =>
    [.host, .ev, .fw, .err, .bays, .cores, .xings, .hostMem, .bootLog]
  | .descriptorStart .. =>
    [.now, .host, .ev, .fw, .err, .fab, .bays, .cores, .hostMem, .bootLog]
  | .burstResponse .. =>
    [.freeCtr, .now, .host, .ev, .fw, .err, .fab, .bays, .cores, .hostMem, .bootLog]
  | .operandRelease .. | .tileInQueue .. | .vectorInputConsume .. | .vectorOutputFull .. | .scanInputEmpty ..
    | .scanOutputFull .. | .sendTagEmpty .. | .receiveTagFull .. | .checkAhead .. | .pegCheck .. | .bankHold .. =>
    [.bays, .cores, .xings]
  | .matrixStepStart .. | .bankComplete .. | .vectorChainStart .. | .scanCallStart .. | .pegEntry .. =>
    [.freeCtr, .host, .ev, .fw, .err, .bays, .cores, .xings, .hostMem, .bootLog]
  | .crossingEntry .. =>
    [.now, .host, .ev, .fw, .err, .bays, .cores, .xings, .hostMem, .bootLog]
  | .railRaised .. | .pointStop .. =>
    [.now, .bays]
  | .descriptorComplete .. | .creditReturn .. | .bayFreeze .. | .bayResume .. =>
    [.now, .bays, .cores, .xings]
  | .droop .. =>
    [.bays]
  | .bayLoad .. | .bayReconfigure .. =>
    [.freeCtr, .now, .fp, .host, .inProgress, .mgmt, .measure, .ev, .parts, .fw, .err, .installs, .fab, .bufs,
     .engines, .links, .mem, .bays, .cores, .xings, .hostMem, .bootGeneration, .bootFailures, .bootLog]
  | .bayStart .. =>
    [.now, .host, .inProgress, .mgmt, .fw, .bays, .cores, .hostMem]
  | .bayHold .. | .bayRelease .. | .bayStop .. | .baySetPoint .. | .hazardGet .. =>
    [.now, .host, .inProgress, .mgmt, .fw, .bays, .hostMem]
  | .faultHold .. | .bayDone .. =>
    [.now, .host, .inProgress, .mgmt, .ev, .fw, .bays, .cores, .hostMem]
  | .bayStatus .. =>
    [.now, .host, .inProgress, .mgmt, .fw, .cores, .hostMem]
  | .timeExchange .. | .embTableStatus .. | .fwWaitExpired .. | .powerStatus .. | .coolingStatus .. =>
    [.now, .host, .inProgress, .mgmt, .fw, .hostMem]
  | .bayRemove .. =>
    [.now, .host, .inProgress, .mgmt, .fw, .bays, .cores, .xings, .hostMem]
  | .stopCycle .. =>
    [.now, .host, .inProgress, .mgmt, .bays, .cores, .xings, .hostMem]
  | .bayHeldLong .. | .boostConditionLost .. =>
    [.now, .host, .ev, .fw, .bays, .hostMem]
  | .serviceRead .. | .serviceWrite .. | .requestPortWrite .. | .rebuildRowWrite .. | .inflateRead ..
    | .linkEgressWrite .. | .hdmAccess .. | .apertureAccess .. =>
    [.freeCtr, .now, .host, .ev, .fw, .err, .fab, .hbms, .bufs, .engines, .links, .mem, .cores, .hostMem, .bootLog,
     .bootStore, .bootStoreMem]
  | .ctrlPacket .. =>
    [.now, .err, .fab, .bootLog]
  | .requestExpired .. =>
    [.now, .host, .ev, .fw, .fab, .engines, .links, .cores, .hostMem]
  | .hopRetrain .. =>
    [.now, .host, .ev, .fw, .err, .fab, .hostMem, .bootLog]
  | .routeRewrite .. | .congestionSample .. =>
    [.now, .fab]
  | .congestionWindowEnd .. | .linkAckArrival .. | .linkAckExpired .. =>
    [.now, .fab, .links]
  | .partitionCreate .. | .partitionDestroy .. | .windowSet .. | .windowClear .. | .embBatchClose ..
    | .embBatchRelease .. | .wsetStage .. | .wsetBatchOpen .. | .partitionLinkSet .. | .rankTableSet ..
    | .hostWindowSet .. | .hostWindowClear .. =>
    [.now, .host, .inProgress, .mgmt, .parts, .hostMem]
  | .partitionAdd .. =>
    [.now, .fp, .host, .inProgress, .mgmt, .ev, .parts, .fw, .hbms, .bufs, .mem, .hostMem, .bootGeneration]
  | .partitionRemove .. =>
    [.now, .fp, .host, .inProgress, .mgmt, .ev, .fw, .hostMem, .bootGeneration]
  | .memScrubSet .. =>
    [.now, .host, .inProgress, .mgmt, .hbms, .hostMem]
  | .patrolScrub .. | .pageSweep .. | .scheduledScrub .. =>
    [.now, .host, .ev, .fw, .err, .hbms, .bufs, .cores, .hostMem, .bootLog, .bootStore]
  | .rowRetire .. =>
    [.now, .host, .ev, .fw, .hbms, .hostMem]
  | .embTableCreate .. | .embTableDestroy .. | .embRebuildStart .. | .embRebuildPause .. | .embRebuildResume ..
    | .embRebuildShare .. | .embRebuildAbort .. | .embCommit .. =>
    [.now, .host, .inProgress, .mgmt, .fw, .engines, .hostMem]
  | .lookupStart .. =>
    [.freeCtr, .now, .host, .ev, .fw, .err, .fab, .hbms, .bufs, .engines, .links, .mem, .bays, .cores, .hostMem,
     .bootLog, .bootStore, .bootStoreMem]
  | .lookupResult .. =>
    [.now, .fab, .engines]
  | .rebuildStarved .. =>
    [.now, .host, .ev, .fw, .engines, .hostMem]
  | .wstoreInstallBegin .. | .wstoreInstallEnd .. =>
    [.now, .host, .inProgress, .mgmt, .install, .hostMem]
  | .wstoreWrite .. =>
    [.now, .host, .inProgress, .mgmt, .installs, .hostMem]
  | .pageWrite .. =>
    [.freeCtr, .now, .host, .inProgress, .mgmt, .measure, .ev, .parts, .fw, .err, .installs, .hbms, .bufs, .links,
     .cores, .hostMem, .bootLog, .bootStore, .bootStoreMem]
  | .wsetSwitch .. | .wsetDiscard .. | .wsetDiscardCurrent .. | .wsetBatchClose .. =>
    [.now, .host, .inProgress, .mgmt, .ev, .parts, .fw, .hostMem]
  | .purlinSet .. =>
    [.now, .host, .inProgress, .mgmt, .measure, .ev, .parts, .fw, .installs, .hostMem]
  | .purlinSend .. | .segmentReceive .. | .linkFlitReceive .. | .linkPacketArrival .. =>
    [.freeCtr, .now, .host, .inProgress, .mgmt, .measure, .ev, .parts, .fw, .err, .installs, .fab, .hbms, .bufs,
     .engines, .links, .mem, .cores, .hostMem, .bootLog, .bootStore, .bootStoreMem]
  | .linkPanelIdSet .. | .transitSet .. =>
    [.now, .host, .inProgress, .mgmt, .links, .hostMem]
  | .linkCtrl .. =>
    [.now, .host, .inProgress, .mgmt, .fw, .links, .hostMem]
  | .biasSet .. =>
    [.freeCtr, .now, .host, .inProgress, .mgmt, .ev, .fw, .err, .fab, .hbms, .bufs, .engines, .links, .mem, .cores,
     .hostMem, .bootLog, .bootStore, .bootStoreMem]
  | .commit .. | .done .. | .dbErrors .. | .hdmErrors .. | .apErrors .. | .registerWrite .. | .perstDeassert ..
    | .cxlL2Change .. =>
    [.now, .host]
  | .go .. | .commandTake .. | .payloadTimeout .. | .fwRestart .. | .dieResetComplete .. | .command .. =>
    [.freeCtr, .now, .fp, .host, .inProgress, .mgmt, .measure, .ev, .parts, .pwr, .fw, .err, .cool, .install,
     .installs, .fab, .hbms, .bufs, .engines, .links, .mem, .bays, .cores, .xings, .hostMem, .bootGeneration,
     .bootFences, .bootFailures, .bootLog, .bootWear, .bootBanks, .bootStore, .bootStoreMem, .bootSecFuses,
     .bootKeys, .bootHwm]
  | .sqTail .. | .cqHead .. =>
    [.now, .host, .hostMem]
  | .tokenSend .. | .tokenSendDeliver .. =>
    [.now, .host, .inProgress, .mgmt, .cores, .hostMem]
  | .eventQueueSet .. | .eventQueueClear .. | .eventAck .. =>
    [.now, .host, .inProgress, .mgmt, .ev, .hostMem]
  | .hostPortReset .. =>
    [.now, .host, .inProgress, .ev, .parts]
  | .prepareRemoval .. =>
    [.now, .fp, .host, .inProgress, .mgmt, .measure, .ev, .parts, .pwr, .fw, .err, .install, .installs, .fab, .hbms,
     .bufs, .engines, .links, .mem, .bays, .cores, .hostMem, .bootGeneration, .bootWear]
  | .fwBundleStage .. =>
    [.now, .host, .inProgress, .mgmt, .measure, .ev, .fw, .hostMem, .bootBanks, .bootSecFuses]
  | .microcodeLoad .. =>
    [.now, .fp, .host, .ev, .fw, .err, .cores, .hostMem, .bootGeneration, .bootFailures, .bootLog]
  | .kingPostLossTrip .. =>
    [.now, .fp, .host, .inProgress, .mgmt, .measure, .ev, .parts, .pwr, .fw, .err, .installs, .fab, .hbms, .bufs,
     .engines, .links, .mem, .bays, .cores, .hostMem, .bootGeneration, .bootLog]
  | .powerGood .. =>
    [.clock, .freeCtr, .now, .fp, .host, .inProgress, .mgmt, .measure, .ev, .parts, .pwr, .fw, .err, .cool, .install,
     .installs, .fab, .hbms, .bufs, .engines, .links, .mem, .bays, .cores, .xings, .hostMem, .bootCount, .bootBanks]
  | .bringupStep .. =>
    [.now, .fp, .host, .inProgress, .mgmt, .ev, .parts, .pwr, .fw, .err, .fab, .links, .cores, .hostMem,
     .bootGeneration, .bootFailures, .bootLog, .bootTrip, .bootStore]
  | .bringupDeadline .. =>
    [.freeCtr, .now, .fp, .host, .inProgress, .mgmt, .measure, .ev, .parts, .pwr, .fw, .err, .installs, .fab, .links,
     .cores, .hostMem, .bootGeneration, .bootFailures, .bootLog, .bootTrip, .bootStore]
  | .drainComplete .. | .drainOverrun .. | .resetCore .. | .resetDie .. | .resetPartition ..
    | .partitionResetDiscard .. | .resetPanelWarm .. | .resetPanelCold .. =>
    [.freeCtr, .now, .fp, .host, .inProgress, .mgmt, .measure, .ev, .parts, .pwr, .fw, .err, .install, .installs,
     .fab, .hbms, .bufs, .engines, .links, .mem, .bays, .cores, .xings, .hostMem, .bootGeneration, .bootFailures,
     .bootLog, .bootWear]
  | .siteOn .. | .siteOff .. | .selfRefreshEnter .. | .selfRefreshExit .. | .lanes .. | .quadrantOn .. =>
    [.now, .fp, .host, .inProgress, .mgmt, .measure, .ev, .parts, .pwr, .fw, .err, .cool, .installs, .fab, .hbms,
     .bufs, .engines, .links, .mem, .cores, .hostMem, .bootGeneration]
  | .powerOnTimeout .. =>
    [.now, .host, .inProgress, .mgmt, .pwr, .hostMem]
  | .siteOnComplete .. =>
    [.now, .fp, .host, .inProgress, .mgmt, .ev, .parts, .pwr, .fw, .err, .links, .cores, .hostMem, .bootGeneration,
     .bootFailures, .bootLog]
  | .powerTick .. | .inputSwitchClose .. =>
    [.now, .pwr]
  | .inputTrip .. =>
    [.clock, .now, .fp, .host, .inProgress, .mgmt, .measure, .ev, .parts, .pwr, .fw, .err, .cool, .install,
     .installs, .fab, .hbms, .bufs, .engines, .links, .mem, .bays, .cores, .xings, .hostMem, .bootLog, .bootTrip]
  | .inputRange .. | .limitLong .. =>
    [.now, .host, .ev, .pwr, .fw, .hostMem]
  | .pathEstimate .. =>
    [.now, .host, .ev, .pwr, .fw, .err, .hostMem, .bootLog]
  | .domainDark .. | .siteTrip .. | .quadrantTrip .. | .sensorRetired .. =>
    [.now, .fp, .host, .inProgress, .mgmt, .measure, .ev, .parts, .pwr, .fw, .err, .installs, .fab, .hbms, .bufs,
     .engines, .links, .mem, .bays, .cores, .hostMem, .bootGeneration, .bootFailures, .bootLog]
  | .flowSample .. =>
    [.now, .fp, .host, .inProgress, .mgmt, .measure, .ev, .parts, .pwr, .fw, .err, .cool, .installs, .fab, .hbms,
     .bufs, .engines, .links, .mem, .bays, .cores, .hostMem, .bootGeneration, .bootLog]
  | .flowPeriod .. =>
    [.now, .host, .inProgress, .mgmt, .ev, .pwr, .fw, .err, .cool, .hostMem, .bootLog]
  | .flowStopCleared .. =>
    [.now, .host, .inProgress, .mgmt, .ev, .pwr, .fw, .cool, .hostMem]
  | .flowDisagree .. | .diodeDisagree .. =>
    [.now, .host, .ev, .fw, .err, .cool, .hostMem, .bootLog]
  | .diodeSample .. =>
    [.now, .fp, .host, .inProgress, .mgmt, .measure, .ev, .parts, .pwr, .fw, .err, .cool, .installs, .fab, .hbms,
     .bufs, .engines, .links, .mem, .bays, .cores, .hostMem, .bootGeneration, .bootFailures, .bootLog]
  | .statusPoll .. =>
    [.now, .fp, .host, .ev, .fw, .err, .bays, .cores, .hostMem, .bootGeneration, .bootFailures, .bootLog]
  | .errorLogGet .. =>
    [.freeCtr, .now, .host, .inProgress, .mgmt, .hostMem]
  | .wearDecay .. =>
    [.now, .host, .ev, .fw, .err, .hostMem, .bootLog, .bootWear]
  | .inject .. | .injectCancel .. =>
    [.now, .host, .inProgress, .mgmt, .err, .hostMem]
  | .injectExpiry .. =>
    [.now, .host, .ev, .fw, .err, .hostMem]
  | .discover .. | .alertRepeat .. | .neighborSolicitation .. =>
    [.now, .mgmt]
  | .mgmtSegment .. | .mgmtDrops .. =>
    [.now, .host, .mgmt, .ev, .fw, .hostMem]
  | .mgmtKeySetManagement .. | .mgmtKeySetWeight .. =>
    [.now, .host, .inProgress, .mgmt, .measure, .ev, .fw, .hostMem, .bootKeys, .bootHwm]
  | .presenceLost .. =>
    [.clock, .now, .fp, .host, .inProgress, .mgmt, .measure, .ev, .parts, .pwr, .fw, .err, .cool, .install,
     .installs, .fab, .hbms, .bufs, .engines, .links, .mem, .bays, .cores, .xings]
  | .linkRetrain .. | .linkBufferSample .. =>
    [.now, .links]
  | .siteRetest .. =>
    [.now, .fp, .host, .inProgress, .mgmt, .fw, .hostMem]
  | .remoteScratchpadWrite .. =>
    [.freeCtr, .now, .host, .ev, .fw, .err, .fab, .hbms, .bufs, .mem, .bays, .cores, .xings, .hostMem, .bootLog,
     .bootStore, .bootStoreMem]
  | .relockEnd .. =>
    [.now, .host, .inProgress, .mgmt, .ev, .fw, .bays, .cores, .xings, .hostMem]
  | .serviceResponse .. =>
    [.freeCtr, .now, .host, .ev, .fw, .fab, .engines, .links, .cores, .hostMem]
  | .hopReplay .. =>
    [.now, .host, .ev, .fw, .err, .fab, .links, .hostMem, .bootLog]
  | .embBatchOpen .. =>
    [.now, .host, .inProgress, .mgmt, .parts, .fw, .hostMem]
  | .linkTraining .. =>
    [.freeCtr, .now, .fp, .host, .inProgress, .mgmt, .measure, .ev, .parts, .fw, .err, .installs, .fab, .hbms, .bufs,
     .engines, .links, .mem, .cores, .hostMem, .bootGeneration, .bootLog, .bootStore, .bootStoreMem]
  | .reductionAdd .. =>
    [.freeCtr, .now, .host, .ev, .fw, .err, .fab, .hbms, .bufs, .engines, .links, .mem, .bays, .cores, .xings,
     .hostMem, .bootLog, .bootStore, .bootStoreMem]
  | .watchdogExpiry .. | .processorFault .. =>
    [.now, .fp, .host, .inProgress, .mgmt, .measure, .ev, .pwr, .fw, .err, .installs, .links, .hostMem, .bootLog,
     .bootWear]
  | .fwProcRestart .. =>
    [.now, .fp, .host, .inProgress, .mgmt, .measure, .ev, .pwr, .fw, .err, .installs, .links, .hostMem, .bootLog]
  | .fwBundleApply .. =>
    [.now, .fp, .host, .inProgress, .mgmt, .measure, .ev, .pwr, .fw, .err, .installs, .links, .hostMem, .bootLog,
     .bootBanks]
  | .powerOnBegin .. =>
    [.now, .fp, .host, .inProgress, .mgmt, .measure, .ev, .parts, .pwr, .fw, .cool, .installs, .fab, .hbms, .links,
     .hostMem, .bootGeneration]
  | .ceilingSet .. =>
    [.now, .host, .inProgress, .mgmt, .pwr, .fw, .bays, .hostMem]
  | .phaseLost .. =>
    [.now, .host, .ev, .pwr, .fw, .err, .bays, .hostMem, .bootLog]
  | .limiterDemand .. | .quadrantLimit .. | .panelLimit .. =>
    [.now, .pwr, .bays]
  | .coolantTemp .. =>
    [.now, .host, .ev, .fw, .cool, .bays, .hostMem]
  | .strainHigh .. =>
    [.now, .fp, .host, .ev, .fw, .cool, .hostMem, .bootGeneration]

end Sys2Proof
end

