-- ==== Sys2Proof/WellFormed.lean ====
section
/-! DEFINITION. Which commands are commands of their kind: the opcode of an entry or of a packet is that of its row, and the
lengths, widths and codes of an operand are ones that the hardware can meet. -/

namespace Sys2Proof

open Machine

/-- Whether a command's operands are operands of its kind. Every meaning faults on any others. -/
def Instr.wf (i : Instr) : Bool :=
  match i with
  | .floorplanGet c => cmdOp c == 0x0100
  | .siteFence c => cmdOp c == 0x0101
  | .siteUnfence c => cmdOp c == 0x0102
  | .siteUnfenceDefault c => cmdOp c == 0x0102
  | .siteRetest c => cmdOp c == 0x0103
  | .siteRetestComplete _ _ _ => true
  | .matrixStep _ _ => true
  | .matrixStepStart _ _ => true
  | .operandRelease _ _ => true
  | .bankComplete _ _ => true
  | .tileInQueue _ _ => true
  | .vectorChain _ _ => true
  | .vectorChainStart _ _ => true
  | .vectorInputConsume _ _ => true
  | .vectorOutputFull _ _ => true
  | .scanCall _ _ => true
  | .scanCallStart _ _ => true
  | .scanInputEmpty _ _ => true
  | .scanOutputFull _ _ => true
  | .accessEnq _ _ => true
  | .descriptorStart _ _ => true
  | .burstResponse _ _ _ => true
  | .descriptorComplete _ _ => true
  | .remoteScratchpadWrite _ _ => true
  | .send _ _ => true
  | .sendTagEmpty _ _ => true
  | .receive _ _ => true
  | .receiveTagFull _ _ => true
  | .cload _ _ => true
  | .cstep _ _ => true
  | .cloop _ _ => true
  | .ctest _ _ => true
  | .produce _ _ => true
  | .consume _ _ => true
  | .pegPage _ _ => true
  | .epochMark _ _ => true
  | .checkAhead _ _ => true
  | .pegEntry _ _ => true
  | .pegCheck _ _ => true
  | .crossingEntry _ _ _ => true
  | .creditReturn _ _ _ => true
  | .bayFreeze _ _ => true
  | .bayResume _ _ => true
  | .bankHold _ _ => true
  | .droop _ _ _ => true
  | .bayLoad c => cmdOp c == 0x0200
  | .bayStart c => cmdOp c == 0x0201
  | .bayHold c => cmdOp c == 0x0202
  | .bayRelease c => cmdOp c == 0x0203
  | .bayStop c => cmdOp c == 0x0204
  | .bayReconfigure c => cmdOp c == 0x0205
  | .baySetPoint c => cmdOp c == 0x0206
  | .railRaised _ _ => true
  | .pointStop _ _ => true
  | .relockEnd _ _ => true
  | .bayStatus c => cmdOp c == 0x0207
  | .timeExchange c => cmdOp c == 0x0208
  | .bayRemove c => cmdOp c == 0x0209
  | .loadReportGet c => cmdOp c == 0x020A
  | .hazardGet c => cmdOp c == 0x020B
  | .stopCycle _ _ => true
  | .drainComplete _ _ => true
  | .drainOverrun _ _ => true
  | .faultHold _ _ => true
  | .bayHeldLong _ _ => true
  | .bayDone _ _ => true
  | .serviceRead q _ _ => !(decide (2 ≤ opcodeOf q) && decide (opcodeOf q ≤ 6))
  | .serviceWrite q _ _ => opcodeOf q == 2 && dataFits q
  | .ctrlPacket q _ => opcodeOf q == 6 && dataFits q
  | .serviceResponse q _ => decide (3 ≤ opcodeOf q) && decide (opcodeOf q ≤ 5)
  | .requestExpired _ _ _ _ => true
  | .hopReplay _ _ _ _ => true
  | .hopRetrain _ _ _ _ => true
  | .routeRewrite _ => true
  | .congestionSample _ fills waits _ => sampleFormOk fills waits
  | .congestionWindowEnd _ => true
  | .partitionCreate c => cmdOp c == 0x0300
  | .partitionDestroy c => cmdOp c == 0x0301
  | .partitionAdd c => cmdOp c == 0x0302
  | .partitionRemove c => cmdOp c == 0x0303
  | .windowSet c => cmdOp c == 0x0304
  | .windowClear c => cmdOp c == 0x0304
  | .memScrubSet c => cmdOp c == 0x0305
  | .fabricMapGet c => cmdOp c == 0x0306
  | .patrolScrub _ _ _ _ => true
  | .rowRetire _ _ _ => true
  | .embTableCreate c => cmdOp c == 0x0400
  | .embTableDestroy c => cmdOp c == 0x0401
  | .requestPortWrite q _ => opcodeOf q == 2 && dataFits q
  | .lookupStart _ _ _ => true
  | .lookupResult _ _ _ => true
  | .embBatchOpen c => cmdOp c == 0x0402
  | .embBatchClose c => cmdOp c == 0x0403
  | .embBatchRelease _ _ _ => true
  | .embRebuildStart c => cmdOp c == 0x0404
  | .rebuildRowWrite _ _ _ _ => true
  | .rebuildStarved _ _ _ => true
  | .embRebuildPause c => cmdOp c == 0x0405
  | .embRebuildResume c => cmdOp c == 0x0405
  | .embRebuildShare c => cmdOp c == 0x0405
  | .embRebuildAbort c => cmdOp c == 0x0405
  | .embCommit c => cmdOp c == 0x0406
  | .embTableStatus c => cmdOp c == 0x0407
  | .inflateRead q _ _ => opcodeOf q == 1
  | .pageSweep _ _ _ => true
  | .wstoreInstallBegin c => cmdOp c == 0x0500
  | .wstoreInstallEnd c => cmdOp c == 0x0501
  | .wstoreWrite c => cmdOp c == 0x0502
  | .pageWrite _ _ => true
  | .wstoreStatus c => cmdOp c == 0x0503
  | .wsetStage c => cmdOp c == 0x0504
  | .wsetSwitch c => cmdOp c == 0x0505
  | .wsetDiscard c => cmdOp c == 0x0506
  | .wsetDiscardCurrent c => cmdOp c == 0x0506
  | .wsetBatchOpen c => cmdOp c == 0x0507
  | .wsetBatchClose c => cmdOp c == 0x0508
  | .wsetGet c => cmdOp c == 0x0509
  | .purlinSet c => cmdOp c == 0x050A
  | .purlinSend c => cmdOp c == 0x050B
  | .segmentReceive _ _ _ => true
  | .linkFlitReceive _ f _ => f.bytes.length == 256
  | .linkTraining _ _ _ => true
  | .linkRetrain _ _ _ => true
  | .linkPanelIdSet c => cmdOp c == 0x0600
  | .partitionLinkSet c => cmdOp c == 0x0601
  | .rankTableSet c => cmdOp c == 0x0602
  | .transitSet c => cmdOp c == 0x0603
  | .linkCtrl c => cmdOp c == 0x0604
  | .linkStatus c => cmdOp c == 0x0605
  | .linkEgressWrite q _ _ => opcodeOf q == 2 && dataFits q
  | .linkAckArrival _ q _ => q.kind == 2
  | .linkAckExpired _ _ _ => true
  | .linkPacketArrival _ _ _ => true
  | .reductionAdd _ _ => true
  | .hdmAccess a _ _ => hdmFormOk a
  | .biasSet c => cmdOp c == 0x0008
  | .hostWindowSet c => cmdOp c == 0x0007
  | .hostWindowClear c => cmdOp c == 0x0007
  | .apertureAccess a _ _ => barFormOk a
  | .commit _ _ => true
  | .go _ _ => true
  | .done _ _ => true
  | .sqTail _ _ _ => true
  | .cqHead _ _ _ => true
  | .dbErrors _ => true
  | .hdmErrors _ => true
  | .apErrors _ => true
  | .registerWrite a _ => regFormOk a
  | .commandTake _ => true
  | .payloadTimeout _ => true
  | .queueCreate c => cmdOp c == 0x0003
  | .queueDelete c => cmdOp c == 0x0004
  | .version c => cmdOp c == 0x0002
  | .identify c => cmdOp c == 0x0001
  | .tokenSend c => cmdOp c == 0x0009
  | .tokenSendDeliver _ _ _ => true
  | .tokenSendTimeout _ _ _ => true
  | .eventQueueSet c => cmdOp c == 0x0005
  | .eventQueueClear c => cmdOp c == 0x0005
  | .eventAck c => cmdOp c == 0x0006
  | .hostPortReset _ _ => true
  | .perstDeassert m _ => modeFormOk m
  | .prepareRemoval c => cmdOp c == 0x000A
  | .watchdogExpiry _ _ => true
  | .fwRestart _ _ => true
  | .fwWaitExpired _ _ => true
  | .fwProcRestart c => cmdOp c == 0x0703
  | .fwStatus c => cmdOp c == 0x0702
  | .fwBundleStage c => cmdOp c == 0x0700
  | .fwBundleApply c => cmdOp c == 0x0701
  | .microcodeLoad _ _ => true
  | .kingPostLossTrip _ => true
  | .powerGood _ _ => true
  | .bringupStep _ _ => true
  | .bringupDeadline _ _ => true
  | .resetCore c => cmdOp c == 0x0704
  | .resetDie c => cmdOp c == 0x0704
  | .dieResetComplete _ _ _ => true
  | .resetPartition c => cmdOp c == 0x0704
  | .partitionResetDiscard _ _ => true
  | .resetPanelWarm c => cmdOp c == 0x0704
  | .resetPanelCold c => cmdOp c == 0x0704
  | .siteOn c => cmdOp c == 0x0800
  | .powerOnBegin _ _ => true
  | .powerOnTimeout _ _ => true
  | .siteOnComplete _ _ _ => true
  | .siteOff c => cmdOp c == 0x0800
  | .selfRefreshEnter c => cmdOp c == 0x0800
  | .selfRefreshExit c => cmdOp c == 0x0800
  | .lanes c => cmdOp c == 0x0800
  | .quadrantOn c => cmdOp c == 0x0800
  | .powerStatus c => cmdOp c == 0x0801
  | .ceilingSet c => cmdOp c == 0x0802
  | .powerTick _ _ => true
  | .inputTrip _ _ _ => true
  | .inputRange _ _ => true
  | .phaseLost _ _ _ _ => true
  | .domainDark _ _ _ _ => true
  | .siteTrip _ _ _ _ => true
  | .quadrantTrip _ _ _ _ => true
  | .sensorRetired _ _ _ _ _ => true
  | .pathEstimate _ _ _ _ => true
  | .limiterDemand _ _ _ _ => true
  | .quadrantLimit _ _ _ => true
  | .panelLimit _ _ => true
  | .limitLong _ _ => true
  | .boostConditionLost _ _ => true
  | .flowSample _ _ _ => true
  | .flowPeriod _ _ => true
  | .flowStopCleared _ => true
  | .flowDisagree _ => true
  | .diodeSample _ _ _ _ => true
  | .diodeDisagree _ _ => true
  | .coolantTemp _ _ => true
  | .strainHigh _ _ _ => true
  | .coolingStatus c => cmdOp c == 0x0900
  | .statusPoll _ _ _ => true
  | .errorLogGet c => cmdOp c == 0x0A00
  | .wearGet c => cmdOp c == 0x0A01
  | .wearDecay _ => true
  | .inject c => cmdOp c == 0x0A02
  | .injectCancel c => cmdOp c == 0x0A02
  | .injectExpiry _ => true
  | .discover _ _ _ => true
  | .command _ _ _ => true
  | .mgmtSegment _ _ _ => true
  | .mgmtDrops _ _ => true
  | .mgmtKeySetManagement c => cmdOp c == 0x0B00
  | .mgmtKeySetWeight c => cmdOp c == 0x0B00
  | .attestQuote c => cmdOp c == 0x0B01
  | .certGet c => cmdOp c == 0x0B02
  | .inputSwitchClose _ _ => true
  | .presenceLost _ => true
  | .processorFault _ _ => true
  | .scheduledScrub _ _ _ _ => true
  | .linkBufferSample _ n _ => decide (n ≤ 1024)
  | .alertRepeat _ => true
  | .neighborSolicitation _ _ _ => true
  | .cxlL2Change _ _ => true

end Sys2Proof
end

