-- ==== Sys2Proof/Certificates/Slice0/Obligations.lean ====
section
/-! DEFINITION. The statements for the provers. -/

open Sys2Proof Sys2Proof.Machine

/-- From `s` to `u` the event is raised and no other: the event queue, host memory and what the processors hold back are as
raising it leaves them. -/
def Sys2Proof.Raises (e : EventRec) (s u : State) : Prop :=
  ∃ v : State, v.ev = s.ev ∧ v.host = s.host ∧ v.hostMem = s.hostMem ∧ v.fw = s.fw ∧ v.now = u.now
    ∧ u.ev = (raise1 e v).ev ∧ u.hostMem = (raise1 e v).hostMem ∧ u.fw.latched = (raise1 e v).fw.latched

/-! ## The queue and the machine as a whole -/

/-- The command at the front of the queue runs on the state with the rest of the queue; with no command waiting the block idles
(the idle step is the model's choice, log entry 1). -/
def Obligations.StepRunsTheFront : Prop :=
  (∀ (c : Instr) (q : List Instr) (s : State), step { s with pending := c :: q } = exec c { s with pending := q })
    ∧ ∀ s : State, step { s with pending := [] } = .next { s with pending := [] }

/-- The fields of a BAY_LOAD payload are in order and its image is in host memory, which answers. -/
def Sys2Proof.LoadTakes (c : Cmd) (pay : List Byte) (s : State) : Prop :=
  Accepted 0x0200 c pay s ∧ pay.length = 24 ∧ 64 ≤ leAt pay 8 4 ∧ leAt pay 0xC 1 ≤ 1 ∧ zeroAt pay 0xD 3 = true
    ∧ zeroAt pay 0x14 4 = true ∧ hostAnswer (takeCmd c s) (leAt pay 0 8) (leAt pay 8 4) = none

/-- The cores of an image have nothing to retest, hold the active microcode and are good, and their dies' buffers have nothing
to retest. -/
def Sys2Proof.CoresInOrder (im : Img) (s : State) : Prop :=
  (∀ k, k ∈ imCores im → (coreOf s k).suspects = [] ∧ (coreOf s k).microcode = activeMicro s ∧ coreUsable s k = true)
    ∧ ∀ i, i ∈ imSites im → (mapGetD s.bufs i bufferZero).suspects = []

/-- The supervisors of the dies of an image run. -/
def Sys2Proof.DiesRun (im : Img) (s : State) : Prop :=
  ∀ n, n ∈ (imSites im).filterMap procOfSite → procHeld s n = false ∧ procStarts s n = false

/-- Every command whose operands are operands of its kind runs, in every state; any other faults, and nothing is refused. And
the commands that must find their moment have their effect there: an acknowledged burst of a DRAIN frees its slot, a descriptor
that has moved its data is counted, a router's position goes on, an entry comes off the flight of its crossing, a credit comes
home, an image in order is on the lowest free handle, and a processor whose watchdog expires or that faults does not run on. -/
def Obligations.WellFormedCommandsRun : Prop :=
  (∀ (i : Instr) (s : State),
    (i.wf = true → ∃ t, exec i s = .next t) ∧ (i.wf = false → exec i s = .fault .illFormed))
  ∧ (∀ (k : CoreId) (time i : Nat) (b : Bay) (s : State), bayOfCore s (coreNo k) = some (i, b) → engineRuns b = true →
    let c := coreOf s (coreNo k)
    (∀ (tag : BitVec 12) (v : Burst) (x : DescRun), burstOf c tag = some v → v.answered = true → v.status = 0 →
      c.ax.started.find? (fun y => y.id = v.desc) = some x → dsOp x.raw = 2 →
      ∃ t more, exec (.burstResponse k tag time) s = .next t ∧ (coreOf t (coreNo k)).ax.bursts = c.ax.bursts.erase v ++ more)
    ∧ (∀ (x : DescRun) (rest : List DescRun), c.ax.started = x :: rest → descDone c (periodNow (atTime time s) b) x = true →
      ∃ t, exec (.descriptorComplete k time) s = .next t ∧ (coreOf t (coreNo k)).ax.started = rest
        ∧ (coreOf t (coreNo k)).st.descDone = satInc 65535 c.st.descDone))
  ∧ (∀ (k : CoreId) (cycle i : Nat) (b : Bay) (s s1 : State), enterCycle (coreNo k) cycle s = some (i, b, s1) →
    let c := coreOf s1 (coreNo k)
    c.rt.run.cycle = cycle → issueDone b c cycle = true →
    ∃ t, exec (.pegEntry k cycle) s = .next t ∧ (coreOf t (coreNo k)).rt.run = pegNext c (pegResolve c.rt.run))
  ∧ (∀ (k : CoreId) (d : Side) (time : Nat) (x : Crossing) (s : State), endRuns s (coreNo k) = true →
    let u := noteTrips (atTime time s)
    (∀ y ys, xingIn u (coreNo k) d = some x → x.flight = y :: ys → tripDue u (coreNo k) y.trip = true →
      ∃ t x', exec (.crossingEntry k d time) s = .next t ∧ xingIn t (coreNo k) d = some x' ∧ x'.flight = ys)
    ∧ (∀ r rs, xingOut u (coreNo k) d = some x → x.returning = r :: rs → tripDue u (coreNo k) r = true →
      ∃ t x', exec (.creditReturn k d time) s = .next t ∧ xingOut t (coreNo k) d = some x' ∧ x'.returning = rs))
  ∧ (∀ (c : Cmd) (pay : List Byte) (s : State), Kept s → LoadTakes c pay s →
    let u := takeCmd c s
    let r : LoadReq := ⟨c, hostRead u (leAt pay 0 8) (leAt pay 8 4), leAt pay 8 4, cmdPart c, bitAt (leAt pay 0xC 1) 0,
      leAt pay 0x10 4, none⟩
    loadErr u r = none → DiesRun (imgOf r.bytes) u → CoresInOrder (imgOf r.bytes) u →
    ∃ t, exec (.bayLoad c) s = .next t ∧ (bayOf t (freeHandle u)).isSome = true)
  ∧ ∀ (n : ProcId) (time : Nat) (s : State), Kept s → (procOf s n.val).run = .running →
    siteInReset s (siteOfProc n.val) = false → s.err.armed = [] → (n.val ≠ kingPc s ∨ mailWaits s = false) →
    ∀ i, i ∈ [Instr.watchdogExpiry n time, .processorFault n time] →
      ∃ t, exec i s = .next t ∧ (procOf t n.val).run ≠ .running

/-- Every step keeps the form of the state's data: canonical memories, whole tables, rising keys. -/
def Obligations.StepsKeepTheForm : Prop := ∀ s t : State, step s = .next t → Kept s → Kept t

/-- The state right after reset has that form. -/
def Obligations.ResetHasTheForm : Prop := Kept State.reset

/-- The frame of every command: what it leaves as it was. Each changes the parts that `mayChange` lists for it and no other;
none changes the fuses, the hydraulic baselines, host memory's answers, or the commands that wait. Wall time does not run back
but where the panel loses its power or gains it (the clock that starts again there is the model's choice, log entry 38). -/
def Obligations.WhatACommandMayChange : Prop :=
  ∀ (i : Instr) (s t : State), exec i s = .next t → OnlyChanges (mayChange i) s t

/-- What reset leaves: the values that the spec's tables give the registers of the host port, the command protocol and the
record, no bay, partition or table in use, and every queue of the block empty. -/
def Obligations.ResetLeaves : Prop :=
  let s := State.reset
  s.pending = [] ∧ s.host.bringup = 0 ∧ s.host.mbBusy = false ∧ s.host.mbDone = false ∧ s.host.dbErrors = 0
    ∧ s.host.hdmErrors = 0 ∧ s.host.apErrors = 0 ∧ s.host.queues = [] ∧ s.host.agreed = none ∧ s.host.rejected = false
    ∧ s.host.active.enable = false ∧ s.inProgress = [] ∧ s.ev.set = false ∧ s.ev.lost = 0 ∧ s.fp.built = false
    ∧ s.bays = [] ∧ s.xings = [] ∧ s.parts = copies 8 partitionZero ∧ s.engines = [] ∧ s.err.armed = []
    ∧ s.pwr.good = false ∧ s.fw.procs = [] ∧ s.fab.flight = [] ∧ s.mem = []
    ∧ ∀ k, coreOf s k = coreZero ∧ tagAt (coreOf s k) 0 0 = false

/-! ## Jexeri commands -/

/-- A command that firmware cannot take yet leaves everything as it is, and one that it takes is in progress from then on, at
its time: a mailbox command makes the mailbox busy, and nothing else changes before the command acts. -/
def Obligations.TakingACommand : Prop :=
  (∀ (i : Instr) (op : Nat) (c : Cmd) (s : State), jexeri i = some (op, c) → cmdOp c = op → canTake c s = false →
    exec i s = .next s)
  ∧ ∀ (c : Cmd) (s : State), canTake c s = true →
    isInProgress c s = false ∧ isInProgress c (takeCmd c s) = true ∧ (takeCmd c s).now = max s.now c.time
      ∧ (takeCmd c s).inProgress.length = s.inProgress.length + 1 ∧ s.inProgress.length < 1024
      ∧ (c.via = .mailbox → s.host.mbBusy = false ∧ (takeCmd c s).host.mbBusy = true)
      ∧ OnlyChanges [.now, .host, .inProgress] s (takeCmd c s)

/-- From `s` to `t` an MSI-X vector is signalled, or is pending where its mask bit is set. -/
def Sys2Proof.Signals (v : Nat) (s t : State) : Prop :=
  (s.host.msixMask.contains v = false → mapGetD t.host.msix v 0 = mapGetD s.host.msix v 0 + 1)
    ∧ (s.host.msixMask.contains v = true → t.host.msix = s.host.msix ∧ t.host.msixPend.contains v = true)

/-- A completion goes the way its command came. In the mailbox it clears BUSY, sets DONE and signals vector 0. In a completion
queue with a free entry it stands at the tail, the tail moves on, PHASE changes at the wrap, and the queue's vector is
signalled; in a full queue it waits. Where its queue no longer exists it is discarded. -/
def Obligations.CompletionGoesBack : Prop :=
  ∀ (c : Cmd) (st d : Nat) (x : Taken) (s : State), takenOf c s = some x → x.mute = false → Kept s →
    let t := complete c st d s
    t.inProgress = s.inProgress.erase x
    ∧ (c.via = .mailbox →
        t.host.mbBusy = false ∧ t.host.mbDone = true ∧ t.host.mbCpl = cplBytes c.entry.cmdId.toNat st 0 false d
          ∧ Signals 0 s t ∧ OnlyChanges [.host, .inProgress] s t)
    ∧ (∀ q p, c.via = .queue q → mapGet? s.host.queues q.val = some p → p.waiting = [] → cqRoom p = true →
        hostRead t (p.cqBase + 16 * p.cqTail) 16 = cplBytes c.entry.cmdId.toNat st x.sqHead p.phase d
          ∧ mapGet? t.host.queues q.val = some { p with
              cqTail := if p.cqTail + 1 < p.cqDepth then p.cqTail + 1 else 0
              phase := if p.cqTail + 1 < p.cqDepth then p.phase else !p.phase }
          ∧ Signals p.vector s t
          ∧ (∀ a, a < p.cqBase + 16 * p.cqTail ∨ p.cqBase + 16 * p.cqTail + 16 ≤ a →
              memByte t.hostMem a = memByte s.hostMem a)
          ∧ OnlyChanges [.host, .hostMem, .inProgress] s t)
    ∧ (∀ q p, c.via = .queue q → mapGet? s.host.queues q.val = some p → (p.waiting ≠ [] ∨ cqRoom p = false) →
        mapGet? t.host.queues q.val = some { p with
          waiting := p.waiting ++ [⟨c.entry.cmdId.toNat, st, x.sqHead, d⟩] }
          ∧ OnlyChanges [.host, .inProgress] s t)
    ∧ (∀ q, c.via = .queue q → mapGet? s.host.queues q.val = none → OnlyChanges [.inProgress] s t)
    ∧ (∀ a b body, c.via = .mgmt a b body → OnlyChanges [.mgmt, .inProgress] s t)

/-- An event is posted where the event queue has room for its records and nothing waits: every record but the last has MORE, SEQ
moves on by one for each, and no record waits; the bytes of a record stand at the tail with the next SEQ and the present phase,
the tail moves on, and vector 1 is signalled. Otherwise the event is discarded and counted once, whatever its records (that it
is not cut is the model's choice, log entry 158). -/
def Obligations.EventsArePosted : Prop :=
  (∀ (e : EventRec) (s : State), Kept s → s.ev.lost = 0 → evRoom s.ev 1 = true → s.host.inL2 = false →
    let t := raiseEvent [e] s
    hostRead t (s.ev.base + 32 * s.ev.tail) 32 = evBytes s.ev.seq s.ev.phase e
      ∧ t.ev = { s.ev with
          tail := if s.ev.tail + 1 < s.ev.depth then s.ev.tail + 1 else 0
          phase := if s.ev.tail + 1 < s.ev.depth then s.ev.phase else !s.ev.phase
          seq := s.ev.seq + 1 }
      ∧ Signals 1 s t ∧ OnlyChanges [.host, .hostMem, .ev] s t)
  ∧ ∀ (es : List EventRec) (s : State),
    (s.ev.lost = 0 → evRoom s.ev es.length = true →
      (raiseEvent es s).ev.seq = s.ev.seq + es.length ∧ (raiseEvent es s).ev.lost = 0
        ∧ (withMore es).map (fun e => e.more) = (List.range es.length).map (fun i => decide (i + 1 < es.length)))
    ∧ (s.ev.lost ≠ 0 ∨ evRoom s.ev es.length = false → s.host.inL2 = false →
        (raiseEvent es s).ev = { s.ev with lost := s.ev.lost + 1 } ∧ OnlyChanges [.ev] s (raiseEvent es s))

/-! ## The floor plan -/

/-- The record: 14,400 bytes, a header of 64 and then the entry of each site at 64 + 64·(16·y + x), those of keystone and absent
sites among them. -/
def Obligations.RecordLayout : Prop :=
  ∀ s : State, Kept s →
    (recordBytes s).length = 14400
      ∧ (recordBytes s).take 64 = recordHeader s (crc32 (recordHeader s 0 ++ (recordBytes s).drop 64))
      ∧ ∀ p : SiteId, ((recordBytes s).drop (64 + 64 * (16 * p.y.val + p.x.val))).take 64
          = entryBytes s (siteNo p) (entryAt s (siteNo p))

/-- The status that R601 gives SITE_FENCE, SITE_UNFENCE of one site and SITE_RETEST up to check 4, and OK where these pass:
`own` is what check 5 gives. -/
def Sys2Proof.planStatus (reserved : Nat → Bool) (pay : List Byte) (s : State) (own : Nat) : Nat :=
  let i := paySite pay
  if pay.length ≠ 8 then stBadLength
  else if 15 < leAt pay 0 1 ∨ 13 < leAt pay 1 1 ∨ leAt pay 3 1 ≠ 0 ∨ reserved (leAt pay 2 1) = true
      ∨ placeRole i = 5 ∨ placeRole i = 6 then stBadField
  else if (entryAt s i).state = .absent then stUnitAbsent
  else if leAt pay 4 4 ≠ 0 ∧ leAt pay 4 4 ≠ s.boot.generation.toNat then stFloorplanStale
  else own

/-- The status that the checks of R601 give a floor plan command of one site or, with FLAGS bit 0 of SITE_UNFENCE, of all. -/
def Sys2Proof.siteStatus (op : Nat) (pay : List Byte) (s : State) : Nat :=
  let i := paySite pay
  if op = 0x0101 then planStatus (fun f => f != 0) pay s (if (entryAt s i).part ≠ 0xFF then stBusy else stOk)
  else if op = 0x0103 then planStatus (fun f => f != 0) pay s
    (if (entryAt s i).state ≠ .failed ∨ (entryAt s i).part ≠ 0xFF then stDenied
     else if sitePowered s i = false then stNotReady
     else if (mapGet? s.fp.retests i).isSome = true then stBusy else stOk)
  else if bitAt (leAt pay 2 1) 0 = false then
    planStatus (fun f => f != 0) pay s (if (entryAt s i).state = .failed then stDenied else stOk)
  else if pay.length ≠ 8 then stBadLength
  else if leAt pay 3 1 ≠ 0 ∨ 1 < leAt pay 2 1 then stBadField
  else if leAt pay 4 4 ≠ 0 ∧ leAt pay 4 4 ≠ s.boot.generation.toNat then stFloorplanStale
  else if restoreBlocked s = true then stBusy else stOk

/-- What the floor plan commands check of their own. -/
def Sys2Proof.planChecks (op : Nat) (c : Cmd) (pay : List Byte) (s : State) : List (Bool × Nat) :=
  if op = 0x0100 then [(decide (cmdLen c < 14400), stBadLength)]
  else [(decide (siteStatus op pay s ≠ stOk), siteStatus op pay s)]

/-- What the floor plan commands do once their checks pass. FLOORPLAN_GET writes the record where its output goes and completes
with GENERATION. SITE_FENCE makes a good or partial site fenced with reason HOST_FENCE, records the fence, and GENERATION moves
on; on any other it changes nothing. SITE_UNFENCE takes a fenced or reserve die to good or partial with reason 0 and records the
unfence; with FLAGS bit 0 it restores every site as R47 gives and clears the host entries. SITE_RETEST begins the retest where
the site's processor runs, and its end gives the site the state that validation and self-test find, which completes the command.
-/
def Obligations.FloorPlanCommands : Prop :=
  ∀ (c : Cmd) (pay : List Byte) (s : State), Kept s → s.fp.built = true →
    let u := takeCmd c s
    let i := paySite pay
    (Accepted 0x0100 c pay s → 14400 ≤ cmdLen c → isMbData c = false → BufferAnswers c (cmdAddr c) 14400 u →
      ∃ t, exec (.floorplanGet c) s = .next (complete c stOk s.boot.generation.toNat t)
        ∧ OutputIs c (cmdAddr c) (recordBytes u) t ∧ OnlyChanges [.hostMem, .inProgress] u t)
    ∧ (Accepted 0x0101 c pay s → planStatus (fun f => f != 0) pay u stOk = stOk → (entryAt s i).part = 0xFF →
        ∃ t, exec (.siteFence c) s = .next (complete c stOk 0 t)
          ∧ (siteUsable s i = true →
              (entryAt t i).state = .fenced ∧ (entryAt t i).reason = 11 ∧ mapGet? t.boot.hostFences i = some .fence
                ∧ t.boot.generation = nextGeneration s.boot.generation)
          ∧ (siteUsable s i = false → t = u)
          ∧ (∀ j, j ≠ i → entryAt t j = entryAt s j)
          ∧ OnlyChanges [.fp, .bootGeneration, .bootFences, .host, .hostMem, .mgmt, .ev, .fw] u t)
    ∧ (Accepted 0x0102 c pay s → bitAt (leAt pay 2 1) 0 = false → planStatus (fun f => f != 0) pay u stOk = stOk →
        (entryAt s i).state ≠ .failed →
        ∃ t, exec (.siteUnfence c) s = .next (complete c stOk 0 t)
          ∧ ((entryAt s i).state = .fenced ∨ (entryAt s i).state = .reserve →
              (entryAt t i).state = inServiceState (entryAt s i) ∧ (entryAt t i).reason = 0
                ∧ mapGet? t.boot.hostFences i = some .unfence)
          ∧ (siteUsable s i = true → t = u)
          ∧ (∀ j, j ≠ i → entryAt t j = entryAt s j)
          ∧ OnlyChanges [.fp, .bootGeneration, .bootFences, .host, .hostMem, .mgmt, .ev, .fw] u t)
    ∧ (Accepted 0x0102 c pay s → pay.length = 8 → leAt pay 2 1 = 1 → leAt pay 3 1 = 0 →
        (leAt pay 4 4 = 0 ∨ leAt pay 4 4 = s.boot.generation.toNat) → restoreBlocked u = false →
        ∃ t, exec (.siteUnfenceDefault c) s = .next (complete c stOk 0 t) ∧ t.boot.hostFences = []
          ∧ (∀ j, j < 224 →
              (entryAt t j).state = (entryRestored u j (entryAt s j)).state
                ∧ (entryAt t j).reason = (entryRestored u j (entryAt s j)).reason
                ∧ (entryAt t j).part = (entryAt s j).part)
          ∧ OnlyChanges [.fp, .bootGeneration, .bootFences, .host, .hostMem, .mgmt, .ev, .fw] u t)
    ∧ (Accepted 0x0103 c pay s → planStatus (fun f => f != 0) pay u stOk = stOk → (entryAt s i).state = .failed →
        (entryAt s i).part = 0xFF → sitePowered s i = true → mapGet? s.fp.retests i = none →
        (∀ n, procOfSite i = some n → procHeld s n = false ∧ procStarts s n = false) →
        ∃ t, exec (.siteRetest c) s = .next t ∧ mapGet? t.fp.retests i = some c ∧ t.fp.entries = s.fp.entries
          ∧ OnlyChanges [.fp] u t)
    ∧ ∀ (p : SiteId) (r : SelfTest) (time : Nat), mapGet? s.fp.retests (siteNo p) = some c →
        let why := testReason s (siteNo p) r
        ∃ t, exec (.siteRetestComplete p r time) s = .next
            (complete c stOk (siteStateCode (entryAt t (siteNo p)).state + 256 * (entryAt t (siteNo p)).reason) t)
          ∧ mapGet? t.fp.retests (siteNo p) = none
          ∧ (entryAt t (siteNo p)).reason = why
          ∧ (why = 0 → ((entryAt t (siteNo p)).state = .good ∨ (entryAt t (siteNo p)).state = .partialUse)
              ∧ mapGet? t.boot.failures (siteNo p) = none)
          ∧ (why ≠ 0 → (entryAt t (siteNo p)).state = .failed)
          ∧ (why = 6 → mapGet? t.boot.failures (siteNo p) = some 6)
          ∧ (why ≠ 6 → mapGet? t.boot.failures (siteNo p) = none)
          ∧ ∀ j, j ≠ siteNo p → entryAt t j = entryAt s j

/-! ## Cores: the issue stage -/

/-- The rows of the table that a core issues, with the kind of operation word. -/
def Sys2Proof.issueRows (k : CoreId) (t : Nat) : List (OpKind × Instr) :=
  [(.matrixStep, .matrixStep k t), (.vectorChain, .vectorChain k t), (.scanCall, .scanCall k t),
   (.accessEnq, .accessEnq k t), (.send, .send k t), (.receive, .receive k t), (.cload, .cload k t), (.cstep, .cstep k t),
   (.cloop, .cloop k t), (.ctest, .ctest k t), (.produce, .produce k t), (.consume, .consume k t),
   (.pegPage, .pegPage k t), (.epochMark, .epochMark k t)]

/-- Core `d` is core `c` but for the walks of the operation store and the descriptor entries reserved. -/
def Sys2Proof.WalkedOn (c d : Core) : Prop :=
  ∃ w a rs x, d = { c with seq := { c.seq with issue := w, ahead := a, recs := rs }, ax := { c.ax with reserved := x } }

/-- The core issues an operation that is no shim, in cycle `t` from `s1` on, and its check holds where it has one. -/
def Sys2Proof.Executes (k t : Nat) (kind : OpKind) (o : BitVec 128) (r : AheadRec) (s s1 : State) : Prop :=
  issueEnter k t kind s = some (o, false, r, s1)
    ∧ (opChk o = true → chkMet s1 k o t (fun x => x.accepted.length) = true)

/-- The issue stage passes an operation: its walk goes on, and no other core changes. -/
def Sys2Proof.Passes (k : Nat) (ch : WalkChoice) (s1 u : State) : Prop :=
  (coreOf u k).seq.issue = walkNext (coreOf s1 k) ch (coreOf s1 k).seq.issue ∧ ∀ j, j ≠ k → coreOf u j = coreOf s1 j

/-- The same for an operation that reads rows: a deep row that reports an error will be retested in its core. -/
def Sys2Proof.PassesReading (k : Nat) (s1 u : State) : Prop :=
  (coreOf u k).seq.issue = walkNext (coreOf s1 k) .none (coreOf s1 k).seq.issue
    ∧ ∀ j, j ≠ k → ∃ su, coreOf u j = { coreOf s1 j with suspects := su }

/-- FAULT_CAUSE after a cause has come up: a cause that stands holds until the next image load. -/
def Sys2Proof.causeAfter (cause : Nat) (c : Core) : Nat := if c.st.faultCause = 0 then cause else c.st.faultCause

/-- A check-ahead operation that reaches its issue cycle while its condition does not hold puts the bay into fault hold with
cause CHECK_LATE, reads and writes no data, and the walk goes on, with which the peg lookahead follows a CLOOP: for every kind
of operation. A cause that stands already holds. -/
def Obligations.LateChecksFault : Prop :=
  ∀ (k : CoreId) (t : Nat) (kind : OpKind) (i : Instr) (o : BitVec 128) (r : AheadRec) (s s1 : State),
    (kind, i) ∈ issueRows k t → issueEnter (coreNo k) t kind s = some (o, false, r, s1) → opChk o = true →
    chkMet s1 (coreNo k) o t (fun x => x.accepted.length) = false →
    (kind = .cloop → isDynUnpadded (coreOf s1 (coreNo k)) o t = false) →
    let c := coreOf s1 (coreNo k)
    ∃ u y, exec i s = .next u ∧ (kind ≠ .cloop → y = c.rt.ahead)
      ∧ WalkedOn { c with st := { c.st with faultCause := causeAfter 1 c }, rt := { c.rt with ahead := y } }
          (coreOf u (coreNo k))
      ∧ (∀ j, j ≠ coreNo k → coreOf u j = coreOf s1 j)
      ∧ ∀ q b, bayOfCore s1 (coreNo k) = some (q, b) → bayOf u q = some (faultBay 1 (coreNo k) t b)

/-- A shim takes its issue cycle and its place in an engine's queue, where it occupies the engine, and nothing else: it reads
and writes no data, changes no tag or flag, removes no token and drives nothing. COUNTER operations and page switches have their
own statements. -/
def Obligations.ShimsOnlyTakeTime : Prop :=
  ∀ (k : CoreId) (t : Nat) (o : BitVec 128) (r : AheadRec) (s s1 : State),
    let n := coreNo k
    let c := coreOf s1 n
    let w := c.seq.issue
    (∀ kind i, (kind, i) ∈ issueRows k t → kind ∈ [OpKind.accessEnq, .send, .receive, .produce, .consume, .epochMark] →
      issueEnter n t kind s = some (o, true, r, s1) →
      ∃ u, exec i s = .next u ∧ WalkedOn c (coreOf u n) ∧ Passes n .none s1 u)
    ∧ (issueEnter n t .matrixStep s = some (o, true, r, s1) →
        ∃ u, exec (.matrixStep k t) s = .next u ∧ Passes n .none s1 u
          ∧ WalkedOn { c with eng := { c.eng with
              mxQueue := c.eng.mxQueue ++ [⟨w.idx, o, max (t + 1) w.mxFree, true⟩] } } (coreOf u n))
    ∧ (issueEnter n t .vectorChain s = some (o, true, r, s1) →
        ∃ u, exec (.vectorChain k t) s = .next u ∧ Passes n .none s1 u
          ∧ WalkedOn { c with eng := { c.eng with
              vxQueue := c.eng.vxQueue ++ [⟨w.idx, o, max (t + 1) w.vxFree, true⟩] } } (coreOf u n))
    ∧ (issueEnter n t .scanCall s = some (o, true, r, s1) →
        ∃ u, exec (.scanCall k t) s = .next u ∧ Passes n .none s1 u
          ∧ WalkedOn { c with eng := { c.eng with
              scQueue := c.eng.scQueue ++ [⟨w.idx, o, max (t + 1) w.scFree, true⟩] } } (coreOf u n))

/-- MATRIX_STEP, VECTOR_CHAIN and SCAN_CALL enter the queue of their engine, to start one cycle after the issue or when the
engine is free, whichever is later; rows, tags, banks and the other engines are as before. ACCESS_ENQ queues the descriptors
it reads in the entries that its check reserved; one that had no check and finds too few free entries queues nothing and the
bay enters fault hold. SEND begins to drive its rows 2 cycles after its issue, and with TAG its slot will become empty in
the cycle after the last. RECEIVE begins to capture 2 cycles after its issue, and with TAG its slot will become full 1 cycle
after its last row is due. PRODUCE offers its token 2 cycles after its issue, or 4 where the token comes from the
scratchpad. A deep row takes 6 cycles more. -/
def Obligations.OperationsIssue : Prop :=
   (∀ (k : CoreId) (t : Nat) (o : BitVec 128) (r : AheadRec) (s s1 : State),
      let n := coreNo k
      let c := coreOf s1 n
      let w := c.seq.issue
      let same (u : State) : Prop := Passes n .none s1 u ∧ (coreOf u n).tags = c.tags ∧ (coreOf u n).rows = c.rows
        ∧ (coreOf u n).writes = c.writes ∧ (coreOf u n).rt = c.rt
      (Executes n t .matrixStep o r s s1 →
        ∃ u, exec (.matrixStep k t) s = .next u ∧ same u
          ∧ (coreOf u n).eng = { c.eng with mxQueue := c.eng.mxQueue ++ [⟨w.idx, o, max (t + 1) w.mxFree, false⟩] })
      ∧ (Executes n t .vectorChain o r s s1 →
        ∃ u, exec (.vectorChain k t) s = .next u ∧ same u
          ∧ (coreOf u n).eng = { c.eng with vxQueue := c.eng.vxQueue ++ [⟨w.idx, o, max (t + 1) w.vxFree, false⟩] })
      ∧ (Executes n t .scanCall o r s s1 →
        ∃ u, exec (.scanCall k t) s = .next u ∧ same u
          ∧ (coreOf u n).eng = { c.eng with scQueue := c.eng.scQueue ++ [⟨w.idx, o, max (t + 1) w.scFree, false⟩] }))
   ∧ (∀ (k : CoreId) (t : Nat) (o : BitVec 128) (r : AheadRec) (s s1 : State),
      let n := coreNo k
      let c := coreOf s1 n
      let deep := deepTerm (srSpan c o)
      let base := slotBaseOf c (srSlot o) + srRowOff o
      (Executes n t .accessEnq o r s s1 → (r.reserved ≠ 0 ∨ aeCount o ≤ descFree c) →
        ∃ u, exec (.accessEnq k t) s = .next u ∧ PassesReading n s1 u
          ∧ (coreOf u n).ax = { c.ax with queue := c.ax.queue ++ enqDescs s1 n t o, reserved := c.ax.reserved - r.reserved }
          ∧ (coreOf u n).eng = c.eng ∧ (coreOf u n).rt = c.rt ∧ (coreOf u n).tags = c.tags)
      ∧ (Executes n t .accessEnq o r s s1 → r.reserved = 0 → descFree c < aeCount o →
        ∃ u, exec (.accessEnq k t) s = .next u ∧ PassesReading n s1 u ∧ (coreOf u n).ax = c.ax
          ∧ (s1.err.armed = [] → (coreOf u n).st.faultCause = causeAfter 1 c))
      ∧ (Executes n t .send o r s s1 →
        ∃ u, exec (.send k t) s = .next u ∧ PassesReading n s1 u
          ∧ (coreOf u n).rt = { c.rt with sends := c.rt.sends ++ [⟨srLayer o, t + 2 + deep, base, srRows o, deep, false⟩] }
          ∧ (coreOf u n).eng = { c.eng with tagActs := c.eng.tagActs
              ++ (if srTag o = true then [⟨.sendEmpty, t + 2 + deep + srRows o * srStride o, [srSlot o], []⟩] else []) }
          ∧ (coreOf u n).tags = c.tags)
      ∧ (Executes n t .receive o r s s1 →
        ∃ u, exec (.receive k t) s = .next u ∧ Passes n .none s1 u
          ∧ (coreOf u n).rt = { c.rt with
              recvs := c.rt.recvs ++ [⟨srLayer o, t + 2, base, srRows o, deep, false, false, 0⟩] }
          ∧ (coreOf u n).eng = { c.eng with tagActs := c.eng.tagActs
              ++ (if srTag o = true then [⟨.receiveFull, t + 2 + srRows o * srStride o - 1 + 3 + deep + 1, [], [srSlot o]⟩]
                  else []) }
          ∧ (coreOf u n).tags = c.tags)
      ∧ (Executes n t .produce o r s s1 →
        ∃ u x, exec (.produce k t) s = .next u ∧ PassesReading n s1 u
          ∧ (coreOf u n).rt = { c.rt with offers := c.rt.offers ++ [x] } ∧ x.issue = t
          ∧ (tkSrc o = 0 → x.cycle = t + 2 ∧ x.value = tkImm o ∧ x.scratch = none)
          ∧ (tkSrc o = 1 → x.cycle = t + 2 ∧ x.value = (counterAt c (tkCtr o) t).1.toNat ∧ x.scratch = none)
          ∧ (2 ≤ tkSrc o → x.cycle = t + 4 ∧ x.scratch = some (slotBaseOf c (tkSlot o) + tkRowOff o, tkWord o, t + 1))
          ∧ (coreOf u n).eng = c.eng ∧ (coreOf u n).tags = c.tags))

/-- CONSUME takes the oldest token that arrived in an earlier cycle out of its queue; with ACTION 0 its VALUE is in the counter,
which is dynamic then, 2 cycles later. An empty queue loads 0, removes nothing and counts TOKEN_MISS, or traps where the hazard
detector is enabled. -/
def Obligations.ConsumeTakesATokenOrMisses : Prop :=
  ∀ (k : CoreId) (t : Nat) (o : BitVec 128) (r : AheadRec) (s s1 : State), Executes (coreNo k) t .consume o r s s1 →
    let n := coreNo k
    let c := coreOf s1 n
    let head := (c.seq.queues.getD (tkTq o) []).find? (fun x => decide (x.stamp ≤ t))
    ∃ u, exec (.consume k t) s = .next u ∧ Passes n .none s1 u
      ∧ (∀ x, head = some x →
          (coreOf u n).seq.queues = modAt c.seq.queues (tkTq o) (fun q => q.erase x)
          ∧ (tkDiscard o = false → counterAt (coreOf u n) (tkConsCtr o) (t + 2) = (BitVec.ofNat 16 (tokValue x.word).toNat, true)))
      ∧ (head = none →
          (coreOf u n).seq.queues = c.seq.queues
          ∧ (tkDiscard o = false → counterAt (coreOf u n) (tkConsCtr o) (t + 2) = (0, true))
          ∧ ((∀ i b, bayOfCore s1 n = some (i, b) → b.hazard = false) →
              (coreOf u n).st.tokenMiss = satInc 4095 c.st.tokenMiss))
      ∧ (∀ i, i ≠ tkConsCtr o → ∀ v, counterAt (coreOf u n) i v = counterAt c i v)
      ∧ (tkDiscard o = true → ∀ v, counterAt (coreOf u n) (tkConsCtr o) v = counterAt c (tkConsCtr o) v)

/-- CLOAD and CSTEP, executing or in a shimmed region. CLOAD gives the counter its immediate and ends its dynamic property.
CSTEP adds the signed delta: below 0 the counter is left at 0 and CTR_UNDERFLOW set, above 65,535 it is left there and
CTR_OVERFLOW set, and an underflow traps where the hazard detector is enabled. The value is seen from the next cycle on, and no
other counter changes. CLOOP and CTEST decide by the counter as the issue cycle sees it: CLOOP latches its trip count,
min(value, MAX) where MAX is not 0, and ignores the counter with FOREVER; an unpadded one on a dynamic counter puts the bay into
fault hold with cause DYN_UNPADDED and enters no loop; CTEST skips its region where its condition holds. Neither changes a
counter. -/
def Obligations.CountersLoopsAndTests : Prop :=
   (∀ (k : CoreId) (t : Nat) (o : BitVec 128) (shim : Bool) (r : AheadRec) (s s1 : State),
      let n := coreNo k
      let c := coreOf s1 n
      let x := ((counterAt c (coCtr o) t).1.toNat : Int) + coDelta o
      (∀ kind, issueEnter n t kind s = some (o, shim, r, s1) → shim = false → opChk o = true →
        chkMet s1 n o t (fun x => x.accepted.length) = true) →
      (issueEnter n t .cload s = some (o, shim, r, s1) →
        ∃ u, exec (.cload k t) s = .next u ∧ Passes n .none s1 u
          ∧ counterAt (coreOf u n) (coCtr o) (t + 1) = (coImm o, false)
          ∧ (∀ i, i ≠ coCtr o → ∀ v, counterAt (coreOf u n) i v = counterAt c i v)
          ∧ (coreOf u n).tags = c.tags ∧ (coreOf u n).eng = c.eng ∧ (coreOf u n).rt = c.rt)
      ∧ (issueEnter n t .cstep s = some (o, shim, r, s1) →
        ∃ u, exec (.cstep k t) s = .next u ∧ Passes n .none s1 u
          ∧ counterAt (coreOf u n) (coCtr o) (t + 1)
              = (if x < 0 then 0 else if 65535 < x then 65535 else BitVec.ofInt 16 x, (counterAt c (coCtr o) t).2)
          ∧ (∀ i, i ≠ coCtr o → ∀ v, counterAt (coreOf u n) i v = counterAt c i v)
          ∧ (coreOf u n).st.ctrUnderflow = (c.st.ctrUnderflow || decide (x < 0))
          ∧ (coreOf u n).st.ctrOverflow = (c.st.ctrOverflow || decide (65535 < x))
          ∧ (∀ i b, bayOfCore s1 n = some (i, b) → b.hazard = true → x < 0 → b.mode = .running → b.traps.length < 16 →
              ∃ b' tr, bayOf u i = some b' ∧ tr ∈ b'.traps ∧ tr.core = n ∧ tr.cycle = t ∧ HoldCond.host ∈ b'.conds)
          ∧ (coreOf u n).tags = c.tags ∧ (coreOf u n).eng = c.eng ∧ (coreOf u n).rt = c.rt))
   ∧ (∀ (k : CoreId) (t : Nat) (o : BitVec 128) (shim : Bool) (r : AheadRec) (s s1 : State),
      let n := coreNo k
      let c := coreOf s1 n
      let v := (counterAt c (coCtr o) t).1.toNat
      let dyn := (counterAt c (coCtr o) t).2
      (∀ kind, issueEnter n t kind s = some (o, shim, r, s1) → shim = false → opChk o = true →
        chkMet s1 n o t (fun x => x.accepted.length) = true) →
      (issueEnter n t .ctest s = some (o, shim, r, s1) →
        ∃ u, exec (.ctest k t) s = .next u
          ∧ Passes n (.skip (if coCond o = 0 then v == 0 else v != 0)) s1 u
          ∧ (∀ i w, counterAt (coreOf u n) i w = counterAt c i w) ∧ (coreOf u n).eng = c.eng ∧ (coreOf u n).rt = c.rt)
      ∧ (issueEnter n t .cloop s = some (o, shim, r, s1) → (coForever o = true ∨ coMax o ≠ 0 ∨ dyn = false) →
        ∃ u, exec (.cloop k t) s = .next u
          ∧ Passes n (.trips (if coForever o = true then 1 else if coMax o = 0 then v else min v (coMax o))) s1 u
          ∧ (coreOf u n).st.clip = (c.st.clip || (!coForever o && decide (coMax o ≠ 0 ∧ coMax o < v)))
          ∧ (∀ i w, counterAt (coreOf u n) i w = counterAt c i w) ∧ (coreOf u n).eng = c.eng
          ∧ (coreOf u n).rt = { c.rt with ahead := (coreOf u n).rt.ahead })
      ∧ (issueEnter n t .cloop s = some (o, shim, r, s1) → coForever o = false → coMax o = 0 → dyn = true →
        ∃ u, exec (.cloop k t) s = .next u ∧ Passes n .none s1 u ∧ (coreOf u n).st.faultCause = causeAfter 2 c
          ∧ (coreOf u n).seq.counterWrites = c.seq.counterWrites
          ∧ ∀ i b, bayOfCore s1 n = some (i, b) → bayOf u i = some (faultBay 2 n t b)))

/-- PEG_PAGE adds its page to those that become active at the first period boundary after its cycle. EPOCH_MARK makes the epoch
one more, modulo 16, from the next cycle on; as that cycle begins every token of the old epoch leaves the core's queues and is
counted in STALE_TOKENS, and with NOTIFY on the head core an event carries the new epoch and the cycle (said where no injection
is armed, which could raise another). -/
def Obligations.PagesAndEpochs : Prop :=
  ∀ (k : CoreId) (t : Nat) (o : BitVec 128) (r : AheadRec) (s s1 : State),
    let n := coreNo k
    let c := coreOf s1 n
    (Executes n t .pegPage o r s s1 →
      ∃ u, exec (.pegPage k t) s = .next u ∧ Passes n .none s1 u
        ∧ (coreOf u n).rt.run = { c.rt.run with next := c.rt.run.next ++ [(ppPage o, t)] }
        ∧ (coreOf u n).eng = c.eng ∧ (coreOf u n).tags = c.tags)
    ∧ (Executes n t .epochMark o r s s1 →
      ∃ u, exec (.epochMark k t) s = .next u ∧ Passes n .none s1 u
        ∧ epochAt (coreOf u n) (t + 1) = epochAt c t + 1 ∧ epochAt (coreOf u n) t = epochAt c t
        ∧ (coreOf u n).seq.queues = c.seq.queues
        ∧ ((∀ m, m ∈ c.seq.marks → m.1 ≤ t) →
            (settleMarks (t + 1) (coreOf u n)).seq.queues
                = c.seq.queues.map (fun q => q.filter (fun x => tokEpoch x.word != epochAt c t))
              ∧ (settleMarks (t + 1) (coreOf u n)).st.staleTokens
                = satInc 4095 c.st.staleTokens (countOld (epochAt c t) c.seq.queues))
        ∧ (∀ i b, s1.err.armed = [] → bayOfCore s1 n = some (i, b) → n = bayHead b → emNotify o = true →
            Raises (evBay 0x0200 i b.part (epochAt c t + 1).toNat t) s1 u)
        ∧ (coreOf u n).eng = c.eng ∧ (coreOf u n).tags = c.tags)

/-! ## Cores: the engines -/

/-- A core acts in the cycle that its bay runs, or in the next one, which then begins once everything due before it is done and
what has come over a crossing is visible in time: the bay counts the cycle, and nothing that a cycle from then on reads is other
than before; only a row of the access engine may have to give way to a scheduled access. -/
def Obligations.CyclesBegin : Prop :=
  ∀ (n t i : Nat) (b : Bay) (s : State), bayOfCore s n = some (i, b) → (b.mode = .running ∨ b.mode = .draining) →
    (b.count = t + 1 → enterCycle n t s = some (i, b, s))
    ∧ (b.count = t → mayRun b t = true → (bayCores b).all (coreQuiet s (b.mode == .draining) t) = true →
        tripsIn (noteTrips s) b = true →
        ∃ b1 s1, enterCycle n t s = some (i, b1, s1) ∧ b1.count = t + 1 ∧ b1.mode = b.mode ∧ bayOf s1 i = some b1
          ∧ b1.stretches = (if b.droops.any (fun x => x.1 == t) || bayLimited s b then b.stretches + 1 else b.stretches)
          ∧ OnlyChanges [.bays, .cores, .xings] s s1
          ∧ ∀ j u, t ≤ u →
              ((∀ m w, w ∈ (coreOf s m).writes → w.unit = .access → w.stamp ≤ t) → ∀ d, rowAt s1 j d u = rowAt s j d u)
              ∧ (∀ d, tagAt (coreOf s1 j) d u = tagAt (coreOf s j) d u)
              ∧ (∀ d, d < (coreOf s j).seq.counters.length → d < (coreOf s j).seq.dynamic.length →
                  counterAt (coreOf s1 j) d u = counterAt (coreOf s j) d u)
              ∧ epochAt (coreOf s1 j) u = epochAt (coreOf s j) u
              ∧ (coreOf s1 j).eng.banks = (coreOf s j).eng.banks ∧ (coreOf s1 j).image = (coreOf s j).image)
    ∧ (b.count ≠ t + 1 → b.count ≠ t → enterCycle n t s = none)

/-- MATRIX_STEP_START: the head of the queue leaves it in its start cycle. A shim occupies the engine for max(N·occ, 32) cycles
and does nothing else. Any other reads its operands, and its consumed slots will be emptied in the cycle after the last occupied
one (6 cycles later where a row is deep). -/
def Obligations.MatrixStepsStart : Prop :=
  ∀ (k : CoreId) (t i : Nat) (b : Bay) (e : EngineOp) (es : List EngineOp) (s s1 : State),
    let n := coreNo k
    let c := coreOf s1 n
    let o := e.word
    let fa := (fmOfCode (mxFmtA o)).getD .fp32
    let fb := (fmOfCode (mxFmtB o)).getD .fp32
    let aRows := operandRows c (mxASlot o) (mxAOff o) fa (mxKsteps o)
    let bRows := operandRows c (mxBSlot o) (mxBOff o) fb (mxKsteps o)
    enterCycle n t s = some (i, b, s1) → c.eng.mxQueue = e :: es → e.start = t →
    (e.shim = true → ∃ u, exec (.matrixStepStart k t) s = .next u
      ∧ coreOf u n = { c with eng := { c.eng with
          mxQueue := es, mxIdle := max c.eng.mxIdle (t + max (mxKsteps o * mxOcc o) 32) } }
      ∧ ∀ j, j ≠ n → coreOf u j = coreOf s1 j)
    ∧ (e.shim = false → ∃ u run, exec (.matrixStepStart k t) s = .next u
      ∧ (coreOf u n).eng.mxQueue = es ∧ (coreOf u n).eng.banks = c.eng.banks ∧ (coreOf u n).eng.tiles = c.eng.tiles
      ∧ (coreOf u n).tags = c.tags ∧ (coreOf u n).rows = c.rows
      ∧ run ∈ (coreOf u n).eng.mxRuns ∧ run.word = o ∧ run.t0 = t ∧ run.done = 0
      ∧ run.occ = (if mxKsteps o = 0 then 32 else mxOcc o)
      ∧ run.lat = (if b.contract = 1 then 18 else 22) + deepTerm (aRows ++ bRows)
      ∧ run.aRows = aRows.map (fun d => rowAt s1 n d t) ∧ run.bRows = bRows.map (fun d => rowAt s1 n d t)
      ∧ ∀ x, 1 ≤ mxKsteps o → (mxAConsume o = true ∧ x = mxASlot o ∨ mxBConsume o = true ∧ x = mxBSlot o) →
          ∃ a, a ∈ (coreOf u n).eng.tagActs ∧ a.kind = .operandRelease ∧ x ∈ a.empties
            ∧ a.cycle = t + max (mxKsteps o * mxOcc o) 32 + deepTerm (aRows ++ bRows))

/-- VECTOR_CHAIN_START: the head of the queue leaves it in its start cycle and is counted. Its effective VL is the counter,
at most the bound. Its output rows are written F cycles after the beat that makes them; where a row that it reads is written
meanwhile they are open. Its consumed inputs will be emptied B cycles after the start and its outputs made full at F + B.
SCAN_CALL_START: the head of the queue leaves it in its start cycle and is counted. It runs T steps, the counter where the
operation says so, at most the bound. Its output rows are written L cycles after the reads they come from, and with T ≥ 1
its state rows at the end, as written before each of its reads. Its A and B slots will be emptied W
cycles after the start, and its output slot, and its state slot with T ≥ 1, made full at L + W. -/
def Obligations.ChainsAndScanCallsStart : Prop :=
   (∀ (k : CoreId) (t i : Nat) (b : Bay) (e : EngineOp) (es : List EngineOp) (s s1 : State),
      let n := coreNo k
      let c := coreOf s1 n
      let o := e.word
      let entry := chainEntry c o
      let bound := vxBound o
      let ctr := (counterAt c (vxVlCtr o) t).1.toNat
      let eff := if vxVlSrc o = true then min ctr bound else bound
      let spans := chainSpans c o entry
      let deep := deepTerm (spans.1.flatten ++ spans.2.flatten)
      let fill := 6 + 3 * ceNstages entry + deep
      enterCycle n t s = some (i, b, s1) → c.eng.vxQueue = e :: es → e.start = t →
      (e.shim = true → ∃ u, exec (.vectorChainStart k t) s = .next u
        ∧ coreOf u n = { c with eng := { c.eng with vxQueue := es, vxIdle := max c.eng.vxIdle (t + vxBeats o) } }
        ∧ ∀ j, j ≠ n → coreOf u j = coreOf s1 j)
      ∧ (e.shim = false → ∃ u, exec (.vectorChainStart k t) s = .next u
        ∧ (coreOf u n).eng.vxQueue = es ∧ (coreOf u n).st.chains = satInc 65535 c.st.chains
        ∧ (coreOf u n).st.vlClamps = (if vxVlSrc o = true ∧ bound < ctr then satInc 4095 c.st.vlClamps else c.st.vlClamps)
        ∧ (coreOf u n).eng.banks = c.eng.banks ∧ (coreOf u n).tags = c.tags ∧ (coreOf u n).rows = c.rows
        ∧ (∀ m x, m < ceNout entry →
            x ∈ outWrites ((fmOfCode (ceOutFmt entry m)).getD .fp32) bound eff [] [] →
            ∃ w, w ∈ (coreOf u (rowPlace n (slotBaseOf c (vxOutSlot o m) + x.1)).1).writes
              ∧ w.row = (rowPlace n (slotBaseOf c (vxOutSlot o m) + x.1)).2 ∧ w.stamp = t + fill + x.2.1 + 1 ∧ w.unit = .vx)
        ∧ (∀ m, m < ceNin entry → vxInConsume o m = true → (m ≠ 0 ∨ vxFromTq o = false) →
            ∃ a, a ∈ (coreOf u n).eng.tagActs ∧ a.kind = .vectorIn ∧ a.cycle = t + vxBeats o + deep ∧ vxInSlot o m ∈ a.empties)
        ∧ ∀ m, m < ceNout entry →
            ∃ a, a ∈ (coreOf u n).eng.tagActs ∧ a.kind = .vectorOut ∧ a.cycle = t + fill + vxBeats o ∧ vxOutSlot o m ∈ a.fulls))
   ∧ (∀ (k : CoreId) (t i : Nat) (b : Bay) (e : EngineOp) (es : List EngineOp) (s s1 : State),
      let n := coreNo k
      let c := coreOf s1 n
      let o := e.word
      let ctr := (counterAt c (scStepsCtr o) t).1.toNat
      let steps := if scStepsSrc o = true then min ctr (scSteps o) else scSteps o
      let deep := deepTerm (scanSpan c o)
      let lat := (if b.contract = 1 then 12 else 14) + deep
      let outs := scanWrites s1 n o t steps lat
      enterCycle n t s = some (i, b, s1) → c.eng.scQueue = e :: es → e.start = t →
      (e.shim = true → ∃ u, exec (.scanCallStart k t) s = .next u
        ∧ coreOf u n = { c with eng := { c.eng with scQueue := es, scIdle := max c.eng.scIdle (t + scW o) } }
        ∧ ∀ j, j ≠ n → coreOf u j = coreOf s1 j)
      ∧ (e.shim = false → ∃ u, exec (.scanCallStart k t) s = .next u
        ∧ (coreOf u n).eng.scQueue = es ∧ (coreOf u n).st.calls = satInc 65535 c.st.calls
        ∧ (coreOf u n).st.stepsClamps
            = (if scStepsSrc o = true ∧ scSteps o < ctr then satInc 4095 c.st.stepsClamps else c.st.stepsClamps)
        ∧ (coreOf u n).eng.banks = c.eng.banks ∧ (coreOf u n).tags = c.tags ∧ (coreOf u n).rows = c.rows
        ∧ (∀ x, 1 ≤ steps → x ∈ outs →
            ∃ w, w ∈ (coreOf u (rowPlace n x.1).1).writes ∧ w.row = (rowPlace n x.1).2 ∧ w.stamp = x.2.1 + 1 ∧ w.unit = .sc
              ∧ ((∀ y v, y ∈ outs → v ∈ (coreOf s1 (readerOf s1 (rowPlace n y.1).1)).eng.readWins → v.op ≠ c.eng.nextOp) →
                  w.data = x.2.2.1))
        ∧ (∃ a, a ∈ (coreOf u n).eng.tagActs ∧ a.kind = .scanIn ∧ a.cycle = t + scW o + deep ∧ scBSlot o ∈ a.empties
            ∧ (scMode o = 0 → scASlot o ∈ a.empties))
        ∧ ∃ a, a ∈ (coreOf u n).eng.tagActs ∧ a.kind = .scanOut ∧ a.cycle = t + lat + scW o ∧ scOutSlot o ∈ a.fulls
            ∧ (1 ≤ steps → scStateSlot o ∈ a.fulls)))

/-- BANK_COMPLETE: in an addition cycle the sums of the next tile-step are added to the bank, which starts from zero in the
first one where the operation says so, and OVF or NANC are set as the additions say; after the last one the run is over and with
DRAIN the tile sets out, to be in queue 32 cycles later. The other bank is as before. Of an operand row written meanwhile the
step finds a mix of the old and the new contents; a drain that goes on reads the new sums in the rows it has still to read.
TILE_IN_QUEUE: the tile enters the queue behind the others, visible from the next cycle on, and is counted; a tile that finds 4
in queue, less one that is removed in that cycle, is discarded and counted, or traps where the hazard detector is enabled. -/
def Obligations.BanksCompleteAndTilesWait : Prop :=
   (∀ (k : CoreId) (t i : Nat) (b : Bay) (m : MxRun) (s s1 : State),
      let n := coreNo k
      let c := coreOf s1 n
      let sums := mxAdd (mixedRun m s1.freeCtr) (c.eng.banks.getD (mxBank m.word) [])
      let drains := c.eng.drains.map (drainOn (mxBank m.word) t sums.1)
      enterCycle n t s = some (i, b, s1) → c.eng.mxRuns.find? (fun m => mxAddCycle m == t) = some m →
      ∃ u, exec (.bankComplete k t) s = .next u ∧ (coreOf u n).eng.banks = c.eng.banks.set (mxBank m.word) sums.1
        ∧ flagsAt (coreOf u n) (t + 1) = flagsOr (flagsAt c (t + 1)) sums.2
        ∧ (m.mixes = [] → mixedRun m s1.freeCtr = m)
        ∧ (m.done + 1 < mxKsteps m.word → (coreOf u n).eng.drains = drains
            ∧ (coreOf u n).eng.mxRuns = c.eng.mxRuns.map (fun x => if x.op == m.op then { x with done := x.done + 1 } else x))
        ∧ (mxKsteps m.word ≤ m.done + 1 → (coreOf u n).eng.mxRuns = c.eng.mxRuns.filter (fun x => x.op != m.op)
            ∧ (coreOf u n).eng.drains
                = drains ++ (if mxDrain m.word = true then [⟨m.idx, t + 32, mxBank m.word, sums.1⟩] else []))
        ∧ (coreOf u n).eng.tiles = c.eng.tiles ∧ (coreOf u n).tags = c.tags ∧ (coreOf u n).rows = c.rows
        ∧ (coreOf u n).seq = c.seq ∧ ∀ j, j ≠ n → coreOf u j = coreOf s1 j)
   ∧ (∀ (k : CoreId) (t i : Nat) (b : Bay) (d : TileMove) (s s1 : State),
      let n := coreNo k
      let c := coreOf s1 n
      let tiles := tilesAt c (t + 1)
      let inQueue := tiles.length - b2n (removesNow c t)
      enterCycle n t s = some (i, b, s1) → c.eng.drains.find? (fun d => d.cycle == t) = some d →
      (inQueue < 4 → ∃ u, exec (.tileInQueue k t) s = .next u
        ∧ coreOf u n = { c with
            eng := { c.eng with drains := c.eng.drains.filter (fun x => x.cycle != t), tiles := tiles ++ [⟨t + 1, none, d.rows⟩] }
            st := { c.st with tilesOut := satInc 65535 c.st.tilesOut } }
        ∧ ∀ j, j ≠ n → coreOf u j = coreOf s1 j)
      ∧ (4 ≤ inQueue → ∃ u, exec (.tileInQueue k t) s = .next u ∧ (coreOf u n).eng.tiles = tiles
        ∧ (coreOf u n).st.tilesOut = c.st.tilesOut
        ∧ (∀ q b, bayOfCore s1 n = some (q, b) → b.hazard = false →
            (coreOf u n).st.tileOverrun = satInc 4095 c.st.tileOverrun)
        ∧ (∀ q b, bayOfCore s1 n = some (q, b) → b.hazard = true → b.traps.length < 16 →
            ∃ b' tr, bayOf u q = some b' ∧ b'.traps = b.traps ++ [tr] ∧ tr.cls = 3 ∧ tr.core = n ∧ tr.cycle = t)
        ∧ ∀ j, j ≠ n → coreOf u j = coreOf s1 j))

/-- The tag actions of a kind, and the row of the table in which they take place. -/
def Sys2Proof.tagRows (k : CoreId) (t : Nat) : List (TagKind × Instr) :=
  [(.operandRelease, .operandRelease k t), (.vectorIn, .vectorInputConsume k t), (.vectorOut, .vectorOutputFull k t),
   (.scanIn, .scanInputEmpty k t), (.scanOut, .scanOutputFull k t), (.sendEmpty, .sendTagEmpty k t),
   (.receiveFull, .receiveTagFull k t)]

/-- The tag actions due in a cycle take place, for every unit: the tags change as seen from the next cycle on, and within one
cycle full wins; a slot that no action names keeps its tag, and so do rows, banks and queues. -/
def Obligations.TagActionsTakePlace : Prop :=
  ∀ (k : CoreId) (t : Nat) (kind : TagKind) (row : Instr) (i : Nat) (b : Bay) (s s1 : State), (kind, row) ∈ tagRows k t →
    enterCycle (coreNo k) t s = some (i, b, s1) →
    let n := coreNo k
    let c := coreOf s1 n
    let due := c.eng.tagActs.filter (fun a => a.kind == kind && a.cycle == t)
    due ≠ [] →
    ∃ u, exec row s = .next u
      ∧ (coreOf u n).eng = { c.eng with tagActs := c.eng.tagActs.filter (fun a => !(a.kind == kind && a.cycle == t)) }
      ∧ (∀ x g, c.tags[x]? = some g → (∃ a, a ∈ due ∧ x ∈ a.fulls) → tagAt (coreOf u n) x (t + 1) = true)
      ∧ (∀ x g, c.tags[x]? = some g → (∃ a, a ∈ due ∧ x ∈ a.empties) → (∀ a, a ∈ due → x ∉ a.fulls) →
          (g.stamp = t + 1 → g.sawFull = false) → tagAt (coreOf u n) x (t + 1) = false)
      ∧ (∀ x, (∀ a, a ∈ due → x ∉ a.fulls ∧ x ∉ a.empties) → (coreOf u n).tags[x]? = c.tags[x]?)
      ∧ (∀ x g, c.tags[x]? = some g → g.stamp ≤ t + 1 → tagAt (coreOf u n) x t = tagAt c x t)
      ∧ (coreOf u n).rows = c.rows ∧ (coreOf u n).writes = c.writes ∧ (coreOf u n).seq = c.seq ∧ (coreOf u n).rt = c.rt
      ∧ ∀ j, j ≠ n → coreOf u j = coreOf s1 j

/-! ## Cores: scratchpad and access engine -/

/-- A core without what its lookaheads have reserved and claimed; a bay in a hold may claim when something is met. -/
def Sys2Proof.sansHolds (c : Core) : Core :=
  { c with seq := { c.seq with recs := [] }, ax := { c.ax with reserved := 0 }, rt := { c.rt with claims := [] } }

/-- A crossing without the claims of the lookaheads. -/
def Sys2Proof.sansClaims (x : Crossing) : Crossing := { x with takeClaims := 0, driveClaims := 0 }

/-- A write of a row is seen from its stamp on, and before that the row reads as it did; every other row of every core reads as
before. (Where the write falls into rows that a matrix step or a chain is reading, that operation's results are open, and a scan
call that is still to read the row takes it up; the two premises leave these out.) -/
def Obligations.RowsReadBack : Prop :=
  ∀ (k d stamp op : Nat) (data : Row) (unit : RowUnit) (s : State),
    let p := rowPlace k d
    let r := readerOf s p.1
    (∀ w, w ∈ (coreOf s r).eng.readWins → winHit r w unit p stamp = false) → scansHit r (coreOf s r) p stamp op = [] →
    let u := putRow k d stamp data unit op s
    (∀ t, stamp ≤ t → (∀ w, w ∈ (coreOf s p.1).writes → w.row = p.2 → w.stamp ≤ t → w.stamp ≤ stamp) →
        rowAt u k d t = data)
    ∧ (∀ t, t < stamp → rowAt u k d t = rowAt s k d t)
    ∧ (∀ j r t, rowPlace j r ≠ p → rowAt u j r t = rowAt s j r t)
    ∧ (∀ j, (coreOf u j).tags = (coreOf s j).tags ∧ (coreOf u j).seq = (coreOf s j).seq ∧ (coreOf u j).eng = (coreOf s j).eng)

/-- The bank of a row: its bits 3 to 0, exclusive-or its bits 7 to 4, exclusive-or its bits 9 and 8 moved left by 2. Any 16 rows
from a multiple of 16 on lie in 16 banks, and so do the rows that lie 16 apart from one whose number modulo 256 is below 16. -/
def Obligations.BankOfARow : Prop :=
  (∀ r, r < 1024 → bankOfRow r < 16 ∧ bankOfRow r = ((r % 16) ^^^ (r / 16 % 16)) ^^^ ((r / 256 % 4) <<< 2))
    ∧ (∀ r i j, r < 1024 → r % 16 = 0 → i < 16 → j < 16 → bankOfRow (r + i) = bankOfRow (r + j) → i = j)
    ∧ ∀ r i j, r < 1024 → r % 256 < 16 → i < 16 → j < 16 → bankOfRow (r + 16 * i) = bankOfRow (r + 16 * j) → i = j

/-- DESCRIPTOR_START, where the engine may start: the head descriptor is checked in the order of the access faults, and the
first that it meets puts the bay into fault hold and stays in AX_STATUS. A descriptor in order waits for its tag with WAIT, and
starts: it leaves the queue and has a number. At most 16 burst slots are in use. -/
def Obligations.DescriptorsStart : Prop :=
  ∀ (k : CoreId) (time i : Nat) (b : Bay) (d : List Byte) (rest : List (List Byte)) (s : State),
    let n := coreNo k
    let c := coreOf s n
    let fault := if fieldFault c d then 1 else if boundFault c d then 2 else if partitionFault s n b.part d then 3 else 0
    bayOfCore s n = some (i, b) → c.ax.queue = d :: rest → engineStarts b = true →
    (fault ≠ 0 → ∃ u, exec (.descriptorStart k time) s = .next u
      ∧ (coreOf u n).st.axFault = (if c.st.axFault = 0 then fault else c.st.axFault)
      ∧ bayOf u i = some (faultBay 3 n (b.count - 1) b) ∧ (coreOf u n).ax = c.ax ∧ (coreOf u n).tags = c.tags
      ∧ ∀ j, j ≠ n → coreOf u j = coreOf s j)
    ∧ (fault = 0 → waitMet s n d = false → exec (.descriptorStart k time) s = .next s)
    ∧ (fault = 0 → waitMet s n d = true → ∃ u x, exec (.descriptorStart k time) s = .next u
      ∧ (coreOf u n).ax.queue = rest ∧ x ∈ (coreOf u n).ax.started ∧ x.raw = d ∧ x.id = c.ax.nextDesc
      ∧ (coreOf u n).ax.nextDesc = c.ax.nextDesc + 1 ∧ (coreOf u n).tags = c.tags ∧ (coreOf u n).rows = c.rows
      ∧ (coreOf u n).writes = c.writes ∧ (c.ax.bursts.length ≤ 16 → (coreOf u n).ax.bursts.length ≤ 16))

/-- BURST_RESPONSE: a burst that is answered with an error puts the bay into fault hold with fault 5 for an uncorrectable word
and 4 for any other. An acknowledged burst of a DRAIN frees its slot. A burst of a FILL writes every row whose bytes have all
arrived, once. The tags and the queue are as before. DESCRIPTOR_COMPLETE: the oldest started descriptor, once all its data has
moved by the period in progress, releases its entry and is counted, and with TAG its slot becomes full after a FILL; after a
DRAIN it becomes empty unless the same cycle fills it. No other tag changes. -/
def Obligations.BurstsAndDescriptorsComplete : Prop :=
   (∀ (k : CoreId) (tag : BitVec 12) (time i : Nat) (b : Bay) (v : Burst) (x : DescRun) (s : State),
      let n := coreNo k
      let c := coreOf s n
      bayOfCore s n = some (i, b) → engineRuns b = true → burstOf c tag = some v → v.answered = true →
      c.ax.started.find? (fun y => y.id = v.desc) = some x →
      (v.status ≠ 0 → ∃ u, exec (.burstResponse k tag time) s = .next u
        ∧ (coreOf u n).st.axFault = (if c.st.axFault = 0 then (if v.status = 5 then 5 else 4) else c.st.axFault)
        ∧ bayOf u i = some (faultBay 3 n (b.count - 1) b) ∧ (coreOf u n).tags = c.tags ∧ (coreOf u n).ax.queue = c.ax.queue)
      ∧ (v.status = 0 → dsOp x.raw = 2 → ∃ u more, exec (.burstResponse k tag time) s = .next u
        ∧ (coreOf u n).ax.bursts = c.ax.bursts.erase v ++ more ∧ (coreOf u n).tags = c.tags ∧ (coreOf u n).rows = c.rows
        ∧ (coreOf u n).ax.queue = c.ax.queue)
      ∧ (v.status = 0 → dsOp x.raw ≠ 2 → ∃ u, exec (.burstResponse k tag time) s = .next u
        ∧ (∀ r data, r ∈ burstRows x.raw v → fillRow c x r = some data →
            ∃ y, (coreOf u n).ax.started.find? (fun y => y.id = x.id) = some y ∧ r ∈ y.rowsDone)
        ∧ (coreOf u n).tags = c.tags ∧ (coreOf u n).ax.queue = c.ax.queue))
   ∧ (∀ (k : CoreId) (time i : Nat) (b : Bay) (x : DescRun) (rest : List DescRun) (s : State),
      let n := coreNo k
      let c := coreOf s n
      bayOfCore s n = some (i, b) → engineRuns b = true → c.ax.started = x :: rest →
      descDone c (periodNow (atTime time s) b) x = true →
      ∃ u, exec (.descriptorComplete k time) s = .next u ∧ (coreOf u n).ax.started = rest
        ∧ (coreOf u n).st.descDone = satInc 65535 c.st.descDone ∧ (coreOf u n).ax.queue = c.ax.queue
        ∧ (∀ g, c.tags[dsSlot x.raw]? = some g → dsTag x.raw = true → dsOp x.raw = 1 →
            tagAt (coreOf u n) (dsSlot x.raw) b.count = true)
        ∧ (∀ g, c.tags[dsSlot x.raw]? = some g → dsTag x.raw = true → dsOp x.raw ≠ 1 →
            (cyclesRun b = false ∨ (g.stamp = b.count → g.sawFull = false)) →
            tagAt (coreOf u n) (dsSlot x.raw) b.count = false)
        ∧ (∀ m, m ≠ dsSlot x.raw ∨ dsTag x.raw = false → (coreOf u n).tags[m]? = c.tags[m]?)
        ∧ (∀ j, (coreOf u j).rows = (coreOf s j).rows ∧ (coreOf u j).eng = (coreOf s j).eng
            ∧ (cyclesRun b = true → (coreOf u j).writes = (coreOf s j).writes))
        ∧ ∀ j, j ≠ n → sansHolds { coreOf u j with writes := [] } = sansHolds { coreOf s j with writes := [] })

/-- REMOTE_SCRATCHPAD_WRITE: the oldest remote write at a core lands and is answered, in a cycle in which its banks have a port
free. With RSET it waits while its slot is full, is answered with status 4 where the core belongs to no loaded bay or the slot
is not valid, and after its last row its slot is full. -/
def Obligations.RemoteWritesLand : Prop :=
  ∀ (k : CoreId) (time : Nat) (w : RemoteWrite) (rest : List RemoteWrite) (s : State),
    let n := coreNo k
    let c := coreOf s n
    let t := portCycle s n
    let free := portsFree s n (spanRows (addrOff (destOf w.q)) w.q.len)
    c.ax.remote = w :: rest → portOpen s n = true →
    (free = false → exec (.remoteScratchpadWrite k time) s = .next s)
    ∧ (free = true → w.rset = true → rsetOk s n w.rslot = false → ∃ u, exec (.remoteScratchpadWrite k time) s = .next u
      ∧ coreOf u n = { c with ax := { c.ax with remote := rest } }
      ∧ u.fab.answers = s.fab.answers ++ [answerPacket w.q 4 []] ∧ ∀ j, j ≠ n → coreOf u j = coreOf s j)
    ∧ (free = true → w.rset = true → rsetOk s n w.rslot = true → tagAt c w.rslot t = true →
        exec (.remoteScratchpadWrite k time) s = .next s)
    ∧ (free = true → (w.rset = false ∨ (rsetOk s n w.rslot = true ∧ tagAt c w.rslot t = false)) →
        ∃ u v, exec (.remoteScratchpadWrite k time) s = .next u ∧ (coreOf u n).ax.remote = rest
          ∧ v = writeMem (.core n) (addrOff (destOf w.q)) w.q.data ⟨[], []⟩
              (modCore n (fun c => { c with ax := { c.ax with remote := rest } }) (atTime time s))
          ∧ (∀ j d m, rowAt u j d m = rowAt v.2 j d m) ∧ u.mem = s.mem
          ∧ u.fab.answers = s.fab.answers ++ [answerPacket w.q (if v.1 = true then 5 else 0) []]
          ∧ (∀ g, c.tags[w.rslot]? = some g → w.rset = true → w.last = true → tagAt (coreOf u n) w.rslot t = true)
          ∧ (∀ m, m ≠ w.rslot ∨ w.rset = false ∨ w.last = false → (coreOf u n).tags[m]? = c.tags[m]?))

/-! ## Cores: lookahead, router and crossings -/

/-- The entry that a router runs at its position, and the one the peg lookahead looks at. -/
def Sys2Proof.entryAtWalk (c : Core) (w : PegWalk) : BitVec 128 := pegEntryAt c (pegResolve w).page (pegResolve w).entry

/-- CHECK_AHEAD: an operation is looked at H cycles before its issue, or in cycle 0, and the walk goes on. A check-ahead
operation whose condition is not met becomes a hold condition, by which the bay freezes; an ACCESS_ENQ reserves its COUNT
entries, or becomes a hold condition where too few are free. For a shim nothing is checked or reserved. PEG_CHECK: for the
peg entry of H cycles ahead the lookahead claims an accepted entry for each port that it takes and a credit for each that it
drives; where none is left, the bay gets a hold condition. -/
def Obligations.ChecksRunAhead : Prop :=
   (∀ (k : CoreId) (t i : Nat) (b : Bay) (s s1 : State),
      let n := coreNo k
      let c := coreOf s1 n
      let w := c.seq.ahead
      let o := opAt c w.idx
      enterCycle n t s = some (i, b, s1) → bayOf s1 i = some b → b.mode = .running → w.finished = false → w.due - 24 = t →
      ∃ u r, exec (.checkAhead k t) s = .next u ∧ (coreOf u n).seq.recs = c.seq.recs ++ [r] ∧ r.idx = w.idx ∧ r.due = w.due
        ∧ r.shim = walkShim w ∧ (coreOf u n).seq.ahead = walkNext c (issueChoice c o t) w
        ∧ (coreOf u n).seq.issue = c.seq.issue ∧ (coreOf u n).tags = c.tags
        ∧ (walkShim w = true → bayOf u i = some b ∧ (coreOf u n).ax = c.ax)
        ∧ (walkShim w = false → opChk o = true → chkMet s1 n o t xingEntries = false →
            ∃ b', bayOf u i = some b' ∧ HoldCond.check n w.idx ∈ b'.conds ∧ b'.freezeDue.isSome = true)
        ∧ (walkShim w = false → opKind o = some .accessEnq → aeCount o ≤ descFree c →
            r.reserved = aeCount o ∧ (coreOf u n).ax.reserved = c.ax.reserved + aeCount o)
        ∧ (walkShim w = false → opKind o = some .accessEnq → descFree c < aeCount o →
            (coreOf u n).ax = c.ax ∧ ∃ b', bayOf u i = some b' ∧ HoldCond.accessQueue n w.due ∈ b'.conds ∧ b'.freezeDue.isSome = true))
   ∧ (∀ (k : CoreId) (t i : Nat) (b : Bay) (s s1 : State),
      let n := coreNo k
      let c := coreOf s1 n
      let e := entryAtWalk c c.rt.ahead
      enterCycle n t s = some (i, b, s1) → bayOf s1 i = some b → b.mode = .running → c.rt.ahead.cycle = t + 24 →
      (c.seq.ahead.finished = true ∨ t + 24 < c.seq.ahead.due) →
      ∃ u, exec (.pegCheck k t) s = .next u ∧ (coreOf u n).rt.ahead = pegNext c (pegResolve c.rt.ahead)
        ∧ (∀ d x, xingIn s1 n d = some x → portDirect e d = true → 0 < xingEntries x →
            ⟨t + 24, d, ClaimKind.take⟩ ∈ (coreOf u n).rt.claims)
        ∧ (∀ d x, xingIn s1 n d = some x → portDirect e d = true → xingEntries x = 0 →
            ∃ b', bayOf u i = some b' ∧ HoldCond.xdata n d (t + 24) false ∈ b'.conds ∧ b'.freezeDue.isSome = true)
        ∧ (∀ d x, xingOut s1 n d = some x → portDrive e d = true → 0 < xingCredits x →
            ⟨t + 24, d, ClaimKind.drive⟩ ∈ (coreOf u n).rt.claims)
        ∧ (∀ d x, xingOut s1 n d = some x → portDrive e d = true → xingCredits x = 0 →
            ∃ b', bayOf u i = some b' ∧ HoldCond.xcredit n d (t + 24) ∈ b'.conds ∧ b'.freezeDue.isSome = true)
        ∧ (coreOf u n).seq = c.seq ∧ (coreOf u n).rt.run = c.rt.run ∧ ∀ j, j ≠ n → coreOf u j = coreOf s1 j)

/-- PEG_ENTRY: a router runs the entry of its cycle once the issue stage is done with it, and its position goes on. A port that
the entry takes loses its oldest accepted entry, whose credit starts back; what a side output takes, said for a router with no
crossing, arrives at the facing core of the bay, one cycle later and the extra latency of the way; an adder that is on shows the
sum of what it takes. -/
def Obligations.RoutersRunTheirEntries : Prop :=
  ∀ (k : CoreId) (t i : Nat) (b : Bay) (s s1 : State),
    let n := coreNo k
    let c := coreOf s1 n
    let e := entryAtWalk c c.rt.run
    enterCycle n t s = some (i, b, s1) → c.rt.run.cycle = t → issueDone b c t = true →
    ∃ u, exec (.pegEntry k t) s = .next u ∧ (coreOf u n).rt.run = pegNext c (pegResolve c.rt.run)
      ∧ (coreOf u n).rt.rsum.cycle = t + 1 ∧ (coreOf u n).rt.tsum.cycle = t + 1
      ∧ (pegRaddFmt e = 0 → (coreOf u n).rt.rsum.item = none) ∧ (pegTaddFmt e = 0 → (coreOf u n).rt.tsum.item = none)
      ∧ (∀ d x y ys, xingIn s1 n d = some x → portDirect e d = true → x.state = .opened → x.accepted = y :: ys →
          (hasClaim c t d .take = true ∨ x.takeClaims < x.accepted.length) →
          ∃ x', xingIn u n d = some x' ∧ x'.accepted = ys ∧ x'.returning = x.returning ++ [tripFrom s1 n])
      ∧ ((∀ d, xingIn s1 n d = none ∧ xingOut s1 n d = none) →
          let v : PegView := ⟨c.rt.arrivals.filter (fun a => a.cycle == t), c.rt.latches, none, none, none⟩
          ∀ l o f it, 1 ≤ pegOut e l o → pegOut e l o ≤ 4 → takeOut c v t l o (pegOut e l o) = some it →
            facing n o = some f → inBay b f = true → (l = .row → siteOfCore f = siteOfCore n) →
            ⟨t + 1 + extraLatency n f, l, opposite o, it⟩ ∈ (coreOf u f).rt.arrivals)
      ∧ (coreOf u n).seq.issue = c.seq.issue ∧ (coreOf u n).tags = c.tags ∧ (coreOf u n).eng.banks = c.eng.banks

/-- CROSSING_ENTRY: the oldest entry on its way becomes visible at the receiving end, in the 3rd or the 4th period after it has
come across. One of another epoch is discarded and counted in STALE_IN; a mark moves the accepted epoch on; both return their
credit. Any other is accepted behind those before it. CREDIT_RETURN: a credit on its way back reaches the sender as late. The
ends pause during the stop of a frequency change. -/
def Obligations.CrossingEndsRun : Prop :=
  ∀ (k : CoreId) (d : Side) (time : Nat) (x : Crossing) (s : State),
    let n := coreNo k
    let s1 := noteTrips (atTime time s)
    let back := tripFrom s1 n
    endRuns s n = true →
    (∀ y ys, xingIn s1 n d = some x → x.flight = y :: ys →
      (tripDue s1 n y.trip = false → exec (.crossingEntry k d time) s = .next s)
      ∧ (tripDue s1 n y.trip = true → ∃ u x', exec (.crossingEntry k d time) s = .next u ∧ xingIn u n d = some x'
        ∧ (y.xepoch ≠ x.acceptXe → sansClaims x' = sansClaims { x with flight := ys, returning := x.returning ++ [back] }
            ∧ (coreOf u n).st.staleIn = satInc 255 (coreOf s n).st.staleIn)
        ∧ (y.xepoch = x.acceptXe → y.kind = .mark →
            sansClaims x' = sansClaims { x with flight := ys, returning := x.returning ++ [back], acceptXe := x.acceptXe + 1 }
            ∧ (coreOf u n).st.staleIn = min 255 (coreOf s n).st.staleIn)
        ∧ (y.xepoch = x.acceptXe → y.kind ≠ .mark →
            sansClaims x' = sansClaims { x with flight := ys, accepted := x.accepted ++ [y] }
            ∧ (coreOf u n).st.staleIn = min 255 (coreOf s n).st.staleIn)
        ∧ sansHolds (coreOf u n) = { sansHolds (coreOf s n) with st := (coreOf u n).st }
        ∧ ∀ j, j ≠ n → sansHolds (coreOf u j) = sansHolds (coreOf s j)))
    ∧ (∀ r rs, xingOut s1 n d = some x → x.returning = r :: rs →
      (tripDue s1 n r = false → exec (.creditReturn k d time) s = .next s)
      ∧ (tripDue s1 n r = true → ∃ u x', exec (.creditReturn k d time) s = .next u ∧ xingOut u n d = some x'
        ∧ sansClaims x' = sansClaims { x with returning := rs } ∧ ∀ j, sansHolds (coreOf u j) = sansHolds (coreOf s j)))

/-! ## Bays -/

/-- The bay commands but for loading and reconfiguring: opcode, row, the fields of the payload that each uses, the states that
allow it, and what each checks beyond that, in order. -/
def Sys2Proof.bayRows : List (Nat × (Cmd → Instr) × BayForm × List BayMode × (Bay → List Byte → State → List (Bool × Nat))) :=
  [(0x0201, .bayStart, ⟨true, false, true, false⟩, [.loaded], fun b pay s =>
      [(s.install, stBusy), (!bayPowered s b, stNotReady), (b.hazard && decide (3 < payPoint pay), stDenied),
       (payPoint pay == 5 && inletTooWarm s, stDenied),
       (payPoint pay == 5 && !(baySites b).all (hasHeadroom s), stNoHeadroom)]),
   (0x0202, .bayHold, ⟨false, false, false, false⟩, [.running, .held], fun _ _ _ => []),
   (0x0203, .bayRelease, ⟨false, false, false, false⟩, [.held], fun _ _ _ => []),
   (0x0204, .bayStop, ⟨false, true, false, false⟩, [.running, .held, .done, .faultHold], fun b pay _ =>
      [(stopBlocked b (bitAt (payFlags pay) 0), stBusy)]),
   (0x0206, .baySetPoint, ⟨true, false, false, false⟩, [.loaded, .running, .held], fun b pay s =>
      [(b.change.isSome, stBusy), (b.hazard && decide (3 < payPoint pay), stDenied),
       (payPoint pay == 5 && inletTooWarm s, stDenied),
       (payPoint pay == 5 && !(baySites b).all (hasHeadroom s), stNoHeadroom)]),
   (0x0207, .bayStatus, ⟨false, false, true, true⟩,
      [.loaded, .running, .held, .pointChange, .done, .draining, .stopped, .faultHold], fun b pay _ =>
      [(decide (payArgLen pay < 64 + 192 * b.w * b.ht), stBadLength)]),
   (0x0208, .timeExchange, ⟨false, false, true, true⟩,
      [.loaded, .running, .held, .pointChange, .done, .draining, .stopped, .faultHold], fun _ pay _ =>
      [(decide (payArgLen pay < 32), stBadLength)]),
   (0x0209, .bayRemove, ⟨false, false, false, false⟩, [.loaded, .stopped], fun _ _ _ => []),
   (0x020B, .hazardGet, ⟨false, false, true, true⟩,
      [.loaded, .running, .held, .pointChange, .done, .draining, .stopped, .faultHold], fun b pay _ =>
      [(decide (payArgLen pay < 528), stBadLength), (!b.hazard, stDenied)])]

/-- The supervisors of a bay's dies run: none is held and none restarts. -/
def Sys2Proof.SupervisorsRun (s : State) (b : Bay) : Prop :=
  ∀ n, n ∈ baySupervisors b → procHeld s n = false ∧ procStarts s n = false

/-- The bay commands are checked in one order: the length and the fields of the payload, the bay, its partition, its state, and
the command's own checks; the first that fails decides the status and nothing else happens. Then a command fails with FAULT
while a supervisor of the bay's dies is held, and else waits for one that restarts. -/
def Obligations.BayCommandChecks : Prop :=
  ∀ (op : Nat) (row : Cmd → Instr) (f : BayForm) (modes : List BayMode)
    (own : Bay → List Byte → State → List (Bool × Nat)) (c : Cmd) (pay : List Byte) (s : State),
    (op, row, f, modes, own) ∈ bayRows → Accepted op c pay s →
    let u := takeCmd c s
    (pay.length ≠ 24 → exec (row c) s = .next (complete c stBadLength 0 u))
    ∧ (pay.length = 24 → firstFail (bayFormChecks f pay) ≠ stOk → exec (row c) s = .next (complete c stBadField 0 u))
    ∧ (firstFail (bayFormChecks f pay) = stOk →
        (bayOf s (payBay pay) = none → exec (row c) s = .next (complete c stBadField 0 u))
        ∧ ∀ b, bayOf s (payBay pay) = some b →
          (b.part ≠ cmdPart c → exec (row c) s = .next (complete c stDenied 0 u))
          ∧ (b.part = cmdPart c → b.mode ∉ modes → exec (row c) s = .next (complete c stBusy 0 u))
          ∧ (b.part = cmdPart c → b.mode ∈ modes → firstFail (own b pay u) ≠ stOk →
              exec (row c) s = .next (complete c (firstFail (own b pay u)) 0 u))
          ∧ (b.part = cmdPart c → b.mode ∈ modes → firstFail (own b pay u) = stOk →
              (∃ n, n ∈ baySupervisors b ∧ procHeld u n = true) → exec (row c) s = .next (complete c stFault 0 u))
          ∧ (b.part = cmdPart c → b.mode ∈ modes → firstFail (own b pay u) = stOk →
              (∀ n, n ∈ baySupervisors b → procHeld u n = false) →
              ∀ n, (baySupervisors b).find? (procStarts u) = some n →
                exec (row c) s = .next { u with fw := { u.fw with waiting := u.fw.waiting ++ [⟨n, u.now, c, pay⟩] } }))

/-- A bay command of the table is accepted on a bay and passes every check, and the supervisors run. -/
def Sys2Proof.BayTakes (op : Nat) (c : Cmd) (pay : List Byte) (s : State) (b : Bay) : Prop :=
  Accepted op c pay s ∧ bayOf s (payBay pay) = some b ∧ b.part = cmdPart c
    ∧ SupervisorsRun (takeCmd c s) b
    ∧ ∀ x, x ∈ bayRows → x.1 = op →
        firstFail (bayFormChecks x.2.2.1 pay) = stOk ∧ b.mode ∈ x.2.2.2.1 ∧ firstFail (x.2.2.2.2 b pay (takeCmd c s)) = stOk

/-- What the bay commands do. BAY_START: from cycle 0 at its point, the generators of every core seeded, its walks at the start.
BAY_HOLD and BAY_RELEASE: the HOST condition comes and goes, a running bay's freeze due 6 cycles after the last it ran.
BAY_STOP: the stop cycle, or the wait for a mark. BAY_SET_POINT: the change is pending, its rail first where it must rise (that
BAY_START leaves such a change pending is the model's choice, log entry 146). BAY_STATUS, TIME_EXCHANGE and HAZARD_GET: the
records stand in the buffer; the supervisor's read clears what a read clears, and HAZARD_GET the traps. BAY_REMOVE: the handle
is free. Another bay changes in none of them. -/
def Obligations.BayCommandsAct : Prop :=
  ∀ (c : Cmd) (pay : List Byte) (b : Bay) (s : State), Kept s →
    let u := takeCmd c s
    let i := payBay pay
    (BayTakes 0x0201 c pay s b → ∃ t, exec (.bayStart c) s = .next (complete c stOk 0 t)
      ∧ bayOf t i = some { b with
          mode := .running, point := payPoint pay, seed := BitVec.ofNat 64 (payArg pay), count := 0, frozenNs := 0
          frozenAt := none, idlePeriods := idleNow u b, idleSince := none, boostLost := false, boostTold := (false, false) }
      ∧ (∀ k, k ∈ bayCores b →
          (coreOf t k).eng = { (coreOf s k).eng with
            srState := (List.range 128).map (srSeed (BitVec.ofNat 64 (payArg pay)) (coreX k) (coreY k)) }
          ∧ (coreOf t k).seq.issue = walkStart0 (coreOf s k) ∧ (coreOf t k).seq.ahead = walkStart0 (coreOf s k)
          ∧ (coreOf t k).rt.run.page = (coreOf s k).image.page0 ∧ (coreOf t k).tags = (coreOf s k).tags
          ∧ (coreOf t k).rows = (coreOf s k).rows)
      ∧ (∀ k, k ∉ bayCores b → coreOf t k = coreOf s k)
      ∧ (∀ j, j ≠ i → bayOf t j = bayOf s j)
      ∧ OnlyChanges [.bays, .cores, .host, .hostMem, .mgmt, .inProgress] u t)
    ∧ (BayTakes 0x0202 c pay s b → ∃ x, exec (.bayHold c) s = .next (complete c stOk 0 (setBay i x u))
      ∧ x = { b with conds := x.conds, freezeDue := x.freezeDue } ∧ HoldCond.host ∈ x.conds
      ∧ (∀ h, h ≠ .host → (h ∈ x.conds ↔ h ∈ b.conds))
      ∧ (b.mode = .held → x.freezeDue = b.freezeDue)
      ∧ (b.mode = .running → x.freezeDue = some (b.freezeDue.getD (b.count - 1 + 6))))
    ∧ (BayTakes 0x0203 c pay s b → exec (.bayRelease c) s = .next (complete c stOk 0
        (setBay i { b with conds := b.conds.filter (fun h => h != .host && h != .trap) } u)))
    ∧ (BayTakes 0x0204 c pay s b → ∃ t q, exec (.bayStop c) s = .next t ∧ bayOf t i = some { b with stop := some q }
      ∧ q.cmd = some c ∧ q.atMark = bitAt (payFlags pay) 0 ∧ q.image = none
      ∧ (q.atMark = true → q.stopCycle = none ∧ q.notBefore = b.count - 1 + 5)
      ∧ (q.atMark = false → b.mode = .running → q.stopCycle = some (b.count - 1 + 6))
      ∧ (∀ j, j ≠ i → bayOf t j = bayOf s j) ∧ OnlyChanges [.bays, .host, .hostMem, .mgmt, .inProgress] u t
      ∧ (b.stop = none → OnlyChanges [.bays] u t))
    ∧ (BayTakes 0x0206 c pay s b → ∃ p, exec (.baySetPoint c) s = .next (setBay i { b with change := some p } u)
      ∧ p.target = payPoint pay ∧ p.cmd = c ∧ p.since = u.now
      ∧ (raisesRail u b (payPoint pay) = true → p.stage = .railRising)
      ∧ (raisesRail u b (payPoint pay) = false → p.stage = (if b.mode = .loaded then .relocking else .atHead))
      ∧ (b.mode = .running → p.freeze = b.count - 1 + 6))
    ∧ (let v := modCores b supervisorRead u
       BayTakes 0x0207 c pay s b →
        BufferAnswers c (payArg pay) (bayHeader v i b ++ (bayCores b).flatMap (coreRecord v b.count)).length u →
        ∃ t, exec (.bayStatus c) s = .next (complete c stOk 0 t)
          ∧ OutputIs c (payArg pay) (bayHeader v i b ++ (bayCores b).flatMap (coreRecord v b.count)) t
          ∧ t.cores = v.cores
          ∧ (∀ k, k ∈ bayCores b → coreOf t k = { coreOf s k with
              st := rcClear (coreOf s k).st
              totals := ((coreOf s k).totals.zip (rcCounters (coreOf s k).st)).map (fun p => (p.1 + p.2) % 2 ^ 64) })
          ∧ (∀ k, k ∉ bayCores b → coreOf t k = coreOf s k)
          ∧ OnlyChanges [.cores, .hostMem, .inProgress] u t)
    ∧ (BayTakes 0x0208 c pay s b → BufferAnswers c (payArg pay) 32 u →
        ∃ t, exec (.timeExchange c) s = .next (complete c stOk 0 t)
          ∧ OutputIs c (payArg pay) (natLe 8 b.count ++ natLe 8 (tickOf u) ++ natLe 8 (frozenNow u b)
              ++ natLe 1 (bayModeCode b.mode) ++ natLe 1 b.point ++ copies 6 0) t
          ∧ OnlyChanges [.hostMem, .inProgress] u t)
    ∧ (BayTakes 0x0209 c pay s b → ∃ t, exec (.bayRemove c) s = .next (complete c stOk 0 t) ∧ bayOf t i = none
      ∧ (∀ j, j ≠ i → bayOf t j = bayOf s j)
      ∧ (∀ x, x ∈ t.xings → touchesBay b x = true → x.state = .pending
          ∧ (inBay b x.sender = true → x.outDecl = false) ∧ (inBay b x.recv = true → x.inDecl = false))
      ∧ (∀ k, k ∉ bayCores b → coreOf t k = coreOf s k)
      ∧ OnlyChanges [.bays, .cores, .xings, .host, .hostMem, .mgmt, .inProgress] u t)
    ∧ (BayTakes 0x020B c pay s b → BufferAnswers c (payArg pay) (16 + 32 * b.traps.length) u →
        ∃ (t : State) (ts : List Trap), exec (.hazardGet c) s = .next (complete c stOk 0 t) ∧ bayOf t i = some { b with traps := [], trapsLost := 0 }
          ∧ ts.Perm b.traps ∧ ts.Pairwise (fun x y => x.cycle ≤ y.cycle)
          ∧ OutputIs c (payArg pay) (natLe 2 ts.length ++ copies 2 0 ++ natLe 4 b.trapsLost ++ copies 8 0
              ++ ts.flatMap trapBytes) t
          ∧ (∀ j, j ≠ i → bayOf t j = bayOf s j) ∧ OnlyChanges [.bays, .hostMem, .inProgress] u t)

/-- What happens at a bay by itself. A freeze that is due holds the bay, and the conditions that are met then are met for good;
once all are it runs again, and its frozen time has grown. A raised rail lets a point change reach the head, which stops the
oscillator; 1.5 µs later the point is the new one and the command completes; on a loaded bay nothing stops. A stop cycle closes
the crossings and the bay drains; when the streams end it is done. A bay held for 100 ms and one that loses a condition of F2100
report it once. -/
def Obligations.BaysRunHoldAndChange : Prop :=
  ∀ (p : BayId) (time : Nat) (b : Bay) (s : State), bayOf s p.val = some b →
    let i := p.val
    let u := atTime time s
    (b.mode = .running → b.freezeDue = some (b.count - 1) → 0 < b.count → bayQuiet u b b.count = true →
      let f := { beginFreeze u b with mode := .held, holds := b.holds + 1 }
      ∃ t, exec (.bayFreeze p time) s = .next t
        ∧ bayOf t i = some { f with conds := b.conds.filter (fun h => (evalConds i b.conds (setBay i f u)).1.contains h) }
        ∧ (∀ j, j ≠ i → bayOf t j = bayOf s j) ∧ (∀ j, sansHolds (coreOf t j) = sansHolds (coreOf s j))
        ∧ OnlyChanges [.bays, .cores, .xings] u t)
    ∧ (b.mode = .held → bankOver u b = true → (∀ x, x ∈ b.bankPlans → b.count ≤ x.freeze) →
        (∀ n, b.faultDue = some n → b.count ≤ n) → (evalConds i (holdsNow b) u).1 = [] →
        ∃ t, exec (.bayResume p time) s = .next t
          ∧ bayOf t i = some { endFreeze u b with
              mode := .running, conds := b.conds.filter (fun h => !(holdsNow b).contains h)
              freezeDue := b.freezeDue.filter (fun n => decide (b.count ≤ n)), bankHeld := none }
          ∧ (∀ j, j ≠ i → bayOf t j = bayOf s j) ∧ OnlyChanges [.bays, .cores, .xings] u t
          ∧ (∀ j, sansHolds { coreOf t j with writes := [] } = sansHolds { coreOf s j with writes := [] })
          ∧ (holdsNow b = [] → t.xings = s.xings))
    ∧ (b.mode = .held → b.heldLong = false → (∃ t0, b.frozenAt = some t0 ∧ t0 + 100000000 ≤ u.now) →
        exec (.bayHeldLong p time) s = .next (raise1 (evBay 0x0202 i b.part (holdNowBits u i b) (b.count - 1))
          (setBay i { b with heldLong := true } u)))
    ∧ (let warm := inletTooWarm u && !b.boostTold.1
       boosted b = true → (warm = true ∨ ((∃ x, x ∈ baySites b ∧ hasHeadroom u x = false) ∧ b.boostTold.2 = false)) →
        exec (.boostConditionLost p time) s = .next (raise1 (evBay 0x0205 i b.part (b2n (!warm)) 0)
          (setBay i { b with
            boostLost := true, boostTold := if warm then (true, b.boostTold.2) else (b.boostTold.1, true) } u)))
    ∧ (∀ q, b.change = some q → q.stage = .railRising →
        exec (.railRaised p time) s = .next (setBay i { b with change := some { q with
          stage := if b.mode = .loaded then .relocking else .atHead
          freeze := if b.mode = .held then b.count - 1 else b.count - 1 + 6, since := u.now } } u))
    ∧ (∀ q, b.change = some q → q.stage = .atHead →
        (b.mode = .held ∨ (b.mode = .running ∧ bayQuiet u b b.count = true ∧ q.freeze + 1 = b.count)) →
        exec (.pointStop p time) s = .next (setBay i { endIdle u (beginFreeze u b) with
          mode := .pointChange
          change := some { q with stage := .stopped, freeze := b.count - 1, wasHeld := b.mode == .held, since := u.now } } u))
    ∧ (∀ q, b.change = some q → q.stage = .stopped → b.mode = .pointChange → q.since + 1500 ≤ u.now →
        b.faultDue = none → stopsBays u b.part = false →
        ∃ v x, exec (.relockEnd p time) s = .next (complete q.cmd stOk 0 v) ∧ bayOf v i = some x
          ∧ x.point = q.target ∧ x.change = none ∧ x.boostLost = false ∧ x.count = b.count
          ∧ (q.wasHeld = true → x.mode = .held ∧ x.holds = b.holds ∧ ∀ h, h ∈ x.conds → h ∈ b.conds)
          ∧ (q.wasHeld = false → b.freezeDue = none →
              x.mode = .running ∧ x.frozenAt = none ∧ x.frozenNs = frozenNow u b ∧ x.conds = b.conds)
          ∧ (∀ j, j ≠ i → bayOf v j = bayOf s j) ∧ OnlyChanges [.bays, .cores, .xings] u v)
    ∧ (∀ q, b.change = some q → q.stage = .relocking → q.since + 1500 ≤ u.now →
        exec (.relockEnd p time) s = .next (complete q.cmd stOk 0 (setBay i { b with
          change := none, point := if b.mode = .loaded then q.target else b.point } u)))
    ∧ (∀ q n, b.stop = some q → q.stopCycle = some n →
        ((b.mode = .running ∧ n = b.count ∧ bayQuiet u b n = true)
          ∨ (b.mode = .held ∧ (q.atMark = false ∨ n = b.count))) →
        ∃ t, exec (.stopCycle p time) s = .next t
          ∧ bayOf t i = some { endFreeze u b with
              mode := .draining, conds := [], freezeDue := none, bankPlans := [], bankHeld := none, change := none
              stop := some { q with stopCycle := some b.count, since := u.now } }
          ∧ (∀ k, k ∈ bayCores b → (coreOf t k).seq.recs = [] ∧ (coreOf t k).ax.reserved = 0 ∧ (coreOf t k).rt.claims = []
              ∧ (coreOf t k).tags = (coreOf s k).tags ∧ (coreOf t k).rows = (coreOf s k).rows
              ∧ (coreOf t k).eng = (coreOf s k).eng)
          ∧ (∀ x, x ∈ t.xings → touchesBay b x = true → x.state = .closed)
          ∧ (∀ x, x ∈ s.xings → touchesBay b x = false → x ∈ t.xings)
          ∧ (∀ j, j ≠ i → bayOf t j = bayOf s j)
          ∧ OnlyChanges [.bays, .cores, .xings, .host, .hostMem, .mgmt, .inProgress] u t)
    ∧ (b.mode = .running → b.faultDue = none → 0 < b.count → bayQuiet u b b.count = true →
        (∀ k, k ∈ bayCores b → coreDone (coreOf s k) b.count = true) →
        ∃ v, exec (.bayDone p time) s = .next (raise1 (evBay 0x0203 i b.part 0 (b.count - 1)) v)
          ∧ bayOf v i = some { beginFreeze u b with
              mode := .done, conds := [], freezeDue := none, bankPlans := [], change := none }
          ∧ (∀ k, k ∈ bayCores b → (coreOf v k).tags = (coreOf s k).tags ∧ (coreOf v k).eng = (coreOf s k).eng
              ∧ (coreOf v k).seq = (settleMarks b.count (coreOf s k)).seq)
          ∧ (∀ j, j ≠ i → bayOf v j = bayOf s j)
          ∧ OnlyChanges [.bays, .cores, .host, .hostMem, .mgmt, .inProgress] u v)

/-- Droops and bank holds come from a core. A droop sensed in cycle t lengthens cycle t + 3. A planned bank hold freezes the bay
after its cycle for its periods, and counts in BANK_HOLDS; with the hazard detector it traps instead and leaves a HOST
condition. Faults and the end of a stop. A fault that is due takes the bay to fault hold, reports it with the bay's code and
core, and keeps the last cycle, at which every core has frozen (that all do at one cycle is the model's choice, log entry 138).
A stop ends when nothing is left to drain: the bay is stopped, every core takes the head's epoch plus 1, its token queues are
empty, and the command completes with that epoch. When the drain bound passes first, the same happens with an event and what the
access engines had under way is given up. -/
def Obligations.BaysSlowStopAndFault : Prop :=
   (∀ (k : CoreId) (t i : Nat) (b : Bay) (s : State), bayOfCore s (coreNo k) = some (i, b) → t + 1 = b.count →
      (∀ level : Fin 4, level ≠ 0 → (b.mode = .running ∨ b.mode = .draining) → (∀ x, x ∈ b.droops → x.1 ≠ t + 3) →
        exec (.droop k t level) s = .next (setBay i { b with droops := b.droops ++ [(t + 3, level.val)] } s))
      ∧ (∀ x, b.bankPlans.filter (fun y => y.core == coreNo k && y.freeze == t) = [x] →
          (b.mode = .held ∨ (b.mode = .running ∧ bayQuiet s b b.count = true)) →
          ∃ u y, exec (.bankHold k t) s = .next u ∧ bayOf u i = some y
            ∧ y.mode = .held ∧ y.count = b.count ∧ y.frozenAt = some (b.frozenAt.getD s.now)
            ∧ y.holds = (if b.mode = .running then b.holds + 1 else b.holds) ∧ x ∉ y.bankPlans
            ∧ (b.bankHeld = none → y.bankHeld = some x)
            ∧ (b.hazard = false → y.traps = b.traps ∧ (∀ h, h ∈ y.conds → h ∈ b.conds)
                ∧ (coreOf u (coreNo k)).st = { (coreOf s (coreNo k)).st with
                    bankHolds := satInc 255 (coreOf s (coreNo k)).st.bankHolds })
            ∧ (b.hazard = true → HoldCond.trap ∈ y.conds ∧ (coreOf u (coreNo k)).st = (coreOf s (coreNo k)).st
                ∧ (b.traps.length < 16 → ∃ r, y.traps = b.traps ++ [r] ∧ r.cls = 6 ∧ r.core = coreNo k ∧ r.sub = x.bank
                    ∧ r.cycle = t ∧ r.detail = x.periods)
                ∧ (16 ≤ b.traps.length → y.trapsLost = b.trapsLost + 1))
            ∧ (∀ j, j ≠ i → bayOf u j = bayOf s j)
            ∧ ∀ j, sansHolds { coreOf u j with st := statusZero } = sansHolds { coreOf s j with st := statusZero }))
   ∧ (∀ (p : BayId) (time : Nat) (b : Bay) (s : State), bayOf s p.val = some b →
      let i := p.val
      let u := atTime time s
      (∀ n, b.faultDue = some n →
        (((b.mode = .running ∨ b.mode = .draining) ∧ (5 ≤ b.fault ∨ (n < b.count ∧ bayQuiet u b b.count = true)))
          ∨ b.mode = .held ∨ b.mode = .loaded ∨ b.mode = .done) →
        let last := if b.mode = .loaded then 2 ^ 64 - 1 else b.count - 1
        let k := b.faultCore.getD (bayHead b)
        ∃ t x, exec (.faultHold p time) s = .next t ∧ bayOf t i = some x ∧ x.mode = .faultHold ∧ x.fault = b.fault
          ∧ x.faultCore = b.faultCore ∧ x.faultCycle = some last ∧ x.faultDue = none ∧ x.conds = [] ∧ x.change = none
          ∧ x.count = b.count ∧ x.frozenAt = some (b.frozenAt.getD u.now)
          ∧ (∀ j, j ≠ i → bayOf t j = bayOf s j) ∧ (∀ j, j ∈ bayCores b → (coreOf t j).frozeAt = some last)
          ∧ (b.change = none → b.stop = none →
              Raises { evBay 0x0201 i b.part b.fault last with cx := coreX k, cy := coreY k } u t)
          ∧ (∀ q c, b.mode = .draining → b.stop = some q → q.cmd = some c → b.change = none → u.host.removing = none →
              ∃ v, t.inProgress = (complete c stFault 0 v).inProgress ∧ v.inProgress = u.inProgress))
      ∧ (∀ q, b.stop = some q → q.image = none → u.host.removing = none →
          (b.mode = .done ∨ b.mode = .faultHold ∨ (b.mode = .draining ∧ bayQuiet u b b.count = true
            ∧ drainFrom u b + 256 ≤ b.count
            ∧ ∀ k, k ∈ bayCores b → enginesIdle (coreOf s k) b.count = true ∧ accessDrained (coreOf s k) = true)) →
          ∃ v x, exec (.drainComplete p time) s = .next (completeOpt q.cmd stOk (headEpoch v b) v)
            ∧ bayOf v i = some x ∧ x.mode = .stopped ∧ x.stop = none ∧ x.point = b.point ∧ x.count = b.count
            ∧ x.faultDue = none ∧ x.frozenNs = frozenNow u b ∧ x.frozenAt = none
            ∧ (∀ k, k ∈ bayCores b →
                (coreOf v k).seq.epoch = epochAt (coreOf s (bayHead b)) b.count + 1 ∧ (coreOf v k).seq.queues = copies 4 []
                ∧ (coreOf v k).image = (coreOf s k).image ∧ (coreOf v k).tags = (coreOf s k).tags)
            ∧ (∀ k, k ∉ bayCores b → coreOf v k = coreOf s k)
            ∧ (∀ j, j ≠ i → bayOf v j = bayOf s j))
      ∧ (∀ q, b.stop = some q → q.image = none → u.host.removing = none → b.mode = .draining →
          q.since + 1000 * b.drainBound ≤ u.now →
          ∃ v w x, exec (.drainOverrun p time) s = .next (completeOpt q.cmd stOk (headEpoch v b) v)
            ∧ w = raise1 (evBay 0x0204 i b.part 0 (b.count - 1)) (setBay i { b with overrun := true } u)
            ∧ v.ev = w.ev ∧ v.host = w.host ∧ v.hostMem = w.hostMem
            ∧ bayOf v i = some x ∧ x.mode = .stopped ∧ x.overrun = true ∧ x.stop = none ∧ x.count = b.count
            ∧ (∀ k, k ∈ bayCores b →
                (coreOf v k).seq.epoch = epochAt (coreOf s (bayHead b)) b.count + 1 ∧ (coreOf v k).seq.queues = copies 4 []
                ∧ (coreOf v k).ax.started = [] ∧ (coreOf v k).ax.bursts = [])
            ∧ (∀ j, j ≠ i → bayOf v j = bayOf s j)))

/-- BAY_LOAD: an image that breaks a rule loads nothing, and the report and the status say which rule; one in order is loaded on
the lowest free handle, each core with its sections, its tags as its slots give them, the image's epoch and everything else at
rest, and a crossing that both ends declare opens. BAY_RECONFIGURE stops a bay first, and loads a stopped one at once on its
handle. LOAD_REPORT_GET writes the partition's reports. -/
def Obligations.BaysLoad : Prop :=
  ∀ (c : Cmd) (pay : List Byte) (s : State), Kept s →
    let u := takeCmd c s
    (LoadTakes c pay s →
      let r : LoadReq := ⟨c, hostRead u (leAt pay 0 8) (leAt pay 8 4), leAt pay 8 4, cmdPart c, bitAt (leAt pay 0xC 1) 0,
        leAt pay 0x10 4, none⟩
      (∀ e, loadErr u r = some e →
        exec (.bayLoad c) s = .next (complete c e.status 0 (keepReport r e 0xFFFF u)))
      ∧ (loadErr u r = none → DiesRun (imgOf r.bytes) u → CoresInOrder (imgOf r.bytes) u →
        ∃ t, exec (.bayLoad c) s = .next (complete c stOk (freeHandle u) t)
          ∧ bayOf t (freeHandle u) = some { bayLoaded r (imgOf r.bytes) none with idleSince := some u.now }
          ∧ (∀ j x, j ≠ freeHandle u → bayOf s j = some x → x.mode ≠ .held → bayOf t j = some x)
          ∧ (∀ k, k ∈ imCores (imgOf r.bytes) →
              (coreOf t k).image = imImage (imgOf r.bytes) k
              ∧ (coreOf t k).tags = (imImage (imgOf r.bytes) k).slots.map tagLoaded
              ∧ (coreOf t k).seq.epoch = BitVec.ofNat 4 (imEpoch r.bytes) ∧ (coreOf t k).seq.queues = coreZero.seq.queues
              ∧ (coreOf t k).eng.banks = coreZero.eng.banks ∧ (coreOf t k).eng.srState = (coreOf s k).eng.srState
              ∧ (coreOf t k).rt.run.page = (imImage (imgOf r.bytes) k).page0
              ∧ (coreOf t k).microcode = (coreOf s k).microcode)
          ∧ (cmdPart c < 8 → (partOf t (cmdPart c)).loadReports
              = (loadReport r (errStatus stOk) (freeHandle u) u :: (partOf s (cmdPart c)).loadReports).take 16)
          ∧ OnlyChanges [.bays, .cores, .xings, .parts, .bufs] u t))
    ∧ (∀ b, Accepted 0x0205 c pay s → firstFail (bayFormChecks ⟨false, true, true, true⟩ pay) = stOk →
        bayOf s (payBay pay) = some b → b.part = cmdPart c → 64 ≤ payArgLen pay → s.install = false →
        stopBlocked b (bitAt (payFlags pay) 0) = false → SupervisorsRun u b →
        (b.mode = .running ∨ b.mode = .held ∨ b.mode = .done → ∃ t q, exec (.bayReconfigure c) s = .next t
          ∧ bayOf t (payBay pay) = some { b with stop := some q } ∧ q.cmd = some c
          ∧ q.image = some (payArg pay, payArgLen pay) ∧ q.atMark = bitAt (payFlags pay) 0
          ∧ (q.atMark = true → q.stopCycle = none)
          ∧ (q.atMark = false → b.mode = .running → q.stopCycle = some (b.count - 1 + 6))
          ∧ (∀ j, j ≠ payBay pay → bayOf t j = bayOf s j))
        ∧ (b.mode = .stopped → hostAnswer u (payArg pay) (payArgLen pay) = none →
          let r : LoadReq := ⟨c, hostRead u (payArg pay) (payArgLen pay), payArgLen pay, b.part, false, 0, some (payBay pay)⟩
          loadErr u r = none → CoresInOrder (imgOf r.bytes) u →
          ∃ t, exec (.bayReconfigure c) s = .next (complete c stOk (headEpoch u b) t)
            ∧ bayOf t (payBay pay) = some { bayLoaded r (imgOf r.bytes) (some b) with idleSince := some u.now }
            ∧ (∀ j x, j ≠ payBay pay → bayOf s j = some x → x.mode ≠ .held → bayOf t j = some x)
            ∧ ∀ k, k ∈ imCores (imgOf r.bytes) → (coreOf t k).image = imImage (imgOf r.bytes) k
              ∧ (coreOf t k).seq.epoch = BitVec.ofNat 4 (imEpoch r.bytes)))
    ∧ (Accepted 0x020A c pay s → 512 ≤ cmdLen c → isMbData c = false → BufferAnswers c (cmdAddr c) 512 u →
        ∃ t, exec (.loadReportGet c) s = .next (complete c stOk 0 t)
          ∧ OutputIs c (cmdAddr c) (padTo 512
              ((partOf s (cmdPart c)).loadReports.flatMap (reportBytes (kingFuse s).stepping.toNat))) t
          ∧ OnlyChanges [.hostMem, .inProgress] u t)

/-! ## The service fabric -/

/-- A packet on its way comes in: none of its stream was sent before it, no hop on its way retrains, and no router there has
gone dark under it. -/
def Sys2Proof.ComesIn (sent : List Packet) (since : Option Nat) (q : Packet) (s : State) : Prop :=
  isNextOf sent q = true ∧ routeTrains s q = false ∧ packetLost s q since = (false, s)

/-- A request comes in. -/
def Sys2Proof.RequestIn (q : Packet) (s : State) : Prop := ComesIn (s.fab.flight.map (fun f => f.q)) (sentAt s q) q s

/-- A request reaches its unit: it comes in, its router lets it in, and no reset of its partition keeps it waiting. -/
def Sys2Proof.Reaches (q : Packet) (s : State) : Prop :=
  RequestIn q s ∧ arrivalStatus s q = none ∧ waitsForReset q s = false

/-- The codes of a memory find nothing in a range: no word there is beyond correction, and no injection is armed. -/
def Sys2Proof.CleanRange (m : MemKind) (off n : Nat) (s : State) : Prop :=
  s.err.armed = [] ∧ ∀ w, w ∈ wordsOf m off n → isBad s m w = false

/-- The memory takes an access to a range now: a core's access port holds no remote write and its banks have a port free, and a
stack is not in self-refresh and holds fewer than 1,024 bursts. -/
def Sys2Proof.memOpen (s : State) (m : MemKind) (off n : Nat) : Prop :=
  match m with
  | .core k => (coreOf s k).ax.remote = [] ∧ portsFree s k (spanRows off n) = true
  | .stack n => selfRefreshing s n = false ∧ outstanding s n < 1024
  | _ => True

/-- What a request meets where it arrives, in the order of its stream. Its router answers it where it may not enter. A READ of a
memory is answered with the bytes there, and a WRITE to a stack or a die buffer changes those bytes and no other; a WRITE to a
core waits at its access port, and one to a weight-store array is a bad request. A request port queues its 64-byte requests, or
keeps the packet waiting; an inflate unit answers with blocks. A message is only counted. -/
def Obligations.ServicePackets : Prop :=
  ∀ (q : Packet) (time : Nat) (s : State), Kept s →
    let u := atTime time s
    let f : EccFinding := ⟨[], []⟩
    let i := addrSite (destOf q)
    let a := addrUnit (destOf q)
    let o := addrOff (destOf q)
    (∀ st e, RequestIn q u → arrivalStatus u q = some st → st ≠ 3 →
      (opcodeOf q < 2 ∨ 6 < opcodeOf q → ∃ t, exec (.serviceRead q e time) s = .next t
        ∧ t.fab.answers = s.fab.answers ++ [answerPacket q st []] ∧ OnlyChanges [.fab] u t)
      ∧ (opcodeOf q = 2 → dataFits q = true → ∃ t, exec (.serviceWrite q e time) s = .next t
        ∧ t.fab.answers = s.fab.answers ++ [answerPacket q st []] ∧ OnlyChanges [.fab] u t))
    ∧ (addrY (destOf q) < 14 → (isNextOf (s.fab.flight.map (fun f => f.q)) q = false ∨ routeTrains u q = true) →
        (opcodeOf q < 2 ∨ 6 < opcodeOf q → ∀ e, exec (.serviceRead q e time) s = .next u)
        ∧ (opcodeOf q = 2 → dataFits q = true → ∀ e, exec (.serviceWrite q e time) s = .next u))
    ∧ (∀ m, opcodeOf q = 1 → Reaches q u → memKindOf i a = some m → badRange q = false → o + q.len ≤ memSize u m →
        memOpen u m o q.len → CleanRange m o q.len u →
        ∃ t, exec (.serviceRead q f time) s = .next t
          ∧ t.fab.answers = s.fab.answers ++ [answerPacket q 0 (memBytes u m o q.len)] ∧ OnlyChanges [.fab] u t)
    ∧ (∀ m, opcodeOf q = 2 → dataFits q = true → Reaches q u → memKindOf i a = some m → badRange q = false →
        o + q.len ≤ memSize u m →
        ((∃ n, m = .buffer n ∨ m = .stack n) → memOpen u m o q.len → CleanRange m o q.len u →
          ∃ t, exec (.serviceWrite q f time) s = .next t
            ∧ t.fab.answers = s.fab.answers ++ [answerPacket q 0 []] ∧ memBytes t m o q.len = q.data
            ∧ (∀ b, b < addrOf (memSite m) (memUnit m) o ∨ addrOf (memSite m) (memUnit m) o + q.len ≤ b →
                memByte t.mem b = memByte s.mem b)
            ∧ OnlyChanges [.fab, .mem, .hbms, .bufs] u t)
        ∧ (∀ k, m = .core k → (∀ x, x ∈ s.fab.flight → x.q ≠ q) →
            ∃ t, exec (.serviceWrite q f time) s = .next t ∧ t.fab.answers = s.fab.answers
              ∧ coreOf t k = { coreOf s k with ax := { (coreOf s k).ax with
                  remote := (coreOf s k).ax.remote ++ [⟨q, false, false, 0⟩] } }
              ∧ (∀ j, j ≠ k → coreOf t j = coreOf s j) ∧ OnlyChanges [.fab, .cores] u t)
        ∧ (∀ w, m = .array w → ∃ t, exec (.serviceWrite q f time) s = .next t
            ∧ t.fab.answers = s.fab.answers ++ [answerPacket q 6 []] ∧ OnlyChanges [.fab] u t))
    ∧ (opcodeOf q = 2 → dataFits q = true → Reaches q u → placeRole i = 2 → a = 1 → engineAbsent u (stackOfSite i) = false →
        badRange q = false → o + q.len ≤ 0x100000 → o % 64 = 0 → q.len % 64 = 0 →
        ((engineOf s (stackOfSite i)).queue.length + q.len / 64 ≤ 4096 →
          ∃ t, exec (.requestPortWrite q time) s = .next t
            ∧ t.fab.answers = s.fab.answers ++ [answerPacket q 0 []]
            ∧ engineOf t (stackOfSite i) = { engineOf s (stackOfSite i) with
                queue := (engineOf s (stackOfSite i)).queue ++ splitRequests u (stackOfSite i) q }
            ∧ (∀ n, n ≠ stackOfSite i → engineOf t n = engineOf s n) ∧ OnlyChanges [.fab, .engines] u t)
        ∧ (4096 < (engineOf s (stackOfSite i)).queue.length + q.len / 64 → exec (.requestPortWrite q time) s = .next u))
    ∧ (opcodeOf q = 1 → Reaches q u → placeRole i = 4 → a = 1 →
        badRange { q with dest := BitVec.ofNat 56 0 } = false → o < 0x400000000 →
        let w := wstoreOfSite i
        let r := pageOf u w (o / 65536)
        let k := q.len / blockBytes r.elemFmt
        let sp := inflateSpan r (o % 65536) k
        (inflateBad r (o % 65536) q.len = true → ∃ t, exec (.inflateRead q f time) s = .next t
          ∧ t.fab.answers = s.fab.answers ++ [answerPacket q 6 []] ∧ OnlyChanges [.fab] u t)
        ∧ (inflateBad r (o % 65536) q.len = false → CleanRange (.array w) (65536 * (o / 65536) + sp.1) sp.2 u →
          ∃ t, exec (.inflateRead q f time) s = .next t
            ∧ t.fab.answers = s.fab.answers ++ [answerPacket q 0
                (inflateBlocks r (o % 65536) k (memBytes u (.array w) (65536 * (o / 65536) + sp.1) sp.2))]
            ∧ OnlyChanges [.fab] u t))
    ∧ (opcodeOf q = 6 → dataFits q = true → ∃ t, exec (.ctrlPacket q time) s = .next t ∧ t.fab.answers = s.fab.answers
        ∧ t.fab.flight = s.fab.flight
        ∧ (arrivalStatus u q = some 3 → mapGetD t.fab.drops i 0 = mapGetD s.fab.drops i 0 + 1)
        ∧ (arrivalStatus u q ≠ some 3 → t.fab.drops = s.fab.drops ∧ OnlyChanges [.fab] u t))

/-- Answers and their absence. An answer ends the wait of its request, and a burst slot of a core has its status and data;
one that no request waits for is dropped and counted. A request that has waited for 10 ms is answered with EXPIRED by its
source router. Hops, routes and congestion maps. The next flit in SEQ is accepted; one whose CRC fails is kept for a replay and
counted, the eighth replay of one flit retrains the hop, and the third failed retrain in a row takes the hop down with its event
and loses what its sender still held. The route tables name the
working routers and the hops that are down. Samples fall into their bins, windows close at a tick, and FABRIC_MAP_GET writes
one. -/
def Obligations.AnswersHopsAndCongestionMaps : Prop :=
   ((∀ (q : Packet) (time : Nat) (s : State), 3 ≤ opcodeOf q → opcodeOf q ≤ 5 → q ∈ s.fab.answers → Kept s →
      let i := addrSite (destOf q)
      let a := addrUnit (destOf q)
      let w := s.fab.awaits.find? (awaits (srcSite q) i a q.tag.toNat)
      ComesIn s.fab.answers (w.map (fun x => x.sent)) q (atTime time s) →
      (srcSite q < 224 → (routeOf s.fab.routes (srcSite q) i).isSome = true) →
      (w = none → ∃ t, exec (.serviceResponse q time) s = .next t ∧ t.fab.answers = s.fab.answers.erase q
        ∧ t.fab.awaits = s.fab.awaits ∧ mapGetD t.fab.drops i 0 = mapGetD s.fab.drops i 0 + 1
        ∧ OnlyChanges [.fab] (atTime time s) t)
      ∧ (∀ x, w = some x → ∃ t, exec (.serviceResponse q time) s = .next t ∧ t.fab.answers = s.fab.answers.erase q
        ∧ t.fab.awaits = s.fab.awaits.erase x
        ∧ (placeRole i = 1 → a < 64 →
            (coreOf t (coreOfBit i a)).ax.bursts = (coreOf s (coreOfBit i a)).ax.bursts.map (fun b =>
              if b.tag = q.tag ∧ b.answered = false then
                { b with answered := true, status := q.status.toNat, data := q.data } else b)
            ∧ (∀ j, j ≠ coreOfBit i a → coreOf t j = coreOf s j) ∧ OnlyChanges [.fab, .cores] (atTime time s) t)))
    ∧ ∀ (p : SiteId) (unit : BitVec 8) (tag : BitVec 12) (time : Nat) (x : Await) (s : State), Kept s →
      let u := atTime time s
      s.fab.awaits.find? (fun a => srcSite a.q == siteNo p && a.q.srcUnit == unit && a.q.tag == tag
        && decide (a.sent + 10000000 ≤ u.now)) = some x →
      ∃ t, exec (.requestExpired p unit tag time) s = .next t ∧ t.fab.awaits = s.fab.awaits.erase x
        ∧ (placeRole (siteNo p) = 1 → unit.toNat < 64 →
            (coreOf t (coreOfBit (siteNo p) unit.toNat)).ax.bursts
              = (coreOf s (coreOfBit (siteNo p) unit.toNat)).ax.bursts.map (fun b =>
                  if b.tag = tag ∧ b.answered = false then { b with answered := true, status := 8, data := [] } else b)
            ∧ OnlyChanges [.fab, .cores] u t))
   ∧ (∀ (p : SiteId) (time : Nat) (s : State), Kept s → s.err.armed = [] →
      let u := atTime time s
      let i := siteNo p
      (∀ side fl, let n := hopSideNo side
        let h := hopOf s (6 * i + n)
        siteWorks u i = true → h.training = false → h.down = false →
        (flitGood fl = true → (sidebandOf fl).seq = h.expect → ∃ g, exec (.hopReplay p side fl time) s = .next (setHop (6 * i + n) g u)
          ∧ g.replays = 0 ∧ g.resend = false ∧ g.expect = (h.expect + 1) % 8
          ∧ g.buffer = h.buffer.filter (fun x => (sidebandOf x).seq != h.expect))
        ∧ (flitGood fl = true → (sidebandOf fl).seq ≠ h.expect →
            exec (.hopReplay p side fl time) s = .next (setHop (6 * i + n) (if h.resend then keepFlit fl h else h) u))
        ∧ (flitGood fl = false → ∃ t, exec (.hopReplay p side fl time) s = .next t
          ∧ hopOf t (6 * i + n)
              = { keepFlit fl h with replays := h.replays + 1, resend := true, training := decide (8 ≤ h.replays + 1) }
          ∧ fl ∈ (hopOf t (6 * i + n)).buffer
          ∧ mapGetD t.fab.ports (6 * i + n) portZero = { mapGetD s.fab.ports (6 * i + n) portZero with
              retries := satInc 65535 (mapGetD s.fab.ports (6 * i + n) portZero).retries }
          ∧ OnlyChanges [.fab, .host, .ev, .fw, .err, .hostMem, .bootLog] u t))
      ∧ (∀ side ok, let n := hopSideNo side
        let h := hopOf s (6 * i + n)
        h.training = true → ∃ t, exec (.hopRetrain p side ok time) s = .next t
          ∧ (ok = true → hopOf t (6 * i + n) = { h with replays := 0, training := false, fails := 0 })
          ∧ (ok = false → h.fails < 2 → hopOf t (6 * i + n) = { h with fails := h.fails + 1 })
          ∧ (ok = false → 2 ≤ h.fails → hopOf t (6 * i + n) = { hopZero with fails := 3, down := true }
              ∧ (∀ f, f ∈ t.fab.flight → f ∈ s.fab.flight ∧ headerOf f.q ∉ h.buffer.filterMap (flitHeader h))
              ∧ ∃ v, t = raise1 (evSite 0x0300 0 i n 0) v)
          ∧ ∀ k, k ≠ 6 * i + n → hopOf t k = hopOf s k)
      ∧ (∃ t, exec (.routeRewrite time) s = .next t
          ∧ (∀ j, j ∈ t.fab.routes.works ↔ j < 224 ∧ siteWorks u j = true)
          ∧ (∀ k, k ∈ t.fab.routes.down ↔ ∃ h, (k, h) ∈ s.fab.hops ∧ h.down = true)
          ∧ OnlyChanges [.fab] u t)
      ∧ (∀ fills waits, sampleFormOk fills waits = true → siteWorks s i = true →
          ∃ t, exec (.congestionSample p fills waits time) s = .next t
            ∧ (∀ n, n < 6 → portThere i n = true → mapGetD t.fab.ports (6 * i + n) portZero = { mapGetD s.fab.ports (6 * i + n) portZero with
                bins := modAt (mapGetD s.fab.ports (6 * i + n) portZero).bins (fillBin (fills.getD n 0)) (satInc 0xFFFFFFFF)
                stall := ((mapGetD s.fab.ports (6 * i + n) portZero).stall.zip (waits.getD n [])).map
                  (fun x => satInc 65535 x.1 (b2n x.2)) })
            ∧ (∀ k, (∀ n, n < 6 → portThere i n = true → k ≠ 6 * i + n) → mapGetD t.fab.ports k portZero = mapGetD s.fab.ports k portZero)
            ∧ OnlyChanges [.fab] u t)
      ∧ (s.fab.window < tickOf u → ∃ t w, exec (.congestionWindowEnd time) s = .next t
          ∧ t.fab = { s.fab with windows := (w :: s.fab.windows).take 17, window := tickOf u, ports := [], drops := [] }
          ∧ w.tick = s.fab.window ∧ w.generation = s.boot.generation.toNat ∧ w.ports = s.fab.ports ∧ w.drops = s.fab.drops
          ∧ OnlyChanges [.fab, .links] u t)
      ∧ ∀ c pay, Accepted 0x0306 c pay s → pay.length = 16 → 68160 ≤ leAt pay 4 4 → leAt pay 0 1 ≤ 15 → zeroAt pay 1 3 = true →
          let out := mapBytes ((windowsReady (takeCmd c s)).getD (leAt pay 0 1) ⟨0, 0, [], [], []⟩)
          BufferAnswers c (leAt pay 8 8) out.length (takeCmd c s) →
          ∃ t, exec (.fabricMapGet c) s = .next (complete c stOk 0 t) ∧ OutputIs c (leAt pay 8 8) out t
            ∧ OnlyChanges [.hostMem, .inProgress] (takeCmd c s) t)

/-! ## Partitions and stacks -/

/-- What the commands of partitions, windows and scrubbing check of their own, in order (that PARTITION_REMOVE answers
UNIT_ABSENT for an absent site of a stack, a link or a weight store is the model's choice, log entry 148). -/
def Sys2Proof.partitionChecks (op : Nat) (pay : List Byte) (s : State) : List (Bool × Nat) :=
  let p := leAt pay 0 1
  let i := partSite pay
  let form (flags : Nat) : List (Bool × Nat) := [(decide (pay.length ≠ 8), stBadLength),
    (decide (7 < p) || decide (flags < leAt pay 1 1) || !zeroAt pay 2 6, stBadField)]
  let siteForm : List (Bool × Nat) := [(decide (pay.length ≠ 8), stBadLength),
    (decide (7 < p) || decide (0 < leAt pay 1 1) || (decide (15 < leAt pay 2 1) || decide (13 < leAt pay 3 1)), stBadField)]
  let gen : Bool × Nat :=
    (decide (leAt pay 4 4 ≠ 0) && decide (leAt pay 4 4 ≠ s.boot.generation.toNat), stFloorplanStale)
  match op with
  | 0x0300 => form 3 ++ [(partExists s p, stBusy)]
  | 0x0301 => form 0 ++ [(!partExists s p, stBadField), (ownsAny s p, stBusy)]
  | 0x0302 => siteForm ++ [(!partExists s p, stBadField), (!isDieSite i, stBadField), (siteAbsent s i, stUnitAbsent),
      (!usableState (entryAt s i).state, stDenied), ((entryAt s i).part != 0xFF && (entryAt s i).part != p, stBusy), gen]
  | 0x0303 => siteForm ++ [(siteAbsent s i && decide (2 ≤ placeRole i) && decide (placeRole i ≤ 4), stUnitAbsent),
      ((entryAt s i).part != p, stBadField), gen, (unitInUse s p i, stBusy)]
  | 0x0304 =>
    let chosen := (List.range 32).filter (bitAt (leAt pay 4 4))
    [(decide (pay.length ≠ 24), stBadLength),
     (!partExists s p || decide (63 < leAt pay 1 1) || decide (1 < leAt pay 2 1) || !zeroAt pay 3 1
        || (if leAt pay 2 1 == 1 then !zeroAt pay 4 20
            else decide (leAt pay 4 4 = 0) || decide (leAt pay 0x10 8 = 0) || leAt pay 8 8 % 2048 != 0
              || leAt pay 0x10 8 % 2048 != 0), stBadField),
     (chosen.any (fun n => siteAbsent s (siteOfStack n)), stUnitAbsent),
     (chosen.any (fun n => ownerOf s (siteOfStack n) != p), stDenied),
     (chosen.any (fun n => decide (memSize s (.stack n) < leAt pay 8 8 + leAt pay 0x10 8)), stBadField)]
  | _ =>
    let h := leAt pay 2 2
    [(decide (pay.length ≠ 8), stBadLength),
     (decide (h = 0) || decide (168 < h) || (decide (31 < p) && p != 0xFF) || !zeroAt pay 1 1 || !zeroAt pay 4 4, stBadField),
     (p != 0xFF && siteAbsent s (siteOfStack p), stUnitAbsent)]

/-- A command is accepted and passes its own checks. -/
def Sys2Proof.Allowed (op : Nat) (checks : List Byte → State → List (Bool × Nat)) (c : Cmd) (pay : List Byte) (s : State) : Prop :=
  Accepted op c pay s ∧ firstFail (checks pay (takeCmd c s)) = stOk

/-- What the partition commands do. PARTITION_CREATE makes a partition with its two flags and nothing else in it, and
PARTITION_DESTROY leaves none. PARTITION_ADD gives the site to the partition, a compute die with its buffer and a stack with all
its bytes zero, and changes nothing where it has the site already; PARTITION_REMOVE takes it away. WINDOW_SET sets or clears one
window. MEM_SCRUB_SET sets the scrub period of a stack. -/
def Obligations.PartitionCommands : Prop :=
  ∀ (c : Cmd) (pay : List Byte) (s : State), Kept s → s.fp.built = true →
    let u := takeCmd c s
    let p := leAt pay 0 1
    let i := partSite pay
    (Allowed 0x0300 (partitionChecks 0x0300) c pay s → exec (.partitionCreate c) s = .next (complete c stOk 0
        (modPart p (fun _ => { partitionZero with
          present := true, debug := bitAt (leAt pay 1 1) 0, inject := bitAt (leAt pay 1 1) 1 }) u)))
    ∧ (Allowed 0x0301 (partitionChecks 0x0301) c pay s →
        exec (.partitionDestroy c) s = .next (complete c stOk 0 (modPart p (fun _ => partitionZero) u)))
    ∧ (Allowed 0x0302 (partitionChecks 0x0302) c pay s → ∃ t, exec (.partitionAdd c) s = .next (complete c stOk 0 t)
        ∧ (entryAt t i).part = p ∧ (∀ j, j ≠ i → entryAt t j = entryAt s j)
        ∧ (∀ a, memByte t.mem a ≠ memByte s.mem a →
            (placeRole i = 1 ∧ addrOf i 0x40 0 ≤ a ∧ a < addrOf i 0x40 0 + 0x2000000)
              ∨ (placeRole i = 2 ∧ addrOf i 0 0 ≤ a ∧ a < addrOf i 0 0 + 2 ^ 40))
        ∧ ((entryAt s i).part = p → t = u)
        ∧ ((entryAt s i).part ≠ p → t.boot.generation = nextGeneration s.boot.generation
            ∧ (placeRole i = 1 → ∀ a, addrOf i 0x40 0 ≤ a → a < addrOf i 0x40 0 + 0x2000000 → memByte t.mem a = 0)
            ∧ (placeRole i = 2 → ∀ a, addrOf i 0 0 ≤ a → a < addrOf i 0 0 + 2 ^ 40 → memByte t.mem a = 0)))
    ∧ (Allowed 0x0303 (partitionChecks 0x0303) c pay s → ∃ t, exec (.partitionRemove c) s = .next (complete c stOk 0 t)
        ∧ (entryAt t i).part = 0xFF ∧ (∀ j, j ≠ i → entryAt t j = entryAt s j) ∧ t.mem = s.mem ∧ t.parts = s.parts
        ∧ t.boot.generation = nextGeneration s.boot.generation)
    ∧ (Allowed 0x0304 (partitionChecks 0x0304) c pay s →
        (leAt pay 2 1 = 0 → exec (.windowSet c) s = .next (complete c stOk 0 (modPart p (fun x => { x with
            windows := x.windows.set (leAt pay 1 1) (some ⟨leAt pay 4 4, leAt pay 8 8, leAt pay 0x10 8⟩) }) u)))
        ∧ (leAt pay 2 1 = 1 → exec (.windowClear c) s = .next (complete c stOk 0 (modPart p (fun x => { x with
            windows := x.windows.set (leAt pay 1 1) none }) u))))
    ∧ (Allowed 0x0305 (partitionChecks 0x0305) c pay s → ∃ t, exec (.memScrubSet c) s = .next (complete c stOk 0 t)
        ∧ (∀ n, n < 32 → (p = n ∨ (p = 0xFF ∧ siteAbsent s (siteOfStack n) = false)) →
            mapGetD t.hbms n stackZero = { mapGetD s.hbms n stackZero with period := leAt pay 2 2 })
        ∧ (∀ n, p ≠ 0xFF → n ≠ p → mapGetD t.hbms n stackZero = mapGetD s.hbms n stackZero)
        ∧ OnlyChanges [.hbms] u t)

/-- The scrubber of a stack, which reads a word once in a scrub period. A word without error only becomes fit to score again;
one beyond correction is kept as such; the scrub of a scheduled unit ends its schedule. A row due for retirement moves into a
spare row, and the last spare used is reported. -/
def Obligations.StacksAreScrubbed : Prop :=
  ∀ (st : StackId) (time : Nat) (s : State), scrubs s st.val = true →
    let u := atTime time s
    let n := st.val
    let d := mapGetD s.hbms n stackZero
    (∀ word f, 64 * word < memSize s (.stack n) → patrolDue u.now word d = false → exec (.patrolScrub st word f time) s = .next s)
    ∧ (∀ word f, 64 * word < memSize s (.stack n) → patrolDue u.now word d = true → s.err.armed = [] →
      (f = ⟨[], []⟩ → word ∉ d.bad → ∃ t, exec (.patrolScrub st word f time) s = .next t
        ∧ (let x := mapGetD t.hbms n stackZero
           x.scored = d.scored.filter (fun y => y != word) ∧ x.bad = d.bad ∧ x.spares = d.spares ∧ x.retiring = d.retiring
             ∧ x.corrected = d.corrected ∧ word ∈ x.patrolled
             ∧ (d.since + scrubPeriod d ≤ u.now → x.since = u.now ∧ x.patrolled = [word]))
        ∧ OnlyChanges [.hbms] u t)
      ∧ (64 * word ∈ f.uncorrectable → ∃ t, exec (.patrolScrub st word f time) s = .next t
        ∧ word ∈ (mapGetD t.hbms n stackZero).bad
        ∧ (d.retired.contains (dramRow word) = false → dramRow word ∈ (mapGetD t.hbms n stackZero).retiring)
        ∧ t.mem = s.mem)
      ∧ (64 * word ∈ f.corrected → f.uncorrectable = [] → word ∉ d.bad → ∃ t, exec (.patrolScrub st word f time) s = .next t
        ∧ (word, u.now) ∈ (mapGetD t.hbms n stackZero).corrected ∧ (mapGetD t.hbms n stackZero).bad = d.bad
        ∧ t.mem = s.mem))
    ∧ (∀ unit f, (mapGet? d.scrubs unit).isSome = true → ∃ t, exec (.scheduledScrub st unit f time) s = .next t
        ∧ mapGet? (mapGetD t.hbms n stackZero).scrubs unit = none ∧ t.mem = s.mem)
    ∧ (∀ row, row ∈ d.retiring → d.spares < 4096 → ∃ t, exec (.rowRetire st row time) s = .next t
        ∧ (mapGetD t.hbms n stackZero).spares = d.spares + 1 ∧ row ∈ (mapGetD t.hbms n stackZero).retired
        ∧ row ∉ (mapGetD t.hbms n stackZero).retiring
        ∧ (d.spares < 4095 → OnlyChanges [.hbms] u t)
        ∧ (d.spares = 4095 → (mapGetD t.hbms n stackZero).exhausted = true
            ∧ ∃ v, t = raise1 (evSite 0x0A03 n (siteOfStack n) 0 4096) v ∧ OnlyChanges [.hbms] u v))

/-! ## Embedding engines -/

/-- What the embedding commands check of their own, in order. -/
def Sys2Proof.embeddingChecks (op : Nat) (c : Cmd) (pay : List Byte) (s : State) : List (Bool × Nat) :=
  let n := leAt pay 0 1
  let t := leAt pay 1 1
  let x := payTable s pay
  match op with
  | 0x0400 => [(decide (pay.length ≠ 32), stBadLength),
      (decide (31 < n) || decide (63 < t) || decide (1 < leAt pay 6 1) || !zeroAt pay 7 1, stBadField),
      (embAbsent s n, stUnitAbsent),
      (decide (7 < leAt pay 2 1) || ownerOf s (siteOfStack n) != leAt pay 2 1, stDenied),
      ((tableOf s n t).isSome, stBusy), (tableBad s n (tableFromPay pay), stBadField)]
  | 0x0401 => tableForm s c 8 (!zeroAt pay 2 6) pay
      ++ [(!(pinEpochs s n t).isEmpty || usesTable t (engineOf s n) || x.phase != .idle, stBusy)]
  | 0x0402 => [(decide (pay.length ≠ 8), stBadLength), (!zeroAt pay 1 7 || !partExists s n, stBadField),
      ((lowestFree 1024 (partOf s n).embBatches).isNone, stNoMemory)]
  | 0x0403 => [(decide (pay.length ≠ 8), stBadLength),
      (!zeroAt pay 1 1 || !zeroAt pay 4 4 || !partExists s n || !batchOpen s n (leAt pay 2 2), stBadField)]
  | 0x0404 => tableForm s c 32 (decide (1 < leAt pay 0x18 1) || !zeroAt pay 0x19 7) pay
      ++ [(rebuildBad x pay, stBadField), (x.phase != .idle, stBusy),
          ((pinEpochs s n t).any (fun e => e % 2 != x.epoch % 2), stStaleEpoch)]
  | 0x0405 => tableForm s c 8 (decide (3 < leAt pay 2 1) || decide (100 < leAt pay 3 1)
        || (leAt pay 2 1 != 2 && leAt pay 3 1 != 0) || !zeroAt pay 4 4) pay
      ++ [(!rebuildAllows (leAt pay 2 1) x.phase, stBusy)]
  | 0x0406 => tableForm s c 8 (!zeroAt pay 2 6) pay ++ [(!x.rebuildable, stBadField), (x.phase != .complete, stBusy)]
  | _ => (decide (pay.length ≠ 16), stBadLength) :: (decide (leAt pay 4 4 < 64), stBadLength)
      :: tableForm s c 16 (!zeroAt pay 2 2) pay

/-- The supervisor of a stack's base die runs. -/
def Sys2Proof.StackRuns (n : Nat) (s : State) : Prop :=
  procHeld s ((procOfSite (siteOfStack n)).getD 0) = false ∧ procStarts s ((procOfSite (siteOfStack n)).getD 0) = false

/-- No EMB_BATCH_OPEN or EMB_COMMIT of a partition waits. -/
def Sys2Proof.InTurn (part : Nat) (s : State) : Prop := ∀ w, w ∈ s.fw.waiting → orderedPart s w ≠ some part

/-- What the embedding commands do. EMB_TABLE_CREATE defines a table at epoch 0 with an idle rebuild and SHARE 15, and
EMB_TABLE_DESTROY removes one. EMB_BATCH_OPEN takes the lowest free handle and pins every table of the partition at its epoch,
once the engines' supervisors run and behind no EMB_BATCH_OPEN or EMB_COMMIT that waits; EMB_BATCH_CLOSE waits for the batch's
requests, and the handle is free once they are done. EMB_REBUILD_START begins at row 0; the four operations of EMB_REBUILD_CTRL
pause, resume, share and abort; EMB_COMMIT moves the epoch on by one. The status record stands in its buffer. No command touches
another table. -/
def Obligations.EmbeddingCommands : Prop :=
  ∀ (c : Cmd) (pay : List Byte) (s : State), Kept s →
    let u := takeCmd c s
    let n := leAt pay 0 1
    let t := leAt pay 1 1
    let x := payTable s pay
    (Allowed 0x0400 (embeddingChecks 0x0400 c) c pay s → StackRuns n u → ∃ v,
      exec (.embTableCreate c) s = .next (complete c stOk 0 v)
        ∧ tableOf v n t = some (tableFromPay pay) ∧ (tableFromPay pay).epoch = 0 ∧ (tableFromPay pay).phase = .idle
        ∧ (∀ m r, m ≠ n ∨ r ≠ t → tableOf v m r = tableOf s m r) ∧ OnlyChanges [.engines] u v)
    ∧ (Allowed 0x0401 (embeddingChecks 0x0401 c) c pay s → StackRuns n u → ∃ v,
      exec (.embTableDestroy c) s = .next (complete c stOk 0 v) ∧ tableOf v n t = none
        ∧ (∀ m r, m ≠ n ∨ r ≠ t → tableOf v m r = tableOf s m r) ∧ OnlyChanges [.engines] u v)
    ∧ (Allowed 0x0402 (embeddingChecks 0x0402 c) c pay s →
        ∀ w, u.fw.waiting.find? (fun w => orderedPart u w == some n) = some w →
          exec (.embBatchOpen c) s = .next { u with fw := { u.fw with waiting := u.fw.waiting ++ [⟨w.proc, u.now, c, pay⟩] } })
    ∧ (Allowed 0x0402 (embeddingChecks 0x0402 c) c pay s → InTurn n u →
      (∀ m, m ∈ pinProcs u n → procHeld u m = false ∧ procStarts u m = false) → ∃ h pins v,
      exec (.embBatchOpen c) s = .next (complete c stOk h v)
        ∧ h < 1024 ∧ mapGet? (partOf s n).embBatches h = none
        ∧ (∀ j, j < h → (mapGet? (partOf s n).embBatches j).isSome = true)
        ∧ mapGet? (partOf v n).embBatches h = some ⟨pins, none⟩
        ∧ (∀ e, e ∈ s.engines → ∀ y, y ∈ e.2.tables → y.2.part = n → (64 * e.1 + y.1, y.2.epoch) ∈ pins)
        ∧ OnlyChanges [.parts] u v)
    ∧ (Allowed 0x0403 (embeddingChecks 0x0403 c) c pay s → ∃ v, exec (.embBatchClose c) s = .next v
        ∧ (∀ b, (leAt pay 2 2, b) ∈ (partOf v n).embBatches → b.closing = some c)
        ∧ v.inProgress = u.inProgress ∧ OnlyChanges [.parts] u v)
    ∧ (Allowed 0x0404 (embeddingChecks 0x0404 c) c pay s → StackRuns n u →
        exec (.embRebuildStart c) s = .next (complete c stOk 0 (modTable n t (fun y => { y with
          phase := .running, share := if leAt pay 2 1 = 0 then 15 else leAt pay 2 1, src := srcFromPay y pay, rowsDone := 0
          failRow := 0xFFFFFFFF, lastRow := u.now }) u)))
    ∧ (Allowed 0x0405 (embeddingChecks 0x0405 c) c pay s → StackRuns n u →
        (leAt pay 2 1 = 0 → x.phase = .running ∧
          exec (.embRebuildPause c) s = .next (complete c stOk 0 (modTable n t (fun y => { y with phase := .paused }) u)))
        ∧ (leAt pay 2 1 = 1 → x.phase = .paused ∧ exec (.embRebuildResume c) s = .next (complete c stOk 0
            (modTable n t (fun y => { y with phase := .running, lastRow := u.now }) u)))
        ∧ (leAt pay 2 1 = 2 → (x.phase = .running ∨ x.phase = .paused) ∧ exec (.embRebuildShare c) s = .next (complete c stOk 0
            (modTable n t (fun y => { y with share := if leAt pay 3 1 = 0 then 15 else leAt pay 3 1 }) u)))
        ∧ (leAt pay 2 1 = 3 → x.phase ≠ .idle ∧
            exec (.embRebuildAbort c) s = .next (complete c stOk 0 (modTable n t (fun y => { y with phase := .idle }) u))))
    ∧ (Allowed 0x0406 (embeddingChecks 0x0406 c) c pay s → StackRuns n u → InTurn x.part u → x.phase = .complete ∧ x.rebuildable = true
        ∧ exec (.embCommit c) s = .next (complete c stOk ((x.epoch + 1) % 2 ^ 32)
            (modTable n t (fun y => { y with epoch := (x.epoch + 1) % 2 ^ 32, phase := .idle }) u)))
    ∧ (Allowed 0x0407 (embeddingChecks 0x0407 c) c pay s → StackRuns n u → BufferAnswers c (leAt pay 8 8) 64 u →
        ∃ v, exec (.embTableStatus c) s = .next (complete c stOk 0 v)
          ∧ OutputIs c (leAt pay 8 8) (tableBytes u n t x) v ∧ OnlyChanges [.hostMem, .inProgress] u v)
    ∧ ∀ (part : Fin 8) (batch time : Nat) (b : EmbBatch) (d : Cmd),
        mapGet? (partOf s part.val).embBatches batch = some b → b.closing = some d → batchBusy s part.val batch = false →
        exec (.embBatchRelease part batch time) s = .next (complete d stOk 0
          (modPart part.val (fun p => { p with embBatches := mapDel p.embBatches batch }) (atTime time s)))

/-- Lookups. A request that starts leaves the queue and runs: with the status of the first check it fails, with no row where
it has no index, with status 1 and the count of the indices out of range, or with its rows as the copy of its epoch holds
them. The result is counted at the table, holds the sum of its rows in their order where that is the pooling, or zeros
beside its status, and leaves in writes cut at multiples of 2 KiB. Rebuilds. A row that its source gives is written into the
copy that is not in use, and nothing else in memory changes; the last row completes the rebuild with its event. A row that
cannot be read fails it at that row, and one whose read has to wait is written later. A second without a row is reported. -/
def Obligations.LookupsAndRebuildsRun : Prop :=
   (∀ (st : StackId) (time : Nat) (s : State), scrubs s st.val = true → Kept s →
      let n := st.val
      let u := atTime time s
      (∀ r rest x, (engineOf s n).queue = r :: rest →
        let v := modEngine n (fun e => { e with queue := rest }) u
        let f : EccFinding := ⟨[], []⟩
        let status := requestStatus u n r
        let ix := embRead n r f (rqIdx r.raw) (4 * rqNidx r.raw) v
        let idx := words32 ix.2.2.1 (rqNidx r.raw)
        let out := (idx.filter (fun i => decide (x.rows ≤ i))).length
        tableOf s n (rqTable r.raw) = some x →
        (status ≠ 0 → exec (.lookupStart st f time) s = .next (addRun n ⟨r, status, 0, 0, x.elems, [], []⟩ v))
        ∧ (status = 0 → rqNidx r.raw = 0 →
            exec (.lookupStart st f time) s = .next (addRun n ⟨r, 0, requestEpoch u n x r, 0, x.elems, [], []⟩ v))
        ∧ (status = 0 → rqNidx r.raw ≠ 0 → ix.1 = 0 → ix.2.2.2 = v →
            (out ≠ 0 → exec (.lookupStart st f time) s = .next (addRun n ⟨r, 1, 0, out, x.elems, [], []⟩ v))
            ∧ (out = 0 → rqPool r.raw ≠ 2 →
                (∀ i, i ∈ idx → CleanRange (.stack n) (copyBase x (requestEpoch u n x r) + i * x.stride)
                  (x.elems * embSize x.fmt) u) → u.err.armed = [] →
                ∃ t w, exec (.lookupStart st f time) s = .next t
                  ∧ engineOf t n = { engineOf v n with runs := (engineOf v n).runs ++ [⟨r, 0, requestEpoch u n x r, 0, x.elems,
                      idx.map (fun i => embRow x.fmt x.elems (memRead s.mem
                        (stackAddr n (copyBase x (requestEpoch u n x r) + i * x.stride)) (x.elems * embSize x.fmt))), w⟩] }
                  ∧ OnlyChanges [.engines] u t)))
      ∧ (∀ r rest, (engineOf s n).queue = r :: rest → tableOf s n (rqTable r.raw) = none →
          ∃ t e, exec (.lookupStart st ⟨[], []⟩ time) s = .next t ∧ (engineOf t n).queue = rest
            ∧ (engineOf t n).runs = (engineOf s n).runs ++ [⟨r, requestStatus u n r, 0, 0, e, [], []⟩]
            ∧ 64 ≤ e ∧ e ≤ 1024 ∧ e % 64 = 0)
      ∧ ∀ r rest order, (engineOf s n).runs = r :: rest → isOrder r.rows.length order = true →
          let bs := resultBytes r order
          let a := rqRes r.req.raw % 2 ^ 56
          let size := if rqBf16 r.req.raw then 2 else 4
          ∃ t, exec (.lookupResult st order time) s = .next t ∧ (engineOf t n).runs = rest
            ∧ (∀ x, tableOf s n (rqTable r.req.raw) = some x → tableOf t n (rqTable r.req.raw) = some { x with
                requests := x.requests + 1, rowsRead := x.rowsRead + r.rows.length
                notOk := if r.status = 0 then x.notOk else x.notOk + 1 })
            ∧ (∃ e, e ∈ (engineOf t n).results ∧ e.run = r)
            ∧ (∀ p, p ∈ rangeCuts (bs.length / 2048 + 2) a bs.length →
                ∃ w, w ∈ t.fab.awaits ∧ w.q.dest = BitVec.ofNat 56 p.1 ∧ w.q.len = p.2
                  ∧ w.q.data = (bs.drop (p.1 - a)).take p.2)
            ∧ (r.status ≠ 0 → leAt bs (size * r.elems) 1 = r.status % 256 ∧ ∀ i, i < size * r.elems → bs.getD i 0 = 0)
            ∧ (r.status = 0 → rqBf16 r.req.raw = false → rqPool r.req.raw = 0 → (∀ y, y ∈ r.rows → y.length = r.elems) →
                ∀ j, j < r.elems → leAt bs (4 * j) 4
                  = (order.foldl (fun acc i => (f32Add .rne acc ((r.rows.getD i []).getD j 0)).1) 0).toNat)
            ∧ OnlyChanges [.engines, .fab] u t)
   ∧ (∀ (st : StackId) (tab : Fin 64) (time : Nat) (x : EmbTable) (s : State), tableOf s st.val tab.val = some x →
      x.phase = .running →
      let n := st.val
      let u := atTime time s
      let f : EccFinding := ⟨[], []⟩
      let off := copyBase x (x.epoch + 1) + x.rowsDone * x.stride
      (∀ bs, scrubs s n = true → (x.rowsDone ≠ 0 ∨ idleReaders x tab.val (engineOf s n) = false) →
          rebuildRow n x x.rowsDone f u = (0, bs, u) → CleanRange (.stack n) off bs.length u →
          ∃ t, exec (.rebuildRowWrite st tab f time) s = .next t
            ∧ memRead t.mem (stackAddr n off) bs.length = bs
            ∧ (∀ b, b < stackAddr n off ∨ stackAddr n off + bs.length ≤ b → memByte t.mem b = memByte s.mem b)
            ∧ (x.rowsDone + 1 < x.rows → tableOf t n tab.val = some { x with rowsDone := x.rowsDone + 1, lastRow := u.now }
                ∧ OnlyChanges [.engines, .mem, .hbms] u t)
            ∧ (x.rows ≤ x.rowsDone + 1 →
                tableOf t n tab.val = some { x with rowsDone := x.rowsDone + 1, lastRow := u.now, phase := .complete }
                ∧ Raises { evPlain 0x0400 n tab.val ((x.epoch + 1) % 2 ^ 32) with part := x.part } u t))
      ∧ (scrubs s n = true → (x.rowsDone ≠ 0 ∨ idleReaders x tab.val (engineOf s n) = false) →
          ∀ st' bs, st' ≠ 0 → st' ≠ notYet → rebuildRow n x x.rowsDone f u = (st', bs, u) →
          exec (.rebuildRowWrite st tab f time) s = .next (raise1 { evPlain 0x0401 n tab.val x.rowsDone with part := x.part }
            (modTable n tab.val (fun y => { y with phase := .failed, failRow := y.rowsDone }) u)))
      ∧ ((rebuildRow n x x.rowsDone f u).1 = notYet → exec (.rebuildRowWrite st tab f time) s = .next s)
      ∧ (x.lastRow + 1000000000 ≤ u.now →
          exec (.rebuildStarved st tab time) s = .next (raise1 { evPlain 0x0402 n tab.val x.rowsDone with part := x.part }
            (modTable n tab.val (fun y => { y with lastRow := u.now }) u))))

/-! ## The weight store, weight sets and purlins -/

/-- What the commands of the weight store, of weight sets and of purlins check of their own, in order; an image and a list of
regions are checked besides, once they have been read. -/
def Sys2Proof.storeChecks (op : Nat) (pay : List Byte) (s : State) : List (Bool × Nat) :=
  let p := leAt pay 0 1
  let slot := leAt pay 1 1
  let m := slotOf (partOf s p) slot
  let slotForm (len : Nat) (extra : Bool) : List (Bool × Nat) :=
    [(decide (pay.length ≠ len), stBadLength), (!partExists s p || decide (63 < slot) || extra, stBadField)]
  match op with
  | 0x0500 => [(noStore s, stUnitAbsent), (!s.install && (s.bays.any (fun b =>
      [BayMode.running, .held, .pointChange, .draining, .done].contains b.2.mode) || purlinActive s), stBusy)]
  | 0x0501 => [(noStore s, stUnitAbsent), (!s.installs.isEmpty || storePurlinActive s, stBusy)]
  | 0x0502 => [(decide (pay.length ≠ 16) || decide (leAt pay 8 4 < 64), stBadLength), (noStore s, stUnitAbsent),
      (!zeroAt pay 0xC 4, stBadField), (!s.install, stDenied)]
  | 0x0503 => [(decide (pay.length ≠ 24) || decide (leAt pay 0xC 4 < 64 + 32 * leAt pay 8 4), stBadLength),
      (decide (15 < p) || decide (4096 < leAt pay 8 4) || decide (262144 < leAt pay 4 4 + leAt pay 8 4) || !zeroAt pay 1 3,
        stBadField), (siteAbsent s (siteOfWstore p), stUnitAbsent)]
  | 0x0504 => [(decide (pay.length ≠ 24) || decide (leAt pay 0x10 4 < 32 * leAt pay 2 2), stBadLength),
      (!partExists s p || decide (63 < slot) || decide (leAt pay 2 2 = 0) || decide (256 < leAt pay 2 2) || !zeroAt pay 4 4
        || !zeroAt pay 0x14 4, stBadField)]
  | 0x0505 => slotForm 8 (!zeroAt pay 2 2) ++ [((genIn m .staged).isNone || genNum m .staged != leAt pay 4 4, stBadField),
      ((match genIn m .staged with | some g => g.regions | none => []).any (fun r =>
        (heldRegions (partOf s p)).any (regionsMeet r)), stNoMemory)]
  | 0x0506 => slotForm 8 (decide (1 < leAt pay 2 1) || !zeroAt pay 3 5) ++
      [((genIn m (if bitAt (leAt pay 2 1) 0 then .current else .staged)).isNone, stBadField),
       (!bitAt (leAt pay 2 1) 0 && purlinTargets (partOf s p) slot (genNum m .staged), stBusy)]
  | 0x0507 => [(decide (pay.length ≠ 16), stBadLength), (!partExists s p || !zeroAt pay 1 7, stBadField),
      ((lowestFree 1024 (partOf s p).wsetBatches).isNone, stNoMemory)]
  | 0x0508 => [(decide (pay.length ≠ 8), stBadLength), (!partExists s p || !zeroAt pay 1 1 || !zeroAt pay 4 4
      || (mapGet? (partOf s p).wsetBatches (leAt pay 2 2)).isNone, stBadField)]
  | 0x0509 => slotForm 24 (!zeroAt pay 2 2 || !zeroAt pay 0xC 4) ++ [((getGen m (leAt pay 4 4)).isNone, stBadField),
      (decide (leAt pay 8 4 < 32 + 32 * ((getGen m (leAt pay 4 4)).getD ⟨0, .staged, []⟩).regions.length), stBadLength)]
  | 0x050A =>
    let role := leAt pay 2 1
    let target := leAt pay 3 1
    [(decide (pay.length ≠ 24), stBadLength),
     (!partExists s p || decide (7 < slot) || decide (3 < role) || decide (1 < target) || decide (63 < leAt pay 4 1)
        || (target == 1 && (leAt pay 4 1 != 0 || leAt pay 0x10 4 != 0)) || !zeroAt pay 5 1 || !zeroAt pay 0xC 4
        || !zeroAt pay 0x14 4 || (role == 3 && leAt pay 8 4 != 0), stBadField),
     (target == 0 && (leAt pay 0x10 4 == 0
        || genNum (slotOf (partOf s p) (leAt pay 4 1)) .staged != leAt pay 0x10 4), stBadField),
     ((role == 1 || role == 2) && !rankValid (rankWritten (partOf s p) (leAt pay 8 4)), stBadField),
     (role != 0 && purlinBusy (purlinOf s p slot), stBusy), (target == 1 && !s.install, stDenied)]
  | _ =>
    let u := purlinOf s p slot
    [(decide (pay.length ≠ 32), stBadLength),
     (!partExists s p || decide (7 < slot) || decide (1 < leAt pay 2 1) || !zeroAt pay 3 1 || !zeroAt pay 6 2, stBadField),
     (u.role != 1, stDenied),
     (decide (leAt pay 8 8 = 0) || (if u.target = 0 then
        (segmentRegion s p u (leAt pay 4 2) (leAt pay 0x18 8) (leAt pay 8 8)).isNone
      else leAt pay 4 2 != 0 || leAt pay 0x18 8 != 0), stBadField),
     (purlinBusy u, stBusy)]

/-- The weight store. A sweep that is due checks the CRC of a page and notes its time, and a page that fails it is counted and
reported; one that is not due changes nothing. Installation mode begins and ends. WSTORE_WRITE checks the image and its
signature, and the dies begin. A page write changes the page's bytes and its record together where the bytes are as the image
says, and otherwise leaves both; the open-image marker stands from a die's first page to its last, and the last page of the
image completes the command. -/
def Obligations.WeightsAreInstalled : Prop :=
  ∀ (s : State), Kept s →
    (∀ (w : StoreDieId) page time, let u := atTime time s
      let r := pageOf s w.val page
      storeServes s w.val = true → page < 262144 → r.pfmt ≠ 0 → CleanRange (.array w.val) (65536 * page) r.used u →
      let d := { storeOf s w.val with swept := mapPut (storeOf s w.val).swept page u.now }
      (sweepDue (storeOf s w.val) page u.now = false → exec (.pageSweep w page time) s = .next s)
      ∧ (sweepDue (storeOf s w.val) page u.now = true → crc32 (memBytes s (.array w.val) (65536 * page) r.used) = r.crc →
        ∃ v, exec (.pageSweep w page time) s = .next v ∧ storeOf v w.val = d ∧ OnlyChanges [.bootStore] u v)
      ∧ (sweepDue (storeOf s w.val) page u.now = true → crc32 (memBytes s (.array w.val) (65536 * page) r.used) ≠ r.crc → ∃ v,
          exec (.pageSweep w page time) s = .next (raise1 (evPlain 0x0500 w.val 0 page) v)
            ∧ storeOf v w.val = { d with crcErrors := satInc 0xFFFFFFFF d.crcErrors }
            ∧ OnlyChanges [.err, .bootLog, .bootStore] u v))
    ∧ (∀ c pay, let u := takeCmd c s
      (Allowed 0x0500 (storeChecks 0x0500) c pay s →
        exec (.wstoreInstallBegin c) s = .next (complete c stOk 0 { u with install := true }))
      ∧ (Allowed 0x0501 (storeChecks 0x0501) c pay s →
        exec (.wstoreInstallEnd c) s = .next (complete c stOk 0 { u with install := false }))
      ∧ (Allowed 0x0502 (storeChecks 0x0502) c pay s → hostAnswer u (leAt pay 0 8) (leAt pay 8 4) = none →
        let bs := hostRead u (leAt pay 0 8) (leAt pay 8 4)
        let st := firstFail (imageChecks u bs (leAt pay 8 4))
        exec (.wstoreWrite c) s = .next (if st = stOk then
            { u with installs := u.installs ++ [imageRun (.host (leAt pay 0 8) c) bs] } else complete c st 0 u))
      ∧ (Allowed 0x0503 (storeChecks 0x0503) c pay s →
        BufferAnswers c (leAt pay 0x10 8) (64 + 32 * leAt pay 8 4) u → ∃ t,
        exec (.wstoreStatus c) s = .next (complete c stOk 0 t)
          ∧ OutputIs c (leAt pay 0x10 8) (storeBytes u (leAt pay 0 1) ++ (List.range (leAt pay 8 4)).flatMap (fun i =>
              pageBytes (pageOf s (leAt pay 0 1) (leAt pay 4 4 + i)))) t
          ∧ OnlyChanges [.hostMem, .inProgress] u t))
    ∧ ∀ (w : StoreDieId) time x e bs, let u := atTime time s
      s.installs.find? (fun x => x.todo.any (fun e => e.ws == w.val)) = some x →
      x.todo.find? (fun e => e.ws == w.val) = some e → entryBytesOf u x.src e = some bs → storeServes u w.val = true →
      s.err.armed = [] → 1 ≤ e.used → e.used ≤ 65536 →
      ∃ t, exec (.pageWrite w time) s = .next t
        ∧ (pageGood e bs = true → ∃ free,
            pageOf t w.val e.page = ⟨e.pfmt, e.elemFmt, e.nblk, e.used, crc32 bs,
              satInc 0xFFFFFFFF (pageOf s w.val e.page).writes, x.seq, free⟩
            ∧ memRead t.boot.storeMem (storeAddr w.val (65536 * e.page)) bs.length = bs
            ∧ (storeOf t w.val).pageWrites = (storeOf s w.val).pageWrites + 1
            ∧ (storeOf t w.val).marker
                = (if (x.todo.erase e).any (fun z => z.ws == w.val) then some x.seq else none)
            ∧ (∀ a c, x.todo = [e] → x.src = .host a c → x.failed = [] → ∃ v, t = complete c stOk x.npages v))
        ∧ (pageGood e bs = false → pageOf t w.val e.page = pageOf s w.val e.page ∧ t.boot.storeMem = s.boot.storeMem
            ∧ (storeOf t w.val).pageWrites = (storeOf s w.val).pageWrites
            ∧ (∀ a c, x.todo = [e] → x.src = .host a c → x.failed = [] → ∃ v, t = complete c stFault e.index v))
        ∧ ∀ p, p ≠ e.page → pageOf t w.val p = pageOf s w.val p

/-- The generations of a slot that are neither staged, current nor pinned are gone. -/
def Sys2Proof.SlotSettled (part slot : Nat) (s : State) : Prop :=
  ∀ g, g ∈ (slotOf (partOf s part) slot).gens → g.phase = .retired → 0 < pinCount (partOf s part) slot g.num

/-- Weight sets. WSET_STAGE adds a staged generation with the next number, which the completion carries. WSET_SWITCH makes it
current and completes with the generation before it, which stays only while it is pinned. WSET_DISCARD drops the staged
generation or, with its flag, retires the current one. WSET_BATCH_OPEN pins the current generation of each of the 64 slots under
the lowest free handle and writes their numbers, and WSET_BATCH_CLOSE ends the pins. WSET_GET writes a generation. -/
def Obligations.WeightSetsTurnOver : Prop :=
  ∀ (c : Cmd) (pay : List Byte) (s : State), Kept s →
    let u := takeCmd c s
    let p := leAt pay 0 1
    let slot := leAt pay 1 1
    let m := slotOf (partOf s p) slot
    (Allowed 0x0504 (storeChecks 0x0504) c pay s →
      let n := leAt pay 2 2
      hostAnswer u (leAt pay 8 8) (32 * n) = none →
      let raw := (List.range n).map (fun i => hostRead u (leAt pay 8 8 + 32 * i) 32)
      let rs := raw.map regionOf
      let st := firstFail [(!raw.all (regionOk u) || listOverlaps rs, stBadField),
        (rs.any (fun r => siteAbsent u (regionSite r)), stUnitAbsent),
        (rs.any (fun r => ownerOf u (regionSite r) != p), stDenied), ((genIn m .staged).isSome, stBusy),
        (decide (4096 < (partRegions (partOf s p)).length + n), stNoMemory)]
      (st ≠ stOk → exec (.wsetStage c) s = .next (complete c st 0 u))
      ∧ (st = stOk → ∃ t, exec (.wsetStage c) s = .next (complete c stOk m.next t)
          ∧ slotOf (partOf t p) slot = ⟨m.gens ++ [⟨m.next, .staged, rs⟩], if 0xFFFFFFFF ≤ m.next then 1 else m.next + 1⟩
          ∧ (∀ j, j ≠ slot → slotOf (partOf t p) j = slotOf (partOf s p) j) ∧ OnlyChanges [.parts] u t))
    ∧ (Allowed 0x0505 (storeChecks 0x0505) c pay s → ∃ t, exec (.wsetSwitch c) s = .next (complete c stOk (genNum m .current) t)
        ∧ genNum (slotOf (partOf t p) slot) .current = leAt pay 4 4 ∧ SlotSettled p slot t
        ∧ (∀ j, j ≠ slot → slotOf (partOf t p) j = slotOf (partOf s p) j)
        ∧ OnlyChanges [.parts, .host, .hostMem, .ev, .fw] u t)
    ∧ (Allowed 0x0506 (storeChecks 0x0506) c pay s →
        (leAt pay 2 1 = 0 → ∃ v, exec (.wsetDiscard c) s = .next (complete c stOk 0
            (raise1 { evPlain 0x0503 slot 0 (genNum m .staged) with part := p } v))
          ∧ slotOf (partOf v p) slot = { m with gens := m.gens.filter (fun g => g.phase != .staged) }
          ∧ OnlyChanges [.parts] u v)
        ∧ (leAt pay 2 1 = 1 → ∃ t, exec (.wsetDiscardCurrent c) s = .next (complete c stOk 0 t)
          ∧ genIn (slotOf (partOf t p) slot) .current = none ∧ SlotSettled p slot t
          ∧ OnlyChanges [.parts, .host, .hostMem, .ev, .fw] u t))
    ∧ (Allowed 0x0507 (storeChecks 0x0507) c pay s → BufferAnswers c (leAt pay 8 8) 256 u → ∃ h t,
        exec (.wsetBatchOpen c) s = .next (complete c stOk h t)
          ∧ mapGet? (partOf s p).wsetBatches h = none ∧ (∀ j, j < h → (mapGet? (partOf s p).wsetBatches j).isSome = true)
          ∧ mapGet? (partOf t p).wsetBatches h
              = some ((List.range 64).map (fun n => genNum (slotOf (partOf s p) n) .current))
          ∧ OutputIs c (leAt pay 8 8) ((List.range 64).flatMap (fun n => natLe 4 (genNum (slotOf (partOf s p) n) .current))) t
          ∧ OnlyChanges [.parts, .hostMem, .inProgress] u t)
    ∧ (Allowed 0x0508 (storeChecks 0x0508) c pay s → ∃ t, exec (.wsetBatchClose c) s = .next (complete c stOk 0 t)
        ∧ mapGet? (partOf t p).wsetBatches (leAt pay 2 2) = none ∧ (∀ n, n < 64 → SlotSettled p n t)
        ∧ OnlyChanges [.parts, .host, .hostMem, .ev, .fw] u t)
    ∧ (Allowed 0x0509 (storeChecks 0x0509) c pay s → ∀ g, getGen m (leAt pay 4 4) = some g →
        BufferAnswers c (leAt pay 0x10 8) (32 + 32 * g.regions.length) u →
        ∃ t, exec (.wsetGet c) s = .next (complete c stOk 0 t)
          ∧ OutputIs c (leAt pay 0x10 8) (natLe 4 g.num ++ natLe 1 (phaseCode g.phase) ++ copies 1 0
              ++ natLe 2 (pinCount (partOf s p) slot g.num) ++ natLe 2 g.regions.length ++ copies 22 0
              ++ g.regions.flatMap regionBytes) t
          ∧ OnlyChanges [.hostMem, .inProgress] u t)

/-- Purlins. PURLIN_SET configures one, or makes it idle. A head writes and sends what it reads: a transfer of one segment into
a stack completes its command with the purlin idle once the link has taken the segment. A receiver takes the segment that comes
next in its transfer, stops at any that does not, leaves one waiting whose memory cannot take it yet, and counts those of
another transfer; the partition counts those of no purlin. -/
def Obligations.PurlinsCarrySegments : Prop :=
  ∀ (s : State),
    (∀ c pay old, let u := takeCmd c s
      let p := leAt pay 0 1
      let n := leAt pay 1 1
      (partOf s p).purlins[n]? = some old → s.parts.length = 8 →
      (Allowed 0x050A (storeChecks 0x050A) c pay s → ∃ v, exec (.purlinSet c) s = .next (complete c stOk 0 v)
        ∧ purlinOf v p n = (if leAt pay 2 1 = 0 then { purlinZero with strays := old.strays }
            else ⟨leAt pay 2 1, leAt pay 3 1, leAt pay 4 1, leAt pay 6 2, leAt pay 8 4, leAt pay 0x10 4, none, old.strays⟩))
      ∧ (Allowed 0x050B (storeChecks 0x050B) c pay s → old.target = 0 → leAt pay 8 8 ≤ 2048 →
        let host := bitAt (leAt pay 2 1) 0
        let src : PurlinSrc := ⟨host, leAt pay 4 2, leAt pay 8 8, leAt pay 0x10 8, leAt pay 0x18 8⟩
        let v := modPurlin p n (fun y => { y with run := some ⟨0, 0, some c, some src, []⟩ }) u
        let x := readSource p host src.src src.len v
        let g : Segment := ⟨BitVec.ofNat 8 n, 1, BitVec.ofNat 16 old.transfer, src.len, BitVec.ofNat 16 src.region, 0,
          BitVec.ofNat 64 src.dst, x.2.2.1⟩
        purlinRoom v p old = true → x.1 = 0 → x.2.2.2 = v → purlinLinkOk v p old = true →
        ∀ r, segmentRegion u p old src.region src.dst src.len = some r →
        let w := writeNow (kingSite v) 0 true (stackAddr r.unit (r.start + src.dst)) x.2.2.1 v
        w.1 = 0 → purlinRoom (sendSegment p old g w.2) p old = true →
        ∃ t, exec (.purlinSend c) s = .next (complete c stOk 0 t) ∧ purlinOf t p n = { purlinZero with strays := old.strays }))
    ∧ ∀ (part : Fin 8) (g : Segment) time old, let u := atTime time s
      let n := g.purlin.toNat
      s.parts.length = 8 →
      (8 ≤ n → exec (.segmentReceive part g time) s = .next (modPart part.val (fun y => { y with strays := y.strays + 1 }) u))
      ∧ (n < 8 → (partOf s part.val).purlins[n]? = some old →
      ((old.role ≠ 2 ∧ old.role ≠ 3) ∨ old.transfer ≠ g.transfer.toNat →
        exec (.segmentReceive part g time) s = .next (modPurlin part.val n (fun y => { y with strays := y.strays + 1 }) u))
      ∧ (∀ r, old.role = 3 → old.transfer = g.transfer.toNat → old.run = some r →
          (g.kind = 2 ∨ g.seq.toNat ≠ r.seq → ∃ t, exec (.segmentReceive part g time) s = .next t
            ∧ purlinOf t part.val n = { purlinZero with strays := old.strays })
          ∧ (g.kind = 0 → g.seq.toNat = r.seq → segmentOk g = true → old.target = 0 →
              ∀ y, segmentRegion s part.val old g.region.toNat g.offset.toNat g.len = some y →
              let w := writeNow (kingSite s) 0 true (stackAddr y.unit (y.start + g.offset.toNat)) g.payload u
              (w.1 = notYet → exec (.segmentReceive part g time) s = .next s)
              ∧ (w.1 = 0 → ∃ t, exec (.segmentReceive part g time) s = .next t
                ∧ purlinOf t part.val n = { old with run := some { r with seq := r.seq + 1, bytes := r.bytes + g.len } }))
          ∧ (g.kind = 0 → g.seq.toNat = r.seq → segmentOk g = true → old.target = 1 → g.region = 0 →
              g.offset.toNat = r.image.length → ∃ t, exec (.segmentReceive part g time) s = .next t
                ∧ purlinOf t part.val n = { old with
                    run := some { r with seq := r.seq + 1, bytes := r.bytes + g.len, image := r.image ++ g.payload } }
                ∧ OnlyChanges [.parts] u t)))

/-! ## The panel links -/

/-- What the link commands check of their own, in order; the entries of a rank or transit table are checked besides, once they
have been read. -/
def Sys2Proof.linkChecks (op : Nat) (pay : List Byte) (s : State) : List (Bool × Nat) :=
  let p := leAt pay 0 1
  match op with
  | 0x0600 => [(decide (pay.length ≠ 8), stBadLength), (leAt pay 0 2 == 0xFFFF || !zeroAt pay 2 6, stBadField),
      (s.bays.any (fun b => [BayMode.running, .held, .pointChange, .draining].contains b.2.mode) || purlinActive s, stBusy)]
  | 0x0601 => [(decide (pay.length ≠ 8), stBadLength),
      (!partExists s p || !zeroAt pay 1 1 || decide (0xFFFFF < leAt pay 4 4), stBadField)]
  | 0x0602 => [(decide (pay.length ≠ 24) || decide (leAt pay 0xC 4 < 8 * leAt pay 8 4), stBadLength),
      (!partExists s p || !zeroAt pay 1 3 || decide (leAt pay 8 4 = 0) || decide (65536 < leAt pay 4 4 + leAt pay 8 4), stBadField)]
  | 0x0603 => [(decide (pay.length ≠ 24) || decide (leAt pay 0xC 4 < leAt pay 8 4), stBadLength),
      (!zeroAt pay 0 4 || decide (leAt pay 8 4 = 0) || decide (65536 < leAt pay 4 4 + leAt pay 8 4), stBadField)]
  | 0x0604 =>
    let st := (entryAt s (linkSite p)).state
    let w := leAt pay 2 1
    [(decide (pay.length ≠ 8), stBadLength),
      (decide (47 < p) || leAt pay 1 1 != 0 || (w != 1 && w != 2 && w != 4) || !zeroAt pay 3 5, stBadField),
      (linkAbsent s p, stUnitAbsent), (st == .failed || st == .fenced, stDenied),
      (!sitePowered s (linkSite p), stNotReady), ((linkOf s p).cmd.isSome, stBusy)]
  | _ => [(decide (pay.length ≠ 16) || decide (leAt pay 4 4 < 128 * leAt pay 1 1), stBadLength),
      (decide (leAt pay 1 1 = 0) || decide (48 < leAt pay 1 1) || decide (48 < p + leAt pay 1 1) || decide (15 < leAt pay 2 1)
        || !zeroAt pay 3 1, stBadField)]

/-- What the link commands do. LINK_PANEL_ID_SET names the panel, PARTITION_LINK_SET gives a partition its JOB and RANK_BASE.
RANK_TABLE_SET and TRANSIT_SET write their entries and no other; that a rank entry of an absent link die is refused for that
before for its owner is the model's choice (log entry 149). LINK_CTRL starts a training with all lanes up to its width.
LINK_STATUS writes the records of the links. -/
def Obligations.LinkCommands : Prop :=
  ∀ (c : Cmd) (pay : List Byte) (s : State), Kept s →
    let u := takeCmd c s
    let p := leAt pay 0 1
    let first := leAt pay 4 4
    let n := leAt pay 8 4
    let a := leAt pay 0x10 8
    (Allowed 0x0600 (linkChecks 0x0600) c pay s → ∃ t, exec (.linkPanelIdSet c) s = .next (complete c stOk 0 t)
        ∧ t.links.panelId = leAt pay 0 2 ∧ t.links.transit = s.links.transit ∧ OnlyChanges [.links] u t)
    ∧ (Allowed 0x0601 (linkChecks 0x0601) c pay s → exec (.partitionLinkSet c) s = .next (complete c stOk 0
        (modPart p (fun x => { x with job := leAt pay 2 2, rankBase := leAt pay 4 4 }) u)))
    ∧ (Allowed 0x0602 (linkChecks 0x0602) c pay s → hostAnswer u a (8 * n) = none →
        let es := (List.range n).map (fun i => leNat (hostRead u (a + 8 * i) 8))
        let st := firstFail [(!es.all rankEntryOk, stBadField),
          (es.any (fun e => linkAbsent u (fld e 39 32)), stUnitAbsent),
          (es.any (fun e => ownerOf u (linkSite (fld e 39 32)) != p), stDenied)]
        (st ≠ stOk → exec (.rankTableSet c) s = .next (complete c st 0 u))
        ∧ (st = stOk → ∃ t, exec (.rankTableSet c) s = .next (complete c stOk 0 t)
            ∧ (∀ i, i < n → (mapGetD (partOf t p).ranks (first + i) ⟨0, 0⟩).value = es.getD i 0)
            ∧ (∀ r, r < first ∨ first + n ≤ r →
                mapGetD (partOf t p).ranks r ⟨0, 0⟩ = mapGetD (partOf s p).ranks r ⟨0, 0⟩)
            ∧ OnlyChanges [.parts] u t))
    ∧ (Allowed 0x0603 (linkChecks 0x0603) c pay s → hostAnswer u a n = none →
        let bs := hostRead u a n
        let ok := bs.all (fun b => decide (b.toNat < 48) || b.toNat == 0xFF)
        (ok = false → exec (.transitSet c) s = .next (complete c stBadField 0 u))
        ∧ (ok = true → ∃ t, exec (.transitSet c) s = .next (complete c stOk 0 t)
            ∧ (∀ i, i < n → mapGetD t.links.transit (first + i) 0xFF = (bs.getD i 0).toNat)
            ∧ (∀ r, r < first ∨ first + n ≤ r → mapGetD t.links.transit r 0xFF = mapGetD s.links.transit r 0xFF)
            ∧ t.links.links = s.links.links ∧ OnlyChanges [.links] u t))
    ∧ (Allowed 0x0604 (linkChecks 0x0604) c pay s → procHeld u (4 + p / 4) = false → procStarts u (4 + p / 4) = false →
        ∃ t, exec (.linkCtrl c) s = .next t ∧ linkOf t p = { linkOf s p with
            phase := .training, testSet := 15, maxWidth := if leAt pay 2 1 = 4 then 3 else leAt pay 2 1
            cmd := some c, fails := 0, replays := 0 }
          ∧ (∀ j, j ≠ p → linkOf t j = linkOf s j) ∧ OnlyChanges [.links] u t)
    ∧ (let out := (List.range (leAt pay 1 1)).flatMap (fun i => linkBytes u (leAt pay 2 1) (p + i))
       Allowed 0x0605 (linkChecks 0x0605) c pay s → BufferAnswers c (leAt pay 8 8) out.length u →
        ∃ t, exec (.linkStatus c) s = .next (complete c stOk 0 t) ∧ OutputIs c (leAt pay 8 8) out t
          ∧ OnlyChanges [.hostMem, .inProgress] u t)

/-- A packet that came by a link crosses the service fabric to a unit of a link die, under one of its link's tags. -/
def Sys2Proof.Crosses (n dest tag : Nat) (use : LinkUse) (c : Cargo) (q : LinkPacket) (s t : State) : Prop :=
  let bs := linkPacketBytes q
  let w := mkRequest s (linkSite n) (n % 4) dest 2 bs.length tag true bs
  t.fab.awaits = s.fab.awaits ++ [⟨w, s.now⟩] ∧ (linkOf t n).inbound = (linkOf s n).inbound ++ [(tag, use, q)]
    ∧ ((routeOf s.fab.routes (linkSite n) (addrSite dest)).isSome = true → t.fab.flight = s.fab.flight ++ [⟨w, none, c⟩])
    ∧ OnlyChanges [.links, .fab] s t

/-- What happens on a link. A data flit in order is accepted, and one whose CRC fails, or that holds a codeword beyond
correction, is counted and asked for again. A training in which a lane passes takes the link up at the width of those lanes; the
third that fails in a row takes it down. A link that is up retrains for its causes, with the lanes in use. An ACK packet answers
the write that waits for it with its status, and 8 ms without one answers it with EXPIRED. A rank WRITE waits on its link, or is
answered where the link is down. The next packet received goes on over the service fabric with one hop more where it is for
another panel, or is dropped; one for this panel is written to its core, or goes to its reduction home. A home adds the next row
of a reduction. -/
def Obligations.LinksTrainAndCarry : Prop :=
  ∀ (l : LinkId) (time : Nat) (s : State), Kept s → s.err.armed = [] →
    let u := atTime time s
    let n := l.val
    let x := linkOf s n
    (∀ f, f.bytes.length = 256 → x.phase = .up →
      let ok := flitOk f && f.dead.isEmpty
      ∃ t, exec (.linkFlitReceive l f time) s = .next t
      ∧ (ok = true → flKind f = 1 → flSeq f = x.rxNext → (linkOf t n).rxNext = (x.rxNext + 1) % 65536
          ∧ (linkOf t n).flitsRx = satInc flitsMax x.flitsRx ∧ (linkOf t n).replays = 0
          ∧ (linkOf t n).received = (takePayload f x).received)
      ∧ (ok = true → flKind f ≠ 1 ∨ flSeq f ≠ x.rxNext → (linkOf t n).rxNext = x.rxNext
          ∧ (linkOf t n).flitsRx = x.flitsRx ∧ (linkOf t n).received = x.received)
      ∧ (ok = false → flKind f = 1 → (linkOf t n).rxNext = x.rxNext ∧ (linkOf t n).received = x.received
          ∧ (linkOf t n).crcRetries = satInc 0xFFFFFFFF x.crcRetries ∧ (linkOf t n).replays = x.replays + 1
          ∧ t.links.wire = s.links.wire ++ [(n, linkFlitBytes 0 ((x.rxNext + 65535) % 65536) 2 0xFF
              (min 1023 x.freedReq + 1024 * min 63 x.freedResp) [])])
      ∧ (ok = false → flKind f ≠ 1 → t = countFec n f u) ∧ (linkOf t n).phase = .up)
    ∧ (∀ r, x.phase = .training → siteWorks s (linkSite n) = true → siteInReset s (linkSite n) = false →
        let pass := maskAnd r.pass.toNat (maskAnd x.testSet (lanesPowered s n))
        ∃ t, exec (.linkTraining l r time) s = .next t
          ∧ (pass ≠ 0 → (linkOf t n).phase = .up ∧ (linkOf t n).mask = pass ∧ (linkOf t n).width = widthOf pass x.maxWidth
              ∧ (linkOf t n).fails = 0 ∧ (linkOf t n).peerPanel = r.peerPanel.toNat ∧ (linkOf t n).cmd = none
              ∧ (∀ c, x.cmd = some c → purlinActive s = false → ∃ v, v.inProgress = u.inProgress
                  ∧ t.inProgress = (complete c stOk (pass % 16 + 16 * widthOf pass x.maxWidth) v).inProgress))
          ∧ (pass = 0 → x.fails < 2 → (linkOf t n).phase = .training ∧ (linkOf t n).fails = x.fails + 1)
          ∧ (pass = 0 → 2 ≤ x.fails → (linkOf t n).phase = .down ∧ (linkOf t n).mask = 0 ∧ (linkOf t n).awaits = []))
    ∧ (∀ cause, x.phase = .up → retrainCause (tickOf u) x cause = true → ∃ t, exec (.linkRetrain l cause time) s = .next t
        ∧ (linkOf t n).phase = .training ∧ (linkOf t n).testSet = x.mask ∧ (linkOf t n).maxWidth = x.width
        ∧ (linkOf t n).replays = 0 ∧ OnlyChanges [.links] u t)
    ∧ (∀ fill, fill ≤ 1024 → x.phase = .up → ∃ t b, exec (.linkBufferSample l fill time) s = .next t
        ∧ linkOf t n = { x with bins := modAt x.bins b (satInc 0xFFFFFFFF) }
        ∧ (b = 0 ↔ fill = 0) ∧ (b = 1 ↔ 1 ≤ fill ∧ fill ≤ 8) ∧ (b = 2 ↔ 9 ≤ fill ∧ fill ≤ 16) ∧ (b = 3 ↔ 17 ≤ fill ∧ fill ≤ 64)
        ∧ (b = 4 ↔ 65 ≤ fill ∧ fill ≤ 128) ∧ (b = 5 ↔ 129 ≤ fill ∧ fill ≤ 256) ∧ (b = 6 ↔ 257 ≤ fill ∧ fill ≤ 512)
        ∧ (b = 7 ↔ 513 ≤ fill) ∧ OnlyChanges [.links] u t)
    ∧ (∀ q a, q.kind = 2 → x.phase = .up → s.links.panelId ≠ 0xFFFF → q.destPanel.toNat = s.links.panelId →
        nextReceived x q = true → x.awaits.find? (fun a => a.tag == q.tag.toNat) = some a →
        ∃ t, exec (.linkAckArrival l q time) s = .next t
          ∧ t.fab.answers = s.fab.answers ++ [{ answerPacket a.q (q.status.toNat % 16) [] with opcode := 4 }]
          ∧ (linkOf t n).awaits = x.awaits.erase a ∧ OnlyChanges [.links, .fab] u t)
    ∧ (∀ tag a, x.awaits.find? (fun a => a.tag == BitVec.toNat (w := 32) tag) = some a → a.since + 8000000 ≤ u.now →
        ∃ t, exec (.linkAckExpired l tag time) s = .next t ∧ t.fab.answers = s.fab.answers ++ [answerPacket a.q 8 []]
          ∧ (linkOf t n).awaits = x.awaits.erase a ∧ OnlyChanges [.links, .fab] u t)
    ∧ (∀ q e, opcodeOf q = 2 → dataFits q = true → Reaches q u → addrSite (destOf q) = linkSite n → addrUnit (destOf q) = n % 4 →
        badRange q = false → (∀ y, y ∈ s.fab.flight → y.q ≠ q) →
        let p := partOf s (ownerOf s (linkSite n))
        let r := rankEntry p (linkSite n) (fld (destOf q) 39 20)
        (x.phase = .down → ∃ t, exec (.linkEgressWrite q e time) s = .next t
          ∧ t.fab.answers = s.fab.answers ++ [answerPacket q 7 []] ∧ OnlyChanges [.fab] u t)
        ∧ (x.phase ≠ .down → ∃ t, exec (.linkEgressWrite q e time) s = .next t ∧ t.fab.answers = s.fab.answers
          ∧ (linkOf t n).awaits = x.awaits ++ [⟨x.nextTag, q, u.now⟩] ∧ (linkOf t n).nextTag = (x.nextTag + 1) % 2 ^ 32
          ∧ (p.job ≠ 0 → rankValid r = true → x.egress = [] → canSend s x (rankPacket s p r x.nextTag q e) = true →
              t.links.sent = s.links.sent ++ [(n, rankPacket s p r x.nextTag q e)])
          ∧ (p.job = 0 ∨ rankValid r = false → t.links.sent = s.links.sent)))
    ∧ (∀ q, x.phase = .up → s.links.panelId ≠ 0xFFFF → nextReceived x q = true →
        let free := lowestFree 4096 x.inbound
        (q.destPanel.toNat ≠ s.links.panelId →
          (∀ e, transitLink s q.destPanel.toNat = some e → q.hops.toNat < 15 →
            (free = none → exec (.linkPacketArrival l q time) s = .next s)
            ∧ (∀ tag, free = some tag → ∃ t, exec (.linkPacketArrival l q time) s = .next t
                ∧ Crosses n (addrOf (linkSite e) (e % 4) 0) tag .transit (.transit { q with hops := q.hops + 1 }) q u t))
          ∧ (transitLink s q.destPanel.toNat = none ∨ 15 ≤ q.hops.toNat → ∃ t,
              exec (.linkPacketArrival l q time) s = .next t ∧ (linkOf t n).drops = satInc 0xFFFFFFFF x.drops))
        ∧ (q.destPanel.toNat = s.links.panelId → q.kind = 1 → ∀ p, jobPart s q = some p → partInReset s p = false →
            let k := coreAt q.dcx.toNat q.dcy.toNat
            let home := siteOfLinkDie (reductionHome k)
            (lpReduce q = 0 ∨ siteWorks s home = true → free = none → exec (.linkPacketArrival l q time) s = .next s)
            ∧ (∀ tag, free = some tag → lpReduce q = 0 → ∃ t w, exec (.linkPacketArrival l q time) s = .next t
              ∧ t.fab.awaits = s.fab.awaits ++ [w] ∧ w.q.data = q.payload ∧ w.q.opcode = 2 ∧ w.sent = u.now
              ∧ w.q.dest = BitVec.ofNat 56 (coreAddr k q.offset.toNat)
              ∧ (linkOf t n).inbound = x.inbound ++ [(tag, .target, q)] ∧ w.q.tag = BitVec.ofNat 12 tag
              ∧ OnlyChanges [.links, .fab] u t)
            ∧ (∀ tag, free = some tag → lpReduce q ≠ 0 → siteWorks s home = true → ∃ t,
                exec (.linkPacketArrival l q time) s = .next t ∧ Crosses n (addrOf home 0 0) tag .home (.reduction n q) q u t)))
    ∧ ∀ (h : LinkDieId) y rest, mapGetD s.links.homes h.val [] = y :: rest → siteWorks s (siteOfLinkDie h.val) = true →
        siteInReset s (siteOfLinkDie h.val) = false →
        let k := coreAt y.q.dcx.toNat y.q.dcy.toNat
        let r := readRow h.val k y u
        let v := (writeMem (.core k) (y.q.offset.toNat + 512 * y.done) (rowSum y r.2.2.1) ⟨[], []⟩ r.2.2.2).2
        (coreOf s k).ax.remote = [] → (y.done = 0 → setRefused u h.val k y.q = false) →
        512 * (y.done + 1) < y.q.payload.length → (r.1 = notYet → exec (.reductionAdd h time) s = .next s) ∧ (r.1 = 0 →
        ∃ t, exec (.reductionAdd h time) s = .next t
          ∧ mapGetD t.links.homes h.val [] = { y with done := y.done + 1 } :: rest
          ∧ (∀ j d m, rowAt t j d m = rowAt v j d m)
          ∧ ∀ i, i < 4 → (linkOf t (4 * h.val + i)).reduced = satInc 0xFFFFFFFF (linkOf s (4 * h.val + i)).reduced)

/-! ## The host port -/

/-- What the commands of the host port check of their own, in order. -/
def Sys2Proof.hostChecks (op : Nat) (c : Cmd) (pay : List Byte) (s : State) : List (Bool × Nat) :=
  let p := leAt pay 0 1
  match op with
  | 0x0001 => [(decide (cmdLen c < 256), stBadLength)]
  | 0x0002 => [(decide (pay.length ≠ 16), stBadLength),
      (p == 0 || decide (7 < p) || !zeroAt pay 1 1 || !allZero (pay.drop (2 + 2 * p)), stBadField)]
  | 0x0003 => [(decide (pay.length ≠ 32), stBadLength), ((mapGet? s.host.queues p).isSome, stBusy),
      (decide (63 < p) || (leAt pay 1 1 != 0xFF && !partExists s (leAt pay 1 1)) || decide (leAt pay 2 1 < 3) || !zeroAt pay 3 1
        || decide (leAt pay 4 2 < 2) || decide (4096 < leAt pay 4 2) || decide (leAt pay 6 2 < leAt pay 4 2)
        || decide (4096 < leAt pay 6 2) || leAt pay 8 8 % 4096 != 0 || leAt pay 0x10 8 % 4096 != 0 || !zeroAt pay 0x18 8,
        stBadField)]
  | 0x0004 => [(decide (pay.length ≠ 8), stBadLength),
      (!zeroAt pay 1 7 || (mapGet? s.host.queues p).isNone || fromQueue p c.via, stBadField)]
  | 0x0005 =>
    let base := leAt pay 0 8
    let depth := leAt pay 8 4
    [(decide (pay.length ≠ 16), stBadLength), (decide (1 < leAt pay 0xC 1) || !zeroAt pay 0xD 3
        || (if bitAt (leAt pay 0xC 1) 0 then base != 0 || depth != 0
            else base % 4096 != 0 || decide (depth < 64) || decide (65536 < depth)), stBadField)]
  | 0x0006 => [(decide (pay.length ≠ 4), stBadLength), (!s.ev.set || decide (s.ev.depth ≤ leAt pay 0 4), stBadField)]
  | 0x0007 =>
    let fl := leAt pay 2 1
    let base := leAt pay 8 8
    let len := leAt pay 0x10 8
    [(decide (pay.length ≠ 24), stBadLength),
      (!partExists s p || decide (15 < leAt pay 1 1) || decide (7 < fl) || !zeroAt pay 3 5
        || (if bitAt fl 0 then fl != 1 || base != 0 || len != 0
            else fld fl 2 1 == 0 || len == 0 || base % 4096 != 0 || len % 4096 != 0 || decide (2 ^ 64 < base + len)),
        stBadField)]
  | 0x0008 =>
    let off := leAt pay 0 8
    let n := leAt pay 8 4
    [(decide (pay.length ≠ 16), stBadLength),
      (n == 0 || decide (2 ^ 29 < n) || off % 4096 != 0 || decide (hdmSize s < off + 4096 * n) || decide (1 < leAt pay 0xC 1)
        || !zeroAt pay 0xD 3, stBadField)]
  | 0x0009 => [(decide (pay.length ≠ 16), stBadLength),
      (decide (127 < p) || decide (79 < leAt pay 1 1) || decide (3 < leAt pay 2 1) || decide (15 < leAt pay 3 1)
        || decide (10000 < leAt pay 6 2) || !zeroAt pay 8 8, stBadField),
      (!tokenBay s (coreAt p (leAt pay 1 1)) (cmdPart c), stDenied)]
  | _ => []

/-- From `s` to `t` a host token enters a queue of a core, or is discarded as stale; its command completes, and DETAIL says
which. -/
def Sys2Proof.TokenEnters (c : Cmd) (k q : Nat) (w : W32) (s t : State) : Prop :=
  let cy := portCycle s k
  let x := coreOf s k
  ∃ v : State, t = complete c stOk (if tokEpoch w = epochAt x cy then 0 else 1) v
    ∧ (tokEpoch w = epochAt x cy →
        coreOf v k = { x with seq := { x.seq with queues := modAt x.seq.queues q (fun l => l ++ [⟨cy, w⟩]) } })
    ∧ (tokEpoch w ≠ epochAt x cy →
        coreOf v k = { x with st := { x.st with staleTokens := satInc 4095 x.st.staleTokens } })
    ∧ (∀ j, j ≠ k → coreOf v j = coreOf s j) ∧ OnlyChanges [.cores] s v

/-- A page of device memory is in host bias. -/
def Sys2Proof.inHostBias (s : State) (page : Nat) : Prop := ∃ x ∈ s.host.hostBias, x.1 ≤ page ∧ page < x.1 + x.2

/-- What the commands of the host port do. QUEUE_CREATE makes an empty queue pair; QUEUE_DELETE unmakes one, and the completions
of its commands in progress are discarded. VERSION agrees on 2.0 where the host lists major version 2. IDENTIFY writes the
capability block. TOKEN_SEND sends a token, or keeps it until there is room. EVENT_QUEUE_SET sets or clears the event queue, and
reports the events lost; EVENT_ACK moves its head. HOST_WINDOW_SET sets or clears one window. BIAS_SET sets the bias of pages.
-/
def Obligations.HostCommands : Prop :=
  ∀ (c : Cmd) (pay : List Byte) (s : State), Kept s →
    let u := takeCmd c s
    let p := leAt pay 0 1
    let Ok (op : Nat) : Prop := Accepted op c pay s ∧ firstFail (hostChecks op c pay u) = stOk
    (Ok 0x0003 → ∃ t, exec (.queueCreate c) s = .next (complete c stOk 0 t)
        ∧ mapGet? t.host.queues p = some ⟨leAt pay 1 1, leAt pay 2 1, leAt pay 4 2, leAt pay 6 2, leAt pay 8 8, leAt pay 0x10 8,
            0, 0, 0, 0, true, []⟩
        ∧ (∀ q, q ≠ p → mapGet? t.host.queues q = mapGet? s.host.queues q) ∧ OnlyChanges [.host] u t)
    ∧ (Ok 0x0004 → ∃ t, exec (.queueDelete c) s = .next (complete c stOk 0 t) ∧ mapGet? t.host.queues p = none
        ∧ (∀ q, q ≠ p → mapGet? t.host.queues q = mapGet? s.host.queues q)
        ∧ t.inProgress = u.inProgress.map (fun x => { x with mute := x.mute || fromQueue p x.cmd.via })
        ∧ OnlyChanges [.host, .inProgress] u t)
    ∧ (Ok 0x0002 →
        let two := ∃ i, i < p ∧ leAt pay (2 + 2 * i) 1 = 2
        (two → exec (.version c) s = .next (complete c stOk 0x20002 { u with host := { u.host with agreed := some 0 } }))
        ∧ (¬two → exec (.version c) s = .next
            (complete c stVersionRefused 0x20000 { u with host := { u.host with agreed := none } })))
    ∧ (Ok 0x0001 → (capBytes u).length = 256
        ∧ (isMbData c = true → exec (.identify c) s = .next
            (complete c stOk 0 (setMbData (putBytes u.host.mbData (cmdAddr c) (capBytes u)) u)))
        ∧ (isMbData c = false → BufferAnswers c (cmdAddr c) 256 u → ∃ t, exec (.identify c) s = .next (complete c stOk 0 t)
          ∧ OutputIs c (cmdAddr c) (capBytes u) t ∧ OnlyChanges [.hostMem, .inProgress] u t))
    ∧ (Ok 0x0009 →
        let k := coreAt p (leAt pay 1 1)
        let q := leAt pay 2 1
        let ms := leAt pay 6 2
        let w := tokWord (BitVec.ofNat 4 (leAt pay 3 1)) (leAt pay 4 2)
        ∃ t, exec (.tokenSend c) s = .next t
          ∧ (tokenRoom s k q = true → TokenEnters c k q w u t)
          ∧ (tokenRoom s k q = false → ms = 0 → t = complete c stBusy 0 u)
          ∧ (tokenRoom s k q = false → ms ≠ 0 → t = { u with host := { u.host with
              tokens := s.host.tokens ++ [⟨k, q, w, u.now + 1000000 * ms, c⟩] } }))
    ∧ (Ok 0x0005 →
        (leAt pay 0xC 1 = 1 → exec (.eventQueueClear c) s = .next
          (complete c stOk 0 { u with ev := { u.ev with set := false } }))
        ∧ (leAt pay 0xC 1 = 0 → ∃ t, exec (.eventQueueSet c) s = .next (complete c stOk 0 t)
          ∧ t.ev.set = true ∧ t.ev.base = leAt pay 0 8 ∧ t.ev.depth = leAt pay 8 4 ∧ t.ev.hostHead = 0 ∧ t.ev.phase = true
          ∧ t.ev.lost = 0
          ∧ (s.ev.lost = 0 → t.ev.tail = 0 ∧ t.ev.seq = s.ev.seq ∧ OnlyChanges [.ev] u t)
          ∧ (s.ev.lost ≠ 0 → t.ev.tail = 1 ∧ t.ev.seq = s.ev.seq + 1 ∧ hostRead t (leAt pay 0 8) 32
              = evBytes s.ev.seq true { evBlank 0x0002 with tick := tickOf u, arg := s.ev.lost })))
    ∧ (Ok 0x0006 → ∃ t, exec (.eventAck c) s = .next (complete c stOk 0 t) ∧ t.ev.hostHead = leAt pay 0 4
        ∧ (s.ev.lost = 0 ∨ evRoom { s.ev with hostHead := leAt pay 0 4 } 1 = false →
            t = { u with ev := { u.ev with hostHead := leAt pay 0 4 } })
        ∧ (s.ev.lost ≠ 0 → evRoom { s.ev with hostHead := leAt pay 0 4 } 1 = true → t.ev.lost = 0
            ∧ t.ev.seq = s.ev.seq + 1 ∧ hostRead t (s.ev.base + 32 * s.ev.tail) 32
              = evBytes s.ev.seq s.ev.phase { evBlank 0x0002 with tick := tickOf u, arg := s.ev.lost }))
    ∧ (Ok 0x0007 →
        let fl := leAt pay 2 1
        (fl = 1 → exec (.hostWindowClear c) s = .next (complete c stOk 0
          (modPart p (fun x => { x with hostWindows := x.hostWindows.set (leAt pay 1 1) none }) u)))
        ∧ (fl ≠ 1 → exec (.hostWindowSet c) s = .next (complete c stOk 0 (modPart p (fun x => { x with
            hostWindows := x.hostWindows.set (leAt pay 1 1)
              (some ⟨bitAt fl 1, bitAt fl 2, leAt pay 8 8, leAt pay 0x10 8⟩) }) u))))
    ∧ (Ok 0x0008 →
        let first := leAt pay 0 8 / 4096
        let n := leAt pay 8 4
        ∃ t, exec (.biasSet c) s = .next (complete c stOk 0 t)
          ∧ (∀ x, first ≤ x → x < first + n → (inHostBias t x ↔ leAt pay 0xC 1 = 0))
          ∧ (leAt pay 0xC 1 = 1 ∨ s.fab.flight = [] →
              (∀ x, x < first ∨ first + n ≤ x → (inHostBias t x ↔ inHostBias s x)) ∧ OnlyChanges [.host] u t))

/-- An access of the host to device memory, to the aperture and to the registers of BAR0, where the port answers. Device memory
reads and writes the bytes of the stack that the offset names; an access that no stack serves is counted, logged and reported,
and a read then gives ones. The aperture reads and writes a memory at its base; where it is closed a read gives ones and a write
does nothing. COMMIT takes the shadow registers into effect together, or says why not. The registers hold what is written;
counters clear on reading, and the identification block begins with its magic number; a doorbell write moves the indexes that it
carries, or is ignored and counted once. -/
def Obligations.HostAccesses : Prop :=
  ∀ (time : Nat) (s : State), Kept s → portAnswers s = true →
    let u := atTime time s
    (∀ (a : HdmAccess), hdmFormOk a = true →
      (u.host.cxlMem = false ∨ hdmSize u ≤ a.off → ∃ t, exec (.hdmAccess a ⟨[], []⟩ time) s = .next t
        ∧ t.host.hdmErrors = satInc 0xFFFFFFFF s.host.hdmErrors
        ∧ t.host.rasLog = s.host.rasLog ++ [(a.off, if u.host.cxlMem then 4 else 9)]
        ∧ (s.host.msixMask.contains 2 = false → mapGetD t.host.msix 2 0 = mapGetD s.host.msix 2 0 + 1)
        ∧ (s.host.msixMask.contains 2 = true → t.host.msixPend.contains 2 = true)
        ∧ (a.wr = none → t.host.readData = copies a.len (BitVec.allOnes 8))
        ∧ OnlyChanges [.host, .ev, .fw, .hostMem] u t)
      ∧ (u.host.cxlMem = true → a.off < hdmSize u →
        let n := (hdmStacks u).getD (a.off / 2 ^ 36) 0
        let o := a.off % 2 ^ 36
        arrivalStatus u (mkRequest u (kingSite u) 3 (stackAddr n o) (if a.wr.isSome then 2 else 1) a.len 0 true (a.wr.getD []))
            = none →
        o + a.len ≤ memSize u (.stack n) → memOpen u (.stack n) o a.len → CleanRange (.stack n) o a.len u →
        (a.wr = none → exec (.hdmAccess a ⟨[], []⟩ time) s = .next (setReadData (memBytes u (.stack n) o a.len) u))
        ∧ (∀ bs, a.wr = some bs → ∃ t, exec (.hdmAccess a ⟨[], []⟩ time) s = .next t
            ∧ memBytes t (.stack n) o a.len = bs
            ∧ (∀ b, b < stackAddr n o ∨ stackAddr n o + a.len ≤ b → memByte t.mem b = memByte s.mem b)
            ∧ OnlyChanges [.mem, .hbms] u t)))
    ∧ (∀ (a : BarAccess), barFormOk a = true →
      let d := u.host.active.base + a.off
      (apClosed u a.off = true →
        (a.wr = none → exec (.apertureAccess a ⟨[], []⟩ time) s = .next (setReadData (copies a.len (BitVec.allOnes 8)) u))
        ∧ (a.wr ≠ none → exec (.apertureAccess a ⟨[], []⟩ time) s = .next u))
      ∧ (apClosed u a.off = false → d + a.len ≤ 2 ^ 56 → d / 64 = (d + a.len - 1) / 64 →
        let q := (apFlight u d (if a.wr.isSome then 2 else 1) a.len (a.wr.getD [])).q
        (∀ m, memKindOf (addrSite d) (addrUnit d) = some m → arrivalStatus u q = none → addrOff d + a.len ≤ memSize u m →
          memOpen u m (addrOff d) a.len → CleanRange m (addrOff d) a.len u →
          (a.wr = none →
            exec (.apertureAccess a ⟨[], []⟩ time) s = .next (setReadData (memBytes u m (addrOff d) a.len) u))
          ∧ (∀ bs, a.wr = some bs → (∃ n, m = .buffer n ∨ m = .stack n) →
            ∃ t, exec (.apertureAccess a ⟨[], []⟩ time) s = .next t ∧ memBytes t m (addrOff d) a.len = bs
              ∧ (∀ b, b < d ∨ d + a.len ≤ b → memByte t.mem b = memByte s.mem b)
              ∧ OnlyChanges [.mem, .hbms, .bufs] u t))
        ∧ (∀ st, apCore d = none → arrivalStatus u q = some st → st ≠ 3 →
          (a.wr = none → exec (.apertureAccess a ⟨[], []⟩ time) s = .next
            { u with host := { u.host with
              apErrors := satInc 0xFFFFFFFF s.host.apErrors, readData := copies a.len (BitVec.allOnes 8) } })
          ∧ (a.wr ≠ none → exec (.apertureAccess a ⟨[], []⟩ time) s = .next
            { u with host := { u.host with apErrors := satInc 0xFFFFFFFF s.host.apErrors } }))))
    ∧ (let h := u.host.shadow
       let good := h.enable = false ∨ (12 ≤ h.sizeLog2 ∧ h.sizeLog2 ≤ 34 ∧ h.base % 2 ^ h.sizeLog2 = 0
         ∧ h.base + 2 ^ h.sizeLog2 ≤ 2 ^ 56 ∧ (h.part < 8 ∨ 14 < h.part))
       (∀ v, v ≠ 0xC0DE#32 → exec (.commit v time) s = .next u)
       ∧ (good → exec (.commit 0xC0DE#32 time) s = .next
           { u with host := { u.host with active := h, rejected := false } })
       ∧ (¬good → ∃ t, exec (.commit 0xC0DE#32 time) s = .next t ∧ t.host.active = s.host.active ∧ t.host.rejected = true
           ∧ t.host.reason = (if h.sizeLog2 < 12 ∨ 34 < h.sizeLog2 then 1 else if h.base % 2 ^ h.sizeLog2 ≠ 0 then 2
               else if 2 ^ 56 < h.base + 2 ^ h.sizeLog2 then 3 else 4)
           ∧ OnlyChanges [.host] u t))
    ∧ fld (leNat (barRead u 0 8)) 31 0 = 0x4A585A4C
    ∧ exec (.dbErrors time) s = .next (setReadData (natLe 8 s.host.dbErrors) { u with host := { u.host with dbErrors := 0 } })
    ∧ exec (.hdmErrors time) s = .next (setReadData (natLe 8 s.host.hdmErrors) { u with host := { u.host with hdmErrors := 0 } })
    ∧ exec (.apErrors time) s = .next (setReadData (natLe 8 s.host.apErrors) { u with host := { u.host with apErrors := 0 } })
    ∧ (∀ a, regFormOk a = true →
      (0x1000 ≤ a.off → a.off + a.size ≤ 0x1040 → exec (.registerWrite a time) s = .next
        (if u.host.mbBusy then u else setMbCmd (putBytes u.host.mbCmd (a.off - 0x1000) (natLe a.size a.value.toNat)) u))
      ∧ (0x1100 ≤ a.off → a.off + a.size ≤ 0x2000 → exec (.registerWrite a time) s = .next
        (if u.host.mbBusy then u else setMbData (putBytes u.host.mbData (a.off - 0x1100) (natLe a.size a.value.toNat)) u))
      ∧ (a.size = 8 → a.off = 0x100000 → exec (.registerWrite a time) s = .next
        (setShadow { u.host.shadow with base := a.value.toNat % 2 ^ 56 } u))
      ∧ (a.size = 8 → a.off = 0x100008 → exec (.registerWrite a time) s = .next
        (setShadow { u.host.shadow with enable := bitAt a.value.toNat 9, part := fld a.value.toNat 8 5 } u))
      ∧ (a.size = 8 → a.off = 0x100010 → exec (.registerWrite a time) s = .next
        (setShadow { u.host.shadow with sizeLog2 := a.value.toNat % 64 } u)))
    ∧ (∀ v, exec (.done v time) s = .next
        (if bitAt (BitVec.toNat (w := 64) v) 1 then { u with host := { u.host with mbDone := false } } else u))
    ∧ (∀ (q : Fin 64) (tail head : Option (BitVec 12)) (row : Instr),
      (∃ x, tail = some x ∧ row = .sqTail q ⟨x, head⟩ time) ∨ (tail = none ∧ row = .cqHead q head time) →
      (∀ p, mapGet? s.host.queues q.val = some p → bellOk tail p.sqDepth = true → bellOk head p.cqDepth = true →
        let p' : QueuePair := { p with
          sqTail := (tail.map BitVec.toNat).getD p.sqTail, cqHead := (head.map BitVec.toNat).getD p.cqHead }
        (p.waiting = [] → exec row s = .next (putQueue q.val p' u))
        ∧ (∀ y, p.waiting = [y] → cqRoom p' = true → ∃ t, exec row s = .next t
          ∧ (mapGet? t.host.queues q.val).map (fun z => z.waiting) = some []
          ∧ hostRead t (p.cqBase + 16 * p.cqTail) 16 = cplBytes y.cmdId y.status y.sqHead p.phase y.detail
          ∧ OnlyChanges [.host, .hostMem] u t))
      ∧ ((match mapGet? s.host.queues q.val with
          | some p => bellOk tail p.sqDepth = false ∨ bellOk head p.cqDepth = false
          | none => True) →
          exec row s = .next { u with host := { u.host with dbErrors := satInc 0xFFFFFFFF s.host.dbErrors } }))

/-- The port and the commands that wait at it. A host-port reset deletes the queues, clears the mailbox, closes the aperture,
the host windows and the event queue, and discards the completions of host commands in progress; PERST# holds the port in it
until it is released. In L2 an event that is pending asserts WAKE#. A token that waits enters its queue when there is room, or
its command completes with BUSY when its time has passed. PREPARE_REMOVAL stops the bays; where none is left it ends
installation and parks the panel, and else it goes on when they have stopped. -/
def Obligations.PortsResetAndTokensWait : Prop :=
  ∀ (time : Nat) (s : State), Kept s →
    let u := atTime time s
    (∀ cause, s.pwr.good = true → ∃ t, exec (.hostPortReset cause time) s = .next t
      ∧ t.host.queues = [] ∧ t.host.mbBusy = false ∧ t.host.mbDone = false ∧ t.host.mbCmd = copies 64 0
      ∧ t.host.agreed = none ∧ t.host.active.enable = false ∧ t.host.hostBias = [] ∧ t.ev.set = false
      ∧ t.host.perst = (cause == .perst || s.host.perst) ∧ t.host.shadow = s.host.shadow
      ∧ (∀ p ∈ t.parts, p.hostWindows = copies 16 none)
      ∧ t.inProgress = s.inProgress.map (fun x => { x with mute := x.mute || fromHost x.cmd.via })
      ∧ OnlyChanges [.host, .inProgress, .ev, .parts] u t)
    ∧ (∀ m, modeFormOk m = true → s.host.perst = true → exec (.perstDeassert m time) s = .next
        { u with host := { u.host with perst := false, linkMode := m.code.val, linkWidth := m.width } })
    ∧ (∀ enter, s.pwr.good = true → s.host.perst = false → s.host.inL2 = !enter →
        ∃ t, exec (.cxlL2Change enter time) s = .next t ∧ t.host.inL2 = enter
          ∧ (t.host.wake = true ↔ enter = true ∧ ((s.ev.set = true ∧ s.ev.tail ≠ s.ev.hostHead) ∨ 0 < s.ev.lost))
          ∧ OnlyChanges [.host] u t)
    ∧ (∀ (k : CoreId) (q : Fin 4) (w : WaitingToken),
        (s.host.tokens.find? (fun x => x.core == coreNo k && x.tq == q.val && decide (u.now ≤ x.due)) = some w →
          tokenRoom s (coreNo k) q.val = true → tokenBay s (coreNo k) (cmdPart w.cmd) = true →
          ∃ t, exec (.tokenSendDeliver k q time) s = .next t ∧ TokenEnters w.cmd (coreNo k) q.val w.word
            { u with host := { u.host with tokens := s.host.tokens.erase w } } t)
        ∧ (s.host.tokens.find? (fun x => x.core == coreNo k && x.tq == q.val && decide (x.due ≤ u.now)) = some w →
          exec (.tokenSendTimeout k q time) s = .next (complete w.cmd stBusy 0
            { u with host := { u.host with tokens := s.host.tokens.erase w } })))
    ∧ ∀ c pay, Accepted 0x000A c pay s →
        let u := takeCmd c s
        let v := s.bays.foldl (fun v b => autoStop b.1 v) { u with host := { u.host with removing := some c } }
        (v.bays.any (fun b => b.2.mode != .loaded && b.2.mode != .stopped) = true → exec (.prepareRemoval c) s = .next v)
        ∧ (s.bays = [] → ∃ t, exec (.prepareRemoval c) s = .next t ∧ t.install = false ∧ t.host.removing = none
            ∧ t.host.removalReady = true ∧ t.host.parked = true ∧ isInProgress c t = false)

/-- A Jexeri command runs as its row does, whichever way it comes in: through the mailbox with GO, at once or when firmware
takes it later; from the head of the queue whose turn it is; in a signed COMMAND frame of Jexeri-M whose sequence number is new,
at once or, behind others or at 1,024 commands in progress, later. COMMAND_TAKE first ends a bundle's stage under way (log entry
157). One whose payload host memory does not answer completes with TIMEOUT after 50 ms. -/
def Obligations.CommandsComeIn : Prop :=
  ∀ (i : Instr) (op : Nat) (c : Cmd) (time : Nat) (s : State), jexeri i = some (op, c) → cmdOp c = op → Kept s →
    let u := atTime time s
    (∀ v, portAnswers s = true → bitAt (BitVec.toNat (w := 64) v) 0 = true → s.fw.noKing = false → s.host.bringup ≠ 0 →
        c = ⟨time, .mailbox, entryOfBytes s.host.mbCmd⟩ →
      (procHeld s (kingPc s) = false → canTake c u = true → exec (.go v time) s = exec i u)
      ∧ (procHeld s (kingPc s) = false → s.host.mbBusy = false → canTake c u = false →
          exec (.go v time) s = .next { u with host := { u.host with mbBusy := true, mbSince := u.now } })
      ∧ (procHeld s (kingPc s) = true → s.host.mbBusy = false → hardwareRuns c u = false →
          exec (.go v time) s = .next (complete c stFault 0 (takeCmd c u)))
      ∧ (s.host.mbBusy = true → exec (.go v time) s = .next u))
    ∧ (firmwareRuns s = true → s.fw.stage.isSome = true → exec (.commandTake time) s = .next (endStage u))
    ∧ (firmwareRuns s = true → s.fw.stage = none → s.inProgress.length < 1024 → isInProgress c s = false →
      (mailWaits s = true → c = ⟨time, .mailbox, entryOfBytes s.host.mbCmd⟩ →
        exec (.commandTake time) s = exec i { u with host := { u.host with mbBusy := false } })
      ∧ (∀ (q : Fin 64) (p : QueuePair), mailWaits s = false → s.fw.commands = [] → (readyQueues s).head? = some (q.val, p) →
        mapGet? s.host.queues q.val = some p →
        let a := p.sqBase + 64 * p.sqHead
        hostAnswer s a 64 = none → c = ⟨time, .queue q, entryOfBytes (hostRead s a 64)⟩ →
        exec (.commandTake time) s = exec i (putQueue q.val
          { p with sqHead := if p.sqHead + 1 < p.sqDepth then p.sqHead + 1 else 0 }
          { u with host := { u.host with turn := q.val + 1 } })))
    ∧ (∀ (g : Segm) (d : List Byte) (from' : BitVec 128) (x : Sender), (segOf s g).mode ≠ .down → segmentsServed s = true → s.fw.kingLost = false →
        jmHeaderOk d = true → jmType d = 3 → jmTarget d = panelSerial s → leAt d 4 1 = 2 →
        c = frameCmd time d → senderOf s (jmSender d) = some x →
      ∃ t, exec (.command g ⟨true, .own, true, from', .udp 5812 255 d⟩ time) s = .next t
        ∧ (jmSigned s d = false → (segOf s g).drops.unauth + 1 = (segOf t g).drops.unauth ∨ s.mgmt.segs.length ≤ segNo g)
        ∧ (jmSigned s d = false ∨ jmSeq d ≤ x.last → OnlyChanges [.mgmt] u t)
        ∧ (jmSigned s d = true → x.last < jmSeq d → ∃ j, (j.fw.commands = [] → canTake c j = true → exec i j = .next t)
          ∧ (j.fw.commands ≠ [] ∨ 1024 ≤ j.inProgress.length → t = setCommands (j.fw.commands ++ [(c, true)]) j)
          ∧ senderOf j (jmSender d) = some { x with last := jmSeq d, frame := d, time := u.now }
          ∧ jmSeq d ≤ mapGetD j.boot.hwm (jmSender d) 0 ∧ OnlyChanges [.mgmt, .bootHwm] u j))
    ∧ (∀ k, opInfo op = some k → k.form = .payload → canTake c s = true → isInline c = false → isMbData c = false →
        (c.via = .mailbox ∨ ∃ q p, c.via = .queue q ∧ mapGet? s.host.queues q.val = some p ∧ p.cqTail < p.cqDepth) →
        let v := takeCmd c s
        versionOk c v = true → entryOk c = true → bindingStatus c k v = stOk → readyOk c v = true → formStatus c k = stOk →
        hostAnswer v (cmdAddr c) (cmdLen c) = some true →
        exec (.payloadTimeout c) s = .next (atTime (c.time + 50000000) (complete c stTimeout 0 v)))

/-! ## Firmware, bring-up and resets -/

/-- What the commands of firmware, bundles and resets check of their own, in order. -/
def Sys2Proof.firmwareChecks (op : Nat) (c : Cmd) (pay : List Byte) (s : State) : List (Bool × Nat) :=
  let k := kingBanks s
  match op with
  | 0x0700 => [(decide (pay.length ≠ 16) || decide (leAt pay 8 4 < 736) || decide (16777216 < leAt pay 8 4), stBadLength)]
  | 0x0701 => [(decide (pay.length ≠ 8), stBadLength), (s.fw.apply == .running || s.fw.stage.isSome || s.fw.reset.isSome, stBusy),
      (!k.2.valid || bnVersion k.2.bytes != leAt pay 0 8 || !bundlesCompatible k.2.bytes k.1.bytes, stBadField),
      (decide (bnRbValue k.2.bytes < rbCounter s (bnRbCounter k.2.bytes)), stDenied)]
  | 0x0702 =>
    let st := bufStatus c (leAt pay 8 8) (leAt pay 4 4) 7232
    [(decide (pay.length ≠ 16), stBadLength), (!zeroAt pay 0 4, stBadField), (st != stOk, st)]
  | 0x0703 =>
    let n := leAt pay 0 2
    [(decide (pay.length ≠ 8), stBadLength), (decide (223 < n) || decide (1 < leAt pay 2 1) || !zeroAt pay 3 5, stBadField),
      (procAbsent s n, stUnitAbsent), (procUnpowered s n || procFailed s n || s.host.parked, stNotReady),
      (procStarts s n || (procHeld s n && !bitAt (leAt pay 2 1) 0), stBusy)]
  | _ =>
    let scope := leAt pay 0 1
    let i := rsSite pay
    [(decide (pay.length ≠ 8), stBadLength), (isMgmt c && decide (scope < 3), stDenied), (rsBad c pay s, stBadField),
      (s.fw.kingLost && scope != 4, stNotReady), (decide (scope < 2) && ownerOf s i != cmdPart c, stDenied),
      (s.host.parked && scope != 4, stNotReady), (scope != 4 && (resetRuns s || s.fw.apply == .running), stBusy)]
    ++ (if 2 ≤ scope then [] else [(siteAbsent s i, stUnitAbsent), (!sitePowered s i || siteInReset s i, stNotReady),
      (scope == 1 && (entryAt s i).state == .failed, stDenied),
      (if scope = 0 then coreBusy s (rsCore pay) else dieBusy s i, stBusy)])

/-- From `s` to `t` a processor begins to restart with a cause, and no other changes. -/
def Sys2Proof.Restarts (n cause : Nat) (counted : List Nat) (by' : Option Cmd) (s t : State) : Prop :=
  procOf t n = { procOf s n with
    run := .starting, cause := cause, restarts := satInc 0xFFFFFFFF (procOf s n).restarts, lastTick := tickOf s, version := 0
    since := s.now, counted := counted, waitedBy := by' }
  ∧ ∀ m, m ≠ n → procOf t m = procOf s m

/-- Processors. One whose watchdog expires, or that faults, restarts, and the restart counts; in place of the third within 600 s
it is held. None of it touches what the hardware holds. A processor that restarts runs again with the active bundle, its events
are raised, and the commands that have waited for it run; one whose code fails its digest does not run. A command that has
waited too long completes with FAULT, the mailbox's too. A core that has none loads the microcode of the active bank, or fails
where its digest does not hold. What the commands of firmware do. FW_PROC_RESTART restarts a processor, and completes when it
runs again, or at once for the controller that runs the command. FW_STATUS writes its table. FW_BUNDLE_STAGE begins to write a
bundle that is allowed into the inactive banks, which are invalid until the write ends, and leaves the active ones; the write
ends with the bundle there, or with FAULT where a bank fails its read-back (that it ends at the next COMMAND_TAKE is the model's
choice, log entry 157). FW_BUNDLE_APPLY exchanges the banks and restarts the processors in their order. -/
def Obligations.ProcessorsAndBundles : Prop :=
   (∀ (n : ProcId) (time : Nat) (s : State), Kept s → s.err.armed = [] →
      let u := atTime time s
      let p := procOf s n.val
      let settled (i : Instr) (cause : Nat) : Prop :=
        procHeld s (kingPc s) = false ∨ mailWaits s = false →
        (siteInReset s (siteOfProc n.val) = true → exec i s = .next u)
        ∧ (siteInReset s (siteOfProc n.val) = false → ∃ t, exec i s = .next t
          ∧ (windowCount u n.val < 2 → Restarts n.val cause (p.counted ++ [u.now]) p.waitedBy u t)
          ∧ (2 ≤ windowCount u n.val → n.val ≠ kingPc s ∨ mailWaits s = false →
              procOf t n.val = { p with run := .held, counted := p.counted ++ [u.now], version := 0, waitedBy := none }
              ∧ (∀ m, m ≠ n.val → procOf t m = procOf s m) ∧ ∀ w ∈ t.fw.waiting, w.proc ≠ n.val)
          ∧ (n.val ≠ kingPc s ∨ mailWaits s = false → OnlyChanges
              [.fp, .host, .inProgress, .mgmt, .measure, .ev, .pwr, .fw, .err, .installs, .links, .hostMem, .bootLog] u t))
      (p.run = .running ∨ (p.run = .starting ∧ p.since + restartBound n.val ≤ u.now) → settled (.watchdogExpiry n time) 1)
      ∧ (p.run = .running ∨ p.run = .starting → settled (.processorFault n time) 2)
      ∧ (p.run = .starting → procCodeOk s n.val = false → exec (.fwRestart n time) s = .next s)
      ∧ (p.run = .starting → siteInReset s (siteOfProc n.val) = false → procCodeOk s n.val = true →
        ((∀ w ∈ s.fw.waiting, w.proc ≠ n.val) → s.fw.applyAt ≠ some n.val → ∃ t, exec (.fwRestart n time) s = .next t
          ∧ procOf t n.val = { p with run := .running, version := activeVersion s, waitedBy := none }
          ∧ (∀ m, m ≠ n.val → procOf t m = procOf s m) ∧ (∀ x ∈ t.fw.latched, x.1 ≠ n.val)
          ∧ OnlyChanges [.host, .inProgress, .mgmt, .ev, .fw, .hostMem] u t)
        ∧ (∀ w, s.fw.waiting = [w] → w.proc = n.val → ∃ v, v.fw.waiting = [] ∧ procRuns v n.val = true
          ∧ ((runOpcode w.cmd w.pay v).fw.applyAt ≠ some n.val →
              exec (.fwRestart n time) s = .next (runOpcode w.cmd w.pay v))))
      ∧ (∀ id, let late := s.fw.waiting.find? (fun w => w.cmd.entry.cmdId == id
            && decide (w.since + restartBound w.proc + 1000000000 ≤ u.now))
          (∀ w, late = some w → exec (.fwWaitExpired id time) s = .next
            (complete w.cmd stFault 0 { u with fw := { u.fw with waiting := s.fw.waiting.erase w } }))
          ∧ (late = none → mailExpired id u = true →
            exec (.fwWaitExpired id time) s = .next (let c := mailCmd time u; complete c stFault 0 (takeCmd c u))))
      ∧ (∀ c b, firmwareRuns s = true → s.fw.stage = some (c, b) →
          let v := { u with fw := { u.fw with stage := none } }
          let bad := ∃ k ∈ stageDies s, s.boot.bankBad.contains k = true
          (bad → exec (.commandTake time) s = .next (complete c stFault 0 v))
          ∧ (¬bad → ∃ w, exec (.commandTake time) s = .next (complete c stOk (bnVersion b) w)
            ∧ (∀ k p, s.boot.banks[k]? = some p → w.boot.banks[k]? = some (if k ∈ stageDies s then (p.1, ⟨true, b⟩) else p))
            ∧ OnlyChanges [.bootBanks] v w))
      ∧ ∀ k : CoreId, let m := coreNo k
        let i := siteOfCore m
        sitePowered s i = true → bitAt (entryAt s i).coreGood.toNat (coreBit m) = true → bayOfCore s m = none →
        (coreOf s m).microcode ≠ activeMicro s →
        let b := (kingBanks s).1.bytes
        ∃ t, exec (.microcodeLoad k time) s = .next t ∧ (∀ j, j ≠ m → coreOf t j = coreOf s j)
          ∧ (digestOk b (bnComponent b 7) = true →
              coreOf t m = { coreOf s m with microcode := activeMicro s } ∧ OnlyChanges [.cores] u t)
          ∧ (digestOk b (bnComponent b 7) = false → bitAt (entryAt t i).coreGood.toNat (coreBit m) = false))
   ∧ (∀ (c : Cmd) (pay : List Byte) (s : State), Kept s →
      let u := takeCmd c s
      let Ok (op : Nat) : Prop := Accepted op c pay s ∧ firstFail (firmwareChecks op c pay u) = stOk
      (Ok 0x0703 →
        let n := leAt pay 0 2
        let counted := if bitAt (leAt pay 2 1) 0 then [] else (procOf s n).counted
        ∃ t, exec (.fwProcRestart c) s = .next t
          ∧ (n ≠ kingPc s → Restarts n 3 counted (some c) u t)
          ∧ (n = kingPc s → Restarts n 3 counted (procOf s n).waitedBy u t ∧ isInProgress c t = false))
      ∧ (Ok 0x0702 → BufferAnswers c (leAt pay 8 8) 7232 u → ∃ t, exec (.fwStatus c) s = .next (complete c stOk 0 t)
          ∧ OutputIs c (leAt pay 8 8) (fwHeader u ++ (List.range 224).flatMap (procBytes u)) t
          ∧ OnlyChanges [.hostMem, .inProgress] u t)
      ∧ (Ok 0x0700 → hostAnswer u (leAt pay 0 8) (leAt pay 8 4) = none →
          let b := hostRead u (leAt pay 0 8) (leAt pay 8 4)
          let st := firstFail [(bnLen b != leAt pay 8 4, stBadLength), (s.fw.apply == .running || s.fw.stage.isSome, stBusy),
            (!zeroAt pay 0xC 4 || !bundleFormOk b || !bundlesCompatible b (kingBanks s).1.bytes, stBadField)]
          let v := advanceFuses u
          (st ≠ stOk → exec (.fwBundleStage c) s = .next (complete c st 0 u))
          ∧ (st = stOk → ∃ t, exec (.fwBundleStage c) s = .next t
            ∧ (bundleSigned v b = false ∨ bnRbValue b < rbCounter v (bnRbCounter b) → t = complete c stDenied 0 v)
            ∧ (bundleSigned v b = true → rbCounter v (bnRbCounter b) ≤ bnRbValue b →
              (bundleDigestsOk b = false → t = complete c stFault 0 v)
              ∧ (bundleDigestsOk b = true → t.fw = { v.fw with stage := some (c, b) }
                ∧ (∀ k p, s.boot.banks[k]? = some p →
                    t.boot.banks[k]? = some (if k ∈ stageDies s then (p.1, ⟨false, []⟩) else p))
                ∧ OnlyChanges [.bootBanks, .fw] v t))))
      ∧ (Ok 0x0701 → ∃ t v, exec (.fwBundleApply c) s = .next t ∧ v.boot.banks = s.boot.banks.map (fun p => (p.2, p.1))
          ∧ t.boot.banks = v.boot.banks ∧ v.fw.procs = s.fw.procs ∧ v.measure.count = s.measure.count + 1
          ∧ v.fw.applyAt = none
          ∧ OnlyChanges [.bootBanks, .measure, .host, .ev, .fw, .hostMem] u v
          ∧ (∀ n, applyNext v = some n → t.fw.apply = .running ∧ t.fw.applyAt = some n ∧ t.fw.applyCmd = some c
              ∧ procStarts t n = true ∧ (procOf t n).cause = 4)
          ∧ (applyNext v = none → t.fw.apply = .idle ∧ t.fw.applyAt = none ∧ isInProgress c t = false
              ∧ procStarts t (kingPc s) = true ∧ (procOf t (kingPc s)).cause = 4)))

/-- Power good and the steps of bring-up. At power good the boot count goes on, and with a management die that starts, step 0
begins with its deadline 1 s later; without one the panel stays without a king post. A step that has finished everywhere, or
whose deadline has come, gives way to the next; step 2 powers the sites, step 3 builds the record, and at 6 the panel is ready.
The second management die takes over when the king post is lost, and every site goes dark. -/
def Obligations.PanelsComeUp : Prop :=
  ∀ (time : Nat) (s : State), Kept s →
    let u := atTime time s
    let n := s.host.bringup
    (∀ m : MgmtSelfTest,
        s.fw.cold = true ∨ (s.pwr.good = false ∧ s.pwr.switchClosed = true ∧ s.pwr.range = .normal) →
        ∃ t, exec (.powerGood m time) s = .next t ∧ t.pwr.good = true ∧ t.mgmt.slotId = m.slotId.toNat
          ∧ t.boot.bootCount = s.boot.bootCount + 1
          ∧ (m.pass4 = false → m.pass9 = false → t.fw.noKing = true)
          ∧ (t.fw.noKing = false → t.fw.booting = true ∧ t.host.bringup = 0 ∧ t.fw.stepDue = t.now + 1000000000)
          ∧ (s.fw.cold = true → t.fw.cold = false ∧ t.bays = [] ∧ t.mem = [] ∧ t.host.queues = []))
    ∧ (∀ r, s.fw.booting = true → (∀ i ∈ stepUnits s n, stepDoneAt n r i = true) →
        ∃ t, exec (.bringupStep r time) s = .next t ∧ t.host.bringup = n + 1
          ∧ t.fw.stepDue = (s.fw.stepBase + 1000000000 * [1, 5, 20, 75, 100, 115, 120].getD (n + 1) 120).toNat
          ∧ (n = 0 → procRuns t (kingPc s) = true ∧ procRuns t (kingPtc s) = true)
          ∧ (n = 2 → ∀ i ∈ stepUnits s 2, modeOf t i = .on)
          ∧ (n = 3 → t.fp.built = true)
          ∧ (n = 5 → t.host.cxlMem = true ∧ t.fw.booting = false))
    ∧ (∀ r, s.fw.booting = true → s.fw.stepDue ≤ u.now → ∃ t, exec (.bringupDeadline r time) s = .next t
          ∧ (n < 2 → t.fw.noKing = true ∧ t.fw.booting = false ∧ t.host.bringup = 0)
          ∧ (2 ≤ n → t.host.bringup = n + 1)
          ∧ (n = 2 ∨ n = 4 → ∀ i ∈ stepUnits s n, stepDoneAt n r i = false → (entryAt t i).state = .failed))
    ∧ (s.pwr.good = true → s.fw.kingLost = false → s.fw.noKing = false → (entryAt s (otherMgmt s)).state ≠ .failed →
        s.err.armed = [] → ∃ t, exec (.kingPostLossTrip time) s = .next t ∧ t.fw.kingLost = true ∧ t.fw.booting = false
          ∧ (∀ i ∈ dieSites, sitePowered t i = false)
          ∧ procOf t (kingPc s) = procZero ∧ procOf t (kingPtc s) = procZero
          ∧ ∃ a, t.mgmt.alerts = s.mgmt.alerts ++ [a] ∧ a.left = 2 ∧ a.due = u.now + 100000000)

/-- Resets. RESET of a core clears it, of a die puts the die into reset until it has started again; of a partition stops its
inputs, and once it is drained or 10 ms have passed its bays and batches are gone; of the panel, warm, starts bring-up again at
step 3 with no bay, no partition and empty memories, cold, completes and has power good come again. -/
def Obligations.ResetsClear : Prop :=
  (∀ (c : Cmd) (pay : List Byte) (s : State), Kept s → Accepted 0x0704 c pay s →
    let u := takeCmd c s
    firstFail (firmwareChecks 0x0704 c pay u) = stOk →
    let scope := leAt pay 0 1
    let i := rsSite pay
    (scope = 0 → ∃ t m, exec (.resetCore c) s = .next t ∧ isInProgress c t = false
        ∧ coreOf t (rsCore pay) = { coreCleared (coreOf s (rsCore pay)) with microcode := m }
        ∧ ∀ j, j ≠ rsCore pay → coreOf t j = coreOf s j)
    ∧ (scope = 1 → ∃ t, exec (.resetDie c) s = .next t ∧ siteInReset t i = true ∧ (pwrOf t i).resetBy = some c
        ∧ (∀ j, j ≠ i → pwrOf t j = pwrOf s j)
        ∧ (placeRole i = 1 → ∀ k ∈ siteCores i, coreOf t k = coreCleared (coreOf s k)))
    ∧ (scope = 2 → ∃ t, exec (.resetPartition c) s = .next t ∧ t.fw.reset = some ⟨2, c, u.now, false, 0⟩)
    ∧ (scope = 3 → ∃ t, exec (.resetPanelWarm c) s = .next t ∧ t.fw.reset = some ⟨3, c, u.now, false, 0⟩
        ∧ t.host.bringup = 3 ∧ t.fw.booting = true ∧ t.fp.built = false ∧ t.host.cxlMem = false ∧ t.bays = [] ∧ t.cores = []
        ∧ t.mem = [] ∧ t.parts = copies 8 partitionZero ∧ t.boot.wear = s.err.wear)
    ∧ (scope = 4 → ∃ t, exec (.resetPanelCold c) s = .next t ∧ t.fw.cold = true ∧ t.fw.reset = none
        ∧ isInProgress c t = false ∧ t.boot.wear = s.err.wear))
  ∧ (∀ (p : SiteId) (r : SelfTest) (c : Cmd) (time : Nat) (s : State), Kept s → let i := siteNo p
      siteInReset s i = true → (pwrOf s i).resetBy = some c → (∀ w ∈ s.fw.waiting, procOfSite i ≠ some w.proc) →
      ∃ t, exec (.dieResetComplete p r time) s = .next t
        ∧ siteInReset t i = false ∧ (pwrOf t i).resetBy = none
        ∧ (∀ n, procOfSite i = some n → procRuns t n = true)
        ∧ ((entryAt s i).state ≠ .failed → testReason s i r ≠ 0 →
            (entryAt t i).state = .failed ∧ (entryAt t i).reason = testReason s i r)
        ∧ ∃ v, t = complete c stOk (siteStateCode (entryAt t i).state) v)
  ∧ (∀ (part : Fin 8) (r : ResetRun) (time : Nat) (s : State), Kept s → s.fw.reset = some r → r.scope = 2 →
      cmdPart r.cmd = part.val → partDrained s part.val = true ∨ r.since + 10000000 ≤ max s.now time →
      ∃ v, exec (.partitionResetDiscard part time) s = .next (complete r.cmd stOk
          ((partBays s part.val).length + (if partDrained s part.val then 0 else 65536)) v)
        ∧ v.fw.reset = none ∧ (∀ b ∈ v.bays, b.2.part ≠ part.val)
        ∧ (partOf v part.val).embBatches = [] ∧ (partOf v part.val).wsetBatches = [])

/-! ## Power -/

/-- What the commands of power and cooling check of their own before they need the power and thermal controller, in order. -/
def Sys2Proof.powerChecks (op : Nat) (c : Cmd) (pay : List Byte) (s : State) : List (Bool × Nat) :=
  let status (need : Nat) : List (Bool × Nat) :=
    let st := bufStatus c (leAt pay 8 8) (leAt pay 4 4) need
    [(decide (pay.length ≠ 16), stBadLength), (cmdPart c != 0xFF || !zeroAt pay 0 4, stBadField), (st != stOk, st)]
  match op with
  | 0x0800 => [(decide (pay.length ≠ 8), stBadLength), (psBad c pay, stBadField),
      (psOp pay != 6 && siteAbsent s (psSite pay), stUnitAbsent)]
  | 0x0801 => status 14400
  | 0x0900 => status 10816
  | _ =>
    let scope := leAt pay 0 1
    let x := leAt pay 1 1
    let y := leAt pay 2 1
    let v := leAt pay 4 4
    let off := bitAt (leAt pay 3 1) 0
    [(decide (pay.length ≠ 8), stBadLength),
      (cmdPart c != 0xFF || decide (1 < scope) || decide (1 < leAt pay 3 1) || (v == 0) != off
        || (!off && !decide (if scope = 0 then 45 ≤ v ∧ v ≤ 140 else 2000 ≤ v ∧ v ≤ 25000))
        || (scope == 0 && (decide (15 < x) || decide (13 < y) || placeRole (16 * y + x) != 1))
        || (scope == 1 && (x != 0 || y != 0)), stBadField),
      (scope == 0 && siteAbsent s (16 * y + x), stUnitAbsent)]

/-- The rows of POWER_SET, by the operation of the payload. -/
def Sys2Proof.powerRow (c : Cmd) (op : Nat) : Instr :=
  if op = 1 then .siteOn c else if op = 2 then .siteOff c else if op = 3 then .selfRefreshEnter c
  else if op = 4 then .selfRefreshExit c else if op = 5 then .lanes c else .quadrantOn c

/-- What the power commands do. They wait for the king post's power and thermal controller while it restarts, and fail while it
is held. POWER_SET is refused while its unit changes, completes at once where it would change nothing, and then meets the
refusals that remain. SITE_ON begins the ramp when its quadrant allows it; SITE_OFF powers the site off, and a compute die loses
its cores; a stack enters self-refresh and leaves it, with its scrub period begun again; LANES powers the lanes of a link, which
retrains where it loses one in use; QUADRANT_ON closes the quadrant's eFuse. CEILING_SET sets a ceiling, POWER_STATUS writes its
table. -/
def Obligations.PowerCommands : Prop :=
  ∀ (c : Cmd) (pay : List Byte) (s : State), Kept s →
    let u := takeCmd c s
    let Ok (op : Nat) : Prop := Accepted op c pay s ∧ firstFail (powerChecks op c pay u) = stOk
    let ready : Prop := procHeld s (kingPtc s) = false ∧ procStarts s (kingPtc s) = false
    (∀ op row, (op, row) ∈ [(0x0800, powerRow c (psOp pay)), (0x0801, .powerStatus c), (0x0802, .ceilingSet c),
        (0x0900, .coolingStatus c)] → Ok op →
      (procHeld s (kingPtc s) = true → exec row s = .next (complete c stFault 0 u))
      ∧ (procStarts s (kingPtc s) = true → exec row s = .next
          { u with fw := { u.fw with waiting := s.fw.waiting ++ [⟨kingPtc s, u.now, c, pay⟩] } }))
    ∧ (Ok 0x0800 → ready →
      let op := psOp pay
      let i := psSite pay
      let q := quadOf s (psQuad pay)
      let row := powerRow c op
      let busy := if op = 6 then q.closed || q.waiting.any (fun w => w.op == 6) else siteChanging s i
      let last := firstFail [((op == 2 || op == 3) && sitePowered s i && offBusy s i, stBusy),
        (op != 6 && ((op != 1 && !sitePowered s i) || !q.closed), stNotReady),
        (psPowersOn s pay && powerOnRefused s, stNoHeadroom)]
      (busy = true → exec row s = .next (complete c stBusy 0 u))
      ∧ (busy = false → op ≠ 6 → psNoChange s pay = true → exec row s = .next (complete c stOk 0 u))
      ∧ (busy = false → (op = 6 ∨ psNoChange s pay = false) →
        (last ≠ stOk → exec row s = .next (complete c last 0 u))
        ∧ (last = stOk → ∃ t, exec row s = .next t
          ∧ (op = 1 → exec (.siteOn c) s = .next t) ∧ (op = 2 → exec (.siteOff c) s = .next t)
          ∧ (op = 3 → exec (.selfRefreshEnter c) s = .next t) ∧ (op = 4 → exec (.selfRefreshExit c) s = .next t)
          ∧ (op = 5 → exec (.lanes c) s = .next t) ∧ (op = 6 → exec (.quadrantOn c) s = .next t)
          ∧ (op = 1 → q.waiting = [] →
            (mayBegin u (quadrantOf i) (siteInrush i) = true → modeOf t i = .ramping ∧ (pwrOf t i).acting = some c
              ∧ (pwrOf t i).phases = copies 3 none ∧ (pwrOf t i).retired = [] ∧ (quadOf t (quadrantOf i)).waiting = []
              ∧ (∀ j, j ≠ i → pwrOf t j = pwrOf s j) ∧ OnlyChanges [.pwr, .cool] u t)
            ∧ (mayBegin u (quadrantOf i) (siteInrush i) = false →
              (quadOf t (quadrantOf i)).waiting = [⟨c, 1, i, psPos pay + 4 * psMask pay, siteInrush i⟩]
              ∧ (∀ j, pwrOf t j = pwrOf s j) ∧ OnlyChanges [.pwr] u t))
          ∧ (op = 2 → modeOf t i = .off ∧ (∀ j, j ≠ i → modeOf t j = modeOf s j)
            ∧ (placeRole i = 1 → ∀ k ∈ siteCores i, coreOf t k = coreCleared (coreOf s k))
            ∧ ((entryAt s i).role = 3 → (entryAt t i).lanes = 0) ∧ ∃ v, t = complete c stOk 0 v)
          ∧ (op = 3 → t = complete c stOk 0 (modPwr i (fun p => { p with mode := .selfRefresh }) u))
          ∧ (op = 4 → q.waiting = [] → mayBegin u (quadrantOf i) 2 = true →
              t = complete c stOk 0 (restartPatrol (stackOfSite i) (modPwr i (fun p => { p with mode := .on }) u)))
          ∧ (op = 5 → newLanes s pay = 0 →
            let l := 4 * linkDieOfSite i + psPos pay
            let act := activeLanes (linkOf s l).mask (linkOf s l).width
            lanesPowered t l = psMask pay
            ∧ ((linkOf s l).phase ≠ .up ∨ (∀ n ∈ act, bitAt (psMask pay) n = true) →
                ∃ v, t = complete c stOk 0 v ∧ v.links = s.links ∧ OnlyChanges [.pwr] u v)
            ∧ ((linkOf s l).phase = .up → psMask pay ≠ 0 → (∃ n ∈ act, bitAt (psMask pay) n = false) →
                (linkOf t l).phase = .training ∧ (linkOf t l).cmd = some c ∧ (linkOf t l).exempt = true
                ∧ (∀ n, n < 4 → (bitAt (linkOf t l).testSet n = true ↔ n ∈ act ∧ bitAt (psMask pay) n = true))
                ∧ OnlyChanges [.pwr, .links] u t))
          ∧ (op = 6 → q.waiting = [] → mayBegin u (psX pay) 2 = true → (quadOf t (psX pay)).closed = true
            ∧ (∀ j ∈ dieSites, quadrantOf j = psX pay → modeOf s j = .tripped → modeOf t j = .off)
            ∧ (∀ j, quadrantOf j ≠ psX pay ∨ modeOf s j ≠ .tripped → modeOf t j = modeOf s j)
            ∧ ∃ v, t = complete c stOk 0 v ∧ OnlyChanges [.pwr] u v))))
    ∧ (Ok 0x0802 → ready →
      let set := if bitAt (leAt pay 3 1) 0 then none else some (leAt pay 4 4)
      let v := settleBoost u
      exec (.ceilingSet c) s = .next (complete c stOk 0
        (if leAt pay 0 1 = 0 then modPwr (16 * leAt pay 2 1 + leAt pay 1 1) (fun p => { p with ceilHost := set }) v
         else { v with pwr := { v.pwr with ceil := set } })))
    ∧ (let out := powerHeader u ++ (List.range 224).flatMap (powerSiteBytes u)
       Ok 0x0801 → ready → BufferAnswers c (leAt pay 8 8) out.length u →
        ∃ t, exec (.powerStatus c) s = .next (complete c stOk 0 t) ∧ OutputIs c (leAt pay 8 8) out t
      ∧ OnlyChanges [.hostMem, .inProgress] u t)

/-- Power as it is measured and limited. A tick keeps its averages. A compute die's demand is asserted at its limits and
released below 97 % of them, and follows the signals of its quadrant and of the panel, which have limits of their own; a demand
that lasts is reported. A power-on that waits begins when its quadrant allows it, or ends with NO_HEADROOM after 20 ms; a site
whose ramp has ended is on, and its die has started. The estimate of a path is counted against 1.25 times its baseline. -/
def Obligations.PowerIsMeasured : Prop :=
  ∀ (time : Nat) (s : State), Kept s → s.err.armed = [] →
    let u := atTime time s
    let band (was : Bool) (v hi lo : Nat) : Bool := if hi ≤ v then true else if v < lo then false else was
    (∀ r, ∃ t, exec (.powerTick r time) s = .next t ∧ t.pwr.inputMv = r.inputMv ∧ t.pwr.inputMa = r.inputMa
        ∧ t.pwr.auxMw = r.auxMw ∧ t.pwr.tick = u.now / 1000000
        ∧ (∀ n, n < 4 → (quadOf t n).ma = r.quadMa.getD n 0 ∧ (quadOf t n).closed = (quadOf s n).closed)
        ∧ (∀ x, r.sites = [x] → isDieSite (siteNo x.p) = true → sitePowered s (siteNo x.p) = true →
            (∀ n, n < 4 → (pwrOf t (siteNo x.p)).cur.getD n 0 = x.cur.getD n 0)
            ∧ (pwrOf t (siteNo x.p)).branch = x.branch ∧ (pwrOf t (siteNo x.p)).vminLogic = x.vminLogic
            ∧ (pwrOf t (siteNo x.p)).vminArray = x.vminArray)
        ∧ (∀ i, (∀ x ∈ r.sites, siteNo x.p ≠ i) →
            pwrOf t i = { pwrOf s i with demand := tickSignal (pwrOf s i).demand })
        ∧ OnlyChanges [.pwr] u t)
    ∧ (∀ (p : SiteId) logic array, let i := siteNo p
        placeRole i = 1 → sitePowered s i = true → ∃ t, exec (.limiterDemand p logic array time) s = .next t
        ∧ (pwrOf t i).overLogic = band (pwrOf s i).overLogic logic (100 * effCeiling s i) (97 * effCeiling s i)
        ∧ (pwrOf t i).overArray = band (pwrOf s i).overArray array (100 * arrayLimit s i) (97 * arrayLimit s i)
        ∧ (pwrOf t i).demand.on = limiterOn t i ∧ (∀ j, j ≠ i → pwrOf t j = pwrOf s j)
        ∧ t.bays = (settleBoost u).bays ∧ OnlyChanges [.pwr, .bays] u t)
    ∧ (∀ (n : Fin 4) cur, ∃ t, exec (.quadrantLimit n cur time) s = .next t
        ∧ (quadOf t n.val).limit.on = band (quadOf s n.val).limit.on cur 150000 145000
        ∧ (∀ p, p ∈ (quadOf t n.val).peaks ↔
            (p ∈ (quadOf s n.val).peaks ∧ u.now ≤ p.1 + 10000000) ∨ p = (u.now, cur))
        ∧ (∀ i ∈ dieSites, placeRole i = 1 → sitePowered s i = true → (pwrOf t i).demand.on = limiterOn t i)
        ∧ t.bays = (settleBoost u).bays ∧ OnlyChanges [.pwr, .bays] u t)
    ∧ (∀ watts, ∃ t, exec (.panelLimit watts time) s = .next t
        ∧ (let a := min 25000 (s.pwr.ceil.getD 25000); t.pwr.limit.on = band s.pwr.limit.on (100 * watts) (100 * a) (97 * a))
        ∧ (∀ i ∈ dieSites, placeRole i = 1 → sitePowered s i = true → (pwrOf t i).demand.on = limiterOn t i)
        ∧ t.bays = (settleBoost u).bays ∧ OnlyChanges [.pwr, .bays] u t)
    ∧ (∀ (w : LimitUnit), let x := match w with
          | .quadrant n => (quadOf s n.val).limit
          | .panel => s.pwr.limit
          | .die p => (pwrOf s (siteNo p)).demand
        x.on = true → x.since + 1000000 * (100 + 1000 * x.raised) ≤ u.now →
        ∃ t, exec (.limitLong w time) s = .next t
          ∧ Raises (match w with
              | .quadrant n => evPlain 0x080A n.val 0 ((u.now - x.since) / 1000000)
              | .panel => evPlain 0x080A 4 0 ((u.now - x.since) / 1000000)
              | .die p => evSite 0x080A 5 (siteNo p) 0 ((u.now - x.since) / 1000000)) u t
          ∧ (match w with
              | .quadrant n => (quadOf t n.val).limit = { x with raised := x.raised + 1 }
              | .panel => t.pwr.limit = { x with raised := x.raised + 1 }
              | .die p => (pwrOf t (siteNo p)).demand = { x with raised := x.raised + 1 })
          ∧ OnlyChanges [.pwr, .host, .hostMem, .ev, .fw] u t)
    ∧ (∀ (n : Fin 4) w l, (quadOf s n.val).waiting = w :: l →
        (mayBegin u n.val w.inrush = false → exec (.powerOnBegin n time) s = .next u)
        ∧ (mayBegin u n.val w.inrush = true → w.op = 1 → ∃ t, exec (.powerOnBegin n time) s = .next t
          ∧ modeOf t w.site = .ramping ∧ (pwrOf t w.site).acting = some w.cmd ∧ (quadOf t n.val).waiting = l
          ∧ (∀ j, j ≠ w.site → pwrOf t j = pwrOf s j) ∧ OnlyChanges [.pwr, .cool] u t))
    ∧ (∀ (n : Fin 4) w, (quadOf s n.val).waiting.find? (fun x => decide (x.cmd.time + 20000000 ≤ u.now)) = some w →
        ∃ t, exec (.powerOnTimeout n time) s = .next (complete w.cmd stNoHeadroom 0 t)
          ∧ (quadOf t n.val).waiting = (quadOf s n.val).waiting.erase w ∧ OnlyChanges [.pwr] u t)
    ∧ (∀ (p : SiteId) r c, let i := siteNo p
        modeOf s i = .ramping → (pwrOf s i).acting = some c → ∃ t, exec (.siteOnComplete p r time) s = .next t
          ∧ modeOf t i = .on ∧ (pwrOf t i).acting = none ∧ siteInReset t i = false
          ∧ (∀ n, procOfSite i = some n → procRuns t n = true)
          ∧ ((entryAt s i).state ≠ .failed → testReason s i r ≠ 0 →
              (entryAt t i).state = .failed ∧ (entryAt t i).reason = testReason s i r)
          ∧ ∃ v, t = complete c stOk (siteStateCode (entryAt t i).state) v)
    ∧ (∀ (p : SiteId) d (r : PathReading), let i := siteNo p
        siteLive s i = true → hasDomain (placeRole i) d = true →
        let old := (pwrOf s i).paths.getD (domainCode d) pathZero
        let e := (r.vout - r.vavg) * 1000000000000 / (r.cur * baselineOf s i d)
        let isOver := 1250 < e
        let new : PathState := ⟨e, if isOver then old.above + 1 else 0, if isOver then 0 else old.below + 1,
          if old.degraded then decide (isOver ∨ old.below + 1 < 1000) else decide (isOver ∧ 100 ≤ old.above + 1)⟩
        ∃ t, exec (.pathEstimate p d r time) s = .next t
          ∧ (4 * r.cur < ratedMax (placeRole i) d → OnlyChanges [.pwr] u t ∧ pwrOf t i = { pwrOf s i with
              paths := modAt (pwrOf s i).paths (domainCode d) (fun x => { x with ratio := 0 }) })
          ∧ (ratedMax (placeRole i) d ≤ 4 * r.cur →
              pwrOf t i = { pwrOf s i with paths := modAt (pwrOf s i).paths (domainCode d) (fun _ => new) }
              ∧ (new.degraded = old.degraded → OnlyChanges [.pwr] u t)
              ∧ (new.degraded = false → old.degraded = true → Raises (evSite 0x0806 0 i (domainCode d) e) u t))
          ∧ (∀ j, j ≠ i → pwrOf t j = pwrOf s j))

/-- Power as it fails. The input's range is reported; outside the extended range for 1 ms all power is lost, and the cause is
kept. The input switch closes on its three conditions and opens when the presence contact parts. A lost phase is disconnected; a
domain that goes dark, or an eFuse that trips, powers its sites off and fails their dies; a sensor out of range is retired, and
with most of a domain's sensors gone the domain is dark. -/
def Obligations.PowerFails : Prop :=
  ∀ (time : Nat) (s : State), Kept s → s.err.armed = [] →
    let u := atTime time s
    let lost (i reason : Nat) (mode : PwrMode) (t : State) : Prop := modeOf t i = mode
      ∧ ((entryAt s i).state ≠ .absent → (entryAt s i).state ≠ .failed →
          (entryAt t i).state = .failed ∧ (entryAt t i).reason = reason)
    (∀ mv, let r : InputRange := if mv < 46000 then .low else if 60000 < mv then .high else .normal
        r ≠ s.pwr.range → ∃ t, exec (.inputRange mv time) s = .next t ∧ t.pwr.range = r ∧ t.pwr.inputMv = mv
          ∧ Raises (evPlain 0x0807 0 (if r = .low then 0 else if r = .high then 1 else 2) mv) u t
          ∧ OnlyChanges [.pwr, .host, .hostMem, .ev, .fw] u t)
    ∧ (∀ isOver mv, s.pwr.good = true → (if isOver = true then 62000 < mv else mv < 43000) →
        ∃ t, exec (.inputTrip isOver mv time) s = .next t ∧ t.pwr.good = false ∧ t.pwr.inputMv = mv
          ∧ t.boot.tripCause = some (isOver, u.now / 1000000) ∧ t.boot.wear = s.boot.wear ∧ t.bays = [] ∧ t.cores = []
          ∧ t.mem = [] ∧ t.parts = copies 8 partitionZero ∧ t.inProgress = [] ∧ t.hostMem = s.hostMem)
    ∧ (∀ (x : SwitchReadings), s.pwr.switchClosed = false → x.bulk ≤ x.sense + 1000 → x.sense ≤ x.bulk + 1000 →
        50000000 ≤ x.presentNs → x.blade ≤ x.bulk + 1000 → x.bulk ≤ x.blade + 1000 → 46000 ≤ x.blade → x.blade ≤ 60000 →
        exec (.inputSwitchClose x time) s = .next
          { u with pwr := { u.pwr with switchClosed := true, inputMv := x.blade, range := .normal } })
    ∧ (s.pwr.switchClosed = true → ∃ t, exec (.presenceLost time) s = .next t ∧ t.pwr.switchClosed = false
        ∧ t.pwr.good = false ∧ t.boot = s.boot ∧ t.bays = [] ∧ t.cores = [] ∧ t.mem = [] ∧ t.inProgress = []
        ∧ t.hostMem = s.hostMem)
    ∧ (∀ (p : SiteId) d (phase : Fin 16), let i := siteNo p
        let k := domainIndex d
        siteLive s i = true → hasDomain (placeRole i) d = true → bitAt (phaseMask s i k) phase.val = true →
        ∃ t, exec (.phaseLost p d phase time) s = .next t
          ∧ pwrOf t i = { pwrOf s i with
              phases := modAt (pwrOf s i).phases k (fun _ => some (phaseMask s i k - 2 ^ phase.val))
              losses := satInc 0xFFFFFFFF (pwrOf s i).losses }
          ∧ (∀ j, j ≠ i → pwrOf t j = pwrOf s j) ∧ t.bays = (settleBoost u).bays
          ∧ OnlyChanges [.pwr, .bays, .host, .hostMem, .ev, .fw, .err, .bootLog] u t)
    ∧ (∀ (p : SiteId) d mv, let i := siteNo p
        siteLive s i = true → hasDomain (placeRole i) d = true →
        workingPhases s i (domainIndex d) < leastPhases (placeRole i) d
          ∨ (placeRole i = 1 ∧ ((d = .logic ∧ mv < 520) ∨ (d = .array ∧ mv < 670))) →
        ∃ t, exec (.domainDark p d mv time) s = .next t ∧ lost i 10 .dark t ∧ ∀ j, j ≠ i → modeOf t j = modeOf s j)
    ∧ (∀ (p : SiteId) overload peak, let i := siteNo p
        (siteLive s i = true → ∃ t, exec (.siteTrip p overload peak time) s = .next t ∧ lost i 8 .tripped t
          ∧ ∀ j, j ≠ i → modeOf t j = modeOf s j)
        ∧ (siteLive s i = false → trippedNow u i 0x0906 = true → (entryAt s i).reason = 9 →
          ∃ t, exec (.siteTrip p overload peak time) s = .next t ∧ modeOf t i = .tripped ∧ (entryAt t i).state = .failed
            ∧ (entryAt t i).reason = 8))
    ∧ (∀ (n : Fin 4) overload peak, (quadOf s n.val).closed = true → s.pwr.good = true →
        ∃ t, exec (.quadrantTrip n overload peak time) s = .next t ∧ (quadOf t n.val).closed = false
          ∧ (quadOf t n.val).waiting = [] ∧ (∀ i ∈ presentSites s, quadrantOf i = n.val → lost i 8 .tripped t)
          ∧ (∀ i, quadrantOf i ≠ n.val → modeOf t i = modeOf s i))
    ∧ (∀ (p : SiteId) d (x : Fin 64) mv, let i := siteNo p
        let k := domainCode d
        let gone := ((pwrOf s i).retired.filter (fun y => y.1 == k)).length + 1
        siteLive s i = true → hasDomain (placeRole i) d = true → x.val < sensorCount i d → (k, x.val) ∉ (pwrOf s i).retired →
        ∃ t, exec (.sensorRetired p d x mv time) s = .next t
          ∧ (sensorCount i d ≤ 2 * (sensorCount i d - gone) →
              pwrOf t i = { pwrOf s i with retired := (pwrOf s i).retired ++ [(k, x.val)] }
              ∧ OnlyChanges [.pwr, .host, .hostMem, .ev, .fw, .err, .bootLog] u t)
          ∧ (2 * (sensorCount i d - gone) < sensorCount i d → lost i 10 .dark t))

/-! ## Coolant and temperature -/

/-- Coolant. A sample of the flow is kept, and a sensor whose reading lies outside its range is retired. The flow below 20 % of
what is required for 200 samples, or below 0.5 L/min at both sensors for two, stops the panel: its sites go dark. At or above 10
L/min for 5 s the stop is cleared. Ten averages in a row below 85 % and 60 % raise the states low and critical, and ten at or
above 90 % clear them. Sensors that differ for 10 s are reported. The inlet's temperature is kept, and its states rise after
their hold; so does a keystone's strain, and the keystone is good while its strain and its temperature can be read, and failed
otherwise. COOLING_STATUS writes its table. Hot spots. The readings of both diodes are kept, and the higher one governs. A
reading outside the range of a diode, or more than 5 °C from its last one, retires the diode. Two readings in a row at or above
the hard limit power the site off and fail its die with reason 9, or stop the panel at a management die; an average of 100 ms at
or above the warning limit raises the warning. Diodes that differ by more than 4 °C for 1 s are reported. -/
def Obligations.CoolantAndHotSpotsAreWatched : Prop :=
   (∀ (time : Nat) (s : State), Kept s → s.err.armed = [] → s.pwr.good = true →
      let u := atTime time s
      let c := s.cool
      let below (g : Int) (pct watts : Nat) : Bool := decide (g * 2500000 < ((pct * max 250000000 (42000 * watts) : Nat) : Int))
      (∀ dp th : Int,
        (c.dp.retired = false → dp < 0 ∨ 80000 < dp → ∃ t, exec (.flowSample dp th time) s = .next t ∧ t.cool.dp.retired = true)
        ∧ (c.dp.retired = false → c.th.retired = false → 0 ≤ dp → dp ≤ 80000 → 0 ≤ th → th ≤ 80000 →
            (∀ a, c.dp.last = some a → (dp - a).natAbs ≤ 15000) → (∀ a, c.th.last = some a → (th - a).natAbs ≤ 15000) →
          let g := min dp th
          let slow := if below g 20 c.watts then c.slow + 1 else 0
          let dry := if dp < 500 ∧ th < 500 then c.dry + 1 else 0
          ∃ t, exec (.flowSample dp th time) s = .next t ∧ t.cool.dp.last = some dp ∧ t.cool.th.last = some th
            ∧ t.cool.dp.retired = false ∧ t.cool.th.retired = false ∧ t.cool.tick = tickOf u
            ∧ (c.stopped = false → 2 ≤ dry ∨ 200 ≤ slow → t.cool.stopped = true ∧ ∀ i ∈ dieSites, sitePowered t i = false)
            ∧ (c.stopped = false → dry < 2 → slow < 200 →
                t.cool.stopped = false ∧ t.cool.slow = slow ∧ t.cool.dry = dry ∧ OnlyChanges [.cool] u t)
            ∧ (c.stopped = true → t.cool.stopped = true ∧ OnlyChanges [.cool] u t
                ∧ t.cool.flowing = (if 10000 ≤ g then some (c.flowing.getD u.now) else none))))
      ∧ (∀ a, c.stopped = true → c.flowing = some a → a + 5000000000 ≤ u.now →
          ∃ t, exec (.flowStopCleared time) s = .next t ∧ t.cool.stopped = false ∧ t.cool.flowing = none)
      ∧ (∀ r : FlowReading, ∃ t, exec (.flowPeriod r time) s = .next t ∧ t.cool.watts = r.watts ∧ t.cool.dp.avg = r.dp
          ∧ t.cool.th.avg = r.th
          ∧ (c.dp.retired = false → c.th.retired = false →
            let g : Int := min r.dp r.th
            (c.stopped = true → t.cool.low = c.low ∧ t.cool.critical = c.critical ∧ OnlyChanges [.cool] u t)
            ∧ (c.stopped = false →
              (below g 85 r.watts = true → 9 ≤ c.lowRun → t.cool.low = true)
              ∧ (below g 60 r.watts = true → 9 ≤ c.critRun → t.cool.critical = true ∧ t.cool.low = true)
              ∧ (below g 90 r.watts = false → 9 ≤ c.lowClear → t.cool.low = false ∧ t.cool.critical = false))))
      ∧ (∀ a, c.differ = ⟨false, some a⟩ → a + 10000000000 ≤ u.now → ∃ t, exec (.flowDisagree time) s = .next t
          ∧ t.cool = { c with differ := ⟨true, none⟩ } ∧ OnlyChanges [.cool, .host, .hostMem, .ev, .fw, .err, .bootLog] u t)
      ∧ (∀ inlet : Int, ∃ t, exec (.coolantTemp inlet time) s = .next t
          ∧ t.cool.inlet = (if hotLost (hotOf s 1792) then none else some inlet)
          ∧ (∀ a, c.inletStates[1]? = some ⟨false, some a⟩ → a + 10000000000 ≤ u.now → 400 < inlet →
              hotLost (hotOf s 1792) = false → t.cool.inletStates[1]? = some ⟨true, none⟩)
          ∧ t.bays = (settleBoost { u with cool := { c with inlet := t.cool.inlet } }).bays
          ∧ OnlyChanges [.cool, .bays, .host, .hostMem, .ev, .fw] u t)
      ∧ (∀ (p : SiteId), let i := siteNo p
          let h := mapGetD c.strained i heldOff
          let good := !(hotOf s (8 * i)).lost
          placeRole i = 6 → siteAbsent s i = false →
          (∀ x, ∃ t, exec (.strainHigh p (some x) time) s = .next t ∧ mapGetD t.cool.strain i 0 = x ∧ i ∉ t.cool.blind
            ∧ (s.fp.built = true → (entryAt t i).state = if good then .good else .failed)
            ∧ (let v := { u with cool := { c with blind := t.cool.blind } }
               settleKeystone i v = v →
              (500 < x.natAbs → h.raised = false → ∀ a, h.since = some a → a + 1000000000 ≤ u.now →
                mapGetD t.cool.strained i heldOff = ⟨true, none⟩ ∧ Raises (evSite 0x090B 0 i 0 (twos 64 x)) u t)
              ∧ (x.natAbs ≤ 400 → h.raised = true → ∀ a, h.since = some a → a + 1000000000 ≤ u.now →
                mapGetD t.cool.strained i heldOff = ⟨false, none⟩ ∧ Raises (evSite 0x090B 0 i 1 (twos 64 x)) u t)
              ∧ OnlyChanges [.cool, .host, .hostMem, .ev, .fw] u t)
            ∧ OnlyChanges [.cool, .fp, .bootGeneration, .host, .hostMem, .ev, .fw] u t)
          ∧ (∃ t, exec (.strainHigh p none time) s = .next t ∧ t.cool.strain = c.strain ∧ i ∈ t.cool.blind
            ∧ (s.fp.built = true → (entryAt t i).state = .failed)
            ∧ OnlyChanges [.cool, .fp, .bootGeneration, .host, .hostMem, .ev, .fw] u t))
      ∧ ∀ q pay, Accepted 0x0900 q pay s → firstFail (powerChecks 0x0900 q pay (takeCmd q s)) = stOk →
          procHeld s (kingPtc s) = false → procStarts s (kingPtc s) = false → BufferAnswers q (leAt pay 8 8) 10816 (takeCmd q s) →
          ∃ t, exec (.coolingStatus q) s = .next (complete q stOk 0 t)
            ∧ OutputIs q (leAt pay 8 8)
                (coolHeader (takeCmd q s) ++ (List.range 224).flatMap (coolSiteBytes (takeCmd q s))) t
            ∧ OnlyChanges [.hostMem, .inProgress] (takeCmd q s) t)
   ∧ (∀ (h : HotSpot) (time : Nat) (s : State), Kept s → s.err.armed = [] →
      let u := atTime time s
      let k := hotKey h
      let x := hotOf s k
      hotTaken s k = true →
      (∀ (d0 d1 : Int) lim, x.retired = copies 2 false → x.offset = copies 2 0 → x.last.length = 2 → hardLimit k = some lim →
        ∃ t, exec (.diodeSample h d0 d1 time) s = .next t
          ∧ (d0 < -200 ∨ 1500 < d0 ∨ (∃ a, x.last.getD 0 none = some a ∧ 50 < (d0 - a).natAbs) →
              diodeGone (hotOf t k) 0 = true ∧ (hotOf t k).last.getD 0 none = none)
          ∧ (-200 ≤ d0 → d0 ≤ 1500 → -200 ≤ d1 → d1 ≤ 1500 →
              (∀ a, x.last.getD 0 none = some a → (d0 - a).natAbs ≤ 50) →
              (∀ a, x.last.getD 1 none = some a → (d1 - a).natAbs ≤ 50) →
            (hotOf t k).last = [some d0, some d1]
            ∧ (max d0 d1 < lim → (hotOf t k).hard = 0 ∧ OnlyChanges [.cool, .host, .hostMem, .ev, .fw] u t)
            ∧ (lim ≤ max d0 d1 → x.hard = 0 → (hotOf t k).hard = 1 ∧ OnlyChanges [.cool, .host, .hostMem, .ev, .fw] u t)
            ∧ (lim ≤ max d0 d1 → x.hard ≠ 0 →
              (hotRole k = 5 → t.cool.stopped = true)
              ∧ (hotRole k ≠ 5 → modeOf t (k / 8) = .off
                ∧ ((entryAt s (k / 8)).state ≠ .absent → (entryAt s (k / 8)).state ≠ .failed →
                    (entryAt t (k / 8)).state = .failed ∧ (entryAt t (k / 8)).reason = 9)))
            ∧ (∀ warn, warnLimit k = some warn → u.now / 100000000 ≠ x.mean.period → x.mean.n ≠ 0 →
                warn ≤ x.mean.sum / (x.mean.n : Int) → (hotOf t k).warn.raised = true)))
      ∧ (∀ a, x.since = some a → x.episode = false → a + 1000000000 ≤ u.now → ∃ t, exec (.diodeDisagree h time) s = .next t
          ∧ hotOf t k = { x with episode := true, since := none } ∧ (∀ j, j ≠ k → hotOf t j = hotOf s j)
          ∧ OnlyChanges [.cool, .host, .hostMem, .ev, .fw, .err, .bootLog] u t))

/-! ## Errors, wear, injection and management -/

/-- What the commands of errors, wear and injection check of their own, in order; an INJECT that arms checks more besides. -/
def Sys2Proof.errorChecks (op : Nat) (c : Cmd) (pay : List Byte) (s : State) : List (Bool × Nat) :=
  match op with
  | 0x0A00 =>
    let n := leAt pay 4 4
    let st := bufStatus c (leAt pay 0x18 8) (leAt pay 0x10 4) (16 + 64 * n)
    [(decide (pay.length ≠ 32), stBadLength),
      (cmdPart c != 0xFF || decide (1 < leAt pay 0 1) || !zeroAt pay 1 3 || !zeroAt pay 0x14 4 || n == 0
        || decide ((if leAt pay 0 1 = 0 then 262144 else 4096) < n), stBadField), (st != stOk, st)]
  | 0x0A01 =>
    let st := bufStatus c (leAt pay 8 8) (leAt pay 4 4) 17536
    [(decide (pay.length ≠ 16), stBadLength), (cmdPart c != 0xFF || !zeroAt pay 0 4, stBadField), (st != stOk, st)]
  | _ =>
    let j := injectionOf c pay s.now
    [(decide (pay.length ≠ 32), stBadLength), (injBad s j pay, stBadField), (injDenied c j s, stDenied),
      ((injSite j).any (siteAbsent s), stUnitAbsent)]

/-- What the commands of keys and attestation check of their own, in order. -/
def Sys2Proof.keyChecks (op : Nat) (c : Cmd) (pay : List Byte) (s : State) : List (Bool × Nat) :=
  match op with
  | 0x0B00 =>
    let kind := leAt pay 0 1
    let key := bytesAt pay 8 57
    [(decide (pay.length ≠ 72), stBadLength),
      ((kind != 1 && kind != 2) || decide ((if kind = 1 then 0 else 3) < leAt pay 1 1) || decide (1 < leAt pay 2 1)
        || !zeroAt pay 3 5 || !zeroAt pay 0x41 7 || allZero key != bitAt (leAt pay 2 1) 0
        || (!allZero key && !Config.ed448Point key) || cmdPart c != 0xFF, stBadField),
      (kind == 2 && imageArrives s, stBusy)]
  | 0x0B01 =>
    let st := bufStatus c (leAt pay 0x48 8) (leAt pay 0x44 4)
      (320 + (if bitAt (leAt pay 0x40 1) 0 then 96 * s.measure.count else 0))
    [(decide (pay.length ≠ 80), stBadLength), (decide (1 < leAt pay 0x40 1) || !zeroAt pay 0x41 3, stBadField), (st != stOk, st)]
  | _ => [(decide (cmdLen c < 1024), stBadLength)]

/-- Polls, logs, wear and injections. A core's answer to a poll is added to its totals; the second one missing in a row fails
the core. ERROR_LOG_GET writes the records from a number on, WEAR_GET the parts. After each powered hour every score is
multiplied by 2^(−1/168), and the scores are saved. INJECT arms an injection where its site has power, the list has room, and
none is armed at the same target; CANCEL disarms those at a target and says how many; 600 s after they were armed, injections
end. -/
def Obligations.ErrorsAndWear : Prop :=
  (∀ (time : Nat) (s : State), Kept s →
    let u := atTime time s
    (∀ k : CoreId, let n := coreNo k
      let miss (m : Nat) : ErrState := { s.err with missed := mapSet 0 s.err.missed n m }
      polled s n = true →
      (∃ t, exec (.statusPoll k true time) s = .next t ∧ coreOf t n = supervisorRead (coreOf s n) ∧ t.err = miss 0
        ∧ (∀ j, j ≠ n → coreOf t j = coreOf s j) ∧ OnlyChanges [.cores, .err] u t)
      ∧ (mapGetD s.err.missed n 0 = 0 → exec (.statusPoll k false time) s = .next { u with err := miss 1 })
      ∧ (mapGetD s.err.missed n 0 ≠ 0 → ∃ t, exec (.statusPoll k false time) s = .next t
          ∧ mapGetD t.err.missed n 0 = 0
          ∧ bitAt (entryAt t (siteOfCore n)).coreGood.toNat (coreBit n) = false))
    ∧ (3600000000000 * (s.err.steps + 1) ≤ u.now → s.pwr.good = true → ∃ t, exec (.wearDecay time) s = .next t
        ∧ (∀ n, (wearOf t n).score = decayed (wearOf s n).score ∧ (wearOf t n).peak = (wearOf s n).peak
            ∧ (wearOf t n).state = wearNext (wearOf s n).state (decayed (wearOf s n).score)
            ∧ (wearOf t n).life = (wearOf s n).life)
        ∧ t.err.steps = s.err.steps + 1 ∧ t.boot.hours = s.boot.hours + 1 ∧ t.boot.wear = t.err.wear)
    ∧ (∃ t, exec (.injectExpiry time) s = .next t
        ∧ t.err = { s.err with armed := s.err.armed.filter (fun j => decide (u.now < j.armed + 600000000000)) }
        ∧ OnlyChanges [.err, .host, .hostMem, .ev, .fw] u t))
  ∧ ∀ (c : Cmd) (pay : List Byte) (s : State), Kept s →
    let u := takeCmd c s
    let Ok (op : Nat) : Prop := Accepted op c pay s ∧ firstFail (errorChecks op c pay u) = stOk
    (let l := if leAt pay 0 1 = 0 then s.err.log else s.boot.plog
     let out := ((logNumbered l).filter (fun p => decide (leAt pay 8 8 ≤ p.1))).take (leAt pay 4 4)
     Ok 0x0A00 → BufferAnswers c (leAt pay 0x18 8) (16 + (out.flatMap (fun p => logBytes p.1 p.2)).length) u →
      ∃ t oldest, exec (.errorLogGet c) s = .next (complete c stOk 0 t)
        ∧ OutputIs c (leAt pay 0x18 8) (natLe 4 out.length ++ natLe 8 oldest ++ copies 4 0
            ++ out.flatMap (fun p => logBytes p.1 p.2)) t
        ∧ (l.recs ≠ [] → oldest = l.next - l.recs.length ∧ OnlyChanges [.hostMem, .inProgress] u t)
        ∧ OnlyChanges [.hostMem, .inProgress, .freeCtr] u t)
    ∧ (let out := wearHeader u ++ (List.range 273).flatMap (wearBytes u)
       Ok 0x0A01 → BufferAnswers c (leAt pay 8 8) out.length u →
        ∃ t, exec (.wearGet c) s = .next (complete c stOk 0 t) ∧ OutputIs c (leAt pay 8 8) out t
        ∧ OnlyChanges [.hostMem, .inProgress] u t)
    ∧ (Ok 0x0A02 →
      let j := injectionOf c pay u.now
      (leAt pay 2 1 = 0 →
        let st := firstFail [((injSite j).any (fun i => !sitePowered s i), stNotReady), (injFull j s, stNoMemory),
          (s.err.armed.any (sameTarget j), stBusy)]
        (st ≠ stOk → exec (.inject c) s = .next (complete c st 0 u))
        ∧ (st = stOk → exec (.inject c) s = .next
          (complete c stOk 0 { u with err := { u.err with armed := s.err.armed ++ [j] } })))
      ∧ (leAt pay 2 1 = 1 → exec (.injectCancel c) s = .next (complete c stOk (s.err.armed.filter (sameTarget j)).length
          { u with err := { u.err with armed := s.err.armed.filter (fun x => !sameTarget j x) } })))

/-- The management segments, keys and attestation. A segment changes its mode with its event; its counters are reported once a
minute where they have grown. A frame for the panel's own address is answered, a DISCOVER four times a second at most; an alert
is repeated until none of its times is left. MGMT_KEY_SET writes a key and has it measured, and another management key clears
the sender table. ATTEST_QUOTE and CERT_GET write what they sign. -/
def Obligations.ManagementAnswers : Prop :=
  (∀ (g : Segm) (time : Nat) (s : State), s.mgmt.segs.length = 2 →
    let u := atTime time s
    let x := segOf s g
    let frame (body : FrameBody) (a : BitVec 128) : Frame := ⟨true, .own, true, a, body⟩
    let onBoth (bs : List Byte) : List SentFrame :=
      (if segUp s 0 then [⟨.a, bs⟩] else []) ++ (if segUp s 1 then [⟨.b, bs⟩] else [])
    (∀ mode, x.mode ≠ mode → (mode = .plca → s.mgmt.slotId ≠ 31) → s.pwr.good = true →
      ∃ t, exec (.mgmtSegment g mode time) s = .next t ∧ segOf t g = { x with mode := mode }
        ∧ Raises (evPlain 0x0B01 (segNo g) (segModeCode mode) (if s.mgmt.slotId < 31 then s.mgmt.slotId + 1 else 0xFF)) u t
        ∧ OnlyChanges [.mgmt, .host, .hostMem, .ev, .fw] u t)
    ∧ (x.since + 60000000000 ≤ u.now → ∃ t, exec (.mgmtDrops g time) s = .next t
        ∧ (segOf t g).reported = x.drops ∧ (segOf t g).drops = x.drops
        ∧ (segOf t g).since ≤ u.now ∧ u.now < (segOf t g).since + 60000000000
        ∧ (x.drops = x.reported → OnlyChanges [.mgmt] u t)
        ∧ (x.drops ≠ x.reported → ∃ e, e.code = 0x0B02 ∧ e.unit = segNo g
            ∧ e.aux = min 0xFFFF (x.drops.dup - x.reported.dup) ∧ Raises e u t))
    ∧ (x.mode ≠ .down → segmentsServed s = true →
      (∀ a, exec (.neighborSolicitation g (frame (.solicitation (panelAddr s g)) a) time) s = .next
          { u with mgmt := { u.mgmt with sent := s.mgmt.sent ++ [⟨g, addrBytes (panelAddr s g)⟩] } })
      ∧ (∀ a d, jmHeaderOk d = true → jmType d = 1 → jmTarget d = 0 →
        (4 ≤ (lastSecond u.now x.answers).length → exec (.discover g (frame (.udp 5812 255 d) a) time) s = .next u)
        ∧ ((lastSecond u.now x.answers).length < 4 →
          ∃ t, exec (.discover g (frame (.udp 5812 255 d) a) time) s = .next t ∧ t.mgmt.seq = s.mgmt.seq + 1
            ∧ t.mgmt.sent = s.mgmt.sent ++ onBoth (frameBytes u 2 0 0 (discoverBody u))
            ∧ (segOf t g).answers = lastSecond u.now x.answers ++ [u.now] ∧ OnlyChanges [.mgmt] u t)))
    ∧ (∃ t, exec (.alertRepeat time) s = .next t
        ∧ (∀ y, y ∈ t.mgmt.alerts ↔ 0 < y.left ∧ ∃ z ∈ s.mgmt.alerts,
            y = (if z.due ≤ u.now then { z with left := z.left - 1, due := z.due + 100000000 } else z))
        ∧ (∀ z ∈ s.mgmt.alerts, z.due ≤ u.now → ∀ y ∈ onBoth z.bytes, y ∈ t.mgmt.sent)
        ∧ ((∀ z ∈ s.mgmt.alerts, u.now < z.due) → t.mgmt.sent = s.mgmt.sent) ∧ OnlyChanges [.mgmt] u t))
  ∧ ∀ (c : Cmd) (pay : List Byte) (s : State), Kept s →
    let u := takeCmd c s
    let Ok (op : Nat) : Prop := Accepted op c pay s ∧ firstFail (keyChecks op c pay u) = stOk
    (Ok 0x0B00 →
      let key := if leAt pay 2 1 = 1 then [] else bytesAt pay 8 57
      (leAt pay 0 1 = 1 → ∃ t, exec (.mgmtKeySetManagement c) s = .next (complete c stOk 0 t)
        ∧ t.boot.keys = { s.boot.keys with mgmt := key } ∧ t.measure.count = s.measure.count + 1
        ∧ (key ≠ s.boot.keys.mgmt → t.mgmt.senders = [] ∧ t.boot.hwm = [])
        ∧ (key = s.boot.keys.mgmt → t.mgmt = u.mgmt ∧ t.boot.hwm = s.boot.hwm)
        ∧ OnlyChanges [.bootKeys, .bootHwm, .mgmt, .measure, .host, .hostMem, .ev, .fw] u t)
      ∧ (leAt pay 0 1 = 2 → ∃ t, exec (.mgmtKeySetWeight c) s = .next (complete c stOk 0 t)
        ∧ t.boot.keys = { s.boot.keys with weights := s.boot.keys.weights.set (leAt pay 1 1) key }
        ∧ t.measure.count = s.measure.count + 1 ∧ OnlyChanges [.bootKeys, .measure, .host, .hostMem, .ev, .fw] u t))
    ∧ (let out := quoteBytes u pay ++ (if bitAt (leAt pay 0x40 1) 0 then s.measure.entries.flatten else [])
       Ok 0x0B01 → BufferAnswers c (leAt pay 0x48 8) out.length u →
        ∃ t, exec (.attestQuote c) s = .next (complete c stOk 0 t) ∧ OutputIs c (leAt pay 0x48 8) out t
        ∧ OnlyChanges [.hostMem, .inProgress] u t)
    ∧ (let out := certBytes u 0 0 ++ certBytes u 0 1 ++ certBytes u 1 0 ++ certBytes u 1 1
       Ok 0x0B02 → isMbData c = false → BufferAnswers c (cmdAddr c) out.length u →
        ∃ t, exec (.certGet c) s = .next (complete c stOk 0 t) ∧ OutputIs c (cmdAddr c) out t
        ∧ OnlyChanges [.hostMem, .inProgress] u t)

/-! ## The commands' own checks -/

/-- What LOAD_REPORT_GET, PARTITION and memory commands, and FABRIC_MAP_GET check of their own. -/
def Sys2Proof.fabricChecks (op : Nat) (c : Cmd) (pay : List Byte) (s : State) : List (Bool × Nat) :=
  if op = 0x020A then [(decide (cmdLen c < 512), stBadLength)]
  else if op = 0x0306 then [(decide (pay.length ≠ 16), stBadLength), (decide (leAt pay 4 4 < 68160), stBadLength),
    (decide (15 < leAt pay 0 1) || !zeroAt pay 1 3, stBadField)]
  else partitionChecks op pay s

/-- The opcodes of Table 15-16 whose own checks stand in one list, with their rows: all but the commands of bays, which find
their bay first, and PREPARE_REMOVAL, which checks nothing of its own. -/
def Sys2Proof.ownRows : List (Nat × (Cmd → Instr) × (Nat → Cmd → List Byte → State → List (Bool × Nat))) :=
  [(0x0001, .identify, hostChecks), (0x0002, .version, hostChecks), (0x0003, .queueCreate, hostChecks),
   (0x0004, .queueDelete, hostChecks), (0x0005, .eventQueueSet, hostChecks), (0x0005, .eventQueueClear, hostChecks),
   (0x0006, .eventAck, hostChecks), (0x0007, .hostWindowSet, hostChecks), (0x0007, .hostWindowClear, hostChecks),
   (0x0008, .biasSet, hostChecks), (0x0009, .tokenSend, hostChecks),
   (0x0100, .floorplanGet, planChecks), (0x0101, .siteFence, planChecks), (0x0102, .siteUnfence, planChecks),
   (0x0102, .siteUnfenceDefault, planChecks), (0x0103, .siteRetest, planChecks),
   (0x020A, .loadReportGet, fabricChecks),
   (0x0300, .partitionCreate, fabricChecks), (0x0301, .partitionDestroy, fabricChecks), (0x0302, .partitionAdd, fabricChecks),
   (0x0303, .partitionRemove, fabricChecks), (0x0304, .windowSet, fabricChecks), (0x0304, .windowClear, fabricChecks),
   (0x0305, .memScrubSet, fabricChecks), (0x0306, .fabricMapGet, fabricChecks),
   (0x0400, .embTableCreate, embeddingChecks), (0x0401, .embTableDestroy, embeddingChecks),
   (0x0402, .embBatchOpen, embeddingChecks), (0x0403, .embBatchClose, embeddingChecks),
   (0x0404, .embRebuildStart, embeddingChecks), (0x0405, .embRebuildPause, embeddingChecks),
   (0x0405, .embRebuildResume, embeddingChecks), (0x0405, .embRebuildShare, embeddingChecks),
   (0x0405, .embRebuildAbort, embeddingChecks), (0x0406, .embCommit, embeddingChecks), (0x0407, .embTableStatus, embeddingChecks)]
  ++ ([(0x0500, .wstoreInstallBegin), (0x0501, .wstoreInstallEnd), (0x0502, .wstoreWrite), (0x0503, .wstoreStatus),
       (0x0504, .wsetStage), (0x0505, .wsetSwitch), (0x0506, .wsetDiscard), (0x0506, .wsetDiscardCurrent),
       (0x0507, .wsetBatchOpen), (0x0508, .wsetBatchClose), (0x0509, .wsetGet), (0x050A, .purlinSet), (0x050B, .purlinSend)] :
        List (Nat × (Cmd → Instr))).map (fun x => (x.1, x.2, fun op _ pay s => storeChecks op pay s))
  ++ ([(0x0600, .linkPanelIdSet), (0x0601, .partitionLinkSet), (0x0602, .rankTableSet), (0x0603, .transitSet),
       (0x0604, .linkCtrl), (0x0605, .linkStatus)] :
        List (Nat × (Cmd → Instr))).map (fun x => (x.1, x.2, fun op _ pay s => linkChecks op pay s))
  ++ [(0x0700, .fwBundleStage, firmwareChecks), (0x0701, .fwBundleApply, firmwareChecks), (0x0702, .fwStatus, firmwareChecks),
   (0x0703, .fwProcRestart, firmwareChecks), (0x0704, .resetCore, firmwareChecks), (0x0704, .resetDie, firmwareChecks),
   (0x0704, .resetPartition, firmwareChecks), (0x0704, .resetPanelWarm, firmwareChecks),
   (0x0704, .resetPanelCold, firmwareChecks),
   (0x0800, .siteOn, powerChecks), (0x0800, .siteOff, powerChecks), (0x0800, .selfRefreshEnter, powerChecks),
   (0x0800, .selfRefreshExit, powerChecks), (0x0800, .lanes, powerChecks), (0x0800, .quadrantOn, powerChecks),
   (0x0801, .powerStatus, powerChecks), (0x0802, .ceilingSet, powerChecks), (0x0900, .coolingStatus, powerChecks),
   (0x0A00, .errorLogGet, errorChecks), (0x0A01, .wearGet, errorChecks), (0x0A02, .inject, errorChecks),
   (0x0A02, .injectCancel, errorChecks), (0x0B00, .mgmtKeySetManagement, keyChecks), (0x0B00, .mgmtKeySetWeight, keyChecks),
   (0x0B01, .attestQuote, keyChecks), (0x0B02, .certGet, keyChecks)]

/-- A command that firmware takes and that fails a common check completes with the status of the first check that fails, and
nothing else happens: for every Jexeri command of the table. A command's own checks come after the common ones and have an
order: the first that fails gives the status, and the command does nothing else. -/
def Obligations.FirstFailedCheckDecides : Prop :=
   (∀ (i : Instr) (op : Nat) (c : Cmd) (s : State), jexeri i = some (op, c) → cmdOp c = op → canTake c s = true →
      let u := takeCmd c s
      let r := commonChecks c u
      (r.1 ≠ stOk → exec i s = .next (complete c r.1 0 u))
        ∧ (∀ k, opInfo op = some k →
          let p := fetchPayload c k u
          (versionOk c u = false → r.1 = stVersionRefused)
          ∧ (versionOk c u = true → entryOk c = false → r.1 = stBadField)
          ∧ (versionOk c u = true → entryOk c = true → bindingStatus c k u ≠ stOk → r.1 = bindingStatus c k u)
          ∧ (versionOk c u = true → entryOk c = true → bindingStatus c k u = stOk → readyOk c u = false → r.1 = stNotReady)
          ∧ (versionOk c u = true → entryOk c = true → bindingStatus c k u = stOk → readyOk c u = true →
              (formStatus c k ≠ stOk → r.1 = formStatus c k)
              ∧ (formStatus c k = stOk → p.1 ≠ stOk → r.1 = p.1)
              ∧ (formStatus c k = stOk → p.1 = stOk → partOk c k p.2 = false → r.1 = stBadField))))
   ∧ (∀ (c : Cmd) (s : State), opInfo (cmdOp c) = none → runAny c (takeCmd c s) = complete c stBadOpcode 0 (takeCmd c s))
   ∧ (∀ (op : Nat) (row : Cmd → Instr) (checks : Nat → Cmd → List Byte → State → List (Bool × Nat)) (c : Cmd)
      (pay : List Byte) (s : State), (op, row, checks) ∈ ownRows → Accepted op c pay s →
      let u := takeCmd c s
      let st := firstFail (checks op c pay u)
      st ≠ stOk → exec (row c) s = .next (complete c st 0 u))
end

