-- ==== Sys2Proof/Laws/Bytes.lean ====
section
/-! SUPPORT. The lengths of byte fields, and what reads a field back. -/

namespace Sys2Proof.Laws

open Machine

@[simp] theorem natLe_length (n v : Nat) : (natLe n v).length = n := by
  induction n generalizing v with
  | zero => rfl
  | succ n ih => simp [natLe, ih]

@[simp] theorem copies_length {α : Type} (n : Nat) (a : α) : (copies n a).length = n := List.length_replicate

theorem leNat_natLe (n v : Nat) : leNat (natLe n v) = v % 256 ^ n := by
  induction n generalizing v with
  | zero => simp [natLe, leNat, Nat.mod_one]
  | succ n ih =>
    have e : 256 ^ (n + 1) = 256 * 256 ^ n := by rw [pow_succ, Nat.mul_comm]
    simp only [natLe, leNat, ih, BitVec.toNat_ofNat, e, Nat.mod_mul]

end Sys2Proof.Laws
end

