-- ==== Sys2Proof/Laws/Maps.lean ====
section
/-! SUPPORT. The laws of sparse maps and of byte memories: what a read after a write gives, and that every operation keeps
the canonical form. -/

namespace Sys2Proof.Laws

open Machine

variable {α : Type}

/-! ## Reading what was put -/

@[simp] theorem mapGet?_nil (k : Nat) : mapGet? ([] : List (Nat × α)) k = none := rfl

@[simp] theorem mapGet?_mapPut_same (m : List (Nat × α)) (k : Nat) (v : α) : mapGet? (mapPut m k v) k = some v := by
  induction m with
  | nil => simp [mapPut, mapGet?]
  | cons p m ih =>
    obtain ⟨j, w⟩ := p
    simp only [mapPut]
    split
    · simp [mapGet?]
    · split
      · simp [mapGet?]
      · rename_i h1 h2
        have : ¬ j = k := fun e => h2 e.symm
        simp [mapGet?, this, ih]

theorem mapGet?_mapPut_ne (m : List (Nat × α)) {k j : Nat} (v : α) (h : j ≠ k) :
    mapGet? (mapPut m k v) j = mapGet? m j := by
  induction m with
  | nil => simp [mapPut, mapGet?, h.symm]
  | cons p m ih =>
    obtain ⟨i, w⟩ := p
    simp only [mapPut]
    split
    · simp [mapGet?, h.symm]
    · split
      · rename_i h1 h2
        subst h2
        simp [mapGet?, h.symm]
      · simp [mapGet?, ih]

/-- The first key of a map lies above a bound, and so do all the others. -/
def above (n : Nat) : List (Nat × α) → Prop
  | [] => True
  | (j, _) :: _ => n < j

theorem keysRise_cons (j : Nat) (w : α) (m : List (Nat × α)) :
    keysRise ((j, w) :: m) = true ↔ above j m ∧ keysRise m = true := by
  cases m with
  | nil => simp [keysRise, above]
  | cons p m => obtain ⟨i, v⟩ := p; simp [keysRise, above]

theorem above_mapPut {n : Nat} (m : List (Nat × α)) (k : Nat) (v : α) (h : above n m) (hk : n < k) :
    above n (mapPut m k v) := by
  cases m with
  | nil => simpa [mapPut, above] using hk
  | cons p m =>
    obtain ⟨i, w⟩ := p
    simp only [mapPut]
    split
    · simpa [above] using hk
    · split
      · simpa [above] using hk
      · simpa [above] using h

theorem keysRise_mapPut (m : List (Nat × α)) (k : Nat) (v : α) (h : keysRise m = true) :
    keysRise (mapPut m k v) = true := by
  induction m with
  | nil => simp [mapPut, keysRise]
  | cons p m ih =>
    obtain ⟨j, w⟩ := p
    rw [keysRise_cons] at h
    simp only [mapPut]
    split
    · rename_i hk
      rw [keysRise_cons, keysRise_cons]
      exact ⟨hk, h⟩
    · split
      · rename_i _ hk
        subst hk
        rw [keysRise_cons]
        exact h
      · rename_i h1 h2
        rw [keysRise_cons]
        exact ⟨above_mapPut m k v h.1 (by omega), ih h.2⟩

theorem above_of_lt {n j : Nat} (m : List (Nat × α)) (hj : n < j) (h : above j m) : above n m := by
  cases m with
  | nil => trivial
  | cons p m => obtain ⟨i, w⟩ := p; simp only [above] at *; omega

theorem above_mapDel {n : Nat} (m : List (Nat × α)) (k : Nat) (hr : keysRise m = true) (h : above n m) :
    above n (mapDel m k) := by
  induction m with
  | nil => trivial
  | cons p m ih =>
    obtain ⟨j, w⟩ := p
    rw [keysRise_cons] at hr
    simp only [mapDel]
    split
    · exact ih hr.2 (above_of_lt m h hr.1)
    · exact h

theorem keysRise_mapDel (m : List (Nat × α)) (k : Nat) (h : keysRise m = true) : keysRise (mapDel m k) = true := by
  induction m with
  | nil => rfl
  | cons p m ih =>
    obtain ⟨j, w⟩ := p
    rw [keysRise_cons] at h
    simp only [mapDel]
    split
    · exact ih h.2
    · rw [keysRise_cons]
      exact ⟨above_mapDel m k h.2 h.1, ih h.2⟩

theorem mapGet?_above {n : Nat} (m : List (Nat × α)) (h : keysRise m = true) (ha : above n m) :
    mapGet? m n = none := by
  induction m with
  | nil => rfl
  | cons p m ih =>
    obtain ⟨j, w⟩ := p
    rw [keysRise_cons] at h
    simp only [above] at ha
    have hne : ¬ j = n := by omega
    simp [mapGet?, hne, ih h.2 (above_of_lt m ha h.1)]

@[simp] theorem mapGet?_mapDel_same (m : List (Nat × α)) (k : Nat) : mapGet? (mapDel m k) k = none := by
  induction m with
  | nil => rfl
  | cons p m ih =>
    obtain ⟨j, w⟩ := p
    simp only [mapDel]
    split
    · exact ih
    · rename_i e
      simp [mapGet?, e, ih]

theorem mapGet?_mapDel_ne (m : List (Nat × α)) {k j : Nat} (h : j ≠ k) : mapGet? (mapDel m k) j = mapGet? m j := by
  induction m with
  | nil => rfl
  | cons p m ih =>
    obtain ⟨i, w⟩ := p
    simp only [mapDel]
    split
    · rename_i e
      subst e
      simp [mapGet?, h.symm, ih]
    · simp [mapGet?, ih]

@[simp] theorem mapGetD_mapSet_same [DecidableEq α] (d : α) (m : List (Nat × α)) (k : Nat) (v : α) :
    mapGetD (mapSet d m k v) k d = v := by
  unfold mapSet mapGetD
  split
  · rename_i e
    rw [mapGet?_mapDel_same m k]
    exact e.symm
  · simp

theorem mapGetD_mapSet_ne [DecidableEq α] (d : α) (m : List (Nat × α)) {k j : Nat} (v e : α) (h : j ≠ k) :
    mapGetD (mapSet d m k v) j e = mapGetD m j e := by
  unfold mapSet mapGetD
  split
  · rw [mapGet?_mapDel_ne m h]
  · rw [mapGet?_mapPut_ne m v h]

/-! ## The canonical form -/

theorem mem_mapPut {m : List (Nat × α)} {k : Nat} {v : α} {p : Nat × α} (h : p ∈ mapPut m k v) :
    p ∈ m ∨ p = (k, v) := by
  induction m with
  | nil => exact Or.inr (by simp [mapPut] at h; exact h)
  | cons q m ih =>
    obtain ⟨j, w⟩ := q
    simp only [mapPut] at h
    split at h
    · simp only [List.mem_cons] at *; tauto
    · split at h
      · simp only [List.mem_cons] at *; tauto
      · simp only [List.mem_cons] at *
        rcases h with h | h
        · exact Or.inl (Or.inl h)
        · rcases ih h with h | h
          · exact Or.inl (Or.inr h)
          · exact Or.inr h

theorem mem_mapDel {m : List (Nat × α)} {k : Nat} {p : Nat × α} (h : p ∈ mapDel m k) : p ∈ m := by
  induction m with
  | nil => simp [mapDel] at h
  | cons q m ih =>
    obtain ⟨j, w⟩ := q
    simp only [mapDel] at h
    split at h
    · exact List.mem_cons_of_mem _ (ih h)
    · simp only [List.mem_cons] at *
      rcases h with h | h
      · exact Or.inl h
      · exact Or.inr (ih h)

theorem mapCanonical_mapSet [DecidableEq α] (d : α) (m : List (Nat × α)) (k : Nat) (v : α)
    (h : mapCanonical d m = true) : mapCanonical d (mapSet d m k v) = true := by
  simp only [mapCanonical, Bool.and_eq_true, List.all_eq_true, decide_eq_true_eq] at *
  unfold mapSet
  split
  · exact ⟨keysRise_mapDel m k h.1, fun p hp => h.2 p (mem_mapDel hp)⟩
  · rename_i hv
    refine ⟨keysRise_mapPut m k v h.1, fun p hp => ?_⟩
    rcases mem_mapPut hp with hp | rfl
    · exact h.2 p hp
    · exact hv

theorem keysRise_filter (m : List (Nat × α)) (f : Nat × α → Bool) (h : keysRise m = true) :
    keysRise (m.filter f) = true := by
  have key : ∀ (m : List (Nat × α)) (n : Nat), keysRise m = true → above n m →
      keysRise (m.filter f) = true ∧ above n (m.filter f) := by
    intro m
    induction m with
    | nil => intro n _ _; exact ⟨rfl, trivial⟩
    | cons p m ih =>
      intro n h ha
      obtain ⟨j, w⟩ := p
      rw [keysRise_cons] at h
      simp only [above] at ha
      by_cases hp : f (j, w) = true
      · have := ih j h.2 h.1
        rw [List.filter_cons_of_pos hp, keysRise_cons]
        exact ⟨⟨this.2, this.1⟩, ha⟩
      · rw [List.filter_cons_of_neg hp]
        exact ih n h.2 (above_of_lt m ha h.1)
  cases m with
  | nil => rfl
  | cons p m =>
    obtain ⟨j, w⟩ := p
    rw [keysRise_cons] at h
    have := key m j h.2 h.1
    by_cases hp : f (j, w) = true
    · rw [List.filter_cons_of_pos hp, keysRise_cons]
      exact ⟨this.2, this.1⟩
    · rw [List.filter_cons_of_neg hp]
      exact this.1

/-! ## Byte memories -/

/-- Writing a byte keeps the canonical form. -/
theorem memWf_memPut (m : List Host.Cell) (a : Nat) (b : Byte) (h : memWf m = true) : memWf (memPut m a b) = true :=
  mapCanonical_mapSet 0 m a b h

/-- Writing bytes keeps the canonical form. -/
theorem memWf_memWrite (m : List Host.Cell) (a : Nat) (bs : List Byte) (h : memWf m = true) :
    memWf (memWrite m a bs) = true := by
  induction bs generalizing m a with
  | nil => exact h
  | cons b bs ih => exact ih _ _ (memWf_memPut m a b h)

/-- Clearing a range keeps the canonical form. -/
theorem memWf_memClear (m : List Host.Cell) (a n : Nat) (h : memWf m = true) : memWf (memClear m a n) = true := by
  simp only [memWf, memClear, mapCanonical, mapDelRange, Bool.and_eq_true, List.all_eq_true, decide_eq_true_eq] at *
  exact ⟨keysRise_filter m _ h.1, fun p hp => h.2 p (List.mem_of_mem_filter hp)⟩

theorem keysRise_of_memWf {m : List Host.Cell} (h : memWf m = true) : keysRise m = true := by
  simp only [memWf, mapCanonical, Bool.and_eq_true] at h
  exact h.1

/-- A byte written reads back. -/
@[simp] theorem memByte_memPut_same (m : List Host.Cell) (a : Nat) (b : Byte) :
    memByte (memPut m a b) a = b := mapGetD_mapSet_same 0 m a b

/-- A byte written leaves every other byte. -/
theorem memByte_memPut_ne (m : List Host.Cell) {a c : Nat} (b : Byte) (h : c ≠ a) :
    memByte (memPut m a b) c = memByte m c := mapGetD_mapSet_ne 0 m b 0 h

/-- Bytes written leave every byte outside them. -/
theorem memByte_memWrite_out (m : List Host.Cell) (a : Nat) (bs : List Byte) {c : Nat}
    (h : c < a ∨ a + bs.length ≤ c) : memByte (memWrite m a bs) c = memByte m c := by
  induction bs generalizing m a with
  | nil => rfl
  | cons b bs ih =>
    simp only [List.length_cons] at h
    rw [memWrite, ih _ _ (by omega), memByte_memPut_ne _ _ (by omega)]

/-- Bytes written read back. -/
@[simp] theorem memRead_memWrite (m : List Host.Cell) (a : Nat) (bs : List Byte) :
    memRead (memWrite m a bs) a bs.length = bs := by
  induction bs generalizing m a with
  | nil => rfl
  | cons b bs ih =>
    simp only [List.length_cons, memRead, memWrite]
    rw [memByte_memWrite_out _ _ _ (by omega), memByte_memPut_same, ih]

theorem keysRise_mapSet [DecidableEq α] (d : α) (m : List (Nat × α)) (k : Nat) (v : α) (h : keysRise m = true) :
    keysRise (mapSet d m k v) = true := by
  unfold mapSet
  split
  · exact keysRise_mapDel m k h
  · exact keysRise_mapPut m k v h

theorem keysRise_of_keys {β : Type} {m : List (Nat × α)} {n : List (Nat × β)}
    (e : n.map Prod.fst = m.map Prod.fst) (h : keysRise m = true) : keysRise n = true := by
  induction m generalizing n with
  | nil =>
    cases n with
    | nil => rfl
    | cons _ _ => cases e
  | cons p m ih =>
    cases n with
    | nil => cases e
    | cons q n =>
      simp only [List.map_cons, List.cons.injEq] at e
      rw [keysRise_cons] at h
      rw [keysRise_cons]
      refine ⟨?_, ih e.2 h.2⟩
      cases n with
      | nil => trivial
      | cons r n =>
        cases m with
        | nil => cases e.2
        | cons x m =>
          simp only [List.map_cons, List.cons.injEq] at e
          simp only [above, e.1, e.2.1] at h ⊢
          exact h.1

theorem keysRise_mapDelRange (m : List (Nat × α)) (lo n : Nat) (h : keysRise m = true) :
    keysRise (mapDelRange m lo n) = true := keysRise_filter m _ h

theorem memWf_nil : memWf [] = true := rfl

end Sys2Proof.Laws
end

