-- ==== Sys2Proof/Laws/Frame.lean ====
section
/-! SUPPORT. What an operation leaves alone: the parts of the state, the relation `Within`, and how it composes. One lemma
`within_<name>` for each operation of the model says which parts it may change, that it keeps every byte memory in its
canonical form and the tables of sites, partitions and quadrants whole. -/

namespace Sys2Proof.Laws

open Machine

theorem same_refl (p : StatePart) (s : State) : samePart p s s := by cases p <;> first | rfl | exact ⟨rfl, rfl⟩

theorem same_trans {p : StatePart} {s t u : State} (h : samePart p s t) (k : samePart p t u) : samePart p s u := by
  cases p <;> first | exact Eq.trans k h | exact ⟨k.1.trans h.1, k.2.trans h.2⟩ | exact Nat.le_trans h k

/-- `t` differs from `s` at most in the parts of `S`, and keeps `Kept`. -/
structure Within (S : List StatePart) (s t : State) : Prop where
  frame : ∀ p, p ∉ S → samePart p s t
  kept : Kept s → Kept t

/-- Every part of one list stands in another. -/
def coveredBy (A B : List StatePart) : Bool := A.all (fun p => decide (p ∈ B))

/-- Every part of a list stands in `S`. -/
def Covers (S A : List StatePart) : Prop := ∀ p, p ∈ A → p ∈ S

theorem Covers.mono {S A B : List StatePart} (h : Covers S B) (k : coveredBy A B = true) : Covers S A := by
  intro p hp
  simp only [coveredBy, List.all_eq_true, decide_eq_true_eq] at k
  exact h p (k p hp)

theorem Covers.part {S A : List StatePart} (h : Covers S A) {p : StatePart} (k : p ∈ A) : p ∈ S := h p k

theorem Covers.self (A : List StatePart) : Covers A A := fun _ h => h

theorem Within.refl (S : List StatePart) (s : State) : Within S s s :=
  ⟨fun p _ => same_refl p s, fun h => h⟩

theorem Within.trans {S : List StatePart} {s t u : State} (h : Within S s t) (k : Within S t u) : Within S s u :=
  ⟨fun p hp => same_trans (h.frame p hp) (k.frame p hp), fun m => k.kept (h.kept m)⟩

/-- A record update of a state. -/
theorem Within.upd {S : List StatePart} {s0 s : State}
    {f_pending f_freeCtr f_now f_fuses f_boot f_fp f_host f_inProgress f_mgmt f_measure f_ev f_parts f_pwr f_fw f_err f_cool f_install f_installs f_fab f_hbms f_bufs f_engines f_links f_mem f_bays f_cores f_xings f_hostMem f_hostFail}
    (_ : f_pending = s.pending) (h : Within S s0 s)
    (hp : ∀ p, p ∈ S ∨ samePart p s ⟨f_pending, f_freeCtr, f_now, f_fuses, f_boot, f_fp, f_host, f_inProgress, f_mgmt, f_measure, f_ev, f_parts, f_pwr, f_fw, f_err, f_cool, f_install, f_installs, f_fab, f_hbms, f_bufs, f_engines, f_links, f_mem, f_bays, f_cores, f_xings, f_hostMem, f_hostFail⟩)
    (hm : Kept s → Kept ⟨f_pending, f_freeCtr, f_now, f_fuses, f_boot, f_fp, f_host, f_inProgress, f_mgmt, f_measure, f_ev, f_parts, f_pwr, f_fw, f_err, f_cool, f_install, f_installs, f_fab, f_hbms, f_bufs, f_engines, f_links, f_mem, f_bays, f_cores, f_xings, f_hostMem, f_hostFail⟩) :
    Within S s0 ⟨f_pending, f_freeCtr, f_now, f_fuses, f_boot, f_fp, f_host, f_inProgress, f_mgmt, f_measure, f_ev, f_parts, f_pwr, f_fw, f_err, f_cool, f_install, f_installs, f_fab, f_hbms, f_bufs, f_engines, f_links, f_mem, f_bays, f_cores, f_xings, f_hostMem, f_hostFail⟩ :=
  ⟨fun p hn => same_trans (h.frame p hn) ((hp p).resolve_left hn), fun m => hm (h.kept m)⟩

/-- What a meaning answers, where it answers a next state. -/
structure OutWithin (S : List StatePart) (s0 : State) (o : Out) : Prop where
  next_within : ∀ t, o = .next t → Within S s0 t

theorem OutWithin.next {S : List StatePart} {s0 s : State} (h : Within S s0 s) : OutWithin S s0 (.next s) :=
  ⟨fun t e => by cases e; exact h⟩

theorem OutWithin.fault (S : List StatePart) (s0 : State) (f : Fault) : OutWithin S s0 (.fault f) :=
  ⟨fun t e => by cases e⟩

theorem Within.ite {S : List StatePart} {s0 : State} {c : Prop} [Decidable c] {a b : State} (ha : Within S s0 a)
    (hb : Within S s0 b) : Within S s0 (if c then a else b) := by
  split
  · exact ha
  · exact hb

theorem OutWithin.ite {S : List StatePart} {s0 : State} {c : Prop} [Decidable c] {a b : Out} (ha : OutWithin S s0 a)
    (hb : OutWithin S s0 b) : OutWithin S s0 (if c then a else b) := by
  split
  · exact ha
  · exact hb

/-- What an operation gives that may not be due, where it gives a state. -/
structure OptWithin (S : List StatePart) (s0 : State) (o : Option State) : Prop where
  get : ∀ {t}, o = some t → Within S s0 t

theorem OptWithin.some {S : List StatePart} {s0 s : State} (h : Within S s0 s) : OptWithin S s0 (some s) :=
  ⟨fun e => by cases e; exact h⟩

theorem OptWithin.none (S : List StatePart) (s0 : State) : OptWithin S s0 none := ⟨fun e => by cases e⟩

theorem OptWithin.ite {S : List StatePart} {s0 : State} {c : Prop} [Decidable c] {a b : Option State}
    (ha : OptWithin S s0 a) (hb : OptWithin S s0 b) : OptWithin S s0 (if c then a else b) := by
  split
  · exact ha
  · exact hb

theorem OptWithin.getD {S : List StatePart} {s0 s : State} {o : Option State} (h : OptWithin S s0 o)
    (hs : Within S s0 s) : Within S s0 (o.getD s) := by
  cases o with
  | none => exact hs
  | some t => exact h.get rfl

theorem OptWithin.mapOf {α : Type} {S : List StatePart} {s0 : State} {o : Option α} {f : α → State}
    (hf : ∀ a, Within S s0 (f a)) : OptWithin S s0 (o.map f) := by
  cases o with
  | none => exact OptWithin.none _ _
  | some a => exact OptWithin.some (hf a)

/-- The same for a state beside something else. -/
structure OptPairWithin {β : Type} (S : List StatePart) (s0 : State) (o : Option (β × State)) : Prop where
  get : ∀ {b t}, o = some (b, t) → Within S s0 t

theorem OptPairWithin.some {β : Type} {S : List StatePart} {s0 s : State} {b : β} (h : Within S s0 s) :
    OptPairWithin S s0 (some (b, s)) :=
  ⟨fun e => by cases e; exact h⟩

theorem OptPairWithin.none {β : Type} (S : List StatePart) (s0 : State) : OptPairWithin S s0 (none : Option (β × State)) :=
  ⟨fun e => by cases e⟩

theorem OptPairWithin.ite {β : Type} {S : List StatePart} {s0 : State} {c : Prop} [Decidable c] {a b : Option (β × State)}
    (ha : OptPairWithin S s0 a) (hb : OptPairWithin S s0 b) : OptPairWithin S s0 (if c then a else b) := by
  split
  · exact ha
  · exact hb

theorem OptPairWithin.map {β : Type} {S : List StatePart} {s0 : State} {o : Option (β × State)} {f : β × State → State}
    (h : OptPairWithin S s0 o) (hf : ∀ r, Within S s0 r.2 → Within S s0 (f r)) : OptWithin S s0 (o.map f) := by
  cases o with
  | none => exact OptWithin.none _ _
  | some r => exact OptWithin.some (hf r (h.get rfl))

/-- A fold over states. -/
theorem Within.foldl {α : Type} {S : List StatePart} {s0 : State} (f : State → α → State) (l : List α) {s : State}
    (hf : ∀ s a, Within S s0 s → Within S s0 (f s a)) (h : Within S s0 s) : Within S s0 (l.foldl f s) := by
  induction l generalizing s with
  | nil => exact h
  | cons a l ih => exact ih (hf s a h)

/-- A fold that carries a state beside something else. -/
theorem Within.foldl_snd {α β : Type} {S : List StatePart} {s0 : State} (f : β × State → α → β × State) (l : List α)
    {r : β × State} (hf : ∀ r a, Within S s0 r.2 → Within S s0 (f r a).2) (h : Within S s0 r.2) :
    Within S s0 (l.foldl f r).2 := by
  induction l generalizing r with
  | nil => exact h
  | cons a l ih => exact ih (hf r a h)

/-- A fold that carries a state behind three others. -/
theorem Within.foldl_fourth {α β γ δ : Type} {S : List StatePart} {s0 : State}
    (f : β × γ × δ × State → α → β × γ × δ × State) (l : List α) {r : β × γ × δ × State}
    (hf : ∀ r a, Within S s0 r.2.2.2 → Within S s0 (f r a).2.2.2) (h : Within S s0 r.2.2.2) :
    Within S s0 (l.foldl f r).2.2.2 := by
  induction l generalizing r with
  | nil => exact h
  | cons a l ih => exact ih (hf r a h)

/-- A fold that carries a state behind two others. -/
theorem Within.foldl_third {α β γ : Type} {S : List StatePart} {s0 : State}
    (f : β × γ × State → α → β × γ × State) (l : List α) {r : β × γ × State}
    (hf : ∀ r a, Within S s0 r.2.2 → Within S s0 (f r a).2.2) (h : Within S s0 r.2.2) :
    Within S s0 (l.foldl f r).2.2 := by
  induction l generalizing r with
  | nil => exact h
  | cons a l ih => exact ih (hf r a h)

/-- The same with the state first. -/
theorem Within.foldl_fst {α β : Type} {S : List StatePart} {s0 : State} (f : State × β → α → State × β) (l : List α)
    {r : State × β} (hf : ∀ r a, Within S s0 r.1 → Within S s0 (f r a).1) (h : Within S s0 r.1) :
    Within S s0 (l.foldl f r).1 := by
  induction l generalizing r with
  | nil => exact h
  | cons a l ih => exact ih (hf r a h)

end Sys2Proof.Laws
end

