-- ==== Sys2Proof/Laws/FrameFrames.lean ====
section
/-! SUPPORT. What each operation of Machine/Frames.lean may change. -/

set_option linter.unusedTactic false
set_option linter.unreachableTactic false
set_option linter.unusedVariables false
set_option linter.unusedSimpArgs false

namespace Sys2Proof.Laws

open Machine

theorem within_sendBytes {S : List StatePart} {s0 : State} {bs : List Byte} {s : State}
    (hS : Covers S [.mgmt])
    (hw : Within S s0 s) : Within S s0 (sendBytes bs s) := by
  unfold sendBytes
  repeat' first
    | with_reducible assumption
    | (intro m; cases m; constructor <;> first | with_reducible assumption)
    | (intro (p : StatePart); cases p <;> first | exact Or.inl (hS.part (by decide)) | with_reducible exact Or.inr rfl | with_reducible exact Or.inr ⟨rfl, rfl⟩ | with_reducible exact Or.inr (Nat.le_refl _))
    | intro _
    | with_reducible refine Within.ite ?_ ?_
    | split
    | dsimp only
    | with_reducible refine Within.upd rfl ?_ ?_ ?_

theorem within_sendFrame {S : List StatePart} {s0 : State} {typ : Nat} {off : Nat} {total : Nat} {body : List Byte} {s : State}
    (hS : Covers S [.mgmt])
    (hw : Within S s0 s) : Within S s0 (sendFrame typ off total body s) := by
  unfold sendFrame
  repeat' first
    | with_reducible assumption
    | (intro m; cases m; constructor <;> first | with_reducible assumption)
    | (intro (p : StatePart); cases p <;> first | exact Or.inl (hS.part (by decide)) | with_reducible exact Or.inr rfl | with_reducible exact Or.inr ⟨rfl, rfl⟩ | with_reducible exact Or.inr (Nat.le_refl _))
    | intro _
    | with_reducible refine within_sendBytes (hS.mono (by decide)) ?_
    | split
    | dsimp only
    | with_reducible refine Within.upd rfl ?_ ?_ ?_

theorem within_sendFragments {S : List StatePart} {s0 : State} {cpl : List Byte} {out : List Byte} {x0 : Nat} {x1 : Nat} {x2 : State}
    (hS : Covers S [.mgmt])
    (hw : Within S s0 x2) : Within S s0 (sendFragments cpl out x0 x1 x2) := by
  induction x0 generalizing x1 x2 with
  | zero =>
    rw [sendFragments]
    repeat' first
      | with_reducible assumption
      | intro _
      | with_reducible refine within_sendFrame (hS.mono (by decide)) ?_
      | split
      | dsimp only
  | succ n ih =>
    rw [sendFragments]
    repeat' first
      | with_reducible assumption
      | with_reducible refine ih ?_
      | intro _
      | with_reducible refine within_sendFrame (hS.mono (by decide)) ?_
      | split
      | dsimp only

theorem within_sendResponse {S : List StatePart} {s0 : State} {cpl : List Byte} {out : List Byte} {s : State}
    (hS : Covers S [.mgmt])
    (hw : Within S s0 s) : Within S s0 (sendResponse cpl out s) := by
  unfold sendResponse
  repeat' first
    | with_reducible assumption
    | intro _
    | with_reducible refine within_sendFragments (hS.mono (by decide)) ?_
    | split
    | dsimp only

end Sys2Proof.Laws
end

