-- ==== Sys2Proof/Laws/FrameOps.lean ====
section
/-! SUPPORT. What each operation of Machine/Ops.lean may change. -/

set_option linter.unusedTactic false
set_option linter.unreachableTactic false
set_option linter.unusedVariables false
set_option linter.unusedSimpArgs false

namespace Sys2Proof.Laws

open Machine

theorem within_takeFree {S : List StatePart} {s0 : State} {s : State}
    (hS : Covers S [.freeCtr])
    (hw : Within S s0 s) : Within S s0 (takeFree s).2 := by
  unfold takeFree
  repeat' first
    | with_reducible assumption
    | (intro m; cases m; constructor <;> first | with_reducible assumption)
    | (intro (p : StatePart); cases p <;> first | exact Or.inl (hS.part (by decide)) | with_reducible exact Or.inr rfl | with_reducible exact Or.inr ⟨rfl, rfl⟩ | with_reducible exact Or.inr (Nat.le_refl _))
    | intro _
    | split
    | dsimp only
    | with_reducible refine Within.upd rfl ?_ ?_ ?_

theorem within_atTime {S : List StatePart} {s0 : State} {t : Nat} {s : State}
    (hS : Covers S [.now]) (h : Within S s0 s) : Within S s0 (atTime t s) := by
  unfold atTime
  refine Within.upd rfl h ?_ (fun m => ⟨m.mem, m.hostMem, m.storeMem, m.entries, m.parts, m.quads, m.cores, m.bays, m.sites, m.hot, m.procs, m.wear, m.bootWear, m.missed, m.hops, m.ports, m.hbms, m.bufs, m.store, m.engines, m.links, m.queues, m.failures, m.retests⟩)
  intro p
  cases p <;> first | exact Or.inl (hS.part (by decide)) | with_reducible exact Or.inr rfl | with_reducible exact Or.inr ⟨rfl, rfl⟩ | exact Or.inr (Nat.le_max_left s.now t)

theorem within_hostWrite {S : List StatePart} {s0 : State} {a : Nat} {bs : List Byte} {s : State}
    (hS : Covers S [.hostMem]) (h : Within S s0 s) : Within S s0 (hostWrite a bs s) := by
  unfold hostWrite
  refine Within.upd rfl h ?_ (fun m => ⟨m.mem, memWf_memWrite _ _ _ m.hostMem, m.storeMem, m.entries, m.parts, m.quads, m.cores, m.bays, m.sites, m.hot, m.procs, m.wear, m.bootWear, m.missed, m.hops, m.ports, m.hbms, m.bufs, m.store, m.engines, m.links, m.queues, m.failures, m.retests⟩)
  intro p
  cases p <;> first | exact Or.inl (hS.part (by decide)) | with_reducible exact Or.inr rfl | with_reducible exact Or.inr ⟨rfl, rfl⟩ | with_reducible exact Or.inr (Nat.le_refl _)

theorem within_signalVector {S : List StatePart} {s0 : State} {v : Nat} {s : State}
    (hS : Covers S [.host])
    (hw : Within S s0 s) : Within S s0 (signalVector v s) := by
  unfold signalVector
  repeat' first
    | with_reducible assumption
    | (intro m; cases m; constructor <;> first | with_reducible assumption | (refine keysRise_mapPut _ _ _ ?_; with_reducible assumption))
    | (intro (p : StatePart); cases p <;> first | exact Or.inl (hS.part (by decide)) | with_reducible exact Or.inr rfl | with_reducible exact Or.inr ⟨rfl, rfl⟩ | with_reducible exact Or.inr (Nat.le_refl _))
    | intro _
    | with_reducible refine Within.ite ?_ ?_
    | split
    | dsimp only
    | with_reducible refine Within.upd rfl ?_ ?_ ?_

theorem within_evPost {S : List StatePart} {s0 : State} {e : EventRec} {s : State}
    (hS : Covers S [.host, .ev, .hostMem])
    (hw : Within S s0 s) : Within S s0 (evPost e s) := by
  unfold evPost
  repeat' first
    | with_reducible assumption
    | (intro m; cases m; constructor <;> first | with_reducible assumption)
    | (intro (p : StatePart); cases p <;> first | exact Or.inl (hS.part (by decide)) | with_reducible exact Or.inr rfl | with_reducible exact Or.inr ⟨rfl, rfl⟩ | with_reducible exact Or.inr (Nat.le_refl _))
    | intro _
    | with_reducible refine within_hostWrite (hS.mono (by decide)) ?_
    | with_reducible refine within_signalVector (hS.mono (by decide)) ?_
    | with_reducible refine Within.ite ?_ ?_
    | split
    | dsimp only
    | with_reducible refine Within.upd rfl ?_ ?_ ?_

theorem within_evFlushLost {S : List StatePart} {s0 : State} {s : State}
    (hS : Covers S [.host, .ev, .hostMem])
    (hw : Within S s0 s) : Within S s0 (evFlushLost s) := by
  unfold evFlushLost
  repeat' first
    | with_reducible assumption
    | (intro m; cases m; constructor <;> first | with_reducible assumption)
    | (intro (p : StatePart); cases p <;> first | exact Or.inl (hS.part (by decide)) | with_reducible exact Or.inr rfl | with_reducible exact Or.inr ⟨rfl, rfl⟩ | with_reducible exact Or.inr (Nat.le_refl _))
    | intro _
    | with_reducible refine within_evPost (hS.mono (by decide)) ?_
    | with_reducible refine Within.ite ?_ ?_
    | split
    | dsimp only
    | with_reducible refine Within.upd rfl ?_ ?_ ?_

theorem within_raiseEvent {S : List StatePart} {s0 : State} {es : List EventRec} {s : State}
    (hS : Covers S [.host, .ev, .hostMem])
    (hw : Within S s0 s) : Within S s0 (raiseEvent es s) := by
  unfold raiseEvent
  repeat' first
    | with_reducible assumption
    | (intro m; cases m; constructor <;> first | with_reducible assumption)
    | (intro (p : StatePart); cases p <;> first | exact Or.inl (hS.part (by decide)) | with_reducible exact Or.inr rfl | with_reducible exact Or.inr ⟨rfl, rfl⟩ | with_reducible exact Or.inr (Nat.le_refl _))
    | intro _
    | with_reducible refine within_evPost (hS.mono (by decide)) ?_
    | with_reducible refine Within.foldl _ _ (fun s a h => ?_) ?_
    | with_reducible refine Within.foldl_fourth _ _ (fun r a h => ?_) ?_
    | with_reducible refine Within.foldl_third _ _ (fun r a h => ?_) ?_
    | with_reducible refine Within.foldl_snd _ _ (fun r a h => ?_) ?_
    | with_reducible refine Within.foldl_fst _ _ (fun r a h => ?_) ?_
    | with_reducible refine Within.ite ?_ ?_
    | split
    | dsimp only
    | with_reducible refine Within.upd rfl ?_ ?_ ?_

theorem within_cqPost {S : List StatePart} {s0 : State} {qid : Nat} {x : Completion} {q : QueuePair} {s : State}
    (hS : Covers S [.host, .hostMem])
    (hw : Within S s0 s) : Within S s0 (cqPost qid x q s) := by
  unfold cqPost
  repeat' first
    | with_reducible assumption
    | (intro m; cases m; constructor <;> first | with_reducible assumption | (refine keysRise_mapPut _ _ _ ?_; with_reducible assumption))
    | (intro (p : StatePart); cases p <;> first | exact Or.inl (hS.part (by decide)) | with_reducible exact Or.inr rfl | with_reducible exact Or.inr ⟨rfl, rfl⟩ | with_reducible exact Or.inr (Nat.le_refl _))
    | intro _
    | with_reducible refine within_hostWrite (hS.mono (by decide)) ?_
    | with_reducible refine within_signalVector (hS.mono (by decide)) ?_
    | with_reducible refine Within.ite ?_ ?_
    | split
    | dsimp only
    | with_reducible refine Within.upd rfl ?_ ?_ ?_

theorem within_deliverCompletion {S : List StatePart} {s0 : State} {c : Cmd} {x : Completion} {out : List Byte} {s : State}
    (hS : Covers S [.host, .mgmt, .hostMem])
    (hw : Within S s0 s) : Within S s0 (deliverCompletion c x out s) := by
  unfold deliverCompletion
  repeat' first
    | with_reducible assumption
    | (intro m; cases m; constructor <;> first | with_reducible assumption | (refine keysRise_mapPut _ _ _ ?_; with_reducible assumption))
    | (intro (p : StatePart); cases p <;> first | exact Or.inl (hS.part (by decide)) | with_reducible exact Or.inr rfl | with_reducible exact Or.inr ⟨rfl, rfl⟩ | with_reducible exact Or.inr (Nat.le_refl _))
    | intro _
    | with_reducible refine within_cqPost (hS.mono (by decide)) ?_
    | with_reducible refine within_sendResponse (hS.mono (by decide)) ?_
    | with_reducible refine within_signalVector (hS.mono (by decide)) ?_
    | with_reducible refine Within.ite ?_ ?_
    | split
    | dsimp only
    | with_reducible refine Within.upd rfl ?_ ?_ ?_

theorem within_complete {S : List StatePart} {s0 : State} {c : Cmd} {status : Nat} {detail : Nat} {s : State}
    (hS : Covers S [.host, .inProgress, .mgmt, .hostMem])
    (hw : Within S s0 s) : Within S s0 (complete c status detail s) := by
  unfold complete
  repeat' first
    | with_reducible assumption
    | (intro m; cases m; constructor <;> first | with_reducible assumption)
    | (intro (p : StatePart); cases p <;> first | exact Or.inl (hS.part (by decide)) | with_reducible exact Or.inr rfl | with_reducible exact Or.inr ⟨rfl, rfl⟩ | with_reducible exact Or.inr (Nat.le_refl _))
    | intro _
    | with_reducible refine within_deliverCompletion (hS.mono (by decide)) ?_
    | with_reducible refine Within.ite ?_ ?_
    | split
    | dsimp only
    | with_reducible refine Within.upd rfl ?_ ?_ ?_

theorem within_completeOpt {S : List StatePart} {s0 : State} {c : Option Cmd} {status : Nat} {detail : Nat} {s : State}
    (hS : Covers S [.host, .inProgress, .mgmt, .hostMem])
    (hw : Within S s0 s) : Within S s0 (completeOpt c status detail s) := by
  unfold completeOpt
  repeat' first
    | with_reducible assumption
    | intro _
    | with_reducible refine within_complete (hS.mono (by decide)) ?_
    | split
    | dsimp only

theorem within_setOut {S : List StatePart} {s0 : State} {c : Cmd} {bs : List Byte} {s : State}
    (hS : Covers S [.inProgress])
    (hw : Within S s0 s) : Within S s0 (setOut c bs s) := by
  unfold setOut
  repeat' first
    | with_reducible assumption
    | (intro m; cases m; constructor <;> first | with_reducible assumption)
    | (intro (p : StatePart); cases p <;> first | exact Or.inl (hS.part (by decide)) | with_reducible exact Or.inr rfl | with_reducible exact Or.inr ⟨rfl, rfl⟩ | with_reducible exact Or.inr (Nat.le_refl _))
    | intro _
    | with_reducible refine Within.ite ?_ ?_
    | split
    | dsimp only
    | with_reducible refine Within.upd rfl ?_ ?_ ?_

theorem within_writeHostBuf {S : List StatePart} {s0 : State} {c : Cmd} {a : Nat} {bs : List Byte} {s : State}
    (hS : Covers S [.inProgress, .hostMem])
    (hw : Within S s0 s) : Within S s0 (writeHostBuf c a bs s).2 := by
  unfold writeHostBuf
  repeat' first
    | with_reducible assumption
    | intro _
    | with_reducible refine within_hostWrite (hS.mono (by decide)) ?_
    | with_reducible refine within_setOut (hS.mono (by decide)) ?_
    | with_reducible refine Within.ite ?_ ?_
    | split
    | dsimp only

theorem within_writeOwnBuf {S : List StatePart} {s0 : State} {c : Cmd} {bs : List Byte} {s : State}
    (hS : Covers S [.host, .inProgress, .hostMem])
    (hw : Within S s0 s) : Within S s0 (writeOwnBuf c bs s).2 := by
  unfold writeOwnBuf
  repeat' first
    | with_reducible assumption
    | (intro m; cases m; constructor <;> first | with_reducible assumption)
    | (intro (p : StatePart); cases p <;> first | exact Or.inl (hS.part (by decide)) | with_reducible exact Or.inr rfl | with_reducible exact Or.inr ⟨rfl, rfl⟩ | with_reducible exact Or.inr (Nat.le_refl _))
    | intro _
    | with_reducible refine within_writeHostBuf (hS.mono (by decide)) ?_
    | with_reducible refine Within.ite ?_ ?_
    | split
    | dsimp only
    | with_reducible refine Within.upd rfl ?_ ?_ ?_

theorem within_completeWithOwnBuf {S : List StatePart} {s0 : State} {c : Cmd} {bs : List Byte} {detail : Nat} {s : State}
    (hS : Covers S [.host, .inProgress, .mgmt, .hostMem])
    (hw : Within S s0 s) : Within S s0 (completeWithOwnBuf c bs detail s) := by
  unfold completeWithOwnBuf
  repeat' first
    | with_reducible assumption
    | intro _
    | with_reducible refine within_complete (hS.mono (by decide)) ?_
    | with_reducible refine within_writeOwnBuf (hS.mono (by decide)) ?_
    | with_reducible refine Within.ite ?_ ?_
    | split
    | dsimp only

theorem within_completeWithBuf {S : List StatePart} {s0 : State} {c : Cmd} {a : Nat} {bs : List Byte} {detail : Nat} {s : State}
    (hS : Covers S [.host, .inProgress, .mgmt, .hostMem])
    (hw : Within S s0 s) : Within S s0 (completeWithBuf c a bs detail s) := by
  unfold completeWithBuf
  repeat' first
    | with_reducible assumption
    | intro _
    | with_reducible refine within_complete (hS.mono (by decide)) ?_
    | with_reducible refine within_writeHostBuf (hS.mono (by decide)) ?_
    | with_reducible refine Within.ite ?_ ?_
    | split
    | dsimp only

end Sys2Proof.Laws
end

