-- ==== Sys2Proof/Laws/FrameCoreOps.lean ====
section
/-! SUPPORT. What each operation of Machine/CoreOps.lean may change. -/

set_option linter.unusedTactic false
set_option linter.unreachableTactic false
set_option linter.unusedVariables false
set_option linter.unusedSimpArgs false

namespace Sys2Proof.Laws

open Machine

theorem within_setCore {S : List StatePart} {s0 : State} {k : Nat} {c : Core} {s : State}
    (hS : Covers S [.cores])
    (hw : Within S s0 s) : Within S s0 (setCore k c s) := by
  unfold setCore
  repeat' first
    | with_reducible assumption
    | (intro m; cases m; constructor <;> first | with_reducible assumption | (refine keysRise_mapSet _ _ _ _ ?_; with_reducible assumption) | rfl)
    | (intro (p : StatePart); cases p <;> first | exact Or.inl (hS.part (by decide)) | with_reducible exact Or.inr rfl | with_reducible exact Or.inr ⟨rfl, rfl⟩ | with_reducible exact Or.inr (Nat.le_refl _))
    | intro _
    | split
    | dsimp only
    | with_reducible refine Within.upd rfl ?_ ?_ ?_

theorem within_modCore {S : List StatePart} {s0 : State} {k : Nat} {f : Core → Core} {s : State}
    (hS : Covers S [.cores])
    (hw : Within S s0 s) : Within S s0 (modCore k f s) := by
  unfold modCore
  repeat' first
    | with_reducible assumption
    | intro _
    | with_reducible refine within_setCore (hS.mono (by decide)) ?_
    | split
    | dsimp only

theorem within_setBay {S : List StatePart} {s0 : State} {i : Nat} {b : Bay} {s : State}
    (hS : Covers S [.bays])
    (hw : Within S s0 s) : Within S s0 (setBay i b s) := by
  unfold setBay
  repeat' first
    | with_reducible assumption
    | (intro m; cases m; constructor <;> first | with_reducible assumption | (refine keysRise_mapPut _ _ _ ?_; with_reducible assumption))
    | (intro (p : StatePart); cases p <;> first | exact Or.inl (hS.part (by decide)) | with_reducible exact Or.inr rfl | with_reducible exact Or.inr ⟨rfl, rfl⟩ | with_reducible exact Or.inr (Nat.le_refl _))
    | intro _
    | split
    | dsimp only
    | with_reducible refine Within.upd rfl ?_ ?_ ?_

theorem within_modBay {S : List StatePart} {s0 : State} {i : Nat} {f : Bay → Bay} {s : State}
    (hS : Covers S [.bays])
    (hw : Within S s0 s) : Within S s0 (modBay i f s) := by
  unfold modBay
  repeat' first
    | with_reducible assumption
    | intro _
    | with_reducible refine within_setBay (hS.mono (by decide)) ?_
    | split
    | dsimp only

theorem within_taintOp {S : List StatePart} {s0 : State} {k : Nat} {op : Nat} {s : State}
    (hS : Covers S [.freeCtr, .cores])
    (hw : Within S s0 s) : Within S s0 (taintOp k op s) := by
  unfold taintOp
  repeat' first
    | with_reducible assumption
    | (intro m; cases m; constructor <;> first | with_reducible assumption)
    | (intro (p : StatePart); cases p <;> first | exact Or.inl (hS.part (by decide)) | with_reducible exact Or.inr rfl | with_reducible exact Or.inr ⟨rfl, rfl⟩ | with_reducible exact Or.inr (Nat.le_refl _))
    | intro _
    | with_reducible refine within_setCore (hS.mono (by decide)) ?_
    | with_reducible refine Within.foldl _ _ (fun s a h => ?_) ?_
    | with_reducible refine Within.foldl_fourth _ _ (fun r a h => ?_) ?_
    | with_reducible refine Within.foldl_third _ _ (fun r a h => ?_) ?_
    | with_reducible refine Within.foldl_snd _ _ (fun r a h => ?_) ?_
    | with_reducible refine Within.foldl_fst _ _ (fun r a h => ?_) ?_
    | split
    | dsimp only
    | with_reducible refine Within.upd rfl ?_ ?_ ?_

theorem within_mixRun {S : List StatePart} {s0 : State} {k : Nat} {op : Nat} {rows : List Nat} {p : Nat × Nat} {data : Row} {s : State}
    (hS : Covers S [.cores])
    (hw : Within S s0 s) : Within S s0 (mixRun k op rows p data s) := by
  unfold mixRun
  repeat' first
    | with_reducible assumption
    | intro _
    | with_reducible refine within_modCore (hS.mono (by decide)) ?_
    | with_reducible refine Within.ite ?_ ?_
    | split
    | dsimp only

theorem within_spoilOp {S : List StatePart} {s0 : State} {k : Nat} {p : Nat × Nat} {data : Row} {s : State} {w : ReadWin}
    (hS : Covers S [.freeCtr, .cores])
    (hw : Within S s0 s) : Within S s0 (spoilOp k p data s w) := by
  unfold spoilOp
  repeat' first
    | with_reducible assumption
    | intro _
    | with_reducible refine within_mixRun (hS.mono (by decide)) ?_
    | with_reducible refine within_taintOp (hS.mono (by decide)) ?_
    | with_reducible refine Within.ite ?_ ?_
    | split
    | dsimp only

theorem within_storeRow {S : List StatePart} {s0 : State} {p : Nat × Nat} {stamp : Nat} {data : Row} {u : RowUnit} {op : Nat} {s : State}
    (hS : Covers S [.freeCtr, .cores])
    (hw : Within S s0 s) : Within S s0 (storeRow p stamp data u op s) := by
  unfold storeRow
  repeat' first
    | with_reducible assumption
    | intro _
    | with_reducible refine within_modCore (hS.mono (by decide)) ?_
    | with_reducible refine within_spoilOp (hS.mono (by decide)) ?_
    | with_reducible refine Within.foldl _ _ (fun s a h => ?_) ?_
    | with_reducible refine Within.foldl_fourth _ _ (fun r a h => ?_) ?_
    | with_reducible refine Within.foldl_third _ _ (fun r a h => ?_) ?_
    | with_reducible refine Within.foldl_snd _ _ (fun r a h => ?_) ?_
    | with_reducible refine Within.foldl_fst _ _ (fun r a h => ?_) ?_
    | split
    | dsimp only

theorem within_openWin {S : List StatePart} {s0 : State} {k : Nat} {w : ReadWin} {s : State}
    (hS : Covers S [.freeCtr, .cores])
    (hw : Within S s0 s) : Within S s0 (openWin k w s) := by
  unfold openWin
  repeat' first
    | with_reducible assumption
    | intro _
    | with_reducible refine within_modCore (hS.mono (by decide)) ?_
    | with_reducible refine within_spoilOp (hS.mono (by decide)) ?_
    | with_reducible refine Within.foldl _ _ (fun s a h => ?_) ?_
    | with_reducible refine Within.foldl_fourth _ _ (fun r a h => ?_) ?_
    | with_reducible refine Within.foldl_third _ _ (fun r a h => ?_) ?_
    | with_reducible refine Within.foldl_snd _ _ (fun r a h => ?_) ?_
    | with_reducible refine Within.foldl_fst _ _ (fun r a h => ?_) ?_
    | split
    | dsimp only

theorem within_putScan {S : List StatePart} {s0 : State} {k : Nat} {op : Nat} {since : Nat} {outs : List ScanWrite} {s : State}
    (hS : Covers S [.freeCtr, .cores])
    (hw : Within S s0 s) : Within S s0 (putScan k op since outs s) := by
  unfold putScan
  repeat' first
    | with_reducible assumption
    | intro _
    | with_reducible refine within_modCore (hS.mono (by decide)) ?_
    | with_reducible refine within_storeRow (hS.mono (by decide)) ?_
    | with_reducible refine Within.foldl _ _ (fun s a h => ?_) ?_
    | with_reducible refine Within.foldl_fourth _ _ (fun r a h => ?_) ?_
    | with_reducible refine Within.foldl_third _ _ (fun r a h => ?_) ?_
    | with_reducible refine Within.foldl_snd _ _ (fun r a h => ?_) ?_
    | with_reducible refine Within.foldl_fst _ _ (fun r a h => ?_) ?_
    | with_reducible refine Within.ite ?_ ?_
    | split
    | dsimp only

theorem within_replanScan {S : List StatePart} {s0 : State} {k : Nat} {since : Nat} {s : State} {run : ScanRun}
    (hS : Covers S [.freeCtr, .cores])
    (hw : Within S s0 s) : Within S s0 (replanScan k since s run) := by
  unfold replanScan
  repeat' first
    | with_reducible assumption
    | intro _
    | with_reducible refine within_modCore (hS.mono (by decide)) ?_
    | with_reducible refine within_putScan (hS.mono (by decide)) ?_
    | with_reducible refine Within.foldl _ _ (fun s a h => ?_) ?_
    | with_reducible refine Within.foldl_fourth _ _ (fun r a h => ?_) ?_
    | with_reducible refine Within.foldl_third _ _ (fun r a h => ?_) ?_
    | with_reducible refine Within.foldl_snd _ _ (fun r a h => ?_) ?_
    | with_reducible refine Within.foldl_fst _ _ (fun r a h => ?_) ?_
    | with_reducible refine Within.ite ?_ ?_
    | split
    | dsimp only

theorem within_putRow {S : List StatePart} {s0 : State} {k : Nat} {d : Nat} {stamp : Nat} {data : Row} {u : RowUnit} {op : Nat} {s : State}
    (hS : Covers S [.freeCtr, .cores])
    (hw : Within S s0 s) : Within S s0 (putRow k d stamp data u op s) := by
  unfold putRow
  repeat' first
    | with_reducible assumption
    | intro _
    | with_reducible refine within_replanScan (hS.mono (by decide)) ?_
    | with_reducible refine within_storeRow (hS.mono (by decide)) ?_
    | with_reducible refine Within.foldl _ _ (fun s a h => ?_) ?_
    | with_reducible refine Within.foldl_fourth _ _ (fun r a h => ?_) ?_
    | with_reducible refine Within.foldl_third _ _ (fun r a h => ?_) ?_
    | with_reducible refine Within.foldl_snd _ _ (fun r a h => ?_) ?_
    | with_reducible refine Within.foldl_fst _ _ (fun r a h => ?_) ?_
    | split
    | dsimp only

theorem within_faultCoreBay {S : List StatePart} {s0 : State} {code : Nat} {k : Nat} {c : Nat} {s : State}
    (hS : Covers S [.bays])
    (hw : Within S s0 s) : Within S s0 (faultCoreBay code k c s) := by
  unfold faultCoreBay
  repeat' first
    | with_reducible assumption
    | intro _
    | with_reducible refine within_setBay (hS.mono (by decide)) ?_
    | split
    | dsimp only

theorem within_dropCond {S : List StatePart} {s0 : State} {k : Nat} {cond : HoldCond} {s : State}
    (hS : Covers S [.bays])
    (hw : Within S s0 s) : Within S s0 (dropCond k cond s) := by
  unfold dropCond
  repeat' first
    | with_reducible assumption
    | intro _
    | with_reducible refine within_setBay (hS.mono (by decide)) ?_
    | split
    | dsimp only

theorem within_noteEvent {S : List StatePart} {s0 : State} {k : Nat} {cls : Nat} {sub : Nat} {index : Nat} {cycle : Nat} {detail : Nat} {count : CoreStatus → CoreStatus} {s : State}
    (hS : Covers S [.bays, .cores])
    (hw : Within S s0 s) : Within S s0 (noteEvent k cls sub index cycle detail count s) := by
  unfold noteEvent
  repeat' first
    | with_reducible assumption
    | intro _
    | with_reducible refine within_modCore (hS.mono (by decide)) ?_
    | with_reducible refine within_setBay (hS.mono (by decide)) ?_
    | with_reducible refine Within.ite ?_ ?_
    | split
    | dsimp only

theorem within_expectTag {S : List StatePart} {s0 : State} {k : Nat} {slot : Nat} {full : Bool} {index : Nat} {t : Nat} {s : State}
    (hS : Covers S [.bays, .cores])
    (hw : Within S s0 s) : Within S s0 (expectTag k slot full index t s) := by
  unfold expectTag
  repeat' first
    | with_reducible assumption
    | intro _
    | with_reducible refine within_noteEvent (hS.mono (by decide)) ?_
    | with_reducible refine Within.ite ?_ ?_
    | split
    | dsimp only

theorem within_modXingIn {S : List StatePart} {s0 : State} {k : Nat} {d : Side} {f : Crossing → Crossing} {s : State}
    (hS : Covers S [.xings])
    (hw : Within S s0 s) : Within S s0 (modXingIn k d f s) := by
  unfold modXingIn
  repeat' first
    | with_reducible assumption
    | (intro m; cases m; constructor <;> first | with_reducible assumption)
    | (intro (p : StatePart); cases p <;> first | exact Or.inl (hS.part (by decide)) | with_reducible exact Or.inr rfl | with_reducible exact Or.inr ⟨rfl, rfl⟩ | with_reducible exact Or.inr (Nat.le_refl _))
    | intro _
    | with_reducible refine Within.ite ?_ ?_
    | split
    | dsimp only
    | with_reducible refine Within.upd rfl ?_ ?_ ?_

theorem within_modXingOut {S : List StatePart} {s0 : State} {k : Nat} {d : Side} {f : Crossing → Crossing} {s : State}
    (hS : Covers S [.xings])
    (hw : Within S s0 s) : Within S s0 (modXingOut k d f s) := by
  unfold modXingOut
  repeat' first
    | with_reducible assumption
    | (intro m; cases m; constructor <;> first | with_reducible assumption)
    | (intro (p : StatePart); cases p <;> first | exact Or.inl (hS.part (by decide)) | with_reducible exact Or.inr rfl | with_reducible exact Or.inr ⟨rfl, rfl⟩ | with_reducible exact Or.inr (Nat.le_refl _))
    | intro _
    | with_reducible refine Within.ite ?_ ?_
    | split
    | dsimp only
    | with_reducible refine Within.upd rfl ?_ ?_ ?_

theorem within_skipAccess {S : List StatePart} {s0 : State} {k : Nat} {d : Nat} {t : Nat} {s : State}
    (hS : Covers S [.cores])
    (hw : Within S s0 s) : Within S s0 (skipAccess k d t s) := by
  unfold skipAccess
  repeat' first
    | with_reducible assumption
    | intro _
    | with_reducible refine within_modCore (hS.mono (by decide)) ?_
    | split
    | dsimp only

theorem within_usePort {S : List StatePart} {s0 : State} {k : Nat} {p : Nat} {s : State}
    (hS : Covers S [.cores])
    (hw : Within S s0 s) : Within S s0 (usePort k p s) := by
  unfold usePort
  repeat' first
    | with_reducible assumption
    | intro _
    | with_reducible refine within_modCore (hS.mono (by decide)) ?_
    | split
    | dsimp only

theorem within_yieldRow {S : List StatePart} {s0 : State} {k : Nat} {w : RowWrite} {s : State}
    (hS : Covers S [.cores])
    (hw : Within S s0 s) : Within S s0 (yieldRow k w s) := by
  unfold yieldRow
  repeat' first
    | with_reducible assumption
    | intro _
    | with_reducible refine within_modCore (hS.mono (by decide)) ?_
    | with_reducible refine Within.ite ?_ ?_
    | split
    | dsimp only

theorem within_yieldRows {S : List StatePart} {s0 : State} {b : Bay} {t : Nat} {s : State}
    (hS : Covers S [.cores])
    (hw : Within S s0 s) : Within S s0 (yieldRows b t s) := by
  unfold yieldRows
  repeat' first
    | with_reducible assumption
    | intro _
    | with_reducible refine within_yieldRow (hS.mono (by decide)) ?_
    | with_reducible refine Within.foldl _ _ (fun s a h => ?_) ?_
    | with_reducible refine Within.foldl_fourth _ _ (fun r a h => ?_) ?_
    | with_reducible refine Within.foldl_third _ _ (fun r a h => ?_) ?_
    | with_reducible refine Within.foldl_snd _ _ (fun r a h => ?_) ?_
    | with_reducible refine Within.foldl_fst _ _ (fun r a h => ?_) ?_
    | split
    | dsimp only

theorem within_noteTrips {S : List StatePart} {s0 : State} {s : State}
    (hS : Covers S [.xings])
    (hw : Within S s0 s) : Within S s0 (noteTrips s) := by
  unfold noteTrips
  repeat' first
    | with_reducible assumption
    | (intro m; cases m; constructor <;> first | with_reducible assumption)
    | (intro (p : StatePart); cases p <;> first | exact Or.inl (hS.part (by decide)) | with_reducible exact Or.inr rfl | with_reducible exact Or.inr ⟨rfl, rfl⟩ | with_reducible exact Or.inr (Nat.le_refl _))
    | intro _
    | split
    | dsimp only
    | with_reducible refine Within.upd rfl ?_ ?_ ?_

theorem within_openCycle {S : List StatePart} {s0 : State} {i : Nat} {b : Bay} {t : Nat} {s : State}
    (hS : Covers S [.bays, .cores, .xings])
    (hw : Within S s0 s) : Within S s0 (openCycle i b t s) := by
  unfold openCycle
  repeat' first
    | with_reducible assumption
    | intro _
    | with_reducible refine within_noteTrips (hS.mono (by decide)) ?_
    | with_reducible refine within_setBay (hS.mono (by decide)) ?_
    | with_reducible refine within_setCore (hS.mono (by decide)) ?_
    | with_reducible refine within_yieldRows (hS.mono (by decide)) ?_
    | with_reducible refine Within.foldl _ _ (fun s a h => ?_) ?_
    | with_reducible refine Within.foldl_fourth _ _ (fun r a h => ?_) ?_
    | with_reducible refine Within.foldl_third _ _ (fun r a h => ?_) ?_
    | with_reducible refine Within.foldl_snd _ _ (fun r a h => ?_) ?_
    | with_reducible refine Within.foldl_fst _ _ (fun r a h => ?_) ?_
    | with_reducible refine Within.ite ?_ ?_
    | split
    | dsimp only

theorem within_enterCycle {S : List StatePart} {s0 : State} {k t i : Nat} {b : Bay} {s s' : State}
    (hS : Covers S [.bays, .cores, .xings]) (h : Within S s0 s) (e : enterCycle k t s = some (i, b, s')) :
    Within S s0 s' := by
  unfold enterCycle at e
  split at e
  · cases e
  · split at e
    · cases e
    · split at e
      · cases e
        exact h
      · split at e
        · dsimp only at e
          split at e
          · cases e
            exact within_openCycle (hS.mono (by decide)) (within_noteTrips (hS.mono (by decide)) h)
          · cases e
        · cases e

end Sys2Proof.Laws
end

