-- ==== Sys2Proof/Laws/FrameCommands.lean ====
section
/-! SUPPORT. What each operation of Machine/Commands.lean may change. -/

set_option linter.unusedTactic false
set_option linter.unreachableTactic false
set_option linter.unusedVariables false
set_option linter.unusedSimpArgs false

namespace Sys2Proof.Laws

open Machine

theorem within_takeCmd {S : List StatePart} {s0 : State} {c : Cmd} {s : State}
    (hS : Covers S [.now, .host, .inProgress])
    (hw : Within S s0 s) : Within S s0 (takeCmd c s) := by
  unfold takeCmd
  repeat' first
    | with_reducible assumption
    | (intro m; cases m; constructor <;> first | with_reducible assumption)
    | (intro (p : StatePart); cases p <;> first | exact Or.inl (hS.part (by decide)) | with_reducible exact Or.inr rfl | with_reducible exact Or.inr ⟨rfl, rfl⟩ | with_reducible exact Or.inr (Nat.le_refl _))
    | intro _
    | with_reducible refine within_atTime (hS.mono (by decide)) ?_
    | split
    | dsimp only
    | with_reducible refine Within.upd rfl ?_ ?_ ?_

theorem within_runTaken {S : List StatePart} {s0 : State} {c : Cmd} {body : Cmd → List Byte → State → State} {s : State}
    (hS : Covers S [.host, .inProgress, .mgmt, .hostMem])
    (h_body : ∀ y0 y1 y2, Within S s0 y2 → Within S s0 (body y0 y1 y2))
    (hw : Within S s0 s) : Within S s0 (runTaken c body s) := by
  unfold runTaken
  repeat' first
    | with_reducible assumption
    | intro _
    | with_reducible refine h_body _ _ _ ?_
    | with_reducible refine within_complete (hS.mono (by decide)) ?_
    | with_reducible refine Within.ite ?_ ?_
    | split
    | dsimp only

theorem within_runRow {S : List StatePart} {s0 : State} {c : Cmd} {op : Nat} {body : Cmd → List Byte → State → State} {s : State}
    (hS : Covers S [.now, .host, .inProgress, .mgmt, .hostMem])
    (h_body : ∀ y0 y1 y2, Within S s0 y2 → Within S s0 (body y0 y1 y2))
    (hw : Within S s0 s) : OutWithin S s0 (runRow c op body s) := by
  unfold runRow
  repeat' first
    | with_reducible assumption
    | intro _
    | with_reducible refine h_body _ _ _ ?_
    | with_reducible refine within_runTaken (hS.mono (by decide)) ?_ ?_
    | with_reducible refine within_takeCmd (hS.mono (by decide)) ?_
    | with_reducible refine OutWithin.next ?_
    | exact OutWithin.fault _ _ _
    | with_reducible refine OutWithin.ite ?_ ?_
    | with_reducible refine Within.ite ?_ ?_
    | split
    | dsimp only

theorem within_failCmd {S : List StatePart} {s0 : State} {c : Cmd} {status : Nat} {s : State}
    (hS : Covers S [.host, .inProgress, .mgmt, .hostMem])
    (hw : Within S s0 s) : Within S s0 (failCmd c status s) := by
  unfold failCmd
  repeat' first
    | with_reducible assumption
    | intro _
    | with_reducible refine within_complete (hS.mono (by decide)) ?_
    | split
    | dsimp only

theorem within_checked {S : List StatePart} {s0 : State} {c : Cmd} {checks : List (Bool × Nat)} {eff : State → State} {s : State}
    (hS : Covers S [.host, .inProgress, .mgmt, .hostMem])
    (h_eff : ∀ y0, Within S s0 y0 → Within S s0 (eff y0))
    (hw : Within S s0 s) : Within S s0 (checked c checks eff s) := by
  unfold checked
  repeat' first
    | with_reducible assumption
    | intro _
    | with_reducible refine h_eff _ ?_
    | with_reducible refine within_failCmd (hS.mono (by decide)) ?_
    | with_reducible refine Within.ite ?_ ?_
    | split
    | dsimp only

end Sys2Proof.Laws
end

