-- ==== Sys2Proof/Laws/FrameErrOps.lean ====
section
/-! SUPPORT. What each operation of Machine/ErrOps.lean may change. -/

set_option linter.unusedTactic false
set_option linter.unreachableTactic false
set_option linter.unusedVariables false
set_option linter.unusedSimpArgs false

namespace Sys2Proof.Laws

open Machine

theorem within_modProc {S : List StatePart} {s0 : State} {n : Nat} {f : Proc → Proc} {s : State}
    (hS : Covers S [.fw])
    (hw : Within S s0 s) : Within S s0 (modProc n f s) := by
  unfold modProc
  repeat' first
    | with_reducible assumption
    | (intro m; cases m; constructor <;> first | with_reducible assumption | (refine keysRise_mapSet _ _ _ _ ?_; with_reducible assumption) | rfl)
    | (intro (p : StatePart); cases p <;> first | exact Or.inl (hS.part (by decide)) | with_reducible exact Or.inr rfl | with_reducible exact Or.inr ⟨rfl, rfl⟩ | with_reducible exact Or.inr (Nat.le_refl _))
    | intro _
    | split
    | dsimp only
    | with_reducible refine Within.upd rfl ?_ ?_ ?_

theorem within_needProc {S : List StatePart} {s0 : State} {n : Nat} {c : Cmd} {pay : List Byte} {eff : State → State} {s : State}
    (hS : Covers S [.host, .inProgress, .mgmt, .fw, .hostMem])
    (h_eff : ∀ y0, Within S s0 y0 → Within S s0 (eff y0))
    (hw : Within S s0 s) : Within S s0 (needProc n c pay eff s) := by
  unfold needProc
  repeat' first
    | with_reducible assumption
    | (intro m; cases m; constructor <;> first | with_reducible assumption)
    | (intro (p : StatePart); cases p <;> first | exact Or.inl (hS.part (by decide)) | with_reducible exact Or.inr rfl | with_reducible exact Or.inr ⟨rfl, rfl⟩ | with_reducible exact Or.inr (Nat.le_refl _))
    | intro _
    | with_reducible refine h_eff _ ?_
    | with_reducible refine within_complete (hS.mono (by decide)) ?_
    | with_reducible refine Within.ite ?_ ?_
    | split
    | dsimp only
    | with_reducible refine Within.upd rfl ?_ ?_ ?_

theorem within_needProcs {S : List StatePart} {s0 : State} {l : List Nat} {c : Cmd} {pay : List Byte} {eff : State → State} {s : State}
    (hS : Covers S [.host, .inProgress, .mgmt, .fw, .hostMem])
    (h_eff : ∀ y0, Within S s0 y0 → Within S s0 (eff y0))
    (hw : Within S s0 s) : Within S s0 (needProcs l c pay eff s) := by
  unfold needProcs
  repeat' first
    | with_reducible assumption
    | intro _
    | with_reducible refine h_eff _ ?_
    | with_reducible refine within_complete (hS.mono (by decide)) ?_
    | with_reducible refine within_needProc (hS.mono (by decide)) ?_ ?_
    | with_reducible refine Within.ite ?_ ?_
    | split
    | dsimp only

theorem within_raise {S : List StatePart} {s0 : State} {es : List EventRec} {s : State}
    (hS : Covers S [.host, .ev, .fw, .hostMem])
    (hw : Within S s0 s) : Within S s0 (raise es s) := by
  unfold raise
  repeat' first
    | with_reducible assumption
    | (intro m; cases m; constructor <;> first | with_reducible assumption)
    | (intro (p : StatePart); cases p <;> first | exact Or.inl (hS.part (by decide)) | with_reducible exact Or.inr rfl | with_reducible exact Or.inr ⟨rfl, rfl⟩ | with_reducible exact Or.inr (Nat.le_refl _))
    | intro _
    | with_reducible refine within_raiseEvent (hS.mono (by decide)) ?_
    | with_reducible refine Within.ite ?_ ?_
    | split
    | dsimp only
    | with_reducible refine Within.upd rfl ?_ ?_ ?_

theorem within_raise1 {S : List StatePart} {s0 : State} {e : EventRec} {s : State}
    (hS : Covers S [.host, .ev, .fw, .hostMem])
    (hw : Within S s0 s) : Within S s0 (raise1 e s) := by
  unfold raise1
  repeat' first
    | with_reducible assumption
    | intro _
    | with_reducible refine within_raise (hS.mono (by decide)) ?_
    | split
    | dsimp only

theorem within_flushLatched {S : List StatePart} {s0 : State} {n : Nat} {s : State}
    (hS : Covers S [.host, .ev, .fw, .hostMem])
    (hw : Within S s0 s) : Within S s0 (flushLatched n s) := by
  unfold flushLatched
  repeat' first
    | with_reducible assumption
    | (intro m; cases m; constructor <;> first | with_reducible assumption | (refine keysRise_filter _ _ ?_; with_reducible assumption))
    | (intro (p : StatePart); cases p <;> first | exact Or.inl (hS.part (by decide)) | with_reducible exact Or.inr rfl | with_reducible exact Or.inr ⟨rfl, rfl⟩ | with_reducible exact Or.inr (Nat.le_refl _))
    | intro _
    | with_reducible refine within_raiseEvent (hS.mono (by decide)) ?_
    | with_reducible refine Within.foldl _ _ (fun s a h => ?_) ?_
    | with_reducible refine Within.foldl_fourth _ _ (fun r a h => ?_) ?_
    | with_reducible refine Within.foldl_third _ _ (fun r a h => ?_) ?_
    | with_reducible refine Within.foldl_snd _ _ (fun r a h => ?_) ?_
    | with_reducible refine Within.foldl_fst _ _ (fun r a h => ?_) ?_
    | with_reducible refine Within.ite ?_ ?_
    | split
    | dsimp only
    | with_reducible refine Within.upd rfl ?_ ?_ ?_

theorem within_logAdd {S : List StatePart} {s0 : State} {r : LogRec} {s : State}
    (hS : Covers S [.err, .bootLog])
    (hw : Within S s0 s) : Within S s0 (logAdd r s) := by
  unfold logAdd
  repeat' first
    | with_reducible assumption
    | (intro m; cases m; constructor <;> first | with_reducible assumption)
    | (intro (p : StatePart); cases p <;> first | exact Or.inl (hS.part (by decide)) | with_reducible exact Or.inr rfl | with_reducible exact Or.inr ⟨rfl, rfl⟩ | with_reducible exact Or.inr (Nat.le_refl _))
    | intro _
    | with_reducible refine Within.ite ?_ ?_
    | split
    | dsimp only
    | with_reducible refine Within.upd rfl ?_ ?_ ?_

theorem within_wearChange {S : List StatePart} {s0 : State} {n : Nat} {old : Nat} {s : State}
    (hS : Covers S [.host, .ev, .fw, .err, .hostMem, .bootLog])
    (hw : Within S s0 s) : Within S s0 (wearChange n old s) := by
  unfold wearChange
  repeat' first
    | with_reducible assumption
    | intro _
    | with_reducible refine within_logAdd (hS.mono (by decide)) ?_
    | with_reducible refine within_raise1 (hS.mono (by decide)) ?_
    | with_reducible refine Within.ite ?_ ?_
    | split
    | dsimp only

theorem within_putWear {S : List StatePart} {s0 : State} {n : Nat} {p : WearPart} {s : State}
    (hS : Covers S [.err])
    (hw : Within S s0 s) : Within S s0 (putWear n p s) := by
  unfold putWear
  repeat' first
    | with_reducible assumption
    | (intro m; cases m; constructor <;> first | with_reducible assumption | (refine keysRise_mapSet _ _ _ _ ?_; with_reducible assumption) | rfl)
    | (intro (p : StatePart); cases p <;> first | exact Or.inl (hS.part (by decide)) | with_reducible exact Or.inr rfl | with_reducible exact Or.inr ⟨rfl, rfl⟩ | with_reducible exact Or.inr (Nat.le_refl _))
    | intro _
    | split
    | dsimp only
    | with_reducible refine Within.upd rfl ?_ ?_ ?_

theorem within_addWear {S : List StatePart} {s0 : State} {n : Nat} {kind : Nat} {points : Nat} {s : State}
    (hS : Covers S [.host, .ev, .fw, .err, .hostMem, .bootLog])
    (hw : Within S s0 s) : Within S s0 (addWear n kind points s) := by
  unfold addWear
  repeat' first
    | with_reducible assumption
    | intro _
    | with_reducible refine within_putWear (hS.mono (by decide)) ?_
    | with_reducible refine within_wearChange (hS.mono (by decide)) ?_
    | split
    | dsimp only

theorem within_scoreWear {S : List StatePart} {s0 : State} {inj : Bool} {n : Nat} {kind : Nat} {points : Nat} {s : State}
    (hS : Covers S [.host, .ev, .fw, .err, .hostMem, .bootLog])
    (hw : Within S s0 s) : Within S s0 (scoreWear inj n kind points s) := by
  unfold scoreWear
  repeat' first
    | with_reducible assumption
    | intro _
    | with_reducible refine within_addWear (hS.mono (by decide)) ?_
    | with_reducible refine Within.ite ?_ ?_
    | split
    | dsimp only

theorem within_injDone {S : List StatePart} {s0 : State} {j : Injection} {s : State}
    (hS : Covers S [.host, .ev, .fw, .hostMem])
    (hw : Within S s0 s) : Within S s0 (injDone j s) := by
  unfold injDone
  repeat' first
    | with_reducible assumption
    | intro _
    | with_reducible refine within_raise1 (hS.mono (by decide)) ?_
    | split
    | dsimp only

theorem within_fireInj {S : List StatePart} {s0 : State} {j : Injection} {s : State}
    (hS : Covers S [.host, .ev, .fw, .err, .hostMem, .bootLog])
    (hw : Within S s0 s) : Within S s0 (fireInj j s) := by
  unfold fireInj
  repeat' first
    | with_reducible assumption
    | (intro m; cases m; constructor <;> first | with_reducible assumption)
    | (intro (p : StatePart); cases p <;> first | exact Or.inl (hS.part (by decide)) | with_reducible exact Or.inr rfl | with_reducible exact Or.inr ⟨rfl, rfl⟩ | with_reducible exact Or.inr (Nat.le_refl _))
    | intro _
    | with_reducible refine within_injDone (hS.mono (by decide)) ?_
    | with_reducible refine within_logAdd (hS.mono (by decide)) ?_
    | with_reducible refine Within.ite ?_ ?_
    | split
    | dsimp only
    | with_reducible refine Within.upd rfl ?_ ?_ ?_

theorem within_examine {S : List StatePart} {s0 : State} {point : Nat} {f : Injection → Bool} {s : State}
    (hS : Covers S [.host, .ev, .fw, .err, .hostMem, .bootLog])
    (hw : Within S s0 s) : Within S s0 (examine point f s).2 := by
  unfold examine
  repeat' first
    | with_reducible assumption
    | intro _
    | with_reducible refine within_fireInj (hS.mono (by decide)) ?_
    | split
    | dsimp only

theorem within_examineInj {S : List StatePart} {s0 : State} {point : Nat} {f : Injection → Bool} {s : State}
    (hS : Covers S [.host, .ev, .fw, .err, .hostMem, .bootLog])
    (hw : Within S s0 s) : Within S s0 (examineInj point f s).2 := by
  unfold examineInj
  repeat' first
    | with_reducible assumption
    | intro _
    | with_reducible refine within_fireInj (hS.mono (by decide)) ?_
    | split
    | dsimp only

theorem within_examineValue {S : List StatePart} {s0 : State} {point : Nat} {f : Injection → Bool} {s : State}
    (hS : Covers S [.host, .ev, .fw, .err, .hostMem, .bootLog])
    (hw : Within S s0 s) : Within S s0 (examineValue point f s).2 := by
  unfold examineValue
  repeat' first
    | with_reducible assumption
    | intro _
    | with_reducible refine within_fireInj (hS.mono (by decide)) ?_
    | split
    | dsimp only

theorem within_disarm {S : List StatePart} {s0 : State} {f : Injection → Bool} {s : State}
    (hS : Covers S [.host, .ev, .fw, .err, .hostMem])
    (hw : Within S s0 s) : Within S s0 (disarm f s) := by
  unfold disarm
  repeat' first
    | with_reducible assumption
    | (intro m; cases m; constructor <;> first | with_reducible assumption | (refine keysRise_filter _ _ ?_; with_reducible assumption))
    | (intro (p : StatePart); cases p <;> first | exact Or.inl (hS.part (by decide)) | with_reducible exact Or.inr rfl | with_reducible exact Or.inr ⟨rfl, rfl⟩ | with_reducible exact Or.inr (Nat.le_refl _))
    | intro _
    | with_reducible refine within_injDone (hS.mono (by decide)) ?_
    | with_reducible refine Within.foldl _ _ (fun s a h => ?_) ?_
    | with_reducible refine Within.foldl_fourth _ _ (fun r a h => ?_) ?_
    | with_reducible refine Within.foldl_third _ _ (fun r a h => ?_) ?_
    | with_reducible refine Within.foldl_snd _ _ (fun r a h => ?_) ?_
    | with_reducible refine Within.foldl_fst _ _ (fun r a h => ?_) ?_
    | split
    | dsimp only
    | with_reducible refine Within.upd rfl ?_ ?_ ?_

end Sys2Proof.Laws
end

