-- ==== Sys2Proof/Laws/FrameSites.lean ====
section
/-! SUPPORT. What each operation of Machine/Sites.lean may change. -/

set_option linter.unusedTactic false
set_option linter.unreachableTactic false
set_option linter.unusedVariables false
set_option linter.unusedSimpArgs false

namespace Sys2Proof.Laws

open Machine

theorem within_modPwr {S : List StatePart} {s0 : State} {i : Nat} {f : SitePwr → SitePwr} {s : State}
    (hS : Covers S [.pwr])
    (hw : Within S s0 s) : Within S s0 (modPwr i f s) := by
  unfold modPwr
  repeat' first
    | with_reducible assumption
    | (intro m; cases m; constructor <;> first | with_reducible assumption | (refine keysRise_mapSet _ _ _ _ ?_; with_reducible assumption))
    | (intro (p : StatePart); cases p <;> first | exact Or.inl (hS.part (by decide)) | with_reducible exact Or.inr rfl | with_reducible exact Or.inr ⟨rfl, rfl⟩ | with_reducible exact Or.inr (Nat.le_refl _))
    | intro _
    | split
    | dsimp only
    | with_reducible refine Within.upd rfl ?_ ?_ ?_

theorem within_modEntry {S : List StatePart} {s0 : State} {i : Nat} {f : SiteEntry → SiteEntry} {s : State}
    (hS : Covers S [.fp])
    (hw : Within S s0 s) : Within S s0 (modEntry i f s) := by
  unfold modEntry
  repeat' first
    | with_reducible assumption
    | (intro m; cases m; constructor <;> first | with_reducible assumption | (simp [modAt, copies, *]; done))
    | (intro (p : StatePart); cases p <;> first | exact Or.inl (hS.part (by decide)) | with_reducible exact Or.inr rfl | with_reducible exact Or.inr ⟨rfl, rfl⟩ | with_reducible exact Or.inr (Nat.le_refl _))
    | intro _
    | split
    | dsimp only
    | with_reducible refine Within.upd rfl ?_ ?_ ?_

theorem within_announceChange {S : List StatePart} {s0 : State} {sites : List Nat} {below : Bool} {reserves : Bool} {s : State}
    (hS : Covers S [.host, .ev, .fw, .hostMem])
    (hw : Within S s0 s) : Within S s0 (announceChange sites below reserves s) := by
  unfold announceChange
  repeat' first
    | with_reducible assumption
    | intro _
    | with_reducible refine within_raise (hS.mono (by decide)) ?_
    | with_reducible refine within_raise1 (hS.mono (by decide)) ?_
    | with_reducible refine Within.ite ?_ ?_
    | split
    | dsimp only

theorem within_recordChange {S : List StatePart} {s0 : State} {f : State → State} {s : State}
    (hS : Covers S [.fp, .host, .ev, .fw, .hostMem, .bootGeneration])
    (h_f : ∀ y0, Within S s0 y0 → Within S s0 (f y0))
    (hw : Within S s0 s) : Within S s0 (recordChange f s) := by
  unfold recordChange
  repeat' first
    | with_reducible assumption
    | (intro m; cases m; constructor <;> first | with_reducible assumption | (simp [modAt, copies, *]; done))
    | (intro (p : StatePart); cases p <;> first | exact Or.inl (hS.part (by decide)) | with_reducible exact Or.inr rfl | with_reducible exact Or.inr ⟨rfl, rfl⟩ | with_reducible exact Or.inr (Nat.le_refl _))
    | intro _
    | with_reducible refine h_f _ ?_
    | with_reducible refine within_announceChange (hS.mono (by decide)) ?_
    | with_reducible refine Within.ite ?_ ?_
    | split
    | dsimp only
    | with_reducible refine Within.upd rfl ?_ ?_ ?_

theorem within_oneChange {S : List StatePart} {s0 : State} {f : State → State} {s : State}
    (hS : Covers S [.fp, .host, .ev, .fw, .hostMem, .bootGeneration])
    (h_f : ∀ y0, Within S s0 y0 → Within S s0 (f y0))
    (hw : Within S s0 s) : Within S s0 (oneChange f s) := by
  unfold oneChange
  repeat' first
    | with_reducible assumption
    | (intro m; cases m; constructor <;> first | with_reducible assumption)
    | (intro (p : StatePart); cases p <;> first | exact Or.inl (hS.part (by decide)) | with_reducible exact Or.inr rfl | with_reducible exact Or.inr ⟨rfl, rfl⟩ | with_reducible exact Or.inr (Nat.le_refl _))
    | intro _
    | with_reducible refine h_f _ ?_
    | with_reducible refine within_recordChange (hS.mono (by decide)) ?_ ?_
    | split
    | dsimp only
    | with_reducible refine Within.upd rfl ?_ ?_ ?_

theorem within_recordFence {S : List StatePart} {s0 : State} {i : Nat} {f : HostFence} {s : State}
    (hS : Covers S [.bootFences])
    (hw : Within S s0 s) : Within S s0 (recordFence i f s) := by
  unfold recordFence
  repeat' first
    | with_reducible assumption
    | (intro m; cases m; constructor <;> first | with_reducible assumption | (refine keysRise_mapPut _ _ _ ?_; with_reducible assumption))
    | (intro (p : StatePart); cases p <;> first | exact Or.inl (hS.part (by decide)) | with_reducible exact Or.inr rfl | with_reducible exact Or.inr ⟨rfl, rfl⟩ | with_reducible exact Or.inr (Nat.le_refl _))
    | intro _
    | split
    | dsimp only
    | with_reducible refine Within.upd rfl ?_ ?_ ?_

theorem within_recordFailure {S : List StatePart} {s0 : State} {i : Nat} {reason : Nat} {s : State}
    (hS : Covers S [.bootFailures])
    (hw : Within S s0 s) : Within S s0 (recordFailure i reason s) := by
  unfold recordFailure
  repeat' first
    | with_reducible assumption
    | (intro m; cases m; constructor <;> first | with_reducible assumption | (refine keysRise_mapPut _ _ _ ?_; with_reducible assumption))
    | (intro (p : StatePart); cases p <;> first | exact Or.inl (hS.part (by decide)) | with_reducible exact Or.inr rfl | with_reducible exact Or.inr ⟨rfl, rfl⟩ | with_reducible exact Or.inr (Nat.le_refl _))
    | intro _
    | with_reducible refine Within.ite ?_ ?_
    | split
    | dsimp only
    | with_reducible refine Within.upd rfl ?_ ?_ ?_

theorem within_dropFailure {S : List StatePart} {s0 : State} {i : Nat} {s : State}
    (hS : Covers S [.bootFailures])
    (hw : Within S s0 s) : Within S s0 (dropFailure i s) := by
  unfold dropFailure
  repeat' first
    | with_reducible assumption
    | (intro m; cases m; constructor <;> first | with_reducible assumption | (refine keysRise_mapDel _ _ ?_; with_reducible assumption))
    | (intro (p : StatePart); cases p <;> first | exact Or.inl (hS.part (by decide)) | with_reducible exact Or.inr rfl | with_reducible exact Or.inr ⟨rfl, rfl⟩ | with_reducible exact Or.inr (Nat.le_refl _))
    | intro _
    | split
    | dsimp only
    | with_reducible refine Within.upd rfl ?_ ?_ ?_

theorem within_failEntry {S : List StatePart} {s0 : State} {i : Nat} {reason : Nat} {s : State}
    (hS : Covers S [.fp, .bootFailures])
    (hw : Within S s0 s) : Within S s0 (failEntry i reason s) := by
  unfold failEntry
  repeat' first
    | with_reducible assumption
    | intro _
    | with_reducible refine within_modEntry (hS.mono (by decide)) ?_
    | with_reducible refine within_recordFailure (hS.mono (by decide)) ?_
    | with_reducible refine Within.ite ?_ ?_
    | split
    | dsimp only

theorem within_failCore {S : List StatePart} {s0 : State} {k : Nat} {inj : Bool} {s : State}
    (hS : Covers S [.fp, .host, .ev, .fw, .err, .hostMem, .bootGeneration, .bootFailures, .bootLog])
    (hw : Within S s0 s) : Within S s0 (failCore k inj s) := by
  unfold failCore
  repeat' first
    | with_reducible assumption
    | intro _
    | with_reducible refine within_logAdd (hS.mono (by decide)) ?_
    | with_reducible refine within_modEntry (hS.mono (by decide)) ?_
    | with_reducible refine within_recordChange (hS.mono (by decide)) ?_ ?_
    | with_reducible refine within_recordFailure (hS.mono (by decide)) ?_
    | with_reducible refine Within.ite ?_ ?_
    | split
    | dsimp only

theorem within_faultDie {S : List StatePart} {s0 : State} {code : Nat} {i : Nat} {s : State}
    (hS : Covers S [.bays])
    (hw : Within S s0 s) : Within S s0 (faultDie code i s) := by
  unfold faultDie
  repeat' first
    | with_reducible assumption
    | intro _
    | with_reducible refine within_modBay (hS.mono (by decide)) ?_
    | with_reducible refine Within.foldl _ _ (fun s a h => ?_) ?_
    | with_reducible refine Within.foldl_fourth _ _ (fun r a h => ?_) ?_
    | with_reducible refine Within.foldl_third _ _ (fun r a h => ?_) ?_
    | with_reducible refine Within.foldl_snd _ _ (fun r a h => ?_) ?_
    | with_reducible refine Within.foldl_fst _ _ (fun r a h => ?_) ?_
    | split
    | dsimp only

end Sys2Proof.Laws
end

