-- ==== Sys2Proof/Laws/FrameCoreErrors.lean ====
section
/-! SUPPORT. What each operation of Machine/CoreErrors.lean may change. -/

set_option linter.unusedTactic false
set_option linter.unreachableTactic false
set_option linter.unusedVariables false
set_option linter.unusedSimpArgs false

namespace Sys2Proof.Laws

open Machine

theorem within_reportUncorrectable {S : List StatePart} {s0 : State} {r : LogRec} {s : State} {res : Option Nat}
    (hS : Covers S [.host, .ev, .fw, .err, .hostMem, .bootLog])
    (hw : Within S s0 s) : Within S s0 (reportUncorrectable r s res) := by
  unfold reportUncorrectable
  repeat' first
    | with_reducible assumption
    | intro _
    | with_reducible refine within_logAdd (hS.mono (by decide)) ?_
    | with_reducible refine within_raise (hS.mono (by decide)) ?_
    | with_reducible refine Within.ite ?_ ?_
    | split
    | dsimp only

theorem within_reportCorrected {S : List StatePart} {s0 : State} {site : Nat} {r : LogRec} {s : State}
    (hS : Covers S [.host, .ev, .fw, .err, .hostMem, .bootLog])
    (hw : Within S s0 s) : Within S s0 (reportCorrected site r s) := by
  unfold reportCorrected
  repeat' first
    | with_reducible assumption
    | intro _
    | with_reducible refine within_logAdd (hS.mono (by decide)) ?_
    | with_reducible refine within_scoreWear (hS.mono (by decide)) ?_
    | with_reducible refine Within.ite ?_ ?_
    | split
    | dsimp only

theorem within_coreError {S : List StatePart} {s0 : State} {k : Nat} {t : Nat} {cls : Nat} {unit : Nat} {off : Nat} {inj : Bool} {s : State}
    (hS : Covers S [.host, .ev, .fw, .err, .bays, .cores, .hostMem, .bootLog])
    (hw : Within S s0 s) : Within S s0 (coreError k t cls unit off inj s) := by
  unfold coreError
  repeat' first
    | with_reducible assumption
    | intro _
    | with_reducible refine within_faultCoreBay (hS.mono (by decide)) ?_
    | with_reducible refine within_modCore (hS.mono (by decide)) ?_
    | with_reducible refine within_reportUncorrectable (hS.mono (by decide)) ?_
    | split
    | dsimp only

theorem within_examineParity {S : List StatePart} {s0 : State} {k : Nat} {t : Nat} {store : Nat} {s : State}
    (hS : Covers S [.host, .ev, .fw, .err, .bays, .cores, .hostMem, .bootLog])
    (hw : Within S s0 s) : Within S s0 (examineParity k t store s) := by
  unfold examineParity
  repeat' first
    | with_reducible assumption
    | intro _
    | with_reducible refine within_coreError (hS.mono (by decide)) ?_
    | with_reducible refine within_examine (hS.mono (by decide)) ?_
    | with_reducible refine Within.ite ?_ ?_
    | split
    | dsimp only

theorem within_examineAcc {S : List StatePart} {s0 : State} {k : Nat} {t : Nat} {place : Nat} {s : State}
    (hS : Covers S [.host, .ev, .fw, .err, .bays, .cores, .hostMem, .bootLog])
    (hw : Within S s0 s) : Within S s0 (examineAcc k t place s) := by
  unfold examineAcc
  repeat' first
    | with_reducible assumption
    | intro _
    | with_reducible refine within_coreError (hS.mono (by decide)) ?_
    | with_reducible refine within_examine (hS.mono (by decide)) ?_
    | with_reducible refine Within.ite ?_ ?_
    | split
    | dsimp only

theorem within_examineItem {S : List StatePart} {s0 : State} {k : Nat} {t : Nat} {layer : Nat} {s : State}
    (hS : Covers S [.host, .ev, .fw, .err, .bays, .cores, .hostMem, .bootLog])
    (hw : Within S s0 s) : Within S s0 (examineItem k t layer s) := by
  unfold examineItem
  repeat' first
    | with_reducible assumption
    | intro _
    | with_reducible refine within_coreError (hS.mono (by decide)) ?_
    | with_reducible refine within_examine (hS.mono (by decide)) ?_
    | with_reducible refine Within.ite ?_ ?_
    | split
    | dsimp only

theorem within_examineXing {S : List StatePart} {s0 : State} {k : Nat} {t : Nat} {side : Nat} {s : State}
    (hS : Covers S [.host, .ev, .fw, .err, .bays, .cores, .hostMem, .bootLog])
    (hw : Within S s0 s) : Within S s0 (examineXing k t side s) := by
  unfold examineXing
  repeat' first
    | with_reducible assumption
    | intro _
    | with_reducible refine within_coreError (hS.mono (by decide)) ?_
    | with_reducible refine within_examine (hS.mono (by decide)) ?_
    | with_reducible refine Within.ite ?_ ?_
    | split
    | dsimp only

theorem within_suspectRow {S : List StatePart} {s0 : State} {k : Nat} {r : Nat} {s : State}
    (hS : Covers S [.cores])
    (hw : Within S s0 s) : Within S s0 (suspectRow k r s) := by
  unfold suspectRow
  repeat' first
    | with_reducible assumption
    | intro _
    | with_reducible refine within_modCore (hS.mono (by decide)) ?_
    | with_reducible refine Within.ite ?_ ?_
    | split
    | dsimp only

theorem within_examineRow {S : List StatePart} {s0 : State} {k : Nat} {d : Nat} {t : Nat} {s : State}
    (hS : Covers S [.host, .ev, .fw, .err, .bays, .cores, .hostMem, .bootLog])
    (hw : Within S s0 s) : Within S s0 (examineRow k d t s) := by
  unfold examineRow
  repeat' first
    | with_reducible assumption
    | intro _
    | with_reducible refine within_coreError (hS.mono (by decide)) ?_
    | with_reducible refine within_examineInj (hS.mono (by decide)) ?_
    | with_reducible refine within_reportCorrected (hS.mono (by decide)) ?_
    | with_reducible refine within_suspectRow (hS.mono (by decide)) ?_
    | split
    | dsimp only

theorem within_checkReads {S : List StatePart} {s0 : State} {k : Nat} {reads : List (Nat × Nat)} {s : State}
    (hS : Covers S [.host, .ev, .fw, .err, .bays, .cores, .hostMem, .bootLog])
    (hw : Within S s0 s) : Within S s0 (checkReads k reads s) := by
  unfold checkReads
  repeat' first
    | with_reducible assumption
    | intro _
    | with_reducible refine within_examineRow (hS.mono (by decide)) ?_
    | with_reducible refine Within.foldl _ _ (fun s a h => ?_) ?_
    | with_reducible refine Within.foldl_fourth _ _ (fun r a h => ?_) ?_
    | with_reducible refine Within.foldl_third _ _ (fun r a h => ?_) ?_
    | with_reducible refine Within.foldl_snd _ _ (fun r a h => ?_) ?_
    | with_reducible refine Within.foldl_fst _ _ (fun r a h => ?_) ?_
    | split
    | dsimp only

end Sys2Proof.Laws
end

