-- ==== Sys2Proof/Laws/FrameBayOps.lean ====
section
/-! SUPPORT. What each operation of Machine/BayOps.lean may change. -/

set_option linter.unusedTactic false
set_option linter.unreachableTactic false
set_option linter.unusedVariables false
set_option linter.unusedSimpArgs false

namespace Sys2Proof.Laws

open Machine

theorem within_settleBoost {S : List StatePart} {s0 : State} {s : State}
    (hS : Covers S [.bays])
    (hw : Within S s0 s) : Within S s0 (settleBoost s) := by
  unfold settleBoost
  repeat' first
    | with_reducible assumption
    | (intro m; constructor <;> first | with_reducible exact m.mem | with_reducible exact m.hostMem | with_reducible exact m.storeMem | with_reducible exact m.entries | with_reducible exact m.parts | with_reducible exact m.quads | with_reducible exact m.cores | with_reducible exact m.bays | with_reducible exact m.sites | with_reducible exact m.hot | with_reducible exact m.procs | with_reducible exact m.wear | with_reducible exact m.bootWear | with_reducible exact m.missed | with_reducible exact m.hops | with_reducible exact m.ports | with_reducible exact m.hbms | with_reducible exact m.bufs | with_reducible exact m.store | with_reducible exact m.engines | with_reducible exact m.links | with_reducible exact m.queues | with_reducible exact m.failures | with_reducible exact m.retests | (refine keysRise_of_keys ?_ m.bays; simp [Function.comp_def]; done))
    | (intro (p : StatePart); cases p <;> first | exact Or.inl (hS.part (by decide)) | with_reducible exact Or.inr rfl | with_reducible exact Or.inr ⟨rfl, rfl⟩ | with_reducible exact Or.inr (Nat.le_refl _))
    | intro _
    | split
    | dsimp only
    | with_reducible refine Within.upd rfl ?_ ?_ ?_

theorem within_modCores {S : List StatePart} {s0 : State} {b : Bay} {f : Core → Core} {s : State}
    (hS : Covers S [.cores])
    (hw : Within S s0 s) : Within S s0 (modCores b f s) := by
  unfold modCores
  repeat' first
    | with_reducible assumption
    | intro _
    | with_reducible refine within_modCore (hS.mono (by decide)) ?_
    | with_reducible refine Within.foldl _ _ (fun s a h => ?_) ?_
    | with_reducible refine Within.foldl_fourth _ _ (fun r a h => ?_) ?_
    | with_reducible refine Within.foldl_third _ _ (fun r a h => ?_) ?_
    | with_reducible refine Within.foldl_snd _ _ (fun r a h => ?_) ?_
    | with_reducible refine Within.foldl_fst _ _ (fun r a h => ?_) ?_
    | split
    | dsimp only

theorem within_wakeRows {S : List StatePart} {s0 : State} {i : Nat} {s : State}
    (hS : Covers S [.cores])
    (hw : Within S s0 s) : Within S s0 (wakeRows i s) := by
  unfold wakeRows
  repeat' first
    | with_reducible assumption
    | intro _
    | with_reducible refine within_modCores (hS.mono (by decide)) ?_
    | with_reducible refine Within.ite ?_ ?_
    | split
    | dsimp only

theorem within_claimCond {S : List StatePart} {s0 : State} {cond : HoldCond} {s : State}
    (hS : Covers S [.cores, .xings])
    (hw : Within S s0 s) : Within S s0 (claimCond cond s) := by
  unfold claimCond
  repeat' first
    | with_reducible assumption
    | intro _
    | with_reducible refine within_modCore (hS.mono (by decide)) ?_
    | with_reducible refine within_modXingIn (hS.mono (by decide)) ?_
    | with_reducible refine within_modXingOut (hS.mono (by decide)) ?_
    | with_reducible refine Within.ite ?_ ?_
    | split
    | dsimp only

theorem within_evalConds {S : List StatePart} {s0 : State} {i : Nat} {x0 : List HoldCond} {x1 : State}
    (hS : Covers S [.cores, .xings])
    (hw : Within S s0 x1) : Within S s0 (evalConds i x0 x1).2 := by
  induction x0 generalizing x1 with
  | nil =>
    rw [evalConds]
    repeat' first
      | with_reducible assumption
      | intro _
      | with_reducible refine within_claimCond (hS.mono (by decide)) ?_
      | with_reducible refine Within.ite ?_ ?_
      | split
      | dsimp only
  | cons x l ih =>
    rw [evalConds]
    repeat' first
      | with_reducible assumption
      | with_reducible refine ih ?_
      | intro _
      | with_reducible refine within_claimCond (hS.mono (by decide)) ?_
      | with_reducible refine Within.ite ?_ ?_
      | split
      | dsimp only

theorem within_settleHold {S : List StatePart} {s0 : State} {i : Nat} {s : State}
    (hS : Covers S [.bays, .cores, .xings])
    (hw : Within S s0 s) : Within S s0 (settleHold i s) := by
  unfold settleHold
  repeat' first
    | with_reducible assumption
    | intro _
    | with_reducible refine within_evalConds (hS.mono (by decide)) ?_
    | with_reducible refine within_modBay (hS.mono (by decide)) ?_
    | with_reducible refine Within.ite ?_ ?_
    | split
    | dsimp only

theorem within_settleHolds {S : List StatePart} {s0 : State} {s : State}
    (hS : Covers S [.bays, .cores, .xings])
    (hw : Within S s0 s) : Within S s0 (settleHolds s) := by
  unfold settleHolds
  repeat' first
    | with_reducible assumption
    | intro _
    | with_reducible refine within_settleHold (hS.mono (by decide)) ?_
    | with_reducible refine Within.foldl _ _ (fun s a h => ?_) ?_
    | with_reducible refine Within.foldl_fourth _ _ (fun r a h => ?_) ?_
    | with_reducible refine Within.foldl_third _ _ (fun r a h => ?_) ?_
    | with_reducible refine Within.foldl_snd _ _ (fun r a h => ?_) ?_
    | with_reducible refine Within.foldl_fst _ _ (fun r a h => ?_) ?_
    | split
    | dsimp only

theorem within_modXings {S : List StatePart} {s0 : State} {p : Crossing → Bool} {f : Crossing → Crossing} {s : State}
    (hS : Covers S [.xings])
    (hw : Within S s0 s) : Within S s0 (modXings p f s) := by
  unfold modXings
  repeat' first
    | with_reducible assumption
    | (intro m; cases m; constructor <;> first | with_reducible assumption)
    | (intro (p : StatePart); cases p <;> first | exact Or.inl (hS.part (by decide)) | with_reducible exact Or.inr rfl | with_reducible exact Or.inr ⟨rfl, rfl⟩ | with_reducible exact Or.inr (Nat.le_refl _))
    | intro _
    | with_reducible refine Within.ite ?_ ?_
    | split
    | dsimp only
    | with_reducible refine Within.upd rfl ?_ ?_ ?_

theorem within_closeXings {S : List StatePart} {s0 : State} {b : Bay} {s : State}
    (hS : Covers S [.xings])
    (hw : Within S s0 s) : Within S s0 (closeXings b s) := by
  unfold closeXings
  repeat' first
    | with_reducible assumption
    | intro _
    | with_reducible refine within_modXings (hS.mono (by decide)) ?_
    | with_reducible refine Within.ite ?_ ?_
    | split
    | dsimp only

theorem within_countStale {S : List StatePart} {s0 : State} {k : Nat} {n : Nat} {s : State}
    (hS : Covers S [.cores])
    (hw : Within S s0 s) : Within S s0 (countStale k n s) := by
  unfold countStale
  repeat' first
    | with_reducible assumption
    | intro _
    | with_reducible refine within_modCore (hS.mono (by decide)) ?_
    | split
    | dsimp only

theorem within_openXings {S : List StatePart} {s0 : State} {b : Bay} {s : State}
    (hS : Covers S [.cores, .xings])
    (hw : Within S s0 s) : Within S s0 (openXings b s) := by
  unfold openXings
  repeat' first
    | with_reducible assumption
    | intro _
    | with_reducible refine within_countStale (hS.mono (by decide)) ?_
    | with_reducible refine within_modXings (hS.mono (by decide)) ?_
    | with_reducible refine Within.foldl _ _ (fun s a h => ?_) ?_
    | with_reducible refine Within.foldl_fourth _ _ (fun r a h => ?_) ?_
    | with_reducible refine Within.foldl_third _ _ (fun r a h => ?_) ?_
    | with_reducible refine Within.foldl_snd _ _ (fun r a h => ?_) ?_
    | with_reducible refine Within.foldl_fst _ _ (fun r a h => ?_) ?_
    | split
    | dsimp only

theorem within_dropXings {S : List StatePart} {s0 : State} {b : Bay} {s : State}
    (hS : Covers S [.xings])
    (hw : Within S s0 s) : Within S s0 (dropXings b s) := by
  unfold dropXings
  repeat' first
    | with_reducible assumption
    | intro _
    | with_reducible refine within_modXings (hS.mono (by decide)) ?_
    | with_reducible refine Within.ite ?_ ?_
    | split
    | dsimp only

theorem within_dropChange {S : List StatePart} {s0 : State} {i : Nat} {status : Nat} {s : State}
    (hS : Covers S [.host, .inProgress, .mgmt, .bays, .hostMem])
    (hw : Within S s0 s) : Within S s0 (dropChange i status s) := by
  unfold dropChange
  repeat' first
    | with_reducible assumption
    | intro _
    | with_reducible refine within_complete (hS.mono (by decide)) ?_
    | with_reducible refine within_setBay (hS.mono (by decide)) ?_
    | split
    | dsimp only

theorem within_stopEpoch {S : List StatePart} {s0 : State} {i : Nat} {s : State}
    (hS : Covers S [.bays, .cores])
    (hw : Within S s0 s) : Within S s0 (stopEpoch i s) := by
  unfold stopEpoch
  repeat' first
    | with_reducible assumption
    | intro _
    | with_reducible refine within_modCores (hS.mono (by decide)) ?_
    | with_reducible refine within_setBay (hS.mono (by decide)) ?_
    | with_reducible refine Within.foldl _ _ (fun s a h => ?_) ?_
    | with_reducible refine Within.foldl_fourth _ _ (fun r a h => ?_) ?_
    | with_reducible refine Within.foldl_third _ _ (fun r a h => ?_) ?_
    | with_reducible refine Within.foldl_snd _ _ (fun r a h => ?_) ?_
    | with_reducible refine Within.foldl_fst _ _ (fun r a h => ?_) ?_
    | split
    | dsimp only

theorem within_abandonAccess {S : List StatePart} {s0 : State} {b : Bay} {s : State}
    (hS : Covers S [.cores])
    (hw : Within S s0 s) : Within S s0 (abandonAccess b s) := by
  unfold abandonAccess
  repeat' first
    | with_reducible assumption
    | intro _
    | with_reducible refine within_modCores (hS.mono (by decide)) ?_
    | split
    | dsimp only

theorem within_beginStop {S : List StatePart} {s0 : State} {i : Nat} {b : Bay} {c : Option Cmd} {atMark : Bool} {image : Option (Nat × Nat)} {s : State}
    (hS : Covers S [.host, .inProgress, .mgmt, .bays, .hostMem])
    (hw : Within S s0 s) : Within S s0 (beginStop i b c atMark image s) := by
  unfold beginStop
  repeat' first
    | with_reducible assumption
    | intro _
    | with_reducible refine within_completeOpt (hS.mono (by decide)) ?_
    | with_reducible refine within_setBay (hS.mono (by decide)) ?_
    | split
    | dsimp only

theorem within_autoStop {S : List StatePart} {s0 : State} {i : Nat} {s : State}
    (hS : Covers S [.host, .inProgress, .mgmt, .bays, .hostMem])
    (hw : Within S s0 s) : Within S s0 (autoStop i s) := by
  unfold autoStop
  repeat' first
    | with_reducible assumption
    | intro _
    | with_reducible refine within_beginStop (hS.mono (by decide)) ?_
    | with_reducible refine Within.ite ?_ ?_
    | split
    | dsimp only

theorem within_enterFaultHold {S : List StatePart} {s0 : State} {i : Nat} {s : State}
    (hS : Covers S [.host, .inProgress, .mgmt, .ev, .fw, .bays, .cores, .hostMem])
    (hw : Within S s0 s) : Within S s0 (enterFaultHold i s) := by
  unfold enterFaultHold
  repeat' first
    | with_reducible assumption
    | intro _
    | with_reducible refine within_autoStop (hS.mono (by decide)) ?_
    | with_reducible refine within_completeOpt (hS.mono (by decide)) ?_
    | with_reducible refine within_dropChange (hS.mono (by decide)) ?_
    | with_reducible refine within_modCores (hS.mono (by decide)) ?_
    | with_reducible refine within_raise1 (hS.mono (by decide)) ?_
    | with_reducible refine within_setBay (hS.mono (by decide)) ?_
    | with_reducible refine Within.ite ?_ ?_
    | split
    | dsimp only

theorem within_bayRun {S : List StatePart} {s0 : State} {f : BayForm} {states : List BayMode} {extra : Nat → Bay → State → List (Bool × Nat)} {eff : Nat → Bay → State → State} {c : Cmd} {pay : List Byte} {s : State}
    (hS : Covers S [.host, .inProgress, .mgmt, .fw, .hostMem])
    (h_eff : ∀ y0 y1 y2, Within S s0 y2 → Within S s0 (eff y0 y1 y2))
    (hw : Within S s0 s) : Within S s0 (bayRun f states extra eff c pay s) := by
  unfold bayRun
  repeat' first
    | with_reducible assumption
    | intro _
    | with_reducible refine h_eff _ _ _ ?_
    | with_reducible refine within_checked (hS.mono (by decide)) ?_ ?_
    | with_reducible refine within_failCmd (hS.mono (by decide)) ?_
    | with_reducible refine within_needProcs (hS.mono (by decide)) ?_ ?_
    | with_reducible refine Within.ite ?_ ?_
    | split
    | dsimp only

end Sys2Proof.Laws
end

