-- ==== Sys2Proof/Laws/FrameBay.lean ====
section
/-! SUPPORT. What each operation of Machine/Bay.lean may change. -/

set_option linter.unusedTactic false
set_option linter.unreachableTactic false
set_option linter.unusedVariables false
set_option linter.unusedSimpArgs false

namespace Sys2Proof.Laws

open Machine

theorem within_bayEvent {S : List StatePart} {s0 : State} {b : BayId} {time : Nat} {due : Bay → State → Bool} {eff : Bay → State → State} {s : State}
    (hS : Covers S [.now])
    (h_eff : ∀ y0 y1, Within S s0 y1 → Within S s0 (eff y0 y1))
    (hw : Within S s0 s) : OutWithin S s0 (bayEvent b time due eff s) := by
  unfold bayEvent
  repeat' first
    | with_reducible assumption
    | intro _
    | with_reducible refine h_eff _ _ ?_
    | with_reducible refine within_atTime (hS.mono (by decide)) ?_
    | with_reducible refine OutWithin.next ?_
    | exact OutWithin.fault _ _ _
    | with_reducible refine OutWithin.ite ?_ ?_
    | with_reducible refine Within.ite ?_ ?_
    | split
    | dsimp only

theorem within_execBayFreeze {S : List StatePart} {s0 : State} {b : BayId} {time : Nat} {s : State}
    (hS : Covers S [.now, .bays, .cores, .xings])
    (hw : Within S s0 s) : OutWithin S s0 (execBayFreeze b time s) := by
  unfold execBayFreeze
  repeat' first
    | with_reducible assumption
    | intro _
    | with_reducible refine within_bayEvent (hS.mono (by decide)) ?_ ?_
    | with_reducible refine within_setBay (hS.mono (by decide)) ?_
    | with_reducible refine within_settleHold (hS.mono (by decide)) ?_
    | with_reducible refine OutWithin.next ?_
    | exact OutWithin.fault _ _ _
    | split
    | dsimp only

theorem within_resumeBay {S : List StatePart} {s0 : State} {i : Nat} {b : Bay} {s : State}
    (hS : Covers S [.bays, .cores, .xings])
    (hw : Within S s0 s) : Within S s0 (resumeBay i b s) := by
  unfold resumeBay
  repeat' first
    | with_reducible assumption
    | intro _
    | with_reducible refine within_evalConds (hS.mono (by decide)) ?_
    | with_reducible refine within_modBay (hS.mono (by decide)) ?_
    | with_reducible refine within_wakeRows (hS.mono (by decide)) ?_
    | with_reducible refine Within.ite ?_ ?_
    | split
    | dsimp only

theorem within_execBayResume {S : List StatePart} {s0 : State} {b : BayId} {time : Nat} {s : State}
    (hS : Covers S [.now, .bays, .cores, .xings])
    (hw : Within S s0 s) : OutWithin S s0 (execBayResume b time s) := by
  unfold execBayResume
  repeat' first
    | with_reducible assumption
    | intro _
    | with_reducible refine within_bayEvent (hS.mono (by decide)) ?_ ?_
    | with_reducible refine within_resumeBay (hS.mono (by decide)) ?_
    | with_reducible refine OutWithin.next ?_
    | exact OutWithin.fault _ _ _
    | split
    | dsimp only

theorem within_bankStall {S : List StatePart} {s0 : State} {i : Nat} {p : BankHoldPlan} {s : State}
    (hS : Covers S [.bays, .cores])
    (hw : Within S s0 s) : Within S s0 (bankStall i p s) := by
  unfold bankStall
  repeat' first
    | with_reducible assumption
    | intro _
    | with_reducible refine within_modCore (hS.mono (by decide)) ?_
    | with_reducible refine within_setBay (hS.mono (by decide)) ?_
    | with_reducible refine Within.ite ?_ ?_
    | split
    | dsimp only

theorem within_execBankHold {S : List StatePart} {s0 : State} {k : CoreId} {t : Nat} {s : State}
    (hS : Covers S [.bays, .cores, .xings])
    (hw : Within S s0 s) : OutWithin S s0 (execBankHold k t s) := by
  unfold execBankHold
  repeat' first
    | with_reducible assumption
    | intro _
    | with_reducible refine within_bankStall (hS.mono (by decide)) ?_
    | with_reducible refine within_setBay (hS.mono (by decide)) ?_
    | with_reducible refine within_settleHold (hS.mono (by decide)) ?_
    | with_reducible refine OutWithin.next ?_
    | exact OutWithin.fault _ _ _
    | with_reducible refine Within.foldl _ _ (fun s a h => ?_) ?_
    | with_reducible refine Within.foldl_fourth _ _ (fun r a h => ?_) ?_
    | with_reducible refine Within.foldl_third _ _ (fun r a h => ?_) ?_
    | with_reducible refine Within.foldl_snd _ _ (fun r a h => ?_) ?_
    | with_reducible refine Within.foldl_fst _ _ (fun r a h => ?_) ?_
    | with_reducible refine OutWithin.ite ?_ ?_
    | with_reducible refine Within.ite ?_ ?_
    | split
    | dsimp only

theorem within_execDroop {S : List StatePart} {s0 : State} {k : CoreId} {t : Nat} {level : Fin 4} {s : State}
    (hS : Covers S [.bays])
    (hw : Within S s0 s) : OutWithin S s0 (execDroop k t level s) := by
  unfold execDroop
  repeat' first
    | with_reducible assumption
    | intro _
    | with_reducible refine within_setBay (hS.mono (by decide)) ?_
    | with_reducible refine OutWithin.next ?_
    | exact OutWithin.fault _ _ _
    | with_reducible refine Within.foldl _ _ (fun s a h => ?_) ?_
    | with_reducible refine Within.foldl_fourth _ _ (fun r a h => ?_) ?_
    | with_reducible refine Within.foldl_third _ _ (fun r a h => ?_) ?_
    | with_reducible refine Within.foldl_snd _ _ (fun r a h => ?_) ?_
    | with_reducible refine Within.foldl_fst _ _ (fun r a h => ?_) ?_
    | with_reducible refine OutWithin.ite ?_ ?_
    | with_reducible refine Within.ite ?_ ?_
    | split
    | dsimp only

theorem within_doBayHold {S : List StatePart} {s0 : State} {c : Cmd} {pay : List Byte} {s : State}
    (hS : Covers S [.host, .inProgress, .mgmt, .fw, .bays, .hostMem])
    (hw : Within S s0 s) : Within S s0 (doBayHold c pay s) := by
  unfold doBayHold
  repeat' first
    | with_reducible assumption
    | intro _
    | with_reducible refine within_bayRun (hS.mono (by decide)) ?_ ?_
    | with_reducible refine within_complete (hS.mono (by decide)) ?_
    | with_reducible refine within_setBay (hS.mono (by decide)) ?_
    | split
    | dsimp only

theorem within_execBayHold {S : List StatePart} {s0 : State} {c : Cmd} {s : State}
    (hS : Covers S [.now, .host, .inProgress, .mgmt, .fw, .bays, .hostMem])
    (hw : Within S s0 s) : OutWithin S s0 (execBayHold c s) := by
  unfold execBayHold
  repeat' first
    | with_reducible assumption
    | intro _
    | with_reducible refine within_doBayHold (hS.mono (by decide)) ?_
    | with_reducible refine within_runRow (hS.mono (by decide)) ?_ ?_
    | with_reducible refine OutWithin.next ?_
    | exact OutWithin.fault _ _ _
    | split
    | dsimp only

theorem within_doBayRelease {S : List StatePart} {s0 : State} {c : Cmd} {pay : List Byte} {s : State}
    (hS : Covers S [.host, .inProgress, .mgmt, .fw, .bays, .hostMem])
    (hw : Within S s0 s) : Within S s0 (doBayRelease c pay s) := by
  unfold doBayRelease
  repeat' first
    | with_reducible assumption
    | intro _
    | with_reducible refine within_bayRun (hS.mono (by decide)) ?_ ?_
    | with_reducible refine within_complete (hS.mono (by decide)) ?_
    | with_reducible refine within_setBay (hS.mono (by decide)) ?_
    | split
    | dsimp only

theorem within_execBayRelease {S : List StatePart} {s0 : State} {c : Cmd} {s : State}
    (hS : Covers S [.now, .host, .inProgress, .mgmt, .fw, .bays, .hostMem])
    (hw : Within S s0 s) : OutWithin S s0 (execBayRelease c s) := by
  unfold execBayRelease
  repeat' first
    | with_reducible assumption
    | intro _
    | with_reducible refine within_doBayRelease (hS.mono (by decide)) ?_
    | with_reducible refine within_runRow (hS.mono (by decide)) ?_ ?_
    | with_reducible refine OutWithin.next ?_
    | exact OutWithin.fault _ _ _
    | split
    | dsimp only

theorem within_execBayHeldLong {S : List StatePart} {s0 : State} {b : BayId} {time : Nat} {s : State}
    (hS : Covers S [.now, .host, .ev, .fw, .bays, .hostMem])
    (hw : Within S s0 s) : OutWithin S s0 (execBayHeldLong b time s) := by
  unfold execBayHeldLong
  repeat' first
    | with_reducible assumption
    | intro _
    | with_reducible refine within_bayEvent (hS.mono (by decide)) ?_ ?_
    | with_reducible refine within_raise1 (hS.mono (by decide)) ?_
    | with_reducible refine within_setBay (hS.mono (by decide)) ?_
    | with_reducible refine OutWithin.next ?_
    | exact OutWithin.fault _ _ _
    | split
    | dsimp only

theorem within_doBayStart {S : List StatePart} {s0 : State} {c : Cmd} {pay : List Byte} {s : State}
    (hS : Covers S [.host, .inProgress, .mgmt, .fw, .bays, .cores, .hostMem])
    (hw : Within S s0 s) : Within S s0 (doBayStart c pay s) := by
  unfold doBayStart
  repeat' first
    | with_reducible assumption
    | intro _
    | with_reducible refine within_bayRun (hS.mono (by decide)) ?_ ?_
    | with_reducible refine within_complete (hS.mono (by decide)) ?_
    | with_reducible refine within_modBay (hS.mono (by decide)) ?_
    | with_reducible refine within_modCore (hS.mono (by decide)) ?_
    | with_reducible refine Within.foldl _ _ (fun s a h => ?_) ?_
    | with_reducible refine Within.foldl_fourth _ _ (fun r a h => ?_) ?_
    | with_reducible refine Within.foldl_third _ _ (fun r a h => ?_) ?_
    | with_reducible refine Within.foldl_snd _ _ (fun r a h => ?_) ?_
    | with_reducible refine Within.foldl_fst _ _ (fun r a h => ?_) ?_
    | split
    | dsimp only

theorem within_execBayStart {S : List StatePart} {s0 : State} {c : Cmd} {s : State}
    (hS : Covers S [.now, .host, .inProgress, .mgmt, .fw, .bays, .cores, .hostMem])
    (hw : Within S s0 s) : OutWithin S s0 (execBayStart c s) := by
  unfold execBayStart
  repeat' first
    | with_reducible assumption
    | intro _
    | with_reducible refine within_doBayStart (hS.mono (by decide)) ?_
    | with_reducible refine within_runRow (hS.mono (by decide)) ?_ ?_
    | with_reducible refine OutWithin.next ?_
    | exact OutWithin.fault _ _ _
    | split
    | dsimp only

theorem within_execBoostConditionLost {S : List StatePart} {s0 : State} {b : BayId} {time : Nat} {s : State}
    (hS : Covers S [.now, .host, .ev, .fw, .bays, .hostMem])
    (hw : Within S s0 s) : OutWithin S s0 (execBoostConditionLost b time s) := by
  unfold execBoostConditionLost
  repeat' first
    | with_reducible assumption
    | intro _
    | with_reducible refine within_bayEvent (hS.mono (by decide)) ?_ ?_
    | with_reducible refine within_raise1 (hS.mono (by decide)) ?_
    | with_reducible refine within_setBay (hS.mono (by decide)) ?_
    | with_reducible refine OutWithin.next ?_
    | exact OutWithin.fault _ _ _
    | with_reducible refine OutWithin.ite ?_ ?_
    | with_reducible refine Within.ite ?_ ?_
    | split
    | dsimp only

theorem within_doBaySetPoint {S : List StatePart} {s0 : State} {c : Cmd} {pay : List Byte} {s : State}
    (hS : Covers S [.host, .inProgress, .mgmt, .fw, .bays, .hostMem])
    (hw : Within S s0 s) : Within S s0 (doBaySetPoint c pay s) := by
  unfold doBaySetPoint
  repeat' first
    | with_reducible assumption
    | intro _
    | with_reducible refine within_bayRun (hS.mono (by decide)) ?_ ?_
    | with_reducible refine within_setBay (hS.mono (by decide)) ?_
    | with_reducible refine Within.ite ?_ ?_
    | split
    | dsimp only

theorem within_execBaySetPoint {S : List StatePart} {s0 : State} {c : Cmd} {s : State}
    (hS : Covers S [.now, .host, .inProgress, .mgmt, .fw, .bays, .hostMem])
    (hw : Within S s0 s) : OutWithin S s0 (execBaySetPoint c s) := by
  unfold execBaySetPoint
  repeat' first
    | with_reducible assumption
    | intro _
    | with_reducible refine within_doBaySetPoint (hS.mono (by decide)) ?_
    | with_reducible refine within_runRow (hS.mono (by decide)) ?_ ?_
    | with_reducible refine OutWithin.next ?_
    | exact OutWithin.fault _ _ _
    | split
    | dsimp only

theorem within_execRailRaised {S : List StatePart} {s0 : State} {b : BayId} {time : Nat} {s : State}
    (hS : Covers S [.now, .bays])
    (hw : Within S s0 s) : OutWithin S s0 (execRailRaised b time s) := by
  unfold execRailRaised
  repeat' first
    | with_reducible assumption
    | intro _
    | with_reducible refine within_bayEvent (hS.mono (by decide)) ?_ ?_
    | with_reducible refine within_setBay (hS.mono (by decide)) ?_
    | with_reducible refine OutWithin.next ?_
    | exact OutWithin.fault _ _ _
    | split
    | dsimp only

theorem within_execPointStop {S : List StatePart} {s0 : State} {b : BayId} {time : Nat} {s : State}
    (hS : Covers S [.now, .bays])
    (hw : Within S s0 s) : OutWithin S s0 (execPointStop b time s) := by
  unfold execPointStop
  repeat' first
    | with_reducible assumption
    | intro _
    | with_reducible refine within_bayEvent (hS.mono (by decide)) ?_ ?_
    | with_reducible refine within_setBay (hS.mono (by decide)) ?_
    | with_reducible refine OutWithin.next ?_
    | exact OutWithin.fault _ _ _
    | split
    | dsimp only

theorem within_relockStopped {S : List StatePart} {s0 : State} {i : Nat} {x : Bay} {p : PointChange} {s : State}
    (hS : Covers S [.host, .inProgress, .mgmt, .ev, .fw, .bays, .cores, .xings, .hostMem])
    (hw : Within S s0 s) : Within S s0 (relockStopped i x p s) := by
  unfold relockStopped
  repeat' first
    | with_reducible assumption
    | intro _
    | with_reducible refine within_autoStop (hS.mono (by decide)) ?_
    | with_reducible refine within_complete (hS.mono (by decide)) ?_
    | with_reducible refine within_enterFaultHold (hS.mono (by decide)) ?_
    | with_reducible refine within_setBay (hS.mono (by decide)) ?_
    | with_reducible refine within_settleHold (hS.mono (by decide)) ?_
    | with_reducible refine Within.ite ?_ ?_
    | split
    | dsimp only

theorem within_relockLoaded {S : List StatePart} {s0 : State} {i : Nat} {x : Bay} {p : PointChange} {s : State}
    (hS : Covers S [.host, .inProgress, .mgmt, .bays, .hostMem])
    (hw : Within S s0 s) : Within S s0 (relockLoaded i x p s) := by
  unfold relockLoaded
  repeat' first
    | with_reducible assumption
    | intro _
    | with_reducible refine within_complete (hS.mono (by decide)) ?_
    | with_reducible refine within_setBay (hS.mono (by decide)) ?_
    | with_reducible refine Within.ite ?_ ?_
    | split
    | dsimp only

theorem within_execRelockEnd {S : List StatePart} {s0 : State} {b : BayId} {time : Nat} {s : State}
    (hS : Covers S [.now, .host, .inProgress, .mgmt, .ev, .fw, .bays, .cores, .xings, .hostMem])
    (hw : Within S s0 s) : OutWithin S s0 (execRelockEnd b time s) := by
  unfold execRelockEnd
  repeat' first
    | with_reducible assumption
    | intro _
    | with_reducible refine within_bayEvent (hS.mono (by decide)) ?_ ?_
    | with_reducible refine within_relockLoaded (hS.mono (by decide)) ?_
    | with_reducible refine within_relockStopped (hS.mono (by decide)) ?_
    | with_reducible refine OutWithin.next ?_
    | exact OutWithin.fault _ _ _
    | with_reducible refine OutWithin.ite ?_ ?_
    | with_reducible refine Within.ite ?_ ?_
    | split
    | dsimp only

theorem within_doBayStop {S : List StatePart} {s0 : State} {c : Cmd} {pay : List Byte} {s : State}
    (hS : Covers S [.host, .inProgress, .mgmt, .fw, .bays, .hostMem])
    (hw : Within S s0 s) : Within S s0 (doBayStop c pay s) := by
  unfold doBayStop
  repeat' first
    | with_reducible assumption
    | intro _
    | with_reducible refine within_bayRun (hS.mono (by decide)) ?_ ?_
    | with_reducible refine within_beginStop (hS.mono (by decide)) ?_
    | split
    | dsimp only

theorem within_execBayStop {S : List StatePart} {s0 : State} {c : Cmd} {s : State}
    (hS : Covers S [.now, .host, .inProgress, .mgmt, .fw, .bays, .hostMem])
    (hw : Within S s0 s) : OutWithin S s0 (execBayStop c s) := by
  unfold execBayStop
  repeat' first
    | with_reducible assumption
    | intro _
    | with_reducible refine within_doBayStop (hS.mono (by decide)) ?_
    | with_reducible refine within_runRow (hS.mono (by decide)) ?_ ?_
    | with_reducible refine OutWithin.next ?_
    | exact OutWithin.fault _ _ _
    | split
    | dsimp only

theorem within_execStopCycle {S : List StatePart} {s0 : State} {b : BayId} {time : Nat} {s : State}
    (hS : Covers S [.now, .host, .inProgress, .mgmt, .bays, .cores, .xings, .hostMem])
    (hw : Within S s0 s) : OutWithin S s0 (execStopCycle b time s) := by
  unfold execStopCycle
  repeat' first
    | with_reducible assumption
    | intro _
    | with_reducible refine within_bayEvent (hS.mono (by decide)) ?_ ?_
    | with_reducible refine within_closeXings (hS.mono (by decide)) ?_
    | with_reducible refine within_dropChange (hS.mono (by decide)) ?_
    | with_reducible refine within_modBay (hS.mono (by decide)) ?_
    | with_reducible refine within_modCores (hS.mono (by decide)) ?_
    | with_reducible refine within_wakeRows (hS.mono (by decide)) ?_
    | with_reducible refine OutWithin.next ?_
    | exact OutWithin.fault _ _ _
    | split
    | dsimp only

theorem within_execBayDone {S : List StatePart} {s0 : State} {b : BayId} {time : Nat} {s : State}
    (hS : Covers S [.now, .host, .inProgress, .mgmt, .ev, .fw, .bays, .cores, .hostMem])
    (hw : Within S s0 s) : OutWithin S s0 (execBayDone b time s) := by
  unfold execBayDone
  repeat' first
    | with_reducible assumption
    | intro _
    | with_reducible refine within_bayEvent (hS.mono (by decide)) ?_ ?_
    | with_reducible refine within_dropChange (hS.mono (by decide)) ?_
    | with_reducible refine within_modBay (hS.mono (by decide)) ?_
    | with_reducible refine within_modCores (hS.mono (by decide)) ?_
    | with_reducible refine within_raise1 (hS.mono (by decide)) ?_
    | with_reducible refine OutWithin.next ?_
    | exact OutWithin.fault _ _ _
    | split
    | dsimp only

theorem within_execFaultHold {S : List StatePart} {s0 : State} {b : BayId} {time : Nat} {s : State}
    (hS : Covers S [.now, .host, .inProgress, .mgmt, .ev, .fw, .bays, .cores, .hostMem])
    (hw : Within S s0 s) : OutWithin S s0 (execFaultHold b time s) := by
  unfold execFaultHold
  repeat' first
    | with_reducible assumption
    | intro _
    | with_reducible refine within_bayEvent (hS.mono (by decide)) ?_ ?_
    | with_reducible refine within_enterFaultHold (hS.mono (by decide)) ?_
    | with_reducible refine OutWithin.next ?_
    | exact OutWithin.fault _ _ _
    | split
    | dsimp only

theorem within_doBayStatus {S : List StatePart} {s0 : State} {c : Cmd} {pay : List Byte} {s : State}
    (hS : Covers S [.host, .inProgress, .mgmt, .fw, .cores, .hostMem])
    (hw : Within S s0 s) : Within S s0 (doBayStatus c pay s) := by
  unfold doBayStatus
  repeat' first
    | with_reducible assumption
    | intro _
    | with_reducible refine within_bayRun (hS.mono (by decide)) ?_ ?_
    | with_reducible refine within_completeWithBuf (hS.mono (by decide)) ?_
    | with_reducible refine within_modCores (hS.mono (by decide)) ?_
    | split
    | dsimp only

theorem within_execBayStatus {S : List StatePart} {s0 : State} {c : Cmd} {s : State}
    (hS : Covers S [.now, .host, .inProgress, .mgmt, .fw, .cores, .hostMem])
    (hw : Within S s0 s) : OutWithin S s0 (execBayStatus c s) := by
  unfold execBayStatus
  repeat' first
    | with_reducible assumption
    | intro _
    | with_reducible refine within_doBayStatus (hS.mono (by decide)) ?_
    | with_reducible refine within_runRow (hS.mono (by decide)) ?_ ?_
    | with_reducible refine OutWithin.next ?_
    | exact OutWithin.fault _ _ _
    | split
    | dsimp only

theorem within_doTimeExchange {S : List StatePart} {s0 : State} {c : Cmd} {pay : List Byte} {s : State}
    (hS : Covers S [.host, .inProgress, .mgmt, .fw, .hostMem])
    (hw : Within S s0 s) : Within S s0 (doTimeExchange c pay s) := by
  unfold doTimeExchange
  repeat' first
    | with_reducible assumption
    | intro _
    | with_reducible refine within_bayRun (hS.mono (by decide)) ?_ ?_
    | with_reducible refine within_completeWithBuf (hS.mono (by decide)) ?_
    | split
    | dsimp only

theorem within_execTimeExchange {S : List StatePart} {s0 : State} {c : Cmd} {s : State}
    (hS : Covers S [.now, .host, .inProgress, .mgmt, .fw, .hostMem])
    (hw : Within S s0 s) : OutWithin S s0 (execTimeExchange c s) := by
  unfold execTimeExchange
  repeat' first
    | with_reducible assumption
    | intro _
    | with_reducible refine within_doTimeExchange (hS.mono (by decide)) ?_
    | with_reducible refine within_runRow (hS.mono (by decide)) ?_ ?_
    | with_reducible refine OutWithin.next ?_
    | exact OutWithin.fault _ _ _
    | split
    | dsimp only

theorem within_removeBay {S : List StatePart} {s0 : State} {i : Nat} {b : Bay} {s : State}
    (hS : Covers S [.host, .inProgress, .mgmt, .bays, .cores, .xings, .hostMem])
    (hw : Within S s0 s) : Within S s0 (removeBay i b s) := by
  unfold removeBay
  repeat' first
    | with_reducible assumption
    | (intro m; cases m; constructor <;> first | with_reducible assumption | (refine keysRise_mapDel _ _ ?_; with_reducible assumption))
    | (intro (p : StatePart); cases p <;> first | exact Or.inl (hS.part (by decide)) | with_reducible exact Or.inr rfl | with_reducible exact Or.inr ⟨rfl, rfl⟩ | with_reducible exact Or.inr (Nat.le_refl _))
    | intro _
    | with_reducible refine within_dropChange (hS.mono (by decide)) ?_
    | with_reducible refine within_dropXings (hS.mono (by decide)) ?_
    | with_reducible refine within_modCores (hS.mono (by decide)) ?_
    | split
    | dsimp only
    | with_reducible refine Within.upd rfl ?_ ?_ ?_

theorem within_doBayRemove {S : List StatePart} {s0 : State} {c : Cmd} {pay : List Byte} {s : State}
    (hS : Covers S [.host, .inProgress, .mgmt, .fw, .bays, .cores, .xings, .hostMem])
    (hw : Within S s0 s) : Within S s0 (doBayRemove c pay s) := by
  unfold doBayRemove
  repeat' first
    | with_reducible assumption
    | intro _
    | with_reducible refine within_bayRun (hS.mono (by decide)) ?_ ?_
    | with_reducible refine within_complete (hS.mono (by decide)) ?_
    | with_reducible refine within_removeBay (hS.mono (by decide)) ?_
    | split
    | dsimp only

theorem within_execBayRemove {S : List StatePart} {s0 : State} {c : Cmd} {s : State}
    (hS : Covers S [.now, .host, .inProgress, .mgmt, .fw, .bays, .cores, .xings, .hostMem])
    (hw : Within S s0 s) : OutWithin S s0 (execBayRemove c s) := by
  unfold execBayRemove
  repeat' first
    | with_reducible assumption
    | intro _
    | with_reducible refine within_doBayRemove (hS.mono (by decide)) ?_
    | with_reducible refine within_runRow (hS.mono (by decide)) ?_ ?_
    | with_reducible refine OutWithin.next ?_
    | exact OutWithin.fault _ _ _
    | split
    | dsimp only

theorem within_doLoadReportGet {S : List StatePart} {s0 : State} {c : Cmd} {_pay : List Byte} {s : State}
    (hS : Covers S [.host, .inProgress, .mgmt, .hostMem])
    (hw : Within S s0 s) : Within S s0 (doLoadReportGet c _pay s) := by
  unfold doLoadReportGet
  repeat' first
    | with_reducible assumption
    | intro _
    | with_reducible refine within_checked (hS.mono (by decide)) ?_ ?_
    | with_reducible refine within_completeWithOwnBuf (hS.mono (by decide)) ?_
    | split
    | dsimp only

theorem within_execLoadReportGet {S : List StatePart} {s0 : State} {c : Cmd} {s : State}
    (hS : Covers S [.now, .host, .inProgress, .mgmt, .hostMem])
    (hw : Within S s0 s) : OutWithin S s0 (execLoadReportGet c s) := by
  unfold execLoadReportGet
  repeat' first
    | with_reducible assumption
    | intro _
    | with_reducible refine within_doLoadReportGet (hS.mono (by decide)) ?_
    | with_reducible refine within_runRow (hS.mono (by decide)) ?_ ?_
    | with_reducible refine OutWithin.next ?_
    | exact OutWithin.fault _ _ _
    | split
    | dsimp only

theorem within_doHazardGet {S : List StatePart} {s0 : State} {c : Cmd} {pay : List Byte} {s : State}
    (hS : Covers S [.host, .inProgress, .mgmt, .fw, .bays, .hostMem])
    (hw : Within S s0 s) : Within S s0 (doHazardGet c pay s) := by
  unfold doHazardGet
  repeat' first
    | with_reducible assumption
    | intro _
    | with_reducible refine within_bayRun (hS.mono (by decide)) ?_ ?_
    | with_reducible refine within_completeWithBuf (hS.mono (by decide)) ?_
    | with_reducible refine within_setBay (hS.mono (by decide)) ?_
    | with_reducible refine Within.foldl _ _ (fun s a h => ?_) ?_
    | with_reducible refine Within.foldl_fourth _ _ (fun r a h => ?_) ?_
    | with_reducible refine Within.foldl_third _ _ (fun r a h => ?_) ?_
    | with_reducible refine Within.foldl_snd _ _ (fun r a h => ?_) ?_
    | with_reducible refine Within.foldl_fst _ _ (fun r a h => ?_) ?_
    | split
    | dsimp only

theorem within_execHazardGet {S : List StatePart} {s0 : State} {c : Cmd} {s : State}
    (hS : Covers S [.now, .host, .inProgress, .mgmt, .fw, .bays, .hostMem])
    (hw : Within S s0 s) : OutWithin S s0 (execHazardGet c s) := by
  unfold execHazardGet
  repeat' first
    | with_reducible assumption
    | intro _
    | with_reducible refine within_doHazardGet (hS.mono (by decide)) ?_
    | with_reducible refine within_runRow (hS.mono (by decide)) ?_ ?_
    | with_reducible refine OutWithin.next ?_
    | exact OutWithin.fault _ _ _
    | split
    | dsimp only

end Sys2Proof.Laws
end

