-- ==== Sys2Proof/Laws/FrameFabricOps.lean ====
section
/-! SUPPORT. What each operation of Machine/FabricOps.lean may change. -/

set_option linter.unusedTactic false
set_option linter.unreachableTactic false
set_option linter.unusedVariables false
set_option linter.unusedSimpArgs false

namespace Sys2Proof.Laws

open Machine

theorem within_rewriteRoutes {S : List StatePart} {s0 : State} {s : State}
    (hS : Covers S [.fab])
    (hw : Within S s0 s) : Within S s0 (rewriteRoutes s) := by
  unfold rewriteRoutes
  repeat' first
    | with_reducible assumption
    | (intro m; cases m; constructor <;> first | with_reducible assumption | (refine keysRise_filter _ _ ?_; with_reducible assumption))
    | (intro (p : StatePart); cases p <;> first | exact Or.inl (hS.part (by decide)) | with_reducible exact Or.inr rfl | with_reducible exact Or.inr ⟨rfl, rfl⟩ | with_reducible exact Or.inr (Nat.le_refl _))
    | intro _
    | split
    | dsimp only
    | with_reducible refine Within.upd rfl ?_ ?_ ?_

theorem within_answer {S : List StatePart} {s0 : State} {q : Packet} {status : Nat} {data : List Byte} {s : State}
    (hS : Covers S [.fab])
    (hw : Within S s0 s) : Within S s0 (answer q status data s) := by
  unfold answer
  repeat' first
    | with_reducible assumption
    | (intro m; cases m; constructor <;> first | with_reducible assumption)
    | (intro (p : StatePart); cases p <;> first | exact Or.inl (hS.part (by decide)) | with_reducible exact Or.inr rfl | with_reducible exact Or.inr ⟨rfl, rfl⟩ | with_reducible exact Or.inr (Nat.le_refl _))
    | intro _
    | split
    | dsimp only
    | with_reducible refine Within.upd rfl ?_ ?_ ?_

theorem within_modPort {S : List StatePart} {s0 : State} {site : Nat} {side : Nat} {f : PortCount → PortCount} {s : State}
    (hS : Covers S [.fab])
    (hw : Within S s0 s) : Within S s0 (modPort site side f s) := by
  unfold modPort
  repeat' first
    | with_reducible assumption
    | (intro m; cases m; constructor <;> first | with_reducible assumption | (refine keysRise_mapSet _ _ _ _ ?_; with_reducible assumption) | rfl)
    | (intro (p : StatePart); cases p <;> first | exact Or.inl (hS.part (by decide)) | with_reducible exact Or.inr rfl | with_reducible exact Or.inr ⟨rfl, rfl⟩ | with_reducible exact Or.inr (Nat.le_refl _))
    | intro _
    | split
    | dsimp only
    | with_reducible refine Within.upd rfl ?_ ?_ ?_

theorem within_countFlits {S : List StatePart} {s0 : State} {q : Packet} {s : State}
    (hS : Covers S [.fab])
    (hw : Within S s0 s) : Within S s0 (countFlits q s) := by
  unfold countFlits
  repeat' first
    | with_reducible assumption
    | intro _
    | with_reducible refine within_modPort (hS.mono (by decide)) ?_
    | with_reducible refine Within.foldl _ _ (fun s a h => ?_) ?_
    | with_reducible refine Within.foldl_fourth _ _ (fun r a h => ?_) ?_
    | with_reducible refine Within.foldl_third _ _ (fun r a h => ?_) ?_
    | with_reducible refine Within.foldl_snd _ _ (fun r a h => ?_) ?_
    | with_reducible refine Within.foldl_fst _ _ (fun r a h => ?_) ?_
    | split
    | dsimp only

theorem within_countDrop {S : List StatePart} {s0 : State} {site : Nat} {s : State}
    (hS : Covers S [.fab])
    (hw : Within S s0 s) : Within S s0 (countDrop site s) := by
  unfold countDrop
  repeat' first
    | with_reducible assumption
    | (intro m; cases m; constructor <;> first | with_reducible assumption | (refine keysRise_mapPut _ _ _ ?_; with_reducible assumption))
    | (intro (p : StatePart); cases p <;> first | exact Or.inl (hS.part (by decide)) | with_reducible exact Or.inr rfl | with_reducible exact Or.inr ⟨rfl, rfl⟩ | with_reducible exact Or.inr (Nat.le_refl _))
    | intro _
    | split
    | dsimp only
    | with_reducible refine Within.upd rfl ?_ ?_ ?_

theorem within_sendRequest {S : List StatePart} {s0 : State} {f : Flight} {s : State}
    (hS : Covers S [.fab])
    (hw : Within S s0 s) : Within S s0 (sendRequest f s) := by
  unfold sendRequest
  repeat' first
    | with_reducible assumption
    | (intro m; cases m; constructor <;> first | with_reducible assumption)
    | (intro (p : StatePart); cases p <;> first | exact Or.inl (hS.part (by decide)) | with_reducible exact Or.inr rfl | with_reducible exact Or.inr ⟨rfl, rfl⟩ | with_reducible exact Or.inr (Nat.le_refl _))
    | intro _
    | with_reducible refine within_answer (hS.mono (by decide)) ?_
    | with_reducible refine Within.ite ?_ ?_
    | split
    | dsimp only
    | with_reducible refine Within.upd rfl ?_ ?_ ?_

theorem within_packetLost {S : List StatePart} {s0 : State} {s : State} {q : Packet} {since : Option Nat}
    (hS : Covers S [.freeCtr])
    (hw : Within S s0 s) : Within S s0 (packetLost s q since).2 := by
  unfold packetLost
  repeat' first
    | with_reducible assumption
    | intro _
    | with_reducible refine within_takeFree (hS.mono (by decide)) ?_
    | with_reducible refine Within.ite ?_ ?_
    | split
    | dsimp only

theorem within_dropPacket {S : List StatePart} {s0 : State} {q : Packet} {s : State}
    (hS : Covers S [.err, .fab, .bootLog])
    (hw : Within S s0 s) : Within S s0 (dropPacket q s) := by
  unfold dropPacket
  repeat' first
    | with_reducible assumption
    | intro _
    | with_reducible refine within_countDrop (hS.mono (by decide)) ?_
    | with_reducible refine within_logAdd (hS.mono (by decide)) ?_
    | split
    | dsimp only

theorem within_landFlight {S : List StatePart} {s0 : State} {q : Packet} {s : State}
    (hS : Covers S [.fab])
    (hw : Within S s0 s) : Within S s0 (landFlight q s) := by
  unfold landFlight
  repeat' first
    | with_reducible assumption
    | (intro m; cases m; constructor <;> first | with_reducible assumption)
    | (intro (p : StatePart); cases p <;> first | exact Or.inl (hS.part (by decide)) | with_reducible exact Or.inr rfl | with_reducible exact Or.inr ⟨rfl, rfl⟩ | with_reducible exact Or.inr (Nat.le_refl _))
    | intro _
    | with_reducible refine Within.ite ?_ ?_
    | split
    | dsimp only
    | with_reducible refine Within.upd rfl ?_ ?_ ?_

end Sys2Proof.Laws
end

