-- ==== Sys2Proof/Laws/FrameMemOps.lean ====
section
/-! SUPPORT. What each operation of Machine/MemOps.lean may change. -/

set_option linter.unusedTactic false
set_option linter.unreachableTactic false
set_option linter.unusedVariables false
set_option linter.unusedSimpArgs false

namespace Sys2Proof.Laws

open Machine

theorem within_putEngineRow {S : List StatePart} {s0 : State} {k : Nat} {d : Nat} {stamp : Nat} {data : Row} {op : Nat} {s : State}
    (hS : Covers S [.freeCtr, .cores])
    (hw : Within S s0 s) : Within S s0 (putEngineRow k d stamp data op s) := by
  unfold putEngineRow
  repeat' first
    | with_reducible assumption
    | intro _
    | with_reducible refine within_modCore (hS.mono (by decide)) ?_
    | with_reducible refine within_putRow (hS.mono (by decide)) ?_
    | with_reducible refine Within.ite ?_ ?_
    | split
    | dsimp only

theorem within_putPortRow {S : List StatePart} {s0 : State} {k : Nat} {d : Nat} {data : Row} {s : State}
    (hS : Covers S [.freeCtr, .cores])
    (hw : Within S s0 s) : Within S s0 (putPortRow k d data s) := by
  unfold putPortRow
  repeat' first
    | with_reducible assumption
    | intro _
    | with_reducible refine within_putEngineRow (hS.mono (by decide)) ?_
    | split
    | dsimp only

theorem within_modStack {S : List StatePart} {s0 : State} {n : Nat} {f : StackState → StackState} {s : State}
    (hS : Covers S [.hbms])
    (hw : Within S s0 s) : Within S s0 (modStack n f s) := by
  unfold modStack
  repeat' first
    | with_reducible assumption
    | (intro m; cases m; constructor <;> first | with_reducible assumption | (refine keysRise_mapSet _ _ _ _ ?_; with_reducible assumption) | rfl)
    | (intro (p : StatePart); cases p <;> first | exact Or.inl (hS.part (by decide)) | with_reducible exact Or.inr rfl | with_reducible exact Or.inr ⟨rfl, rfl⟩ | with_reducible exact Or.inr (Nat.le_refl _))
    | intro _
    | split
    | dsimp only
    | with_reducible refine Within.upd rfl ?_ ?_ ?_

theorem within_modBuf {S : List StatePart} {s0 : State} {i : Nat} {f : BufferState → BufferState} {s : State}
    (hS : Covers S [.bufs])
    (hw : Within S s0 s) : Within S s0 (modBuf i f s) := by
  unfold modBuf
  repeat' first
    | with_reducible assumption
    | (intro m; cases m; constructor <;> first | with_reducible assumption | (refine keysRise_mapSet _ _ _ _ ?_; with_reducible assumption) | rfl)
    | (intro (p : StatePart); cases p <;> first | exact Or.inl (hS.part (by decide)) | with_reducible exact Or.inr rfl | with_reducible exact Or.inr ⟨rfl, rfl⟩ | with_reducible exact Or.inr (Nat.le_refl _))
    | intro _
    | split
    | dsimp only
    | with_reducible refine Within.upd rfl ?_ ?_ ?_

theorem within_modStore {S : List StatePart} {s0 : State} {w : Nat} {f : StoreDie → StoreDie} {s : State}
    (hS : Covers S [.bootStore])
    (hw : Within S s0 s) : Within S s0 (modStore w f s) := by
  unfold modStore
  repeat' first
    | with_reducible assumption
    | (intro m; cases m; constructor <;> first | with_reducible assumption | (refine keysRise_mapSet _ _ _ _ ?_; with_reducible assumption) | rfl)
    | (intro (p : StatePart); cases p <;> first | exact Or.inl (hS.part (by decide)) | with_reducible exact Or.inr rfl | with_reducible exact Or.inr ⟨rfl, rfl⟩ | with_reducible exact Or.inr (Nat.le_refl _))
    | intro _
    | split
    | dsimp only
    | with_reducible refine Within.upd rfl ?_ ?_ ?_

theorem within_markBad {S : List StatePart} {s0 : State} {m : MemKind} {w : Nat} {b : Bool} {s : State}
    (hS : Covers S [.hbms, .bufs, .cores, .bootStore])
    (hw : Within S s0 s) : Within S s0 (markBad m w b s) := by
  unfold markBad
  repeat' first
    | with_reducible assumption
    | intro _
    | with_reducible refine within_modBuf (hS.mono (by decide)) ?_
    | with_reducible refine within_modCore (hS.mono (by decide)) ?_
    | with_reducible refine within_modStack (hS.mono (by decide)) ?_
    | with_reducible refine within_modStore (hS.mono (by decide)) ?_
    | with_reducible refine Within.ite ?_ ?_
    | split
    | dsimp only

theorem within_wordCorrected {S : List StatePart} {s0 : State} {m : MemKind} {w : Nat} {inj : Bool} {s : State}
    (hS : Covers S [.host, .ev, .fw, .err, .hbms, .hostMem, .bootLog, .bootStore])
    (hw : Within S s0 s) : Within S s0 (wordCorrected m w inj s) := by
  unfold wordCorrected
  repeat' first
    | with_reducible assumption
    | intro _
    | with_reducible refine within_logAdd (hS.mono (by decide)) ?_
    | with_reducible refine within_modStack (hS.mono (by decide)) ?_
    | with_reducible refine within_modStore (hS.mono (by decide)) ?_
    | with_reducible refine within_reportCorrected (hS.mono (by decide)) ?_
    | with_reducible refine within_scoreWear (hS.mono (by decide)) ?_
    | with_reducible refine Within.ite ?_ ?_
    | split
    | dsimp only

theorem within_wordUncorrectable {S : List StatePart} {s0 : State} {m : MemKind} {w : Nat} {inj : Bool} {s : State} {res : Option Nat}
    (hS : Covers S [.host, .ev, .fw, .err, .hbms, .bufs, .cores, .hostMem, .bootLog, .bootStore])
    (hw : Within S s0 s) : Within S s0 (wordUncorrectable m w inj s res) := by
  unfold wordUncorrectable
  repeat' first
    | with_reducible assumption
    | intro _
    | with_reducible refine within_modBuf (hS.mono (by decide)) ?_
    | with_reducible refine within_modCore (hS.mono (by decide)) ?_
    | with_reducible refine within_modStack (hS.mono (by decide)) ?_
    | with_reducible refine within_modStore (hS.mono (by decide)) ?_
    | with_reducible refine within_reportUncorrectable (hS.mono (by decide)) ?_
    | with_reducible refine Within.ite ?_ ?_
    | split
    | dsimp only

theorem within_examineWord {S : List StatePart} {s0 : State} {m : MemKind} {f : EccFinding} {w : Nat} {s : State} {res : Option Nat}
    (hS : Covers S [.host, .ev, .fw, .err, .hbms, .bufs, .cores, .hostMem, .bootLog, .bootStore])
    (hw : Within S s0 s) : Within S s0 (examineWord m f w s res).2 := by
  unfold examineWord
  repeat' first
    | with_reducible assumption
    | intro _
    | with_reducible refine within_examine (hS.mono (by decide)) ?_
    | with_reducible refine within_markBad (hS.mono (by decide)) ?_
    | with_reducible refine within_wordCorrected (hS.mono (by decide)) ?_
    | with_reducible refine within_wordUncorrectable (hS.mono (by decide)) ?_
    | with_reducible refine Within.ite ?_ ?_
    | split
    | dsimp only

theorem within_examineWords {S : List StatePart} {s0 : State} {m : MemKind} {f : EccFinding} {ws : List Nat} {s : State} {res : Option Nat}
    (hS : Covers S [.host, .ev, .fw, .err, .hbms, .bufs, .cores, .hostMem, .bootLog, .bootStore])
    (hw : Within S s0 s) : Within S s0 (examineWords m f ws s res).2 := by
  unfold examineWords
  repeat' first
    | with_reducible assumption
    | intro _
    | with_reducible refine within_examineWord (hS.mono (by decide)) ?_
    | with_reducible refine Within.foldl _ _ (fun s a h => ?_) ?_
    | with_reducible refine Within.foldl_fourth _ _ (fun r a h => ?_) ?_
    | with_reducible refine Within.foldl_third _ _ (fun r a h => ?_) ?_
    | with_reducible refine Within.foldl_snd _ _ (fun r a h => ?_) ?_
    | with_reducible refine Within.foldl_fst _ _ (fun r a h => ?_) ?_
    | with_reducible refine Within.ite ?_ ?_
    | split
    | dsimp only

theorem within_readMem {S : List StatePart} {s0 : State} {m : MemKind} {off : Nat} {n : Nat} {f : EccFinding} {s : State} {res : Option Nat}
    (hS : Covers S [.host, .ev, .fw, .err, .hbms, .bufs, .cores, .hostMem, .bootLog, .bootStore])
    (hw : Within S s0 s) : Within S s0 (readMem m off n f s res).2.2 := by
  unfold readMem
  repeat' first
    | with_reducible assumption
    | intro _
    | with_reducible refine within_examineWords (hS.mono (by decide)) ?_
    | split
    | dsimp only

theorem within_putCoreBytes {S : List StatePart} {s0 : State} {k : Nat} {off : Nat} {bs : List Byte} {s : State}
    (hS : Covers S [.freeCtr, .cores])
    (hw : Within S s0 s) : Within S s0 (putCoreBytes k off bs s) := by
  unfold putCoreBytes
  repeat' first
    | with_reducible assumption
    | intro _
    | with_reducible refine within_putPortRow (hS.mono (by decide)) ?_
    | with_reducible refine Within.foldl _ _ (fun s a h => ?_) ?_
    | with_reducible refine Within.foldl_fourth _ _ (fun r a h => ?_) ?_
    | with_reducible refine Within.foldl_third _ _ (fun r a h => ?_) ?_
    | with_reducible refine Within.foldl_snd _ _ (fun r a h => ?_) ?_
    | with_reducible refine Within.foldl_fst _ _ (fun r a h => ?_) ?_
    | split
    | dsimp only

theorem within_putMem {S : List StatePart} {s0 : State} {m : MemKind} {off : Nat} {bs : List Byte} {s : State}
    (hS : Covers S [.freeCtr, .mem, .cores, .bootStoreMem])
    (hw : Within S s0 s) : Within S s0 (putMem m off bs s) := by
  unfold putMem
  repeat' first
    | with_reducible assumption
    | (intro m; cases m; constructor <;> first | with_reducible assumption | (refine memWf_memWrite _ _ _ ?_; with_reducible assumption))
    | (intro (p : StatePart); cases p <;> first | exact Or.inl (hS.part (by decide)) | with_reducible exact Or.inr rfl | with_reducible exact Or.inr ⟨rfl, rfl⟩ | with_reducible exact Or.inr (Nat.le_refl _))
    | intro _
    | with_reducible refine within_putCoreBytes (hS.mono (by decide)) ?_
    | split
    | dsimp only
    | with_reducible refine Within.upd rfl ?_ ?_ ?_

theorem within_writeMem {S : List StatePart} {s0 : State} {m : MemKind} {off : Nat} {bs : List Byte} {f : EccFinding} {s : State}
    (hS : Covers S [.freeCtr, .host, .ev, .fw, .err, .hbms, .bufs, .mem, .cores, .hostMem, .bootLog, .bootStore, .bootStoreMem])
    (hw : Within S s0 s) : Within S s0 (writeMem m off bs f s).2 := by
  unfold writeMem
  repeat' first
    | with_reducible assumption
    | intro _
    | with_reducible refine within_examineWords (hS.mono (by decide)) ?_
    | with_reducible refine within_markBad (hS.mono (by decide)) ?_
    | with_reducible refine within_putMem (hS.mono (by decide)) ?_
    | with_reducible refine Within.foldl _ _ (fun s a h => ?_) ?_
    | with_reducible refine Within.foldl_fourth _ _ (fun r a h => ?_) ?_
    | with_reducible refine Within.foldl_third _ _ (fun r a h => ?_) ?_
    | with_reducible refine Within.foldl_snd _ _ (fun r a h => ?_) ?_
    | with_reducible refine Within.foldl_fst _ _ (fun r a h => ?_) ?_
    | with_reducible refine Within.ite ?_ ?_
    | split
    | dsimp only

end Sys2Proof.Laws
end

