-- ==== Sys2Proof/Laws/FrameLinkFlits.lean ====
section
/-! SUPPORT. What each operation of Machine/LinkFlits.lean may change. -/

set_option linter.unusedTactic false
set_option linter.unreachableTactic false
set_option linter.unusedVariables false
set_option linter.unusedSimpArgs false

namespace Sys2Proof.Laws

open Machine

theorem within_modLink {S : List StatePart} {s0 : State} {l : Nat} {f : Link → Link} {s : State}
    (hS : Covers S [.links])
    (hw : Within S s0 s) : Within S s0 (modLink l f s) := by
  unfold modLink
  repeat' first
    | with_reducible assumption
    | (intro m; cases m; constructor <;> first | with_reducible assumption | (refine keysRise_mapSet _ _ _ _ ?_; with_reducible assumption) | rfl)
    | (intro (p : StatePart); cases p <;> first | exact Or.inl (hS.part (by decide)) | with_reducible exact Or.inr rfl | with_reducible exact Or.inr ⟨rfl, rfl⟩ | with_reducible exact Or.inr (Nat.le_refl _))
    | intro _
    | split
    | dsimp only
    | with_reducible refine Within.upd rfl ?_ ?_ ?_

theorem within_sendFlit {S : List StatePart} {s0 : State} {l : Nat} {kind : Nat} {seq : Nat} {first : Nat} {payload : List Byte} {s : State}
    (hS : Covers S [.links])
    (hw : Within S s0 s) : Within S s0 (sendFlit l kind seq first payload s) := by
  unfold sendFlit
  repeat' first
    | with_reducible assumption
    | (intro m; cases m; constructor <;> first | with_reducible assumption)
    | (intro (p : StatePart); cases p <;> first | exact Or.inl (hS.part (by decide)) | with_reducible exact Or.inr rfl | with_reducible exact Or.inr ⟨rfl, rfl⟩ | with_reducible exact Or.inr (Nat.le_refl _))
    | intro _
    | with_reducible refine within_modLink (hS.mono (by decide)) ?_
    | split
    | dsimp only
    | with_reducible refine Within.upd rfl ?_ ?_ ?_

theorem within_sendIdle {S : List StatePart} {s0 : State} {l : Nat} {s : State}
    (hS : Covers S [.links])
    (hw : Within S s0 s) : Within S s0 (sendIdle l s) := by
  unfold sendIdle
  repeat' first
    | with_reducible assumption
    | intro _
    | with_reducible refine within_sendFlit (hS.mono (by decide)) ?_
    | split
    | dsimp only

theorem within_askReplay {S : List StatePart} {s0 : State} {l : Nat} {s : State}
    (hS : Covers S [.links])
    (hw : Within S s0 s) : Within S s0 (askReplay l s) := by
  unfold askReplay
  repeat' first
    | with_reducible assumption
    | intro _
    | with_reducible refine within_sendFlit (hS.mono (by decide)) ?_
    | split
    | dsimp only

theorem within_sendData {S : List StatePart} {s0 : State} {l : Nat} {f : SentFlit} {s : State}
    (hS : Covers S [.links])
    (hw : Within S s0 s) : Within S s0 (sendData l f s) := by
  unfold sendData
  repeat' first
    | with_reducible assumption
    | intro _
    | with_reducible refine within_modLink (hS.mono (by decide)) ?_
    | with_reducible refine within_sendFlit (hS.mono (by decide)) ?_
    | split
    | dsimp only

theorem within_sendFlits {S : List StatePart} {s0 : State} {l : Nat} {x0 : Nat} {x1 : State}
    (hS : Covers S [.links])
    (hw : Within S s0 x1) : Within S s0 (sendFlits l x0 x1) := by
  induction x0 generalizing x1 with
  | zero =>
    rw [sendFlits]
    repeat' first
      | with_reducible assumption
      | intro _
      | with_reducible refine within_modLink (hS.mono (by decide)) ?_
      | with_reducible refine within_sendData (hS.mono (by decide)) ?_
      | with_reducible refine Within.ite ?_ ?_
      | split
      | dsimp only
  | succ n ih =>
    rw [sendFlits]
    repeat' first
      | with_reducible assumption
      | with_reducible refine ih ?_
      | intro _
      | with_reducible refine within_modLink (hS.mono (by decide)) ?_
      | with_reducible refine within_sendData (hS.mono (by decide)) ?_
      | with_reducible refine Within.ite ?_ ?_
      | split
      | dsimp only

theorem within_resend {S : List StatePart} {s0 : State} {l : Nat} {s : State}
    (hS : Covers S [.links])
    (hw : Within S s0 s) : Within S s0 (resend l s) := by
  unfold resend
  repeat' first
    | with_reducible assumption
    | intro _
    | with_reducible refine within_sendData (hS.mono (by decide)) ?_
    | with_reducible refine Within.foldl _ _ (fun s a h => ?_) ?_
    | with_reducible refine Within.foldl_fourth _ _ (fun r a h => ?_) ?_
    | with_reducible refine Within.foldl_third _ _ (fun r a h => ?_) ?_
    | with_reducible refine Within.foldl_snd _ _ (fun r a h => ?_) ?_
    | with_reducible refine Within.foldl_fst _ _ (fun r a h => ?_) ?_
    | split
    | dsimp only

end Sys2Proof.Laws
end

