-- ==== Sys2Proof/Laws/FrameLinkOps.lean ====
section
/-! SUPPORT. What each operation of Machine/LinkOps.lean may change. -/

set_option linter.unusedTactic false
set_option linter.unreachableTactic false
set_option linter.unusedVariables false
set_option linter.unusedSimpArgs false

namespace Sys2Proof.Laws

open Machine

theorem within_lanesToEntry {S : List StatePart} {s0 : State} {l : Nat} {s : State}
    (hS : Covers S [.fp])
    (hw : Within S s0 s) : Within S s0 (lanesToEntry l s) := by
  unfold lanesToEntry
  repeat' first
    | with_reducible assumption
    | intro _
    | with_reducible refine within_modEntry (hS.mono (by decide)) ?_
    | with_reducible refine Within.ite ?_ ?_
    | split
    | dsimp only

theorem within_recordLanes {S : List StatePart} {s0 : State} {l : Nat} {s : State}
    (hS : Covers S [.fp, .host, .ev, .fw, .hostMem, .bootGeneration])
    (hw : Within S s0 s) : Within S s0 (recordLanes l s) := by
  unfold recordLanes
  repeat' first
    | with_reducible assumption
    | intro _
    | with_reducible refine within_lanesToEntry (hS.mono (by decide)) ?_
    | with_reducible refine within_recordChange (hS.mono (by decide)) ?_ ?_
    | split
    | dsimp only

theorem within_putOnLink {S : List StatePart} {s0 : State} {l : Nat} {q : LinkPacket} {s : State}
    (hS : Covers S [.links])
    (hw : Within S s0 s) : Within S s0 (putOnLink l q s) := by
  unfold putOnLink
  repeat' first
    | with_reducible assumption
    | (intro m; cases m; constructor <;> first | with_reducible assumption)
    | (intro (p : StatePart); cases p <;> first | exact Or.inl (hS.part (by decide)) | with_reducible exact Or.inr rfl | with_reducible exact Or.inr ⟨rfl, rfl⟩ | with_reducible exact Or.inr (Nat.le_refl _))
    | intro _
    | with_reducible refine within_modLink (hS.mono (by decide)) ?_
    | with_reducible refine Within.ite ?_ ?_
    | split
    | dsimp only
    | with_reducible refine Within.upd rfl ?_ ?_ ?_

theorem within_sendWaiting {S : List StatePart} {s0 : State} {l : Nat} {x0 : List LinkPacket} {x1 : Bool} {x2 : Bool} {x3 : State}
    (hS : Covers S [.links])
    (hw : Within S s0 x3) : Within S s0 (sendWaiting l x0 x1 x2 x3).2 := by
  induction x0 generalizing x1 x2 x3 with
  | nil =>
    rw [sendWaiting]
    repeat' first
      | with_reducible assumption
      | intro _
      | with_reducible refine within_putOnLink (hS.mono (by decide)) ?_
      | with_reducible refine Within.ite ?_ ?_
      | split
      | dsimp only
  | cons x l ih =>
    rw [sendWaiting]
    repeat' first
      | with_reducible assumption
      | with_reducible refine ih ?_
      | intro _
      | with_reducible refine within_putOnLink (hS.mono (by decide)) ?_
      | with_reducible refine Within.ite ?_ ?_
      | split
      | dsimp only

theorem within_flushLink {S : List StatePart} {s0 : State} {l : Nat} {s : State}
    (hS : Covers S [.links])
    (hw : Within S s0 s) : Within S s0 (flushLink l s) := by
  unfold flushLink
  repeat' first
    | with_reducible assumption
    | intro _
    | with_reducible refine within_modLink (hS.mono (by decide)) ?_
    | with_reducible refine within_sendFlits (hS.mono (by decide)) ?_
    | with_reducible refine within_sendWaiting (hS.mono (by decide)) ?_
    | with_reducible refine Within.ite ?_ ?_
    | split
    | dsimp only

theorem within_sendOnLink {S : List StatePart} {s0 : State} {l : Nat} {q : LinkPacket} {s : State}
    (hS : Covers S [.links])
    (hw : Within S s0 s) : Within S s0 (sendOnLink l q s) := by
  unfold sendOnLink
  repeat' first
    | with_reducible assumption
    | intro _
    | with_reducible refine within_flushLink (hS.mono (by decide)) ?_
    | with_reducible refine within_modLink (hS.mono (by decide)) ?_
    | split
    | dsimp only

theorem within_ackLink {S : List StatePart} {s0 : State} {l : Nat} {q : LinkPacket} {status : Nat} {s : State}
    (hS : Covers S [.links])
    (hw : Within S s0 s) : Within S s0 (ackLink l q status s) := by
  unfold ackLink
  repeat' first
    | with_reducible assumption
    | intro _
    | with_reducible refine within_sendOnLink (hS.mono (by decide)) ?_
    | with_reducible refine Within.ite ?_ ?_
    | split
    | dsimp only

theorem within_dropOnLink {S : List StatePart} {s0 : State} {l : Nat} {q : LinkPacket} {status : Nat} {s : State}
    (hS : Covers S [.links])
    (hw : Within S s0 s) : Within S s0 (dropOnLink l q status s) := by
  unfold dropOnLink
  repeat' first
    | with_reducible assumption
    | intro _
    | with_reducible refine within_ackLink (hS.mono (by decide)) ?_
    | with_reducible refine within_modLink (hS.mono (by decide)) ?_
    | split
    | dsimp only

theorem within_modPart {S : List StatePart} {s0 : State} {n : Nat} {f : Partition → Partition} {s : State}
    (hS : Covers S [.parts])
    (hw : Within S s0 s) : Within S s0 (modPart n f s) := by
  unfold modPart
  repeat' first
    | with_reducible assumption
    | (intro m; cases m; constructor <;> first | with_reducible assumption | (simp [modAt, copies, *]; done))
    | (intro (p : StatePart); cases p <;> first | exact Or.inl (hS.part (by decide)) | with_reducible exact Or.inr rfl | with_reducible exact Or.inr ⟨rfl, rfl⟩ | with_reducible exact Or.inr (Nat.le_refl _))
    | intro _
    | split
    | dsimp only
    | with_reducible refine Within.upd rfl ?_ ?_ ?_

theorem within_takeLinkDown {S : List StatePart} {s0 : State} {l : Nat} {s : State}
    (hS : Covers S [.fab, .links])
    (hw : Within S s0 s) : Within S s0 (takeLinkDown l s) := by
  unfold takeLinkDown
  repeat' first
    | with_reducible assumption
    | intro _
    | with_reducible refine within_answer (hS.mono (by decide)) ?_
    | with_reducible refine within_modLink (hS.mono (by decide)) ?_
    | with_reducible refine Within.foldl _ _ (fun s a h => ?_) ?_
    | with_reducible refine Within.foldl_fourth _ _ (fun r a h => ?_) ?_
    | with_reducible refine Within.foldl_third _ _ (fun r a h => ?_) ?_
    | with_reducible refine Within.foldl_snd _ _ (fun r a h => ?_) ?_
    | with_reducible refine Within.foldl_fst _ _ (fun r a h => ?_) ?_
    | split
    | dsimp only

theorem within_linkDown {S : List StatePart} {s0 : State} {l : Nat} {s : State}
    (hS : Covers S [.fp, .host, .inProgress, .mgmt, .ev, .fw, .fab, .links, .hostMem, .bootGeneration])
    (hw : Within S s0 s) : Within S s0 (linkDown l s) := by
  unfold linkDown
  repeat' first
    | with_reducible assumption
    | intro _
    | with_reducible refine within_complete (hS.mono (by decide)) ?_
    | with_reducible refine within_modLink (hS.mono (by decide)) ?_
    | with_reducible refine within_raise1 (hS.mono (by decide)) ?_
    | with_reducible refine within_recordLanes (hS.mono (by decide)) ?_
    | with_reducible refine within_takeLinkDown (hS.mono (by decide)) ?_
    | with_reducible refine Within.ite ?_ ?_
    | split
    | dsimp only

theorem within_egressWrite {S : List StatePart} {s0 : State} {l : Nat} {f : Flight} {x : RankExtra} {s : State}
    (hS : Covers S [.fab, .links])
    (hw : Within S s0 s) : Within S s0 (egressWrite l f x s) := by
  unfold egressWrite
  repeat' first
    | with_reducible assumption
    | intro _
    | with_reducible refine within_answer (hS.mono (by decide)) ?_
    | with_reducible refine within_modLink (hS.mono (by decide)) ?_
    | with_reducible refine within_sendOnLink (hS.mono (by decide)) ?_
    | with_reducible refine Within.ite ?_ ?_
    | split
    | dsimp only

end Sys2Proof.Laws
end

