-- ==== Sys2Proof/Laws/FrameServiceOps.lean ====
section
/-! SUPPORT. What each operation of Machine/ServiceOps.lean may change. -/

set_option linter.unusedTactic false
set_option linter.unreachableTactic false
set_option linter.unusedVariables false
set_option linter.unusedSimpArgs false

namespace Sys2Proof.Laws

open Machine

theorem within_modEngine {S : List StatePart} {s0 : State} {n : Nat} {f : EmbEngine → EmbEngine} {s : State}
    (hS : Covers S [.engines])
    (hw : Within S s0 s) : Within S s0 (modEngine n f s) := by
  unfold modEngine
  repeat' first
    | with_reducible assumption
    | (intro m; cases m; constructor <;> first | with_reducible assumption | (refine keysRise_mapSet _ _ _ _ ?_; with_reducible assumption) | rfl)
    | (intro (p : StatePart); cases p <;> first | exact Or.inl (hS.part (by decide)) | with_reducible exact Or.inr rfl | with_reducible exact Or.inr ⟨rfl, rfl⟩ | with_reducible exact Or.inr (Nat.le_refl _))
    | intro _
    | split
    | dsimp only
    | with_reducible refine Within.upd rfl ?_ ?_ ?_

theorem within_freeStatus {S : List StatePart} {s0 : State} {s : State}
    (hS : Covers S [.freeCtr])
    (hw : Within S s0 s) : Within S s0 (freeStatus s).2 := by
  unfold freeStatus
  repeat' first
    | with_reducible assumption
    | intro _
    | with_reducible refine within_takeFree (hS.mono (by decide)) ?_
    | split
    | dsimp only

theorem within_serveHost {S : List StatePart} {s0 : State} {f : Flight} {s : State}
    (hS : Covers S [.freeCtr, .hostMem])
    (hw : Within S s0 s) : Within S s0 (serveHost f s).2 := by
  unfold serveHost
  repeat' first
    | with_reducible assumption
    | intro _
    | with_reducible refine within_freeStatus (hS.mono (by decide)) ?_
    | with_reducible refine within_hostWrite (hS.mono (by decide)) ?_
    | with_reducible refine Within.ite ?_ ?_
    | split
    | dsimp only

theorem within_serveInflate {S : List StatePart} {s0 : State} {w : Nat} {off : Nat} {len : Nat} {f : EccFinding} {s : State}
    (hS : Covers S [.host, .ev, .fw, .err, .hbms, .bufs, .cores, .hostMem, .bootLog, .bootStore])
    (hw : Within S s0 s) : Within S s0 (serveInflate w off len f s).2 := by
  unfold serveInflate
  repeat' first
    | with_reducible assumption
    | intro _
    | with_reducible refine within_readMem (hS.mono (by decide)) ?_
    | with_reducible refine Within.ite ?_ ?_
    | split
    | dsimp only

theorem within_serveMemRead {S : List StatePart} {s0 : State} {m : MemKind} {off : Nat} {len : Nat} {f : EccFinding} {s : State} {res : Option Nat}
    (hS : Covers S [.host, .ev, .fw, .err, .hbms, .bufs, .cores, .hostMem, .bootLog, .bootStore])
    (hw : Within S s0 s) : Within S s0 (serveMemRead m off len f s res).2 := by
  unfold serveMemRead
  repeat' first
    | with_reducible assumption
    | intro _
    | with_reducible refine within_readMem (hS.mono (by decide)) ?_
    | with_reducible refine Within.ite ?_ ?_
    | split
    | dsimp only

theorem within_serveRead {S : List StatePart} {s0 : State} {f : Flight} {e : EccFinding} {s : State} {res : Option Nat}
    (hS : Covers S [.freeCtr, .host, .ev, .fw, .err, .hbms, .bufs, .cores, .hostMem, .bootLog, .bootStore])
    (hw : Within S s0 s) : Within S s0 (serveRead f e s res).2 := by
  unfold serveRead
  repeat' first
    | with_reducible assumption
    | intro _
    | with_reducible refine within_serveHost (hS.mono (by decide)) ?_
    | with_reducible refine within_serveInflate (hS.mono (by decide)) ?_
    | with_reducible refine within_serveMemRead (hS.mono (by decide)) ?_
    | with_reducible refine Within.ite ?_ ?_
    | split
    | dsimp only

theorem within_servePort {S : List StatePart} {s0 : State} {n : Nat} {q : Packet} {s : State}
    (hS : Covers S [.engines])
    (hw : Within S s0 s) : Within S s0 (servePort n q s).2 := by
  unfold servePort
  repeat' first
    | with_reducible assumption
    | intro _
    | with_reducible refine within_modEngine (hS.mono (by decide)) ?_
    | with_reducible refine Within.ite ?_ ?_
    | split
    | dsimp only

theorem within_serveMemWrite {S : List StatePart} {s0 : State} {m : MemKind} {f : Flight} {e : EccFinding} {s : State}
    (hS : Covers S [.freeCtr, .host, .ev, .fw, .err, .hbms, .bufs, .mem, .cores, .hostMem, .bootLog, .bootStore, .bootStoreMem])
    (h : Within S s0 s) : Within S s0 (serveMemWrite m f e s).2 := by
  cases m with
  | core k =>
    by_cases c : memSize s (.core k) < addrOff (destOf f.q) + f.q.len
    · simp only [serveMemWrite, c, if_true]; exact h
    · simp only [serveMemWrite, c, if_false]; exact within_modCore (hS.mono (by decide)) h
  | buffer i =>
    by_cases c : memSize s (.buffer i) < addrOff (destOf f.q) + f.q.len
    · simp only [serveMemWrite, c, if_true]; exact h
    · simp only [serveMemWrite, c, if_false]; exact within_writeMem (hS.mono (by decide)) h
  | stack n =>
    by_cases c : memSize s (.stack n) < addrOff (destOf f.q) + f.q.len
    · simp only [serveMemWrite, c, if_true]; exact h
    · simp only [serveMemWrite, c, if_false]
      exact within_writeMem (hS.mono (by decide)) h
  | array w =>
    by_cases c : memSize s (.array w) < addrOff (destOf f.q) + f.q.len
    · simp only [serveMemWrite, c, if_true]; exact h
    · simp only [serveMemWrite, c, if_false]; exact h

theorem within_serveLink {S : List StatePart} {s0 : State} {k : Nat} {u : Nat} {f : Flight} {x : RankExtra} {s : State}
    (hS : Covers S [.fab, .links])
    (hw : Within S s0 s) : Within S s0 (serveLink k u f x s).2 := by
  unfold serveLink
  repeat' first
    | with_reducible assumption
    | (intro m; cases m; constructor <;> first | with_reducible assumption | (refine keysRise_mapPut _ _ _ ?_; with_reducible assumption))
    | (intro (p : StatePart); cases p <;> first | exact Or.inl (hS.part (by decide)) | with_reducible exact Or.inr rfl | with_reducible exact Or.inr ⟨rfl, rfl⟩ | with_reducible exact Or.inr (Nat.le_refl _))
    | intro _
    | with_reducible refine within_egressWrite (hS.mono (by decide)) ?_
    | with_reducible refine within_sendOnLink (hS.mono (by decide)) ?_
    | with_reducible refine Within.ite ?_ ?_
    | split
    | dsimp only
    | with_reducible refine Within.upd rfl ?_ ?_ ?_

theorem within_serveWrite {S : List StatePart} {s0 : State} {f : Flight} {x : RankExtra} {e : EccFinding} {s : State}
    (hS : Covers S [.freeCtr, .host, .ev, .fw, .err, .fab, .hbms, .bufs, .engines, .links, .mem, .cores, .hostMem, .bootLog, .bootStore, .bootStoreMem])
    (hw : Within S s0 s) : Within S s0 (serveWrite f x e s).2 := by
  unfold serveWrite
  repeat' first
    | with_reducible assumption
    | intro _
    | with_reducible refine within_serveHost (hS.mono (by decide)) ?_
    | with_reducible refine within_serveLink (hS.mono (by decide)) ?_
    | with_reducible refine within_serveMemWrite (hS.mono (by decide)) ?_
    | with_reducible refine within_servePort (hS.mono (by decide)) ?_
    | with_reducible refine Within.ite ?_ ?_
    | split
    | dsimp only

theorem within_serve {S : List StatePart} {s0 : State} {f : Flight} {x : RankExtra} {e : EccFinding} {s : State} {res : Option Nat}
    (hS : Covers S [.freeCtr, .host, .ev, .fw, .err, .fab, .hbms, .bufs, .engines, .links, .mem, .cores, .hostMem, .bootLog, .bootStore, .bootStoreMem])
    (hw : Within S s0 s) : Within S s0 (serve f x e s res).2 := by
  unfold serve
  repeat' first
    | with_reducible assumption
    | intro _
    | with_reducible refine within_dropPacket (hS.mono (by decide)) ?_
    | with_reducible refine within_serveRead (hS.mono (by decide)) ?_
    | with_reducible refine within_serveWrite (hS.mono (by decide)) ?_
    | with_reducible refine Within.ite ?_ ?_
    | split
    | dsimp only

theorem within_arrive {S : List StatePart} {s0 : State} {q : Packet} {x : RankExtra} {e : EccFinding} {s : State}
    (hS : Covers S [.freeCtr, .host, .ev, .fw, .err, .fab, .hbms, .bufs, .engines, .links, .mem, .cores, .hostMem, .bootLog, .bootStore, .bootStoreMem])
    (hw : Within S s0 s) : Within S s0 (arrive q x e s) := by
  unfold arrive
  repeat' first
    | with_reducible assumption
    | intro _
    | with_reducible refine within_answer (hS.mono (by decide)) ?_
    | with_reducible refine within_countFlits (hS.mono (by decide)) ?_
    | with_reducible refine within_landFlight (hS.mono (by decide)) ?_
    | with_reducible refine within_packetLost (hS.mono (by decide)) ?_
    | with_reducible refine within_serve (hS.mono (by decide)) ?_
    | with_reducible refine Within.ite ?_ ?_
    | split
    | dsimp only

theorem within_accessNow {S : List StatePart} {s0 : State} {f : Flight} {e : EccFinding} {s : State} {res : Option Nat}
    (hS : Covers S [.freeCtr, .host, .ev, .fw, .err, .fab, .hbms, .bufs, .engines, .links, .mem, .cores, .hostMem, .bootLog, .bootStore, .bootStoreMem])
    (hw : Within S s0 s) : Within S s0 (accessNow f e s res).2.2 := by
  unfold accessNow
  repeat' first
    | with_reducible assumption
    | intro _
    | with_reducible refine within_serve (hS.mono (by decide)) ?_
    | with_reducible refine Within.ite ?_ ?_
    | split
    | dsimp only

theorem within_readVia {S : List StatePart} {s0 : State} {mk : State → Nat → Nat → Flight} {e : EccFinding} {a : Nat} {n : Nat} {s : State} {res : Option Nat}
    (hS : Covers S [.freeCtr, .host, .ev, .fw, .err, .fab, .hbms, .bufs, .engines, .links, .mem, .cores, .hostMem, .bootLog, .bootStore, .bootStoreMem])
    (hw : Within S s0 s) : Within S s0 (readVia mk e a n s res).2.2.2 := by
  unfold readVia
  repeat' first
    | with_reducible assumption
    | intro _
    | with_reducible refine within_accessNow (hS.mono (by decide)) ?_
    | with_reducible refine Within.foldl _ _ (fun s a h => ?_) ?_
    | with_reducible refine Within.foldl_fourth _ _ (fun r a h => ?_) ?_
    | with_reducible refine Within.foldl_third _ _ (fun r a h => ?_) ?_
    | with_reducible refine Within.foldl_snd _ _ (fun r a h => ?_) ?_
    | with_reducible refine Within.foldl_fst _ _ (fun r a h => ?_) ?_
    | with_reducible refine Within.ite ?_ ?_
    | split
    | dsimp only

theorem within_readNow {S : List StatePart} {s0 : State} {site : Nat} {unit : Nat} {fw : Bool} {host : Bool} {e : EccFinding} {a : Nat} {n : Nat} {s : State} {res : Option Nat}
    (hS : Covers S [.freeCtr, .host, .ev, .fw, .err, .fab, .hbms, .bufs, .engines, .links, .mem, .cores, .hostMem, .bootLog, .bootStore, .bootStoreMem])
    (hw : Within S s0 s) : Within S s0 (readNow site unit fw host e a n s res).2.2.2 := by
  unfold readNow
  repeat' first
    | with_reducible assumption
    | intro _
    | with_reducible refine within_readVia (hS.mono (by decide)) ?_
    | split
    | dsimp only

theorem within_writeNow {S : List StatePart} {s0 : State} {site : Nat} {unit : Nat} {fw : Bool} {a : Nat} {bs : List Byte} {s : State}
    (hS : Covers S [.freeCtr, .host, .ev, .fw, .err, .fab, .hbms, .bufs, .engines, .links, .mem, .cores, .hostMem, .bootLog, .bootStore, .bootStoreMem])
    (hw : Within S s0 s) : Within S s0 (writeNow site unit fw a bs s).2 := by
  unfold writeNow
  repeat' first
    | with_reducible assumption
    | intro _
    | with_reducible refine within_accessNow (hS.mono (by decide)) ?_
    | with_reducible refine Within.foldl _ _ (fun s a h => ?_) ?_
    | with_reducible refine Within.foldl_fourth _ _ (fun r a h => ?_) ?_
    | with_reducible refine Within.foldl_third _ _ (fun r a h => ?_) ?_
    | with_reducible refine Within.foldl_snd _ _ (fun r a h => ?_) ?_
    | with_reducible refine Within.foldl_fst _ _ (fun r a h => ?_) ?_
    | with_reducible refine Within.ite ?_ ?_
    | split
    | dsimp only

end Sys2Proof.Laws
end

