-- ==== Sys2Proof/Laws/FrameAccess.lean ====
section
/-! SUPPORT. What each operation of Machine/Access.lean may change. -/

set_option linter.unusedTactic false
set_option linter.unreachableTactic false
set_option linter.unusedVariables false
set_option linter.unusedSimpArgs false

namespace Sys2Proof.Laws

open Machine

theorem within_accessFault {S : List StatePart} {s0 : State} {k : Nat} {code : Nat} {s : State}
    (hS : Covers S [.bays, .cores])
    (hw : Within S s0 s) : Within S s0 (accessFault k code s) := by
  unfold accessFault
  repeat' first
    | with_reducible assumption
    | intro _
    | with_reducible refine within_modCore (hS.mono (by decide)) ?_
    | with_reducible refine within_setBay (hS.mono (by decide)) ?_
    | with_reducible refine Within.ite ?_ ?_
    | split
    | dsimp only

theorem within_placeReads {S : List StatePart} {s0 : State} {k : Nat} {rows : List Nat} {s : State}
    (hS : Covers S [.cores])
    (hw : Within S s0 s) : Within S s0 (placeReads k rows s) := by
  unfold placeReads
  repeat' first
    | with_reducible assumption
    | intro _
    | with_reducible refine within_usePort (hS.mono (by decide)) ?_
    | with_reducible refine Within.foldl _ _ (fun s a h => ?_) ?_
    | with_reducible refine Within.foldl_fourth _ _ (fun r a h => ?_) ?_
    | with_reducible refine Within.foldl_third _ _ (fun r a h => ?_) ?_
    | with_reducible refine Within.foldl_snd _ _ (fun r a h => ?_) ?_
    | with_reducible refine Within.foldl_fst _ _ (fun r a h => ?_) ?_
    | split
    | dsimp only

theorem within_modRun {S : List StatePart} {s0 : State} {k : Nat} {id : Nat} {f : DescRun → DescRun} {s : State}
    (hS : Covers S [.cores])
    (hw : Within S s0 s) : Within S s0 (modRun k id f s) := by
  unfold modRun
  repeat' first
    | with_reducible assumption
    | intro _
    | with_reducible refine within_modCore (hS.mono (by decide)) ?_
    | with_reducible refine Within.ite ?_ ?_
    | split
    | dsimp only

theorem within_issueBursts {S : List StatePart} {s0 : State} {k : Nat} {part : Nat} {x0 : Nat} {x1 : State}
    (hS : Covers S [.host, .ev, .fw, .err, .fab, .bays, .cores, .hostMem, .bootLog])
    (hw : Within S s0 x1) : Within S s0 (issueBursts k part x0 x1) := by
  induction x0 generalizing x1 with
  | zero =>
    rw [issueBursts]
    repeat' first
      | with_reducible assumption
      | intro _
      | with_reducible refine within_checkReads (hS.mono (by decide)) ?_
      | with_reducible refine within_modCore (hS.mono (by decide)) ?_
      | with_reducible refine within_modRun (hS.mono (by decide)) ?_
      | with_reducible refine within_placeReads (hS.mono (by decide)) ?_
      | with_reducible refine within_sendRequest (hS.mono (by decide)) ?_
      | with_reducible refine Within.ite ?_ ?_
      | split
      | dsimp only
  | succ n ih =>
    rw [issueBursts]
    repeat' first
      | with_reducible assumption
      | with_reducible refine ih ?_
      | intro _
      | with_reducible refine within_checkReads (hS.mono (by decide)) ?_
      | with_reducible refine within_modCore (hS.mono (by decide)) ?_
      | with_reducible refine within_modRun (hS.mono (by decide)) ?_
      | with_reducible refine within_placeReads (hS.mono (by decide)) ?_
      | with_reducible refine within_sendRequest (hS.mono (by decide)) ?_
      | with_reducible refine Within.ite ?_ ?_
      | split
      | dsimp only

theorem within_execDescriptorStart {S : List StatePart} {s0 : State} {k : CoreId} {time : Nat} {s : State}
    (hS : Covers S [.now, .host, .ev, .fw, .err, .fab, .bays, .cores, .hostMem, .bootLog])
    (hw : Within S s0 s) : OutWithin S s0 (execDescriptorStart k time s) := by
  unfold execDescriptorStart
  repeat' first
    | with_reducible assumption
    | intro _
    | with_reducible refine within_accessFault (hS.mono (by decide)) ?_
    | with_reducible refine within_atTime (hS.mono (by decide)) ?_
    | with_reducible refine within_issueBursts (hS.mono (by decide)) ?_
    | with_reducible refine within_modCore (hS.mono (by decide)) ?_
    | with_reducible refine OutWithin.next ?_
    | exact OutWithin.fault _ _ _
    | with_reducible refine OutWithin.ite ?_ ?_
    | with_reducible refine Within.ite ?_ ?_
    | split
    | dsimp only

theorem within_writeFillRows {S : List StatePart} {s0 : State} {k : Nat} {x : DescRun} {rows : List Nat} {s : State}
    (hS : Covers S [.freeCtr, .cores])
    (hw : Within S s0 s) : Within S s0 (writeFillRows k x rows s) := by
  unfold writeFillRows
  repeat' first
    | with_reducible assumption
    | intro _
    | with_reducible refine within_modRun (hS.mono (by decide)) ?_
    | with_reducible refine within_putEngineRow (hS.mono (by decide)) ?_
    | with_reducible refine within_usePort (hS.mono (by decide)) ?_
    | with_reducible refine Within.foldl _ _ (fun s a h => ?_) ?_
    | with_reducible refine Within.foldl_fourth _ _ (fun r a h => ?_) ?_
    | with_reducible refine Within.foldl_third _ _ (fun r a h => ?_) ?_
    | with_reducible refine Within.foldl_snd _ _ (fun r a h => ?_) ?_
    | with_reducible refine Within.foldl_fst _ _ (fun r a h => ?_) ?_
    | with_reducible refine Within.ite ?_ ?_
    | split
    | dsimp only

theorem within_freeBursts {S : List StatePart} {s0 : State} {k : Nat} {s : State}
    (hS : Covers S [.cores])
    (hw : Within S s0 s) : Within S s0 (freeBursts k s) := by
  unfold freeBursts
  repeat' first
    | with_reducible assumption
    | intro _
    | with_reducible refine within_modCore (hS.mono (by decide)) ?_
    | split
    | dsimp only

theorem within_noteRest {S : List StatePart} {s0 : State} {k : Nat} {s : State}
    (hS : Covers S [.cores])
    (hw : Within S s0 s) : Within S s0 (noteRest k s) := by
  unfold noteRest
  repeat' first
    | with_reducible assumption
    | intro _
    | with_reducible refine within_modCore (hS.mono (by decide)) ?_
    | with_reducible refine Within.ite ?_ ?_
    | split
    | dsimp only

theorem within_dropBurst {S : List StatePart} {s0 : State} {k : Nat} {b : Burst} {s : State}
    (hS : Covers S [.cores])
    (hw : Within S s0 s) : Within S s0 (dropBurst k b s) := by
  unfold dropBurst
  repeat' first
    | with_reducible assumption
    | intro _
    | with_reducible refine within_modCore (hS.mono (by decide)) ?_
    | split
    | dsimp only

theorem within_takeBurst {S : List StatePart} {s0 : State} {k : Nat} {b : Burst} {x : DescRun} {s : State}
    (hS : Covers S [.freeCtr, .bays, .cores])
    (hw : Within S s0 s) : Within S s0 (takeBurst k b x s) := by
  unfold takeBurst
  repeat' first
    | with_reducible assumption
    | intro _
    | with_reducible refine within_accessFault (hS.mono (by decide)) ?_
    | with_reducible refine within_dropBurst (hS.mono (by decide)) ?_
    | with_reducible refine within_freeBursts (hS.mono (by decide)) ?_
    | with_reducible refine within_modRun (hS.mono (by decide)) ?_
    | with_reducible refine within_writeFillRows (hS.mono (by decide)) ?_
    | with_reducible refine Within.ite ?_ ?_
    | split
    | dsimp only

theorem within_execBurstResponse {S : List StatePart} {s0 : State} {k : CoreId} {tag : BitVec 12} {time : Nat} {s : State}
    (hS : Covers S [.freeCtr, .now, .host, .ev, .fw, .err, .fab, .bays, .cores, .hostMem, .bootLog])
    (hw : Within S s0 s) : OutWithin S s0 (execBurstResponse k tag time s) := by
  unfold execBurstResponse
  repeat' first
    | with_reducible assumption
    | intro _
    | with_reducible refine within_atTime (hS.mono (by decide)) ?_
    | with_reducible refine within_dropBurst (hS.mono (by decide)) ?_
    | with_reducible refine within_issueBursts (hS.mono (by decide)) ?_
    | with_reducible refine within_noteRest (hS.mono (by decide)) ?_
    | with_reducible refine within_takeBurst (hS.mono (by decide)) ?_
    | with_reducible refine OutWithin.next ?_
    | exact OutWithin.fault _ _ _
    | with_reducible refine OutWithin.ite ?_ ?_
    | with_reducible refine Within.ite ?_ ?_
    | split
    | dsimp only

theorem within_portTag {S : List StatePart} {s0 : State} {k : Nat} {slot : Nat} {full : Bool} {s : State}
    (hS : Covers S [.cores])
    (hw : Within S s0 s) : Within S s0 (portTag k slot full s) := by
  unfold portTag
  repeat' first
    | with_reducible assumption
    | intro _
    | with_reducible refine within_modCore (hS.mono (by decide)) ?_
    | with_reducible refine Within.ite ?_ ?_
    | split
    | dsimp only

theorem within_landDesc {S : List StatePart} {s0 : State} {k : Nat} {id : Nat} {s : State}
    (hS : Covers S [.cores])
    (hw : Within S s0 s) : Within S s0 (landDesc k id s) := by
  unfold landDesc
  repeat' first
    | with_reducible assumption
    | intro _
    | with_reducible refine within_modCore (hS.mono (by decide)) ?_
    | with_reducible refine Within.foldl _ _ (fun s a h => ?_) ?_
    | with_reducible refine Within.foldl_fourth _ _ (fun r a h => ?_) ?_
    | with_reducible refine Within.foldl_third _ _ (fun r a h => ?_) ?_
    | with_reducible refine Within.foldl_snd _ _ (fun r a h => ?_) ?_
    | with_reducible refine Within.foldl_fst _ _ (fun r a h => ?_) ?_
    | with_reducible refine Within.ite ?_ ?_
    | split
    | dsimp only

theorem within_execDescriptorComplete {S : List StatePart} {s0 : State} {k : CoreId} {time : Nat} {s : State}
    (hS : Covers S [.now, .bays, .cores, .xings])
    (hw : Within S s0 s) : OutWithin S s0 (execDescriptorComplete k time s) := by
  unfold execDescriptorComplete
  repeat' first
    | with_reducible assumption
    | intro _
    | with_reducible refine within_atTime (hS.mono (by decide)) ?_
    | with_reducible refine within_landDesc (hS.mono (by decide)) ?_
    | with_reducible refine within_modCore (hS.mono (by decide)) ?_
    | with_reducible refine within_noteRest (hS.mono (by decide)) ?_
    | with_reducible refine within_portTag (hS.mono (by decide)) ?_
    | with_reducible refine within_settleHolds (hS.mono (by decide)) ?_
    | with_reducible refine OutWithin.next ?_
    | exact OutWithin.fault _ _ _
    | with_reducible refine OutWithin.ite ?_ ?_
    | with_reducible refine Within.ite ?_ ?_
    | split
    | dsimp only

theorem within_execRemoteScratchpadWrite {S : List StatePart} {s0 : State} {k : CoreId} {time : Nat} {s : State}
    (hS : Covers S [.freeCtr, .now, .host, .ev, .fw, .err, .fab, .hbms, .bufs, .mem, .bays, .cores, .xings, .hostMem, .bootLog, .bootStore, .bootStoreMem])
    (hw : Within S s0 s) : OutWithin S s0 (execRemoteScratchpadWrite k time s) := by
  unfold execRemoteScratchpadWrite
  repeat' first
    | with_reducible assumption
    | intro _
    | with_reducible refine within_answer (hS.mono (by decide)) ?_
    | with_reducible refine within_atTime (hS.mono (by decide)) ?_
    | with_reducible refine within_modCore (hS.mono (by decide)) ?_
    | with_reducible refine within_portTag (hS.mono (by decide)) ?_
    | with_reducible refine within_settleHolds (hS.mono (by decide)) ?_
    | with_reducible refine within_writeMem (hS.mono (by decide)) ?_
    | with_reducible refine OutWithin.next ?_
    | exact OutWithin.fault _ _ _
    | with_reducible refine OutWithin.ite ?_ ?_
    | with_reducible refine Within.ite ?_ ?_
    | split
    | dsimp only

end Sys2Proof.Laws
end

