-- ==== Sys2Proof/Laws/FrameBundle.lean ====
section
/-! SUPPORT. What each operation of Machine/Bundle.lean may change. -/

set_option linter.unusedTactic false
set_option linter.unreachableTactic false
set_option linter.unusedVariables false
set_option linter.unusedSimpArgs false

namespace Sys2Proof.Laws

open Machine

theorem within_microAttempt {S : List StatePart} {s0 : State} {k : Nat} {s : State}
    (hS : Covers S [.host, .ev, .fw, .err, .hostMem, .bootLog])
    (hw : Within S s0 s) : Within S s0 (microAttempt k s).2.2 := by
  unfold microAttempt
  repeat' first
    | with_reducible assumption
    | intro _
    | with_reducible refine within_examine (hS.mono (by decide)) ?_
    | split
    | dsimp only

theorem within_microTries {S : List StatePart} {s0 : State} {k : Nat} {x0 : Nat} {x1 : Bool} {x2 : State}
    (hS : Covers S [.fp, .host, .ev, .fw, .err, .cores, .hostMem, .bootGeneration, .bootFailures, .bootLog])
    (hw : Within S s0 x2) : Within S s0 (microTries k x0 x1 x2) := by
  induction x0 generalizing x1 x2 with
  | zero =>
    rw [microTries]
    repeat' first
      | with_reducible assumption
      | intro _
      | with_reducible refine within_failCore (hS.mono (by decide)) ?_
      | with_reducible refine within_microAttempt (hS.mono (by decide)) ?_
      | with_reducible refine within_modCore (hS.mono (by decide)) ?_
      | with_reducible refine Within.ite ?_ ?_
      | split
      | dsimp only
  | succ n ih =>
    rw [microTries]
    repeat' first
      | with_reducible assumption
      | with_reducible refine ih ?_
      | intro _
      | with_reducible refine within_failCore (hS.mono (by decide)) ?_
      | with_reducible refine within_microAttempt (hS.mono (by decide)) ?_
      | with_reducible refine within_modCore (hS.mono (by decide)) ?_
      | with_reducible refine Within.ite ?_ ?_
      | split
      | dsimp only

theorem within_loadMicro {S : List StatePart} {s0 : State} {k : Nat} {s : State}
    (hS : Covers S [.fp, .host, .ev, .fw, .err, .cores, .hostMem, .bootGeneration, .bootFailures, .bootLog])
    (hw : Within S s0 s) : Within S s0 (loadMicro k s) := by
  unfold loadMicro
  repeat' first
    | with_reducible assumption
    | intro _
    | with_reducible refine within_microTries (hS.mono (by decide)) ?_
    | split
    | dsimp only

theorem within_execMicrocodeLoad {S : List StatePart} {s0 : State} {k : CoreId} {time : Nat} {s : State}
    (hS : Covers S [.now, .fp, .host, .ev, .fw, .err, .cores, .hostMem, .bootGeneration, .bootFailures, .bootLog])
    (hw : Within S s0 s) : OutWithin S s0 (execMicrocodeLoad k time s) := by
  unfold execMicrocodeLoad
  repeat' first
    | with_reducible assumption
    | intro _
    | with_reducible refine within_atTime (hS.mono (by decide)) ?_
    | with_reducible refine within_loadMicro (hS.mono (by decide)) ?_
    | with_reducible refine OutWithin.next ?_
    | exact OutWithin.fault _ _ _
    | with_reducible refine OutWithin.ite ?_ ?_
    | with_reducible refine Within.ite ?_ ?_
    | split
    | dsimp only

end Sys2Proof.Laws
end

