-- ==== Sys2Proof/Laws/FrameIssue.lean ====
section
/-! SUPPORT. What each operation of Machine/Issue.lean may change. -/

set_option linter.unusedTactic false
set_option linter.unreachableTactic false
set_option linter.unusedVariables false
set_option linter.unusedSimpArgs false

namespace Sys2Proof.Laws

open Machine

theorem within_releaseAhead {S : List StatePart} {s0 : State} {k : Nat} {r : AheadRec} {s : State}
    (hS : Covers S [.cores, .xings])
    (hw : Within S s0 s) : Within S s0 (releaseAhead k r s) := by
  unfold releaseAhead
  repeat' first
    | with_reducible assumption
    | intro _
    | with_reducible refine within_modCore (hS.mono (by decide)) ?_
    | with_reducible refine within_modXingOut (hS.mono (by decide)) ?_
    | with_reducible refine Within.foldl _ _ (fun s a h => ?_) ?_
    | with_reducible refine Within.foldl_fourth _ _ (fun r a h => ?_) ?_
    | with_reducible refine Within.foldl_third _ _ (fun r a h => ?_) ?_
    | with_reducible refine Within.foldl_snd _ _ (fun r a h => ?_) ?_
    | with_reducible refine Within.foldl_fst _ _ (fun r a h => ?_) ?_
    | split
    | dsimp only

theorem within_pegResync {S : List StatePart} {s0 : State} {k : Nat} {s : State}
    (hS : Covers S [.cores])
    (hw : Within S s0 s) : Within S s0 (pegResync k s) := by
  unfold pegResync
  repeat' first
    | with_reducible assumption
    | intro _
    | with_reducible refine within_modCore (hS.mono (by decide)) ?_
    | split
    | dsimp only

theorem within_leaveWalk {S : List StatePart} {s0 : State} {k : Nat} {t : Nat} {w : Walker} {s : State}
    (hS : Covers S [.cores, .xings])
    (hw : Within S s0 s) : Within S s0 (leaveWalk k t w s) := by
  unfold leaveWalk
  repeat' first
    | with_reducible assumption
    | intro _
    | with_reducible refine within_modCore (hS.mono (by decide)) ?_
    | with_reducible refine within_releaseAhead (hS.mono (by decide)) ?_
    | with_reducible refine Within.foldl _ _ (fun s a h => ?_) ?_
    | with_reducible refine Within.foldl_fourth _ _ (fun r a h => ?_) ?_
    | with_reducible refine Within.foldl_third _ _ (fun r a h => ?_) ?_
    | with_reducible refine Within.foldl_snd _ _ (fun r a h => ?_) ?_
    | with_reducible refine Within.foldl_fst _ _ (fun r a h => ?_) ?_
    | split
    | dsimp only

theorem within_issueAdvance {S : List StatePart} {s0 : State} {k : Nat} {t : Nat} {s : State}
    (hS : Covers S [.cores, .xings])
    (hw : Within S s0 s) : Within S s0 (issueAdvance k t s) := by
  unfold issueAdvance
  repeat' first
    | with_reducible assumption
    | intro _
    | with_reducible refine within_leaveWalk (hS.mono (by decide)) ?_
    | with_reducible refine within_setCore (hS.mono (by decide)) ?_
    | with_reducible refine Within.ite ?_ ?_
    | split
    | dsimp only

theorem within_issueEnter {S : List StatePart} {s0 : State} {k t : Nat} {kind : OpKind} {s s' : State} {o : BitVec 128}
    {sh : Bool} {r : AheadRec} (hS : Covers S [.bays, .cores, .xings]) (h : Within S s0 s)
    (e : issueEnter k t kind s = some (o, sh, r, s')) : Within S s0 s' := by
  unfold issueEnter at e
  split at e
  · cases e
  · dsimp only at e
    split at e
    · cases e
    · split at e
      · cases e
        exact within_enterCycle hS h (by assumption)
      · cases e

theorem within_checkLate {S : List StatePart} {s0 : State} {k : Nat} {t : Nat} {s : State}
    (hS : Covers S [.bays, .cores])
    (hw : Within S s0 s) : Within S s0 (checkLate k t s) := by
  unfold checkLate
  repeat' first
    | with_reducible assumption
    | intro _
    | with_reducible refine within_faultCoreBay (hS.mono (by decide)) ?_
    | with_reducible refine within_modCore (hS.mono (by decide)) ?_
    | split
    | dsimp only

theorem within_examineOp {S : List StatePart} {s0 : State} {k : Nat} {t : Nat} {kind : OpKind} {s : State}
    (hS : Covers S [.host, .ev, .fw, .err, .bays, .cores, .hostMem, .bootLog])
    (hw : Within S s0 s) : Within S s0 (examineOp k t kind s) := by
  unfold examineOp
  repeat' first
    | with_reducible assumption
    | intro _
    | with_reducible refine within_examineParity (hS.mono (by decide)) ?_
    | with_reducible refine Within.ite ?_ ?_
    | split
    | dsimp only

theorem within_issueRun {S : List StatePart} {s0 : State} {k : Nat} {t : Nat} {kind : OpKind} {shimEff : BitVec 128 → State → State} {eff : BitVec 128 → AheadRec → State → State} {s : State}
    (hS : Covers S [.host, .ev, .fw, .err, .bays, .cores, .xings, .hostMem, .bootLog])
    (h_shimEff : ∀ y0 y1, Within S s0 y1 → Within S s0 (shimEff y0 y1))
    (h_eff : ∀ y0 y1 y2, Within S s0 y2 → Within S s0 (eff y0 y1 y2))
    (hw : Within S s0 s) : OutWithin S s0 (issueRun k t kind shimEff eff s) := by
  unfold issueRun
  repeat' first
    | with_reducible assumption
    | intro _
    | with_reducible refine h_shimEff _ _ ?_
    | with_reducible refine h_eff _ _ _ ?_
    | with_reducible refine within_checkLate (hS.mono (by decide)) ?_
    | with_reducible refine within_examineOp (hS.mono (by decide)) ?_
    | with_reducible refine within_issueAdvance (hS.mono (by decide)) ?_
    | with_reducible refine OptPairWithin.map (within_issueEnter (hS.mono (by decide)) ?_) (fun r h => ?_)
    | with_reducible refine (within_issueEnter (hS.mono (by decide)) ?_).get (by with_reducible assumption)
    | with_reducible refine within_issueEnter (hS.mono (by decide)) ?_
    | with_reducible refine within_releaseAhead (hS.mono (by decide)) ?_
    | with_reducible exact within_issueEnter (hS.mono (by decide)) (by with_reducible assumption) (by with_reducible assumption)
    | with_reducible refine OutWithin.next ?_
    | exact OutWithin.fault _ _ _
    | with_reducible refine OutWithin.ite ?_ ?_
    | with_reducible refine Within.ite ?_ ?_
    | split
    | dsimp only

theorem within_noShim {S : List StatePart} {s0 : State} {u0 : BitVec 128} {s : State}
    (hS : Covers S [])
    (hw : Within S s0 s) : Within S s0 (noShim u0 s) := by
  unfold noShim
  repeat' first
    | with_reducible assumption
    | intro _
    | split
    | dsimp only

theorem within_runTagActs {S : List StatePart} {s0 : State} {kind : TagKind} {k : Nat} {t : Nat} {expectEmpty : Nat → Bool} {s : State}
    (hS : Covers S [.bays, .cores, .xings])
    (hw : Within S s0 s) : OutWithin S s0 (runTagActs kind k t expectEmpty s) := by
  unfold runTagActs
  repeat' first
    | with_reducible assumption
    | intro _
    | with_reducible refine OptPairWithin.map (within_enterCycle (hS.mono (by decide)) ?_) (fun r h => ?_)
    | with_reducible refine (within_enterCycle (hS.mono (by decide)) ?_).get (by with_reducible assumption)
    | with_reducible refine within_enterCycle (hS.mono (by decide)) ?_
    | with_reducible refine within_expectTag (hS.mono (by decide)) ?_
    | with_reducible refine within_modCore (hS.mono (by decide)) ?_
    | with_reducible exact within_enterCycle (hS.mono (by decide)) (by with_reducible assumption) (by with_reducible assumption)
    | with_reducible refine OutWithin.next ?_
    | exact OutWithin.fault _ _ _
    | with_reducible refine Within.foldl _ _ (fun s a h => ?_) ?_
    | with_reducible refine Within.foldl_fourth _ _ (fun r a h => ?_) ?_
    | with_reducible refine Within.foldl_third _ _ (fun r a h => ?_) ?_
    | with_reducible refine Within.foldl_snd _ _ (fun r a h => ?_) ?_
    | with_reducible refine Within.foldl_fst _ _ (fun r a h => ?_) ?_
    | with_reducible refine OutWithin.ite ?_ ?_
    | with_reducible refine Within.ite ?_ ?_
    | split
    | dsimp only

theorem within_freshOp {S : List StatePart} {s0 : State} {k : Nat} {s : State}
    (hS : Covers S [.cores])
    (hw : Within S s0 s) : Within S s0 (freshOp k s).2 := by
  unfold freshOp
  repeat' first
    | with_reducible assumption
    | intro _
    | with_reducible refine within_modCore (hS.mono (by decide)) ?_
    | split
    | dsimp only

end Sys2Proof.Laws
end

