-- ==== Sys2Proof/Laws/FrameSequencer.lean ====
section
/-! SUPPORT. What each operation of Machine/Sequencer.lean may change. -/

set_option linter.unusedTactic false
set_option linter.unreachableTactic false
set_option linter.unusedVariables false
set_option linter.unusedSimpArgs false

namespace Sys2Proof.Laws

open Machine

theorem within_execAccessEnq {S : List StatePart} {s0 : State} {k : CoreId} {t : Nat} {s : State}
    (hS : Covers S [.host, .ev, .fw, .err, .bays, .cores, .xings, .hostMem, .bootLog])
    (hw : Within S s0 s) : OutWithin S s0 (execAccessEnq k t s) := by
  unfold execAccessEnq
  repeat' first
    | with_reducible assumption
    | intro _
    | with_reducible refine within_checkLate (hS.mono (by decide)) ?_
    | with_reducible refine within_checkReads (hS.mono (by decide)) ?_
    | with_reducible refine within_issueRun (hS.mono (by decide)) ?_ ?_ ?_
    | with_reducible refine within_modCore (hS.mono (by decide)) ?_
    | with_reducible refine within_noShim (hS.mono (by decide)) ?_
    | with_reducible refine OutWithin.next ?_
    | exact OutWithin.fault _ _ _
    | with_reducible refine OutWithin.ite ?_ ?_
    | with_reducible refine Within.ite ?_ ?_
    | split
    | dsimp only

theorem within_execSend {S : List StatePart} {s0 : State} {k : CoreId} {t : Nat} {s : State}
    (hS : Covers S [.host, .ev, .fw, .err, .bays, .cores, .xings, .hostMem, .bootLog])
    (hw : Within S s0 s) : OutWithin S s0 (execSend k t s) := by
  unfold execSend
  repeat' first
    | with_reducible assumption
    | intro _
    | with_reducible refine within_checkReads (hS.mono (by decide)) ?_
    | with_reducible refine within_expectTag (hS.mono (by decide)) ?_
    | with_reducible refine within_issueRun (hS.mono (by decide)) ?_ ?_ ?_
    | with_reducible refine within_modCore (hS.mono (by decide)) ?_
    | with_reducible refine within_noShim (hS.mono (by decide)) ?_
    | with_reducible refine OutWithin.next ?_
    | exact OutWithin.fault _ _ _
    | with_reducible refine OutWithin.ite ?_ ?_
    | with_reducible refine Within.ite ?_ ?_
    | split
    | dsimp only

theorem within_execSendTagEmpty {S : List StatePart} {s0 : State} {k : CoreId} {t : Nat} {s : State}
    (hS : Covers S [.bays, .cores, .xings])
    (hw : Within S s0 s) : OutWithin S s0 (execSendTagEmpty k t s) := by
  unfold execSendTagEmpty
  repeat' first
    | with_reducible assumption
    | intro _
    | with_reducible refine within_runTagActs (hS.mono (by decide)) ?_
    | with_reducible refine OutWithin.next ?_
    | exact OutWithin.fault _ _ _
    | split
    | dsimp only

theorem within_execReceive {S : List StatePart} {s0 : State} {k : CoreId} {t : Nat} {s : State}
    (hS : Covers S [.host, .ev, .fw, .err, .bays, .cores, .xings, .hostMem, .bootLog])
    (hw : Within S s0 s) : OutWithin S s0 (execReceive k t s) := by
  unfold execReceive
  repeat' first
    | with_reducible assumption
    | intro _
    | with_reducible refine within_issueRun (hS.mono (by decide)) ?_ ?_ ?_
    | with_reducible refine within_modCore (hS.mono (by decide)) ?_
    | with_reducible refine within_noShim (hS.mono (by decide)) ?_
    | with_reducible refine OutWithin.next ?_
    | exact OutWithin.fault _ _ _
    | with_reducible refine OutWithin.ite ?_ ?_
    | with_reducible refine Within.ite ?_ ?_
    | split
    | dsimp only

theorem within_execReceiveTagFull {S : List StatePart} {s0 : State} {k : CoreId} {t : Nat} {s : State}
    (hS : Covers S [.bays, .cores, .xings])
    (hw : Within S s0 s) : OutWithin S s0 (execReceiveTagFull k t s) := by
  unfold execReceiveTagFull
  repeat' first
    | with_reducible assumption
    | intro _
    | with_reducible refine within_runTagActs (hS.mono (by decide)) ?_
    | with_reducible refine OutWithin.next ?_
    | exact OutWithin.fault _ _ _
    | split
    | dsimp only

theorem within_counterRun {S : List StatePart} {s0 : State} {k : Nat} {t : Nat} {kind : OpKind} {eff : BitVec 128 → State → State} {s : State}
    (hS : Covers S [.host, .ev, .fw, .err, .bays, .cores, .xings, .hostMem, .bootLog])
    (h_eff : ∀ y0 y1, Within S s0 y1 → Within S s0 (eff y0 y1))
    (hw : Within S s0 s) : OutWithin S s0 (counterRun k t kind eff s) := by
  unfold counterRun
  repeat' first
    | with_reducible assumption
    | intro _
    | with_reducible refine h_eff _ _ ?_
    | with_reducible refine within_issueRun (hS.mono (by decide)) ?_ ?_ ?_
    | with_reducible refine OutWithin.next ?_
    | exact OutWithin.fault _ _ _
    | split
    | dsimp only

theorem within_execCload {S : List StatePart} {s0 : State} {k : CoreId} {t : Nat} {s : State}
    (hS : Covers S [.host, .ev, .fw, .err, .bays, .cores, .xings, .hostMem, .bootLog])
    (hw : Within S s0 s) : OutWithin S s0 (execCload k t s) := by
  unfold execCload
  repeat' first
    | with_reducible assumption
    | intro _
    | with_reducible refine within_counterRun (hS.mono (by decide)) ?_ ?_
    | with_reducible refine within_modCore (hS.mono (by decide)) ?_
    | with_reducible refine OutWithin.next ?_
    | exact OutWithin.fault _ _ _
    | split
    | dsimp only

theorem within_execCstep {S : List StatePart} {s0 : State} {k : CoreId} {t : Nat} {s : State}
    (hS : Covers S [.host, .ev, .fw, .err, .bays, .cores, .xings, .hostMem, .bootLog])
    (hw : Within S s0 s) : OutWithin S s0 (execCstep k t s) := by
  unfold execCstep
  repeat' first
    | with_reducible assumption
    | intro _
    | with_reducible refine within_counterRun (hS.mono (by decide)) ?_ ?_
    | with_reducible refine within_modCore (hS.mono (by decide)) ?_
    | with_reducible refine within_noteEvent (hS.mono (by decide)) ?_
    | with_reducible refine OutWithin.next ?_
    | exact OutWithin.fault _ _ _
    | with_reducible refine OutWithin.ite ?_ ?_
    | with_reducible refine Within.ite ?_ ?_
    | split
    | dsimp only

theorem within_execCloop {S : List StatePart} {s0 : State} {k : CoreId} {t : Nat} {s : State}
    (hS : Covers S [.host, .ev, .fw, .err, .bays, .cores, .xings, .hostMem, .bootLog])
    (hw : Within S s0 s) : OutWithin S s0 (execCloop k t s) := by
  unfold execCloop
  repeat' first
    | with_reducible assumption
    | intro _
    | with_reducible refine within_counterRun (hS.mono (by decide)) ?_ ?_
    | with_reducible refine within_faultCoreBay (hS.mono (by decide)) ?_
    | with_reducible refine OptPairWithin.map (within_issueEnter (hS.mono (by decide)) ?_) (fun r h => ?_)
    | with_reducible refine (within_issueEnter (hS.mono (by decide)) ?_).get (by with_reducible assumption)
    | with_reducible refine within_issueEnter (hS.mono (by decide)) ?_
    | with_reducible refine within_leaveWalk (hS.mono (by decide)) ?_
    | with_reducible refine within_modCore (hS.mono (by decide)) ?_
    | with_reducible exact within_issueEnter (hS.mono (by decide)) (by with_reducible assumption) (by with_reducible assumption)
    | with_reducible refine OutWithin.next ?_
    | exact OutWithin.fault _ _ _
    | with_reducible refine OutWithin.ite ?_ ?_
    | with_reducible refine Within.ite ?_ ?_
    | split
    | dsimp only

theorem within_execCtest {S : List StatePart} {s0 : State} {k : CoreId} {t : Nat} {s : State}
    (hS : Covers S [.host, .ev, .fw, .err, .bays, .cores, .xings, .hostMem, .bootLog])
    (hw : Within S s0 s) : OutWithin S s0 (execCtest k t s) := by
  unfold execCtest
  repeat' first
    | with_reducible assumption
    | intro _
    | with_reducible refine within_counterRun (hS.mono (by decide)) ?_ ?_
    | with_reducible refine OutWithin.next ?_
    | exact OutWithin.fault _ _ _
    | split
    | dsimp only

theorem within_execProduce {S : List StatePart} {s0 : State} {k : CoreId} {t : Nat} {s : State}
    (hS : Covers S [.host, .ev, .fw, .err, .bays, .cores, .xings, .hostMem, .bootLog])
    (hw : Within S s0 s) : OutWithin S s0 (execProduce k t s) := by
  unfold execProduce
  repeat' first
    | with_reducible assumption
    | intro _
    | with_reducible refine within_checkReads (hS.mono (by decide)) ?_
    | with_reducible refine within_issueRun (hS.mono (by decide)) ?_ ?_ ?_
    | with_reducible refine within_modCore (hS.mono (by decide)) ?_
    | with_reducible refine within_noShim (hS.mono (by decide)) ?_
    | with_reducible refine OutWithin.next ?_
    | exact OutWithin.fault _ _ _
    | split
    | dsimp only

theorem within_execConsume {S : List StatePart} {s0 : State} {k : CoreId} {t : Nat} {s : State}
    (hS : Covers S [.host, .ev, .fw, .err, .bays, .cores, .xings, .hostMem, .bootLog])
    (hw : Within S s0 s) : OutWithin S s0 (execConsume k t s) := by
  unfold execConsume
  repeat' first
    | with_reducible assumption
    | intro _
    | with_reducible refine within_examineParity (hS.mono (by decide)) ?_
    | with_reducible refine within_issueRun (hS.mono (by decide)) ?_ ?_ ?_
    | with_reducible refine within_modCore (hS.mono (by decide)) ?_
    | with_reducible refine within_noShim (hS.mono (by decide)) ?_
    | with_reducible refine within_noteEvent (hS.mono (by decide)) ?_
    | with_reducible refine OutWithin.next ?_
    | exact OutWithin.fault _ _ _
    | with_reducible refine OutWithin.ite ?_ ?_
    | with_reducible refine Within.ite ?_ ?_
    | split
    | dsimp only

theorem within_execPegPage {S : List StatePart} {s0 : State} {k : CoreId} {t : Nat} {s : State}
    (hS : Covers S [.host, .ev, .fw, .err, .bays, .cores, .xings, .hostMem, .bootLog])
    (hw : Within S s0 s) : OutWithin S s0 (execPegPage k t s) := by
  unfold execPegPage
  repeat' first
    | with_reducible assumption
    | intro _
    | with_reducible refine within_issueRun (hS.mono (by decide)) ?_ ?_ ?_
    | with_reducible refine within_modCore (hS.mono (by decide)) ?_
    | with_reducible refine within_pegResync (hS.mono (by decide)) ?_
    | with_reducible refine OutWithin.next ?_
    | exact OutWithin.fault _ _ _
    | with_reducible refine OutWithin.ite ?_ ?_
    | with_reducible refine Within.ite ?_ ?_
    | split
    | dsimp only

theorem within_claimMarks {S : List StatePart} {s0 : State} {k : Nat} {t : Nat} {x0 : List Side} {x1 : List Side} {x2 : State}
    (hS : Covers S [.bays, .cores, .xings])
    (hw : Within S s0 x2) : Within S s0 (claimMarks k t x0 x1 x2).2 := by
  induction x0 generalizing x1 x2 with
  | nil =>
    rw [claimMarks]
    repeat' first
      | with_reducible assumption
      | intro _
      | with_reducible refine within_checkLate (hS.mono (by decide)) ?_
      | with_reducible refine within_dropCond (hS.mono (by decide)) ?_
      | with_reducible refine within_modXingOut (hS.mono (by decide)) ?_
      | with_reducible refine Within.ite ?_ ?_
      | split
      | dsimp only
  | cons x l ih =>
    rw [claimMarks]
    repeat' first
      | with_reducible assumption
      | with_reducible refine ih ?_
      | intro _
      | with_reducible refine within_checkLate (hS.mono (by decide)) ?_
      | with_reducible refine within_dropCond (hS.mono (by decide)) ?_
      | with_reducible refine within_modXingOut (hS.mono (by decide)) ?_
      | with_reducible refine Within.ite ?_ ?_
      | split
      | dsimp only

theorem within_markStop {S : List StatePart} {s0 : State} {k : Nat} {t : Nat} {s : State}
    (hS : Covers S [.bays])
    (hw : Within S s0 s) : Within S s0 (markStop k t s) := by
  unfold markStop
  repeat' first
    | with_reducible assumption
    | intro _
    | with_reducible refine within_setBay (hS.mono (by decide)) ?_
    | with_reducible refine Within.ite ?_ ?_
    | split
    | dsimp only

theorem within_execEpochMark {S : List StatePart} {s0 : State} {k : CoreId} {t : Nat} {s : State}
    (hS : Covers S [.host, .ev, .fw, .err, .bays, .cores, .xings, .hostMem, .bootLog])
    (hw : Within S s0 s) : OutWithin S s0 (execEpochMark k t s) := by
  unfold execEpochMark
  repeat' first
    | with_reducible assumption
    | intro _
    | with_reducible refine within_claimMarks (hS.mono (by decide)) ?_
    | with_reducible refine within_issueRun (hS.mono (by decide)) ?_ ?_ ?_
    | with_reducible refine within_markStop (hS.mono (by decide)) ?_
    | with_reducible refine within_modCore (hS.mono (by decide)) ?_
    | with_reducible refine within_noShim (hS.mono (by decide)) ?_
    | with_reducible refine within_raise1 (hS.mono (by decide)) ?_
    | with_reducible refine OutWithin.next ?_
    | exact OutWithin.fault _ _ _
    | with_reducible refine OutWithin.ite ?_ ?_
    | with_reducible refine Within.ite ?_ ?_
    | split
    | dsimp only

end Sys2Proof.Laws
end

