-- ==== Sys2Proof/Laws/FrameFabric.lean ====
section
/-! SUPPORT. What each operation of Machine/Fabric.lean may change. -/

set_option linter.unusedTactic false
set_option linter.unreachableTactic false
set_option linter.unusedVariables false
set_option linter.unusedSimpArgs false

namespace Sys2Proof.Laws

open Machine

theorem within_fabricEvent {S : List StatePart} {s0 : State} {k : Nat} {cls : Nat} {sub : Nat} {index : Nat} {t : Nat} {detail : Nat} {count : CoreStatus → CoreStatus} {s : State}
    (hS : Covers S [.bays, .cores])
    (hw : Within S s0 s) : Within S s0 (fabricEvent k cls sub index t detail count s) := by
  unfold fabricEvent
  repeat' first
    | with_reducible assumption
    | intro _
    | with_reducible refine within_noteEvent (hS.mono (by decide)) ?_
    | with_reducible refine Within.ite ?_ ?_
    | split
    | dsimp only

theorem within_lostItem {S : List StatePart} {s0 : State} {k : Nat} {index : Nat} {t : Nat} {l : Layer} {src : Nat} {s : State}
    (hS : Covers S [.bays, .cores])
    (hw : Within S s0 s) : Within S s0 (lostItem k index t l src s) := by
  unfold lostItem
  repeat' first
    | with_reducible assumption
    | intro _
    | with_reducible refine within_fabricEvent (hS.mono (by decide)) ?_
    | split
    | dsimp only

theorem within_useClaim {S : List StatePart} {s0 : State} {k : Nat} {cycle : Nat} {d : Side} {kind : ClaimKind} {s : State}
    (hS : Covers S [.cores, .xings])
    (hw : Within S s0 s) : Within S s0 (useClaim k cycle d kind s) := by
  unfold useClaim
  repeat' first
    | with_reducible assumption
    | intro _
    | with_reducible refine within_modCore (hS.mono (by decide)) ?_
    | with_reducible refine within_modXingIn (hS.mono (by decide)) ?_
    | with_reducible refine within_modXingOut (hS.mono (by decide)) ?_
    | with_reducible refine Within.ite ?_ ?_
    | split
    | dsimp only

theorem within_entryItem {S : List StatePart} {s0 : State} {k : Nat} {index : Nat} {t : Nat} {epoch : BitVec 4} {l : Layer} {d : Side} {e : XEntry} {s : State}
    (hS : Covers S [.bays, .cores])
    (hw : Within S s0 s) : Within S s0 (entryItem k index t epoch l d e s).2 := by
  unfold entryItem
  repeat' first
    | with_reducible assumption
    | intro _
    | with_reducible refine within_fabricEvent (hS.mono (by decide)) ?_
    | with_reducible refine Within.ite ?_ ?_
    | split
    | dsimp only

theorem within_takeEntry {S : List StatePart} {s0 : State} {k : Nat} {index : Nat} {t : Nat} {claimCycle : Nat} {kind : ClaimKind} {epoch : BitVec 4} {l : Layer} {d : Side} {s : State}
    (hS : Covers S [.bays, .cores, .xings])
    (hw : Within S s0 s) : Within S s0 (takeEntry k index t claimCycle kind epoch l d s).2 := by
  unfold takeEntry
  repeat' first
    | with_reducible assumption
    | intro _
    | with_reducible refine within_checkLate (hS.mono (by decide)) ?_
    | with_reducible refine within_dropCond (hS.mono (by decide)) ?_
    | with_reducible refine within_entryItem (hS.mono (by decide)) ?_
    | with_reducible refine within_modXingIn (hS.mono (by decide)) ?_
    | with_reducible refine within_useClaim (hS.mono (by decide)) ?_
    | with_reducible refine Within.ite ?_ ?_
    | split
    | dsimp only

theorem within_takePorts {S : List StatePart} {s0 : State} {k : Nat} {index : Nat} {t : Nat} {epoch : BitVec 4} {e : BitVec 128} {next : BitVec 128} {x0 : List Side} {x1 : State}
    (hS : Covers S [.bays, .cores, .xings])
    (hw : Within S s0 x1) : Within S s0 (takePorts k index t epoch e next x0 x1).2.2 := by
  induction x0 generalizing x1 with
  | nil =>
    rw [takePorts]
    repeat' first
      | with_reducible assumption
      | intro _
      | with_reducible refine within_takeEntry (hS.mono (by decide)) ?_
      | with_reducible refine Within.ite ?_ ?_
      | split
      | dsimp only
  | cons x l ih =>
    rw [takePorts]
    repeat' first
      | with_reducible assumption
      | with_reducible refine ih ?_
      | intro _
      | with_reducible refine within_takeEntry (hS.mono (by decide)) ?_
      | with_reducible refine Within.ite ?_ ?_
      | split
      | dsimp only

theorem within_driveEntry {S : List StatePart} {s0 : State} {k : Nat} {t : Nat} {d : Side} {kind : XKind} {valid : Bool} {payload : Quarter} {s : State}
    (hS : Covers S [.bays, .cores, .xings])
    (hw : Within S s0 s) : Within S s0 (driveEntry k t d kind valid payload s) := by
  unfold driveEntry
  repeat' first
    | with_reducible assumption
    | intro _
    | with_reducible refine within_checkLate (hS.mono (by decide)) ?_
    | with_reducible refine within_dropCond (hS.mono (by decide)) ?_
    | with_reducible refine within_modXingOut (hS.mono (by decide)) ?_
    | with_reducible refine within_useClaim (hS.mono (by decide)) ?_
    | with_reducible refine Within.ite ?_ ?_
    | split
    | dsimp only

theorem within_writeMark {S : List StatePart} {s0 : State} {k : Nat} {d : Side} {s : State}
    (hS : Covers S [.xings])
    (hw : Within S s0 s) : Within S s0 (writeMark k d s) := by
  unfold writeMark
  repeat' first
    | with_reducible assumption
    | intro _
    | with_reducible refine within_modXingOut (hS.mono (by decide)) ?_
    | with_reducible refine Within.ite ?_ ?_
    | split
    | dsimp only

theorem within_settleEpoch {S : List StatePart} {s0 : State} {k : Nat} {t : Nat} {s : State}
    (hS : Covers S [.cores, .xings])
    (hw : Within S s0 s) : Within S s0 (settleEpoch k t s) := by
  unfold settleEpoch
  repeat' first
    | with_reducible assumption
    | intro _
    | with_reducible refine within_modCore (hS.mono (by decide)) ?_
    | with_reducible refine within_writeMark (hS.mono (by decide)) ?_
    | with_reducible refine Within.foldl _ _ (fun s a h => ?_) ?_
    | with_reducible refine Within.foldl_fourth _ _ (fun r a h => ?_) ?_
    | with_reducible refine Within.foldl_third _ _ (fun r a h => ?_) ?_
    | with_reducible refine Within.foldl_snd _ _ (fun r a h => ?_) ?_
    | with_reducible refine Within.foldl_fst _ _ (fun r a h => ?_) ?_
    | split
    | dsimp only

theorem within_driveOut {S : List StatePart} {s0 : State} {k : Nat} {t : Nat} {b : Bay} {epoch : BitVec 4} {l : Layer} {o : Side} {code : Nat} {it : Option Item} {s : State}
    (hS : Covers S [.bays, .cores, .xings])
    (hw : Within S s0 s) : Within S s0 (driveOut k t b epoch l o code it s) := by
  unfold driveOut
  repeat' first
    | with_reducible assumption
    | intro _
    | with_reducible refine within_driveEntry (hS.mono (by decide)) ?_
    | with_reducible refine within_modCore (hS.mono (by decide)) ?_
    | with_reducible refine Within.ite ?_ ?_
    | split
    | dsimp only

theorem within_captureRow {S : List StatePart} {s0 : State} {k : Nat} {t : Nat} {r : RecvRun} {it : Option Item} {s : State}
    (hS : Covers S [.freeCtr, .cores])
    (hw : Within S s0 s) : Within S s0 (captureRow k t r it s).2 := by
  unfold captureRow
  repeat' first
    | with_reducible assumption
    | intro _
    | with_reducible refine within_putRow (hS.mono (by decide)) ?_
    | with_reducible refine within_skipAccess (hS.mono (by decide)) ?_
    | with_reducible refine Within.ite ?_ ?_
    | split
    | dsimp only

theorem within_captureAll {S : List StatePart} {s0 : State} {k : Nat} {t : Nat} {row : Option Item} {transit : Option Item} {x0 : List RecvRun} {x1 : State}
    (hS : Covers S [.freeCtr, .cores])
    (hw : Within S s0 x1) : Within S s0 (captureAll k t row transit x0 x1).2 := by
  induction x0 generalizing x1 with
  | nil =>
    rw [captureAll]
    repeat' first
      | with_reducible assumption
      | intro _
      | with_reducible refine within_captureRow (hS.mono (by decide)) ?_
      | with_reducible refine Within.ite ?_ ?_
      | split
      | dsimp only
  | cons x l ih =>
    rw [captureAll]
    repeat' first
      | with_reducible assumption
      | with_reducible refine ih ?_
      | intro _
      | with_reducible refine within_captureRow (hS.mono (by decide)) ?_
      | with_reducible refine Within.ite ?_ ?_
      | split
      | dsimp only

theorem within_adderMiss {S : List StatePart} {s0 : State} {k : Nat} {index : Nat} {t : Nat} {sub : Nat} {fmt : Nat} {a : Option Item} {b : Option Item} {s : State}
    (hS : Covers S [.bays, .cores])
    (hw : Within S s0 s) : Within S s0 (adderMiss k index t sub fmt a b s) := by
  unfold adderMiss
  repeat' first
    | with_reducible assumption
    | intro _
    | with_reducible refine within_fabricEvent (hS.mono (by decide)) ?_
    | with_reducible refine Within.ite ?_ ?_
    | split
    | dsimp only

theorem within_steerCounts {S : List StatePart} {s0 : State} {k : Nat} {index : Nat} {t : Nat} {sub : Nat} {drops : Nat} {stale : Nat} {s : State}
    (hS : Covers S [.bays, .cores])
    (hw : Within S s0 s) : Within S s0 (steerCounts k index t sub drops stale s) := by
  unfold steerCounts
  repeat' first
    | with_reducible assumption
    | intro _
    | with_reducible refine within_fabricEvent (hS.mono (by decide)) ?_
    | with_reducible refine within_modCore (hS.mono (by decide)) ?_
    | with_reducible refine Within.foldl _ _ (fun s a h => ?_) ?_
    | with_reducible refine Within.foldl_fourth _ _ (fun r a h => ?_) ?_
    | with_reducible refine Within.foldl_third _ _ (fun r a h => ?_) ?_
    | with_reducible refine Within.foldl_snd _ _ (fun r a h => ?_) ?_
    | with_reducible refine Within.foldl_fst _ _ (fun r a h => ?_) ?_
    | split
    | dsimp only

theorem within_runSteer {S : List StatePart} {s0 : State} {k : Nat} {index : Nat} {t : Nat} {merge : Bool} {fire : Bool} {epoch : BitVec 4} {a : Option Item} {b : Option Item} {tok : Option Item} {u : Steer} {s : State}
    (hS : Covers S [.bays, .cores])
    (hw : Within S s0 s) : Within S s0 (runSteer k index t merge fire epoch a b tok u s).2 := by
  unfold runSteer
  repeat' first
    | with_reducible assumption
    | intro _
    | with_reducible refine within_fabricEvent (hS.mono (by decide)) ?_
    | with_reducible refine within_steerCounts (hS.mono (by decide)) ?_
    | with_reducible refine Within.ite ?_ ?_
    | split
    | dsimp only

theorem within_pegEntryRun {S : List StatePart} {s0 : State} {k : Nat} {t : Nat} {b : Bay} {s : State}
    (hS : Covers S [.freeCtr, .host, .ev, .fw, .err, .bays, .cores, .xings, .hostMem, .bootLog])
    (hw : Within S s0 s) : Within S s0 (pegEntryRun k t b s) := by
  unfold pegEntryRun
  repeat' first
    | with_reducible assumption
    | intro _
    | with_reducible refine within_adderMiss (hS.mono (by decide)) ?_
    | with_reducible refine within_captureAll (hS.mono (by decide)) ?_
    | with_reducible refine within_driveOut (hS.mono (by decide)) ?_
    | with_reducible refine within_examineItem (hS.mono (by decide)) ?_
    | with_reducible refine within_examineParity (hS.mono (by decide)) ?_
    | with_reducible refine within_lostItem (hS.mono (by decide)) ?_
    | with_reducible refine within_modCore (hS.mono (by decide)) ?_
    | with_reducible refine within_runSteer (hS.mono (by decide)) ?_
    | with_reducible refine within_settleEpoch (hS.mono (by decide)) ?_
    | with_reducible refine within_takePorts (hS.mono (by decide)) ?_
    | with_reducible refine Within.foldl _ _ (fun s a h => ?_) ?_
    | with_reducible refine Within.foldl_fourth _ _ (fun r a h => ?_) ?_
    | with_reducible refine Within.foldl_third _ _ (fun r a h => ?_) ?_
    | with_reducible refine Within.foldl_snd _ _ (fun r a h => ?_) ?_
    | with_reducible refine Within.foldl_fst _ _ (fun r a h => ?_) ?_
    | with_reducible refine Within.ite ?_ ?_
    | split
    | dsimp only

theorem within_releaseClaims {S : List StatePart} {s0 : State} {k : Nat} {t : Nat} {s : State}
    (hS : Covers S [.cores, .xings])
    (hw : Within S s0 s) : Within S s0 (releaseClaims k t s) := by
  unfold releaseClaims
  repeat' first
    | with_reducible assumption
    | intro _
    | with_reducible refine within_useClaim (hS.mono (by decide)) ?_
    | with_reducible refine Within.foldl _ _ (fun s a h => ?_) ?_
    | with_reducible refine Within.foldl_fourth _ _ (fun r a h => ?_) ?_
    | with_reducible refine Within.foldl_third _ _ (fun r a h => ?_) ?_
    | with_reducible refine Within.foldl_snd _ _ (fun r a h => ?_) ?_
    | with_reducible refine Within.foldl_fst _ _ (fun r a h => ?_) ?_
    | split
    | dsimp only

theorem within_execPegEntry {S : List StatePart} {s0 : State} {k : CoreId} {t : Nat} {s : State}
    (hS : Covers S [.freeCtr, .host, .ev, .fw, .err, .bays, .cores, .xings, .hostMem, .bootLog])
    (hw : Within S s0 s) : OutWithin S s0 (execPegEntry k t s) := by
  unfold execPegEntry
  repeat' first
    | with_reducible assumption
    | intro _
    | with_reducible refine OptPairWithin.map (within_enterCycle (hS.mono (by decide)) ?_) (fun r h => ?_)
    | with_reducible refine (within_enterCycle (hS.mono (by decide)) ?_).get (by with_reducible assumption)
    | with_reducible refine within_enterCycle (hS.mono (by decide)) ?_
    | with_reducible refine within_pegEntryRun (hS.mono (by decide)) ?_
    | with_reducible refine within_releaseClaims (hS.mono (by decide)) ?_
    | with_reducible exact within_enterCycle (hS.mono (by decide)) (by with_reducible assumption) (by with_reducible assumption)
    | with_reducible refine OutWithin.next ?_
    | exact OutWithin.fault _ _ _
    | with_reducible refine OutWithin.ite ?_ ?_
    | with_reducible refine Within.ite ?_ ?_
    | split
    | dsimp only

theorem within_pegClaim {S : List StatePart} {s0 : State} {k : Nat} {t : Nat} {cycle : Nat} {i : Nat} {d : Side} {kind : ClaimKind} {s : State}
    (hS : Covers S [.bays, .cores, .xings])
    (hw : Within S s0 s) : Within S s0 (pegClaim k t cycle i d kind s) := by
  unfold pegClaim
  repeat' first
    | with_reducible assumption
    | intro _
    | with_reducible refine within_modBay (hS.mono (by decide)) ?_
    | with_reducible refine within_modCore (hS.mono (by decide)) ?_
    | with_reducible refine within_modXingIn (hS.mono (by decide)) ?_
    | with_reducible refine within_modXingOut (hS.mono (by decide)) ?_
    | with_reducible refine Within.ite ?_ ?_
    | split
    | dsimp only

theorem within_pegChecks {S : List StatePart} {s0 : State} {k : Nat} {t : Nat} {i : Nat} {w : PegWalk} {e : BitVec 128} {s : State}
    (hS : Covers S [.bays, .cores, .xings])
    (hw : Within S s0 s) : Within S s0 (pegChecks k t i w e s) := by
  unfold pegChecks
  repeat' first
    | with_reducible assumption
    | intro _
    | with_reducible refine within_pegClaim (hS.mono (by decide)) ?_
    | with_reducible refine Within.foldl _ _ (fun s a h => ?_) ?_
    | with_reducible refine Within.foldl_fourth _ _ (fun r a h => ?_) ?_
    | with_reducible refine Within.foldl_third _ _ (fun r a h => ?_) ?_
    | with_reducible refine Within.foldl_snd _ _ (fun r a h => ?_) ?_
    | with_reducible refine Within.foldl_fst _ _ (fun r a h => ?_) ?_
    | with_reducible refine Within.ite ?_ ?_
    | split
    | dsimp only

theorem within_pegLook {S : List StatePart} {s0 : State} {k : Nat} {t : Nat} {i : Nat} {x0 : Nat} {x1 : State}
    (hS : Covers S [.bays, .cores, .xings])
    (hw : Within S s0 x1) : Within S s0 (pegLook k t i x0 x1) := by
  induction x0 generalizing x1 with
  | zero =>
    rw [pegLook]
    repeat' first
      | with_reducible assumption
      | intro _
      | with_reducible refine within_modCore (hS.mono (by decide)) ?_
      | with_reducible refine within_pegChecks (hS.mono (by decide)) ?_
      | with_reducible refine Within.ite ?_ ?_
      | split
      | dsimp only
  | succ n ih =>
    rw [pegLook]
    repeat' first
      | with_reducible assumption
      | with_reducible refine ih ?_
      | intro _
      | with_reducible refine within_modCore (hS.mono (by decide)) ?_
      | with_reducible refine within_pegChecks (hS.mono (by decide)) ?_
      | with_reducible refine Within.ite ?_ ?_
      | split
      | dsimp only

theorem within_execPegCheck {S : List StatePart} {s0 : State} {k : CoreId} {t : Nat} {s : State}
    (hS : Covers S [.bays, .cores, .xings])
    (hw : Within S s0 s) : OutWithin S s0 (execPegCheck k t s) := by
  unfold execPegCheck
  repeat' first
    | with_reducible assumption
    | intro _
    | with_reducible refine OptPairWithin.map (within_enterCycle (hS.mono (by decide)) ?_) (fun r h => ?_)
    | with_reducible refine (within_enterCycle (hS.mono (by decide)) ?_).get (by with_reducible assumption)
    | with_reducible refine within_enterCycle (hS.mono (by decide)) ?_
    | with_reducible refine within_pegLook (hS.mono (by decide)) ?_
    | with_reducible exact within_enterCycle (hS.mono (by decide)) (by with_reducible assumption) (by with_reducible assumption)
    | with_reducible refine OutWithin.next ?_
    | exact OutWithin.fault _ _ _
    | with_reducible refine OutWithin.ite ?_ ?_
    | with_reducible refine Within.ite ?_ ?_
    | split
    | dsimp only

theorem within_execCrossingEntry {S : List StatePart} {s0 : State} {k : CoreId} {side : Side} {time : Nat} {s : State}
    (hS : Covers S [.now, .host, .ev, .fw, .err, .bays, .cores, .xings, .hostMem, .bootLog])
    (hw : Within S s0 s) : OutWithin S s0 (execCrossingEntry k side time s) := by
  unfold execCrossingEntry
  repeat' first
    | with_reducible assumption
    | intro _
    | with_reducible refine within_atTime (hS.mono (by decide)) ?_
    | with_reducible refine within_examineXing (hS.mono (by decide)) ?_
    | with_reducible refine within_modCore (hS.mono (by decide)) ?_
    | with_reducible refine within_modXingIn (hS.mono (by decide)) ?_
    | with_reducible refine within_noteTrips (hS.mono (by decide)) ?_
    | with_reducible refine within_settleHolds (hS.mono (by decide)) ?_
    | with_reducible refine OutWithin.next ?_
    | exact OutWithin.fault _ _ _
    | with_reducible refine OutWithin.ite ?_ ?_
    | with_reducible refine Within.ite ?_ ?_
    | split
    | dsimp only

theorem within_execCreditReturn {S : List StatePart} {s0 : State} {k : CoreId} {side : Side} {time : Nat} {s : State}
    (hS : Covers S [.now, .bays, .cores, .xings])
    (hw : Within S s0 s) : OutWithin S s0 (execCreditReturn k side time s) := by
  unfold execCreditReturn
  repeat' first
    | with_reducible assumption
    | intro _
    | with_reducible refine within_atTime (hS.mono (by decide)) ?_
    | with_reducible refine within_modXingOut (hS.mono (by decide)) ?_
    | with_reducible refine within_noteTrips (hS.mono (by decide)) ?_
    | with_reducible refine within_settleHolds (hS.mono (by decide)) ?_
    | with_reducible refine OutWithin.next ?_
    | exact OutWithin.fault _ _ _
    | with_reducible refine OutWithin.ite ?_ ?_
    | with_reducible refine Within.ite ?_ ?_
    | split
    | dsimp only

end Sys2Proof.Laws
end

