-- ==== Sys2Proof/Laws/FrameFlits.lean ====
section
/-! SUPPORT. What each operation of Machine/Flits.lean may change. -/

set_option linter.unusedTactic false
set_option linter.unreachableTactic false
set_option linter.unusedVariables false
set_option linter.unusedSimpArgs false

namespace Sys2Proof.Laws

open Machine

theorem within_loseFlits {S : List StatePart} {s0 : State} {h : Hop} {s : State}
    (hS : Covers S [.fab])
    (hw : Within S s0 s) : Within S s0 (loseFlits h s) := by
  unfold loseFlits
  repeat' first
    | with_reducible assumption
    | (intro m; cases m; constructor <;> first | with_reducible assumption | (refine keysRise_filter _ _ ?_; with_reducible assumption))
    | (intro (p : StatePart); cases p <;> first | exact Or.inl (hS.part (by decide)) | with_reducible exact Or.inr rfl | with_reducible exact Or.inr ⟨rfl, rfl⟩ | with_reducible exact Or.inr (Nat.le_refl _))
    | intro _
    | split
    | dsimp only
    | with_reducible refine Within.upd rfl ?_ ?_ ?_

end Sys2Proof.Laws
end

