-- ==== Sys2Proof/Laws/FrameFabricEvents.lean ====
section
/-! SUPPORT. What each operation of Machine/FabricEvents.lean may change. -/

set_option linter.unusedTactic false
set_option linter.unreachableTactic false
set_option linter.unusedVariables false
set_option linter.unusedSimpArgs false

namespace Sys2Proof.Laws

open Machine

theorem within_execServiceRead {S : List StatePart} {s0 : State} {q : Packet} {f : EccFinding} {time : Nat} {s : State}
    (hS : Covers S [.freeCtr, .now, .host, .ev, .fw, .err, .fab, .hbms, .bufs, .engines, .links, .mem, .cores, .hostMem, .bootLog, .bootStore, .bootStoreMem])
    (hw : Within S s0 s) : OutWithin S s0 (execServiceRead q f time s) := by
  unfold execServiceRead
  repeat' first
    | with_reducible assumption
    | intro _
    | with_reducible refine within_arrive (hS.mono (by decide)) ?_
    | with_reducible refine within_atTime (hS.mono (by decide)) ?_
    | with_reducible refine OutWithin.next ?_
    | exact OutWithin.fault _ _ _
    | with_reducible refine OutWithin.ite ?_ ?_
    | with_reducible refine Within.ite ?_ ?_
    | split
    | dsimp only

theorem within_execServiceWrite {S : List StatePart} {s0 : State} {q : Packet} {f : EccFinding} {time : Nat} {s : State}
    (hS : Covers S [.freeCtr, .now, .host, .ev, .fw, .err, .fab, .hbms, .bufs, .engines, .links, .mem, .cores, .hostMem, .bootLog, .bootStore, .bootStoreMem])
    (hw : Within S s0 s) : OutWithin S s0 (execServiceWrite q f time s) := by
  unfold execServiceWrite
  repeat' first
    | with_reducible assumption
    | intro _
    | with_reducible refine within_arrive (hS.mono (by decide)) ?_
    | with_reducible refine within_atTime (hS.mono (by decide)) ?_
    | with_reducible refine OutWithin.next ?_
    | exact OutWithin.fault _ _ _
    | with_reducible refine OutWithin.ite ?_ ?_
    | with_reducible refine Within.ite ?_ ?_
    | split
    | dsimp only

theorem within_execRequestPortWrite {S : List StatePart} {s0 : State} {q : Packet} {time : Nat} {s : State}
    (hS : Covers S [.freeCtr, .now, .host, .ev, .fw, .err, .fab, .hbms, .bufs, .engines, .links, .mem, .cores, .hostMem, .bootLog, .bootStore, .bootStoreMem])
    (hw : Within S s0 s) : OutWithin S s0 (execRequestPortWrite q time s) := by
  unfold execRequestPortWrite
  repeat' first
    | with_reducible assumption
    | intro _
    | with_reducible refine within_arrive (hS.mono (by decide)) ?_
    | with_reducible refine within_atTime (hS.mono (by decide)) ?_
    | with_reducible refine OutWithin.next ?_
    | exact OutWithin.fault _ _ _
    | with_reducible refine OutWithin.ite ?_ ?_
    | with_reducible refine Within.ite ?_ ?_
    | split
    | dsimp only

theorem within_execInflateRead {S : List StatePart} {s0 : State} {q : Packet} {f : EccFinding} {time : Nat} {s : State}
    (hS : Covers S [.freeCtr, .now, .host, .ev, .fw, .err, .fab, .hbms, .bufs, .engines, .links, .mem, .cores, .hostMem, .bootLog, .bootStore, .bootStoreMem])
    (hw : Within S s0 s) : OutWithin S s0 (execInflateRead q f time s) := by
  unfold execInflateRead
  repeat' first
    | with_reducible assumption
    | intro _
    | with_reducible refine within_arrive (hS.mono (by decide)) ?_
    | with_reducible refine within_atTime (hS.mono (by decide)) ?_
    | with_reducible refine OutWithin.next ?_
    | exact OutWithin.fault _ _ _
    | with_reducible refine OutWithin.ite ?_ ?_
    | with_reducible refine Within.ite ?_ ?_
    | split
    | dsimp only

theorem within_execLinkEgressWrite {S : List StatePart} {s0 : State} {q : Packet} {x : RankExtra} {time : Nat} {s : State}
    (hS : Covers S [.freeCtr, .now, .host, .ev, .fw, .err, .fab, .hbms, .bufs, .engines, .links, .mem, .cores, .hostMem, .bootLog, .bootStore, .bootStoreMem])
    (hw : Within S s0 s) : OutWithin S s0 (execLinkEgressWrite q x time s) := by
  unfold execLinkEgressWrite
  repeat' first
    | with_reducible assumption
    | intro _
    | with_reducible refine within_arrive (hS.mono (by decide)) ?_
    | with_reducible refine within_atTime (hS.mono (by decide)) ?_
    | with_reducible refine OutWithin.next ?_
    | exact OutWithin.fault _ _ _
    | with_reducible refine OutWithin.ite ?_ ?_
    | with_reducible refine Within.ite ?_ ?_
    | split
    | dsimp only

theorem within_execCtrlPacket {S : List StatePart} {s0 : State} {q : Packet} {time : Nat} {s : State}
    (hS : Covers S [.now, .err, .fab, .bootLog])
    (hw : Within S s0 s) : OutWithin S s0 (execCtrlPacket q time s) := by
  unfold execCtrlPacket
  repeat' first
    | with_reducible assumption
    | intro _
    | with_reducible refine within_atTime (hS.mono (by decide)) ?_
    | with_reducible refine within_countFlits (hS.mono (by decide)) ?_
    | with_reducible refine within_dropPacket (hS.mono (by decide)) ?_
    | with_reducible refine OutWithin.next ?_
    | exact OutWithin.fault _ _ _
    | with_reducible refine OutWithin.ite ?_ ?_
    | with_reducible refine Within.ite ?_ ?_
    | split
    | dsimp only

theorem within_answerBurst {S : List StatePart} {s0 : State} {k : Nat} {tag : Nat} {status : Nat} {data : List Byte} {s : State}
    (hS : Covers S [.cores])
    (hw : Within S s0 s) : Within S s0 (answerBurst k tag status data s) := by
  unfold answerBurst
  repeat' first
    | with_reducible assumption
    | intro _
    | with_reducible refine within_modCore (hS.mono (by decide)) ?_
    | with_reducible refine Within.ite ?_ ?_
    | split
    | dsimp only

theorem within_resultError {S : List StatePart} {s0 : State} {n : Nat} {r : EmbRun} {status : Nat} {s : State}
    (hS : Covers S [.host, .ev, .fw, .engines, .hostMem])
    (hw : Within S s0 s) : Within S s0 (resultError n r status s) := by
  unfold resultError
  repeat' first
    | with_reducible assumption
    | intro _
    | with_reducible refine within_modEngine (hS.mono (by decide)) ?_
    | with_reducible refine within_raise1 (hS.mono (by decide)) ?_
    | with_reducible refine Within.ite ?_ ?_
    | split
    | dsimp only

theorem within_answerResult {S : List StatePart} {s0 : State} {n : Nat} {tag : Nat} {status : Nat} {s : State}
    (hS : Covers S [.host, .ev, .fw, .engines, .hostMem])
    (hw : Within S s0 s) : Within S s0 (answerResult n tag status s) := by
  unfold answerResult
  repeat' first
    | with_reducible assumption
    | intro _
    | with_reducible refine within_modEngine (hS.mono (by decide)) ?_
    | with_reducible refine within_resultError (hS.mono (by decide)) ?_
    | with_reducible refine Within.ite ?_ ?_
    | split
    | dsimp only

theorem within_answerLink {S : List StatePart} {s0 : State} {l : Nat} {tag : Nat} {status : Nat} {s : State}
    (hS : Covers S [.links])
    (hw : Within S s0 s) : Within S s0 (answerLink l tag status s) := by
  unfold answerLink
  repeat' first
    | with_reducible assumption
    | intro _
    | with_reducible refine within_ackLink (hS.mono (by decide)) ?_
    | with_reducible refine within_dropOnLink (hS.mono (by decide)) ?_
    | with_reducible refine within_modLink (hS.mono (by decide)) ?_
    | with_reducible refine Within.ite ?_ ?_
    | split
    | dsimp only

theorem within_apError {S : List StatePart} {s0 : State} {s : State}
    (hS : Covers S [.host])
    (hw : Within S s0 s) : Within S s0 (apError s) := by
  unfold apError
  repeat' first
    | with_reducible assumption
    | (intro m; cases m; constructor <;> first | with_reducible assumption)
    | (intro (p : StatePart); cases p <;> first | exact Or.inl (hS.part (by decide)) | with_reducible exact Or.inr rfl | with_reducible exact Or.inr ⟨rfl, rfl⟩ | with_reducible exact Or.inr (Nat.le_refl _))
    | intro _
    | split
    | dsimp only
    | with_reducible refine Within.upd rfl ?_ ?_ ?_

theorem within_deliverAnswer {S : List StatePart} {s0 : State} {site : Nat} {unit : Nat} {tag : Nat} {status : Nat} {data : List Byte} {s : State}
    (hS : Covers S [.host, .ev, .fw, .engines, .links, .cores, .hostMem])
    (hw : Within S s0 s) : Within S s0 (deliverAnswer site unit tag status data s) := by
  unfold deliverAnswer
  repeat' first
    | with_reducible assumption
    | intro _
    | with_reducible refine within_answerBurst (hS.mono (by decide)) ?_
    | with_reducible refine within_answerLink (hS.mono (by decide)) ?_
    | with_reducible refine within_answerResult (hS.mono (by decide)) ?_
    | with_reducible refine within_apError (hS.mono (by decide)) ?_
    | with_reducible refine Within.ite ?_ ?_
    | split
    | dsimp only

theorem within_execServiceResponse {S : List StatePart} {s0 : State} {q : Packet} {time : Nat} {s : State}
    (hS : Covers S [.freeCtr, .now, .host, .ev, .fw, .fab, .engines, .links, .cores, .hostMem])
    (hw : Within S s0 s) : OutWithin S s0 (execServiceResponse q time s) := by
  unfold execServiceResponse
  repeat' first
    | with_reducible assumption
    | (intro m; cases m; constructor <;> first | with_reducible assumption)
    | (intro (p : StatePart); cases p <;> first | exact Or.inl (hS.part (by decide)) | with_reducible exact Or.inr rfl | with_reducible exact Or.inr ⟨rfl, rfl⟩ | with_reducible exact Or.inr (Nat.le_refl _))
    | intro _
    | with_reducible refine within_atTime (hS.mono (by decide)) ?_
    | with_reducible refine within_countDrop (hS.mono (by decide)) ?_
    | with_reducible refine within_countFlits (hS.mono (by decide)) ?_
    | with_reducible refine within_deliverAnswer (hS.mono (by decide)) ?_
    | with_reducible refine within_packetLost (hS.mono (by decide)) ?_
    | with_reducible refine OutWithin.next ?_
    | exact OutWithin.fault _ _ _
    | with_reducible refine OutWithin.ite ?_ ?_
    | with_reducible refine Within.ite ?_ ?_
    | split
    | dsimp only
    | with_reducible refine Within.upd rfl ?_ ?_ ?_

theorem within_execRequestExpired {S : List StatePart} {s0 : State} {p : SiteId} {u : BitVec 8} {tag : BitVec 12} {time : Nat} {s : State}
    (hS : Covers S [.now, .host, .ev, .fw, .fab, .engines, .links, .cores, .hostMem])
    (hw : Within S s0 s) : OutWithin S s0 (execRequestExpired p u tag time s) := by
  unfold execRequestExpired
  repeat' first
    | with_reducible assumption
    | (intro m; cases m; constructor <;> first | with_reducible assumption)
    | (intro (p : StatePart); cases p <;> first | exact Or.inl (hS.part (by decide)) | with_reducible exact Or.inr rfl | with_reducible exact Or.inr ⟨rfl, rfl⟩ | with_reducible exact Or.inr (Nat.le_refl _))
    | intro _
    | with_reducible refine within_atTime (hS.mono (by decide)) ?_
    | with_reducible refine within_deliverAnswer (hS.mono (by decide)) ?_
    | with_reducible refine OutWithin.next ?_
    | exact OutWithin.fault _ _ _
    | split
    | dsimp only
    | with_reducible refine Within.upd rfl ?_ ?_ ?_

theorem within_setHop {S : List StatePart} {s0 : State} {k : Nat} {h : Hop} {s : State}
    (hS : Covers S [.fab])
    (hw : Within S s0 s) : Within S s0 (setHop k h s) := by
  unfold setHop
  repeat' first
    | with_reducible assumption
    | (intro m; cases m; constructor <;> first | with_reducible assumption | (refine keysRise_mapSet _ _ _ _ ?_; with_reducible assumption) | rfl)
    | (intro (p : StatePart); cases p <;> first | exact Or.inl (hS.part (by decide)) | with_reducible exact Or.inr rfl | with_reducible exact Or.inr ⟨rfl, rfl⟩ | with_reducible exact Or.inr (Nat.le_refl _))
    | intro _
    | split
    | dsimp only
    | with_reducible refine Within.upd rfl ?_ ?_ ?_

theorem within_hopReplayed {S : List StatePart} {s0 : State} {i : Nat} {side : Nat} {inj : Bool} {f : HopFlit} {s : State}
    (hS : Covers S [.host, .ev, .fw, .err, .fab, .links, .hostMem, .bootLog])
    (hw : Within S s0 s) : Within S s0 (hopReplayed i side inj f s) := by
  unfold hopReplayed
  repeat' first
    | with_reducible assumption
    | intro _
    | with_reducible refine within_logAdd (hS.mono (by decide)) ?_
    | with_reducible refine within_modPort (hS.mono (by decide)) ?_
    | with_reducible refine within_resend (hS.mono (by decide)) ?_
    | with_reducible refine within_scoreWear (hS.mono (by decide)) ?_
    | with_reducible refine within_setHop (hS.mono (by decide)) ?_
    | split
    | dsimp only

theorem within_execHopReplay {S : List StatePart} {s0 : State} {p : SiteId} {side : HopSide} {f : HopFlit} {time : Nat} {s : State}
    (hS : Covers S [.now, .host, .ev, .fw, .err, .fab, .links, .hostMem, .bootLog])
    (hw : Within S s0 s) : OutWithin S s0 (execHopReplay p side f time s) := by
  unfold execHopReplay
  repeat' first
    | with_reducible assumption
    | intro _
    | with_reducible refine within_atTime (hS.mono (by decide)) ?_
    | with_reducible refine within_examine (hS.mono (by decide)) ?_
    | with_reducible refine within_hopReplayed (hS.mono (by decide)) ?_
    | with_reducible refine within_setHop (hS.mono (by decide)) ?_
    | with_reducible refine OutWithin.next ?_
    | exact OutWithin.fault _ _ _
    | with_reducible refine OutWithin.ite ?_ ?_
    | with_reducible refine Within.ite ?_ ?_
    | split
    | dsimp only

theorem within_hopLost {S : List StatePart} {s0 : State} {i : Nat} {n : Nat} {s : State}
    (hS : Covers S [.host, .ev, .fw, .fab, .hostMem])
    (hw : Within S s0 s) : Within S s0 (hopLost i n s) := by
  unfold hopLost
  repeat' first
    | with_reducible assumption
    | intro _
    | with_reducible refine within_loseFlits (hS.mono (by decide)) ?_
    | with_reducible refine within_raise1 (hS.mono (by decide)) ?_
    | with_reducible refine within_setHop (hS.mono (by decide)) ?_
    | split
    | dsimp only

theorem within_execHopRetrain {S : List StatePart} {s0 : State} {p : SiteId} {side : HopSide} {ok : Bool} {time : Nat} {s : State}
    (hS : Covers S [.now, .host, .ev, .fw, .err, .fab, .hostMem, .bootLog])
    (hw : Within S s0 s) : OutWithin S s0 (execHopRetrain p side ok time s) := by
  unfold execHopRetrain
  repeat' first
    | with_reducible assumption
    | intro _
    | with_reducible refine within_atTime (hS.mono (by decide)) ?_
    | with_reducible refine within_examine (hS.mono (by decide)) ?_
    | with_reducible refine within_hopLost (hS.mono (by decide)) ?_
    | with_reducible refine within_logAdd (hS.mono (by decide)) ?_
    | with_reducible refine within_scoreWear (hS.mono (by decide)) ?_
    | with_reducible refine within_setHop (hS.mono (by decide)) ?_
    | with_reducible refine OutWithin.next ?_
    | exact OutWithin.fault _ _ _
    | with_reducible refine OutWithin.ite ?_ ?_
    | with_reducible refine Within.ite ?_ ?_
    | split
    | dsimp only

theorem within_execRouteRewrite {S : List StatePart} {s0 : State} {time : Nat} {s : State}
    (hS : Covers S [.now, .fab])
    (hw : Within S s0 s) : OutWithin S s0 (execRouteRewrite time s) := by
  unfold execRouteRewrite
  repeat' first
    | with_reducible assumption
    | intro _
    | with_reducible refine within_atTime (hS.mono (by decide)) ?_
    | with_reducible refine within_rewriteRoutes (hS.mono (by decide)) ?_
    | with_reducible refine OutWithin.next ?_
    | exact OutWithin.fault _ _ _
    | split
    | dsimp only

theorem within_execCongestionSample {S : List StatePart} {s0 : State} {p : SiteId} {fills : List Nat} {waits : List (List Bool)} {time : Nat} {s : State}
    (hS : Covers S [.now, .fab])
    (hw : Within S s0 s) : OutWithin S s0 (execCongestionSample p fills waits time s) := by
  unfold execCongestionSample
  repeat' first
    | with_reducible assumption
    | intro _
    | with_reducible refine within_atTime (hS.mono (by decide)) ?_
    | with_reducible refine within_modPort (hS.mono (by decide)) ?_
    | with_reducible refine OutWithin.next ?_
    | exact OutWithin.fault _ _ _
    | with_reducible refine Within.foldl _ _ (fun s a h => ?_) ?_
    | with_reducible refine Within.foldl_fourth _ _ (fun r a h => ?_) ?_
    | with_reducible refine Within.foldl_third _ _ (fun r a h => ?_) ?_
    | with_reducible refine Within.foldl_snd _ _ (fun r a h => ?_) ?_
    | with_reducible refine Within.foldl_fst _ _ (fun r a h => ?_) ?_
    | with_reducible refine OutWithin.ite ?_ ?_
    | with_reducible refine Within.ite ?_ ?_
    | split
    | dsimp only

theorem within_execCongestionWindowEnd {S : List StatePart} {s0 : State} {time : Nat} {s : State}
    (hS : Covers S [.now, .fab, .links])
    (hw : Within S s0 s) : OutWithin S s0 (execCongestionWindowEnd time s) := by
  unfold execCongestionWindowEnd
  repeat' first
    | with_reducible assumption
    | (intro m; constructor <;> first | with_reducible exact m.mem | with_reducible exact m.hostMem | with_reducible exact m.storeMem | with_reducible exact m.entries | with_reducible exact m.parts | with_reducible exact m.quads | with_reducible exact m.cores | with_reducible exact m.bays | with_reducible exact m.sites | with_reducible exact m.hot | with_reducible exact m.procs | with_reducible exact m.wear | with_reducible exact m.bootWear | with_reducible exact m.missed | with_reducible exact m.hops | with_reducible exact m.ports | with_reducible exact m.hbms | with_reducible exact m.bufs | with_reducible exact m.store | with_reducible exact m.engines | with_reducible exact m.links | with_reducible exact m.queues | with_reducible exact m.failures | with_reducible exact m.retests | (refine keysRise_filter _ _ ?_; cases m; with_reducible assumption) | rfl | (refine keysRise_of_keys ?_ m.links; simp [Function.comp_def]; done) | (refine keysRise_of_keys ?_ m.ports; simp [Function.comp_def]; done))
    | (intro (p : StatePart); cases p <;> first | exact Or.inl (hS.part (by decide)) | with_reducible exact Or.inr rfl | with_reducible exact Or.inr ⟨rfl, rfl⟩ | with_reducible exact Or.inr (Nat.le_refl _))
    | intro _
    | with_reducible refine within_atTime (hS.mono (by decide)) ?_
    | with_reducible refine OutWithin.next ?_
    | exact OutWithin.fault _ _ _
    | with_reducible refine OutWithin.ite ?_ ?_
    | with_reducible refine Within.ite ?_ ?_
    | split
    | dsimp only
    | with_reducible refine Within.upd rfl ?_ ?_ ?_

theorem within_doFabricMapGet {S : List StatePart} {s0 : State} {c : Cmd} {pay : List Byte} {s : State}
    (hS : Covers S [.host, .inProgress, .mgmt, .hostMem])
    (hw : Within S s0 s) : Within S s0 (doFabricMapGet c pay s) := by
  unfold doFabricMapGet
  repeat' first
    | with_reducible assumption
    | intro _
    | with_reducible refine within_checked (hS.mono (by decide)) ?_ ?_
    | with_reducible refine within_completeWithBuf (hS.mono (by decide)) ?_
    | split
    | dsimp only

theorem within_execFabricMapGet {S : List StatePart} {s0 : State} {c : Cmd} {s : State}
    (hS : Covers S [.now, .host, .inProgress, .mgmt, .hostMem])
    (hw : Within S s0 s) : OutWithin S s0 (execFabricMapGet c s) := by
  unfold execFabricMapGet
  repeat' first
    | with_reducible assumption
    | intro _
    | with_reducible refine within_doFabricMapGet (hS.mono (by decide)) ?_
    | with_reducible refine within_runRow (hS.mono (by decide)) ?_ ?_
    | with_reducible refine OutWithin.next ?_
    | exact OutWithin.fault _ _ _
    | split
    | dsimp only

end Sys2Proof.Laws
end

