-- ==== Sys2Proof/Laws/FrameFloorPlan.lean ====
section
/-! SUPPORT. What each operation of Machine/FloorPlan.lean may change. -/

set_option linter.unusedTactic false
set_option linter.unreachableTactic false
set_option linter.unusedVariables false
set_option linter.unusedSimpArgs false

namespace Sys2Proof.Laws

open Machine

theorem within_doFloorplanGet {S : List StatePart} {s0 : State} {c : Cmd} {_pay : List Byte} {s : State}
    (hS : Covers S [.host, .inProgress, .mgmt, .hostMem])
    (hw : Within S s0 s) : Within S s0 (doFloorplanGet c _pay s) := by
  unfold doFloorplanGet
  repeat' first
    | with_reducible assumption
    | intro _
    | with_reducible refine within_checked (hS.mono (by decide)) ?_ ?_
    | with_reducible refine within_completeWithOwnBuf (hS.mono (by decide)) ?_
    | split
    | dsimp only

theorem within_execFloorplanGet {S : List StatePart} {s0 : State} {c : Cmd} {s : State}
    (hS : Covers S [.now, .host, .inProgress, .mgmt, .hostMem])
    (hw : Within S s0 s) : OutWithin S s0 (execFloorplanGet c s) := by
  unfold execFloorplanGet
  repeat' first
    | with_reducible assumption
    | intro _
    | with_reducible refine within_doFloorplanGet (hS.mono (by decide)) ?_
    | with_reducible refine within_runRow (hS.mono (by decide)) ?_ ?_
    | with_reducible refine OutWithin.next ?_
    | exact OutWithin.fault _ _ _
    | split
    | dsimp only

theorem within_doSiteFence {S : List StatePart} {s0 : State} {c : Cmd} {pay : List Byte} {s : State}
    (hS : Covers S [.fp, .host, .inProgress, .mgmt, .ev, .fw, .hostMem, .bootGeneration, .bootFences])
    (hw : Within S s0 s) : Within S s0 (doSiteFence c pay s) := by
  unfold doSiteFence
  repeat' first
    | with_reducible assumption
    | intro _
    | with_reducible refine within_checked (hS.mono (by decide)) ?_ ?_
    | with_reducible refine within_complete (hS.mono (by decide)) ?_
    | with_reducible refine within_modEntry (hS.mono (by decide)) ?_
    | with_reducible refine within_recordChange (hS.mono (by decide)) ?_ ?_
    | with_reducible refine within_recordFence (hS.mono (by decide)) ?_
    | with_reducible refine Within.ite ?_ ?_
    | split
    | dsimp only

theorem within_execSiteFence {S : List StatePart} {s0 : State} {c : Cmd} {s : State}
    (hS : Covers S [.now, .fp, .host, .inProgress, .mgmt, .ev, .fw, .hostMem, .bootGeneration, .bootFences])
    (hw : Within S s0 s) : OutWithin S s0 (execSiteFence c s) := by
  unfold execSiteFence
  repeat' first
    | with_reducible assumption
    | intro _
    | with_reducible refine within_doSiteFence (hS.mono (by decide)) ?_
    | with_reducible refine within_runRow (hS.mono (by decide)) ?_ ?_
    | with_reducible refine OutWithin.next ?_
    | exact OutWithin.fault _ _ _
    | split
    | dsimp only

theorem within_doUnfenceOne {S : List StatePart} {s0 : State} {c : Cmd} {pay : List Byte} {s : State}
    (hS : Covers S [.fp, .host, .inProgress, .mgmt, .ev, .fw, .hostMem, .bootGeneration, .bootFences])
    (hw : Within S s0 s) : Within S s0 (doUnfenceOne c pay s) := by
  unfold doUnfenceOne
  repeat' first
    | with_reducible assumption
    | intro _
    | with_reducible refine within_checked (hS.mono (by decide)) ?_ ?_
    | with_reducible refine within_complete (hS.mono (by decide)) ?_
    | with_reducible refine within_modEntry (hS.mono (by decide)) ?_
    | with_reducible refine within_recordChange (hS.mono (by decide)) ?_ ?_
    | with_reducible refine within_recordFence (hS.mono (by decide)) ?_
    | with_reducible refine Within.ite ?_ ?_
    | split
    | dsimp only

theorem within_doUnfenceDefault {S : List StatePart} {s0 : State} {c : Cmd} {pay : List Byte} {s : State}
    (hS : Covers S [.fp, .host, .inProgress, .mgmt, .ev, .fw, .hostMem, .bootGeneration, .bootFences])
    (hw : Within S s0 s) : Within S s0 (doUnfenceDefault c pay s) := by
  unfold doUnfenceDefault
  repeat' first
    | with_reducible assumption
    | (intro m; cases m; constructor <;> first | with_reducible assumption | rfl | (simp [modAt, copies, *]; done))
    | (intro (p : StatePart); cases p <;> first | exact Or.inl (hS.part (by decide)) | with_reducible exact Or.inr rfl | with_reducible exact Or.inr ⟨rfl, rfl⟩ | with_reducible exact Or.inr (Nat.le_refl _))
    | intro _
    | with_reducible refine within_checked (hS.mono (by decide)) ?_ ?_
    | with_reducible refine within_complete (hS.mono (by decide)) ?_
    | with_reducible refine within_recordChange (hS.mono (by decide)) ?_ ?_
    | split
    | dsimp only
    | with_reducible refine Within.upd rfl ?_ ?_ ?_

theorem within_doSiteUnfence {S : List StatePart} {s0 : State} {c : Cmd} {pay : List Byte} {s : State}
    (hS : Covers S [.fp, .host, .inProgress, .mgmt, .ev, .fw, .hostMem, .bootGeneration, .bootFences])
    (hw : Within S s0 s) : Within S s0 (doSiteUnfence c pay s) := by
  unfold doSiteUnfence
  repeat' first
    | with_reducible assumption
    | intro _
    | with_reducible refine within_doUnfenceDefault (hS.mono (by decide)) ?_
    | with_reducible refine within_doUnfenceOne (hS.mono (by decide)) ?_
    | with_reducible refine Within.ite ?_ ?_
    | split
    | dsimp only

theorem within_execSiteUnfence {S : List StatePart} {s0 : State} {c : Cmd} {s : State}
    (hS : Covers S [.now, .fp, .host, .inProgress, .mgmt, .ev, .fw, .hostMem, .bootGeneration, .bootFences])
    (hw : Within S s0 s) : OutWithin S s0 (execSiteUnfence c s) := by
  unfold execSiteUnfence
  repeat' first
    | with_reducible assumption
    | intro _
    | with_reducible refine within_doSiteUnfence (hS.mono (by decide)) ?_
    | with_reducible refine within_runRow (hS.mono (by decide)) ?_ ?_
    | with_reducible refine OutWithin.next ?_
    | exact OutWithin.fault _ _ _
    | split
    | dsimp only

theorem within_execSiteUnfenceDefault {S : List StatePart} {s0 : State} {c : Cmd} {s : State}
    (hS : Covers S [.now, .fp, .host, .inProgress, .mgmt, .ev, .fw, .hostMem, .bootGeneration, .bootFences])
    (hw : Within S s0 s) : OutWithin S s0 (execSiteUnfenceDefault c s) := by
  unfold execSiteUnfenceDefault
  repeat' first
    | with_reducible assumption
    | intro _
    | with_reducible refine within_doSiteUnfence (hS.mono (by decide)) ?_
    | with_reducible refine within_runRow (hS.mono (by decide)) ?_ ?_
    | with_reducible refine OutWithin.next ?_
    | exact OutWithin.fault _ _ _
    | split
    | dsimp only

theorem within_doSiteRetest {S : List StatePart} {s0 : State} {c : Cmd} {pay : List Byte} {s : State}
    (hS : Covers S [.fp, .host, .inProgress, .mgmt, .fw, .hostMem])
    (hw : Within S s0 s) : Within S s0 (doSiteRetest c pay s) := by
  unfold doSiteRetest
  repeat' first
    | with_reducible assumption
    | (intro m; cases m; constructor <;> first | with_reducible assumption | (refine keysRise_mapPut _ _ _ ?_; with_reducible assumption))
    | (intro (p : StatePart); cases p <;> first | exact Or.inl (hS.part (by decide)) | with_reducible exact Or.inr rfl | with_reducible exact Or.inr ⟨rfl, rfl⟩ | with_reducible exact Or.inr (Nat.le_refl _))
    | intro _
    | with_reducible refine within_checked (hS.mono (by decide)) ?_ ?_
    | with_reducible refine within_needProcs (hS.mono (by decide)) ?_ ?_
    | split
    | dsimp only
    | with_reducible refine Within.upd rfl ?_ ?_ ?_

theorem within_execSiteRetest {S : List StatePart} {s0 : State} {c : Cmd} {s : State}
    (hS : Covers S [.now, .fp, .host, .inProgress, .mgmt, .fw, .hostMem])
    (hw : Within S s0 s) : OutWithin S s0 (execSiteRetest c s) := by
  unfold execSiteRetest
  repeat' first
    | with_reducible assumption
    | intro _
    | with_reducible refine within_doSiteRetest (hS.mono (by decide)) ?_
    | with_reducible refine within_runRow (hS.mono (by decide)) ?_ ?_
    | with_reducible refine OutWithin.next ?_
    | exact OutWithin.fault _ _ _
    | split
    | dsimp only

theorem within_retestOutcome {S : List StatePart} {s0 : State} {i : Nat} {r : SelfTest} {s : State}
    (hS : Covers S [.fp, .host, .ev, .fw, .err, .hostMem, .bootGeneration, .bootFailures, .bootLog])
    (hw : Within S s0 s) : Within S s0 (retestOutcome i r s) := by
  unfold retestOutcome
  repeat' first
    | with_reducible assumption
    | intro _
    | with_reducible refine within_dropFailure (hS.mono (by decide)) ?_
    | with_reducible refine within_logAdd (hS.mono (by decide)) ?_
    | with_reducible refine within_modEntry (hS.mono (by decide)) ?_
    | with_reducible refine within_recordChange (hS.mono (by decide)) ?_ ?_
    | with_reducible refine within_recordFailure (hS.mono (by decide)) ?_
    | with_reducible refine Within.ite ?_ ?_
    | split
    | dsimp only

theorem within_execSiteRetestComplete {S : List StatePart} {s0 : State} {p : SiteId} {r : SelfTest} {time : Nat} {s : State}
    (hS : Covers S [.now, .fp, .host, .inProgress, .mgmt, .ev, .fw, .err, .hostMem, .bootGeneration, .bootFailures, .bootLog])
    (hw : Within S s0 s) : OutWithin S s0 (execSiteRetestComplete p r time s) := by
  unfold execSiteRetestComplete
  repeat' first
    | with_reducible assumption
    | (intro m; cases m; constructor <;> first | with_reducible assumption | (refine keysRise_mapDel _ _ ?_; with_reducible assumption))
    | (intro (p : StatePart); cases p <;> first | exact Or.inl (hS.part (by decide)) | with_reducible exact Or.inr rfl | with_reducible exact Or.inr ⟨rfl, rfl⟩ | with_reducible exact Or.inr (Nat.le_refl _))
    | intro _
    | with_reducible refine within_atTime (hS.mono (by decide)) ?_
    | with_reducible refine within_complete (hS.mono (by decide)) ?_
    | with_reducible refine within_retestOutcome (hS.mono (by decide)) ?_
    | with_reducible refine OutWithin.next ?_
    | exact OutWithin.fault _ _ _
    | split
    | dsimp only
    | with_reducible refine Within.upd rfl ?_ ?_ ?_

end Sys2Proof.Laws
end

