-- ==== Sys2Proof/Laws/FramePartitions.lean ====
section
/-! SUPPORT. What each operation of Machine/Partitions.lean may change. -/

set_option linter.unusedTactic false
set_option linter.unreachableTactic false
set_option linter.unusedVariables false
set_option linter.unusedSimpArgs false

namespace Sys2Proof.Laws

open Machine

theorem within_doPartitionCreate {S : List StatePart} {s0 : State} {c : Cmd} {pay : List Byte} {s : State}
    (hS : Covers S [.host, .inProgress, .mgmt, .parts, .hostMem])
    (hw : Within S s0 s) : Within S s0 (doPartitionCreate c pay s) := by
  unfold doPartitionCreate
  repeat' first
    | with_reducible assumption
    | intro _
    | with_reducible refine within_checked (hS.mono (by decide)) ?_ ?_
    | with_reducible refine within_complete (hS.mono (by decide)) ?_
    | with_reducible refine within_modPart (hS.mono (by decide)) ?_
    | split
    | dsimp only

theorem within_execPartitionCreate {S : List StatePart} {s0 : State} {c : Cmd} {s : State}
    (hS : Covers S [.now, .host, .inProgress, .mgmt, .parts, .hostMem])
    (hw : Within S s0 s) : OutWithin S s0 (execPartitionCreate c s) := by
  unfold execPartitionCreate
  repeat' first
    | with_reducible assumption
    | intro _
    | with_reducible refine within_doPartitionCreate (hS.mono (by decide)) ?_
    | with_reducible refine within_runRow (hS.mono (by decide)) ?_ ?_
    | with_reducible refine OutWithin.next ?_
    | exact OutWithin.fault _ _ _
    | split
    | dsimp only

theorem within_doPartitionDestroy {S : List StatePart} {s0 : State} {c : Cmd} {pay : List Byte} {s : State}
    (hS : Covers S [.host, .inProgress, .mgmt, .parts, .hostMem])
    (hw : Within S s0 s) : Within S s0 (doPartitionDestroy c pay s) := by
  unfold doPartitionDestroy
  repeat' first
    | with_reducible assumption
    | intro _
    | with_reducible refine within_checked (hS.mono (by decide)) ?_ ?_
    | with_reducible refine within_complete (hS.mono (by decide)) ?_
    | with_reducible refine within_modPart (hS.mono (by decide)) ?_
    | split
    | dsimp only

theorem within_execPartitionDestroy {S : List StatePart} {s0 : State} {c : Cmd} {s : State}
    (hS : Covers S [.now, .host, .inProgress, .mgmt, .parts, .hostMem])
    (hw : Within S s0 s) : OutWithin S s0 (execPartitionDestroy c s) := by
  unfold execPartitionDestroy
  repeat' first
    | with_reducible assumption
    | intro _
    | with_reducible refine within_doPartitionDestroy (hS.mono (by decide)) ?_
    | with_reducible refine within_runRow (hS.mono (by decide)) ?_ ?_
    | with_reducible refine OutWithin.next ?_
    | exact OutWithin.fault _ _ _
    | split
    | dsimp only

theorem within_clearBuffer {S : List StatePart} {s0 : State} {i : Nat} {s : State}
    (hS : Covers S [.bufs, .mem])
    (hw : Within S s0 s) : Within S s0 (clearBuffer i s) := by
  unfold clearBuffer
  repeat' first
    | with_reducible assumption
    | (intro m; cases m; constructor <;> first | with_reducible assumption | (refine memWf_memClear _ _ _ ?_; with_reducible assumption) | rfl)
    | (intro (p : StatePart); cases p <;> first | exact Or.inl (hS.part (by decide)) | with_reducible exact Or.inr rfl | with_reducible exact Or.inr ⟨rfl, rfl⟩ | with_reducible exact Or.inr (Nat.le_refl _))
    | intro _
    | with_reducible refine within_modBuf (hS.mono (by decide)) ?_
    | split
    | dsimp only
    | with_reducible refine Within.upd rfl ?_ ?_ ?_

theorem within_clearStack {S : List StatePart} {s0 : State} {n : Nat} {s : State}
    (hS : Covers S [.hbms, .mem])
    (hw : Within S s0 s) : Within S s0 (clearStack n s) := by
  unfold clearStack
  repeat' first
    | with_reducible assumption
    | (intro m; cases m; constructor <;> first | with_reducible assumption | (refine memWf_memClear _ _ _ ?_; with_reducible assumption) | rfl)
    | (intro (p : StatePart); cases p <;> first | exact Or.inl (hS.part (by decide)) | with_reducible exact Or.inr rfl | with_reducible exact Or.inr ⟨rfl, rfl⟩ | with_reducible exact Or.inr (Nat.le_refl _))
    | intro _
    | with_reducible refine within_modStack (hS.mono (by decide)) ?_
    | split
    | dsimp only
    | with_reducible refine Within.upd rfl ?_ ?_ ?_

theorem within_prepareUnit {S : List StatePart} {s0 : State} {part : Nat} {i : Nat} {s : State}
    (hS : Covers S [.parts, .hbms, .bufs, .mem])
    (hw : Within S s0 s) : Within S s0 (prepareUnit part i s) := by
  unfold prepareUnit
  repeat' first
    | with_reducible assumption
    | intro _
    | with_reducible refine within_clearBuffer (hS.mono (by decide)) ?_
    | with_reducible refine within_clearStack (hS.mono (by decide)) ?_
    | with_reducible refine within_modPart (hS.mono (by decide)) ?_
    | with_reducible refine Within.ite ?_ ?_
    | split
    | dsimp only

theorem within_setOwner {S : List StatePart} {s0 : State} {i : Nat} {part : Nat} {s : State}
    (hS : Covers S [.fp, .host, .ev, .fw, .hostMem, .bootGeneration])
    (hw : Within S s0 s) : Within S s0 (setOwner i part s) := by
  unfold setOwner
  repeat' first
    | with_reducible assumption
    | intro _
    | with_reducible refine within_modEntry (hS.mono (by decide)) ?_
    | with_reducible refine within_recordChange (hS.mono (by decide)) ?_ ?_
    | split
    | dsimp only

theorem within_doPartitionAdd {S : List StatePart} {s0 : State} {c : Cmd} {pay : List Byte} {s : State}
    (hS : Covers S [.fp, .host, .inProgress, .mgmt, .ev, .parts, .fw, .hbms, .bufs, .mem, .hostMem, .bootGeneration])
    (hw : Within S s0 s) : Within S s0 (doPartitionAdd c pay s) := by
  unfold doPartitionAdd
  repeat' first
    | with_reducible assumption
    | intro _
    | with_reducible refine within_checked (hS.mono (by decide)) ?_ ?_
    | with_reducible refine within_complete (hS.mono (by decide)) ?_
    | with_reducible refine within_prepareUnit (hS.mono (by decide)) ?_
    | with_reducible refine within_setOwner (hS.mono (by decide)) ?_
    | with_reducible refine Within.ite ?_ ?_
    | split
    | dsimp only

theorem within_execPartitionAdd {S : List StatePart} {s0 : State} {c : Cmd} {s : State}
    (hS : Covers S [.now, .fp, .host, .inProgress, .mgmt, .ev, .parts, .fw, .hbms, .bufs, .mem, .hostMem, .bootGeneration])
    (hw : Within S s0 s) : OutWithin S s0 (execPartitionAdd c s) := by
  unfold execPartitionAdd
  repeat' first
    | with_reducible assumption
    | intro _
    | with_reducible refine within_doPartitionAdd (hS.mono (by decide)) ?_
    | with_reducible refine within_runRow (hS.mono (by decide)) ?_ ?_
    | with_reducible refine OutWithin.next ?_
    | exact OutWithin.fault _ _ _
    | split
    | dsimp only

theorem within_doPartitionRemove {S : List StatePart} {s0 : State} {c : Cmd} {pay : List Byte} {s : State}
    (hS : Covers S [.fp, .host, .inProgress, .mgmt, .ev, .fw, .hostMem, .bootGeneration])
    (hw : Within S s0 s) : Within S s0 (doPartitionRemove c pay s) := by
  unfold doPartitionRemove
  repeat' first
    | with_reducible assumption
    | intro _
    | with_reducible refine within_checked (hS.mono (by decide)) ?_ ?_
    | with_reducible refine within_complete (hS.mono (by decide)) ?_
    | with_reducible refine within_setOwner (hS.mono (by decide)) ?_
    | split
    | dsimp only

theorem within_execPartitionRemove {S : List StatePart} {s0 : State} {c : Cmd} {s : State}
    (hS : Covers S [.now, .fp, .host, .inProgress, .mgmt, .ev, .fw, .hostMem, .bootGeneration])
    (hw : Within S s0 s) : OutWithin S s0 (execPartitionRemove c s) := by
  unfold execPartitionRemove
  repeat' first
    | with_reducible assumption
    | intro _
    | with_reducible refine within_doPartitionRemove (hS.mono (by decide)) ?_
    | with_reducible refine within_runRow (hS.mono (by decide)) ?_ ?_
    | with_reducible refine OutWithin.next ?_
    | exact OutWithin.fault _ _ _
    | split
    | dsimp only

theorem within_doWindowSet {S : List StatePart} {s0 : State} {c : Cmd} {pay : List Byte} {s : State}
    (hS : Covers S [.host, .inProgress, .mgmt, .parts, .hostMem])
    (hw : Within S s0 s) : Within S s0 (doWindowSet c pay s) := by
  unfold doWindowSet
  repeat' first
    | with_reducible assumption
    | intro _
    | with_reducible refine within_checked (hS.mono (by decide)) ?_ ?_
    | with_reducible refine within_complete (hS.mono (by decide)) ?_
    | with_reducible refine within_modPart (hS.mono (by decide)) ?_
    | with_reducible refine Within.ite ?_ ?_
    | split
    | dsimp only

theorem within_execWindowSet {S : List StatePart} {s0 : State} {c : Cmd} {s : State}
    (hS : Covers S [.now, .host, .inProgress, .mgmt, .parts, .hostMem])
    (hw : Within S s0 s) : OutWithin S s0 (execWindowSet c s) := by
  unfold execWindowSet
  repeat' first
    | with_reducible assumption
    | intro _
    | with_reducible refine within_doWindowSet (hS.mono (by decide)) ?_
    | with_reducible refine within_runRow (hS.mono (by decide)) ?_ ?_
    | with_reducible refine OutWithin.next ?_
    | exact OutWithin.fault _ _ _
    | split
    | dsimp only

theorem within_execWindowClear {S : List StatePart} {s0 : State} {c : Cmd} {s : State}
    (hS : Covers S [.now, .host, .inProgress, .mgmt, .parts, .hostMem])
    (hw : Within S s0 s) : OutWithin S s0 (execWindowClear c s) := by
  unfold execWindowClear
  repeat' first
    | with_reducible assumption
    | intro _
    | with_reducible refine within_doWindowSet (hS.mono (by decide)) ?_
    | with_reducible refine within_runRow (hS.mono (by decide)) ?_ ?_
    | with_reducible refine OutWithin.next ?_
    | exact OutWithin.fault _ _ _
    | split
    | dsimp only

theorem within_doMemScrubSet {S : List StatePart} {s0 : State} {c : Cmd} {pay : List Byte} {s : State}
    (hS : Covers S [.host, .inProgress, .mgmt, .hbms, .hostMem])
    (hw : Within S s0 s) : Within S s0 (doMemScrubSet c pay s) := by
  unfold doMemScrubSet
  repeat' first
    | with_reducible assumption
    | intro _
    | with_reducible refine within_checked (hS.mono (by decide)) ?_ ?_
    | with_reducible refine within_complete (hS.mono (by decide)) ?_
    | with_reducible refine within_modStack (hS.mono (by decide)) ?_
    | with_reducible refine Within.foldl _ _ (fun s a h => ?_) ?_
    | with_reducible refine Within.foldl_fourth _ _ (fun r a h => ?_) ?_
    | with_reducible refine Within.foldl_third _ _ (fun r a h => ?_) ?_
    | with_reducible refine Within.foldl_snd _ _ (fun r a h => ?_) ?_
    | with_reducible refine Within.foldl_fst _ _ (fun r a h => ?_) ?_
    | with_reducible refine Within.ite ?_ ?_
    | split
    | dsimp only

theorem within_execMemScrubSet {S : List StatePart} {s0 : State} {c : Cmd} {s : State}
    (hS : Covers S [.now, .host, .inProgress, .mgmt, .hbms, .hostMem])
    (hw : Within S s0 s) : OutWithin S s0 (execMemScrubSet c s) := by
  unfold execMemScrubSet
  repeat' first
    | with_reducible assumption
    | intro _
    | with_reducible refine within_doMemScrubSet (hS.mono (by decide)) ?_
    | with_reducible refine within_runRow (hS.mono (by decide)) ?_ ?_
    | with_reducible refine OutWithin.next ?_
    | exact OutWithin.fault _ _ _
    | split
    | dsimp only

theorem within_restartPatrol {S : List StatePart} {s0 : State} {n : Nat} {s : State}
    (hS : Covers S [.hbms])
    (hw : Within S s0 s) : Within S s0 (restartPatrol n s) := by
  unfold restartPatrol
  repeat' first
    | with_reducible assumption
    | intro _
    | with_reducible refine within_modStack (hS.mono (by decide)) ?_
    | split
    | dsimp only

theorem within_scrubWord {S : List StatePart} {s0 : State} {n : Nat} {w : Nat} {f : EccFinding} {s : State}
    (hS : Covers S [.host, .ev, .fw, .err, .hbms, .bufs, .cores, .hostMem, .bootLog, .bootStore])
    (hw : Within S s0 s) : Within S s0 (scrubWord n w f s) := by
  unfold scrubWord
  repeat' first
    | with_reducible assumption
    | intro _
    | with_reducible refine within_examineWord (hS.mono (by decide)) ?_
    | with_reducible refine within_modStack (hS.mono (by decide)) ?_
    | with_reducible refine Within.ite ?_ ?_
    | split
    | dsimp only

theorem within_execPatrolScrub {S : List StatePart} {s0 : State} {st : StackId} {word : Nat} {f : EccFinding} {time : Nat} {s : State}
    (hS : Covers S [.now, .host, .ev, .fw, .err, .hbms, .bufs, .cores, .hostMem, .bootLog, .bootStore])
    (hw : Within S s0 s) : OutWithin S s0 (execPatrolScrub st word f time s) := by
  unfold execPatrolScrub
  repeat' first
    | with_reducible assumption
    | intro _
    | with_reducible refine within_atTime (hS.mono (by decide)) ?_
    | with_reducible refine within_modStack (hS.mono (by decide)) ?_
    | with_reducible refine within_scrubWord (hS.mono (by decide)) ?_
    | with_reducible refine OutWithin.next ?_
    | exact OutWithin.fault _ _ _
    | with_reducible refine OutWithin.ite ?_ ?_
    | with_reducible refine Within.ite ?_ ?_
    | split
    | dsimp only

theorem within_execScheduledScrub {S : List StatePart} {s0 : State} {st : StackId} {unit : Nat} {f : EccFinding} {time : Nat} {s : State}
    (hS : Covers S [.now, .host, .ev, .fw, .err, .hbms, .bufs, .cores, .hostMem, .bootLog, .bootStore])
    (hw : Within S s0 s) : OutWithin S s0 (execScheduledScrub st unit f time s) := by
  unfold execScheduledScrub
  repeat' first
    | with_reducible assumption
    | intro _
    | with_reducible refine within_atTime (hS.mono (by decide)) ?_
    | with_reducible refine within_modStack (hS.mono (by decide)) ?_
    | with_reducible refine within_scrubWord (hS.mono (by decide)) ?_
    | with_reducible refine OutWithin.next ?_
    | exact OutWithin.fault _ _ _
    | with_reducible refine Within.foldl _ _ (fun s a h => ?_) ?_
    | with_reducible refine Within.foldl_fourth _ _ (fun r a h => ?_) ?_
    | with_reducible refine Within.foldl_third _ _ (fun r a h => ?_) ?_
    | with_reducible refine Within.foldl_snd _ _ (fun r a h => ?_) ?_
    | with_reducible refine Within.foldl_fst _ _ (fun r a h => ?_) ?_
    | with_reducible refine OutWithin.ite ?_ ?_
    | with_reducible refine Within.ite ?_ ?_
    | split
    | dsimp only

theorem within_retireRow {S : List StatePart} {s0 : State} {n : Nat} {row : Nat} {s : State}
    (hS : Covers S [.host, .ev, .fw, .hbms, .hostMem])
    (hw : Within S s0 s) : Within S s0 (retireRow n row s) := by
  unfold retireRow
  repeat' first
    | with_reducible assumption
    | intro _
    | with_reducible refine within_modStack (hS.mono (by decide)) ?_
    | with_reducible refine within_raise1 (hS.mono (by decide)) ?_
    | with_reducible refine Within.ite ?_ ?_
    | split
    | dsimp only

theorem within_execRowRetire {S : List StatePart} {s0 : State} {st : StackId} {row : Nat} {time : Nat} {s : State}
    (hS : Covers S [.now, .host, .ev, .fw, .hbms, .hostMem])
    (hw : Within S s0 s) : OutWithin S s0 (execRowRetire st row time s) := by
  unfold execRowRetire
  repeat' first
    | with_reducible assumption
    | intro _
    | with_reducible refine within_atTime (hS.mono (by decide)) ?_
    | with_reducible refine within_retireRow (hS.mono (by decide)) ?_
    | with_reducible refine OutWithin.next ?_
    | exact OutWithin.fault _ _ _
    | with_reducible refine OutWithin.ite ?_ ?_
    | with_reducible refine Within.ite ?_ ?_
    | split
    | dsimp only

end Sys2Proof.Laws
end

