-- ==== Sys2Proof/Laws/FrameEmbedding.lean ====
section
/-! SUPPORT. What each operation of Machine/Embedding.lean may change. -/

set_option linter.unusedTactic false
set_option linter.unreachableTactic false
set_option linter.unusedVariables false
set_option linter.unusedSimpArgs false

namespace Sys2Proof.Laws

open Machine

theorem within_modTable {S : List StatePart} {s0 : State} {n : Nat} {t : Nat} {f : EmbTable → EmbTable} {s : State}
    (hS : Covers S [.engines])
    (hw : Within S s0 s) : Within S s0 (modTable n t f s) := by
  unfold modTable
  repeat' first
    | with_reducible assumption
    | intro _
    | with_reducible refine within_modEngine (hS.mono (by decide)) ?_
    | with_reducible refine Within.ite ?_ ?_
    | split
    | dsimp only

theorem within_onStack {S : List StatePart} {s0 : State} {n : Nat} {c : Cmd} {pay : List Byte} {eff : State → State} {s : State}
    (hS : Covers S [.host, .inProgress, .mgmt, .fw, .hostMem])
    (h_eff : ∀ y0, Within S s0 y0 → Within S s0 (eff y0))
    (hw : Within S s0 s) : Within S s0 (onStack n c pay eff s) := by
  unfold onStack
  repeat' first
    | with_reducible assumption
    | intro _
    | with_reducible refine h_eff _ ?_
    | with_reducible refine within_needProc (hS.mono (by decide)) ?_ ?_
    | split
    | dsimp only

theorem within_doEmbTableCreate {S : List StatePart} {s0 : State} {c : Cmd} {pay : List Byte} {s : State}
    (hS : Covers S [.host, .inProgress, .mgmt, .fw, .engines, .hostMem])
    (hw : Within S s0 s) : Within S s0 (doEmbTableCreate c pay s) := by
  unfold doEmbTableCreate
  repeat' first
    | with_reducible assumption
    | intro _
    | with_reducible refine within_checked (hS.mono (by decide)) ?_ ?_
    | with_reducible refine within_complete (hS.mono (by decide)) ?_
    | with_reducible refine within_modEngine (hS.mono (by decide)) ?_
    | with_reducible refine within_onStack (hS.mono (by decide)) ?_ ?_
    | split
    | dsimp only

theorem within_execEmbTableCreate {S : List StatePart} {s0 : State} {c : Cmd} {s : State}
    (hS : Covers S [.now, .host, .inProgress, .mgmt, .fw, .engines, .hostMem])
    (hw : Within S s0 s) : OutWithin S s0 (execEmbTableCreate c s) := by
  unfold execEmbTableCreate
  repeat' first
    | with_reducible assumption
    | intro _
    | with_reducible refine within_doEmbTableCreate (hS.mono (by decide)) ?_
    | with_reducible refine within_runRow (hS.mono (by decide)) ?_ ?_
    | with_reducible refine OutWithin.next ?_
    | exact OutWithin.fault _ _ _
    | split
    | dsimp only

theorem within_doEmbTableDestroy {S : List StatePart} {s0 : State} {c : Cmd} {pay : List Byte} {s : State}
    (hS : Covers S [.host, .inProgress, .mgmt, .fw, .engines, .hostMem])
    (hw : Within S s0 s) : Within S s0 (doEmbTableDestroy c pay s) := by
  unfold doEmbTableDestroy
  repeat' first
    | with_reducible assumption
    | intro _
    | with_reducible refine within_checked (hS.mono (by decide)) ?_ ?_
    | with_reducible refine within_complete (hS.mono (by decide)) ?_
    | with_reducible refine within_modEngine (hS.mono (by decide)) ?_
    | with_reducible refine within_onStack (hS.mono (by decide)) ?_ ?_
    | split
    | dsimp only

theorem within_execEmbTableDestroy {S : List StatePart} {s0 : State} {c : Cmd} {s : State}
    (hS : Covers S [.now, .host, .inProgress, .mgmt, .fw, .engines, .hostMem])
    (hw : Within S s0 s) : OutWithin S s0 (execEmbTableDestroy c s) := by
  unfold execEmbTableDestroy
  repeat' first
    | with_reducible assumption
    | intro _
    | with_reducible refine within_doEmbTableDestroy (hS.mono (by decide)) ?_
    | with_reducible refine within_runRow (hS.mono (by decide)) ?_ ?_
    | with_reducible refine OutWithin.next ?_
    | exact OutWithin.fault _ _ _
    | split
    | dsimp only

theorem within_doEmbTableStatus {S : List StatePart} {s0 : State} {c : Cmd} {pay : List Byte} {s : State}
    (hS : Covers S [.host, .inProgress, .mgmt, .fw, .hostMem])
    (hw : Within S s0 s) : Within S s0 (doEmbTableStatus c pay s) := by
  unfold doEmbTableStatus
  repeat' first
    | with_reducible assumption
    | intro _
    | with_reducible refine within_checked (hS.mono (by decide)) ?_ ?_
    | with_reducible refine within_completeWithBuf (hS.mono (by decide)) ?_
    | with_reducible refine within_onStack (hS.mono (by decide)) ?_ ?_
    | split
    | dsimp only

theorem within_execEmbTableStatus {S : List StatePart} {s0 : State} {c : Cmd} {s : State}
    (hS : Covers S [.now, .host, .inProgress, .mgmt, .fw, .hostMem])
    (hw : Within S s0 s) : OutWithin S s0 (execEmbTableStatus c s) := by
  unfold execEmbTableStatus
  repeat' first
    | with_reducible assumption
    | intro _
    | with_reducible refine within_doEmbTableStatus (hS.mono (by decide)) ?_
    | with_reducible refine within_runRow (hS.mono (by decide)) ?_ ?_
    | with_reducible refine OutWithin.next ?_
    | exact OutWithin.fault _ _ _
    | split
    | dsimp only

theorem within_embRead {S : List StatePart} {s0 : State} {n : Nat} {r : EmbRequest} {f : EccFinding} {a : Nat} {len : Nat} {s : State}
    (hS : Covers S [.freeCtr, .host, .ev, .fw, .err, .fab, .hbms, .bufs, .engines, .links, .mem, .cores, .hostMem, .bootLog, .bootStore, .bootStoreMem])
    (hw : Within S s0 s) : Within S s0 (embRead n r f a len s).2.2.2 := by
  unfold embRead
  repeat' first
    | with_reducible assumption
    | intro _
    | with_reducible refine within_readNow (hS.mono (by decide)) ?_
    | split
    | dsimp only

theorem within_deadRequest {S : List StatePart} {s0 : State} {r : EmbRequest} {s : State}
    (hS : Covers S [.bays])
    (hw : Within S s0 s) : Within S s0 (deadRequest r s) := by
  unfold deadRequest
  repeat' first
    | with_reducible assumption
    | intro _
    | with_reducible refine within_setBay (hS.mono (by decide)) ?_
    | with_reducible refine Within.ite ?_ ?_
    | split
    | dsimp only

theorem within_readRows {S : List StatePart} {s0 : State} {n : Nat} {x : EmbTable} {base : Nat} {f : EccFinding} {res : Nat} {x0 : List Nat} {x1 : State}
    (hS : Covers S [.host, .ev, .fw, .err, .hbms, .bufs, .cores, .hostMem, .bootLog, .bootStore])
    (hw : Within S s0 x1) : Within S s0 (readRows n x base f res x0 x1).2.2 := by
  induction x0 generalizing x1 with
  | nil =>
    rw [readRows]
    repeat' first
      | with_reducible assumption
      | intro _
      | with_reducible refine within_readMem (hS.mono (by decide)) ?_
      | split
      | dsimp only
  | cons x l ih =>
    rw [readRows]
    repeat' first
      | with_reducible assumption
      | with_reducible refine ih ?_
      | intro _
      | with_reducible refine within_readMem (hS.mono (by decide)) ?_
      | split
      | dsimp only

theorem within_addRun {S : List StatePart} {s0 : State} {n : Nat} {r : EmbRun} {s : State}
    (hS : Covers S [.engines])
    (hw : Within S s0 s) : Within S s0 (addRun n r s) := by
  unfold addRun
  repeat' first
    | with_reducible assumption
    | intro _
    | with_reducible refine within_modEngine (hS.mono (by decide)) ?_
    | split
    | dsimp only

theorem within_startRows {S : List StatePart} {s0 : State} {n : Nat} {x : EmbTable} {r : EmbRequest} {f : EccFinding} {epoch : Nat} {idx : List Nat} {s : State}
    (hS : Covers S [.freeCtr, .host, .ev, .fw, .err, .fab, .hbms, .bufs, .engines, .links, .mem, .bays, .cores, .hostMem, .bootLog, .bootStore, .bootStoreMem])
    (hw : Within S s0 s) : OptWithin S s0 (startRows n x r f epoch idx s) := by
  unfold startRows
  repeat' first
    | with_reducible assumption
    | intro _
    | with_reducible refine within_addRun (hS.mono (by decide)) ?_
    | with_reducible refine within_deadRequest (hS.mono (by decide)) ?_
    | with_reducible refine within_embRead (hS.mono (by decide)) ?_
    | with_reducible refine within_readRows (hS.mono (by decide)) ?_
    | with_reducible refine OptWithin.some ?_
    | with_reducible exact OptWithin.none _ _
    | with_reducible refine OptWithin.ite ?_ ?_
    | with_reducible refine Within.ite ?_ ?_
    | split
    | dsimp only

theorem within_startLookup {S : List StatePart} {s0 : State} {n : Nat} {r : EmbRequest} {f : EccFinding} {s : State}
    (hS : Covers S [.freeCtr, .host, .ev, .fw, .err, .fab, .hbms, .bufs, .engines, .links, .mem, .bays, .cores, .hostMem, .bootLog, .bootStore, .bootStoreMem])
    (hw : Within S s0 s) : OptWithin S s0 (startLookup n r f s) := by
  unfold startLookup
  repeat' first
    | with_reducible assumption
    | intro _
    | with_reducible refine within_addRun (hS.mono (by decide)) ?_
    | with_reducible refine within_deadRequest (hS.mono (by decide)) ?_
    | with_reducible refine within_embRead (hS.mono (by decide)) ?_
    | with_reducible refine OptWithin.getD (within_startRows (hS.mono (by decide)) ?_) ?_
    | with_reducible refine (within_startRows (hS.mono (by decide)) ?_).get (by with_reducible assumption)
    | with_reducible refine within_startRows (hS.mono (by decide)) ?_
    | with_reducible refine within_takeFree (hS.mono (by decide)) ?_
    | with_reducible refine OptWithin.some ?_
    | with_reducible exact OptWithin.none _ _
    | with_reducible refine OptWithin.ite ?_ ?_
    | with_reducible refine Within.ite ?_ ?_
    | split
    | dsimp only

theorem within_execLookupStart {S : List StatePart} {s0 : State} {st : StackId} {f : EccFinding} {time : Nat} {s : State}
    (hS : Covers S [.freeCtr, .now, .host, .ev, .fw, .err, .fab, .hbms, .bufs, .engines, .links, .mem, .bays, .cores, .hostMem, .bootLog, .bootStore, .bootStoreMem])
    (hw : Within S s0 s) : OutWithin S s0 (execLookupStart st f time s) := by
  unfold execLookupStart
  repeat' first
    | with_reducible assumption
    | intro _
    | with_reducible refine within_atTime (hS.mono (by decide)) ?_
    | with_reducible refine within_modEngine (hS.mono (by decide)) ?_
    | with_reducible refine OptWithin.getD (within_startLookup (hS.mono (by decide)) ?_) ?_
    | with_reducible refine (within_startLookup (hS.mono (by decide)) ?_).get (by with_reducible assumption)
    | with_reducible refine within_startLookup (hS.mono (by decide)) ?_
    | with_reducible refine OutWithin.next ?_
    | exact OutWithin.fault _ _ _
    | with_reducible refine OutWithin.ite ?_ ?_
    | with_reducible refine Within.ite ?_ ?_
    | split
    | dsimp only

theorem within_countRequest {S : List StatePart} {s0 : State} {n : Nat} {r : EmbRun} {s : State}
    (hS : Covers S [.engines])
    (hw : Within S s0 s) : Within S s0 (countRequest n r s) := by
  unfold countRequest
  repeat' first
    | with_reducible assumption
    | intro _
    | with_reducible refine within_modTable (hS.mono (by decide)) ?_
    | with_reducible refine Within.ite ?_ ?_
    | split
    | dsimp only

theorem within_sendResult {S : List StatePart} {s0 : State} {n : Nat} {r : EmbRun} {bs : List Byte} {s : State}
    (hS : Covers S [.fab, .engines])
    (hw : Within S s0 s) : Within S s0 (sendResult n r bs s) := by
  unfold sendResult
  repeat' first
    | with_reducible assumption
    | intro _
    | with_reducible refine within_modEngine (hS.mono (by decide)) ?_
    | with_reducible refine within_sendRequest (hS.mono (by decide)) ?_
    | with_reducible refine Within.foldl _ _ (fun s a h => ?_) ?_
    | with_reducible refine Within.foldl_fourth _ _ (fun r a h => ?_) ?_
    | with_reducible refine Within.foldl_third _ _ (fun r a h => ?_) ?_
    | with_reducible refine Within.foldl_snd _ _ (fun r a h => ?_) ?_
    | with_reducible refine Within.foldl_fst _ _ (fun r a h => ?_) ?_
    | with_reducible refine Within.ite ?_ ?_
    | split
    | dsimp only

theorem within_execLookupResult {S : List StatePart} {s0 : State} {st : StackId} {order : List Nat} {time : Nat} {s : State}
    (hS : Covers S [.now, .fab, .engines])
    (hw : Within S s0 s) : OutWithin S s0 (execLookupResult st order time s) := by
  unfold execLookupResult
  repeat' first
    | with_reducible assumption
    | intro _
    | with_reducible refine within_atTime (hS.mono (by decide)) ?_
    | with_reducible refine within_countRequest (hS.mono (by decide)) ?_
    | with_reducible refine within_modEngine (hS.mono (by decide)) ?_
    | with_reducible refine within_sendResult (hS.mono (by decide)) ?_
    | with_reducible refine OutWithin.next ?_
    | exact OutWithin.fault _ _ _
    | with_reducible refine OutWithin.ite ?_ ?_
    | with_reducible refine Within.ite ?_ ?_
    | split
    | dsimp only

theorem within_inOrder {S : List StatePart} {s0 : State} {part : Nat} {c : Cmd} {pay : List Byte} {eff : State → State} {s : State}
    (hS : Covers S [.fw])
    (h_eff : ∀ y0, Within S s0 y0 → Within S s0 (eff y0))
    (hw : Within S s0 s) : Within S s0 (inOrder part c pay eff s) := by
  unfold inOrder
  repeat' first
    | with_reducible assumption
    | (intro m; cases m; constructor <;> first | with_reducible assumption)
    | (intro (p : StatePart); cases p <;> first | exact Or.inl (hS.part (by decide)) | with_reducible exact Or.inr rfl | with_reducible exact Or.inr ⟨rfl, rfl⟩ | with_reducible exact Or.inr (Nat.le_refl _))
    | intro _
    | with_reducible refine h_eff _ ?_
    | split
    | dsimp only
    | with_reducible refine Within.upd rfl ?_ ?_ ?_

theorem within_onEngines {S : List StatePart} {s0 : State} {part : Nat} {c : Cmd} {pay : List Byte} {eff : State → State} {s : State}
    (hS : Covers S [.host, .inProgress, .mgmt, .fw, .hostMem])
    (h_eff : ∀ y0, Within S s0 y0 → Within S s0 (eff y0))
    (hw : Within S s0 s) : Within S s0 (onEngines part c pay eff s) := by
  unfold onEngines
  repeat' first
    | with_reducible assumption
    | intro _
    | with_reducible refine h_eff _ ?_
    | with_reducible refine within_needProcs (hS.mono (by decide)) ?_ ?_
    | split
    | dsimp only

theorem within_doEmbBatchOpen {S : List StatePart} {s0 : State} {c : Cmd} {pay : List Byte} {s : State}
    (hS : Covers S [.host, .inProgress, .mgmt, .parts, .fw, .hostMem])
    (hw : Within S s0 s) : Within S s0 (doEmbBatchOpen c pay s) := by
  unfold doEmbBatchOpen
  repeat' first
    | with_reducible assumption
    | intro _
    | with_reducible refine within_checked (hS.mono (by decide)) ?_ ?_
    | with_reducible refine within_complete (hS.mono (by decide)) ?_
    | with_reducible refine within_failCmd (hS.mono (by decide)) ?_
    | with_reducible refine within_inOrder (hS.mono (by decide)) ?_ ?_
    | with_reducible refine within_modPart (hS.mono (by decide)) ?_
    | with_reducible refine within_onEngines (hS.mono (by decide)) ?_ ?_
    | split
    | dsimp only

theorem within_execEmbBatchOpen {S : List StatePart} {s0 : State} {c : Cmd} {s : State}
    (hS : Covers S [.now, .host, .inProgress, .mgmt, .parts, .fw, .hostMem])
    (hw : Within S s0 s) : OutWithin S s0 (execEmbBatchOpen c s) := by
  unfold execEmbBatchOpen
  repeat' first
    | with_reducible assumption
    | intro _
    | with_reducible refine within_doEmbBatchOpen (hS.mono (by decide)) ?_
    | with_reducible refine within_runRow (hS.mono (by decide)) ?_ ?_
    | with_reducible refine OutWithin.next ?_
    | exact OutWithin.fault _ _ _
    | split
    | dsimp only

theorem within_doEmbBatchClose {S : List StatePart} {s0 : State} {c : Cmd} {pay : List Byte} {s : State}
    (hS : Covers S [.host, .inProgress, .mgmt, .parts, .hostMem])
    (hw : Within S s0 s) : Within S s0 (doEmbBatchClose c pay s) := by
  unfold doEmbBatchClose
  repeat' first
    | with_reducible assumption
    | intro _
    | with_reducible refine within_checked (hS.mono (by decide)) ?_ ?_
    | with_reducible refine within_modPart (hS.mono (by decide)) ?_
    | with_reducible refine Within.ite ?_ ?_
    | split
    | dsimp only

theorem within_execEmbBatchClose {S : List StatePart} {s0 : State} {c : Cmd} {s : State}
    (hS : Covers S [.now, .host, .inProgress, .mgmt, .parts, .hostMem])
    (hw : Within S s0 s) : OutWithin S s0 (execEmbBatchClose c s) := by
  unfold execEmbBatchClose
  repeat' first
    | with_reducible assumption
    | intro _
    | with_reducible refine within_doEmbBatchClose (hS.mono (by decide)) ?_
    | with_reducible refine within_runRow (hS.mono (by decide)) ?_ ?_
    | with_reducible refine OutWithin.next ?_
    | exact OutWithin.fault _ _ _
    | split
    | dsimp only

theorem within_execEmbBatchRelease {S : List StatePart} {s0 : State} {part : Fin 8} {batch : Nat} {time : Nat} {s : State}
    (hS : Covers S [.now, .host, .inProgress, .mgmt, .parts, .hostMem])
    (hw : Within S s0 s) : OutWithin S s0 (execEmbBatchRelease part batch time s) := by
  unfold execEmbBatchRelease
  repeat' first
    | with_reducible assumption
    | intro _
    | with_reducible refine within_atTime (hS.mono (by decide)) ?_
    | with_reducible refine within_complete (hS.mono (by decide)) ?_
    | with_reducible refine within_modPart (hS.mono (by decide)) ?_
    | with_reducible refine OutWithin.next ?_
    | exact OutWithin.fault _ _ _
    | with_reducible refine OutWithin.ite ?_ ?_
    | with_reducible refine Within.ite ?_ ?_
    | split
    | dsimp only

theorem within_doEmbRebuildStart {S : List StatePart} {s0 : State} {c : Cmd} {pay : List Byte} {s : State}
    (hS : Covers S [.host, .inProgress, .mgmt, .fw, .engines, .hostMem])
    (hw : Within S s0 s) : Within S s0 (doEmbRebuildStart c pay s) := by
  unfold doEmbRebuildStart
  repeat' first
    | with_reducible assumption
    | intro _
    | with_reducible refine within_checked (hS.mono (by decide)) ?_ ?_
    | with_reducible refine within_complete (hS.mono (by decide)) ?_
    | with_reducible refine within_modTable (hS.mono (by decide)) ?_
    | with_reducible refine within_onStack (hS.mono (by decide)) ?_ ?_
    | split
    | dsimp only

theorem within_execEmbRebuildStart {S : List StatePart} {s0 : State} {c : Cmd} {s : State}
    (hS : Covers S [.now, .host, .inProgress, .mgmt, .fw, .engines, .hostMem])
    (hw : Within S s0 s) : OutWithin S s0 (execEmbRebuildStart c s) := by
  unfold execEmbRebuildStart
  repeat' first
    | with_reducible assumption
    | intro _
    | with_reducible refine within_doEmbRebuildStart (hS.mono (by decide)) ?_
    | with_reducible refine within_runRow (hS.mono (by decide)) ?_ ?_
    | with_reducible refine OutWithin.next ?_
    | exact OutWithin.fault _ _ _
    | split
    | dsimp only

theorem within_doEmbRebuildCtrl {S : List StatePart} {s0 : State} {c : Cmd} {pay : List Byte} {s : State}
    (hS : Covers S [.host, .inProgress, .mgmt, .fw, .engines, .hostMem])
    (hw : Within S s0 s) : Within S s0 (doEmbRebuildCtrl c pay s) := by
  unfold doEmbRebuildCtrl
  repeat' first
    | with_reducible assumption
    | intro _
    | with_reducible refine within_checked (hS.mono (by decide)) ?_ ?_
    | with_reducible refine within_complete (hS.mono (by decide)) ?_
    | with_reducible refine within_modTable (hS.mono (by decide)) ?_
    | with_reducible refine within_onStack (hS.mono (by decide)) ?_ ?_
    | split
    | dsimp only

theorem within_execEmbRebuildPause {S : List StatePart} {s0 : State} {c : Cmd} {s : State}
    (hS : Covers S [.now, .host, .inProgress, .mgmt, .fw, .engines, .hostMem])
    (hw : Within S s0 s) : OutWithin S s0 (execEmbRebuildPause c s) := by
  unfold execEmbRebuildPause
  repeat' first
    | with_reducible assumption
    | intro _
    | with_reducible refine within_doEmbRebuildCtrl (hS.mono (by decide)) ?_
    | with_reducible refine within_runRow (hS.mono (by decide)) ?_ ?_
    | with_reducible refine OutWithin.next ?_
    | exact OutWithin.fault _ _ _
    | split
    | dsimp only

theorem within_execEmbRebuildResume {S : List StatePart} {s0 : State} {c : Cmd} {s : State}
    (hS : Covers S [.now, .host, .inProgress, .mgmt, .fw, .engines, .hostMem])
    (hw : Within S s0 s) : OutWithin S s0 (execEmbRebuildResume c s) := by
  unfold execEmbRebuildResume
  repeat' first
    | with_reducible assumption
    | intro _
    | with_reducible refine within_doEmbRebuildCtrl (hS.mono (by decide)) ?_
    | with_reducible refine within_runRow (hS.mono (by decide)) ?_ ?_
    | with_reducible refine OutWithin.next ?_
    | exact OutWithin.fault _ _ _
    | split
    | dsimp only

theorem within_execEmbRebuildShare {S : List StatePart} {s0 : State} {c : Cmd} {s : State}
    (hS : Covers S [.now, .host, .inProgress, .mgmt, .fw, .engines, .hostMem])
    (hw : Within S s0 s) : OutWithin S s0 (execEmbRebuildShare c s) := by
  unfold execEmbRebuildShare
  repeat' first
    | with_reducible assumption
    | intro _
    | with_reducible refine within_doEmbRebuildCtrl (hS.mono (by decide)) ?_
    | with_reducible refine within_runRow (hS.mono (by decide)) ?_ ?_
    | with_reducible refine OutWithin.next ?_
    | exact OutWithin.fault _ _ _
    | split
    | dsimp only

theorem within_execEmbRebuildAbort {S : List StatePart} {s0 : State} {c : Cmd} {s : State}
    (hS : Covers S [.now, .host, .inProgress, .mgmt, .fw, .engines, .hostMem])
    (hw : Within S s0 s) : OutWithin S s0 (execEmbRebuildAbort c s) := by
  unfold execEmbRebuildAbort
  repeat' first
    | with_reducible assumption
    | intro _
    | with_reducible refine within_doEmbRebuildCtrl (hS.mono (by decide)) ?_
    | with_reducible refine within_runRow (hS.mono (by decide)) ?_ ?_
    | with_reducible refine OutWithin.next ?_
    | exact OutWithin.fault _ _ _
    | split
    | dsimp only

theorem within_doEmbCommit {S : List StatePart} {s0 : State} {c : Cmd} {pay : List Byte} {s : State}
    (hS : Covers S [.host, .inProgress, .mgmt, .fw, .engines, .hostMem])
    (hw : Within S s0 s) : Within S s0 (doEmbCommit c pay s) := by
  unfold doEmbCommit
  repeat' first
    | with_reducible assumption
    | intro _
    | with_reducible refine within_checked (hS.mono (by decide)) ?_ ?_
    | with_reducible refine within_complete (hS.mono (by decide)) ?_
    | with_reducible refine within_inOrder (hS.mono (by decide)) ?_ ?_
    | with_reducible refine within_modTable (hS.mono (by decide)) ?_
    | with_reducible refine within_onStack (hS.mono (by decide)) ?_ ?_
    | split
    | dsimp only

theorem within_execEmbCommit {S : List StatePart} {s0 : State} {c : Cmd} {s : State}
    (hS : Covers S [.now, .host, .inProgress, .mgmt, .fw, .engines, .hostMem])
    (hw : Within S s0 s) : OutWithin S s0 (execEmbCommit c s) := by
  unfold execEmbCommit
  repeat' first
    | with_reducible assumption
    | intro _
    | with_reducible refine within_doEmbCommit (hS.mono (by decide)) ?_
    | with_reducible refine within_runRow (hS.mono (by decide)) ?_ ?_
    | with_reducible refine OutWithin.next ?_
    | exact OutWithin.fault _ _ _
    | split
    | dsimp only

theorem within_rebuildFails {S : List StatePart} {s0 : State} {n : Nat} {t : Nat} {s : State}
    (hS : Covers S [.host, .ev, .fw, .engines, .hostMem])
    (hw : Within S s0 s) : Within S s0 (rebuildFails n t s) := by
  unfold rebuildFails
  repeat' first
    | with_reducible assumption
    | intro _
    | with_reducible refine within_modTable (hS.mono (by decide)) ?_
    | with_reducible refine within_raise1 (hS.mono (by decide)) ?_
    | split
    | dsimp only

theorem within_rebuildRow {S : List StatePart} {s0 : State} {n : Nat} {x : EmbTable} {i : Nat} {f : EccFinding} {s : State}
    (hS : Covers S [.freeCtr, .host, .ev, .fw, .err, .fab, .hbms, .bufs, .engines, .links, .mem, .cores, .hostMem, .bootLog, .bootStore, .bootStoreMem])
    (hw : Within S s0 s) : Within S s0 (rebuildRow n x i f s).2.2 := by
  unfold rebuildRow
  repeat' first
    | with_reducible assumption
    | intro _
    | with_reducible refine within_readMem (hS.mono (by decide)) ?_
    | with_reducible refine within_readNow (hS.mono (by decide)) ?_
    | with_reducible refine Within.ite ?_ ?_
    | split
    | dsimp only

theorem within_execRebuildRowWrite {S : List StatePart} {s0 : State} {st : StackId} {tab : Fin 64} {f : EccFinding} {time : Nat} {s : State}
    (hS : Covers S [.freeCtr, .now, .host, .ev, .fw, .err, .fab, .hbms, .bufs, .engines, .links, .mem, .cores, .hostMem, .bootLog, .bootStore, .bootStoreMem])
    (hw : Within S s0 s) : OutWithin S s0 (execRebuildRowWrite st tab f time s) := by
  unfold execRebuildRowWrite
  repeat' first
    | with_reducible assumption
    | intro _
    | with_reducible refine within_atTime (hS.mono (by decide)) ?_
    | with_reducible refine within_modTable (hS.mono (by decide)) ?_
    | with_reducible refine within_raise1 (hS.mono (by decide)) ?_
    | with_reducible refine within_rebuildFails (hS.mono (by decide)) ?_
    | with_reducible refine within_rebuildRow (hS.mono (by decide)) ?_
    | with_reducible refine within_writeMem (hS.mono (by decide)) ?_
    | with_reducible refine OutWithin.next ?_
    | exact OutWithin.fault _ _ _
    | with_reducible refine OutWithin.ite ?_ ?_
    | with_reducible refine Within.ite ?_ ?_
    | split
    | dsimp only

theorem within_execRebuildStarved {S : List StatePart} {s0 : State} {st : StackId} {tab : Fin 64} {time : Nat} {s : State}
    (hS : Covers S [.now, .host, .ev, .fw, .engines, .hostMem])
    (hw : Within S s0 s) : OutWithin S s0 (execRebuildStarved st tab time s) := by
  unfold execRebuildStarved
  repeat' first
    | with_reducible assumption
    | intro _
    | with_reducible refine within_atTime (hS.mono (by decide)) ?_
    | with_reducible refine within_modTable (hS.mono (by decide)) ?_
    | with_reducible refine within_raise1 (hS.mono (by decide)) ?_
    | with_reducible refine OutWithin.next ?_
    | exact OutWithin.fault _ _ _
    | with_reducible refine OutWithin.ite ?_ ?_
    | with_reducible refine Within.ite ?_ ?_
    | split
    | dsimp only

end Sys2Proof.Laws
end

