-- ==== Sys2Proof/Laws/FrameMgmtOps.lean ====
section
/-! SUPPORT. What each operation of Machine/MgmtOps.lean may change. -/

set_option linter.unusedTactic false
set_option linter.unreachableTactic false
set_option linter.unusedVariables false
set_option linter.unusedSimpArgs false

namespace Sys2Proof.Laws

open Machine

theorem within_sendAlert {S : List StatePart} {s0 : State} {e : EventRec} {s : State}
    (hS : Covers S [.mgmt])
    (hw : Within S s0 s) : Within S s0 (sendAlert e s) := by
  unfold sendAlert
  repeat' first
    | with_reducible assumption
    | (intro m; cases m; constructor <;> first | with_reducible assumption)
    | (intro (p : StatePart); cases p <;> first | exact Or.inl (hS.part (by decide)) | with_reducible exact Or.inr rfl | with_reducible exact Or.inr ⟨rfl, rfl⟩ | with_reducible exact Or.inr (Nat.le_refl _))
    | intro _
    | with_reducible refine within_sendFrame (hS.mono (by decide)) ?_
    | split
    | dsimp only
    | with_reducible refine Within.upd rfl ?_ ?_ ?_

theorem within_raiseCritical {S : List StatePart} {s0 : State} {e : EventRec} {s : State}
    (hS : Covers S [.host, .mgmt, .ev, .fw, .hostMem])
    (hw : Within S s0 s) : Within S s0 (raiseCritical e s) := by
  unfold raiseCritical
  repeat' first
    | with_reducible assumption
    | intro _
    | with_reducible refine within_raise1 (hS.mono (by decide)) ?_
    | with_reducible refine within_sendAlert (hS.mono (by decide)) ?_
    | split
    | dsimp only

theorem within_measure {S : List StatePart} {s0 : State} {kind : Nat} {arg : List Byte} {digest : List Byte} {s : State}
    (hS : Covers S [.host, .measure, .ev, .fw, .hostMem])
    (hw : Within S s0 s) : Within S s0 (Machine.measure kind arg digest s) := by
  unfold Machine.measure
  repeat' first
    | with_reducible assumption
    | (intro m; cases m; constructor <;> first | with_reducible assumption | (simp [modAt, copies, *]; done))
    | (intro (p : StatePart); cases p <;> first | exact Or.inl (hS.part (by decide)) | with_reducible exact Or.inr rfl | with_reducible exact Or.inr ⟨rfl, rfl⟩ | with_reducible exact Or.inr (Nat.le_refl _))
    | intro _
    | with_reducible refine within_raise1 (hS.mono (by decide)) ?_
    | with_reducible refine Within.ite ?_ ?_
    | split
    | dsimp only
    | with_reducible refine Within.upd rfl ?_ ?_ ?_

end Sys2Proof.Laws
end

