-- ==== Sys2Proof/Laws/FrameWeightStore.lean ====
section
/-! SUPPORT. What each operation of Machine/WeightStore.lean may change. -/

set_option linter.unusedTactic false
set_option linter.unreachableTactic false
set_option linter.unusedVariables false
set_option linter.unusedSimpArgs false

namespace Sys2Proof.Laws

open Machine

theorem within_execPageSweep {S : List StatePart} {s0 : State} {w : StoreDieId} {page : Nat} {time : Nat} {s : State}
    (hS : Covers S [.now, .host, .ev, .fw, .err, .hbms, .bufs, .cores, .hostMem, .bootLog, .bootStore])
    (hw : Within S s0 s) : OutWithin S s0 (execPageSweep w page time s) := by
  unfold execPageSweep
  repeat' first
    | with_reducible assumption
    | intro _
    | with_reducible refine within_atTime (hS.mono (by decide)) ?_
    | with_reducible refine within_examine (hS.mono (by decide)) ?_
    | with_reducible refine within_logAdd (hS.mono (by decide)) ?_
    | with_reducible refine within_modStore (hS.mono (by decide)) ?_
    | with_reducible refine within_raise1 (hS.mono (by decide)) ?_
    | with_reducible refine within_readMem (hS.mono (by decide)) ?_
    | with_reducible refine OutWithin.next ?_
    | exact OutWithin.fault _ _ _
    | with_reducible refine OutWithin.ite ?_ ?_
    | with_reducible refine Within.ite ?_ ?_
    | split
    | dsimp only

theorem within_doInstallBegin {S : List StatePart} {s0 : State} {c : Cmd} {_pay : List Byte} {s : State}
    (hS : Covers S [.host, .inProgress, .mgmt, .install, .hostMem])
    (hw : Within S s0 s) : Within S s0 (doInstallBegin c _pay s) := by
  unfold doInstallBegin
  repeat' first
    | with_reducible assumption
    | (intro m; cases m; constructor <;> first | with_reducible assumption)
    | (intro (p : StatePart); cases p <;> first | exact Or.inl (hS.part (by decide)) | with_reducible exact Or.inr rfl | with_reducible exact Or.inr ⟨rfl, rfl⟩ | with_reducible exact Or.inr (Nat.le_refl _))
    | intro _
    | with_reducible refine within_checked (hS.mono (by decide)) ?_ ?_
    | with_reducible refine within_complete (hS.mono (by decide)) ?_
    | split
    | dsimp only
    | with_reducible refine Within.upd rfl ?_ ?_ ?_

theorem within_execWstoreInstallBegin {S : List StatePart} {s0 : State} {c : Cmd} {s : State}
    (hS : Covers S [.now, .host, .inProgress, .mgmt, .install, .hostMem])
    (hw : Within S s0 s) : OutWithin S s0 (execWstoreInstallBegin c s) := by
  unfold execWstoreInstallBegin
  repeat' first
    | with_reducible assumption
    | intro _
    | with_reducible refine within_doInstallBegin (hS.mono (by decide)) ?_
    | with_reducible refine within_runRow (hS.mono (by decide)) ?_ ?_
    | with_reducible refine OutWithin.next ?_
    | exact OutWithin.fault _ _ _
    | split
    | dsimp only

theorem within_doInstallEnd {S : List StatePart} {s0 : State} {c : Cmd} {_pay : List Byte} {s : State}
    (hS : Covers S [.host, .inProgress, .mgmt, .install, .hostMem])
    (hw : Within S s0 s) : Within S s0 (doInstallEnd c _pay s) := by
  unfold doInstallEnd
  repeat' first
    | with_reducible assumption
    | (intro m; cases m; constructor <;> first | with_reducible assumption)
    | (intro (p : StatePart); cases p <;> first | exact Or.inl (hS.part (by decide)) | with_reducible exact Or.inr rfl | with_reducible exact Or.inr ⟨rfl, rfl⟩ | with_reducible exact Or.inr (Nat.le_refl _))
    | intro _
    | with_reducible refine within_checked (hS.mono (by decide)) ?_ ?_
    | with_reducible refine within_complete (hS.mono (by decide)) ?_
    | split
    | dsimp only
    | with_reducible refine Within.upd rfl ?_ ?_ ?_

theorem within_execWstoreInstallEnd {S : List StatePart} {s0 : State} {c : Cmd} {s : State}
    (hS : Covers S [.now, .host, .inProgress, .mgmt, .install, .hostMem])
    (hw : Within S s0 s) : OutWithin S s0 (execWstoreInstallEnd c s) := by
  unfold execWstoreInstallEnd
  repeat' first
    | with_reducible assumption
    | intro _
    | with_reducible refine within_doInstallEnd (hS.mono (by decide)) ?_
    | with_reducible refine within_runRow (hS.mono (by decide)) ?_ ?_
    | with_reducible refine OutWithin.next ?_
    | exact OutWithin.fault _ _ _
    | split
    | dsimp only

theorem within_doWstoreWrite {S : List StatePart} {s0 : State} {c : Cmd} {pay : List Byte} {s : State}
    (hS : Covers S [.host, .inProgress, .mgmt, .installs, .hostMem])
    (hw : Within S s0 s) : Within S s0 (doWstoreWrite c pay s) := by
  unfold doWstoreWrite
  repeat' first
    | with_reducible assumption
    | (intro m; cases m; constructor <;> first | with_reducible assumption)
    | (intro (p : StatePart); cases p <;> first | exact Or.inl (hS.part (by decide)) | with_reducible exact Or.inr rfl | with_reducible exact Or.inr ⟨rfl, rfl⟩ | with_reducible exact Or.inr (Nat.le_refl _))
    | intro _
    | with_reducible refine within_checked (hS.mono (by decide)) ?_ ?_
    | with_reducible refine within_failCmd (hS.mono (by decide)) ?_
    | with_reducible refine Within.ite ?_ ?_
    | split
    | dsimp only
    | with_reducible refine Within.upd rfl ?_ ?_ ?_

theorem within_execWstoreWrite {S : List StatePart} {s0 : State} {c : Cmd} {s : State}
    (hS : Covers S [.now, .host, .inProgress, .mgmt, .installs, .hostMem])
    (hw : Within S s0 s) : OutWithin S s0 (execWstoreWrite c s) := by
  unfold execWstoreWrite
  repeat' first
    | with_reducible assumption
    | intro _
    | with_reducible refine within_doWstoreWrite (hS.mono (by decide)) ?_
    | with_reducible refine within_runRow (hS.mono (by decide)) ?_ ?_
    | with_reducible refine OutWithin.next ?_
    | exact OutWithin.fault _ _ _
    | split
    | dsimp only

theorem within_putPage {S : List StatePart} {s0 : State} {w : Nat} {e : ImageEntry} {seq : Nat} {bs : List Byte} {s : State}
    (hS : Covers S [.freeCtr, .bootStore, .bootStoreMem])
    (hw : Within S s0 s) : Within S s0 (putPage w e seq bs s) := by
  unfold putPage
  repeat' first
    | with_reducible assumption
    | (intro m; cases m; constructor <;> first | with_reducible assumption | (refine keysRise_mapPut _ _ _ ?_; with_reducible assumption) | (refine memWf_memWrite _ _ _ ?_; with_reducible assumption) | (refine memWf_memClear _ _ _ ?_; with_reducible assumption) | (refine memWf_memWrite _ _ _ (memWf_memClear _ _ _ ?_); with_reducible assumption) | (refine keysRise_filter _ _ ?_; with_reducible assumption))
    | (intro (p : StatePart); cases p <;> first | exact Or.inl (hS.part (by decide)) | with_reducible exact Or.inr rfl | with_reducible exact Or.inr ⟨rfl, rfl⟩ | with_reducible exact Or.inr (Nat.le_refl _))
    | intro _
    | with_reducible refine within_modStore (hS.mono (by decide)) ?_
    | split
    | dsimp only
    | with_reducible refine Within.upd rfl ?_ ?_ ?_

theorem within_countPageWrite {S : List StatePart} {s0 : State} {w : Nat} {s : State}
    (hS : Covers S [.host, .ev, .fw, .hostMem, .bootStore])
    (hw : Within S s0 s) : Within S s0 (countPageWrite w s) := by
  unfold countPageWrite
  repeat' first
    | with_reducible assumption
    | intro _
    | with_reducible refine within_modStore (hS.mono (by decide)) ?_
    | with_reducible refine within_raise1 (hS.mono (by decide)) ?_
    | with_reducible refine Within.ite ?_ ?_
    | split
    | dsimp only

theorem within_keepPage {S : List StatePart} {s0 : State} {w : Nat} {old s : State}
    (hS : Covers S [.bootStore, .bootStoreMem])
    (ho : Within S s0 old) (hw : Within S s0 s) : Within S s0 (keepPage w old s) := by
  refine ⟨fun p hn => ?_, fun m => ⟨(hw.kept m).mem, (hw.kept m).hostMem, (ho.kept m).storeMem, (hw.kept m).entries, (hw.kept m).parts, (hw.kept m).quads, (hw.kept m).cores, (hw.kept m).bays, (hw.kept m).sites, (hw.kept m).hot, (hw.kept m).procs, (hw.kept m).wear, (hw.kept m).bootWear, (hw.kept m).missed, (hw.kept m).hops, (hw.kept m).ports, (hw.kept m).hbms, (hw.kept m).bufs, keysRise_mapSet _ _ _ _ (hw.kept m).store, (hw.kept m).engines, (hw.kept m).links, (hw.kept m).queues, (hw.kept m).failures, (hw.kept m).retests⟩⟩
  have := hw.frame p hn
  cases p <;> first | exact absurd (hS.part (by decide)) hn | exact this

theorem within_writePage {S : List StatePart} {s0 : State} {w : Nat} {seq : Nat} {src : ImageSource} {e : ImageEntry} {s : State}
    (hS : Covers S [.freeCtr, .host, .ev, .fw, .err, .hbms, .bufs, .cores, .hostMem, .bootLog, .bootStore, .bootStoreMem])
    (hw : Within S s0 s) : Within S s0 (writePage w seq src e s).2 := by
  unfold writePage
  repeat' first
    | with_reducible assumption
    | intro _
    | with_reducible refine within_countPageWrite (hS.mono (by decide)) ?_
    | with_reducible refine within_keepPage (hS.mono (by decide)) ?_ ?_
    | with_reducible refine within_putPage (hS.mono (by decide)) ?_
    | with_reducible refine within_readMem (hS.mono (by decide)) ?_
    | with_reducible refine Within.ite ?_ ?_
    | split
    | dsimp only

theorem within_measureImage {S : List StatePart} {s0 : State} {x : InstallRun} {status : Nat} {s : State}
    (hS : Covers S [.host, .measure, .ev, .fw, .hostMem])
    (hw : Within S s0 s) : Within S s0 (measureImage x status s) := by
  unfold measureImage
  repeat' first
    | with_reducible assumption
    | intro _
    | with_reducible refine within_measure (hS.mono (by decide)) ?_
    | split
    | dsimp only

theorem within_endInstall {S : List StatePart} {s0 : State} {x : InstallRun} {s : State}
    (hS : Covers S [.host, .inProgress, .mgmt, .measure, .ev, .fw, .installs, .hostMem])
    (hw : Within S s0 s) : Within S s0 (endInstall x s) := by
  unfold endInstall
  repeat' first
    | with_reducible assumption
    | (intro m; cases m; constructor <;> first | with_reducible assumption)
    | (intro (p : StatePart); cases p <;> first | exact Or.inl (hS.part (by decide)) | with_reducible exact Or.inr rfl | with_reducible exact Or.inr ⟨rfl, rfl⟩ | with_reducible exact Or.inr (Nat.le_refl _))
    | intro _
    | with_reducible refine within_complete (hS.mono (by decide)) ?_
    | with_reducible refine within_measureImage (hS.mono (by decide)) ?_
    | with_reducible refine Within.ite ?_ ?_
    | split
    | dsimp only
    | with_reducible refine Within.upd rfl ?_ ?_ ?_

theorem within_dropHostImages {S : List StatePart} {s0 : State} {status : Nat} {s : State}
    (hS : Covers S [.host, .measure, .ev, .fw, .installs, .hostMem])
    (hw : Within S s0 s) : Within S s0 (dropHostImages status s) := by
  unfold dropHostImages
  repeat' first
    | with_reducible assumption
    | (intro m; cases m; constructor <;> first | with_reducible assumption | (refine keysRise_filter _ _ ?_; with_reducible assumption))
    | (intro (p : StatePart); cases p <;> first | exact Or.inl (hS.part (by decide)) | with_reducible exact Or.inr rfl | with_reducible exact Or.inr ⟨rfl, rfl⟩ | with_reducible exact Or.inr (Nat.le_refl _))
    | intro _
    | with_reducible refine within_measureImage (hS.mono (by decide)) ?_
    | with_reducible refine Within.foldl _ _ (fun s a h => ?_) ?_
    | with_reducible refine Within.foldl_fourth _ _ (fun r a h => ?_) ?_
    | with_reducible refine Within.foldl_third _ _ (fun r a h => ?_) ?_
    | with_reducible refine Within.foldl_snd _ _ (fun r a h => ?_) ?_
    | with_reducible refine Within.foldl_fst _ _ (fun r a h => ?_) ?_
    | split
    | dsimp only
    | with_reducible refine Within.upd rfl ?_ ?_ ?_

theorem within_clearMarker {S : List StatePart} {s0 : State} {w : Nat} {s : State}
    (hS : Covers S [.bootStore])
    (hw : Within S s0 s) : Within S s0 (clearMarker w s) := by
  unfold clearMarker
  repeat' first
    | with_reducible assumption
    | intro _
    | with_reducible refine within_modStore (hS.mono (by decide)) ?_
    | split
    | dsimp only

theorem within_installPage {S : List StatePart} {s0 : State} {w : Nat} {x : InstallRun} {e : ImageEntry} {s : State}
    (hS : Covers S [.freeCtr, .host, .ev, .fw, .err, .installs, .hbms, .bufs, .cores, .hostMem, .bootLog, .bootStore, .bootStoreMem])
    (hw : Within S s0 s) : Within S s0 (installPage w x e s).2 := by
  unfold installPage
  repeat' first
    | with_reducible assumption
    | (intro m; cases m; constructor <;> first | with_reducible assumption)
    | (intro (p : StatePart); cases p <;> first | exact Or.inl (hS.part (by decide)) | with_reducible exact Or.inr rfl | with_reducible exact Or.inr ⟨rfl, rfl⟩ | with_reducible exact Or.inr (Nat.le_refl _))
    | intro _
    | with_reducible refine within_clearMarker (hS.mono (by decide)) ?_
    | with_reducible refine within_modStore (hS.mono (by decide)) ?_
    | with_reducible refine within_writePage (hS.mono (by decide)) ?_
    | with_reducible refine Within.ite ?_ ?_
    | split
    | dsimp only
    | with_reducible refine Within.upd rfl ?_ ?_ ?_

theorem within_doWstoreStatus {S : List StatePart} {s0 : State} {c : Cmd} {pay : List Byte} {s : State}
    (hS : Covers S [.host, .inProgress, .mgmt, .hostMem])
    (hw : Within S s0 s) : Within S s0 (doWstoreStatus c pay s) := by
  unfold doWstoreStatus
  repeat' first
    | with_reducible assumption
    | intro _
    | with_reducible refine within_checked (hS.mono (by decide)) ?_ ?_
    | with_reducible refine within_completeWithBuf (hS.mono (by decide)) ?_
    | split
    | dsimp only

theorem within_execWstoreStatus {S : List StatePart} {s0 : State} {c : Cmd} {s : State}
    (hS : Covers S [.now, .host, .inProgress, .mgmt, .hostMem])
    (hw : Within S s0 s) : OutWithin S s0 (execWstoreStatus c s) := by
  unfold execWstoreStatus
  repeat' first
    | with_reducible assumption
    | intro _
    | with_reducible refine within_doWstoreStatus (hS.mono (by decide)) ?_
    | with_reducible refine within_runRow (hS.mono (by decide)) ?_ ?_
    | with_reducible refine OutWithin.next ?_
    | exact OutWithin.fault _ _ _
    | split
    | dsimp only

theorem within_modSlot {S : List StatePart} {s0 : State} {part : Nat} {n : Nat} {f : ModelSlot → ModelSlot} {s : State}
    (hS : Covers S [.parts])
    (hw : Within S s0 s) : Within S s0 (modSlot part n f s) := by
  unfold modSlot
  repeat' first
    | with_reducible assumption
    | intro _
    | with_reducible refine within_modPart (hS.mono (by decide)) ?_
    | split
    | dsimp only

theorem within_settleSlot {S : List StatePart} {s0 : State} {part : Nat} {slot : Nat} {s : State}
    (hS : Covers S [.host, .ev, .parts, .fw, .hostMem])
    (hw : Within S s0 s) : Within S s0 (settleSlot part slot s) := by
  unfold settleSlot
  repeat' first
    | with_reducible assumption
    | intro _
    | with_reducible refine within_modSlot (hS.mono (by decide)) ?_
    | with_reducible refine within_raise1 (hS.mono (by decide)) ?_
    | with_reducible refine Within.foldl _ _ (fun s a h => ?_) ?_
    | with_reducible refine Within.foldl_fourth _ _ (fun r a h => ?_) ?_
    | with_reducible refine Within.foldl_third _ _ (fun r a h => ?_) ?_
    | with_reducible refine Within.foldl_snd _ _ (fun r a h => ?_) ?_
    | with_reducible refine Within.foldl_fst _ _ (fun r a h => ?_) ?_
    | split
    | dsimp only

theorem within_settleSlots {S : List StatePart} {s0 : State} {part : Nat} {s : State}
    (hS : Covers S [.host, .ev, .parts, .fw, .hostMem])
    (hw : Within S s0 s) : Within S s0 (settleSlots part s) := by
  unfold settleSlots
  repeat' first
    | with_reducible assumption
    | intro _
    | with_reducible refine within_settleSlot (hS.mono (by decide)) ?_
    | with_reducible refine Within.foldl _ _ (fun s a h => ?_) ?_
    | with_reducible refine Within.foldl_fourth _ _ (fun r a h => ?_) ?_
    | with_reducible refine Within.foldl_third _ _ (fun r a h => ?_) ?_
    | with_reducible refine Within.foldl_snd _ _ (fun r a h => ?_) ?_
    | with_reducible refine Within.foldl_fst _ _ (fun r a h => ?_) ?_
    | split
    | dsimp only

theorem within_doWsetStage {S : List StatePart} {s0 : State} {c : Cmd} {pay : List Byte} {s : State}
    (hS : Covers S [.host, .inProgress, .mgmt, .parts, .hostMem])
    (hw : Within S s0 s) : Within S s0 (doWsetStage c pay s) := by
  unfold doWsetStage
  repeat' first
    | with_reducible assumption
    | intro _
    | with_reducible refine within_checked (hS.mono (by decide)) ?_ ?_
    | with_reducible refine within_complete (hS.mono (by decide)) ?_
    | with_reducible refine within_failCmd (hS.mono (by decide)) ?_
    | with_reducible refine within_modSlot (hS.mono (by decide)) ?_
    | with_reducible refine Within.ite ?_ ?_
    | split
    | dsimp only

theorem within_execWsetStage {S : List StatePart} {s0 : State} {c : Cmd} {s : State}
    (hS : Covers S [.now, .host, .inProgress, .mgmt, .parts, .hostMem])
    (hw : Within S s0 s) : OutWithin S s0 (execWsetStage c s) := by
  unfold execWsetStage
  repeat' first
    | with_reducible assumption
    | intro _
    | with_reducible refine within_doWsetStage (hS.mono (by decide)) ?_
    | with_reducible refine within_runRow (hS.mono (by decide)) ?_ ?_
    | with_reducible refine OutWithin.next ?_
    | exact OutWithin.fault _ _ _
    | split
    | dsimp only

theorem within_doWsetSwitch {S : List StatePart} {s0 : State} {c : Cmd} {pay : List Byte} {s : State}
    (hS : Covers S [.host, .inProgress, .mgmt, .ev, .parts, .fw, .hostMem])
    (hw : Within S s0 s) : Within S s0 (doWsetSwitch c pay s) := by
  unfold doWsetSwitch
  repeat' first
    | with_reducible assumption
    | intro _
    | with_reducible refine within_checked (hS.mono (by decide)) ?_ ?_
    | with_reducible refine within_complete (hS.mono (by decide)) ?_
    | with_reducible refine within_modSlot (hS.mono (by decide)) ?_
    | with_reducible refine within_settleSlot (hS.mono (by decide)) ?_
    | split
    | dsimp only

theorem within_execWsetSwitch {S : List StatePart} {s0 : State} {c : Cmd} {s : State}
    (hS : Covers S [.now, .host, .inProgress, .mgmt, .ev, .parts, .fw, .hostMem])
    (hw : Within S s0 s) : OutWithin S s0 (execWsetSwitch c s) := by
  unfold execWsetSwitch
  repeat' first
    | with_reducible assumption
    | intro _
    | with_reducible refine within_doWsetSwitch (hS.mono (by decide)) ?_
    | with_reducible refine within_runRow (hS.mono (by decide)) ?_ ?_
    | with_reducible refine OutWithin.next ?_
    | exact OutWithin.fault _ _ _
    | split
    | dsimp only

theorem within_dropStaged {S : List StatePart} {s0 : State} {part : Nat} {slot : Nat} {s : State}
    (hS : Covers S [.host, .ev, .parts, .fw, .hostMem])
    (hw : Within S s0 s) : Within S s0 (dropStaged part slot s) := by
  unfold dropStaged
  repeat' first
    | with_reducible assumption
    | intro _
    | with_reducible refine within_modSlot (hS.mono (by decide)) ?_
    | with_reducible refine within_raise1 (hS.mono (by decide)) ?_
    | split
    | dsimp only

theorem within_doWsetDiscard {S : List StatePart} {s0 : State} {c : Cmd} {pay : List Byte} {s : State}
    (hS : Covers S [.host, .inProgress, .mgmt, .ev, .parts, .fw, .hostMem])
    (hw : Within S s0 s) : Within S s0 (doWsetDiscard c pay s) := by
  unfold doWsetDiscard
  repeat' first
    | with_reducible assumption
    | intro _
    | with_reducible refine within_checked (hS.mono (by decide)) ?_ ?_
    | with_reducible refine within_complete (hS.mono (by decide)) ?_
    | with_reducible refine within_dropStaged (hS.mono (by decide)) ?_
    | with_reducible refine within_modSlot (hS.mono (by decide)) ?_
    | with_reducible refine within_settleSlot (hS.mono (by decide)) ?_
    | with_reducible refine Within.ite ?_ ?_
    | split
    | dsimp only

theorem within_execWsetDiscard {S : List StatePart} {s0 : State} {c : Cmd} {s : State}
    (hS : Covers S [.now, .host, .inProgress, .mgmt, .ev, .parts, .fw, .hostMem])
    (hw : Within S s0 s) : OutWithin S s0 (execWsetDiscard c s) := by
  unfold execWsetDiscard
  repeat' first
    | with_reducible assumption
    | intro _
    | with_reducible refine within_doWsetDiscard (hS.mono (by decide)) ?_
    | with_reducible refine within_runRow (hS.mono (by decide)) ?_ ?_
    | with_reducible refine OutWithin.next ?_
    | exact OutWithin.fault _ _ _
    | split
    | dsimp only

theorem within_execWsetDiscardCurrent {S : List StatePart} {s0 : State} {c : Cmd} {s : State}
    (hS : Covers S [.now, .host, .inProgress, .mgmt, .ev, .parts, .fw, .hostMem])
    (hw : Within S s0 s) : OutWithin S s0 (execWsetDiscardCurrent c s) := by
  unfold execWsetDiscardCurrent
  repeat' first
    | with_reducible assumption
    | intro _
    | with_reducible refine within_doWsetDiscard (hS.mono (by decide)) ?_
    | with_reducible refine within_runRow (hS.mono (by decide)) ?_ ?_
    | with_reducible refine OutWithin.next ?_
    | exact OutWithin.fault _ _ _
    | split
    | dsimp only

theorem within_doWsetBatchOpen {S : List StatePart} {s0 : State} {c : Cmd} {pay : List Byte} {s : State}
    (hS : Covers S [.host, .inProgress, .mgmt, .parts, .hostMem])
    (hw : Within S s0 s) : Within S s0 (doWsetBatchOpen c pay s) := by
  unfold doWsetBatchOpen
  repeat' first
    | with_reducible assumption
    | intro _
    | with_reducible refine within_checked (hS.mono (by decide)) ?_ ?_
    | with_reducible refine within_completeWithBuf (hS.mono (by decide)) ?_
    | with_reducible refine within_modPart (hS.mono (by decide)) ?_
    | split
    | dsimp only

theorem within_execWsetBatchOpen {S : List StatePart} {s0 : State} {c : Cmd} {s : State}
    (hS : Covers S [.now, .host, .inProgress, .mgmt, .parts, .hostMem])
    (hw : Within S s0 s) : OutWithin S s0 (execWsetBatchOpen c s) := by
  unfold execWsetBatchOpen
  repeat' first
    | with_reducible assumption
    | intro _
    | with_reducible refine within_doWsetBatchOpen (hS.mono (by decide)) ?_
    | with_reducible refine within_runRow (hS.mono (by decide)) ?_ ?_
    | with_reducible refine OutWithin.next ?_
    | exact OutWithin.fault _ _ _
    | split
    | dsimp only

theorem within_doWsetBatchClose {S : List StatePart} {s0 : State} {c : Cmd} {pay : List Byte} {s : State}
    (hS : Covers S [.host, .inProgress, .mgmt, .ev, .parts, .fw, .hostMem])
    (hw : Within S s0 s) : Within S s0 (doWsetBatchClose c pay s) := by
  unfold doWsetBatchClose
  repeat' first
    | with_reducible assumption
    | intro _
    | with_reducible refine within_checked (hS.mono (by decide)) ?_ ?_
    | with_reducible refine within_complete (hS.mono (by decide)) ?_
    | with_reducible refine within_modPart (hS.mono (by decide)) ?_
    | with_reducible refine within_settleSlots (hS.mono (by decide)) ?_
    | split
    | dsimp only

theorem within_execWsetBatchClose {S : List StatePart} {s0 : State} {c : Cmd} {s : State}
    (hS : Covers S [.now, .host, .inProgress, .mgmt, .ev, .parts, .fw, .hostMem])
    (hw : Within S s0 s) : OutWithin S s0 (execWsetBatchClose c s) := by
  unfold execWsetBatchClose
  repeat' first
    | with_reducible assumption
    | intro _
    | with_reducible refine within_doWsetBatchClose (hS.mono (by decide)) ?_
    | with_reducible refine within_runRow (hS.mono (by decide)) ?_ ?_
    | with_reducible refine OutWithin.next ?_
    | exact OutWithin.fault _ _ _
    | split
    | dsimp only

theorem within_doWsetGet {S : List StatePart} {s0 : State} {c : Cmd} {pay : List Byte} {s : State}
    (hS : Covers S [.host, .inProgress, .mgmt, .hostMem])
    (hw : Within S s0 s) : Within S s0 (doWsetGet c pay s) := by
  unfold doWsetGet
  repeat' first
    | with_reducible assumption
    | intro _
    | with_reducible refine within_checked (hS.mono (by decide)) ?_ ?_
    | with_reducible refine within_completeWithBuf (hS.mono (by decide)) ?_
    | split
    | dsimp only

theorem within_execWsetGet {S : List StatePart} {s0 : State} {c : Cmd} {s : State}
    (hS : Covers S [.now, .host, .inProgress, .mgmt, .hostMem])
    (hw : Within S s0 s) : OutWithin S s0 (execWsetGet c s) := by
  unfold execWsetGet
  repeat' first
    | with_reducible assumption
    | intro _
    | with_reducible refine within_doWsetGet (hS.mono (by decide)) ?_
    | with_reducible refine within_runRow (hS.mono (by decide)) ?_ ?_
    | with_reducible refine OutWithin.next ?_
    | exact OutWithin.fault _ _ _
    | split
    | dsimp only

end Sys2Proof.Laws
end

