-- ==== Sys2Proof/Laws/FramePurlins.lean ====
section
/-! SUPPORT. What each operation of Machine/Purlins.lean may change. -/

set_option linter.unusedTactic false
set_option linter.unreachableTactic false
set_option linter.unusedVariables false
set_option linter.unusedSimpArgs false

namespace Sys2Proof.Laws

open Machine

theorem within_modPurlin {S : List StatePart} {s0 : State} {part : Nat} {n : Nat} {f : Purlin → Purlin} {s : State}
    (hS : Covers S [.parts])
    (hw : Within S s0 s) : Within S s0 (modPurlin part n f s) := by
  unfold modPurlin
  repeat' first
    | with_reducible assumption
    | intro _
    | with_reducible refine within_modPart (hS.mono (by decide)) ?_
    | split
    | dsimp only

theorem within_sendSegment {S : List StatePart} {s0 : State} {part : Nat} {u : Purlin} {g : Segment} {s : State}
    (hS : Covers S [.links])
    (hw : Within S s0 s) : Within S s0 (sendSegment part u g s) := by
  unfold sendSegment
  repeat' first
    | with_reducible assumption
    | intro _
    | with_reducible refine within_sendOnLink (hS.mono (by decide)) ?_
    | split
    | dsimp only

theorem within_dropInstall {S : List StatePart} {s0 : State} {part : Nat} {n : Nat} {s : State}
    (hS : Covers S [.host, .measure, .ev, .fw, .installs, .hostMem])
    (hw : Within S s0 s) : Within S s0 (dropInstall part n s) := by
  unfold dropInstall
  repeat' first
    | with_reducible assumption
    | (intro m; cases m; constructor <;> first | with_reducible assumption | (refine keysRise_filter _ _ ?_; with_reducible assumption))
    | (intro (p : StatePart); cases p <;> first | exact Or.inl (hS.part (by decide)) | with_reducible exact Or.inr rfl | with_reducible exact Or.inr ⟨rfl, rfl⟩ | with_reducible exact Or.inr (Nat.le_refl _))
    | intro _
    | with_reducible refine within_measureImage (hS.mono (by decide)) ?_
    | with_reducible refine Within.foldl _ _ (fun s a h => ?_) ?_
    | with_reducible refine Within.foldl_fourth _ _ (fun r a h => ?_) ?_
    | with_reducible refine Within.foldl_third _ _ (fun r a h => ?_) ?_
    | with_reducible refine Within.foldl_snd _ _ (fun r a h => ?_) ?_
    | with_reducible refine Within.foldl_fst _ _ (fun r a h => ?_) ?_
    | split
    | dsimp only
    | with_reducible refine Within.upd rfl ?_ ?_ ?_

theorem within_endPurlinCmd {S : List StatePart} {s0 : State} {u : Purlin} {status : Nat} {s : State}
    (hS : Covers S [.host, .inProgress, .mgmt, .hostMem])
    (hw : Within S s0 s) : Within S s0 (endPurlinCmd u status s) := by
  unfold endPurlinCmd
  repeat' first
    | with_reducible assumption
    | intro _
    | with_reducible refine within_complete (hS.mono (by decide)) ?_
    | split
    | dsimp only

theorem within_purlinStop {S : List StatePart} {s0 : State} {part : Nat} {n : Nat} {seq : Nat} {s : State}
    (hS : Covers S [.host, .inProgress, .mgmt, .measure, .ev, .parts, .fw, .installs, .links, .hostMem])
    (hw : Within S s0 s) : Within S s0 (purlinStop part n seq s) := by
  unfold purlinStop
  repeat' first
    | with_reducible assumption
    | intro _
    | with_reducible refine within_dropInstall (hS.mono (by decide)) ?_
    | with_reducible refine within_endPurlinCmd (hS.mono (by decide)) ?_
    | with_reducible refine within_modPurlin (hS.mono (by decide)) ?_
    | with_reducible refine within_raise1 (hS.mono (by decide)) ?_
    | with_reducible refine within_sendSegment (hS.mono (by decide)) ?_
    | with_reducible refine Within.ite ?_ ?_
    | split
    | dsimp only

theorem within_purlinDone {S : List StatePart} {s0 : State} {part : Nat} {n : Nat} {s : State}
    (hS : Covers S [.host, .inProgress, .mgmt, .ev, .parts, .fw, .hostMem])
    (hw : Within S s0 s) : Within S s0 (purlinDone part n s) := by
  unfold purlinDone
  repeat' first
    | with_reducible assumption
    | intro _
    | with_reducible refine within_endPurlinCmd (hS.mono (by decide)) ?_
    | with_reducible refine within_modPurlin (hS.mono (by decide)) ?_
    | with_reducible refine within_raise1 (hS.mono (by decide)) ?_
    | split
    | dsimp only

theorem within_purlinsOnLink {S : List StatePart} {s0 : State} {l : Nat} {s : State}
    (hS : Covers S [.host, .inProgress, .mgmt, .measure, .ev, .parts, .fw, .installs, .links, .hostMem])
    (hw : Within S s0 s) : Within S s0 (purlinsOnLink l s) := by
  unfold purlinsOnLink
  repeat' first
    | with_reducible assumption
    | intro _
    | with_reducible refine within_purlinStop (hS.mono (by decide)) ?_
    | with_reducible refine Within.foldl _ _ (fun s a h => ?_) ?_
    | with_reducible refine Within.foldl_fourth _ _ (fun r a h => ?_) ?_
    | with_reducible refine Within.foldl_third _ _ (fun r a h => ?_) ?_
    | with_reducible refine Within.foldl_snd _ _ (fun r a h => ?_) ?_
    | with_reducible refine Within.foldl_fst _ _ (fun r a h => ?_) ?_
    | with_reducible refine Within.ite ?_ ?_
    | split
    | dsimp only

theorem within_writeSegment {S : List StatePart} {s0 : State} {part : Nat} {n : Nat} {g : Segment} {s : State}
    (hS : Covers S [.freeCtr, .host, .ev, .parts, .fw, .err, .installs, .fab, .hbms, .bufs, .engines, .links, .mem, .cores, .hostMem, .bootLog, .bootStore, .bootStoreMem])
    (hw : Within S s0 s) : OptPairWithin S s0 (writeSegment part n g s) := by
  unfold writeSegment
  repeat' first
    | with_reducible assumption
    | (intro m; cases m; constructor <;> first | with_reducible assumption)
    | (intro (p : StatePart); cases p <;> first | exact Or.inl (hS.part (by decide)) | with_reducible exact Or.inr rfl | with_reducible exact Or.inr ⟨rfl, rfl⟩ | with_reducible exact Or.inr (Nat.le_refl _))
    | intro _
    | with_reducible refine within_modPurlin (hS.mono (by decide)) ?_
    | with_reducible refine within_writeNow (hS.mono (by decide)) ?_
    | with_reducible refine OptPairWithin.some ?_
    | with_reducible exact OptPairWithin.none _ _
    | with_reducible refine OptPairWithin.ite ?_ ?_
    | with_reducible refine Within.ite ?_ ?_
    | split
    | dsimp only
    | with_reducible refine Within.upd rfl ?_ ?_ ?_

theorem within_afterSegment {S : List StatePart} {s0 : State} {part : Nat} {n : Nat} {g : Segment} {s : State}
    (hS : Covers S [.host, .inProgress, .mgmt, .ev, .parts, .fw, .hostMem])
    (hw : Within S s0 s) : Within S s0 (afterSegment part n g s) := by
  unfold afterSegment
  repeat' first
    | with_reducible assumption
    | intro _
    | with_reducible refine within_purlinDone (hS.mono (by decide)) ?_
    | with_reducible refine Within.ite ?_ ?_
    | split
    | dsimp only

theorem within_takeSegment {S : List StatePart} {s0 : State} {part : Nat} {g : Segment} {s : State}
    (hS : Covers S [.freeCtr, .host, .inProgress, .mgmt, .measure, .ev, .parts, .fw, .err, .installs, .fab, .hbms, .bufs, .engines, .links, .mem, .cores, .hostMem, .bootLog, .bootStore, .bootStoreMem])
    (hw : Within S s0 s) : OptWithin S s0 (takeSegment part g s) := by
  unfold takeSegment
  repeat' first
    | with_reducible assumption
    | intro _
    | with_reducible refine within_afterSegment (hS.mono (by decide)) ?_
    | with_reducible refine within_modPart (hS.mono (by decide)) ?_
    | with_reducible refine within_modPurlin (hS.mono (by decide)) ?_
    | with_reducible refine within_purlinStop (hS.mono (by decide)) ?_
    | with_reducible refine within_sendSegment (hS.mono (by decide)) ?_
    | with_reducible refine OptPairWithin.map (within_writeSegment (hS.mono (by decide)) ?_) (fun r h => ?_)
    | with_reducible refine (within_writeSegment (hS.mono (by decide)) ?_).get (by with_reducible assumption)
    | with_reducible refine within_writeSegment (hS.mono (by decide)) ?_
    | with_reducible refine OptWithin.some ?_
    | with_reducible exact OptWithin.none _ _
    | with_reducible refine OptWithin.ite ?_ ?_
    | with_reducible refine Within.ite ?_ ?_
    | split
    | dsimp only

theorem within_execSegmentReceive {S : List StatePart} {s0 : State} {part : Fin 8} {seg : Segment} {time : Nat} {s : State}
    (hS : Covers S [.freeCtr, .now, .host, .inProgress, .mgmt, .measure, .ev, .parts, .fw, .err, .installs, .fab, .hbms, .bufs, .engines, .links, .mem, .cores, .hostMem, .bootLog, .bootStore, .bootStoreMem])
    (hw : Within S s0 s) : OutWithin S s0 (execSegmentReceive part seg time s) := by
  unfold execSegmentReceive
  repeat' first
    | with_reducible assumption
    | intro _
    | with_reducible refine within_atTime (hS.mono (by decide)) ?_
    | with_reducible refine OptWithin.getD (within_takeSegment (hS.mono (by decide)) ?_) ?_
    | with_reducible refine (within_takeSegment (hS.mono (by decide)) ?_).get (by with_reducible assumption)
    | with_reducible refine within_takeSegment (hS.mono (by decide)) ?_
    | with_reducible refine OutWithin.next ?_
    | exact OutWithin.fault _ _ _
    | split
    | dsimp only

theorem within_doPurlinSet {S : List StatePart} {s0 : State} {c : Cmd} {pay : List Byte} {s : State}
    (hS : Covers S [.host, .inProgress, .mgmt, .measure, .ev, .parts, .fw, .installs, .hostMem])
    (hw : Within S s0 s) : Within S s0 (doPurlinSet c pay s) := by
  unfold doPurlinSet
  repeat' first
    | with_reducible assumption
    | intro _
    | with_reducible refine within_checked (hS.mono (by decide)) ?_ ?_
    | with_reducible refine within_complete (hS.mono (by decide)) ?_
    | with_reducible refine within_dropInstall (hS.mono (by decide)) ?_
    | with_reducible refine within_endPurlinCmd (hS.mono (by decide)) ?_
    | with_reducible refine within_modPurlin (hS.mono (by decide)) ?_
    | with_reducible refine Within.ite ?_ ?_
    | split
    | dsimp only

theorem within_execPurlinSet {S : List StatePart} {s0 : State} {c : Cmd} {s : State}
    (hS : Covers S [.now, .host, .inProgress, .mgmt, .measure, .ev, .parts, .fw, .installs, .hostMem])
    (hw : Within S s0 s) : OutWithin S s0 (execPurlinSet c s) := by
  unfold execPurlinSet
  repeat' first
    | with_reducible assumption
    | intro _
    | with_reducible refine within_doPurlinSet (hS.mono (by decide)) ?_
    | with_reducible refine within_runRow (hS.mono (by decide)) ?_ ?_
    | with_reducible refine OutWithin.next ?_
    | exact OutWithin.fault _ _ _
    | split
    | dsimp only

theorem within_readSource {S : List StatePart} {s0 : State} {part : Nat} {host : Bool} {a : Nat} {n : Nat} {s : State}
    (hS : Covers S [.freeCtr, .host, .ev, .fw, .err, .fab, .hbms, .bufs, .engines, .links, .mem, .cores, .hostMem, .bootLog, .bootStore, .bootStoreMem])
    (hw : Within S s0 s) : Within S s0 (readSource part host a n s).2.2.2 := by
  unfold readSource
  repeat' first
    | with_reducible assumption
    | intro _
    | with_reducible refine within_readVia (hS.mono (by decide)) ?_
    | split
    | dsimp only

theorem within_headStep {S : List StatePart} {s0 : State} {part : Nat} {n : Nat} {u : Purlin} {r : PurlinRun} {x : PurlinSrc} {s : State}
    (hS : Covers S [.freeCtr, .host, .inProgress, .mgmt, .measure, .ev, .parts, .fw, .err, .installs, .fab, .hbms, .bufs, .engines, .links, .mem, .cores, .hostMem, .bootLog, .bootStore, .bootStoreMem])
    (hw : Within S s0 s) : OptWithin S s0 (headStep part n u r x s) := by
  unfold headStep
  repeat' first
    | with_reducible assumption
    | intro _
    | with_reducible refine within_purlinStop (hS.mono (by decide)) ?_
    | with_reducible refine within_readSource (hS.mono (by decide)) ?_
    | with_reducible refine within_sendSegment (hS.mono (by decide)) ?_
    | with_reducible refine OptPairWithin.map (within_writeSegment (hS.mono (by decide)) ?_) (fun r h => ?_)
    | with_reducible refine (within_writeSegment (hS.mono (by decide)) ?_).get (by with_reducible assumption)
    | with_reducible refine within_writeSegment (hS.mono (by decide)) ?_
    | with_reducible refine OptWithin.some ?_
    | with_reducible exact OptWithin.none _ _
    | with_reducible refine OptWithin.ite ?_ ?_
    | with_reducible refine Within.ite ?_ ?_
    | split
    | dsimp only

theorem within_pumpSegments {S : List StatePart} {s0 : State} {part : Nat} {n : Nat} {x0 : Nat} {x1 : State}
    (hS : Covers S [.freeCtr, .host, .inProgress, .mgmt, .measure, .ev, .parts, .fw, .err, .installs, .fab, .hbms, .bufs, .engines, .links, .mem, .cores, .hostMem, .bootLog, .bootStore, .bootStoreMem])
    (hw : Within S s0 x1) : Within S s0 (pumpSegments part n x0 x1) := by
  induction x0 generalizing x1 with
  | zero =>
    rw [pumpSegments]
    repeat' first
      | with_reducible assumption
      | intro _
      | with_reducible refine OptWithin.getD (within_headStep (hS.mono (by decide)) ?_) ?_
      | with_reducible refine (within_headStep (hS.mono (by decide)) ?_).get (by with_reducible assumption)
      | with_reducible refine within_headStep (hS.mono (by decide)) ?_
      | with_reducible refine within_purlinDone (hS.mono (by decide)) ?_
      | with_reducible refine Within.ite ?_ ?_
      | split
      | dsimp only
  | succ n ih =>
    rw [pumpSegments]
    repeat' first
      | with_reducible assumption
      | with_reducible refine ih ?_
      | intro _
      | with_reducible refine OptWithin.getD (within_headStep (hS.mono (by decide)) ?_) ?_
      | with_reducible refine (within_headStep (hS.mono (by decide)) ?_).get (by with_reducible assumption)
      | with_reducible refine within_headStep (hS.mono (by decide)) ?_
      | with_reducible refine within_purlinDone (hS.mono (by decide)) ?_
      | with_reducible refine Within.ite ?_ ?_
      | split
      | dsimp only

theorem within_pumpPurlin {S : List StatePart} {s0 : State} {part : Nat} {n : Nat} {s : State}
    (hS : Covers S [.freeCtr, .host, .inProgress, .mgmt, .measure, .ev, .parts, .fw, .err, .installs, .fab, .hbms, .bufs, .engines, .links, .mem, .cores, .hostMem, .bootLog, .bootStore, .bootStoreMem])
    (hw : Within S s0 s) : Within S s0 (pumpPurlin part n s) := by
  unfold pumpPurlin
  repeat' first
    | with_reducible assumption
    | intro _
    | with_reducible refine within_pumpSegments (hS.mono (by decide)) ?_
    | split
    | dsimp only

theorem within_doPurlinSend {S : List StatePart} {s0 : State} {c : Cmd} {pay : List Byte} {s : State}
    (hS : Covers S [.freeCtr, .host, .inProgress, .mgmt, .measure, .ev, .parts, .fw, .err, .installs, .fab, .hbms, .bufs, .engines, .links, .mem, .cores, .hostMem, .bootLog, .bootStore, .bootStoreMem])
    (hw : Within S s0 s) : Within S s0 (doPurlinSend c pay s) := by
  unfold doPurlinSend
  repeat' first
    | with_reducible assumption
    | intro _
    | with_reducible refine within_checked (hS.mono (by decide)) ?_ ?_
    | with_reducible refine within_modPurlin (hS.mono (by decide)) ?_
    | with_reducible refine within_pumpPurlin (hS.mono (by decide)) ?_
    | with_reducible refine Within.ite ?_ ?_
    | split
    | dsimp only

theorem within_execPurlinSend {S : List StatePart} {s0 : State} {c : Cmd} {s : State}
    (hS : Covers S [.freeCtr, .now, .host, .inProgress, .mgmt, .measure, .ev, .parts, .fw, .err, .installs, .fab, .hbms, .bufs, .engines, .links, .mem, .cores, .hostMem, .bootLog, .bootStore, .bootStoreMem])
    (hw : Within S s0 s) : OutWithin S s0 (execPurlinSend c s) := by
  unfold execPurlinSend
  repeat' first
    | with_reducible assumption
    | intro _
    | with_reducible refine within_doPurlinSend (hS.mono (by decide)) ?_
    | with_reducible refine within_runRow (hS.mono (by decide)) ?_ ?_
    | with_reducible refine OutWithin.next ?_
    | exact OutWithin.fault _ _ _
    | split
    | dsimp only

theorem within_finishInstall {S : List StatePart} {s0 : State} {x : InstallRun} {s : State}
    (hS : Covers S [.host, .inProgress, .mgmt, .measure, .ev, .parts, .fw, .installs, .links, .hostMem])
    (hw : Within S s0 s) : Within S s0 (finishInstall x s) := by
  unfold finishInstall
  repeat' first
    | with_reducible assumption
    | intro _
    | with_reducible refine within_endInstall (hS.mono (by decide)) ?_
    | with_reducible refine within_purlinDone (hS.mono (by decide)) ?_
    | with_reducible refine within_purlinStop (hS.mono (by decide)) ?_
    | with_reducible refine Within.ite ?_ ?_
    | split
    | dsimp only

theorem within_execPageWrite {S : List StatePart} {s0 : State} {w : StoreDieId} {time : Nat} {s : State}
    (hS : Covers S [.freeCtr, .now, .host, .inProgress, .mgmt, .measure, .ev, .parts, .fw, .err, .installs, .hbms, .bufs, .links, .cores, .hostMem, .bootLog, .bootStore, .bootStoreMem])
    (hw : Within S s0 s) : OutWithin S s0 (execPageWrite w time s) := by
  unfold execPageWrite
  repeat' first
    | with_reducible assumption
    | intro _
    | with_reducible refine within_atTime (hS.mono (by decide)) ?_
    | with_reducible refine within_finishInstall (hS.mono (by decide)) ?_
    | with_reducible refine within_installPage (hS.mono (by decide)) ?_
    | with_reducible refine OutWithin.next ?_
    | exact OutWithin.fault _ _ _
    | split
    | dsimp only

end Sys2Proof.Laws
end

