-- ==== Sys2Proof/Laws/FrameLinks.lean ====
section
/-! SUPPORT. What each operation of Machine/Links.lean may change. -/

set_option linter.unusedTactic false
set_option linter.unreachableTactic false
set_option linter.unusedVariables false
set_option linter.unusedSimpArgs false

namespace Sys2Proof.Laws

open Machine

theorem within_linkLost {S : List StatePart} {s0 : State} {l : Nat} {s : State}
    (hS : Covers S [.fp, .host, .inProgress, .mgmt, .measure, .ev, .parts, .fw, .installs, .fab, .links, .hostMem, .bootGeneration])
    (hw : Within S s0 s) : Within S s0 (linkLost l s) := by
  unfold linkLost
  repeat' first
    | with_reducible assumption
    | intro _
    | with_reducible refine within_linkDown (hS.mono (by decide)) ?_
    | with_reducible refine within_purlinsOnLink (hS.mono (by decide)) ?_
    | split
    | dsimp only

theorem within_beginTraining {S : List StatePart} {s0 : State} {l : Nat} {test : Nat} {most : Nat} {s : State}
    (hS : Covers S [.links])
    (hw : Within S s0 s) : Within S s0 (beginTraining l test most s) := by
  unfold beginTraining
  repeat' first
    | with_reducible assumption
    | intro _
    | with_reducible refine within_modLink (hS.mono (by decide)) ?_
    | split
    | dsimp only

theorem within_linkReplay {S : List StatePart} {s0 : State} {l : Nat} {inj : Bool} {s : State}
    (hS : Covers S [.host, .ev, .fw, .err, .links, .hostMem, .bootLog])
    (hw : Within S s0 s) : Within S s0 (linkReplay l inj s) := by
  unfold linkReplay
  repeat' first
    | with_reducible assumption
    | intro _
    | with_reducible refine within_logAdd (hS.mono (by decide)) ?_
    | with_reducible refine within_modLink (hS.mono (by decide)) ?_
    | with_reducible refine within_scoreWear (hS.mono (by decide)) ?_
    | split
    | dsimp only

theorem within_countCodeword {S : List StatePart} {s0 : State} {l : Nat} {lane : Nat} {s : State}
    (hS : Covers S [.links])
    (hw : Within S s0 s) : Within S s0 (countCodeword l lane s) := by
  unfold countCodeword
  repeat' first
    | with_reducible assumption
    | intro _
    | with_reducible refine within_modLink (hS.mono (by decide)) ?_
    | with_reducible refine Within.ite ?_ ?_
    | split
    | dsimp only

theorem within_autoRetrain {S : List StatePart} {s0 : State} {l : Nat} {s : State}
    (hS : Covers S [.links])
    (hw : Within S s0 s) : Within S s0 (autoRetrain l s) := by
  unfold autoRetrain
  repeat' first
    | with_reducible assumption
    | intro _
    | with_reducible refine within_beginTraining (hS.mono (by decide)) ?_
    | split
    | dsimp only

theorem within_countFec {S : List StatePart} {s0 : State} {l : Nat} {f : LinkFlit} {s : State}
    (hS : Covers S [.links])
    (hw : Within S s0 s) : Within S s0 (countFec l f s) := by
  unfold countFec
  repeat' first
    | with_reducible assumption
    | intro _
    | with_reducible refine within_countCodeword (hS.mono (by decide)) ?_
    | with_reducible refine within_modLink (hS.mono (by decide)) ?_
    | with_reducible refine Within.foldl _ _ (fun s a h => ?_) ?_
    | with_reducible refine Within.foldl_fourth _ _ (fun r a h => ?_) ?_
    | with_reducible refine Within.foldl_third _ _ (fun r a h => ?_) ?_
    | with_reducible refine Within.foldl_snd _ _ (fun r a h => ?_) ?_
    | with_reducible refine Within.foldl_fst _ _ (fun r a h => ?_) ?_
    | split
    | dsimp only

theorem within_pumpLink {S : List StatePart} {s0 : State} {l : Nat} {s : State}
    (hS : Covers S [.freeCtr, .host, .inProgress, .mgmt, .measure, .ev, .parts, .fw, .err, .installs, .fab, .hbms, .bufs, .engines, .links, .mem, .cores, .hostMem, .bootLog, .bootStore, .bootStoreMem])
    (hw : Within S s0 s) : Within S s0 (pumpLink l s) := by
  unfold pumpLink
  repeat' first
    | with_reducible assumption
    | intro _
    | with_reducible refine within_pumpPurlin (hS.mono (by decide)) ?_
    | with_reducible refine Within.foldl _ _ (fun s a h => ?_) ?_
    | with_reducible refine Within.foldl_fourth _ _ (fun r a h => ?_) ?_
    | with_reducible refine Within.foldl_third _ _ (fun r a h => ?_) ?_
    | with_reducible refine Within.foldl_snd _ _ (fun r a h => ?_) ?_
    | with_reducible refine Within.foldl_fst _ _ (fun r a h => ?_) ?_
    | with_reducible refine Within.ite ?_ ?_
    | split
    | dsimp only

theorem within_acceptLinkFlit {S : List StatePart} {s0 : State} {l : Nat} {f : LinkFlit} {s : State}
    (hS : Covers S [.freeCtr, .host, .inProgress, .mgmt, .measure, .ev, .parts, .fw, .err, .installs, .fab, .hbms, .bufs, .engines, .links, .mem, .cores, .hostMem, .bootLog, .bootStore, .bootStoreMem])
    (hw : Within S s0 s) : Within S s0 (acceptLinkFlit l f s) := by
  unfold acceptLinkFlit
  repeat' first
    | with_reducible assumption
    | intro _
    | with_reducible refine within_flushLink (hS.mono (by decide)) ?_
    | with_reducible refine within_modLink (hS.mono (by decide)) ?_
    | with_reducible refine within_pumpLink (hS.mono (by decide)) ?_
    | with_reducible refine within_resend (hS.mono (by decide)) ?_
    | with_reducible refine within_sendIdle (hS.mono (by decide)) ?_
    | with_reducible refine Within.ite ?_ ?_
    | split
    | dsimp only

theorem within_rejectLinkFlit {S : List StatePart} {s0 : State} {l : Nat} {f : LinkFlit} {inj : Bool} {s : State}
    (hS : Covers S [.host, .ev, .fw, .err, .links, .hostMem, .bootLog])
    (hw : Within S s0 s) : Within S s0 (rejectLinkFlit l f inj s) := by
  unfold rejectLinkFlit
  repeat' first
    | with_reducible assumption
    | intro _
    | with_reducible refine within_askReplay (hS.mono (by decide)) ?_
    | with_reducible refine within_linkReplay (hS.mono (by decide)) ?_
    | with_reducible refine Within.ite ?_ ?_
    | split
    | dsimp only

theorem within_execLinkFlitReceive {S : List StatePart} {s0 : State} {l : LinkId} {f : LinkFlit} {time : Nat} {s : State}
    (hS : Covers S [.freeCtr, .now, .host, .inProgress, .mgmt, .measure, .ev, .parts, .fw, .err, .installs, .fab, .hbms, .bufs, .engines, .links, .mem, .cores, .hostMem, .bootLog, .bootStore, .bootStoreMem])
    (hw : Within S s0 s) : OutWithin S s0 (execLinkFlitReceive l f time s) := by
  unfold execLinkFlitReceive
  repeat' first
    | with_reducible assumption
    | intro _
    | with_reducible refine within_acceptLinkFlit (hS.mono (by decide)) ?_
    | with_reducible refine within_atTime (hS.mono (by decide)) ?_
    | with_reducible refine within_autoRetrain (hS.mono (by decide)) ?_
    | with_reducible refine within_countCodeword (hS.mono (by decide)) ?_
    | with_reducible refine within_countFec (hS.mono (by decide)) ?_
    | with_reducible refine within_examine (hS.mono (by decide)) ?_
    | with_reducible refine within_examineInj (hS.mono (by decide)) ?_
    | with_reducible refine within_rejectLinkFlit (hS.mono (by decide)) ?_
    | with_reducible refine OutWithin.next ?_
    | exact OutWithin.fault _ _ _
    | with_reducible refine OutWithin.ite ?_ ?_
    | with_reducible refine Within.ite ?_ ?_
    | split
    | dsimp only

theorem within_endLinkCtrl {S : List StatePart} {s0 : State} {l : Nat} {s : State}
    (hS : Covers S [.host, .inProgress, .mgmt, .links, .hostMem])
    (hw : Within S s0 s) : Within S s0 (endLinkCtrl l s) := by
  unfold endLinkCtrl
  repeat' first
    | with_reducible assumption
    | intro _
    | with_reducible refine within_complete (hS.mono (by decide)) ?_
    | with_reducible refine within_modLink (hS.mono (by decide)) ?_
    | split
    | dsimp only

theorem within_countRetrain {S : List StatePart} {s0 : State} {l : Nat} {s : State}
    (hS : Covers S [.host, .ev, .fw, .err, .links, .hostMem, .bootLog])
    (hw : Within S s0 s) : Within S s0 (countRetrain l s) := by
  unfold countRetrain
  repeat' first
    | with_reducible assumption
    | intro _
    | with_reducible refine within_addWear (hS.mono (by decide)) ?_
    | with_reducible refine within_logAdd (hS.mono (by decide)) ?_
    | with_reducible refine within_modLink (hS.mono (by decide)) ?_
    | with_reducible refine Within.ite ?_ ?_
    | split
    | dsimp only

theorem within_trainingEvents {S : List StatePart} {s0 : State} {l : Nat} {old : Link} {new : Link} {s : State}
    (hS : Covers S [.host, .ev, .fw, .hostMem])
    (hw : Within S s0 s) : Within S s0 (trainingEvents l old new s) := by
  unfold trainingEvents
  repeat' first
    | with_reducible assumption
    | intro _
    | with_reducible refine within_raise1 (hS.mono (by decide)) ?_
    | with_reducible refine Within.ite ?_ ?_
    | split
    | dsimp only

theorem within_trainedOk {S : List StatePart} {s0 : State} {l : Nat} {pass : Nat} {r : TrainResult} {s : State}
    (hS : Covers S [.freeCtr, .fp, .host, .inProgress, .mgmt, .measure, .ev, .parts, .fw, .err, .installs, .fab, .hbms, .bufs, .engines, .links, .mem, .cores, .hostMem, .bootGeneration, .bootLog, .bootStore, .bootStoreMem])
    (hw : Within S s0 s) : Within S s0 (trainedOk l pass r s) := by
  unfold trainedOk
  repeat' first
    | with_reducible assumption
    | intro _
    | with_reducible refine within_countRetrain (hS.mono (by decide)) ?_
    | with_reducible refine within_endLinkCtrl (hS.mono (by decide)) ?_
    | with_reducible refine within_flushLink (hS.mono (by decide)) ?_
    | with_reducible refine within_modLink (hS.mono (by decide)) ?_
    | with_reducible refine within_pumpLink (hS.mono (by decide)) ?_
    | with_reducible refine within_recordLanes (hS.mono (by decide)) ?_
    | with_reducible refine within_resend (hS.mono (by decide)) ?_
    | with_reducible refine within_trainingEvents (hS.mono (by decide)) ?_
    | with_reducible refine Within.ite ?_ ?_
    | split
    | dsimp only

theorem within_execLinkTraining {S : List StatePart} {s0 : State} {l : LinkId} {r : TrainResult} {time : Nat} {s : State}
    (hS : Covers S [.freeCtr, .now, .fp, .host, .inProgress, .mgmt, .measure, .ev, .parts, .fw, .err, .installs, .fab, .hbms, .bufs, .engines, .links, .mem, .cores, .hostMem, .bootGeneration, .bootLog, .bootStore, .bootStoreMem])
    (hw : Within S s0 s) : OutWithin S s0 (execLinkTraining l r time s) := by
  unfold execLinkTraining
  repeat' first
    | with_reducible assumption
    | intro _
    | with_reducible refine within_atTime (hS.mono (by decide)) ?_
    | with_reducible refine within_countRetrain (hS.mono (by decide)) ?_
    | with_reducible refine within_linkLost (hS.mono (by decide)) ?_
    | with_reducible refine within_modLink (hS.mono (by decide)) ?_
    | with_reducible refine within_trainedOk (hS.mono (by decide)) ?_
    | with_reducible refine OutWithin.next ?_
    | exact OutWithin.fault _ _ _
    | with_reducible refine OutWithin.ite ?_ ?_
    | with_reducible refine Within.ite ?_ ?_
    | split
    | dsimp only

theorem within_execLinkRetrain {S : List StatePart} {s0 : State} {l : LinkId} {cause : RetrainCause} {time : Nat} {s : State}
    (hS : Covers S [.now, .links])
    (hw : Within S s0 s) : OutWithin S s0 (execLinkRetrain l cause time s) := by
  unfold execLinkRetrain
  repeat' first
    | with_reducible assumption
    | intro _
    | with_reducible refine within_atTime (hS.mono (by decide)) ?_
    | with_reducible refine within_autoRetrain (hS.mono (by decide)) ?_
    | with_reducible refine OutWithin.next ?_
    | exact OutWithin.fault _ _ _
    | with_reducible refine OutWithin.ite ?_ ?_
    | with_reducible refine Within.ite ?_ ?_
    | split
    | dsimp only

theorem within_execLinkBufferSample {S : List StatePart} {s0 : State} {l : LinkId} {fill : Nat} {time : Nat} {s : State}
    (hS : Covers S [.now, .links])
    (hw : Within S s0 s) : OutWithin S s0 (execLinkBufferSample l fill time s) := by
  unfold execLinkBufferSample
  repeat' first
    | with_reducible assumption
    | intro _
    | with_reducible refine within_atTime (hS.mono (by decide)) ?_
    | with_reducible refine within_modLink (hS.mono (by decide)) ?_
    | with_reducible refine OutWithin.next ?_
    | exact OutWithin.fault _ _ _
    | with_reducible refine OutWithin.ite ?_ ?_
    | with_reducible refine Within.ite ?_ ?_
    | split
    | dsimp only

theorem within_answerAwait {S : List StatePart} {s0 : State} {l : Nat} {tag : Nat} {status : Nat} {s : State}
    (hS : Covers S [.fab, .links])
    (hw : Within S s0 s) : Within S s0 (answerAwait l tag status s) := by
  unfold answerAwait
  repeat' first
    | with_reducible assumption
    | intro _
    | with_reducible refine within_answer (hS.mono (by decide)) ?_
    | with_reducible refine within_modLink (hS.mono (by decide)) ?_
    | split
    | dsimp only

theorem within_ackAwait {S : List StatePart} {s0 : State} {l : Nat} {tag : Nat} {status : Nat} {s : State}
    (hS : Covers S [.fab, .links])
    (hw : Within S s0 s) : Within S s0 (ackAwait l tag status s) := by
  unfold ackAwait
  repeat' first
    | with_reducible assumption
    | (intro m; cases m; constructor <;> first | with_reducible assumption)
    | (intro (p : StatePart); cases p <;> first | exact Or.inl (hS.part (by decide)) | with_reducible exact Or.inr rfl | with_reducible exact Or.inr ⟨rfl, rfl⟩ | with_reducible exact Or.inr (Nat.le_refl _))
    | intro _
    | with_reducible refine within_modLink (hS.mono (by decide)) ?_
    | split
    | dsimp only
    | with_reducible refine Within.upd rfl ?_ ?_ ?_

theorem within_takeAckPacket {S : List StatePart} {s0 : State} {l : Nat} {q : LinkPacket} {s : State}
    (hS : Covers S [.fab, .links])
    (hw : Within S s0 s) : Within S s0 (takeAckPacket l q s) := by
  unfold takeAckPacket
  repeat' first
    | with_reducible assumption
    | intro _
    | with_reducible refine within_ackAwait (hS.mono (by decide)) ?_
    | split
    | dsimp only

theorem within_packetTaken {S : List StatePart} {s0 : State} {l : Nat} {q : LinkPacket} {s : State}
    (hS : Covers S [.links])
    (hw : Within S s0 s) : Within S s0 (packetTaken l q s) := by
  unfold packetTaken
  repeat' first
    | with_reducible assumption
    | intro _
    | with_reducible refine within_modLink (hS.mono (by decide)) ?_
    | with_reducible refine within_sendIdle (hS.mono (by decide)) ?_
    | with_reducible refine Within.ite ?_ ?_
    | split
    | dsimp only

theorem within_execLinkAckArrival {S : List StatePart} {s0 : State} {l : LinkId} {q : LinkPacket} {time : Nat} {s : State}
    (hS : Covers S [.now, .fab, .links])
    (hw : Within S s0 s) : OutWithin S s0 (execLinkAckArrival l q time s) := by
  unfold execLinkAckArrival
  repeat' first
    | with_reducible assumption
    | intro _
    | with_reducible refine within_atTime (hS.mono (by decide)) ?_
    | with_reducible refine within_packetTaken (hS.mono (by decide)) ?_
    | with_reducible refine within_takeAckPacket (hS.mono (by decide)) ?_
    | with_reducible refine OutWithin.next ?_
    | exact OutWithin.fault _ _ _
    | with_reducible refine OutWithin.ite ?_ ?_
    | with_reducible refine Within.ite ?_ ?_
    | split
    | dsimp only

theorem within_execLinkAckExpired {S : List StatePart} {s0 : State} {l : LinkId} {tag : BitVec 32} {time : Nat} {s : State}
    (hS : Covers S [.now, .fab, .links])
    (hw : Within S s0 s) : OutWithin S s0 (execLinkAckExpired l tag time s) := by
  unfold execLinkAckExpired
  repeat' first
    | with_reducible assumption
    | intro _
    | with_reducible refine within_answerAwait (hS.mono (by decide)) ?_
    | with_reducible refine within_atTime (hS.mono (by decide)) ?_
    | with_reducible refine OutWithin.next ?_
    | exact OutWithin.fault _ _ _
    | with_reducible refine OutWithin.ite ?_ ?_
    | with_reducible refine Within.ite ?_ ?_
    | split
    | dsimp only

theorem within_crossFabric {S : List StatePart} {s0 : State} {l : Nat} {dest : Nat} {use : LinkUse} {c : Cargo} {q : LinkPacket} {s : State}
    (hS : Covers S [.fab, .links])
    (hw : Within S s0 s) : OptWithin S s0 (crossFabric l dest use c q s) := by
  unfold crossFabric
  repeat' first
    | with_reducible assumption
    | intro _
    | with_reducible refine within_modLink (hS.mono (by decide)) ?_
    | with_reducible refine within_sendRequest (hS.mono (by decide)) ?_
    | with_reducible refine OptWithin.some ?_
    | with_reducible exact OptWithin.none _ _
    | with_reducible refine OptWithin.ite ?_ ?_
    | with_reducible refine OptWithin.mapOf (fun a => ?_)
    | split
    | dsimp only

theorem within_forwardPacket {S : List StatePart} {s0 : State} {l : Nat} {q : LinkPacket} {s : State}
    (hS : Covers S [.fab, .links])
    (hw : Within S s0 s) : OptWithin S s0 (forwardPacket l q s) := by
  unfold forwardPacket
  repeat' first
    | with_reducible assumption
    | intro _
    | with_reducible refine OptWithin.getD (within_crossFabric (hS.mono (by decide)) ?_) ?_
    | with_reducible refine (within_crossFabric (hS.mono (by decide)) ?_).get (by with_reducible assumption)
    | with_reducible refine within_crossFabric (hS.mono (by decide)) ?_
    | with_reducible refine within_dropOnLink (hS.mono (by decide)) ?_
    | with_reducible refine OptWithin.some ?_
    | with_reducible exact OptWithin.none _ _
    | with_reducible refine OptWithin.ite ?_ ?_
    | with_reducible refine Within.ite ?_ ?_
    | split
    | dsimp only

theorem within_writeFromLink {S : List StatePart} {s0 : State} {l : Nat} {q : LinkPacket} {s : State}
    (hS : Covers S [.fab, .links])
    (hw : Within S s0 s) : OptWithin S s0 (writeFromLink l q s) := by
  unfold writeFromLink
  repeat' first
    | with_reducible assumption
    | intro _
    | with_reducible refine within_modLink (hS.mono (by decide)) ?_
    | with_reducible refine within_sendRequest (hS.mono (by decide)) ?_
    | with_reducible refine OptWithin.some ?_
    | with_reducible exact OptWithin.none _ _
    | with_reducible refine OptWithin.ite ?_ ?_
    | with_reducible refine OptWithin.mapOf (fun a => ?_)
    | split
    | dsimp only

theorem within_writeToHome {S : List StatePart} {s0 : State} {l : Nat} {q : LinkPacket} {s : State}
    (hS : Covers S [.fab, .links])
    (hw : Within S s0 s) : OptWithin S s0 (writeToHome l q s) := by
  unfold writeToHome
  repeat' first
    | with_reducible assumption
    | intro _
    | with_reducible refine within_ackLink (hS.mono (by decide)) ?_
    | with_reducible refine OptWithin.getD (within_crossFabric (hS.mono (by decide)) ?_) ?_
    | with_reducible refine (within_crossFabric (hS.mono (by decide)) ?_).get (by with_reducible assumption)
    | with_reducible refine within_crossFabric (hS.mono (by decide)) ?_
    | with_reducible refine OptWithin.some ?_
    | with_reducible exact OptWithin.none _ _
    | with_reducible refine OptWithin.ite ?_ ?_
    | with_reducible refine Within.ite ?_ ?_
    | split
    | dsimp only

theorem within_deliverPacket {S : List StatePart} {s0 : State} {l : Nat} {q : LinkPacket} {s : State}
    (hS : Covers S [.freeCtr, .host, .inProgress, .mgmt, .measure, .ev, .parts, .fw, .err, .installs, .fab, .hbms, .bufs, .engines, .links, .mem, .cores, .hostMem, .bootLog, .bootStore, .bootStoreMem])
    (hw : Within S s0 s) : OptWithin S s0 (deliverPacket l q s) := by
  unfold deliverPacket
  repeat' first
    | with_reducible assumption
    | intro _
    | with_reducible refine within_ackLink (hS.mono (by decide)) ?_
    | with_reducible refine within_dropOnLink (hS.mono (by decide)) ?_
    | with_reducible refine within_takeAckPacket (hS.mono (by decide)) ?_
    | with_reducible refine OptWithin.getD (within_takeSegment (hS.mono (by decide)) ?_) ?_
    | with_reducible refine (within_takeSegment (hS.mono (by decide)) ?_).get (by with_reducible assumption)
    | with_reducible refine within_takeSegment (hS.mono (by decide)) ?_
    | with_reducible refine OptWithin.getD (within_writeFromLink (hS.mono (by decide)) ?_) ?_
    | with_reducible refine (within_writeFromLink (hS.mono (by decide)) ?_).get (by with_reducible assumption)
    | with_reducible refine within_writeFromLink (hS.mono (by decide)) ?_
    | with_reducible refine OptWithin.getD (within_writeToHome (hS.mono (by decide)) ?_) ?_
    | with_reducible refine (within_writeToHome (hS.mono (by decide)) ?_).get (by with_reducible assumption)
    | with_reducible refine within_writeToHome (hS.mono (by decide)) ?_
    | with_reducible refine OptWithin.some ?_
    | with_reducible exact OptWithin.none _ _
    | with_reducible refine OptWithin.ite ?_ ?_
    | with_reducible refine Within.ite ?_ ?_
    | split
    | dsimp only

theorem within_acceptPacket {S : List StatePart} {s0 : State} {l : Nat} {q : LinkPacket} {s : State}
    (hS : Covers S [.freeCtr, .host, .inProgress, .mgmt, .measure, .ev, .parts, .fw, .err, .installs, .fab, .hbms, .bufs, .engines, .links, .mem, .cores, .hostMem, .bootLog, .bootStore, .bootStoreMem])
    (hw : Within S s0 s) : OptWithin S s0 (acceptPacket l q s) := by
  unfold acceptPacket
  repeat' first
    | with_reducible assumption
    | intro _
    | with_reducible refine OptWithin.getD (within_deliverPacket (hS.mono (by decide)) ?_) ?_
    | with_reducible refine (within_deliverPacket (hS.mono (by decide)) ?_).get (by with_reducible assumption)
    | with_reducible refine within_deliverPacket (hS.mono (by decide)) ?_
    | with_reducible refine OptWithin.getD (within_forwardPacket (hS.mono (by decide)) ?_) ?_
    | with_reducible refine (within_forwardPacket (hS.mono (by decide)) ?_).get (by with_reducible assumption)
    | with_reducible refine within_forwardPacket (hS.mono (by decide)) ?_
    | with_reducible refine OptWithin.some ?_
    | with_reducible exact OptWithin.none _ _
    | with_reducible refine OptWithin.ite ?_ ?_
    | with_reducible refine Within.ite ?_ ?_
    | split
    | dsimp only

theorem within_execLinkPacketArrival {S : List StatePart} {s0 : State} {l : LinkId} {q : LinkPacket} {time : Nat} {s : State}
    (hS : Covers S [.freeCtr, .now, .host, .inProgress, .mgmt, .measure, .ev, .parts, .fw, .err, .installs, .fab, .hbms, .bufs, .engines, .links, .mem, .cores, .hostMem, .bootLog, .bootStore, .bootStoreMem])
    (hw : Within S s0 s) : OutWithin S s0 (execLinkPacketArrival l q time s) := by
  unfold execLinkPacketArrival
  repeat' first
    | with_reducible assumption
    | intro _
    | with_reducible refine OptWithin.getD (within_acceptPacket (hS.mono (by decide)) ?_) ?_
    | with_reducible refine (within_acceptPacket (hS.mono (by decide)) ?_).get (by with_reducible assumption)
    | with_reducible refine within_acceptPacket (hS.mono (by decide)) ?_
    | with_reducible refine within_atTime (hS.mono (by decide)) ?_
    | with_reducible refine within_packetTaken (hS.mono (by decide)) ?_
    | with_reducible refine OutWithin.next ?_
    | exact OutWithin.fault _ _ _
    | with_reducible refine OutWithin.ite ?_ ?_
    | with_reducible refine Within.ite ?_ ?_
    | split
    | dsimp only

theorem within_contribute {S : List StatePart} {s0 : State} {h : Nat} {k : Nat} {q : LinkPacket} {s : State}
    (hS : Covers S [.links, .bays, .cores, .xings])
    (hw : Within S s0 s) : Within S s0 (contribute h k q s).2 := by
  unfold contribute
  repeat' first
    | with_reducible assumption
    | (intro m; cases m; constructor <;> first | with_reducible assumption | (refine keysRise_mapPut _ _ _ ?_; with_reducible assumption) | (refine keysRise_mapDel _ _ ?_; with_reducible assumption))
    | (intro (p : StatePart); cases p <;> first | exact Or.inl (hS.part (by decide)) | with_reducible exact Or.inr rfl | with_reducible exact Or.inr ⟨rfl, rfl⟩ | with_reducible exact Or.inr (Nat.le_refl _))
    | intro _
    | with_reducible refine within_portTag (hS.mono (by decide)) ?_
    | with_reducible refine within_settleHolds (hS.mono (by decide)) ?_
    | with_reducible refine Within.ite ?_ ?_
    | split
    | dsimp only
    | with_reducible refine Within.upd rfl ?_ ?_ ?_

theorem within_readRow {S : List StatePart} {s0 : State} {h : Nat} {k : Nat} {x : HomeRow} {s : State}
    (hS : Covers S [.freeCtr, .host, .ev, .fw, .err, .fab, .hbms, .bufs, .engines, .links, .mem, .cores, .hostMem, .bootLog, .bootStore, .bootStoreMem])
    (hw : Within S s0 s) : Within S s0 (readRow h k x s).2.2.2 := by
  unfold readRow
  repeat' first
    | with_reducible assumption
    | intro _
    | with_reducible refine within_readNow (hS.mono (by decide)) ?_
    | split
    | dsimp only

theorem within_addRow {S : List StatePart} {s0 : State} {h : Nat} {k : Nat} {x : HomeRow} {st : Nat} {old : List Byte} {s : State}
    (hS : Covers S [.freeCtr, .host, .ev, .fw, .err, .hbms, .bufs, .links, .mem, .cores, .hostMem, .bootLog, .bootStore, .bootStoreMem])
    (hw : Within S s0 s) : Within S s0 (addRow h k x st old s) := by
  unfold addRow
  repeat' first
    | with_reducible assumption
    | intro _
    | with_reducible refine within_modLink (hS.mono (by decide)) ?_
    | with_reducible refine within_writeMem (hS.mono (by decide)) ?_
    | with_reducible refine Within.foldl _ _ (fun s a h => ?_) ?_
    | with_reducible refine Within.foldl_fourth _ _ (fun r a h => ?_) ?_
    | with_reducible refine Within.foldl_third _ _ (fun r a h => ?_) ?_
    | with_reducible refine Within.foldl_snd _ _ (fun r a h => ?_) ?_
    | with_reducible refine Within.foldl_fst _ _ (fun r a h => ?_) ?_
    | with_reducible refine Within.ite ?_ ?_
    | split
    | dsimp only

theorem within_endReduction {S : List StatePart} {s0 : State} {h : Nat} {k : Nat} {x : HomeRow} {s : State}
    (hS : Covers S [.links, .bays, .cores, .xings])
    (hw : Within S s0 s) : Within S s0 (endReduction h k x s) := by
  unfold endReduction
  repeat' first
    | with_reducible assumption
    | intro _
    | with_reducible refine within_ackLink (hS.mono (by decide)) ?_
    | with_reducible refine within_contribute (hS.mono (by decide)) ?_
    | with_reducible refine Within.ite ?_ ?_
    | split
    | dsimp only

theorem within_homeGoesOn {S : List StatePart} {s0 : State} {h : Nat} {k : Nat} {y : HomeRow} {rest : List HomeRow} {s : State}
    (hS : Covers S [.links, .bays, .cores, .xings])
    (hw : Within S s0 s) : Within S s0 (homeGoesOn h k y rest s) := by
  unfold homeGoesOn
  repeat' first
    | with_reducible assumption
    | (intro m; cases m; constructor <;> first | with_reducible assumption | (refine keysRise_mapSet _ _ _ _ ?_; with_reducible assumption))
    | (intro (p : StatePart); cases p <;> first | exact Or.inl (hS.part (by decide)) | with_reducible exact Or.inr rfl | with_reducible exact Or.inr ⟨rfl, rfl⟩ | with_reducible exact Or.inr (Nat.le_refl _))
    | intro _
    | with_reducible refine within_endReduction (hS.mono (by decide)) ?_
    | with_reducible refine Within.ite ?_ ?_
    | split
    | dsimp only
    | with_reducible refine Within.upd rfl ?_ ?_ ?_

theorem within_addNextRow {S : List StatePart} {s0 : State} {n : Nat} {k : Nat} {x : HomeRow} {rest : List HomeRow} {s : State}
    (hS : Covers S [.freeCtr, .host, .ev, .fw, .err, .fab, .hbms, .bufs, .engines, .links, .mem, .bays, .cores, .xings, .hostMem, .bootLog, .bootStore, .bootStoreMem])
    (hw : Within S s0 s) : OptWithin S s0 (addNextRow n k x rest s) := by
  unfold addNextRow
  repeat' first
    | with_reducible assumption
    | intro _
    | with_reducible refine within_addRow (hS.mono (by decide)) ?_
    | with_reducible refine within_homeGoesOn (hS.mono (by decide)) ?_
    | with_reducible refine within_readRow (hS.mono (by decide)) ?_
    | with_reducible refine OptWithin.some ?_
    | with_reducible exact OptWithin.none _ _
    | with_reducible refine OptWithin.ite ?_ ?_
    | with_reducible refine Within.ite ?_ ?_
    | split
    | dsimp only

theorem within_execReductionAdd {S : List StatePart} {s0 : State} {h : LinkDieId} {time : Nat} {s : State}
    (hS : Covers S [.freeCtr, .now, .host, .ev, .fw, .err, .fab, .hbms, .bufs, .engines, .links, .mem, .bays, .cores, .xings, .hostMem, .bootLog, .bootStore, .bootStoreMem])
    (hw : Within S s0 s) : OutWithin S s0 (execReductionAdd h time s) := by
  unfold execReductionAdd
  repeat' first
    | with_reducible assumption
    | (intro m; cases m; constructor <;> first | with_reducible assumption | (refine keysRise_mapSet _ _ _ _ ?_; with_reducible assumption))
    | (intro (p : StatePart); cases p <;> first | exact Or.inl (hS.part (by decide)) | with_reducible exact Or.inr rfl | with_reducible exact Or.inr ⟨rfl, rfl⟩ | with_reducible exact Or.inr (Nat.le_refl _))
    | intro _
    | with_reducible refine within_ackLink (hS.mono (by decide)) ?_
    | with_reducible refine OptWithin.getD (within_addNextRow (hS.mono (by decide)) ?_) ?_
    | with_reducible refine (within_addNextRow (hS.mono (by decide)) ?_).get (by with_reducible assumption)
    | with_reducible refine within_addNextRow (hS.mono (by decide)) ?_
    | with_reducible refine within_atTime (hS.mono (by decide)) ?_
    | with_reducible refine within_homeGoesOn (hS.mono (by decide)) ?_
    | with_reducible refine OutWithin.next ?_
    | exact OutWithin.fault _ _ _
    | with_reducible refine OutWithin.ite ?_ ?_
    | with_reducible refine Within.ite ?_ ?_
    | split
    | dsimp only
    | with_reducible refine Within.upd rfl ?_ ?_ ?_

theorem within_doLinkPanelIdSet {S : List StatePart} {s0 : State} {c : Cmd} {pay : List Byte} {s : State}
    (hS : Covers S [.host, .inProgress, .mgmt, .links, .hostMem])
    (hw : Within S s0 s) : Within S s0 (doLinkPanelIdSet c pay s) := by
  unfold doLinkPanelIdSet
  repeat' first
    | with_reducible assumption
    | (intro m; cases m; constructor <;> first | with_reducible assumption)
    | (intro (p : StatePart); cases p <;> first | exact Or.inl (hS.part (by decide)) | with_reducible exact Or.inr rfl | with_reducible exact Or.inr ⟨rfl, rfl⟩ | with_reducible exact Or.inr (Nat.le_refl _))
    | intro _
    | with_reducible refine within_checked (hS.mono (by decide)) ?_ ?_
    | with_reducible refine within_complete (hS.mono (by decide)) ?_
    | with_reducible refine within_flushLink (hS.mono (by decide)) ?_
    | with_reducible refine Within.foldl _ _ (fun s a h => ?_) ?_
    | with_reducible refine Within.foldl_fourth _ _ (fun r a h => ?_) ?_
    | with_reducible refine Within.foldl_third _ _ (fun r a h => ?_) ?_
    | with_reducible refine Within.foldl_snd _ _ (fun r a h => ?_) ?_
    | with_reducible refine Within.foldl_fst _ _ (fun r a h => ?_) ?_
    | split
    | dsimp only
    | with_reducible refine Within.upd rfl ?_ ?_ ?_

theorem within_execLinkPanelIdSet {S : List StatePart} {s0 : State} {c : Cmd} {s : State}
    (hS : Covers S [.now, .host, .inProgress, .mgmt, .links, .hostMem])
    (hw : Within S s0 s) : OutWithin S s0 (execLinkPanelIdSet c s) := by
  unfold execLinkPanelIdSet
  repeat' first
    | with_reducible assumption
    | intro _
    | with_reducible refine within_doLinkPanelIdSet (hS.mono (by decide)) ?_
    | with_reducible refine within_runRow (hS.mono (by decide)) ?_ ?_
    | with_reducible refine OutWithin.next ?_
    | exact OutWithin.fault _ _ _
    | split
    | dsimp only

theorem within_doPartitionLinkSet {S : List StatePart} {s0 : State} {c : Cmd} {pay : List Byte} {s : State}
    (hS : Covers S [.host, .inProgress, .mgmt, .parts, .hostMem])
    (hw : Within S s0 s) : Within S s0 (doPartitionLinkSet c pay s) := by
  unfold doPartitionLinkSet
  repeat' first
    | with_reducible assumption
    | intro _
    | with_reducible refine within_checked (hS.mono (by decide)) ?_ ?_
    | with_reducible refine within_complete (hS.mono (by decide)) ?_
    | with_reducible refine within_modPart (hS.mono (by decide)) ?_
    | split
    | dsimp only

theorem within_execPartitionLinkSet {S : List StatePart} {s0 : State} {c : Cmd} {s : State}
    (hS : Covers S [.now, .host, .inProgress, .mgmt, .parts, .hostMem])
    (hw : Within S s0 s) : OutWithin S s0 (execPartitionLinkSet c s) := by
  unfold execPartitionLinkSet
  repeat' first
    | with_reducible assumption
    | intro _
    | with_reducible refine within_doPartitionLinkSet (hS.mono (by decide)) ?_
    | with_reducible refine within_runRow (hS.mono (by decide)) ?_ ?_
    | with_reducible refine OutWithin.next ?_
    | exact OutWithin.fault _ _ _
    | split
    | dsimp only

theorem within_doRankTableSet {S : List StatePart} {s0 : State} {c : Cmd} {pay : List Byte} {s : State}
    (hS : Covers S [.host, .inProgress, .mgmt, .parts, .hostMem])
    (hw : Within S s0 s) : Within S s0 (doRankTableSet c pay s) := by
  unfold doRankTableSet
  repeat' first
    | with_reducible assumption
    | intro _
    | with_reducible refine within_checked (hS.mono (by decide)) ?_ ?_
    | with_reducible refine within_complete (hS.mono (by decide)) ?_
    | with_reducible refine within_failCmd (hS.mono (by decide)) ?_
    | with_reducible refine within_modPart (hS.mono (by decide)) ?_
    | with_reducible refine Within.foldl _ _ (fun s a h => ?_) ?_
    | with_reducible refine Within.foldl_fourth _ _ (fun r a h => ?_) ?_
    | with_reducible refine Within.foldl_third _ _ (fun r a h => ?_) ?_
    | with_reducible refine Within.foldl_snd _ _ (fun r a h => ?_) ?_
    | with_reducible refine Within.foldl_fst _ _ (fun r a h => ?_) ?_
    | with_reducible refine Within.ite ?_ ?_
    | split
    | dsimp only

theorem within_execRankTableSet {S : List StatePart} {s0 : State} {c : Cmd} {s : State}
    (hS : Covers S [.now, .host, .inProgress, .mgmt, .parts, .hostMem])
    (hw : Within S s0 s) : OutWithin S s0 (execRankTableSet c s) := by
  unfold execRankTableSet
  repeat' first
    | with_reducible assumption
    | intro _
    | with_reducible refine within_doRankTableSet (hS.mono (by decide)) ?_
    | with_reducible refine within_runRow (hS.mono (by decide)) ?_ ?_
    | with_reducible refine OutWithin.next ?_
    | exact OutWithin.fault _ _ _
    | split
    | dsimp only

theorem within_doTransitSet {S : List StatePart} {s0 : State} {c : Cmd} {pay : List Byte} {s : State}
    (hS : Covers S [.host, .inProgress, .mgmt, .links, .hostMem])
    (hw : Within S s0 s) : Within S s0 (doTransitSet c pay s) := by
  unfold doTransitSet
  repeat' first
    | with_reducible assumption
    | (intro m; cases m; constructor <;> first | with_reducible assumption | (refine keysRise_mapSet _ _ _ _ ?_; with_reducible assumption))
    | (intro (p : StatePart); cases p <;> first | exact Or.inl (hS.part (by decide)) | with_reducible exact Or.inr rfl | with_reducible exact Or.inr ⟨rfl, rfl⟩ | with_reducible exact Or.inr (Nat.le_refl _))
    | intro _
    | with_reducible refine within_checked (hS.mono (by decide)) ?_ ?_
    | with_reducible refine within_complete (hS.mono (by decide)) ?_
    | with_reducible refine within_failCmd (hS.mono (by decide)) ?_
    | with_reducible refine Within.foldl _ _ (fun s a h => ?_) ?_
    | with_reducible refine Within.foldl_fourth _ _ (fun r a h => ?_) ?_
    | with_reducible refine Within.foldl_third _ _ (fun r a h => ?_) ?_
    | with_reducible refine Within.foldl_snd _ _ (fun r a h => ?_) ?_
    | with_reducible refine Within.foldl_fst _ _ (fun r a h => ?_) ?_
    | with_reducible refine Within.ite ?_ ?_
    | split
    | dsimp only
    | with_reducible refine Within.upd rfl ?_ ?_ ?_

theorem within_execTransitSet {S : List StatePart} {s0 : State} {c : Cmd} {s : State}
    (hS : Covers S [.now, .host, .inProgress, .mgmt, .links, .hostMem])
    (hw : Within S s0 s) : OutWithin S s0 (execTransitSet c s) := by
  unfold execTransitSet
  repeat' first
    | with_reducible assumption
    | intro _
    | with_reducible refine within_doTransitSet (hS.mono (by decide)) ?_
    | with_reducible refine within_runRow (hS.mono (by decide)) ?_ ?_
    | with_reducible refine OutWithin.next ?_
    | exact OutWithin.fault _ _ _
    | split
    | dsimp only

theorem within_doLinkCtrl {S : List StatePart} {s0 : State} {c : Cmd} {pay : List Byte} {s : State}
    (hS : Covers S [.host, .inProgress, .mgmt, .fw, .links, .hostMem])
    (hw : Within S s0 s) : Within S s0 (doLinkCtrl c pay s) := by
  unfold doLinkCtrl
  repeat' first
    | with_reducible assumption
    | intro _
    | with_reducible refine within_beginTraining (hS.mono (by decide)) ?_
    | with_reducible refine within_checked (hS.mono (by decide)) ?_ ?_
    | with_reducible refine within_modLink (hS.mono (by decide)) ?_
    | with_reducible refine within_needProc (hS.mono (by decide)) ?_ ?_
    | with_reducible refine Within.ite ?_ ?_
    | split
    | dsimp only

theorem within_execLinkCtrl {S : List StatePart} {s0 : State} {c : Cmd} {s : State}
    (hS : Covers S [.now, .host, .inProgress, .mgmt, .fw, .links, .hostMem])
    (hw : Within S s0 s) : OutWithin S s0 (execLinkCtrl c s) := by
  unfold execLinkCtrl
  repeat' first
    | with_reducible assumption
    | intro _
    | with_reducible refine within_doLinkCtrl (hS.mono (by decide)) ?_
    | with_reducible refine within_runRow (hS.mono (by decide)) ?_ ?_
    | with_reducible refine OutWithin.next ?_
    | exact OutWithin.fault _ _ _
    | split
    | dsimp only

theorem within_doLinkStatus {S : List StatePart} {s0 : State} {c : Cmd} {pay : List Byte} {s : State}
    (hS : Covers S [.host, .inProgress, .mgmt, .hostMem])
    (hw : Within S s0 s) : Within S s0 (doLinkStatus c pay s) := by
  unfold doLinkStatus
  repeat' first
    | with_reducible assumption
    | intro _
    | with_reducible refine within_checked (hS.mono (by decide)) ?_ ?_
    | with_reducible refine within_completeWithBuf (hS.mono (by decide)) ?_
    | split
    | dsimp only

theorem within_execLinkStatus {S : List StatePart} {s0 : State} {c : Cmd} {s : State}
    (hS : Covers S [.now, .host, .inProgress, .mgmt, .hostMem])
    (hw : Within S s0 s) : OutWithin S s0 (execLinkStatus c s) := by
  unfold execLinkStatus
  repeat' first
    | with_reducible assumption
    | intro _
    | with_reducible refine within_doLinkStatus (hS.mono (by decide)) ?_
    | with_reducible refine within_runRow (hS.mono (by decide)) ?_ ?_
    | with_reducible refine OutWithin.next ?_
    | exact OutWithin.fault _ _ _
    | split
    | dsimp only

end Sys2Proof.Laws
end

