-- ==== Sys2Proof/Laws/FrameDies.lean ====
section
/-! SUPPORT. What each operation of Machine/Dies.lean may change. -/

set_option linter.unusedTactic false
set_option linter.unreachableTactic false
set_option linter.unusedVariables false
set_option linter.unusedSimpArgs false

namespace Sys2Proof.Laws

open Machine

theorem within_clearCompute {S : List StatePart} {s0 : State} {i : Nat} {s : State}
    (hS : Covers S [.bufs, .mem, .cores])
    (hw : Within S s0 s) : Within S s0 (clearCompute i s) := by
  unfold clearCompute
  repeat' first
    | with_reducible assumption
    | intro _
    | with_reducible refine within_clearBuffer (hS.mono (by decide)) ?_
    | with_reducible refine within_modCore (hS.mono (by decide)) ?_
    | with_reducible refine Within.foldl _ _ (fun s a h => ?_) ?_
    | with_reducible refine Within.foldl_fourth _ _ (fun r a h => ?_) ?_
    | with_reducible refine Within.foldl_third _ _ (fun r a h => ?_) ?_
    | with_reducible refine Within.foldl_snd _ _ (fun r a h => ?_) ?_
    | with_reducible refine Within.foldl_fst _ _ (fun r a h => ?_) ?_
    | split
    | dsimp only

theorem within_failRebuilds {S : List StatePart} {s0 : State} {n : Nat} {s : State}
    (hS : Covers S [.host, .ev, .fw, .engines, .hostMem])
    (hw : Within S s0 s) : Within S s0 (failRebuilds n s) := by
  unfold failRebuilds
  repeat' first
    | with_reducible assumption
    | intro _
    | with_reducible refine within_rebuildFails (hS.mono (by decide)) ?_
    | with_reducible refine Within.foldl _ _ (fun s a h => ?_) ?_
    | with_reducible refine Within.foldl_fourth _ _ (fun r a h => ?_) ?_
    | with_reducible refine Within.foldl_third _ _ (fun r a h => ?_) ?_
    | with_reducible refine Within.foldl_snd _ _ (fun r a h => ?_) ?_
    | with_reducible refine Within.foldl_fst _ _ (fun r a h => ?_) ?_
    | with_reducible refine Within.ite ?_ ?_
    | split
    | dsimp only

theorem within_loseEngine {S : List StatePart} {s0 : State} {n : Nat} {s : State}
    (hS : Covers S [.host, .ev, .fw, .engines, .hostMem])
    (hw : Within S s0 s) : Within S s0 (loseEngine n s) := by
  unfold loseEngine
  repeat' first
    | with_reducible assumption
    | intro _
    | with_reducible refine within_failRebuilds (hS.mono (by decide)) ?_
    | with_reducible refine within_modEngine (hS.mono (by decide)) ?_
    | split
    | dsimp only

theorem within_loseLink {S : List StatePart} {s0 : State} {l : Nat} {s : State}
    (hS : Covers S [.host, .inProgress, .mgmt, .measure, .ev, .parts, .fw, .installs, .fab, .links, .hostMem])
    (hw : Within S s0 s) : Within S s0 (loseLink l s) := by
  unfold loseLink
  repeat' first
    | with_reducible assumption
    | intro _
    | with_reducible refine within_complete (hS.mono (by decide)) ?_
    | with_reducible refine within_modLink (hS.mono (by decide)) ?_
    | with_reducible refine within_purlinsOnLink (hS.mono (by decide)) ?_
    | with_reducible refine within_raise1 (hS.mono (by decide)) ?_
    | with_reducible refine within_takeLinkDown (hS.mono (by decide)) ?_
    | with_reducible refine Within.ite ?_ ?_
    | split
    | dsimp only

theorem within_loseLinkDie {S : List StatePart} {s0 : State} {k : Nat} {s : State}
    (hS : Covers S [.host, .inProgress, .mgmt, .measure, .ev, .parts, .fw, .installs, .fab, .links, .hostMem])
    (hw : Within S s0 s) : Within S s0 (loseLinkDie k s) := by
  unfold loseLinkDie
  repeat' first
    | with_reducible assumption
    | (intro m; cases m; constructor <;> first | with_reducible assumption | (refine keysRise_mapDel _ _ ?_; with_reducible assumption) | (refine keysRise_filter _ _ ?_; with_reducible assumption))
    | (intro (p : StatePart); cases p <;> first | exact Or.inl (hS.part (by decide)) | with_reducible exact Or.inr rfl | with_reducible exact Or.inr ⟨rfl, rfl⟩ | with_reducible exact Or.inr (Nat.le_refl _))
    | intro _
    | with_reducible refine within_loseLink (hS.mono (by decide)) ?_
    | with_reducible refine Within.foldl _ _ (fun s a h => ?_) ?_
    | with_reducible refine Within.foldl_fourth _ _ (fun r a h => ?_) ?_
    | with_reducible refine Within.foldl_third _ _ (fun r a h => ?_) ?_
    | with_reducible refine Within.foldl_snd _ _ (fun r a h => ?_) ?_
    | with_reducible refine Within.foldl_fst _ _ (fun r a h => ?_) ?_
    | split
    | dsimp only
    | with_reducible refine Within.upd rfl ?_ ?_ ?_

theorem within_dieContentsReset {S : List StatePart} {s0 : State} {i : Nat} {s : State}
    (hS : Covers S [.host, .inProgress, .mgmt, .measure, .ev, .parts, .fw, .err, .installs, .fab, .bufs, .engines, .links, .mem, .cores, .hostMem])
    (hw : Within S s0 s) : Within S s0 (dieContentsReset i s) := by
  unfold dieContentsReset
  repeat' first
    | with_reducible assumption
    | intro _
    | with_reducible refine within_clearCompute (hS.mono (by decide)) ?_
    | with_reducible refine within_disarm (hS.mono (by decide)) ?_
    | with_reducible refine within_loseEngine (hS.mono (by decide)) ?_
    | with_reducible refine within_loseLinkDie (hS.mono (by decide)) ?_
    | with_reducible refine Within.ite ?_ ?_
    | split
    | dsimp only

theorem within_loseStack {S : List StatePart} {s0 : State} {n : Nat} {s : State}
    (hS : Covers S [.hbms, .mem])
    (hw : Within S s0 s) : Within S s0 (loseStack n s) := by
  unfold loseStack
  repeat' first
    | with_reducible assumption
    | intro _
    | with_reducible refine within_clearStack (hS.mono (by decide)) ?_
    | with_reducible refine within_modStack (hS.mono (by decide)) ?_
    | split
    | dsimp only

theorem within_dieContentsOff {S : List StatePart} {s0 : State} {i : Nat} {s : State}
    (hS : Covers S [.host, .inProgress, .mgmt, .measure, .ev, .parts, .fw, .err, .installs, .fab, .hbms, .bufs, .engines, .links, .mem, .cores, .hostMem])
    (hw : Within S s0 s) : Within S s0 (dieContentsOff i s) := by
  unfold dieContentsOff
  repeat' first
    | with_reducible assumption
    | intro _
    | with_reducible refine within_dieContentsReset (hS.mono (by decide)) ?_
    | with_reducible refine within_loseStack (hS.mono (by decide)) ?_
    | with_reducible refine Within.ite ?_ ?_
    | split
    | dsimp only

theorem within_stopProc {S : List StatePart} {s0 : State} {i : Nat} {s : State}
    (hS : Covers S [.host, .inProgress, .mgmt, .fw, .hostMem])
    (hw : Within S s0 s) : Within S s0 (stopProc i s) := by
  unfold stopProc
  repeat' first
    | with_reducible assumption
    | intro _
    | with_reducible refine within_completeOpt (hS.mono (by decide)) ?_
    | with_reducible refine within_modProc (hS.mono (by decide)) ?_
    | split
    | dsimp only

theorem within_unpowerSites {S : List StatePart} {s0 : State} {m : PwrMode} {is : List Nat} {s : State}
    (hS : Covers S [.host, .inProgress, .mgmt, .measure, .ev, .parts, .pwr, .fw, .err, .installs, .fab, .hbms, .bufs, .engines, .links, .mem, .cores, .hostMem])
    (hw : Within S s0 s) : Within S s0 (unpowerSites m is s) := by
  unfold unpowerSites
  repeat' first
    | with_reducible assumption
    | intro _
    | with_reducible refine within_dieContentsOff (hS.mono (by decide)) ?_
    | with_reducible refine within_modPwr (hS.mono (by decide)) ?_
    | with_reducible refine within_stopProc (hS.mono (by decide)) ?_
    | with_reducible refine Within.foldl _ _ (fun s a h => ?_) ?_
    | with_reducible refine Within.foldl_fourth _ _ (fun r a h => ?_) ?_
    | with_reducible refine Within.foldl_third _ _ (fun r a h => ?_) ?_
    | with_reducible refine Within.foldl_snd _ _ (fun r a h => ?_) ?_
    | with_reducible refine Within.foldl_fst _ _ (fun r a h => ?_) ?_
    | split
    | dsimp only

theorem within_endActing {S : List StatePart} {s0 : State} {i : Nat} {status : Nat} {s : State}
    (hS : Covers S [.host, .inProgress, .mgmt, .pwr, .hostMem])
    (hw : Within S s0 s) : Within S s0 (endActing i status s) := by
  unfold endActing
  repeat' first
    | with_reducible assumption
    | intro _
    | with_reducible refine within_complete (hS.mono (by decide)) ?_
    | with_reducible refine within_modPwr (hS.mono (by decide)) ?_
    | split
    | dsimp only

theorem within_endDieReset {S : List StatePart} {s0 : State} {i : Nat} {s : State}
    (hS : Covers S [.host, .inProgress, .mgmt, .pwr, .hostMem])
    (hw : Within S s0 s) : Within S s0 (endDieReset i s) := by
  unfold endDieReset
  repeat' first
    | with_reducible assumption
    | intro _
    | with_reducible refine within_complete (hS.mono (by decide)) ?_
    | with_reducible refine within_modPwr (hS.mono (by decide)) ?_
    | split
    | dsimp only

theorem within_recordDark {S : List StatePart} {s0 : State} {is : List Nat} {s : State}
    (hS : Covers S [.fp, .host, .ev, .fw, .hostMem, .bootGeneration])
    (hw : Within S s0 s) : Within S s0 (recordDark is s) := by
  unfold recordDark
  repeat' first
    | with_reducible assumption
    | intro _
    | with_reducible refine within_modEntry (hS.mono (by decide)) ?_
    | with_reducible refine within_recordChange (hS.mono (by decide)) ?_ ?_
    | with_reducible refine Within.foldl _ _ (fun s a h => ?_) ?_
    | with_reducible refine Within.foldl_fourth _ _ (fun r a h => ?_) ?_
    | with_reducible refine Within.foldl_third _ _ (fun r a h => ?_) ?_
    | with_reducible refine Within.foldl_snd _ _ (fun r a h => ?_) ?_
    | with_reducible refine Within.foldl_fst _ _ (fun r a h => ?_) ?_
    | split
    | dsimp only

theorem within_failDies {S : List StatePart} {s0 : State} {is : List Nat} {reason : Nat} {inj : Bool} {s : State}
    (hS : Covers S [.fp, .host, .ev, .fw, .err, .bays, .hostMem, .bootGeneration, .bootFailures, .bootLog])
    (hw : Within S s0 s) : Within S s0 (failDies is reason inj s) := by
  unfold failDies
  repeat' first
    | with_reducible assumption
    | intro _
    | with_reducible refine within_failEntry (hS.mono (by decide)) ?_
    | with_reducible refine within_faultDie (hS.mono (by decide)) ?_
    | with_reducible refine within_logAdd (hS.mono (by decide)) ?_
    | with_reducible refine within_recordChange (hS.mono (by decide)) ?_ ?_
    | with_reducible refine Within.foldl _ _ (fun s a h => ?_) ?_
    | with_reducible refine Within.foldl_fourth _ _ (fun r a h => ?_) ?_
    | with_reducible refine Within.foldl_third _ _ (fun r a h => ?_) ?_
    | with_reducible refine Within.foldl_snd _ _ (fun r a h => ?_) ?_
    | with_reducible refine Within.foldl_fst _ _ (fun r a h => ?_) ?_
    | split
    | dsimp only

theorem within_loseSites {S : List StatePart} {s0 : State} {m : PwrMode} {is : List Nat} {reason : Nat} {inj : Bool} {s : State}
    (hS : Covers S [.fp, .host, .inProgress, .mgmt, .measure, .ev, .parts, .pwr, .fw, .err, .installs, .fab, .hbms, .bufs, .engines, .links, .mem, .bays, .cores, .hostMem, .bootGeneration, .bootFailures, .bootLog])
    (hw : Within S s0 s) : Within S s0 (loseSites m is reason inj s) := by
  unfold loseSites
  repeat' first
    | with_reducible assumption
    | intro _
    | with_reducible refine within_endActing (hS.mono (by decide)) ?_
    | with_reducible refine within_endDieReset (hS.mono (by decide)) ?_
    | with_reducible refine within_failDies (hS.mono (by decide)) ?_
    | with_reducible refine within_unpowerSites (hS.mono (by decide)) ?_
    | with_reducible refine Within.foldl _ _ (fun s a h => ?_) ?_
    | with_reducible refine Within.foldl_fourth _ _ (fun r a h => ?_) ?_
    | with_reducible refine Within.foldl_third _ _ (fun r a h => ?_) ?_
    | with_reducible refine Within.foldl_snd _ _ (fun r a h => ?_) ?_
    | with_reducible refine Within.foldl_fst _ _ (fun r a h => ?_) ?_
    | split
    | dsimp only

theorem within_darkenSites {S : List StatePart} {s0 : State} {is : List Nat} {s : State}
    (hS : Covers S [.fp, .host, .inProgress, .mgmt, .measure, .ev, .parts, .pwr, .fw, .err, .installs, .fab, .hbms, .bufs, .engines, .links, .mem, .bays, .cores, .hostMem, .bootGeneration])
    (hw : Within S s0 s) : Within S s0 (darkenSites is s) := by
  unfold darkenSites
  repeat' first
    | with_reducible assumption
    | intro _
    | with_reducible refine within_endActing (hS.mono (by decide)) ?_
    | with_reducible refine within_endDieReset (hS.mono (by decide)) ?_
    | with_reducible refine within_faultDie (hS.mono (by decide)) ?_
    | with_reducible refine within_recordDark (hS.mono (by decide)) ?_
    | with_reducible refine within_unpowerSites (hS.mono (by decide)) ?_
    | with_reducible refine Within.foldl _ _ (fun s a h => ?_) ?_
    | with_reducible refine Within.foldl_fourth _ _ (fun r a h => ?_) ?_
    | with_reducible refine Within.foldl_third _ _ (fun r a h => ?_) ?_
    | with_reducible refine Within.foldl_snd _ _ (fun r a h => ?_) ?_
    | with_reducible refine Within.foldl_fst _ _ (fun r a h => ?_) ?_
    | split
    | dsimp only

theorem within_failRuntime {S : List StatePart} {s0 : State} {i : Nat} {inj : Bool} {s : State}
    (hS : Covers S [.fp, .host, .inProgress, .mgmt, .measure, .ev, .parts, .fw, .err, .installs, .fab, .engines, .links, .bays, .hostMem, .bootGeneration, .bootFailures, .bootLog])
    (hw : Within S s0 s) : Within S s0 (failRuntime i inj s) := by
  unfold failRuntime
  repeat' first
    | with_reducible assumption
    | intro _
    | with_reducible refine within_failDies (hS.mono (by decide)) ?_
    | with_reducible refine within_loseEngine (hS.mono (by decide)) ?_
    | with_reducible refine within_loseLinkDie (hS.mono (by decide)) ?_
    | with_reducible refine Within.ite ?_ ?_
    | split
    | dsimp only

theorem within_retestFails {S : List StatePart} {s0 : State} {s : State}
    (hS : Covers S [.freeCtr])
    (hw : Within S s0 s) : Within S s0 (retestFails s).2 := by
  unfold retestFails
  repeat' first
    | with_reducible assumption
    | intro _
    | with_reducible refine within_takeFree (hS.mono (by decide)) ?_
    | split
    | dsimp only

theorem within_retestRows {S : List StatePart} {s0 : State} {k : Nat} {x0 : List Nat} {x1 : Bool} {x2 : State}
    (hS : Covers S [.freeCtr])
    (hw : Within S s0 x2) : Within S s0 (retestRows k x0 x1 x2).2 := by
  induction x0 generalizing x1 x2 with
  | nil =>
    rw [retestRows]
    repeat' first
      | with_reducible assumption
      | intro _
      | with_reducible refine within_retestFails (hS.mono (by decide)) ?_
      | split
      | dsimp only
  | cons x l ih =>
    rw [retestRows]
    repeat' first
      | with_reducible assumption
      | with_reducible refine ih ?_
      | intro _
      | with_reducible refine within_retestFails (hS.mono (by decide)) ?_
      | split
      | dsimp only

theorem within_retestCore {S : List StatePart} {s0 : State} {k : Nat} {s : State}
    (hS : Covers S [.freeCtr, .fp, .host, .ev, .fw, .err, .cores, .hostMem, .bootGeneration, .bootFailures, .bootLog])
    (hw : Within S s0 s) : Within S s0 (retestCore k s) := by
  unfold retestCore
  repeat' first
    | with_reducible assumption
    | intro _
    | with_reducible refine within_failCore (hS.mono (by decide)) ?_
    | with_reducible refine within_modCore (hS.mono (by decide)) ?_
    | with_reducible refine within_retestRows (hS.mono (by decide)) ?_
    | with_reducible refine Within.ite ?_ ?_
    | split
    | dsimp only

theorem within_replaceBlock {S : List StatePart} {s0 : State} {i : Nat} {b : Nat} {s : State}
    (hS : Covers S [.fp, .host, .inProgress, .mgmt, .measure, .ev, .parts, .fw, .err, .installs, .fab, .bufs, .engines, .links, .mem, .bays, .hostMem, .bootGeneration, .bootFailures, .bootLog])
    (hw : Within S s0 s) : Within S s0 (replaceBlock i b s) := by
  unfold replaceBlock
  repeat' first
    | with_reducible assumption
    | (intro m; cases m; constructor <;> first | with_reducible assumption | (refine memWf_memClear _ _ _ ?_; with_reducible assumption) | (refine keysRise_filter _ _ ?_; with_reducible assumption) | rfl)
    | (intro (p : StatePart); cases p <;> first | exact Or.inl (hS.part (by decide)) | with_reducible exact Or.inr rfl | with_reducible exact Or.inr ⟨rfl, rfl⟩ | with_reducible exact Or.inr (Nat.le_refl _))
    | intro _
    | with_reducible refine within_failRuntime (hS.mono (by decide)) ?_
    | with_reducible refine within_modBuf (hS.mono (by decide)) ?_
    | with_reducible refine within_raise1 (hS.mono (by decide)) ?_
    | with_reducible refine Within.ite ?_ ?_
    | split
    | dsimp only
    | with_reducible refine Within.upd rfl ?_ ?_ ?_

theorem within_retestBuffer {S : List StatePart} {s0 : State} {i : Nat} {s : State}
    (hS : Covers S [.freeCtr, .fp, .host, .inProgress, .mgmt, .measure, .ev, .parts, .fw, .err, .installs, .fab, .bufs, .engines, .links, .mem, .bays, .hostMem, .bootGeneration, .bootFailures, .bootLog])
    (hw : Within S s0 s) : Within S s0 (retestBuffer i s) := by
  unfold retestBuffer
  repeat' first
    | with_reducible assumption
    | intro _
    | with_reducible refine within_modBuf (hS.mono (by decide)) ?_
    | with_reducible refine within_replaceBlock (hS.mono (by decide)) ?_
    | with_reducible refine within_retestFails (hS.mono (by decide)) ?_
    | with_reducible refine Within.foldl _ _ (fun s a h => ?_) ?_
    | with_reducible refine Within.foldl_fourth _ _ (fun r a h => ?_) ?_
    | with_reducible refine Within.foldl_third _ _ (fun r a h => ?_) ?_
    | with_reducible refine Within.foldl_snd _ _ (fun r a h => ?_) ?_
    | with_reducible refine Within.foldl_fst _ _ (fun r a h => ?_) ?_
    | with_reducible refine Within.ite ?_ ?_
    | split
    | dsimp only

end Sys2Proof.Laws
end

