-- ==== Sys2Proof/Laws/FrameRemoval.lean ====
section
/-! SUPPORT. What each operation of Machine/Removal.lean may change. -/

set_option linter.unusedTactic false
set_option linter.unreachableTactic false
set_option linter.unusedVariables false
set_option linter.unusedSimpArgs false

namespace Sys2Proof.Laws

open Machine

theorem within_stopPurlins {S : List StatePart} {s0 : State} {part : Nat} {s : State}
    (hS : Covers S [.host, .inProgress, .mgmt, .measure, .ev, .parts, .fw, .installs, .links, .hostMem])
    (hw : Within S s0 s) : Within S s0 (stopPurlins part s) := by
  unfold stopPurlins
  repeat' first
    | with_reducible assumption
    | intro _
    | with_reducible refine within_purlinStop (hS.mono (by decide)) ?_
    | with_reducible refine Within.foldl _ _ (fun s a h => ?_) ?_
    | with_reducible refine Within.foldl_fourth _ _ (fun r a h => ?_) ?_
    | with_reducible refine Within.foldl_third _ _ (fun r a h => ?_) ?_
    | with_reducible refine Within.foldl_snd _ _ (fun r a h => ?_) ?_
    | with_reducible refine Within.foldl_fst _ _ (fun r a h => ?_) ?_
    | split
    | dsimp only

theorem within_closeBatches {S : List StatePart} {s0 : State} {part : Nat} {s : State}
    (hS : Covers S [.host, .inProgress, .mgmt, .ev, .parts, .fw, .hostMem])
    (hw : Within S s0 s) : Within S s0 (closeBatches part s) := by
  unfold closeBatches
  repeat' first
    | with_reducible assumption
    | intro _
    | with_reducible refine within_completeOpt (hS.mono (by decide)) ?_
    | with_reducible refine within_modPart (hS.mono (by decide)) ?_
    | with_reducible refine within_settleSlots (hS.mono (by decide)) ?_
    | with_reducible refine Within.foldl _ _ (fun s a h => ?_) ?_
    | with_reducible refine Within.foldl_fourth _ _ (fun r a h => ?_) ?_
    | with_reducible refine Within.foldl_third _ _ (fun r a h => ?_) ?_
    | with_reducible refine Within.foldl_snd _ _ (fun r a h => ?_) ?_
    | with_reducible refine Within.foldl_fst _ _ (fun r a h => ?_) ?_
    | split
    | dsimp only

theorem within_endInstalls {S : List StatePart} {s0 : State} {s : State}
    (hS : Covers S [.host, .inProgress, .mgmt, .measure, .ev, .fw, .installs, .hostMem])
    (hw : Within S s0 s) : Within S s0 (endInstalls s) := by
  unfold endInstalls
  repeat' first
    | with_reducible assumption
    | (intro m; cases m; constructor <;> first | with_reducible assumption)
    | (intro (p : StatePart); cases p <;> first | exact Or.inl (hS.part (by decide)) | with_reducible exact Or.inr rfl | with_reducible exact Or.inr ⟨rfl, rfl⟩ | with_reducible exact Or.inr (Nat.le_refl _))
    | intro _
    | with_reducible refine within_complete (hS.mono (by decide)) ?_
    | with_reducible refine within_measureImage (hS.mono (by decide)) ?_
    | with_reducible refine Within.foldl _ _ (fun s a h => ?_) ?_
    | with_reducible refine Within.foldl_fourth _ _ (fun r a h => ?_) ?_
    | with_reducible refine Within.foldl_third _ _ (fun r a h => ?_) ?_
    | with_reducible refine Within.foldl_snd _ _ (fun r a h => ?_) ?_
    | with_reducible refine Within.foldl_fst _ _ (fun r a h => ?_) ?_
    | split
    | dsimp only
    | with_reducible refine Within.upd rfl ?_ ?_ ?_

theorem within_saveWear {S : List StatePart} {s0 : State} {s : State}
    (hS : Covers S [.bootWear])
    (hw : Within S s0 s) : Within S s0 (saveWear s) := by
  unfold saveWear
  repeat' first
    | with_reducible assumption
    | (intro m; cases m; constructor <;> first | with_reducible assumption)
    | (intro (p : StatePart); cases p <;> first | exact Or.inl (hS.part (by decide)) | with_reducible exact Or.inr rfl | with_reducible exact Or.inr ⟨rfl, rfl⟩ | with_reducible exact Or.inr (Nat.le_refl _))
    | intro _
    | split
    | dsimp only
    | with_reducible refine Within.upd rfl ?_ ?_ ?_

theorem within_parkForRemoval {S : List StatePart} {s0 : State} {s : State}
    (hS : Covers S [.host])
    (hw : Within S s0 s) : Within S s0 (parkForRemoval s) := by
  unfold parkForRemoval
  repeat' first
    | with_reducible assumption
    | (intro m; cases m; constructor <;> first | with_reducible assumption)
    | (intro (p : StatePart); cases p <;> first | exact Or.inl (hS.part (by decide)) | with_reducible exact Or.inr rfl | with_reducible exact Or.inr ⟨rfl, rfl⟩ | with_reducible exact Or.inr (Nat.le_refl _))
    | intro _
    | split
    | dsimp only
    | with_reducible refine Within.upd rfl ?_ ?_ ?_

theorem within_stopTransfers {S : List StatePart} {s0 : State} {s : State}
    (hS : Covers S [.host, .inProgress, .mgmt, .measure, .ev, .parts, .fw, .install, .installs, .links, .hostMem])
    (hw : Within S s0 s) : Within S s0 (stopTransfers s) := by
  unfold stopTransfers
  repeat' first
    | with_reducible assumption
    | (intro m; cases m; constructor <;> first | with_reducible assumption)
    | (intro (p : StatePart); cases p <;> first | exact Or.inl (hS.part (by decide)) | with_reducible exact Or.inr rfl | with_reducible exact Or.inr ⟨rfl, rfl⟩ | with_reducible exact Or.inr (Nat.le_refl _))
    | intro _
    | with_reducible refine within_endInstalls (hS.mono (by decide)) ?_
    | with_reducible refine within_stopPurlins (hS.mono (by decide)) ?_
    | with_reducible refine Within.foldl _ _ (fun s a h => ?_) ?_
    | with_reducible refine Within.foldl_fourth _ _ (fun r a h => ?_) ?_
    | with_reducible refine Within.foldl_third _ _ (fun r a h => ?_) ?_
    | with_reducible refine Within.foldl_snd _ _ (fun r a h => ?_) ?_
    | with_reducible refine Within.foldl_fst _ _ (fun r a h => ?_) ?_
    | split
    | dsimp only
    | with_reducible refine Within.upd rfl ?_ ?_ ?_

theorem within_endRemoval {S : List StatePart} {s0 : State} {s : State}
    (hS : Covers S [.fp, .host, .inProgress, .mgmt, .measure, .ev, .parts, .pwr, .fw, .err, .install, .installs, .fab, .hbms, .bufs, .engines, .links, .mem, .cores, .hostMem, .bootGeneration, .bootWear])
    (hw : Within S s0 s) : Within S s0 (endRemoval s) := by
  unfold endRemoval
  repeat' first
    | with_reducible assumption
    | intro _
    | with_reducible refine within_closeBatches (hS.mono (by decide)) ?_
    | with_reducible refine within_complete (hS.mono (by decide)) ?_
    | with_reducible refine within_parkForRemoval (hS.mono (by decide)) ?_
    | with_reducible refine within_recordDark (hS.mono (by decide)) ?_
    | with_reducible refine within_saveWear (hS.mono (by decide)) ?_
    | with_reducible refine within_stopTransfers (hS.mono (by decide)) ?_
    | with_reducible refine within_unpowerSites (hS.mono (by decide)) ?_
    | with_reducible refine Within.foldl _ _ (fun s a h => ?_) ?_
    | with_reducible refine Within.foldl_fourth _ _ (fun r a h => ?_) ?_
    | with_reducible refine Within.foldl_third _ _ (fun r a h => ?_) ?_
    | with_reducible refine Within.foldl_snd _ _ (fun r a h => ?_) ?_
    | with_reducible refine Within.foldl_fst _ _ (fun r a h => ?_) ?_
    | with_reducible refine Within.ite ?_ ?_
    | split
    | dsimp only

theorem within_doPrepareRemoval {S : List StatePart} {s0 : State} {c : Cmd} {_pay : List Byte} {s : State}
    (hS : Covers S [.fp, .host, .inProgress, .mgmt, .measure, .ev, .parts, .pwr, .fw, .err, .install, .installs, .fab, .hbms, .bufs, .engines, .links, .mem, .bays, .cores, .hostMem, .bootGeneration, .bootWear])
    (hw : Within S s0 s) : Within S s0 (doPrepareRemoval c _pay s) := by
  unfold doPrepareRemoval
  repeat' first
    | with_reducible assumption
    | (intro m; cases m; constructor <;> first | with_reducible assumption)
    | (intro (p : StatePart); cases p <;> first | exact Or.inl (hS.part (by decide)) | with_reducible exact Or.inr rfl | with_reducible exact Or.inr ⟨rfl, rfl⟩ | with_reducible exact Or.inr (Nat.le_refl _))
    | intro _
    | with_reducible refine within_autoStop (hS.mono (by decide)) ?_
    | with_reducible refine within_endRemoval (hS.mono (by decide)) ?_
    | with_reducible refine Within.foldl _ _ (fun s a h => ?_) ?_
    | with_reducible refine Within.foldl_fourth _ _ (fun r a h => ?_) ?_
    | with_reducible refine Within.foldl_third _ _ (fun r a h => ?_) ?_
    | with_reducible refine Within.foldl_snd _ _ (fun r a h => ?_) ?_
    | with_reducible refine Within.foldl_fst _ _ (fun r a h => ?_) ?_
    | split
    | dsimp only
    | with_reducible refine Within.upd rfl ?_ ?_ ?_

theorem within_execPrepareRemoval {S : List StatePart} {s0 : State} {c : Cmd} {s : State}
    (hS : Covers S [.now, .fp, .host, .inProgress, .mgmt, .measure, .ev, .parts, .pwr, .fw, .err, .install, .installs, .fab, .hbms, .bufs, .engines, .links, .mem, .bays, .cores, .hostMem, .bootGeneration, .bootWear])
    (hw : Within S s0 s) : OutWithin S s0 (execPrepareRemoval c s) := by
  unfold execPrepareRemoval
  repeat' first
    | with_reducible assumption
    | intro _
    | with_reducible refine within_doPrepareRemoval (hS.mono (by decide)) ?_
    | with_reducible refine within_runRow (hS.mono (by decide)) ?_ ?_
    | with_reducible refine OutWithin.next ?_
    | exact OutWithin.fault _ _ _
    | split
    | dsimp only

end Sys2Proof.Laws
end

