-- ==== Sys2Proof/Laws/FramePower.lean ====
section
/-! SUPPORT. What each operation of Machine/Power.lean may change. -/

set_option linter.unusedTactic false
set_option linter.unreachableTactic false
set_option linter.unusedVariables false
set_option linter.unusedSimpArgs false

namespace Sys2Proof.Laws

open Machine

theorem within_modQuad {S : List StatePart} {s0 : State} {n : Nat} {f : QuadPwr → QuadPwr} {s : State}
    (hS : Covers S [.pwr])
    (hw : Within S s0 s) : Within S s0 (modQuad n f s) := by
  unfold modQuad
  repeat' first
    | with_reducible assumption
    | (intro m; cases m; constructor <;> first | with_reducible assumption | (simp [modAt, copies, *]; done))
    | (intro (p : StatePart); cases p <;> first | exact Or.inl (hS.part (by decide)) | with_reducible exact Or.inr rfl | with_reducible exact Or.inr ⟨rfl, rfl⟩ | with_reducible exact Or.inr (Nat.le_refl _))
    | intro _
    | split
    | dsimp only
    | with_reducible refine Within.upd rfl ?_ ?_ ?_

theorem within_settleDemand {S : List StatePart} {s0 : State} {i : Nat} {s : State}
    (hS : Covers S [.pwr])
    (hw : Within S s0 s) : Within S s0 (settleDemand i s) := by
  unfold settleDemand
  repeat' first
    | with_reducible assumption
    | intro _
    | with_reducible refine within_modPwr (hS.mono (by decide)) ?_
    | with_reducible refine Within.ite ?_ ?_
    | split
    | dsimp only

theorem within_settleDemands {S : List StatePart} {s0 : State} {s : State}
    (hS : Covers S [.pwr])
    (hw : Within S s0 s) : Within S s0 (settleDemands s) := by
  unfold settleDemands
  repeat' first
    | with_reducible assumption
    | intro _
    | with_reducible refine within_settleDemand (hS.mono (by decide)) ?_
    | with_reducible refine Within.foldl _ _ (fun s a h => ?_) ?_
    | with_reducible refine Within.foldl_fourth _ _ (fun r a h => ?_) ?_
    | with_reducible refine Within.foldl_third _ _ (fun r a h => ?_) ?_
    | with_reducible refine Within.foldl_snd _ _ (fun r a h => ?_) ?_
    | with_reducible refine Within.foldl_fst _ _ (fun r a h => ?_) ?_
    | split
    | dsimp only

theorem within_execLimiterDemand {S : List StatePart} {s0 : State} {p : SiteId} {logic : Nat} {array : Nat} {time : Nat} {s : State}
    (hS : Covers S [.now, .pwr, .bays])
    (hw : Within S s0 s) : OutWithin S s0 (execLimiterDemand p logic array time s) := by
  unfold execLimiterDemand
  repeat' first
    | with_reducible assumption
    | intro _
    | with_reducible refine within_atTime (hS.mono (by decide)) ?_
    | with_reducible refine within_modPwr (hS.mono (by decide)) ?_
    | with_reducible refine within_settleBoost (hS.mono (by decide)) ?_
    | with_reducible refine within_settleDemand (hS.mono (by decide)) ?_
    | with_reducible refine OutWithin.next ?_
    | exact OutWithin.fault _ _ _
    | with_reducible refine OutWithin.ite ?_ ?_
    | with_reducible refine Within.ite ?_ ?_
    | split
    | dsimp only

theorem within_execQuadrantLimit {S : List StatePart} {s0 : State} {n : Fin 4} {cur : Nat} {time : Nat} {s : State}
    (hS : Covers S [.now, .pwr, .bays])
    (hw : Within S s0 s) : OutWithin S s0 (execQuadrantLimit n cur time s) := by
  unfold execQuadrantLimit
  repeat' first
    | with_reducible assumption
    | intro _
    | with_reducible refine within_atTime (hS.mono (by decide)) ?_
    | with_reducible refine within_modQuad (hS.mono (by decide)) ?_
    | with_reducible refine within_settleBoost (hS.mono (by decide)) ?_
    | with_reducible refine within_settleDemands (hS.mono (by decide)) ?_
    | with_reducible refine OutWithin.next ?_
    | exact OutWithin.fault _ _ _
    | split
    | dsimp only

theorem within_execPanelLimit {S : List StatePart} {s0 : State} {watts : Nat} {time : Nat} {s : State}
    (hS : Covers S [.now, .pwr, .bays])
    (hw : Within S s0 s) : OutWithin S s0 (execPanelLimit watts time s) := by
  unfold execPanelLimit
  repeat' first
    | with_reducible assumption
    | (intro m; cases m; constructor <;> first | with_reducible assumption)
    | (intro (p : StatePart); cases p <;> first | exact Or.inl (hS.part (by decide)) | with_reducible exact Or.inr rfl | with_reducible exact Or.inr ⟨rfl, rfl⟩ | with_reducible exact Or.inr (Nat.le_refl _))
    | intro _
    | with_reducible refine within_atTime (hS.mono (by decide)) ?_
    | with_reducible refine within_settleBoost (hS.mono (by decide)) ?_
    | with_reducible refine within_settleDemands (hS.mono (by decide)) ?_
    | with_reducible refine OutWithin.next ?_
    | exact OutWithin.fault _ _ _
    | split
    | dsimp only
    | with_reducible refine Within.upd rfl ?_ ?_ ?_

theorem within_execLimitLong {S : List StatePart} {s0 : State} {u : LimitUnit} {time : Nat} {s : State}
    (hS : Covers S [.now, .host, .ev, .pwr, .fw, .hostMem])
    (hw : Within S s0 s) : OutWithin S s0 (execLimitLong u time s) := by
  unfold execLimitLong
  repeat' first
    | with_reducible assumption
    | (intro m; cases m; constructor <;> first | with_reducible assumption)
    | (intro (p : StatePart); cases p <;> first | exact Or.inl (hS.part (by decide)) | with_reducible exact Or.inr rfl | with_reducible exact Or.inr ⟨rfl, rfl⟩ | with_reducible exact Or.inr (Nat.le_refl _))
    | intro _
    | with_reducible refine within_atTime (hS.mono (by decide)) ?_
    | with_reducible refine within_modPwr (hS.mono (by decide)) ?_
    | with_reducible refine within_modQuad (hS.mono (by decide)) ?_
    | with_reducible refine within_raise1 (hS.mono (by decide)) ?_
    | with_reducible refine OutWithin.next ?_
    | exact OutWithin.fault _ _ _
    | with_reducible refine OutWithin.ite ?_ ?_
    | with_reducible refine Within.ite ?_ ?_
    | split
    | dsimp only
    | with_reducible refine Within.upd rfl ?_ ?_ ?_

theorem within_recordSite {S : List StatePart} {s0 : State} {r : SitePower} {s : State}
    (hS : Covers S [.pwr])
    (hw : Within S s0 s) : Within S s0 (recordSite r s) := by
  unfold recordSite
  repeat' first
    | with_reducible assumption
    | intro _
    | with_reducible refine within_modPwr (hS.mono (by decide)) ?_
    | with_reducible refine Within.ite ?_ ?_
    | split
    | dsimp only

theorem within_execPowerTick {S : List StatePart} {s0 : State} {r : PowerReadings} {time : Nat} {s : State}
    (hS : Covers S [.now, .pwr])
    (hw : Within S s0 s) : OutWithin S s0 (execPowerTick r time s) := by
  unfold execPowerTick
  repeat' first
    | with_reducible assumption
    | (intro m; constructor <;> first | with_reducible exact m.mem | with_reducible exact m.hostMem | with_reducible exact m.storeMem | with_reducible exact m.entries | with_reducible exact m.parts | with_reducible exact m.quads | with_reducible exact m.cores | with_reducible exact m.bays | with_reducible exact m.sites | with_reducible exact m.hot | with_reducible exact m.procs | with_reducible exact m.wear | with_reducible exact m.bootWear | with_reducible exact m.missed | with_reducible exact m.hops | with_reducible exact m.ports | with_reducible exact m.hbms | with_reducible exact m.bufs | with_reducible exact m.store | with_reducible exact m.engines | with_reducible exact m.links | with_reducible exact m.queues | with_reducible exact m.failures | with_reducible exact m.retests | (simp [modAt, copies, m.entries, m.parts, m.quads]; done) | (refine keysRise_of_keys ?_ m.sites; simp [Function.comp_def]; done))
    | (intro (p : StatePart); cases p <;> first | exact Or.inl (hS.part (by decide)) | with_reducible exact Or.inr rfl | with_reducible exact Or.inr ⟨rfl, rfl⟩ | with_reducible exact Or.inr (Nat.le_refl _))
    | intro _
    | with_reducible refine within_atTime (hS.mono (by decide)) ?_
    | with_reducible refine within_recordSite (hS.mono (by decide)) ?_
    | with_reducible refine OutWithin.next ?_
    | exact OutWithin.fault _ _ _
    | with_reducible refine Within.foldl _ _ (fun s a h => ?_) ?_
    | with_reducible refine Within.foldl_fourth _ _ (fun r a h => ?_) ?_
    | with_reducible refine Within.foldl_third _ _ (fun r a h => ?_) ?_
    | with_reducible refine Within.foldl_snd _ _ (fun r a h => ?_) ?_
    | with_reducible refine Within.foldl_fst _ _ (fun r a h => ?_) ?_
    | split
    | dsimp only
    | with_reducible refine Within.upd rfl ?_ ?_ ?_

theorem within_execInputRange {S : List StatePart} {s0 : State} {mv : Nat} {time : Nat} {s : State}
    (hS : Covers S [.now, .host, .ev, .pwr, .fw, .hostMem])
    (hw : Within S s0 s) : OutWithin S s0 (execInputRange mv time s) := by
  unfold execInputRange
  repeat' first
    | with_reducible assumption
    | (intro m; cases m; constructor <;> first | with_reducible assumption)
    | (intro (p : StatePart); cases p <;> first | exact Or.inl (hS.part (by decide)) | with_reducible exact Or.inr rfl | with_reducible exact Or.inr ⟨rfl, rfl⟩ | with_reducible exact Or.inr (Nat.le_refl _))
    | intro _
    | with_reducible refine within_atTime (hS.mono (by decide)) ?_
    | with_reducible refine within_raise1 (hS.mono (by decide)) ?_
    | with_reducible refine OutWithin.next ?_
    | exact OutWithin.fault _ _ _
    | with_reducible refine OutWithin.ite ?_ ?_
    | with_reducible refine Within.ite ?_ ?_
    | split
    | dsimp only
    | with_reducible refine Within.upd rfl ?_ ?_ ?_

theorem within_powerLost {S : List StatePart} {s0 : State} {s : State}
    (hS : Covers S [.clock, .now, .fp, .host, .inProgress, .mgmt, .measure, .ev, .parts, .pwr, .fw, .err, .cool, .install, .installs, .fab, .hbms, .bufs, .engines, .links, .mem, .bays, .cores, .xings])
    (hw : Within S s0 s) : Within S s0 (powerLost s) := by
  refine hw.trans ⟨fun p hn => ?_, fun m => ⟨rfl, m.hostMem, m.storeMem, rfl, rfl, rfl, rfl, rfl, rfl, rfl, rfl, rfl, m.bootWear, rfl, rfl, rfl, rfl, rfl, m.store, rfl, rfl, rfl, m.failures, rfl⟩⟩
  cases p <;> first | exact absurd (hS.part (by decide)) hn | rfl | exact ⟨rfl, rfl⟩

theorem within_execInputTrip {S : List StatePart} {s0 : State} {isOver : Bool} {mv : Nat} {time : Nat} {s : State}
    (hS : Covers S [.clock, .now, .fp, .host, .inProgress, .mgmt, .measure, .ev, .parts, .pwr, .fw, .err, .cool, .install, .installs, .fab, .hbms, .bufs, .engines, .links, .mem, .bays, .cores, .xings, .hostMem, .bootLog, .bootTrip])
    (hw : Within S s0 s) : OutWithin S s0 (execInputTrip isOver mv time s) := by
  unfold execInputTrip
  repeat' first
    | with_reducible assumption
    | (intro m; cases m; constructor <;> first | with_reducible assumption)
    | (intro (p : StatePart); cases p <;> first | exact Or.inl (hS.part (by decide)) | with_reducible exact Or.inr rfl | with_reducible exact Or.inr ⟨rfl, rfl⟩ | with_reducible exact Or.inr (Nat.le_refl _))
    | intro _
    | with_reducible refine within_atTime (hS.mono (by decide)) ?_
    | with_reducible refine within_examine (hS.mono (by decide)) ?_
    | with_reducible refine within_logAdd (hS.mono (by decide)) ?_
    | with_reducible refine within_powerLost (hS.mono (by decide)) ?_
    | with_reducible refine OutWithin.next ?_
    | exact OutWithin.fault _ _ _
    | with_reducible refine OutWithin.ite ?_ ?_
    | with_reducible refine Within.ite ?_ ?_
    | split
    | dsimp only
    | with_reducible refine Within.upd rfl ?_ ?_ ?_

theorem within_darkSite {S : List StatePart} {s0 : State} {i : Nat} {d : Domain} {mv : Nat} {inj : Bool} {s : State}
    (hS : Covers S [.fp, .host, .inProgress, .mgmt, .measure, .ev, .parts, .pwr, .fw, .err, .installs, .fab, .hbms, .bufs, .engines, .links, .mem, .bays, .cores, .hostMem, .bootGeneration, .bootFailures, .bootLog])
    (hw : Within S s0 s) : Within S s0 (darkSite i d mv inj s) := by
  unfold darkSite
  repeat' first
    | with_reducible assumption
    | intro _
    | with_reducible refine within_loseSites (hS.mono (by decide)) ?_
    | with_reducible refine within_raise1 (hS.mono (by decide)) ?_
    | split
    | dsimp only

theorem within_ceilingLowered {S : List StatePart} {s0 : State} {i : Nat} {d : Domain} {old : Nat} {new : Nat} {s : State}
    (hS : Covers S [.host, .ev, .fw, .hostMem])
    (hw : Within S s0 s) : Within S s0 (ceilingLowered i d old new s) := by
  unfold ceilingLowered
  repeat' first
    | with_reducible assumption
    | intro _
    | with_reducible refine within_raise1 (hS.mono (by decide)) ?_
    | with_reducible refine Within.ite ?_ ?_
    | split
    | dsimp only

theorem within_execPhaseLost {S : List StatePart} {s0 : State} {p : SiteId} {d : Domain} {phase : Fin 16} {time : Nat} {s : State}
    (hS : Covers S [.now, .host, .ev, .pwr, .fw, .err, .bays, .hostMem, .bootLog])
    (hw : Within S s0 s) : OutWithin S s0 (execPhaseLost p d phase time s) := by
  unfold execPhaseLost
  repeat' first
    | with_reducible assumption
    | intro _
    | with_reducible refine within_atTime (hS.mono (by decide)) ?_
    | with_reducible refine within_ceilingLowered (hS.mono (by decide)) ?_
    | with_reducible refine within_examine (hS.mono (by decide)) ?_
    | with_reducible refine within_logAdd (hS.mono (by decide)) ?_
    | with_reducible refine within_modPwr (hS.mono (by decide)) ?_
    | with_reducible refine within_raise1 (hS.mono (by decide)) ?_
    | with_reducible refine within_scoreWear (hS.mono (by decide)) ?_
    | with_reducible refine within_settleBoost (hS.mono (by decide)) ?_
    | with_reducible refine OutWithin.next ?_
    | exact OutWithin.fault _ _ _
    | with_reducible refine OutWithin.ite ?_ ?_
    | with_reducible refine Within.ite ?_ ?_
    | split
    | dsimp only

theorem within_execDomainDark {S : List StatePart} {s0 : State} {p : SiteId} {d : Domain} {mv : Nat} {time : Nat} {s : State}
    (hS : Covers S [.now, .fp, .host, .inProgress, .mgmt, .measure, .ev, .parts, .pwr, .fw, .err, .installs, .fab, .hbms, .bufs, .engines, .links, .mem, .bays, .cores, .hostMem, .bootGeneration, .bootFailures, .bootLog])
    (hw : Within S s0 s) : OutWithin S s0 (execDomainDark p d mv time s) := by
  unfold execDomainDark
  repeat' first
    | with_reducible assumption
    | intro _
    | with_reducible refine within_atTime (hS.mono (by decide)) ?_
    | with_reducible refine within_darkSite (hS.mono (by decide)) ?_
    | with_reducible refine OutWithin.next ?_
    | exact OutWithin.fault _ _ _
    | with_reducible refine OutWithin.ite ?_ ?_
    | with_reducible refine Within.ite ?_ ?_
    | split
    | dsimp only

theorem within_reportSiteTrip {S : List StatePart} {s0 : State} {i : Nat} {overload : Bool} {peak : Nat} {inj : Bool} {s : State}
    (hS : Covers S [.host, .ev, .fw, .err, .hostMem, .bootLog])
    (hw : Within S s0 s) : Within S s0 (reportSiteTrip i overload peak inj s) := by
  unfold reportSiteTrip
  repeat' first
    | with_reducible assumption
    | intro _
    | with_reducible refine within_logAdd (hS.mono (by decide)) ?_
    | with_reducible refine within_raise1 (hS.mono (by decide)) ?_
    | split
    | dsimp only

theorem within_overrideReason {S : List StatePart} {s0 : State} {i : Nat} {s : State}
    (hS : Covers S [.fp, .host, .ev, .pwr, .fw, .hostMem, .bootGeneration, .bootFailures])
    (hw : Within S s0 s) : Within S s0 (overrideReason i s) := by
  unfold overrideReason
  repeat' first
    | with_reducible assumption
    | intro _
    | with_reducible refine within_modEntry (hS.mono (by decide)) ?_
    | with_reducible refine within_modPwr (hS.mono (by decide)) ?_
    | with_reducible refine within_recordChange (hS.mono (by decide)) ?_ ?_
    | with_reducible refine within_recordFailure (hS.mono (by decide)) ?_
    | split
    | dsimp only

theorem within_execSiteTrip {S : List StatePart} {s0 : State} {p : SiteId} {overload : Bool} {peak : Nat} {time : Nat} {s : State}
    (hS : Covers S [.now, .fp, .host, .inProgress, .mgmt, .measure, .ev, .parts, .pwr, .fw, .err, .installs, .fab, .hbms, .bufs, .engines, .links, .mem, .bays, .cores, .hostMem, .bootGeneration, .bootFailures, .bootLog])
    (hw : Within S s0 s) : OutWithin S s0 (execSiteTrip p overload peak time s) := by
  unfold execSiteTrip
  repeat' first
    | with_reducible assumption
    | intro _
    | with_reducible refine within_atTime (hS.mono (by decide)) ?_
    | with_reducible refine within_examine (hS.mono (by decide)) ?_
    | with_reducible refine within_loseSites (hS.mono (by decide)) ?_
    | with_reducible refine within_overrideReason (hS.mono (by decide)) ?_
    | with_reducible refine within_reportSiteTrip (hS.mono (by decide)) ?_
    | with_reducible refine OutWithin.next ?_
    | exact OutWithin.fault _ _ _
    | with_reducible refine OutWithin.ite ?_ ?_
    | with_reducible refine Within.ite ?_ ?_
    | split
    | dsimp only

theorem within_endWaiting {S : List StatePart} {s0 : State} {n : Nat} {status : Nat} {s : State}
    (hS : Covers S [.host, .inProgress, .mgmt, .pwr, .hostMem])
    (hw : Within S s0 s) : Within S s0 (endWaiting n status s) := by
  unfold endWaiting
  repeat' first
    | with_reducible assumption
    | intro _
    | with_reducible refine within_complete (hS.mono (by decide)) ?_
    | with_reducible refine within_modQuad (hS.mono (by decide)) ?_
    | with_reducible refine Within.foldl _ _ (fun s a h => ?_) ?_
    | with_reducible refine Within.foldl_fourth _ _ (fun r a h => ?_) ?_
    | with_reducible refine Within.foldl_third _ _ (fun r a h => ?_) ?_
    | with_reducible refine Within.foldl_snd _ _ (fun r a h => ?_) ?_
    | with_reducible refine Within.foldl_fst _ _ (fun r a h => ?_) ?_
    | split
    | dsimp only

theorem within_execQuadrantTrip {S : List StatePart} {s0 : State} {n : Fin 4} {overload : Bool} {peak : Nat} {time : Nat} {s : State}
    (hS : Covers S [.now, .fp, .host, .inProgress, .mgmt, .measure, .ev, .parts, .pwr, .fw, .err, .installs, .fab, .hbms, .bufs, .engines, .links, .mem, .bays, .cores, .hostMem, .bootGeneration, .bootFailures, .bootLog])
    (hw : Within S s0 s) : OutWithin S s0 (execQuadrantTrip n overload peak time s) := by
  unfold execQuadrantTrip
  repeat' first
    | with_reducible assumption
    | intro _
    | with_reducible refine within_atTime (hS.mono (by decide)) ?_
    | with_reducible refine within_endWaiting (hS.mono (by decide)) ?_
    | with_reducible refine within_examine (hS.mono (by decide)) ?_
    | with_reducible refine within_logAdd (hS.mono (by decide)) ?_
    | with_reducible refine within_loseSites (hS.mono (by decide)) ?_
    | with_reducible refine within_modQuad (hS.mono (by decide)) ?_
    | with_reducible refine within_raiseCritical (hS.mono (by decide)) ?_
    | with_reducible refine OutWithin.next ?_
    | exact OutWithin.fault _ _ _
    | with_reducible refine OutWithin.ite ?_ ?_
    | with_reducible refine Within.ite ?_ ?_
    | split
    | dsimp only

theorem within_execSensorRetired {S : List StatePart} {s0 : State} {p : SiteId} {d : Domain} {sensor : Fin 64} {mv : Nat} {time : Nat} {s : State}
    (hS : Covers S [.now, .fp, .host, .inProgress, .mgmt, .measure, .ev, .parts, .pwr, .fw, .err, .installs, .fab, .hbms, .bufs, .engines, .links, .mem, .bays, .cores, .hostMem, .bootGeneration, .bootFailures, .bootLog])
    (hw : Within S s0 s) : OutWithin S s0 (execSensorRetired p d sensor mv time s) := by
  unfold execSensorRetired
  repeat' first
    | with_reducible assumption
    | intro _
    | with_reducible refine within_atTime (hS.mono (by decide)) ?_
    | with_reducible refine within_darkSite (hS.mono (by decide)) ?_
    | with_reducible refine within_examineInj (hS.mono (by decide)) ?_
    | with_reducible refine within_logAdd (hS.mono (by decide)) ?_
    | with_reducible refine within_modPwr (hS.mono (by decide)) ?_
    | with_reducible refine within_raise1 (hS.mono (by decide)) ?_
    | with_reducible refine within_scoreWear (hS.mono (by decide)) ?_
    | with_reducible refine OutWithin.next ?_
    | exact OutWithin.fault _ _ _
    | with_reducible refine OutWithin.ite ?_ ?_
    | with_reducible refine Within.ite ?_ ?_
    | split
    | dsimp only

theorem within_pathChange {S : List StatePart} {s0 : State} {i : Nat} {d : Domain} {old : PathState} {new : PathState} {inj : Bool} {s : State}
    (hS : Covers S [.host, .ev, .fw, .err, .hostMem, .bootLog])
    (hw : Within S s0 s) : Within S s0 (pathChange i d old new inj s) := by
  unfold pathChange
  repeat' first
    | with_reducible assumption
    | intro _
    | with_reducible refine within_raise1 (hS.mono (by decide)) ?_
    | with_reducible refine within_scoreWear (hS.mono (by decide)) ?_
    | with_reducible refine Within.ite ?_ ?_
    | split
    | dsimp only

theorem within_execPathEstimate {S : List StatePart} {s0 : State} {p : SiteId} {d : Domain} {r : PathReading} {time : Nat} {s : State}
    (hS : Covers S [.now, .host, .ev, .pwr, .fw, .err, .hostMem, .bootLog])
    (hw : Within S s0 s) : OutWithin S s0 (execPathEstimate p d r time s) := by
  unfold execPathEstimate
  repeat' first
    | with_reducible assumption
    | intro _
    | with_reducible refine within_atTime (hS.mono (by decide)) ?_
    | with_reducible refine within_examineInj (hS.mono (by decide)) ?_
    | with_reducible refine within_modPwr (hS.mono (by decide)) ?_
    | with_reducible refine within_pathChange (hS.mono (by decide)) ?_
    | with_reducible refine OutWithin.next ?_
    | exact OutWithin.fault _ _ _
    | with_reducible refine OutWithin.ite ?_ ?_
    | with_reducible refine Within.ite ?_ ?_
    | split
    | dsimp only

theorem within_beginRamp {S : List StatePart} {s0 : State} {i : Nat} {s : State}
    (hS : Covers S [.pwr, .cool])
    (hw : Within S s0 s) : Within S s0 (beginRamp i s) := by
  unfold beginRamp
  repeat' first
    | with_reducible assumption
    | (intro m; cases m; constructor <;> first | with_reducible assumption | (refine keysRise_mapDelRange _ _ _ ?_; with_reducible assumption) | rfl)
    | (intro (p : StatePart); cases p <;> first | exact Or.inl (hS.part (by decide)) | with_reducible exact Or.inr rfl | with_reducible exact Or.inr ⟨rfl, rfl⟩ | with_reducible exact Or.inr (Nat.le_refl _))
    | intro _
    | with_reducible refine within_modPwr (hS.mono (by decide)) ?_
    | split
    | dsimp only
    | with_reducible refine Within.upd rfl ?_ ?_ ?_

theorem within_applyLanes {S : List StatePart} {s0 : State} {c : Cmd} {l : Nat} {mask : Nat} {s : State}
    (hS : Covers S [.fp, .host, .inProgress, .mgmt, .measure, .ev, .parts, .pwr, .fw, .installs, .fab, .links, .hostMem, .bootGeneration])
    (hw : Within S s0 s) : Within S s0 (applyLanes c l mask s) := by
  unfold applyLanes
  repeat' first
    | with_reducible assumption
    | intro _
    | with_reducible refine within_beginTraining (hS.mono (by decide)) ?_
    | with_reducible refine within_complete (hS.mono (by decide)) ?_
    | with_reducible refine within_linkLost (hS.mono (by decide)) ?_
    | with_reducible refine within_modLink (hS.mono (by decide)) ?_
    | with_reducible refine within_modPwr (hS.mono (by decide)) ?_
    | with_reducible refine Within.foldl _ _ (fun s a h => ?_) ?_
    | with_reducible refine Within.foldl_fourth _ _ (fun r a h => ?_) ?_
    | with_reducible refine Within.foldl_third _ _ (fun r a h => ?_) ?_
    | with_reducible refine Within.foldl_snd _ _ (fun r a h => ?_) ?_
    | with_reducible refine Within.foldl_fst _ _ (fun r a h => ?_) ?_
    | with_reducible refine Within.ite ?_ ?_
    | split
    | dsimp only

theorem within_beginPowerOn {S : List StatePart} {s0 : State} {n : Nat} {w : PowerOnWait} {s : State}
    (hS : Covers S [.fp, .host, .inProgress, .mgmt, .measure, .ev, .parts, .pwr, .fw, .cool, .installs, .fab, .hbms, .links, .hostMem, .bootGeneration])
    (hw : Within S s0 s) : Within S s0 (beginPowerOn n w s) := by
  unfold beginPowerOn
  repeat' first
    | with_reducible assumption
    | intro _
    | with_reducible refine within_applyLanes (hS.mono (by decide)) ?_
    | with_reducible refine within_beginRamp (hS.mono (by decide)) ?_
    | with_reducible refine within_complete (hS.mono (by decide)) ?_
    | with_reducible refine within_modPwr (hS.mono (by decide)) ?_
    | with_reducible refine within_modQuad (hS.mono (by decide)) ?_
    | with_reducible refine within_restartPatrol (hS.mono (by decide)) ?_
    | with_reducible refine Within.foldl _ _ (fun s a h => ?_) ?_
    | with_reducible refine Within.foldl_fourth _ _ (fun r a h => ?_) ?_
    | with_reducible refine Within.foldl_third _ _ (fun r a h => ?_) ?_
    | with_reducible refine Within.foldl_snd _ _ (fun r a h => ?_) ?_
    | with_reducible refine Within.foldl_fst _ _ (fun r a h => ?_) ?_
    | with_reducible refine Within.ite ?_ ?_
    | split
    | dsimp only

theorem within_tryBegin {S : List StatePart} {s0 : State} {n : Nat} {s : State}
    (hS : Covers S [.fp, .host, .inProgress, .mgmt, .measure, .ev, .parts, .pwr, .fw, .cool, .installs, .fab, .hbms, .links, .hostMem, .bootGeneration])
    (hw : Within S s0 s) : Within S s0 (tryBegin n s) := by
  unfold tryBegin
  repeat' first
    | with_reducible assumption
    | intro _
    | with_reducible refine within_beginPowerOn (hS.mono (by decide)) ?_
    | with_reducible refine Within.ite ?_ ?_
    | split
    | dsimp only

theorem within_execPowerOnBegin {S : List StatePart} {s0 : State} {n : Fin 4} {time : Nat} {s : State}
    (hS : Covers S [.now, .fp, .host, .inProgress, .mgmt, .measure, .ev, .parts, .pwr, .fw, .cool, .installs, .fab, .hbms, .links, .hostMem, .bootGeneration])
    (hw : Within S s0 s) : OutWithin S s0 (execPowerOnBegin n time s) := by
  unfold execPowerOnBegin
  repeat' first
    | with_reducible assumption
    | intro _
    | with_reducible refine within_atTime (hS.mono (by decide)) ?_
    | with_reducible refine within_tryBegin (hS.mono (by decide)) ?_
    | with_reducible refine OutWithin.next ?_
    | exact OutWithin.fault _ _ _
    | split
    | dsimp only

theorem within_execPowerOnTimeout {S : List StatePart} {s0 : State} {n : Fin 4} {time : Nat} {s : State}
    (hS : Covers S [.now, .host, .inProgress, .mgmt, .pwr, .hostMem])
    (hw : Within S s0 s) : OutWithin S s0 (execPowerOnTimeout n time s) := by
  unfold execPowerOnTimeout
  repeat' first
    | with_reducible assumption
    | intro _
    | with_reducible refine within_atTime (hS.mono (by decide)) ?_
    | with_reducible refine within_complete (hS.mono (by decide)) ?_
    | with_reducible refine within_modQuad (hS.mono (by decide)) ?_
    | with_reducible refine OutWithin.next ?_
    | exact OutWithin.fault _ _ _
    | split
    | dsimp only

theorem within_procFromReset {S : List StatePart} {s0 : State} {n : Nat} {s : State}
    (hS : Covers S [.host, .inProgress, .mgmt, .ev, .fw, .hostMem])
    (hw : Within S s0 s) : Within S s0 (procFromReset n s) := by
  unfold procFromReset
  repeat' first
    | with_reducible assumption
    | intro _
    | with_reducible refine within_completeOpt (hS.mono (by decide)) ?_
    | with_reducible refine within_flushLatched (hS.mono (by decide)) ?_
    | with_reducible refine within_modProc (hS.mono (by decide)) ?_
    | with_reducible refine within_raise1 (hS.mono (by decide)) ?_
    | with_reducible refine Within.ite ?_ ?_
    | split
    | dsimp only

theorem within_dieTested {S : List StatePart} {s0 : State} {i : Nat} {r : SelfTest} {s : State}
    (hS : Covers S [.fp, .host, .ev, .fw, .err, .hostMem, .bootGeneration, .bootFailures, .bootLog])
    (hw : Within S s0 s) : Within S s0 (dieTested i r s) := by
  unfold dieTested
  repeat' first
    | with_reducible assumption
    | intro _
    | with_reducible refine within_failCore (hS.mono (by decide)) ?_
    | with_reducible refine within_logAdd (hS.mono (by decide)) ?_
    | with_reducible refine within_modEntry (hS.mono (by decide)) ?_
    | with_reducible refine within_oneChange (hS.mono (by decide)) ?_ ?_
    | with_reducible refine within_recordChange (hS.mono (by decide)) ?_ ?_
    | with_reducible refine within_recordFailure (hS.mono (by decide)) ?_
    | with_reducible refine Within.foldl _ _ (fun s a h => ?_) ?_
    | with_reducible refine Within.foldl_fourth _ _ (fun r a h => ?_) ?_
    | with_reducible refine Within.foldl_third _ _ (fun r a h => ?_) ?_
    | with_reducible refine Within.foldl_snd _ _ (fun r a h => ?_) ?_
    | with_reducible refine Within.foldl_fst _ _ (fun r a h => ?_) ?_
    | with_reducible refine Within.ite ?_ ?_
    | split
    | dsimp only

theorem within_loadCores {S : List StatePart} {s0 : State} {i : Nat} {s : State}
    (hS : Covers S [.fp, .host, .ev, .fw, .err, .cores, .hostMem, .bootGeneration, .bootFailures, .bootLog])
    (hw : Within S s0 s) : Within S s0 (loadCores i s) := by
  unfold loadCores
  repeat' first
    | with_reducible assumption
    | intro _
    | with_reducible refine within_loadMicro (hS.mono (by decide)) ?_
    | with_reducible refine Within.foldl _ _ (fun s a h => ?_) ?_
    | with_reducible refine Within.foldl_fourth _ _ (fun r a h => ?_) ?_
    | with_reducible refine Within.foldl_third _ _ (fun r a h => ?_) ?_
    | with_reducible refine Within.foldl_snd _ _ (fun r a h => ?_) ?_
    | with_reducible refine Within.foldl_fst _ _ (fun r a h => ?_) ?_
    | with_reducible refine Within.ite ?_ ?_
    | split
    | dsimp only

theorem within_startLinks {S : List StatePart} {s0 : State} {i : Nat} {s : State}
    (hS : Covers S [.parts, .links])
    (hw : Within S s0 s) : Within S s0 (startLinks i s) := by
  unfold startLinks
  repeat' first
    | with_reducible assumption
    | (intro m; cases m; constructor <;> first | with_reducible assumption | (refine keysRise_mapDel _ _ ?_; with_reducible assumption) | (simp [modAt, copies, *]; done))
    | (intro (p : StatePart); cases p <;> first | exact Or.inl (hS.part (by decide)) | with_reducible exact Or.inr rfl | with_reducible exact Or.inr ⟨rfl, rfl⟩ | with_reducible exact Or.inr (Nat.le_refl _))
    | intro _
    | with_reducible refine within_beginTraining (hS.mono (by decide)) ?_
    | with_reducible refine Within.foldl _ _ (fun s a h => ?_) ?_
    | with_reducible refine Within.foldl_fourth _ _ (fun r a h => ?_) ?_
    | with_reducible refine Within.foldl_third _ _ (fun r a h => ?_) ?_
    | with_reducible refine Within.foldl_snd _ _ (fun r a h => ?_) ?_
    | with_reducible refine Within.foldl_fst _ _ (fun r a h => ?_) ?_
    | split
    | dsimp only
    | with_reducible refine Within.upd rfl ?_ ?_ ?_

theorem within_dieStarts {S : List StatePart} {s0 : State} {i : Nat} {r : SelfTest} {s : State}
    (hS : Covers S [.fp, .host, .inProgress, .mgmt, .ev, .parts, .pwr, .fw, .err, .links, .cores, .hostMem, .bootGeneration, .bootFailures, .bootLog])
    (hw : Within S s0 s) : Within S s0 (dieStarts i r s) := by
  unfold dieStarts
  repeat' first
    | with_reducible assumption
    | intro _
    | with_reducible refine within_dieTested (hS.mono (by decide)) ?_
    | with_reducible refine within_loadCores (hS.mono (by decide)) ?_
    | with_reducible refine within_modPwr (hS.mono (by decide)) ?_
    | with_reducible refine within_procFromReset (hS.mono (by decide)) ?_
    | with_reducible refine within_startLinks (hS.mono (by decide)) ?_
    | with_reducible refine Within.ite ?_ ?_
    | split
    | dsimp only

theorem within_execSiteOnComplete {S : List StatePart} {s0 : State} {p : SiteId} {r : SelfTest} {time : Nat} {s : State}
    (hS : Covers S [.now, .fp, .host, .inProgress, .mgmt, .ev, .parts, .pwr, .fw, .err, .links, .cores, .hostMem, .bootGeneration, .bootFailures, .bootLog])
    (hw : Within S s0 s) : OutWithin S s0 (execSiteOnComplete p r time s) := by
  unfold execSiteOnComplete
  repeat' first
    | with_reducible assumption
    | intro _
    | with_reducible refine within_atTime (hS.mono (by decide)) ?_
    | with_reducible refine within_complete (hS.mono (by decide)) ?_
    | with_reducible refine within_dieStarts (hS.mono (by decide)) ?_
    | with_reducible refine within_modPwr (hS.mono (by decide)) ?_
    | with_reducible refine OutWithin.next ?_
    | exact OutWithin.fault _ _ _
    | split
    | dsimp only

theorem within_queuePowerOn {S : List StatePart} {s0 : State} {c : Cmd} {pay : List Byte} {s : State}
    (hS : Covers S [.fp, .host, .inProgress, .mgmt, .measure, .ev, .parts, .pwr, .fw, .cool, .installs, .fab, .hbms, .links, .hostMem, .bootGeneration])
    (hw : Within S s0 s) : Within S s0 (queuePowerOn c pay s) := by
  unfold queuePowerOn
  repeat' first
    | with_reducible assumption
    | intro _
    | with_reducible refine within_modQuad (hS.mono (by decide)) ?_
    | with_reducible refine within_tryBegin (hS.mono (by decide)) ?_
    | with_reducible refine Within.ite ?_ ?_
    | split
    | dsimp only

theorem within_applyPower {S : List StatePart} {s0 : State} {c : Cmd} {pay : List Byte} {s : State}
    (hS : Covers S [.fp, .host, .inProgress, .mgmt, .measure, .ev, .parts, .pwr, .fw, .err, .cool, .installs, .fab, .hbms, .bufs, .engines, .links, .mem, .cores, .hostMem, .bootGeneration])
    (hw : Within S s0 s) : Within S s0 (applyPower c pay s) := by
  unfold applyPower
  repeat' first
    | with_reducible assumption
    | intro _
    | with_reducible refine within_applyLanes (hS.mono (by decide)) ?_
    | with_reducible refine within_complete (hS.mono (by decide)) ?_
    | with_reducible refine within_endDieReset (hS.mono (by decide)) ?_
    | with_reducible refine within_modPwr (hS.mono (by decide)) ?_
    | with_reducible refine within_queuePowerOn (hS.mono (by decide)) ?_
    | with_reducible refine within_recordDark (hS.mono (by decide)) ?_
    | with_reducible refine within_unpowerSites (hS.mono (by decide)) ?_
    | with_reducible refine Within.ite ?_ ?_
    | split
    | dsimp only

theorem within_doPowerSet {S : List StatePart} {s0 : State} {c : Cmd} {pay : List Byte} {s : State}
    (hS : Covers S [.fp, .host, .inProgress, .mgmt, .measure, .ev, .parts, .pwr, .fw, .err, .cool, .installs, .fab, .hbms, .bufs, .engines, .links, .mem, .cores, .hostMem, .bootGeneration])
    (hw : Within S s0 s) : Within S s0 (doPowerSet c pay s) := by
  unfold doPowerSet
  repeat' first
    | with_reducible assumption
    | intro _
    | with_reducible refine within_applyPower (hS.mono (by decide)) ?_
    | with_reducible refine within_checked (hS.mono (by decide)) ?_ ?_
    | with_reducible refine within_complete (hS.mono (by decide)) ?_
    | with_reducible refine within_needProc (hS.mono (by decide)) ?_ ?_
    | with_reducible refine Within.ite ?_ ?_
    | split
    | dsimp only

theorem within_execSiteOn {S : List StatePart} {s0 : State} {c : Cmd} {s : State}
    (hS : Covers S [.now, .fp, .host, .inProgress, .mgmt, .measure, .ev, .parts, .pwr, .fw, .err, .cool, .installs, .fab, .hbms, .bufs, .engines, .links, .mem, .cores, .hostMem, .bootGeneration])
    (hw : Within S s0 s) : OutWithin S s0 (execSiteOn c s) := by
  unfold execSiteOn
  repeat' first
    | with_reducible assumption
    | intro _
    | with_reducible refine within_doPowerSet (hS.mono (by decide)) ?_
    | with_reducible refine within_runRow (hS.mono (by decide)) ?_ ?_
    | with_reducible refine OutWithin.next ?_
    | exact OutWithin.fault _ _ _
    | split
    | dsimp only

theorem within_execSiteOff {S : List StatePart} {s0 : State} {c : Cmd} {s : State}
    (hS : Covers S [.now, .fp, .host, .inProgress, .mgmt, .measure, .ev, .parts, .pwr, .fw, .err, .cool, .installs, .fab, .hbms, .bufs, .engines, .links, .mem, .cores, .hostMem, .bootGeneration])
    (hw : Within S s0 s) : OutWithin S s0 (execSiteOff c s) := by
  unfold execSiteOff
  repeat' first
    | with_reducible assumption
    | intro _
    | with_reducible refine within_doPowerSet (hS.mono (by decide)) ?_
    | with_reducible refine within_runRow (hS.mono (by decide)) ?_ ?_
    | with_reducible refine OutWithin.next ?_
    | exact OutWithin.fault _ _ _
    | split
    | dsimp only

theorem within_execSelfRefreshEnter {S : List StatePart} {s0 : State} {c : Cmd} {s : State}
    (hS : Covers S [.now, .fp, .host, .inProgress, .mgmt, .measure, .ev, .parts, .pwr, .fw, .err, .cool, .installs, .fab, .hbms, .bufs, .engines, .links, .mem, .cores, .hostMem, .bootGeneration])
    (hw : Within S s0 s) : OutWithin S s0 (execSelfRefreshEnter c s) := by
  unfold execSelfRefreshEnter
  repeat' first
    | with_reducible assumption
    | intro _
    | with_reducible refine within_doPowerSet (hS.mono (by decide)) ?_
    | with_reducible refine within_runRow (hS.mono (by decide)) ?_ ?_
    | with_reducible refine OutWithin.next ?_
    | exact OutWithin.fault _ _ _
    | split
    | dsimp only

theorem within_execSelfRefreshExit {S : List StatePart} {s0 : State} {c : Cmd} {s : State}
    (hS : Covers S [.now, .fp, .host, .inProgress, .mgmt, .measure, .ev, .parts, .pwr, .fw, .err, .cool, .installs, .fab, .hbms, .bufs, .engines, .links, .mem, .cores, .hostMem, .bootGeneration])
    (hw : Within S s0 s) : OutWithin S s0 (execSelfRefreshExit c s) := by
  unfold execSelfRefreshExit
  repeat' first
    | with_reducible assumption
    | intro _
    | with_reducible refine within_doPowerSet (hS.mono (by decide)) ?_
    | with_reducible refine within_runRow (hS.mono (by decide)) ?_ ?_
    | with_reducible refine OutWithin.next ?_
    | exact OutWithin.fault _ _ _
    | split
    | dsimp only

theorem within_execLanes {S : List StatePart} {s0 : State} {c : Cmd} {s : State}
    (hS : Covers S [.now, .fp, .host, .inProgress, .mgmt, .measure, .ev, .parts, .pwr, .fw, .err, .cool, .installs, .fab, .hbms, .bufs, .engines, .links, .mem, .cores, .hostMem, .bootGeneration])
    (hw : Within S s0 s) : OutWithin S s0 (execLanes c s) := by
  unfold execLanes
  repeat' first
    | with_reducible assumption
    | intro _
    | with_reducible refine within_doPowerSet (hS.mono (by decide)) ?_
    | with_reducible refine within_runRow (hS.mono (by decide)) ?_ ?_
    | with_reducible refine OutWithin.next ?_
    | exact OutWithin.fault _ _ _
    | split
    | dsimp only

theorem within_execQuadrantOn {S : List StatePart} {s0 : State} {c : Cmd} {s : State}
    (hS : Covers S [.now, .fp, .host, .inProgress, .mgmt, .measure, .ev, .parts, .pwr, .fw, .err, .cool, .installs, .fab, .hbms, .bufs, .engines, .links, .mem, .cores, .hostMem, .bootGeneration])
    (hw : Within S s0 s) : OutWithin S s0 (execQuadrantOn c s) := by
  unfold execQuadrantOn
  repeat' first
    | with_reducible assumption
    | intro _
    | with_reducible refine within_doPowerSet (hS.mono (by decide)) ?_
    | with_reducible refine within_runRow (hS.mono (by decide)) ?_ ?_
    | with_reducible refine OutWithin.next ?_
    | exact OutWithin.fault _ _ _
    | split
    | dsimp only

theorem within_doCeilingSet {S : List StatePart} {s0 : State} {c : Cmd} {pay : List Byte} {s : State}
    (hS : Covers S [.host, .inProgress, .mgmt, .pwr, .fw, .bays, .hostMem])
    (hw : Within S s0 s) : Within S s0 (doCeilingSet c pay s) := by
  unfold doCeilingSet
  repeat' first
    | with_reducible assumption
    | (intro m; cases m; constructor <;> first | with_reducible assumption)
    | (intro (p : StatePart); cases p <;> first | exact Or.inl (hS.part (by decide)) | with_reducible exact Or.inr rfl | with_reducible exact Or.inr ⟨rfl, rfl⟩ | with_reducible exact Or.inr (Nat.le_refl _))
    | intro _
    | with_reducible refine within_checked (hS.mono (by decide)) ?_ ?_
    | with_reducible refine within_complete (hS.mono (by decide)) ?_
    | with_reducible refine within_modPwr (hS.mono (by decide)) ?_
    | with_reducible refine within_needProc (hS.mono (by decide)) ?_ ?_
    | with_reducible refine within_settleBoost (hS.mono (by decide)) ?_
    | with_reducible refine Within.ite ?_ ?_
    | split
    | dsimp only
    | with_reducible refine Within.upd rfl ?_ ?_ ?_

theorem within_execCeilingSet {S : List StatePart} {s0 : State} {c : Cmd} {s : State}
    (hS : Covers S [.now, .host, .inProgress, .mgmt, .pwr, .fw, .bays, .hostMem])
    (hw : Within S s0 s) : OutWithin S s0 (execCeilingSet c s) := by
  unfold execCeilingSet
  repeat' first
    | with_reducible assumption
    | intro _
    | with_reducible refine within_doCeilingSet (hS.mono (by decide)) ?_
    | with_reducible refine within_runRow (hS.mono (by decide)) ?_ ?_
    | with_reducible refine OutWithin.next ?_
    | exact OutWithin.fault _ _ _
    | split
    | dsimp only

theorem within_doPowerStatus {S : List StatePart} {s0 : State} {c : Cmd} {pay : List Byte} {s : State}
    (hS : Covers S [.host, .inProgress, .mgmt, .fw, .hostMem])
    (hw : Within S s0 s) : Within S s0 (doPowerStatus c pay s) := by
  unfold doPowerStatus
  repeat' first
    | with_reducible assumption
    | intro _
    | with_reducible refine within_checked (hS.mono (by decide)) ?_ ?_
    | with_reducible refine within_completeWithBuf (hS.mono (by decide)) ?_
    | with_reducible refine within_needProc (hS.mono (by decide)) ?_ ?_
    | split
    | dsimp only

theorem within_execPowerStatus {S : List StatePart} {s0 : State} {c : Cmd} {s : State}
    (hS : Covers S [.now, .host, .inProgress, .mgmt, .fw, .hostMem])
    (hw : Within S s0 s) : OutWithin S s0 (execPowerStatus c s) := by
  unfold execPowerStatus
  repeat' first
    | with_reducible assumption
    | intro _
    | with_reducible refine within_doPowerStatus (hS.mono (by decide)) ?_
    | with_reducible refine within_runRow (hS.mono (by decide)) ?_ ?_
    | with_reducible refine OutWithin.next ?_
    | exact OutWithin.fault _ _ _
    | split
    | dsimp only

end Sys2Proof.Laws
end

