-- ==== Sys2Proof/Laws/FrameFirmware.lean ====
section
/-! SUPPORT. What each operation of Machine/Firmware.lean may change. -/

set_option linter.unusedTactic false
set_option linter.unreachableTactic false
set_option linter.unusedVariables false
set_option linter.unusedSimpArgs false

namespace Sys2Proof.Laws

open Machine

theorem within_cutCmd {S : List StatePart} {s0 : State} {status : Nat} {detail : Nat} {c : Option Cmd} {s : State}
    (hS : Covers S [.host, .inProgress, .mgmt, .hostMem])
    (hw : Within S s0 s) : Within S s0 (cutCmd status detail c s) := by
  unfold cutCmd
  repeat' first
    | with_reducible assumption
    | intro _
    | with_reducible refine within_completeOpt (hS.mono (by decide)) ?_
    | split
    | dsimp only

theorem within_cutWaiting {S : List StatePart} {s0 : State} {status : Nat} {s : State}
    (hS : Covers S [.host, .inProgress, .mgmt, .pwr, .hostMem])
    (hw : Within S s0 s) : Within S s0 (cutWaiting status s) := by
  unfold cutWaiting
  repeat' first
    | with_reducible assumption
    | intro _
    | with_reducible refine within_endWaiting (hS.mono (by decide)) ?_
    | with_reducible refine Within.foldl _ _ (fun s a h => ?_) ?_
    | with_reducible refine Within.foldl_fourth _ _ (fun r a h => ?_) ?_
    | with_reducible refine Within.foldl_third _ _ (fun r a h => ?_) ?_
    | with_reducible refine Within.foldl_snd _ _ (fun r a h => ?_) ?_
    | with_reducible refine Within.foldl_fst _ _ (fun r a h => ?_) ?_
    | split
    | dsimp only

theorem within_cutSupervisor {S : List StatePart} {s0 : State} {i : Nat} {status : Nat} {s : State}
    (hS : Covers S [.fp, .host, .inProgress, .mgmt, .hostMem])
    (hw : Within S s0 s) : Within S s0 (cutSupervisor i status s) := by
  unfold cutSupervisor
  repeat' first
    | with_reducible assumption
    | (intro m; cases m; constructor <;> first | with_reducible assumption | (refine keysRise_mapDel _ _ ?_; with_reducible assumption))
    | (intro (p : StatePart); cases p <;> first | exact Or.inl (hS.part (by decide)) | with_reducible exact Or.inr rfl | with_reducible exact Or.inr ⟨rfl, rfl⟩ | with_reducible exact Or.inr (Nat.le_refl _))
    | intro _
    | with_reducible refine within_cutCmd (hS.mono (by decide)) ?_
    | with_reducible refine Within.foldl _ _ (fun s a h => ?_) ?_
    | with_reducible refine Within.foldl_fourth _ _ (fun r a h => ?_) ?_
    | with_reducible refine Within.foldl_third _ _ (fun r a h => ?_) ?_
    | with_reducible refine Within.foldl_snd _ _ (fun r a h => ?_) ?_
    | with_reducible refine Within.foldl_fst _ _ (fun r a h => ?_) ?_
    | split
    | dsimp only
    | with_reducible refine Within.upd rfl ?_ ?_ ?_

theorem within_dropWaits {S : List StatePart} {s0 : State} {s : State}
    (hS : Covers S [.host, .fw])
    (hw : Within S s0 s) : Within S s0 (dropWaits s) := by
  unfold dropWaits
  repeat' first
    | with_reducible assumption
    | (intro m; cases m; constructor <;> first | with_reducible assumption | (refine keysRise_filter _ _ ?_; with_reducible assumption))
    | (intro (p : StatePart); cases p <;> first | exact Or.inl (hS.part (by decide)) | with_reducible exact Or.inr rfl | with_reducible exact Or.inr ⟨rfl, rfl⟩ | with_reducible exact Or.inr (Nat.le_refl _))
    | intro _
    | split
    | dsimp only
    | with_reducible refine Within.upd rfl ?_ ?_ ?_

theorem within_cutAll {S : List StatePart} {s0 : State} {status : Nat} {s : State}
    (hS : Covers S [.host, .inProgress, .mgmt, .measure, .ev, .fw, .installs, .hostMem])
    (hw : Within S s0 s) : Within S s0 (cutAll status s) := by
  unfold cutAll
  repeat' first
    | with_reducible assumption
    | intro _
    | with_reducible refine within_complete (hS.mono (by decide)) ?_
    | with_reducible refine within_dropHostImages (hS.mono (by decide)) ?_
    | with_reducible refine within_dropWaits (hS.mono (by decide)) ?_
    | with_reducible refine Within.foldl _ _ (fun s a h => ?_) ?_
    | with_reducible refine Within.foldl_fourth _ _ (fun r a h => ?_) ?_
    | with_reducible refine Within.foldl_third _ _ (fun r a h => ?_) ?_
    | with_reducible refine Within.foldl_snd _ _ (fun r a h => ?_) ?_
    | with_reducible refine Within.foldl_fst _ _ (fun r a h => ?_) ?_
    | split
    | dsimp only

theorem within_cutCommands {S : List StatePart} {s0 : State} {n : Nat} {status : Nat} {s : State}
    (hS : Covers S [.fp, .host, .inProgress, .mgmt, .measure, .ev, .pwr, .fw, .installs, .links, .hostMem])
    (hw : Within S s0 s) : Within S s0 (cutCommands n status s) := by
  unfold cutCommands
  repeat' first
    | with_reducible assumption
    | intro _
    | with_reducible refine within_complete (hS.mono (by decide)) ?_
    | with_reducible refine within_cutAll (hS.mono (by decide)) ?_
    | with_reducible refine within_cutCmd (hS.mono (by decide)) ?_
    | with_reducible refine within_cutSupervisor (hS.mono (by decide)) ?_
    | with_reducible refine within_cutWaiting (hS.mono (by decide)) ?_
    | with_reducible refine within_modLink (hS.mono (by decide)) ?_
    | with_reducible refine Within.foldl _ _ (fun s a h => ?_) ?_
    | with_reducible refine Within.foldl_fourth _ _ (fun r a h => ?_) ?_
    | with_reducible refine Within.foldl_third _ _ (fun r a h => ?_) ?_
    | with_reducible refine Within.foldl_snd _ _ (fun r a h => ?_) ?_
    | with_reducible refine Within.foldl_fst _ _ (fun r a h => ?_) ?_
    | with_reducible refine Within.ite ?_ ?_
    | split
    | dsimp only

theorem within_logRestart {S : List StatePart} {s0 : State} {n : Nat} {code : Nat} {inj : Bool} {s : State}
    (hS : Covers S [.err, .bootLog])
    (hw : Within S s0 s) : Within S s0 (logRestart n code inj s) := by
  unfold logRestart
  repeat' first
    | with_reducible assumption
    | intro _
    | with_reducible refine within_logAdd (hS.mono (by decide)) ?_
    | split
    | dsimp only

theorem within_beginRestart {S : List StatePart} {s0 : State} {n : Nat} {cause : Nat} {inj : Bool} {s : State}
    (hS : Covers S [.fp, .host, .inProgress, .mgmt, .measure, .ev, .pwr, .fw, .err, .installs, .links, .hostMem, .bootLog])
    (hw : Within S s0 s) : Within S s0 (beginRestart n cause inj s) := by
  unfold beginRestart
  repeat' first
    | with_reducible assumption
    | intro _
    | with_reducible refine within_cutCommands (hS.mono (by decide)) ?_
    | with_reducible refine within_logRestart (hS.mono (by decide)) ?_
    | with_reducible refine within_modProc (hS.mono (by decide)) ?_
    | with_reducible refine Within.ite ?_ ?_
    | split
    | dsimp only

theorem within_goOnApply {S : List StatePart} {s0 : State} {s : State}
    (hS : Covers S [.fp, .host, .inProgress, .mgmt, .measure, .ev, .pwr, .fw, .err, .installs, .links, .hostMem, .bootLog])
    (hw : Within S s0 s) : Within S s0 (goOnApply s) := by
  unfold goOnApply
  repeat' first
    | with_reducible assumption
    | (intro m; cases m; constructor <;> first | with_reducible assumption)
    | (intro (p : StatePart); cases p <;> first | exact Or.inl (hS.part (by decide)) | with_reducible exact Or.inr rfl | with_reducible exact Or.inr ⟨rfl, rfl⟩ | with_reducible exact Or.inr (Nat.le_refl _))
    | intro _
    | with_reducible refine within_beginRestart (hS.mono (by decide)) ?_
    | with_reducible refine within_completeOpt (hS.mono (by decide)) ?_
    | with_reducible refine within_raise1 (hS.mono (by decide)) ?_
    | split
    | dsimp only
    | with_reducible refine Within.upd rfl ?_ ?_ ?_

theorem within_stopApply {S : List StatePart} {s0 : State} {n : Nat} {s : State}
    (hS : Covers S [.host, .inProgress, .mgmt, .ev, .fw, .hostMem])
    (hw : Within S s0 s) : Within S s0 (stopApply n s) := by
  unfold stopApply
  repeat' first
    | with_reducible assumption
    | (intro m; cases m; constructor <;> first | with_reducible assumption)
    | (intro (p : StatePart); cases p <;> first | exact Or.inl (hS.part (by decide)) | with_reducible exact Or.inr rfl | with_reducible exact Or.inr ⟨rfl, rfl⟩ | with_reducible exact Or.inr (Nat.le_refl _))
    | intro _
    | with_reducible refine within_completeOpt (hS.mono (by decide)) ?_
    | with_reducible refine within_raise1 (hS.mono (by decide)) ?_
    | with_reducible refine Within.ite ?_ ?_
    | split
    | dsimp only
    | with_reducible refine Within.upd rfl ?_ ?_ ?_

theorem within_endWaits {S : List StatePart} {s0 : State} {n : Nat} {status : Nat} {s : State}
    (hS : Covers S [.host, .inProgress, .mgmt, .fw, .hostMem])
    (hw : Within S s0 s) : Within S s0 (endWaits n status s) := by
  unfold endWaits
  repeat' first
    | with_reducible assumption
    | (intro m; cases m; constructor <;> first | with_reducible assumption | (refine keysRise_filter _ _ ?_; with_reducible assumption))
    | (intro (p : StatePart); cases p <;> first | exact Or.inl (hS.part (by decide)) | with_reducible exact Or.inr rfl | with_reducible exact Or.inr ⟨rfl, rfl⟩ | with_reducible exact Or.inr (Nat.le_refl _))
    | intro _
    | with_reducible refine within_complete (hS.mono (by decide)) ?_
    | with_reducible refine Within.foldl _ _ (fun s a h => ?_) ?_
    | with_reducible refine Within.foldl_fourth _ _ (fun r a h => ?_) ?_
    | with_reducible refine Within.foldl_third _ _ (fun r a h => ?_) ?_
    | with_reducible refine Within.foldl_snd _ _ (fun r a h => ?_) ?_
    | with_reducible refine Within.foldl_fst _ _ (fun r a h => ?_) ?_
    | split
    | dsimp only
    | with_reducible refine Within.upd rfl ?_ ?_ ?_

theorem within_holdProc {S : List StatePart} {s0 : State} {n : Nat} {inj : Bool} {s : State}
    (hS : Covers S [.fp, .host, .inProgress, .mgmt, .measure, .ev, .pwr, .fw, .err, .installs, .links, .hostMem, .bootLog])
    (hw : Within S s0 s) : Within S s0 (holdProc n inj s) := by
  unfold holdProc
  repeat' first
    | with_reducible assumption
    | intro _
    | with_reducible refine within_completeOpt (hS.mono (by decide)) ?_
    | with_reducible refine within_cutCommands (hS.mono (by decide)) ?_
    | with_reducible refine within_endWaits (hS.mono (by decide)) ?_
    | with_reducible refine within_logRestart (hS.mono (by decide)) ?_
    | with_reducible refine within_modProc (hS.mono (by decide)) ?_
    | with_reducible refine within_raise1 (hS.mono (by decide)) ?_
    | with_reducible refine within_stopApply (hS.mono (by decide)) ?_
    | split
    | dsimp only

theorem within_countedRestart {S : List StatePart} {s0 : State} {n : Nat} {cause : Nat} {inj : Bool} {s : State}
    (hS : Covers S [.fp, .host, .inProgress, .mgmt, .measure, .ev, .pwr, .fw, .err, .installs, .links, .hostMem, .bootLog])
    (hw : Within S s0 s) : Within S s0 (countedRestart n cause inj s) := by
  unfold countedRestart
  repeat' first
    | with_reducible assumption
    | intro _
    | with_reducible refine within_beginRestart (hS.mono (by decide)) ?_
    | with_reducible refine within_holdProc (hS.mono (by decide)) ?_
    | with_reducible refine Within.ite ?_ ?_
    | split
    | dsimp only

theorem within_endMail {S : List StatePart} {s0 : State} {time : Nat} {status : Nat} {s : State}
    (hS : Covers S [.now, .host, .inProgress, .mgmt, .hostMem])
    (hw : Within S s0 s) : Within S s0 (endMail time status s) := by
  unfold endMail
  repeat' first
    | with_reducible assumption
    | intro _
    | with_reducible refine within_complete (hS.mono (by decide)) ?_
    | with_reducible refine within_takeCmd (hS.mono (by decide)) ?_
    | split
    | dsimp only

theorem within_execFwWaitExpired {S : List StatePart} {s0 : State} {id : BitVec 32} {time : Nat} {s : State}
    (hS : Covers S [.now, .host, .inProgress, .mgmt, .fw, .hostMem])
    (hw : Within S s0 s) : OutWithin S s0 (execFwWaitExpired id time s) := by
  unfold execFwWaitExpired
  repeat' first
    | with_reducible assumption
    | (intro m; cases m; constructor <;> first | with_reducible assumption)
    | (intro (p : StatePart); cases p <;> first | exact Or.inl (hS.part (by decide)) | with_reducible exact Or.inr rfl | with_reducible exact Or.inr ⟨rfl, rfl⟩ | with_reducible exact Or.inr (Nat.le_refl _))
    | intro _
    | with_reducible refine within_atTime (hS.mono (by decide)) ?_
    | with_reducible refine within_complete (hS.mono (by decide)) ?_
    | with_reducible refine within_endMail (hS.mono (by decide)) ?_
    | with_reducible refine OutWithin.next ?_
    | exact OutWithin.fault _ _ _
    | with_reducible refine OutWithin.ite ?_ ?_
    | with_reducible refine Within.ite ?_ ?_
    | split
    | dsimp only
    | with_reducible refine Within.upd rfl ?_ ?_ ?_

theorem within_procRunsAgain {S : List StatePart} {s0 : State} {n : Nat} {s : State}
    (hS : Covers S [.host, .inProgress, .mgmt, .ev, .fw, .hostMem])
    (hw : Within S s0 s) : Within S s0 (procRunsAgain n s) := by
  unfold procRunsAgain
  repeat' first
    | with_reducible assumption
    | intro _
    | with_reducible refine within_completeOpt (hS.mono (by decide)) ?_
    | with_reducible refine within_flushLatched (hS.mono (by decide)) ?_
    | with_reducible refine within_modProc (hS.mono (by decide)) ?_
    | with_reducible refine within_raise1 (hS.mono (by decide)) ?_
    | split
    | dsimp only

theorem within_doFwProcRestart {S : List StatePart} {s0 : State} {c : Cmd} {pay : List Byte} {s : State}
    (hS : Covers S [.fp, .host, .inProgress, .mgmt, .measure, .ev, .pwr, .fw, .err, .installs, .links, .hostMem, .bootLog])
    (hw : Within S s0 s) : Within S s0 (doFwProcRestart c pay s) := by
  unfold doFwProcRestart
  repeat' first
    | with_reducible assumption
    | intro _
    | with_reducible refine within_beginRestart (hS.mono (by decide)) ?_
    | with_reducible refine within_checked (hS.mono (by decide)) ?_ ?_
    | with_reducible refine within_complete (hS.mono (by decide)) ?_
    | with_reducible refine within_modProc (hS.mono (by decide)) ?_
    | with_reducible refine within_raise1 (hS.mono (by decide)) ?_
    | with_reducible refine Within.ite ?_ ?_
    | split
    | dsimp only

theorem within_execFwProcRestart {S : List StatePart} {s0 : State} {c : Cmd} {s : State}
    (hS : Covers S [.now, .fp, .host, .inProgress, .mgmt, .measure, .ev, .pwr, .fw, .err, .installs, .links, .hostMem, .bootLog])
    (hw : Within S s0 s) : OutWithin S s0 (execFwProcRestart c s) := by
  unfold execFwProcRestart
  repeat' first
    | with_reducible assumption
    | intro _
    | with_reducible refine within_doFwProcRestart (hS.mono (by decide)) ?_
    | with_reducible refine within_runRow (hS.mono (by decide)) ?_ ?_
    | with_reducible refine OutWithin.next ?_
    | exact OutWithin.fault _ _ _
    | split
    | dsimp only

theorem within_doFwStatus {S : List StatePart} {s0 : State} {c : Cmd} {pay : List Byte} {s : State}
    (hS : Covers S [.host, .inProgress, .mgmt, .hostMem])
    (hw : Within S s0 s) : Within S s0 (doFwStatus c pay s) := by
  unfold doFwStatus
  repeat' first
    | with_reducible assumption
    | intro _
    | with_reducible refine within_checked (hS.mono (by decide)) ?_ ?_
    | with_reducible refine within_completeWithBuf (hS.mono (by decide)) ?_
    | split
    | dsimp only

theorem within_execFwStatus {S : List StatePart} {s0 : State} {c : Cmd} {s : State}
    (hS : Covers S [.now, .host, .inProgress, .mgmt, .hostMem])
    (hw : Within S s0 s) : OutWithin S s0 (execFwStatus c s) := by
  unfold execFwStatus
  repeat' first
    | with_reducible assumption
    | intro _
    | with_reducible refine within_doFwStatus (hS.mono (by decide)) ?_
    | with_reducible refine within_runRow (hS.mono (by decide)) ?_ ?_
    | with_reducible refine OutWithin.next ?_
    | exact OutWithin.fault _ _ _
    | split
    | dsimp only

theorem within_advanceFuses {S : List StatePart} {s0 : State} {s : State}
    (hS : Covers S [.host, .measure, .ev, .fw, .hostMem, .bootSecFuses])
    (hw : Within S s0 s) : Within S s0 (advanceFuses s) := by
  unfold advanceFuses
  repeat' first
    | with_reducible assumption
    | (intro m; cases m; constructor <;> first | with_reducible assumption)
    | (intro (p : StatePart); cases p <;> first | exact Or.inl (hS.part (by decide)) | with_reducible exact Or.inr rfl | with_reducible exact Or.inr ⟨rfl, rfl⟩ | with_reducible exact Or.inr (Nat.le_refl _))
    | intro _
    | with_reducible refine within_measure (hS.mono (by decide)) ?_
    | with_reducible refine within_raise1 (hS.mono (by decide)) ?_
    | with_reducible refine Within.ite ?_ ?_
    | split
    | dsimp only
    | with_reducible refine Within.upd rfl ?_ ?_ ?_

theorem within_putInactive {S : List StatePart} {s0 : State} {l : List Nat} {b : Bank} {s : State}
    (hS : Covers S [.bootBanks])
    (hw : Within S s0 s) : Within S s0 (putInactive l b s) := by
  unfold putInactive
  repeat' first
    | with_reducible assumption
    | (intro m; cases m; constructor <;> first | with_reducible assumption)
    | (intro (p : StatePart); cases p <;> first | exact Or.inl (hS.part (by decide)) | with_reducible exact Or.inr rfl | with_reducible exact Or.inr ⟨rfl, rfl⟩ | with_reducible exact Or.inr (Nat.le_refl _))
    | intro _
    | with_reducible refine Within.foldl _ _ (fun s a h => ?_) ?_
    | with_reducible refine Within.foldl_fourth _ _ (fun r a h => ?_) ?_
    | with_reducible refine Within.foldl_third _ _ (fun r a h => ?_) ?_
    | with_reducible refine Within.foldl_snd _ _ (fun r a h => ?_) ?_
    | with_reducible refine Within.foldl_fst _ _ (fun r a h => ?_) ?_
    | split
    | dsimp only
    | with_reducible refine Within.upd rfl ?_ ?_ ?_

theorem within_stageBundle {S : List StatePart} {s0 : State} {c : Cmd} {b : List Byte} {s : State}
    (hS : Covers S [.host, .inProgress, .mgmt, .fw, .hostMem, .bootBanks])
    (hw : Within S s0 s) : Within S s0 (stageBundle c b s) := by
  unfold stageBundle
  repeat' first
    | with_reducible assumption
    | (intro m; cases m; constructor <;> first | with_reducible assumption)
    | (intro (p : StatePart); cases p <;> first | exact Or.inl (hS.part (by decide)) | with_reducible exact Or.inr rfl | with_reducible exact Or.inr ⟨rfl, rfl⟩ | with_reducible exact Or.inr (Nat.le_refl _))
    | intro _
    | with_reducible refine within_checked (hS.mono (by decide)) ?_ ?_
    | with_reducible refine within_putInactive (hS.mono (by decide)) ?_
    | split
    | dsimp only
    | with_reducible refine Within.upd rfl ?_ ?_ ?_

theorem within_endStage {S : List StatePart} {s0 : State} {s : State}
    (hS : Covers S [.host, .inProgress, .mgmt, .fw, .hostMem, .bootBanks])
    (hw : Within S s0 s) : Within S s0 (endStage s) := by
  unfold endStage
  repeat' first
    | with_reducible assumption
    | (intro m; cases m; constructor <;> first | with_reducible assumption)
    | (intro (p : StatePart); cases p <;> first | exact Or.inl (hS.part (by decide)) | with_reducible exact Or.inr rfl | with_reducible exact Or.inr ⟨rfl, rfl⟩ | with_reducible exact Or.inr (Nat.le_refl _))
    | intro _
    | with_reducible refine within_complete (hS.mono (by decide)) ?_
    | with_reducible refine within_putInactive (hS.mono (by decide)) ?_
    | with_reducible refine Within.ite ?_ ?_
    | split
    | dsimp only
    | with_reducible refine Within.upd rfl ?_ ?_ ?_

theorem within_doFwBundleStage {S : List StatePart} {s0 : State} {c : Cmd} {pay : List Byte} {s : State}
    (hS : Covers S [.host, .inProgress, .mgmt, .measure, .ev, .fw, .hostMem, .bootBanks, .bootSecFuses])
    (hw : Within S s0 s) : Within S s0 (doFwBundleStage c pay s) := by
  unfold doFwBundleStage
  repeat' first
    | with_reducible assumption
    | intro _
    | with_reducible refine within_advanceFuses (hS.mono (by decide)) ?_
    | with_reducible refine within_checked (hS.mono (by decide)) ?_ ?_
    | with_reducible refine within_failCmd (hS.mono (by decide)) ?_
    | with_reducible refine within_stageBundle (hS.mono (by decide)) ?_
    | with_reducible refine Within.ite ?_ ?_
    | split
    | dsimp only

theorem within_execFwBundleStage {S : List StatePart} {s0 : State} {c : Cmd} {s : State}
    (hS : Covers S [.now, .host, .inProgress, .mgmt, .measure, .ev, .fw, .hostMem, .bootBanks, .bootSecFuses])
    (hw : Within S s0 s) : OutWithin S s0 (execFwBundleStage c s) := by
  unfold execFwBundleStage
  repeat' first
    | with_reducible assumption
    | intro _
    | with_reducible refine within_doFwBundleStage (hS.mono (by decide)) ?_
    | with_reducible refine within_runRow (hS.mono (by decide)) ?_ ?_
    | with_reducible refine OutWithin.next ?_
    | exact OutWithin.fault _ _ _
    | split
    | dsimp only

theorem within_doFwBundleApply {S : List StatePart} {s0 : State} {c : Cmd} {pay : List Byte} {s : State}
    (hS : Covers S [.fp, .host, .inProgress, .mgmt, .measure, .ev, .pwr, .fw, .err, .installs, .links, .hostMem, .bootLog, .bootBanks])
    (hw : Within S s0 s) : Within S s0 (doFwBundleApply c pay s) := by
  unfold doFwBundleApply
  repeat' first
    | with_reducible assumption
    | (intro m; cases m; constructor <;> first | with_reducible assumption)
    | (intro (p : StatePart); cases p <;> first | exact Or.inl (hS.part (by decide)) | with_reducible exact Or.inr rfl | with_reducible exact Or.inr ⟨rfl, rfl⟩ | with_reducible exact Or.inr (Nat.le_refl _))
    | intro _
    | with_reducible refine within_checked (hS.mono (by decide)) ?_ ?_
    | with_reducible refine within_goOnApply (hS.mono (by decide)) ?_
    | with_reducible refine within_measure (hS.mono (by decide)) ?_
    | split
    | dsimp only
    | with_reducible refine Within.upd rfl ?_ ?_ ?_

theorem within_execFwBundleApply {S : List StatePart} {s0 : State} {c : Cmd} {s : State}
    (hS : Covers S [.now, .fp, .host, .inProgress, .mgmt, .measure, .ev, .pwr, .fw, .err, .installs, .links, .hostMem, .bootLog, .bootBanks])
    (hw : Within S s0 s) : OutWithin S s0 (execFwBundleApply c s) := by
  unfold execFwBundleApply
  repeat' first
    | with_reducible assumption
    | intro _
    | with_reducible refine within_doFwBundleApply (hS.mono (by decide)) ?_
    | with_reducible refine within_runRow (hS.mono (by decide)) ?_ ?_
    | with_reducible refine OutWithin.next ?_
    | exact OutWithin.fault _ _ _
    | split
    | dsimp only

end Sys2Proof.Laws
end

