-- ==== Sys2Proof/Laws/FrameBringUp.lean ====
section
/-! SUPPORT. What each operation of Machine/BringUp.lean may change. -/

set_option linter.unusedTactic false
set_option linter.unreachableTactic false
set_option linter.unusedVariables false
set_option linter.unusedSimpArgs false

namespace Sys2Proof.Laws

open Machine

theorem within_secureBoot {S : List StatePart} {s0 : State} {k : Nat} {s : State}
    (hS : Covers S [.fw, .bootBanks])
    (hw : Within S s0 s) : Within S s0 (secureBoot k s).2 := by
  unfold secureBoot
  repeat' first
    | with_reducible assumption
    | (intro m; cases m; constructor <;> first | with_reducible assumption)
    | (intro (p : StatePart); cases p <;> first | exact Or.inl (hS.part (by decide)) | with_reducible exact Or.inr rfl | with_reducible exact Or.inr ⟨rfl, rfl⟩ | with_reducible exact Or.inr (Nat.le_refl _))
    | intro _
    | with_reducible refine Within.ite ?_ ?_
    | split
    | dsimp only
    | with_reducible refine Within.upd rfl ?_ ?_ ?_

theorem within_measureBoot {S : List StatePart} {s0 : State} {s : State}
    (hS : Covers S [.host, .measure, .ev, .fw, .hostMem])
    (hw : Within S s0 s) : Within S s0 (measureBoot s) := by
  unfold measureBoot
  repeat' first
    | with_reducible assumption
    | intro _
    | with_reducible refine within_measure (hS.mono (by decide)) ?_
    | with_reducible refine Within.foldl _ _ (fun s a h => ?_) ?_
    | with_reducible refine Within.foldl_fourth _ _ (fun r a h => ?_) ?_
    | with_reducible refine Within.foldl_third _ _ (fun r a h => ?_) ?_
    | with_reducible refine Within.foldl_snd _ _ (fun r a h => ?_) ?_
    | with_reducible refine Within.foldl_fst _ _ (fun r a h => ?_) ?_
    | split
    | dsimp only

theorem within_chooseKing {S : List StatePart} {s0 : State} {ok4 : Bool} {ok9 : Bool} {s : State}
    (hS : Covers S [.fp, .fw])
    (hw : Within S s0 s) : Within S s0 (chooseKing ok4 ok9 s) := by
  unfold chooseKing
  repeat' first
    | with_reducible assumption
    | (intro m; cases m; constructor <;> first | with_reducible assumption)
    | (intro (p : StatePart); cases p <;> first | exact Or.inl (hS.part (by decide)) | with_reducible exact Or.inr rfl | with_reducible exact Or.inr ⟨rfl, rfl⟩ | with_reducible exact Or.inr (Nat.le_refl _))
    | intro _
    | with_reducible refine within_modEntry (hS.mono (by decide)) ?_
    | with_reducible refine Within.ite ?_ ?_
    | split
    | dsimp only
    | with_reducible refine Within.upd rfl ?_ ?_ ?_

theorem within_trainHostPort {S : List StatePart} {s0 : State} {s : State}
    (hS : Covers S [.freeCtr, .host])
    (hw : Within S s0 s) : Within S s0 (trainHostPort s) := by
  unfold trainHostPort
  repeat' first
    | with_reducible assumption
    | (intro m; cases m; constructor <;> first | with_reducible assumption)
    | (intro (p : StatePart); cases p <;> first | exact Or.inl (hS.part (by decide)) | with_reducible exact Or.inr rfl | with_reducible exact Or.inr ⟨rfl, rfl⟩ | with_reducible exact Or.inr (Nat.le_refl _))
    | intro _
    | with_reducible refine within_takeFree (hS.mono (by decide)) ?_
    | with_reducible refine Within.ite ?_ ?_
    | split
    | dsimp only
    | with_reducible refine Within.upd rfl ?_ ?_ ?_

theorem within_setStep {S : List StatePart} {s0 : State} {n : Nat} {s : State}
    (hS : Covers S [.host, .fw])
    (hw : Within S s0 s) : Within S s0 (setStep n s) := by
  unfold setStep
  repeat' first
    | with_reducible assumption
    | (intro m; cases m; constructor <;> first | with_reducible assumption)
    | (intro (p : StatePart); cases p <;> first | exact Or.inl (hS.part (by decide)) | with_reducible exact Or.inr rfl | with_reducible exact Or.inr ⟨rfl, rfl⟩ | with_reducible exact Or.inr (Nat.le_refl _))
    | intro _
    | split
    | dsimp only
    | with_reducible refine Within.upd rfl ?_ ?_ ?_

theorem within_bootRead {S : List StatePart} {s0 : State} {s : State}
    (hS : Covers S [.mgmt, .err, .bootCount])
    (hw : Within S s0 s) : Within S s0 (bootRead s) := by
  unfold bootRead
  repeat' first
    | with_reducible assumption
    | (intro m; constructor <;> first | with_reducible exact m.mem | with_reducible exact m.hostMem | with_reducible exact m.storeMem | with_reducible exact m.entries | with_reducible exact m.parts | with_reducible exact m.quads | with_reducible exact m.cores | with_reducible exact m.bays | with_reducible exact m.sites | with_reducible exact m.hot | with_reducible exact m.procs | with_reducible exact m.wear | with_reducible exact m.bootWear | with_reducible exact m.missed | with_reducible exact m.hops | with_reducible exact m.ports | with_reducible exact m.hbms | with_reducible exact m.bufs | with_reducible exact m.store | with_reducible exact m.engines | with_reducible exact m.links | with_reducible exact m.queues | with_reducible exact m.failures | with_reducible exact m.retests | (refine keysRise_of_keys ?_ m.bootWear; simp [Function.comp_def]; done))
    | (intro (p : StatePart); cases p <;> first | exact Or.inl (hS.part (by decide)) | with_reducible exact Or.inr rfl | with_reducible exact Or.inr ⟨rfl, rfl⟩ | with_reducible exact Or.inr (Nat.le_refl _))
    | intro _
    | split
    | dsimp only
    | with_reducible refine Within.upd rfl ?_ ?_ ?_

theorem within_execPowerGood {S : List StatePart} {s0 : State} {m : MgmtSelfTest} {time : Nat} {s : State}
    (hS : Covers S [.clock, .freeCtr, .now, .fp, .host, .inProgress, .mgmt, .measure, .ev, .parts, .pwr, .fw, .err, .cool, .install, .installs, .fab, .hbms, .bufs, .engines, .links, .mem, .bays, .cores, .xings, .hostMem, .bootCount, .bootBanks])
    (hw : Within S s0 s) : OutWithin S s0 (execPowerGood m time s) := by
  unfold execPowerGood
  repeat' first
    | with_reducible assumption
    | (intro m; cases m; constructor <;> first | with_reducible assumption)
    | (intro (p : StatePart); cases p <;> first | exact Or.inl (hS.part (by decide)) | with_reducible exact Or.inr rfl | with_reducible exact Or.inr ⟨rfl, rfl⟩ | with_reducible exact Or.inr (Nat.le_refl _))
    | intro _
    | with_reducible refine within_atTime (hS.mono (by decide)) ?_
    | with_reducible refine within_bootRead (hS.mono (by decide)) ?_
    | with_reducible refine within_chooseKing (hS.mono (by decide)) ?_
    | with_reducible refine within_measureBoot (hS.mono (by decide)) ?_
    | with_reducible refine within_powerLost (hS.mono (by decide)) ?_
    | with_reducible refine within_secureBoot (hS.mono (by decide)) ?_
    | with_reducible refine within_setStep (hS.mono (by decide)) ?_
    | with_reducible refine within_trainHostPort (hS.mono (by decide)) ?_
    | with_reducible refine OutWithin.next ?_
    | exact OutWithin.fault _ _ _
    | with_reducible refine OutWithin.ite ?_ ?_
    | with_reducible refine Within.ite ?_ ?_
    | split
    | dsimp only
    | with_reducible refine Within.upd rfl ?_ ?_ ?_

theorem within_powerSites {S : List StatePart} {s0 : State} {is : List Nat} {s : State}
    (hS : Covers S [.pwr])
    (hw : Within S s0 s) : Within S s0 (powerSites is s) := by
  unfold powerSites
  repeat' first
    | with_reducible assumption
    | intro _
    | with_reducible refine within_modPwr (hS.mono (by decide)) ?_
    | with_reducible refine Within.foldl _ _ (fun s a h => ?_) ?_
    | with_reducible refine Within.foldl_fourth _ _ (fun r a h => ?_) ?_
    | with_reducible refine Within.foldl_third _ _ (fun r a h => ?_) ?_
    | with_reducible refine Within.foldl_snd _ _ (fun r a h => ?_) ?_
    | with_reducible refine Within.foldl_fst _ _ (fun r a h => ?_) ?_
    | split
    | dsimp only

theorem within_startProc {S : List StatePart} {s0 : State} {n : Nat} {s : State}
    (hS : Covers S [.host, .inProgress, .mgmt, .ev, .fw, .hostMem])
    (hw : Within S s0 s) : Within S s0 (startProc n s) := by
  unfold startProc
  repeat' first
    | with_reducible assumption
    | intro _
    | with_reducible refine within_modProc (hS.mono (by decide)) ?_
    | with_reducible refine within_procFromReset (hS.mono (by decide)) ?_
    | with_reducible refine Within.ite ?_ ?_
    | split
    | dsimp only

theorem within_buildPlan {S : List StatePart} {s0 : State} {r : List SiteOutcome} {s : State}
    (hS : Covers S [.fp, .host, .ev, .fw, .hostMem, .bootGeneration, .bootFailures])
    (hw : Within S s0 s) : Within S s0 (buildPlan r s) := by
  unfold buildPlan
  repeat' first
    | with_reducible assumption
    | (intro m; cases m; constructor <;> first | with_reducible assumption | (simp [modAt, copies, *]; done))
    | (intro (p : StatePart); cases p <;> first | exact Or.inl (hS.part (by decide)) | with_reducible exact Or.inr rfl | with_reducible exact Or.inr ⟨rfl, rfl⟩ | with_reducible exact Or.inr (Nat.le_refl _))
    | intro _
    | with_reducible refine within_announceChange (hS.mono (by decide)) ?_
    | with_reducible refine within_raise (hS.mono (by decide)) ?_
    | with_reducible refine within_recordFailure (hS.mono (by decide)) ?_
    | with_reducible refine Within.foldl _ _ (fun s a h => ?_) ?_
    | with_reducible refine Within.foldl_fourth _ _ (fun r a h => ?_) ?_
    | with_reducible refine Within.foldl_third _ _ (fun r a h => ?_) ?_
    | with_reducible refine Within.foldl_snd _ _ (fun r a h => ?_) ?_
    | with_reducible refine Within.foldl_fst _ _ (fun r a h => ?_) ?_
    | with_reducible refine Within.ite ?_ ?_
    | split
    | dsimp only
    | with_reducible refine Within.upd rfl ?_ ?_ ?_

theorem within_startDies {S : List StatePart} {s0 : State} {s : State}
    (hS : Covers S [.fp, .host, .inProgress, .mgmt, .ev, .pwr, .fw, .err, .cores, .hostMem, .bootGeneration, .bootFailures, .bootLog, .bootStore])
    (hw : Within S s0 s) : Within S s0 (startDies s) := by
  unfold startDies
  repeat' first
    | with_reducible assumption
    | intro _
    | with_reducible refine within_loadCores (hS.mono (by decide)) ?_
    | with_reducible refine within_modPwr (hS.mono (by decide)) ?_
    | with_reducible refine within_modStore (hS.mono (by decide)) ?_
    | with_reducible refine within_raise1 (hS.mono (by decide)) ?_
    | with_reducible refine within_startProc (hS.mono (by decide)) ?_
    | with_reducible refine Within.foldl _ _ (fun s a h => ?_) ?_
    | with_reducible refine Within.foldl_fourth _ _ (fun r a h => ?_) ?_
    | with_reducible refine Within.foldl_third _ _ (fun r a h => ?_) ?_
    | with_reducible refine Within.foldl_snd _ _ (fun r a h => ?_) ?_
    | with_reducible refine Within.foldl_fst _ _ (fun r a h => ?_) ?_
    | with_reducible refine Within.ite ?_ ?_
    | split
    | dsimp only

theorem within_trainStacks {S : List StatePart} {s0 : State} {r : List SiteOutcome} {s : State}
    (hS : Covers S [.fp, .host, .ev, .fw, .err, .hostMem, .bootGeneration, .bootFailures, .bootLog])
    (hw : Within S s0 s) : Within S s0 (trainStacks r s) := by
  unfold trainStacks
  repeat' first
    | with_reducible assumption
    | intro _
    | with_reducible refine within_failEntry (hS.mono (by decide)) ?_
    | with_reducible refine within_logAdd (hS.mono (by decide)) ?_
    | with_reducible refine within_recordChange (hS.mono (by decide)) ?_ ?_
    | with_reducible refine Within.foldl _ _ (fun s a h => ?_) ?_
    | with_reducible refine Within.foldl_fourth _ _ (fun r a h => ?_) ?_
    | with_reducible refine Within.foldl_third _ _ (fun r a h => ?_) ?_
    | with_reducible refine Within.foldl_snd _ _ (fun r a h => ?_) ?_
    | with_reducible refine Within.foldl_fst _ _ (fun r a h => ?_) ?_
    | split
    | dsimp only

theorem within_endStep {S : List StatePart} {s0 : State} {n : Nat} {r : List SiteOutcome} {s : State}
    (hS : Covers S [.fp, .host, .inProgress, .mgmt, .ev, .pwr, .fw, .err, .fab, .cores, .hostMem, .bootGeneration, .bootFailures, .bootLog, .bootStore])
    (hw : Within S s0 s) : Within S s0 (endStep n r s) := by
  unfold endStep
  repeat' first
    | with_reducible assumption
    | intro _
    | with_reducible refine within_buildPlan (hS.mono (by decide)) ?_
    | with_reducible refine within_powerSites (hS.mono (by decide)) ?_
    | with_reducible refine within_rewriteRoutes (hS.mono (by decide)) ?_
    | with_reducible refine within_startDies (hS.mono (by decide)) ?_
    | with_reducible refine within_startProc (hS.mono (by decide)) ?_
    | with_reducible refine within_trainStacks (hS.mono (by decide)) ?_
    | with_reducible refine Within.ite ?_ ?_
    | split
    | dsimp only

theorem within_resetDone {S : List StatePart} {s0 : State} {c : Cmd} {scope : Nat} {part : Nat} {site : Nat} {detail : Nat} {s : State}
    (hS : Covers S [.host, .inProgress, .mgmt, .ev, .fw, .hostMem])
    (hw : Within S s0 s) : Within S s0 (resetDone c scope part site detail s) := by
  unfold resetDone
  repeat' first
    | with_reducible assumption
    | intro _
    | with_reducible refine within_complete (hS.mono (by decide)) ?_
    | with_reducible refine within_raise1 (hS.mono (by decide)) ?_
    | with_reducible refine Within.ite ?_ ?_
    | split
    | dsimp only

theorem within_panelReady {S : List StatePart} {s0 : State} {s : State}
    (hS : Covers S [.host, .inProgress, .mgmt, .ev, .fw, .hostMem, .bootTrip])
    (hw : Within S s0 s) : Within S s0 (panelReady s) := by
  unfold panelReady
  repeat' first
    | with_reducible assumption
    | (intro m; cases m; constructor <;> first | with_reducible assumption | rfl)
    | (intro (p : StatePart); cases p <;> first | exact Or.inl (hS.part (by decide)) | with_reducible exact Or.inr rfl | with_reducible exact Or.inr ⟨rfl, rfl⟩ | with_reducible exact Or.inr (Nat.le_refl _))
    | intro _
    | with_reducible refine within_raise1 (hS.mono (by decide)) ?_
    | with_reducible refine within_resetDone (hS.mono (by decide)) ?_
    | with_reducible refine Within.foldl _ _ (fun s a h => ?_) ?_
    | with_reducible refine Within.foldl_fourth _ _ (fun r a h => ?_) ?_
    | with_reducible refine Within.foldl_third _ _ (fun r a h => ?_) ?_
    | with_reducible refine Within.foldl_snd _ _ (fun r a h => ?_) ?_
    | with_reducible refine Within.foldl_fst _ _ (fun r a h => ?_) ?_
    | with_reducible refine Within.ite ?_ ?_
    | split
    | dsimp only
    | with_reducible refine Within.upd rfl ?_ ?_ ?_

theorem within_beginStep {S : List StatePart} {s0 : State} {n : Nat} {s : State}
    (hS : Covers S [.host, .inProgress, .mgmt, .ev, .parts, .fw, .links, .hostMem, .bootTrip])
    (hw : Within S s0 s) : Within S s0 (beginStep n s) := by
  unfold beginStep
  repeat' first
    | with_reducible assumption
    | intro _
    | with_reducible refine within_panelReady (hS.mono (by decide)) ?_
    | with_reducible refine within_setStep (hS.mono (by decide)) ?_
    | with_reducible refine within_startLinks (hS.mono (by decide)) ?_
    | with_reducible refine Within.foldl _ _ (fun s a h => ?_) ?_
    | with_reducible refine Within.foldl_fourth _ _ (fun r a h => ?_) ?_
    | with_reducible refine Within.foldl_third _ _ (fun r a h => ?_) ?_
    | with_reducible refine Within.foldl_snd _ _ (fun r a h => ?_) ?_
    | with_reducible refine Within.foldl_fst _ _ (fun r a h => ?_) ?_
    | with_reducible refine Within.ite ?_ ?_
    | split
    | dsimp only

theorem within_execBringupStep {S : List StatePart} {s0 : State} {r : List SiteOutcome} {time : Nat} {s : State}
    (hS : Covers S [.now, .fp, .host, .inProgress, .mgmt, .ev, .parts, .pwr, .fw, .err, .fab, .links, .cores, .hostMem, .bootGeneration, .bootFailures, .bootLog, .bootTrip, .bootStore])
    (hw : Within S s0 s) : OutWithin S s0 (execBringupStep r time s) := by
  unfold execBringupStep
  repeat' first
    | with_reducible assumption
    | intro _
    | with_reducible refine within_atTime (hS.mono (by decide)) ?_
    | with_reducible refine within_beginStep (hS.mono (by decide)) ?_
    | with_reducible refine within_endStep (hS.mono (by decide)) ?_
    | with_reducible refine OutWithin.next ?_
    | exact OutWithin.fault _ _ _
    | with_reducible refine OutWithin.ite ?_ ?_
    | with_reducible refine Within.ite ?_ ?_
    | split
    | dsimp only

theorem within_missStep {S : List StatePart} {s0 : State} {n : Nat} {i : Nat} {s : State}
    (hS : Covers S [.freeCtr, .fp, .host, .inProgress, .mgmt, .measure, .ev, .parts, .fw, .err, .installs, .fab, .links, .hostMem, .bootGeneration, .bootFailures, .bootLog])
    (hw : Within S s0 s) : Within S s0 (missStep n i s) := by
  unfold missStep
  repeat' first
    | with_reducible assumption
    | intro _
    | with_reducible refine within_linkLost (hS.mono (by decide)) ?_
    | with_reducible refine within_logAdd (hS.mono (by decide)) ?_
    | with_reducible refine within_modEntry (hS.mono (by decide)) ?_
    | with_reducible refine within_raise1 (hS.mono (by decide)) ?_
    | with_reducible refine within_recordChange (hS.mono (by decide)) ?_ ?_
    | with_reducible refine within_recordFailure (hS.mono (by decide)) ?_
    | with_reducible refine within_takeFree (hS.mono (by decide)) ?_
    | with_reducible refine Within.foldl _ _ (fun s a h => ?_) ?_
    | with_reducible refine Within.foldl_fourth _ _ (fun r a h => ?_) ?_
    | with_reducible refine Within.foldl_third _ _ (fun r a h => ?_) ?_
    | with_reducible refine Within.foldl_snd _ _ (fun r a h => ?_) ?_
    | with_reducible refine Within.foldl_fst _ _ (fun r a h => ?_) ?_
    | with_reducible refine Within.ite ?_ ?_
    | split
    | dsimp only

theorem within_execBringupDeadline {S : List StatePart} {s0 : State} {r : List SiteOutcome} {time : Nat} {s : State}
    (hS : Covers S [.freeCtr, .now, .fp, .host, .inProgress, .mgmt, .measure, .ev, .parts, .pwr, .fw, .err, .installs, .fab, .links, .cores, .hostMem, .bootGeneration, .bootFailures, .bootLog, .bootTrip, .bootStore])
    (hw : Within S s0 s) : OutWithin S s0 (execBringupDeadline r time s) := by
  unfold execBringupDeadline
  repeat' first
    | with_reducible assumption
    | (intro m; cases m; constructor <;> first | with_reducible assumption | (refine keysRise_filter _ _ ?_; with_reducible assumption))
    | (intro (p : StatePart); cases p <;> first | exact Or.inl (hS.part (by decide)) | with_reducible exact Or.inr rfl | with_reducible exact Or.inr ⟨rfl, rfl⟩ | with_reducible exact Or.inr (Nat.le_refl _))
    | intro _
    | with_reducible refine within_atTime (hS.mono (by decide)) ?_
    | with_reducible refine within_beginStep (hS.mono (by decide)) ?_
    | with_reducible refine within_endStep (hS.mono (by decide)) ?_
    | with_reducible refine within_missStep (hS.mono (by decide)) ?_
    | with_reducible refine within_oneChange (hS.mono (by decide)) ?_ ?_
    | with_reducible refine within_setStep (hS.mono (by decide)) ?_
    | with_reducible refine OutWithin.next ?_
    | exact OutWithin.fault _ _ _
    | with_reducible refine Within.foldl _ _ (fun s a h => ?_) ?_
    | with_reducible refine Within.foldl_fourth _ _ (fun r a h => ?_) ?_
    | with_reducible refine Within.foldl_third _ _ (fun r a h => ?_) ?_
    | with_reducible refine Within.foldl_snd _ _ (fun r a h => ?_) ?_
    | with_reducible refine Within.foldl_fst _ _ (fun r a h => ?_) ?_
    | with_reducible refine OutWithin.ite ?_ ?_
    | with_reducible refine Within.ite ?_ ?_
    | split
    | dsimp only
    | with_reducible refine Within.upd rfl ?_ ?_ ?_

theorem within_secondTakes {S : List StatePart} {s0 : State} {s : State}
    (hS : Covers S [.mgmt, .fw])
    (hw : Within S s0 s) : Within S s0 (secondTakes s) := by
  unfold secondTakes
  repeat' first
    | with_reducible assumption
    | (intro m; cases m; constructor <;> first | with_reducible assumption | (refine keysRise_filter _ _ ?_; with_reducible assumption) | rfl)
    | (intro (p : StatePart); cases p <;> first | exact Or.inl (hS.part (by decide)) | with_reducible exact Or.inr rfl | with_reducible exact Or.inr ⟨rfl, rfl⟩ | with_reducible exact Or.inr (Nat.le_refl _))
    | intro _
    | split
    | dsimp only
    | with_reducible refine Within.upd rfl ?_ ?_ ?_

theorem within_kingLossTrip {S : List StatePart} {s0 : State} {s : State}
    (hS : Covers S [.fp, .host, .inProgress, .mgmt, .measure, .ev, .parts, .pwr, .fw, .err, .installs, .fab, .hbms, .bufs, .engines, .links, .mem, .bays, .cores, .hostMem, .bootGeneration])
    (hw : Within S s0 s) : Within S s0 (kingLossTrip s) := by
  unfold kingLossTrip
  repeat' first
    | with_reducible assumption
    | intro _
    | with_reducible refine within_darkenSites (hS.mono (by decide)) ?_
    | with_reducible refine within_secondTakes (hS.mono (by decide)) ?_
    | with_reducible refine within_sendAlert (hS.mono (by decide)) ?_
    | split
    | dsimp only

theorem within_execKingPostLossTrip {S : List StatePart} {s0 : State} {time : Nat} {s : State}
    (hS : Covers S [.now, .fp, .host, .inProgress, .mgmt, .measure, .ev, .parts, .pwr, .fw, .err, .installs, .fab, .hbms, .bufs, .engines, .links, .mem, .bays, .cores, .hostMem, .bootGeneration, .bootLog])
    (hw : Within S s0 s) : OutWithin S s0 (execKingPostLossTrip time s) := by
  unfold execKingPostLossTrip
  repeat' first
    | with_reducible assumption
    | intro _
    | with_reducible refine within_atTime (hS.mono (by decide)) ?_
    | with_reducible refine within_examine (hS.mono (by decide)) ?_
    | with_reducible refine within_kingLossTrip (hS.mono (by decide)) ?_
    | with_reducible refine OutWithin.next ?_
    | exact OutWithin.fault _ _ _
    | with_reducible refine OutWithin.ite ?_ ?_
    | with_reducible refine Within.ite ?_ ?_
    | split
    | dsimp only

end Sys2Proof.Laws
end

