-- ==== Sys2Proof/Laws/FrameConnectors.lean ====
section
/-! SUPPORT. What each operation of Machine/Connectors.lean may change. -/

set_option linter.unusedTactic false
set_option linter.unreachableTactic false
set_option linter.unusedVariables false
set_option linter.unusedSimpArgs false

namespace Sys2Proof.Laws

open Machine

theorem within_execInputSwitchClose {S : List StatePart} {s0 : State} {r : SwitchReadings} {time : Nat} {s : State}
    (hS : Covers S [.now, .pwr])
    (hw : Within S s0 s) : OutWithin S s0 (execInputSwitchClose r time s) := by
  unfold execInputSwitchClose
  repeat' first
    | with_reducible assumption
    | (intro m; cases m; constructor <;> first | with_reducible assumption)
    | (intro (p : StatePart); cases p <;> first | exact Or.inl (hS.part (by decide)) | with_reducible exact Or.inr rfl | with_reducible exact Or.inr ⟨rfl, rfl⟩ | with_reducible exact Or.inr (Nat.le_refl _))
    | intro _
    | with_reducible refine within_atTime (hS.mono (by decide)) ?_
    | with_reducible refine OutWithin.next ?_
    | exact OutWithin.fault _ _ _
    | with_reducible refine OutWithin.ite ?_ ?_
    | with_reducible refine Within.ite ?_ ?_
    | split
    | dsimp only
    | with_reducible refine Within.upd rfl ?_ ?_ ?_

theorem within_execPresenceLost {S : List StatePart} {s0 : State} {time : Nat} {s : State}
    (hS : Covers S [.clock, .now, .fp, .host, .inProgress, .mgmt, .measure, .ev, .parts, .pwr, .fw, .err, .cool, .install, .installs, .fab, .hbms, .bufs, .engines, .links, .mem, .bays, .cores, .xings])
    (hw : Within S s0 s) : OutWithin S s0 (execPresenceLost time s) := by
  unfold execPresenceLost
  repeat' first
    | with_reducible assumption
    | (intro m; cases m; constructor <;> first | with_reducible assumption)
    | (intro (p : StatePart); cases p <;> first | exact Or.inl (hS.part (by decide)) | with_reducible exact Or.inr rfl | with_reducible exact Or.inr ⟨rfl, rfl⟩ | with_reducible exact Or.inr (Nat.le_refl _))
    | intro _
    | with_reducible refine within_atTime (hS.mono (by decide)) ?_
    | with_reducible refine within_powerLost (hS.mono (by decide)) ?_
    | with_reducible refine OutWithin.next ?_
    | exact OutWithin.fault _ _ _
    | with_reducible refine OutWithin.ite ?_ ?_
    | with_reducible refine Within.ite ?_ ?_
    | split
    | dsimp only
    | with_reducible refine Within.upd rfl ?_ ?_ ?_

theorem within_execCxlL2Change {S : List StatePart} {s0 : State} {enter : Bool} {time : Nat} {s : State}
    (hS : Covers S [.now, .host])
    (hw : Within S s0 s) : OutWithin S s0 (execCxlL2Change enter time s) := by
  unfold execCxlL2Change
  repeat' first
    | with_reducible assumption
    | (intro m; cases m; constructor <;> first | with_reducible assumption)
    | (intro (p : StatePart); cases p <;> first | exact Or.inl (hS.part (by decide)) | with_reducible exact Or.inr rfl | with_reducible exact Or.inr ⟨rfl, rfl⟩ | with_reducible exact Or.inr (Nat.le_refl _))
    | intro _
    | with_reducible refine within_atTime (hS.mono (by decide)) ?_
    | with_reducible refine OutWithin.next ?_
    | exact OutWithin.fault _ _ _
    | with_reducible refine OutWithin.ite ?_ ?_
    | with_reducible refine Within.ite ?_ ?_
    | split
    | dsimp only
    | with_reducible refine Within.upd rfl ?_ ?_ ?_

end Sys2Proof.Laws
end

