-- ==== Sys2Proof/Laws/FrameCooling.lean ====
section
/-! SUPPORT. What each operation of Machine/Cooling.lean may change. -/

set_option linter.unusedTactic false
set_option linter.unreachableTactic false
set_option linter.unusedVariables false
set_option linter.unusedSimpArgs false

namespace Sys2Proof.Laws

open Machine

theorem within_flowSensorEvent {S : List StatePart} {s0 : State} {aux : Nat} {arg : Nat} {inj : Bool} {s : State}
    (hS : Covers S [.host, .ev, .fw, .err, .hostMem, .bootLog])
    (hw : Within S s0 s) : Within S s0 (flowSensorEvent aux arg inj s) := by
  unfold flowSensorEvent
  repeat' first
    | with_reducible assumption
    | intro _
    | with_reducible refine within_logAdd (hS.mono (by decide)) ?_
    | with_reducible refine within_raise1 (hS.mono (by decide)) ?_
    | with_reducible refine within_scoreWear (hS.mono (by decide)) ?_
    | split
    | dsimp only

theorem within_refuseWaiting {S : List StatePart} {s0 : State} {s : State}
    (hS : Covers S [.host, .inProgress, .mgmt, .pwr, .hostMem])
    (hw : Within S s0 s) : Within S s0 (refuseWaiting s) := by
  unfold refuseWaiting
  repeat' first
    | with_reducible assumption
    | intro _
    | with_reducible refine within_endWaiting (hS.mono (by decide)) ?_
    | with_reducible refine Within.foldl _ _ (fun s a h => ?_) ?_
    | with_reducible refine Within.foldl_fourth _ _ (fun r a h => ?_) ?_
    | with_reducible refine Within.foldl_third _ _ (fun r a h => ?_) ?_
    | with_reducible refine Within.foldl_snd _ _ (fun r a h => ?_) ?_
    | with_reducible refine Within.foldl_fst _ _ (fun r a h => ?_) ?_
    | split
    | dsimp only

theorem within_stopTrip {S : List StatePart} {s0 : State} {aux : Nat} {site : Option Nat} {inj : Bool} {s : State}
    (hS : Covers S [.fp, .host, .inProgress, .mgmt, .measure, .ev, .parts, .pwr, .fw, .err, .cool, .installs, .fab, .hbms, .bufs, .engines, .links, .mem, .bays, .cores, .hostMem, .bootGeneration, .bootLog])
    (hw : Within S s0 s) : Within S s0 (stopTrip aux site inj s) := by
  unfold stopTrip
  repeat' first
    | with_reducible assumption
    | (intro m; cases m; constructor <;> first | with_reducible assumption)
    | (intro (p : StatePart); cases p <;> first | exact Or.inl (hS.part (by decide)) | with_reducible exact Or.inr rfl | with_reducible exact Or.inr ⟨rfl, rfl⟩ | with_reducible exact Or.inr (Nat.le_refl _))
    | intro _
    | with_reducible refine within_darkenSites (hS.mono (by decide)) ?_
    | with_reducible refine within_logAdd (hS.mono (by decide)) ?_
    | with_reducible refine within_raiseCritical (hS.mono (by decide)) ?_
    | with_reducible refine within_refuseWaiting (hS.mono (by decide)) ?_
    | with_reducible refine Within.ite ?_ ?_
    | split
    | dsimp only
    | with_reducible refine Within.upd rfl ?_ ?_ ?_

theorem within_flowRetire {S : List StatePart} {s0 : State} {dp : Int} {th : Int} {inj : Bool} {s : State}
    (hS : Covers S [.host, .inProgress, .mgmt, .ev, .pwr, .fw, .err, .cool, .hostMem, .bootLog])
    (hw : Within S s0 s) : Within S s0 (flowRetire dp th inj s) := by
  unfold flowRetire
  repeat' first
    | with_reducible assumption
    | (intro m; cases m; constructor <;> first | with_reducible assumption)
    | (intro (p : StatePart); cases p <;> first | exact Or.inl (hS.part (by decide)) | with_reducible exact Or.inr rfl | with_reducible exact Or.inr ⟨rfl, rfl⟩ | with_reducible exact Or.inr (Nat.le_refl _))
    | intro _
    | with_reducible refine within_flowSensorEvent (hS.mono (by decide)) ?_
    | with_reducible refine within_raise1 (hS.mono (by decide)) ?_
    | with_reducible refine within_refuseWaiting (hS.mono (by decide)) ?_
    | with_reducible refine Within.ite ?_ ?_
    | split
    | dsimp only
    | with_reducible refine Within.upd rfl ?_ ?_ ?_

theorem within_flowDifference {S : List StatePart} {s0 : State} {dp : Int} {th : Int} {s : State}
    (hS : Covers S [.cool])
    (hw : Within S s0 s) : Within S s0 (flowDifference dp th s) := by
  unfold flowDifference
  repeat' first
    | with_reducible assumption
    | (intro m; cases m; constructor <;> first | with_reducible assumption)
    | (intro (p : StatePart); cases p <;> first | exact Or.inl (hS.part (by decide)) | with_reducible exact Or.inr rfl | with_reducible exact Or.inr ⟨rfl, rfl⟩ | with_reducible exact Or.inr (Nat.le_refl _))
    | intro _
    | with_reducible refine Within.ite ?_ ?_
    | split
    | dsimp only
    | with_reducible refine Within.upd rfl ?_ ?_ ?_

theorem within_flowTrip {S : List StatePart} {s0 : State} {dp : Int} {th : Int} {s : State}
    (hS : Covers S [.fp, .host, .inProgress, .mgmt, .measure, .ev, .parts, .pwr, .fw, .err, .cool, .installs, .fab, .hbms, .bufs, .engines, .links, .mem, .bays, .cores, .hostMem, .bootGeneration, .bootLog])
    (hw : Within S s0 s) : Within S s0 (flowTrip dp th s) := by
  unfold flowTrip
  repeat' first
    | with_reducible assumption
    | (intro m; cases m; constructor <;> first | with_reducible assumption)
    | (intro (p : StatePart); cases p <;> first | exact Or.inl (hS.part (by decide)) | with_reducible exact Or.inr rfl | with_reducible exact Or.inr ⟨rfl, rfl⟩ | with_reducible exact Or.inr (Nat.le_refl _))
    | intro _
    | with_reducible refine within_examine (hS.mono (by decide)) ?_
    | with_reducible refine within_stopTrip (hS.mono (by decide)) ?_
    | with_reducible refine Within.ite ?_ ?_
    | split
    | dsimp only
    | with_reducible refine Within.upd rfl ?_ ?_ ?_

theorem within_execFlowSample {S : List StatePart} {s0 : State} {dp : Int} {th : Int} {time : Nat} {s : State}
    (hS : Covers S [.now, .fp, .host, .inProgress, .mgmt, .measure, .ev, .parts, .pwr, .fw, .err, .cool, .installs, .fab, .hbms, .bufs, .engines, .links, .mem, .bays, .cores, .hostMem, .bootGeneration, .bootLog])
    (hw : Within S s0 s) : OutWithin S s0 (execFlowSample dp th time s) := by
  unfold execFlowSample
  repeat' first
    | with_reducible assumption
    | (intro m; cases m; constructor <;> first | with_reducible assumption)
    | (intro (p : StatePart); cases p <;> first | exact Or.inl (hS.part (by decide)) | with_reducible exact Or.inr rfl | with_reducible exact Or.inr ⟨rfl, rfl⟩ | with_reducible exact Or.inr (Nat.le_refl _))
    | intro _
    | with_reducible refine within_atTime (hS.mono (by decide)) ?_
    | with_reducible refine within_examineValue (hS.mono (by decide)) ?_
    | with_reducible refine within_flowDifference (hS.mono (by decide)) ?_
    | with_reducible refine within_flowRetire (hS.mono (by decide)) ?_
    | with_reducible refine within_flowTrip (hS.mono (by decide)) ?_
    | with_reducible refine OutWithin.next ?_
    | exact OutWithin.fault _ _ _
    | with_reducible refine OutWithin.ite ?_ ?_
    | with_reducible refine Within.ite ?_ ?_
    | split
    | dsimp only
    | with_reducible refine Within.upd rfl ?_ ?_ ?_

theorem within_execFlowDisagree {S : List StatePart} {s0 : State} {time : Nat} {s : State}
    (hS : Covers S [.now, .host, .ev, .fw, .err, .cool, .hostMem, .bootLog])
    (hw : Within S s0 s) : OutWithin S s0 (execFlowDisagree time s) := by
  unfold execFlowDisagree
  repeat' first
    | with_reducible assumption
    | (intro m; cases m; constructor <;> first | with_reducible assumption)
    | (intro (p : StatePart); cases p <;> first | exact Or.inl (hS.part (by decide)) | with_reducible exact Or.inr rfl | with_reducible exact Or.inr ⟨rfl, rfl⟩ | with_reducible exact Or.inr (Nat.le_refl _))
    | intro _
    | with_reducible refine within_atTime (hS.mono (by decide)) ?_
    | with_reducible refine within_flowSensorEvent (hS.mono (by decide)) ?_
    | with_reducible refine OutWithin.next ?_
    | exact OutWithin.fault _ _ _
    | with_reducible refine OutWithin.ite ?_ ?_
    | with_reducible refine Within.ite ?_ ?_
    | split
    | dsimp only
    | with_reducible refine Within.upd rfl ?_ ?_ ?_

theorem within_setLow {S : List StatePart} {s0 : State} {on : Bool} {arg : Nat} {s : State}
    (hS : Covers S [.host, .ev, .fw, .cool, .hostMem])
    (hw : Within S s0 s) : Within S s0 (setLow on arg s) := by
  unfold setLow
  repeat' first
    | with_reducible assumption
    | (intro m; cases m; constructor <;> first | with_reducible assumption)
    | (intro (p : StatePart); cases p <;> first | exact Or.inl (hS.part (by decide)) | with_reducible exact Or.inr rfl | with_reducible exact Or.inr ⟨rfl, rfl⟩ | with_reducible exact Or.inr (Nat.le_refl _))
    | intro _
    | with_reducible refine within_raise1 (hS.mono (by decide)) ?_
    | with_reducible refine Within.ite ?_ ?_
    | split
    | dsimp only
    | with_reducible refine Within.upd rfl ?_ ?_ ?_

theorem within_setCritical {S : List StatePart} {s0 : State} {on : Bool} {arg : Nat} {s : State}
    (hS : Covers S [.host, .inProgress, .mgmt, .ev, .pwr, .fw, .cool, .hostMem])
    (hw : Within S s0 s) : Within S s0 (setCritical on arg s) := by
  unfold setCritical
  repeat' first
    | with_reducible assumption
    | (intro m; cases m; constructor <;> first | with_reducible assumption)
    | (intro (p : StatePart); cases p <;> first | exact Or.inl (hS.part (by decide)) | with_reducible exact Or.inr rfl | with_reducible exact Or.inr ⟨rfl, rfl⟩ | with_reducible exact Or.inr (Nat.le_refl _))
    | intro _
    | with_reducible refine within_raise1 (hS.mono (by decide)) ?_
    | with_reducible refine within_raiseCritical (hS.mono (by decide)) ?_
    | with_reducible refine within_refuseWaiting (hS.mono (by decide)) ?_
    | with_reducible refine Within.ite ?_ ?_
    | split
    | dsimp only
    | with_reducible refine Within.upd rfl ?_ ?_ ?_

theorem within_settleFlow {S : List StatePart} {s0 : State} {arg : Nat} {s : State}
    (hS : Covers S [.host, .inProgress, .mgmt, .ev, .pwr, .fw, .cool, .hostMem])
    (hw : Within S s0 s) : Within S s0 (settleFlow arg s) := by
  unfold settleFlow
  repeat' first
    | with_reducible assumption
    | intro _
    | with_reducible refine within_setCritical (hS.mono (by decide)) ?_
    | with_reducible refine within_setLow (hS.mono (by decide)) ?_
    | with_reducible refine Within.ite ?_ ?_
    | split
    | dsimp only

theorem within_execFlowPeriod {S : List StatePart} {s0 : State} {r : FlowReading} {time : Nat} {s : State}
    (hS : Covers S [.now, .host, .inProgress, .mgmt, .ev, .pwr, .fw, .err, .cool, .hostMem, .bootLog])
    (hw : Within S s0 s) : OutWithin S s0 (execFlowPeriod r time s) := by
  unfold execFlowPeriod
  repeat' first
    | with_reducible assumption
    | (intro m; cases m; constructor <;> first | with_reducible assumption)
    | (intro (p : StatePart); cases p <;> first | exact Or.inl (hS.part (by decide)) | with_reducible exact Or.inr rfl | with_reducible exact Or.inr ⟨rfl, rfl⟩ | with_reducible exact Or.inr (Nat.le_refl _))
    | intro _
    | with_reducible refine within_atTime (hS.mono (by decide)) ?_
    | with_reducible refine within_examineValue (hS.mono (by decide)) ?_
    | with_reducible refine within_settleFlow (hS.mono (by decide)) ?_
    | with_reducible refine OutWithin.next ?_
    | exact OutWithin.fault _ _ _
    | with_reducible refine OutWithin.ite ?_ ?_
    | with_reducible refine Within.ite ?_ ?_
    | split
    | dsimp only
    | with_reducible refine Within.upd rfl ?_ ?_ ?_

theorem within_execFlowStopCleared {S : List StatePart} {s0 : State} {time : Nat} {s : State}
    (hS : Covers S [.now, .host, .inProgress, .mgmt, .ev, .pwr, .fw, .cool, .hostMem])
    (hw : Within S s0 s) : OutWithin S s0 (execFlowStopCleared time s) := by
  unfold execFlowStopCleared
  repeat' first
    | with_reducible assumption
    | (intro m; cases m; constructor <;> first | with_reducible assumption)
    | (intro (p : StatePart); cases p <;> first | exact Or.inl (hS.part (by decide)) | with_reducible exact Or.inr rfl | with_reducible exact Or.inr ⟨rfl, rfl⟩ | with_reducible exact Or.inr (Nat.le_refl _))
    | intro _
    | with_reducible refine within_atTime (hS.mono (by decide)) ?_
    | with_reducible refine within_raise1 (hS.mono (by decide)) ?_
    | with_reducible refine within_settleFlow (hS.mono (by decide)) ?_
    | with_reducible refine OutWithin.next ?_
    | exact OutWithin.fault _ _ _
    | with_reducible refine OutWithin.ite ?_ ?_
    | with_reducible refine Within.ite ?_ ?_
    | split
    | dsimp only
    | with_reducible refine Within.upd rfl ?_ ?_ ?_

theorem within_modHot {S : List StatePart} {s0 : State} {k : Nat} {f : HotState → HotState} {s : State}
    (hS : Covers S [.cool])
    (hw : Within S s0 s) : Within S s0 (modHot k f s) := by
  unfold modHot
  repeat' first
    | with_reducible assumption
    | (intro m; cases m; constructor <;> first | with_reducible assumption | (refine keysRise_mapSet _ _ _ _ ?_; with_reducible assumption) | rfl)
    | (intro (p : StatePart); cases p <;> first | exact Or.inl (hS.part (by decide)) | with_reducible exact Or.inr rfl | with_reducible exact Or.inr ⟨rfl, rfl⟩ | with_reducible exact Or.inr (Nat.le_refl _))
    | intro _
    | split
    | dsimp only
    | with_reducible refine Within.upd rfl ?_ ?_ ?_

theorem within_diodeOffset {S : List StatePart} {s0 : State} {k : Nat} {d : Nat} {s : State}
    (hS : Covers S [.host, .ev, .fw, .err, .cool, .hostMem, .bootLog])
    (hw : Within S s0 s) : Within S s0 (diodeOffset k d s) := by
  unfold diodeOffset
  repeat' first
    | with_reducible assumption
    | intro _
    | with_reducible refine within_examineValue (hS.mono (by decide)) ?_
    | with_reducible refine within_modHot (hS.mono (by decide)) ?_
    | split
    | dsimp only

theorem within_takeDiode {S : List StatePart} {s0 : State} {k : Nat} {d : Nat} {raw : Int} {s : State}
    (hS : Covers S [.host, .ev, .fw, .err, .cool, .hostMem, .bootLog])
    (hw : Within S s0 s) : Within S s0 (takeDiode k d raw s) := by
  unfold takeDiode
  repeat' first
    | with_reducible assumption
    | intro _
    | with_reducible refine within_diodeOffset (hS.mono (by decide)) ?_
    | with_reducible refine within_logAdd (hS.mono (by decide)) ?_
    | with_reducible refine within_modHot (hS.mono (by decide)) ?_
    | with_reducible refine within_raise1 (hS.mono (by decide)) ?_
    | with_reducible refine within_scoreWear (hS.mono (by decide)) ?_
    | with_reducible refine Within.ite ?_ ?_
    | split
    | dsimp only

theorem within_hotWarn {S : List StatePart} {s0 : State} {k : Nat} {avg : Int} {s : State}
    (hS : Covers S [.host, .ev, .fw, .cool, .hostMem])
    (hw : Within S s0 s) : Within S s0 (hotWarn k avg s) := by
  unfold hotWarn
  repeat' first
    | with_reducible assumption
    | intro _
    | with_reducible refine within_modHot (hS.mono (by decide)) ?_
    | with_reducible refine within_raise1 (hS.mono (by decide)) ?_
    | with_reducible refine Within.ite ?_ ?_
    | split
    | dsimp only

theorem within_hotAverage {S : List StatePart} {s0 : State} {k : Nat} {x : Int} {s : State}
    (hS : Covers S [.host, .ev, .fw, .cool, .hostMem])
    (hw : Within S s0 s) : Within S s0 (hotAverage k x s) := by
  unfold hotAverage
  repeat' first
    | with_reducible assumption
    | intro _
    | with_reducible refine within_hotWarn (hS.mono (by decide)) ?_
    | with_reducible refine within_modHot (hS.mono (by decide)) ?_
    | split
    | dsimp only

theorem within_thermalTrip {S : List StatePart} {s0 : State} {code : Nat} {k : Nat} {arg : Nat} {inj : Bool} {s : State}
    (hS : Covers S [.fp, .host, .inProgress, .mgmt, .measure, .ev, .parts, .pwr, .fw, .err, .installs, .fab, .hbms, .bufs, .engines, .links, .mem, .bays, .cores, .hostMem, .bootGeneration, .bootFailures, .bootLog])
    (hw : Within S s0 s) : Within S s0 (thermalTrip code k arg inj s) := by
  unfold thermalTrip
  repeat' first
    | with_reducible assumption
    | intro _
    | with_reducible refine within_logAdd (hS.mono (by decide)) ?_
    | with_reducible refine within_loseSites (hS.mono (by decide)) ?_
    | with_reducible refine within_raise1 (hS.mono (by decide)) ?_
    | with_reducible refine within_raiseCritical (hS.mono (by decide)) ?_
    | with_reducible refine Within.ite ?_ ?_
    | split
    | dsimp only

theorem within_settleKeystone {S : List StatePart} {s0 : State} {i : Nat} {s : State}
    (hS : Covers S [.fp, .host, .ev, .fw, .hostMem, .bootGeneration])
    (hw : Within S s0 s) : Within S s0 (settleKeystone i s) := by
  unfold settleKeystone
  repeat' first
    | with_reducible assumption
    | intro _
    | with_reducible refine within_modEntry (hS.mono (by decide)) ?_
    | with_reducible refine within_recordChange (hS.mono (by decide)) ?_ ?_
    | with_reducible refine Within.ite ?_ ?_
    | split
    | dsimp only

theorem within_hotSpotLost {S : List StatePart} {s0 : State} {k : Nat} {inj : Bool} {s : State}
    (hS : Covers S [.fp, .host, .inProgress, .mgmt, .measure, .ev, .parts, .pwr, .fw, .err, .cool, .installs, .fab, .hbms, .bufs, .engines, .links, .mem, .bays, .cores, .hostMem, .bootGeneration, .bootFailures, .bootLog])
    (hw : Within S s0 s) : Within S s0 (hotSpotLost k inj s) := by
  unfold hotSpotLost
  repeat' first
    | with_reducible assumption
    | intro _
    | with_reducible refine within_modHot (hS.mono (by decide)) ?_
    | with_reducible refine within_raise1 (hS.mono (by decide)) ?_
    | with_reducible refine within_settleKeystone (hS.mono (by decide)) ?_
    | with_reducible refine within_stopTrip (hS.mono (by decide)) ?_
    | with_reducible refine within_thermalTrip (hS.mono (by decide)) ?_
    | with_reducible refine Within.ite ?_ ?_
    | split
    | dsimp only

theorem within_hotHard {S : List StatePart} {s0 : State} {k : Nat} {x : Int} {s : State}
    (hS : Covers S [.fp, .host, .inProgress, .mgmt, .measure, .ev, .parts, .pwr, .fw, .err, .cool, .installs, .fab, .hbms, .bufs, .engines, .links, .mem, .bays, .cores, .hostMem, .bootGeneration, .bootFailures, .bootLog])
    (hw : Within S s0 s) : Within S s0 (hotHard k x s) := by
  unfold hotHard
  repeat' first
    | with_reducible assumption
    | intro _
    | with_reducible refine within_modHot (hS.mono (by decide)) ?_
    | with_reducible refine within_stopTrip (hS.mono (by decide)) ?_
    | with_reducible refine within_thermalTrip (hS.mono (by decide)) ?_
    | with_reducible refine Within.ite ?_ ?_
    | split
    | dsimp only

theorem within_hotAfterTrip {S : List StatePart} {s0 : State} {k : Nat} {x : Int} {s : State}
    (hS : Covers S [.host, .mgmt, .ev, .fw, .err, .cool, .hostMem, .bootLog])
    (hw : Within S s0 s) : Within S s0 (hotAfterTrip k x s) := by
  unfold hotAfterTrip
  repeat' first
    | with_reducible assumption
    | intro _
    | with_reducible refine within_logAdd (hS.mono (by decide)) ?_
    | with_reducible refine within_modHot (hS.mono (by decide)) ?_
    | with_reducible refine within_raiseCritical (hS.mono (by decide)) ?_
    | with_reducible refine Within.ite ?_ ?_
    | split
    | dsimp only

theorem within_diodesTaken {S : List StatePart} {s0 : State} {k : Nat} {d0 : Int} {d1 : Int} {s : State}
    (hS : Covers S [.host, .ev, .fw, .err, .cool, .hostMem, .bootLog])
    (hw : Within S s0 s) : Within S s0 (diodesTaken k d0 d1 s) := by
  unfold diodesTaken
  repeat' first
    | with_reducible assumption
    | (intro m; cases m; constructor <;> first | with_reducible assumption)
    | (intro (p : StatePart); cases p <;> first | exact Or.inl (hS.part (by decide)) | with_reducible exact Or.inr rfl | with_reducible exact Or.inr ⟨rfl, rfl⟩ | with_reducible exact Or.inr (Nat.le_refl _))
    | intro _
    | with_reducible refine within_modHot (hS.mono (by decide)) ?_
    | with_reducible refine within_takeDiode (hS.mono (by decide)) ?_
    | split
    | dsimp only
    | with_reducible refine Within.upd rfl ?_ ?_ ?_

theorem within_hotJudge {S : List StatePart} {s0 : State} {k : Nat} {s : State}
    (hS : Covers S [.fp, .host, .inProgress, .mgmt, .measure, .ev, .parts, .pwr, .fw, .err, .cool, .installs, .fab, .hbms, .bufs, .engines, .links, .mem, .bays, .cores, .hostMem, .bootGeneration, .bootFailures, .bootLog])
    (hw : Within S s0 s) : Within S s0 (hotJudge k s) := by
  unfold hotJudge
  repeat' first
    | with_reducible assumption
    | intro _
    | with_reducible refine within_hotAverage (hS.mono (by decide)) ?_
    | with_reducible refine within_hotHard (hS.mono (by decide)) ?_
    | with_reducible refine within_hotSpotLost (hS.mono (by decide)) ?_
    | with_reducible refine Within.ite ?_ ?_
    | split
    | dsimp only

theorem within_execDiodeSample {S : List StatePart} {s0 : State} {h : HotSpot} {d0 : Int} {d1 : Int} {time : Nat} {s : State}
    (hS : Covers S [.now, .fp, .host, .inProgress, .mgmt, .measure, .ev, .parts, .pwr, .fw, .err, .cool, .installs, .fab, .hbms, .bufs, .engines, .links, .mem, .bays, .cores, .hostMem, .bootGeneration, .bootFailures, .bootLog])
    (hw : Within S s0 s) : OutWithin S s0 (execDiodeSample h d0 d1 time s) := by
  unfold execDiodeSample
  repeat' first
    | with_reducible assumption
    | intro _
    | with_reducible refine within_atTime (hS.mono (by decide)) ?_
    | with_reducible refine within_diodesTaken (hS.mono (by decide)) ?_
    | with_reducible refine within_hotAfterTrip (hS.mono (by decide)) ?_
    | with_reducible refine within_hotJudge (hS.mono (by decide)) ?_
    | with_reducible refine OutWithin.next ?_
    | exact OutWithin.fault _ _ _
    | with_reducible refine OutWithin.ite ?_ ?_
    | with_reducible refine Within.ite ?_ ?_
    | split
    | dsimp only

theorem within_execDiodeDisagree {S : List StatePart} {s0 : State} {h : HotSpot} {time : Nat} {s : State}
    (hS : Covers S [.now, .host, .ev, .fw, .err, .cool, .hostMem, .bootLog])
    (hw : Within S s0 s) : OutWithin S s0 (execDiodeDisagree h time s) := by
  unfold execDiodeDisagree
  repeat' first
    | with_reducible assumption
    | intro _
    | with_reducible refine within_atTime (hS.mono (by decide)) ?_
    | with_reducible refine within_logAdd (hS.mono (by decide)) ?_
    | with_reducible refine within_modHot (hS.mono (by decide)) ?_
    | with_reducible refine within_raise1 (hS.mono (by decide)) ?_
    | with_reducible refine within_scoreWear (hS.mono (by decide)) ?_
    | with_reducible refine OutWithin.next ?_
    | exact OutWithin.fault _ _ _
    | with_reducible refine OutWithin.ite ?_ ?_
    | with_reducible refine Within.ite ?_ ?_
    | split
    | dsimp only

theorem within_inletStep {S : List StatePart} {s0 : State} {n : Nat} {s : State}
    (hS : Covers S [.host, .ev, .fw, .cool, .hostMem])
    (hw : Within S s0 s) : Within S s0 (inletStep n s) := by
  unfold inletStep
  repeat' first
    | with_reducible assumption
    | (intro m; cases m; constructor <;> first | with_reducible assumption)
    | (intro (p : StatePart); cases p <;> first | exact Or.inl (hS.part (by decide)) | with_reducible exact Or.inr rfl | with_reducible exact Or.inr ⟨rfl, rfl⟩ | with_reducible exact Or.inr (Nat.le_refl _))
    | intro _
    | with_reducible refine within_raise1 (hS.mono (by decide)) ?_
    | with_reducible refine Within.ite ?_ ?_
    | split
    | dsimp only
    | with_reducible refine Within.upd rfl ?_ ?_ ?_

theorem within_execCoolantTemp {S : List StatePart} {s0 : State} {inlet : Int} {time : Nat} {s : State}
    (hS : Covers S [.now, .host, .ev, .fw, .cool, .bays, .hostMem])
    (hw : Within S s0 s) : OutWithin S s0 (execCoolantTemp inlet time s) := by
  unfold execCoolantTemp
  repeat' first
    | with_reducible assumption
    | (intro m; cases m; constructor <;> first | with_reducible assumption)
    | (intro (p : StatePart); cases p <;> first | exact Or.inl (hS.part (by decide)) | with_reducible exact Or.inr rfl | with_reducible exact Or.inr ⟨rfl, rfl⟩ | with_reducible exact Or.inr (Nat.le_refl _))
    | intro _
    | with_reducible refine within_atTime (hS.mono (by decide)) ?_
    | with_reducible refine within_inletStep (hS.mono (by decide)) ?_
    | with_reducible refine within_settleBoost (hS.mono (by decide)) ?_
    | with_reducible refine OutWithin.next ?_
    | exact OutWithin.fault _ _ _
    | with_reducible refine OutWithin.ite ?_ ?_
    | with_reducible refine Within.ite ?_ ?_
    | split
    | dsimp only
    | with_reducible refine Within.upd rfl ?_ ?_ ?_

theorem within_strainTaken {S : List StatePart} {s0 : State} {i : Nat} {strain : Int} {s : State}
    (hS : Covers S [.host, .ev, .fw, .cool, .hostMem])
    (hw : Within S s0 s) : Within S s0 (strainTaken i strain s) := by
  unfold strainTaken
  repeat' first
    | with_reducible assumption
    | (intro m; cases m; constructor <;> first | with_reducible assumption | (refine keysRise_mapSet _ _ _ _ ?_; with_reducible assumption))
    | (intro (p : StatePart); cases p <;> first | exact Or.inl (hS.part (by decide)) | with_reducible exact Or.inr rfl | with_reducible exact Or.inr ⟨rfl, rfl⟩ | with_reducible exact Or.inr (Nat.le_refl _))
    | intro _
    | with_reducible refine within_raise1 (hS.mono (by decide)) ?_
    | with_reducible refine Within.ite ?_ ?_
    | split
    | dsimp only
    | with_reducible refine Within.upd rfl ?_ ?_ ?_

theorem within_execStrainHigh {S : List StatePart} {s0 : State} {p : SiteId} {strain : Option Int} {time : Nat} {s : State}
    (hS : Covers S [.now, .fp, .host, .ev, .fw, .cool, .hostMem, .bootGeneration])
    (hw : Within S s0 s) : OutWithin S s0 (execStrainHigh p strain time s) := by
  unfold execStrainHigh
  repeat' first
    | with_reducible assumption
    | (intro m; cases m; constructor <;> first | with_reducible assumption | (refine keysRise_filter _ _ ?_; with_reducible assumption))
    | (intro (p : StatePart); cases p <;> first | exact Or.inl (hS.part (by decide)) | with_reducible exact Or.inr rfl | with_reducible exact Or.inr ⟨rfl, rfl⟩ | with_reducible exact Or.inr (Nat.le_refl _))
    | intro _
    | with_reducible refine within_atTime (hS.mono (by decide)) ?_
    | with_reducible refine within_settleKeystone (hS.mono (by decide)) ?_
    | with_reducible refine within_strainTaken (hS.mono (by decide)) ?_
    | with_reducible refine OutWithin.next ?_
    | exact OutWithin.fault _ _ _
    | with_reducible refine OutWithin.ite ?_ ?_
    | with_reducible refine Within.ite ?_ ?_
    | split
    | dsimp only
    | with_reducible refine Within.upd rfl ?_ ?_ ?_

theorem within_doCoolingStatus {S : List StatePart} {s0 : State} {c : Cmd} {pay : List Byte} {s : State}
    (hS : Covers S [.host, .inProgress, .mgmt, .fw, .hostMem])
    (hw : Within S s0 s) : Within S s0 (doCoolingStatus c pay s) := by
  unfold doCoolingStatus
  repeat' first
    | with_reducible assumption
    | intro _
    | with_reducible refine within_checked (hS.mono (by decide)) ?_ ?_
    | with_reducible refine within_completeWithBuf (hS.mono (by decide)) ?_
    | with_reducible refine within_needProc (hS.mono (by decide)) ?_ ?_
    | split
    | dsimp only

theorem within_execCoolingStatus {S : List StatePart} {s0 : State} {c : Cmd} {s : State}
    (hS : Covers S [.now, .host, .inProgress, .mgmt, .fw, .hostMem])
    (hw : Within S s0 s) : OutWithin S s0 (execCoolingStatus c s) := by
  unfold execCoolingStatus
  repeat' first
    | with_reducible assumption
    | intro _
    | with_reducible refine within_doCoolingStatus (hS.mono (by decide)) ?_
    | with_reducible refine within_runRow (hS.mono (by decide)) ?_ ?_
    | with_reducible refine OutWithin.next ?_
    | exact OutWithin.fault _ _ _
    | split
    | dsimp only

end Sys2Proof.Laws
end

