-- ==== Sys2Proof/Laws/FrameVectorEngine.lean ====
section
/-! SUPPORT. What each operation of Machine/VectorEngine.lean may change. -/

set_option linter.unusedTactic false
set_option linter.unreachableTactic false
set_option linter.unusedVariables false
set_option linter.unusedSimpArgs false

namespace Sys2Proof.Laws

open Machine

theorem within_execVectorChain {S : List StatePart} {s0 : State} {k : CoreId} {t : Nat} {s : State}
    (hS : Covers S [.host, .ev, .fw, .err, .bays, .cores, .xings, .hostMem, .bootLog])
    (hw : Within S s0 s) : OutWithin S s0 (execVectorChain k t s) := by
  unfold execVectorChain
  repeat' first
    | with_reducible assumption
    | intro _
    | with_reducible refine within_issueRun (hS.mono (by decide)) ?_ ?_ ?_
    | with_reducible refine within_modCore (hS.mono (by decide)) ?_
    | with_reducible refine OutWithin.next ?_
    | exact OutWithin.fault _ _ _
    | split
    | dsimp only

theorem within_chainStart {S : List StatePart} {s0 : State} {k : Nat} {t : Nat} {e : EngineOp} {s : State}
    (hS : Covers S [.freeCtr, .host, .ev, .fw, .err, .bays, .cores, .hostMem, .bootLog])
    (hw : Within S s0 s) : Within S s0 (chainStart k t e s) := by
  unfold chainStart
  repeat' first
    | with_reducible assumption
    | intro _
    | with_reducible refine within_checkReads (hS.mono (by decide)) ?_
    | with_reducible refine within_examineAcc (hS.mono (by decide)) ?_
    | with_reducible refine within_examineParity (hS.mono (by decide)) ?_
    | with_reducible refine within_expectTag (hS.mono (by decide)) ?_
    | with_reducible refine within_freshOp (hS.mono (by decide)) ?_
    | with_reducible refine within_modCore (hS.mono (by decide)) ?_
    | with_reducible refine within_noteEvent (hS.mono (by decide)) ?_
    | with_reducible refine within_openWin (hS.mono (by decide)) ?_
    | with_reducible refine within_putRow (hS.mono (by decide)) ?_
    | with_reducible refine within_setCore (hS.mono (by decide)) ?_
    | with_reducible refine within_taintOp (hS.mono (by decide)) ?_
    | with_reducible refine Within.foldl _ _ (fun s a h => ?_) ?_
    | with_reducible refine Within.foldl_fourth _ _ (fun r a h => ?_) ?_
    | with_reducible refine Within.foldl_third _ _ (fun r a h => ?_) ?_
    | with_reducible refine Within.foldl_snd _ _ (fun r a h => ?_) ?_
    | with_reducible refine Within.foldl_fst _ _ (fun r a h => ?_) ?_
    | with_reducible refine Within.ite ?_ ?_
    | split
    | dsimp only

theorem within_execVectorChainStart {S : List StatePart} {s0 : State} {k : CoreId} {t : Nat} {s : State}
    (hS : Covers S [.freeCtr, .host, .ev, .fw, .err, .bays, .cores, .xings, .hostMem, .bootLog])
    (hw : Within S s0 s) : OutWithin S s0 (execVectorChainStart k t s) := by
  unfold execVectorChainStart
  repeat' first
    | with_reducible assumption
    | intro _
    | with_reducible refine within_chainStart (hS.mono (by decide)) ?_
    | with_reducible refine OptPairWithin.map (within_enterCycle (hS.mono (by decide)) ?_) (fun r h => ?_)
    | with_reducible refine (within_enterCycle (hS.mono (by decide)) ?_).get (by with_reducible assumption)
    | with_reducible refine within_enterCycle (hS.mono (by decide)) ?_
    | with_reducible refine within_modCore (hS.mono (by decide)) ?_
    | with_reducible exact within_enterCycle (hS.mono (by decide)) (by with_reducible assumption) (by with_reducible assumption)
    | with_reducible refine OutWithin.next ?_
    | exact OutWithin.fault _ _ _
    | with_reducible refine OutWithin.ite ?_ ?_
    | with_reducible refine Within.ite ?_ ?_
    | split
    | dsimp only

theorem within_execVectorInputConsume {S : List StatePart} {s0 : State} {k : CoreId} {t : Nat} {s : State}
    (hS : Covers S [.bays, .cores, .xings])
    (hw : Within S s0 s) : OutWithin S s0 (execVectorInputConsume k t s) := by
  unfold execVectorInputConsume
  repeat' first
    | with_reducible assumption
    | intro _
    | with_reducible refine within_runTagActs (hS.mono (by decide)) ?_
    | with_reducible refine OutWithin.next ?_
    | exact OutWithin.fault _ _ _
    | split
    | dsimp only

theorem within_execVectorOutputFull {S : List StatePart} {s0 : State} {k : CoreId} {t : Nat} {s : State}
    (hS : Covers S [.bays, .cores, .xings])
    (hw : Within S s0 s) : OutWithin S s0 (execVectorOutputFull k t s) := by
  unfold execVectorOutputFull
  repeat' first
    | with_reducible assumption
    | intro _
    | with_reducible refine within_runTagActs (hS.mono (by decide)) ?_
    | with_reducible refine OutWithin.next ?_
    | exact OutWithin.fault _ _ _
    | split
    | dsimp only

end Sys2Proof.Laws
end

