-- ==== Sys2Proof/Laws/FrameLoad.lean ====
section
/-! SUPPORT. What each operation of Machine/Load.lean may change. -/

set_option linter.unusedTactic false
set_option linter.unreachableTactic false
set_option linter.unusedVariables false
set_option linter.unusedSimpArgs false

namespace Sys2Proof.Laws

open Machine

theorem within_writeImageRow {S : List StatePart} {s0 : State} {k : Nat} {row : Nat} {d : Row} {s : State}
    (hS : Covers S [.cores])
    (hw : Within S s0 s) : Within S s0 (writeImageRow k row d s) := by
  unfold writeImageRow
  repeat' first
    | with_reducible assumption
    | intro _
    | with_reducible refine within_modCore (hS.mono (by decide)) ?_
    | split
    | dsimp only

theorem within_writeImageRows {S : List StatePart} {s0 : State} {im : Img} {k : Nat} {s : State}
    (hS : Covers S [.cores])
    (hw : Within S s0 s) : Within S s0 (writeImageRows im k s) := by
  unfold writeImageRows
  repeat' first
    | with_reducible assumption
    | intro _
    | with_reducible refine within_writeImageRow (hS.mono (by decide)) ?_
    | with_reducible refine Within.foldl _ _ (fun s a h => ?_) ?_
    | with_reducible refine Within.foldl_fourth _ _ (fun r a h => ?_) ?_
    | with_reducible refine Within.foldl_third _ _ (fun r a h => ?_) ?_
    | with_reducible refine Within.foldl_snd _ _ (fun r a h => ?_) ?_
    | with_reducible refine Within.foldl_fst _ _ (fun r a h => ?_) ?_
    | split
    | dsimp only

theorem within_declareXing {S : List StatePart} {s0 : State} {x : XDesc} {s : State}
    (hS : Covers S [.xings])
    (hw : Within S s0 s) : Within S s0 (declareXing x s) := by
  unfold declareXing
  repeat' first
    | with_reducible assumption
    | (intro m; cases m; constructor <;> first | with_reducible assumption)
    | (intro (p : StatePart); cases p <;> first | exact Or.inl (hS.part (by decide)) | with_reducible exact Or.inr rfl | with_reducible exact Or.inr ⟨rfl, rfl⟩ | with_reducible exact Or.inr (Nat.le_refl _))
    | intro _
    | with_reducible refine Within.ite ?_ ?_
    | split
    | dsimp only
    | with_reducible refine Within.upd rfl ?_ ?_ ?_

theorem within_applyLoad {S : List StatePart} {s0 : State} {i : Nat} {r : LoadReq} {s : State}
    (hS : Covers S [.bays, .cores, .xings])
    (hw : Within S s0 s) : Within S s0 (applyLoad i r s) := by
  unfold applyLoad
  repeat' first
    | with_reducible assumption
    | intro _
    | with_reducible refine within_declareXing (hS.mono (by decide)) ?_
    | with_reducible refine within_dropXings (hS.mono (by decide)) ?_
    | with_reducible refine within_modCore (hS.mono (by decide)) ?_
    | with_reducible refine within_modCores (hS.mono (by decide)) ?_
    | with_reducible refine within_openXings (hS.mono (by decide)) ?_
    | with_reducible refine within_setBay (hS.mono (by decide)) ?_
    | with_reducible refine within_settleHolds (hS.mono (by decide)) ?_
    | with_reducible refine within_writeImageRows (hS.mono (by decide)) ?_
    | with_reducible refine Within.foldl _ _ (fun s a h => ?_) ?_
    | with_reducible refine Within.foldl_fourth _ _ (fun r a h => ?_) ?_
    | with_reducible refine Within.foldl_third _ _ (fun r a h => ?_) ?_
    | with_reducible refine Within.foldl_snd _ _ (fun r a h => ?_) ?_
    | with_reducible refine Within.foldl_fst _ _ (fun r a h => ?_) ?_
    | split
    | dsimp only

theorem within_keepReport {S : List StatePart} {s0 : State} {r : LoadReq} {e : LoadErr} {bay : Nat} {s : State}
    (hS : Covers S [.parts])
    (hw : Within S s0 s) : Within S s0 (keepReport r e bay s) := by
  unfold keepReport
  repeat' first
    | with_reducible assumption
    | intro _
    | with_reducible refine within_modPart (hS.mono (by decide)) ?_
    | split
    | dsimp only

theorem within_prepareCores {S : List StatePart} {s0 : State} {r : LoadReq} {s : State}
    (hS : Covers S [.freeCtr, .fp, .host, .inProgress, .mgmt, .measure, .ev, .parts, .fw, .err, .installs, .fab, .bufs, .engines, .links, .mem, .bays, .cores, .hostMem, .bootGeneration, .bootFailures, .bootLog])
    (hw : Within S s0 s) : Within S s0 (prepareCores r s) := by
  unfold prepareCores
  repeat' first
    | with_reducible assumption
    | intro _
    | with_reducible refine within_loadMicro (hS.mono (by decide)) ?_
    | with_reducible refine within_retestBuffer (hS.mono (by decide)) ?_
    | with_reducible refine within_retestCore (hS.mono (by decide)) ?_
    | with_reducible refine Within.foldl _ _ (fun s a h => ?_) ?_
    | with_reducible refine Within.foldl_fourth _ _ (fun r a h => ?_) ?_
    | with_reducible refine Within.foldl_third _ _ (fun r a h => ?_) ?_
    | with_reducible refine Within.foldl_snd _ _ (fun r a h => ?_) ?_
    | with_reducible refine Within.foldl_fst _ _ (fun r a h => ?_) ?_
    | with_reducible refine Within.ite ?_ ?_
    | split
    | dsimp only

theorem within_tryLoad {S : List StatePart} {s0 : State} {i : Nat} {r : LoadReq} {s : State}
    (hS : Covers S [.freeCtr, .fp, .host, .inProgress, .mgmt, .measure, .ev, .parts, .fw, .err, .installs, .fab, .bufs, .engines, .links, .mem, .bays, .cores, .xings, .hostMem, .bootGeneration, .bootFailures, .bootLog])
    (hw : Within S s0 s) : Within S s0 (tryLoad i r s).2 := by
  unfold tryLoad
  repeat' first
    | with_reducible assumption
    | intro _
    | with_reducible refine within_applyLoad (hS.mono (by decide)) ?_
    | with_reducible refine within_prepareCores (hS.mono (by decide)) ?_
    | split
    | dsimp only

theorem within_finishLoad {S : List StatePart} {s0 : State} {i : Nat} {r : LoadReq} {okDetail : Nat} {badDetail : Nat} {s : State}
    (hS : Covers S [.freeCtr, .fp, .host, .inProgress, .mgmt, .measure, .ev, .parts, .fw, .err, .installs, .fab, .bufs, .engines, .links, .mem, .bays, .cores, .xings, .hostMem, .bootGeneration, .bootFailures, .bootLog])
    (hw : Within S s0 s) : Within S s0 (finishLoad i r okDetail badDetail s) := by
  unfold finishLoad
  repeat' first
    | with_reducible assumption
    | intro _
    | with_reducible refine within_complete (hS.mono (by decide)) ?_
    | with_reducible refine within_keepReport (hS.mono (by decide)) ?_
    | with_reducible refine within_tryLoad (hS.mono (by decide)) ?_
    | split
    | dsimp only

theorem within_refuseLoad {S : List StatePart} {s0 : State} {r : LoadReq} {status : Nat} {detail : Nat} {s : State}
    (hS : Covers S [.host, .inProgress, .mgmt, .parts, .hostMem])
    (hw : Within S s0 s) : Within S s0 (refuseLoad r status detail s) := by
  unfold refuseLoad
  repeat' first
    | with_reducible assumption
    | intro _
    | with_reducible refine within_complete (hS.mono (by decide)) ?_
    | with_reducible refine within_keepReport (hS.mono (by decide)) ?_
    | split
    | dsimp only

theorem within_doBayLoad {S : List StatePart} {s0 : State} {c : Cmd} {pay : List Byte} {s : State}
    (hS : Covers S [.freeCtr, .fp, .host, .inProgress, .mgmt, .measure, .ev, .parts, .fw, .err, .installs, .fab, .bufs, .engines, .links, .mem, .bays, .cores, .xings, .hostMem, .bootGeneration, .bootFailures, .bootLog])
    (hw : Within S s0 s) : Within S s0 (doBayLoad c pay s) := by
  unfold doBayLoad
  repeat' first
    | with_reducible assumption
    | intro _
    | with_reducible refine within_finishLoad (hS.mono (by decide)) ?_
    | with_reducible refine within_needProcs (hS.mono (by decide)) ?_ ?_
    | with_reducible refine within_refuseLoad (hS.mono (by decide)) ?_
    | with_reducible refine Within.ite ?_ ?_
    | split
    | dsimp only

theorem within_execBayLoad {S : List StatePart} {s0 : State} {c : Cmd} {s : State}
    (hS : Covers S [.freeCtr, .now, .fp, .host, .inProgress, .mgmt, .measure, .ev, .parts, .fw, .err, .installs, .fab, .bufs, .engines, .links, .mem, .bays, .cores, .xings, .hostMem, .bootGeneration, .bootFailures, .bootLog])
    (hw : Within S s0 s) : OutWithin S s0 (execBayLoad c s) := by
  unfold execBayLoad
  repeat' first
    | with_reducible assumption
    | intro _
    | with_reducible refine within_doBayLoad (hS.mono (by decide)) ?_
    | with_reducible refine within_runRow (hS.mono (by decide)) ?_ ?_
    | with_reducible refine OutWithin.next ?_
    | exact OutWithin.fault _ _ _
    | split
    | dsimp only

theorem within_reloadStep {S : List StatePart} {s0 : State} {i : Nat} {c : Cmd} {a : Nat} {n : Nat} {s : State}
    (hS : Covers S [.freeCtr, .fp, .host, .inProgress, .mgmt, .measure, .ev, .parts, .fw, .err, .installs, .fab, .bufs, .engines, .links, .mem, .bays, .cores, .xings, .hostMem, .bootGeneration, .bootFailures, .bootLog])
    (hw : Within S s0 s) : Within S s0 (reloadStep i c a n s) := by
  unfold reloadStep
  repeat' first
    | with_reducible assumption
    | intro _
    | with_reducible refine within_complete (hS.mono (by decide)) ?_
    | with_reducible refine within_finishLoad (hS.mono (by decide)) ?_
    | with_reducible refine within_refuseLoad (hS.mono (by decide)) ?_
    | with_reducible refine Within.ite ?_ ?_
    | split
    | dsimp only

theorem within_startReconfigure {S : List StatePart} {s0 : State} {c : Cmd} {pay : List Byte} {s : State}
    (hS : Covers S [.freeCtr, .fp, .host, .inProgress, .mgmt, .measure, .ev, .parts, .fw, .err, .installs, .fab, .bufs, .engines, .links, .mem, .bays, .cores, .xings, .hostMem, .bootGeneration, .bootFailures, .bootLog])
    (hw : Within S s0 s) : Within S s0 (startReconfigure c pay s) := by
  unfold startReconfigure
  repeat' first
    | with_reducible assumption
    | intro _
    | with_reducible refine within_bayRun (hS.mono (by decide)) ?_ ?_
    | with_reducible refine within_beginStop (hS.mono (by decide)) ?_
    | with_reducible refine within_reloadStep (hS.mono (by decide)) ?_
    | with_reducible refine Within.ite ?_ ?_
    | split
    | dsimp only

theorem within_doBayReconfigure {S : List StatePart} {s0 : State} {c : Cmd} {pay : List Byte} {s : State}
    (hS : Covers S [.freeCtr, .fp, .host, .inProgress, .mgmt, .measure, .ev, .parts, .fw, .err, .installs, .fab, .bufs, .engines, .links, .mem, .bays, .cores, .xings, .hostMem, .bootGeneration, .bootFailures, .bootLog])
    (hw : Within S s0 s) : Within S s0 (doBayReconfigure c pay s) := by
  unfold doBayReconfigure
  repeat' first
    | with_reducible assumption
    | intro _
    | with_reducible refine within_refuseLoad (hS.mono (by decide)) ?_
    | with_reducible refine within_startReconfigure (hS.mono (by decide)) ?_
    | with_reducible refine Within.ite ?_ ?_
    | split
    | dsimp only

theorem within_execBayReconfigure {S : List StatePart} {s0 : State} {c : Cmd} {s : State}
    (hS : Covers S [.freeCtr, .now, .fp, .host, .inProgress, .mgmt, .measure, .ev, .parts, .fw, .err, .installs, .fab, .bufs, .engines, .links, .mem, .bays, .cores, .xings, .hostMem, .bootGeneration, .bootFailures, .bootLog])
    (hw : Within S s0 s) : OutWithin S s0 (execBayReconfigure c s) := by
  unfold execBayReconfigure
  repeat' first
    | with_reducible assumption
    | intro _
    | with_reducible refine within_doBayReconfigure (hS.mono (by decide)) ?_
    | with_reducible refine within_runRow (hS.mono (by decide)) ?_ ?_
    | with_reducible refine OutWithin.next ?_
    | exact OutWithin.fault _ _ _
    | split
    | dsimp only

theorem within_afterStop {S : List StatePart} {s0 : State} {i : Nat} {part : Nat} {q : StopReq} {s : State}
    (hS : Covers S [.freeCtr, .fp, .host, .inProgress, .mgmt, .measure, .ev, .parts, .fw, .err, .installs, .fab, .bufs, .engines, .links, .mem, .bays, .cores, .xings, .hostMem, .bootGeneration, .bootFailures, .bootLog])
    (hw : Within S s0 s) : Within S s0 (afterStop i part q s) := by
  unfold afterStop
  repeat' first
    | with_reducible assumption
    | intro _
    | with_reducible refine within_complete (hS.mono (by decide)) ?_
    | with_reducible refine within_completeOpt (hS.mono (by decide)) ?_
    | with_reducible refine within_reloadStep (hS.mono (by decide)) ?_
    | with_reducible refine Within.ite ?_ ?_
    | split
    | dsimp only

theorem within_endStop {S : List StatePart} {s0 : State} {i : Nat} {s : State}
    (hS : Covers S [.freeCtr, .fp, .host, .inProgress, .mgmt, .measure, .ev, .parts, .pwr, .fw, .err, .install, .installs, .fab, .hbms, .bufs, .engines, .links, .mem, .bays, .cores, .xings, .hostMem, .bootGeneration, .bootFailures, .bootLog, .bootWear])
    (hw : Within S s0 s) : Within S s0 (endStop i s) := by
  unfold endStop
  repeat' first
    | with_reducible assumption
    | intro _
    | with_reducible refine within_afterStop (hS.mono (by decide)) ?_
    | with_reducible refine within_endRemoval (hS.mono (by decide)) ?_
    | with_reducible refine within_stopEpoch (hS.mono (by decide)) ?_
    | split
    | dsimp only

theorem within_stopAtOnce {S : List StatePart} {s0 : State} {i : Nat} {s : State}
    (hS : Covers S [.freeCtr, .fp, .host, .inProgress, .mgmt, .measure, .ev, .parts, .pwr, .fw, .err, .install, .installs, .fab, .hbms, .bufs, .engines, .links, .mem, .bays, .cores, .xings, .hostMem, .bootGeneration, .bootFailures, .bootLog, .bootWear])
    (hw : Within S s0 s) : Within S s0 (stopAtOnce i s) := by
  unfold stopAtOnce
  repeat' first
    | with_reducible assumption
    | intro _
    | with_reducible refine within_abandonAccess (hS.mono (by decide)) ?_
    | with_reducible refine within_closeXings (hS.mono (by decide)) ?_
    | with_reducible refine within_dropChange (hS.mono (by decide)) ?_
    | with_reducible refine within_endStop (hS.mono (by decide)) ?_
    | with_reducible refine within_modCores (hS.mono (by decide)) ?_
    | split
    | dsimp only

theorem within_execDrainComplete {S : List StatePart} {s0 : State} {b : BayId} {time : Nat} {s : State}
    (hS : Covers S [.freeCtr, .now, .fp, .host, .inProgress, .mgmt, .measure, .ev, .parts, .pwr, .fw, .err, .install, .installs, .fab, .hbms, .bufs, .engines, .links, .mem, .bays, .cores, .xings, .hostMem, .bootGeneration, .bootFailures, .bootLog, .bootWear])
    (hw : Within S s0 s) : OutWithin S s0 (execDrainComplete b time s) := by
  unfold execDrainComplete
  repeat' first
    | with_reducible assumption
    | intro _
    | with_reducible refine within_bayEvent (hS.mono (by decide)) ?_ ?_
    | with_reducible refine within_endStop (hS.mono (by decide)) ?_
    | with_reducible refine within_stopAtOnce (hS.mono (by decide)) ?_
    | with_reducible refine OutWithin.next ?_
    | exact OutWithin.fault _ _ _
    | with_reducible refine OutWithin.ite ?_ ?_
    | with_reducible refine Within.ite ?_ ?_
    | split
    | dsimp only

theorem within_execDrainOverrun {S : List StatePart} {s0 : State} {b : BayId} {time : Nat} {s : State}
    (hS : Covers S [.freeCtr, .now, .fp, .host, .inProgress, .mgmt, .measure, .ev, .parts, .pwr, .fw, .err, .install, .installs, .fab, .hbms, .bufs, .engines, .links, .mem, .bays, .cores, .xings, .hostMem, .bootGeneration, .bootFailures, .bootLog, .bootWear])
    (hw : Within S s0 s) : OutWithin S s0 (execDrainOverrun b time s) := by
  unfold execDrainOverrun
  repeat' first
    | with_reducible assumption
    | intro _
    | with_reducible refine within_abandonAccess (hS.mono (by decide)) ?_
    | with_reducible refine within_bayEvent (hS.mono (by decide)) ?_ ?_
    | with_reducible refine within_endStop (hS.mono (by decide)) ?_
    | with_reducible refine within_raise1 (hS.mono (by decide)) ?_
    | with_reducible refine within_setBay (hS.mono (by decide)) ?_
    | with_reducible refine OutWithin.next ?_
    | exact OutWithin.fault _ _ _
    | split
    | dsimp only

end Sys2Proof.Laws
end

