-- ==== Sys2Proof/Laws/FrameHostPort.lean ====
section
/-! SUPPORT. What each operation of Machine/HostPort.lean may change. -/

set_option linter.unusedTactic false
set_option linter.unreachableTactic false
set_option linter.unusedVariables false
set_option linter.unusedSimpArgs false

namespace Sys2Proof.Laws

open Machine

theorem within_barAccess {S : List StatePart} {s0 : State} {time : Nat} {eff : State → State} {s : State}
    (hS : Covers S [.now])
    (h_eff : ∀ y0, Within S s0 y0 → Within S s0 (eff y0))
    (hw : Within S s0 s) : OutWithin S s0 (barAccess time eff s) := by
  unfold barAccess
  repeat' first
    | with_reducible assumption
    | intro _
    | with_reducible refine h_eff _ ?_
    | with_reducible refine within_atTime (hS.mono (by decide)) ?_
    | with_reducible refine OutWithin.next ?_
    | exact OutWithin.fault _ _ _
    | with_reducible refine OutWithin.ite ?_ ?_
    | with_reducible refine Within.ite ?_ ?_
    | split
    | dsimp only

theorem within_setReadData {S : List StatePart} {s0 : State} {bs : List Byte} {s : State}
    (hS : Covers S [.host])
    (hw : Within S s0 s) : Within S s0 (setReadData bs s) := by
  unfold setReadData
  repeat' first
    | with_reducible assumption
    | (intro m; cases m; constructor <;> first | with_reducible assumption)
    | (intro (p : StatePart); cases p <;> first | exact Or.inl (hS.part (by decide)) | with_reducible exact Or.inr rfl | with_reducible exact Or.inr ⟨rfl, rfl⟩ | with_reducible exact Or.inr (Nat.le_refl _))
    | intro _
    | split
    | dsimp only
    | with_reducible refine Within.upd rfl ?_ ?_ ?_

theorem within_hdmServe {S : List StatePart} {s0 : State} {a : HdmAccess} {f : EccFinding} {s : State}
    (hS : Covers S [.freeCtr, .host, .ev, .fw, .err, .fab, .hbms, .bufs, .engines, .links, .mem, .cores, .hostMem, .bootLog, .bootStore, .bootStoreMem])
    (hw : Within S s0 s) : Within S s0 (hdmServe a f s).2.2 := by
  unfold hdmServe
  repeat' first
    | with_reducible assumption
    | intro _
    | with_reducible refine within_accessNow (hS.mono (by decide)) ?_
    | with_reducible refine Within.ite ?_ ?_
    | split
    | dsimp only

theorem within_hdmError {S : List StatePart} {s0 : State} {off : Nat} {status : Nat} {s : State}
    (hS : Covers S [.host, .ev, .fw, .hostMem])
    (hw : Within S s0 s) : Within S s0 (hdmError off status s) := by
  unfold hdmError
  repeat' first
    | with_reducible assumption
    | (intro m; cases m; constructor <;> first | with_reducible assumption)
    | (intro (p : StatePart); cases p <;> first | exact Or.inl (hS.part (by decide)) | with_reducible exact Or.inr rfl | with_reducible exact Or.inr ⟨rfl, rfl⟩ | with_reducible exact Or.inr (Nat.le_refl _))
    | intro _
    | with_reducible refine within_raise1 (hS.mono (by decide)) ?_
    | with_reducible refine within_signalVector (hS.mono (by decide)) ?_
    | split
    | dsimp only
    | with_reducible refine Within.upd rfl ?_ ?_ ?_

theorem within_execHdmAccess {S : List StatePart} {s0 : State} {a : HdmAccess} {f : EccFinding} {time : Nat} {s : State}
    (hS : Covers S [.freeCtr, .now, .host, .ev, .fw, .err, .fab, .hbms, .bufs, .engines, .links, .mem, .cores, .hostMem, .bootLog, .bootStore, .bootStoreMem])
    (hw : Within S s0 s) : OutWithin S s0 (execHdmAccess a f time s) := by
  unfold execHdmAccess
  repeat' first
    | with_reducible assumption
    | intro _
    | with_reducible refine within_barAccess (hS.mono (by decide)) ?_ ?_
    | with_reducible refine within_hdmError (hS.mono (by decide)) ?_
    | with_reducible refine within_hdmServe (hS.mono (by decide)) ?_
    | with_reducible refine within_setReadData (hS.mono (by decide)) ?_
    | with_reducible refine OutWithin.next ?_
    | exact OutWithin.fault _ _ _
    | with_reducible refine OutWithin.ite ?_ ?_
    | with_reducible refine Within.ite ?_ ?_
    | split
    | dsimp only

theorem within_settleWrites {S : List StatePart} {s0 : State} {off : Nat} {n : Nat} {s : State}
    (hS : Covers S [.freeCtr, .host, .ev, .fw, .err, .fab, .hbms, .bufs, .engines, .links, .mem, .cores, .hostMem, .bootLog, .bootStore, .bootStoreMem])
    (hw : Within S s0 s) : Within S s0 (settleWrites off n s) := by
  unfold settleWrites
  repeat' first
    | with_reducible assumption
    | intro _
    | with_reducible refine within_arrive (hS.mono (by decide)) ?_
    | with_reducible refine Within.foldl _ _ (fun s a h => ?_) ?_
    | with_reducible refine Within.foldl_fourth _ _ (fun r a h => ?_) ?_
    | with_reducible refine Within.foldl_third _ _ (fun r a h => ?_) ?_
    | with_reducible refine Within.foldl_snd _ _ (fun r a h => ?_) ?_
    | with_reducible refine Within.foldl_fst _ _ (fun r a h => ?_) ?_
    | split
    | dsimp only

theorem within_doBiasSet {S : List StatePart} {s0 : State} {c : Cmd} {pay : List Byte} {s : State}
    (hS : Covers S [.freeCtr, .host, .inProgress, .mgmt, .ev, .fw, .err, .fab, .hbms, .bufs, .engines, .links, .mem, .cores, .hostMem, .bootLog, .bootStore, .bootStoreMem])
    (hw : Within S s0 s) : Within S s0 (doBiasSet c pay s) := by
  unfold doBiasSet
  repeat' first
    | with_reducible assumption
    | (intro m; cases m; constructor <;> first | with_reducible assumption)
    | (intro (p : StatePart); cases p <;> first | exact Or.inl (hS.part (by decide)) | with_reducible exact Or.inr rfl | with_reducible exact Or.inr ⟨rfl, rfl⟩ | with_reducible exact Or.inr (Nat.le_refl _))
    | intro _
    | with_reducible refine within_checked (hS.mono (by decide)) ?_ ?_
    | with_reducible refine within_complete (hS.mono (by decide)) ?_
    | with_reducible refine within_settleWrites (hS.mono (by decide)) ?_
    | with_reducible refine Within.ite ?_ ?_
    | split
    | dsimp only
    | with_reducible refine Within.upd rfl ?_ ?_ ?_

theorem within_execBiasSet {S : List StatePart} {s0 : State} {c : Cmd} {s : State}
    (hS : Covers S [.freeCtr, .now, .host, .inProgress, .mgmt, .ev, .fw, .err, .fab, .hbms, .bufs, .engines, .links, .mem, .cores, .hostMem, .bootLog, .bootStore, .bootStoreMem])
    (hw : Within S s0 s) : OutWithin S s0 (execBiasSet c s) := by
  unfold execBiasSet
  repeat' first
    | with_reducible assumption
    | intro _
    | with_reducible refine within_doBiasSet (hS.mono (by decide)) ?_
    | with_reducible refine within_runRow (hS.mono (by decide)) ?_ ?_
    | with_reducible refine OutWithin.next ?_
    | exact OutWithin.fault _ _ _
    | split
    | dsimp only

theorem within_doHostWindowSet {S : List StatePart} {s0 : State} {c : Cmd} {pay : List Byte} {s : State}
    (hS : Covers S [.host, .inProgress, .mgmt, .parts, .hostMem])
    (hw : Within S s0 s) : Within S s0 (doHostWindowSet c pay s) := by
  unfold doHostWindowSet
  repeat' first
    | with_reducible assumption
    | intro _
    | with_reducible refine within_checked (hS.mono (by decide)) ?_ ?_
    | with_reducible refine within_complete (hS.mono (by decide)) ?_
    | with_reducible refine within_modPart (hS.mono (by decide)) ?_
    | with_reducible refine Within.ite ?_ ?_
    | split
    | dsimp only

theorem within_execHostWindowSet {S : List StatePart} {s0 : State} {c : Cmd} {s : State}
    (hS : Covers S [.now, .host, .inProgress, .mgmt, .parts, .hostMem])
    (hw : Within S s0 s) : OutWithin S s0 (execHostWindowSet c s) := by
  unfold execHostWindowSet
  repeat' first
    | with_reducible assumption
    | intro _
    | with_reducible refine within_doHostWindowSet (hS.mono (by decide)) ?_
    | with_reducible refine within_runRow (hS.mono (by decide)) ?_ ?_
    | with_reducible refine OutWithin.next ?_
    | exact OutWithin.fault _ _ _
    | split
    | dsimp only

theorem within_execHostWindowClear {S : List StatePart} {s0 : State} {c : Cmd} {s : State}
    (hS : Covers S [.now, .host, .inProgress, .mgmt, .parts, .hostMem])
    (hw : Within S s0 s) : OutWithin S s0 (execHostWindowClear c s) := by
  unfold execHostWindowClear
  repeat' first
    | with_reducible assumption
    | intro _
    | with_reducible refine within_doHostWindowSet (hS.mono (by decide)) ?_
    | with_reducible refine within_runRow (hS.mono (by decide)) ?_ ?_
    | with_reducible refine OutWithin.next ?_
    | exact OutWithin.fault _ _ _
    | split
    | dsimp only

theorem within_apRead {S : List StatePart} {s0 : State} {f : EccFinding} {a : Nat} {n : Nat} {s : State}
    (hS : Covers S [.freeCtr, .host, .ev, .fw, .err, .fab, .hbms, .bufs, .engines, .links, .mem, .cores, .hostMem, .bootLog, .bootStore, .bootStoreMem])
    (hw : Within S s0 s) : Within S s0 (apRead f a n s).2.2 := by
  unfold apRead
  repeat' first
    | with_reducible assumption
    | intro _
    | with_reducible refine within_accessNow (hS.mono (by decide)) ?_
    | with_reducible refine Within.foldl _ _ (fun s a h => ?_) ?_
    | with_reducible refine Within.foldl_fourth _ _ (fun r a h => ?_) ?_
    | with_reducible refine Within.foldl_third _ _ (fun r a h => ?_) ?_
    | with_reducible refine Within.foldl_snd _ _ (fun r a h => ?_) ?_
    | with_reducible refine Within.foldl_fst _ _ (fun r a h => ?_) ?_
    | split
    | dsimp only

theorem within_apPutRow {S : List StatePart} {s0 : State} {f : EccFinding} {k : Nat} {a : Nat} {bs : List Byte} {s : State}
    (hS : Covers S [.freeCtr, .host, .ev, .fw, .err, .hbms, .bufs, .mem, .cores, .hostMem, .bootLog, .bootStore, .bootStoreMem])
    (hw : Within S s0 s) : Within S s0 (apPutRow f k a bs s).2 := by
  unfold apPutRow
  repeat' first
    | with_reducible assumption
    | intro _
    | with_reducible refine within_readMem (hS.mono (by decide)) ?_
    | with_reducible refine within_writeMem (hS.mono (by decide)) ?_
    | with_reducible refine Within.ite ?_ ?_
    | split
    | dsimp only

theorem within_apWriteRow {S : List StatePart} {s0 : State} {f : EccFinding} {k : Nat} {a : Nat} {bs : List Byte} {s : State}
    (hS : Covers S [.freeCtr, .host, .ev, .fw, .err, .fab, .hbms, .bufs, .mem, .cores, .hostMem, .bootLog, .bootStore, .bootStoreMem])
    (hw : Within S s0 s) : Within S s0 (apWriteRow f k a bs s).2 := by
  unfold apWriteRow
  repeat' first
    | with_reducible assumption
    | intro _
    | with_reducible refine within_apPutRow (hS.mono (by decide)) ?_
    | with_reducible refine within_dropPacket (hS.mono (by decide)) ?_
    | with_reducible refine Within.ite ?_ ?_
    | split
    | dsimp only

theorem within_apAwait {S : List StatePart} {s0 : State} {q : Packet} {t : Nat} {tag : Nat} {s : State}
    (hS : Covers S [.host, .fab])
    (hw : Within S s0 s) : Within S s0 (apAwait q t tag s) := by
  unfold apAwait
  repeat' first
    | with_reducible assumption
    | (intro m; cases m; constructor <;> first | with_reducible assumption)
    | (intro (p : StatePart); cases p <;> first | exact Or.inl (hS.part (by decide)) | with_reducible exact Or.inr rfl | with_reducible exact Or.inr ⟨rfl, rfl⟩ | with_reducible exact Or.inr (Nat.le_refl _))
    | intro _
    | split
    | dsimp only
    | with_reducible refine Within.upd rfl ?_ ?_ ?_

theorem within_apWriteOne {S : List StatePart} {s0 : State} {f : EccFinding} {a : Nat} {bs : List Byte} {s : State}
    (hS : Covers S [.freeCtr, .host, .ev, .fw, .err, .fab, .hbms, .bufs, .engines, .links, .mem, .cores, .hostMem, .bootLog, .bootStore, .bootStoreMem])
    (hw : Within S s0 s) : Within S s0 (apWriteOne f a bs s).2 := by
  unfold apWriteOne
  repeat' first
    | with_reducible assumption
    | intro _
    | with_reducible refine within_apAwait (hS.mono (by decide)) ?_
    | with_reducible refine within_serve (hS.mono (by decide)) ?_
    | with_reducible refine Within.ite ?_ ?_
    | split
    | dsimp only

theorem within_apWrite {S : List StatePart} {s0 : State} {f : EccFinding} {a : Nat} {bs : List Byte} {s : State}
    (hS : Covers S [.freeCtr, .host, .ev, .fw, .err, .fab, .hbms, .bufs, .engines, .links, .mem, .cores, .hostMem, .bootLog, .bootStore, .bootStoreMem])
    (hw : Within S s0 s) : Within S s0 (apWrite f a bs s).2 := by
  unfold apWrite
  repeat' first
    | with_reducible assumption
    | intro _
    | with_reducible refine within_apWriteOne (hS.mono (by decide)) ?_
    | with_reducible refine within_apWriteRow (hS.mono (by decide)) ?_
    | with_reducible refine Within.foldl _ _ (fun s a h => ?_) ?_
    | with_reducible refine Within.foldl_fourth _ _ (fun r a h => ?_) ?_
    | with_reducible refine Within.foldl_third _ _ (fun r a h => ?_) ?_
    | with_reducible refine Within.foldl_snd _ _ (fun r a h => ?_) ?_
    | with_reducible refine Within.foldl_fst _ _ (fun r a h => ?_) ?_
    | split
    | dsimp only

theorem within_apDone {S : List StatePart} {s0 : State} {a : BarAccess} {status : Nat} {data : List Byte} {s : State}
    (hS : Covers S [.host])
    (hw : Within S s0 s) : Within S s0 (apDone a status data s) := by
  unfold apDone
  repeat' first
    | with_reducible assumption
    | intro _
    | with_reducible refine within_apError (hS.mono (by decide)) ?_
    | with_reducible refine within_setReadData (hS.mono (by decide)) ?_
    | with_reducible refine Within.ite ?_ ?_
    | split
    | dsimp only

theorem within_apServe {S : List StatePart} {s0 : State} {a : BarAccess} {f : EccFinding} {s : State}
    (hS : Covers S [.freeCtr, .host, .ev, .fw, .err, .fab, .hbms, .bufs, .engines, .links, .mem, .cores, .hostMem, .bootLog, .bootStore, .bootStoreMem])
    (hw : Within S s0 s) : Within S s0 (apServe a f s) := by
  unfold apServe
  repeat' first
    | with_reducible assumption
    | intro _
    | with_reducible refine within_apDone (hS.mono (by decide)) ?_
    | with_reducible refine within_apRead (hS.mono (by decide)) ?_
    | with_reducible refine within_apWrite (hS.mono (by decide)) ?_
    | with_reducible refine Within.ite ?_ ?_
    | split
    | dsimp only

theorem within_execApertureAccess {S : List StatePart} {s0 : State} {a : BarAccess} {f : EccFinding} {time : Nat} {s : State}
    (hS : Covers S [.freeCtr, .now, .host, .ev, .fw, .err, .fab, .hbms, .bufs, .engines, .links, .mem, .cores, .hostMem, .bootLog, .bootStore, .bootStoreMem])
    (hw : Within S s0 s) : OutWithin S s0 (execApertureAccess a f time s) := by
  unfold execApertureAccess
  repeat' first
    | with_reducible assumption
    | intro _
    | with_reducible refine within_apServe (hS.mono (by decide)) ?_
    | with_reducible refine within_barAccess (hS.mono (by decide)) ?_ ?_
    | with_reducible refine within_setReadData (hS.mono (by decide)) ?_
    | with_reducible refine OutWithin.next ?_
    | exact OutWithin.fault _ _ _
    | with_reducible refine OutWithin.ite ?_ ?_
    | with_reducible refine Within.ite ?_ ?_
    | split
    | dsimp only

theorem within_commitShadow {S : List StatePart} {s0 : State} {s : State}
    (hS : Covers S [.host])
    (hw : Within S s0 s) : Within S s0 (commitShadow s) := by
  unfold commitShadow
  repeat' first
    | with_reducible assumption
    | (intro m; cases m; constructor <;> first | with_reducible assumption)
    | (intro (p : StatePart); cases p <;> first | exact Or.inl (hS.part (by decide)) | with_reducible exact Or.inr rfl | with_reducible exact Or.inr ⟨rfl, rfl⟩ | with_reducible exact Or.inr (Nat.le_refl _))
    | intro _
    | with_reducible refine Within.ite ?_ ?_
    | split
    | dsimp only
    | with_reducible refine Within.upd rfl ?_ ?_ ?_

theorem within_execCommit {S : List StatePart} {s0 : State} {v : BitVec 32} {time : Nat} {s : State}
    (hS : Covers S [.now, .host])
    (hw : Within S s0 s) : OutWithin S s0 (execCommit v time s) := by
  unfold execCommit
  repeat' first
    | with_reducible assumption
    | intro _
    | with_reducible refine within_barAccess (hS.mono (by decide)) ?_ ?_
    | with_reducible refine within_commitShadow (hS.mono (by decide)) ?_
    | with_reducible refine OutWithin.next ?_
    | exact OutWithin.fault _ _ _
    | with_reducible refine OutWithin.ite ?_ ?_
    | with_reducible refine Within.ite ?_ ?_
    | split
    | dsimp only

theorem within_readAndClear {S : List StatePart} {s0 : State} {o : Nat} {clear : State → State} {s : State}
    (hS : Covers S [.host])
    (h_clear : ∀ y0, Within S s0 y0 → Within S s0 (clear y0))
    (hw : Within S s0 s) : Within S s0 (readAndClear o clear s) := by
  unfold readAndClear
  repeat' first
    | with_reducible assumption
    | intro _
    | with_reducible refine h_clear _ ?_
    | with_reducible refine within_setReadData (hS.mono (by decide)) ?_
    | split
    | dsimp only

theorem within_execDbErrors {S : List StatePart} {s0 : State} {time : Nat} {s : State}
    (hS : Covers S [.now, .host])
    (hw : Within S s0 s) : OutWithin S s0 (execDbErrors time s) := by
  unfold execDbErrors
  repeat' first
    | with_reducible assumption
    | (intro m; cases m; constructor <;> first | with_reducible assumption)
    | (intro (p : StatePart); cases p <;> first | exact Or.inl (hS.part (by decide)) | with_reducible exact Or.inr rfl | with_reducible exact Or.inr ⟨rfl, rfl⟩ | with_reducible exact Or.inr (Nat.le_refl _))
    | intro _
    | with_reducible refine within_barAccess (hS.mono (by decide)) ?_ ?_
    | with_reducible refine within_readAndClear (hS.mono (by decide)) ?_ ?_
    | with_reducible refine OutWithin.next ?_
    | exact OutWithin.fault _ _ _
    | split
    | dsimp only
    | with_reducible refine Within.upd rfl ?_ ?_ ?_

theorem within_execHdmErrors {S : List StatePart} {s0 : State} {time : Nat} {s : State}
    (hS : Covers S [.now, .host])
    (hw : Within S s0 s) : OutWithin S s0 (execHdmErrors time s) := by
  unfold execHdmErrors
  repeat' first
    | with_reducible assumption
    | (intro m; cases m; constructor <;> first | with_reducible assumption)
    | (intro (p : StatePart); cases p <;> first | exact Or.inl (hS.part (by decide)) | with_reducible exact Or.inr rfl | with_reducible exact Or.inr ⟨rfl, rfl⟩ | with_reducible exact Or.inr (Nat.le_refl _))
    | intro _
    | with_reducible refine within_barAccess (hS.mono (by decide)) ?_ ?_
    | with_reducible refine within_readAndClear (hS.mono (by decide)) ?_ ?_
    | with_reducible refine OutWithin.next ?_
    | exact OutWithin.fault _ _ _
    | split
    | dsimp only
    | with_reducible refine Within.upd rfl ?_ ?_ ?_

theorem within_execApErrors {S : List StatePart} {s0 : State} {time : Nat} {s : State}
    (hS : Covers S [.now, .host])
    (hw : Within S s0 s) : OutWithin S s0 (execApErrors time s) := by
  unfold execApErrors
  repeat' first
    | with_reducible assumption
    | (intro m; cases m; constructor <;> first | with_reducible assumption)
    | (intro (p : StatePart); cases p <;> first | exact Or.inl (hS.part (by decide)) | with_reducible exact Or.inr rfl | with_reducible exact Or.inr ⟨rfl, rfl⟩ | with_reducible exact Or.inr (Nat.le_refl _))
    | intro _
    | with_reducible refine within_barAccess (hS.mono (by decide)) ?_ ?_
    | with_reducible refine within_readAndClear (hS.mono (by decide)) ?_ ?_
    | with_reducible refine OutWithin.next ?_
    | exact OutWithin.fault _ _ _
    | split
    | dsimp only
    | with_reducible refine Within.upd rfl ?_ ?_ ?_

theorem within_setMbCmd {S : List StatePart} {s0 : State} {x : List Byte} {s : State}
    (hS : Covers S [.host])
    (hw : Within S s0 s) : Within S s0 (setMbCmd x s) := by
  unfold setMbCmd
  repeat' first
    | with_reducible assumption
    | (intro m; cases m; constructor <;> first | with_reducible assumption)
    | (intro (p : StatePart); cases p <;> first | exact Or.inl (hS.part (by decide)) | with_reducible exact Or.inr rfl | with_reducible exact Or.inr ⟨rfl, rfl⟩ | with_reducible exact Or.inr (Nat.le_refl _))
    | intro _
    | split
    | dsimp only
    | with_reducible refine Within.upd rfl ?_ ?_ ?_

theorem within_setMbData {S : List StatePart} {s0 : State} {x : List Byte} {s : State}
    (hS : Covers S [.host])
    (hw : Within S s0 s) : Within S s0 (setMbData x s) := by
  unfold setMbData
  repeat' first
    | with_reducible assumption
    | (intro m; cases m; constructor <;> first | with_reducible assumption)
    | (intro (p : StatePart); cases p <;> first | exact Or.inl (hS.part (by decide)) | with_reducible exact Or.inr rfl | with_reducible exact Or.inr ⟨rfl, rfl⟩ | with_reducible exact Or.inr (Nat.le_refl _))
    | intro _
    | split
    | dsimp only
    | with_reducible refine Within.upd rfl ?_ ?_ ?_

theorem within_setShadow {S : List StatePart} {s0 : State} {x : Aperture} {s : State}
    (hS : Covers S [.host])
    (hw : Within S s0 s) : Within S s0 (setShadow x s) := by
  unfold setShadow
  repeat' first
    | with_reducible assumption
    | (intro m; cases m; constructor <;> first | with_reducible assumption)
    | (intro (p : StatePart); cases p <;> first | exact Or.inl (hS.part (by decide)) | with_reducible exact Or.inr rfl | with_reducible exact Or.inr ⟨rfl, rfl⟩ | with_reducible exact Or.inr (Nat.le_refl _))
    | intro _
    | split
    | dsimp only
    | with_reducible refine Within.upd rfl ?_ ?_ ?_

theorem within_writeRegister {S : List StatePart} {s0 : State} {a : RegWrite} {s : State}
    (hS : Covers S [.host])
    (hw : Within S s0 s) : Within S s0 (writeRegister a s) := by
  unfold writeRegister
  repeat' first
    | with_reducible assumption
    | intro _
    | with_reducible refine within_setMbCmd (hS.mono (by decide)) ?_
    | with_reducible refine within_setMbData (hS.mono (by decide)) ?_
    | with_reducible refine within_setShadow (hS.mono (by decide)) ?_
    | with_reducible refine Within.ite ?_ ?_
    | split
    | dsimp only

theorem within_execRegisterWrite {S : List StatePart} {s0 : State} {a : RegWrite} {time : Nat} {s : State}
    (hS : Covers S [.now, .host])
    (hw : Within S s0 s) : OutWithin S s0 (execRegisterWrite a time s) := by
  unfold execRegisterWrite
  repeat' first
    | with_reducible assumption
    | intro _
    | with_reducible refine within_barAccess (hS.mono (by decide)) ?_ ?_
    | with_reducible refine within_writeRegister (hS.mono (by decide)) ?_
    | with_reducible refine OutWithin.next ?_
    | exact OutWithin.fault _ _ _
    | with_reducible refine OutWithin.ite ?_ ?_
    | with_reducible refine Within.ite ?_ ?_
    | split
    | dsimp only

theorem within_execDone {S : List StatePart} {s0 : State} {v : BitVec 64} {time : Nat} {s : State}
    (hS : Covers S [.now, .host])
    (hw : Within S s0 s) : OutWithin S s0 (execDone v time s) := by
  unfold execDone
  repeat' first
    | with_reducible assumption
    | (intro m; cases m; constructor <;> first | with_reducible assumption)
    | (intro (p : StatePart); cases p <;> first | exact Or.inl (hS.part (by decide)) | with_reducible exact Or.inr rfl | with_reducible exact Or.inr ⟨rfl, rfl⟩ | with_reducible exact Or.inr (Nat.le_refl _))
    | intro _
    | with_reducible refine within_barAccess (hS.mono (by decide)) ?_ ?_
    | with_reducible refine OutWithin.next ?_
    | exact OutWithin.fault _ _ _
    | with_reducible refine OutWithin.ite ?_ ?_
    | with_reducible refine Within.ite ?_ ?_
    | split
    | dsimp only
    | with_reducible refine Within.upd rfl ?_ ?_ ?_

theorem within_badDoorbell {S : List StatePart} {s0 : State} {s : State}
    (hS : Covers S [.host])
    (hw : Within S s0 s) : Within S s0 (badDoorbell s) := by
  unfold badDoorbell
  repeat' first
    | with_reducible assumption
    | (intro m; cases m; constructor <;> first | with_reducible assumption)
    | (intro (p : StatePart); cases p <;> first | exact Or.inl (hS.part (by decide)) | with_reducible exact Or.inr rfl | with_reducible exact Or.inr ⟨rfl, rfl⟩ | with_reducible exact Or.inr (Nat.le_refl _))
    | intro _
    | split
    | dsimp only
    | with_reducible refine Within.upd rfl ?_ ?_ ?_

theorem within_putQueue {S : List StatePart} {s0 : State} {q : Nat} {p : QueuePair} {s : State}
    (hS : Covers S [.host])
    (hw : Within S s0 s) : Within S s0 (putQueue q p s) := by
  unfold putQueue
  repeat' first
    | with_reducible assumption
    | (intro m; cases m; constructor <;> first | with_reducible assumption | (refine keysRise_mapPut _ _ _ ?_; with_reducible assumption))
    | (intro (p : StatePart); cases p <;> first | exact Or.inl (hS.part (by decide)) | with_reducible exact Or.inr rfl | with_reducible exact Or.inr ⟨rfl, rfl⟩ | with_reducible exact Or.inr (Nat.le_refl _))
    | intro _
    | split
    | dsimp only
    | with_reducible refine Within.upd rfl ?_ ?_ ?_

theorem within_flushWaiting {S : List StatePart} {s0 : State} {q : Nat} {x0 : Nat} {x1 : State}
    (hS : Covers S [.host, .hostMem])
    (hw : Within S s0 x1) : Within S s0 (flushWaiting q x0 x1) := by
  induction x0 generalizing x1 with
  | zero =>
    rw [flushWaiting]
    repeat' first
      | with_reducible assumption
      | intro _
      | with_reducible refine within_cqPost (hS.mono (by decide)) ?_
      | with_reducible refine Within.ite ?_ ?_
      | split
      | dsimp only
  | succ n ih =>
    rw [flushWaiting]
    repeat' first
      | with_reducible assumption
      | with_reducible refine ih ?_
      | intro _
      | with_reducible refine within_cqPost (hS.mono (by decide)) ?_
      | with_reducible refine Within.ite ?_ ?_
      | split
      | dsimp only

theorem within_doorbell {S : List StatePart} {s0 : State} {qid : Nat} {tail : Option (BitVec 12)} {head : Option (BitVec 12)} {s : State}
    (hS : Covers S [.host, .hostMem])
    (hw : Within S s0 s) : Within S s0 (doorbell qid tail head s) := by
  unfold doorbell
  repeat' first
    | with_reducible assumption
    | intro _
    | with_reducible refine within_badDoorbell (hS.mono (by decide)) ?_
    | with_reducible refine within_flushWaiting (hS.mono (by decide)) ?_
    | with_reducible refine within_putQueue (hS.mono (by decide)) ?_
    | with_reducible refine Within.ite ?_ ?_
    | split
    | dsimp only

theorem within_execSqTail {S : List StatePart} {s0 : State} {qid : Fin 64} {w : SqBell} {time : Nat} {s : State}
    (hS : Covers S [.now, .host, .hostMem])
    (hw : Within S s0 s) : OutWithin S s0 (execSqTail qid w time s) := by
  unfold execSqTail
  repeat' first
    | with_reducible assumption
    | intro _
    | with_reducible refine within_barAccess (hS.mono (by decide)) ?_ ?_
    | with_reducible refine within_doorbell (hS.mono (by decide)) ?_
    | with_reducible refine OutWithin.next ?_
    | exact OutWithin.fault _ _ _
    | split
    | dsimp only

theorem within_execCqHead {S : List StatePart} {s0 : State} {qid : Fin 64} {head : Option (BitVec 12)} {time : Nat} {s : State}
    (hS : Covers S [.now, .host, .hostMem])
    (hw : Within S s0 s) : OutWithin S s0 (execCqHead qid head time s) := by
  unfold execCqHead
  repeat' first
    | with_reducible assumption
    | intro _
    | with_reducible refine within_barAccess (hS.mono (by decide)) ?_ ?_
    | with_reducible refine within_doorbell (hS.mono (by decide)) ?_
    | with_reducible refine OutWithin.next ?_
    | exact OutWithin.fault _ _ _
    | split
    | dsimp only

theorem within_doQueueCreate {S : List StatePart} {s0 : State} {c : Cmd} {pay : List Byte} {s : State}
    (hS : Covers S [.host, .inProgress, .mgmt, .hostMem])
    (hw : Within S s0 s) : Within S s0 (doQueueCreate c pay s) := by
  unfold doQueueCreate
  repeat' first
    | with_reducible assumption
    | intro _
    | with_reducible refine within_checked (hS.mono (by decide)) ?_ ?_
    | with_reducible refine within_complete (hS.mono (by decide)) ?_
    | with_reducible refine within_putQueue (hS.mono (by decide)) ?_
    | split
    | dsimp only

theorem within_execQueueCreate {S : List StatePart} {s0 : State} {c : Cmd} {s : State}
    (hS : Covers S [.now, .host, .inProgress, .mgmt, .hostMem])
    (hw : Within S s0 s) : OutWithin S s0 (execQueueCreate c s) := by
  unfold execQueueCreate
  repeat' first
    | with_reducible assumption
    | intro _
    | with_reducible refine within_doQueueCreate (hS.mono (by decide)) ?_
    | with_reducible refine within_runRow (hS.mono (by decide)) ?_ ?_
    | with_reducible refine OutWithin.next ?_
    | exact OutWithin.fault _ _ _
    | split
    | dsimp only

theorem within_muteTaken {S : List StatePart} {s0 : State} {f : Via → Bool} {s : State}
    (hS : Covers S [.inProgress])
    (hw : Within S s0 s) : Within S s0 (muteTaken f s) := by
  unfold muteTaken
  repeat' first
    | with_reducible assumption
    | (intro m; cases m; constructor <;> first | with_reducible assumption)
    | (intro (p : StatePart); cases p <;> first | exact Or.inl (hS.part (by decide)) | with_reducible exact Or.inr rfl | with_reducible exact Or.inr ⟨rfl, rfl⟩ | with_reducible exact Or.inr (Nat.le_refl _))
    | intro _
    | with_reducible refine Within.ite ?_ ?_
    | split
    | dsimp only
    | with_reducible refine Within.upd rfl ?_ ?_ ?_

theorem within_doQueueDelete {S : List StatePart} {s0 : State} {c : Cmd} {pay : List Byte} {s : State}
    (hS : Covers S [.host, .inProgress, .mgmt, .hostMem])
    (hw : Within S s0 s) : Within S s0 (doQueueDelete c pay s) := by
  unfold doQueueDelete
  repeat' first
    | with_reducible assumption
    | (intro m; cases m; constructor <;> first | with_reducible assumption | (refine keysRise_mapDel _ _ ?_; with_reducible assumption))
    | (intro (p : StatePart); cases p <;> first | exact Or.inl (hS.part (by decide)) | with_reducible exact Or.inr rfl | with_reducible exact Or.inr ⟨rfl, rfl⟩ | with_reducible exact Or.inr (Nat.le_refl _))
    | intro _
    | with_reducible refine within_checked (hS.mono (by decide)) ?_ ?_
    | with_reducible refine within_complete (hS.mono (by decide)) ?_
    | with_reducible refine within_muteTaken (hS.mono (by decide)) ?_
    | split
    | dsimp only
    | with_reducible refine Within.upd rfl ?_ ?_ ?_

theorem within_execQueueDelete {S : List StatePart} {s0 : State} {c : Cmd} {s : State}
    (hS : Covers S [.now, .host, .inProgress, .mgmt, .hostMem])
    (hw : Within S s0 s) : OutWithin S s0 (execQueueDelete c s) := by
  unfold execQueueDelete
  repeat' first
    | with_reducible assumption
    | intro _
    | with_reducible refine within_doQueueDelete (hS.mono (by decide)) ?_
    | with_reducible refine within_runRow (hS.mono (by decide)) ?_ ?_
    | with_reducible refine OutWithin.next ?_
    | exact OutWithin.fault _ _ _
    | split
    | dsimp only

theorem within_doVersion {S : List StatePart} {s0 : State} {c : Cmd} {pay : List Byte} {s : State}
    (hS : Covers S [.host, .inProgress, .mgmt, .hostMem])
    (hw : Within S s0 s) : Within S s0 (doVersion c pay s) := by
  unfold doVersion
  repeat' first
    | with_reducible assumption
    | (intro m; cases m; constructor <;> first | with_reducible assumption | rfl)
    | (intro (p : StatePart); cases p <;> first | exact Or.inl (hS.part (by decide)) | with_reducible exact Or.inr rfl | with_reducible exact Or.inr ⟨rfl, rfl⟩ | with_reducible exact Or.inr (Nat.le_refl _))
    | intro _
    | with_reducible refine within_checked (hS.mono (by decide)) ?_ ?_
    | with_reducible refine within_complete (hS.mono (by decide)) ?_
    | with_reducible refine Within.ite ?_ ?_
    | split
    | dsimp only
    | with_reducible refine Within.upd rfl ?_ ?_ ?_

theorem within_execVersion {S : List StatePart} {s0 : State} {c : Cmd} {s : State}
    (hS : Covers S [.now, .host, .inProgress, .mgmt, .hostMem])
    (hw : Within S s0 s) : OutWithin S s0 (execVersion c s) := by
  unfold execVersion
  repeat' first
    | with_reducible assumption
    | intro _
    | with_reducible refine within_doVersion (hS.mono (by decide)) ?_
    | with_reducible refine within_runRow (hS.mono (by decide)) ?_ ?_
    | with_reducible refine OutWithin.next ?_
    | exact OutWithin.fault _ _ _
    | split
    | dsimp only

theorem within_doIdentify {S : List StatePart} {s0 : State} {c : Cmd} {_pay : List Byte} {s : State}
    (hS : Covers S [.host, .inProgress, .mgmt, .hostMem])
    (hw : Within S s0 s) : Within S s0 (doIdentify c _pay s) := by
  unfold doIdentify
  repeat' first
    | with_reducible assumption
    | intro _
    | with_reducible refine within_checked (hS.mono (by decide)) ?_ ?_
    | with_reducible refine within_completeWithOwnBuf (hS.mono (by decide)) ?_
    | split
    | dsimp only

theorem within_execIdentify {S : List StatePart} {s0 : State} {c : Cmd} {s : State}
    (hS : Covers S [.now, .host, .inProgress, .mgmt, .hostMem])
    (hw : Within S s0 s) : OutWithin S s0 (execIdentify c s) := by
  unfold execIdentify
  repeat' first
    | with_reducible assumption
    | intro _
    | with_reducible refine within_doIdentify (hS.mono (by decide)) ?_
    | with_reducible refine within_runRow (hS.mono (by decide)) ?_ ?_
    | with_reducible refine OutWithin.next ?_
    | exact OutWithin.fault _ _ _
    | split
    | dsimp only

theorem within_enterToken {S : List StatePart} {s0 : State} {c : Cmd} {k : Nat} {q : Nat} {w : W32} {s : State}
    (hS : Covers S [.host, .inProgress, .mgmt, .cores, .hostMem])
    (hw : Within S s0 s) : Within S s0 (enterToken c k q w s) := by
  unfold enterToken
  repeat' first
    | with_reducible assumption
    | intro _
    | with_reducible refine within_complete (hS.mono (by decide)) ?_
    | with_reducible refine within_modCore (hS.mono (by decide)) ?_
    | with_reducible refine Within.ite ?_ ?_
    | split
    | dsimp only

theorem within_doTokenSend {S : List StatePart} {s0 : State} {c : Cmd} {pay : List Byte} {s : State}
    (hS : Covers S [.host, .inProgress, .mgmt, .cores, .hostMem])
    (hw : Within S s0 s) : Within S s0 (doTokenSend c pay s) := by
  unfold doTokenSend
  repeat' first
    | with_reducible assumption
    | (intro m; cases m; constructor <;> first | with_reducible assumption)
    | (intro (p : StatePart); cases p <;> first | exact Or.inl (hS.part (by decide)) | with_reducible exact Or.inr rfl | with_reducible exact Or.inr ⟨rfl, rfl⟩ | with_reducible exact Or.inr (Nat.le_refl _))
    | intro _
    | with_reducible refine within_checked (hS.mono (by decide)) ?_ ?_
    | with_reducible refine within_complete (hS.mono (by decide)) ?_
    | with_reducible refine within_enterToken (hS.mono (by decide)) ?_
    | with_reducible refine Within.ite ?_ ?_
    | split
    | dsimp only
    | with_reducible refine Within.upd rfl ?_ ?_ ?_

theorem within_execTokenSend {S : List StatePart} {s0 : State} {c : Cmd} {s : State}
    (hS : Covers S [.now, .host, .inProgress, .mgmt, .cores, .hostMem])
    (hw : Within S s0 s) : OutWithin S s0 (execTokenSend c s) := by
  unfold execTokenSend
  repeat' first
    | with_reducible assumption
    | intro _
    | with_reducible refine within_doTokenSend (hS.mono (by decide)) ?_
    | with_reducible refine within_runRow (hS.mono (by decide)) ?_ ?_
    | with_reducible refine OutWithin.next ?_
    | exact OutWithin.fault _ _ _
    | split
    | dsimp only

theorem within_dropToken {S : List StatePart} {s0 : State} {w : WaitingToken} {s : State}
    (hS : Covers S [.host])
    (hw : Within S s0 s) : Within S s0 (dropToken w s) := by
  unfold dropToken
  repeat' first
    | with_reducible assumption
    | (intro m; cases m; constructor <;> first | with_reducible assumption)
    | (intro (p : StatePart); cases p <;> first | exact Or.inl (hS.part (by decide)) | with_reducible exact Or.inr rfl | with_reducible exact Or.inr ⟨rfl, rfl⟩ | with_reducible exact Or.inr (Nat.le_refl _))
    | intro _
    | split
    | dsimp only
    | with_reducible refine Within.upd rfl ?_ ?_ ?_

theorem within_execTokenSendDeliver {S : List StatePart} {s0 : State} {k : CoreId} {tq : Fin 4} {time : Nat} {s : State}
    (hS : Covers S [.now, .host, .inProgress, .mgmt, .cores, .hostMem])
    (hw : Within S s0 s) : OutWithin S s0 (execTokenSendDeliver k tq time s) := by
  unfold execTokenSendDeliver
  repeat' first
    | with_reducible assumption
    | intro _
    | with_reducible refine within_atTime (hS.mono (by decide)) ?_
    | with_reducible refine within_dropToken (hS.mono (by decide)) ?_
    | with_reducible refine within_enterToken (hS.mono (by decide)) ?_
    | with_reducible refine OutWithin.next ?_
    | exact OutWithin.fault _ _ _
    | with_reducible refine OutWithin.ite ?_ ?_
    | with_reducible refine Within.ite ?_ ?_
    | split
    | dsimp only

theorem within_execTokenSendTimeout {S : List StatePart} {s0 : State} {k : CoreId} {tq : Fin 4} {time : Nat} {s : State}
    (hS : Covers S [.now, .host, .inProgress, .mgmt, .hostMem])
    (hw : Within S s0 s) : OutWithin S s0 (execTokenSendTimeout k tq time s) := by
  unfold execTokenSendTimeout
  repeat' first
    | with_reducible assumption
    | intro _
    | with_reducible refine within_atTime (hS.mono (by decide)) ?_
    | with_reducible refine within_complete (hS.mono (by decide)) ?_
    | with_reducible refine within_dropToken (hS.mono (by decide)) ?_
    | with_reducible refine OutWithin.next ?_
    | exact OutWithin.fault _ _ _
    | split
    | dsimp only

theorem within_doEventQueueSet {S : List StatePart} {s0 : State} {c : Cmd} {pay : List Byte} {s : State}
    (hS : Covers S [.host, .inProgress, .mgmt, .ev, .hostMem])
    (hw : Within S s0 s) : Within S s0 (doEventQueueSet c pay s) := by
  unfold doEventQueueSet
  repeat' first
    | with_reducible assumption
    | (intro m; cases m; constructor <;> first | with_reducible assumption)
    | (intro (p : StatePart); cases p <;> first | exact Or.inl (hS.part (by decide)) | with_reducible exact Or.inr rfl | with_reducible exact Or.inr ⟨rfl, rfl⟩ | with_reducible exact Or.inr (Nat.le_refl _))
    | intro _
    | with_reducible refine within_checked (hS.mono (by decide)) ?_ ?_
    | with_reducible refine within_complete (hS.mono (by decide)) ?_
    | with_reducible refine within_evFlushLost (hS.mono (by decide)) ?_
    | with_reducible refine Within.ite ?_ ?_
    | split
    | dsimp only
    | with_reducible refine Within.upd rfl ?_ ?_ ?_

theorem within_execEventQueueSet {S : List StatePart} {s0 : State} {c : Cmd} {s : State}
    (hS : Covers S [.now, .host, .inProgress, .mgmt, .ev, .hostMem])
    (hw : Within S s0 s) : OutWithin S s0 (execEventQueueSet c s) := by
  unfold execEventQueueSet
  repeat' first
    | with_reducible assumption
    | intro _
    | with_reducible refine within_doEventQueueSet (hS.mono (by decide)) ?_
    | with_reducible refine within_runRow (hS.mono (by decide)) ?_ ?_
    | with_reducible refine OutWithin.next ?_
    | exact OutWithin.fault _ _ _
    | split
    | dsimp only

theorem within_execEventQueueClear {S : List StatePart} {s0 : State} {c : Cmd} {s : State}
    (hS : Covers S [.now, .host, .inProgress, .mgmt, .ev, .hostMem])
    (hw : Within S s0 s) : OutWithin S s0 (execEventQueueClear c s) := by
  unfold execEventQueueClear
  repeat' first
    | with_reducible assumption
    | intro _
    | with_reducible refine within_doEventQueueSet (hS.mono (by decide)) ?_
    | with_reducible refine within_runRow (hS.mono (by decide)) ?_ ?_
    | with_reducible refine OutWithin.next ?_
    | exact OutWithin.fault _ _ _
    | split
    | dsimp only

theorem within_doEventAck {S : List StatePart} {s0 : State} {c : Cmd} {pay : List Byte} {s : State}
    (hS : Covers S [.host, .inProgress, .mgmt, .ev, .hostMem])
    (hw : Within S s0 s) : Within S s0 (doEventAck c pay s) := by
  unfold doEventAck
  repeat' first
    | with_reducible assumption
    | (intro m; cases m; constructor <;> first | with_reducible assumption)
    | (intro (p : StatePart); cases p <;> first | exact Or.inl (hS.part (by decide)) | with_reducible exact Or.inr rfl | with_reducible exact Or.inr ⟨rfl, rfl⟩ | with_reducible exact Or.inr (Nat.le_refl _))
    | intro _
    | with_reducible refine within_checked (hS.mono (by decide)) ?_ ?_
    | with_reducible refine within_complete (hS.mono (by decide)) ?_
    | with_reducible refine within_evFlushLost (hS.mono (by decide)) ?_
    | split
    | dsimp only
    | with_reducible refine Within.upd rfl ?_ ?_ ?_

theorem within_execEventAck {S : List StatePart} {s0 : State} {c : Cmd} {s : State}
    (hS : Covers S [.now, .host, .inProgress, .mgmt, .ev, .hostMem])
    (hw : Within S s0 s) : OutWithin S s0 (execEventAck c s) := by
  unfold execEventAck
  repeat' first
    | with_reducible assumption
    | intro _
    | with_reducible refine within_doEventAck (hS.mono (by decide)) ?_
    | with_reducible refine within_runRow (hS.mono (by decide)) ?_ ?_
    | with_reducible refine OutWithin.next ?_
    | exact OutWithin.fault _ _ _
    | split
    | dsimp only

theorem within_portReset {S : List StatePart} {s0 : State} {s : State}
    (hS : Covers S [.host, .inProgress, .ev, .parts])
    (hw : Within S s0 s) : Within S s0 (portReset s) := by
  unfold portReset
  repeat' first
    | with_reducible assumption
    | (intro m; cases m; constructor <;> first | with_reducible assumption | rfl | (simp [modAt, copies, *]; done))
    | (intro (p : StatePart); cases p <;> first | exact Or.inl (hS.part (by decide)) | with_reducible exact Or.inr rfl | with_reducible exact Or.inr ⟨rfl, rfl⟩ | with_reducible exact Or.inr (Nat.le_refl _))
    | intro _
    | with_reducible refine within_muteTaken (hS.mono (by decide)) ?_
    | split
    | dsimp only
    | with_reducible refine Within.upd rfl ?_ ?_ ?_

theorem within_execHostPortReset {S : List StatePart} {s0 : State} {cause : PortResetCause} {time : Nat} {s : State}
    (hS : Covers S [.now, .host, .inProgress, .ev, .parts])
    (hw : Within S s0 s) : OutWithin S s0 (execHostPortReset cause time s) := by
  unfold execHostPortReset
  repeat' first
    | with_reducible assumption
    | (intro m; cases m; constructor <;> first | with_reducible assumption)
    | (intro (p : StatePart); cases p <;> first | exact Or.inl (hS.part (by decide)) | with_reducible exact Or.inr rfl | with_reducible exact Or.inr ⟨rfl, rfl⟩ | with_reducible exact Or.inr (Nat.le_refl _))
    | intro _
    | with_reducible refine within_atTime (hS.mono (by decide)) ?_
    | with_reducible refine within_portReset (hS.mono (by decide)) ?_
    | with_reducible refine OutWithin.next ?_
    | exact OutWithin.fault _ _ _
    | with_reducible refine OutWithin.ite ?_ ?_
    | with_reducible refine Within.ite ?_ ?_
    | split
    | dsimp only
    | with_reducible refine Within.upd rfl ?_ ?_ ?_

theorem within_execPerstDeassert {S : List StatePart} {s0 : State} {mode : LinkMode} {time : Nat} {s : State}
    (hS : Covers S [.now, .host])
    (hw : Within S s0 s) : OutWithin S s0 (execPerstDeassert mode time s) := by
  unfold execPerstDeassert
  repeat' first
    | with_reducible assumption
    | (intro m; cases m; constructor <;> first | with_reducible assumption)
    | (intro (p : StatePart); cases p <;> first | exact Or.inl (hS.part (by decide)) | with_reducible exact Or.inr rfl | with_reducible exact Or.inr ⟨rfl, rfl⟩ | with_reducible exact Or.inr (Nat.le_refl _))
    | intro _
    | with_reducible refine within_atTime (hS.mono (by decide)) ?_
    | with_reducible refine OutWithin.next ?_
    | exact OutWithin.fault _ _ _
    | with_reducible refine OutWithin.ite ?_ ?_
    | with_reducible refine Within.ite ?_ ?_
    | split
    | dsimp only
    | with_reducible refine Within.upd rfl ?_ ?_ ?_

end Sys2Proof.Laws
end

