-- ==== Sys2Proof/Laws/FrameMatrix.lean ====
section
/-! SUPPORT. What each operation of Machine/Matrix.lean may change. -/

set_option linter.unusedTactic false
set_option linter.unreachableTactic false
set_option linter.unusedVariables false
set_option linter.unusedSimpArgs false

namespace Sys2Proof.Laws

open Machine

theorem within_execMatrixStep {S : List StatePart} {s0 : State} {k : CoreId} {t : Nat} {s : State}
    (hS : Covers S [.host, .ev, .fw, .err, .bays, .cores, .xings, .hostMem, .bootLog])
    (hw : Within S s0 s) : OutWithin S s0 (execMatrixStep k t s) := by
  unfold execMatrixStep
  repeat' first
    | with_reducible assumption
    | intro _
    | with_reducible refine within_issueRun (hS.mono (by decide)) ?_ ?_ ?_
    | with_reducible refine within_modCore (hS.mono (by decide)) ?_
    | with_reducible refine OutWithin.next ?_
    | exact OutWithin.fault _ _ _
    | split
    | dsimp only

theorem within_matrixStart {S : List StatePart} {s0 : State} {k : Nat} {t : Nat} {e : EngineOp} {contract : Nat} {s : State}
    (hS : Covers S [.freeCtr, .host, .ev, .fw, .err, .bays, .cores, .hostMem, .bootLog])
    (hw : Within S s0 s) : Within S s0 (matrixStart k t e contract s) := by
  unfold matrixStart
  repeat' first
    | with_reducible assumption
    | intro _
    | with_reducible refine within_checkReads (hS.mono (by decide)) ?_
    | with_reducible refine within_expectTag (hS.mono (by decide)) ?_
    | with_reducible refine within_freshOp (hS.mono (by decide)) ?_
    | with_reducible refine within_modCore (hS.mono (by decide)) ?_
    | with_reducible refine within_openWin (hS.mono (by decide)) ?_
    | with_reducible refine Within.ite ?_ ?_
    | split
    | dsimp only

theorem within_execMatrixStepStart {S : List StatePart} {s0 : State} {k : CoreId} {t : Nat} {s : State}
    (hS : Covers S [.freeCtr, .host, .ev, .fw, .err, .bays, .cores, .xings, .hostMem, .bootLog])
    (hw : Within S s0 s) : OutWithin S s0 (execMatrixStepStart k t s) := by
  unfold execMatrixStepStart
  repeat' first
    | with_reducible assumption
    | intro _
    | with_reducible refine OptPairWithin.map (within_enterCycle (hS.mono (by decide)) ?_) (fun r h => ?_)
    | with_reducible refine (within_enterCycle (hS.mono (by decide)) ?_).get (by with_reducible assumption)
    | with_reducible refine within_enterCycle (hS.mono (by decide)) ?_
    | with_reducible refine within_matrixStart (hS.mono (by decide)) ?_
    | with_reducible refine within_modCore (hS.mono (by decide)) ?_
    | with_reducible exact within_enterCycle (hS.mono (by decide)) (by with_reducible assumption) (by with_reducible assumption)
    | with_reducible refine OutWithin.next ?_
    | exact OutWithin.fault _ _ _
    | with_reducible refine OutWithin.ite ?_ ?_
    | with_reducible refine Within.ite ?_ ?_
    | split
    | dsimp only

theorem within_execOperandRelease {S : List StatePart} {s0 : State} {k : CoreId} {t : Nat} {s : State}
    (hS : Covers S [.bays, .cores, .xings])
    (hw : Within S s0 s) : OutWithin S s0 (execOperandRelease k t s) := by
  unfold execOperandRelease
  repeat' first
    | with_reducible assumption
    | intro _
    | with_reducible refine within_runTagActs (hS.mono (by decide)) ?_
    | with_reducible refine OutWithin.next ?_
    | exact OutWithin.fault _ _ _
    | split
    | dsimp only

theorem within_execBankComplete {S : List StatePart} {s0 : State} {k : CoreId} {t : Nat} {s : State}
    (hS : Covers S [.freeCtr, .host, .ev, .fw, .err, .bays, .cores, .xings, .hostMem, .bootLog])
    (hw : Within S s0 s) : OutWithin S s0 (execBankComplete k t s) := by
  unfold execBankComplete
  repeat' first
    | with_reducible assumption
    | (intro m; cases m; constructor <;> first | with_reducible assumption | (refine keysRise_filter _ _ ?_; with_reducible assumption))
    | (intro (p : StatePart); cases p <;> first | exact Or.inl (hS.part (by decide)) | with_reducible exact Or.inr rfl | with_reducible exact Or.inr ⟨rfl, rfl⟩ | with_reducible exact Or.inr (Nat.le_refl _))
    | intro _
    | with_reducible refine OptPairWithin.map (within_enterCycle (hS.mono (by decide)) ?_) (fun r h => ?_)
    | with_reducible refine (within_enterCycle (hS.mono (by decide)) ?_).get (by with_reducible assumption)
    | with_reducible refine within_enterCycle (hS.mono (by decide)) ?_
    | with_reducible refine within_examineAcc (hS.mono (by decide)) ?_
    | with_reducible refine within_modCore (hS.mono (by decide)) ?_
    | with_reducible exact within_enterCycle (hS.mono (by decide)) (by with_reducible assumption) (by with_reducible assumption)
    | with_reducible refine OutWithin.next ?_
    | exact OutWithin.fault _ _ _
    | with_reducible refine OutWithin.ite ?_ ?_
    | with_reducible refine Within.ite ?_ ?_
    | split
    | dsimp only
    | with_reducible refine Within.upd rfl ?_ ?_ ?_

theorem within_execTileInQueue {S : List StatePart} {s0 : State} {k : CoreId} {t : Nat} {s : State}
    (hS : Covers S [.bays, .cores, .xings])
    (hw : Within S s0 s) : OutWithin S s0 (execTileInQueue k t s) := by
  unfold execTileInQueue
  repeat' first
    | with_reducible assumption
    | intro _
    | with_reducible refine OptPairWithin.map (within_enterCycle (hS.mono (by decide)) ?_) (fun r h => ?_)
    | with_reducible refine (within_enterCycle (hS.mono (by decide)) ?_).get (by with_reducible assumption)
    | with_reducible refine within_enterCycle (hS.mono (by decide)) ?_
    | with_reducible refine within_modCore (hS.mono (by decide)) ?_
    | with_reducible refine within_noteEvent (hS.mono (by decide)) ?_
    | with_reducible exact within_enterCycle (hS.mono (by decide)) (by with_reducible assumption) (by with_reducible assumption)
    | with_reducible refine OutWithin.next ?_
    | exact OutWithin.fault _ _ _
    | with_reducible refine OutWithin.ite ?_ ?_
    | with_reducible refine Within.ite ?_ ?_
    | split
    | dsimp only

end Sys2Proof.Laws
end

