-- ==== Sys2Proof/Laws/FrameScan.lean ====
section
/-! SUPPORT. What each operation of Machine/Scan.lean may change. -/

set_option linter.unusedTactic false
set_option linter.unreachableTactic false
set_option linter.unusedVariables false
set_option linter.unusedSimpArgs false

namespace Sys2Proof.Laws

open Machine

theorem within_execScanCall {S : List StatePart} {s0 : State} {k : CoreId} {t : Nat} {s : State}
    (hS : Covers S [.host, .ev, .fw, .err, .bays, .cores, .xings, .hostMem, .bootLog])
    (hw : Within S s0 s) : OutWithin S s0 (execScanCall k t s) := by
  unfold execScanCall
  repeat' first
    | with_reducible assumption
    | intro _
    | with_reducible refine within_issueRun (hS.mono (by decide)) ?_ ?_ ?_
    | with_reducible refine within_modCore (hS.mono (by decide)) ?_
    | with_reducible refine OutWithin.next ?_
    | exact OutWithin.fault _ _ _
    | split
    | dsimp only

theorem within_scanStart {S : List StatePart} {s0 : State} {k : Nat} {t : Nat} {e : EngineOp} {contract : Nat} {s : State}
    (hS : Covers S [.freeCtr, .host, .ev, .fw, .err, .bays, .cores, .hostMem, .bootLog])
    (hw : Within S s0 s) : Within S s0 (scanStart k t e contract s) := by
  unfold scanStart
  repeat' first
    | with_reducible assumption
    | intro _
    | with_reducible refine within_checkReads (hS.mono (by decide)) ?_
    | with_reducible refine within_expectTag (hS.mono (by decide)) ?_
    | with_reducible refine within_freshOp (hS.mono (by decide)) ?_
    | with_reducible refine within_modCore (hS.mono (by decide)) ?_
    | with_reducible refine within_putScan (hS.mono (by decide)) ?_
    | with_reducible refine Within.foldl _ _ (fun s a h => ?_) ?_
    | with_reducible refine Within.foldl_fourth _ _ (fun r a h => ?_) ?_
    | with_reducible refine Within.foldl_third _ _ (fun r a h => ?_) ?_
    | with_reducible refine Within.foldl_snd _ _ (fun r a h => ?_) ?_
    | with_reducible refine Within.foldl_fst _ _ (fun r a h => ?_) ?_
    | with_reducible refine Within.ite ?_ ?_
    | split
    | dsimp only

theorem within_execScanCallStart {S : List StatePart} {s0 : State} {k : CoreId} {t : Nat} {s : State}
    (hS : Covers S [.freeCtr, .host, .ev, .fw, .err, .bays, .cores, .xings, .hostMem, .bootLog])
    (hw : Within S s0 s) : OutWithin S s0 (execScanCallStart k t s) := by
  unfold execScanCallStart
  repeat' first
    | with_reducible assumption
    | intro _
    | with_reducible refine OptPairWithin.map (within_enterCycle (hS.mono (by decide)) ?_) (fun r h => ?_)
    | with_reducible refine (within_enterCycle (hS.mono (by decide)) ?_).get (by with_reducible assumption)
    | with_reducible refine within_enterCycle (hS.mono (by decide)) ?_
    | with_reducible refine within_modCore (hS.mono (by decide)) ?_
    | with_reducible refine within_scanStart (hS.mono (by decide)) ?_
    | with_reducible exact within_enterCycle (hS.mono (by decide)) (by with_reducible assumption) (by with_reducible assumption)
    | with_reducible refine OutWithin.next ?_
    | exact OutWithin.fault _ _ _
    | with_reducible refine OutWithin.ite ?_ ?_
    | with_reducible refine Within.ite ?_ ?_
    | split
    | dsimp only

theorem within_execScanInputEmpty {S : List StatePart} {s0 : State} {k : CoreId} {t : Nat} {s : State}
    (hS : Covers S [.bays, .cores, .xings])
    (hw : Within S s0 s) : OutWithin S s0 (execScanInputEmpty k t s) := by
  unfold execScanInputEmpty
  repeat' first
    | with_reducible assumption
    | intro _
    | with_reducible refine within_runTagActs (hS.mono (by decide)) ?_
    | with_reducible refine OutWithin.next ?_
    | exact OutWithin.fault _ _ _
    | split
    | dsimp only

theorem within_execScanOutputFull {S : List StatePart} {s0 : State} {k : CoreId} {t : Nat} {s : State}
    (hS : Covers S [.bays, .cores, .xings])
    (hw : Within S s0 s) : OutWithin S s0 (execScanOutputFull k t s) := by
  unfold execScanOutputFull
  repeat' first
    | with_reducible assumption
    | intro _
    | with_reducible refine OptPairWithin.map (within_enterCycle (hS.mono (by decide)) ?_) (fun r h => ?_)
    | with_reducible refine (within_enterCycle (hS.mono (by decide)) ?_).get (by with_reducible assumption)
    | with_reducible refine within_enterCycle (hS.mono (by decide)) ?_
    | with_reducible refine within_runTagActs (hS.mono (by decide)) ?_
    | with_reducible exact within_enterCycle (hS.mono (by decide)) (by with_reducible assumption) (by with_reducible assumption)
    | with_reducible refine OutWithin.next ?_
    | exact OutWithin.fault _ _ _
    | split
    | dsimp only

end Sys2Proof.Laws
end

