-- ==== Sys2Proof/Laws/FrameLookahead.lean ====
section
/-! SUPPORT. What each operation of Machine/Lookahead.lean may change. -/

set_option linter.unusedTactic false
set_option linter.unreachableTactic false
set_option linter.unusedVariables false
set_option linter.unusedSimpArgs false

namespace Sys2Proof.Laws

open Machine

theorem within_countAccesses {S : List StatePart} {s0 : State} {k : Nat} {idx : Nat} {l : List (Nat × Nat)} {s : State}
    (hS : Covers S [.cores])
    (hw : Within S s0 s) : Within S s0 (countAccesses k idx l s) := by
  unfold countAccesses
  repeat' first
    | with_reducible assumption
    | intro _
    | with_reducible refine within_modCore (hS.mono (by decide)) ?_
    | with_reducible refine Within.foldl _ _ (fun s a h => ?_) ?_
    | with_reducible refine Within.foldl_fourth _ _ (fun r a h => ?_) ?_
    | with_reducible refine Within.foldl_third _ _ (fun r a h => ?_) ?_
    | with_reducible refine Within.foldl_snd _ _ (fun r a h => ?_) ?_
    | with_reducible refine Within.foldl_fst _ _ (fun r a h => ?_) ?_
    | split
    | dsimp only

theorem within_checkMarks {S : List StatePart} {s0 : State} {k : Nat} {t : Nat} {due : Nat} {i : Nat} {x0 : List Side} {x1 : State}
    (hS : Covers S [.bays, .xings])
    (hw : Within S s0 x1) : Within S s0 (checkMarks k t due i x0 x1).2 := by
  induction x0 generalizing x1 with
  | nil =>
    rw [checkMarks]
    repeat' first
      | with_reducible assumption
      | intro _
      | with_reducible refine within_modBay (hS.mono (by decide)) ?_
      | with_reducible refine within_modXingOut (hS.mono (by decide)) ?_
      | with_reducible refine Within.ite ?_ ?_
      | split
      | dsimp only
  | cons x l ih =>
    rw [checkMarks]
    repeat' first
      | with_reducible assumption
      | with_reducible refine ih ?_
      | intro _
      | with_reducible refine within_modBay (hS.mono (by decide)) ?_
      | with_reducible refine within_modXingOut (hS.mono (by decide)) ?_
      | with_reducible refine Within.ite ?_ ?_
      | split
      | dsimp only

theorem within_lookOp {S : List StatePart} {s0 : State} {k : Nat} {t : Nat} {i : Nat} {contract : Nat} {w : Walker} {ch : WalkChoice} {s : State}
    (hS : Covers S [.bays, .cores, .xings])
    (hw : Within S s0 s) : Within S s0 (lookOp k t i contract w ch s).2 := by
  unfold lookOp
  repeat' first
    | with_reducible assumption
    | intro _
    | with_reducible refine within_checkMarks (hS.mono (by decide)) ?_
    | with_reducible refine within_countAccesses (hS.mono (by decide)) ?_
    | with_reducible refine within_modBay (hS.mono (by decide)) ?_
    | with_reducible refine within_modCore (hS.mono (by decide)) ?_
    | with_reducible refine Within.ite ?_ ?_
    | split
    | dsimp only

theorem within_execCheckAhead {S : List StatePart} {s0 : State} {k : CoreId} {t : Nat} {s : State}
    (hS : Covers S [.bays, .cores, .xings])
    (hw : Within S s0 s) : OutWithin S s0 (execCheckAhead k t s) := by
  unfold execCheckAhead
  repeat' first
    | with_reducible assumption
    | intro _
    | with_reducible refine OptPairWithin.map (within_enterCycle (hS.mono (by decide)) ?_) (fun r h => ?_)
    | with_reducible refine (within_enterCycle (hS.mono (by decide)) ?_).get (by with_reducible assumption)
    | with_reducible refine within_enterCycle (hS.mono (by decide)) ?_
    | with_reducible refine within_lookOp (hS.mono (by decide)) ?_
    | with_reducible refine within_modCore (hS.mono (by decide)) ?_
    | with_reducible exact within_enterCycle (hS.mono (by decide)) (by with_reducible assumption) (by with_reducible assumption)
    | with_reducible refine OutWithin.next ?_
    | exact OutWithin.fault _ _ _
    | with_reducible refine OutWithin.ite ?_ ?_
    | with_reducible refine Within.ite ?_ ?_
    | split
    | dsimp only

end Sys2Proof.Laws
end

