-- ==== Sys2Proof/Laws/FrameResets.lean ====
section
/-! SUPPORT. What each operation of Machine/Resets.lean may change. -/

set_option linter.unusedTactic false
set_option linter.unreachableTactic false
set_option linter.unusedVariables false
set_option linter.unusedSimpArgs false

namespace Sys2Proof.Laws

open Machine

theorem within_resetCoreDone {S : List StatePart} {s0 : State} {c : Cmd} {k : Nat} {s : State}
    (hS : Covers S [.host, .inProgress, .mgmt, .ev, .fw, .hostMem])
    (hw : Within S s0 s) : Within S s0 (resetCoreDone c k s) := by
  unfold resetCoreDone
  repeat' first
    | with_reducible assumption
    | intro _
    | with_reducible refine within_complete (hS.mono (by decide)) ?_
    | with_reducible refine within_raise1 (hS.mono (by decide)) ?_
    | split
    | dsimp only

theorem within_resetOneCore {S : List StatePart} {s0 : State} {c : Cmd} {k : Nat} {s : State}
    (hS : Covers S [.freeCtr, .fp, .host, .inProgress, .mgmt, .ev, .fw, .err, .cores, .hostMem, .bootGeneration, .bootFailures, .bootLog])
    (hw : Within S s0 s) : Within S s0 (resetOneCore c k s) := by
  unfold resetOneCore
  repeat' first
    | with_reducible assumption
    | intro _
    | with_reducible refine within_loadMicro (hS.mono (by decide)) ?_
    | with_reducible refine within_modCore (hS.mono (by decide)) ?_
    | with_reducible refine within_resetCoreDone (hS.mono (by decide)) ?_
    | with_reducible refine within_retestCore (hS.mono (by decide)) ?_
    | split
    | dsimp only

theorem within_resetProc {S : List StatePart} {s0 : State} {n : Nat} {s : State}
    (hS : Covers S [.host, .ev, .fw, .hostMem])
    (hw : Within S s0 s) : Within S s0 (resetProc n s) := by
  unfold resetProc
  repeat' first
    | with_reducible assumption
    | intro _
    | with_reducible refine within_modProc (hS.mono (by decide)) ?_
    | with_reducible refine within_raise1 (hS.mono (by decide)) ?_
    | with_reducible refine Within.ite ?_ ?_
    | split
    | dsimp only

theorem within_dieEntersReset {S : List StatePart} {s0 : State} {c : Option Cmd} {i : Nat} {s : State}
    (hS : Covers S [.fp, .host, .inProgress, .mgmt, .measure, .ev, .parts, .pwr, .fw, .err, .installs, .fab, .bufs, .engines, .links, .mem, .cores, .hostMem, .bootGeneration])
    (hw : Within S s0 s) : Within S s0 (dieEntersReset c i s) := by
  unfold dieEntersReset
  repeat' first
    | with_reducible assumption
    | intro _
    | with_reducible refine within_dieContentsReset (hS.mono (by decide)) ?_
    | with_reducible refine within_modPwr (hS.mono (by decide)) ?_
    | with_reducible refine within_recordDark (hS.mono (by decide)) ?_
    | with_reducible refine within_resetProc (hS.mono (by decide)) ?_
    | split
    | dsimp only

theorem within_stopPartInputs {S : List StatePart} {s0 : State} {c : Cmd} {s : State}
    (hS : Covers S [.host, .inProgress, .mgmt, .measure, .ev, .parts, .fw, .installs, .links, .bays, .hostMem])
    (hw : Within S s0 s) : Within S s0 (stopPartInputs c s) := by
  unfold stopPartInputs
  repeat' first
    | with_reducible assumption
    | (intro m; cases m; constructor <;> first | with_reducible assumption)
    | (intro (p : StatePart); cases p <;> first | exact Or.inl (hS.part (by decide)) | with_reducible exact Or.inr rfl | with_reducible exact Or.inr ⟨rfl, rfl⟩ | with_reducible exact Or.inr (Nat.le_refl _))
    | intro _
    | with_reducible refine within_autoStop (hS.mono (by decide)) ?_
    | with_reducible refine within_stopPurlins (hS.mono (by decide)) ?_
    | with_reducible refine Within.foldl _ _ (fun s a h => ?_) ?_
    | with_reducible refine Within.foldl_fourth _ _ (fun r a h => ?_) ?_
    | with_reducible refine Within.foldl_third _ _ (fun r a h => ?_) ?_
    | with_reducible refine Within.foldl_snd _ _ (fun r a h => ?_) ?_
    | with_reducible refine Within.foldl_fst _ _ (fun r a h => ?_) ?_
    | split
    | dsimp only
    | with_reducible refine Within.upd rfl ?_ ?_ ?_

theorem within_loseAwaits {S : List StatePart} {s0 : State} {l : Nat} {s : State}
    (hS : Covers S [.fab, .links])
    (hw : Within S s0 s) : Within S s0 (loseAwaits l s) := by
  unfold loseAwaits
  repeat' first
    | with_reducible assumption
    | intro _
    | with_reducible refine within_answerAwait (hS.mono (by decide)) ?_
    | with_reducible refine Within.foldl _ _ (fun s a h => ?_) ?_
    | with_reducible refine Within.foldl_fourth _ _ (fun r a h => ?_) ?_
    | with_reducible refine Within.foldl_third _ _ (fun r a h => ?_) ?_
    | with_reducible refine Within.foldl_snd _ _ (fun r a h => ?_) ?_
    | with_reducible refine Within.foldl_fst _ _ (fun r a h => ?_) ?_
    | split
    | dsimp only

theorem within_cutBay {S : List StatePart} {s0 : State} {i : Nat} {s : State}
    (hS : Covers S [.freeCtr, .fp, .host, .inProgress, .mgmt, .measure, .ev, .parts, .pwr, .fw, .err, .install, .installs, .fab, .hbms, .bufs, .engines, .links, .mem, .bays, .cores, .xings, .hostMem, .bootGeneration, .bootFailures, .bootLog, .bootWear])
    (hw : Within S s0 s) : Within S s0 (cutBay i s) := by
  unfold cutBay
  repeat' first
    | with_reducible assumption
    | intro _
    | with_reducible refine within_abandonAccess (hS.mono (by decide)) ?_
    | with_reducible refine within_closeXings (hS.mono (by decide)) ?_
    | with_reducible refine within_dropChange (hS.mono (by decide)) ?_
    | with_reducible refine within_endStop (hS.mono (by decide)) ?_
    | with_reducible refine Within.ite ?_ ?_
    | split
    | dsimp only

theorem within_dropBay {S : List StatePart} {s0 : State} {i : Nat} {s : State}
    (hS : Covers S [.host, .inProgress, .mgmt, .bays, .cores, .xings, .hostMem])
    (hw : Within S s0 s) : Within S s0 (dropBay i s) := by
  unfold dropBay
  repeat' first
    | with_reducible assumption
    | intro _
    | with_reducible refine within_removeBay (hS.mono (by decide)) ?_
    | split
    | dsimp only

theorem within_dropCounters {S : List StatePart} {s0 : State} {part : Nat} {s : State}
    (hS : Covers S [.links])
    (hw : Within S s0 s) : Within S s0 (dropCounters part s) := by
  unfold dropCounters
  repeat' first
    | with_reducible assumption
    | (intro m; cases m; constructor <;> first | with_reducible assumption | (refine keysRise_filter _ _ ?_; with_reducible assumption))
    | (intro (p : StatePart); cases p <;> first | exact Or.inl (hS.part (by decide)) | with_reducible exact Or.inr rfl | with_reducible exact Or.inr ⟨rfl, rfl⟩ | with_reducible exact Or.inr (Nat.le_refl _))
    | intro _
    | split
    | dsimp only
    | with_reducible refine Within.upd rfl ?_ ?_ ?_

theorem within_resetPartDie {S : List StatePart} {s0 : State} {i : Nat} {s : State}
    (hS : Covers S [.fp, .host, .ev, .fw, .err, .bufs, .mem, .cores, .hostMem, .bootGeneration, .bootFailures, .bootLog])
    (hw : Within S s0 s) : Within S s0 (resetPartDie i s) := by
  unfold resetPartDie
  repeat' first
    | with_reducible assumption
    | intro _
    | with_reducible refine within_clearCompute (hS.mono (by decide)) ?_
    | with_reducible refine within_loadCores (hS.mono (by decide)) ?_
    | split
    | dsimp only

theorem within_discardPart {S : List StatePart} {s0 : State} {part : Nat} {s : State}
    (hS : Covers S [.freeCtr, .fp, .host, .inProgress, .mgmt, .measure, .ev, .parts, .pwr, .fw, .err, .install, .installs, .fab, .hbms, .bufs, .engines, .links, .mem, .bays, .cores, .xings, .hostMem, .bootGeneration, .bootFailures, .bootLog, .bootWear])
    (hw : Within S s0 s) : Within S s0 (discardPart part s) := by
  unfold discardPart
  repeat' first
    | with_reducible assumption
    | intro _
    | with_reducible refine within_closeBatches (hS.mono (by decide)) ?_
    | with_reducible refine within_cutBay (hS.mono (by decide)) ?_
    | with_reducible refine within_disarm (hS.mono (by decide)) ?_
    | with_reducible refine within_dropBay (hS.mono (by decide)) ?_
    | with_reducible refine within_dropCounters (hS.mono (by decide)) ?_
    | with_reducible refine within_endRemoval (hS.mono (by decide)) ?_
    | with_reducible refine within_loseAwaits (hS.mono (by decide)) ?_
    | with_reducible refine within_loseEngine (hS.mono (by decide)) ?_
    | with_reducible refine within_resetPartDie (hS.mono (by decide)) ?_
    | with_reducible refine Within.foldl _ _ (fun s a h => ?_) ?_
    | with_reducible refine Within.foldl_fourth _ _ (fun r a h => ?_) ?_
    | with_reducible refine Within.foldl_third _ _ (fun r a h => ?_) ?_
    | with_reducible refine Within.foldl_snd _ _ (fun r a h => ?_) ?_
    | with_reducible refine Within.foldl_fst _ _ (fun r a h => ?_) ?_
    | split
    | dsimp only

theorem within_execPartitionResetDiscard {S : List StatePart} {s0 : State} {part : Fin 8} {time : Nat} {s : State}
    (hS : Covers S [.freeCtr, .now, .fp, .host, .inProgress, .mgmt, .measure, .ev, .parts, .pwr, .fw, .err, .install, .installs, .fab, .hbms, .bufs, .engines, .links, .mem, .bays, .cores, .xings, .hostMem, .bootGeneration, .bootFailures, .bootLog, .bootWear])
    (hw : Within S s0 s) : OutWithin S s0 (execPartitionResetDiscard part time s) := by
  unfold execPartitionResetDiscard
  repeat' first
    | with_reducible assumption
    | (intro m; cases m; constructor <;> first | with_reducible assumption)
    | (intro (p : StatePart); cases p <;> first | exact Or.inl (hS.part (by decide)) | with_reducible exact Or.inr rfl | with_reducible exact Or.inr ⟨rfl, rfl⟩ | with_reducible exact Or.inr (Nat.le_refl _))
    | intro _
    | with_reducible refine within_atTime (hS.mono (by decide)) ?_
    | with_reducible refine within_discardPart (hS.mono (by decide)) ?_
    | with_reducible refine within_resetDone (hS.mono (by decide)) ?_
    | with_reducible refine OutWithin.next ?_
    | exact OutWithin.fault _ _ _
    | with_reducible refine OutWithin.ite ?_ ?_
    | with_reducible refine Within.ite ?_ ?_
    | split
    | dsimp only
    | with_reducible refine Within.upd rfl ?_ ?_ ?_

theorem within_endCommands {S : List StatePart} {s0 : State} {c : Cmd} {s : State}
    (hS : Covers S [.host, .inProgress, .mgmt, .hostMem])
    (hw : Within S s0 s) : Within S s0 (endCommands c s) := by
  unfold endCommands
  repeat' first
    | with_reducible assumption
    | intro _
    | with_reducible refine within_complete (hS.mono (by decide)) ?_
    | with_reducible refine Within.foldl _ _ (fun s a h => ?_) ?_
    | with_reducible refine Within.foldl_fourth _ _ (fun r a h => ?_) ?_
    | with_reducible refine Within.foldl_third _ _ (fun r a h => ?_) ?_
    | with_reducible refine Within.foldl_snd _ _ (fun r a h => ?_) ?_
    | with_reducible refine Within.foldl_fst _ _ (fun r a h => ?_) ?_
    | split
    | dsimp only

theorem within_panelCleared {S : List StatePart} {s0 : State} {s : State}
    (hS : Covers S [.fp, .host, .parts, .install, .installs, .fab, .engines, .links, .mem, .bays, .cores, .xings])
    (hw : Within S s0 s) : Within S s0 (panelCleared s) := by
  unfold panelCleared
  repeat' first
    | with_reducible assumption
    | (intro m; cases m; constructor <;> first | with_reducible assumption | rfl | (simp [modAt, copies, *]; done))
    | (intro (p : StatePart); cases p <;> first | exact Or.inl (hS.part (by decide)) | with_reducible exact Or.inr rfl | with_reducible exact Or.inr ⟨rfl, rfl⟩ | with_reducible exact Or.inr (Nat.le_refl _))
    | intro _
    | split
    | dsimp only
    | with_reducible refine Within.upd rfl ?_ ?_ ?_

theorem within_siteWarm {S : List StatePart} {s0 : State} {i : Nat} {s : State}
    (hS : Covers S [.host, .inProgress, .mgmt, .measure, .ev, .parts, .pwr, .fw, .err, .installs, .fab, .hbms, .bufs, .engines, .links, .mem, .cores, .hostMem])
    (hw : Within S s0 s) : Within S s0 (siteWarm i s) := by
  unfold siteWarm
  repeat' first
    | with_reducible assumption
    | intro _
    | with_reducible refine within_dieContentsOff (hS.mono (by decide)) ?_
    | with_reducible refine within_modPwr (hS.mono (by decide)) ?_
    | with_reducible refine within_resetProc (hS.mono (by decide)) ?_
    | split
    | dsimp only

theorem within_clearCounts {S : List StatePart} {s0 : State} {s : State}
    (hS : Covers S [.fw])
    (hw : Within S s0 s) : Within S s0 (clearCounts s) := by
  unfold clearCounts
  repeat' first
    | with_reducible assumption
    | intro _
    | with_reducible refine within_modProc (hS.mono (by decide)) ?_
    | with_reducible refine Within.foldl _ _ (fun s a h => ?_) ?_
    | with_reducible refine Within.foldl_fourth _ _ (fun r a h => ?_) ?_
    | with_reducible refine Within.foldl_third _ _ (fun r a h => ?_) ?_
    | with_reducible refine Within.foldl_snd _ _ (fun r a h => ?_) ?_
    | with_reducible refine Within.foldl_fst _ _ (fun r a h => ?_) ?_
    | split
    | dsimp only

theorem within_panelWarm {S : List StatePart} {s0 : State} {c : Cmd} {s : State}
    (hS : Covers S [.fp, .host, .inProgress, .mgmt, .measure, .ev, .parts, .pwr, .fw, .err, .install, .installs, .fab, .hbms, .bufs, .engines, .links, .mem, .bays, .cores, .xings, .hostMem, .bootWear])
    (hw : Within S s0 s) : Within S s0 (panelWarm c s) := by
  unfold panelWarm
  repeat' first
    | with_reducible assumption
    | (intro m; cases m; constructor <;> first | with_reducible assumption | (refine keysRise_filter _ _ ?_; with_reducible assumption) | rfl | (simp [modAt, copies, *]; done))
    | (intro (p : StatePart); cases p <;> first | exact Or.inl (hS.part (by decide)) | with_reducible exact Or.inr rfl | with_reducible exact Or.inr ⟨rfl, rfl⟩ | with_reducible exact Or.inr (Nat.le_refl _))
    | intro _
    | with_reducible refine within_clearCounts (hS.mono (by decide)) ?_
    | with_reducible refine within_disarm (hS.mono (by decide)) ?_
    | with_reducible refine within_endCommands (hS.mono (by decide)) ?_
    | with_reducible refine within_endInstalls (hS.mono (by decide)) ?_
    | with_reducible refine within_panelCleared (hS.mono (by decide)) ?_
    | with_reducible refine within_saveWear (hS.mono (by decide)) ?_
    | with_reducible refine within_setStep (hS.mono (by decide)) ?_
    | with_reducible refine within_siteWarm (hS.mono (by decide)) ?_
    | with_reducible refine Within.foldl _ _ (fun s a h => ?_) ?_
    | with_reducible refine Within.foldl_fourth _ _ (fun r a h => ?_) ?_
    | with_reducible refine Within.foldl_third _ _ (fun r a h => ?_) ?_
    | with_reducible refine Within.foldl_snd _ _ (fun r a h => ?_) ?_
    | with_reducible refine Within.foldl_fst _ _ (fun r a h => ?_) ?_
    | split
    | dsimp only
    | with_reducible refine Within.upd rfl ?_ ?_ ?_

theorem within_panelCold {S : List StatePart} {s0 : State} {c : Cmd} {s : State}
    (hS : Covers S [.host, .inProgress, .mgmt, .ev, .pwr, .fw, .hostMem, .bootWear])
    (hw : Within S s0 s) : Within S s0 (panelCold c s) := by
  unfold panelCold
  repeat' first
    | with_reducible assumption
    | (intro m; constructor <;> first | with_reducible exact m.mem | with_reducible exact m.hostMem | with_reducible exact m.storeMem | with_reducible exact m.entries | with_reducible exact m.parts | with_reducible exact m.quads | with_reducible exact m.cores | with_reducible exact m.bays | with_reducible exact m.sites | with_reducible exact m.hot | with_reducible exact m.procs | with_reducible exact m.wear | with_reducible exact m.bootWear | with_reducible exact m.missed | with_reducible exact m.hops | with_reducible exact m.ports | with_reducible exact m.hbms | with_reducible exact m.bufs | with_reducible exact m.store | with_reducible exact m.engines | with_reducible exact m.links | with_reducible exact m.queues | with_reducible exact m.failures | with_reducible exact m.retests | (refine keysRise_of_keys ?_ m.sites; simp [Function.comp_def]; done))
    | (intro (p : StatePart); cases p <;> first | exact Or.inl (hS.part (by decide)) | with_reducible exact Or.inr rfl | with_reducible exact Or.inr ⟨rfl, rfl⟩ | with_reducible exact Or.inr (Nat.le_refl _))
    | intro _
    | with_reducible refine within_resetDone (hS.mono (by decide)) ?_
    | with_reducible refine within_saveWear (hS.mono (by decide)) ?_
    | split
    | dsimp only
    | with_reducible refine Within.upd rfl ?_ ?_ ?_

theorem within_applyReset {S : List StatePart} {s0 : State} {c : Cmd} {pay : List Byte} {s : State}
    (hS : Covers S [.freeCtr, .fp, .host, .inProgress, .mgmt, .measure, .ev, .parts, .pwr, .fw, .err, .install, .installs, .fab, .hbms, .bufs, .engines, .links, .mem, .bays, .cores, .xings, .hostMem, .bootGeneration, .bootFailures, .bootLog, .bootWear])
    (hw : Within S s0 s) : Within S s0 (applyReset c pay s) := by
  unfold applyReset
  repeat' first
    | with_reducible assumption
    | intro _
    | with_reducible refine within_dieEntersReset (hS.mono (by decide)) ?_
    | with_reducible refine within_panelCold (hS.mono (by decide)) ?_
    | with_reducible refine within_panelWarm (hS.mono (by decide)) ?_
    | with_reducible refine within_resetOneCore (hS.mono (by decide)) ?_
    | with_reducible refine within_stopPartInputs (hS.mono (by decide)) ?_
    | split
    | dsimp only

theorem within_doReset {S : List StatePart} {s0 : State} {c : Cmd} {pay : List Byte} {s : State}
    (hS : Covers S [.freeCtr, .fp, .host, .inProgress, .mgmt, .measure, .ev, .parts, .pwr, .fw, .err, .install, .installs, .fab, .hbms, .bufs, .engines, .links, .mem, .bays, .cores, .xings, .hostMem, .bootGeneration, .bootFailures, .bootLog, .bootWear])
    (hw : Within S s0 s) : Within S s0 (doReset c pay s) := by
  unfold doReset
  repeat' first
    | with_reducible assumption
    | intro _
    | with_reducible refine within_applyReset (hS.mono (by decide)) ?_
    | with_reducible refine within_checked (hS.mono (by decide)) ?_ ?_
    | split
    | dsimp only

theorem within_doColdReset {S : List StatePart} {s0 : State} {c : Cmd} {pay : List Byte} {s : State}
    (hS : Covers S [.host, .inProgress, .mgmt, .ev, .pwr, .fw, .hostMem, .bootWear])
    (hw : Within S s0 s) : Within S s0 (doColdReset c pay s) := by
  unfold doColdReset
  repeat' first
    | with_reducible assumption
    | intro _
    | with_reducible refine within_checked (hS.mono (by decide)) ?_ ?_
    | with_reducible refine within_panelCold (hS.mono (by decide)) ?_
    | split
    | dsimp only

theorem within_execResetCore {S : List StatePart} {s0 : State} {c : Cmd} {s : State}
    (hS : Covers S [.freeCtr, .now, .fp, .host, .inProgress, .mgmt, .measure, .ev, .parts, .pwr, .fw, .err, .install, .installs, .fab, .hbms, .bufs, .engines, .links, .mem, .bays, .cores, .xings, .hostMem, .bootGeneration, .bootFailures, .bootLog, .bootWear])
    (hw : Within S s0 s) : OutWithin S s0 (execResetCore c s) := by
  unfold execResetCore
  repeat' first
    | with_reducible assumption
    | intro _
    | with_reducible refine within_doReset (hS.mono (by decide)) ?_
    | with_reducible refine within_runRow (hS.mono (by decide)) ?_ ?_
    | with_reducible refine OutWithin.next ?_
    | exact OutWithin.fault _ _ _
    | split
    | dsimp only

theorem within_execResetDie {S : List StatePart} {s0 : State} {c : Cmd} {s : State}
    (hS : Covers S [.freeCtr, .now, .fp, .host, .inProgress, .mgmt, .measure, .ev, .parts, .pwr, .fw, .err, .install, .installs, .fab, .hbms, .bufs, .engines, .links, .mem, .bays, .cores, .xings, .hostMem, .bootGeneration, .bootFailures, .bootLog, .bootWear])
    (hw : Within S s0 s) : OutWithin S s0 (execResetDie c s) := by
  unfold execResetDie
  repeat' first
    | with_reducible assumption
    | intro _
    | with_reducible refine within_doReset (hS.mono (by decide)) ?_
    | with_reducible refine within_runRow (hS.mono (by decide)) ?_ ?_
    | with_reducible refine OutWithin.next ?_
    | exact OutWithin.fault _ _ _
    | split
    | dsimp only

theorem within_execResetPartition {S : List StatePart} {s0 : State} {c : Cmd} {s : State}
    (hS : Covers S [.freeCtr, .now, .fp, .host, .inProgress, .mgmt, .measure, .ev, .parts, .pwr, .fw, .err, .install, .installs, .fab, .hbms, .bufs, .engines, .links, .mem, .bays, .cores, .xings, .hostMem, .bootGeneration, .bootFailures, .bootLog, .bootWear])
    (hw : Within S s0 s) : OutWithin S s0 (execResetPartition c s) := by
  unfold execResetPartition
  repeat' first
    | with_reducible assumption
    | intro _
    | with_reducible refine within_doReset (hS.mono (by decide)) ?_
    | with_reducible refine within_runRow (hS.mono (by decide)) ?_ ?_
    | with_reducible refine OutWithin.next ?_
    | exact OutWithin.fault _ _ _
    | split
    | dsimp only

theorem within_execResetPanelWarm {S : List StatePart} {s0 : State} {c : Cmd} {s : State}
    (hS : Covers S [.freeCtr, .now, .fp, .host, .inProgress, .mgmt, .measure, .ev, .parts, .pwr, .fw, .err, .install, .installs, .fab, .hbms, .bufs, .engines, .links, .mem, .bays, .cores, .xings, .hostMem, .bootGeneration, .bootFailures, .bootLog, .bootWear])
    (hw : Within S s0 s) : OutWithin S s0 (execResetPanelWarm c s) := by
  unfold execResetPanelWarm
  repeat' first
    | with_reducible assumption
    | intro _
    | with_reducible refine within_doReset (hS.mono (by decide)) ?_
    | with_reducible refine within_runRow (hS.mono (by decide)) ?_ ?_
    | with_reducible refine OutWithin.next ?_
    | exact OutWithin.fault _ _ _
    | split
    | dsimp only

theorem within_execResetPanelCold {S : List StatePart} {s0 : State} {c : Cmd} {s : State}
    (hS : Covers S [.freeCtr, .now, .fp, .host, .inProgress, .mgmt, .measure, .ev, .parts, .pwr, .fw, .err, .install, .installs, .fab, .hbms, .bufs, .engines, .links, .mem, .bays, .cores, .xings, .hostMem, .bootGeneration, .bootFailures, .bootLog, .bootWear])
    (hw : Within S s0 s) : OutWithin S s0 (execResetPanelCold c s) := by
  unfold execResetPanelCold
  repeat' first
    | with_reducible assumption
    | intro _
    | with_reducible refine within_doReset (hS.mono (by decide)) ?_
    | with_reducible refine within_runRow (hS.mono (by decide)) ?_ ?_
    | with_reducible refine OutWithin.next ?_
    | exact OutWithin.fault _ _ _
    | split
    | dsimp only

end Sys2Proof.Laws
end

