-- ==== Sys2Proof/Laws/FrameSecurity.lean ====
section
/-! SUPPORT. What each operation of Machine/Security.lean may change. -/

set_option linter.unusedTactic false
set_option linter.unreachableTactic false
set_option linter.unusedVariables false
set_option linter.unusedSimpArgs false

namespace Sys2Proof.Laws

open Machine

theorem within_modSeg {S : List StatePart} {s0 : State} {g : Segm} {f : SegState → SegState} {s : State}
    (hS : Covers S [.mgmt])
    (hw : Within S s0 s) : Within S s0 (modSeg g f s) := by
  unfold modSeg
  repeat' first
    | with_reducible assumption
    | (intro m; cases m; constructor <;> first | with_reducible assumption)
    | (intro (p : StatePart); cases p <;> first | exact Or.inl (hS.part (by decide)) | with_reducible exact Or.inr rfl | with_reducible exact Or.inr ⟨rfl, rfl⟩ | with_reducible exact Or.inr (Nat.le_refl _))
    | intro _
    | split
    | dsimp only
    | with_reducible refine Within.upd rfl ?_ ?_ ?_

theorem within_execMgmtSegment {S : List StatePart} {s0 : State} {seg : Segm} {mode : SegMode} {time : Nat} {s : State}
    (hS : Covers S [.now, .host, .mgmt, .ev, .fw, .hostMem])
    (hw : Within S s0 s) : OutWithin S s0 (execMgmtSegment seg mode time s) := by
  unfold execMgmtSegment
  repeat' first
    | with_reducible assumption
    | intro _
    | with_reducible refine within_atTime (hS.mono (by decide)) ?_
    | with_reducible refine within_modSeg (hS.mono (by decide)) ?_
    | with_reducible refine within_raise1 (hS.mono (by decide)) ?_
    | with_reducible refine OutWithin.next ?_
    | exact OutWithin.fault _ _ _
    | with_reducible refine OutWithin.ite ?_ ?_
    | with_reducible refine Within.ite ?_ ?_
    | split
    | dsimp only

theorem within_execMgmtDrops {S : List StatePart} {s0 : State} {seg : Segm} {time : Nat} {s : State}
    (hS : Covers S [.now, .host, .mgmt, .ev, .fw, .hostMem])
    (hw : Within S s0 s) : OutWithin S s0 (execMgmtDrops seg time s) := by
  unfold execMgmtDrops
  repeat' first
    | with_reducible assumption
    | intro _
    | with_reducible refine within_atTime (hS.mono (by decide)) ?_
    | with_reducible refine within_modSeg (hS.mono (by decide)) ?_
    | with_reducible refine within_raise1 (hS.mono (by decide)) ?_
    | with_reducible refine OutWithin.next ?_
    | exact OutWithin.fault _ _ _
    | with_reducible refine OutWithin.ite ?_ ?_
    | with_reducible refine Within.ite ?_ ?_
    | split
    | dsimp only

theorem within_execAlertRepeat {S : List StatePart} {s0 : State} {time : Nat} {s : State}
    (hS : Covers S [.now, .mgmt])
    (hw : Within S s0 s) : OutWithin S s0 (execAlertRepeat time s) := by
  unfold execAlertRepeat
  repeat' first
    | with_reducible assumption
    | (intro m; cases m; constructor <;> first | with_reducible assumption | (refine keysRise_filter _ _ ?_; with_reducible assumption))
    | (intro (p : StatePart); cases p <;> first | exact Or.inl (hS.part (by decide)) | with_reducible exact Or.inr rfl | with_reducible exact Or.inr ⟨rfl, rfl⟩ | with_reducible exact Or.inr (Nat.le_refl _))
    | intro _
    | with_reducible refine within_atTime (hS.mono (by decide)) ?_
    | with_reducible refine within_sendBytes (hS.mono (by decide)) ?_
    | with_reducible refine OutWithin.next ?_
    | exact OutWithin.fault _ _ _
    | with_reducible refine Within.foldl _ _ (fun s a h => ?_) ?_
    | with_reducible refine Within.foldl_fourth _ _ (fun r a h => ?_) ?_
    | with_reducible refine Within.foldl_third _ _ (fun r a h => ?_) ?_
    | with_reducible refine Within.foldl_snd _ _ (fun r a h => ?_) ?_
    | with_reducible refine Within.foldl_fst _ _ (fun r a h => ?_) ?_
    | with_reducible refine OutWithin.ite ?_ ?_
    | with_reducible refine Within.ite ?_ ?_
    | split
    | dsimp only
    | with_reducible refine Within.upd rfl ?_ ?_ ?_

theorem within_countDropped {S : List StatePart} {s0 : State} {g : Segm} {r : Received} {s : State}
    (hS : Covers S [.mgmt])
    (hw : Within S s0 s) : Within S s0 (countDropped g r s) := by
  unfold countDropped
  repeat' first
    | with_reducible assumption
    | intro _
    | with_reducible refine within_modSeg (hS.mono (by decide)) ?_
    | split
    | dsimp only

theorem within_receiveFrame {S : List StatePart} {s0 : State} {g : Segm} {f : Frame} {time : Nat}
    {act : Received → Option (State → State)} {s : State} (hS : Covers S [.now, .mgmt])
    (h_act : ∀ r a y, act r = some a → Within S s0 y → Within S s0 (a y))
    (hw : Within S s0 s) : OutWithin S s0 (receiveFrame g f time act s) := by
  have ht := within_atTime (t := time) (hS.mono (by decide)) hw
  unfold receiveFrame
  refine OutWithin.ite (.next hw) ?_
  dsimp only
  split
  · exact .next (within_countDropped (hS.mono (by decide)) ht)
  · exact .next (within_countDropped (hS.mono (by decide)) ht)
  · exact .next (within_countDropped (hS.mono (by decide)) ht)
  · split
    · exact .next (h_act _ _ _ (by assumption) ht)
    · exact .next hw

theorem within_execNeighborSolicitation {S : List StatePart} {s0 : State} {seg : Segm} {f : Frame} {time : Nat} {s : State}
    (hS : Covers S [.now, .mgmt])
    (hw : Within S s0 s) : OutWithin S s0 (execNeighborSolicitation seg f time s) := by
  unfold execNeighborSolicitation
  repeat' first
    | with_reducible assumption
    | (intro m; cases m; constructor <;> first | with_reducible assumption)
    | (intro (p : StatePart); cases p <;> first | exact Or.inl (hS.part (by decide)) | with_reducible exact Or.inr rfl | with_reducible exact Or.inr ⟨rfl, rfl⟩ | with_reducible exact Or.inr (Nat.le_refl _))
    | (intro r act y e h; (repeat' split at e) <;> cases e)
    | intro _
    | with_reducible refine within_receiveFrame (hS.mono (by decide)) ?_ ?_
    | with_reducible refine OutWithin.next ?_
    | exact OutWithin.fault _ _ _
    | with_reducible refine OutWithin.ite ?_ ?_
    | with_reducible refine Within.ite ?_ ?_
    | split
    | dsimp only
    | with_reducible refine Within.upd rfl ?_ ?_ ?_

theorem within_answerDiscover {S : List StatePart} {s0 : State} {g : Segm} {s : State}
    (hS : Covers S [.mgmt])
    (hw : Within S s0 s) : Within S s0 (answerDiscover g s) := by
  unfold answerDiscover
  repeat' first
    | with_reducible assumption
    | intro _
    | with_reducible refine within_modSeg (hS.mono (by decide)) ?_
    | with_reducible refine within_sendFrame (hS.mono (by decide)) ?_
    | with_reducible refine Within.ite ?_ ?_
    | split
    | dsimp only

theorem within_execDiscover {S : List StatePart} {s0 : State} {seg : Segm} {f : Frame} {time : Nat} {s : State}
    (hS : Covers S [.now, .mgmt])
    (hw : Within S s0 s) : OutWithin S s0 (execDiscover seg f time s) := by
  unfold execDiscover
  repeat' first
    | with_reducible assumption
    | (intro r act y e h; (repeat' split at e) <;> cases e)
    | intro _
    | with_reducible refine within_answerDiscover (hS.mono (by decide)) ?_
    | with_reducible refine within_receiveFrame (hS.mono (by decide)) ?_ ?_
    | with_reducible refine OutWithin.next ?_
    | exact OutWithin.fault _ _ _
    | with_reducible refine OutWithin.ite ?_ ?_
    | with_reducible refine Within.ite ?_ ?_
    | split
    | dsimp only

theorem within_modSender {S : List StatePart} {s0 : State} {id : Nat} {f : Sender → Sender} {s : State}
    (hS : Covers S [.mgmt])
    (hw : Within S s0 s) : Within S s0 (modSender id f s) := by
  unfold modSender
  repeat' first
    | with_reducible assumption
    | (intro m; cases m; constructor <;> first | with_reducible assumption)
    | (intro (p : StatePart); cases p <;> first | exact Or.inl (hS.part (by decide)) | with_reducible exact Or.inr rfl | with_reducible exact Or.inr ⟨rfl, rfl⟩ | with_reducible exact Or.inr (Nat.le_refl _))
    | intro _
    | with_reducible refine Within.ite ?_ ?_
    | split
    | dsimp only
    | with_reducible refine Within.upd rfl ?_ ?_ ?_

theorem within_senderRefused {S : List StatePart} {s0 : State} {g : Segm} {id : Nat} {s : State}
    (hS : Covers S [.host, .mgmt, .ev, .fw, .hostMem])
    (hw : Within S s0 s) : Within S s0 (senderRefused g id s) := by
  unfold senderRefused
  repeat' first
    | with_reducible assumption
    | (intro m; cases m; constructor <;> first | with_reducible assumption)
    | (intro (p : StatePart); cases p <;> first | exact Or.inl (hS.part (by decide)) | with_reducible exact Or.inr rfl | with_reducible exact Or.inr ⟨rfl, rfl⟩ | with_reducible exact Or.inr (Nat.le_refl _))
    | intro _
    | with_reducible refine within_countDropped (hS.mono (by decide)) ?_
    | with_reducible refine within_raise1 (hS.mono (by decide)) ?_
    | with_reducible refine Within.ite ?_ ?_
    | split
    | dsimp only
    | with_reducible refine Within.upd rfl ?_ ?_ ?_

theorem within_senderAdmitted {S : List StatePart} {s0 : State} {id : Nat} {s : State}
    (hS : Covers S [.mgmt, .bootHwm])
    (hw : Within S s0 s) : Within S s0 (senderAdmitted id s) := by
  unfold senderAdmitted
  repeat' first
    | with_reducible assumption
    | (intro m; cases m; constructor <;> first | with_reducible assumption | (refine keysRise_mapPut _ _ _ ?_; with_reducible assumption))
    | (intro (p : StatePart); cases p <;> first | exact Or.inl (hS.part (by decide)) | with_reducible exact Or.inr rfl | with_reducible exact Or.inr ⟨rfl, rfl⟩ | with_reducible exact Or.inr (Nat.le_refl _))
    | intro _
    | with_reducible refine Within.ite ?_ ?_
    | split
    | dsimp only
    | with_reducible refine Within.upd rfl ?_ ?_ ?_

theorem within_senderReplay {S : List StatePart} {s0 : State} {g : Segm} {id : Nat} {d : List Byte} {s : State}
    (hS : Covers S [.mgmt])
    (hw : Within S s0 s) : Within S s0 (senderReplay g id d s) := by
  unfold senderReplay
  repeat' first
    | with_reducible assumption
    | intro _
    | with_reducible refine within_modSeg (hS.mono (by decide)) ?_
    | with_reducible refine within_modSender (hS.mono (by decide)) ?_
    | with_reducible refine within_sendResponse (hS.mono (by decide)) ?_
    | with_reducible refine Within.ite ?_ ?_
    | split
    | dsimp only

theorem within_judgeSender {S : List StatePart} {s0 : State} {g : Segm} {d : List Byte} {s : State}
    (hS : Covers S [.host, .mgmt, .ev, .fw, .hostMem, .bootHwm])
    (hw : Within S s0 s) : Within S s0 (judgeSender g d s).2 := by
  unfold judgeSender
  repeat' first
    | with_reducible assumption
    | (intro m; cases m; constructor <;> first | with_reducible assumption | (refine keysRise_mapPut _ _ _ ?_; with_reducible assumption))
    | (intro (p : StatePart); cases p <;> first | exact Or.inl (hS.part (by decide)) | with_reducible exact Or.inr rfl | with_reducible exact Or.inr ⟨rfl, rfl⟩ | with_reducible exact Or.inr (Nat.le_refl _))
    | intro _
    | with_reducible refine within_modSeg (hS.mono (by decide)) ?_
    | with_reducible refine within_modSender (hS.mono (by decide)) ?_
    | with_reducible refine within_senderAdmitted (hS.mono (by decide)) ?_
    | with_reducible refine within_senderRefused (hS.mono (by decide)) ?_
    | with_reducible refine within_senderReplay (hS.mono (by decide)) ?_
    | with_reducible refine Within.ite ?_ ?_
    | split
    | dsimp only
    | with_reducible refine Within.upd rfl ?_ ?_ ?_

theorem within_setKey {S : List StatePart} {s0 : State} {c : Cmd} {pay : List Byte} {s : State}
    (hS : Covers S [.host, .inProgress, .mgmt, .measure, .ev, .fw, .hostMem, .bootKeys, .bootHwm])
    (hw : Within S s0 s) : Within S s0 (setKey c pay s) := by
  unfold setKey
  repeat' first
    | with_reducible assumption
    | (intro m; cases m; constructor <;> first | with_reducible assumption)
    | (intro (p : StatePart); cases p <;> first | exact Or.inl (hS.part (by decide)) | with_reducible exact Or.inr rfl | with_reducible exact Or.inr ⟨rfl, rfl⟩ | with_reducible exact Or.inr (Nat.le_refl _))
    | intro _
    | with_reducible refine within_complete (hS.mono (by decide)) ?_
    | with_reducible refine within_measure (hS.mono (by decide)) ?_
    | with_reducible refine within_raise1 (hS.mono (by decide)) ?_
    | with_reducible refine Within.ite ?_ ?_
    | split
    | dsimp only
    | with_reducible refine Within.upd rfl ?_ ?_ ?_

theorem within_doMgmtKeySet {S : List StatePart} {s0 : State} {c : Cmd} {pay : List Byte} {s : State}
    (hS : Covers S [.host, .inProgress, .mgmt, .measure, .ev, .fw, .hostMem, .bootKeys, .bootHwm])
    (hw : Within S s0 s) : Within S s0 (doMgmtKeySet c pay s) := by
  unfold doMgmtKeySet
  repeat' first
    | with_reducible assumption
    | intro _
    | with_reducible refine within_checked (hS.mono (by decide)) ?_ ?_
    | with_reducible refine within_setKey (hS.mono (by decide)) ?_
    | with_reducible refine Within.ite ?_ ?_
    | split
    | dsimp only

theorem within_execMgmtKeySetManagement {S : List StatePart} {s0 : State} {c : Cmd} {s : State}
    (hS : Covers S [.now, .host, .inProgress, .mgmt, .measure, .ev, .fw, .hostMem, .bootKeys, .bootHwm])
    (hw : Within S s0 s) : OutWithin S s0 (execMgmtKeySetManagement c s) := by
  unfold execMgmtKeySetManagement
  repeat' first
    | with_reducible assumption
    | intro _
    | with_reducible refine within_doMgmtKeySet (hS.mono (by decide)) ?_
    | with_reducible refine within_runRow (hS.mono (by decide)) ?_ ?_
    | with_reducible refine OutWithin.next ?_
    | exact OutWithin.fault _ _ _
    | split
    | dsimp only

theorem within_execMgmtKeySetWeight {S : List StatePart} {s0 : State} {c : Cmd} {s : State}
    (hS : Covers S [.now, .host, .inProgress, .mgmt, .measure, .ev, .fw, .hostMem, .bootKeys, .bootHwm])
    (hw : Within S s0 s) : OutWithin S s0 (execMgmtKeySetWeight c s) := by
  unfold execMgmtKeySetWeight
  repeat' first
    | with_reducible assumption
    | intro _
    | with_reducible refine within_doMgmtKeySet (hS.mono (by decide)) ?_
    | with_reducible refine within_runRow (hS.mono (by decide)) ?_ ?_
    | with_reducible refine OutWithin.next ?_
    | exact OutWithin.fault _ _ _
    | split
    | dsimp only

theorem within_doCertGet {S : List StatePart} {s0 : State} {c : Cmd} {_pay : List Byte} {s : State}
    (hS : Covers S [.host, .inProgress, .mgmt, .hostMem])
    (hw : Within S s0 s) : Within S s0 (doCertGet c _pay s) := by
  unfold doCertGet
  repeat' first
    | with_reducible assumption
    | intro _
    | with_reducible refine within_checked (hS.mono (by decide)) ?_ ?_
    | with_reducible refine within_completeWithOwnBuf (hS.mono (by decide)) ?_
    | split
    | dsimp only

theorem within_execCertGet {S : List StatePart} {s0 : State} {c : Cmd} {s : State}
    (hS : Covers S [.now, .host, .inProgress, .mgmt, .hostMem])
    (hw : Within S s0 s) : OutWithin S s0 (execCertGet c s) := by
  unfold execCertGet
  repeat' first
    | with_reducible assumption
    | intro _
    | with_reducible refine within_doCertGet (hS.mono (by decide)) ?_
    | with_reducible refine within_runRow (hS.mono (by decide)) ?_ ?_
    | with_reducible refine OutWithin.next ?_
    | exact OutWithin.fault _ _ _
    | split
    | dsimp only

theorem within_doAttestQuote {S : List StatePart} {s0 : State} {c : Cmd} {pay : List Byte} {s : State}
    (hS : Covers S [.host, .inProgress, .mgmt, .hostMem])
    (hw : Within S s0 s) : Within S s0 (doAttestQuote c pay s) := by
  unfold doAttestQuote
  repeat' first
    | with_reducible assumption
    | intro _
    | with_reducible refine within_checked (hS.mono (by decide)) ?_ ?_
    | with_reducible refine within_completeWithBuf (hS.mono (by decide)) ?_
    | with_reducible refine Within.ite ?_ ?_
    | split
    | dsimp only

theorem within_execAttestQuote {S : List StatePart} {s0 : State} {c : Cmd} {s : State}
    (hS : Covers S [.now, .host, .inProgress, .mgmt, .hostMem])
    (hw : Within S s0 s) : OutWithin S s0 (execAttestQuote c s) := by
  unfold execAttestQuote
  repeat' first
    | with_reducible assumption
    | intro _
    | with_reducible refine within_doAttestQuote (hS.mono (by decide)) ?_
    | with_reducible refine within_runRow (hS.mono (by decide)) ?_ ?_
    | with_reducible refine OutWithin.next ?_
    | exact OutWithin.fault _ _ _
    | split
    | dsimp only

end Sys2Proof.Laws
end

