-- ==== Sys2Proof/Laws/FrameWear.lean ====
section
/-! SUPPORT. What each operation of Machine/Wear.lean may change. -/

set_option linter.unusedTactic false
set_option linter.unreachableTactic false
set_option linter.unusedVariables false
set_option linter.unusedSimpArgs false

namespace Sys2Proof.Laws

open Machine

theorem within_loseCore {S : List StatePart} {s0 : State} {k : Nat} {s : State}
    (hS : Covers S [.fp, .host, .ev, .fw, .err, .bays, .hostMem, .bootGeneration, .bootFailures, .bootLog])
    (hw : Within S s0 s) : Within S s0 (loseCore k s) := by
  unfold loseCore
  repeat' first
    | with_reducible assumption
    | intro _
    | with_reducible refine within_failCore (hS.mono (by decide)) ?_
    | with_reducible refine within_modBay (hS.mono (by decide)) ?_
    | split
    | dsimp only

theorem within_setMissed {S : List StatePart} {s0 : State} {n : Nat} {m : Nat} {s : State}
    (hS : Covers S [.err])
    (hw : Within S s0 s) : Within S s0 (setMissed n m s) := by
  unfold setMissed
  repeat' first
    | with_reducible assumption
    | (intro m; cases m; constructor <;> first | with_reducible assumption | (refine keysRise_mapSet _ _ _ _ ?_; with_reducible assumption))
    | (intro (p : StatePart); cases p <;> first | exact Or.inl (hS.part (by decide)) | with_reducible exact Or.inr rfl | with_reducible exact Or.inr ⟨rfl, rfl⟩ | with_reducible exact Or.inr (Nat.le_refl _))
    | intro _
    | split
    | dsimp only
    | with_reducible refine Within.upd rfl ?_ ?_ ?_

theorem within_execStatusPoll {S : List StatePart} {s0 : State} {k : CoreId} {answered : Bool} {time : Nat} {s : State}
    (hS : Covers S [.now, .fp, .host, .ev, .fw, .err, .bays, .cores, .hostMem, .bootGeneration, .bootFailures, .bootLog])
    (hw : Within S s0 s) : OutWithin S s0 (execStatusPoll k answered time s) := by
  unfold execStatusPoll
  repeat' first
    | with_reducible assumption
    | intro _
    | with_reducible refine within_atTime (hS.mono (by decide)) ?_
    | with_reducible refine within_loseCore (hS.mono (by decide)) ?_
    | with_reducible refine within_modCore (hS.mono (by decide)) ?_
    | with_reducible refine within_setMissed (hS.mono (by decide)) ?_
    | with_reducible refine OutWithin.next ?_
    | exact OutWithin.fault _ _ _
    | with_reducible refine OutWithin.ite ?_ ?_
    | with_reducible refine Within.ite ?_ ?_
    | split
    | dsimp only

theorem within_doErrorLogGet {S : List StatePart} {s0 : State} {c : Cmd} {pay : List Byte} {s : State}
    (hS : Covers S [.freeCtr, .host, .inProgress, .mgmt, .hostMem])
    (hw : Within S s0 s) : Within S s0 (doErrorLogGet c pay s) := by
  unfold doErrorLogGet
  repeat' first
    | with_reducible assumption
    | intro _
    | with_reducible refine within_checked (hS.mono (by decide)) ?_ ?_
    | with_reducible refine within_completeWithBuf (hS.mono (by decide)) ?_
    | with_reducible refine within_takeFree (hS.mono (by decide)) ?_
    | with_reducible refine Within.ite ?_ ?_
    | split
    | dsimp only

theorem within_execErrorLogGet {S : List StatePart} {s0 : State} {c : Cmd} {s : State}
    (hS : Covers S [.freeCtr, .now, .host, .inProgress, .mgmt, .hostMem])
    (hw : Within S s0 s) : OutWithin S s0 (execErrorLogGet c s) := by
  unfold execErrorLogGet
  repeat' first
    | with_reducible assumption
    | intro _
    | with_reducible refine within_doErrorLogGet (hS.mono (by decide)) ?_
    | with_reducible refine within_runRow (hS.mono (by decide)) ?_ ?_
    | with_reducible refine OutWithin.next ?_
    | exact OutWithin.fault _ _ _
    | split
    | dsimp only

theorem within_decayPart {S : List StatePart} {s0 : State} {n : Nat} {s : State}
    (hS : Covers S [.host, .ev, .fw, .err, .hostMem, .bootLog])
    (hw : Within S s0 s) : Within S s0 (decayPart n s) := by
  unfold decayPart
  repeat' first
    | with_reducible assumption
    | intro _
    | with_reducible refine within_putWear (hS.mono (by decide)) ?_
    | with_reducible refine within_wearChange (hS.mono (by decide)) ?_
    | split
    | dsimp only

theorem within_execWearDecay {S : List StatePart} {s0 : State} {time : Nat} {s : State}
    (hS : Covers S [.now, .host, .ev, .fw, .err, .hostMem, .bootLog, .bootWear])
    (hw : Within S s0 s) : OutWithin S s0 (execWearDecay time s) := by
  unfold execWearDecay
  repeat' first
    | with_reducible assumption
    | (intro m; cases m; constructor <;> first | with_reducible assumption)
    | (intro (p : StatePart); cases p <;> first | exact Or.inl (hS.part (by decide)) | with_reducible exact Or.inr rfl | with_reducible exact Or.inr ⟨rfl, rfl⟩ | with_reducible exact Or.inr (Nat.le_refl _))
    | intro _
    | with_reducible refine within_atTime (hS.mono (by decide)) ?_
    | with_reducible refine within_decayPart (hS.mono (by decide)) ?_
    | with_reducible refine within_saveWear (hS.mono (by decide)) ?_
    | with_reducible refine OutWithin.next ?_
    | exact OutWithin.fault _ _ _
    | with_reducible refine Within.foldl _ _ (fun s a h => ?_) ?_
    | with_reducible refine Within.foldl_fourth _ _ (fun r a h => ?_) ?_
    | with_reducible refine Within.foldl_third _ _ (fun r a h => ?_) ?_
    | with_reducible refine Within.foldl_snd _ _ (fun r a h => ?_) ?_
    | with_reducible refine Within.foldl_fst _ _ (fun r a h => ?_) ?_
    | with_reducible refine OutWithin.ite ?_ ?_
    | with_reducible refine Within.ite ?_ ?_
    | split
    | dsimp only
    | with_reducible refine Within.upd rfl ?_ ?_ ?_

theorem within_doWearGet {S : List StatePart} {s0 : State} {c : Cmd} {pay : List Byte} {s : State}
    (hS : Covers S [.host, .inProgress, .mgmt, .hostMem])
    (hw : Within S s0 s) : Within S s0 (doWearGet c pay s) := by
  unfold doWearGet
  repeat' first
    | with_reducible assumption
    | intro _
    | with_reducible refine within_checked (hS.mono (by decide)) ?_ ?_
    | with_reducible refine within_completeWithBuf (hS.mono (by decide)) ?_
    | split
    | dsimp only

theorem within_execWearGet {S : List StatePart} {s0 : State} {c : Cmd} {s : State}
    (hS : Covers S [.now, .host, .inProgress, .mgmt, .hostMem])
    (hw : Within S s0 s) : OutWithin S s0 (execWearGet c s) := by
  unfold execWearGet
  repeat' first
    | with_reducible assumption
    | intro _
    | with_reducible refine within_doWearGet (hS.mono (by decide)) ?_
    | with_reducible refine within_runRow (hS.mono (by decide)) ?_ ?_
    | with_reducible refine OutWithin.next ?_
    | exact OutWithin.fault _ _ _
    | split
    | dsimp only

theorem within_doInject {S : List StatePart} {s0 : State} {c : Cmd} {pay : List Byte} {s : State}
    (hS : Covers S [.host, .inProgress, .mgmt, .err, .hostMem])
    (hw : Within S s0 s) : Within S s0 (doInject c pay s) := by
  unfold doInject
  repeat' first
    | with_reducible assumption
    | (intro m; cases m; constructor <;> first | with_reducible assumption | (refine keysRise_filter _ _ ?_; with_reducible assumption))
    | (intro (p : StatePart); cases p <;> first | exact Or.inl (hS.part (by decide)) | with_reducible exact Or.inr rfl | with_reducible exact Or.inr ⟨rfl, rfl⟩ | with_reducible exact Or.inr (Nat.le_refl _))
    | intro _
    | with_reducible refine within_checked (hS.mono (by decide)) ?_ ?_
    | with_reducible refine within_complete (hS.mono (by decide)) ?_
    | with_reducible refine Within.ite ?_ ?_
    | split
    | dsimp only
    | with_reducible refine Within.upd rfl ?_ ?_ ?_

theorem within_execInject {S : List StatePart} {s0 : State} {c : Cmd} {s : State}
    (hS : Covers S [.now, .host, .inProgress, .mgmt, .err, .hostMem])
    (hw : Within S s0 s) : OutWithin S s0 (execInject c s) := by
  unfold execInject
  repeat' first
    | with_reducible assumption
    | intro _
    | with_reducible refine within_doInject (hS.mono (by decide)) ?_
    | with_reducible refine within_runRow (hS.mono (by decide)) ?_ ?_
    | with_reducible refine OutWithin.next ?_
    | exact OutWithin.fault _ _ _
    | split
    | dsimp only

theorem within_execInjectCancel {S : List StatePart} {s0 : State} {c : Cmd} {s : State}
    (hS : Covers S [.now, .host, .inProgress, .mgmt, .err, .hostMem])
    (hw : Within S s0 s) : OutWithin S s0 (execInjectCancel c s) := by
  unfold execInjectCancel
  repeat' first
    | with_reducible assumption
    | intro _
    | with_reducible refine within_doInject (hS.mono (by decide)) ?_
    | with_reducible refine within_runRow (hS.mono (by decide)) ?_ ?_
    | with_reducible refine OutWithin.next ?_
    | exact OutWithin.fault _ _ _
    | split
    | dsimp only

theorem within_execInjectExpiry {S : List StatePart} {s0 : State} {time : Nat} {s : State}
    (hS : Covers S [.now, .host, .ev, .fw, .err, .hostMem])
    (hw : Within S s0 s) : OutWithin S s0 (execInjectExpiry time s) := by
  unfold execInjectExpiry
  repeat' first
    | with_reducible assumption
    | intro _
    | with_reducible refine within_atTime (hS.mono (by decide)) ?_
    | with_reducible refine within_disarm (hS.mono (by decide)) ?_
    | with_reducible refine OutWithin.next ?_
    | exact OutWithin.fault _ _ _
    | split
    | dsimp only

end Sys2Proof.Laws
end

