-- ==== Sys2Proof/Laws/FrameRunCommand.lean ====
section
/-! SUPPORT. What each operation of Machine/RunCommand.lean may change. -/

set_option linter.unusedTactic false
set_option linter.unreachableTactic false
set_option linter.unusedVariables false
set_option linter.unusedSimpArgs false

namespace Sys2Proof.Laws

open Machine

theorem within_runOpcode {S : List StatePart} {s0 : State} {c : Cmd} {pay : List Byte} {s : State}
    (hS : Covers S [.freeCtr, .fp, .host, .inProgress, .mgmt, .measure, .ev, .parts, .pwr, .fw, .err, .cool, .install, .installs, .fab, .hbms, .bufs, .engines, .links, .mem, .bays, .cores, .xings, .hostMem, .bootGeneration, .bootFences, .bootFailures, .bootLog, .bootWear, .bootBanks, .bootStore, .bootStoreMem, .bootSecFuses, .bootKeys, .bootHwm])
    (hw : Within S s0 s) : Within S s0 (runOpcode c pay s) := by
  unfold runOpcode
  repeat' first
    | with_reducible assumption
    | intro _
    | with_reducible refine within_doAttestQuote (hS.mono (by decide)) ?_
    | with_reducible refine within_doBayHold (hS.mono (by decide)) ?_
    | with_reducible refine within_doBayLoad (hS.mono (by decide)) ?_
    | with_reducible refine within_doBayReconfigure (hS.mono (by decide)) ?_
    | with_reducible refine within_doBayRelease (hS.mono (by decide)) ?_
    | with_reducible refine within_doBayRemove (hS.mono (by decide)) ?_
    | with_reducible refine within_doBaySetPoint (hS.mono (by decide)) ?_
    | with_reducible refine within_doBayStart (hS.mono (by decide)) ?_
    | with_reducible refine within_doBayStatus (hS.mono (by decide)) ?_
    | with_reducible refine within_doBayStop (hS.mono (by decide)) ?_
    | with_reducible refine within_doBiasSet (hS.mono (by decide)) ?_
    | with_reducible refine within_doCeilingSet (hS.mono (by decide)) ?_
    | with_reducible refine within_doCertGet (hS.mono (by decide)) ?_
    | with_reducible refine within_doCoolingStatus (hS.mono (by decide)) ?_
    | with_reducible refine within_doEmbBatchClose (hS.mono (by decide)) ?_
    | with_reducible refine within_doEmbBatchOpen (hS.mono (by decide)) ?_
    | with_reducible refine within_doEmbCommit (hS.mono (by decide)) ?_
    | with_reducible refine within_doEmbRebuildCtrl (hS.mono (by decide)) ?_
    | with_reducible refine within_doEmbRebuildStart (hS.mono (by decide)) ?_
    | with_reducible refine within_doEmbTableCreate (hS.mono (by decide)) ?_
    | with_reducible refine within_doEmbTableDestroy (hS.mono (by decide)) ?_
    | with_reducible refine within_doEmbTableStatus (hS.mono (by decide)) ?_
    | with_reducible refine within_doErrorLogGet (hS.mono (by decide)) ?_
    | with_reducible refine within_doEventAck (hS.mono (by decide)) ?_
    | with_reducible refine within_doEventQueueSet (hS.mono (by decide)) ?_
    | with_reducible refine within_doFabricMapGet (hS.mono (by decide)) ?_
    | with_reducible refine within_doFloorplanGet (hS.mono (by decide)) ?_
    | with_reducible refine within_doFwBundleApply (hS.mono (by decide)) ?_
    | with_reducible refine within_doFwBundleStage (hS.mono (by decide)) ?_
    | with_reducible refine within_doFwProcRestart (hS.mono (by decide)) ?_
    | with_reducible refine within_doFwStatus (hS.mono (by decide)) ?_
    | with_reducible refine within_doHazardGet (hS.mono (by decide)) ?_
    | with_reducible refine within_doHostWindowSet (hS.mono (by decide)) ?_
    | with_reducible refine within_doIdentify (hS.mono (by decide)) ?_
    | with_reducible refine within_doInject (hS.mono (by decide)) ?_
    | with_reducible refine within_doInstallBegin (hS.mono (by decide)) ?_
    | with_reducible refine within_doInstallEnd (hS.mono (by decide)) ?_
    | with_reducible refine within_doLinkCtrl (hS.mono (by decide)) ?_
    | with_reducible refine within_doLinkPanelIdSet (hS.mono (by decide)) ?_
    | with_reducible refine within_doLinkStatus (hS.mono (by decide)) ?_
    | with_reducible refine within_doLoadReportGet (hS.mono (by decide)) ?_
    | with_reducible refine within_doMemScrubSet (hS.mono (by decide)) ?_
    | with_reducible refine within_doMgmtKeySet (hS.mono (by decide)) ?_
    | with_reducible refine within_doPartitionAdd (hS.mono (by decide)) ?_
    | with_reducible refine within_doPartitionCreate (hS.mono (by decide)) ?_
    | with_reducible refine within_doPartitionDestroy (hS.mono (by decide)) ?_
    | with_reducible refine within_doPartitionLinkSet (hS.mono (by decide)) ?_
    | with_reducible refine within_doPartitionRemove (hS.mono (by decide)) ?_
    | with_reducible refine within_doPowerSet (hS.mono (by decide)) ?_
    | with_reducible refine within_doPowerStatus (hS.mono (by decide)) ?_
    | with_reducible refine within_doPrepareRemoval (hS.mono (by decide)) ?_
    | with_reducible refine within_doPurlinSend (hS.mono (by decide)) ?_
    | with_reducible refine within_doPurlinSet (hS.mono (by decide)) ?_
    | with_reducible refine within_doQueueCreate (hS.mono (by decide)) ?_
    | with_reducible refine within_doQueueDelete (hS.mono (by decide)) ?_
    | with_reducible refine within_doRankTableSet (hS.mono (by decide)) ?_
    | with_reducible refine within_doReset (hS.mono (by decide)) ?_
    | with_reducible refine within_doSiteFence (hS.mono (by decide)) ?_
    | with_reducible refine within_doSiteRetest (hS.mono (by decide)) ?_
    | with_reducible refine within_doSiteUnfence (hS.mono (by decide)) ?_
    | with_reducible refine within_doTimeExchange (hS.mono (by decide)) ?_
    | with_reducible refine within_doTokenSend (hS.mono (by decide)) ?_
    | with_reducible refine within_doTransitSet (hS.mono (by decide)) ?_
    | with_reducible refine within_doVersion (hS.mono (by decide)) ?_
    | with_reducible refine within_doWearGet (hS.mono (by decide)) ?_
    | with_reducible refine within_doWindowSet (hS.mono (by decide)) ?_
    | with_reducible refine within_doWsetBatchClose (hS.mono (by decide)) ?_
    | with_reducible refine within_doWsetBatchOpen (hS.mono (by decide)) ?_
    | with_reducible refine within_doWsetDiscard (hS.mono (by decide)) ?_
    | with_reducible refine within_doWsetGet (hS.mono (by decide)) ?_
    | with_reducible refine within_doWsetStage (hS.mono (by decide)) ?_
    | with_reducible refine within_doWsetSwitch (hS.mono (by decide)) ?_
    | with_reducible refine within_doWstoreStatus (hS.mono (by decide)) ?_
    | with_reducible refine within_doWstoreWrite (hS.mono (by decide)) ?_
    | split
    | dsimp only

theorem within_runAny {S : List StatePart} {s0 : State} {c : Cmd} {s : State}
    (hS : Covers S [.freeCtr, .fp, .host, .inProgress, .mgmt, .measure, .ev, .parts, .pwr, .fw, .err, .cool, .install, .installs, .fab, .hbms, .bufs, .engines, .links, .mem, .bays, .cores, .xings, .hostMem, .bootGeneration, .bootFences, .bootFailures, .bootLog, .bootWear, .bootBanks, .bootStore, .bootStoreMem, .bootSecFuses, .bootKeys, .bootHwm])
    (hw : Within S s0 s) : Within S s0 (runAny c s) := by
  unfold runAny
  repeat' first
    | with_reducible assumption
    | intro _
    | with_reducible refine within_runOpcode (hS.mono (by decide)) ?_
    | with_reducible refine within_runTaken (hS.mono (by decide)) ?_ ?_
    | split
    | dsimp only

theorem within_takeMail {S : List StatePart} {s0 : State} {time : Nat} {s : State}
    (hS : Covers S [.freeCtr, .now, .fp, .host, .inProgress, .mgmt, .measure, .ev, .parts, .pwr, .fw, .err, .cool, .install, .installs, .fab, .hbms, .bufs, .engines, .links, .mem, .bays, .cores, .xings, .hostMem, .bootGeneration, .bootFences, .bootFailures, .bootLog, .bootWear, .bootBanks, .bootStore, .bootStoreMem, .bootSecFuses, .bootKeys, .bootHwm])
    (hw : Within S s0 s) : Within S s0 (takeMail time s) := by
  unfold takeMail
  repeat' first
    | with_reducible assumption
    | intro _
    | with_reducible refine within_runAny (hS.mono (by decide)) ?_
    | with_reducible refine within_takeCmd (hS.mono (by decide)) ?_
    | split
    | dsimp only

theorem within_hardwareBody {S : List StatePart} {s0 : State} {c : Cmd} {pay : List Byte} {s : State}
    (hS : Covers S [.fp, .host, .inProgress, .mgmt, .measure, .ev, .pwr, .fw, .err, .installs, .links, .hostMem, .bootLog, .bootWear])
    (hw : Within S s0 s) : Within S s0 (hardwareBody c pay s) := by
  unfold hardwareBody
  repeat' first
    | with_reducible assumption
    | intro _
    | with_reducible refine within_doColdReset (hS.mono (by decide)) ?_
    | with_reducible refine within_doFwProcRestart (hS.mono (by decide)) ?_
    | with_reducible refine Within.ite ?_ ?_
    | split
    | dsimp only

theorem within_heldMail {S : List StatePart} {s0 : State} {time : Nat} {s : State}
    (hS : Covers S [.now, .fp, .host, .inProgress, .mgmt, .measure, .ev, .pwr, .fw, .err, .installs, .links, .hostMem, .bootLog, .bootWear])
    (hw : Within S s0 s) : Within S s0 (heldMail time s) := by
  unfold heldMail
  repeat' first
    | with_reducible assumption
    | intro _
    | with_reducible refine within_complete (hS.mono (by decide)) ?_
    | with_reducible refine within_hardwareBody (hS.mono (by decide)) ?_
    | with_reducible refine within_runTaken (hS.mono (by decide)) ?_ ?_
    | with_reducible refine within_takeCmd (hS.mono (by decide)) ?_
    | with_reducible refine Within.ite ?_ ?_
    | split
    | dsimp only

theorem within_execGo {S : List StatePart} {s0 : State} {v : BitVec 64} {time : Nat} {s : State}
    (hS : Covers S [.freeCtr, .now, .fp, .host, .inProgress, .mgmt, .measure, .ev, .parts, .pwr, .fw, .err, .cool, .install, .installs, .fab, .hbms, .bufs, .engines, .links, .mem, .bays, .cores, .xings, .hostMem, .bootGeneration, .bootFences, .bootFailures, .bootLog, .bootWear, .bootBanks, .bootStore, .bootStoreMem, .bootSecFuses, .bootKeys, .bootHwm])
    (hw : Within S s0 s) : OutWithin S s0 (execGo v time s) := by
  unfold execGo
  repeat' first
    | with_reducible assumption
    | (intro m; cases m; constructor <;> first | with_reducible assumption)
    | (intro (p : StatePart); cases p <;> first | exact Or.inl (hS.part (by decide)) | with_reducible exact Or.inr rfl | with_reducible exact Or.inr ⟨rfl, rfl⟩ | with_reducible exact Or.inr (Nat.le_refl _))
    | intro _
    | with_reducible refine within_barAccess (hS.mono (by decide)) ?_ ?_
    | with_reducible refine within_heldMail (hS.mono (by decide)) ?_
    | with_reducible refine within_takeMail (hS.mono (by decide)) ?_
    | with_reducible refine OutWithin.next ?_
    | exact OutWithin.fault _ _ _
    | with_reducible refine OutWithin.ite ?_ ?_
    | with_reducible refine Within.ite ?_ ?_
    | split
    | dsimp only
    | with_reducible refine Within.upd rfl ?_ ?_ ?_

theorem within_settleHeldMail {S : List StatePart} {s0 : State} {s : State}
    (hS : Covers S [.now, .fp, .host, .inProgress, .mgmt, .measure, .ev, .pwr, .fw, .err, .installs, .links, .hostMem, .bootLog, .bootWear])
    (hw : Within S s0 s) : Within S s0 (settleHeldMail s) := by
  unfold settleHeldMail
  repeat' first
    | with_reducible assumption
    | intro _
    | with_reducible refine within_heldMail (hS.mono (by decide)) ?_
    | with_reducible refine Within.ite ?_ ?_
    | split
    | dsimp only

theorem within_execWatchdogExpiry {S : List StatePart} {s0 : State} {n : ProcId} {time : Nat} {s : State}
    (hS : Covers S [.now, .fp, .host, .inProgress, .mgmt, .measure, .ev, .pwr, .fw, .err, .installs, .links, .hostMem, .bootLog, .bootWear])
    (hw : Within S s0 s) : OutWithin S s0 (execWatchdogExpiry n time s) := by
  unfold execWatchdogExpiry
  repeat' first
    | with_reducible assumption
    | intro _
    | with_reducible refine within_atTime (hS.mono (by decide)) ?_
    | with_reducible refine within_countedRestart (hS.mono (by decide)) ?_
    | with_reducible refine within_examine (hS.mono (by decide)) ?_
    | with_reducible refine within_settleHeldMail (hS.mono (by decide)) ?_
    | with_reducible refine OutWithin.next ?_
    | exact OutWithin.fault _ _ _
    | with_reducible refine OutWithin.ite ?_ ?_
    | with_reducible refine Within.ite ?_ ?_
    | split
    | dsimp only

theorem within_execProcessorFault {S : List StatePart} {s0 : State} {n : ProcId} {time : Nat} {s : State}
    (hS : Covers S [.now, .fp, .host, .inProgress, .mgmt, .measure, .ev, .pwr, .fw, .err, .installs, .links, .hostMem, .bootLog, .bootWear])
    (hw : Within S s0 s) : OutWithin S s0 (execProcessorFault n time s) := by
  unfold execProcessorFault
  repeat' first
    | with_reducible assumption
    | intro _
    | with_reducible refine within_atTime (hS.mono (by decide)) ?_
    | with_reducible refine within_countedRestart (hS.mono (by decide)) ?_
    | with_reducible refine within_settleHeldMail (hS.mono (by decide)) ?_
    | with_reducible refine OutWithin.next ?_
    | exact OutWithin.fault _ _ _
    | with_reducible refine OutWithin.ite ?_ ?_
    | with_reducible refine Within.ite ?_ ?_
    | split
    | dsimp only

theorem within_takeFrom {S : List StatePart} {s0 : State} {time : Nat} {q : Nat} {p : QueuePair} {s : State}
    (hS : Covers S [.freeCtr, .now, .fp, .host, .inProgress, .mgmt, .measure, .ev, .parts, .pwr, .fw, .err, .cool, .install, .installs, .fab, .hbms, .bufs, .engines, .links, .mem, .bays, .cores, .xings, .hostMem, .bootGeneration, .bootFences, .bootFailures, .bootLog, .bootWear, .bootBanks, .bootStore, .bootStoreMem, .bootSecFuses, .bootKeys, .bootHwm])
    (hw : Within S s0 s) : Within S s0 (takeFrom time q p s) := by
  unfold takeFrom
  repeat' first
    | with_reducible assumption
    | (intro m; cases m; constructor <;> first | with_reducible assumption)
    | (intro (p : StatePart); cases p <;> first | exact Or.inl (hS.part (by decide)) | with_reducible exact Or.inr rfl | with_reducible exact Or.inr ⟨rfl, rfl⟩ | with_reducible exact Or.inr (Nat.le_refl _))
    | intro _
    | with_reducible refine within_putQueue (hS.mono (by decide)) ?_
    | with_reducible refine within_runAny (hS.mono (by decide)) ?_
    | with_reducible refine within_takeCmd (hS.mono (by decide)) ?_
    | with_reducible refine Within.ite ?_ ?_
    | split
    | dsimp only
    | with_reducible refine Within.upd rfl ?_ ?_ ?_

theorem within_takeMgmt {S : List StatePart} {s0 : State} {c : Cmd} {major : Bool} {s : State}
    (hS : Covers S [.freeCtr, .now, .fp, .host, .inProgress, .mgmt, .measure, .ev, .parts, .pwr, .fw, .err, .cool, .install, .installs, .fab, .hbms, .bufs, .engines, .links, .mem, .bays, .cores, .xings, .hostMem, .bootGeneration, .bootFences, .bootFailures, .bootLog, .bootWear, .bootBanks, .bootStore, .bootStoreMem, .bootSecFuses, .bootKeys, .bootHwm])
    (hw : Within S s0 s) : Within S s0 (takeMgmt c major s) := by
  unfold takeMgmt
  repeat' first
    | with_reducible assumption
    | intro _
    | with_reducible refine within_complete (hS.mono (by decide)) ?_
    | with_reducible refine within_runAny (hS.mono (by decide)) ?_
    | with_reducible refine within_takeCmd (hS.mono (by decide)) ?_
    | with_reducible refine Within.ite ?_ ?_
    | split
    | dsimp only

theorem within_setCommands {S : List StatePart} {s0 : State} {l : List (Cmd × Bool)} {s : State}
    (hS : Covers S [.fw])
    (hw : Within S s0 s) : Within S s0 (setCommands l s) := by
  unfold setCommands
  repeat' first
    | with_reducible assumption
    | (intro m; cases m; constructor <;> first | with_reducible assumption)
    | (intro (p : StatePart); cases p <;> first | exact Or.inl (hS.part (by decide)) | with_reducible exact Or.inr rfl | with_reducible exact Or.inr ⟨rfl, rfl⟩ | with_reducible exact Or.inr (Nat.le_refl _))
    | intro _
    | split
    | dsimp only
    | with_reducible refine Within.upd rfl ?_ ?_ ?_

theorem within_takeNext {S : List StatePart} {s0 : State} {time : Nat} {s : State}
    (hS : Covers S [.freeCtr, .now, .fp, .host, .inProgress, .mgmt, .measure, .ev, .parts, .pwr, .fw, .err, .cool, .install, .installs, .fab, .hbms, .bufs, .engines, .links, .mem, .bays, .cores, .xings, .hostMem, .bootGeneration, .bootFences, .bootFailures, .bootLog, .bootWear, .bootBanks, .bootStore, .bootStoreMem, .bootSecFuses, .bootKeys, .bootHwm])
    (hw : Within S s0 s) : OutWithin S s0 (takeNext time s) := by
  unfold takeNext
  repeat' first
    | with_reducible assumption
    | intro _
    | with_reducible refine within_atTime (hS.mono (by decide)) ?_
    | with_reducible refine within_setCommands (hS.mono (by decide)) ?_
    | with_reducible refine within_takeFrom (hS.mono (by decide)) ?_
    | with_reducible refine within_takeMail (hS.mono (by decide)) ?_
    | with_reducible refine within_takeMgmt (hS.mono (by decide)) ?_
    | with_reducible refine OutWithin.next ?_
    | exact OutWithin.fault _ _ _
    | with_reducible refine OutWithin.ite ?_ ?_
    | with_reducible refine Within.ite ?_ ?_
    | split
    | dsimp only

theorem within_execCommandTake {S : List StatePart} {s0 : State} {time : Nat} {s : State}
    (hS : Covers S [.freeCtr, .now, .fp, .host, .inProgress, .mgmt, .measure, .ev, .parts, .pwr, .fw, .err, .cool, .install, .installs, .fab, .hbms, .bufs, .engines, .links, .mem, .bays, .cores, .xings, .hostMem, .bootGeneration, .bootFences, .bootFailures, .bootLog, .bootWear, .bootBanks, .bootStore, .bootStoreMem, .bootSecFuses, .bootKeys, .bootHwm])
    (hw : Within S s0 s) : OutWithin S s0 (execCommandTake time s) := by
  unfold execCommandTake
  repeat' first
    | with_reducible assumption
    | intro _
    | with_reducible refine within_atTime (hS.mono (by decide)) ?_
    | with_reducible refine within_endStage (hS.mono (by decide)) ?_
    | with_reducible refine within_takeNext (hS.mono (by decide)) ?_
    | with_reducible refine OutWithin.next ?_
    | exact OutWithin.fault _ _ _
    | with_reducible refine OutWithin.ite ?_ ?_
    | with_reducible refine Within.ite ?_ ?_
    | split
    | dsimp only

theorem within_execPayloadTimeout {S : List StatePart} {s0 : State} {c : Cmd} {s : State}
    (hS : Covers S [.freeCtr, .now, .fp, .host, .inProgress, .mgmt, .measure, .ev, .parts, .pwr, .fw, .err, .cool, .install, .installs, .fab, .hbms, .bufs, .engines, .links, .mem, .bays, .cores, .xings, .hostMem, .bootGeneration, .bootFences, .bootFailures, .bootLog, .bootWear, .bootBanks, .bootStore, .bootStoreMem, .bootSecFuses, .bootKeys, .bootHwm])
    (hw : Within S s0 s) : OutWithin S s0 (execPayloadTimeout c s) := by
  unfold execPayloadTimeout
  repeat' first
    | with_reducible assumption
    | intro _
    | with_reducible refine within_atTime (hS.mono (by decide)) ?_
    | with_reducible refine within_runAny (hS.mono (by decide)) ?_
    | with_reducible refine within_takeCmd (hS.mono (by decide)) ?_
    | with_reducible refine OutWithin.next ?_
    | exact OutWithin.fault _ _ _
    | with_reducible refine OutWithin.ite ?_ ?_
    | with_reducible refine Within.ite ?_ ?_
    | split
    | dsimp only

theorem within_runWaiting {S : List StatePart} {s0 : State} {n : Nat} {s : State}
    (hS : Covers S [.freeCtr, .fp, .host, .inProgress, .mgmt, .measure, .ev, .parts, .pwr, .fw, .err, .cool, .install, .installs, .fab, .hbms, .bufs, .engines, .links, .mem, .bays, .cores, .xings, .hostMem, .bootGeneration, .bootFences, .bootFailures, .bootLog, .bootWear, .bootBanks, .bootStore, .bootStoreMem, .bootSecFuses, .bootKeys, .bootHwm])
    (hw : Within S s0 s) : Within S s0 (runWaiting n s) := by
  unfold runWaiting
  repeat' first
    | with_reducible assumption
    | (intro m; cases m; constructor <;> first | with_reducible assumption | (refine keysRise_filter _ _ ?_; with_reducible assumption))
    | (intro (p : StatePart); cases p <;> first | exact Or.inl (hS.part (by decide)) | with_reducible exact Or.inr rfl | with_reducible exact Or.inr ⟨rfl, rfl⟩ | with_reducible exact Or.inr (Nat.le_refl _))
    | intro _
    | with_reducible refine within_runOpcode (hS.mono (by decide)) ?_
    | with_reducible refine Within.foldl _ _ (fun s a h => ?_) ?_
    | with_reducible refine Within.foldl_fourth _ _ (fun r a h => ?_) ?_
    | with_reducible refine Within.foldl_third _ _ (fun r a h => ?_) ?_
    | with_reducible refine Within.foldl_snd _ _ (fun r a h => ?_) ?_
    | with_reducible refine Within.foldl_fst _ _ (fun r a h => ?_) ?_
    | split
    | dsimp only
    | with_reducible refine Within.upd rfl ?_ ?_ ?_

theorem within_execFwRestart {S : List StatePart} {s0 : State} {n : ProcId} {time : Nat} {s : State}
    (hS : Covers S [.freeCtr, .now, .fp, .host, .inProgress, .mgmt, .measure, .ev, .parts, .pwr, .fw, .err, .cool, .install, .installs, .fab, .hbms, .bufs, .engines, .links, .mem, .bays, .cores, .xings, .hostMem, .bootGeneration, .bootFences, .bootFailures, .bootLog, .bootWear, .bootBanks, .bootStore, .bootStoreMem, .bootSecFuses, .bootKeys, .bootHwm])
    (hw : Within S s0 s) : OutWithin S s0 (execFwRestart n time s) := by
  unfold execFwRestart
  repeat' first
    | with_reducible assumption
    | intro _
    | with_reducible refine within_atTime (hS.mono (by decide)) ?_
    | with_reducible refine within_goOnApply (hS.mono (by decide)) ?_
    | with_reducible refine within_procRunsAgain (hS.mono (by decide)) ?_
    | with_reducible refine within_runWaiting (hS.mono (by decide)) ?_
    | with_reducible refine OutWithin.next ?_
    | exact OutWithin.fault _ _ _
    | with_reducible refine OutWithin.ite ?_ ?_
    | with_reducible refine Within.ite ?_ ?_
    | split
    | dsimp only

theorem within_execDieResetComplete {S : List StatePart} {s0 : State} {p : SiteId} {r : SelfTest} {time : Nat} {s : State}
    (hS : Covers S [.freeCtr, .now, .fp, .host, .inProgress, .mgmt, .measure, .ev, .parts, .pwr, .fw, .err, .cool, .install, .installs, .fab, .hbms, .bufs, .engines, .links, .mem, .bays, .cores, .xings, .hostMem, .bootGeneration, .bootFences, .bootFailures, .bootLog, .bootWear, .bootBanks, .bootStore, .bootStoreMem, .bootSecFuses, .bootKeys, .bootHwm])
    (hw : Within S s0 s) : OutWithin S s0 (execDieResetComplete p r time s) := by
  unfold execDieResetComplete
  repeat' first
    | with_reducible assumption
    | intro _
    | with_reducible refine within_atTime (hS.mono (by decide)) ?_
    | with_reducible refine within_dieStarts (hS.mono (by decide)) ?_
    | with_reducible refine within_modPwr (hS.mono (by decide)) ?_
    | with_reducible refine within_resetDone (hS.mono (by decide)) ?_
    | with_reducible refine within_runWaiting (hS.mono (by decide)) ?_
    | with_reducible refine OutWithin.next ?_
    | exact OutWithin.fault _ _ _
    | split
    | dsimp only

theorem within_runFrame {S : List StatePart} {s0 : State} {time : Nat} {d : List Byte} {s : State}
    (hS : Covers S [.freeCtr, .now, .fp, .host, .inProgress, .mgmt, .measure, .ev, .parts, .pwr, .fw, .err, .cool, .install, .installs, .fab, .hbms, .bufs, .engines, .links, .mem, .bays, .cores, .xings, .hostMem, .bootGeneration, .bootFences, .bootFailures, .bootLog, .bootWear, .bootBanks, .bootStore, .bootStoreMem, .bootSecFuses, .bootKeys, .bootHwm])
    (hw : Within S s0 s) : Within S s0 (runFrame time d s) := by
  unfold runFrame
  repeat' first
    | with_reducible assumption
    | intro _
    | with_reducible refine within_complete (hS.mono (by decide)) ?_
    | with_reducible refine within_setCommands (hS.mono (by decide)) ?_
    | with_reducible refine within_takeCmd (hS.mono (by decide)) ?_
    | with_reducible refine within_takeMgmt (hS.mono (by decide)) ?_
    | with_reducible refine Within.ite ?_ ?_
    | split
    | dsimp only

theorem within_execCommand {S : List StatePart} {s0 : State} {seg : Segm} {f : Frame} {time : Nat} {s : State}
    (hS : Covers S [.freeCtr, .now, .fp, .host, .inProgress, .mgmt, .measure, .ev, .parts, .pwr, .fw, .err, .cool, .install, .installs, .fab, .hbms, .bufs, .engines, .links, .mem, .bays, .cores, .xings, .hostMem, .bootGeneration, .bootFences, .bootFailures, .bootLog, .bootWear, .bootBanks, .bootStore, .bootStoreMem, .bootSecFuses, .bootKeys, .bootHwm])
    (hw : Within S s0 s) : OutWithin S s0 (execCommand seg f time s) := by
  unfold execCommand
  repeat' first
    | with_reducible assumption
    | (intro r act y e h; (repeat' split at e) <;> cases e)
    | intro _
    | with_reducible refine within_judgeSender (hS.mono (by decide)) ?_
    | with_reducible refine within_receiveFrame (hS.mono (by decide)) ?_ ?_
    | with_reducible refine within_runFrame (hS.mono (by decide)) ?_
    | with_reducible refine OutWithin.next ?_
    | exact OutWithin.fault _ _ _
    | with_reducible refine OutWithin.ite ?_ ?_
    | with_reducible refine Within.ite ?_ ?_
    | split
    | dsimp only

end Sys2Proof.Laws
end

