-- ==== Sys2Proof/Laws/FrameExec.lean ====
section
/-! SUPPORT. What a command may change: the parts named by its meaning's lemma, and over all commands every part but four. -/

namespace Sys2Proof.Laws

open Machine

/-- The parts that some command changes. The queue is the step's; no command changes the fuses, the hydraulic baselines,
or which host addresses answer. -/
def commandParts : List StatePart :=
  [.clock, .freeCtr, .now, .fp, .host, .inProgress, .mgmt, .measure, .ev, .parts, .pwr, .fw, .err, .cool, .install, .installs, .fab, .hbms, .bufs, .engines, .links, .mem, .bays, .cores, .xings, .hostMem, .bootGeneration, .bootFences, .bootFailures, .bootCount, .bootLog, .bootWear, .bootTrip, .bootBanks, .bootStore, .bootStoreMem, .bootSecFuses, .bootKeys, .bootHwm]

/-- No command changes more than `commandParts`, nor breaks `Kept`. -/
theorem exec_within (i : Instr) (s : State) : OutWithin commandParts s (exec i s) := by
  cases i with
  | floorplanGet c => exact within_execFloorplanGet ((Covers.self _).mono (by decide +kernel)) (Within.refl _ _)
  | siteFence c => exact within_execSiteFence ((Covers.self _).mono (by decide +kernel)) (Within.refl _ _)
  | siteUnfence c => exact within_execSiteUnfence ((Covers.self _).mono (by decide +kernel)) (Within.refl _ _)
  | siteUnfenceDefault c => exact within_execSiteUnfenceDefault ((Covers.self _).mono (by decide +kernel)) (Within.refl _ _)
  | siteRetest c => exact within_execSiteRetest ((Covers.self _).mono (by decide +kernel)) (Within.refl _ _)
  | siteRetestComplete p r time => exact within_execSiteRetestComplete ((Covers.self _).mono (by decide +kernel)) (Within.refl _ _)
  | matrixStep k t => exact within_execMatrixStep ((Covers.self _).mono (by decide +kernel)) (Within.refl _ _)
  | matrixStepStart k t => exact within_execMatrixStepStart ((Covers.self _).mono (by decide +kernel)) (Within.refl _ _)
  | operandRelease k t => exact within_execOperandRelease ((Covers.self _).mono (by decide +kernel)) (Within.refl _ _)
  | bankComplete k t => exact within_execBankComplete ((Covers.self _).mono (by decide +kernel)) (Within.refl _ _)
  | tileInQueue k t => exact within_execTileInQueue ((Covers.self _).mono (by decide +kernel)) (Within.refl _ _)
  | vectorChain k t => exact within_execVectorChain ((Covers.self _).mono (by decide +kernel)) (Within.refl _ _)
  | vectorChainStart k t => exact within_execVectorChainStart ((Covers.self _).mono (by decide +kernel)) (Within.refl _ _)
  | vectorInputConsume k t => exact within_execVectorInputConsume ((Covers.self _).mono (by decide +kernel)) (Within.refl _ _)
  | vectorOutputFull k t => exact within_execVectorOutputFull ((Covers.self _).mono (by decide +kernel)) (Within.refl _ _)
  | scanCall k t => exact within_execScanCall ((Covers.self _).mono (by decide +kernel)) (Within.refl _ _)
  | scanCallStart k t => exact within_execScanCallStart ((Covers.self _).mono (by decide +kernel)) (Within.refl _ _)
  | scanInputEmpty k t => exact within_execScanInputEmpty ((Covers.self _).mono (by decide +kernel)) (Within.refl _ _)
  | scanOutputFull k t => exact within_execScanOutputFull ((Covers.self _).mono (by decide +kernel)) (Within.refl _ _)
  | accessEnq k t => exact within_execAccessEnq ((Covers.self _).mono (by decide +kernel)) (Within.refl _ _)
  | descriptorStart k time => exact within_execDescriptorStart ((Covers.self _).mono (by decide +kernel)) (Within.refl _ _)
  | burstResponse k tag time => exact within_execBurstResponse ((Covers.self _).mono (by decide +kernel)) (Within.refl _ _)
  | descriptorComplete k time => exact within_execDescriptorComplete ((Covers.self _).mono (by decide +kernel)) (Within.refl _ _)
  | remoteScratchpadWrite k time => exact within_execRemoteScratchpadWrite ((Covers.self _).mono (by decide +kernel)) (Within.refl _ _)
  | send k t => exact within_execSend ((Covers.self _).mono (by decide +kernel)) (Within.refl _ _)
  | sendTagEmpty k t => exact within_execSendTagEmpty ((Covers.self _).mono (by decide +kernel)) (Within.refl _ _)
  | receive k t => exact within_execReceive ((Covers.self _).mono (by decide +kernel)) (Within.refl _ _)
  | receiveTagFull k t => exact within_execReceiveTagFull ((Covers.self _).mono (by decide +kernel)) (Within.refl _ _)
  | cload k t => exact within_execCload ((Covers.self _).mono (by decide +kernel)) (Within.refl _ _)
  | cstep k t => exact within_execCstep ((Covers.self _).mono (by decide +kernel)) (Within.refl _ _)
  | cloop k t => exact within_execCloop ((Covers.self _).mono (by decide +kernel)) (Within.refl _ _)
  | ctest k t => exact within_execCtest ((Covers.self _).mono (by decide +kernel)) (Within.refl _ _)
  | produce k t => exact within_execProduce ((Covers.self _).mono (by decide +kernel)) (Within.refl _ _)
  | consume k t => exact within_execConsume ((Covers.self _).mono (by decide +kernel)) (Within.refl _ _)
  | pegPage k t => exact within_execPegPage ((Covers.self _).mono (by decide +kernel)) (Within.refl _ _)
  | epochMark k t => exact within_execEpochMark ((Covers.self _).mono (by decide +kernel)) (Within.refl _ _)
  | checkAhead k t => exact within_execCheckAhead ((Covers.self _).mono (by decide +kernel)) (Within.refl _ _)
  | pegEntry k t => exact within_execPegEntry ((Covers.self _).mono (by decide +kernel)) (Within.refl _ _)
  | pegCheck k t => exact within_execPegCheck ((Covers.self _).mono (by decide +kernel)) (Within.refl _ _)
  | crossingEntry k side time => exact within_execCrossingEntry ((Covers.self _).mono (by decide +kernel)) (Within.refl _ _)
  | creditReturn k side time => exact within_execCreditReturn ((Covers.self _).mono (by decide +kernel)) (Within.refl _ _)
  | bayFreeze b time => exact within_execBayFreeze ((Covers.self _).mono (by decide +kernel)) (Within.refl _ _)
  | bayResume b time => exact within_execBayResume ((Covers.self _).mono (by decide +kernel)) (Within.refl _ _)
  | bankHold k t => exact within_execBankHold ((Covers.self _).mono (by decide +kernel)) (Within.refl _ _)
  | droop k t level => exact within_execDroop ((Covers.self _).mono (by decide +kernel)) (Within.refl _ _)
  | bayLoad c => exact within_execBayLoad ((Covers.self _).mono (by decide +kernel)) (Within.refl _ _)
  | bayStart c => exact within_execBayStart ((Covers.self _).mono (by decide +kernel)) (Within.refl _ _)
  | bayHold c => exact within_execBayHold ((Covers.self _).mono (by decide +kernel)) (Within.refl _ _)
  | bayRelease c => exact within_execBayRelease ((Covers.self _).mono (by decide +kernel)) (Within.refl _ _)
  | bayStop c => exact within_execBayStop ((Covers.self _).mono (by decide +kernel)) (Within.refl _ _)
  | bayReconfigure c => exact within_execBayReconfigure ((Covers.self _).mono (by decide +kernel)) (Within.refl _ _)
  | baySetPoint c => exact within_execBaySetPoint ((Covers.self _).mono (by decide +kernel)) (Within.refl _ _)
  | railRaised b time => exact within_execRailRaised ((Covers.self _).mono (by decide +kernel)) (Within.refl _ _)
  | pointStop b time => exact within_execPointStop ((Covers.self _).mono (by decide +kernel)) (Within.refl _ _)
  | relockEnd b time => exact within_execRelockEnd ((Covers.self _).mono (by decide +kernel)) (Within.refl _ _)
  | bayStatus c => exact within_execBayStatus ((Covers.self _).mono (by decide +kernel)) (Within.refl _ _)
  | timeExchange c => exact within_execTimeExchange ((Covers.self _).mono (by decide +kernel)) (Within.refl _ _)
  | bayRemove c => exact within_execBayRemove ((Covers.self _).mono (by decide +kernel)) (Within.refl _ _)
  | loadReportGet c => exact within_execLoadReportGet ((Covers.self _).mono (by decide +kernel)) (Within.refl _ _)
  | hazardGet c => exact within_execHazardGet ((Covers.self _).mono (by decide +kernel)) (Within.refl _ _)
  | stopCycle b time => exact within_execStopCycle ((Covers.self _).mono (by decide +kernel)) (Within.refl _ _)
  | drainComplete b time => exact within_execDrainComplete ((Covers.self _).mono (by decide +kernel)) (Within.refl _ _)
  | drainOverrun b time => exact within_execDrainOverrun ((Covers.self _).mono (by decide +kernel)) (Within.refl _ _)
  | faultHold b time => exact within_execFaultHold ((Covers.self _).mono (by decide +kernel)) (Within.refl _ _)
  | bayHeldLong b time => exact within_execBayHeldLong ((Covers.self _).mono (by decide +kernel)) (Within.refl _ _)
  | bayDone b time => exact within_execBayDone ((Covers.self _).mono (by decide +kernel)) (Within.refl _ _)
  | serviceRead q f time => exact within_execServiceRead ((Covers.self _).mono (by decide +kernel)) (Within.refl _ _)
  | serviceWrite q f time => exact within_execServiceWrite ((Covers.self _).mono (by decide +kernel)) (Within.refl _ _)
  | ctrlPacket q time => exact within_execCtrlPacket ((Covers.self _).mono (by decide +kernel)) (Within.refl _ _)
  | serviceResponse q time => exact within_execServiceResponse ((Covers.self _).mono (by decide +kernel)) (Within.refl _ _)
  | requestExpired p u tag time => exact within_execRequestExpired ((Covers.self _).mono (by decide +kernel)) (Within.refl _ _)
  | hopReplay p side f time => exact within_execHopReplay ((Covers.self _).mono (by decide +kernel)) (Within.refl _ _)
  | hopRetrain p side ok time => exact within_execHopRetrain ((Covers.self _).mono (by decide +kernel)) (Within.refl _ _)
  | routeRewrite time => exact within_execRouteRewrite ((Covers.self _).mono (by decide +kernel)) (Within.refl _ _)
  | congestionSample p fills waits time => exact within_execCongestionSample ((Covers.self _).mono (by decide +kernel)) (Within.refl _ _)
  | congestionWindowEnd time => exact within_execCongestionWindowEnd ((Covers.self _).mono (by decide +kernel)) (Within.refl _ _)
  | partitionCreate c => exact within_execPartitionCreate ((Covers.self _).mono (by decide +kernel)) (Within.refl _ _)
  | partitionDestroy c => exact within_execPartitionDestroy ((Covers.self _).mono (by decide +kernel)) (Within.refl _ _)
  | partitionAdd c => exact within_execPartitionAdd ((Covers.self _).mono (by decide +kernel)) (Within.refl _ _)
  | partitionRemove c => exact within_execPartitionRemove ((Covers.self _).mono (by decide +kernel)) (Within.refl _ _)
  | windowSet c => exact within_execWindowSet ((Covers.self _).mono (by decide +kernel)) (Within.refl _ _)
  | windowClear c => exact within_execWindowClear ((Covers.self _).mono (by decide +kernel)) (Within.refl _ _)
  | memScrubSet c => exact within_execMemScrubSet ((Covers.self _).mono (by decide +kernel)) (Within.refl _ _)
  | fabricMapGet c => exact within_execFabricMapGet ((Covers.self _).mono (by decide +kernel)) (Within.refl _ _)
  | patrolScrub st word f time => exact within_execPatrolScrub ((Covers.self _).mono (by decide +kernel)) (Within.refl _ _)
  | rowRetire st row time => exact within_execRowRetire ((Covers.self _).mono (by decide +kernel)) (Within.refl _ _)
  | embTableCreate c => exact within_execEmbTableCreate ((Covers.self _).mono (by decide +kernel)) (Within.refl _ _)
  | embTableDestroy c => exact within_execEmbTableDestroy ((Covers.self _).mono (by decide +kernel)) (Within.refl _ _)
  | requestPortWrite q time => exact within_execRequestPortWrite ((Covers.self _).mono (by decide +kernel)) (Within.refl _ _)
  | lookupStart st f time => exact within_execLookupStart ((Covers.self _).mono (by decide +kernel)) (Within.refl _ _)
  | lookupResult st order time => exact within_execLookupResult ((Covers.self _).mono (by decide +kernel)) (Within.refl _ _)
  | embBatchOpen c => exact within_execEmbBatchOpen ((Covers.self _).mono (by decide +kernel)) (Within.refl _ _)
  | embBatchClose c => exact within_execEmbBatchClose ((Covers.self _).mono (by decide +kernel)) (Within.refl _ _)
  | embBatchRelease part batch time => exact within_execEmbBatchRelease ((Covers.self _).mono (by decide +kernel)) (Within.refl _ _)
  | embRebuildStart c => exact within_execEmbRebuildStart ((Covers.self _).mono (by decide +kernel)) (Within.refl _ _)
  | rebuildRowWrite st tab f time => exact within_execRebuildRowWrite ((Covers.self _).mono (by decide +kernel)) (Within.refl _ _)
  | rebuildStarved st tab time => exact within_execRebuildStarved ((Covers.self _).mono (by decide +kernel)) (Within.refl _ _)
  | embRebuildPause c => exact within_execEmbRebuildPause ((Covers.self _).mono (by decide +kernel)) (Within.refl _ _)
  | embRebuildResume c => exact within_execEmbRebuildResume ((Covers.self _).mono (by decide +kernel)) (Within.refl _ _)
  | embRebuildShare c => exact within_execEmbRebuildShare ((Covers.self _).mono (by decide +kernel)) (Within.refl _ _)
  | embRebuildAbort c => exact within_execEmbRebuildAbort ((Covers.self _).mono (by decide +kernel)) (Within.refl _ _)
  | embCommit c => exact within_execEmbCommit ((Covers.self _).mono (by decide +kernel)) (Within.refl _ _)
  | embTableStatus c => exact within_execEmbTableStatus ((Covers.self _).mono (by decide +kernel)) (Within.refl _ _)
  | inflateRead q f time => exact within_execInflateRead ((Covers.self _).mono (by decide +kernel)) (Within.refl _ _)
  | pageSweep w page time => exact within_execPageSweep ((Covers.self _).mono (by decide +kernel)) (Within.refl _ _)
  | wstoreInstallBegin c => exact within_execWstoreInstallBegin ((Covers.self _).mono (by decide +kernel)) (Within.refl _ _)
  | wstoreInstallEnd c => exact within_execWstoreInstallEnd ((Covers.self _).mono (by decide +kernel)) (Within.refl _ _)
  | wstoreWrite c => exact within_execWstoreWrite ((Covers.self _).mono (by decide +kernel)) (Within.refl _ _)
  | pageWrite w time => exact within_execPageWrite ((Covers.self _).mono (by decide +kernel)) (Within.refl _ _)
  | wstoreStatus c => exact within_execWstoreStatus ((Covers.self _).mono (by decide +kernel)) (Within.refl _ _)
  | wsetStage c => exact within_execWsetStage ((Covers.self _).mono (by decide +kernel)) (Within.refl _ _)
  | wsetSwitch c => exact within_execWsetSwitch ((Covers.self _).mono (by decide +kernel)) (Within.refl _ _)
  | wsetDiscard c => exact within_execWsetDiscard ((Covers.self _).mono (by decide +kernel)) (Within.refl _ _)
  | wsetDiscardCurrent c => exact within_execWsetDiscardCurrent ((Covers.self _).mono (by decide +kernel)) (Within.refl _ _)
  | wsetBatchOpen c => exact within_execWsetBatchOpen ((Covers.self _).mono (by decide +kernel)) (Within.refl _ _)
  | wsetBatchClose c => exact within_execWsetBatchClose ((Covers.self _).mono (by decide +kernel)) (Within.refl _ _)
  | wsetGet c => exact within_execWsetGet ((Covers.self _).mono (by decide +kernel)) (Within.refl _ _)
  | purlinSet c => exact within_execPurlinSet ((Covers.self _).mono (by decide +kernel)) (Within.refl _ _)
  | purlinSend c => exact within_execPurlinSend ((Covers.self _).mono (by decide +kernel)) (Within.refl _ _)
  | segmentReceive part seg time => exact within_execSegmentReceive ((Covers.self _).mono (by decide +kernel)) (Within.refl _ _)
  | linkFlitReceive l f time => exact within_execLinkFlitReceive ((Covers.self _).mono (by decide +kernel)) (Within.refl _ _)
  | linkTraining l r time => exact within_execLinkTraining ((Covers.self _).mono (by decide +kernel)) (Within.refl _ _)
  | linkRetrain l cause time => exact within_execLinkRetrain ((Covers.self _).mono (by decide +kernel)) (Within.refl _ _)
  | linkPanelIdSet c => exact within_execLinkPanelIdSet ((Covers.self _).mono (by decide +kernel)) (Within.refl _ _)
  | partitionLinkSet c => exact within_execPartitionLinkSet ((Covers.self _).mono (by decide +kernel)) (Within.refl _ _)
  | rankTableSet c => exact within_execRankTableSet ((Covers.self _).mono (by decide +kernel)) (Within.refl _ _)
  | transitSet c => exact within_execTransitSet ((Covers.self _).mono (by decide +kernel)) (Within.refl _ _)
  | linkCtrl c => exact within_execLinkCtrl ((Covers.self _).mono (by decide +kernel)) (Within.refl _ _)
  | linkStatus c => exact within_execLinkStatus ((Covers.self _).mono (by decide +kernel)) (Within.refl _ _)
  | linkEgressWrite q x time => exact within_execLinkEgressWrite ((Covers.self _).mono (by decide +kernel)) (Within.refl _ _)
  | linkAckArrival l q time => exact within_execLinkAckArrival ((Covers.self _).mono (by decide +kernel)) (Within.refl _ _)
  | linkAckExpired l tag time => exact within_execLinkAckExpired ((Covers.self _).mono (by decide +kernel)) (Within.refl _ _)
  | linkPacketArrival l q time => exact within_execLinkPacketArrival ((Covers.self _).mono (by decide +kernel)) (Within.refl _ _)
  | reductionAdd h time => exact within_execReductionAdd ((Covers.self _).mono (by decide +kernel)) (Within.refl _ _)
  | hdmAccess a f time => exact within_execHdmAccess ((Covers.self _).mono (by decide +kernel)) (Within.refl _ _)
  | biasSet c => exact within_execBiasSet ((Covers.self _).mono (by decide +kernel)) (Within.refl _ _)
  | hostWindowSet c => exact within_execHostWindowSet ((Covers.self _).mono (by decide +kernel)) (Within.refl _ _)
  | hostWindowClear c => exact within_execHostWindowClear ((Covers.self _).mono (by decide +kernel)) (Within.refl _ _)
  | apertureAccess a f time => exact within_execApertureAccess ((Covers.self _).mono (by decide +kernel)) (Within.refl _ _)
  | commit v time => exact within_execCommit ((Covers.self _).mono (by decide +kernel)) (Within.refl _ _)
  | go v time => exact within_execGo ((Covers.self _).mono (by decide +kernel)) (Within.refl _ _)
  | done v time => exact within_execDone ((Covers.self _).mono (by decide +kernel)) (Within.refl _ _)
  | sqTail qid tail time => exact within_execSqTail ((Covers.self _).mono (by decide +kernel)) (Within.refl _ _)
  | cqHead qid head time => exact within_execCqHead ((Covers.self _).mono (by decide +kernel)) (Within.refl _ _)
  | dbErrors time => exact within_execDbErrors ((Covers.self _).mono (by decide +kernel)) (Within.refl _ _)
  | hdmErrors time => exact within_execHdmErrors ((Covers.self _).mono (by decide +kernel)) (Within.refl _ _)
  | apErrors time => exact within_execApErrors ((Covers.self _).mono (by decide +kernel)) (Within.refl _ _)
  | registerWrite a time => exact within_execRegisterWrite ((Covers.self _).mono (by decide +kernel)) (Within.refl _ _)
  | commandTake time => exact within_execCommandTake ((Covers.self _).mono (by decide +kernel)) (Within.refl _ _)
  | payloadTimeout c => exact within_execPayloadTimeout ((Covers.self _).mono (by decide +kernel)) (Within.refl _ _)
  | queueCreate c => exact within_execQueueCreate ((Covers.self _).mono (by decide +kernel)) (Within.refl _ _)
  | queueDelete c => exact within_execQueueDelete ((Covers.self _).mono (by decide +kernel)) (Within.refl _ _)
  | version c => exact within_execVersion ((Covers.self _).mono (by decide +kernel)) (Within.refl _ _)
  | identify c => exact within_execIdentify ((Covers.self _).mono (by decide +kernel)) (Within.refl _ _)
  | tokenSend c => exact within_execTokenSend ((Covers.self _).mono (by decide +kernel)) (Within.refl _ _)
  | tokenSendDeliver k tq time => exact within_execTokenSendDeliver ((Covers.self _).mono (by decide +kernel)) (Within.refl _ _)
  | tokenSendTimeout k tq time => exact within_execTokenSendTimeout ((Covers.self _).mono (by decide +kernel)) (Within.refl _ _)
  | eventQueueSet c => exact within_execEventQueueSet ((Covers.self _).mono (by decide +kernel)) (Within.refl _ _)
  | eventQueueClear c => exact within_execEventQueueClear ((Covers.self _).mono (by decide +kernel)) (Within.refl _ _)
  | eventAck c => exact within_execEventAck ((Covers.self _).mono (by decide +kernel)) (Within.refl _ _)
  | hostPortReset cause time => exact within_execHostPortReset ((Covers.self _).mono (by decide +kernel)) (Within.refl _ _)
  | perstDeassert mode time => exact within_execPerstDeassert ((Covers.self _).mono (by decide +kernel)) (Within.refl _ _)
  | prepareRemoval c => exact within_execPrepareRemoval ((Covers.self _).mono (by decide +kernel)) (Within.refl _ _)
  | watchdogExpiry n time => exact within_execWatchdogExpiry ((Covers.self _).mono (by decide +kernel)) (Within.refl _ _)
  | fwRestart n time => exact within_execFwRestart ((Covers.self _).mono (by decide +kernel)) (Within.refl _ _)
  | fwWaitExpired id time => exact within_execFwWaitExpired ((Covers.self _).mono (by decide +kernel)) (Within.refl _ _)
  | fwProcRestart c => exact within_execFwProcRestart ((Covers.self _).mono (by decide +kernel)) (Within.refl _ _)
  | fwStatus c => exact within_execFwStatus ((Covers.self _).mono (by decide +kernel)) (Within.refl _ _)
  | fwBundleStage c => exact within_execFwBundleStage ((Covers.self _).mono (by decide +kernel)) (Within.refl _ _)
  | fwBundleApply c => exact within_execFwBundleApply ((Covers.self _).mono (by decide +kernel)) (Within.refl _ _)
  | microcodeLoad k time => exact within_execMicrocodeLoad ((Covers.self _).mono (by decide +kernel)) (Within.refl _ _)
  | kingPostLossTrip time => exact within_execKingPostLossTrip ((Covers.self _).mono (by decide +kernel)) (Within.refl _ _)
  | powerGood m time => exact within_execPowerGood ((Covers.self _).mono (by decide +kernel)) (Within.refl _ _)
  | bringupStep r time => exact within_execBringupStep ((Covers.self _).mono (by decide +kernel)) (Within.refl _ _)
  | bringupDeadline r time => exact within_execBringupDeadline ((Covers.self _).mono (by decide +kernel)) (Within.refl _ _)
  | resetCore c => exact within_execResetCore ((Covers.self _).mono (by decide +kernel)) (Within.refl _ _)
  | resetDie c => exact within_execResetDie ((Covers.self _).mono (by decide +kernel)) (Within.refl _ _)
  | dieResetComplete p r time => exact within_execDieResetComplete ((Covers.self _).mono (by decide +kernel)) (Within.refl _ _)
  | resetPartition c => exact within_execResetPartition ((Covers.self _).mono (by decide +kernel)) (Within.refl _ _)
  | partitionResetDiscard part time => exact within_execPartitionResetDiscard ((Covers.self _).mono (by decide +kernel)) (Within.refl _ _)
  | resetPanelWarm c => exact within_execResetPanelWarm ((Covers.self _).mono (by decide +kernel)) (Within.refl _ _)
  | resetPanelCold c => exact within_execResetPanelCold ((Covers.self _).mono (by decide +kernel)) (Within.refl _ _)
  | siteOn c => exact within_execSiteOn ((Covers.self _).mono (by decide +kernel)) (Within.refl _ _)
  | powerOnBegin n time => exact within_execPowerOnBegin ((Covers.self _).mono (by decide +kernel)) (Within.refl _ _)
  | powerOnTimeout n time => exact within_execPowerOnTimeout ((Covers.self _).mono (by decide +kernel)) (Within.refl _ _)
  | siteOnComplete p r time => exact within_execSiteOnComplete ((Covers.self _).mono (by decide +kernel)) (Within.refl _ _)
  | siteOff c => exact within_execSiteOff ((Covers.self _).mono (by decide +kernel)) (Within.refl _ _)
  | selfRefreshEnter c => exact within_execSelfRefreshEnter ((Covers.self _).mono (by decide +kernel)) (Within.refl _ _)
  | selfRefreshExit c => exact within_execSelfRefreshExit ((Covers.self _).mono (by decide +kernel)) (Within.refl _ _)
  | lanes c => exact within_execLanes ((Covers.self _).mono (by decide +kernel)) (Within.refl _ _)
  | quadrantOn c => exact within_execQuadrantOn ((Covers.self _).mono (by decide +kernel)) (Within.refl _ _)
  | powerStatus c => exact within_execPowerStatus ((Covers.self _).mono (by decide +kernel)) (Within.refl _ _)
  | ceilingSet c => exact within_execCeilingSet ((Covers.self _).mono (by decide +kernel)) (Within.refl _ _)
  | powerTick r time => exact within_execPowerTick ((Covers.self _).mono (by decide +kernel)) (Within.refl _ _)
  | inputTrip isOver mv time => exact within_execInputTrip ((Covers.self _).mono (by decide +kernel)) (Within.refl _ _)
  | inputRange mv time => exact within_execInputRange ((Covers.self _).mono (by decide +kernel)) (Within.refl _ _)
  | phaseLost p d phase time => exact within_execPhaseLost ((Covers.self _).mono (by decide +kernel)) (Within.refl _ _)
  | domainDark p d mv time => exact within_execDomainDark ((Covers.self _).mono (by decide +kernel)) (Within.refl _ _)
  | siteTrip p overload peak time => exact within_execSiteTrip ((Covers.self _).mono (by decide +kernel)) (Within.refl _ _)
  | quadrantTrip n overload peak time => exact within_execQuadrantTrip ((Covers.self _).mono (by decide +kernel)) (Within.refl _ _)
  | sensorRetired p d sensor mv time => exact within_execSensorRetired ((Covers.self _).mono (by decide +kernel)) (Within.refl _ _)
  | pathEstimate p d r time => exact within_execPathEstimate ((Covers.self _).mono (by decide +kernel)) (Within.refl _ _)
  | limiterDemand p logic array time => exact within_execLimiterDemand ((Covers.self _).mono (by decide +kernel)) (Within.refl _ _)
  | quadrantLimit n cur time => exact within_execQuadrantLimit ((Covers.self _).mono (by decide +kernel)) (Within.refl _ _)
  | panelLimit watts time => exact within_execPanelLimit ((Covers.self _).mono (by decide +kernel)) (Within.refl _ _)
  | limitLong u time => exact within_execLimitLong ((Covers.self _).mono (by decide +kernel)) (Within.refl _ _)
  | boostConditionLost b time => exact within_execBoostConditionLost ((Covers.self _).mono (by decide +kernel)) (Within.refl _ _)
  | flowSample dp th time => exact within_execFlowSample ((Covers.self _).mono (by decide +kernel)) (Within.refl _ _)
  | flowPeriod r time => exact within_execFlowPeriod ((Covers.self _).mono (by decide +kernel)) (Within.refl _ _)
  | flowStopCleared time => exact within_execFlowStopCleared ((Covers.self _).mono (by decide +kernel)) (Within.refl _ _)
  | flowDisagree time => exact within_execFlowDisagree ((Covers.self _).mono (by decide +kernel)) (Within.refl _ _)
  | diodeSample h d0 d1 time => exact within_execDiodeSample ((Covers.self _).mono (by decide +kernel)) (Within.refl _ _)
  | diodeDisagree h time => exact within_execDiodeDisagree ((Covers.self _).mono (by decide +kernel)) (Within.refl _ _)
  | coolantTemp inlet time => exact within_execCoolantTemp ((Covers.self _).mono (by decide +kernel)) (Within.refl _ _)
  | strainHigh p strain time => exact within_execStrainHigh ((Covers.self _).mono (by decide +kernel)) (Within.refl _ _)
  | coolingStatus c => exact within_execCoolingStatus ((Covers.self _).mono (by decide +kernel)) (Within.refl _ _)
  | statusPoll k answered time => exact within_execStatusPoll ((Covers.self _).mono (by decide +kernel)) (Within.refl _ _)
  | errorLogGet c => exact within_execErrorLogGet ((Covers.self _).mono (by decide +kernel)) (Within.refl _ _)
  | wearGet c => exact within_execWearGet ((Covers.self _).mono (by decide +kernel)) (Within.refl _ _)
  | wearDecay time => exact within_execWearDecay ((Covers.self _).mono (by decide +kernel)) (Within.refl _ _)
  | inject c => exact within_execInject ((Covers.self _).mono (by decide +kernel)) (Within.refl _ _)
  | injectCancel c => exact within_execInjectCancel ((Covers.self _).mono (by decide +kernel)) (Within.refl _ _)
  | injectExpiry time => exact within_execInjectExpiry ((Covers.self _).mono (by decide +kernel)) (Within.refl _ _)
  | discover seg f time => exact within_execDiscover ((Covers.self _).mono (by decide +kernel)) (Within.refl _ _)
  | command seg f time => exact within_execCommand ((Covers.self _).mono (by decide +kernel)) (Within.refl _ _)
  | mgmtSegment seg mode time => exact within_execMgmtSegment ((Covers.self _).mono (by decide +kernel)) (Within.refl _ _)
  | mgmtDrops seg time => exact within_execMgmtDrops ((Covers.self _).mono (by decide +kernel)) (Within.refl _ _)
  | mgmtKeySetManagement c => exact within_execMgmtKeySetManagement ((Covers.self _).mono (by decide +kernel)) (Within.refl _ _)
  | mgmtKeySetWeight c => exact within_execMgmtKeySetWeight ((Covers.self _).mono (by decide +kernel)) (Within.refl _ _)
  | attestQuote c => exact within_execAttestQuote ((Covers.self _).mono (by decide +kernel)) (Within.refl _ _)
  | certGet c => exact within_execCertGet ((Covers.self _).mono (by decide +kernel)) (Within.refl _ _)
  | inputSwitchClose r time => exact within_execInputSwitchClose ((Covers.self _).mono (by decide +kernel)) (Within.refl _ _)
  | presenceLost time => exact within_execPresenceLost ((Covers.self _).mono (by decide +kernel)) (Within.refl _ _)
  | processorFault n time => exact within_execProcessorFault ((Covers.self _).mono (by decide +kernel)) (Within.refl _ _)
  | scheduledScrub st unit f time => exact within_execScheduledScrub ((Covers.self _).mono (by decide +kernel)) (Within.refl _ _)
  | linkBufferSample l fill time => exact within_execLinkBufferSample ((Covers.self _).mono (by decide +kernel)) (Within.refl _ _)
  | alertRepeat time => exact within_execAlertRepeat ((Covers.self _).mono (by decide +kernel)) (Within.refl _ _)
  | neighborSolicitation seg f time => exact within_execNeighborSolicitation ((Covers.self _).mono (by decide +kernel)) (Within.refl _ _)
  | cxlL2Change enter time => exact within_execCxlL2Change ((Covers.self _).mono (by decide +kernel)) (Within.refl _ _)

/-- A command that neither takes the panel's power nor gives it leaves the direction of time alone. -/
theorem exec_steady (i : Instr) (s : State) (a : ∀ n, i ≠ .presenceLost n) (b : ∀ o v n, i ≠ .inputTrip o v n)
    (c : ∀ m n, i ≠ .powerGood m n) : OutWithin (commandParts.erase .clock) s (exec i s) := by
  cases i with
  | floorplanGet c => exact within_execFloorplanGet ((Covers.self _).mono (by decide +kernel)) (Within.refl _ _)
  | siteFence c => exact within_execSiteFence ((Covers.self _).mono (by decide +kernel)) (Within.refl _ _)
  | siteUnfence c => exact within_execSiteUnfence ((Covers.self _).mono (by decide +kernel)) (Within.refl _ _)
  | siteUnfenceDefault c => exact within_execSiteUnfenceDefault ((Covers.self _).mono (by decide +kernel)) (Within.refl _ _)
  | siteRetest c => exact within_execSiteRetest ((Covers.self _).mono (by decide +kernel)) (Within.refl _ _)
  | siteRetestComplete p r time => exact within_execSiteRetestComplete ((Covers.self _).mono (by decide +kernel)) (Within.refl _ _)
  | matrixStep k t => exact within_execMatrixStep ((Covers.self _).mono (by decide +kernel)) (Within.refl _ _)
  | matrixStepStart k t => exact within_execMatrixStepStart ((Covers.self _).mono (by decide +kernel)) (Within.refl _ _)
  | operandRelease k t => exact within_execOperandRelease ((Covers.self _).mono (by decide +kernel)) (Within.refl _ _)
  | bankComplete k t => exact within_execBankComplete ((Covers.self _).mono (by decide +kernel)) (Within.refl _ _)
  | tileInQueue k t => exact within_execTileInQueue ((Covers.self _).mono (by decide +kernel)) (Within.refl _ _)
  | vectorChain k t => exact within_execVectorChain ((Covers.self _).mono (by decide +kernel)) (Within.refl _ _)
  | vectorChainStart k t => exact within_execVectorChainStart ((Covers.self _).mono (by decide +kernel)) (Within.refl _ _)
  | vectorInputConsume k t => exact within_execVectorInputConsume ((Covers.self _).mono (by decide +kernel)) (Within.refl _ _)
  | vectorOutputFull k t => exact within_execVectorOutputFull ((Covers.self _).mono (by decide +kernel)) (Within.refl _ _)
  | scanCall k t => exact within_execScanCall ((Covers.self _).mono (by decide +kernel)) (Within.refl _ _)
  | scanCallStart k t => exact within_execScanCallStart ((Covers.self _).mono (by decide +kernel)) (Within.refl _ _)
  | scanInputEmpty k t => exact within_execScanInputEmpty ((Covers.self _).mono (by decide +kernel)) (Within.refl _ _)
  | scanOutputFull k t => exact within_execScanOutputFull ((Covers.self _).mono (by decide +kernel)) (Within.refl _ _)
  | accessEnq k t => exact within_execAccessEnq ((Covers.self _).mono (by decide +kernel)) (Within.refl _ _)
  | descriptorStart k time => exact within_execDescriptorStart ((Covers.self _).mono (by decide +kernel)) (Within.refl _ _)
  | burstResponse k tag time => exact within_execBurstResponse ((Covers.self _).mono (by decide +kernel)) (Within.refl _ _)
  | descriptorComplete k time => exact within_execDescriptorComplete ((Covers.self _).mono (by decide +kernel)) (Within.refl _ _)
  | remoteScratchpadWrite k time => exact within_execRemoteScratchpadWrite ((Covers.self _).mono (by decide +kernel)) (Within.refl _ _)
  | send k t => exact within_execSend ((Covers.self _).mono (by decide +kernel)) (Within.refl _ _)
  | sendTagEmpty k t => exact within_execSendTagEmpty ((Covers.self _).mono (by decide +kernel)) (Within.refl _ _)
  | receive k t => exact within_execReceive ((Covers.self _).mono (by decide +kernel)) (Within.refl _ _)
  | receiveTagFull k t => exact within_execReceiveTagFull ((Covers.self _).mono (by decide +kernel)) (Within.refl _ _)
  | cload k t => exact within_execCload ((Covers.self _).mono (by decide +kernel)) (Within.refl _ _)
  | cstep k t => exact within_execCstep ((Covers.self _).mono (by decide +kernel)) (Within.refl _ _)
  | cloop k t => exact within_execCloop ((Covers.self _).mono (by decide +kernel)) (Within.refl _ _)
  | ctest k t => exact within_execCtest ((Covers.self _).mono (by decide +kernel)) (Within.refl _ _)
  | produce k t => exact within_execProduce ((Covers.self _).mono (by decide +kernel)) (Within.refl _ _)
  | consume k t => exact within_execConsume ((Covers.self _).mono (by decide +kernel)) (Within.refl _ _)
  | pegPage k t => exact within_execPegPage ((Covers.self _).mono (by decide +kernel)) (Within.refl _ _)
  | epochMark k t => exact within_execEpochMark ((Covers.self _).mono (by decide +kernel)) (Within.refl _ _)
  | checkAhead k t => exact within_execCheckAhead ((Covers.self _).mono (by decide +kernel)) (Within.refl _ _)
  | pegEntry k t => exact within_execPegEntry ((Covers.self _).mono (by decide +kernel)) (Within.refl _ _)
  | pegCheck k t => exact within_execPegCheck ((Covers.self _).mono (by decide +kernel)) (Within.refl _ _)
  | crossingEntry k side time => exact within_execCrossingEntry ((Covers.self _).mono (by decide +kernel)) (Within.refl _ _)
  | creditReturn k side time => exact within_execCreditReturn ((Covers.self _).mono (by decide +kernel)) (Within.refl _ _)
  | bayFreeze b time => exact within_execBayFreeze ((Covers.self _).mono (by decide +kernel)) (Within.refl _ _)
  | bayResume b time => exact within_execBayResume ((Covers.self _).mono (by decide +kernel)) (Within.refl _ _)
  | bankHold k t => exact within_execBankHold ((Covers.self _).mono (by decide +kernel)) (Within.refl _ _)
  | droop k t level => exact within_execDroop ((Covers.self _).mono (by decide +kernel)) (Within.refl _ _)
  | bayLoad c => exact within_execBayLoad ((Covers.self _).mono (by decide +kernel)) (Within.refl _ _)
  | bayStart c => exact within_execBayStart ((Covers.self _).mono (by decide +kernel)) (Within.refl _ _)
  | bayHold c => exact within_execBayHold ((Covers.self _).mono (by decide +kernel)) (Within.refl _ _)
  | bayRelease c => exact within_execBayRelease ((Covers.self _).mono (by decide +kernel)) (Within.refl _ _)
  | bayStop c => exact within_execBayStop ((Covers.self _).mono (by decide +kernel)) (Within.refl _ _)
  | bayReconfigure c => exact within_execBayReconfigure ((Covers.self _).mono (by decide +kernel)) (Within.refl _ _)
  | baySetPoint c => exact within_execBaySetPoint ((Covers.self _).mono (by decide +kernel)) (Within.refl _ _)
  | railRaised b time => exact within_execRailRaised ((Covers.self _).mono (by decide +kernel)) (Within.refl _ _)
  | pointStop b time => exact within_execPointStop ((Covers.self _).mono (by decide +kernel)) (Within.refl _ _)
  | relockEnd b time => exact within_execRelockEnd ((Covers.self _).mono (by decide +kernel)) (Within.refl _ _)
  | bayStatus c => exact within_execBayStatus ((Covers.self _).mono (by decide +kernel)) (Within.refl _ _)
  | timeExchange c => exact within_execTimeExchange ((Covers.self _).mono (by decide +kernel)) (Within.refl _ _)
  | bayRemove c => exact within_execBayRemove ((Covers.self _).mono (by decide +kernel)) (Within.refl _ _)
  | loadReportGet c => exact within_execLoadReportGet ((Covers.self _).mono (by decide +kernel)) (Within.refl _ _)
  | hazardGet c => exact within_execHazardGet ((Covers.self _).mono (by decide +kernel)) (Within.refl _ _)
  | stopCycle b time => exact within_execStopCycle ((Covers.self _).mono (by decide +kernel)) (Within.refl _ _)
  | drainComplete b time => exact within_execDrainComplete ((Covers.self _).mono (by decide +kernel)) (Within.refl _ _)
  | drainOverrun b time => exact within_execDrainOverrun ((Covers.self _).mono (by decide +kernel)) (Within.refl _ _)
  | faultHold b time => exact within_execFaultHold ((Covers.self _).mono (by decide +kernel)) (Within.refl _ _)
  | bayHeldLong b time => exact within_execBayHeldLong ((Covers.self _).mono (by decide +kernel)) (Within.refl _ _)
  | bayDone b time => exact within_execBayDone ((Covers.self _).mono (by decide +kernel)) (Within.refl _ _)
  | serviceRead q f time => exact within_execServiceRead ((Covers.self _).mono (by decide +kernel)) (Within.refl _ _)
  | serviceWrite q f time => exact within_execServiceWrite ((Covers.self _).mono (by decide +kernel)) (Within.refl _ _)
  | ctrlPacket q time => exact within_execCtrlPacket ((Covers.self _).mono (by decide +kernel)) (Within.refl _ _)
  | serviceResponse q time => exact within_execServiceResponse ((Covers.self _).mono (by decide +kernel)) (Within.refl _ _)
  | requestExpired p u tag time => exact within_execRequestExpired ((Covers.self _).mono (by decide +kernel)) (Within.refl _ _)
  | hopReplay p side f time => exact within_execHopReplay ((Covers.self _).mono (by decide +kernel)) (Within.refl _ _)
  | hopRetrain p side ok time => exact within_execHopRetrain ((Covers.self _).mono (by decide +kernel)) (Within.refl _ _)
  | routeRewrite time => exact within_execRouteRewrite ((Covers.self _).mono (by decide +kernel)) (Within.refl _ _)
  | congestionSample p fills waits time => exact within_execCongestionSample ((Covers.self _).mono (by decide +kernel)) (Within.refl _ _)
  | congestionWindowEnd time => exact within_execCongestionWindowEnd ((Covers.self _).mono (by decide +kernel)) (Within.refl _ _)
  | partitionCreate c => exact within_execPartitionCreate ((Covers.self _).mono (by decide +kernel)) (Within.refl _ _)
  | partitionDestroy c => exact within_execPartitionDestroy ((Covers.self _).mono (by decide +kernel)) (Within.refl _ _)
  | partitionAdd c => exact within_execPartitionAdd ((Covers.self _).mono (by decide +kernel)) (Within.refl _ _)
  | partitionRemove c => exact within_execPartitionRemove ((Covers.self _).mono (by decide +kernel)) (Within.refl _ _)
  | windowSet c => exact within_execWindowSet ((Covers.self _).mono (by decide +kernel)) (Within.refl _ _)
  | windowClear c => exact within_execWindowClear ((Covers.self _).mono (by decide +kernel)) (Within.refl _ _)
  | memScrubSet c => exact within_execMemScrubSet ((Covers.self _).mono (by decide +kernel)) (Within.refl _ _)
  | fabricMapGet c => exact within_execFabricMapGet ((Covers.self _).mono (by decide +kernel)) (Within.refl _ _)
  | patrolScrub st word f time => exact within_execPatrolScrub ((Covers.self _).mono (by decide +kernel)) (Within.refl _ _)
  | rowRetire st row time => exact within_execRowRetire ((Covers.self _).mono (by decide +kernel)) (Within.refl _ _)
  | embTableCreate c => exact within_execEmbTableCreate ((Covers.self _).mono (by decide +kernel)) (Within.refl _ _)
  | embTableDestroy c => exact within_execEmbTableDestroy ((Covers.self _).mono (by decide +kernel)) (Within.refl _ _)
  | requestPortWrite q time => exact within_execRequestPortWrite ((Covers.self _).mono (by decide +kernel)) (Within.refl _ _)
  | lookupStart st f time => exact within_execLookupStart ((Covers.self _).mono (by decide +kernel)) (Within.refl _ _)
  | lookupResult st order time => exact within_execLookupResult ((Covers.self _).mono (by decide +kernel)) (Within.refl _ _)
  | embBatchOpen c => exact within_execEmbBatchOpen ((Covers.self _).mono (by decide +kernel)) (Within.refl _ _)
  | embBatchClose c => exact within_execEmbBatchClose ((Covers.self _).mono (by decide +kernel)) (Within.refl _ _)
  | embBatchRelease part batch time => exact within_execEmbBatchRelease ((Covers.self _).mono (by decide +kernel)) (Within.refl _ _)
  | embRebuildStart c => exact within_execEmbRebuildStart ((Covers.self _).mono (by decide +kernel)) (Within.refl _ _)
  | rebuildRowWrite st tab f time => exact within_execRebuildRowWrite ((Covers.self _).mono (by decide +kernel)) (Within.refl _ _)
  | rebuildStarved st tab time => exact within_execRebuildStarved ((Covers.self _).mono (by decide +kernel)) (Within.refl _ _)
  | embRebuildPause c => exact within_execEmbRebuildPause ((Covers.self _).mono (by decide +kernel)) (Within.refl _ _)
  | embRebuildResume c => exact within_execEmbRebuildResume ((Covers.self _).mono (by decide +kernel)) (Within.refl _ _)
  | embRebuildShare c => exact within_execEmbRebuildShare ((Covers.self _).mono (by decide +kernel)) (Within.refl _ _)
  | embRebuildAbort c => exact within_execEmbRebuildAbort ((Covers.self _).mono (by decide +kernel)) (Within.refl _ _)
  | embCommit c => exact within_execEmbCommit ((Covers.self _).mono (by decide +kernel)) (Within.refl _ _)
  | embTableStatus c => exact within_execEmbTableStatus ((Covers.self _).mono (by decide +kernel)) (Within.refl _ _)
  | inflateRead q f time => exact within_execInflateRead ((Covers.self _).mono (by decide +kernel)) (Within.refl _ _)
  | pageSweep w page time => exact within_execPageSweep ((Covers.self _).mono (by decide +kernel)) (Within.refl _ _)
  | wstoreInstallBegin c => exact within_execWstoreInstallBegin ((Covers.self _).mono (by decide +kernel)) (Within.refl _ _)
  | wstoreInstallEnd c => exact within_execWstoreInstallEnd ((Covers.self _).mono (by decide +kernel)) (Within.refl _ _)
  | wstoreWrite c => exact within_execWstoreWrite ((Covers.self _).mono (by decide +kernel)) (Within.refl _ _)
  | pageWrite w time => exact within_execPageWrite ((Covers.self _).mono (by decide +kernel)) (Within.refl _ _)
  | wstoreStatus c => exact within_execWstoreStatus ((Covers.self _).mono (by decide +kernel)) (Within.refl _ _)
  | wsetStage c => exact within_execWsetStage ((Covers.self _).mono (by decide +kernel)) (Within.refl _ _)
  | wsetSwitch c => exact within_execWsetSwitch ((Covers.self _).mono (by decide +kernel)) (Within.refl _ _)
  | wsetDiscard c => exact within_execWsetDiscard ((Covers.self _).mono (by decide +kernel)) (Within.refl _ _)
  | wsetDiscardCurrent c => exact within_execWsetDiscardCurrent ((Covers.self _).mono (by decide +kernel)) (Within.refl _ _)
  | wsetBatchOpen c => exact within_execWsetBatchOpen ((Covers.self _).mono (by decide +kernel)) (Within.refl _ _)
  | wsetBatchClose c => exact within_execWsetBatchClose ((Covers.self _).mono (by decide +kernel)) (Within.refl _ _)
  | wsetGet c => exact within_execWsetGet ((Covers.self _).mono (by decide +kernel)) (Within.refl _ _)
  | purlinSet c => exact within_execPurlinSet ((Covers.self _).mono (by decide +kernel)) (Within.refl _ _)
  | purlinSend c => exact within_execPurlinSend ((Covers.self _).mono (by decide +kernel)) (Within.refl _ _)
  | segmentReceive part seg time => exact within_execSegmentReceive ((Covers.self _).mono (by decide +kernel)) (Within.refl _ _)
  | linkFlitReceive l f time => exact within_execLinkFlitReceive ((Covers.self _).mono (by decide +kernel)) (Within.refl _ _)
  | linkTraining l r time => exact within_execLinkTraining ((Covers.self _).mono (by decide +kernel)) (Within.refl _ _)
  | linkRetrain l cause time => exact within_execLinkRetrain ((Covers.self _).mono (by decide +kernel)) (Within.refl _ _)
  | linkPanelIdSet c => exact within_execLinkPanelIdSet ((Covers.self _).mono (by decide +kernel)) (Within.refl _ _)
  | partitionLinkSet c => exact within_execPartitionLinkSet ((Covers.self _).mono (by decide +kernel)) (Within.refl _ _)
  | rankTableSet c => exact within_execRankTableSet ((Covers.self _).mono (by decide +kernel)) (Within.refl _ _)
  | transitSet c => exact within_execTransitSet ((Covers.self _).mono (by decide +kernel)) (Within.refl _ _)
  | linkCtrl c => exact within_execLinkCtrl ((Covers.self _).mono (by decide +kernel)) (Within.refl _ _)
  | linkStatus c => exact within_execLinkStatus ((Covers.self _).mono (by decide +kernel)) (Within.refl _ _)
  | linkEgressWrite q x time => exact within_execLinkEgressWrite ((Covers.self _).mono (by decide +kernel)) (Within.refl _ _)
  | linkAckArrival l q time => exact within_execLinkAckArrival ((Covers.self _).mono (by decide +kernel)) (Within.refl _ _)
  | linkAckExpired l tag time => exact within_execLinkAckExpired ((Covers.self _).mono (by decide +kernel)) (Within.refl _ _)
  | linkPacketArrival l q time => exact within_execLinkPacketArrival ((Covers.self _).mono (by decide +kernel)) (Within.refl _ _)
  | reductionAdd h time => exact within_execReductionAdd ((Covers.self _).mono (by decide +kernel)) (Within.refl _ _)
  | hdmAccess a f time => exact within_execHdmAccess ((Covers.self _).mono (by decide +kernel)) (Within.refl _ _)
  | biasSet c => exact within_execBiasSet ((Covers.self _).mono (by decide +kernel)) (Within.refl _ _)
  | hostWindowSet c => exact within_execHostWindowSet ((Covers.self _).mono (by decide +kernel)) (Within.refl _ _)
  | hostWindowClear c => exact within_execHostWindowClear ((Covers.self _).mono (by decide +kernel)) (Within.refl _ _)
  | apertureAccess a f time => exact within_execApertureAccess ((Covers.self _).mono (by decide +kernel)) (Within.refl _ _)
  | commit v time => exact within_execCommit ((Covers.self _).mono (by decide +kernel)) (Within.refl _ _)
  | go v time => exact within_execGo ((Covers.self _).mono (by decide +kernel)) (Within.refl _ _)
  | done v time => exact within_execDone ((Covers.self _).mono (by decide +kernel)) (Within.refl _ _)
  | sqTail qid tail time => exact within_execSqTail ((Covers.self _).mono (by decide +kernel)) (Within.refl _ _)
  | cqHead qid head time => exact within_execCqHead ((Covers.self _).mono (by decide +kernel)) (Within.refl _ _)
  | dbErrors time => exact within_execDbErrors ((Covers.self _).mono (by decide +kernel)) (Within.refl _ _)
  | hdmErrors time => exact within_execHdmErrors ((Covers.self _).mono (by decide +kernel)) (Within.refl _ _)
  | apErrors time => exact within_execApErrors ((Covers.self _).mono (by decide +kernel)) (Within.refl _ _)
  | registerWrite a time => exact within_execRegisterWrite ((Covers.self _).mono (by decide +kernel)) (Within.refl _ _)
  | commandTake time => exact within_execCommandTake ((Covers.self _).mono (by decide +kernel)) (Within.refl _ _)
  | payloadTimeout c => exact within_execPayloadTimeout ((Covers.self _).mono (by decide +kernel)) (Within.refl _ _)
  | queueCreate c => exact within_execQueueCreate ((Covers.self _).mono (by decide +kernel)) (Within.refl _ _)
  | queueDelete c => exact within_execQueueDelete ((Covers.self _).mono (by decide +kernel)) (Within.refl _ _)
  | version c => exact within_execVersion ((Covers.self _).mono (by decide +kernel)) (Within.refl _ _)
  | identify c => exact within_execIdentify ((Covers.self _).mono (by decide +kernel)) (Within.refl _ _)
  | tokenSend c => exact within_execTokenSend ((Covers.self _).mono (by decide +kernel)) (Within.refl _ _)
  | tokenSendDeliver k tq time => exact within_execTokenSendDeliver ((Covers.self _).mono (by decide +kernel)) (Within.refl _ _)
  | tokenSendTimeout k tq time => exact within_execTokenSendTimeout ((Covers.self _).mono (by decide +kernel)) (Within.refl _ _)
  | eventQueueSet c => exact within_execEventQueueSet ((Covers.self _).mono (by decide +kernel)) (Within.refl _ _)
  | eventQueueClear c => exact within_execEventQueueClear ((Covers.self _).mono (by decide +kernel)) (Within.refl _ _)
  | eventAck c => exact within_execEventAck ((Covers.self _).mono (by decide +kernel)) (Within.refl _ _)
  | hostPortReset cause time => exact within_execHostPortReset ((Covers.self _).mono (by decide +kernel)) (Within.refl _ _)
  | perstDeassert mode time => exact within_execPerstDeassert ((Covers.self _).mono (by decide +kernel)) (Within.refl _ _)
  | prepareRemoval c => exact within_execPrepareRemoval ((Covers.self _).mono (by decide +kernel)) (Within.refl _ _)
  | watchdogExpiry n time => exact within_execWatchdogExpiry ((Covers.self _).mono (by decide +kernel)) (Within.refl _ _)
  | fwRestart n time => exact within_execFwRestart ((Covers.self _).mono (by decide +kernel)) (Within.refl _ _)
  | fwWaitExpired id time => exact within_execFwWaitExpired ((Covers.self _).mono (by decide +kernel)) (Within.refl _ _)
  | fwProcRestart c => exact within_execFwProcRestart ((Covers.self _).mono (by decide +kernel)) (Within.refl _ _)
  | fwStatus c => exact within_execFwStatus ((Covers.self _).mono (by decide +kernel)) (Within.refl _ _)
  | fwBundleStage c => exact within_execFwBundleStage ((Covers.self _).mono (by decide +kernel)) (Within.refl _ _)
  | fwBundleApply c => exact within_execFwBundleApply ((Covers.self _).mono (by decide +kernel)) (Within.refl _ _)
  | microcodeLoad k time => exact within_execMicrocodeLoad ((Covers.self _).mono (by decide +kernel)) (Within.refl _ _)
  | kingPostLossTrip time => exact within_execKingPostLossTrip ((Covers.self _).mono (by decide +kernel)) (Within.refl _ _)
  | powerGood m time => exact absurd rfl (c _ _)
  | bringupStep r time => exact within_execBringupStep ((Covers.self _).mono (by decide +kernel)) (Within.refl _ _)
  | bringupDeadline r time => exact within_execBringupDeadline ((Covers.self _).mono (by decide +kernel)) (Within.refl _ _)
  | resetCore c => exact within_execResetCore ((Covers.self _).mono (by decide +kernel)) (Within.refl _ _)
  | resetDie c => exact within_execResetDie ((Covers.self _).mono (by decide +kernel)) (Within.refl _ _)
  | dieResetComplete p r time => exact within_execDieResetComplete ((Covers.self _).mono (by decide +kernel)) (Within.refl _ _)
  | resetPartition c => exact within_execResetPartition ((Covers.self _).mono (by decide +kernel)) (Within.refl _ _)
  | partitionResetDiscard part time => exact within_execPartitionResetDiscard ((Covers.self _).mono (by decide +kernel)) (Within.refl _ _)
  | resetPanelWarm c => exact within_execResetPanelWarm ((Covers.self _).mono (by decide +kernel)) (Within.refl _ _)
  | resetPanelCold c => exact within_execResetPanelCold ((Covers.self _).mono (by decide +kernel)) (Within.refl _ _)
  | siteOn c => exact within_execSiteOn ((Covers.self _).mono (by decide +kernel)) (Within.refl _ _)
  | powerOnBegin n time => exact within_execPowerOnBegin ((Covers.self _).mono (by decide +kernel)) (Within.refl _ _)
  | powerOnTimeout n time => exact within_execPowerOnTimeout ((Covers.self _).mono (by decide +kernel)) (Within.refl _ _)
  | siteOnComplete p r time => exact within_execSiteOnComplete ((Covers.self _).mono (by decide +kernel)) (Within.refl _ _)
  | siteOff c => exact within_execSiteOff ((Covers.self _).mono (by decide +kernel)) (Within.refl _ _)
  | selfRefreshEnter c => exact within_execSelfRefreshEnter ((Covers.self _).mono (by decide +kernel)) (Within.refl _ _)
  | selfRefreshExit c => exact within_execSelfRefreshExit ((Covers.self _).mono (by decide +kernel)) (Within.refl _ _)
  | lanes c => exact within_execLanes ((Covers.self _).mono (by decide +kernel)) (Within.refl _ _)
  | quadrantOn c => exact within_execQuadrantOn ((Covers.self _).mono (by decide +kernel)) (Within.refl _ _)
  | powerStatus c => exact within_execPowerStatus ((Covers.self _).mono (by decide +kernel)) (Within.refl _ _)
  | ceilingSet c => exact within_execCeilingSet ((Covers.self _).mono (by decide +kernel)) (Within.refl _ _)
  | powerTick r time => exact within_execPowerTick ((Covers.self _).mono (by decide +kernel)) (Within.refl _ _)
  | inputTrip isOver mv time => exact absurd rfl (b _ _ _)
  | inputRange mv time => exact within_execInputRange ((Covers.self _).mono (by decide +kernel)) (Within.refl _ _)
  | phaseLost p d phase time => exact within_execPhaseLost ((Covers.self _).mono (by decide +kernel)) (Within.refl _ _)
  | domainDark p d mv time => exact within_execDomainDark ((Covers.self _).mono (by decide +kernel)) (Within.refl _ _)
  | siteTrip p overload peak time => exact within_execSiteTrip ((Covers.self _).mono (by decide +kernel)) (Within.refl _ _)
  | quadrantTrip n overload peak time => exact within_execQuadrantTrip ((Covers.self _).mono (by decide +kernel)) (Within.refl _ _)
  | sensorRetired p d sensor mv time => exact within_execSensorRetired ((Covers.self _).mono (by decide +kernel)) (Within.refl _ _)
  | pathEstimate p d r time => exact within_execPathEstimate ((Covers.self _).mono (by decide +kernel)) (Within.refl _ _)
  | limiterDemand p logic array time => exact within_execLimiterDemand ((Covers.self _).mono (by decide +kernel)) (Within.refl _ _)
  | quadrantLimit n cur time => exact within_execQuadrantLimit ((Covers.self _).mono (by decide +kernel)) (Within.refl _ _)
  | panelLimit watts time => exact within_execPanelLimit ((Covers.self _).mono (by decide +kernel)) (Within.refl _ _)
  | limitLong u time => exact within_execLimitLong ((Covers.self _).mono (by decide +kernel)) (Within.refl _ _)
  | boostConditionLost b time => exact within_execBoostConditionLost ((Covers.self _).mono (by decide +kernel)) (Within.refl _ _)
  | flowSample dp th time => exact within_execFlowSample ((Covers.self _).mono (by decide +kernel)) (Within.refl _ _)
  | flowPeriod r time => exact within_execFlowPeriod ((Covers.self _).mono (by decide +kernel)) (Within.refl _ _)
  | flowStopCleared time => exact within_execFlowStopCleared ((Covers.self _).mono (by decide +kernel)) (Within.refl _ _)
  | flowDisagree time => exact within_execFlowDisagree ((Covers.self _).mono (by decide +kernel)) (Within.refl _ _)
  | diodeSample h d0 d1 time => exact within_execDiodeSample ((Covers.self _).mono (by decide +kernel)) (Within.refl _ _)
  | diodeDisagree h time => exact within_execDiodeDisagree ((Covers.self _).mono (by decide +kernel)) (Within.refl _ _)
  | coolantTemp inlet time => exact within_execCoolantTemp ((Covers.self _).mono (by decide +kernel)) (Within.refl _ _)
  | strainHigh p strain time => exact within_execStrainHigh ((Covers.self _).mono (by decide +kernel)) (Within.refl _ _)
  | coolingStatus c => exact within_execCoolingStatus ((Covers.self _).mono (by decide +kernel)) (Within.refl _ _)
  | statusPoll k answered time => exact within_execStatusPoll ((Covers.self _).mono (by decide +kernel)) (Within.refl _ _)
  | errorLogGet c => exact within_execErrorLogGet ((Covers.self _).mono (by decide +kernel)) (Within.refl _ _)
  | wearGet c => exact within_execWearGet ((Covers.self _).mono (by decide +kernel)) (Within.refl _ _)
  | wearDecay time => exact within_execWearDecay ((Covers.self _).mono (by decide +kernel)) (Within.refl _ _)
  | inject c => exact within_execInject ((Covers.self _).mono (by decide +kernel)) (Within.refl _ _)
  | injectCancel c => exact within_execInjectCancel ((Covers.self _).mono (by decide +kernel)) (Within.refl _ _)
  | injectExpiry time => exact within_execInjectExpiry ((Covers.self _).mono (by decide +kernel)) (Within.refl _ _)
  | discover seg f time => exact within_execDiscover ((Covers.self _).mono (by decide +kernel)) (Within.refl _ _)
  | command seg f time => exact within_execCommand ((Covers.self _).mono (by decide +kernel)) (Within.refl _ _)
  | mgmtSegment seg mode time => exact within_execMgmtSegment ((Covers.self _).mono (by decide +kernel)) (Within.refl _ _)
  | mgmtDrops seg time => exact within_execMgmtDrops ((Covers.self _).mono (by decide +kernel)) (Within.refl _ _)
  | mgmtKeySetManagement c => exact within_execMgmtKeySetManagement ((Covers.self _).mono (by decide +kernel)) (Within.refl _ _)
  | mgmtKeySetWeight c => exact within_execMgmtKeySetWeight ((Covers.self _).mono (by decide +kernel)) (Within.refl _ _)
  | attestQuote c => exact within_execAttestQuote ((Covers.self _).mono (by decide +kernel)) (Within.refl _ _)
  | certGet c => exact within_execCertGet ((Covers.self _).mono (by decide +kernel)) (Within.refl _ _)
  | inputSwitchClose r time => exact within_execInputSwitchClose ((Covers.self _).mono (by decide +kernel)) (Within.refl _ _)
  | presenceLost time => exact absurd rfl (a _)
  | processorFault n time => exact within_execProcessorFault ((Covers.self _).mono (by decide +kernel)) (Within.refl _ _)
  | scheduledScrub st unit f time => exact within_execScheduledScrub ((Covers.self _).mono (by decide +kernel)) (Within.refl _ _)
  | linkBufferSample l fill time => exact within_execLinkBufferSample ((Covers.self _).mono (by decide +kernel)) (Within.refl _ _)
  | alertRepeat time => exact within_execAlertRepeat ((Covers.self _).mono (by decide +kernel)) (Within.refl _ _)
  | neighborSolicitation seg f time => exact within_execNeighborSolicitation ((Covers.self _).mono (by decide +kernel)) (Within.refl _ _)
  | cxlL2Change enter time => exact within_execCxlL2Change ((Covers.self _).mono (by decide +kernel)) (Within.refl _ _)

/-- The queue without its front. -/
def withQueue (q : List Instr) (s : State) : State := { s with pending := q }

theorem withQueue_within (q : List Instr) (s : State) : Within [.pending] s (withQueue q s) := by
  refine ⟨fun p hn => ?_, fun m => ⟨m.mem, m.hostMem, m.storeMem, m.entries, m.parts, m.quads, m.cores, m.bays, m.sites, m.hot, m.procs, m.wear, m.bootWear, m.missed, m.hops, m.ports, m.hbms, m.bufs, m.store, m.engines, m.links, m.queues, m.failures, m.retests⟩⟩
  cases p <;> first | rfl | exact ⟨rfl, rfl⟩ | exact absurd (by decide) hn

/-- No step changes a part outside the queue and `commandParts`, nor breaks `Kept`. -/
theorem step_within (s t : State) (h : step s = .next t) : Within (.pending :: commandParts) s t := by
  unfold step at h
  split at h
  · cases h
    exact Within.refl _ _
  · rename_i c q _
    have hq : Within (.pending :: commandParts) s (withQueue q s) :=
      ⟨fun p hn => (withQueue_within q s).frame p (fun hm => hn (by
        cases hm with
        | head => exact List.mem_cons_self
        | tail _ hm => cases hm)), (withQueue_within q s).kept⟩
    have hx := (exec_within c (withQueue q s)).next_within t h
    exact hq.trans ⟨fun p hn => hx.frame p (fun hm => hn (List.mem_cons_of_mem _ hm)), hx.kept⟩

end Sys2Proof.Laws
end

