-- ==== Sys2Proof/Laws/State.lean ====
section
/-! SUPPORT. What each named update of the state leaves, field by field, and what reads back what it wrote. -/

namespace Sys2Proof.Laws

open Machine

variable (s : State)

@[simp] theorem atTime_pending (t : Nat) : (atTime t s).pending = s.pending := rfl
@[simp] theorem atTime_freeCtr (t : Nat) : (atTime t s).freeCtr = s.freeCtr := rfl
@[simp] theorem atTime_fuses (t : Nat) : (atTime t s).fuses = s.fuses := rfl
@[simp] theorem atTime_boot (t : Nat) : (atTime t s).boot = s.boot := rfl
@[simp] theorem atTime_fp (t : Nat) : (atTime t s).fp = s.fp := rfl
@[simp] theorem atTime_host (t : Nat) : (atTime t s).host = s.host := rfl
@[simp] theorem atTime_inProgress (t : Nat) : (atTime t s).inProgress = s.inProgress := rfl
@[simp] theorem atTime_mgmt (t : Nat) : (atTime t s).mgmt = s.mgmt := rfl
@[simp] theorem atTime_measure (t : Nat) : (atTime t s).measure = s.measure := rfl
@[simp] theorem atTime_ev (t : Nat) : (atTime t s).ev = s.ev := rfl
@[simp] theorem atTime_parts (t : Nat) : (atTime t s).parts = s.parts := rfl
@[simp] theorem atTime_pwr (t : Nat) : (atTime t s).pwr = s.pwr := rfl
@[simp] theorem atTime_fw (t : Nat) : (atTime t s).fw = s.fw := rfl
@[simp] theorem atTime_err (t : Nat) : (atTime t s).err = s.err := rfl
@[simp] theorem atTime_cool (t : Nat) : (atTime t s).cool = s.cool := rfl
@[simp] theorem atTime_install (t : Nat) : (atTime t s).install = s.install := rfl
@[simp] theorem atTime_installs (t : Nat) : (atTime t s).installs = s.installs := rfl
@[simp] theorem atTime_fab (t : Nat) : (atTime t s).fab = s.fab := rfl
@[simp] theorem atTime_hbms (t : Nat) : (atTime t s).hbms = s.hbms := rfl
@[simp] theorem atTime_bufs (t : Nat) : (atTime t s).bufs = s.bufs := rfl
@[simp] theorem atTime_engines (t : Nat) : (atTime t s).engines = s.engines := rfl
@[simp] theorem atTime_links (t : Nat) : (atTime t s).links = s.links := rfl
@[simp] theorem atTime_mem (t : Nat) : (atTime t s).mem = s.mem := rfl
@[simp] theorem atTime_bays (t : Nat) : (atTime t s).bays = s.bays := rfl
@[simp] theorem atTime_cores (t : Nat) : (atTime t s).cores = s.cores := rfl
@[simp] theorem atTime_xings (t : Nat) : (atTime t s).xings = s.xings := rfl
@[simp] theorem atTime_hostMem (t : Nat) : (atTime t s).hostMem = s.hostMem := rfl
@[simp] theorem atTime_hostFail (t : Nat) : (atTime t s).hostFail = s.hostFail := rfl

@[simp] theorem hostWrite_pending (a : Nat) (bs : List Byte) : (hostWrite a bs s).pending = s.pending := rfl
@[simp] theorem hostWrite_freeCtr (a : Nat) (bs : List Byte) : (hostWrite a bs s).freeCtr = s.freeCtr := rfl
@[simp] theorem hostWrite_now (a : Nat) (bs : List Byte) : (hostWrite a bs s).now = s.now := rfl
@[simp] theorem hostWrite_fuses (a : Nat) (bs : List Byte) : (hostWrite a bs s).fuses = s.fuses := rfl
@[simp] theorem hostWrite_boot (a : Nat) (bs : List Byte) : (hostWrite a bs s).boot = s.boot := rfl
@[simp] theorem hostWrite_fp (a : Nat) (bs : List Byte) : (hostWrite a bs s).fp = s.fp := rfl
@[simp] theorem hostWrite_host (a : Nat) (bs : List Byte) : (hostWrite a bs s).host = s.host := rfl
@[simp] theorem hostWrite_inProgress (a : Nat) (bs : List Byte) : (hostWrite a bs s).inProgress = s.inProgress := rfl
@[simp] theorem hostWrite_mgmt (a : Nat) (bs : List Byte) : (hostWrite a bs s).mgmt = s.mgmt := rfl
@[simp] theorem hostWrite_measure (a : Nat) (bs : List Byte) : (hostWrite a bs s).measure = s.measure := rfl
@[simp] theorem hostWrite_ev (a : Nat) (bs : List Byte) : (hostWrite a bs s).ev = s.ev := rfl
@[simp] theorem hostWrite_parts (a : Nat) (bs : List Byte) : (hostWrite a bs s).parts = s.parts := rfl
@[simp] theorem hostWrite_pwr (a : Nat) (bs : List Byte) : (hostWrite a bs s).pwr = s.pwr := rfl
@[simp] theorem hostWrite_fw (a : Nat) (bs : List Byte) : (hostWrite a bs s).fw = s.fw := rfl
@[simp] theorem hostWrite_err (a : Nat) (bs : List Byte) : (hostWrite a bs s).err = s.err := rfl
@[simp] theorem hostWrite_cool (a : Nat) (bs : List Byte) : (hostWrite a bs s).cool = s.cool := rfl
@[simp] theorem hostWrite_install (a : Nat) (bs : List Byte) : (hostWrite a bs s).install = s.install := rfl
@[simp] theorem hostWrite_installs (a : Nat) (bs : List Byte) : (hostWrite a bs s).installs = s.installs := rfl
@[simp] theorem hostWrite_fab (a : Nat) (bs : List Byte) : (hostWrite a bs s).fab = s.fab := rfl
@[simp] theorem hostWrite_hbms (a : Nat) (bs : List Byte) : (hostWrite a bs s).hbms = s.hbms := rfl
@[simp] theorem hostWrite_bufs (a : Nat) (bs : List Byte) : (hostWrite a bs s).bufs = s.bufs := rfl
@[simp] theorem hostWrite_engines (a : Nat) (bs : List Byte) : (hostWrite a bs s).engines = s.engines := rfl
@[simp] theorem hostWrite_links (a : Nat) (bs : List Byte) : (hostWrite a bs s).links = s.links := rfl
@[simp] theorem hostWrite_mem (a : Nat) (bs : List Byte) : (hostWrite a bs s).mem = s.mem := rfl
@[simp] theorem hostWrite_bays (a : Nat) (bs : List Byte) : (hostWrite a bs s).bays = s.bays := rfl
@[simp] theorem hostWrite_cores (a : Nat) (bs : List Byte) : (hostWrite a bs s).cores = s.cores := rfl
@[simp] theorem hostWrite_xings (a : Nat) (bs : List Byte) : (hostWrite a bs s).xings = s.xings := rfl
@[simp] theorem hostWrite_hostFail (a : Nat) (bs : List Byte) : (hostWrite a bs s).hostFail = s.hostFail := rfl

@[simp] theorem setCore_pending (k : Nat) (c : Core) : (setCore k c s).pending = s.pending := rfl
@[simp] theorem setCore_freeCtr (k : Nat) (c : Core) : (setCore k c s).freeCtr = s.freeCtr := rfl
@[simp] theorem setCore_now (k : Nat) (c : Core) : (setCore k c s).now = s.now := rfl
@[simp] theorem setCore_fuses (k : Nat) (c : Core) : (setCore k c s).fuses = s.fuses := rfl
@[simp] theorem setCore_boot (k : Nat) (c : Core) : (setCore k c s).boot = s.boot := rfl
@[simp] theorem setCore_fp (k : Nat) (c : Core) : (setCore k c s).fp = s.fp := rfl
@[simp] theorem setCore_host (k : Nat) (c : Core) : (setCore k c s).host = s.host := rfl
@[simp] theorem setCore_inProgress (k : Nat) (c : Core) : (setCore k c s).inProgress = s.inProgress := rfl
@[simp] theorem setCore_mgmt (k : Nat) (c : Core) : (setCore k c s).mgmt = s.mgmt := rfl
@[simp] theorem setCore_measure (k : Nat) (c : Core) : (setCore k c s).measure = s.measure := rfl
@[simp] theorem setCore_ev (k : Nat) (c : Core) : (setCore k c s).ev = s.ev := rfl
@[simp] theorem setCore_parts (k : Nat) (c : Core) : (setCore k c s).parts = s.parts := rfl
@[simp] theorem setCore_pwr (k : Nat) (c : Core) : (setCore k c s).pwr = s.pwr := rfl
@[simp] theorem setCore_fw (k : Nat) (c : Core) : (setCore k c s).fw = s.fw := rfl
@[simp] theorem setCore_err (k : Nat) (c : Core) : (setCore k c s).err = s.err := rfl
@[simp] theorem setCore_cool (k : Nat) (c : Core) : (setCore k c s).cool = s.cool := rfl
@[simp] theorem setCore_install (k : Nat) (c : Core) : (setCore k c s).install = s.install := rfl
@[simp] theorem setCore_installs (k : Nat) (c : Core) : (setCore k c s).installs = s.installs := rfl
@[simp] theorem setCore_fab (k : Nat) (c : Core) : (setCore k c s).fab = s.fab := rfl
@[simp] theorem setCore_hbms (k : Nat) (c : Core) : (setCore k c s).hbms = s.hbms := rfl
@[simp] theorem setCore_bufs (k : Nat) (c : Core) : (setCore k c s).bufs = s.bufs := rfl
@[simp] theorem setCore_engines (k : Nat) (c : Core) : (setCore k c s).engines = s.engines := rfl
@[simp] theorem setCore_links (k : Nat) (c : Core) : (setCore k c s).links = s.links := rfl
@[simp] theorem setCore_mem (k : Nat) (c : Core) : (setCore k c s).mem = s.mem := rfl
@[simp] theorem setCore_bays (k : Nat) (c : Core) : (setCore k c s).bays = s.bays := rfl
@[simp] theorem setCore_xings (k : Nat) (c : Core) : (setCore k c s).xings = s.xings := rfl
@[simp] theorem setCore_hostMem (k : Nat) (c : Core) : (setCore k c s).hostMem = s.hostMem := rfl
@[simp] theorem setCore_hostFail (k : Nat) (c : Core) : (setCore k c s).hostFail = s.hostFail := rfl

@[simp] theorem modCore_pending (k : Nat) (f : Core → Core) : (modCore k f s).pending = s.pending := rfl
@[simp] theorem modCore_freeCtr (k : Nat) (f : Core → Core) : (modCore k f s).freeCtr = s.freeCtr := rfl
@[simp] theorem modCore_now (k : Nat) (f : Core → Core) : (modCore k f s).now = s.now := rfl
@[simp] theorem modCore_fuses (k : Nat) (f : Core → Core) : (modCore k f s).fuses = s.fuses := rfl
@[simp] theorem modCore_boot (k : Nat) (f : Core → Core) : (modCore k f s).boot = s.boot := rfl
@[simp] theorem modCore_fp (k : Nat) (f : Core → Core) : (modCore k f s).fp = s.fp := rfl
@[simp] theorem modCore_host (k : Nat) (f : Core → Core) : (modCore k f s).host = s.host := rfl
@[simp] theorem modCore_inProgress (k : Nat) (f : Core → Core) : (modCore k f s).inProgress = s.inProgress := rfl
@[simp] theorem modCore_mgmt (k : Nat) (f : Core → Core) : (modCore k f s).mgmt = s.mgmt := rfl
@[simp] theorem modCore_measure (k : Nat) (f : Core → Core) : (modCore k f s).measure = s.measure := rfl
@[simp] theorem modCore_ev (k : Nat) (f : Core → Core) : (modCore k f s).ev = s.ev := rfl
@[simp] theorem modCore_parts (k : Nat) (f : Core → Core) : (modCore k f s).parts = s.parts := rfl
@[simp] theorem modCore_pwr (k : Nat) (f : Core → Core) : (modCore k f s).pwr = s.pwr := rfl
@[simp] theorem modCore_fw (k : Nat) (f : Core → Core) : (modCore k f s).fw = s.fw := rfl
@[simp] theorem modCore_err (k : Nat) (f : Core → Core) : (modCore k f s).err = s.err := rfl
@[simp] theorem modCore_cool (k : Nat) (f : Core → Core) : (modCore k f s).cool = s.cool := rfl
@[simp] theorem modCore_install (k : Nat) (f : Core → Core) : (modCore k f s).install = s.install := rfl
@[simp] theorem modCore_installs (k : Nat) (f : Core → Core) : (modCore k f s).installs = s.installs := rfl
@[simp] theorem modCore_fab (k : Nat) (f : Core → Core) : (modCore k f s).fab = s.fab := rfl
@[simp] theorem modCore_hbms (k : Nat) (f : Core → Core) : (modCore k f s).hbms = s.hbms := rfl
@[simp] theorem modCore_bufs (k : Nat) (f : Core → Core) : (modCore k f s).bufs = s.bufs := rfl
@[simp] theorem modCore_engines (k : Nat) (f : Core → Core) : (modCore k f s).engines = s.engines := rfl
@[simp] theorem modCore_links (k : Nat) (f : Core → Core) : (modCore k f s).links = s.links := rfl
@[simp] theorem modCore_mem (k : Nat) (f : Core → Core) : (modCore k f s).mem = s.mem := rfl
@[simp] theorem modCore_bays (k : Nat) (f : Core → Core) : (modCore k f s).bays = s.bays := rfl
@[simp] theorem modCore_xings (k : Nat) (f : Core → Core) : (modCore k f s).xings = s.xings := rfl
@[simp] theorem modCore_hostMem (k : Nat) (f : Core → Core) : (modCore k f s).hostMem = s.hostMem := rfl
@[simp] theorem modCore_hostFail (k : Nat) (f : Core → Core) : (modCore k f s).hostFail = s.hostFail := rfl

@[simp] theorem setBay_pending (i : Nat) (b : Bay) : (setBay i b s).pending = s.pending := rfl
@[simp] theorem setBay_freeCtr (i : Nat) (b : Bay) : (setBay i b s).freeCtr = s.freeCtr := rfl
@[simp] theorem setBay_now (i : Nat) (b : Bay) : (setBay i b s).now = s.now := rfl
@[simp] theorem setBay_fuses (i : Nat) (b : Bay) : (setBay i b s).fuses = s.fuses := rfl
@[simp] theorem setBay_boot (i : Nat) (b : Bay) : (setBay i b s).boot = s.boot := rfl
@[simp] theorem setBay_fp (i : Nat) (b : Bay) : (setBay i b s).fp = s.fp := rfl
@[simp] theorem setBay_host (i : Nat) (b : Bay) : (setBay i b s).host = s.host := rfl
@[simp] theorem setBay_inProgress (i : Nat) (b : Bay) : (setBay i b s).inProgress = s.inProgress := rfl
@[simp] theorem setBay_mgmt (i : Nat) (b : Bay) : (setBay i b s).mgmt = s.mgmt := rfl
@[simp] theorem setBay_measure (i : Nat) (b : Bay) : (setBay i b s).measure = s.measure := rfl
@[simp] theorem setBay_ev (i : Nat) (b : Bay) : (setBay i b s).ev = s.ev := rfl
@[simp] theorem setBay_parts (i : Nat) (b : Bay) : (setBay i b s).parts = s.parts := rfl
@[simp] theorem setBay_pwr (i : Nat) (b : Bay) : (setBay i b s).pwr = s.pwr := rfl
@[simp] theorem setBay_fw (i : Nat) (b : Bay) : (setBay i b s).fw = s.fw := rfl
@[simp] theorem setBay_err (i : Nat) (b : Bay) : (setBay i b s).err = s.err := rfl
@[simp] theorem setBay_cool (i : Nat) (b : Bay) : (setBay i b s).cool = s.cool := rfl
@[simp] theorem setBay_install (i : Nat) (b : Bay) : (setBay i b s).install = s.install := rfl
@[simp] theorem setBay_installs (i : Nat) (b : Bay) : (setBay i b s).installs = s.installs := rfl
@[simp] theorem setBay_fab (i : Nat) (b : Bay) : (setBay i b s).fab = s.fab := rfl
@[simp] theorem setBay_hbms (i : Nat) (b : Bay) : (setBay i b s).hbms = s.hbms := rfl
@[simp] theorem setBay_bufs (i : Nat) (b : Bay) : (setBay i b s).bufs = s.bufs := rfl
@[simp] theorem setBay_engines (i : Nat) (b : Bay) : (setBay i b s).engines = s.engines := rfl
@[simp] theorem setBay_links (i : Nat) (b : Bay) : (setBay i b s).links = s.links := rfl
@[simp] theorem setBay_mem (i : Nat) (b : Bay) : (setBay i b s).mem = s.mem := rfl
@[simp] theorem setBay_cores (i : Nat) (b : Bay) : (setBay i b s).cores = s.cores := rfl
@[simp] theorem setBay_xings (i : Nat) (b : Bay) : (setBay i b s).xings = s.xings := rfl
@[simp] theorem setBay_hostMem (i : Nat) (b : Bay) : (setBay i b s).hostMem = s.hostMem := rfl
@[simp] theorem setBay_hostFail (i : Nat) (b : Bay) : (setBay i b s).hostFail = s.hostFail := rfl

@[simp] theorem modEntry_pending (i : Nat) (f : SiteEntry → SiteEntry) : (modEntry i f s).pending = s.pending := rfl
@[simp] theorem modEntry_freeCtr (i : Nat) (f : SiteEntry → SiteEntry) : (modEntry i f s).freeCtr = s.freeCtr := rfl
@[simp] theorem modEntry_now (i : Nat) (f : SiteEntry → SiteEntry) : (modEntry i f s).now = s.now := rfl
@[simp] theorem modEntry_fuses (i : Nat) (f : SiteEntry → SiteEntry) : (modEntry i f s).fuses = s.fuses := rfl
@[simp] theorem modEntry_boot (i : Nat) (f : SiteEntry → SiteEntry) : (modEntry i f s).boot = s.boot := rfl
@[simp] theorem modEntry_host (i : Nat) (f : SiteEntry → SiteEntry) : (modEntry i f s).host = s.host := rfl
@[simp] theorem modEntry_inProgress (i : Nat) (f : SiteEntry → SiteEntry) : (modEntry i f s).inProgress = s.inProgress := rfl
@[simp] theorem modEntry_mgmt (i : Nat) (f : SiteEntry → SiteEntry) : (modEntry i f s).mgmt = s.mgmt := rfl
@[simp] theorem modEntry_measure (i : Nat) (f : SiteEntry → SiteEntry) : (modEntry i f s).measure = s.measure := rfl
@[simp] theorem modEntry_ev (i : Nat) (f : SiteEntry → SiteEntry) : (modEntry i f s).ev = s.ev := rfl
@[simp] theorem modEntry_parts (i : Nat) (f : SiteEntry → SiteEntry) : (modEntry i f s).parts = s.parts := rfl
@[simp] theorem modEntry_pwr (i : Nat) (f : SiteEntry → SiteEntry) : (modEntry i f s).pwr = s.pwr := rfl
@[simp] theorem modEntry_fw (i : Nat) (f : SiteEntry → SiteEntry) : (modEntry i f s).fw = s.fw := rfl
@[simp] theorem modEntry_err (i : Nat) (f : SiteEntry → SiteEntry) : (modEntry i f s).err = s.err := rfl
@[simp] theorem modEntry_cool (i : Nat) (f : SiteEntry → SiteEntry) : (modEntry i f s).cool = s.cool := rfl
@[simp] theorem modEntry_install (i : Nat) (f : SiteEntry → SiteEntry) : (modEntry i f s).install = s.install := rfl
@[simp] theorem modEntry_installs (i : Nat) (f : SiteEntry → SiteEntry) : (modEntry i f s).installs = s.installs := rfl
@[simp] theorem modEntry_fab (i : Nat) (f : SiteEntry → SiteEntry) : (modEntry i f s).fab = s.fab := rfl
@[simp] theorem modEntry_hbms (i : Nat) (f : SiteEntry → SiteEntry) : (modEntry i f s).hbms = s.hbms := rfl
@[simp] theorem modEntry_bufs (i : Nat) (f : SiteEntry → SiteEntry) : (modEntry i f s).bufs = s.bufs := rfl
@[simp] theorem modEntry_engines (i : Nat) (f : SiteEntry → SiteEntry) : (modEntry i f s).engines = s.engines := rfl
@[simp] theorem modEntry_links (i : Nat) (f : SiteEntry → SiteEntry) : (modEntry i f s).links = s.links := rfl
@[simp] theorem modEntry_mem (i : Nat) (f : SiteEntry → SiteEntry) : (modEntry i f s).mem = s.mem := rfl
@[simp] theorem modEntry_bays (i : Nat) (f : SiteEntry → SiteEntry) : (modEntry i f s).bays = s.bays := rfl
@[simp] theorem modEntry_cores (i : Nat) (f : SiteEntry → SiteEntry) : (modEntry i f s).cores = s.cores := rfl
@[simp] theorem modEntry_xings (i : Nat) (f : SiteEntry → SiteEntry) : (modEntry i f s).xings = s.xings := rfl
@[simp] theorem modEntry_hostMem (i : Nat) (f : SiteEntry → SiteEntry) : (modEntry i f s).hostMem = s.hostMem := rfl
@[simp] theorem modEntry_hostFail (i : Nat) (f : SiteEntry → SiteEntry) : (modEntry i f s).hostFail = s.hostFail := rfl

@[simp] theorem recordFence_pending (i : Nat) (f : HostFence) : (recordFence i f s).pending = s.pending := rfl
@[simp] theorem recordFence_freeCtr (i : Nat) (f : HostFence) : (recordFence i f s).freeCtr = s.freeCtr := rfl
@[simp] theorem recordFence_now (i : Nat) (f : HostFence) : (recordFence i f s).now = s.now := rfl
@[simp] theorem recordFence_fuses (i : Nat) (f : HostFence) : (recordFence i f s).fuses = s.fuses := rfl
@[simp] theorem recordFence_fp (i : Nat) (f : HostFence) : (recordFence i f s).fp = s.fp := rfl
@[simp] theorem recordFence_host (i : Nat) (f : HostFence) : (recordFence i f s).host = s.host := rfl
@[simp] theorem recordFence_inProgress (i : Nat) (f : HostFence) : (recordFence i f s).inProgress = s.inProgress := rfl
@[simp] theorem recordFence_mgmt (i : Nat) (f : HostFence) : (recordFence i f s).mgmt = s.mgmt := rfl
@[simp] theorem recordFence_measure (i : Nat) (f : HostFence) : (recordFence i f s).measure = s.measure := rfl
@[simp] theorem recordFence_ev (i : Nat) (f : HostFence) : (recordFence i f s).ev = s.ev := rfl
@[simp] theorem recordFence_parts (i : Nat) (f : HostFence) : (recordFence i f s).parts = s.parts := rfl
@[simp] theorem recordFence_pwr (i : Nat) (f : HostFence) : (recordFence i f s).pwr = s.pwr := rfl
@[simp] theorem recordFence_fw (i : Nat) (f : HostFence) : (recordFence i f s).fw = s.fw := rfl
@[simp] theorem recordFence_err (i : Nat) (f : HostFence) : (recordFence i f s).err = s.err := rfl
@[simp] theorem recordFence_cool (i : Nat) (f : HostFence) : (recordFence i f s).cool = s.cool := rfl
@[simp] theorem recordFence_install (i : Nat) (f : HostFence) : (recordFence i f s).install = s.install := rfl
@[simp] theorem recordFence_installs (i : Nat) (f : HostFence) : (recordFence i f s).installs = s.installs := rfl
@[simp] theorem recordFence_fab (i : Nat) (f : HostFence) : (recordFence i f s).fab = s.fab := rfl
@[simp] theorem recordFence_hbms (i : Nat) (f : HostFence) : (recordFence i f s).hbms = s.hbms := rfl
@[simp] theorem recordFence_bufs (i : Nat) (f : HostFence) : (recordFence i f s).bufs = s.bufs := rfl
@[simp] theorem recordFence_engines (i : Nat) (f : HostFence) : (recordFence i f s).engines = s.engines := rfl
@[simp] theorem recordFence_links (i : Nat) (f : HostFence) : (recordFence i f s).links = s.links := rfl
@[simp] theorem recordFence_mem (i : Nat) (f : HostFence) : (recordFence i f s).mem = s.mem := rfl
@[simp] theorem recordFence_bays (i : Nat) (f : HostFence) : (recordFence i f s).bays = s.bays := rfl
@[simp] theorem recordFence_cores (i : Nat) (f : HostFence) : (recordFence i f s).cores = s.cores := rfl
@[simp] theorem recordFence_xings (i : Nat) (f : HostFence) : (recordFence i f s).xings = s.xings := rfl
@[simp] theorem recordFence_hostMem (i : Nat) (f : HostFence) : (recordFence i f s).hostMem = s.hostMem := rfl
@[simp] theorem recordFence_hostFail (i : Nat) (f : HostFence) : (recordFence i f s).hostFail = s.hostFail := rfl

@[simp] theorem modPwr_pending (i : Nat) (f : SitePwr → SitePwr) : (modPwr i f s).pending = s.pending := rfl
@[simp] theorem modPwr_freeCtr (i : Nat) (f : SitePwr → SitePwr) : (modPwr i f s).freeCtr = s.freeCtr := rfl
@[simp] theorem modPwr_now (i : Nat) (f : SitePwr → SitePwr) : (modPwr i f s).now = s.now := rfl
@[simp] theorem modPwr_fuses (i : Nat) (f : SitePwr → SitePwr) : (modPwr i f s).fuses = s.fuses := rfl
@[simp] theorem modPwr_boot (i : Nat) (f : SitePwr → SitePwr) : (modPwr i f s).boot = s.boot := rfl
@[simp] theorem modPwr_fp (i : Nat) (f : SitePwr → SitePwr) : (modPwr i f s).fp = s.fp := rfl
@[simp] theorem modPwr_host (i : Nat) (f : SitePwr → SitePwr) : (modPwr i f s).host = s.host := rfl
@[simp] theorem modPwr_inProgress (i : Nat) (f : SitePwr → SitePwr) : (modPwr i f s).inProgress = s.inProgress := rfl
@[simp] theorem modPwr_mgmt (i : Nat) (f : SitePwr → SitePwr) : (modPwr i f s).mgmt = s.mgmt := rfl
@[simp] theorem modPwr_measure (i : Nat) (f : SitePwr → SitePwr) : (modPwr i f s).measure = s.measure := rfl
@[simp] theorem modPwr_ev (i : Nat) (f : SitePwr → SitePwr) : (modPwr i f s).ev = s.ev := rfl
@[simp] theorem modPwr_parts (i : Nat) (f : SitePwr → SitePwr) : (modPwr i f s).parts = s.parts := rfl
@[simp] theorem modPwr_fw (i : Nat) (f : SitePwr → SitePwr) : (modPwr i f s).fw = s.fw := rfl
@[simp] theorem modPwr_err (i : Nat) (f : SitePwr → SitePwr) : (modPwr i f s).err = s.err := rfl
@[simp] theorem modPwr_cool (i : Nat) (f : SitePwr → SitePwr) : (modPwr i f s).cool = s.cool := rfl
@[simp] theorem modPwr_install (i : Nat) (f : SitePwr → SitePwr) : (modPwr i f s).install = s.install := rfl
@[simp] theorem modPwr_installs (i : Nat) (f : SitePwr → SitePwr) : (modPwr i f s).installs = s.installs := rfl
@[simp] theorem modPwr_fab (i : Nat) (f : SitePwr → SitePwr) : (modPwr i f s).fab = s.fab := rfl
@[simp] theorem modPwr_hbms (i : Nat) (f : SitePwr → SitePwr) : (modPwr i f s).hbms = s.hbms := rfl
@[simp] theorem modPwr_bufs (i : Nat) (f : SitePwr → SitePwr) : (modPwr i f s).bufs = s.bufs := rfl
@[simp] theorem modPwr_engines (i : Nat) (f : SitePwr → SitePwr) : (modPwr i f s).engines = s.engines := rfl
@[simp] theorem modPwr_links (i : Nat) (f : SitePwr → SitePwr) : (modPwr i f s).links = s.links := rfl
@[simp] theorem modPwr_mem (i : Nat) (f : SitePwr → SitePwr) : (modPwr i f s).mem = s.mem := rfl
@[simp] theorem modPwr_bays (i : Nat) (f : SitePwr → SitePwr) : (modPwr i f s).bays = s.bays := rfl
@[simp] theorem modPwr_cores (i : Nat) (f : SitePwr → SitePwr) : (modPwr i f s).cores = s.cores := rfl
@[simp] theorem modPwr_xings (i : Nat) (f : SitePwr → SitePwr) : (modPwr i f s).xings = s.xings := rfl
@[simp] theorem modPwr_hostMem (i : Nat) (f : SitePwr → SitePwr) : (modPwr i f s).hostMem = s.hostMem := rfl
@[simp] theorem modPwr_hostFail (i : Nat) (f : SitePwr → SitePwr) : (modPwr i f s).hostFail = s.hostFail := rfl

@[simp] theorem modQuad_pending (n : Nat) (f : QuadPwr → QuadPwr) : (modQuad n f s).pending = s.pending := rfl
@[simp] theorem modQuad_freeCtr (n : Nat) (f : QuadPwr → QuadPwr) : (modQuad n f s).freeCtr = s.freeCtr := rfl
@[simp] theorem modQuad_now (n : Nat) (f : QuadPwr → QuadPwr) : (modQuad n f s).now = s.now := rfl
@[simp] theorem modQuad_fuses (n : Nat) (f : QuadPwr → QuadPwr) : (modQuad n f s).fuses = s.fuses := rfl
@[simp] theorem modQuad_boot (n : Nat) (f : QuadPwr → QuadPwr) : (modQuad n f s).boot = s.boot := rfl
@[simp] theorem modQuad_fp (n : Nat) (f : QuadPwr → QuadPwr) : (modQuad n f s).fp = s.fp := rfl
@[simp] theorem modQuad_host (n : Nat) (f : QuadPwr → QuadPwr) : (modQuad n f s).host = s.host := rfl
@[simp] theorem modQuad_inProgress (n : Nat) (f : QuadPwr → QuadPwr) : (modQuad n f s).inProgress = s.inProgress := rfl
@[simp] theorem modQuad_mgmt (n : Nat) (f : QuadPwr → QuadPwr) : (modQuad n f s).mgmt = s.mgmt := rfl
@[simp] theorem modQuad_measure (n : Nat) (f : QuadPwr → QuadPwr) : (modQuad n f s).measure = s.measure := rfl
@[simp] theorem modQuad_ev (n : Nat) (f : QuadPwr → QuadPwr) : (modQuad n f s).ev = s.ev := rfl
@[simp] theorem modQuad_parts (n : Nat) (f : QuadPwr → QuadPwr) : (modQuad n f s).parts = s.parts := rfl
@[simp] theorem modQuad_fw (n : Nat) (f : QuadPwr → QuadPwr) : (modQuad n f s).fw = s.fw := rfl
@[simp] theorem modQuad_err (n : Nat) (f : QuadPwr → QuadPwr) : (modQuad n f s).err = s.err := rfl
@[simp] theorem modQuad_cool (n : Nat) (f : QuadPwr → QuadPwr) : (modQuad n f s).cool = s.cool := rfl
@[simp] theorem modQuad_install (n : Nat) (f : QuadPwr → QuadPwr) : (modQuad n f s).install = s.install := rfl
@[simp] theorem modQuad_installs (n : Nat) (f : QuadPwr → QuadPwr) : (modQuad n f s).installs = s.installs := rfl
@[simp] theorem modQuad_fab (n : Nat) (f : QuadPwr → QuadPwr) : (modQuad n f s).fab = s.fab := rfl
@[simp] theorem modQuad_hbms (n : Nat) (f : QuadPwr → QuadPwr) : (modQuad n f s).hbms = s.hbms := rfl
@[simp] theorem modQuad_bufs (n : Nat) (f : QuadPwr → QuadPwr) : (modQuad n f s).bufs = s.bufs := rfl
@[simp] theorem modQuad_engines (n : Nat) (f : QuadPwr → QuadPwr) : (modQuad n f s).engines = s.engines := rfl
@[simp] theorem modQuad_links (n : Nat) (f : QuadPwr → QuadPwr) : (modQuad n f s).links = s.links := rfl
@[simp] theorem modQuad_mem (n : Nat) (f : QuadPwr → QuadPwr) : (modQuad n f s).mem = s.mem := rfl
@[simp] theorem modQuad_bays (n : Nat) (f : QuadPwr → QuadPwr) : (modQuad n f s).bays = s.bays := rfl
@[simp] theorem modQuad_cores (n : Nat) (f : QuadPwr → QuadPwr) : (modQuad n f s).cores = s.cores := rfl
@[simp] theorem modQuad_xings (n : Nat) (f : QuadPwr → QuadPwr) : (modQuad n f s).xings = s.xings := rfl
@[simp] theorem modQuad_hostMem (n : Nat) (f : QuadPwr → QuadPwr) : (modQuad n f s).hostMem = s.hostMem := rfl
@[simp] theorem modQuad_hostFail (n : Nat) (f : QuadPwr → QuadPwr) : (modQuad n f s).hostFail = s.hostFail := rfl

@[simp] theorem modPart_pending (n : Nat) (f : Partition → Partition) : (modPart n f s).pending = s.pending := rfl
@[simp] theorem modPart_freeCtr (n : Nat) (f : Partition → Partition) : (modPart n f s).freeCtr = s.freeCtr := rfl
@[simp] theorem modPart_now (n : Nat) (f : Partition → Partition) : (modPart n f s).now = s.now := rfl
@[simp] theorem modPart_fuses (n : Nat) (f : Partition → Partition) : (modPart n f s).fuses = s.fuses := rfl
@[simp] theorem modPart_boot (n : Nat) (f : Partition → Partition) : (modPart n f s).boot = s.boot := rfl
@[simp] theorem modPart_fp (n : Nat) (f : Partition → Partition) : (modPart n f s).fp = s.fp := rfl
@[simp] theorem modPart_host (n : Nat) (f : Partition → Partition) : (modPart n f s).host = s.host := rfl
@[simp] theorem modPart_inProgress (n : Nat) (f : Partition → Partition) : (modPart n f s).inProgress = s.inProgress := rfl
@[simp] theorem modPart_mgmt (n : Nat) (f : Partition → Partition) : (modPart n f s).mgmt = s.mgmt := rfl
@[simp] theorem modPart_measure (n : Nat) (f : Partition → Partition) : (modPart n f s).measure = s.measure := rfl
@[simp] theorem modPart_ev (n : Nat) (f : Partition → Partition) : (modPart n f s).ev = s.ev := rfl
@[simp] theorem modPart_pwr (n : Nat) (f : Partition → Partition) : (modPart n f s).pwr = s.pwr := rfl
@[simp] theorem modPart_fw (n : Nat) (f : Partition → Partition) : (modPart n f s).fw = s.fw := rfl
@[simp] theorem modPart_err (n : Nat) (f : Partition → Partition) : (modPart n f s).err = s.err := rfl
@[simp] theorem modPart_cool (n : Nat) (f : Partition → Partition) : (modPart n f s).cool = s.cool := rfl
@[simp] theorem modPart_install (n : Nat) (f : Partition → Partition) : (modPart n f s).install = s.install := rfl
@[simp] theorem modPart_installs (n : Nat) (f : Partition → Partition) : (modPart n f s).installs = s.installs := rfl
@[simp] theorem modPart_fab (n : Nat) (f : Partition → Partition) : (modPart n f s).fab = s.fab := rfl
@[simp] theorem modPart_hbms (n : Nat) (f : Partition → Partition) : (modPart n f s).hbms = s.hbms := rfl
@[simp] theorem modPart_bufs (n : Nat) (f : Partition → Partition) : (modPart n f s).bufs = s.bufs := rfl
@[simp] theorem modPart_engines (n : Nat) (f : Partition → Partition) : (modPart n f s).engines = s.engines := rfl
@[simp] theorem modPart_links (n : Nat) (f : Partition → Partition) : (modPart n f s).links = s.links := rfl
@[simp] theorem modPart_mem (n : Nat) (f : Partition → Partition) : (modPart n f s).mem = s.mem := rfl
@[simp] theorem modPart_bays (n : Nat) (f : Partition → Partition) : (modPart n f s).bays = s.bays := rfl
@[simp] theorem modPart_cores (n : Nat) (f : Partition → Partition) : (modPart n f s).cores = s.cores := rfl
@[simp] theorem modPart_xings (n : Nat) (f : Partition → Partition) : (modPart n f s).xings = s.xings := rfl
@[simp] theorem modPart_hostMem (n : Nat) (f : Partition → Partition) : (modPart n f s).hostMem = s.hostMem := rfl
@[simp] theorem modPart_hostFail (n : Nat) (f : Partition → Partition) : (modPart n f s).hostFail = s.hostFail := rfl

@[simp] theorem modLink_pending (l : Nat) (f : Link → Link) : (modLink l f s).pending = s.pending := rfl
@[simp] theorem modLink_freeCtr (l : Nat) (f : Link → Link) : (modLink l f s).freeCtr = s.freeCtr := rfl
@[simp] theorem modLink_now (l : Nat) (f : Link → Link) : (modLink l f s).now = s.now := rfl
@[simp] theorem modLink_fuses (l : Nat) (f : Link → Link) : (modLink l f s).fuses = s.fuses := rfl
@[simp] theorem modLink_boot (l : Nat) (f : Link → Link) : (modLink l f s).boot = s.boot := rfl
@[simp] theorem modLink_fp (l : Nat) (f : Link → Link) : (modLink l f s).fp = s.fp := rfl
@[simp] theorem modLink_host (l : Nat) (f : Link → Link) : (modLink l f s).host = s.host := rfl
@[simp] theorem modLink_inProgress (l : Nat) (f : Link → Link) : (modLink l f s).inProgress = s.inProgress := rfl
@[simp] theorem modLink_mgmt (l : Nat) (f : Link → Link) : (modLink l f s).mgmt = s.mgmt := rfl
@[simp] theorem modLink_measure (l : Nat) (f : Link → Link) : (modLink l f s).measure = s.measure := rfl
@[simp] theorem modLink_ev (l : Nat) (f : Link → Link) : (modLink l f s).ev = s.ev := rfl
@[simp] theorem modLink_parts (l : Nat) (f : Link → Link) : (modLink l f s).parts = s.parts := rfl
@[simp] theorem modLink_pwr (l : Nat) (f : Link → Link) : (modLink l f s).pwr = s.pwr := rfl
@[simp] theorem modLink_fw (l : Nat) (f : Link → Link) : (modLink l f s).fw = s.fw := rfl
@[simp] theorem modLink_err (l : Nat) (f : Link → Link) : (modLink l f s).err = s.err := rfl
@[simp] theorem modLink_cool (l : Nat) (f : Link → Link) : (modLink l f s).cool = s.cool := rfl
@[simp] theorem modLink_install (l : Nat) (f : Link → Link) : (modLink l f s).install = s.install := rfl
@[simp] theorem modLink_installs (l : Nat) (f : Link → Link) : (modLink l f s).installs = s.installs := rfl
@[simp] theorem modLink_fab (l : Nat) (f : Link → Link) : (modLink l f s).fab = s.fab := rfl
@[simp] theorem modLink_hbms (l : Nat) (f : Link → Link) : (modLink l f s).hbms = s.hbms := rfl
@[simp] theorem modLink_bufs (l : Nat) (f : Link → Link) : (modLink l f s).bufs = s.bufs := rfl
@[simp] theorem modLink_engines (l : Nat) (f : Link → Link) : (modLink l f s).engines = s.engines := rfl
@[simp] theorem modLink_mem (l : Nat) (f : Link → Link) : (modLink l f s).mem = s.mem := rfl
@[simp] theorem modLink_bays (l : Nat) (f : Link → Link) : (modLink l f s).bays = s.bays := rfl
@[simp] theorem modLink_cores (l : Nat) (f : Link → Link) : (modLink l f s).cores = s.cores := rfl
@[simp] theorem modLink_xings (l : Nat) (f : Link → Link) : (modLink l f s).xings = s.xings := rfl
@[simp] theorem modLink_hostMem (l : Nat) (f : Link → Link) : (modLink l f s).hostMem = s.hostMem := rfl
@[simp] theorem modLink_hostFail (l : Nat) (f : Link → Link) : (modLink l f s).hostFail = s.hostFail := rfl

@[simp] theorem modPort_pending (i n : Nat) (f : PortCount → PortCount) : (modPort i n f s).pending = s.pending := rfl
@[simp] theorem modPort_freeCtr (i n : Nat) (f : PortCount → PortCount) : (modPort i n f s).freeCtr = s.freeCtr := rfl
@[simp] theorem modPort_now (i n : Nat) (f : PortCount → PortCount) : (modPort i n f s).now = s.now := rfl
@[simp] theorem modPort_fuses (i n : Nat) (f : PortCount → PortCount) : (modPort i n f s).fuses = s.fuses := rfl
@[simp] theorem modPort_boot (i n : Nat) (f : PortCount → PortCount) : (modPort i n f s).boot = s.boot := rfl
@[simp] theorem modPort_fp (i n : Nat) (f : PortCount → PortCount) : (modPort i n f s).fp = s.fp := rfl
@[simp] theorem modPort_host (i n : Nat) (f : PortCount → PortCount) : (modPort i n f s).host = s.host := rfl
@[simp] theorem modPort_inProgress (i n : Nat) (f : PortCount → PortCount) : (modPort i n f s).inProgress = s.inProgress := rfl
@[simp] theorem modPort_mgmt (i n : Nat) (f : PortCount → PortCount) : (modPort i n f s).mgmt = s.mgmt := rfl
@[simp] theorem modPort_measure (i n : Nat) (f : PortCount → PortCount) : (modPort i n f s).measure = s.measure := rfl
@[simp] theorem modPort_ev (i n : Nat) (f : PortCount → PortCount) : (modPort i n f s).ev = s.ev := rfl
@[simp] theorem modPort_parts (i n : Nat) (f : PortCount → PortCount) : (modPort i n f s).parts = s.parts := rfl
@[simp] theorem modPort_pwr (i n : Nat) (f : PortCount → PortCount) : (modPort i n f s).pwr = s.pwr := rfl
@[simp] theorem modPort_fw (i n : Nat) (f : PortCount → PortCount) : (modPort i n f s).fw = s.fw := rfl
@[simp] theorem modPort_err (i n : Nat) (f : PortCount → PortCount) : (modPort i n f s).err = s.err := rfl
@[simp] theorem modPort_cool (i n : Nat) (f : PortCount → PortCount) : (modPort i n f s).cool = s.cool := rfl
@[simp] theorem modPort_install (i n : Nat) (f : PortCount → PortCount) : (modPort i n f s).install = s.install := rfl
@[simp] theorem modPort_installs (i n : Nat) (f : PortCount → PortCount) : (modPort i n f s).installs = s.installs := rfl
@[simp] theorem modPort_hbms (i n : Nat) (f : PortCount → PortCount) : (modPort i n f s).hbms = s.hbms := rfl
@[simp] theorem modPort_bufs (i n : Nat) (f : PortCount → PortCount) : (modPort i n f s).bufs = s.bufs := rfl
@[simp] theorem modPort_engines (i n : Nat) (f : PortCount → PortCount) : (modPort i n f s).engines = s.engines := rfl
@[simp] theorem modPort_links (i n : Nat) (f : PortCount → PortCount) : (modPort i n f s).links = s.links := rfl
@[simp] theorem modPort_mem (i n : Nat) (f : PortCount → PortCount) : (modPort i n f s).mem = s.mem := rfl
@[simp] theorem modPort_bays (i n : Nat) (f : PortCount → PortCount) : (modPort i n f s).bays = s.bays := rfl
@[simp] theorem modPort_cores (i n : Nat) (f : PortCount → PortCount) : (modPort i n f s).cores = s.cores := rfl
@[simp] theorem modPort_xings (i n : Nat) (f : PortCount → PortCount) : (modPort i n f s).xings = s.xings := rfl
@[simp] theorem modPort_hostMem (i n : Nat) (f : PortCount → PortCount) : (modPort i n f s).hostMem = s.hostMem := rfl
@[simp] theorem modPort_hostFail (i n : Nat) (f : PortCount → PortCount) : (modPort i n f s).hostFail = s.hostFail := rfl

@[simp] theorem modStack_pending (n : Nat) (f : StackState → StackState) : (modStack n f s).pending = s.pending := rfl
@[simp] theorem modStack_freeCtr (n : Nat) (f : StackState → StackState) : (modStack n f s).freeCtr = s.freeCtr := rfl
@[simp] theorem modStack_now (n : Nat) (f : StackState → StackState) : (modStack n f s).now = s.now := rfl
@[simp] theorem modStack_fuses (n : Nat) (f : StackState → StackState) : (modStack n f s).fuses = s.fuses := rfl
@[simp] theorem modStack_boot (n : Nat) (f : StackState → StackState) : (modStack n f s).boot = s.boot := rfl
@[simp] theorem modStack_fp (n : Nat) (f : StackState → StackState) : (modStack n f s).fp = s.fp := rfl
@[simp] theorem modStack_host (n : Nat) (f : StackState → StackState) : (modStack n f s).host = s.host := rfl
@[simp] theorem modStack_inProgress (n : Nat) (f : StackState → StackState) : (modStack n f s).inProgress = s.inProgress := rfl
@[simp] theorem modStack_mgmt (n : Nat) (f : StackState → StackState) : (modStack n f s).mgmt = s.mgmt := rfl
@[simp] theorem modStack_measure (n : Nat) (f : StackState → StackState) : (modStack n f s).measure = s.measure := rfl
@[simp] theorem modStack_ev (n : Nat) (f : StackState → StackState) : (modStack n f s).ev = s.ev := rfl
@[simp] theorem modStack_parts (n : Nat) (f : StackState → StackState) : (modStack n f s).parts = s.parts := rfl
@[simp] theorem modStack_pwr (n : Nat) (f : StackState → StackState) : (modStack n f s).pwr = s.pwr := rfl
@[simp] theorem modStack_fw (n : Nat) (f : StackState → StackState) : (modStack n f s).fw = s.fw := rfl
@[simp] theorem modStack_err (n : Nat) (f : StackState → StackState) : (modStack n f s).err = s.err := rfl
@[simp] theorem modStack_cool (n : Nat) (f : StackState → StackState) : (modStack n f s).cool = s.cool := rfl
@[simp] theorem modStack_install (n : Nat) (f : StackState → StackState) : (modStack n f s).install = s.install := rfl
@[simp] theorem modStack_installs (n : Nat) (f : StackState → StackState) : (modStack n f s).installs = s.installs := rfl
@[simp] theorem modStack_fab (n : Nat) (f : StackState → StackState) : (modStack n f s).fab = s.fab := rfl
@[simp] theorem modStack_bufs (n : Nat) (f : StackState → StackState) : (modStack n f s).bufs = s.bufs := rfl
@[simp] theorem modStack_engines (n : Nat) (f : StackState → StackState) : (modStack n f s).engines = s.engines := rfl
@[simp] theorem modStack_links (n : Nat) (f : StackState → StackState) : (modStack n f s).links = s.links := rfl
@[simp] theorem modStack_mem (n : Nat) (f : StackState → StackState) : (modStack n f s).mem = s.mem := rfl
@[simp] theorem modStack_bays (n : Nat) (f : StackState → StackState) : (modStack n f s).bays = s.bays := rfl
@[simp] theorem modStack_cores (n : Nat) (f : StackState → StackState) : (modStack n f s).cores = s.cores := rfl
@[simp] theorem modStack_xings (n : Nat) (f : StackState → StackState) : (modStack n f s).xings = s.xings := rfl
@[simp] theorem modStack_hostMem (n : Nat) (f : StackState → StackState) : (modStack n f s).hostMem = s.hostMem := rfl
@[simp] theorem modStack_hostFail (n : Nat) (f : StackState → StackState) : (modStack n f s).hostFail = s.hostFail := rfl

@[simp] theorem modBuf_pending (n : Nat) (f : BufferState → BufferState) : (modBuf n f s).pending = s.pending := rfl
@[simp] theorem modBuf_freeCtr (n : Nat) (f : BufferState → BufferState) : (modBuf n f s).freeCtr = s.freeCtr := rfl
@[simp] theorem modBuf_now (n : Nat) (f : BufferState → BufferState) : (modBuf n f s).now = s.now := rfl
@[simp] theorem modBuf_fuses (n : Nat) (f : BufferState → BufferState) : (modBuf n f s).fuses = s.fuses := rfl
@[simp] theorem modBuf_boot (n : Nat) (f : BufferState → BufferState) : (modBuf n f s).boot = s.boot := rfl
@[simp] theorem modBuf_fp (n : Nat) (f : BufferState → BufferState) : (modBuf n f s).fp = s.fp := rfl
@[simp] theorem modBuf_host (n : Nat) (f : BufferState → BufferState) : (modBuf n f s).host = s.host := rfl
@[simp] theorem modBuf_inProgress (n : Nat) (f : BufferState → BufferState) : (modBuf n f s).inProgress = s.inProgress := rfl
@[simp] theorem modBuf_mgmt (n : Nat) (f : BufferState → BufferState) : (modBuf n f s).mgmt = s.mgmt := rfl
@[simp] theorem modBuf_measure (n : Nat) (f : BufferState → BufferState) : (modBuf n f s).measure = s.measure := rfl
@[simp] theorem modBuf_ev (n : Nat) (f : BufferState → BufferState) : (modBuf n f s).ev = s.ev := rfl
@[simp] theorem modBuf_parts (n : Nat) (f : BufferState → BufferState) : (modBuf n f s).parts = s.parts := rfl
@[simp] theorem modBuf_pwr (n : Nat) (f : BufferState → BufferState) : (modBuf n f s).pwr = s.pwr := rfl
@[simp] theorem modBuf_fw (n : Nat) (f : BufferState → BufferState) : (modBuf n f s).fw = s.fw := rfl
@[simp] theorem modBuf_err (n : Nat) (f : BufferState → BufferState) : (modBuf n f s).err = s.err := rfl
@[simp] theorem modBuf_cool (n : Nat) (f : BufferState → BufferState) : (modBuf n f s).cool = s.cool := rfl
@[simp] theorem modBuf_install (n : Nat) (f : BufferState → BufferState) : (modBuf n f s).install = s.install := rfl
@[simp] theorem modBuf_installs (n : Nat) (f : BufferState → BufferState) : (modBuf n f s).installs = s.installs := rfl
@[simp] theorem modBuf_fab (n : Nat) (f : BufferState → BufferState) : (modBuf n f s).fab = s.fab := rfl
@[simp] theorem modBuf_hbms (n : Nat) (f : BufferState → BufferState) : (modBuf n f s).hbms = s.hbms := rfl
@[simp] theorem modBuf_engines (n : Nat) (f : BufferState → BufferState) : (modBuf n f s).engines = s.engines := rfl
@[simp] theorem modBuf_links (n : Nat) (f : BufferState → BufferState) : (modBuf n f s).links = s.links := rfl
@[simp] theorem modBuf_mem (n : Nat) (f : BufferState → BufferState) : (modBuf n f s).mem = s.mem := rfl
@[simp] theorem modBuf_bays (n : Nat) (f : BufferState → BufferState) : (modBuf n f s).bays = s.bays := rfl
@[simp] theorem modBuf_cores (n : Nat) (f : BufferState → BufferState) : (modBuf n f s).cores = s.cores := rfl
@[simp] theorem modBuf_xings (n : Nat) (f : BufferState → BufferState) : (modBuf n f s).xings = s.xings := rfl
@[simp] theorem modBuf_hostMem (n : Nat) (f : BufferState → BufferState) : (modBuf n f s).hostMem = s.hostMem := rfl
@[simp] theorem modBuf_hostFail (n : Nat) (f : BufferState → BufferState) : (modBuf n f s).hostFail = s.hostFail := rfl

@[simp] theorem modStore_pending (n : Nat) (f : StoreDie → StoreDie) : (modStore n f s).pending = s.pending := rfl
@[simp] theorem modStore_freeCtr (n : Nat) (f : StoreDie → StoreDie) : (modStore n f s).freeCtr = s.freeCtr := rfl
@[simp] theorem modStore_now (n : Nat) (f : StoreDie → StoreDie) : (modStore n f s).now = s.now := rfl
@[simp] theorem modStore_fuses (n : Nat) (f : StoreDie → StoreDie) : (modStore n f s).fuses = s.fuses := rfl
@[simp] theorem modStore_fp (n : Nat) (f : StoreDie → StoreDie) : (modStore n f s).fp = s.fp := rfl
@[simp] theorem modStore_host (n : Nat) (f : StoreDie → StoreDie) : (modStore n f s).host = s.host := rfl
@[simp] theorem modStore_inProgress (n : Nat) (f : StoreDie → StoreDie) : (modStore n f s).inProgress = s.inProgress := rfl
@[simp] theorem modStore_mgmt (n : Nat) (f : StoreDie → StoreDie) : (modStore n f s).mgmt = s.mgmt := rfl
@[simp] theorem modStore_measure (n : Nat) (f : StoreDie → StoreDie) : (modStore n f s).measure = s.measure := rfl
@[simp] theorem modStore_ev (n : Nat) (f : StoreDie → StoreDie) : (modStore n f s).ev = s.ev := rfl
@[simp] theorem modStore_parts (n : Nat) (f : StoreDie → StoreDie) : (modStore n f s).parts = s.parts := rfl
@[simp] theorem modStore_pwr (n : Nat) (f : StoreDie → StoreDie) : (modStore n f s).pwr = s.pwr := rfl
@[simp] theorem modStore_fw (n : Nat) (f : StoreDie → StoreDie) : (modStore n f s).fw = s.fw := rfl
@[simp] theorem modStore_err (n : Nat) (f : StoreDie → StoreDie) : (modStore n f s).err = s.err := rfl
@[simp] theorem modStore_cool (n : Nat) (f : StoreDie → StoreDie) : (modStore n f s).cool = s.cool := rfl
@[simp] theorem modStore_install (n : Nat) (f : StoreDie → StoreDie) : (modStore n f s).install = s.install := rfl
@[simp] theorem modStore_installs (n : Nat) (f : StoreDie → StoreDie) : (modStore n f s).installs = s.installs := rfl
@[simp] theorem modStore_fab (n : Nat) (f : StoreDie → StoreDie) : (modStore n f s).fab = s.fab := rfl
@[simp] theorem modStore_hbms (n : Nat) (f : StoreDie → StoreDie) : (modStore n f s).hbms = s.hbms := rfl
@[simp] theorem modStore_bufs (n : Nat) (f : StoreDie → StoreDie) : (modStore n f s).bufs = s.bufs := rfl
@[simp] theorem modStore_engines (n : Nat) (f : StoreDie → StoreDie) : (modStore n f s).engines = s.engines := rfl
@[simp] theorem modStore_links (n : Nat) (f : StoreDie → StoreDie) : (modStore n f s).links = s.links := rfl
@[simp] theorem modStore_mem (n : Nat) (f : StoreDie → StoreDie) : (modStore n f s).mem = s.mem := rfl
@[simp] theorem modStore_bays (n : Nat) (f : StoreDie → StoreDie) : (modStore n f s).bays = s.bays := rfl
@[simp] theorem modStore_cores (n : Nat) (f : StoreDie → StoreDie) : (modStore n f s).cores = s.cores := rfl
@[simp] theorem modStore_xings (n : Nat) (f : StoreDie → StoreDie) : (modStore n f s).xings = s.xings := rfl
@[simp] theorem modStore_hostMem (n : Nat) (f : StoreDie → StoreDie) : (modStore n f s).hostMem = s.hostMem := rfl
@[simp] theorem modStore_hostFail (n : Nat) (f : StoreDie → StoreDie) : (modStore n f s).hostFail = s.hostFail := rfl

@[simp] theorem modEngine_pending (n : Nat) (f : EmbEngine → EmbEngine) : (modEngine n f s).pending = s.pending := rfl
@[simp] theorem modEngine_freeCtr (n : Nat) (f : EmbEngine → EmbEngine) : (modEngine n f s).freeCtr = s.freeCtr := rfl
@[simp] theorem modEngine_now (n : Nat) (f : EmbEngine → EmbEngine) : (modEngine n f s).now = s.now := rfl
@[simp] theorem modEngine_fuses (n : Nat) (f : EmbEngine → EmbEngine) : (modEngine n f s).fuses = s.fuses := rfl
@[simp] theorem modEngine_boot (n : Nat) (f : EmbEngine → EmbEngine) : (modEngine n f s).boot = s.boot := rfl
@[simp] theorem modEngine_fp (n : Nat) (f : EmbEngine → EmbEngine) : (modEngine n f s).fp = s.fp := rfl
@[simp] theorem modEngine_host (n : Nat) (f : EmbEngine → EmbEngine) : (modEngine n f s).host = s.host := rfl
@[simp] theorem modEngine_inProgress (n : Nat) (f : EmbEngine → EmbEngine) : (modEngine n f s).inProgress = s.inProgress := rfl
@[simp] theorem modEngine_mgmt (n : Nat) (f : EmbEngine → EmbEngine) : (modEngine n f s).mgmt = s.mgmt := rfl
@[simp] theorem modEngine_measure (n : Nat) (f : EmbEngine → EmbEngine) : (modEngine n f s).measure = s.measure := rfl
@[simp] theorem modEngine_ev (n : Nat) (f : EmbEngine → EmbEngine) : (modEngine n f s).ev = s.ev := rfl
@[simp] theorem modEngine_parts (n : Nat) (f : EmbEngine → EmbEngine) : (modEngine n f s).parts = s.parts := rfl
@[simp] theorem modEngine_pwr (n : Nat) (f : EmbEngine → EmbEngine) : (modEngine n f s).pwr = s.pwr := rfl
@[simp] theorem modEngine_fw (n : Nat) (f : EmbEngine → EmbEngine) : (modEngine n f s).fw = s.fw := rfl
@[simp] theorem modEngine_err (n : Nat) (f : EmbEngine → EmbEngine) : (modEngine n f s).err = s.err := rfl
@[simp] theorem modEngine_cool (n : Nat) (f : EmbEngine → EmbEngine) : (modEngine n f s).cool = s.cool := rfl
@[simp] theorem modEngine_install (n : Nat) (f : EmbEngine → EmbEngine) : (modEngine n f s).install = s.install := rfl
@[simp] theorem modEngine_installs (n : Nat) (f : EmbEngine → EmbEngine) : (modEngine n f s).installs = s.installs := rfl
@[simp] theorem modEngine_fab (n : Nat) (f : EmbEngine → EmbEngine) : (modEngine n f s).fab = s.fab := rfl
@[simp] theorem modEngine_hbms (n : Nat) (f : EmbEngine → EmbEngine) : (modEngine n f s).hbms = s.hbms := rfl
@[simp] theorem modEngine_bufs (n : Nat) (f : EmbEngine → EmbEngine) : (modEngine n f s).bufs = s.bufs := rfl
@[simp] theorem modEngine_links (n : Nat) (f : EmbEngine → EmbEngine) : (modEngine n f s).links = s.links := rfl
@[simp] theorem modEngine_mem (n : Nat) (f : EmbEngine → EmbEngine) : (modEngine n f s).mem = s.mem := rfl
@[simp] theorem modEngine_bays (n : Nat) (f : EmbEngine → EmbEngine) : (modEngine n f s).bays = s.bays := rfl
@[simp] theorem modEngine_cores (n : Nat) (f : EmbEngine → EmbEngine) : (modEngine n f s).cores = s.cores := rfl
@[simp] theorem modEngine_xings (n : Nat) (f : EmbEngine → EmbEngine) : (modEngine n f s).xings = s.xings := rfl
@[simp] theorem modEngine_hostMem (n : Nat) (f : EmbEngine → EmbEngine) : (modEngine n f s).hostMem = s.hostMem := rfl
@[simp] theorem modEngine_hostFail (n : Nat) (f : EmbEngine → EmbEngine) : (modEngine n f s).hostFail = s.hostFail := rfl

@[simp] theorem modHot_pending (n : Nat) (f : HotState → HotState) : (modHot n f s).pending = s.pending := rfl
@[simp] theorem modHot_freeCtr (n : Nat) (f : HotState → HotState) : (modHot n f s).freeCtr = s.freeCtr := rfl
@[simp] theorem modHot_now (n : Nat) (f : HotState → HotState) : (modHot n f s).now = s.now := rfl
@[simp] theorem modHot_fuses (n : Nat) (f : HotState → HotState) : (modHot n f s).fuses = s.fuses := rfl
@[simp] theorem modHot_boot (n : Nat) (f : HotState → HotState) : (modHot n f s).boot = s.boot := rfl
@[simp] theorem modHot_fp (n : Nat) (f : HotState → HotState) : (modHot n f s).fp = s.fp := rfl
@[simp] theorem modHot_host (n : Nat) (f : HotState → HotState) : (modHot n f s).host = s.host := rfl
@[simp] theorem modHot_inProgress (n : Nat) (f : HotState → HotState) : (modHot n f s).inProgress = s.inProgress := rfl
@[simp] theorem modHot_mgmt (n : Nat) (f : HotState → HotState) : (modHot n f s).mgmt = s.mgmt := rfl
@[simp] theorem modHot_measure (n : Nat) (f : HotState → HotState) : (modHot n f s).measure = s.measure := rfl
@[simp] theorem modHot_ev (n : Nat) (f : HotState → HotState) : (modHot n f s).ev = s.ev := rfl
@[simp] theorem modHot_parts (n : Nat) (f : HotState → HotState) : (modHot n f s).parts = s.parts := rfl
@[simp] theorem modHot_pwr (n : Nat) (f : HotState → HotState) : (modHot n f s).pwr = s.pwr := rfl
@[simp] theorem modHot_fw (n : Nat) (f : HotState → HotState) : (modHot n f s).fw = s.fw := rfl
@[simp] theorem modHot_err (n : Nat) (f : HotState → HotState) : (modHot n f s).err = s.err := rfl
@[simp] theorem modHot_install (n : Nat) (f : HotState → HotState) : (modHot n f s).install = s.install := rfl
@[simp] theorem modHot_installs (n : Nat) (f : HotState → HotState) : (modHot n f s).installs = s.installs := rfl
@[simp] theorem modHot_fab (n : Nat) (f : HotState → HotState) : (modHot n f s).fab = s.fab := rfl
@[simp] theorem modHot_hbms (n : Nat) (f : HotState → HotState) : (modHot n f s).hbms = s.hbms := rfl
@[simp] theorem modHot_bufs (n : Nat) (f : HotState → HotState) : (modHot n f s).bufs = s.bufs := rfl
@[simp] theorem modHot_engines (n : Nat) (f : HotState → HotState) : (modHot n f s).engines = s.engines := rfl
@[simp] theorem modHot_links (n : Nat) (f : HotState → HotState) : (modHot n f s).links = s.links := rfl
@[simp] theorem modHot_mem (n : Nat) (f : HotState → HotState) : (modHot n f s).mem = s.mem := rfl
@[simp] theorem modHot_bays (n : Nat) (f : HotState → HotState) : (modHot n f s).bays = s.bays := rfl
@[simp] theorem modHot_cores (n : Nat) (f : HotState → HotState) : (modHot n f s).cores = s.cores := rfl
@[simp] theorem modHot_xings (n : Nat) (f : HotState → HotState) : (modHot n f s).xings = s.xings := rfl
@[simp] theorem modHot_hostMem (n : Nat) (f : HotState → HotState) : (modHot n f s).hostMem = s.hostMem := rfl
@[simp] theorem modHot_hostFail (n : Nat) (f : HotState → HotState) : (modHot n f s).hostFail = s.hostFail := rfl

@[simp] theorem modProc_pending (n : Nat) (f : Proc → Proc) : (modProc n f s).pending = s.pending := rfl
@[simp] theorem modProc_freeCtr (n : Nat) (f : Proc → Proc) : (modProc n f s).freeCtr = s.freeCtr := rfl
@[simp] theorem modProc_now (n : Nat) (f : Proc → Proc) : (modProc n f s).now = s.now := rfl
@[simp] theorem modProc_fuses (n : Nat) (f : Proc → Proc) : (modProc n f s).fuses = s.fuses := rfl
@[simp] theorem modProc_boot (n : Nat) (f : Proc → Proc) : (modProc n f s).boot = s.boot := rfl
@[simp] theorem modProc_fp (n : Nat) (f : Proc → Proc) : (modProc n f s).fp = s.fp := rfl
@[simp] theorem modProc_host (n : Nat) (f : Proc → Proc) : (modProc n f s).host = s.host := rfl
@[simp] theorem modProc_inProgress (n : Nat) (f : Proc → Proc) : (modProc n f s).inProgress = s.inProgress := rfl
@[simp] theorem modProc_mgmt (n : Nat) (f : Proc → Proc) : (modProc n f s).mgmt = s.mgmt := rfl
@[simp] theorem modProc_measure (n : Nat) (f : Proc → Proc) : (modProc n f s).measure = s.measure := rfl
@[simp] theorem modProc_ev (n : Nat) (f : Proc → Proc) : (modProc n f s).ev = s.ev := rfl
@[simp] theorem modProc_parts (n : Nat) (f : Proc → Proc) : (modProc n f s).parts = s.parts := rfl
@[simp] theorem modProc_pwr (n : Nat) (f : Proc → Proc) : (modProc n f s).pwr = s.pwr := rfl
@[simp] theorem modProc_err (n : Nat) (f : Proc → Proc) : (modProc n f s).err = s.err := rfl
@[simp] theorem modProc_cool (n : Nat) (f : Proc → Proc) : (modProc n f s).cool = s.cool := rfl
@[simp] theorem modProc_install (n : Nat) (f : Proc → Proc) : (modProc n f s).install = s.install := rfl
@[simp] theorem modProc_installs (n : Nat) (f : Proc → Proc) : (modProc n f s).installs = s.installs := rfl
@[simp] theorem modProc_fab (n : Nat) (f : Proc → Proc) : (modProc n f s).fab = s.fab := rfl
@[simp] theorem modProc_hbms (n : Nat) (f : Proc → Proc) : (modProc n f s).hbms = s.hbms := rfl
@[simp] theorem modProc_bufs (n : Nat) (f : Proc → Proc) : (modProc n f s).bufs = s.bufs := rfl
@[simp] theorem modProc_engines (n : Nat) (f : Proc → Proc) : (modProc n f s).engines = s.engines := rfl
@[simp] theorem modProc_links (n : Nat) (f : Proc → Proc) : (modProc n f s).links = s.links := rfl
@[simp] theorem modProc_mem (n : Nat) (f : Proc → Proc) : (modProc n f s).mem = s.mem := rfl
@[simp] theorem modProc_bays (n : Nat) (f : Proc → Proc) : (modProc n f s).bays = s.bays := rfl
@[simp] theorem modProc_cores (n : Nat) (f : Proc → Proc) : (modProc n f s).cores = s.cores := rfl
@[simp] theorem modProc_xings (n : Nat) (f : Proc → Proc) : (modProc n f s).xings = s.xings := rfl
@[simp] theorem modProc_hostMem (n : Nat) (f : Proc → Proc) : (modProc n f s).hostMem = s.hostMem := rfl
@[simp] theorem modProc_hostFail (n : Nat) (f : Proc → Proc) : (modProc n f s).hostFail = s.hostFail := rfl

@[simp] theorem modSeg_pending (g : Segm) (f : SegState → SegState) : (modSeg g f s).pending = s.pending := rfl
@[simp] theorem modSeg_freeCtr (g : Segm) (f : SegState → SegState) : (modSeg g f s).freeCtr = s.freeCtr := rfl
@[simp] theorem modSeg_now (g : Segm) (f : SegState → SegState) : (modSeg g f s).now = s.now := rfl
@[simp] theorem modSeg_fuses (g : Segm) (f : SegState → SegState) : (modSeg g f s).fuses = s.fuses := rfl
@[simp] theorem modSeg_boot (g : Segm) (f : SegState → SegState) : (modSeg g f s).boot = s.boot := rfl
@[simp] theorem modSeg_fp (g : Segm) (f : SegState → SegState) : (modSeg g f s).fp = s.fp := rfl
@[simp] theorem modSeg_host (g : Segm) (f : SegState → SegState) : (modSeg g f s).host = s.host := rfl
@[simp] theorem modSeg_inProgress (g : Segm) (f : SegState → SegState) : (modSeg g f s).inProgress = s.inProgress := rfl
@[simp] theorem modSeg_measure (g : Segm) (f : SegState → SegState) : (modSeg g f s).measure = s.measure := rfl
@[simp] theorem modSeg_ev (g : Segm) (f : SegState → SegState) : (modSeg g f s).ev = s.ev := rfl
@[simp] theorem modSeg_parts (g : Segm) (f : SegState → SegState) : (modSeg g f s).parts = s.parts := rfl
@[simp] theorem modSeg_pwr (g : Segm) (f : SegState → SegState) : (modSeg g f s).pwr = s.pwr := rfl
@[simp] theorem modSeg_fw (g : Segm) (f : SegState → SegState) : (modSeg g f s).fw = s.fw := rfl
@[simp] theorem modSeg_err (g : Segm) (f : SegState → SegState) : (modSeg g f s).err = s.err := rfl
@[simp] theorem modSeg_cool (g : Segm) (f : SegState → SegState) : (modSeg g f s).cool = s.cool := rfl
@[simp] theorem modSeg_install (g : Segm) (f : SegState → SegState) : (modSeg g f s).install = s.install := rfl
@[simp] theorem modSeg_installs (g : Segm) (f : SegState → SegState) : (modSeg g f s).installs = s.installs := rfl
@[simp] theorem modSeg_fab (g : Segm) (f : SegState → SegState) : (modSeg g f s).fab = s.fab := rfl
@[simp] theorem modSeg_hbms (g : Segm) (f : SegState → SegState) : (modSeg g f s).hbms = s.hbms := rfl
@[simp] theorem modSeg_bufs (g : Segm) (f : SegState → SegState) : (modSeg g f s).bufs = s.bufs := rfl
@[simp] theorem modSeg_engines (g : Segm) (f : SegState → SegState) : (modSeg g f s).engines = s.engines := rfl
@[simp] theorem modSeg_links (g : Segm) (f : SegState → SegState) : (modSeg g f s).links = s.links := rfl
@[simp] theorem modSeg_mem (g : Segm) (f : SegState → SegState) : (modSeg g f s).mem = s.mem := rfl
@[simp] theorem modSeg_bays (g : Segm) (f : SegState → SegState) : (modSeg g f s).bays = s.bays := rfl
@[simp] theorem modSeg_cores (g : Segm) (f : SegState → SegState) : (modSeg g f s).cores = s.cores := rfl
@[simp] theorem modSeg_xings (g : Segm) (f : SegState → SegState) : (modSeg g f s).xings = s.xings := rfl
@[simp] theorem modSeg_hostMem (g : Segm) (f : SegState → SegState) : (modSeg g f s).hostMem = s.hostMem := rfl
@[simp] theorem modSeg_hostFail (g : Segm) (f : SegState → SegState) : (modSeg g f s).hostFail = s.hostFail := rfl

@[simp] theorem putWear_pending (n : Nat) (p : WearPart) : (putWear n p s).pending = s.pending := rfl
@[simp] theorem putWear_freeCtr (n : Nat) (p : WearPart) : (putWear n p s).freeCtr = s.freeCtr := rfl
@[simp] theorem putWear_now (n : Nat) (p : WearPart) : (putWear n p s).now = s.now := rfl
@[simp] theorem putWear_fuses (n : Nat) (p : WearPart) : (putWear n p s).fuses = s.fuses := rfl
@[simp] theorem putWear_boot (n : Nat) (p : WearPart) : (putWear n p s).boot = s.boot := rfl
@[simp] theorem putWear_fp (n : Nat) (p : WearPart) : (putWear n p s).fp = s.fp := rfl
@[simp] theorem putWear_host (n : Nat) (p : WearPart) : (putWear n p s).host = s.host := rfl
@[simp] theorem putWear_inProgress (n : Nat) (p : WearPart) : (putWear n p s).inProgress = s.inProgress := rfl
@[simp] theorem putWear_mgmt (n : Nat) (p : WearPart) : (putWear n p s).mgmt = s.mgmt := rfl
@[simp] theorem putWear_measure (n : Nat) (p : WearPart) : (putWear n p s).measure = s.measure := rfl
@[simp] theorem putWear_ev (n : Nat) (p : WearPart) : (putWear n p s).ev = s.ev := rfl
@[simp] theorem putWear_parts (n : Nat) (p : WearPart) : (putWear n p s).parts = s.parts := rfl
@[simp] theorem putWear_pwr (n : Nat) (p : WearPart) : (putWear n p s).pwr = s.pwr := rfl
@[simp] theorem putWear_fw (n : Nat) (p : WearPart) : (putWear n p s).fw = s.fw := rfl
@[simp] theorem putWear_cool (n : Nat) (p : WearPart) : (putWear n p s).cool = s.cool := rfl
@[simp] theorem putWear_install (n : Nat) (p : WearPart) : (putWear n p s).install = s.install := rfl
@[simp] theorem putWear_installs (n : Nat) (p : WearPart) : (putWear n p s).installs = s.installs := rfl
@[simp] theorem putWear_fab (n : Nat) (p : WearPart) : (putWear n p s).fab = s.fab := rfl
@[simp] theorem putWear_hbms (n : Nat) (p : WearPart) : (putWear n p s).hbms = s.hbms := rfl
@[simp] theorem putWear_bufs (n : Nat) (p : WearPart) : (putWear n p s).bufs = s.bufs := rfl
@[simp] theorem putWear_engines (n : Nat) (p : WearPart) : (putWear n p s).engines = s.engines := rfl
@[simp] theorem putWear_links (n : Nat) (p : WearPart) : (putWear n p s).links = s.links := rfl
@[simp] theorem putWear_mem (n : Nat) (p : WearPart) : (putWear n p s).mem = s.mem := rfl
@[simp] theorem putWear_bays (n : Nat) (p : WearPart) : (putWear n p s).bays = s.bays := rfl
@[simp] theorem putWear_cores (n : Nat) (p : WearPart) : (putWear n p s).cores = s.cores := rfl
@[simp] theorem putWear_xings (n : Nat) (p : WearPart) : (putWear n p s).xings = s.xings := rfl
@[simp] theorem putWear_hostMem (n : Nat) (p : WearPart) : (putWear n p s).hostMem = s.hostMem := rfl
@[simp] theorem putWear_hostFail (n : Nat) (p : WearPart) : (putWear n p s).hostFail = s.hostFail := rfl

@[simp] theorem setMissed_pending (n m : Nat) : (setMissed n m s).pending = s.pending := rfl
@[simp] theorem setMissed_freeCtr (n m : Nat) : (setMissed n m s).freeCtr = s.freeCtr := rfl
@[simp] theorem setMissed_now (n m : Nat) : (setMissed n m s).now = s.now := rfl
@[simp] theorem setMissed_fuses (n m : Nat) : (setMissed n m s).fuses = s.fuses := rfl
@[simp] theorem setMissed_boot (n m : Nat) : (setMissed n m s).boot = s.boot := rfl
@[simp] theorem setMissed_fp (n m : Nat) : (setMissed n m s).fp = s.fp := rfl
@[simp] theorem setMissed_host (n m : Nat) : (setMissed n m s).host = s.host := rfl
@[simp] theorem setMissed_inProgress (n m : Nat) : (setMissed n m s).inProgress = s.inProgress := rfl
@[simp] theorem setMissed_mgmt (n m : Nat) : (setMissed n m s).mgmt = s.mgmt := rfl
@[simp] theorem setMissed_measure (n m : Nat) : (setMissed n m s).measure = s.measure := rfl
@[simp] theorem setMissed_ev (n m : Nat) : (setMissed n m s).ev = s.ev := rfl
@[simp] theorem setMissed_parts (n m : Nat) : (setMissed n m s).parts = s.parts := rfl
@[simp] theorem setMissed_pwr (n m : Nat) : (setMissed n m s).pwr = s.pwr := rfl
@[simp] theorem setMissed_fw (n m : Nat) : (setMissed n m s).fw = s.fw := rfl
@[simp] theorem setMissed_cool (n m : Nat) : (setMissed n m s).cool = s.cool := rfl
@[simp] theorem setMissed_install (n m : Nat) : (setMissed n m s).install = s.install := rfl
@[simp] theorem setMissed_installs (n m : Nat) : (setMissed n m s).installs = s.installs := rfl
@[simp] theorem setMissed_fab (n m : Nat) : (setMissed n m s).fab = s.fab := rfl
@[simp] theorem setMissed_hbms (n m : Nat) : (setMissed n m s).hbms = s.hbms := rfl
@[simp] theorem setMissed_bufs (n m : Nat) : (setMissed n m s).bufs = s.bufs := rfl
@[simp] theorem setMissed_engines (n m : Nat) : (setMissed n m s).engines = s.engines := rfl
@[simp] theorem setMissed_links (n m : Nat) : (setMissed n m s).links = s.links := rfl
@[simp] theorem setMissed_mem (n m : Nat) : (setMissed n m s).mem = s.mem := rfl
@[simp] theorem setMissed_bays (n m : Nat) : (setMissed n m s).bays = s.bays := rfl
@[simp] theorem setMissed_cores (n m : Nat) : (setMissed n m s).cores = s.cores := rfl
@[simp] theorem setMissed_xings (n m : Nat) : (setMissed n m s).xings = s.xings := rfl
@[simp] theorem setMissed_hostMem (n m : Nat) : (setMissed n m s).hostMem = s.hostMem := rfl
@[simp] theorem setMissed_hostFail (n m : Nat) : (setMissed n m s).hostFail = s.hostFail := rfl

@[simp] theorem setOut_pending (c : Cmd) (bs : List Byte) : (setOut c bs s).pending = s.pending := rfl
@[simp] theorem setOut_freeCtr (c : Cmd) (bs : List Byte) : (setOut c bs s).freeCtr = s.freeCtr := rfl
@[simp] theorem setOut_now (c : Cmd) (bs : List Byte) : (setOut c bs s).now = s.now := rfl
@[simp] theorem setOut_fuses (c : Cmd) (bs : List Byte) : (setOut c bs s).fuses = s.fuses := rfl
@[simp] theorem setOut_boot (c : Cmd) (bs : List Byte) : (setOut c bs s).boot = s.boot := rfl
@[simp] theorem setOut_fp (c : Cmd) (bs : List Byte) : (setOut c bs s).fp = s.fp := rfl
@[simp] theorem setOut_host (c : Cmd) (bs : List Byte) : (setOut c bs s).host = s.host := rfl
@[simp] theorem setOut_mgmt (c : Cmd) (bs : List Byte) : (setOut c bs s).mgmt = s.mgmt := rfl
@[simp] theorem setOut_measure (c : Cmd) (bs : List Byte) : (setOut c bs s).measure = s.measure := rfl
@[simp] theorem setOut_ev (c : Cmd) (bs : List Byte) : (setOut c bs s).ev = s.ev := rfl
@[simp] theorem setOut_parts (c : Cmd) (bs : List Byte) : (setOut c bs s).parts = s.parts := rfl
@[simp] theorem setOut_pwr (c : Cmd) (bs : List Byte) : (setOut c bs s).pwr = s.pwr := rfl
@[simp] theorem setOut_fw (c : Cmd) (bs : List Byte) : (setOut c bs s).fw = s.fw := rfl
@[simp] theorem setOut_err (c : Cmd) (bs : List Byte) : (setOut c bs s).err = s.err := rfl
@[simp] theorem setOut_cool (c : Cmd) (bs : List Byte) : (setOut c bs s).cool = s.cool := rfl
@[simp] theorem setOut_install (c : Cmd) (bs : List Byte) : (setOut c bs s).install = s.install := rfl
@[simp] theorem setOut_installs (c : Cmd) (bs : List Byte) : (setOut c bs s).installs = s.installs := rfl
@[simp] theorem setOut_fab (c : Cmd) (bs : List Byte) : (setOut c bs s).fab = s.fab := rfl
@[simp] theorem setOut_hbms (c : Cmd) (bs : List Byte) : (setOut c bs s).hbms = s.hbms := rfl
@[simp] theorem setOut_bufs (c : Cmd) (bs : List Byte) : (setOut c bs s).bufs = s.bufs := rfl
@[simp] theorem setOut_engines (c : Cmd) (bs : List Byte) : (setOut c bs s).engines = s.engines := rfl
@[simp] theorem setOut_links (c : Cmd) (bs : List Byte) : (setOut c bs s).links = s.links := rfl
@[simp] theorem setOut_mem (c : Cmd) (bs : List Byte) : (setOut c bs s).mem = s.mem := rfl
@[simp] theorem setOut_bays (c : Cmd) (bs : List Byte) : (setOut c bs s).bays = s.bays := rfl
@[simp] theorem setOut_cores (c : Cmd) (bs : List Byte) : (setOut c bs s).cores = s.cores := rfl
@[simp] theorem setOut_xings (c : Cmd) (bs : List Byte) : (setOut c bs s).xings = s.xings := rfl
@[simp] theorem setOut_hostMem (c : Cmd) (bs : List Byte) : (setOut c bs s).hostMem = s.hostMem := rfl
@[simp] theorem setOut_hostFail (c : Cmd) (bs : List Byte) : (setOut c bs s).hostFail = s.hostFail := rfl

@[simp] theorem atTime_now (t : Nat) : (atTime t s).now = max s.now t := rfl

/-! ## Reading back -/

@[simp] theorem coreOf_modCore_same (k : Nat) (f : Core → Core) :
    coreOf (modCore k f s) k = f (coreOf s k) := mapGetD_mapSet_same _ _ _ _

theorem coreOf_modCore_ne {k j : Nat} (f : Core → Core) (h : j ≠ k) : coreOf (modCore k f s) j = coreOf s j :=
  mapGetD_mapSet_ne _ _ _ _ h

@[simp] theorem pwrOf_modPwr_same (k : Nat) (f : SitePwr → SitePwr) :
    pwrOf (modPwr k f s) k = f (pwrOf s k) := mapGetD_mapSet_same _ _ _ _

theorem pwrOf_modPwr_ne {k j : Nat} (f : SitePwr → SitePwr) (h : j ≠ k) : pwrOf (modPwr k f s) j = pwrOf s j :=
  mapGetD_mapSet_ne _ _ _ _ h

@[simp] theorem linkOf_modLink_same (k : Nat) (f : Link → Link) :
    linkOf (modLink k f s) k = f (linkOf s k) := mapGetD_mapSet_same _ _ _ _

theorem linkOf_modLink_ne {k j : Nat} (f : Link → Link) (h : j ≠ k) : linkOf (modLink k f s) j = linkOf s j :=
  mapGetD_mapSet_ne _ _ _ _ h

@[simp] theorem engineOf_modEngine_same (k : Nat) (f : EmbEngine → EmbEngine) :
    engineOf (modEngine k f s) k = f (engineOf s k) := mapGetD_mapSet_same _ _ _ _

theorem engineOf_modEngine_ne {k j : Nat} (f : EmbEngine → EmbEngine) (h : j ≠ k) : engineOf (modEngine k f s) j = engineOf s j :=
  mapGetD_mapSet_ne _ _ _ _ h

@[simp] theorem hotOf_modHot_same (k : Nat) (f : HotState → HotState) :
    hotOf (modHot k f s) k = f (hotOf s k) := mapGetD_mapSet_same _ _ _ _

theorem hotOf_modHot_ne {k j : Nat} (f : HotState → HotState) (h : j ≠ k) : hotOf (modHot k f s) j = hotOf s j :=
  mapGetD_mapSet_ne _ _ _ _ h

@[simp] theorem procOf_modProc_same (k : Nat) (f : Proc → Proc) :
    procOf (modProc k f s) k = f (procOf s k) := mapGetD_mapSet_same _ _ _ _

theorem procOf_modProc_ne {k j : Nat} (f : Proc → Proc) (h : j ≠ k) : procOf (modProc k f s) j = procOf s j :=
  mapGetD_mapSet_ne _ _ _ _ h

@[simp] theorem storeOf_modStore_same (k : Nat) (f : StoreDie → StoreDie) :
    storeOf (modStore k f s) k = f (storeOf s k) := mapGetD_mapSet_same _ _ _ _

theorem storeOf_modStore_ne {k j : Nat} (f : StoreDie → StoreDie) (h : j ≠ k) : storeOf (modStore k f s) j = storeOf s j :=
  mapGetD_mapSet_ne _ _ _ _ h

@[simp] theorem coreOf_setCore_same (k : Nat) (c : Core) : coreOf (setCore k c s) k = c :=
  mapGetD_mapSet_same _ _ _ _

theorem coreOf_setCore_ne {k j : Nat} (c : Core) (h : j ≠ k) : coreOf (setCore k c s) j = coreOf s j :=
  mapGetD_mapSet_ne _ _ _ _ h

@[simp] theorem bayOf_setBay_same (i : Nat) (b : Bay) : bayOf (setBay i b s) i = some b := mapGet?_mapPut_same _ _ _

theorem bayOf_setBay_ne {i j : Nat} (b : Bay) (h : j ≠ i) : bayOf (setBay i b s) j = bayOf s j :=
  mapGet?_mapPut_ne _ _ h

theorem entryAt_modEntry_same {i : Nat} (f : SiteEntry → SiteEntry) (h : i < s.fp.entries.length) :
    entryAt (modEntry i f s) i = f (entryAt s i) := by
  simp [entryAt, modEntry, modAt, List.getD_eq_getElem?_getD, h]

theorem entryAt_modEntry_ne {i j : Nat} (f : SiteEntry → SiteEntry) (h : j ≠ i) :
    entryAt (modEntry i f s) j = entryAt s j := by
  simp [entryAt, modEntry, modAt, List.getD_eq_getElem?_getD, List.getElem?_modify, h.symm]

@[simp] theorem hostRead_hostWrite (a : Nat) (bs : List Byte) :
    hostRead (hostWrite a bs s) a bs.length = bs := memRead_memWrite _ _ _

/-- The keys of cores still rise after a core is replaced. -/
theorem keysRise_setCore (k : Nat) (c : Core) (h : keysRise s.cores = true) : keysRise (setCore k c s).cores = true :=
  keysRise_mapSet _ _ _ _ h

theorem keysRise_modCore (k : Nat) (f : Core → Core) (h : keysRise s.cores = true) :
    keysRise (modCore k f s).cores = true := keysRise_mapSet _ _ _ _ h

end Sys2Proof.Laws
end

