-- ==== Sys2Proof/Laws/Cores.lean ====
section
/-! SUPPORT. What the shared operations of the cores do: the ones that only count and report, the walk, and the tags. -/

namespace Sys2Proof.Laws

open Machine

/-! ## Reports -/

/-- Two cores differ at most in the cause of a fault hold and in the rows to be retested. -/
def CoreMarked (c d : Core) : Prop := ∃ x su, d = { c with st := { c.st with faultCause := x }, suspects := su }

/-- Two cores differ at most in their status counters and in the rows to be retested. -/
def CoreSame (c d : Core) : Prop := ∃ st su, d = { c with st := st, suspects := su }

theorem CoreMarked.refl (c : Core) : CoreMarked c c := ⟨c.st.faultCause, c.suspects, rfl⟩

theorem CoreMarked.trans {c d e : Core} (h : CoreMarked c d) (k : CoreMarked d e) : CoreMarked c e := by
  obtain ⟨a, b, rfl⟩ := h
  obtain ⟨a', b', rfl⟩ := k
  exact ⟨a', b', rfl⟩

theorem CoreMarked.same {c d : Core} (h : CoreMarked c d) : CoreSame c d := by
  obtain ⟨a, b, rfl⟩ := h
  exact ⟨_, b, rfl⟩

theorem CoreSame.refl (c : Core) : CoreSame c c := ⟨c.st, c.suspects, rfl⟩

theorem CoreSame.trans {c d e : Core} (h : CoreSame c d) (k : CoreSame d e) : CoreSame c e := by
  obtain ⟨a, b, rfl⟩ := h
  obtain ⟨a', b', rfl⟩ := k
  exact ⟨a', b', rfl⟩

/-- From `s` to `t` no core changes but in its status counters and its rows to be retested, and no crossing changes. -/
structure Reports (s t : State) : Prop where
  core : ∀ j, CoreSame (coreOf s j) (coreOf t j)
  xings : t.xings = s.xings

/-- From `s` to `t` no core changes but in the cause of a fault hold and in its rows to be retested, and no crossing changes. -/
structure Marks (s t : State) : Prop where
  core : ∀ j, CoreMarked (coreOf s j) (coreOf t j)
  xings : t.xings = s.xings

theorem Marks.reports {s t : State} (h : Marks s t) : Reports s t := ⟨fun j => (h.core j).same, h.xings⟩

theorem Marks.refl (s : State) : Marks s s := ⟨fun _ => CoreMarked.refl _, rfl⟩

theorem Marks.trans {s t u : State} (h : Marks s t) (k : Marks t u) : Marks s u :=
  ⟨fun j => (h.core j).trans (k.core j), k.xings.trans h.xings⟩

theorem Reports.refl (s : State) : Reports s s := ⟨fun _ => CoreSame.refl _, rfl⟩

theorem Reports.trans {s t u : State} (h : Reports s t) (k : Reports t u) : Reports s u :=
  ⟨fun j => (h.core j).trans (k.core j), k.xings.trans h.xings⟩

theorem coreOf_of_cores {s t : State} (h : t.cores = s.cores) (j : Nat) : coreOf t j = coreOf s j := by
  unfold coreOf
  rw [h]

theorem Marks.of_same {s t : State} (h : t.cores = s.cores) (k : t.xings = s.xings) : Marks s t :=
  ⟨fun j => by rw [coreOf_of_cores h]; exact CoreMarked.refl _, k⟩

theorem Marks.modCore {s : State} {k : Nat} {f : Core → Core} (h : ∀ c, CoreMarked c (f c)) :
    Marks s (Machine.modCore k f s) := by
  refine ⟨fun j => ?_, rfl⟩
  by_cases e : j = k
  · subst e
    rw [coreOf_modCore_same]
    exact h _
  · rw [coreOf_modCore_ne s f e]
    exact CoreMarked.refl _

theorem Marks.foldl {α : Type} (f : State → α → State) (l : List α) (h : ∀ s a, Marks s (f s a)) (s : State) :
    Marks s (l.foldl f s) := by
  induction l generalizing s with
  | nil => exact Marks.refl s
  | cons a l ih => exact (h s a).trans (ih _)

theorem marks_faultCoreBay (code k c : Nat) (s : State) : Marks s (faultCoreBay code k c s) := by
  unfold faultCoreBay
  split <;> exact Marks.of_same rfl rfl

theorem marks_reportUncorrectable (r : LogRec) (s : State) : Marks s (reportUncorrectable r s) := by
  have h := within_reportUncorrectable (S := [.host, .ev, .fw, .err, .hostMem, .bootLog]) (r := r)
    (res := none) ((Covers.self _).mono (by decide)) (Within.refl _ s)
  exact Marks.of_same (h.frame .cores (by decide)) (h.frame .xings (by decide))

theorem marks_reportCorrected (n : Nat) (r : LogRec) (s : State) : Marks s (reportCorrected n r s) := by
  have h := within_reportCorrected (S := [.host, .ev, .fw, .err, .hostMem, .bootLog]) (site := n) (r := r)
    ((Covers.self _).mono (by decide)) (Within.refl _ s)
  exact Marks.of_same (h.frame .cores (by decide)) (h.frame .xings (by decide))

theorem coreMarked_setCause (n : Nat) (c : Core) : CoreMarked c { c with st := setCause n c.st } := by
  unfold setCause
  split
  · exact ⟨_, _, rfl⟩
  · exact CoreMarked.refl c

theorem marks_coreError (k t cls unit off : Nat) (inj : Bool) (s : State) :
    Marks s (coreError k t cls unit off inj s) := by
  unfold coreError
  exact ((Marks.modCore (coreMarked_setCause 3)).trans (marks_faultCoreBay _ _ _ _)).trans
    (marks_reportUncorrectable _ _)

theorem marks_suspectRow (k r : Nat) (s : State) : Marks s (suspectRow k r s) := Marks.modCore (fun _ => ⟨_, _, rfl⟩)

theorem marks_examine (p : Nat) (f : Injection → Bool) (s : State) : Marks s (examine p f s).2 := by
  have h := within_examine (S := [.host, .ev, .fw, .err, .hostMem, .bootLog]) (point := p) (f := f)
    ((Covers.self _).mono (by decide)) (Within.refl _ s)
  exact Marks.of_same (h.frame .cores (by decide)) (h.frame .xings (by decide))

theorem marks_examineInj (p : Nat) (f : Injection → Bool) (s : State) : Marks s (examineInj p f s).2 := by
  have h := within_examineInj (S := [.host, .ev, .fw, .err, .hostMem, .bootLog]) (point := p) (f := f)
    ((Covers.self _).mono (by decide)) (Within.refl _ s)
  exact Marks.of_same (h.frame .cores (by decide)) (h.frame .xings (by decide))

theorem Marks.ite {s t u : State} {c : Prop} [Decidable c] (h : Marks s t) (k : Marks s u) :
    Marks s (if c then t else u) := by
  split
  · exact h
  · exact k

theorem marks_examineParity (k t n : Nat) (s : State) : Marks s (examineParity k t n s) := by
  unfold examineParity
  exact Marks.ite ((marks_examine _ _ _).trans (marks_coreError _ _ _ _ _ _ _)) (Marks.refl s)

theorem marks_examineAcc (k t n : Nat) (s : State) : Marks s (examineAcc k t n s) := by
  unfold examineAcc
  exact Marks.ite ((marks_examine _ _ _).trans (marks_coreError _ _ _ _ _ _ _)) (Marks.refl s)

theorem marks_examineItem (k t n : Nat) (s : State) : Marks s (examineItem k t n s) := by
  unfold examineItem
  exact Marks.ite ((marks_examine _ _ _).trans (marks_coreError _ _ _ _ _ _ _)) (Marks.refl s)

theorem marks_examineXing (k t n : Nat) (s : State) : Marks s (examineXing k t n s) := by
  unfold examineXing
  exact Marks.ite ((marks_examine _ _ _).trans (marks_coreError _ _ _ _ _ _ _)) (Marks.refl s)

/-- What the read of a row does after its corrected words are reported. -/
theorem marks_badRow (k t : Nat) (q : Nat × Nat) (f : Injection → Bool) (s : State) :
    Marks s (match (coreOf (examineInj 2 f s).2 q.1).badWords.find? (fun w => w / 64 == q.2) with
      | some w => coreError k t 2 (coreBit q.1) (8 * w) false (suspectRow q.1 q.2 (examineInj 2 f s).2)
      | none =>
        match (examineInj 2 f s).1 with
        | some j => coreError k t 2 (coreBit q.1) j.addr true (suspectRow q.1 q.2 (examineInj 2 f s).2)
        | none => (examineInj 2 f s).2) := by
  refine (marks_examineInj 2 f s).trans ?_
  split
  · exact (marks_suspectRow _ _ _).trans (marks_coreError _ _ _ _ _ _ _)
  · split
    · exact (marks_suspectRow _ _ _).trans (marks_coreError _ _ _ _ _ _ _)
    · exact Marks.refl _

theorem marks_examineRow (k d t : Nat) (s : State) : Marks s (examineRow k d t s) := by
  refine Marks.trans ?_ (marks_badRow k t (rowPlace k d) _ _)
  dsimp only
  split
  · exact (marks_examineInj _ _ _).trans (marks_reportCorrected _ _ _)
  · exact Marks.refl s

theorem marks_checkReads (k : Nat) (l : List (Nat × Nat)) (s : State) : Marks s (checkReads k l s) :=
  Marks.foldl _ l (fun s a => marks_examineRow k a.1 a.2 s) s

theorem marks_examineOp (k t : Nat) (kind : OpKind) (s : State) : Marks s (examineOp k t kind s) := by
  unfold examineOp
  exact Marks.ite ((marks_examineParity _ _ _ _).trans (marks_examineParity _ _ _ _)) (marks_examineParity _ _ _ _)

theorem marks_checkLate (k t : Nat) (s : State) : Marks s (checkLate k t s) :=
  (Marks.modCore (coreMarked_setCause 1)).trans (marks_faultCoreBay _ _ _ _)

theorem Reports.of_same {s t : State} (h : t.cores = s.cores) (k : t.xings = s.xings) : Reports s t :=
  (Marks.of_same h k).reports

theorem Reports.modCore {s : State} {k : Nat} {f : Core → Core} (h : ∀ c, CoreSame c (f c)) :
    Reports s (Machine.modCore k f s) := by
  refine ⟨fun j => ?_, rfl⟩
  by_cases e : j = k
  · subst e
    rw [coreOf_modCore_same]
    exact h _
  · rw [coreOf_modCore_ne s f e]
    exact CoreSame.refl _

theorem Reports.foldl {α : Type} (f : State → α → State) (l : List α) (h : ∀ s a, Reports s (f s a)) (s : State) :
    Reports s (l.foldl f s) := by
  induction l generalizing s with
  | nil => exact Reports.refl s
  | cons a l ih => exact (h s a).trans (ih _)

theorem Reports.ite {s t u : State} {c : Prop} [Decidable c] (h : Reports s t) (k : Reports s u) :
    Reports s (if c then t else u) := by
  split
  · exact h
  · exact k

theorem reports_noteEvent (k cls sub index cycle detail : Nat) (f : CoreStatus → CoreStatus) (s : State) :
    Reports s (noteEvent k cls sub index cycle detail f s) := by
  unfold noteEvent
  split
  · split
    · exact Reports.of_same rfl rfl
    · exact Reports.modCore (fun _ => ⟨_, _, rfl⟩)
  · exact Reports.modCore (fun _ => ⟨_, _, rfl⟩)

theorem reports_expectTag (k slot : Nat) (full : Bool) (index t : Nat) (s : State) :
    Reports s (expectTag k slot full index t s) :=
  Reports.ite (Reports.refl s) (reports_noteEvent _ _ _ _ _ _ _ _)

/-! ## Faults -/

@[simp] theorem faultCoreBay_cores (code k c : Nat) (s : State) : (faultCoreBay code k c s).cores = s.cores := by
  unfold faultCoreBay
  split <;> rfl

@[simp] theorem coreOf_faultCoreBay (code k c : Nat) (s : State) (j : Nat) :
    coreOf (faultCoreBay code k c s) j = coreOf s j := coreOf_of_cores (faultCoreBay_cores _ _ _ _) j

/-- The bay of a core after that bay is replaced. -/
theorem bayOfCore_setBay {s : State} {k i : Nat} {b b' : Bay} (h : bayOfCore s k = some (i, b)) (hb : inBay b' k = true) :
    bayOfCore (setBay i b' s) k = some (i, b') := by
  unfold bayOfCore at *
  show List.find? _ (mapPut s.bays i b') = _
  revert h
  generalize s.bays = l
  intro h
  induction l with
  | nil => cases h
  | cons p l ih =>
    obtain ⟨j, w⟩ := p
    rw [List.find?_cons] at h
    simp only [mapPut]
    split
    · rw [List.find?_cons]
      simp only [hb]
    · split
      · rw [List.find?_cons]
        simp only [hb]
      · rename_i hn
        split at h
        · simp only [Option.some.injEq, Prod.mk.injEq] at h
          exact absurd h.1.symm hn
        · rename_i hw
          rw [List.find?_cons]
          simp only [hw]
          exact ih h

theorem inBay_faultBay (code k c : Nat) (b : Bay) (j : Nat) : inBay (faultBay code k c b) j = inBay b j := by
  unfold faultBay
  split <;> rfl

theorem faultBay_hazard (code k c : Nat) (b : Bay) : (faultBay code k c b).hazard = b.hazard := by
  unfold faultBay
  split <;> rfl

theorem faultBay_mode (code k c : Nat) (b : Bay) : (faultBay code k c b).mode = b.mode := by
  unfold faultBay
  split <;> rfl

theorem bayOfCore_of_bays {s t : State} (h : t.bays = s.bays) (j : Nat) : bayOfCore t j = bayOfCore s j := by
  unfold bayOfCore
  rw [h]

theorem bayOfCore_inBay {s : State} {k i : Nat} {b : Bay} (h : bayOfCore s k = some (i, b)) : inBay b k = true :=
  List.find?_some (p := fun p : Nat × Bay => inBay p.2 k) h

theorem faultCoreBay_bay {s : State} {code k c i : Nat} {b : Bay} (h : bayOfCore s k = some (i, b)) :
    bayOfCore (faultCoreBay code k c s) k = some (i, faultBay code k c b)
      ∧ bayOf (faultCoreBay code k c s) i = some (faultBay code k c b) := by
  unfold faultCoreBay
  rw [h]
  exact ⟨bayOfCore_setBay h (by rw [inBay_faultBay]; exact bayOfCore_inBay h), bayOf_setBay_same _ _ _⟩

theorem checkLate_core (k t : Nat) (s : State) :
    coreOf (checkLate k t s) k = { coreOf s k with st := setCause 1 (coreOf s k).st }
      ∧ (∀ j, j ≠ k → coreOf (checkLate k t s) j = coreOf s j)
      ∧ ∀ i b, bayOfCore s k = some (i, b) → bayOf (checkLate k t s) i = some (faultBay 1 k t b) := by
  unfold checkLate
  refine ⟨by rw [coreOf_faultCoreBay, coreOf_modCore_same], fun j h => ?_, fun i b h => ?_⟩
  · rw [coreOf_faultCoreBay, coreOf_modCore_ne _ _ h]
  · exact (faultCoreBay_bay (s := modCore k _ s) h).2

/-- Two bays differ at most in their fault. -/
def BayMarked (b d : Bay) : Prop := ∃ x y z, d = { b with fault := x, faultCore := y, faultDue := z }

theorem BayMarked.refl (b : Bay) : BayMarked b b := ⟨_, _, _, rfl⟩

theorem BayMarked.trans {b d e : Bay} (h : BayMarked b d) (k : BayMarked d e) : BayMarked b e := by
  obtain ⟨_, _, _, rfl⟩ := h
  obtain ⟨x, y, z, rfl⟩ := k
  exact ⟨x, y, z, rfl⟩

theorem bayMarked_faultBay (code k c : Nat) (b : Bay) : BayMarked b (faultBay code k c b) := by
  unfold faultBay
  split
  · exact BayMarked.refl b
  · exact ⟨_, _, _, rfl⟩

theorem coreError_bay {k t cls unit off i : Nat} {inj : Bool} {s : State} {b : Bay} (h : bayOfCore s k = some (i, b)) :
    ∃ d, bayOfCore (coreError k t cls unit off inj s) k = some (i, d) ∧ BayMarked b d := by
  refine ⟨faultBay 4 k t b, ?_, bayMarked_faultBay _ _ _ _⟩
  unfold coreError
  rw [bayOfCore_of_bays ((within_reportUncorrectable (S := [.host, .ev, .fw, .err, .hostMem, .bootLog]) (res := none)
    ((Covers.self _).mono (by decide)) (Within.refl _ _)).frame .bays (by decide))]
  exact (faultCoreBay_bay (s := modCore k _ s) h).1

theorem examineParity_bay {k t n i : Nat} {s : State} {b : Bay} (h : bayOfCore s k = some (i, b)) :
    ∃ d, bayOfCore (examineParity k t n s) k = some (i, d) ∧ BayMarked b d := by
  unfold examineParity
  dsimp only
  split
  · refine coreError_bay ?_
    rw [bayOfCore_of_bays ((within_examine (S := [.host, .ev, .fw, .err, .hostMem, .bootLog])
      ((Covers.self _).mono (by decide)) (Within.refl _ _)).frame .bays (by decide))]
    exact h
  · exact ⟨b, h, BayMarked.refl b⟩

theorem examineOp_bay {k t i : Nat} {kind : OpKind} {s : State} {b : Bay} (h : bayOfCore s k = some (i, b)) :
    ∃ d, bayOfCore (examineOp k t kind s) k = some (i, d) ∧ BayMarked b d := by
  unfold examineOp
  obtain ⟨d, hd, hb⟩ := examineParity_bay (t := t) (n := 0) h
  dsimp only
  split
  · obtain ⟨e, he, hc⟩ := examineParity_bay (t := t) (n := 1) hd
    exact ⟨e, he, hb.trans hc⟩
  · exact ⟨d, hd, hb⟩

theorem bayOf_of_bays {s t : State} (h : t.bays = s.bays) (i : Nat) : bayOf t i = bayOf s i := by
  unfold bayOf
  rw [h]

/-! ## The issue stage -/

/-- What the issue stage's advance leaves of a core: all but the walks of the sequencer and of the peg lookahead, and the
reservations that it releases. -/
def CoreIssued (c d : Core) : Prop :=
  ∃ q x y, d = { c with seq := q, ax := { c.ax with reserved := x }, rt := { c.rt with ahead := y } }
    ∧ q = { c.seq with issue := q.issue, ahead := q.ahead, recs := q.recs }

theorem CoreIssued.refl (c : Core) : CoreIssued c c := ⟨c.seq, c.ax.reserved, c.rt.ahead, rfl, rfl⟩

theorem CoreIssued.trans {c d e : Core} (h : CoreIssued c d) (k : CoreIssued d e) : CoreIssued c e := by
  obtain ⟨q, x, y, rfl, hq⟩ := h
  obtain ⟨q', x', y', rfl, hq'⟩ := k
  refine ⟨q', x', y', rfl, ?_⟩
  rw [hq', hq]

/-- A release leaves the cores but for the reservations of the core. -/
theorem releaseAhead_core (k : Nat) (r : AheadRec) (s : State) :
    releaseAhead k r s = { modCore k (fun c => { c with ax := { c.ax with reserved := c.ax.reserved - r.reserved } }) s with
      xings := (releaseAhead k r s).xings } := by
  unfold releaseAhead
  generalize modCore k _ s = t
  induction r.claims generalizing t with
  | nil => rfl
  | cons d l ih =>
    rw [List.foldl_cons, ih]
    rfl

theorem coreOf_xings (s : State) (x : List Crossing) (j : Nat) : coreOf { s with xings := x } j = coreOf s j := rfl

theorem releaseAhead_same (k : Nat) (r : AheadRec) (s : State) :
    coreOf (releaseAhead k r s) k = { coreOf s k with ax := { (coreOf s k).ax with
      reserved := (coreOf s k).ax.reserved - r.reserved } } := by
  rw [releaseAhead_core, coreOf_xings, coreOf_modCore_same]

theorem releaseAhead_ne {k j : Nat} (r : AheadRec) (s : State) (h : j ≠ k) : coreOf (releaseAhead k r s) j = coreOf s j := by
  rw [releaseAhead_core, coreOf_xings, coreOf_modCore_ne _ _ h]

theorem releaseAhead_bays (k : Nat) (r : AheadRec) (s : State) : (releaseAhead k r s).bays = s.bays := by
  rw [releaseAhead_core]
  rfl

theorem releaseAll_same (k : Nat) (l : List AheadRec) (s : State) :
    (∃ x, coreOf (l.foldl (fun s r => releaseAhead k r s) s) k
      = { coreOf s k with ax := { (coreOf s k).ax with reserved := x } })
    ∧ (∀ j, j ≠ k → coreOf (l.foldl (fun s r => releaseAhead k r s) s) j = coreOf s j)
    ∧ (l.foldl (fun s r => releaseAhead k r s) s).bays = s.bays := by
  induction l generalizing s with
  | nil => exact ⟨⟨_, rfl⟩, fun _ _ => rfl, rfl⟩
  | cons r l ih =>
    obtain ⟨⟨x, hx⟩, hj, hb⟩ := ih (releaseAhead k r s)
    refine ⟨⟨x, ?_⟩, fun j h => ?_, ?_⟩
    · rw [List.foldl_cons, hx, releaseAhead_same]
    · rw [List.foldl_cons, hj j h, releaseAhead_ne r s h]
    · rw [List.foldl_cons, hb, releaseAhead_bays]

/-- What `leaveWalk` does: the core's issue stage has the walk, and nothing else of any core changes but the lookahead and the
reservations. -/
theorem leaveWalk_core (k t : Nat) (w : Walker) (s : State) :
    (coreOf (leaveWalk k t w s) k).seq.issue = w ∧ CoreIssued (coreOf s k) (coreOf (leaveWalk k t w s) k)
      ∧ (∀ j, j ≠ k → coreOf (leaveWalk k t w s) j = coreOf s j) ∧ (leaveWalk k t w s).bays = s.bays := by
  unfold leaveWalk
  obtain ⟨⟨x, hx⟩, hj, hb⟩ :=
    releaseAll_same k (skipPast (coreOf s k) t (horizon + 2) w (coreOf s k).seq.recs.tail []).2.2 s
  refine ⟨by rw [coreOf_modCore_same]; rfl, ?_, fun j h => ?_, hb⟩
  · rw [coreOf_modCore_same, hx]
    exact ⟨_, _, _, rfl, rfl⟩
  · rw [coreOf_modCore_ne _ _ h, hj j h]

/-- What `issueAdvance` does. -/
theorem issueAdvance_core (k t : Nat) (s : State) :
    (coreOf (issueAdvance k t s) k).seq.issue = walkNext (coreOf s k)
        (issueChoice (coreOf s k) (opAt (coreOf s k) (coreOf s k).seq.issue.idx) t) (coreOf s k).seq.issue
      ∧ CoreIssued (coreOf s k) (coreOf (issueAdvance k t s) k)
      ∧ (∀ j, j ≠ k → coreOf (issueAdvance k t s) j = coreOf s j) ∧ (issueAdvance k t s).bays = s.bays := by
  unfold issueAdvance
  dsimp only
  split
  · refine ⟨by rw [coreOf_setCore_same], ?_, fun j h => coreOf_setCore_ne _ _ h, rfl⟩
    rw [coreOf_setCore_same]
    exact ⟨_, _, _, rfl, rfl⟩
  · split
    · refine ⟨by rw [coreOf_setCore_same], ?_, fun j h => coreOf_setCore_ne _ _ h, rfl⟩
      rw [coreOf_setCore_same]
      exact ⟨_, _, _, rfl, rfl⟩
    · split
      · exact leaveWalk_core _ _ _ _
      · refine ⟨by rw [coreOf_setCore_same], ?_, fun j h => coreOf_setCore_ne _ _ h, rfl⟩
        rw [coreOf_setCore_same]
        exact ⟨_, _, _, rfl, rfl⟩

/-- Outside CLOOP the advance of the issue stage releases nothing. -/
theorem issueAdvance_ax (k t : Nat) (s : State) (h : opKind (opAt (coreOf s k) (coreOf s k).seq.issue.idx) ≠ some .cloop) :
    (coreOf (issueAdvance k t s) k).ax = (coreOf s k).ax := by
  unfold issueAdvance
  dsimp only
  split
  · rw [coreOf_setCore_same]
  · split
    · rw [coreOf_setCore_same]
    · split
      · rename_i e
        exact absurd e.1 h
      · rw [coreOf_setCore_same]

/-- What `issueRun` does for an operation that is due. -/
theorem issueRun_some {k t : Nat} {kind : OpKind} {f : BitVec 128 → State → State}
    {g : BitVec 128 → AheadRec → State → State} {s s1 : State} {o : BitVec 128} {shim : Bool} {r : AheadRec}
    (h : issueEnter k t kind s = some (o, shim, r, s1)) :
    issueRun k t kind f g s = .next (issueAdvance k t
      (if shim then f o (if r.shim then s1 else releaseAhead k r s1)
       else if (opChk o && !chkMet s1 k o t (fun x => x.accepted.length)) = true then checkLate k t s1
       else g o r (examineOp k t kind s1))) := by
  unfold issueRun
  rw [h]
  dsimp only
  cases shim <;> simp only [Bool.false_eq_true, if_false, if_true]
  split <;> rfl

/-- What `issueEnter` finds. -/
theorem issueEnter_some {k t : Nat} {kind : OpKind} {s s1 : State} {o : BitVec 128} {shim : Bool} {r : AheadRec}
    (h : issueEnter k t kind s = some (o, shim, r, s1)) :
    o = opAt (coreOf s1 k) (coreOf s1 k).seq.issue.idx ∧ opKind o = some kind
      ∧ (coreOf s1 k).seq.issue.due = t ∧ shim = walkShim (coreOf s1 k).seq.issue
      ∧ ∃ i b, enterCycle k t s = some (i, b, s1) ∧ b.mode = .running := by
  unfold issueEnter at h
  split at h
  · cases h
  · rename_i i b s' he
    dsimp only at h
    split at h
    · cases h
    · split at h
      · rename_i hc
        simp only [Option.some.injEq, Prod.mk.injEq] at h
        obtain ⟨rfl, rfl, rfl, rfl⟩ := h
        simp only [Bool.and_eq_true, beq_iff_eq] at hc
        exact ⟨rfl, hc.1.1.2, hc.1.1.1.2, rfl, i, b, he, hc.1.1.1.1.1⟩
      · cases h

/-- The walk depends on a core by its operation store alone. -/
theorem walkNext_image {c d : Core} (h : c.image = d.image) (ch : WalkChoice) (w : Walker) :
    walkNext c ch w = walkNext d ch w := by
  have e1 : ∀ i, opAt c i = opAt d i := fun i => by unfold opAt; rw [h]
  have e2 : ∀ b w, walkDue c b w = walkDue d b w := fun b w => by
    unfold walkDue
    rw [h]
    simp only [e1]
  unfold walkNext
  rw [e1]
  exact e2 _ _

/-! ## What reports leave -/

/-- Reads of rows by a core leave every other core but for its rows to be retested. -/
theorem examineRow_ne {k j : Nat} (d t : Nat) (s : State) (h : j ≠ k) :
    ∃ su, coreOf (examineRow k d t s) j = { coreOf s j with suspects := su } := by
  have key : ∀ cls unit off inj s0, coreOf (coreError k t cls unit off inj s0) j = coreOf s0 j := by
    intro cls unit off inj s0
    unfold coreError
    rw [coreOf_of_cores ((within_reportUncorrectable (S := [.host, .ev, .fw, .err, .hostMem, .bootLog]) (res := none)
      ((Covers.self _).mono (by decide)) (Within.refl _ _)).frame .cores (by decide)),
      coreOf_faultCoreBay, coreOf_modCore_ne _ _ h]
  have sus : ∀ q r s0, ∃ su, coreOf (suspectRow q r s0) j = { coreOf s0 j with suspects := su } := by
    intro q r s0
    unfold suspectRow
    by_cases e : j = q
    · subst e
      rw [coreOf_modCore_same]
      exact ⟨_, rfl⟩
    · rw [coreOf_modCore_ne _ _ e]
      exact ⟨_, rfl⟩
  have inj : ∀ p f s0, coreOf (examineInj p f s0).2 j = coreOf s0 j := fun p f s0 =>
    coreOf_of_cores ((within_examineInj (S := [.host, .ev, .fw, .err, .hostMem, .bootLog])
      ((Covers.self _).mono (by decide)) (Within.refl _ _)).frame .cores (by decide)) j
  have bad : ∀ (q : Nat × Nat) f s0, ∃ su, coreOf (match (coreOf (examineInj 2 f s0).2 q.1).badWords.find?
      (fun w => w / 64 == q.2) with
      | some w => coreError k t 2 (coreBit q.1) (8 * w) false (suspectRow q.1 q.2 (examineInj 2 f s0).2)
      | none =>
        match (examineInj 2 f s0).1 with
        | some x => coreError k t 2 (coreBit q.1) x.addr true (suspectRow q.1 q.2 (examineInj 2 f s0).2)
        | none => (examineInj 2 f s0).2) j = { coreOf s0 j with suspects := su } := by
    intro q f s0
    obtain ⟨su, hs⟩ := sus q.1 q.2 (examineInj 2 f s0).2
    rw [inj] at hs
    split
    · exact ⟨su, by rw [key, hs]⟩
    · split
      · exact ⟨su, by rw [key, hs]⟩
      · exact ⟨_, by rw [inj]⟩
  obtain ⟨su, hb⟩ := bad (rowPlace k d) (fun x => aimsCore (rowPlace k d).1 x && x.addr / 512 == (rowPlace k d).2)
    (match (examineInj 1 (fun x => aimsCore (rowPlace k d).1 x && x.addr / 512 == (rowPlace k d).2) s).1 with
    | some x => reportCorrected (siteOfCore (rowPlace k d).1)
        (logCore (rowPlace k d).1
          (examineInj 1 (fun x => aimsCore (rowPlace k d).1 x && x.addr / 512 == (rowPlace k d).2) s).2
          { logBlank 1 with injected := true, unit := coreBit (rowPlace k d).1, addr := x.addr })
        (examineInj 1 (fun x => aimsCore (rowPlace k d).1 x && x.addr / 512 == (rowPlace k d).2) s).2
    | none => s)
  refine ⟨su, hb.trans ?_⟩
  split
  · rw [coreOf_of_cores ((within_reportCorrected (S := [.host, .ev, .fw, .err, .hostMem, .bootLog])
      ((Covers.self _).mono (by decide)) (Within.refl _ _)).frame .cores (by decide)), inj]
  · rfl

theorem checkReads_ne {k j : Nat} (l : List (Nat × Nat)) (s : State) (h : j ≠ k) :
    ∃ su, coreOf (checkReads k l s) j = { coreOf s j with suspects := su } := by
  unfold checkReads
  induction l generalizing s with
  | nil => exact ⟨_, rfl⟩
  | cons p l ih =>
    obtain ⟨a, ha⟩ := ih (examineRow k p.1 p.2 s)
    obtain ⟨b, hb⟩ := examineRow_ne p.1 p.2 s h
    exact ⟨a, by rw [List.foldl_cons, ha, hb]⟩

/-- The reports of parity and of tag tests leave every other core. -/
theorem examineParity_ne {k j : Nat} (t n : Nat) (s : State) (h : j ≠ k) :
    coreOf (examineParity k t n s) j = coreOf s j := by
  unfold examineParity
  dsimp only
  split
  · unfold coreError
    rw [coreOf_of_cores ((within_reportUncorrectable (S := [.host, .ev, .fw, .err, .hostMem, .bootLog]) (res := none)
      ((Covers.self _).mono (by decide)) (Within.refl _ _)).frame .cores (by decide)),
      coreOf_faultCoreBay, coreOf_modCore_ne _ _ h,
      coreOf_of_cores ((within_examine (S := [.host, .ev, .fw, .err, .hostMem, .bootLog])
        ((Covers.self _).mono (by decide)) (Within.refl _ _)).frame .cores (by decide))]
  · rfl

theorem examineOp_ne {k j : Nat} (t : Nat) (kind : OpKind) (s : State) (h : j ≠ k) :
    coreOf (examineOp k t kind s) j = coreOf s j := by
  unfold examineOp
  dsimp only
  split
  · rw [examineParity_ne _ _ _ h, examineParity_ne _ _ _ h]
  · rw [examineParity_ne _ _ _ h]

theorem noteEvent_ne {k j : Nat} (cls sub index cycle detail : Nat) (f : CoreStatus → CoreStatus) (s : State) (h : j ≠ k) :
    coreOf (noteEvent k cls sub index cycle detail f s) j = coreOf s j := by
  unfold noteEvent
  split
  · split
    · rfl
    · rw [coreOf_modCore_ne _ _ h]
  · rw [coreOf_modCore_ne _ _ h]

theorem expectTag_ne {k j : Nat} (slot : Nat) (full : Bool) (index t : Nat) (s : State) (h : j ≠ k) :
    coreOf (expectTag k slot full index t s) j = coreOf s j := by
  unfold expectTag
  split
  · rfl
  · exact noteEvent_ne _ _ _ _ _ _ _ h

theorem CoreMarked.image {c d : Core} (h : CoreMarked c d) : d.image = c.image := by obtain ⟨_, _, rfl⟩ := h; rfl
theorem CoreMarked.seq {c d : Core} (h : CoreMarked c d) : d.seq = c.seq := by obtain ⟨_, _, rfl⟩ := h; rfl
theorem CoreMarked.eng {c d : Core} (h : CoreMarked c d) : d.eng = c.eng := by obtain ⟨_, _, rfl⟩ := h; rfl
theorem CoreMarked.ax {c d : Core} (h : CoreMarked c d) : d.ax = c.ax := by obtain ⟨_, _, rfl⟩ := h; rfl
theorem CoreMarked.rt {c d : Core} (h : CoreMarked c d) : d.rt = c.rt := by obtain ⟨_, _, rfl⟩ := h; rfl
theorem CoreMarked.tags {c d : Core} (h : CoreMarked c d) : d.tags = c.tags := by obtain ⟨_, _, rfl⟩ := h; rfl
theorem CoreMarked.rows {c d : Core} (h : CoreMarked c d) : d.rows = c.rows := by obtain ⟨_, _, rfl⟩ := h; rfl
theorem CoreMarked.writes {c d : Core} (h : CoreMarked c d) : d.writes = c.writes := by obtain ⟨_, _, rfl⟩ := h; rfl
theorem CoreSame.image {c d : Core} (h : CoreSame c d) : d.image = c.image := by obtain ⟨_, _, rfl⟩ := h; rfl
theorem CoreSame.seq {c d : Core} (h : CoreSame c d) : d.seq = c.seq := by obtain ⟨_, _, rfl⟩ := h; rfl
theorem CoreSame.eng {c d : Core} (h : CoreSame c d) : d.eng = c.eng := by obtain ⟨_, _, rfl⟩ := h; rfl
theorem CoreSame.ax {c d : Core} (h : CoreSame c d) : d.ax = c.ax := by obtain ⟨_, _, rfl⟩ := h; rfl
theorem CoreSame.rt {c d : Core} (h : CoreSame c d) : d.rt = c.rt := by obtain ⟨_, _, rfl⟩ := h; rfl
theorem CoreSame.tags {c d : Core} (h : CoreSame c d) : d.tags = c.tags := by obtain ⟨_, _, rfl⟩ := h; rfl
theorem CoreSame.rows {c d : Core} (h : CoreSame c d) : d.rows = c.rows := by obtain ⟨_, _, rfl⟩ := h; rfl
theorem CoreSame.writes {c d : Core} (h : CoreSame c d) : d.writes = c.writes := by obtain ⟨_, _, rfl⟩ := h; rfl

/-- Rows read the same after a report. -/
theorem Reports.rowAt {s t : State} (h : Reports s t) (k d u : Nat) : rowAt t k d u = rowAt s k d u := by
  unfold Machine.rowAt coreRowAt
  dsimp only
  rw [(h.core _).rows, (h.core _).writes]

end Sys2Proof.Laws
end

