-- ==== Sys2Proof/Laws/Record.lean ====
section
/-! SUPPORT. What a change of the record leaves of an entry: its own contents, with a new ENTRY_GEN at most. -/

namespace Sys2Proof.Laws

open Machine

/-- The events of a change leave the record and the boot store's lists alone. -/
theorem announceChange_fp (sites : List Nat) (b r : Bool) (s : State) : (announceChange sites b r s).fp = s.fp :=
  (within_announceChange (S := [.host, .hostMem, .mgmt, .ev, .fw]) ((Covers.self _).mono (by decide))
    (Within.refl _ s)).frame .fp (by decide)

theorem announceChange_generation (sites : List Nat) (b r : Bool) (s : State) :
    (announceChange sites b r s).boot.generation = s.boot.generation :=
  (within_announceChange (S := [.host, .hostMem, .mgmt, .ev, .fw]) ((Covers.self _).mono (by decide))
    (Within.refl _ s)).frame .bootGeneration (by decide)

theorem announceChange_failures (sites : List Nat) (b r : Bool) (s : State) :
    (announceChange sites b r s).boot.failures = s.boot.failures :=
  (within_announceChange (S := [.host, .hostMem, .mgmt, .ev, .fw]) ((Covers.self _).mono (by decide))
    (Within.refl _ s)).frame .bootFailures (by decide)

theorem announceChange_fences (sites : List Nat) (b r : Bool) (s : State) :
    (announceChange sites b r s).boot.hostFences = s.boot.hostFences :=
  (within_announceChange (S := [.host, .hostMem, .mgmt, .ev, .fw]) ((Covers.self _).mono (by decide))
    (Within.refl _ s)).frame .bootFences (by decide)

theorem recordChange_failures (f : State → State) (s : State) :
    (recordChange f s).boot.failures = (f s).boot.failures := by
  unfold recordChange
  simp only
  split
  · rfl
  · split
    · rfl
    · rw [announceChange_failures]

theorem recordChange_fences (f : State → State) (s : State) :
    (recordChange f s).boot.hostFences = (f s).boot.hostFences := by
  unfold recordChange
  simp only
  split
  · rfl
  · split
    · rfl
    · rw [announceChange_fences]

theorem entryAt_of_fp {s t : State} (h : t.fp = s.fp) (i : Nat) : entryAt t i = entryAt s i := by
  simp only [entryAt, h]

theorem mem_changedSites {a b : List SiteEntry} {i : Nat} :
    i ∈ changedSites a b ↔ ∃ x y, a[i]? = some x ∧ b[i]? = some y ∧ x ≠ y := by
  simp only [changedSites, List.mem_filterMap]
  constructor
  · rintro ⟨⟨⟨x, y⟩, j⟩, hp, he⟩
    rw [List.mem_zipIdx_iff_getElem?] at hp
    simp only at hp he
    split at he
    · cases he
    · rename_i hne
      cases he
      rw [List.getElem?_zip_eq_some] at hp
      exact ⟨x, y, hp.1, hp.2, hne⟩
  · rintro ⟨x, y, hx, hy, hne⟩
    refine ⟨((x, y), i), ?_, by simp [hne]⟩
    rw [List.mem_zipIdx_iff_getElem?]
    simp only
    rw [List.getElem?_zip_eq_some]
    exact ⟨hx, hy⟩

/-- An entry after a change of the record is what the change made of it, with another ENTRY_GEN at most. -/
theorem recordChange_entry (f : State → State) (s : State) (j : Nat) :
    ∃ g, entryAt (recordChange f s) j = { entryAt (f s) j with entryGen := g } := by
  unfold recordChange
  simp only
  split
  · exact ⟨_, rfl⟩
  · split
    · exact ⟨_, rfl⟩
    · rw [entryAt_of_fp (announceChange_fp _ _ _ _)]
      simp only [entryAt, List.getD_eq_getElem?_getD, List.getElem?_map, List.getElem?_zipIdx]
      cases h : (f s).fp.entries[j]? with
      | none => exact ⟨_, rfl⟩
      | some e =>
        simp only [Option.map_some, Option.getD_some, Nat.zero_add]
        split
        · exact ⟨_, rfl⟩
        · exact ⟨_, rfl⟩

/-- An entry that the change leaves is left whole. -/
theorem recordChange_entry_same (f : State → State) (s : State) {j : Nat}
    (h : (f s).fp.entries[j]? = s.fp.entries[j]?) : entryAt (recordChange f s) j = entryAt s j := by
  have hn : j ∉ changedSites s.fp.entries (f s).fp.entries := by
    rw [mem_changedSites]
    rintro ⟨x, y, hx, hy, hne⟩
    rw [h, hx] at hy
    cases hy
    exact hne rfl
  unfold recordChange
  simp only
  split
  · simp [entryAt, List.getD_eq_getElem?_getD, h]
  · split
    · simp [entryAt, List.getD_eq_getElem?_getD, h]
    · rw [entryAt_of_fp (announceChange_fp _ _ _ _)]
      simp only [entryAt, List.getD_eq_getElem?_getD, List.getElem?_map, List.getElem?_zipIdx, h]
      cases s.fp.entries[j]? with
      | none => rfl
      | some e => simp [hn]

/-- Where an entry of a built record changes, GENERATION moves on. -/
theorem recordChange_generation (f : State → State) (s : State) {j : Nat} (hb : s.fp.built = true)
    (h : j ∈ changedSites s.fp.entries (f s).fp.entries) :
    (recordChange f s).boot.generation = nextGeneration s.boot.generation := by
  have hne : (changedSites s.fp.entries (f s).fp.entries).isEmpty = false := by
    cases hc : changedSites s.fp.entries (f s).fp.entries with
    | nil => rw [hc] at h; cases h
    | cons _ _ => rfl
  unfold recordChange
  simp only [hb, hne, Bool.not_true, Bool.false_and, Bool.false_eq_true, if_false]
  rw [announceChange_generation]

/-- A change that leaves the machine as it was is none: no event, no increment. -/
theorem recordChange_same (f : State → State) (s : State) (h : f s = s) : recordChange f s = s := by
  have hc : changedSites s.fp.entries s.fp.entries = [] := by
    rw [List.eq_nil_iff_forall_not_mem]
    intro i hi
    obtain ⟨x, y, hx, hy, hne⟩ := mem_changedSites.mp hi
    exact hne (Option.some.inj (hx.symm.trans hy))
  unfold recordChange
  simp [h, hc]

/-- A keystone whose entry says already whether its sensors are read stays as it is. -/
theorem settleKeystone_same (i : Nat) (s : State)
    (h : modAt s.fp.entries i
      (if !s.cool.blind.contains i && !(hotOf s (8 * i)).lost then entrySet .good 0 else entrySet .failed 5) = s.fp.entries) :
    settleKeystone i s = s := by
  unfold settleKeystone
  split
  · rfl
  · exact recordChange_same _ _ (by simp only [modEntry, h])

end Sys2Proof.Laws
end

