-- ==== Sys2Proof/Laws/Taken.lean ====
section
/-! SUPPORT. What it means that firmware has taken a command: what is changed by then, and where its output goes. -/

namespace Sys2Proof.Laws

open Machine

/-- An accepted command runs its own operation on its payload. -/
theorem runRow_accepted {op : Nat} {c : Cmd} {pay : List Byte} {s : State} (h : Accepted op c pay s)
    (body : Cmd → List Byte → State → State) : runRow c op body s = .next (body c pay (takeCmd c s)) := by
  obtain ⟨h1, h2, h3⟩ := h
  simp [runRow, h1, h2, runTaken, h3]

theorem canTake_new {c : Cmd} {s : State} (h : canTake c s = true) : isInProgress c s = false := by
  simp only [canTake, Bool.and_eq_true, Bool.not_eq_true'] at h
  exact h.1.2

theorem takeCmd_inProgress (c : Cmd) (s : State) :
    ∃ h, (takeCmd c s).inProgress = s.inProgress ++ [⟨c, h, [], false⟩] := by
  unfold takeCmd
  cases c.via <;> exact ⟨_, rfl⟩

theorem takenOf_takeCmd {c : Cmd} {s : State} (h : canTake c s = true) :
    ∃ h, takenOf c (takeCmd c s) = some ⟨c, h, [], false⟩ := by
  have hf : s.inProgress.find? (fun t => t.cmd == c) = none := by
    simpa [isInProgress, takenOf] using canTake_new h
  obtain ⟨hd, e⟩ := takeCmd_inProgress c s
  exact ⟨hd, by simp [takenOf, e, List.find?_append, hf]⟩

theorem takeCmd_within (c : Cmd) (s : State) : Within [.now, .host, .inProgress] s (takeCmd c s) :=
  within_takeCmd ((Covers.self _).mono (by decide)) (Within.refl _ s)

theorem takeCmd_same (c : Cmd) (s : State) (p : StatePart) (h : p ∉ [StatePart.now, .host, .inProgress]) :
    samePart p s (takeCmd c s) := (takeCmd_within c s).frame p h

theorem takeCmd_kept {c : Cmd} {s : State} (k : Kept s) : Kept (takeCmd c s) := (takeCmd_within c s).kept k

@[simp] theorem takeCmd_now (c : Cmd) (s : State) : (takeCmd c s).now = max s.now c.time := by
  unfold takeCmd
  cases c.via <;> rfl
@[simp] theorem takeCmd_freeCtr (c : Cmd) (s : State) : (takeCmd c s).freeCtr = s.freeCtr := by unfold takeCmd; cases c.via <;> rfl
@[simp] theorem takeCmd_fuses (c : Cmd) (s : State) : (takeCmd c s).fuses = s.fuses := by unfold takeCmd; cases c.via <;> rfl
@[simp] theorem takeCmd_boot (c : Cmd) (s : State) : (takeCmd c s).boot = s.boot := by unfold takeCmd; cases c.via <;> rfl
@[simp] theorem takeCmd_fp (c : Cmd) (s : State) : (takeCmd c s).fp = s.fp := by unfold takeCmd; cases c.via <;> rfl
@[simp] theorem takeCmd_mgmt (c : Cmd) (s : State) : (takeCmd c s).mgmt = s.mgmt := by unfold takeCmd; cases c.via <;> rfl
@[simp] theorem takeCmd_measure (c : Cmd) (s : State) : (takeCmd c s).measure = s.measure := by unfold takeCmd; cases c.via <;> rfl
@[simp] theorem takeCmd_ev (c : Cmd) (s : State) : (takeCmd c s).ev = s.ev := by unfold takeCmd; cases c.via <;> rfl
@[simp] theorem takeCmd_parts (c : Cmd) (s : State) : (takeCmd c s).parts = s.parts := by unfold takeCmd; cases c.via <;> rfl
@[simp] theorem takeCmd_pwr (c : Cmd) (s : State) : (takeCmd c s).pwr = s.pwr := by unfold takeCmd; cases c.via <;> rfl
@[simp] theorem takeCmd_fw (c : Cmd) (s : State) : (takeCmd c s).fw = s.fw := by unfold takeCmd; cases c.via <;> rfl
@[simp] theorem takeCmd_err (c : Cmd) (s : State) : (takeCmd c s).err = s.err := by unfold takeCmd; cases c.via <;> rfl
@[simp] theorem takeCmd_cool (c : Cmd) (s : State) : (takeCmd c s).cool = s.cool := by unfold takeCmd; cases c.via <;> rfl
@[simp] theorem takeCmd_install (c : Cmd) (s : State) : (takeCmd c s).install = s.install := by unfold takeCmd; cases c.via <;> rfl
@[simp] theorem takeCmd_installs (c : Cmd) (s : State) : (takeCmd c s).installs = s.installs := by unfold takeCmd; cases c.via <;> rfl
@[simp] theorem takeCmd_fab (c : Cmd) (s : State) : (takeCmd c s).fab = s.fab := by unfold takeCmd; cases c.via <;> rfl
@[simp] theorem takeCmd_hbms (c : Cmd) (s : State) : (takeCmd c s).hbms = s.hbms := by unfold takeCmd; cases c.via <;> rfl
@[simp] theorem takeCmd_bufs (c : Cmd) (s : State) : (takeCmd c s).bufs = s.bufs := by unfold takeCmd; cases c.via <;> rfl
@[simp] theorem takeCmd_engines (c : Cmd) (s : State) : (takeCmd c s).engines = s.engines := by unfold takeCmd; cases c.via <;> rfl
@[simp] theorem takeCmd_links (c : Cmd) (s : State) : (takeCmd c s).links = s.links := by unfold takeCmd; cases c.via <;> rfl
@[simp] theorem takeCmd_mem (c : Cmd) (s : State) : (takeCmd c s).mem = s.mem := by unfold takeCmd; cases c.via <;> rfl
@[simp] theorem takeCmd_bays (c : Cmd) (s : State) : (takeCmd c s).bays = s.bays := by unfold takeCmd; cases c.via <;> rfl
@[simp] theorem takeCmd_cores (c : Cmd) (s : State) : (takeCmd c s).cores = s.cores := by unfold takeCmd; cases c.via <;> rfl
@[simp] theorem takeCmd_xings (c : Cmd) (s : State) : (takeCmd c s).xings = s.xings := by unfold takeCmd; cases c.via <;> rfl
@[simp] theorem takeCmd_hostMem (c : Cmd) (s : State) : (takeCmd c s).hostMem = s.hostMem := by unfold takeCmd; cases c.via <;> rfl
@[simp] theorem takeCmd_hostFail (c : Cmd) (s : State) : (takeCmd c s).hostFail = s.hostFail := by unfold takeCmd; cases c.via <;> rfl
@[simp] theorem takeCmd_entryAt (c : Cmd) (s : State) (i : Nat) : entryAt (takeCmd c s) i = entryAt s i :=
  entryAt_of_fp (takeCmd_fp c s) i

/-- Bytes written to host memory stand there. -/
theorem outputIs_hostWrite {c : Cmd} {a : Nat} {bs : List Byte} {s : State} (hm : isMgmt c = false) :
    OutputIs c a bs (hostWrite a bs s) := by
  simp only [OutputIs, hm, Bool.false_eq_true, if_false]
  exact hostRead_hostWrite s a bs

theorem takenOf_setOut {c : Cmd} {bs : List Byte} {s : State} {x : Taken} (h : takenOf c s = some x) :
    takenOf c (setOut c bs s) = some { x with out := bs } := by
  simp only [takenOf, setOut] at *
  generalize s.inProgress = l at h
  induction l with
  | nil => cases h
  | cons y l ih =>
    by_cases hy : y.cmd == c
    · simp only [List.map_cons, hy, if_true, List.find?_cons]
      simp only [List.find?_cons, hy] at h
      cases h
      rfl
    · simp only [List.find?_cons, hy] at h
      simp only [List.map_cons, hy, Bool.false_eq_true, if_false, List.find?_cons]
      exact ih h

/-- Bytes kept for the RESPONSE are its output. -/
theorem outputIs_setOut {c : Cmd} {a : Nat} {bs : List Byte} {s : State} (hm : isMgmt c = true) {x : Taken}
    (h : takenOf c s = some x) : OutputIs c a bs (setOut c bs s) := by
  simp only [OutputIs, hm, if_true, takenOf_setOut h, Option.map_some]

/-- What a buffer that answers holds after it is written, with the status OK. -/
theorem writeHostBuf_answers {c : Cmd} {a : Nat} {bs : List Byte} {s : State} {x : Taken}
    (hx : takenOf c s = some x) (h : BufferAnswers c a bs.length s) :
    (writeHostBuf c a bs s).1 = stOk ∧ OutputIs c a bs (writeHostBuf c a bs s).2
      ∧ OnlyChanges [.hostMem, .inProgress] s (writeHostBuf c a bs s).2 := by
  refine ⟨?_, ?_, (within_writeHostBuf (S := [.hostMem, .inProgress]) ((Covers.self _).mono (by decide))
    (Within.refl _ s)).frame⟩
  · unfold writeHostBuf
    split
    · rfl
    · split
      · rfl
      · rcases h with h | h
        · contradiction
        · rw [h]
  · unfold writeHostBuf
    split
    · exact outputIs_setOut (by assumption) hx
    · rename_i hm
      have hm : isMgmt c = false := by simpa using hm
      split
      · rename_i he
        have : bs = [] := by simpa using he
        subst this
        simp [OutputIs, hm, hostRead, memRead]
      · rcases h with h | h
        · rw [hm] at h
          cases h
        · rw [h]
          exact outputIs_hostWrite hm

end Sys2Proof.Laws
end

