-- ==== Sys2Proof/Tests/Slice0.lean ====
section
/-! SUPPORT. Tests: ill-formed terms that the checks refuse, and for each statement with hypotheses states and operands that
meet them. -/

namespace Sys2Proof.Tests

open Machine

-- The facts below are many, and each is checked by evaluation: one at a time keeps the memory small.
set_option Elab.async false

/-! ## A panel that runs -/

/-- The sites that partition 0 owns: two compute dies, two stacks, a link die. -/
def owned : List Nat := [17, 18, siteOfStack 0, siteOfStack 1, linkSite 0]

/-- A site's entry on the panel of the tests: everything good. -/
def entryUp (i : Nat) : SiteEntry :=
  ⟨placeRole i, .good, 0, if owned.contains i then 0 else 0xFF, BitVec.allOnes 64, 0x40000000, 0xFFFF, 1⟩

/-- A panel at BRINGUP 6 with all its sites on, its processors running, version 2.0 agreed, and partition 0. -/
def ready : State := { State.reset with
  now := 1000000000
  boot := { bootZero with generation := 5, banks := copies 2 (⟨true, []⟩, ⟨false, []⟩), bootCount := 1 }
  fp := ⟨true, 0, (List.range 224).map entryUp, [], false⟩
  host := { hostZero with bringup := 6, agreed := some 0, linkMode := 1, linkWidth := 16, cxlMem := true }
  parts := { partitionZero with present := true, debug := true, inject := true } :: copies 7 partitionZero
  pwr := { powerZero with
    good := true
    switchClosed := true
    sites := ((List.range 224).filter (fun i => placeRole i != 6)).map (fun i => (i, { sitePwrOff with mode := .on })) }
  fw := { fwZero with procs := (List.range 224).map (fun n => (n, { procZero with run := .running, version := 1 })) }
  fab := { fabricZero with routes := ⟨(List.range 224).filter (fun i => placeRole i != 6), []⟩ } }

/-- A state has the form of `Kept`. -/
def keptB (s : State) : Bool :=
  memWf s.mem && memWf s.hostMem && memWf s.boot.storeMem && s.fp.entries.length == 224 && s.parts.length == 8
    && s.pwr.quads.length == 4 && keysRise s.cores && keysRise s.bays && keysRise s.pwr.sites && keysRise s.cool.hot
    && keysRise s.fw.procs && keysRise s.err.wear && keysRise s.boot.wear && keysRise s.err.missed && keysRise s.fab.hops
    && keysRise s.fab.ports && keysRise s.hbms && keysRise s.bufs && keysRise s.boot.store && keysRise s.engines
    && keysRise s.links.links && keysRise s.host.queues && keysRise s.boot.failures && keysRise s.fp.retests

theorem kept_of {s : State} (h : keptB s = true) : Kept s := by
  simp only [keptB, Bool.and_eq_true, beq_iff_eq] at h
  obtain ⟨⟨⟨⟨⟨⟨⟨⟨⟨⟨⟨⟨⟨⟨⟨⟨⟨⟨⟨⟨⟨⟨⟨h1, h2⟩, h3⟩, h4⟩, h5⟩, h6⟩, h7⟩, h8⟩, h9⟩, h10⟩, h11⟩, h12⟩, h13⟩, h14⟩, h15⟩, h16⟩, h17⟩,
    h18⟩, h19⟩, h20⟩, h21⟩, h22⟩, h23⟩, h24⟩ := h
  exact ⟨h1, h2, h3, h4, h5, h6, h7, h8, h9, h10, h11, h12, h13, h14, h15, h16, h17, h18, h19, h20, h21, h22, h23, h24⟩

theorem kept_ready : Kept ready := kept_of (by decide +kernel)

/-- A command in the mailbox with its payload inline. -/
def mail (op part : Nat) (pay : List Byte) : Cmd :=
  ⟨2000000000, .mailbox, ⟨BitVec.ofNat 16 op, if pay.isEmpty then 0 else 1, BitVec.ofNat 8 part, 7, 0,
    BitVec.ofNat 32 pay.length, 0, padTo 40 pay⟩⟩

/-- A command with no payload of its own and an output buffer in host memory. -/
def mailBuf (op part addr len : Nat) : Cmd :=
  ⟨2000000000, .mailbox, ⟨BitVec.ofNat 16 op, 0, BitVec.ofNat 8 part, 7, BitVec.ofNat 64 addr, BitVec.ofNat 32 len, 0,
    copies 40 0⟩⟩

/-- Firmware takes the command, and it passes the common checks with this payload. -/
def accepts (op : Nat) (c : Cmd) (pay : List Byte) (s : State) : Bool :=
  cmdOp c == op && canTake c s && decide (commonChecks c (takeCmd c s) = (stOk, pay))

theorem accepted_of {op : Nat} {c : Cmd} {pay : List Byte} {s : State} (h : accepts op c pay s = true) :
    Accepted op c pay s := by
  simpa [accepts, Accepted, and_assoc] using h

/-- A predicate on an option's content as a Bool. -/
theorem some_of {α : Type} {x : Option α} {p : α → Bool} (h : x.any p = true) : ∃ a, x = some a ∧ p a = true := by
  cases x with
  | none => simp at h
  | some a => exact ⟨a, rfl, by simpa using h⟩

/-! ## The queue and Jexeri commands -/

/-- The payload of a command of eight bytes: four of one byte and one of four. -/
def p8 (a b c d e : Nat) : List Byte := natLe 1 a ++ natLe 1 b ++ natLe 1 c ++ natLe 1 d ++ natLe 4 e

/-- A queue pair of four entries. -/
def pair0 : QueuePair := ⟨0xFF, 3, 4, 4, 0x10000, 0x20000, 0, 0, 0, 0, true, []⟩

/-- The running panel with queue 0, in some state. -/
def withPair (p : QueuePair) : State := { ready with host := { ready.host with queues := [(0, p)] } }

/-- A command in a queue. -/
def queued (op part : Nat) (pay : List Byte) : Cmd := { mail op part pay with via := .queue 0 }

theorem witness_WellFormedCommandsRun : (Instr.siteFence (mail 0x0101 0xFF (p8 1 1 0 0 0))).wf = true := by decide +kernel

theorem witness_StepsKeepTheForm : Kept { ready with pending := [.siteFence (mail 0x0101 0xFF (p8 1 1 0 0 0))] }
    ∧ ∃ t, step { ready with pending := [.siteFence (mail 0x0101 0xFF (p8 1 1 0 0 0))] } = .next t :=
  ⟨kept_of (by decide +kernel), _, rfl⟩

theorem witness_WhatACommandMayChange : ∃ t, exec (.siteFence (mail 0x0101 0xFF (p8 1 1 0 0 0))) ready = .next t := ⟨_, rfl⟩

theorem witness_TakingACommand :
    (jexeri (.siteFence (mail 0x0101 0xFF (p8 1 1 0 0 0))) = some (0x0101, mail 0x0101 0xFF (p8 1 1 0 0 0))
      ∧ canTake (mail 0x0101 0xFF (p8 1 1 0 0 0)) { ready with host := { ready.host with mbBusy := true } } = false)
    ∧ canTake (mail 0x0101 0xFF (p8 1 1 0 0 0)) ready = true :=
  ⟨⟨rfl, by decide +kernel⟩, by decide +kernel⟩

/-- A state in which the command is in progress. -/
def taken (c : Cmd) (s : State) : State := { s with inProgress := [⟨c, 0, [], false⟩] }

theorem witness_CompletionGoesBack :
    let m := mail 0x0101 0xFF (p8 1 1 0 0 0)
    let c := queued 0x0101 0xFF (p8 1 1 0 0 0)
    (takenOf m (taken m ready) = some ⟨m, 0, [], false⟩ ∧ Kept (taken m ready))
    ∧ (takenOf c (taken c (withPair pair0)) = some ⟨c, 0, [], false⟩ ∧ Kept (taken c (withPair pair0))
      ∧ mapGet? (taken c (withPair pair0)).host.queues 0 = some pair0 ∧ pair0.waiting = [] ∧ cqRoom pair0 = true)
    ∧ cqRoom { pair0 with cqTail := 3 } = false
    ∧ mapGet? (taken c ready).host.queues 0 = none :=
  ⟨⟨by decide +kernel, kept_of (by decide +kernel)⟩, ⟨by decide +kernel, kept_of (by decide +kernel), rfl, rfl, rfl⟩, rfl, rfl⟩

/-- The running panel with an event queue of 64 entries, in some state. -/
def withEvents (q : EventQueue) : State := { ready with ev := q }

theorem witness_EventsArePosted :
    (Kept (withEvents ⟨true, 0x30000, 64, 63, 0, true, 1, 0⟩) ∧ evRoom ⟨true, 0x30000, 64, 62, 0, true, 1, 0⟩ 1 = true)
    ∧ evRoom ⟨true, 0x30000, 64, 63, 0, true, 1, 0⟩ 1 = false :=
  ⟨⟨kept_of (by decide +kernel), by decide⟩, by decide⟩

/-! ## The floor plan -/

/-- The running panel with an entry of the record changed. -/
def withEntry (i : Nat) (f : SiteEntry → SiteEntry) : State := modEntry i f ready

theorem witness_RecordLayout : Kept ready := kept_ready

theorem witness_FloorPlanCommands :
    (Kept ready ∧ ready.fp.built = true
      ∧ Accepted 0x0100 (mailBuf 0x0100 0xFF 0x40000 14400) [] ready
      ∧ BufferAnswers (mailBuf 0x0100 0xFF 0x40000 14400) 0x40000 14400 ready)
    ∧ (let c := mail 0x0101 0xFF (p8 15 12 0 0 5)
       Accepted 0x0101 c (p8 15 12 0 0 5) ready ∧ planStatus (fun f => f != 0) (p8 15 12 0 0 5) (takeCmd c ready) stOk = stOk
         ∧ (entryAt ready (paySite (p8 15 12 0 0 5))).part = 0xFF ∧ siteUsable ready (paySite (p8 15 12 0 0 5)) = true)
    ∧ (let s := withEntry 17 (entrySet .fenced 11)
       let c := mail 0x0102 0xFF (p8 1 1 0 0 0)
       Kept s ∧ Accepted 0x0102 c (p8 1 1 0 0 0) s ∧ planStatus (fun f => f != 0) (p8 1 1 0 0 0) (takeCmd c s) stOk = stOk
         ∧ (entryAt s 17).state = .fenced)
    ∧ (Accepted 0x0102 (mail 0x0102 0xFF (p8 0 0 1 0 0)) (p8 0 0 1 0 0) ready
        ∧ restoreBlocked (takeCmd (mail 0x0102 0xFF (p8 0 0 1 0 0)) ready) = false)
    ∧ (let s := withEntry 19 (entrySet .failed 9)
       let c := mail 0x0103 0xFF (p8 3 1 0 0 0)
       Kept s ∧ Accepted 0x0103 c (p8 3 1 0 0 0) s ∧ planStatus (fun f => f != 0) (p8 3 1 0 0 0) (takeCmd c s) stOk = stOk
         ∧ (entryAt s 19).state = .failed ∧ (entryAt s 19).part = 0xFF ∧ sitePowered s 19 = true
         ∧ mapGet? s.fp.retests 19 = none ∧ procOfSite 19 = some 31 ∧ procHeld s 31 = false ∧ procStarts s 31 = false)
    ∧ mapGet? ({ ready with fp := { ready.fp with retests := [(19, mail 0x0103 0xFF (p8 3 1 0 0 0))] } } : State).fp.retests 19
        = some (mail 0x0103 0xFF (p8 3 1 0 0 0)) :=
  ⟨⟨kept_ready, rfl, accepted_of (by decide +kernel), .inr (by decide +kernel)⟩,
    ⟨accepted_of (by decide +kernel), by decide +kernel, by decide +kernel, by decide +kernel⟩,
    ⟨kept_of (by decide +kernel), accepted_of (by decide +kernel), by decide +kernel, by decide +kernel⟩,
    ⟨accepted_of (by decide +kernel), by decide +kernel⟩,
    ⟨kept_of (by decide +kernel), accepted_of (by decide +kernel), by decide +kernel, by decide +kernel, by decide +kernel,
      by decide +kernel, by decide +kernel, by decide +kernel, by decide +kernel, by decide +kernel⟩, rfl⟩

/-! ## Ill-formed terms -/

/-- The rows of the Jexeri commands. -/
def commandRows : List (Cmd → Instr) :=
  [.floorplanGet, .siteFence, .siteUnfence, .siteUnfenceDefault, .siteRetest, .bayLoad, .bayStart, .bayHold, .bayRelease, .bayStop,
   .bayReconfigure, .baySetPoint, .bayStatus, .timeExchange, .bayRemove, .loadReportGet, .hazardGet, .partitionCreate,
   .partitionDestroy, .partitionAdd, .partitionRemove, .windowSet, .windowClear, .memScrubSet, .fabricMapGet]
  ++ [.embTableCreate, .embTableDestroy, .embBatchOpen, .embBatchClose, .embRebuildStart, .embRebuildPause, .embRebuildResume,
   .embRebuildShare, .embRebuildAbort, .embCommit, .embTableStatus, .wstoreInstallBegin, .wstoreInstallEnd, .wstoreWrite,
   .wstoreStatus, .wsetStage, .wsetSwitch, .wsetDiscard, .wsetDiscardCurrent, .wsetBatchOpen, .wsetBatchClose, .wsetGet, .purlinSet,
   .purlinSend]
  ++ [.linkPanelIdSet, .partitionLinkSet, .rankTableSet, .transitSet, .linkCtrl, .linkStatus, .biasSet, .hostWindowSet,
   .hostWindowClear, .queueCreate, .queueDelete, .version, .identify, .tokenSend, .eventQueueSet, .eventQueueClear, .eventAck,
   .prepareRemoval, .fwProcRestart, .fwStatus, .fwBundleStage, .fwBundleApply, .resetCore, .resetDie, .resetPartition,
   .resetPanelWarm, .resetPanelCold]
  ++ [.siteOn, .siteOff, .selfRefreshEnter, .selfRefreshExit, .lanes, .quadrantOn, .powerStatus, .ceilingSet, .coolingStatus,
   .errorLogGet, .wearGet, .inject, .injectCancel, .mgmtKeySetManagement, .mgmtKeySetWeight, .attestQuote, .certGet]

/-- exec faults on the term, and the check refuses it. -/
def isRefused (i : Instr) : Bool :=
  !i.wf && (match exec i ready with | .fault .illFormed => true | _ => false)

/-- Each command row refuses an entry of another opcode. -/
theorem test_rows_refuse_other_opcodes : commandRows.all (fun row => isRefused (row (mail 0x0FFF 0xFF []))) = true := by
  decide +kernel

/-- A packet, a flit, a sample, an access, a write and a mode of a kind that the hardware cannot meet. -/
theorem test_forms_are_refused :
    let q (op len : Nat) : Packet := ⟨0, 0, 0, 0, BitVec.ofNat 4 op, false, 0, len, 0, 0, [1]⟩
    [Instr.serviceRead (q 2 1) ⟨[], []⟩ 0, .serviceWrite (q 1 1) ⟨[], []⟩ 0, .serviceWrite (q 2 2) ⟨[], []⟩ 0, .ctrlPacket (q 5 1) 0,
      .ctrlPacket (q 6 2) 0, .serviceResponse (q 2 1) 0, .serviceResponse (q 6 1) 0, .requestPortWrite (q 1 1) 0,
      .requestPortWrite (q 2 2) 0, .inflateRead (q 2 1) ⟨[], []⟩ 0, .linkEgressWrite (q 1 1) ⟨false, false, 0⟩ 0,
      .linkEgressWrite (q 2 2) ⟨false, false, 0⟩ 0, .linkFlitReceive 0 ⟨copies 255 0, [], []⟩ 0,
      .congestionSample ⟨0, 0⟩ (copies 5 0) (copies 6 (copies 4 false)) 0,
      .congestionSample ⟨0, 0⟩ (copies 6 0) (copies 5 (copies 4 false)) 0,
      .congestionSample ⟨0, 0⟩ (copies 6 0) (copies 6 (copies 3 false)) 0,
      .congestionSample ⟨0, 0⟩ (copies 6 129) (copies 6 (copies 4 false)) 0,
      .linkAckArrival 0 ⟨0, 0, 0, 0, 0, 0, 0, 0, 0, 0, 0, 0, 0, []⟩ 0, .linkBufferSample 0 1025 0].all isRefused = true := by
  decide +kernel

theorem test_accesses_are_refused :
    [Instr.hdmAccess ⟨0, 0, none⟩ ⟨[], []⟩ 0, .hdmAccess ⟨2047, 2, none⟩ ⟨[], []⟩ 0, .hdmAccess ⟨0, 2, some [1]⟩ ⟨[], []⟩ 0,
      .apertureAccess ⟨0, 0, none⟩ ⟨[], []⟩ 0, .apertureAccess ⟨2 ^ 34 - 1, 2, none⟩ ⟨[], []⟩ 0,
      .apertureAccess ⟨0, 2, some [1]⟩ ⟨[], []⟩ 0, .registerWrite ⟨0x4000000, 4, 0⟩ 0, .registerWrite ⟨2, 4, 0⟩ 0,
      .registerWrite ⟨0x1000, 2, 0⟩ 0, .registerWrite ⟨0x1100, 9, 0⟩ 0, .perstDeassert ⟨0, 4⟩ 0, .perstDeassert ⟨1, 2⟩ 0].all isRefused
      = true := by decide +kernel

/-! ## Cores: the issue stage -/

/-- An operation word from its fields: the lowest bit of each and its value. -/
def word (l : List (Nat × Nat)) : BitVec 128 := BitVec.ofNat 128 (l.foldl (fun n f => n + f.2 * 2 ^ f.1) 0)

/-- A bay of one core of partition 0 that runs in cycle 10. -/
def bay0 : Bay where
  part := 0
  cx0 := 8
  cy0 := 0
  w := 1
  ht := 1
  contract := 2
  drainBound := 0
  hazard := false
  mode := .running
  point := 3
  count := 11
  freezeDue := none
  conds := []
  bankPlans := []
  bankHeld := none
  frozenAt := none
  frozenNs := 0
  heldLong := false
  holds := 0
  stretches := 0
  fault := 0
  faultCore := none
  faultDue := none
  faultCycle := none
  overrun := false
  idlePeriods := 0
  idleSince := none
  boostLost := false
  boostTold := (false, false)
  buildGen := 0
  seed := 0
  change := none
  stop := none
  droops := []
  traps := []
  trapsLost := 0
  xdescs := []

/-- The core of that bay. -/
def core0 : CoreId := ⟨8, 0⟩

/-- The running panel with that bay and core in some state. -/
def withBay (b : Bay) (c : Core) : State := { ready with bays := [(0, b)], cores := [(8, c)] }

/-- The core about to issue one operation in cycle 10. -/
def issuingCore (w : BitVec 128) : Core := { coreZero with
  image := { coreZero.image with stream := [w] }
  seq := { coreZero.seq with
    issue := { walkerZero with due := 10, finished := false }
    recs := [⟨0, 10, false, 0, [], .none⟩] } }

/-- The panel with the core about to issue an operation. -/
def issuing (w : BitVec 128) : State := withBay bay0 (issuingCore w)

/-- The same within a skipped region. -/
def shimming (w : BitVec 128) : State := withBay bay0
  { issuingCore w with seq := { (issuingCore w).seq with issue := { (issuingCore w).seq.issue with skips := [1] } } }

/-- An operation that is no shim issues, its check holds where it has one, and a test of the state holds. -/
def runs (kind : OpKind) (s : State) (p : BitVec 128 → AheadRec → State → Bool) : Bool :=
  (issueEnter 8 10 kind s).any (fun x =>
    !x.2.1 && (!opChk x.1 || chkMet x.2.2.2 8 x.1 10 (fun x => x.accepted.length)) && p x.1 x.2.2.1 x.2.2.2)

/-- The core issues an operation that is no shim, its check holds where it has one, and `p` holds of it. -/
def Issues (kind : OpKind) (s : State) (p : BitVec 128 → AheadRec → State → Bool) : Prop :=
  ∃ o r s1, Executes (coreNo core0) 10 kind o r s s1 ∧ p o r s1 = true

/-- No further condition. -/
def any (_ : BitVec 128) (_ : AheadRec) (_ : State) : Bool := true

theorem issues_of {kind : OpKind} {s : State} {p : BitVec 128 → AheadRec → State → Bool} (h : runs kind s p = true) :
    Issues kind s p := by
  obtain ⟨⟨o, sh, r, s1⟩, h1, h2⟩ := some_of h
  simp only [Bool.and_eq_true, Bool.not_eq_true', Bool.or_eq_true] at h2
  obtain ⟨⟨ha, hb⟩, hc⟩ := h2
  subst ha
  refine ⟨o, r, s1, ⟨h1, fun ho => ?_⟩, hc⟩
  rcases hb with hb | hb
  · rw [hb] at ho; cases ho
  · exact hb

theorem shim_of {kind : OpKind} {s : State} (h : (issueEnter 8 10 kind s).any (fun x => x.2.1) = true) :
    ∃ o r s1, issueEnter (coreNo core0) 10 kind s = some (o, true, r, s1) := by
  obtain ⟨⟨o, sh, r, s1⟩, h1, h2⟩ := some_of h
  simp only at h2
  subst h2
  exact ⟨o, r, s1, h1⟩

theorem witness_LateChecksFault : ∃ o r s1, (OpKind.send, Instr.send core0 10) ∈ issueRows core0 10
    ∧ issueEnter (coreNo core0) 10 .send (issuing (word [(124, 5), (119, 1)])) = some (o, false, r, s1) ∧ opChk o = true
    ∧ chkMet s1 (coreNo core0) o 10 (fun x => x.accepted.length) = false := by
  have h : (issueEnter 8 10 .send (issuing (word [(124, 5), (119, 1)]))).any (fun x =>
      !x.2.1 && opChk x.1 && !chkMet x.2.2.2 8 x.1 10 (fun x => x.accepted.length)) = true := by decide +kernel
  obtain ⟨⟨o, sh, r, s1⟩, h1, h2⟩ := some_of h
  simp only [Bool.and_eq_true, Bool.not_eq_true'] at h2
  obtain ⟨⟨ha, hb⟩, hc⟩ := h2
  subst ha
  exact ⟨o, r, s1, by decide, h1, hb, hc⟩

theorem witness_ShimsOnlyTakeTime :
    (∃ o r s1, issueEnter (coreNo core0) 10 .receive (shimming (word [(124, 5), (120, 1)])) = some (o, true, r, s1))
    ∧ (∃ o r s1, issueEnter (coreNo core0) 10 .matrixStep (shimming (word [(124, 1)])) = some (o, true, r, s1))
    ∧ (∃ o r s1, issueEnter (coreNo core0) 10 .vectorChain (shimming (word [(124, 2)])) = some (o, true, r, s1))
    ∧ ∃ o r s1, issueEnter (coreNo core0) 10 .scanCall (shimming (word [(124, 3)])) = some (o, true, r, s1) :=
  ⟨shim_of (by decide +kernel), shim_of (by decide +kernel), shim_of (by decide +kernel), shim_of (by decide +kernel)⟩

/-- Every clause of `OperationsIssue`: ACCESS_ENQ with room and without, PRODUCE from each of its three sources. -/
theorem witness_OperationsIssue :
    Issues .matrixStep (issuing (word [(124, 1)])) any ∧ Issues .vectorChain (issuing (word [(124, 2)])) any
    ∧ Issues .scanCall (issuing (word [(124, 3)])) any
    ∧ Issues .accessEnq (issuing (word [(124, 4), (73, 8)])) (fun o _ s1 => decide (aeCount o ≤ descFree (coreOf s1 8)))
    ∧ (let c := issuingCore (word [(124, 4), (73, 8)])
       Issues .accessEnq (withBay bay0 { c with ax := { c.ax with queue := copies 249 [] } })
        (fun o r s1 => decide (r.reserved = 0 ∧ descFree (coreOf s1 8) < aeCount o)))
    ∧ Issues .send (issuing (word [(124, 5), (67, 1), (69, 1)])) any
    ∧ Issues .receive (issuing (word [(124, 5), (120, 1), (69, 1)])) any
    ∧ Issues .produce (issuing (word [(124, 7)])) (fun o _ _ => decide (tkSrc o = 0))
    ∧ Issues .produce (issuing (word [(124, 7), (94, 1)])) (fun o _ _ => decide (tkSrc o = 1))
    ∧ Issues .produce (issuing (word [(124, 7), (94, 2)])) (fun o _ _ => decide (2 ≤ tkSrc o)) := by
  refine ⟨?_, ?_, ?_, ?_, ?_, ?_, ?_, ?_, ?_, ?_⟩ <;> exact issues_of (by decide +kernel)

/-- Whether the queue that a CONSUME names holds a token that arrived in an earlier cycle. -/
def tokenThere (o : BitVec 128) (_ : AheadRec) (s1 : State) : Bool :=
  ((coreOf s1 8).seq.queues.getD (tkTq o) []).any (fun x => decide (x.stamp ≤ 10))

/-- A token in a queue of the core, and an empty queue. -/
theorem witness_ConsumeTakesATokenOrMisses :
    (let c := issuingCore (word [(124, 7), (120, 1)])
     Issues .consume (withBay bay0 { c with seq := { c.seq with queues := [[⟨10, 0x1234⟩], [], [], []] } }) tokenThere)
    ∧ Issues .consume (issuing (word [(124, 7), (120, 1), (94, 3)])) (fun o r s1 => !tokenThere o r s1) :=
  ⟨issues_of (by decide +kernel), issues_of (by decide +kernel)⟩

/-- CLOAD; CSTEP below 0 with the hazard detector; CTEST; CLOOP padded, with a known counter, and unpadded on a dynamic one. -/
theorem witness_CountersLoopsAndTests :
    Issues .cload (issuing (word [(124, 6), (93, 7), (77, 65535)])) any
    ∧ Issues .cstep (withBay { bay0 with hazard := true } (issuingCore (word [(124, 6), (120, 1), (77, 65535)])))
        (fun o _ s1 => decide (((counterAt (coreOf s1 8) (coCtr o) 10).1.toNat : Int) + coDelta o < 0))
    ∧ Issues .ctest (issuing (word [(124, 6), (120, 3)])) any
    ∧ Issues .cloop (issuing (word [(124, 6), (120, 2), (66, 4)])) (fun o _ _ => decide (coMax o ≠ 0))
    ∧ (let c := issuingCore (word [(124, 6), (120, 2)])
       Issues .cloop (withBay bay0 { c with seq := { c.seq with dynamic := copies 8 true } }) (fun o _ s1 =>
        decide (coForever o = false ∧ coMax o = 0 ∧ (counterAt (coreOf s1 8) (coCtr o) 10).2 = true))) := by
  refine ⟨?_, ?_, ?_, ?_, ?_⟩ <;> exact issues_of (by decide +kernel)

/-- PEG_PAGE, and EPOCH_MARK with NOTIFY on the head core. -/
theorem witness_PagesAndEpochs :
    Issues .pegPage (issuing (word [(124, 8), (93, 7)])) any
    ∧ Issues .epochMark (issuing (word [(124, 9), (95, 1)])) (fun o _ s1 => decide (s1.err.armed = []
        ∧ (bayOfCore s1 8).map (fun x => bayHead x.2) = some 8 ∧ emNotify o = true)) :=
  ⟨issues_of (by decide +kernel), issues_of (by decide +kernel)⟩

/-! ## Cores: the engines -/

/-- The bay's cycle 10 is under way. -/
theorem entered (c : Core) (b : Bay) (h : inBay b 8 = true) (hm : b.mode = .running) (hc : b.count = 11) :
    enterCycle (coreNo core0) 10 (withBay b c) = some (0, b, withBay b c) := by
  have hb : bayOfCore (withBay b c) (coreNo core0) = some (0, b) := by
    simp only [bayOfCore, withBay, List.find?_cons]
    rw [show inBay (0, b).2 (coreNo core0) = true from h]
  simp only [enterCycle, hb, hm, hc]
  rfl

/-- The second clause: cycle 10 is the next one, and all that is due is done. -/
theorem witness_CyclesBegin :
    bayOfCore (withBay bay0 coreZero) 8 = some (0, bay0) ∧ bay0.mode = .running ∧ bay0.count = 10 + 1
    ∧ (let b := { bay0 with count := 10 }
       let s := withBay b { coreZero with rt := { coreZero.rt with
        run := ⟨10, 0, 0, [], 0⟩, ahead := ⟨34, 0, 0, [], 0⟩ }, bankNext := 34 }
       bayOfCore s 8 = some (0, b) ∧ mayRun b 10 = true
        ∧ (bayCores b).all (coreQuiet s (b.mode == .draining) 10) = true ∧ tripsIn (noteTrips s) b = true) := by
  refine ⟨?_, rfl, rfl, ?_, ?_, ?_, ?_⟩ <;> decide +kernel

/-- A core with one operation in the queue of its matrix engine, vector engine or scan unit, which starts in cycle 10. -/
def starting (f : EngineOp → EngineState → EngineState) (w : BitVec 128) (shim : Bool) : Core :=
  { coreZero with eng := f ⟨0, w, 10, shim⟩ coreZero.eng }

/-- A shim and a MATRIX_STEP of one K-step of INT8 that consumes both its slots. -/
theorem witness_MatrixStepsStart :
    (let c := starting (fun e x => { x with mxQueue := [e] }) (word [(124, 1)]) true
     enterCycle (coreNo core0) 10 (withBay bay0 c) = some (0, bay0, withBay bay0 c)
      ∧ c.eng.mxQueue = ⟨0, word [(124, 1)], 10, true⟩ :: [])
    ∧ (let w := word [(124, 1), (58, 1), (34, 1), (33, 1), (90, 2), (84, 3)]
       let c := starting (fun e x => { x with mxQueue := [e] }) w false
       enterCycle (coreNo core0) 10 (withBay bay0 c) = some (0, bay0, withBay bay0 c) ∧ c.eng.mxQueue = ⟨0, w, 10, false⟩ :: []
        ∧ 1 ≤ mxKsteps w ∧ mxAConsume w = true ∧ mxBConsume w = true) :=
  ⟨⟨entered _ _ rfl rfl rfl, rfl⟩, entered _ _ rfl rfl rfl, rfl, by decide, by decide, by decide⟩

/-- A shim and a start of each; the clauses of one output, one consumed input, and one step. -/
theorem witness_ChainsAndScanCallsStart :
    (let c := starting (fun e x => { x with vxQueue := [e] }) (word [(124, 2)]) true
     enterCycle (coreNo core0) 10 (withBay bay0 c) = some (0, bay0, withBay bay0 c)
      ∧ c.eng.vxQueue = ⟨0, word [(124, 2)], 10, true⟩ :: [])
    ∧ (let w := word [(124, 2), (35, 128), (32, 1)]
       let entry : List Byte := natLe 1 0 ++ natLe 1 1 ++ natLe 1 1
       let c := { starting (fun e x => { x with vxQueue := [e] }) w false with
        image := { coreZero.image with chainTable := entry :: copies 31 [] } }
       enterCycle (coreNo core0) 10 (withBay bay0 c) = some (0, bay0, withBay bay0 c) ∧ c.eng.vxQueue = ⟨0, w, 10, false⟩ :: []
        ∧ vxInConsume w 0 = true ∧ vxFromTq w = false ∧ 0 < ceNin (chainEntry c w) ∧ 0 < ceNout (chainEntry c w))
    ∧ (let c := starting (fun e x => { x with scQueue := [e] }) (word [(124, 3)]) true
       enterCycle (coreNo core0) 10 (withBay bay0 c) = some (0, bay0, withBay bay0 c)
        ∧ c.eng.scQueue = ⟨0, word [(124, 3)], 10, true⟩ :: [])
    ∧ (let w := word [(124, 3), (56, 1), (48, 1)]
       let c := starting (fun e x => { x with scQueue := [e] }) w false
       enterCycle (coreNo core0) 10 (withBay bay0 c) = some (0, bay0, withBay bay0 c) ∧ c.eng.scQueue = ⟨0, w, 10, false⟩ :: []
        ∧ 1 ≤ scSteps w ∧ scStepsSrc w = false ∧ scMode w = 0) :=
  ⟨⟨entered _ _ rfl rfl rfl, rfl⟩, ⟨entered _ _ rfl rfl rfl, rfl, by decide, by decide, by decide, by decide⟩, ⟨entered _ _ rfl rfl rfl, rfl⟩,
    entered _ _ rfl rfl rfl, rfl, by decide, by decide, by decide⟩

/-- A MATRIX_STEP of `n` K-steps under way whose next addition is due in cycle 10. -/
def running (n : Nat) : MxRun := ⟨1, 0, word [(124, 1), (58, n), (55, 1)], 0, 5, 6, 0, [], [], []⟩

/-- A tile on its way that is due in cycle 10, with as many in queue as given. -/
def arriving (n : Nat) : Core :=
  { coreZero with eng := { coreZero.eng with drains := [⟨0, 10, 0, []⟩], tiles := copies n ⟨1, none, []⟩ } }

/-- An addition that is not the last one, and the last one; a tile that finds room, and one that finds the queue full, with the hazard
detector and without. -/
theorem witness_BanksCompleteAndTilesWait :
    (let c := { coreZero with eng := { coreZero.eng with mxRuns := [running 2] } }
     enterCycle (coreNo core0) 10 (withBay bay0 c) = some (0, bay0, withBay bay0 c)
      ∧ c.eng.mxRuns.find? (fun m => mxAddCycle m == 10) = some (running 2)
      ∧ (running 2).done + 1 < mxKsteps (running 2).word ∧ mxKsteps (running 1).word ≤ (running 1).done + 1)
    ∧ (enterCycle (coreNo core0) 10 (withBay bay0 (arriving 3)) = some (0, bay0, withBay bay0 (arriving 3))
      ∧ (arriving 3).eng.drains.find? (fun d => d.cycle == 10) = some ⟨0, 10, 0, []⟩ ∧ (tilesAt (arriving 3) 11).length < 4)
    ∧ (enterCycle (coreNo core0) 10 (withBay { bay0 with hazard := true } (arriving 4))
        = some (0, { bay0 with hazard := true }, withBay { bay0 with hazard := true } (arriving 4))
      ∧ 4 ≤ (tilesAt (arriving 4) 11).length) :=
  ⟨⟨entered _ _ rfl rfl rfl, by decide, by decide, by decide⟩, ⟨entered _ _ rfl rfl rfl, by decide, by decide⟩,
    entered _ _ rfl rfl rfl, by decide⟩

/-- A slot filled and one emptied in cycle 10, by two actions of one kind. -/
theorem witness_TagActionsTakePlace :
    let c := { coreZero with eng := { coreZero.eng with
      tagActs := [⟨.vectorIn, 10, [0, 63], []⟩, ⟨.vectorIn, 10, [], [0]⟩] } }
    (TagKind.vectorIn, Instr.vectorInputConsume core0 10) ∈ tagRows core0 10
    ∧ enterCycle (coreNo core0) 10 (withBay bay0 c) = some (0, bay0, withBay bay0 c)
    ∧ c.eng.tagActs.filter (fun a => a.kind == .vectorIn && a.cycle == 10) ≠ [] ∧ (c.tags[63]?).isSome = true :=
  ⟨by decide, entered _ _ rfl rfl rfl, by decide, by decide⟩

/-! ## Cores: scratchpad and access engine -/

/-- No operation reads. -/
theorem witness_RowsReadBack :
    (∀ w, w ∈ (coreOf (withBay bay0 coreZero) 8).eng.readWins → winHit 8 w .recv (8, 5) 11 = false)
    ∧ scansHit 8 (coreOf (withBay bay0 coreZero) 8) (8, 5) 11 0 = [] := by decide

/-- A descriptor of one run of 512 bytes between slot 2 and a stack of the partition. -/
def desc (op flags n0 rows : Nat) : List Byte :=
  natLe 1 op ++ natLe 1 flags ++ natLe 1 2 ++ natLe 1 0 ++ natLe 2 0 ++ natLe 2 rows ++ natLe 8 (stackAddr 0 0) ++ natLe 4 n0
    ++ natLe 2 1 ++ natLe 2 1 ++ natLe 2 1 ++ copies 38 0

/-- The core with slot 2 valid with two rows, and an access engine in some state. -/
def moving (ax : AccessState) : Core := { coreZero with
  image := { coreZero.image with slots := (copies 64 0).set 2 (BitVec.ofNat 64 (2 ^ 47 + 2 * 2 ^ 32 + 16)) }
  ax := ax }

/-- A descriptor at the head of the queue. -/
def queuedDesc (d : List Byte) : State := withBay bay0 (moving { coreZero.ax with queue := [d] })

/-- Each access fault of a start; a FILL with WAIT that starts on its empty slot; a DRAIN that waits for it to be full. -/
theorem witness_DescriptorsStart :
    engineStarts bay0 = true ∧ (∀ d, bayOfCore (queuedDesc d) 8 = some (0, bay0))
    ∧ fieldFault (coreOf (queuedDesc (desc 3 0 512 1)) 8) (desc 3 0 512 1) = true
    ∧ (fieldFault (coreOf (queuedDesc (desc 1 0 512 3)) 8) (desc 1 0 512 3) = false
      ∧ boundFault (coreOf (queuedDesc (desc 1 0 512 3)) 8) (desc 1 0 512 3) = true)
    ∧ partitionFault (queuedDesc (desc 1 0 512 1)) 8 1 (desc 1 0 512 1) = true
    ∧ (let d := desc 1 1 512 1
       fieldFault (coreOf (queuedDesc d) 8) d = false ∧ boundFault (coreOf (queuedDesc d) 8) d = false
        ∧ partitionFault (queuedDesc d) 8 bay0.part d = false ∧ waitMet (queuedDesc d) 8 d = true)
    ∧ (let d := desc 2 1 1024 2
       fieldFault (coreOf (queuedDesc d) 8) d = false ∧ boundFault (coreOf (queuedDesc d) 8) d = false
        ∧ partitionFault (queuedDesc d) 8 bay0.part d = false ∧ waitMet (queuedDesc d) 8 d = false) := by
  refine ⟨by decide, fun d => rfl, by decide +kernel, ⟨?_, ?_⟩, ?_, ⟨?_, ?_, ?_, ?_⟩, ?_, ?_, ?_, ?_⟩ <;> decide +kernel

/-- A started descriptor with one burst that is answered. -/
def burstState (op status : Nat) : State :=
  withBay bay0 (moving { coreZero.ax with
    started := [⟨1, desc op 2 512 1, 512, [], 0, 0, false⟩], bursts := [⟨3, 1, 0, 512, true, status, copies 512 7⟩] })

/-- A started descriptor with all its data moved. -/
def doneState (op : Nat) : State :=
  withBay bay0 (moving { coreZero.ax with started := [⟨1, desc op 2 512 1, 512, [0], 0, 0, false⟩] })

/-- A burst answered with an error, of a DRAIN, and of a FILL whose row it completes; a FILL and a DRAIN that complete. -/
theorem witness_BurstsAndDescriptorsComplete :
    (bayOfCore (burstState 1 5) 8 = some (0, bay0) ∧ engineRuns bay0 = true
      ∧ burstOf (coreOf (burstState 1 5) 8) 3 = some ⟨3, 1, 0, 512, true, 5, copies 512 7⟩
      ∧ (coreOf (burstState 1 5) 8).ax.started.find? (fun y => y.id = 1) = some ⟨1, desc 1 2 512 1, 512, [], 0, 0, false⟩)
    ∧ dsOp (desc 2 2 512 1) = 2
    ∧ (fillRow (coreOf (burstState 1 0) 8) ⟨1, desc 1 2 512 1, 512, [], 0, 0, false⟩ 0).isSome = true
    ∧ burstRows (desc 1 2 512 1) ⟨3, 1, 0, 512, true, 0, copies 512 7⟩ = [0]
    ∧ (∀ op, op ∈ [1, 2] → descDone (coreOf (doneState op) 8) (periodNow (atTime 0 (doneState op)) bay0) ⟨1, desc op 2 512 1, 512, [0], 0, 0, false⟩ = true
      ∧ dsTag (desc op 2 512 1) = true) := by
  refine ⟨⟨rfl, by decide, ?_, ?_⟩, ?_, ?_, ?_, ?_⟩ <;> decide +kernel

/-- A write of a row that waits at the core. -/
def landing (w : RemoteWrite) (tag : Bool) : State :=
  withBay bay0 { moving { coreZero.ax with remote := [w] } with tags := copies 64 ⟨tag, tag, 0, false, false⟩ }

/-- The packet of such a write. -/
def rowWrite : Packet := ⟨BitVec.ofNat 56 (coreAddr 8 0x2000), 2, 1, 1, 2, false, 0, 512, 9, 0, copies 512 3⟩

/-- With RSET on a slot that is not valid, on one that is full, and on one that is empty; without RSET. -/
theorem witness_RemoteWritesLand :
    portOpen (landing ⟨rowWrite, true, true, 2⟩ false) 8 = true
    ∧ portsFree (landing ⟨rowWrite, true, true, 2⟩ false) 8 (spanRows (addrOff (destOf rowWrite)) 512) = true
    ∧ (let c := { coreZero with bankBusy := (List.range 16).map (fun n => (10, n, 1)) }
       portsFree (withBay bay0 c) 8 (spanRows (addrOff (destOf rowWrite)) 512) = false)
    ∧ rsetOk (landing ⟨rowWrite, true, true, 3⟩ false) 8 3 = false
    ∧ (rsetOk (landing ⟨rowWrite, true, true, 2⟩ true) 8 2 = true
      ∧ tagAt (coreOf (landing ⟨rowWrite, true, true, 2⟩ true) 8) 2 11 = true)
    ∧ (rsetOk (landing ⟨rowWrite, true, true, 2⟩ false) 8 2 = true
      ∧ tagAt (coreOf (landing ⟨rowWrite, true, true, 2⟩ false) 8) 2 11 = false)
    ∧ (coreOf (landing ⟨rowWrite, false, false, 2⟩ false) 8).ax.remote = [⟨rowWrite, false, false, 2⟩] := by
  refine ⟨?_, ?_, ?_, ?_, ⟨?_, ?_⟩, ⟨?_, ?_⟩, ?_⟩ <;> decide +kernel

/-! ## Cores: lookahead, router and crossings -/

/-- The core whose lookahead looks at an operation in cycle 10. -/
def aheadCore (w : BitVec 128) (skips : List Nat) : Core := { coreZero with
  image := { coreZero.image with stream := [w] }
  seq := { coreZero.seq with ahead := { walkerZero with due := 34, finished := false, skips := skips } } }

/-- A crossing into the core on its west side, and one out of it, with entries and credits. -/
def xing (sender recv budget : Nat) (ss rs : Side) (flight accepted : List XEntry) (returning : List XTrip) : Crossing :=
  ⟨sender, ss, recv, rs, budget, .opened, true, true, 0, 0, flight, accepted, returning, 0, 0⟩

/-- A data entry, or a mark, of crossing epoch `e`. -/
def xentry (k : XKind) (e : BitVec 4) : XEntry := ⟨k, true, 0, e, ⟨0, some 8⟩⟩

/-- The core with a page of one peg entry, its router in cycle 10 and its peg lookahead in cycle 34. -/
def pegCore (e : BitVec 128) : Core := { coreZero with
  image := { coreZero.image with pages := ⟨true, 1, [e]⟩ :: copies 7 pageZero }
  rt := { coreZero.rt with run := ⟨10, 0, 0, [], 0⟩, ahead := ⟨34, 0, 0, [], 0⟩ } }

/-- The panel with that core and crossings. -/
def pegState (e : BitVec 128) (l : List Crossing) : State := { withBay bay0 (pegCore e) with xings := l }

/-- The peg entry that takes a transit item from the west to the transit ejection, and the one that drives the east from the west. -/
def pegTake : BitVec 128 := word [(66, 4)]
/-- The entry that drives the east side from the west. -/
def pegDrive : BitVec 128 := word [(78, 4)]

theorem entered_pegs (e : BitVec 128) (l : List Crossing) :
    enterCycle (coreNo core0) 10 (pegState e l) = some (0, bay0, pegState e l) := rfl

/-- A check that is not met, one of a shim, and reservations with room and without; claims and conditions of an entry and of a credit. -/
theorem witness_ChecksRunAhead :
    (let c := aheadCore (word [(124, 5), (119, 1)]) []
     enterCycle (coreNo core0) 10 (withBay bay0 c) = some (0, bay0, withBay bay0 c) ∧ bayOf (withBay bay0 c) 0 = some bay0
      ∧ c.seq.ahead.finished = false ∧ c.seq.ahead.due - 24 = 10 ∧ walkShim c.seq.ahead = false
      ∧ opChk (opAt c c.seq.ahead.idx) = true ∧ chkMet (withBay bay0 c) 8 (opAt c c.seq.ahead.idx) 10 xingEntries = false)
    ∧ walkShim (aheadCore 0 [5]).seq.ahead = true
    ∧ (let c := aheadCore (word [(124, 4), (73, 8)]) []
       opKind (opAt c c.seq.ahead.idx) = some .accessEnq ∧ aeCount (opAt c c.seq.ahead.idx) ≤ descFree c
        ∧ descFree { c with ax := { c.ax with queue := copies 249 [] } } < aeCount (opAt c c.seq.ahead.idx))
    ∧ (let x := xing 7 8 4 .e .w [] [xentry .data 0] []
       let s := pegState pegTake [x]
       enterCycle (coreNo core0) 10 s = some (0, bay0, s) ∧ bayOf s 0 = some bay0
        ∧ (coreOf s 8).rt.ahead.cycle = 10 + 24 ∧ (coreOf s 8).seq.ahead.finished = true ∧ xingIn s 8 .w = some x
        ∧ portDirect (entryAtWalk (coreOf s 8) (coreOf s 8).rt.ahead) .w = true ∧ 0 < xingEntries x
        ∧ xingEntries (xing 7 8 4 .e .w [] [] []) = 0)
    ∧ (let x := xing 8 9 4 .e .w [] [] []
       let s := pegState pegDrive [x]
       xingOut s 8 .e = some x ∧ portDrive (entryAtWalk (coreOf s 8) (coreOf s 8).rt.ahead) .e = true ∧ 0 < xingCredits x
        ∧ xingCredits (xing 8 9 4 .e .w [] [] (copies 4 ⟨0, none⟩)) = 0) := by
  refine ⟨⟨entered _ _ rfl rfl rfl, rfl, rfl, rfl, ?_, ?_, ?_⟩, ?_, ⟨?_, ?_, ?_⟩,
    ⟨rfl, rfl, rfl, rfl, ?_, ?_, ?_, ?_⟩, ?_, ?_, ?_, ?_⟩ <;> decide +kernel

/-- An entry that takes a crossing's oldest accepted entry; and one that sends a row that comes from the west to the east. -/
theorem witness_RoutersRunTheirEntries :
    (let x := xing 7 8 4 .e .w [] [xentry .data 0] []
     let s := pegState pegTake [x]
     enterCycle (coreNo core0) 10 s = some (0, bay0, s) ∧ (coreOf s 8).rt.run.cycle = 10
      ∧ issueDone bay0 (coreOf s 8) 10 = true ∧ xingIn s 8 .w = some x
      ∧ portDirect (entryAtWalk (coreOf s 8) (coreOf s 8).rt.run) .w = true ∧ x.state = .opened
      ∧ x.accepted = xentry .data 0 :: [] ∧ x.takeClaims < x.accepted.length)
    ∧ (let b := { bay0 with w := 2 }
       let e := word [(120, 4)]
       let c := { pegCore e with rt := { (pegCore e).rt with arrivals := [⟨10, .row, .w, .row 5⟩] } }
       enterCycle (coreNo core0) 10 (withBay b c) = some (0, b, withBay b c) ∧ pegOut e .row .e = 4
        ∧ takeOut c ⟨c.rt.arrivals.filter (fun a => a.cycle == 10), c.rt.latches, none, none, none⟩ 10 .row .e 4 = some (.row 5)
        ∧ facing 8 .e = some 9 ∧ inBay b 9 = true ∧ siteOfCore 9 = siteOfCore 8) := by
  refine ⟨⟨rfl, rfl, ?_, ?_, ?_, rfl, rfl, ?_⟩, entered _ _ rfl rfl rfl, ?_, ?_, ?_, ?_, ?_⟩ <;> decide +kernel

/-- An entry that has come across long enough ago, and one that has not: of another epoch, a mark, a data entry; and a credit on its
way back. -/
theorem witness_CrossingEndsRun :
    let into (y : XEntry) : Crossing := xing 7 8 4 .e .w [y] [] []
    let back (r : XTrip) : Crossing := xing 8 9 4 .e .w [] [] [r]
    endRuns (pegState 0 []) 8 = true
    ∧ (∀ y, xingIn (noteTrips (atTime 0 (pegState 0 [into y]))) 8 .w = some (into y))
    ∧ tripDue (noteTrips (atTime 0 (pegState 0 [into (xentry .data 0)]))) 8 ⟨0, some 8⟩ = true
    ∧ tripDue (noteTrips (atTime 0 (pegState 0 [into (xentry .data 0)]))) 8 ⟨0, none⟩ = false
    ∧ (xentry .data 1).xepoch ≠ (into (xentry .data 1)).acceptXe
    ∧ ((xentry .mark 0).xepoch = (into (xentry .mark 0)).acceptXe ∧ (xentry .mark 0).kind = .mark)
    ∧ (xentry .data 0).kind ≠ .mark
    ∧ (∀ r, r ∈ [⟨0, some 8⟩, ⟨0, none⟩] → xingOut (noteTrips (atTime 0 (pegState 0 [back r]))) 8 .e = some (back r))
    ∧ tripDue (noteTrips (atTime 0 (pegState 0 [back ⟨0, some 8⟩]))) 8 ⟨0, some 8⟩ = true
    ∧ tripDue (noteTrips (atTime 0 (pegState 0 [back ⟨0, none⟩]))) 8 ⟨0, none⟩ = false := by
  refine ⟨by decide, fun y => rfl, ?_, ?_, ?_, ⟨rfl, rfl⟩, ?_, ?_, ?_, ?_⟩ <;> decide +kernel

/-! ## Bay commands -/

/-- The payload of a bay command. -/
def bayPay (bay point flags arg len : Nat) : List Byte :=
  natLe 2 bay ++ natLe 1 point ++ natLe 1 flags ++ natLe 4 0 ++ natLe 8 arg ++ natLe 4 len ++ natLe 4 0

/-- `BayTakes` as a Bool. -/
def bayTakes (op : Nat) (c : Cmd) (pay : List Byte) (s : State) (b : Bay) : Bool :=
  accepts op c pay s && bayOf s (payBay pay) == some b && b.part == cmdPart c
    && (baySupervisors b).all (fun n => !procHeld (takeCmd c s) n && !procStarts (takeCmd c s) n)
    && bayRows.all (fun x => x.1 != op || (firstFail (bayFormChecks x.2.2.1 pay) == stOk && x.2.2.2.1.contains b.mode
        && firstFail (x.2.2.2.2 b pay (takeCmd c s)) == stOk))

theorem takes_of {op : Nat} {c : Cmd} {pay : List Byte} {s : State} {b : Bay} (h : bayTakes op c pay s b = true) :
    BayTakes op c pay s b := by
  simp only [bayTakes, Bool.and_eq_true, beq_iff_eq] at h
  obtain ⟨⟨⟨⟨h1, h2⟩, h3⟩, h4⟩, h6⟩ := h
  refine ⟨accepted_of h1, h2, h3, fun n hn => by simpa using List.all_eq_true.mp h4 n hn, fun x hx ho => ?_⟩
  have := List.all_eq_true.mp h6 x hx
  simpa [ho, and_assoc] using this

/-- The panel with bay 0 in some state, its core as loaded. -/
def bayed (b : Bay) : State := withBay b (issuingCore (word [(124, 9)]))

/-- The bay loaded, held, and stopped. -/
def bayLoaded : Bay := { bay0 with mode := .loaded, count := 0 }
def bayHeld : Bay := { bay0 with mode := .held, conds := [.host] }
def bayStopped : Bay := { bay0 with mode := .stopped }

/-- The processor of the core's site in some state. -/
def procAs (r : ProcRun) (s : State) : State := modProc 29 (fun p => { p with run := r }) s

theorem witness_BayCommandChecks :
    (0x0202, Instr.bayHold, ⟨false, false, false, false⟩, [.running, .held], fun _ _ _ => []) ∈ bayRows
    ∧ Accepted 0x0202 (mail 0x0202 0 (p8 0 0 0 0 0)) (p8 0 0 0 0 0) (bayed bay0)
    ∧ (Accepted 0x0202 (mail 0x0202 0 (bayPay 0 0 0 0 1)) (bayPay 0 0 0 0 1) (bayed bay0)
        ∧ firstFail (bayFormChecks ⟨false, false, false, false⟩ (bayPay 0 0 0 0 1)) ≠ stOk)
    ∧ (Accepted 0x0202 (mail 0x0202 0 (bayPay 1 0 0 0 0)) (bayPay 1 0 0 0 0) (bayed bay0)
        ∧ bayOf (bayed bay0) 1 = none)
    ∧ (Accepted 0x0202 (mail 0x0202 0 (bayPay 0 0 0 0 0)) (bayPay 0 0 0 0 0) (bayed { bay0 with part := 1 })
        ∧ bayOf (bayed { bay0 with part := 1 }) 0 = some { bay0 with part := 1 })
    ∧ (Accepted 0x0202 (mail 0x0202 0 (bayPay 0 0 0 0 0)) (bayPay 0 0 0 0 0) (bayed bayStopped)
        ∧ bayOf (bayed bayStopped) 0 = some bayStopped)
    ∧ (Accepted 0x0206 (mail 0x0206 0 (bayPay 0 4 0 0 0)) (bayPay 0 4 0 0 0) (bayed { bay0 with hazard := true })
        ∧ bayOf (bayed { bay0 with hazard := true }) 0 = some { bay0 with hazard := true })
    ∧ procHeld (takeCmd (mail 0x0202 0 (bayPay 0 0 0 0 0)) (procAs .held (bayed bay0))) 29 = true
    ∧ Accepted 0x0202 (mail 0x0202 0 (bayPay 0 0 0 0 0)) (bayPay 0 0 0 0 0) (procAs .held (bayed bay0))
    ∧ procStarts (takeCmd (mail 0x0202 0 (bayPay 0 0 0 0 0)) (procAs .starting (bayed bay0))) 29 = true ∧ baySupervisors bay0 = [29]
    ∧ Accepted 0x0202 (mail 0x0202 0 (bayPay 0 0 0 0 0)) (bayPay 0 0 0 0 0) (procAs .starting (bayed bay0)) :=
  ⟨by simp [bayRows], accepted_of (by decide +kernel),
    ⟨accepted_of (by decide +kernel), by decide +kernel⟩, ⟨accepted_of (by decide +kernel), rfl⟩,
    ⟨accepted_of (by decide +kernel), rfl⟩, ⟨accepted_of (by decide +kernel), rfl⟩, ⟨accepted_of (by decide +kernel), rfl⟩,
    by decide +kernel, accepted_of (by decide +kernel), by decide +kernel, by decide +kernel, accepted_of (by decide +kernel)⟩

theorem witness_BayCommandsAct :
    Kept (bayed bayLoaded) ∧ Kept (bayed bay0) ∧ Kept (bayed bayHeld) ∧ Kept (bayed bayStopped)
    ∧ BayTakes 0x0201 (mail 0x0201 0 (bayPay 0 3 0 77 0)) (bayPay 0 3 0 77 0) (bayed bayLoaded) bayLoaded
    ∧ BayTakes 0x0202 (mail 0x0202 0 (bayPay 0 0 0 0 0)) (bayPay 0 0 0 0 0) (bayed bay0) bay0
    ∧ BayTakes 0x0202 (mail 0x0202 0 (bayPay 0 0 0 0 0)) (bayPay 0 0 0 0 0) (bayed bayHeld) bayHeld
    ∧ BayTakes 0x0203 (mail 0x0203 0 (bayPay 0 0 0 0 0)) (bayPay 0 0 0 0 0) (bayed bayHeld) bayHeld
    ∧ BayTakes 0x0204 (mail 0x0204 0 (bayPay 0 0 0 0 0)) (bayPay 0 0 0 0 0) (bayed bay0) bay0
    ∧ BayTakes 0x0204 (mail 0x0204 0 (bayPay 0 0 1 0 0)) (bayPay 0 0 1 0 0) (bayed bay0) bay0
    ∧ BayTakes 0x0206 (mail 0x0206 0 (bayPay 0 4 0 0 0)) (bayPay 0 4 0 0 0) (bayed bay0) bay0
    ∧ BayTakes 0x0206 (mail 0x0206 0 (bayPay 0 2 0 0 0)) (bayPay 0 2 0 0 0) (bayed bayLoaded) bayLoaded
    ∧ (BayTakes 0x0207 (mail 0x0207 0 (bayPay 0 0 0 0x40000 256)) (bayPay 0 0 0 0x40000 256) (bayed bay0) bay0
        ∧ BufferAnswers (mail 0x0207 0 (bayPay 0 0 0 0x40000 256)) 0x40000 256 (bayed bay0))
    ∧ BayTakes 0x0208 (mail 0x0208 0 (bayPay 0 0 0 0x40000 32)) (bayPay 0 0 0 0x40000 32) (bayed bay0) bay0
    ∧ BayTakes 0x0209 (mail 0x0209 0 (bayPay 0 0 0 0 0)) (bayPay 0 0 0 0 0) (bayed bayStopped) bayStopped
    ∧ (let b := { bay0 with hazard := true }
       BayTakes 0x020B (mail 0x020B 0 (bayPay 0 0 0 0x40000 528)) (bayPay 0 0 0 0x40000 528) (bayed b) b) := by
  refine ⟨kept_of (by decide +kernel), kept_of (by decide +kernel), kept_of (by decide +kernel), kept_of (by decide +kernel),
    takes_of (by decide +kernel), takes_of (by decide +kernel), takes_of (by decide +kernel), takes_of (by decide +kernel),
    takes_of (by decide +kernel), takes_of (by decide +kernel), takes_of (by decide +kernel), takes_of (by decide +kernel),
    ⟨takes_of (by decide +kernel), .inr (by decide +kernel)⟩, takes_of (by decide +kernel), takes_of (by decide +kernel),
    takes_of (by decide +kernel)⟩

theorem allowed_of {op : Nat} {checks : List Byte → State → List (Bool × Nat)} {c : Cmd} {pay : List Byte} {s : State}
    (h : (accepts op c pay s && firstFail (checks pay (takeCmd c s)) == stOk) = true) : Allowed op checks c pay s := by
  simp only [Bool.and_eq_true, beq_iff_eq] at h
  exact ⟨accepted_of h.1, h.2⟩

/-! ## Bays: holds, point changes, stops, faults -/

/-- A core that has run every cycle, its stream and its look-ahead finished. -/
def quietCore : Core := { coreZero with
  seq := { coreZero.seq with
    issue := { walkerZero with finished := true }
    ahead := { walkerZero with finished := true } }
  rt := { coreZero.rt with run := ⟨1000, 0, 0, [], 0⟩, ahead := ⟨1024, 0, 0, [], 0⟩ } }

/-- Bay 0 in some state, with a core that has nothing to do. -/
def calm (b : Bay) : State := withBay b quietCore

/-- A point change in some stage. -/
def pchange (g : PointStage) (freeze : Nat) (held : Bool) : PointChange :=
  ⟨4, g, freeze, held, 1000000000, mail 0x0206 0 (bayPay 0 4 0 0 0)⟩

/-- A stop in progress with its stop cycle. -/
def stopAt (n : Option Nat) : StopReq := ⟨some (mail 0x0204 0 (bayPay 0 0 0 0 0)), false, 0, n, 1000000000, none⟩

theorem witness_BaysRunHoldAndChange :
    (let b := { bay0 with freezeDue := some 10 }
     bayOf (calm b) 0 = some b ∧ b.freezeDue = some (b.count - 1) ∧ bayQuiet (atTime 2000000000 (calm b)) b b.count = true)
    ∧ (let b := { bay0 with mode := .held, frozenAt := some 1000000000 }
       let u := atTime 2000000000 (calm b)
       bayOf (calm b) 0 = some b ∧ bankOver u b = true ∧ b.bankPlans = [] ∧ b.faultDue = none
        ∧ (evalConds 0 (holdsNow b) u).1 = [] ∧ b.heldLong = false ∧ 1000000000 + 100000000 ≤ u.now)
    ∧ (let b := { bay0 with point := 5 }
       bayOf (calm b) 0 = some b ∧ boosted b = true ∧ b.boostTold.1 = false ∧ inletTooWarm (atTime 2000000000 (calm b)) = true)
    ∧ (let b := { bay0 with change := some (pchange .railRising 0 false) }
       bayOf (calm b) 0 = some b ∧ b.change.map (fun q => q.stage) = some .railRising)
    ∧ (let b := { bay0 with change := some (pchange .atHead 10 false) }
       bayOf (calm b) 0 = some b ∧ bayQuiet (atTime 2000000000 (calm b)) b b.count = true
        ∧ b.change.map (fun q => (q.stage, q.freeze + 1)) = some (.atHead, b.count))
    ∧ (let b := { bay0 with mode := .pointChange, frozenAt := some 1000000000, change := some (pchange .stopped 10 false) }
       bayOf (calm b) 0 = some b ∧ b.change.map (fun q => q.stage) = some .stopped
        ∧ 1000000000 + 1500 ≤ (atTime 2000000000 (calm b)).now ∧ b.faultDue = none
        ∧ stopsBays (atTime 2000000000 (calm b)) b.part = false)
    ∧ (let b := { bay0 with mode := .loaded, change := some (pchange .relocking 0 false) }
       bayOf (calm b) 0 = some b ∧ b.change.map (fun q => q.stage) = some .relocking
        ∧ 1000000000 + 1500 ≤ (atTime 2000000000 (calm b)).now)
    ∧ (let b := { bay0 with stop := some (stopAt (some 11)) }
       bayOf (calm b) 0 = some b ∧ bayQuiet (atTime 2000000000 (calm b)) b 11 = true
        ∧ b.stop.map (fun q => q.stopCycle) = some (some b.count))
    ∧ (bayOf (calm bay0) 0 = some bay0 ∧ bay0.faultDue = none ∧ 0 < bay0.count
        ∧ bayQuiet (atTime 2000000000 (calm bay0)) bay0 bay0.count = true
        ∧ (bayCores bay0).all (fun k => coreDone (coreOf (calm bay0) k) bay0.count) = true) := by
  refine ⟨⟨rfl, rfl, ?_⟩, ⟨rfl, ?_, rfl, rfl, ?_, rfl, ?_⟩, ⟨rfl, rfl, rfl, ?_⟩, ⟨rfl, rfl⟩, ⟨rfl, ?_, rfl⟩,
    ⟨rfl, rfl, ?_, rfl, ?_⟩, ⟨rfl, rfl, ?_⟩, ⟨rfl, ?_, rfl⟩, rfl, rfl, ?_, ?_, ?_⟩ <;> decide +kernel

/-- A droop; a bank hold with a planned hold; a fault that is due, in a running bay, at the last cycle that it may run, and of an
image in fault at once; a stop whose bay has drained, and one whose drain bound has passed. -/
theorem witness_BaysSlowStopAndFault :
    (bayOfCore (calm bay0) 8 = some (0, bay0) ∧ 10 + 1 = bay0.count ∧ bay0.droops = [])
    ∧ (let b := { bay0 with bankPlans := [⟨10, 3, 8, 2, 0⟩] }
       bayOfCore (calm b) 8 = some (0, b) ∧ b.bankPlans.filter (fun y => y.core == 8 && y.freeze == 10) = [⟨10, 3, 8, 2, 0⟩]
        ∧ bayQuiet (calm b) b b.count = true ∧ b.bankHeld = none)
    ∧ (let b := { bay0 with fault := 1, faultCore := some 8, faultDue := some 10 }
       bayOf (calm b) 0 = some b ∧ 10 < b.count ∧ bayQuiet (atTime 2000000000 (calm b)) b b.count = true)
    ∧ (let b := { bay0 with count := 300, mode := .draining, stop := some (stopAt (some 11)) }
       bayOf (calm b) 0 = some b ∧ (atTime 2000000000 (calm b)).host.removing = none
        ∧ bayQuiet (atTime 2000000000 (calm b)) b b.count = true ∧ drainFrom (atTime 2000000000 (calm b)) b + 256 ≤ b.count
        ∧ (bayCores b).all (fun k => enginesIdle (coreOf (calm b) k) b.count && accessDrained (coreOf (calm b) k)) = true)
    ∧ (let b := { bay0 with mode := .draining, drainBound := 1000, stop := some (stopAt (some 11)) }
       bayOf (calm b) 0 = some b ∧ 1000000000 + 1000 * b.drainBound ≤ (atTime 2000000000 (calm b)).now) := by
  refine ⟨⟨?_, rfl, rfl⟩, ⟨?_, rfl, ?_, rfl⟩, ⟨rfl, ?_, ?_⟩, ⟨rfl, rfl, ?_, ?_, ?_⟩, rfl, ?_⟩ <;> decide +kernel

/-! ## Loading -/

/-- Bytes in host memory from an address. -/
def inHost (a : Nat) (bs : List Byte) (s : State) : State := hostWrite a bs s

/-- An image of the one core with an empty crossing section. -/
def imageBody (epoch : Nat) : List Byte :=
  natLe 4 0x49425A4C ++ natLe 2 1 ++ natLe 1 2 ++ natLe 1 epoch ++ natLe 4 80 ++ natLe 4 100 ++ natLe 1 8 ++ natLe 1 0 ++ natLe 1 1
    ++ natLe 1 1 ++ natLe 4 1 ++ natLe 4 64 ++ natLe 4 0 ++ copies 32 0 ++ natLe 1 7 ++ natLe 1 0 ++ natLe 1 0xFF ++ natLe 1 0xFF
    ++ natLe 4 0 ++ natLe 4 0 ++ natLe 4 0

/-- The image with its CRC. -/
def image0 (epoch : Nat) : List Byte := putBytes (imageBody epoch) 0x3C (natLe 4 (imCrc (imageBody epoch)))

/-- The payload of BAY_LOAD. -/
def loadPay : List Byte := natLe 8 0x40000 ++ natLe 4 80 ++ natLe 1 0 ++ copies 3 0 ++ natLe 4 0 ++ copies 4 0

/-- The core with the active microcode. -/
def withImage (im : List Byte) (bays : List (Nat × Bay)) : State :=
  inHost 0x40000 im { ready with bays := bays, cores := [(8, { coreZero with microcode := activeMicro ready })] }

/-- What is to be loaded. -/
def request (im : List Byte) (c : Cmd) (bay : Option Nat) : LoadReq := ⟨c, im, 80, 0, false, 0, bay⟩

theorem load_takes : ∀ bays im, hostAnswer (takeCmd (mail 0x0200 0 loadPay) (withImage im bays)) 0x40000 80 = none →
    accepts 0x0200 (mail 0x0200 0 loadPay) loadPay (withImage im bays) = true →
    LoadTakes (mail 0x0200 0 loadPay) loadPay (withImage im bays) :=
  fun _ _ h g => ⟨accepted_of g, by decide +kernel, by decide +kernel, by decide +kernel, by decide +kernel, by decide +kernel, h⟩

theorem cores_in_order {im : Img} {s : State} (h : (imCores im).all (fun k => decide ((coreOf s k).suspects = [])
      && decide ((coreOf s k).microcode = activeMicro s) && coreUsable s k) = true)
    (g : (imSites im).all (fun i => decide ((mapGetD s.bufs i bufferZero).suspects = [])) = true) : CoresInOrder im s := by
  refine ⟨fun k hk => ?_, fun i hi => ?_⟩
  · have := List.all_eq_true.mp h k hk
    simpa [and_assoc] using this
  · simpa using List.all_eq_true.mp g i hi

theorem dies_run {im : Img} {s : State}
    (h : ((imSites im).filterMap procOfSite).all (fun n => !procHeld s n && !procStarts s n) = true) : DiesRun im s :=
  fun n hn => by simpa using List.all_eq_true.mp h n hn

theorem supervisors_run {b : Bay} {s : State}
    (h : (baySupervisors b).all (fun n => !procHeld s n && !procStarts s n) = true) : SupervisorsRun s b :=
  fun n hn => by simpa using List.all_eq_true.mp h n hn

/-- An image of zeros, an image in order, a reconfiguration of a running bay and of a stopped one, and the reports. -/
theorem witness_BaysLoad :
    (Kept (withImage [] []) ∧ LoadTakes (mail 0x0200 0 loadPay) loadPay (withImage [] [])
      ∧ (loadErr (takeCmd (mail 0x0200 0 loadPay) (withImage [] [])) (request (copies 80 0) (mail 0x0200 0 loadPay) none)).isSome
          = true)
    ∧ (let s := withImage (image0 5) []
       let u := takeCmd (mail 0x0200 0 loadPay) s
       let r := request (hostRead u 0x40000 80) (mail 0x0200 0 loadPay) none
       Kept s ∧ LoadTakes (mail 0x0200 0 loadPay) loadPay s ∧ loadErr u r = none ∧ DiesRun (imgOf r.bytes) u
        ∧ CoresInOrder (imgOf r.bytes) u)
    ∧ (let pay := bayPay 0 0 0 0x40000 80
       let c := mail 0x0205 0 pay
       Accepted 0x0205 c pay (bayed bay0) ∧ firstFail (bayFormChecks ⟨false, true, true, true⟩ pay) = stOk
        ∧ bayOf (bayed bay0) 0 = some bay0 ∧ stopBlocked bay0 false = false ∧ SupervisorsRun (takeCmd c (bayed bay0)) bay0)
    ∧ (let pay := bayPay 0 0 0 0x40000 80
       let c := mail 0x0205 0 pay
       let s := withImage (image0 0) [(0, bayStopped)]
       let u := takeCmd c s
       let r := request (hostRead u 0x40000 80) c (some 0)
       Accepted 0x0205 c pay s ∧ bayOf s 0 = some bayStopped ∧ stopBlocked bayStopped false = false ∧ SupervisorsRun u bayStopped
        ∧ hostAnswer u 0x40000 80 = none ∧ loadErr u r = none ∧ CoresInOrder (imgOf r.bytes) u)
    ∧ (Accepted 0x020A (mailBuf 0x020A 0 0x40000 512) [] ready
        ∧ BufferAnswers (mailBuf 0x020A 0 0x40000 512) 0x40000 512 ready) := by
  refine ⟨⟨kept_of ?_, load_takes _ _ ?_ ?_, ?_⟩, ⟨kept_of ?_, load_takes _ _ ?_ ?_, ?_, dies_run ?_, cores_in_order ?_ ?_⟩,
    ⟨accepted_of ?_, ?_, rfl, ?_, supervisors_run ?_⟩,
    ⟨accepted_of ?_, ?_, ?_, supervisors_run ?_, ?_, ?_, cores_in_order ?_ ?_⟩, accepted_of ?_, .inr ?_⟩
    <;> decide +kernel

/-! ## The service fabric -/

/-- A request of partition 0 from its first compute die. -/
def packet (dest op len : Nat) (data : List Byte) : Packet :=
  ⟨BitVec.ofNat 56 dest, BitVec.ofNat 4 17, BitVec.ofNat 4 (17 / 16), 0, BitVec.ofNat 4 op, false, 0, len, 9, 0, data⟩

/-- A packet comes in, as a Bool. -/
def comesIn (sent : List Packet) (since : Option Nat) (q : Packet) (s : State) : Bool :=
  isNextOf sent q && !routeTrains s q && !turnLost s q && since.all (fun t => !routeDarkened s q t)

theorem comes_of {sent : List Packet} {since : Option Nat} {q : Packet} {s : State} (h : comesIn sent since q s = true) :
    ComesIn sent since q s := by
  simp only [comesIn, Bool.and_eq_true, Bool.not_eq_true'] at h
  refine ⟨h.1.1.1, h.1.1.2, ?_⟩
  have h2 := h.2
  cases since with
  | none => simp [packetLost, h.1.2]
  | some t =>
    simp only [Option.all_some, Bool.not_eq_true'] at h2
    simp [packetLost, h.1.2, h2]

/-- A request reaches its unit, as a Bool. -/
def reaches (q : Packet) (s : State) : Bool :=
  comesIn (s.fab.flight.map (fun f => f.q)) (sentAt s q) q s && (arrivalStatus s q).isNone && !waitsForReset q s

theorem reaches_of {q : Packet} {s : State} (h : reaches q s = true) : Reaches q s := by
  simp only [reaches, Bool.and_eq_true, Bool.not_eq_true', Option.isNone_iff_eq_none] at h
  exact ⟨comes_of h.1.1, h.1.2, h.2⟩

/-- A flight of a packet. -/
def onWay (q : Packet) : Flight := ⟨q, none, .nothing⟩

theorem clean_of {m : MemKind} {off n : Nat} {s : State} (h : s.err.armed = [])
    (g : (wordsOf m off n).all (fun w => !isBad s m w) = true) : CleanRange m off n s :=
  ⟨h, fun w hw => by simpa using List.all_eq_true.mp g w hw⟩

/-- The panel at a later time. -/
def later : State := atTime 2000000000 ready

/-- The panel whose weight store 0 has a page of blocks. -/
def withPage : State := { ready with boot := { ready.boot with
  store := [(0, { storeZero with pages := [(0, { pageUnwritten with pfmt := 2, elemFmt := 8, nblk := 4, used := 132 })] })] } }

theorem witness_ServicePackets :
    (let q := packet (14 * 2 ^ 48) 1 64 []
     RequestIn q later ∧ arrivalStatus later q = some 4 ∧ opcodeOf q < 2
        ∧ opcodeOf { q with opcode := 2, len := 0 } = 2 ∧ dataFits { q with opcode := 2, len := 0 } = true)
    ∧ (let q := packet (stackAddr 0 64) 1 64 []
       addrY (destOf q) < 14 ∧ isNextOf ([onWay { q with tag := 8 }, onWay q].map (fun f => f.q)) q = false
        ∧ routeTrains (setHop (6 * 18 + 3) { hopZero with training := true } later) (packet (addrOf 18 0 64) 1 64 []) = true)
    ∧ (let q := packet (stackAddr 0 64) 1 64 []
       Reaches q later ∧ memKindOf (addrSite (destOf q)) (addrUnit (destOf q)) = some (.stack 0) ∧ badRange q = false
        ∧ addrOff (destOf q) + 64 ≤ memSize later (.stack 0) ∧ memOpen later (.stack 0) 64 64 ∧ CleanRange (.stack 0) 64 64 later)
    ∧ (let q := packet (addrOf 18 0 64) 1 64 []
       Reaches q later ∧ (memKindOf (addrSite (destOf q)) (addrUnit (destOf q)) = some (.core (coreOfBit 18 0))) ∧ badRange q = false
        ∧ addrOff (destOf q) + 64 ≤ memSize later (.core (coreOfBit 18 0)) ∧ memOpen later (.core (coreOfBit 18 0)) 64 64
        ∧ CleanRange (.core (coreOfBit 18 0)) 64 64 later)
    ∧ (let q := packet (stackAddr 0 64) 2 4 [1, 2, 3, 4]
       dataFits q = true ∧ Reaches q later ∧ memKindOf (addrSite (destOf q)) (addrUnit (destOf q)) = some (.stack 0)
        ∧ badRange q = false ∧ addrOff (destOf q) + 4 ≤ memSize later (.stack 0)
        ∧ memOpen later (.stack 0) 64 4 ∧ CleanRange (.stack 0) 64 4 later)
    ∧ (let q := packet (addrOf 18 0 64) 2 4 [1, 2, 3, 4]
       dataFits q = true ∧ Reaches q later ∧ memKindOf (addrSite (destOf q)) (addrUnit (destOf q)) = some (.core (coreOfBit 18 0))
        ∧ badRange q = false ∧ addrOff (destOf q) + 4 ≤ memSize later (.core (coreOfBit 18 0)) ∧ later.fab.flight = [])
    ∧ (let q := { packet (storeAddr 0 64) 2 4 [1, 2, 3, 4] with fw := true }
       dataFits q = true ∧ Reaches q later ∧ memKindOf (addrSite (destOf q)) (addrUnit (destOf q)) = some (.array 0)
        ∧ badRange q = false ∧ addrOff (destOf q) + 4 ≤ memSize later (.array 0))
    ∧ (let q := packet (addrOf (siteOfStack 0) 1 0) 2 64 (copies 64 0)
       dataFits q = true ∧ Reaches q later ∧ placeRole (addrSite (destOf q)) = 2 ∧ addrUnit (destOf q) = 1
        ∧ engineAbsent later (stackOfSite (addrSite (destOf q))) = false ∧ badRange q = false
        ∧ addrOff (destOf q) + q.len ≤ 0x100000
        ∧ addrOff (destOf q) % 64 = 0 ∧ q.len % 64 = 0 ∧ (engineOf later (stackOfSite (addrSite (destOf q)))).queue = [])
    ∧ (let q := { packet (addrOf (siteOfWstore 0) 1 0) 1 66 [] with fw := true }
       let s := atTime 2000000000 withPage
       Reaches q s ∧ placeRole (addrSite (destOf q)) = 4 ∧ addrUnit (destOf q) = 1
        ∧ badRange { q with dest := BitVec.ofNat 56 0 } = false ∧ addrOff (destOf q) < 0x400000000
        ∧ inflateBad (pageOf s 0 0) 0 66 = false ∧ inflateBad (pageOf s 0 0) 3 66 = true
        ∧ (let sp := inflateSpan (pageOf s 0 0) 0 2
           CleanRange (.array 0) sp.1 sp.2 s))
    ∧ (let q := packet (addrOf 18 0xF1 0) 6 0 []
       opcodeOf q = 6 ∧ dataFits q = true ∧ arrivalStatus later q ≠ some 3 ∧ Kept ready)
    ∧ arrivalStatus (atTime 2000000000 (withEntry 18 (fun e => { e with part := 1 }))) (packet (addrOf 18 0 0) 6 0 []) = some 3 := by
  refine ⟨⟨comes_of ?_, ?_, ?_, ?_, ?_⟩, ⟨?_, ?_, ?_⟩, ⟨reaches_of ?_, ?_, ?_, ?_, ⟨?_, ?_⟩, clean_of ?_ ?_⟩,
    ⟨reaches_of ?_, ?_, ?_, ?_, ⟨?_, ?_⟩, clean_of ?_ ?_⟩, ⟨?_, reaches_of ?_, ?_, ?_, ?_, ⟨?_, ?_⟩, clean_of ?_ ?_⟩,
    ⟨?_, reaches_of ?_, ?_, ?_, ?_, ?_⟩, ⟨?_, reaches_of ?_, ?_, ?_, ?_⟩,
    ⟨?_, reaches_of ?_, ?_, ?_, ?_, ?_, ?_, ?_, ?_, ?_⟩,
    ⟨reaches_of ?_, ?_, ?_, ?_, ?_, ?_, ?_, clean_of ?_ ?_⟩, ⟨?_, ?_, ?_, kept_ready⟩, ?_⟩ <;> decide +kernel

/-- A flit of SEQ 0 whose CRC is right. -/
def goodFlit : HopFlit := sealFlit ⟨0, 1, 0, true, true, 0⟩ []

theorem witness_AnswersHopsAndCongestionMaps :
    (let q := packet (addrOf 17 0 0) 3 0 []
     let r := packet (addrOf 18 0 0) 1 64 []
     let s := { ready with fab := { ready.fab with answers := [q], awaits := [⟨r, 1000000000⟩] } }
     Kept s ∧ 3 ≤ opcodeOf q ∧ opcodeOf q ≤ 5 ∧ q ∈ s.fab.answers
      ∧ s.fab.awaits.find? (awaits (srcSite q) 17 0 q.tag.toNat) = none
      ∧ ComesIn s.fab.answers none q (atTime 2000000000 s)
      ∧ (srcSite q < 224 → (routeOf s.fab.routes (srcSite q) 17).isSome = true))
    ∧ (let q := packet (addrOf 17 0 0) 3 0 []
       let r := packet (addrOf 17 0 0) 1 64 []
       let s := { ready with fab := { ready.fab with answers := [q], awaits := [⟨r, 1000000000⟩] } }
       Kept s ∧ q ∈ s.fab.answers ∧ s.fab.awaits.find? (awaits (srcSite q) 17 0 q.tag.toNat) = some ⟨r, 1000000000⟩
        ∧ ComesIn s.fab.answers (some 1000000000) q (atTime 2000000000 s) ∧ placeRole 17 = 1
        ∧ s.fab.awaits.find? (fun a => srcSite a.q == 17 && a.q.srcUnit == 0 && a.q.tag == 9
            && decide (a.sent + 10000000 ≤ (atTime 2000000000 s).now)) = some ⟨r, 1000000000⟩)
    ∧ (Kept ready ∧ ready.err.armed = [] ∧ siteWorks later 17 = true ∧ (hopOf ready (6 * 17 + 1)).training = false
        ∧ (hopOf ready (6 * 17 + 1)).down = false ∧ flitGood goodFlit = true ∧ (sidebandOf goodFlit).seq = (hopOf ready (6 * 17 + 1)).expect
        ∧ (sidebandOf goodFlit).seq ≠ { hopZero with expect := 3 }.expect ∧ flitGood ⟨0, 1⟩ = false)
    ∧ (let s := setHop (6 * 17 + 1) { hopZero with training := true, fails := 2 } ready
       Kept s ∧ s.err.armed = [] ∧ (hopOf s (6 * 17 + 1)).training = true ∧ 2 ≤ (hopOf s (6 * 17 + 1)).fails)
    ∧ (hopOf (setHop (6 * 17 + 1) { hopZero with training := true, fails := 1 } ready) (6 * 17 + 1)).fails < 2
    ∧ (sampleFormOk (copies 6 128) (copies 6 (copies 4 true)) = true ∧ siteWorks ready 17 = true ∧ portThere 17 1 = true)
    ∧ ready.fab.window < tickOf later
    ∧ (let pay := natLe 1 15 ++ copies 3 0 ++ natLe 4 68160 ++ natLe 8 0x40000
       let c := mail 0x0306 0 pay
       Accepted 0x0306 c pay ready ∧ pay.length = 16 ∧ 68160 ≤ leAt pay 4 4 ∧ leAt pay 0 1 ≤ 15 ∧ zeroAt pay 1 3 = true
        ∧ ∀ n, BufferAnswers c (leAt pay 8 8) n (takeCmd c ready)) := by
  refine ⟨⟨kept_of ?_, ?_, ?_, ?_, ?_, comes_of ?_, ?_⟩, ⟨kept_of ?_, ?_, ?_, comes_of ?_, ?_, ?_⟩,
    ⟨kept_ready, ?_, ?_, ?_, ?_, ?_, ?_, ?_, ?_⟩, ⟨kept_of ?_, ?_, ?_, ?_⟩, ?_, ⟨?_, ?_, ?_⟩, ?_, ⟨accepted_of ?_, ?_, ?_, ?_, ?_, fun n => .inr rfl⟩⟩ <;> decide +kernel

/-! ## Partitions and stacks -/

/-- Stack 0 in some state. -/
def withStack (h : StackState) : State := { ready with hbms := [(0, h)] }

/-- Each command of partitions; a site new to its partition and one that it has already; a window set and cleared; one stack and
all. -/
theorem witness_PartitionCommands :
    (Kept ready ∧ ready.fp.built = true)
    ∧ Allowed 0x0300 (partitionChecks 0x0300) (mail 0x0300 0xFF (p8 7 3 0 0 0)) (p8 7 3 0 0 0) ready
    ∧ (let s := { ready with parts := ready.parts.set 7 { partitionZero with present := true } }
       Kept s ∧ Allowed 0x0301 (partitionChecks 0x0301) (mail 0x0301 0xFF (p8 7 0 0 0 0)) (p8 7 0 0 0 0) s)
    ∧ (Allowed 0x0302 (partitionChecks 0x0302) (mail 0x0302 0xFF (p8 0 0 3 1 5)) (p8 0 0 3 1 5) ready
        ∧ (entryAt ready (partSite (p8 0 0 3 1 5))).part ≠ 0 ∧ placeRole (partSite (p8 0 0 3 1 5)) = 1)
    ∧ (Allowed 0x0302 (partitionChecks 0x0302) (mail 0x0302 0xFF (p8 0 0 1 1 0)) (p8 0 0 1 1 0) ready
        ∧ (entryAt ready (partSite (p8 0 0 1 1 0))).part = 0)
    ∧ (let b := siteOfStack 5
       Allowed 0x0302 (partitionChecks 0x0302) (mail 0x0302 0xFF (p8 0 0 (siteX b) (siteY b) 0)) (p8 0 0 (siteX b) (siteY b) 0) ready
        ∧ placeRole (partSite (p8 0 0 (siteX b) (siteY b) 0)) = 2)
    ∧ Allowed 0x0303 (partitionChecks 0x0303) (mail 0x0303 0xFF (p8 0 0 1 1 0)) (p8 0 0 1 1 0) ready
    ∧ (let pay := natLe 1 0 ++ natLe 1 63 ++ natLe 1 0 ++ natLe 1 0 ++ natLe 4 3 ++ natLe 8 0x800 ++ natLe 8 0x1000
       Allowed 0x0304 (partitionChecks 0x0304) (mail 0x0304 0xFF pay) pay ready ∧ leAt pay 2 1 = 0)
    ∧ (let pay := natLe 1 0 ++ natLe 1 63 ++ natLe 1 1 ++ copies 21 0
       Allowed 0x0304 (partitionChecks 0x0304) (mail 0x0304 0xFF pay) pay ready ∧ leAt pay 2 1 = 1)
    ∧ (Allowed 0x0305 (partitionChecks 0x0305) (mail 0x0305 0xFF (p8 31 0 168 0 0)) (p8 31 0 168 0 0) ready
        ∧ siteAbsent ready (siteOfStack 31) = false)
    ∧ Allowed 0x0305 (partitionChecks 0x0305) (mail 0x0305 0xFF (p8 0xFF 0 1 0 0)) (p8 0xFF 0 1 0 0) ready := by
  refine ⟨⟨kept_ready, rfl⟩, allowed_of ?_, ⟨kept_of ?_, allowed_of ?_⟩, ⟨allowed_of ?_, ?_, ?_⟩, ⟨allowed_of ?_, ?_⟩, ⟨allowed_of ?_, ?_⟩,
    allowed_of ?_, ⟨allowed_of ?_, ?_⟩, ⟨allowed_of ?_, ?_⟩, ⟨allowed_of ?_, ?_⟩, allowed_of ?_⟩ <;> decide +kernel

/-- A word with no finding, one corrected, one beyond correction; a scheduled unit; a row due with spare rows left, and the last. -/
theorem witness_StacksAreScrubbed :
    (scrubs ready 0 = true ∧ 64 * 3 < memSize later (.stack 0) ∧ patrolDue later.now 3 stackZero = true
      ∧ patrolDue later.now 3 { stackZero with patrolled := [3] } = false ∧ ready.err.armed = [] ∧ (3 : Nat) ∉ stackZero.bad
      ∧ 64 * 3 ∈ (⟨[], [192]⟩ : EccFinding).uncorrectable ∧ 64 * 3 ∈ (⟨[192], []⟩ : EccFinding).corrected)
    ∧ (let s := withStack { stackZero with scrubs := [(5, 1000000000)] }
       scrubs s 0 = true ∧ (mapGet? (mapGetD s.hbms 0 stackZero).scrubs 5).isSome = true)
    ∧ (let s := withStack { stackZero with retiring := [9], spares := 4094 }
       scrubs s 0 = true ∧ 9 ∈ (mapGetD s.hbms 0 stackZero).retiring ∧ (mapGetD s.hbms 0 stackZero).spares < 4095)
    ∧ (let s := withStack { stackZero with retiring := [9], spares := 4095 }
       scrubs s 0 = true ∧ 9 ∈ (mapGetD s.hbms 0 stackZero).retiring ∧ (mapGetD s.hbms 0 stackZero).spares = 4095) := by
  refine ⟨⟨?_, ?_, ?_, ?_, ?_, ?_, ?_, ?_⟩, ⟨?_, ?_⟩, ⟨?_, ?_, ?_⟩, ?_, ?_, ?_⟩ <;> decide +kernel

/-! ## Embedding engines -/

/-- A table of partition 0 on stack 0. -/
def emb0 : EmbTable where
  part := 0
  fmt := 4
  elems := 64
  rebuildable := true
  rows := 2
  stride := 64
  baseA := 0x1000
  baseB := 0x2000
  epoch := 0
  phase := .idle
  share := 15
  src := ⟨4, 0, 0, 0, 0, false⟩
  rowsDone := 0
  failRow := 0xFFFFFFFF
  lastRow := 0
  resErrors := 0
  requests := 0
  rowsRead := 0
  notOk := 0

/-- The panel with an engine on stack 0 in some state. -/
def withEngine (e : EmbEngine) : State := { ready with engines := [(0, e)] }

/-- The panel with the table in some state. -/
def withTable (x : EmbTable) : State := withEngine { engineZero with tables := [(0, x)] }

/-- The panel with an open batch of partition 0. -/
def withBatch (b : EmbBatch) : State :=
  { withTable emb0 with parts := modAt ready.parts 0 (fun p => { p with embBatches := [(0, b)] }) }

/-- A request for a table: one index at the start of the stack, its result there too. -/
def lookup (table pool nidx : Nat) : EmbRequest :=
  ⟨natLe 1 table ++ natLe 1 pool ++ natLe 2 0 ++ natLe 2 0xFFFF ++ natLe 2 nidx ++ natLe 8 (stackAddr 0 0) ++ natLe 8 0
    ++ natLe 8 (stackAddr 0 0x4000) ++ natLe 8 0 ++ copies 24 0, 1, 1, 0, true⟩

theorem runs_of {n : Nat} {s : State} (h : (!procHeld s ((procOfSite (siteOfStack n)).getD 0)
    && !procStarts s ((procOfSite (siteOfStack n)).getD 0)) = true) : StackRuns n s := by
  simpa [StackRuns] using h

theorem in_turn {part : Nat} {s : State} (h : s.fw.waiting = []) : InTurn part s := by simp [InTurn, h]

/-- Each command of the engines; EMB_REBUILD_CTRL once for each of its operations. -/
theorem witness_EmbeddingCommands :
    (let pay := natLe 1 0 ++ natLe 1 63 ++ natLe 1 0 ++ natLe 1 4 ++ natLe 2 64 ++ natLe 2 1 ++ natLe 4 2 ++ natLe 4 64
        ++ natLe 8 0x1000 ++ natLe 8 0x2000
     Kept ready ∧ Allowed 0x0400 (embeddingChecks 0x0400 (mail 0x0400 0 pay)) (mail 0x0400 0 pay) pay ready
      ∧ StackRuns 0 (takeCmd (mail 0x0400 0 pay) ready))
    ∧ (let s := withTable emb0
       Kept s ∧ Allowed 0x0401 (embeddingChecks 0x0401 (mail 0x0401 0 (p8 0 0 0 0 0))) (mail 0x0401 0 (p8 0 0 0 0 0)) (p8 0 0 0 0 0) s
        ∧ StackRuns 0 (takeCmd (mail 0x0401 0 (p8 0 0 0 0 0)) s))
    ∧ (let c := mail 0x0402 0 (p8 0 0 0 0 0)
       let s := withTable emb0
       let w : ProcWait := ⟨(procOfSite (siteOfStack 0)).getD 0, 0, mail 0x0406 0 (p8 0 0 0 0 0), p8 0 0 0 0 0⟩
       let s2 := { s with fw := { s.fw with waiting := [w] } }
       Allowed 0x0402 (embeddingChecks 0x0402 c) c (p8 0 0 0 0 0) s ∧ InTurn 0 (takeCmd c s)
        ∧ (pinProcs (takeCmd c s) 0).all (fun m => !procHeld (takeCmd c s) m && !procStarts (takeCmd c s) m) = true
        ∧ Allowed 0x0402 (embeddingChecks 0x0402 c) c (p8 0 0 0 0 0) s2
        ∧ (takeCmd c s2).fw.waiting.find? (fun w => orderedPart (takeCmd c s2) w == some 0) = some w)
    ∧ (let s := withBatch ⟨[(0, 0)], none⟩
       Kept s ∧ Allowed 0x0403 (embeddingChecks 0x0403 (mail 0x0403 0 (p8 0 0 0 0 0))) (mail 0x0403 0 (p8 0 0 0 0 0)) (p8 0 0 0 0 0) s)
    ∧ (let pay := natLe 1 0 ++ natLe 1 0 ++ natLe 1 100 ++ natLe 1 0 ++ natLe 4 0 ++ natLe 4 2 ++ natLe 4 64
        ++ natLe 8 (stackAddr 0 0) ++ copies 8 0
       let c := mail 0x0404 0 pay
       Allowed 0x0404 (embeddingChecks 0x0404 c) c pay (withTable emb0) ∧ StackRuns 0 (takeCmd c (withTable emb0)))
    ∧ (let s := withTable { emb0 with phase := .running }
       let c := mail 0x0405 0 (p8 0 0 0 0 0)
       Allowed 0x0405 (embeddingChecks 0x0405 c) c (p8 0 0 0 0 0) s ∧ StackRuns 0 (takeCmd c s))
    ∧ (let s := withTable { emb0 with phase := .paused }
       let c := mail 0x0405 0 (p8 0 0 1 0 0)
       Allowed 0x0405 (embeddingChecks 0x0405 c) c (p8 0 0 1 0 0) s ∧ StackRuns 0 (takeCmd c s))
    ∧ (let s := withTable { emb0 with phase := .paused }
       let c := mail 0x0405 0 (p8 0 0 2 100 0)
       Allowed 0x0405 (embeddingChecks 0x0405 c) c (p8 0 0 2 100 0) s ∧ StackRuns 0 (takeCmd c s))
    ∧ (let s := withTable { emb0 with phase := .failed }
       let c := mail 0x0405 0 (p8 0 0 3 0 0)
       Allowed 0x0405 (embeddingChecks 0x0405 c) c (p8 0 0 3 0 0) s ∧ StackRuns 0 (takeCmd c s))
    ∧ (let s := withTable { emb0 with phase := .complete }
       let c := mail 0x0406 0 (p8 0 0 0 0 0)
       Kept s ∧ Allowed 0x0406 (embeddingChecks 0x0406 c) c (p8 0 0 0 0 0) s ∧ StackRuns 0 (takeCmd c s) ∧ InTurn 0 (takeCmd c s))
    ∧ (let pay := copies 4 0 ++ natLe 4 64 ++ natLe 8 0x40000
       let c := mail 0x0407 0 pay
       Allowed 0x0407 (embeddingChecks 0x0407 c) c pay (withTable emb0) ∧ StackRuns 0 (takeCmd c (withTable emb0))
        ∧ BufferAnswers c (leAt pay 8 8) 64 (takeCmd c (withTable emb0)))
    ∧ (let b : EmbBatch := ⟨[(0, 0)], some (mail 0x0403 0 (p8 0 0 0 0 0))⟩
       mapGet? (partOf (withBatch b) 0).embBatches 0 = some b ∧ batchBusy (withBatch b) 0 0 = false) := by
  refine ⟨⟨kept_ready, allowed_of ?_, runs_of ?_⟩, ⟨kept_of ?_, allowed_of ?_, runs_of ?_⟩,
    ⟨allowed_of ?_, in_turn rfl, ?_, allowed_of ?_, ?_⟩, ⟨kept_of ?_, allowed_of ?_⟩,
    ⟨allowed_of ?_, runs_of ?_⟩, ⟨allowed_of ?_, runs_of ?_⟩, ⟨allowed_of ?_, runs_of ?_⟩, ⟨allowed_of ?_, runs_of ?_⟩,
    ⟨allowed_of ?_, runs_of ?_⟩, ⟨kept_of ?_, allowed_of ?_, runs_of ?_, in_turn rfl⟩, ⟨allowed_of ?_, runs_of ?_, .inr ?_⟩, ?_, ?_⟩
    <;> decide +kernel

/-- A rebuild under way. -/
def rebuilding (row : Nat) : EmbTable := { emb0 with phase := .running, rowsDone := row }

/-- Requests: with a form that is wrong, with no index, with an index in range, with one out of range, of a table that is not there;
a result; a rebuild's row in the middle and its last, a row that cannot be read, and a second without one. -/
theorem witness_LookupsAndRebuildsRun :
    (let x := { engineZero with tables := [(0, emb0)], queue := [lookup 0 4 1] }
     scrubs (withEngine x) 0 = true ∧ Kept (withEngine x) ∧ tableOf (withEngine x) 0 0 = some emb0
      ∧ requestStatus (atTime 2000000000 (withEngine x)) 0 (lookup 0 4 1) ≠ 0)
    ∧ (let x := { engineZero with tables := [(0, emb0)], queue := [lookup 0 0 0] }
       Kept (withEngine x) ∧ tableOf (withEngine x) 0 0 = some emb0
        ∧ requestStatus (atTime 2000000000 (withEngine x)) 0 (lookup 0 0 0) = 0 ∧ rqNidx (lookup 0 0 0).raw = 0)
    ∧ (let x := { engineZero with tables := [(0, emb0)], queue := [lookup 0 0 1] }
       let u := atTime 2000000000 (withEngine x)
       let v := modEngine 0 (fun e => { e with queue := [] }) u
       let ix := embRead 0 (lookup 0 0 1) ⟨[], []⟩ (rqIdx (lookup 0 0 1).raw) 4 v
       Kept (withEngine x) ∧ requestStatus u 0 (lookup 0 0 1) = 0 ∧ rqNidx (lookup 0 0 1).raw = 1 ∧ ix.1 = 0 ∧ ix.2.2.2 = v
        ∧ ((words32 ix.2.2.1 1).filter (fun i => decide (2 ≤ i))).length = 0 ∧ rqPool (lookup 0 0 1).raw ≠ 2
        ∧ words32 ix.2.2.1 1 = [0] ∧ CleanRange (.stack 0) (copyBase emb0 (requestEpoch u 0 emb0 (lookup 0 0 1)) + 0 * 64) 64 u)
    ∧ (let x := { engineZero with tables := [(0, emb0)], queue := [lookup 0 0 1] }
       let s := { withEngine x with mem := [(stackAddr 0 0, 2)] }
       let u := atTime 2000000000 s
       let v := modEngine 0 (fun e => { e with queue := [] }) u
       let ix := embRead 0 (lookup 0 0 1) ⟨[], []⟩ (rqIdx (lookup 0 0 1).raw) 4 v
       Kept s ∧ requestStatus u 0 (lookup 0 0 1) = 0 ∧ ix.1 = 0 ∧ ix.2.2.2 = v
        ∧ ((words32 ix.2.2.1 1).filter (fun i => decide (2 ≤ i))).length = 1)
    ∧ (let x := { engineZero with queue := [lookup 0 0 1] }
       Kept (withEngine x) ∧ tableOf (withEngine x) 0 0 = none)
    ∧ (let r : EmbRun := ⟨lookup 0 0 2, 0, 0, 0, 64, [copies 64 0, copies 64 1], []⟩
       let x := { engineZero with tables := [(0, emb0)], runs := [r] }
       Kept (withEngine x) ∧ isOrder r.rows.length [1, 0] = true ∧ rqBf16 r.req.raw = false ∧ rqPool r.req.raw = 0
        ∧ r.rows.all (fun y => y.length == r.elems) = true)
    ∧ (let s := withTable (rebuilding 0)
       let u := atTime 2000000000 s
       tableOf s 0 0 = some (rebuilding 0) ∧ idleReaders (rebuilding 0) 0 (engineOf s 0) = false
        ∧ rebuildRow 0 (rebuilding 0) 0 ⟨[], []⟩ u = (0, copies 64 0, u) ∧ CleanRange (.stack 0) 0x2000 64 u)
    ∧ (let s := withTable (rebuilding 1)
       let u := atTime 2000000000 s
       tableOf s 0 0 = some (rebuilding 1) ∧ scrubs s 0 = true ∧ (rebuilding 1).rows ≤ (rebuilding 1).rowsDone + 1
        ∧ rebuildRow 0 (rebuilding 1) 1 ⟨[], []⟩ u = (0, copies 64 0, u) ∧ CleanRange (.stack 0) 0x2040 64 u
        ∧ (rebuilding 1).lastRow + 1000000000 ≤ u.now)
    ∧ (let x := { rebuilding 0 with src := ⟨4, 0, 2, 64, 0, true⟩ }
       let s := { withTable x with hostFail := [(0, 0x1000, true)] }
       let u := atTime 2000000000 s
       tableOf s 0 0 = some x ∧ scrubs s 0 = true ∧ ∃ bs, rebuildRow 0 x 0 ⟨[], []⟩ u = (3, bs, u))
    ∧ (let x := { rebuilding 0 with src := ⟨4, 0, 2, 64, coreAddr 8 0, false⟩ }
       let s := { withTable x with cores := [(8, moving { coreZero.ax with remote := [⟨rowWrite, false, false, 2⟩] })] }
       tableOf s 0 0 = some x ∧ (rebuildRow 0 x 0 ⟨[], []⟩ (atTime 2000000000 s)).1 = notYet) := by
  refine ⟨⟨?_, kept_of ?_, ?_, ?_⟩, ⟨kept_of ?_, ?_, ?_, ?_⟩, ⟨kept_of ?_, ?_, ?_, ?_, rfl, ?_, ?_, ?_, clean_of ?_ ?_⟩,
    ⟨kept_of ?_, ?_, ?_, rfl, ?_⟩, ⟨kept_of ?_, ?_⟩, ⟨kept_of ?_, ?_, ?_, ?_, ?_⟩, ⟨?_, ?_, rfl, clean_of ?_ ?_⟩,
    ⟨?_, ?_, ?_, rfl, clean_of ?_ ?_, ?_⟩, ⟨?_, ?_, _, rfl⟩, ?_, ?_⟩ <;> decide +kernel

/-! ## The weight store, weight sets, purlins -/

/-- Installation mode. -/
def installing : State := { ready with install := true }

/-- A page of raw bytes at page 7, one byte 0 long, with the CRC of that byte or another. -/
def swept (crc : Nat) : State := { ready with boot := { ready.boot with
  store := [(0, { storeZero with pages := [(7, { pageUnwritten with pfmt := 1, used := 1, crc := crc })] })] } }

/-- An entry of an image in host memory, of one byte at page 7, with the digest of some bytes. -/
def entryOf (bs : List Byte) : ImageEntry := ⟨0, 0, 1, 0, 7, 0, 1, 0, shakeDigest bs⟩

/-- An image of that one page under way. -/
def imageOf (e : ImageEntry) : InstallRun := ⟨.host 0x40000 (mail 0x0502 0xFF []), 5, 1, [e], [], [], (0, 0), []⟩

/-- A sweep of a page in order and one that fails; each command; a page in order, and one whose bytes are not those of the image. -/
theorem witness_WeightsAreInstalled :
    (let s := swept (crc32 [0])
     Kept s ∧ storeServes s 0 = true ∧ (pageOf s 0 7).pfmt ≠ 0 ∧ CleanRange (.array 0) (65536 * 7) 1 (atTime 2000000000 s)
      ∧ crc32 (memBytes (atTime 2000000000 s) (.array 0) (65536 * 7) 1) = (pageOf s 0 7).crc
      ∧ sweepDue (storeOf s 0) 7 2000000000 = true ∧ sweepDue { storeZero with swept := [(7, 1000000000)] } 7 2000000000 = false)
    ∧ (let s := swept 0
       Kept s ∧ storeServes s 0 = true ∧ (pageOf s 0 7).pfmt ≠ 0 ∧ CleanRange (.array 0) (65536 * 7) 1 (atTime 2000000000 s)
        ∧ crc32 (memBytes (atTime 2000000000 s) (.array 0) (65536 * 7) 1) ≠ (pageOf s 0 7).crc
        ∧ sweepDue (storeOf s 0) 7 2000000000 = true)
    ∧ (let c := mail 0x0500 0xFF []
       Allowed 0x0500 (storeChecks 0x0500) c [] ready)
    ∧ (Kept installing ∧ Allowed 0x0501 (storeChecks 0x0501) (mail 0x0501 0xFF []) [] installing)
    ∧ (let pay := natLe 8 0x40000 ++ natLe 4 64 ++ natLe 4 0
       let c := mail 0x0502 0xFF pay
       Allowed 0x0502 (storeChecks 0x0502) c pay installing ∧ hostAnswer (takeCmd c installing) 0x40000 64 = none)
    ∧ (let pay := natLe 4 15 ++ natLe 4 262143 ++ natLe 4 1 ++ natLe 4 96 ++ natLe 8 0x40000
       let c := mail 0x0503 0xFF pay
       Allowed 0x0503 (storeChecks 0x0503) c pay ready ∧ BufferAnswers c (leAt pay 0x10 8) 96 (takeCmd c ready))
    ∧ (let e := entryOf [0]
       let s := { installing with installs := [imageOf e] }
       let u := atTime 2000000000 s
       s.installs.find? (fun x => x.todo.any (fun e => e.ws == 0)) = some (imageOf e)
        ∧ (imageOf e).todo.find? (fun e => e.ws == 0) = some e ∧ entryBytesOf u (imageOf e).src e = some [0]
        ∧ storeServes u 0 = true ∧ s.err.armed = [] ∧ pageGood e [0] = true)
    ∧ (let e := { entryOf [0] with pfmt := 2, elemFmt := 8, nblk := 1 }
       let s := { installing with installs := [imageOf e] }
       let u := atTime 2000000000 s
       s.installs.find? (fun x => x.todo.any (fun e => e.ws == 0)) = some (imageOf e)
        ∧ (imageOf e).todo.find? (fun e => e.ws == 0) = some e ∧ entryBytesOf u (imageOf e).src e = some [0]
        ∧ pageGood e [0] = false) := by
  refine ⟨⟨kept_of ?_, ?_, ?_, clean_of ?_ ?_, ?_, ?_, ?_⟩, ⟨kept_of ?_, ?_, ?_, clean_of ?_ ?_, ?_, ?_⟩, allowed_of ?_,
    ⟨kept_of ?_, allowed_of ?_⟩, ⟨allowed_of ?_, ?_⟩, ⟨allowed_of ?_, .inr rfl⟩,
    ⟨rfl, rfl, ?_, ?_, ?_, by simp [pageGood, entryOf]⟩, rfl, rfl, ?_, by simp [pageGood, entryOf, blockBytes]⟩
    <;> decide +kernel

/-- Slot 63 of partition 0 with some generations. -/
def withSlot (gens : List Generation) (next : Nat) : State :=
  { ready with parts := modAt ready.parts 0 (fun p => { p with slots := [(63, ⟨gens, next⟩)] }) }

/-- A region on stack 0. -/
def region0 : Region := ⟨1, 0, 0x1000, 0x800, 9⟩

/-- WSET_STAGE of a region in order and of one that is not; a switch; each WSET_DISCARD; a batch opened and closed; WSET_GET. -/
theorem witness_WeightSetsTurnOver :
    (let pay := natLe 1 0 ++ natLe 1 63 ++ natLe 2 1 ++ natLe 4 0 ++ natLe 8 0x40000 ++ natLe 4 32 ++ natLe 4 0
     let c := mail 0x0504 0 pay
     let s := inHost 0x40000 (regionBytes region0) ready
     let raw := [hostRead (takeCmd c s) 0x40000 32]
     Kept s ∧ Allowed 0x0504 (storeChecks 0x0504) c pay s ∧ hostAnswer (takeCmd c s) 0x40000 32 = none
      ∧ raw.all (regionOk (takeCmd c s)) = true ∧ listOverlaps (raw.map regionOf) = false
      ∧ (raw.map regionOf).any (fun r => siteAbsent s (regionSite r)) = false
      ∧ (raw.map regionOf).any (fun r => ownerOf s (regionSite r) != 0) = false)
    ∧ (let pay := natLe 1 0 ++ natLe 1 63 ++ natLe 2 1 ++ natLe 4 0 ++ natLe 8 0x40000 ++ natLe 4 32 ++ natLe 4 0
       let c := mail 0x0504 0 pay
       Allowed 0x0504 (storeChecks 0x0504) c pay ready ∧ regionOk (takeCmd c ready) (hostRead (takeCmd c ready) 0x40000 32) = false)
    ∧ (let s := withSlot [⟨1, .current, []⟩, ⟨2, .staged, [region0]⟩] 3
       Kept s ∧ Allowed 0x0505 (storeChecks 0x0505) (mail 0x0505 0 (p8 0 63 0 0 2)) (p8 0 63 0 0 2) s
        ∧ Allowed 0x0506 (storeChecks 0x0506) (mail 0x0506 0 (p8 0 63 0 0 0)) (p8 0 63 0 0 0) s
        ∧ Allowed 0x0506 (storeChecks 0x0506) (mail 0x0506 0 (p8 0 63 1 0 0)) (p8 0 63 1 0 0) s
        ∧ (let pay := natLe 8 0 ++ natLe 8 0x40000
           Allowed 0x0507 (storeChecks 0x0507) (mail 0x0507 0 pay) pay s
            ∧ BufferAnswers (mail 0x0507 0 pay) (leAt pay 8 8) 256 (takeCmd (mail 0x0507 0 pay) s))
        ∧ (let pay := natLe 4 (63 * 256) ++ natLe 4 2 ++ natLe 4 64 ++ natLe 4 0 ++ natLe 8 0x40000
           Allowed 0x0509 (storeChecks 0x0509) (mail 0x0509 0 pay) pay s
            ∧ getGen (slotOf (partOf s 0) 63) 2 = some ⟨2, .staged, [region0]⟩
            ∧ BufferAnswers (mail 0x0509 0 pay) (leAt pay 0x10 8) 64 (takeCmd (mail 0x0509 0 pay) s)))
    ∧ (let s := { ready with parts := modAt ready.parts 0 (fun p => { p with wsetBatches := [(1023, copies 64 0)] }) }
       Kept s ∧ Allowed 0x0508 (storeChecks 0x0508) (mail 0x0508 0 (natLe 2 0 ++ natLe 2 1023 ++ natLe 4 0))
          (natLe 2 0 ++ natLe 2 1023 ++ natLe 4 0) s) := by
  refine ⟨⟨kept_of ?_, allowed_of ?_, ?_, ?_, ?_, ?_, ?_⟩, ⟨allowed_of ?_, ?_⟩,
    ⟨kept_of ?_, allowed_of ?_, allowed_of ?_, allowed_of ?_, ⟨allowed_of ?_, .inr rfl⟩, allowed_of ?_, ?_, .inr rfl⟩,
    kept_of ?_, allowed_of ?_⟩ <;> decide +kernel

/-- A purlin of partition 0 in some state, with the staged generation that it fills and a rank entry over link 0. -/
def withPurlin (u : Purlin) : State :=
  { withSlot [⟨2, .staged, [region0]⟩] 3 with
    parts := modAt ready.parts 0 (fun p => { p with
      slots := [(63, ⟨[⟨2, .staged, [region0]⟩], 3⟩)], purlins := u :: copies 7 purlinZero, job := 1
      ranks := [(1, ⟨2 + 2 ^ 40, 0⟩)] }) }

/-- A head, and a receiver with a transfer under way. -/
def headPurlin : Purlin := ⟨1, 0, 63, 5, 1, 2, none, 0⟩
def tailPurlin (target : Nat) : Purlin := ⟨3, target, if target = 0 then 63 else 0, 5, 0, if target = 0 then 2 else 0, some ⟨4, 2, none, none, [1, 2]⟩, 0⟩

/-- A segment of purlin 0. -/
def segment (kind seq off : Nat) (bs : List Byte) : Segment :=
  ⟨0, BitVec.ofNat 8 kind, 5, bs.length, 0, BitVec.ofNat 32 seq, BitVec.ofNat 64 off, bs⟩

/-- The head sends. -/
def sending : State :=
  let s := modLink 0 (fun l => { l with phase := .up }) (withPurlin headPurlin)
  { s with links := { s.links with panelId := 1 } }

/-- The payload of a PURLIN_SEND of 8 bytes from stack 0. -/
def sendPay : List Byte :=
  natLe 4 0 ++ natLe 4 0 ++ natLe 8 8 ++ natLe 8 (stackAddr 0 0) ++ natLe 8 0

/-- PURLIN_SET to a role and to none; a send of one segment; a stray; a segment out of turn, and in turn for either target. -/
theorem witness_PurlinsCarrySegments :
    (let pay := natLe 1 0 ++ natLe 1 7 ++ natLe 1 3 ++ natLe 1 0 ++ natLe 1 63 ++ natLe 1 0 ++ natLe 2 5 ++ natLe 4 0 ++ natLe 4 0
        ++ natLe 4 2 ++ natLe 4 0
     let s := withPurlin headPurlin
     (partOf s 0).purlins[7]? = some purlinZero ∧ s.parts.length = 8
      ∧ Allowed 0x050A (storeChecks 0x050A) (mail 0x050A 0 pay) pay s)
    ∧ (let pay := natLe 4 0 ++ natLe 1 63 ++ copies 11 0 ++ natLe 4 2 ++ copies 4 0
       Allowed 0x050A (storeChecks 0x050A) (mail 0x050A 0 pay) pay (withPurlin headPurlin))
    ∧ (let c := mail 0x050B 0 sendPay
       let u := takeCmd c sending
       let v := modPurlin 0 0 (fun y => { y with run := some ⟨0, 0, some c, some ⟨false, 0, 8, stackAddr 0 0, 0⟩, []⟩ }) u
       let x := readSource 0 false (stackAddr 0 0) 8 v
       (partOf sending 0).purlins[0]? = some headPurlin ∧ sending.parts.length = 8
        ∧ Allowed 0x050B (storeChecks 0x050B) c sendPay sending ∧ leAt sendPay 8 8 ≤ 2048
        ∧ x.1 = 0 ∧ x.2.2.2 = v ∧ purlinRoom v 0 headPurlin = true ∧ purlinLinkOk v 0 headPurlin = true
        ∧ segmentRegion u 0 headPurlin 0 0 8 = some region0
        ∧ (let w := writeNow (kingSite v) 0 true (stackAddr region0.unit region0.start) x.2.2.1 v
           w.1 = 0 ∧ purlinRoom (sendSegment 0 headPurlin ⟨0, 1, 5, 8, 0, 0, 0, x.2.2.1⟩ w.2) 0 headPurlin = true))
    ∧ ((partOf (withPurlin headPurlin) 0).purlins[0]? = some headPurlin ∧ headPurlin.role ≠ 2 ∧ headPurlin.role ≠ 3)
    ∧ (let u := tailPurlin 0
       let s := withPurlin u
       (partOf s 0).purlins[0]? = some u ∧ s.parts.length = 8 ∧ u.role = 3 ∧ u.transfer = (segment 0 3 0 [7, 8]).transfer.toNat
        ∧ (segment 0 3 0 [7, 8]).seq.toNat ≠ 4 ∧ (segment 0 4 0x7FE [7, 8]).kind = 0 ∧ (segment 0 4 0x7FE [7, 8]).seq.toNat = 4
        ∧ segmentOk (segment 0 4 0x7FE [7, 8]) = true ∧ u.target = 0
        ∧ segmentRegion s 0 u 0 0x7FE 2 = some region0
        ∧ (writeNow (kingSite s) 0 true (stackAddr 0 (0x1000 + 0x7FE)) [7, 8] (atTime 2000000000 s)).1 = 0
        ∧ (let q : Packet := { packet (addrOf 17 0 0) 3 0 [] with srcX := BitVec.ofNat 4 (siteX (siteOfStack 0)), srcY := BitVec.ofNat 4 (siteY (siteOfStack 0)) }
           (writeNow (kingSite s) 0 true (stackAddr 0 (0x1000 + 0x7FE)) [7, 8]
            (atTime 2000000000 { s with fab := { s.fab with answers := copies 1024 q } })).1 = notYet))
    ∧ 8 ≤ ({ segment 0 4 0 [7, 8] with purlin := 8 } : Segment).purlin.toNat
    ∧ (let u := tailPurlin 1
       (partOf (withPurlin u) 0).purlins[0]? = some u ∧ u.target = 1 ∧ segmentOk (segment 0 4 2 [7, 8]) = true
        ∧ (segment 0 4 2 [7, 8]).region = 0 ∧ (segment 0 4 2 [7, 8]).offset.toNat = ([1, 2] : List Byte).length) := by
  refine ⟨⟨?_, ?_, allowed_of ?_⟩, allowed_of ?_, ⟨?_, ?_, allowed_of ?_, ?_, ?_, rfl, ?_, ?_, ?_, ?_, ?_⟩, ⟨?_, ?_, ?_⟩,
    ⟨?_, ?_, ?_, ?_, ?_, ?_, ?_, ?_, ?_, ?_, ?_, ?_⟩, ?_, ?_, ?_, ?_, ?_, ?_⟩ <;> decide +kernel

/-! ## The panel links -/

/-- The panel with its number, and link 0 in some state. -/
def withLink (x : Link) : State := { ready with links := { ready.links with panelId := 3, links := [(0, x)] } }

/-- A link that is up with all its lanes. -/
def link0 : Link := { linkZero with phase := .up, mask := 15, width := 3, maxWidth := 3, reqCredits := 64, respCredits := 8 }

/-- The payload of RANK_TABLE_SET or TRANSIT_SET. -/
def tablePay (part first n len : Nat) : List Byte :=
  natLe 4 part ++ natLe 4 first ++ natLe 4 n ++ natLe 4 len ++ natLe 8 0x40000

/-- Entries in order and out of order. -/
theorem witness_LinkCommands :
    Allowed 0x0600 (linkChecks 0x0600) (mail 0x0600 0xFF (p8 0xFE 0xFF 0 0 0)) (p8 0xFE 0xFF 0 0 0) ready
    ∧ Allowed 0x0601 (linkChecks 0x0601) (mail 0x0601 0xFF (p8 0 0 1 0 0xFFFFF)) (p8 0 0 1 0 0xFFFFF) ready
    ∧ (let pay := tablePay 0 65535 1 8
       let c := mail 0x0602 0xFF pay
       let s := inHost 0x40000 (natLe 8 (2 + 8 * 2 ^ 16 + 2 ^ 40)) ready
       let u := takeCmd c s
       let es := [leNat (hostRead u 0x40000 8)]
       Kept s ∧ Allowed 0x0602 (linkChecks 0x0602) c pay s ∧ hostAnswer u 0x40000 8 = none ∧ es.all rankEntryOk = true
        ∧ es.any (fun e => rankValid e && ownerOf u (linkSite (fld e 39 32)) != 0) = false
        ∧ rankEntryOk (2 ^ 63) = false)
    ∧ (let pay := tablePay 0 65535 1 1
       let c := mail 0x0603 0xFF pay
       let s := inHost 0x40000 [48] ready
       let ok (s : State) : Bool := (hostRead s 0x40000 1).all (fun b => decide (b.toNat < 48) || b.toNat == 0xFF)
       Kept s ∧ Allowed 0x0603 (linkChecks 0x0603) c pay s ∧ hostAnswer (takeCmd c s) 0x40000 1 = none
        ∧ ok (takeCmd c s) = false ∧ ok (takeCmd c ready) = true)
    ∧ (let c := mail 0x0604 0xFF (p8 0 0 4 0 0)
       Allowed 0x0604 (linkChecks 0x0604) c (p8 0 0 4 0 0) (withLink link0)
        ∧ procHeld (takeCmd c (withLink link0)) 4 = false ∧ procStarts (takeCmd c (withLink link0)) 4 = false)
    ∧ (let pay := natLe 1 47 ++ natLe 1 1 ++ natLe 1 15 ++ natLe 1 0 ++ natLe 4 128 ++ natLe 8 0x40000
       let c := mail 0x0605 0xFF pay
       Allowed 0x0605 (linkChecks 0x0605) c pay ready ∧ ∀ n, BufferAnswers c (leAt pay 8 8) n (takeCmd c ready)) := by
  refine ⟨allowed_of ?_, allowed_of ?_, ⟨kept_of ?_, allowed_of ?_, ?_, ?_, ?_, ?_⟩, ⟨kept_of ?_, allowed_of ?_, ?_, ?_, ?_⟩,
    ⟨allowed_of ?_, ?_, ?_⟩, allowed_of ?_, fun n => .inr rfl⟩ <;> decide +kernel

/-- A data flit, its CRC right or not. -/
def flit (seq kind : Nat) (good : Bool) : LinkFlit :=
  let bs := natLe 2 seq ++ natLe 2 0 ++ natLe 1 kind ++ copies 247 0
  ⟨bs ++ natLe 4 (if good then crc32 bs else crc32 bs + 1), [], []⟩

/-- A packet from panel 2. -/
def linkPacket (dest kind hops : Nat) : LinkPacket :=
  { linkPacketZero with
    destPanel := BitVec.ofNat 16 dest, srcPanel := 2, job := 1, kind := BitVec.ofNat 8 kind, dcx := 8, hops := BitVec.ofNat 8 hops
    tag := 9, payload := copies 512 0 }

/-- The panel with link 0, partition 0 in job 1, and a rank entry. -/
def joined (x : Link) : State :=
  { withLink x with parts := modAt ready.parts 0 (fun p => { p with job := 1, ranks := [(1, ⟨2 + 8 * 2 ^ 16 + 2 ^ 40, 0⟩)] }) }

/-- A rank WRITE at link 0. -/
def rankWrite : Packet := packet (addrOf (linkSite 0) 0 (1 * 2 ^ 20)) 2 4 [1, 2, 3, 4]

/-- A link whose tags are all in use. -/
def full : Link := { link0 with inbound := (List.range 4096).map (fun i => (i, .target, linkPacketZero)) }

theorem listed {α : Type} (v : α) (k : Nat) : ∀ l : List Nat, k ∈ l → mapGet? (l.map (fun i => (i, v))) k ≠ none
  | [], h => by simp at h
  | j :: l, h => by
    by_cases e : j = k
    · simp [mapGet?, e]
    · simpa [mapGet?, e] using listed v k l (by simpa [Ne.symm e] using h)

theorem full_has_no_tag : lowestFree 4096 full.inbound = none := by
  simp only [lowestFree, full, List.find?_eq_none, List.mem_range]
  intro i hi
  simpa using listed (LinkUse.target, linkPacketZero) i _ (List.mem_range.mpr hi)

theorem witness_LinksTrainAndCarry :
    (Kept (withLink link0) ∧ (withLink link0).err.armed = [] ∧ (linkOf (withLink link0) 0).phase = .up
      ∧ (flit 0 1 true).bytes.length = 256 ∧ flitOk (flit 0 1 true) = true ∧ flKind (flit 0 1 true) = 1
      ∧ flSeq (flit 0 1 true) = (linkOf (withLink link0) 0).rxNext ∧ flitOk (flit 1 1 true) = true
      ∧ flSeq (flit 1 1 true) ≠ (linkOf (withLink link0) 0).rxNext ∧ flitOk (flit 0 1 false) = false
      ∧ flKind (flit 0 1 false) = 1 ∧ flitOk (flit 0 0 false) = false ∧ flKind (flit 0 0 false) ≠ 1)
    ∧ (let x := { link0 with phase := .training, testSet := 15, fails := 2, cmd := some (mail 0x0604 0xFF (p8 0 0 4 0 0)) }
       let s := withLink x
       Kept s ∧ (linkOf s 0).phase = .training ∧ siteWorks s (linkSite 0) = true ∧ siteInReset s (linkSite 0) = false
        ∧ maskAnd 8 (maskAnd 15 (lanesPowered s 0)) ≠ 0 ∧ maskAnd 0 (maskAnd 15 (lanesPowered s 0)) = 0)
    ∧ (let x := { link0 with replays := 8 }
       (linkOf (withLink x) 0).phase = .up ∧ retrainCause (tickOf (atTime 2000000000 (withLink x))) (linkOf (withLink x) 0) .replays = true)
    ∧ (let a : LinkAwait := ⟨9, rankWrite, 1000000000⟩
       let s := withLink { link0 with awaits := [a] }
       let q := linkPacket 3 2 0
       Kept s ∧ q.kind = 2 ∧ (linkOf s 0).phase = .up ∧ nextReceived (linkOf s 0) q = true ∧ s.links.panelId ≠ 0xFFFF ∧ q.destPanel.toNat = s.links.panelId
        ∧ (linkOf s 0).awaits.find? (fun a => a.tag == q.tag.toNat) = some a
        ∧ a.since + 8000000 ≤ (atTime 2000000000 s).now)
    ∧ (let s := joined link0
       let u := atTime 2000000000 s
       let p := partOf s (ownerOf s (linkSite 0))
       Kept s ∧ opcodeOf rankWrite = 2 ∧ dataFits rankWrite = true ∧ Reaches rankWrite u ∧ addrSite (destOf rankWrite) = linkSite 0
        ∧ addrUnit (destOf rankWrite) = 0 ∧ badRange rankWrite = false ∧ s.fab.flight.all (fun y => y.q != rankWrite) = true ∧ p.job ≠ 0
        ∧ rankValid (rankEntry p (linkSite 0) (fld (destOf rankWrite) 39 20)) = true ∧ (linkOf s 0).egress = []
        ∧ canSend s link0 (rankPacket s p (rankEntry p (linkSite 0) 1) 0 rankWrite ⟨false, false, 0⟩) = true)
    ∧ (let s := joined { link0 with phase := .down }
       Reaches rankWrite (atTime 2000000000 s) ∧ (linkOf s 0).phase = .down)
    ∧ (let s := joined link0
       let s := { s with links := { s.links with transit := [(4, 0)] } }
       Kept s ∧ transitLink s 4 = some 0 ∧ (linkPacket 4 1 14).destPanel.toNat ≠ s.links.panelId
        ∧ (linkPacket 4 1 14).hops.toNat < 15 ∧ 15 ≤ (linkPacket 4 1 15).hops.toNat ∧ transitLink s 5 = none
        ∧ (linkOf s 0).phase = .up ∧ nextReceived (linkOf s 0) (linkPacket 4 1 14) = true ∧ lowestFree 4096 (linkOf s 0).inbound = some 0)
    ∧ lowestFree 4096 full.inbound = none
    ∧ (let s := joined link0
       let q := linkPacket 3 1 0
       q.destPanel.toNat = s.links.panelId ∧ jobPart s q = some 0 ∧ partInReset s 0 = false ∧ lpReduce q = 0
        ∧ lpReduce { q with flags := 4 } ≠ 0 ∧ siteWorks s (siteOfLinkDie (reductionHome (coreAt 8 0))) = true)
    ∧ (let y : HomeRow := ⟨{ linkPacket 3 1 0 with flags := 4, payload := copies 1024 0 }, 0, 0, 0⟩
       let s := { ready with links := { ready.links with homes := [(0, [y])] } }
       mapGetD s.links.homes 0 [] = [y] ∧ siteWorks s (siteOfLinkDie 0) = true ∧ siteInReset s (siteOfLinkDie 0) = false
        ∧ (coreOf s 8).ax.remote = [] ∧ 512 * (y.done + 1) < y.q.payload.length ∧ (readRow 0 8 y (atTime 2000000000 s)).1 = 0
        ∧ setRefused (atTime 2000000000 s) 0 8 y.q = false
        ∧ (let c := { coreZero with bankBusy := (List.range 16).map (fun n => (10, n, 1)) }
           (readRow 0 8 y (atTime 2000000000 { s with bays := [(0, bay0)], cores := [(8, c)] })).1 = notYet)) := by
  refine ⟨⟨kept_of ?_, ?_, ?_, ?_, ?_, ?_, ?_, ?_, ?_, ?_, ?_, ?_, ?_⟩, ⟨kept_of ?_, ?_, ?_, ?_, ?_, ?_⟩, ⟨?_, ?_⟩,
    ⟨kept_of ?_, ?_, ?_, ?_, ?_, ?_, ?_, ?_⟩, ⟨kept_of ?_, ?_, ?_, reaches_of ?_, ?_, ?_, ?_, ?_, ?_, ?_, ?_, ?_⟩, ⟨reaches_of ?_, ?_⟩,
    ⟨kept_of ?_, ?_, ?_, ?_, ?_, ?_, ?_, ?_, ?_⟩, full_has_no_tag, ⟨?_, ?_, ?_, ?_, ?_, ?_⟩, ?_, ?_, ?_, ?_, ?_, ?_, ?_, ?_⟩ <;> decide +kernel

/-! ## The host port -/

/-- A list as the payload of VERSION, IDENTIFY and so on: padded to a length. -/
def pad (n : Nat) (bs : List Byte) : List Byte := bs ++ copies (n - bs.length) 0

/-- A command is accepted and passes its own checks, as a Bool. -/
def okFor (op : Nat) (c : Cmd) (pay : List Byte) (s : State) : Bool :=
  accepts op c pay s && firstFail (hostChecks op c pay (takeCmd c s)) == stOk

theorem ok_of {op : Nat} {c : Cmd} {pay : List Byte} {s : State} (h : okFor op c pay s = true) :
    Accepted op c pay s ∧ firstFail (hostChecks op c pay (takeCmd c s)) = stOk := by
  simp only [okFor, Bool.and_eq_true, beq_iff_eq] at h
  exact ⟨accepted_of h.1, h.2⟩

/-- What passes: `okFor` with its payload inline. -/
def passes (op part : Nat) (pay : List Byte) (s : State) : Bool := okFor op (mail op part pay) pay s

/-- The queue of events with some lost ones, full and with room. -/
def losing (tail head lost : Nat) : State := withEvents ⟨true, 0x30000, 64, tail, head, true, 9, lost⟩

/-- The core's token queue 3 full. -/
def fullQueue : State := withBay bay0 { coreZero with seq := { coreZero.seq with queues := [[], [], [], copies 16 ⟨1, 0⟩] } }

/-- Each command of the host port, each clause at a state that meets it. -/
theorem witness_HostCommands :
    (Kept (withPair pair0)
      ∧ passes 0x0003 0xFF (pad 32 (natLe 1 63 ++ natLe 1 0xFF ++ natLe 2 3 ++ natLe 2 2 ++ natLe 2 4096)) (withPair pair0) = true
      ∧ passes 0x0004 0xFF (p8 0 0 0 0 0) (withPair pair0) = true)
    ∧ (passes 0x0002 0xFF (pad 16 (natLe 2 7 ++ copies 12 0 ++ natLe 2 2)) ready = true
        ∧ leAt (pad 16 (natLe 2 7 ++ copies 12 0 ++ natLe 2 2)) (2 + 2 * 6) 1 = 2
        ∧ passes 0x0002 0xFF (pad 16 (natLe 2 1 ++ natLe 2 1)) ready = true
        ∧ leAt (pad 16 (natLe 2 1 ++ natLe 2 1)) 2 1 = 1)
    ∧ (let c := mailBuf 0x0001 0xFF 0x40000 256
       okFor 0x0001 c [] ready = true ∧ isMbData c = false ∧ BufferAnswers c 0x40000 256 (takeCmd c ready))
    ∧ (let c : Cmd := ⟨2000000000, .mailbox, ⟨1, 2, 0xFF, 7, 0, 256, 0, copies 40 0⟩⟩
       okFor 0x0001 c [] ready = true ∧ isMbData c = true)
    ∧ (let pay := pad 16 (natLe 1 8 ++ natLe 1 0 ++ natLe 1 3 ++ natLe 1 0)
       passes 0x0009 0 pay (bayed bay0) = true ∧ tokenRoom (bayed bay0) 8 3 = true
        ∧ passes 0x0009 0 pay fullQueue = true ∧ tokenRoom fullQueue 8 3 = false ∧ leAt pay 6 2 = 0
        ∧ passes 0x0009 0 (pad 16 (natLe 1 8 ++ natLe 1 0 ++ natLe 1 3 ++ natLe 1 0 ++ natLe 2 0 ++ natLe 2 10000)) fullQueue = true)
    ∧ (passes 0x0005 0xFF (pad 16 (copies 12 0 ++ natLe 1 1)) (losing 0 0 0) = true
        ∧ passes 0x0005 0xFF (pad 16 (natLe 8 0x30000 ++ natLe 4 65536)) (losing 0 0 0) = true
        ∧ Kept (losing 63 0 5) ∧ passes 0x0005 0xFF (pad 16 (natLe 8 0x30000 ++ natLe 4 64)) (losing 63 0 5) = true)
    ∧ (passes 0x0006 0xFF (natLe 4 63) (losing 62 0 0) = true ∧ passes 0x0006 0xFF (natLe 4 63) (losing 62 0 5) = true
        ∧ evRoom { (losing 62 0 5).ev with hostHead := 63 } 1 = false
        ∧ passes 0x0006 0xFF (natLe 4 30) (losing 62 0 5) = true ∧ evRoom { (losing 62 0 5).ev with hostHead := 30 } 1 = true)
    ∧ (passes 0x0007 0xFF (pad 24 (natLe 1 0 ++ natLe 1 15 ++ natLe 1 1)) ready = true
        ∧ passes 0x0007 0xFF (pad 24 (natLe 1 0 ++ natLe 1 15 ++ natLe 1 6 ++ copies 5 0 ++ natLe 8 0x1000 ++ natLe 8 0x1000)) ready
            = true)
    ∧ (passes 0x0008 0xFF (pad 16 (natLe 8 0x1000 ++ natLe 4 2)) ready = true
        ∧ passes 0x0008 0xFF (pad 16 (natLe 8 0x1000 ++ natLe 4 2 ++ natLe 1 1)) ready = true ∧ ready.fab.flight = []) := by
  refine ⟨⟨kept_of ?_, ?_, ?_⟩, ⟨?_, ?_, ?_, ?_⟩, ⟨?_, ?_, .inr ?_⟩, ⟨?_, ?_⟩, ⟨?_, ?_, ?_, ?_, ?_, ?_⟩, ⟨?_, ?_, kept_of ?_, ?_⟩,
    ⟨?_, ?_, ?_, ?_, ?_⟩, ⟨?_, ?_⟩, ?_, ?_, ?_⟩ <;> decide +kernel

/-- The panel with its aperture open on an address. -/
def opened (base log2 part : Nat) : State :=
  { ready with host := { ready.host with active := ⟨base, true, part, log2⟩ } }

/-- The panel with shadow registers as given. -/
def shadowed (base log2 part : Nat) (en : Bool) : State :=
  { ready with host := { ready.host with shadow := ⟨base, en, part, log2⟩ } }

/-- A page of device memory that stack 0 holds. -/
theorem hdm_stack : (hdmStacks later).getD 0 0 = 0 := by decide +kernel

theorem witness_HostAccesses :
    (Kept ready ∧ portAnswers ready = true)
    ∧ (hdmFormOk ⟨hdmSize later, 64, none⟩ = true ∧ hdmSize later ≤ hdmSize later ∧ ready.host.msixMask.contains 2 = false)
    ∧ (let a : HdmAccess := ⟨64, 4, some [1, 2, 3, 4]⟩
       hdmFormOk a = true ∧ later.host.cxlMem = true ∧ a.off < hdmSize later
        ∧ arrivalStatus later (mkRequest later (kingSite later) 3 (stackAddr 0 64) 2 4 0 true [1, 2, 3, 4]) = none
        ∧ 64 + 4 ≤ memSize later (.stack 0) ∧ memOpen later (.stack 0) 64 4 ∧ CleanRange (.stack 0) 64 4 later)
    ∧ (hdmFormOk ⟨64, 4, none⟩ = true
        ∧ arrivalStatus later (mkRequest later (kingSite later) 3 (stackAddr 0 64) 1 4 0 true []) = none)
    ∧ (barFormOk ⟨2 ^ 34 - 8, 8, none⟩ = true ∧ barFormOk ⟨0, 1, some [5]⟩ = true ∧ apClosed later 0 = true)
    ∧ (let s := opened (stackAddr 0 0) 34 15
       let u := atTime 2000000000 s
       Kept s ∧ barFormOk ⟨64, 4, some [1, 2, 3, 4]⟩ = true ∧ apClosed u 64 = false ∧ stackAddr 0 64 + 4 ≤ 2 ^ 56
        ∧ stackAddr 0 64 / 64 = (stackAddr 0 64 + 4 - 1) / 64
        ∧ memKindOf (addrSite (stackAddr 0 64)) (addrUnit (stackAddr 0 64)) = some (.stack 0)
        ∧ arrivalStatus u (apFlight u (stackAddr 0 64) 2 4 [1, 2, 3, 4]).q = none
        ∧ arrivalStatus u (apFlight u (stackAddr 0 64) 1 4 []).q = none
        ∧ addrOff (stackAddr 0 64) + 4 ≤ memSize u (.stack 0) ∧ memOpen u (.stack 0) 64 4 ∧ CleanRange (.stack 0) 64 4 u)
    ∧ (let s := opened (14 * 2 ^ 48 + 0xFF * 2 ^ 40) 12 15
       let u := atTime 2000000000 s
       Kept s ∧ apClosed u 0 = false ∧ apCore (14 * 2 ^ 48 + 0xFF * 2 ^ 40) = none
        ∧ arrivalStatus u (apFlight u (14 * 2 ^ 48 + 0xFF * 2 ^ 40) 2 1 [5]).q = some 4 ∧ arrivalStatus u (apFlight u (14 * 2 ^ 48 + 0xFF * 2 ^ 40) 1 1 []).q = some 4)
    ∧ ((shadowed (2 ^ 56 - 2 ^ 34) 34 7 true).host.shadow.base + 2 ^ 34 ≤ 2 ^ 56 ∧ (2 ^ 56 - 2 ^ 34) % 2 ^ 34 = 0
        ∧ (shadowed 0 11 15 true).host.shadow.sizeLog2 < 12 ∧ (shadowed 0 12 8 true).host.shadow.part = 8)
    ∧ (regFormOk ⟨0x1038, 8, 1⟩ = true ∧ regFormOk ⟨0x1FFF, 1, 1⟩ = true ∧ regFormOk ⟨0x100000, 8, 1⟩ = true
        ∧ regFormOk ⟨0x100008, 8, 0x200⟩ = true ∧ regFormOk ⟨0x100010, 8, 34⟩ = true)
    ∧ (mapGet? (withPair pair0).host.queues 0 = some pair0 ∧ bellOk (some 3) pair0.sqDepth = true ∧ bellOk none pair0.sqDepth = true
        ∧ bellOk (some 3) pair0.cqDepth = true ∧ bellOk (some 4) pair0.cqDepth = false ∧ pair0.waiting = [] ∧ mapGet? ready.host.queues 63 = none)
    ∧ (let p := { pair0 with cqTail := 3, waiting := [⟨1, 0, 0, 0⟩] }
       Kept (withPair p) ∧ mapGet? (withPair p).host.queues 0 = some p ∧ p.waiting = [⟨1, 0, 0, 0⟩]
        ∧ cqRoom { p with cqHead := 1 } = true) := by
  refine ⟨⟨kept_ready, ?_⟩, ⟨?_, ?_, ?_⟩, ⟨?_, ?_, ?_, ?_, ?_, ⟨?_, ?_⟩, clean_of ?_ ?_⟩, ⟨?_, ?_⟩, ⟨?_, ?_, ?_⟩,
    ⟨kept_of ?_, ?_, ?_, ?_, ?_, ?_, ?_, ?_, ?_, ⟨?_, ?_⟩, clean_of ?_ ?_⟩, ⟨kept_of ?_, ?_, ?_, ?_, ?_⟩, ⟨?_, ?_, ?_, ?_⟩,
    ⟨?_, ?_, ?_, ?_, ?_⟩, ⟨?_, ?_, ?_, ?_, ?_, ?_, ?_⟩, kept_of ?_, ?_, ?_, ?_⟩ <;> decide +kernel

/-- A host token that waits until a time. -/
def token (due : Nat) : WaitingToken := ⟨8, 3, 0x1234, due, mail 0x0009 0 []⟩

theorem witness_PortsResetAndTokensWait :
    (Kept ready ∧ ready.pwr.good = true)
    ∧ (let s := { ready with host := { ready.host with perst := true } }
       Kept s ∧ modeFormOk ⟨2, 16⟩ = true ∧ s.host.perst = true)
    ∧ (ready.host.perst = false ∧ ready.host.inL2 = !true)
    ∧ (let s := { bayed bay0 with host := { ready.host with tokens := [token 2000000000] } }
       Kept s ∧ s.host.tokens.find? (fun x => x.core == 8 && x.tq == 3 && decide (2000000000 ≤ x.due)) = some (token 2000000000)
        ∧ tokenRoom s 8 3 = true ∧ tokenBay s 8 (cmdPart (token 0).cmd) = true
        ∧ s.host.tokens.find? (fun x => x.core == 8 && x.tq == 3 && decide (x.due ≤ 2000000000)) = some (token 2000000000))
    ∧ (let c := mail 0x000A 0xFF []
       let u := takeCmd c (bayed bay0)
       Accepted 0x000A c [] (bayed bay0) ∧ ((bayed bay0).bays.foldl (fun v b => autoStop b.1 v)
        { u with host := { u.host with removing := some c } }).bays.any (fun b => b.2.mode != .loaded && b.2.mode != .stopped) = true)
    ∧ Accepted 0x000A (mail 0x000A 0xFF []) [] ready ∧ ready.bays = [] := by
  refine ⟨⟨kept_ready, ?_⟩, ⟨kept_of ?_, ?_, ?_⟩, ⟨?_, ?_⟩, ⟨kept_of ?_, ?_, ?_, ?_, ?_⟩, ⟨accepted_of ?_, ?_⟩, accepted_of ?_, ?_⟩ <;> decide +kernel

/-- The 64 bytes of a command's entry. -/
def entryBytes (c : Cmd) : List Byte :=
  let e := c.entry
  natLe 2 e.opcode.toNat ++ natLe 1 e.flags.toNat ++ natLe 1 e.part.toNat ++ natLe 4 e.cmdId.toNat ++ natLe 8 e.payloadAddr.toNat
    ++ natLe 4 e.payloadLen.toNat ++ natLe 4 0 ++ e.inlineData

/-- The command of these witnesses. -/
def fence : Cmd := mail 0x0101 0xFF (p8 1 1 0 0 0)

/-- The panel with that command in its mailbox registers. -/
def posted (s : State) : State := { s with host := { s.host with mbCmd := entryBytes fence } }

/-- A COMMAND frame with that command. -/
def commandFrame : List Byte :=
  natLe 4 0x4D4A5A4C ++ natLe 1 2 ++ natLe 1 3 ++ natLe 2 0 ++ natLe 8 0x55 ++ natLe 8 9 ++ natLe 8 (panelSerial ready) ++ copies 8 0
    ++ natLe 2 72 ++ copies 6 0
    ++ (natLe 2 0x0101 ++ natLe 1 0 ++ natLe 1 0xFF ++ natLe 4 7 ++ natLe 8 0 ++ natLe 4 8 ++ copies 44 0) ++ p8 1 1 0 0 0
    ++ copies 114 0

/-- The panel knows the frame's sender. -/
def knowing : State := { ready with mgmt := { ready.mgmt with senders := [⟨0x55, 3, [], 0, []⟩] } }

/-- Through the mailbox with GO, later, and while the panel controller is held; from a queue; in a frame, whose signature the model
leaves to the world (a panel without a key takes none); and with a payload that host memory does not answer. -/
theorem witness_CommandsComeIn :
    (jexeri (.siteFence fence) = some (0x0101, fence) ∧ cmdOp fence = 0x0101 ∧ Kept (posted ready) ∧ portAnswers (posted ready) = true
      ∧ (posted ready).fw.noKing = false ∧ (posted ready).host.bringup ≠ 0
      ∧ fence = ⟨2000000000, .mailbox, entryOfBytes (posted ready).host.mbCmd⟩ ∧ procHeld (posted ready) (kingPc (posted ready)) = false
      ∧ canTake fence (atTime 2000000000 (posted ready)) = true)
    ∧ (let s := { posted ready with inProgress := copies 1024 ⟨mail 0x0101 0xFF [], 0, [], false⟩ }
       Kept s ∧ procHeld s (kingPc s) = false ∧ s.host.mbBusy = false ∧ canTake fence (atTime 2000000000 s) = false)
    ∧ (let s := modProc 0 (fun p => { p with run := .held }) (posted ready)
       Kept s ∧ procHeld s (kingPc s) = true ∧ s.host.mbBusy = false ∧ hardwareRuns fence (atTime 2000000000 s) = false)
    ∧ (let s := { posted ready with host := { (posted ready).host with mbBusy := true } }
       Kept s ∧ firmwareRuns s = true ∧ s.fw.stage = none ∧ s.inProgress.length < 1024 ∧ isInProgress fence s = false ∧ mailWaits s = true)
    ∧ (let s := { ready with fw := { ready.fw with stage := some (mail 0x0700 0xFF [], []) } }
       Kept s ∧ firmwareRuns s = true ∧ s.fw.stage.isSome = true)
    ∧ (let c := { fence with via := .queue 0 }
       let p := { pair0 with sqTail := 1 }
       let s := inHost 0x10000 (entryBytes fence) (withPair p)
       jexeri (.siteFence c) = some (0x0101, c) ∧ Kept s ∧ firmwareRuns s = true ∧ isInProgress c s = false ∧ mailWaits s = false
        ∧ s.fw.stage = none ∧ s.fw.commands = []
        ∧ (readyQueues s).head? = some (0, p) ∧ mapGet? s.host.queues 0 = some p ∧ hostAnswer s 0x10000 64 = none
        ∧ c = ⟨2000000000, .queue 0, entryOfBytes (hostRead s 0x10000 64)⟩)
    ∧ (let c := frameCmd 2000000000 commandFrame
       jexeri (.siteFence c) = some (0x0101, c) ∧ cmdOp c = 0x0101 ∧ Kept knowing ∧ (segOf knowing .a).mode ≠ .down ∧ segmentsServed knowing = true
        ∧ knowing.fw.kingLost = false ∧ jmHeaderOk commandFrame = true ∧ jmType commandFrame = 3
        ∧ jmTarget commandFrame = panelSerial knowing ∧ leAt commandFrame 4 1 = 2
        ∧ senderOf knowing (jmSender commandFrame) = some ⟨0x55, 3, [], 0, []⟩ ∧ jmSigned knowing commandFrame = false
        ∧ 3 < jmSeq commandFrame)
    ∧ (let c : Cmd := ⟨2000000000, .mailbox, ⟨0x0101, 0, 0xFF, 7, 0x100, 8, 0, copies 40 0⟩⟩
       let s := { ready with hostFail := [(0, 0x1000, true)] }
       let v := takeCmd c s
       jexeri (.siteFence c) = some (0x0101, c) ∧ Kept s ∧ (opInfo 0x0101).any (fun k => k.form == .payload
          && bindingStatus c k v == stOk && formStatus c k == stOk) = true
        ∧ canTake c s = true ∧ isInline c = false ∧ isMbData c = false ∧ versionOk c v = true ∧ entryOk c = true
        ∧ readyOk c v = true ∧ hostAnswer v (cmdAddr c) (cmdLen c) = some true) := by
  refine ⟨⟨rfl, ?_, kept_of ?_, ?_, ?_, ?_, ?_, ?_, ?_⟩, ⟨kept_of ?_, ?_, ?_, ?_⟩, ⟨kept_of ?_, ?_, ?_, ?_⟩, ⟨kept_of ?_, ?_, ?_, ?_, ?_, ?_⟩,
    ⟨kept_of ?_, ?_, rfl⟩, ⟨rfl, kept_of ?_, ?_, ?_, ?_, ?_, ?_, ?_, ?_, ?_, ?_⟩, ⟨rfl, ?_, kept_of ?_, ?_, ?_, ?_, ?_, ?_, ?_, ?_, ?_, ?_, ?_⟩,
    rfl, kept_of ?_, ?_, ?_, ?_, ?_, ?_, ?_, ?_, ?_⟩ <;> decide +kernel

/-! ## Firmware, bring-up, resets -/

/-- Processor 20 in some state. -/
def proc20 (f : Proc → Proc) (s : State) : State := modProc 20 f s

/-- What waits for processor 20. -/
def wait20 : ProcWait := ⟨20, 0, mail 0x0202 0 (bayPay 0 0 0 0 0), bayPay 0 0 0 0 0⟩

/-- The panel with that wait. -/
def waiting20 : State :=
  let s := proc20 (fun p => { p with run := .starting }) ready
  { s with fw := { s.fw with waiting := [wait20] } }

/-- A bundle of seven empty components, in host memory. -/
def bundle0 : List Byte :=
  natLe 4 0x46575A4C ++ natLe 2 1 ++ natLe 2 7 ++ natLe 8 1 ++ natLe 8 0 ++ natLe 4 737 ++ natLe 4 736 ++ copies 32 0
    ++ (List.range 7).flatMap (fun k => natLe 1 (k + 1) ++ copies 95 0) ++ [0]

/-- The payload that stages it. -/
def stagePay : List Byte := natLe 8 0x40000 ++ natLe 4 737 ++ natLe 4 0

/-- The entry of an empty component with the code of its processor's kind. -/
def emptyEntry (digest : List Byte) : List Byte := (6#8 :: copies 31 0) ++ digest

/-- A panel whose active banks hold a bundle with that entry. -/
def coded (digest : List Byte) (s : State) : State :=
  { s with boot := { s.boot with banks := copies 2 (⟨true, copies 64 0 ++ emptyEntry digest⟩, ⟨false, []⟩) } }

/-- A digest that is not the one of an empty component. -/
def badDigest : List Byte := (shakeDigest []).map (fun x => x + 1)

theorem code_digest (d : List Byte) (s : State) (h : s.fp.kingAlt = false) (hd : d.length = 64) :
    procCodeOk (coded d s) 20 = (shakeDigest [] == d) := by
  have hk : procKind 20 = 6 := by decide +kernel
  have e0 : bnEntry (copies 64 0 ++ emptyEntry d) 0 = emptyEntry d := by
    simp [bnEntry, bytesAt, emptyEntry, copies, hd, List.take_of_length_le]
  have e1 : bnComponent (copies 64 0 ++ emptyEntry d) 6 = emptyEntry d := by
    have hl : (leAt (emptyEntry d) 0 1 == 6) = true := by simp [leAt, emptyEntry, leNat]
    rw [bnComponent, show List.range 7 = 0 :: [1, 2, 3, 4, 5, 6] from rfl, List.map_cons, List.find?_cons, e0, hl]
    rfl
  have e2 : bytesAt (emptyEntry d) 0x20 64 = d := by
    simp [bytesAt, emptyEntry, copies, hd, List.take_of_length_le]
  have e3 : bnBytes (copies 64 0 ++ emptyEntry d) (emptyEntry d) = [] := by
    have : leAt (emptyEntry d) 4 4 = 0 := by simp [leAt, emptyEntry, leNat, copies]
    simp [bnBytes, this, bytesAt]
  have e4 : procCodeOk (coded d s) 20
      = digestOk (copies 64 0 ++ emptyEntry d) (bnComponent (copies 64 0 ++ emptyEntry d) (procKind 20)) := by
    simp only [procCodeOk, kingBanks, coded, h]; rfl
  rw [e4, hk, digestOk, e1, e2, e3]

theorem natLe_length : ∀ n v, (natLe n v).length = n
  | 0, _ => rfl
  | n + 1, v => by simp [natLe, natLe_length n]

theorem code_ok (s : State) (h : s.fp.kingAlt = false) : procCodeOk (coded (shakeDigest []) s) 20 = true := by
  rw [code_digest _ s h (by simp [shakeDigest, natLe_length])]; simp

theorem code_bad (s : State) (h : s.fp.kingAlt = false) : procCodeOk (coded badDigest s) 20 = false := by
  rw [code_digest _ s h (by simp [badDigest, shakeDigest, natLe_length])]
  simp [badDigest, shakeDigest, natLe]

/-- `firmwareChecks` of a mailbox command, as a Bool. -/
def fwPasses (op part : Nat) (pay : List Byte) (s : State) : Bool :=
  accepts op (mail op part pay) pay s
    && firstFail (firmwareChecks op (mail op part pay) pay (takeCmd (mail op part pay) s)) == stOk

/-- Processors that expire, for a first time and a third, also in a site in reset; that fault; that run again, alone and with a
command that waits; a wait that ends; a core without its microcode. Each command. -/
theorem witness_ProcessorsAndBundles :
    (Kept ready ∧ ready.err.armed = [] ∧ (procOf ready 20).run = .running ∧ siteInReset ready (siteOfProc 20) = false
      ∧ windowCount (atTime 2000000000 ready) 20 < 2)
    ∧ (let s := proc20 (fun p => { p with run := .starting, counted := [1500000000, 1600000000] }) ready
       let u := atTime 2000000000 s
       Kept s ∧ (procOf s 20).run = .starting ∧ (procOf s 20).since + restartBound 20 ≤ u.now ∧ 2 ≤ windowCount u 20
        ∧ procHeld s (kingPc s) = false ∧ (20 : Nat) ≠ kingPc s)
    ∧ (let s := coded (shakeDigest []) (proc20 (fun p => { p with run := .starting }) ready)
       Kept s ∧ (procOf s 20).run = .starting ∧ siteInReset s (siteOfProc 20) = false ∧ procCodeOk s 20 = true ∧ s.fw.waiting = []
        ∧ s.fw.applyAt ≠ some 20)
    ∧ procCodeOk (coded badDigest (proc20 (fun p => { p with run := .starting }) ready)) 20 = false
    ∧ (let s := modPwr (siteOfProc 20) (fun p => { p with inReset := true }) ready
       Kept s ∧ (procOf s 20).run = .running ∧ siteInReset s (siteOfProc 20) = true)
    ∧ (let s := coded (shakeDigest []) waiting20
       (procOf s 20).run = .starting ∧ procCodeOk s 20 = true ∧ s.fw.waiting = [wait20])
    ∧ (Kept waiting20 ∧ waiting20.fw.waiting = [wait20] ∧ wait20.proc = 20
        ∧ waiting20.fw.waiting.find? (fun w => w.cmd.entry.cmdId == 7
          && decide (w.since + restartBound w.proc + 1000000000 ≤ (atTime 2000000000 waiting20).now)) = some wait20)
    ∧ (let s := modProc 0 (fun p => { p with run := .starting }) { ready with host := { ready.host with mbBusy := true } }
       Kept s ∧ s.fw.waiting = [] ∧ mailExpired 0 (atTime 30000000000 s) = true)
    ∧ (let s := { ready with fw := { ready.fw with stage := some (mail 0x0700 0xFF stagePay, bundle0) } }
       Kept s ∧ firmwareRuns s = true ∧ s.boot.bankBad = [] ∧ 0 ∈ stageDies s)
    ∧ (sitePowered ready (siteOfCore 8) = true ∧ bitAt (entryAt ready (siteOfCore 8)).coreGood.toNat (coreBit 8) = true
        ∧ bayOfCore ready 8 = none ∧ (coreOf ready 8).microcode ≠ activeMicro ready)
    ∧ (fwPasses 0x0703 0xFF (p8 20 0 0 0 0) ready = true ∧ fwPasses 0x0703 0xFF (p8 0 0 1 0 0) ready = true ∧ kingPc ready = 0)
    ∧ (let pay := natLe 4 0 ++ natLe 4 7232 ++ natLe 8 0x40000
       fwPasses 0x0702 0xFF pay ready = true ∧ BufferAnswers (mail 0x0702 0xFF pay) (leAt pay 8 8) 7232 ready)
    ∧ (let s := inHost 0x40000 bundle0 ready
       let u := takeCmd (mail 0x0700 0xFF stagePay) s
       let b := hostRead u 0x40000 737
       Kept s ∧ fwPasses 0x0700 0xFF stagePay s = true ∧ hostAnswer u 0x40000 737 = none
        ∧ firstFail [(bnLen b != 737, stBadLength), (s.fw.apply == .running || s.fw.stage.isSome, stBusy),
            (!zeroAt stagePay 0xC 4 || !bundleFormOk b || !bundlesCompatible b (kingBanks s).1.bytes, stBadField)] = stOk)
    ∧ (fwPasses 0x0700 0xFF stagePay ready = true
        ∧ bundleFormOk (hostRead (takeCmd (mail 0x0700 0xFF stagePay) ready) 0x40000 737) = false)
    ∧ (let s := { ready with boot := { ready.boot with banks := copies 2 (⟨true, []⟩, ⟨true, []⟩) } }
       Kept s ∧ fwPasses 0x0701 0xFF (copies 8 0) s = true) := by
  refine ⟨⟨kept_ready, ?_, ?_, ?_, ?_⟩, ⟨kept_of ?_, ?_, ?_, ?_, ?_, ?_⟩,
    ⟨kept_of (by decide +kernel), ?_, ?_, code_ok _ rfl, ?_, ?_⟩, code_bad _ rfl, ⟨kept_of ?_, ?_, ?_⟩, ⟨?_, code_ok _ rfl, ?_⟩,
    ⟨kept_of ?_, ?_, ?_, ?_⟩, ⟨kept_of ?_, ?_, ?_⟩, ⟨kept_of ?_, ?_, ?_, ?_⟩,
    ⟨?_, ?_, ?_, ?_⟩, ⟨?_, ?_, ?_⟩, ⟨?_, .inr ?_⟩, ⟨kept_of ?_, ?_, ?_, ?_⟩, ⟨?_, ?_⟩, kept_of ?_, ?_⟩ <;> decide +kernel

/-- A panel in a bring-up step. -/
def comingUp (n : Nat) : State :=
  { ready with
    host := { ready.host with bringup := n, cxlMem := false }
    fw := { ready.fw with booting := true, stepDue := 2000000000, stepBase := 0 } }

/-- Good outcomes at every site. -/
def allGood : List SiteOutcome := (List.range 224).map (fun i =>
  ⟨⟨Fin.ofNat 16 i, Fin.ofNat 14 (i / 16)⟩, ⟨true, true, BitVec.allOnes 64, 0x10000⟩⟩)

/-- Each step but the last ones has its outcomes; step 5 waits for no link. -/
theorem witness_PanelsComeUp :
    (let s := { State.reset with pwr := { State.reset.pwr with switchClosed := true } }
     Kept s ∧ s.pwr.good = false ∧ s.pwr.switchClosed = true ∧ s.pwr.range = .normal)
    ∧ (let s := { ready with fw := { ready.fw with cold := true } }
       Kept s ∧ s.fw.cold = true)
    ∧ ((List.range 6).all (fun n => keptB (comingUp n)
        && (stepUnits (comingUp n) n).all (fun i => stepDoneAt n allGood i)) = true)
    ∧ ((stepUnits (comingUp 2) 2).any (fun i => !stepDoneAt 2 [] i) = true
        ∧ (comingUp 2).fw.stepDue ≤ (atTime 2000000000 (comingUp 2)).now)
    ∧ (ready.pwr.good = true ∧ ready.fw.kingLost = false ∧ ready.fw.noKing = false ∧ (entryAt ready (otherMgmt ready)).state ≠ .failed
        ∧ ready.err.armed = []) := by
  refine ⟨⟨kept_of ?_, ?_, ?_, ?_⟩, ⟨kept_of ?_, ?_⟩, ?_, ⟨?_, ?_⟩, ?_, ?_, ?_, ?_, ?_⟩ <;> decide +kernel

/-- Each scope; the end of a die's reset; the end of a partition's. -/
theorem witness_ResetsClear :
    (fwPasses 0x0704 0 (p8 0 0 8 0 0) ready = true ∧ fwPasses 0x0704 0 (p8 1 0 1 1 0) ready = true
      ∧ fwPasses 0x0704 0 (p8 2 0 0 0 0) ready = true ∧ fwPasses 0x0704 0xFF (p8 3 0 0 0 0) ready = true
      ∧ fwPasses 0x0704 0xFF (p8 4 0 0 0 0) ready = true)
    ∧ (let c := mail 0x0704 0 (p8 1 0 1 1 0)
       let s := modPwr 17 (fun p => { p with inReset := true, resetBy := some c }) ready
       Kept s ∧ siteInReset s 17 = true ∧ (pwrOf s 17).resetBy = some c ∧ s.fw.waiting = []
        ∧ (entryAt s 17).state ≠ .failed ∧ testReason s 17 ⟨false, false, 0, 0⟩ ≠ 0)
    ∧ (let c := mail 0x0704 0 (p8 2 0 0 0 0)
       let s := { ready with fw := { ready.fw with reset := some ⟨2, c, 1000000000, false, 0⟩ } }
       Kept s ∧ cmdPart c = 0 ∧ partDrained s 0 = true ∧ 1000000000 + 10000000 ≤ max s.now 2000000000) := by
  refine ⟨⟨?_, ?_, ?_, ?_, ?_⟩, ⟨kept_of ?_, ?_, ?_, ?_, ?_, ?_⟩, kept_of ?_, ?_, ?_, ?_⟩ <;> decide +kernel

/-! ## Power -/

/-- `powerChecks` of a mailbox command, as a Bool. -/
def pwPasses (op : Nat) (pay : List Byte) (s : State) : Bool :=
  accepts op (mail op 0xFF pay) pay s
    && firstFail (powerChecks op (mail op 0xFF pay) pay (takeCmd (mail op 0xFF pay) s)) == stOk

/-- The payload of POWER_SET. -/
def setPay (op x y pos mask : Nat) : List Byte := natLe 1 op ++ natLe 1 x ++ natLe 1 y ++ natLe 1 pos ++ natLe 1 mask ++ copies 3 0

/-- A site's payload. -/
def sitePay (op i pos mask : Nat) : List Byte := setPay op (siteX i) (siteY i) pos mask

/-- The conditions of a POWER_SET that has its effect, as a Bool: nothing changes yet, it is not a no-op, and no refusal remains. -/
def acts (pay : List Byte) (s : State) : Bool :=
  let op := psOp pay
  let i := psSite pay
  let q := quadOf s (psQuad pay)
  pwPasses 0x0800 pay s && !(if op = 6 then q.closed || q.waiting.any (fun w => w.op == 6) else siteChanging s i)
    && (op == 6 || !psNoChange s pay)
    && firstFail [((op == 2 || op == 3) && sitePowered s i && offBusy s i, stBusy),
        (op != 6 && ((op != 1 && !sitePowered s i) || !q.closed), stNotReady),
        (psPowersOn s pay && powerOnRefused s, stNoHeadroom)] == stOk

/-- A panel whose flow has been judged, so that nothing refuses a power-on. -/
def cooled : State := { ready with cool := { ready.cool with
  stopped := false, critical := false, dp := { ready.cool.dp with retired := false }, th := { ready.cool.th with retired := false } } }

/-- A site in a power state. -/
def siteIs (i : Nat) (m : PwrMode) (s : State) : State := modPwr i (fun p => { p with mode := m, rampAt := 1999900000 }) s

/-- Each operation of POWER_SET, each clause: busy, no change, refused, and every effect; the other commands; a controller that is
held and one that restarts. -/
theorem witness_PowerCommands :
    (Kept cooled ∧ procHeld cooled (kingPtc cooled) = false ∧ procStarts cooled (kingPtc cooled) = false)
    ∧ (let s := modProc 2 (fun p => { p with run := .held }) cooled
       Kept s ∧ procHeld s (kingPtc s) = true ∧ pwPasses 0x0800 (sitePay 2 17 0 0) s = true)
    ∧ (let s := modProc 2 (fun p => { p with run := .starting }) cooled
       Kept s ∧ procStarts s (kingPtc s) = true ∧ pwPasses 0x0802 (p8 0 1 1 0 140) s = true)
    ∧ (let s := siteIs 17 .ramping cooled
       pwPasses 0x0800 (sitePay 2 17 0 0) s = true ∧ siteChanging s 17 = true)
    ∧ (pwPasses 0x0800 (sitePay 1 17 0 0) cooled = true ∧ siteChanging cooled 17 = false ∧ psNoChange cooled (sitePay 1 17 0 0) = true)
    ∧ (pwPasses 0x0800 (sitePay 4 (siteOfStack 0) 0 0) (siteIs (siteOfStack 0) .off cooled) = true
        ∧ sitePowered (siteIs (siteOfStack 0) .off cooled) (siteOfStack 0) = false)
    ∧ (let s := siteIs 17 .off cooled
       Kept s ∧ acts (sitePay 1 17 0 0) s = true ∧ (quadOf s (quadrantOf 17)).waiting = []
        ∧ mayBegin (atTime 2000000000 s) (quadrantOf 17) (siteInrush 17) = true)
    ∧ (let s := modQuad (quadrantOf 17) (fun q => { q with peaks := [(1999999999, 149999)] }) (siteIs 17 .off cooled)
       Kept s ∧ acts (sitePay 1 17 0 0) s = true ∧ (quadOf s (quadrantOf 17)).waiting = []
        ∧ mayBegin (atTime 2000000000 s) (quadrantOf 17) (siteInrush 17) = false)
    ∧ (acts (sitePay 2 17 0 0) cooled = true ∧ placeRole 17 = 1 ∧ acts (sitePay 2 (linkSite 0) 0 0) cooled = true
        ∧ (entryAt cooled (linkSite 0)).role = 3)
    ∧ acts (sitePay 3 (siteOfStack 0) 0 0) cooled = true
    ∧ (let i := siteOfStack 0
       let s := siteIs i .selfRefresh cooled
       Kept s ∧ acts (sitePay 4 i 0 0) s = true ∧ (quadOf s (quadrantOf i)).waiting = []
        ∧ mayBegin (atTime 2000000000 s) (quadrantOf i) 2 = true)
    ∧ (let i := linkSite 0
       let s := modLink 0 (fun _ => link0) cooled
       Kept s ∧ acts (sitePay 5 i 0 3) s = true ∧ newLanes s (sitePay 5 i 0 3) = 0 ∧ (linkOf s 0).phase = .up
        ∧ (activeLanes (linkOf s 0).mask (linkOf s 0).width).any (fun n => !bitAt 3 n) = true
        ∧ (linkOf cooled 0).phase ≠ .up ∧ acts (sitePay 5 i 0 3) cooled = true ∧ newLanes cooled (sitePay 5 i 0 3) = 0)
    ∧ (let s := siteIs 17 .tripped (modQuad (quadrantOf 17) (fun q => { q with closed := false }) cooled)
       Kept s ∧ acts (setPay 6 (quadrantOf 17) 0 0 0) s = true ∧ (quadOf s (quadrantOf 17)).waiting = []
        ∧ mayBegin (atTime 2000000000 s) (quadrantOf 17) 2 = true)
    ∧ (pwPasses 0x0802 (p8 0 1 1 0 140) cooled = true ∧ pwPasses 0x0802 (p8 0 1 1 0 45) cooled = true
        ∧ pwPasses 0x0802 (p8 1 0 0 0 25000) cooled = true ∧ pwPasses 0x0802 (p8 1 0 0 1 0) cooled = true)
    ∧ (let pay := natLe 4 0 ++ natLe 4 14400 ++ natLe 8 0x40000
       pwPasses 0x0801 pay cooled = true ∧ ∀ n, BufferAnswers (mail 0x0801 0xFF pay) (leAt pay 8 8) n (takeCmd (mail 0x0801 0xFF pay) cooled))
    ∧ pwPasses 0x0900 (natLe 4 0 ++ natLe 4 10816 ++ natLe 8 0x40000) cooled = true := by
  refine ⟨⟨kept_of ?_, ?_, ?_⟩, ⟨kept_of ?_, ?_, ?_⟩, ⟨kept_of ?_, ?_, ?_⟩, ⟨?_, ?_⟩, ⟨?_, ?_, ?_⟩, ⟨?_, ?_⟩, ⟨kept_of ?_, ?_, ?_, ?_⟩,
    ⟨kept_of ?_, ?_, ?_, ?_⟩, ⟨?_, ?_, ?_, ?_⟩, ?_, ⟨kept_of ?_, ?_, ?_, ?_⟩, ⟨kept_of ?_, ?_, ?_, ?_, ?_, ?_, ?_, ?_⟩,
    ⟨kept_of ?_, ?_, ?_, ?_⟩, ⟨?_, ?_, ?_, ?_⟩, ⟨?_, fun n => .inr rfl⟩, ?_⟩ <;> decide +kernel

/-- A quadrant with a power-on that waits. -/
def waitOn : PowerOnWait := ⟨mail 0x0800 0xFF (sitePay 1 17 0 0), 1, 17, 0, 8⟩
def queueOn (site : PwrMode) : State :=
  modQuad (quadrantOf 17) (fun q => { q with waiting := [waitOn] }) (siteIs 17 site cooled)

/-- A signal that has lasted. -/
def longOn : Signal := ⟨true, 1000000000, true, false, 0⟩

theorem witness_PowerIsMeasured :
    (Kept cooled ∧ cooled.err.armed = [] ∧ isDieSite 17 = true ∧ sitePowered cooled 17 = true ∧ placeRole 17 = 1)
    ∧ (let s := modQuad 3 (fun q => { q with limit := longOn }) (modPwr 17 (fun p => { p with demand := longOn })
          { cooled with pwr := { cooled.pwr with limit := longOn } })
       Kept s ∧ (quadOf s 3).limit.on = true ∧ s.pwr.limit.on = true ∧ (pwrOf s 17).demand.on = true
        ∧ longOn.since + 1000000 * 100 ≤ (atTime 2000000000 s).now)
    ∧ (let s := queueOn .off
       Kept s ∧ (quadOf s (quadrantOf 17)).waiting = [waitOn] ∧ mayBegin (atTime 2000000000 s) (quadrantOf 17) 8 = true
        ∧ mayBegin (atTime 2000000000 (queueOn .ramping)) (quadrantOf 17) 8 = false
        ∧ mayBegin (atTime 2000100000 (queueOn .ramping)) (quadrantOf 17) 8 = true
        ∧ (quadOf s (quadrantOf 17)).waiting.find? (fun x => decide (x.cmd.time + 20000000 ≤ (atTime 2020000000 s).now)) = some waitOn)
    ∧ (let s := modPwr 17 (fun p => { p with acting := some (mail 0x0800 0xFF (sitePay 1 17 0 0)) }) (siteIs 17 .ramping cooled)
       Kept s ∧ modeOf s 17 = .ramping ∧ (pwrOf s 17).acting.isSome = true ∧ (entryAt s 17).state ≠ .failed
        ∧ testReason s 17 ⟨false, false, 0, 0⟩ ≠ 0)
    ∧ (siteLive cooled 17 = true ∧ hasDomain (placeRole 17) .logic = true ∧ ratedMax (placeRole 17) .logic ≤ 4 * 200000
        ∧ 4 * 0 < ratedMax (placeRole 17) .logic)
    ∧ (let x : PathState := ⟨1200, 0, 999, true⟩
       let s := modPwr 17 (fun p => { p with paths := x :: copies 3 pathZero }) cooled
       let e := (800 - 799) * 1000000000000 / (100000 * baselineOf s 17 .logic)
       Kept s ∧ e ≤ 1250 ∧ ((pwrOf s 17).paths.getD (domainCode .logic) pathZero) = x) := by
  refine ⟨⟨kept_of ?_, ?_, ?_, ?_, ?_⟩, ⟨kept_of ?_, ?_, ?_, ?_, ?_⟩, ⟨kept_of ?_, ?_, ?_, ?_, ?_⟩, ⟨kept_of ?_, ?_, ?_, ?_, ?_⟩,
    ⟨?_, ?_, ?_, ?_⟩, kept_of ?_, ?_, ?_⟩ <;> decide +kernel

/-- Readings at the edges of their ranges. -/
theorem witness_PowerFails :
    (Kept cooled ∧ cooled.err.armed = [] ∧ cooled.pwr.range = .normal ∧ cooled.pwr.good = true ∧ cooled.pwr.switchClosed = true)
    ∧ (let x : SwitchReadings := ⟨59000, 60000, 60000, 50000000⟩
       x.bulk ≤ x.sense + 1000 ∧ x.sense ≤ x.bulk + 1000 ∧ 50000000 ≤ x.presentNs ∧ x.blade ≤ x.bulk + 1000 ∧ x.blade ≤ 60000
        ∧ State.reset.pwr.switchClosed = false ∧ Kept State.reset)
    ∧ (siteLive cooled 17 = true ∧ hasDomain (placeRole 17) .array = true ∧ bitAt (phaseMask cooled 17 0) 0 = true)
    ∧ (let s := modPwr 17 (fun p => { p with phases := [some 15, none, none] }) cooled
       Kept s ∧ siteLive s 17 = true ∧ workingPhases s 17 0 < leastPhases (placeRole 17) .logic)
    ∧ (let s := logAdd { logBlank 10 with x := siteX 17, y := siteY 17, status := 0x0906 }
          (siteIs 17 .tripped (modEntry 17 (entrySet .failed 9) (atTime 2000000000 cooled)))
       Kept s ∧ siteLive s 17 = false ∧ trippedNow (atTime 2000000000 s) 17 0x0906 = true ∧ (entryAt s 17).reason = 9)
    ∧ ((quadOf cooled 3).closed = true ∧ (presentSites cooled).any (fun i => quadrantOf i == 3) = true)
    ∧ (63 < sensorCount 17 .logic ∧ (pwrOf cooled 17).retired = [] ∧ sensorCount 17 .logic ≤ 2 * (sensorCount 17 .logic - 1))
    ∧ (let s := modPwr 17 (fun p => { p with retired := (List.range 32).map (fun n => (0, n)) }) cooled
       Kept s ∧ (domainCode .logic, 63) ∉ (pwrOf s 17).retired
        ∧ 2 * (sensorCount 17 .logic - (((pwrOf s 17).retired.filter (fun y => y.1 == domainCode .logic)).length + 1))
            < sensorCount 17 .logic) := by
  refine ⟨⟨kept_of ?_, ?_, ?_, ?_, ?_⟩, ⟨?_, ?_, ?_, ?_, ?_, ?_, kept_of ?_⟩, ⟨?_, ?_, ?_⟩, ⟨kept_of ?_, ?_, ?_⟩, ⟨kept_of ?_, ?_, ?_, ?_⟩,
    ⟨?_, ?_⟩, ⟨?_, ?_, ?_⟩, kept_of ?_, ?_, ?_⟩ <;> decide +kernel

/-! ## Coolant and temperature -/

/-- The coolant in some state. -/
def coolant (f : CoolState → CoolState) : State := { cooled with cool := f cooled.cool }

/-- The coolant's flow below a share of what is required: 250 W at least (R516). -/
def belowB (g : Int) (pct watts : Nat) : Bool := decide (g * 2500000 < ((pct * max 250000000 (42000 * watts) : Nat) : Int))

/-- The keystone of the tests. -/
def keystone : SiteId :=
  let i := ((List.range 224).find? (fun i => placeRole i == 6)).getD 0
  ⟨Fin.ofNat 16 (i % 16), Fin.ofNat 14 (i / 16)⟩

theorem witness_Coolant :
    (Kept cooled ∧ cooled.err.armed = [] ∧ cooled.pwr.good = true ∧ cooled.cool.dp.retired = false
      ∧ cooled.cool.th.retired = false ∧ cooled.cool.dp.last = none ∧ cooled.cool.stopped = false)
    ∧ ((-1 : Int) < 0 ∧ (80000 : Int) < 80001)
    ∧ (let s := coolant (fun c => { c with dry := 1, dp := { c.dp with last := some 15499 }, th := { c.th with last := some 499 } })
       Kept s ∧ ((499 : Int) - 15499).natAbs ≤ 15000)
    ∧ (let s := coolant (fun c => { c with slow := 199 })
       Kept s ∧ belowB 1999 20 0 = true ∧ belowB 2000 20 0 = false ∧ s.cool.slow + 1 = 200)
    ∧ (let s := coolant (fun c => { c with stopped := true, flowing := some 1000000000 })
       Kept s ∧ s.cool.stopped = true ∧ s.cool.flowing = some 1000000000
        ∧ 1000000000 + 5000000000 ≤ (atTime 6000000000 s).now ∧ (coolant (fun c => { c with stopped := true })).cool.flowing = none)
    ∧ (let s := coolant (fun c => { c with lowRun := 9, critRun := 9, lowClear := 9 })
       Kept s ∧ s.cool.stopped = false ∧ belowB 8499 85 0 = true ∧ belowB 5999 60 0 = true ∧ belowB 9000 90 0 = false)
    ∧ (let s := coolant (fun c => { c with differ := ⟨false, some 1000000000⟩ })
       Kept s ∧ s.cool.differ = ⟨false, some 1000000000⟩ ∧ 1000000000 + 10000000000 ≤ (atTime 11000000000 s).now)
    ∧ (let s := coolant (fun c => { c with inletStates := [heldOff, ⟨false, some 1000000000⟩, heldOff] })
       Kept s ∧ s.cool.inletStates[1]? = some ⟨false, some 1000000000⟩ ∧ hotLost (hotOf s 1792) = false
        ∧ (400 : Int) < 401
        ∧ hotLost (hotOf (modHot 1792 (fun h => { h with retired := [true, true] }) s) 1792) = true)
    ∧ (let i := siteNo keystone
       let s (h : Held) := coolant (fun c => { c with strained := [(i, h)] })
       Kept (s ⟨false, some 1000000000⟩) ∧ Kept (s ⟨true, some 1000000000⟩) ∧ placeRole i = 6
        ∧ siteAbsent (s heldOff) i = false ∧ (mapGetD (s ⟨false, some 1000000000⟩).cool.strained i heldOff).since = some 1000000000
        ∧ (mapGetD (s ⟨true, some 1000000000⟩).cool.strained i heldOff).raised = true ∧ 500 < (-501 : Int).natAbs
        ∧ 1000000000 + 1000000000 ≤ (atTime 2000000000 (s heldOff)).now
        ∧ (let u := s ⟨false, some 1000000000⟩
           u.fp.built = true ∧ (hotOf u (8 * i)).lost = false ∧ settleKeystone i u = u))
    ∧ (let pay := natLe 4 0 ++ natLe 4 10816 ++ natLe 8 0x40000
       pwPasses 0x0900 pay cooled = true ∧ procHeld cooled (kingPtc cooled) = false ∧ procStarts cooled (kingPtc cooled) = false
        ∧ BufferAnswers (mail 0x0900 0xFF pay) (leAt pay 8 8) 10816 (takeCmd (mail 0x0900 0xFF pay) cooled)) := by
  refine ⟨⟨kept_of ?_, ?_, ?_, ?_, ?_, ?_, ?_⟩, ⟨?_, ?_⟩, ⟨kept_of ?_, ?_⟩, ⟨kept_of ?_, ?_, ?_, ?_⟩, ⟨kept_of ?_, ?_, ?_, ?_, ?_⟩,
    ⟨kept_of ?_, ?_, ?_, ?_, ?_⟩, ⟨kept_of ?_, ?_, ?_⟩, ⟨kept_of ?_, ?_, ?_, ?_, ?_⟩, ⟨kept_of ?_, kept_of ?_, ?_, ?_, ?_, ?_, ?_, ?_, ?_, ?_, Laws.settleKeystone_same _ _ ?_⟩,
    ?_, ?_, ?_, .inr ?_⟩ <;> decide +kernel

/-- A hot spot of site 17 in some state, and one of a management die. -/
def spot (f : HotState → HotState) : State := modHot (8 * 17) f cooled
def hotSpot0 : HotSpot := .site ⟨1, 1⟩ 0
/-- The management die of the tests. -/
def mgmtDie : Nat := ((List.range 224).find? (fun i => placeRole i == 5)).getD 0

theorem witness_HotSpots :
    (Kept cooled ∧ cooled.err.armed = [] ∧ hotKey hotSpot0 = 8 * 17 ∧ hotTaken cooled (8 * 17) = true
      ∧ hardLimit (8 * 17) = some 1100 ∧ warnLimit (8 * 17) = some 950 ∧ hotOf cooled (8 * 17) = hotZero)
    ∧ (let s := spot (fun h => { h with hard := 1, last := [some 1050, some 1100] })
       let x := hotOf s (8 * 17)
       Kept s ∧ hotTaken s (8 * 17) = true ∧ x.retired = copies 2 false ∧ x.offset = copies 2 0 ∧ x.last.length = 2 ∧ x.hard ≠ 0
        ∧ ((1100 : Int) - 1050).natAbs ≤ 50 ∧ 50 < ((1101 : Int) - 1050).natAbs ∧ (entryAt s 17).state = .good)
    ∧ (let s := modHot (8 * mgmtDie) (fun h => { h with hard := 1 }) cooled
       Kept s ∧ hotTaken s (8 * mgmtDie) = true ∧ hotRole (8 * mgmtDie) = 5 ∧ hardLimit (8 * mgmtDie) = some 1100)
    ∧ (let s := spot (fun h => { h with mean := ⟨9500, 10, 9, none⟩ })
       let x := hotOf s (8 * 17)
       Kept s ∧ (atTime 2000000000 s).now / 100000000 ≠ x.mean.period ∧ x.mean.n ≠ 0 ∧ 950 ≤ x.mean.sum / (x.mean.n : Int))
    ∧ (let s := spot (fun h => { h with since := some 1000000000 })
       Kept s ∧ hotTaken s (8 * 17) = true ∧ (hotOf s (8 * 17)).since = some 1000000000 ∧ (hotOf s (8 * 17)).episode = false
        ∧ 1000000000 + 1000000000 ≤ (atTime 2000000000 s).now) := by
  refine ⟨⟨kept_of ?_, ?_, ?_, ?_, ?_, ?_, ?_⟩, ⟨kept_of ?_, ?_, ?_, ?_, ?_, ?_, ?_, ?_, ?_⟩, ⟨kept_of ?_, ?_, ?_, ?_⟩,
    ⟨kept_of ?_, ?_, ?_, ?_⟩, kept_of ?_, ?_, ?_, ?_, ?_⟩ <;> decide +kernel

/-! ## Errors, wear, injection and management -/

/-- `errorChecks` of a mailbox command, as a Bool. -/
def erPasses (op part : Nat) (pay : List Byte) (s : State) : Bool :=
  accepts op (mail op part pay) pay s
    && firstFail (errorChecks op (mail op part pay) pay (takeCmd (mail op part pay) s)) == stOk

/-- The payload of an INJECT of a bus error of core 0 of a site. -/
def injPay (i flags left : Nat) : List Byte :=
  natLe 2 6 ++ natLe 2 flags ++ natLe 1 (siteX i) ++ natLe 1 (siteY i) ++ copies 10 0 ++ natLe 2 left ++ copies 14 0

/-- The injection that it arms. -/
def inj17 : Injection := injectionOf (mail 0x0A02 0 (injPay 17 0 1)) (injPay 17 0 1) 2000000000

/-- Polls answered and missing; an hour's decay; the commands; an INJECT at a dark site, at a full list, at a target that has one,
and one that arms; a CANCEL. -/
theorem witness_ErrorsAndWear :
    (Kept ready ∧ polled ready (coreAt 8 0) = true ∧ mapGetD ready.err.missed (coreAt 8 0) 0 = 0)
    ∧ (let s := setMissed (coreAt 8 0) 1 ready
       Kept s ∧ polled s (coreAt 8 0) = true ∧ mapGetD s.err.missed (coreAt 8 0) 0 ≠ 0)
    ∧ (ready.err.steps = 0 ∧ 3600000000000 ≤ (atTime 3600000000000 ready).now ∧ ready.pwr.good = true)
    ∧ (let pay := natLe 1 0 ++ natLe 3 0 ++ natLe 4 1 ++ natLe 8 0 ++ natLe 4 80 ++ natLe 4 0 ++ natLe 8 0x40000
       let c := mail 0x0A00 0xFF pay
       let s := logAdd (logBlank 10) ready
       let l := s.err.log
       let out := ((logNumbered l).filter (fun p => decide (leAt pay 8 8 ≤ p.1))).take (leAt pay 4 4)
       Kept s ∧ erPasses 0x0A00 0xFF pay s = true ∧ out.length = 1
        ∧ BufferAnswers c (leAt pay 0x18 8) (16 + (out.flatMap (fun p => logBytes p.1 p.2)).length) (takeCmd c s))
    ∧ (let pay := natLe 4 0 ++ natLe 4 17536 ++ natLe 8 0x40000
       let c := mail 0x0A01 0xFF pay
       erPasses 0x0A01 0xFF pay ready = true
        ∧ BufferAnswers c (leAt pay 8 8) (wearHeader (takeCmd c ready) ++ (List.range 273).flatMap (wearBytes (takeCmd c ready))).length
            (takeCmd c ready))
    ∧ (erPasses 0x0A02 0 (injPay 17 0 1) ready = true ∧ leAt (injPay 17 0 1) 2 1 = 0
        ∧ firstFail [((injSite inj17).any (fun i => !sitePowered ready i), stNotReady), (injFull inj17 ready, stNoMemory),
            (ready.err.armed.any (sameTarget inj17), stBusy)] = stOk)
    ∧ (let s := siteIs 17 .off ready
       Kept s ∧ erPasses 0x0A02 0 (injPay 17 0 1) s = true ∧ (injSite inj17).any (fun i => !sitePowered s i) = true)
    ∧ (let s := { ready with err := { ready.err with armed := (List.range 8).map (fun n => { inj17 with point := 1, addr := 8 * n }) } }
       Kept s ∧ erPasses 0x0A02 0 (injPay 17 0 1) s = true ∧ injFull inj17 s = true)
    ∧ (let s := { ready with err := { ready.err with armed := [inj17] } }
       Kept s ∧ erPasses 0x0A02 0 (injPay 17 0 1) s = true ∧ s.err.armed.any (sameTarget inj17) = true
        ∧ erPasses 0x0A02 0 (injPay 17 1 0) s = true ∧ leAt (injPay 17 1 0) 2 1 = 1) := by
  refine ⟨⟨kept_of ?_, ?_, ?_⟩, ⟨kept_of ?_, ?_, ?_⟩, ⟨?_, ?_, ?_⟩, ⟨kept_of ?_, ?_, ?_, .inr ?_⟩, ⟨?_, .inr ?_⟩, ⟨?_, ?_, ?_⟩,
    ⟨kept_of ?_, ?_, ?_⟩, ⟨kept_of ?_, ?_, ?_⟩, kept_of ?_, ?_, ?_, ?_, ?_⟩ <;> decide +kernel

/-- A segment's state. -/
def segIn (f : SegState → SegState) (s : State) : State := modSeg .a f s

/-- The header of a DISCOVER with no body. -/
def discoverFrame : List Byte := natLe 4 0x4D4A5A4C ++ natLe 1 1 ++ natLe 1 1 ++ natLe 2 0 ++ natLe 8 5 ++ natLe 8 9 ++ copies 24 0

/-- `keyChecks` of a mailbox command, as a Bool. -/
def keyPasses (op : Nat) (c : Cmd) (pay : List Byte) (s : State) : Bool :=
  accepts op c pay s && firstFail (keyChecks op c pay (takeCmd c s)) == stOk

/-- A command whose payload lies in host memory. -/
def mailAt (op part addr len : Nat) : Cmd :=
  ⟨2000000000, .mailbox, ⟨BitVec.ofNat 16 op, 0, BitVec.ofNat 8 part, 7, BitVec.ofNat 64 addr, BitVec.ofNat 32 len, 0, copies 40 0⟩⟩

/-- The payload that clears a key. -/
def clearKey (kind n : Nat) : List Byte := natLe 1 kind ++ natLe 1 n ++ natLe 1 1 ++ copies 69 0

/-- A segment that changes to each mode, with and without a node; drops that have grown and that have not; frames; alerts that are
due and that wait; keys that change and that do not; what is attested. -/
theorem witness_ManagementAnswers :
    (ready.mgmt.segs.length = 2 ∧ (segOf ready .a).mode = .csma ∧ ready.mgmt.slotId ≠ 31 ∧ ready.pwr.good = true)
    ∧ (let s := segIn (fun x => { x with drops := { x.drops with dup := 65536 } }) ready
       s.mgmt.segs.length = 2 ∧ (segOf s .a).since + 60000000000 ≤ (atTime 60000000000 s).now ∧ (segOf s .a).drops ≠ (segOf s .a).reported
        ∧ (segOf ready .a).since + 60000000000 ≤ (atTime 60000000000 ready).now ∧ (segOf ready .a).drops = (segOf ready .a).reported)
    ∧ ((segOf ready .a).mode ≠ .down ∧ segmentsServed ready = true ∧ jmHeaderOk discoverFrame = true ∧ jmType discoverFrame = 1
        ∧ jmTarget discoverFrame = 0 ∧ (lastSecond 2000000000 (segOf ready .a).answers).length < 4)
    ∧ (let s := segIn (fun x => { x with answers := copies 4 1500000000 }) ready
       s.mgmt.segs.length = 2 ∧ segmentsServed s = true
        ∧ 4 ≤ (lastSecond (atTime 2000000000 s).now (segOf s .a).answers).length)
    ∧ (let s := { ready with mgmt := { ready.mgmt with alerts := [⟨[1], 1, 2000000000⟩, ⟨[2], 0, 3000000000⟩] } }
       s.mgmt.segs.length = 2 ∧ (∃ z ∈ s.mgmt.alerts, z.due ≤ (atTime 2000000000 s).now)
        ∧ ∀ z ∈ s.mgmt.alerts, (atTime 1999999999 s).now < z.due)
    ∧ (let s := { ready with boot := { ready.boot with keys := { ready.boot.keys with mgmt := copies 57 1 } } }
       let p (k : Nat) (t : State) := keyPasses 0x0B00 (mailAt 0x0B00 0xFF 0x40000 72) (clearKey k 0) (inHost 0x40000 (clearKey k 0) t)
       Kept (inHost 0x40000 (clearKey 1 0) s) ∧ p 1 s = true ∧ leAt (clearKey 1 0) 0 1 = 1 ∧ leAt (clearKey 1 0) 2 1 = 1 ∧ [] ≠ s.boot.keys.mgmt
        ∧ p 1 ready = true ∧ [] = ready.boot.keys.mgmt ∧ p 2 ready = true ∧ leAt (clearKey 2 0) 0 1 = 2)
    ∧ (let pay := copies 64 0 ++ natLe 1 1 ++ natLe 3 0 ++ natLe 4 416 ++ natLe 8 0x40000
       let c := mailAt 0x0B01 0xFF 0x50000 80
       let s := inHost 0x50000 pay ready
       Kept s ∧ keyPasses 0x0B01 c pay s = true ∧ ∀ n, BufferAnswers c (leAt pay 0x48 8) n (takeCmd c s))
    ∧ (let c := mailBuf 0x0B02 0xFF 0x40000 1024
       keyPasses 0x0B02 c [] ready = true ∧ isMbData c = false ∧ ∀ n, BufferAnswers c (cmdAddr c) n (takeCmd c ready)) := by
  refine ⟨⟨?_, ?_, ?_, ?_⟩, ⟨?_, ?_, ?_, ?_, ?_⟩, ⟨?_, ?_, ?_, ?_, ?_, ?_⟩, ⟨?_, ?_, ?_⟩, ⟨?_, ?_, ?_⟩,
    ⟨kept_of ?_, ?_, ?_, ?_, ?_, ?_, ?_, ?_, ?_⟩, ⟨kept_of ?_, ?_, fun n => .inr rfl⟩, ?_, ?_, fun n => .inr rfl⟩ <;> decide +kernel

/-! ## The commands' own checks -/

/-- Firmware takes the command, and its first failing common check has this status. -/
def failsWith (st : Nat) (c : Cmd) (s : State) : Bool :=
  canTake c s && (commonChecks c (takeCmd c s)).1 == st && st != stOk && (opInfo (cmdOp c)).isSome

/-- Each common check, failing with all before it met; an opcode that is not in the table; checks of the commands' own, of each
of their groups. -/
theorem witness_FirstFailedCheckDecides :
    failsWith stVersionRefused (mail 0x0101 0xFF (p8 1 1 0 0 0)) { ready with host := { ready.host with agreed := none } } = true
    ∧ failsWith stBadField (mail 0x0101 8 (p8 1 1 0 0 0)) ready = true
    ∧ failsWith stBadField (mail 0x0009 0xFF (copies 16 0)) ready = true
    ∧ failsWith stNotReady (mail 0x0101 0xFF (p8 1 1 0 0 0)) { ready with host := { ready.host with bringup := 5 } } = true
    ∧ failsWith stBadLength (mailAt 0x0101 0xFF 0x40000 0) ready = true
    ∧ failsWith stTimeout (mailAt 0x0101 0xFF 0x40000 8) { ready with hostFail := [(0x40000, 8, true)] } = true
    ∧ failsWith stFault (mailAt 0x0101 0xFF 0x40000 8) { ready with hostFail := [(0x40000, 8, false)] } = true
    ∧ failsWith stBadField (mail 0x0302 0 (p8 1 1 1 0 0)) ready = true
    ∧ opInfo 0x0FFF = none
    ∧ (let own (op : Nat) (pay : List Byte) (checks : List (Bool × Nat)) : Bool :=
         accepts op (mail op 0xFF pay) pay ready && firstFail checks != stOk
       let u (op : Nat) (pay : List Byte) : State := takeCmd (mail op 0xFF pay) ready
       let h (op : Nat) (pay : List Byte) : List (Bool × Nat) := hostChecks op (mail op 0xFF pay) pay (u op pay)
       own 0x0004 (p8 1 0 0 0 0) (h 0x0004 (p8 1 0 0 0 0)) = true
        ∧ own 0x0101 (p8 16 0 0 0 0) (planChecks 0x0101 (mail 0x0101 0xFF (p8 16 0 0 0 0)) (p8 16 0 0 0 0) (u 0x0101 (p8 16 0 0 0 0)))
            = true
        ∧ own 0x0306 (copies 8 0) (fabricChecks 0x0306 (mail 0x0306 0xFF (copies 8 0)) (copies 8 0) (u 0x0306 (copies 8 0))) = true
        ∧ own 0x0A02 (copies 32 0) (errorChecks 0x0A02 (mail 0x0A02 0xFF (copies 32 0)) (copies 32 0) (u 0x0A02 (copies 32 0))) = true
        ∧ own 0x0B00 (copies 8 0) (keyChecks 0x0B00 (mail 0x0B00 0xFF (copies 8 0)) (copies 8 0) (u 0x0B00 (copies 8 0))) = true) := by
  refine ⟨?_, ?_, ?_, ?_, ?_, ?_, ?_, ?_, ?_, ?_, ?_, ?_, ?_, ?_⟩ <;> decide +kernel

/-! ## Commands that find their moment -/

/-- The moments that `Obligations.WellFormedCommandsRun` names: an acknowledged burst of a DRAIN, a FILL with its data moved, a
router in its cycle, an entry and a credit that have come across, an image in order, and a processor that runs. -/
theorem witness_CommandsFindTheirMoment :
    (let s := burstState 2 0
     let v : Burst := ⟨3, 1, 0, 512, true, 0, copies 512 7⟩
     bayOfCore s 8 = some (0, bay0) ∧ engineRuns bay0 = true ∧ burstOf (coreOf s 8) 3 = some v ∧ v.answered = true ∧ v.status = 0
      ∧ (coreOf s 8).ax.started.find? (fun y => y.id = v.desc) = some ⟨1, desc 2 2 512 1, 512, [], 0, 0, false⟩
      ∧ dsOp (desc 2 2 512 1) = 2)
    ∧ (let x : DescRun := ⟨1, desc 1 2 512 1, 512, [0], 0, 0, false⟩
       (coreOf (doneState 1) 8).ax.started = x :: []
        ∧ descDone (coreOf (doneState 1) 8) (periodNow (atTime 0 (doneState 1)) bay0) x = true)
    ∧ (let s := pegState pegTake [xing 7 8 4 .e .w [] [xentry .data 0] []]
       enterCycle (coreNo core0) 10 s = some (0, bay0, s) ∧ (coreOf s 8).rt.run.cycle = 10
        ∧ issueDone bay0 (coreOf s 8) 10 = true)
    ∧ (let x := xing 7 8 4 .e .w [xentry .data 0] [] []
       let u := noteTrips (atTime 0 (pegState 0 [x]))
       endRuns (pegState 0 [x]) 8 = true ∧ xingIn u 8 .w = some x ∧ x.flight = xentry .data 0 :: []
        ∧ tripDue u 8 (xentry .data 0).trip = true)
    ∧ (let x := xing 8 9 4 .e .w [] [] [⟨0, some 8⟩]
       let u := noteTrips (atTime 0 (pegState 0 [x]))
       xingOut u 8 .e = some x ∧ x.returning = ⟨0, some 8⟩ :: [] ∧ tripDue u 8 ⟨0, some 8⟩ = true)
    ∧ (let s := withImage (image0 5) []
       let u := takeCmd (mail 0x0200 0 loadPay) s
       let r := request (hostRead u 0x40000 80) (mail 0x0200 0 loadPay) none
       Kept s ∧ LoadTakes (mail 0x0200 0 loadPay) loadPay s ∧ loadErr u r = none ∧ DiesRun (imgOf r.bytes) u
        ∧ CoresInOrder (imgOf r.bytes) u)
    ∧ (let n : ProcId := Fin.ofNat _ 1
       Kept ready ∧ (procOf ready n.val).run = .running ∧ siteInReset ready (siteOfProc n.val) = false ∧ ready.err.armed = []
        ∧ mailWaits ready = false) := by
  refine ⟨⟨rfl, by decide, ?_, rfl, rfl, ?_, ?_⟩, ⟨?_, ?_⟩, ⟨rfl, rfl, ?_⟩, ⟨?_, rfl, rfl, ?_⟩, ⟨rfl, rfl, ?_⟩,
    ⟨kept_of ?_, load_takes _ _ ?_ ?_, ?_, dies_run ?_, cores_in_order ?_ ?_⟩, kept_of ?_, ?_, ?_, ?_, ?_⟩ <;> decide +kernel

/-! ## The worked examples of the specification -/

/-- R24: core [77,41] lies on the die at (9,7), band 1, quadrant 3, bit 13; core i = 2, j = 6 of die (4,11) is [34,70]. -/
theorem test_core_coordinates :
    siteOfCore (coreAt 77 41) = 16 * 7 + 9 ∧ bandOf 41 = 1 ∧ quadrantOf (16 * 7 + 9) = 3 ∧ coreBit (coreAt 77 41) = 13
    ∧ coreOfBit (16 * 11 + 4) (8 * 6 + 2) = coreAt 34 70 := by decide +kernel

/-- Table 3-3: elements 0, 9 and 31 of the DP4 block with scale word 0xE47D are 1.5, −0.75 and 2. -/
theorem test_dp4_block :
    fEq (blockElem .dp4 0xE47D 0 0x7) (.fin false 3 (-1)) = true ∧ fEq (blockElem .dp4 0xE47D 9 0xB) (.fin true 3 (-2)) = true
    ∧ fEq (blockElem .dp4 0xE47D 31 0x2) (.fin false 1 1) = true := by decide +kernel

/-- R99: 460 converts to 448 with no flag, 470 to 448 with SAT, and 2^24 + 1 rounds in FP32. -/
theorem test_conversions :
    cvtVal .e4m3 .rne (.fin false 460 0) = (0x7E, noFlags) ∧ cvtVal .e4m3 .rne (.fin false 470 0) = (0x7E, { sat := true })
    ∧ cvtVal .fp32 .rne (.fin false (2 ^ 24 + 1) 0) = (0x4B800000, noFlags) := by decide +kernel

/-- R108: 1.0625 in E4M3 under each rounding mode. -/
theorem test_rounding_modes :
    (cvtVal .e4m3 .rne (.fin false 17 (-4))).1 = 0x38 ∧ (cvtVal .e4m3 .rtz (.fin false 17 (-4))).1 = 0x38
    ∧ (cvtVal .e4m3 (.sr 0x7FFFFFFF) (.fin false 17 (-4))).1 = 0x39
    ∧ (cvtVal .e4m3 (.sr 0x80000000) (.fin false 17 (-4))).1 = 0x38 := by decide +kernel

/-- R111: 448 · 448 + 2^−9 · 2^−9 − 448 · 448 adds exactly to 2^−18. -/
theorem test_chunk_sum :
    (accChunk 0 ([0x7E, 0x01, 0xFE].map (blockElem .mxE4M3 0x7F 0)) ([0x7E, 0x01, 0x7E].map (blockElem .mxE4M3 0x7F 0))).1
      = 0x36800000#32 := by decide +kernel

/-- R121: an MXFP6 operand of N = 2 has seven element rows and one scale row. -/
theorem test_operand_rows : mxElemRows .mxE2M3 2 = 7 ∧ mxScaleRows .mxE2M3 2 = 1 := by decide +kernel

/-- R422: with stacks 8 to 23 present, HDM offset 0x20_0000_1000 is service address 0x44_0000_0000_1000; with stacks 0 to 31, it is
on stack 2. -/
theorem test_hdm_slots :
    hdmAddr { ready with fp := { ready.fp with entries := ready.fp.entries.map (fun e =>
        if e.role = 2 then { e with state := .absent } else e) |>.zipIdx.map (fun p =>
        if (List.range 16).any (fun n => siteOfStack (n + 8) == p.2) then { p.1 with state := .good } else p.1) } } 0x2000001000
      = some 0x44000000001000
    ∧ hdmAddr ready 0x2000001000 = some (addrOf (16 * 0 + 4) 0 0x1000) := by decide +kernel

/-- Table 18-7: at 19.5 kW, Q_req is 32.76 L/min, and FLOW_LOW's thresholds lie at 27.85 and 29.48 L/min. -/
theorem test_required_flow :
    flowReq 19500 = 32760 ∧ flowBelow 27845 85 19500 = true ∧ flowBelow 27846 85 19500 = false
    ∧ flowBelow 29483 90 19500 = true ∧ flowBelow 29484 90 19500 = false := by decide +kernel

end Sys2Proof.Tests
end

/-! Proofs of the family of the floor plan: the frame of every command, the bytes of the record, and the floor plan
commands. -/

namespace Sys2Proof.FloorPlanFamily

open Machine Laws

/-! ## The frame of every command (R33, R50, R438, R459) -/

/-- Each command keeps to the parts that `mayChange` lists for it: they are those that the frame lemma of its meaning names. -/
theorem exec_within_mayChange (i : Instr) (s : State) : OutWithin (mayChange i) s (exec i s) := by
  cases i with
  | floorplanGet c => exact within_execFloorplanGet (Covers.self _) (Within.refl _ _)
  | siteFence c => exact within_execSiteFence (Covers.self _) (Within.refl _ _)
  | siteUnfence c => exact within_execSiteUnfence (Covers.self _) (Within.refl _ _)
  | siteUnfenceDefault c => exact within_execSiteUnfenceDefault (Covers.self _) (Within.refl _ _)
  | siteRetest c => exact within_execSiteRetest (Covers.self _) (Within.refl _ _)
  | siteRetestComplete p r time => exact within_execSiteRetestComplete (Covers.self _) (Within.refl _ _)
  | matrixStep k t => exact within_execMatrixStep (Covers.self _) (Within.refl _ _)
  | matrixStepStart k t => exact within_execMatrixStepStart (Covers.self _) (Within.refl _ _)
  | operandRelease k t => exact within_execOperandRelease (Covers.self _) (Within.refl _ _)
  | bankComplete k t => exact within_execBankComplete (Covers.self _) (Within.refl _ _)
  | tileInQueue k t => exact within_execTileInQueue (Covers.self _) (Within.refl _ _)
  | vectorChain k t => exact within_execVectorChain (Covers.self _) (Within.refl _ _)
  | vectorChainStart k t => exact within_execVectorChainStart (Covers.self _) (Within.refl _ _)
  | vectorInputConsume k t => exact within_execVectorInputConsume (Covers.self _) (Within.refl _ _)
  | vectorOutputFull k t => exact within_execVectorOutputFull (Covers.self _) (Within.refl _ _)
  | scanCall k t => exact within_execScanCall (Covers.self _) (Within.refl _ _)
  | scanCallStart k t => exact within_execScanCallStart (Covers.self _) (Within.refl _ _)
  | scanInputEmpty k t => exact within_execScanInputEmpty (Covers.self _) (Within.refl _ _)
  | scanOutputFull k t => exact within_execScanOutputFull (Covers.self _) (Within.refl _ _)
  | accessEnq k t => exact within_execAccessEnq (Covers.self _) (Within.refl _ _)
  | descriptorStart k time => exact within_execDescriptorStart (Covers.self _) (Within.refl _ _)
  | burstResponse k tag time => exact within_execBurstResponse (Covers.self _) (Within.refl _ _)
  | descriptorComplete k time => exact within_execDescriptorComplete (Covers.self _) (Within.refl _ _)
  | remoteScratchpadWrite k time => exact within_execRemoteScratchpadWrite (Covers.self _) (Within.refl _ _)
  | send k t => exact within_execSend (Covers.self _) (Within.refl _ _)
  | sendTagEmpty k t => exact within_execSendTagEmpty (Covers.self _) (Within.refl _ _)
  | receive k t => exact within_execReceive (Covers.self _) (Within.refl _ _)
  | receiveTagFull k t => exact within_execReceiveTagFull (Covers.self _) (Within.refl _ _)
  | cload k t => exact within_execCload (Covers.self _) (Within.refl _ _)
  | cstep k t => exact within_execCstep (Covers.self _) (Within.refl _ _)
  | cloop k t => exact within_execCloop (Covers.self _) (Within.refl _ _)
  | ctest k t => exact within_execCtest (Covers.self _) (Within.refl _ _)
  | produce k t => exact within_execProduce (Covers.self _) (Within.refl _ _)
  | consume k t => exact within_execConsume (Covers.self _) (Within.refl _ _)
  | pegPage k t => exact within_execPegPage (Covers.self _) (Within.refl _ _)
  | epochMark k t => exact within_execEpochMark (Covers.self _) (Within.refl _ _)
  | checkAhead k t => exact within_execCheckAhead (Covers.self _) (Within.refl _ _)
  | pegEntry k t => exact within_execPegEntry (Covers.self _) (Within.refl _ _)
  | pegCheck k t => exact within_execPegCheck (Covers.self _) (Within.refl _ _)
  | crossingEntry k side time => exact within_execCrossingEntry (Covers.self _) (Within.refl _ _)
  | creditReturn k side time => exact within_execCreditReturn (Covers.self _) (Within.refl _ _)
  | bayFreeze b time => exact within_execBayFreeze (Covers.self _) (Within.refl _ _)
  | bayResume b time => exact within_execBayResume (Covers.self _) (Within.refl _ _)
  | bankHold k t => exact within_execBankHold (Covers.self _) (Within.refl _ _)
  | droop k t level => exact within_execDroop (Covers.self _) (Within.refl _ _)
  | bayLoad c => exact within_execBayLoad (Covers.self _) (Within.refl _ _)
  | bayStart c => exact within_execBayStart (Covers.self _) (Within.refl _ _)
  | bayHold c => exact within_execBayHold (Covers.self _) (Within.refl _ _)
  | bayRelease c => exact within_execBayRelease (Covers.self _) (Within.refl _ _)
  | bayStop c => exact within_execBayStop (Covers.self _) (Within.refl _ _)
  | bayReconfigure c => exact within_execBayReconfigure (Covers.self _) (Within.refl _ _)
  | baySetPoint c => exact within_execBaySetPoint (Covers.self _) (Within.refl _ _)
  | railRaised b time => exact within_execRailRaised (Covers.self _) (Within.refl _ _)
  | pointStop b time => exact within_execPointStop (Covers.self _) (Within.refl _ _)
  | relockEnd b time => exact within_execRelockEnd (Covers.self _) (Within.refl _ _)
  | bayStatus c => exact within_execBayStatus (Covers.self _) (Within.refl _ _)
  | timeExchange c => exact within_execTimeExchange (Covers.self _) (Within.refl _ _)
  | bayRemove c => exact within_execBayRemove (Covers.self _) (Within.refl _ _)
  | loadReportGet c => exact within_execLoadReportGet (Covers.self _) (Within.refl _ _)
  | hazardGet c => exact within_execHazardGet (Covers.self _) (Within.refl _ _)
  | stopCycle b time => exact within_execStopCycle (Covers.self _) (Within.refl _ _)
  | drainComplete b time => exact within_execDrainComplete (Covers.self _) (Within.refl _ _)
  | drainOverrun b time => exact within_execDrainOverrun (Covers.self _) (Within.refl _ _)
  | faultHold b time => exact within_execFaultHold (Covers.self _) (Within.refl _ _)
  | bayHeldLong b time => exact within_execBayHeldLong (Covers.self _) (Within.refl _ _)
  | bayDone b time => exact within_execBayDone (Covers.self _) (Within.refl _ _)
  | serviceRead q f time => exact within_execServiceRead (Covers.self _) (Within.refl _ _)
  | serviceWrite q f time => exact within_execServiceWrite (Covers.self _) (Within.refl _ _)
  | ctrlPacket q time => exact within_execCtrlPacket (Covers.self _) (Within.refl _ _)
  | serviceResponse q time => exact within_execServiceResponse (Covers.self _) (Within.refl _ _)
  | requestExpired p u tag time => exact within_execRequestExpired (Covers.self _) (Within.refl _ _)
  | hopReplay p side f time => exact within_execHopReplay (Covers.self _) (Within.refl _ _)
  | hopRetrain p side ok time => exact within_execHopRetrain (Covers.self _) (Within.refl _ _)
  | routeRewrite time => exact within_execRouteRewrite (Covers.self _) (Within.refl _ _)
  | congestionSample p fills waits time => exact within_execCongestionSample (Covers.self _) (Within.refl _ _)
  | congestionWindowEnd time => exact within_execCongestionWindowEnd (Covers.self _) (Within.refl _ _)
  | partitionCreate c => exact within_execPartitionCreate (Covers.self _) (Within.refl _ _)
  | partitionDestroy c => exact within_execPartitionDestroy (Covers.self _) (Within.refl _ _)
  | partitionAdd c => exact within_execPartitionAdd (Covers.self _) (Within.refl _ _)
  | partitionRemove c => exact within_execPartitionRemove (Covers.self _) (Within.refl _ _)
  | windowSet c => exact within_execWindowSet (Covers.self _) (Within.refl _ _)
  | windowClear c => exact within_execWindowClear (Covers.self _) (Within.refl _ _)
  | memScrubSet c => exact within_execMemScrubSet (Covers.self _) (Within.refl _ _)
  | fabricMapGet c => exact within_execFabricMapGet (Covers.self _) (Within.refl _ _)
  | patrolScrub st word f time => exact within_execPatrolScrub (Covers.self _) (Within.refl _ _)
  | rowRetire st row time => exact within_execRowRetire (Covers.self _) (Within.refl _ _)
  | embTableCreate c => exact within_execEmbTableCreate (Covers.self _) (Within.refl _ _)
  | embTableDestroy c => exact within_execEmbTableDestroy (Covers.self _) (Within.refl _ _)
  | requestPortWrite q time => exact within_execRequestPortWrite (Covers.self _) (Within.refl _ _)
  | lookupStart st f time => exact within_execLookupStart (Covers.self _) (Within.refl _ _)
  | lookupResult st order time => exact within_execLookupResult (Covers.self _) (Within.refl _ _)
  | embBatchOpen c => exact within_execEmbBatchOpen (Covers.self _) (Within.refl _ _)
  | embBatchClose c => exact within_execEmbBatchClose (Covers.self _) (Within.refl _ _)
  | embBatchRelease part batch time => exact within_execEmbBatchRelease (Covers.self _) (Within.refl _ _)
  | embRebuildStart c => exact within_execEmbRebuildStart (Covers.self _) (Within.refl _ _)
  | rebuildRowWrite st tab f time => exact within_execRebuildRowWrite (Covers.self _) (Within.refl _ _)
  | rebuildStarved st tab time => exact within_execRebuildStarved (Covers.self _) (Within.refl _ _)
  | embRebuildPause c => exact within_execEmbRebuildPause (Covers.self _) (Within.refl _ _)
  | embRebuildResume c => exact within_execEmbRebuildResume (Covers.self _) (Within.refl _ _)
  | embRebuildShare c => exact within_execEmbRebuildShare (Covers.self _) (Within.refl _ _)
  | embRebuildAbort c => exact within_execEmbRebuildAbort (Covers.self _) (Within.refl _ _)
  | embCommit c => exact within_execEmbCommit (Covers.self _) (Within.refl _ _)
  | embTableStatus c => exact within_execEmbTableStatus (Covers.self _) (Within.refl _ _)
  | inflateRead q f time => exact within_execInflateRead (Covers.self _) (Within.refl _ _)
  | pageSweep w page time => exact within_execPageSweep (Covers.self _) (Within.refl _ _)
  | wstoreInstallBegin c => exact within_execWstoreInstallBegin (Covers.self _) (Within.refl _ _)
  | wstoreInstallEnd c => exact within_execWstoreInstallEnd (Covers.self _) (Within.refl _ _)
  | wstoreWrite c => exact within_execWstoreWrite (Covers.self _) (Within.refl _ _)
  | pageWrite w time => exact within_execPageWrite (Covers.self _) (Within.refl _ _)
  | wstoreStatus c => exact within_execWstoreStatus (Covers.self _) (Within.refl _ _)
  | wsetStage c => exact within_execWsetStage (Covers.self _) (Within.refl _ _)
  | wsetSwitch c => exact within_execWsetSwitch (Covers.self _) (Within.refl _ _)
  | wsetDiscard c => exact within_execWsetDiscard (Covers.self _) (Within.refl _ _)
  | wsetDiscardCurrent c => exact within_execWsetDiscardCurrent (Covers.self _) (Within.refl _ _)
  | wsetBatchOpen c => exact within_execWsetBatchOpen (Covers.self _) (Within.refl _ _)
  | wsetBatchClose c => exact within_execWsetBatchClose (Covers.self _) (Within.refl _ _)
  | wsetGet c => exact within_execWsetGet (Covers.self _) (Within.refl _ _)
  | purlinSet c => exact within_execPurlinSet (Covers.self _) (Within.refl _ _)
  | purlinSend c => exact within_execPurlinSend (Covers.self _) (Within.refl _ _)
  | segmentReceive part seg time => exact within_execSegmentReceive (Covers.self _) (Within.refl _ _)
  | linkFlitReceive l f time => exact within_execLinkFlitReceive (Covers.self _) (Within.refl _ _)
  | linkTraining l r time => exact within_execLinkTraining (Covers.self _) (Within.refl _ _)
  | linkRetrain l cause time => exact within_execLinkRetrain (Covers.self _) (Within.refl _ _)
  | linkPanelIdSet c => exact within_execLinkPanelIdSet (Covers.self _) (Within.refl _ _)
  | partitionLinkSet c => exact within_execPartitionLinkSet (Covers.self _) (Within.refl _ _)
  | rankTableSet c => exact within_execRankTableSet (Covers.self _) (Within.refl _ _)
  | transitSet c => exact within_execTransitSet (Covers.self _) (Within.refl _ _)
  | linkCtrl c => exact within_execLinkCtrl (Covers.self _) (Within.refl _ _)
  | linkStatus c => exact within_execLinkStatus (Covers.self _) (Within.refl _ _)
  | linkEgressWrite q x time => exact within_execLinkEgressWrite (Covers.self _) (Within.refl _ _)
  | linkAckArrival l q time => exact within_execLinkAckArrival (Covers.self _) (Within.refl _ _)
  | linkAckExpired l tag time => exact within_execLinkAckExpired (Covers.self _) (Within.refl _ _)
  | linkPacketArrival l q time => exact within_execLinkPacketArrival (Covers.self _) (Within.refl _ _)
  | reductionAdd h time => exact within_execReductionAdd (Covers.self _) (Within.refl _ _)
  | hdmAccess a f time => exact within_execHdmAccess (Covers.self _) (Within.refl _ _)
  | biasSet c => exact within_execBiasSet (Covers.self _) (Within.refl _ _)
  | hostWindowSet c => exact within_execHostWindowSet (Covers.self _) (Within.refl _ _)
  | hostWindowClear c => exact within_execHostWindowClear (Covers.self _) (Within.refl _ _)
  | apertureAccess a f time => exact within_execApertureAccess (Covers.self _) (Within.refl _ _)
  | commit v time => exact within_execCommit (Covers.self _) (Within.refl _ _)
  | go v time => exact within_execGo (Covers.self _) (Within.refl _ _)
  | done v time => exact within_execDone (Covers.self _) (Within.refl _ _)
  | sqTail qid tail time => exact within_execSqTail (Covers.self _) (Within.refl _ _)
  | cqHead qid head time => exact within_execCqHead (Covers.self _) (Within.refl _ _)
  | dbErrors time => exact within_execDbErrors (Covers.self _) (Within.refl _ _)
  | hdmErrors time => exact within_execHdmErrors (Covers.self _) (Within.refl _ _)
  | apErrors time => exact within_execApErrors (Covers.self _) (Within.refl _ _)
  | registerWrite a time => exact within_execRegisterWrite (Covers.self _) (Within.refl _ _)
  | commandTake time => exact within_execCommandTake (Covers.self _) (Within.refl _ _)
  | payloadTimeout c => exact within_execPayloadTimeout (Covers.self _) (Within.refl _ _)
  | queueCreate c => exact within_execQueueCreate (Covers.self _) (Within.refl _ _)
  | queueDelete c => exact within_execQueueDelete (Covers.self _) (Within.refl _ _)
  | version c => exact within_execVersion (Covers.self _) (Within.refl _ _)
  | identify c => exact within_execIdentify (Covers.self _) (Within.refl _ _)
  | tokenSend c => exact within_execTokenSend (Covers.self _) (Within.refl _ _)
  | tokenSendDeliver k tq time => exact within_execTokenSendDeliver (Covers.self _) (Within.refl _ _)
  | tokenSendTimeout k tq time => exact within_execTokenSendTimeout (Covers.self _) (Within.refl _ _)
  | eventQueueSet c => exact within_execEventQueueSet (Covers.self _) (Within.refl _ _)
  | eventQueueClear c => exact within_execEventQueueClear (Covers.self _) (Within.refl _ _)
  | eventAck c => exact within_execEventAck (Covers.self _) (Within.refl _ _)
  | hostPortReset cause time => exact within_execHostPortReset (Covers.self _) (Within.refl _ _)
  | perstDeassert mode time => exact within_execPerstDeassert (Covers.self _) (Within.refl _ _)
  | prepareRemoval c => exact within_execPrepareRemoval (Covers.self _) (Within.refl _ _)
  | watchdogExpiry n time => exact within_execWatchdogExpiry (Covers.self _) (Within.refl _ _)
  | fwRestart n time => exact within_execFwRestart (Covers.self _) (Within.refl _ _)
  | fwWaitExpired id time => exact within_execFwWaitExpired (Covers.self _) (Within.refl _ _)
  | fwProcRestart c => exact within_execFwProcRestart (Covers.self _) (Within.refl _ _)
  | fwStatus c => exact within_execFwStatus (Covers.self _) (Within.refl _ _)
  | fwBundleStage c => exact within_execFwBundleStage (Covers.self _) (Within.refl _ _)
  | fwBundleApply c => exact within_execFwBundleApply (Covers.self _) (Within.refl _ _)
  | microcodeLoad k time => exact within_execMicrocodeLoad (Covers.self _) (Within.refl _ _)
  | kingPostLossTrip time => exact within_execKingPostLossTrip (Covers.self _) (Within.refl _ _)
  | powerGood m time => exact within_execPowerGood (Covers.self _) (Within.refl _ _)
  | bringupStep r time => exact within_execBringupStep (Covers.self _) (Within.refl _ _)
  | bringupDeadline r time => exact within_execBringupDeadline (Covers.self _) (Within.refl _ _)
  | resetCore c => exact within_execResetCore (Covers.self _) (Within.refl _ _)
  | resetDie c => exact within_execResetDie (Covers.self _) (Within.refl _ _)
  | dieResetComplete p r time => exact within_execDieResetComplete (Covers.self _) (Within.refl _ _)
  | resetPartition c => exact within_execResetPartition (Covers.self _) (Within.refl _ _)
  | partitionResetDiscard part time => exact within_execPartitionResetDiscard (Covers.self _) (Within.refl _ _)
  | resetPanelWarm c => exact within_execResetPanelWarm (Covers.self _) (Within.refl _ _)
  | resetPanelCold c => exact within_execResetPanelCold (Covers.self _) (Within.refl _ _)
  | siteOn c => exact within_execSiteOn (Covers.self _) (Within.refl _ _)
  | powerOnBegin n time => exact within_execPowerOnBegin (Covers.self _) (Within.refl _ _)
  | powerOnTimeout n time => exact within_execPowerOnTimeout (Covers.self _) (Within.refl _ _)
  | siteOnComplete p r time => exact within_execSiteOnComplete (Covers.self _) (Within.refl _ _)
  | siteOff c => exact within_execSiteOff (Covers.self _) (Within.refl _ _)
  | selfRefreshEnter c => exact within_execSelfRefreshEnter (Covers.self _) (Within.refl _ _)
  | selfRefreshExit c => exact within_execSelfRefreshExit (Covers.self _) (Within.refl _ _)
  | lanes c => exact within_execLanes (Covers.self _) (Within.refl _ _)
  | quadrantOn c => exact within_execQuadrantOn (Covers.self _) (Within.refl _ _)
  | powerStatus c => exact within_execPowerStatus (Covers.self _) (Within.refl _ _)
  | ceilingSet c => exact within_execCeilingSet (Covers.self _) (Within.refl _ _)
  | powerTick r time => exact within_execPowerTick (Covers.self _) (Within.refl _ _)
  | inputTrip isOver mv time => exact within_execInputTrip (Covers.self _) (Within.refl _ _)
  | inputRange mv time => exact within_execInputRange (Covers.self _) (Within.refl _ _)
  | phaseLost p d phase time => exact within_execPhaseLost (Covers.self _) (Within.refl _ _)
  | domainDark p d mv time => exact within_execDomainDark (Covers.self _) (Within.refl _ _)
  | siteTrip p overload peak time => exact within_execSiteTrip (Covers.self _) (Within.refl _ _)
  | quadrantTrip n overload peak time => exact within_execQuadrantTrip (Covers.self _) (Within.refl _ _)
  | sensorRetired p d sensor mv time => exact within_execSensorRetired (Covers.self _) (Within.refl _ _)
  | pathEstimate p d r time => exact within_execPathEstimate (Covers.self _) (Within.refl _ _)
  | limiterDemand p logic array time => exact within_execLimiterDemand (Covers.self _) (Within.refl _ _)
  | quadrantLimit n cur time => exact within_execQuadrantLimit (Covers.self _) (Within.refl _ _)
  | panelLimit watts time => exact within_execPanelLimit (Covers.self _) (Within.refl _ _)
  | limitLong u time => exact within_execLimitLong (Covers.self _) (Within.refl _ _)
  | boostConditionLost b time => exact within_execBoostConditionLost (Covers.self _) (Within.refl _ _)
  | flowSample dp th time => exact within_execFlowSample (Covers.self _) (Within.refl _ _)
  | flowPeriod r time => exact within_execFlowPeriod (Covers.self _) (Within.refl _ _)
  | flowStopCleared time => exact within_execFlowStopCleared (Covers.self _) (Within.refl _ _)
  | flowDisagree time => exact within_execFlowDisagree (Covers.self _) (Within.refl _ _)
  | diodeSample h d0 d1 time => exact within_execDiodeSample (Covers.self _) (Within.refl _ _)
  | diodeDisagree h time => exact within_execDiodeDisagree (Covers.self _) (Within.refl _ _)
  | coolantTemp inlet time => exact within_execCoolantTemp (Covers.self _) (Within.refl _ _)
  | strainHigh p strain time => exact within_execStrainHigh (Covers.self _) (Within.refl _ _)
  | coolingStatus c => exact within_execCoolingStatus (Covers.self _) (Within.refl _ _)
  | statusPoll k answered time => exact within_execStatusPoll (Covers.self _) (Within.refl _ _)
  | errorLogGet c => exact within_execErrorLogGet (Covers.self _) (Within.refl _ _)
  | wearGet c => exact within_execWearGet (Covers.self _) (Within.refl _ _)
  | wearDecay time => exact within_execWearDecay (Covers.self _) (Within.refl _ _)
  | inject c => exact within_execInject (Covers.self _) (Within.refl _ _)
  | injectCancel c => exact within_execInjectCancel (Covers.self _) (Within.refl _ _)
  | injectExpiry time => exact within_execInjectExpiry (Covers.self _) (Within.refl _ _)
  | discover seg f time => exact within_execDiscover (Covers.self _) (Within.refl _ _)
  | command seg f time => exact within_execCommand (Covers.self _) (Within.refl _ _)
  | mgmtSegment seg mode time => exact within_execMgmtSegment (Covers.self _) (Within.refl _ _)
  | mgmtDrops seg time => exact within_execMgmtDrops (Covers.self _) (Within.refl _ _)
  | mgmtKeySetManagement c => exact within_execMgmtKeySetManagement (Covers.self _) (Within.refl _ _)
  | mgmtKeySetWeight c => exact within_execMgmtKeySetWeight (Covers.self _) (Within.refl _ _)
  | attestQuote c => exact within_execAttestQuote (Covers.self _) (Within.refl _ _)
  | certGet c => exact within_execCertGet (Covers.self _) (Within.refl _ _)
  | inputSwitchClose r time => exact within_execInputSwitchClose (Covers.self _) (Within.refl _ _)
  | presenceLost time => exact within_execPresenceLost (Covers.self _) (Within.refl _ _)
  | processorFault n time => exact within_execProcessorFault (Covers.self _) (Within.refl _ _)
  | scheduledScrub st unit f time => exact within_execScheduledScrub (Covers.self _) (Within.refl _ _)
  | linkBufferSample l fill time => exact within_execLinkBufferSample (Covers.self _) (Within.refl _ _)
  | alertRepeat time => exact within_execAlertRepeat (Covers.self _) (Within.refl _ _)
  | neighborSolicitation seg f time => exact within_execNeighborSolicitation (Covers.self _) (Within.refl _ _)
  | cxlL2Change enter time => exact within_execCxlL2Change (Covers.self _) (Within.refl _ _)

/-- Settles O5: what a command leaves alone is what its meaning's frame lemma says. -/
theorem whatACommandMayChange : Obligations.WhatACommandMayChange := by
  intro i s t h
  exact ((exec_within_mayChange i s).next_within t h).frame

/-! ## The record's bytes (R30) -/

theorem recordHeader_length (s : State) (crc : Nat) : (recordHeader s crc).length = 64 := by
  unfold recordHeader
  simp only [List.length_append, natLe_length, copies_length]

theorem entryBytes_length (s : State) (i : Nat) (e : SiteEntry) : (entryBytes s i e).length = 64 := by
  unfold entryBytes
  simp only [List.length_append, natLe_length, copies_length]

/-- Blocks of one length, one after another, are as long as all of them together. -/
theorem length_flatMap_blocks {α β : Type} {f : α → List β} {n : Nat} (hf : ∀ a, (f a).length = n) (l : List α) :
    (l.flatMap f).length = n * l.length := by
  simp [List.length_flatMap, hf, Nat.mul_comm]

/-- Block `i` of blocks of one length stands at `n * i`. -/
theorem flatMap_block {α β : Type} {f : α → List β} {n : Nat} (hf : ∀ a, (f a).length = n) (l : List α) {i : Nat}
    (h : i < l.length) : ((l.flatMap f).drop (n * i)).take n = f l[i] := by
  induction l generalizing i with
  | nil => cases h
  | cons a l ih =>
    cases i with
    | zero => simp [← hf a]
    | succ i =>
      have hd : n * (i + 1) = (f a).length + n * i := by rw [hf a]; ring
      rw [List.flatMap_cons, hd, ← List.drop_drop, List.drop_left, ih (Nat.lt_of_succ_lt_succ h), List.getElem_cons_succ]

/-- The bytes of an entry that comes with its site. -/
def entryBlock (s : State) (p : SiteEntry × Nat) : List Byte := entryBytes s p.2 p.1

theorem entryBlock_length (s : State) (p : SiteEntry × Nat) : (entryBlock s p).length = 64 := entryBytes_length s p.2 p.1

/-- The entries of the record as bytes, in the order of the sites. -/
def recordBody (s : State) : List Byte := s.fp.entries.zipIdx.flatMap (entryBlock s)

theorem recordBytes_eq (s : State) :
    recordBytes s = recordHeader s (crc32 (recordHeader s 0 ++ recordBody s)) ++ recordBody s := rfl

theorem recordBody_length (s : State) : (recordBody s).length = 64 * s.fp.entries.length := by
  rw [recordBody, length_flatMap_blocks (entryBlock_length s), List.length_zipIdx]

theorem recordBody_entry (s : State) {i : Nat} (h : i < s.fp.entries.length) :
    ((recordBody s).drop (64 * i)).take 64 = entryBytes s i (entryAt s i) := by
  have hi : i < s.fp.entries.zipIdx.length := by rwa [List.length_zipIdx]
  rw [recordBody, flatMap_block (entryBlock_length s) _ hi, entryBlock]
  simp [entryAt, h]

theorem recordBytes_take_header (s : State) :
    (recordBytes s).take 64 = recordHeader s (crc32 (recordHeader s 0 ++ recordBody s)) := by
  rw [recordBytes_eq, List.take_left' (recordHeader_length _ _)]

theorem recordBytes_drop_header (s : State) : (recordBytes s).drop 64 = recordBody s := by
  rw [recordBytes_eq, List.drop_left' (recordHeader_length _ _)]

theorem recordBytes_length {s : State} (k : Kept s) : (recordBytes s).length = 14400 := by
  rw [recordBytes_eq, List.length_append, recordHeader_length, recordBody_length, k.entries]

theorem siteNo_lt (p : SiteId) : siteNo p < 224 := by
  unfold siteNo
  omega

/-- Settles O10: header and entries are 64 bytes each, so the entry of a site is the block at its number. -/
theorem recordLayout : Obligations.RecordLayout := by
  intro s k
  refine ⟨recordBytes_length k, ?_, fun p => ?_⟩
  · rw [recordBytes_drop_header, recordBytes_take_header]
  · have hp : siteNo p < s.fp.entries.length := k.entries ▸ siteNo_lt p
    rw [← List.drop_drop, recordBytes_drop_header, ← recordBody_entry s hp, siteNo]

/-! ## The checks of R601 -/

/-- A command whose own checks pass has its effect. -/
theorem checked_pass {c : Cmd} {checks : List (Bool × Nat)} {eff : State → State} {s : State}
    (h : firstFail checks = stOk) : checked c checks eff s = eff s := by
  simp [checked, h]

theorem placeRole_range (i : Nat) : 1 ≤ placeRole i ∧ placeRole i ≤ 6 := by
  unfold placeRole
  simp only
  split_ifs <;> omega

theorem isDieSite_of_role {i : Nat} (h5 : placeRole i ≠ 5) (h6 : placeRole i ≠ 6) : isDieSite i = true := by
  have := placeRole_range i
  simp only [isDieSite, Bool.and_eq_true, decide_eq_true_eq]
  omega

/-- What holds of a payload and the record where the checks that the commands of one site share pass. -/
structure PlanPasses (pay : List Byte) (s : State) : Prop where
  length : pay.length = 8
  x : leAt pay 0 1 ≤ 15
  y : leAt pay 1 1 ≤ 13
  flags : leAt pay 2 1 = 0
  reserved : leAt pay 3 1 = 0
  die : isDieSite (paySite pay) = true
  present : (entryAt s (paySite pay)).state ≠ .absent
  generation : leAt pay 4 4 = 0 ∨ leAt pay 4 4 = s.boot.generation.toNat

theorem planPasses_of_status {pay : List Byte} {s : State} (h : planStatus (fun f => f != 0) pay s stOk = stOk) :
    PlanPasses pay s := by
  unfold planStatus at h
  simp only at h
  split_ifs at h with hlen hform habs hgen
  · exact absurd h (by decide)
  · exact absurd h (by decide)
  · exact absurd h (by decide)
  · exact absurd h (by decide)
  · simp only [not_or, Nat.not_lt, not_not, bne_iff_ne, ne_eq] at hform
    obtain ⟨hx, hy, hres, hflags, h5, h6⟩ := hform
    exact ⟨not_not.mp hlen, hx, hy, hflags, hres, isDieSite_of_role h5 h6, habs, by tauto⟩

/-- An EXPECT_GEN of 0 or of the record's own GENERATION passes. -/
theorem genCheck_pass {pay : List Byte} {s : State}
    (h : leAt pay 4 4 = 0 ∨ leAt pay 4 4 = s.boot.generation.toNat) : (genCheck pay s).1 = false := by
  simpa only [genCheck, Bool.and_eq_false_iff, decide_eq_false_iff_not, not_not] using h

theorem PlanPasses.site_lt {pay : List Byte} {s : State} (h : PlanPasses pay s) : paySite pay < 224 := by
  have hx := h.x
  have hy := h.y
  unfold paySite
  omega

/-- The checks up to check 4 pass, so the command's later checks decide. -/
theorem PlanPasses.siteChecks {pay : List Byte} {s : State} (h : PlanPasses pay s) (m : Nat) (rest : List (Bool × Nat)) :
    firstFail (siteFormChecks m pay ++ sitePlaceChecks pay s ++ genCheck pay s :: rest) = firstFail rest := by
  obtain ⟨hlen, hx, hy, hflags, hres, hdie, habs, hgen⟩ := h
  have hg := genCheck_pass hgen
  simp [siteFormChecks, sitePlaceChecks, firstFail, zeroAt, siteAbsent, hg, hlen, hx, hy, hflags, hres, hdie, habs]

/-! ## Changes of the record -/

theorem recordChange_retests (f : State → State) (s : State) : (recordChange f s).fp.retests = (f s).fp.retests := by
  unfold recordChange
  simp only
  split
  · rfl
  · split
    · rfl
    · rw [announceChange_fp]

theorem modEntry_entries_ne (s : State) {i j : Nat} (f : SiteEntry → SiteEntry) (h : j ≠ i) :
    (modEntry i f s).fp.entries[j]? = s.fp.entries[j]? := by
  simp [modEntry, modAt, h.symm]

theorem inServiceState_usable (e : SiteEntry) : inServiceState e = .good ∨ inServiceState e = .partialUse := by
  unfold inServiceState
  split
  · exact .inl rfl
  · exact .inr rfl

/-- A new record of sites changes nothing else. -/
theorem onlyChanges_fp (s : State) (f : FloorPlan) : OnlyChanges [.fp] s { s with fp := f } := by
  intro p hp
  have h := same_refl p s
  cases p with
  | fp => exact absurd List.mem_cons_self hp
  | _ => exact h

/-! ## FLOORPLAN_GET (R43) -/

/-- A buffer long enough that answers takes the record, and GENERATION is the detail. -/
theorem doFloorplanGet_answers {c : Cmd} (pay : List Byte) {s : State} {x : Taken} (k : Kept s)
    (hx : takenOf c s = some x) (hlen : 14400 ≤ cmdLen c) (hmb : isMbData c = false)
    (hb : BufferAnswers c (cmdAddr c) 14400 s) :
    ∃ t, doFloorplanGet c pay s = complete c stOk s.boot.generation.toNat t
      ∧ OutputIs c (cmdAddr c) (recordBytes s) t ∧ OnlyChanges [.hostMem, .inProgress] s t := by
  rw [← recordBytes_length k] at hb
  obtain ⟨hst, hout, honly⟩ := writeHostBuf_answers hx hb
  refine ⟨_, ?_, hout, honly⟩
  have hc : firstFail [(decide (cmdLen c < 14400), stBadLength)] = stOk := by
    simp [firstFail, Nat.not_lt.mpr hlen]
  rw [doFloorplanGet, checked_pass hc]
  simp only [completeWithOwnBuf, writeOwnBuf, hmb, Bool.false_eq_true, if_false]
  rw [show c.entry.payloadAddr.toNat = cmdAddr c from rfl, hst, if_pos rfl]

/-! ## SITE_FENCE and SITE_UNFENCE (R45 to R47) -/

/-- The parts of the state that a change of the record with its host entries may change. -/
def recordParts : List StatePart := [.fp, .bootGeneration, .bootFences, .host, .hostMem, .mgmt, .ev, .fw]

/-- One site's entry changes on the host's order, which the persistent list records. -/
def hostChange (i : Nat) (f : HostFence) (g : SiteEntry → SiteEntry) (s : State) : State :=
  recordChange (fun s => recordFence i f (modEntry i g s)) s

section
variable {i : Nat} (f : HostFence) (g : SiteEntry → SiteEntry) {s : State}

theorem hostChange_entry (h : i < s.fp.entries.length) :
    ∃ n, entryAt (hostChange i f g s) i = { g (entryAt s i) with entryGen := n } := by
  obtain ⟨n, hn⟩ := recordChange_entry (fun s => recordFence i f (modEntry i g s)) s i
  rw [entryAt_of_fp (recordFence_fp _ _ _), entryAt_modEntry_same _ _ h] at hn
  exact ⟨n, hn⟩

theorem hostChange_entry_ne {j : Nat} (h : j ≠ i) : entryAt (hostChange i f g s) j = entryAt s j :=
  recordChange_entry_same _ _ (modEntry_entries_ne s g h)

theorem hostChange_fences : mapGet? (hostChange i f g s).boot.hostFences i = some f := by
  rw [hostChange, recordChange_fences]
  exact mapGet?_mapPut_same _ _ _

theorem hostChange_generation (hb : s.fp.built = true) (h : i < s.fp.entries.length)
    (hne : g (entryAt s i) ≠ entryAt s i) :
    (hostChange i f g s).boot.generation = nextGeneration s.boot.generation := by
  have hmem : i ∈ changedSites s.fp.entries (recordFence i f (modEntry i g s)).fp.entries := by
    refine mem_changedSites.mpr ⟨entryAt s i, g (entryAt s i), ?_, ?_, hne.symm⟩
    · simp [entryAt, h]
    · simp [modEntry, modAt, entryAt, h]
  exact recordChange_generation _ _ hb hmem

theorem hostChange_only : OnlyChanges recordParts s (hostChange i f g s) :=
  (within_recordChange ((Covers.self _).mono (by decide))
    (fun _ h => within_recordFence ((Covers.self _).mono (by decide)) (within_modEntry ((Covers.self _).mono (by decide)) h))
    (Within.refl _ s)).frame

end

/-- What SITE_FENCE does to the record once its checks pass. -/
def fenceEffect (i : Nat) (s : State) : State :=
  if siteUsable s i = true then hostChange i .fence (entrySet .fenced 11) s else s

/-- What SITE_UNFENCE of one site does to the record once its checks pass. -/
def unfenceEffect (i : Nat) (s : State) : State :=
  if siteUsable s i = true then s else hostChange i .unfence entryInService s

theorem doSiteFence_passes {c : Cmd} {pay : List Byte} {s : State} (h : PlanPasses pay s)
    (hp : (entryAt s (paySite pay)).part = 0xFF) :
    doSiteFence c pay s = complete c stOk 0 (fenceEffect (paySite pay) s) := by
  rw [doSiteFence]
  exact checked_pass (by rw [h.siteChecks]; simp [firstFail, hp])

theorem doSiteUnfence_one_passes {c : Cmd} {pay : List Byte} {s : State} (h : PlanPasses pay s)
    (hf : (entryAt s (paySite pay)).state ≠ .failed) :
    doSiteUnfence c pay s = complete c stOk 0 (unfenceEffect (paySite pay) s) := by
  have hb : bitAt (leAt pay 2 1) 0 = false := by rw [h.flags]; decide
  rw [doSiteUnfence, hb, if_neg Bool.false_ne_true, doUnfenceOne]
  exact checked_pass (by rw [h.siteChecks]; simp [firstFail, hf])

theorem fenceEffect_usable {i : Nat} {s : State} (hb : s.fp.built = true) (hi : i < s.fp.entries.length)
    (hu : siteUsable s i = true) :
    (entryAt (fenceEffect i s) i).state = .fenced ∧ (entryAt (fenceEffect i s) i).reason = 11
      ∧ mapGet? (fenceEffect i s).boot.hostFences i = some .fence
      ∧ (fenceEffect i s).boot.generation = nextGeneration s.boot.generation := by
  obtain ⟨n, hn⟩ := hostChange_entry .fence (entrySet .fenced 11) hi
  have hne : entrySet .fenced 11 (entryAt s i) ≠ entryAt s i := by
    intro he
    rw [siteUsable, ← he] at hu
    exact Bool.false_ne_true hu
  rw [fenceEffect, if_pos hu, hn]
  exact ⟨rfl, rfl, hostChange_fences _ _, hostChange_generation _ _ hb hi hne⟩

theorem unfenceEffect_out {i : Nat} {s : State} (hi : i < s.fp.entries.length)
    (ho : (entryAt s i).state = .fenced ∨ (entryAt s i).state = .reserve) :
    (entryAt (unfenceEffect i s) i).state = inServiceState (entryAt s i) ∧ (entryAt (unfenceEffect i s) i).reason = 0
      ∧ mapGet? (unfenceEffect i s).boot.hostFences i = some .unfence := by
  obtain ⟨n, hn⟩ := hostChange_entry .unfence entryInService hi
  have hu : ¬siteUsable s i = true := by
    unfold siteUsable
    rcases ho with ho | ho <;> rw [ho] <;> decide
  rw [unfenceEffect, if_neg hu, hn]
  exact ⟨rfl, rfl, hostChange_fences _ _⟩

theorem fenceEffect_entry_ne {i j : Nat} (s : State) (h : j ≠ i) : entryAt (fenceEffect i s) j = entryAt s j := by
  unfold fenceEffect
  split
  · exact hostChange_entry_ne _ _ h
  · rfl

theorem unfenceEffect_entry_ne {i j : Nat} (s : State) (h : j ≠ i) : entryAt (unfenceEffect i s) j = entryAt s j := by
  unfold unfenceEffect
  split
  · rfl
  · exact hostChange_entry_ne _ _ h

theorem fenceEffect_only (i : Nat) (s : State) : OnlyChanges recordParts s (fenceEffect i s) := by
  unfold fenceEffect
  split
  · exact hostChange_only _ _
  · exact fun p _ => same_refl p s

theorem unfenceEffect_only (i : Nat) (s : State) : OnlyChanges recordParts s (unfenceEffect i s) := by
  unfold unfenceEffect
  split
  · exact fun p _ => same_refl p s
  · exact hostChange_only _ _

/-- The factory default of R47: every site's entry as it is restored, and no host entry. -/
def restoreAll (s : State) : State :=
  { s with
    fp := { s.fp with entries := s.fp.entries.zipIdx.map (fun p => entryRestored s p.2 p.1) }
    boot := { s.boot with hostFences := [] } }

theorem doSiteUnfence_default_passes {c : Cmd} {pay : List Byte} {s : State} (hlen : pay.length = 8)
    (hflag : leAt pay 2 1 = 1) (hres : leAt pay 3 1 = 0)
    (hgen : leAt pay 4 4 = 0 ∨ leAt pay 4 4 = s.boot.generation.toNat) (hfree : restoreBlocked s = false) :
    doSiteUnfence c pay s = complete c stOk 0 (recordChange restoreAll s) := by
  have hb : bitAt (leAt pay 2 1) 0 = true := by rw [hflag]; decide
  have hg := genCheck_pass hgen
  rw [doSiteUnfence, hb, if_pos rfl, doUnfenceDefault]
  exact checked_pass (by simp [siteFormChecks, firstFail, zeroAt, hg, hlen, hflag, hres, hfree])

theorem restoreAll_entry (s : State) {j : Nat} (h : j < s.fp.entries.length) :
    entryAt (restoreAll s) j = entryRestored s j (entryAt s j) := by
  simp [entryAt, restoreAll, h]

/-- The default restores every entry, with a new ENTRY_GEN at most. -/
theorem restoreChange_entry (s : State) {j : Nat} (h : j < s.fp.entries.length) :
    ∃ n, entryAt (recordChange restoreAll s) j = { entryRestored s j (entryAt s j) with entryGen := n } :=
  restoreAll_entry s h ▸ recordChange_entry restoreAll s j

theorem entryRestored_part (s : State) (i : Nat) (e : SiteEntry) : (entryRestored s i e).part = e.part := by
  unfold entryRestored entryDefault
  split_ifs <;> rfl

theorem restoreAll_within (s : State) : Within recordParts s (restoreAll s) := by
  refine ⟨fun p hp => ?_, fun k => { k with entries := ?_ }⟩
  · have h := same_refl p s
    cases p with
    | fp | bootFences => exact absurd (by decide) hp
    | _ => exact h
  · simp [restoreAll, k.entries]

theorem restoreChange_only (s : State) : OnlyChanges recordParts s (recordChange restoreAll s) :=
  (within_recordChange ((Covers.self _).mono (by decide)) (fun t h => h.trans (restoreAll_within t))
    (Within.refl _ s)).frame

/-! ## SITE_RETEST (R48) -/

/-- Where none of the processors is held or restarts, the operation runs. -/
theorem needProcs_run {l : List Nat} {c : Cmd} {pay : List Byte} {eff : State → State} {s : State}
    (h : ∀ n ∈ l, procHeld s n = false ∧ procStarts s n = false) : needProcs l c pay eff s = eff s := by
  have hheld : l.any (procHeld s) = false := by
    rw [List.any_eq_false]
    intro n hn
    simp [(h n hn).1]
  have hstart : l.find? (procStarts s) = none := by
    rw [List.find?_eq_none]
    intro n hn
    simp [(h n hn).2]
  rw [needProcs, hheld, hstart]
  rfl

theorem doSiteRetest_passes {c : Cmd} {pay : List Byte} {s : State} (h : PlanPasses pay s)
    (hstate : (entryAt s (paySite pay)).state = .failed) (hpart : (entryAt s (paySite pay)).part = 0xFF)
    (hpower : sitePowered s (paySite pay) = true) (hnew : mapGet? s.fp.retests (paySite pay) = none)
    (hproc : ∀ n, procOfSite (paySite pay) = some n → procHeld s n = false ∧ procStarts s n = false) :
    doSiteRetest c pay s = { s with fp := { s.fp with retests := mapPut s.fp.retests (paySite pay) c } } := by
  have hc : firstFail (siteFormChecks 0 pay ++ sitePlaceChecks pay s
      ++ [genCheck pay s,
          ((entryAt s (paySite pay)).state != .failed || (entryAt s (paySite pay)).part != 0xFF, stDenied),
          (!sitePowered s (paySite pay), stNotReady),
          ((mapGet? s.fp.retests (paySite pay)).isSome, stBusy)]) = stOk := by
    rw [h.siteChecks]
    simp [firstFail, hstate, hpart, hpower, hnew]
  rw [doSiteRetest]
  exact (checked_pass hc).trans (needProcs_run (fun n hn => hproc n (Option.mem_toList.mp hn)))

/-! ## The end of a retest (R48) -/

/-- What a retest that ends with the reason `why` writes into the record and the persistent list. -/
def retestChange (i : Nat) (r : SelfTest) (why : Nat) (s : State) : State :=
  if why = 0 then dropFailure i (modEntry i (fun e => entryInService (entryContents s i r e)) s)
  else if why = 6 then recordFailure i 6 (modEntry i (fun e => entryDark (entrySet .failed 6 (entryContents s i r e))) s)
  else dropFailure i (modEntry i (fun e => entryDark (entrySet .failed why e)) s)

theorem retestOutcome_eq (i : Nat) (r : SelfTest) (s : State) :
    retestOutcome i r s =
      if testReason s i r = 0 then recordChange (retestChange i r (testReason s i r)) s
      else logAdd (logFailure i (testReason s i r) false) (recordChange (retestChange i r (testReason s i r)) s) := rfl

theorem logAdd_fp (r : LogRec) (s : State) : (logAdd r s).fp = s.fp :=
  (within_logAdd (Covers.self _) (Within.refl _ s)).frame .fp (by decide)

theorem logAdd_failures (r : LogRec) (s : State) : (logAdd r s).boot.failures = s.boot.failures :=
  (within_logAdd (Covers.self _) (Within.refl _ s)).frame .bootFailures (by decide)

theorem retestOutcome_fp (i : Nat) (r : SelfTest) (s : State) :
    (retestOutcome i r s).fp = (recordChange (retestChange i r (testReason s i r)) s).fp := by
  rw [retestOutcome_eq]
  split
  · rfl
  · exact logAdd_fp _ _

theorem recordFailure_fp (i reason : Nat) (s : State) : (recordFailure i reason s).fp = s.fp := by
  unfold recordFailure
  split <;> rfl

theorem entryDark_state (e : SiteEntry) : (entryDark e).state = e.state := by
  unfold entryDark
  split <;> rfl

theorem entryDark_reason (e : SiteEntry) : (entryDark e).reason = e.reason := by
  unfold entryDark
  split <;> rfl

/-- The record changes in the site's entry alone: its REASON is the finding, and its STATE is failed but
where there is none. -/
theorem retestChange_fp (i : Nat) (r : SelfTest) (why : Nat) (s : State) :
    ∃ g : SiteEntry → SiteEntry, (retestChange i r why s).fp = (modEntry i g s).fp
      ∧ ∀ e, (g e).reason = why
          ∧ (g e).state = if why = 0 then inServiceState (entryContents s i r e) else .failed := by
  unfold retestChange
  split_ifs with h0 h6
  · exact ⟨_, rfl, fun e => ⟨h0.symm, rfl⟩⟩
  · exact ⟨_, recordFailure_fp _ _ _, fun e => ⟨(entryDark_reason _).trans h6.symm, entryDark_state _⟩⟩
  · exact ⟨_, rfl, fun e => ⟨entryDark_reason _, entryDark_state _⟩⟩

/-- Only a self-test that fails persists. -/
theorem retestChange_failures (i : Nat) (r : SelfTest) (why : Nat) (s : State) :
    mapGet? (retestChange i r why s).boot.failures i = if why = 6 then some 6 else none := by
  unfold retestChange
  split_ifs with h0 h6 h6
  · omega
  · exact mapGet?_mapDel_same _ _
  · exact mapGet?_mapPut_same _ _ _
  · exact mapGet?_mapDel_same _ _

theorem retestOutcome_failures (i : Nat) (r : SelfTest) (s : State) :
    mapGet? (retestOutcome i r s).boot.failures i = if testReason s i r = 6 then some 6 else none := by
  rw [← retestChange_failures i r (testReason s i r) s, retestOutcome_eq]
  split
  · rw [recordChange_failures]
  · rw [logAdd_failures, recordChange_failures]

/-- The end of a retest finishes the site's entry with what was found. -/
theorem retestOutcome_entry {i : Nat} (r : SelfTest) {s : State} (h : i < s.fp.entries.length) :
    (entryAt (retestOutcome i r s) i).reason = testReason s i r
      ∧ (testReason s i r = 0 → (entryAt (retestOutcome i r s) i).state = .good
          ∨ (entryAt (retestOutcome i r s) i).state = .partialUse)
      ∧ (testReason s i r ≠ 0 → (entryAt (retestOutcome i r s) i).state = .failed) := by
  obtain ⟨g, hfp, hg⟩ := retestChange_fp i r (testReason s i r) s
  obtain ⟨n, hn⟩ := recordChange_entry (retestChange i r (testReason s i r)) s i
  rw [entryAt_of_fp hfp, entryAt_modEntry_same _ _ h] at hn
  obtain ⟨hreason, hstate⟩ := hg (entryAt s i)
  rw [entryAt_of_fp (retestOutcome_fp i r s), hn]
  refine ⟨hreason, fun h0 => ?_, fun h0 => ?_⟩
  · simp only [hstate, if_pos h0]
    exact inServiceState_usable _
  · simp only [hstate, if_neg h0]

theorem retestOutcome_entry_ne {i j : Nat} (r : SelfTest) (s : State) (h : j ≠ i) :
    entryAt (retestOutcome i r s) j = entryAt s j := by
  obtain ⟨g, hfp, -⟩ := retestChange_fp i r (testReason s i r) s
  rw [entryAt_of_fp (retestOutcome_fp i r s)]
  exact recordChange_entry_same _ _ (by rw [hfp, modEntry_entries_ne s g h])

theorem retestOutcome_retests (i : Nat) (r : SelfTest) (s : State) :
    (retestOutcome i r s).fp.retests = s.fp.retests := by
  obtain ⟨g, hfp, -⟩ := retestChange_fp i r (testReason s i r) s
  rw [retestOutcome_fp, recordChange_retests, hfp]
  rfl

/-- The state in which the outcome of a retest is written: its time has come, and it runs no more. -/
def retestEnded (i time : Nat) (s : State) : State :=
  { atTime time s with fp := { s.fp with retests := mapDel s.fp.retests i } }

theorem execSiteRetestComplete_due {p : SiteId} {r : SelfTest} {time : Nat} {c : Cmd} {s : State}
    (h : mapGet? s.fp.retests (siteNo p) = some c) :
    exec (.siteRetestComplete p r time) s =
      let t := retestOutcome (siteNo p) r (retestEnded (siteNo p) time s)
      .next (complete c stOk (siteStateCode (entryAt t (siteNo p)).state + 256 * (entryAt t (siteNo p)).reason) t) := by
  show execSiteRetestComplete p r time s = _
  rw [execSiteRetestComplete, h]
  rfl

theorem testReason_retestEnded (i time : Nat) (r : SelfTest) (s : State) :
    testReason (retestEnded i time s) i r = testReason s i r := rfl

/-- Settles O11: each command's checks pass, and its effect is read off the change of the record that it makes. -/
theorem floorPlanCommands : Obligations.FloorPlanCommands := by
  intro c pay s k hbuilt u i
  have ku : Kept u := takeCmd_kept k
  have hentry (j : Nat) : entryAt u j = entryAt s j := takeCmd_entryAt c s j
  have hlen : u.fp.entries.length = 224 := ku.entries
  have hfp : u.fp = s.fp := takeCmd_fp c s
  have hboot : u.boot = s.boot := takeCmd_boot c s
  have husable (j : Nat) : siteUsable u j = siteUsable s j := by rw [siteUsable, hentry, siteUsable]
  refine ⟨fun ha hl hmb hbuf => ?get, fun ha hplan hpart => ?fence, fun ha _ hplan hfail => ?unfence,
    fun ha h8 hflag hres hgen hfree => ?restore, fun ha hplan hstate hpart hpower hnew hproc => ?retest,
    fun p r time hrun => ?done⟩
  case get =>
    have htake : canTake c s = true := ha.2.1
    obtain ⟨_, hx⟩ := takenOf_takeCmd htake
    obtain ⟨t, ht, hout, honly⟩ := doFloorplanGet_answers pay ku hx hl hmb hbuf
    rw [hboot] at ht
    exact ⟨t, (runRow_accepted ha _).trans (congrArg _ ht), hout, honly⟩
  case fence =>
    have hp := planPasses_of_status hplan
    have hi : i < u.fp.entries.length := hlen ▸ hp.site_lt
    refine ⟨fenceEffect i u, (runRow_accepted ha _).trans (congrArg _ (doSiteFence_passes hp (hentry i ▸ hpart))),
      fun hu => ?_, fun hu => ?_, fun j hj => (fenceEffect_entry_ne u hj).trans (hentry j), fenceEffect_only i u⟩
    · rw [← hboot]
      exact fenceEffect_usable (hfp ▸ hbuilt) hi ((husable i).trans hu)
    · rw [fenceEffect, husable, hu, if_neg Bool.false_ne_true]
  case unfence =>
    have hp := planPasses_of_status hplan
    have hi : i < u.fp.entries.length := hlen ▸ hp.site_lt
    refine ⟨unfenceEffect i u,
      (runRow_accepted ha _).trans (congrArg _ (doSiteUnfence_one_passes hp (hentry i ▸ hfail))),
      fun ho => ?_, fun hu => ?_, fun j hj => (unfenceEffect_entry_ne u hj).trans (hentry j), unfenceEffect_only i u⟩
    · rw [← hentry i] at ho ⊢
      exact unfenceEffect_out hi ho
    · rw [unfenceEffect, husable, hu, if_pos rfl]
  case restore =>
    have hgen' : leAt pay 4 4 = 0 ∨ leAt pay 4 4 = u.boot.generation.toNat := hboot ▸ hgen
    refine ⟨recordChange restoreAll u,
      (runRow_accepted ha _).trans (congrArg _ (doSiteUnfence_default_passes h8 hflag hres hgen' hfree)),
      recordChange_fences _ _, fun j hj => ?_, restoreChange_only u⟩
    obtain ⟨n, hn⟩ := restoreChange_entry u (hlen ▸ hj)
    rw [hn, hentry j]
    exact ⟨rfl, rfl, entryRestored_part _ _ _⟩
  case retest =>
    have hp := planPasses_of_status hplan
    have hpower' : sitePowered u i = true := by
      simpa only [sitePowered, pwrOf, u, takeCmd_pwr] using hpower
    have hproc' (n : Nat) (hn : procOfSite i = some n) : procHeld u n = false ∧ procStarts u n = false := by
      simpa only [procHeld, procStarts, procOf, u, takeCmd_fw] using hproc n hn
    refine ⟨_, (runRow_accepted ha _).trans (congrArg _ (doSiteRetest_passes hp (hentry i ▸ hstate) (hentry i ▸ hpart)
      hpower' (hfp ▸ hnew) hproc')), mapGet?_mapPut_same _ _ _, ?_, onlyChanges_fp u _⟩
    show u.fp.entries = s.fp.entries
    rw [hfp]
  case done =>
    have hi : siteNo p < (retestEnded (siteNo p) time s).fp.entries.length := k.entries ▸ siteNo_lt p
    obtain ⟨hreason, hok, hfailed⟩ := retestOutcome_entry r hi
    have hlist := retestOutcome_failures (siteNo p) r (retestEnded (siteNo p) time s)
    rw [testReason_retestEnded] at hreason hok hfailed hlist
    refine ⟨_, execSiteRetestComplete_due hrun, ?_, hreason, fun h0 => ⟨hok h0, ?_⟩, hfailed, fun h6 => ?_,
      fun h6 => ?_, fun j hj => retestOutcome_entry_ne r _ hj⟩
    · rw [retestOutcome_retests]
      exact mapGet?_mapDel_same _ _
    · rw [hlist, h0, if_neg (by decide)]
    · rw [hlist, if_pos h6]
    · rw [hlist, if_neg h6]

end Sys2Proof.FloorPlanFamily

/-! Proofs of the family of the core and its sequencer: the issue stage and what operations leave (O12 to O16), pages and
epochs (O17), the beginning of a cycle (O18), checks ahead (O28), and errors and wear (O58). -/

namespace Sys2Proof.SequencerFamily

open Machine Laws

/-! ## The issue stage passes an operation (R53, R63 to R66) -/

/-- Core `d` is core `c` but for the walks of the operation store. -/
def SeqWalked (c d : Core) : Prop :=
  ∃ w a rs, d = { c with seq := { c.seq with issue := w, ahead := a, recs := rs } }

theorem CoreIssued.walkedOn {c d : Core} (h : CoreIssued c d) :
    WalkedOn { c with rt := { c.rt with ahead := d.rt.ahead } } d := by
  obtain ⟨q, x, y, rfl, hq⟩ := h
  exact ⟨q.issue, q.ahead, q.recs, x, by rw [← hq]⟩

/-- Outside CLOOP the advance of the issue stage leaves the router and the access engine. -/
theorem issueAdvance_seqWalked {k t : Nat} {s : State}
    (h : opKind (opAt (coreOf s k) (coreOf s k).seq.issue.idx) ≠ some .cloop) :
    SeqWalked (coreOf s k) (coreOf (issueAdvance k t s) k) := by
  unfold issueAdvance
  dsimp only
  split
  · rename_i hr
    rw [coreOf_setCore_same]
    exact ⟨_, _, (coreOf s k).seq.recs, rfl⟩
  · split
    · rw [coreOf_setCore_same]
      exact ⟨_, (coreOf s k).seq.ahead, _, rfl⟩
    · split
      · rename_i e
        exact absurd e.1 h
      · rw [coreOf_setCore_same]
        exact ⟨_, _, _, rfl⟩

theorem issueChoice_none {c : Core} {o : BitVec 128} {t : Nat} {kind : OpKind} (h : opKind o = some kind)
    (h1 : kind ≠ .cloop) (h2 : kind ≠ .ctest) : issueChoice c o t = .none := by
  unfold issueChoice
  rw [h]
  split
  · rename_i e
    exact absurd (Option.some.inj e) h1
  · rename_i e
    exact absurd (Option.some.inj e) h2
  · rfl

/-- What the issue stage leaves that passes an operation other than CLOOP behind its effect, which has left the operation store
and the walk alone. -/
structure PassedOn (k t : Nat) (o : BitVec 128) (s1 s2 u : State) : Prop where
  issue : (coreOf u k).seq.issue = walkNext (coreOf s1 k) (issueChoice (coreOf s2 k) o t) (coreOf s1 k).seq.issue
  core : SeqWalked (coreOf s2 k) (coreOf u k)
  others : ∀ j, j ≠ k → coreOf u j = coreOf s2 j
  bays : u.bays = s2.bays

variable {k t : Nat} {kind : OpKind} {o : BitVec 128} {sh : Bool} {r : AheadRec} {s s1 s2 : State}

theorem issueAdvance_passedOn (hi : issueEnter k t kind s = some (o, sh, r, s1)) (hk : kind ≠ .cloop)
    (himage : (coreOf s2 k).image = (coreOf s1 k).image) (hissue : (coreOf s2 k).seq.issue = (coreOf s1 k).seq.issue) :
    PassedOn k t o s1 s2 (issueAdvance k t s2) := by
  obtain ⟨ho, hkind, -⟩ := issueEnter_some hi
  have hop : opAt (coreOf s2 k) (coreOf s2 k).seq.issue.idx = o := by rw [ho, hissue, opAt, opAt, himage]
  obtain ⟨hw, -, hj, hb⟩ := issueAdvance_core k t s2
  refine ⟨?_, issueAdvance_seqWalked ?_, hj, hb⟩
  · rw [hw, hop, hissue, walkNext_image himage]
  · rw [hop, hkind]
    exact fun e => hk (Option.some.inj e)

theorem PassedOn.passes (h : PassedOn k t o s1 s2 (issueAdvance k t s2)) (hj : ∀ j, j ≠ k → coreOf s2 j = coreOf s1 j) :
    Passes k (issueChoice (coreOf s2 k) o t) s1 (issueAdvance k t s2) :=
  ⟨h.issue, fun j hne => (h.others j hne).trans (hj j hne)⟩

/-! ### The three ways to issue (R64, R65, R78) -/

theorem issueRun_late {f : BitVec 128 → State → State} {g : BitVec 128 → AheadRec → State → State}
    (hi : issueEnter k t kind s = some (o, false, r, s1)) (hchk : opChk o = true)
    (hnot : chkMet s1 k o t (fun x => x.accepted.length) = false) :
    issueRun k t kind f g s = .next (issueAdvance k t (checkLate k t s1)) := by
  rw [issueRun_some hi, hchk, hnot]
  rfl

theorem issueRun_shim {f : BitVec 128 → State → State} {g : BitVec 128 → AheadRec → State → State}
    (hi : issueEnter k t kind s = some (o, true, r, s1)) :
    issueRun k t kind f g s
      = .next (issueAdvance k t (f o (if r.shim then s1 else releaseAhead k r s1))) := by
  rw [issueRun_some hi]
  rfl

theorem issueRun_executes {f : BitVec 128 → State → State} {g : BitVec 128 → AheadRec → State → State}
    (h : Executes k t kind o r s s1) :
    issueRun k t kind f g s = .next (issueAdvance k t (g o r (examineOp k t kind s1))) := by
  have hc : (opChk o && !chkMet s1 k o t (fun x => x.accepted.length)) = false := by
    cases ho : opChk o with
    | false => rfl
    | true => rw [h.2 ho]; rfl
  rw [issueRun_some h.1, hc]
  rfl

/-- A CLOOP that is not unpadded on a dynamic counter issues as every other operation. -/
theorem execCloop_counted {k : CoreId} (hi : issueEnter (coreNo k) t .cloop s = some (o, sh, r, s1))
    (hd : isDynUnpadded (coreOf s1 (coreNo k)) o t = false) :
    exec (.cloop k t) s = counterRun (coreNo k) t .cloop (fun o s =>
      modCore (coreNo k) (fun c =>
        if !coForever o && coMax o != 0 && decide (coMax o < (counterAt c (coCtr o) t).1.toNat) then
          { c with st := { c.st with clip := true } }
        else c) s) s := by
  show execCloop k t s = _
  unfold execCloop
  rw [hi]
  dsimp only
  rw [hd]
  rfl

/-- The kinds of operations of which a shim has no place in an engine's queue, and no effect. -/
def plainKinds : List OpKind := [.accessEnq, .send, .receive, .produce, .consume, .epochMark]

/-! ### The meanings of the operations -/

section
variable (k : CoreId) (t : Nat) (s : State)

theorem exec_matrixStep : exec (.matrixStep k t) s = execMatrixStep k t s := rfl
theorem exec_vectorChain : exec (.vectorChain k t) s = execVectorChain k t s := rfl
theorem exec_scanCall : exec (.scanCall k t) s = execScanCall k t s := rfl
theorem exec_accessEnq : exec (.accessEnq k t) s = execAccessEnq k t s := rfl
theorem exec_send : exec (.send k t) s = execSend k t s := rfl
theorem exec_receive : exec (.receive k t) s = execReceive k t s := rfl
theorem exec_cload : exec (.cload k t) s = execCload k t s := rfl
theorem exec_cstep : exec (.cstep k t) s = execCstep k t s := rfl
theorem exec_ctest : exec (.ctest k t) s = execCtest k t s := rfl
theorem exec_produce : exec (.produce k t) s = execProduce k t s := rfl
theorem exec_consume : exec (.consume k t) s = execConsume k t s := rfl
theorem exec_pegPage : exec (.pegPage k t) s = execPegPage k t s := rfl
theorem exec_epochMark : exec (.epochMark k t) s = execEpochMark k t s := rfl

end

theorem counterRun_eq (k t : Nat) (kind : OpKind) (eff : BitVec 128 → State → State) (s : State) :
    counterRun k t kind eff s = issueRun k t kind eff (fun o _ s => eff o s) s := rfl

/-- Every operation issues through the issue stage. -/
theorem exec_issueRow {k : CoreId} {i : Instr} (h : (kind, i) ∈ issueRows k t)
    (hi : issueEnter (coreNo k) t kind s = some (o, sh, r, s1))
    (hd : kind = .cloop → isDynUnpadded (coreOf s1 (coreNo k)) o t = false) :
    ∃ f g, exec i s = issueRun (coreNo k) t kind f g s ∧ (kind ∈ plainKinds → f = noShim) := by
  simp only [issueRows, List.mem_cons, Prod.mk.injEq, List.not_mem_nil, or_false] at h
  rcases h with ⟨rfl, rfl⟩ | ⟨rfl, rfl⟩ | ⟨rfl, rfl⟩ | ⟨rfl, rfl⟩ | ⟨rfl, rfl⟩ | ⟨rfl, rfl⟩ | ⟨rfl, rfl⟩ | ⟨rfl, rfl⟩
    | ⟨rfl, rfl⟩ | ⟨rfl, rfl⟩ | ⟨rfl, rfl⟩ | ⟨rfl, rfl⟩ | ⟨rfl, rfl⟩ | ⟨rfl, rfl⟩
  · exact ⟨_, _, exec_matrixStep k t s, fun hm => absurd hm (by decide)⟩
  · exact ⟨_, _, exec_vectorChain k t s, fun hm => absurd hm (by decide)⟩
  · exact ⟨_, _, exec_scanCall k t s, fun hm => absurd hm (by decide)⟩
  · exact ⟨_, _, exec_accessEnq k t s, fun _ => rfl⟩
  · exact ⟨_, _, exec_send k t s, fun _ => rfl⟩
  · exact ⟨_, _, exec_receive k t s, fun _ => rfl⟩
  · exact ⟨_, _, (exec_cload k t s).trans (counterRun_eq _ _ _ _ _), fun hm => absurd hm (by decide)⟩
  · exact ⟨_, _, (exec_cstep k t s).trans (counterRun_eq _ _ _ _ _), fun hm => absurd hm (by decide)⟩
  · exact ⟨_, _, (execCloop_counted hi (hd rfl)).trans (counterRun_eq _ _ _ _ _), fun hm => absurd hm (by decide)⟩
  · exact ⟨_, _, (exec_ctest k t s).trans (counterRun_eq _ _ _ _ _), fun hm => absurd hm (by decide)⟩
  · exact ⟨_, _, exec_produce k t s, fun _ => rfl⟩
  · exact ⟨_, _, exec_consume k t s, fun _ => rfl⟩
  · exact ⟨_, _, exec_pegPage k t s, fun hm => absurd hm (by decide)⟩
  · exact ⟨_, _, exec_epochMark k t s, fun _ => rfl⟩

/-! ## A check that comes too late (R65) -/

theorem setCause_eq (cause : Nat) (c : Core) : setCause cause c.st = { c.st with faultCause := causeAfter cause c } := by
  unfold setCause causeAfter
  split <;> rfl

/-- Settles O12: the late check is the branch of the issue stage without an effect; the cause and the fault come with it. -/
theorem lateChecksFault : Obligations.LateChecksFault := by
  intro k t kind i o r s s1 hrow hi hchk hnot hdyn c
  obtain ⟨f, g, hexec, -⟩ := exec_issueRow hrow hi hdyn
  obtain ⟨hc, hj, hb⟩ := checkLate_core (coreNo k) t s1
  rw [setCause_eq] at hc
  obtain ⟨-, hd, hjw, hbw⟩ := issueAdvance_core (coreNo k) t (checkLate (coreNo k) t s1)
  refine ⟨_, (coreOf (issueAdvance (coreNo k) t (checkLate (coreNo k) t s1)) (coreNo k)).rt.ahead,
    hexec.trans (issueRun_late hi hchk hnot), fun hk => ?_, ?_, fun j hne => (hjw j hne).trans (hj j hne), fun q b hq => ?_⟩
  · obtain ⟨w, a, rs, he⟩ :=
      (issueAdvance_passedOn (s2 := checkLate (coreNo k) t s1) hi hk (by rw [hc]) (by rw [hc])).core
    rw [he, hc]
  · have hw := CoreIssued.walkedOn hd
    rw [hc] at hw
    exact hw
  · rw [bayOf_of_bays hbw]
    exact hb q b hq

end Sys2Proof.SequencerFamily

namespace Sys2Proof.SequencerFamily

open Machine Laws

variable {k t : Nat} {kind : OpKind} {o : BitVec 128} {sh : Bool} {r : AheadRec} {s s1 s2 : State}

/-! ## Shims (R78) -/

/-- The state in which a shim has its effect: what the lookahead claimed for it, where it took it for executing, is released. -/
def released (k : Nat) (r : AheadRec) (s : State) : State :=
  if r.shim then s else releaseAhead k r s

theorem released_core (k : Nat) (r : AheadRec) (s : State) :
    (∃ x, coreOf (released k r s) k = { coreOf s k with ax := { (coreOf s k).ax with reserved := x } })
      ∧ (∀ j, j ≠ k → coreOf (released k r s) j = coreOf s j) ∧ (released k r s).bays = s.bays := by
  unfold released
  split
  · exact ⟨⟨_, rfl⟩, fun _ _ => rfl, rfl⟩
  · exact ⟨⟨_, releaseAhead_same k r s⟩, fun j hj => releaseAhead_ne r s hj, releaseAhead_bays k r s⟩

/-- A change of a core that leaves its operation store and its sequencer, and has nothing to do with the reservations of the
access engine. -/
structure Aside (F : Core → Core) : Prop where
  image : ∀ c, (F c).image = c.image
  seq : ∀ c, (F c).seq = c.seq
  reserved : ∀ (c : Core) (x : Nat), F { c with ax := { c.ax with reserved := x } }
    = { F c with ax := { (F c).ax with reserved := x } }

/-- A shim whose effect is a change of its core that leaves the sequencer. -/
theorem issueRun_shim_effect {F : Core → Core} {f : BitVec 128 → State → State}
    {g : BitVec 128 → AheadRec → State → State} (hi : issueEnter k t kind s = some (o, true, r, s1))
    (hk : kind ≠ .cloop) (hk' : kind ≠ .ctest) (ha : Aside F) (hf : ∀ s, coreOf (f o s) k = F (coreOf s k))
    (hne : ∀ s j, j ≠ k → coreOf (f o s) j = coreOf s j) :
    ∃ u, issueRun k t kind f g s = .next u ∧ Passes k .none s1 u ∧ WalkedOn (F (coreOf s1 k)) (coreOf u k) := by
  obtain ⟨-, hkind, -⟩ := issueEnter_some hi
  obtain ⟨⟨x, hx⟩, hj, -⟩ := released_core k r s1
  have hc : coreOf (f o (released k r s1)) k
      = { F (coreOf s1 k) with ax := { (F (coreOf s1 k)).ax with reserved := x } } := by rw [hf, hx, ha.reserved]
  have hp := issueAdvance_passedOn (s2 := f o (released k r s1)) hi hk
    (by rw [hc]; exact ha.image _) (by rw [hc]; exact congrArg SeqState.issue (ha.seq _))
  refine ⟨_, issueRun_shim hi, ?_, ?_⟩
  · have := hp.passes (fun j h => (hne _ j h).trans (hj j h))
    rwa [issueChoice_none hkind hk hk'] at this
  · obtain ⟨w, a, rs, he⟩ := hp.core
    rw [hc] at he
    exact ⟨w, a, rs, x, he⟩

/-! ### Places in the engines' queues (R55) -/

/-- A core with its engines changed. -/
def putEng (E : Core → EngineState) (c : Core) : Core := { c with eng := E c }

/-- What becomes of the engines depends on them and on the sequencer alone. -/
def OfEngines (E : Core → EngineState) : Prop := ∀ c d : Core, d.eng = c.eng → d.seq = c.seq → E d = E c

theorem aside_putEng {E : Core → EngineState} (h : OfEngines E) : Aside (putEng E) :=
  ⟨fun _ => rfl, fun _ => rfl, fun c x => by simp only [putEng, h c { c with ax := { c.ax with reserved := x } } rfl rfl]⟩

/-- The engines with an operation behind the others in the queue of the matrix engine. -/
def mxQueued (shim : Bool) (o : BitVec 128) (c : Core) : EngineState :=
  { c.eng with mxQueue := c.eng.mxQueue ++ [⟨c.seq.issue.idx, o, walkStart o c.seq.issue, shim⟩] }

/-- The same for the vector engine. -/
def vxQueued (shim : Bool) (o : BitVec 128) (c : Core) : EngineState :=
  { c.eng with vxQueue := c.eng.vxQueue ++ [⟨c.seq.issue.idx, o, walkStart o c.seq.issue, shim⟩] }

/-- The same for the scan unit. -/
def scQueued (shim : Bool) (o : BitVec 128) (c : Core) : EngineState :=
  { c.eng with scQueue := c.eng.scQueue ++ [⟨c.seq.issue.idx, o, walkStart o c.seq.issue, shim⟩] }

theorem ofEngines_mxQueued (shim : Bool) (o : BitVec 128) : OfEngines (mxQueued shim o) := fun c d he hs => by
  rw [mxQueued, mxQueued, he, hs]

theorem ofEngines_vxQueued (shim : Bool) (o : BitVec 128) : OfEngines (vxQueued shim o) := fun c d he hs => by
  rw [vxQueued, vxQueued, he, hs]

theorem ofEngines_scQueued (shim : Bool) (o : BitVec 128) : OfEngines (scQueued shim o) := fun c d he hs => by
  rw [scQueued, scQueued, he, hs]

theorem execMatrixStep_eq (k : CoreId) (t : Nat) (s : State) :
    exec (.matrixStep k t) s = issueRun (coreNo k) t .matrixStep (fun o => modCore (coreNo k) (putEng (mxQueued true o)))
      (fun o _ => modCore (coreNo k) (putEng (mxQueued false o))) s := exec_matrixStep k t s

theorem execVectorChain_eq (k : CoreId) (t : Nat) (s : State) :
    exec (.vectorChain k t) s = issueRun (coreNo k) t .vectorChain (fun o => modCore (coreNo k) (putEng (vxQueued true o)))
      (fun o _ => modCore (coreNo k) (putEng (vxQueued false o))) s := exec_vectorChain k t s

theorem execScanCall_eq (k : CoreId) (t : Nat) (s : State) :
    exec (.scanCall k t) s = issueRun (coreNo k) t .scanCall (fun o => modCore (coreNo k) (putEng (scQueued true o)))
      (fun o _ => modCore (coreNo k) (putEng (scQueued false o))) s := exec_scanCall k t s

/-- The start cycle in the queue is the cycle after the issue, or the first in which the engine is free (R55). -/
theorem mxQueued_eq (shim : Bool) (hi : issueEnter k t .matrixStep s = some (o, sh, r, s1)) :
    mxQueued shim o (coreOf s1 k) = { (coreOf s1 k).eng with mxQueue := (coreOf s1 k).eng.mxQueue
      ++ [⟨(coreOf s1 k).seq.issue.idx, o, max (t + 1) (coreOf s1 k).seq.issue.mxFree, shim⟩] } := by
  obtain ⟨-, hkind, hdue, -⟩ := issueEnter_some hi
  rw [mxQueued, walkStart, hkind, ← hdue]

theorem vxQueued_eq (shim : Bool) (hi : issueEnter k t .vectorChain s = some (o, sh, r, s1)) :
    vxQueued shim o (coreOf s1 k) = { (coreOf s1 k).eng with vxQueue := (coreOf s1 k).eng.vxQueue
      ++ [⟨(coreOf s1 k).seq.issue.idx, o, max (t + 1) (coreOf s1 k).seq.issue.vxFree, shim⟩] } := by
  obtain ⟨-, hkind, hdue, -⟩ := issueEnter_some hi
  rw [vxQueued, walkStart, hkind, ← hdue]

theorem scQueued_eq (shim : Bool) (hi : issueEnter k t .scanCall s = some (o, sh, r, s1)) :
    scQueued shim o (coreOf s1 k) = { (coreOf s1 k).eng with scQueue := (coreOf s1 k).eng.scQueue
      ++ [⟨(coreOf s1 k).seq.issue.idx, o, max (t + 1) (coreOf s1 k).seq.issue.scFree, shim⟩] } := by
  obtain ⟨-, hkind, hdue, -⟩ := issueEnter_some hi
  rw [scQueued, walkStart, hkind, ← hdue]

/-- A shim that takes its place in an engine's queue. -/
theorem issueRun_shim_queued {E : BitVec 128 → Core → EngineState} {g : BitVec 128 → AheadRec → State → State}
    (hi : issueEnter k t kind s = some (o, true, r, s1)) (hk : kind ≠ .cloop) (hk' : kind ≠ .ctest)
    (hE : OfEngines (E o)) :
    ∃ u, issueRun k t kind (fun o => modCore k (putEng (E o))) g s = .next u ∧ Passes k .none s1 u
      ∧ WalkedOn (putEng (E o) (coreOf s1 k)) (coreOf u k) :=
  issueRun_shim_effect hi hk hk' (aside_putEng hE) (fun s => coreOf_modCore_same s k _) (fun s _ h => coreOf_modCore_ne s _ h)

/-- Settles O13: a shim's effect is none, or its place in the queue of its engine. -/
theorem shimsOnlyTakeTime : Obligations.ShimsOnlyTakeTime := by
  intro k t o r s s1 n c w
  refine ⟨fun kind i hrow hplain hi => ?plain, fun hi => ?matrix, fun hi => ?vector, fun hi => ?scan⟩
  case plain =>
    have hk : kind ≠ .cloop := fun e => by subst e; exact absurd hplain (by decide)
    have hk' : kind ≠ .ctest := fun e => by subst e; exact absurd hplain (by decide)
    obtain ⟨f, g, hexec, hf⟩ := exec_issueRow hrow hi (fun e => absurd e hk)
    obtain ⟨u, hu, hp, hw⟩ := issueRun_shim_effect (F := id) (f := f) (g := g) hi hk hk'
      ⟨fun _ => rfl, fun _ => rfl, fun _ _ => rfl⟩ (fun s => by rw [hf hplain]; rfl) (fun s j _ => by rw [hf hplain]; rfl)
    exact ⟨u, hexec.trans hu, hw, hp⟩
  case matrix =>
    obtain ⟨u, hu, hp, hw⟩ := issueRun_shim_queued hi (by decide) (by decide) (ofEngines_mxQueued true o)
    exact ⟨u, (execMatrixStep_eq k t s).trans hu, hp, by rwa [putEng, mxQueued_eq true hi] at hw⟩
  case vector =>
    obtain ⟨u, hu, hp, hw⟩ := issueRun_shim_queued hi (by decide) (by decide) (ofEngines_vxQueued true o)
    exact ⟨u, (execVectorChain_eq k t s).trans hu, hp, by rwa [putEng, vxQueued_eq true hi] at hw⟩
  case scan =>
    obtain ⟨u, hu, hp, hw⟩ := issueRun_shim_queued hi (by decide) (by decide) (ofEngines_scQueued true o)
    exact ⟨u, (execScanCall_eq k t s).trans hu, hp, by rwa [putEng, scQueued_eq true hi] at hw⟩

end Sys2Proof.SequencerFamily

namespace Sys2Proof.SequencerFamily

open Machine Laws

variable {k t : Nat} {kind : OpKind} {o : BitVec 128} {sh : Bool} {r : AheadRec} {s s1 s2 : State}

/-! ## Operations that execute (R55, R66, R70, R86) -/

/-- An operation that is no CLOOP and no CTEST executes: its effect stands, and the walk goes on. -/
theorem executes_passedOn {f : BitVec 128 → State → State} {g : BitVec 128 → AheadRec → State → State}
    (h : Executes k t kind o r s s1) (hk : kind ≠ .cloop) (hg : g o r (examineOp k t kind s1) = s2)
    (himage : (coreOf s2 k).image = (coreOf s1 k).image) (hissue : (coreOf s2 k).seq.issue = (coreOf s1 k).seq.issue) :
    ∃ u, issueRun k t kind f g s = .next u ∧ PassedOn k t o s1 s2 u :=
  ⟨_, by rw [issueRun_executes h, hg], issueAdvance_passedOn h.1 hk himage hissue⟩

theorem PassedOn.walk {u : State} (h : PassedOn k t o s1 s2 u) (he : Executes k t kind o r s s1) (hk : kind ≠ .cloop)
    (hk' : kind ≠ .ctest) : (coreOf u k).seq.issue = walkNext (coreOf s1 k) .none (coreOf s1 k).seq.issue := by
  obtain ⟨-, hkind, -⟩ := issueEnter_some he.1
  rw [h.issue, issueChoice_none hkind hk hk']

theorem examineParity_unarmed {n : Nat} (h : s.err.armed = []) : examineParity k t n s = s := by
  simp [examineParity, examine, injOf, h]

theorem examineOp_unarmed (h : s.err.armed = []) : examineOp k t kind s = s := by
  simp [examineOp, examineParity_unarmed h]

/-! ### Engine operations -/

/-- An operation that enters an engine's queue changes nothing else of its core that is not reported. -/
theorem issueRun_queued {E : BitVec 128 → Core → EngineState} {f : BitVec 128 → State → State}
    (h : Executes k t kind o r s s1) (hk : kind ≠ .cloop) (hk' : kind ≠ .ctest) (hE : OfEngines (E o)) :
    ∃ u, issueRun k t kind f (fun o _ => modCore k (putEng (E o))) s = .next u
      ∧ (Passes k .none s1 u ∧ (coreOf u k).tags = (coreOf s1 k).tags ∧ (coreOf u k).rows = (coreOf s1 k).rows
        ∧ (coreOf u k).writes = (coreOf s1 k).writes ∧ (coreOf u k).rt = (coreOf s1 k).rt)
      ∧ (coreOf u k).eng = E o (coreOf s1 k) := by
  have hm := (marks_examineOp k t kind s1).core k
  have hc := coreOf_modCore_same (examineOp k t kind s1) k (putEng (E o))
  obtain ⟨u, hu, hp⟩ := executes_passedOn (f := f) (g := fun o _ => modCore k (putEng (E o))) h hk rfl
    (by rw [hc]; exact hm.image) (by rw [hc]; exact congrArg SeqState.issue hm.seq)
  obtain ⟨w, a, rs, hd⟩ := hp.core
  rw [hc] at hd
  refine ⟨u, hu, ⟨⟨hp.walk h hk hk', fun j hj => ?_⟩, ?_, ?_, ?_, ?_⟩, ?_⟩
  · rw [hp.others j hj, coreOf_modCore_ne _ _ hj, examineOp_ne _ _ _ hj]
  · exact hd ▸ hm.tags
  · exact hd ▸ hm.rows
  · exact hd ▸ hm.writes
  · exact hd ▸ hm.rt
  · exact hd ▸ hE _ _ hm.eng hm.seq

/-! ### ACCESS_ENQ -/

/-- The descriptors come into the queue, and give back what was reserved for them. -/
def enqCore (ds : List (List Byte)) (reserved : Nat) (c : Core) : Core :=
  { c with ax := { c.ax with queue := c.ax.queue ++ ds, reserved := c.ax.reserved - reserved } }

/-- The effect of an ACCESS_ENQ. -/
def enqEffect (k t : Nat) (o : BitVec 128) (r : AheadRec) (s : State) : State :=
  if r.reserved = 0 ∧ descFree (coreOf s k) < aeCount o then checkLate k t s
  else modCore k (enqCore (enqDescs s k t o) r.reserved)
    (checkReads k ((enqRows (coreOf s k) o).map (fun d => (d, t))) s)

theorem execAccessEnq_eq (k : CoreId) (t : Nat) (s : State) :
    exec (.accessEnq k t) s = issueRun (coreNo k) t .accessEnq noShim (enqEffect (coreNo k) t) s := exec_accessEnq k t s

theorem slotBaseOf_image {c d : Core} (h : c.image = d.image) (n : Nat) : slotBaseOf c n = slotBaseOf d n := by
  unfold slotBaseOf slotDesc
  rw [h]

theorem slotSpan_image {c d : Core} (h : c.image = d.image) (slot off n : Nat) :
    slotSpan c slot off n = slotSpan d slot off n := by
  unfold slotSpan
  rw [slotBaseOf_image h]

theorem srSpan_image {c d : Core} (h : c.image = d.image) (o : BitVec 128) : srSpan c o = srSpan d o :=
  slotSpan_image h _ _ _

/-- Reports leave the descriptors that an ACCESS_ENQ names. -/
theorem enqDescs_reports {s s' : State} (h : Reports s s') (k t : Nat) (o : BitVec 128) :
    enqDescs s' k t o = enqDescs s k t o := by
  unfold enqDescs enqRows
  rw [slotSpan_image (h.core k).image]
  simp only [h.rowAt]

/-- Reads of rows by a core after other reports about it leave every other core but for its rows to be retested. -/
theorem checkReads_others {k j : Nat} {l : List (Nat × Nat)} {s s' : State} (hj : j ≠ k) (h : coreOf s' j = coreOf s j) :
    ∃ su, coreOf (checkReads k l s') j = { coreOf s j with suspects := su } := by
  obtain ⟨su, hsu⟩ := checkReads_ne l s' hj
  exact ⟨su, by rw [hsu, h]⟩

theorem descFree_marked {c d : Core} (h : CoreMarked c d) : descFree d = descFree c := by
  rw [descFree, descFree, h.ax]

/-- An ACCESS_ENQ with its entries reserved, or with room for them now. -/
theorem accessEnq_queues {k : CoreId} (h : Executes (coreNo k) t .accessEnq o r s s1)
    (hroom : r.reserved ≠ 0 ∨ aeCount o ≤ descFree (coreOf s1 (coreNo k))) :
    ∃ u c', exec (.accessEnq k t) s = .next u ∧ PassesReading (coreNo k) s1 u ∧ CoreMarked (coreOf s1 (coreNo k)) c'
      ∧ SeqWalked (enqCore (enqDescs s1 (coreNo k) t o) r.reserved c') (coreOf u (coreNo k)) := by
  let n := coreNo k
  have hx := marks_examineOp n t .accessEnq s1
  let s' := examineOp n t .accessEnq s1
  have hm : Marks s1 (checkReads n ((enqRows (coreOf s' n) o).map (fun d => (d, t))) s') := hx.trans (marks_checkReads _ _ _)
  have hg : enqEffect n t o r s' = modCore n (enqCore (enqDescs s1 n t o) r.reserved)
      (checkReads n ((enqRows (coreOf s' n) o).map (fun d => (d, t))) s') := by
    have hfree : ¬ (r.reserved = 0 ∧ descFree (coreOf s' n) < aeCount o) := by
      rw [descFree_marked (hx.core n)]
      exact fun e => hroom.elim (fun hr => hr e.1) (fun hr => Nat.not_lt.mpr hr e.2)
    rw [enqEffect, if_neg hfree, enqDescs_reports hx.reports]
  obtain ⟨u, hu, hp⟩ := executes_passedOn (f := noShim) h (by decide) hg
    (by rw [coreOf_modCore_same]; exact (hm.core n).image)
    (by rw [coreOf_modCore_same]; exact congrArg SeqState.issue (hm.core n).seq)
  have hc := hp.core
  rw [coreOf_modCore_same] at hc
  refine ⟨u, _, (execAccessEnq_eq k t s).trans hu, ⟨hp.walk h (by decide) (by decide), fun j hj => ?_⟩, hm.core n, hc⟩
  rw [hp.others j hj, coreOf_modCore_ne _ _ hj]
  exact checkReads_others hj (examineOp_ne _ _ _ hj)

/-- An ACCESS_ENQ that had no check and finds too few free entries. -/
theorem accessEnq_faults {k : CoreId} (h : Executes (coreNo k) t .accessEnq o r s s1) (hres : r.reserved = 0)
    (hfull : descFree (coreOf s1 (coreNo k)) < aeCount o) :
    ∃ u, exec (.accessEnq k t) s = .next u ∧ PassesReading (coreNo k) s1 u
      ∧ (coreOf u (coreNo k)).ax = (coreOf s1 (coreNo k)).ax
      ∧ (s1.err.armed = [] → (coreOf u (coreNo k)).st.faultCause = causeAfter 1 (coreOf s1 (coreNo k))) := by
  let n := coreNo k
  have hx := (marks_examineOp n t .accessEnq s1).core n
  let s' := examineOp n t .accessEnq s1
  have hg : enqEffect n t o r s' = checkLate n t s' := by
    rw [enqEffect, if_pos ⟨hres, by rw [descFree_marked hx]; exact hfull⟩]
  obtain ⟨hcore, hne, -⟩ := checkLate_core n t s'
  obtain ⟨u, hu, hp⟩ := executes_passedOn (f := noShim) h (by decide) hg
    (by rw [hcore]; exact hx.image) (by rw [hcore]; exact congrArg SeqState.issue hx.seq)
  obtain ⟨w, a, rs, hc⟩ := hp.core
  rw [hcore] at hc
  refine ⟨u, (execAccessEnq_eq k t s).trans hu, ⟨hp.walk h (by decide) (by decide),
    fun j hj => ⟨(coreOf s1 j).suspects, ?_⟩⟩, ?_, fun hun => ?_⟩
  · rw [hp.others j hj, hne j hj, examineOp_ne _ _ _ hj]
  · rw [hc]
    exact hx.ax
  · rw [hc, setCause_eq]
    show causeAfter 1 (coreOf s' n) = _
    rw [show s' = s1 from examineOp_unarmed hun]

/-! ### SEND -/

/-- A SEND drives from its first row cycle on, and plans to empty its slot where it has TAG. -/
def sendCore (o : BitVec 128) (t deep : Nat) (c : Core) : Core :=
  { c with
    rt := { c.rt with sends := c.rt.sends
      ++ [⟨srLayer o, t + 2 + deep, slotBaseOf c (srSlot o) + srRowOff o, srRows o, deep, false⟩] }
    eng := { c.eng with tagActs := c.eng.tagActs
      ++ (if srTag o = true then [⟨.sendEmpty, t + 2 + deep + srRows o * srStride o, [srSlot o], []⟩] else []) } }

/-- The tests and reads of a SEND. -/
def sendReads (k t : Nat) (o : BitVec 128) (r : AheadRec) (s : State) : State :=
  checkReads k ((List.range (srRows o)).map (fun n => ((srSpan (coreOf s k) o).getD n 0, t + n * srStride o)))
    (expectTag k (srSlot o) true r.idx t s)

theorem execSend_eq (k : CoreId) (t : Nat) (s : State) :
    exec (.send k t) s = issueRun (coreNo k) t .send noShim (fun o r s =>
      modCore (coreNo k) (sendCore o t (deepTerm (srSpan (coreOf s (coreNo k)) o))) (sendReads (coreNo k) t o r s)) s := by
  rw [exec_send, execSend]
  congr 1
  funext o r s
  dsimp only
  rw [sendReads]
  congr 1
  funext c
  unfold sendCore
  split <;> simp [planTags]

theorem reports_sendReads (k t : Nat) (o : BitVec 128) (r : AheadRec) (s : State) : Reports s (sendReads k t o r s) :=
  (reports_expectTag _ _ _ _ _ _).trans (marks_checkReads _ _ _).reports

theorem send_issues {k : CoreId} (h : Executes (coreNo k) t .send o r s s1) :
    ∃ u c', exec (.send k t) s = .next u ∧ PassesReading (coreNo k) s1 u ∧ CoreSame (coreOf s1 (coreNo k)) c'
      ∧ SeqWalked (sendCore o t (deepTerm (srSpan (coreOf s1 (coreNo k)) o)) c') (coreOf u (coreNo k)) := by
  let n := coreNo k
  have hx := marks_examineOp n t .send s1
  let s' := examineOp n t .send s1
  have hm : Reports s1 (sendReads n t o r s') := hx.reports.trans (reports_sendReads _ _ _ _ _)
  obtain ⟨u, hu, hp⟩ := executes_passedOn (f := noShim)
    (s2 := modCore n (sendCore o t (deepTerm (srSpan (coreOf s1 n) o))) (sendReads n t o r s'))
    (g := fun o r s => modCore n (sendCore o t (deepTerm (srSpan (coreOf s n) o))) (sendReads n t o r s)) h (by decide)
    (by rw [srSpan_image (hx.core n).image])
    (by rw [coreOf_modCore_same]; exact (hm.core n).image)
    (by rw [coreOf_modCore_same]; exact congrArg SeqState.issue (hm.core n).seq)
  have hc := hp.core
  rw [coreOf_modCore_same] at hc
  refine ⟨u, _, (execSend_eq k t s).trans hu, ⟨hp.walk h (by decide) (by decide), fun j hj => ?_⟩, hm.core n, hc⟩
  rw [hp.others j hj, coreOf_modCore_ne _ _ hj]
  exact checkReads_others hj ((expectTag_ne _ _ _ _ _ hj).trans (examineOp_ne _ _ _ hj))

/-! ### RECEIVE -/

/-- A RECEIVE captures from its first row cycle on, and plans to fill its slot where it has TAG. -/
def recvCore (o : BitVec 128) (t deep : Nat) (c : Core) : Core :=
  { c with
    rt := { c.rt with recvs := c.rt.recvs
      ++ [⟨srLayer o, t + 2, slotBaseOf c (srSlot o) + srRowOff o, srRows o, deep, false, false, 0⟩] }
    eng := { c.eng with tagActs := c.eng.tagActs
      ++ (if srTag o = true then [⟨.receiveFull, t + 2 + srRows o * srStride o - 1 + 3 + deep + 1, [], [srSlot o]⟩]
          else []) } }

theorem execReceive_eq (k : CoreId) (t : Nat) (s : State) :
    exec (.receive k t) s = issueRun (coreNo k) t .receive noShim (fun o _ s =>
      modCore (coreNo k) (recvCore o t (deepTerm (srSpan (coreOf s (coreNo k)) o))) s) s := by
  rw [exec_receive, execReceive]
  congr 1
  funext o r s
  dsimp only
  congr 1
  funext c
  unfold recvCore
  split <;> simp [planTags]

theorem receive_issues {k : CoreId} (h : Executes (coreNo k) t .receive o r s s1) :
    ∃ u c', exec (.receive k t) s = .next u ∧ Passes (coreNo k) .none s1 u ∧ CoreMarked (coreOf s1 (coreNo k)) c'
      ∧ SeqWalked (recvCore o t (deepTerm (srSpan (coreOf s1 (coreNo k)) o)) c') (coreOf u (coreNo k)) := by
  let n := coreNo k
  have hx := (marks_examineOp n t .receive s1).core n
  let s' := examineOp n t .receive s1
  obtain ⟨u, hu, hp⟩ := executes_passedOn (f := noShim)
    (s2 := modCore n (recvCore o t (deepTerm (srSpan (coreOf s1 n) o))) s')
    (g := fun o _ s => modCore n (recvCore o t (deepTerm (srSpan (coreOf s n) o))) s) h (by decide)
    (by rw [srSpan_image hx.image])
    (by rw [coreOf_modCore_same]; exact hx.image)
    (by rw [coreOf_modCore_same]; exact congrArg SeqState.issue hx.seq)
  have hc := hp.core
  rw [coreOf_modCore_same] at hc
  refine ⟨u, _, (execReceive_eq k t s).trans hu, ⟨hp.walk h (by decide) (by decide), fun j hj => ?_⟩, hx, hc⟩
  rw [hp.others j hj, coreOf_modCore_ne _ _ hj, examineOp_ne _ _ _ hj]

/-! ### PRODUCE -/

/-- A token will be offered. -/
def offerCore (x : TokenOffer) (c : Core) : Core := { c with rt := { c.rt with offers := c.rt.offers ++ [x] } }

/-- The read of a token's source in the scratchpad. -/
def offerReads (k : Nat) (x : TokenOffer) (s : State) : State :=
  match x.scratch with
  | some (d, _, u) => checkReads k [(d, u)] s
  | none => s

theorem execProduce_eq (k : CoreId) (t : Nat) (s : State) :
    exec (.produce k t) s = issueRun (coreNo k) t .produce noShim (fun o _ s =>
      modCore (coreNo k) (offerCore (produceOffer (coreOf s (coreNo k)) o t))
        (offerReads (coreNo k) (produceOffer (coreOf s (coreNo k)) o t) s)) s := exec_produce k t s

theorem marks_offerReads (k : Nat) (x : TokenOffer) (s : State) : Marks s (offerReads k x s) := by
  unfold offerReads
  split
  · exact marks_checkReads _ _ _
  · exact Marks.refl s

theorem offerReads_others {k j : Nat} {x : TokenOffer} {s s' : State} (hj : j ≠ k) (h : coreOf s' j = coreOf s j) :
    ∃ su, coreOf (offerReads k x s') j = { coreOf s j with suspects := su } := by
  unfold offerReads
  split
  · exact checkReads_others hj h
  · exact ⟨_, h⟩

theorem produceOffer_marked {c d : Core} (h : CoreMarked c d) (o : BitVec 128) (t : Nat) :
    produceOffer d o t = produceOffer c o t := by
  obtain ⟨x, su, rfl⟩ := h
  rfl

theorem produceOffer_issue (c : Core) (o : BitVec 128) (t : Nat) : (produceOffer c o t).issue = t := by
  unfold produceOffer
  split <;> rfl

theorem produceOffer_imm {c : Core} (h : tkSrc o = 0) : produceOffer c o t = ⟨t + 2, t, tkImm o, none⟩ := by
  unfold produceOffer
  rw [h]
  rfl

theorem produceOffer_counter {c : Core} (h : tkSrc o = 1) :
    produceOffer c o t = ⟨t + 2, t, (counterAt c (tkCtr o) t).1.toNat, none⟩ := by
  unfold produceOffer
  rw [h]
  rfl

theorem produceOffer_scratch {c : Core} (h : 2 ≤ tkSrc o) :
    produceOffer c o t = ⟨t + 4, t, 0, some (slotBaseOf c (tkSlot o) + tkRowOff o, tkWord o, t + 1)⟩ := by
  unfold produceOffer
  split
  · omega
  · omega
  · rfl

theorem produce_issues {k : CoreId} (h : Executes (coreNo k) t .produce o r s s1) :
    ∃ u c', exec (.produce k t) s = .next u ∧ PassesReading (coreNo k) s1 u ∧ CoreMarked (coreOf s1 (coreNo k)) c'
      ∧ SeqWalked (offerCore (produceOffer (coreOf s1 (coreNo k)) o t) c') (coreOf u (coreNo k)) := by
  let n := coreNo k
  have hx := marks_examineOp n t .produce s1
  let s' := examineOp n t .produce s1
  have hm : Marks s1 (offerReads n (produceOffer (coreOf s1 n) o t) s') := hx.trans (marks_offerReads _ _ _)
  obtain ⟨u, hu, hp⟩ := executes_passedOn (f := noShim)
    (s2 := modCore n (offerCore (produceOffer (coreOf s1 n) o t)) (offerReads n (produceOffer (coreOf s1 n) o t) s'))
    (g := fun o _ s => modCore n (offerCore (produceOffer (coreOf s n) o t))
      (offerReads n (produceOffer (coreOf s n) o t) s))
    h (by decide) (by rw [produceOffer_marked (hx.core n)])
    (by rw [coreOf_modCore_same]; exact (hm.core n).image)
    (by rw [coreOf_modCore_same]; exact congrArg SeqState.issue (hm.core n).seq)
  have hc := hp.core
  rw [coreOf_modCore_same] at hc
  refine ⟨u, _, (execProduce_eq k t s).trans hu, ⟨hp.walk h (by decide) (by decide), fun j hj => ?_⟩, hm.core n, hc⟩
  rw [hp.others j hj, coreOf_modCore_ne _ _ hj]
  exact offerReads_others hj (examineOp_ne _ _ _ hj)

/-- Settles O14: an engine operation's push, the descriptors of an ACCESS_ENQ, and the plans of SEND, RECEIVE and PRODUCE are
their whole effect on the core beside what is reported. -/
theorem operationsIssue : Obligations.OperationsIssue := by
  refine ⟨?engines, ?others⟩ <;> intro k t o r s s1
  case' engines => refine ⟨fun h => ?matrix, fun h => ?vector, fun h => ?scan⟩
  case' others =>
    refine ⟨fun h hroom => ?enq, fun h hres hfull => ?full, fun h => ?send, fun h => ?receive, fun h => ?produce⟩
  case matrix =>
    obtain ⟨u, hu, hsame, he⟩ := issueRun_queued h (by decide) (by decide) (ofEngines_mxQueued false o)
    exact ⟨u, (execMatrixStep_eq k t s).trans hu, hsame, he.trans (mxQueued_eq false h.1)⟩
  case vector =>
    obtain ⟨u, hu, hsame, he⟩ := issueRun_queued h (by decide) (by decide) (ofEngines_vxQueued false o)
    exact ⟨u, (execVectorChain_eq k t s).trans hu, hsame, he.trans (vxQueued_eq false h.1)⟩
  case scan =>
    obtain ⟨u, hu, hsame, he⟩ := issueRun_queued h (by decide) (by decide) (ofEngines_scQueued false o)
    exact ⟨u, (execScanCall_eq k t s).trans hu, hsame, he.trans (scQueued_eq false h.1)⟩
  case enq =>
    obtain ⟨u, c', hu, hp, ⟨x, su, rfl⟩, wk, a, rs, hc⟩ := accessEnq_queues h hroom
    exact ⟨u, hu, hp, by rw [hc]; rfl, by rw [hc]; rfl, by rw [hc]; rfl, by rw [hc]; rfl⟩
  case full => exact accessEnq_faults h hres hfull
  case send =>
    obtain ⟨u, c', hu, hp, ⟨x, su, rfl⟩, wk, a, rs, hc⟩ := send_issues h
    exact ⟨u, hu, hp, by rw [hc]; rfl, by rw [hc]; rfl, by rw [hc]; rfl⟩
  case receive =>
    obtain ⟨u, c', hu, hp, ⟨x, su, rfl⟩, wk, a, rs, hc⟩ := receive_issues h
    exact ⟨u, hu, hp, by rw [hc]; rfl, by rw [hc]; rfl, by rw [hc]; rfl⟩
  case produce =>
    obtain ⟨u, c', hu, hp, ⟨x, su, rfl⟩, wk, a, rs, hc⟩ := produce_issues h
    refine ⟨u, _, hu, hp, by rw [hc]; rfl, produceOffer_issue _ _ _, fun h0 => ?_, fun h1 => ?_, fun h2 => ?_,
      by rw [hc]; rfl, by rw [hc]; rfl⟩
    · rw [produceOffer_imm h0]
      exact ⟨rfl, rfl, rfl⟩
    · rw [produceOffer_counter h1]
      exact ⟨rfl, rfl, rfl⟩
    · rw [produceOffer_scratch h2]
      exact ⟨rfl, rfl⟩

end Sys2Proof.SequencerFamily

namespace Sys2Proof.SequencerFamily

open Machine Laws

/-! ## The newest of several writes (R61, R161)

A read sees, of the writes that it can see, the one with the latest stamp, and of several with that stamp the last. -/

section
variable {α : Type} (p : α → Prop) [DecidablePred p] (key : α → Nat)

/-- One more write, which takes the place of the best so far where it is not older. -/
def newer (best : Option α) (w : α) : Option α :=
  if p w then (match best with | none => some w | some b => if key b ≤ key w then some w else some b) else best

/-- Of the writes that a read can see the newest. -/
def newest (l : List α) : Option α := l.foldl (newer p key) none

/-- What it means to be the newest write: it can be seen, no write before it is newer, and every one behind it is older. -/
def IsNewest (l : List α) : Option α → Prop
  | none => ∀ x ∈ l, ¬ p x
  | some w => ∃ a b, l = a ++ w :: b ∧ p w ∧ (∀ x ∈ a, p x → key x ≤ key w) ∧ ∀ x ∈ b, p x → key x < key w

variable {p key} {l : List α} {w : α}

theorem newer_not {best : Option α} (h : ¬ p w) : newer p key best w = best := if_neg h

theorem newer_none (h : p w) : newer p key none w = some w := if_pos h

theorem newer_le {b : α} (h : p w) (hle : key b ≤ key w) : newer p key (some b) w = some w := by
  rw [newer, if_pos h]
  exact if_pos hle

theorem newer_lt {b : α} (h : p w → key w < key b) : newer p key (some b) w = some b := by
  unfold newer
  split
  · rename_i hp
    exact if_neg (Nat.not_le.mpr (h hp))
  · rfl

omit [DecidablePred p] in
theorem IsNewest.mem (h : IsNewest p key l (some w)) : w ∈ l ∧ p w := by
  obtain ⟨a, b, rfl, hw, -⟩ := h
  exact ⟨by simp, hw⟩

omit [DecidablePred p] in
theorem IsNewest.le (h : IsNewest p key l (some w)) {x : α} (hx : x ∈ l) (hp : p x) : key x ≤ key w := by
  obtain ⟨a, b, rfl, -, ha, hb⟩ := h
  rcases List.mem_append.mp hx with hx | hx
  · exact ha x hx hp
  · rcases List.mem_cons.mp hx with rfl | hx
    · exact Nat.le_refl _
    · exact Nat.le_of_lt (hb x hx hp)

theorem isNewest_newer {best : Option α} (h : IsNewest p key l best) (w : α) :
    IsNewest p key (l ++ [w]) (newer p key best w) := by
  by_cases hw : p w
  · cases best with
    | none =>
      rw [newer_none hw]
      exact ⟨l, [], rfl, hw, fun x hx hpx => absurd hpx (h x hx), fun x hx => by cases hx⟩
    | some b =>
      by_cases hle : key b ≤ key w
      · rw [newer_le hw hle]
        exact ⟨l, [], rfl, hw, fun x hx hpx => (h.le hx hpx).trans hle, fun x hx => by cases hx⟩
      · rw [newer_lt (fun _ => Nat.not_le.mp hle)]
        obtain ⟨a, c, rfl, hb, ha, hc⟩ := h
        refine ⟨a, c ++ [w], by simp, hb, ha, fun x hx hpx => ?_⟩
        rcases List.mem_append.mp hx with hx | hx
        · exact hc x hx hpx
        · rw [List.mem_singleton.mp hx]
          exact Nat.not_le.mp hle
  · rw [newer_not hw]
    cases best with
    | none =>
      intro x hx
      rcases List.mem_append.mp hx with hx | hx
      · exact h x hx
      · rwa [List.mem_singleton.mp hx]
    | some b =>
      obtain ⟨a, c, rfl, hb, ha, hc⟩ := h
      refine ⟨a, c ++ [w], by simp, hb, ha, fun x hx hpx => ?_⟩
      rcases List.mem_append.mp hx with hx | hx
      · exact hc x hx hpx
      · rw [List.mem_singleton.mp hx] at hpx
        exact absurd hpx hw

theorem newest_append_one (l : List α) (w : α) : newest p key (l ++ [w]) = newer p key (newest p key l) w :=
  List.foldl_append

theorem isNewest_newest (l : List α) : IsNewest p key l (newest p key l) := by
  induction l using List.reverseRecOn with
  | nil => exact fun x hx => by cases hx
  | append_singleton l w ih =>
    rw [newest_append_one]
    exact isNewest_newer ih w

theorem newest_none_iff : newest p key l = none ↔ ∀ x ∈ l, ¬ p x := by
  have h := isNewest_newest (p := p) (key := key) l
  constructor
  · intro e
    rwa [e] at h
  · intro hn
    cases hb : newest p key l with
    | none => rfl
    | some w =>
      rw [hb] at h
      exact absurd h.mem.2 (hn w h.mem.1)

/-- A write that is newest is the one that is found. -/
theorem newest_eq_some (h : IsNewest p key l (some w)) : newest p key l = some w := by
  obtain ⟨a, b, rfl, hw, ha, hb⟩ := h
  have hfirst : newer p key (newest p key a) w = some w := by
    have hn := isNewest_newest (p := p) (key := key) a
    cases hc : newest p key a with
    | none => exact newer_none hw
    | some v =>
      rw [hc] at hn
      exact newer_le hw (ha v hn.mem.1 hn.mem.2)
  have hrest : ∀ b : List α, (∀ x ∈ b, p x → key x < key w) → b.foldl (newer p key) (some w) = some w := by
    intro b hb
    induction b with
    | nil => rfl
    | cons x b ih =>
      rw [List.foldl_cons, newer_lt (hb x (by simp))]
      exact ih (fun y hy => hb y (by simp [hy]))
  rw [newest, List.foldl_append, List.foldl_cons]
  exact (congrArg (fun v => b.foldl (newer p key) v) hfirst).trans (hrest b hb)

theorem newest_congr {p' : α → Prop} [DecidablePred p'] (h : ∀ x ∈ l, p x ↔ p' x) :
    newest p key l = newest p' key l := by
  induction l using List.reverseRecOn with
  | nil => rfl
  | append_singleton l w ih =>
    rw [newest_append_one, newest_append_one, ih (fun x hx => h x (by simp [hx]))]
    unfold newer
    rw [if_congr (h w (by simp)) rfl rfl]

/-- Writes that are older than one that can be seen may go. -/
theorem newest_filter {f : α → Bool} (hold : ∀ x ∈ l, p x → f x = false → ∀ y ∈ l, p y → f y = true → key x < key y)
    (hex : ∃ y ∈ l, p y ∧ f y = true) : newest p key (l.filter f) = newest p key l := by
  have h := isNewest_newest (p := p) (key := key) l
  obtain ⟨y, hy, hpy, hfy⟩ := hex
  cases hb : newest p key l with
  | none =>
    rw [hb] at h
    exact absurd hpy (h y hy)
  | some w =>
    rw [hb] at h
    have hfw : f w = true := by
      cases hf : f w with
      | true => rfl
      | false => exact absurd (hold w h.mem.1 h.mem.2 hf y hy hpy hfy) (Nat.not_lt.mpr (h.le hy hpy))
    obtain ⟨a, b, rfl, hw, ha, hb⟩ := h
    refine newest_eq_some ⟨a.filter f, b.filter f, by simp [hfw], hw, fun x hx => ha x (List.mem_of_mem_filter hx),
      fun x hx => hb x (List.mem_of_mem_filter hx)⟩

end

/-! ### Counters -/

/-- What a read of a counter can see. -/
abbrev CtrSeen (i t : Nat) (w : Nat × Nat × BitVec 16 × Bool) : Prop := w.2.1 = i ∧ w.1 ≤ t

theorem counterAt_eq (c : Core) (i t : Nat) :
    counterAt c i t = ((newest (CtrSeen i t) (fun w => w.1) c.seq.counterWrites).map (fun w => w.2.2)).getD
      (c.seq.counters.getD i 0, c.seq.dynamic.getD i false) := by
  unfold counterAt
  generalize hf : List.foldl _ none c.seq.counterWrites = b
  have hb : newest (CtrSeen i t) (fun w => w.1) c.seq.counterWrites = b := by
    rw [← hf, newest]
    congr 1
    funext best w
    cases best <;> rfl
  rw [hb]
  cases b <;> rfl

/-- The value that a counter takes is seen from its cycle on. -/
theorem counterAt_putCounter (i stamp : Nat) (v : BitVec 16) (dyn : Bool) (c : Core) :
    counterAt (putCounter i stamp v dyn c) i stamp = (v, dyn) := by
  have h : newest (CtrSeen i stamp) (fun w => w.1) (c.seq.counterWrites ++ [(stamp, i, v, dyn)]) = some (stamp, i, v, dyn) :=
    newest_eq_some ⟨_, [], rfl, ⟨rfl, Nat.le_refl _⟩, fun x _ hx => hx.2, fun x hx => by cases hx⟩
  rw [counterAt_eq]
  show ((newest (CtrSeen i stamp) (fun w => w.1) (c.seq.counterWrites ++ [(stamp, i, v, dyn)])).map _).getD _ = _
  rw [h]
  rfl

theorem counterAt_putCounter_ne {i j : Nat} (stamp : Nat) (v : BitVec 16) (dyn : Bool) (c : Core) (h : i ≠ j) (u : Nat) :
    counterAt (putCounter j stamp v dyn c) i u = counterAt c i u := by
  rw [counterAt_eq, counterAt_eq]
  show ((newest (CtrSeen i u) (fun w => w.1) (c.seq.counterWrites ++ [(stamp, j, v, dyn)])).map _).getD _ = _
  rw [newest_append_one, newer_not (fun e => h e.1.symm)]
  rfl

/-! ### Rows -/

/-- What a read of a local row can see. -/
abbrev RowSeen (r t : Nat) (w : RowWrite) : Prop := w.row = r ∧ w.stamp ≤ t

theorem lastWrite_eq (ws : List RowWrite) (r t : Nat) :
    lastWrite ws r t = newest (RowSeen r t) (fun w => w.stamp) ws := by
  unfold lastWrite newest
  congr 1
  funext best w
  cases best <;> rfl

theorem coreRowAt_eq (c : Core) (r t : Nat) :
    coreRowAt c r t = ((newest (RowSeen r t) (fun w => w.stamp) c.writes).map (fun w => w.data)).getD
      (mapGetD c.rows r 0) := by
  unfold coreRowAt
  rw [lastWrite_eq]
  cases newest (RowSeen r t) (fun w => w.stamp) c.writes <;> rfl

end Sys2Proof.SequencerFamily

namespace Sys2Proof.SequencerFamily

open Machine Laws

variable {k t : Nat} {kind : OpKind} {o : BitVec 128} {sh : Bool} {r : AheadRec} {s s1 s2 : State}

/-! ## What reports and the walk leave of counters and bays -/

theorem counterAt_seq {c d : Core} (h : d.seq = c.seq) (i v : Nat) : counterAt d i v = counterAt c i v := by
  unfold counterAt
  rw [h]

theorem CoreIssued.counterAt {c d : Core} (h : CoreIssued c d) (i v : Nat) : counterAt d i v = counterAt c i v := by
  obtain ⟨q, x, y, rfl, hq⟩ := h
  simp only [counterAt_eq]
  rw [hq]

theorem SeqWalked.counterAt {c d : Core} (h : SeqWalked c d) (i v : Nat) : counterAt d i v = counterAt c i v := by
  obtain ⟨w, a, rs, rfl⟩ := h
  rfl

theorem SeqWalked.queues {c d : Core} (h : SeqWalked c d) : d.seq.queues = c.seq.queues := by
  obtain ⟨w, a, rs, rfl⟩ := h
  rfl

theorem SeqWalked.st {c d : Core} (h : SeqWalked c d) : d.st = c.st := by
  obtain ⟨w, a, rs, rfl⟩ := h
  rfl

theorem CoreMarked.tokenMiss {c d : Core} (h : CoreMarked c d) : d.st.tokenMiss = c.st.tokenMiss := by
  obtain ⟨x, su, rfl⟩ := h
  rfl

theorem faultCoreBay_unbayed {code : Nat} {c : Nat} (h : bayOfCore s k = none) : faultCoreBay code k c s = s := by
  unfold faultCoreBay
  rw [h]

theorem coreError_unbayed {cls unit off : Nat} {inj : Bool} (h : bayOfCore s k = none) :
    bayOfCore (coreError k t cls unit off inj s) k = none := by
  have hf (f : Core → Core) : bayOfCore (modCore k f s) k = none := h
  unfold coreError
  rw [bayOfCore_of_bays ((within_reportUncorrectable (S := [.host, .ev, .fw, .err, .hostMem, .bootLog]) (res := none)
    ((Covers.self _).mono (by decide)) (Within.refl _ _)).frame .bays (by decide)), faultCoreBay_unbayed (hf _)]
  exact h

theorem examineParity_unbayed {n : Nat} (h : bayOfCore s k = none) : bayOfCore (examineParity k t n s) k = none := by
  unfold examineParity
  dsimp only
  split
  · refine coreError_unbayed ?_
    rw [bayOfCore_of_bays ((within_examine (S := [.host, .ev, .fw, .err, .hostMem, .bootLog])
      ((Covers.self _).mono (by decide)) (Within.refl _ _)).frame .bays (by decide))]
    exact h
  · exact h

theorem examineOp_unbayed (h : bayOfCore s k = none) : bayOfCore (examineOp k t kind s) k = none := by
  unfold examineOp
  dsimp only
  split
  · exact examineParity_unbayed (examineParity_unbayed h)
  · exact examineParity_unbayed h

theorem BayMarked.hazard {b d : Bay} (h : BayMarked b d) : d.hazard = b.hazard := by
  obtain ⟨_, _, _, rfl⟩ := h
  rfl

/-- Where no hazard detector is enabled an event is counted. -/
theorem noteEvent_counts {cls sub index cycle detail : Nat} {f : CoreStatus → CoreStatus}
    (h : ∀ i b, bayOfCore s k = some (i, b) → b.hazard = false) :
    noteEvent k cls sub index cycle detail f s = modCore k (fun c => { c with st := f c.st }) s := by
  unfold noteEvent
  split
  · rename_i i b hb
    rw [h i b hb]
    rfl
  · rfl

/-! ## CONSUME (R80 to R82) -/

/-- The counter of a CONSUME with ACTION 0 takes a value, dynamic, 2 cycles later. -/
def consumeCore (o : BitVec 128) (t v : Nat) (c : Core) : Core :=
  if tkDiscard o then c else putCounter (tkConsCtr o) (t + 2) (BitVec.ofNat 16 v) true c

/-- The same in the state. -/
def consumeLoad (k t : Nat) (o : BitVec 128) (v : Nat) (s : State) : State :=
  if tkDiscard o then s else modCore k (putCounter (tkConsCtr o) (t + 2) (BitVec.ofNat 16 v) true) s

/-- The oldest token of a CONSUME's queue that arrived in an earlier cycle. -/
def headToken (c : Core) (o : BitVec 128) (t : Nat) : Option Token :=
  (c.seq.queues.getD (tkTq o) []).find? (fun x => decide (x.stamp ≤ t))

/-- A core without a token of a CONSUME's queue. -/
def dropToken (o : BitVec 128) (x : Token) (c : Core) : Core :=
  { c with seq := { c.seq with queues := modAt c.seq.queues (tkTq o) (fun q => q.erase x) } }

theorem counterAt_dropToken (x : Token) (c : Core) (i v : Nat) : counterAt (dropToken o x c) i v = counterAt c i v :=
  rfl

/-- The miss of a CONSUME. -/
def consumeMiss (k t : Nat) (entry : Nat) (s : State) : State :=
  noteEvent k 4 2 entry t 0 (fun st => { st with tokenMiss := satInc 4095 st.tokenMiss }) s

/-- The effect of a CONSUME. -/
def consumeEffect (k t : Nat) (o : BitVec 128) (s : State) : State :=
  match headToken (coreOf s k) o t with
  | some x => consumeLoad k t o (tokValue x.word).toNat (modCore k (dropToken o x) (examineParity k t 4 s))
  | none => consumeLoad k t o 0 (consumeMiss k t (coreOf s k).rt.run.entry (examineParity k t 4 s))

theorem execConsume_eq (k : CoreId) (t : Nat) (s : State) :
    exec (.consume k t) s = issueRun (coreNo k) t .consume noShim (fun o _ => consumeEffect (coreNo k) t o) s :=
  exec_consume k t s

theorem coreOf_consumeLoad_same (v : Nat) (s : State) :
    coreOf (consumeLoad k t o v s) k = consumeCore o t v (coreOf s k) := by
  unfold consumeLoad consumeCore
  split
  · rfl
  · exact coreOf_modCore_same _ _ _

theorem coreOf_consumeLoad_ne {j : Nat} (v : Nat) (s : State) (h : j ≠ k) :
    coreOf (consumeLoad k t o v s) j = coreOf s j := by
  unfold consumeLoad
  split
  · rfl
  · exact coreOf_modCore_ne _ _ h

theorem consumeCore_keeps (o : BitVec 128) (t v : Nat) (c : Core) :
    (consumeCore o t v c).image = c.image ∧ (consumeCore o t v c).seq.issue = c.seq.issue
      ∧ (consumeCore o t v c).seq.queues = c.seq.queues ∧ (consumeCore o t v c).st = c.st := by
  unfold consumeCore
  split <;> exact ⟨rfl, rfl, rfl, rfl⟩

theorem consumeCore_counter {v : Nat} {c : Core} (h : tkDiscard o = false) :
    counterAt (consumeCore o t v c) (tkConsCtr o) (t + 2) = (BitVec.ofNat 16 v, true) := by
  rw [consumeCore, h]
  exact counterAt_putCounter _ _ _ _ _

theorem consumeCore_counter_ne {i : Nat} {v : Nat} {c : Core} (h : i ≠ tkConsCtr o) (u : Nat) :
    counterAt (consumeCore o t v c) i u = counterAt c i u := by
  unfold consumeCore
  split
  · rfl
  · exact counterAt_putCounter_ne _ _ _ _ h u

theorem consumeCore_discards {v : Nat} {c : Core} (h : tkDiscard o = true) : consumeCore o t v c = c := by
  rw [consumeCore, h]
  rfl

/-- What a CONSUME leaves that has taken its token or missed it, and has then loaded a value. -/
theorem consume_loads {k : CoreId} (h : Executes (coreNo k) t .consume o r s s1) {v : Nat} {s' : State}
    (he : consumeEffect (coreNo k) t o (examineOp (coreNo k) t .consume s1) = consumeLoad (coreNo k) t o v s')
    (himage : (coreOf s' (coreNo k)).image = (coreOf s1 (coreNo k)).image)
    (hissue : (coreOf s' (coreNo k)).seq.issue = (coreOf s1 (coreNo k)).seq.issue)
    (hne : ∀ j, j ≠ coreNo k → coreOf s' j = coreOf s1 j)
    (hctr : ∀ i u, counterAt (coreOf s' (coreNo k)) i u = counterAt (coreOf s1 (coreNo k)) i u) :
    ∃ u, exec (.consume k t) s = .next u ∧ Passes (coreNo k) .none s1 u
      ∧ (coreOf u (coreNo k)).seq.queues = (coreOf s' (coreNo k)).seq.queues
      ∧ (coreOf u (coreNo k)).st = (coreOf s' (coreNo k)).st
      ∧ (tkDiscard o = false → counterAt (coreOf u (coreNo k)) (tkConsCtr o) (t + 2) = (BitVec.ofNat 16 v, true))
      ∧ (∀ i, i ≠ tkConsCtr o → ∀ w, counterAt (coreOf u (coreNo k)) i w = counterAt (coreOf s1 (coreNo k)) i w)
      ∧ (tkDiscard o = true → ∀ w, counterAt (coreOf u (coreNo k)) (tkConsCtr o) w
          = counterAt (coreOf s1 (coreNo k)) (tkConsCtr o) w) := by
  obtain ⟨kimage, kissue, kqueues, kst⟩ := consumeCore_keeps o t v (coreOf s' (coreNo k))
  obtain ⟨u, hu, hp⟩ := executes_passedOn (f := noShim) (g := fun o _ => consumeEffect (coreNo k) t o) h (by decide) he
    (by rw [coreOf_consumeLoad_same, kimage, himage]) (by rw [coreOf_consumeLoad_same, kissue, hissue])
  have hc := hp.core
  rw [coreOf_consumeLoad_same] at hc
  refine ⟨u, (execConsume_eq k t s).trans hu, ⟨hp.walk h (by decide) (by decide), fun j hj => ?_⟩, ?_, ?_, fun hd => ?_,
    fun i hi w => ?_, fun hd w => ?_⟩
  · rw [hp.others j hj, coreOf_consumeLoad_ne v s' hj, hne j hj]
  · rw [hc.queues, kqueues]
  · rw [hc.st, kst]
  · rw [hc.counterAt, consumeCore_counter hd]
  · rw [hc.counterAt, consumeCore_counter_ne hi, hctr]
  · rw [hc.counterAt, consumeCore_discards hd, hctr]

/-- Settles O15: the token found leaves its queue and its VALUE is loaded; a miss is counted and 0 is loaded. -/
theorem consumeTakesATokenOrMisses : Obligations.ConsumeTakesATokenOrMisses := by
  intro k t o r s s1 h n c head
  have hop := marks_examineOp n t .consume s1
  have hpar : Marks s1 (examineParity n t 4 (examineOp n t .consume s1)) := hop.trans (marks_examineParity _ _ _ _)
  have hm := hpar.core n
  have hhead : headToken (coreOf (examineOp n t .consume s1) n) o t = head := by rw [headToken, (hop.core n).seq]
  have hothers (j : Nat) (hj : j ≠ n) : coreOf (examineParity n t 4 (examineOp n t .consume s1)) j = coreOf s1 j :=
    (examineParity_ne _ _ _ hj).trans (examineOp_ne _ _ _ hj)
  cases hx : head with
  | some x =>
    obtain ⟨u, hu, hp, hq, -, hload, hi, hdis⟩ := consume_loads h (v := (tokValue x.word).toNat)
      (s' := modCore n (dropToken o x) (examineParity n t 4 (examineOp n t .consume s1)))
      (by rw [consumeEffect, hhead, hx])
      (by rw [coreOf_modCore_same]; exact hm.image) (by rw [coreOf_modCore_same, dropToken, hm.seq])
      (fun j hj => by rw [coreOf_modCore_ne _ _ hj, hothers j hj])
      (fun i w => by rw [coreOf_modCore_same, counterAt_dropToken, counterAt_seq hm.seq])
    rw [coreOf_modCore_same] at hq
    refine ⟨u, hu, hp, fun y hy => ?_, fun e => (by cases e), hi, hdis⟩
    cases hy
    exact ⟨hq.trans (by rw [dropToken, hm.seq]), hload⟩
  | none =>
    have hr := reports_noteEvent n 4 2 (coreOf (examineOp n t .consume s1) n).rt.run.entry t 0
      (fun st => { st with tokenMiss := satInc 4095 st.tokenMiss }) (examineParity n t 4 (examineOp n t .consume s1))
    have hr' := hpar.reports.trans hr
    obtain ⟨u, hu, hp, hq, hst, hload, hi, hdis⟩ := consume_loads h (v := 0)
      (s' := consumeMiss n t (coreOf (examineOp n t .consume s1) n).rt.run.entry
        (examineParity n t 4 (examineOp n t .consume s1)))
      (by rw [consumeEffect, hhead, hx])
      (hr'.core n).image (congrArg SeqState.issue (hr'.core n).seq)
      (fun j hj => (noteEvent_ne _ _ _ _ _ _ _ hj).trans (hothers j hj)) (fun i w => counterAt_seq (hr'.core n).seq i w)
    refine ⟨u, hu, hp, fun y hy => (by cases hy), fun _ => ⟨hq.trans (by rw [consumeMiss, (hr'.core n).seq]), hload,
      fun hz => ?_⟩, hi, hdis⟩
    have hz' : ∀ i b, bayOfCore (examineParity n t 4 (examineOp n t .consume s1)) n = some (i, b) → b.hazard = false := by
      intro i d hd
      cases hb : bayOfCore s1 n with
      | none =>
        rw [examineParity_unbayed (examineOp_unbayed hb)] at hd
        cases hd
      | some p =>
        obtain ⟨e, he, me⟩ := examineOp_bay (t := t) (kind := .consume) hb
        obtain ⟨e', he', me'⟩ := examineParity_bay (t := t) (n := 4) he
        rw [hd] at he'
        cases he'
        rw [BayMarked.hazard (me.trans me')]
        exact hz _ _ hb
    rw [hst, consumeMiss, noteEvent_counts hz', coreOf_modCore_same]
    show satInc 4095 _ = _
    rw [CoreMarked.tokenMiss hm]

end Sys2Proof.SequencerFamily

namespace Sys2Proof.SequencerFamily

open Machine Laws

variable {k t : Nat} {kind : OpKind} {o : BitVec 128} {sh : Bool} {r : AheadRec} {s s1 s2 : State}

/-! ## Counter operations, executing or in a shimmed region (R71 to R78) -/

/-- The state in which a counter operation has its effect. -/
def prepared (k t : Nat) (kind : OpKind) (sh : Bool) (r : AheadRec) (s : State) : State :=
  if sh then released k r s else examineOp k t kind s

/-- Core `d` is core `c` but for what reports and the release of reservations change. -/
def CorePrepared (c d : Core) : Prop :=
  ∃ x y su, d = { c with st := { c.st with faultCause := x }, ax := { c.ax with reserved := y }, suspects := su }

theorem prepared_core (k t : Nat) (kind : OpKind) (sh : Bool) (r : AheadRec) (s : State) :
    CorePrepared (coreOf s k) (coreOf (prepared k t kind sh r s) k)
      ∧ ∀ j, j ≠ k → coreOf (prepared k t kind sh r s) j = coreOf s j := by
  unfold prepared
  cases sh with
  | true =>
    obtain ⟨⟨y, hy⟩, hj, -⟩ := released_core k r s
    exact ⟨⟨_, y, _, hy⟩, hj⟩
  | false =>
    obtain ⟨x, su, hx⟩ := (marks_examineOp k t kind s).core k
    exact ⟨⟨x, _, su, hx⟩, fun j hj => examineOp_ne _ _ _ hj⟩

theorem prepared_bay (kind : OpKind) (sh : Bool) (r : AheadRec) {i : Nat} {b : Bay} (h : bayOfCore s k = some (i, b)) :
    ∃ d, bayOfCore (prepared k t kind sh r s) k = some (i, d) ∧ BayMarked b d := by
  unfold prepared
  cases sh with
  | true =>
    obtain ⟨-, -, hb⟩ := released_core k r s
    exact ⟨b, (bayOfCore_of_bays hb k).trans h, BayMarked.refl b⟩
  | false => exact examineOp_bay h

section
variable {c d : Core} (h : CorePrepared c d)
include h

theorem CorePrepared.image : d.image = c.image := by obtain ⟨_, _, _, rfl⟩ := h; rfl
theorem CorePrepared.seq : d.seq = c.seq := by obtain ⟨_, _, _, rfl⟩ := h; rfl
theorem CorePrepared.tags : d.tags = c.tags := by obtain ⟨_, _, _, rfl⟩ := h; rfl
theorem CorePrepared.eng : d.eng = c.eng := by obtain ⟨_, _, _, rfl⟩ := h; rfl
theorem CorePrepared.rt : d.rt = c.rt := by obtain ⟨_, _, _, rfl⟩ := h; rfl
theorem CorePrepared.st : ∃ x, d.st = { c.st with faultCause := x } := by obtain ⟨x, _, _, rfl⟩ := h; exact ⟨x, rfl⟩
theorem CorePrepared.counterAt (i v : Nat) : counterAt d i v = counterAt c i v := counterAt_seq h.seq i v

end

/-- A counter operation whose check, where it has one, is met has its effect in the prepared state. -/
theorem counterRun_prepared {eff : BitVec 128 → State → State} (hi : issueEnter k t kind s = some (o, sh, r, s1))
    (hchk : ∀ kind, issueEnter k t kind s = some (o, sh, r, s1) → sh = false → opChk o = true →
      chkMet s1 k o t (fun x => x.accepted.length) = true) :
    counterRun k t kind eff s = .next (issueAdvance k t (eff o (prepared k t kind sh r s1))) := by
  rw [counterRun_eq]
  cases sh with
  | true => exact issueRun_shim hi
  | false => exact issueRun_executes ⟨hi, hchk kind hi rfl⟩

/-- What a counter operation leaves whose effect on its core is `F` and whose operation is no CLOOP. -/
theorem counterRun_passes {eff : BitVec 128 → State → State} {F : Core → Core}
    (hi : issueEnter k t kind s = some (o, sh, r, s1)) (hk : kind ≠ .cloop)
    (hchk : ∀ kind, issueEnter k t kind s = some (o, sh, r, s1) → sh = false → opChk o = true →
      chkMet s1 k o t (fun x => x.accepted.length) = true)
    (hF : ∀ s, coreOf (eff o s) k = F (coreOf s k)) (hne : ∀ s j, j ≠ k → coreOf (eff o s) j = coreOf s j)
    (himage : ∀ c, (F c).image = c.image) (hissue : ∀ c, (F c).seq.issue = c.seq.issue) :
    ∃ u d, counterRun k t kind eff s = .next u ∧ CorePrepared (coreOf s1 k) d
      ∧ Passes k (issueChoice (F d) o t) s1 u ∧ SeqWalked (F d) (coreOf u k)
      ∧ u.bays = (eff o (prepared k t kind sh r s1)).bays := by
  obtain ⟨hd, hj⟩ := prepared_core k t kind sh r s1
  have hp := issueAdvance_passedOn (s2 := eff o (prepared k t kind sh r s1)) hi hk
    (by rw [hF, himage, hd.image]) (by rw [hF, hissue, hd.seq])
  have hpass := hp.passes (fun j h => (hne _ j h).trans (hj j h))
  have hcore := hp.core
  rw [hF] at hpass hcore
  exact ⟨_, _, counterRun_prepared hi hchk, hd, hpass, hcore, hp.bays⟩

/-! ### CLOAD -/

theorem execCload_eq (k : CoreId) (t : Nat) (s : State) :
    exec (.cload k t) s = counterRun (coreNo k) t .cload
      (fun o => modCore (coreNo k) (putCounter (coCtr o) (t + 1) (coImm o) false)) s := exec_cload k t s

/-! ### CSTEP -/

/-- The counter of a CSTEP plus the delta. -/
def stepSum (o : BitVec 128) (t : Nat) (c : Core) : Int := ((counterAt c (coCtr o) t).1.toNat : Int) + coDelta o

/-- The counter's new value. -/
def stepPut (o : BitVec 128) (t : Nat) (c : Core) : Core :=
  putCounter (coCtr o) (t + 1) (BitVec.ofNat 16 (min (stepSum o t c).toNat 65535)) (counterAt c (coCtr o) t).2 c

/-- A core with the sticky bits of its counters. -/
def setSticky (low high : Bool) (c : Core) : Core :=
  { c with st := { c.st with ctrUnderflow := c.st.ctrUnderflow || low, ctrOverflow := c.st.ctrOverflow || high } }

/-- What a CSTEP leaves of its core. -/
def stepCore (o : BitVec 128) (t : Nat) (c : Core) : Core :=
  setSticky (decide (stepSum o t c < 0)) (decide (65535 < stepSum o t c)) (stepPut o t c)

/-- The effect of a CSTEP. -/
def stepEffect (k t : Nat) (o : BitVec 128) (s : State) : State :=
  let x := stepSum o t (coreOf s k)
  let s' := modCore k (stepPut o t) s
  if x < 0 then
    noteEvent k 7 (coCtr o) (coreOf s k).seq.issue.idx t (twos 64 (coDelta o)) (fun st => st)
      (modCore k (fun c => { c with st := { c.st with ctrUnderflow := true } }) s')
  else if x > 65535 then modCore k (fun c => { c with st := { c.st with ctrOverflow := true } }) s'
  else s'

theorem execCstep_eq (k : CoreId) (t : Nat) (s : State) :
    exec (.cstep k t) s = counterRun (coreNo k) t .cstep (stepEffect (coreNo k) t) s := exec_cstep k t s

/-- An event that no counter counts leaves the cores. -/
theorem coreOf_noteEvent_uncounted (cls sub index cycle detail : Nat) (s : State) (j : Nat) :
    coreOf (noteEvent k cls sub index cycle detail (fun st => st) s) j = coreOf s j := by
  have hm : coreOf (modCore k (fun c => { c with st := c.st }) s) j = coreOf s j := by
    by_cases hj : j = k
    · subst hj
      exact coreOf_modCore_same _ _ _
    · exact coreOf_modCore_ne _ _ hj
  unfold noteEvent
  split
  · split
    · rfl
    · exact hm
  · exact hm

theorem coreOf_stepEffect (k t : Nat) (o : BitVec 128) (s : State) :
    coreOf (stepEffect k t o s) k = stepCore o t (coreOf s k) := by
  unfold stepEffect stepCore
  dsimp only
  split
  · rename_i hneg
    rw [coreOf_noteEvent_uncounted, coreOf_modCore_same, coreOf_modCore_same, setSticky, decide_eq_true hneg,
      decide_eq_false (by omega)]
    simp
  · rename_i hpos
    rw [decide_eq_false hpos]
    split
    · rename_i hover
      rw [coreOf_modCore_same, coreOf_modCore_same, setSticky, decide_eq_true hover]
      simp
    · rename_i hfit
      rw [coreOf_modCore_same, setSticky, decide_eq_false hfit]
      simp

theorem coreOf_stepEffect_ne {j : Nat} (h : j ≠ k) : coreOf (stepEffect k t o s) j = coreOf s j := by
  unfold stepEffect
  dsimp only
  split
  · rw [coreOf_noteEvent_uncounted, coreOf_modCore_ne _ _ h, coreOf_modCore_ne _ _ h]
  · split
    · rw [coreOf_modCore_ne _ _ h, coreOf_modCore_ne _ _ h]
    · rw [coreOf_modCore_ne _ _ h]

/-- The saturated sum, in the words of R72. -/
theorem ofNat_min_sum (x : Int) :
    BitVec.ofNat 16 (min x.toNat 65535) = if x < 0 then 0 else if 65535 < x then 65535 else BitVec.ofInt 16 x := by
  split
  · rw [show min x.toNat 65535 = 0 by omega]
    rfl
  · split
    · rw [show min x.toNat 65535 = 65535 by omega]
      rfl
    · obtain ⟨n, rfl⟩ := Int.eq_ofNat_of_zero_le (a := x) (by omega)
      rw [show min (n : Int).toNat 65535 = n by omega, BitVec.ofInt_natCast]

theorem stepCore_counter (o : BitVec 128) (t : Nat) (c : Core) :
    counterAt (stepCore o t c) (coCtr o) (t + 1)
      = (if stepSum o t c < 0 then 0 else if 65535 < stepSum o t c then 65535 else BitVec.ofInt 16 (stepSum o t c),
          (counterAt c (coCtr o) t).2) := by
  rw [← ofNat_min_sum]
  exact counterAt_putCounter _ _ _ _ _

theorem stepCore_counter_ne {i : Nat} (h : i ≠ coCtr o) (c : Core) (v : Nat) :
    counterAt (stepCore o t c) i v = counterAt c i v := counterAt_putCounter_ne _ _ _ _ h _

theorem CorePrepared.stepSum {c d : Core} (h : CorePrepared c d) : stepSum o t d = stepSum o t c := by
  unfold SequencerFamily.stepSum
  rw [h.counterAt]

/-- A trapped event stands among the bay's records where there is room, and a bay that does not drain awaits the host. -/
theorem trapBay_holds {b : Bay} (tr : Trap) (hlen : b.traps.length < 16) (hmode : b.mode = .running) :
    tr ∈ (trapBay tr b).traps ∧ HoldCond.host ∈ (trapBay tr b).conds := by
  unfold trapBay
  simp only [hlen, hmode, if_true]
  constructor
  · exact List.mem_append_right _ (List.mem_singleton_self tr)
  · show HoldCond.host ∈ (if b.conds.contains .host then b.conds else b.conds ++ [.host])
    split
    · rename_i hc
      exact List.contains_iff_mem.mp hc
    · exact List.mem_append_right _ (List.mem_singleton_self _)

/-- Where the hazard detector of the core's bay is enabled an event is trapped. -/
theorem noteEvent_traps {cls sub index cycle detail i : Nat} {f : CoreStatus → CoreStatus} {b : Bay}
    (h : bayOfCore s k = some (i, b)) (hz : b.hazard = true) :
    bayOf (noteEvent k cls sub index cycle detail f s) i
      = some (trapBay ⟨cls, k, sub, index, pageIn (coreOf s k) cycle, cycle, detail⟩ b) := by
  unfold noteEvent
  rw [h]
  dsimp only
  rw [if_pos hz]
  exact bayOf_setBay_same _ _ _

/-- An underflow traps where the hazard detector is enabled (R295). -/
theorem stepEffect_traps {i : Nat} {b : Bay} (h : bayOfCore s k = some (i, b)) (hz : b.hazard = true)
    (hneg : stepSum o t (coreOf s k) < 0) :
    ∃ tr : Trap, bayOf (stepEffect k t o s) i = some (trapBay tr b) ∧ tr.core = k ∧ tr.cycle = t := by
  unfold stepEffect
  dsimp only
  rw [if_pos hneg]
  exact ⟨_, noteEvent_traps (s := modCore k _ (modCore k _ s)) h hz, rfl, rfl⟩

theorem BayMarked.mode {b d : Bay} (h : BayMarked b d) : d.mode = b.mode := by
  obtain ⟨_, _, _, rfl⟩ := h
  rfl

theorem BayMarked.traps {b d : Bay} (h : BayMarked b d) : d.traps = b.traps := by
  obtain ⟨_, _, _, rfl⟩ := h
  rfl

theorem prepared_step_traps {i : Nat} {b : Bay} (h : bayOfCore s k = some (i, b)) (hz : b.hazard = true)
    (hneg : stepSum o t (coreOf s k) < 0) (hmode : b.mode = .running) (hlen : b.traps.length < 16) :
    ∃ d tr, bayOf (stepEffect k t o (prepared k t kind sh r s)) i = some d ∧ tr ∈ d.traps ∧ tr.core = k ∧ tr.cycle = t
      ∧ HoldCond.host ∈ d.conds := by
  obtain ⟨e, he, hm⟩ := prepared_bay (t := t) kind sh r h
  obtain ⟨hp, -⟩ := prepared_core k t kind sh r s
  obtain ⟨tr, htr, hcore, hcycle⟩ := stepEffect_traps (o := o) (t := t) he ((BayMarked.hazard hm).trans hz)
    (by rwa [CorePrepared.stepSum hp])
  obtain ⟨hin, hhost⟩ := trapBay_holds tr (by rwa [BayMarked.traps hm]) ((BayMarked.mode hm).trans hmode)
  exact ⟨_, tr, htr, hin, hcore, hcycle, hhost⟩

/-! ### CTEST and CLOOP -/

theorem execCtest_eq (k : CoreId) (t : Nat) (s : State) :
    exec (.ctest k t) s = counterRun (coreNo k) t .ctest (fun _ s => s) s := exec_ctest k t s

/-- The decision of a CTEST from the counter as the issue cycle sees it. -/
theorem issueChoice_ctest (c : Core) (h : opKind o = some .ctest) :
    issueChoice c o t = .skip (if coCond o = 0 then (counterAt c (coCtr o) t).1.toNat == 0
      else (counterAt c (coCtr o) t).1.toNat != 0) := by
  simp only [issueChoice, walkChoose, h]

/-- The trip count of a CLOOP from the counter as the issue cycle sees it. -/
theorem issueChoice_cloop (c : Core) (h : opKind o = some .cloop) :
    issueChoice c o t = .trips (if coForever o then 1 else if coMax o = 0 then (counterAt c (coCtr o) t).1.toNat
      else min (counterAt c (coCtr o) t).1.toNat (coMax o)) := by
  simp only [issueChoice, walkChoose, h]

/-- A trip count cut to MAX is noted. -/
def clipCore (o : BitVec 128) (t : Nat) (c : Core) : Core :=
  if !coForever o && coMax o != 0 && decide (coMax o < (counterAt c (coCtr o) t).1.toNat) then
    { c with st := { c.st with clip := true } }
  else c

theorem clipCore_eq (o : BitVec 128) (t : Nat) (c : Core) :
    clipCore o t c = { c with st := { c.st with
      clip := c.st.clip || (!coForever o && decide (coMax o ≠ 0 ∧ coMax o < (counterAt c (coCtr o) t).1.toNat)) } } := by
  have e : (!coForever o && coMax o != 0 && decide (coMax o < (counterAt c (coCtr o) t).1.toNat))
      = (!coForever o && decide (coMax o ≠ 0 ∧ coMax o < (counterAt c (coCtr o) t).1.toNat)) := by
    rw [Bool.and_assoc, Bool.decide_and, bne, beq_eq_decide, decide_not]
  rw [clipCore, e]
  cases !coForever o && decide (coMax o ≠ 0 ∧ coMax o < (counterAt c (coCtr o) t).1.toNat) <;> simp

/-- A CLOOP that enters its loop. -/
theorem cloop_passes {k : CoreId} (hi : issueEnter (coreNo k) t .cloop s = some (o, sh, r, s1))
    (hchk : ∀ kind, issueEnter (coreNo k) t kind s = some (o, sh, r, s1) → sh = false → opChk o = true →
      chkMet s1 (coreNo k) o t (fun x => x.accepted.length) = true)
    (hd : isDynUnpadded (coreOf s1 (coreNo k)) o t = false) :
    ∃ u d, exec (.cloop k t) s = .next u ∧ CorePrepared (coreOf s1 (coreNo k)) d
      ∧ Passes (coreNo k) (issueChoice (coreOf s1 (coreNo k)) o t) s1 u
      ∧ CoreIssued (clipCore o t d) (coreOf u (coreNo k)) := by
  let n := coreNo k
  obtain ⟨hp, hj⟩ := prepared_core n t .cloop sh r s1
  let s' := prepared n t .cloop sh r s1
  obtain ⟨ho, hkind, -⟩ := issueEnter_some hi
  have hcore : coreOf (modCore n (clipCore o t) s') n = clipCore o t (coreOf s' n) := coreOf_modCore_same _ _ _
  obtain ⟨hissue, hcl, hne, -⟩ := issueAdvance_core n t (modCore n (clipCore o t) s')
  rw [hcore] at hissue hcl
  refine ⟨_, _, (execCloop_counted hi hd).trans (counterRun_prepared hi hchk), hp, ⟨?_, fun j h => ?_⟩, hcl⟩
  · refine hissue.trans ?_
    have himage : (clipCore o t (coreOf s' n)).image = (coreOf s1 n).image := by rw [clipCore_eq]; exact hp.image
    have hseq : (clipCore o t (coreOf s' n)).seq = (coreOf s1 n).seq := by rw [clipCore_eq]; exact hp.seq
    rw [hseq, walkNext_image himage, opAt, himage, ← opAt, ← ho, issueChoice_cloop _ hkind, issueChoice_cloop _ hkind,
      counterAt_seq hseq]
  · exact (hne j h).trans ((coreOf_modCore_ne _ _ h).trans (hj j h))

/-- An unpadded CLOOP on a dynamic counter puts the bay into fault hold and enters no loop. -/
theorem cloop_faults {k : CoreId} (hi : issueEnter (coreNo k) t .cloop s = some (o, sh, r, s1))
    (hd : isDynUnpadded (coreOf s1 (coreNo k)) o t = true) :
    ∃ u, exec (.cloop k t) s = .next u ∧ Passes (coreNo k) .none s1 u
      ∧ CoreIssued { coreOf s1 (coreNo k) with st := setCause 2 (coreOf s1 (coreNo k)).st } (coreOf u (coreNo k))
      ∧ ∀ i b, bayOfCore s1 (coreNo k) = some (i, b) → bayOf u i = some (faultBay 2 (coreNo k) t b) := by
  let n := coreNo k
  let s' := faultCoreBay 2 n t (modCore n (fun c => { c with st := setCause 2 c.st }) s1)
  have hcore : coreOf s' n = { coreOf s1 n with st := setCause 2 (coreOf s1 n).st } := by
    rw [coreOf_faultCoreBay, coreOf_modCore_same]
  obtain ⟨hissue, hcl, hne, hbays⟩ := leaveWalk_core n t (walkNext (coreOf s1 n) .none (coreOf s1 n).seq.issue) s'
  rw [hcore] at hcl
  refine ⟨_, ?_, ⟨hissue, fun j h => ?_⟩, hcl, fun i b hb => ?_⟩
  · show execCloop k t s = _
    unfold execCloop
    rw [hi]
    dsimp only
    rw [hd]
    rfl
  · rw [hne j h, coreOf_faultCoreBay, coreOf_modCore_ne _ _ h]
  · rw [bayOf_of_bays hbays]
    exact (faultCoreBay_bay (s := modCore n _ s1) hb).2

/-- Settles O16: each operation's effect on its core in the prepared state, and for CLOOP and CTEST the choice of the walk. -/
theorem countersLoopsAndTests : Obligations.CountersLoopsAndTests := by
  refine ⟨?steps, ?tests⟩ <;> intro k t o sh r s s1
  case' steps => intro n c x hchk; refine ⟨fun hi => ?cload, fun hi => ?cstep⟩
  case' tests => intro n c v dyn hchk; refine ⟨fun hi => ?ctest, fun hi hd => ?cloop, fun hi h1 h2 h3 => ?faults⟩
  case cload =>
    obtain ⟨-, hkind, -⟩ := issueEnter_some hi
    obtain ⟨u, d, hu, hd, hp, hw, -⟩ := counterRun_passes
      (eff := fun o => modCore n (putCounter (coCtr o) (t + 1) (coImm o) false)) hi (by decide) hchk
      (fun s => coreOf_modCore_same s _ _) (fun s j hj => coreOf_modCore_ne s _ hj) (fun _ => rfl) (fun _ => rfl)
    rw [issueChoice_none hkind (by decide) (by decide)] at hp
    refine ⟨u, (execCload_eq k t s).trans hu, hp, ?_, fun i hne v => ?_, ?_⟩
    · rw [hw.counterAt, counterAt_putCounter]
    · rw [hw.counterAt, counterAt_putCounter_ne _ _ _ _ hne, hd.counterAt]
    · obtain ⟨w, a, rs, hc⟩ := hw
      rw [hc]
      exact ⟨hd.tags, hd.eng, hd.rt⟩
  case cstep =>
    obtain ⟨-, hkind, -⟩ := issueEnter_some hi
    obtain ⟨u, d, hu, hd, hp, hw, hbays⟩ := counterRun_passes (eff := stepEffect n t) (F := stepCore o t) hi (by decide) hchk
      (fun s => coreOf_stepEffect _ _ _ s) (fun s j hj => coreOf_stepEffect_ne hj) (fun _ => rfl) (fun _ => rfl)
    rw [issueChoice_none hkind (by decide) (by decide)] at hp
    have hx : stepSum o t d = x := CorePrepared.stepSum hd
    obtain ⟨y, hst⟩ := hd.st
    refine ⟨u, (execCstep_eq k t s).trans hu, hp, ?_, fun i hne v => ?_, ?_, ?_, fun i b hb hz hneg hmode hlen => ?_, ?_⟩
    · rw [hw.counterAt, stepCore_counter, hx, hd.counterAt]
    · rw [hw.counterAt, stepCore_counter_ne hne, hd.counterAt]
    · rw [hw.st, ← hx]
      show (d.st.ctrUnderflow || _) = _
      rw [hst]
    · rw [hw.st, ← hx]
      show (d.st.ctrOverflow || _) = _
      rw [hst]
    · obtain ⟨e, tr, he⟩ := prepared_step_traps (kind := .cstep) (sh := sh) (r := r) hb hz hneg hmode hlen
      exact ⟨e, tr, by rwa [bayOf_of_bays hbays]⟩
    · obtain ⟨w, a, rs, hc⟩ := hw
      rw [hc]
      exact ⟨hd.tags, hd.eng, hd.rt⟩
  case ctest =>
    obtain ⟨-, hkind, -⟩ := issueEnter_some hi
    obtain ⟨u, d, hu, hd, hp, hw, -⟩ := counterRun_passes (eff := fun _ s => s) (F := id) hi (by decide) hchk
      (fun _ => rfl) (fun _ _ _ => rfl) (fun _ => rfl) (fun _ => rfl)
    rw [id, issueChoice_ctest d hkind, hd.counterAt] at hp
    refine ⟨u, (execCtest_eq k t s).trans hu, hp, fun i w => ?_, ?_⟩
    · rw [hw.counterAt, id, hd.counterAt]
    · obtain ⟨w, a, rs, hc⟩ := hw
      rw [hc]
      exact ⟨hd.eng, hd.rt⟩
  case cloop =>
    obtain ⟨-, hkind, -⟩ := issueEnter_some hi
    have hdyn : isDynUnpadded c o t = false := by
      rcases hd with h | h | h
      · simp [isDynUnpadded, h]
      · simp [isDynUnpadded, h]
      · simp [isDynUnpadded, show (counterAt c (coCtr o) t).2 = false from h]
    obtain ⟨u, d, hu, hp, hpass, hw⟩ := cloop_passes hi hchk hdyn
    rw [issueChoice_cloop _ hkind] at hpass
    rw [clipCore_eq, hp.counterAt] at hw
    obtain ⟨y, hst⟩ := hp.st
    refine ⟨u, hu, hpass, ?_, fun i w => ?_, ?_⟩
    · obtain ⟨q, x, a, hc, -⟩ := hw
      rw [hc, hst]
    · rw [CoreIssued.counterAt hw]
      exact hp.counterAt i w
    · obtain ⟨q, x, a, hc, -⟩ := hw
      rw [hc]
      exact ⟨hp.eng, by rw [← hp.rt]⟩
  case faults =>
    obtain ⟨u, hu, hp, hw, hb⟩ := cloop_faults hi (by
      show (!coForever o && coMax o == 0 && (counterAt c (coCtr o) t).2) = true
      rw [h1, h2, show (counterAt c (coCtr o) t).2 = true from h3]
      rfl)
    rw [setCause_eq] at hw
    obtain ⟨q, x, a, hc, hq⟩ := hw
    exact ⟨u, hu, hp, by rw [hc], by rw [hc, hq], hb⟩

end Sys2Proof.SequencerFamily

namespace Sys2Proof.SequencerFamily

open Machine Laws

variable {k t : Nat} {kind : OpKind} {o : BitVec 128} {sh : Bool} {r : AheadRec} {s s1 s2 : State}

/-! ## PEG_PAGE (R85) -/

/-- A page waits for the next period boundary. -/
def pushPage (o : BitVec 128) (t : Nat) (c : Core) : Core :=
  { c with rt := { c.rt with run := { c.rt.run with next := c.rt.run.next ++ [(ppPage o, t)] } } }

/-- What a PEG_PAGE leaves of its core: the peg lookahead follows it where the sequencer's lookahead had shimmed it. -/
def pageCore (o : BitVec 128) (t : Nat) (r : AheadRec) (c : Core) : Core :=
  if r.shim then pegFollow (pushPage o t c).seq.recs.tail (pushPage o t c) else pushPage o t c

/-- The effect of a PEG_PAGE. -/
def pageEffect (k t : Nat) (o : BitVec 128) (r : AheadRec) (s : State) : State :=
  if r.shim then pegResync k (modCore k (pushPage o t) s) else modCore k (pushPage o t) s

theorem execPegPage_eq (k : CoreId) (t : Nat) (s : State) :
    ∃ f, exec (.pegPage k t) s = issueRun (coreNo k) t .pegPage f (pageEffect (coreNo k) t) s := ⟨_, exec_pegPage k t s⟩

theorem coreOf_pageEffect (k t : Nat) (o : BitVec 128) (r : AheadRec) (s : State) :
    coreOf (pageEffect k t o r s) k = pageCore o t r (coreOf s k) := by
  unfold pageEffect pageCore
  split
  · rw [pegResync, coreOf_modCore_same, coreOf_modCore_same]
  · rw [coreOf_modCore_same]

theorem coreOf_pageEffect_ne {j : Nat} (h : j ≠ k) : coreOf (pageEffect k t o r s) j = coreOf s j := by
  unfold pageEffect
  split
  · rw [pegResync, coreOf_modCore_ne _ _ h, coreOf_modCore_ne _ _ h]
  · rw [coreOf_modCore_ne _ _ h]

/-- Behind a PEG_PAGE only the place of the peg lookahead may be other than with its page added. -/
theorem pageCore_eq (o : BitVec 128) (t : Nat) (r : AheadRec) (c : Core) :
    ∃ y, pageCore o t r c = { pushPage o t c with rt := { (pushPage o t c).rt with ahead := y } } := by
  unfold pageCore
  split
  · exact ⟨_, rfl⟩
  · exact ⟨_, rfl⟩

theorem pegPage_issues {k : CoreId} (h : Executes (coreNo k) t .pegPage o r s s1) :
    ∃ u c' y, exec (.pegPage k t) s = .next u ∧ Passes (coreNo k) .none s1 u ∧ CoreMarked (coreOf s1 (coreNo k)) c'
      ∧ SeqWalked { pushPage o t c' with rt := { (pushPage o t c').rt with ahead := y } } (coreOf u (coreNo k)) := by
  let n := coreNo k
  let s' := examineOp n t .pegPage s1
  have hx := (marks_examineOp n t .pegPage s1).core n
  obtain ⟨f, hf⟩ := execPegPage_eq k t s
  obtain ⟨y, hy⟩ := pageCore_eq o t r (coreOf s' n)
  have hc : coreOf (pageEffect n t o r s') n = _ := (coreOf_pageEffect n t o r s').trans hy
  obtain ⟨u, hu, hp⟩ := executes_passedOn (f := f) (g := pageEffect n t) h (by decide) rfl
    (by rw [hc]; exact hx.image) (by rw [hc]; exact congrArg SeqState.issue hx.seq)
  have hw := hp.core
  rw [hc] at hw
  refine ⟨u, _, y, hf.trans hu, ⟨hp.walk h (by decide) (by decide), fun j hj => ?_⟩, hx, hw⟩
  rw [hp.others j hj, coreOf_pageEffect_ne hj, examineOp_ne _ _ _ hj]

/-! ## EPOCH_MARK (R83, R238, R242) -/

/-- Bay `d` stands where bay `b` stands and belongs to its partition. -/
structure BayPlace (b d : Bay) : Prop where
  part : d.part = b.part
  head : bayHead d = bayHead b
  cores : ∀ j, inBay d j = inBay b j

theorem BayPlace.refl (b : Bay) : BayPlace b b := ⟨rfl, rfl, fun _ => rfl⟩

theorem BayPlace.trans {b d e : Bay} (h : BayPlace b d) (h' : BayPlace d e) : BayPlace b e :=
  ⟨h'.part.trans h.part, h'.head.trans h.head, fun j => (h'.cores j).trans (h.cores j)⟩

theorem bayPlace_faultBay (code k c : Nat) (b : Bay) : BayPlace b (faultBay code k c b) := by
  obtain ⟨x, y, z, h⟩ := bayMarked_faultBay code k c b
  rw [h]
  exact ⟨rfl, rfl, fun _ => rfl⟩

/-- A core's bay keeps its handle and its place. -/
def KeepsBay (k : Nat) (s u : State) : Prop :=
  ∀ i b, bayOfCore s k = some (i, b) → ∃ d, bayOfCore u k = some (i, d) ∧ BayPlace b d

theorem KeepsBay.refl (k : Nat) (s : State) : KeepsBay k s s := fun _ b h => ⟨b, h, BayPlace.refl b⟩

theorem KeepsBay.trans {u : State} (h : KeepsBay k s s1) (h' : KeepsBay k s1 u) : KeepsBay k s u := fun i b hb => by
  obtain ⟨d, hd, hp⟩ := h i b hb
  obtain ⟨e, he, hp'⟩ := h' i d hd
  exact ⟨e, he, hp.trans hp'⟩

theorem keepsBay_of_bays (k : Nat) (h : s1.bays = s.bays) : KeepsBay k s s1 := fun _ b hb =>
  ⟨b, (bayOfCore_of_bays h k).trans hb, BayPlace.refl b⟩

theorem keepsBay_modCore (k : Nat) (f : Core → Core) (s : State) : KeepsBay k s (modCore k f s) := keepsBay_of_bays k rfl

/-- The core's bay takes the place of itself in another state. -/
theorem keepsBay_setBay {i : Nat} {b d : Bay} (h : bayOfCore s k = some (i, b)) (hd : BayPlace b d) :
    KeepsBay k s (setBay i d s) := fun i' b' hb => by
  rw [h] at hb
  cases hb
  exact ⟨d, bayOfCore_setBay h ((hd.cores k).trans (bayOfCore_inBay h)), hd⟩

theorem keepsBay_dropCond (k : Nat) (cond : HoldCond) (s : State) : KeepsBay k s (dropCond k cond s) := by
  unfold dropCond
  split
  · rename_i i b h
    exact keepsBay_setBay h ⟨rfl, rfl, fun _ => rfl⟩
  · exact KeepsBay.refl k s

theorem keepsBay_checkLate (k t : Nat) (s : State) : KeepsBay k s (checkLate k t s) := fun _ b h =>
  ⟨_, (faultCoreBay_bay (s := modCore k _ s) h).1, bayPlace_faultBay 1 k t b⟩

theorem keepsBay_markStop (k t : Nat) (s : State) : KeepsBay k s (markStop k t s) := by
  unfold markStop
  split
  · exact KeepsBay.refl k s
  · rename_i i b h
    split
    · split
      · exact keepsBay_setBay h ⟨rfl, rfl, fun _ => rfl⟩
      · exact KeepsBay.refl k s
    · exact KeepsBay.refl k s

theorem coreOf_dropCond (cond : HoldCond) (s : State) (j : Nat) : coreOf (dropCond k cond s) j = coreOf s j := by
  unfold dropCond
  split <;> rfl

theorem coreOf_markStop (k t : Nat) (s : State) (j : Nat) : coreOf (markStop k t s) j = coreOf s j :=
  coreOf_of_cores ((within_markStop (S := [.bays]) ((Covers.self _).mono (by decide)) (Within.refl _ _)).frame .cores
    (by decide)) j

theorem coreMarked_checkLate (k t : Nat) (s : State) : CoreMarked (coreOf s k) (coreOf (checkLate k t s) k) := by
  obtain ⟨hc, -, -⟩ := checkLate_core k t s
  rw [hc, setCause_eq]
  exact ⟨_, _, rfl⟩

/-- The claims of a mark leave the cores but for FAULT_CAUSE, and the bay where it is. -/
theorem claimMarks_keeps (k t : Nat) (ds held : List Side) (s : State) :
    CoreMarked (coreOf s k) (coreOf (claimMarks k t ds held s).2 k)
      ∧ (∀ j, j ≠ k → coreOf (claimMarks k t ds held s).2 j = coreOf s j) ∧ KeepsBay k s (claimMarks k t ds held s).2 := by
  induction ds generalizing s with
  | nil => exact ⟨CoreMarked.refl _, fun _ _ => rfl, KeepsBay.refl _ _⟩
  | cons d ds ih =>
    rw [claimMarks]
    split
    · exact ih s
    · split
      · rename_i x hx
        split
        · let f : Crossing → Crossing := fun x => { x with driveClaims := x.driveClaims + 1 }
          obtain ⟨hm, hj, hb⟩ := ih (modXingOut k d f (dropCond k (.markCredit k d t) s))
          have hc (j : Nat) : coreOf (modXingOut k d f (dropCond k (.markCredit k d t) s)) j = coreOf s j :=
            coreOf_dropCond _ _ j
          rw [hc] at hm
          exact ⟨hm, fun j h => (hj j h).trans (hc j),
            (keepsBay_dropCond k _ s).trans ((keepsBay_of_bays k rfl).trans hb)⟩
        · obtain ⟨hm, hj, hb⟩ := ih (checkLate k t s)
          obtain ⟨-, hne, -⟩ := checkLate_core k t s
          exact ⟨(coreMarked_checkLate k t s).trans hm, fun j h => (hj j h).trans (hne j h),
            (keepsBay_checkLate k t s).trans hb⟩
      · exact ih s

/-- The epoch goes on with the next cycle. -/
def pushMark (t : Nat) (e : BitVec 4) (sides : List Side) (c : Core) : Core :=
  { c with seq := { c.seq with marks := c.seq.marks ++ [(t + 1, e, sides)] } }

/-- An EPOCH_MARK before its event is raised. -/
def markPut (k t : Nat) (r : AheadRec) (s : State) : State :=
  let cl := claimMarks k t (xingSides s k) r.claims s
  markStop k t (modCore k (pushMark t (epochAt (coreOf s k) t + 1) cl.1) cl.2)

/-- The event of a mark with NOTIFY on the head core. -/
def markTell (k t : Nat) (o : BitVec 128) (e : BitVec 4) (s : State) : State :=
  match bayOfCore s k with
  | some (i, b) =>
    if emNotify o && decide (k = bayHead b) then raise1 (evBay 0x0200 i b.part e.toNat t) s else s
  | none => s

/-- The effect of an EPOCH_MARK. -/
def markEffect (k t : Nat) (o : BitVec 128) (r : AheadRec) (s : State) : State :=
  markTell k t o (epochAt (coreOf s k) t + 1) (markPut k t r s)

theorem execEpochMark_eq (k : CoreId) (t : Nat) (s : State) :
    exec (.epochMark k t) s = issueRun (coreNo k) t .epochMark noShim (markEffect (coreNo k) t) s := exec_epochMark k t s

theorem coreOf_raise1 (e : EventRec) (s : State) (j : Nat) : coreOf (raise1 e s) j = coreOf s j :=
  coreOf_of_cores ((within_raise1 (S := [.host, .ev, .fw, .hostMem]) ((Covers.self _).mono (by decide))
    (Within.refl _ _)).frame .cores (by decide)) j

theorem coreOf_markTell (k t : Nat) (o : BitVec 128) (e : BitVec 4) (s : State) (j : Nat) :
    coreOf (markTell k t o e s) j = coreOf s j := by
  unfold markTell
  split
  · split
    · exact coreOf_raise1 _ _ j
    · rfl
  · rfl

/-- What a mark leaves of the cores. -/
theorem markEffect_core (k t : Nat) (o : BitVec 128) (r : AheadRec) (s : State) :
    (∃ c' sides, CoreMarked (coreOf s k) c'
      ∧ coreOf (markEffect k t o r s) k = pushMark t (epochAt (coreOf s k) t + 1) sides c')
      ∧ ∀ j, j ≠ k → coreOf (markEffect k t o r s) j = coreOf s j := by
  obtain ⟨hm, hj, -⟩ := claimMarks_keeps k t (xingSides s k) r.claims s
  refine ⟨⟨_, (claimMarks k t (xingSides s k) r.claims s).1, hm, ?_⟩, fun j h => ?_⟩
  · rw [markEffect, coreOf_markTell, markPut, coreOf_markStop, coreOf_modCore_same]
  · rw [markEffect, coreOf_markTell, markPut, coreOf_markStop, coreOf_modCore_ne _ _ h, hj j h]

theorem keepsBay_markPut (k t : Nat) (r : AheadRec) (s : State) : KeepsBay k s (markPut k t r s) := by
  obtain ⟨-, -, hb⟩ := claimMarks_keeps k t (xingSides s k) r.claims s
  unfold markPut
  exact hb.trans ((keepsBay_modCore k _ _).trans (keepsBay_markStop k t _))

theorem within_markPut (k t : Nat) (r : AheadRec) (s : State) : Within [.bays, .cores, .xings] s (markPut k t r s) :=
  within_markStop ((Covers.self _).mono (by decide)) (within_modCore ((Covers.self _).mono (by decide))
    (within_claimMarks ((Covers.self _).mono (by decide)) (Within.refl _ _)))

/-- On the head core a mark with NOTIFY raises its event. -/
theorem markEffect_tells {i : Nat} {b : Bay} (h : bayOfCore s k = some (i, b)) (hk : k = bayHead b)
    (hn : emNotify o = true) :
    markEffect k t o r s = raise1 (evBay 0x0200 i b.part (epochAt (coreOf s k) t + 1).toNat t) (markPut k t r s) := by
  obtain ⟨d, hd, hp⟩ := keepsBay_markPut k t r s i b h
  rw [markEffect, markTell, hd]
  dsimp only
  rw [hn, hp.head, hp.part, decide_eq_true hk]
  rfl

theorem markEffect_raises {i : Nat} {b : Bay} (h : bayOfCore s k = some (i, b)) (hk : k = bayHead b)
    (hn : emNotify o = true) :
    Raises (evBay 0x0200 i b.part (epochAt (coreOf s k) t + 1).toNat t) s (issueAdvance k t (markEffect k t o r s)) := by
  rw [markEffect_tells h hk hn]
  have hp := (within_markPut k t r s).frame
  have hr := (within_raise1 (S := [.host, .ev, .fw, .hostMem])
    (e := evBay 0x0200 i b.part (epochAt (coreOf s k) t + 1).toNat t)
    ((Covers.self _).mono (by decide)) (Within.refl _ (markPut k t r s))).frame
  have ha := (within_issueAdvance (S := [.cores, .xings]) (k := k) (t := t) ((Covers.self _).mono (by decide))
    (Within.refl _ (raise1 (evBay 0x0200 i b.part (epochAt (coreOf s k) t + 1).toNat t) (markPut k t r s)))).frame
  have hfw := ha .fw (by decide)
  exact ⟨markPut k t r s, hp .ev (by decide), hp .host (by decide), hp .hostMem (by decide), hp .fw (by decide),
    ((ha .now (by decide)).trans (hr .now (by decide))).symm, ha .ev (by decide), ha .hostMem (by decide), by rw [hfw]⟩

/-- The epoch behind a mark. -/
theorem epochAt_pushMark (t : Nat) (e : BitVec 4) (sides : List Side) (c : Core) (u : Nat) :
    epochAt (pushMark t e sides c) u = if t + 1 ≤ u then e else epochAt c u := by
  unfold epochAt pushMark
  simp only [List.foldl_append, List.foldl_cons, List.foldl_nil]

/-- Where no other mark stands for the next cycle, that cycle begins with this one. -/
theorem settleMarks_pushMark {e : BitVec 4} {sides : List Side} {c : Core} (h : ∀ m ∈ c.seq.marks, m.1 ≤ t) :
    settleMarks (t + 1) (pushMark t e sides c) = markTokens (e - 1) (pushMark t e sides c) := by
  have hfind : (pushMark t e sides c).seq.marks.find? (fun m => m.1 == t + 1) = some (t + 1, e, sides) := by
    have hnone : c.seq.marks.find? (fun m => m.1 == t + 1) = none :=
      List.find?_eq_none.mpr fun m hm he => by
        have := h m hm
        rw [beq_iff_eq] at he
        omega
    simp [pushMark, List.find?_append, hnone]
  rw [settleMarks, hfind]

theorem SeqWalked.epochAt {c d : Core} (h : SeqWalked c d) (u : Nat) : epochAt d u = epochAt c u := by
  obtain ⟨w, a, rs, rfl⟩ := h
  rfl

theorem SeqWalked.settleMarks {c d : Core} (h : SeqWalked c d) (u : Nat) :
    SeqWalked (settleMarks u c) (settleMarks u d) := by
  obtain ⟨w, a, rs, rfl⟩ := h
  unfold Machine.settleMarks
  dsimp only
  split
  · exact ⟨w, a, rs, rfl⟩
  · exact ⟨w, a, rs, rfl⟩

theorem epochMark_issues {k : CoreId} (h : Executes (coreNo k) t .epochMark o r s s1) :
    ∃ u c' sides, exec (.epochMark k t) s = .next u ∧ Passes (coreNo k) .none s1 u ∧ CoreMarked (coreOf s1 (coreNo k)) c'
      ∧ SeqWalked (pushMark t (epochAt (coreOf s1 (coreNo k)) t + 1) sides c') (coreOf u (coreNo k))
      ∧ u = issueAdvance (coreNo k) t (markEffect (coreNo k) t o r (examineOp (coreNo k) t .epochMark s1)) := by
  let n := coreNo k
  let s' := examineOp n t .epochMark s1
  have hx := (marks_examineOp n t .epochMark s1).core n
  obtain ⟨⟨c', sides, hm, hc⟩, hne⟩ := markEffect_core n t o r s'
  have he : epochAt (coreOf s' n) t = epochAt (coreOf s1 n) t := by rw [epochAt, epochAt, hx.seq]
  rw [he] at hc
  have hp := issueAdvance_passedOn (s2 := markEffect n t o r s') h.1 (by decide)
    (by rw [hc]; exact (hx.trans hm).image) (by rw [hc, pushMark, (hx.trans hm).seq])
  have hw := hp.core
  rw [hc] at hw
  refine ⟨_, c', sides, (execEpochMark_eq k t s).trans (issueRun_executes h),
    ⟨hp.walk h (by decide) (by decide), fun j hj => ?_⟩, hx.trans hm, hw, rfl⟩
  rw [hp.others j hj, hne j hj, examineOp_ne _ _ _ hj]

/-- Settles O17: the page is pushed, and so is the mark, whose claims, stop and event leave the rest of the core. -/
theorem pagesAndEpochs : Obligations.PagesAndEpochs := by
  intro k t o r s s1 n c
  refine ⟨fun h => ?page, fun h => ?mark⟩
  case page =>
    obtain ⟨u, c', y, hu, hp, ⟨x, su, rfl⟩, w, a, rs, hc⟩ := pegPage_issues h
    exact ⟨u, hu, hp, by rw [hc]; rfl, by rw [hc]; rfl, by rw [hc]; rfl⟩
  case mark =>
    obtain ⟨u, c', sides, hu, hp, hm, hw, rfl⟩ := epochMark_issues h
    have hepoch (v : Nat) : epochAt c' v = epochAt c v := by rw [epochAt, epochAt, hm.seq]
    refine ⟨_, hu, hp, ?_, ?_, ?_, fun hmarks => ?_, fun i b hun hb hhead hnotify => ?_, ?_⟩
    · rw [hw.epochAt, epochAt_pushMark, if_pos (Nat.le_refl _)]
    · rw [hw.epochAt, epochAt_pushMark, if_neg (by omega), hepoch]
    · rw [hw.queues, pushMark, hm.seq]
    · have hs := hw.settleMarks (t + 1)
      rw [settleMarks_pushMark (by rw [hm.seq]; exact hmarks), BitVec.add_sub_cancel] at hs
      rw [hs.queues, hs.st]
      obtain ⟨x, su, rfl⟩ := hm
      exact ⟨rfl, rfl⟩
    · rw [examineOp_unarmed hun]
      exact markEffect_raises hb hhead hnotify
    · obtain ⟨w, a, rs, hc⟩ := hw
      rw [hc]
      exact ⟨hm.eng, hm.tags⟩

end Sys2Proof.SequencerFamily

namespace Sys2Proof.SequencerFamily

open Machine Laws

/-! ## What is past is settled (R161, R272)

Settling takes the writes up to a cycle into the contents; a read in a later cycle sees what it saw before. -/

section
variable {α β : Type} {P : α → Prop} [DecidablePred P] {key : α → Nat}

/-- A read that sees the contents or the newest write that is left, sees what it saw before, where the contents are what a read
in the last cycle that is settled saw. -/
theorem newest_settled {l : List α} {v u : Nat} (h : v ≤ u) (g : α → β) {base new : β}
    (hnew : new = ((newest (fun w => P w ∧ key w ≤ v) key l).map g).getD base) :
    ((newest (fun w => P w ∧ key w ≤ u) key (l.filter (fun w => !decide (key w ≤ v)))).map g).getD new
      = ((newest (fun w => P w ∧ key w ≤ u) key l).map g).getD base := by
  by_cases hyoung : ∃ y ∈ l, (P y ∧ key y ≤ u) ∧ (!decide (key y ≤ v)) = true
  · obtain ⟨y, hy, hp, hv⟩ := hyoung
    have hf : newest (fun w => P w ∧ key w ≤ u) key (l.filter (fun w => !decide (key w ≤ v)))
        = newest (fun w => P w ∧ key w ≤ u) key l := by
      refine newest_filter (fun x _ _ hx z _ _ hz => ?_) ⟨y, hy, hp, hv⟩
      simp only [Bool.not_eq_eq_eq_not, Bool.not_false, Bool.not_true, decide_eq_true_eq, decide_eq_false_iff_not] at hx hz
      omega
    have hsome : newest (fun w => P w ∧ key w ≤ u) key l ≠ none := fun e => newest_none_iff.mp e y hy hp
    rw [hf]
    cases hb : newest (fun w => P w ∧ key w ≤ u) key l with
    | none => exact absurd hb hsome
    | some w => rfl
  · have hnone : newest (fun w => P w ∧ key w ≤ u) key (l.filter (fun w => !decide (key w ≤ v))) = none :=
      newest_none_iff.mpr fun x hx hp => by
        obtain ⟨hm, hv⟩ := List.mem_filter.mp hx
        exact hyoung ⟨x, hm, hp, hv⟩
    have hsame : newest (fun w => P w ∧ key w ≤ v) key l = newest (fun w => P w ∧ key w ≤ u) key l := by
      refine newest_congr fun x hx => ⟨fun e => ⟨e.1, e.2.trans h⟩, fun e => ⟨e.1, ?_⟩⟩
      by_contra hv
      exact hyoung ⟨x, hx, e, by simpa using hv⟩
    rw [hnone, hnew, hsame]
    rfl

/-- Where no write of the settled cycles meets a read, the read of the last of them sees the contents. -/
theorem newest_unmet {l : List α} {v : Nat} (h : ∀ w ∈ l, key w ≤ v → ¬ P w) (g : α → β) (base : β) :
    ((newest (fun w => P w ∧ key w ≤ v) key l).map g).getD base = base := by
  rw [newest_none_iff.mpr fun w hw hp => h w hw hp.2 hp.1]
  rfl

end

/-- What rows take that are set one after another to values of their own. -/
theorem mapGetD_foldl_mapSet (l : List RowWrite) (f : Nat → Row) (m : List (Nat × Row)) (r : Nat) :
    mapGetD (l.foldl (fun m w => mapSet 0 m w.row (f w.row)) m) r 0
      = if ∃ w ∈ l, w.row = r then f r else mapGetD m r 0 := by
  induction l using List.reverseRecOn with
  | nil => simp only [List.foldl_nil, List.not_mem_nil, false_and, exists_false, if_false]
  | append_singleton l w ih =>
    rw [List.foldl_append, List.foldl_cons, List.foldl_nil]
    by_cases hw : w.row = r
    · subst hw
      rw [mapGetD_mapSet_same, if_pos ⟨w, by simp, rfl⟩]
    · rw [mapGetD_mapSet_ne _ _ _ _ (Ne.symm hw), ih]
      simp only [List.mem_append, List.mem_singleton, or_and_right, exists_or, exists_eq_left, hw, or_false]

theorem length_foldl_set {α β : Type} (l : List β) (at' : β → Nat) (f : Nat → α) (m : List α) :
    (l.foldl (fun m w => m.set (at' w) (f (at' w))) m).length = m.length := by
  induction l using List.reverseRecOn with
  | nil => rfl
  | append_singleton l w ih => rw [List.foldl_append, List.foldl_cons, List.foldl_nil, List.length_set, ih]

/-- The same for the places of a list. -/
theorem getD_foldl_set {α β : Type} (l : List β) (at' : β → Nat) (f : Nat → α) (m : List α) {i : Nat} (d : α)
    (hi : i < m.length) :
    (l.foldl (fun m w => m.set (at' w) (f (at' w))) m).getD i d = if ∃ w ∈ l, at' w = i then f i else m.getD i d := by
  induction l using List.reverseRecOn with
  | nil => simp
  | append_singleton l w ih =>
    rw [List.foldl_append, List.foldl_cons, List.foldl_nil, List.getD_eq_getElem?_getD, List.getElem?_set, length_foldl_set]
    by_cases hw : at' w = i
    · rw [if_pos hw, if_pos (hw ▸ hi), if_pos ⟨w, by simp, hw⟩, hw]
      rfl
    · rw [if_neg hw, ← List.getD_eq_getElem?_getD, ih]
      simp [hw]

/-! ### Rows and counters -/

/-- The contents of a settled row. -/
theorem settled_row (c : Core) (v r : Nat) :
    mapGetD ((c.writes.filter (fun w => decide (w.stamp ≤ v))).foldl
      (fun m w => mapSet 0 m w.row (coreRowAt c w.row v)) c.rows) r 0 = coreRowAt c r v := by
  rw [mapGetD_foldl_mapSet _ (fun r => coreRowAt c r v)]
  split
  · rfl
  · rename_i h
    rw [coreRowAt_eq]
    exact (newest_unmet (P := fun w => w.row = r) (key := fun w => w.stamp) (l := c.writes) (v := v)
      (fun w hw hv hr => h ⟨w, by simp [hw, hv], hr⟩) _ _).symm

theorem settleCore_early {t : Nat} (c : Core) (h : t < 16) : settleCore t c = c := by
  have hd (w : RowWrite) : decide (w.stamp + 16 ≤ t) = false := decide_eq_false (by omega)
  unfold settleCore
  simp only [hd, List.filter_false, List.foldl_nil, Bool.not_false, List.filter_true]

/-- The rows that a core has settled read as before. -/
theorem coreRowAt_settleCore {t u : Nat} (c : Core) (r : Nat) (h : t ≤ u) :
    coreRowAt (settleCore t c) r u = coreRowAt c r u := by
  by_cases ht : t < 16
  · rw [settleCore_early c ht]
  · have hd (w : RowWrite) : decide (w.stamp + 16 ≤ t) = decide (w.stamp ≤ t - 16) := by
      rw [decide_eq_decide]
      omega
    rw [coreRowAt_eq, coreRowAt_eq c r u]
    unfold settleCore
    simp only [hd]
    exact newest_settled (P := fun w : RowWrite => w.row = r) (by omega) _
      ((settled_row c (t - 16) r).trans (coreRowAt_eq c r (t - 16)))

/-- The contents of a settled counter. -/
theorem settled_counter (c : Core) {t i : Nat} (h1 : i < c.seq.counters.length) (h2 : i < c.seq.dynamic.length) :
    ((settleCounters t c).seq.counters.getD i 0, (settleCounters t c).seq.dynamic.getD i false) = counterAt c i t := by
  unfold settleCounters
  dsimp only
  rw [getD_foldl_set _ (fun w : Nat × Nat × BitVec 16 × Bool => w.2.1) (fun i => (counterAt c i t).1) _ _ h1,
    getD_foldl_set _ (fun w : Nat × Nat × BitVec 16 × Bool => w.2.1) (fun i => (counterAt c i t).2) _ _ h2]
  split
  · rfl
  · rename_i h
    rw [counterAt_eq]
    exact (newest_unmet (P := fun w => w.2.1 = i) (key := fun w => w.1) (l := c.seq.counterWrites) (v := t)
      (fun w hw hv hr => h ⟨w, by simp [hw, hv], hr⟩) _ _).symm

/-- The counters that a core has settled read as before. -/
theorem counterAt_settleCounters {t u i : Nat} (c : Core) (h : t ≤ u) (h1 : i < c.seq.counters.length)
    (h2 : i < c.seq.dynamic.length) : counterAt (settleCounters t c) i u = counterAt c i u := by
  rw [counterAt_eq, settled_counter c h1 h2, counterAt_eq c i u]
  exact newest_settled (P := fun w : Nat × Nat × BitVec 16 × Bool => w.2.1 = i) h _ (counterAt_eq c i t)

/-! ### Cores that read alike -/

/-- From cycle `t` on core `d` reads as core `c` does, and no write has come to it. -/
structure ReadsAlike (t : Nat) (c d : Core) : Prop where
  rows : ∀ r u, t ≤ u → coreRowAt d r u = coreRowAt c r u
  writes : ∀ w ∈ d.writes, w ∈ c.writes
  tags : d.tags = c.tags
  counters : ∀ i u, t ≤ u → i < c.seq.counters.length → i < c.seq.dynamic.length → counterAt d i u = counterAt c i u
  lengths : d.seq.counters.length = c.seq.counters.length ∧ d.seq.dynamic.length = c.seq.dynamic.length
  epoch : ∀ u, epochAt d u = epochAt c u
  banks : d.eng.banks = c.eng.banks
  image : d.image = c.image

theorem ReadsAlike.refl (t : Nat) (c : Core) : ReadsAlike t c c :=
  ⟨fun _ _ _ => rfl, fun _ h => h, rfl, fun _ _ _ _ _ => rfl, ⟨rfl, rfl⟩, fun _ => rfl, rfl, rfl⟩

theorem ReadsAlike.trans {t : Nat} {c d e : Core} (h : ReadsAlike t c d) (h' : ReadsAlike t d e) : ReadsAlike t c e where
  rows r u hu := (h'.rows r u hu).trans (h.rows r u hu)
  writes w hw := h.writes w (h'.writes w hw)
  tags := h'.tags.trans h.tags
  counters i u hu h1 h2 :=
    (h'.counters i u hu (by rwa [h.lengths.1]) (by rwa [h.lengths.2])).trans (h.counters i u hu h1 h2)
  lengths := ⟨h'.lengths.1.trans h.lengths.1, h'.lengths.2.trans h.lengths.2⟩
  epoch u := (h'.epoch u).trans (h.epoch u)
  banks := h'.banks.trans h.banks
  image := h'.image.trans h.image

theorem readsAlike_settleCore (t : Nat) (c : Core) : ReadsAlike t c (settleCore t c) :=
  ⟨fun r _ hu => coreRowAt_settleCore c r hu, fun _ hw => List.mem_of_mem_filter hw, rfl, fun _ _ _ _ _ => rfl, ⟨rfl, rfl⟩,
    fun _ => rfl, rfl, rfl⟩

theorem readsAlike_settleCounters (t : Nat) (c : Core) : ReadsAlike t c (settleCounters t c) :=
  ⟨fun _ _ _ => rfl, fun _ h => h, rfl, fun _ _ hu h1 h2 => counterAt_settleCounters c hu h1 h2,
    ⟨length_foldl_set _ (fun w : Nat × Nat × BitVec 16 × Bool => w.2.1) (fun i => (counterAt c i t).1) _,
      length_foldl_set _ (fun w : Nat × Nat × BitVec 16 × Bool => w.2.1) (fun i => (counterAt c i t).2) _⟩,
    fun _ => rfl, rfl, rfl⟩

theorem readsAlike_settleFlags (t : Nat) (c : Core) : ReadsAlike t c (settleFlags t c) :=
  ⟨fun _ _ _ => rfl, fun _ h => h, rfl, fun _ _ _ _ _ => rfl, ⟨rfl, rfl⟩, fun _ => rfl, rfl, rfl⟩

theorem readsAlike_settleMarks (t : Nat) (c : Core) : ReadsAlike t c (settleMarks t c) := by
  unfold settleMarks
  split
  · exact ⟨fun _ _ _ => rfl, fun _ h => h, rfl, fun _ _ _ _ _ => rfl, ⟨rfl, rfl⟩, fun _ => rfl, rfl, rfl⟩
  · exact ReadsAlike.refl t c

/-- The plans for BANK holds leave what a core reads, and what the bay is but for its plans. -/
theorem planUpTo_keeps (t k last n : Nat) (c : Core) (b : Bay) :
    ReadsAlike t c (planUpTo k last n c b).1 ∧ ∃ x, (planUpTo k last n c b).2 = { b with bankPlans := x } := by
  induction n generalizing c b with
  | zero => exact ⟨ReadsAlike.refl t c, b.bankPlans, rfl⟩
  | succ n ih =>
    rw [planUpTo]
    split
    · obtain ⟨hc, x, hx⟩ := ih (planCycle k c.bankNext c b).1 (planCycle k c.bankNext c b).2
      have hplan : ReadsAlike t c (planCycle k c.bankNext c b).1 :=
        ⟨fun _ _ _ => rfl, fun _ h => h, rfl, fun _ _ _ _ _ => rfl, ⟨rfl, rfl⟩, fun _ => rfl, rfl, rfl⟩
      exact ⟨hplan.trans hc, x, hx⟩
    · exact ⟨ReadsAlike.refl t c, b.bankPlans, rfl⟩

/-! ### The cycle begins in the bay's cores -/

/-- A core as the cycle begins, before what the lookahead plans for it. -/
def settled (t : Nat) (c : Core) : Core :=
  let c := settleMarks t (settleFlags t (settleCounters t (settleCore t c)))
  { c with bankBusy := c.bankBusy.filter (fun x => decide (t ≤ x.1)) }

/-- One core of a bay as a cycle begins. -/
def openCore (b : Bay) (t : Nat) (p : State × Bay) (k : Nat) : State × Bay :=
  let q := if t = 0 ∨ b.mode == .draining then (settled t (coreOf p.1 k), p.2)
    else planUpTo k (t - 1 + horizon) (horizon + 1) (settled t (coreOf p.1 k)) p.2
  (setCore k q.1 p.1, q.2)

/-- The bay in which a cycle has begun. -/
def countCycle (b : Bay) (t : Nat) (slow : Bool) : Bay :=
  { b with
    count := t + 1
    stretches := if slow then b.stretches + 1 else b.stretches
    droops := b.droops.filter (fun x => decide (t < x.1)) }

/-- The state and the bay behind the beginning of a cycle in a bay's cores. -/
def openCores (b : Bay) (t : Nat) (s : State) : State × Bay :=
  let b' := countCycle b t (b.droops.any (fun x => x.1 == t) || bayLimited s b)
  (bayCores b').foldl (openCore b' t) (s, b')

theorem openCycle_eq (i : Nat) (b : Bay) (t : Nat) (s : State) :
    openCycle i b t s
      = noteTrips (yieldRows (openCores b t s).2 t (setBay i (openCores b t s).2 (openCores b t s).1)) := rfl

theorem readsAlike_settled (t : Nat) (c : Core) : ReadsAlike t c (settled t c) :=
  (((readsAlike_settleCore t c).trans (readsAlike_settleCounters t _)).trans (readsAlike_settleFlags t _)).trans
    ((readsAlike_settleMarks t _).trans
      ⟨fun _ _ _ => rfl, fun _ h => h, rfl, fun _ _ _ _ _ => rfl, ⟨rfl, rfl⟩, fun _ => rfl, rfl, rfl⟩)

theorem openCore_keeps (b : Bay) (t : Nat) (p : State × Bay) (k : Nat) :
    (∀ j, ReadsAlike t (coreOf p.1 j) (coreOf (openCore b t p k).1 j))
      ∧ ∃ x, (openCore b t p k).2 = { p.2 with bankPlans := x } := by
  have hq : ReadsAlike t (coreOf p.1 k) (coreOf (openCore b t p k).1 k)
      ∧ ∃ x, (openCore b t p k).2 = { p.2 with bankPlans := x } := by
    unfold openCore
    split
    · exact ⟨by rw [coreOf_setCore_same]; exact readsAlike_settled t _, p.2.bankPlans, rfl⟩
    · obtain ⟨hc, hx⟩ := planUpTo_keeps t k (t - 1 + horizon) (horizon + 1) (settled t (coreOf p.1 k)) p.2
      exact ⟨by rw [coreOf_setCore_same]; exact (readsAlike_settled t _).trans hc, hx⟩
  refine ⟨fun j => ?_, hq.2⟩
  by_cases hj : j = k
  · rw [hj]
    exact hq.1
  · have hne : coreOf (openCore b t p k).1 j = coreOf p.1 j := coreOf_setCore_ne _ _ hj
    rw [hne]
    exact ReadsAlike.refl t _

theorem foldl_openCore_keeps (b : Bay) (t : Nat) (l : List Nat) (p : State × Bay) :
    (∀ j, ReadsAlike t (coreOf p.1 j) (coreOf (l.foldl (openCore b t) p).1 j))
      ∧ ∃ x, (l.foldl (openCore b t) p).2 = { p.2 with bankPlans := x } := by
  induction l generalizing p with
  | nil => exact ⟨fun j => ReadsAlike.refl t _, p.2.bankPlans, rfl⟩
  | cons k l ih =>
    obtain ⟨hc, x, hx⟩ := openCore_keeps b t p k
    obtain ⟨hc', x', hx'⟩ := ih (openCore b t p k)
    exact ⟨fun j => (hc j).trans (hc' j), x', by rw [List.foldl_cons, hx', hx]⟩

theorem openCores_keeps (b : Bay) (t : Nat) (s : State) :
    (∀ j, ReadsAlike t (coreOf s j) (coreOf (openCores b t s).1 j))
      ∧ ∃ x, (openCores b t s).2
        = { countCycle b t (b.droops.any (fun x => x.1 == t) || bayLimited s b) with bankPlans := x } := by
  let b' := countCycle b t (b.droops.any (fun x => x.1 == t) || bayLimited s b)
  exact foldl_openCore_keeps b' t (bayCores b') (s, b')

/-! ### Rows of the access engine that give way (R187) -/

/-- Core `d` is core `c` but for rows that have given way. -/
def Yields (c d : Core) : Prop := ∃ ws ax, d = { c with writes := ws, ax := ax }

theorem Yields.refl (c : Core) : Yields c c := ⟨_, _, rfl⟩

theorem Yields.trans {c d e : Core} (h : Yields c d) (h' : Yields d e) : Yields c e := by
  obtain ⟨_, _, rfl⟩ := h
  obtain ⟨ws, ax, rfl⟩ := h'
  exact ⟨ws, ax, rfl⟩

theorem yields_modCore (f : Core → Core) (hf : ∀ c, Yields c (f c)) (k j : Nat) (s : State) :
    Yields (coreOf s j) (coreOf (modCore k f s) j) := by
  by_cases hj : j = k
  · rw [hj, coreOf_modCore_same]
    exact hf _
  · rw [coreOf_modCore_ne _ _ hj]
    exact Yields.refl _

theorem yields_yieldRow (k j : Nat) (w : RowWrite) (s : State) : Yields (coreOf s j) (coreOf (yieldRow k w s) j) :=
  (yields_modCore _ (fun _ => ⟨_, _, rfl⟩) k j s).trans (yields_modCore _ (fun _ => ⟨_, _, rfl⟩) _ j _)

theorem yields_yieldAll (k j : Nat) (l : List RowWrite) (s : State) :
    Yields (coreOf s j) (coreOf (l.foldl (fun s w => yieldRow k w s) s) j) := by
  induction l generalizing s with
  | nil => exact Yields.refl _
  | cons w l ih => exact (yields_yieldRow k j w s).trans (ih _)

theorem yields_yieldRows (b : Bay) (t j : Nat) (s : State) : Yields (coreOf s j) (coreOf (yieldRows b t s) j) := by
  unfold yieldRows
  generalize bayCores b = l
  induction l generalizing s with
  | nil => exact Yields.refl _
  | cons k l ih => exact (yields_yieldAll k j _ s).trans (ih _)

/-- Where the access engine has placed no row in a later cycle nothing gives way. -/
theorem yieldRows_placed {t : Nat} {s : State} (b : Bay)
    (h : ∀ k w, w ∈ (coreOf s k).writes → w.unit = .access → w.stamp ≤ t) : yieldRows b t s = s := by
  have hlate (k : Nat) : lateRows (coreOf s k) t = [] := List.filter_eq_nil_iff.mpr fun w hw hl => by
    simp only [Bool.and_eq_true, beq_iff_eq, decide_eq_true_eq] at hl
    exact absurd (h k w hw hl.1.1) (Nat.not_le.mpr hl.1.2)
  unfold yieldRows
  generalize bayCores b = l
  induction l with
  | nil => rfl
  | cons k l ih => rw [List.foldl_cons, hlate k, List.foldl_nil, ih]

theorem yieldRows_bays (b : Bay) (t : Nat) (s : State) : (yieldRows b t s).bays = s.bays :=
  (within_yieldRows (S := [.cores]) ((Covers.self _).mono (by decide)) (Within.refl _ _)).frame .bays (by decide)

/-! ### The cycle begins -/

theorem bayOf_openCycle (i : Nat) (b : Bay) (t : Nat) (s : State) :
    bayOf (openCycle i b t s) i = some (openCores b t s).2 := by
  have h : (openCycle i b t s).bays = (setBay i (openCores b t s).2 (openCores b t s).1).bays := by
    rw [openCycle_eq]
    exact yieldRows_bays _ _ _
  rw [bayOf_of_bays h, bayOf_setBay_same]

theorem coreOf_openCycle (i : Nat) (b : Bay) (t : Nat) (s : State) (j : Nat) :
    ∃ c, ReadsAlike t (coreOf s j) c ∧ Yields c (coreOf (openCycle i b t s) j)
      ∧ ((∀ k w, w ∈ (coreOf s k).writes → w.unit = .access → w.stamp ≤ t) → coreOf (openCycle i b t s) j = c) := by
  obtain ⟨hc, -⟩ := openCores_keeps b t s
  rw [openCycle_eq]
  refine ⟨coreOf (openCores b t s).1 j, hc j,
    yields_yieldRows _ t j (setBay i (openCores b t s).2 (openCores b t s).1), fun h => ?_⟩
  rw [yieldRows_placed (s := setBay i (openCores b t s).2 (openCores b t s).1) _
    (fun k w hw => h k w ((hc k).writes w hw))]
  rfl

theorem cycling_mode {b : Bay} (h : b.mode = .running ∨ b.mode = .draining) :
    (!(b.mode == .running || b.mode == .draining)) = false := by
  rcases h with h | h
  · rw [h]
    rfl
  · rw [h]
    rfl

/-- The next cycle of a bay that may run it begins. -/
theorem enterCycle_next {n t i : Nat} {b : Bay} {s : State} (hb : bayOfCore s n = some (i, b))
    (hmode : b.mode = .running ∨ b.mode = .draining) (hcount : b.count = t) (hrun : mayRun b t = true)
    (hquiet : (bayCores b).all (coreQuiet s (b.mode == .draining) t) = true) (htrips : tripsIn (noteTrips s) b = true) :
    enterCycle n t s = some (i, (openCores b t (noteTrips s)).2, openCycle i b t (noteTrips s)) := by
  have hm := cycling_mode hmode
  unfold enterCycle
  rw [hb]
  dsimp only
  rw [hm, hrun, hquiet, htrips, bayOf_openCycle]
  simp [hcount]

/-- Settles O18: what is past is settled in every core of the bay, and the rest of the beginning is not read. -/
theorem cyclesBegin : Obligations.CyclesBegin := by
  intro n t i b s hb hmode
  have hm := cycling_mode hmode
  refine ⟨fun hcount => ?running, fun hcount hrun hquiet htrips => ?next, fun h1 h2 => ?neither⟩
  case running =>
    unfold enterCycle
    rw [hb]
    dsimp only
    rw [hm, hcount]
    simp
  case next =>
    have he := enterCycle_next hb hmode hcount hrun hquiet htrips
    obtain ⟨-, x, hx⟩ := openCores_keeps b t (noteTrips s)
    refine ⟨_, _, he, by rw [hx]; rfl, by rw [hx]; rfl, bayOf_openCycle _ _ _ _, by rw [hx]; rfl,
      (within_enterCycle ((Covers.self _).mono (by decide)) (Within.refl _ _) he).frame, fun j u hu => ?_⟩
    obtain ⟨c, hc, ⟨ws, ax, hy⟩, -⟩ := coreOf_openCycle i b t (noteTrips s) j
    refine ⟨fun hplaced d => ?_, fun d => ?_, fun d h1 h2 => ?_, ?_, ?_, ?_⟩
    · obtain ⟨e, he, -, hsame⟩ := coreOf_openCycle i b t (noteTrips s) (rowPlace j d).1
      show coreRowAt (coreOf _ (rowPlace j d).1) _ u = coreRowAt _ _ u
      rw [hsame hplaced]
      exact he.rows _ u hu
    · rw [hy, tagAt, tagAt]
      show (if (c.tags.getD d _).stamp ≤ u then (c.tags.getD d _).cur else (c.tags.getD d _).old) = _
      rw [hc.tags]
      rfl
    · rw [hy]
      exact hc.counters d u hu h1 h2
    · rw [hy]
      exact hc.epoch u
    · rw [hy]
      exact hc.banks
    · rw [hy]
      exact hc.image
  case neither =>
    unfold enterCycle
    rw [hb]
    dsimp only
    rw [hm, if_neg (Ne.symm h1), decide_eq_false (Ne.symm h2)]
    rfl

end Sys2Proof.SequencerFamily

namespace Sys2Proof.SequencerFamily

open Machine Laws

/-! ## Hold conditions (R258) -/

/-- A bay awaits a condition, and a freeze is due. -/
def BayHolds (i : Nat) (cond : HoldCond) (s : State) : Prop :=
  ∃ b, bayOf s i = some b ∧ cond ∈ b.conds ∧ b.freezeDue.isSome = true

/-- What a bay awaits it goes on awaiting. -/
structure KeepsHolds (i : Nat) (s u : State) : Prop where
  loaded : (bayOf s i).isSome = true → (bayOf u i).isSome = true
  holds : ∀ cond, BayHolds i cond s → BayHolds i cond u

variable {i k t cycle : Nat} {s s1 u : State}

theorem KeepsHolds.refl (i : Nat) (s : State) : KeepsHolds i s s := ⟨fun h => h, fun _ h => h⟩

theorem KeepsHolds.trans (h : KeepsHolds i s s1) (h' : KeepsHolds i s1 u) : KeepsHolds i s u :=
  ⟨fun hb => h'.loaded (h.loaded hb), fun cond hc => h'.holds cond (h.holds cond hc)⟩

theorem bayHolds_of_bays {cond : HoldCond} (h : u.bays = s.bays) (hc : BayHolds i cond s) : BayHolds i cond u := by
  obtain ⟨b, hb, hin⟩ := hc
  exact ⟨b, (bayOf_of_bays h i).trans hb, hin⟩

theorem keepsHolds_of_bays (i : Nat) (h : u.bays = s.bays) : KeepsHolds i s u :=
  ⟨fun hb => by rwa [bayOf_of_bays h i], fun _ => bayHolds_of_bays h⟩

theorem mem_requestHold (cond : HoldCond) (c : Nat) (b : Bay) :
    cond ∈ (requestHold cond c b).conds ∧ (∀ x ∈ b.conds, x ∈ (requestHold cond c b).conds) := by
  unfold requestHold
  dsimp only
  split
  · rename_i h
    exact ⟨List.contains_iff_mem.mp h, fun _ hx => hx⟩
  · exact ⟨List.mem_append_right _ (List.mem_singleton_self _), fun _ hx => List.mem_append_left _ hx⟩

theorem bayOf_modBay_same {f : Bay → Bay} {b : Bay} (h : bayOf s i = some b) : bayOf (modBay i f s) i = some (f b) := by
  rw [modBay, h]
  exact bayOf_setBay_same _ _ _

theorem coreOf_modBay (i : Nat) (f : Bay → Bay) (s : State) (j : Nat) : coreOf (modBay i f s) j = coreOf s j := by
  unfold modBay
  split <;> rfl

theorem modBay_xings (i : Nat) (f : Bay → Bay) (s : State) : (modBay i f s).xings = s.xings := by
  unfold modBay
  split <;> rfl

/-- A hold that is requested is awaited. -/
theorem bayHolds_requestHold (cond : HoldCond) (c : Nat) (h : (bayOf s i).isSome = true) :
    BayHolds i cond (modBay i (requestHold cond c) s) := by
  obtain ⟨b, hb⟩ := Option.isSome_iff_exists.mp h
  exact ⟨_, bayOf_modBay_same hb, (mem_requestHold cond c b).1, rfl⟩

theorem keepsHolds_requestHold (i : Nat) (cond : HoldCond) (c : Nat) (s : State) :
    KeepsHolds i s (modBay i (requestHold cond c) s) := by
  refine ⟨fun h => ?_, fun x hx => ?_⟩
  · obtain ⟨b, hb⟩ := Option.isSome_iff_exists.mp h
    rw [bayOf_modBay_same hb]
    rfl
  · obtain ⟨b, hb, hin, -⟩ := hx
    exact ⟨_, bayOf_modBay_same hb, (mem_requestHold cond c b).2 x hin, rfl⟩

/-! ## The sequencer's lookahead (R61 to R66) -/

theorem coreOf_countAccesses (k idx : Nat) (l : List (Nat × Nat)) (s : State) (j : Nat) :
    ∃ x, coreOf (countAccesses k idx l s) j = { coreOf s j with bank := x } := by
  unfold countAccesses
  induction l generalizing s with
  | nil => exact ⟨_, rfl⟩
  | cons a l ih =>
    obtain ⟨x, hx⟩ := ih (modCore (rowPlace k a.1).1
      (fun c => { c with bank := countAccess idx (rowPlace k a.1).2 a.2 c.bank }) s)
    rw [List.foldl_cons, hx]
    by_cases hj : j = (rowPlace k a.1).1
    · rw [hj, coreOf_modCore_same]
      exact ⟨x, rfl⟩
    · rw [coreOf_modCore_ne _ _ hj]
      exact ⟨x, rfl⟩

theorem countAccesses_bays (k idx : Nat) (l : List (Nat × Nat)) (s : State) : (countAccesses k idx l s).bays = s.bays :=
  (within_countAccesses (S := [.cores]) ((Covers.self _).mono (by decide)) (Within.refl _ _)).frame .bays (by decide)

/-- The check of a check-ahead operation. -/
def lookHold (k t i : Nat) (w : Walker) (s : State) : State :=
  if opChk (opAt (coreOf s k) w.idx) && !chkMet s k (opAt (coreOf s k) w.idx) t xingEntries then
    modBay i (requestHold (.check k w.idx) t) s
  else s

/-- What the lookahead does ahead for an operation beside its check. -/
def lookAct (k t i : Nat) (w : Walker) (ch : WalkChoice) (c : Core) (s : State) : AheadRec × State :=
  let o := opAt c w.idx
  let rc : AheadRec := ⟨w.idx, w.due, false, 0, [], ch⟩
  match opKind o with
  | some .accessEnq =>
    if aeCount o ≤ descFree c then
      ({ rc with reserved := aeCount o },
        modCore k (fun c => { c with ax := { c.ax with reserved := c.ax.reserved + aeCount o } }) s)
    else (rc, modBay i (requestHold (.accessQueue k w.due) t) s)
  | some .epochMark =>
    let m := checkMarks k t w.due i (xingSides s k) s
    ({ rc with claims := m.1 }, m.2)
  | some .pegPage =>
    (rc, modCore k (fun c => { c with rt := { c.rt with
      ahead := { c.rt.ahead with next := c.rt.ahead.next ++ [(ppPage o, w.due)] } } }) s)
  | _ => (rc, s)

theorem lookOp_eq (k t i contract : Nat) (w : Walker) (ch : WalkChoice) (s : State) :
    lookOp k t i contract w ch s = ((lookAct k t i w ch (coreOf s k) (lookHold k t i w s)).1,
      countAccesses k w.idx (opAccesses (coreOf s k) (opAt (coreOf s k) w.idx) contract w.due
        (walkStart (opAt (coreOf s k) w.idx) w)) (lookAct k t i w ch (coreOf s k) (lookHold k t i w s)).2) := rfl

theorem coreOf_lookHold (k t i : Nat) (w : Walker) (s : State) (j : Nat) : coreOf (lookHold k t i w s) j = coreOf s j := by
  unfold lookHold
  split
  · exact coreOf_modBay _ _ _ _
  · rfl

theorem keepsHolds_lookHold (k t i : Nat) (w : Walker) (s : State) : KeepsHolds i s (lookHold k t i w s) := by
  unfold lookHold
  split
  · exact keepsHolds_requestHold _ _ _ _
  · exact KeepsHolds.refl _ _

/-- A condition that is not met is awaited. -/
theorem lookHold_holds {w : Walker} (hb : (bayOf s i).isSome = true) (hchk : opChk (opAt (coreOf s k) w.idx) = true)
    (hnot : chkMet s k (opAt (coreOf s k) w.idx) t xingEntries = false) :
    BayHolds i (.check k w.idx) (lookHold k t i w s) := by
  rw [lookHold, hchk, hnot]
  exact bayHolds_requestHold _ _ hb

/-- The credits that an EPOCH_MARK's check claims leave the cores. -/
theorem checkMarks_keeps (k t due i : Nat) (ds : List Side) (s : State) :
    (∀ j, coreOf (checkMarks k t due i ds s).2 j = coreOf s j) ∧ KeepsHolds i s (checkMarks k t due i ds s).2 := by
  induction ds generalizing s with
  | nil => exact ⟨fun _ => rfl, KeepsHolds.refl _ _⟩
  | cons d ds ih =>
    rw [checkMarks]
    split
    · exact ih s
    · split
      · obtain ⟨hc, hh⟩ := ih (modXingOut k d (fun x => { x with driveClaims := x.driveClaims + 1 }) s)
        have hx : KeepsHolds i s (modXingOut k d (fun x => { x with driveClaims := x.driveClaims + 1 }) s) :=
          keepsHolds_of_bays i rfl
        exact ⟨hc, hx.trans hh⟩
      · obtain ⟨hc, hh⟩ := ih (modBay i (requestHold (.markCredit k d due) t) s)
        exact ⟨fun j => (hc j).trans (coreOf_modBay _ _ _ _), (keepsHolds_requestHold _ _ _ _).trans hh⟩

/-- What the lookahead leaves of a core that it looks ahead for. -/
def LookedAt (c d : Core) : Prop :=
  ∃ x y z, d = { c with ax := { c.ax with reserved := x }, rt := { c.rt with ahead := y }, bank := z }

theorem LookedAt.refl (c : Core) : LookedAt c c := ⟨_, _, _, rfl⟩

theorem LookedAt.trans {c d e : Core} (h : LookedAt c d) (h' : LookedAt d e) : LookedAt c e := by
  obtain ⟨_, _, _, rfl⟩ := h
  obtain ⟨x, y, z, rfl⟩ := h'
  exact ⟨x, y, z, rfl⟩

theorem LookedAt.seq {c d : Core} (h : LookedAt c d) : d.seq = c.seq := by obtain ⟨_, _, _, rfl⟩ := h; rfl
theorem LookedAt.image {c d : Core} (h : LookedAt c d) : d.image = c.image := by obtain ⟨_, _, _, rfl⟩ := h; rfl
theorem LookedAt.tags {c d : Core} (h : LookedAt c d) : d.tags = c.tags := by obtain ⟨_, _, _, rfl⟩ := h; rfl

theorem lookAct_keeps (k t i : Nat) (w : Walker) (ch : WalkChoice) (c : Core) (s : State) :
    LookedAt (coreOf s k) (coreOf (lookAct k t i w ch c s).2 k) ∧ KeepsHolds i s (lookAct k t i w ch c s).2
      ∧ (lookAct k t i w ch c s).1.idx = w.idx ∧ (lookAct k t i w ch c s).1.due = w.due
      ∧ (lookAct k t i w ch c s).1.shim = false := by
  unfold lookAct
  dsimp only
  split
  · split
    · exact ⟨by rw [coreOf_modCore_same]; exact ⟨_, _, _, rfl⟩, keepsHolds_of_bays i rfl, rfl, rfl, rfl⟩
    · exact ⟨by rw [coreOf_modBay]; exact LookedAt.refl _, keepsHolds_requestHold _ _ _ _, rfl, rfl, rfl⟩
  · obtain ⟨hc, hh⟩ := checkMarks_keeps k t w.due i (xingSides s k) s
    exact ⟨by rw [hc]; exact LookedAt.refl _, hh, rfl, rfl, rfl⟩
  · exact ⟨by rw [coreOf_modCore_same]; exact ⟨_, _, _, rfl⟩, keepsHolds_of_bays i rfl, rfl, rfl, rfl⟩
  · exact ⟨LookedAt.refl _, KeepsHolds.refl _ _, rfl, rfl, rfl⟩

/-- An ACCESS_ENQ that finds its entries free reserves them. -/
theorem lookAct_reserves {w : Walker} {ch : WalkChoice} {c : Core} (h : opKind (opAt c w.idx) = some .accessEnq)
    (hfree : aeCount (opAt c w.idx) ≤ descFree c) :
    (lookAct k t i w ch c s).1.reserved = aeCount (opAt c w.idx)
      ∧ (coreOf (lookAct k t i w ch c s).2 k).ax.reserved = (coreOf s k).ax.reserved + aeCount (opAt c w.idx) := by
  unfold lookAct
  simp only [h, hfree, if_true]
  exact ⟨trivial, by rw [coreOf_modCore_same]⟩

/-- One that does not becomes a hold condition. -/
theorem lookAct_waits {w : Walker} {ch : WalkChoice} {c : Core} (h : opKind (opAt c w.idx) = some .accessEnq)
    (hfull : descFree c < aeCount (opAt c w.idx)) :
    (lookAct k t i w ch c s).2 = modBay i (requestHold (.accessQueue k w.due) t) s := by
  unfold lookAct
  simp only [h, Nat.not_le.mpr hfull, if_false]

/-- What a look at an operation that is taken for executing leaves. -/
theorem lookOp_keeps (k t i contract : Nat) (w : Walker) (ch : WalkChoice) (s : State) :
    LookedAt (coreOf s k) (coreOf (lookOp k t i contract w ch s).2 k) ∧ KeepsHolds i s (lookOp k t i contract w ch s).2
      ∧ (lookOp k t i contract w ch s).1.idx = w.idx ∧ (lookOp k t i contract w ch s).1.due = w.due
      ∧ (lookOp k t i contract w ch s).1.shim = false := by
  obtain ⟨hc, hh, hr⟩ := lookAct_keeps k t i w ch (coreOf s k) (lookHold k t i w s)
  rw [coreOf_lookHold] at hc
  rw [lookOp_eq]
  obtain ⟨x, hx⟩ := coreOf_countAccesses k w.idx (opAccesses (coreOf s k) (opAt (coreOf s k) w.idx) contract w.due
    (walkStart (opAt (coreOf s k) w.idx) w)) (lookAct k t i w ch (coreOf s k) (lookHold k t i w s)).2 k
  refine ⟨?_, ((keepsHolds_lookHold k t i w s).trans hh).trans (keepsHolds_of_bays i (countAccesses_bays _ _ _ _)), hr⟩
  rw [hx]
  exact hc.trans ⟨_, _, x, rfl⟩

theorem lookOp_holds {contract : Nat} {w : Walker} {ch : WalkChoice} (hb : (bayOf s i).isSome = true)
    (hchk : opChk (opAt (coreOf s k) w.idx) = true) (hnot : chkMet s k (opAt (coreOf s k) w.idx) t xingEntries = false) :
    BayHolds i (.check k w.idx) (lookOp k t i contract w ch s).2 := by
  obtain ⟨-, hh, -⟩ := lookAct_keeps k t i w ch (coreOf s k) (lookHold k t i w s)
  rw [lookOp_eq]
  exact bayHolds_of_bays (countAccesses_bays _ _ _ _) (hh.holds _ (lookHold_holds hb hchk hnot))

theorem lookOp_reserves {contract : Nat} {w : Walker} {ch : WalkChoice}
    (h : opKind (opAt (coreOf s k) w.idx) = some .accessEnq)
    (hfree : aeCount (opAt (coreOf s k) w.idx) ≤ descFree (coreOf s k)) :
    (lookOp k t i contract w ch s).1.reserved = aeCount (opAt (coreOf s k) w.idx)
      ∧ (coreOf (lookOp k t i contract w ch s).2 k).ax.reserved
        = (coreOf s k).ax.reserved + aeCount (opAt (coreOf s k) w.idx) := by
  obtain ⟨hr, hx⟩ := lookAct_reserves (k := k) (t := t) (i := i) (s := lookHold k t i w s) (ch := ch) h hfree
  obtain ⟨x, hc⟩ := coreOf_countAccesses k w.idx (opAccesses (coreOf s k) (opAt (coreOf s k) w.idx) contract w.due
    (walkStart (opAt (coreOf s k) w.idx) w)) (lookAct k t i w ch (coreOf s k) (lookHold k t i w s)).2 k
  rw [lookOp_eq]
  refine ⟨hr, ?_⟩
  rw [hc]
  exact hx.trans (by rw [coreOf_lookHold])

theorem lookOp_waits {contract : Nat} {w : Walker} {ch : WalkChoice} (hb : (bayOf s i).isSome = true)
    (h : opKind (opAt (coreOf s k) w.idx) = some .accessEnq)
    (hfull : descFree (coreOf s k) < aeCount (opAt (coreOf s k) w.idx)) :
    (coreOf (lookOp k t i contract w ch s).2 k).ax = (coreOf s k).ax
      ∧ BayHolds i (.accessQueue k w.due) (lookOp k t i contract w ch s).2 := by
  have hw := lookAct_waits (k := k) (t := t) (i := i) (s := lookHold k t i w s) (ch := ch) h hfull
  rw [lookOp_eq, hw]
  obtain ⟨x, hc⟩ := coreOf_countAccesses k w.idx (opAccesses (coreOf s k) (opAt (coreOf s k) w.idx) contract w.due
    (walkStart (opAt (coreOf s k) w.idx) w)) (modBay i (requestHold (.accessQueue k w.due) t) (lookHold k t i w s)) k
  refine ⟨?_, bayHolds_of_bays (countAccesses_bays _ _ _ _) (bayHolds_requestHold _ _ ?_)⟩
  · rw [hc, coreOf_modBay, coreOf_lookHold]
  · exact (keepsHolds_lookHold k t i w s).loaded hb

/-- The record that the lookahead makes of an operation, and what it does ahead for it. -/
def lookAhead (k t i contract : Nat) (s : State) : AheadRec × State :=
  let w := (coreOf s k).seq.ahead
  let ch := issueChoice (coreOf s k) (opAt (coreOf s k) w.idx) t
  if walkShim w then (⟨w.idx, w.due, true, 0, [], ch⟩, s) else lookOp k t i contract w ch s

/-- The lookahead's walk goes on, with a record of the operation. -/
def noteAhead (r : AheadRec) (ch : WalkChoice) (w : Walker) (c : Core) : Core :=
  { c with seq := { c.seq with recs := c.seq.recs ++ [r], ahead := walkNext c ch w } }

theorem execCheckAhead_due {k : CoreId} {b : Bay} (he : enterCycle (coreNo k) t s = some (i, b, s1))
    (hmode : b.mode = .running)
    (hfin : (coreOf s1 (coreNo k)).seq.ahead.finished = false) (hdue : (coreOf s1 (coreNo k)).seq.ahead.due - 24 = t) :
    exec (.checkAhead k t) s = .next (modCore (coreNo k) (noteAhead (lookAhead (coreNo k) t i b.contract s1).1
      (issueChoice (coreOf s1 (coreNo k)) (opAt (coreOf s1 (coreNo k)) (coreOf s1 (coreNo k)).seq.ahead.idx) t)
      (coreOf s1 (coreNo k)).seq.ahead)
      (lookAhead (coreNo k) t i b.contract s1).2) := by
  show execCheckAhead k t s = _
  have hcond : (b.mode != .running || (coreOf s1 (coreNo k)).seq.ahead.finished
      || (coreOf s1 (coreNo k)).seq.ahead.due - horizon != t) = false := by
    rw [hmode, hfin, horizon, hdue]
    simp
  unfold execCheckAhead
  rw [he]
  dsimp only
  rw [hcond]
  rfl

theorem lookAhead_shim {contract : Nat} (h : walkShim (coreOf s k).seq.ahead = true) :
    (lookAhead k t i contract s).2 = s ∧ (lookAhead k t i contract s).1.idx = (coreOf s k).seq.ahead.idx
      ∧ (lookAhead k t i contract s).1.due = (coreOf s k).seq.ahead.due ∧ (lookAhead k t i contract s).1.shim = true := by
  unfold lookAhead
  dsimp only
  rw [if_pos h]
  exact ⟨rfl, rfl, rfl, rfl⟩

theorem lookAhead_executes (k t i contract : Nat) (h : walkShim (coreOf s k).seq.ahead = false) :
    lookAhead k t i contract s = lookOp k t i contract (coreOf s k).seq.ahead
      (issueChoice (coreOf s k) (opAt (coreOf s k) (coreOf s k).seq.ahead.idx) t) s := by
  unfold lookAhead
  dsimp only
  rw [h]
  rfl

theorem lookAhead_keeps (k t i contract : Nat) (s : State) :
    LookedAt (coreOf s k) (coreOf (lookAhead k t i contract s).2 k)
      ∧ (lookAhead k t i contract s).1.idx = (coreOf s k).seq.ahead.idx
      ∧ (lookAhead k t i contract s).1.due = (coreOf s k).seq.ahead.due
      ∧ (lookAhead k t i contract s).1.shim = walkShim (coreOf s k).seq.ahead := by
  cases h : walkShim (coreOf s k).seq.ahead with
  | true =>
    obtain ⟨hs, hr⟩ := lookAhead_shim (i := i) (t := t) (contract := contract) h
    rw [hs]
    exact ⟨LookedAt.refl _, hr⟩
  | false =>
    rw [lookAhead_executes k t i contract h]
    obtain ⟨hc, -, hr⟩ := lookOp_keeps k t i contract (coreOf s k).seq.ahead
      (issueChoice (coreOf s k) (opAt (coreOf s k) (coreOf s k).seq.ahead.idx) t) s
    exact ⟨hc, hr⟩

/-! ## The peg lookahead (R229, R260) -/

/-- What a port has left that no check has claimed, where it has a crossing. -/
def portLeft (s : State) (k : Nat) (d : Side) : ClaimKind → Option Nat
  | .drive => (xingOut s k d).map xingCredits
  | .take => (xingIn s k d).map xingEntries
  | .turn => (xingIn s k d).map xingEntries

/-- The condition of a claim that finds nothing. -/
def claimCond (k cycle : Nat) (d : Side) : ClaimKind → HoldCond
  | .drive => .xcredit k d cycle
  | .take => .xdata k d cycle false
  | .turn => .xdata k d cycle true

/-- A claim on the crossing of a port. -/
def claimXing (k : Nat) (d : Side) : ClaimKind → State → State
  | .drive => modXingOut k d (fun x => { x with driveClaims := x.driveClaims + 1 })
  | .take => modXingIn k d (fun x => { x with takeClaims := x.takeClaims + 1 })
  | .turn => modXingIn k d (fun x => { x with takeClaims := x.takeClaims + 1 })

/-- A core notes a claim. -/
def noteClaim (x : PegClaim) (c : Core) : Core := { c with rt := { c.rt with claims := c.rt.claims ++ [x] } }

theorem pegClaim_eq (k t cycle i : Nat) (d : Side) (kind : ClaimKind) (s : State) :
    pegClaim k t cycle i d kind s
      = if 0 < (portLeft s k d kind).getD 0 then claimXing k d kind (modCore k (noteClaim ⟨cycle, d, kind⟩) s)
        else modBay i (requestHold (claimCond k cycle d kind) t) s := by
  cases kind with
  | drive =>
    unfold pegClaim portLeft
    cases xingOut s k d <;> rfl
  | take =>
    unfold pegClaim portLeft
    cases xingIn s k d <;> rfl
  | turn =>
    unfold pegClaim portLeft
    cases xingIn s k d <;> rfl

/-- What checks of the peg lookahead leave: claims of the core, and what the bay awaited. -/
structure PegLooked (k i : Nat) (s u : State) : Prop where
  core : ∃ cl, coreOf u k = { coreOf s k with rt := { (coreOf s k).rt with claims := (coreOf s k).rt.claims ++ cl } }
  others : ∀ j, j ≠ k → coreOf u j = coreOf s j
  holds : KeepsHolds i s u

theorem PegLooked.refl (k i : Nat) (s : State) : PegLooked k i s s :=
  ⟨⟨[], by rw [List.append_nil]⟩, fun _ _ => rfl, KeepsHolds.refl i s⟩

theorem PegLooked.trans (h : PegLooked k i s s1) (h' : PegLooked k i s1 u) : PegLooked k i s u := by
  refine ⟨?_, fun j hj => (h'.others j hj).trans (h.others j hj), h.holds.trans h'.holds⟩
  obtain ⟨cl, hc⟩ := h.core
  obtain ⟨cl', hc'⟩ := h'.core
  exact ⟨cl ++ cl', by rw [hc', hc, List.append_assoc]⟩

theorem PegLooked.claims (h : PegLooked k i s u) {x : PegClaim} (hx : x ∈ (coreOf s k).rt.claims) :
    x ∈ (coreOf u k).rt.claims := by
  obtain ⟨cl, hc⟩ := h.core
  rw [hc]
  exact List.mem_append_left _ hx

theorem coreOf_claimXing (k : Nat) (d : Side) (kind : ClaimKind) (s : State) (j : Nat) :
    coreOf (claimXing k d kind s) j = coreOf s j := by cases kind <;> rfl

theorem claimXing_bays (k : Nat) (d : Side) (kind : ClaimKind) (s : State) : (claimXing k d kind s).bays = s.bays := by
  cases kind <;> rfl

theorem pegLooked_pegClaim (k t cycle i : Nat) (d : Side) (kind : ClaimKind) (s : State) :
    PegLooked k i s (pegClaim k t cycle i d kind s) := by
  rw [pegClaim_eq]
  split
  · exact ⟨⟨_, by rw [coreOf_claimXing, coreOf_modCore_same]; rfl⟩,
      fun j hj => by rw [coreOf_claimXing, coreOf_modCore_ne _ _ hj], keepsHolds_of_bays i (claimXing_bays _ _ _ _)⟩
  · exact ⟨⟨[], by rw [coreOf_modBay, List.append_nil]⟩, fun j _ => coreOf_modBay _ _ _ _, keepsHolds_requestHold _ _ _ _⟩

/-! ### What a claim leaves of other ports -/

/-- A change of crossings that leaves their ends. -/
structure KeepsEnds (f : Crossing → Crossing) : Prop where
  recv : ∀ x, (f x).recv = x.recv ∧ (f x).recvSide = x.recvSide ∧ (f x).inDecl = x.inDecl
  sender : ∀ x, (f x).sender = x.sender ∧ (f x).sendSide = x.sendSide ∧ (f x).outDecl = x.outDecl

theorem xingIn_map {f : Crossing → Crossing} (hf : KeepsEnds f) (h : u.xings = s.xings.map f) (k : Nat) (d : Side) :
    xingIn u k d = (xingIn s k d).map f := by
  unfold xingIn
  rw [h, List.find?_map]
  congr 2
  funext x
  obtain ⟨h1, h2, h3⟩ := hf.recv x
  simp only [Function.comp, h1, h2, h3]

theorem xingOut_map {f : Crossing → Crossing} (hf : KeepsEnds f) (h : u.xings = s.xings.map f) (k : Nat) (d : Side) :
    xingOut u k d = (xingOut s k d).map f := by
  unfold xingOut
  rw [h, List.find?_map]
  congr 2
  funext x
  obtain ⟨h1, h2, h3⟩ := hf.sender x
  simp only [Function.comp, h1, h2, h3]

theorem xingIn_side {x : Crossing} {d : Side} (h : xingIn s k d = some x) : x.recvSide = d := by
  have := List.find?_some h
  simp only [Bool.and_eq_true, beq_iff_eq] at this
  exact this.1.2

theorem xingOut_side {x : Crossing} {d : Side} (h : xingOut s k d = some x) : x.sendSide = d := by
  have := List.find?_some h
  simp only [Bool.and_eq_true, beq_iff_eq] at this
  exact this.1.2

/-- The change of one crossing by a claim. -/
def claimOne (k : Nat) (d : Side) (kind : ClaimKind) (x : Crossing) : Crossing :=
  match kind with
  | .drive => if x.sender == k && x.sendSide == d then { x with driveClaims := x.driveClaims + 1 } else x
  | _ => if x.recv == k && x.recvSide == d then { x with takeClaims := x.takeClaims + 1 } else x

theorem claimXing_xings (k : Nat) (d : Side) (kind : ClaimKind) (s : State) :
    (claimXing k d kind s).xings = s.xings.map (claimOne k d kind) := by cases kind <;> rfl

theorem keepsEnds_claimOne (k : Nat) (d : Side) (kind : ClaimKind) : KeepsEnds (claimOne k d kind) := by
  constructor <;> intro x <;> unfold claimOne <;> split <;> split <;> exact ⟨rfl, rfl, rfl⟩

theorem xingEntries_claimOne {k : Nat} {d : Side} {kind : ClaimKind} {x : Crossing} (h : x.recvSide ≠ d) :
    xingEntries (claimOne k d kind x) = xingEntries x := by
  have hne : (x.recv == k && x.recvSide == d) = false := by simp [h]
  unfold claimOne
  split
  · split <;> rfl
  · rw [hne]
    rfl

theorem xingCredits_claimOne {k : Nat} {d : Side} {kind : ClaimKind} {x : Crossing} (h : x.sendSide ≠ d ∨ kind ≠ .drive) :
    xingCredits (claimOne k d kind x) = xingCredits x := by
  unfold claimOne
  split
  · have hne : (x.sender == k && x.sendSide == d) = false := by simp [h.resolve_right (fun e => e rfl)]
    rw [hne]
    rfl
  · split <;> rfl

theorem map_xingIn_claimOne {k : Nat} {d d' : Side} {kind : ClaimKind} (h : d' ≠ d) :
    ((xingIn s k d').map (claimOne k d kind)).map xingEntries = (xingIn s k d').map xingEntries := by
  cases hx : xingIn s k d' with
  | none => rfl
  | some x => exact congrArg some (xingEntries_claimOne (by rw [xingIn_side hx]; exact h))

theorem map_xingOut_claimOne {k : Nat} {d d' : Side} {kind : ClaimKind} (h : d' ≠ d ∨ kind ≠ .drive) :
    ((xingOut s k d').map (claimOne k d kind)).map xingCredits = (xingOut s k d').map xingCredits := by
  cases hx : xingOut s k d' with
  | none => rfl
  | some x => exact congrArg some (xingCredits_claimOne (by rw [xingOut_side hx]; exact h))

/-- A claim leaves what the ports of the other sides have left, and unless it drives what may be driven. -/
theorem portLeft_pegClaim (t cycle i : Nat) {d d' : Side} {kind kind' : ClaimKind}
    (h : d' ≠ d ∨ (kind ≠ .drive ∧ kind' = .drive)) :
    portLeft (pegClaim k t cycle i d kind s) k d' kind' = portLeft s k d' kind' := by
  rw [pegClaim_eq]
  split
  · have hx := claimXing_xings k d kind (modCore k (noteClaim ⟨cycle, d, kind⟩) s)
    have hout := (congrArg (Option.map xingCredits) (xingOut_map (keepsEnds_claimOne k d kind) (s := s) hx k d')).trans
      (map_xingOut_claimOne (h.imp_right (fun h => h.1)))
    cases kind' with
    | drive => exact hout
    | take =>
      exact (congrArg (Option.map xingEntries) (xingIn_map (keepsEnds_claimOne k d kind) (s := s) hx k d')).trans
        (map_xingIn_claimOne (h.resolve_right (fun h => by cases h.2)))
    | turn =>
      exact (congrArg (Option.map xingEntries) (xingIn_map (keepsEnds_claimOne k d kind) (s := s) hx k d')).trans
        (map_xingIn_claimOne (h.resolve_right (fun h => by cases h.2)))
  · have hx := modBay_xings i (requestHold (claimCond k cycle d kind) t) s
    cases kind' <;> unfold portLeft xingIn xingOut <;> rw [hx]

/-! ### The checks of one port -/

/-- The check of one port: nothing where it has no crossing or the entry does not need it. -/
def portCheck (k t cycle i : Nat) (d : Side) (kind : ClaimKind) (need : Bool) (s : State) : State :=
  if (portLeft s k d kind).isSome && need then pegClaim k t cycle i d kind s else s

theorem pegLooked_portCheck (k t cycle i : Nat) (d : Side) (kind : ClaimKind) (need : Bool) (s : State) :
    PegLooked k i s (portCheck k t cycle i d kind need s) := by
  unfold portCheck
  split
  · exact pegLooked_pegClaim _ _ _ _ _ _ _
  · exact PegLooked.refl _ _ _

theorem portLeft_portCheck (t cycle i : Nat) {d d' : Side} {kind kind' : ClaimKind} (need : Bool)
    (h : d' ≠ d ∨ (kind ≠ .drive ∧ kind' = .drive)) :
    portLeft (portCheck k t cycle i d kind need s) k d' kind' = portLeft s k d' kind' := by
  unfold portCheck
  split
  · exact portLeft_pegClaim _ _ _ h
  · rfl

/-- What a port has left is claimed. -/
theorem portCheck_claims {d : Side} {kind : ClaimKind} {n : Nat} (h : portLeft s k d kind = some n) (hn : 0 < n) :
    ⟨cycle, d, kind⟩ ∈ (coreOf (portCheck k t cycle i d kind true s) k).rt.claims := by
  have hp : 0 < (portLeft s k d kind).getD 0 := by rwa [h]
  rw [portCheck, h, Option.isSome_some, Bool.and_self, if_pos rfl, pegClaim_eq, if_pos hp, coreOf_claimXing,
    coreOf_modCore_same]
  exact List.mem_append_right _ (List.mem_singleton_self _)

/-- Where nothing is left the bay awaits it. -/
theorem portCheck_holds {d : Side} {kind : ClaimKind} (hb : (bayOf s i).isSome = true)
    (h : portLeft s k d kind = some 0) : BayHolds i (claimCond k cycle d kind) (portCheck k t cycle i d kind true s) := by
  have hp : ¬ 0 < (portLeft s k d kind).getD 0 := by
    rw [h]
    decide
  rw [portCheck, h, Option.isSome_some, Bool.and_self, if_pos rfl, pegClaim_eq, if_neg hp]
  exact bayHolds_requestHold _ _ hb

/-- The checks of a side for one peg entry. -/
def sideChecks (k t i : Nat) (w : PegWalk) (e : BitVec 128) (s : State) (d : Side) : State :=
  portCheck k t w.cycle i d .drive (portDrive e d)
    (portCheck k t w.cycle i d .turn (decide (0 < w.cycle) && portTurn w.last e d)
      (portCheck k t w.cycle i d .take (portDirect e d) s))

theorem pegChecks_eq (k t i : Nat) (w : PegWalk) (e : BitVec 128) (s : State) :
    pegChecks k t i w e s = allSides.foldl (sideChecks k t i w e) s := by
  unfold pegChecks
  congr 1
  funext s d
  simp only [sideChecks, portCheck, portLeft, Option.isSome_map, Bool.and_assoc]

theorem pegLooked_sideChecks (k t i : Nat) (w : PegWalk) (e : BitVec 128) (s : State) (d : Side) :
    PegLooked k i s (sideChecks k t i w e s d) :=
  ((pegLooked_portCheck _ _ _ _ _ _ _ s).trans (pegLooked_portCheck _ _ _ _ _ _ _ _)).trans
    (pegLooked_portCheck _ _ _ _ _ _ _ _)

theorem portLeft_sideChecks (t i : Nat) (w : PegWalk) (e : BitVec 128) {d d' : Side} (kind : ClaimKind) (h : d' ≠ d) :
    portLeft (sideChecks k t i w e s d) k d' kind = portLeft s k d' kind := by
  unfold sideChecks
  rw [portLeft_portCheck _ _ _ _ (.inl h), portLeft_portCheck _ _ _ _ (.inl h), portLeft_portCheck _ _ _ _ (.inl h)]

theorem pegLooked_foldl (k t i : Nat) (w : PegWalk) (e : BitVec 128) (l : List Side) (s : State) :
    PegLooked k i s (l.foldl (sideChecks k t i w e) s) := by
  induction l generalizing s with
  | nil => exact PegLooked.refl _ _ _
  | cons d l ih => exact (pegLooked_sideChecks k t i w e s d).trans (ih _)

/-- The checks of a side find of its ports what was left of them before the checks of the others. -/
theorem foldl_sideChecks_at (k t i : Nat) (w : PegWalk) (e : BitVec 128) {l : List Side} (s : State) {d : Side}
    (hd : d ∈ l) :
    ∃ s', PegLooked k i s s' ∧ (∀ kind, portLeft s' k d kind = portLeft s k d kind)
      ∧ PegLooked k i (sideChecks k t i w e s' d) (l.foldl (sideChecks k t i w e) s) := by
  induction l generalizing s with
  | nil => cases hd
  | cons a l ih =>
    by_cases ha : d = a
    · subst ha
      exact ⟨s, PegLooked.refl _ _ _, fun _ => rfl, pegLooked_foldl k t i w e l _⟩
    · obtain ⟨s', h1, h2, h3⟩ := ih (sideChecks k t i w e s a) ((List.mem_cons.mp hd).resolve_left ha)
      exact ⟨s', (pegLooked_sideChecks k t i w e s a).trans h1,
        fun kind => (h2 kind).trans (portLeft_sideChecks t i w e kind ha), h3⟩

theorem mem_allSides (d : Side) : d ∈ allSides := by cases d <;> decide

/-- A port that the entry takes is claimed, or awaited. -/
theorem pegChecks_takes (t i : Nat) {w : PegWalk} {e : BitVec 128} {d : Side} {x : Crossing} (hx : xingIn s k d = some x)
    (he : portDirect e d = true) :
    (0 < xingEntries x → ⟨w.cycle, d, .take⟩ ∈ (coreOf (pegChecks k t i w e s) k).rt.claims)
      ∧ ((bayOf s i).isSome = true → xingEntries x = 0 →
        BayHolds i (.xdata k d w.cycle false) (pegChecks k t i w e s)) := by
  obtain ⟨s', h1, h2, h3⟩ := foldl_sideChecks_at k t i w e s (mem_allSides d)
  have hleft : portLeft s' k d .take = some (xingEntries x) := (h2 .take).trans (by rw [portLeft, hx]; rfl)
  have hrest : PegLooked k i (portCheck k t w.cycle i d .take (portDirect e d) s') (pegChecks k t i w e s) := by
    rw [pegChecks_eq]
    exact ((pegLooked_portCheck _ _ _ _ _ _ _ _).trans (pegLooked_portCheck _ _ _ _ _ _ _ _)).trans h3
  rw [he] at hrest
  refine ⟨fun hn => hrest.claims (portCheck_claims hleft hn), fun hb h0 => hrest.holds.holds _ ?_⟩
  exact portCheck_holds (kind := .take) (h1.holds.loaded hb) (by rw [hleft, h0])

/-- A port that the entry drives is claimed, or awaited. -/
theorem pegChecks_drives (t i : Nat) {w : PegWalk} {e : BitVec 128} {d : Side} {x : Crossing} (hx : xingOut s k d = some x)
    (he : portDrive e d = true) :
    (0 < xingCredits x → ⟨w.cycle, d, .drive⟩ ∈ (coreOf (pegChecks k t i w e s) k).rt.claims)
      ∧ ((bayOf s i).isSome = true → xingCredits x = 0 → BayHolds i (.xcredit k d w.cycle) (pegChecks k t i w e s)) := by
  obtain ⟨s', h1, h2, h3⟩ := foldl_sideChecks_at k t i w e s (mem_allSides d)
  have hturn : .turn ≠ ClaimKind.drive ∧ ClaimKind.drive = .drive := ⟨by decide, rfl⟩
  have htake : .take ≠ ClaimKind.drive ∧ ClaimKind.drive = .drive := ⟨by decide, rfl⟩
  let s'' := portCheck k t w.cycle i d .turn (decide (0 < w.cycle) && portTurn w.last e d)
    (portCheck k t w.cycle i d .take (portDirect e d) s')
  have hleft : portLeft s'' k d .drive = some (xingCredits x) := by
    rw [portLeft_portCheck _ _ _ _ (.inr hturn), portLeft_portCheck _ _ _ _ (.inr htake), h2 .drive, portLeft, hx]
    rfl
  have hlooked : PegLooked k i s s'' := (h1.trans (pegLooked_portCheck _ _ _ _ _ _ _ _)).trans
    (pegLooked_portCheck _ _ _ _ _ _ _ _)
  have hrest : PegLooked k i (portCheck k t w.cycle i d .drive (portDrive e d) s'') (pegChecks k t i w e s) := by
    rw [pegChecks_eq]
    exact h3
  rw [he] at hrest
  refine ⟨fun hn => hrest.claims (portCheck_claims hleft hn), fun hb h0 => hrest.holds.holds _ ?_⟩
  exact portCheck_holds (kind := .drive) (hlooked.holds.loaded hb) (by rw [hleft, h0])

/-! ### The entry of H cycles ahead -/

theorem pegResolve_cycle (w : PegWalk) : (pegResolve w).cycle = w.cycle := by
  unfold pegResolve
  split
  · split <;> rfl
  · rfl

theorem pegLook_done (i n : Nat) (h : t + 24 < (coreOf s k).rt.ahead.cycle) : pegLook k t i n s = s := by
  cases n with
  | zero => rfl
  | succ n =>
    rw [pegLook]
    dsimp only
    rw [pegResolve_cycle]
    exact if_pos h

/-- The lookahead goes on past an entry. -/
def pegOn (w : PegWalk) (c : Core) : Core := { c with rt := { c.rt with ahead := pegNext c w } }

theorem pegOn_claims (w : PegWalk) (c : Core) : (pegOn w c).rt.claims = c.rt.claims := rfl

theorem pegNext_image {c d : Core} (h : d.image = c.image) (w : PegWalk) : pegNext d w = pegNext c w := by
  unfold pegNext pegPeriod pegEntryAt
  rw [h]

/-- Where the lookahead stands at the entry of H cycles ahead, that entry is the one it looks at. -/
theorem pegLook_one (i n : Nat) (h : (coreOf s k).rt.ahead.cycle = t + 24) :
    pegLook k t i (n + 1) s = modCore k (pegOn (pegResolve (coreOf s k).rt.ahead))
      (pegChecks k t i (pegResolve (coreOf s k).rt.ahead) (entryAtWalk (coreOf s k) (coreOf s k).rt.ahead) s) := by
  have hle : ¬ t + horizon < (pegResolve (coreOf s k).rt.ahead).cycle := by
    rw [pegResolve_cycle, h, horizon]
    omega
  have hstep : pegLook k t i (n + 1) s = pegLook k t i n (modCore k (pegOn (pegResolve (coreOf s k).rt.ahead))
      (pegChecks k t i (pegResolve (coreOf s k).rt.ahead) (entryAtWalk (coreOf s k) (coreOf s k).rt.ahead) s)) := by
    rw [pegLook]
    dsimp only
    rw [if_neg hle]
    rfl
  rw [hstep]
  refine pegLook_done i n ?_
  rw [coreOf_modCore_same]
  show t + 24 < (pegResolve (coreOf s k).rt.ahead).cycle + 1
  rw [pegResolve_cycle, h]
  omega

theorem execPegCheck_due {k : CoreId} {b : Bay} (he : enterCycle (coreNo k) t s = some (i, b, s1))
    (hmode : b.mode = .running)
    (hcycle : (coreOf s1 (coreNo k)).rt.ahead.cycle = t + 24)
    (hseq : (coreOf s1 (coreNo k)).seq.ahead.finished = true ∨ t + 24 < (coreOf s1 (coreNo k)).seq.ahead.due) :
    exec (.pegCheck k t) s = .next (modCore (coreNo k) (pegOn (pegResolve (coreOf s1 (coreNo k)).rt.ahead))
      (pegChecks (coreNo k) t i (pegResolve (coreOf s1 (coreNo k)).rt.ahead)
        (entryAtWalk (coreOf s1 (coreNo k)) (coreOf s1 (coreNo k)).rt.ahead) s1)) := by
  show execPegCheck k t s = _
  have hcond : (b.mode == .running && decide ((coreOf s1 (coreNo k)).rt.ahead.cycle ≤ t + horizon)
      && ((coreOf s1 (coreNo k)).seq.ahead.finished || decide (t + horizon < (coreOf s1 (coreNo k)).seq.ahead.due)))
      = true := by
    rw [hmode, hcycle, horizon]
    simpa using hseq
  unfold execPegCheck
  rw [he]
  dsimp only
  rw [if_pos hcond, horizon, pegLook_one i 24 hcycle]

/-- Settles O28: a look at an operation is its check, its reservations and its record; a look at a peg entry is a claim or a
hold for each port. -/
theorem checksRunAhead : Obligations.ChecksRunAhead := by
  refine ⟨?ahead, ?peg⟩
  case ahead =>
    intro k t i b s s1 n c w o he hb hmode hfin hdue
    have hload : (bayOf s1 i).isSome = true := by rw [hb]; rfl
    obtain ⟨hc, hidx, hrdue, hshim⟩ := lookAhead_keeps n t i b.contract s1
    let r := (lookAhead n t i b.contract s1).1
    let s2 := (lookAhead n t i b.contract s1).2
    have hu : coreOf (modCore n (noteAhead r (issueChoice c o t) w) s2) n
        = noteAhead r (issueChoice c o t) w (coreOf s2 n) := coreOf_modCore_same _ _ _
    refine ⟨_, r, execCheckAhead_due he hmode hfin hdue, ?_, hidx, hrdue, hshim, ?_, ?_, ?_, fun hs => ?_,
      fun hs hchk hnot => ?_, fun hs hk hfree => ?_, fun hs hk hfull => ?_⟩
    · rw [hu, noteAhead, hc.seq]
    · rw [hu]
      exact walkNext_image hc.image _ _
    · rw [hu, noteAhead, hc.seq]
    · rw [hu]
      exact hc.tags
    · have hs2 : s2 = s1 := (lookAhead_shim hs).1
      exact ⟨(bayOf_of_bays (s := s2) (modCore_bays _ _ _) i).trans (by rw [hs2, hb]), by rw [hu, hs2]; rfl⟩
    · refine bayHolds_of_bays (s := s2) (modCore_bays _ _ _) ?_
      show BayHolds i _ (lookAhead n t i b.contract s1).2
      rw [lookAhead_executes n t i b.contract hs]
      exact lookOp_holds hload hchk hnot
    · obtain ⟨h1, h2⟩ := lookOp_reserves (t := t) (i := i) (contract := b.contract) (ch := issueChoice c o t) hk hfree
      rw [hu]
      show (lookAhead n t i b.contract s1).1.reserved = _ ∧ (coreOf (lookAhead n t i b.contract s1).2 n).ax.reserved = _
      rw [lookAhead_executes n t i b.contract hs]
      exact ⟨h1, h2⟩
    · obtain ⟨h1, h2⟩ := lookOp_waits (t := t) (contract := b.contract) (ch := issueChoice c o t) hload hk hfull
      rw [← lookAhead_executes n t i b.contract hs] at h1 h2
      exact ⟨by rw [hu]; exact h1, bayHolds_of_bays (s := s2) (modCore_bays _ _ _) h2⟩
  case peg =>
    intro k t i b s s1 n c e he hb hmode hcycle hseq
    have hload : (bayOf s1 i).isSome = true := by rw [hb]; rfl
    obtain ⟨s2, hs2⟩ : ∃ s2, s2 = pegChecks n t i (pegResolve c.rt.ahead) e s1 := ⟨_, rfl⟩
    have hp : PegLooked n i s1 s2 := by
      rw [hs2, pegChecks_eq]
      exact pegLooked_foldl _ _ _ _ _ _ _
    obtain ⟨cl, hcl⟩ := hp.core
    have hu := coreOf_modCore_same s2 n (pegOn (pegResolve c.rt.ahead))
    have hw : (pegResolve c.rt.ahead).cycle = t + 24 := (pegResolve_cycle _).trans hcycle
    have hbays : (modCore n (pegOn (pegResolve c.rt.ahead)) s2).bays = s2.bays := modCore_bays _ _ _
    have htake (d : Side) (x : Crossing) (hx : xingIn s1 n d = some x) (hd : portDirect e d = true) :
        (0 < xingEntries x → ⟨t + 24, d, .take⟩ ∈ (coreOf s2 n).rt.claims)
          ∧ ((bayOf s1 i).isSome = true → xingEntries x = 0 → BayHolds i (.xdata n d (t + 24) false) s2) := by
      rw [← hw, hs2]
      exact pegChecks_takes t i hx hd
    have hdrive (d : Side) (x : Crossing) (hx : xingOut s1 n d = some x) (hd : portDrive e d = true) :
        (0 < xingCredits x → ⟨t + 24, d, .drive⟩ ∈ (coreOf s2 n).rt.claims)
          ∧ ((bayOf s1 i).isSome = true → xingCredits x = 0 → BayHolds i (.xcredit n d (t + 24)) s2) := by
      rw [← hw, hs2]
      exact pegChecks_drives t i hx hd
    refine ⟨_, (execPegCheck_due he hmode hcycle hseq).trans (by rw [← hs2]),
      by rw [hu]; exact pegNext_image (by rw [hcl]) _,
      fun d x hx hd hn => ?_, fun d x hx hd h0 => ?_, fun d x hx hd hn => ?_, fun d x hx hd h0 => ?_, ?_, ?_, fun j hj => ?_⟩
    · rw [hu, pegOn_claims]
      exact (htake d x hx hd).1 hn
    · exact bayHolds_of_bays hbays ((htake d x hx hd).2 hload h0)
    · rw [hu, pegOn_claims]
      exact (hdrive d x hx hd).1 hn
    · exact bayHolds_of_bays hbays ((hdrive d x hx hd).2 hload h0)
    · rw [hu, pegOn, hcl]
    · rw [hu, pegOn, hcl]
    · rw [coreOf_modCore_ne _ _ hj, hp.others j hj]

end Sys2Proof.SequencerFamily

namespace Sys2Proof.SequencerFamily

open Machine Laws

variable {k i n time : Nat} {c : Cmd} {pay : List Byte} {s u : State}

/-! ## Status polls (R547) -/

theorem siteRowOf_le {r : Nat} (h : r < 10) : siteRowOf r ≤ 12 := by
  unfold siteRowOf
  split_ifs <;> omega

theorem siteOfCore_lt (k : CoreId) : siteOfCore (coreNo k) < 224 := by
  have hx := k.cx.isLt
  have hy := k.cy.isLt
  have hrow : siteRowOf (coreY (coreNo k) / 8) ≤ 12 := siteRowOf_le (by rw [coreY, coreNo]; omega)
  have hcol : coreX (coreNo k) < 128 := by rw [coreX]; omega
  rw [siteOfCore]
  omega

theorem bitAt_eq_testBit (v i : Nat) : bitAt v i = v.testBit i := by
  rw [bitAt, Nat.testBit_eq_decide_div_mod_eq, beq_eq_decide]

/-- A core that an entry has lost is no good core of it. -/
theorem entryLoseCore_bit (b : Nat) (e : SiteEntry) : bitAt (entryLoseCore b e).coreGood.toNat b = false := by
  have hgood : (entryLoseCore b e).coreGood = e.coreGood &&& ~~~((1 : BitVec 64) <<< b) := by
    unfold entryLoseCore
    dsimp only
    split
    · rfl
    · split
      · rfl
      · split <;> rfl
  rw [hgood, bitAt_eq_testBit, ← BitVec.getLsbD, BitVec.getLsbD_and, BitVec.getLsbD_not, BitVec.getLsbD_shiftLeft]
  simp

/-- A log record changes the log alone. -/
theorem logAdd_err (r : LogRec) (s : State) : ∃ l, (logAdd r s).err = { s.err with log := l } := by
  unfold logAdd
  dsimp only
  split <;> exact ⟨_, rfl⟩

/-- The change of the record with which a core fails. -/
def coreChange (k : Nat) (s : State) : State :=
  let s := modEntry (siteOfCore k) (entryLoseCore (coreBit k)) s
  if (entryAt s (siteOfCore k)).state = .failed ∧ (entryAt s (siteOfCore k)).reason = 7 then
    recordFailure (siteOfCore k) 7 s
  else s

theorem failCore_eq (k : Nat) (inj : Bool) (s : State) :
    failCore k inj s = if !bitAt (entryAt s (siteOfCore k)).coreGood.toNat (coreBit k) then s
      else logAdd { logFailure (siteOfCore k) 7 inj with cx := coreX k, cy := coreY k } (recordChange (coreChange k) s) :=
  rfl

theorem coreChange_fp (k : Nat) (s : State) :
    (coreChange k s).fp = (modEntry (siteOfCore k) (entryLoseCore (coreBit k)) s).fp := by
  unfold coreChange
  dsimp only
  split
  · exact FloorPlanFamily.recordFailure_fp _ _ _
  · rfl

theorem within_coreChange {S : List StatePart} {s0 : State} (hS : Covers S [.fp, .bootFailures]) (h : Within S s0 s) :
    Within S s0 (coreChange k s) := by
  have hm : Within S s0 (modEntry (siteOfCore k) (entryLoseCore (coreBit k)) s) := within_modEntry (hS.mono (by decide)) h
  unfold coreChange
  dsimp only
  split
  · exact within_recordFailure (hS.mono (by decide)) hm
  · exact hm

/-- A core that fails is no good core of its die. -/
theorem failCore_bit (inj : Bool) (h : siteOfCore k < s.fp.entries.length) :
    bitAt (entryAt (failCore k inj s) (siteOfCore k)).coreGood.toNat (coreBit k) = false := by
  rw [failCore_eq]
  split
  · rename_i hb
    exact (Bool.not_eq_true' _).mp hb
  · obtain ⟨g, hg⟩ := recordChange_entry (coreChange k) s (siteOfCore k)
    rw [entryAt_of_fp (FloorPlanFamily.logAdd_fp _ _), hg, entryAt_of_fp (coreChange_fp k s), entryAt_modEntry_same _ _ h]
    exact entryLoseCore_bit _ _

/-- The failure of a core leaves the counts of missed polls. -/
theorem failCore_missed (k : Nat) (inj : Bool) (s : State) : (failCore k inj s).err.missed = s.err.missed := by
  rw [failCore_eq]
  split
  · rfl
  · obtain ⟨l, hl⟩ := logAdd_err { logFailure (siteOfCore k) 7 inj with cx := coreX k, cy := coreY k }
      (recordChange (coreChange k) s)
    have hr : (recordChange (coreChange k) s).err = s.err :=
      (within_recordChange (S := [.fp, .host, .ev, .fw, .hostMem, .bootGeneration, .bootFailures])
        ((Covers.self _).mono (by decide)) (fun _ hy => within_coreChange ((Covers.self _).mono (by decide)) hy)
        (Within.refl _ s)).frame .err (by decide)
    rw [hl, hr]

theorem loseCore_keeps (k : Nat) (s : State) :
    (loseCore k s).fp = (failCore k false s).fp ∧ (loseCore k s).err = (failCore k false s).err := by
  unfold loseCore
  dsimp only
  split
  · have hw := (within_modBay (S := [.bays]) (i := ‹Nat›) (f := faultNow 5 k) ((Covers.self _).mono (by decide))
      (Within.refl _ (failCore k false s))).frame
    exact ⟨hw .fp (by decide), hw .err (by decide)⟩
  · exact ⟨rfl, rfl⟩

/-! ## The hourly decay of wear (R551, R552) -/

/-- A part with another score, and the state that this gives. -/
def setScore (v : Nat) (p : WearPart) : WearPart := { p with score := v, state := wearNext p.state v }

theorem setScore_fields (v : Nat) (p : WearPart) :
    (setScore v p).score = v ∧ (setScore v p).peak = p.peak ∧ (setScore v p).state = wearNext p.state v
      ∧ (setScore v p).life = p.life := ⟨rfl, rfl, rfl, rfl⟩

/-- A part after one more hour. -/
def decayWear (p : WearPart) : WearPart := setScore (decayed p.score) p

theorem decayWear_fields (p : WearPart) :
    (decayWear p).score = decayed p.score ∧ (decayWear p).peak = p.peak
      ∧ (decayWear p).state = wearNext p.state (decayed p.score) ∧ (decayWear p).life = p.life :=
  setScore_fields (decayed p.score) p

/-- A part without a score stays without one. -/
theorem decayWear_zero : decayWear wearZero = wearZero := by
  have hz : decayed wearZero.score = 0 := by simp [decayed, wearZero]
  rw [decayWear, hz]
  simp [setScore, wearNext, wearZero]

/-- The report of a part's state leaves the parts, the hours and the steps. -/
theorem wearChange_keeps (n old : Nat) (s : State) :
    (wearChange n old s).err.wear = s.err.wear ∧ (wearChange n old s).err.steps = s.err.steps
      ∧ (wearChange n old s).boot.hours = s.boot.hours := by
  have hh := ((within_wearChange (S := [.host, .ev, .fw, .err, .hostMem, .bootLog]) (n := n) (old := old)
    ((Covers.self _).mono (by decide)) (Within.refl _ s)).frame .bootWear (by decide)).2
  suffices h : ∃ l, (wearChange n old s).err = { s.err with log := l } by
    obtain ⟨l, hl⟩ := h
    exact ⟨by rw [hl], by rw [hl], hh⟩
  unfold wearChange
  dsimp only
  split
  · exact ⟨_, rfl⟩
  · obtain ⟨l, hl⟩ := logAdd_err { logBlank 12 with addr := n, detail := (wearOf s n).score, status := 0x0A00 }
      (raise1 (evPlain 0x0A00 n (256 * (wearOf s n).state + old) (wearOf s n).score) s)
    have hr := (within_raise1 (S := [.host, .ev, .fw, .hostMem])
      (e := evPlain 0x0A00 n (256 * (wearOf s n).state + old) (wearOf s n).score)
      ((Covers.self _).mono (by decide)) (Within.refl _ s)).frame .err (by decide)
    exact ⟨l, by rw [hl, hr]⟩

theorem decayPart_eq (n : Nat) (s : State) :
    decayPart n s = wearChange n (wearOf s n).state (putWear n (decayWear (wearOf s n)) s) := by
  unfold decayPart decayWear setScore
  rfl

theorem putWear_keeps (n : Nat) (p : WearPart) (s : State) :
    (putWear n p s).err.wear = mapSet wearZero s.err.wear n p ∧ (putWear n p s).err.steps = s.err.steps
      ∧ (putWear n p s).boot.hours = s.boot.hours := ⟨rfl, rfl, rfl⟩

theorem wearOf_decayPart (n : Nat) (s : State) (j : Nat) :
    wearOf (decayPart n s) j = if j = n then decayWear (wearOf s n) else wearOf s j := by
  obtain ⟨hw, -, -⟩ := wearChange_keeps n (wearOf s n).state (putWear n (decayWear (wearOf s n)) s)
  rw [decayPart_eq, wearOf, hw, (putWear_keeps _ _ _).1]
  split
  · rename_i h
    rw [h, mapGetD_mapSet_same]
  · rename_i h
    exact mapGetD_mapSet_ne _ _ _ _ h

theorem decayPart_keeps (n : Nat) (s : State) :
    (decayPart n s).err.steps = s.err.steps ∧ (decayPart n s).boot.hours = s.boot.hours := by
  obtain ⟨-, hs, hh⟩ := wearChange_keeps n (wearOf s n).state (putWear n (decayWear (wearOf s n)) s)
  obtain ⟨-, hs', hh'⟩ := putWear_keeps n (decayWear (wearOf s n)) s
  rw [decayPart_eq]
  exact ⟨hs.trans hs', hh.trans hh'⟩

/-- Every part of a list decays once. -/
theorem foldl_decayPart (l : List Nat) (hl : l.Nodup) (s : State) :
    (∀ j, wearOf (l.foldl (fun s n => decayPart n s) s) j = if j ∈ l then decayWear (wearOf s j) else wearOf s j)
      ∧ (l.foldl (fun s n => decayPart n s) s).err.steps = s.err.steps
      ∧ (l.foldl (fun s n => decayPart n s) s).boot.hours = s.boot.hours := by
  induction l generalizing s with
  | nil => exact ⟨fun j => by rw [List.foldl_nil, if_neg List.not_mem_nil], rfl, rfl⟩
  | cons n l ih =>
    obtain ⟨hn, hl⟩ := List.nodup_cons.mp hl
    obtain ⟨hw, hs, hh⟩ := ih hl (decayPart n s)
    obtain ⟨hs', hh'⟩ := decayPart_keeps n s
    rw [List.foldl_cons]
    refine ⟨fun j => ?_, hs.trans hs', hh.trans hh'⟩
    rw [hw, wearOf_decayPart]
    by_cases hj : j = n
    · subst hj
      simp [hn]
    · simp [hj]

/-- The keys of a table whose keys rise are distinct. -/
theorem nodup_keys {α : Type} {m : List (Nat × α)} (h : keysRise m = true) : (m.map (fun p => p.1)).Nodup := by
  have hlt : ∀ (m : List (Nat × α)) (j : Nat), above j m → keysRise m = true → ∀ x ∈ m.map (fun p => p.1), j < x := by
    intro m
    induction m with
    | nil => exact fun _ _ _ _ hx => by cases hx
    | cons p m ih =>
      intro j hj hr x hx
      obtain ⟨ha, hr'⟩ := (keysRise_cons p.1 p.2 m).mp hr
      rcases List.mem_cons.mp hx with rfl | hx
      · exact hj
      · exact Nat.lt_trans hj (ih p.1 ha hr' x hx)
  induction m with
  | nil => exact List.nodup_nil
  | cons p m ih =>
    obtain ⟨ha, hr⟩ := (keysRise_cons p.1 p.2 m).mp h
    exact List.nodup_cons.mpr ⟨fun hm => Nat.lt_irrefl _ (hlt m p.1 ha hr _ hm), ih hr⟩

/-- A part that is not listed has no score. -/
theorem wearOf_unlisted (h : n ∉ s.err.wear.map (fun p => p.1)) : wearOf s n = wearZero := by
  have hget : ∀ m : List (Nat × WearPart), n ∉ m.map (fun p => p.1) → mapGet? m n = none := by
    intro m
    induction m with
    | nil => exact fun _ => rfl
    | cons p m ih =>
      intro hn
      rw [List.map_cons, List.mem_cons, not_or] at hn
      rw [mapGet?, if_neg (Ne.symm hn.1), ih hn.2]
  rw [wearOf, mapGetD, hget _ h]
  rfl

/-- Every listed part decays. -/
def decayAll (s : State) : State := (s.err.wear.map (fun p => p.1)).foldl (fun s n => decayPart n s) s

/-- All parts decay, listed or not, and the clocks of the decay stand. -/
theorem decayAll_keeps (h : keysRise s.err.wear = true) :
    (∀ j, wearOf (decayAll s) j = decayWear (wearOf s j)) ∧ (decayAll s).err.steps = s.err.steps
      ∧ (decayAll s).boot.hours = s.boot.hours := by
  obtain ⟨hw, hs, hh⟩ := foldl_decayPart _ (nodup_keys h) s
  refine ⟨fun j => ?_, hs, hh⟩
  rw [decayAll, hw]
  split
  · rfl
  · rename_i hj
    rw [wearOf_unlisted hj, decayWear_zero]

/-- The hour is counted, and the scores are saved. -/
def endHour (s : State) : State :=
  saveWear { s with
    err := { s.err with steps := s.err.steps + 1 }
    boot := { s.boot with hours := s.boot.hours + 1 } }

theorem endHour_keeps (s : State) :
    (∀ n, wearOf (endHour s) n = wearOf s n) ∧ (endHour s).err.steps = s.err.steps + 1
      ∧ (endHour s).boot.hours = s.boot.hours + 1 ∧ (endHour s).boot.wear = (endHour s).err.wear :=
  ⟨fun _ => rfl, rfl, rfl, rfl⟩

theorem execWearDecay_due (hnow : 3600000000000 * (s.err.steps + 1) ≤ (atTime time s).now) (hgood : s.pwr.good = true) :
    exec (.wearDecay time) s = .next (endHour (decayAll (atTime time s))) := by
  show execWearDecay time s = _
  have hcond : ¬ ((atTime time s).now < 3600000000000 * (s.err.steps + 1) ∨ (!s.pwr.good) = true) := by
    rw [hgood, not_or]
    exact ⟨Nat.not_lt.mpr hnow, by decide⟩
  unfold execWearDecay
  dsimp only
  rw [if_neg hcond]
  rfl

/-! ## Injections end (R556) -/

theorem disarm_err (f : Injection → Bool) (s : State) :
    (disarm f s).err = { s.err with armed := s.err.armed.filter (fun j => !f j) } := by
  unfold disarm
  dsimp only
  generalize hs : ({ s with err := _ } : State) = s'
  have he : s'.err = { s.err with armed := s.err.armed.filter (fun j => !f j) } := by rw [← hs]
  rw [← he]
  generalize s.err.armed.filter f = l
  clear hs he
  induction l generalizing s' with
  | nil => rfl
  | cons j l ih =>
    rw [List.foldl_cons, ih]
    exact (within_injDone (S := [.host, .ev, .fw, .hostMem]) ((Covers.self _).mono (by decide))
      (Within.refl _ s')).frame .err (by decide)

/-! ## Commands (R548, R553, R555) -/

/-- A command that answers in a buffer that takes the answer. -/
theorem completeWithBuf_answers {a : Nat} {bs : List Byte} {x : Taken} (hx : takenOf c s = some x)
    (h : BufferAnswers c a bs.length s) :
    ∃ t, completeWithBuf c a bs 0 s = complete c stOk 0 t ∧ OutputIs c a bs t ∧ OnlyChanges [.hostMem, .inProgress] s t := by
  obtain ⟨hst, hout, honly⟩ := writeHostBuf_answers hx h
  exact ⟨_, by rw [completeWithBuf, hst]; rfl, hout, honly⟩

/-- The records that an ERROR_LOG_GET answers with. -/
def logOut (pay : List Byte) (l : ErrLog) : List (Nat × LogRec) :=
  ((logNumbered l).filter (fun p => decide (leAt pay 8 8 ≤ p.1))).take (leAt pay 4 4)

/-- The answer of an ERROR_LOG_GET. -/
def logAnswer (pay : List Byte) (l : ErrLog) (oldest : Nat) : List Byte :=
  natLe 4 (logOut pay l).length ++ natLe 8 oldest ++ copies 4 0 ++ (logOut pay l).flatMap (fun p => logBytes p.1 p.2)

theorem logAnswer_length (pay : List Byte) (l : ErrLog) (oldest : Nat) :
    (logAnswer pay l oldest).length = 16 + ((logOut pay l).flatMap (fun p => logBytes p.1 p.2)).length := by
  simp only [logAnswer, List.length_append, natLe_length, copies_length]

/-- The log that an ERROR_LOG_GET reads. -/
def logRead (pay : List Byte) (s : State) : ErrLog := if leAt pay 0 1 = 0 then s.err.log else s.boot.plog

/-- The number of a log's oldest record, any number where it has none. -/
def logOldest (l : ErrLog) (s : State) : Nat :=
  if l.recs.isEmpty then (takeFree s).1 else l.next - l.recs.length

/-- The state in which an ERROR_LOG_GET answers. -/
def logState (l : ErrLog) (s : State) : State := if l.recs.isEmpty then (takeFree s).2 else s

theorem logState_keeps (l : ErrLog) (s : State) :
    takenOf c (logState l s) = takenOf c s ∧ (∀ a n, BufferAnswers c a n s → BufferAnswers c a n (logState l s))
      ∧ OnlyChanges [.freeCtr] s (logState l s) := by
  unfold logState
  split
  · refine ⟨rfl, fun _ _ h => h, ?_⟩
    exact (within_takeFree ((Covers.self _).mono (by decide)) (Within.refl _ s)).frame
  · exact ⟨rfl, fun _ _ h => h, (Within.refl _ s).frame⟩

theorem doErrorLogGet_passes (h : firstFail (errorChecks 0x0A00 c pay s) = stOk) :
    doErrorLogGet c pay s = completeWithBuf c (leAt pay 0x18 8)
      (logAnswer pay (logRead pay s) (logOldest (logRead pay s) s)) 0 (logState (logRead pay s) s) := by
  unfold doErrorLogGet
  exact FloorPlanFamily.checked_pass (checks := errorChecks 0x0A00 c pay s) h

theorem doWearGet_passes (h : firstFail (errorChecks 0x0A01 c pay s) = stOk) :
    doWearGet c pay s
      = completeWithBuf c (leAt pay 8 8) (wearHeader s ++ (List.range 273).flatMap (wearBytes s)) 0 s :=
  FloorPlanFamily.checked_pass (checks := errorChecks 0x0A01 c pay s) h

/-- What an INJECT checks that arms. -/
def armChecks (j : Injection) (s : State) : List (Bool × Nat) :=
  [((injSite j).any (fun i => !sitePowered s i), stNotReady), (injFull j s, stNoMemory),
    (s.err.armed.any (sameTarget j), stBusy)]

/-- An injection is armed. -/
def armInj (j : Injection) (s : State) : State := { s with err := { s.err with armed := s.err.armed ++ [j] } }

/-- The injections at a target are disarmed. -/
def disarmAt (j : Injection) (s : State) : State :=
  { s with err := { s.err with armed := s.err.armed.filter (fun x => !sameTarget j x) } }

/-- Checks that pass, said as another list. -/
theorem checked_pass_eq {checks checks' : List (Bool × Nat)} {eff : State → State} (h : firstFail checks' = stOk)
    (he : checks = checks') : checked c checks eff s = eff s := FloorPlanFamily.checked_pass (he ▸ h)

theorem doInject_passes (h : firstFail (errorChecks 0x0A02 c pay s) = stOk) :
    doInject c pay s =
      if injCancels pay then
        complete c stOk (s.err.armed.filter (sameTarget (injectionOf c pay s.now))).length
          (disarmAt (injectionOf c pay s.now) s)
      else checked c (armChecks (injectionOf c pay s.now) s)
        (fun s' => complete c stOk 0 (armInj (injectionOf c pay s.now) s')) s := by
  unfold doInject
  refine (checked_pass_eq h ?own).trans ?effect
  case own =>
    unfold errorChecks
    dsimp only
    generalize injSite (injectionOf c pay s.now) = site
    cases site <;> rfl
  case effect =>
    dsimp only
    split
    · rfl
    · congr 1
      unfold armChecks
      generalize injSite (injectionOf c pay s.now) = site
      cases site <;> rfl

/-! ### The three cases of a poll -/

theorem execStatusPoll_polled {k : CoreId} (answered : Bool) (h : polled s (coreNo k) = true) :
    exec (.statusPoll k answered time) s =
      if answered then .next (setMissed (coreNo k) 0 (modCore (coreNo k) supervisorRead (atTime time s)))
      else if mapGetD s.err.missed (coreNo k) 0 = 0 then .next (setMissed (coreNo k) 1 (atTime time s))
      else .next (loseCore (coreNo k) (setMissed (coreNo k) 0 (atTime time s))) := by
  show execStatusPoll k answered time s = _
  unfold execStatusPoll
  dsimp only
  rw [h]
  rfl

theorem missed_setMissed (n m : Nat) (s : State) : mapGetD (setMissed n m s).err.missed n 0 = m :=
  mapGetD_mapSet_same 0 s.err.missed n m

/-- The second poll that a core misses in a row. -/
theorem loseCore_poll {k : CoreId} (hs : s.fp.entries.length = 224) :
    mapGetD (loseCore (coreNo k) (setMissed (coreNo k) 0 (atTime time s))).err.missed (coreNo k) 0 = 0
      ∧ bitAt (entryAt (loseCore (coreNo k) (setMissed (coreNo k) 0 (atTime time s)))
          (siteOfCore (coreNo k))).coreGood.toNat (coreBit (coreNo k)) = false := by
  obtain ⟨hfp, herr⟩ := loseCore_keeps (coreNo k) (setMissed (coreNo k) 0 (atTime time s))
  rw [herr, failCore_missed, entryAt_of_fp hfp]
  exact ⟨missed_setMissed _ _ _, failCore_bit _ (hs.symm ▸ siteOfCore_lt k)⟩

/-- Settles O58: a poll's three cases, the fold of the decay over the listed parts, what disarming leaves of the errors, and the
commands past their checks. -/
theorem errorsAndWear : Obligations.ErrorsAndWear := by
  refine ⟨?timed, ?commands⟩
  case timed =>
    intro time s hkept u
    refine ⟨?poll, ?decay, ?expiry⟩
    case poll =>
      intro k n miss hpolled
      have he (b : Bool) := execStatusPoll_polled (time := time) b hpolled
      refine ⟨⟨_, he true, ?_, rfl, fun j hj => ?_, ?_⟩, fun h0 => (he false).trans ?_, fun h1 =>
        ⟨_, (he false).trans (if_neg h1), loseCore_poll hkept.entries⟩⟩
      · exact coreOf_modCore_same u n supervisorRead
      · exact coreOf_modCore_ne u supervisorRead hj
      · exact (within_setMissed ((Covers.self _).mono (by decide)) (within_modCore ((Covers.self _).mono (by decide))
          (Within.refl _ u))).frame
      · exact if_pos h0
    case decay =>
      intro hnow hgood
      obtain ⟨hwear, hsteps, hhours⟩ := decayAll_keeps (s := u) hkept.wear
      obtain ⟨hparts, hsteps', hhours', hsaved⟩ := endHour_keeps (decayAll u)
      refine ⟨_, execWearDecay_due hnow hgood, fun n => ?_, ?_, ?_, hsaved⟩
      · have hsame : wearOf u n = wearOf s n := rfl
        rw [hparts, hwear, hsame]
        exact decayWear_fields _
      · rw [hsteps', hsteps]
        rfl
      · rw [hhours', hhours]
        rfl
    case expiry =>
      refine ⟨disarm (fun j => decide (j.armed + 600000000000 ≤ u.now)) u, rfl, ?_,
        (within_disarm ((Covers.self _).mono (by decide)) (Within.refl _ u)).frame⟩
      rw [disarm_err]
      have hf (j : Injection) : (!decide (j.armed + 600000000000 ≤ u.now)) = decide (u.now < j.armed + 600000000000) := by
        rw [← decide_not, decide_eq_decide, Nat.not_le]
      simp only [hf]
      rfl
  case commands =>
    intro c pay s hkept u Ok
    refine ⟨?log, ?wear, ?inject⟩
    case log =>
      intro l out hok hbuf
      obtain ⟨hacc, hchecks⟩ := hok
      obtain ⟨hd, htaken⟩ := takenOf_takeCmd hacc.2.1
      have hl : logRead pay u = l := by
        show (if leAt pay 0 1 = 0 then u.err.log else u.boot.plog) = _
        rw [takeCmd_err, takeCmd_boot]
      obtain ⟨hstaken, hsbuf, hsonly⟩ := logState_keeps (c := c) l u
      obtain ⟨t, ht, hout, honly⟩ := completeWithBuf_answers (bs := logAnswer pay l (logOldest l u)) (hstaken.trans htaken)
        (hsbuf _ _ (by rw [logAnswer_length]; exact hbuf))
      refine ⟨t, logOldest l u, ?_, hout, fun hrecs => ?_, fun p hp => ?_⟩
      · refine (runRow_accepted hacc doErrorLogGet).trans (congrArg _ ?_)
        rw [doErrorLogGet_passes hchecks, hl, ht]
      · have hne : ¬ l.recs.isEmpty = true := by rwa [List.isEmpty_iff]
        rw [logState, if_neg hne] at honly
        exact ⟨if_neg hne, honly⟩
      · exact same_trans (hsonly p (fun h => hp (by simp_all))) (honly p (fun h => hp (by simp_all)))
    case wear =>
      intro out hok hbuf
      obtain ⟨hacc, hchecks⟩ := hok
      obtain ⟨hd, htaken⟩ := takenOf_takeCmd hacc.2.1
      obtain ⟨t, ht, hout, honly⟩ := completeWithBuf_answers htaken hbuf
      refine ⟨t, (runRow_accepted hacc doWearGet).trans (congrArg _ ?_), hout, honly⟩
      rw [doWearGet_passes hchecks, ht]
    case inject =>
      intro hok j
      obtain ⟨hacc, hchecks⟩ := hok
      have hpass := doInject_passes hchecks
      refine ⟨fun h0 => ?arm, fun h1 => ?cancel⟩
      case arm =>
        intro st
        have hcan : ¬ injCancels pay = true := by
          rw [injCancels, h0]
          decide
        have hst : firstFail (armChecks j u) = st := by
          show firstFail (armChecks j u) = firstFail (armChecks j s)
          unfold armChecks injFull sitePowered pwrOf
          rw [takeCmd_pwr, takeCmd_err]
        rw [if_neg hcan] at hpass
        refine ⟨fun hfail => (runRow_accepted hacc doInject).trans (congrArg _ (hpass.trans ?_)),
          fun hgo => (runRow_accepted hacc doInject).trans (congrArg _ (hpass.trans ?_))⟩
        · rw [checked, if_pos (hst ▸ hfail), ← hst]
          rfl
        · rw [FloorPlanFamily.checked_pass (hst.trans hgo), armInj, takeCmd_err]
      case cancel =>
        have hcan : injCancels pay = true := by
          rw [injCancels, h1]
          decide
        refine (runRow_accepted hacc doInject).trans (congrArg _ (hpass.trans ?_))
        rw [if_pos hcan, disarmAt, takeCmd_err]

end Sys2Proof.SequencerFamily

/-! Proofs of the family of the matrix engine: a MATRIX_STEP that starts (O19), the additions to a bank, and the way of a tile
into its queue (O21). -/

namespace Sys2Proof.MatrixFamily

open Machine Laws SequencerFamily

variable {k t i : Nat} {b : Bay} {e : EngineOp} {es : List EngineOp} {c d : Core} {m : MxRun} {s s1 : State}

/-! ## What leaves the rows of every core -/

theorem rowAt_modCore (f : Core → Core) (hrows : ∀ c, (f c).rows = c.rows) (hwrites : ∀ c, (f c).writes = c.writes)
    (s : State) (j r u : Nat) : rowAt (modCore k f s) j r u = rowAt s j r u := by
  unfold rowAt coreRowAt
  dsimp only
  by_cases h : (rowPlace j r).1 = k
  · rw [h, coreOf_modCore_same, hrows, hwrites]
  · rw [coreOf_modCore_ne _ _ h]

/-- A core with the next number for its operations. -/
def numbered (c : Core) : Core := { c with eng := { c.eng with nextOp := c.eng.nextOp + 1 } }

theorem freshOp_eq (k : Nat) (s : State) : (freshOp k s).2 = modCore k numbered s := rfl

/-! ## A read window opens (R125)

The window of a MATRIX_STEP opens on rows that may be due to change. Of the reading core this changes what the runs find mixed
and the windows themselves. -/

/-- A run that finds other mixes. -/
def withMixes (mix : MxRun → List (Nat × Row)) (m : MxRun) : MxRun := { m with mixes := mix m }

/-- Two cores differ at most in their read windows and in what the runs of the matrix engine find mixed. -/
def Mixing (c d : Core) : Prop :=
  ∃ mix wins, d = { c with eng := { c.eng with mxRuns := c.eng.mxRuns.map (withMixes mix), readWins := wins } }

theorem mixing_of_wins (c : Core) (wins : List ReadWin) : Mixing c { c with eng := { c.eng with readWins := wins } } := by
  refine ⟨fun m => m.mixes, wins, ?_⟩
  rw [show withMixes (fun m => m.mixes) = id from rfl, List.map_id]

theorem Mixing.refl (c : Core) : Mixing c c := mixing_of_wins c c.eng.readWins

theorem Mixing.trans {e : Core} (h : Mixing c d) (h' : Mixing d e) : Mixing c e := by
  obtain ⟨mix, wins, rfl⟩ := h
  obtain ⟨mix', wins', rfl⟩ := h'
  refine ⟨fun m => mix' (withMixes mix m), wins', ?_⟩
  rw [List.map_map]
  rfl

theorem mixing_foldl {α : Type} {f : State → α → State} (h : ∀ s a, Mixing (coreOf s k) (coreOf (f s a) k)) (l : List α)
    (s : State) : Mixing (coreOf s k) (coreOf (l.foldl f s) k) := by
  induction l generalizing s with
  | nil => exact Mixing.refl _
  | cons a l ih => exact (h s a).trans (ih _)

theorem mixing_mixRun (k op : Nat) (rows : List Nat) (p : Nat × Nat) (data : Row) (s : State) :
    Mixing (coreOf s k) (coreOf (mixRun k op rows p data s) k) := by
  refine ⟨fun m => if m.op = op then m.mixes ++ (placesOf k rows p).map (fun i => (i, data)) else m.mixes,
    (coreOf s k).eng.readWins, ?_⟩
  have hmap : withMixes (fun m => if m.op = op then m.mixes ++ (placesOf k rows p).map (fun i => (i, data)) else m.mixes)
      = fun m => if m.op = op then { m with mixes := m.mixes ++ (placesOf k rows p).map (fun i => (i, data)) } else m := by
    funext m
    unfold withMixes
    dsimp only
    split <;> rfl
  rw [mixRun, coreOf_modCore_same, hmap]

theorem mixing_openWin (k : Nat) {w : ReadWin} (h : w.unit = .mx) (s : State) :
    Mixing (coreOf s k) (coreOf (openWin k w s) k) := by
  have hspoil : ∀ p data s, Mixing (coreOf s k) (coreOf (spoilOp k p data s w) k) := fun p data s => by
    rw [spoilOp, if_pos h]
    exact mixing_mixRun k w.op w.rows p data s
  unfold openWin
  refine Mixing.trans ?_ (mixing_foldl (fun s _ => mixing_foldl (fun s _ => hspoil _ _ s) _ s) _ _)
  rw [coreOf_modCore_same]
  exact mixing_of_wins _ _

/-! ## A MATRIX_STEP starts (R125 to R128, R212) -/

/-- The rows of operand A, and those of operand B. -/
def rowsA (c : Core) (o : BitVec 128) : List Nat :=
  operandRows c (mxASlot o) (mxAOff o) ((fmOfCode (mxFmtA o)).getD .fp32) (mxKsteps o)

def rowsB (c : Core) (o : BitVec 128) : List Nat :=
  operandRows c (mxBSlot o) (mxBOff o) ((fmOfCode (mxFmtB o)).getD .fp32) (mxKsteps o)

/-- What a row beyond the lead core adds to the latency of a step. -/
def stepDeep (c : Core) (o : BitVec 128) : Nat := deepTerm (rowsA c o ++ rowsB c o)

/-- The cycles that a tile-step occupies; a step without any takes those of a short one. -/
def stepOcc (o : BitVec 128) : Nat := if mxKsteps o = 0 then 32 else mxOcc o

/-- The last cycle that a step occupies. -/
def lastCycle (t : Nat) (o : BitVec 128) : Nat := t + max (mxKsteps o * stepOcc o) 32 - 1

theorem mxKsteps_mul_stepOcc (o : BitVec 128) : mxKsteps o * stepOcc o = mxKsteps o * mxOcc o := by
  unfold stepOcc
  split
  · rename_i h
    rw [h, Nat.zero_mul, Nat.zero_mul]
  · rfl

/-- A run as it begins, with its rows as state `s` holds them. -/
def begunRun (k t : Nat) (e : EngineOp) (contract op : Nat) (c : Core) (s : State) : MxRun :=
  ⟨op, e.idx, e.word, t, stepOcc e.word, latMatrix contract + stepDeep c e.word, 0,
    (rowsA c e.word).map (fun d => rowAt s k d t), (rowsB c e.word).map (fun d => rowAt s k d t), []⟩

/-- The cycle from which on a run no longer keeps the matrix engine busy: its last addition is over, and with DRAIN its tile is in
queue. -/
def doneCycle (t : Nat) (o : BitVec 128) (occ lat : Nat) : Nat :=
  if mxDrain o then t + max (mxKsteps o) 1 * occ - 1 + lat + 33 else t + max (mxKsteps o) 1 * occ - 1 + lat + 1

/-- The slots that a step consumes. -/
def consumedSlots (o : BitVec 128) : List Nat :=
  ((if mxAConsume o && mxKsteps o ≥ 1 then [mxASlot o] else [])
    ++ (if mxBConsume o && mxKsteps o ≥ 1 then [mxBSlot o] else [])).eraseDups

/-- The release of the operands of a step. -/
def release (t : Nat) (c : Core) (o : BitVec 128) : TagAct :=
  ⟨.operandRelease, lastCycle t o + 1 + stepDeep c o, consumedSlots o, []⟩

/-- A core whose matrix engine begins a run and plans the release of its operands. -/
def withRun (m : MxRun) (a : TagAct) (c : Core) : Core :=
  planTags a { c with eng := { c.eng with
    mxRuns := c.eng.mxRuns ++ [m], mxIdle := max c.eng.mxIdle (doneCycle m.t0 m.word m.occ m.lat) } }

/-- The state after the tests of the operand tags and the checks of the rows that a step reads. -/
def operandsTested (k t : Nat) (e : EngineOp) (s : State) : State :=
  let s' := expectTag k (mxASlot e.word) true e.idx t s
  checkReads k (mxReads (coreOf s k) e.word t)
    (if mxBSlot e.word = mxASlot e.word then s' else expectTag k (mxBSlot e.word) true e.idx t s')

/-- The state in which a step reads its rows. -/
def readyState (k t : Nat) (e : EngineOp) (s : State) : State := (freshOp k (operandsTested k t e s)).2

/-- The run that a step begins. -/
def startedRun (k t : Nat) (e : EngineOp) (contract : Nat) (s : State) : MxRun :=
  begunRun k t e contract (freshOp k (operandsTested k t e s)).1 (coreOf s k) (readyState k t e s)

theorem matrixStart_eq (k t : Nat) (e : EngineOp) (contract : Nat) (s : State) :
    matrixStart k t e contract s =
      let m := startedRun k t e contract s
      let c := coreOf s k
      let u := modCore k (withRun m (release t c e.word)) (readyState k t e s)
      if mxKsteps e.word = 0 then u
      else openWin k ⟨.mx, m.op, rowsA c e.word ++ rowsB c e.word, t, lastCycle t e.word⟩ u := rfl

theorem reports_operandsTested (k t : Nat) (e : EngineOp) (s : State) : Reports s (operandsTested k t e s) := by
  have ha := reports_expectTag k (mxASlot e.word) true e.idx t s
  exact (Reports.ite ha (ha.trans (reports_expectTag _ _ _ _ _ _))).trans (marks_checkReads _ _ _).reports

/-- A step reads its rows as they stand when it starts. -/
theorem rowAt_readyState (k t : Nat) (e : EngineOp) (s : State) (j r u : Nat) :
    rowAt (readyState k t e s) j r u = rowAt s j r u := by
  rw [readyState, freshOp_eq, rowAt_modCore numbered (fun _ => rfl) (fun _ => rfl),
    (reports_operandsTested k t e s).rowAt]

theorem startedRun_eq (k t : Nat) (e : EngineOp) (contract : Nat) (s : State) :
    startedRun k t e contract s
      = begunRun k t e contract (freshOp k (operandsTested k t e s)).1 (coreOf s k) s := by
  unfold startedRun begunRun
  simp only [rowAt_readyState]

/-- Core `d` is core `c` after it began run `m`: the run is under way, `a` is planned where it empties a slot, and the engine's
queue, its banks and tiles, the tags and the settled rows stand. -/
structure Began (m : MxRun) (a : TagAct) (c d : Core) : Prop where
  queue : d.eng.mxQueue = c.eng.mxQueue
  banks : d.eng.banks = c.eng.banks
  tiles : d.eng.tiles = c.eng.tiles
  tags : d.tags = c.tags
  rows : d.rows = c.rows
  run : ∃ mixes, { m with mixes := mixes } ∈ d.eng.mxRuns
  planned : a.empties ≠ [] → a ∈ d.eng.tagActs

theorem planTags_eq (a : TagAct) (c : Core) : ∃ acts, planTags a c = { c with eng := { c.eng with tagActs := acts } }
    ∧ (a.empties ≠ [] → a ∈ acts) := by
  unfold planTags
  split
  · rename_i h
    rw [Bool.and_eq_true, List.isEmpty_iff] at h
    exact ⟨c.eng.tagActs, rfl, fun hne => absurd h.1 hne⟩
  · exact ⟨_, rfl, fun _ => List.mem_append_right _ (List.mem_singleton_self a)⟩

theorem began_withRun (m : MxRun) (a : TagAct) (c : Core) : Began m a c (withRun m a c) := by
  obtain ⟨acts, he, ha⟩ := planTags_eq a { c with eng := { c.eng with
    mxRuns := c.eng.mxRuns ++ [m], mxIdle := max c.eng.mxIdle (doneCycle m.t0 m.word m.occ m.lat) } }
  rw [withRun, he]
  exact ⟨rfl, rfl, rfl, rfl, rfl, ⟨m.mixes, List.mem_append_right _ (List.mem_singleton_self m)⟩, ha⟩

theorem Began.mixing {a : TagAct} {d' : Core} (h : Began m a c d) (hm : Mixing d d') : Began m a c d' := by
  obtain ⟨mix, wins, rfl⟩ := hm
  obtain ⟨mixes, hrun⟩ := h.run
  have hmixed := List.mem_map_of_mem (f := withMixes mix) hrun
  exact ⟨h.queue, h.banks, h.tiles, h.tags, h.rows, ⟨_, hmixed⟩, h.planned⟩

theorem Began.of_reports {a : TagAct} {c' : Core} (h : CoreSame c c') (hb : Began m a (numbered c') d) : Began m a c d := by
  obtain ⟨st, su, rfl⟩ := h
  exact ⟨hb.queue, hb.banks, hb.tiles, hb.tags, hb.rows, hb.run, hb.planned⟩

/-- What a start does to its core. -/
theorem began_matrixStart (k t : Nat) (e : EngineOp) (contract : Nat) (s : State) :
    Began (startedRun k t e contract s) (release t (coreOf s k) e.word) (coreOf s k)
      (coreOf (matrixStart k t e contract s) k) := by
  refine Began.of_reports ((reports_operandsTested k t e s).core k) ?_
  have hb := began_withRun (startedRun k t e contract s) (release t (coreOf s k) e.word)
    (numbered (coreOf (operandsTested k t e s) k))
  rw [← coreOf_modCore_same (operandsTested k t e s) k numbered, ← freshOp_eq, ← readyState] at hb ⊢
  rw [← coreOf_modCore_same (readyState k t e s) k (withRun _ _)] at hb
  rw [matrixStart_eq]
  dsimp only
  split
  · exact hb
  · exact hb.mixing (mixing_openWin k rfl _)

theorem mem_consumedSlots {o : BitVec 128} {x : Nat} (hn : 1 ≤ mxKsteps o)
    (h : mxAConsume o = true ∧ x = mxASlot o ∨ mxBConsume o = true ∧ x = mxBSlot o) : x ∈ consumedSlots o := by
  unfold consumedSlots
  rw [List.mem_eraseDups, List.mem_append]
  rcases h with ⟨hc, rfl⟩ | ⟨hc, rfl⟩
  · exact .inl (by simp [hc, hn])
  · exact .inr (by simp [hc, hn])

/-- The consumed slots are emptied in the cycle after the last occupied one, later by what a deep row adds. -/
theorem release_cycle (t : Nat) (c : Core) (o : BitVec 128) :
    (release t c o).cycle = t + max (mxKsteps o * mxOcc o) 32 + stepDeep c o := by
  rw [release, lastCycle, mxKsteps_mul_stepOcc]
  dsimp only
  omega

/-! ### The head of the queue -/

/-- A core whose matrix engine is left with the operations `es` in its queue and is occupied by `o` from cycle `t` on. -/
def occupiedBy (t : Nat) (o : BitVec 128) (es : List EngineOp) (c : Core) : Core :=
  { c with eng := { c.eng with mxQueue := es, mxIdle := max c.eng.mxIdle (t + max (mxKsteps o * mxOcc o) 32) } }

theorem exec_matrixStepStart {k : CoreId} (henter : enterCycle (coreNo k) t s = some (i, b, s1))
    (hq : (coreOf s1 (coreNo k)).eng.mxQueue = e :: es) (ht : e.start = t) :
    exec (.matrixStepStart k t) s =
      let u := modCore (coreNo k) (occupiedBy t e.word es) s1
      .next (if e.shim then u else matrixStart (coreNo k) t e b.contract u) := by
  show execMatrixStepStart k t s = _
  simp only [execMatrixStepStart, henter, hq, ht, ne_eq, not_true_eq_false, if_false]
  rfl

theorem rowAt_occupied (k t : Nat) (o : BitVec 128) (es : List EngineOp) (s : State) (j r u : Nat) :
    rowAt (modCore k (occupiedBy t o es) s) j r u = rowAt s j r u := 
  rowAt_modCore (occupiedBy t o es) (fun _ => rfl) (fun _ => rfl) s j r u

/-- Settles O19: the head of the queue leaves it; a shim occupies the engine, and any other begins its run. -/
theorem matrixStepsStart : Obligations.MatrixStepsStart := by
  intro k t i b e es s s1 n c o fa fb aRows bRows henter hq ht
  have hexec := exec_matrixStepStart henter hq ht
  have hcore : coreOf (modCore n (occupiedBy t o es) s1) n = occupiedBy t o es c := coreOf_modCore_same _ _ _
  refine ⟨fun hshim => ?shim, fun hshim => ?step⟩
  case shim =>
    rw [hshim] at hexec
    exact ⟨_, hexec, hcore, fun j hj => coreOf_modCore_ne _ _ hj⟩
  case step =>
    rw [hshim] at hexec
    have hb := began_matrixStart n t e b.contract (modCore n (occupiedBy t o es) s1)
    rw [hcore, startedRun_eq, hcore, begunRun] at hb
    simp only [rowAt_occupied] at hb
    obtain ⟨mixes, hrun⟩ := hb.run
    refine ⟨_, _, hexec, hb.queue, hb.banks, hb.tiles, hb.tags, hb.rows, hrun, rfl, rfl, rfl, rfl, rfl, rfl, rfl,
      fun x hn hx => ?_⟩
    have hmem : x ∈ (release t (occupiedBy t o es c) o).empties := mem_consumedSlots hn hx
    exact ⟨_, hb.planned (List.ne_nil_of_mem hmem), rfl, hmem, release_cycle t (occupiedBy t o es c) o⟩

end Sys2Proof.MatrixFamily

namespace Sys2Proof.MatrixFamily

open Machine Laws SequencerFamily

variable {k t i : Nat} {b : Bay} {c d : Core} {m : MxRun} {s s1 : State}

/-! ## The examination of a bank (R541) -/

theorem coreError_ne {j : Nat} (t cls unit off : Nat) (inj : Bool) (s : State) (h : j ≠ k) :
    coreOf (coreError k t cls unit off inj s) j = coreOf s j := by
  unfold coreError
  rw [coreOf_of_cores ((within_reportUncorrectable (S := [.host, .ev, .fw, .err, .hostMem, .bootLog]) (res := none)
    ((Covers.self _).mono (by decide)) (Within.refl _ _)).frame .cores (by decide)),
    coreOf_faultCoreBay, coreOf_modCore_ne _ _ h]

theorem examineAcc_ne {j : Nat} (t place : Nat) (s : State) (h : j ≠ k) :
    coreOf (examineAcc k t place s) j = coreOf s j := by
  unfold examineAcc
  dsimp only
  have hexamine := coreOf_of_cores ((within_examine (S := [.host, .ev, .fw, .err, .hostMem, .bootLog]) (point := 5)
    (f := fun x => aimsCore k x && x.addr == place) ((Covers.self _).mono (by decide)) (Within.refl _ s)).frame .cores
    (by decide)) j
  split
  · rw [coreError_ne _ _ _ _ _ _ h, hexamine]
  · rfl

/-! ## Flags that an addition sets (R115) -/

theorem flagsOr_noFlags (f : NumFlags) : flagsOr f noFlags = f := by
  simp [flagsOr, noFlags]

theorem setFlagsAt_eq (t : Nat) (f : NumFlags) (op : Nat) (c : Core) :
    ∃ due, setFlagsAt t f op c = { c with eng := { c.eng with flagsDue := due } } := by
  unfold setFlagsAt
  split
  · exact ⟨c.eng.flagsDue, rfl⟩
  · exact ⟨_, rfl⟩

/-- The flags that an operation sets in a cycle are seen from the next one on. -/
theorem flagsAt_setFlagsAt (t : Nat) (f : NumFlags) (op : Nat) (c : Core) :
    flagsAt (setFlagsAt t f op c) (t + 1) = flagsOr (flagsAt c (t + 1)) f := by
  unfold setFlagsAt
  split
  · rename_i h
    rw [h, flagsOr_noFlags]
  · unfold flagsAt
    rw [List.foldl_append, List.foldl_cons, List.foldl_nil, if_pos (Nat.lt_succ_self t)]

theorem flagsAt_marked (h : CoreMarked c d) (t : Nat) : flagsAt d t = flagsAt c t := by
  obtain ⟨_, _, rfl⟩ := h
  rfl

/-! ## BANK_COMPLETE (R129 to R133) -/

/-- A run whose rows nobody wrote finds them as it read them. -/
theorem mixedRun_unmixed (h : m.mixes = []) (n : Nat) : mixedRun m n = m := by
  unfold mixedRun
  rw [h, mixedRows]
  dsimp only
  rw [List.take_left, List.drop_left, ← h]

/-- The bank's new rows, with the flags, of the addition that is due. -/
def additionOf (m : MxRun) (s : State) (c : Core) : List Row × NumFlags :=
  mxAdd (mixedRun m s.freeCtr) (c.eng.banks.getD (mxBank m.word) [])

/-- The runs after an addition of run `m`. -/
def runsAfter (m : MxRun) (runs : List MxRun) : List MxRun :=
  if decide (m.done + 1 ≥ mxKsteps m.word) then runs.filter (fun x => x.op != m.op)
  else runs.map (fun x => if x.op == m.op then { x with done := x.done + 1 } else x)

/-- The tiles on their way after an addition of run `m` in cycle `t` that makes the bank's rows `bank`. -/
def drainsAfter (t : Nat) (m : MxRun) (bank : List Row) (drains : List TileMove) : List TileMove :=
  drains.map (drainOn (mxBank m.word) t bank)
    ++ (if decide (m.done + 1 ≥ mxKsteps m.word) && mxDrain m.word then [⟨m.idx, t + 32, mxBank m.word, bank⟩] else [])

/-- A core after an addition of run `m`. -/
def added (t : Nat) (m : MxRun) (r : List Row × NumFlags) (c : Core) : Core :=
  setFlagsAt t r.2 m.op { c with eng := { c.eng with
    mxRuns := runsAfter m c.eng.mxRuns, drains := drainsAfter t m r.1 c.eng.drains,
    banks := c.eng.banks.set (mxBank m.word) r.1 } }

theorem exec_bankComplete {k : CoreId} (henter : enterCycle (coreNo k) t s = some (i, b, s1))
    (hm : (coreOf s1 (coreNo k)).eng.mxRuns.find? (fun m => mxAddCycle m == t) = some m) :
    exec (.bankComplete k t) s = .next (examineAcc (coreNo k) t (mxBank m.word)
      (modCore (coreNo k) (added t m (additionOf m s1 (coreOf s1 (coreNo k))))
        { s1 with freeCtr := s1.freeCtr + m.mixes.length })) := by
  show execBankComplete k t s = _
  simp only [execBankComplete, henter, hm]
  rfl

theorem runsAfter_more (h : m.done + 1 < mxKsteps m.word) (runs : List MxRun) :
    runsAfter m runs = runs.map (fun x => if x.op == m.op then { x with done := x.done + 1 } else x) := by
  rw [runsAfter, if_neg]
  simpa using h

theorem runsAfter_last (h : mxKsteps m.word ≤ m.done + 1) (runs : List MxRun) :
    runsAfter m runs = runs.filter (fun x => x.op != m.op) := by
  rw [runsAfter, if_pos (decide_eq_true h)]

theorem drainsAfter_more (h : m.done + 1 < mxKsteps m.word) (bank : List Row) (drains : List TileMove) :
    drainsAfter t m bank drains = drains.map (drainOn (mxBank m.word) t bank) := by
  rw [drainsAfter, decide_eq_false (Nat.not_le.mpr h)]
  exact List.append_nil _

theorem drainsAfter_last (h : mxKsteps m.word ≤ m.done + 1) (bank : List Row) (drains : List TileMove) :
    drainsAfter t m bank drains = drains.map (drainOn (mxBank m.word) t bank)
      ++ (if mxDrain m.word = true then [⟨m.idx, t + 32, mxBank m.word, bank⟩] else []) := by
  rw [drainsAfter, decide_eq_true h, Bool.true_and]

/-- What an addition does to its core. -/
structure Added (t : Nat) (m : MxRun) (r : List Row × NumFlags) (c d : Core) : Prop where
  banks : d.eng.banks = c.eng.banks.set (mxBank m.word) r.1
  flags : flagsAt d (t + 1) = flagsOr (flagsAt c (t + 1)) r.2
  runs : d.eng.mxRuns = runsAfter m c.eng.mxRuns
  drains : d.eng.drains = drainsAfter t m r.1 c.eng.drains
  tiles : d.eng.tiles = c.eng.tiles
  tags : d.tags = c.tags
  rows : d.rows = c.rows
  seq : d.seq = c.seq

theorem added_added (t : Nat) (m : MxRun) (r : List Row × NumFlags) (c : Core) : Added t m r c (added t m r c) := by
  have hflags : flagsAt (added t m r c) (t + 1) = flagsOr (flagsAt c (t + 1)) r.2 := flagsAt_setFlagsAt _ _ _ _
  revert hflags
  unfold added
  obtain ⟨due, hdue⟩ := setFlagsAt_eq t r.2 m.op { c with eng := { c.eng with
    mxRuns := runsAfter m c.eng.mxRuns, drains := drainsAfter t m r.1 c.eng.drains,
    banks := c.eng.banks.set (mxBank m.word) r.1 } }
  rw [hdue]
  exact fun hflags => ⟨rfl, hflags, rfl, rfl, rfl, rfl, rfl, rfl⟩

theorem Added.marked {r : List Row × NumFlags} {e : Core} (h : Added t m r c d) (hm : CoreMarked d e) : Added t m r c e where
  banks := by rw [hm.eng, h.banks]
  flags := by rw [flagsAt_marked hm, h.flags]
  runs := by rw [hm.eng, h.runs]
  drains := by rw [hm.eng, h.drains]
  tiles := by rw [hm.eng, h.tiles]
  tags := by rw [hm.tags, h.tags]
  rows := by rw [hm.rows, h.rows]
  seq := by rw [hm.seq, h.seq]

/-- The addition that is due is made, and no other core changes. -/
theorem bankComplete_adds {k : CoreId} (henter : enterCycle (coreNo k) t s = some (i, b, s1))
    (hm : (coreOf s1 (coreNo k)).eng.mxRuns.find? (fun m => mxAddCycle m == t) = some m) :
    ∃ u, exec (.bankComplete k t) s = .next u
      ∧ Added t m (additionOf m s1 (coreOf s1 (coreNo k))) (coreOf s1 (coreNo k)) (coreOf u (coreNo k))
      ∧ ∀ j, j ≠ coreNo k → coreOf u j = coreOf s1 j := by
  refine ⟨_, exec_bankComplete henter hm, ?_, fun j hj => ?_⟩
  · refine Added.marked ?_ ((marks_examineAcc _ _ _ _).core _)
    rw [coreOf_modCore_same]
    exact added_added t m _ (coreOf s1 (coreNo k))
  · rw [examineAcc_ne _ _ _ hj, coreOf_modCore_ne _ _ hj]
    rfl

/-! ## TILE_IN_QUEUE (R131, R135, R136) -/

/-- A core whose drains that end in cycle `t` are over, before a tile of them is in queue. -/
def drained (t : Nat) (c : Core) : Core :=
  { c with eng := { c.eng with drains := c.eng.drains.filter (fun x => x.cycle != t), tiles := tilesAt c (t + 1) } }

/-- A core that has one more tile in queue. -/
def withTile (t : Nat) (rows : List Row) (c : Core) : Core :=
  { c with
    eng := { c.eng with tiles := c.eng.tiles ++ [⟨t + 1, none, rows⟩] }
    st := { c.st with tilesOut := satInc 65535 c.st.tilesOut } }

/-- A tile is discarded and counted. -/
def countOverrun (st : CoreStatus) : CoreStatus := { st with tileOverrun := satInc 4095 st.tileOverrun }

/-- A tile finds the queue full. -/
def overrun (k t : Nat) (d : TileMove) (s : State) : State :=
  noteEvent k 3 0 d.idx t (coreOf s k).eng.tiles.length countOverrun s

/-- The tiles that a tile finds in queue. -/
def tilesFound (t : Nat) (c : Core) : Nat := (tilesAt c (t + 1)).length - b2n (removesNow c t)

theorem exec_tileInQueue {k : CoreId} {d : TileMove} (henter : enterCycle (coreNo k) t s = some (i, b, s1))
    (hd : (coreOf s1 (coreNo k)).eng.drains.find? (fun d => d.cycle == t) = some d) :
    exec (.tileInQueue k t) s =
      let u := modCore (coreNo k) (drained t) s1
      if tilesFound t (coreOf s1 (coreNo k)) ≥ 4 then .next (overrun (coreNo k) t d u)
      else .next (modCore (coreNo k) (withTile t d.rows) u) := by
  show execTileInQueue k t s = _
  simp only [execTileInQueue, henter, hd, coreOf_modCore_same, tilesFound, overrun]
  rfl

/-- An event is counted, or nothing but the bay takes a record of it. -/
theorem noteEvent_core (k cls sub index cycle detail : Nat) (f : CoreStatus → CoreStatus) (s : State) :
    coreOf (noteEvent k cls sub index cycle detail f s) k = coreOf s k
      ∨ coreOf (noteEvent k cls sub index cycle detail f s) k = { coreOf s k with st := f (coreOf s k).st } := by
  unfold noteEvent
  split
  · split
    · exact .inl rfl
    · exact .inr (coreOf_modCore_same _ _ _)
  · exact .inr (coreOf_modCore_same _ _ _)

/-- What a tile that finds the queue full leaves of its core. -/
theorem overrun_core (k t : Nat) (d : TileMove) (s : State) :
    (coreOf (overrun k t d s) k).eng = (coreOf s k).eng
      ∧ (coreOf (overrun k t d s) k).st.tilesOut = (coreOf s k).st.tilesOut := by
  rcases noteEvent_core k 3 0 d.idx t (coreOf s k).eng.tiles.length countOverrun s with h | h <;> rw [overrun, h]
  · exact ⟨rfl, rfl⟩
  · exact ⟨rfl, rfl⟩

/-- A record that is written stands behind the others. -/
theorem trapBay_traps {b : Bay} (tr : Trap) (h : b.traps.length < 16) : (trapBay tr b).traps = b.traps ++ [tr] := by
  unfold trapBay
  rw [if_pos h]
  dsimp only
  split <;> rfl

/-- Settles O21: the addition that is due is made, and the tile that is due enters the queue where it has room. -/
theorem banksCompleteAndTilesWait : Obligations.BanksCompleteAndTilesWait := by
  refine ⟨?bank, ?tile⟩
  case bank =>
    intro k t i b m s s1 n c sums drains henter hm
    obtain ⟨u, hu, ha, hothers⟩ := bankComplete_adds henter hm
    refine ⟨u, hu, ha.banks, ha.flags, fun h => mixedRun_unmixed h _, fun hmore => ⟨?_, ?_⟩, fun hlast => ⟨?_, ?_⟩,
      ha.tiles, ha.tags, ha.rows, ha.seq, hothers⟩
    · exact ha.drains.trans (drainsAfter_more hmore _ _)
    · exact ha.runs.trans (runsAfter_more hmore _)
    · exact ha.runs.trans (runsAfter_last hlast _)
    · exact ha.drains.trans (drainsAfter_last hlast _ _)
  case tile =>
    intro k t i b d s s1 n c tiles inQueue henter hd
    have hexec := exec_tileInQueue henter hd
    have hcore : coreOf (modCore n (drained t) s1) n = drained t c := coreOf_modCore_same _ _ _
    have hothers : ∀ j, j ≠ n → coreOf (modCore n (drained t) s1) j = coreOf s1 j := fun j hj => coreOf_modCore_ne _ _ hj
    refine ⟨fun hroom => ?room, fun hfull => ?full⟩
    case room =>
      refine ⟨_, hexec.trans (if_neg (Nat.not_le.mpr hroom)), ?_, fun j hj => ?_⟩
      · rw [coreOf_modCore_same, hcore]
        rfl
      · rw [coreOf_modCore_ne _ _ hj, hothers j hj]
    case full =>
      obtain ⟨heng, hout⟩ := overrun_core n t d (modCore n (drained t) s1)
      rw [hcore] at heng hout
      refine ⟨_, hexec.trans (if_pos hfull), by rw [heng]; rfl, hout, fun q b hb hz => ?_, fun q b hb hz hlen => ?_,
        fun j hj => (noteEvent_ne _ _ _ _ _ _ _ hj).trans (hothers j hj)⟩
      · have hz' : ∀ i b, bayOfCore (modCore n (drained t) s1) n = some (i, b) → b.hazard = false := fun i b' h => by
          rw [bayOfCore_of_bays (modCore_bays s1 n (drained t)), hb] at h
          cases h
          exact hz
        rw [overrun, noteEvent_counts hz', coreOf_modCore_same, hcore]
        rfl
      · have hb' : bayOfCore (modCore n (drained t) s1) n = some (q, b) := hb
        exact ⟨_, _, noteEvent_traps hb' hz, trapBay_traps _ hlen, rfl, rfl, rfl⟩

end Sys2Proof.MatrixFamily

/-! Proofs of the family of the vector engine: the writes of rows that a chain or a scan call plans, and O20. -/

namespace Sys2Proof.VectorFamily

open Machine Laws SequencerFamily MatrixFamily

variable {k t i : Nat} {b : Bay} {e : EngineOp} {es : List EngineOp} {c d : Core} {s s1 u : State}

/-! ## What the writing of rows leaves of a core (R161, R162)

A row written under the read of an operation spoils it, and a scan call that is still to read it is planned again. Of every core
this changes what is written and due, and nothing else. -/

/-- Two cores differ at most in the rows written and to be written, in what the runs of the matrix engine find mixed, in the scan
calls' plans, and in the flags due. -/
def Rewritten (c d : Core) : Prop :=
  ∃ ws bad runs due scs, d = { c with
    writes := ws
    badWords := bad
    eng := { c.eng with mxRuns := runs, flagsDue := due, scRuns := scs } }

theorem Rewritten.refl (c : Core) : Rewritten c c := ⟨_, _, _, _, _, rfl⟩

theorem Rewritten.trans {e : Core} (h : Rewritten c d) (h' : Rewritten d e) : Rewritten c e := by
  obtain ⟨ws, bad, runs, due, scs, rfl⟩ := h
  obtain ⟨ws', bad', runs', due', scs', rfl⟩ := h'
  exact ⟨ws', bad', runs', due', scs', rfl⟩

/-- From `s` to `u` rows are written, with what follows from it. -/
structure Rewrites (s u : State) : Prop where
  core : ∀ j, Rewritten (coreOf s j) (coreOf u j)
  bays : u.bays = s.bays

theorem Rewrites.refl (s : State) : Rewrites s s := ⟨fun _ => Rewritten.refl _, rfl⟩

theorem Rewrites.trans {v : State} (h : Rewrites s u) (h' : Rewrites u v) : Rewrites s v :=
  ⟨fun j => (h.core j).trans (h'.core j), h'.bays.trans h.bays⟩

theorem rewrites_foldl {α : Type} {f : State → α → State} (h : ∀ s a, Rewrites s (f s a)) (l : List α) (s : State) :
    Rewrites s (l.foldl f s) := by
  induction l generalizing s with
  | nil => exact Rewrites.refl s
  | cons a l ih => exact (h s a).trans (ih _)

theorem rewrites_modCore {f : Core → Core} (h : ∀ c, Rewritten c (f c)) (k : Nat) (s : State) :
    Rewrites s (modCore k f s) := by
  refine ⟨fun j => ?_, rfl⟩
  by_cases hj : j = k
  · rw [hj, coreOf_modCore_same]
    exact h _
  · rw [coreOf_modCore_ne _ _ hj]
    exact Rewritten.refl _

/-- One core's writes become free values. -/
def taintCore (op : Nat) (s : State) (k : Nat) : State :=
  modCore k (fun c => { c with writes := (taintWrites op c.writes s.freeCtr).1 })
    { s with freeCtr := (taintWrites op (coreOf s k).writes s.freeCtr).2 }

theorem taintOp_eq (k op : Nat) (s : State) : taintOp k op s = (blockCores s k).foldl (taintCore op) s := rfl

theorem rewrites_taintOp (k op : Nat) (s : State) : Rewrites s (taintOp k op s) := by
  rw [taintOp_eq]
  refine rewrites_foldl (fun s j => ?_) _ s
  have h : Rewrites { s with freeCtr := (taintWrites op (coreOf s j).writes s.freeCtr).2 } (taintCore op s j) :=
    rewrites_modCore (fun _ => ⟨_, _, _, _, _, rfl⟩) _ _
  exact ⟨h.core, h.bays⟩

theorem rewrites_spoilOp (k : Nat) (p : Nat × Nat) (data : Row) (s : State) (w : ReadWin) :
    Rewrites s (spoilOp k p data s w) := by
  unfold spoilOp
  split
  · exact rewrites_modCore (fun _ => ⟨_, _, _, _, _, rfl⟩) _ _
  · exact rewrites_taintOp _ _ _

/-- A core with one more row written, whose words are good again. -/
def stored (p : Nat × Nat) (stamp : Nat) (data : Row) (u : RowUnit) (op : Nat) (c : Core) : Core :=
  { c with
    writes := c.writes ++ [⟨stamp, p.2, data, u, op⟩]
    badWords := c.badWords.filter (fun w => w / 64 != p.2) }

/-- The operations that a write of a row spoils. -/
def spoilt (p : Nat × Nat) (stamp : Nat) (u : RowUnit) (s : State) : List ReadWin :=
  (coreOf s (readerOf s p.1)).eng.readWins.filter (fun w => winHit (readerOf s p.1) w u p stamp)

theorem storeRow_eq (p : Nat × Nat) (stamp : Nat) (data : Row) (u : RowUnit) (op : Nat) (s : State) :
    storeRow p stamp data u op s
      = (spoilt p stamp u s).foldl (spoilOp (readerOf s p.1) p data) (modCore p.1 (stored p stamp data u op) s) := rfl

theorem rewrites_storeRow (p : Nat × Nat) (stamp : Nat) (data : Row) (u : RowUnit) (op : Nat) (s : State) :
    Rewrites s (storeRow p stamp data u op s) := by
  rw [storeRow_eq]
  exact (rewrites_modCore (fun _ => ⟨_, _, _, _, _, rfl⟩) _ _).trans
    (rewrites_foldl (fun s w => rewrites_spoilOp _ _ _ s w) _ _)

theorem rewrites_setFlags (k t : Nat) (f : NumFlags) (op : Nat) (s : State) : Rewrites s (modCore k (setFlagsAt t f op) s) := by
  refine rewrites_modCore (fun c => ?_) k s
  obtain ⟨due, h⟩ := setFlagsAt_eq t f op c
  exact ⟨_, _, _, due, _, h⟩

/-- One row of a call, with the flags set with it. -/
def putScanRow (k op since : Nat) (s : State) (x : ScanWrite) : State :=
  if since ≤ x.2.1 then
    modCore k (setFlagsAt x.2.1 x.2.2.2 op) (storeRow (rowPlace k x.1) (x.2.1 + 1) x.2.2.1 .sc op s)
  else s

theorem putScan_eq (k op since : Nat) (outs : List ScanWrite) (s : State) :
    putScan k op since outs s = outs.foldl (putScanRow k op since) s := rfl

theorem rewrites_putScanRow (k op since : Nat) (s : State) (x : ScanWrite) : Rewrites s (putScanRow k op since s x) := by
  unfold putScanRow
  split
  · exact (rewrites_storeRow _ _ _ _ _ _).trans (rewrites_setFlags _ _ _ _ _)
  · exact Rewrites.refl s

/-- Of the writes, a row of a call changes what its store changes. -/
theorem putScanRow_writes (k op : Nat) (s : State) (x : ScanWrite) (j : Nat) :
    (coreOf (putScanRow k op 0 s x) j).writes
      = (coreOf (storeRow (rowPlace k x.1) (x.2.1 + 1) x.2.2.1 .sc op s) j).writes := by
  rw [putScanRow, if_pos (Nat.zero_le _)]
  by_cases hj : j = k
  · obtain ⟨due, h⟩ := setFlagsAt_eq x.2.1 x.2.2.2 op (coreOf (storeRow (rowPlace k x.1) (x.2.1 + 1) x.2.2.1 .sc op s) k)
    rw [hj, coreOf_modCore_same, h]
  · rw [coreOf_modCore_ne _ _ hj]

theorem readerOf_of_bays (h : u.bays = s.bays) (k : Nat) : readerOf u k = readerOf s k := by
  unfold readerOf coreDeep
  rw [bayOfCore_of_bays h]

theorem Rewritten.readWins (h : Rewritten c d) : d.eng.readWins = c.eng.readWins := by
  obtain ⟨_, _, _, _, _, rfl⟩ := h
  rfl

/-- The writing of rows opens and closes no window. -/
theorem Rewrites.spoilt (h : Rewrites s u) (p : Nat × Nat) (stamp : Nat) (x : RowUnit) :
    spoilt p stamp x u = spoilt p stamp x s := by
  unfold VectorFamily.spoilt
  rw [readerOf_of_bays h.bays, (h.core _).readWins]

/-- A write that no operation notices stands behind the others. -/
theorem storeRow_unnoticed {p : Nat × Nat} {stamp : Nat} {x : RowUnit} (h : spoilt p stamp x s = []) (data : Row) (op : Nat) :
    storeRow p stamp data x op s = modCore p.1 (stored p stamp data x op) s := by
  rw [storeRow_eq, h]
  rfl

/-- A write that spoils an operation of a core whose block is itself leaves free values where that operation writes. -/
theorem storeRow_taints {p : Nat × Nat} {stamp : Nat} {x : RowUnit} {w : ReadWin} (h : spoilt p stamp x s = [w])
    (hw : w.unit ≠ .mx) (hr : readerOf s p.1 = p.1) (hd : coreDeep s p.1 = false) (data : Row) (op : Nat) :
    (coreOf (storeRow p stamp data x op s) p.1).writes
      = (taintWrites w.op ((coreOf s p.1).writes ++ [⟨stamp, p.2, data, x, op⟩]) s.freeCtr).1 := by
  have hb : blockCores (modCore p.1 (stored p stamp data x op) s) p.1 = [p.1] := by
    rw [blockCores, if_neg]
    rw [show coreDeep (modCore p.1 (stored p stamp data x op) s) p.1 = coreDeep s p.1 from rfl, hd]
    decide
  rw [storeRow_eq, h, hr, List.foldl_cons, List.foldl_nil, spoilOp, if_neg hw, taintOp_eq, hb, List.foldl_cons, List.foldl_nil,
    taintCore, coreOf_modCore_same]
  show (taintWrites w.op (coreOf (modCore p.1 (stored p stamp data x op) s) p.1).writes s.freeCtr).1 = _
  rw [coreOf_modCore_same]
  rfl

/-- Of two rows of a call the first is spoilt as it is written, and the second is written unnoticed. -/
theorem putScan_tainted_plain {k d d' j p p' n : Nat} {x x' : Row} {f f' : NumFlags} {w : ReadWin}
    (hp : rowPlace k d = (j, p)) (hp' : rowPlace k d' = (j, p')) (htaint : spoilt (j, p) (n + 1) .sc s = [w])
    (hplain : spoilt (j, p') (n + 1) .sc s = []) (hw : w.unit ≠ .mx) (hr : readerOf s j = j) (hd : coreDeep s j = false)
    (hnone : (coreOf s j).writes = []) :
    (coreOf (putScan k w.op 0 [(d, n, x, f), (d', n, x', f')] s) j).writes
      = [⟨n + 1, p, BitVec.ofNat 4096 (Config.freeValue s.freeCtr), .sc, w.op⟩, ⟨n + 1, p', x', .sc, w.op⟩] := by
  have hfirst := storeRow_taints htaint hw hr hd x w.op
  have hsecond := ((rewrites_putScanRow k w.op 0 s (d, n, x, f)).spoilt (j, p') (n + 1) .sc).trans hplain
  rw [hnone, List.nil_append, taintWrites, if_pos rfl, taintWrites] at hfirst
  rw [putScan_eq, List.foldl_cons, List.foldl_cons, List.foldl_nil, putScanRow_writes, hp', storeRow_unnoticed hsecond,
    coreOf_modCore_same, stored, putScanRow_writes, hp, hfirst]
  rfl

end Sys2Proof.VectorFamily

namespace Sys2Proof.VectorFamily

open Machine Laws SequencerFamily MatrixFamily

variable {k t i : Nat} {b : Bay} {e : EngineOp} {es : List EngineOp} {c d : Core} {s s1 u : State}

/-! ## What the tests of a start leave (R192, R537 to R541)

A test counts or traps, an examination faults the bay. Where the state has its form (O3) neither changes which core reads a row. -/

/-- The readers of the rows stay where the form of the state is kept. -/
def KeepsReaders (s u : State) : Prop := Kept s → Kept u ∧ ∀ j, coreDeep u j = coreDeep s j

theorem KeepsReaders.refl (s : State) : KeepsReaders s s := fun h => ⟨h, fun _ => rfl⟩

theorem KeepsReaders.trans {v : State} (h : KeepsReaders s u) (h' : KeepsReaders u v) : KeepsReaders s v := fun hs => by
  obtain ⟨hu, hsame⟩ := h hs
  obtain ⟨hv, hsame'⟩ := h' hu
  exact ⟨hv, fun j => (hsame' j).trans (hsame j)⟩

theorem coreDeep_of_bays (h : u.bays = s.bays) (j : Nat) : coreDeep u j = coreDeep s j := by
  unfold coreDeep
  rw [bayOfCore_of_bays h]

theorem keepsReaders_of_bays {S : List StatePart} (h : Within S s u) (hbays : StatePart.bays ∉ S) : KeepsReaders s u :=
  fun hs => ⟨h.kept hs, coreDeep_of_bays (h.frame .bays hbays)⟩

/-- The deep mode of the bay that holds a core, in a list of bays. -/
def deepIn (l : List (Nat × Bay)) (j : Nat) : Bool :=
  match l.find? (fun p => inBay p.2 j) with
  | some (_, b) => isDeep b
  | none => false

theorem deepIn_cons (p : Nat × Bay) (l : List (Nat × Bay)) (j : Nat) :
    deepIn (p :: l) j = if inBay p.2 j then isDeep p.2 else deepIn l j := by
  unfold deepIn
  rw [List.find?_cons]
  cases inBay p.2 j <;> rfl

theorem lt_of_mem_above {n : Nat} {l : List (Nat × Bay)} (hr : keysRise l = true) (ha : above n l) {p : Nat × Bay}
    (h : p ∈ l) : n < p.1 := by
  induction l generalizing n with
  | nil => cases h
  | cons q l ih =>
    obtain ⟨m, w⟩ := q
    rw [keysRise_cons] at hr
    rcases List.mem_cons.mp h with rfl | h
    · exact ha
    · exact Nat.lt_trans ha (ih hr.2 hr.1 h)

/-- In a list in order a bay gives way to one of the same cores and mode. -/
theorem deepIn_mapPut {l : List (Nat × Bay)} {b' : Bay} (hr : keysRise l = true) (h : (i, b) ∈ l)
    (hin : ∀ j, inBay b' j = inBay b j) (hdeep : isDeep b' = isDeep b) (j : Nat) : deepIn (mapPut l i b') j = deepIn l j := by
  induction l with
  | nil => cases h
  | cons q l ih =>
    obtain ⟨m, w⟩ := q
    rw [keysRise_cons] at hr
    rcases List.mem_cons.mp h with hq | hl
    · cases hq
      rw [mapPut, if_neg (Nat.lt_irrefl _), if_pos rfl, deepIn_cons, deepIn_cons, hin, hdeep]
    · have hlt : m < i := lt_of_mem_above hr.2 hr.1 hl
      rw [mapPut, if_neg (by omega), if_neg (by omega), deepIn_cons, deepIn_cons, ih hr.2 hl]

theorem keepsReaders_setBay {b' : Bay} (h : bayOfCore s k = some (i, b)) (hin : ∀ j, inBay b' j = inBay b j)
    (hdeep : isDeep b' = isDeep b) : KeepsReaders s (setBay i b' s) := fun hs =>
  ⟨(within_setBay (Covers.self _) (Within.refl _ s)).kept hs,
    fun j => deepIn_mapPut hs.bays (List.mem_of_find?_eq_some h) hin hdeep j⟩

theorem keepsReaders_faultCoreBay (code k c : Nat) (s : State) : KeepsReaders s (faultCoreBay code k c s) := by
  unfold faultCoreBay
  split
  · exact KeepsReaders.refl s
  · rename_i i b h
    refine keepsReaders_setBay h (inBay_faultBay code k c b) ?_
    obtain ⟨_, _, _, hb⟩ := bayMarked_faultBay code k c b
    rw [hb]
    rfl

theorem keepsReaders_coreError (k t cls unit off : Nat) (inj : Bool) (s : State) :
    KeepsReaders s (coreError k t cls unit off inj s) := by
  unfold coreError
  exact ((keepsReaders_of_bays (within_modCore (Covers.self _) (Within.refl _ s)) (by decide)).trans
    (keepsReaders_faultCoreBay _ _ _ _)).trans
    (keepsReaders_of_bays (within_reportUncorrectable (S := [.host, .ev, .fw, .err, .hostMem, .bootLog]) (res := none)
      (Covers.self _) (Within.refl _ _)) (by decide))

theorem keepsReaders_foldl {α : Type} {f : State → α → State} (h : ∀ s a, KeepsReaders s (f s a)) (l : List α) (s : State) :
    KeepsReaders s (l.foldl f s) := by
  induction l generalizing s with
  | nil => exact KeepsReaders.refl s
  | cons a l ih => exact (h s a).trans (ih _)

theorem keepsReaders_modCore (k : Nat) (f : Core → Core) (s : State) : KeepsReaders s (modCore k f s) :=
  keepsReaders_of_bays (within_modCore (Covers.self _) (Within.refl _ s)) (by decide)

theorem trapBay_frame (tr : Trap) (b : Bay) :
    (∀ j, inBay (trapBay tr b) j = inBay b j) ∧ isDeep (trapBay tr b) = isDeep b := by
  unfold trapBay requestHold
  dsimp only
  constructor
  · intro j
    split <;> split <;> rfl
  · split <;> split <;> rfl

theorem keepsReaders_noteEvent (k cls sub index cycle detail : Nat) (f : CoreStatus → CoreStatus) (s : State) :
    KeepsReaders s (noteEvent k cls sub index cycle detail f s) := by
  unfold noteEvent
  split
  · rename_i i b h
    split
    · exact keepsReaders_setBay h (trapBay_frame _ b).1 (trapBay_frame _ b).2
    · exact keepsReaders_modCore _ _ _
  · exact keepsReaders_modCore _ _ _

theorem keepsReaders_expectTag (k slot : Nat) (full : Bool) (index t : Nat) (s : State) :
    KeepsReaders s (expectTag k slot full index t s) := by
  unfold expectTag
  split
  · exact KeepsReaders.refl s
  · exact keepsReaders_noteEvent _ _ _ _ _ _ _ _

theorem keepsReaders_suspectError (k t q r cls unit off : Nat) (inj : Bool) (s : State) :
    KeepsReaders s (coreError k t cls unit off inj (suspectRow q r s)) :=
  (keepsReaders_of_bays (within_suspectRow (Covers.self _) (Within.refl _ s)) (by decide)).trans
    (keepsReaders_coreError _ _ _ _ _ _ _)

theorem keepsReaders_examineInj (p : Nat) (f : Injection → Bool) (s : State) : KeepsReaders s (examineInj p f s).2 :=
  keepsReaders_of_bays (within_examineInj (Covers.self _) (Within.refl _ s)) (by decide)

theorem keepsReaders_reportCorrected (n : Nat) (r : LogRec) (s : State) : KeepsReaders s (reportCorrected n r s) :=
  keepsReaders_of_bays (within_reportCorrected (Covers.self _) (Within.refl _ s)) (by decide)

theorem keepsReaders_examineRow (k d t : Nat) (s : State) : KeepsReaders s (examineRow k d t s) := by
  unfold examineRow
  dsimp only
  generalize hread : examineInj 2 _ _ = ue
  have h : KeepsReaders s ue.2 := by
    rw [← hread]
    refine KeepsReaders.trans ?_ (keepsReaders_examineInj _ _ _)
    split
    · exact (keepsReaders_examineInj _ _ _).trans (keepsReaders_reportCorrected _ _ _)
    · exact KeepsReaders.refl s
  split
  · exact h.trans (keepsReaders_suspectError _ _ _ _ _ _ _ _ _)
  · split
    · exact h.trans (keepsReaders_suspectError _ _ _ _ _ _ _ _ _)
    · exact h

theorem keepsReaders_checkReads (k : Nat) (l : List (Nat × Nat)) (s : State) : KeepsReaders s (checkReads k l s) :=
  keepsReaders_foldl (fun s (a : Nat × Nat) => keepsReaders_examineRow k a.1 a.2 s) l s

/-! ### Counters -/

/-- The counters of chains and calls. -/
def startCounts (st : CoreStatus) : Nat × Nat × Nat × Nat := (st.chains, st.vlClamps, st.calls, st.stepsClamps)

/-- From `s` to `u` the tests of a start are made: they report, and count no chain and no call. -/
structure Tested (s u : State) : Prop where
  reports : Reports s u
  counts : ∀ j, startCounts (coreOf u j).st = startCounts (coreOf s j).st

theorem Tested.refl (s : State) : Tested s s := ⟨Reports.refl s, fun _ => rfl⟩

theorem Tested.trans {v : State} (h : Tested s u) (h' : Tested u v) : Tested s v :=
  ⟨h.reports.trans h'.reports, fun j => (h'.counts j).trans (h.counts j)⟩

theorem tested_of_marks (h : Marks s u) : Tested s u := by
  refine ⟨h.reports, fun j => ?_⟩
  obtain ⟨_, _, hj⟩ := h.core j
  rw [hj]
  rfl

theorem tested_foldl {α : Type} {f : State → α → State} (h : ∀ s a, Tested s (f s a)) (l : List α) (s : State) :
    Tested s (l.foldl f s) := by
  induction l generalizing s with
  | nil => exact Tested.refl s
  | cons a l ih => exact (h s a).trans (ih _)

theorem tested_noteEvent {f : CoreStatus → CoreStatus} (hf : ∀ st, startCounts (f st) = startCounts st)
    (k cls sub index cycle detail : Nat) (s : State) : Tested s (noteEvent k cls sub index cycle detail f s) := by
  refine ⟨reports_noteEvent _ _ _ _ _ _ _ _, fun j => ?_⟩
  by_cases hj : j = k
  · rcases noteEvent_core k cls sub index cycle detail f s with h | h <;> rw [hj, h]
    exact hf _
  · rw [noteEvent_ne _ _ _ _ _ _ _ hj]

theorem tested_expectTag (k slot : Nat) (full : Bool) (index t : Nat) (s : State) :
    Tested s (expectTag k slot full index t s) := by
  unfold expectTag
  split
  · exact Tested.refl s
  · refine tested_noteEvent ?_ _ _ _ _ _ _ _
    exact fun _ => rfl

end Sys2Proof.VectorFamily

namespace Sys2Proof.VectorFamily

open Machine Laws SequencerFamily MatrixFamily

variable {k t i j : Nat} {b : Bay} {e : EngineOp} {es : List EngineOp} {c d : Core} {s s1 u : State} {P : RowWrite → Prop}

/-! ## A written row stands

What is written after a row leaves its write in place: a spoilt operation puts free values into its own writes, and a call that is
planned again writes its own rows anew. -/

/-- A write of some kind stands in a core. -/
def Has (P : RowWrite → Prop) (j : Nat) (s : State) : Prop := ∃ w, w ∈ (coreOf s j).writes ∧ P w

/-- From `s` to `u` writes of some kind stay in the cores that have them. -/
def Leaves (P : RowWrite → Prop) (s u : State) : Prop := ∀ j, Has P j s → Has P j u

/-- Writes of some kind stay so when operation `op` is spoilt. -/
def Bears (P : RowWrite → Prop) (op : Nat) : Prop := ∀ w x, P w → w.op = op → P { w with data := x }

theorem leaves_foldl {α : Type} {f : State → α → State} (h : ∀ s a, Leaves P s (f s a)) (l : List α) (s : State) :
    Leaves P s (l.foldl f s) := by
  induction l generalizing s with
  | nil => exact fun _ h => h
  | cons a l ih => exact fun j hj => ih _ j (h s a j hj)

theorem leaves_modCore {f : Core → Core} (h : ∀ c w, w ∈ c.writes → P w → ∃ w', w' ∈ (f c).writes ∧ P w') (k : Nat)
    (s : State) : Leaves P s (modCore k f s) := by
  rintro j ⟨w, hw, hP⟩
  by_cases hj : j = k
  · subst hj
    unfold Has
    rw [coreOf_modCore_same]
    exact h _ w hw hP
  · unfold Has
    rw [coreOf_modCore_ne _ _ hj]
    exact ⟨w, hw, hP⟩

theorem leaves_of_writes {f : Core → Core} (h : ∀ c, (f c).writes = c.writes) (k : Nat) (s : State) :
    Leaves P s (modCore k f s) := leaves_modCore (fun c w hw hP => ⟨w, (h c).symm ▸ hw, hP⟩) k s

theorem mem_taintWrites {op : Nat} (h : Bears P op) {ws : List RowWrite} {w : RowWrite} (hw : w ∈ ws) (hP : P w) (n : Nat) :
    ∃ w', w' ∈ (taintWrites op ws n).1 ∧ P w' := by
  induction ws generalizing n with
  | nil => cases hw
  | cons x ws ih =>
    rw [taintWrites]
    rcases List.mem_cons.mp hw with rfl | hw
    · split
      · rename_i hop
        exact ⟨_, List.mem_cons_self, h w _ hP hop⟩
      · exact ⟨w, List.mem_cons_self, hP⟩
    · split
      · obtain ⟨w', hw', hP'⟩ := ih hw (n + 1)
        exact ⟨w', List.mem_cons_of_mem _ hw', hP'⟩
      · obtain ⟨w', hw', hP'⟩ := ih hw n
        exact ⟨w', List.mem_cons_of_mem _ hw', hP'⟩

theorem leaves_taintOp {op : Nat} (h : Bears P op) (k : Nat) (s : State) : Leaves P s (taintOp k op s) := by
  rw [taintOp_eq]
  refine leaves_foldl (fun s j => ?_) _ s
  have hcore : Leaves P { s with freeCtr := (taintWrites op (coreOf s j).writes s.freeCtr).2 } (taintCore op s j) := by
    refine leaves_modCore ?_ _ _
    exact fun _ _ hw hP => mem_taintWrites h hw hP _
  exact hcore

theorem leaves_spoilOp {w : ReadWin} (h : Bears P w.op) (k : Nat) (p : Nat × Nat) (data : Row) (s : State) :
    Leaves P s (spoilOp k p data s w) := by
  unfold spoilOp
  split
  · exact leaves_of_writes (fun _ => by rfl) _ _
  · exact leaves_taintOp h _ _

theorem mem_stored {w : RowWrite} (hw : w ∈ c.writes) (p : Nat × Nat) (stamp : Nat) (data : Row) (x : RowUnit) (op : Nat) :
    w ∈ (stored p stamp data x op c).writes := List.mem_append_left _ hw

/-- The operations that a write of a row by a unit may spoil bear the writes of some kind. -/
def BearsAt (P : RowWrite → Prop) (j : Nat) (s : State) : Prop :=
  ∀ v, v ∈ (coreOf s (readerOf s j)).eng.readWins → Bears P v.op

theorem leaves_spoilt {p : Nat × Nat} {stamp : Nat} {x : RowUnit} (h : BearsAt P p.1 s) (data : Row) (u : State) :
    Leaves P u ((spoilt p stamp x s).foldl (spoilOp (readerOf s p.1) p data) u) := by
  have hl : ∀ v, v ∈ spoilt p stamp x s → Bears P v.op := fun v hv => h v (List.mem_of_mem_filter hv)
  revert hl
  generalize spoilt p stamp x s = l
  intro hl
  induction l generalizing u with
  | nil => exact fun _ h => h
  | cons v l ih =>
    exact fun j hj => ih _ (fun v hv => hl v (List.mem_cons_of_mem _ hv)) j
      (leaves_spoilOp (hl v List.mem_cons_self) _ _ _ _ j hj)

theorem leaves_storeRow {p : Nat × Nat} (h : BearsAt P p.1 s) (stamp : Nat) (data : Row) (x : RowUnit) (op : Nat) :
    Leaves P s (storeRow p stamp data x op s) := fun j hj => by
  rw [storeRow_eq]
  exact leaves_spoilt h _ _ j (leaves_modCore (fun c w hw hP => ⟨w, mem_stored hw p stamp data x op, hP⟩) _ s j hj)

/-- A row that is stored is written. -/
theorem has_storeRow {p : Nat × Nat} {stamp op : Nat} {data : Row} {x : RowUnit} (h : BearsAt P p.1 s)
    (hP : P ⟨stamp, p.2, data, x, op⟩) : Has P p.1 (storeRow p stamp data x op s) := by
  rw [storeRow_eq]
  refine leaves_spoilt h _ _ p.1 ⟨_, ?_, hP⟩
  rw [coreOf_modCore_same]
  exact List.mem_append_right _ (List.mem_singleton_self _)

theorem leaves_putScanRow {k op since : Nat} {x : ScanWrite} (h : BearsAt P (rowPlace k x.1).1 s) :
    Leaves P s (putScanRow k op since s x) := fun j hj => by
  unfold putScanRow
  split
  · refine leaves_of_writes (fun c => ?_) _ _ j (leaves_storeRow h _ _ _ _ j hj)
    obtain ⟨due, hdue⟩ := setFlagsAt_eq x.2.1 x.2.2.2 op c
    rw [hdue]
  · exact hj

/-! ### The rows of a chain: whatever their contents -/

/-- The write of a row by the vector engine, whatever its contents. -/
def chainWrite (row stamp : Nat) (w : RowWrite) : Prop := w.row = row ∧ w.stamp = stamp ∧ w.unit = .vx

theorem bears_chainWrite (row stamp op : Nat) : Bears (chainWrite row stamp) op := fun _ _ h _ => h

theorem bearsAt_chainWrite (row stamp j : Nat) (s : State) : BearsAt (chainWrite row stamp) j s :=
  fun _ _ => bears_chainWrite _ _ _

theorem leaves_replanScan {row stamp : Nat} (k since : Nat) (s : State) (run : ScanRun) :
    Leaves (chainWrite row stamp) s (replanScan k since s run) := by
  intro j hj
  unfold replanScan
  dsimp only
  rw [putScan_eq]
  refine leaves_foldl (fun s x => leaves_putScanRow (bearsAt_chainWrite _ _ _ _)) _ _ j ?_
  refine leaves_of_writes (fun _ => by rfl) _ _ j ?_
  refine leaves_of_writes (fun _ => by rfl) _ _ j ?_
  refine leaves_foldl (fun s i => leaves_modCore (fun c w hw hP => ⟨w, ?_, hP⟩) i s) _ _ j hj
  refine List.mem_filter.mpr ⟨hw, ?_⟩
  rw [hP.2.2]
  rfl

theorem putRow_eq (k d stamp : Nat) (data : Row) (x : RowUnit) (op : Nat) (s : State) :
    putRow k d stamp data x op s =
      let u := storeRow (rowPlace k d) stamp data x op s
      let r := readerOf u (rowPlace k d).1
      (scansHit r (coreOf u r) (rowPlace k d) stamp op).foldl (replanScan r stamp) u := rfl

theorem leaves_putRow {row stamp : Nat} (k d n : Nat) (data : Row) (x : RowUnit) (op : Nat) (s : State) :
    Leaves (chainWrite row stamp) s (putRow k d n data x op s) := fun j hj =>
  leaves_foldl (fun s run => leaves_replanScan _ _ s run) _ _ j (leaves_storeRow (bearsAt_chainWrite _ _ _ _) _ _ _ _ j hj)

theorem has_putRow (k d n : Nat) (data : Row) (op : Nat) (s : State) :
    Has (chainWrite (rowPlace k d).2 n) (rowPlace k d).1 (putRow k d n data .vx op s) :=
  leaves_foldl (fun s run => leaves_replanScan _ _ s run) _ _ _ (has_storeRow (bearsAt_chainWrite _ _ _ _) ⟨rfl, rfl, rfl⟩)

theorem rewrites_replanScan (k since : Nat) (s : State) (run : ScanRun) : Rewrites s (replanScan k since s run) := by
  unfold replanScan
  dsimp only
  rw [putScan_eq]
  refine Rewrites.trans ?_ (rewrites_foldl (rewrites_putScanRow _ _ _) _ _)
  refine Rewrites.trans ?_ (rewrites_modCore (fun _ => ⟨_, _, _, _, _, rfl⟩) _ _)
  refine Rewrites.trans ?_ (rewrites_modCore (fun _ => ⟨_, _, _, _, _, rfl⟩) _ _)
  exact rewrites_foldl (fun s j => rewrites_modCore (fun _ => ⟨_, _, _, _, _, rfl⟩) j s) _ _

theorem rewrites_putRow (k d n : Nat) (data : Row) (x : RowUnit) (op : Nat) (s : State) :
    Rewrites s (putRow k d n data x op s) :=
  (rewrites_storeRow _ _ _ _ _ _).trans (rewrites_foldl (rewrites_replanScan _ _) _ _)

end Sys2Proof.VectorFamily

namespace Sys2Proof.VectorFamily

open Machine Laws SequencerFamily MatrixFamily

variable {k t i j : Nat} {b : Bay} {e : EngineOp} {es : List EngineOp} {c d : Core} {s s1 u : State} {o : BitVec 128}

/-! ## A chain starts (R157 to R163) -/

/-- What rows beyond the lead core add to a chain. -/
def chainDeep (c : Core) (o : BitVec 128) : Nat :=
  deepTerm ((chainSpans c o (chainEntry c o)).1.flatten ++ (chainSpans c o (chainEntry c o)).2.flatten)

/-- F: the cycles from a beat to the rows that it makes (R160). -/
def chainFill (c : Core) (o : BitVec 128) : Nat := 6 + 3 * ceNstages (chainEntry c o) + chainDeep c o

/-- The value of the counter that gives a chain its length. -/
def chainCtr (c : Core) (o : BitVec 128) (t : Nat) : Nat := (counterAt c (vxVlCtr o) t).1.toNat

/-- The format of an output stream. -/
def chainFm (c : Core) (o : BitVec 128) (m : Nat) : Fm := (fmOfCode (ceOutFmt (chainEntry c o) m)).getD .fp32

/-- The output stream `m` of a chain is written, with these elements and scale entries. -/
def putStream (k t op : Nat) (c : Core) (o : BitVec 128) (elems : Nat → List Nat × List Nat) (s : State) (m : Nat) : State :=
  (outWrites (chainFm c o m) (vxBound o) (vxEff c o t) (elems m).1 (elems m).2).foldl (fun s w =>
    putRow k (slotBaseOf c (vxOutSlot o m) + w.1) (t + chainFill c o + w.2.1 + 1) w.2.2 .vx op s) s

/-- The output rows of a chain are written; where a row that it reads is written so, they are open. -/
def putChain (k t op : Nat) (c : Core) (o : BitVec 128) (elems : Nat → List Nat × List Nat) (s : State) : State :=
  let u := (List.range (ceNout (chainEntry c o))).foldl (putStream k t op c o elems) s
  if chainOverlap o (chainEntry c o) (chainSpans c o (chainEntry c o)).1 (chainSpans c o (chainEntry c o)).2 then taintOp k op u
  else u

/-- Core `d` is core `c` after the start of chain `o` in cycle `t`, its rows aside. -/
structure ChainStarted (t : Nat) (o : BitVec 128) (c d : Core) : Prop where
  queue : d.eng.vxQueue = c.eng.vxQueue
  counted : d.st.chains = satInc 65535 c.st.chains
  clamps : d.st.vlClamps
    = if vxVlSrc o = true ∧ vxBound o < chainCtr c o t then satInc 4095 c.st.vlClamps else c.st.vlClamps
  banks : d.eng.banks = c.eng.banks
  tags : d.tags = c.tags
  rows : d.rows = c.rows
  emptied : ∀ m, m < ceNin (chainEntry c o) → vxInConsume o m = true → (m ≠ 0 ∨ vxFromTq o = false) →
    ∃ a, a ∈ d.eng.tagActs ∧ a.kind = .vectorIn ∧ a.cycle = t + vxBeats o + chainDeep c o ∧ vxInSlot o m ∈ a.empties
  filled : ∀ m, m < ceNout (chainEntry c o) →
    ∃ a, a ∈ d.eng.tagActs ∧ a.kind = .vectorOut ∧ a.cycle = t + chainFill c o + vxBeats o ∧ vxOutSlot o m ∈ a.fulls

theorem ChainStarted.rewritten {d' : Core} (h : ChainStarted t o c d) (hr : Rewritten d d') : ChainStarted t o c d' := by
  obtain ⟨_, _, _, _, _, rfl⟩ := hr
  exact ⟨h.queue, h.counted, h.clamps, h.banks, h.tags, h.rows, h.emptied, h.filled⟩

theorem rewrites_putStream (k t op : Nat) (c : Core) (o : BitVec 128) (elems : Nat → List Nat × List Nat) (s : State) (m : Nat) :
    Rewrites s (putStream k t op c o elems s m) := rewrites_foldl (fun s _ => rewrites_putRow _ _ _ _ _ _ s) _ _

theorem rewrites_putChain (k t op : Nat) (c : Core) (o : BitVec 128) (elems : Nat → List Nat × List Nat) (s : State) :
    Rewrites s (putChain k t op c o elems s) := by
  have h := rewrites_foldl (rewrites_putStream k t op c o elems) (List.range (ceNout (chainEntry c o))) s
  unfold putChain
  dsimp only
  split
  · exact h.trans (rewrites_taintOp _ _ _)
  · exact h

/-- At t₀ + B the consumed inputs of a chain are emptied, later by what a deep row adds (R163). -/
def chainEmpties (t : Nat) (c : Core) (o : BitVec 128) : TagAct :=
  ⟨.vectorIn, t + vxBeats o + chainDeep c o,
    (((List.range (ceNin (chainEntry c o))).filter (fun n => vxInConsume o n && !(n == 0 && vxFromTq o))).map
      (vxInSlot o)).eraseDups, []⟩

/-- At t₀ + F + B the outputs of a chain are made full (R163). -/
def chainFills (t : Nat) (c : Core) (o : BitVec 128) : TagAct :=
  ⟨.vectorOut, t + chainFill c o + vxBeats o, [], ((List.range (ceNout (chainEntry c o))).map (vxOutSlot o)).eraseDups⟩

/-- A core that counts a chain, and has the tiles `tiles` in queue. -/
def chainCounted (t : Nat) (o : BitVec 128) (tiles : List Tile) (c : Core) : Core :=
  { c with
    eng := { c.eng with tiles := tiles }
    st := { c.st with
      chains := satInc 65535 c.st.chains
      vlClamps := if vxVlSrc o ∧ chainCtr c o t > vxBound o then satInc 4095 c.st.vlClamps else c.st.vlClamps } }

/-- A core whose vector engine is busy with a chain. -/
def chainBusy (sr : List W32) (due : List FlagDue) (busy idle : Nat) (c : Core) : Core :=
  { c with eng := { c.eng with
    srState := sr, flagsDue := c.eng.flagsDue ++ due, vxBusy := max c.eng.vxBusy busy, vxIdle := max c.eng.vxIdle idle } }

/-- A core with the tag actions `acts` to come. -/
def withActs (acts : List TagAct) (c : Core) : Core := { c with eng := { c.eng with tagActs := acts } }

theorem planTags_acts (a : TagAct) (c : Core) : ∃ acts, planTags a c = withActs acts c
    ∧ (∀ x, x ∈ c.eng.tagActs → x ∈ acts) ∧ (a.empties ≠ [] ∨ a.fulls ≠ [] → a ∈ acts) := by
  unfold planTags
  split
  · rename_i h
    rw [Bool.and_eq_true, List.isEmpty_iff, List.isEmpty_iff] at h
    exact ⟨_, rfl, fun _ hx => hx, fun hne => by rcases hne with hne | hne <;> simp [h] at hne⟩
  · exact ⟨_, rfl, fun _ hx => List.mem_append_left _ hx, fun _ => List.mem_append_right _ (List.mem_singleton_self a)⟩

/-- A start plans two tag actions, each where it names a slot. -/
theorem planTags_both (a a' : TagAct) (c : Core) : ∃ acts, planTags a' (planTags a c) = withActs acts c
    ∧ (a.empties ≠ [] ∨ a.fulls ≠ [] → a ∈ acts) ∧ (a'.empties ≠ [] ∨ a'.fulls ≠ [] → a' ∈ acts) := by
  obtain ⟨acts, h, -, ha⟩ := planTags_acts a c
  obtain ⟨acts', h', hkeep, ha'⟩ := planTags_acts a' (withActs acts c)
  exact ⟨acts', by rw [h, h']; rfl, fun hne => hkeep a (ha hne), ha'⟩

theorem mem_chainEmpties {m : Nat} (hm : m < ceNin (chainEntry c o)) (hc : vxInConsume o m = true)
    (h : m ≠ 0 ∨ vxFromTq o = false) : vxInSlot o m ∈ (chainEmpties t c o).empties := by
  refine List.mem_eraseDups.mpr (List.mem_map_of_mem (List.mem_filter.mpr ⟨List.mem_range.mpr hm, ?_⟩))
  rw [hc]
  rcases h with h | h <;> simp [h]

theorem mem_chainFills {m : Nat} (hm : m < ceNout (chainEntry c o)) : vxOutSlot o m ∈ (chainFills t c o).fulls :=
  List.mem_eraseDups.mpr (List.mem_map_of_mem (List.mem_range.mpr hm))

/-- A core that was tested as it counts a chain, is busy with it and plans its tag actions. -/
theorem chainStarted_planned {tiles : List Tile} {sr : List W32} {due : List FlagDue} {busy idle : Nat}
    (h : Tested (setCore k (chainCounted t o tiles c) s) u) :
    ChainStarted t o c (coreOf (modCore k (fun d => planTags (chainFills t c o) (planTags (chainEmpties t c o)
      (chainBusy sr due busy idle d))) (freshOp k u).2) k) := by
  obtain ⟨st, su, hcore⟩ := h.reports.core k
  have hcounts := h.counts k
  rw [hcore, coreOf_setCore_same] at hcounts
  rw [freshOp_eq, coreOf_modCore_same, coreOf_modCore_same, hcore, coreOf_setCore_same]
  obtain ⟨acts, hacts, hempties, hfills⟩ := planTags_both (chainEmpties t c o) (chainFills t c o)
    (chainBusy sr due busy idle (numbered { chainCounted t o tiles c with st := st, suspects := su }))
  rw [hacts]
  simp only [startCounts, Prod.mk.injEq] at hcounts
  obtain ⟨hchains, hclamps, -, -⟩ := hcounts
  refine ⟨rfl, hchains, hclamps, rfl, rfl, rfl, fun m hm hc hq => ?_, fun m hm => ?_⟩
  · have hmem := mem_chainEmpties (t := t) hm hc hq
    exact ⟨_, hempties (.inl (List.ne_nil_of_mem hmem)), rfl, rfl, hmem⟩
  · have hmem := mem_chainFills (t := t) hm
    exact ⟨_, hfills (.inr (List.ne_nil_of_mem hmem)), rfl, rfl, hmem⟩

/-- A core with one more read window, beside those that are not over. -/
def windowed (w : ReadWin) (c : Core) : Core :=
  { c with eng := { c.eng with readWins := c.eng.readWins.filter (fun v => decide (w.first ≤ v.last)) ++ [w] } }

theorem rewrites_openWin (k : Nat) (w : ReadWin) (s : State) : Rewrites (modCore k (windowed w) s) (openWin k w s) :=
  rewrites_foldl (fun s j => rewrites_foldl (fun s (x : RowWrite) => rewrites_spoilOp k (j, x.row) x.data s w) _ s) _ _

/-- A window that opens leaves the start as it is. -/
theorem ChainStarted.window {p : Prop} [Decidable p] (h : ChainStarted t o c (coreOf u k)) (w : ReadWin) :
    ChainStarted t o c (coreOf (if p then u else openWin k w u) k) := by
  split
  · exact h
  · refine ChainStarted.rewritten ?_ ((rewrites_openWin k w u).core k)
    rw [coreOf_modCore_same]
    exact ⟨h.queue, h.counted, h.clamps, h.banks, h.tags, h.rows, h.emptied, h.filled⟩

/-- The tile of a chain is examined at its place in the queue. -/
def examineTile (k t : Nat) (tiles : List Tile) (tile : Option Tile) (s : State) : State :=
  match tile with
  | some x => examineAcc k t (2 + tiles.idxOf x) s
  | none => s

theorem tested_examineTile (k t : Nat) (tiles : List Tile) (tile : Option Tile) (s : State) :
    Tested s (examineTile k t tiles tile s) := by
  cases tile with
  | none => exact Tested.refl s
  | some x => exact tested_of_marks (marks_examineAcc _ _ _ _)

/-- A tile that a chain does not find is counted. -/
theorem tested_underrun {p : Prop} [Decidable p] (k idx t n : Nat) (s : State) :
    Tested s (if p then
      noteEvent k 3 1 idx t n (fun q => { q with tileUnderrun := satInc 4095 q.tileUnderrun }) s else s) := by
  split
  · refine tested_noteEvent ?_ _ _ _ _ _ _ _
    exact fun _ => rfl
  · exact Tested.refl s

/-- What a chain's start makes of its core before a row is written, and the rows that it then writes. -/
theorem chainStart_shape (k t : Nat) (e : EngineOp) (s : State) :
    ∃ op elems s', chainStart k t e s = putChain k t op (coreOf s k) e.word elems s'
      ∧ ChainStarted t e.word (coreOf s k) (coreOf s' k) := by
  refine ⟨_, _, _, rfl, ChainStarted.window (chainStarted_planned (Tested.trans (Tested.trans (Tested.trans (Tested.trans
    (tested_underrun k e.idx t _ (setCore k (chainCounted t e.word _ (coreOf s k)) s))
    (tested_foldl (fun s n => tested_expectTag k n true e.idx t s) _ _)) (tested_of_marks (marks_examineParity k t 2 _)))
    (tested_of_marks (marks_checkReads k _ _))) (tested_examineTile k t (tilesAt (coreOf s k) t) _ _))) _⟩

end Sys2Proof.VectorFamily

namespace Sys2Proof.VectorFamily

open Machine Laws SequencerFamily MatrixFamily

variable {k t i j : Nat} {b : Bay} {e : EngineOp} {es : List EngineOp} {c d : Core} {s s1 u : State} {o : BitVec 128}
  {P : RowWrite → Prop}

/-! ### The rows of a chain's outputs (R160, R161) -/

/-- Where and when the rows of a stream are written does not depend on what is in them. -/
theorem outWrites_places (f : Fm) (bound eff : Nat) (es sc es' sc' : List Nat) :
    (outWrites f bound eff es sc).map (fun x => (x.1, x.2.1)) = (outWrites f bound eff es' sc').map (fun x => (x.1, x.2.1)) := by
  unfold outWrites
  simp only [List.map_flatMap]
  congr 1
  funext b
  split <;> simp [Function.comp_def]

/-- A row of a stream has its place and its time whatever is written. -/
theorem exists_outWrites {f : Fm} {bound eff : Nat} {x : Nat × Nat × Row} (h : x ∈ outWrites f bound eff [] [])
    (es sc : List Nat) :
    ∃ y, y ∈ outWrites f bound eff es sc ∧ y.1 = x.1 ∧ y.2.1 = x.2.1 := by
  have hx : (x.1, x.2.1) ∈ (outWrites f bound eff es sc).map (fun x => (x.1, x.2.1)) := by
    rw [outWrites_places f bound eff es sc [] []]
    exact List.mem_map_of_mem h
  obtain ⟨y, hy, hxy⟩ := List.mem_map.mp hx
  obtain ⟨hplace, htime⟩ := Prod.mk.inj hxy
  exact ⟨y, hy, hplace, htime⟩

/-- What one member of a list has put in place, the others leave there. -/
theorem has_foldl {α : Type} {f : State → α → State} {l : List α} {a : α} (hl : ∀ s a, Leaves P s (f s a)) (ha : a ∈ l)
    (hput : ∀ s, Has P j (f s a)) (s : State) : Has P j (l.foldl f s) := by
  induction l generalizing s with
  | nil => cases ha
  | cons x l ih =>
    rcases List.mem_cons.mp ha with rfl | ha
    · exact leaves_foldl hl l _ j (hput s)
    · exact ih ha _

theorem leaves_putStream {row stamp : Nat} (k t op : Nat) (c : Core) (o : BitVec 128) (elems : Nat → List Nat × List Nat)
    (s : State) (m : Nat) : Leaves (chainWrite row stamp) s (putStream k t op c o elems s m) :=
  leaves_foldl (fun s _ => leaves_putRow _ _ _ _ _ _ s) _ _

/-- A row of a stream is written with the stream. -/
theorem has_putStream {m : Nat} {x : Nat × Nat × Row} (hx : x ∈ outWrites (chainFm c o m) (vxBound o) (vxEff c o t) [] [])
    (k op : Nat) (elems : Nat → List Nat × List Nat) (s : State) :
    Has (chainWrite (rowPlace k (slotBaseOf c (vxOutSlot o m) + x.1)).2 (t + chainFill c o + x.2.1 + 1))
      (rowPlace k (slotBaseOf c (vxOutSlot o m) + x.1)).1 (putStream k t op c o elems s m) := by
  obtain ⟨y, hy, hplace, htime⟩ := exists_outWrites hx (elems m).1 (elems m).2
  rw [← hplace, ← htime]
  unfold putStream
  refine has_foldl (fun s w => leaves_putRow _ _ _ _ _ _ s) hy (fun s => ?_) s
  exact has_putRow _ _ _ _ _ _

/-- Every output row of a chain is written. -/
theorem has_putChain {m : Nat} {x : Nat × Nat × Row} (hm : m < ceNout (chainEntry c o))
    (hx : x ∈ outWrites (chainFm c o m) (vxBound o) (vxEff c o t) [] []) (k op : Nat) (elems : Nat → List Nat × List Nat)
    (s : State) :
    Has (chainWrite (rowPlace k (slotBaseOf c (vxOutSlot o m) + x.1)).2 (t + chainFill c o + x.2.1 + 1))
      (rowPlace k (slotBaseOf c (vxOutSlot o m) + x.1)).1 (putChain k t op c o elems s) := by
  have hput := has_foldl (leaves_putStream k t op c o elems) (List.mem_range.mpr hm)
    (fun s => has_putStream hx k op elems s) s
  unfold putChain
  dsimp only
  split
  · exact leaves_taintOp (bears_chainWrite _ _ _) _ _ _ hput
  · exact hput

/-- A core whose vector engine is left with the operations `es` in its queue and is occupied by `o` from cycle `t` on. -/
def chainOccupied (t : Nat) (o : BitVec 128) (es : List EngineOp) (c : Core) : Core :=
  { c with eng := { c.eng with vxQueue := es, vxIdle := max c.eng.vxIdle (t + vxBeats o) } }

theorem exec_vectorChainStart {k : CoreId} (henter : enterCycle (coreNo k) t s = some (i, b, s1))
    (hq : (coreOf s1 (coreNo k)).eng.vxQueue = e :: es) (ht : e.start = t) :
    exec (.vectorChainStart k t) s =
      let u := modCore (coreNo k) (chainOccupied t e.word es) s1
      .next (if e.shim then u else chainStart (coreNo k) t e u) := by
  show execVectorChainStart k t s = _
  simp only [execVectorChainStart, henter, hq, ht, ne_eq, not_true_eq_false, if_false]
  rfl

/-- A shim occupies the engine and no more (R164). -/
theorem vectorChain_shim {k : CoreId} (henter : enterCycle (coreNo k) t s = some (i, b, s1))
    (hq : (coreOf s1 (coreNo k)).eng.vxQueue = e :: es) (ht : e.start = t) (hshim : e.shim = true) :
    exec (.vectorChainStart k t) s = .next (modCore (coreNo k) (chainOccupied t e.word es) s1) := by
  rw [exec_vectorChainStart henter hq ht, hshim]
  rfl

/-- The head of the queue leaves it in its start cycle: the chain is counted and its tag actions are planned, and its output rows
are written F cycles after the beats that make them. -/
theorem vectorChain_starts {k : CoreId} (henter : enterCycle (coreNo k) t s = some (i, b, s1))
    (hq : (coreOf s1 (coreNo k)).eng.vxQueue = e :: es) (ht : e.start = t) (hshim : e.shim = false) :
    ∃ u, exec (.vectorChainStart k t) s = .next u
      ∧ ChainStarted t e.word (chainOccupied t e.word es (coreOf s1 (coreNo k))) (coreOf u (coreNo k))
      ∧ ∀ m x, m < ceNout (chainEntry (coreOf s1 (coreNo k)) e.word) →
        x ∈ outWrites (chainFm (coreOf s1 (coreNo k)) e.word m) (vxBound e.word) (vxEff (coreOf s1 (coreNo k)) e.word t) [] [] →
        Has (chainWrite (rowPlace (coreNo k) (slotBaseOf (coreOf s1 (coreNo k)) (vxOutSlot e.word m) + x.1)).2
            (t + chainFill (coreOf s1 (coreNo k)) e.word + x.2.1 + 1))
          (rowPlace (coreNo k) (slotBaseOf (coreOf s1 (coreNo k)) (vxOutSlot e.word m) + x.1)).1 u := by
  have hexec : exec (.vectorChainStart k t) s
      = .next (chainStart (coreNo k) t e (modCore (coreNo k) (chainOccupied t e.word es) s1)) := by
    rw [exec_vectorChainStart henter hq ht, hshim]
    rfl
  have hcore : coreOf (modCore (coreNo k) (chainOccupied t e.word es) s1) (coreNo k)
      = chainOccupied t e.word es (coreOf s1 (coreNo k)) := coreOf_modCore_same _ _ _
  obtain ⟨op, elems, s', hstart, hcs⟩ := chainStart_shape (coreNo k) t e (modCore (coreNo k) (chainOccupied t e.word es) s1)
  rw [hcore] at hstart hcs
  refine ⟨_, hexec, ?_, fun m x hm hx => ?_⟩
  · rw [hstart]
    exact hcs.rewritten ((rewrites_putChain _ _ _ _ _ _ _).core _)
  · rw [hstart]
    exact has_putChain (c := chainOccupied t e.word es (coreOf s1 (coreNo k))) hm hx _ _ _ _

end Sys2Proof.VectorFamily

namespace Sys2Proof.VectorFamily

open Machine Laws SequencerFamily MatrixFamily

variable {k t i : Nat} {b : Bay} {e : EngineOp} {es : List EngineOp} {c d : Core} {s s1 u : State}

/-! ## A scan call starts (R167 to R180) -/

/-- The steps that a call runs (R172). -/
def callSteps (c : Core) (o : BitVec 128) (t : Nat) : Nat :=
  if scStepsSrc o then min (counterAt c (scStepsCtr o) t).1.toNat (scSteps o) else scSteps o

/-- The slots of a call's inputs. -/
def callInputs (o : BitVec 128) : List Nat := (if scMode o = 0 then [scASlot o] else []) ++ [scBSlot o]

/-- The latency of a call. -/
def callLatency (contract : Nat) (c : Core) (o : BitVec 128) : Nat := latScan contract + deepTerm (scanSpan c o)

/-- The state after the tests of a call's slots and the checks of the rows that it reads. -/
def callTested (k t : Nat) (e : EngineOp) (s : State) : State :=
  checkReads k (scanReads (coreOf s k) e.word t (callSteps (coreOf s k) e.word t))
    (expectTag k (scStateSlot e.word) true e.idx t
      ((callInputs e.word).foldl (fun s n => expectTag k n true e.idx t s) s))

/-- At t₀ + W the inputs of a call are emptied, later by what a deep row adds (R178). -/
def callEmpties (t : Nat) (c : Core) (o : BitVec 128) : TagAct :=
  ⟨.scanIn, t + scW o + deepTerm (scanSpan c o), callInputs o, []⟩

/-- At t₀ + L + W the results of a call are made full (R178). -/
def callFills (t contract : Nat) (c : Core) (o : BitVec 128) : TagAct :=
  ⟨.scanOut, t + callLatency contract c o + scW o, [], scOutSlot o :: (if callSteps c o t ≥ 1 then [scStateSlot o] else [])⟩

/-- A core that counts a call; `c0` is the core as the call found it. -/
def callCounted (t contract : Nat) (o : BitVec 128) (c0 c : Core) : Core :=
  { c with
    eng := { c.eng with
      scBusy := max c.eng.scBusy (t + callLatency contract c0 o + scW o)
      scIdle := max c.eng.scIdle (t + callLatency contract c0 o + scW o + 1) }
    st := { c.st with
      calls := satInc 65535 c.st.calls
      stepsClamps := if scStepsSrc o ∧ (counterAt c0 (scStepsCtr o) t).1.toNat > scSteps o then satInc 4095 c.st.stepsClamps
        else c.st.stepsClamps } }

/-- A core that counts a call and plans the emptying of its inputs and the filling of its results. -/
def callPlanned (t contract : Nat) (o : BitVec 128) (c0 c : Core) : Core :=
  planTags (callFills t contract c0 o) (planTags (callEmpties t c0 o) (callCounted t contract o c0 c))

/-- A core whose scan unit has a call under way. -/
def withCall (t : Nat) (run : ScanRun) (c : Core) : Core :=
  { c with eng := { c.eng with
    scRuns := c.eng.scRuns.filter (fun r => decide (t < r.t0 + r.steps * scChgrp r.word)) ++ [run] } }

/-- The state in which a call is evaluated. -/
def callReady (k t : Nat) (e : EngineOp) (contract : Nat) (s : State) : State :=
  modCore k (callPlanned t contract e.word (coreOf s k)) (freshOp k (callTested k t e s)).2

/-- The call as it begins. -/
def begunCall (k t : Nat) (e : EngineOp) (contract : Nat) (s : State) : ScanRun :=
  ⟨(freshOp k (callTested k t e s)).1, e.word, t, callSteps (coreOf s k) e.word t, callLatency contract (coreOf s k) e.word, []⟩

/-- The state in which a call's rows are written. -/
def callUnderWay (k t : Nat) (e : EngineOp) (contract : Nat) (s : State) : State :=
  modCore k (withCall t { begunCall k t e contract s with
    ins := (scanEval (callReady k t e contract s) k 0 (begunCall k t e contract s)).ins }) (callReady k t e contract s)

theorem scanStart_eq (k t : Nat) (e : EngineOp) (contract : Nat) (s : State) :
    scanStart k t e contract s =
      if callSteps (coreOf s k) e.word t = 0 then callReady k t e contract s
      else putScan k (begunCall k t e contract s).op 0
        (scanEval (callReady k t e contract s) k 0 (begunCall k t e contract s)).outs (callUnderWay k t e contract s) := rfl

/-- A core whose scan unit is left with the operations `es` in its queue and is occupied by `o` from cycle `t` on. -/
def scanOccupied (t : Nat) (o : BitVec 128) (es : List EngineOp) (c : Core) : Core :=
  { c with eng := { c.eng with scQueue := es, scIdle := max c.eng.scIdle (t + scW o) } }

theorem exec_scanCallStart {k : CoreId} (henter : enterCycle (coreNo k) t s = some (i, b, s1))
    (hq : (coreOf s1 (coreNo k)).eng.scQueue = e :: es) (ht : e.start = t) :
    exec (.scanCallStart k t) s =
      let u := modCore (coreNo k) (scanOccupied t e.word es) s1
      .next (if e.shim then u else scanStart (coreNo k) t e b.contract u) := by
  show execScanCallStart k t s = _
  simp only [execScanCallStart, henter, hq, ht, ne_eq, not_true_eq_false, if_false]
  rfl

/-! ### What a call reads and writes depends on the rows and the slots alone -/

/-- Two states have the same operation stores, the same rows, settled and to come, and the same windows on them. -/
structure RowsAlike (s u : State) : Prop where
  image : ∀ j, (coreOf u j).image = (coreOf s j).image
  rows : ∀ j, (coreOf u j).rows = (coreOf s j).rows
  writes : ∀ j, (coreOf u j).writes = (coreOf s j).writes
  windows : ∀ j, (coreOf u j).eng.readWins = (coreOf s j).eng.readWins

theorem RowsAlike.trans {v : State} (h : RowsAlike s u) (h' : RowsAlike u v) : RowsAlike s v :=
  ⟨fun j => (h'.image j).trans (h.image j), fun j => (h'.rows j).trans (h.rows j), fun j => (h'.writes j).trans (h.writes j),
    fun j => (h'.windows j).trans (h.windows j)⟩

theorem rowsAlike_of_reports (h : Reports s u) : RowsAlike s u :=
  ⟨fun j => (h.core j).image, fun j => (h.core j).rows, fun j => (h.core j).writes, fun j => by rw [(h.core j).eng]⟩

theorem rowsAlike_modCore {f : Core → Core} (himage : ∀ c, (f c).image = c.image) (hrows : ∀ c, (f c).rows = c.rows)
    (hwrites : ∀ c, (f c).writes = c.writes) (hwins : ∀ c, (f c).eng.readWins = c.eng.readWins) (k : Nat) (s : State) :
    RowsAlike s (modCore k f s) := by
  have h : ∀ j, coreOf (modCore k f s) j = f (coreOf s j) ∨ coreOf (modCore k f s) j = coreOf s j := fun j => by
    by_cases hj : j = k
    · exact .inl (by rw [hj, coreOf_modCore_same])
    · exact .inr (coreOf_modCore_ne _ _ hj)
  refine ⟨fun j => ?_, fun j => ?_, fun j => ?_, fun j => ?_⟩ <;> rcases h j with h | h <;> rw [h]
  · exact himage _
  · exact hrows _
  · exact hwrites _
  · exact hwins _

theorem RowsAlike.scanSees (h : RowsAlike s u) (k : Nat) (own : List ScanWrite) (d t : Nat) :
    scanSees u k own d t = scanSees s k own d t := by
  unfold Machine.scanSees coreRowAt
  dsimp only
  rw [h.rows, h.writes]

theorem RowsAlike.slotBaseOf (h : RowsAlike s u) (k n : Nat) : slotBaseOf (coreOf u k) n = slotBaseOf (coreOf s k) n := by
  unfold Machine.slotBaseOf slotDesc
  rw [h.image]

theorem RowsAlike.scanPoint (h : RowsAlike s u) (k since : Nat) (run : ScanRun) :
    scanPoint u k since run = scanPoint s k since run := by
  funext a i
  unfold Machine.scanPoint scanRead
  simp only [h.scanSees, h.slotBaseOf]

/-- The rows that a call writes are those of the state that it finds, whatever its number. -/
theorem RowsAlike.scanWrites (h : RowsAlike s u) (k : Nat) (run : ScanRun) (hins : run.ins = []) :
    (scanEval u k 0 run).outs = scanWrites s k run.word run.t0 run.steps run.lat := by
  obtain ⟨op, word, t0, steps, lat, ins⟩ := run
  subst hins
  unfold Machine.scanWrites scanEval
  rw [h.scanPoint]
  rfl

theorem callPlanned_acts (t contract : Nat) (o : BitVec 128) (c0 c : Core) :
    ∃ acts, callPlanned t contract o c0 c = withActs acts (callCounted t contract o c0 c)
      ∧ callEmpties t c0 o ∈ acts ∧ callFills t contract c0 o ∈ acts := by
  obtain ⟨acts, h, hempties, hfills⟩ := planTags_both (callEmpties t c0 o) (callFills t contract c0 o)
    (callCounted t contract o c0 c)
  exact ⟨acts, h, hempties (.inl (by simp [callEmpties, callInputs])), hfills (.inr (by simp [callFills]))⟩

theorem callPlanned_frame (t contract : Nat) (o : BitVec 128) (c0 c : Core) :
    (callPlanned t contract o c0 c).image = c.image ∧ (callPlanned t contract o c0 c).rows = c.rows
      ∧ (callPlanned t contract o c0 c).writes = c.writes
      ∧ (callPlanned t contract o c0 c).eng.readWins = c.eng.readWins := by
  obtain ⟨acts, h, -, -⟩ := callPlanned_acts t contract o c0 c
  rw [h]
  exact ⟨rfl, rfl, rfl, rfl⟩

theorem tested_callTested (k t : Nat) (e : EngineOp) (s : State) : Tested s (callTested k t e s) :=
  ((tested_foldl (fun s n => tested_expectTag k n true e.idx t s) _ s).trans (tested_expectTag _ _ _ _ _ _)).trans
    (tested_of_marks (marks_checkReads _ _ _))

theorem rowsAlike_callReady (k t : Nat) (e : EngineOp) (contract : Nat) (s : State) :
    RowsAlike s (callReady k t e contract s) := by
  have hfresh : RowsAlike (callTested k t e s) (freshOp k (callTested k t e s)).2 := by
    rw [freshOp_eq]
    exact rowsAlike_modCore (f := numbered) (fun _ => rfl) (fun _ => rfl) (fun _ => rfl) (fun _ => rfl) _ _
  have hframe := callPlanned_frame t contract e.word (coreOf s k)
  exact ((rowsAlike_of_reports (tested_callTested k t e s).reports).trans hfresh).trans
    (rowsAlike_modCore (fun c => (hframe c).1) (fun c => (hframe c).2.1) (fun c => (hframe c).2.2.1)
      (fun c => (hframe c).2.2.2) _ _)

/-- The rows that a call writes. -/
theorem callOuts_eq (k t : Nat) (e : EngineOp) (contract : Nat) (s : State) :
    (scanEval (callReady k t e contract s) k 0 (begunCall k t e contract s)).outs
      = scanWrites s k e.word t (callSteps (coreOf s k) e.word t) (callLatency contract (coreOf s k) e.word) :=
  (rowsAlike_callReady k t e contract s).scanWrites k (begunCall k t e contract s) rfl

theorem scanOccupied_alike (k t : Nat) (o : BitVec 128) (es : List EngineOp) (s : State) :
    RowsAlike s (modCore k (scanOccupied t o es) s) :=
  rowsAlike_modCore (f := scanOccupied t o es) (fun _ => rfl) (fun _ => rfl) (fun _ => rfl) (fun _ => rfl) _ _

/-- A call finds the rows as they stood before it left the queue. -/
theorem scanWrites_occupied (k t : Nat) (o w : BitVec 128) (es : List EngineOp) (s : State) (t0 steps lat : Nat) :
    scanWrites (modCore k (scanOccupied t o es) s) k w t0 steps lat = scanWrites s k w t0 steps lat :=
  (scanOccupied_alike k t o es s).scanWrites k ⟨0, w, t0, steps, lat, []⟩ rfl

/-- A call takes the next number of its core. -/
theorem begunCall_op (k t : Nat) (e : EngineOp) (contract : Nat) (s : State) :
    (begunCall k t e contract s).op = (coreOf s k).eng.nextOp := by
  show (coreOf (callTested k t e s) k).eng.nextOp = _
  rw [((tested_callTested k t e s).reports.core k).eng]

/-- A call that runs a step writes the rows that its reads give. -/
theorem exec_scanCallStart_rows {k : CoreId} (henter : enterCycle (coreNo k) t s = some (i, b, s1))
    (hq : (coreOf s1 (coreNo k)).eng.scQueue = e :: es) (ht : e.start = t) (hshim : e.shim = false)
    (hsteps : 1 ≤ callSteps (coreOf s1 (coreNo k)) e.word t) :
    exec (.scanCallStart k t) s = .next (putScan (coreNo k) (coreOf s1 (coreNo k)).eng.nextOp 0
      (scanWrites s1 (coreNo k) e.word t (callSteps (coreOf s1 (coreNo k)) e.word t)
        (callLatency b.contract (coreOf s1 (coreNo k)) e.word))
      (callUnderWay (coreNo k) t e b.contract (modCore (coreNo k) (scanOccupied t e.word es) s1))) := by
  have hcore : coreOf (modCore (coreNo k) (scanOccupied t e.word es) s1) (coreNo k)
      = scanOccupied t e.word es (coreOf s1 (coreNo k)) := coreOf_modCore_same _ _ _
  have hsteps' : callSteps (scanOccupied t e.word es (coreOf s1 (coreNo k))) e.word t ≠ 0 := Nat.one_le_iff_ne_zero.mp hsteps
  rw [exec_scanCallStart henter hq ht]
  dsimp only
  rw [hshim, if_neg Bool.false_ne_true, scanStart_eq, hcore, if_neg hsteps', begunCall_op, callOuts_eq, hcore,
    scanWrites_occupied]
  rfl

end Sys2Proof.VectorFamily

namespace Sys2Proof.VectorFamily

open Machine Laws SequencerFamily MatrixFamily

variable {k t i j contract : Nat} {b : Bay} {e : EngineOp} {es : List EngineOp} {c d : Core} {s s1 u : State} {o : BitVec 128}
  {P : RowWrite → Prop}

/-! ### What a call leaves of its core, and its rows -/

/-- Core `d` is core `c` after the start of call `o` in cycle `t`, its rows aside. -/
structure CallStarted (t contract : Nat) (o : BitVec 128) (c d : Core) : Prop where
  queue : d.eng.scQueue = c.eng.scQueue
  counted : d.st.calls = satInc 65535 c.st.calls
  clamps : d.st.stepsClamps = if scStepsSrc o = true ∧ scSteps o < (counterAt c (scStepsCtr o) t).1.toNat
    then satInc 4095 c.st.stepsClamps else c.st.stepsClamps
  banks : d.eng.banks = c.eng.banks
  tags : d.tags = c.tags
  rows : d.rows = c.rows
  emptied : callEmpties t c o ∈ d.eng.tagActs
  filled : callFills t contract c o ∈ d.eng.tagActs

theorem CallStarted.rewritten {d' : Core} (h : CallStarted t contract o c d) (hr : Rewritten d d') :
    CallStarted t contract o c d' := by
  obtain ⟨_, _, _, _, _, rfl⟩ := hr
  exact ⟨h.queue, h.counted, h.clamps, h.banks, h.tags, h.rows, h.emptied, h.filled⟩

/-- A core that was tested counts the call and plans its tag actions. -/
theorem callStarted_planned {st : CoreStatus} (h : startCounts st = startCounts c.st) (su : List Nat) :
    CallStarted t contract o c (callPlanned t contract o c (numbered { c with st := st, suspects := su })) := by
  simp only [startCounts, Prod.mk.injEq] at h
  obtain ⟨-, -, hcalls, hclamps⟩ := h
  obtain ⟨acts, hacts, hempties, hfills⟩ := callPlanned_acts t contract o c (numbered { c with st := st, suspects := su })
  rw [hacts]
  refine ⟨rfl, congrArg (satInc 65535) hcalls, ?_, rfl, rfl, rfl, hempties, hfills⟩
  show (if _ then satInc 4095 st.stepsClamps else st.stepsClamps) = _
  rw [hclamps]

theorem callStarted_ready (k t : Nat) (e : EngineOp) (contract : Nat) (s : State) :
    CallStarted t contract e.word (coreOf s k) (coreOf (callReady k t e contract s) k) := by
  have htested := tested_callTested k t e s
  obtain ⟨st, su, hcore⟩ := htested.reports.core k
  have hcounts := htested.counts k
  rw [hcore] at hcounts
  rw [callReady, freshOp_eq, coreOf_modCore_same, coreOf_modCore_same, hcore]
  exact callStarted_planned hcounts su

theorem rewrites_underWay (k t : Nat) (e : EngineOp) (contract : Nat) (s : State) :
    Rewrites (callReady k t e contract s) (callUnderWay k t e contract s) :=
  rewrites_modCore (fun _ => ⟨_, _, _, _, _, rfl⟩) _ _

theorem callStarted_scanStart (k t : Nat) (e : EngineOp) (contract : Nat) (s : State) :
    CallStarted t contract e.word (coreOf s k) (coreOf (scanStart k t e contract s) k) := by
  have hready := callStarted_ready k t e contract s
  rw [scanStart_eq]
  split
  · exact hready
  · rw [putScan_eq]
    exact hready.rewritten (((rewrites_underWay k t e contract s).trans
      (rewrites_foldl (rewrites_putScanRow _ _ _) _ _)).core k)

/-- The windows that a row of a core may fall into are the same in both states. -/
theorem BearsAt.rewrites (h : BearsAt P j s) (hr : Rewrites s u) : BearsAt P j u := by
  unfold BearsAt
  rw [readerOf_of_bays hr.bays, (hr.core _).readWins]
  exact h

theorem leaves_putScan {outs : List ScanWrite} {op : Nat} (h : ∀ y, y ∈ outs → BearsAt P (rowPlace k y.1).1 s) :
    Leaves P s (putScan k op 0 outs s) := by
  rw [putScan_eq]
  induction outs generalizing s with
  | nil => exact fun _ h => h
  | cons y outs ih =>
    have hy : Leaves P s (putScanRow k op 0 s y) := leaves_putScanRow (h y List.mem_cons_self)
    exact fun j hj => ih (fun z hz => (h z (List.mem_cons_of_mem _ hz)).rewrites (rewrites_putScanRow _ _ _ _ _)) j (hy j hj)

theorem has_putScanRow {op : Nat} {x : ScanWrite} (h : BearsAt P (rowPlace k x.1).1 s)
    (hP : P ⟨x.2.1 + 1, (rowPlace k x.1).2, x.2.2.1, .sc, op⟩) : Has P (rowPlace k x.1).1 (putScanRow k op 0 s x) := by
  unfold Has
  rw [putScanRow_writes]
  exact has_storeRow h hP

/-- Every row of a call is written. -/
theorem has_putScan {outs : List ScanWrite} {op : Nat} {x : ScanWrite} (h : ∀ y, y ∈ outs → BearsAt P (rowPlace k y.1).1 s)
    (hx : x ∈ outs) (hP : P ⟨x.2.1 + 1, (rowPlace k x.1).2, x.2.2.1, .sc, op⟩) :
    Has P (rowPlace k x.1).1 (putScan k op 0 outs s) := by
  induction outs generalizing s with
  | nil => cases hx
  | cons y outs ih =>
    have hrest : ∀ z, z ∈ outs → BearsAt P (rowPlace k z.1).1 (putScanRow k op 0 s y) := fun z hz =>
      (h z (List.mem_cons_of_mem _ hz)).rewrites (rewrites_putScanRow _ _ _ _ _)
    rcases List.mem_cons.mp hx with rfl | hx
    · exact leaves_putScan hrest _ (has_putScanRow (h _ List.mem_cons_self) hP)
    · exact ih hrest hx

/-- The write of a row by call number `op`, with these contents where `Q` holds. -/
def callWrite (Q : Prop) (op row stamp : Nat) (data : Row) (w : RowWrite) : Prop :=
  w.row = row ∧ w.stamp = stamp ∧ w.unit = .sc ∧ w.op = op ∧ (Q → w.data = data)

theorem bears_callWrite {Q : Prop} {op op' : Nat} (h : Q → op' ≠ op) (row stamp : Nat) (data : Row) :
    Bears (callWrite Q op row stamp data) op' := by
  rintro w x ⟨hrow, hstamp, hunit, hop, -⟩ hop'
  exact ⟨hrow, hstamp, hunit, hop, fun hQ => absurd (hop'.symm.trans hop) (h hQ)⟩

/-- A start leaves the readers of rows where the state has its form. -/
theorem keepsReaders_underWay (k t : Nat) (e : EngineOp) (contract : Nat) (s : State) :
    KeepsReaders s (callUnderWay k t e contract s) := by
  have htested : KeepsReaders s (callTested k t e s) :=
    ((keepsReaders_foldl (fun s n => keepsReaders_expectTag k n true e.idx t s) _ s).trans
      (keepsReaders_expectTag _ _ _ _ _ _)).trans (keepsReaders_checkReads _ _ _)
  exact ((htested.trans (keepsReaders_modCore _ _ _)).trans (keepsReaders_modCore _ _ _)).trans (keepsReaders_modCore _ _ _)

theorem readerOf_of_deep (h : ∀ j, coreDeep u j = coreDeep s j) (j : Nat) : readerOf u j = readerOf s j := by
  unfold readerOf
  rw [h]

theorem rowsAlike_underWay (k t : Nat) (e : EngineOp) (contract : Nat) (s : State) :
    RowsAlike s (callUnderWay k t e contract s) := by
  refine (rowsAlike_callReady k t e contract s).trans (rowsAlike_modCore ?_ ?_ ?_ ?_ _ _)
  all_goals exact fun _ => rfl

/-- A shim occupies the unit and no more (R180); the unit is idle after it in cycle t₀ + W (log entry 145). -/
theorem scanCall_shim {k : CoreId} (henter : enterCycle (coreNo k) t s = some (i, b, s1))
    (hq : (coreOf s1 (coreNo k)).eng.scQueue = e :: es) (ht : e.start = t) (hshim : e.shim = true) :
    exec (.scanCallStart k t) s = .next (modCore (coreNo k) (scanOccupied t e.word es) s1) := by
  rw [exec_scanCallStart henter hq ht, hshim]
  rfl

/-- The head of the queue leaves it in its start cycle: the call is counted and its tag actions are planned, and its rows are
written L cycles after the reads they come from. Where the state has its form (O3) they hold what the reads give, unless an
operation under the number of the call reads a row of them. -/
theorem scanCall_starts {k : CoreId} (hkept : Kept s) (henter : enterCycle (coreNo k) t s = some (i, b, s1))
    (hq : (coreOf s1 (coreNo k)).eng.scQueue = e :: es) (ht : e.start = t) (hshim : e.shim = false) :
    let n := coreNo k
    let c := coreOf s1 n
    let outs := scanWrites s1 n e.word t (callSteps c e.word t) (callLatency b.contract c e.word)
    ∃ u, exec (.scanCallStart k t) s = .next u
      ∧ CallStarted t b.contract e.word (scanOccupied t e.word es c) (coreOf u n)
      ∧ ∀ x, 1 ≤ callSteps c e.word t → x ∈ outs →
        Has (callWrite (∀ y v, y ∈ outs → v ∈ (coreOf s1 (readerOf s1 (rowPlace n y.1).1)).eng.readWins → v.op ≠ c.eng.nextOp)
          c.eng.nextOp (rowPlace n x.1).2 (x.2.1 + 1) x.2.2.1) (rowPlace n x.1).1 u := by
  intro n c outs
  have hcore : coreOf (modCore n (scanOccupied t e.word es) s1) n = scanOccupied t e.word es c := coreOf_modCore_same _ _ _
  have hexec : exec (.scanCallStart k t) s
      = .next (scanStart n t e b.contract (modCore n (scanOccupied t e.word es) s1)) := by
    rw [exec_scanCallStart henter hq ht, hshim]
    rfl
  have hcalled := callStarted_scanStart n t e b.contract (modCore n (scanOccupied t e.word es) s1)
  rw [hcore] at hcalled
  refine ⟨_, hexec, hcalled, fun x hsteps hx => ?_⟩
  have hrows := exec_scanCallStart_rows henter hq ht hshim hsteps
  rw [Host.Outcome.next.inj (hexec.symm.trans hrows)]
  have hkept1 : Kept s1 := (within_enterCycle (Covers.self _) (Within.refl _ s) henter).kept hkept
  obtain ⟨-, hreaders⟩ := (keepsReaders_modCore n (scanOccupied t e.word es) s1).trans
    (keepsReaders_underWay n t e b.contract _) hkept1
  have halike := (scanOccupied_alike n t e.word es s1).trans (rowsAlike_underWay n t e b.contract _)
  refine has_putScan (fun y hy v hv => ?_) hx ?_
  · rw [readerOf_of_deep hreaders, halike.windows] at hv
    exact bears_callWrite (fun hwin => hwin y v hy hv) _ _ _
  · exact ⟨rfl, rfl, rfl, rfl, fun _ => rfl⟩

end Sys2Proof.VectorFamily

namespace Sys2Proof.VectorFamily

open Machine Laws SequencerFamily MatrixFamily

variable {t i : Nat} {b : Bay} {e : EngineOp} {es : List EngineOp} {s s1 u : State}

/-! ## Where O20 fails

Of a chain `vectorChain_starts` says all that O20 says, in every state; of a call `scanCall_starts` does, in the states that keep
their form (O3). In other states the last clause on a call's rows fails. It asks of the windows at the readers that the rows have as
the call finds them. A trap or a fault of the call's own tests puts the bay of the core into the list of bays at the place of its
handle; where that list was not in order, the bay may so come to stand before another that holds the core of an output row too. The
row has another reader then, of whose windows nothing is asked. -/

/-- What O20 says of one row that a call writes. -/
theorem plannedRow_of_claim (hO : Obligations.ChainsAndScanCallsStart) {k : CoreId} {steps lat : Nat} {x : ScanWrite}
    (henter : enterCycle (coreNo k) t s = some (i, b, s1)) (hq : (coreOf s1 (coreNo k)).eng.scQueue = e :: es)
    (ht : e.start = t) (hshim : e.shim = false) (hexec : exec (.scanCallStart k t) s = .next u)
    (hsteps : callSteps (coreOf s1 (coreNo k)) e.word t = steps)
    (hlat : callLatency b.contract (coreOf s1 (coreNo k)) e.word = lat) (hone : 1 ≤ steps)
    (hx : x ∈ scanWrites s1 (coreNo k) e.word t steps lat)
    {j p : Nat} (hp : rowPlace (coreNo k) x.1 = (j, p))
    (hplaces : ∀ y, y ∈ scanWrites s1 (coreNo k) e.word t steps lat → (rowPlace (coreNo k) y.1).1 = j)
    (hwin : (coreOf s1 (readerOf s1 j)).eng.readWins = []) :
    ∃ w, w ∈ (coreOf u j).writes ∧ w.row = p ∧ w.data = x.2.2.1 := by
  subst hsteps hlat
  obtain ⟨-, hscan⟩ := hO
  obtain ⟨-, hcall⟩ := hscan k t i b e es s s1 henter hq ht
  obtain ⟨u', hu, -, -, -, -, -, -, hrows, -⟩ := hcall hshim
  cases hexec.symm.trans hu
  obtain ⟨w, hw, hrow, -, -, hdata⟩ := hrows x hone hx
  rw [hp] at hw hrow
  refine ⟨w, hw, hrow, hdata fun y v hy hv => ?_⟩
  rw [hplaces y hy, hwin] at hv
  cases hv

namespace Disordered

/-- The calling core; the core to the right is number 1. -/
def core0 : CoreId := ⟨0, 0⟩

/-- One step of FMAX on one group, of row 0 into row 1024, which is row 0 of the core to the right; the state row is row 1025. -/
def callWord : BitVec 128 := BitVec.ofNat 128 (3 * 2 ^ 124 + 2 * 2 ^ 93 + 2 * 2 ^ 75 + 2 ^ 69 + 2 ^ 56 + 2 ^ 48)

/-- The call at the head of its queue. -/
def call : EngineOp := ⟨0, callWord, 10, false⟩

/-- The calling core, with an input row. -/
def caller (r : Row) : Core := { coreZero with
  image := { coreZero.image with slots := ((copies 64 0).set 1 1024).set 2 1025 }
  eng := { coreZero.eng with scQueue := [call] }
  rows := [(0, r)] }

/-- A window on row 0 under the number that the call takes. -/
def window : ReadWin := ⟨.vx, 1, [0], 0, 100⟩

/-- The core to the right, which reads its row 0. -/
def neighbour : Core := { coreZero with eng := { coreZero.eng with readWins := [window] } }

/-- A bay that runs in cycle 10, of `w` cores from column `x` on. -/
def runningBay (x w contract : Nat) (hazard : Bool) : Bay :=
  { part := 0, cx0 := x, cy0 := 0, w := w, ht := 1, contract := contract, drainBound := 0, hazard := hazard, mode := .running,
    point := 1, count := 11, freezeDue := none, conds := [], bankPlans := [], bankHeld := none, frozenAt := none, frozenNs := 0,
    idlePeriods := 0, idleSince := none, heldLong := false, holds := 0, stretches := 0, fault := 0, faultCore := none,
    faultDue := none, faultCycle := none, overrun := false, boostLost := false, boostTold := (false, false), buildGen := 0,
    seed := 0, change := none, stop := none, droops := [], traps := [], trapsLost := 0, xdescs := [] }

/-- The bay of both cores, with the hazard detector on: the empty slots of the call trap. -/
def callersBay : Bay := runningBay 0 2 2 true

/-- A bay in deep mode of the core to the right alone. -/
def neighboursBay : Bay := runningBay 1 1 7 false

/-- The bays are not in the order of their handles, and both hold the core to the right. -/
def disordered (r : Row) : State :=
  { State.reset with bays := [(1, neighboursBay), (0, callersBay)], cores := [(0, caller r), (1, neighbour)] }

/-- FP32 1.0 in every lane. -/
def ones : Row := rowOfElems 32 (copies 128 0x3F800000)

/-- The state in which the call's rows are written. -/
def underWay (r : Row) : State := callUnderWay 0 10 call 2 (modCore 0 (scanOccupied 10 callWord []) (disordered r))

theorem entered_disordered (r : Row) : enterCycle (coreNo core0) 10 (disordered r) = some (0, callersBay, disordered r) := rfl

/-- The contents of the call's output row. -/
def result (r : Row) : Row := (scanRow 2 0 (scanLanes 0) 0 r).2.1

/-- What the call's reads give: the output row and the state row. -/
def callRows (r : Row) : List ScanWrite := [(1024, 30, result r, noFlags), (1025, 30, result r, noFlags)]

/-- What the spoilt operation leaves in the output row: a free value. -/
def freeRow : Row := BitVec.ofNat 4096 (Config.freeValue 0)

theorem result_ne : result 0 ≠ result ones := by decide +kernel

theorem outs_eq {r : Row} (h : r = 0 ∨ r = ones) :
    scanWrites (disordered r) 0 callWord 10 1 20 = callRows r := by
  rcases h with rfl | rfl <;> decide +kernel

/-- No window stands at the reader that the output rows have before the call. -/
theorem noWindow (r : Row) : (coreOf (disordered r) (readerOf (disordered r) 1)).eng.readWins = [] := rfl

/-- After the call's tests the core to the right reads its own rows, and the write of the first falls into its window. -/
theorem underWay_facts {r : Row} (h : r = 0 ∨ r = ones) :
    spoilt (1, 0) 31 .sc (underWay r) = [window] ∧ spoilt (1, 1) 31 .sc (underWay r) = []
      ∧ (coreOf (underWay r) 1).writes = [] ∧ (underWay r).freeCtr = 0
      ∧ readerOf (underWay r) 1 = 1 ∧ coreDeep (underWay r) 1 = false := by
  rcases h with rfl | rfl <;> decide +kernel

/-- The call runs one step at latency 20. -/
theorem callSteps_eq (r : Row) : callSteps (coreOf (disordered r) 0) callWord 10 = 1 := rfl

theorem callLatency_eq {r : Row} (h : r = 0 ∨ r = ones) : callLatency 2 (coreOf (disordered r) 0) callWord = 20 := by
  rcases h with rfl | rfl <;> decide +kernel

/-- The call's rows as they are written. -/
theorem writes_of_call {r : Row} (h : r = 0 ∨ r = ones) :
    (coreOf (putScan 0 1 0 (callRows r) (underWay r)) 1).writes
      = [⟨31, 0, freeRow, .sc, 1⟩, ⟨31, 1, result r, .sc, 1⟩] := by
  obtain ⟨hfirst, hsecond, hwrites, hfree, hreader, hdeep⟩ := underWay_facts h
  have hrows := putScan_tainted_plain (k := 0) (d := 1024) (d' := 1025) (f := noFlags) (f' := noFlags) (x := result r)
    (x' := result r) rfl rfl hfirst hsecond (by decide) hreader hdeep hwrites
  rwa [hfree] at hrows

/-- The state after the call. -/
theorem exec_call {r : Row} (h : r = 0 ∨ r = ones) : exec (.scanCallStart core0 10) (disordered r)
    = .next (putScan 0 1 0 (callRows r) (underWay r)) := by
  have hexec := exec_scanCallStart_rows (k := core0) (e := call) (es := []) (entered_disordered r) rfl rfl rfl
    (callSteps_eq r).ge
  have hlat : callLatency callersBay.contract (coreOf (disordered r) (coreNo core0)) call.word = 20 := callLatency_eq h
  have hsteps : callSteps (coreOf (disordered r) (coreNo core0)) call.word 10 = 1 := callSteps_eq r
  rw [hlat, hsteps] at hexec
  have houts : scanWrites (disordered r) (coreNo core0) call.word 10 1 20 = _ := outs_eq h
  rw [houts] at hexec
  exact hexec

/-- What O20 says of the call's output row, and what stands there. -/
theorem result_eq_freeRow (hO : Obligations.ChainsAndScanCallsStart) {r : Row} (h : r = 0 ∨ r = ones) : result r = freeRow := by
  have houts := outs_eq h
  have hplaces : ∀ y, y ∈ scanWrites (disordered r) 0 callWord 10 1 20 → (rowPlace 0 y.1).1 = 1 := by
    rw [houts, callRows]
    simp [rowPlace, coreAt, coreX, coreY]
  have hmem : (1024, 30, result r, noFlags) ∈ scanWrites (disordered r) 0 callWord 10 1 20 := by
    rw [houts]
    exact List.mem_cons_self
  have hplace : rowPlace (coreNo core0) 1024 = (1, 0) := by decide
  obtain ⟨w, hw, hrow, hdata⟩ := plannedRow_of_claim hO (entered_disordered r) (e := call) (es := []) rfl rfl rfl (exec_call h)
    (callSteps_eq r) (callLatency_eq h) (le_refl 1) hmem hplace hplaces (noWindow r)
  rw [writes_of_call h] at hw
  rcases List.mem_pair.mp hw with rfl | rfl
  · exact hdata.symm
  · cases hrow

end Disordered

/-- Refutes O20: of two calls on different inputs, in a state with bays out of order, one finds in its output row not its result but
the free value that a spoilt operation leaves. -/
theorem not_chainsAndScanCallsStart : ¬ Obligations.ChainsAndScanCallsStart := fun h =>
  Disordered.result_ne ((Disordered.result_eq_freeRow h (.inl rfl)).trans (Disordered.result_eq_freeRow h (.inr rfl)).symm)

end Sys2Proof.VectorFamily

/-! Proofs of the family of the scratchpad and the access engine: the form that every step keeps (O3, O4), the banks of rows (O24),
rows that read back (O23), tag actions (O22), descriptors that start and complete (O25, O26), and remote writes (O27). -/

namespace Sys2Proof.ScratchpadFamily

open Machine Laws

/-! ## The form of the state (R182, R208, R323, R362) -/

/-- Settles O3: the commands keep the form, each by the frame lemma of its meaning, and the queue is no part of it. -/
theorem stepsKeepTheForm : Obligations.StepsKeepTheForm := fun s t h => (step_within s t h).kept

/-- Settles O4: nothing is stored at reset, and the record, the partitions and the quadrants are whole. -/
theorem resetHasTheForm : Obligations.ResetHasTheForm := by
  unfold Obligations.ResetHasTheForm
  constructor <;> rfl

/-! ## The bank of a row (R183) -/

theorem bankOfRow_eq (r : Nat) : bankOfRow r = (r % 16) ^^^ ((r / 16 % 16) ^^^ (r / 256 % 4 * 4)) := rfl

theorem bankOfRow_lt (r : Nat) : bankOfRow r < 16 :=
  Nat.xor_lt_two_pow (n := 4) (by omega) (Nat.xor_lt_two_pow (by omega) (by omega))

/-- In 16 rows from a multiple of 16 on, the bits 3 to 0 count. -/
theorem bankOfRow_add {r i : Nat} (h : r % 16 = 0) (hi : i < 16) : bankOfRow (r + i) = i ^^^ bankOfRow r := by
  rw [bankOfRow_eq, bankOfRow_eq, h, Nat.zero_xor, show (r + i) % 16 = i by omega, show (r + i) / 16 = r / 16 by omega,
    show (r + i) / 256 = r / 256 by omega]

/-- In 16 rows that lie 16 apart, the bits 7 to 4 count. -/
theorem bankOfRow_add_mul {r i : Nat} (h : r % 256 < 16) (hi : i < 16) : bankOfRow (r + 16 * i) = i ^^^ bankOfRow r := by
  rw [bankOfRow_eq, bankOfRow_eq, show (r + 16 * i) % 16 = r % 16 by omega, show (r + 16 * i) / 16 % 16 = i by omega,
    show (r + 16 * i) / 256 = r / 256 by omega, show r / 16 % 16 = 0 by omega, Nat.zero_xor, Nat.xor_left_comm]

/-- Settles O24: the three parts of the number are exclusive-ored, and of two rows of a family they differ in one part only. -/
theorem bankOfARow : Obligations.BankOfARow := by
  refine ⟨fun r _ => ⟨bankOfRow_lt r, ?formula⟩, fun r i j _ hr hi hj h => ?inLine, fun r i j _ hr hi hj h => ?apart⟩
  case formula => rw [bankOfRow_eq, Nat.shiftLeft_eq, Nat.xor_assoc]
  case inLine =>
    rw [bankOfRow_add hr hi, bankOfRow_add hr hj] at h
    exact Nat.xor_left_inj.mp h
  case apart =>
    rw [bankOfRow_add_mul hr hi, bankOfRow_add_mul hr hj] at h
    exact Nat.xor_left_inj.mp h

end Sys2Proof.ScratchpadFamily

namespace Sys2Proof.ScratchpadFamily

open Machine Laws SequencerFamily VectorFamily

variable {c d : Core} {s : State} {p : Nat × Nat} {stamp t r op : Nat} {data : Row} {unit : RowUnit}

/-! ## Rows read back (R161, R182, R211) -/

/-- A row stored is read from its stamp on, where no write with a later stamp is seen. -/
theorem coreRowAt_stored (h : stamp ≤ t) (hlast : ∀ w, w ∈ c.writes → w.row = p.2 → w.stamp ≤ t → w.stamp ≤ stamp) :
    coreRowAt (stored p stamp data unit op c) p.2 t = data := by
  have hnewest : newest (RowSeen p.2 t) (fun w => w.stamp) (stored p stamp data unit op c).writes
      = some ⟨stamp, p.2, data, unit, op⟩ :=
    newest_eq_some ⟨c.writes, [], rfl, ⟨rfl, h⟩, fun w hw hs => hlast w hw hs.1 hs.2, fun _ hw => by cases hw⟩
  rw [coreRowAt_eq, hnewest]
  rfl

/-- A read that does not see the row stored reads as before. -/
theorem coreRowAt_stored_unseen (h : ¬ RowSeen r t ⟨stamp, p.2, data, unit, op⟩) :
    coreRowAt (stored p stamp data unit op c) r t = coreRowAt c r t := by
  rw [coreRowAt_eq, coreRowAt_eq, stored, newest_append_one, newer_not h]

theorem scanAwaits_image (h : d.image = c.image) (k since : Nat) (run : ScanRun) :
    scanAwaits k since d p run = scanAwaits k since c p run := by
  unfold scanAwaits
  simp only [slotBaseOf_image h]

theorem scansHit_congr (hi : d.image = c.image) (he : d.eng = c.eng) (k : Nat) :
    scansHit k d p stamp op = scansHit k c p stamp op := by
  unfold scansHit
  simp only [he, scanAwaits_image hi]

/-- A row that no operation in progress reads is stored, and nothing else happens. -/
theorem putRow_unnoticed {k d : Nat} (hwins : spoilt (rowPlace k d) stamp unit s = [])
    (hscans : scansHit (readerOf s (rowPlace k d).1) (coreOf s (readerOf s (rowPlace k d).1)) (rowPlace k d) stamp op = []) :
    putRow k d stamp data unit op s = modCore (rowPlace k d).1 (stored (rowPlace k d) stamp data unit op) s := by
  have hreader : readerOf (modCore (rowPlace k d).1 (stored (rowPlace k d) stamp data unit op) s) (rowPlace k d).1
      = readerOf s (rowPlace k d).1 := readerOf_of_bays rfl _
  have hcore : ∀ j, (coreOf (modCore (rowPlace k d).1 (stored (rowPlace k d) stamp data unit op) s) j).image
        = (coreOf s j).image
      ∧ (coreOf (modCore (rowPlace k d).1 (stored (rowPlace k d) stamp data unit op) s) j).eng = (coreOf s j).eng := fun j => by
    by_cases hj : j = (rowPlace k d).1
    · rw [hj, coreOf_modCore_same]
      exact ⟨rfl, rfl⟩
    · rw [coreOf_modCore_ne _ _ hj]
      exact ⟨rfl, rfl⟩
  rw [putRow_eq, storeRow_unnoticed hwins]
  dsimp only
  rw [hreader, scansHit_congr (hcore _).1 (hcore _).2, hscans]
  rfl

/-- Settles O23: the write stands last among the writes of its core, and a read takes the newest that it sees. -/
theorem rowsReadBack : Obligations.RowsReadBack := by
  intro k d stamp op data unit s p r hwins hscans u
  have hu : u = modCore p.1 (stored p stamp data unit op) s := by
    refine putRow_unnoticed (List.filter_eq_nil_iff.mpr fun w hw => ?_) hscans
    rw [Bool.not_eq_true]
    exact hwins w hw
  have hsame : coreOf u p.1 = stored p stamp data unit op (coreOf s p.1) := by rw [hu, coreOf_modCore_same]
  have hne : ∀ j, j ≠ p.1 → coreOf u j = coreOf s j := fun j hj => by rw [hu, coreOf_modCore_ne _ _ hj]
  refine ⟨fun t ht hlast => ?written, fun t ht => ?before, fun j r t hp => ?others, fun j => ?rest⟩
  case written =>
    show coreRowAt (coreOf u p.1) p.2 t = data
    rw [hsame]
    exact coreRowAt_stored ht hlast
  case before =>
    show coreRowAt (coreOf u p.1) p.2 t = coreRowAt (coreOf s p.1) p.2 t
    rw [hsame]
    exact coreRowAt_stored_unseen fun h => Nat.not_le.mpr ht h.2
  case others =>
    show coreRowAt (coreOf u (rowPlace j r).1) (rowPlace j r).2 t = coreRowAt (coreOf s (rowPlace j r).1) (rowPlace j r).2 t
    by_cases hj : (rowPlace j r).1 = p.1
    · rw [hj, hsame]
      exact coreRowAt_stored_unseen fun h => hp (Prod.ext hj h.1.symm)
    · rw [hne _ hj]
  case rest =>
    by_cases hj : j = p.1
    · rw [hj, hsame]
      exact ⟨rfl, rfl, rfl⟩
    · rw [hne j hj]
      exact ⟨rfl, rfl, rfl⟩

end Sys2Proof.ScratchpadFamily

namespace Sys2Proof.ScratchpadFamily

open Machine Laws SequencerFamily

variable {c : Core} {s u : State} {k t x stamp : Nat} {g : TagCell} {acts acts' : List (Nat × Bool)}

/-! ## Tag actions (R191)

A tag action names its slot and says whether it makes the slot full. -/

/-- A tag as a test in cycle `t` sees it. -/
def cellAt (g : TagCell) (t : Nat) : Bool := if g.stamp ≤ t then g.cur else g.old

theorem tagAt_eq (h : c.tags[x]? = some g) (t : Nat) : tagAt c x t = cellAt g t := by
  rw [tagAt, List.getD_eq_getElem?_getD, h]
  rfl

/-- A tag after the actions that name its slot, all in the cycle before `stamp`. -/
def cellActs (stamp x : Nat) (acts : List (Nat × Bool)) (g : TagCell) : TagCell :=
  acts.foldl (fun g a => if a.1 = x then tagCellAct a.2 stamp g else g) g

/-- The tags of a core after actions in the cycle before `stamp`. -/
def actCells (stamp : Nat) (acts : List (Nat × Bool)) (l : List TagCell) : List TagCell :=
  acts.foldl (fun l a => modAt l a.1 (tagCellAct a.2 stamp)) l

theorem getElem?_actCells (stamp x : Nat) (acts : List (Nat × Bool)) (l : List TagCell) :
    (actCells stamp acts l)[x]? = l[x]?.map (cellActs stamp x acts) := by
  induction acts generalizing l with
  | nil => exact Option.map_id'.symm
  | cons a acts ih =>
    rw [actCells, List.foldl_cons, ← actCells, ih, modAt, List.getElem?_modify]
    cases l[x]? <;> rfl

/-! ### One tag -/

/-- A tag is full for the cycles from `stamp` on, and stays so under what else comes in the cycle before: full wins. -/
def FullFrom (stamp : Nat) (g : TagCell) : Prop := g.stamp = stamp ∧ g.cur = true ∧ g.sawFull = true

/-- A tag is empty for the cycles from `stamp` on, and no action of the cycle before has made it full. -/
def EmptyFrom (stamp : Nat) (g : TagCell) : Prop := g.stamp = stamp ∧ g.cur = false ∧ g.sawFull = false

theorem FullFrom.at (h : FullFrom stamp g) (ht : stamp ≤ t) : cellAt g t = true := by
  rw [cellAt, h.1, if_pos ht, h.2.1]

theorem EmptyFrom.at (h : EmptyFrom stamp g) (ht : stamp ≤ t) : cellAt g t = false := by
  rw [cellAt, h.1, if_pos ht, h.2.1]

theorem fullFrom_act (stamp : Nat) (g : TagCell) : FullFrom stamp (tagCellAct true stamp g) := by
  unfold tagCellAct
  split
  · rename_i h
    exact ⟨h, Bool.or_true _, Bool.or_true _⟩
  · exact ⟨rfl, rfl, rfl⟩

theorem FullFrom.act (h : FullFrom stamp g) (full : Bool) : FullFrom stamp (tagCellAct full stamp g) := by
  obtain ⟨hs, -, hf⟩ := h
  rw [tagCellAct, if_pos hs, hf, Bool.true_or]
  exact ⟨hs, rfl, rfl⟩

theorem emptyFrom_act (h : g.stamp = stamp → g.sawFull = false) : EmptyFrom stamp (tagCellAct false stamp g) := by
  unfold tagCellAct
  split
  · rename_i hs
    rw [h hs, Bool.or_false]
    exact ⟨hs, rfl, rfl⟩
  · exact ⟨rfl, rfl, rfl⟩

/-- What an action does is not seen in its own cycle. -/
theorem cellAt_act (full : Bool) (h : g.stamp ≤ t + 1) : (tagCellAct full (t + 1) g).stamp ≤ t + 1
    ∧ cellAt (tagCellAct full (t + 1) g) t = cellAt g t := by
  unfold tagCellAct
  split
  · rename_i hs
    refine ⟨h, ?_⟩
    unfold cellAt
    dsimp only
    rw [if_neg (by omega), if_neg (by omega)]
  · rename_i hs
    refine ⟨Nat.le_refl _, ?_⟩
    unfold cellAt
    rw [if_neg (Nat.not_succ_le_self t), if_pos (by omega)]

/-! ### The actions of one cycle on a tag -/

theorem cellActs_cons (stamp x : Nat) (a : Nat × Bool) (acts : List (Nat × Bool)) (g : TagCell) :
    cellActs stamp x (a :: acts) g = cellActs stamp x acts (if a.1 = x then tagCellAct a.2 stamp g else g) := rfl

/-- What one action keeps of a tag, all of them keep. -/
theorem cellActs_keeps {P : TagCell → Prop} (h : ∀ a, a ∈ acts → a.1 = x → ∀ g, P g → P (tagCellAct a.2 stamp g)) (hg : P g) :
    P (cellActs stamp x acts g) := by
  induction acts generalizing g with
  | nil => exact hg
  | cons a acts ih =>
    rw [cellActs_cons]
    refine ih (fun a ha => h a (List.mem_cons_of_mem _ ha)) ?_
    split
    · rename_i hx
      exact h a List.mem_cons_self hx g hg
    · exact hg

theorem fullFrom_acts (h : (x, true) ∈ acts) (g : TagCell) : FullFrom stamp (cellActs stamp x acts g) := by
  induction acts generalizing g with
  | nil => cases h
  | cons a acts ih =>
    rcases List.mem_cons.mp h with rfl | h
    · rw [cellActs_cons, if_pos rfl]
      exact cellActs_keeps (fun a _ _ _ hf => hf.act a.2) (fullFrom_act _ _)
    · exact ih h _

theorem emptyFrom_acts (h : (x, false) ∈ acts) (hno : (x, true) ∉ acts) (hg : g.stamp = stamp → g.sawFull = false) :
    EmptyFrom stamp (cellActs stamp x acts g) := by
  induction acts generalizing g with
  | nil => cases h
  | cons a acts ih =>
    obtain ⟨y, full⟩ := a
    obtain ⟨hno, hrest⟩ := not_or.mp fun h' => hno (List.mem_cons.mpr h')
    rw [cellActs_cons]
    by_cases hx : y = x
    · subst hx
      cases full with
      | true => exact absurd rfl hno
      | false =>
        rw [if_pos rfl]
        refine cellActs_keeps (fun a ha hx g he => ?_) (emptyFrom_act hg)
        obtain ⟨y, full⟩ := a
        cases hx
        cases full with
        | true => exact absurd ha hrest
        | false => exact emptyFrom_act fun _ => he.2.2
    · rw [if_neg hx]
      refine ih ?_ hrest hg
      rcases List.mem_cons.mp h with h | h
      · exact absurd (congrArg Prod.fst h).symm hx
      · exact h

theorem cellActs_unnamed (h : ∀ full, (x, full) ∉ acts) (g : TagCell) : cellActs stamp x acts g = g :=
  cellActs_keeps (P := fun g' => g' = g) (fun a ha hx _ _ => absurd (hx ▸ ha : (x, a.2) ∈ acts) (h a.2)) rfl

theorem cellAt_acts (h : g.stamp ≤ t + 1) : cellAt (cellActs (t + 1) x acts g) t = cellAt g t :=
  (cellActs_keeps (P := fun g' => g'.stamp ≤ t + 1 ∧ cellAt g' t = cellAt g t)
    (fun a _ _ _ hg => ⟨(cellAt_act a.2 hg.1).1, (cellAt_act a.2 hg.1).2.trans hg.2⟩) ⟨h, rfl⟩).2

/-! ### Tag actions of a unit (R126, R163, R178, R192) -/

/-- A tag action changes the tags and the count of clashes. -/
theorem tagAct_core (n : Nat) (full : Bool) (stamp : Nat) (c : Core) : ∃ clash, tagAct n full stamp c =
    { c with st := { c.st with tagClash := clash }, tags := modAt c.tags n (tagCellAct full stamp) } := by
  unfold tagAct
  dsimp only
  split
  · exact ⟨_, rfl⟩
  · exact ⟨c.st.tagClash, rfl⟩

/-- From `s` to `u` tag actions take place in core `k`, in the cycle before `stamp`, each with its test. -/
structure TagsActed (k stamp : Nat) (acts : List (Nat × Bool)) (s u : State) : Prop where
  core : ∃ st su, coreOf u k = { coreOf s k with st := st, suspects := su, tags := actCells stamp acts (coreOf s k).tags }
  others : ∀ j, j ≠ k → coreOf u j = coreOf s j

theorem TagsActed.refl (k stamp : Nat) (s : State) : TagsActed k stamp [] s s := ⟨⟨_, _, rfl⟩, fun _ _ => rfl⟩

theorem TagsActed.trans {v : State} (h : TagsActed k stamp acts s u) (h' : TagsActed k stamp acts' u v) :
    TagsActed k stamp (acts ++ acts') s v := by
  obtain ⟨st, su, hu⟩ := h.core
  obtain ⟨st', su', hv⟩ := h'.core
  refine ⟨⟨st', su', ?_⟩, fun j hj => (h'.others j hj).trans (h.others j hj)⟩
  rw [hv, hu, actCells, actCells, actCells, List.foldl_append]

theorem tagsActed_foldl {α : Type} {f : State → α → State} {acts : α → List (Nat × Bool)}
    (h : ∀ s a, TagsActed k stamp (acts a) s (f s a)) (l : List α) (s : State) :
    TagsActed k stamp (l.flatMap acts) s (l.foldl f s) := by
  induction l generalizing s with
  | nil => exact TagsActed.refl k stamp s
  | cons a l ih => exact (h s a).trans (ih _)

theorem tagsActed_expectTag (k slot : Nat) (full : Bool) (index t stamp : Nat) (s : State) :
    TagsActed k stamp [] s (expectTag k slot full index t s) := by
  refine ⟨?_, fun j hj => expectTag_ne _ _ _ _ _ hj⟩
  obtain ⟨st, su, h⟩ := (reports_expectTag k slot full index t s).core k
  exact ⟨st, su, h⟩

theorem tagsActed_tagAct (k n : Nat) (full : Bool) (stamp : Nat) (s : State) :
    TagsActed k stamp [(n, full)] s (modCore k (tagAct n full stamp) s) := by
  refine ⟨?_, fun j hj => coreOf_modCore_ne _ _ hj⟩
  obtain ⟨clash, h⟩ := tagAct_core n full stamp (coreOf s k)
  rw [coreOf_modCore_same, h]
  exact ⟨_, _, rfl⟩

/-- A slot is tested and made empty. -/
def emptySlot (k t : Nat) (s : State) (n : Nat) : State := modCore k (tagAct n false (t + 1)) (expectTag k n true 0 t s)

/-- A slot is tested, where it should be empty, and made full. -/
def fillSlot (k t : Nat) (expectEmpty : Nat → Bool) (s : State) (n : Nat) : State :=
  modCore k (tagAct n true (t + 1)) (if expectEmpty n then expectTag k n false 0 t s else s)

/-- What a planned tag action does when it is due. -/
def runTagAct (k t : Nat) (expectEmpty : Nat → Bool) (s : State) (a : TagAct) : State :=
  a.fulls.foldl (fillSlot k t expectEmpty) (a.empties.foldl (emptySlot k t) s)

/-- The actions on tags of a planned tag action. -/
def slotActs (a : TagAct) : List (Nat × Bool) :=
  a.empties.flatMap (fun n => [(n, false)]) ++ a.fulls.flatMap (fun n => [(n, true)])

theorem mem_slotActs {a : TagAct} {full : Bool} : (x, full) ∈ slotActs a ↔ x ∈ (if full then a.fulls else a.empties) := by
  cases full <;> simp [slotActs]

theorem tagsActed_runTagAct (k t : Nat) (expectEmpty : Nat → Bool) (s : State) (a : TagAct) :
    TagsActed k (t + 1) (slotActs a) s (runTagAct k t expectEmpty s a) := by
  refine (tagsActed_foldl (fun s n => ?_) _ s).trans (tagsActed_foldl (fun s n => ?_) _ _)
  · exact (tagsActed_expectTag _ _ _ _ _ _ s).trans (tagsActed_tagAct _ _ _ _ _)
  · unfold fillSlot
    split
    · exact (tagsActed_expectTag _ _ _ _ _ _ s).trans (tagsActed_tagAct _ _ _ _ _)
    · exact tagsActed_tagAct _ _ _ _ _

/-- Whether a planned tag action is one of a kind that is due in a cycle. -/
def isDue (kind : TagKind) (t : Nat) (a : TagAct) : Bool := a.kind == kind && a.cycle == t

/-- The planned tag actions of a kind and a cycle are done with. -/
def forgetActs (kind : TagKind) (t : Nat) (c : Core) : Core :=
  { c with eng := { c.eng with tagActs := c.eng.tagActs.filter (fun a => !isDue kind t a) } }

theorem runTagActs_due {kind : TagKind} {expectEmpty : Nat → Bool} {i : Nat} {b : Bay} {s1 : State}
    (he : enterCycle k t s = some (i, b, s1)) (hdue : (coreOf s1 k).eng.tagActs.filter (isDue kind t) ≠ []) :
    runTagActs kind k t expectEmpty s = .next (modCore k (forgetActs kind t)
      (((coreOf s1 k).eng.tagActs.filter (isDue kind t)).foldl (runTagAct k t expectEmpty) s1)) := by
  unfold runTagActs
  rw [he]
  exact if_neg fun h => hdue (List.isEmpty_iff.mp h)

/-- The rows of tag actions differ in the slots that they expect empty. -/
theorem exec_tagRow {k : CoreId} {kind : TagKind} {row : Instr} {i : Nat} {b : Bay} {s1 : State}
    (hrow : (kind, row) ∈ tagRows k t) (he : enterCycle (coreNo k) t s = some (i, b, s1)) :
    ∃ expectEmpty, exec row s = runTagActs kind (coreNo k) t expectEmpty s := by
  simp only [tagRows, List.mem_cons, Prod.mk.injEq, List.not_mem_nil, or_false] at hrow
  rcases hrow with ⟨rfl, rfl⟩ | ⟨rfl, rfl⟩ | ⟨rfl, rfl⟩ | ⟨rfl, rfl⟩ | ⟨rfl, rfl⟩ | ⟨rfl, rfl⟩ | ⟨rfl, rfl⟩
  case inr.inr.inr.inr.inl =>
    have hfull (s : State) : exec (.scanOutputFull k t) s = execScanOutputFull k t s := rfl
    rw [hfull, execScanOutputFull, he]
    exact ⟨_, rfl⟩
  all_goals exact ⟨_, rfl⟩

/-- Settles O22: of the actions due each changes its tag as seen from the next cycle on, and an empty gives way to a full. -/
theorem tagActionsTakePlace : Obligations.TagActionsTakePlace := by
  intro k t kind row i b s s1 hrow henter n c due hdue
  obtain ⟨expectEmpty, hexec⟩ := exec_tagRow hrow henter
  have hacted := tagsActed_foldl (tagsActed_runTagAct n t expectEmpty) due s1
  obtain ⟨st, su, hcore⟩ := hacted.core
  have hmem : ∀ x full, (x, full) ∈ due.flatMap slotActs ↔ ∃ a, a ∈ due ∧ x ∈ (if full then a.fulls else a.empties) :=
    fun x full => by simp only [List.mem_flatMap, mem_slotActs]
  have hrun : exec row s = .next (modCore n (forgetActs kind t) (due.foldl (runTagAct n t expectEmpty) s1)) :=
    hexec.trans (runTagActs_due henter hdue)
  refine ⟨_, hrun, ?_⟩
  rw [coreOf_modCore_same, hcore]
  have hcell : ∀ x g, c.tags[x]? = some g →
      (actCells (t + 1) (due.flatMap slotActs) c.tags)[x]? = some (cellActs (t + 1) x (due.flatMap slotActs) g) :=
    fun x g hg => by rw [getElem?_actCells, hg, Option.map_some]
  refine ⟨rfl, fun x g hg hfull => ?full, fun x g hg hempty hnone hsaw => ?empty, fun x hnone => ?unnamed,
    fun x g hg hs => ?seen, rfl, rfl, rfl, rfl, fun j hj => ?others⟩
  case full =>
    rw [tagAt_eq (hcell x g hg)]
    exact (fullFrom_acts ((hmem x true).mpr hfull) g).at (Nat.le_refl _)
  case empty =>
    rw [tagAt_eq (hcell x g hg)]
    refine (emptyFrom_acts ((hmem x false).mpr hempty) (fun h => ?_) hsaw).at (Nat.le_refl _)
    obtain ⟨a, ha, hx⟩ := (hmem x true).mp h
    exact hnone a ha hx
  case unnamed =>
    have hno : ∀ full, (x, full) ∉ due.flatMap slotActs := fun full h => by
      obtain ⟨a, ha, hx⟩ := (hmem x full).mp h
      cases full
      · exact (hnone a ha).2 hx
      · exact (hnone a ha).1 hx
    show (actCells (t + 1) (due.flatMap slotActs) c.tags)[x]? = c.tags[x]?
    rw [getElem?_actCells, show cellActs (t + 1) x (due.flatMap slotActs) = id from funext (cellActs_unnamed hno),
      Option.map_id]
    rfl
  case seen =>
    rw [tagAt_eq (hcell x g hg), tagAt_eq hg]
    exact cellAt_acts hs
  case others =>
    rw [coreOf_modCore_ne _ _ hj]
    exact hacted.others j hj

end Sys2Proof.ScratchpadFamily

namespace Sys2Proof.ScratchpadFamily

open Machine Laws

variable {c d e : Core} {s u v : State} {k i part : Nat} {b : Bay} {x y : DescRun}

/-! ## Relations that operations keep -/

/-- A relation that every step of a fold keeps. -/
theorem related_foldl {α : Type} {R : State → State → Prop} (hr : ∀ s, R s s) (ht : ∀ {s u v}, R s u → R u v → R s v)
    {f : State → α → State} (h : ∀ s a, R s (f s a)) (l : List α) (s : State) : R s (l.foldl f s) := by
  induction l generalizing s with
  | nil => exact hr s
  | cons a l ih => exact ht (h s a) (ih _)

/-- A core that changes leaves the other cores as they are. -/
theorem onCores_modCore {R : Core → Core → Prop} (hr : ∀ c, R c c) {f : Core → Core} (h : ∀ c, R c (f c)) (k : Nat) (s : State)
    (j : Nat) : R (coreOf s j) (coreOf (modCore k f s) j) := by
  by_cases hj : j = k
  · rw [hj, coreOf_modCore_same]
    exact h _
  · rw [coreOf_modCore_ne _ _ hj]
    exact hr _

/-! ## Started descriptors (R202 to R204) -/

/-- A started descriptor has gone on: it is the same one, and has written at least the rows that it had. -/
structure GoesOn (x y : DescRun) : Prop where
  id : y.id = x.id
  raw : y.raw = x.raw
  done : ∀ r, r ∈ x.rowsDone → r ∈ y.rowsDone

theorem GoesOn.refl (x : DescRun) : GoesOn x x := ⟨rfl, rfl, fun _ h => h⟩

/-- The started descriptors have gone on, in the same order. -/
def GoOn (l l' : List DescRun) : Prop := ∃ f : DescRun → DescRun, (∀ x, GoesOn x (f x)) ∧ l' = l.map f

theorem GoOn.refl (l : List DescRun) : GoOn l l := ⟨fun x => x, GoesOn.refl, (List.map_id' l).symm⟩

theorem GoOn.trans {l l' l'' : List DescRun} (h : GoOn l l') (h' : GoOn l' l'') : GoOn l l'' := by
  obtain ⟨f, hf, rfl⟩ := h
  obtain ⟨g, hg, rfl⟩ := h'
  exact ⟨fun x => g (f x), fun x => ⟨(hg _).id.trans (hf x).id, (hg _).raw.trans (hf x).raw,
    fun r hr => (hg _).done r ((hf x).done r hr)⟩, List.map_map⟩

theorem GoOn.mem {l l' : List DescRun} (h : GoOn l l') (hx : x ∈ l) : ∃ y, y ∈ l' ∧ GoesOn x y := by
  obtain ⟨f, hf, rfl⟩ := h
  exact ⟨f x, List.mem_map_of_mem hx, hf x⟩

theorem GoOn.find {l l' : List DescRun} (h : GoOn l l') {id : Nat} (hx : l.find? (fun y => y.id = id) = some x) :
    ∃ y, l'.find? (fun y => y.id = id) = some y ∧ GoesOn x y := by
  obtain ⟨f, hf, rfl⟩ := h
  have hp : (fun y : DescRun => decide (y.id = id)) ∘ f = fun y => decide (y.id = id) := by
    funext y
    rw [Function.comp_apply, (hf y).id]
  refine ⟨f x, ?_, hf x⟩
  rw [List.find?_map, hp, hx, Option.map_some]

/-- One started descriptor goes on. -/
def runOn (id : Nat) (f : DescRun → DescRun) (c : Core) : Core :=
  { c with ax := { c.ax with started := c.ax.started.map (fun x => if x.id = id then f x else x) } }

theorem modRun_eq (k id : Nat) (f : DescRun → DescRun) (s : State) : modRun k id f s = modCore k (runOn id f) s := rfl

theorem goOn_runOn {id : Nat} {f : DescRun → DescRun} (h : ∀ x, GoesOn x (f x)) (c : Core) :
    GoOn c.ax.started (runOn id f c).ax.started := by
  refine ⟨fun x => if x.id = id then f x else x, fun x => ?_, rfl⟩
  dsimp only
  split
  · exact h x
  · exact GoesOn.refl x

/-! ## A fault that stands (R201, R269) -/

/-- The first fault of a bay stands. -/
theorem faultBay_faultBay (code code' k k' c c' : Nat) (b : Bay) :
    faultBay code' k' c' (faultBay code k c b) = faultBay code k c b := by
  by_cases h : (b.faultDue.isSome || b.mode == .faultHold || b.mode == .stopped) = true
  · have hb : ∀ code k c, faultBay code k c b = b := fun _ _ _ => if_pos h
    rw [hb, hb]
  · have hb : faultBay code k c b = { b with fault := code, faultCore := some k, faultDue := some (c + 6) } := if_neg h
    rw [hb]
    rfl

/-- Core `k` belongs to bay `i`, which has a fault. -/
structure FaultStands (k i : Nat) (b : Bay) (s : State) : Prop where
  core : bayOfCore s k = some (i, b)
  bay : bayOf s i = some b
  fault : ∀ code c, faultBay code k c b = b

theorem FaultStands.of_bays (h : FaultStands k i b s) (hb : u.bays = s.bays) : FaultStands k i b u :=
  ⟨(bayOfCore_of_bays hb k).trans h.core, (bayOf_of_bays hb i).trans h.bay, h.fault⟩

theorem FaultStands.faultCoreBay (h : FaultStands k i b s) (code c : Nat) : FaultStands k i b (faultCoreBay code k c s) := by
  obtain ⟨hcore, hbay⟩ := faultCoreBay_bay (code := code) (c := c) h.core
  rw [h.fault] at hcore hbay
  exact ⟨hcore, hbay, h.fault⟩

theorem reportUncorrectable_bays (r : LogRec) (s : State) : (reportUncorrectable r s).bays = s.bays :=
  (within_reportUncorrectable (S := [.host, .ev, .fw, .err, .hostMem, .bootLog]) (res := none) (Covers.self _)
    (Within.refl _ s)).frame .bays (by decide)

theorem reportCorrected_bays (n : Nat) (r : LogRec) (s : State) : (reportCorrected n r s).bays = s.bays :=
  (within_reportCorrected (S := [.host, .ev, .fw, .err, .hostMem, .bootLog]) (Covers.self _)
    (Within.refl _ s)).frame .bays (by decide)

theorem examineInj_bays (p : Nat) (f : Injection → Bool) (s : State) : (examineInj p f s).2.bays = s.bays :=
  (within_examineInj (S := [.host, .ev, .fw, .err, .hostMem, .bootLog]) (Covers.self _)
    (Within.refl _ s)).frame .bays (by decide)

theorem FaultStands.coreError (h : FaultStands k i b s) (t cls unit off : Nat) (inj : Bool) :
    FaultStands k i b (coreError k t cls unit off inj s) := by
  have hmarked : FaultStands k i b (modCore k (fun c => { c with st := setCause 3 c.st }) s) := h.of_bays rfl
  exact (hmarked.faultCoreBay 4 t).of_bays (reportUncorrectable_bays _ _)

theorem FaultStands.examineRow (h : FaultStands k i b s) (d t : Nat) : FaultStands k i b (examineRow k d t s) := by
  unfold Machine.examineRow
  dsimp only
  generalize hread : examineInj 2 _ _ = ue
  have hue : FaultStands k i b ue.2 := by
    refine h.of_bays ?_
    rw [← hread, examineInj_bays]
    split
    · rw [reportCorrected_bays, examineInj_bays]
    · rfl
  have hsuspect : ∀ q r, FaultStands k i b (suspectRow q r ue.2) := fun _ _ => hue.of_bays rfl
  split
  · exact (hsuspect _ _).coreError _ _ _ _ _
  · split
    · exact (hsuspect _ _).coreError _ _ _ _ _
    · exact hue

theorem FaultStands.checkReads (h : FaultStands k i b s) (l : List (Nat × Nat)) : FaultStands k i b (checkReads k l s) :=
  related_foldl (R := fun s u => FaultStands k i b s → FaultStands k i b u) (fun _ h => h) (fun h h' hs => h' (h hs))
    (fun _ a hs => hs.examineRow a.1 a.2) l s h

/-! ## An access fault (R201) -/

/-- A core that keeps the cause of an access fault. -/
def withAxFault (code : Nat) (c : Core) : Core :=
  { c with st := { c.st with axFault := if c.st.axFault = 0 then code else c.st.axFault } }

theorem accessFault_eq (code : Nat) (h : bayOfCore s k = some (i, b)) :
    accessFault k code s = faultCoreBay 3 k (b.count - 1) (modCore k (withAxFault code) s) := by
  have hb : bayOfCore (modCore k (withAxFault code) s) k = some (i, b) := h
  rw [faultCoreBay, hb]
  unfold accessFault
  dsimp only
  rw [show ∀ f, bayOfCore (modCore k f s) k = some (i, b) from fun _ => h]
  rfl

theorem coreOf_accessFault (code : Nat) (h : bayOfCore s k = some (i, b)) (j : Nat) :
    coreOf (accessFault k code s) j = coreOf (modCore k (withAxFault code) s) j := by
  rw [accessFault_eq code h, coreOf_faultCoreBay]

theorem faultStands_accessFault (code : Nat) (h : bayOfCore s k = some (i, b)) :
    FaultStands k i (faultBay 3 k (b.count - 1) b) (accessFault k code s) := by
  obtain ⟨hcore, hbay⟩ := faultCoreBay_bay (code := 3) (c := b.count - 1) (s := modCore k (withAxFault code) s) h
  rw [accessFault_eq code h]
  exact ⟨hcore, hbay, fun _ _ => faultBay_faultBay _ _ _ _ _ _ _⟩

/-! ## Bursts issue (R202, R203) -/

/-- What the issue of bursts leaves of its core: all but the cause of a fault hold, the rows to be retested, the progress of the
descriptors, more bursts, and the next tag and port. -/
def BurstsIssued (c d : Core) : Prop :=
  ∃ cause su runs more tag port, GoOn c.ax.started runs
    ∧ (c.ax.bursts.length ≤ 16 → (c.ax.bursts ++ more).length ≤ 16)
    ∧ d = { c with
        st := { c.st with faultCause := cause }
        suspects := su
        ax := { c.ax with started := runs, bursts := c.ax.bursts ++ more, nextTag := tag, portNext := port } }

theorem BurstsIssued.of_marked (h : CoreMarked c d) : BurstsIssued c d := by
  obtain ⟨cause, su, rfl⟩ := h
  exact ⟨cause, su, c.ax.started, [], c.ax.nextTag, c.ax.portNext, GoOn.refl _, by simp, by simp⟩

theorem BurstsIssued.trans (h : BurstsIssued c d) (h' : BurstsIssued d e) : BurstsIssued c e := by
  obtain ⟨_, _, _, more, _, _, hgo, hlen, rfl⟩ := h
  obtain ⟨cause, su, runs, more', tag, port, hgo', hlen', rfl⟩ := h'
  refine ⟨cause, su, runs, more ++ more', tag, port, hgo.trans hgo', fun hc => ?_, ?_⟩
  · rw [← List.append_assoc]
    exact hlen' (hlen hc)
  · rw [← List.append_assoc]

/-- From `s` to `u` the access engine of core `k` issues bursts; a fault of its bay stands. -/
structure Issues (k : Nat) (s u : State) : Prop where
  core : BurstsIssued (coreOf s k) (coreOf u k)
  fault : ∀ {i b}, FaultStands k i b s → FaultStands k i b u

theorem Issues.refl (k : Nat) (s : State) : Issues k s s := ⟨.of_marked (CoreMarked.refl _), fun h => h⟩

theorem Issues.trans (h : Issues k s u) (h' : Issues k u v) : Issues k s v :=
  ⟨h.core.trans h'.core, fun hs => h'.fault (h.fault hs)⟩

theorem issues_modCore {f : Core → Core} (h : BurstsIssued (coreOf s k) (f (coreOf s k))) : Issues k s (modCore k f s) :=
  ⟨by rwa [coreOf_modCore_same], fun hs => hs.of_bays rfl⟩

theorem issues_modRun (k id : Nat) {f : DescRun → DescRun} (h : ∀ x, GoesOn x (f x)) (s : State) :
    Issues k s (modRun k id f s) :=
  issues_modCore ⟨_, _, _, [], _, _, goOn_runOn h _, by simp, by rw [List.append_nil]; rfl⟩

theorem issues_fail (k id : Nat) (s : State) : Issues k s (modRun k id (fun y => { y with failed := true }) s) :=
  issues_modRun k id (f := fun y => { y with failed := true }) (fun _ => ⟨rfl, rfl, fun _ h => h⟩) s

theorem issues_placeReads (k : Nat) (rows : List Nat) (s : State) : Issues k s (placeReads k rows s) :=
  related_foldl (Issues.refl k) Issues.trans
    (fun _ _ => issues_modCore ⟨_, _, _, [], _, _, GoOn.refl _, by simp, by rw [List.append_nil]⟩) rows s

theorem issues_checkReads (k : Nat) (l : List (Nat × Nat)) (s : State) : Issues k s (checkReads k l s) :=
  ⟨.of_marked ((marks_checkReads k l s).core k), fun h => h.checkReads l⟩

theorem sendRequest_bays (f : Flight) (s : State) : (sendRequest f s).bays = s.bays :=
  (within_sendRequest (S := [.fab]) (Covers.self _) (Within.refl _ s)).frame .bays (by decide)

theorem sendRequest_cores (f : Flight) (s : State) : (sendRequest f s).cores = s.cores :=
  (within_sendRequest (S := [.fab]) (Covers.self _) (Within.refl _ s)).frame .cores (by decide)

theorem issues_sendRequest (k : Nat) (f : Flight) (s : State) : Issues k s (sendRequest f s) := by
  refine ⟨?_, fun h => h.of_bays (sendRequest_bays f s)⟩
  rw [coreOf_of_cores (sendRequest_cores f s)]
  exact .of_marked (CoreMarked.refl _)

/-- A burst takes a slot. -/
def addBurst (x : Burst) (tag : Nat) (c : Core) : Core := { c with ax := { c.ax with bursts := c.ax.bursts ++ [x], nextTag := tag } }

theorem issues_addBurst (x : Burst) (tag : Nat) (h : (coreOf s k).ax.bursts.length < 16) :
    Issues k s (modCore k (addBurst x tag) s) :=
  issues_modCore ⟨_, _, _, [x], tag, _, GoOn.refl _, fun _ => by rw [List.length_append]; exact h, rfl⟩

/-- A burst takes a slot, and its descriptor goes on by its length. -/
theorem issues_take (x : Burst) (tag id len : Nat) (h : (coreOf s k).ax.bursts.length < 16) :
    Issues k s (modRun k id (fun y => { y with next := y.next + len }) (modCore k (addBurst x tag) s)) :=
  (issues_addBurst x tag h).trans (issues_modRun k id (f := fun y => { y with next := y.next + len }) (fun _ => ⟨rfl, rfl, fun _ h => h⟩) _)

/-- The examination and the placing of reads leave the bursts. -/
theorem placeReads_bursts (k : Nat) (rows : List Nat) (l : List (Nat × Nat)) (s : State) :
    (coreOf (placeReads k rows (checkReads k l s)) k).ax.bursts = (coreOf s k).ax.bursts := by
  have hplace : ∀ s : State, (coreOf (placeReads k rows s) k).ax.bursts = (coreOf s k).ax.bursts :=
    related_foldl (R := fun s u => (coreOf u k).ax.bursts = (coreOf s k).ax.bursts) (fun _ => rfl) (fun h h' => h'.trans h)
      (fun s _ => by rw [usePort, coreOf_modCore_same]) rows
  rw [hplace, ((marks_checkReads k l s).core k).ax]

theorem issues_issueBursts (k part n : Nat) (s : State) : Issues k s (issueBursts k part n s) := by
  induction n generalizing s with
  | zero => exact Issues.refl k s
  | succ n ih =>
    rw [issueBursts]
    dsimp only
    split
    · exact Issues.refl k s
    · rename_i hlen
      rw [Nat.not_le] at hlen
      split
      · exact Issues.refl k s
      · rename_i x _
        split
        · exact ((issues_take _ _ _ _ hlen).trans (issues_fail k _ _)).trans (ih _)
        · generalize (if dsOp x.raw = 2 then drainRows s k x.raw x.next _ else []) = rows
          have hreads : ∀ l, Issues k s (placeReads k rows (checkReads k l s)) := fun l =>
            (issues_checkReads k l s).trans (issues_placeReads k rows _)
          split
          · exact ((hreads _).trans (issues_fail k _ _)).trans (ih _)
          · refine (((hreads _).trans (issues_take _ _ _ _ ?_)).trans (issues_sendRequest k _ _)).trans (ih _)
            rwa [placeReads_bursts]

end Sys2Proof.ScratchpadFamily

namespace Sys2Proof.ScratchpadFamily

open Machine Laws

variable {c : Core} {s u : State} {k : CoreId} {i time : Nat} {b : Bay} {d : List Byte} {rest : List (List Byte)}

/-! ## DESCRIPTOR_START (R201 to R203) -/

theorem hostRunOk_parts (h : u.parts = s.parts) (part : Nat) (wr : Bool) (n : Nat) (a : Int) (left : Nat) :
    hostRunOk u part wr n a left = hostRunOk s part wr n a left := by
  induction n generalizing a left with
  | zero => rfl
  | succ n ih => simp only [hostRunOk, hostWindowOk, partOf, h, ih]

/-- The time is no part of what the start stage checks. -/
theorem startFault_atTime (k part : Nat) (d : List Byte) : startFault (atTime time s) k part d = startFault s k part d := by
  have hpartition : partitionFault (atTime time s) k part d = partitionFault s k part d := by
    unfold partitionFault
    simp only [hostRunOk_parts (atTime_parts s time)]
    rfl
  unfold startFault
  rw [hpartition]
  rfl

/-- A descriptor leaves the queue and starts. -/
def startDesc (rank : Nat) (d : List Byte) (rest : List (List Byte)) (c : Core) : Core :=
  { c with ax := { c.ax with
    queue := rest
    started := c.ax.started ++ [⟨c.ax.nextDesc, d, 0, [], 0, rank, false⟩]
    nextDesc := c.ax.nextDesc + 1 } }

/-- What DESCRIPTOR_START does with a head descriptor. -/
theorem exec_descriptorStart (hb : bayOfCore s (coreNo k) = some (i, b)) (hq : (coreOf s (coreNo k)).ax.queue = d :: rest)
    (hstarts : engineStarts b = true) :
    exec (.descriptorStart k time) s =
      if startFault s (coreNo k) b.part d ≠ 0 then
        .next (accessFault (coreNo k) (startFault s (coreNo k) b.part d) (atTime time s))
      else if waitMet s (coreNo k) d = false then .next s
      else .next (issueBursts (coreNo k) b.part 16
        (modCore (coreNo k) (startDesc (dsRankEntry s (coreNo k) b.part d) d rest) (atTime time s))) := by
  show execDescriptorStart k time s = _
  have hwait : waitMet (atTime time s) (coreNo k) d = waitMet s (coreNo k) d := rfl
  unfold execDescriptorStart
  dsimp only
  rw [hb, hq]
  dsimp only
  rw [hstarts, startFault_atTime, hwait]
  simp only [Bool.not_true, Bool.false_eq_true, if_false, Bool.not_eq_true']
  rfl

/-- Settles O25: the checks are those of the access faults in their order, and what issues after the start leaves the descriptor
its number and bytes. -/
theorem descriptorsStart : Obligations.DescriptorsStart := by
  intro k time i b d rest s n c fault hb hq hstarts
  have hexec := exec_descriptorStart (time := time) hb hq hstarts
  have hfault : startFault s n b.part d = fault := rfl
  rw [hfault] at hexec
  have hb' : bayOfCore (atTime time s) n = some (i, b) := hb
  refine ⟨fun hne => ?faults, fun hok hwait => ?waits, fun hok hwait => ?starts⟩
  case faults =>
    rw [if_pos hne] at hexec
    have hcore : coreOf (accessFault n fault (atTime time s)) n = withAxFault fault c := by
      rw [coreOf_accessFault fault hb', coreOf_modCore_same]
      rfl
    refine ⟨_, hexec, ?_, (faultStands_accessFault fault hb').bay, ?_, ?_, fun j hj => ?_⟩
    · rw [hcore]
      rfl
    · rw [hcore]
      rfl
    · rw [hcore]
      rfl
    · rw [coreOf_accessFault fault hb', coreOf_modCore_ne _ _ hj]
      rfl
  case waits =>
    rw [hexec, if_neg (not_not.mpr hok), if_pos hwait]
  case starts =>
    rw [if_neg (not_not.mpr hok), if_neg (by rw [hwait]; decide)] at hexec
    have hissued := (issues_issueBursts n b.part 16
      (modCore n (startDesc (dsRankEntry s n b.part d) d rest) (atTime time s))).core
    rw [coreOf_modCore_same] at hissued
    obtain ⟨_, _, runs, more, _, _, hgo, hlen, hcore⟩ := hissued
    obtain ⟨x, hx, hsame⟩ := hgo.mem (List.mem_append_right c.ax.started (List.mem_singleton_self _))
    refine ⟨_, x, hexec, ?_⟩
    rw [hcore]
    exact ⟨rfl, hx, hsame.raw, hsame.id, rfl, rfl, rfl, rfl, hlen⟩

end Sys2Proof.ScratchpadFamily

namespace Sys2Proof.ScratchpadFamily

open Machine Laws VectorFamily

variable {c d : Core} {s u v : State} {n i : Nat} {b : Bay} {x y : DescRun}

/-! ## The rows of a FILL (R203, R204) -/

theorem fillRow_congr (h : d.ax.bursts = c.ax.bursts) (hid : y.id = x.id) (hraw : y.raw = x.raw) (r : Nat) :
    fillRow d y r = fillRow c x r := by
  unfold fillRow arrivedBytes arrivedByte arrivedBlock
  rw [h, hid, hraw]

/-- What the writing of rows leaves of the core whose engine writes them. -/
structure Filling (c d : Core) : Prop where
  tags : d.tags = c.tags
  queue : d.ax.queue = c.ax.queue
  bursts : d.ax.bursts = c.ax.bursts
  runs : GoOn c.ax.started d.ax.started

theorem Filling.refl (c : Core) : Filling c c := ⟨rfl, rfl, rfl, GoOn.refl _⟩

theorem Filling.trans {e : Core} (h : Filling c d) (h' : Filling d e) : Filling c e :=
  ⟨h'.tags.trans h.tags, h'.queue.trans h.queue, h'.bursts.trans h.bursts, h.runs.trans h'.runs⟩

/-- Rows written leave the tags and the access engine of every core. -/
theorem putEngineRow_keeps (k d stamp : Nat) (data : Row) (op : Nat) (s : State) (j : Nat) :
    (coreOf (putEngineRow k d stamp data op s) j).tags = (coreOf s j).tags
      ∧ (coreOf (putEngineRow k d stamp data op s) j).ax = (coreOf s j).ax := by
  unfold putEngineRow
  split
  · obtain ⟨_, _, _, _, _, h⟩ := (rewrites_putRow k d stamp data .access op s).core j
    rw [h]
    exact ⟨rfl, rfl⟩
  · exact onCores_modCore (R := fun c d => d.tags = c.tags ∧ d.ax = c.ax) (fun _ => ⟨rfl, rfl⟩) (fun _ => by exact ⟨rfl, rfl⟩) _ s j

/-- A row of a descriptor is written. -/
def rowWritten (r p : Nat) (y : DescRun) : DescRun := { y with rowsDone := y.rowsDone ++ [r], landed := max y.landed p }

theorem goesOn_rowWritten (r p : Nat) (y : DescRun) : GoesOn y (rowWritten r p y) :=
  ⟨rfl, rfl, fun _ h => List.mem_append_left _ h⟩

/-- The engine writes one row of a descriptor. -/
def putFillRow (n : Nat) (x : DescRun) (r : Nat) (data : Row) (s : State) : State :=
  let d := slotBaseOf (coreOf s n) (dsSlot x.raw) + dsRowOff x.raw + r
  let p := rowSlot s n d
  modRun n x.id (rowWritten r p.1) (usePort n p.1 (putEngineRow n d p.2 data x.id s))

/-- The engine writes one row of a descriptor, where it has its bytes and has not written it. -/
def fillOne (n : Nat) (x : DescRun) (s : State) (r : Nat) : State :=
  match (coreOf s n).ax.started.find? (fun y => y.id = x.id) with
  | none => s
  | some y =>
    if y.rowsDone.contains r then s
    else
      match fillRow (coreOf s n) y r with
      | none => s
      | some data => putFillRow n x r data s

theorem writeFillRows_eq (n : Nat) (x : DescRun) (rows : List Nat) (s : State) :
    writeFillRows n x rows s = rows.foldl (fillOne n x) s := rfl

theorem putFillRow_core (n : Nat) (x : DescRun) (r : Nat) (data : Row) (s : State) : ∃ p,
    Filling (coreOf s n) (coreOf (putFillRow n x r data s) n)
      ∧ (coreOf (putFillRow n x r data s) n).ax.started
        = (coreOf s n).ax.started.map (fun y => if y.id = x.id then rowWritten r p y else y) := by
  obtain ⟨htags, hax⟩ := putEngineRow_keeps n (slotBaseOf (coreOf s n) (dsSlot x.raw) + dsRowOff x.raw + r)
    (rowSlot s n (slotBaseOf (coreOf s n) (dsSlot x.raw) + dsRowOff x.raw + r)).2 data x.id s n
  refine ⟨(rowSlot s n (slotBaseOf (coreOf s n) (dsSlot x.raw) + dsRowOff x.raw + r)).1, ?_⟩
  have hgo := goOn_runOn (id := x.id)
    (goesOn_rowWritten r (rowSlot s n (slotBaseOf (coreOf s n) (dsSlot x.raw) + dsRowOff x.raw + r)).1) (coreOf s n)
  rw [putFillRow, modRun_eq, coreOf_modCore_same, usePort, coreOf_modCore_same]
  unfold runOn at hgo ⊢
  dsimp only at hgo ⊢
  rw [htags, hax]
  exact ⟨⟨rfl, rfl, rfl, hgo⟩, rfl⟩

theorem filling_fillOne (n : Nat) (x : DescRun) (s : State) (r : Nat) :
    Filling (coreOf s n) (coreOf (fillOne n x s r) n) := by
  unfold fillOne
  split
  · exact Filling.refl _
  · split
    · exact Filling.refl _
    · split
      · exact Filling.refl _
      · obtain ⟨_, h, -⟩ := putFillRow_core n x r _ s
        exact h

theorem filling_foldl (n : Nat) (x : DescRun) (rows : List Nat) (s : State) :
    Filling (coreOf s n) (coreOf (rows.foldl (fillOne n x) s) n) :=
  related_foldl (R := fun s u => Filling (coreOf s n) (coreOf u n)) (fun _ => Filling.refl _) Filling.trans
    (filling_fillOne n x) rows s

/-- Row `r` of the descriptor with number `id` is written. -/
def RowDone (id r : Nat) (c : Core) : Prop := ∃ y, c.ax.started.find? (fun y => y.id = id) = some y ∧ r ∈ y.rowsDone

theorem RowDone.goOn {id r : Nat} (h : RowDone id r c) (hgo : GoOn c.ax.started d.ax.started) : RowDone id r d := by
  obtain ⟨y, hy, hr⟩ := h
  obtain ⟨z, hz, hsame⟩ := hgo.find hy
  exact ⟨z, hz, hsame.done r hr⟩

/-- A row that has its bytes is written in its turn, if it was not before. -/
theorem rowDone_fillOne {r : Nat} {data : Row} (hy : (coreOf s n).ax.started.find? (fun y => y.id = x.id) = some y)
    (hfill : fillRow (coreOf s n) y r = some data) : RowDone x.id r (coreOf (fillOne n x s r) n) := by
  unfold fillOne
  rw [hy]
  dsimp only
  split
  · rename_i hr
    exact ⟨y, hy, List.contains_iff_mem.mp hr⟩
  · rw [hfill]
    obtain ⟨p, -, hruns⟩ := putFillRow_core n x r data s
    have hid : y.id = x.id := of_decide_eq_true (List.find?_some (p := fun y : DescRun => decide (y.id = x.id)) hy)
    have hp : (fun y : DescRun => decide (y.id = x.id)) ∘ (fun y => if y.id = x.id then rowWritten r p y else y)
        = fun y => decide (y.id = x.id) := by
      funext z
      simp only [Function.comp_apply]
      split <;> rfl
    refine ⟨rowWritten r p y, ?_, List.mem_append_right _ (List.mem_singleton_self r)⟩
    dsimp only
    rw [hruns, List.find?_map, hp, hy, Option.map_some, if_pos hid]

theorem rowDone_foldl {rows : List Nat} {r : Nat} {data : Row} (hr : r ∈ rows)
    (hy : (coreOf s n).ax.started.find? (fun y => y.id = x.id) = some y) (hfill : fillRow (coreOf s n) y r = some data) :
    RowDone x.id r (coreOf (rows.foldl (fillOne n x) s) n) := by
  induction rows generalizing s y with
  | nil => cases hr
  | cons q rows ih =>
    rw [List.foldl_cons]
    have hq := filling_fillOne n x s q
    rcases List.mem_cons.mp hr with rfl | hr
    · exact (rowDone_fillOne hy hfill).goOn (filling_foldl n x rows _).runs
    · obtain ⟨z, hz, hsame⟩ := hq.runs.find hy
      exact ih hr hz ((fillRow_congr hq.bursts hsame.id hsame.raw r).trans hfill)

/-! ## BURST_RESPONSE (R203 to R205) -/

/-- A core whose access engine came to rest in a cycle. -/
def restAt (t : Nat) (c : Core) : Core := { c with ax := { c.ax with idleAt := t } }

theorem coreOf_noteRest (n : Nat) (s : State) : ∃ t, coreOf (noteRest n s) n = restAt t (coreOf s n) := by
  unfold noteRest
  split
  · exact ⟨_, coreOf_modCore_same _ _ _⟩
  · exact ⟨(coreOf s n).ax.idleAt, rfl⟩

theorem noteRest_bays (n : Nat) (s : State) : (noteRest n s).bays = s.bays := by
  unfold noteRest
  split <;> rfl

theorem coreOf_noteRest_ne {j : Nat} (s : State) (h : j ≠ n) : coreOf (noteRest n s) j = coreOf s j := by
  unfold noteRest
  split
  · exact coreOf_modCore_ne _ _ h
  · rfl

/-- After an answered burst is taken, more bursts issue, and the engine may come to rest. -/
structure TakesUp (n : Nat) (s u : State) : Prop where
  tags : (coreOf u n).tags = (coreOf s n).tags
  rows : (coreOf u n).rows = (coreOf s n).rows
  queue : (coreOf u n).ax.queue = (coreOf s n).ax.queue
  axFault : (coreOf u n).st.axFault = (coreOf s n).st.axFault
  bursts : ∃ more, (coreOf u n).ax.bursts = (coreOf s n).ax.bursts ++ more
  runs : GoOn (coreOf s n).ax.started (coreOf u n).ax.started
  fault : ∀ {i b}, FaultStands n i b s → FaultStands n i b u

theorem takesUp_issueBursts (n part m : Nat) (s : State) : TakesUp n s (noteRest n (issueBursts n part m s)) := by
  have hissues := issues_issueBursts n part m s
  obtain ⟨t, hrest⟩ := coreOf_noteRest n (issueBursts n part m s)
  obtain ⟨_, _, _, more, _, _, hgo, -, hcore⟩ := hissues.core
  rw [hcore] at hrest
  have hstands : ∀ {i b}, FaultStands n i b s → FaultStands n i b (noteRest n (issueBursts n part m s)) := fun h =>
    (hissues.fault h).of_bays (noteRest_bays n _)
  constructor
  case bursts => exact ⟨more, by rw [hrest]; rfl⟩
  case fault => exact hstands
  case runs =>
    rw [hrest]
    exact hgo
  all_goals
    rw [hrest]
    rfl

/-- What BURST_RESPONSE does with an answered burst of a started descriptor. -/
theorem exec_burstResponse {k : CoreId} {tag : BitVec 12} {time : Nat} {w : Burst}
    (hb : bayOfCore s (coreNo k) = some (i, b)) (hruns : engineRuns b = true) (hw : burstOf (coreOf s (coreNo k)) tag = some w)
    (hans : w.answered = true) (hx : (coreOf s (coreNo k)).ax.started.find? (fun y => y.id = w.desc) = some x) :
    exec (.burstResponse k tag time) s
      = .next (noteRest (coreNo k) (issueBursts (coreNo k) b.part 16 (takeBurst (coreNo k) w x (atTime time s)))) := by
  show execBurstResponse k tag time s = _
  unfold execBurstResponse
  dsimp only
  rw [hb, hw]
  dsimp only
  rw [hruns, hans, hx]
  rfl

/-- A core without a burst. -/
def withoutBurst (w : Burst) (c : Core) : Core := { c with ax := { c.ax with bursts := c.ax.bursts.erase w } }

theorem dropBurst_eq (n : Nat) (w : Burst) (s : State) : dropBurst n w s = modCore n (withoutBurst w) s := rfl

/-- A burst that is answered with an error leaves its slot and faults the bay. -/
theorem takeBurst_error {w : Burst} (h : w.status ≠ 0) (hb : bayOfCore s n = some (i, b)) :
    (coreOf (takeBurst n w x s) n).st = (withAxFault (if w.status = 5 then 5 else 4) (coreOf s n)).st
      ∧ (coreOf (takeBurst n w x s) n).tags = (coreOf s n).tags
      ∧ (coreOf (takeBurst n w x s) n).ax.queue = (coreOf s n).ax.queue
      ∧ FaultStands n i (faultBay 3 n (b.count - 1) b) (takeBurst n w x s) := by
  have hb' : bayOfCore (modRun n x.id (fun y => { y with failed := true }) (dropBurst n w s)) n = some (i, b) := hb
  rw [takeBurst, if_pos h]
  refine ⟨?_, ?_, ?_, faultStands_accessFault _ hb'⟩ <;>
    rw [coreOf_accessFault _ hb', coreOf_modCore_same, modRun_eq, coreOf_modCore_same, dropBurst_eq, coreOf_modCore_same] <;> rfl

theorem takeBurst_drain {w : Burst} (h : w.status = 0) (hop : dsOp x.raw = 2) (s : State) :
    coreOf (takeBurst n w x s) n = withoutBurst w (coreOf s n) := by
  rw [takeBurst, if_neg (not_not.mpr h), if_pos hop, dropBurst_eq, coreOf_modCore_same]

/-- A burst of a FILL writes every row whose bytes have all arrived. -/
theorem takeBurst_fill {w : Burst} (h : w.status = 0) (hop : dsOp x.raw ≠ 2)
    (hx : (coreOf s n).ax.started.find? (fun y => y.id = x.id) = some x) :
    (coreOf (takeBurst n w x s) n).tags = (coreOf s n).tags ∧ (coreOf (takeBurst n w x s) n).ax.queue = (coreOf s n).ax.queue
      ∧ ∀ r data, r ∈ burstRows x.raw w → fillRow (coreOf s n) x r = some data → RowDone x.id r (coreOf (takeBurst n w x s) n) := by
  have hfill := filling_foldl n x (burstRows x.raw w) s
  rw [takeBurst, if_neg (not_not.mpr h), if_neg hop, freeBursts, coreOf_modCore_same, writeFillRows_eq]
  exact ⟨hfill.tags, hfill.queue, fun r data hr hdata => (rowDone_foldl hr hx hdata).goOn (GoOn.refl _)⟩

/-! ## Holds that see their conditions (R259) -/

/-- What the claims of a hold leave of a core: all but the records and claims of its lookaheads and the descriptor entries
reserved. -/
def Claimed (c d : Core) : Prop :=
  ∃ recs reserved claims, d = { c with
    seq := { c.seq with recs := recs }
    ax := { c.ax with reserved := reserved }
    rt := { c.rt with claims := claims } }

theorem Claimed.refl (c : Core) : Claimed c c := ⟨_, _, _, rfl⟩

theorem Claimed.trans {e : Core} (h : Claimed c d) (h' : Claimed d e) : Claimed c e := by
  obtain ⟨_, _, _, rfl⟩ := h
  obtain ⟨recs, reserved, claims, rfl⟩ := h'
  exact ⟨recs, reserved, claims, rfl⟩

theorem Claimed.sansHolds (h : Claimed c d) : sansHolds { d with writes := [] } = sansHolds { c with writes := [] } := by
  obtain ⟨_, _, _, rfl⟩ := h
  rfl

/-- From `s` to `u` holds claim what they checked. -/
def Claims (s u : State) : Prop := ∀ j, Claimed (coreOf s j) (coreOf u j)

theorem Claims.refl (s : State) : Claims s s := fun _ => Claimed.refl _

theorem Claims.trans (h : Claims s u) (h' : Claims u v) : Claims s v := fun j => (h j).trans (h' j)

theorem claims_modCore {f : Core → Core} (h : ∀ c, Claimed c (f c)) (k : Nat) (s : State) : Claims s (modCore k f s) :=
  onCores_modCore Claimed.refl h k s

theorem claims_of_cores (h : u.cores = s.cores) : Claims s u := fun j => by
  rw [coreOf_of_cores h]
  exact Claimed.refl _

theorem Claims.ite {p : Prop} [Decidable p] (h : Claims s u) (h' : Claims s v) : Claims s (if p then u else v) := by
  split
  · exact h
  · exact h'

theorem claims_claimCond (cond : HoldCond) (s : State) : Claims s (claimCond cond s) := by
  unfold claimCond
  cases cond
  case accessQueue => exact claims_modCore (fun _ => ⟨_, _, _, rfl⟩) _ _
  case xdata | xcredit | markCredit =>
    exact Claims.ite (Claims.refl s) ((claims_of_cores rfl).trans (claims_modCore (fun _ => ⟨_, _, _, rfl⟩) _ _))
  all_goals exact Claims.refl s

theorem claims_evalConds (i : Nat) (conds : List HoldCond) (s : State) : Claims s (evalConds i conds s).2 := by
  induction conds generalizing s with
  | nil => exact Claims.refl s
  | cons cond conds ih =>
    rw [evalConds]
    split
    · exact Claims.refl s
    · split
      · exact (claims_claimCond cond s).trans (ih _)
      · exact ih s

theorem claims_modBay (i : Nat) (f : Bay → Bay) (s : State) : Claims s (modBay i f s) := fun j => by
  rw [SequencerFamily.coreOf_modBay]
  exact Claimed.refl _

theorem claims_settleHold (i : Nat) (s : State) : Claims s (settleHold i s) := by
  unfold settleHold
  split
  · exact Claims.refl s
  · split
    · exact Claims.refl s
    · exact (claims_evalConds i _ s).trans (claims_modBay i _ _)

theorem claims_settleHolds (s : State) : Claims s (settleHolds s) :=
  related_foldl Claims.refl Claims.trans (fun s (p : Nat × Bay) => claims_settleHold p.1 s) s.bays s

end Sys2Proof.ScratchpadFamily

namespace Sys2Proof.ScratchpadFamily

open Machine Laws

variable {c d : Core} {s u : State} {n i stamp slot : Nat} {b : Bay} {x : DescRun} {g : TagCell} {rest : List DescRun}

/-! ## Tag actions of the access port (R191, R207) -/

/-- A tag after an action of the access port, which may come in a period of its own. -/
def portCell (alone full : Bool) (stamp : Nat) (g : TagCell) : TagCell :=
  if alone then ⟨g.cur, full, stamp, full, !full⟩ else tagCellAct full stamp g

theorem portCell_full (alone : Bool) (stamp : Nat) (g : TagCell) : cellAt (portCell alone true stamp g) stamp = true := by
  cases alone
  · exact (fullFrom_act stamp g).at (Nat.le_refl _)
  · exact if_pos (Nat.le_refl _)

theorem portCell_empty {alone : Bool} (h : alone = true ∨ (g.stamp = stamp → g.sawFull = false)) :
    cellAt (portCell alone false stamp g) stamp = false := by
  cases alone
  · exact (emptyFrom_act (h.resolve_left (by decide))).at (Nat.le_refl _)
  · exact if_pos (Nat.le_refl _)

/-- Whether a tag action of the access port comes in a period of its own. -/
def portAlone (s : State) (n : Nat) : Bool := match bayOfCore s n with | some (_, b) => !cyclesRun b | none => true

theorem portAlone_bay (h : bayOfCore s n = some (i, b)) : portAlone s n = !cyclesRun b := by rw [portAlone, h]

theorem portCycle_bay (h : bayOfCore s n = some (i, b)) : portCycle s n = b.count := by rw [portCycle, h]

theorem portTag_eq (n slot : Nat) (full : Bool) (s : State) : portTag n slot full s = modCore n
    (if portAlone s n then tagActAlone slot full (portCycle s n) else tagAct slot full (portCycle s n)) s := rfl

/-- The core of the port after an action on the tag of a slot, and the other cores. -/
theorem portTag_core (n slot : Nat) (full : Bool) (s : State) :
    (∃ clash, coreOf (portTag n slot full s) n = { coreOf s n with
        st := { (coreOf s n).st with tagClash := clash }
        tags := modAt (coreOf s n).tags slot (portCell (portAlone s n) full (portCycle s n)) })
      ∧ ∀ j, j ≠ n → coreOf (portTag n slot full s) j = coreOf s j := by
  refine ⟨?_, fun j hj => coreOf_modCore_ne _ _ hj⟩
  rw [portTag_eq, coreOf_modCore_same]
  cases portAlone s n with
  | true => exact ⟨(coreOf s n).st.tagClash, rfl⟩
  | false => exact tagAct_core slot full (portCycle s n) (coreOf s n)

theorem tagAt_modAt {f : TagCell → TagCell} (hg : c.tags[slot]? = some g) (hd : d.tags = modAt c.tags slot f) (t : Nat) :
    tagAt d slot t = cellAt (f g) t := by
  refine tagAt_eq ?_ t
  rw [hd, modAt, List.getElem?_modify_eq, hg]
  rfl

theorem getElem?_modAt_ne {m : Nat} (h : m ≠ slot) (f : TagCell → TagCell) (l : List TagCell) : (modAt l slot f)[m]? = l[m]? := by
  rw [modAt, List.getElem?_modify_ne _ _ h.symm]

/-! ## DESCRIPTOR_COMPLETE (R204, R207) -/

/-- Core `d` differs from core `c` at most in the rows to be seen. -/
def Landed (c d : Core) : Prop := ∃ ws, d = { c with writes := ws }

theorem Landed.refl (c : Core) : Landed c c := ⟨_, rfl⟩

theorem Landed.trans {e : Core} (h : Landed c d) (h' : Landed d e) : Landed c e := by
  obtain ⟨_, rfl⟩ := h
  obtain ⟨ws, rfl⟩ := h'
  exact ⟨ws, rfl⟩

theorem landDesc_running (id : Nat) (h : bayOfCore s n = some (i, b)) (hruns : cyclesRun b = true) : landDesc n id s = s := by
  unfold landDesc
  rw [h]
  exact if_pos hruns

theorem landDesc_bays (k id : Nat) (s : State) : (landDesc k id s).bays = s.bays :=
  (within_landDesc (S := [.cores]) (Covers.self _) (Within.refl _ s)).frame .bays (by decide)

theorem landed_landDesc (k id : Nat) (s : State) (j : Nat) : Landed (coreOf s j) (coreOf (landDesc k id s) j) := by
  unfold landDesc
  split
  · split
    · exact Landed.refl _
    · exact related_foldl (R := fun s u => Landed (coreOf s j) (coreOf u j)) (fun _ => Landed.refl _) Landed.trans
        (fun s m => onCores_modCore Landed.refl (fun _ => ⟨_, rfl⟩) m s j) _ s
  · exact Landed.refl _

/-- The oldest started descriptor is done. -/
def completeOldest (rest : List DescRun) (c : Core) : Core :=
  { c with ax := { c.ax with started := rest }, st := { c.st with descDone := satInc 65535 c.st.descDone } }

/-- The state after a descriptor's rows have landed and its TAG action has taken place. -/
def tagDone (n : Nat) (x : DescRun) (s : State) : State :=
  if dsTag x.raw then portTag n (dsSlot x.raw) (dsOp x.raw == 1) (landDesc n x.id s) else landDesc n x.id s

/-- What DESCRIPTOR_COMPLETE does with a descriptor that has moved all its data. -/
theorem exec_descriptorComplete {k : CoreId} {time : Nat} (hb : bayOfCore s (coreNo k) = some (i, b)) (hruns : engineRuns b = true)
    (hs : (coreOf s (coreNo k)).ax.started = x :: rest)
    (hdone : descDone (coreOf s (coreNo k)) (periodNow (atTime time s) b) x = true) :
    exec (.descriptorComplete k time) s = .next (settleHolds (noteRest (coreNo k)
      (modCore (coreNo k) (completeOldest rest) (tagDone (coreNo k) x (atTime time s))))) := by
  show execDescriptorComplete k time s = _
  unfold execDescriptorComplete
  dsimp only
  rw [hb, hs]
  dsimp only
  rw [hruns, hdone]
  rfl

/-- The tags after a descriptor's TAG action. -/
def tagsDone (b : Bay) (x : DescRun) (c : Core) : List TagCell :=
  if dsTag x.raw then modAt c.tags (dsSlot x.raw) (portCell (!cyclesRun b) (dsOp x.raw == 1) b.count) else c.tags

theorem tagDone_core (x : DescRun) (h : bayOfCore s n = some (i, b)) :
    ∃ ws clash, (cyclesRun b = true → ws = (coreOf s n).writes) ∧ coreOf (tagDone n x s) n = { coreOf s n with
      st := { (coreOf s n).st with tagClash := clash }
      tags := tagsDone b x (coreOf s n)
      writes := ws } := by
  have hland : bayOfCore (landDesc n x.id s) n = some (i, b) := (bayOfCore_of_bays (landDesc_bays n x.id s) n).trans h
  obtain ⟨ws, hws⟩ := landed_landDesc n x.id s n
  obtain ⟨⟨clash, htag⟩, -⟩ := portTag_core n (dsSlot x.raw) (dsOp x.raw == 1) (landDesc n x.id s)
  rw [portAlone_bay hland, portCycle_bay hland] at htag
  have hrun : cyclesRun b = true → ws = (coreOf s n).writes := fun hruns => by
    rw [landDesc_running x.id h hruns] at hws
    exact (congrArg Core.writes hws).symm
  unfold tagDone tagsDone
  split
  · exact ⟨ws, clash, hrun, by rw [htag, hws]⟩
  · exact ⟨ws, (coreOf s n).st.tagClash, hrun, hws⟩

theorem tagDone_ne {j : Nat} (x : DescRun) (s : State) (hj : j ≠ n) :
    coreOf (tagDone n x s) j = coreOf (landDesc n x.id s) j := by
  unfold tagDone
  split
  · exact (portTag_core _ _ _ _).2 j hj
  · rfl

/-- What the completion of a descriptor leaves of another core: all but the rows to be seen and what holds claim. -/
theorem completed_ne {j : Nat} (x : DescRun) (rest : List DescRun) (h : bayOfCore s n = some (i, b)) (hj : j ≠ n) :
    ∃ ws, (cyclesRun b = true → ws = (coreOf s j).writes) ∧ Claimed { coreOf s j with writes := ws }
      (coreOf (settleHolds (noteRest n (modCore n (completeOldest rest) (tagDone n x s)))) j) := by
  have hclaims := claims_settleHolds (noteRest n (modCore n (completeOldest rest) (tagDone n x s))) j
  rw [coreOf_noteRest_ne _ hj, coreOf_modCore_ne _ _ hj, tagDone_ne x s hj] at hclaims
  obtain ⟨ws, hws⟩ := landed_landDesc n x.id s j
  refine ⟨ws, fun hruns => ?_, hws ▸ hclaims⟩
  rw [landDesc_running x.id h hruns] at hws
  exact (congrArg Core.writes hws).symm

/-- The core of the descriptor after its completion. -/
theorem completed_core (x : DescRun) (rest : List DescRun) (h : bayOfCore s n = some (i, b)) :
    ∃ ws clash rested, (cyclesRun b = true → ws = (coreOf s n).writes) ∧ Claimed
      (restAt rested (completeOldest rest { coreOf s n with
        st := { (coreOf s n).st with tagClash := clash }
        tags := tagsDone b x (coreOf s n)
        writes := ws }))
      (coreOf (settleHolds (noteRest n (modCore n (completeOldest rest) (tagDone n x s)))) n) := by
  have hclaims := claims_settleHolds (noteRest n (modCore n (completeOldest rest) (tagDone n x s))) n
  obtain ⟨ws, clash, hruns, htag⟩ := tagDone_core x h
  obtain ⟨rested, hrest⟩ := coreOf_noteRest n (modCore n (completeOldest rest) (tagDone n x s))
  rw [coreOf_modCore_same, htag] at hrest
  exact ⟨ws, clash, rested, hruns, hrest ▸ hclaims⟩

theorem Claimed.keeps (h : Claimed c d) : d.tags = c.tags ∧ d.rows = c.rows ∧ d.writes = c.writes ∧ d.eng = c.eng ∧ d.st = c.st
    ∧ d.ax.started = c.ax.started ∧ d.ax.queue = c.ax.queue ∧ d.ax.remote = c.ax.remote := by
  obtain ⟨_, _, _, rfl⟩ := h
  exact ⟨rfl, rfl, rfl, rfl, rfl, rfl, rfl, rfl⟩

/-- The slot of a descriptor with TAG after its completion, and every other slot. -/
theorem tagsDone_slots (b : Bay) (x : DescRun) (htags : d.tags = tagsDone b x c) :
    (∀ g, c.tags[dsSlot x.raw]? = some g → dsTag x.raw = true → dsOp x.raw = 1 → tagAt d (dsSlot x.raw) b.count = true)
      ∧ (∀ g, c.tags[dsSlot x.raw]? = some g → dsTag x.raw = true → dsOp x.raw ≠ 1 →
          (cyclesRun b = false ∨ (g.stamp = b.count → g.sawFull = false)) → tagAt d (dsSlot x.raw) b.count = false)
      ∧ ∀ m, m ≠ dsSlot x.raw ∨ dsTag x.raw = false → d.tags[m]? = c.tags[m]? := by
  unfold tagsDone at htags
  refine ⟨fun g hg htag hop => ?fills, fun g hg htag hop hsaw => ?empties, fun m hm => ?others⟩
  case fills =>
    rw [if_pos htag] at htags
    rw [tagAt_modAt hg htags, hop]
    exact portCell_full _ _ g
  case empties =>
    rw [if_pos htag] at htags
    rw [tagAt_modAt hg htags, beq_false_of_ne hop]
    exact portCell_empty (hsaw.imp_left fun h => by rw [h]; rfl)
  case others =>
    rw [htags]
    split
    · rename_i htag
      exact getElem?_modAt_ne (hm.resolve_right fun h => by rw [htag] at h; cases h) _ _
    · rfl

/-- Settles O26: an answer is taken before more bursts issue, which leave what it did; and a completion is a landing, a tag action
and a count, after which holds claim. -/
theorem burstsAndDescriptorsComplete : Obligations.BurstsAndDescriptorsComplete := by
  refine ⟨?response, ?complete⟩
  case response =>
    intro k tag time i b v x s n c hb hruns hv hans hx
    have hexec := exec_burstResponse (time := time) hb hruns hv hans hx
    have hu := takesUp_issueBursts n b.part 16 (takeBurst n v x (atTime time s))
    have hb' : bayOfCore (atTime time s) n = some (i, b) := hb
    have hid : x.id = v.desc := of_decide_eq_true (List.find?_some (p := fun y : DescRun => decide (y.id = v.desc)) hx)
    have hx' : c.ax.started.find? (fun y => y.id = x.id) = some x := by
      rw [hid]
      exact hx
    refine ⟨fun hstatus => ?error, fun hstatus hop => ?drain, fun hstatus hop => ?fill⟩
    case error =>
      obtain ⟨hst, htags, hqueue, hfault⟩ := takeBurst_error (x := x) hstatus hb'
      refine ⟨_, hexec, ?_, (hu.fault hfault).bay, hu.tags.trans htags, hu.queue.trans hqueue⟩
      rw [hu.axFault, hst]
      rfl
    case drain =>
      have hcore := takeBurst_drain (n := n) (w := v) hstatus hop (atTime time s)
      obtain ⟨more, hmore⟩ := hu.bursts
      have htags := hu.tags
      have hrows := hu.rows
      have hqueue := hu.queue
      rw [hcore] at hmore htags hrows hqueue
      exact ⟨_, more, hexec, hmore, htags, hrows, hqueue⟩
    case fill =>
      obtain ⟨htags, hqueue, hrows⟩ := takeBurst_fill (s := atTime time s) (w := v) hstatus hop hx'
      exact ⟨_, hexec, fun r data hr hdata => (hrows r data hr hdata).goOn hu.runs, hu.tags.trans htags, hu.queue.trans hqueue⟩
  case complete =>
    intro k time i b x rest s n c hb hruns hs hdone
    have hb' : bayOfCore (atTime time s) n = some (i, b) := hb
    obtain ⟨ws, clash, rested, hws, hclaimed⟩ := completed_core x rest hb'
    obtain ⟨htags, hrows, hwrites, heng, hst, hstarted, hqueue, -⟩ := hclaimed.keeps
    obtain ⟨hfills, hempties, hothers⟩ := tagsDone_slots b x htags
    refine ⟨_, exec_descriptorComplete hb hruns hs hdone, hstarted, by rw [hst]; rfl, hqueue, hfills, hempties, hothers,
      fun j => ?_, fun j hj => ?_⟩
    · by_cases hj : j = n
      · rw [hj]
        exact ⟨hrows, heng, fun h => hwrites.trans (hws h)⟩
      · obtain ⟨ws', hws', hclaimed'⟩ := completed_ne x rest hb' hj
        obtain ⟨-, hrows', hwrites', heng', -⟩ := hclaimed'.keeps
        exact ⟨hrows', heng', fun h => hwrites'.trans (hws' h)⟩
    · obtain ⟨ws', -, hclaimed'⟩ := completed_ne x rest hb' hj
      exact hclaimed'.sansHolds

end Sys2Proof.ScratchpadFamily

namespace Sys2Proof.ScratchpadFamily

open Machine Laws

variable {s u v : State} {n time : Nat} {w : RemoteWrite} {rest : List RemoteWrite}

/-! ## A write of a core's memory (R187, R327, R540) -/

/-- From `s` to `u` a core's memory is read and written: rows, their errors and reports change; the tags and the access engine of
every core, and the other memories, stay. -/
structure PortAccess (s u : State) : Prop where
  tags : ∀ j, (coreOf u j).tags = (coreOf s j).tags
  ax : ∀ j, (coreOf u j).ax = (coreOf s j).ax
  mem : u.mem = s.mem

theorem PortAccess.refl (s : State) : PortAccess s s := ⟨fun _ => rfl, fun _ => rfl, rfl⟩

theorem PortAccess.trans (h : PortAccess s u) (h' : PortAccess u v) : PortAccess s v :=
  ⟨fun j => (h'.tags j).trans (h.tags j), fun j => (h'.ax j).trans (h.ax j), h'.mem.trans h.mem⟩

theorem PortAccess.ite {p : Prop} [Decidable p] (h : PortAccess s u) (h' : PortAccess s v) :
    PortAccess s (if p then u else v) := by
  split
  · exact h
  · exact h'

theorem PortAccess.ite_snd {p : Prop} [Decidable p] {x y : Bool × State} (h : PortAccess s x.2) (h' : PortAccess s y.2) :
    PortAccess s (if p then x else y).2 := by
  split
  · exact h
  · exact h'

theorem portAccess_modCore {f : Core → Core} (htags : ∀ c, (f c).tags = c.tags) (hax : ∀ c, (f c).ax = c.ax) (k : Nat)
    (s : State) : PortAccess s (modCore k f s) :=
  ⟨onCores_modCore (R := fun c d => d.tags = c.tags) (fun _ => rfl) htags k s,
    onCores_modCore (R := fun c d => d.ax = c.ax) (fun _ => rfl) hax k s, rfl⟩

/-- A report is no access. -/
theorem portAccess_of_report (h : Within [.host, .ev, .fw, .err, .hostMem, .bootLog] s u) : PortAccess s u := by
  have hcores : u.cores = s.cores := h.frame .cores (by decide)
  exact ⟨fun j => by rw [coreOf_of_cores hcores], fun j => by rw [coreOf_of_cores hcores], h.frame .mem (by decide)⟩

theorem portAccess_markBad (k word : Nat) (bad : Bool) (s : State) : PortAccess s (markBad (.core k) word bad s) := by
  unfold markBad
  exact portAccess_modCore (fun _ => by rfl) (fun _ => by rfl) _ s

theorem portAccess_examine (p : Nat) (f : Injection → Bool) (s : State) : PortAccess s (examine p f s).2 :=
  portAccess_of_report (within_examine (Covers.self _) (Within.refl _ s))

theorem portAccess_wordCorrected (k word : Nat) (inj : Bool) (s : State) : PortAccess s (wordCorrected (.core k) word inj s) :=
  portAccess_of_report (within_reportCorrected (Covers.self _) (Within.refl _ s))

theorem portAccess_wordUncorrectable (k word : Nat) (inj : Bool) (s : State) :
    PortAccess s (wordUncorrectable (.core k) word inj s) := by
  unfold wordUncorrectable
  exact (portAccess_of_report (within_reportUncorrectable (Covers.self _) (Within.refl _ s))).trans
    (portAccess_modCore (fun _ => by rfl) (fun _ => by rfl) _ _)

theorem portAccess_examineWord (k : Nat) (f : EccFinding) (word : Nat) (s : State) :
    PortAccess s (examineWord (.core k) f word s).2 := by
  unfold examineWord
  dsimp only
  generalize hread : examine (memPoints (.core k)).1 _ _ = ce
  have hce : PortAccess s ce.2 := by
    rw [← hread]
    exact ((PortAccess.ite (portAccess_markBad k word true s) (PortAccess.refl s)).trans (portAccess_examine _ _ _)).trans
      (portAccess_examine _ _ _)
  exact .ite_snd (hce.trans (portAccess_wordUncorrectable _ _ _ _)) (.ite_snd (hce.trans (portAccess_wordUncorrectable _ _ _ _))
    (.ite_snd (hce.trans (portAccess_wordCorrected _ _ _ _)) (.ite_snd (hce.trans (portAccess_wordCorrected _ _ _ _)) hce)))

/-- One word is read, beside the words that cannot be corrected. -/
def readWord (k : Nat) (f : EccFinding) (r : List Nat × State) (word : Nat) : List Nat × State :=
  let x := examineWord (.core k) f word r.2
  (if x.1 then r.1 ++ [word] else r.1, x.2)

theorem portAccess_readWords (k : Nat) (f : EccFinding) (words : List Nat) (r : List Nat × State) :
    PortAccess r.2 (words.foldl (readWord k f) r).2 := by
  induction words generalizing r with
  | nil => exact PortAccess.refl _
  | cons word words ih => exact (portAccess_examineWord k f word r.2).trans (ih (readWord k f r word))

theorem portAccess_examineWords (k : Nat) (f : EccFinding) (words : List Nat) (s : State) :
    PortAccess s (examineWords (.core k) f words s).2 := portAccess_readWords k f words ([], s)

theorem portAccess_putCoreBytes (k off : Nat) (bs : List Byte) (s : State) : PortAccess s (putCoreBytes k off bs s) := by
  refine related_foldl PortAccess.refl PortAccess.trans (fun s i => ?_) _ s
  refine ⟨fun j => (putEngineRow_keeps _ _ _ _ _ s j).1, fun j => (putEngineRow_keeps _ _ _ _ _ s j).2, ?_⟩
  exact (within_putEngineRow (S := [.freeCtr, .cores]) (Covers.self _) (Within.refl _ s)).frame .mem (by decide)

theorem portAccess_writeMem (k off : Nat) (bs : List Byte) (f : EccFinding) (s : State) :
    PortAccess s (writeMem (.core k) off bs f s).2 := by
  unfold writeMem
  dsimp only
  refine PortAccess.trans ?_ (related_foldl PortAccess.refl PortAccess.trans (fun s word => portAccess_markBad k word true s) _ _)
  refine PortAccess.trans ?_ (related_foldl PortAccess.refl PortAccess.trans (fun s word => portAccess_markBad k word false s) _ _)
  exact (portAccess_examineWords k f _ s).trans (portAccess_putCoreBytes _ _ _ _)

theorem writeMem_frame (m : MemKind) (off : Nat) (bs : List Byte) (f : EccFinding) (s : State) :
    (writeMem m off bs f s).2.bays = s.bays ∧ (writeMem m off bs f s).2.fab = s.fab := by
  have h := within_writeMem (m := m) (off := off) (bs := bs) (f := f) (Covers.self _) (Within.refl _ s)
  exact ⟨h.frame .bays (by decide), h.frame .fab (by decide)⟩

/-! ## REMOTE_SCRATCHPAD_WRITE (R187, R192, R206) -/

/-- The oldest remote write leaves its queue. -/
def leaveRemote (rest : List RemoteWrite) (c : Core) : Core := { c with ax := { c.ax with remote := rest } }

/-- The state in which a remote write is taken. -/
def remoteTaken (n time : Nat) (rest : List RemoteWrite) (s : State) : State := modCore n (leaveRemote rest) (atTime time s)

/-- What a remote write makes of the memory of its core. -/
def remoteLanded (n time : Nat) (w : RemoteWrite) (rest : List RemoteWrite) (s : State) : Bool × State :=
  writeMem (.core n) (addrOff (destOf w.q)) w.q.data ⟨[], []⟩ (remoteTaken n time rest s)

/-- With RSET the slot is full after the last row. -/
def remoteTagged (n : Nat) (w : RemoteWrite) (s : State) : State :=
  if w.rset && w.last then settleHolds (portTag n w.rslot true s) else s

theorem remoteTaken_same (n time : Nat) (rest : List RemoteWrite) (s : State) :
    coreOf (remoteTaken n time rest s) n = leaveRemote rest (coreOf s n) := coreOf_modCore_same _ _ _

theorem remoteTaken_ne {j : Nat} (time : Nat) (rest : List RemoteWrite) (s : State) (h : j ≠ n) :
    coreOf (remoteTaken n time rest s) j = coreOf s j := coreOf_modCore_ne _ _ h

/-- The ports of the banks, the bay and the slots are as before when a remote write is taken. -/
theorem remoteTaken_tests (n time : Nat) (rest : List RemoteWrite) (s : State) (rows : List Nat) (slot : Nat) :
    portsFree (remoteTaken n time rest s) n rows = portsFree s n rows ∧ rsetOk (remoteTaken n time rest s) n slot = rsetOk s n slot
      ∧ tagAt (coreOf (remoteTaken n time rest s) n) slot (portCycle (remoteTaken n time rest s) n)
        = tagAt (coreOf s n) slot (portCycle s n) := by
  have hbay : bayOfCore (remoteTaken n time rest s) n = bayOfCore s n := rfl
  have hbusy : ∀ j bank t, portTaken (coreOf (remoteTaken n time rest s) j) bank t = portTaken (coreOf s j) bank t :=
    fun j bank t => by
      by_cases hj : j = n
      · rw [hj, remoteTaken_same]
        rfl
      · rw [remoteTaken_ne time rest s hj]
  refine ⟨?_, ?_, ?_⟩
  · unfold portsFree
    simp only [hbay, hbusy]
  · unfold rsetOk
    rw [hbay, remoteTaken_same]
    rfl
  · unfold portCycle
    rw [hbay, remoteTaken_same]
    rfl

/-- What REMOTE_SCRATCHPAD_WRITE does where the port of the core moves data. -/
theorem exec_remoteWrite {k : CoreId} (hw : (coreOf s (coreNo k)).ax.remote = w :: rest) (hopen : portOpen s (coreNo k) = true) :
    exec (.remoteScratchpadWrite k time) s =
      if portsFree s (coreNo k) (spanRows (addrOff (destOf w.q)) w.q.len) = false then .next s
      else if (w.rset && !rsetOk s (coreNo k) w.rslot) = true then
        .next (answer w.q 4 [] (remoteTaken (coreNo k) time rest s))
      else if (w.rset && tagAt (coreOf s (coreNo k)) w.rslot (portCycle s (coreNo k))) = true then .next s
      else .next (answer w.q (if (remoteLanded (coreNo k) time w rest s).1 = true then 5 else 0) []
        (remoteTagged (coreNo k) w (remoteLanded (coreNo k) time w rest s).2)) := by
  obtain ⟨hfree, hset, htag⟩ := remoteTaken_tests (coreNo k) time rest s (spanRows (addrOff (destOf w.q)) w.q.len) w.rslot
  have hopen' : portOpen (remoteTaken (coreNo k) time rest s) (coreNo k) = true := hopen
  rw [← hfree, ← hset, ← htag]
  show execRemoteScratchpadWrite k time s = _
  unfold execRemoteScratchpadWrite
  dsimp only
  rw [hw]
  dsimp only
  unfold remoteTaken leaveRemote at hopen'
  rw [hopen', Bool.not_true, Bool.false_or]
  simp only [Bool.not_eq_true']
  rfl

/-- A row depends on the rows and the writes of its core. -/
theorem rowAt_of_rows (hrows : ∀ j, (coreOf u j).rows = (coreOf s j).rows) (hwrites : ∀ j, (coreOf u j).writes = (coreOf s j).writes)
    (j d t : Nat) : rowAt u j d t = rowAt s j d t := by
  unfold rowAt coreRowAt
  dsimp only
  rw [hrows, hwrites]

/-- What the tag action of a remote write leaves, and what it does to its slot. -/
theorem remoteTagged_keeps (n : Nat) (w : RemoteWrite) (s : State) :
    (∀ j d t, rowAt (remoteTagged n w s) j d t = rowAt s j d t)
      ∧ (remoteTagged n w s).mem = s.mem ∧ (remoteTagged n w s).fab = s.fab
      ∧ (coreOf (remoteTagged n w s) n).ax.remote = (coreOf s n).ax.remote
      ∧ (coreOf (remoteTagged n w s) n).tags
        = if w.rset && w.last then modAt (coreOf s n).tags w.rslot (portCell (portAlone s n) true (portCycle s n))
          else (coreOf s n).tags := by
  unfold remoteTagged
  split
  · obtain ⟨⟨clash, hsame⟩, hne⟩ := portTag_core n w.rslot true s
    have hwithin := within_settleHolds (S := [.bays, .cores, .xings]) (Covers.self _)
      (within_portTag (k := n) (slot := w.rslot) (full := true) (Covers.mono (Covers.self _) (by decide)) (Within.refl _ s))
    have hclaims := fun j => (claims_settleHolds (portTag n w.rslot true s) j).keeps
    have hport : ∀ j, (coreOf (portTag n w.rslot true s) j).rows = (coreOf s j).rows
        ∧ (coreOf (portTag n w.rslot true s) j).writes = (coreOf s j).writes := fun j => by
      by_cases hj : j = n
      · rw [hj, hsame]
        exact ⟨rfl, rfl⟩
      · rw [hne j hj]
        exact ⟨rfl, rfl⟩
    refine ⟨rowAt_of_rows (fun j => ?_) (fun j => ?_), hwithin.frame .mem (by decide), hwithin.frame .fab (by decide), ?_, ?_⟩
    · obtain ⟨-, hrows, -⟩ := hclaims j
      exact hrows.trans (hport j).1
    · obtain ⟨-, -, hwrites, -⟩ := hclaims j
      exact hwrites.trans (hport j).2
    · obtain ⟨-, -, -, -, -, -, -, hremote⟩ := hclaims n
      rw [hremote, hsame]
    · obtain ⟨htags, -⟩ := hclaims n
      rw [htags, hsame]
  · exact ⟨fun _ _ _ => rfl, rfl, rfl, rfl, rfl⟩

/-- Settles O27: the tests are made before the write is taken, and the answer and the tag come after the rows. -/
theorem remoteWritesLand : Obligations.RemoteWritesLand := by
  intro k time w rest s n c t free hw hopen
  have hexec := exec_remoteWrite (time := time) hw hopen
  have hfree : portsFree s n (spanRows (addrOff (destOf w.q)) w.q.len) = free := rfl
  have hcycle : tagAt (coreOf s (coreNo k)) w.rslot (portCycle s (coreNo k)) = tagAt c w.rslot t := rfl
  rw [hfree, hcycle] at hexec
  refine ⟨fun hf => ?taken, fun hf hset hok => ?error, fun hf hset hok hfull => ?waits, fun hf hset => ?lands⟩
  case taken => rw [hexec, if_pos hf]
  case error =>
    rw [hf, hset, hok, if_neg (by decide), if_pos (by decide)] at hexec
    exact ⟨_, hexec, remoteTaken_same n time rest s, rfl, fun j hj => remoteTaken_ne time rest s hj⟩
  case waits => rw [hexec, hf, hset, hok, hfull, if_neg (by decide), if_neg (by decide), if_pos (by decide)]
  case lands =>
    have hset' : ¬(w.rset && !rsetOk s n w.rslot) = true ∧ ¬(w.rset && tagAt c w.rslot t) = true := by
      rcases hset with h | ⟨hok, hempty⟩
      · simp [h]
      · simp [hok, hempty]
    rw [hf, if_neg (by decide), if_neg hset'.1, if_neg hset'.2] at hexec
    have haccess : PortAccess (remoteTaken n time rest s) (remoteLanded n time w rest s).2 := portAccess_writeMem _ _ _ _ _
    obtain ⟨hbays, hfab⟩ := writeMem_frame (.core n) (addrOff (destOf w.q)) w.q.data ⟨[], []⟩ (remoteTaken n time rest s)
    obtain ⟨hrows, hmem, hfab', hremote, htags⟩ := remoteTagged_keeps n w (remoteLanded n time w rest s).2
    have hlanded : (coreOf (remoteLanded n time w rest s).2 n).tags = c.tags := by
      rw [haccess.tags n, remoteTaken_same]
      rfl
    have hcount : portCycle (remoteLanded n time w rest s).2 n = t := by
      have hbays' : (remoteLanded n time w rest s).2.bays = s.bays := hbays
      unfold portCycle
      rw [bayOfCore_of_bays hbays']
      rfl
    rw [hlanded, hcount] at htags
    refine ⟨_, remoteLanded n time w rest s, hexec, ?remote, rfl, hrows, hmem.trans haccess.mem, ?answers,
      fun g hg hrset hlast => ?full, fun m hm => ?others⟩
    case remote =>
      refine Eq.trans hremote ?_
      rw [haccess.ax n, remoteTaken_same]
      rfl
    case answers =>
      have hanswers : (remoteTagged n w (remoteLanded n time w rest s).2).fab = s.fab := hfab'.trans hfab
      exact congrArg (fun x => x.answers ++ _) hanswers
    case full =>
      rw [hrset, hlast, if_pos (by decide)] at htags
      exact (tagAt_modAt hg htags t).trans (portCell_full _ t g)
    case others =>
      refine (congrArg (fun l => l[m]?) htags).trans ?_
      split
      · rename_i hboth
        rw [Bool.and_eq_true] at hboth
        refine getElem?_modAt_ne (hm.resolve_right ?_) _ _
        rw [hboth.1, hboth.2]
        decide
      · rfl

end Sys2Proof.ScratchpadFamily

/-! Proofs of the family of the scheduled fabric: the ends of a crossing (O30) and what a router does in a cycle (O29). -/

namespace Sys2Proof.FabricFamily

open Machine Laws SequencerFamily ScratchpadFamily

/-! ## What operations leave of the crossings (R240 to R244)

An operation changes crossings one by one and leaves where they begin and end. What it leaves of them beside that is said by what
is looked at of a crossing, and of which sides of the receiving core. -/

section
variable {α : Type} {g : Crossing → α} {D : Side → Prop} {s u v : State} {k : Nat} {d : Side} {x y : Crossing}

/-- From `s` to `u` every crossing keeps its ends, and those that come in on the sides of `D` keep what `g` looks at. -/
def Crossed (g : Crossing → α) (D : Side → Prop) (s u : State) : Prop :=
  ∃ f, KeepsEnds f ∧ (∀ x, D x.recvSide → g (f x) = g x) ∧ u.xings = s.xings.map f

/-- All four sides. -/
def everySide (_ : Side) : Prop := True

theorem Crossed.of_xings (h : u.xings = s.xings) : Crossed g D s u :=
  ⟨id, ⟨fun _ => ⟨rfl, rfl, rfl⟩, fun _ => ⟨rfl, rfl, rfl⟩⟩, fun _ _ => rfl, by rw [h, List.map_id]⟩

theorem Crossed.refl (s : State) : Crossed g D s s := Crossed.of_xings rfl

theorem Crossed.trans (h : Crossed g D s u) (h' : Crossed g D u v) : Crossed g D s v := by
  obtain ⟨f, hf, hg, hx⟩ := h
  obtain ⟨f', hf', hg', hx'⟩ := h'
  refine ⟨f' ∘ f, ⟨fun x => ?_, fun x => ?_⟩, fun x hD => ?_, by rw [hx', hx, List.map_map]⟩
  · obtain ⟨h1, h2, h3⟩ := hf.recv x
    obtain ⟨h1', h2', h3'⟩ := hf'.recv (f x)
    exact ⟨h1'.trans h1, h2'.trans h2, h3'.trans h3⟩
  · obtain ⟨h1, h2, h3⟩ := hf.sender x
    obtain ⟨h1', h2', h3'⟩ := hf'.sender (f x)
    exact ⟨h1'.trans h1, h2'.trans h2, h3'.trans h3⟩
  · have hside : D (f x).recvSide := by rwa [(hf.recv x).2.1]
    exact (hg' _ hside).trans (hg x hD)

theorem keepsEnds_ite {f : Crossing → Crossing} (hf : KeepsEnds f) (p : Crossing → Bool) :
    KeepsEnds (fun x => if p x then f x else x) := by
  constructor <;> intro x <;> split
  · exact hf.recv x
  · exact ⟨rfl, rfl, rfl⟩
  · exact hf.sender x
  · exact ⟨rfl, rfl, rfl⟩

/-- A change of what comes in on a side leaves what is not looked at, and what comes in on other sides. -/
theorem crossed_modXingIn {f : Crossing → Crossing} (hf : KeepsEnds f) (hg : D d → ∀ x, g (f x) = g x) (k : Nat) (s : State) :
    Crossed g D s (modXingIn k d f s) := by
  refine ⟨_, keepsEnds_ite hf (fun x => x.recv == k && x.recvSide == d), fun x hD => ?_, rfl⟩
  split
  · rename_i hx
    simp only [Bool.and_eq_true, beq_iff_eq] at hx
    exact hg (hx.2 ▸ hD) x
  · rfl

theorem crossed_modXingOut {f : Crossing → Crossing} (hf : KeepsEnds f) (hg : ∀ x, g (f x) = g x) (k : Nat) (d : Side)
    (s : State) : Crossed g D s (modXingOut k d f s) := by
  refine ⟨_, keepsEnds_ite hf (fun x => x.sender == k && x.sendSide == d), fun x _ => ?_, rfl⟩
  split
  · exact hg x
  · rfl

theorem Crossed.ite {p : Prop} [Decidable p] (h : Crossed g D s u) (h' : Crossed g D s v) :
    Crossed g D s (if p then u else v) := by
  split
  · exact h
  · exact h'

theorem crossed_foldl {β : Type} {f : State → β → State} (h : ∀ s a, Crossed g D s (f s a)) (l : List β) (s : State) :
    Crossed g D s (l.foldl f s) := related_foldl Crossed.refl Crossed.trans h l s

/-- A crossing that comes in on one of the sides is looked at as before. -/
theorem Crossed.xingIn_some (h : Crossed g D s u) (hD : D d) (hx : xingIn s k d = some x) :
    ∃ y, xingIn u k d = some y ∧ g y = g x := by
  obtain ⟨f, hf, hg, hu⟩ := h
  refine ⟨f x, by rw [xingIn_map hf hu, hx, Option.map_some], hg x ?_⟩
  rwa [xingIn_side hx]

theorem Crossed.xingIn_none (h : Crossed g D s u) (hx : xingIn s k d = none) : xingIn u k d = none := by
  obtain ⟨f, hf, -, hu⟩ := h
  rw [xingIn_map hf hu, hx, Option.map_none]

theorem Crossed.xingOut_some (h : Crossed g everySide s u) (hx : xingOut s k d = some x) :
    ∃ y, xingOut u k d = some y ∧ g y = g x := by
  obtain ⟨f, hf, hg, hu⟩ := h
  exact ⟨f x, by rw [xingOut_map hf hu, hx, Option.map_some], hg x trivial⟩

theorem Crossed.xingOut_none (h : Crossed g D s u) (hx : xingOut s k d = none) : xingOut u k d = none := by
  obtain ⟨f, hf, -, hu⟩ := h
  rw [xingOut_map hf hu, hx, Option.map_none]

theorem xingIn_ends (h : xingIn s k d = some x) : x.recv = k ∧ x.recvSide = d ∧ x.inDecl = true := by
  have := List.find?_some h
  simpa only [Bool.and_eq_true, beq_iff_eq, and_assoc] using this

/-- The change of what comes in on a side. -/
theorem xingIn_modXingIn {f : Crossing → Crossing} (hf : KeepsEnds f) (h : xingIn s k d = some x) :
    xingIn (modXingIn k d f s) k d = some (f x) := by
  obtain ⟨hr, hs, -⟩ := xingIn_ends h
  rw [xingIn_map (keepsEnds_ite hf (fun x => x.recv == k && x.recvSide == d)) (s := s) rfl, h, Option.map_some]
  rw [hr, hs, if_pos (by simp)]

theorem xingOut_modXingOut {f : Crossing → Crossing} (hf : KeepsEnds f) (h : xingOut s k d = some x) :
    xingOut (modXingOut k d f s) k d = some (f x) := by
  have hends := List.find?_some h
  simp only [Bool.and_eq_true, beq_iff_eq] at hends
  rw [xingOut_map (keepsEnds_ite hf (fun x => x.sender == k && x.sendSide == d)) (s := s) rfl, h, Option.map_some]
  rw [hends.1.1, hends.1.2, if_pos (by simp)]

/-- Another crossing in the place of the one that comes in on a side. -/
theorem xingIn_replaced (h : xingIn s k d = some x) (hy : y.recv = k ∧ y.recvSide = d ∧ y.inDecl = true) :
    xingIn (modXingIn k d (fun _ => y) s) k d = some y := by
  obtain ⟨hr, hs, -⟩ := xingIn_ends h
  obtain ⟨hyr, hys, hyi⟩ := hy
  have hfind : ∃ z, s.xings.find? (fun z => z.recv == k && z.recvSide == d) = some z := by
    refine Option.isSome_iff_exists.mp (List.find?_isSome.mpr ⟨x, List.mem_of_find?_eq_some h, ?_⟩)
    simp [hr, hs]
  obtain ⟨z, hz⟩ := hfind
  have hat := List.find?_some hz
  have hport : ((fun z : Crossing => z.recv == k && z.recvSide == d && z.inDecl)
      ∘ fun z => if z.recv == k && z.recvSide == d then y else z) = fun z => z.recv == k && z.recvSide == d := by
    funext z
    rw [Function.comp_apply]
    split
    · rename_i hz
      simp [hyr, hys, hyi, hz]
    · rename_i hz
      simp only [Bool.not_eq_true] at hz
      simp [hz]
  rw [xingIn, modXingIn, List.find?_map, hport, hz, Option.map_some]
  rw [if_pos hat]

end

/-! ## Holds that see their conditions (R259, R260) -/

section
variable {s u : State} {k : Nat} {d : Side} {x : Crossing}

theorem keepsEnds_claims (f : Crossing → Nat × Nat) :
    KeepsEnds (fun x => { x with takeClaims := (f x).1, driveClaims := (f x).2 }) :=
  ⟨fun _ => ⟨rfl, rfl, rfl⟩, fun _ => ⟨rfl, rfl, rfl⟩⟩

/-- A hold claims of crossings, and leaves the rest of them. -/
theorem crossed_claimCond (cond : HoldCond) (s : State) : Crossed sansClaims everySide s (Machine.claimCond cond s) := by
  have hin (k : Nat) (d : Side) : Crossed sansClaims everySide s
      (modXingIn k d (fun x => { x with takeClaims := x.takeClaims + 1 }) s) :=
    crossed_modXingIn (keepsEnds_claims (fun x => (x.takeClaims + 1, x.driveClaims))) (fun _ _ => rfl) k s
  have hout (k : Nat) (d : Side) : Crossed sansClaims everySide s
      (modXingOut k d (fun x => { x with driveClaims := x.driveClaims + 1 }) s) :=
    crossed_modXingOut (keepsEnds_claims (fun x => (x.takeClaims, x.driveClaims + 1))) (fun _ => rfl) k d s
  unfold Machine.claimCond
  cases cond with
  | xdata k d t turn => exact Crossed.ite (Crossed.refl s) ((hin k d).trans (Crossed.of_xings rfl))
  | xcredit k d t | markCredit k d t => exact Crossed.ite (Crossed.refl s) ((hout k d).trans (Crossed.of_xings rfl))
  | _ => exact Crossed.of_xings rfl

theorem crossed_evalConds (i : Nat) (conds : List HoldCond) (s : State) :
    Crossed sansClaims everySide s (evalConds i conds s).2 := by
  induction conds generalizing s with
  | nil => exact Crossed.refl s
  | cons cond conds ih =>
    rw [evalConds]
    split
    · exact Crossed.refl s
    · split
      · exact (crossed_claimCond cond s).trans (ih _)
      · exact ih s

theorem crossed_settleHolds (s : State) : Crossed sansClaims everySide s (settleHolds s) := by
  refine crossed_foldl (fun s p => ?_) s.bays s
  unfold settleHold
  split
  · exact Crossed.refl s
  · split
    · exact Crossed.refl s
    · exact (crossed_evalConds p.1 _ s).trans (Crossed.of_xings (modBay_xings _ _ _))

/-! ## The ends of a crossing (R243, R266) -/

theorem endRuns_noteTrips (time k : Nat) (s : State) : endRuns (noteTrips (atTime time s)) k = endRuns s k := rfl

/-- An entry of another epoch is discarded, and counts. -/
theorem examineEntry_stale {r : XTrip} {y : XEntry} {ys : List XEntry} (h : x.flight = y :: ys) (he : y.xepoch ≠ x.acceptXe) :
    examineEntry r x = ({ x with flight := ys, returning := x.returning ++ [r] }, 1) := by
  rw [examineEntry, h]
  exact if_pos he

/-- A mark moves the accepted epoch on. -/
theorem examineEntry_mark {r : XTrip} {y : XEntry} {ys : List XEntry} (h : x.flight = y :: ys) (he : y.xepoch = x.acceptXe)
    (hk : y.kind = .mark) : examineEntry r x
      = ({ x with flight := ys, returning := x.returning ++ [r], acceptXe := x.acceptXe + 1 }, 0) := by
  rw [examineEntry, h]
  dsimp only
  rw [if_neg (not_not.mpr he), if_pos hk]

/-- Any other entry is accepted. -/
theorem examineEntry_accepted {r : XTrip} {y : XEntry} {ys : List XEntry} (h : x.flight = y :: ys)
    (he : y.xepoch = x.acceptXe) (hk : y.kind ≠ .mark) :
    examineEntry r x = ({ x with flight := ys, accepted := x.accepted ++ [y] }, 0) := by
  rw [examineEntry, h]
  dsimp only
  rw [if_neg (not_not.mpr he), if_neg hk]

theorem examineEntry_ends (r : XTrip) (x : Crossing) : (examineEntry r x).1.recv = x.recv
    ∧ (examineEntry r x).1.recvSide = x.recvSide ∧ (examineEntry r x).1.inDecl = x.inDecl := by
  unfold examineEntry
  split
  · exact ⟨rfl, rfl, rfl⟩
  · dsimp only
    split
    · exact ⟨rfl, rfl, rfl⟩
    · split <;> exact ⟨rfl, rfl, rfl⟩

/-- A core that counts entries of another epoch. -/
def countStale (n : Nat) (c : Core) : Core := { c with st := { c.st with staleIn := satInc 255 c.st.staleIn n } }

/-- The cycle that a fault found at a crossing is noted with. -/
def cycleOfBay (s : State) (k : Nat) : Nat := match bayOfCore s k with | some (_, b) => b.count - 1 | none => 0

/-- The end of a crossing behind an entry that has become visible, before the holds see it. -/
def entryExamined (k : Nat) (d : Side) (x : Crossing) (s : State) : State :=
  let r := examineEntry (tripFrom s k) x
  let s' := modCore k (countStale r.2) (modXingIn k d (fun _ => r.1) s)
  examineXing k (cycleOfBay s' k) (sideCode d) s'

/-- A core that may have a cause of fault hold. -/
def withCause (n : Nat) (c : Core) : Core := { c with st := { c.st with faultCause := n } }

/-- What is found at a crossing leaves the cores but for the core's FAULT_CAUSE. -/
theorem examineXing_core (k t side : Nat) (s : State) :
    (∃ n, coreOf (examineXing k t side s) k = withCause n (coreOf s k))
      ∧ ∀ j, j ≠ k → coreOf (examineXing k t side s) j = coreOf s j := by
  have hexamine (f : Injection → Bool) (j : Nat) : coreOf (examine 8 f s).2 j = coreOf s j :=
    coreOf_of_cores ((within_examine (S := [.host, .ev, .fw, .err, .hostMem, .bootLog]) (Covers.self _)
      (Within.refl _ s)).frame .cores (by decide)) j
  have herror (u : State) (j : Nat) : coreOf (coreError k t 3 0xFF 0 true u) j
      = coreOf (modCore k (fun c => { c with st := setCause 3 c.st }) u) j := by
    unfold coreError
    rw [coreOf_of_cores ((within_reportUncorrectable (S := [.host, .ev, .fw, .err, .hostMem, .bootLog]) (res := none)
      (Covers.self _) (Within.refl _ _)).frame .cores (by decide)), coreOf_faultCoreBay]
  unfold examineXing
  dsimp only
  split
  · refine ⟨⟨causeAfter 3 (coreOf s k), ?_⟩, fun j hj => ?_⟩
    · rw [herror, coreOf_modCore_same, setCause_eq, hexamine]
      rfl
    · rw [herror, coreOf_modCore_ne _ _ hj, hexamine]
  · exact ⟨⟨(coreOf s k).st.faultCause, rfl⟩, fun _ _ => rfl⟩

theorem execCrossingEntry_waits {k : CoreId} {time : Nat} {y : XEntry} {ys : List XEntry}
    (hx : xingIn (noteTrips (atTime time s)) (coreNo k) d = some x) (hf : x.flight = y :: ys)
    (hdue : tripDue (noteTrips (atTime time s)) (coreNo k) y.trip = false) :
    exec (.crossingEntry k d time) s = .next s := by
  show execCrossingEntry k d time s = _
  unfold execCrossingEntry
  dsimp only
  rw [hx, Option.bind_some, hf, List.head?_cons, Option.map_some]
  dsimp only
  rw [hdue, if_pos (by simp)]

theorem execCrossingEntry_due {k : CoreId} {time : Nat} {y : XEntry} {ys : List XEntry} (hr : endRuns s (coreNo k) = true)
    (hx : xingIn (noteTrips (atTime time s)) (coreNo k) d = some x) (hf : x.flight = y :: ys)
    (hdue : tripDue (noteTrips (atTime time s)) (coreNo k) y.trip = true) :
    exec (.crossingEntry k d time) s
      = .next (settleHolds (entryExamined (coreNo k) d x (noteTrips (atTime time s)))) := by
  show execCrossingEntry k d time s = _
  unfold execCrossingEntry
  dsimp only
  rw [hx, Option.bind_some, hf, List.head?_cons, Option.map_some]
  dsimp only
  rw [hdue, endRuns_noteTrips, hr, if_neg (by simp)]
  rfl

/-- What an entry that becomes visible leaves of its crossing and of the cores. -/
theorem entryExamined_leaves (hx : xingIn s k d = some x) :
    xingIn (entryExamined k d x s) k d = some (examineEntry (tripFrom s k) x).1
      ∧ (∃ c, coreOf (entryExamined k d x s) k = withCause c (countStale (examineEntry (tripFrom s k) x).2 (coreOf s k)))
      ∧ ∀ j, j ≠ k → coreOf (entryExamined k d x s) j = coreOf s j := by
  let y := (examineEntry (tripFrom s k) x).1
  let s' := modCore k (countStale (examineEntry (tripFrom s k) x).2) (modXingIn k d (fun _ => y) s)
  have hm : Marks s' (entryExamined k d x s) := marks_examineXing _ _ _ _
  obtain ⟨⟨c, hc⟩, hothers⟩ := examineXing_core k (cycleOfBay s' k) (sideCode d) s'
  have hcore : coreOf s' k = countStale (examineEntry (tripFrom s k) x).2 (coreOf s k) := coreOf_modCore_same _ _ _
  refine ⟨?_, ⟨c, hc.trans (congrArg (withCause c) hcore)⟩, fun j hj => (hothers j hj).trans (coreOf_modCore_ne _ _ hj)⟩
  obtain ⟨h1, h2, h3⟩ := examineEntry_ends (tripFrom s k) x
  obtain ⟨h1', h2', h3'⟩ := xingIn_ends hx
  have hnew : xingIn s' k d = some y := xingIn_replaced hx ⟨h1.trans h1', h2.trans h2', h3.trans h3'⟩
  unfold xingIn at hnew ⊢
  rw [hm.xings]
  exact hnew

theorem execCreditReturn_waits {k : CoreId} {time : Nat} {r : XTrip} {rs : List XTrip}
    (hx : xingOut (noteTrips (atTime time s)) (coreNo k) d = some x) (hr : x.returning = r :: rs)
    (hdue : tripDue (noteTrips (atTime time s)) (coreNo k) r = false) :
    exec (.creditReturn k d time) s = .next s := by
  show execCreditReturn k d time s = _
  unfold execCreditReturn
  dsimp only
  rw [hx, Option.bind_some, hr, List.head?_cons]
  dsimp only
  rw [hdue, if_pos (by simp)]

theorem execCreditReturn_due {k : CoreId} {time : Nat} {r : XTrip} {rs : List XTrip} (hends : endRuns s (coreNo k) = true)
    (hx : xingOut (noteTrips (atTime time s)) (coreNo k) d = some x) (hr : x.returning = r :: rs)
    (hdue : tripDue (noteTrips (atTime time s)) (coreNo k) r = true) :
    exec (.creditReturn k d time) s = .next (settleHolds (modXingOut (coreNo k) d
      (fun x => { x with returning := x.returning.tail }) (noteTrips (atTime time s)))) := by
  show execCreditReturn k d time s = _
  unfold execCreditReturn
  dsimp only
  rw [hx, Option.bind_some, hr, List.head?_cons]
  dsimp only
  rw [hdue, endRuns_noteTrips, hends, if_neg (by simp)]

/-- The claims of holds are no part of what a statement looks at of a core. -/
theorem sansHolds_claimed {c e : Core} (h : Claimed c e) : sansHolds e = sansHolds c := by
  obtain ⟨_, _, _, rfl⟩ := h
  rfl

theorem st_claimed {c e : Core} (h : Claimed c e) : e.st = c.st := by
  obtain ⟨_, _, _, rfl⟩ := h
  rfl

/-- Settles O30: the examination of an entry and the return of a credit are one change of one crossing, and what the holds claim
then is not looked at. -/
theorem crossingEndsRun : Obligations.CrossingEndsRun := by
  intro k d time x s n s1 back hends
  refine ⟨fun y ys hx hf => ⟨fun hdue => execCrossingEntry_waits hx hf hdue, fun hdue => ?entry⟩,
    fun r rs hx hr => ⟨fun hdue => execCreditReturn_waits hx hr hdue, fun hdue => ?credit⟩⟩
  case entry =>
    obtain ⟨hin, ⟨cause, hcore⟩, hothers⟩ := entryExamined_leaves (s := s1) hx
    obtain ⟨x', hx', hsans⟩ := (crossed_settleHolds _).xingIn_some trivial hin
    have hclaims := claims_settleHolds (entryExamined n d x s1)
    have hstale : (coreOf (settleHolds (entryExamined n d x s1)) n).st.staleIn
        = satInc 255 (coreOf s n).st.staleIn (examineEntry back x).2 := by
      rw [st_claimed (hclaims n), hcore]
      rfl
    refine ⟨_, x', execCrossingEntry_due hends hx hf hdue, hx', fun he => ?_, fun he hk => ?_, fun he hk => ?_, ?_,
      fun j hj => ?_⟩
    · have hentry := examineEntry_stale (r := back) hf he
      rw [hstale, hsans, hentry]
      exact ⟨rfl, rfl⟩
    · have hentry := examineEntry_mark (r := back) hf he hk
      rw [hstale, hsans, hentry]
      exact ⟨rfl, rfl⟩
    · have hentry := examineEntry_accepted (r := back) hf he hk
      rw [hstale, hsans, hentry]
      exact ⟨rfl, rfl⟩
    · rw [st_claimed (hclaims n), sansHolds_claimed (hclaims n), hcore]
      rfl
    · rw [sansHolds_claimed (hclaims j), hothers j hj]
      rfl
  case credit =>
    have hout := xingOut_modXingOut (f := fun x => { x with returning := x.returning.tail })
      ⟨fun _ => ⟨rfl, rfl, rfl⟩, fun _ => ⟨rfl, rfl, rfl⟩⟩ hx
    obtain ⟨x', hx', hsans⟩ := (crossed_settleHolds _).xingOut_some hout
    refine ⟨_, x', execCreditReturn_due hends hx hr hdue, hx', ?_, fun j => ?_⟩
    · rw [hsans, hr]
      rfl
    · exact sansHolds_claimed (claims_settleHolds _ j)

end

end Sys2Proof.FabricFamily

namespace Sys2Proof.FabricFamily

open Machine Laws SequencerFamily ScratchpadFamily VectorFamily

variable {k t : Nat} {d : Side} {D E : Side → Prop} {c e : Core} {s u v : State} {b : Bay} {x : Crossing}

/-! ## The periods that a core's bay has run (R266)

Reports and faults tell a bay something; none of them changes when its periods begin. -/

/-- Bay `b'` is bay `b` but for what it has been told: traps, conditions and faults. -/
def BayTold (b b' : Bay) : Prop :=
  ∃ traps lost conds freeze code core due, b' = { b with
    traps := traps, trapsLost := lost, conds := conds, freezeDue := freeze, fault := code, faultCore := core, faultDue := due }

theorem bayTold_faultBay (code k c : Nat) (b : Bay) : BayTold b (faultBay code k c b) := by
  obtain ⟨code', core, due, h⟩ := bayMarked_faultBay code k c b
  exact ⟨b.traps, b.trapsLost, b.conds, b.freezeDue, code', core, due, h⟩

theorem bayTold_trapBay (tr : Trap) (b : Bay) : BayTold b (trapBay tr b) := by
  unfold trapBay
  split <;> dsimp only <;> split <;> exact ⟨_, _, _, _, _, _, _, rfl⟩

theorem tripFrom_bay {i : Nat} (h : bayOfCore s k = some (i, b)) : tripFrom s k = ⟨periodNow s b + 1, none⟩ := by
  rw [tripFrom, h]

theorem tripFrom_setBay {i : Nat} {b' : Bay} (h : bayOfCore s k = some (i, b)) (hb : BayTold b b') :
    tripFrom (setBay i b' s) k = tripFrom s k := by
  obtain ⟨_, _, _, _, _, _, _, hb⟩ := hb
  have hin : inBay b' k = true := by
    rw [hb]
    exact (bayOfCore_inBay h :)
  rw [tripFrom_bay (bayOfCore_setBay h hin), tripFrom_bay h, hb]
  rfl

theorem tripFrom_of_bays (hb : u.bays = s.bays) (hn : u.now = s.now) (k : Nat) : tripFrom u k = tripFrom s k := by
  unfold tripFrom periodNow begunPeriods idleNow periodsSince
  rw [bayOfCore_of_bays hb, hn]

theorem tripFrom_within {S : List StatePart} (h : Within S s u) (hb : StatePart.bays ∉ S) (hn : StatePart.now ∉ S) (k : Nat) :
    tripFrom u k = tripFrom s k := tripFrom_of_bays (h.frame .bays hb) (h.frame .now hn) k

theorem tripFrom_dropCond (cond : HoldCond) (k : Nat) (s : State) : tripFrom (dropCond k cond s) k = tripFrom s k := by
  unfold dropCond
  split
  · rename_i i b h
    exact tripFrom_setBay h ⟨_, _, _, _, _, _, _, rfl⟩
  · rfl

theorem tripFrom_faultCoreBay (code c k : Nat) (s : State) : tripFrom (faultCoreBay code k c s) k = tripFrom s k := by
  unfold faultCoreBay
  split
  · rfl
  · rename_i i b h
    exact tripFrom_setBay h (bayTold_faultBay _ _ _ _)

theorem tripFrom_checkLate (t k : Nat) (s : State) : tripFrom (checkLate k t s) k = tripFrom s k :=
  tripFrom_faultCoreBay 1 t k (modCore k _ s)

theorem tripFrom_noteEvent (k cls sub index t detail : Nat) (f : CoreStatus → CoreStatus) (s : State) :
    tripFrom (noteEvent k cls sub index t detail f s) k = tripFrom s k := by
  unfold noteEvent
  split
  · rename_i i b h
    split
    · exact tripFrom_setBay h (bayTold_trapBay _ _)
    · rfl
  · rfl

theorem tripFrom_coreError (t cls unit off : Nat) (inj : Bool) (k : Nat) (s : State) :
    tripFrom (coreError k t cls unit off inj s) k = tripFrom s k :=
  (tripFrom_within (within_reportUncorrectable (S := [.host, .ev, .fw, .err, .hostMem, .bootLog]) (res := none)
    (Covers.self _) (Within.refl _ _)) (by decide) (by decide) k).trans (tripFrom_faultCoreBay 4 t k (modCore k _ s))

theorem tripFrom_examine (p : Nat) (f : Injection → Bool) (k : Nat) (s : State) :
    tripFrom (examine p f s).2 k = tripFrom s k :=
  tripFrom_within (within_examine (S := [.host, .ev, .fw, .err, .hostMem, .bootLog]) (Covers.self _) (Within.refl _ s))
    (by decide) (by decide) k

theorem tripFrom_examineParity (t n k : Nat) (s : State) : tripFrom (examineParity k t n s) k = tripFrom s k := by
  unfold examineParity
  dsimp only
  split
  · exact (tripFrom_coreError _ _ _ _ _ _ _).trans (tripFrom_examine _ _ _ _)
  · rfl

theorem tripFrom_examineItem (t n k : Nat) (s : State) : tripFrom (examineItem k t n s) k = tripFrom s k := by
  unfold examineItem
  dsimp only
  split
  · exact (tripFrom_coreError _ _ _ _ _ _ _).trans (tripFrom_examine _ _ _ _)
  · rfl

theorem tripFrom_putRow (j r n : Nat) (data : Row) (w : RowUnit) (op k : Nat) (s : State) :
    tripFrom (putRow j r n data w op s) k = tripFrom s k :=
  tripFrom_within (within_putRow (S := [.freeCtr, .cores]) (Covers.self _) (Within.refl _ s)) (by decide) (by decide) k

/-! ## What the parts of a router's cycle leave

Each part of the cycle leaves of every core its image, its place in the operation store, its tags and banks and the items that
have arrived, of the crossings what their senders do not change, and of the core's own claims those for takes. Only a take from
a crossing changes what comes in on its side. -/

/-- What the parts of a router's cycle leave of a core. -/
structure RouterKeeps (c e : Core) : Prop where
  image : e.image = c.image
  issue : e.seq.issue = c.seq.issue
  tags : e.tags = c.tags
  banks : e.eng.banks = c.eng.banks
  arrivals : ∀ a ∈ c.rt.arrivals, a ∈ e.rt.arrivals

theorem RouterKeeps.refl (c : Core) : RouterKeeps c c := ⟨rfl, rfl, rfl, rfl, fun _ h => h⟩

theorem RouterKeeps.trans {f : Core} (h : RouterKeeps c e) (h' : RouterKeeps e f) : RouterKeeps c f :=
  ⟨h'.image.trans h.image, h'.issue.trans h.issue, h'.tags.trans h.tags, h'.banks.trans h.banks,
    fun a ha => h'.arrivals a (h.arrivals a ha)⟩

theorem routerKeeps_of_same (h : CoreSame c e) : RouterKeeps c e := by
  obtain ⟨_, _, rfl⟩ := h
  exact ⟨rfl, rfl, rfl, rfl, fun _ h => h⟩

theorem routerKeeps_of_rewritten (h : Rewritten c e) : RouterKeeps c e := by
  obtain ⟨_, _, _, _, _, rfl⟩ := h
  exact ⟨rfl, rfl, rfl, rfl, fun _ h => h⟩

/-- The receiver's side of a crossing: all but what its sender changes. -/
def inSide (x : Crossing) : Crossing := { x with flight := [], sendXe := 0, driveClaims := 0 }

/-- From `s` to `u` the router of core `k` does a part of its cycle `t` that takes nothing on the sides of `D`. -/
structure Runs (k t : Nat) (D : Side → Prop) (s u : State) : Prop where
  core : ∀ j, RouterKeeps (coreOf s j) (coreOf u j)
  xings : Crossed inSide D s u
  trip : tripFrom u k = tripFrom s k
  claims : ∀ d, D d → ⟨t, d, .take⟩ ∈ (coreOf s k).rt.claims → ⟨t, d, .take⟩ ∈ (coreOf u k).rt.claims

theorem Runs.refl (s : State) : Runs k t D s s := ⟨fun _ => RouterKeeps.refl _, Crossed.refl s, rfl, fun _ _ h => h⟩

theorem Runs.trans (h : Runs k t D s u) (h' : Runs k t D u v) : Runs k t D s v :=
  ⟨fun j => (h.core j).trans (h'.core j), h.xings.trans h'.xings, h'.trip.trans h.trip,
    fun d hd hc => h'.claims d hd (h.claims d hd hc)⟩

theorem Runs.mono (h : Runs k t D s u) (hE : ∀ d, E d → D d) : Runs k t E s u := by
  obtain ⟨f, hf, hg, hx⟩ := h.xings
  exact ⟨h.core, ⟨f, hf, fun x hx => hg x (hE _ hx), hx⟩, h.trip, fun d hd => h.claims d (hE d hd)⟩

theorem Runs.ite {p : Prop} [Decidable p] (h : Runs k t D s u) (h' : Runs k t D s v) :
    Runs k t D s (if p then u else v) := by
  split
  · exact h
  · exact h'

theorem runs_foldl {α : Type} {f : State → α → State} (h : ∀ s a, Runs k t D s (f s a)) (l : List α) (s : State) :
    Runs k t D s (l.foldl f s) := related_foldl Runs.refl Runs.trans h l s

/-- A part of the cycle that only counts and reports. -/
theorem runs_of_reports (h : Reports s u) (ht : tripFrom u k = tripFrom s k) : Runs k t D s u :=
  ⟨fun j => routerKeeps_of_same (h.core j), Crossed.of_xings h.xings, ht, fun d _ hc => by rwa [(h.core k).rt]⟩

/-- A part of the cycle that changes a core. -/
theorem runs_modCore {f : Core → Core} (hf : ∀ c, RouterKeeps c (f c))
    (hc : ∀ c d, D d → ⟨t, d, .take⟩ ∈ c.rt.claims → ⟨t, d, .take⟩ ∈ (f c).rt.claims) (k j : Nat) (s : State) :
    Runs k t D s (modCore j f s) := by
  refine ⟨onCores_modCore RouterKeeps.refl hf j s, Crossed.of_xings rfl, rfl, fun d hd h => ?_⟩
  exact onCores_modCore (R := fun c e => ⟨t, d, .take⟩ ∈ c.rt.claims → ⟨t, d, .take⟩ ∈ e.rt.claims) (fun _ h => h)
    (fun c => hc c d hd) j s k h

/-- A part of the cycle that leaves the cores. -/
theorem runs_of_cores (hc : u.cores = s.cores) (hx : Crossed inSide D s u) (ht : tripFrom u k = tripFrom s k) :
    Runs k t D s u :=
  ⟨fun j => by rw [coreOf_of_cores hc]; exact RouterKeeps.refl _, hx, ht, fun d _ h => by rwa [coreOf_of_cores hc]⟩

theorem runs_fabricEvent (k cls sub index t detail : Nat) (f : CoreStatus → CoreStatus) (t' : Nat) (s : State) :
    Runs k t' D s (fabricEvent k cls sub index t detail f s) :=
  Runs.ite (runs_of_reports (reports_noteEvent _ _ _ _ _ _ _ _) (tripFrom_noteEvent _ _ _ _ _ _ _ _)) (Runs.refl s)

theorem runs_checkLate (k t t' : Nat) (s : State) : Runs k t' D s (checkLate k t s) :=
  runs_of_reports (marks_checkLate _ _ _).reports (tripFrom_checkLate _ _ _)

theorem runs_examineParity (k t n t' : Nat) (s : State) : Runs k t' D s (examineParity k t n s) :=
  runs_of_reports (marks_examineParity _ _ _ _).reports (tripFrom_examineParity _ _ _ _)

theorem runs_examineItem (k t n t' : Nat) (s : State) : Runs k t' D s (examineItem k t n s) :=
  runs_of_reports (marks_examineItem _ _ _ _).reports (tripFrom_examineItem _ _ _ _)

theorem runs_dropCond (k : Nat) (cond : HoldCond) (t : Nat) (s : State) : Runs k t D s (dropCond k cond s) := by
  refine runs_of_cores ?_ (Crossed.of_xings ?_) (tripFrom_dropCond _ _ _)
  · unfold dropCond
    split <;> rfl
  · unfold dropCond
    split <;> rfl

/-! ### Claims (R64, R260) -/

/-- A claim leaves a core. -/
def eraseClaim (x : PegClaim) (c : Core) : Core := { c with rt := { c.rt with claims := c.rt.claims.erase x } }

/-- A crossing is no longer claimed. -/
def unclaim (kind : ClaimKind) (x : Crossing) : Crossing :=
  match kind with
  | .drive => { x with driveClaims := x.driveClaims - 1 }
  | _ => { x with takeClaims := x.takeClaims - 1 }

/-- The crossing of a port is no longer claimed. -/
def unclaimPort (k : Nat) (d : Side) (kind : ClaimKind) (s : State) : State :=
  match kind with
  | .drive => modXingOut k d (unclaim kind) s
  | _ => modXingIn k d (unclaim kind) s

theorem useClaim_eq (k cycle : Nat) (d : Side) (kind : ClaimKind) (s : State) : useClaim k cycle d kind s
    = if hasClaim (coreOf s k) cycle d kind then unclaimPort k d kind (modCore k (eraseClaim ⟨cycle, d, kind⟩) s) else s := by
  unfold useClaim
  cases kind <;> rfl

theorem keepsEnds_unclaim (kind : ClaimKind) : KeepsEnds (unclaim kind) := by
  cases kind <;> exact ⟨fun _ => ⟨rfl, rfl, rfl⟩, fun _ => ⟨rfl, rfl, rfl⟩⟩

theorem unclaimPort_cores (k : Nat) (d : Side) (kind : ClaimKind) (s : State) : (unclaimPort k d kind s).cores = s.cores := by
  cases kind <;> rfl

theorem tripFrom_unclaimPort (k : Nat) (d : Side) (kind : ClaimKind) (s : State) :
    tripFrom (unclaimPort k d kind s) k = tripFrom s k := by cases kind <;> rfl

/-- The end of a claim for a drive leaves what comes in; that of any other leaves what comes in on the other sides. -/
theorem crossed_unclaimPort (k : Nat) (d : Side) (kind : ClaimKind) (s : State) :
    Crossed inSide (fun d' => d' ≠ d ∨ kind = .drive) s (unclaimPort k d kind s) := by
  cases kind with
  | drive => exact crossed_modXingOut (keepsEnds_unclaim .drive) (fun _ => rfl) k d s
  | take => exact crossed_modXingIn (keepsEnds_unclaim .take) (fun h => absurd rfl (h.resolve_right (by decide))) k s
  | turn => exact crossed_modXingIn (keepsEnds_unclaim .turn) (fun h => absurd rfl (h.resolve_right (by decide))) k s

theorem runs_useClaim (k cycle : Nat) (d : Side) (kind : ClaimKind) (t : Nat) (s : State) :
    Runs k t (fun d' => d' ≠ d ∨ kind = .drive) s (useClaim k cycle d kind s) := by
  have hport (u : State) : Runs k t (fun d' => d' ≠ d ∨ kind = .drive) u (unclaimPort k d kind u) :=
    runs_of_cores (unclaimPort_cores _ _ _ _) (crossed_unclaimPort k d kind u) (tripFrom_unclaimPort _ _ _ _)
  rw [useClaim_eq]
  refine Runs.ite (Runs.trans (runs_modCore (f := eraseClaim ⟨cycle, d, kind⟩)
    (fun _ => ⟨rfl, rfl, rfl, rfl, fun _ h => h⟩) (fun c d' hd h => ?_) k k s) (hport _)) (Runs.refl s)
  refine (List.mem_erase_of_ne fun he => ?_).mpr h
  cases he
  exact hd.elim (fun h => h rfl) (by decide)

/-- What a receiver holds of a crossing and has given back. -/
def stored (x : Crossing) : List XEntry × List XTrip := (x.accepted, x.returning)

/-- The end of a claim leaves what a crossing holds. -/
theorem crossed_useClaim (k cycle : Nat) (d : Side) (kind : ClaimKind) (s : State) :
    Crossed stored everySide s (useClaim k cycle d kind s) := by
  have hport (s : State) : Crossed stored everySide s (unclaimPort k d kind s) := by
    cases kind with
    | drive => exact crossed_modXingOut (keepsEnds_unclaim .drive) (fun _ => rfl) k d s
    | take => exact crossed_modXingIn (keepsEnds_unclaim .take) (fun _ _ => rfl) k s
    | turn => exact crossed_modXingIn (keepsEnds_unclaim .turn) (fun _ _ => rfl) k s
  rw [useClaim_eq]
  split
  · exact (Crossed.of_xings rfl).trans (hport _)
  · exact Crossed.refl s

/-! ### Takes from crossings (R240, R243, R245) -/

theorem entryItem_kept (k index t : Nat) (epoch : BitVec 4) (l : Layer) (d : Side) (y : XEntry) (t' : Nat) (s : State) :
    Runs k t' D s (entryItem k index t epoch l d y s).2 ∧ (entryItem k index t epoch l d y s).2.xings = s.xings := by
  have hmiss : (fabricEvent k 1 (layerCode l) index t (sideSrc d)
      (fun c => { c with xkindMiss := satInc 255 c.xkindMiss }) s).xings = s.xings :=
    (within_fabricEvent (S := [.bays, .cores]) (Covers.self _) (Within.refl _ s)).frame .xings (by decide)
  unfold entryItem
  split
  · exact ⟨Runs.refl s, rfl⟩
  · exact ⟨Runs.refl s, rfl⟩
  · exact ⟨runs_fabricEvent _ _ _ _ _ _ _ _ _, hmiss⟩

/-- The oldest accepted entry leaves a crossing, and its credit starts back. -/
def takeOldest (ys : List XEntry) (r : XTrip) (x : Crossing) : Crossing :=
  { x with accepted := ys, returning := x.returning ++ [r] }

theorem keepsEnds_takeOldest (ys : List XEntry) (r : XTrip) : KeepsEnds (takeOldest ys r) :=
  ⟨fun _ => ⟨rfl, rfl, rfl⟩, fun _ => ⟨rfl, rfl, rfl⟩⟩

/-- What a take does where an entry is there for it. -/
theorem takeEntry_eq {index cycle : Nat} {kind : ClaimKind} {epoch : BitVec 4} {l : Layer} {y : XEntry} {ys : List XEntry}
    (hx : xingIn s k d = some x) (ho : x.state = .opened)
    (hc : hasClaim (coreOf s k) cycle d kind = true ∨ x.takeClaims < x.accepted.length) (ha : x.accepted = y :: ys) :
    takeEntry k index t cycle kind epoch l d s = entryItem k index t epoch l d y (modXingIn k d (takeOldest ys (tripFrom s k))
      (dropCond k (.xdata k d cycle (kind == .turn)) (useClaim k cycle d kind s))) := by
  have hclosed : ¬(x.state = .closed ∨ (x.state = .pending ∧ hasClaim (coreOf s k) cycle d kind = true)) := by
    rw [ho]
    simp
  have hopen : x.state = .opened ∧ (hasClaim (coreOf s k) cycle d kind || decide (x.takeClaims < x.accepted.length)) = true :=
    ⟨ho, by simpa using hc⟩
  unfold takeEntry
  rw [hx]
  dsimp only
  rw [if_neg hclosed, if_pos hopen, ha]
  rfl

/-- A take leaves what comes in on the other sides. -/
theorem runs_takeEntry (k index t cycle : Nat) (kind : ClaimKind) (epoch : BitVec 4) (l : Layer) (d : Side) (t' : Nat)
    (s : State) : Runs k t' (· ≠ d) s (takeEntry k index t cycle kind epoch l d s).2 := by
  have hclaim : Runs k t' (· ≠ d) s (useClaim k cycle d kind s) :=
    (runs_useClaim k cycle d kind t' s).mono (fun _ h => .inl h)
  unfold takeEntry
  split
  · exact Runs.refl s
  · dsimp only
    split
    · exact hclaim
    · split
      · split
        · exact hclaim.trans (runs_checkLate _ _ _ _)
        · rename_i y ys _
          have hoff (u : State) : Runs k t' (· ≠ d) u (modXingIn k d (takeOldest ys (tripFrom s k)) u) :=
            runs_of_cores rfl (crossed_modXingIn (keepsEnds_takeOldest ys (tripFrom s k)) (fun h => absurd rfl h) k u) rfl
          exact ((hclaim.trans (runs_dropCond k (.xdata k d cycle (kind == .turn)) t' _)).trans (hoff _)).trans
            (entryItem_kept _ _ _ _ _ _ _ _ _).1
      · exact hclaim.trans (runs_checkLate _ _ _ _)

/-- An entry is there on a side for the take of cycle `t`: `ys` lie behind it, and the credits `rs` are on their way. -/
def CanTake (k t : Nat) (d : Side) (ys : List XEntry) (rs : List XTrip) (s : State) : Prop :=
  ∃ x y, xingIn s k d = some x ∧ x.state = .opened ∧ x.accepted = y :: ys ∧ x.returning = rs
    ∧ (hasClaim (coreOf s k) t d .take = true ∨ x.takeClaims < x.accepted.length)

/-- What comes in on a side: the accepted entries, and the credits on their way. -/
def Holds (k : Nat) (d : Side) (ys : List XEntry) (rs : List XTrip) (s : State) : Prop :=
  ∃ x, xingIn s k d = some x ∧ stored x = (ys, rs)

variable {ys : List XEntry} {rs : List XTrip}

theorem inSide_fields {y : Crossing} (h : inSide y = inSide x) : y.state = x.state ∧ y.accepted = x.accepted
    ∧ y.returning = x.returning ∧ y.takeClaims = x.takeClaims :=
  ⟨(congrArg Crossing.state h :), (congrArg Crossing.accepted h :), (congrArg Crossing.returning h :),
    (congrArg Crossing.takeClaims h :)⟩

theorem CanTake.runs (h : CanTake k t d ys rs s) (hr : Runs k t D s u) (hD : D d) : CanTake k t d ys rs u := by
  obtain ⟨x, y, hx, ho, ha, hret, hc⟩ := h
  obtain ⟨x', hx', hg⟩ := hr.xings.xingIn_some hD hx
  obtain ⟨hstate, hacc, hretx, hclaims⟩ := inSide_fields hg
  refine ⟨x', y, hx', hstate.trans ho, hacc.trans ha, hretx.trans hret, ?_⟩
  rw [hacc, hclaims]
  refine hc.imp_left fun h => ?_
  unfold hasClaim at h ⊢
  exact List.contains_iff_mem.mpr (hr.claims d hD (List.contains_iff_mem.mp h))

theorem Holds.crossed (h : Holds k d ys rs s) (hc : Crossed stored D s u) (hD : D d) : Holds k d ys rs u := by
  obtain ⟨x, hx, hs⟩ := h
  obtain ⟨x', hx', hg⟩ := hc.xingIn_some hD hx
  exact ⟨x', hx', hg.trans hs⟩

theorem Holds.runs (h : Holds k d ys rs s) (hr : Runs k t D s u) (hD : D d) : Holds k d ys rs u := by
  obtain ⟨f, hf, hg, hx⟩ := hr.xings
  exact h.crossed ⟨f, hf, fun x hx => (congrArg stored (hg x hx) :), hx⟩ hD

/-- A take takes the entry. -/
theorem takeEntry_takes {index : Nat} {epoch : BitVec 4} {l : Layer} (h : CanTake k t d ys rs s) :
    Holds k d ys (rs ++ [tripFrom s k]) (takeEntry k index t t .take epoch l d s).2 := by
  obtain ⟨x, y, hx, ho, ha, rfl, hc⟩ := h
  obtain ⟨x', hx', hg⟩ := (crossed_useClaim k t d .take s).xingIn_some trivial hx
  have hret : x'.returning = x.returning := congrArg Prod.snd hg
  have hdrop : xingIn (dropCond k (.xdata k d t false) (useClaim k t d .take s)) k d = some x' := by
    unfold dropCond
    split
    · exact hx'
    · exact hx'
  have htaken := xingIn_modXingIn (keepsEnds_takeOldest ys (tripFrom s k)) hdrop
  rw [takeEntry_eq hx ho hc ha]
  refine Holds.crossed (D := everySide) ⟨_, htaken, ?_⟩
    (Crossed.of_xings (entryItem_kept (D := everySide) k index t epoch l d y t _).2) trivial
  rw [stored, takeOldest, hret]

/-- The take from one side in a cycle, or the take ahead for a turn of the next. -/
def takeSide (k index t : Nat) (epoch : BitVec 4) (e next : BitVec 128) (s : State) (d : Side) : State :=
  if (xingIn s k d).isNone then s
  else if portDirect e d then (takeEntry k index t t .take epoch (directLayer e d) d s).2
  else if takesTurn next .transit d || takesTurn next .token d then
    (takeEntry k index t (t + 1) .turn epoch (if takesTurn next .transit d then .transit else .token) d s).2
  else s

theorem takePorts_state (k index t : Nat) (epoch : BitVec 4) (e next : BitVec 128) (l : List Side) (s : State) :
    (takePorts k index t epoch e next l s).2.2 = l.foldl (takeSide k index t epoch e next) s := by
  induction l generalizing s with
  | nil => rfl
  | cons d l ih =>
    rw [takePorts, List.foldl_cons, takeSide]
    split
    · exact ih s
    · split
      · dsimp only
        split <;> exact ih _
      · split
        · dsimp only
          split <;> exact ih _
        · exact ih s

theorem runs_takeSide (k index t : Nat) (epoch : BitVec 4) (e next : BitVec 128) (t' : Nat) (s : State) (d : Side) :
    Runs k t' (· ≠ d) s (takeSide k index t epoch e next s d) := by
  unfold takeSide
  exact Runs.ite (Runs.refl s) (Runs.ite (runs_takeEntry _ _ _ _ _ _ _ _ _ _)
    (Runs.ite (runs_takeEntry _ _ _ _ _ _ _ _ _ _) (Runs.refl s)))

/-- The takes leave what comes in on the sides that are not among theirs. -/
theorem runs_takeSides (k index t : Nat) (epoch : BitVec 4) (e next : BitVec 128) (t' : Nat) (l : List Side) (s : State) :
    Runs k t' (· ∉ l) s (l.foldl (takeSide k index t epoch e next) s) := by
  induction l generalizing s with
  | nil => exact Runs.refl s
  | cons d l ih =>
    exact ((runs_takeSide k index t epoch e next t' s d).mono (fun _ h => List.ne_of_not_mem_cons h)).trans
      ((ih _).mono (fun _ h => List.not_mem_of_not_mem_cons h))

/-- A port that the entry takes loses its oldest accepted entry. -/
theorem takeSides_takes {index : Nat} {epoch : BitVec 4} {e next : BitVec 128} {l : List Side} (hd : d ∈ l) (hl : l.Nodup)
    (he : portDirect e d = true) (h : CanTake k t d ys rs s) :
    Holds k d ys (rs ++ [tripFrom s k]) (l.foldl (takeSide k index t epoch e next) s) := by
  induction l generalizing s with
  | nil => cases hd
  | cons a l ih =>
    obtain ⟨ha, hl⟩ := List.nodup_cons.mp hl
    rw [List.foldl_cons]
    by_cases hda : d = a
    · subst hda
      have htake : takeSide k index t epoch e next s d = (takeEntry k index t t .take epoch (directLayer e d) d s).2 := by
        obtain ⟨x, -, hx, -⟩ := h
        rw [takeSide, hx, he]
        rfl
      rw [htake]
      exact (takeEntry_takes h).runs (runs_takeSides k index t epoch e next t l _) ha
    · have hr := runs_takeSide k index t epoch e next t s a
      rw [← hr.trip]
      exact ih ((List.mem_cons.mp hd).resolve_left hda) hl (h.runs hr hda)

/-- Where no crossing comes in, none is taken from. -/
theorem takePorts_none {index : Nat} {epoch : BitVec 4} {e next : BitVec 128} {l : List Side}
    (h : ∀ d, xingIn s k d = none) : takePorts k index t epoch e next l s = ([], [], s) := by
  induction l with
  | nil => rfl
  | cons d l ih => rw [takePorts, h d, Option.isNone_none, if_pos rfl, ih]

end Sys2Proof.FabricFamily

namespace Sys2Proof.FabricFamily

open Machine Laws SequencerFamily ScratchpadFamily VectorFamily

variable {k t : Nat} {d : Side} {D : Side → Prop} {s u : State} {b : Bay}

/-! ### Drives (R221, R239 to R242) -/

theorem runs_driveEntry (k t : Nat) (d : Side) (kind : XKind) (valid : Bool) (payload : Quarter) (t' : Nat) (s : State) :
    Runs k t' D s (driveEntry k t d kind valid payload s) := by
  have hclaim : Runs k t' D s (useClaim k t d .drive s) := (runs_useClaim k t d .drive t' s).mono (fun _ _ => .inr rfl)
  unfold driveEntry
  split
  · exact Runs.refl s
  · dsimp only
    have hsent (u : State) (f : Crossing → List XEntry) :
        Runs k t' D u (modXingOut k d (fun x => { x with flight := f x }) u) :=
      runs_of_cores rfl (crossed_modXingOut (f := fun x => { x with flight := f x })
        ⟨fun _ => ⟨rfl, rfl, rfl⟩, fun _ => ⟨rfl, rfl, rfl⟩⟩ (fun _ => rfl) k d u) rfl
    exact Runs.ite hclaim (Runs.ite ((hclaim.trans (runs_dropCond k (.xcredit k d t) t' _)).trans (hsent _ _))
      (hclaim.trans (runs_checkLate _ _ _ _)))

/-- An item on its way to a core. -/
def arrive (a : Arrival) (c : Core) : Core := { c with rt := { c.rt with arrivals := c.rt.arrivals ++ [a] } }

theorem runs_driveOut (k t : Nat) (b : Bay) (epoch : BitVec 4) (l : Layer) (o : Side) (code : Nat) (it : Option Item)
    (t' : Nat) (s : State) : Runs k t' D s (driveOut k t b epoch l o code it s) := by
  have hstale : Runs k t' D s (modCore k (countStale 1) s) :=
    runs_modCore (f := countStale 1) (fun _ => ⟨rfl, rfl, rfl, rfl, fun _ h => h⟩) (fun _ _ _ h => h) k k s
  have harrive (f : Nat) (a : Arrival) : Runs k t' D s (modCore f (arrive a) s) :=
    runs_modCore (f := arrive a) (fun _ => ⟨rfl, rfl, rfl, rfl, fun _ h => List.mem_append_left _ h⟩) (fun _ _ _ h => h) k f s
  unfold driveOut
  refine Runs.ite (Runs.refl s) (Runs.ite ?_ ?_)
  · split
    · exact runs_driveEntry _ _ _ _ _ _ _ _
    · exact runs_driveEntry _ _ _ _ _ _ _ _
    · exact Runs.ite (runs_driveEntry _ _ _ _ _ _ _ _) (hstale.trans (runs_driveEntry _ _ _ _ _ _ _ _))
    · exact runs_driveEntry _ _ _ _ _ _ _ _
    · exact Runs.refl s
  · split
    · exact Runs.ite (harrive _ _) (Runs.refl s)
    · exact Runs.refl s

/-- Where no crossing goes out, what a side output takes is on its way to the facing core. -/
theorem driveOut_arrives {epoch : BitVec 4} {l : Layer} {o : Side} {code f : Nat} {it : Item} (hcode : 1 ≤ code)
    (hx : xingOut s k o = none) (hf : facing k o = some f) (hb : inBay b f = true)
    (hrow : l = .row → siteOfCore f = siteOfCore k) :
    driveOut k t b epoch l o code (some it) s
      = modCore f (arrive ⟨t + 1 + extraLatency k f, l, opposite o, it⟩) s := by
  have hpass : (inBay b f && !(l == .row && siteOfCore f != siteOfCore k)) = true := by
    cases l with
    | row => simp [hb, hrow rfl]
    | transit | token => simp [hb]
  unfold driveOut
  rw [if_neg (by omega), hx, Option.isSome_none, if_neg (by decide), hf]
  dsimp only
  rw [if_pos hpass]
  rfl

/-! ### The epoch, captures, steering, adders (R222, R232 to R238, R242) -/

theorem runs_writeMark (k : Nat) (t : Nat) (s : State) (d : Side) : Runs k t D s (writeMark k d s) := by
  refine runs_of_cores rfl (crossed_modXingOut ⟨fun x => ?_, fun x => ?_⟩ (fun x => ?_) k d s) rfl
  all_goals
    dsimp only
    split
  · exact ⟨rfl, rfl, rfl⟩
  · exact ⟨rfl, rfl, rfl⟩
  · exact ⟨rfl, rfl, rfl⟩
  · exact ⟨rfl, rfl, rfl⟩
  · rfl
  · rfl

/-- The marks of the epochs that take effect in a cycle are written. -/
def writeMarks (k t : Nat) (s : State) : State :=
  ((coreOf s k).seq.marks.filter (fun m => decide (m.1 ≤ t))).foldl
    (fun s m => m.2.2.foldl (fun s d => writeMark k d s) s) s

/-- The epoch of a cycle is a core's epoch. -/
def takeEpoch (t : Nat) (ms : List (Nat × BitVec 4 × List Side)) (c : Core) : Core :=
  { c with seq := { c.seq with epoch := epochAt c t, marks := ms } }

theorem settleEpoch_eq (k t : Nat) (s : State) : settleEpoch k t s
    = modCore k (fun c => takeEpoch t (c.seq.marks.filter (fun m => decide (t < m.1))) c) (writeMarks k t s) := rfl

theorem writeMarks_cores (k t : Nat) (s : State) : (writeMarks k t s).cores = s.cores := by
  have hfold {α : Type} {f : State → α → State} (h : ∀ s a, (f s a).cores = s.cores) (l : List α) (s : State) :
      (l.foldl f s).cores = s.cores :=
    related_foldl (R := fun s u => u.cores = s.cores) (fun _ => rfl) (fun h h' => h'.trans h) h l s
  have hmark (s : State) (d : Side) : (writeMark k d s).cores = s.cores := rfl
  exact hfold (fun s (m : Nat × BitVec 4 × List Side) => hfold hmark m.2.2 s) _ s

theorem runs_settleEpoch (k t t' : Nat) (s : State) : Runs k t' D s (settleEpoch k t s) := by
  rw [settleEpoch_eq]
  exact (runs_foldl (fun s (m : Nat × BitVec 4 × List Side) => runs_foldl (runs_writeMark k t') m.2.2 s) _ s).trans
    (runs_modCore (f := fun c => takeEpoch t (c.seq.marks.filter (fun m => decide (t < m.1))) c)
      (fun _ => ⟨rfl, rfl, rfl, rfl, fun _ h => h⟩) (fun _ _ _ h => h) k k _)

theorem settleEpoch_rt (k t : Nat) (s : State) : (coreOf (settleEpoch k t s) k).rt = (coreOf s k).rt := by
  rw [settleEpoch_eq, coreOf_modCore_same]
  exact (congrArg Core.rt (coreOf_of_cores (writeMarks_cores k t s) k) :)

theorem runs_lostItem (k index t : Nat) (l : Layer) (src t' : Nat) (s : State) : Runs k t' D s (lostItem k index t l src s) :=
  runs_fabricEvent _ _ _ _ _ _ _ _ _

theorem runs_putRow (j r n : Nat) (data : Row) (w : RowUnit) (op k t : Nat) (s : State) :
    Runs k t D s (putRow j r n data w op s) := by
  have hrt : ((coreOf (putRow j r n data w op s) k).rt = (coreOf s k).rt) := by
    obtain ⟨_, _, _, _, _, h⟩ := (rewrites_putRow j r n data w op s).core k
    rw [h]
  refine ⟨fun i => routerKeeps_of_rewritten ((rewrites_putRow j r n data w op s).core i), Crossed.of_xings ?_,
    tripFrom_putRow _ _ _ _ _ _ _ _, fun d _ h => by rwa [hrt]⟩
  exact (within_putRow (S := [.freeCtr, .cores]) (Covers.self _) (Within.refl _ s)).frame .xings (by decide)

/-- A bank's plan leaves a core but for the plan. -/
theorem unplan_eq (bank n t : Nat) (c : Core) : ∃ x, unplan bank n t c = { c with bankBusy := x } := by
  induction n generalizing c t with
  | zero => exact ⟨_, rfl⟩
  | succ n ih =>
    rw [unplan]
    split
    · exact ⟨_, rfl⟩
    · dsimp only
      split
      · obtain ⟨x, hx⟩ := ih (t + 1) _
        exact ⟨x, hx⟩
      · exact ⟨_, rfl⟩

theorem runs_skipAccess (j r n k t : Nat) (s : State) : Runs k t D s (skipAccess j r n s) := by
  have hplan (c : Core) : ∃ x, unplan (bankOfRow (rowPlace j r).2) c.bankBusy.length n c = { c with bankBusy := x } :=
    unplan_eq _ _ _ _
  refine runs_modCore (f := fun c => unplan (bankOfRow (rowPlace j r).2) c.bankBusy.length n c) (fun c => ?_)
    (fun c d _ h => ?_) k _ s
  · obtain ⟨x, hx⟩ := hplan c
    rw [hx]
    exact ⟨rfl, rfl, rfl, rfl, fun _ h => h⟩
  · obtain ⟨x, hx⟩ := hplan c
    rw [hx]
    exact h

theorem runs_captureRow (k t : Nat) (r : RecvRun) (it : Option Item) (t' : Nat) (s : State) :
    Runs k t' D s (captureRow k t r it s).2 := by
  unfold captureRow
  dsimp only
  split
  · exact Runs.refl s
  · split
    · split
      · exact Runs.refl s
      · split
        · exact Runs.ite (runs_putRow _ _ _ _ _ _ _ _ _) (runs_skipAccess _ _ _ _ _ _)
        · exact Runs.refl s
    · split
      · exact Runs.refl s
      · split
        · exact runs_putRow _ _ _ _ _ _ _ _ _
        · exact runs_skipAccess _ _ _ _ _ _

theorem runs_captureAll (k t : Nat) (row transit : Option Item) (l : List RecvRun) (t' : Nat) (s : State) :
    Runs k t' D s (captureAll k t row transit l s).2 := by
  induction l generalizing s with
  | nil => exact Runs.refl s
  | cons r l ih => exact (runs_captureRow k t r _ t' s).trans (ih _)

theorem runs_adderMiss (k index t sub fmt : Nat) (a b : Option Item) (t' : Nat) (s : State) :
    Runs k t' D s (adderMiss k index t sub fmt a b s) :=
  Runs.ite (Runs.refl s) (runs_fabricEvent _ _ _ _ _ _ _ _ _)

theorem runs_steerCounts (k index t sub drops stale t' : Nat) (s : State) :
    Runs k t' D s (steerCounts k index t sub drops stale s) :=
  (runs_modCore (f := countStale stale) (fun _ => ⟨rfl, rfl, rfl, rfl, fun _ h => h⟩) (fun _ _ _ h => h) k k s).trans
    (runs_foldl (fun _ _ => runs_fabricEvent _ _ _ _ _ _ _ _ _) _ _)

theorem runs_runSteer (k index t : Nat) (merge fire : Bool) (epoch : BitVec 4) (a b tok : Option Item) (w : Steer) (t' : Nat)
    (s : State) : Runs k t' D s (runSteer k index t merge fire epoch a b tok w s).2 := by
  unfold runSteer
  dsimp only
  generalize (if fire = true then fireSteer merge t w else (w, none)) = f
  split
  · exact (runs_fabricEvent _ _ _ _ _ _ _ _ _).trans (runs_steerCounts _ _ _ _ _ _ _ _)
  · exact runs_steerCounts _ _ _ _ _ _ _ _

/-! ## The parts of a router's cycle (R216, R221 to R245) -/

/-- A router takes up the entry of its cycle. -/
def startEntry (t : Nat) (c : Core) : Core :=
  { c with rt := { c.rt with
    run := pegResolve c.rt.run
    sends := cutSends t c.rt.sends
    recvs := cutRecvs t c.rt.recvs } }

/-- The state in which the router of core `k` runs the entry of its cycle. -/
def started (k t : Nat) (s : State) : State := modCore k (startEntry t) (examineParity k t 3 (settleEpoch k t s))

section
variable (k t : Nat) (s0 : State)

/-- The entry of the cycle. -/
def entryNow : BitVec 128 := pegEntryAt (coreOf s0 k) (coreOf s0 k).rt.run.page (coreOf s0 k).rt.run.entry

/-- The entry of the next cycle. -/
def entryNext : BitVec 128 :=
  pegEntryAt (coreOf s0 k) (pegResolve (pegNext (coreOf s0 k) (coreOf s0 k).rt.run)).page
    (pegResolve (pegNext (coreOf s0 k) (coreOf s0 k).rt.run)).entry

/-- The token offers of the cycle. -/
def offersNow : List TokenOffer := (coreOf s0 k).rt.offers.filter (fun x => x.cycle == t)

/-- The token that is offered: that of the offer issued last. -/
def tokenNow : Option Item :=
  ((offersNow k t s0).foldl (fun (m : Option TokenOffer) x =>
    match m with
    | some y => if x.issue < y.issue then some x else some y
    | none => some x) none).map (fun x => Item.token (offerWord s0 k (epochAt (coreOf s0 k) t) x))

/-- The rows, or the quarters, of the SENDs in the cycle. -/
def sendNow (transit : Bool) : Option Item × Nat := injection s0 k t transit (coreOf s0 k).rt.sends

/-- The takes from the crossings. -/
def portsNow : List Arrival × List (Arrival × Bool) × State :=
  takePorts k (coreOf s0 k).rt.run.entry t (epochAt (coreOf s0 k) t) (entryNow k s0) (entryNext k s0) allSides s0

/-- What the router sees. -/
def viewNow : PegView :=
  ⟨(coreOf s0 k).rt.arrivals.filter (fun a => a.cycle == t) ++ (portsNow k t s0).1, (coreOf s0 k).rt.latches,
    (sendNow k t s0 false).1, (sendNow k t s0 true).1, tokenNow k t s0⟩

/-- What a local destination takes. -/
def localNow (l : Layer) (code : Nat) : Option Item := takeLocal (coreOf s0 k) (viewNow k t s0) t l code

/-- The items of SENDs and PRODUCEs that are lost (R223, R224). -/
def lostSends (s : State) : State :=
  let i := (coreOf s0 k).rt.run.entry
  let s := (List.range (sendNow k t s0 false).2).foldl (fun s _ => lostItem k i t .row 5 s) s
  let s := (List.range (sendNow k t s0 true).2).foldl (fun s _ => lostItem k i t .transit 5 s) s
  (List.range ((offersNow k t s0).length - 1)).foldl (fun s _ => lostItem k i t .token 5 s) s

/-- What a side output takes goes out. -/
def driveSide (b : Bay) (l : Layer) (s : State) (o : Side) : State :=
  driveOut k t b (epochAt (coreOf s0 k) t) l o (pegOut (entryNow k s0) l o)
    (takeOut (coreOf s0 k) (viewNow k t s0) t l o (pegOut (entryNow k s0) l o)) s

/-- The side outputs of all layers. -/
def driveSides (b : Bay) (s : State) : State :=
  [Layer.row, Layer.transit, Layer.token].foldl (fun s l => allSides.foldl (driveSide k t s0 b l) s) s

/-- The captures of the RECEIVEs. -/
def capturesNow (s : State) : List RecvRun × State :=
  captureAll k t (localNow k t s0 .row (pegRowEj (entryNow k s0))) (localNow k t s0 .transit (pegTrEj (entryNow k s0)))
    (coreOf s0 k).rt.recvs s

/-- The switch in the cycle. -/
def switchNow (s : State) : Steer × State :=
  runSteer k (coreOf s0 k).rt.run.entry t false (pegFireSw (entryNow k s0)) (epochAt (coreOf s0 k) t)
    (localNow k t s0 .row (pegSwData (entryNow k s0))) none (localNow k t s0 .token (pegSwToken (entryNow k s0)))
    (coreOf s0 k).rt.sw s

/-- The merge in the cycle. -/
def mergeNow (s : State) : Steer × State :=
  runSteer k (coreOf s0 k).rt.run.entry t true (pegFireMg (entryNow k s0)) (epochAt (coreOf s0 k) t)
    (localNow k t s0 .row (pegMgA (entryNow k s0))) (localNow k t s0 .row (pegMgB (entryNow k s0)))
    (localNow k t s0 .token (pegMgToken (entryNow k s0))) (coreOf s0 k).rt.mg s

/-- The operands that the adders miss are counted. -/
def countMisses (s : State) : State :=
  let i := (coreOf s0 k).rt.run.entry
  let e := entryNow k s0
  let s := adderMiss k i t 0 (pegRaddFmt e) (localNow k t s0 .row (pegRaddA e)) (localNow k t s0 .row (pegRaddB e)) s
  adderMiss k i t 1 (pegTaddFmt e) (localNow k t s0 .transit (pegTaddA e)) (localNow k t s0 .transit (pegTaddB e)) s

/-- The items that nothing takes are counted. -/
def countLosses (s : State) : State :=
  (losses (coreOf s0 k) (viewNow k t s0) t (entryNow k s0)).foldl
    (fun s x => lostItem k (coreOf s0 k).rt.run.entry t x.1 x.2 s) s

/-- The items that local destinations take are examined. -/
def examineItems (s : State) : State :=
  [Layer.row, Layer.transit, Layer.token].foldl (fun s l =>
    if (pegLocals (entryNow k s0) l).any (fun n => (localNow k t s0 l n).isSome) then examineItem k t (layerCode l) s
    else s) s

/-- The queues of the steering units are examined where one fires. -/
def examineSteering (s : State) : State :=
  if pegFireSw (entryNow k s0) || pegFireMg (entryNow k s0) then examineParity k t 5 s else s

/-- A core takes the tokens of its queues. -/
def deliverTokens (c : Core) : Core :=
  (List.range 4).foldl (fun c q =>
    deliverToken q t (epochAt (coreOf s0 k) t) (localNow k t s0 .token (pegTkQ (entryNow k s0) q)) c) c

/-- A core at the end of its router's cycle. -/
def endEntry (recvs : List RecvRun) (sw mg : Steer) (c : Core) : Core :=
  let e := entryNow k s0
  let c := deliverTokens k t s0 c
  { c with rt := { c.rt with
    run := pegNext (coreOf s0 k) (coreOf s0 k).rt.run
    arrivals := c.rt.arrivals.filter (fun a => decide (t < a.cycle))
    latches := (viewNow k t s0).arr.map (fun a => (a, takesDirect e a.layer a.side)) ++ (portsNow k t s0).2.1
    sends := c.rt.sends.filter (fun r => decide (t < sendLast r))
    recvs := recvs
    offers := c.rt.offers.filter (fun x => decide (t < x.cycle))
    sw := sw
    mg := mg
    rsum := ⟨t + 1, if pegRaddFmt e = 0 then none
      else adderItem (pegRaddFmt e) (localNow k t s0 .row (pegRaddA e)) (localNow k t s0 .row (pegRaddB e))⟩
    tsum := ⟨t + 1, if pegTaddFmt e = 0 then none
      else adderItem (pegTaddFmt e) (localNow k t s0 .transit (pegTaddA e)) (localNow k t s0 .transit (pegTaddB e))⟩ } }

end

/-- The state in which the router has taken what it takes from the crossings. -/
def portsTaken (k t : Nat) (s : State) : State := (portsNow k t (started k t s)).2.2

/-- The state in which the side outputs have gone out. -/
def sidesDriven (k t : Nat) (b : Bay) (s : State) : State :=
  driveSides k t (started k t s) b (lostSends k t (started k t s) (portsTaken k t s))

/-- The state at the end of a router's cycle, before its core goes on, and what becomes of its RECEIVEs and steering units. -/
def entryRun (k t : Nat) (b : Bay) (s : State) : List RecvRun × Steer × Steer × State :=
  let s0 := started k t s
  let cap := capturesNow k t s0 (sidesDriven k t b s)
  let sw := switchNow k t s0 cap.2
  let mg := mergeNow k t s0 sw.2
  (cap.1, sw.1, mg.1, examineSteering k t s0 (examineItems k t s0 (countLosses k t s0 (countMisses k t s0 mg.2))))

/-- A router's cycle, by its parts. -/
theorem pegEntryRun_eq (k t : Nat) (b : Bay) (s : State) : pegEntryRun k t b s
    = modCore k (endEntry k t (started k t s) (entryRun k t b s).1 (entryRun k t b s).2.1 (entryRun k t b s).2.2.1)
        (entryRun k t b s).2.2.2 := rfl

/-! ### What they leave -/

/-- Of the router, the takes and drives of a cycle see the arrivals and latches that it has as the cycle begins. -/
theorem started_rt (k t : Nat) (s : State) : (coreOf (started k t s) k).rt = { (coreOf s k).rt with
    run := pegResolve (coreOf s k).rt.run
    sends := cutSends t (coreOf s k).rt.sends
    recvs := cutRecvs t (coreOf s k).rt.recvs } := by
  have hrt : (coreOf (examineParity k t 3 (settleEpoch k t s)) k).rt = (coreOf s k).rt :=
    ((marks_examineParity _ _ _ _).core k).rt.trans (settleEpoch_rt k t s)
  rw [started, coreOf_modCore_same, startEntry, hrt]

theorem runs_started (k t t' : Nat) (s : State) : Runs k t' D s (started k t s) :=
  ((runs_settleEpoch k t t' s).trans (runs_examineParity k t 3 t' _)).trans
    (runs_modCore (f := startEntry t) (fun _ => ⟨rfl, rfl, rfl, rfl, fun _ h => h⟩) (fun _ _ _ h => h) k k _)

theorem entryNow_started (k t : Nat) (s : State) : entryNow k (started k t s) = entryAtWalk (coreOf s k) (coreOf s k).rt.run := by
  have himage := ((runs_started (D := everySide) k t t s).core k).image
  rw [entryNow, started_rt, pegEntryAt, himage]
  rfl

theorem pegNext_started (k t : Nat) (s : State) :
    pegNext (coreOf (started k t s) k) (coreOf (started k t s) k).rt.run
      = pegNext (coreOf s k) (pegResolve (coreOf s k).rt.run) := by
  rw [pegNext_image ((runs_started (D := everySide) k t t s).core k).image, started_rt]

/-- Up to the takes of a cycle the cores keep what a router's cycle leaves of them. -/
theorem runs_portsTaken (k t : Nat) (s : State) : Runs k t (fun _ => False) s (portsTaken k t s) := by
  refine (runs_started k t t s).trans ?_
  rw [portsTaken, portsNow, takePorts_state]
  exact (runs_takeSides _ _ _ _ _ _ _ _ _).mono (fun _ h => h.elim)

/-- A port that the entry takes has lost its oldest accepted entry. -/
theorem portsTaken_takes {ys : List XEntry} {rs : List XTrip}
    (he : portDirect (entryAtWalk (coreOf s k) (coreOf s k).rt.run) d = true) (h : CanTake k t d ys rs s) :
    Holds k d ys (rs ++ [tripFrom s k]) (portsTaken k t s) := by
  have hr : Runs k t everySide s (started k t s) := runs_started k t t s
  rw [portsTaken, portsNow, takePorts_state, ← hr.trip]
  exact takeSides_takes (mem_allSides d) (by decide) (by rwa [entryNow_started]) (h.runs hr trivial)

theorem runs_lostSends (k t : Nat) (s0 : State) (t' : Nat) (s : State) : Runs k t' D s (lostSends k t s0 s) :=
  ((runs_foldl (fun s _ => runs_lostItem k _ t .row 5 t' s) _ s).trans
    (runs_foldl (fun s _ => runs_lostItem k _ t .transit 5 t' s) _ _)).trans
    (runs_foldl (fun s _ => runs_lostItem k _ t .token 5 t' s) _ _)

theorem runs_driveSide (k t : Nat) (s0 : State) (b : Bay) (l : Layer) (t' : Nat) (s : State) (o : Side) :
    Runs k t' D s (driveSide k t s0 b l s o) := runs_driveOut _ _ _ _ _ _ _ _ _ _

theorem runs_driveSides (k t : Nat) (s0 : State) (b : Bay) (t' : Nat) (s : State) : Runs k t' D s (driveSides k t s0 b s) :=
  runs_foldl (fun s l => runs_foldl (runs_driveSide k t s0 b l t') _ s) _ s

theorem runs_sidesDriven (k t : Nat) (b : Bay) (s : State) : Runs k t D (portsTaken k t s) (sidesDriven k t b s) :=
  (runs_lostSends _ _ _ _ _).trans (runs_driveSides _ _ _ _ _ _)

theorem runs_countMisses (k t : Nat) (s0 : State) (t' : Nat) (s : State) : Runs k t' D s (countMisses k t s0 s) :=
  (runs_adderMiss _ _ _ _ _ _ _ _ s).trans (runs_adderMiss _ _ _ _ _ _ _ _ _)

theorem runs_countLosses (k t : Nat) (s0 : State) (t' : Nat) (s : State) : Runs k t' D s (countLosses k t s0 s) :=
  runs_foldl (fun s (x : Layer × Nat) => runs_lostItem k _ t x.1 x.2 t' s) _ s

theorem runs_examineItems (k t : Nat) (s0 : State) (t' : Nat) (s : State) : Runs k t' D s (examineItems k t s0 s) :=
  runs_foldl (fun s _ => Runs.ite (runs_examineItem _ _ _ _ _) (Runs.refl s)) _ s

theorem runs_examineSteering (k t : Nat) (s0 : State) (t' : Nat) (s : State) : Runs k t' D s (examineSteering k t s0 s) :=
  Runs.ite (runs_examineParity _ _ _ _ _) (Runs.refl s)

theorem runs_entryRun (k t : Nat) (b : Bay) (s : State) : Runs k t D (sidesDriven k t b s) (entryRun k t b s).2.2.2 :=
  (((runs_captureAll _ _ _ _ _ _ _).trans (runs_runSteer _ _ _ _ _ _ _ _ _ _ _ _)).trans
    (runs_runSteer _ _ _ _ _ _ _ _ _ _ _ _)).trans ((((runs_countMisses _ _ _ _ _).trans (runs_countLosses _ _ _ _ _)).trans
    (runs_examineItems _ _ _ _ _)).trans (runs_examineSteering _ _ _ _ _))

/-! ### What goes out -/

/-- What holds before and behind one step of a fold. -/
theorem related_foldl_at {α : Type} {R : State → State → Prop} (hr : ∀ s, R s s) (ht : ∀ {s u v}, R s u → R u v → R s v)
    {f : State → α → State} (h : ∀ s a, R s (f s a)) {l : List α} {a : α} (ha : a ∈ l) (s : State) :
    ∃ s', R s s' ∧ R (f s' a) (l.foldl f s) := by
  induction l generalizing s with
  | nil => cases ha
  | cons a' l ih =>
    by_cases haa : a = a'
    · subst haa
      exact ⟨s, hr s, related_foldl hr ht h l _⟩
    · obtain ⟨s', h1, h2⟩ := ih ((List.mem_cons.mp ha).resolve_left haa) (f s a')
      exact ⟨s', ht (h s a') h1, h2⟩

/-- Every side of every layer is driven. -/
theorem driveSides_at (k t : Nat) (s0 : State) (b : Bay) (l : Layer) (o : Side) (s : State) :
    ∃ s', Runs k t everySide s s' ∧ Runs k t everySide (driveSide k t s0 b l s' o) (driveSides k t s0 b s) := by
  have hl : l ∈ [Layer.row, Layer.transit, Layer.token] := by cases l <;> decide
  obtain ⟨s', h1, h2⟩ := related_foldl_at (R := Runs k t everySide) Runs.refl Runs.trans
    (fun s l => runs_foldl (runs_driveSide k t s0 b l t) allSides s) hl s
  obtain ⟨s'', h1', h2'⟩ := related_foldl_at (R := Runs k t everySide) Runs.refl Runs.trans (runs_driveSide k t s0 b l t)
    (mem_allSides o) s'
  exact ⟨s'', h1.trans h1', h2'.trans h2⟩

/-- What a side output takes from a side depends on the arrivals and the latches alone. -/
theorem takeOut_side {c c' : Core} {v v' : PegView} {l : Layer} {o : Side} {code : Nat} (h1 : 1 ≤ code) (h4 : code ≤ 4)
    (ha : v'.arr = v.arr) (hl : v'.lat = v.lat) : takeOut c' v' t l o code = takeOut c v t l o code := by
  simp only [takeOut, viewArr, viewLat, ha, hl, h1, h4, and_self, if_true]

/-- At a router with no crossing, what a side output takes from a side is on its way to the facing core of the bay. -/
theorem sidesDriven_arrives {v : PegView} {l : Layer} {o : Side} {f : Nat} {it : Item}
    (hnone : ∀ d, xingIn s k d = none ∧ xingOut s k d = none)
    (ha : v.arr = (coreOf s k).rt.arrivals.filter (fun a => a.cycle == t)) (hl : v.lat = (coreOf s k).rt.latches)
    (h1 : 1 ≤ pegOut (entryAtWalk (coreOf s k) (coreOf s k).rt.run) l o)
    (h4 : pegOut (entryAtWalk (coreOf s k) (coreOf s k).rt.run) l o ≤ 4)
    (hit : takeOut (coreOf s k) v t l o (pegOut (entryAtWalk (coreOf s k) (coreOf s k).rt.run) l o) = some it)
    (hf : facing k o = some f) (hb : inBay b f = true) (hrow : l = .row → siteOfCore f = siteOfCore k) :
    ⟨t + 1 + extraLatency k f, l, opposite o, it⟩ ∈ (coreOf (sidesDriven k t b s) f).rt.arrivals := by
  let s0 := started k t s
  have hr : Runs k t everySide s s0 := runs_started k t t s
  have hports : portsNow k t s0 = ([], [], s0) := takePorts_none (fun d => hr.xings.xingIn_none (hnone d).1)
  have htake : takeOut (coreOf s0 k) (viewNow k t s0) t l o (pegOut (entryNow k s0) l o) = some it := by
    have hrt := started_rt k t s
    rw [entryNow_started, ← hit]
    refine takeOut_side h1 h4 ?_ ?_
    · rw [viewNow, hports, ha, hrt, List.append_nil]
    · rw [viewNow, hl, hrt]
  have hlost : Runs k t everySide s (lostSends k t s0 (portsTaken k t s)) := by
    have hp : portsTaken k t s = s0 := congrArg (fun q => q.2.2) hports
    rw [hp]
    exact hr.trans (runs_lostSends k t s0 t s0)
  obtain ⟨s', hbefore, hbehind⟩ := driveSides_at k t s0 b l o (lostSends k t s0 (portsTaken k t s))
  have hout : xingOut s' k o = none := (hlost.trans hbefore).xings.xingOut_none (hnone o).2
  have hdrive : driveSide k t s0 b l s' o
      = modCore f (arrive ⟨t + 1 + extraLatency k f, l, opposite o, it⟩) s' := by
    rw [driveSide, htake]
    exact driveOut_arrives (by rwa [entryNow_started]) hout hf hb hrow
  refine (hbehind.core f).arrivals _ ?_
  rw [hdrive, coreOf_modCore_same]
  exact List.mem_append_right _ (List.mem_singleton_self _)

/-! ### The end of the cycle -/

theorem deliverToken_keeps (q t : Nat) (epoch : BitVec 4) (it : Option Item) (c : Core) :
    ∃ queues st, deliverToken q t epoch it c = { c with seq := { c.seq with queues := queues }, st := st } := by
  unfold deliverToken
  split
  · split
    · exact ⟨c.seq.queues, _, rfl⟩
    · split
      · exact ⟨_, c.st, rfl⟩
      · exact ⟨c.seq.queues, _, rfl⟩
  · exact ⟨c.seq.queues, c.st, rfl⟩

theorem deliverTokens_keeps (k t : Nat) (s0 : State) (c : Core) :
    ∃ queues st, deliverTokens k t s0 c = { c with seq := { c.seq with queues := queues }, st := st } := by
  unfold deliverTokens
  generalize List.range 4 = l
  induction l generalizing c with
  | nil => exact ⟨c.seq.queues, c.st, rfl⟩
  | cons q l ih =>
    obtain ⟨queues, st, h⟩ := deliverToken_keeps q t (epochAt (coreOf s0 k) t)
      (localNow k t s0 .token (pegTkQ (entryNow k s0) q)) c
    obtain ⟨queues', st', h'⟩ := ih (deliverToken q t (epochAt (coreOf s0 k) t)
      (localNow k t s0 .token (pegTkQ (entryNow k s0) q)) c)
    exact ⟨queues', st', by rw [List.foldl_cons, h', h]⟩

/-- The end of the cycle leaves the place in the operation store, the tags, the banks, and what arrives later. -/
theorem endEntry_keeps (k t : Nat) (s0 : State) (recvs : List RecvRun) (sw mg : Steer) (c : Core) :
    (endEntry k t s0 recvs sw mg c).seq.issue = c.seq.issue ∧ (endEntry k t s0 recvs sw mg c).tags = c.tags
      ∧ (endEntry k t s0 recvs sw mg c).eng = c.eng
      ∧ ∀ a ∈ c.rt.arrivals, t < a.cycle → a ∈ (endEntry k t s0 recvs sw mg c).rt.arrivals := by
  obtain ⟨queues, st, h⟩ := deliverTokens_keeps k t s0 c
  unfold endEntry
  dsimp only
  rw [h]
  exact ⟨rfl, rfl, rfl, fun a ha hlate => List.mem_filter.mpr ⟨ha, decide_eq_true hlate⟩⟩

/-- The claims that are released leave a core but for its claims. -/
theorem releaseClaims_core (k t : Nat) (s : State) (j : Nat) :
    ∃ cl, coreOf (releaseClaims k t s) j = { coreOf s j with rt := { (coreOf s j).rt with claims := cl } } := by
  refine related_foldl (R := fun s u => ∃ cl, coreOf u j = { coreOf s j with rt := { (coreOf s j).rt with claims := cl } })
    (fun s => ⟨(coreOf s j).rt.claims, rfl⟩) (fun h h' => ?_) (fun s x => ?_) _ s
  · obtain ⟨_, h⟩ := h
    obtain ⟨cl, h'⟩ := h'
    exact ⟨cl, by rw [h', h]⟩
  · rw [useClaim_eq]
    split
    · rw [coreOf_of_cores (unclaimPort_cores _ _ _ _)]
      exact onCores_modCore (R := fun c e => ∃ cl, e = { c with rt := { c.rt with claims := cl } })
        (fun c => ⟨c.rt.claims, rfl⟩) (fun _ => ⟨_, rfl⟩) k s j
    · exact ⟨(coreOf s j).rt.claims, rfl⟩

theorem crossed_releaseClaims (k t : Nat) (s : State) : Crossed stored everySide s (releaseClaims k t s) :=
  crossed_foldl (fun s (x : PegClaim) => crossed_useClaim k x.cycle x.side x.kind s) _ s

/-- A router runs the entry of its cycle once the issue stage is done with it. -/
theorem execPegEntry_due {k : CoreId} {i : Nat} {s1 : State} (he : enterCycle (coreNo k) t s = some (i, b, s1))
    (hcycle : (coreOf s1 (coreNo k)).rt.run.cycle = t) (hissue : issueDone b (coreOf s1 (coreNo k)) t = true) :
    exec (.pegEntry k t) s = .next (releaseClaims (coreNo k) t (pegEntryRun (coreNo k) t b s1)) := by
  show execPegEntry k t s = _
  unfold execPegEntry
  rw [he]
  dsimp only
  rw [if_pos ⟨hcycle, hissue⟩]

/-- The core of a router at the end of its cycle. -/
theorem pegEntryRun_core (k t : Nat) (b : Bay) (s : State) :
    ∃ recvs sw mg c, coreOf (pegEntryRun k t b s) k = endEntry k t (started k t s) recvs sw mg c
      ∧ RouterKeeps (coreOf s k) c :=
  ⟨_, _, _, _, by rw [pegEntryRun_eq, coreOf_modCore_same],
    (((runs_portsTaken k t s).trans (runs_sidesDriven k t b s)).trans (runs_entryRun k t b s)).core k⟩

/-- What is on its way to a core behind the drives of a cycle, it finds later. -/
theorem pegEntryRun_arrivals {j : Nat} {a : Arrival} (ha : a ∈ (coreOf (sidesDriven k t b s) j).rt.arrivals)
    (hlate : t < a.cycle) : a ∈ (coreOf (pegEntryRun k t b s) j).rt.arrivals := by
  have hrun := ((runs_entryRun (D := everySide) k t b s).core j).arrivals a ha
  rw [pegEntryRun_eq]
  by_cases hj : j = k
  · subst hj
    rw [coreOf_modCore_same]
    obtain ⟨-, -, -, harr⟩ := endEntry_keeps j t (started j t s) (entryRun j t b s).1 (entryRun j t b s).2.1
      (entryRun j t b s).2.2.1 (coreOf (entryRun j t b s).2.2.2 j)
    exact harr a hrun hlate
  · rwa [coreOf_modCore_ne _ _ hj]

/-- A port that the entry takes has lost its oldest accepted entry at the end of the cycle. -/
theorem pegEntryRun_takes {ys : List XEntry} {rs : List XTrip}
    (he : portDirect (entryAtWalk (coreOf s k) (coreOf s k).rt.run) d = true) (h : CanTake k t d ys rs s) :
    Holds k d ys (rs ++ [tripFrom s k]) (pegEntryRun k t b s) := by
  have hdriven := (portsTaken_takes he h).runs (runs_sidesDriven k t b s) (D := everySide) trivial
  have hrun := hdriven.runs (runs_entryRun k t b s) (D := everySide) trivial
  rw [pegEntryRun_eq]
  exact hrun

/-- Settles O29: the parts of a router's cycle are related by what they leave; the takes and the drives are looked at where they
happen, the position and the adders at the end. -/
theorem routersRunTheirEntries : Obligations.RoutersRunTheirEntries := by
  intro k t i b s s1 n c e henter hcycle hissue
  obtain ⟨recvs, sw, mg, c', hcore, hkeeps⟩ := pegEntryRun_core n t b s1
  obtain ⟨hiss, htags, heng, -⟩ := endEntry_keeps n t (started n t s1) recvs sw mg c'
  obtain ⟨cl, hrel⟩ := releaseClaims_core n t (pegEntryRun n t b s1) n
  rw [hcore] at hrel
  have hentry : entryNow n (started n t s1) = e := entryNow_started n t s1
  refine ⟨_, execPegEntry_due henter hcycle hissue, ?run, by rw [hrel]; rfl, by rw [hrel]; rfl, fun hfmt => ?rsum,
    fun hfmt => ?tsum, fun d x y ys hx hd ho ha hc => ?takes, fun hnone => ?drives,
    by rw [hrel]; exact hiss.trans hkeeps.issue, by rw [hrel]; exact htags.trans hkeeps.tags, ?banks⟩
  case run =>
    rw [hrel]
    exact pegNext_started n t s1
  case rsum =>
    rw [hrel]
    refine if_pos ?_
    rwa [hentry]
  case tsum =>
    rw [hrel]
    refine if_pos ?_
    rwa [hentry]
  case banks =>
    rw [hrel]
    exact (congrArg EngineState.banks heng).trans hkeeps.banks
  case takes =>
    have hholds := pegEntryRun_takes (b := b) hd ⟨x, y, hx, ho, ha, rfl, hc⟩
    obtain ⟨x', hx', hs⟩ := hholds.crossed (crossed_releaseClaims n t _) trivial
    exact ⟨x', hx', congrArg Prod.fst hs, congrArg Prod.snd hs⟩
  case drives =>
    intro v l o f it h1 h4 hit hf hb hrow
    have harr := pegEntryRun_arrivals (sidesDriven_arrives (v := v) (b := b) hnone rfl rfl h1 h4 hit hf hb hrow)
      (by dsimp only; omega)
    obtain ⟨cl', hrel'⟩ := releaseClaims_core n t (pegEntryRun n t b s1) f
    rw [hrel']
    exact harr

end Sys2Proof.FabricFamily

/-! Proofs of the family of bays and clocks: the order of the checks of the bay commands (O31), what these commands do (O32), what
happens at a bay by itself (O33), and what slows, faults and stops it (O34). -/

namespace Sys2Proof.BayFamily

open Machine Laws

variable {op : Nat} {row : Cmd → Instr} {f : BayForm} {modes : List BayMode} {own : Bay → List Byte → State → List (Bool × Nat)}
  {extra : Nat → Bay → State → List (Bool × Nat)} {eff : Nat → Bay → State → State} {checks : List (Bool × Nat)} {c : Cmd}
  {pay : List Byte} {b : Bay} {s : State}

/-! ## The form of a bay command (R252, R460, R462) -/

theorem firstFail_cons_false (st : Nat) (l : List (Bool × Nat)) : firstFail ((false, st) :: l) = firstFail l := rfl

theorem firstFail_one {bad : Bool} {st : Nat} (h : firstFail [(bad, st)] ≠ stOk) : firstFail [(bad, st)] = st := by
  cases bad with
  | false => exact absurd rfl h
  | true => rfl

theorem checked_fails {eff : State → State} (h : firstFail checks ≠ stOk) :
    checked c checks eff s = complete c (firstFail checks) 0 s := if_pos h

/-- A payload of another length fails with BAD_LENGTH. -/
theorem formChecks_length (f : BayForm) (h : pay.length ≠ 24) : firstFail (bayFormChecks f pay) = stBadLength := by
  rw [bayFormChecks, decide_eq_true h]
  rfl

/-- A payload of the right length that fails has a wrong field. -/
theorem formChecks_field (hl : pay.length = 24) (h : firstFail (bayFormChecks f pay) ≠ stOk) :
    firstFail (bayFormChecks f pay) = stBadField := by
  rw [bayFormChecks, decide_eq_false (not_not.mpr hl), firstFail_cons_false] at h ⊢
  exact firstFail_one h

theorem bayRun_malformed (h : firstFail (bayFormChecks f pay) ≠ stOk) :
    bayRun f modes extra eff c pay s = complete c (firstFail (bayFormChecks f pay)) 0 s := checked_fails h

/-- A payload in order leads on to the bay that it names. -/
theorem bayRun_formed (hform : firstFail (bayFormChecks f pay) = stOk) :
    bayRun f modes extra eff c pay s =
      match bayOf s (payBay pay) with
      | none => complete c stBadField 0 s
      | some b =>
        if b.part ≠ cmdPart c then complete c stDenied 0 s
        else checked c ((!modes.contains b.mode, stBusy) :: extra (payBay pay) b s)
          (needProcs (baySupervisors b) c pay (eff (payBay pay) b)) s := by
  rw [bayRun, FloorPlanFamily.checked_pass hform]
  rfl

theorem bayRun_unloaded (hform : firstFail (bayFormChecks f pay) = stOk) (hb : bayOf s (payBay pay) = none) :
    bayRun f modes extra eff c pay s = complete c stBadField 0 s := by
  rw [bayRun_formed hform, hb]

theorem bayRun_denied (hform : firstFail (bayFormChecks f pay) = stOk) (hb : bayOf s (payBay pay) = some b)
    (hpart : b.part ≠ cmdPart c) : bayRun f modes extra eff c pay s = complete c stDenied 0 s := by
  rw [bayRun_formed hform, hb]
  exact if_pos hpart

/-- A bay of the command's partition leads on to its state and the command's own checks. -/
theorem bayRun_owned (hform : firstFail (bayFormChecks f pay) = stOk) (hb : bayOf s (payBay pay) = some b)
    (hpart : b.part = cmdPart c) :
    bayRun f modes extra eff c pay s = checked c ((!modes.contains b.mode, stBusy) :: extra (payBay pay) b s)
      (needProcs (baySupervisors b) c pay (eff (payBay pay) b)) s := by
  rw [bayRun_formed hform, hb]
  exact if_neg (not_not.mpr hpart)

theorem bayRun_busy (hform : firstFail (bayFormChecks f pay) = stOk) (hb : bayOf s (payBay pay) = some b)
    (hpart : b.part = cmdPart c) (hmode : b.mode ∉ modes) :
    bayRun f modes extra eff c pay s = complete c stBusy 0 s := by
  have hm : modes.contains b.mode = false := by simpa using hmode
  rw [bayRun_owned hform hb hpart, hm]
  exact checked_fails (by decide : stBusy ≠ stOk)

/-- In a state that allows the command its own checks decide. -/
theorem bayRun_allowed (hform : firstFail (bayFormChecks f pay) = stOk) (hb : bayOf s (payBay pay) = some b)
    (hpart : b.part = cmdPart c) (hmode : b.mode ∈ modes) :
    bayRun f modes extra eff c pay s =
      checked c (extra (payBay pay) b s) (needProcs (baySupervisors b) c pay (eff (payBay pay) b)) s := by
  have hm : modes.contains b.mode = true := List.contains_iff_mem.mpr hmode
  rw [bayRun_owned hform hb hpart, hm]
  rfl

/-- Past its checks a command needs the supervisors of the bay's dies. -/
theorem bayRun_passes (hform : firstFail (bayFormChecks f pay) = stOk) (hb : bayOf s (payBay pay) = some b)
    (hpart : b.part = cmdPart c) (hmode : b.mode ∈ modes) (hown : firstFail (extra (payBay pay) b s) = stOk) :
    bayRun f modes extra eff c pay s = needProcs (baySupervisors b) c pay (eff (payBay pay) b) s := by
  rw [bayRun_allowed hform hb hpart hmode, FloorPlanFamily.checked_pass hown]

theorem needProcs_held {l : List Nat} {eff : State → State} (h : ∃ n, n ∈ l ∧ procHeld s n = true) :
    needProcs l c pay eff s = complete c stFault 0 s := if_pos (List.any_eq_true.mpr h)

/-- While none is held and one restarts, the operation waits for the first of those. -/
theorem needProcs_waits {l : List Nat} {eff : State → State} {n : Nat} (hheld : ∀ n, n ∈ l → procHeld s n = false)
    (hstart : l.find? (procStarts s) = some n) :
    needProcs l c pay eff s = { s with fw := { s.fw with waiting := s.fw.waiting ++ [⟨n, s.now, c, pay⟩] } } := by
  have hany : l.any (procHeld s) = false := by
    rw [List.any_eq_false]
    intro m hm
    rw [hheld m hm]
    exact Bool.false_ne_true
  have hn : procHeld s n = false := hheld n (List.mem_of_find?_eq_some hstart)
  have hs : procStarts s n = true := List.find?_some hstart
  rw [needProcs, hany, hstart]
  simp only [Bool.false_eq_true, if_false]
  rw [needProc, hn, hs]
  rfl

/-- Every row of the table is a bay command of that form, with an effect of its own. -/
theorem exec_bayRow (hrow : (op, row, f, modes, own) ∈ bayRows) (ha : Accepted op c pay s) :
    ∃ eff, exec (row c) s = .next (bayRun f modes (fun _ b t => own b pay t) eff c pay (takeCmd c s)) := by
  simp only [bayRows, List.mem_cons, Prod.mk.injEq, List.not_mem_nil, or_false] at hrow
  obtain ⟨rfl, rfl, rfl, rfl, rfl⟩ | ⟨rfl, rfl, rfl, rfl, rfl⟩ | ⟨rfl, rfl, rfl, rfl, rfl⟩ | ⟨rfl, rfl, rfl, rfl, rfl⟩
    | ⟨rfl, rfl, rfl, rfl, rfl⟩ | ⟨rfl, rfl, rfl, rfl, rfl⟩ | ⟨rfl, rfl, rfl, rfl, rfl⟩ | ⟨rfl, rfl, rfl, rfl, rfl⟩
    | ⟨rfl, rfl, rfl, rfl, rfl⟩ := hrow
  · exact ⟨_, runRow_accepted ha doBayStart⟩
  · exact ⟨_, runRow_accepted ha doBayHold⟩
  · exact ⟨_, runRow_accepted ha doBayRelease⟩
  · exact ⟨fun i b t => beginStop i b (some c) (bitAt (payFlags pay) 0) none t, runRow_accepted ha doBayStop⟩
  · exact ⟨_, runRow_accepted ha doBaySetPoint⟩
  · exact ⟨_, runRow_accepted ha doBayStatus⟩
  · exact ⟨_, runRow_accepted ha doTimeExchange⟩
  · exact ⟨_, runRow_accepted ha doBayRemove⟩
  · exact ⟨_, runRow_accepted ha doHazardGet⟩

theorem bayOf_takeCmd (c : Cmd) (s : State) (i : Nat) : bayOf (takeCmd c s) i = bayOf s i := bayOf_of_bays (takeCmd_bays c s) i

/-- Settles O31: every command of the table runs in the one form of the bay commands, whose checks are taken in order. -/
theorem bayCommandChecks : Obligations.BayCommandChecks := by
  intro op row f modes own c pay s hrow ha u
  obtain ⟨eff, hexec⟩ := exec_bayRow hrow ha
  rw [hexec]
  have hbay (i : Nat) : bayOf u i = bayOf s i := bayOf_takeCmd c s i
  refine ⟨fun hl => ?length, fun hl h => ?field, fun hform => ⟨fun hnone => ?unloaded, fun b hb => ?_⟩⟩
  case length =>
    have hst := formChecks_length f hl
    rw [bayRun_malformed (by rw [hst]; decide), hst]
  case field => rw [bayRun_malformed h, formChecks_field hl h]
  case unloaded => rw [bayRun_unloaded hform ((hbay _).trans hnone)]
  rw [← hbay] at hb
  refine ⟨fun hpart => ?denied, fun hpart hmode => ?busy, fun hpart hmode hown => ?own, fun hpart hmode hown hheld => ?held,
    fun hpart hmode hown hheld n hn => ?waits⟩
  case denied => rw [bayRun_denied hform hb hpart]
  case busy => rw [bayRun_busy hform hb hpart hmode]
  case own => rw [bayRun_allowed hform hb hpart hmode, checked_fails hown]
  case held => rw [bayRun_passes hform hb hpart hmode hown, needProcs_held hheld]
  case waits => rw [bayRun_passes hform hb hpart hmode hown, needProcs_waits hheld hn]

end Sys2Proof.BayFamily

namespace Sys2Proof.BayFamily

open Machine Laws

variable {i j k n : Nat} {b : Bay} {c : Cmd} {s t : State}

/-! ## Frames -/

/-- What changes within some parts changes within more. -/
theorem only_mono {A B : List StatePart} (h : OnlyChanges A s t) (hc : coveredBy A B = true) : OnlyChanges B s t :=
  fun p hp => h p fun hin => hp ((Covers.self B).mono hc p hin)

theorem only_trans {A : List StatePart} {u : State} (h : OnlyChanges A s t) (h' : OnlyChanges A t u) : OnlyChanges A s u :=
  fun p hp => same_trans (h p hp) (h' p hp)

/-! ## What completions and events leave -/

theorem within_completed (c : Cmd) (st d : Nat) (s : State) :
    Within [.host, .inProgress, .mgmt, .hostMem] s (complete c st d s) := within_complete (Covers.self _) (Within.refl _ s)

theorem within_completedOpt (c : Option Cmd) (st d : Nat) (s : State) :
    Within [.host, .inProgress, .mgmt, .hostMem] s (completeOpt c st d s) := within_completeOpt (Covers.self _) (Within.refl _ s)

theorem within_raised (e : EventRec) (s : State) : Within [.host, .ev, .fw, .hostMem] s (raise1 e s) :=
  within_raise1 (Covers.self _) (Within.refl _ s)

@[simp] theorem complete_bays (c : Cmd) (st d : Nat) (s : State) : (complete c st d s).bays = s.bays :=
  (within_completed c st d s).frame .bays (by decide)
@[simp] theorem complete_fw (c : Cmd) (st d : Nat) (s : State) : (complete c st d s).fw = s.fw :=
  (within_completed c st d s).frame .fw (by decide)
@[simp] theorem completeOpt_bays (c : Option Cmd) (st d : Nat) (s : State) : (completeOpt c st d s).bays = s.bays :=
  (within_completedOpt c st d s).frame .bays (by decide)
@[simp] theorem completeOpt_cores (c : Option Cmd) (st d : Nat) (s : State) : (completeOpt c st d s).cores = s.cores :=
  (within_completedOpt c st d s).frame .cores (by decide)
@[simp] theorem raise1_bays (e : EventRec) (s : State) : (raise1 e s).bays = s.bays :=
  (within_raised e s).frame .bays (by decide)
@[simp] theorem raise1_cores (e : EventRec) (s : State) : (raise1 e s).cores = s.cores :=
  (within_raised e s).frame .cores (by decide)
@[simp] theorem raise1_now (e : EventRec) (s : State) : (raise1 e s).now = s.now :=
  (within_raised e s).frame .now (by decide)
@[simp] theorem raise1_inProgress (e : EventRec) (s : State) : (raise1 e s).inProgress = s.inProgress :=
  (within_raised e s).frame .inProgress (by decide)

/-! ### The removal that the panel prepares for (R451) -/

theorem signalVector_removing (v : Nat) (s : State) : (signalVector v s).host.removing = s.host.removing := by
  unfold signalVector
  split <;> rfl

theorem sendResponse_host (cpl out : List Byte) (s : State) : (sendResponse cpl out s).host = s.host :=
  (within_sendResponse (S := [.mgmt]) (Covers.self _) (Within.refl _ s)).frame .host (by decide)

theorem deliverCompletion_removing (c : Cmd) (x : Completion) (out : List Byte) (s : State) :
    (deliverCompletion c x out s).host.removing = s.host.removing := by
  unfold deliverCompletion
  split
  · rw [signalVector_removing]
  · split
    · rfl
    · split
      · rw [cqPost, signalVector_removing]
        rfl
      · rfl
  · rw [sendResponse_host]

@[simp] theorem complete_removing (c : Cmd) (st d : Nat) (s : State) :
    (complete c st d s).host.removing = s.host.removing := by
  unfold complete
  split
  · rfl
  · dsimp only
    split
    · rfl
    · rw [deliverCompletion_removing]

@[simp] theorem completeOpt_removing (c : Option Cmd) (st d : Nat) (s : State) :
    (completeOpt c st d s).host.removing = s.host.removing := by
  cases c with
  | none => rfl
  | some c => exact complete_removing c st d s

theorem evPost_removing (e : EventRec) (s : State) : (evPost e s).host.removing = s.host.removing := by
  rw [evPost, signalVector_removing]
  rfl

theorem raiseEvent_removing (es : List EventRec) (s : State) : (raiseEvent es s).host.removing = s.host.removing := by
  have hpost (es : List EventRec) (s : State) : (es.foldl (fun s e => evPost e s) s).host.removing = s.host.removing :=
    ScratchpadFamily.related_foldl (R := fun s t => t.host.removing = s.host.removing) (fun _ => rfl)
      (fun h h' => h'.trans h) (fun s e => evPost_removing e s) es s
  unfold raiseEvent
  dsimp only
  split <;> split
  · rw [hpost]
  · rfl
  · rw [hpost]
  · rfl

@[simp] theorem raise1_removing (e : EventRec) (s : State) : (raise1 e s).host.removing = s.host.removing := by
  simp only [raise1, raise, List.map_cons, List.map_nil, withMore]
  split
  · split
    · rfl
    · split
      · rfl
      · exact raiseEvent_removing _ _
  · split
    · rfl
    · exact raiseEvent_removing _ _

/-- Whether a partition's bays are stopped depends on the removal and on the reset that is under way. -/
theorem stopsBays_congr (h : t.host.removing = s.host.removing) (hfw : t.fw = s.fw) (part : Nat) :
    stopsBays t part = stopsBays s part := by
  simp only [stopsBays, partInReset, h, hfw]

/-! ## Bays -/

theorem bayOf_modBay_ne (f : Bay → Bay) (h : j ≠ i) : bayOf (modBay i f s) j = bayOf s j := by
  unfold modBay
  split
  · rfl
  · exact bayOf_setBay_ne _ _ h

/-- A bay's periods depend on the time alone. -/
theorem idleNow_congr (h : t.now = s.now) (b : Bay) : idleNow t b = idleNow s b := by
  unfold idleNow periodsSince
  rw [h]

theorem endFreeze_congr (h : t.now = s.now) (b : Bay) : endFreeze t b = endFreeze s b := by
  simp only [endFreeze, endIdle, frozenNow, idleNow_congr h, h]

theorem beginFreeze_congr (h : t.now = s.now) (b : Bay) : beginFreeze t b = beginFreeze s b := by
  simp only [beginFreeze, beginIdle, h]

/-! ## Changes of the cores of a bay

A bay may list a core twice (a core set wider than the panel), so what a change does to a core is said by a relation that the
change brings about and that making it again keeps. -/

theorem coreOf_foldl_keeps {g : Nat → Core → Core} {P : Core → Prop} (h : ∀ c, P c → P (g k c)) (l : List Nat) (s : State)
    (hs : P (coreOf s k)) : P (coreOf (l.foldl (fun s k => modCore k (g k) s) s) k) := by
  induction l generalizing s with
  | nil => exact hs
  | cons a l ih =>
    refine ih _ ?_
    by_cases ha : k = a
    · subst ha
      rw [coreOf_modCore_same]
      exact h _ hs
    · rwa [coreOf_modCore_ne _ _ ha]

theorem coreOf_foldl_mem {g : Nat → Core → Core} {R : Core → Core → Prop} (h : ∀ c, R c (g k c))
    (hk : ∀ c d, R c d → R c (g k d)) {l : List Nat} (hm : k ∈ l) (s : State) :
    R (coreOf s k) (coreOf (l.foldl (fun s k => modCore k (g k) s) s) k) := by
  induction l generalizing s with
  | nil => cases hm
  | cons a l ih =>
    by_cases ha : k = a
    · subst ha
      refine coreOf_foldl_keeps (hk _) l _ ?_
      rw [coreOf_modCore_same]
      exact h _
    · have hc := ih ((List.mem_cons.mp hm).resolve_left ha) (modCore a (g a) s)
      rwa [coreOf_modCore_ne _ _ ha] at hc

theorem coreOf_foldl_not_mem (g : Nat → Core → Core) {l : List Nat} (hm : k ∉ l) (s : State) :
    coreOf (l.foldl (fun s k => modCore k (g k) s) s) k = coreOf s k := by
  induction l generalizing s with
  | nil => rfl
  | cons a l ih =>
    rw [List.mem_cons, not_or] at hm
    exact (ih hm.2 _).trans (coreOf_modCore_ne _ _ hm.1)

theorem coreOf_modCores_mem {f : Core → Core} {R : Core → Core → Prop} (h : ∀ c, R c (f c)) (hk : ∀ c d, R c d → R c (f d))
    (hm : k ∈ bayCores b) (s : State) : R (coreOf s k) (coreOf (modCores b f s) k) :=
  coreOf_foldl_mem (g := fun _ => f) h hk hm s

theorem coreOf_modCores_not_mem (f : Core → Core) (hm : k ∉ bayCores b) (s : State) :
    coreOf (modCores b f s) k = coreOf s k := coreOf_foldl_not_mem (fun _ => f) hm s

/-- What a change leaves of every core is left of each core of the panel. -/
theorem coreOf_modCores {f : Core → Core} {R : Core → Core → Prop} (hr : ∀ c, R c c) (ht : ∀ {c d e}, R c d → R d e → R c e)
    (h : ∀ c, R c (f c)) (b : Bay) (s : State) (j : Nat) : R (coreOf s j) (coreOf (modCores b f s) j) :=
  ScratchpadFamily.related_foldl (R := fun s t => R (coreOf s j) (coreOf t j)) (fun _ => hr _) ht
    (fun s a => ScratchpadFamily.onCores_modCore hr h a s j) (bayCores b) s

theorem within_changedCores (b : Bay) (f : Core → Core) (s : State) : Within [.cores] s (modCores b f s) :=
  within_modCores (Covers.self _) (Within.refl _ s)

@[simp] theorem modCores_bays (b : Bay) (f : Core → Core) (s : State) : (modCores b f s).bays = s.bays :=
  (within_changedCores b f s).frame .bays (by decide)
@[simp] theorem modCores_xings (b : Bay) (f : Core → Core) (s : State) : (modCores b f s).xings = s.xings :=
  (within_changedCores b f s).frame .xings (by decide)
@[simp] theorem modCores_now (b : Bay) (f : Core → Core) (s : State) : (modCores b f s).now = s.now :=
  (within_changedCores b f s).frame .now (by decide)
@[simp] theorem modCores_host (b : Bay) (f : Core → Core) (s : State) : (modCores b f s).host = s.host :=
  (within_changedCores b f s).frame .host (by decide)
@[simp] theorem modCores_inProgress (b : Bay) (f : Core → Core) (s : State) : (modCores b f s).inProgress = s.inProgress :=
  (within_changedCores b f s).frame .inProgress (by decide)
@[simp] theorem modCores_hostFail (b : Bay) (f : Core → Core) (s : State) : (modCores b f s).hostFail = s.hostFail :=
  (within_changedCores b f s).frame .hostFail (by decide)

/-! ## A pending point change is dropped (R606) -/

theorem dropChange_some {st : Nat} {p : PointChange} (hb : bayOf s i = some b) (hp : b.change = some p) :
    dropChange i st s = complete p.cmd st 0 (setBay i { b with change := none } s) := by
  rw [dropChange, hb]
  dsimp only
  rw [hp]

theorem dropChange_none {st : Nat} (hb : bayOf s i = some b) (hp : b.change = none) : dropChange i st s = s := by
  rw [dropChange, hb]
  dsimp only
  rw [hp]

theorem bayOf_dropChange (st : Nat) (hb : bayOf s i = some b) : bayOf (dropChange i st s) i = some { b with change := none } := by
  cases hp : b.change with
  | none =>
    rw [dropChange_none hb hp, hb, ← hp]
  | some p =>
    rw [dropChange_some hb hp, bayOf_of_bays (complete_bays _ _ _ _), bayOf_setBay_same]

theorem bayOf_dropChange_ne (st : Nat) (h : j ≠ i) : bayOf (dropChange i st s) j = bayOf s j := by
  unfold dropChange
  split
  · rfl
  · split
    · rfl
    · rw [bayOf_of_bays (complete_bays _ _ _ _), bayOf_setBay_ne _ _ h]

theorem dropChange_removing (i st : Nat) (s : State) : (dropChange i st s).host.removing = s.host.removing := by
  unfold dropChange
  split
  · rfl
  · split
    · rfl
    · rw [complete_removing]
      rfl

theorem within_droppedChange (i st : Nat) (s : State) :
    Within [.host, .inProgress, .mgmt, .bays, .hostMem] s (dropChange i st s) :=
  within_dropChange (Covers.self _) (Within.refl _ s)

@[simp] theorem dropChange_cores (i st : Nat) (s : State) : (dropChange i st s).cores = s.cores :=
  (within_droppedChange i st s).frame .cores (by decide)
@[simp] theorem dropChange_xings (i st : Nat) (s : State) : (dropChange i st s).xings = s.xings :=
  (within_droppedChange i st s).frame .xings (by decide)
@[simp] theorem dropChange_now (i st : Nat) (s : State) : (dropChange i st s).now = s.now :=
  (within_droppedChange i st s).frame .now (by decide)

end Sys2Proof.BayFamily

namespace Sys2Proof.BayFamily

open Machine Laws SequencerFamily

variable {op : Nat} {row : Cmd → Instr} {f : BayForm} {modes : List BayMode} {own : Bay → List Byte → State → List (Bool × Nat)}
  {eff : Nat → Bay → State → State} {c : Cmd} {pay : List Byte} {b : Bay} {i j k n : Nat} {s u v : State} {x : Taken}

/-! ## A bay command that takes effect -/

/-- A command that its bay takes has its effect there: row `n` of the table gives its checks. -/
theorem takes_runs {body : Cmd → List Byte → State → State} (h : BayTakes op c pay s b)
    (hrow : bayRows[n]? = some (op, row, f, modes, own)) (hexec : exec (row c) s = runRow c op body s)
    (hbody : body c pay (takeCmd c s) = bayRun f modes (fun _ b t => own b pay t) eff c pay (takeCmd c s)) :
    exec (row c) s = .next (eff (payBay pay) b (takeCmd c s)) := by
  obtain ⟨ha, hb, hpart, hsup, hchecks⟩ := h
  obtain ⟨hform, hmode, hown⟩ := hchecks _ (List.mem_of_getElem? hrow) rfl
  rw [hexec, runRow_accepted ha, hbody, bayRun_passes hform ((bayOf_takeCmd c s _).trans hb) hpart hmode hown,
    FloorPlanFamily.needProcs_run hsup]

/-- The bay that a command takes effect on is loaded when it does. -/
theorem takes_bay (h : BayTakes op c pay s b) : bayOf (takeCmd c s) (payBay pay) = some b :=
  (bayOf_takeCmd c s _).trans h.2.1

theorem takes_taken (h : BayTakes op c pay s b) : ∃ x, takenOf c (takeCmd c s) = some x := by
  obtain ⟨⟨-, htake, -⟩, -⟩ := h
  obtain ⟨_, hx⟩ := takenOf_takeCmd htake
  exact ⟨_, hx⟩

theorem coreOf_takeCmd (c : Cmd) (s : State) (k : Nat) : coreOf (takeCmd c s) k = coreOf s k := coreOf_of_cores (takeCmd_cores c s) k

/-! ### BAY_START (R54, R105, R228, R253) -/

/-- A bay as it starts. -/
def startBay (pay : List Byte) (s : State) (b : Bay) : Bay :=
  { b with
    mode := .running, point := payPoint pay, seed := BitVec.ofNat 64 (payArg pay), count := 0
    frozenNs := 0, frozenAt := none, idlePeriods := idleNow s b, idleSince := none
    boostLost := false, boostTold := (false, false) }

/-- The cores of a bay as it starts. -/
def startCores (pay : List Byte) (b : Bay) (s : State) : State :=
  (bayCores b).foldl (fun s k => modCore k (coreStart (BitVec.ofNat 64 (payArg pay)) k) s) s

/-- The effect of BAY_START. -/
def startEffect (pay : List Byte) (i : Nat) (b : Bay) (s : State) : State :=
  modBay i (startBay pay (startCores pay b s)) (startCores pay b s)

theorem exec_bayStart (h : BayTakes 0x0201 c pay s b) :
    exec (.bayStart c) s = .next (complete c stOk 0 (startEffect pay (payBay pay) b (takeCmd c s))) :=
  takes_runs (row := .bayStart) (n := 0) h rfl rfl rfl

theorem within_startCores (pay : List Byte) (b : Bay) (s : State) : Within [.cores] s (startCores pay b s) :=
  Within.foldl _ _ (fun _ _ h => within_modCore (Covers.self _) h) (Within.refl _ s)

theorem within_startEffect (pay : List Byte) (i : Nat) (b : Bay) (s : State) :
    Within [.bays, .cores] s (startEffect pay i b s) :=
  within_modBay ((Covers.self _).mono (by decide))
    (Within.foldl _ _ (fun _ _ h => within_modCore ((Covers.self _).mono (by decide)) h) (Within.refl _ s))

theorem bayOf_startEffect (hb : bayOf u i = some b) : bayOf (startEffect pay i b u) i = some (startBay pay u b) := by
  have hcores := (within_startCores pay b u).frame
  have hb' : bayOf (startCores pay b u) i = some b := (bayOf_of_bays (hcores .bays (by decide)) i).trans hb
  rw [startEffect, bayOf_modBay_same hb']
  simp only [startBay, idleNow_congr (hcores .now (by decide))]

theorem bayOf_startEffect_ne (h : j ≠ i) : bayOf (startEffect pay i b u) j = bayOf u j :=
  (bayOf_modBay_ne _ h).trans (bayOf_of_bays ((within_startCores pay b u).frame .bays (by decide)) j)

/-- Starting a core again leaves it as it started. -/
theorem coreStart_coreStart (seed : BitVec 64) (k : Nat) (c : Core) : coreStart seed k (coreStart seed k c) = coreStart seed k c :=
  rfl

theorem coreOf_startEffect (hk : k ∈ bayCores b) :
    coreOf (startEffect pay i b u) k = coreStart (BitVec.ofNat 64 (payArg pay)) k (coreOf u k) := by
  rw [startEffect, coreOf_modBay]
  refine coreOf_foldl_mem (R := fun c d => d = coreStart (BitVec.ofNat 64 (payArg pay)) k c) (fun _ => rfl) (fun c d hd => ?_) hk u
  rw [hd, coreStart_coreStart]

theorem coreOf_startEffect_not_mem (hk : k ∉ bayCores b) : coreOf (startEffect pay i b u) k = coreOf u k :=
  (coreOf_modBay _ _ _ _).trans (coreOf_foldl_not_mem _ hk u)

/-! ### BAY_HOLD and BAY_RELEASE (R258, R297) -/

theorem exec_bayHold (h : BayTakes 0x0202 c pay s b) :
    exec (.bayHold c) s = .next (complete c stOk 0 (setBay (payBay pay) (addHost b) (takeCmd c s))) :=
  takes_runs (row := .bayHold) (n := 1) h rfl rfl rfl

theorem addHost_held (h : b.mode = .held) :
    addHost b = { b with conds := if b.conds.contains .host then b.conds else b.conds ++ [.host] } := by
  rw [addHost, h]
  rfl

theorem addHost_other (h : b.mode ≠ .held) : addHost b = requestHold .host (b.count - 1) b := by
  rw [addHost, beq_false_of_ne h]
  rfl

/-- BAY_HOLD changes the conditions and the freeze alone. -/
theorem addHost_eq (b : Bay) : addHost b = { b with conds := (addHost b).conds, freezeDue := (addHost b).freezeDue } := by
  by_cases h : b.mode = .held
  · rw [addHost_held h]
  · rw [addHost_other h]
    rfl

theorem addHost_conds (b : Bay) : (addHost b).conds = if b.conds.contains .host then b.conds else b.conds ++ [.host] := by
  by_cases h : b.mode = .held
  · rw [addHost_held h]
  · rw [addHost_other h]
    rfl

theorem mem_addHost (b : Bay) (h : HoldCond) : h ∈ (addHost b).conds ↔ h ∈ b.conds ∨ h = .host := by
  rw [addHost_conds]
  split
  · rename_i hin
    exact ⟨Or.inl, fun hor => hor.elim id fun he => he ▸ List.contains_iff_mem.mp hin⟩
  · rw [List.mem_append, List.mem_singleton]

theorem exec_bayRelease (h : BayTakes 0x0203 c pay s b) :
    exec (.bayRelease c) s = .next (complete c stOk 0 (setBay (payBay pay)
      { b with conds := b.conds.filter (fun h => h != .host && h != .trap) } (takeCmd c s))) :=
  takes_runs (row := .bayRelease) (n := 2) h rfl rfl rfl

/-! ### BAY_STOP (R268) -/

theorem exec_bayStop (h : BayTakes 0x0204 c pay s b) :
    exec (.bayStop c) s
      = .next (beginStop (payBay pay) b (some c) (bitAt (payFlags pay) 0) none (takeCmd c s)) :=
  takes_runs (row := .bayStop) (n := 3) (eff := fun i b t => beginStop i b (some c) (bitAt (payFlags pay) 0) none t)
    h rfl rfl rfl

theorem stopCycleOf_mark (b : Bay) : stopCycleOf b true = none := by
  unfold stopCycleOf
  split <;> rfl

theorem stopCycleOf_running (h : b.mode = .running) : stopCycleOf b false = some (b.count - 1 + 6) := by
  rw [stopCycleOf, h]
  rfl

theorem bayOf_beginStop (i : Nat) (b : Bay) (c : Option Cmd) (m : Bool) (im : Option (Nat × Nat)) (s : State) :
    ∃ now, bayOf (beginStop i b c m im s) i
      = some { b with stop := some ⟨c, m, b.count - 1 + 5, stopCycleOf b m, now, im⟩ } :=
  ⟨_, bayOf_setBay_same _ _ _⟩

theorem bayOf_beginStop_ne {c : Option Cmd} {m : Bool} {im : Option (Nat × Nat)} (h : j ≠ i) :
    bayOf (beginStop i b c m im s) j = bayOf s j := by
  unfold beginStop
  dsimp only
  rw [bayOf_setBay_ne _ _ h]
  split
  · exact bayOf_of_bays (completeOpt_bays _ _ _ _) j
  · rfl

theorem within_begunStop (i : Nat) (b : Bay) (c : Option Cmd) (m : Bool) (im : Option (Nat × Nat)) (s : State) :
    Within [.host, .inProgress, .mgmt, .bays, .hostMem] s (beginStop i b c m im s) :=
  within_beginStop (Covers.self _) (Within.refl _ s)

/-- Where no stop gives way, a stop that begins changes its bay alone. -/
theorem beginStop_first {c : Option Cmd} {m : Bool} {im : Option (Nat × Nat)} (h : b.stop = none) :
    beginStop i b c m im s
      = setBay i { b with stop := some ⟨c, m, b.count - 1 + 5, stopCycleOf b m, s.now, im⟩ } s := by
  rw [beginStop, h]

/-! ### BAY_SET_POINT (R254, R255) -/

/-- The change that BAY_SET_POINT leaves pending. -/
def newChange (c : Cmd) (pay : List Byte) (b : Bay) (s : State) : PointChange :=
  ⟨payPoint pay, if raisesRail s b (payPoint pay) then .railRising else railUp b, pointFreeze b, b.mode == .held, s.now, c⟩

theorem exec_baySetPoint (h : BayTakes 0x0206 c pay s b) :
    exec (.baySetPoint c) s
      = .next (setBay (payBay pay) { b with change := some (newChange c pay b (takeCmd c s)) } (takeCmd c s)) :=
  takes_runs (row := .baySetPoint) (n := 4) (eff := fun i b t => setBay i { b with change := some (newChange c pay b t) } t)
    h rfl rfl rfl

theorem railUp_eq (b : Bay) : railUp b = if b.mode = .loaded then .relocking else .atHead := by
  simp only [railUp, beq_iff_eq]

theorem pointFreeze_eq (b : Bay) : pointFreeze b = if b.mode = .held then b.count - 1 else b.count - 1 + 6 := by
  simp only [pointFreeze, beq_iff_eq]

/-! ### BAY_STATUS and TIME_EXCHANGE (R87, R273, R274) -/

/-- What BAY_STATUS answers, when the supervisors have read the cores. -/
def statusOut (i : Nat) (b : Bay) (v : State) : List Byte := bayHeader v i b ++ (bayCores b).flatMap (coreRecord v b.count)

theorem exec_bayStatus (h : BayTakes 0x0207 c pay s b) :
    exec (.bayStatus c) s = .next (completeWithBuf c (payArg pay)
      (statusOut (payBay pay) b (modCores b supervisorRead (takeCmd c s))) 0 (modCores b supervisorRead (takeCmd c s))) :=
  takes_runs (row := .bayStatus) (n := 5) h rfl rfl rfl

/-- A second read adds nothing: the counters have been cleared. -/
theorem supervisorRead_supervisorRead (c : Core) : supervisorRead (supervisorRead c) = supervisorRead c := by
  have hclear : rcCounters (rcClear c.st) = copies 19 0 := rfl
  have hlen : (rcCounters c.st).length = 19 := rfl
  have htotals : (((c.totals.zip (rcCounters c.st)).map (fun p => (p.1 + p.2) % 2 ^ 64)).zip (copies 19 0)).map
      (fun p => (p.1 + p.2) % 2 ^ 64) = (c.totals.zip (rcCounters c.st)).map (fun p => (p.1 + p.2) % 2 ^ 64) := by
    refine List.ext_getElem (by simp [hlen]) fun m _ _ => ?_
    simp [copies, -List.reduceReplicate]
  simp only [supervisorRead, hclear, htotals]
  rfl

theorem coreOf_read (hk : k ∈ bayCores b) (s : State) :
    coreOf (modCores b supervisorRead s) k = supervisorRead (coreOf s k) :=
  coreOf_modCores_mem (R := fun c d => d = supervisorRead c) (fun _ => rfl)
    (fun c d hd => by rw [hd, supervisorRead_supervisorRead]) hk s

theorem takenOf_congr (h : v.inProgress = u.inProgress) (c : Cmd) : takenOf c v = takenOf c u := by
  unfold takenOf
  rw [h]

theorem bufferAnswers_congr (h : v.hostFail = u.hostFail) {a : Nat} (hbuf : BufferAnswers c a n u) : BufferAnswers c a n v := by
  unfold BufferAnswers hostAnswer at *
  rwa [h]

theorem exec_timeExchange (h : BayTakes 0x0208 c pay s b) :
    exec (.timeExchange c) s = .next (completeWithBuf c (payArg pay) (timeRecord (takeCmd c s) b) 0 (takeCmd c s)) :=
  takes_runs (row := .timeExchange) (n := 6) h rfl rfl rfl

theorem timeRecord_length (s : State) (b : Bay) : (timeRecord s b).length = 32 := by
  simp only [timeRecord, List.length_append, natLe_length, copies_length]

/-! ### BAY_REMOVE (R264, R293) -/

theorem exec_bayRemove (h : BayTakes 0x0209 c pay s b) :
    exec (.bayRemove c) s = .next (complete c stOk 0 (removeBay (payBay pay) b (takeCmd c s))) :=
  takes_runs (row := .bayRemove) (n := 7) h rfl rfl rfl

theorem bayOf_removeBay (i : Nat) (b : Bay) (s : State) : bayOf (removeBay i b s) i = none := mapGet?_mapDel_same _ _

theorem bayOf_removeBay_ne (h : j ≠ i) : bayOf (removeBay i b s) j = bayOf s j := by
  refine (mapGet?_mapDel_ne _ h).trans ?_
  show bayOf (modCores b (freezeWrites b.count) (dropChange i stBusy s)) j = _
  rw [bayOf_of_bays (modCores_bays _ _ _), bayOf_dropChange_ne _ h]

theorem coreOf_removeBay (hk : k ∉ bayCores b) : coreOf (removeBay i b s) k = coreOf s k := by
  show coreOf (modCores b (freezeWrites b.count) (dropChange i stBusy s)) k = _
  rw [coreOf_modCores_not_mem _ hk, coreOf_of_cores (dropChange_cores _ _ _)]

/-- A crossing of a bay that is removed is pending, and the bay declares it no longer. -/
theorem xings_removeBay {x : Crossing} (hx : x ∈ (removeBay i b s).xings) (ht : touchesBay b x = true) :
    x.state = .pending ∧ (inBay b x.sender = true → x.outDecl = false) ∧ (inBay b x.recv = true → x.inDecl = false) := by
  obtain ⟨y, -, hy⟩ := List.mem_map.mp hx
  by_cases hty : touchesBay b y = true
  · rw [if_pos hty] at hy
    subst hy
    exact ⟨rfl, fun h => by simp only at h ⊢; simp [h], fun h => by simp only at h ⊢; simp [h]⟩
  · rw [if_neg hty] at hy
    subst hy
    exact absurd ht hty

/-! ### HAZARD_GET (R297) -/

theorem trapInsert_perm (t : Trap) (l : List Trap) : (trapInsert t l).Perm (t :: l) := by
  induction l with
  | nil => exact List.Perm.refl _
  | cons u l ih =>
    unfold trapInsert
    split
    · exact List.Perm.refl _
    · exact (ih.cons u).trans (List.Perm.swap t u l)

/-- Records in order of CYCLE. -/
def InCycleOrder (l : List Trap) : Prop := l.Pairwise (fun x y => x.cycle ≤ y.cycle)

theorem trapInsert_order (t : Trap) {l : List Trap} (h : InCycleOrder l) : InCycleOrder (trapInsert t l) := by
  induction l with
  | nil => exact List.pairwise_singleton _ t
  | cons u l ih =>
    obtain ⟨hu, hl⟩ := List.pairwise_cons.mp h
    unfold trapInsert
    split
    · rename_i hlt
      refine List.pairwise_cons.mpr ⟨fun w hw => ?_, h⟩
      rcases List.mem_cons.mp hw with rfl | hw
      · exact Nat.le_of_lt hlt
      · exact Nat.le_trans (Nat.le_of_lt hlt) (hu w hw)
    · rename_i hge
      refine List.pairwise_cons.mpr ⟨fun w hw => ?_, ih hl⟩
      rcases List.mem_cons.mp ((trapInsert_perm t l).mem_iff.mp hw) with rfl | hw
      · exact Nat.le_of_not_lt hge
      · exact hu w hw

/-- A bay's trap records in order of CYCLE. -/
def trapsInOrder (b : Bay) : List Trap := b.traps.foldl (fun l t => trapInsert t l) []

theorem foldl_trapInsert (ts l : List Trap) (h : InCycleOrder l) :
    (ts.foldl (fun l t => trapInsert t l) l).Perm (ts ++ l) ∧ InCycleOrder (ts.foldl (fun l t => trapInsert t l) l) := by
  induction ts generalizing l with
  | nil => exact ⟨List.Perm.refl _, h⟩
  | cons t ts ih =>
    obtain ⟨hperm, horder⟩ := ih (trapInsert t l) (trapInsert_order t h)
    exact ⟨hperm.trans (((trapInsert_perm t l).append_left ts).trans List.perm_middle), horder⟩

theorem trapsInOrder_perm (b : Bay) : (trapsInOrder b).Perm b.traps := by
  have h := (foldl_trapInsert b.traps [] List.Pairwise.nil).1
  rwa [List.append_nil] at h

theorem trapsInOrder_order (b : Bay) : InCycleOrder (trapsInOrder b) := (foldl_trapInsert b.traps [] List.Pairwise.nil).2

/-- What HAZARD_GET answers. -/
def hazardOut (b : Bay) : List Byte :=
  natLe 2 (trapsInOrder b).length ++ copies 2 0 ++ natLe 4 b.trapsLost ++ copies 8 0 ++ (trapsInOrder b).flatMap trapBytes

theorem hazardOut_length (b : Bay) : (hazardOut b).length = 16 + 32 * b.traps.length := by
  have hblock (t : Trap) : (trapBytes t).length = 32 := by
    simp only [trapBytes, List.length_append, natLe_length, copies_length]
  simp only [hazardOut, List.length_append, natLe_length, copies_length, FloorPlanFamily.length_flatMap_blocks hblock,
    (trapsInOrder_perm b).length_eq]

theorem exec_hazardGet (h : BayTakes 0x020B c pay s b) :
    exec (.hazardGet c) s = .next (completeWithBuf c (payArg pay) (hazardOut b) 0
      (setBay (payBay pay) { b with traps := [], trapsLost := 0 } (takeCmd c s))) :=
  takes_runs (row := .hazardGet) (n := 8) h rfl rfl rfl

/-- Settles O32: each command that its bay takes has the effect of its row, read off the change that it makes. -/
theorem bayCommandsAct : Obligations.BayCommandsAct := by
  intro c pay b s _ u i
  have hbays (j : Nat) : bayOf u j = bayOf s j := bayOf_takeCmd c s j
  have hcores (k : Nat) : coreOf u k = coreOf s k := coreOf_takeCmd c s k
  refine ⟨fun h => ?start, fun h => ?hold, fun h => exec_bayRelease h, fun h => ?stop, fun h => ?point, fun h hbuf => ?status,
    fun h hbuf => ?time, fun h => ?remove, fun h hbuf => ?hazard⟩
  case start =>
    refine ⟨startEffect pay i b u, exec_bayStart h, bayOf_startEffect (takes_bay h), fun k hk => ?_, fun k hk => ?_,
      fun j hj => (bayOf_startEffect_ne hj).trans (hbays j), only_mono (within_startEffect pay i b u).frame (by decide)⟩
    · rw [coreOf_startEffect hk, hcores]
      exact ⟨rfl, rfl, rfl, rfl, rfl, rfl⟩
    · rw [coreOf_startEffect_not_mem hk, hcores]
  case hold =>
    refine ⟨addHost b, exec_bayHold h, addHost_eq b, (mem_addHost b _).mpr (Or.inr rfl), fun x hx => ?_, fun hm => ?_,
      fun hm => ?_⟩
    · rw [mem_addHost]
      exact or_iff_left hx
    · rw [addHost_held hm]
    · rw [addHost_other (by rw [hm]; decide)]
      rfl
  case stop =>
    obtain ⟨now, hstop⟩ := bayOf_beginStop i b (some c) (bitAt (payFlags pay) 0) none u
    refine ⟨_, _, exec_bayStop h, hstop, rfl, rfl, rfl, fun hmark => ⟨?_, rfl⟩, fun hmark hrun => ?_,
      fun j hj => (bayOf_beginStop_ne hj).trans (hbays j), only_mono (within_begunStop _ _ _ _ _ _).frame (by decide),
      fun hnone => ?_⟩
    · exact (congrArg (stopCycleOf b) hmark).trans (stopCycleOf_mark b)
    · exact (congrArg (stopCycleOf b) hmark).trans (stopCycleOf_running hrun)
    · rw [beginStop_first hnone]
      exact (within_setBay (Covers.self _) (Within.refl _ u)).frame
  case point =>
    refine ⟨newChange c pay b u, exec_baySetPoint h, rfl, rfl, rfl, fun hr => if_pos hr, fun hr => ?_, fun hrun => ?_⟩
    · rw [newChange, hr, ← railUp_eq]
      rfl
    · exact (pointFreeze_eq b).trans (if_neg (by rw [hrun]; decide))
  case status =>
    obtain ⟨x, hx⟩ := takes_taken h
    obtain ⟨t, ht, hout, honly⟩ := completeWithBuf_answers (s := modCores b supervisorRead u) (c := c)
      ((takenOf_congr (modCores_inProgress _ _ _) c).trans hx) (bufferAnswers_congr (modCores_hostFail _ _ _) hbuf)
    have htcores := honly .cores (by decide)
    refine ⟨t, (exec_bayStatus h).trans (congrArg _ ht), hout, htcores, fun k hk => ?_, fun k hk => ?_,
      only_trans (only_mono (within_changedCores b supervisorRead u).frame (by decide)) (only_mono honly (by decide))⟩
    · rw [coreOf_of_cores htcores, coreOf_read hk, hcores]
      rfl
    · rw [coreOf_of_cores htcores, coreOf_modCores_not_mem _ hk, hcores]
  case time =>
    obtain ⟨x, hx⟩ := takes_taken h
    obtain ⟨t, ht, hout, honly⟩ := completeWithBuf_answers hx (bs := timeRecord u b)
      (by rwa [timeRecord_length])
    exact ⟨t, (exec_timeExchange h).trans (congrArg _ ht), hout, honly⟩
  case remove =>
    exact ⟨removeBay i b u, exec_bayRemove h, bayOf_removeBay i b u, fun j hj => (bayOf_removeBay_ne hj).trans (hbays j),
      fun x hx ht => xings_removeBay hx ht, fun k hk => (coreOf_removeBay hk).trans (hcores k),
      only_mono (within_removeBay (S := [.host, .inProgress, .mgmt, .bays, .cores, .xings, .hostMem]) (Covers.self _)
        (Within.refl _ u)).frame (by decide)⟩
  case hazard =>
    obtain ⟨x, hx⟩ := takes_taken h
    obtain ⟨t, ht, hout, honly⟩ := completeWithBuf_answers (s := setBay i { b with traps := [], trapsLost := 0 } u) (c := c)
      (bs := hazardOut b) ((takenOf_congr rfl c).trans hx) (bufferAnswers_congr rfl (by rwa [hazardOut_length]))
    have htbays := honly .bays (by decide)
    refine ⟨t, trapsInOrder b, (exec_hazardGet h).trans (congrArg _ ht), ?_, trapsInOrder_perm b, trapsInOrder_order b, hout,
      fun j hj => ?_, only_trans (only_mono (within_setBay (S := [.bays]) (Covers.self _) (Within.refl _ u)).frame (by decide))
        (only_mono honly (by decide))⟩
    · rw [bayOf_of_bays htbays, bayOf_setBay_same]
    · rw [bayOf_of_bays htbays, bayOf_setBay_ne _ _ hj, hbays]

end Sys2Proof.BayFamily

namespace Sys2Proof.BayFamily

open Machine Laws SequencerFamily

variable {b : Bay} {p : BayId} {i j k n time : Nat} {q : PointChange} {s u : State}

/-! ## Happenings at a bay -/

/-- A happening that is due at its bay takes place. -/
theorem bayEvent_due {due : Bay → State → Bool} {eff : Bay → State → State} (hb : bayOf s p.val = some b)
    (h : due b (atTime time s) = true) : bayEvent p time due eff s = .next (eff b (atTime time s)) := by
  rw [bayEvent, hb]
  exact if_pos h

/-! ## A hold sees its conditions (R259) -/

theorem within_evaluated (i : Nat) (conds : List HoldCond) (s : State) : Within [.cores, .xings] s (evalConds i conds s).2 :=
  within_evalConds (Covers.self _) (Within.refl _ s)

theorem evalConds_bays (i : Nat) (conds : List HoldCond) (s : State) : (evalConds i conds s).2.bays = s.bays :=
  (within_evaluated i conds s).frame .bays (by decide)

/-- The conditions that a held bay keeps when it sees them. -/
def condsLeft (i : Nat) (b : Bay) (s : State) : List HoldCond :=
  b.conds.filter (fun h => !(holdsNow b).contains h || (evalConds i (holdsNow b) s).1.contains h)

theorem bayOf_settleHold (hb : bayOf s i = some b) (hm : b.mode = .held) :
    bayOf (settleHold i s) i = some { b with conds := condsLeft i b s } := by
  have hheld : ¬(b.mode != .held) = true := by rw [hm]; decide
  rw [settleHold, hb]
  dsimp only
  rw [if_neg hheld, bayOf_modBay_same ((bayOf_of_bays (evalConds_bays _ _ _) i).trans hb)]
  rfl

theorem settleHold_other (hb : bayOf s i = some b) (hm : b.mode ≠ .held) : settleHold i s = s := by
  rw [settleHold, hb]
  exact if_pos (bne_iff_ne.mpr hm)

theorem bayOf_settleHold_ne (h : j ≠ i) : bayOf (settleHold i s) j = bayOf s j := by
  unfold settleHold
  split
  · rfl
  · split
    · rfl
    · rw [bayOf_modBay_ne _ h, bayOf_of_bays (evalConds_bays _ _ _)]

theorem within_settledHold (i : Nat) (s : State) : Within [.bays, .cores, .xings] s (settleHold i s) :=
  within_settleHold (Covers.self _) (Within.refl _ s)

/-- A hold claims only what its lookaheads may. -/
theorem sansHolds_settleHold (i : Nat) (s : State) (j : Nat) :
    sansHolds (coreOf (settleHold i s) j) = sansHolds (coreOf s j) := by
  obtain ⟨_, _, _, h⟩ := ScratchpadFamily.claims_settleHold i s j
  rw [h]
  rfl

theorem holdsNow_due (hd : b.freezeDue = some n) (h : n < b.count) : holdsNow b = b.conds := by
  rw [holdsNow, hd]
  exact if_neg (Nat.not_le.mpr h)

/-- A hold that is due sees all its conditions: those that are not met stay. -/
theorem condsLeft_due (h : holdsNow b = b.conds) :
    condsLeft i b s = b.conds.filter (fun x => (evalConds i b.conds s).1.contains x) := by
  unfold condsLeft
  rw [h]
  refine List.filter_congr fun x hx => ?_
  rw [List.contains_iff_mem.mpr hx]
  rfl

/-! ### BAY_FREEZE (R258) -/

/-- A bay that freezes for its conditions. -/
def frozenBay (s : State) (b : Bay) : Bay := { beginFreeze s b with mode := .held, holds := b.holds + 1 }

theorem exec_bayFreeze (hb : bayOf s p.val = some b) (hm : b.mode = .running) (hd : b.freezeDue = some (b.count - 1))
    (hpos : 0 < b.count) (hq : bayQuiet (atTime time s) b b.count = true) :
    exec (.bayFreeze p time) s
      = .next (settleHold p.val (setBay p.val (frozenBay (atTime time s) b) (atTime time s))) := by
  have hdue : freezeIsDue b (atTime time s) = true := by
    rw [freezeIsDue, hm, hd, hq, decide_eq_true hpos]
    simp
  show execBayFreeze p time s = _
  unfold execBayFreeze
  exact bayEvent_due hb hdue

/-! ### BAY_RESUME (R259, R262) -/

/-- A core differs at most in the writes that are still due. -/
def WritesMoved (c d : Core) : Prop := ∃ w, d = { c with writes := w }

theorem WritesMoved.refl (c : Core) : WritesMoved c c := ⟨_, rfl⟩

theorem WritesMoved.trans {c d e : Core} (h : WritesMoved c d) (h' : WritesMoved d e) : WritesMoved c e := by
  obtain ⟨_, rfl⟩ := h
  obtain ⟨w, rfl⟩ := h'
  exact ⟨w, rfl⟩

theorem wakeRows_core (i : Nat) (s : State) (j : Nat) : WritesMoved (coreOf s j) (coreOf (wakeRows i s) j) := by
  unfold wakeRows
  split
  · exact WritesMoved.refl _
  · exact coreOf_modCores WritesMoved.refl WritesMoved.trans (fun _ => ⟨_, rfl⟩) _ _ j

theorem within_woken (i : Nat) (s : State) : Within [.cores] s (wakeRows i s) := within_wakeRows (Covers.self _) (Within.refl _ s)

theorem wakeRows_bays (i : Nat) (s : State) : (wakeRows i s).bays = s.bays := (within_woken i s).frame .bays (by decide)
theorem wakeRows_xings (i : Nat) (s : State) : (wakeRows i s).xings = s.xings := (within_woken i s).frame .xings (by decide)
theorem wakeRows_now (i : Nat) (s : State) : (wakeRows i s).now = s.now := (within_woken i s).frame .now (by decide)

theorem resumeIsDue_of (hm : b.mode = .held) (hbank : bankOver s b = true) (hplans : ∀ x, x ∈ b.bankPlans → b.count ≤ x.freeze)
    (hfault : ∀ n, b.faultDue = some n → b.count ≤ n) (hconds : (evalConds i (holdsNow b) s).1 = []) :
    resumeIsDue i b s = true := by
  have hp : b.bankPlans.all (fun x => decide (b.count ≤ x.freeze)) = true :=
    List.all_eq_true.mpr fun x hx => decide_eq_true (hplans x hx)
  unfold resumeIsDue
  rw [hm, hbank, hp, hconds]
  cases hn : b.faultDue with
  | none => rfl
  | some n => simpa using hfault n hn

theorem exec_bayResume (hb : bayOf s p.val = some b) (h : resumeIsDue p.val b (atTime time s) = true) :
    exec (.bayResume p time) s = .next (resumeBay p.val b (atTime time s)) := bayEvent_due hb h

theorem bayOf_resumeBay (hb : bayOf s i = some b) :
    bayOf (resumeBay i b s) i = some { endFreeze s b with
      mode := .running, conds := b.conds.filter (fun h => !(holdsNow b).contains h)
      freezeDue := b.freezeDue.filter (fun n => decide (b.count ≤ n)), bankHeld := none } := by
  have hb' : bayOf (wakeRows i (evalConds i (holdsNow b) s).2) i = some b := by
    rw [bayOf_of_bays (wakeRows_bays _ _), bayOf_of_bays (evalConds_bays _ _ _), hb]
  have hnow : (wakeRows i (evalConds i (holdsNow b) s).2).now = s.now :=
    (wakeRows_now _ _).trans ((within_evaluated _ _ _).frame .now (by decide))
  rw [resumeBay]
  dsimp only
  rw [bayOf_modBay_same hb', endFreeze_congr hnow]
  cases b.freezeDue with
  | none => rfl
  | some n => simp only [Option.filter_some, decide_eq_true_eq]

theorem bayOf_resumeBay_ne (h : j ≠ i) : bayOf (resumeBay i b s) j = bayOf s j := by
  rw [resumeBay]
  dsimp only
  rw [bayOf_modBay_ne _ h, bayOf_of_bays (wakeRows_bays _ _), bayOf_of_bays (evalConds_bays _ _ _)]

theorem resumeBay_core (i : Nat) (b : Bay) (s : State) (j : Nat) :
    sansHolds { coreOf (resumeBay i b s) j with writes := [] } = sansHolds { coreOf s j with writes := [] } := by
  rw [resumeBay]
  dsimp only
  rw [coreOf_modBay]
  obtain ⟨w, hw⟩ := wakeRows_core i (evalConds i (holdsNow b) s).2 j
  rw [hw]
  exact (ScratchpadFamily.claims_evalConds i (holdsNow b) s j).sansHolds

/-- A bay with no condition claims nothing of its crossings. -/
theorem resumeBay_xings (h : holdsNow b = []) : (resumeBay i b s).xings = s.xings := by
  rw [resumeBay, h]
  exact (modBay_xings _ _ _).trans (wakeRows_xings _ _)

/-! ### What a bay reports (R253, R275) -/

theorem exec_bayHeldLong (hb : bayOf s p.val = some b) (hm : b.mode = .held) (hl : b.heldLong = false)
    (ht : ∃ t0, b.frozenAt = some t0 ∧ t0 + 100000000 ≤ (atTime time s).now) :
    exec (.bayHeldLong p time) s
      = .next (raise1 (evBay 0x0202 p.val b.part (holdNowBits (atTime time s) p.val b) (b.count - 1))
          (setBay p.val { b with heldLong := true } (atTime time s))) := by
  obtain ⟨t0, hf, ht⟩ := ht
  show execBayHeldLong p time s = _
  unfold execBayHeldLong
  refine bayEvent_due hb ?_
  rw [hm, hl, hf]
  simpa using ht

/-- Whether a bay reports the coolant's lapse now, before the headroom's. -/
def warmLapse (s : State) (b : Bay) : Bool := inletTooWarm s && !b.boostTold.1

theorem exec_boostConditionLost (hb : bayOf s p.val = some b) (hboost : boosted b = true)
    (hlapse : warmLapse (atTime time s) b = true
      ∨ ((∃ x, x ∈ baySites b ∧ hasHeadroom (atTime time s) x = false) ∧ b.boostTold.2 = false)) :
    exec (.boostConditionLost p time) s
      = .next (raise1 (evBay 0x0205 p.val b.part (b2n (!warmLapse (atTime time s) b)) 0)
          (setBay p.val { b with
            boostLost := true
            boostTold := if warmLapse (atTime time s) b then (true, b.boostTold.2) else (b.boostTold.1, true) }
            (atTime time s))) := by
  show execBoostConditionLost p time s = _
  unfold execBoostConditionLost
  refine bayEvent_due hb ?_
  rw [hboost, Bool.true_and, Bool.or_eq_true]
  rcases hlapse with hwarm | ⟨⟨x, hx, hno⟩, htold⟩
  · exact Or.inl hwarm
  · have hall : (baySites b).all (hasHeadroom (atTime time s)) = false :=
      List.all_eq_false.mpr ⟨x, hx, by rw [hno]; exact Bool.false_ne_true⟩
    exact Or.inr (by rw [hall, htold]; rfl)

/-! ### Point changes (R254, R255, R606) -/

theorem changeAt_of {st : PointStage} (hq : b.change = some q) (hst : q.stage = st) : changeAt b st = true := by
  rw [changeAt, hq]
  exact beq_iff_eq.mpr hst

theorem withChange_some (hq : b.change = some q) (f : PointChange → PointChange) :
    withChange b f = { b with change := some (f q) } := by
  rw [withChange, hq]
  rfl

theorem exec_railRaised (hb : bayOf s p.val = some b) (hq : b.change = some q) (hst : q.stage = .railRising) :
    exec (.railRaised p time) s = .next (setBay p.val { b with change := some { q with
      stage := railUp b, freeze := pointFreeze b, since := (atTime time s).now } } (atTime time s)) := by
  rw [← withChange_some hq (fun q => { q with stage := railUp b, freeze := pointFreeze b, since := (atTime time s).now })]
  show execRailRaised p time s = _
  unfold execRailRaised
  exact bayEvent_due hb (changeAt_of hq hst)

theorem exec_pointStop (hb : bayOf s p.val = some b) (hq : b.change = some q) (hst : q.stage = .atHead)
    (hat : b.mode = .held ∨ (b.mode = .running ∧ bayQuiet (atTime time s) b b.count = true ∧ q.freeze + 1 = b.count)) :
    exec (.pointStop p time) s = .next (setBay p.val { endIdle (atTime time s) (beginFreeze (atTime time s) b) with
      mode := .pointChange
      change := some { q with
        stage := .stopped, freeze := b.count - 1, wasHeld := b.mode == .held, since := (atTime time s).now } }
      (atTime time s)) := by
  have heff : { endIdle (atTime time s) (beginFreeze (atTime time s) (withChange b (fun q => { q with
      stage := .stopped, freeze := b.count - 1, wasHeld := b.mode == .held, since := (atTime time s).now }))) with
        mode := BayMode.pointChange } = { endIdle (atTime time s) (beginFreeze (atTime time s) b) with
      mode := .pointChange
      change := some { q with
        stage := .stopped, freeze := b.count - 1, wasHeld := b.mode == .held, since := (atTime time s).now } } := by
    rw [withChange_some hq]
    rfl
  rw [← heff]
  show execPointStop p time s = _
  unfold execPointStop
  refine bayEvent_due hb ?_
  rw [changeAt_of hq hst, hq]
  rcases hat with hm | ⟨hm, hquiet, hfreeze⟩
  · rw [hm]
    rfl
  · rw [hm, hquiet]
    simpa using hfreeze

theorem exec_relockEnd (hb : bayOf s p.val = some b) (hq : b.change = some q)
    (hst : (q.stage = .stopped ∧ b.mode = .pointChange) ∨ q.stage = .relocking)
    (ht : q.since + 1500 ≤ (atTime time s).now) :
    exec (.relockEnd p time) s = .next (if q.stage = .stopped then relockStopped p.val b q (atTime time s)
      else relockLoaded p.val b q (atTime time s)) := by
  show execRelockEnd p time s = _
  unfold execRelockEnd
  rw [bayEvent_due hb]
  · rw [hq]
  · rw [hq]
    dsimp only
    rw [decide_eq_true ht, Bool.and_true, Bool.or_eq_true, Bool.and_eq_true]
    exact hst.imp (fun h => ⟨changeAt_of hq h.1, beq_iff_eq.mpr h.2⟩) (fun h => changeAt_of hq h)

/-- A bay that goes on at a new point, in the state that the change leaves it in. -/
def relocked (b : Bay) (q : PointChange) (s : State) : Bay :=
  let x := { b with point := q.target, boostLost := false, boostTold := (false, false) }
  let m := modeAfterRelock x q
  let x := if m == .running then endFreeze s x else beginIdle s x
  { x with mode := m, change := none, holds := if m == .held && !q.wasHeld then x.holds + 1 else x.holds }

theorem autoStop_none (hb : bayOf s i = some b) (h : stopsBays s b.part = false) : autoStop i s = s := by
  rw [autoStop, hb]
  dsimp only
  rw [h]
  rfl

/-- What a bay keeps when it sees its conditions: it loses conditions alone, and none while it is not held. -/
theorem bayOf_settled (hb : bayOf s i = some b) :
    ∃ conds, bayOf (settleHold i s) i = some { b with conds := conds } ∧ (∀ h, h ∈ conds → h ∈ b.conds)
      ∧ (b.mode ≠ .held → conds = b.conds) := by
  by_cases hm : b.mode = .held
  · exact ⟨_, bayOf_settleHold hb hm, fun h hh => List.mem_of_mem_filter hh, fun hn => absurd hm hn⟩
  · rw [settleHold_other hb hm]
    exact ⟨b.conds, hb, fun _ hh => hh, fun _ => rfl⟩

theorem relocked_keeps (b : Bay) (q : PointChange) (s : State) :
    (relocked b q s).point = q.target ∧ (relocked b q s).change = none ∧ (relocked b q s).boostLost = false
      ∧ (relocked b q s).count = b.count ∧ (relocked b q s).conds = b.conds ∧ (relocked b q s).part = b.part := by
  unfold relocked
  dsimp only
  split <;> exact ⟨rfl, rfl, rfl, rfl, rfl, rfl⟩

/-- A bay that was held is held again, in the same hold. -/
theorem relocked_held (hw : q.wasHeld = true) (b : Bay) (s : State) :
    (relocked b q s).mode = .held ∧ (relocked b q s).holds = b.holds := by
  simp only [relocked, modeAfterRelock, hw]
  exact ⟨rfl, rfl⟩

/-- A bay that ran runs again, where no freeze is due. -/
theorem relocked_running (hw : q.wasHeld = false) (hd : b.freezeDue = none) (s : State) :
    (relocked b q s).mode = .running ∧ (relocked b q s).frozenAt = none ∧ (relocked b q s).frozenNs = frozenNow s b := by
  simp only [relocked, modeAfterRelock, hw, hd]
  exact ⟨rfl, rfl, rfl⟩

/-- A bay with no fault goes on when its relock ends, and nothing stops it. -/
theorem relockStopped_eq (hfault : b.faultDue = none) (hstop : stopsBays s b.part = false) :
    relockStopped i b q s = complete q.cmd stOk 0 (settleHold i (setBay i (relocked b q s) s)) := by
  obtain ⟨conds, hx, -⟩ := bayOf_settled (bayOf_setBay_same s i (relocked b q s))
  obtain ⟨-, -, -, -, -, hpart⟩ := relocked_keeps b q s
  have hwithin := (within_settledHold i (setBay i (relocked b q s) s)).frame
  have hgoes : relockStopped i b q s
      = autoStop i (complete q.cmd stOk 0 (settleHold i (setBay i (relocked b q s) s))) :=
    if_neg (c := b.faultDue.isSome = true) (by rw [hfault]; exact Bool.false_ne_true)
  rw [hgoes]
  refine autoStop_none ((bayOf_of_bays (complete_bays _ _ _ _) i).trans hx) ?_
  rw [stopsBays_congr (complete_removing _ _ _ _) (complete_fw _ _ _ _),
    stopsBays_congr (congrArg HostPort.removing (hwithin .host (by decide))) (hwithin .fw (by decide))]
  exact (congrArg (stopsBays s) hpart).trans hstop

/-! ### The stop cycle (R268) -/

/-- The cores and the crossings of a bay from its stop cycle on. -/
def stopCores (i : Nat) (b : Bay) (s : State) : State :=
  wakeRows i (closeXings b (modCores b coreStopped (dropChange i stBusy s)))

/-- A bay from its stop cycle on. -/
def drainBay (s : State) (b : Bay) : Bay :=
  { endFreeze s b with
    mode := .draining, conds := [], freezeDue := none, bankPlans := [], bankHeld := none
    stop := b.stop.map (fun q => { q with stopCycle := some b.count, since := s.now }) }

/-- The effect of STOP_CYCLE. -/
def stopEffect (i : Nat) (b : Bay) (s : State) : State := modBay i (drainBay (stopCores i b s)) (stopCores i b s)

theorem exec_stopCycle {q : StopReq} (hb : bayOf s p.val = some b) (hq : b.stop = some q) (hn : q.stopCycle = some n)
    (hat : (b.mode = .running ∧ n = b.count ∧ bayQuiet (atTime time s) b n = true)
      ∨ (b.mode = .held ∧ (q.atMark = false ∨ n = b.count))) :
    exec (.stopCycle p time) s = .next (stopEffect p.val b (atTime time s)) := by
  show execStopCycle p time s = _
  unfold execStopCycle
  refine bayEvent_due hb ?_
  rw [hq]
  dsimp only
  rw [hn]
  dsimp only
  rcases hat with ⟨hm, hcount, hquiet⟩ | ⟨hm, hmark | hcount⟩
  · rw [hm, hquiet, decide_eq_true hcount]
    rfl
  · rw [hm, hmark]
    simp
  · rw [hm, decide_eq_true hcount]
    simp

end Sys2Proof.BayFamily

namespace Sys2Proof.BayFamily

open Machine Laws SequencerFamily

variable {b : Bay} {p : BayId} {i j k n time : Nat} {s u : State}

/-! ### What the stop cycle leaves (R268) -/

theorem closeXings_core (b : Bay) (s : State) (j : Nat) : coreOf (closeXings b s) j = coreOf s j := rfl

theorem closeXings_mem {x : Crossing} (hx : x ∈ (closeXings b s).xings) (ht : touchesBay b x = true) : x.state = .closed := by
  obtain ⟨y, -, hy⟩ := List.mem_map.mp hx
  by_cases hty : touchesBay b y = true
  · rw [if_pos hty] at hy
    subst hy
    rfl
  · rw [if_neg hty] at hy
    subst hy
    exact absurd ht hty

theorem mem_closeXings {x : Crossing} (hx : x ∈ s.xings) (ht : touchesBay b x = false) : x ∈ (closeXings b s).xings :=
  List.mem_map.mpr ⟨x, hx, if_neg (by rw [ht]; exact Bool.false_ne_true)⟩

theorem stopCores_now (i : Nat) (b : Bay) (s : State) : (stopCores i b s).now = s.now := by
  rw [stopCores, wakeRows_now]
  show (modCores b coreStopped (dropChange i stBusy s)).now = s.now
  rw [modCores_now, dropChange_now]

theorem stopCores_bays (i : Nat) (b : Bay) (s : State) : (stopCores i b s).bays = (dropChange i stBusy s).bays := by
  rw [stopCores, wakeRows_bays]
  exact modCores_bays _ _ _

theorem stopCores_xings (i : Nat) (b : Bay) (s : State) : (stopCores i b s).xings = (closeXings b s).xings := by
  rw [stopCores, wakeRows_xings]
  show List.map _ (modCores b coreStopped (dropChange i stBusy s)).xings = List.map _ s.xings
  rw [modCores_xings, dropChange_xings]

/-- From its stop cycle on a core checks, reserves and claims nothing; its tags, its rows and its engines stay. -/
structure Stopped (c d : Core) : Prop where
  recs : d.seq.recs = []
  reserved : d.ax.reserved = 0
  claims : d.rt.claims = []
  tags : d.tags = c.tags
  rows : d.rows = c.rows
  eng : d.eng = c.eng

theorem Stopped.moved {c d e : Core} (h : Stopped c d) (h' : WritesMoved d e) : Stopped c e := by
  obtain ⟨_, rfl⟩ := h'
  exact ⟨h.recs, h.reserved, h.claims, h.tags, h.rows, h.eng⟩

theorem stopCores_core (hk : k ∈ bayCores b) (i : Nat) (s : State) : Stopped (coreOf s k) (coreOf (stopCores i b s) k) := by
  have hstopped : Stopped (coreOf s k) (coreOf (closeXings b (modCores b coreStopped (dropChange i stBusy s))) k) := by
    rw [closeXings_core, ← coreOf_of_cores (dropChange_cores i stBusy s)]
    exact coreOf_modCores_mem (R := Stopped) (f := coreStopped) (fun _ => ⟨rfl, rfl, rfl, rfl, rfl, rfl⟩)
      (fun _ _ h => ⟨rfl, rfl, rfl, h.tags, h.rows, h.eng⟩) hk _
  exact hstopped.moved (wakeRows_core i _ k)

theorem within_stopEffect (i : Nat) (b : Bay) (s : State) :
    Within [.bays, .cores, .xings, .host, .hostMem, .mgmt, .inProgress] s (stopEffect i b s) :=
  within_modBay ((Covers.self _).mono (by decide)) (within_wakeRows ((Covers.self _).mono (by decide))
    (within_closeXings ((Covers.self _).mono (by decide)) (within_modCores ((Covers.self _).mono (by decide))
      (within_dropChange ((Covers.self _).mono (by decide)) (Within.refl _ s)))))

theorem bayOf_stopEffect {q : StopReq} (hb : bayOf s i = some b) (hq : b.stop = some q) :
    bayOf (stopEffect i b s) i = some { endFreeze s b with
      mode := .draining, conds := [], freezeDue := none, bankPlans := [], bankHeld := none, change := none
      stop := some { q with stopCycle := some b.count, since := s.now } } := by
  have hb' : bayOf (stopCores i b s) i = some { b with change := none } :=
    (bayOf_of_bays (stopCores_bays i b s) i).trans (bayOf_dropChange stBusy hb)
  rw [stopEffect, bayOf_modBay_same hb', drainBay, endFreeze_congr (stopCores_now i b s), stopCores_now]
  dsimp only
  rw [hq]
  rfl

theorem bayOf_stopEffect_ne (h : j ≠ i) : bayOf (stopEffect i b s) j = bayOf s j := by
  rw [stopEffect, bayOf_modBay_ne _ h, bayOf_of_bays (stopCores_bays i b s), bayOf_dropChange_ne _ h]

/-! ### BAY_DONE (R58, R275) -/

/-- The state in which a bay that is done has settled what its cores hold. -/
def doneCores (i : Nat) (b : Bay) (s : State) : State :=
  modCores b (fun c => freezeWrites b.count (settleMarks b.count c)) (dropChange i stBusy s)

/-- A bay that is done. -/
def doneBay (s : State) (b : Bay) : Bay :=
  { beginFreeze s b with mode := .done, conds := [], freezeDue := none, bankPlans := [] }

/-- The effect of BAY_DONE but for its event. -/
def doneEffect (i : Nat) (b : Bay) (s : State) : State := modBay i (doneBay (doneCores i b s)) (doneCores i b s)

theorem exec_bayDone (hb : bayOf s p.val = some b) (hm : b.mode = .running) (hf : b.faultDue = none) (hpos : 0 < b.count)
    (hq : bayQuiet (atTime time s) b b.count = true) (hdone : ∀ k, k ∈ bayCores b → coreDone (coreOf s k) b.count = true) :
    exec (.bayDone p time) s
      = .next (raise1 (evBay 0x0203 p.val b.part 0 (b.count - 1)) (doneEffect p.val b (atTime time s))) := by
  have hall : (bayCores b).all (fun k => coreDone (coreOf (atTime time s) k) b.count) = true := List.all_eq_true.mpr hdone
  show execBayDone p time s = _
  unfold execBayDone
  refine bayEvent_due hb ?_
  rw [hm, hf, hq, hall, decide_eq_true hpos]
  rfl

theorem doneCores_bays (i : Nat) (b : Bay) (s : State) : (doneCores i b s).bays = (dropChange i stBusy s).bays :=
  modCores_bays _ _ _

theorem doneCores_now (i : Nat) (b : Bay) (s : State) : (doneCores i b s).now = s.now :=
  (modCores_now _ _ _).trans (dropChange_now _ _ _)

theorem bayOf_doneEffect (hb : bayOf s i = some b) :
    bayOf (doneEffect i b s) i = some { beginFreeze s b with
      mode := .done, conds := [], freezeDue := none, bankPlans := [], change := none } := by
  have hb' : bayOf (doneCores i b s) i = some { b with change := none } :=
    (bayOf_of_bays (doneCores_bays i b s) i).trans (bayOf_dropChange stBusy hb)
  rw [doneEffect, bayOf_modBay_same hb', doneBay, beginFreeze_congr (doneCores_now i b s)]
  rfl

theorem bayOf_doneEffect_ne (h : j ≠ i) : bayOf (doneEffect i b s) j = bayOf s j := by
  rw [doneEffect, bayOf_modBay_ne _ h, bayOf_of_bays (doneCores_bays i b s), bayOf_dropChange_ne _ h]

theorem dropOld_dropOld (e : BitVec 4) (q : List Token) : dropOld e (dropOld e q) = dropOld e q := by
  simp only [dropOld, List.filter_filter, Bool.and_self]

/-- A mark that takes effect again finds no token of the old epoch. -/
theorem settleMarks_again {t : Nat} {c d : Core} (h : d.seq = (settleMarks t c).seq) :
    (settleMarks t d).seq = (settleMarks t c).seq := by
  unfold settleMarks at h ⊢
  cases hm : c.seq.marks.find? (fun m => m.1 == t) with
  | none =>
    rw [hm] at h
    rw [h, hm]
    exact h
  | some m =>
    rw [hm] at h
    have hmarks : d.seq.marks = c.seq.marks := by rw [h]; rfl
    rw [hmarks, hm]
    show { d.seq with queues := d.seq.queues.map (dropOld (m.2.1 - 1)) } = _
    rw [h]
    simp only [markTokens, List.map_map, Function.comp_def, dropOld_dropOld]

/-- What the settling of a mark leaves of a core. -/
theorem settleMarks_keeps (t : Nat) (c : Core) :
    (settleMarks t c).tags = c.tags ∧ (settleMarks t c).eng = c.eng ∧ (settleMarks t c).image = c.image
      ∧ (settleMarks t c).ax = c.ax := by
  unfold settleMarks
  split <;> exact ⟨rfl, rfl, rfl, rfl⟩

/-- A core that stops for good keeps its tags and its engines; a mark that takes effect then takes effect. -/
structure DoneCore (t : Nat) (c d : Core) : Prop where
  tags : d.tags = c.tags
  eng : d.eng = c.eng
  seq : d.seq = (settleMarks t c).seq

theorem coreOf_doneEffect (hk : k ∈ bayCores b) (i : Nat) (s : State) :
    DoneCore b.count (coreOf s k) (coreOf (doneEffect i b s) k) := by
  rw [doneEffect, coreOf_modBay, ← coreOf_of_cores (dropChange_cores i stBusy s)]
  refine coreOf_modCores_mem (R := DoneCore b.count) (fun c => ?_) (fun c d h => ?_) hk _
  · obtain ⟨htags, heng, -⟩ := settleMarks_keeps b.count c
    exact ⟨htags, heng, rfl⟩
  · obtain ⟨htags, heng, -⟩ := settleMarks_keeps b.count d
    exact ⟨htags.trans h.tags, heng.trans h.eng, settleMarks_again h.seq⟩

theorem within_doneEffect (i : Nat) (b : Bay) (s : State) :
    Within [.bays, .cores, .host, .hostMem, .mgmt, .inProgress] s (doneEffect i b s) :=
  within_modBay ((Covers.self _).mono (by decide)) (within_modCores ((Covers.self _).mono (by decide))
    (within_dropChange ((Covers.self _).mono (by decide)) (Within.refl _ s)))

/-- Settles O33: what is due at a bay takes place, and is read off the change that it makes. -/
theorem baysRunHoldAndChange : Obligations.BaysRunHoldAndChange := by
  intro p time b s hb i u
  have hbu : bayOf u i = some b := hb
  refine ⟨fun hm hd hpos hq => ?freeze, fun hm hbank hplans hfault hconds => ?resume, fun hm hl ht => exec_bayHeldLong hb hm hl ht,
    fun hboost hlapse => exec_boostConditionLost hb hboost hlapse, fun q hq hst => ?rail, fun q hq hst hat => exec_pointStop hb hq hst hat,
    fun q hq hst hm ht hfault hstop => ?relock, fun q hq hst ht => ?loaded, fun q n hq hn hat => ?stop,
    fun hm hf hpos hquiet hdone => ?done⟩
  case freeze =>
    have hnow : holdsNow (frozenBay u b) = (frozenBay u b).conds := holdsNow_due hd (show b.count - 1 < b.count by omega)
    refine ⟨_, exec_bayFreeze hb hm hd hpos hq, ?_, fun j hj => ?_, fun j => sansHolds_settleHold _ _ j,
      only_trans (only_mono (within_setBay (S := [.bays]) (Covers.self _) (Within.refl _ u)).frame (by decide))
        (within_settledHold _ _).frame⟩
    · rw [bayOf_settleHold (bayOf_setBay_same _ _ _) rfl, condsLeft_due hnow]
      rfl
    · rw [bayOf_settleHold_ne hj, bayOf_setBay_ne _ _ hj]
      rfl
  case resume =>
    exact ⟨_, exec_bayResume hb (resumeIsDue_of hm hbank hplans hfault hconds), bayOf_resumeBay hbu,
      fun j hj => bayOf_resumeBay_ne hj, (within_resumeBay (Covers.self _) (Within.refl _ u)).frame,
      fun j => resumeBay_core i b u j, resumeBay_xings⟩
  case rail =>
    rw [exec_railRaised hb hq hst, railUp_eq, pointFreeze_eq]
  case relock =>
    obtain ⟨conds, hx, hsub, hsame⟩ := bayOf_settled (bayOf_setBay_same u i (relocked b q u))
    obtain ⟨hpoint, hchange, hboost, hcount, hrconds, -⟩ := relocked_keeps b q u
    refine ⟨settleHold i (setBay i (relocked b q u) u), _, ?_, hx, hpoint, hchange, hboost, hcount, fun hw => ?_, fun hw hd => ?_,
      fun j hj => ?_, only_trans (only_mono (within_setBay (S := [.bays]) (Covers.self _) (Within.refl _ u)).frame (by decide))
        (within_settledHold _ _).frame⟩
    · rw [exec_relockEnd hb hq (Or.inl ⟨hst, hm⟩) ht, if_pos hst, relockStopped_eq hfault hstop]
    · obtain ⟨hmode, hholds⟩ := relocked_held hw b u
      exact ⟨hmode, hholds, fun h hh => hrconds ▸ hsub h hh⟩
    · obtain ⟨hmode, hfrozen, hns⟩ := relocked_running hw hd u
      exact ⟨hmode, hfrozen, hns, (hsame (by rw [hmode]; decide)).trans hrconds⟩
    · rw [bayOf_settleHold_ne hj, bayOf_setBay_ne _ _ hj]
      rfl
  case loaded =>
    rw [exec_relockEnd hb hq (Or.inr hst) ht, if_neg (by rw [hst]; decide), relockLoaded]
    simp only [beq_iff_eq]
    rfl
  case stop =>
    refine ⟨stopEffect i b u, exec_stopCycle hb hq hn hat, bayOf_stopEffect hbu hq, fun k hk => ?_, fun x hx ht => ?_,
      fun x hx ht => ?_, fun j hj => bayOf_stopEffect_ne hj, (within_stopEffect i b u).frame⟩
    · have h := stopCores_core hk i u
      rw [stopEffect, coreOf_modBay]
      exact ⟨h.recs, h.reserved, h.claims, h.tags, h.rows, h.eng⟩
    · rw [stopEffect, modBay_xings, stopCores_xings] at hx
      exact closeXings_mem hx ht
    · rw [stopEffect, modBay_xings, stopCores_xings]
      exact mem_closeXings hx ht
  case done =>
    refine ⟨doneEffect i b u, exec_bayDone hb hm hf hpos hquiet hdone, bayOf_doneEffect hbu, fun k hk => ?_,
      fun j hj => bayOf_doneEffect_ne hj, only_mono (within_doneEffect i b u).frame (by decide)⟩
    have h := coreOf_doneEffect hk i u
    exact ⟨h.tags, h.eng, h.seq⟩

end Sys2Proof.BayFamily

/-! ## Bay events that stop (R184 to R186, R256, R262, R268 to R270) -/

namespace Sys2Proof.BayFamily

open Machine Laws SequencerFamily ScratchpadFamily

variable {b : Bay} {p : BayId} {k : CoreId} {i j n t time : Nat} {x : BankHoldPlan} {s u : State}

/-! ### DROOP (R256) -/

/-- No period of that cycle is lengthened yet. -/
theorem droops_none {l : List (Nat × Nat)} {m : Nat} (h : ∀ x, x ∈ l → x.1 ≠ n) :
    l.foldl (fun m x => if x.1 = n then max m x.2 else m) m = m ∧ l.filter (fun x => x.1 != n) = l := by
  refine ⟨?_, List.filter_eq_self.mpr fun x hx => bne_iff_ne.mpr (h x hx)⟩
  induction l with
  | nil => rfl
  | cons x xs ih =>
    rw [List.foldl_cons, if_neg (h x List.mem_cons_self)]
    exact ih fun y hy => h y (List.mem_cons_of_mem _ hy)

theorem exec_droop {level : Fin 4} (hb : bayOfCore s (coreNo k) = some (i, b)) (ht : t + 1 = b.count) (hl : level ≠ 0)
    (hm : b.mode = .running ∨ b.mode = .draining) (hd : ∀ x, x ∈ b.droops → x.1 ≠ t + 3) :
    exec (.droop k t level) s = .next (setBay i { b with droops := b.droops ++ [(t + 3, level.val)] } s) := by
  obtain ⟨hold, hkeep⟩ := droops_none (m := 0) hd
  have hlevel : level.val ≠ 0 := fun h => hl (Fin.ext h)
  have hmode : (b.mode == .running || b.mode == .draining) = true := by
    rw [Bool.or_eq_true]
    exact hm.imp beq_iff_eq.mpr beq_iff_eq.mpr
  show execDroop k t level s = _
  unfold execDroop
  rw [hb]
  dsimp only
  rw [if_neg (by rw [hmode]; simp [hlevel, ht]), hold, hkeep, Nat.zero_max]

/-! ### BANK_HOLD (R184 to R186, R262, R295) -/

/-- A bay that freezes for a plan of a bank hold. -/
def bankHeldBay (s : State) (k t : Nat) (x : BankHoldPlan) (b : Bay) : Bay :=
  { beginFreeze s b with
    mode := .held
    holds := if b.mode == .running then b.holds + 1 else b.holds
    bankPlans := b.bankPlans.filter (fun y => !(y.core == k && y.freeze == t))
    bankHeld := longerHold b.bankHeld x }

theorem exec_bankHold (hb : bayOfCore s (coreNo k) = some (i, b)) (ht : t + 1 = b.count)
    (hx : b.bankPlans.filter (fun y => y.core == coreNo k && y.freeze == t) = [x])
    (hm : b.mode = .held ∨ (b.mode = .running ∧ bayQuiet s b b.count = true)) :
    exec (.bankHold k t) s = .next (settleHold i (bankStall i x (setBay i (bankHeldBay s (coreNo k) t x b) s))) := by
  have hgo : ¬(false || !(b.mode == .running || b.mode == .held) || decide (t + 1 ≠ b.count)
      || (b.mode == .running && !bayQuiet s b b.count)) = true := by
    obtain hm | ⟨hm, hq⟩ := hm
    · simp [ht, hm]
    · simp [ht, hm, hq]
  show execBankHold k t s = _
  unfold execBankHold
  rw [hb]
  dsimp only
  rw [hx]
  exact if_neg hgo

/-- The trap of a bank stall. -/
def stallTrap (s : State) (x : BankHoldPlan) : Trap :=
  ⟨6, x.core, x.bank, x.idx, pageIn (coreOf s x.core) x.freeze, x.freeze, x.periods⟩

/-- A bay that has trapped: the table takes 16 traps and counts the others as lost. -/
def trapped (r : Trap) (b : Bay) : Bay :=
  let b := if b.traps.length < 16 then { b with traps := b.traps ++ [r] } else { b with trapsLost := b.trapsLost + 1 }
  { b with conds := if b.conds.contains .trap then b.conds else b.conds ++ [.trap] }

theorem bankStall_counts (hb : bayOf s i = some b) (hh : b.hazard = false) :
    bankStall i x s
      = modCore x.core (fun c => { c with st := { c.st with bankHolds := satInc 255 c.st.bankHolds } }) s := by
  rw [bankStall, hb]
  exact if_neg (Bool.eq_false_iff.mp hh)

theorem bankStall_traps (hb : bayOf s i = some b) (hh : b.hazard = true) :
    bankStall i x s = setBay i (trapped (stallTrap s x) b) s := by
  rw [bankStall, hb]
  exact if_pos hh

theorem trapped_conds (r : Trap) (b : Bay) :
    (trapped r b).conds = if b.conds.contains .trap then b.conds else b.conds ++ [.trap] := by
  unfold trapped
  split <;> rfl

theorem trapped_mem (r : Trap) (b : Bay) : HoldCond.trap ∈ (trapped r b).conds := by
  rw [trapped_conds]
  split
  · exact List.contains_iff_mem.mp ‹_›
  · exact List.mem_append_right _ List.mem_cons_self

/-- A trap changes what a bay records of its traps and its conditions alone. -/
theorem trapped_eq (r : Trap) (b : Bay) : trapped r b = { b with
    traps := (trapped r b).traps, trapsLost := (trapped r b).trapsLost, conds := (trapped r b).conds } := by
  unfold trapped
  split <;> rfl

theorem trapped_room (r : Trap) (h : b.traps.length < 16) : (trapped r b).traps = b.traps ++ [r] := by
  rw [trapped, if_pos h]

theorem trapped_full (r : Trap) (h : 16 ≤ b.traps.length) : (trapped r b).trapsLost = b.trapsLost + 1 := by
  rw [trapped, if_neg (Nat.not_lt.mpr h)]

/-- The HOST condition of a trap is never met: it stays when the hold sees its conditions. -/
theorem trap_evalConds {b' : Bay} {l : List HoldCond} (hb : bayOf s i = some b') (h : .trap ∈ l) : .trap ∈ (evalConds i l s).1 := by
  induction l generalizing s with
  | nil => cases h
  | cons c cs ih =>
    rw [evalConds, hb]
    dsimp only
    by_cases hc : condMet s b' c = true
    · rw [if_pos hc]
      have hne : c ≠ .trap := by
        rintro rfl
        exact Bool.false_ne_true hc
      exact ih (hb := (bayOf_of_bays ((within_claimCond (S := [.cores, .xings]) (Covers.self _) (Within.refl _ s)).frame
        .bays (by decide)) i).trans hb) ((List.mem_cons.mp h).resolve_left (Ne.symm hne))
    · rw [if_neg hc]
      rcases List.mem_cons.mp h with rfl | h
      · exact List.mem_cons_self
      · exact List.mem_cons_of_mem _ (ih hb h)

theorem trap_condsLeft (hb : bayOf s i = some b) (h : .trap ∈ b.conds) : .trap ∈ condsLeft i b s := by
  refine List.mem_filter.mpr ⟨h, ?_⟩
  by_cases hn : HoldCond.trap ∈ holdsNow b
  · rw [List.contains_iff_mem.mpr (trap_evalConds hb hn), Bool.or_true]
  · rw [Bool.or_eq_true, Bool.not_eq_true']
    exact Or.inl (Bool.eq_false_iff.mpr fun hc => hn (List.contains_iff_mem.mp hc))

/-- What a bank stall does to the bay: with the hazard detector it traps. -/
theorem bankStall_bay (hb : bayOf s i = some b) (x : BankHoldPlan) :
    ∃ traps lost conds, bayOf (bankStall i x s) i = some { b with traps := traps, trapsLost := lost, conds := conds }
      ∧ (b.hazard = false → traps = b.traps ∧ conds = b.conds)
      ∧ (b.hazard = true → .trap ∈ conds ∧ (b.traps.length < 16 → traps = b.traps ++ [stallTrap s x])
          ∧ (16 ≤ b.traps.length → lost = b.trapsLost + 1)) := by
  obtain hh | hh := Bool.eq_false_or_eq_true b.hazard
  · refine ⟨_, _, _, ?_, fun h => absurd (h.symm.trans hh) Bool.false_ne_true,
      fun _ => ⟨trapped_mem (stallTrap s x) b, trapped_room _, trapped_full (stallTrap s x)⟩⟩
    rw [bankStall_traps hb hh, bayOf_setBay_same, ← trapped_eq]
  · refine ⟨b.traps, b.trapsLost, b.conds, ?_, fun _ => ⟨rfl, rfl⟩, fun h => absurd (hh.symm.trans h) Bool.false_ne_true⟩
    rw [bankStall_counts hb hh]
    exact hb

theorem bankStall_bay_ne (h : j ≠ i) : bayOf (bankStall i x s) j = bayOf s j := by
  unfold bankStall
  split
  · rfl
  · split
    · exact bayOf_setBay_ne _ _ h
    · rfl

/-- What a bank stall does to the cores: without the hazard detector it counts in BANK_HOLDS. -/
theorem bankStall_core (hb : bayOf s i = some b) (x : BankHoldPlan) :
    (b.hazard = false → (coreOf (bankStall i x s) x.core).st = { (coreOf s x.core).st with
        bankHolds := satInc 255 (coreOf s x.core).st.bankHolds })
      ∧ (b.hazard = true → ∀ j, coreOf (bankStall i x s) j = coreOf s j)
      ∧ ∀ j, { coreOf (bankStall i x s) j with st := statusZero } = { coreOf s j with st := statusZero } := by
  obtain hh | hh := Bool.eq_false_or_eq_true b.hazard
  · rw [bankStall_traps hb hh]
    exact ⟨fun h => absurd (h.symm.trans hh) Bool.false_ne_true, fun _ _ => rfl, fun _ => rfl⟩
  · rw [bankStall_counts hb hh]
    refine ⟨fun _ => by rw [coreOf_modCore_same], fun h => absurd (hh.symm.trans h) Bool.false_ne_true, fun j => ?_⟩
    by_cases hj : j = x.core
    · rw [hj, coreOf_modCore_same]
    · rw [coreOf_modCore_ne _ _ hj]

theorem condsLeft_subset {h : HoldCond} (hh : h ∈ condsLeft i b s) : h ∈ b.conds := List.mem_of_mem_filter hh

theorem sansHolds_claimed_st {c d : Core} (h : Claimed c d) (z : CoreStatus) :
    sansHolds { d with st := z } = sansHolds { c with st := z } := by
  obtain ⟨_, _, _, rfl⟩ := h
  rfl

/-! ### FAULT_HOLD (R269) -/

/-- The cycle that a bay records when it enters fault hold. -/
def faultLast (b : Bay) : Nat := if b.mode == .loaded then 2 ^ 64 - 1 else b.count - 1

/-- A core as its bay enters fault hold. -/
def faultCore (b : Bay) (c : Core) : Core := { freezeWrites b.count (settleMarks b.count c) with frozeAt := some (faultLast b) }

/-- A bay as it enters fault hold. -/
def faultBayOf (s : State) (b : Bay) : Bay :=
  { beginFreeze s b with
    mode := .faultHold, conds := [], freezeDue := none, bankPlans := [], bankHeld := none, faultDue := none
    faultCycle := some (faultLast b)
    stop := if b.mode == .draining then none else b.stop }

/-- The state in which a bay stands in fault hold, before what was pending completes. -/
def faultHeld (i : Nat) (b : Bay) (s : State) : State :=
  setBay i (faultBayOf (modCores b (faultCore b) s) b) (modCores b (faultCore b) s)

/-- A drain that a fault ends completes its command. -/
def faultStop (b : Bay) (s : State) : State :=
  match b.stop with
  | some q => if b.mode == .draining then completeOpt q.cmd stFault 0 s else s
  | none => s

/-- The event of a fault hold. -/
def faultEvent (i : Nat) (b : Bay) : EventRec :=
  { evBay 0x0201 i b.part b.fault (faultLast b) with
    cx := coreX (b.faultCore.getD (bayHead b)), cy := coreY (b.faultCore.getD (bayHead b)) }

/-- The state of a bay's entry into fault hold that its event is raised in. -/
def faultEffect (i : Nat) (b : Bay) (s : State) : State := dropChange i stFault (faultStop b (faultHeld i b s))

theorem enterFaultHold_eq (hb : bayOf s i = some b) :
    enterFaultHold i s = autoStop i (raise1 (faultEvent i b) (faultEffect i b s)) := by
  rw [enterFaultHold, hb]
  rfl

theorem exec_faultHold (hb : bayOf s p.val = some b) (hn : b.faultDue = some n)
    (h : ((b.mode = .running ∨ b.mode = .draining) ∧ (5 ≤ b.fault ∨ (n < b.count ∧ bayQuiet (atTime time s) b b.count = true)))
      ∨ b.mode = .held ∨ b.mode = .loaded ∨ b.mode = .done) :
    exec (.faultHold p time) s
      = .next (autoStop p.val (raise1 (faultEvent p.val b) (faultEffect p.val b (atTime time s)))) := by
  rw [← enterFaultHold_eq (show bayOf (atTime time s) p.val = some b from hb)]
  show execFaultHold p time s = _
  unfold execFaultHold
  refine bayEvent_due hb ?_
  rw [hn]
  dsimp only
  obtain ⟨hm | hm, hq⟩ | hm | hm | hm := h <;> rw [hm]
  · simpa using hq
  · simpa using hq

theorem faultStop_bays (b : Bay) (s : State) : (faultStop b s).bays = s.bays := by
  unfold faultStop
  split
  · split
    · exact completeOpt_bays _ _ _ _
    · rfl
  · rfl

theorem faultStop_cores (b : Bay) (s : State) : (faultStop b s).cores = s.cores := by
  unfold faultStop
  split
  · split
    · exact completeOpt_cores _ _ _ _
    · rfl
  · rfl

theorem bayOf_faultHeld (i : Nat) (b : Bay) (s : State) : bayOf (faultHeld i b s) i = some (faultBayOf s b) := by
  rw [faultHeld, bayOf_setBay_same, faultBayOf, beginFreeze_congr (modCores_now _ _ _)]
  rfl

theorem bayOf_faultEffect (b : Bay) (s : State) :
    bayOf (faultEffect i b s) i = some { faultBayOf s b with change := none } :=
  bayOf_dropChange stFault ((bayOf_of_bays (faultStop_bays b _) i).trans (bayOf_faultHeld i b s))

theorem bayOf_faultEffect_ne (h : j ≠ i) : bayOf (faultEffect i b s) j = bayOf s j := by
  rw [faultEffect, bayOf_dropChange_ne _ h, bayOf_of_bays (faultStop_bays _ _), faultHeld, bayOf_setBay_ne _ _ h,
    bayOf_of_bays (modCores_bays _ _ _)]

theorem coreOf_faultEffect {k : Nat} (hk : k ∈ bayCores b) (i : Nat) (s : State) :
    (coreOf (faultEffect i b s) k).frozeAt = some (faultLast b) := by
  rw [faultEffect, coreOf_of_cores (dropChange_cores _ _ _), coreOf_of_cores (faultStop_cores _ _)]
  exact coreOf_modCores_mem (f := faultCore b) (R := fun _ d => d.frozeAt = some (faultLast b)) (fun _ => rfl) (fun _ _ _ => rfl) hk s

/-- With no point change and no stop under way, nothing completes. -/
theorem faultEffect_plain (hc : b.change = none) (hq : b.stop = none) : faultEffect i b s = faultHeld i b s := by
  have hstop : faultStop b (faultHeld i b s) = faultHeld i b s := by rw [faultStop, hq]
  rw [faultEffect, hstop, dropChange_none (bayOf_faultHeld i b s) hc]

/-- With no point change under way, the command of a drain completes with FAULT. -/
theorem faultEffect_draining {q : StopReq} (hm : b.mode = .draining) (hc : b.change = none) (hq : b.stop = some q) :
    faultEffect i b s = completeOpt q.cmd stFault 0 (faultHeld i b s) := by
  have hstop : faultStop b (faultHeld i b s) = completeOpt q.cmd stFault 0 (faultHeld i b s) := by
    rw [faultStop, hq]
    exact if_pos (beq_iff_eq.mpr hm)
  rw [faultEffect, hstop]
  exact dropChange_none ((bayOf_of_bays (completeOpt_bays _ _ _ _) i).trans (bayOf_faultHeld i b s)) hc

theorem within_faultHeld (i : Nat) (b : Bay) (s : State) : Within [.bays, .cores] s (faultHeld i b s) :=
  within_setBay ((Covers.self _).mono (by decide)) (within_modCores ((Covers.self _).mono (by decide)) (Within.refl _ s))

/-! ### Stops of a partition's own (R451, R481) -/

/-- A bay that must stop takes a stop, and changes in nothing else. -/
theorem bayOf_autoStop (hb : bayOf s i = some b) : ∃ r, bayOf (autoStop i s) i = some { b with stop := r } := by
  rw [autoStop, hb]
  dsimp only
  split
  · obtain ⟨_, hbegun⟩ := bayOf_beginStop i b none false none s
    exact ⟨_, hbegun⟩
  · exact ⟨b.stop, hb⟩

theorem bayOf_autoStop_ne (h : j ≠ i) : bayOf (autoStop i s) j = bayOf s j := by
  unfold autoStop
  split
  · rfl
  · split
    · exact bayOf_beginStop_ne h
    · rfl

theorem autoStop_cores (i : Nat) (s : State) : (autoStop i s).cores = s.cores :=
  (within_autoStop (S := [.host, .inProgress, .mgmt, .bays, .hostMem]) (Covers.self _) (Within.refl _ s)).frame .cores (by decide)

/-- A stop that no other gives way to completes nothing. -/
theorem autoStop_first (hb : bayOf s i = some b) (hq : b.stop = none) : OnlyChanges [.bays] s (autoStop i s) := by
  rw [autoStop, hb]
  dsimp only
  split
  · rw [beginStop_first hq]
    exact (within_setBay (Covers.self _) (Within.refl _ s)).frame
  · exact (Within.refl [.bays] s).frame

/-! ### What FAULT_HOLD reports and completes (R269, R270) -/

theorem bayOf_faultRaised (i : Nat) (b : Bay) (s : State) :
    bayOf (raise1 (faultEvent i b) (faultEffect i b s)) i = some { faultBayOf s b with change := none } :=
  (bayOf_of_bays (raise1_bays _ _) i).trans (bayOf_faultEffect b s)

theorem faultHold_raises {e : EventRec} (hc : b.change = none) (hq : b.stop = none) (he : faultEvent i b = e) (s : State) :
    Raises e s (autoStop i (raise1 (faultEvent i b) (faultEffect i b s))) := by
  subst he
  have hstop : (faultBayOf s b).stop = none := by
    rw [faultBayOf, hq, ite_self]
  have hmid := within_faultHeld i b s
  have hend := autoStop_first (bayOf_faultRaised i b s) hstop
  rw [faultEffect_plain hc hq] at hend ⊢
  exact ⟨faultHeld i b s, hmid.frame .ev (by decide), hmid.frame .host (by decide), hmid.frame .hostMem (by decide),
    hmid.frame .fw (by decide), ((hend .now (by decide)).trans (raise1_now _ _)).symm, hend .ev (by decide),
    hend .hostMem (by decide), congrArg FwState.latched (hend .fw (by decide))⟩

theorem faultHold_completes {q : StopReq} {c : Cmd} (hm : b.mode = .draining) (hc : b.change = none) (hq : b.stop = some q)
    (hcmd : q.cmd = some c) (i : Nat) (s : State) :
    (autoStop i (raise1 (faultEvent i b) (faultEffect i b s))).inProgress
      = (complete c stFault 0 (faultHeld i b s)).inProgress := by
  have hstop : (faultBayOf s b).stop = none := if_pos (beq_iff_eq.mpr hm)
  have hend := autoStop_first (bayOf_faultRaised i b s) hstop
  calc _ = (raise1 (faultEvent i b) (faultEffect i b s)).inProgress := hend .inProgress (by decide)
    _ = (faultEffect i b s).inProgress := raise1_inProgress _ _
    _ = _ := by rw [faultEffect_draining hm hc hq, hcmd]; rfl

end Sys2Proof.BayFamily

/-! ## The end of a stop (R268) -/

namespace Sys2Proof.BayFamily

open Machine Laws SequencerFamily ScratchpadFamily

variable {b : Bay} {p : BayId} {i j k n t time : Nat} {q : StopReq} {s u : State}

/-- What a core keeps while its stop empties it: its image and tags, and the epoch that every cycle sees. -/
structure EpochKept (c d : Core) : Prop where
  image : d.image = c.image
  tags : d.tags = c.tags
  epoch : d.seq.epoch = c.seq.epoch
  marks : d.seq.marks = c.seq.marks

theorem EpochKept.refl (c : Core) : EpochKept c c := ⟨rfl, rfl, rfl, rfl⟩

theorem EpochKept.trans {c d e : Core} (h : EpochKept c d) (h' : EpochKept d e) : EpochKept c e :=
  ⟨h'.image.trans h.image, h'.tags.trans h.tags, h'.epoch.trans h.epoch, h'.marks.trans h.marks⟩

theorem EpochKept.epochAt {c d : Core} (h : EpochKept c d) (t : Nat) : epochAt d t = epochAt c t := by
  rw [Machine.epochAt, Machine.epochAt, h.epoch, h.marks]

/-- A core whose access engine gives up what it has under way. -/
def abandonedCore (t : Nat) (c : Core) : Core := { c with ax := { c.ax with started := [], bursts := [], idleAt := t } }

theorem abandonAccess_core (b : Bay) (s : State) (j : Nat) : EpochKept (coreOf s j) (coreOf (abandonAccess b s) j) :=
  coreOf_modCores (f := abandonedCore b.count) EpochKept.refl EpochKept.trans (fun _ => ⟨rfl, rfl, rfl, rfl⟩) b s j

theorem abandonAccess_abandons (hk : k ∈ bayCores b) (s : State) :
    (coreOf (abandonAccess b s) k).ax.started = [] ∧ (coreOf (abandonAccess b s) k).ax.bursts = [] :=
  coreOf_modCores_mem (R := fun _ d => d.ax.started = [] ∧ d.ax.bursts = []) (f := abandonedCore b.count) (fun _ => ⟨rfl, rfl⟩)
    (fun _ _ _ => ⟨rfl, rfl⟩) hk s

theorem within_abandoned (b : Bay) (s : State) : Within [.cores] s (abandonAccess b s) :=
  within_abandonAccess (Covers.self _) (Within.refl _ s)

/-- A core whose bay has stopped at an epoch. -/
structure StoppedAt (e : BitVec 4) (c d : Core) : Prop where
  epoch : d.seq.epoch = e
  marks : d.seq.marks = []
  queues : d.seq.queues = copies 4 []
  image : d.image = c.image
  tags : d.tags = c.tags
  ax : d.ax = c.ax

/-- A core as its bay stops at an epoch. -/
def stoppedCore (t : Nat) (e : BitVec 4) (c : Core) : Core :=
  let c := freezeWrites t (settleMarks t (settleFlags t (settleCounters t c)))
  { c with
    seq := { c.seq with queues := copies 4 [], epoch := e, marks := [] }
    st := { c.st with staleTokens := satInc 4095 c.st.staleTokens (c.seq.queues.foldl (fun n q => n + q.length) 0) } }

theorem stoppedCore_stopped (t : Nat) (e : BitVec 4) (c : Core) : StoppedAt e c (stoppedCore t e c) := by
  obtain ⟨htags, -, himage, hax⟩ := settleMarks_keeps t (settleFlags t (settleCounters t c))
  exact ⟨rfl, rfl, rfl, himage, htags, hax⟩

/-- The epoch that a bay's cores take when it stops. -/
def stopEpochOf (s : State) (b : Bay) : BitVec 4 := epochAt (coreOf s (bayHead b)) b.count + 1

/-- A bay that has stopped. -/
def stoppedBay (s : State) (b : Bay) : Bay :=
  { endFreeze s b with
    mode := .stopped, conds := [], freezeDue := none, bankPlans := [], bankHeld := none, faultDue := none, stop := none }

theorem stopEpoch_eq (hb : bayOf s i = some b) :
    stopEpoch i s = setBay i (stoppedBay s b) (modCores b (stoppedCore b.count (stopEpochOf s b)) s) := by
  rw [stoppedBay, ← endFreeze_congr (modCores_now b (stoppedCore b.count (stopEpochOf s b)) s), stopEpoch, hb]
  rfl

theorem bayOf_stopEpoch (hb : bayOf s i = some b) : bayOf (stopEpoch i s) i = some (stoppedBay s b) := by
  rw [stopEpoch_eq hb, bayOf_setBay_same]

theorem bayOf_stopEpoch_ne (hb : bayOf s i = some b) (h : j ≠ i) : bayOf (stopEpoch i s) j = bayOf s j := by
  rw [stopEpoch_eq hb, bayOf_setBay_ne _ _ h, bayOf_of_bays (modCores_bays _ _ _)]

theorem stopEpoch_core (hb : bayOf s i = some b) (hk : k ∈ bayCores b) :
    StoppedAt (stopEpochOf s b) (coreOf s k) (coreOf (stopEpoch i s) k) := by
  rw [stopEpoch_eq hb]
  refine coreOf_modCores_mem (R := StoppedAt (stopEpochOf s b)) (stoppedCore_stopped _ _) (fun c d h => ?_) hk s
  obtain ⟨hepoch, hmarks, hqueues, himage, htags, hax⟩ := stoppedCore_stopped b.count (stopEpochOf s b) d
  exact ⟨hepoch, hmarks, hqueues, himage.trans h.image, htags.trans h.tags, hax.trans h.ax⟩

theorem stopEpoch_core_not_mem (hb : bayOf s i = some b) (hk : k ∉ bayCores b) : coreOf (stopEpoch i s) k = coreOf s k := by
  rw [stopEpoch_eq hb]
  exact coreOf_modCores_not_mem _ hk s

theorem within_stoppedEpoch (i : Nat) (s : State) : Within [.bays, .cores] s (stopEpoch i s) :=
  within_stopEpoch (Covers.self _) (Within.refl _ s)

theorem endRemoval_none (h : s.host.removing = none) : endRemoval s = s := by rw [endRemoval, h]

/-- A stop that no load waits for completes with the epoch, where the panel is not being removed. -/
theorem endStop_eq (hb : bayOf s i = some b) (hq : b.stop = some q) (him : q.image = none) (hr : s.host.removing = none) :
    endStop i s = completeOpt q.cmd stOk (headEpoch (stopEpoch i s) b) (stopEpoch i s) := by
  have hafter : afterStop i b.part q (stopEpoch i s) = completeOpt q.cmd stOk (headEpoch (stopEpoch i s) b) (stopEpoch i s) := by
    rw [afterStop, bayOf_stopEpoch hb, him]
    cases q.cmd <;> rfl
  have hhost : (stopEpoch i s).host = s.host := (within_stoppedEpoch i s).frame .host (by decide)
  rw [endStop, hb]
  dsimp only
  rw [hq]
  dsimp only
  rw [hafter, endRemoval_none]
  rw [completeOpt_removing, hhost, hr]

/-! ### DRAIN_COMPLETE and DRAIN_OVERRUN -/

/-- The state in which a bay that has no cycle to drain is stopped. -/
def atOnce (i : Nat) (b : Bay) (s : State) : State :=
  abandonAccess b (closeXings b (modCores b coreStopped (dropChange i stBusy s)))

theorem atOnce_bays (i : Nat) (b : Bay) (s : State) : (atOnce i b s).bays = (dropChange i stBusy s).bays :=
  ((within_abandoned b _).frame .bays (by decide)).trans (modCores_bays b coreStopped _)

theorem atOnce_now (i : Nat) (b : Bay) (s : State) : (atOnce i b s).now = s.now :=
  ((within_abandoned b _).frame .now (by decide)).trans ((modCores_now b coreStopped _).trans (dropChange_now i stBusy s))

theorem atOnce_removing (i : Nat) (b : Bay) (s : State) : (atOnce i b s).host.removing = s.host.removing := by
  have hhost : (atOnce i b s).host = (dropChange i stBusy s).host :=
    ((within_abandoned b _).frame .host (by decide)).trans (modCores_host b coreStopped _)
  rw [hhost, dropChange_removing]

theorem atOnce_core (i : Nat) (b : Bay) (s : State) (j : Nat) : EpochKept (coreOf s j) (coreOf (atOnce i b s) j) := by
  have hstopped : EpochKept (coreOf s j) (coreOf (closeXings b (modCores b coreStopped (dropChange i stBusy s))) j) := by
    rw [closeXings_core, ← coreOf_of_cores (dropChange_cores i stBusy s)]
    exact coreOf_modCores (f := coreStopped) EpochKept.refl EpochKept.trans (fun _ => ⟨rfl, rfl, rfl, rfl⟩) b _ j
  exact hstopped.trans (abandonAccess_core b _ j)

theorem atOnce_core_not_mem (hk : k ∉ bayCores b) : coreOf (atOnce i b s) k = coreOf s k := by
  rw [atOnce, abandonAccess, coreOf_modCores_not_mem _ hk, closeXings_core, coreOf_modCores_not_mem _ hk,
    coreOf_of_cores (dropChange_cores i stBusy s)]

theorem stopAtOnce_eq (hb : bayOf s i = some b) : stopAtOnce i s = endStop i (atOnce i b s) := by
  rw [stopAtOnce, hb]
  rfl

theorem exec_drainComplete (hb : bayOf s p.val = some b) (hdue : drainIsDone b (atTime time s) = true) :
    exec (.drainComplete p time) s
      = .next (if b.mode = .draining then endStop p.val (atTime time s) else stopAtOnce p.val (atTime time s)) := by
  show execDrainComplete p time s = _
  unfold execDrainComplete
  exact bayEvent_due hb hdue

theorem drainIsDone_of (hq : b.stop = some q)
    (h : b.mode = .done ∨ b.mode = .faultHold ∨ (b.mode = .draining ∧ bayQuiet s b b.count = true ∧ drainFrom s b + 256 ≤ b.count
      ∧ ∀ k, k ∈ bayCores b → enginesIdle (coreOf s k) b.count = true ∧ accessDrained (coreOf s k) = true)) :
    drainIsDone b s = true := by
  unfold drainIsDone
  rw [hq]
  obtain hm | hm | ⟨hm, hquiet, hfrom, hcores⟩ := h
  · rw [hm]
    rfl
  · rw [hm]
    rfl
  · have hall : (bayCores b).all (fun k => enginesIdle (coreOf s k) b.count && accessDrained (coreOf s k)) = true :=
      List.all_eq_true.mpr fun k hk => (Bool.and_eq_true _ _).mpr (hcores k hk)
    rw [hm, hquiet, hall, decide_eq_true hfrom]
    rfl

/-- DRAIN_COMPLETE ends the stop from a state in which the bay stands as it did, but for a point change, and in which no core
has lost its epoch, its image or its tags. -/
theorem exec_drainComplete_ends (hb : bayOf s p.val = some b) (hdue : drainIsDone b (atTime time s) = true) :
    ∃ w change, exec (.drainComplete p time) s = .next (endStop p.val w) ∧ bayOf w p.val = some { b with change := change }
      ∧ w.now = (atTime time s).now ∧ w.host.removing = (atTime time s).host.removing
      ∧ (∀ j, EpochKept (coreOf s j) (coreOf w j)) ∧ (∀ j, j ∉ bayCores b → coreOf w j = coreOf s j)
      ∧ ∀ j, j ≠ p.val → bayOf w j = bayOf s j := by
  have hbu : bayOf (atTime time s) p.val = some b := hb
  rw [exec_drainComplete hb hdue]
  by_cases hm : b.mode = .draining
  · rw [if_pos hm]
    exact ⟨_, b.change, rfl, hbu, rfl, rfl, fun _ => EpochKept.refl _, fun _ _ => rfl, fun _ _ => rfl⟩
  · rw [if_neg hm, stopAtOnce_eq hbu]
    refine ⟨_, none, rfl, (bayOf_of_bays (atOnce_bays _ _ _) _).trans (bayOf_dropChange stBusy hbu), atOnce_now _ _ _,
      atOnce_removing _ _ _, atOnce_core p.val b (atTime time s), fun j hj => atOnce_core_not_mem hj, fun j hj => ?_⟩
    rw [bayOf_of_bays (atOnce_bays _ _ _), bayOf_dropChange_ne _ hj]
    rfl

/-- The state in which the drain bound of a bay has passed. -/
def overrunState (i : Nat) (b : Bay) (s : State) : State :=
  raise1 (evBay 0x0204 i b.part 0 (b.count - 1)) (setBay i { b with overrun := true } s)

theorem exec_drainOverrun (hb : bayOf s p.val = some b) (hm : b.mode = .draining) (hq : b.stop = some q)
    (ht : q.since + 1000 * b.drainBound ≤ (atTime time s).now) :
    exec (.drainOverrun p time) s
      = .next (endStop p.val (abandonAccess b (overrunState p.val b (atTime time s)))) := by
  show execDrainOverrun p time s = _
  unfold execDrainOverrun
  refine bayEvent_due hb ?_
  rw [hm, hq]
  exact decide_eq_true ht

/-! What the drain bound leaves of the bay and its cores, before its stop ends. -/

theorem bayOf_overrun (i : Nat) (b : Bay) (s : State) :
    bayOf (abandonAccess b (overrunState i b s)) i = some { b with overrun := true } := by
  rw [bayOf_of_bays ((within_abandoned b _).frame .bays (by decide)), overrunState, bayOf_of_bays (raise1_bays _ _),
    bayOf_setBay_same]

theorem bayOf_overrun_ne (h : j ≠ i) : bayOf (abandonAccess b (overrunState i b s)) j = bayOf s j := by
  rw [bayOf_of_bays ((within_abandoned b _).frame .bays (by decide)), overrunState, bayOf_of_bays (raise1_bays _ _),
    bayOf_setBay_ne _ _ h]

theorem overrun_removing (i : Nat) (b : Bay) (s : State) :
    (abandonAccess b (overrunState i b s)).host.removing = s.host.removing :=
  (congrArg HostPort.removing ((within_abandoned b (overrunState i b s)).frame .host (by decide))).trans (raise1_removing _ _)

theorem overrun_core (i : Nat) (b : Bay) (s : State) (j : Nat) :
    EpochKept (coreOf s j) (coreOf (abandonAccess b (overrunState i b s)) j) := by
  have hraised : coreOf (overrunState i b s) j = coreOf s j := coreOf_of_cores (raise1_cores _ _) j
  exact hraised ▸ abandonAccess_core b (overrunState i b s) j

theorem within_overrunStopped (i : Nat) (b : Bay) (s : State) :
    Within [.bays, .cores] (overrunState i b s) (stopEpoch i (abandonAccess b (overrunState i b s))) :=
  within_stopEpoch (Covers.self _) (within_abandonAccess ((Covers.self _).mono (by decide)) (Within.refl _ _))

/-! ### The bay and its cores after a stop -/

theorem frozenNow_congr (h : u.now = s.now) (b : Bay) : frozenNow u b = frozenNow s b := by
  rw [frozenNow, frozenNow, h]

/-- A bay's cores after its stop, seen from a state in which no core had lost its epoch. -/
theorem stopEpoch_core_of {change : Option PointChange} {late : Bool}
    (hb : bayOf u i = some { b with change := change, overrun := late }) (hkept : ∀ j, EpochKept (coreOf s j) (coreOf u j))
    (hk : k ∈ bayCores b) :
    StoppedAt (epochAt (coreOf s (bayHead b)) b.count + 1) (coreOf u k) (coreOf (stopEpoch i u) k) := by
  rw [← (hkept _).epochAt]
  exact stopEpoch_core (b := { b with change := change, overrun := late }) hb hk

end Sys2Proof.BayFamily

/-! ## Settlement of O34 -/

namespace Sys2Proof.BayFamily

open Machine Laws SequencerFamily ScratchpadFamily

variable {b : Bay} {p : BayId} {i j n t time : Nat} {q : StopReq} {x : BankHoldPlan} {s u : State}

/-- Settles O34. A droop and a bank hold are one change of the bay; when the hold then sees its conditions, some of them go, but
never that of a trap. A stop that ends takes its epoch from cores that have kept theirs so far, whichever way the drain ended. -/
theorem baysSlowStopAndFault : Obligations.BaysSlowStopAndFault := by
  refine ⟨fun k t i b s hb ht => ⟨fun level hl hm hd => exec_droop hb ht hl hm hd, fun x hx hm => ?bank⟩,
    fun p time b s hb => ?events⟩
  case bank =>
    have hmem : x ∈ b.bankPlans.filter (fun y => y.core == coreNo k && y.freeze == t) := hx ▸ List.mem_cons_self
    obtain ⟨hcore, hfreeze⟩ := (Bool.and_eq_true _ _).mp (List.mem_filter.mp hmem).2
    have hcore : x.core = coreNo k := beq_iff_eq.mp hcore
    have hfreeze : x.freeze = t := beq_iff_eq.mp hfreeze
    have hbay := bayOf_setBay_same s i (bankHeldBay s (coreNo k) t x b)
    obtain ⟨traps, lost, conds, hstall, hcounts, htraps⟩ := bankStall_bay hbay x
    obtain ⟨hst, hsame, hsans⟩ := bankStall_core hbay x
    rw [hcore] at hst
    have hclaims := claims_settleHold i (bankStall i x (setBay i (bankHeldBay s (coreNo k) t x b) s))
    refine ⟨_, _, exec_bankHold hb ht hx hm, bayOf_settleHold hstall rfl, rfl, rfl, rfl, ?_, fun hmem => ?_, fun hnone => ?_,
      fun hh => ?_, fun hh => ?_, fun j hj => ?_, fun j => ?_⟩
    · simp only [bankHeldBay, beq_iff_eq]
    · have hgone := (List.mem_filter.mp hmem).2
      rw [hcore, hfreeze, beq_self_eq_true, beq_self_eq_true] at hgone
      exact Bool.false_ne_true hgone
    · show longerHold b.bankHeld x = some x
      rw [hnone]
      rfl
    · obtain ⟨rfl, rfl⟩ := hcounts hh
      exact ⟨rfl, fun h hin => condsLeft_subset hin, (FabricFamily.st_claimed (hclaims _)).trans (hst hh)⟩
    · obtain ⟨htrap, hroom, hfull⟩ := htraps hh
      exact ⟨trap_condsLeft hstall htrap, (FabricFamily.st_claimed (hclaims _)).trans (congrArg Core.st (hsame hh _)),
        fun hlt => ⟨_, hroom hlt, rfl, hcore, rfl, hfreeze, rfl⟩, hfull⟩
    · rw [bayOf_settleHold_ne hj, bankStall_bay_ne hj, bayOf_setBay_ne _ _ hj]
    · rw [sansHolds_claimed_st (hclaims j), hsans j]
      rfl
  case events =>
    intro i u
    refine ⟨fun n hn hm => ?fault, fun q hq him hr hm => ?complete, fun q hq him hr hm ht => ?overrun⟩
    case fault =>
      have hlast : faultLast b = if b.mode = .loaded then 2 ^ 64 - 1 else b.count - 1 := by
        simp only [faultLast, beq_iff_eq]
      obtain ⟨r, hx⟩ := bayOf_autoStop (bayOf_faultRaised i b u)
      refine ⟨_, _, exec_faultHold hb hn hm, hx, rfl, rfl, rfl, congrArg some hlast, rfl, rfl, rfl, rfl, rfl, fun j hj => ?_,
        fun j hj => ?_, fun hc hq => ?_, fun q c hmode hq hcmd hc _ => ⟨faultHeld i b u, faultHold_completes hmode hc hq hcmd i u,
          (within_faultHeld i b u).frame .inProgress (by decide)⟩⟩
      · rw [bayOf_autoStop_ne hj, bayOf_of_bays (raise1_bays _ _), bayOf_faultEffect_ne hj]
        rfl
      · rw [coreOf_of_cores (autoStop_cores _ _), coreOf_of_cores (raise1_cores _ _), coreOf_faultEffect hj, hlast]
      · exact faultHold_raises hc hq (by rw [faultEvent, hlast]) u
    case complete =>
      obtain ⟨w, change, hexec, hbw, hnow, hremoving, hkept, hothers, hbays⟩ := exec_drainComplete_ends hb (drainIsDone_of hq hm)
      refine ⟨stopEpoch i w, _, ?_, bayOf_stopEpoch hbw, rfl, rfl, rfl, rfl, rfl, frozenNow_congr hnow b, rfl, fun k hk => ?_,
        fun k hk => ?_, fun j hj => ?_⟩
      · rw [hexec, endStop_eq hbw hq him (hremoving.trans hr)]
        rfl
      · have h := stopEpoch_core_of hbw hkept hk
        exact ⟨h.epoch, h.queues, h.image.trans (hkept k).image, h.tags.trans (hkept k).tags⟩
      · rw [stopEpoch_core_not_mem hbw hk, hothers k hk]
      · rw [bayOf_stopEpoch_ne hbw hj, hbays j hj]
    case overrun =>
      have hbz := bayOf_overrun i b u
      have hkept := overrun_core i b u
      have hwithin := (within_overrunStopped i b u).frame
      refine ⟨stopEpoch i (abandonAccess b (overrunState i b u)), overrunState i b u, _, ?_, rfl, hwithin .ev (by decide),
        hwithin .host (by decide), hwithin .hostMem (by decide), bayOf_stopEpoch hbz, rfl, rfl, rfl, rfl, fun k hk => ?_,
        fun j hj => ?_⟩
      · rw [exec_drainOverrun hb hm hq ht, endStop_eq hbz hq him ((overrun_removing i b u).trans hr)]
        rfl
      · have h := stopEpoch_core_of hbz hkept hk
        obtain ⟨hstarted, hbursts⟩ := abandonAccess_abandons hk (overrunState i b u)
        exact ⟨h.epoch, h.queues, h.ax ▸ hstarted, h.ax ▸ hbursts⟩
      · rw [bayOf_stopEpoch_ne hbz hj, bayOf_overrun_ne hj]
        rfl

end Sys2Proof.BayFamily

/-! Proofs of the family of the compiler contract: what a load changes, and what BAY_LOAD, BAY_RECONFIGURE and LOAD_REPORT_GET
answer (O35). -/

namespace Sys2Proof.ContractFamily

open Machine Laws SequencerFamily BayFamily

variable {c d e : Core} {s u v : State} {r : LoadReq} {im : Img} {i j k n : Nat} {b : Bay}

/-! ## Cores in order have nothing to prepare (R472, R542, R543) -/

/-- From `s` to `u` every core and every die buffer reads as before, and nothing else changes. -/
structure NothingNew (s u : State) : Prop where
  cores : ∀ k, coreOf u k = coreOf s k
  bufs : ∀ i, mapGetD u.bufs i bufferZero = mapGetD s.bufs i bufferZero
  frame : OnlyChanges [.cores, .bufs] s u

theorem NothingNew.refl (s : State) : NothingNew s s := ⟨fun _ => rfl, fun _ => rfl, fun p _ => same_refl p s⟩

theorem NothingNew.trans (h : NothingNew s u) (h' : NothingNew u v) : NothingNew s v :=
  ⟨fun k => (h'.cores k).trans (h.cores k), fun i => (h'.bufs i).trans (h.bufs i), only_trans h.frame h'.frame⟩

theorem activeMicro_congr (hboot : u.boot.banks = s.boot.banks) (hfp : u.fp = s.fp) : activeMicro u = activeMicro s := by
  rw [activeMicro, activeMicro, kingBanks, kingBanks, hboot, hfp]

theorem coreUsable_congr (h : u.fp = s.fp) (k : Nat) : coreUsable u k = coreUsable s k := by
  rw [coreUsable, coreUsable, entryAt_of_fp h]

theorem NothingNew.inOrder (h : NothingNew s u) (ho : CoresInOrder im s) : CoresInOrder im u := by
  obtain ⟨hcores, hbufs⟩ := ho
  have hfp : u.fp = s.fp := h.frame .fp (by decide)
  obtain ⟨hbanks, -⟩ : u.boot.banks = s.boot.banks ∧ u.boot.bankBad = s.boot.bankBad := h.frame .bootBanks (by decide)
  refine ⟨fun k hk => ?_, fun i hi => ?_⟩
  · rw [h.cores, activeMicro_congr hbanks hfp, coreUsable_congr hfp]
    exact hcores k hk
  · rw [h.bufs]
    exact hbufs i hi

theorem retestCore_rested (h : (coreOf s k).suspects = []) : NothingNew s (retestCore k s) := by
  have hself : { coreOf s k with suspects := [] } = coreOf s k := by rw [← h]
  have hret : retestCore k s = setCore k (coreOf s k) s := by
    rw [retestCore, h]
    show modCore k (fun c => { c with suspects := [] }) s = _
    rw [modCore, hself]
  rw [hret]
  refine ⟨fun j => ?_, fun _ => rfl, (within_setCore ((Covers.self _).mono (by decide)) (Within.refl _ s)).frame⟩
  by_cases hj : j = k
  · rw [hj, coreOf_setCore_same]
  · exact coreOf_setCore_ne s _ hj

theorem retestBuffer_rested (h : (mapGetD s.bufs i bufferZero).suspects = []) : NothingNew s (retestBuffer i s) := by
  have hself : { mapGetD s.bufs i bufferZero with suspects := [] } = mapGetD s.bufs i bufferZero := by rw [← h]
  have hret : retestBuffer i s = modBuf i (fun d => { d with suspects := [] }) s := by
    rw [retestBuffer, h]
    rfl
  rw [hret]
  refine ⟨fun _ => rfl, fun j => ?_, (within_modBuf ((Covers.self _).mono (by decide)) (Within.refl _ s)).frame⟩
  rw [modBuf, hself]
  by_cases hj : j = i
  · rw [hj]
    exact mapGetD_mapSet_same _ _ _ _
  · exact mapGetD_mapSet_ne _ _ _ _ hj

/-- A core in order is retested and its microcode stays. -/
theorem prepareCore_inOrder (ho : CoresInOrder im s) (hk : k ∈ imCores im) :
    NothingNew s (if (coreOf (retestCore k s) k).microcode = activeMicro (retestCore k s) then retestCore k s
      else loadMicro k (retestCore k s)) := by
  have hnew := retestCore_rested (ho.1 k hk).1
  rw [if_pos ((hnew.inOrder ho).1 k hk).2.1]
  exact hnew

theorem prepareCores_inOrder (ho : CoresInOrder (imgOf r.bytes) s) : NothingNew s (prepareCores r s) := by
  have hbufs : NothingNew s ((imSites (imgOf r.bytes)).foldl (fun s i => retestBuffer i s) s) :=
    List.foldlRecOn (motive := NothingNew s) _ _ (NothingNew.refl s) fun v hv i hi =>
      hv.trans (retestBuffer_rested ((hv.inOrder ho).2 i hi))
  exact List.foldlRecOn (motive := NothingNew s) _ _ hbufs fun v hv k hk => hv.trans (prepareCore_inOrder (hv.inOrder ho) hk)

/-! ## A load attempt (R289, R294) -/

theorem finishLoad_refused {x : LoadErr} (h : loadErr s r = some x) (i good bad : Nat) :
    finishLoad i r good bad s = complete r.cmd x.status bad (keepReport r x (r.bay.getD 0xFFFF) s) := by
  rw [finishLoad, tryLoad, h]

/-- What a load that passes its checks leaves before its command completes. -/
def loadedState (i : Nat) (r : LoadReq) (s : State) : State :=
  keepReport r (errStatus stOk) i (applyLoad i r (prepareCores r s))

theorem finishLoad_loads (h : loadErr s r = none) (ho : CoresInOrder (imgOf r.bytes) s) (i good bad : Nat) :
    finishLoad i r good bad s = complete r.cmd stOk good (loadedState i r s) := by
  have hgood : (imCores (imgOf r.bytes)).find? (fun k => !coreUsable (prepareCores r s) k) = none := by
    refine List.find?_eq_none.mpr fun k hk => ?_
    rw [(((prepareCores_inOrder ho).inOrder ho).1 k hk).2.2]
    exact Bool.false_ne_true
  rw [finishLoad, tryLoad, h]
  dsimp only
  rw [hgood]
  rfl

/-! ## What a load leaves of a core's image (R292) -/

/-- What later parts of a load leave of a core. -/
structure KeepsImage (c d : Core) : Prop where
  image : d.image = c.image
  tags : d.tags = c.tags
  epoch : d.seq.epoch = c.seq.epoch
  queues : d.seq.queues = c.seq.queues
  eng : d.eng = c.eng
  run : d.rt.run = c.rt.run
  microcode : d.microcode = c.microcode

theorem KeepsImage.refl (c : Core) : KeepsImage c c := ⟨rfl, rfl, rfl, rfl, rfl, rfl, rfl⟩

theorem KeepsImage.trans (h : KeepsImage c d) (h' : KeepsImage d e) : KeepsImage c e :=
  ⟨h'.image.trans h.image, h'.tags.trans h.tags, h'.epoch.trans h.epoch, h'.queues.trans h.queues, h'.eng.trans h.eng,
    h'.run.trans h.run, h'.microcode.trans h.microcode⟩

/-- From `s` to `u` every core keeps what a load gives it. -/
def KeepImages (s u : State) : Prop := ∀ k, KeepsImage (coreOf s k) (coreOf u k)

theorem KeepImages.refl (s : State) : KeepImages s s := fun _ => KeepsImage.refl _

theorem KeepImages.trans (h : KeepImages s u) (h' : KeepImages u v) : KeepImages s v := fun k => (h k).trans (h' k)

theorem KeepImages.of_cores (h : u.cores = s.cores) : KeepImages s u := fun k => by
  rw [coreOf_of_cores h]
  exact KeepsImage.refl _

theorem keepImages_foldl {α : Type} {f : State → α → State} (h : ∀ s a, KeepImages s (f s a)) (l : List α) (s : State) :
    KeepImages s (l.foldl f s) := ScratchpadFamily.related_foldl KeepImages.refl KeepImages.trans h l s

theorem keepImages_modCore {f : Core → Core} (h : ∀ c, KeepsImage c (f c)) (k : Nat) (s : State) :
    KeepImages s (modCore k f s) := ScratchpadFamily.onCores_modCore KeepsImage.refl h k s

theorem keepImages_writeImageRow (k row : Nat) (d : Row) (s : State) : KeepImages s (writeImageRow k row d s) := by
  refine keepImages_modCore (fun c => ?_) _ s
  exact ⟨rfl, rfl, rfl, rfl, rfl, rfl, rfl⟩

theorem keepImages_writeImageRows (im : Img) (k : Nat) (s : State) : KeepImages s (writeImageRows im k s) :=
  keepImages_foldl (fun s _ => keepImages_foldl (fun s _ => keepImages_writeImageRow _ _ _ s) _ s) _ s

theorem keepImages_countStale (k n : Nat) (s : State) : KeepImages s (countStale k n s) := by
  refine keepImages_modCore (fun c => ?_) k s
  exact ⟨rfl, rfl, rfl, rfl, rfl, rfl, rfl⟩

theorem keepImages_openXings (b : Bay) (s : State) : KeepImages s (openXings b s) :=
  (keepImages_foldl (fun s x => keepImages_countStale x.recv (staleEntries x) s) _ s).trans (KeepImages.of_cores rfl)

theorem keepImages_settleHolds (s : State) : KeepImages s (settleHolds s) := fun k => by
  obtain ⟨_, _, _, h⟩ := ScratchpadFamily.claims_settleHolds s k
  rw [h]
  exact ⟨rfl, rfl, rfl, rfl, rfl, rfl, rfl⟩

/-- Core `d` holds the image's part for core `k`, with what core `c` keeps through a load. -/
structure HoldsImage (im : Img) (k : Nat) (c d : Core) : Prop where
  image : d.image = imImage im k
  tags : d.tags = (imImage im k).slots.map tagLoaded
  epoch : d.seq.epoch = BitVec.ofNat 4 (imEpoch im.bytes)
  queues : d.seq.queues = coreZero.seq.queues
  banks : d.eng.banks = coreZero.eng.banks
  srState : d.eng.srState = c.eng.srState
  page : d.rt.run.page = (imImage im k).page0
  microcode : d.microcode = c.microcode

theorem coreLoaded_holds (im : Img) (k : Nat) (c : Core) : HoldsImage im k c (coreLoaded im k c) :=
  ⟨rfl, rfl, rfl, rfl, rfl, rfl, rfl, rfl⟩

/-- A core that is loaded again, as one that an image lists twice, holds the same. -/
theorem HoldsImage.again (h : HoldsImage im k c d) : HoldsImage im k c (coreLoaded im k d) :=
  ⟨rfl, rfl, rfl, rfl, rfl, h.srState, rfl, h.microcode⟩

theorem HoldsImage.kept (h : HoldsImage im k c d) (h' : KeepsImage d e) : HoldsImage im k c e :=
  ⟨h'.image.trans h.image, h'.tags.trans h.tags, h'.epoch.trans h.epoch, h'.queues.trans h.queues,
    (congrArg EngineState.banks h'.eng).trans h.banks, (congrArg EngineState.srState h'.eng).trans h.srState,
    (congrArg PegWalk.page h'.run).trans h.page, h'.microcode.trans h.microcode⟩

theorem HoldsImage.after (h : HoldsImage im k d e) (h' : KeepsImage c d) : HoldsImage im k c e :=
  ⟨h.image, h.tags, h.epoch, h.queues, h.banks, h.srState.trans (congrArg EngineState.srState h'.eng), h.page,
    h.microcode.trans h'.microcode⟩

/-! ## The parts of a load (R244, R263, R264, R292) -/

/-- The old bay of a handle, if any, gives up its crossings and what its cores were to write. -/
def oldDropped (r : LoadReq) (s : State) : State :=
  match reqBay s r with
  | some b => dropXings b (modCores b (freezeWrites b.count) s)
  | none => s

/-- The cores with their sections. -/
def coresLoaded (r : LoadReq) (s : State) : State :=
  (imCores (imgOf r.bytes)).foldl (fun s k => modCore k (coreLoaded (imgOf r.bytes) k) s) (oldDropped r s)

/-- The cores with their sections and the rows that the image supplies. -/
def rowsLoaded (r : LoadReq) (s : State) : State :=
  (imCores (imgOf r.bytes)).foldl (fun s k => writeImageRows (imgOf r.bytes) k s) (coresLoaded r s)

/-- The bay of an image, in which no cycle runs yet. -/
def newBay (r : LoadReq) (s : State) : Bay := { bayLoaded r (imgOf r.bytes) (reqBay s r) with idleSince := some s.now }

/-- The crossings of a bay are declared. -/
def xingsDeclared (i : Nat) (r : LoadReq) (s : State) : State :=
  (imXings (imgOf r.bytes)).foldl (fun s x => declareXing x s) (setBay i (newBay r s) (rowsLoaded r s))

theorem within_oldDropped (r : LoadReq) (s : State) : Within [.cores, .xings] s (oldDropped r s) := by
  unfold oldDropped
  split
  · exact within_dropXings ((Covers.self _).mono (by decide))
      (within_modCores ((Covers.self _).mono (by decide)) (Within.refl _ s))
  · exact Within.refl _ s

theorem within_rowsLoaded (r : LoadReq) (s : State) : Within [.cores, .xings] s (rowsLoaded r s) :=
  Within.foldl _ _ (fun _ _ h => within_writeImageRows ((Covers.self _).mono (by decide)) h)
    (Within.foldl _ _ (fun _ _ h => within_modCore ((Covers.self _).mono (by decide)) h) (within_oldDropped r s))

theorem within_declared (l : List XDesc) (s : State) : Within [.xings] s (l.foldl (fun s x => declareXing x s) s) :=
  Within.foldl _ _ (fun _ _ h => within_declareXing (Covers.self _) h) (Within.refl _ s)

theorem applyLoad_eq (i : Nat) (r : LoadReq) (s : State) :
    applyLoad i r s = settleHolds (openXings (newBay r s) (xingsDeclared i r s)) := by
  have hbay : beginIdle (rowsLoaded r s) (bayLoaded r (imgOf r.bytes) (reqBay s r)) = newBay r s := by
    rw [newBay, ← (within_rowsLoaded r s).frame .now (by decide)]
    rfl
  rw [xingsDeclared, ← hbay]
  rfl

/-! ### Bays -/

theorem opened_bays (i : Nat) (r : LoadReq) (s : State) :
    (openXings (newBay r s) (xingsDeclared i r s)).bays = (setBay i (newBay r s) (rowsLoaded r s)).bays :=
  ((within_openXings (S := [.cores, .xings]) (Covers.self _) (Within.refl _ _)).frame .bays (by decide)).trans
    ((within_declared _ _).frame .bays (by decide))

/-- Only held bays see their conditions. -/
theorem bayOf_settleHolds (hb : bayOf s i = some b) (hm : b.mode ≠ .held) : bayOf (settleHolds s) i = some b :=
  List.foldlRecOn (motive := fun v => bayOf v i = some b) _ _ hb fun v hv p _ => by
    by_cases hp : p.1 = i
    · rw [hp, settleHold_other hv hm]
      exact hv
    · rw [bayOf_settleHold_ne (Ne.symm hp)]
      exact hv

theorem bayOf_applyLoad (i : Nat) (r : LoadReq) (s : State) : bayOf (applyLoad i r s) i = some (newBay r s) := by
  rw [applyLoad_eq]
  refine bayOf_settleHolds ?_ (by decide : BayMode.loaded ≠ .held)
  rw [bayOf_of_bays (opened_bays i r s), bayOf_setBay_same]

theorem bayOf_applyLoad_ne (hj : j ≠ i) (hb : bayOf s j = some b) (hm : b.mode ≠ .held) :
    bayOf (applyLoad i r s) j = some b := by
  rw [applyLoad_eq]
  refine bayOf_settleHolds ?_ hm
  rw [bayOf_of_bays (opened_bays i r s), bayOf_setBay_ne _ _ hj,
    bayOf_of_bays ((within_rowsLoaded r s).frame .bays (by decide)), hb]

/-! ### Cores -/

theorem keepImages_oldDropped (r : LoadReq) (s : State) : KeepImages s (oldDropped r s) := by
  unfold oldDropped
  split
  · rename_i b _
    have hfrozen : KeepImages s (modCores b (freezeWrites b.count) s) :=
      coreOf_modCores (f := freezeWrites b.count) KeepsImage.refl KeepsImage.trans
        (fun _ => ⟨rfl, rfl, rfl, rfl, rfl, rfl, rfl⟩) b s
    exact hfrozen.trans (KeepImages.of_cores rfl)
  · exact KeepImages.refl s

theorem coresLoaded_holds (hk : k ∈ imCores (imgOf r.bytes)) (s : State) :
    HoldsImage (imgOf r.bytes) k (coreOf s k) (coreOf (coresLoaded r s) k) :=
  (coreOf_foldl_mem (R := HoldsImage (imgOf r.bytes) k) (coreLoaded_holds _ k) (fun _ _ => HoldsImage.again) hk
    (oldDropped r s)).after (keepImages_oldDropped r s k)

/-- What follows the loading of the cores leaves them their images. -/
theorem keepImages_applyLoad (i : Nat) (r : LoadReq) (s : State) : KeepImages (coresLoaded r s) (applyLoad i r s) := by
  have hrows : KeepImages (coresLoaded r s) (rowsLoaded r s) :=
    keepImages_foldl (fun s k => keepImages_writeImageRows _ k s) _ _
  have hxings : KeepImages (rowsLoaded r s) (xingsDeclared i r s) :=
    KeepImages.of_cores ((within_declared _ (setBay i (newBay r s) (rowsLoaded r s))).frame .cores (by decide))
  rw [applyLoad_eq]
  exact ((hrows.trans hxings).trans (keepImages_openXings _ _)).trans (keepImages_settleHolds _)

theorem applyLoad_holds (hk : k ∈ imCores (imgOf r.bytes)) (i : Nat) (s : State) :
    HoldsImage (imgOf r.bytes) k (coreOf s k) (coreOf (applyLoad i r s) k) :=
  (coresLoaded_holds hk s).kept (keepImages_applyLoad i r s k)

/-! ### Reports (R294) -/

theorem partOf_modPart (f : Partition → Partition) (h : n < s.parts.length) : partOf (modPart n f s) n = f (partOf s n) := by
  simp [partOf, modPart, modAt, h]

/-- A report depends on the generation and the tick alone. -/
theorem loadReport_congr (hgen : u.boot.generation = s.boot.generation) (hnow : u.now = s.now) (x : LoadErr) (i : Nat) :
    loadReport r x i u = loadReport r x i s := by
  simp only [loadReport, hgen, tickOf, hnow]

/-! ## The state after a load -/

theorem loadedState_only (ho : CoresInOrder (imgOf r.bytes) s) (i : Nat) :
    OnlyChanges [.bays, .cores, .xings, .parts, .bufs] s (loadedState i r s) := by
  have hload : Within [.bays, .cores, .xings, .parts, .bufs] (prepareCores r s) (loadedState i r s) :=
    within_keepReport ((Covers.self _).mono (by decide)) (within_applyLoad ((Covers.self _).mono (by decide)) (Within.refl _ _))
  exact only_trans (only_mono (prepareCores_inOrder ho).frame (by decide)) hload.frame

theorem bayOf_loadedState (ho : CoresInOrder (imgOf r.bytes) s) (i : Nat) :
    bayOf (loadedState i r s) i = some { bayLoaded r (imgOf r.bytes) (reqBay s r) with idleSince := some s.now } := by
  have hnew := (prepareCores_inOrder ho).frame
  have hold : reqBay (prepareCores r s) r = reqBay s r :=
    congrArg r.bay.bind (funext (bayOf_of_bays (hnew .bays (by decide))))
  refine (bayOf_applyLoad i r (prepareCores r s)).trans ?_
  rw [newBay, hold, hnew .now (by decide)]

theorem bayOf_loadedState_ne (ho : CoresInOrder (imgOf r.bytes) s) (hj : j ≠ i) (hb : bayOf s j = some b)
    (hm : b.mode ≠ .held) : bayOf (loadedState i r s) j = some b :=
  bayOf_applyLoad_ne (s := prepareCores r s) hj
    ((bayOf_of_bays ((prepareCores_inOrder ho).frame .bays (by decide)) j).trans hb) hm

theorem loadedState_holds (ho : CoresInOrder (imgOf r.bytes) s) (hk : k ∈ imCores (imgOf r.bytes)) (i : Nat) :
    HoldsImage (imgOf r.bytes) k (coreOf s k) (coreOf (loadedState i r s) k) := by
  rw [← (prepareCores_inOrder ho).cores k]
  exact applyLoad_holds hk i (prepareCores r s)

theorem loadReports_loadedState (ho : CoresInOrder (imgOf r.bytes) s) (hpart : r.part < s.parts.length) (i : Nat) :
    (partOf (loadedState i r s) r.part).loadReports
      = (loadReport r (errStatus stOk) i s :: (partOf s r.part).loadReports).take 16 := by
  have hload : OnlyChanges [.bays, .cores, .xings, .bufs] s (applyLoad i r (prepareCores r s)) :=
    only_trans (only_mono (prepareCores_inOrder ho).frame (by decide))
      (within_applyLoad ((Covers.self _).mono (by decide)) (Within.refl _ _)).frame
  have hparts : (applyLoad i r (prepareCores r s)).parts = s.parts := hload .parts (by decide)
  rw [loadedState, keepReport, partOf_modPart _ (hparts ▸ hpart),
    loadReport_congr (hload .bootGeneration (by decide)) (hload .now (by decide)), partOf, hparts]
  rfl

/-! ## BAY_LOAD (R289, R290) -/

variable {cmd : Cmd} {pay : List Byte}

/-- What a BAY_LOAD asks for, with its image in host memory. -/
def loadReq (cmd : Cmd) (pay : List Byte) (s : State) : LoadReq :=
  ⟨cmd, hostRead s (leAt pay 0 8) (leAt pay 8 4), leAt pay 8 4, cmdPart cmd, bitAt (leAt pay 0xC 1) 0, leAt pay 0x10 4, none⟩

/-- The load attempt of a BAY_LOAD. -/
def loadAttempt (cmd : Cmd) (pay : List Byte) (s v : State) : State :=
  finishLoad (freeHandle v) (loadReq cmd pay s) (freeHandle v) 0 v

/-- With its payload in order and its image read, a BAY_LOAD makes its attempt: an image in order needs the supervisors of
its dies. -/
theorem exec_bayLoad (h : LoadTakes cmd pay s) :
    exec (.bayLoad cmd) s = .next
      (if (loadErr (takeCmd cmd s) (loadReq cmd pay (takeCmd cmd s))).isSome then
         loadAttempt cmd pay (takeCmd cmd s) (takeCmd cmd s)
       else needProcs ((imSites (imgOf (loadReq cmd pay (takeCmd cmd s)).bytes)).filterMap procOfSite) cmd pay
         (loadAttempt cmd pay (takeCmd cmd s)) (takeCmd cmd s)) := by
  obtain ⟨ha, hlen, hsize, hflag, hzero, hzero', hanswer⟩ := h
  have hform : firstFail [(decide (pay.length ≠ 24) || decide (leAt pay 8 4 < 64), stBadLength),
      (decide (1 < leAt pay 0xC 1) || !zeroAt pay 0xD 3 || !zeroAt pay 0x14 4, stBadField)] = stOk := by
    rw [hlen, hzero, hzero', decide_eq_false (Nat.not_lt.mpr hsize), decide_eq_false (Nat.not_lt.mpr hflag)]
    rfl
  have hread : readImage (leAt pay 0 8) (leAt pay 8 4) (takeCmd cmd s)
      = (stOk, hostRead (takeCmd cmd s) (leAt pay 0 8) (leAt pay 8 4)) := by
    rw [readImage, hanswer]
  refine (runRow_accepted ha doBayLoad).trans (congrArg _ ?_)
  rw [doBayLoad]
  dsimp only
  rw [hform, if_neg (not_not.mpr rfl), hread]
  rfl

theorem exec_bayLoad_refused {x : LoadErr} (h : LoadTakes cmd pay s)
    (hx : loadErr (takeCmd cmd s) (loadReq cmd pay (takeCmd cmd s)) = some x) :
    exec (.bayLoad cmd) s
      = .next (complete cmd x.status 0 (keepReport (loadReq cmd pay (takeCmd cmd s)) x 0xFFFF (takeCmd cmd s))) := by
  rw [exec_bayLoad h, hx, if_pos (Option.isSome_some), loadAttempt, finishLoad_refused hx]
  rfl

theorem exec_bayLoad_loads (h : LoadTakes cmd pay s) (hx : loadErr (takeCmd cmd s) (loadReq cmd pay (takeCmd cmd s)) = none)
    (hrun : DiesRun (imgOf (loadReq cmd pay (takeCmd cmd s)).bytes) (takeCmd cmd s))
    (ho : CoresInOrder (imgOf (loadReq cmd pay (takeCmd cmd s)).bytes) (takeCmd cmd s)) :
    exec (.bayLoad cmd) s = .next (complete cmd stOk (freeHandle (takeCmd cmd s))
      (loadedState (freeHandle (takeCmd cmd s)) (loadReq cmd pay (takeCmd cmd s)) (takeCmd cmd s))) := by
  rw [exec_bayLoad h, hx, if_neg (by decide : ¬(none : Option LoadErr).isSome = true), FloorPlanFamily.needProcs_run hrun,
    loadAttempt, finishLoad_loads hx ho]
  rfl

/-! ## BAY_RECONFIGURE (R263, R264, R268, R292) -/

/-- A BAY_RECONFIGURE that its bay takes, with an image of 64 bytes or more. -/
structure Reconfigures (cmd : Cmd) (pay : List Byte) (s : State) (b : Bay) : Prop where
  accepted : Accepted 0x0205 cmd pay s
  form : firstFail (bayFormChecks reconfigForm pay) = stOk
  bay : bayOf s (payBay pay) = some b
  part : b.part = cmdPart cmd
  size : 64 ≤ payArgLen pay
  ready : s.install = false
  free : stopBlocked b (bitAt (payFlags pay) 0) = false
  supervisors : SupervisorsRun (takeCmd cmd s) b

/-- In a state that allows it a reconfiguration loads at once where the bay is stopped, and else stops the bay first. -/
theorem exec_bayReconfigure (h : Reconfigures cmd pay s b) (hm : b.mode ∈ reconfigModes) :
    exec (.bayReconfigure cmd) s = .next
      (if b.mode = .stopped then reloadStep (payBay pay) cmd (payArg pay) (payArgLen pay) (takeCmd cmd s)
       else beginStop (payBay pay) b (some cmd) (bitAt (payFlags pay) 0) (some (payArg pay, payArgLen pay))
         (takeCmd cmd s)) := by
  have hb : bayOf (takeCmd cmd s) (payBay pay) = some b := (bayOf_takeCmd cmd s _).trans h.bay
  have hown : firstFail [((takeCmd cmd s).install, stBusy), (stopBlocked b (bitAt (payFlags pay) 0), stBusy)] = stOk := by
    rw [takeCmd_install, h.ready, h.free]
    rfl
  refine (runRow_accepted h.accepted doBayReconfigure).trans (congrArg _ ?_)
  rw [doBayReconfigure]
  dsimp only
  rw [h.form, if_neg (not_not.mpr rfl), hb]
  dsimp only
  rw [if_neg fun hshort => absurd hshort.2.2 (Nat.not_lt.mpr h.size), startReconfigure,
    bayRun_passes h.form hb h.part hm hown, FloorPlanFamily.needProcs_run h.supervisors]

/-- What the load step of a reconfiguration asks for. -/
def reloadReq (cmd : Cmd) (pay : List Byte) (part : Nat) (s : State) : LoadReq :=
  ⟨cmd, hostRead s (payArg pay) (payArgLen pay), payArgLen pay, part, false, 0, some (payBay pay)⟩

theorem reloadStep_loads (hb : bayOf s (payBay pay) = some b) (hanswer : hostAnswer s (payArg pay) (payArgLen pay) = none)
    (hx : loadErr s (reloadReq cmd pay b.part s) = none) (ho : CoresInOrder (imgOf (reloadReq cmd pay b.part s).bytes) s) :
    reloadStep (payBay pay) cmd (payArg pay) (payArgLen pay) s
      = complete cmd stOk (headEpoch s b) (loadedState (payBay pay) (reloadReq cmd pay b.part s) s) := by
  have hread : readImage (payArg pay) (payArgLen pay) s = (stOk, hostRead s (payArg pay) (payArgLen pay)) := by
    rw [readImage, hanswer]
  rw [reloadStep, hb]
  dsimp only
  rw [hread, if_neg (not_not.mpr rfl)]
  exact finishLoad_loads hx ho _ _ _

/-! ## LOAD_REPORT_GET (R294) -/

theorem padTo_length (n : Nat) (bs : List Byte) : (padTo n bs).length = n := by
  simp only [padTo, bytesAt, List.length_append, List.length_take, List.length_drop, List.length_replicate]
  omega

/-- The reports that a LOAD_REPORT_GET answers with. -/
def reportsOut (part : Nat) (s : State) : List Byte :=
  padTo 512 ((partOf s part).loadReports.flatMap (reportBytes (kingFuse s).stepping.toNat))

theorem reportsOut_takeCmd (part : Nat) (cmd : Cmd) (s : State) : reportsOut part (takeCmd cmd s) = reportsOut part s := by
  rw [reportsOut, partOf, kingFuse, fuseOf, kingSite, takeCmd_parts, takeCmd_fp, takeCmd_fuses]
  rfl

theorem exec_loadReportGet (ha : Accepted 0x020A cmd pay s) (hlen : 512 ≤ cmdLen cmd) (hmb : isMbData cmd = false) :
    exec (.loadReportGet cmd) s
      = .next (completeWithBuf cmd (cmdAddr cmd) (reportsOut (cmdPart cmd) (takeCmd cmd s)) 0 (takeCmd cmd s)) := by
  have hform : firstFail [(decide (cmdLen cmd < 512), stBadLength)] = stOk := by
    rw [decide_eq_false (Nat.not_lt.mpr hlen)]
    rfl
  refine (runRow_accepted ha doLoadReportGet).trans (congrArg _ ?_)
  rw [doLoadReportGet, FloorPlanFamily.checked_pass hform, completeWithOwnBuf, writeOwnBuf, hmb]
  rfl

/-- Settles O35: a load in order is the loading of its cores, whose images the rest of the load leaves, and one bay on its
handle; a reconfiguration stops its bay or is such a load; and the reports are read as they are kept. -/
theorem baysLoad : Obligations.BaysLoad := by
  intro c pay s hkept u
  have hbays (j : Nat) : bayOf u j = bayOf s j := bayOf_takeCmd c s j
  have hcores (k : Nat) : coreOf u k = coreOf s k := coreOf_takeCmd c s k
  refine ⟨fun h => ?load, fun b ha hform hb hpart hsize hinstall hfree hsup => ?reconfigure, fun ha hlen hmb hbuf => ?reports⟩
  case load =>
    intro r
    have hr : r = loadReq c pay u := rfl
    clear_value r
    subst hr
    refine ⟨fun x hx => exec_bayLoad_refused h hx, fun hx hrun ho =>
      ⟨loadedState (freeHandle u) (loadReq c pay u) u, exec_bayLoad_loads h hx hrun ho, bayOf_loadedState ho _,
        fun j x hj hxj hxm => bayOf_loadedState_ne ho hj ((hbays j).trans hxj) hxm, fun k hk => ?_, fun hpart => ?_,
        loadedState_only ho _⟩⟩
    · have hcore := loadedState_holds ho hk (freeHandle u)
      rw [hcores] at hcore
      exact ⟨hcore.image, hcore.tags, hcore.epoch, hcore.queues, hcore.banks, hcore.srState, hcore.page, hcore.microcode⟩
    · have hlen : u.parts.length = 8 := (takeCmd_kept hkept).parts
      have hold : partOf u (cmdPart c) = partOf s (cmdPart c) := by rw [partOf, partOf, takeCmd_parts]
      rw [← hold]
      exact loadReports_loadedState (r := loadReq c pay u) ho (hlen ▸ hpart) _
  case reconfigure =>
    have hrec : Reconfigures c pay s b := ⟨ha, hform, hb, hpart, hsize, hinstall, hfree, hsup⟩
    have hbu : bayOf u (payBay pay) = some b := (hbays _).trans hb
    refine ⟨fun hm => ?stops, fun hm hanswer => ?reloads⟩
    case stops =>
      have hmode : b.mode ∈ reconfigModes ∧ b.mode ≠ .stopped := by
        obtain hm | hm | hm := hm <;> rw [hm] <;> decide
      obtain ⟨now, hstop⟩ :=
        bayOf_beginStop (payBay pay) b (some c) (bitAt (payFlags pay) 0) (some (payArg pay, payArgLen pay)) u
      refine ⟨_, _, (exec_bayReconfigure hrec hmode.1).trans (congrArg _ (if_neg hmode.2)), hstop, rfl, rfl, rfl,
        fun hmark => ?_, fun hmark hrun => ?_, fun j hj => (bayOf_beginStop_ne hj).trans (hbays j)⟩
      · exact (congrArg (stopCycleOf b) hmark).trans (stopCycleOf_mark b)
      · exact (congrArg (stopCycleOf b) hmark).trans (stopCycleOf_running hrun)
    case reloads =>
      intro r
      have hr : r = reloadReq c pay b.part u := rfl
      clear_value r
      subst hr
      intro hx ho
      refine ⟨loadedState (payBay pay) (reloadReq c pay b.part u) u, ?_, ?_,
        fun j x hj hxj hxm => bayOf_loadedState_ne ho hj ((hbays j).trans hxj) hxm, fun k hk => ?_⟩
      · rw [exec_bayReconfigure hrec (by rw [hm]; decide), if_pos hm, reloadStep_loads hbu hanswer hx ho]
      · have hold : reqBay u (reloadReq c pay b.part u) = some b := hbu
        rw [bayOf_loadedState ho, hold]
      · have hcore := loadedState_holds ho hk (payBay pay)
        exact ⟨hcore.image, hcore.epoch⟩
  case reports =>
    have ⟨_, htake, _⟩ := ha
    obtain ⟨x, hx⟩ := takenOf_takeCmd htake
    obtain ⟨t, ht, hout, honly⟩ := completeWithBuf_answers hx (bs := reportsOut (cmdPart c) u)
      (by rwa [reportsOut, padTo_length])
    rw [reportsOut_takeCmd] at hout
    exact ⟨t, (exec_loadReportGet ha hlen hmb).trans (congrArg _ ht), hout, honly⟩

end Sys2Proof.ContractFamily

/-! Proofs of the family of the service fabric and the stacks: the scrubber of a stack (O39), the partition commands (O38),
what a request meets where it arrives (O36), and answers, hops and congestion maps (O37). -/

namespace Sys2Proof.ServiceFamily

open Machine Laws BayFamily

variable {s t u : State} {n w : Nat} {m : MemKind} {f : EccFinding} {d : StackState}

/-! ## Lists that mark (R540, R544) -/

theorem mem_listMark_true (w : Nat) (l : List Nat) : w ∈ listMark true w l := by
  rw [listMark, if_pos rfl]
  split
  case isTrue h => exact List.contains_iff_mem.mp h
  case isFalse => exact List.mem_append_right l (List.mem_singleton.mpr rfl)

theorem not_mem_listMark_false (w : Nat) (l : List Nat) : w ∉ listMark false w l := by
  rw [listMark, if_neg Bool.false_ne_true, List.mem_filter]
  rintro ⟨-, h⟩
  exact bne_iff_ne.mp h rfl

theorem mem_of_mapGet? {α : Type} {l : List (Nat × α)} {k : Nat} {v : α} (h : mapGet? l k = some v) : (k, v) ∈ l := by
  induction l with
  | nil => cases h
  | cons p l ih =>
    obtain ⟨j, x⟩ := p
    rw [mapGet?] at h
    split at h
    case isTrue hj =>
      cases h
      exact hj ▸ List.mem_cons_self
    case isFalse => exact List.mem_cons_of_mem _ (ih h)

/-! ## Stacks -/

@[simp] theorem stack_modStack_same (n : Nat) (g : StackState → StackState) (s : State) :
    mapGetD (modStack n g s).hbms n stackZero = g (mapGetD s.hbms n stackZero) := mapGetD_mapSet_same _ _ _ _

theorem stack_modStack_ne {k : Nat} (g : StackState → StackState) (s : State) (h : k ≠ n) :
    mapGetD (modStack n g s).hbms k stackZero = mapGetD s.hbms k stackZero := mapGetD_mapSet_ne _ _ _ _ h

theorem modStack_only (n : Nat) (g : StackState → StackState) (s : State) : OnlyChanges [.hbms] s (modStack n g s) :=
  (within_modStack (Covers.self _) (Within.refl _ s)).frame

/-! ## What the codes find in a word (R326, R540, R544) -/

theorem examine_unarmed (h : s.err.armed = []) (p : Nat) (g : Injection → Bool) : examine p g s = (false, s) := by
  rw [examine, injOf, h]
  rfl

theorem err_markBad (m : MemKind) (w : Nat) (b : Bool) (s : State) : (markBad m w b s).err = s.err :=
  (within_markBad (Covers.self _) (Within.refl _ s)).frame .err (by decide)

/-- Where no injection is armed a word is beyond correction exactly if it was, or the codes find it so now. -/
theorem examineWord_unarmed (h : s.err.armed = []) (m : MemKind) (f : EccFinding) (w : Nat) (res : Option Nat) :
    examineWord m f w s res =
      (let here (o : Nat) : Bool := o / memWord m == w
       let v := if f.uncorrectable.any here then markBad m w true s else s
       if isBad v m w then (true, wordUncorrectable m w false v res)
       else if f.corrected.any here then (false, wordCorrected m w false v)
       else (false, v)) := by
  have hv : (if f.uncorrectable.any (fun o => o / memWord m == w) then markBad m w true s else s).err.armed = [] := by
    split
    · rw [err_markBad, h]
    · exact h
  rw [examineWord]
  dsimp only
  rw [examine_unarmed hv, examine_unarmed hv]
  rfl

/-- A word in which the codes find nothing is read as it stands. -/
theorem examineWord_clean (h : s.err.armed = []) (hw : isBad s m w = false) (res : Option Nat) :
    examineWord m ⟨[], []⟩ w s res = (false, s) := by
  rw [examineWord_unarmed h]
  simp only [List.any_nil, Bool.false_eq_true, if_false, hw]

/-! ### A word of a stack -/

theorem within_logged (r : LogRec) (s : State) : Within [.err, .bootLog] s (logAdd r s) :=
  within_logAdd (Covers.self _) (Within.refl _ s)

theorem within_scored (inj : Bool) (k kind points : Nat) (s : State) :
    Within [.host, .ev, .fw, .err, .hostMem, .bootLog] s (scoreWear inj k kind points s) :=
  within_scoreWear (Covers.self _) (Within.refl _ s)

theorem any_word_of_mem {o : Nat} {l : List Nat} (ho : 64 * o ∈ l) :
    l.any (fun x => x / memWord (.stack n) == o) = true := by
  refine List.any_eq_true.mpr ⟨64 * o, ho, beq_iff_eq.mpr ?_⟩
  exact Nat.mul_div_cancel_left o (by decide)

theorem isBad_stack (h : w ∉ (mapGetD s.hbms n stackZero).bad) : isBad s (.stack n) w = false := by
  rw [isBad, ← Bool.not_eq_true, List.contains_iff_mem]
  exact h

/-- The scrub of a word that the codes find beyond correction: it is kept as such, and its row is due for retirement. -/
theorem stack_examineWord_uncorrectable (h : s.err.armed = []) (hf : 64 * w ∈ f.uncorrectable) (n : Nat) :
    mapGetD (examineWord (.stack n) f w s none).2.hbms n stackZero =
      (let d := mapGetD s.hbms n stackZero
       { d with
         bad := listMark true w d.bad
         retiring := if d.retired.contains (dramRow w) then d.retiring else listMark true (dramRow w) d.retiring }) := by
  have hbad : isBad (markBad (.stack n) w true s) (.stack n) w = true := by
    refine List.contains_iff_mem.mpr ?_
    rw [markBad, stack_modStack_same]
    exact mem_listMark_true w _
  have hrep (r : LogRec) (v : State) : (reportUncorrectable r v none).hbms = v.hbms :=
    (within_reportUncorrectable (Covers.self _) (Within.refl _ v)).frame .hbms (by decide)
  rw [examineWord_unarmed h]
  dsimp only
  rw [any_word_of_mem hf, if_pos rfl, hbad, if_pos rfl, wordUncorrectable]
  dsimp only
  rw [stack_modStack_same, hrep, markBad, stack_modStack_same]

/-- The scrub of a word that the codes correct: it is counted at this time, and nothing is beyond correction. -/
theorem stack_examineWord_corrected (h : s.err.armed = []) (hf : 64 * w ∈ f.corrected) (hu : f.uncorrectable = [])
    (hw : w ∉ (mapGetD s.hbms n stackZero).bad) :
    mapGetD (examineWord (.stack n) f w s none).2.hbms n stackZero =
      { stackCorrected s.now w (mapGetD s.hbms n stackZero) with
        scored := listMark true w (mapGetD s.hbms n stackZero).scored } := by
  have hbad := isBad_stack hw
  have hreport (r : LogRec) (b : Bool) : Within [.host, .ev, .fw, .err, .hostMem, .bootLog] s
      (if b then scoreWear false (siteOfStack n) 0 100 (logAdd r s) else logAdd r s) := by
    have hlog : Within [.host, .ev, .fw, .err, .hostMem, .bootLog] s (logAdd r s) :=
      within_logAdd ((Covers.self _).mono (by decide)) (Within.refl _ s)
    exact Within.ite (within_scoreWear (Covers.self _) hlog) hlog
  rw [examineWord_unarmed h]
  dsimp only
  rw [hu, List.any_nil, if_neg Bool.false_ne_true, hbad, if_neg Bool.false_ne_true, any_word_of_mem hf, if_pos rfl,
    wordCorrected]
  dsimp only
  rw [stack_modStack_same]
  have hr := hreport { wordRecord (.stack n) w false s with cls := 1 }
    (!(mapGetD s.hbms n stackZero).scored.contains w)
  have hnow := hr.frame .now (by decide)
  have hhbms := hr.frame .hbms (by decide)
  rw [show memSite (.stack n) = siteOfStack n from rfl, hnow, hhbms]
  rfl

/-! ## The scrubber (R326, R328, R544) -/

/-- What the scrub of a word leaves of its stack after the codes have looked at it. -/
def wordScrubbed (w : Nat) (due : Option Nat) (d : StackState) : StackState :=
  { d with
    scored := d.scored.filter (fun x => x != w)
    scrubs := if due.isNone then mapDel d.scrubs (w / 32) else d.scrubs }

theorem scrubWord_eq (n w : Nat) (f : EccFinding) (s : State) :
    scrubWord n w f s = modStack n (wordScrubbed w (mapGet? (mapGetD s.hbms n stackZero).scrubs (w / 32)))
      (examineWord (.stack n) f w s none).2 := rfl

theorem mem_scrubWord (n w : Nat) (f : EccFinding) (s : State) : (scrubWord n w f s).mem = s.mem :=
  (within_scrubWord (Covers.self _) (Within.refl _ s)).frame .mem (by decide)

/-- The words of a unit that is scrubbed keep their bytes. -/
theorem mem_scrubUnit (n unit : Nat) (f : EccFinding) (s : State) :
    ((List.range 32).foldl (fun s j => scrubWord n (32 * unit + j) f s) s).mem = s.mem :=
  ScratchpadFamily.related_foldl (R := fun s u => u.mem = s.mem) (fun _ => rfl) (fun h h' => h'.trans h)
    (fun s j => mem_scrubWord n (32 * unit + j) f s) (List.range 32) s

/-- The scrub of a word in which the codes find nothing changes its stack alone. -/
theorem scrubWord_clean (h : s.err.armed = []) (hw : isBad s (.stack n) w = false) :
    scrubWord n w ⟨[], []⟩ s
      = modStack n (wordScrubbed w (mapGet? (mapGetD s.hbms n stackZero).scrubs (w / 32))) s := by
  rw [scrubWord_eq, examineWord_clean h hw]

theorem exec_patrolScrub_waits {st : StackId} {word time : Nat}
    (h : patrolDue (atTime time s).now word (mapGetD s.hbms st.val stackZero) = false) :
    exec (.patrolScrub st word f time) s = .next s := by
  show execPatrolScrub st word f time s = _
  rw [execPatrolScrub]
  rw [h, Bool.not_false, Bool.or_true, if_pos rfl]

theorem exec_patrolScrub_reads {st : StackId} {word time : Nat} (hs : scrubs s st.val = true)
    (hsize : 64 * word < memSize s (.stack st.val))
    (h : patrolDue (atTime time s).now word (mapGetD s.hbms st.val stackZero) = true) :
    exec (.patrolScrub st word f time) s
      = .next (modStack st.val (patrolNoted (atTime time s).now word) (scrubWord st.val word f (atTime time s))) := by
  show execPatrolScrub st word f time s = _
  rw [execPatrolScrub]
  rw [h, hs, decide_eq_false (Nat.not_le.mpr hsize), if_neg (by decide)]

/-- What the patrol notes: the word is among those read in the period, and with the end of a period the next one begins. -/
theorem patrolNoted_eq (now w : Nat) (d : StackState) :
    ∃ since patrolled, patrolNoted now w d = { d with since := since, patrolled := patrolled } ∧ w ∈ patrolled
      ∧ (d.since + scrubPeriod d ≤ now → since = now ∧ patrolled = [w]) := by
  rw [patrolNoted]
  split
  case isTrue => exact ⟨now, [w], rfl, List.mem_singleton.mpr rfl, fun _ => ⟨rfl, rfl⟩⟩
  case isFalse hgoes =>
    exact ⟨d.since, d.patrolled ++ [w], rfl, List.mem_append_right _ (List.mem_singleton.mpr rfl),
      fun hends => absurd hends hgoes⟩

/-- What a patrol leaves of its stack: what the codes find, what the scrub of a word settles, and what is noted. -/
theorem stack_patrol (n w now : Nat) (f : EccFinding) (s : State) {d : StackState}
    (hd : mapGetD (examineWord (.stack n) f w s none).2.hbms n stackZero = d) :
    ∃ since patrolled, mapGetD (modStack n (patrolNoted now w) (scrubWord n w f s)).hbms n stackZero
        = { wordScrubbed w (mapGet? (mapGetD s.hbms n stackZero).scrubs (w / 32)) d with
            since := since, patrolled := patrolled }
      ∧ w ∈ patrolled ∧ (d.since + scrubPeriod d ≤ now → since = now ∧ patrolled = [w]) := by
  rw [stack_modStack_same, scrubWord_eq, stack_modStack_same, hd]
  exact patrolNoted_eq now w (wordScrubbed w _ d)

theorem exec_scheduledScrub {st : StackId} {unit time : Nat} (hs : scrubs s st.val = true)
    (h : (mapGet? (mapGetD s.hbms st.val stackZero).scrubs unit).isSome = true) :
    exec (.scheduledScrub st unit f time) s
      = .next (modStack st.val (fun d => { d with scrubs := mapDel d.scrubs unit })
          ((List.range 32).foldl (fun s j => scrubWord st.val (32 * unit + j) f s) (atTime time s))) := by
  show execScheduledScrub st unit f time s = _
  rw [execScheduledScrub]
  dsimp only
  rw [hs, ← Option.not_isSome, h, if_neg (by decide)]

/-- A word that is corrected is on record with its time. -/
theorem mem_corrected (w now : Nat) (d : StackState) : (w, now) ∈ (stackCorrected now w d).corrected := by
  rw [stackCorrected]
  exact mem_of_mapGet? (mapGet?_mapPut_same _ _ _)

/-! ### Rows that retire (R544) -/

/-- A row has moved into a spare. -/
def rowRetired (row : Nat) (d : StackState) : StackState :=
  { d with
    spares := d.spares + 1
    exhausted := decide (4096 ≤ d.spares + 1)
    retiring := listMark false row d.retiring
    retired := listMark true row d.retired
    corrected := d.corrected.filter (fun p => dramRow p.1 != row) }

/-- With spares left a row moves into one, and the last one is reported. -/
theorem retireRow_spare {row : Nat} (h : (mapGetD s.hbms n stackZero).spares < 4096) :
    retireRow n row s =
      if (mapGetD s.hbms n stackZero).spares + 1 < 4096 then modStack n (rowRetired row) s
      else raise1 (evSite 0x0A03 n (siteOfStack n) 0 4096) (modStack n (rowRetired row) s) := by
  rw [retireRow]
  dsimp only
  rw [if_neg (Nat.not_le.mpr h)]
  rfl

theorem exec_rowRetire {st : StackId} {row time : Nat} (hs : scrubs s st.val = true)
    (h : row ∈ (mapGetD s.hbms st.val stackZero).retiring) :
    exec (.rowRetire st row time) s = .next (retireRow st.val row (atTime time s)) := by
  show execRowRetire st row time s = _
  rw [execRowRetire, hs, List.contains_iff_mem.mpr h, if_neg (by decide)]

theorem hbms_raise1 (e : EventRec) (s : State) : (raise1 e s).hbms = s.hbms :=
  (within_raised e s).frame .hbms (by decide)

/-- The stack after a retirement, whether or not it was the last spare. -/
theorem stack_retireRow {row : Nat} (h : (mapGetD s.hbms n stackZero).spares < 4096) :
    mapGetD (retireRow n row s).hbms n stackZero = rowRetired row (mapGetD s.hbms n stackZero) := by
  rw [retireRow_spare h]
  split
  · exact stack_modStack_same _ _ _
  · rw [hbms_raise1]
    exact stack_modStack_same _ _ _

/-- Settles O39: a patrol is one look of the codes at a word, and what it notes stands beside what they find. -/
theorem stacksAreScrubbed : Obligations.StacksAreScrubbed := by
  unfold Obligations.StacksAreScrubbed
  intro st time s hs
  refine ⟨fun word f _ => exec_patrolScrub_waits, fun word f hsize hdue ha => ?patrol, fun unit f hunit => ?scheduled,
    fun row hrow hspares => ?retire⟩
  case patrol =>
    have hrun := exec_patrolScrub_reads (f := f) hs hsize hdue
    have hau : (atTime time s).err.armed = [] := ha
    have hmem : (modStack st.val (patrolNoted (atTime time s).now word) (scrubWord st.val word f (atTime time s))).mem
        = s.mem := by rw [modStack_mem, mem_scrubWord, atTime_mem]
    refine ⟨fun hf hbad => ?clean, fun hf => ?bad, fun hf hu hbad => ?corrected⟩
    case clean =>
      subst hf
      have hgood : isBad (atTime time s) (.stack st.val) word = false := isBad_stack hbad
      obtain ⟨since, patrolled, hstack, hread, hbegins⟩ := stack_patrol st.val word (atTime time s).now ⟨[], []⟩
        (atTime time s) (by rw [examineWord_clean hau hgood])
      refine ⟨_, hrun, ?_, ?_⟩
      · rw [hstack]
        exact ⟨rfl, rfl, rfl, rfl, rfl, hread, hbegins⟩
      · rw [scrubWord_clean hau hgood]
        exact only_trans (modStack_only _ _ _) (modStack_only _ _ _)
    case bad =>
      obtain ⟨since, patrolled, hstack, -, -⟩ := stack_patrol st.val word (atTime time s).now f (atTime time s)
        (stack_examineWord_uncorrectable hau hf st.val)
      refine ⟨_, hrun, ?_, fun hret => ?_, hmem⟩
      · rw [hstack]
        exact mem_listMark_true word _
      · rw [hstack]
        dsimp only [wordScrubbed]
        rw [atTime_hbms, hret, if_neg Bool.false_ne_true]
        exact mem_listMark_true _ _
    case corrected =>
      obtain ⟨since, patrolled, hstack, -, -⟩ := stack_patrol st.val word (atTime time s).now f (atTime time s)
        (stack_examineWord_corrected hau hf hu hbad)
      refine ⟨_, hrun, ?_, ?_, hmem⟩
      · rw [hstack]
        exact mem_corrected word (atTime time s).now _
      · rw [hstack]
        rfl
  case scheduled =>
    refine ⟨_, exec_scheduledScrub hs hunit, ?_, ?_⟩
    · rw [stack_modStack_same]
      dsimp only
      exact mapGet?_mapDel_same _ _
    · rw [modStack_mem, mem_scrubUnit, atTime_mem]
  case retire =>
    have hspares' : (mapGetD (atTime time s).hbms st.val stackZero).spares < 4096 := hspares
    have hstack := stack_retireRow (row := row) hspares'
    refine ⟨_, exec_rowRetire hs hrow, ?_, ?_, ?_, fun hleft => ?left, fun hlast => ?last⟩
    · rw [hstack]
      rfl
    · rw [hstack]
      exact mem_listMark_true row _
    · rw [hstack]
      exact not_mem_listMark_false row _
    case left =>
      have hlt : (mapGetD (atTime time s).hbms st.val stackZero).spares + 1 < 4096 := Nat.succ_lt_succ hleft
      rw [retireRow_spare hspares', if_pos hlt]
      exact modStack_only _ _ _
    case last =>
      have hge : ¬ (mapGetD (atTime time s).hbms st.val stackZero).spares + 1 < 4096 := by
        show ¬ (mapGetD s.hbms st.val stackZero).spares + 1 < 4096
        rw [hlast]
        decide
      refine ⟨?_, _, (retireRow_spare hspares').trans (if_neg hge), modStack_only _ _ _⟩
      rw [hstack]
      exact decide_eq_true (Nat.not_lt.mp hge)

end Sys2Proof.ServiceFamily

namespace Sys2Proof.ServiceFamily

open Machine Laws BayFamily

variable {c : Cmd} {pay : List Byte} {s t : State} {i j part : Nat}

/-! ## A range of bytes cleared (R208, R319) -/

theorem mapGet?_mapDelRange {α : Type} (l : List (Nat × α)) (lo n k : Nat) :
    mapGet? (mapDelRange l lo n) k = if lo ≤ k ∧ k < lo + n then none else mapGet? l k := by
  induction l with
  | nil => exact (ite_self none).symm
  | cons p l ih =>
    obtain ⟨j, v⟩ := p
    rw [mapDelRange] at ih ⊢
    by_cases hj : lo ≤ j ∧ j < lo + n
    · rw [List.filter_cons_of_neg (by simp [hj]), ih, mapGet?]
      by_cases hk : j = k
      · rw [← hk, if_pos hj, if_pos hj]
      · rw [if_neg hk]
    · rw [List.filter_cons_of_pos (by simp only [← Bool.decide_and, decide_eq_false hj, Bool.not_false]), mapGet?,
        mapGet?, ih]
      by_cases hk : j = k
      · rw [← hk, if_pos rfl, if_pos rfl, if_neg hj]
      · rw [if_neg hk, if_neg hk]

/-- A range that is cleared reads zero, and the bytes outside it read as before. -/
theorem memByte_memClear (l : List Host.Cell) (lo n k : Nat) :
    memByte (memClear l lo n) k = if lo ≤ k ∧ k < lo + n then 0 else memByte l k := by
  rw [memByte, mapGetD, memClear, mapGet?_mapDelRange]
  split <;> rfl

theorem memByte_memClear_in {l : List Host.Cell} {lo n k : Nat} (h : lo ≤ k) (h' : k < lo + n) :
    memByte (memClear l lo n) k = 0 := by
  rw [memByte_memClear, if_pos ⟨h, h'⟩]

theorem inRange_of_memClear_ne {l : List Host.Cell} {lo n k : Nat} (h : memByte (memClear l lo n) k ≠ memByte l k) :
    lo ≤ k ∧ k < lo + n := by
  rw [memByte_memClear] at h
  exact Decidable.of_not_not fun hout => h (if_neg hout)

/-! ## The payload of a partition command (R317) -/

theorem firstFail_cons_ok {bad : Bool} {st : Nat} {l : List (Bool × Nat)} (h : firstFail ((bad, st) :: l) = stOk)
    (hst : st ≠ stOk) : bad = false ∧ firstFail l = stOk := by
  cases bad with
  | false => exact ⟨rfl, h⟩
  | true => exact absurd h hst

/-- A payload of the form with a site names a partition and a site of the panel. -/
theorem siteForm_bounds {rest : List (Bool × Nat)} (h : firstFail (partForm 0 true pay ++ rest) = stOk) :
    leAt pay 0 1 < 8 ∧ partSite pay < 224 := by
  obtain ⟨-, h⟩ := firstFail_cons_ok h (by decide)
  obtain ⟨h, -⟩ := firstFail_cons_ok h (by decide)
  simp only [if_true, Bool.or_eq_false_iff, decide_eq_false_iff_not] at h
  obtain ⟨⟨hpart, -⟩, hx, hy⟩ := h
  rw [partSite]
  omega

/-! ## A site's partition (R319, R320) -/

theorem setOwner_only (i part : Nat) (s : State) :
    OnlyChanges [.fp, .host, .ev, .fw, .hostMem, .bootGeneration] s (setOwner i part s) :=
  (within_setOwner (Covers.self _) (Within.refl _ s)).frame

theorem part_setOwner (h : i < s.fp.entries.length) (part : Nat) : (entryAt (setOwner i part s) i).part = part := by
  obtain ⟨g, hg⟩ := recordChange_entry (modEntry i fun e => { e with part := part }) s i
  rw [entryAt_modEntry_same _ _ h] at hg
  rw [setOwner, hg]

theorem entryAt_setOwner_ne (h : j ≠ i) (part : Nat) : entryAt (setOwner i part s) j = entryAt s j :=
  recordChange_entry_same _ _ (FloorPlanFamily.modEntry_entries_ne s _ h)

theorem generation_setOwner (hb : s.fp.built = true) (h : i < s.fp.entries.length) (hne : (entryAt s i).part ≠ part) :
    (setOwner i part s).boot.generation = nextGeneration s.boot.generation := by
  refine recordChange_generation (j := i) _ _ hb (mem_changedSites.mpr
    ⟨entryAt s i, { entryAt s i with part := part }, ?_, ?_, ?_⟩)
  · simp [entryAt, h]
  · simp [modEntry, modAt, entryAt, h]
  · exact fun he => hne (congrArg SiteEntry.part he)

/-! ## A unit that a partition receives (R208, R319) -/

theorem prepareUnit_only (part i : Nat) (s : State) : OnlyChanges [.parts, .hbms, .bufs, .mem] s (prepareUnit part i s) :=
  (within_prepareUnit (Covers.self _) (Within.refl _ s)).frame

theorem siteOfStack_stackOfSite : ∀ i, i < 224 → placeRole i = 2 → siteOfStack (stackOfSite i) = i := by decide +kernel

theorem mem_prepareUnit_compute (h : placeRole i = 1) (part : Nat) (s : State) :
    (prepareUnit part i s).mem = memClear s.mem (addrOf i 0x40 0) 0x2000000 := by
  rw [prepareUnit, if_pos h]
  rfl

theorem mem_prepareUnit_stack (hi : i < 224) (h : placeRole i = 2) (part : Nat) (s : State) :
    (prepareUnit part i s).mem = memClear s.mem (addrOf i 0 0) (2 ^ 40) := by
  have hsite : stackAddr (stackOfSite i) 0 = addrOf i 0 0 := by
    rw [stackAddr, siteOfStack_stackOfSite i hi h]
  rw [prepareUnit, if_neg (by rw [h]; decide), if_pos h, ← hsite]
  rfl

theorem mem_prepareUnit_other (h1 : placeRole i ≠ 1) (h2 : placeRole i ≠ 2) (part : Nat) (s : State) :
    (prepareUnit part i s).mem = s.mem := by
  rw [prepareUnit, if_neg h1, if_neg h2]
  split <;> rfl

/-- What a site's unit is given to a partition with: its owner, and a memory that is zero. -/
def givenTo (i part : Nat) (s : State) : State := prepareUnit part i (setOwner i part s)

theorem entryAt_givenTo (i part : Nat) (s : State) (j : Nat) :
    entryAt (givenTo i part s) j = entryAt (setOwner i part s) j :=
  entryAt_of_fp (prepareUnit_only part i (setOwner i part s) .fp (by decide)) j

theorem generation_givenTo (i part : Nat) (s : State) :
    (givenTo i part s).boot.generation = (setOwner i part s).boot.generation :=
  prepareUnit_only part i (setOwner i part s) .bootGeneration (by decide)

theorem mem_setOwner (i part : Nat) (s : State) : (setOwner i part s).mem = s.mem :=
  setOwner_only i part s .mem (by decide)

/-- The bytes that change when a unit is given are those of the die buffer of a compute die, or of the stack. -/
theorem memByte_givenTo_ne (hi : i < 224) {a : Nat} (h : memByte (givenTo i part s).mem a ≠ memByte s.mem a) :
    (placeRole i = 1 ∧ addrOf i 0x40 0 ≤ a ∧ a < addrOf i 0x40 0 + 0x2000000)
      ∨ (placeRole i = 2 ∧ addrOf i 0 0 ≤ a ∧ a < addrOf i 0 0 + 2 ^ 40) := by
  rw [← mem_setOwner i part s, givenTo] at h
  by_cases h1 : placeRole i = 1
  · rw [mem_prepareUnit_compute h1] at h
    exact .inl ⟨h1, inRange_of_memClear_ne h⟩
  · by_cases h2 : placeRole i = 2
    · rw [mem_prepareUnit_stack hi h2] at h
      exact .inr ⟨h2, inRange_of_memClear_ne h⟩
    · rw [mem_prepareUnit_other h1 h2] at h
      exact absurd rfl h

theorem memByte_givenTo_compute (h : placeRole i = 1) {a : Nat} (hlo : addrOf i 0x40 0 ≤ a)
    (hhi : a < addrOf i 0x40 0 + 0x2000000) : memByte (givenTo i part s).mem a = 0 := by
  rw [givenTo, mem_prepareUnit_compute h]
  exact memByte_memClear_in hlo hhi

theorem memByte_givenTo_stack (hi : i < 224) (h : placeRole i = 2) {a : Nat} (hlo : addrOf i 0 0 ≤ a)
    (hhi : a < addrOf i 0 0 + 2 ^ 40) : memByte (givenTo i part s).mem a = 0 := by
  rw [givenTo, mem_prepareUnit_stack hi h]
  exact memByte_memClear_in hlo hhi

/-! ## Several stacks changed alike (R328) -/

/-- A change that made twice is made once reaches each stack of a list, and no other. -/
theorem stack_modStacks {g : StackState → StackState} (hg : ∀ d, g (g d) = g d) (l : List Nat) (s : State) (n : Nat) :
    mapGetD (l.foldl (fun s m => modStack m g s) s).hbms n stackZero
      = if n ∈ l then g (mapGetD s.hbms n stackZero) else mapGetD s.hbms n stackZero := by
  induction l generalizing s with
  | nil => rfl
  | cons m l ih =>
    rw [List.foldl_cons, ih]
    by_cases hm : n = m
    · rw [hm, stack_modStack_same, hg, ite_self, if_pos List.mem_cons_self]
    · rw [stack_modStack_ne _ _ hm]
      simp only [List.mem_cons, hm, false_or]

theorem modStacks_only (g : StackState → StackState) (l : List Nat) (s : State) :
    OnlyChanges [.hbms] s (l.foldl (fun s m => modStack m g s) s) :=
  ScratchpadFamily.related_foldl (R := OnlyChanges [.hbms]) (fun s p _ => same_refl p s) only_trans
    (fun s m => modStack_only m g s) l s

/-! ## The commands (R318 to R320, R328 to R331) -/

theorem exec_partitionCreate (h : Allowed 0x0300 (partitionChecks 0x0300) c pay s) :
    exec (.partitionCreate c) s = .next (complete c stOk 0 (modPart (leAt pay 0 1) (fun _ => { partitionZero with
      present := true, debug := bitAt (leAt pay 1 1) 0, inject := bitAt (leAt pay 1 1) 1 }) (takeCmd c s))) :=
  (runRow_accepted h.1 doPartitionCreate).trans (congrArg _ (FloorPlanFamily.checked_pass h.2))

theorem exec_partitionDestroy (h : Allowed 0x0301 (partitionChecks 0x0301) c pay s) :
    exec (.partitionDestroy c) s
      = .next (complete c stOk 0 (modPart (leAt pay 0 1) (fun _ => partitionZero) (takeCmd c s))) :=
  (runRow_accepted h.1 doPartitionDestroy).trans (congrArg _ (FloorPlanFamily.checked_pass h.2))

theorem exec_partitionAdd (h : Allowed 0x0302 (partitionChecks 0x0302) c pay s) :
    exec (.partitionAdd c) s = .next (complete c stOk 0
      (if (entryAt (takeCmd c s) (partSite pay)).part = leAt pay 0 1 then takeCmd c s
       else givenTo (partSite pay) (leAt pay 0 1) (takeCmd c s))) := by
  refine (runRow_accepted h.1 doPartitionAdd).trans (congrArg _ ?_)
  rw [doPartitionAdd]
  refine (FloorPlanFamily.checked_pass h.2).trans ?_
  split <;> rfl

theorem exec_partitionRemove (h : Allowed 0x0303 (partitionChecks 0x0303) c pay s) :
    exec (.partitionRemove c) s = .next (complete c stOk 0 (setOwner (partSite pay) 0xFF (takeCmd c s))) := by
  refine (runRow_accepted h.1 doPartitionRemove).trans (congrArg _ ?_)
  rw [doPartitionRemove]
  exact FloorPlanFamily.checked_pass h.2

/-- The two forms of WINDOW_SET write one entry of the list of windows. -/
theorem doWindowSet_passes (h : firstFail (partitionChecks 0x0304 pay s) = stOk) :
    doWindowSet c pay s = complete c stOk 0 (modPart (leAt pay 0 1) (fun p => { p with
      windows := p.windows.set (leAt pay 1 1)
        (if leAt pay 2 1 == 1 then none else some ⟨leAt pay 4 4, leAt pay 8 8, leAt pay 0x10 8⟩) }) s) := by
  rw [doWindowSet]
  exact FloorPlanFamily.checked_pass h

/-- The stacks that a MEM_SCRUB_SET names: one, or all that are there. -/
def scrubSetStacks (pay : List Byte) (s : State) : List Nat :=
  if leAt pay 0 1 = 0xFF then (List.range 32).filter (fun n => !siteAbsent s (siteOfStack n)) else [leAt pay 0 1]

/-- A stack with another scrub period. -/
def periodSet (hours : Nat) (d : StackState) : StackState := { d with period := hours }

theorem exec_memScrubSet (h : Allowed 0x0305 (partitionChecks 0x0305) c pay s) :
    exec (.memScrubSet c) s = .next (complete c stOk 0 ((scrubSetStacks pay (takeCmd c s)).foldl
      (fun s m => modStack m (periodSet (leAt pay 2 2)) s) (takeCmd c s))) := by
  refine (runRow_accepted h.1 doMemScrubSet).trans (congrArg _ ?_)
  rw [doMemScrubSet]
  exact FloorPlanFamily.checked_pass h.2

theorem mem_scrubSetStacks {n : Nat} (hn : n < 32)
    (h : leAt pay 0 1 = n ∨ (leAt pay 0 1 = 0xFF ∧ siteAbsent s (siteOfStack n) = false)) :
    n ∈ scrubSetStacks pay s := by
  rw [scrubSetStacks]
  obtain hone | ⟨hall, hthere⟩ := h
  · rw [if_neg (by omega), hone]
    exact List.mem_singleton.mpr rfl
  · rw [if_pos hall, List.mem_filter, hthere]
    exact ⟨List.mem_range.mpr hn, rfl⟩

theorem not_mem_scrubSetStacks {n : Nat} (h : leAt pay 0 1 ≠ 0xFF) (hn : n ≠ leAt pay 0 1) :
    n ∉ scrubSetStacks pay s := by
  rw [scrubSetStacks, if_neg h, List.mem_singleton]
  exact hn

/-- Settles O38: each command passes its checks and makes the one change of its row. -/
theorem partitionCommands : Obligations.PartitionCommands := by
  unfold Obligations.PartitionCommands
  intro c pay s hkept hbuilt
  have hlen : (takeCmd c s).fp.entries.length = 224 := (takeCmd_kept hkept).entries
  have hbuilt' : (takeCmd c s).fp.built = true := by rw [takeCmd_fp, hbuilt]
  refine ⟨exec_partitionCreate, exec_partitionDestroy, fun h => ?add, fun h => ?remove,
    fun h => ?window, fun h => ?scrub⟩
  case add =>
    obtain ⟨-, hsite⟩ := siteForm_bounds h.2
    have hin : partSite pay < (takeCmd c s).fp.entries.length := hlen ▸ hsite
    have hrun := exec_partitionAdd h
    rw [takeCmd_entryAt] at hrun
    by_cases hown : (entryAt s (partSite pay)).part = leAt pay 0 1
    · rw [if_pos hown] at hrun
      refine ⟨_, hrun, ?_, fun j _ => takeCmd_entryAt c s j, fun a ha => absurd ?_ ha,
        fun _ => rfl, fun h => absurd hown h⟩
      · rw [takeCmd_entryAt, hown]
      · rw [takeCmd_mem]
    · rw [if_neg hown] at hrun
      refine ⟨_, hrun, ?_, fun j hj => ?_, fun a ha => ?_, fun h => absurd h hown, fun _ => ⟨?_, fun h1 a hlo hhi => ?_,
        fun h2 a hlo hhi => ?_⟩⟩
      · rw [entryAt_givenTo, part_setOwner hin]
      · rw [entryAt_givenTo, entryAt_setOwner_ne hj, takeCmd_entryAt]
      · rw [← takeCmd_mem c s] at ha
        exact memByte_givenTo_ne hsite ha
      · rw [generation_givenTo, generation_setOwner hbuilt' hin (by rwa [takeCmd_entryAt]), takeCmd_boot]
      · exact memByte_givenTo_compute h1 hlo hhi
      · exact memByte_givenTo_stack hsite h2 hlo hhi
  case remove =>
    obtain ⟨hpart, hsite⟩ := siteForm_bounds h.2
    have hin : partSite pay < (takeCmd c s).fp.entries.length := hlen ▸ hsite
    have hne : (entryAt (takeCmd c s) (partSite pay)).part ≠ 0xFF := by
      obtain ⟨-, hchecks⟩ := firstFail_cons_ok h.2 (by decide)
      obtain ⟨-, hchecks⟩ := firstFail_cons_ok hchecks (by decide)
      obtain ⟨-, hchecks⟩ := firstFail_cons_ok hchecks (by decide)
      obtain ⟨hown, -⟩ := firstFail_cons_ok hchecks (by decide)
      have hown := bne_eq_false_iff_eq.mp hown
      omega
    refine ⟨_, exec_partitionRemove h, part_setOwner hin _, fun j hj => ?_, ?_, ?_, ?_⟩
    · rw [entryAt_setOwner_ne hj, takeCmd_entryAt]
    · rw [mem_setOwner, takeCmd_mem]
    · exact (setOwner_only _ _ _ .parts (by decide)).trans (takeCmd_parts c s)
    · rw [generation_setOwner hbuilt' hin hne, takeCmd_boot]
  case window =>
    have hset := doWindowSet_passes (c := c) h.2
    refine ⟨fun h0 => (runRow_accepted h.1 doWindowSet).trans (congrArg _ ?_),
      fun h1 => (runRow_accepted h.1 doWindowSet).trans (congrArg _ ?_)⟩
    · rw [hset, h0]
      rfl
    · rw [hset, h1]
      rfl
  case scrub =>
    refine ⟨_, exec_memScrubSet h, fun n hn hnamed => ?_, fun n hone hn => ?_, modStacks_only _ _ _⟩
    · have hnamed' : leAt pay 0 1 = n ∨ (leAt pay 0 1 = 0xFF ∧ siteAbsent (takeCmd c s) (siteOfStack n) = false) := by
        rwa [siteAbsent, takeCmd_entryAt]
      rw [stack_modStacks (g := periodSet _) (fun _ => rfl), if_pos (mem_scrubSetStacks hn hnamed'), takeCmd_hbms]
      rfl
    · rw [stack_modStacks (g := periodSet _) (fun _ => rfl), if_neg (not_mem_scrubSetStacks hone hn), takeCmd_hbms]

end Sys2Proof.ServiceFamily

namespace Sys2Proof.ServiceFamily

open Machine Laws BayFamily

variable {q : Packet} {f : Flight} {x : RankExtra} {e : EccFinding} {s t u : State} {m : MemKind} {off n st time : Nat}
  {data bs : List Byte}

/-! ## Flits are counted (R321) -/

/-- From `s` to `t` no more than the ports' counts change. -/
def OnlyCounts (s t : State) : Prop := ∃ ports, t = { s with fab := { s.fab with ports := ports } }

theorem OnlyCounts.refl (s : State) : OnlyCounts s s := ⟨s.fab.ports, rfl⟩

theorem OnlyCounts.trans (h : OnlyCounts s t) (h' : OnlyCounts t u) : OnlyCounts s u := by
  obtain ⟨_, rfl⟩ := h
  obtain ⟨ports, rfl⟩ := h'
  exact ⟨ports, rfl⟩

theorem countFlits_counts (q : Packet) (s : State) : OnlyCounts s (countFlits q s) := by
  rw [countFlits]
  split
  · exact OnlyCounts.refl s
  · exact ScratchpadFamily.related_foldl OnlyCounts.refl OnlyCounts.trans (fun _ _ => ⟨_, rfl⟩) _ s

@[simp] theorem answers_countFlits (q : Packet) (s : State) : (countFlits q s).fab.answers = s.fab.answers := by
  obtain ⟨_, h⟩ := countFlits_counts q s
  rw [h]
@[simp] theorem flight_countFlits (q : Packet) (s : State) : (countFlits q s).fab.flight = s.fab.flight := by
  obtain ⟨_, h⟩ := countFlits_counts q s
  rw [h]
@[simp] theorem awaits_countFlits (q : Packet) (s : State) : (countFlits q s).fab.awaits = s.fab.awaits := by
  obtain ⟨_, h⟩ := countFlits_counts q s
  rw [h]
@[simp] theorem drops_countFlits (q : Packet) (s : State) : (countFlits q s).fab.drops = s.fab.drops := by
  obtain ⟨_, h⟩ := countFlits_counts q s
  rw [h]

theorem countFlits_only (q : Packet) (s : State) : OnlyChanges [.fab] s (countFlits q s) :=
  (within_countFlits (Covers.self _) (Within.refl _ s)).frame

/-! ## A request lands and is answered (R302, R308) -/

@[simp] theorem flightOf_q (s : State) (q : Packet) : (flightOf s q).q = q := by
  rw [flightOf]
  cases hf : s.fab.flight.find? (fun f => f.q == q) with
  | none => rfl
  | some f =>
    have hfound := List.find?_some hf
    exact beq_iff_eq.mp hfound

/-- A request that is not in flight carries nothing beside its packet. -/
theorem flightOf_absent (h : ∀ x, x ∈ s.fab.flight → x.q ≠ q) : flightOf s q = ⟨q, none, .nothing⟩ := by
  have hnone : s.fab.flight.find? (fun f => f.q == q) = none :=
    List.find?_eq_none.mpr fun x hx => fun he => h x hx (beq_iff_eq.mp he)
  rw [flightOf, hnone]
  rfl

/-- The request is no longer on its way, and its flits are counted. -/
def landed (q : Packet) (s : State) : State := countFlits q (landFlight q s)

theorem answers_landFlight (q : Packet) (s : State) : (landFlight q s).fab.answers = s.fab.answers := by
  rw [landFlight]
  split <;> rfl

theorem answers_landed (q : Packet) (s : State) : (landed q s).fab.answers = s.fab.answers := by
  rw [landed, answers_countFlits, answers_landFlight]

theorem landFlight_only (q : Packet) (s : State) : OnlyChanges [.fab] s (landFlight q s) :=
  (within_landFlight (Covers.self _) (Within.refl _ s)).frame

theorem landed_only (q : Packet) (s : State) : OnlyChanges [.fab] s (landed q s) :=
  only_trans (landFlight_only q s) (countFlits_only q _)

theorem answer_only (q : Packet) (st : Nat) (data : List Byte) (s : State) : OnlyChanges [.fab] s (answer q st data s) :=
  (within_answer (Covers.self _) (Within.refl _ s)).frame

theorem answers_answer (q : Packet) (st : Nat) (data : List Byte) (s : State) :
    (answer q st data s).fab.answers = s.fab.answers ++ [answerPacket q st data] := rfl

/-! ## Arrival (R300, R308, R313) -/

/-- A destination that names no site is answered by the source router. -/
theorem arrive_nowhere (h : 14 ≤ addrY (destOf q)) : arrive q x e s = answer q 4 [] (landFlight q s) := by
  rw [arrive]
  exact if_pos h

/-- A request waits for those before it on its stream, and for a hop that retrains. -/
theorem arrive_early (hy : addrY (destOf q) < 14)
    (h : isNextOf (s.fab.flight.map (fun f => f.q)) q = false ∨ routeTrains s q = true) : arrive q x e s = s := by
  have hwait : (!isNextOf (s.fab.flight.map (fun f => f.q)) q || routeTrains s q) = true := by
    obtain h | h := h <;> rw [h]
    · rfl
    · exact Bool.or_true _
  rw [arrive, if_neg (Nat.not_le.mpr hy), if_pos hwait]

/-- What a request meets, from what its unit says of it and the state that the unit leaves. -/
def servedTo (q : Packet) (r : Served × State) (s : State) : State :=
  match r.1 with
  | .wait => s
  | .held => landed q r.2
  | .reply st data => answer q st data (landed q r.2)

/-- A request that comes in meets its unit. -/
theorem arrive_served (hin : RequestIn q s) (hy : addrY (destOf q) < 14) {r : Served × State}
    (h : serve (flightOf s q) x e s = r) :
    arrive q x e s = servedTo q r s := by
  obtain ⟨hnext, htrains, hlost⟩ := hin
  rw [arrive, if_neg (Nat.not_le.mpr hy), hnext, htrains, hlost, if_neg (by decide), if_neg Bool.false_ne_true, h]
  rfl

/-- A request that its unit answers without a change of the fabric has its answer on the way. -/
theorem arrive_answers (hin : RequestIn q s) (hy : addrY (destOf q) < 14)
    (h : serve (flightOf s q) x e s = (.reply st data, u)) (hfab : u.fab = s.fab) :
    (arrive q x e s).fab.answers = s.fab.answers ++ [answerPacket q st data] ∧ OnlyChanges [.fab] u (arrive q x e s) := by
  rw [arrive_served hin hy h, servedTo]
  refine ⟨?_, only_trans (landed_only q u) (answer_only q st data _)⟩
  rw [answers_answer, answers_landed, hfab]

theorem addrY_of_arrivalStatus (h : arrivalStatus s q = none) : addrY (destOf q) < 14 := by
  by_contra hy
  rw [arrivalStatus, if_pos (Nat.not_lt.mp hy)] at h
  cases h

/-- A request that reaches its unit meets it. -/
theorem arrive_served_of_reaches (hr : Reaches q s) {r : Served × State} (h : serve (flightOf s q) x e s = r) :
    arrive q x e s = servedTo q r s := by
  obtain ⟨hin, hstatus, -⟩ := hr
  exact arrive_served hin (addrY_of_arrivalStatus hstatus) h

theorem arrive_answers_of_reaches (hr : Reaches q s) (h : serve (flightOf s q) x e s = (.reply st data, u))
    (hfab : u.fab = s.fab) :
    (arrive q x e s).fab.answers = s.fab.answers ++ [answerPacket q st data] ∧ OnlyChanges [.fab] u (arrive q x e s) := by
  obtain ⟨hin, hstatus, -⟩ := hr
  exact arrive_answers hin (addrY_of_arrivalStatus hstatus) h hfab

/-- The router answers what may not enter. -/
theorem serve_refused (h : arrivalStatus s f.q = some st) (hst : st ≠ 3) : serve f x e s = (.reply st [], s) := by
  rw [serve, h]
  dsimp only
  rw [if_neg hst]

theorem arrive_refused (hin : RequestIn q s) (h : arrivalStatus s q = some st) (hst : st ≠ 3) :
    (arrive q x e s).fab.answers = s.fab.answers ++ [answerPacket q st []] ∧ OnlyChanges [.fab] s (arrive q x e s) := by
  by_cases hy : addrY (destOf q) < 14
  · exact arrive_answers hin hy (serve_refused (by rwa [flightOf_q]) hst) rfl
  · have hst4 : st = 4 := by
      rw [arrivalStatus, if_pos (Nat.not_lt.mp hy)] at h
      exact (Option.some.inj h).symm
    rw [arrive_nowhere (Nat.not_lt.mp hy), hst4]
    refine ⟨?_, only_trans (landFlight_only q s) (answer_only q 4 [] _)⟩
    rw [answers_answer, answers_landFlight]

theorem serve_read (hr : Reaches q s) (hq : opcodeOf q = 1) :
    serve (flightOf s q) x e s = serveRead (flightOf s q) e s := by
  obtain ⟨-, hstatus, hwaits⟩ := hr
  rw [serve, flightOf_q, hstatus]
  dsimp only
  rw [hwaits, if_neg Bool.false_ne_true, if_pos hq]

theorem serve_write (hr : Reaches q s) (hq : opcodeOf q = 2) :
    serve (flightOf s q) x e s = serveWrite (flightOf s q) x e s := by
  obtain ⟨-, hstatus, hwaits⟩ := hr
  rw [serve, flightOf_q, hstatus]
  dsimp only
  rw [hwaits, if_neg Bool.false_ne_true, if_neg (by rw [hq]; decide), if_pos hq]

/-! ## Reads of a memory (R208, R326) -/

theorem examineWords_clean (h : s.err.armed = []) {ws : List Nat} (hw : ∀ w, w ∈ ws → isBad s m w = false)
    (res : Option Nat) : examineWords m ⟨[], []⟩ ws s res = ([], s) := by
  rw [examineWords]
  induction ws with
  | nil => rfl
  | cons w ws ih =>
    rw [List.foldl_cons, examineWord_clean h (hw w List.mem_cons_self)]
    exact ih fun v hv => hw v (List.mem_cons_of_mem _ hv)

theorem readMem_clean (h : CleanRange m off n s) (res : Option Nat) :
    readMem m off n ⟨[], []⟩ s res = (false, memBytes s m off n, s) := by
  rw [readMem, examineWords_clean h.1 h.2]
  rfl

theorem awake_of_memOpen (h : memOpen s m off n) : stackSleeps s m = false ∧ stackFull s m = false := by
  cases m with
  | stack k =>
    obtain ⟨hawake, hroom⟩ := h
    exact ⟨hawake, decide_eq_false (Nat.not_le.mpr hroom)⟩
  | core k => exact ⟨rfl, rfl⟩
  | buffer i => exact ⟨rfl, rfl⟩
  | array w => exact ⟨rfl, rfl⟩

/-- A memory that takes a read in which its codes find nothing answers with its bytes. -/
theorem serveMemRead_clean (hsize : off + n ≤ memSize s m) (ho : memOpen s m off n) (hc : CleanRange m off n s)
    (res : Option Nat) : serveMemRead m off n ⟨[], []⟩ s res = (.reply 0 (memBytes s m off n), s) := by
  unfold serveMemRead
  rw [if_neg (Nat.not_lt.mpr hsize)]
  cases m with
  | core k =>
    obtain ⟨hremote, hports⟩ := ho
    dsimp only
    rw [hremote, hports, if_pos (by decide), readMem_clean hc]
    rfl
  | buffer i | stack i | array i =>
    dsimp only
    rw [readMem_clean hc]
    rfl

theorem serveRead_mem (hq : f.q = q) (hm : memKindOf (addrSite (destOf q)) (addrUnit (destOf q)) = some m)
    (hrange : badRange q = false) (hsize : addrOff (destOf q) + q.len ≤ memSize s m)
    (ho : memOpen s m (addrOff (destOf q)) q.len) (hc : CleanRange m (addrOff (destOf q)) q.len s) :
    serveRead f ⟨[], []⟩ s = (.reply 0 (memBytes s m (addrOff (destOf q)) q.len), s) := by
  subst hq
  obtain ⟨hawake, hroom⟩ := awake_of_memOpen ho
  rw [serveRead, hm]
  dsimp only
  rw [hawake, hrange, hroom]
  simp only [Bool.false_eq_true, if_false]
  exact serveMemRead_clean hsize ho hc none

/-! ## Writes of a memory (R206, R327, R361) -/

/-- The memories whose bytes lie by service address: the die buffers and the stacks. -/
def ByAddress (m : MemKind) : Prop := ∃ n, m = .buffer n ∨ m = .stack n

theorem memBytes_byAddress (h : ByAddress m) (s : State) (off n : Nat) :
    memBytes s m off n = memRead s.mem (addrOf (memSite m) (memUnit m) off) n := by
  obtain ⟨k, rfl | rfl⟩ := h <;> rfl

theorem putMem_byAddress (h : ByAddress m) (off : Nat) (bs : List Byte) (s : State) :
    putMem m off bs s = { s with mem := memWrite s.mem (addrOf (memSite m) (memUnit m) off) bs } := by
  obtain ⟨k, rfl | rfl⟩ := h <;> rfl

theorem markBad_byAddress (h : ByAddress m) (w : Nat) (b : Bool) (s : State) :
    OnlyChanges [.mem, .hbms, .bufs] s (markBad m w b s) ∧ (markBad m w b s).mem = s.mem := by
  obtain ⟨k, rfl | rfl⟩ := h
  · exact ⟨(within_modBuf ((Covers.self _).mono (by decide)) (Within.refl _ s)).frame, rfl⟩
  · exact ⟨(within_modStack ((Covers.self _).mono (by decide)) (Within.refl _ s)).frame, rfl⟩

theorem memRead_length (l : List Host.Cell) (a n : Nat) : (memRead l a n).length = n := by
  induction n generalizing a with
  | zero => rfl
  | succ n ih => rw [memRead, List.length_cons, ih]

/-- Where no word is left as it was, the new bytes are those that were sent. -/
theorem merged_eq {old : List Byte} (h : old.length = bs.length) (off w0 : Nat) :
    ((bs.zip old).zipIdx.map fun p => if ([] : List Nat).contains ((off + p.2) / w0) then p.1.2 else p.1.1) = bs := by
  have hfst : (fun p : (Byte × Byte) × Nat => if ([] : List Nat).contains ((off + p.2) / w0) then p.1.2 else p.1.1)
      = Prod.fst ∘ Prod.fst := rfl
  rw [hfst, ← List.map_map, List.zipIdx_map_fst, List.map_fst_zip h.ge]

/-- A write by service address in which the codes find nothing writes its bytes, and marks the words that it covers
as whole. -/
theorem writeMem_clean (hm : ByAddress m) (hc : CleanRange m off bs.length s) :
    ∃ v, writeMem m off bs ⟨[], []⟩ s = (false, v)
      ∧ v.mem = memWrite s.mem (addrOf (memSite m) (memUnit m) off) bs ∧ OnlyChanges [.mem, .hbms, .bufs] s v := by
  obtain ⟨harmed, hgood⟩ := hc
  have hparts : ∀ w, w ∈ (wordsOf m off bs.length).filter (fun w => !coversWord m off bs.length w) →
      isBad s m w = false := fun w hw => hgood w (List.mem_of_mem_filter hw)
  have hkept : ((wordsOf m off bs.length).filter (fun w => !coversWord m off bs.length w)).filter (isBad s m) = [] :=
    List.filter_eq_nil_iff.mpr fun w hw => by rw [hparts w hw]; decide
  have hold : (memBytes s m off bs.length).length = bs.length := by rw [memBytes_byAddress hm, memRead_length]
  have hmarks (ws : List Nat) (v : State) :
      OnlyChanges [.mem, .hbms, .bufs] v (ws.foldl (fun s w => markBad m w false s) v)
        ∧ (ws.foldl (fun s w => markBad m w false s) v).mem = v.mem :=
    ScratchpadFamily.related_foldl (R := fun s u => OnlyChanges [.mem, .hbms, .bufs] s u ∧ u.mem = s.mem)
      (fun s => ⟨fun p _ => same_refl p s, rfl⟩) (fun h h' => ⟨only_trans h.1 h'.1, h'.2.trans h.2⟩)
      (fun s w => markBad_byAddress hm w false s) ws v
  have hput : OnlyChanges [.mem, .hbms, .bufs] s (putMem m off bs s) := by
    rw [putMem_byAddress hm]
    intro p hp
    have h := same_refl p s
    cases p with
    | mem => exact absurd List.mem_cons_self hp
    | _ => exact h
  rw [writeMem, examineWords_clean harmed hparts, hkept, merged_eq hold]
  obtain ⟨honly, hmem⟩ := hmarks ((wordsOf m off bs.length).filter (coversWord m off bs.length)) (putMem m off bs s)
  refine ⟨_, rfl, ?_, only_trans hput honly⟩
  rw [List.foldl_nil, hmem, putMem_byAddress hm]

/-- An array of a weight store takes no WRITE. -/
theorem serveWrite_array {w : Nat} (hq : f.q = q)
    (hm : memKindOf (addrSite (destOf q)) (addrUnit (destOf q)) = some (.array w)) :
    serveWrite f x e s = (.reply 6 [], s) := by
  subst hq
  rw [serveWrite, hm]

/-- A WRITE in the form meets any other memory. -/
theorem serveWrite_memory (hq : f.q = q) (hm : memKindOf (addrSite (destOf q)) (addrUnit (destOf q)) = some m)
    (harray : ∀ w, m ≠ .array w) (hawake : stackSleeps s m = false) (hrange : badRange q = false)
    (hroom : stackFull s m = false) : serveWrite f x e s = serveMemWrite m f e s := by
  subst hq
  rw [serveWrite, hm]
  cases m with
  | array w => exact absurd rfl (harray w)
  | core k | buffer k | stack k =>
    dsimp only
    simp only [hawake, hrange, hroom, Bool.false_eq_true, if_false]

theorem serveWrite_byAddress (hq : f.q = q) (hm : memKindOf (addrSite (destOf q)) (addrUnit (destOf q)) = some m)
    (hby : ByAddress m) (hrange : badRange q = false) (hsize : addrOff (destOf q) + q.len ≤ memSize s m)
    (ho : memOpen s m off n) :
    serveWrite f x e s = (.reply (if (writeMem m (addrOff (destOf q)) q.data e s).1 then 5 else 0) [],
      (writeMem m (addrOff (destOf q)) q.data e s).2) := by
  obtain ⟨hawake, hroom⟩ := awake_of_memOpen ho
  have harray : ∀ w, m ≠ .array w := by
    obtain ⟨k, rfl | rfl⟩ := hby <;> exact fun w h => nomatch h
  rw [serveWrite_memory hq hm harray hawake hrange hroom]
  subst hq
  unfold serveMemWrite
  rw [if_neg (Nat.not_lt.mpr hsize)]
  obtain ⟨k, rfl | rfl⟩ := hby <;> rfl

/-- A WRITE to a core waits at its access port. -/
theorem serveWrite_core {k : Nat} (hq : f = ⟨q, none, .nothing⟩)
    (hm : memKindOf (addrSite (destOf q)) (addrUnit (destOf q)) = some (.core k)) (hrange : badRange q = false)
    (hsize : addrOff (destOf q) + q.len ≤ memSize s (.core k)) :
    serveWrite f x e s = (.held, modCore k (fun c => { c with ax := { c.ax with
      remote := c.ax.remote ++ [⟨q, false, false, 0⟩] } }) s) := by
  subst hq
  rw [serveWrite_memory (q := q) rfl hm (fun _ h => nomatch h) rfl hrange rfl, serveMemWrite,
    if_neg (Nat.not_lt.mpr hsize)]
  rfl

/-! ## Units that are no memory (R338, R339, R366) -/

theorem memKindOf_role {i a : Nat} (h : placeRole i = 2 ∨ placeRole i = 4) (ha : a = 1) : memKindOf i a = none := by
  obtain h | h := h <;> simp [memKindOf, h, ha]

/-- A WRITE of requests meets the queue of its request port. -/
theorem serveWrite_port (hq : f.q = q) (hrole : placeRole (addrSite (destOf q)) = 2) (ha : addrUnit (destOf q) = 1) :
    serveWrite f x e s = servePort (stackOfSite (addrSite (destOf q))) q s := by
  subst hq
  rw [serveWrite, memKindOf_role (.inl hrole) ha, hrole, ha]
  rfl

theorem servePort_open {k : Nat} (habsent : engineAbsent s k = false) (hrange : badRange q = false)
    (hsize : addrOff (destOf q) + q.len ≤ 0x100000) (hoff : addrOff (destOf q) % 64 = 0) (hlen : q.len % 64 = 0) :
    servePort k q s = if 4096 < (engineOf s k).queue.length + q.len / 64 then (.wait, s)
      else (.reply 0 [], modEngine k (fun x => { x with queue := x.queue ++ splitRequests s k q }) s) := by
  rw [servePort, habsent, hrange, decide_eq_false (Nat.not_lt.mpr hsize), hoff, hlen]
  rfl

/-- A READ of an inflate unit in the range of its array meets the page's record. -/
theorem serveRead_inflate (hq : f.q = q) (hrole : placeRole (addrSite (destOf q)) = 4) (ha : addrUnit (destOf q) = 1)
    (hrange : badRange { q with dest := BitVec.ofNat 56 0 } = false) (hoff : addrOff (destOf q) < 0x400000000) :
    serveRead f e s = serveInflate (wstoreOfSite (addrSite (destOf q))) (addrOff (destOf q)) q.len e s := by
  subst hq
  rw [serveRead, memKindOf_role (.inr hrole) ha, hrole, ha]
  dsimp only
  rw [hrange]
  simp only [if_neg (Nat.not_le.mpr hoff)]
  rfl

/-! ## The meanings (R302, R316) -/

theorem exec_serviceRead (hq : opcodeOf q < 2 ∨ 6 < opcodeOf q) (e : EccFinding) (time : Nat) (s : State) :
    exec (.serviceRead q e time) s = .next (arrive q noExtra e (atTime time s)) :=
  if_neg (show ¬ (2 ≤ opcodeOf q ∧ opcodeOf q ≤ 6) by omega)

theorem exec_serviceWrite (hq : opcodeOf q = 2) (hfit : dataFits q = true) (e : EccFinding) (time : Nat) (s : State) :
    exec (.serviceWrite q e time) s = .next (arrive q noExtra e (atTime time s)) := by
  show execServiceWrite q e time s = _
  rw [execServiceWrite, hq, hfit]
  rfl

theorem exec_requestPortWrite (hq : opcodeOf q = 2) (hfit : dataFits q = true) (time : Nat) (s : State) :
    exec (.requestPortWrite q time) s = .next (arrive q noExtra ⟨[], []⟩ (atTime time s)) := by
  show execRequestPortWrite q time s = _
  rw [execRequestPortWrite, hq, hfit]
  rfl

theorem exec_inflateRead (hq : opcodeOf q = 1) (e : EccFinding) (time : Nat) (s : State) :
    exec (.inflateRead q e time) s = .next (arrive q noExtra e (atTime time s)) :=
  if_neg (not_not.mpr hq)

/-- What a message meets, from what its router says of it. -/
def messageMet (q : Packet) (s : State) : Option Nat → State
  | none => countFlits q s
  | some st => if st = 3 then dropPacket q s else s

theorem exec_ctrlPacket (hq : opcodeOf q = 6) (hfit : dataFits q = true) (time : Nat) (s : State) :
    exec (.ctrlPacket q time) s = .next (messageMet q (atTime time s) (arrivalStatus (atTime time s) q)) := by
  show execCtrlPacket q time s = _
  rw [execCtrlPacket, hq, hfit]
  dsimp only
  cases arrivalStatus (atTime time s) q <;> rfl

theorem drop_countDrop (i : Nat) (s : State) :
    mapGetD (countDrop i s).fab.drops i 0 = mapGetD s.fab.drops i 0 + 1 := by
  rw [countDrop, mapGetD]
  dsimp only
  rw [mapGet?_mapPut_same, Option.getD_some]

/-- A packet that is dropped is counted; no packet comes or goes. -/
theorem fab_dropPacket (q : Packet) (s : State) :
    (dropPacket q s).fab.answers = s.fab.answers ∧ (dropPacket q s).fab.flight = s.fab.flight
      ∧ mapGetD (dropPacket q s).fab.drops (addrSite (destOf q)) 0 = mapGetD s.fab.drops (addrSite (destOf q)) 0 + 1 := by
  have hlog (r : LogRec) : (logAdd r s).fab = s.fab := (within_logged r s).frame .fab (by decide)
  rw [dropPacket, drop_countDrop, hlog, countDrop, hlog]
  exact ⟨rfl, rfl, rfl⟩

/-- Settles O36: a request that comes in meets its unit, and its answer is made in the state that the unit leaves. -/
theorem servicePackets : Obligations.ServicePackets := by
  unfold Obligations.ServicePackets
  intro q time s _
  refine ⟨fun st e hin hst h3 => ⟨fun hq => ?_, fun hq hfit => ?_⟩,
    fun hy hearly => ⟨fun hq e => ?_, fun hq hfit e => ?_⟩,
    fun m hq hr hm hrange hsize ho hc => ?read, fun m hq hfit hr hm hrange hsize => ⟨fun hby ho hc => ?write,
      fun k hk hnew => ?core, fun w hw => ?array⟩,
    fun hq hfit hr hrole ha habsent hrange hsize hoff hlen => ?port, fun hq hr hrole ha hrange hoff => ?inflate,
    fun hq hfit => ?message⟩
  · exact ⟨_, exec_serviceRead hq e time s, arrive_refused hin hst h3⟩
  · exact ⟨_, exec_serviceWrite hq hfit e time s, arrive_refused hin hst h3⟩
  · rw [exec_serviceRead hq, arrive_early (s := atTime time s) hy hearly]
  · rw [exec_serviceWrite hq hfit, arrive_early (s := atTime time s) hy hearly]
  case read =>
    refine ⟨_, exec_serviceRead (.inl (by omega)) _ time s,
      arrive_answers_of_reaches (s := atTime time s) hr ((serve_read hr hq).trans ?_) rfl⟩
    exact serveRead_mem (flightOf_q _ q) hm hrange hsize ho hc
  case write =>
    have hlen : q.data.length = q.len := beq_iff_eq.mp hfit
    rw [← hlen] at hc
    obtain ⟨v, hv, hmem, honly⟩ := writeMem_clean hby hc
    have hserve := (serve_write (x := noExtra) (e := ⟨[], []⟩) hr hq).trans
      (serveWrite_byAddress (flightOf_q _ q) hm hby hrange hsize ho)
    rw [hv] at hserve
    obtain ⟨hanswers, hfab⟩ := arrive_answers_of_reaches hr hserve (honly .fab (by decide))
    have hmem' := (hfab .mem (by decide)).trans hmem
    refine ⟨_, exec_serviceWrite hq hfit _ time s, hanswers, ?_, fun b hb => ?_,
      only_trans (only_mono honly (by decide)) (only_mono hfab (by decide))⟩
    · rw [memBytes_byAddress hby, hmem', ← hlen]
      exact memRead_memWrite _ _ _
    · rw [hmem']
      exact memByte_memWrite_out _ _ _ (hlen ▸ hb)
  case core =>
    subst hk
    have hserve := (serve_write (x := noExtra) (e := ⟨[], []⟩) hr hq).trans
      (serveWrite_core (flightOf_absent hnew) hm hrange hsize)
    have harrive := arrive_served_of_reaches hr hserve
    refine ⟨_, exec_serviceWrite hq hfit _ time s, ?_⟩
    rw [harrive, servedTo]
    dsimp only
    have hland := landed_only q (modCore k (fun c => { c with ax := { c.ax with
      remote := c.ax.remote ++ [⟨q, false, false, 0⟩] } }) (atTime time s))
    refine ⟨answers_landed _ _, ?_, fun j hj => ?_,
      only_trans (within_modCore ((Covers.self _).mono (by decide)) (Within.refl _ _)).frame (only_mono hland (by decide))⟩
    · rw [coreOf_of_cores (hland .cores (by decide)), coreOf_modCore_same]
      rfl
    · rw [coreOf_of_cores (hland .cores (by decide)), coreOf_modCore_ne _ _ hj]
      rfl
  case array =>
    subst hw
    exact ⟨_, exec_serviceWrite hq hfit _ time s, arrive_answers_of_reaches (s := atTime time s) hr
      ((serve_write hr hq).trans (serveWrite_array (flightOf_q _ q) hm)) rfl⟩
  case port =>
    have hserve := ((serve_write (x := noExtra) (e := ⟨[], []⟩) hr hq).trans
      (serveWrite_port (flightOf_q _ q) hrole ha)).trans (servePort_open habsent hrange hsize hoff hlen)
    refine ⟨fun hroom => ?_, fun hfull => ?_⟩
    · have hserve := hserve.trans (if_neg (Nat.not_lt.mpr hroom))
      obtain ⟨hanswers, hfab⟩ := arrive_answers_of_reaches hr hserve rfl
      have hengines := hfab .engines (by decide)
      refine ⟨_, exec_requestPortWrite hq hfit time s, hanswers, ?_, fun n hn => ?_,
        only_trans (within_modEngine ((Covers.self _).mono (by decide)) (Within.refl _ _)).frame
          (only_mono hfab (by decide))⟩
      · rw [engineOf, hengines]
        exact engineOf_modEngine_same _ _ _
      · rw [engineOf, hengines]
        exact engineOf_modEngine_ne _ _ hn
    · have hserve := hserve.trans (if_pos hfull)
      rw [exec_requestPortWrite hq hfit, arrive_served_of_reaches hr hserve, servedTo]
  case inflate =>
    have hserve := (serve_read (x := noExtra) (e := ⟨[], []⟩) hr hq).trans
      (serveRead_inflate (flightOf_q _ q) hrole ha hrange hoff)
    rw [serveInflate] at hserve
    dsimp only at hserve
    refine ⟨fun hbad => ?_, fun hgood hc => ?_⟩
    · rw [if_pos hbad] at hserve
      exact ⟨_, exec_inflateRead hq _ time s, arrive_answers_of_reaches hr hserve rfl⟩
    · rw [hgood, if_neg Bool.false_ne_true, readMem_clean hc] at hserve
      exact ⟨_, exec_inflateRead hq _ time s, arrive_answers_of_reaches hr hserve rfl⟩
  case message =>
    refine ⟨_, exec_ctrlPacket hq hfit time s, ?_⟩
    cases hst : arrivalStatus (atTime time s) q with
    | none =>
      refine ⟨answers_countFlits _ _, flight_countFlits _ _, fun h => (Option.some_ne_none 3 h.symm).elim,
        fun _ => ⟨drops_countFlits _ _, ?_⟩⟩
      exact countFlits_only q _
    | some st =>
      rw [messageMet]
      by_cases h3 : st = 3
      · rw [if_pos h3]
        obtain ⟨hanswers, hflight, hdrops⟩ := fab_dropPacket q (atTime time s)
        exact ⟨hanswers, hflight, fun _ => hdrops, fun h => absurd (congrArg some h3) h⟩
      · rw [if_neg h3]
        exact ⟨rfl, rfl, fun h => absurd (Option.some.inj h) h3, fun _ => ⟨rfl, fun p _ => same_refl p _⟩⟩

end Sys2Proof.ServiceFamily

namespace Sys2Proof.ServiceFamily

open Machine Laws BayFamily

variable {q : Packet} {s t u : State} {i k n unit tag status time : Nat} {data : List Byte}
  {h : Hop} {fl : HopFlit} {p : SiteId} {side : HopSide}

theorem onlyChanges_fab (s : State) (g : FabricState) : OnlyChanges [.fab] s { s with fab := g } := by
  intro p hp
  have h := same_refl p s
  cases p with
  | fab => exact absurd List.mem_cons_self hp
  | _ => exact h

/-! ## Answers (R304, R311) -/

/-- An answer is no longer on its way, and its flits are counted. -/
def answerArrived (q : Packet) (s : State) : State :=
  countFlits q { s with fab := { s.fab with answers := s.fab.answers.erase q } }

theorem answers_answerArrived (q : Packet) (s : State) : (answerArrived q s).fab.answers = s.fab.answers.erase q :=
  answers_countFlits q _
theorem awaits_answerArrived (q : Packet) (s : State) : (answerArrived q s).fab.awaits = s.fab.awaits := awaits_countFlits q _
theorem drops_answerArrived (q : Packet) (s : State) : (answerArrived q s).fab.drops = s.fab.drops := drops_countFlits q _

theorem answerArrived_only (q : Packet) (s : State) : OnlyChanges [.fab] s (answerArrived q s) :=
  only_trans (onlyChanges_fab s _) (countFlits_only q _)

/-- A request waits for its answer no longer. -/
def awaitEnded (a : Await) (s : State) : State := { s with fab := { s.fab with awaits := s.fab.awaits.erase a } }

theorem awaitEnded_only (a : Await) (s : State) : OnlyChanges [.fab] s (awaitEnded a s) := onlyChanges_fab s _

/-- What an answer meets once it has arrived, from the request that waits for it. -/
def answerMet (q : Packet) (s : State) : Option Await → State
  | none => countDrop (addrSite (destOf q)) s
  | some a => deliverAnswer (addrSite (destOf q)) (addrUnit (destOf q)) q.tag.toNat q.status.toNat q.data (awaitEnded a s)

/-- An answer that comes in, on a route that is there, is taken by the request that waits for it, or is dropped. -/
theorem exec_serviceResponse (hlo : 3 ≤ opcodeOf q) (hhi : opcodeOf q ≤ 5) (hq : q ∈ s.fab.answers)
    (hin : ComesIn s.fab.answers ((s.fab.awaits.find? (awaits (srcSite q) (addrSite (destOf q)) (addrUnit (destOf q))
      q.tag.toNat)).map (fun x => x.sent)) q (atTime time s))
    (hroute : srcSite q < 224 → (routeOf s.fab.routes (srcSite q) (addrSite (destOf q))).isSome = true) :
    exec (.serviceResponse q time) s = .next
      (answerMet q (answerArrived q (atTime time s))
        (s.fab.awaits.find? (awaits (srcSite q) (addrSite (destOf q)) (addrUnit (destOf q)) q.tag.toNat))) := by
  obtain ⟨hnext, htrains, hlost⟩ := hin
  have htrains : routeTrains s q = false := htrains
  have hthere : (decide (srcSite q < 224) && (routeOf s.fab.routes (srcSite q) (addrSite (destOf q))).isNone) = false := by
    by_cases hsite : srcSite q < 224
    · rw [← Option.not_isSome, hroute hsite, Bool.not_true, Bool.and_false]
    · rw [decide_eq_false hsite, Bool.false_and]
  show execServiceResponse q time s = _
  rw [execServiceResponse, if_neg (by omega), List.contains_iff_mem.mpr hq, hnext, htrains, if_neg (by decide)]
  dsimp only
  rw [hlost]
  dsimp only
  rw [Bool.false_or, atTime_fab, hthere, if_neg Bool.false_ne_true]
  cases s.fab.awaits.find? (awaits (srcSite q) (addrSite (destOf q)) (addrUnit (destOf q)) q.tag.toNat) with
  | none => rfl
  | some a => rfl

theorem fab_deliverAnswer (site unit tag status : Nat) (data : List Byte) (s : State) :
    (deliverAnswer site unit tag status data s).fab = s.fab :=
  (within_deliverAnswer (Covers.self _) (Within.refl _ s)).frame .fab (by decide)

/-- An answer to a core goes to its burst slots. -/
theorem deliverAnswer_core (hrole : placeRole i = 1) (hunit : unit < 64) :
    deliverAnswer i unit tag status data s = answerBurst (coreOfBit i unit) tag status data s := if_pos ⟨hrole, hunit⟩

/-- The burst slot with the tag that has no answer yet has its status and data. -/
theorem bursts_answerBurst (k : Nat) (tag : BitVec 12) (status : Nat) (data : List Byte) (s : State) :
    (coreOf (answerBurst k tag.toNat status data s) k).ax.bursts = (coreOf s k).ax.bursts.map (fun b =>
      if b.tag = tag ∧ b.answered = false then { b with answered := true, status := status, data := data } else b) := by
  rw [answerBurst, coreOf_modCore_same]
  refine List.map_congr_left fun b _ => ?_
  have hcond : (b.tag.toNat == tag.toNat && !b.answered) = true ↔ b.tag = tag ∧ b.answered = false := by
    rw [Bool.and_eq_true, beq_iff_eq, Bool.not_eq_true', BitVec.toNat_inj]
  exact if_congr hcond rfl rfl

theorem answerBurst_only (k tag status : Nat) (data : List Byte) (s : State) :
    OnlyChanges [.cores] s (answerBurst k tag status data s) :=
  (within_answerBurst (Covers.self _) (Within.refl _ s)).frame

theorem exec_requestExpired {unit : BitVec 8} {tag : BitVec 12} {a : Await}
    (h : s.fab.awaits.find? (fun a => srcSite a.q == siteNo p && a.q.srcUnit == unit && a.q.tag == tag
      && decide (a.sent + 10000000 ≤ (atTime time s).now)) = some a) :
    exec (.requestExpired p unit tag time) s
      = .next (deliverAnswer (siteNo p) unit.toNat tag.toNat 8 [] (awaitEnded a (atTime time s))) := by
  show execRequestExpired p unit tag time s = _
  rw [execRequestExpired, atTime_fab, h]
  rfl

/-! ## Hops (R312, R313) -/

@[simp] theorem hopOf_setHop_same (k : Nat) (h : Hop) (s : State) : hopOf (setHop k h s) k = h := mapGetD_mapSet_same _ _ _ _

theorem hopOf_setHop_ne (h : Hop) (s : State) {j : Nat} (hj : j ≠ k) : hopOf (setHop k h s) j = hopOf s j :=
  mapGetD_mapSet_ne _ _ _ _ hj

theorem hopOf_of_fab (h : t.fab = s.fab) (k : Nat) : hopOf t k = hopOf s k := by
  rw [hopOf, hopOf, h]

theorem ports_setHop (k : Nat) (h : Hop) (s : State) : (setHop k h s).fab.ports = s.fab.ports := rfl

theorem setHop_only (k : Nat) (h : Hop) (s : State) : OnlyChanges [.fab] s (setHop k h s) := onlyChanges_fab s _

/-- The sender keeps a flit that it has to send again. -/
theorem mem_keepFlit (fl : HopFlit) (h : Hop) : fl ∈ (keepFlit fl h).buffer := by
  rw [keepFlit]
  split
  case isTrue hin => exact List.contains_iff_mem.mp hin
  case isFalse =>
    show fl ∈ (h.buffer ++ [fl]).drop (h.buffer.length - 7)
    rw [List.drop_append_of_le_length (Nat.sub_le _ _)]
    exact List.mem_append_right _ (List.mem_singleton.mpr rfl)

theorem replays_keepFlit (fl : HopFlit) (h : Hop) : (keepFlit fl h).replays = h.replays := by
  rw [keepFlit]
  split <;> rfl

/-- What a happening on a port is logged and scored as. -/
theorem fab_reported (r : LogRec) (i kind points : Nat) (s : State) :
    (scoreWear false i kind points (logAdd r s)).fab = s.fab :=
  ((within_scored false i kind points _).frame .fab (by decide)).trans ((within_logged r s).frame .fab (by decide))

theorem reported_only (r : LogRec) (i kind points : Nat) (s : State) :
    OnlyChanges [.host, .ev, .fw, .err, .hostMem, .bootLog] s (scoreWear false i kind points (logAdd r s)) :=
  (within_scoreWear (Covers.self _) (within_logAdd ((Covers.self _).mono (by decide)) (Within.refl _ s))).frame

/-- On a port whose router works and whose hop is up a flit is taken, kept for a replay, or passed over. -/
theorem exec_hopReplay (ha : s.err.armed = []) (hworks : siteWorks s (siteNo p) = true)
    (htrain : (hopOf s (6 * siteNo p + hopSideNo side)).training = false)
    (hdown : (hopOf s (6 * siteNo p + hopSideNo side)).down = false) :
    exec (.hopReplay p side fl time) s = .next
      (let k := 6 * siteNo p + hopSideNo side
       let h := hopOf s k
       if flitGood fl = false then hopReplayed (siteNo p) (hopSideNo side) false fl (atTime time s)
       else if (sidebandOf fl).seq = h.expect then setHop k (acceptFlit fl h) (atTime time s)
       else setHop k (if h.resend then keepFlit fl h else h) (atTime time s)) := by
  have hexamine := examine_unarmed (s := atTime time s) ha 9
    (fun j => aimsAt (siteNo p) j && j.sub == hopSideNo side)
  show execHopReplay p side fl time s = _
  rw [execHopReplay, hworks, htrain, hdown, if_neg (by decide), hexamine]
  dsimp only
  cases flitGood fl with
  | false => rfl
  | true =>
    simp only [Bool.not_true, Bool.false_eq_true, Bool.true_eq_false, if_false]
    by_cases hseq : (sidebandOf fl).seq = (hopOf s (6 * siteNo p + hopSideNo side)).expect
    · rw [if_pos hseq, if_pos hseq]
    · rw [if_neg hseq, if_neg hseq]

/-- A replay counts on its port. -/
def portRetried (i side : Nat) (s : State) : State := modPort i side (fun p => { p with retries := satInc 65535 p.retries }) s

/-- The log record of a replay. -/
def replayRecord (i side : Nat) (s : State) : LogRec :=
  { logBlank 4 with part := ownerOf s i, x := siteX i, y := siteY i, addr := side }

theorem hopReplayed_eq (i side : Nat) (fl : HopFlit) (s : State) :
    hopReplayed i side false fl s = setHop (6 * i + side)
      { keepFlit fl (hopOf s (6 * i + side)) with
        replays := (hopOf s (6 * i + side)).replays + 1
        resend := true
        training := decide (8 ≤ (hopOf s (6 * i + side)).replays + 1) }
      (scoreWear false i 1 5 (logAdd (replayRecord i side (portRetried i side s)) (portRetried i side s))) := by
  rw [hopReplayed, replays_keepFlit]
  rfl

/-- The log record of a retrain that ends. -/
def retrainRecord (i side : Nat) (s : State) : LogRec :=
  { logBlank 6 with injected := false, part := ownerOf s i, x := siteX i, y := siteY i, addr := side }

theorem exec_hopRetrain (ha : s.err.armed = []) (htrain : (hopOf s (6 * siteNo p + hopSideNo side)).training = true)
    (ok : Bool) :
    exec (.hopRetrain p side ok time) s = .next
      (let k := 6 * siteNo p + hopSideNo side
       let h := hopOf s k
       let v := scoreWear false (siteNo p) 2 2000 (logAdd (retrainRecord (siteNo p) (hopSideNo side) s) (atTime time s))
       if ok then setHop k { h with replays := 0, training := false, fails := 0 } v
       else if h.fails + 1 < 3 then setHop k { h with fails := h.fails + 1 } v
       else hopLost (siteNo p) (hopSideNo side) v) := by
  have hexamine := examine_unarmed (s := atTime time s) ha 10
    (fun j => aimsAt (siteNo p) j && j.sub == hopSideNo side)
  have htrains : ¬ (!(hopOf s (6 * siteNo p + hopSideNo side)).training) = true := by
    rw [htrain]
    decide
  show execHopRetrain p side ok time s = _
  rw [execHopRetrain, if_neg htrains, hexamine]
  dsimp only
  rw [Bool.not_false, Bool.and_true]
  cases ok with
  | true =>
    rw [if_pos rfl, if_pos rfl]
    rfl
  | false =>
    rw [if_neg Bool.false_ne_true, if_neg Bool.false_ne_true]
    by_cases hfew : (hopOf s (6 * siteNo p + hopSideNo side)).fails + 1 < 3
    · rw [if_pos hfew, if_pos hfew]
      rfl
    · rw [if_neg hfew, if_neg hfew]
      rfl

theorem fab_raise1 (e : EventRec) (s : State) : (raise1 e s).fab = s.fab := (within_raised e s).frame .fab (by decide)

theorem fab_hopLost (i n : Nat) (s : State) :
    (hopLost i n s).fab
      = (setHop (6 * i + n) { hopZero with fails := 3, down := true } (loseFlits (hopOf s (6 * i + n)) s)).fab :=
  fab_raise1 _ _

theorem hopOf_hopLost_same (i n : Nat) (s : State) :
    hopOf (hopLost i n s) (6 * i + n) = { hopZero with fails := 3, down := true } :=
  (hopOf_of_fab (fab_hopLost i n s) _).trans (hopOf_setHop_same _ _ _)

theorem hopOf_hopLost_ne (s : State) (hk : k ≠ 6 * i + n) : hopOf (hopLost i n s) k = hopOf s k :=
  (hopOf_of_fab (fab_hopLost i n s) _).trans (hopOf_setHop_ne _ _ hk)

/-- A request stays on its way only where no flit of it was lost with the hop. -/
theorem flight_hopLost {f : Flight} (hf : f ∈ (hopLost i n s).fab.flight) :
    f ∈ s.fab.flight
      ∧ headerOf f.q ∉ (hopOf s (6 * i + n)).buffer.filterMap (flitHeader (hopOf s (6 * i + n))) := by
  rw [fab_hopLost] at hf
  obtain ⟨hin, hkept⟩ := List.mem_filter.mp hf
  refine ⟨hin, fun hlost => ?_⟩
  rw [List.contains_iff_mem.mpr hlost] at hkept
  cases hkept

/-! ## Several ports sampled (R321) -/

@[simp] theorem port_modPort_same (i n : Nat) (g : PortCount → PortCount) (s : State) :
    mapGetD (modPort i n g s).fab.ports (6 * i + n) portZero = g (mapGetD s.fab.ports (6 * i + n) portZero) :=
  mapGetD_mapSet_same _ _ _ _

theorem port_modPort_ne (g : PortCount → PortCount) (s : State) (hk : k ≠ 6 * i + n) :
    mapGetD (modPort i n g s).fab.ports k portZero = mapGetD s.fab.ports k portZero := mapGetD_mapSet_ne _ _ _ _ hk

theorem modPort_only (i n : Nat) (g : PortCount → PortCount) (s : State) : OnlyChanges [.fab] s (modPort i n g s) :=
  onlyChanges_fab s _

/-- A port that is none of those sampled keeps its counts. -/
theorem port_modPorts_ne (g : Nat → PortCount → PortCount) {l : List Nat} (s : State)
    (hk : ∀ n, n ∈ l → k ≠ 6 * i + n) :
    mapGetD (l.foldl (fun s n => modPort i n (g n) s) s).fab.ports k portZero = mapGetD s.fab.ports k portZero := by
  induction l generalizing s with
  | nil => rfl
  | cons m l ih =>
    rw [List.foldl_cons, ih _ fun n hn => hk n (List.mem_cons_of_mem _ hn)]
    exact port_modPort_ne _ s (hk m List.mem_cons_self)

/-- Each port sampled takes its own sample, once. -/
theorem port_modPorts (g : Nat → PortCount → PortCount) {l : List Nat} (s : State) (hl : l.Nodup) (hn : n ∈ l) :
    mapGetD (l.foldl (fun s n => modPort i n (g n) s) s).fab.ports (6 * i + n) portZero
      = g n (mapGetD s.fab.ports (6 * i + n) portZero) := by
  induction l generalizing s with
  | nil => cases hn
  | cons m l ih =>
    obtain ⟨hm, hl⟩ := List.nodup_cons.mp hl
    rw [List.foldl_cons]
    obtain rfl | hn := List.mem_cons.mp hn
    · rw [port_modPorts_ne g _ fun j hj => by
        have hne : j ≠ n := fun e => hm (e ▸ hj)
        omega]
      exact port_modPort_same _ _ _ _
    · have hne : n ≠ m := fun e => hm (e ▸ hn)
      rw [ih _ hl hn, port_modPort_ne _ _ (by omega)]

/-- What a sample adds to the counts of a port. -/
def portSampled (fills : List Nat) (waits : List (List Bool)) (n : Nat) (c : PortCount) : PortCount :=
  { c with
    bins := modAt c.bins (fillBin (fills.getD n 0)) (satInc 0xFFFFFFFF)
    stall := (c.stall.zip (waits.getD n [])).map (fun x => satInc 65535 x.1 (b2n x.2)) }

theorem exec_congestionSample {fills : List Nat} {waits : List (List Bool)} (hform : sampleFormOk fills waits = true)
    (hworks : siteWorks s (siteNo p) = true) :
    exec (.congestionSample p fills waits time) s = .next (((List.range 6).filter (portThere (siteNo p))).foldl
      (fun s n => modPort (siteNo p) n (portSampled fills waits n) s) (atTime time s)) := by
  show execCongestionSample p fills waits time s = _
  rw [execCongestionSample, hform, hworks]
  rfl

theorem mem_portsThere : n ∈ (List.range 6).filter (portThere i) ↔ n < 6 ∧ portThere i n = true := by
  rw [List.mem_filter, List.mem_range]

/-! ## Windows and maps (R321, R322) -/

/-- The window that closes. -/
def windowClosed (s : State) : CongWindow :=
  ⟨s.fab.window, s.boot.generation.toNat, (List.range 224).filter (siteWorks s), s.fab.ports, s.fab.drops⟩

/-- The window closes and the next one runs. -/
def windowEnded (s : State) : State :=
  { s with
    fab := { s.fab with
      windows := (windowClosed s :: s.fab.windows).take 17, window := tickOf s, ports := [], drops := [] }
    links := { s.links with links := s.links.links.map (fun p => (p.1, closeLinkWindow s.fab.window p.2)) } }

theorem exec_congestionWindowEnd (h : s.fab.window < tickOf (atTime time s)) :
    exec (.congestionWindowEnd time) s = .next (windowEnded (atTime time s)) := if_neg (Nat.not_le.mpr h)

theorem windowEnded_only (s : State) : OnlyChanges [.fab, .links] s (windowEnded s) := by
  intro p hp
  have h := same_refl p s
  cases p with
  | fab | links => exact absurd (by decide) hp
  | _ => exact h

theorem exec_fabricMapGet {c : Cmd} {pay : List Byte} (ha : Accepted 0x0306 c pay s) (hlen : pay.length = 16)
    (hbuf : 68160 ≤ leAt pay 4 4) (hwin : leAt pay 0 1 ≤ 15) (hzero : zeroAt pay 1 3 = true) :
    exec (.fabricMapGet c) s = .next (completeWithBuf c (leAt pay 8 8)
      (mapBytes ((windowsReady (takeCmd c s)).getD (leAt pay 0 1) ⟨0, 0, [], [], []⟩)) 0 (takeCmd c s)) := by
  have hform : firstFail [(decide (pay.length ≠ 16), stBadLength), (decide (leAt pay 4 4 < 68160), stBadLength),
      (decide (15 < leAt pay 0 1) || !zeroAt pay 1 3, stBadField)] = stOk := by
    rw [hlen, hzero, decide_eq_false (Nat.not_lt.mpr hbuf), decide_eq_false (Nat.not_lt.mpr hwin)]
    rfl
  refine (runRow_accepted ha doFabricMapGet).trans (congrArg _ ?_)
  rw [doFabricMapGet]
  exact FloorPlanFamily.checked_pass hform

/-- Settles O37: an answer is taken or dropped in the state that its arrival leaves; a hop changes by itself;
and a port takes one sample. -/
theorem answersHopsAndCongestionMaps : Obligations.AnswersHopsAndCongestionMaps := by
  unfold Obligations.AnswersHopsAndCongestionMaps
  refine ⟨⟨fun q time s hlo hhi hq _ hin hroute => ⟨fun hw => ?dropped, fun x hw => ?taken⟩,
    fun p unit tag time x s _ hx => ?expired⟩, fun p time s _ ha => ⟨fun side fl hworks htrain hdown => ?replay,
    fun side ok htrain => ?retrain, ?routes, fun fills waits hform hworks => ?sample, fun hw => ?window,
    fun c pay hacc hlen hbuf hwin hzero hanswer => ?map⟩⟩
  case dropped =>
    have hrun := exec_serviceResponse hlo hhi hq hin hroute
    rw [hw, answerMet] at hrun
    refine ⟨_, hrun, answers_answerArrived q _, awaits_answerArrived q _, ?_,
      only_trans (answerArrived_only q _) (onlyChanges_fab _ _)⟩
    rw [drop_countDrop, drops_answerArrived, atTime_fab]
  case taken =>
    have hrun := exec_serviceResponse hlo hhi hq hin hroute
    rw [hw, answerMet] at hrun
    have honly := only_trans (answerArrived_only q (atTime time s)) (awaitEnded_only x (answerArrived q (atTime time s)))
    have hcores : (awaitEnded x (answerArrived q (atTime time s))).cores = s.cores := honly .cores (by decide)
    refine ⟨_, hrun, ?_, ?_, fun hrole hunit => ?_⟩
    · rw [fab_deliverAnswer]
      exact answers_answerArrived q _
    · rw [fab_deliverAnswer]
      exact congrArg (List.erase · x) (awaits_answerArrived q _)
    · rw [deliverAnswer_core hrole hunit]
      refine ⟨?_, fun j hj => ?_,
        only_trans (only_mono honly (by decide)) (only_mono (answerBurst_only _ _ _ _ _) (by decide))⟩
      · rw [bursts_answerBurst, coreOf_of_cores hcores]
      · rw [answerBurst, coreOf_modCore_ne _ _ hj, coreOf_of_cores hcores]
  case expired =>
    refine ⟨_, exec_requestExpired hx, ?_, fun hrole hunit => ?_⟩
    · rw [fab_deliverAnswer]
      rfl
    · rw [deliverAnswer_core hrole hunit]
      exact ⟨bursts_answerBurst _ _ _ _ _,
        only_trans (only_mono (awaitEnded_only x _) (by decide)) (only_mono (answerBurst_only _ _ _ _ _) (by decide))⟩
  case replay =>
    have hrun : exec (.hopReplay p side fl time) s = _ := exec_hopReplay ha hworks htrain hdown
    refine ⟨fun hgood hseq => ?_, fun hgood hseq => ?_, fun hbad => ?_⟩
    · rw [hgood, if_neg (by decide), if_pos hseq] at hrun
      refine ⟨_, hrun, rfl, rfl, rfl, ?_⟩
      rw [acceptFlit, hseq]
    · rw [hgood, if_neg (by decide), if_neg hseq] at hrun
      exact hrun
    · rw [if_pos hbad, hopReplayed_eq] at hrun
      refine ⟨_, hrun, hopOf_setHop_same _ _ _, ?_, ?_, ?_⟩
      · rw [hopOf_setHop_same]
        exact mem_keepFlit fl _
      · rw [ports_setHop, fab_reported, portRetried, port_modPort_same]
        rfl
      · exact only_trans (only_mono (modPort_only _ _ _ _) (by decide))
          (only_trans (only_mono (reported_only _ _ _ _ _) (by decide)) (only_mono (setHop_only _ _ _) (by decide)))
  case retrain =>
    have hrun := exec_hopRetrain (time := time) ha htrain ok
    have hfab := fab_reported (retrainRecord (siteNo p) (hopSideNo side) s) (siteNo p) 2 2000 (atTime time s)
    have hnoted := fun k => hopOf_of_fab (s := s) hfab k
    refine ⟨_, hrun, fun hok => ?_, fun hok hfew => ?_, fun hok hmany => ?_, fun k hk => ?_⟩
    · rw [if_pos hok, hopOf_setHop_same]
    · rw [hok, if_neg Bool.false_ne_true, if_pos (Nat.succ_lt_succ hfew), hopOf_setHop_same]
    · rw [hok, if_neg Bool.false_ne_true, if_neg (Nat.not_lt.mpr (Nat.succ_le_succ hmany))]
      refine ⟨hopOf_hopLost_same _ _ _, fun f hf => ?_, _, rfl⟩
      obtain ⟨hin, hkept⟩ := flight_hopLost hf
      rw [hfab] at hin
      rw [hnoted] at hkept
      exact ⟨hin, hkept⟩
    · dsimp only
      split
      · rw [hopOf_setHop_ne _ _ hk, hnoted]
      · split
        · rw [hopOf_setHop_ne _ _ hk, hnoted]
        · rw [hopOf_hopLost_ne _ hk, hnoted]
  case routes =>
    refine ⟨rewriteRoutes (atTime time s), rfl, fun j => ?_, fun k => ?_, onlyChanges_fab _ _⟩
    · exact List.mem_filter.trans (and_congr_left' List.mem_range)
    · rw [rewriteRoutes, List.mem_map]
      constructor
      · rintro ⟨⟨k, h⟩, hmem, rfl⟩
        exact ⟨h, List.mem_filter.mp hmem⟩
      · rintro ⟨h, hmem⟩
        exact ⟨(k, h), List.mem_filter.mpr hmem, rfl⟩
  case sample =>
    refine ⟨_, exec_congestionSample hform hworks, fun n hn hthere => ?_, fun k hk => ?_, ?_⟩
    · exact port_modPorts _ _ (List.nodup_range.filter _) (mem_portsThere.mpr ⟨hn, hthere⟩)
    · exact port_modPorts_ne _ _ fun n hn => hk n (mem_portsThere.mp hn).1 (mem_portsThere.mp hn).2
    · exact ScratchpadFamily.related_foldl (R := OnlyChanges [.fab]) (fun s p _ => same_refl p s) only_trans
        (fun s n => modPort_only _ n _ s) _ _
  case window =>
    exact ⟨_, windowClosed (atTime time s), exec_congestionWindowEnd hw, rfl, rfl, rfl, rfl, rfl, windowEnded_only _⟩
  case map =>
    have ⟨_, htake, _⟩ := hacc
    obtain ⟨x, hx⟩ := takenOf_takeCmd htake
    obtain ⟨t, ht, hout, honly⟩ := SequencerFamily.completeWithBuf_answers hx hanswer
    exact ⟨t, (exec_fabricMapGet hacc hlen hbuf hwin hzero).trans (congrArg _ ht), hout, honly⟩

end Sys2Proof.ServiceFamily

/-! Proofs of the family of the embedding engines: the commands of tables, batches and rebuilds (O40), and the lookups and the
rows of rebuilds that the engines run (O41). -/

namespace Sys2Proof.EmbeddingFamily

open Machine Laws BayFamily

variable {c d : Cmd} {pay : List Byte} {eff : State → State} {s u : State} {n m t r : Nat} {x : EmbTable}

/-! ## Tables (R333 to R336) -/

/-- A change of the values under one key is seen there, and under no other. -/
theorem mapGet?_mapValue {α : Type} (f : α → α) (l : List (Nat × α)) (k j : Nat) :
    mapGet? (l.map (fun p => if p.1 = k then (p.1, f p.2) else p)) j
      = if j = k then (mapGet? l j).map f else mapGet? l j := by
  induction l with
  | nil => exact (ite_self _).symm
  | cons p l ih =>
    obtain ⟨i, v⟩ := p
    rw [List.map_cons, mapGet?]
    by_cases hi : i = k
    · simp only [if_pos hi]
      rw [mapGet?, ih]
      by_cases hj : i = j
      · simp only [if_pos hj, if_pos (hj.symm.trans hi), Option.map_some]
      · simp only [if_neg hj]
    · simp only [if_neg hi]
      rw [mapGet?, ih]
      by_cases hj : i = j
      · simp only [if_pos hj, if_neg (fun h : j = k => hi (hj.trans h))]
      · simp only [if_neg hj]

theorem engineOf_of_engines (h : u.engines = s.engines) (n : Nat) : engineOf u n = engineOf s n := by
  rw [engineOf, engineOf, h]

theorem tableOf_of_engines (h : u.engines = s.engines) (n t : Nat) : tableOf u n t = tableOf s n t := by
  rw [tableOf, tableOf, engineOf_of_engines h]

@[simp] theorem tableOf_takeCmd (c : Cmd) (s : State) (n t : Nat) : tableOf (takeCmd c s) n t = tableOf s n t :=
  tableOf_of_engines (takeCmd_engines c s) n t

@[simp] theorem payTable_takeCmd (c : Cmd) (s : State) (pay : List Byte) : payTable (takeCmd c s) pay = payTable s pay := by
  rw [payTable, payTable, tableOf_takeCmd]

theorem tableOf_modEngine_same (n t : Nat) (f : EmbEngine → EmbEngine) (s : State) :
    tableOf (modEngine n f s) n t = mapGet? (f (engineOf s n)).tables t := by
  rw [tableOf, engineOf_modEngine_same]

theorem tableOf_modEngine_ne (f : EmbEngine → EmbEngine) (s : State) (h : m ≠ n) :
    tableOf (modEngine n f s) m r = tableOf s m r := by
  rw [tableOf, tableOf, engineOf_modEngine_ne _ _ h]

/-- A change of an engine that leaves its tables leaves every table. -/
theorem tableOf_modEngine {f : EmbEngine → EmbEngine} (h : ∀ e, (f e).tables = e.tables) (s : State) :
    tableOf (modEngine n f s) m r = tableOf s m r := by
  by_cases hm : m = n
  · rw [hm, tableOf_modEngine_same, h, tableOf]
  · exact tableOf_modEngine_ne _ _ hm

theorem tableOf_modTable_same (n t : Nat) (f : EmbTable → EmbTable) (s : State) :
    tableOf (modTable n t f s) n t = (tableOf s n t).map f := by
  rw [modTable, tableOf_modEngine_same, mapGet?_mapValue, if_pos rfl, tableOf]

theorem modEngine_only (n : Nat) (f : EmbEngine → EmbEngine) (s : State) : OnlyChanges [.engines] s (modEngine n f s) :=
  (within_modEngine (Covers.self _) (Within.refl _ s)).frame

theorem modTable_only (n t : Nat) (f : EmbTable → EmbTable) (s : State) : OnlyChanges [.engines] s (modTable n t f s) :=
  modEngine_only n _ s

/-- A stack's engine with a table defined. -/
def tableDefined (n t : Nat) (x : EmbTable) (s : State) : State :=
  modEngine n (fun e => { e with tables := mapPut e.tables t x }) s

/-- A stack's engine with a table removed. -/
def tableRemoved (n t : Nat) (s : State) : State := modEngine n (fun e => { e with tables := mapDel e.tables t }) s

theorem tableOf_tableDefined_same (n t : Nat) (x : EmbTable) (s : State) :
    tableOf (tableDefined n t x s) n t = some x :=
  (tableOf_modEngine_same _ _ _ _).trans (mapGet?_mapPut_same _ _ _)

theorem tableOf_tableRemoved_same (n t : Nat) (s : State) : tableOf (tableRemoved n t s) n t = none :=
  (tableOf_modEngine_same _ _ _ _).trans (mapGet?_mapDel_same _ _)

/-- A change of an engine's tables that leaves those of other numbers leaves all tables but one. -/
theorem tableOf_modEngine_other {f : EmbEngine → EmbEngine} (s : State)
    (hf : ∀ r, r ≠ t → ∀ e, mapGet? (f e).tables r = mapGet? e.tables r) (h : m ≠ n ∨ r ≠ t) :
    tableOf (modEngine n f s) m r = tableOf s m r := by
  by_cases hm : m = n
  · rw [hm, tableOf_modEngine_same, hf r (h.resolve_left (not_not.mpr hm)), tableOf]
  · exact tableOf_modEngine_ne _ _ hm

theorem tableOf_tableDefined_other (x : EmbTable) (s : State) (h : m ≠ n ∨ r ≠ t) :
    tableOf (tableDefined n t x s) m r = tableOf s m r :=
  tableOf_modEngine_other s (fun _ hr _ => mapGet?_mapPut_ne _ _ hr) h

theorem tableOf_tableRemoved_other (s : State) (h : m ≠ n ∨ r ≠ t) :
    tableOf (tableRemoved n t s) m r = tableOf s m r :=
  tableOf_modEngine_other s (fun _ hr _ => mapGet?_mapDel_ne _ hr) h

/-! ## What a command waits for (R349, R460, R462) -/

theorem onStack_runs (h : StackRuns n s) : onStack n c pay eff s = eff s := by
  obtain ⟨hheld, hstarts⟩ := h
  rw [onStack, needProc, hheld, hstarts]
  rfl

/-- No EMB_BATCH_OPEN or EMB_COMMIT of the partition waits, so the next one does not wait for it. -/
theorem inOrder_turn {part : Nat} (h : InTurn part s) : inOrder part c pay eff s = eff s := by
  have hnone : s.fw.waiting.find? (fun w => orderedPart s w == some part) = none :=
    List.find?_eq_none.mpr fun w hw he => h w hw (beq_iff_eq.mp he)
  rw [inOrder, hnone]

theorem inOrder_waits {part : Nat} {w : ProcWait} (h : s.fw.waiting.find? (fun w => orderedPart s w == some part) = some w) :
    inOrder part c pay eff s
      = { s with fw := { s.fw with waiting := s.fw.waiting ++ [⟨w.proc, s.now, c, pay⟩] } } := by
  rw [inOrder, h]

/-! ## What the checks of a command say -/

/-- Where the checks that the commands of a table share pass, the checks after them decide. -/
theorem tableForm_passes {len : Nat} {extra : Bool} {rest : List (Bool × Nat)}
    (h : firstFail (tableForm s c len extra pay ++ rest) = stOk) : firstFail rest = stOk := by
  obtain ⟨-, h⟩ := ServiceFamily.firstFail_cons_ok h (by decide)
  obtain ⟨-, h⟩ := ServiceFamily.firstFail_cons_ok h (by decide)
  obtain ⟨-, h⟩ := ServiceFamily.firstFail_cons_ok h (by decide)
  obtain ⟨-, h⟩ := ServiceFamily.firstFail_cons_ok h (by decide)
  exact (ServiceFamily.firstFail_cons_ok h (by decide)).2

/-- An OP of EMB_REBUILD_CTRL that passes its checks is allowed in the table's state. -/
theorem rebuildAllows_of_checks (h : firstFail (embeddingChecks 0x0405 d pay s) = stOk) :
    rebuildAllows (leAt pay 2 1) (payTable s pay).phase = true := by
  obtain ⟨h, -⟩ := ServiceFamily.firstFail_cons_ok (tableForm_passes h) (by decide)
  rwa [Bool.not_eq_false'] at h

/-- EMB_COMMIT passes its checks on a rebuildable table whose rebuild is complete. -/
theorem commit_of_checks (h : firstFail (embeddingChecks 0x0406 d pay s) = stOk) :
    (payTable s pay).phase = .complete ∧ (payTable s pay).rebuildable = true := by
  obtain ⟨hrebuild, h⟩ := ServiceFamily.firstFail_cons_ok (tableForm_passes h) (by decide)
  obtain ⟨hphase, -⟩ := ServiceFamily.firstFail_cons_ok h (by decide)
  rw [Bool.not_eq_false'] at hrebuild
  exact ⟨bne_eq_false_iff_eq.mp hphase, hrebuild⟩

theorem part_lt_of_partExists (h : partExists s n = true) : n < 8 := by
  rw [partExists, Bool.and_eq_true] at h
  exact of_decide_eq_true h.1

/-- EMB_BATCH_OPEN passes its checks for one of the eight partitions, where a handle is free. -/
theorem batchOpen_of_checks (h : firstFail (embeddingChecks 0x0402 d pay s) = stOk) :
    leAt pay 0 1 < 8 ∧ ∃ b, lowestFree 1024 (partOf s (leAt pay 0 1)).embBatches = some b := by
  obtain ⟨-, h⟩ := ServiceFamily.firstFail_cons_ok h (by decide)
  obtain ⟨hpart, h⟩ := ServiceFamily.firstFail_cons_ok h (by decide)
  obtain ⟨hfree, -⟩ := ServiceFamily.firstFail_cons_ok h (by decide)
  simp only [Bool.or_eq_false_iff, Bool.not_eq_false'] at hpart
  obtain ⟨-, hpart⟩ := hpart
  exact ⟨part_lt_of_partExists hpart, Option.isSome_iff_exists.mp (Option.isNone_eq_false_iff.mp hfree)⟩

/-- EMB_BATCH_CLOSE passes its checks for one of the eight partitions. -/
theorem batchClose_of_checks (h : firstFail (embeddingChecks 0x0403 d pay s) = stOk) : leAt pay 0 1 < 8 := by
  obtain ⟨-, h⟩ := ServiceFamily.firstFail_cons_ok h (by decide)
  obtain ⟨hform, -⟩ := ServiceFamily.firstFail_cons_ok h (by decide)
  simp only [Bool.or_eq_false_iff, Bool.not_eq_false'] at hform
  obtain ⟨⟨-, hpart⟩, -⟩ := hform
  exact part_lt_of_partExists hpart

/-! ## Batches (R348 to R351) -/

/-- The handle that a batch takes is free, and those below it are not. -/
theorem lowestFree_some {α : Type} {k b : Nat} {l : List (Nat × α)} (h : lowestFree k l = some b) :
    b < k ∧ mapGet? l b = none ∧ ∀ j, j < b → (mapGet? l j).isSome = true := by
  obtain ⟨hfree, hb, hbelow⟩ := List.find?_range_eq_some.mp h
  refine ⟨List.mem_range.mp hb, Option.isNone_iff_eq_none.mp hfree, fun j hj => ?_⟩
  rw [← Option.not_isNone]
  exact hbelow j hj

/-- Every table of a partition is pinned at its epoch. -/
theorem mem_pinsNow {e : Nat × EmbEngine} {y : Nat × EmbTable} (he : e ∈ s.engines) (hy : y ∈ e.2.tables)
    (hpart : y.2.part = n) : (64 * e.1 + y.1, y.2.epoch) ∈ pinsNow s n :=
  List.mem_flatMap.mpr ⟨e, he, List.mem_map.mpr ⟨y, List.mem_filter.mpr ⟨hy, beq_iff_eq.mpr hpart⟩, rfl⟩⟩

theorem modPart_only (n : Nat) (f : Partition → Partition) (s : State) : OnlyChanges [.parts] s (modPart n f s) :=
  (within_modPart (Covers.self _) (Within.refl _ s)).frame

/-- A batch opens, with the pins of its partition. -/
def batchOpened (part b : Nat) (s : State) : State :=
  modPart part (fun p => { p with embBatches := mapPut p.embBatches b ⟨pinsNow s part, none⟩ }) s

/-- A batch is to close once its requests are done. -/
def batchClosing (part b : Nat) (c : Cmd) (s : State) : State :=
  modPart part (fun p => { p with
    embBatches := p.embBatches.map (fun x => if x.1 = b then (b, { x.2 with closing := some c }) else x) }) s

theorem closing_batchClosing {part b : Nat} (h : part < s.parts.length) {y : EmbBatch}
    (hy : (b, y) ∈ (partOf (batchClosing part b c s) part).embBatches) : y.closing = some c := by
  rw [batchClosing, ContractFamily.partOf_modPart _ h] at hy
  obtain ⟨p, -, hp⟩ := List.mem_map.mp hy
  by_cases hb : p.1 = b
  · rw [if_pos hb] at hp
    exact congrArg EmbBatch.closing (congrArg Prod.snd hp).symm
  · rw [if_neg hb] at hp
    exact absurd (congrArg Prod.fst hp) hb

/-! ## The commands (R335, R336, R348 to R357) -/

theorem exec_embTableCreate (h : Allowed 0x0400 (embeddingChecks 0x0400 c) c pay s)
    (hr : StackRuns (leAt pay 0 1) (takeCmd c s)) :
    exec (.embTableCreate c) s
      = .next (complete c stOk 0 (tableDefined (leAt pay 0 1) (leAt pay 1 1) (tableFromPay pay) (takeCmd c s))) := by
  refine (runRow_accepted h.1 doEmbTableCreate).trans (congrArg _ ?_)
  rw [doEmbTableCreate]
  exact (FloorPlanFamily.checked_pass h.2).trans (onStack_runs hr)

theorem exec_embTableDestroy (h : Allowed 0x0401 (embeddingChecks 0x0401 c) c pay s)
    (hr : StackRuns (leAt pay 0 1) (takeCmd c s)) :
    exec (.embTableDestroy c) s
      = .next (complete c stOk 0 (tableRemoved (leAt pay 0 1) (leAt pay 1 1) (takeCmd c s))) := by
  refine (runRow_accepted h.1 doEmbTableDestroy).trans (congrArg _ ?_)
  rw [doEmbTableDestroy]
  exact (FloorPlanFamily.checked_pass h.2).trans (onStack_runs hr)

theorem exec_embBatchOpen_waits (h : Allowed 0x0402 (embeddingChecks 0x0402 c) c pay s) {w : ProcWait}
    (hw : (takeCmd c s).fw.waiting.find? (fun w => orderedPart (takeCmd c s) w == some (leAt pay 0 1)) = some w) :
    exec (.embBatchOpen c) s = .next { takeCmd c s with fw := { (takeCmd c s).fw with
      waiting := (takeCmd c s).fw.waiting ++ [⟨w.proc, (takeCmd c s).now, c, pay⟩] } } := by
  refine (runRow_accepted h.1 doEmbBatchOpen).trans (congrArg _ ?_)
  rw [doEmbBatchOpen]
  exact (FloorPlanFamily.checked_pass h.2).trans (inOrder_waits hw)

theorem exec_embBatchOpen (h : Allowed 0x0402 (embeddingChecks 0x0402 c) c pay s)
    (hturn : InTurn (leAt pay 0 1) (takeCmd c s))
    (hr : ∀ m, m ∈ pinProcs (takeCmd c s) (leAt pay 0 1) →
      procHeld (takeCmd c s) m = false ∧ procStarts (takeCmd c s) m = false)
    {b : Nat} (hb : lowestFree 1024 (partOf (takeCmd c s) (leAt pay 0 1)).embBatches = some b) :
    exec (.embBatchOpen c) s = .next (complete c stOk b (batchOpened (leAt pay 0 1) b (takeCmd c s))) := by
  refine (runRow_accepted h.1 doEmbBatchOpen).trans (congrArg _ ?_)
  rw [doEmbBatchOpen]
  refine ((FloorPlanFamily.checked_pass h.2).trans (inOrder_turn hturn)).trans ((FloorPlanFamily.needProcs_run hr).trans ?_)
  rw [hb]
  rfl

theorem exec_embBatchClose (h : Allowed 0x0403 (embeddingChecks 0x0403 c) c pay s) :
    exec (.embBatchClose c) s = .next (batchClosing (leAt pay 0 1) (leAt pay 2 2) c (takeCmd c s)) := by
  refine (runRow_accepted h.1 doEmbBatchClose).trans (congrArg _ ?_)
  rw [doEmbBatchClose]
  exact FloorPlanFamily.checked_pass h.2

theorem exec_embRebuildStart (h : Allowed 0x0404 (embeddingChecks 0x0404 c) c pay s)
    (hr : StackRuns (leAt pay 0 1) (takeCmd c s)) :
    exec (.embRebuildStart c) s = .next (complete c stOk 0 (modTable (leAt pay 0 1) (leAt pay 1 1) (fun y => { y with
      phase := .running, share := shareOf (leAt pay 2 1), src := srcFromPay y pay, rowsDone := 0
      failRow := 0xFFFFFFFF, lastRow := (takeCmd c s).now }) (takeCmd c s))) := by
  refine (runRow_accepted h.1 doEmbRebuildStart).trans (congrArg _ ?_)
  rw [doEmbRebuildStart]
  exact (FloorPlanFamily.checked_pass h.2).trans (onStack_runs hr)

/-- The four operations of EMB_REBUILD_CTRL run as one command. -/
theorem runRow_embRebuildCtrl (h : Allowed 0x0405 (embeddingChecks 0x0405 c) c pay s)
    (hr : StackRuns (leAt pay 0 1) (takeCmd c s)) :
    runRow c 0x0405 doEmbRebuildCtrl s = .next (complete c stOk 0 (modTable (leAt pay 0 1) (leAt pay 1 1)
      (rebuildApply (leAt pay 2 1) (leAt pay 3 1) (takeCmd c s).now) (takeCmd c s))) := by
  refine (runRow_accepted h.1 doEmbRebuildCtrl).trans (congrArg _ ?_)
  rw [doEmbRebuildCtrl]
  exact (FloorPlanFamily.checked_pass h.2).trans (onStack_runs hr)

theorem exec_embCommit (h : Allowed 0x0406 (embeddingChecks 0x0406 c) c pay s)
    (hr : StackRuns (leAt pay 0 1) (takeCmd c s)) (hturn : InTurn (payTable s pay).part (takeCmd c s)) :
    exec (.embCommit c) s = .next (complete c stOk (((payTable s pay).epoch + 1) % 2 ^ 32)
      (modTable (leAt pay 0 1) (leAt pay 1 1) (fun y => { y with
        epoch := ((payTable s pay).epoch + 1) % 2 ^ 32, phase := .idle }) (takeCmd c s))) := by
  refine (runRow_accepted h.1 doEmbCommit).trans (congrArg _ ?_)
  rw [← payTable_takeCmd c] at hturn ⊢
  rw [doEmbCommit]
  exact (FloorPlanFamily.checked_pass h.2).trans ((inOrder_turn hturn).trans (onStack_runs hr))

theorem exec_embTableStatus (h : Allowed 0x0407 (embeddingChecks 0x0407 c) c pay s)
    (hr : StackRuns (leAt pay 0 1) (takeCmd c s)) :
    exec (.embTableStatus c) s = .next (completeWithBuf c (leAt pay 8 8)
      (tableBytes (takeCmd c s) (leAt pay 0 1) (leAt pay 1 1) (payTable s pay)) 0 (takeCmd c s)) := by
  refine (runRow_accepted h.1 doEmbTableStatus).trans (congrArg _ ?_)
  rw [← payTable_takeCmd c, doEmbTableStatus]
  exact (FloorPlanFamily.checked_pass h.2).trans (onStack_runs hr)

theorem exec_embBatchRelease {part : Fin 8} {batch time : Nat} {b : EmbBatch}
    (hb : mapGet? (partOf s part.val).embBatches batch = some b) (hc : b.closing = some d)
    (hdone : batchBusy s part.val batch = false) :
    exec (.embBatchRelease part batch time) s = .next (complete d stOk 0
      (modPart part.val (fun p => { p with embBatches := mapDel p.embBatches batch }) (atTime time s))) := by
  show execEmbBatchRelease part batch time s = _
  rw [execEmbBatchRelease, hb]
  dsimp only
  rw [hc]
  dsimp only
  rw [hdone, if_neg Bool.false_ne_true]

/-- A table's status record has 64 bytes (Table 12-9). -/
theorem tableBytes_length (s : State) (n t : Nat) (x : EmbTable) : (tableBytes s n t x).length = 64 := by
  simp only [tableBytes, List.length_append, natLe_length, copies_length]

/-- Settles O40: each command passes its checks, waits for no supervisor, and makes the one change of its row. -/
theorem embeddingCommands : Obligations.EmbeddingCommands := by
  unfold Obligations.EmbeddingCommands
  intro c pay s hkept
  have hparts : (takeCmd c s).parts.length = 8 := (takeCmd_kept hkept).parts
  have hpart (n : Nat) : partOf (takeCmd c s) n = partOf s n := by rw [partOf, takeCmd_parts, partOf]
  refine ⟨fun h hr => ?create, fun h hr => ?destroy, fun h w hw => exec_embBatchOpen_waits h hw,
    fun h hturn hr => ?batch, fun h => ?close, exec_embRebuildStart, fun h hr => ?control, fun h hr hturn => ?commit,
    fun h hr hbuf => ?status, fun part batch time b d hb hc hdone => exec_embBatchRelease hb hc hdone⟩
  case create =>
    refine ⟨_, exec_embTableCreate h hr, tableOf_tableDefined_same _ _ _ _, rfl, rfl,
      fun m r hother => ?_, modEngine_only _ _ _⟩
    rw [tableOf_tableDefined_other _ _ hother, tableOf_takeCmd]
  case destroy =>
    refine ⟨_, exec_embTableDestroy h hr, tableOf_tableRemoved_same _ _ _, fun m r hother => ?_, modEngine_only _ _ _⟩
    rw [tableOf_tableRemoved_other _ hother, tableOf_takeCmd]
  case batch =>
    obtain ⟨hn, b, hb⟩ := batchOpen_of_checks h.2
    obtain ⟨hlt, hfree, hbelow⟩ := lowestFree_some hb
    rw [hpart] at hfree hbelow
    refine ⟨b, pinsNow (takeCmd c s) (leAt pay 0 1), _, exec_embBatchOpen h hturn hr hb, hlt, hfree, hbelow,
      ?_, fun e he y hy hyp => ?_, modPart_only _ _ _⟩
    · rw [batchOpened, ContractFamily.partOf_modPart _ (hparts ▸ hn)]
      exact mapGet?_mapPut_same _ _ _
    · rw [← takeCmd_engines c s] at he
      exact mem_pinsNow he hy hyp
  case close =>
    have hn := batchClose_of_checks h.2
    exact ⟨_, exec_embBatchClose h, fun b hb => closing_batchClosing (hparts ▸ hn) hb, rfl, modPart_only _ _ _⟩
  case control =>
    have hallows := rebuildAllows_of_checks h.2
    rw [payTable_takeCmd] at hallows
    have hrun := runRow_embRebuildCtrl h hr
    refine ⟨fun hop => ?_, fun hop => ?_, fun hop => ?_, fun hop => ?_⟩
    all_goals rw [hop] at hallows hrun
    · exact ⟨beq_iff_eq.mp hallows, hrun⟩
    · exact ⟨beq_iff_eq.mp hallows, hrun⟩
    · rw [rebuildAllows, Bool.or_eq_true, beq_iff_eq, beq_iff_eq] at hallows
      exact ⟨hallows, hrun⟩
    · exact ⟨bne_iff_ne.mp hallows, hrun⟩
  case commit =>
    obtain ⟨hphase, hrebuild⟩ := commit_of_checks h.2
    rw [payTable_takeCmd] at hphase hrebuild
    exact ⟨hphase, hrebuild, exec_embCommit h hr hturn⟩
  case status =>
    obtain ⟨-, htake, -⟩ := h.1
    obtain ⟨x, hx⟩ := takenOf_takeCmd htake
    rw [← tableBytes_length (takeCmd c s) (leAt pay 0 1) (leAt pay 1 1) (payTable s pay)] at hbuf
    obtain ⟨v, hv, hout, honly⟩ := SequencerFamily.completeWithBuf_answers hx hbuf
    exact ⟨v, (exec_embTableStatus h hr).trans (congrArg _ hv), hout, honly⟩

end Sys2Proof.EmbeddingFamily

namespace Sys2Proof.EmbeddingFamily

open Machine Laws BayFamily

variable {s u v : State} {n t off time : Nat} {x : EmbTable} {r : EmbRequest} {f : EccFinding}

/-! ## A request starts (R339, R343, R350) -/

/-- A request has left the queue of its engine. -/
def queueTaken (n : Nat) (rest : List EmbRequest) (s : State) : State := modEngine n (fun e => { e with queue := rest }) s

theorem tableOf_queueTaken (rest : List EmbRequest) (s : State) (t : Nat) :
    tableOf (queueTaken n rest s) n t = tableOf s n t := by
  rw [queueTaken, tableOf_modEngine]
  exact fun _ => rfl

theorem requestStatus_queueTaken (rest : List EmbRequest) (s : State) (r : EmbRequest) :
    requestStatus (queueTaken n rest s) n r = requestStatus s n r := by
  rw [requestStatus, requestStatus, tableOf_queueTaken]
  rfl

theorem exec_lookupStart {st : StackId} {rest : List EmbRequest} (hq : (engineOf s st.val).queue = r :: rest)
    (hs : scrubs s st.val = true) (h : startLookup st.val r f (queueTaken st.val rest (atTime time s)) = some u) :
    exec (.lookupStart st f time) s = .next u := by
  show execLookupStart st f time s = _
  rw [execLookupStart, hq]
  dsimp only
  rw [hs, if_neg (by decide)]
  exact congrArg (fun o => Host.Outcome.next (Option.getD o s)) h

theorem engineOf_addRun (n : Nat) (y : EmbRun) (s : State) :
    engineOf (addRun n y s) n = { engineOf s n with runs := (engineOf s n).runs ++ [y] } :=
  engineOf_modEngine_same _ _ _

theorem engineOf_takeFree (n : Nat) (s : State) : engineOf (takeFree s).2 n = engineOf s n := rfl

/-- The number of elements of a result of no table, which is free (log entry 29). -/
def freeElems (s : State) : Nat := 64 * (1 + (takeFree s).1 % 16)

theorem freeElems_bounds (s : State) : 64 ≤ freeElems s ∧ freeElems s ≤ 1024 ∧ freeElems s % 64 = 0 := by
  rw [freeElems]
  omega

theorem startLookup_undefined (ht : tableOf s n (rqTable r.raw) = none) (f : EccFinding) :
    startLookup n r f s = some (addRun n ⟨r, requestStatus s n r, 0, 0, freeElems s, [], []⟩ (takeFree s).2) := by
  rw [startLookup, ht]
  rfl

theorem startLookup_refused (ht : tableOf s n (rqTable r.raw) = some x) (hst : requestStatus s n r ≠ 0) (f : EccFinding) :
    startLookup n r f s = some (addRun n ⟨r, requestStatus s n r, 0, 0, x.elems, [], []⟩ s) := by
  rw [startLookup, ht]
  exact if_pos hst

theorem startLookup_empty (ht : tableOf s n (rqTable r.raw) = some x) (hst : requestStatus s n r = 0)
    (hn : rqNidx r.raw = 0) (f : EccFinding) :
    startLookup n r f s = some (addRun n ⟨r, 0, requestEpoch s n x r, 0, x.elems, [], []⟩ s) := by
  rw [startLookup, ht]
  exact (if_neg (not_not.mpr hst)).trans (if_pos hn)

/-- The indices that a request reads. -/
def indicesOf (n : Nat) (r : EmbRequest) (f : EccFinding) (s : State) : List Nat :=
  words32 (embRead n r f (rqIdx r.raw) (4 * rqNidx r.raw) s).2.2.1 (rqNidx r.raw)

/-- How many indices are out of range. -/
def outOfRange (x : EmbTable) (idx : List Nat) : Nat := (idx.filter (fun i => decide (x.rows ≤ i))).length

section
variable (ht : tableOf s n (rqTable r.raw) = some x) (hst : requestStatus s n r = 0) (hn : rqNidx r.raw ≠ 0)
  (hread : (embRead n r f (rqIdx r.raw) (4 * rqNidx r.raw) s).1 = 0)
  (hsame : (embRead n r f (rqIdx r.raw) (4 * rqNidx r.raw) s).2.2.2 = s)
include ht hst hn hread hsame

/-- A request whose indices are read as they stand goes by their range. -/
theorem startLookup_reads :
    startLookup n r f s =
      if outOfRange x (indicesOf n r f s) ≠ 0 then
        some (addRun n ⟨r, 1, 0, outOfRange x (indicesOf n r f s), x.elems, [], []⟩ s)
      else startRows n x r f (requestEpoch s n x r) (indicesOf n r f s) s := by
  rw [startLookup, ht]
  dsimp only
  rw [hread, hsame, if_neg (not_not.mpr hst), if_neg hn, if_neg (by decide), if_neg (by decide), if_neg (by decide)]
  rfl

theorem startLookup_outOfRange (hout : outOfRange x (indicesOf n r f s) ≠ 0) :
    startLookup n r f s = some (addRun n ⟨r, 1, 0, outOfRange x (indicesOf n r f s), x.elems, [], []⟩ s) :=
  (startLookup_reads ht hst hn hread hsame).trans (if_pos hout)

theorem startLookup_inRange (hout : outOfRange x (indicesOf n r f s) = 0) :
    startLookup n r f s = startRows n x r f (requestEpoch s n x r) (indicesOf n r f s) s :=
  (startLookup_reads ht hst hn hread hsame).trans (if_neg (not_not.mpr hout))

end

/-! ### The rows of a lookup (R346) -/

/-- A row of a table as its copy holds it. -/
def rowHeld (n : Nat) (x : EmbTable) (base : Nat) (s : State) (i : Nat) : List W32 :=
  embRow x.fmt x.elems (memRead s.mem (stackAddr n (base + i * x.stride)) (x.elems * embSize x.fmt))

theorem readRows_clean {base : Nat} {idx : List Nat}
    (hc : ∀ i, i ∈ idx → CleanRange (.stack n) (base + i * x.stride) (x.elems * embSize x.fmt) s) (res : Nat) :
    readRows n x base ⟨[], []⟩ res idx s = (idx.map (rowHeld n x base s), false, s) := by
  induction idx with
  | nil => rfl
  | cons i idx ih =>
    rw [readRows, ServiceFamily.readMem_clean (hc i List.mem_cons_self)]
    dsimp only
    rw [ih fun j hj => hc j (List.mem_cons_of_mem _ hj)]
    rfl

/-- A request that has no weights, and whose rows the codes find nothing in, runs with its rows. -/
theorem startRows_clean {epoch : Nat} {idx : List Nat} (hpool : rqPool r.raw ≠ 2)
    (hc : ∀ i, i ∈ idx → CleanRange (.stack n) (copyBase x epoch + i * x.stride) (x.elems * embSize x.fmt) s) :
    ∃ w, startRows n x r ⟨[], []⟩ epoch idx s
      = some (addRun n ⟨r, 0, epoch, 0, x.elems, idx.map (rowHeld n x (copyBase x epoch) s), w⟩ s) := by
  refine ⟨(words32 [] (rqNidx r.raw)).map (BitVec.ofNat 32), ?_⟩
  rw [startRows]
  simp only [if_neg hpool]
  rw [if_neg (by decide), if_neg (by decide), if_neg (by decide), readRows_clean hc]
  rfl

theorem queueTaken_only (n : Nat) (rest : List EmbRequest) (s : State) : OnlyChanges [.engines] s (queueTaken n rest s) :=
  modEngine_only n _ s

/-! ## A result leaves (R342, R344) -/

theorem exec_lookupResult {st : StackId} {y : EmbRun} {rest : List EmbRun} {order : List Nat}
    (hr : (engineOf s st.val).runs = y :: rest) (hs : scrubs s st.val = true)
    (ho : isOrder y.rows.length order = true) (time : Nat) :
    exec (.lookupResult st order time) s = .next (sendResult st.val y (resultBytes y order)
      (countRequest st.val y (modEngine st.val (fun e => { e with runs := rest }) (atTime time s)))) := by
  show execLookupResult st order time s = _
  rw [execLookupResult, hr]
  dsimp only
  rw [hs, ho, if_neg (by decide)]

/-- From `s` to `u` requests leave their sources: the fabric changes alone, and every requester that waits goes on waiting. -/
def Sends (s u : State) : Prop := OnlyChanges [.fab] s u ∧ ∀ a, a ∈ s.fab.awaits → a ∈ u.fab.awaits

theorem Sends.refl (s : State) : Sends s s := ⟨fun p _ => same_refl p s, fun _ h => h⟩

theorem Sends.trans (h : Sends s u) (h' : Sends u v) : Sends s v :=
  ⟨only_trans h.1 h'.1, fun a ha => h'.2 a (h.2 a ha)⟩

theorem awaits_sendRequest (g : Flight) (s : State) :
    (sendRequest g s).fab.awaits = s.fab.awaits ++ [⟨g.q, s.now⟩] := by
  rw [sendRequest]
  dsimp only
  split
  · rfl
  · split <;> rfl

theorem sends_sendRequest (g : Flight) (s : State) : Sends s (sendRequest g s) := by
  refine ⟨(within_sendRequest (Covers.self _) (Within.refl _ s)).frame, fun a ha => ?_⟩
  rw [awaits_sendRequest]
  exact List.mem_append_left _ ha

/-- The write of a piece of a result. -/
def resultFlight (n : Nat) (y : EmbRun) (bs : List Byte) (tag0 last : Nat) (s : State) (c : (Nat × Nat) × Nat) : Flight :=
  let a := rqRes y.req.raw % 2 ^ 56
  ⟨mkRequest s (siteOfStack n) 1 c.1.1 2 c.1.2 ((tag0 + c.2) % 4096) false ((bs.drop (c.1.1 - a)).take c.1.2),
    if isCoreAddr a then some ⟨c.2 + 1 == last, rqRset y.req.raw, BitVec.ofNat 6 (leAt y.req.raw 3 1)⟩ else none, .nothing⟩

/-- The pieces of a result. -/
def resultCuts (y : EmbRun) (bs : List Byte) : List (Nat × Nat) :=
  rangeCuts (bs.length / 2048 + 2) (rqRes y.req.raw % 2 ^ 56) bs.length

/-- The engine keeps a result with the tags of its writes until they are answered. -/
def resultNoted (n : Nat) (y : EmbRun) (bs : List Byte) (s : State) : State :=
  modEngine n (fun e => { e with
    tag := ((engineOf s n).tag + (resultCuts y bs).length) % 4096
    results := e.results
      ++ [⟨y, (List.range (resultCuts y bs).length).map (fun i => ((engineOf s n).tag + i) % 4096)⟩] }) s

theorem sendResult_eq (n : Nat) (y : EmbRun) (bs : List Byte) (s : State) :
    sendResult n y bs s = (resultCuts y bs).zipIdx.foldl
      (fun s' c => sendRequest (resultFlight n y bs (engineOf s n).tag (resultCuts y bs).length s' c) s')
      (resultNoted n y bs s) := rfl

theorem sends_result (n : Nat) (y : EmbRun) (bs : List Byte) (s : State) :
    Sends (resultNoted n y bs s) (sendResult n y bs s) := by
  rw [sendResult_eq]
  exact ScratchpadFamily.related_foldl Sends.refl Sends.trans (fun _ _ => sends_sendRequest _ _) _ _

/-- Every piece of a result leaves in a write of its own. -/
theorem awaits_sendResult {n : Nat} {y : EmbRun} {bs : List Byte} {p : Nat × Nat} (hp : p ∈ resultCuts y bs) (s : State) :
    ∃ w, w ∈ (sendResult n y bs s).fab.awaits ∧ w.q.dest = BitVec.ofNat 56 p.1 ∧ w.q.len = p.2
      ∧ w.q.data = (bs.drop (p.1 - rqRes y.req.raw % 2 ^ 56)).take p.2 := by
  obtain ⟨i, hi⟩ := List.mem_iff_getElem?.mp hp
  have hmem : (p, i) ∈ (resultCuts y bs).zipIdx := List.mk_mem_zipIdx_iff_getElem?.mpr hi
  rw [sendResult_eq]
  obtain ⟨s', -, hrest⟩ := FabricFamily.related_foldl_at Sends.refl Sends.trans
    (f := fun s' c => sendRequest (resultFlight n y bs (engineOf s n).tag (resultCuts y bs).length s' c) s')
    (fun _ _ => sends_sendRequest _ _) hmem (resultNoted n y bs s)
  refine ⟨_, hrest.2 ⟨(resultFlight n y bs (engineOf s n).tag (resultCuts y bs).length s' (p, i)).q, s'.now⟩ ?_,
    rfl, rfl, rfl⟩
  rw [awaits_sendRequest]
  exact List.mem_append_right _ (List.mem_singleton.mpr rfl)

theorem engineOf_sendResult (n : Nat) (y : EmbRun) (bs : List Byte) (s : State) :
    engineOf (sendResult n y bs s) n = engineOf (resultNoted n y bs s) n :=
  engineOf_of_engines ((sends_result n y bs s).1 .engines (by decide)) n

theorem runs_sendResult (n : Nat) (y : EmbRun) (bs : List Byte) (s : State) :
    (engineOf (sendResult n y bs s) n).runs = (engineOf s n).runs := by
  rw [engineOf_sendResult, resultNoted, engineOf_modEngine_same]

theorem tableOf_resultNoted (n : Nat) (y : EmbRun) (bs : List Byte) (s : State) (t : Nat) :
    tableOf (resultNoted n y bs s) n t = tableOf s n t := by
  rw [resultNoted, tableOf_modEngine]
  exact fun _ => rfl

theorem tableOf_sendResult (n : Nat) (y : EmbRun) (bs : List Byte) (s : State) (t : Nat) :
    tableOf (sendResult n y bs s) n t = tableOf s n t :=
  (tableOf_of_engines ((sends_result n y bs s).1 .engines (by decide)) n t).trans (tableOf_resultNoted n y bs s t)

/-- A result waits for the answers to its writes. -/
theorem results_sendResult (n : Nat) (y : EmbRun) (bs : List Byte) (s : State) :
    ∃ e, e ∈ (engineOf (sendResult n y bs s) n).results ∧ e.run = y := by
  rw [engineOf_sendResult, resultNoted, engineOf_modEngine_same]
  exact ⟨_, List.mem_append_right _ (List.mem_singleton.mpr rfl), rfl⟩

theorem runs_countRequest (n : Nat) (y : EmbRun) (s : State) :
    (engineOf (countRequest n y s) n).runs = (engineOf s n).runs := by
  rw [countRequest, modTable, engineOf_modEngine_same]

theorem lookupResult_only (n : Nat) (y : EmbRun) (bs : List Byte) (rest : List EmbRun) (s : State) :
    OnlyChanges [.engines, .fab] s
      (sendResult n y bs (countRequest n y (modEngine n (fun e => { e with runs := rest }) s))) :=
  only_trans (only_mono (only_trans (modEngine_only n _ s) (only_trans (modTable_only n _ _ _) (modEngine_only n _ _)))
    (by decide)) (only_mono (sends_result n y bs _).1 (by decide))

/-! ## The bytes of a result (R342, R346, Table 12-3) -/

/-- How many bytes an element of a result has. -/
def outSize (y : EmbRun) : Nat := if rqBf16 y.req.raw then 2 else 4

/-- The pooled elements of a result in FP32, zeros beside a status. -/
def resultVec (y : EmbRun) (order : List Nat) : List W32 :=
  if y.status = 0 then
    poolRows (rqPool y.req.raw) y.elems (order.map (fun i => (y.rows.getD i [], y.weights.getD i 0)))
  else copies y.elems 0

/-- The elements of a result in its own format. -/
def resultOut (y : EmbRun) (order : List Nat) : List W32 :=
  if rqBf16 y.req.raw then (resultVec y order).map (fun a => BitVec.ofNat 32 (layRound lay16b .rne (f32 a)).1)
  else resultVec y order

/-- An element of a result as its bytes. -/
def elemBytes (y : EmbRun) (a : W32) : List Byte := natLe (outSize y) a.toNat

theorem elemBytes_length (y : EmbRun) (a : W32) : (elemBytes y a).length = outSize y := natLe_length _ _

theorem padTo_longer {k : Nat} {bs : List Byte} (h : bs.length ≤ k) : ∃ l, padTo k bs = bs ++ l := by
  refine ⟨List.replicate (k - bs.length) 0, ?_⟩
  rw [padTo, bytesAt, List.drop_zero, List.take_of_length_le h]

theorem le_roundUp (k : Nat) {m : Nat} (hm : 0 < m) : k ≤ (k + m - 1) / m * m := by
  have h := Nat.div_add_mod (k + m - 1) m
  have hlt := Nat.mod_lt (k + m - 1) hm
  rw [Nat.mul_comm] at h
  omega

/-- The bytes of a result are its elements, its status and what follows, filled up to whole rows or words. -/
theorem resultBytes_padded (y : EmbRun) (order : List Nat) : ∃ k l,
    resultBytes y order = padTo k ((resultOut y order).flatMap (elemBytes y) ++ (natLe 1 y.status ++ l))
      ∧ ((resultOut y order).flatMap (elemBytes y) ++ (natLe 1 y.status ++ l)).length ≤ k := by
  simp only [resultBytes, List.append_assoc]
  refine ⟨_, _, rfl, le_roundUp _ ?_⟩
  split <;> decide

/-- A result begins with its elements and its status. -/
theorem resultBytes_starts (y : EmbRun) (order : List Nat) :
    ∃ l, resultBytes y order = (resultOut y order).flatMap (elemBytes y) ++ (natLe 1 y.status ++ l) := by
  obtain ⟨k, l, heq, hlen⟩ := resultBytes_padded y order
  obtain ⟨l', hl'⟩ := padTo_longer hlen
  exact ⟨l ++ l', by rw [heq, hl', List.append_assoc, List.append_assoc]⟩

theorem elements_length (y : EmbRun) (order : List Nat) :
    ((resultOut y order).flatMap (elemBytes y)).length = outSize y * (resultOut y order).length :=
  FloorPlanFamily.length_flatMap_blocks (elemBytes_length y) _

/-- The status stands behind the elements. -/
theorem leAt_resultBytes_status (y : EmbRun) (order : List Nat) :
    leAt (resultBytes y order) (outSize y * (resultOut y order).length) 1 = y.status % 256 := by
  obtain ⟨l, hl⟩ := resultBytes_starts y order
  rw [hl, leAt, ← elements_length, List.drop_left, List.take_left' (natLe_length 1 y.status), leNat_natLe, pow_one]

/-- Element `j` of a result stands at its place. -/
theorem leAt_resultBytes_elem {y : EmbRun} {order : List Nat} {j : Nat} (h : j < (resultOut y order).length) :
    leAt (resultBytes y order) (outSize y * j) (outSize y) = ((resultOut y order)[j]).toNat % 256 ^ outSize y := by
  obtain ⟨l, hl⟩ := resultBytes_starts y order
  have hin : outSize y * j + outSize y ≤ ((resultOut y order).flatMap (elemBytes y)).length := by
    rw [elements_length, ← Nat.mul_succ]
    exact Nat.mul_le_mul_left _ h
  rw [hl, leAt, List.drop_append_of_le_length (by omega),
    List.take_append_of_le_length (by rw [List.length_drop]; omega),
    FloorPlanFamily.flatMap_block (elemBytes_length y) _ h, elemBytes, leNat_natLe]

theorem eq_zero_of_mem_natLe_zero {k : Nat} {b : Byte} (h : b ∈ natLe k 0) : b = 0 := by
  induction k with
  | zero => cases h
  | succ k ih =>
    obtain rfl | h := List.mem_cons.mp h
    · rfl
    · exact ih h

/-- Beside a status the elements of a result are zero in either format. -/
theorem resultOut_failed {y : EmbRun} (h : y.status ≠ 0) (order : List Nat) : resultOut y order = copies y.elems 0 := by
  have hzero : BitVec.ofNat 32 (layRound lay16b .rne (f32 0)).1 = 0 := by decide +kernel
  rw [resultOut, resultVec, if_neg h]
  split
  · rw [copies, List.map_replicate, hzero]
  · rfl

theorem getD_resultBytes_failed {y : EmbRun} (h : y.status ≠ 0) (order : List Nat) {i : Nat}
    (hi : i < outSize y * y.elems) : (resultBytes y order).getD i 0 = 0 := by
  obtain ⟨l, hl⟩ := resultBytes_starts y order
  have hlen := elements_length y order
  rw [resultOut_failed h] at hl hlen
  rw [copies_length] at hlen
  have hin : i < ((copies y.elems (0 : W32)).flatMap (elemBytes y)).length := hlen ▸ hi
  rw [hl, List.getD_append _ _ _ _ hin, List.getD_eq_getElem _ _ hin]
  obtain ⟨a, ha, hb⟩ := List.mem_flatMap.mp (List.getElem_mem hin)
  rw [List.eq_of_mem_replicate ha] at hb
  exact eq_zero_of_mem_natLe_zero hb

/-! ### Sums in the order in which the rows return (R346) -/

/-- A row added to the sums of its elements. -/
def addRow (acc : List W32) (row : List W32 × W32) : List W32 := acc.zipWith (fun a x => (f32Add .rne a x).1) row.1

theorem poolRows_sum (e : Nat) (rows : List (List W32 × W32)) : poolRows 0 e rows = rows.foldl addRow (copies e 0) := by
  cases rows <;> rfl

/-- Each element of the sums is the sum of that element of the rows. -/
theorem foldl_addRow {e j : Nat} (hj : j < e) {rows : List (List W32 × W32)} (h : ∀ row, row ∈ rows → row.1.length = e)
    {acc : List W32} (hacc : acc.length = e) :
    (rows.foldl addRow acc).length = e ∧ (rows.foldl addRow acc).getD j 0
      = rows.foldl (fun a row => (f32Add .rne a (row.1.getD j 0)).1) (acc.getD j 0) := by
  induction rows generalizing acc with
  | nil => exact ⟨hacc, rfl⟩
  | cons row rows ih =>
    have hrow := h row List.mem_cons_self
    have hlen : (addRow acc row).length = e := by rw [addRow, List.length_zipWith, hacc, hrow, Nat.min_self]
    have hget : (addRow acc row).getD j 0 = (f32Add .rne (acc.getD j 0) (row.1.getD j 0)).1 := by
      rw [List.getD_eq_getElem _ _ (hlen ▸ hj), List.getD_eq_getElem _ _ (hacc ▸ hj), List.getD_eq_getElem _ _ (hrow ▸ hj)]
      exact List.getElem_zipWith
    rw [List.foldl_cons, List.foldl_cons, ← hget]
    exact ih (fun row' hrow' => h row' (List.mem_cons_of_mem _ hrow')) hlen

/-- A list that orders the numbers below `k` holds no others. -/
theorem lt_of_mem_order {k : Nat} {order : List Nat} (h : isOrder k order = true) {i : Nat} (hi : i ∈ order) : i < k := by
  rw [isOrder, Bool.and_eq_true, beq_iff_eq, List.all_eq_true] at h
  obtain ⟨hlen, hall⟩ := h
  have hsub : List.range k ⊆ order := fun j hj => List.contains_iff_mem.mp (hall j hj)
  have hperm := (List.subperm_of_subset List.nodup_range hsub).perm_of_length_le (by rw [hlen, List.length_range])
  exact List.mem_range.mp (hperm.mem_iff.mpr hi)

/-- A sum pooling in FP32 holds each element's sum over the rows in their order. -/
theorem leAt_resultBytes_sum {y : EmbRun} {order : List Nat} (hst : y.status = 0) (hf : rqBf16 y.req.raw = false)
    (hp : rqPool y.req.raw = 0) (hrows : ∀ row, row ∈ y.rows → row.length = y.elems)
    (ho : isOrder y.rows.length order = true) {j : Nat} (hj : j < y.elems) :
    leAt (resultBytes y order) (4 * j) 4
      = (order.foldl (fun acc i => (f32Add .rne acc ((y.rows.getD i []).getD j 0)).1) 0).toNat := by
  have hsize : outSize y = 4 := by rw [outSize, hf]; rfl
  have hout : resultOut y order
      = (order.map (fun i => (y.rows.getD i [], y.weights.getD i 0))).foldl addRow (copies y.elems 0) := by
    rw [resultOut, hf, if_neg Bool.false_ne_true, resultVec, if_pos hst, hp, poolRows_sum]
  have hlens : ∀ row, row ∈ order.map (fun i => (y.rows.getD i [], y.weights.getD i 0)) → row.1.length = y.elems := by
    intro row hrow
    obtain ⟨i, hi, rfl⟩ := List.mem_map.mp hrow
    have hlt := lt_of_mem_order ho hi
    dsimp only
    rw [List.getD_eq_getElem _ _ hlt]
    exact hrows _ (List.getElem_mem hlt)
  obtain ⟨hlen, hget⟩ := foldl_addRow hj hlens (copies_length _ _)
  rw [← hout] at hlen hget
  have hin : j < (resultOut y order).length := hlen ▸ hj
  have helem := leAt_resultBytes_elem hin
  rw [hsize, ← List.getD_eq_getElem (resultOut y order) 0 hin, hget, List.foldl_map] at helem
  have hzero : (copies y.elems (0 : W32)).getD j 0 = 0 := by
    rw [List.getD_eq_getElem _ _ (by rwa [copies_length])]
    exact List.getElem_replicate _
  rw [helem, hzero]
  exact Nat.mod_eq_of_lt (BitVec.isLt _)

/-! ## Rows of a rebuild (R352 to R354) -/

/-- A rebuild has written one more row. -/
def rowCounted (now : Nat) (y : EmbTable) : EmbTable := { y with rowsDone := y.rowsDone + 1, lastRow := now }

/-- A rebuild reaches an end. -/
def rebuildEnds (phase : RebuildPhase) (y : EmbTable) : EmbTable := { y with phase := phase }

/-- The event of a rebuild's table. -/
def rebuildEvent (code n t aux : Nat) (x : EmbTable) : EventRec := { evPlain code n t aux with part := x.part }

/-- What follows the write of a row: the next one is due, or the rebuild is complete with its event. -/
def rowWritten (n t : Nat) (x : EmbTable) (now : Nat) (s : State) : State :=
  if x.rowsDone + 1 < x.rows then modTable n t (rowCounted now) s
  else raise1 (rebuildEvent 0x0400 n t ((x.epoch + 1) % 2 ^ 32) x)
    (modTable n t (rebuildEnds .complete) (modTable n t (rowCounted now) s))

/-- Where the next row of a rebuild goes: its place in the copy that is not in use. -/
def rowPlaced (x : EmbTable) : Nat := copyBase x (x.epoch + 1) + x.rowsDone * x.stride

theorem mem_raise1 (e : EventRec) (s : State) : (raise1 e s).mem = s.mem := (within_raised e s).frame .mem (by decide)

theorem tableOf_raise1 (e : EventRec) (s : State) (n t : Nat) : tableOf (raise1 e s) n t = tableOf s n t :=
  tableOf_of_engines ((within_raised e s).frame .engines (by decide)) n t

theorem mem_rowWritten (n t : Nat) (x : EmbTable) (now : Nat) (s : State) : (rowWritten n t x now s).mem = s.mem := by
  rw [rowWritten]
  split
  · rfl
  · exact mem_raise1 _ _

/-- An event that is raised after changes of other parts is the one event raised. -/
theorem raises_raise1 (h : OnlyChanges [.engines, .mem, .hbms] s u) (e : EventRec) : Raises e s (raise1 e u) :=
  ⟨u, h .ev (by decide), h .host (by decide), h .hostMem (by decide), h .fw (by decide), (raise1_now e u).symm, rfl, rfl, rfl⟩

/-- A write of a stack in which the codes find nothing leaves the die buffers. -/
theorem bufs_writeMem_stack {bs : List Byte} (hc : CleanRange (.stack n) off bs.length s) :
    (writeMem (.stack n) off bs ⟨[], []⟩ s).2.bufs = s.bufs := by
  have hmarks (b : Bool) (ws : List Nat) (v : State) :
      (ws.foldl (fun s w => markBad (.stack n) w b s) v).bufs = v.bufs :=
    ScratchpadFamily.related_foldl (R := fun s u => u.bufs = s.bufs) (f := fun s w => markBad (.stack n) w b s)
      (fun _ => rfl) (fun h h' => h'.trans h) (fun _ _ => rfl) ws v
  obtain ⟨harmed, hgood⟩ := hc
  rw [writeMem, ServiceFamily.examineWords_clean harmed fun w hw => hgood w (List.mem_of_mem_filter hw)]
  dsimp only
  rw [hmarks, hmarks]
  rfl

/-- A row written into a stack where the codes find nothing stands there, and all other bytes are as before. -/
theorem writeMem_stack {bs : List Byte} (hc : CleanRange (.stack n) off bs.length s) :
    OnlyChanges [.mem, .hbms] s (writeMem (.stack n) off bs ⟨[], []⟩ s).2
      ∧ memRead (writeMem (.stack n) off bs ⟨[], []⟩ s).2.mem (stackAddr n off) bs.length = bs
      ∧ ∀ b, b < stackAddr n off ∨ stackAddr n off + bs.length ≤ b →
          memByte (writeMem (.stack n) off bs ⟨[], []⟩ s).2.mem b = memByte s.mem b := by
  obtain ⟨v, hv, hmem, honly⟩ := ServiceFamily.writeMem_clean ⟨n, .inr rfl⟩ hc
  have hbufs := bufs_writeMem_stack hc
  rw [hv] at hbufs ⊢
  refine ⟨fun p hp => ?_, ?_, fun b hb => ?_⟩
  · by_cases hbuf : p = .bufs
    · exact hbuf ▸ hbufs
    · exact honly p (by simpa [hbuf] using hp)
  · rw [hmem]
    exact memRead_memWrite _ _ _
  · rw [hmem]
    exact memByte_memWrite_out _ _ _ hb

section
variable {st : StackId} {tab : Fin 64}

/-- A running rebuild whose idle copy no old request reads goes on to its next row. -/
theorem rebuild_ready (hrun : x.phase = .running) (hs : scrubs s n = true)
    (hready : x.rowsDone ≠ 0 ∨ idleReaders x t (engineOf s n) = false) :
    (decide (x.phase ≠ .running) || !scrubs s n || (x.rowsDone == 0 && idleReaders x t (engineOf s n))) = false := by
  rw [decide_eq_false (not_not.mpr hrun), hs, Bool.false_or, Bool.not_true, Bool.false_or, Bool.and_eq_false_iff]
  exact hready.imp beq_false_of_ne id

/-- A row that its source gives is written, and what follows the write is done. -/
theorem exec_rebuildRowWrite_writes (ht : tableOf s st.val tab.val = some x) (hrun : x.phase = .running)
    (hs : scrubs s st.val = true) (hready : x.rowsDone ≠ 0 ∨ idleReaders x tab.val (engineOf s st.val) = false)
    {bs : List Byte} (hrow : rebuildRow st.val x x.rowsDone f (atTime time s) = (0, bs, u)) :
    exec (.rebuildRowWrite st tab f time) s = .next (rowWritten st.val tab.val x
      (writeMem (.stack st.val) (rowPlaced x) bs f u).2.now (writeMem (.stack st.val) (rowPlaced x) bs f u).2) := by
  show execRebuildRowWrite st tab f time s = _
  rw [execRebuildRowWrite, ht]
  dsimp only
  rw [rebuild_ready hrun hs hready, if_neg Bool.false_ne_true, hrow, if_neg (show 0 ≠ notYet by decide),
    if_neg (not_not.mpr rfl), rowWritten]
  split <;> rfl

/-- A row that cannot be read fails the rebuild there. -/
theorem exec_rebuildRowWrite_fails (ht : tableOf s st.val tab.val = some x) (hrun : x.phase = .running)
    (hs : scrubs s st.val = true) (hready : x.rowsDone ≠ 0 ∨ idleReaders x tab.val (engineOf s st.val) = false)
    {st' : Nat} {bs : List Byte} (hrow : rebuildRow st.val x x.rowsDone f (atTime time s) = (st', bs, atTime time s))
    (hst : st' ≠ 0) (hnow : st' ≠ notYet) :
    exec (.rebuildRowWrite st tab f time) s = .next (raise1 (rebuildEvent 0x0401 st.val tab.val x.rowsDone x)
      (modTable st.val tab.val (fun y => { y with phase := .failed, failRow := y.rowsDone }) (atTime time s))) := by
  have ht' : tableOf (atTime time s) st.val tab.val = some x := ht
  show execRebuildRowWrite st tab f time s = _
  rw [execRebuildRowWrite, ht]
  dsimp only
  rw [rebuild_ready hrun hs hready, if_neg Bool.false_ne_true, hrow, if_neg hnow, if_pos hst, rebuildFails, ht']
  rfl

/-- A row whose read has to wait is written later. -/
theorem exec_rebuildRowWrite_waits (ht : tableOf s st.val tab.val = some x)
    (hrow : (rebuildRow st.val x x.rowsDone f (atTime time s)).1 = notYet) :
    exec (.rebuildRowWrite st tab f time) s = .next s := by
  show execRebuildRowWrite st tab f time s = _
  rw [execRebuildRowWrite, ht]
  dsimp only
  rw [if_pos hrow, ite_self]

theorem exec_rebuildStarved (ht : tableOf s st.val tab.val = some x) (hrun : x.phase = .running)
    (hlong : x.lastRow + 1000000000 ≤ (atTime time s).now) :
    exec (.rebuildStarved st tab time) s = .next (raise1 (rebuildEvent 0x0402 st.val tab.val x.rowsDone x)
      (modTable st.val tab.val (fun y => { y with lastRow := (atTime time s).now }) (atTime time s))) := by
  show execRebuildStarved st tab time s = _
  rw [execRebuildStarved, ht]
  dsimp only
  rw [decide_eq_false (not_not.mpr hrun), decide_eq_false (Nat.not_lt.mpr hlong), if_neg (by decide)]
  rfl

end

/-- Settles O41: a request runs as its checks and its indices say, a result leaves with the bytes of its rows, and a
rebuild's row is written, fails or waits as its source answers. -/
theorem lookupsAndRebuildsRun : Obligations.LookupsAndRebuildsRun := by
  unfold Obligations.LookupsAndRebuildsRun
  refine ⟨fun st time s hs _ => ⟨fun r rest x hq ht => ?starts, fun r rest hq ht => ?undefined,
      fun y rest order hr ho => ?result⟩,
    fun st tab time x s ht hrun => ⟨fun bs hs hready hrow hc => ?write, fun hs hready st' bs hst hnow hrow => ?fails,
      fun hrow => ?waits, fun hlong => ?starved⟩⟩
  case starts =>
    have ht' := (tableOf_queueTaken rest (atTime time s) (rqTable r.raw)).trans ht
    have hstatus := requestStatus_queueTaken (n := st.val) rest (atTime time s) r
    refine ⟨fun hst => ?_, fun hst hn => ?_, fun hst hn hread hsame => ⟨fun hout => ?_, fun hout hpool hc _ => ?_⟩⟩
    · rw [← hstatus] at hst ⊢
      exact exec_lookupStart hq hs (startLookup_refused ht' hst _)
    · exact exec_lookupStart hq hs (startLookup_empty ht' (hstatus.trans hst) hn _)
    · exact exec_lookupStart hq hs (startLookup_outOfRange ht' (hstatus.trans hst) hn hread hsame hout)
    · have hrows := startLookup_inRange ht' (hstatus.trans hst) hn hread hsame hout
      obtain ⟨w, hw⟩ := startRows_clean (s := queueTaken st.val rest (atTime time s)) hpool hc
      exact ⟨_, w, exec_lookupStart hq hs (hrows.trans hw), engineOf_addRun _ _ _,
        only_trans (queueTaken_only _ _ _) (modEngine_only _ _ _)⟩
  case undefined =>
    have ht' := (tableOf_queueTaken rest (atTime time s) (rqTable r.raw)).trans ht
    have hrun := startLookup_undefined ht' ⟨[], []⟩
    rw [requestStatus_queueTaken] at hrun
    refine ⟨_, freeElems (queueTaken st.val rest (atTime time s)), exec_lookupStart hq hs hrun, ?_, ?_, freeElems_bounds _⟩
    · rw [engineOf_addRun, engineOf_takeFree, queueTaken, engineOf_modEngine_same]
    · rw [engineOf_addRun, engineOf_takeFree, queueTaken, engineOf_modEngine_same]
      rfl
  case result =>
    refine ⟨_, exec_lookupResult hr hs ho time, ?_, fun x ht => ?_, results_sendResult _ _ _ _,
      fun p hp => awaits_sendResult hp _, fun hst => ⟨?_, fun i hi => getD_resultBytes_failed hst order hi⟩,
      fun hst hf hp hrows j hj => leAt_resultBytes_sum hst hf hp hrows ho hj, lookupResult_only _ _ _ _ _⟩
    · rw [runs_sendResult, runs_countRequest, engineOf_modEngine_same]
    · have ht' : tableOf (atTime time s) st.val (rqTable y.req.raw) = some x := ht
      rw [tableOf_sendResult, countRequest, tableOf_modTable_same,
        tableOf_modEngine (f := fun e => { e with runs := rest }) (fun _ => rfl), ht']
      rfl
    · have hstatus := leAt_resultBytes_status y order
      rwa [resultOut_failed hst, copies_length] at hstatus
  case write =>
    obtain ⟨honly, hread, hout⟩ := writeMem_stack hc
    have hnow := honly .now (by decide)
    have ht' := (tableOf_of_engines (honly .engines (by decide)) st.val tab.val).trans ht
    refine ⟨_, exec_rebuildRowWrite_writes ht hrun hs hready hrow, ?_, fun b hb => ?_, fun hmore => ?_, fun hlast => ?_⟩
    · rw [mem_rowWritten]
      exact hread
    · rw [mem_rowWritten]
      exact hout b hb
    · rw [rowWritten, if_pos hmore]
      refine ⟨?_, only_trans (only_mono honly (by decide)) (only_mono (modTable_only _ _ _ _) (by decide))⟩
      rw [tableOf_modTable_same]
      exact (congrArg (Option.map _) ht').trans (congrArg (fun now => some (rowCounted now x)) hnow)
    · rw [rowWritten, if_neg (Nat.not_lt.mpr hlast)]
      refine ⟨?_, raises_raise1 (only_trans (only_mono honly (by decide)) (only_mono (only_trans (modTable_only _ _ _ _)
        (modTable_only _ _ _ _)) (by decide))) _⟩
      rw [tableOf_raise1, tableOf_modTable_same, tableOf_modTable_same]
      exact (congrArg (fun o => Option.map _ (Option.map _ o)) ht').trans
        (congrArg (fun now => some (rebuildEnds .complete (rowCounted now x))) hnow)
  case fails => exact exec_rebuildRowWrite_fails ht hrun hs hready hrow hst hnow
  case waits => exact exec_rebuildRowWrite_waits ht hrow
  case starved => exact exec_rebuildStarved ht hrun hlong

end Sys2Proof.EmbeddingFamily

/-! Proofs of the family of the weight store: sweeps, images and page writes (O42), weight sets (O43), and purlins (O44). -/

namespace Sys2Proof.WeightFamily

open Machine Laws BayFamily

variable {c : Cmd} {pay : List Byte} {s u : State} {n page time : Nat}

/-! ## The dies of the weight store (R358) -/

theorem storeOf_of_store (h : u.boot.store = s.boot.store) (n : Nat) : storeOf u n = storeOf s n := by
  rw [storeOf, storeOf, h]

theorem pageOf_of_store (h : u.boot.store = s.boot.store) (n p : Nat) : pageOf u n p = pageOf s n p := by
  rw [pageOf, pageOf, storeOf_of_store h]

theorem modStore_only (n : Nat) (f : StoreDie → StoreDie) (s : State) : OnlyChanges [.bootStore] s (modStore n f s) :=
  (within_modStore (Covers.self _) (Within.refl _ s)).frame

/-- A change of a die that leaves its page records leaves every byte of its array. -/
theorem memBytes_modStore {f : StoreDie → StoreDie} (hf : ∀ d, (f d).pages = d.pages) (n off k : Nat) (s : State) :
    memBytes (modStore n f s) (.array n) off k = memBytes s (.array n) off k := by
  have hpages : (mapGetD (modStore n f s).boot.store n storeZero).pages = (mapGetD s.boot.store n storeZero).pages := by
    show (storeOf (modStore n f s) n).pages = _
    rw [storeOf_modStore_same, hf, storeOf]
  have hbyte (i : Nat) : storeByte (modStore n f s) n (off + i) = storeByte s n (off + i) := by
    unfold storeByte
    rw [hpages]
    rfl
  exact List.map_congr_left fun i _ => hbyte i

/-- A change of a die that leaves the words that cannot be corrected leaves a clean range clean. -/
theorem cleanRange_modStore {f : StoreDie → StoreDie} (hf : ∀ d, (f d).bad = d.bad) {off k : Nat}
    (h : CleanRange (.array n) off k s) : CleanRange (.array n) off k (modStore n f s) := by
  obtain ⟨harmed, hgood⟩ := h
  refine ⟨harmed, fun v hv => ?_⟩
  have hbad : isBad (modStore n f s) (.array n) v = isBad s (.array n) v := by
    show (storeOf (modStore n f s) n).bad.contains v = (storeOf s n).bad.contains v
    rw [storeOf_modStore_same, hf]
  rw [hbad]
  exact hgood v hv

/-! ## Sweeps (R360) -/

/-- A die notes when it swept a page. -/
def notedSweep (page now : Nat) (d : StoreDie) : StoreDie := { d with swept := mapPut d.swept page now }

/-- A die counts a page that failed its CRC. -/
def crcCounted (d : StoreDie) : StoreDie := { d with crcErrors := satInc 0xFFFFFFFF d.crcErrors }

/-- A page that failed its CRC is counted and logged. -/
def crcFailed (n page : Nat) (s : State) : State :=
  logAdd { logBlank 2 with
    injected := false, part := ownerOf s (siteOfWstore n), unit := 0, x := siteX (siteOfWstore n), y := siteY (siteOfWstore n)
    addr := page, status := 0x0500, detail := page } (modStore n crcCounted s)

theorem exec_pageSweep_notDue {w : StoreDieId} (h : sweepDue (storeOf s w.val) page (atTime time s).now = false) :
    exec (.pageSweep w page time) s = .next s := by
  show execPageSweep w page time s = _
  rw [execPageSweep, h, Bool.not_false, Bool.or_true, if_pos rfl]

/-- A die whose sweep of a page is noted reads the page as before. -/
theorem readMem_noted {off k now : Nat} (h : CleanRange (.array n) off k s) :
    readMem (.array n) off k ⟨[], []⟩ (modStore n (notedSweep page now) s)
      = (false, memBytes s (.array n) off k, modStore n (notedSweep page now) s) := by
  rw [ServiceFamily.readMem_clean (cleanRange_modStore (f := notedSweep page now) (fun _ => rfl) h),
    memBytes_modStore (f := notedSweep page now) fun _ => rfl]

/-- A sweep that is due notes its time, and reports the page where its CRC does not hold. -/
theorem exec_pageSweep_due {w : StoreDieId} (hserves : storeServes s w.val = true) (hpage : page < 262144)
    (hwritten : (pageOf s w.val page).pfmt ≠ 0)
    (hclean : CleanRange (.array w.val) (65536 * page) (pageOf s w.val page).used (atTime time s))
    (hdue : sweepDue (storeOf s w.val) page (atTime time s).now = true) :
    exec (.pageSweep w page time) s = .next
      (if crc32 (memBytes s (.array w.val) (65536 * page) (pageOf s w.val page).used) = (pageOf s w.val page).crc then
        modStore w.val (notedSweep page (atTime time s).now) (atTime time s)
      else raise1 (evPlain 0x0500 w.val 0 page)
        (crcFailed w.val page (modStore w.val (notedSweep page (atTime time s).now) (atTime time s)))) := by
  have hread : readMem (.array w.val) (65536 * page) (pageOf s w.val page).used ⟨[], []⟩
      (modStore w.val (fun d => { d with swept := mapPut d.swept page (atTime time s).now }) (atTime time s))
      = (false, memBytes s (.array w.val) (65536 * page) (pageOf s w.val page).used,
        modStore w.val (notedSweep page (atTime time s).now) (atTime time s)) := readMem_noted hclean
  have hunarmed : (modStore w.val (notedSweep page (atTime time s).now) (atTime time s)).err.armed = [] := hclean.1
  show execPageSweep w page time s = _
  unfold execPageSweep
  dsimp only
  rw [hserves, decide_eq_false (Nat.not_le.mpr hpage), beq_eq_false_iff_ne.mpr hwritten, hdue, if_neg (by decide), hread,
    ServiceFamily.examine_unarmed hunarmed]
  by_cases hcrc : crc32 (memBytes s (.array w.val) (65536 * page) (pageOf s w.val page).used) = (pageOf s w.val page).crc
  · rw [if_pos hcrc, hcrc, bne_self_eq_false]
    rfl
  · rw [if_neg hcrc, bne_iff_ne.mpr hcrc]
    rfl

theorem storeOf_crcFailed (n page : Nat) (s : State) : storeOf (crcFailed n page s) n = crcCounted (storeOf s n) := by
  have hlog (r : LogRec) (v : State) : (logAdd r v).boot.store = v.boot.store :=
    (within_logAdd (Covers.self _) (Within.refl _ v)).frame .bootStore (by decide)
  rw [crcFailed, storeOf_of_store (hlog _ _), storeOf_modStore_same]

theorem crcFailed_only (n page : Nat) (s : State) : OnlyChanges [.err, .bootLog, .bootStore] s (crcFailed n page s) :=
  (within_logAdd ((Covers.self _).mono (by decide))
    (within_modStore ((Covers.self _).mono (by decide)) (Within.refl _ s))).frame

/-! ## Commands of the weight store (R369 to R372, R376) -/

theorem exec_wstoreInstallBegin (h : Allowed 0x0500 (storeChecks 0x0500) c pay s) :
    exec (.wstoreInstallBegin c) s = .next (complete c stOk 0 { takeCmd c s with install := true }) := by
  refine (runRow_accepted h.1 doInstallBegin).trans (congrArg _ ?_)
  rw [doInstallBegin]
  exact FloorPlanFamily.checked_pass h.2

theorem exec_wstoreInstallEnd (h : Allowed 0x0501 (storeChecks 0x0501) c pay s) :
    exec (.wstoreInstallEnd c) s = .next (complete c stOk 0 { takeCmd c s with install := false }) := by
  refine (runRow_accepted h.1 doInstallEnd).trans (congrArg _ ?_)
  rw [doInstallEnd]
  exact FloorPlanFamily.checked_pass h.2

/-- Checks decide between failing and taking effect. -/
theorem checked_eq (c : Cmd) (checks : List (Bool × Nat)) (eff : State → State) (s : State) :
    checked c checks eff s = if firstFail checks = stOk then eff s else complete c (firstFail checks) 0 s := by
  by_cases h : firstFail checks = stOk
  · rw [if_pos h, FloorPlanFamily.checked_pass h]
  · rw [if_neg h, checked_fails h]

/-- The image that a WSTORE_WRITE reads. -/
def imageRead (pay : List Byte) (s : State) : List Byte := hostRead s (leAt pay 0 8) (leAt pay 8 4)

theorem exec_wstoreWrite (h : Allowed 0x0502 (storeChecks 0x0502) c pay s)
    (hhost : hostAnswer (takeCmd c s) (leAt pay 0 8) (leAt pay 8 4) = none) :
    exec (.wstoreWrite c) s = .next
      (if firstFail (imageChecks (takeCmd c s) (imageRead pay (takeCmd c s)) (leAt pay 8 4)) = stOk then
        { takeCmd c s with
          installs := (takeCmd c s).installs ++ [imageRun (.host (leAt pay 0 8) c) (imageRead pay (takeCmd c s))] }
      else complete c (firstFail (imageChecks (takeCmd c s) (imageRead pay (takeCmd c s)) (leAt pay 8 4))) 0
        (takeCmd c s)) := by
  refine (runRow_accepted h.1 doWstoreWrite).trans (congrArg _ ?_)
  rw [doWstoreWrite]
  refine (FloorPlanFamily.checked_pass h.2).trans ?_
  rw [hhost]
  exact checked_eq _ _ _ _

/-- The records that a WSTORE_STATUS answers with. -/
def statusOut (pay : List Byte) (s : State) : List Byte :=
  storeBytes s (leAt pay 0 1)
    ++ (List.range (leAt pay 8 4)).flatMap (fun i => pageBytes (pageOf s (leAt pay 0 1) (leAt pay 4 4 + i)))

theorem statusOut_length (pay : List Byte) (s : State) : (statusOut pay s).length = 64 + 32 * leAt pay 8 4 := by
  have hdie : (storeBytes s (leAt pay 0 1)).length = 64 := by
    simp only [storeBytes, List.length_append, natLe_length, copies_length]
  have hpage (r : PageRec) : (pageBytes r).length = 32 := by
    simp only [pageBytes, List.length_append, natLe_length, copies_length]
  simp only [statusOut, List.length_append, hdie, List.length_flatMap, hpage, List.map_const', List.length_range,
    List.sum_replicate, smul_eq_mul, Nat.mul_comm]

theorem exec_wstoreStatus (h : Allowed 0x0503 (storeChecks 0x0503) c pay s) :
    exec (.wstoreStatus c) s
      = .next (completeWithBuf c (leAt pay 0x10 8) (statusOut pay (takeCmd c s)) 0 (takeCmd c s)) := by
  refine (runRow_accepted h.1 doWstoreStatus).trans (congrArg _ ?_)
  rw [doWstoreStatus]
  exact FloorPlanFamily.checked_pass h.2

end Sys2Proof.WeightFamily

namespace Sys2Proof.WeightFamily

open Machine Laws BayFamily

variable {c : Cmd} {bs : List Byte} {s t : State} {n p time seq : Nat} {e : ImageEntry} {x y : InstallRun}
  {src : ImageSource}

/-! ## A page is put (R373, R374) -/

/-- The record that a written page has. -/
def writtenRecord (e : ImageEntry) (seq : Nat) (bs : List Byte) (old : PageRec) (free : Nat) : PageRec :=
  ⟨e.pfmt, e.elemFmt, e.nblk, e.used, crc32 bs, satInc 0xFFFFFFFF old.writes, seq, free⟩

/-- A die with a page put in. -/
def pagePut (e : ImageEntry) (r : PageRec) (d : StoreDie) : StoreDie :=
  { d with pages := mapPut d.pages e.page r, bad := d.bad.filter (fun b => b / 1024 != e.page) }

theorem storeOf_putPage (n : Nat) (e : ImageEntry) (seq : Nat) (bs : List Byte) (s : State) :
    storeOf (putPage n e seq bs s) n
      = pagePut e (writtenRecord e seq bs (pageOf s n e.page) (s.freeCtr + 65536 - 65536)) (storeOf s n) :=
  storeOf_modStore_same _ _ _

theorem memRead_putPage (n : Nat) (e : ImageEntry) (seq : Nat) (bs : List Byte) (s : State) :
    memRead (putPage n e seq bs s).boot.storeMem (storeAddr n (65536 * e.page)) bs.length = bs :=
  memRead_memWrite _ _ _

theorem page_pagePut_same (e : ImageEntry) (r : PageRec) (d : StoreDie) :
    mapGetD (pagePut e r d).pages e.page pageUnwritten = r := by
  rw [mapGetD, pagePut, mapGet?_mapPut_same, Option.getD_some]

theorem page_pagePut_ne (h : p ≠ e.page) (r : PageRec) (d : StoreDie) :
    mapGetD (pagePut e r d).pages p pageUnwritten = mapGetD d.pages p pageUnwritten := by
  rw [mapGetD, pagePut, mapGet?_mapPut_ne _ _ h, mapGetD]

/-! ### A page write counts (R375) -/

/-- A die with one page write more. -/
def writeCounted (d : StoreDie) : StoreDie := { d with pageWrites := d.pageWrites + 1 }

/-- A page write is counted, and an event at most is raised. -/
theorem countPageWrite_cases (n : Nat) (s : State) :
    countPageWrite n s = modStore n writeCounted s ∨ ∃ r, countPageWrite n s = raise1 r (modStore n writeCounted s) := by
  by_cases h2700 : (storeOf s n).pageWrites + 1 = fullRewrites 2700 + 1
  · exact .inr ⟨_, if_pos h2700⟩
  · by_cases h3000 : (storeOf s n).pageWrites + 1 = fullRewrites 3000 + 1
    · exact .inr ⟨_, (if_neg h2700).trans (if_pos h3000)⟩
    · exact .inl ((if_neg h2700).trans (if_neg h3000))

theorem store_countPageWrite (n : Nat) (s : State) :
    (countPageWrite n s).boot.store = (modStore n writeCounted s).boot.store := by
  obtain h | ⟨r, h⟩ := countPageWrite_cases n s
  · rw [h]
  · rw [h]
    exact (within_raised r _).frame .bootStore (by decide)

theorem storeMem_countPageWrite (n : Nat) (s : State) : (countPageWrite n s).boot.storeMem = s.boot.storeMem :=
  (within_countPageWrite (Covers.self _) (Within.refl _ s)).frame .bootStoreMem (by decide)

theorem err_countPageWrite (n : Nat) (s : State) : (countPageWrite n s).err = s.err :=
  (within_countPageWrite (Covers.self _) (Within.refl _ s)).frame .err (by decide)

theorem storeOf_countPageWrite (n : Nat) (s : State) : storeOf (countPageWrite n s) n = writeCounted (storeOf s n) := by
  rw [storeOf_of_store (store_countPageWrite n s), storeOf_modStore_same]

/-! ### A page is read back (R373) -/

/-- The words of a page lie in it. -/
theorem wordsOf_page {k v : Nat} (h1 : 1 ≤ k) (hk : k ≤ 65536) (hv : v ∈ wordsOf (.array n) (65536 * p) k) :
    v / 1024 = p := by
  rw [wordsOf, if_neg (by omega)] at hv
  obtain ⟨i, hi, rfl⟩ := List.mem_map.mp hv
  have hi := List.mem_range.mp hi
  simp only [memWord] at hi ⊢
  omega

/-- A page that has been put has no word that cannot be corrected. -/
theorem putPage_clean (harmed : s.err.armed = []) {k : Nat} (h1 : 1 ≤ k) (hk : k ≤ 65536) :
    CleanRange (.array n) (65536 * e.page) k (countPageWrite n (putPage n e seq bs s)) := by
  refine ⟨by rw [err_countPageWrite]; exact harmed, fun v hv => ?_⟩
  have hpage := wordsOf_page h1 hk hv
  show (storeOf (countPageWrite n (putPage n e seq bs s)) n).bad.contains v = false
  rw [storeOf_countPageWrite, storeOf_putPage]
  simp [writeCounted, pagePut, hpage]

theorem writePage_good (hbs : entryBytesOf s src e = some bs) (hserves : storeServes s n = true)
    (hgood : pageGood e bs = true) (harmed : s.err.armed = []) (h1 : 1 ≤ e.used) (hk : e.used ≤ 65536) :
    writePage n seq src e s = (true, countPageWrite n (putPage n e seq bs s)) := by
  rw [writePage, hbs]
  dsimp only
  rw [hserves, hgood, ServiceFamily.readMem_clean (putPage_clean harmed h1 hk)]
  rfl

theorem writePage_bad (hbs : entryBytesOf s src e = some bs) (hgood : pageGood e bs = false) :
    writePage n seq src e s = (false, s) := by
  rw [writePage, hbs]
  dsimp only
  rw [hgood, Bool.not_false, Bool.or_true, if_pos rfl]

/-! ## PAGE_WRITE (R373 to R375) -/

/-- The die that begins a page has the open-image marker set. -/
def markerSet (n seq : Nat) (s : State) : State := modStore n (fun d => { d with marker := some seq }) s

theorem entryBytesOf_markerSet (n seq : Nat) (s : State) (src : ImageSource) (e : ImageEntry) :
    entryBytesOf (markerSet n seq s) src e = entryBytesOf s src e := by
  cases src <;> rfl

/-- The marker is cleared after a die's last page that stands. -/
def markerSettled (n : Nat) (ok : Bool) (y : InstallRun) (s : State) : State :=
  if ok && !y.todo.any (fun z => z.ws == n) then clearMarker n s else s

theorem pages_markerSettled (n : Nat) (ok : Bool) (y : InstallRun) (s : State) :
    (storeOf (markerSettled n ok y s) n).pages = (storeOf s n).pages := by
  unfold markerSettled
  split
  · rw [clearMarker, storeOf_modStore_same]
  · rfl

theorem pageWrites_markerSettled (n : Nat) (ok : Bool) (y : InstallRun) (s : State) :
    (storeOf (markerSettled n ok y s) n).pageWrites = (storeOf s n).pageWrites := by
  unfold markerSettled
  split
  · rw [clearMarker, storeOf_modStore_same]
  · rfl

theorem storeMem_markerSettled (n : Nat) (ok : Bool) (y : InstallRun) (s : State) :
    (markerSettled n ok y s).boot.storeMem = s.boot.storeMem := by
  unfold markerSettled
  split <;> rfl

theorem marker_markerSettled (hmarker : (storeOf s n).marker = some seq) (y : InstallRun) :
    (storeOf (markerSettled n true y s) n).marker = if y.todo.any (fun z => z.ws == n) then some seq else none := by
  rw [markerSettled]
  by_cases hmore : y.todo.any (fun z => z.ws == n) = true
  · rw [hmore, if_neg (by decide), if_pos rfl, hmarker]
  · rw [Bool.eq_false_iff.mpr hmore, if_pos (by decide), if_neg Bool.false_ne_true, clearMarker, storeOf_modStore_same]

/-- A die that has written a page of an image. -/
theorem storeOf_written (n : Nat) (e : ImageEntry) (seq : Nat) (bs : List Byte) (s : State) :
    storeOf (countPageWrite n (putPage n e seq bs (markerSet n seq s))) n
      = writeCounted (pagePut e (writtenRecord e seq bs (pageOf s n e.page) (s.freeCtr + 65536 - 65536))
          { storeOf s n with marker := some seq }) := by
  have hpage : pageOf (markerSet n seq s) n e.page = pageOf s n e.page := by
    rw [pageOf, markerSet, storeOf_modStore_same, pageOf]
  rw [storeOf_countPageWrite, storeOf_putPage, hpage, markerSet, storeOf_modStore_same]
  rfl

/-- A run goes on as another. -/
def runReplaced (x y : InstallRun) (s : State) : State :=
  { s with installs := s.installs.map (fun z => if z == x then y else z) }

/-- A run goes on as another, and ends where it has no page left. -/
def runOn (x y : InstallRun) (s : State) : State :=
  if y.todo.isEmpty then finishInstall y (runReplaced x y s) else runReplaced x y s

theorem runReplaced_only (x y : InstallRun) (s : State) : OnlyChanges [.installs] s (runReplaced x y s) := by
  intro p hp
  have h := same_refl p s
  cases p with
  | installs => exact absurd List.mem_cons_self hp
  | _ => exact h

theorem runOn_only (x y : InstallRun) (s : State) :
    OnlyChanges [.host, .inProgress, .mgmt, .measure, .ev, .parts, .fw, .installs, .links, .hostMem] s (runOn x y s) := by
  have hreplaced := only_mono (runReplaced_only x y s)
    (B := [.host, .inProgress, .mgmt, .measure, .ev, .parts, .fw, .installs, .links, .hostMem]) (by decide)
  unfold runOn
  split
  · exact only_trans hreplaced (within_finishInstall (Covers.self _) (Within.refl _ _)).frame
  · exact hreplaced

theorem installPage_eq {ok : Bool} (hwrite : writePage n x.seq x.src e (markerSet n x.seq s) = (ok, t)) :
    installPage n x e s
      = (if (runAfterPage n e ok x).todo.isEmpty then some (runAfterPage n e ok x) else none,
          runReplaced x (runAfterPage n e ok x) (markerSettled n ok (runAfterPage n e ok x) t)) := by
  have hwrite' : writePage n x.seq x.src e (modStore n (fun d => { d with marker := some x.seq }) s) = (ok, t) := hwrite
  unfold installPage
  simp only [hwrite']
  split <;> rfl

/-- A die writes the next page of its oldest image. -/
theorem exec_pageWrite {w : StoreDieId} (hx : s.installs.find? (fun x => x.todo.any (fun e => e.ws == w.val)) = some x)
    (he : x.todo.find? (fun e => e.ws == w.val) = some e) {ok : Bool}
    (hwrite : writePage w.val x.seq x.src e (markerSet w.val x.seq (atTime time s)) = (ok, t)) :
    exec (.pageWrite w time) s
      = .next (runOn x (runAfterPage w.val e ok x) (markerSettled w.val ok (runAfterPage w.val e ok x) t)) := by
  show execPageWrite w time s = _
  rw [execPageWrite, hx]
  dsimp only
  rw [he]
  dsimp only
  rw [installPage_eq hwrite, runOn]
  by_cases htodo : (runAfterPage w.val e ok x).todo.isEmpty
  · rw [if_pos htodo, if_pos htodo]
  · rw [if_neg htodo, if_neg htodo]

theorem storeOf_runOn (x y : InstallRun) (s : State) (n : Nat) : storeOf (runOn x y s) n = storeOf s n :=
  storeOf_of_store (runOn_only x y s .bootStore (by decide)) n

theorem storeMem_runOn (x y : InstallRun) (s : State) : (runOn x y s).boot.storeMem = s.boot.storeMem :=
  runOn_only x y s .bootStoreMem (by decide)

/-- An image of the host that has ended with all its pages completes its command. -/
theorem runOn_completes {a : Nat} (htodo : y.todo = []) (hsrc : y.src = .host a c) (hfailed : y.failed = []) (x : InstallRun)
    (s : State) : ∃ v, runOn x y s = complete c stOk y.npages v := by
  rw [runOn, htodo, List.isEmpty_nil, if_pos rfl, finishInstall, hsrc]
  dsimp only
  rw [endInstall, hsrc]
  dsimp only
  rw [hfailed, List.isEmpty_nil, if_pos rfl]
  exact ⟨_, rfl⟩

/-- An image of the host that has ended with one page failed completes its command with it. -/
theorem runOn_fails {a i : Nat} (htodo : y.todo = []) (hsrc : y.src = .host a c) (hfailed : y.failed = [i]) (x : InstallRun)
    (s : State) : ∃ v, runOn x y s = complete c stFault i v := by
  rw [runOn, htodo, List.isEmpty_nil, if_pos rfl, finishInstall, hsrc]
  dsimp only
  rw [endInstall, hsrc]
  dsimp only
  rw [hfailed, List.isEmpty_cons, if_neg Bool.false_ne_true]
  have hleast : leastOf [i] = i := Nat.min_self i
  rw [hleast]
  exact ⟨_, rfl⟩

/-! ### What a page write leaves -/

/-- A die that has written a page of an image, with its run. -/
def pageStood (n : Nat) (x : InstallRun) (e : ImageEntry) (bs : List Byte) (s : State) : State :=
  runOn x (runAfterPage n e true x) (markerSettled n true (runAfterPage n e true x)
    (countPageWrite n (putPage n e x.seq bs (markerSet n x.seq s))))

/-- A die that has left a page of an image as it was, with its run. -/
def pageLeft (n : Nat) (x : InstallRun) (e : ImageEntry) (s : State) : State :=
  runOn x (runAfterPage n e false x) (markerSettled n false (runAfterPage n e false x) (markerSet n x.seq s))

theorem exec_pageWrite_good {w : StoreDieId}
    (hx : s.installs.find? (fun x => x.todo.any (fun e => e.ws == w.val)) = some x)
    (he : x.todo.find? (fun e => e.ws == w.val) = some e) (hbs : entryBytesOf (atTime time s) x.src e = some bs)
    (hserves : storeServes (atTime time s) w.val = true) (harmed : s.err.armed = []) (h1 : 1 ≤ e.used) (hk : e.used ≤ 65536)
    (hgood : pageGood e bs = true) : exec (.pageWrite w time) s = .next (pageStood w.val x e bs (atTime time s)) :=
  exec_pageWrite hx he (writePage_good (s := markerSet w.val x.seq (atTime time s))
    ((entryBytesOf_markerSet _ _ _ _ _).trans hbs) hserves hgood harmed h1 hk)

theorem exec_pageWrite_bad {w : StoreDieId}
    (hx : s.installs.find? (fun x => x.todo.any (fun e => e.ws == w.val)) = some x)
    (he : x.todo.find? (fun e => e.ws == w.val) = some e) (hbs : entryBytesOf (atTime time s) x.src e = some bs)
    (hgood : pageGood e bs = false) : exec (.pageWrite w time) s = .next (pageLeft w.val x e (atTime time s)) :=
  exec_pageWrite hx he (writePage_bad (s := markerSet w.val x.seq (atTime time s))
    ((entryBytesOf_markerSet _ _ _ _ _).trans hbs) hgood)

theorem pages_pageStood (n : Nat) (x : InstallRun) (e : ImageEntry) (bs : List Byte) (s : State) :
    (storeOf (pageStood n x e bs s) n).pages = (pagePut e (writtenRecord e x.seq bs (pageOf s n e.page)
        (s.freeCtr + 65536 - 65536)) { storeOf s n with marker := some x.seq }).pages := by
  rw [pageStood, storeOf_runOn, pages_markerSettled, storeOf_written, writeCounted]

/-- The page that stands has the record that the image gives it. -/
theorem pageOf_pageStood (n : Nat) (x : InstallRun) (e : ImageEntry) (bs : List Byte) (s : State) :
    pageOf (pageStood n x e bs s) n e.page
      = writtenRecord e x.seq bs (pageOf s n e.page) (s.freeCtr + 65536 - 65536) := by
  rw [pageOf, pages_pageStood]
  exact page_pagePut_same _ _ _

theorem pageOf_pageStood_ne (h : p ≠ e.page) (n : Nat) (x : InstallRun) (bs : List Byte) (s : State) :
    pageOf (pageStood n x e bs s) n p = pageOf s n p := by
  rw [pageOf, pages_pageStood]
  exact page_pagePut_ne h _ _

theorem memRead_pageStood (n : Nat) (x : InstallRun) (e : ImageEntry) (bs : List Byte) (s : State) :
    memRead (pageStood n x e bs s).boot.storeMem (storeAddr n (65536 * e.page)) bs.length = bs := by
  rw [pageStood, storeMem_runOn, storeMem_markerSettled, storeMem_countPageWrite, memRead_putPage]

theorem pageWrites_pageStood (n : Nat) (x : InstallRun) (e : ImageEntry) (bs : List Byte) (s : State) :
    (storeOf (pageStood n x e bs s) n).pageWrites = (storeOf s n).pageWrites + 1 := by
  rw [pageStood, storeOf_runOn, pageWrites_markerSettled, storeOf_written, writeCounted, pagePut]

theorem marker_pageStood (n : Nat) (x : InstallRun) (e : ImageEntry) (bs : List Byte) (s : State) :
    (storeOf (pageStood n x e bs s) n).marker
      = if (x.todo.erase e).any (fun z => z.ws == n) then some x.seq else none := by
  rw [pageStood, storeOf_runOn, marker_markerSettled (seq := x.seq) (by rw [storeOf_written]; rfl)]
  rfl

theorem pageOf_pageLeft (n : Nat) (x : InstallRun) (e : ImageEntry) (s : State) (p : Nat) :
    pageOf (pageLeft n x e s) n p = pageOf s n p := by
  rw [pageOf, pageLeft, storeOf_runOn, pages_markerSettled, markerSet, storeOf_modStore_same, pageOf]

theorem storeMem_pageLeft (n : Nat) (x : InstallRun) (e : ImageEntry) (s : State) :
    (pageLeft n x e s).boot.storeMem = s.boot.storeMem := by
  rw [pageLeft, storeMem_runOn, storeMem_markerSettled]
  rfl

theorem pageWrites_pageLeft (n : Nat) (x : InstallRun) (e : ImageEntry) (s : State) :
    (storeOf (pageLeft n x e s) n).pageWrites = (storeOf s n).pageWrites := by
  rw [pageLeft, storeOf_runOn, pageWrites_markerSettled, markerSet, storeOf_modStore_same]

/-- The run of a die whose last page of the image stands has no page left. -/
theorem todo_runAfterPage_good (h : x.todo = [e]) : (runAfterPage n e true x).todo = [] := by
  show x.todo.erase e = []
  rw [h, List.erase_cons_head]

/-- A die whose page failed writes no further one. -/
theorem todo_runAfterPage_bad (h : x.todo = [e]) (hdie : (e.ws == n) = true) : (runAfterPage n e false x).todo = [] := by
  show x.todo.filter (fun y => y.ws != n) = []
  rw [h, List.filter_cons_of_neg (by rw [bne, hdie]; exact Bool.false_ne_true), List.filter_nil]

theorem failed_runAfterPage_bad (h : x.failed = []) (n : Nat) (e : ImageEntry) :
    (runAfterPage n e false x).failed = [e.index] := by
  show x.failed ++ [e.index] = [e.index]
  rw [h, List.nil_append]

/-! ## Settlement of O42 -/

/-- Settles O42: a sweep notes its page and reports one whose CRC fails; each command makes the one change of its row; a
page whose bytes are those of the image is put with its record and reads back clean, and any other leaves both. -/
theorem weightsAreInstalled : Obligations.WeightsAreInstalled := by
  unfold Obligations.WeightsAreInstalled
  intro s hkept
  refine ⟨fun w page time hserves hpage hwritten hclean => ⟨exec_pageSweep_notDue, fun hdue hcrc => ?sweepGood,
      fun hdue hcrc => ?sweepBad⟩,
    fun c pay => ⟨exec_wstoreInstallBegin, exec_wstoreInstallEnd, exec_wstoreWrite, fun h hbuf => ?status⟩,
    fun w time x e bs hx he hbs hserves harmed h1 hk => ?write⟩
  case sweepGood =>
    exact ⟨_, (exec_pageSweep_due hserves hpage hwritten hclean hdue).trans (congrArg _ (if_pos hcrc)),
      storeOf_modStore_same _ _ _, modStore_only _ _ _⟩
  case sweepBad =>
    refine ⟨_, (exec_pageSweep_due hserves hpage hwritten hclean hdue).trans (congrArg _ (if_neg hcrc)), ?_,
      only_trans (only_mono (modStore_only _ _ _) (by decide)) (crcFailed_only _ _ _)⟩
    rw [storeOf_crcFailed, storeOf_modStore_same]
    rfl
  case status =>
    obtain ⟨-, htake, -⟩ := h.1
    obtain ⟨_, htaken⟩ := takenOf_takeCmd htake
    rw [← statusOut_length pay (takeCmd c s)] at hbuf
    obtain ⟨v, hv, hout, honly⟩ := SequencerFamily.completeWithBuf_answers htaken hbuf
    refine ⟨v, (exec_wstoreStatus h).trans (congrArg _ hv), ?_, honly⟩
    have hpages (i : Nat) : pageOf (takeCmd c s) (leAt pay 0 1) i = pageOf s (leAt pay 0 1) i :=
      pageOf_of_store (congrArg BootStore.store (takeCmd_boot c s)) _ _
    simpa only [statusOut, hpages] using hout
  case write =>
    cases hgood : pageGood e bs with
    | true =>
      exact ⟨_, exec_pageWrite_good hx he hbs hserves harmed h1 hk hgood,
        fun _ => ⟨_, pageOf_pageStood _ _ _ _ _, memRead_pageStood _ _ _ _ _, pageWrites_pageStood _ _ _ _ _,
          marker_pageStood _ _ _ _ _,
          fun a c htodo hsrc hfailed => runOn_completes (todo_runAfterPage_good htodo) hsrc hfailed _ _⟩,
        nofun, fun p hp => pageOf_pageStood_ne hp _ _ _ _⟩
    | false =>
      have hdie := List.find?_some he
      exact ⟨_, exec_pageWrite_bad hx he hbs hgood, nofun,
        fun _ => ⟨pageOf_pageLeft _ _ _ _ _, storeMem_pageLeft _ _ _ _, pageWrites_pageLeft _ _ _ _,
          fun a c htodo hsrc hfailed => runOn_fails (todo_runAfterPage_bad htodo hdie) hsrc
            (failed_runAfterPage_bad hfailed _ _) _ _⟩,
        fun p _ => pageOf_pageLeft _ _ _ _ p⟩

end Sys2Proof.WeightFamily

namespace Sys2Proof.WeightFamily

open Machine Laws BayFamily

variable {c : Cmd} {pay : List Byte} {s u : State} {n part slot j g : Nat} {m : ModelSlot} {x : Generation}

/-! ## Model slots (R377, R378) -/

theorem partOf_of_parts (hp : u.parts = s.parts) (n : Nat) : partOf u n = partOf s n := by
  rw [partOf, partOf, hp]

@[simp] theorem partOf_takeCmd (c : Cmd) (s : State) (n : Nat) : partOf (takeCmd c s) n = partOf s n :=
  partOf_of_parts (takeCmd_parts c s) n

theorem slotOf_modSlot_same (hp : part < s.parts.length) (f : ModelSlot → ModelSlot) (n : Nat) :
    slotOf (partOf (modSlot part n f s) part) n = f (slotOf (partOf s part) n) := by
  rw [modSlot, ContractFamily.partOf_modPart _ hp]
  exact mapGetD_mapSet_same _ _ _ _

theorem slotOf_modSlot_ne (hp : part < s.parts.length) (f : ModelSlot → ModelSlot) (hj : j ≠ n) :
    slotOf (partOf (modSlot part n f s) part) j = slotOf (partOf s part) j := by
  rw [modSlot, ContractFamily.partOf_modPart _ hp]
  exact mapGetD_mapSet_ne _ _ _ _ hj

theorem pins_modSlot (hp : part < s.parts.length) (f : ModelSlot → ModelSlot) (n : Nat) :
    (partOf (modSlot part n f s) part).wsetBatches = (partOf s part).wsetBatches := by
  rw [modSlot, ContractFamily.partOf_modPart _ hp]

theorem modSlot_only (part n : Nat) (f : ModelSlot → ModelSlot) (s : State) : OnlyChanges [.parts] s (modSlot part n f s) :=
  (within_modSlot (Covers.self _) (Within.refl _ s)).frame

theorem parts_length_modSlot (part n : Nat) (f : ModelSlot → ModelSlot) (s : State) :
    (modSlot part n f s).parts.length = s.parts.length :=
  List.length_modify _ _ _

/-- A generation's pins are those of the open batches. -/
theorem pinCount_of_pins {q q' : Partition} (hq : q.wsetBatches = q'.wsetBatches) (slot g : Nat) :
    pinCount q slot g = pinCount q' slot g := by
  rw [pinCount, pinCount, hq]

/-! ## A slot is settled (R379) -/

/-- A generation stays when its slot is settled: it is staged or held. -/
def stays (q : Partition) (slot : Nat) (x : Generation) : Bool := x.phase == .staged || genHeld q slot x

/-- A slot with the generations that stay. -/
def keptSlot (q : Partition) (slot : Nat) (m : ModelSlot) : ModelSlot := { m with gens := m.gens.filter (stays q slot) }

/-- The generations of a slot that are neither staged nor held. -/
def goneGens (q : Partition) (slot : Nat) : List Generation :=
  (slotOf q slot).gens.filter (fun g => g.phase != .staged && !genHeld q slot g)

/-- A slot without the generations that are gone. -/
def withoutGone (q : Partition) (slot : Nat) (m : ModelSlot) : ModelSlot :=
  { m with gens := m.gens.filter (fun g => !(goneGens q slot).contains g) }

theorem withoutGone_slotOf (q : Partition) (slot : Nat) :
    withoutGone q slot (slotOf q slot) = keptSlot q slot (slotOf q slot) := by
  have hgens : (slotOf q slot).gens.filter (fun g => !(goneGens q slot).contains g)
      = (slotOf q slot).gens.filter (stays q slot) := by
    refine List.filter_congr fun x hx => ?_
    have hgone : (goneGens q slot).contains x = (x.phase != .staged && !genHeld q slot x) := by
      rw [Bool.eq_iff_iff, List.contains_iff_mem, goneGens, List.mem_filter]
      exact and_iff_right hx
    rw [hgone, stays, bne, Bool.not_and, Bool.not_not, Bool.not_not]
  rw [withoutGone, hgens, keptSlot]

/-- A slot that is settled loses what is gone, and the events change no partition. -/
theorem parts_settleSlot (part slot : Nat) (s : State) :
    (settleSlot part slot s).parts = (modSlot part slot (withoutGone (partOf s part) slot) s).parts := by
  have hraised (l : List Generation) (v : State) :
      (l.foldl (fun v g => raise1 { evPlain 0x0503 slot 0 g.num with part := part } v) v).parts = v.parts :=
    ScratchpadFamily.related_foldl (R := fun v u => u.parts = v.parts) (fun _ => rfl) (fun h h' => h'.trans h)
      (fun v g => (within_raised _ v).frame .parts (by decide)) l v
  exact hraised _ _

theorem slotOf_settleSlot_same (hp : part < s.parts.length) (slot : Nat) :
    slotOf (partOf (settleSlot part slot s) part) slot = keptSlot (partOf s part) slot (slotOf (partOf s part) slot) := by
  rw [partOf_of_parts (parts_settleSlot _ _ _), slotOf_modSlot_same hp, withoutGone_slotOf]

theorem slotOf_settleSlot_ne (hp : part < s.parts.length) (hj : j ≠ slot) :
    slotOf (partOf (settleSlot part slot s) part) j = slotOf (partOf s part) j := by
  rw [partOf_of_parts (parts_settleSlot _ _ _), slotOf_modSlot_ne hp _ hj]

theorem pins_settleSlot (hp : part < s.parts.length) (slot : Nat) :
    (partOf (settleSlot part slot s) part).wsetBatches = (partOf s part).wsetBatches := by
  rw [partOf_of_parts (parts_settleSlot _ _ _), pins_modSlot hp]

theorem parts_length_settleSlot (part slot : Nat) (s : State) :
    (settleSlot part slot s).parts.length = s.parts.length := by
  rw [parts_settleSlot, parts_length_modSlot]

theorem settleSlot_only (part slot : Nat) (s : State) :
    OnlyChanges [.parts, .host, .hostMem, .ev, .fw] s (settleSlot part slot s) :=
  (within_settleSlot ((Covers.self _).mono (by decide)) (Within.refl _ s)).frame

/-- A retired generation that stays is pinned. -/
theorem pinned_of_stays {q : Partition} (h : stays q slot x = true) (hx : x.phase = .retired) : 0 < pinCount q slot x.num := by
  simpa [stays, genHeld, hx] using h

/-- A slot is settled once it has been settled, whatever it held. -/
theorem settled_settleSlot (hp : part < s.parts.length) (slot : Nat) : SlotSettled part slot (settleSlot part slot s) := by
  intro x hx hphase
  rw [slotOf_settleSlot_same hp, keptSlot] at hx
  rw [pinCount_of_pins (pins_settleSlot hp slot)]
  exact pinned_of_stays (List.mem_filter.mp hx).2 hphase

/-- A slot that is settled stays so while another one is settled. -/
theorem settled_settleSlot_ne (hp : part < s.parts.length) (hj : j ≠ slot) (h : SlotSettled part j s) :
    SlotSettled part j (settleSlot part slot s) := by
  intro x hx hphase
  rw [slotOf_settleSlot_ne hp hj] at hx
  rw [pinCount_of_pins (pins_settleSlot hp slot)]
  exact h x hx hphase

theorem settled_settleSlot_of (hp : part < s.parts.length) (slot : Nat) (h : SlotSettled part j s) :
    SlotSettled part j (settleSlot part slot s) := by
  by_cases hj : j = slot
  · exact hj ▸ settled_settleSlot hp j
  · exact settled_settleSlot_ne hp hj h

/-- Of slots that are settled in turn each is settled at the end. -/
theorem settled_foldl (hp : part < s.parts.length) (l : List Nat) (h : j ∈ l ∨ SlotSettled part j s) :
    SlotSettled part j (l.foldl (fun s n => settleSlot part n s) s) := by
  induction l generalizing s with
  | nil => exact h.resolve_left List.not_mem_nil
  | cons n l ih =>
    refine ih (by rwa [parts_length_settleSlot]) ?_
    obtain hmem | hset := h
    · obtain rfl | hmem := List.mem_cons.mp hmem
      · exact .inr (settled_settleSlot hp j)
      · exact .inl hmem
    · exact .inr (settled_settleSlot_of hp n hset)

theorem pins_foldl_settleSlot (hp : part < s.parts.length) (l : List Nat) :
    (partOf (l.foldl (fun s n => settleSlot part n s) s) part).wsetBatches = (partOf s part).wsetBatches := by
  induction l generalizing s with
  | nil => rfl
  | cons n l ih => rw [List.foldl_cons, ih (by rwa [parts_length_settleSlot]), pins_settleSlot hp]

/-! ## The phases of generations (Table 13-8, R381, R382) -/

theorem mem_genIn {ph : GenPhase} (h : genIn m ph = some x) : x ∈ m.gens ∧ x.phase = ph :=
  ⟨List.mem_of_find?_eq_some h, by simpa using List.find?_some h⟩

/-- The number of the current generation, where there is one and each has that number. -/
theorem genNum_current (hnum : ∀ a, a ∈ m.gens → a.phase = .current → a.num = g)
    (hsome : ∃ a, a ∈ m.gens ∧ a.phase = .current) : genNum m .current = g := by
  rw [genNum]
  cases hgen : genIn m .current with
  | none =>
    obtain ⟨a, ha, hphase⟩ := hsome
    exact absurd (beq_iff_eq.mpr hphase) (List.find?_eq_none.mp hgen a ha)
  | some a =>
    obtain ⟨ha, hphase⟩ := mem_genIn hgen
    exact hnum a ha hphase

/-- A slot whose staged generation takes the place of the current one. -/
def switched (g : Nat) (m : ModelSlot) : ModelSlot := setPhase g .current (retireCurrent m)

/-- After a switch the current generations are those of the number that it names. -/
theorem num_of_switched {a : Generation} (ha : a ∈ (switched g m).gens) (hphase : a.phase = .current) : a.num = g := by
  obtain ⟨b, hb, rfl⟩ := List.mem_map.mp ha
  by_cases hnum : b.num = g
  · rwa [if_pos hnum]
  · rw [if_neg hnum] at hphase
    obtain ⟨x, -, rfl⟩ := List.mem_map.mp hb
    by_cases hx : x.phase = .current
    · rw [if_pos hx] at hphase
      exact absurd hphase nofun
    · rw [if_neg hx] at hphase
      exact absurd hphase hx

theorem current_of_switched (hx : x ∈ m.gens) (hnum : x.num = g) :
    ∃ a, a ∈ (switched g m).gens ∧ a.phase = .current := by
  have hretired : ∃ b, b ∈ (retireCurrent m).gens ∧ b.num = g := by
    refine ⟨_, List.mem_map_of_mem hx, ?_⟩
    split <;> exact hnum
  obtain ⟨b, hb, hbnum⟩ := hretired
  refine ⟨_, List.mem_map_of_mem hb, ?_⟩
  rw [if_pos hbnum]

/-- A current generation stays when its slot is settled. -/
theorem stays_current (h : x.phase = .current) (q : Partition) (slot : Nat) : stays q slot x = true := by
  simp [stays, genHeld, h]

/-- After a switch the slot's current generation has the number that it names, whatever is released. -/
theorem genNum_switched (hx : x ∈ m.gens) (hnum : x.num = g) (q : Partition) (slot : Nat) :
    genNum (keptSlot q slot (switched g m)) .current = g := by
  obtain ⟨a, ha, hphase⟩ := current_of_switched hx hnum
  exact genNum_current (fun b hb => num_of_switched (List.mem_filter.mp hb).1)
    ⟨a, List.mem_filter.mpr ⟨ha, stays_current hphase q slot⟩, hphase⟩

/-- No generation is current after the current one has been retired. -/
theorem genIn_retireCurrent (q : Partition) (slot : Nat) (m : ModelSlot) :
    genIn (keptSlot q slot (retireCurrent m)) .current = none := by
  refine List.find?_eq_none.mpr fun a ha => ?_
  obtain ⟨x, -, rfl⟩ := List.mem_map.mp (List.mem_filter.mp ha).1
  by_cases hx : x.phase = .current
  · rw [if_pos hx]
    exact Bool.false_ne_true
  · rw [if_neg hx]
    exact fun h => hx (beq_iff_eq.mp h)

/-! ## What the checks of a command say -/

/-- A payload that names a slot passes its form for one of the eight partitions, and the checks after it decide. -/
theorem slotForm_passes {len : Nat} {extra : Bool} {rest : List (Bool × Nat)}
    (h : firstFail (slotForm s len extra pay ++ rest) = stOk) : leAt pay 0 1 < 8 ∧ firstFail rest = stOk := by
  obtain ⟨-, h⟩ := ServiceFamily.firstFail_cons_ok h (by decide)
  obtain ⟨hform, h⟩ := ServiceFamily.firstFail_cons_ok h (by decide)
  simp only [Bool.or_eq_false_iff, Bool.not_eq_false'] at hform
  obtain ⟨⟨hpart, -⟩, -⟩ := hform
  exact ⟨EmbeddingFamily.part_lt_of_partExists hpart, h⟩

/-- WSET_STAGE passes the checks of its form for one of the eight partitions. -/
theorem stage_of_checks (h : firstFail (storeChecks 0x0504 pay s) = stOk) : leAt pay 0 1 < 8 := by
  obtain ⟨-, h⟩ := ServiceFamily.firstFail_cons_ok h (by decide)
  obtain ⟨hform, -⟩ := ServiceFamily.firstFail_cons_ok h (by decide)
  simp only [Bool.or_eq_false_iff, Bool.not_eq_false'] at hform
  obtain ⟨⟨⟨⟨⟨hpart, -⟩, -⟩, -⟩, -⟩, -⟩ := hform
  exact EmbeddingFamily.part_lt_of_partExists hpart

/-- WSET_SWITCH passes its checks where the slot has a staged generation of the number that it names. -/
theorem switch_of_checks (h : firstFail (storeChecks 0x0505 pay s) = stOk) : leAt pay 0 1 < 8
    ∧ ∃ x, x ∈ (slotOf (partOf s (leAt pay 0 1)) (leAt pay 1 1)).gens ∧ x.num = leAt pay 4 4 := by
  obtain ⟨hpart, h⟩ := slotForm_passes h
  obtain ⟨hgen, -⟩ := ServiceFamily.firstFail_cons_ok h (by decide)
  obtain ⟨hsome, hnum⟩ := Bool.or_eq_false_iff.mp hgen
  obtain ⟨x, hx⟩ := Option.isSome_iff_exists.mp (Option.isNone_eq_false_iff.mp hsome)
  have hnum := bne_eq_false_iff_eq.mp hnum
  rw [genNum, hx] at hnum
  exact ⟨hpart, x, (mem_genIn hx).1, hnum⟩

/-- WSET_BATCH_OPEN passes its checks for one of the eight partitions, where a handle is free. -/
theorem batchOpen_of_checks (h : firstFail (storeChecks 0x0507 pay s) = stOk) :
    leAt pay 0 1 < 8 ∧ ∃ b, lowestFree 1024 (partOf s (leAt pay 0 1)).wsetBatches = some b := by
  obtain ⟨-, h⟩ := ServiceFamily.firstFail_cons_ok h (by decide)
  obtain ⟨hform, h⟩ := ServiceFamily.firstFail_cons_ok h (by decide)
  obtain ⟨hfree, -⟩ := ServiceFamily.firstFail_cons_ok h (by decide)
  simp only [Bool.or_eq_false_iff, Bool.not_eq_false'] at hform
  obtain ⟨hpart, -⟩ := hform
  exact ⟨EmbeddingFamily.part_lt_of_partExists hpart,
    Option.isSome_iff_exists.mp (Option.isNone_eq_false_iff.mp hfree)⟩

/-- WSET_BATCH_CLOSE passes its checks for one of the eight partitions. -/
theorem batchClose_of_checks (h : firstFail (storeChecks 0x0508 pay s) = stOk) : leAt pay 0 1 < 8 := by
  obtain ⟨-, h⟩ := ServiceFamily.firstFail_cons_ok h (by decide)
  obtain ⟨hform, -⟩ := ServiceFamily.firstFail_cons_ok h (by decide)
  simp only [Bool.or_eq_false_iff, Bool.not_eq_false'] at hform
  obtain ⟨⟨⟨hpart, -⟩, -⟩, -⟩ := hform
  exact EmbeddingFamily.part_lt_of_partExists hpart

/-! ## The commands (R380 to R385) -/

/-- The regions that a WSET_STAGE reads, as bytes. -/
def stageRaw (pay : List Byte) (s : State) : List (List Byte) :=
  (List.range (leAt pay 2 2)).map (fun i => hostRead s (leAt pay 8 8 + 32 * i) 32)

/-- The regions that a WSET_STAGE reads. -/
def stageRegions (pay : List Byte) (s : State) : List Region := (stageRaw pay s).map regionOf

/-- What a WSET_STAGE checks of the regions that it has read, in a state of its partition. -/
def stageChecks (pay : List Byte) (s : State) (q : Partition) : List (Bool × Nat) :=
  [(!(stageRaw pay s).all (regionOk s) || listOverlaps (stageRegions pay s), stBadField),
   ((stageRegions pay s).any (fun r => siteAbsent s (regionSite r)), stUnitAbsent),
   ((stageRegions pay s).any (fun r => ownerOf s (regionSite r) != leAt pay 0 1), stDenied),
   ((genIn (slotOf q (leAt pay 1 1)) .staged).isSome, stBusy),
   (decide (4096 < (partRegions q).length + leAt pay 2 2), stNoMemory)]

/-- A slot with a generation staged. -/
def stagedSlot (rs : List Region) (m : ModelSlot) : ModelSlot :=
  { gens := m.gens ++ [⟨m.next, .staged, rs⟩], next := nextGen m.next }

theorem exec_wsetStage (h : Allowed 0x0504 (storeChecks 0x0504) c pay s)
    (hhost : hostAnswer (takeCmd c s) (leAt pay 8 8) (32 * leAt pay 2 2) = none) :
    exec (.wsetStage c) s = .next
      (if firstFail (stageChecks pay (takeCmd c s) (partOf s (leAt pay 0 1))) = stOk then
        complete c stOk (slotOf (partOf s (leAt pay 0 1)) (leAt pay 1 1)).next
          (modSlot (leAt pay 0 1) (leAt pay 1 1) (stagedSlot (stageRegions pay (takeCmd c s))) (takeCmd c s))
      else complete c (firstFail (stageChecks pay (takeCmd c s) (partOf s (leAt pay 0 1)))) 0 (takeCmd c s)) := by
  refine (runRow_accepted h.1 doWsetStage).trans (congrArg _ ?_)
  rw [← partOf_takeCmd c s (leAt pay 0 1), doWsetStage]
  refine (FloorPlanFamily.checked_pass h.2).trans ?_
  rw [hhost]
  exact checked_eq _ _ _ _

theorem exec_wsetSwitch (h : Allowed 0x0505 (storeChecks 0x0505) c pay s) :
    exec (.wsetSwitch c) s = .next (complete c stOk (genNum (slotOf (partOf s (leAt pay 0 1)) (leAt pay 1 1)) .current)
      (settleSlot (leAt pay 0 1) (leAt pay 1 1)
        (modSlot (leAt pay 0 1) (leAt pay 1 1) (switched (leAt pay 4 4)) (takeCmd c s)))) := by
  refine (runRow_accepted h.1 doWsetSwitch).trans (congrArg _ ?_)
  rw [← partOf_takeCmd c s (leAt pay 0 1), doWsetSwitch]
  exact FloorPlanFamily.checked_pass h.2

/-- The two forms of WSET_DISCARD run as one command. -/
theorem runRow_wsetDiscard (h : Allowed 0x0506 (storeChecks 0x0506) c pay s) :
    runRow c 0x0506 doWsetDiscard s = .next (complete c stOk 0
      (if bitAt (leAt pay 2 1) 0 then settleSlot (leAt pay 0 1) (leAt pay 1 1)
        (modSlot (leAt pay 0 1) (leAt pay 1 1) retireCurrent (takeCmd c s))
      else dropStaged (leAt pay 0 1) (leAt pay 1 1) (takeCmd c s))) := by
  refine (runRow_accepted h.1 doWsetDiscard).trans (congrArg _ ?_)
  rw [doWsetDiscard]
  exact FloorPlanFamily.checked_pass h.2

/-- The generations that a batch of a partition pins, by slot. -/
def pinsOf (q : Partition) : List Nat := (List.range 64).map (fun n => genNum (slotOf q n) .current)

theorem pinsOut_length (q : Partition) : ((pinsOf q).flatMap (natLe 4)).length = 256 := by
  simp only [pinsOf, List.length_flatMap, natLe_length, List.map_const', List.length_map, List.length_range,
    List.sum_replicate, smul_eq_mul]

/-- A batch with pins stands under a handle. -/
def wsetBatchOpened (part b : Nat) (pins : List Nat) (s : State) : State :=
  modPart part (fun q => { q with wsetBatches := mapPut q.wsetBatches b pins }) s

/-- A batch is gone. -/
def wsetBatchClosed (part b : Nat) (s : State) : State :=
  modPart part (fun q => { q with wsetBatches := mapDel q.wsetBatches b }) s

theorem exec_wsetBatchOpen (h : Allowed 0x0507 (storeChecks 0x0507) c pay s) {b : Nat}
    (hb : lowestFree 1024 (partOf s (leAt pay 0 1)).wsetBatches = some b) :
    exec (.wsetBatchOpen c) s = .next (completeWithBuf c (leAt pay 8 8)
      ((pinsOf (partOf s (leAt pay 0 1))).flatMap (natLe 4)) b
      (wsetBatchOpened (leAt pay 0 1) b (pinsOf (partOf s (leAt pay 0 1))) (takeCmd c s))) := by
  refine (runRow_accepted h.1 doWsetBatchOpen).trans (congrArg _ ?_)
  rw [← partOf_takeCmd c s (leAt pay 0 1)] at hb ⊢
  rw [doWsetBatchOpen]
  refine (FloorPlanFamily.checked_pass h.2).trans ?_
  rw [hb]
  rfl

theorem exec_wsetBatchClose (h : Allowed 0x0508 (storeChecks 0x0508) c pay s) :
    exec (.wsetBatchClose c) s = .next (complete c stOk 0
      (settleSlots (leAt pay 0 1) (wsetBatchClosed (leAt pay 0 1) (leAt pay 2 2) (takeCmd c s)))) := by
  refine (runRow_accepted h.1 doWsetBatchClose).trans (congrArg _ ?_)
  rw [doWsetBatchClose]
  exact FloorPlanFamily.checked_pass h.2

/-- What a WSET_GET of a generation answers with. -/
def genOut (q : Partition) (slot : Nat) (x : Generation) : List Byte :=
  natLe 4 x.num ++ natLe 1 (phaseCode x.phase) ++ copies 1 0 ++ natLe 2 (pinCount q slot x.num)
    ++ natLe 2 x.regions.length ++ copies 22 0 ++ x.regions.flatMap regionBytes

theorem genOut_length (q : Partition) (slot : Nat) (x : Generation) :
    (genOut q slot x).length = 32 + 32 * x.regions.length := by
  have hregion (r : Region) : (regionBytes r).length = 32 := by
    simp only [regionBytes, List.length_append, natLe_length, copies_length]
  simp only [genOut, List.length_append, natLe_length, copies_length, List.length_flatMap, hregion, List.map_const',
    List.sum_replicate, smul_eq_mul, Nat.mul_comm]

theorem exec_wsetGet (h : Allowed 0x0509 (storeChecks 0x0509) c pay s)
    (hx : getGen (slotOf (partOf s (leAt pay 0 1)) (leAt pay 1 1)) (leAt pay 4 4) = some x) :
    exec (.wsetGet c) s = .next (completeWithBuf c (leAt pay 0x10 8)
      (genOut (partOf s (leAt pay 0 1)) (leAt pay 1 1) x) 0 (takeCmd c s)) := by
  refine (runRow_accepted h.1 doWsetGet).trans (congrArg _ ?_)
  rw [← partOf_takeCmd c s (leAt pay 0 1)] at hx ⊢
  rw [doWsetGet]
  refine (FloorPlanFamily.checked_pass h.2).trans ?_
  rw [hx]
  rfl

/-- A command that answers in a buffer that takes the answer, with a detail. -/
theorem completeWithBuf_detail {a d : Nat} {bs : List Byte} {k : Taken} (hk : takenOf c s = some k)
    (h : BufferAnswers c a bs.length s) :
    ∃ t, completeWithBuf c a bs d s = complete c stOk d t ∧ OutputIs c a bs t
      ∧ OnlyChanges [.hostMem, .inProgress] s t := by
  obtain ⟨hst, hout, honly⟩ := writeHostBuf_answers hk h
  exact ⟨_, by rw [completeWithBuf, hst, if_pos rfl], hout, honly⟩

theorem settleSlots_only (part : Nat) (s : State) :
    OnlyChanges [.parts, .host, .hostMem, .ev, .fw] s (settleSlots part s) :=
  (within_settleSlots ((Covers.self _).mono (by decide)) (Within.refl _ s)).frame

/-! ## Settlement of O43 -/

/-- Settles O43: each command makes the one change of its row, and a slot that is settled keeps what is staged, current or
pinned. -/
theorem weightSetsTurnOver : Obligations.WeightSetsTurnOver := by
  unfold Obligations.WeightSetsTurnOver
  intro c pay s hkept
  have hparts : (takeCmd c s).parts.length = 8 := (takeCmd_kept hkept).parts
  refine ⟨fun h hhost => ⟨fun hst => ?refused, fun hst => ?staged⟩, fun h => ?switch,
    fun h => ⟨fun hop => ?discard, fun hop => ?retire⟩, fun h hbuf => ?opened, fun h => ?closed,
    fun h x hx hbuf => ?get⟩
  case refused => exact (exec_wsetStage h hhost).trans (congrArg _ (if_neg hst))
  case staged =>
    have hp : leAt pay 0 1 < (takeCmd c s).parts.length := hparts ▸ stage_of_checks h.2
    refine ⟨_, (exec_wsetStage h hhost).trans (congrArg _ (if_pos hst)), ?_, fun j hj => ?_, modSlot_only _ _ _ _⟩
    · rw [slotOf_modSlot_same hp, partOf_takeCmd]
      rfl
    · rw [slotOf_modSlot_ne hp _ hj, partOf_takeCmd]
  case switch =>
    obtain ⟨hpart, x, hx, hnum⟩ := switch_of_checks h.2
    have hp : leAt pay 0 1 < (takeCmd c s).parts.length := hparts ▸ hpart
    have hp' := (parts_length_modSlot (leAt pay 0 1) (leAt pay 1 1) (switched (leAt pay 4 4)) (takeCmd c s)).symm ▸ hp
    refine ⟨_, exec_wsetSwitch h, ?_, settled_settleSlot hp' _, fun j hj => ?_,
      only_trans (only_mono (modSlot_only _ _ _ _) (by decide)) (settleSlot_only _ _ _)⟩
    · rw [slotOf_settleSlot_same hp', slotOf_modSlot_same hp]
      exact genNum_switched hx hnum _ _
    · rw [slotOf_settleSlot_ne hp' hj, slotOf_modSlot_ne hp _ hj, partOf_takeCmd]
  case discard =>
    have hp : leAt pay 0 1 < (takeCmd c s).parts.length := hparts ▸ (slotForm_passes h.2).1
    have hrun := runRow_wsetDiscard h
    rw [hop, if_neg (by decide), dropStaged, partOf_takeCmd] at hrun
    refine ⟨_, hrun, ?_, modSlot_only _ _ _ _⟩
    rw [slotOf_modSlot_same hp, partOf_takeCmd]
  case retire =>
    have hp : leAt pay 0 1 < (takeCmd c s).parts.length := hparts ▸ (slotForm_passes h.2).1
    have hp' := (parts_length_modSlot (leAt pay 0 1) (leAt pay 1 1) retireCurrent (takeCmd c s)).symm ▸ hp
    have hrun := runRow_wsetDiscard h
    rw [hop, if_pos (by decide)] at hrun
    refine ⟨_, hrun, ?_, settled_settleSlot hp' _,
      only_trans (only_mono (modSlot_only _ _ _ _) (by decide)) (settleSlot_only _ _ _)⟩
    rw [slotOf_settleSlot_same hp', slotOf_modSlot_same hp]
    exact genIn_retireCurrent _ _ _
  case opened =>
    obtain ⟨hpart, b, hb⟩ := batchOpen_of_checks h.2
    rw [partOf_takeCmd] at hb
    obtain ⟨-, hfree, hbelow⟩ := EmbeddingFamily.lowestFree_some hb
    obtain ⟨-, htake, -⟩ := h.1
    obtain ⟨_, htaken⟩ := takenOf_takeCmd htake
    rw [← pinsOut_length (partOf s (leAt pay 0 1))] at hbuf
    obtain ⟨v, hv, hout, honly⟩ := completeWithBuf_detail (d := b)
      (s := wsetBatchOpened (leAt pay 0 1) b (pinsOf (partOf s (leAt pay 0 1))) (takeCmd c s)) htaken hbuf
    refine ⟨b, v, (exec_wsetBatchOpen h hb).trans (congrArg _ hv), hfree, hbelow, ?_, ?_,
      only_trans (only_mono (EmbeddingFamily.modPart_only _ _ _) (by decide)) (only_mono honly (by decide))⟩
    · rw [partOf_of_parts (honly .parts (by decide)), wsetBatchOpened, ContractFamily.partOf_modPart _ (hparts ▸ hpart),
        mapGet?_mapPut_same, pinsOf]
    · rwa [pinsOf, List.flatMap_map] at hout
  case closed =>
    have hp : leAt pay 0 1 < (takeCmd c s).parts.length := hparts ▸ batchClose_of_checks h.2
    have hp' : leAt pay 0 1 < (wsetBatchClosed (leAt pay 0 1) (leAt pay 2 2) (takeCmd c s)).parts.length :=
      hp.trans_eq (List.length_modify _ _ _).symm
    refine ⟨_, exec_wsetBatchClose h, ?_, fun n hn => settled_foldl hp' _ (.inl (List.mem_range.mpr hn)),
      only_trans (only_mono (EmbeddingFamily.modPart_only _ _ _) (by decide)) (settleSlots_only _ _)⟩
    rw [settleSlots, pins_foldl_settleSlot hp', wsetBatchClosed, ContractFamily.partOf_modPart _ hp, mapGet?_mapDel_same]
  case get =>
    obtain ⟨-, htake, -⟩ := h.1
    obtain ⟨_, htaken⟩ := takenOf_takeCmd htake
    rw [← genOut_length (partOf s (leAt pay 0 1)) (leAt pay 1 1) x] at hbuf
    obtain ⟨v, hv, hout, honly⟩ := SequencerFamily.completeWithBuf_answers htaken hbuf
    exact ⟨v, (exec_wsetGet h hx).trans (congrArg _ hv), hout, honly⟩

end Sys2Proof.WeightFamily

namespace Sys2Proof.WeightFamily

open Machine Laws BayFamily

variable {s u : State} {n p : Nat} {y : Purlin}

/-! ## Purlins (Table 13-9) -/

/-- A partition has a purlin. -/
structure HasPurlin (p n : Nat) (y : Purlin) (s : State) : Prop where
  inRange : p < s.parts.length
  found : (partOf s p).purlins[n]? = some y

theorem HasPurlin.of_parts (h : HasPurlin p n y s) (hu : u.parts = s.parts) : HasPurlin p n y u :=
  ⟨hu ▸ h.inRange, partOf_of_parts hu p ▸ h.found⟩

theorem HasPurlin.purlinOf (h : HasPurlin p n y s) : purlinOf s p n = y := by
  rw [Machine.purlinOf, List.getD_eq_getElem?_getD, h.found, Option.getD_some]

theorem partOf_modPurlin (h : p < s.parts.length) (n : Nat) (f : Purlin → Purlin) :
    partOf (modPurlin p n f s) p = { partOf s p with purlins := modAt (partOf s p).purlins n f } :=
  ContractFamily.partOf_modPart _ h

theorem HasPurlin.modPurlin (h : HasPurlin p n y s) (f : Purlin → Purlin) : HasPurlin p n (f y) (modPurlin p n f s) := by
  obtain ⟨hp, hy⟩ := h
  refine ⟨hp.trans_eq (List.length_modify _ _ _).symm, ?_⟩
  rw [partOf_modPurlin hp, modAt, List.getElem?_modify_eq, hy]
  rfl

theorem modPurlin_only (p n : Nat) (f : Purlin → Purlin) (s : State) : OnlyChanges [.parts] s (modPurlin p n f s) :=
  (within_modPurlin (Covers.self _) (Within.refl _ s)).frame

/-! ### What a purlin reads of its partition -/

theorem segmentRegion_of_parts (h : u.parts = s.parts) (p : Nat) (y : Purlin) (region off len : Nat) :
    segmentRegion u p y region off len = segmentRegion s p y region off len := by
  rw [segmentRegion, partOf_of_parts h, segmentRegion]

theorem segmentRegion_modPurlin (h : p < s.parts.length) (n : Nat) (f : Purlin → Purlin) (y : Purlin) (region off len : Nat) :
    segmentRegion (modPurlin p n f s) p y region off len = segmentRegion s p y region off len := by
  rw [segmentRegion, partOf_modPurlin h]
  rfl

theorem purlinEgress_of_parts (h : u.parts = s.parts) (p : Nat) (y : Purlin) :
    purlinEgress u p y = purlinEgress s p y := by
  rw [purlinEgress, partOf_of_parts h, purlinEgress]

theorem purlinEgress_modPurlin (h : p < s.parts.length) (n : Nat) (f : Purlin → Purlin) (y : Purlin) :
    purlinEgress (modPurlin p n f s) p y = purlinEgress s p y := by
  rw [purlinEgress, partOf_modPurlin h]
  rfl

theorem purlinRoom_modPurlin (h : p < s.parts.length) (n : Nat) (f : Purlin → Purlin) (y : Purlin) :
    purlinRoom (modPurlin p n f s) p y = purlinRoom s p y := by
  rw [purlinRoom, purlinEgress_modPurlin h]
  rfl

/-! ## What a link sends does not depend on the partitions (R393 to R396) -/

theorem linkOf_modPart (l : Nat) (f : Partition → Partition) (s : State) : linkOf (modPart p f s) l = linkOf s l := rfl

theorem modLink_modPart (l : Nat) (k : Link → Link) (f : Partition → Partition) (s : State) :
    modLink l k (modPart p f s) = modPart p f (modLink l k s) := rfl

theorem sendFlit_modPart (l kind seq first : Nat) (payload : List Byte) (f : Partition → Partition) (s : State) :
    sendFlit l kind seq first payload (modPart p f s) = modPart p f (sendFlit l kind seq first payload s) := by
  simp only [sendFlit, linkOf_modPart, modLink_modPart]
  rfl

theorem sendData_modPart (l : Nat) (q : SentFlit) (f : Partition → Partition) (s : State) :
    sendData l q (modPart p f s) = modPart p f (sendData l q s) := by
  rw [sendData, modLink_modPart, sendFlit_modPart, sendData]

theorem sendFlits_modPart (l k : Nat) (f : Partition → Partition) (s : State) :
    sendFlits l k (modPart p f s) = modPart p f (sendFlits l k s) := by
  induction k generalizing s with
  | zero => rfl
  | succ k ih =>
    simp only [sendFlits, linkOf_modPart, modLink_modPart, sendData_modPart, ih]
    exact (apply_ite (modPart p f) _ _ _).symm

theorem sendWaiting_modPart (l : Nat) (qs : List LinkPacket) (a b : Bool) (f : Partition → Partition) (s : State) :
    sendWaiting l qs a b (modPart p f s) = ((sendWaiting l qs a b s).1, modPart p f (sendWaiting l qs a b s).2) := by
  induction qs generalizing a b s with
  | nil => rfl
  | cons q qs ih =>
    have hcan : canSend (modPart p f s) (linkOf (modPart p f s) l) q = canSend s (linkOf s l) q := rfl
    have hput : putOnLink l q (modPart p f s) = modPart p f (putOnLink l q s) := rfl
    simp only [sendWaiting, hcan, hput, ih]
    by_cases hsend : (!(if onResponse q = true then b else a) && canSend s (linkOf s l) q) = true
    · rw [if_pos hsend, if_pos hsend]
    · rw [if_neg hsend, if_neg hsend]

theorem flushLink_modPart (l : Nat) (f : Partition → Partition) (s : State) :
    flushLink l (modPart p f s) = modPart p f (flushLink l s) := by
  have hup (s : State) : linkUp (modPart p f s) l = linkUp s l := rfl
  simp only [flushLink, linkOf_modPart, hup, modLink_modPart, sendWaiting_modPart, sendFlits_modPart]
  exact (apply_ite (modPart p f) _ _ _).symm

theorem sendOnLink_modPart (l : Nat) (q : LinkPacket) (f : Partition → Partition) (s : State) :
    sendOnLink l q (modPart p f s) = modPart p f (sendOnLink l q s) :=
  flushLink_modPart l f (modLink l (fun x => { x with egress := x.egress ++ [q] }) s)

/-- A segment leaves alike whatever the purlins of its partition do. -/
theorem sendSegment_modPurlin (h : p < s.parts.length) (n : Nat) (f : Purlin → Purlin) (y : Purlin) (g : Segment) :
    sendSegment p y g (modPurlin p n f s) = modPurlin p n f (sendSegment p y g s) := by
  have hpart := partOf_modPurlin h n f
  have hpanel : (modPurlin p n f s).links = s.links := rfl
  simp only [sendSegment, purlinEgress_modPurlin h, hpart, hpanel]
  exact sendOnLink_modPart _ _ _ _

end Sys2Proof.WeightFamily

namespace Sys2Proof.WeightFamily

open Machine Laws BayFamily

variable {c : Cmd} {pay : List Byte} {s t : State} {n p fuel time : Nat} {y : Purlin} {r : PurlinRun} {x : PurlinSrc}
  {g : Segment} {reg : Region} {part : Fin 8}

/-! ## The ends of a transfer (R390) -/

theorem HasPurlin.endPurlinCmd (h : HasPurlin p n y s) (u : Purlin) (st : Nat) : HasPurlin p n y (endPurlinCmd u st s) :=
  h.of_parts ((within_endPurlinCmd (Covers.self _) (Within.refl _ s)).frame .parts (by decide))

theorem HasPurlin.raise1 (h : HasPurlin p n y s) (e : EventRec) : HasPurlin p n y (raise1 e s) :=
  h.of_parts ((within_raised e s).frame .parts (by decide))

theorem HasPurlin.dropInstall (h : HasPurlin p n y s) : HasPurlin p n y (dropInstall p n s) :=
  h.of_parts ((within_dropInstall (Covers.self _) (Within.refl _ s)).frame .parts (by decide))

theorem HasPurlin.sendSegment (h : HasPurlin p n y s) (u : Purlin) (g : Segment) : HasPurlin p n y (sendSegment p u g s) :=
  h.of_parts ((within_sendSegment (Covers.self _) (Within.refl _ s)).frame .parts (by decide))

/-- A transfer that stops leaves its purlin idle. -/
theorem HasPurlin.purlinStop (h : HasPurlin p n y s) (seq : Nat) : HasPurlin p n (purlinIdle y) (purlinStop p n seq s) := by
  unfold Machine.purlinStop
  refine ((HasPurlin.modPurlin ?_ _).dropInstall).endPurlinCmd _ _
  split
  · exact (h.raise1 _).sendSegment _ _
  · exact h.raise1 _

/-- A transfer that is done completes the command of its head, and its purlin is idle. -/
theorem purlinDone_completes (h : HasPurlin p n y s) (hrun : y.run = some r) (hcmd : r.cmd = some c) :
    ∃ t, purlinDone p n s = complete c stOk 0 t ∧ HasPurlin p n (purlinIdle y) t := by
  refine ⟨modPurlin p n purlinIdle (raise1 { evPlain 0x0504 n y.transfer r.bytes with part := p } s), ?_,
    (h.raise1 _).modPurlin _⟩
  rw [purlinDone, h.purlinOf, endPurlinCmd, hrun]
  dsimp only
  rw [hcmd]

/-! ## Segments are written (R389) -/

/-- A segment that a purlin has written is counted. -/
def segmentCounted (g : Segment) (y : Purlin) : Purlin :=
  { y with run := y.run.map (fun r => { r with seq := r.seq + 1, bytes := r.bytes + g.len }) }

/-- The write of a segment into a region. -/
def stackWrite (reg : Region) (g : Segment) (s : State) : Nat × State :=
  writeNow (kingSite s) 0 true (stackAddr reg.unit (reg.start + g.offset.toNat)) g.payload s

theorem HasPurlin.stackWrite (h : HasPurlin p n y s) (reg : Region) (g : Segment) : HasPurlin p n y (stackWrite reg g s).2 :=
  h.of_parts ((within_writeNow (Covers.self _) (Within.refl _ s)).frame .parts (by decide))

theorem writeSegment_stack (h : HasPurlin p n y s) (htarget : y.target = 0)
    (hreg : segmentRegion s p y g.region.toNat g.offset.toNat g.len = some reg) :
    writeSegment p n g s = if (stackWrite reg g s).1 = notYet then none
      else some ((stackWrite reg g s).1 == 0, modPurlin p n (segmentCounted g) (stackWrite reg g s).2) := by
  rw [writeSegment, h.purlinOf]
  dsimp only
  rw [if_pos htarget, hreg]
  rfl

/-- The bytes of an image so far, with those of a segment. -/
def imageGrown (image : List Byte) (y : Purlin) : Purlin := { y with run := y.run.map (fun r => { r with image := image }) }

theorem writeSegment_image (h : HasPurlin p n y s) (htarget : y.target = 1) (hrun : y.run = some r) (hregion : g.region = 0)
    (hoff : g.offset.toNat = r.image.length) (hkind : g.kind = 0) :
    writeSegment p n g s
      = some (true, modPurlin p n (imageGrown (r.image ++ g.payload)) (modPurlin p n (segmentCounted g) s)) := by
  rw [writeSegment, h.purlinOf]
  dsimp only
  rw [if_neg (by rw [htarget]; decide), hrun]
  dsimp only
  rw [if_neg (by rw [hregion, hoff]; simp), if_pos hkind]
  rfl

/-! ## SEGMENT_RECEIVE (R389, R390) -/

theorem exec_segmentReceive_takes (h : takeSegment part.val g (atTime time s) = some t) :
    exec (.segmentReceive part g time) s = .next t := by
  show execSegmentReceive part g time s = _
  rw [execSegmentReceive, h, Option.getD_some]

theorem exec_segmentReceive_waits (h : takeSegment part.val g (atTime time s) = none) :
    exec (.segmentReceive part g time) s = .next s := by
  show execSegmentReceive part g time s = _
  rw [execSegmentReceive, h, Option.getD_none]

theorem takeSegment_nowhere (hn : 8 ≤ g.purlin.toNat) (p : Nat) (s : State) :
    takeSegment p g s = some (modPart p (fun q => { q with strays := q.strays + 1 }) s) := if_pos hn

theorem takeSegment_other (h : HasPurlin p g.purlin.toNat y s) (hn : g.purlin.toNat < 8)
    (hother : (y.role ≠ 2 ∧ y.role ≠ 3) ∨ y.transfer ≠ g.transfer.toNat) :
    takeSegment p g s = some (modPurlin p g.purlin.toNat (fun u => { u with strays := u.strays + 1 }) s) := by
  unfold takeSegment
  simp only [h.purlinOf, if_neg (Nat.not_le.mpr hn), bne_iff_ne, Bool.or_eq_true, decide_eq_true_eq, if_pos hother]

/-- Whether a tail with a transfer under way stops it at a segment: one to abort it, or one out of turn, of no form of
Table 13-10, or outside the region that it names. -/
def outOfTurn (p : Nat) (y : Purlin) (r : PurlinRun) (g : Segment) (s : State) : Bool :=
  decide (g.kind = 2) || decide (g.seq.toNat ≠ r.seq) || !segmentOk g
    || !(y.target != 0 || (segmentRegion s p y g.region.toNat g.offset.toNat g.len).isSome)

theorem outOfTurn_of_seq (h : g.kind = 2 ∨ g.seq.toNat ≠ r.seq) (p : Nat) (y : Purlin) (s : State) :
    outOfTurn p y r g s = true := by
  obtain h | h := h
  · rw [outOfTurn, decide_eq_true h]
    rfl
  · rw [outOfTurn, decide_eq_true h, Bool.or_true]
    rfl

theorem inTurn_of_region (hkind : g.kind = 0) (hseq : g.seq.toNat = r.seq) (hok : segmentOk g = true)
    (hreg : segmentRegion s p y g.region.toNat g.offset.toNat g.len = some reg) : outOfTurn p y r g s = false := by
  simp [outOfTurn, hkind, hseq, hok, hreg]

theorem inTurn_of_image (hkind : g.kind = 0) (hseq : g.seq.toNat = r.seq) (hok : segmentOk g = true)
    (htarget : y.target = 1) : outOfTurn p y r g s = false := by
  simp [outOfTurn, hkind, hseq, hok, htarget]

/-- A segment of the transfer that a tail has under way. -/
structure TailTakes (p : Nat) (y : Purlin) (r : PurlinRun) (g : Segment) (s : State) : Prop where
  has : HasPurlin p g.purlin.toNat y s
  lt : g.purlin.toNat < 8
  role : y.role = 3
  transfer : y.transfer = g.transfer.toNat
  run : y.run = some r

/-- A tail with a transfer under way stops it at a segment out of turn, and writes any other. -/
theorem TailTakes.takeSegment (h : TailTakes p y r g s) :
    takeSegment p g s = if outOfTurn p y r g s then some (purlinStop p g.purlin.toNat g.seq.toNat s)
      else (writeSegment p g.purlin.toNat g s).map (fun w =>
        if w.1 then afterSegment p g.purlin.toNat g w.2 else purlinStop p g.purlin.toNat g.seq.toNat w.2) := by
  have hmine : ¬ ((y.role ≠ 2 ∧ y.role ≠ 3) || y.transfer != g.transfer.toNat) = true := by
    simp [h.role, h.transfer]
  have hsends : (y.role == 2) = false := by rw [h.role]; rfl
  have hrole2 : y.role ≠ 2 := beq_eq_false_iff_ne.mp hsends
  unfold Machine.takeSegment
  simp only [h.has.purlinOf, if_neg (Nat.not_le.mpr h.lt), if_neg hmine, h.run, Option.isSome_some, if_true, hsends,
    Bool.false_and, Bool.or_false, Bool.false_eq_true, if_false, if_neg hrole2]
  rfl

theorem TailTakes.takeSegment_stops (h : TailTakes p y r g s) (hturn : outOfTurn p y r g s = true) :
    Machine.takeSegment p g s = some (purlinStop p g.purlin.toNat g.seq.toNat s) := by
  rw [h.takeSegment, hturn, if_pos rfl]

/-- A segment that is not the last of its transfer leaves the transfer under way. -/
theorem afterSegment_more (hkind : g.kind = 0) (p n : Nat) (s : State) : afterSegment p n g s = s := by
  rw [afterSegment, hkind]
  rfl

/-- What a tail does with a segment into a region in turn: it leaves it waiting where the memory cannot take it yet. -/
theorem TailTakes.takeSegment_stack (h : TailTakes p y r g s) (hturn : outOfTurn p y r g s = false) (htarget : y.target = 0)
    (hreg : segmentRegion s p y g.region.toNat g.offset.toNat g.len = some reg) :
    Machine.takeSegment p g s = (if (stackWrite reg g s).1 = notYet then none
      else some ((stackWrite reg g s).1 == 0, modPurlin p g.purlin.toNat (segmentCounted g) (stackWrite reg g s).2)).map
        (fun w => if w.1 then afterSegment p g.purlin.toNat g w.2 else purlinStop p g.purlin.toNat g.seq.toNat w.2) := by
  rw [h.takeSegment, hturn, if_neg Bool.false_ne_true, writeSegment_stack h.has htarget hreg]

theorem TailTakes.takeSegment_waits (h : TailTakes p y r g s) (hturn : outOfTurn p y r g s = false) (htarget : y.target = 0)
    (hreg : segmentRegion s p y g.region.toNat g.offset.toNat g.len = some reg)
    (hwait : (stackWrite reg g s).1 = notYet) : Machine.takeSegment p g s = none := by
  rw [h.takeSegment_stack hturn htarget hreg, if_pos hwait, Option.map_none]

theorem TailTakes.takeSegment_written (h : TailTakes p y r g s) (hturn : outOfTurn p y r g s = false) (hkind : g.kind = 0)
    (htarget : y.target = 0) (hreg : segmentRegion s p y g.region.toNat g.offset.toNat g.len = some reg)
    (hdone : (stackWrite reg g s).1 = 0) : Machine.takeSegment p g s
      = some (modPurlin p g.purlin.toNat (segmentCounted g) (stackWrite reg g s).2) := by
  rw [h.takeSegment_stack hturn htarget hreg, hdone, if_neg (by decide), Option.map_some]
  exact congrArg some (afterSegment_more hkind _ _ _)

/-- A tail of an image takes a segment whose bytes follow those that it has. -/
theorem TailTakes.takeSegment_image (h : TailTakes p y r g s) (hturn : outOfTurn p y r g s = false) (hkind : g.kind = 0)
    (htarget : y.target = 1) (hregion : g.region = 0) (hoff : g.offset.toNat = r.image.length) :
    Machine.takeSegment p g s = some (modPurlin p g.purlin.toNat (imageGrown (r.image ++ g.payload))
      (modPurlin p g.purlin.toNat (segmentCounted g) s)) := by
  rw [h.takeSegment, hturn, if_neg Bool.false_ne_true, writeSegment_image h.has htarget h.run hregion hoff hkind,
    Option.map_some]
  exact congrArg some (afterSegment_more hkind _ _ _)

/-! ## PURLIN_SET (R387) -/

/-- A purlin that a PURLIN_SET configures. -/
def purlinConfigured (pay : List Byte) (y : Purlin) : Purlin :=
  if leAt pay 2 1 = 0 then purlinIdle y
  else ⟨leAt pay 2 1, leAt pay 3 1, leAt pay 4 1, leAt pay 6 2, leAt pay 8 4, leAt pay 0x10 4, none, y.strays⟩

theorem exec_purlinSet (h : Allowed 0x050A (storeChecks 0x050A) c pay s) :
    exec (.purlinSet c) s = .next (complete c stOk 0 (modPurlin (leAt pay 0 1) (leAt pay 1 1) (purlinConfigured pay)
      (endPurlinCmd (purlinOf (takeCmd c s) (leAt pay 0 1) (leAt pay 1 1)) stFault
        (dropInstall (leAt pay 0 1) (leAt pay 1 1) (takeCmd c s))))) := by
  refine (runRow_accepted h.1 doPurlinSet).trans (congrArg _ ?_)
  rw [doPurlinSet]
  exact FloorPlanFamily.checked_pass h.2

/-! ## Fields of a payload (R15) -/

theorem leNat_lt (bs : List Byte) : leNat bs < 256 ^ bs.length := by
  induction bs with
  | nil => exact Nat.one_pos
  | cons b bs ih =>
    rw [leNat, List.length_cons, Nat.pow_succ]
    have := b.isLt
    omega

/-- A field of `n` bytes is smaller than 256 to the power of `n`. -/
theorem leAt_lt (bs : List Byte) (off n : Nat) : leAt bs off n < 256 ^ n :=
  (leNat_lt _).trans_le (Nat.pow_le_pow_right (by decide) (List.length_take_le _ _))

/-! ## PURLIN_SEND (R388) -/

/-- What a PURLIN_SEND has its purlin send. -/
def sendSource (pay : List Byte) : PurlinSrc :=
  ⟨bitAt (leAt pay 2 1) 0, leAt pay 4 2, leAt pay 8 8, leAt pay 0x10 8, leAt pay 0x18 8⟩

/-- A purlin that begins to send for a command. -/
def sendBegun (c : Cmd) (x : PurlinSrc) (y : Purlin) : Purlin := { y with run := some ⟨0, 0, some c, some x, []⟩ }

theorem exec_purlinSend (h : Allowed 0x050B (storeChecks 0x050B) c pay s) :
    exec (.purlinSend c) s = .next (pumpPurlin (leAt pay 0 1) (leAt pay 1 1)
      (modPurlin (leAt pay 0 1) (leAt pay 1 1) (sendBegun c (sendSource pay)) (takeCmd c s))) := by
  refine (runRow_accepted h.1 doPurlinSend).trans (congrArg _ ?_)
  rw [doPurlinSend]
  exact FloorPlanFamily.checked_pass h.2

theorem pumpPurlin_begun (h : HasPurlin p n y s) (hrun : y.run = some r) (hsrc : r.src = some x) :
    pumpPurlin p n s = pumpSegments p n (x.len / 2048 + 2) s := by
  rw [pumpPurlin, h.purlinOf, hrun]
  dsimp only
  rw [hsrc]

/-- A head with bytes left sends one segment more. -/
theorem pumpSegments_step (h : HasPurlin p n y s) (hrun : y.run = some r) (hsrc : r.src = some x)
    (hmore : 2048 * r.seq < x.len) (hstep : headStep p n y r x s = some t) :
    pumpSegments p n (fuel + 1) s = pumpSegments p n fuel t := by
  rw [pumpSegments, h.purlinOf, hrun]
  dsimp only
  rw [hsrc]
  dsimp only
  rw [if_neg (Nat.not_le.mpr hmore), hstep]

/-- A head that has sent all its bytes into stacks is done once its link has taken them. -/
theorem pumpSegments_done (h : HasPurlin p n y s) (hrun : y.run = some r) (hsrc : r.src = some x)
    (hall : x.len ≤ 2048 * r.seq) (htarget : y.target = 0) (hroom : purlinRoom s p y = true) :
    pumpSegments p n (fuel + 1) s = purlinDone p n s := by
  rw [pumpSegments, h.purlinOf, hrun]
  dsimp only
  rw [hsrc]
  dsimp only
  rw [if_pos hall, htarget, hroom]
  rfl

/-- The one segment of a send of up to 2,048 bytes. -/
def onlySegment (n transfer : Nat) (x : PurlinSrc) (bs : List Byte) : Segment :=
  ⟨BitVec.ofNat 8 n, 1, BitVec.ofNat 16 transfer, x.len, BitVec.ofNat 16 x.region, 0, BitVec.ofNat 64 x.dst, bs⟩

theorem headSegment_only (h : x.len ≤ 2048) (n transfer : Nat) (bs : List Byte) :
    headSegment n transfer 0 x bs = onlySegment n transfer x bs := by
  simp [headSegment, onlySegment, Nat.min_eq_right h]

/-- The write of the bytes of a send's one segment into a region. -/
def onlyWrite (reg : Region) (x : PurlinSrc) (bs : List Byte) (s : State) : Nat × State :=
  writeNow (kingSite s) 0 true (stackAddr reg.unit (reg.start + x.dst)) bs s

/-- A head at the begin of a transfer of one segment into a stack, whose source answers with bytes and whose link and memory
take them. -/
structure SendsOnly (p n : Nat) (y : Purlin) (r : PurlinRun) (x : PurlinSrc) (reg : Region) (bs : List Byte) (s : State) :
    Prop where
  has : HasPurlin p n y s
  run : y.run = some r
  src : r.src = some x
  seq : r.seq = 0
  target : y.target = 0
  pos : 0 < x.len
  len : x.len ≤ 2048
  room : purlinRoom s p y = true
  link : purlinLinkOk s p y = true
  read : ∃ a, readSource p x.host x.src x.len s = (0, a, bs, s)
  regionField : (BitVec.ofNat 16 x.region).toNat = x.region
  dstField : (BitVec.ofNat 64 x.dst).toNat = x.dst
  region : segmentRegion s p y x.region x.dst x.len = some reg
  written : (onlyWrite reg x bs s).1 = 0

variable {bs : List Byte}

theorem SendsOnly.stackWrite (h : SendsOnly p n y r x reg bs s) :
    stackWrite reg (onlySegment n y.transfer x bs) s = onlyWrite reg x bs s := by
  rw [WeightFamily.stackWrite, onlySegment, h.dstField, onlyWrite]

theorem SendsOnly.segmentRegion (h : SendsOnly p n y r x reg bs s) :
    segmentRegion s p y (onlySegment n y.transfer x bs).region.toNat (onlySegment n y.transfer x bs).offset.toNat
      (onlySegment n y.transfer x bs).len = some reg := by
  rw [onlySegment, h.regionField, h.dstField, h.region]

/-- The one segment is written and sent. -/
theorem SendsOnly.headStep (h : SendsOnly p n y r x reg bs s) :
    headStep p n y r x s = some (sendSegment p y (onlySegment n y.transfer x bs)
      (modPurlin p n (segmentCounted (onlySegment n y.transfer x bs)) (onlyWrite reg x bs s).2)) := by
  have hwritten := writeSegment_stack h.has h.target h.segmentRegion
  rw [h.stackWrite, h.written, if_neg (by decide)] at hwritten
  obtain ⟨a, hread⟩ := h.read
  rw [Machine.headStep, h.seq, Nat.mul_zero, Nat.add_zero, Nat.sub_zero, Nat.min_eq_right h.len, hread]
  dsimp only
  rw [headSegment_only h.len, h.room, h.link, hwritten]
  simp [notYet]

/-- Once the link has taken the one segment, the command completes and the purlin is idle. -/
theorem SendsOnly.pumpPurlin (h : SendsOnly p n y r x reg bs s) (hcmd : r.cmd = some c)
    (hsent : purlinRoom (sendSegment p y (onlySegment n y.transfer x bs) (onlyWrite reg x bs s).2) p y = true) :
    ∃ t, pumpPurlin p n s = complete c stOk 0 t ∧ HasPurlin p n (purlinIdle y) t := by
  have hw : HasPurlin p n y (onlyWrite reg x bs s).2 := h.stackWrite ▸ h.has.stackWrite _ _
  have hsend := hw.sendSegment y (onlySegment n y.transfer x bs)
  have hcounted := hsend.modPurlin (segmentCounted (onlySegment n y.transfer x bs))
  have hrun : (segmentCounted (onlySegment n y.transfer x bs) y).run
      = some { r with seq := r.seq + 1, bytes := r.bytes + x.len } := congrArg (Option.map _) h.run
  have hroom := (purlinRoom_modPurlin hsend.inRange n (segmentCounted (onlySegment n y.transfer x bs)) y).trans hsent
  rw [pumpPurlin_begun h.has h.run h.src, pumpSegments_step h.has h.run h.src (by rw [h.seq]; exact h.pos) h.headStep,
    sendSegment_modPurlin hw.inRange, pumpSegments_done hcounted hrun h.src (by rw [h.seq]; exact h.len) h.target hroom]
  obtain ⟨t, hdone, hidle⟩ := purlinDone_completes hcounted hrun hcmd
  exact ⟨t, hdone, hidle⟩

/-! ## What the checks of a command say -/

/-- PURLIN_SET passes its checks for one of the eight partitions. -/
theorem purlinSet_of_checks (h : firstFail (storeChecks 0x050A pay s) = stOk) : leAt pay 0 1 < 8 := by
  obtain ⟨-, h⟩ := ServiceFamily.firstFail_cons_ok h (by decide)
  obtain ⟨hform, -⟩ := ServiceFamily.firstFail_cons_ok h (by decide)
  simp only [Bool.or_eq_false_iff, Bool.not_eq_false'] at hform
  obtain ⟨⟨⟨⟨⟨⟨⟨⟨⟨hpart, -⟩, -⟩, -⟩, -⟩, -⟩, -⟩, -⟩, -⟩, -⟩ := hform
  exact EmbeddingFamily.part_lt_of_partExists hpart

/-- PURLIN_SEND passes its checks for one of the eight partitions, with bytes to send. -/
theorem purlinSend_of_checks (h : firstFail (storeChecks 0x050B pay s) = stOk) : leAt pay 0 1 < 8 ∧ 0 < leAt pay 8 8 := by
  obtain ⟨-, h⟩ := ServiceFamily.firstFail_cons_ok h (by decide)
  obtain ⟨hform, h⟩ := ServiceFamily.firstFail_cons_ok h (by decide)
  obtain ⟨-, h⟩ := ServiceFamily.firstFail_cons_ok h (by decide)
  obtain ⟨hlen, -⟩ := ServiceFamily.firstFail_cons_ok h (by decide)
  simp only [Bool.or_eq_false_iff, Bool.not_eq_false'] at hform
  obtain ⟨⟨⟨⟨hpart, -⟩, -⟩, -⟩, -⟩ := hform
  obtain ⟨hlen, -⟩ := Bool.or_eq_false_iff.mp hlen
  exact ⟨EmbeddingFamily.part_lt_of_partExists hpart, Nat.pos_of_ne_zero (of_decide_eq_false hlen)⟩

/-! ## Settlement of O44 -/

/-- Settles O44: a head's one segment is written and sent and then ends its transfer; a receiver writes the segment that is
in turn, and stops at, leaves or counts the others. -/
theorem purlinsCarrySegments : Obligations.PurlinsCarrySegments := by
  unfold Obligations.PurlinsCarrySegments
  intro s
  refine ⟨fun c pay old hold hparts => ⟨fun h => ?set,
      fun h htarget hlen hroom hread hsame hlink reg hreg hwrite hsent => ?send⟩,
    fun part g time old hparts => ⟨fun hn => ?nowhere, fun hn hold => ⟨fun hother => ?other, fun r hrole htransfer hrun =>
      ⟨fun hstop => ?stop, fun hkind hseq hok htarget reg hreg => ⟨fun hwait => ?waits, fun hdone => ?written⟩,
        fun hkind hseq hok htarget hregion hoff => ?image⟩⟩⟩⟩
  case set =>
    have hhas : HasPurlin (leAt pay 0 1) (leAt pay 1 1) old (takeCmd c s) :=
      HasPurlin.of_parts ⟨hparts ▸ purlinSet_of_checks h.2, hold⟩ (takeCmd_parts c s)
    refine ⟨_, exec_purlinSet h, ?_⟩
    rw [((hhas.dropInstall.endPurlinCmd _ _).modPurlin _).purlinOf]
    rfl
  case send =>
    obtain ⟨hp, hpos⟩ := purlinSend_of_checks h.2
    have hhas : HasPurlin (leAt pay 0 1) (leAt pay 1 1) old (takeCmd c s) :=
      HasPurlin.of_parts ⟨hparts ▸ hp, hold⟩ (takeCmd_parts c s)
    have hone : SendsOnly (leAt pay 0 1) (leAt pay 1 1) (sendBegun c (sendSource pay) old) _ (sendSource pay) reg _
        (modPurlin (leAt pay 0 1) (leAt pay 1 1) (sendBegun c (sendSource pay)) (takeCmd c s)) := {
      has := hhas.modPurlin _
      run := rfl
      src := rfl
      seq := rfl
      target := htarget
      pos := hpos
      len := hlen
      room := hroom
      link := hlink
      read := ⟨_, Prod.ext hread (Prod.ext rfl (Prod.ext rfl hsame))⟩
      regionField := (BitVec.toNat_ofNat _ _).trans (Nat.mod_eq_of_lt (leAt_lt pay 4 2))
      dstField := (BitVec.toNat_ofNat _ _).trans (Nat.mod_eq_of_lt (leAt_lt pay 0x18 8))
      region := (segmentRegion_modPurlin hhas.inRange _ _ _ _ _ _).trans hreg
      written := hwrite }
    obtain ⟨t, hdone, hidle⟩ := hone.pumpPurlin rfl hsent
    exact ⟨t, (exec_purlinSend h).trans (congrArg _ hdone), hidle.purlinOf⟩
  case nowhere => exact exec_segmentReceive_takes (takeSegment_nowhere hn _ _)
  all_goals have hhas : HasPurlin part.val g.purlin.toNat old (atTime time s) := ⟨part.isLt.trans_eq hparts.symm, hold⟩
  case other => exact exec_segmentReceive_takes (takeSegment_other hhas hn hother)
  all_goals have htail : TailTakes part.val old r g (atTime time s) := ⟨hhas, hn, hrole, htransfer, hrun⟩
  case stop =>
    exact ⟨_, exec_segmentReceive_takes (htail.takeSegment_stops (outOfTurn_of_seq hstop _ _ _)),
      (hhas.purlinStop g.seq.toNat).purlinOf⟩
  case waits =>
    exact exec_segmentReceive_waits
      (htail.takeSegment_waits (inTurn_of_region hkind hseq hok hreg) htarget hreg hwait)
  case written =>
    refine ⟨_, exec_segmentReceive_takes
      (htail.takeSegment_written (inTurn_of_region hkind hseq hok hreg) hkind htarget hreg hdone), ?_⟩
    rw [((hhas.stackWrite reg g).modPurlin _).purlinOf, segmentCounted, hrun]
    rfl
  case image =>
    refine ⟨_, exec_segmentReceive_takes
      (htail.takeSegment_image (inTurn_of_image hkind hseq hok htarget) hkind htarget hregion hoff), ?_,
      only_trans (modPurlin_only _ _ _ _) (modPurlin_only _ _ _ _)⟩
    rw [((hhas.modPurlin _).modPurlin _).purlinOf, imageGrown, segmentCounted, hrun]
    rfl

end Sys2Proof.WeightFamily
